-- ==== Sys2Proof/Word.lean ====
section
/-! DEFINITION. Words, fields of words and banks of like things. -/

namespace Sys2Proof

/-- A byte. -/
abbrev Byte := BitVec 8
/-- A register or instruction word. -/
abbrev W32 := BitVec 32
/-- A 64-bit word: TD0, a domain time in ns, a memory word. -/
abbrev W64 := BitVec 64

/-- Bit `i` of a word. -/
def bit {w : Nat} (x : BitVec w) (i : Nat) : Bool := x.getLsbD i

/-- The field of `len` bits of `x` from bit `lo` up. -/
def fld {w : Nat} (x : BitVec w) (lo len : Nat) : BitVec len := x.extractLsb' lo len

/-- The same field as a number. -/
def fldN {w : Nat} (x : BitVec w) (lo len : Nat) : Nat := (x.extractLsb' lo len).toNat

/-- A 32-bit word with the number `v` at bit `lo`. -/
def put (lo v : Nat) : W32 := BitVec.ofNat 32 (v * 2 ^ lo)

/-- A 32-bit word with the bit `b` at `lo`. -/
def putB (lo : Nat) (b : Bool) : W32 := if b then BitVec.ofNat 32 (2 ^ lo) else 0

/-- `old` with the bits of `mask` taken from `new`. -/
def mrg {w : Nat} (mask old new : BitVec w) : BitVec w := (old &&& ~~~mask) ||| (new &&& mask)

/-- 1 for true. -/
def b2n (b : Bool) : Nat := if b then 1 else 0

/-- A 64-bit value from its halves. -/
def join (hi lo : W32) : W64 := hi ++ lo

/-- The low half of a 64-bit value. -/
def lo32 (x : W64) : W32 := x.extractLsb' 0 32

/-- The high half of a 64-bit value. -/
def hi32 (x : W64) : W32 := x.extractLsb' 32 32

/-- `x` is at or after `y` on the 64-bit circle of ns (R88). -/
def notBefore (x y : W64) : Bool := (x - y).toNat < 2 ^ 63

/-- A bank of `n` like things. -/
abbrev Bank (α : Type) (n : Nat) := Vector α n

/-- Member `i` of a bank. -/
def Bank.at {α : Type} {n : Nat} (v : Bank α n) (i : Fin n) : α := v[i]

/-- The bank with member `i` replaced. -/
def Bank.upd {α : Type} {n : Nat} (v : Bank α n) (i : Fin n) (x : α) : Bank α n := v.set i.val x i.isLt

/-- The bank with member `i` changed by `f`. -/
def Bank.mod {α : Type} {n : Nat} (v : Bank α n) (i : Fin n) (f : α → α) : Bank α n := v.upd i (f (v.at i))

/-- A bank of `n` copies. -/
def Bank.fill {α : Type} (n : Nat) (x : α) : Bank α n := Vector.replicate n x

/-- The sum of the bits `f i` at position `i`, as a 32-bit summary register. -/
def sumBits (n : Nat) (f : Nat → Bool) : W32 :=
  (List.range n).foldl (fun acc i => acc ||| putB i (f i)) 0

/-- The index `k` of a bank of `n`, where it exists. -/
def idx? (n k : Nat) : Option (Fin n) := if h : k < n then some ⟨k, h⟩ else none

/-! Sparse words: a list of (key, value) pairs with rising keys and no entry of the default value. -/

/-- The value at `k`, the default where nothing is listed. -/
def sparseGet {α : Type} (d : α) : List (Nat × α) → Nat → α
  | [], _ => d
  | (a, v) :: r, k => if a = k then v else if k < a then d else sparseGet d r k

/-- The list with the value at `k` removed. -/
def sparseDel {α : Type} : List (Nat × α) → Nat → List (Nat × α)
  | [], _ => []
  | (a, v) :: r, k => if a = k then r else if k < a then (a, v) :: r else (a, v) :: sparseDel r k

/-- The list with the value at `k` put in. -/
def sparseIns {α : Type} : List (Nat × α) → Nat → α → List (Nat × α)
  | [], k, x => [(k, x)]
  | (a, v) :: r, k, x =>
    if a = k then (k, x) :: r else if k < a then (k, x) :: (a, v) :: r else (a, v) :: sparseIns r k x

/-- The list after a write of `x` at `k`: an entry of the default value is not kept. -/
def sparseSet {α : Type} [DecidableEq α] (d : α) (m : List (Nat × α)) (k : Nat) (x : α) : List (Nat × α) :=
  if x = d then sparseDel m k else sparseIns m k x

/-- The canonical form of a sparse list: keys rise strictly and no value is the default. -/
def sparseWf {α : Type} [DecidableEq α] (d : α) : List (Nat × α) → Bool
  | [] => true
  | [(_, v)] => decide (v ≠ d)
  | (a, v) :: (b, w) :: r => decide (v ≠ d) && decide (a < b) && sparseWf d ((b, w) :: r)

end Sys2Proof
end

