-- ==== Sys2Proof/Machine/Rec/Isa.lean ====
section
/-! DEFINITION. The macro instructions by name (spec/10, spec/11) and the operations that both instruction sets share. -/

namespace Sys2Proof.Machine

/-- The macro instructions (R276). -/
inductive Mn where
  | add | sub | adc | sbc | addt | subt | cmp | and | or | xor | andn | orn | tst | sll | srl | sra | ror
  | mul | mulhu | mulhs | divu | divs | remu | rems | mins | maxs | minu | maxu | clz | ctz | popc | bswap | brev
  | slts | sltu
  | slli | srli | srai | rori | extu | exts | ins
  | addi | andi | ori | xori | lui | cmpi | tsti
  | nop | rds | wrs
  | ldb | ldbu | ldh | ldhu | ldw | ldwu | ldp | stb | sth | stw | stwu | stp
  | bcc | bz | bnz | beq | bne | j | call | jr | callr | ret | wopen | wclose | trap
  | now | conv | exp | enql | enqe | pushe | deq | trydeq | brecv | fire | waite | trye
  | ll | sc | clrex | rdc | wrc | wspill | frel
  | fadd | fsub | fmul | fdiv | fsqrt | fma | fneg | fabs | fmin | fmax | fcmp | fcpy | frint
  | fmvgq | fmvqg | fcvts | fcvtu | ftos | ftou | fld | fst | rdfc | wrfc
  | yield | stop | cux
  deriving DecidableEq, Repr

/-- Operations on two words that macro instructions and microwords share (R277, R328). -/
inductive AluOp where
  | add | sub | adc | sbc | and | or | xor | andn | orn | sll | srl | sra | ror | mul | mulhu | mulhs
  | mins | maxs | minu | maxu | clz | ctz | popc | bswap | brev | slts | sltu | mov | not
  deriving DecidableEq, Repr

/-- The flags N, Z, C and V (R273, R329). -/
structure Nzcv where
  n : Bool
  z : Bool
  c : Bool
  v : Bool
  deriving DecidableEq, Repr

/-- Four words of a register quad (R305). -/
structure Quad where
  w0 : W32
  w1 : W32
  w2 : W32
  w3 : W32
  deriving DecidableEq, Repr

/-- The paths of R305. -/
inductive Path where
  | fifo (e : Fin 64) (k : Fin 8)
  | cpl (c : Fin 128)
  | mbox (m : Fin 4) (stamped : Bool)
  | cell (k : Fin 16)
  | node (x : Fin 2)
  deriving DecidableEq, Repr

/-- What customer microcode has taken before its commit: an entry of a path, or a count of an event input. -/
inductive Taken where
  | entry (p : Path) (x : Quad)
  | event (i : Nat)
  deriving DecidableEq, Repr

/-- The micro-registers and micro-flags of an instruction that microcode carries out (R327). `vend` says that the microcode
is the vendor's, in ROM and patch RAM; `taken` is what it has taken so far. -/
structure Micro where
  vend : Bool
  ir : W32
  npc : W32
  u : Bank W32 16
  cnt : W32
  mdh : W32
  fl : Nzcv
  xf : Bool
  scok : Bool
  none_ : Bool
  cmt : Bool
  ret : List Nat
  upc : Nat
  cost : Nat
  taken : List Taken
  deriving DecidableEq, Repr

end Sys2Proof.Machine
end

