-- ==== Sys2Proof/Machine/Rec/Time.lean ====
section
/-! DEFINITION. Records of the Beryl timebase, its domains and the lane cells (spec/03 to spec/05). -/

namespace Sys2Proof.Machine

/-- An instant of TD0: ns and quarter-ns (R89, R94). -/
structure Instant where
  ns : W64
  q : BitVec 2
  deriving DecidableEq, Repr

/-- Beryl's states (R91). -/
inductive BerylSt where
  | reset | waitRef | ready | run | lost
  deriving DecidableEq, Repr

/-- A segment of a domain (R103): start instant as a number of ns that counts TD0 with its wraps, start value (64.40), rate
in 2^-40. -/
structure Seg where
  gs : Nat
  vs : BitVec 104
  r : Int
  deriving DecidableEq, Repr

/-- The commands that change a segment (R105). -/
inductive TdCode where
  | set | step | slew | rate
  deriving DecidableEq, Repr

/-- A command that waits for its instant, counted as in `Seg`: PENDING with AT, or written with NOW and due at the next ns.
`owner` is the deterministic channel whose store gave it. -/
structure PendCmd where
  code : TdCode
  arg : W64
  slew : Nat
  at_ : Nat
  late : Bool
  isNow : Bool
  owner : Option (Fin 256)
  deriving DecidableEq, Repr

/-- A slew that runs (R105, R106), from TD0 = `from_` to `endAt`, and the cut that CANCEL asked for (R107). -/
structure Slew where
  arg : Int
  rate : Nat
  from_ : Nat
  endAt : Nat
  cut : Option Nat
  cutLate : Bool
  cutOwner : Option (Fin 256)
  deriving DecidableEq, Repr

/-- One time domain with its registers (R103 to R115). `pend` holds the commands that wait, in the order in which they were
accepted: those written with NOW, and at most one with AT behind them. -/
structure Domain where
  prev : Seg
  cur : Seg
  rate : Int
  pend : List PendCmd
  slew : Option Slew
  arg : W64
  at_ : W64
  slewReg : W32
  cmderr : Nat
  applied : Bool
  late : Bool
  slewEnd : Bool
  slewCut : Bool
  ie : W32
  snap : BitVec 80
  deriving DecidableEq, Repr

/-- The shadow of a NOW pair held for a requester (R96). -/
structure NowShadow where
  dom : Fin 8
  hi : W32
  fr : W32
  deriving DecidableEq, Repr

/-- Beryl (R87 to R116). `wraps` counts the wraps of TD0, `atWrap` says that TD0 has wrapped in the ns at which it is, `bref` is
the presence of BREF. -/
structure Beryl where
  st : BerylSt
  td0 : W64
  wraps : Nat
  atWrap : Bool
  q : BitVec 2
  bref : Bool
  cfg : W32
  wrap : Bool
  lost : Bool
  snapCnt : BitVec 16
  snapAt : Option W64
  load : W64
  snap : W64
  convIn : W64
  convCtrl : W32
  convOut : BitVec 80
  stale : Bool
  doms : Bank Domain 8
  shadows : Bank (Option NowShadow) 18
  deriving DecidableEq, Repr

/-- The fixed segment of TD0 and of every domain after reset (R103). -/
def Seg.zero : Seg := { gs := 0, vs := 0, r := 0 }

def Domain.reset : Domain :=
  { prev := .zero, cur := .zero, rate := 0, pend := [], slew := none, arg := 0, at_ := 0, slewReg := 0,
    cmderr := 0, applied := false, late := false, slewEnd := false, slewCut := false, ie := 0, snap := 0 }

/-- Beryl in the reset of the common region (R91, R112). -/
def Beryl.reset : Beryl :=
  { st := .reset, td0 := 0, wraps := 0, atWrap := false, q := 0, bref := false, cfg := 0x100, wrap := false, lost := false, snapCnt := 0, snapAt := none,
    load := 0, snap := 0, convIn := 0, convCtrl := 0, convOut := 0, stale := false,
    doms := Bank.fill 8 .reset, shadows := Bank.fill 18 none }

/-- The operations of an action entry (R139). -/
inductive ActOp where
  | drive | float | toggle | rest | sample | mark
  deriving DecidableEq, Repr

/-- An entry of a lane's action queue (R138) with its entry instant ge (R118) and, where the late policy has
set one, the instant at which it executes instead of its due instant (R142, R143). `passed` says that a load of TD0 has
carried TD0 past its due instant (R144). -/
structure ActEntry where
  v : Bool
  op : ActOp
  td : Fin 8
  ns : BitVec 40
  ge : W64
  execAt : Option W64
  passed : Bool
  deriving DecidableEq, Repr

/-- Kinds of capture (R145), in the order R149 gives entries of equal stamps. -/
inductive CapKind where
  | edge | strobe | sample | mark
  deriving DecidableEq, Repr

/-- An entry of a capture queue (R145). -/
structure CapEntry where
  ovfb : Bool
  dis : Bool
  kind : CapKind
  v : Bool
  stamp : Instant
  deriving DecidableEq, Repr

/-- A capture taken and not yet committed (R149). Sampled values are read from the input history at the commit, at the
quarter-ns offsets `at_` from the stamp that the configuration gave as it was taken (R146, R148); without such offsets `v` and
`dis` are its values. `src` is the lane whose edge made it. -/
structure PendCap where
  kind : CapKind
  v : Bool
  dis : Bool
  stamp : Instant
  commitAt : W64
  src : Nat
  at_ : List Int
  deriving DecidableEq, Repr

/-- The underlying state of a lane; HOLD is this state while Beryl is not in RUN (R157). -/
inductive LaneSt where
  | off | run | fault
  deriving DecidableEq, Repr

/-- The three output signals of a lane (R139). -/
structure PadOut where
  out : Bool
  oe : Bool
  pu : Bool
  deriving DecidableEq, Repr

/-- A lane cell (R138 to R163). `cfg` holds LNn_CFG without REST, which the always-on latch holds. `held` says that the lane
is in HOLD, `lateAt` is the ns of the last late entry and `lateNs` the late entries of that ns, `faultAt` the instants of the
entries into FAULT to come, `mark` the watermark that the lane had reached when EN was last set, and `hist` the changes of LN_IN,
newest first. -/
structure Lane where
  cfg : W32
  rest : BitVec 2
  st : LaneSt
  held : Bool
  aq : List ActEntry
  cq : List CapEntry
  pend : List PendCap
  ovfNext : Bool
  late : Bool
  order : Bool
  covf : Bool
  cfgIgn : Bool
  lateCnt : BitVec 8
  lateAt : Option W64
  lateNs : Nat
  fcause : Nat
  faultNs : W32
  twm : Nat
  mark : Option W64
  lastAccept : Option W64
  faultAt : List W64
  level : Bool
  hist : List (Instant × Bool)
  accLevel : Bool
  cand : Option Instant
  pad : PadOut
  driven : Bool
  deriving DecidableEq, Repr

/-- The output levels a rest code stands for (R76). -/
def restPad (c : BitVec 2) : PadOut :=
  match c with
  | 0 => { out := false, oe := false, pu := false }
  | 1 => { out := false, oe := true, pu := false }
  | 2 => { out := true, oe := true, pu := false }
  | 3 => { out := false, oe := false, pu := true }

/-- A lane whose logic has lost its state, with the rest latch `rest` and the pin level kept (R157).
DESIGN CHOICE (log 9): TWM of a lane that has not been enabled, which R149 leaves open, is 6. -/
def Lane.reset (rest : BitVec 2) (level : Bool) : Lane :=
  { cfg := 0, rest := rest, st := .off, held := false, aq := [], cq := [], pend := [], ovfNext := false, late := false,
    order := false, covf := false, cfgIgn := false, lateCnt := 0, lateAt := none, lateNs := 0, fcause := 0, faultNs := 0, twm := 6, mark := none,
    lastAccept := none, faultAt := [], level := level, hist := [], accLevel := level,
    cand := none, pad := restPad rest, driven := false }

end Sys2Proof.Machine
end

