-- ==== Sys2Proof/Machine/Rec/Guardian.lean ====
section
/-! DEFINITION. Records of the two guardian channels (spec/15_time_triggered_buses.md). -/

namespace Sys2Proof.Machine

/-- States of a guardian channel but for HOLD, which is this state while Beryl is not in RUN (R415, R416). -/
inductive GdSt where
  | off | wait | run | draining | error
  deriving DecidableEq, Repr

inductive GdCause where
  | none | table | range | ecc
  deriving DecidableEq, Repr

/-- Causes of a suppression (R408). -/
inductive SuppCause where
  | none | fit | noSync | dev | ecc
  deriving DecidableEq, Repr

inductive BrSt where
  | off | active | isolated
  deriving DecidableEq, Repr

/-- A branch (R400 to R403). `rxd` is the level of its RXD input and `edge` the capture stamp of the last edge of it, none
before the first; `hist` holds the truncations of the current cycle first and of the cycles before it; `readmit` is the ns of TD0 of a
READMIT, with whether the branch was ISOLATED then. -/
structure Branch where
  rxd : Bool
  edge : Option Instant
  st : BrSt
  trunc : Bool
  block : Bool
  multi : Bool
  isoF : Bool
  total : BitVec 8
  hist : List Nat
  readmit : Option (W64 × Bool)
  deriving DecidableEq, Repr

/-- The open window of an RX slot (R400 to R402): the slot, its cycle, its branch; `relay` while a relay runs,
`relayed` once one has run, `dead` when the window opened while the owner's RXD was 0. -/
structure Window where
  slot : Nat
  cyc : Nat
  branch : Fin 16
  relay : Bool
  relayed : Bool
  dead : Bool
  deriving DecidableEq, Repr

/-- A frame that the decoder follows (R399, R411): its stamp, its slot (NSLOT or above where no entry of the table holds
it) and cycle, that its relay was cut (`trunc`), that its input has ended with its window (`cut`), and the lengths, in quarters of a
ns, of the levels that RXD has held since the stamp, the first of them 0. -/
structure Decode where
  stamp : Instant
  slot : Nat
  cyc : Nat
  branch : Fin 16
  trunc : Bool
  cut : Bool
  runs : List Nat
  deriving DecidableEq, Repr

/-- A frame of the local transmitter that has passed its latch (R407). -/
structure TxFrame where
  slot : Nat
  cyc : Nat
  bytes : List Byte
  deriving DecidableEq, Repr

/-- A frame that the local transmitter sends: the branches with TXEN 1, the bytes, its start and end in the domain, and how many of
its half-bits a step back of the domain has left behind. -/
structure LineTx where
  mask : BitVec 16
  start : W64
  bytes : List Byte
  fin : W64
  from_ : Nat
  deriving DecidableEq, Repr

/-- The status of a buffer pair (R406, R409, R420). `pend` is a pending commit with its cycle count where CYCV was 1. -/
structure BufStat where
  nd : Bool
  front : Bool
  err : Bool
  last : Byte
  seq : BitVec 4
  pend : Option (Option Byte)
  deriving DecidableEq, Repr

/-- A guardian channel (R393 to R421). `table` and `bufs` are sparse words, `tunc` and `bunc` list the words of them
that hold an uncorrectable error, `sent` the slots and cycles whose frames have been sent or suppressed since the enable. -/
structure Guardian where
  cfg : W32
  st : GdSt
  cause : GdCause
  skip : Bool
  ecc : Bool
  qovf : Bool
  cfgIgn : Bool
  cfgErr : Bool
  line : W32
  cycLen : W32
  cyc0 : W64
  gm : W32
  iso : W32
  nslot : W32
  brMask : W32
  cyc : Nat
  nodeCfg : W32
  nodeDly : W32
  dev : W32
  devV : Bool
  suppCnt : BitVec 8
  sCause : SuppCause
  cmErr : Bool
  late : Bool
  supp : Bool
  branches : Bank Branch 16
  bstat : Bank BufStat 64
  table : List (Nat × W32)
  bufs : List (Nat × W32)
  tunc : List Nat
  bunc : List Nat
  win : Option Window
  dec : Option Decode
  ready : List TxFrame
  tx : Option LineTx
  sent : List (Nat × Nat)
  lastSync : Option Nat
  rxq : List Quad
  qlost : Bool
  twg : Nat
  mark : W64
  enRec : Option W32
  deriving DecidableEq, Repr

def Branch.reset : Branch :=
  { rxd := true, edge := none, st := .off, trunc := false, block := false, multi := false, isoF := false, total := 0, hist := [],
    readmit := none }

def BufStat.reset : BufStat := { nd := false, front := false, err := false, last := 0, seq := 0, pend := none }

def Guardian.reset : Guardian :=
  { cfg := 0, st := .off, cause := .none, skip := false, ecc := false, qovf := false, cfgIgn := false,
    cfgErr := false, line := 0, cycLen := 0, cyc0 := 0, gm := 0, iso := 0x1003, nslot := 0, brMask := 0, cyc := 0,
    nodeCfg := 0, nodeDly := 0, dev := 0, devV := false, suppCnt := 0, sCause := .none, cmErr := false,
    late := false, supp := false, branches := Bank.fill 16 .reset, bstat := Bank.fill 64 .reset, table := [],
    bufs := [], tunc := [], bunc := [], win := none, dec := none, ready := [], tx := none, sent := [],
    lastSync := none, rxq := [], qlost := false, twg := 0, mark := 0, enRec := none }

end Sys2Proof.Machine
end

