-- ==== Sys2Proof/Machine/Rec/Arb.lean ====
section
/-! DEFINITION. Records of the arbitrated-bus cells (spec/16_arbitrated_buses.md). -/

namespace Sys2Proof.Machine

/-- States of a cell but for HOLD, which is this state while Beryl is not in RUN (R442). -/
inductive AbSt where
  | off | integ | run | busOff | draining | fault
  deriving DecidableEq, Repr

inductive AbCause where
  | none | timing | mode
  deriving DecidableEq, Repr

/-- States of a transmit buffer (R447). -/
inductive TbSt where
  | idle | pending | active | sent | cancelled | dropped | tooLate | failed
  deriving DecidableEq, Repr

/-- A transmit buffer: its state, that it is due, that it waits to retransmit, that a cancel waits for the frame's end,
and the instant at which EXEC_FLAG makes it due (R429 to R432). -/
structure TxBuf where
  st : TbSt
  due : Bool
  retry : Bool
  cancel : Bool
  execAt : Option W64
  deriving DecidableEq, Repr

/-- The frame in progress (R429, R437, R443): the capture stamp of its SOF edge, the instant its bits count from, the buffer
offered at it, the filters in force for it, the capture stamps of the edges of AB_RXD after SOF, and the instant at which it ends for
the cell, where that is fixed: it has been received valid, or the cell stops sending it at the next bit. -/
structure AbFrame where
  es : Instant
  sof : W64
  offered : Option (Fin 8)
  filters : List (Nat × W32)
  edges : List Instant
  endAt : Option W64
  deriving DecidableEq, Repr

/-- An error of the bus as the cell meets it (R438): an error in a frame with its LEC, whether the cell transmits the
frame, whether a passive flag met no dominant bit, whether it is a stuff error of arbitration whose recessive stuff
bit was read dominant, and whether the frame had been acknowledged before (R439); a dominant bit after the cell's own
error flag; a bit error while it sends an active error or overload flag; a run of dominant bits after a flag; a dominant
bit in intermission, to which the cell reacts with an overload frame (R422); the end of the error frame. -/
inductive AbErr where
  | frame (lec : Fin 7) (tx quiet arbStuff acked : Bool)
  | primary
  | flagBit (tx : Bool)
  | run (tx : Bool)
  | overload
  | ended
  deriving DecidableEq, Repr

/-- What a start of frame on the bus brings (R429): the start, with the capture stamp of its edge and whether the cell
starts it; an edge of AB_RXD in the frame, by its capture stamp (R424); or the loss of arbitration by the buffer offered. -/
inductive AbSofEv where
  | start (es : Instant) (own : Bool)
  | edge (e : Instant)
  | lost
  deriving DecidableEq, Repr

/-- An error or overload flag that a cell drives on AB_TXD: the instant of the first bit, and the levels (true is recessive) with their lengths in ns. -/
structure AbDrive where
  at_ : W64
  bits : List (Bool × Nat)
  deriving DecidableEq, Repr

/-- A frame as it is received: word 0 of R427, BRS, ESI, DLC and the data bytes. -/
structure AbRx where
  w0 : W32
  brs : Bool
  esi : Bool
  dlc : Fin 16
  data : List Byte
  deriving DecidableEq, Repr

/-- A cell (R422 to R448). The arrays are sparse words, and the `bad` lists name words with an uncorrectable error. `errFrame`
says that an error frame is in progress (R430, R443), `loop` holds the loop delay measured in the last FD frame sent (R425),
`drive` the error or overload flag that it drives on AB_TXD, and `qbad` those entries of the receive queue that hold an
uncorrectable error. -/
structure AbCell where
  cfg : W32
  st : AbSt
  cause : AbCause
  txF : Bool
  cfgErr : Bool
  cfgIgn : Bool
  qovf : Bool
  late : Bool
  alone : Bool
  boff : Bool
  epass : Bool
  pxev : Bool
  nbt : W32
  dbt : W32
  ackRun : Nat
  rec_ : Nat
  tec : Nat
  lec : Nat
  tbs : Bank TxBuf 8
  rxnd : BitVec 16
  rxovr : BitVec 16
  tbw : List (Nat × W32)
  rbw : List (Nat × W32)
  filt : List (Nat × W32)
  tbad : List Nat
  rbad : List Nat
  fbad : List Nat
  rxq : List Quad
  qbad : List Quad
  qlost : Bool
  frame : Option AbFrame
  errFrame : Bool
  loop : Option Nat
  drive : Option AbDrive
  faultAt : Option W64
  recovering : Bool
  twa : Nat
  enAt : W64
  mark : W64
  enRec : Option W32
  deriving DecidableEq, Repr

def TxBuf.reset : TxBuf := { st := .idle, due := false, retry := false, cancel := false, execAt := none }

def AbCell.reset : AbCell :=
  { cfg := 0, st := .off, cause := .none, txF := false, cfgErr := false, cfgIgn := false, qovf := false,
    late := false, alone := false, boff := false, epass := false, pxev := false, nbt := 0, dbt := 0, ackRun := 0,
    rec_ := 0, tec := 0, lec := 0, tbs := Bank.fill 8 .reset, rxnd := 0, rxovr := 0, tbw := [], rbw := [],
    filt := [], tbad := [], rbad := [], fbad := [], rxq := [], qbad := [], qlost := false, frame := none, errFrame := false, loop := none,
    drive := none, faultAt := none,
    recovering := false, twa := 0, enAt := 0, mark := 0, enRec := none }

end Sys2Proof.Machine
end

