-- ==== Sys2Proof/Machine/Rec/Host.lean ====
section
/-! DEFINITION. Records of the requesters, the host target port, the transfer engine, the key port and the pins
(spec/02_block_boundary.md). -/

namespace Sys2Proof.Machine

/-- Who makes an access (R30, R96). -/
inductive Master where
  | host | debugger | sq (n : Fin 16) | xfer | gasp | loader
  deriving DecidableEq, Repr

/-- A port-A access that the bank held pending together with a port-B access (R376): requester code and direction,
and the scratchpad offset of its word. -/
structure PortA where
  areq : Fin 18
  write : Bool
  off : BitVec 21
  deriving DecidableEq, Repr

/-- An access as the checks of R57 see it: the master and its secure attribute. `hw` marks the bits of its register that the
hardware sets or clears in the same access (R22, R23), `coll` names the port-A accesses that port-B accesses made within it meet
(R376). -/
structure Req where
  who : Master
  sec : Bool
  hw : W32 := 0
  coll : List PortA := []
  deriving DecidableEq, Repr

/-- The causes of R57. -/
inductive Cause where
  | unmapped | width | align | halfOff | secure | lifecycle | guard | ecc | disabled | reset
  deriving DecidableEq, Repr

/-- The code of a cause (R57). -/
def Cause.code : Cause → Nat
  | .unmapped => 1
  | .width => 2
  | .align => 3
  | .halfOff => 4
  | .secure => 5
  | .lifecycle => 6
  | .guard => 7
  | .ecc => 8
  | .disabled => 9
  | .reset => 10

/-- The response code of a refusal (R55, R57). -/
def Cause.resp : Cause → Nat
  | .unmapped => 2
  | .guard => 3
  | _ => 1

/-- A response that waits on the HT response channel (R53). -/
structure HostResp where
  tag : BitVec 6
  status : Nat
  data : W64
  deriving DecidableEq, Repr

/-- A request as it is transferred (R47, R48), with the `hw` and `coll` of its access. -/
structure HostReq where
  write : Bool
  size : BitVec 2
  addr : BitVec 26
  data : W64
  tag : BitVec 6
  sec : Bool
  hw : W32
  coll : List PortA := []
  deriving DecidableEq, Repr

/-- A write beat that the engine has handed to the initiator adapter (R62): the tag of its burst, HI_WD_DATA, HI_WD_LAST. -/
structure WdBeat where
  tag : Fin 8
  data : W64
  last : Bool
  deriving DecidableEq, Repr

/-- The recorded refused access (R58, R68, R69). -/
structure HostErr where
  addr : BitVec 26
  tag : BitVec 6
  cause : Cause
  size : BitVec 2
  write : Bool
  sec : Bool
  ovf : Bool
  deriving DecidableEq, Repr

inductive XfSt where
  | off | idle | busy | draining | error
  deriving DecidableEq, Repr

inductive XfCause where
  | none | param | resp | timeout | ecc
  deriving DecidableEq, Repr

/-- A burst that is outstanding (R61, R62): its tag, block offset, beats, beats received and issue instant. -/
structure Burst where
  tag : Fin 8
  blk : Nat
  sys : Nat
  beats : Nat
  got : Nat
  issued : W64
  deriving DecidableEq, Repr

/-- The transfer engine (R60 to R73). `sys`, `blk` and `len` are the registers, the `l` fields what GO latched. `irq` says that source 466 is
raised. `wd` holds the write beats that the interconnect has not taken, in the order of the HI_WD channel (R62). -/
structure Xfer where
  st : XfSt
  sys : Nat
  blk : Nat
  len : Nat
  en : Bool
  dir : Bool
  abort : Bool
  cfg : W32
  cause : XfCause
  done : Bool
  irq : Bool
  lsys : Nat
  lblk : Nat
  llen : Nat
  ldir : Bool
  next : Nat
  remain : Nat
  stopped : Bool
  bursts : List Burst
  wd : List WdBeat
  deadTags : List (Fin 8)
  deriving DecidableEq, Repr

/-- The host target port (R47 to R59) and the reset inputs of the two adapters. `reqs` are the requests that have been
transferred and have not passed into the block, `rstN` and `hiRstN` the levels of HT_RST_N and HI_RST_N. -/
structure HostPort where
  rstN : Bool
  hiRstN : Bool
  reqs : List HostReq
  resps : List HostResp
  err : Option HostErr
  deriving DecidableEq, Repr

/-- The key port handshake (R80, R81): the levels of KP_REQ and KP_ACK, a key read that waits for KP_ACK to be 0, the
instant at which KP_REQ rose, and the captured key, which no register shows. -/
structure KeyPort where
  req : Bool
  ack : Bool
  waits : Bool
  since : W64
  key : BitVec 256
  deriving DecidableEq, Repr

def Xfer.reset : Xfer :=
  { st := .off, sys := 0, blk := 0, len := 0, en := false, dir := false, abort := false, cfg := 0,
    cause := .none, done := false, irq := false, lsys := 0, lblk := 0, llen := 0, ldir := false, next := 0, remain := 0,
    stopped := false, bursts := [], wd := [], deadTags := [] }

def HostPort.reset : HostPort := { rstN := true, hiRstN := true, reqs := [], resps := [], err := none }

/-- The port after a reset of the block: the pins keep their levels. -/
def HostPort.clear (h : HostPort) : HostPort := { h with reqs := [], resps := [], err := none }

def KeyPort.reset : KeyPort := { req := false, ack := false, waits := false, since := 0, key := 0 }

/-- The key port outside a key read: KP_REQ is 0, the key is overwritten with zeros, and KP_ACK keeps its level. -/
def KeyPort.clear (k : KeyPort) : KeyPort := { KeyPort.reset with ack := k.ack }

end Sys2Proof.Machine
end

