-- ==== Sys2Proof/Machine/Rec/Stream.lean ====
section
/-! DEFINITION. Records of the stream fabric (spec/06_stream_fabric.md). -/

namespace Sys2Proof.Machine

/-- States of a stream channel (R186). -/
inductive SfSt where
  | off | idle | active | draining | error
  deriving DecidableEq, Repr

inductive SfCause where
  | none | desc | ecc
  deriving DecidableEq, Repr

/-- State of a bit-stuff or line-coding unit within a frame (R183, R184): the run length so far, the last bit,
whether the next received bit is a stuff bit, and the NRZI level. -/
structure CodeSt where
  run : Nat
  last : Bool
  due : Bool
  level : Bool
  deriving DecidableEq, Repr

/-- The frame that a TX channel works on (R169 to R171). `first` and `desc` are scratchpad offsets, `left` bytes of
the buffer at `buf` are still to fetch, `bits` have been coded and wait for their entry. -/
structure TxWork where
  first : Nat
  desc : Nat
  fetched : Bool
  buf : Nat
  left : Nat
  eof : Bool
  crcOn : Bool
  evt : Bool
  crc : Nat
  code : CodeSt
  nib : List Bool
  bits : List Bool
  fin : Bool
  closed : Bool
  started : Bool
  deriving DecidableEq, Repr

/-- The frame that an RX channel has open (R168, R173 to R177). -/
structure RxWork where
  stamp : Option (BitVec 42)
  abort : Bool
  trunc : Bool
  codeErr : Bool
  code : CodeSt
  lc : List Bool
  byteBits : List Bool
  tail : List Byte
  crc : Nat
  total : Nat
  stored : Nat
  word : List Byte
  dropped : Bool
  deriving DecidableEq, Repr

/-- A stream channel (R164 to R192). Pointers are byte offsets. `abortEnt` is an ABORT entry that waits for room in the engine's
FIFO, `fail` the error that the channel enters ERROR with once that entry is pushed: its cause and the offset that its record
names. -/
structure Stream where
  cfg : W32
  st : SfSt
  cause : SfCause
  cfgErr : Bool
  cfgIgn : Bool
  fifoErr : Bool
  rpErr : Bool
  trunc : Bool
  codeErr : Bool
  crcErr : Bool
  rOvf : Bool
  addr : W32
  len : W32
  ring : W32
  wp : Nat
  rp : Nat
  cpl : List W32
  recs : List W32
  evt : W32
  frames : BitVec 16
  drops : BitVec 16
  cur : Nat
  queued : Bool
  laddr : Nat
  llen : Nat
  tx : Option TxWork
  rx : Option RxWork
  enRec : Option W32
  abortEnt : Bool
  fail : Option (SfCause × Nat)
  deriving DecidableEq, Repr

/-- A CRC unit (R181, R182). -/
structure CrcUnit where
  cfg : W32
  poly : W32
  init : W32
  xor : W32
  res : W32
  deriving DecidableEq, Repr

def CodeSt.start (level : Bool) : CodeSt := { run := 0, last := false, due := false, level := level }

def Stream.reset : Stream :=
  { cfg := 0, st := .off, cause := .none, cfgErr := false, cfgIgn := false, fifoErr := false, rpErr := false,
    trunc := false, codeErr := false, crcErr := false, rOvf := false, addr := 0, len := 0, ring := 0,
    wp := 0, rp := 0, cpl := [], recs := [], evt := 0, frames := 0, drops := 0, cur := 0, queued := false,
    laddr := 0, llen := 0, tx := none, rx := none, enRec := none, abortEnt := false,
    fail := none }

def CrcUnit.reset : CrcUnit := { cfg := 0, poly := 0, init := 0, xor := 0, res := 0 }

end Sys2Proof.Machine
end

