-- ==== Sys2Proof/Syntax.lean ====
section
/-! DEFINITION. The commands of the block, one constructor per row of spec/opcode_table.json in the table's order.

Operands. `t` is the instant of TD0 at which an event comes (R87), and the command first advances TD0 to it; a command without
`t` comes at the present instant. `r` is the requester of a register access with its secure attribute, judged by R57; a
register write without `r` has been accepted. `v` is the written word. `n`, `lane`, `ch`, `k`, `x`, `g`, `h`, `w`, `c` and `tgt`
number the unit. A macro instruction on sequencer `n` is the one at its pc: its register and immediate operands are those of
the word that stands there. `level` is the level that a pin takes; `hw` marks the bits of a register that the hardware updates
in the same access (R22, R23); `pass` says whether the requests that wait in the adapter pass into the block. -/

namespace Sys2Proof

open Sys2Proof.Machine

/-- The commands. -/
inductive Instr where
  /-- R20: A write to a register field that has no behaviour of its own sets or ignores the field according to its
  access code. -/
  | registerWrite (r : Req) (addr : BitVec 26) (v : W32)
  /-- R51: A request is transferred on the host target port, accepted in order, executed and answered in order. -/
  | hostRequest (t : Instant) (r : HostReq) (pass : Bool)
  /-- R53: A ready response is transferred on the HT response channel once HT_CLK runs and HT_RSP_READY is 1. -/
  | hostResponse
  /-- R53: HT_RST_N or HI_RST_N resets only its adapter, which drops requests not yet passed and discards pending
  responses. -/
  | adapterReset (target level : Bool)
  /-- R59: Writing 1 to HP_ERR_INFO.VALID clears both error registers and re-arms recording. -/
  | hpErrClear
  /-- R64: Setting HP_XF_CTRL.EN moves the transfer engine from OFF to IDLE. -/
  | xfEnable
  /-- R65: GO in IDLE latches SYS, BLK, LEN and DIR and starts a transfer, or enters ERROR with cause PARAM. -/
  | xfGo (dir : Bool)
  /-- R64: Clearing EN turns the engine OFF, or moves it to DRAINING with or without ABORT. -/
  | xfDisable (abort : Bool)
  /-- R63: The engine issues the next burst, sized by BURST, the remainder and the 4 KiB boundary, when fewer than
  MAXOUT are outstanding. -/
  | xfBurstIssue (t : Instant) (tag : Fin 8) (taken : Nat)
  /-- R62: A response beat of a burst is received, and the last response completes the transfer or a drain. -/
  | xfBurstResponse (tag : Fin 8) (status : BitVec 2) (data : W64) (last : Bool) (taken : Nat)
  /-- R73: A burst response not received within TIMEOUT µs of TD0 sends the engine to ERROR with cause TIMEOUT. -/
  | xfTimeout (t : Instant)
  /-- R64: Clearing DONE in ERROR returns the transfer engine to IDLE and clears CAUSE. -/
  | xfDoneClear
  /-- R147: A level change on LN_IN is stamped and, if the filter accepts it, forms an EDGE or strobe capture. -/
  | laneInputEdge (t : Instant) (lane : Fin 256) (level : Bool)
  /-- R79: A low level on SUPPLY_OK of at least 8 ns starts the supply-low condition within 20 ns. -/
  | supplyOkFall (t : Instant) (level : Bool)
  /-- R79: SUPPLY_OK has been 1 for 10 µs of TD0, ending its cause of the supply-low condition. -/
  | supplyLowEnd (t : Instant)
  /-- R80: KP_ACK rises, the block captures KP_KEY and lowers KP_REQ. -/
  | keyAck (t : Instant) (level : Bool) (key : BitVec 256)
  /-- R81: KP_ACK has not risen within 10 µs, so the key read fails and KP_REQ falls. -/
  | keyReadTimeout (t : Instant)
  /-- R90: No BREF edge arrives for the loss time, so Beryl restarts its lock or enters LOST with TD0 frozen and timed
  units held. -/
  | brefLoss (t : Instant) (level : Bool)
  /-- R91: The delay line locks after 256 BREF edges, and Beryl enters RUN, or READY when HOLD is 1. -/
  | berylLock
  /-- R88: TD0 passes its maximum, becomes 0 and sets BT_STAT.WRAP. -/
  | td0Wrap
  /-- R92: BT_CTRL.LOAD in READY loads TD0 from BT_LOAD_HI:BT_LOAD_LO. -/
  | btLoad
  /-- R92: BT_CTRL.START in READY starts TD0 counting and Beryl enters RUN. -/
  | btStart
  /-- R91: BT_CTRL.RESTART in LOST returns Beryl to WAIT_REF with TD0 kept. -/
  | btRestart
  /-- R97: BT_CTRL.SNAP copies TD0 and TD1 to TD7 into the snapshot registers at one ns and increments SNAPCNT. -/
  | btSnap
  /-- R96: With LATCH at 1, a read of a NOW_LO register copies the matching HI and FR values into the requester's
  shadow. -/
  | nowLoRead (who : Master) (dom : Fin 8)
  /-- R111: A write of BT_CONV_CTRL converts BT_CONV_IN between domains under R110 before its response. -/
  | conversion (v : W32)
  /-- R105: A TDn_CMD SET command starts a new segment at the given value, judged under R107. -/
  | tdSet (who : Master) (n : Fin 8) (whenAt : Bool)
  /-- R105: A TDn_CMD STEP command moves the domain by a signed amount, judged under R107. -/
  | tdStep (who : Master) (n : Fin 8) (whenAt : Bool)
  /-- R105: A TDn_CMD SLEW command starts a slew of the given amount at SLEW rate, judged under R107. -/
  | tdSlew (who : Master) (n : Fin 8) (whenAt : Bool)
  /-- R105: A TDn_CMD RATE command sets the base rate of the domain, judged under R107. -/
  | tdRate (who : Master) (n : Fin 8) (whenAt : Bool)
  /-- R107: A TDn_CMD CANCEL removes a pending command or ends a running slew, or is refused. -/
  | tdCancel (who : Master) (n : Fin 8) (whenAt : Bool)
  /-- R107: TD0 reaches the AT of a pending command, which takes effect and sets APPLIED. -/
  | tdApply (t : Instant) (n : Fin 8)
  /-- R106: A slew reaches its end instant, and the domain takes the end segment and sets SLEWEND. -/
  | slewEnd (t : Instant) (n : Fin 8)
  /-- R135: At the end of each 1 µs window, PW_CANARY takes the rates of both halves and PW_CANARY_MIN may fall. -/
  | canaryUpdate (t : Instant) (north south : BitVec 16)
  /-- R130: An accepted stamped mailbox post reaches its due instant and enters the path of bounded receive. -/
  | stampedEntryDue (t : Instant) (ch : Fin 256) (mb : Fin 4)
  /-- R140: An action entry enters a lane queue at most once per 4 ns and receives the lead test and late policy. -/
  | laneEnqueue (t : Instant) (lane : Fin 256) (op : ActOp) (v : Bool) (td : Fin 8) (ns : BitVec 40)
  /-- R139: A DRIVE entry becomes due and drives the lane to V with output enabled. -/
  | actionDrive (t : Instant) (lane : Fin 256)
  /-- R139: A FLOAT entry becomes due and releases the lane with the pull-up set to V. -/
  | actionFloat (t : Instant) (lane : Fin 256)
  /-- R139: A TOGGLE entry becomes due and inverts the held output value. -/
  | actionToggle (t : Instant) (lane : Fin 256)
  /-- R139: A REST entry becomes due and returns the lane to its rest-latch code. -/
  | actionRest (t : Instant) (lane : Fin 256)
  /-- R148: A SAMPLE entry becomes due and takes a SAMPLE capture, triple-sampled when TRIPLE is 1. -/
  | actionSample (t : Instant) (lane : Fin 256)
  /-- R139: A MARK entry becomes due and commits a MARK capture with value V. -/
  | actionMark (t : Instant) (lane : Fin 256)
  /-- R142: At ge + 24 after a late entry under FAULT policy the lane enters FAULT and drives its rest level. -/
  | laneFaultEntry (t : Instant) (lane : Fin 256)
  /-- R149: A capture is committed to the lane's capture queue exactly TWM ns after its stamp, or discarded when the
  queue is full. -/
  | captureCommit (t : Instant) (lane : Fin 256)
  /-- R157: Setting LNn_CFG.EN takes every field, fixes TWM and puts the lane in RUN. -/
  | laneEnable (lane : Fin 256) (v : W32)
  /-- R157: Clearing EN puts the lane in OFF, driving its rest level and keeping both queues. -/
  | laneDisable (lane : Fin 256) (v : W32)
  /-- R160: A write to LNn_CFG with EN kept at 1 changes only REST and POLICY and sets CFGIGN for other changes. -/
  | laneCfgWrite (lane : Fin 256) (v : W32)
  /-- R157: LNn_CTRL.CLRFLT empties the action queue and returns a faulted lane to RUN or OFF. -/
  | clrflt (lane : Fin 256)
  /-- R161: LNn_CTRL.FLUSH_A empties the lane's action queue. -/
  | flushA (lane : Fin 256)
  /-- R161: LNn_CTRL.FLUSH_C empties the lane's capture queue. -/
  | flushC (lane : Fin 256)
  /-- R186: Setting SFn_CFG.EN with a valid configuration attaches the stream channel, or the enable is refused with
  CFGERR. -/
  | sfEnable (n : Fin 128) (v : W32)
  /-- R187: Clearing EN turns the stream channel OFF or DRAINING, completing or aborting the frame in flight. -/
  | sfDisable (n : Fin 128) (v : W32)
  /-- R187: ABORT written 1 during DRAINING aborts the frame in flight at once. -/
  | sfAbort (n : Fin 128) (v : W32)
  /-- R169: GO in IDLE starts a SINGLE frame or a CHAIN walk of a TX stream channel. -/
  | sfGo (n : Fin 128)
  /-- R171: CONT in IDLE re-reads the LINK of the current descriptor and continues the chain if it is set. -/
  | sfCont (n : Fin 128) (coll : List PortA)
  /-- R187: FLUSH in OFF, IDLE or ERROR discards queued chain work or ring contents and records. -/
  | sfFlush (n : Fin 128)
  /-- R186: CLRERR with EN 1 returns a stream channel from ERROR to IDLE. -/
  | sfClrerr (n : Fin 128)
  /-- R170: A TX channel reads a descriptor and its buffer from scratchpad through port B. -/
  | sfDescFetch (n : Fin 128) (coll : List PortA)
  /-- R180: A processed TX entry is pushed into the engine input FIFO when it has room. -/
  | sfTxEntry (n : Fin 128) (coll : List PortA)
  /-- R168: An RX channel takes an entry from the engine output FIFO, decodes it and writes data to the ring. -/
  | sfRxEntry (n : Fin 128) (coll : List PortA)
  /-- R179: A completion record is pushed to the completion FIFO once it has room, firing the SN event with EVTEN. -/
  | sfRecordPush (n : Fin 128)
  /-- R179: A host read of SFn_CPL pops a completion record or returns 0 and sets FIFOERR. -/
  | sfCplPop (n : Fin 128)
  /-- R179: A host write of SFn_CPL pushes a record into the completion FIFO. -/
  | sfCplPush (n : Fin 128) (v : W32)
  /-- R176: A write of SFn_RP takes effect only inside the consumed span, otherwise it sets RPERR. -/
  | sfRpWrite (n : Fin 128) (v : W32)
  /-- R214: Setting PEn_CFG.EN with a valid configuration puts the engine in HALT, or refuses with CFGERR. -/
  | peEnable (n : Fin 64) (v : W32)
  /-- R215: Clearing EN turns the engine OFF at once or lets it drain to its next idle-marked instruction. -/
  | peDisable (n : Fin 64) (v : W32)
  /-- R215: ABORT written 1 during DRAINING stops the engine at the next step and pushes ABORT entries. -/
  | peAbort (n : Fin 64) (v : W32)
  /-- R215: A pending ABORT entry is pushed to an output FIFO as soon as it has room. -/
  | peAbortEntryPush (n : Fin 64)
  /-- R214: GO in HALT starts the engine at pc, or enters ERROR with PCBOUND. -/
  | peGo (n : Fin 64)
  /-- R214: NEWPC with an applied GO sets pc to START and REP to 0. -/
  | peNewpc (n : Fin 64) (clear : Bool)
  /-- R214: CLEAR with an applied GO clears OSR, ISR, OCNT, ICNT, CV, EQ and LV. -/
  | peClear (n : Fin 64)
  /-- R214: HALT stops a running, stalled or waiting engine between steps with its state kept. -/
  | peHalt (n : Fin 64)
  /-- R214: CLRERR takes the engine from ERROR to HALT or OFF and clears CAUSE. -/
  | peClrerr (n : Fin 64)
  /-- R215: FLUSH_I in OFF, HALT or ERROR empties every unattached input FIFO. -/
  | peFlushI (n : Fin 64)
  /-- R215: FLUSH_O in OFF, HALT or ERROR empties every unattached output FIFO. -/
  | peFlushO (n : Fin 64)
  /-- R218: A write of PEn_FACC pushes PEn_FDATA and sideband into an input FIFO, or is refused or overflows. -/
  | peFaccPush (n : Fin 64) (v : W32)
  /-- R218: A read of PEn_FACC pops the HSEL output FIFO into PEn_FDATA and returns its sideband. -/
  | peFaccPop (n : Fin 64)
  /-- R219: A write of PE_GRPg_IDATA sets the selected item of a halted or off engine, or sets CFGIGN. -/
  | inspectWrite (g : Fin 16) (v : W32)
  /-- R212: A write to a group program memory word is refused when a running engine's bounds cover it. -/
  | programWordWrite (r : Req) (g : Fin 16) (w : Fin 256) (v : W32)
  /-- R208: The clock generator enqueues the next toggle of CLKLANE as soon as the lane queue has room. -/
  | clockToggle (n : Fin 64)
  /-- R198: PULL takes the head entry of an input FIFO into OSR, or stalls while it is empty. -/
  | pePull (n : Fin 64)
  /-- R199: PUSH forms an entry from ISR or CT and pushes it to an output FIFO, stalling or dropping when full. -/
  | pePush (n : Fin 64)
  /-- R206: Each OUT step shifts bits of OSR onto the out set as stamped DRIVE actions and advances AT. -/
  | peOut (n : Fin 64)
  /-- R227: Each IN step takes a released capture set and shifts its levels into ISR, with optional hunt compare. -/
  | peIn (n : Fin 64)
  /-- R228: Each WAIT step takes a released capture set without shifting. -/
  | peWait (n : Fin 64)
  /-- R229: SET enqueues one operation to every lane in LMASK at floor(AT) and may advance AT. -/
  | peSet (n : Fin 64)
  /-- R230: SCHED sets AT from PS, from CT or relatively, and may arm the clock generator. -/
  | peSched (n : Fin 64)
  /-- R232: CMP sets EQ from ISR or the CV levels against CMPVAL under CMPMASK. -/
  | peCmp (n : Fin 64)
  /-- R232: LDCMP loads one half of CMPVAL or CMPMASK. -/
  | peLdcmp (n : Fin 64)
  /-- R231: LDPER loads the engine's PERIOD. -/
  | peLdper (n : Fin 64)
  /-- R232: SIG sets SIGF and may fire the engine's Spinel channel. -/
  | peSig (n : Fin 64)
  /-- R233: JMP sets pc to TARGET when its condition XOR N is 1. -/
  | peJmp (n : Fin 64)
  /-- R222: An engine reaching an illegal word enters ERROR with cause ILLEGAL. -/
  | peIllegal (n : Fin 64)
  /-- R237: A write of SQ_CLk_IBCTL.INV invalidates every line of the cluster instruction buffer. -/
  | ibInvalidate (k : Fin 4)
  /-- R262: Setting SQn_CFG.EN moves the sequencer from OFF to IDLE. -/
  | sqEnable (r : Req) (n : Fin 16) (v : W32)
  /-- R262: Clearing EN turns the sequencer OFF, or DRAINING until the channel's switch point. -/
  | sqDisable (n : Fin 16) (v : W32)
  /-- R262: A sequencer idle for NAPDLY µs enters NAP. -/
  | sqNap (t : Instant) (n : Fin 16)
  /-- R358: A channel becoming READY makes the scheduler request a switch on one eligible sequencer. -/
  | schedulerRequest (ch : Fin 256)
  /-- R357: A sequencer begins switch-in dispatch, chooses its next channel and restores its context. -/
  | channelDispatch (n : Fin 16)
  /-- R254: At an instruction boundary with a switch requested the sequencer saves the running channel's context. -/
  | switchOut (n : Fin 16)
  /-- R250: When a node becomes FREE, each sequencer in POOL retries its allocation and completes the interrupted
  work. -/
  | poolRetry (n : Fin 16)
  /-- R247: A write of SQ_POOL_PUSH makes an UNOWNED node FREE, or sets PUSHERR. -/
  | poolPush (x : Fin 512)
  /-- R247: A read of SQ_POOL_POP removes the head FREE node and makes it UNOWNED. -/
  | poolPop
  /-- R272: An undefined encoding traps with ILLEGAL. -/
  | illegalInstruction (n : Fin 16)
  /-- R277: ADD writes rs + rt and may set NZCV. -/
  | add (n : Fin 16)
  /-- R277: SUB writes rs − rt and may set NZCV. -/
  | sub (n : Fin 16)
  /-- R277: ADC writes rs + rt + C. -/
  | adc (n : Fin 16)
  /-- R277: SBC writes rs − rt − !C. -/
  | sbc (n : Fin 16)
  /-- R278: ADDT adds and traps with ARITH on signed overflow. -/
  | addt (n : Fin 16)
  /-- R278: SUBT subtracts and traps with ARITH on signed overflow. -/
  | subt (n : Fin 16)
  /-- R277: CMP sets the flags of rs − rt without writing a register. -/
  | cmp (n : Fin 16)
  /-- R277: AND writes rs & rt. -/
  | and (n : Fin 16)
  /-- R277: OR writes rs | rt. -/
  | or (n : Fin 16)
  /-- R277: XOR writes rs ^ rt. -/
  | xor (n : Fin 16)
  /-- R277: ANDN writes rs & ~rt. -/
  | andn (n : Fin 16)
  /-- R277: ORN writes rs | ~rt. -/
  | orn (n : Fin 16)
  /-- R277: TST sets the flags of rs & rt. -/
  | tst (n : Fin 16)
  /-- R277: SLL shifts rs left by rt[4:0]. -/
  | sll (n : Fin 16)
  /-- R277: SRL shifts rs right with zero fill. -/
  | srl (n : Fin 16)
  /-- R277: SRA shifts rs right with sign fill. -/
  | sra (n : Fin 16)
  /-- R277: ROR rotates rs right by rt[4:0]. -/
  | ror (n : Fin 16)
  /-- R277: MUL writes the low 32 bits of the product. -/
  | mul (n : Fin 16)
  /-- R277: MULHU writes the high 32 bits of the unsigned product. -/
  | mulhu (n : Fin 16)
  /-- R277: MULHS writes the high 32 bits of the signed product. -/
  | mulhs (n : Fin 16)
  /-- R278: DIVU writes the unsigned quotient, with defined division-by-zero results or ARITH. -/
  | divu (n : Fin 16)
  /-- R278: DIVS writes the signed quotient truncated toward zero. -/
  | divs (n : Fin 16)
  /-- R278: REMU writes the unsigned remainder. -/
  | remu (n : Fin 16)
  /-- R278: REMS writes the signed remainder with the dividend's sign. -/
  | rems (n : Fin 16)
  /-- R277: MINS writes the signed minimum. -/
  | mins (n : Fin 16)
  /-- R277: MAXS writes the signed maximum. -/
  | maxs (n : Fin 16)
  /-- R277: MINU writes the unsigned minimum. -/
  | minu (n : Fin 16)
  /-- R277: MAXU writes the unsigned maximum. -/
  | maxu (n : Fin 16)
  /-- R277: CLZ writes the count of leading zeros. -/
  | clz (n : Fin 16)
  /-- R277: CTZ writes the count of trailing zeros. -/
  | ctz (n : Fin 16)
  /-- R277: POPC writes the number of 1 bits. -/
  | popc (n : Fin 16)
  /-- R277: BSWAP reverses the bytes of rs. -/
  | bswap (n : Fin 16)
  /-- R277: BREV reverses the bits of rs. -/
  | brev (n : Fin 16)
  /-- R277: SLTS writes 1 when rs is signed-less than rt. -/
  | slts (n : Fin 16)
  /-- R277: SLTU writes 1 when rs is unsigned-less than rt. -/
  | sltu (n : Fin 16)
  /-- R279: SLLI shifts left by SA. -/
  | slli (n : Fin 16)
  /-- R279: SRLI shifts right by SA with zero fill. -/
  | srli (n : Fin 16)
  /-- R279: SRAI shifts right by SA with sign fill. -/
  | srai (n : Fin 16)
  /-- R279: RORI rotates right by SA. -/
  | rori (n : Fin 16)
  /-- R279: EXTU extracts a zero-extended bitfield. -/
  | extu (n : Fin 16)
  /-- R279: EXTS extracts a sign-extended bitfield. -/
  | exts (n : Fin 16)
  /-- R279: INS inserts a bitfield into rd. -/
  | ins (n : Fin 16)
  /-- R280: ADDI adds a sign-extended immediate. -/
  | addi (n : Fin 16)
  /-- R280: ANDI ands a zero-extended immediate. -/
  | andi (n : Fin 16)
  /-- R280: ORI ors a zero-extended immediate. -/
  | ori (n : Fin 16)
  /-- R280: XORI xors a zero-extended immediate. -/
  | xori (n : Fin 16)
  /-- R280: LUI loads an immediate into the upper half. -/
  | lui (n : Fin 16)
  /-- R280: CMPI sets the flags of rs minus a sign-extended immediate. -/
  | cmpi (n : Fin 16)
  /-- R280: TSTI sets the flags of rs and a zero-extended immediate. -/
  | tsti (n : Fin 16)
  /-- R281: NOP does nothing. -/
  | nop (n : Fin 16)
  /-- R281: RDS reads a special register. -/
  | rds (n : Fin 16)
  /-- R281: WRS writes the RW fields of st. -/
  | wrs (n : Fin 16)
  /-- R283: LDB loads a sign-extended byte. -/
  | ldb (n : Fin 16)
  /-- R283: LDBU loads a zero-extended byte. -/
  | ldbu (n : Fin 16)
  /-- R283: LDH loads a sign-extended halfword. -/
  | ldh (n : Fin 16)
  /-- R283: LDHU loads a zero-extended halfword. -/
  | ldhu (n : Fin 16)
  /-- R283: LDW loads an aligned word. -/
  | ldw (n : Fin 16)
  /-- R286: LDWU loads a word at any byte address, split when it crosses a block. -/
  | ldwu (n : Fin 16)
  /-- R283: LDP loads an aligned 64-bit pair. -/
  | ldp (n : Fin 16)
  /-- R283: STB stores a byte. -/
  | stb (n : Fin 16)
  /-- R283: STH stores a halfword. -/
  | sth (n : Fin 16)
  /-- R283: STW stores an aligned word. -/
  | stw (n : Fin 16)
  /-- R286: STWU stores a word at any byte address, split when it crosses a block. -/
  | stwu (n : Fin 16)
  /-- R283: STP stores an aligned 64-bit pair. -/
  | stp (n : Fin 16)
  /-- R288: Bcc branches when its flag condition holds. -/
  | bcc (n : Fin 16)
  /-- R289: BZ branches when rs is zero. -/
  | bz (n : Fin 16)
  /-- R289: BNZ branches when rs is not zero. -/
  | bnz (n : Fin 16)
  /-- R289: BEQ branches when rs equals rt. -/
  | beq (n : Fin 16)
  /-- R289: BNE branches when rs differs from rt. -/
  | bne (n : Fin 16)
  /-- R289: J jumps by a word offset. -/
  | j (n : Fin 16)
  /-- R289: CALL opens a window, saves the return offset in m7 and jumps. -/
  | call (n : Fin 16)
  /-- R289: JR jumps to rs plus an offset. -/
  | jr (n : Fin 16)
  /-- R289: CALLR opens a window and jumps to rs plus an offset. -/
  | callr (n : Fin 16)
  /-- R289: RET closes the window and jumps to rs plus an offset. -/
  | ret (n : Fin 16)
  /-- R242: WOPEN opens a window above the current one, spilling if seven are valid. -/
  | wopen (n : Fin 16)
  /-- R242: WCLOSE closes the current window, filling from the spill stack if needed. -/
  | wclose (n : Fin 16)
  /-- R292: TRAP raises SWTRAP with its code as DETAIL. -/
  | trap (n : Fin 16)
  /-- R298: NOW writes the floor of domain time at the instant of the instruction. -/
  | now (n : Fin 16)
  /-- R299: CONV converts a time between domains with the arithmetic of R110. -/
  | conv (n : Fin 16)
  /-- R300: EXP expands a 40-bit stamp against a reference. -/
  | exp (n : Fin 16)
  /-- R303: ENQL enqueues one stamped lane action, after register, half and horizon checks. -/
  | enql (n : Fin 16)
  /-- R303: ENQE pushes a stamped entry to an engine input FIFO, blocking while it is full. -/
  | enqe (n : Fin 16)
  /-- R303: PUSHE pushes an unstamped entry to an engine input FIFO, blocking while it is full. -/
  | pushe (n : Fin 16)
  /-- R306: DEQ pops the head entry of a path, blocking while it is empty. -/
  | deq (n : Fin 16)
  /-- R306: TRYDEQ pops the head entry or reports the path empty. -/
  | trydeq (n : Fin 16)
  /-- R306: BRECV performs a bounded receive with bound T, blocking until an outcome of R123 holds. -/
  | brecv (n : Fin 16)
  /-- R309: FIRE fires a Spinel channel, subject to ownership and security. -/
  | fire (n : Fin 16)
  /-- R309: WAITE takes one pending count from a masked event input, blocking while none is pending. -/
  | waite (n : Fin 16)
  /-- R309: TRYE takes a pending count if any, otherwise sets Z. -/
  | trye (n : Fin 16)
  /-- R310: LL loads a word and sets the reservation on its 64-bit word. -/
  | ll (n : Fin 16)
  /-- R310: SC stores if the reservation is valid and clears it. -/
  | sc (n : Fin 16)
  /-- R310: CLREX clears the reservation. -/
  | clrex (n : Fin 16)
  /-- R312: RDC reads a context item. -/
  | rdc (n : Fin 16)
  /-- R312: WRC writes TVEC. -/
  | wrc (n : Fin 16)
  /-- R312: WSPILL spills every valid window other than the current one. -/
  | wspill (n : Fin 16)
  /-- R312: FREL saves a dirty owned float bank and releases SQn_FOWN. -/
  | frel (n : Fin 16)
  /-- R315: FADD adds two binary64 values. -/
  | fadd (n : Fin 16)
  /-- R315: FSUB subtracts two binary64 values. -/
  | fsub (n : Fin 16)
  /-- R315: FMUL multiplies two binary64 values. -/
  | fmul (n : Fin 16)
  /-- R315: FDIV divides two binary64 values. -/
  | fdiv (n : Fin 16)
  /-- R315: FSQRT takes a binary64 square root. -/
  | fsqrt (n : Fin 16)
  /-- R315: FMA performs a fused multiply-add. -/
  | fma (n : Fin 16)
  /-- R315: FNEG inverts the sign bit. -/
  | fneg (n : Fin 16)
  /-- R315: FABS clears the sign bit. -/
  | fabs (n : Fin 16)
  /-- R315: FMIN writes the minimum under R314. -/
  | fmin (n : Fin 16)
  /-- R315: FMAX writes the maximum under R314. -/
  | fmax (n : Fin 16)
  /-- R316: FCMP sets st flags from a float comparison. -/
  | fcmp (n : Fin 16)
  /-- R315: FCPY copies a q register. -/
  | fcpy (n : Fin 16)
  /-- R315: FRINT rounds to an integral value under RM. -/
  | frint (n : Fin 16)
  /-- R317: FMVGQ moves a register pair into a q register. -/
  | fmvgq (n : Fin 16)
  /-- R317: FMVQG moves a q register into a register pair. -/
  | fmvqg (n : Fin 16)
  /-- R317: FCVTS converts a signed 64-bit integer to binary64. -/
  | fcvts (n : Fin 16)
  /-- R317: FCVTU converts an unsigned 64-bit integer to binary64. -/
  | fcvtu (n : Fin 16)
  /-- R317: FTOS converts binary64 to a signed 64-bit integer. -/
  | ftos (n : Fin 16)
  /-- R317: FTOU converts binary64 to an unsigned 64-bit integer. -/
  | ftou (n : Fin 16)
  /-- R317: FLD loads a 64-bit word into a q register. -/
  | fld (n : Fin 16)
  /-- R317: FST stores a q register as a 64-bit word. -/
  | fst (n : Fin 16)
  /-- R317: RDFC reads the float control word. -/
  | rdfc (n : Fin 16)
  /-- R317: WRFC writes the float control word. -/
  | wrfc (n : Fin 16)
  /-- R318: YIELD requests a switch at the next boundary while the channel stays ready. -/
  | yield (n : Fin 16)
  /-- R318: STOP puts the running channel in STOPPED and raises its source. -/
  | stop (n : Fin 16)
  /-- R339: CUXN dispatches to customer microcode entry N, or traps with CUXNONE or SECURE. -/
  | cuxn (n : Fin 16)
  /-- R342: A write to a control-store window word is refused or written to the selected or every running cluster. -/
  | csWordWrite (r : Req) (w : Fin 16384) (v : W32)
  /-- R342: A write to CS_PMk is refused or sets a patch map entry and clears VALID of the cluster. -/
  | csPmWrite (r : Req) (k : Fin 64) (v : W32)
  /-- R349: START in OFF checks the descriptor, claims and pool, binds LOWER and makes the channel READY. -/
  | chStart (r : Req) (ch : Fin 256)
  /-- R350: STOP takes a channel to STOPPED, or to DRAINING when it runs. -/
  | chStop (r : Req) (ch : Fin 256)
  /-- R354: ABORT with STOP or alone in DRAINING ends the run at the next instruction boundary. -/
  | chAbort (r : Req) (ch : Fin 256) (stop : Bool)
  /-- R361: RESUME in STOPPED re-reads priority and affinity and makes the channel READY, or is recorded in DRAINING.
  -/
  | chResume (r : Req) (ch : Fin 256)
  /-- R352: DISCARD frees the channel's nodes, empties mailboxes, releases claims and returns it to OFF. -/
  | chDiscard (r : Req) (ch : Fin 256)
  /-- R354: FLUSH in STOPPED or FAULT empties the channel's mailboxes. -/
  | chFlush (r : Req) (ch : Fin 256)
  /-- R353: NOTE sets CHn_STAT.NOTE. -/
  | chNote (r : Req) (ch : Fin 256)
  /-- R360: A blocked channel's condition may hold, so it becomes READY or re-executes if resident. -/
  | channelWake (t : Instant) (ch : Fin 256)
  /-- R348: A write to a descriptor word is permitted or refused according to its class and the channel state. -/
  | descriptorWrite (r : Req) (ch : Fin 256) (w : Fin 128) (v : W32)
  /-- R364: A CH_POST_GO to a plain mailbox is accepted or refused for FULL. -/
  | plainPost (r : Req) (ch : Fin 256) (mb : Fin 4)
  /-- R364: A CH_POST_GO to a stamped mailbox is judged for HORIZON, LATE and FULL. -/
  | stampedPost (r : Req) (ch : Fin 256) (mb : Fin 4)
  /-- R382: Every PERIOD ns the background test reads, complements and restores one word. -/
  | bistWord (t : Instant) (fail : Bool)
  /-- R380: Writing 1 to MEM_UNC_INFO.VALID clears the record and re-arms it. -/
  | uncRearm (hw : Bool)
  /-- R377: Writing 1 to MEM_COLL_INFO.VALID clears the collision record and re-arms it. -/
  | collRearm (hw : Bool)
  /-- R387: A wipe trigger starts or extends an Agate wipe, refusing Agate accesses. -/
  | agateWipe (r : Req)
  /-- R387: The last Agate word is written, locks clear, WIPES increments and DONE is set. -/
  | agateWipeDone
  /-- R386: Writing 1 to an AG_WLOCK bit locks that Agate segment against writes. -/
  | agWlockSet (r : Req) (v : W32)
  /-- R416: Setting GDx_CFG.EN with a valid table puts the guardian channel in WAIT, or refuses with CFGERR. -/
  | gdEnable (x : Fin 2) (v : W32)
  /-- R416: Clearing EN turns the guardian channel OFF or DRAINING. -/
  | gdDisable (x : Fin 2) (v : W32)
  /-- R416: ABORT written 1 during DRAINING turns the guardian channel OFF. -/
  | gdAbort (x : Fin 2) (v : W32)
  /-- R416: CLRERR with EN 1 returns the guardian channel from ERROR to WAIT. -/
  | gdClrerr (x : Fin 2)
  /-- R416: FLUSHQ in OFF or ERROR empties the guardian receive queue. -/
  | flushq (x : Fin 2)
  /-- R394: DOM reaches the next cycle start, advancing the cycle count and the branch histories. -/
  | cycleStart (t : Instant) (x : Fin 2)
  /-- R396: A slot window opens for its owner branch, truncating when RXD is already 0. -/
  | windowOpen (t : Instant) (x : Fin 2) (slot : Fin 2048)
  /-- R402: A slot window closes, cutting an active relay as a truncation. -/
  | windowClose (t : Instant) (x : Fin 2)
  /-- R400: A falling edge on an owner's RXD in its open window starts a relay, or sets BLOCK or MULTI. -/
  | relayStart (t : Instant) (x : Fin 2) (br : Fin 16) (level : Bool)
  /-- R400: RXD has been 1 for 2 × BT, so the relay ends and receivers' TXEN fall. -/
  | relayEnd (t : Instant) (x : Fin 2)
  /-- R399: A received frame is judged, written to its buffer, pushed to the queue and used for DEV. -/
  | gdFrameReceived (t : Instant) (x : Fin 2)
  /-- R407: At ts − 1,024 ns the local transmitter applies a pending commit and checks its guard. -/
  | txLatch (t : Instant) (x : Fin 2) (slot : Fin 2048)
  /-- R405: At ts the local transmitter sends the frame of a TX slot. -/
  | gdTxFrame (t : Instant) (x : Fin 2) (slot : Fin 2048)
  /-- R406: A write of GDx_TXCOMMIT makes a commit pending, or is refused or discarded late. -/
  | txCommit (x : Fin 2) (v : W32)
  /-- R403: Writing a GD_READMIT bit makes an isolated branch ACTIVE with its history cleared. -/
  | readmit (v : W32)
  /-- R442: Setting ABk_CFG.EN with valid timing puts the cell in INTEG, or refuses with CFGERR. -/
  | abEnable (k : Fin 16) (v : W32)
  /-- R443: Clearing EN turns the cell OFF or DRAINING until the frame in progress ends. -/
  | abDisable (k : Fin 16) (v : W32)
  /-- R443: ABORT during DRAINING abandons a received frame or stops a frame still in arbitration. -/
  | abAbort (k : Fin 16) (v : W32)
  /-- R442: CLRFLT takes the cell from FAULT to INTEG or OFF. -/
  | abClrflt (k : Fin 16)
  /-- R441: RECOVER in BUS_OFF starts bus-off recovery. -/
  | recover (k : Fin 16)
  /-- R443: FLUSH in OFF or FAULT cancels PENDING buffers and empties the receive queue. -/
  | abFlush (k : Fin 16)
  /-- R428: A write of 1 to ABk_TXREQ makes a transmit buffer PENDING and judges its lead. -/
  | txRequest (k : Fin 16) (v : W32)
  /-- R431: A write of 1 to ABk_TXCAN cancels a transmit buffer according to its progress. -/
  | txCancel (k : Fin 16) (v : W32)
  /-- R429: A stamped transmit buffer reaches its due instant and competes at the next SOF. -/
  | txDue (t : Instant) (k : Fin 16) (b : Fin 8)
  /-- R429: A start of frame on the bus, own or another's, fixes the offered buffer and begins a frame. The command also carries the
  edges of AB_RXD after it (R424) and the loss of arbitration. -/
  | abSof (t : Instant) (k : Fin 16) (e : AbSofEv)
  /-- R432: A transmitted frame completes without error and its buffer ends SENT or TOO_LATE. -/
  | abFrameSent (t : Instant) (k : Fin 16)
  /-- R433: A received valid frame is filtered into a receive buffer and the receive queue. -/
  | abFrameReceived (t : Instant) (k : Fin 16)
  /-- R438: An error detected in a frame updates TEC or REC and error state and may schedule retransmission. -/
  | abBusError (t : Instant) (k : Fin 16) (e : AbErr)
  /-- R439: With PXE, a recessive res or FDF bit sets PXEV and sends the cell to INTEG. -/
  | abProtocolException (t : Instant) (k : Fin 16)
  /-- R430: After a late request under FAULT policy the cell enters FAULT at ge + 24 or at the frame's end. -/
  | abFaultEntry (t : Instant) (k : Fin 16)
  /-- R442: Eleven consecutive recessive bits end integration and the cell enters RUN. -/
  | abIntegDone (t : Instant) (k : Fin 16)
  /-- R441: 128 occurrences of 11 recessive bits complete recovery, clearing the counters. -/
  | busoffRecoveryDone (t : Instant) (k : Fin 16)
  /-- R450: A unit asserts or deasserts an EIC source, which becomes pending, held, orphaned or idle. -/
  | sourceLevelChange (n : Fin 512)
  /-- R454: A target's request rises, driving IRQ_H0 or IRQ_H1 or making an arrival at E3 of its handler channel. -/
  | eicDelivery (tgt : Fin 18)
  /-- R451: A write of EIC_SETPEND sets a source's software latch. -/
  | eicSetpend (n : Fin 512)
  /-- R451: A write of EIC_CLRPEND clears a source's software latch. -/
  | eicClrpend (n : Fin 512)
  /-- R456: A read of EIC_Tt_CLAIM claims the best eligible source or returns 1023. -/
  | eicClaim (tgt : Fin 18)
  /-- R458: A read of EIC_Tt_COMPLETE pops the target's stack and re-samples the source. -/
  | eicComplete (tgt : Fin 18)
  /-- R457: A write of EIC_SRCi changes priority and target mask and may orphan a pending source. -/
  | sourceConfigWrite (n : Fin 512) (v : W32)
  /-- R461: A write of EIC_Tt_CFG changes the target, and clearing EN empties its stack. -/
  | targetConfigWrite (tgt : Fin 18) (v : W32)
  /-- R463: A write of EIC_MODg_CFG switches moderation on or off, releasing held sources when cleared. -/
  | modConfigWrite (g : Fin 32) (v : W32)
  /-- R463: A moderation window ends, releasing held sources or returning the group to IDLE. -/
  | modWindowEnd (t : Instant) (g : Fin 32)
  /-- R480: Setting TAn_CFG.EN with a valid configuration puts the timer in STOP, or sets CFGERR. -/
  | timerEnable (n : Fin 64) (v : W32)
  /-- R480: Clearing EN puts the timer in OFF at once. -/
  | timerDisable (n : Fin 64) (v : W32)
  /-- R468: A prescaler expiry, task-input count or chained carry advances CNT one step. -/
  | timerTick (t : Instant) (n : Fin 64)
  /-- R469: The count wraps and fires CO with its flag, events and action. -/
  | timerCarry (n : Fin 64)
  /-- R471: CNT equals CMP after a tick and fires MATCH with its flag, events and action. -/
  | timerMatch (n : Fin 64)
  /-- R472: START moves a stopped timer to RUN. -/
  | timerStart (n : Fin 64)
  /-- R472: STOP moves a running or frozen timer to STOP. -/
  | timerStop (n : Fin 64)
  /-- R473: RELOAD_NOW loads CNT with LIM or 0 at once. -/
  | timerReloadNow (n : Fin 64)
  /-- R473: A write of TAn_LIM buffers or applies the new period and may fire PERIOD with LATE. -/
  | timerLimWrite (n : Fin 64) (v : W32)
  /-- R475: With LATCH, a read of an even timer's CNT copies the odd timer's CNT into the requester's shadow. -/
  | timerCntRead (who : Master) (n : Fin 64)
  /-- R476: TA_CTRL.SNAP copies all 64 counts into TAn_SNAP at one ns. -/
  | timerSnapshot
  /-- R478: TA_STAG_CTRL.GO arms a stagger start for the masked groups, or sets BUSY or LATE. -/
  | staggerGo (mask : Byte)
  /-- R478: TA_STAG_CTRL.CANCEL clears a pending stagger start. -/
  | staggerCancel
  /-- R478: At TA_STAG_AT every stopped timer of the groups loads PHASE and enters RUN. -/
  | staggerStart (t : Instant)
  /-- R483: Setting or clearing ACk_CFG.EN moves the compare between OFF and IDLE. -/
  | compareEnable (k : Fin 32) (v : W32)
  /-- R483: ARM moves the compare to ARMED. -/
  | compareArm (k : Fin 32)
  /-- R483: DISARM returns the compare to IDLE. -/
  | compareDisarm (k : Fin 32)
  /-- R482: Domain time reaches VAL, the compare fires its action and event and re-arms with INC. -/
  | compareFire (t : Instant) (k : Fin 32)
  /-- R484: An accepted edge of the watched lane sets RISE or FALL and increments SEQ. -/
  | capturePairUpdate (t : Instant) (k : Fin 16)
  /-- R487: Setting EN moves the watchdog to RUN with CNT loaded, and LOCK write locks it. -/
  | watchdogEnable (w : Fin 2) (v : W32)
  /-- R485: A write of WDx_KICK reloads CNT with the correct key, or expires at once with a wrong key. -/
  | watchdogKick (w : Fin 2) (v : W32)
  /-- R485: At each TD0 multiple of 1,000 a running watchdog decrements CNT and may set WARNF. -/
  | watchdogDecrement (t : Instant) (w : Fin 2)
  /-- R485: CNT reaches 0, setting EXPF, performing ACT and reloading. -/
  | watchdogExpiry (w : Fin 2)
  /-- R500: A write of SN_FIRE fires an event on the channel, subject to security. -/
  | snFireWrite (r : Req) (v : W32)
  /-- R495: A fired event enters Spinel and is discarded, hop-dropped or scheduled to arrive 2 ns later. -/
  | eventEntry (t : Instant) (ch : Fin 256)
  /-- R497: An event arrives at every subscribing task input, adding pending counts or setting overflow. -/
  | eventArrival (t : Instant) (ch : Fin 256)
  /-- R506: An enabled LUT cell takes its input counts, updates levels, Q, Y and OUT and may fire OSN. -/
  | lutEvaluate (t : Instant) (c : Fin 32)
  /-- R502: A count on a group's enable input switches the group ON. -/
  | groupEnableEvent (t : Instant) (g : Fin 16)
  /-- R502: A count on a group's disable input switches the group OFF. -/
  | groupDisableEvent (t : Instant) (g : Fin 16)
  /-- R512: An export takes a count and sets its FLAG, asserting its source with IE. -/
  | exportEvent (t : Instant) (k : Fin 16)
  /-- R502: A write of SN_GRPCTRL switches groups ON and OFF. -/
  | groupSwitch (v : W32)
  /-- R507: SN_LUTc_CTRL.CLR clears the cell's levels without firing. -/
  | lutClear (c : Fin 32)
  /-- R511: A write of SN_LUTc_CFG is applied or refused for closing a combinational loop. -/
  | lutCfgWrite (c : Fin 32) (v : W32)
  /-- R511: A write of SN_SUBi is applied or refused for security or loop closing. -/
  | subscriptionWrite (r : Req) (k : Fin 648) (v : W32)
  /-- R500: A write of SN_CHn_CFG changes enable, group, owner and security, subject to the secure attribute. -/
  | snChCfgWrite (r : Req) (ch : Fin 256) (v : W32)
  /-- R517: ON moves a half from OFF to UP. -/
  | halfOn (h : Fin 2)
  /-- R517: OFF moves a half from RUN or SLEEP to DOWN. -/
  | halfOff (h : Fin 2)
  /-- R517: RESET moves a half from RUN or SLEEP to UP, discarding its state. -/
  | halfReset (h : Fin 2)
  /-- R519: SLEEP moves a quiet half to ENTER and saves dirty float banks, or is refused. -/
  | halfSleep (h : Fin 2)
  /-- R517: WAKE, a wake request or AUTOWAKE moves a sleeping half to WAKE, or is recorded in ENTER. -/
  | halfWake (h : Fin 2)
  /-- R517: The half's supply settles and reset releases, so it enters RUN and sets DONE. -/
  | halfUpDone (h : Fin 2)
  /-- R517: Every bank is saved, so the half enters SLEEP, or returns to RUN with SERR POOL. -/
  | halfSleepDone (h : Fin 2)
  /-- R517: The wake completes, the half enters RUN and its EIC targets become AWAKE. -/
  | halfWakeDone (h : Fin 2)
  /-- R517: The switches open and the half enters OFF. -/
  | halfDownDone (h : Fin 2)
  /-- R527: A write of PW_SUP_CFG changes FLOOR and FLOOREN, ending the canary cause at once when cleared. -/
  | supCfgWrite (r : Req) (v : W32)
  /-- R530: The PW unit performs the next last-gasp register write, setting DONE after the last. -/
  | lastGaspWrite
  /-- R531: A write of a lease claim makes it live, releases it, or is ignored with EPERR. -/
  | leaseClaim (r : Req) (h : Fin 2) (v : W32)
  /-- R531: A live claim's time runs out and it becomes not live. -/
  | leaseExpiry (t : Instant) (h : Fin 2)
  /-- R533: A write of a battery-backed register is guarded, secured and refused when VBAT is out of range. -/
  | bbWrite (r : Req) (k : Fin 64) (v : W32)
  /-- R523: VAO first applied or PORST_N asserted resets the always-on domain, common region, halves and adapters. -/
  | powerOnReset
  /-- R526: PORST_N is released and the PW registers take their reset values. -/
  | porstNRelease
  /-- R525: A recognised low on RST_N resets the common region and halves, cutting frames and holding outputs. -/
  | rstNAssert
  /-- R526: RST_N is released, the common region leaves reset, Beryl waits for BREF and halves with BOOTOFF 0 enter
  UP. -/
  | rstNRelease
  /-- R526: Memory set-up and the Agate wipe end and CREADY is set. -/
  | commonReady
  /-- R523: VCORE is lost with VAO present, resetting as RST_N and losing memory contents. -/
  | vcoreLoss
  /-- R516: VBAT falls below 1.8 V and the battery domain loses its contents. -/
  | batteryLoss
  /-- R538: VBAT returns and the battery domain initialises, resetting lifecycle and key hash and counting as a VCORE
  loss. -/
  | batteryInit
  /-- R588: A change of TEST_MODE acts as a PORST_N assertion. -/
  | testModeChange (v : Bool)
  /-- R542: A write of SEC_LC_REQ is judged and, if accepted, starts the CLEAR step of a transition. -/
  | lifecycleRequest (r : Req) (v : W32)
  /-- R543: CLEAR completes and COMMIT writes the new state, count and log entry, or is abandoned with GUARD. -/
  | lifecycleCommit (t : Instant)
  /-- R549: SEC_LD_CTRL.GO starts a load in HEADER, or fails with BUSY. -/
  | loaderGo (r : Req)
  /-- R549: SEC_LD_CTRL.ABORT rolls a load back with ERR ABORT. -/
  | loaderAbort (r : Req)
  /-- R548: A write to a loader window half fills it, or is refused when the half is not FREE. -/
  | loaderWindowWrite (r : Req) (h : Fin 2) (w : Fin 4096) (v : W32)
  /-- R548: A write of SEC_LD_FEED hands a filled half to the loader, or sets FEEDERR. -/
  | loaderFeed (r : Req) (v : W32)
  /-- R551: The loader consumes a fed half, hashing, decrypting and writing sections, and frees it. -/
  | loaderConsume
  /-- R550: The header and table are consumed and checked, moving the loader to KEY or PASS, or to ROLLBACK. -/
  | loaderHeaderDone (t : Instant)
  /-- R549: Signature and tag verification ends, moving the loader to COMMIT or ROLLBACK. -/
  | loaderVerifyDone
  /-- R552: COMMIT raises BB_SVN, sets locks, patch identity and header copies, and the load ends with DONE. -/
  | loaderCommit
  /-- R552: ROLLBACK zeroes every destination the load wrote and the load ends with DONE and ERR. -/
  | loaderRollback
  /-- R554: Writing 1 to SEC_STAT.CSLOCK locks a cluster's control-store window and patch map. -/
  | cslockSet (r : Req) (v : W32)
  /-- R555, R556: TAMPER[k] takes the level `v`, or (none) has been held active for 1 µs as an enabled input: it sets TFLAG, logs
  an entry and performs its action. -/
  | tamperEvent (t : Instant) (k : Fin 4) (v : Option Bool)
  /-- R576: A READ wire frame peeks a register without side effects. -/
  | debugRead (addr : BitVec 24) (prompt : Bool)
  /-- R576: A CONSUME wire frame reads a register with its side effects. -/
  | debugConsume (addr : BitVec 24) (prompt : Bool) (hw : W32)
  /-- R569: A WRITE wire frame is answered and its access runs once DCRC is checked. -/
  | debugWrite (addr : BitVec 24) (v : W32) (dcrc : Byte) (prompt : Bool) (hw : W32) (coll : List PortA)
  /-- R569: A debug access completes and its data is placed in DBG_RDBUF for the repeated request. -/
  | debugAccessDone (hw : W32) (coll : List PortA)
  /-- R571: A frame with a bad SYNC, CMD or HCRC gets no response, sets HDRERR and the port enters LOST. -/
  | headerError (sync : BitVec 2) (cmd : BitVec 3) (addr : BitVec 24) (hcrc : BitVec 4)
  /-- R571: 80 consecutive 0 bits followed by a 1 reset the port's framing. -/
  | lineReset
  /-- R574: A write of DBG_AUTH.REQ sets the granted level, and a fall below FULL releases halts and clears catches.
  -/
  | authRequest (v : W32)
  /-- R574: A secure write of DBG_ALLOW lowers the host limit on authorization. -/
  | allowWrite (r : Req) (v : W32)
  /-- R577: A write of DBG_HALTREQ requests a halt of a sequencer. -/
  | haltRequest (v : W32)
  /-- R578: A sequencer enters HALT for a request, group, breakpoint, catch, trap or step and records HCAUSE. -/
  | sequencerHalt (n : Fin 16)
  /-- R578: A halt of a group member reaches the other members within 40 ns. -/
  | groupHalt (n : Fin 16)
  /-- R581: A write of DBG_RELEASE returns a halted sequencer to its state before the halt. -/
  | release (v : W32)
  /-- R581: A write of DBG_STEP runs one instruction and halts again. -/
  | singleStep (v : W32)
  /-- R582: A write of DBG_SQn_GDATA sets the selected item of a halted sequencer, or sets ACCERR. -/
  | gdataWrite (n : Fin 16) (v : W32)
  /-- R583: A write of DBG_SQn_FEED runs one instruction of the halted channel and records RES. -/
  | instructionFeed (n : Fin 16) (w : W32)
  /-- R584: GO in DBG_SQn_MCTRL makes one memory access through the halted sequencer's data path. -/
  | debugMemoryAccess (n : Fin 16) (v : W32)
  /-- R589: A write of DBG_STIMk creates a STIM trace packet when enabled. -/
  | stimulusWrite (r : Req) (k : Fin 32) (v : W32)
  /-- R591: A read of DBG_TRACE pops the head packet and latches its low half. -/
  | traceRead
  /-- R601: A write of CW_CMD_HI sets the channel and mailbox and sets HIV. -/
  | cwCmdHi (v : BitVec 16)
  /-- R605: Carnelian NOP completes with no effect. -/
  | cwNop (param : Byte) (sec : Bool)
  /-- R605: Carnelian START acts as CHn_CTRL.START and pushes STARTERR. -/
  | cwStart (param : Byte) (sec : Bool)
  /-- R605: Carnelian STOP acts as CHn_CTRL.STOP with ABORT 0. -/
  | cwStop (param : Byte) (sec : Bool)
  /-- R605: Carnelian ABORT stops with ABORT 1, or aborts alone while DRAINING. -/
  | cwAbort (param : Byte) (sec : Bool)
  /-- R605: Carnelian RESUME acts as CHn_CTRL.RESUME. -/
  | cwResume (param : Byte) (sec : Bool)
  /-- R605: Carnelian DISCARD acts as CHn_CTRL.DISCARD. -/
  | cwDiscard (param : Byte) (sec : Bool)
  /-- R605: Carnelian FLUSH acts as CHn_CTRL.FLUSH. -/
  | cwFlush (param : Byte) (sec : Bool)
  /-- R605: Carnelian NOTE acts as CHn_CTRL.NOTE. -/
  | cwNote (param : Byte) (sec : Bool)
  /-- R605: Carnelian POST makes a plain post of the argument and pushes its result. -/
  | cwPost (param : Byte) (sec : Bool)
  /-- R605: Carnelian STAT pushes CHn_STAT as two entries. -/
  | cwStat (param : Byte) (sec : Bool)
  /-- R605: Carnelian MBX pushes CHn_MBX as two entries. -/
  | cwMbx (param : Byte) (sec : Bool)
  /-- R605: Carnelian RDDESC pushes a descriptor word as two entries. -/
  | cwRddesc (param : Byte) (sec : Bool)
  /-- R605: Carnelian WRDESC writes a descriptor word under R348. -/
  | cwWrdesc (param : Byte) (sec : Bool)
  /-- R603: A pending Carnelian command is released by its mailbox entries leaving, judged again and executed. -/
  | cwExecute
  /-- R604: CW_CTRL.CANCEL completes a pending command with RESULT CANCELLED. -/
  | cwCancel
  /-- R600: CW_CTRL.FLUSH empties the response FIFO. -/
  | cwRspFlush
  /-- R600: A read of CW_STAT returns DONE and then clears it. -/
  | cwStatRead (hw : Bool)
  /-- R600: A read of CW_RSP pops a response entry, or sets RFERR when empty. -/
  | cwRspPop
  /-- R600: A write of CW_RSP pushes an entry, or sets RFERR when full. -/
  | cwRspPush (v : BitVec 16)
  /-- R604: A write of GL_COMPAT.CW_EN enables the window, and clearing it cancels a pending command. -/
  | cwEnableWrite (v : W32)
  /-- R203: A capture set is released once every consume-set lane with an empty capture queue has a watermark above
  the set's stamp, and an engine waiting in WAIT resumes. -/
  | captureSetRelease (t : Instant) (n : Fin 64)
  /-- R526: VCORE comes back into range with VAO present, so the host port answers again with the common region held
  in reset until RST_N is released. -/
  | vcoreReturn
  /-- R516: VAO is removed, and the always-on domain, the hold latches and the core lose their contents while the
  outputs fall to the integrator's pad defaults. -/
  | vaoLoss
  deriving DecidableEq, Repr

end Sys2Proof
end

