-- ==== Sys2Proof/Decode.lean ====
section
/-! DEFINITION. The commands that a word spells. No row of spec/opcode_table.json has bits: a command comes from a pin, a bus or
a register access, and none is spelt by a word. -/

namespace Sys2Proof

/-- The command that the word `w` of `nbits` bits spells: none, for no row of the table gives bits. -/
def decodeTableWord (_nbits _w : Nat) : Option Instr := none

end Sys2Proof
end

