-- ==== Sys2Proof/Machine/Rec/Seq.lean ====
section
/-! DEFINITION. Records of the sequencers, the instruction buffers and the save pool
(spec/09_sequencers.md). -/

namespace Sys2Proof.Machine

/-- Sequencer states (R262). -/
inductive SeqSt where
  | off | idle | nap | run | switch | pool | draining | halt
  deriving DecidableEq, Repr

/-- A trap that waits for its entry: cause code, detail, TVAL (R259). -/
structure Trap where
  code : Nat
  detail : Nat
  tval : W32
  deriving DecidableEq, Repr

/-- The work that waits in POOL (R250): an instruction with its word, a trap entry, or a switch-out at a step of R254. -/
inductive PoolWork where
  | instr (w : W32) | trapEntry (t : Trap) | switchOut (step : Nat)
  deriving DecidableEq, Repr

/-- An instruction that is held inside by a full lane queue (R119, R303): its word, the delivery that waits (action word,
domain and NS), and for a CUX the microcode that runs on after it with the microwords that are left to it. `fed` marks a
fed instruction (R583). -/
structure Held where
  ir : W32
  act : W32
  dom : Fin 8
  ns : BitVec 40
  micro : Option (Micro × Nat)
  fed : Bool
  more : Bool := false
  deriving DecidableEq, Repr

/-- The works of vendor microcode (R320, R254, R260). -/
inductive VendorWork where
  | instr (w : W32) | trapEntry | switchOut | switchIn
  deriving DecidableEq, Repr

/-- A sequencer (R239 to R266). `swReq` is a pending switch request, `yielded` that it came from YIELD, `stopI` that its channel has executed STOP, `drainRec` that
its sequencer drains once the work in POOL is done, `before` the state that a halt interrupted, `held` the instruction that a full lane queue holds. -/
structure Seq where
  cfg : W32
  st : SeqSt
  cx : Fin 256
  cxv : Bool
  trapF : Bool
  k : Bank W32 8
  ringA : Bank (Bank W32 8) 8
  ringM : Bank (Bank W32 8) 8
  pc : W32
  stw : W32
  cw : Fin 8
  wv : BitVec 8
  tcause : W32
  tval : W32
  tvec : W32
  fownV : Bool
  fownD : Bool
  fownCh : Fin 256
  q : Bank W64 16
  fctl : W32
  resv : Option Nat
  ltrap : W32
  ltval : W32
  ltpc : W32
  uwcnt : W32
  swcnt : W32
  swReq : Bool
  yielded : Bool
  stopI : Bool
  drainRec : Bool
  before : SeqSt
  poolWork : Option PoolWork
  held : Option Held
  idleSince : W64
  deriving DecidableEq, Repr

/-- A line of a cluster's instruction buffer (R236): its line address, its words and the pairs of words that hold an
uncorrectable error (R380). -/
structure IbLine where
  line : Nat
  words : List W32
  bad : List Nat
  deriving DecidableEq, Repr

/-- A cluster's instruction buffer: 32 sets, each with its lines, most recently used first. -/
structure Ibuf where
  sets : Bank (List IbLine) 32
  misses : W32
  deriving DecidableEq, Repr

/-- Kinds of a save-pool node (R246). -/
inductive NodeKind where
  | unowned | lower | upper | float | spill | free
  deriving DecidableEq, Repr

/-- An entry of the node link table (R246). -/
structure Node where
  kind : NodeKind
  owner : Fin 256
  count : Nat
  next : Option (Fin 512)
  deriving DecidableEq, Repr

/-- The save pool (R246, R247, R266). -/
structure Pool where
  nodes : Bank Node 512
  head : Option (Fin 512)
  cfg : W32
  fifoErr : Bool
  pushErr : Bool
  low : Bool
  deriving DecidableEq, Repr

def Seq.reset : Seq :=
  { cfg := 0, st := .off, cx := 0, cxv := false, trapF := false, k := Bank.fill 8 0,
    ringA := Bank.fill 8 (Bank.fill 8 0), ringM := Bank.fill 8 (Bank.fill 8 0), pc := 0, stw := 0, cw := 0,
    wv := 1, tcause := 0, tval := 0, tvec := 0, fownV := false, fownD := false, fownCh := 0,
    q := Bank.fill 16 0, fctl := 0, resv := none, ltrap := 0, ltval := 0, ltpc := 0, uwcnt := 0, swcnt := 0,
    swReq := false, yielded := false, stopI := false, drainRec := false, before := .off, poolWork := none, held := none,
    idleSince := 0 }

def Ibuf.reset : Ibuf := { sets := Bank.fill 32 [], misses := 0 }

def Node.unowned : Node := { kind := .unowned, owner := 0, count := 0, next := none }

def Pool.reset : Pool :=
  { nodes := Bank.fill 512 .unowned, head := none, cfg := 0, fifoErr := false, pushErr := false, low := false }

end Sys2Proof.Machine
end

