-- ==== Sys2Proof/Config.lean ====
section
/-! DEFINITION. What the spec leaves open: constants without a body. Each is applied to the model's counter of free
values, or to the operands it depends on; nothing is known of any of them. -/

namespace Sys2Proof.Config

/-- A bit that the spec leaves open. -/
opaque freeBit : Nat → Bool
/-- A register of a window that holds undefined values (R254, R291), and other undefined 32-bit values. -/
opaque freeWord : Nat → W32
/-- What a read of mailbox storage returns, whose layout is not part of the manual (R346). -/
opaque mailboxWord : Nat → W32
/-- Whether a fused multiply-add of zero, infinity and a quiet NaN is an invalid operation. -/
opaque fmaInvalid : Bool
/-- The SHA-384 hash of the vendor's public key, which stands in ROM (R547). -/
opaque vendorHash : BitVec 384
/-- The words of the vendor ROM (R321), which the spec does not print. -/
opaque vendorRom : Nat → W32
/-- The microaddress of the ROM at which the vendor microcode of a work begins (R321). -/
opaque romEntry : Machine.VendorWork → Machine.Seq → BitVec 14
/-- Whether the branch at a microaddress finds its condition true as the fetches of a work are followed (R333). -/
opaque romTakes : Machine.VendorWork → Machine.Seq → Nat → Bool
/-- What the micro-registers hold as vendor microcode begins: u0 to u15, CNT, MDH and the micro-flags. -/
opaque vendorReg : Nat → W32
/-- What a vendor-only microword leaves, by place: u0 to u15, CNT, MDH, the flags, and from place 32 on the general
registers (R324, R328, R336). -/
opaque vendorWord : W32 → Machine.Micro → Machine.Seq → Nat → W32
/-- The value from 119 to 127 that the receive error counter takes after a reception, less 119. -/
opaque recAfter : Nat → Fin 9

end Sys2Proof.Config
end

