-- ==== Sys2Proof/Machine/Rec/Chan.lean ====
section
/-! DEFINITION. Records of the channels, their mailboxes and the post staging (spec/13_channels.md). -/

namespace Sys2Proof.Machine

/-- Channel states (R350). -/
inductive ChSt where
  | off | ready | run | blocked | waitPool | draining | stopped | fault
  deriving DecidableEq, Repr

/-- Causes of FAULT (R351). -/
inductive FCause where
  | none | noHandler | ctxEcc | csEcc | uIllegal | uCommit | uLimit | breach
  deriving DecidableEq, Repr

/-- Conditions of a breach (R132, R351). -/
inductive BreachCond where
  | late | overflow | ecc | tdLate | beryl
  deriving DecidableEq, Repr

/-- A message in a mailbox (R362 to R364). `vis` is 1 once a stamped entry is in the path (R130),
`noted` marks an entry that a pending window command waits for (R602). -/
structure MbEntry where
  data : W64
  time : W64
  vis : Bool
  noted : Bool
  deriving DecidableEq, Repr

/-- Results of a post (R364). -/
inductive PostRes where
  | accepted | late | full | horizon
  deriving DecidableEq, Repr

/-- A mailbox: entries in the order of acceptance, the last result and the REFUSED flag (R369). -/
structure Mailbox where
  q : List MbEntry
  res : PostRes
  refused : Bool
  deriving DecidableEq, Repr

/-- A channel (R345 to R369). `config` and the claims are those in force; `resumeRec` is a RESUME recorded in
DRAINING, `stopRec` a STOP with its ABORT recorded in WAIT_POOL or on a halted sequencer, `abort` that a DRAINING run ends at the next
boundary, `back` the state that WAIT_POOL interrupted; `since` says when it became READY, `breachAt` when its breach was met,
`firstFetch` that its next fetch is the first at TVEC (R260), and `mbClean` that no message has been accepted since its mailbox
storage was zeroed. -/
structure Channel where
  st : ChSt
  config : W32
  lanes : BitVec 256
  engines : BitVec 64
  streams : BitVec 128
  cells : BitVec 16
  sq : Fin 16
  res : Bool
  breach : Option BreachCond
  breachAt : W64
  fcause : FCause
  startErr : Nat
  cmdIgn : Bool
  note : Bool
  stopF : Bool
  faultF : Bool
  ieNote : Bool
  ieStop : Bool
  ieFault : Bool
  mbs : Bank Mailbox 4
  resumeRec : Bool
  stopRec : Option Bool
  abort : Bool
  back : ChSt
  faultRec : Option FCause
  since : W64
  firstFetch : Bool
  mbClean : Bool
  deriving DecidableEq, Repr

/-- Post staging of one requester (R363). -/
structure PostRegs where
  data : W64
  time : W64
  v : Bool
  ch : Fin 256
  mb : Fin 4
  res : PostRes
  deriving DecidableEq, Repr

def Mailbox.reset : Mailbox := { q := [], res := .accepted, refused := false }

def Channel.reset : Channel :=
  { st := .off, config := 0, lanes := 0, engines := 0, streams := 0, cells := 0, sq := 0, res := false,
    breach := none, breachAt := 0, fcause := .none, startErr := 0, cmdIgn := false, note := false, stopF := false,
    faultF := false, ieNote := false, ieStop := false, ieFault := false, mbs := Bank.fill 4 .reset,
    resumeRec := false, stopRec := none, abort := false, back := .off, faultRec := none, since := 0,
    firstFetch := false, mbClean := false }

def PostRegs.reset : PostRegs := { data := 0, time := 0, v := false, ch := 0, mb := 0, res := .accepted }

end Sys2Proof.Machine
end

