-- ==== Sys2Proof/Machine/Rec/Cs.lean ====
section
/-! DEFINITION. Records of the control stores (spec/12_microcode.md). -/

namespace Sys2Proof.Machine

/-- A cluster's copy (R321 to R323, R341): the words 0x4000 to 0x7FFF that are not zero, by microaddress, the words that
hold a single-bit or a double-bit error, and the patch map. -/
structure CsCopy where
  words : List (Nat × W32)
  corr : List Nat
  unc : List Nat
  pm : Bank W32 64
  deriving DecidableEq, Repr

/-- The control stores and the CS registers (R343, R344). -/
structure ControlStore where
  cfg : W32
  sel : W32
  corrCnt : BitVec 16
  uncF : BitVec 4
  wrErr : Bool
  fault : W32
  copies : Bank CsCopy 4
  deriving DecidableEq, Repr

def CsCopy.reset : CsCopy := { words := [], corr := [], unc := [], pm := Bank.fill 64 0 }

def ControlStore.reset : ControlStore :=
  { cfg := 0x100, sel := 0, corrCnt := 0, uncF := 0, wrErr := false, fault := 0, copies := Bank.fill 4 .reset }

end Sys2Proof.Machine
end

