-- ==== Sys2Proof/Machine/Rec/Cw.lean ====
section
/-! DEFINITION. Record of the Carnelian window (spec/23_carnelian_window.md). -/

namespace Sys2Proof.Machine

/-- A pending window command (R601, R602): its operation, operand, channel, mailbox, argument and HT_REQ_SEC. -/
structure CwCmd where
  op : Byte
  param : Byte
  ch : Fin 256
  mb : Fin 4
  arg : W64
  sec : Bool
  deriving DecidableEq, Repr

/-- The window (R598 to R604). `doneWas` is DONE before the last command completed, which a read that coincides with the
completion returns (R23). -/
structure Carnelian where
  en : Bool
  cmdHi : BitVec 16
  args : Bank (BitVec 16) 4
  done : Bool
  doneWas : Bool
  hiv : Bool
  rfErr : Bool
  result : Nat
  rsp : List (BitVec 16)
  pend : Option CwCmd
  deriving DecidableEq, Repr

def Carnelian.reset : Carnelian :=
  { en := false, cmdHi := 0, args := Bank.fill 4 0, done := false, doneWas := false, hiv := false, rfErr := false, result := 0, rsp := [],
    pend := none }

end Sys2Proof.Machine
end

