-- ==== Sys2Proof/Machine/Rec/Dbg.lean ====
section
/-! DEFINITION. Records of the Vyler port, debug and trace (spec/22_debug.md). -/

namespace Sys2Proof.Machine

/-- The accesses that a wire request makes (R567). -/
inductive WireOp where
  | read | consume | write (data : W32)
  deriving DecidableEq, Repr

/-- What the block answers to a header (R568, R571). -/
inductive Rsp where
  | silent | done | hold | refuse
  deriving DecidableEq, Repr

/-- Results of a feed (R583). -/
inductive FeedRes where
  | ok | trap | block | refused
  deriving DecidableEq, Repr

/-- The debug registers and hidden state of one sequencer (R577 to R584). `exempt` says that the next instruction is
exempt from breakpoints (R581), `trapCatch` that a caught trap waits for its halt, `enCatch` that a caught enable does,
`grp` that a group request is pending, `stepping` that a stepped instruction is still held inside, `swOut` the channel that the switch in progress has switched out (R590). -/
structure DbgSeq where
  hcause : Nat
  accErr : Bool
  gsel : W32
  feedV : Bool
  feedRes : FeedRes
  feedCause : BitVec 24
  maddr : W32
  mdlo : W32
  mdhi : W32
  mctrl : W32
  merr : Bool
  mcause : Nat
  exempt : Bool
  trapCatch : Bool
  enCatch : Bool
  grp : Bool
  stepping : Bool
  swOut : Option (Fin 256)
  deriving DecidableEq, Repr

/-- The Vyler port in the always-on domain (R564 to R576). `busy` is the access in progress, `held` a completed read
whose request was answered HOLD, with its data, `rsp` and `rdata` the last answer on the wire, and `wrote` that it answers a WRITE. -/
structure VylerPort where
  lost : Bool
  sticky : Bool
  wdcErr : Bool
  hdrErr : Bool
  cause : Nat
  req : BitVec 2
  rdbuf : W32
  busy : Option (WireOp × BitVec 26)
  held : Option (WireOp × BitVec 26 × W32)
  rsp : Rsp
  rdata : W32
  wrote : Bool
  deriving DecidableEq, Repr

/-- Debug and trace (R563 to R594). `cfg` is DBG_CFG, whose CATCHEN survives RST_N; `emu` marks halves in emulated sleep;
`lastTime` is TD0 [51:20] of the last TIME packet, `fresh` the number of packets at the end of the trace that were created in the ns
`freshNs` after a TIME or LOST packet of it. -/
structure Debug where
  port : VylerPort
  cfg : W32
  allow : BitVec 2
  haltReq : BitVec 16
  hgrp : BitVec 16
  bps : Bank W32 4
  stimEn : W32
  trCfg : W32
  drops : Nat
  ovf : Bool
  trace : List W64
  traceLo : W32
  lastTime : Option W32
  freshNs : Option W64
  fresh : Nat
  sqs : Bank DbgSeq 16
  emu : Bank Bool 2
  deriving DecidableEq, Repr

def DbgSeq.reset : DbgSeq :=
  { hcause := 0, accErr := false, gsel := 0, feedV := false, feedRes := .ok, feedCause := 0, maddr := 0, mdlo := 0,
    mdhi := 0, mctrl := 0, merr := false, mcause := 0, exempt := false, trapCatch := false, enCatch := false,
    grp := false, stepping := false, swOut := none }

def VylerPort.reset : VylerPort :=
  { lost := false, sticky := false, wdcErr := false, hdrErr := false, cause := 0, req := 0, rdbuf := 0, busy := none,
    held := none, rsp := .silent, rdata := 0, wrote := false }

def Debug.reset : Debug :=
  { port := .reset, cfg := 0, allow := 2, haltReq := 0, hgrp := 0, bps := Bank.fill 4 0, stimEn := 0, trCfg := 0,
    drops := 0, ovf := false, trace := [], traceLo := 0, lastTime := none, freshNs := none, fresh := 0, sqs := Bank.fill 16 .reset,
    emu := Bank.fill 2 false }

end Sys2Proof.Machine
end

