-- ==== Sys2Proof/Machine/Rec/Eic.lean ====
section
/-! DEFINITION. Records of the event interrupt controller (spec/17_interrupt_controller.md). -/

namespace Sys2Proof.Machine

/-- States of a source (R452). -/
inductive SrcSt where
  | idle | held | pending | active
  deriving DecidableEq, Repr

/-- A source (R450 to R452): its register, the recorded level, SWP and ORPH. ACT is the state `active`;
`stray` says that it is orphaned now. -/
structure Source where
  reg : W32
  level : Bool
  swp : Bool
  orph : Bool
  stray : Bool
  st : SrcSt
  deriving DecidableEq, Repr

/-- A moderation group (R463). `win` is the end of its window, `free` the ns in which sources that become pending are
PENDING at once: the ns of an idle bypass or of a release by COUNT; `limit` is COUNT as the window began. -/
structure ModGroup where
  cfg : W32
  win : Option W64
  free : Option W64
  limit : Nat
  deriving DecidableEq, Repr

/-- A target (R453 to R461). The stack holds each source with the priority it was claimed at, top first; `woken` says
that a target in NAP has been woken. -/
structure Target where
  cfg : W32
  thr : BitVec 4
  stack : List (Fin 512 × Nat)
  req : Bool
  woken : Bool
  deriving DecidableEq, Repr

/-- The controller. -/
structure Eic where
  ieOrph : Bool
  spur : BitVec 16
  srcs : Bank Source 512
  mods : Bank ModGroup 32
  targets : Bank Target 18
  deriving DecidableEq, Repr

def Source.reset : Source := { reg := 0, level := false, swp := false, orph := false, stray := false, st := .idle }
def ModGroup.reset : ModGroup := { cfg := 0, win := none, free := none, limit := 0 }
def Target.reset : Target := { cfg := 0, thr := 0, stack := [], req := false, woken := false }

def Eic.reset : Eic :=
  { ieOrph := false, spur := 0, srcs := Bank.fill 512 .reset, mods := Bank.fill 32 .reset,
    targets := Bank.fill 18 .reset }

end Sys2Proof.Machine
end

