-- ==== Sys2Proof/Machine/Rec/Engine.lean ====
section
/-! DEFINITION. Records of the pin engines (spec/07_pin_engines.md). -/

namespace Sys2Proof.Machine

/-- States of an engine (R214). -/
inductive PeSt where
  | off | halt | run | stall | wait | draining | error
  deriving DecidableEq, Repr

inductive StallOn where
  | none | pull | push | lane | beryl
  deriving DecidableEq, Repr

inductive PeCause where
  | none | pcBound | illegal | lane | domain
  deriving DecidableEq, Repr

/-- TAG of a FIFO entry (R166). -/
inductive Tag where
  | data | last | stamp | abort
  deriving DecidableEq, Repr

/-- An entry of an input FIFO (R196). -/
structure InEntry where
  data : W64
  tag : Tag
  nbits : Fin 64
  stamp : Option (BitVec 43)
  deriving DecidableEq, Repr

/-- An entry of an output FIFO (R196), with its entry stamp. -/
structure OutEntry where
  data : W64
  tag : Tag
  nbits : Fin 64
  es : BitVec 42
  deriving DecidableEq, Repr

/-- Toggles that the clock generator has still to enqueue (R208): their A, the number of the next one, and the due time below
which they end where a later SCHED has re-armed the generator. -/
structure ClkRun where
  a : BitVec 40
  k : Nat
  lim : Option (BitVec 40)
  deriving DecidableEq, Repr

/-- What an engine that is inside a step has been told to do at its end (R194): halt, or go to OFF, with ABORT entries or not. -/
inductive PeStop where
  | halt | off (abort : Bool)
  deriving DecidableEq, Repr

/-- A pin engine (R193 to R220). `goCfg` is PEn_CFG at GO; `clk` is the armed clock generator, empty where it is disarmed;
`stepDone` marks the lanes that have taken their entry of the step in progress; `ofOpen` the output FIFOs whose last
pushed entry was neither LAST nor ABORT; `abortPend` the ABORT entries still to push; `wm` the largest value of
the quantity of R201 seen so far; `enRec` an enable recorded in DRAINING; `stop` what waits for the end of the step in progress. -/
structure Engine where
  cfg : W32
  st : PeSt
  stallOn : StallOn
  cause : PeCause
  fifoErr : Bool
  capOvf : Bool
  cfgIgn : Bool
  attErr : Bool
  ifOvf : Bool
  ofOvf : Bool
  sigF : Bool
  cfgErr : Bool
  pcReg : W32
  lanes : W32
  clkReg : W32
  period : W32
  osr : W64
  ocnt : Nat
  isr : W64
  icnt : Nat
  at_ : BitVec 48
  ct : BitVec 42
  ps : BitVec 43
  pv : Bool
  cvLev : BitVec 16
  cvPres : BitVec 16
  cmpVal : W32
  cmpMask : W32
  eq : Bool
  lvLev : BitVec 16
  lvVal : BitVec 16
  rep : Nat
  pc : BitVec 8
  lt : Tag
  ifs : Bank (List InEntry) 8
  ofs : Bank (List OutEntry) 8
  fdata : W64
  goCfg : W32
  clk : List ClkRun
  stepDone : BitVec 16
  ofOpen : BitVec 8
  abortPend : BitVec 8
  wm : W64
  enRec : Option W32
  stop : Option PeStop
  deriving DecidableEq, Repr

/-- A group's program memory and its inspection selector (R211, R219). -/
structure PeGroup where
  prog : List (Nat × W32)
  isel : W32
  deriving DecidableEq, Repr

def Engine.reset : Engine :=
  { cfg := 0, st := .off, stallOn := .none, cause := .none, fifoErr := false, capOvf := false, cfgIgn := false,
    attErr := false, ifOvf := false, ofOvf := false, sigF := false, cfgErr := false, pcReg := 0xFF00, lanes := 0,
    clkReg := 0, period := 0, osr := 0, ocnt := 0, isr := 0, icnt := 0, at_ := 0, ct := 0, ps := 0, pv := false,
    cvLev := 0, cvPres := 0, cmpVal := 0, cmpMask := 0, eq := false, lvLev := 0, lvVal := 0, rep := 0, pc := 0,
    lt := .data, ifs := Bank.fill 8 [], ofs := Bank.fill 8 [], fdata := 0, goCfg := 0, clk := [], stepDone := 0, ofOpen := 0,
    abortPend := 0, wm := 0, enRec := none, stop := none }

def PeGroup.reset : PeGroup := { prog := [], isel := 0 }

end Sys2Proof.Machine
end

