-- ==== Sys2Proof/Machine/Rec/Mem.lean ====
section
/-! DEFINITION. The record of the four memories, their error records, the background test and Agate's control
(spec/14_memories.md). -/

namespace Sys2Proof.Machine

/-- What MEM_UNC_INFO and MEM_UNC_ADDR tell of one uncorrectable error (R380, R391): REQ, MEM and the word. -/
structure UncErr where
  req : Nat
  mem : Nat
  addr : Nat
  deriving DecidableEq, Repr

/-- The record of the first uncorrectable error, and the newest error of all. -/
structure UncRec where
  valid : Bool
  count : Nat
  first : UncErr
  newest : UncErr
  deriving DecidableEq, Repr

/-- What MEM_COLL_INFO and MEM_COLL_ADDR tell of one collision (R377, R391): AWR, BWR, AREQ, SFCH and the word. -/
structure CollErr where
  awr : Bool
  bwr : Bool
  areq : Nat
  sfch : Nat
  addr : Nat
  deriving DecidableEq, Repr

/-- The record of the first collision, and the newest collision of all. -/
structure CollRec where
  valid : Bool
  count : Nat
  first : CollErr
  newest : CollErr
  deriving DecidableEq, Repr

/-- The memories. `cells` lists the bytes that are not zero, by block offset; `corr` and `unc` list the 64-bit words
(block offset divided by 8) that hold a single-bit or an uncorrectable error (R378). `bistLast` is TD0 at the last word of
the background test (R382). -/
structure Mem where
  cells : List Host.Cell
  corr : List Nat
  unc : List Nat
  cfg : W32
  corrCnt : Bank (BitVec 8) 4
  uncRec : UncRec
  collRec : CollRec
  bistCfg : W32
  passes : BitVec 16
  fail : Bool
  uncSkip : Bool
  bistAddr : Nat
  bistLast : Option W64
  bistFaddr : Nat
  agIe : Bool
  wipes : BitVec 16
  agDone : Bool
  agLast : Nat
  wiping : Bool
  wlock : BitVec 16
  deriving DecidableEq, Repr

def UncErr.none : UncErr := { req := 0, mem := 0, addr := 0 }
def CollErr.none : CollErr := { awr := false, bwr := false, areq := 0, sfch := 0, addr := 0 }
def UncRec.reset : UncRec := { valid := false, count := 0, first := .none, newest := .none }
def CollRec.reset : CollRec := { valid := false, count := 0, first := .none, newest := .none }

/-- The registers of the memories at the reset of the common region (R390, R391), with no byte listed. -/
def Mem.reset : Mem :=
  { cells := [], corr := [], unc := [], cfg := 0x10000000, corrCnt := Bank.fill 4 0, uncRec := .reset,
    collRec := .reset, bistCfg := 0x03E800F0, passes := 0, fail := false, uncSkip := false, bistAddr := 0, bistLast := none,
    bistFaddr := 0, agIe := false, wipes := 0, agDone := false, agLast := 0, wiping := false, wlock := 0 }

end Sys2Proof.Machine
end

