-- ==== Sys2Proof/Machine/Rec/Power.lean ====
section
/-! DEFINITION. Records of power, reset, supply guarding, lease, last gasp and the battery domain
(spec/20_power_reset_supply.md, the canary of spec/04_scheduled_execution.md). -/

namespace Sys2Proof.Machine

/-- States of a half (R517). -/
inductive HalfSt where
  | off | up | run | enter | sleep | wake | down
  deriving DecidableEq, Repr

/-- A half (R517 to R522). `wakeRec` is the WAKE recorded in ENTER. -/
structure Half where
  st : HalfSt
  cfg : W32
  done : Bool
  cmdErr : Bool
  lostF : Bool
  serr : Nat
  wakeRec : Bool
  deriving DecidableEq, Repr

/-- One half's claim of the lease (R531). -/
structure Claim where
  v : Bool
  epoch : BitVec 16
  until_ : W64
  deriving DecidableEq, Repr

inductive MasterSel where
  | none | north | south
  deriving DecidableEq, Repr

/-- MASTER and CHG as they were before the writes and expiries of the ns `at_` (R532). -/
structure MasterWas where
  at_ : W64
  master : MasterSel
  chg : Bool
  deriving DecidableEq, Repr

/-- The last gasp (R530). `left` lists the write numbers still to do. -/
structure Gasp where
  cfg : W32
  err : Bool
  done : Bool
  cause : Nat
  ref : BitVec 4
  addr : Bank W32 4
  data : Bank W32 4
  left : List (Fin 4)
  deriving DecidableEq, Repr

/-- The PW unit and the rails and reset inputs it watches. `sok` is the level of SUPPLY_OK, `sokSince` the TD0 at which it
took that level, `canaryAt` the TD0 of the last update of PW_CANARY. -/
structure Power where
  vao : Bool
  vcore : Bool
  porst : Bool
  rst : Bool
  testMode : Bool
  sysRst : Bool
  crst : Bool
  cready : Bool
  vcoreLost : Bool
  rstCause : BitVec 8
  supCfg : W32
  guardCnt : BitVec 16
  lowF : Bool
  sok : Bool
  sokSince : W64
  sokLow : Bool
  floorLow : Bool
  halves : Bank Half 2
  leaseCfg : W32
  claims : Bank Claim 2
  master : MasterSel
  chg : Bool
  masterWas : Option MasterWas
  eperr : Bank Bool 2
  canary : Bank (BitVec 16) 2
  canaryMin : Bank (BitVec 16) 2
  canaryAt : Option W64
  gasp : Gasp
  deriving DecidableEq, Repr

/-- The battery domain but for the lifecycle and tamper records (R533). -/
structure Battery where
  vok : Bool
  vinit : Bool
  data : Bank W32 64
  deriving DecidableEq, Repr

def Half.reset : Half :=
  { st := .off, cfg := 0, done := false, cmdErr := false, lostF := false, serr := 0, wakeRec := false }

def Claim.reset : Claim := { v := false, epoch := 0, until_ := 0 }

def Gasp.reset : Gasp :=
  { cfg := 0, err := false, done := false, cause := 0, ref := 0, addr := Bank.fill 4 0, data := Bank.fill 4 0,
    left := [] }

/-- The always-on domain at its reset (R534, R535), with VAO and VCORE present, PORST_N released and
RST_N low, as the integrator holds it (R526). -/
def Power.reset : Power :=
  { vao := true, vcore := true, porst := true, rst := false, testMode := false, sysRst := false, crst := true, cready := false,
    vcoreLost := true, rstCause := 1, supCfg := 0x01C20002, guardCnt := 0, lowF := false, sok := true, sokSince := 0, sokLow := false,
    floorLow := false, halves := Bank.fill 2 .reset, leaseCfg := 0x3E8, claims := Bank.fill 2 .reset,
    master := .none, chg := false, masterWas := none, eperr := Bank.fill 2 false, canary := Bank.fill 2 0,
    canaryMin := Bank.fill 2 0xFFFF, canaryAt := none, gasp := .reset }

def Battery.reset : Battery := { vok := true, vinit := true, data := Bank.fill 64 0 }

end Sys2Proof.Machine
end

