-- ==== Sys2Proof/Machine/Rec/Sec.lean ====
section
/-! DEFINITION. Records of the lifecycle transition, the Hagal loader and the battery domain's lifecycle and tamper
registers (spec/21_security_lifecycle.md). -/

namespace Sys2Proof.Machine

/-- Steps of a transition that stand between commands (R543); COMMIT is one operation. -/
inductive TrSt where
  | idle | clear
  deriving DecidableEq, Repr

/-- States of the loader (R549). -/
inductive LdSt where
  | idle | header | key | pass | verify | commit | rollback
  deriving DecidableEq, Repr

/-- A transition in progress (R541, R543): its target code, whether it zeroes memories, and whether a load started it. -/
structure Transition where
  st : TrSt
  target : BitVec 4
  full : Bool
  byLoad : Bool
  deriving DecidableEq, Repr

/-- The loader (R548 to R553). `win` holds the words of both window halves, `fed` the halves that wait to be consumed
with their word counts, `bad` the window words that hold an uncorrectable error, `fedBytes` the bytes fed so far, `img` the bytes consumed so far, first byte first, `paid` the
payload bytes that have been decrypted and written. -/
structure Loader where
  st : LdSt
  err : Nat
  done : Bool
  feedErr : Bool
  free : Bank Bool 2
  win : List (Nat × W32)
  fed : List (Fin 2 × Nat)
  fedBytes : Nat
  bad : List Nat
  img : List Byte
  paid : Nat
  deriving DecidableEq, Repr

/-- The security unit of the common region (R558, R559). -/
structure Security where
  cfg : W32
  csLock : BitVec 4
  tr : Transition
  lcResult : Nat
  lcDone : Bool
  ld : Loader
  patchId : W32
  patchRom : BitVec 16
  patchValid : BitVec 4
  hdr : Bank W32 48
  deriving DecidableEq, Repr

/-- An entry of the tamper log (R557, R561). -/
structure TamperEntry where
  lo : W32
  hi : W32
  deriving DecidableEq, Repr

/-- An input TAMPER[k] (R555): its level, the TD0 at which it took its level or became active where TD0 has run since, whether
it has given its event, and whether an event waits for a transition to end (R556). -/
structure TamperIn where
  level : Bool
  since : Option W64
  given : Bool
  waits : Bool
  deriving DecidableEq, Repr

def TamperIn.reset : TamperIn := { level := false, since := none, given := false, waits := false }

/-- The battery domain's lifecycle and tamper registers (R560, R561), the always-on record of an interrupted load
(R553), and the TAMPER inputs (R555). -/
structure Vault where
  state : BitVec 4
  count : BitVec 8
  svn : W32
  tamperCfg : W32
  tflag : BitVec 4
  wrap : Bool
  tcount : Nat
  head : Fin 16
  log : Bank TamperEntry 16
  aonLoad : Bool
  inputs : Bank TamperIn 4
  deriving DecidableEq, Repr

def Transition.reset : Transition := { st := .idle, target := 0, full := false, byLoad := false }

def Loader.reset : Loader :=
  { st := .idle, err := 0, done := false, feedErr := false, free := Bank.fill 2 true, win := [], fed := [], fedBytes := 0,
    bad := [], img := [], paid := 0 }

def Security.reset : Security :=
  { cfg := 0, csLock := 0, tr := .reset, lcResult := 0, lcDone := false, ld := .reset, patchId := 0, patchRom := 0,
    patchValid := 0, hdr := Bank.fill 48 0 }

def Vault.reset : Vault :=
  { state := 0, count := 0, svn := 0, tamperCfg := 0, tflag := 0, wrap := false, tcount := 0, head := 0,
    log := Bank.fill 16 { lo := 0, hi := 0 }, aonLoad := false,
    inputs := Bank.fill 4 .reset }

end Sys2Proof.Machine
end

