-- ==== Sys2Proof/Machine/Rec/Spinel.lean ====
section
/-! DEFINITION. Records of Spinel, the event fabric (spec/19_spinel_event_fabric.md). -/

namespace Sys2Proof.Machine

/-- An event that has been fired and has not entered: its channel and hop, and for a Beryl-timed producer the TD0 ns at which
it was fired (R495, R508). -/
structure Event where
  ch : Fin 256
  hop : Nat
  fired : Option W64
  deriving DecidableEq, Repr

/-- An event that has entered and arrives at `at_` (R495). -/
structure Flight where
  ch : Fin 256
  hop : Nat
  at_ : W64
  deriving DecidableEq, Repr

/-- A LUT cell (R505 to R509). `v` is V with `since` the ns at which it took its value, `last` the ns of the last
evaluation, `evalAt` the ns in which it last took its counts, `fresh` the ns in which a write last set its levels, `hop` the largest
hop taken since the last output event. -/
structure Lut where
  cfg : W32
  filt : Byte
  l : BitVec 4
  q : Bool
  y : Bool
  v : Bool
  out : Bool
  since : W64
  last : W64
  evalAt : Option W64
  fresh : Option W64
  hop : Nat
  deriving DecidableEq, Repr

/-- What governs the hardware in the ns `at_`: the registers as they were before the writes of that ns, which are applied after
its hardware (R496), and the groups as the hardware leaves them, with the groups that those writes switch ON and OFF. -/
structure SnWas where
  at_ : W64
  cfg : W32
  chCfg : Bank W32 256
  subs : Bank W32 648
  luts : Bank Lut 32
  groups : BitVec 16
  on : BitVec 16
  off : BitVec 16
  deriving DecidableEq, Repr

/-- Spinel (R491 to R515). `counts` lists the hops of the pending counts of the task inputs that have any, oldest first; `took`
lists the inputs of hardware consumers that have taken a count in the ns `tookNs`, `arr` the inputs at which SN arrivals were
counted in the ns `arrNs`, once for each. -/
structure Spinel where
  cfg : W32
  hopDrop : Bool
  hopCh : Fin 256
  hop : Nat
  loopErr : Bool
  loopCell : Fin 32
  groups : BitVec 16
  tisel : Nat
  chCfg : Bank W32 256
  luts : Bank Lut 32
  expFlag : BitVec 16
  expIe : BitVec 16
  subs : Bank W32 648
  counts : List (Nat × List Nat)
  ovf : BitVec 1312
  fired : List Event
  flight : List Flight
  tookNs : Option W64
  took : List Nat
  arrNs : Option W64
  arr : List Nat
  was : Option SnWas
  deriving DecidableEq, Repr

def Lut.reset : Lut :=
  { cfg := 0, filt := 0, l := 0, q := false, y := false, v := false, out := false, since := 0, last := 0,
    evalAt := none, fresh := none, hop := 0 }

def Spinel.reset : Spinel :=
  { cfg := 8, hopDrop := false, hopCh := 0, hop := 0, loopErr := false, loopCell := 0, groups := 0xFFFF, tisel := 0,
    chCfg := Bank.fill 256 0, luts := Bank.fill 32 .reset, expFlag := 0, expIe := 0, subs := Bank.fill 648 0,
    counts := [], ovf := 0, fired := [], flight := [], tookNs := none, took := [], arrNs := none, arr := [], was := none }

end Sys2Proof.Machine
end

