-- ==== Sys2Proof/Machine/Rec/Timer.lean ====
section
/-! DEFINITION. Records of the timer array and the watchdogs (spec/18_timer_array.md). -/

namespace Sys2Proof.Machine

/-- States of a timer but for HOLD, which is this state while Beryl is not in RUN (R480). -/
inductive TaSt where
  | off | stop | run | frozen
  deriving DecidableEq, Repr

/-- A timer (R468 to R481). `next` is the instant of the next prescaler tick, `left` the ns that were left when it
froze, `satd` that R470 absorbs its ticks, `co` and `match_` a CO and MATCH that the last tick fired and that have not
taken effect, with their hop and, for CO, LATE, `chain` a carry that drives it, `stopAt` the ns of the last STOP action. -/
structure Timer where
  cfg : W32
  st : TaSt
  cfgErr : Bool
  cfgIgn : Bool
  late : Bool
  sat : Bool
  matchF : Bool
  coF : Bool
  cnt : W32
  lim : W32
  cmp : W32
  phase : W32
  snap : W32
  act : W32
  evt : W32
  next : W64
  left : W64
  satd : Bool
  co : Option (Nat × Bool)
  match_ : Option Nat
  chain : Option Nat
  stopAt : Option W64
  deriving DecidableEq, Repr

inductive AcSt where
  | off | idle | armed
  deriving DecidableEq, Repr

/-- An absolute compare (R482, R483). `from_` is the first ns at which it may fire, `lateNext` that its value has been
passed other than by the advance of its domain. -/
structure Compare where
  cfg : W32
  st : AcSt
  cfgIgn : Bool
  late : Bool
  fired : Bool
  val : W64
  inc : W32
  from_ : W64
  lateNext : Bool
  deriving DecidableEq, Repr

/-- An edge that a capture pair has seen: its stamp, its level, and the ns at which its lane would commit it (R484). -/
structure PairEdge where
  stamp : Instant
  level : Bool
  commitAt : W64
  deriving DecidableEq, Repr

/-- A capture pair (R484). `pend` lists the edges that have not taken effect, oldest first. -/
structure CapPair where
  pend : List PairEdge
  cfg : W32
  ovr : Bool
  fv : Bool
  rv : Bool
  seq : BitVec 4
  rise : Instant
  fall : Instant
  deriving DecidableEq, Repr

/-- States of a watchdog but for HOLD (R487). -/
inductive WdSt where
  | off | run | frozen
  deriving DecidableEq, Repr

/-- A watchdog (R485 to R487). `due` is an expiry that has not taken effect, `lastDec` the ns of the last decrement. -/
structure Watchdog where
  cfg : W32
  st : WdSt
  cfgIgn : Bool
  graced : Bool
  keyErr : Bool
  expF : Bool
  warnF : Bool
  load : W32
  warn : W32
  grace : W32
  cnt : W32
  due : Bool
  lastDec : Option W64
  deriving DecidableEq, Repr

/-- A stagger start that waits (R478): its instant, its groups, and whether it was late as GO was written. -/
structure Stagger where
  at_ : W64
  mask : Byte
  late : Bool
  deriving DecidableEq, Repr

/-- The registers of the array as a whole (R475, R476, R478). -/
structure TimerArray where
  latch : Bool
  snapCnt : BitVec 16
  snapAt : Option W64
  stagAt : W64
  pend : Option Stagger
  busy : Bool
  late : Bool
  timers : Bank Timer 64
  compares : Bank Compare 32
  pairs : Bank CapPair 16
  dogs : Bank Watchdog 2
  shadows : Bank (Option (Fin 32 × W32)) 18
  deriving DecidableEq, Repr

def Timer.reset : Timer :=
  { cfg := 0, st := .off, cfgErr := false, cfgIgn := false, late := false, sat := false, matchF := false, coF := false,
    cnt := 0, lim := 0, cmp := 0, phase := 0, snap := 0, act := 0, evt := 0, next := 0, left := 0, satd := false,
    co := none, match_ := none, chain := none, stopAt := none }

def Compare.reset : Compare :=
  { cfg := 0, st := .off, cfgIgn := false, late := false, fired := false, val := 0, inc := 0, from_ := 0,
    lateNext := false }

def CapPair.reset : CapPair :=
  { pend := [], cfg := 0, ovr := false, fv := false, rv := false, seq := 0, rise := { ns := 0, q := 0 }, fall := { ns := 0, q := 0 } }

def Watchdog.reset : Watchdog :=
  { cfg := 0x40000000, st := .off, cfgIgn := false, graced := false, keyErr := false, expF := false, warnF := false,
    load := 0xF4240, warn := 0, grace := 0x3E8, cnt := 0, due := false, lastDec := none }

def TimerArray.reset : TimerArray :=
  { latch := false, snapCnt := 0, snapAt := none, stagAt := 0, pend := none, busy := false, late := false,
    timers := Bank.fill 64 .reset, compares := Bank.fill 32 .reset, pairs := Bank.fill 16 .reset,
    dogs := Bank.fill 2 .reset, shadows := Bank.fill 18 none }

end Sys2Proof.Machine
end

