-- ==== Sys2Proof/Machine/State.lean ====
section
/-! DEFINITION. The state of the block: every register, queue, memory, counter, mode and pin that the spec gives it, the
queue of the commands that wait, and the model's own counter of free values. What each record holds stands in
Machine/Rec. -/

namespace Sys2Proof.Machine

/-- The state. `pending` is the queue of waiting commands, first in, first out. `free` is the model's own: it names the next
free value of Config, and nothing rests on its value. -/
structure State where
  /-- Beryl and the time domains (spec/03). -/
  beryl : Beryl
  /-- The lane cells (spec/05). -/
  lanes : Bank Lane 256
  /-- The host target port (spec/02). -/
  hp : HostPort
  /-- The transfer engine (spec/02). -/
  xf : Xfer
  /-- The key port (spec/02). -/
  key : KeyPort
  /-- Power, reset, supply guarding, lease and last gasp (spec/20). -/
  power : Power
  /-- The battery domain's data (spec/20). -/
  bat : Battery
  /-- The channels with their mailboxes (spec/13). -/
  chans : Bank Channel 256
  /-- Post staging: host, debugger and the sixteen sequencers (R363). -/
  posts : Bank PostRegs 18
  /-- The sequencers (spec/09 to spec/12). -/
  seqs : Bank Seq 16
  /-- The instruction buffers of the clusters (R236). -/
  ibufs : Bank Ibuf 4
  /-- The save pool (R246, R247). -/
  pool : Pool
  /-- The four memories (spec/14). -/
  mem : Mem
  /-- The pin engines (spec/07, spec/08). -/
  engines : Bank Engine 64
  /-- The program memories of the engine groups (R211). -/
  groups : Bank PeGroup 16
  /-- The stream channels (spec/06). -/
  streams : Bank Stream 128
  /-- The CRC units (R181). -/
  crcs : Bank CrcUnit 32
  /-- The registers of the bit-stuff units (R183). -/
  bss : Bank W32 16
  /-- The registers of the line-coding units (R184). -/
  lcs : Bank W32 16
  /-- The guardian channels (spec/15). -/
  gds : Bank Guardian 2
  /-- The arbitrated-bus cells (spec/16). -/
  abs_ : Bank AbCell 16
  /-- Spinel (spec/19). -/
  sn : Spinel
  /-- The timer array and the watchdogs (spec/18). -/
  ta : TimerArray
  /-- The event interrupt controller (spec/17). -/
  eic : Eic
  /-- The control stores (spec/12). -/
  cs : ControlStore
  /-- The security unit and the loader (spec/21). -/
  sec : Security
  /-- The battery domain's lifecycle and tamper registers (spec/21). -/
  vault : Vault
  /-- Debug and trace (spec/22). -/
  dbg : Debug
  /-- The Carnelian window (spec/23). -/
  cw : Carnelian
  /-- The commands that wait. -/
  pending : List Instr
  /-- The number of the next free value. -/
  free : Nat
  deriving DecidableEq, Repr

/-- Reasons to stop with a fault. -/
inductive Fault where
  /-- Raised by AB_BUS_ERROR for an error in a frame without an error code, which no bus carries (Sys2Proof.Instr.wf). Safe: the
  spec gives such a command no meaning. -/
  | illFormed
  deriving DecidableEq, Repr

/-- Reasons to refuse a command. -/
inductive Refusal where
  /-- Raised by an arm of `exec` whose command has no meaning yet, by its mnemonic. Safe: nothing can be proved of it. -/
  | notModelled (mnemonic : String)
  deriving DecidableEq, Repr

/-- The block right after the power-on reset (R523, R526 steps 1 to 4): VBAT, VAO and VCORE applied, PORST_N released, RST_N
still low, and nothing commanded. -/
def State.reset : State :=
  { beryl := .reset, lanes := Bank.fill 256 (.reset 0 false), hp := .reset, xf := .reset, key := .reset, power := .reset,
    bat := .reset, chans := Bank.fill 256 .reset, posts := Bank.fill 18 .reset, seqs := Bank.fill 16 .reset,
    ibufs := Bank.fill 4 .reset, pool := .reset, mem := .reset, engines := Bank.fill 64 .reset,
    groups := Bank.fill 16 .reset, streams := Bank.fill 128 .reset, crcs := Bank.fill 32 .reset, bss := Bank.fill 16 0,
    lcs := Bank.fill 16 0, gds := Bank.fill 2 .reset, abs_ := Bank.fill 16 .reset, sn := .reset, ta := .reset,
    eic := .reset, cs := .reset, sec := .reset, vault := .reset, dbg := .reset, cw := .reset, pending := [], free := 0 }

end Sys2Proof.Machine
end

