-- ==== Sys2Proof/Machine/Beryl.lean ====
section
/-! DEFINITION. Domains of Beryl as functions of TD0: segments, due instants, commands, conversion
(spec/03_beryl_timebase.md, R98 to R111). -/

namespace Sys2Proof.Machine

/-- TD0 as a number of ns that counts its wraps (R88). -/
def Beryl.g (b : Beryl) : Nat := b.wraps * 2 ^ 64 + b.td0.toNat

/-- The 64-bit instant `x` near TD0 = `g`, counted as TD0 is in `Beryl.g`. -/
def nearG (g : Nat) (x : W64) : Int := g + (x - BitVec.ofNat 64 g).toInt

/-- R103: the value of the segment at TD0 = `g`, in 2^-40 ns.
DESIGN CHOICE (log 9): the formula also gives the value before gs, where a load of TD0 has led. -/
def Seg.valueAt (sg : Seg) (g : Int) : BitVec 104 :=
  sg.vs + BitVec.ofInt 104 ((g - sg.gs) * (2 ^ 40 + sg.r))

/-- 64 bits of ns as 64.40. -/
def fix40 (x : W64) : BitVec 104 := x ++ (0 : BitVec 40)

/-- The sign of a number of ns. -/
def sgn (x : Int) : Int := if x < 0 then -1 else if x = 0 then 0 else 1

/-- R105: how long a slew of `arg` at `rate` lasts, in ns. -/
def slewLen (arg : Int) (rate : Nat) : Nat := (arg.natAbs * 2 ^ 40 + rate - 1) / rate

/-- The part of the rate that a running slew adds (R104). -/
def Domain.slewRate (d : Domain) : Int :=
  match d.slew with
  | some w => sgn w.arg * w.rate
  | none => 0

/-- R105: the segment that a command brings at its instant. -/
def Domain.segOf (d : Domain) (p : PendCmd) : Seg :=
  let v := d.cur.valueAt p.at_
  match p.code with
  | .set => { gs := p.at_, vs := fix40 p.arg, r := d.cur.r }
  | .step => { gs := p.at_, vs := v + fix40 p.arg, r := d.cur.r }
  | .slew =>
    if p.arg = 0 then { gs := p.at_, vs := v, r := d.rate }
    else { gs := p.at_, vs := v, r := d.rate + sgn p.arg.toInt * p.slew }
  | .rate => { gs := p.at_, vs := v, r := (lo32 p.arg).toInt + d.slewRate }

/-- R106: the difference between ARG and what the slew has added in its D ns, in 2^-40 ns. -/
def Slew.rest (w : Slew) : Int := w.arg * 2 ^ 40 - sgn w.arg * (((w.endAt - w.from_) * w.rate : Nat) : Int)

/-- R106, R107: the segment at the end of a slew, whole or cut short. -/
def Domain.endSeg (d : Domain) (w : Slew) : Seg :=
  match w.cut with
  | some c => { gs := c, vs := d.cur.valueAt c, r := d.rate }
  | none => { gs := w.endAt, vs := d.cur.valueAt w.endAt + BitVec.ofInt 104 w.rest, r := d.rate }

/-- The domain with the segment `sg` in force: the one before it becomes the previous, unless it lasted no time. -/
def Domain.enter (d : Domain) (sg : Seg) : Domain :=
  { d with prev := if d.cur.gs = sg.gs then d.prev else d.cur, cur := sg }

/-- R105, R107: the command takes effect. -/
def Domain.apply (d : Domain) (p : PendCmd) : Domain :=
  let sg := d.segOf p
  let d1 := { d.enter sg with applied := true, late := d.late || p.late }
  match p.code with
  | .set => d1
  | .step => d1
  | .slew =>
    if p.arg = 0 then { d1 with slew := none, slewEnd := true }
    else
      { d1 with slew := some { arg := p.arg.toInt, rate := p.slew, from_ := p.at_, endAt := p.at_ + slewLen p.arg.toInt p.slew, cut := none,
                               cutLate := false, cutOwner := none } }
  | .rate => { d1 with rate := (lo32 p.arg).toInt }

/-- R106, R107: the slew ends. -/
def Domain.finish (d : Domain) (w : Slew) : Domain :=
  let d1 := { d.enter (d.endSeg w) with slew := none }
  match w.cut with
  | some _ => { d1 with slewCut := true, late := d.late || w.cutLate }
  | none => { d1 with slewEnd := true }

/-- The instant at which the slew ends, whole or cut short. -/
def Slew.stop (w : Slew) : Nat := w.cut.getD w.endAt

/-- The domain with the end of its slew in force where it comes up to TD0 = `g`. -/
def Domain.endBy (d : Domain) (g : Int) : Domain :=
  match d.slew with
  | some w => if (w.stop : Int) ≤ g then d.finish w else d
  | none => d

/-- The commands of `l` in the order in which they take effect: by their instants, those of one ns as accepted. -/
def byInstant : List PendCmd → List PendCmd
  | [] => []
  | p :: l =>
    let r := byInstant l
    (r.filter fun x => decide (x.at_ < p.at_)) ++ p :: r.filter fun x => decide (p.at_ ≤ x.at_)

/-- The waiting commands whose instants lie up to TD0 = `g`, in the order in which they take effect. -/
def Domain.due (d : Domain) (g : Int) : List PendCmd := byInstant (d.pend.filter fun p => decide ((p.at_ : Int) ≤ g))

/-- The domain with the changes in force that wait for an instant up to TD0 = `g` (R109). -/
def Domain.ahead (d : Domain) (g : Int) : Domain :=
  ((d.due g).foldl (init := d) fun x p => (x.endBy p.at_).apply p).endBy g

/-- R110: the next segment, where there is one. -/
def Domain.next? (d : Domain) : Option Seg :=
  match byInstant d.pend, d.slew with
  | p :: _, _ => some ((d.pend.filter fun x => decide (x.at_ = p.at_)).foldl (init := d.endBy p.at_) Domain.apply).cur
  | [], some w => some (d.endSeg w)
  | [], none => none

/-- The value of the domain at TD0 = `g`, with every waiting change in force from its instant on (R103, R109). -/
def Domain.valueAt (d : Domain) (g : Int) : BitVec 104 := (d.ahead g).cur.valueAt g

/-- The whole ns of the domain at TD0 = `g`. -/
def Domain.nsAt (d : Domain) (g : Int) : W64 := (d.valueAt g).extractLsb' 40 64

/-- R101: the 64-bit time that the 40-bit stamp `x` stands for beside `ref`. -/
def expand40 (ref : W64) (x : BitVec 40) : W64 := ref + (x - ref.setWidth 40).signExtend 64

/-- R102: the stamp `x` is due at TD0 = `g`: the domain has reached it inside the horizon. -/
def Domain.dueAt (d : Domain) (x : BitVec 40) (g : Int) : Bool := decide ((x - (d.nsAt g).setWidth 40).toInt ≤ 0)

/-- R100: the 64-bit time `x` lies in the domain's horizon at TD0 = `g`. -/
def Domain.inHorizon (d : Domain) (x : W64) (g : Int) : Bool :=
  let k := (fix40 x - d.valueAt g).toInt
  decide (-(2 ^ 79) ≤ k ∧ k < 2 ^ 79)

/-- R118: an entry of stamp `x` that enters at `ge` is late: it is due before `ge + 24`. -/
def Domain.leadLate (d : Domain) (x : BitVec 40) (ge : Int) : Bool :=
  (List.range 24).any fun k => d.dueAt x (ge + k)

/-- R106: what REMAIN reads at TD0 = `g`. -/
def Domain.remain (d : Domain) (g : Nat) : W32 :=
  match d.slew with
  | none => 0
  | some w =>
    if w.cut.getD w.endAt ≤ g then 0
    else BitVec.ofInt 32 (w.arg - sgn w.arg * (((g - w.from_) * w.rate / 2 ^ 40 : Nat) : Int))

/-- The command that waits with AT (R107). -/
def Domain.atCmd? (d : Domain) : Option PendCmd := d.pend.find? fun p => !p.isNow

/-- R106, R107: the state that TDn_STAT.STATE reports: 0 RUN, 1 PENDING, 2 SLEWING. -/
def Domain.state (d : Domain) : Nat := if d.slew.isSome then 2 else if d.atCmd?.isSome then 1 else 0

/-- R115: PCODE. -/
def TdCode.num : TdCode → Nat
  | .set => 1
  | .step => 2
  | .slew => 3
  | .rate => 4

/-- R104, R105: the argument and SLEW lie in range. -/
def tdRangeOk (code : TdCode) (arg : W64) (slew : Nat) : Bool :=
  match code with
  | .set => true
  | .step => true
  | .slew => decide (arg.toInt.natAbs < 2 ^ 31 ∧ 1 ≤ slew ∧ slew ≤ 109951162)
  | .rate => decide (-(2 ^ 30) ≤ (lo32 arg).toInt ∧ (lo32 arg).toInt ≤ 2 ^ 30)

/-- R107: Beryl is in READY or RUN. -/
def Beryl.live (b : Beryl) : Bool := decide (b.st = .ready) || decide (b.st = .run)

/-- R105, R107: a SET, STEP, SLEW or RATE command with the registers' operands, judged at TD0 = `b.g`.
DEDUCED (log 9): commands accepted in one ns with NOW take effect in the order of their acceptance.
DESIGN CHOICE (log 9): until a SLEW with NOW takes effect the domain is in RUN, so that a command with AT may follow it in the
same ns; the domain then slews with that command waiting, reports SLEWING with PCODE 0, takes a CANCEL for the slew, and applies
the command at its AT to the segment that runs. -/
def Domain.command (d : Domain) (b : Beryl) (code : TdCode) (whenAt : Bool) (owner : Option (Fin 256)) : Domain :=
  let slew := fldN d.slewReg 0 27
  if !b.live then { d with cmderr := 6 }
  else if !tdRangeOk code d.arg slew then { d with cmderr := 2 }
  else if d.state ≠ 0 then { d with cmderr := 1 }
  else
    let p : PendCmd :=
      if whenAt && decide (b.td0 < d.at_) then
        { code := code, arg := d.arg, slew := slew, at_ := b.wraps * 2 ^ 64 + d.at_.toNat, late := false, isNow := false, owner := owner }
      else
        { code := code, arg := d.arg, slew := slew, at_ := b.g + 1, late := whenAt, isNow := true, owner := owner }
    { d with pend := d.pend ++ [p], cmderr := 0 }

/-- R107: CANCEL, judged at TD0 = `b.g`.
DESIGN CHOICE (log 9): a CANCEL of a slew that an earlier CANCEL has already cut is judged against the slew's own end, ga + D,
and its cut replaces the earlier one; the rule speaks of one CANCEL. -/
def Domain.cancel (d : Domain) (b : Beryl) (whenAt : Bool) (owner : Option (Fin 256)) : Domain :=
  if !b.live then { d with cmderr := 6 }
  else match d.slew with
    | some w =>
      if whenAt && decide (b.td0 < d.at_) then
        if b.wraps * 2 ^ 64 + d.at_.toNat < w.endAt then
          { d with slew := some { w with cut := some (b.wraps * 2 ^ 64 + d.at_.toNat), cutLate := false, cutOwner := owner },
                   cmderr := 0 }
        else { d with cmderr := 5 }
      else if b.g + 1 < w.endAt then
        { d with slew := some { w with cut := some (b.g + 1), cutLate := whenAt, cutOwner := owner }, cmderr := 0 }
      else { d with cmderr := 5 }
    | none =>
      if d.atCmd?.isSome then { d with pend := d.pend.filter fun p => p.isNow, cmderr := 0 } else { d with cmderr := 4 }

/-- R110: the segments of domain `n`, from next to previous. TD0 is one fixed segment (R103). -/
def Beryl.segs (b : Beryl) (n : Fin 8) : List Seg :=
  if n = 0 then [.zero]
  else
    let d := b.doms.at n
    (match d.next? with | some x => [x] | none => []) ++ [d.cur, d.prev]

/-- The first of the segments that satisfies `p`; when none does, the last one, flagged as extrapolated. -/
def pickSeg (p : Seg → Bool) : List Seg → Seg × Bool
  | [] => (.zero, true)
  | [x] => (x, !p x)
  | x :: y :: r => if p x then (x, false) else pickSeg p (y :: r)

/-- R110: how far the time `t` lies from the segment's start value, in 2^-40 ns: not negative where the segment reaches it at
or after gs. Times are modulo 2^64 ns, so that a segment reaches `t` once in every 2^64 ns of its own: the instant that counts is
the one nearest to TD0 = `g`, but none before TD0 = 0.
DEDUCED (log 9): the rule speaks of the solution of TDa(x) = t, of which there are several. -/
def Seg.span (sg : Seg) (g : Nat) (t : BitVec 104) : Int :=
  let a : Int := 2 ^ 40 + sg.r
  let d := (t - sg.valueAt g).toInt
  ((g : Int) - sg.gs) * a + (if (g : Int) * a + d < 0 then d + 2 ^ 104 else d)

/-- R110: conversion of `t` (64.40) from domain `src` to domain `dst`: the result in 64.16 and STALE. -/
def Beryl.convert (b : Beryl) (src dst : Fin 8) (t : BitVec 104) : BitVec 80 × Bool :=
  let (sa, stA) := pickSeg (fun sg => decide (0 ≤ sg.span b.g t)) (b.segs src)
  let dt := sa.span b.g t
  let A : Int := 2 ^ 40 + sa.r
  let off (sg : Seg) : Int := (sg.gs : Int) - sa.gs
  let (sb, stB) := pickSeg (fun sg => decide (off sg * A ≤ dt)) (b.segs dst)
  let B : Int := 2 ^ 40 + sb.r
  let num : Int := ((sb.vs.toNat : Int) - off sb * B) * A + dt * B
  (BitVec.ofInt 80 (num / (A * 2 ^ 24)), (stA && decide (src ≠ 0)) || (stB && decide (dst ≠ 0)))

end Sys2Proof.Machine
end

