-- ==== Sys2Proof/Machine/Ops.lean ====
section
/-! DEFINITION. Named operations over the whole state: time, halves, breaches, events and the memories. -/

namespace Sys2Proof.Machine

/-- TD0 now. -/
def State.now (s : State) : W64 := s.beryl.td0

/-- The 64-bit instant `x` near TD0 as a number of ns that counts TD0 with its wraps (R88). -/
def State.abs (s : State) (x : W64) : Int := nearG s.beryl.g x

/-- Beryl is in RUN. -/
def State.ticking (s : State) : Bool := decide (s.beryl.st = .run)

/-- The ns of TD0, none while TD0 stands still. -/
def State.nsNow (s : State) : Option W64 := if s.ticking then some s.now else none

/-- TD0 reaches the instant `t` (R87, R88): nothing where Beryl is not in RUN or `t` lies before TD0. -/
def State.advance (s : State) (t : Instant) : State :=
  if s.beryl.st = .run ∧ notBefore t.ns s.beryl.td0 then
    let w := decide (t.ns < s.beryl.td0)
    { s with beryl := { s.beryl with
        td0 := t.ns, q := t.q, wraps := s.beryl.wraps + b2n w, wrap := s.beryl.wrap || w,
        atWrap := decide (t.ns = 0) && (w || s.beryl.atWrap) } }
  else s

/-- The half `h` runs: the common region is out of reset and the half is in RUN (R517). -/
def State.halfUp (s : State) (h : Fin 2) : Bool := !s.power.crst && decide ((s.power.halves.at h).st = .run)

/-- The common region is out of reset. -/
def State.up (s : State) : Bool := !s.power.crst

def laneHalf (n : Fin 256) : Fin 2 := if n.val < 128 then 0 else 1
def engHalf (n : Fin 64) : Fin 2 := if n.val < 32 then 0 else 1
def seqHalf (n : Fin 16) : Fin 2 := if n.val < 8 then 0 else 1
def sfHalf (n : Fin 128) : Fin 2 := if n.val < 64 then 0 else 1

/-- A free value is drawn: the value that the model's counter names, and the state with the counter advanced. -/
def State.draw (s : State) : Nat × State := (s.free, { s with free := s.free + 1 })

/-- An event of Spinel channel `n` with hop `h` is fired (R495, R508), by a Beryl-timed producer (`timed`) or a clockless one, and
waits for its entry. -/
def State.fireHop (s : State) (timed : Bool) (n h : Nat) : State :=
  let e : Event := { ch := Fin.ofNat 256 n, hop := h, fired := if timed then some s.beryl.td0 else none }
  { s with sn := { s.sn with fired := s.sn.fired ++ [e] } }

/-- An event of Spinel channel `n` is fired by a clockless producer, with hop 0. -/
def State.fire (s : State) (n : Nat) : State := s.fireHop false n 0

/-- The master's place among the requesters of R96 and R363: host 0, debugger 1, SQn 2 + n. -/
def Master.slot : Master → Fin 18
  | .sq n => ⟨n.val + 2, by omega⟩
  | .debugger => 1
  | _ => 0

/-! Channels: class, claims and breaches (R125, R133, R347, R366). -/

def Channel.det (c : Channel) : Bool := bit c.config 31
def Channel.sec (c : Channel) : Bool := bit c.config 30
def Channel.aff (c : Channel) : Nat := fldN c.config 28 2
def Channel.seqNo (c : Channel) : Fin 16 := Fin.ofNat 16 (fldN c.config 24 4)
def Channel.pri (c : Channel) : Nat := fldN c.config 20 4
/-- Mailbox `m` is stamped (R347). -/
def Channel.stmp (c : Channel) (m : Fin 4) : Bool := bit c.config (4 * m.val + 3)
/-- The domain of mailbox `m` (R347). -/
def Channel.mdom (c : Channel) (m : Fin 4) : Fin 8 := Fin.ofNat 8 (fldN c.config (4 * m.val) 3)

/-- The channels, in order. -/
def allChans : List (Fin 256) := List.ofFn (fun i : Fin 256 => i)
def allSeqs : List (Fin 16) := List.ofFn (fun i : Fin 16 => i)
def allLanes : List (Fin 256) := allChans
def allEngines : List (Fin 64) := List.ofFn (fun i : Fin 64 => i)
def allStreams : List (Fin 128) := List.ofFn (fun i : Fin 128 => i)

/-- The deterministic channel outside OFF whose claims satisfy `p` (R366). -/
def State.detOwner (s : State) (p : Channel → Bool) : Option (Fin 256) :=
  allChans.find? fun c => let x := s.chans.at c; decide (x.st ≠ .off) && x.det && p x

def State.laneOwner (s : State) (n : Fin 256) : Option (Fin 256) := s.detOwner fun c => c.lanes.getLsbD n.val
def State.engOwner (s : State) (n : Fin 64) : Option (Fin 256) := s.detOwner fun c => c.engines.getLsbD n.val
def State.sfOwner (s : State) (n : Fin 128) : Option (Fin 256) := s.detOwner fun c => c.streams.getLsbD n.val
def State.abOwner (s : State) (n : Fin 16) : Option (Fin 256) := s.detOwner fun c => c.cells.getLsbD n.val

/-- A switch is requested on the sequencer (R264). -/
def State.reqSwitch (s : State) (n : Fin 16) : State :=
  { s with seqs := s.seqs.mod n fun q => { q with swReq := true } }

/-- R351: the channel enters FAULT with `cause`. One that holds a sequencer is switched out by SWITCH_OUT; one in
WAIT_POOL keeps the fault until its retry. -/
def State.faultChan (s : State) (c : Fin 256) (cause : FCause) : State :=
  let x := s.chans.at c
  match x.st with
  | .run | .ready | .blocked | .draining =>
    let s1 := { s with chans := s.chans.upd c { x with st := .fault, faultF := true, fcause := cause } }
    if x.res then s1.reqSwitch x.sq else s1
  | .waitPool => { s with chans := s.chans.upd c { x with faultRec := some (x.faultRec.getD cause) } }
  | _ => s

/-- R351: the codes of BREACH, in the order of the table of R132. -/
def BreachCond.num : BreachCond → Nat
  | .late => 1
  | .overflow => 2
  | .ecc => 3
  | .tdLate => 4
  | .beryl => 5

/-- R133: the condition `cond` fails at `now`: the first condition stays recorded, and among those of one ns the first of
the table of R132. -/
def Channel.breached (x : Channel) (cond : BreachCond) (now : W64) : Channel :=
  match x.breach with
  | none => { x with breach := some cond, breachAt := now }
  | some b => if x.breachAt = now ∧ cond.num < b.num then { x with breach := some cond } else x

/-- R133, R351: a breach of channel `c`. -/
def State.breach (s : State) (c : Fin 256) (cond : BreachCond) : State :=
  let x := s.chans.at c
  if x.st = .off then s
  else
    let s1 := { s with chans := s.chans.upd c (x.breached cond s.now) }
    s1.faultChan c .breach

/-- A breach of the owner, where there is one. -/
def State.breachOf (s : State) (o : Option (Fin 256)) (cond : BreachCond) : State :=
  match o with
  | some c => s.breach c cond
  | none => s

/-! The memories (R370 to R381). -/

/-- Which memory a block offset lies in: 0 scratchpad, 1 Agate, 2 context SRAM, 3 program memory (R370). -/
def memOf (a : Nat) : Option (Fin 4) :=
  if 0x1000000 ≤ a ∧ a < 0x1200000 then some 0
  else if 0x1200000 ≤ a ∧ a < 0x1210000 then some 1
  else if 0x1400000 ≤ a ∧ a < 0x1440000 then some 2
  else if 0x1800000 ≤ a ∧ a < 0x1880000 then some 3
  else none

/-- What a byte that is not listed reads as: memory set-up writes zero (R524). -/
def Mem.blank : Byte := 0

/-- The byte at block offset `a`. -/
def Mem.byte (m : Mem) (a : Nat) : Byte := sparseGet Mem.blank m.cells a

/-- The memory with the byte at `a` written. -/
def Mem.setByte (m : Mem) (a : Nat) (v : Byte) : Mem := { m with cells := sparseSet Mem.blank m.cells a v }

/-- `n` bytes from `a` up as a number, the first byte lowest (R49). -/
def Mem.num (m : Mem) : Nat → Nat → Nat
  | _, 0 => 0
  | a, n + 1 => (m.byte a).toNat + 256 * m.num (a + 1) n

/-- The memory with `n` bytes of `v` written from `a` up (R49). -/
def Mem.setNum (m : Mem) : Nat → Nat → Nat → Mem
  | _, 0, _ => m
  | a, n + 1, v => (m.setByte a (BitVec.ofNat 8 v)).setNum (a + 1) n (v / 256)

/-- The canonical form of the memory's bytes. -/
def Memory.wf (m : Mem) : Bool := sparseWf Mem.blank m.cells

/-- A byte count that saturates at 255. -/
def sat255 (x : Nat) : Nat := if x < 255 then x + 1 else 255

/-- R380: an uncorrectable error met by the requester of code `req` in memory `mm`, in the word at block offset `a`. -/
def UncRec.note (r : UncRec) (req mm a : Nat) : UncRec :=
  let e : UncErr := { req := req, mem := mm, addr := a }
  { valid := true, count := sat255 r.count, first := if r.valid then r.first else e, newest := e }

/-- `n` free bits from counter value `k` as a number. -/
def freeNat (k n : Nat) : Nat := (List.range n).foldl (fun acc i => acc + b2n (Config.freeBit (k + i)) * 2 ^ i) 0

/-- R380, R419: an uncorrectable error met in a register array at block offset `a`. No code of MEM names an array and none
of REQ a bus unit (`req` none): those fields are free values (log 6). -/
def State.arrayUnc (s : State) (req : Option Nat) (a : Nat) : State :=
  let r := s.mem.uncRec.note (req.getD (freeNat s.free 5)) (freeNat (s.free + 5) 2) (a / 8 * 8)
  { s with free := s.free + 7, mem := { s.mem with uncRec := r } }

/-- R380: an uncorrectable error met by the requester of code `req` at word `w`. -/
def Mem.noteUnc (m : Mem) (req w : Nat) : Mem :=
  { m with uncRec := m.uncRec.note req (((memOf (8 * w)).map Fin.val).getD 0) (8 * w) }

/-- R379: a single-bit error at word `w` is corrected, written back and counted. -/
def Mem.noteCorr (m : Mem) (w : Nat) : Mem :=
  match memOf (8 * w) with
  | some k => { m with corr := m.corr.filter (· ≠ w),
                       corrCnt := m.corrCnt.mod k fun c => if c = 255 then c else c + 1 }
  | none => m

/-- The check of the word that a read meets (R378 to R380): false where it holds an uncorrectable error. -/
def Mem.check (m : Mem) (req w : Nat) : Bool × Mem :=
  if w ∈ m.unc then (false, m.noteUnc req w)
  else if w ∈ m.corr then (true, m.noteCorr w)
  else (true, m)

/-- R374, R378: a read of `n` bytes inside one 64-bit word; none where the word has an uncorrectable error. -/
def Mem.read (m : Mem) (req a n : Nat) : Option Nat × Mem :=
  let (ok, m1) := m.check req (a / 8)
  (if ok then some (m1.num a n) else none, m1)

/-- R374, R381: a write of `n` bytes inside one 64-bit word. A write of all eight clears an error; a partial write
checks the word first and leaves an uncorrectable error standing. -/
def Mem.write (m : Mem) (req a n v : Nat) : Mem :=
  if n = 8 then
    { m with corr := m.corr.filter (· ≠ a / 8), unc := m.unc.filter (· ≠ a / 8) }.setNum a 8 v
  else (m.check req (a / 8)).2.setNum a n v

/-- R311: a write to a 64-bit word clears the reservations on it. -/
def State.clearResv (s : State) (w : Nat) : State :=
  { s with seqs := s.seqs.map fun q => if q.resv = some w then { q with resv := none } else q }

/-- A write of memory by any party: the bytes and the reservations on the word. -/
def State.memWrite (s : State) (req a n v : Nat) : State :=
  ({ s with mem := s.mem.write req a n v }).clearResv (a / 8)

/-- A read of memory by any party. -/
def State.memRead (s : State) (req a n : Nat) : Option Nat × State :=
  let (v, m) := s.mem.read req a n
  (v, { s with mem := m })

/-- Requester codes of R391. -/
def Master.memReq : Master → Nat
  | .sq n => n.val
  | .xfer => 17
  | _ => 16

/-- R377: a collision between the port-A access `x` and a port-B access of stream channel `ch`. -/
def Mem.collide (m : Mem) (x : PortA) (ch : Fin 128) (bwr : Bool) : Mem :=
  let r := m.collRec
  let e : CollErr :=
    { awr := x.write, bwr := bwr, areq := x.areq.val, sfch := ch.val, addr := 0x1000000 + x.off.toNat / 8 * 8 }
  { m with collRec := { valid := true, count := sat255 r.count, first := if r.valid then r.first else e, newest := e } }

end Sys2Proof.Machine
end

