-- ==== Sys2Proof/Machine/Cstore.lean ====
section
/-! DEFINITION. The control stores as their registers reach them (spec/12_microcode.md, R342 to R345; R554). -/

namespace Sys2Proof.Machine

def State.modCs (s : State) (f : ControlStore → ControlStore) : State := { s with cs := f s.cs }

/-- The half of a cluster (R322). -/
def clusterHalf (k : Fin 4) : Fin 2 := if k.val < 2 then 0 else 1

/-- The cluster of a sequencer. -/
def seqCluster (n : Fin 16) : Fin 4 := ⟨n.val / 4, by omega⟩

def ControlStore.cluster (c : ControlStore) : Fin 4 := Fin.ofNat 4 (fldN c.sel 0 2)
def ControlStore.bcast (c : ControlStore) : Bool := bit c.sel 4

/-- R340, R344: the limit of customer microcode. -/
def ControlStore.maxUw (c : ControlStore) : Nat := let m := fldN c.cfg 0 13; if m = 0 ∨ 4096 ≤ m then 4096 else m

/-- R342: every sequencer of the cluster is in OFF or HALT. -/
def State.clusterStill (s : State) (k : Fin 4) : Bool :=
  allSeqs.all fun n => decide (seqCluster n ≠ k) || decide ((s.seqs.at n).st = .off) || decide ((s.seqs.at n).st = .halt)

/-- The clusters that a write reaches (R342). -/
def State.csTargets (s : State) : List (Fin 4) :=
  if s.cs.bcast then [0, 1, 2, 3].filter fun k : Fin 4 => s.halfUp (clusterHalf k) else [s.cs.cluster]

/-- R342, R554: the write would be refused with DISABLED. -/
def State.csLocked (s : State) : Bool :=
  s.csTargets.any fun k => !s.clusterStill k || s.sec.csLock.getLsbD k.val

/-- A copy's word as it is stored. -/
def CsCopy.word (c : CsCopy) (w : Nat) : W32 := sparseGet 0 c.words w

/-- A copy after a write of one word, which carries fresh check bits. -/
def CsCopy.setWord (c : CsCopy) (w : Nat) (v : W32) : CsCopy :=
  { c with words := sparseSet 0 c.words w v, corr := c.corr.filter (· ≠ w), unc := c.unc.filter (· ≠ w) }

/-- R554: VALID of the clusters in `ks` is cleared. -/
def clearValid (x : BitVec 4) (ks : List (Fin 4)) : BitVec 4 :=
  ks.foldl (init := x) fun x k => x &&& ~~~(BitVec.ofNat 4 (2 ^ k.val))

/-- A change of the copies in `ks`, which clears their VALID bits (R554). -/
def State.csChange (s : State) (ks : List (Fin 4)) (f : CsCopy → CsCopy) : State :=
  let s1 := ks.foldl (init := s) fun s k => s.modCs fun c => { c with copies := c.copies.mod k f }
  { s1 with sec := { s1.sec with patchValid := clearValid s1.sec.patchValid ks } }

/-- R342: a permitted write of window word `w`. -/
def State.csWordW (s : State) (w : Nat) (v : W32) : State := s.csChange s.csTargets fun c => c.setWord w v

/-- The fields of a patch map entry that are kept (R344). -/
def pmMask : W32 := 0xBFFF1FFF

/-- R342: a permitted write of CS_PMk. -/
def State.csPmW (s : State) (k : Fin 64) (v : W32) : State :=
  s.csChange s.csTargets fun c => { c with pm := c.pm.upd k (v &&& pmMask) }

/-- R342: a refused write of the window or of CS_PMk sets WRERR. -/
def State.csWrErr (s : State) : State := s.modCs fun c => { c with wrErr := true }

/-- R323: the check of a fetch of word `w` of cluster `k`: false for a double-bit error. -/
def State.csCheck (s : State) (k : Fin 4) (w : Nat) : Bool × State :=
  let c := s.cs.copies.at k
  if w ∈ c.unc then (false, s)
  else if w ∈ c.corr then
    (true, s.modCs fun x =>
      { x with copies := x.copies.upd k { c with corr := c.corr.filter (· ≠ w) },
               corrCnt := if x.corrCnt = 0xFFFF then x.corrCnt else x.corrCnt + 1 })
  else (true, s)

/-- R341: the microaddress from which the fetch from `x` is made: the lowest entry of the patch map that is valid and matches
moves a fetch from ROM into patch RAM. -/
def CsCopy.patch (c : CsCopy) (x : Nat) : Nat :=
  let hit (e : W32) : Bool := bit e 31 && decide (fldN e 16 14 = x)
  if x < 0x4000 then
    match c.pm.toList.find? hit with
    | some e => 0x4000 + fldN e 0 13
    | none => x
  else x

/-- The microword at `y` (R321). -/
def CsCopy.fetched (c : CsCopy) (y : Nat) : W32 := if y < 0x4000 then Config.vendorRom y else c.word y

/-- R325, R333: where vendor microcode goes after the microword `w` at `y`, with the addresses to return to; none where the
work ends. `takes` says whether a conditional branch finds its condition true. -/
def microNext (takes : Nat → Bool) (w : W32) (y : Nat) (ret : List Nat) : Option (Nat × List Nat) :=
  if fldN w 29 3 = 5 then
    let t := if fldN w 20 6 = 0 then !bit w 26 else takes y
    match t, fldN w 27 2, ret with
    | true, 0, _ => some (fldN w 0 15, ret)
    | true, 1, _ => if ret.length < 4 then some (fldN w 0 15, (y + 1) :: ret) else none
    | true, 2, x :: r => some (x, r)
    | true, _, _ => none
    | false, _, _ => some (y + 1, ret)
  else if bit w 28 || (decide (fldN w 29 3 = 6) && decide (fldN w 22 6 = 5)) then none
  else some (y + 1, ret)

/-- R325, R341: the microaddresses that vendor microcode fetches from `x` on, at most as many as the first number says. -/
def CsCopy.walk (c : CsCopy) (takes : Nat → Bool) : Nat → List Nat → Nat → List Nat
  | 0, _, _ => []
  | k + 1, ret, x =>
    if x < 0x6000 then
      let y := c.patch x
      y :: (match microNext takes (c.fetched y) y ret with
        | some (x1, r1) => c.walk takes k r1 x1
        | none => [])
    else []

/-- The microwords that are followed at most in one work. -/
def vendorBound : Nat := 0x1000

/-- The microaddresses that vendor microcode fetches in the work `w` of sequencer `n` (R321, R341).
DESIGN CHOICE (log 8): where it begins and how its branches go are free values, since the ROM is not printed. -/
def State.vendorPath (s : State) (n : Fin 16) (w : VendorWork) : List Nat :=
  let q := s.seqs.at n
  (s.cs.copies.at (seqCluster n)).walk (Config.romTakes w q) vendorBound [] (Config.romEntry w q).toNat

/-- R341: an entry of the patch map is valid. -/
def CsCopy.mapped (c : CsCopy) : Bool := c.pm.toList.any fun e : W32 => bit e 31

/-- R323, R341: the fetches of vendor microcode for the work `w` of sequencer `n`: the microaddress of the first word with a
double-bit error, none where it meets none. A store without errors has nothing to check. -/
def State.vendorFetch (s : State) (n : Fin 16) (w : VendorWork) : Option Nat × State :=
  let k := seqCluster n
  let c := s.cs.copies.at k
  if c.corr = [] ∧ c.unc = [] then (none, s)
  else (s.vendorPath n w).foldl (init := (none, s)) fun acc x =>
    match acc.1 with
    | some _ => acc
    | none => let (ok, s1) := acc.2.csCheck k x; (if ok then none else some x, s1)

/-- R341: a fetch of the work is made from patch RAM. -/
def State.patched (s : State) (n : Fin 16) (w : VendorWork) : Bool :=
  (s.cs.copies.at (seqCluster n)).mapped && (s.vendorPath n w).any fun y => decide (0x4000 ≤ y)

def FCause.csCode : FCause → Nat
  | .uIllegal => 1
  | .uCommit => 2
  | .uLimit => 3
  | .csEcc => 4
  | _ => 0

/-- R323, R340, R344: a fault of microcode at `upc` that stops channel `c` on sequencer `n` is recorded. -/
def State.csFault (s : State) (n : Fin 16) (c : Fin 256) (upc : Nat) (cause : FCause) : State :=
  let k := seqCluster n
  s.modCs fun x =>
    { x with fault := put 24 c.val ||| put 20 cause.csCode ||| put 15 k.val ||| put 0 upc,
             uncF := if cause = .csEcc then x.uncF ||| BitVec.ofNat 4 (2 ^ k.val) else x.uncF }

/-- CS_STAT as it reads. -/
def ControlStore.stat (c : ControlStore) : W32 :=
  put 16 c.corrCnt.toNat ||| put 8 c.uncF.toNat ||| putB 4 c.wrErr

/-- A write of CS_STAT. -/
def State.csStatW (s : State) (v : W32) : State :=
  s.modCs fun c => { c with corrCnt := fld v 16 16, uncF := c.uncF &&& ~~~(fld v 8 4), wrErr := c.wrErr && !bit v 4 }

/-- R345: source 473. -/
def ControlStore.source (c : ControlStore) : Bool := bit c.cfg 16 && decide (c.uncF ≠ 0)

end Sys2Proof.Machine
end

