-- ==== Sys2Proof/Machine/Spinel.lean ====
section
/-! DEFINITION. Spinel: entry, arrival, pending counts, groups, LUT cells and exports
(spec/19_spinel_event_fabric.md). -/

namespace Sys2Proof.Machine

def State.modSn (s : State) (f : Spinel → Spinel) : State := { s with sn := f s.sn }

/-! Task inputs (R493, R494, R497 to R499). -/

/-- The hops of the counts pending at task input `t`, oldest first. -/
def Spinel.pending (n : Spinel) (t : Nat) : List Nat := sparseGet [] n.counts t

def Spinel.setPending (n : Spinel) (t : Nat) (l : List Nat) : Spinel := { n with counts := sparseSet [] n.counts t l }

/-- The half word of SN_SUB that holds the subscription of task input `t` (R494). -/
def Spinel.sub (n : Spinel) (t : Nat) : BitVec 16 := fld (n.subs.at (Fin.ofNat 648 (t / 2))) (16 * (t % 2)) 16

/-- The task input subscribes to channel `c`. -/
def Spinel.subscribes (n : Spinel) (t : Nat) (c : Fin 256) : Bool := bit (n.sub t) 15 && decide (fldN (n.sub t) 0 8 = c.val)

/-- R497, R499: an arrival at task input `t` that finds the count at 2. -/
def State.inputOvf (s : State) (t : Nat) : State :=
  let s1 := s.modSn fun n => { n with ovf := n.ovf ||| BitVec.ofNat 1312 (2 ^ t) }
  if t < 1024 then
    let c : Fin 256 := Fin.ofNat 256 (t / 4)
    if (s.chans.at c).det then s1.breach c .overflow else s1
  else s1

/-- How many SN arrivals the task input has counted in the present ns. -/
def State.arrived (s : State) (t : Nat) : Nat := if s.sn.arrNs = some s.now then s.sn.arr.count t else 0

/-- R497, R499: an SN arrival of hop `h` at task input `t`. -/
def State.arrive (s : State) (t h : Nat) : State :=
  let l := s.sn.pending t
  if l.length < 2 then
    s.modSn fun n => { n.setPending t (l ++ [h]) with
      arr := t :: (if n.arrNs = some s.now then n.arr else []), arrNs := if s.ticking then some s.now else none }
  else s.inputOvf t

/-- R494, R497: an arrival that the EIC makes at task input `t`, of hop 0: it is counted before the SN arrivals of its ns. -/
def State.arriveEic (s : State) (t : Nat) : State :=
  let l := s.sn.pending t
  let k := l.length - s.arrived t
  let s1 := s.modSn fun n => n.setPending t ((l.take k ++ 0 :: l.drop k).take 2)
  if l.length < 2 then s1 else s1.inputOvf t

/-- R497: the oldest count of task input `t` is taken. -/
def State.takeCount (s : State) (t : Nat) : Option Nat × State :=
  match s.sn.pending t with
  | [] => (none, s)
  | h :: r => (some h, s.modSn fun n => n.setPending t r)

/-- R498: an accepted START clears the event inputs of channel `c`. -/
def State.clearInputs (s : State) (c : Fin 256) : State :=
  s.modSn fun n =>
    let n1 := (List.range 4).foldl (init := n) fun n e => n.setPending (4 * c.val + e) []
    { n1 with ovf := n1.ovf &&& ~~~(BitVec.ofNat 1312 (15 * 2 ^ (4 * c.val))) }

/-- R504: the channel is ON. -/
def Spinel.on (n : Spinel) (c : Fin 256) : Bool :=
  let w := n.chCfg.at c
  bit w 0 && (!bit w 1 || n.groups.getLsbD (fldN w 8 4))

/-- The registers that govern the hardware in the present ns (R496). -/
def State.snWas (s : State) : Option SnWas := if s.ticking then s.sn.was.filter fun w => decide (w.at_ = s.now) else none

/-- R496: Spinel as its hardware acts on it in the present ns: without the writes of that ns. -/
def State.snHw (s : State) : Spinel :=
  match s.snWas with
  | some w => { s.sn with cfg := w.cfg, chCfg := w.chCfg, subs := w.subs, groups := w.groups }
  | none => s.sn

/-- R496: a write of Spinel's registers follows: what they are before the writes of its ns is kept. While TD0 stands, a write has
its effect at once. -/
def State.snMark (s : State) : State :=
  if s.snWas.isSome then s
  else
    s.modSn fun n =>
      let w : SnWas :=
        { at_ := s.now, cfg := n.cfg, chCfg := n.chCfg, subs := n.subs, luts := n.luts, groups := n.groups, on := 0, off := 0 }
      { n with was := if s.ticking then some w else none }

/-- R498: a hardware consumer takes the oldest count of task input `t`, one per ns. -/
def State.takeHw (s : State) (t : Nat) : Option Nat × State :=
  if !s.up || !s.ticking || (decide (s.sn.tookNs = some s.now) && s.sn.took.contains t) then (none, s)
  else match s.takeCount t with
    | (some h, s1) =>
      (some h, s1.modSn fun n => { n with took := t :: (if n.tookNs = some s.now then n.took else []), tookNs := some s.now })
    | r => r

/-- R495: the event of channel `c` that enters next: one of a Beryl-timed producer, which enters in its own ns, ahead of a
clockless one, and of each kind the oldest. -/
def Spinel.next (n : Spinel) (c : Fin 256) : Option Event :=
  (n.fired.find? fun e => decide (e.ch = c) && e.fired.isSome).or (n.fired.find? fun e => decide (e.ch = c))

/-- R495, R504, R510: an event fired on channel `c` enters. One of a Beryl-timed producer arrives 2 ns after the ns in which it was
fired. -/
def State.eventEntry (s : State) (c : Fin 256) : State :=
  match s.sn.next c with
  | none => s
  | some e =>
    if !s.up ∨ !s.ticking then s
    else
      let hw := s.snHw
      s.modSn fun n =>
        let n1 := { n with fired := n.fired.erase e }
        if !hw.on c then n1
        else if e.hop > fldN hw.cfg 0 4 then
          if n.hopDrop then n1 else { n1 with hopDrop := true, hopCh := c, hop := e.hop }
        else { n1 with flight := n1.flight ++ [{ ch := c, hop := e.hop, at_ := e.fired.getD s.now + 2 }] }

/-- The flight on channel `c` that arrives next: the earliest, and of those the lowest hop (R497). -/
def nextFlight (c : Fin 256) (l : List Flight) : Option Flight :=
  l.foldl (init := none) fun acc f =>
    if f.ch ≠ c then acc
    else match acc with
      | none => some f
      | some g => if f.at_ ≠ g.at_ then (if notBefore f.at_ g.at_ then some g else some f)
                  else if f.hop < g.hop then some f else some g

/-- R495, R497: an event on channel `c` arrives at every task input that subscribes to it. -/
def State.eventArrival (s : State) (c : Fin 256) : State :=
  match nextFlight c s.sn.flight with
  | none => s
  | some f =>
    if s.up ∧ s.ticking ∧ notBefore s.now f.at_ then
      let s1 := s.modSn fun n => { n with flight := n.flight.erase f }
      (List.range 1296).foldl (init := s1) fun z t => if s.snHw.subscribes t c then z.arrive t f.hop else z
    else s

/-! Groups (R501 to R503). -/

def setGroup (x : BitVec 16) (g : Fin 16) (v : Bool) : BitVec 16 :=
  if v then x ||| BitVec.ofNat 16 (2 ^ g.val) else x &&& ~~~(BitVec.ofNat 16 (2 ^ g.val))

/-- R496, R502: the hardware switches group `g` to `v`. Writes of the same ns stand over it. -/
def State.groupSet (s : State) (g : Fin 16) (v : Bool) : State :=
  let live := s.snWas.isSome
  s.modSn fun n =>
    match n.was with
    | some w =>
      if live then
        { n with groups := (setGroup n.groups g v ||| w.on) &&& ~~~w.off, was := some { w with groups := setGroup w.groups g v } }
      else { n with groups := setGroup n.groups g v }
    | none => { n with groups := setGroup n.groups g v }

/-- R502: the enable input of group `g` takes a count; a disable in the same ns wins. -/
def State.groupEnable (s : State) (g : Fin 16) : State :=
  match s.takeHw (1248 + 2 * g.val) with
  | (none, _) => s
  | (some _, s1) => if s.sn.tookNs = some s.now ∧ 1249 + 2 * g.val ∈ s.sn.took then s1 else s1.groupSet g true

/-- R502: the disable input of group `g` takes a count. -/
def State.groupDisable (s : State) (g : Fin 16) : State :=
  match s.takeHw (1249 + 2 * g.val) with
  | (none, _) => s
  | (some _, s1) => s1.groupSet g false

/-- R496, R502: a write of SN_GRPCTRL. -/
def State.groupSwitch (s : State) (v : W32) : State :=
  let on : BitVec 16 := fld v 0 16
  let off : BitVec 16 := fld v 16 16
  s.snMark.modSn fun n => { n with
    groups := (n.groups ||| on) &&& ~~~off
    was := n.was.map fun w => { w with on := (w.on ||| on) &&& ~~~off, off := (w.off &&& ~~~on) ||| off } }

/-! Exports (R512). -/

/-- R512: export `k` takes a count. -/
def State.exportEvent (s : State) (k : Fin 16) : State :=
  match s.takeHw (1280 + k.val) with
  | (none, _) => s
  | (some _, s1) => s1.modSn fun n => { n with expFlag := setGroup n.expFlag k true }

/-! LUT cells (R505 to R511). -/

def Lut.en (x : Lut) : Bool := bit x.cfg 7
def Lut.ff (x : Lut) : Bool := bit x.cfg 6
def Lut.osn (x : Lut) : Nat := fldN x.cfg 8 8
def Lut.toggles (x : Lut) : BitVec 4 := fld x.cfg 0 4
/-- The truth table at levels `l` (R506). -/
def Lut.table (x : Lut) (l : BitVec 4) : Bool := bit x.cfg (16 + l.toNat)

/-- Y at the ns before `g` (R506): the last value, with PULSE inputs back at 0 where ns have passed since. -/
def Lut.yBefore (x : Lut) (g : W64) : Bool := if g = x.last + 1 ∨ g = x.last then x.y else x.table (x.l &&& x.toggles)

/-- R506: the cell evaluates at `g`; `took` says which inputs took a count, `clk` whether the clock input did. The
result says whether OSN fires. -/
def Lut.evaluate (x : Lut) (g : W64) (took : BitVec 4) (clk : Bool) (hop : Nat) : Lut × Option Nat :=
  let q := if clk then x.yBefore g else x.q
  let l := (x.toggles &&& (x.l ^^^ took)) ||| (~~~x.toggles &&& took)
  let y := x.table l
  let v := if x.ff then q else y
  let since := if v = x.v then x.since else g
  let out := if x.filt.toNat ≤ (g - since).toNat + 1 then v else x.out
  let h := max x.hop hop
  let sel := fldN x.cfg 4 2
  let fires := decide (out ≠ x.out) && (if out then decide (sel = 1 ∨ sel = 3) else decide (sel = 2 ∨ sel = 3))
  ({ x with q := q, l := l, y := y, v := v, since := since, out := out, last := g, evalAt := some g, hop := if fires then 0 else h },
    if fires then some (1 + h) else none)

/-- The counts that inputs `base` to `base + k - 1` take (R498): which of them took one, as a number, and the largest hop. -/
def State.takeInputs (s : State) (base k : Nat) : (Nat × Nat) × State :=
  (List.range k).foldl (init := ((0, 0), s)) fun a i =>
    match a.2.takeHw (base + i) with
    | (some h, z) => ((a.1.1 + 2 ^ i, max a.1.2 h), z)
    | (none, z) => (a.1, z)

/-- R496, R507, R509: the cell `y` that an evaluation leaves, with the writes `x` of the same ns applied after it: `x` is the cell as
they have left it. -/
def Lut.under (y x : Lut) (now : W64) : Lut :=
  if x.fresh = some now then { x with evalAt := y.evalAt, hop := y.hop } else { y with cfg := x.cfg, filt := x.filt }

/-- R496, R506, R508: cell `c` takes its counts and evaluates, once in a ns, as it was before the writes of the ns. -/
def State.lutEvaluate (s : State) (c : Fin 32) : State :=
  let x := s.sn.luts.at c
  let x0 := match s.snWas with | some w => w.luts.at c | none => x
  if s.up ∧ s.ticking ∧ x0.en ∧ x.evalAt ≠ some s.now then
    let (acc, s1) := s.takeInputs (1088 + 5 * c.val) 5
    let (x1, ev) := x0.evaluate s.now (BitVec.ofNat 4 acc.1) (decide (16 ≤ acc.1)) acc.2
    let s2 := s1.modSn fun n => { n with luts := n.luts.upd c (if s.snWas.isSome then x1.under x s.now else x1) }
    match ev with
    | some h => s2.fireHop true x0.osn h
    | none => s2
  else s

/-- R507: CLR. -/
def State.lutClear (s : State) (c : Fin 32) : State :=
  s.snMark.modSn fun n => { n with luts := n.luts.mod c fun x =>
    { x with l := 0, q := false, y := false, v := false, out := false, since := s.now, last := s.now, fresh := s.nsNow } }

/-- A write of SN_LUTc_FILT. -/
def State.lutFilt (s : State) (c : Fin 32) (v : W32) : State :=
  s.snMark.modSn fun n => { n with luts := n.luts.mod c fun x => { x with filt := fld v 0 8 } }

/-- A write of SN_CFG. -/
def State.snCfg (s : State) (v : W32) : State := s.snMark.modSn fun n => { n with cfg := v &&& 0x70F }

/-- R511: the LUT graph has an edge from `a` to `b`. -/
def Spinel.edge (n : Spinel) (a b : Fin 32) : Bool :=
  (n.luts.at a).en && (n.luts.at b).en &&
    (List.range 5).any fun i => n.subscribes (1088 + 5 * b.val + i) (Fin.ofNat 256 (n.luts.at a).osn)

/-- The cells whose outputs are combinational (R511). -/
def Spinel.comb (n : Spinel) (c : Fin 32) : Bool := (n.luts.at c).en && !(n.luts.at c).ff

/-- The combinational cells that `k` edges at most reach from the set `x`. -/
def Spinel.reach (n : Spinel) : Nat → List (Fin 32) → List (Fin 32)
  | 0, x => x
  | k + 1, x =>
    n.reach k ((List.ofFn fun c : Fin 32 => c).filter fun b =>
      x.contains b || (n.comb b && x.any fun a => n.comb a && n.edge a b))

/-- R511: the last cell of a combinational cycle through `c`, where there is one. -/
def Spinel.loopAt (n : Spinel) (c : Fin 32) : Option (Fin 32) :=
  if n.comb c then (n.reach 31 [c]).find? fun a => n.comb a && n.edge a c else none

/-- R511: the write that would give `n` is refused for the loop through `a`. -/
def State.loopRefuse (s : State) (a : Fin 32) : State := s.modSn fun n => { n with loopErr := true, loopCell := a }

/-- R496, R507, R509, R511: a write of SN_LUTc_CFG. -/
def State.lutCfg (s0 : State) (c : Fin 32) (v : W32) : State :=
  let s := s0.snMark
  let x := s.sn.luts.at c
  let x1 : Lut :=
    if bit v 7 && !x.en then
      let y := bit v 16
      let o := if bit v 6 then false else y
      { x with cfg := v, l := 0, q := false, y := y, v := o, out := o, since := s.now, last := s.now, fresh := s.nsNow }
    else { x with cfg := v }
  let n1 := { s.sn with luts := s.sn.luts.upd c x1 }
  let checked := (bit v 7 && !x.en) || (!bit v 6 && x.ff) || decide (fldN v 8 8 ≠ x.osn)
  match (if checked then n1.loopAt c else none) with
  | some a => s.loopRefuse a
  | none => { s with sn := n1 }

/-- The LUT cell that task input `t` belongs to. -/
def inputCell (t : Nat) : Option (Fin 32) := if 1088 ≤ t ∧ t < 1248 then some (Fin.ofNat 32 ((t - 1088) / 5)) else none

/-- R494, R496, R511: a write of SN_SUBi. -/
def State.subWrite (s0 : State) (i : Fin 648) (v : W32) : State :=
  let s := s0.snMark
  let n1 := { s.sn with subs := s.sn.subs.upd i (v &&& 0x80FF80FF) }
  let loop (t : Nat) : Option (Fin 32) := match inputCell t with | some c => n1.loopAt c | none => none
  match (loop (2 * i.val)).or (loop (2 * i.val + 1)) with
  | some a => s.loopRefuse a
  | none => { s with sn := n1 }

/-- R500: a half word of SN_SUBi names a channel that needs the secure attribute. -/
def Spinel.subSec (n : Spinel) (x : BitVec 16) : Bool :=
  bit x 15 && bit (n.chCfg.at (Fin.ofNat 256 (fldN x 0 8))) 22

/-- R500: a write of `v` to SN_SUBi needs the secure attribute. -/
def State.subNeedsSec (s : State) (i : Fin 648) (v : W32) : Bool :=
  let old := s.sn.subs.at i
  [fld old 0 16, fld old 16 16, fld v 0 16, fld v 16 16].any s.sn.subSec ||
    (decide (i.val < 512) && let c := s.chans.at (Fin.ofNat 256 (i.val / 2)); c.sec && decide (c.st ≠ .off))

def snChMask : W32 := 0xFFC00F03

/-- R496, R500, R504: a write of SN_CHn_CFG. -/
def State.snChCfg (s : State) (c : Fin 256) (v : W32) : State :=
  s.snMark.modSn fun n => { n with chCfg := n.chCfg.upd c (v &&& snChMask) }

/-- R57, R500: whether a sequencer that runs channel `cx` may not fire channel `c`: true SECURE, false DISABLED, none where it may. -/
def Spinel.fireRefused (n : Spinel) (c cx : Fin 256) (sec : Bool) : Option Bool :=
  let w := n.chCfg.at c
  if bit w 22 ∧ !sec then some true
  else if bit w 23 ∧ fldN w 24 8 ≠ cx.val then some false
  else none

/-! Registers (R514, R515). -/

/-- SN_STAT as it reads. -/
def Spinel.stat (n : Spinel) : W32 :=
  put 24 n.hopCh.val ||| put 19 n.hop ||| put 14 n.loopCell.val ||| putB 2 n.loopErr ||| putB 1 (decide (n.ovf ≠ 0)) |||
    putB 0 n.hopDrop

def State.snStatW (s : State) (v : W32) : State :=
  s.modSn fun n => { n with loopErr := n.loopErr && !bit v 2, hopDrop := n.hopDrop && !bit v 0 }

/-- SN_TIDATA as it reads. -/
def Spinel.tidata (n : Spinel) : W32 :=
  if n.tisel < 1296 then
    let l := n.pending n.tisel
    put 11 (l.getD 1 0) ||| put 6 (l.getD 0 0) ||| putB 2 (n.ovf.getLsbD n.tisel) ||| put 0 l.length
  else 0

/-- SN_LUTc_STAT as it reads. -/
def Lut.stat (x : Lut) : W32 := putB 6 x.out ||| putB 5 x.q ||| putB 4 x.y ||| put 0 x.l.toNat

/-- SN_EXPk as it reads. -/
def Spinel.exp (n : Spinel) (k : Fin 16) : W32 := putB 31 (n.expFlag.getLsbD k.val) ||| putB 30 (n.expIe.getLsbD k.val)

def State.snExpW (s : State) (k : Fin 16) (v : W32) : State :=
  s.modSn fun n => { n with expFlag := if bit v 31 then setGroup n.expFlag k false else n.expFlag,
                            expIe := setGroup n.expIe k (bit v 30) }

/-- SN_OVFi as it reads. -/
def Spinel.ovfWord (n : Spinel) (i : Nat) : W32 := n.ovf.extractLsb' (32 * i) 32

def State.snOvfW (s : State) (i : Nat) (v : W32) : State :=
  s.modSn fun n => { n with ovf := n.ovf &&& ~~~(BitVec.ofNat 1312 (v.toNat * 2 ^ (32 * i))) }

/-- R515: source 477. -/
def Spinel.source (n : Spinel) : Bool :=
  (bit n.cfg 8 && n.hopDrop) || (bit n.cfg 9 && decide (n.ovf ≠ 0)) || (bit n.cfg 10 && n.loopErr)

end Sys2Proof.Machine
end

