-- ==== Sys2Proof/Machine/Eic.lean ====
section
/-! DEFINITION. The event interrupt controller: pending sources, moderation, claim, completion, delivery and wake
(spec/17_interrupt_controller.md). -/

namespace Sys2Proof.Machine

def State.modEic (s : State) (f : Eic → Eic) : State := { s with eic := f s.eic }
def State.modSrc (s : State) (n : Fin 512) (f : Source → Source) : State :=
  s.modEic fun e => { e with srcs := e.srcs.mod n f }
def State.modTarget (s : State) (t : Fin 18) (f : Target → Target) : State :=
  s.modEic fun e => { e with targets := e.targets.mod t f }
def State.modGroup (s : State) (g : Fin 32) (f : ModGroup → ModGroup) : State :=
  s.modEic fun e => { e with mods := e.mods.mod g f }

def allSrcs : List (Fin 512) := List.ofFn fun n : Fin 512 => n
def allTargets : List (Fin 18) := List.ofFn fun t : Fin 18 => t

def Source.pri (x : Source) : Nat := fldN x.reg 0 4
def Source.targets (x : Source) (t : Fin 18) : Bool := bit x.reg (12 + t.val)
def Target.en (x : Target) : Bool := bit x.cfg 0
def Target.hch (x : Target) : Fin 256 := Fin.ofNat 256 (fldN x.cfg 8 8)
def srcGroup (n : Fin 512) : Fin 32 := ⟨n.val / 16, by omega⟩

/-! Targets (R453, R455, R459). -/

/-- COND of R459. -/
inductive Cond where
  | absent | asleep | waking | awake
  deriving DecidableEq, Repr

def State.cond (s : State) (t : Fin 18) : Cond :=
  let x := s.eic.targets.at t
  if t.val < 16 then
    let n : Fin 16 := Fin.ofNat 16 t.val
    let h := s.power.halves.at (seqHalf n)
    let c := s.chans.at x.hch
    if !x.en ∨ !bit x.cfg 7 ∨ c.st = .off ∨ c.aff ≠ 0 ∨ c.seqNo ≠ n ∨ (s.seqs.at n).st = .off ∨ h.st = .off ∨
        h.st = .up ∨ h.st = .down then .absent
    else if h.st = .wake ∨ (h.st = .enter ∧ h.wakeRec) then .waking
    else if h.st = .sleep ∨ h.st = .enter ∨ ((s.seqs.at n).st = .nap ∧ !x.woken) then .asleep
    else .awake
  else if !x.en then .absent
  else if bit x.cfg 1 then .asleep
  else .awake

/-- RPRI of R453. -/
def Target.rpri (x : Target) : Nat := match x.stack with | [] => 0 | (_, p) :: _ => p

/-- ETHR of R453. -/
def Target.ethr (x : Target) : Nat := max x.thr.toNat x.rpri

/-- R453: the source is eligible for the target. -/
def State.eligibleSrc (s : State) (t : Fin 18) (n : Fin 512) : Bool :=
  let x := s.eic.srcs.at n
  decide (x.st = .pending) && decide ((s.eic.targets.at t).ethr < x.pri) && x.targets t && decide (s.cond t ≠ .absent)

/-- R453: the source that is delivered: the highest priority, and of those the lowest number. -/
def State.bestSrc (s : State) (t : Fin 18) : Option (Fin 512) :=
  allSrcs.foldl (init := none) fun acc n =>
    if s.eligibleSrc t n then
      match acc with
      | none => some n
      | some m => if (s.eic.srcs.at m).pri < (s.eic.srcs.at n).pri then some n else some m
    else acc

/-- R454: the request of the target as it stands. -/
def State.requestNow (s : State) (t : Fin 18) : Bool := decide (s.cond t = .awake) && (s.bestSrc t).isSome

/-- R454: requests that no longer hold fall. -/
def State.eicFall (s : State) : State :=
  s.modEic fun e => { e with targets := Vector.ofFn fun t : Fin 18 =>
    let x := e.targets.at t
    { x with req := x.req && s.requestNow t } }

/-! Orphans and wakes (R460). -/

/-- R460, R517, R586: a wake request to a half: one in SLEEP passes to WAKE, which ends emulated sleep, one in ENTER records it. -/
def State.wakeHalf (s : State) (h : Fin 2) : State :=
  let one (x : Half) : Half :=
    match x.st with
    | .sleep => { x with st := .wake }
    | .enter => { x with wakeRec := true }
    | _ => x
  { s with power := { s.power with halves := s.power.halves.mod h one },
           dbg := { s.dbg with emu := s.dbg.emu.mod h fun e => e && decide ((s.power.halves.at h).st ≠ .sleep) } }

/-- R460: source `n`, where it is PENDING with a priority. -/
def State.attend (s0 : State) (n : Fin 512) : State :=
  let x := s0.eic.srcs.at n
  if x.st = .pending ∧ x.pri ≠ 0 then
    let eff := allTargets.filter fun t => x.targets t && decide (s0.cond t ≠ .absent)
    let s := s0.modSrc n fun x => { x with stray := eff.isEmpty, orph := x.orph || (eff.isEmpty && !x.stray) }
    match eff with
    | [] => s
    | t :: _ =>
      if eff.all fun t => decide (s.cond t = .asleep) then
        if t.val < 16 then
          let q : Fin 16 := Fin.ofNat 16 t.val
          if (s.power.halves.at (seqHalf q)).st = .run then s.modTarget t fun y => { y with woken := true }
          else s.wakeHalf (seqHalf q)
        else s.modTarget t fun y => { y with cfg := y.cfg &&& ~~~2 }
      else s
  else if x.stray then s0.modSrc n fun x => { x with stray := false }
  else s0

/-- R460, R454: what the controller does after any change. -/
def State.eicSettle (s : State) : State :=
  let s1 := s.modEic fun e => { e with targets := Vector.ofFn fun t : Fin 18 =>
    let x := e.targets.at t
    { x with woken := x.woken && decide (t.val < 16) && decide ((s.seqs.at (Fin.ofNat 16 t.val)).st = .nap) } }
  (allSrcs.foldl (init := s1) fun s n => s.attend n).eicFall

/-! Sources and moderation (R451, R452, R463). -/

def ModGroup.en (g : ModGroup) : Bool := bit g.cfg 31
def ModGroup.count (g : ModGroup) : Nat := let k := fldN g.cfg 16 5; if k = 0 ∨ 16 < k then 16 else k
def ModGroup.hold (g : ModGroup) : W64 := BitVec.ofNat 64 (1000 * max 1 (fldN g.cfg 0 16))

/-- R463: a window of the group begins, which ends at `w`; sources that become pending in the ns `free` are PENDING at once. -/
def ModGroup.open_ (m : ModGroup) (w : W64) (free : Option W64) : ModGroup :=
  { m with win := some w, free := free, limit := m.count }

/-- The HELD sources of group `g`. -/
def State.heldOf (s : State) (g : Fin 32) : List (Fin 512) :=
  ((List.range 16).map fun i => (Fin.ofNat 512 (16 * g.val + i) : Fin 512)).filter fun n =>
    decide ((s.eic.srcs.at n).st = .held)

/-- R463: every HELD source of the group is released. -/
def State.release (s : State) (g : Fin 32) : State :=
  (s.heldOf g).foldl (init := s) fun s n => s.modSrc n fun x => { x with st := .pending }

/-- R463: source `n` becomes pending in its group. -/
def State.becomePending (s : State) (n : Fin 512) : State :=
  let g := srcGroup n
  let m := s.eic.mods.at g
  let go (st : SrcSt) : State := s.modSrc n fun x => { x with st := st }
  if !m.en then go .pending
  else match m.win with
    | none =>
      let w := s.now + m.hold
      if bit m.cfg 30 then
        let s1 := (go .held).modGroup g fun m => m.open_ w none
        if m.count ≤ (s1.heldOf g).length then (s1.release g).modGroup g fun m => m.open_ w (some s.now) else s1
      else (go .pending).modGroup g fun m => m.open_ w (some s.now)
    | some _ =>
      if m.free = some s.now then go .pending
      else
        let s1 := go .held
        if m.limit ≤ (s1.heldOf g).length then
          (s1.release g).modGroup g fun m => m.open_ (s.now + m.hold) (some s.now)
        else s1

/-- R451, R452: source `n` follows its level and latch. -/
def State.follow (s : State) (n : Fin 512) : State :=
  let x := s.eic.srcs.at n
  let on := x.level || x.swp
  match x.st, on with
  | .idle, true => s.becomePending n
  | .held, false => s.modSrc n fun x => { x with st := .idle }
  | .pending, false => s.modSrc n fun x => { x with st := .idle }
  | _, _ => s

/-- R450: the controller samples the level `v` of source `n`. -/
def State.sample (s : State) (n : Fin 512) (v : Bool) : State :=
  if n = 0 then s else ((s.modSrc n fun x => { x with level := v }).follow n).eicSettle

/-- R451: a write of EIC_SETPEND. -/
def State.setPend (s : State) (n : Fin 512) : State :=
  if n = 0 then s else ((s.modSrc n fun x => { x with swp := true }).follow n).eicSettle

/-- R451: a write of EIC_CLRPEND. -/
def State.clrPend (s : State) (n : Fin 512) : State :=
  if n = 0 then s else ((s.modSrc n fun x => { x with swp := false }).follow n).eicSettle

/-! Claim and completion (R456 to R458, R461). -/

/-- R456: the value that a claim for `t` would return. -/
def State.claimValue (s : State) (t : Fin 18) : Nat := match s.bestSrc t with | some n => n.val | none => 1023

/-- R456: a read of EIC_Tt_CLAIM. -/
def State.claim (s : State) (t : Fin 18) : Nat × State :=
  match s.bestSrc t with
  | none => (1023, s.modEic fun e => { e with spur := if e.spur = 0xFFFF then e.spur else e.spur + 1 })
  | some n =>
    let p := (s.eic.srcs.at n).pri
    let s1 := s.modSrc n fun x => { x with swp := false, st := .active }
    (n.val, (s1.modTarget t fun x => { x with stack := (n, p) :: x.stack }).eicFall)

/-- R458: the value that a completion for `t` would return. -/
def State.completeValue (s : State) (t : Fin 18) : Nat :=
  match (s.eic.targets.at t).stack with | (n, _) :: _ => n.val | [] => 0

/-- R458: the top source of `t` is completed and sampled again at `level`. -/
def State.completeTop (s : State) (t : Fin 18) (level : Fin 512 → Bool) : State :=
  match (s.eic.targets.at t).stack with
  | [] => s
  | (n, _) :: r =>
    let s1 := s.modTarget t fun x => { x with stack := r }
    (s1.modSrc n fun x => { x with st := .idle, level := level n }).follow n

/-- R458: a read of EIC_Tt_COMPLETE. -/
def State.complete (s : State) (t : Fin 18) (level : Fin 512 → Bool) : Nat × State :=
  (s.completeValue t, (s.completeTop t level).eicSettle)

/-- R461: every source on the stack of `t` is completed, top first. -/
def State.emptyStack (s : State) (t : Fin 18) (level : Fin 512 → Bool) : State :=
  (s.eic.targets.at t).stack.foldl (init := s) fun s _ => s.completeTop t level

/-! Configuration writes (R457, R461, R463). -/

/-- R457: a write of EIC_SRCi. -/
def State.srcWrite (s : State) (n : Fin 512) (v : W32) : State :=
  if n = 0 then s else (s.modSrc n fun x => { x with reg := v &&& 0x3FFFF00F }).eicSettle

/-- R461: a write of EIC_Tt_CFG. -/
def State.targetCfg (s : State) (t : Fin 18) (v : W32) (level : Fin 512 → Bool) : State :=
  let m : W32 := if t.val < 16 then 0xFF81 else 0x3
  let s1 := s.modTarget t fun x => { x with cfg := v &&& m }
  (if bit v 0 then s1 else s1.emptyStack t level).eicSettle

/-- A write of EIC_Tt_THR. -/
def State.targetThr (s : State) (t : Fin 18) (v : W32) : State :=
  (s.modTarget t fun x => { x with thr := fld v 0 4 }).eicSettle

/-- R463: a write of EIC_MODg_CFG. -/
def State.modCfg (s : State) (g : Fin 32) (v : W32) : State :=
  let s1 := s.modGroup g fun m => { m with cfg := v &&& 0xC01FFFFF }
  if bit v 31 then s1.eicSettle
  else ((s1.release g).modGroup g fun m => { m with win := none, free := none }).eicSettle

/-- R463: the window of group `g` ends. -/
def State.modWindowEnd (s : State) (g : Fin 32) : State :=
  let m := s.eic.mods.at g
  match m.win with
  | none => s
  | some w =>
    if s.up ∧ s.ticking ∧ notBefore s.now w then
      match s.heldOf g with
      | [] => s.modGroup g fun m => { m with win := none }
      | _ => ((s.release g).modGroup g fun m => m.open_ (w + m.hold) (some s.now)).eicSettle
    else s

/-! Delivery (R454). -/

/-- R454: the request of target `t` rises; for a sequencer it is one arrival at E3 of the handler channel. -/
def State.deliver (s : State) (t : Fin 18) : State :=
  let s0 := s.eicSettle
  let x := s0.eic.targets.at t
  if s0.up ∧ s0.requestNow t ∧ !x.req then
    let s1 := s0.modTarget t fun x => { x with req := true }
    if t.val < 16 then s1.arriveEic (4 * x.hch.val + 3) else s1
  else s0

/-! Registers (R466). -/

def Cond.num : Cond → Nat
  | .absent => 0
  | .asleep => 1
  | .waking => 2
  | .awake => 3

/-- EIC_Tt_STAT as it reads. -/
def State.targetStat (s : State) (t : Fin 18) : W32 :=
  let x := s.eic.targets.at t
  putB 31 x.req ||| put 28 (s.cond t).num ||| put 24 x.stack.length ||| put 20 x.rpri ||| put 0 (s.completeValue t)

/-- The words of EIC_PENDj, ACTj, ORPHj and LEVELj. -/
def State.eicWord (s : State) (j : Nat) (p : Source → Bool) : W32 :=
  sumBits 32 fun k => p (s.eic.srcs.at (Fin.ofNat 512 (32 * j + k)))

def Source.ip (x : Source) : Bool := (x.level || x.swp) && decide (x.st ≠ .active)
def Source.act (x : Source) : Bool := decide (x.st = .active)

/-- EIC_MODg_STAT as it reads. -/
def State.modStat (s : State) (g : Fin 32) : W32 :=
  let m := s.eic.mods.at g
  put 0 (if !m.en then 0 else if m.win.isSome then 2 else 1) |||
    sumBits 32 fun k => decide (16 ≤ k) && decide ((s.eic.srcs.at (Fin.ofNat 512 (16 * g.val + (k - 16)))).st = .held)

/-- A write of EIC_ORPHj. -/
def State.orphW (s : State) (j : Nat) (v : W32) : State :=
  s.modEic fun e =>
    let one (n : Fin 512) : Source :=
      let x := e.srcs.at n
      if n.val / 32 = j ∧ bit v (n.val % 32) then { x with orph := false } else x
    { e with srcs := Vector.ofFn one }

/-- R467: source 474. -/
def State.orphSource (s : State) : Bool := s.eic.ieOrph && allSrcs.any fun n => (s.eic.srcs.at n).orph

end Sys2Proof.Machine
end

