-- ==== Sys2Proof/Machine/Context.lean ====
section
/-! DEFINITION. Sequencers: the save pool, register windows, spill and fill, the float bank, context switches, traps
and sequencer states (spec/09_sequencers.md). -/

namespace Sys2Proof.Machine

def State.modSeq (s : State) (n : Fin 16) (f : Seq → Seq) : State := { s with seqs := s.seqs.mod n f }
def State.modChan (s : State) (c : Fin 256) (f : Channel → Channel) : State := { s with chans := s.chans.mod c f }
def State.seqUp (s : State) (n : Fin 16) : Bool := s.halfUp (seqHalf n)
def Seq.en (q : Seq) : Bool := bit q.cfg 0

/-- The window `k` places above `w` (R240). -/
def winUp (w : Fin 8) (k : Nat) : Fin 8 := Fin.ofNat 8 (w.val + k)

/-- `k` microwords are executed by sequencer `n` (R134, R266). -/
def State.uw (s : State) (n : Fin 16) (k : Nat) : State :=
  s.modSeq n fun q => { q with uwcnt := q.uwcnt + BitVec.ofNat 32 k }

/-- Eight undefined register values. -/
def freeSet (k : Nat) : Bank W32 8 := Vector.ofFn fun i => Config.freeWord (k + i.val)

/-- Eight windows' worth of undefined register values. -/
def freeRing (k : Nat) : Bank (Bank W32 8) 8 := Vector.ofFn fun w => freeSet (k + 8 * w.val)

/-! The save pool (R246 to R250). -/

/-- The count of FREE nodes. -/
def Pool.count (p : Pool) : Nat := p.nodes.toList.countP fun x => decide (x.kind = .free)

/-- The head of the free list is taken; LOW is set where the count falls below the mark. -/
def Pool.take (p : Pool) (x : Node) : Option (Fin 512 × Pool) :=
  match p.head with
  | none => none
  | some i =>
    let p1 := { p with head := (p.nodes.at i).next, nodes := p.nodes.upd i x }
    some (i, { p1 with low := p.low || decide (p1.count < fldN p.cfg 0 10) })

/-- R249: a node is allocated for channel `c`. -/
def Pool.alloc (p : Pool) (k : NodeKind) (c : Fin 256) : Option (Fin 512 × Pool) :=
  p.take { kind := k, owner := c, count := 0, next := none }

/-- R247: a node is freed to the head of the list. -/
def Pool.free (p : Pool) (i : Fin 512) : Pool :=
  { p with nodes := p.nodes.upd i { kind := .free, owner := 0, count := 0, next := p.head }, head := some i }

/-- R247: a push. -/
def Pool.push (p : Pool) (i : Fin 512) : Pool :=
  if (p.nodes.at i).kind = .unowned then p.free i else { p with pushErr := true }

/-- R247: a pop: the value read and the pool. -/
def Pool.pop (p : Pool) : W32 × Pool :=
  match p.take .unowned with
  | some (i, p1) => (putB 31 true ||| put 0 i.val, p1)
  | none => (0, { p with fifoErr := true })

def NodeKind.num : NodeKind → Nat
  | .unowned => 0
  | .lower => 1
  | .upper => 2
  | .float => 3
  | .spill => 4
  | .free => 5

/-- SQ_NLINK as it reads (R246). -/
def Node.word (x : Node) : W32 :=
  put 29 x.kind.num ||| put 21 x.owner.val ||| put 18 x.count ||| putB 9 x.next.isSome |||
    put 0 ((x.next.map Fin.val).getD 0)

/-! Context memory (R248, R252, R253). -/

/-- Block offset of node `i` (R246). -/
def nodeAddr (i : Fin 512) : Nat := 0x1420000 + 0x100 * i.val

/-- Block offset of the descriptor of channel `c` (R346). -/
def descAddr (c : Fin 256) : Nat := 0x1400000 + 0x200 * c.val

/-- Context microcode of sequencer `n` writes words from `a` up, two at a time. -/
def State.ctxWrite (s : State) (n : Fin 16) (a : Nat) : List W32 → State
  | x :: y :: r => (s.memWrite n.val a 8 (x.toNat + 2 ^ 32 * y.toNat)).ctxWrite n (a + 8) r
  | [x] => s.memWrite n.val a 4 x.toNat
  | [] => s

/-- Context microcode reads `k` pairs of words; none where it meets an uncorrectable error (R261). -/
def State.ctxRead (s : State) (n : Fin 16) (a : Nat) : Nat → Option (List W32) × State
  | 0 => (some [], s)
  | k + 1 =>
    match s.memRead n.val a 8 with
    | (none, s1) => (none, s1)
    | (some v, s1) =>
      match s1.ctxRead n (a + 8) k with
      | (none, s2) => (none, s2)
      | (some r, s2) => (some (BitVec.ofNat 32 v :: BitVec.ofNat 32 (v / 2 ^ 32) :: r), s2)

/-- The context anchor (R248). -/
structure Anchor where
  lv : Bool
  uv : Bool
  fv : Bool
  ub : Bool
  fb : Bool
  float : Fin 512
  upper : Fin 512
  lower : Fin 512
  spcnt : Nat
  spill : Fin 512
  deriving DecidableEq, Repr

def Anchor.ofWords (a b : W32) : Anchor :=
  { lv := bit a 31, uv := bit a 30, fv := bit a 29, ub := bit a 28, fb := bit a 27,
    float := Fin.ofNat 512 (fldN a 18 9), upper := Fin.ofNat 512 (fldN a 9 9), lower := Fin.ofNat 512 (fldN a 0 9),
    spcnt := fldN b 9 8, spill := Fin.ofNat 512 (fldN b 0 9) }

def Anchor.words (x : Anchor) : List W32 :=
  [putB 31 x.lv ||| putB 30 x.uv ||| putB 29 x.fv ||| putB 28 x.ub ||| putB 27 x.fb ||| put 18 x.float.val |||
     put 9 x.upper.val ||| put 0 x.lower.val,
   put 9 x.spcnt ||| put 0 x.spill.val]

def State.anchor (s : State) (n : Fin 16) (c : Fin 256) : Option Anchor × State :=
  match s.ctxRead n (descAddr c + 48) 1 with
  | (some [a, b], s1) => (some (Anchor.ofWords a b), s1)
  | (_, s1) => (none, s1)

def State.setAnchor (s : State) (n : Fin 16) (c : Fin 256) (x : Anchor) : State := s.ctxWrite n (descAddr c + 48) x.words

/-- How work that moves context ends: done, without a node (nothing changed but error counts), with an uncorrectable
error, or with a trap found before anything changed. -/
inductive Work where
  | done (s : State)
  | pool (s : State)
  | ecc (s : State)
  | trap (s : State) (t : Trap)

/-! Windows (R240 to R245). -/

/-- The frame of window `w` (R240). -/
def Seq.frame (q : Seq) (w : Fin 8) : List W32 := (q.ringA.at w).toList ++ (q.ringM.at w).toList

/-- Eight registers from a list of words. -/
def regs8 (l : List W32) : Bank W32 8 := Vector.ofFn fun i => l.getD i.val 0

/-- Window validity with bit `w` set to `v`. -/
def wvSet (x : BitVec 8) (w : Fin 8) (v : Bool) : BitVec 8 :=
  if v then x ||| BitVec.ofNat 8 (2 ^ w.val) else x &&& ~~~(BitVec.ofNat 8 (2 ^ w.val))

/-- The count of valid windows. -/
def wvCount (x : BitVec 8) : Nat := (List.range 8).countP fun i => x.getLsbD i

/-- R242, R249: the frame of window `w` goes to the top of the channel's spill stack. -/
def State.spillWin (s : State) (n : Fin 16) (w : Fin 8) : Work :=
  let q := s.seqs.at n
  match s.anchor n q.cx with
  | (none, s1) => .ecc s1
  | (some a, s1) =>
    let put (s : State) (i : Fin 512) (slot : Nat) : State :=
      let s2 := s.ctxWrite n (nodeAddr i + 64 * slot) (q.frame w)
      let s3 := s2.setAnchor n q.cx { a with spcnt := a.spcnt + 1, spill := i }
      s3.modSeq n fun q => { q with wv := wvSet q.wv w false }
    if a.spcnt = 0 ∨ (s1.pool.nodes.at a.spill).count ≥ 4 then
      match s1.pool.take { kind := .spill, owner := q.cx, count := 1,
                           next := if a.spcnt = 0 then none else some a.spill } with
      | none => .pool s1
      | some (i, p) => .done ((put { s1 with pool := p } i 0).uw n 30)
    else
      let x := s1.pool.nodes.at a.spill
      let s2 := { s1 with pool := { s1.pool with nodes := s1.pool.nodes.upd a.spill { x with count := x.count + 1 } } }
      .done ((put s2 a.spill x.count).uw n 22)

/-- R242: the top frame of the spill stack goes to window `w`; the caller has seen that there is one. -/
def State.fillWin (s : State) (n : Fin 16) (w : Fin 8) : Work :=
  let q := s.seqs.at n
  match s.anchor n q.cx with
  | (none, s1) => .ecc s1
  | (some a, s1) =>
    let x := s1.pool.nodes.at a.spill
    match s1.ctxRead n (nodeAddr a.spill + 64 * (x.count - 1)) 8 with
    | (none, s2) => .ecc s2
    | (some l, s2) =>
      let p := if x.count ≤ 1 then s2.pool.free a.spill
               else { s2.pool with nodes := s2.pool.nodes.upd a.spill { x with count := x.count - 1 } }
      let a1 := { a with spcnt := a.spcnt - 1, spill := if x.count ≤ 1 then x.next.getD 0 else a.spill }
      let s3 := ({ s2 with pool := p }).setAnchor n q.cx a1
      .done ((s3.modSeq n fun q =>
        { q with ringA := q.ringA.upd w (regs8 l), ringM := q.ringM.upd w (regs8 (l.drop 8)) }).uw n 20)

/-- R242, R245: WOPEN. `limit` is the count of spilled frames at which a spill is refused. The own and departing
registers of the window that opens hold undefined values. -/
def State.wopen (s : State) (n : Fin 16) (limit : Nat) : Work :=
  let q := s.seqs.at n
  let up (s : State) : Work :=
    let w := winUp (s.seqs.at n).cw 1
    .done { (s.modSeq n fun q =>
      { q with cw := w, wv := wvSet q.wv w true, ringM := q.ringM.upd w (freeSet s.free),
               ringA := q.ringA.upd (winUp w 1) (freeSet (s.free + 8)) }) with free := s.free + 16 }
  if wvCount q.wv = 7 then
    match s.anchor n q.cx with
    | (none, s1) => .ecc s1
    | (some a, s1) =>
      if a.spcnt ≥ limit then .trap s1 { code := 15, detail := 0, tval := BitVec.ofNat 32 a.spcnt }
      else match s1.spillWin n (winUp q.cw 2) with
        | .done s2 => up s2
        | r => r
  else up s

/-- R242, R244: WCLOSE. -/
def State.wclose (s : State) (n : Fin 16) : Work :=
  let q := s.seqs.at n
  let w := winUp q.cw 7
  let down (s : State) : State := s.modSeq n fun q => { q with wv := wvSet (wvSet q.wv q.cw false) w true, cw := w }
  if q.wv.getLsbD w.val then .done (down s)
  else
    match s.anchor n q.cx with
    | (none, s1) => .ecc s1
    | (some a, s1) =>
      if a.spcnt = 0 then .trap s1 { code := 14, detail := 0, tval := 0 }
      else match s1.fillWin n w with
        | .done s2 => .done (down s2)
        | r => r

/-- R312: WSPILL: `k` windows from the oldest valid one upward are spilled. -/
def State.spillAll (s : State) (n : Fin 16) : Nat → Work
  | 0 => .done s
  | k + 1 =>
    match s.spillWin n (winUp (s.seqs.at n).cw (8 - (k + 1))) with
    | .done s1 => s1.spillAll n k
    | r => r

/-! The float bank (R256, R257). -/

/-- The 34 words of a FLOAT node that a save writes. -/
def Seq.bank (q : Seq) : List W32 := (q.q.toList.flatMap fun x => [lo32 x, hi32 x]) ++ [q.fctl, 0]

/-- R256: the bank is saved to its owner's FLOAT node. -/
def State.floatSave (s : State) (n : Fin 16) : Work :=
  let q := s.seqs.at n
  let c := q.fownCh
  match s.anchor n c with
  | (none, s1) => .ecc s1
  | (some a, s1) =>
    let save (s : State) (i : Fin 512) (k : Nat) : Work :=
      let s2 := s.ctxWrite n (nodeAddr i) q.bank
      let s3 := s2.setAnchor n c { a with fb := true, fv := true, float := i }
      .done ((s3.modSeq n fun q => { q with fownD := false }).uw n k)
    if a.fb then save s1 a.float 26
    else match s1.pool.alloc .float c with
      | none => .pool s1
      | some (i, p) => save { s1 with pool := p } i 34

/-- R256: the float microtrap, where the bank is not the channel's. -/
def State.floatOwn (s : State) (n : Fin 16) : Work :=
  let q := s.seqs.at n
  if q.fownV ∧ q.fownCh = q.cx then .done s
  else
    let saved := if q.fownV && q.fownD then s.floatSave n else .done s
    match saved with
    | .done s1 =>
      match s1.anchor n q.cx with
      | (none, s2) => .ecc s2
      | (some a, s2) =>
        let own (s : State) (k : Nat) : State :=
          (s.modSeq n fun q => { q with fownV := true, fownD := false, fownCh := q.cx }).uw n k
        if a.fv then
          match s2.ctxRead n (nodeAddr a.float) 17 with
          | (none, s3) => .ecc s3
          | (some l, s3) =>
            .done (own (s3.modSeq n fun q =>
              { q with q := Vector.ofFn fun i => join (l.getD (2 * i.val + 1) 0) (l.getD (2 * i.val) 0),
                       fctl := l.getD 32 0 }) 36)
        else .done (own (s2.modSeq n fun q => { q with q := Bank.fill 16 0, fctl := 0 }) 12)
    | r => r

/-- R257: every owner register that names the channel becomes invalid. -/
def State.dropFown (s : State) (c : Fin 256) : State :=
  { s with seqs := s.seqs.map fun q => if q.fownCh = c then { q with fownV := false, fownD := false } else q }

/-! Context switch (R252 to R255). -/

/-- R252: the 40 words of the lower half. -/
def Seq.lower (q : Seq) : List W32 :=
  q.k.toList ++ (q.ringA.at q.cw).toList ++ (q.ringM.at q.cw).toList ++ (q.ringA.at (winUp q.cw 1)).toList ++
    [q.pc, q.stw, put 8 q.cw.val ||| put 0 q.wv.toNat, put 0 q.cx.val, q.tcause, q.tval, q.tvec, 0]

/-- R253: the slots of the upper half that hold valid windows. -/
def Seq.slots (q : Seq) : List Nat := (List.range 6).filter fun j => q.wv.getLsbD (winUp q.cw (7 - j)).val

/-- R253: where slot `j` lies, given the two UPPER nodes. -/
def slotAddr (a b : Fin 512) (j : Nat) : Nat := if j < 4 then nodeAddr a + 64 * j else nodeAddr b + 64 * (j - 4)

/-- R253, R255: the UPPER nodes that the slots need, bound before anything is written: the pool, both nodes and how
many were bound. -/
def State.upperNodes (s : State) (c : Fin 256) (a : Anchor) (second : Bool) : Option (Pool × Fin 512 × Fin 512 × Nat) :=
  let first : Option (Pool × Fin 512 × Nat) :=
    if a.ub then some (s.pool, a.upper, 0) else (s.pool.alloc .upper c).map fun r => (r.2, r.1, 1)
  match first with
  | none => none
  | some (p, i, k) =>
    if !second then some (p, i, i, k)
    else match (p.nodes.at i).next with
      | some j => some (p, i, j, k)
      | none =>
        match p.take { kind := .upper, owner := c, count := 1, next := none } with
        | none => none
        | some (j, p1) =>
          some ({ p1 with nodes := p1.nodes.upd i { p1.nodes.at i with next := some j } }, i, j, k + 1)

/-- R254, step 1: the lower half is saved. -/
def State.saveLower (s : State) (n : Fin 16) (a : Anchor) : State :=
  (s.ctxWrite n (nodeAddr a.lower) (s.seqs.at n).lower).uw n 56

/-- R254, step 2: the upper half is saved; none where a node is missing. -/
def State.saveUpper (s : State) (n : Fin 16) (a : Anchor) : Option State :=
  let q := s.seqs.at n
  let sl := q.slots
  if sl = [] then some (s.setAnchor n q.cx { a with uv := false })
  else match s.upperNodes q.cx a (sl.any fun j => decide (4 ≤ j)) with
    | none => none
    | some (p, i, j, k) =>
      let s1 := sl.foldl (init := { s with pool := p }) fun z t =>
        z.ctxWrite n (slotAddr i j t) (q.frame (winUp q.cw (7 - t)))
      some ((s1.setAnchor n q.cx { a with uv := true, ub := true, upper := i }).uw n (4 + 20 * sl.length + 8 * k))

/-- How a save ends: done; without a node at a step of R254, with the steps before it done; with an uncorrectable error in
context SRAM, or in the control store at a microaddress. -/
inductive Saved where
  | done (s : State)
  | pool (s : State) (step : Nat)
  | ecc (s : State)
  | cs (s : State) (upc : Nat)

/-- R254, steps 3 and 4: the float bank is saved and released, and the reservation cleared. -/
def State.saveFloat (s : State) (n : Fin 16) : Saved :=
  let q := s.seqs.at n
  let own := decide ((s.chans.at q.cx).aff = 1) && q.fownV && decide (q.fownCh = q.cx)
  match if own && q.fownD then s.floatSave n else .done s with
  | .done s1 =>
    .done (s1.modSeq n fun q =>
      { q with resv := none, fownV := q.fownV && !own, fownD := q.fownD && !own })
  | .pool s1 => .pool s1 3
  | .ecc s1 => .ecc s1
  | .trap s1 _ => .done s1

/-- R254, from step 2 on. -/
def State.saveRest (s : State) (n : Fin 16) (a : Anchor) : Saved :=
  match s.saveUpper n a with
  | none => .pool s 2
  | some s1 => s1.saveFloat n

/-- R254: the save of a switch-out. -/
def State.saveContext (s : State) (n : Fin 16) : Saved :=
  match s.vendorFetch n .switchOut with
  | (some u, s0) => .cs s0 u
  | (none, s0) =>
    match s0.anchor n (s0.seqs.at n).cx with
    | (none, s1) => .ecc s1
    | (some a, s1) => (s1.saveLower n a).saveRest n a

/-- R255: a save that waited for a node at `step` goes on there. -/
def State.saveFrom (s : State) (n : Fin 16) (step : Nat) : Saved :=
  if step = 3 then s.saveFloat n
  else match s.anchor n (s.seqs.at n).cx with
    | (none, s1) => .ecc s1
    | (some a, s1) => s1.saveRest n a

/-- R254: the restore of a switch-in for channel `c`. -/
def State.loadContext (s : State) (n : Fin 16) (c : Fin 256) : Work :=
  match s.anchor n c with
  | (none, s1) => .ecc s1
  | (some a, s1) =>
    match s1.ctxRead n (nodeAddr a.lower) 20 with
    | (none, s2) => .ecc s2
    | (some l, s2) =>
      let w34 := l.getD 34 0
      let cw := Fin.ofNat 8 (fldN w34 8 3)
      let wv := fld w34 0 8
      let f := s2.free
      let s3 := { (s2.modSeq n fun q =>
        { q with k := regs8 l, pc := l.getD 32 0, stw := l.getD 33 0, cw := cw, wv := wv, cx := c,
                 tcause := l.getD 36 0, tval := l.getD 37 0, tvec := l.getD 38 0, resv := none,
                 ringA := ((freeRing f).upd cw (regs8 (l.drop 8))).upd (winUp cw 1) (regs8 (l.drop 24)),
                 ringM := (freeRing (f + 64)).upd cw (regs8 (l.drop 16)) })
        with free := f + 128 }
      let slots := if a.uv then (s3.seqs.at n).slots else []
      let b := ((s3.pool.nodes.at a.upper).next).getD 0
      let load (acc : Option State × State) (j : Nat) : Option State × State :=
        match acc with
        | (some z, _) =>
          match z.ctxRead n (slotAddr a.upper b j) 8 with
          | (none, z1) => (none, z1)
          | (some fr, z1) =>
            let w := winUp cw (7 - j)
            let z2 := z1.modSeq n fun q => { q with ringA := q.ringA.upd w (regs8 fr),
                                                    ringM := q.ringM.upd w (regs8 (fr.drop 8)) }
            (some z2, z2)
        | r => r
      match slots.foldl load (some s3, s3) with
      | (none, z) => .ecc z
      | (some z, _) => .done (z.uw n (96 + if a.uv then 4 + 20 * slots.length else 0))

/-! Scheduling (R356 to R361). -/

/-- R356: sequencer `n` is eligible for the channel. -/
def State.eligible (s : State) (n : Fin 16) (c : Channel) : Bool :=
  let q := s.seqs.at n
  q.en && decide (q.st ≠ .draining) && s.seqUp n &&
    (if c.aff = 0 then decide (c.seqNo = n) else decide (seqHalf c.seqNo = seqHalf n))

/-- `a` goes before `b` in the order of R357. -/
def chanBefore (x y : Channel) : Bool :=
  if x.pri ≠ y.pri then decide (y.pri < x.pri)
  else if x.since ≠ y.since then notBefore y.since x.since
  else true

/-- R357: the channel that sequencer `n` chooses, among those for which `p` holds. -/
def State.choose (s : State) (n : Fin 16) (p : Fin 256 → Bool) : Option (Fin 256) :=
  allChans.foldl (init := none) fun acc c =>
    let x := s.chans.at c
    if p c ∧ s.eligible n x then
      match acc with
      | none => some c
      | some b => if chanBefore (s.chans.at b) x then some b else some c
    else acc

/-- The channel is READY and its context is not on a sequencer. -/
def State.waiting (s : State) (c : Fin 256) : Bool :=
  let x := s.chans.at c
  decide (x.st = .ready) && !x.res

/-- A channel becomes READY at the present ns (R350, R357). -/
def State.makeReady (s : State) (c : Fin 256) : State := s.modChan c fun x => { x with st := .ready, since := s.now }

/-- R358: the scheduler requests a switch for the channel, which has become READY. -/
def State.schedule (s : State) (c : Fin 256) : State :=
  let x := s.chans.at c
  if !s.waiting c then s
  else
    let el := allSeqs.filter fun n => s.eligible n x
    let st (k : SeqSt) (n : Fin 16) : Bool := decide ((s.seqs.at n).st = k)
    let blocked (n : Fin 16) : Bool :=
      let q := s.seqs.at n
      decide (q.st = .run) && q.cxv && decide ((s.chans.at q.cx).st = .blocked) && (s.chans.at q.cx).res
    let lower : Option (Fin 16) := el.foldl (init := none) fun acc n =>
      let q := s.seqs.at n
      let p := (s.chans.at q.cx).pri
      let live : Bool := decide ((s.chans.at q.cx).st = .run ∨ (s.chans.at q.cx).st = .draining)
      if q.st = .run ∧ q.cxv ∧ live ∧ p < x.pri then
        match acc with
        | none => some n
        | some m => if p < (s.chans.at (s.seqs.at m).cx).pri then some n else some m
      else acc
    match (el.find? (st .idle)).or ((el.find? (st .nap)).or ((el.find? blocked).or lower)) with
    | some n => s.reqSwitch n
    | none => s

/-- R361: PRI and affinity of `w` taken over into the configuration in force; none where AFF is refused. -/
def State.reread (s : State) (c : Fin 256) (w : W32) : Option State :=
  if bit w 29 then none
  else
    let old := (s.chans.at c).config
    let s1 := s.modChan c fun x => { x with config := mrg 0x3FF00000 old w }
    some (if fldN old 24 6 = fldN w 24 6 then s1 else s1.dropFown c)

/-- The descriptor word `w` of channel `c`. -/
def State.descWord (s : State) (c : Fin 256) (w : Nat) : W32 := BitVec.ofNat 32 (s.mem.num (descAddr c + 4 * w) 4)

/-- R350, R361, R380: RESUME in STOPPED, whose re-read of word 0 the requester of code `req` makes; CMDIGN where it is
refused.
DESIGN CHOICE (log 6): a RESUME whose re-read meets an uncorrectable error is refused. -/
def State.resume (s : State) (req : Nat) (c : Fin 256) : State :=
  let (v, s1) := s.memRead req (descAddr c) 4
  match v.bind fun w => s1.reread c (BitVec.ofNat 32 w) with
  | some s2 => (s2.makeReady c).eicSettle
  | none => s1.modChan c fun x => { x with cmdIgn := true }

/-- R350: the channel enters STOPPED; a RESUME recorded in DRAINING applies. -/
def State.stopChan (s : State) (req : Nat) (c : Fin 256) : State :=
  let rec_ := (s.chans.at c).resumeRec
  let s1 := s.modChan c fun x => { x with st := .stopped, stopF := true, resumeRec := false, abort := false }
  if rec_ then s1.resume req c else s1

/-- The state after a channel has been given up: OFF where the sequencer drains, or IDLE where an EN is recorded, else
SWITCH (R262). -/
def Seq.freedSt (q : Seq) (st : SeqSt) : SeqSt :=
  if st = .draining ∨ (st = .pool ∧ q.drainRec) then (if q.en then .idle else .off) else .switch

/-- R454, R460: the conditions of the interrupt targets may have changed with sequencer `n`, which is now OFF or in NAP. -/
def State.seqRests (s : State) (n : Fin 16) : State :=
  match (s.seqs.at n).st with
  | .off | .nap => s.eicSettle
  | _ => s

/-- A sequencer that has given up its channel (R262). CX stays meaningful until SWITCH ends. -/
def State.seqFreed (s : State) (n : Fin 16) : State :=
  (s.modSeq n fun q =>
    let st := q.freedSt q.st
    { q with st := st, cxv := q.cxv && decide (st = .switch), swReq := false, yielded := false, stopI := false,
             drainRec := false, poolWork := none, held := none, idleSince := s.now }).seqRests n

/-- R350, R262: what the channel and the sequencer become once the context is saved. -/
def State.switchedOut (s : State) (n : Fin 16) : State :=
  let c := (s.seqs.at n).cx
  let s1 := (s.modChan c fun x => { x with res := false }).seqFreed n
  match (s1.chans.at c).st with
  | .run => if (s.seqs.at n).stopI then s1.stopChan n.val c else s1.makeReady c
  | .draining => s1.stopChan n.val c
  | _ => s1

/-- R250: the sequencer waits in POOL with `w`, and its channel in WAIT_POOL, but for one in FAULT (R351). -/
def State.enterPool (s : State) (n : Fin 16) (w : PoolWork) : State :=
  let c := (s.seqs.at n).cx
  let x := s.chans.at c
  let s1 := s.modSeq n fun q => { q with st := .pool, poolWork := some w, drainRec := q.drainRec || decide (q.st = .draining) }
  match x.st with
  | .fault => s1
  | .draining => s1.modChan c fun x => { x with st := .waitPool, back := .run, stopRec := some x.abort }
  | b => s1.modChan c fun x => { x with st := .waitPool, back := b }

/-- R261, R323: the channel on sequencer `n` stops with `cause`, an uncorrectable error for a deterministic channel; its
context is not saved. -/
def State.ctxLost (s : State) (n : Fin 16) (cause : FCause) : State :=
  let c := (s.seqs.at n).cx
  let x := s.chans.at c
  let s1 := s.modChan c fun x =>
    let y := if x.det then x.breached .ecc s.now else x
    { y with st := .fault, faultF := true, fcause := cause, res := false }
  if x.res then s1.seqFreed n else s1

/-- R261: CTXECC. -/
def State.ctxEcc (s : State) (n : Fin 16) : State := s.ctxLost n .ctxEcc

/-- R323: a double-bit error at the microaddress `u` in a switch of sequencer `n`. -/
def State.csLost (s : State) (n : Fin 16) (u : Nat) : State :=
  (s.csFault n (s.seqs.at n).cx u .csEcc).ctxLost n .csEcc

/-- R323, R338, R351: the fault of the channel on sequencer `n`. -/
def State.channelFault (s : State) (n : Fin 16) (c : FCause) : State :=
  let cx := (s.seqs.at n).cx
  let s1 := s.faultChan cx c
  if (c = .csEcc ∨ c = .ctxEcc) ∧ (s1.chans.at cx).det then s1.modChan cx fun x => x.breached .ecc s.now else s1

/-- R132: a trap for an uncorrectable error of the channel's own fetch or load is a breach of a deterministic channel. -/
def State.eccTrap (s : State) (n : Fin 16) (t : Trap) : State :=
  let cx := (s.seqs.at n).cx
  if (t.code = 1 ∨ t.code = 11) ∧ (s.chans.at cx).det then s.breach cx .ecc else s

/-- What a save makes of the sequencer and its channel. -/
def Saved.settle (x : Saved) (n : Fin 16) : State :=
  match x with
  | .done s => s.switchedOut n
  | .pool s k => s.enterPool n (.switchOut k)
  | .ecc s => s.ctxEcc n
  | .cs s u => s.csLost n u

/-- R254, R264: the switch-out that is requested on sequencer `n` at an instruction boundary. After YIELD the same
channel may be the choice, and nothing is switched (R357). -/
def State.switchOut (s : State) (n : Fin 16) : State :=
  let q := s.seqs.at n
  let c := q.cx
  if s.seqUp n ∧ (q.st = .run ∨ q.st = .draining) ∧ q.cxv ∧ q.swReq ∧ (s.chans.at c).res ∧ q.held = none then
    let again : Bool :=
      q.yielded && decide (q.st = .run) && decide ((s.chans.at c).st = .run) &&
        decide (((s.modChan c fun x => { x with since := s.now, st := .ready }).choose n fun d =>
          decide (d = c) || s.waiting d) = some c)
    if again then s.modSeq n fun q => { q with swReq := false, yielded := false }
    else (s.saveContext n).settle n
  else s

/-- R262, R357, R518: switch-in dispatch on sequencer `n`. -/
def State.dispatch (s : State) (n : Fin 16) : State :=
  let q := s.seqs.at n
  if s.seqUp n ∧ q.en ∧ (q.st = .switch ∨ ((q.st = .idle ∨ q.st = .nap) ∧ q.swReq)) then
    match s.choose n s.waiting with
    | none => s.modSeq n fun q => { q with st := if q.st = .switch then .idle else q.st, cxv := false, swReq := false,
                                           idleSince := if q.st = .switch then s.now else q.idleSince }
    | some c =>
      let lost (z : State) : State := z.modSeq n fun q => { q with cx := c, st := .switch, swReq := false }
      match s.vendorFetch n .switchIn with
      | (some u, s0) => (lost s0).csLost n u
      | (none, s0) =>
      match s0.loadContext n c with
      | .done s1 =>
        (s1.modSeq n fun q => { q with st := .run, cx := c, cxv := true, swReq := false, yielded := false,
                                       swcnt := q.swcnt + 1 }).modChan c fun x => { x with st := .run, res := true, sq := n }
      | .ecc s1 => (lost s1).ctxEcc n
      | .pool s1 => s1
      | .trap s1 _ => s1
  else s

/-! Traps (R259, R260). -/

def Trap.cause (t : Trap) : W32 := put 16 t.detail ||| put 0 t.code

/-- R260: the channel stops as a trap without handler. -/
def State.noHandler (s : State) (n : Fin 16) : State := s.faultChan (s.seqs.at n).cx .noHandler

/-- R260, R266: a double trap with the second cause `t`, which is the last trap. -/
def State.doubleTrap (s : State) (n : Fin 16) (t : Trap) : State :=
  (s.modSeq n fun q => { q with tcause := putB 31 true ||| t.cause, tval := t.tval, ltrap := put 24 q.cx.val ||| t.cause,
                                ltval := t.tval }).noHandler n

/-- R260: the window, registers and pc of a trap entry. -/
def State.trapWindow (s : State) (n : Fin 16) (t : Trap) : State :=
  match s.wopen n 255 with
  | .done s1 =>
    (s1.modSeq n fun q =>
      let m := q.ringM.at q.cw
      { q with ringM := q.ringM.upd q.cw (((m.upd 0 q.pc).upd 1 q.tcause).upd 2 q.tval), pc := q.tvec }).modChan
        (s.seqs.at n).cx (fun x => { x with firstFetch := true }) |>.uw n 18
  | .pool s1 => s1.enterPool n (.trapEntry t)
  | .ecc s1 => s1.ctxEcc n
  | .trap s1 t2 => s1.doubleTrap n t2

/-- R259, R260, R311: trap entry, the one operation by which a macro trap is taken. -/
def State.trapEntry (s : State) (n : Fin 16) (t : Trap) : State :=
  let q := s.seqs.at n
  let s1 := s.modSeq n fun q => { q with trapF := true, ltpc := q.pc, resv := none }
  if (s.chans.at q.cx).firstFetch ∧ (t.code = 1 ∨ t.code = 2) then s1.doubleTrap n t
  else
    let s2 := s1.modSeq n fun q =>
      { q with tcause := t.cause, tval := t.tval, ltrap := put 24 q.cx.val ||| t.cause, ltval := t.tval }
    if q.tvec = 0 then s2.noHandler n
    else match s2.vendorFetch n .trapEntry with
      | (some u, s3) => (s3.csFault n q.cx u .csEcc).channelFault n .csEcc
      | (none, s3) => s3.trapWindow n t

/-! Sequencer states (R250, R262). -/

/-- R262, R354: what a write of SQn_CFG makes of the sequencer. -/
def State.seqConfig (s : State) (n : Fin 16) (v : W32) : State :=
  let w := v &&& 0x00FF0003
  let q := s.seqs.at n
  let s1 := s.modSeq n fun q => { q with cfg := w }
  let off (z : State) : State := z.modSeq n fun q => { q with st := .off, cxv := false, swReq := false }
  match q.st, q.en, bit w 0 with
  | .off, _, true => s1.modSeq n fun q => { q with st := .idle, idleSince := s.now, swReq := false }
  | .pool, true, false => s1.modSeq n fun q => { q with drainRec := true, swReq := q.swReq || bit w 1 }
  | .pool, _, _ => s1.modSeq n fun q => { q with swReq := q.swReq || (q.drainRec && bit w 1) }
  | .idle, _, false => off s1
  | .nap, _, false => off s1
  | .switch, _, false => off s1
  | .run, true, false =>
    let ab := bit w 1 || decide ((s.chans.at q.cx).st = .blocked)
    s1.modSeq n fun q => { q with st := .draining, swReq := q.swReq || ab }
  | .draining, _, _ => s1.modSeq n fun q => { q with swReq := q.swReq || bit w 1 }
  | .halt, en, v =>
    match q.before, en, v with
    | .draining, _, _ => s1.modSeq n fun q => { q with swReq := q.swReq || bit w 1 }
    | .pool, true, false => s1.modSeq n fun q => { q with drainRec := true, swReq := q.swReq || bit w 1 }
    | .pool, _, _ => s1.modSeq n fun q => { q with swReq := q.swReq || (q.drainRec && bit w 1) }
    | .run, true, false =>
      let ab := bit w 1 || decide ((s.chans.at q.cx).st = .blocked)
      s1.modSeq n fun q => { q with before := .draining, swReq := q.swReq || ab }
    | .idle, _, false => s1.modSeq n fun q => { q with before := .off, cxv := false }
    | .nap, _, false => s1.modSeq n fun q => { q with before := .off, cxv := false }
    | .switch, _, false => s1.modSeq n fun q => { q with before := .off, cxv := false }
    | .off, false, true => s1.modSeq n fun q => { q with before := .idle, idleSince := s.now, swReq := false }
    | _, _, _ => s1
  | _, _, _ => s1

/-- R262, R354, R459: a write of SQn_CFG. -/
def State.seqCfg (s : State) (n : Fin 16) (v : W32) : State := (s.seqConfig n v).seqRests n

/-- R262, R459: an idle sequencer enters NAP after NAPDLY µs. -/
def State.seqNap (s : State) (n : Fin 16) : State :=
  let q := s.seqs.at n
  let d := fldN q.cfg 16 8
  if q.st = .idle ∧ d ≠ 0 ∧ s.ticking ∧ notBefore s.now (q.idleSince + BitVec.ofNat 64 (1000 * d)) then
    ((s.modSeq n fun q => { q with st := .nap }).modTarget (Fin.ofNat 18 n.val) fun x => { x with woken := false }).eicSettle
  else s

def SeqSt.num : SeqSt → Nat
  | .off => 0
  | .idle => 1
  | .nap => 2
  | .run => 3
  | .switch => 4
  | .pool => 5
  | .draining => 6
  | .halt => 7

/-- R266: a microtrap is running: one that waits for a node, since every other begins and ends inside one command. -/
def Seq.micro (q : Seq) : Bool :=
  match q.poolWork with
  | some (.instr _) | some (.trapEntry _) => true
  | _ => false

/-- SQn_STAT as it reads (R266). -/
def Seq.stat (q : Seq) : W32 :=
  put 24 q.cx.val ||| putB 23 q.cxv ||| putB 22 q.micro ||| putB 8 q.trapF ||| put 0 q.st.num

def Seq.fown (q : Seq) : W32 := putB 31 q.fownV ||| putB 30 q.fownD ||| put 0 q.fownCh.val

/-- SQ_POOL_STAT as it reads (R266, R608). -/
def State.poolStat (s : State) : W32 :=
  putB 18 s.pool.fifoErr ||| putB 17 s.pool.pushErr ||| putB 16 s.pool.low |||
    sumBits 16 fun i => decide ((s.seqs.at (Fin.ofNat 16 i)).st = .pool) && s.seqUp (Fin.ofNat 16 i)

/-- R237: every line of the cluster's instruction buffer is invalidated. -/
def State.ibInvalidate (s : State) (k : Fin 4) : State :=
  { s with ibufs := s.ibufs.mod k fun b => { b with sets := Bank.fill 32 [] } }

end Sys2Proof.Machine
end

