-- ==== Sys2Proof/Machine/Channels.lean ====
section
/-! DEFINITION. Channels: start, commands, mailboxes, descriptor classes and the CH registers
(spec/13_channels.md). -/

namespace Sys2Proof.Machine

/-- R367: the secure attribute that protects the channel: the one in force outside OFF, else that of word 0. -/
def State.chanSec (s : State) (c : Fin 256) : Bool :=
  let x := s.chans.at c
  if x.st = .off then bit (s.descWord c 0) 30 else x.sec

/-- R348: word `w` of the descriptor may be written now. -/
def State.descFree (s : State) (c : Fin 256) (w : Nat) : Bool :=
  let x := s.chans.at c
  if w = 12 ∨ w = 13 ∨ 64 ≤ w then false
  else if 32 ≤ w then true
  else decide (x.st = .off ∨ x.st = .stopped ∨ x.st = .fault)

/-- Words `w` to `w + k - 1` of the descriptor as one number, the first lowest. -/
def State.descNum (s : State) (c : Fin 256) (w k : Nat) : Nat := s.mem.num (descAddr c + 4 * w) (4 * k)

/-! START (R349). -/

/-- The reads that START makes of the descriptor; false where one meets an uncorrectable error. -/
def State.descCheck (s : State) (req : Nat) (c : Fin 256) : Bool × State :=
  [0, 1, 2, 3, 4, 5, 8, 9, 10, 11, 12, 13, 14, 15].foldl (init := (true, s)) fun acc i =>
    let (v, s1) := acc.2.memRead req (descAddr c + 8 * i) 8
    (acc.1 && v.isSome, s1)

/-- R349 check 1: AFF, start pc and TVEC. -/
def descValid (w0 pc tvec : W32) : Bool :=
  decide (fldN w0 28 2 < 2) && decide (fldN pc 0 2 = 0 ∧ pc.toNat < 0x80000) && decide (fldN tvec 0 2 = 0)

/-- R349 check 2: a claim is in force in another channel outside OFF. -/
def State.claimed (s : State) (c : Fin 256) (l : BitVec 256) (e : BitVec 64) (f : BitVec 128) (a : BitVec 16) : Bool :=
  allChans.any fun d =>
    let y := s.chans.at d
    decide (d ≠ c ∧ y.st ≠ .off) &&
      (decide (y.lanes &&& l ≠ 0) || decide (y.engines &&& e ≠ 0) || decide (y.streams &&& f ≠ 0) ||
        decide (y.cells &&& a ≠ 0))

/-- R349: the 40 words of the initial lower half (R252, R274). -/
def startLower (c : Fin 256) (w0 pc tvec : W32) (k : List W32) : List W32 :=
  k ++ List.replicate 24 0 ++
    [pc, putB 17 (bit w0 31) ||| putB 16 (bit w0 30), 1, put 0 c.val, 0, 0, tvec, 0]

/-- R349: START of channel `c` by a requester of code `req`. -/
def State.chStart (s : State) (req : Nat) (c : Fin 256) : State :=
  if (s.chans.at c).st ≠ .off then s.modChan c fun x => { x with cmdIgn := true }
  else
    let (ok, s1) := s.descCheck req c
    let refuse (s : State) (e : Nat) : State := s.modChan c fun x => { x with startErr := e }
    let w0 := s1.descWord c 0
    let pc := s1.descWord c 1
    let tvec := s1.descWord c 2
    let l := BitVec.ofNat 256 (s1.descNum c 16 8)
    let e := BitVec.ofNat 64 (s1.descNum c 24 2)
    let f := BitVec.ofNat 128 (s1.descNum c 26 4)
    let a := BitVec.ofNat 16 (s1.descNum c 30 1)
    if !ok || !descValid w0 pc tvec then refuse s1 3
    else if s1.claimed c l e f a then refuse s1 2
    else match s1.pool.alloc .lower c with
      | none => refuse s1 1
      | some (i, p) =>
        let k := (List.range 8).map fun j => s1.descWord c (4 + j)
        let s2 := ({ s1 with pool := p }).ctxWrite 0 (nodeAddr i) (startLower c w0 pc tvec k)
        let s3 := s2.ctxWrite 0 (descAddr c + 48)
          (Anchor.words { lv := true, uv := false, fv := false, ub := false, fb := false, float := 0, upper := 0,
                          lower := i, spcnt := 0, spill := 0 })
        ((s3.modChan c fun x =>
          { x with config := w0, lanes := l, engines := e, streams := f, cells := a, startErr := 0, breach := none, breachAt := 0,
                   fcause := .none, resumeRec := false, stopRec := none, abort := false, faultRec := none,
                   mbs := x.mbs.map fun m : Mailbox => { m with q := [] }, firstFetch := false }).clearInputs c).makeReady c |>.eicSettle

/-! Commands (R350 to R355). -/

def State.ignored (s : State) (c : Fin 256) : State := s.modChan c fun x => { x with cmdIgn := true }

/-- R579: the channel is resident on a halted sequencer. -/
def State.frozen (s : State) (c : Fin 256) : Bool :=
  let x := s.chans.at c
  let q := s.seqs.at x.sq
  x.res && q.cxv && decide (q.cx = c ∧ q.st = .halt)

/-- R350, R354, R579: STOP with the ABORT of the same write. One for a channel that stays in RUN or BLOCKED on a halted sequencer is
recorded. -/
def State.chStop (s : State) (c : Fin 256) (abort : Bool) : State :=
  let x := s.chans.at c
  if s.frozen c ∧ (x.st = .run ∨ x.st = .blocked) then
    s.modChan c fun x => { x with stopRec := some (abort || x.stopRec.getD false) }
  else
  match x.st with
  | .run =>
    let s1 := s.modChan c fun x => { x with st := .draining, abort := abort, resumeRec := false }
    if abort then s1.reqSwitch x.sq else s1
  | .waitPool => s.modChan c fun x => { x with stopRec := some (abort || x.stopRec.getD false) }
  | .ready | .blocked =>
    let s1 := s.stopChan 16 c
    if x.res then s1.reqSwitch x.sq else s1
  | .draining =>
    let s1 := s.ignored c
    if abort then (s1.modChan c fun x => { x with abort := true }).reqSwitch x.sq else s1
  | _ => s.ignored c

/-- R354, R355: ABORT alone. -/
def State.chAbort (s : State) (c : Fin 256) : State :=
  let x := s.chans.at c
  if x.st = .draining then (s.modChan c fun x => { x with abort := true }).reqSwitch x.sq else s.ignored c

/-- R350, R354, R361: RESUME. -/
def State.chResume (s : State) (req : Nat) (c : Fin 256) : State :=
  match (s.chans.at c).st with
  | .stopped => s.resume req c
  | .draining => s.modChan c fun x => { x with resumeRec := true }
  | _ => s.ignored c

/-- The sequencer gives up a channel whose context it will not save. -/
def State.seqAbandon (s : State) (n : Fin 16) : State :=
  if (s.seqs.at n).st = .halt then
    s.modSeq n fun q =>
      let st := q.freedSt q.before
      { q with before := st, cxv := q.cxv && decide (st = .switch), swReq := false, yielded := false, stopI := false,
               drainRec := false, poolWork := none, held := none }
  else s.seqFreed n

/-- R352: every node of the channel returns to the free list, in rising order. -/
def Pool.freeAll (p : Pool) (c : Fin 256) : Pool :=
  (List.ofFn fun i : Fin 512 => i).foldl (init := p) fun p i =>
    let x := p.nodes.at i
    if x.owner = c ∧ x.kind ≠ .free ∧ x.kind ≠ .unowned then p.free i else p

/-- R352: DISCARD. -/
def State.chDiscard (s : State) (c : Fin 256) : State :=
  let x := s.chans.at c
  if x.st = .stopped ∨ x.st = .fault then
    let s1 := if x.res then s.seqAbandon x.sq else s
    let s2 := ({ s1 with pool := s1.pool.freeAll c }).dropFown c
    ((s2.ctxWrite 0 (descAddr c + 48) [0, 0]).modChan c fun x =>
      { x with st := .off, res := false, config := 0, lanes := 0, engines := 0, streams := 0, cells := 0,
               mbs := x.mbs.map fun m => { m with q := [] }, resumeRec := false, stopRec := none, abort := false,
               faultRec := none }).eicSettle
  else s.ignored c

/-- R354: FLUSH. -/
def State.chFlush (s : State) (c : Fin 256) : State :=
  let x := s.chans.at c
  if x.st = .stopped ∨ x.st = .fault then
    s.modChan c fun x => { x with mbs := x.mbs.map fun m => { m with q := [] } }
  else s.ignored c

/-- R353: NOTE. -/
def State.chNote (s : State) (c : Fin 256) : State := s.modChan c fun x => { x with note := true }

/-- R355: a write of CHn_CTRL applies its bits in order. -/
def State.chCtrl (s : State) (req : Nat) (c : Fin 256) (v : W32) : State :=
  let s1 := if bit v 1 then s.chStop c (bit v 2) else if bit v 2 then s.chAbort c else s
  let s2 := if bit v 4 then s1.chDiscard c else s1
  let s3 := if bit v 5 then s2.chFlush c else s2
  let s4 := if bit v 0 then s3.chStart req c else s3
  let s5 := if bit v 3 then s4.chResume req c else s4
  if bit v 6 then s5.chNote c else s5

/-- R360, R579: the condition of a BLOCKED channel may hold. On a halted sequencer it stays BLOCKED. -/
def State.chWake (s : State) (c : Fin 256) : State :=
  let x := s.chans.at c
  if x.st = .blocked ∧ !s.frozen c then
    if x.res then s.modChan c fun x => { x with st := .run } else s.makeReady c
  else s

/-! Mailboxes (R362 to R365). -/

def State.modMb (s : State) (c : Fin 256) (m : Fin 4) (f : Mailbox → Mailbox) : State :=
  s.modChan c fun x => { x with mbs := x.mbs.mod m f }

/-- The result of a post is recorded in the mailbox. -/
def State.mbResult (s : State) (c : Fin 256) (m : Fin 4) (r : PostRes) : State :=
  s.modMb c m fun b => { b with res := r, refused := b.refused || decide (r ≠ .accepted) }

/-- R364: a post is accepted as entry `e`. -/
def State.mbAccept (s : State) (c : Fin 256) (m : Fin 4) (e : MbEntry) : State :=
  (((s.modChan c fun x => { x with mbClean := false }).modMb c m fun b => { b with q := b.q ++ [e] }).mbResult c m .accepted)

/-- R364: a plain post. -/
def State.postPlain (s : State) (c : Fin 256) (m : Fin 4) (data : W64) : State × PostRes :=
  let b := (s.chans.at c).mbs.at m
  if b.q.length ≥ 4 then (s.mbResult c m .full, .full)
  else (s.mbAccept c m { data := data, time := 0, vis := true, noted := false }, .accepted)

/-- R364, R365: a stamped post. -/
def State.postStamped (s : State) (c : Fin 256) (m : Fin 4) (data time : W64) : State × PostRes :=
  let x := s.chans.at c
  let d := s.beryl.doms.at (x.mdom m)
  if !d.inHorizon time s.beryl.g then (s.mbResult c m .horizon, .horizon)
  else if d.dueAt (time.setWidth 40) s.beryl.g then (s.mbResult c m .late, .late)
  else if (x.mbs.at m).q.length ≥ 4 then
    let s1 := s.mbResult c m .full
    (if x.det then s1.breach c .overflow else s1, .full)
  else (s.mbAccept c m { data := data, time := time, vis := false, noted := false }, .accepted)

/-- R363: an accepted write of CH_POST_GO by `w`. -/
def State.post (s : State) (w : Master) (c : Fin 256) (m : Fin 4) : State :=
  let p := s.posts.at w.slot
  let (s1, r) := if (s.chans.at c).stmp m then s.postStamped c m p.data p.time else s.postPlain c m p.data
  { s1 with posts := s1.posts.mod w.slot fun p => { p with v := true, ch := c, mb := m, res := r } }

/-- R130: entries of mailbox `m` whose due instant TD0 has reached enter the path. -/
def State.entryIn (s : State) (c : Fin 256) (m : Fin 4) : State :=
  let d := s.beryl.doms.at ((s.chans.at c).mdom m)
  s.modMb c m fun b => { b with q := b.q.map fun e => { e with vis := e.vis || d.dueAt (e.time.setWidth 40) s.beryl.g } }

/-! Registers (R369). -/

def ChSt.num : ChSt → Nat
  | .off => 0
  | .ready => 1
  | .run => 2
  | .blocked => 3
  | .waitPool => 4
  | .draining => 5
  | .stopped => 6
  | .fault => 7

def FCause.num : FCause → Nat
  | .none => 0
  | .noHandler => 1
  | .ctxEcc => 2
  | .csEcc => 3
  | .uIllegal => 4
  | .uCommit => 5
  | .uLimit => 6
  | .breach => 7

def PostRes.num : PostRes → Nat
  | .accepted => 0
  | .late => 1
  | .full => 2
  | .horizon => 3

/-- CHn_STAT as it reads. -/
def Channel.stat (x : Channel) : W32 :=
  put 24 x.sq.val ||| putB 23 x.res ||| put 20 ((x.breach.map BreachCond.num).getD 0) ||| put 16 x.fcause.num |||
    put 13 x.startErr ||| putB 12 x.cmdIgn ||| putB 11 x.note ||| putB 10 x.stopF ||| putB 9 x.faultF |||
    putB 8 x.ieNote ||| putB 7 x.ieStop ||| putB 6 x.ieFault ||| putB 5 x.det ||| putB 4 x.sec ||| put 0 x.st.num

/-- A write of CHn_STAT. -/
def State.chStatW (s : State) (c : Fin 256) (v : W32) : State :=
  s.modChan c fun x =>
    { x with cmdIgn := x.cmdIgn && !bit v 12, note := x.note && !bit v 11, stopF := x.stopF && !bit v 10,
             faultF := x.faultF && !bit v 9, ieNote := bit v 8, ieStop := bit v 7, ieFault := bit v 6 }

/-- CHn_MBX as it reads. -/
def Channel.mbx (x : Channel) : W32 :=
  (List.ofFn fun m : Fin 4 => m).foldl (init := 0) fun acc m =>
    let b := x.mbs.at m
    acc ||| putB (8 * m.val + 6) b.refused ||| put (8 * m.val + 4) b.res.num ||| putB (8 * m.val + 3) (x.stmp m) |||
      put (8 * m.val) b.q.length

/-- A write of CHn_MBX. -/
def State.chMbxW (s : State) (c : Fin 256) (v : W32) : State :=
  s.modChan c fun x =>
    { x with mbs := Vector.ofFn fun m : Fin 4 =>
        let b := x.mbs.at m
        { b with refused := b.refused && !bit v (8 * m.val + 6) } }

/-- CH_POST_STAT as it reads. -/
def PostRegs.stat (p : PostRegs) : W32 := putB 31 p.v ||| put 8 p.ch.val ||| put 4 p.res.num ||| put 0 p.mb.val

/-- CH_STOPSUMi as it reads. -/
def State.stopSum (s : State) (i : Nat) : W32 :=
  sumBits 32 fun j =>
    let x := s.chans.at (Fin.ofNat 256 (32 * i + j))
    decide (x.st = .stopped ∨ x.st = .fault)

/-- R353: channel `n` raises its source. -/
def Channel.source (x : Channel) : Bool := (x.ieNote && x.note) || (x.ieStop && x.stopF) || (x.ieFault && x.faultF)

/-- R133: source 469. -/
def State.breachSource (s : State) : Bool :=
  allChans.any fun c => let x := s.chans.at c; decide (x.st ≠ .off) && x.breach.isSome

end Sys2Proof.Machine
end

