-- ==== Sys2Proof/Machine/Lanes.lean ====
section
/-! DEFINITION. Lane cells: action queues, late policies, captures, states (spec/05_lane_cells.md, R117 to R121). -/

namespace Sys2Proof.Machine

inductive Policy where
  | drop | exec | fault
  deriving DecidableEq, Repr

/-- What became of an enqueue: taken, made to wait, or refused and discarded (R119, R141). -/
inductive EnqRes where
  | ok | stall | refused
  deriving DecidableEq, Repr

def Lane.en (l : Lane) : Bool := bit l.cfg 4
def Lane.filt (l : Lane) : Nat := fldN l.cfg 8 5
def Lane.capEdge (l : Lane) : Nat := fldN l.cfg 5 2
def Lane.strbEn (l : Lane) : Bool := bit l.cfg 19
def Lane.strbLane (l : Lane) : Nat := fldN l.cfg 20 4
def Lane.strbEdge (l : Lane) : Nat := fldN l.cfg 24 2
def Lane.triple (l : Lane) : Bool := bit l.cfg 13
/-- Triple spacing in ns (R163). -/
def Lane.tspace (l : Lane) : Nat := if fldN l.cfg 14 3 = 0 then 1 else fldN l.cfg 14 3
/-- Sample offset in quarter-ns (R154). -/
def Lane.skew (l : Lane) : Int := (fld l.cfg 26 4).toInt
def Lane.ceng (l : Lane) : Nat := fldN l.cfg 17 2

/-- R121, R158: the policy in force. -/
def State.lanePolicy (s : State) (n : Fin 256) : Policy :=
  if (s.laneOwner n).isSome then .fault
  else match fldN (s.lanes.at n).cfg 2 2 with
    | 0 => .drop
    | 1 => .exec
    | _ => .fault

def State.modLane (s : State) (n : Fin 256) (f : Lane → Lane) : State := { s with lanes := s.lanes.mod n f }

/-- The lane's half runs. -/
def State.laneUp (s : State) (n : Fin 256) : Bool := s.halfUp (laneHalf n)

/-- R163: a late entry is counted at TD0 = `g`. -/
def Lane.countLate (l : Lane) (order : Bool) (g : W64) : Lane :=
  { l with late := true, order := l.order || order, lateAt := some g, lateNs := if l.lateAt = some g then l.lateNs + 1 else 1,
           lateCnt := if l.lateCnt = 255 then 255 else l.lateCnt + 1 }

/-- R157: entry into FAULT at the present ns, a breach for a deterministic owner (R158). -/
def State.laneFault (s : State) (n : Fin 256) (covf : Bool) : State :=
  let s1 := s.modLane n fun l =>
    { l with st := .fault, fcause := if covf then 2 else 1, faultNs := lo32 s.now, driven := false }
  s1.breachOf (s.laneOwner n) (if covf then .overflow else .late)

/-- R102, R142, R143: the entry's own execution instant has come at `g`. -/
def State.entryDue (s : State) (e : ActEntry) (g : W64) : Bool :=
  match e.execAt with
  | some x => notBefore g x
  | none => (s.beryl.doms.at e.td).dueAt e.ns (s.abs g)

/-- R143: the entry is late for order at the present ns: its due instant lies before it, and so does the instant that R142 has
set for it, where it has. -/
def State.orderLate (s : State) (e : ActEntry) : Bool := s.entryDue e (s.now - 1)

/-- R143: after an execution at the present ns, the entries at the head that are late for order are handled. The
second result says that the lane faults. -/
def State.sweep (s : State) (p : Policy) (l : Lane) : List ActEntry → Lane × Bool
  | [] => ({ l with aq := [] }, false)
  | e :: r =>
    if s.orderLate e then
      match p with
      | .drop => s.sweep p (l.countLate true s.now) r
      | .exec => ({ l.countLate true s.now with aq := { e with execAt := some s.now } :: r }, false)
      | .fault => ({ l.countLate true s.now with aq := r }, true)
    else ({ l with aq := e :: r }, false)

/-- R144: on a return to RUN every entry whose due instant has passed, as `f` judges it, is late for order. -/
def State.overdue (s : State) (p : Policy) (f : ActEntry → Bool) (l : Lane) : List ActEntry → Lane × List ActEntry × Bool
  | [] => (l, [], false)
  | e :: r =>
    if f e then
      match p with
      | .drop => s.overdue p f (l.countLate true s.now) r
      | .exec =>
        let (l1, r1, x) := s.overdue p f (l.countLate true s.now) r
        (l1, { e with execAt := some s.now, passed := false } :: r1, x)
      | .fault => (l.countLate true s.now, r, true)
    else
      let (l1, r1, x) := s.overdue p f l r
      (l1, e :: r1, x)

/-- R144, R157: lane `n` returns to RUN at the present ns; `f` says which of its entries are overdue. -/
def State.laneReturn (s : State) (n : Fin 256) (f : ActEntry → Bool) : State :=
  let l := s.lanes.at n
  let (l1, r, x) := s.overdue (s.lanePolicy n) f l l.aq
  let s1 := s.modLane n fun _ => { l1 with aq := r }
  if x then s1.laneFault n false else s1

/-- R146, R148: V and DIS of a capture whose readings of LN_IN gave `l`, and the V it was taken with where it reads nothing. -/
def majority (v : Bool) : List Bool → Bool × Bool
  | [a] => (a, false)
  | [a, b, c] => ((a && b) || (a && c) || (b && c), !(a == b && b == c))
  | _ => (v, false)

/-- An instant as a count of quarter-ns. -/
def Instant.quarters (t : Instant) : BitVec 66 := t.ns ++ t.q

/-- R146: the level that LN_IN had at the capture-stamp time `x`, from the input history (newest first). -/
def levelAt (now : Bool) (x : BitVec 66) : List (Instant × Bool) → Bool
  | [] => now
  | (t, v) :: r => if (x - t.quarters).toNat < 2 ^ 65 then v else levelAt (!v) x r

/-- R146, R148: a capture with its sampled levels read from the lane's input history. -/
def Lane.sampled (l : Lane) (p : PendCap) : PendCap :=
  if p.at_.isEmpty then p
  else
    let r := majority p.v (p.at_.map fun d => levelAt l.level (p.stamp.quarters + BitVec.ofInt 66 d) l.hist)
    { p with v := r.1, dis := r.2, at_ := [] }

/-- R144: a load has moved TD0 from `g` by `jump`: the entries that wait and whose due instant the load has carried TD0 past are
marked, and the input history moves with TD0. -/
def State.lanesAfterLoad (s : State) (g : Nat) (jump : W64) : State :=
  let mark (e : ActEntry) : ActEntry :=
    let due (x : Int) : Bool :=
      match e.execAt with
      | some y => decide (nearG g y ≤ x)
      | none => (s.beryl.doms.at e.td).dueAt e.ns x
    { e with passed := (e.passed || !due (g - 1)) && due (s.beryl.g - 1) }
  { s with lanes := s.lanes.map fun l : Lane =>
      { l with aq := l.aq.map mark, pend := l.pend.map l.sampled, mark := none,
               hist := l.hist.map fun e => ({ e.1 with ns := e.1.ns + jump }, e.2) } }

/-- R142: the entries into FAULT that late entries have made due. -/
def State.laneFaultDue (s : State) (n : Fin 256) : State :=
  let l := s.lanes.at n
  if s.laneUp n ∧ s.ticking ∧ (l.faultAt.any fun g => notBefore s.now g) then
    let s1 := s.modLane n fun l => { l with faultAt := l.faultAt.filter fun g => !notBefore s.now g }
    if l.st = .fault then s1.breachOf (s.laneOwner n) .late else s1.laneFault n false
  else s

/-- R118, R119, R140 to R142: an entry is offered to the lane's action queue, after an entry into FAULT that is due. It waits while
the queue of a lane in RUN is full, and for the 4 ns after the last entry.
DESIGN CHOICE (log 9): a lane in HOLD entered from FAULT refuses the entry, as R141 says of FAULT; R140 alone would take it. -/
def State.enqLane (s0 : State) (n : Fin 256) (op : ActOp) (v : Bool) (td : Fin 8) (ns : BitVec 40) : State × EnqRes :=
  let s := s0.laneFaultDue n
  let l := s.lanes.at n
  if !s.laneUp n || decide (l.st = .fault) then (s, .refused)
  else if l.aq.length ≥ 8 then (s, if l.st = .run ∧ s.ticking then .stall else .refused)
  else if s.ticking ∧ l.lastAccept.any fun a => !notBefore s.now (a + 4) then (s, .stall)
  else
    let ge := s.now
    let e : ActEntry := { v := v, op := op, td := td, ns := ns, ge := ge, execAt := none, passed := false }
    let l1 := { l with lastAccept := if s.ticking then some ge else none }
    let l2 :=
      if (s.beryl.doms.at td).leadLate ns (s.abs ge) then
        match s.lanePolicy n with
        | .drop => l1.countLate false ge
        | .exec => { l1.countLate false ge with aq := l1.aq ++ [{ e with execAt := some (ge + 24) }] }
        | .fault => { l1.countLate false ge with faultAt := l1.faultAt ++ [ge + 24] }
      else { l1 with aq := l1.aq ++ [e] }
    (s.modLane n fun _ => l2, .ok)

/-- R109, R118: lane `n` after a STEP or SET of domain `td` has taken effect at `ga`: entries in the skipped span,
and entries whose moved due instant now fails the lead test, are late. -/
def laneAfterStep (p : Policy) (old new : Domain) (td : Fin 8) (ga : Nat) (l : Lane) : Lane :=
  let gw : W64 := BitVec.ofNat 64 ga
  let lateNow (e : ActEntry) : Bool :=
    decide (e.td = td) && e.execAt.isNone &&
      ((new.dueAt e.ns ga && !old.dueAt e.ns ga) ||
        ((List.range 24).any fun k =>
          let g := nearG ga e.ge + k
          decide (ga ≤ g) && new.dueAt e.ns g))
  let step (l : Lane) (e : ActEntry) : Lane :=
    if lateNow e then
      let at_ := if notBefore (e.ge + 24) gw then e.ge + 24 else gw
      match p with
      | .drop => l.countLate false gw
      | .exec => { l.countLate false gw with aq := l.aq ++ [{ e with execAt := some at_ }] }
      | .fault => { l.countLate false gw with faultAt := l.faultAt ++ [at_] }
    else { l with aq := l.aq ++ [e] }
  if l.st = .fault then l else l.aq.foldl step { l with aq := [] }

/-- The same for every lane of a running half. -/
def State.lanesAfterStep (s : State) (old new : Domain) (td : Fin 8) (ga : Nat) : State :=
  { s with lanes := Vector.ofFn fun n =>
      if s.laneUp n then laneAfterStep (s.lanePolicy n) old new td ga (s.lanes.at n) else s.lanes.at n }

/-- R139, R156: the signals that an action acts on: those the lane presents. -/
def Lane.base (l : Lane) : PadOut := if l.driven then l.pad else restPad l.rest

/-- R146, R148: the quarter-ns offsets from its stamp at which a capture of kind `k` reads LN_IN. -/
def Lane.readings (l : Lane) (k : CapKind) : List Int :=
  match k with
  | .edge | .mark => []
  | .strobe => [l.skew]
  | .sample => if l.triple then [-4 * (l.tspace : Int), 0, 4 * (l.tspace : Int)] else [0]

/-- R149: a capture of kind `k` is taken. -/
def Lane.take (l : Lane) (k : CapKind) (v : Bool) (t : Instant) (src : Nat) : Lane :=
  { l with pend := l.pend ++
      [{ kind := k, v := v, dis := false, stamp := t, commitAt := t.ns + BitVec.ofNat 64 l.twm, src := src, at_ := l.readings k }] }

/-- R139: what the entry does to the lane at the present ns. -/
def State.perform (s : State) (n : Fin 256) (l : Lane) (e : ActEntry) : Lane :=
  let b := l.base
  match e.op with
  | .drive => { l with pad := { out := e.v, oe := true, pu := false }, driven := true }
  | .float => { l with pad := { out := false, oe := false, pu := e.v }, driven := true }
  | .toggle => { l with pad := { b with out := !b.out }, driven := true }
  | .rest => { l with pad := restPad l.rest, driven := false }
  | .sample => l.take .sample false { ns := s.now, q := 0 } n.val
  | .mark => l.take .mark e.v { ns := s.now, q := 0 } n.val

/-- R142, R143: the head of the action queue executes when it is an entry of kind `op` whose instant has come, unless an entry
into FAULT is due. -/
def State.execAction (s0 : State) (n : Fin 256) (op : ActOp) : State :=
  let s := s0.laneFaultDue n
  let l := s.lanes.at n
  match l.aq with
  | e :: r =>
    if s.laneUp n ∧ s.ticking ∧ l.st = .run ∧ e.op = op ∧ s.entryDue e s.now then
      let (l2, f) := s.sweep (s.lanePolicy n) (s.perform n l e) r
      let s1 := s.modLane n fun _ => l2
      if f then s1.laneFault n false else s1
    else s
  | [] => s

/-! Captures (R145 to R154). -/

/-- The edge selector `sel` (0 none, 1 rise, 2 fall, 3 both) takes an edge to `level`. -/
def edgeSel (sel : Nat) (level : Bool) : Bool := if level then sel = 1 || sel = 3 else sel = 2 || sel = 3

/-- R146: the lane takes captures. -/
def State.capturing (s : State) (n : Fin 256) : Bool :=
  s.laneUp n && s.ticking && decide ((s.lanes.at n).st ≠ .off)

/-- The lane of index `i` in the group of `n`. -/
def groupLane (n : Fin 256) (i : Nat) : Fin 256 := Fin.ofNat 256 (n.val / 16 * 16 + i % 16)

/-- R484: an accepted edge of lane `n` in RUN, which the capture pairs that watch it see. -/
def State.pairsEdge (s : State) (n : Fin 256) (t : Instant) (level : Bool) : State :=
  let l := s.lanes.at n
  if l.st = .run ∧ s.laneUp n ∧ s.ticking then
    let e : PairEdge := { stamp := t, level := level, commitAt := t.ns + BitVec.ofNat 64 l.twm }
    let see (x : CapPair) : CapPair :=
      if bit x.cfg 0 ∧ fldN x.cfg 8 8 = n.val then { x with pend := x.pend ++ [e] } else x
    { s with ta := { s.ta with pairs := s.ta.pairs.map see } }
  else s

/-- R147, R484: an edge that the filter refuses is no edge for the pairs either. -/
def State.pairsDrop (s : State) (n : Fin 256) (t : Instant) : State :=
  let drop (x : CapPair) : CapPair :=
    if fldN x.cfg 8 8 = n.val then { x with pend := x.pend.filter fun e => decide (e.stamp ≠ t) } else x
  { s with ta := { s.ta with pairs := s.ta.pairs.map drop } }

/-- R146, R152, R153: the captures that an accepted edge of lane `n` makes: its own, and those of its strobe group. -/
def State.edgeCaptures (s : State) (n : Fin 256) (t : Instant) (level : Bool) : State :=
  let own (l : Lane) : Bool := s.capturing n && !l.strbEn && edgeSel l.capEdge level
  let s1 := s.modLane n fun l => if own l then l.take .edge level t n.val else l
  if decide ((s.lanes.at n).st = .run) && s.laneUp n && s.ticking then
    (List.range 16).foldl (init := s1) fun z i =>
      let m := groupLane n i
      z.modLane m fun l =>
        if l.strbEn && decide (l.strbLane = n.val % 16) && z.capturing m && edgeSel l.strbEdge level then
          l.take .strobe false t n.val
        else l
  else s1

/-- R147: an edge that the filter refuses takes back the captures it made. -/
def State.dropCaptures (s : State) (n : Fin 256) (t : Instant) : State :=
  (List.range 16).foldl (init := s) fun z i =>
    z.modLane (groupLane n i) fun l =>
      { l with pend := l.pend.filter fun p =>
          !(decide (p.src = n.val) && decide (p.stamp = t) && (decide (p.kind = .edge) || decide (p.kind = .strobe))) }

/-- R146: the input history after a change to `level` at `t`: that of the 64 ns before it stays, which every reading of a capture
still to come lies in. Of the changes at one instant the last counts. -/
def noteEdge (t : Instant) (level : Bool) (h : List (Instant × Bool)) : List (Instant × Bool) :=
  match h with
  | (u, _) :: r => if u = t then r else (t, level) :: h.filter fun e => decide ((t.quarters - e.1.quarters).toNat < 256)
  | [] => [(t, level)]

/-- R146, R147: LN_IN of lane `n` changes to `level` at the capture-stamp time `t0`. While TD0 stands, the change lies after
the quarter-ns at which it stands.
DESIGN CHOICE (log 9): where a write of LNn_CFG that clears or sets EN changes FILT, a transition that is not yet accepted is
judged by the FILT in force at the next transition. -/
def State.inputEdge (s : State) (n : Fin 256) (t0 : Instant) (level : Bool) : State :=
  let l := s.lanes.at n
  if l.level = level then s
  else
    let t : Instant :=
      if s.ticking then t0 else { ns := if s.beryl.q = 3 then s.now + 1 else s.now, q := s.beryl.q + 1 }
    let s0 := s.modLane n fun l => { l with level := level, hist := noteEdge t level l.hist }
    match l.cand with
    | some c =>
      if (t.quarters - c.quarters).toNat < 4 * l.filt then
        ((s0.dropCaptures n c).pairsDrop n c).modLane n fun l => { l with cand := none, accLevel := level }
      else ((s0.edgeCaptures n t level).pairsEdge n t level).modLane n fun l => { l with cand := some t, accLevel := level }
    | none => ((s0.edgeCaptures n t level).pairsEdge n t level).modLane n fun l => { l with cand := some t, accLevel := level }

/-- R149: the order in which captures of one commit ns enter the queue. -/
def CapKind.rank : CapKind → Nat
  | .edge => 0
  | .strobe => 1
  | .sample => 2
  | .mark => 3

/-- `a` commits before `b`, or in the same ns and ahead of it (R149). -/
def PendCap.ahead (a b : PendCap) : Bool :=
  if a.commitAt ≠ b.commitAt then notBefore b.commitAt a.commitAt
  else if a.stamp ≠ b.stamp then (b.stamp.quarters - a.stamp.quarters).toNat < 2 ^ 65
  else a.kind.rank ≤ b.kind.rank

/-- The pending capture that commits first, and the rest. -/
def firstCap : List PendCap → Option (PendCap × List PendCap)
  | [] => none
  | p :: r =>
    match firstCap r with
    | none => some (p, [])
    | some (q, r') => if p.ahead q then some (p, r) else some (q, p :: r')

/-- R145: the entry that a pending capture becomes. -/
def Lane.entryOf (l : Lane) (p : PendCap) : CapEntry :=
  let p1 := l.sampled p
  { ovfb := l.ovfNext, dis := p1.dis, kind := p1.kind, v := p1.v, stamp := p1.stamp }

/-- R149, R151: the first pending capture whose commit instant has come enters the capture queue, or is discarded
where the queue is full.
DESIGN CHOICE (log 9): a capture that was taken before EN was cleared is still committed at its instant; R157 says only that
there are no new ones. One whose commit instant a load of TD0 has passed is committed at the first instant after the return. -/
def State.commitCapture (s : State) (n : Fin 256) : State :=
  let l := s.lanes.at n
  match firstCap l.pend with
  | some (p, r) =>
    if s.laneUp n ∧ s.ticking ∧ notBefore s.now p.commitAt then
      if l.cq.length < 8 then
        s.modLane n fun l => { l with pend := r, cq := l.cq ++ [l.entryOf p], ovfNext := false }
      else
        let s1 := s.modLane n fun l => { l with pend := r, covf := true, ovfNext := true }
        if l.st = .run ∧ s.lanePolicy n = .fault then s1.laneFault n true else s1.breachOf (s.laneOwner n) .overflow
    else s
  | none => s

/-- The earlier and the later of two instants. -/
def sooner (a b : W64) : W64 := if notBefore a b then b else a
def later (a b : W64) : W64 := if notBefore a b then a else b

/-- R122, R150: the watermark of the capture queue. After a new enable with another TWM it stays below a capture that was taken
before and is still to come, and never falls.
DESIGN CHOICE (log 9): after a load of TD0 to an earlier value the formula of R150 gives a value below an earlier one, which R122
excludes; the model keeps to the formula. -/
def State.laneMark (s : State) (n : Fin 256) : W64 :=
  let l := s.lanes.at n
  let other (p : PendCap) : Bool := decide (p.commitAt ≠ p.stamp.ns + BitVec.ofNat 64 l.twm)
  let w := (l.pend.filter other).foldl (init := s.now - BitVec.ofNat 64 l.twm + 1) fun w p => sooner w p.stamp.ns
  match l.mark with
  | some m => later m w
  | none => w

/-! Registers and states (R155 to R163). -/

/-- R149: TWM for the configuration word `v` of lane `n`. -/
def State.twmOf (s : State) (n : Fin 256) (v : W32) : Nat :=
  let f := fldN v 8 5
  let m := groupLane n (fldN v 20 4)
  let f2 := if bit v 19 then max f (if m = n then f else (s.lanes.at m).filt) else f
  let ts := if fldN v 14 3 = 0 then 1 else fldN v 14 3
  6 + f2 + (if bit v 13 then ts else 0)

/-- The fields of LNn_CFG but REST (R163). -/
def laneCfgMask : W32 := 0x3FFFFF7C

/-- R155, R157, R160: a write of LNn_CFG.
DESIGN CHOICE (log 9): in HOLD, for which R157 has no such row, EN changes the state that the lane holds at once. -/
def State.laneCfg (s : State) (n : Fin 256) (v : W32) : State :=
  let l := { s.lanes.at n with rest := fld v 0 2 }
  let w := v &&& laneCfgMask
  match l.en, bit v 4 with
  | true, true =>
    let odd := decide ((l.cfg ^^^ w) &&& 0x3FFFFF70 ≠ 0)
    s.modLane n fun _ => { l with cfg := mrg 0xC l.cfg w, cfgIgn := l.cfgIgn || odd }
  | true, false =>
    s.modLane n fun _ =>
      { l with cfg := w, st := if l.st = .run then .off else l.st, driven := false }
  | false, true =>
    let late (e : ActEntry) : ActEntry := { e with passed := e.passed || (decide (l.st = .off) && s.orderLate e) }
    let s1 := s.modLane n fun _ => { l with cfg := w, twm := s.twmOf n v, mark := some (s.laneMark n), driven := false,
                                            aq := if s.ticking then l.aq else l.aq.map late,
                                            st := if l.st = .off then .run else l.st }
    if l.st = .off ∧ s.ticking then s1.laneReturn n s.orderLate else s1
  | false, false => s.modLane n fun _ => { l with cfg := w }

/-- R157: CLRFLT.
DESIGN CHOICE (log 9): written in HOLD entered from FAULT, for which R157 has no row, it clears the FAULT that the lane holds. -/
def State.laneClrFlt (s : State) (n : Fin 256) : State :=
  s.modLane n fun l =>
    if l.st = .fault then
      { l with aq := [], fcause := 0, st := if l.en then .run else .off, driven := false }
    else l

/-- R161: FLUSH_A: an entry that enters in the same ns of TD0 stays. While TD0 stands the queue is emptied. -/
def State.laneFlushA (s : State) (n : Fin 256) : State :=
  s.modLane n fun l => { l with aq := if s.ticking then l.aq.filter fun e => notBefore e.ge s.now else [] }

/-- R161: FLUSH_C. -/
def State.laneFlushC (s : State) (n : Fin 256) : State := s.modLane n fun l => { l with cq := [] }

/-- A write of LNn_CTRL. -/
def State.laneCtrl (s : State) (n : Fin 256) (v : W32) : State :=
  let s1 := if bit v 0 then s.laneClrFlt n else s
  let s2 := if bit v 1 then s1.laneFlushA n else s1
  if bit v 2 then s2.laneFlushC n else s2

/-- R157: the state that LNn_STAT reports. -/
def State.laneState (s : State) (n : Fin 256) : Nat :=
  if (s.lanes.at n).held then 3
  else match (s.lanes.at n).st with
    | .off => 0
    | .run => 1
    | .fault => 2

/-- LNn_CFG as it reads. -/
def Lane.readCfg (l : Lane) : W32 := l.cfg ||| l.rest.setWidth 32

/-- LNn_STAT as it reads (R163). -/
def State.laneStat (s : State) (n : Fin 256) : W32 :=
  let l := s.lanes.at n
  put 24 l.fcause ||| put 16 l.lateCnt.toNat ||| put 12 l.cq.length ||| put 8 l.aq.length ||| putB 7 l.order |||
    putB 6 l.cfgIgn ||| putB 5 l.covf ||| putB 4 l.late ||| put 0 (s.laneState n)

/-- A write of LNn_STAT: its W1C flags; clearing LATE zeroes LATECNT, and a late entry of the same ns is counted after it
(R22, R163). -/
def State.laneStatW (s : State) (n : Fin 256) (v : W32) : State :=
  s.modLane n fun l =>
    let same := decide (l.lateAt = some s.now) && s.ticking
    { l with order := l.order && !bit v 7, cfgIgn := l.cfgIgn && !bit v 6, covf := l.covf && !bit v 5,
             late := l.late && (!bit v 4 || same),
             lateCnt := if bit v 4 then (if same then BitVec.ofNat 8 (min l.lateNs 255) else 0) else l.lateCnt }

/-- R84, R156: the three output signals of lane `n` as the pad sees them. -/
def State.padOf (s : State) (n : Fin 256) : PadOut :=
  let l := s.lanes.at n
  if s.laneUp n ∧ s.ticking ∧ l.st = .run ∧ l.driven then l.pad else restPad l.rest

end Sys2Proof.Machine
end

