-- ==== Sys2Proof/Machine/Engines.lean ====
section
/-! DEFINITION. Pin engines: FIFOs, capture sets, steps of every instruction, states and registers
(spec/07_pin_engines.md, spec/08_pin_engine_programs.md). -/

namespace Sys2Proof.Machine

def State.modEng (s : State) (n : Fin 64) (f : Engine → Engine) : State := { s with engines := s.engines.mod n f }
def State.engUp (s : State) (n : Fin 64) : Bool := s.halfUp (engHalf n)
def engGroup (n : Fin 64) : Fin 16 := ⟨n.val / 4, by omega⟩
/-- Lane `i` of the engine's group. -/
def engLane (n : Fin 64) (i : Nat) : Fin 256 := Fin.ofNat 256 (n.val / 4 * 16 + i % 16)

def Engine.en (e : Engine) : Bool := bit e.cfg 0
/-- ADOM, FULLOUT, OFPOL, SIGEN and SN are those at GO (R216, R234). DEDUCED (log 28): a write of PEn_CFG in RUN changes them at
the next GO. -/
def Engine.adom (e : Engine) : Fin 8 := Fin.ofNat 8 (fldN e.goCfg 4 3)
def Engine.pclo (e : Engine) : Nat := fldN e.pcReg 0 8
def Engine.pchi (e : Engine) : Nat := fldN e.pcReg 8 8
def Engine.wrap (e : Engine) : Bool := bit e.pcReg 24
/-- Width of the out set, W_O (R223). -/
def Engine.wo (e : Engine) : Nat := fldN e.lanes 0 4 + 1
def Engine.obase (e : Engine) : Nat := fldN e.lanes 4 4
/-- Width of the in set, W_I (R223). -/
def Engine.wi (e : Engine) : Nat := fldN e.lanes 8 4 + 1
def Engine.ibase (e : Engine) : Nat := fldN e.lanes 12 4
def Engine.clkEn (e : Engine) : Bool := bit e.clkReg 27
def Engine.clkLane (e : Engine) : Nat := fldN e.clkReg 28 4
def Engine.clkOff (e : Engine) : Nat := fldN e.clkReg 12 12
/-- R208, R218: half a clock period; below 4 ns acts as 4. -/
def Engine.clkHalf (e : Engine) : Nat := max 4 (fldN e.clkReg 0 12)
/-- R207: the PERIOD that takes effect, in 2^-8 ns. -/
def Engine.per (e : Engine) : BitVec 48 := if e.period.toNat < 1024 then 1024 else e.period.setWidth 48
def Engine.atNs (e : Engine) : BitVec 40 := e.at_.extractLsb' 8 40

/-- The word of the group's program memory at `w` (R211). -/
def State.progWord (s : State) (g : Fin 16) (w : Nat) : W32 := sparseGet 0 (s.groups.at g).prog w

/-- The word at the engine's pc. -/
def State.peWord (s : State) (n : Fin 64) : W32 := s.progWord (engGroup n) (s.engines.at n).pc.toNat

def peOpc (w : W32) : Nat := fldN w 27 5

/-- R221: the idle mark of the word at pc. -/
def State.peIdle (s : State) (n : Fin 64) : Bool := bit (s.peWord n) 26

/-- R222 to R224, R229, R230, R233, R199: the word is a legal instruction for the engine. -/
def Engine.legal (e : Engine) (w : W32) : Bool :=
  let z (lo len : Nat) : Bool := fldN w lo len = 0
  match peOpc w with
  | 1 => z 3 23
  | 2 => z 5 21 && (decide (2 ≤ fldN w 3 2) || decide (e.icnt ≠ 0))
  | 3 => z 16 9 && (bit w 25 == z 0 16)
  | 4 => z 16 8 && (bit w 25 == z 0 16)
  | 5 => z 16 10 && !z 0 16
  | 6 => z 16 5 && decide (fldN w 23 3 ≤ 5) && !(e.clkEn && bit w e.clkLane)
  | 7 => decide (fldN w 24 2 ≠ 3) && (decide (fldN w 24 2 ≠ 0) || z 0 24)
  | 8 => z 0 25
  | 9 => z 16 8
  | 10 => z 24 2
  | 11 => z 0 26
  | 12 =>
    z 20 1 && z 8 6 &&
      match fldN w 21 4 with
      | 3 => true
      | 4 => z 16 4
      | 5 => z 18 2
      | 6 => z 18 2
      | 0 => z 14 6
      | 1 => z 14 6
      | 2 => z 14 6
      | 7 => z 14 6
      | _ => false
  | _ => false

/-- R214: the engine executes steps. -/
def PeSt.live : PeSt → Bool
  | .run => true
  | .stall => true
  | .wait => true
  | .draining => true
  | _ => false

def State.peLive (s : State) (n : Fin 64) : Bool := s.engUp n && (s.engines.at n).st.live

/-- The step proceeds: a stall or a wait ends. -/
def Engine.proceed (e : Engine) : Engine :=
  { e with st := if e.st = .draining then .draining else .run, stallOn := .none }
def Engine.stallAt (e : Engine) (r : StallOn) : Engine :=
  { e with st := if e.st = .draining then .draining else .stall, stallOn := r }
def Engine.waitSet (e : Engine) : Engine :=
  { e with st := if e.st = .draining then .draining else .wait, stallOn := .none }

/-- R214: entry into ERROR. The drain ends, and an enable recorded in it with it. -/
def Engine.fail (e : Engine) (c : PeCause) : Engine :=
  { e with st := .error, cause := c, stallOn := .none, clk := [], stepDone := 0, enRec := none, stop := none }

/-- R214: the configuration in the engine's registers is valid. -/
def Engine.cfgOk (e : Engine) : Bool :=
  decide (e.obase + e.wo ≤ 16) && decide (e.ibase + e.wi ≤ 16) &&
    !(e.clkEn && decide (e.obase ≤ e.clkLane) && decide (e.clkLane < e.obase + e.wo))

/-- R214: what an enable does in OFF. -/
def Engine.enable (e : Engine) (v : W32) : Engine :=
  if e.cfgOk then { e with cfg := v, st := .halt, lvVal := 0, rep := 0, stepDone := 0 }
  else { e with cfg := v &&& ~~~1, cfgErr := true }

/-- R214, R215, R354: the engine reaches OFF; an enable recorded in DRAINING applies then. -/
def Engine.toOff (e : Engine) : Engine :=
  let e1 := { e with st := .off, cfg := e.cfg &&& ~~~1, stallOn := .none, clk := [], stepDone := 0, enRec := none, stop := none }
  match e.enRec with
  | some v => e1.enable v
  | none => e1

/-- TAG by its code (R166). -/
def tagOf (c : Nat) : Tag :=
  match c with
  | 0 => .data
  | 1 => .last
  | 2 => .stamp
  | _ => .abort

def Tag.num : Tag → Nat
  | .data => 0
  | .last => 1
  | .stamp => 2
  | .abort => 3

/-- R199: the entry that PUSH forms. -/
def Engine.pushEntry (e : Engine) (t : Tag) : OutEntry :=
  match t with
  | .data => { data := e.isr >>> (64 - e.icnt), tag := t, nbits := Fin.ofNat 64 (e.icnt - 1), es := e.ct }
  | .last => { data := e.isr >>> (64 - e.icnt), tag := t, nbits := Fin.ofNat 64 (e.icnt - 1), es := e.ct }
  | .stamp => { data := e.ct.setWidth 64, tag := t, nbits := 0, es := e.ct }
  | .abort => { data := 0, tag := t, nbits := 0, es := e.ct }

/-- An 8-bit mask with bit `k` set to `v`. -/
def setBit8 (x : BitVec 8) (k : Nat) (v : Bool) : BitVec 8 :=
  if v then x ||| BitVec.ofNat 8 (2 ^ k) else x &&& ~~~(BitVec.ofNat 8 (2 ^ k))

/-- The output FIFO `k` takes an entry. -/
def Engine.pushOf (e : Engine) (k : Fin 8) (x : OutEntry) : Engine :=
  { e with ofs := e.ofs.mod k (· ++ [x]),
           ofOpen := setBit8 e.ofOpen k.val (decide (x.tag = .data) || decide (x.tag = .stamp)) }

/-- R215: the pending ABORT entry of FIFO `k` is pushed where the FIFO has room. -/
def Engine.abortInto (e : Engine) (k : Fin 8) : Engine :=
  if e.abortPend.getLsbD k.val && decide ((e.ofs.at k).length < 4) then
    { e.pushOf k (e.pushEntry .abort) with abortPend := setBit8 e.abortPend k.val false }
  else e

/-- R215: the engine is turned off with ABORT: open output FIFOs each get an ABORT entry, at once where there is room. -/
def Engine.abortOff (e : Engine) : Engine :=
  ((List.ofFn fun i : Fin 8 => i).foldl (init := { e with abortPend := e.abortPend ||| e.ofOpen }) Engine.abortInto).toOff

/-- R215: a pending ABORT entry is pushed as soon as its FIFO has room. -/
def Engine.abortPush (e : Engine) : Engine :=
  match (List.ofFn fun i : Fin 8 => i).find? fun k => e.abortPend.getLsbD k.val && decide ((e.ofs.at k).length < 4) with
  | some k => e.abortInto k
  | none => e

/-- R214: the engine halts between steps. -/
def Engine.haltNow (e : Engine) : Engine := { e with st := .halt, stallOn := .none, clk := [], stop := none }

/-- R194, R215: the engine goes to OFF, at the end of the step where it is inside one: some lanes have taken their entries of
it, and others have not. It reports DRAINING until then. -/
def Engine.offAtStep (e : Engine) (abort : Bool) : Engine :=
  if e.stepDone = 0 then (if abort then e.abortOff else e.toOff) else { e with st := .draining, stop := some (.off abort) }

/-- R194: the engine halts, at the end of the step where it is inside one. -/
def Engine.haltAtStep (e : Engine) : Engine := if e.stepDone = 0 then e.haltNow else { e with stop := some .halt }

/-- R194: the end of a step, where a halt or a stop that was asked for inside it comes about. -/
def Engine.boundary (e : Engine) : Engine :=
  if e.st.live then
    match e.stop with
    | none => e
    | some .halt => e.haltNow
    | some (.off abort) => if abort then e.abortOff else e.toOff
  else e

/-- R211, R215, R224: the instruction is complete and control goes to `target` (none: the next in sequence). -/
def State.peNext (s : State) (n : Fin 64) (target : Option Nat) : State :=
  let e := s.engines.at n
  let t : Option Nat :=
    match target with
    | some x => if e.pclo ≤ x ∧ x ≤ e.pchi then some x else none
    | none =>
      if e.pc.toNat = e.pchi then if e.wrap then some e.pclo else none
      else if e.pclo ≤ e.pc.toNat + 1 ∧ e.pc.toNat + 1 ≤ e.pchi then some (e.pc.toNat + 1) else none
  match t with
  | some x =>
    let s1 := s.modEng n fun e => { e with pc := BitVec.ofNat 8 x, rep := 0, stepDone := 0 }
    if e.st = .draining ∧ s1.peIdle n then s1.modEng n Engine.toOff else s1
  | none => s.modEng n fun e => { e.fail .pcBound with rep := 0 }

/-- R224: the count of an instruction that repeats. -/
def Engine.count (e : Engine) (w : W32) : Nat :=
  match peOpc w with
  | 3 => if bit w 25 then (e.ocnt + e.wo - 1) / e.wo else fldN w 0 16
  | 4 => if bit w 25 then (64 - e.icnt + e.wi - 1) / e.wi else fldN w 0 16
  | 5 => fldN w 0 16
  | _ => 1

/-- One step of the instruction of code `op` at pc (R194, R224): nothing where the engine does not execute, or the
word at pc is another instruction or illegal. -/
def State.peStep (s : State) (n : Fin 64) (op : Nat) (f : State → Engine → W32 → State) : State :=
  let e := s.engines.at n
  let w := s.peWord n
  if s.peLive n ∧ e.legal w ∧ peOpc w = op then
    if e.rep = 0 then
      if e.count w = 0 then (s.modEng n Engine.proceed).peNext n none
      else
        let s1 := s.modEng n fun e => { e with rep := e.count w }
        f s1 (s1.engines.at n) w
    else f s e w
  else s

/-- R224: one step is done: after the last one of the instruction control goes to `target` (none: the next in sequence). -/
def State.peDone (s : State) (n : Fin 64) (target : Option Nat := none) : State :=
  let e := s.engines.at n
  (if e.rep ≤ 1 then s.peNext n target else s.modEng n fun e => { e with rep := e.rep - 1, stepDone := 0 }).modEng n
    Engine.boundary

/-- How the enqueues of a step went (R195, R210). -/
inductive StepRes where
  | done | full | beryl | refused
  deriving DecidableEq, Repr

/-- R195: the entries of a step are offered in ascending lane order; a lane that has taken its entry is marked. While Beryl is
not in RUN none is offered (R210), but those that waited as it left RUN (`waiting`) stand before their lanes already. -/
def State.enqAll (s : State) (n : Fin 64) (waiting : Bool) (td : Fin 8) (ns : BitVec 40) (op : ActOp) :
    List (Nat × Bool) → State × StepRes
  | [] => (s, .done)
  | (i, v) :: r =>
    if (s.engines.at n).stepDone.getLsbD i then s.enqAll n waiting td ns op r
    else if !s.ticking && !waiting then (s, .beryl)
    else
      match s.enqLane (engLane n i) op v td ns with
      | (s1, .ok) =>
        (s1.modEng n fun e => { e with stepDone := e.stepDone ||| BitVec.ofNat 16 (2 ^ i) }).enqAll n waiting td ns op r
      | (_, .stall) =>
        match s.enqAll n waiting td ns op r with
        | (s2, .refused) => (s2, .refused)
        | (s2, _) => (s2, .full)
      | (s1, .refused) => ((s1.enqAll n waiting td ns op r).1, .refused)

/-- After the enqueues of a step: `k` completes it, or the engine stalls or fails (R209, R210). -/
def State.afterEnq (r : State × StepRes) (n : Fin 64) (k : State → State) : State :=
  match r with
  | (s, .done) => k (s.modEng n Engine.proceed)
  | (s, .full) => s.modEng n fun e => e.stallAt .lane
  | (s, .beryl) => s.modEng n fun e => e.stallAt .beryl
  | (s, .refused) => s.modEng n fun e => e.fail .lane

/-- R206: the lanes an OUT step drives: index in the group and level. -/
def Engine.outSet (e : Engine) : List (Nat × Bool) :=
  ((List.range e.wo).map fun j => (e.obase + j, decide (j < e.ocnt) && e.osr.getLsbD j)).filter fun p =>
    bit e.goCfg 2 || !(e.lvVal.getLsbD p.1 && (e.lvLev.getLsbD p.1 == p.2))

/-- The 16-bit mask with bit `i` set to `v`. -/
def setBit16 (x : BitVec 16) (i : Nat) (v : Bool) : BitVec 16 :=
  if v then x ||| BitVec.ofNat 16 (2 ^ i) else x &&& ~~~(BitVec.ofNat 16 (2 ^ i))

/-- R206, R226: one step of OUT. -/
def State.peOut (s : State) (n : Fin 64) (waiting : Bool := false) : State :=
  s.peStep n 3 fun s e _ =>
    State.afterEnq (s.enqAll n waiting e.adom e.atNs .drive e.outSet) n fun s1 =>
      (s1.modEng n fun e =>
        let lv := (List.range e.wo).foldl (init := (e.lvLev, e.lvVal)) fun p j =>
          let b := decide (j < e.ocnt) && e.osr.getLsbD j
          (setBit16 p.1 (e.obase + j) b, setBit16 p.2 (e.obase + j) true)
        { e with osr := e.osr >>> e.wo, ocnt := e.ocnt - e.wo, at_ := e.at_ + e.per, lvLev := lv.1,
                 lvVal := lv.2 }).peDone n

/-- The operation of code `c` (R139). -/
def actOp (c : Nat) : ActOp :=
  match c with
  | 0 => .drive
  | 1 => .float
  | 2 => .toggle
  | 3 => .rest
  | 4 => .sample
  | _ => .mark

/-- R229: SET. -/
def State.peSet (s : State) (n : Fin 64) (waiting : Bool := false) : State :=
  s.peStep n 6 fun s e w =>
    let op := actOp (fldN w 23 3)
    let v := bit w 22
    let set := ((List.range 16).filter fun i => bit w i).map fun i => (i, v)
    State.afterEnq (s.enqAll n waiting e.adom e.atNs op set) n fun s1 =>
      (s1.modEng n fun e =>
        let m := fld w 0 16
        let (lev, val) := match op with
          | .drive => (if v then e.lvLev ||| m else e.lvLev &&& ~~~m, e.lvVal ||| m)
          | .float => (e.lvLev, e.lvVal &&& ~~~m)
          | .toggle => (e.lvLev, e.lvVal &&& ~~~m)
          | .rest => (e.lvLev, e.lvVal &&& ~~~m)
          | .sample => (e.lvLev, e.lvVal)
          | .mark => (e.lvLev, e.lvVal)
        { e with lvLev := lev, lvVal := val, at_ := if bit w 21 then e.at_ + e.per else e.at_ }).peDone n

/-- R141, R210: Beryl has left RUN while entries of the engine's step waited before their lanes: a lane in HOLD whose queue is full
refuses its entry, another takes it. -/
def State.peUnheld (s : State) (n : Fin 64) : State :=
  if (s.engines.at n).stallOn = .lane then (if peOpc (s.peWord n) = 3 then s.peOut n true else s.peSet n true) else s

/-- R198, R225: PULL. -/
def State.pePull (s : State) (n : Fin 64) : State :=
  s.peStep n 1 fun s e w =>
    let k : Fin 8 := Fin.ofNat 8 (fldN w 0 3)
    match e.ifs.at k with
    | [] => s.modEng n fun e => e.stallAt .pull
    | x :: r =>
      (s.modEng n fun e =>
        let e1 := { e.proceed with ifs := e.ifs.upd k r, osr := x.data, lt := x.tag,
                                   ocnt := if x.tag = .data ∨ x.tag = .last then x.nbits.val + 1 else 0 }
        match x.stamp with
        | some p => { e1 with ps := p, pv := true }
        | none => e1).peDone n

/-- R199, R200, R215, R225: PUSH; a pending ABORT entry of the FIFO goes first. -/
def State.pePush (s : State) (n : Fin 64) : State :=
  s.peStep n 2 fun s _ w =>
    let k : Fin 8 := Fin.ofNat 8 (fldN w 0 3)
    let t := tagOf (fldN w 3 2)
    let s := s.modEng n fun e => e.abortInto k
    let e := s.engines.at n
    let clear (e : Engine) : Engine := if t = .stamp then e else { e with isr := 0, icnt := 0 }
    if (e.ofs.at k).length < 4 then
      (s.modEng n fun e => clear (e.proceed.pushOf k (e.pushEntry t))).peDone n
    else if bit e.goCfg (8 + k.val) then
      ((s.modEng n fun e => clear { e.proceed with ofOvf := true }).breachOf (s.engOwner n) .overflow).peDone n
    else s.modEng n fun e => e.stallAt .push

/-- R202: the consume set: indices in the group. -/
def State.consume (s : State) (n : Fin 64) : List Nat :=
  (List.range 16).filter fun i => bit (s.engines.at n).lanes (16 + i) && decide ((s.lanes.at (engLane n i)).ceng = n.val % 4)

/-- The earlier of two instants. -/
def earlier (a b : Instant) : Instant := if (b.quarters - a.quarters).toNat < 2 ^ 65 then a else b

/-- R203: the stamp of the next capture set, once it is released. -/
def State.released (s : State) (n : Fin 64) : Option Instant :=
  let c := s.consume n
  let head (i : Nat) : Option Instant := ((s.lanes.at (engLane n i)).cq.head?).map fun x => x.stamp
  let first := c.foldl (init := none) fun acc i =>
    match acc, head i with
    | none, h => h
    | some a, some b => some (earlier a b)
    | some a, none => some a
  match first with
  | none => none
  | some t =>
    if c.all fun i => (head i).isSome || decide (0 < (s.laneMark (engLane n i) - t.ns).toInt) then some t else none

/-- R201: the watermark of the engine's output FIFOs. -/
def State.outMark (s : State) (n : Fin 64) : W64 :=
  let e := s.engines.at n
  let c := s.consume n
  let cw := c.foldl (init := (none : Option W64)) fun acc i =>
    let l := s.lanes.at (engLane n i)
    let x := match l.cq with | h :: _ => h.stamp.ns | [] => s.laneMark (engLane n i)
    match acc with
    | none => some x
    | some a => some (if notBefore a x then x else a)
  match e.st, cw with
  | .wait, some x => if notBefore x e.wm then x else e.wm
  | _, _ => e.wm

/-- R201: the watermark is the largest value taken so far; it is kept before an event that ends WAIT or moves TD0. -/
def State.noteMark (s : State) (n : Fin 64) : State :=
  s.modEng n fun e => { e with wm := s.outMark n }

/-- A capture stamp in the format of R99. -/
def stamp42 (t : Instant) : BitVec 42 := t.ns.setWidth 40 ++ t.q

/-- R204: the engine takes the set released at `t`. -/
def State.takeSet (s : State) (n : Fin 64) (t : Instant) : State :=
  let mem := (s.consume n).filter fun i => ((s.lanes.at (engLane n i)).cq.head?).map (·.stamp) = some t
  let s1 := mem.foldl (init := s.noteMark n) fun z i => z.modLane (engLane n i) fun l => { l with cq := l.cq.tail }
  let hd (i : Nat) : Option CapEntry := (s.lanes.at (engLane n i)).cq.head?
  s1.modEng n fun e =>
    let lev := mem.foldl (init := e.cvLev) fun x i => setBit16 x i (((hd i).map (·.v)).getD false)
    let pres := mem.foldl (init := (0 : BitVec 16)) fun x i => setBit16 x i true
    { e.proceed with ct := stamp42 t, cvLev := lev, cvPres := pres,
                     capOvf := e.capOvf || mem.any fun i => ((hd i).map (·.ovfb)).getD false,
                     wm := if notBefore t.ns e.wm then t.ns else e.wm }

/-- R204: the level bits that IN shifts, lane IBASE lowest. -/
def Engine.inBits (e : Engine) : Nat :=
  (List.range e.wi).foldl (init := 0) fun acc j => acc + b2n (e.cvLev.getLsbD (e.ibase + j)) * 2 ^ j

/-- R205: the compare of `src`. -/
def Engine.compare (e : Engine) (src : W32) : Bool := decide ((src ^^^ e.cmpVal) &&& e.cmpMask = 0)

/-- R204, R227: one step of IN. -/
def State.peIn (s : State) (n : Fin 64) : State :=
  s.peStep n 4 fun s _ w =>
    match s.released n with
    | none => s.modEng n Engine.waitSet
    | some t =>
      let s1 := (s.takeSet n t).modEng n fun e =>
        let isr := (e.isr >>> e.wi) ||| (BitVec.ofNat 64 e.inBits <<< (64 - e.wi))
        let e1 := { e with isr := isr, icnt := min 64 (e.icnt + e.wi) }
        if bit w 24 then { e1 with eq := e1.compare (hi32 isr) } else e1
      if bit w 24 && (s1.engines.at n).eq then
        (s1.modEng n fun e => { e with isr := 0, icnt := 0, rep := 0 }).peDone n
      else s1.peDone n

/-- R228: one step of WAIT. -/
def State.peWait (s : State) (n : Fin 64) : State :=
  s.peStep n 5 fun s _ _ =>
    match s.released n with
    | none => s.modEng n Engine.waitSet
    | some t => (s.takeSet n t).peDone n

/-- R203, R204, R214: a set is released to an engine that waits for it, which takes it. -/
def State.setReleased (s : State) (n : Fin 64) : State :=
  let st := (s.engines.at n).st
  if st = .wait ∨ st = .draining then
    if (s.released n).isSome then (if peOpc (s.peWord n) = 4 then s.peIn n else s.peWait n) else s
  else s

/-- R208: the due time of the next toggle of `r`. -/
def Engine.clkDue (e : Engine) (r : ClkRun) : BitVec 40 := r.a + BitVec.ofNat 40 (e.clkOff + r.k * e.clkHalf)

/-- R208: a run that a later SCHED has ended has toggles left. -/
def Engine.clkLeft (e : Engine) (r : ClkRun) : Bool :=
  match r.lim with
  | some l => decide ((e.clkDue r - l).toInt < 0)
  | none => true

/-- R208: the clock generator is armed, or re-armed with HOLD at 1, by a SCHED that moves AT to `at_`. Toggles below the old
AT + OFFSET that wait for room in the lane queue stay. -/
def Engine.arm (e : Engine) (at_ : BitVec 48) : Engine :=
  let lim := e.atNs + BitVec.ofNat 40 e.clkOff
  let old := (e.clk.map fun r => { r with lim := some (r.lim.getD lim) }).filter e.clkLeft
  let e1 := { e with at_ := at_ }
  if e.clkEn && (e.clk.isEmpty || bit e.clkReg 26) then { e1 with clk := old ++ [{ a := e1.atNs, k := 0, lim := none }] } else e1

/-- R207, R230: SCHED. -/
def State.peSched (s : State) (n : Fin 64) : State :=
  s.peStep n 7 fun s e w =>
    let off : BitVec 40 := (fld w 0 24).signExtend 40
    match fldN w 24 2 with
    | 0 =>
      if !e.pv ∨ fldN e.ps 40 3 ≠ e.adom.val then s.modEng n fun e => e.fail .domain
      else (s.modEng n fun e => e.proceed.arm (e.ps.setWidth 40 ++ (0 : BitVec 8))).peDone n
    | 1 =>
      if e.adom ≠ 0 then s.modEng n fun e => e.fail .domain
      else
        (s.modEng n fun e =>
          e.proceed.arm ((e.ct.extractLsb' 2 40 + off) ++ (0 : BitVec 8))).peDone n
    | _ => (s.modEng n fun e => { e.proceed with at_ := e.at_ + (off ++ (0 : BitVec 8)) }).peDone n

/-- R232: CMP. -/
def State.peCmp (s : State) (n : Fin 64) : State :=
  s.peStep n 8 fun s _ w =>
    (s.modEng n fun e =>
      { e.proceed with eq := e.compare (if bit w 25 then e.cvLev.setWidth 32 else hi32 e.isr) }).peDone n

/-- R232: LDCMP. -/
def State.peLdcmp (s : State) (n : Fin 64) : State :=
  s.peStep n 9 fun s _ w =>
    let imm : W32 := (fld w 0 16).setWidth 32
    let ld (x : W32) : W32 := if bit w 25 then mrg 0xFFFF0000 x (imm <<< 16) else mrg 0xFFFF x imm
    (s.modEng n fun e =>
      if bit w 24 then { e.proceed with cmpMask := ld e.cmpMask } else { e.proceed with cmpVal := ld e.cmpVal }).peDone n

/-- R231: LDPER. -/
def State.peLdper (s : State) (n : Fin 64) : State :=
  s.peStep n 10 fun s _ w => (s.modEng n fun e => { e.proceed with period := (fld w 0 24).setWidth 32 }).peDone n

/-- R220, R232: SIG. -/
def State.peSig (s : State) (n : Fin 64) : State :=
  s.peStep n 11 fun s e _ =>
    let s1 := s.modEng n fun e => { e.proceed with sigF := true }
    (if bit e.goCfg 24 then s1.fire (fldN e.goCfg 16 8) else s1).peDone n

/-- R233: the condition of JMP. -/
def Engine.cond (e : Engine) (w : W32) : Bool :=
  let arg := fldN w 14 6
  match fldN w 21 4 with
  | 0 => true
  | 1 => e.eq
  | 2 => e.ocnt = 0
  | 3 => arg + 1 ≤ e.icnt
  | 4 => e.lt.num = arg
  | 5 => e.cvLev.getLsbD arg
  | 6 => e.cvPres.getLsbD arg
  | _ => e.pv

/-- R233: JMP. -/
def State.peJmp (s : State) (n : Fin 64) : State :=
  s.peStep n 12 fun s e w =>
    (s.modEng n Engine.proceed).peDone n (if e.cond w != bit w 25 then some (fldN w 0 8) else none)

/-- R222: the engine reaches an illegal word. -/
def State.peIll (s : State) (n : Fin 64) : State :=
  if s.peLive n ∧ !(s.engines.at n).legal (s.peWord n) then s.modEng n fun e => e.fail .illegal else s

/-- R208: the next toggle of the clock generator. -/
def State.clkToggle (s : State) (n : Fin 64) : State :=
  let e := s.engines.at n
  match e.clk with
  | r :: rest =>
    let c := e.clkDue r
    let lim : BitVec 40 := e.atNs + BitVec.ofNat 40 e.clkOff
    if s.peLive n ∧ s.ticking ∧ (!bit e.clkReg 26 ∨ r.lim.isSome ∨ (c - lim).toInt < 0) then
      match s.enqLane (engLane n e.clkLane) .drive (bit e.clkReg 25 != decide ((r.k + 1) % 2 = 1)) e.adom c with
      | (s1, .ok) => s1.modEng n fun e => { e with clk := ({ r with k := r.k + 1 } :: rest).filter e.clkLeft }
      | (_, .stall) => s
      | (s1, .refused) => (s1.noteMark n).modEng n fun e => e.fail .lane
    else s
  | [] => s

/-- R155, R160: a write of LNn_CFG; it may change the consume set of an engine and a lane's watermark. -/
def State.laneCfgWrite (s : State) (n : Fin 256) (v : W32) : State :=
  (allEngines.foldl (init := s) fun z e => if e.val / 4 = n.val / 16 then z.noteMark e else z).laneCfg n v

/-! FIFOs from outside, enable, control and registers (R165, R197, R212 to R220). -/

/-- R165: the FIFO `k` of engine `n` in direction `rx` is attached to an enabled stream channel. -/
def State.sfAttached (s : State) (n : Fin 64) (rx : Bool) (k : Nat) : Bool :=
  allStreams.any fun i =>
    let c := s.streams.at i
    decide (c.st ≠ .off) && decide (sfHalf i = engHalf n) && decide (fldN c.cfg 4 5 = n.val % 32) &&
      decide (fldN c.cfg 9 3 = k) && (bit c.cfg 1 == rx)

/-- R218: a push through PEn_FACC of the written sideband `v`. -/
def State.faccPush (s : State) (n : Fin 64) (v : W32) : State :=
  let k : Fin 8 := Fin.ofNat 8 (fldN v 8 3)
  let e := s.engines.at n
  if s.sfAttached n false k.val then s.modEng n fun e => { e with attErr := true }
  else if (e.ifs.at k).length < 4 then
    s.modEng n fun e =>
      { e with ifs := e.ifs.mod k (· ++ [{ data := e.fdata, tag := tagOf (fldN v 6 2), nbits := Fin.ofNat 64 (fldN v 0 6),
                                           stamp := none }]) }
  else (s.modEng n fun e => { e with ifOvf := true }).breachOf (s.engOwner n) .overflow

/-- R218: a pop through PEn_FACC: the value read and the state. -/
def State.faccPop (s : State) (n : Fin 64) : W32 × State :=
  let e := s.engines.at n
  let k : Fin 8 := Fin.ofNat 8 (fldN e.cfg 28 3)
  if s.sfAttached n true k.val then (0, s.modEng n fun e => { e with attErr := true })
  else match e.ofs.at k with
    | [] => (0, s.modEng n fun e => { e with fifoErr := true })
    | x :: r =>
      (putB 31 true ||| put 8 k.val ||| put 6 x.tag.num ||| put 0 x.nbits.val,
       s.modEng n fun e => { e with ofs := e.ofs.upd k r, fdata := x.data })

def peCfgMask : W32 := 0x7FFFFF77

/-- R214, R215, R354: a write of PEn_CFG. -/
def State.peCfg (s0 : State) (n : Fin 64) (v : W32) : State :=
  let s := s0.noteMark n
  let w := v &&& peCfgMask
  let e := s.engines.at n
  match e.st, bit w 0 with
  | .off, true => s.modEng n fun e => e.enable w
  | .off, false => s.modEng n fun e => { e with cfg := w }
  | .draining, true => s.modEng n fun e =>
      let e1 := { e with cfg := w &&& ~~~1, enRec := some w }
      if bit w 1 then e1.offAtStep true else e1
  | .draining, false => s.modEng n fun e =>
      let e1 := { e with cfg := w, enRec := none }
      if bit w 1 then e1.offAtStep true else e1
  | .halt, false => s.modEng n fun e => ({ e with cfg := w }).toOff
  | .error, false => s.modEng n fun e => if e.en then ({ e with cfg := w }).toOff else { e with cfg := w }
  | _, true => s.modEng n fun e => { e with cfg := w }
  | _, false => s.modEng n fun e =>
      let e1 := { e with cfg := w }
      if bit w 1 then e1.offAtStep true
      else if s.peIdle n ∨ e.stop.isSome then e1.offAtStep false
      else { e1 with st := .draining }

def State.peFlushI (s : State) (n : Fin 64) : State :=
  match (s.engines.at n).st with
  | .off | .halt | .error => s.modEng n fun e =>
      { e with ifs := Vector.ofFn fun k => if s.sfAttached n false k.val then e.ifs.at k else [] }
  | _ => s

def State.peFlushO (s : State) (n : Fin 64) : State :=
  match (s.engines.at n).st with
  | .off | .halt | .error => s.modEng n fun e =>
      let keep := (List.range 8).foldl (init := (0 : BitVec 8)) fun x k => setBit8 x k (s.sfAttached n true k)
      { e with ofs := Vector.ofFn fun k => if s.sfAttached n true k.val then e.ofs.at k else [],
               abortPend := e.abortPend &&& keep }
  | _ => s

def State.peClrErr (s : State) (n : Fin 64) : State :=
  s.modEng n fun e =>
    if e.st = .error then { e with st := if e.en then .halt else .off, cause := .none } else e

def State.peHalt (s : State) (n : Fin 64) : State :=
  (s.noteMark n).modEng n fun e =>
    match e.st with
    | .run | .stall | .wait => e.haltAtStep
    | _ => e

/-- R214: GO, with NEWPC and CLEAR. -/
def State.peGo (s : State) (n : Fin 64) (newpc clear : Bool) : State :=
  s.modEng n fun e =>
    if e.st = .halt then
      let e1 := if newpc then { e with pc := fld e.pcReg 16 8, rep := 0, stepDone := 0 } else e
      if e1.pclo ≤ e1.pc.toNat ∧ e1.pc.toNat ≤ e1.pchi then
        let e2 := if clear then { e1 with osr := 0, isr := 0, ocnt := 0, icnt := 0, cvLev := 0, cvPres := 0,
                                          eq := false, lvLev := 0, lvVal := 0 } else e1
        { e2 with st := .run, goCfg := e2.cfg }
      else e1.fail .pcBound
    else e

/-- R214: a write of PEn_CTRL, its bits in their order. -/
def State.peCtrl (s : State) (n : Fin 64) (v : W32) : State :=
  let s1 := if bit v 5 then s.peFlushI n else s
  let s2 := if bit v 6 then s1.peFlushO n else s1
  let s3 := if bit v 4 then s2.peClrErr n else s2
  if bit v 1 then s3.peHalt n
  else if bit v 0 then s3.peGo n (bit v 2) (bit v 3) else s3

/-- R213: a register that only OFF or HALT may write. -/
def State.peCfgReg (s : State) (n : Fin 64) (f : Engine → Engine) : State :=
  s.modEng n fun e => if e.st = .off ∨ e.st = .halt then f e else { e with cfgIgn := true }

def PeSt.num : PeSt → Nat
  | .off => 0
  | .halt => 1
  | .run => 2
  | .stall => 3
  | .wait => 4
  | .draining => 5
  | .error => 6

def StallOn.num : StallOn → Nat
  | .none => 0
  | .pull => 1
  | .push => 2
  | .lane => 3
  | .beryl => 4

def PeCause.num : PeCause → Nat
  | .none => 0
  | .pcBound => 1
  | .illegal => 2
  | .lane => 3
  | .domain => 4

/-- PEn_STAT as it reads (R218). -/
def State.peStat (s : State) (n : Fin 64) : W32 :=
  let e := s.engines.at n
  put 24 e.pc.toNat ||| putB 23 (s.peIdle n) ||| putB 22 e.fifoErr ||| putB 21 e.capOvf ||| putB 20 e.cfgIgn |||
    putB 19 e.attErr ||| putB 18 e.ifOvf ||| putB 17 e.ofOvf ||| putB 16 e.sigF ||| putB 15 e.cfgErr |||
    put 8 e.cause.num ||| put 4 e.stallOn.num ||| put 0 e.st.num

def State.peStatW (s : State) (n : Fin 64) (v : W32) : State :=
  s.modEng n fun e =>
    { e with fifoErr := e.fifoErr && !bit v 22, capOvf := e.capOvf && !bit v 21, cfgIgn := e.cfgIgn && !bit v 20,
             attErr := e.attErr && !bit v 19, ifOvf := e.ifOvf && !bit v 18, ofOvf := e.ofOvf && !bit v 17,
             sigF := e.sigF && !bit v 16, cfgErr := e.cfgErr && !bit v 15 }

/-- PEn_FSTAT as it reads (R218). -/
def Engine.fstat (e : Engine) : W32 :=
  (List.ofFn fun k : Fin 8 => k).foldl (init := (0 : W32)) fun x k =>
    x ||| putB (24 + k.val) (decide ((e.ofs.at k).length ≥ 4)) ||| putB (16 + k.val) (e.ofs.at k).isEmpty |||
      putB (8 + k.val) (decide ((e.ifs.at k).length ≥ 4)) ||| putB k.val (e.ifs.at k).isEmpty

/-- R219: an item of the inspection interface. -/
def Engine.item (e : Engine) (k : Nat) : W32 :=
  match k with
  | 0 => lo32 e.osr
  | 1 => hi32 e.osr
  | 2 => lo32 e.isr
  | 3 => hi32 e.isr
  | 4 => putB 31 e.eq ||| put 28 e.lt.num ||| put 16 e.icnt ||| put 0 e.ocnt
  | 5 => put 16 e.rep ||| put 0 e.pc.toNat
  | 6 => e.at_.extractLsb' 8 32
  | 7 => put 8 (fldN e.at_ 0 8) ||| put 0 (fldN e.at_ 40 8)
  | 8 => put 16 e.lvVal.toNat ||| put 0 e.lvLev.toNat
  | 9 => e.ct.extractLsb' 2 32
  | 10 => put 8 (fldN e.ct 0 2) ||| put 0 (fldN e.ct 34 8)
  | 11 => e.ps.extractLsb' 0 32
  | 12 => putB 16 e.pv ||| put 8 (fldN e.ps 40 3) ||| put 0 (fldN e.ps 32 8)
  | 13 => put 16 e.cvPres.toNat ||| put 0 e.cvLev.toNat
  | 14 => e.cmpVal
  | _ => e.cmpMask

/-- R219: an inspection write; none where it is ignored (a count above 64, or CT moved back). -/
def Engine.setItem (e : Engine) (k : Nat) (v : W32) : Option Engine :=
  let ctTo (c : BitVec 42) : Option Engine := if 0 ≤ (c - e.ct).toInt then some { e with ct := c } else none
  match k with
  | 0 => some { e with osr := join (hi32 e.osr) v }
  | 1 => some { e with osr := join v (lo32 e.osr) }
  | 2 => some { e with isr := join (hi32 e.isr) v }
  | 3 => some { e with isr := join v (lo32 e.isr) }
  | 4 =>
    if fldN v 16 7 ≤ 64 ∧ fldN v 0 7 ≤ 64 then
      some { e with eq := bit v 31, lt := tagOf (fldN v 28 2), icnt := fldN v 16 7, ocnt := fldN v 0 7 }
    else none
  | 5 => some { e with rep := fldN v 16 16, pc := fld v 0 8, stepDone := 0 }
  | 6 => some { e with at_ := fld e.at_ 40 8 ++ v ++ fld e.at_ 0 8 }
  | 7 => some { e with at_ := fld v 0 8 ++ fld e.at_ 8 32 ++ fld v 8 8 }
  | 8 => some { e with lvVal := fld v 16 16, lvLev := fld v 0 16 }
  | 9 => ctTo (fld e.ct 34 8 ++ v ++ fld e.ct 0 2)
  | 10 => ctTo (fld v 0 8 ++ fld e.ct 2 32 ++ fld v 8 2)
  | 11 => some { e with ps := fld e.ps 32 11 ++ v }
  | 12 => some { e with pv := bit v 16, ps := fld v 8 3 ++ fld v 0 8 ++ fld e.ps 0 32 }
  | 13 => some { e with cvPres := fld v 16 16, cvLev := fld v 0 16 }
  | 14 => some { e with cmpVal := v }
  | _ => some { e with cmpMask := v }

/-- The engine that the group's inspection selector names. -/
def State.inspected (s : State) (g : Fin 16) : Fin 64 := Fin.ofNat 64 (4 * g.val + fldN (s.groups.at g).isel 4 2)

def State.inspectRead (s : State) (g : Fin 16) : W32 :=
  (s.engines.at (s.inspected g)).item (fldN (s.groups.at g).isel 0 4)

def State.inspectWrite (s : State) (g : Fin 16) (v : W32) : State :=
  s.modEng (s.inspected g) fun e =>
    if e.st = .off ∨ e.st = .halt then
      match e.setItem (fldN (s.groups.at g).isel 0 4) v with
      | some e1 =>
        let c := expand40 s.now (e1.ct.extractLsb' 2 40)
        if e1.ct ≠ e.ct ∧ notBefore c e1.wm then { e1 with wm := c } else e1
      | none => { e with cfgIgn := true }
    else { e with cfgIgn := true }

/-- R212: a write of program word `w` is refused. -/
def State.progLocked (s : State) (g : Fin 16) (w : Nat) : Bool :=
  (List.range 4).any fun i =>
    let e := s.engines.at (Fin.ofNat 64 (4 * g.val + i))
    e.st.live && decide (e.pclo ≤ w) && decide (w ≤ e.pchi)

/-- R212: program word `w` is written. -/
def State.progWrite (s : State) (g : Fin 16) (w : Nat) (v : W32) : State :=
  { s with groups := s.groups.mod g fun x => { x with prog := sparseSet 0 x.prog w v } }

/-- R220: the engine requests. -/
def State.peReq (s : State) (n : Fin 64) : Bool :=
  let e := s.engines.at n
  s.engUp n && ((bit e.cfg 25 && decide (e.st = .error)) || (bit e.cfg 26 && e.sigF) ||
    (bit e.cfg 27 && (e.ofOvf || e.ifOvf || e.capOvf)))

end Sys2Proof.Machine
end

