-- ==== Sys2Proof/Machine/Memctl.lean ====
section
/-! DEFINITION. The background test, Agate's wipes and locks, and the MEM and AG registers
(spec/14_memories.md, R382 to R392). -/

namespace Sys2Proof.Machine

def State.modMem (s : State) (f : Mem → Mem) : State := { s with mem := f s.mem }

/-! The background test (R382 to R384). -/

/-- First and end offset of memory `k` (R370). -/
def memSpan : Fin 4 → Nat × Nat
  | 0 => (0x1000000, 0x1200000)
  | 1 => (0x1200000, 0x1210000)
  | 2 => (0x1400000, 0x1440000)
  | 3 => (0x1800000, 0x1880000)

/-- The memories that MSEL selects, in order. -/
def Mem.selected (m : Mem) : List (Fin 4) := [0, 1, 2, 3].filter fun k : Fin 4 => bit m.bistCfg (4 + k.val)

/-- The word that the test takes when its place is `a`: `a` itself inside a selected memory, else the first word of the
next selected memory in order. -/
def Mem.bistPlace (m : Mem) (a : Nat) : Option Nat :=
  let l := m.selected
  match l.find? fun k => decide (a < (memSpan k).2) with
  | some k => some (max a (memSpan k).1)
  | none => (l.head?).map fun k => (memSpan k).1

/-- R382, R391: PERIOD, whose values below 256 act as 256. -/
def Mem.bistPeriod (m : Mem) : Nat := max 256 (fldN m.bistCfg 16 16)

/-- R382: PERIOD ns of TD0 have passed since the last word. -/
def State.bistDue (s : State) : Bool :=
  match s.mem.bistLast with
  | some t => decide (s.mem.bistPeriod ≤ (s.now - t).toNat)
  | none => true

/-- R390, R391: MEM_BIST_ADDR: the next word of a test that runs, and the place it keeps otherwise. -/
def Mem.bistNext (m : Mem) : Nat := if bit m.bistCfg 0 then (m.bistPlace m.bistAddr).getD m.bistAddr else m.bistAddr

/-- R382, R384: the test of one word, where it is due; `fail` says that a compare failed. -/
def State.bistWord (s : State) (fail : Bool) : State :=
  let m := s.mem
  if s.up ∧ s.ticking ∧ bit m.bistCfg 0 ∧ s.bistDue then
    match m.bistPlace m.bistAddr with
    | none => s
    | some a =>
      let (ok, m1) := m.check 23 (a / 8)
      let m2 :=
        if !ok then { m1 with uncSkip := true }
        else if fail then { m1 with fail := true, bistFaddr := if m1.fail then m1.bistFaddr else a }
        else m1
      let last := match (m.selected).getLast? with | some k => decide (a + 8 = (memSpan k).2) | none => false
      s.modMem fun _ =>
        { m2 with bistLast := some s.now, bistAddr := if last then ((m2.bistPlace 0).getD 0) else ((m2.bistPlace (a + 8)).getD 0),
                  passes := if last then m2.passes + 1 else m2.passes }
  else s

/-! Agate (R386, R387). -/

/-- R387: a wipe trigger. The words read zero from the trigger on, since every access is refused until the wipe ends. -/
def Mem.wipe (m : Mem) (last : Nat) : Mem :=
  { m with cells := m.cells.filter fun e => !(decide (0x1200000 ≤ e.1 ∧ e.1 < 0x1210000)),
           corr := m.corr.filter fun w => memOf (8 * w) ≠ some 1, unc := m.unc.filter fun w => memOf (8 * w) ≠ some 1,
           wiping := true, agLast := last }

def State.agWipe (s : State) (last : Nat) : State :=
  let s1 := s.modMem fun m => m.wipe last
  { s1 with seqs := s1.seqs.map fun q =>
      match q.resv with
      | some w => if memOf (8 * w) = some 1 then { q with resv := none } else q
      | none => q }

/-- R387: the last word of a wipe is written. -/
def State.agWipeDone (s : State) : State :=
  if s.mem.wiping then s.modMem fun m => { m with wiping := false, wlock := 0, wipes := m.wipes + 1, agDone := true }
  else s

/-- R386: Agate segment of an offset. -/
def agSegment (a : Nat) : Nat := (a - 0x1200000) / 0x1000

def State.agLockSet (s : State) (v : W32) : State := s.modMem fun m => { m with wlock := m.wlock ||| fld v 0 16 }

/-- The bytes of every memory in `ks` become zero with valid check bits (R524, R543). -/
def Mem.zero (m : Mem) (ks : List (Fin 4)) : Mem :=
  let out (a : Nat) : Bool := match memOf a with | some k => !(ks.contains k) | none => true
  { m with cells := m.cells.filter fun e => out e.1, corr := m.corr.filter fun w => out (8 * w),
           unc := m.unc.filter fun w => out (8 * w) }

/-- The mailbox storage of a channel holds zeros (R346, R543): the messages that wait read 0. -/
def Channel.mailZero (x : Channel) : Channel :=
  { x with mbClean := true, mbs := x.mbs.map fun m : Mailbox =>
      { m with q := m.q.map fun e : MbEntry => { e with data := 0, time := 0 } } }

/-- Every word of the memories in `ks` becomes zero, mailbox storage among those of context SRAM (R346, R524, R543). -/
def State.memZero (s : State) (ks : List (Fin 4)) : State :=
  { s with mem := s.mem.zero ks, chans := if ks.contains 2 then s.chans.map Channel.mailZero else s.chans }

/-! Registers (R391). -/

def Mem.corrWord (m : Mem) : W32 :=
  put 24 (m.corrCnt.at 3).toNat ||| put 16 (m.corrCnt.at 2).toNat ||| put 8 (m.corrCnt.at 1).toNat |||
    put 0 (m.corrCnt.at 0).toNat

def Mem.setCorr (m : Mem) (v : W32) : Mem := { m with corrCnt := Vector.ofFn fun k : Fin 4 => fld v (8 * k.val) 8 }

def UncRec.info (r : UncRec) : W32 :=
  putB 31 r.valid ||| put 16 r.count ||| put 8 r.first.req ||| put 0 r.first.mem

def CollRec.info (r : CollRec) : W32 :=
  putB 31 r.valid ||| put 16 r.count ||| putB 15 r.first.awr ||| putB 14 r.first.bwr ||| put 8 r.first.areq ||| put 0 r.first.sfch

/-- R380: VALID of MEM_UNC_INFO written 1. An error that coincides with the write (`hw`), the newest, is recorded after the
clear. -/
def State.uncRearm (s : State) (hw : Bool) : State :=
  s.modMem fun m =>
    let e := m.uncRec.newest
    { m with uncRec := if hw then UncRec.reset.note e.req e.mem e.addr else .reset }

/-- R377: VALID of MEM_COLL_INFO written 1. A collision that coincides with the write (`hw`), the newest, is recorded after
the clear. -/
def State.collRearm (s : State) (hw : Bool) : State :=
  s.modMem fun m =>
    let e := m.collRec.newest
    { m with collRec := if hw then { valid := true, count := 1, first := e, newest := e } else .reset }

def State.bistStat (s : State) : W32 :=
  put 16 s.mem.passes.toNat ||| putB 2 s.mem.fail ||| putB 1 s.mem.uncSkip |||
    putB 0 (bit s.mem.bistCfg 0 && s.ticking && !s.mem.selected.isEmpty)

def State.bistStatW (s : State) (v : W32) : State :=
  s.modMem fun m => { m with fail := m.fail && !bit v 2, uncSkip := m.uncSkip && !bit v 1 }

def Mem.agStat (m : Mem) : W32 :=
  put 16 m.wipes.toNat ||| putB 4 m.agDone ||| put 2 m.agLast ||| put 0 (b2n m.wiping)

/-! Sources (R392). -/

def Mem.source (m : Mem) (i : Nat) : Bool :=
  match i with
  | 433 => bit m.cfg 0 && m.uncRec.valid
  | 434 =>
    let k := fldN m.cfg 24 8
    bit m.cfg 1 && decide (k ≠ 0) && m.corrCnt.toList.any fun c => decide (k ≤ c.toNat)
  | 435 => bit m.cfg 2 && m.collRec.valid
  | 436 => bit m.cfg 3 && m.fail
  | 437 => m.agIe && m.agDone
  | _ => false

end Sys2Proof.Machine
end

