-- ==== Sys2Proof/Machine/Streams.lean ====
section
/-! DEFINITION. Stream fabric: processing units, transmit, receive rings, records, states, registers
(spec/06_stream_fabric.md). -/

namespace Sys2Proof.Machine

def State.modSf (s : State) (n : Fin 128) (f : Stream → Stream) : State := { s with streams := s.streams.mod n f }
def State.sfUp (s : State) (n : Fin 128) : Bool := s.halfUp (sfHalf n)

def Stream.rx? (c : Stream) : Bool := bit c.cfg 1
def Stream.chain (c : Stream) : Bool := bit c.cfg 2
def Stream.crcEn (c : Stream) : Bool := bit c.cfg 15
def Stream.strip (c : Stream) : Bool := bit c.cfg 13
def Stream.bitOrd (c : Stream) : Bool := bit c.cfg 14
/-- The ring's size in bytes (R173). -/
def Stream.size (c : Stream) : Nat := 256 * 2 ^ fldN c.ring 0 4
def Stream.base (c : Stream) : Nat := fldN c.addr 0 21
/-- MAXLEN (R191). -/
def Stream.maxLen (c : Stream) : Nat := if fldN c.ring 16 16 = 0 then 65535 else fldN c.ring 16 16

/-- The engine of the channel (R164). -/
def sfEng (n : Fin 128) (c : Stream) : Fin 64 := Fin.ofNat 64 ((if n.val < 64 then 0 else 32) + fldN c.cfg 4 5)
def sfFifo (c : Stream) : Fin 8 := Fin.ofNat 8 (fldN c.cfg 9 3)
def sfCrc (n : Fin 128) (c : Stream) : Fin 32 := Fin.ofNat 32 ((if n.val < 64 then 0 else 16) + fldN c.cfg 16 4)
def sfBs (n : Fin 128) (c : Stream) : Fin 16 := Fin.ofNat 16 ((if n.val < 64 then 0 else 8) + fldN c.cfg 21 3)
def sfLc (n : Fin 128) (c : Stream) : Fin 16 := Fin.ofNat 16 ((if n.val < 64 then 0 else 8) + fldN c.cfg 25 3)

/-! CRC units (R181, R182). -/

/-- The settings of a CRC unit in force: width in bytes, polynomial, initial value, reflections, output XOR. -/
structure CrcSet where
  wb : Nat
  poly : Nat
  init : Nat
  refIn : Bool
  refOut : Bool
  xor : Nat
  deriving DecidableEq, Repr

def CrcUnit.settings (u : CrcUnit) : CrcSet :=
  match fldN u.cfg 0 3 with
  | 1 => { wb := 4, poly := 0x04C11DB7, init := 0xFFFFFFFF, refIn := true, refOut := true, xor := 0xFFFFFFFF }
  | 2 => { wb := 2, poly := 0x1021, init := 0xFFFF, refIn := true, refOut := true, xor := 0xFFFF }
  | 3 => { wb := 2, poly := 0x8005, init := 0xFFFF, refIn := true, refOut := true, xor := 0 }
  | _ =>
    let wb := fldN u.cfg 3 2 + 1
    let m := 2 ^ (8 * wb)
    { wb := wb, poly := u.poly.toNat % m, init := u.init.toNat % m, refIn := bit u.cfg 5, refOut := bit u.cfg 6,
      xor := u.xor.toNat % m }

/-- `x` with its `w` low bits reversed. -/
def reflect (w x : Nat) : Nat :=
  (List.range w).foldl (init := 0) fun acc i => acc + (x / 2 ^ i % 2) * 2 ^ (w - 1 - i)

/-- One byte through the CRC (R181). -/
def CrcSet.step (k : CrcSet) (c : Nat) (b : Byte) : Nat :=
  let w := 8 * k.wb
  let v := if k.refIn then reflect 8 b.toNat else b.toNat
  (List.range 8).foldl (init := c) fun c i =>
    let top := (c / 2 ^ (w - 1) + v / 2 ^ (7 - i)) % 2
    let c1 := c * 2 % 2 ^ w
    if top = 1 then c1 ^^^ k.poly else c1

/-- The FCS of the register value `c` (R181). -/
def CrcSet.fcs (k : CrcSet) (c : Nat) : Nat := (if k.refOut then reflect (8 * k.wb) c else c) ^^^ k.xor

/-- The bytes of an FCS in the order in which they are appended (R182). -/
def CrcSet.bytes (k : CrcSet) (f : Nat) : List Byte :=
  let lsb := (List.range k.wb).map fun i => BitVec.ofNat 8 (f / 256 ^ i)
  if k.refOut then lsb else lsb.reverse

/-! Bit-stuff and line-coding units (R183, R184). -/

/-- The run after which a bit is stuffed. -/
def stuffRun (u : W32) : Nat := if fldN u 0 4 = 0 then 5 else fldN u 0 4

/-- The run state after the bit `b` in mode 0 (ones) or 1 (equal). -/
def runAfter (mode : Bool) (k : CodeSt) (b : Bool) : CodeSt :=
  if mode then { k with run := if k.run ≠ 0 && k.last == b then k.run + 1 else 1, last := b }
  else { k with run := if b then k.run + 1 else 0, last := b }

/-- R183, TX: the bit and the stuff bit that a completed run brings.
DESIGN CHOICE (log 15): with MODE 1 and RUN 1, where the stuff bit is itself a run of RUN bits, nothing is inserted after the
stuff bit, and the run that it begins completes no more. -/
def stuffBit (u : W32) (k : CodeSt) (b : Bool) : List Bool × CodeSt :=
  let m := bit u 4
  let k1 := runAfter m k b
  if k1.run = stuffRun u then
    if m then ([b, !b], { k1 with run := 1, last := !b }) else ([b, false], { k1 with run := 0, last := false })
  else ([b], k1)

/-- R183, RX: the bit, or nothing for a stuff bit, and whether it was a violation. -/
def unstuffBit (u : W32) (k : CodeSt) (b : Bool) : List Bool × CodeSt × Bool :=
  let m := bit u 4
  if k.due then
    let want := if m then !k.last else false
    ([], { k with due := false, run := if m then 1 else 0, last := b }, b != want)
  else
    let k1 := runAfter m k b
    ([b], { k1 with due := decide (k1.run = stuffRun u) }, false)

/-- The data code-groups of IEEE 802.3 Clause 24, leftmost bit first. -/
def group4b5b (x : Nat) : List Bool :=
  let g := [0x1E, 0x09, 0x14, 0x15, 0x0A, 0x0B, 0x0E, 0x0F, 0x12, 0x13, 0x16, 0x17, 0x1A, 0x1B, 0x1C, 0x1D]
  let v := g.getD x 0
  (List.range 5).map fun i => v / 2 ^ (4 - i) % 2 = 1

/-- The nibble of a code-group; none where it is no data code-group. -/
def nibbleOf (g : List Bool) : Option Nat := (List.range 16).find? fun x => group4b5b x = g

/-- The number of a list of bits, first bit lowest. -/
def bitsNat : List Bool → Nat
  | [] => 0
  | b :: r => b2n b + 2 * bitsNat r

/-- R184, TX: one bit through the line-coding unit. -/
def lineBit (u : W32) (k : CodeSt) (nib : List Bool) (b : Bool) : List Bool × CodeSt × List Bool :=
  match fldN u 0 2 with
  | 0 =>
    let lv := if b != bit u 2 then !k.level else k.level
    ([lv], { k with level := lv }, [])
  | 1 => (if b != bit u 2 then [false, true] else [true, false], k, [])
  | _ =>
    let n := nib ++ [b]
    if n.length = 4 then (group4b5b (bitsNat n), k, []) else ([], k, n)

/-- R184, RX: the bits gathered so far, decoded where they are complete. -/
def unlineBit (u : W32) (k : CodeSt) (lc : List Bool) (b : Bool) : List Bool × CodeSt × List Bool × Bool :=
  match fldN u 0 2 with
  | 0 => ([(b != k.level) != bit u 2], { k with level := b }, [], false)
  | 1 =>
    match lc with
    | [] => ([], k, [b], false)
    | a :: _ => if a == b then ([false], k, [], true) else ([b != bit u 2], k, [], false)
  | _ =>
    let g := lc ++ [b]
    if g.length = 5 then
      let x := nibbleOf g
      ((List.range 4).map fun i => (x.getD 0) / 2 ^ i % 2 = 1, k, [], x.isNone)
    else ([], k, g, false)

/-- R167: the bits of a byte in line order. -/
def byteBits (rev : Bool) (b : Byte) : List Bool :=
  (List.range 8).map fun i => b.getLsbD (if rev then 7 - i else i)

/-- The start of a frame in the units of channel `n`. -/
def State.codeStart (s : State) (n : Fin 128) : CodeSt :=
  CodeSt.start (bit (s.lcs.at (sfLc n (s.streams.at n))) 3)

/-- R180: bits through the bit-stuff and line-coding units of a TX channel. -/
def State.txBits (s : State) (n : Fin 128) (t : TxWork) : List Bool → TxWork
  | [] => t
  | b :: r =>
    let c := s.streams.at n
    let (st, k1) := if bit c.cfg 20 then stuffBit (s.bss.at (sfBs n c)) t.code b else ([b], t.code)
    let t1 := st.foldl (init := { t with code := k1 }) fun t b =>
      if bit c.cfg 24 then
        let (o, k2, nb) := lineBit (s.lcs.at (sfLc n c)) t.code t.nib b
        { t with code := k2, nib := nb, bits := t.bits ++ o }
      else { t with bits := t.bits ++ [b] }
    s.txBits n t1 r

/-! Records (R178, R179). -/

/-- A record of KIND `k` with its flags and offset. -/
def record (k flags off : Nat) : W32 := putB 31 true ||| put 29 k ||| put 24 flags ||| put 0 (off % 2 ^ 21)

/-- A record waits for room in the completion FIFO. -/
def Stream.addRec (c : Stream) (r : W32) : Stream := { c with recs := c.recs ++ [r] }

/-- R172, R178: the channel enters ERROR; its record names the offset `off`. -/
def Stream.enterError (c : Stream) (cause : SfCause) (off : Nat) : Stream :=
  { c with st := .error, cause := cause, enRec := none, fail := none }.addRec (record 3 0 off)

/-- R172, R185: an error of cause `cause`: the record will name the failing descriptor, and SFn_CUR holds the frame's first one. The
channel enters ERROR at once, or as the ABORT entry of a frame in flight is pushed, for which it waits like for any entry.
DESIGN CHOICE (log 15): where word 1 of a descriptor whose frame has been sent holds the error, no frame has failed, and SFn_CUR
takes the first descriptor of the frame that was sent. -/
def State.sfError (s : State) (n : Fin 128) (cause : SfCause) : State :=
  let c := s.streams.at n
  let started := (c.tx.map (·.started)).getD false
  let first := (c.tx.map (·.first)).getD c.cur
  let fails := if c.chain then (c.tx.map (·.desc)).getD c.cur else c.laddr
  let s1 := s.modSf n fun c =>
    let c1 := { c with tx := none, cur := if c.chain then first else c.cur }
    if started then { c1 with abortEnt := true, fail := some (cause, fails) } else c1.enterError cause fails
  if cause = .ecc then s1.breachOf (s.sfOwner n) .ecc else s1

/-! Transmit (R169 to R172). -/

/-- Port B reads of the stream fabric (R391). -/
def sfReq : Nat := 18

/-- The scratchpad word of 64 bits at offset `o` through port B. -/
def State.portB (s : State) (o : Nat) : Option Nat × State := s.memRead sfReq (0x1000000 + o) 8

/-- R376, R377: the collisions, in the order of `xs`, that port-B accesses to the words with a byte in [lo, hi) meet. -/
def State.collide (s : State) (n : Fin 128) (xs : List PortA) (bwr : Bool) (lo hi : Nat) : State :=
  xs.foldl (init := s) fun s p =>
    if (p.write ∨ bwr) ∧ lo < hi ∧ lo / 8 ≤ p.off.toNat / 8 ∧ p.off.toNat / 8 * 8 < hi then
      { s with mem := s.mem.collide p n bwr }
    else s

/-- R170, R172: word 0 of the descriptor at `d` is read. -/
def State.sfReadDesc (s : State) (n : Fin 128) (d : Nat) (newFrame : Bool) : State :=
  let c := s.streams.at n
  let t0 : TxWork :=
    match c.tx, newFrame with
    | some t, false => t
    | _, _ => { first := d, desc := d, fetched := false, buf := 0, left := 0, eof := false, crcOn := false, evt := false,
                crc := (s.crcs.at (sfCrc n c)).settings.init, code := s.codeStart n, nib := [], bits := [], fin := false,
                closed := false, started := false }
  let s0 := s.modSf n fun c => { c with tx := some { t0 with desc := d }, cur := d }
  match s0.portB d with
  | (none, s1) => s1.sfError n .ecc
  | (some w, s1) =>
    let len := w / 2 ^ 32 % 2 ^ 16
    let buf := w % 2 ^ 21
    if len = 0 ∨ buf + len > 2 ^ 21 then s1.sfError n .desc
    else
      s1.modSf n fun c =>
        { c with tx := some { t0 with desc := d, fetched := true, buf := buf, left := len, eof := (w / 2 ^ 48 % 2 == 1),
                                      crcOn := (w / 2 ^ 49 % 2 == 1), evt := (w / 2 ^ 50 % 2 == 1) } }

/-- R170, R171: word 0 of the descriptor at `d` is read, with the port-A accesses `xs` that it meets. -/
def State.sfNext (s : State) (n : Fin 128) (xs : List PortA) (d : Nat) (newFrame : Bool) : State :=
  (s.collide n xs false d (d + 8)).sfReadDesc n d newFrame

/-- R171: word 1 of the descriptor at `d` through port B, with the port-A accesses `xs` that the read meets. -/
def State.sfLink (s : State) (n : Fin 128) (xs : List PortA) (d : Nat) : Option Nat × State :=
  (s.collide n xs false (d + 8) (d + 16)).portB (d + 8)

/-- R170, R171: a TX channel in CHAIN mode reads its next descriptor. -/
def State.sfDescFetch (s : State) (n : Fin 128) (xs : List PortA) : State :=
  let c := s.streams.at n
  if s.sfUp n ∧ (c.st = .active ∨ c.st = .draining) ∧ !c.rx? ∧ c.chain ∧ c.recs = [] ∧ !c.abortEnt then
    match c.tx with
    | none => s
    | some t =>
      if !t.fetched then s.sfNext n xs t.desc true
      else if t.left = 0 ∧ (t.closed ∨ !t.eof) then
        match s.sfLink n xs t.desc with
        | (none, s1) => s1.sfError n .ecc
        | (some w, s1) =>
          if w % 2 = 0 then
            if t.closed then s1.modSf n fun c => { c with st := .idle, tx := none, cur := t.desc }
            else s1.sfError n .desc
          else s1.sfNext n xs (w / 16 % 2 ^ 17 * 16) t.closed
      else s
  else s

/-- One byte from the buffer through the CRC and coding units. -/
def State.txByte (s : State) (n : Fin 128) (t : TxWork) (b : Byte) (crc : Bool) : TxWork :=
  let c := s.streams.at n
  let t1 := if crc then { t with crc := (s.crcs.at (sfCrc n c)).settings.step t.crc b } else t
  s.txBits n t1 (byteBits c.bitOrd b)

/-- Bytes are fetched until an entry is complete, the buffer ends, or an error stops the fetch (fuel in bytes). The
number answered is the offset after the last byte read: the fetch reads a word of the buffer for each entry that holds
bytes of it (DESIGN CHOICE, log 15). -/
def State.txFill (s : State) (n : Fin 128) (t : TxWork) : Nat → State × Nat × Option TxWork
  | 0 => (s, t.buf, some t)
  | k + 1 =>
    if t.bits.length ≥ 65 ∨ t.left = 0 then (s, t.buf, some t)
    else
      match s.memRead sfReq (0x1000000 + t.buf) 1 with
      | (none, s1) => (s1, t.buf + 1, none)
      | (some v, s1) =>
        s1.txFill n (s1.txByte n { t with buf := t.buf + 1, left := t.left - 1 } (BitVec.ofNat 8 v) true) k

/-- R180, R182: the end of the frame: the FCS and what the units still hold. -/
def State.txFinish (s : State) (n : Fin 128) (t : TxWork) : TxWork :=
  let c := s.streams.at n
  let k := (s.crcs.at (sfCrc n c)).settings
  let t1 :=
    if t.crcOn && c.crcEn then (k.bytes (k.fcs t.crc)).foldl (fun t b => s.txByte n t b false) t else t
  let pad := if t1.nib.isEmpty then []
    else group4b5b (bitsNat (t1.nib ++ (List.range (4 - t1.nib.length)).map fun i => Config.freeBit (s.free + i)))
  { t1 with bits := t1.bits ++ pad, nib := [], fin := true }

/-- The input FIFO of the channel's engine takes an entry. -/
def State.sfPush (s : State) (n : Fin 128) (x : InEntry) : State :=
  let c := s.streams.at n
  s.modEng (sfEng n c) fun e => { e with ifs := e.ifs.mod (sfFifo c) (· ++ [x]) }

/-- R187: work that stays for the next enable: a frame of which no entry has passed is fetched anew, from its first descriptor. -/
def TxWork.again (t : TxWork) : TxWork :=
  if t.closed then t
  else { t with desc := t.first, fetched := false, left := 0, nib := [], bits := [], fin := false, started := false }

/-- R187: the off state: EN is 0, and the rest of a chain stays for the next enable. -/
def Stream.toOff (c : Stream) : Stream :=
  let c1 := { c with st := .off, cfg := c.cfg &&& ~~~1 }
  match c.tx with
  | some t =>
    if c.chain || c.queued then { c1 with tx := some t.again, cur := t.again.desc, queued := true } else { c1 with queued := false }
  | none => { c1 with queued := false }

/-- R187: a disable in ACTIVE or DRAINING: OFF, or DRAINING while the ABORT entry of the frame in flight waits for room in the
engine's FIFO. -/
def Stream.leave (c : Stream) : Stream :=
  if c.abortEnt then { c with st := .draining, cfg := c.cfg &&& ~~~1 } else c.toOff

/-- R180: a processed entry is pushed into the engine's input FIFO where it has room. -/
def State.sfTxEntry (s : State) (n : Fin 128) (xs : List PortA) : State :=
  let c := s.streams.at n
  let e := s.engines.at (sfEng n c)
  if s.sfUp n ∧ (c.st = .active ∨ c.st = .draining) ∧ !c.rx? ∧ (e.ifs.at (sfFifo c)).length < 4 then
    if c.abortEnt then
      (s.sfPush n { data := 0, tag := .abort, nbits := 0, stamp := none }).modSf n fun c =>
        let c1 := { c with abortEnt := false }
        match c.fail with
        | some (cause, off) => c1.enterError cause off
        | none => c1.toOff
    else if c.recs = [] then
      match c.tx with
      | none => s
      | some t =>
        if !t.fetched ∨ t.closed then s
        else
          match s.txFill n t 80 with
          | (s1, e, none) => (s1.collide n xs false t.buf e).sfError n .ecc
          | (s0, e, some t1) =>
            let s1 := s0.collide n xs false t.buf e
            let t2 := if t1.left = 0 ∧ t1.eof ∧ !t1.fin then s1.txFinish n t1 else t1
            let s1 := if t2.fin ∧ !t1.fin then { s1 with free := s1.free + 4 } else s1
            if t2.bits.length ≥ 65 then
              (s1.sfPush n { data := BitVec.ofNat 64 (bitsNat (t2.bits.take 64)), tag := .data, nbits := 63,
                             stamp := none }).modSf n fun c =>
                { c with tx := some { t2 with bits := t2.bits.drop 64, started := true } }
            else if t2.fin then
              let s2 := (s1.sfPush n { data := BitVec.ofNat 64 (bitsNat t2.bits), tag := .last,
                                       nbits := Fin.ofNat 64 (t2.bits.length - 1), stamp := none }).modSf n fun c =>
                let off := if c.chain then t2.desc else c.laddr
                let c1 := if !c.chain || t2.evt then c.addRec (record 1 0 off) else c
                { c1 with tx := if c.chain then some { t2 with bits := [], closed := true, started := false } else none,
                          st := if c.chain then c.st else if c.st = .draining then .draining else .idle }
              let s3 := if c.crcEn then
                  let k := (s1.crcs.at (sfCrc n c)).settings
                  { s2 with crcs := s2.crcs.mod (sfCrc n c) fun u => { u with res := BitVec.ofNat 32 (k.fcs t2.crc) } }
                else s2
              if c.st = .draining then s3.modSf n Stream.toOff else s3
            else s1.modSf n fun c => { c with tx := some t2 }
    else s
  else s

/-! Receive (R168, R173 to R177). -/

/-- Where received data has got to: the state with the ring written so far, whether a word found no space, and the
scratchpad offsets of the words written. -/
structure RxAcc where
  s : State
  w : RxWork
  oos : Bool
  wrote : List Nat

/-- The work `w` on the state `s`, before any word is written. -/
def RxAcc.start (s : State) (w : RxWork) : RxAcc := { s := s, w := w, oos := false, wrote := [] }

/-- R173: the word `v` goes to ring offset `off`, through port B. -/
def RxAcc.put (a : RxAcc) (n : Fin 128) (off v : Nat) : RxAcc :=
  let c := a.s.streams.at n
  let o := (c.base + off % c.size) % 2 ^ 21
  { a with s := a.s.memWrite sfReq (0x1000000 + o) 8 v, wrote := a.wrote ++ [o] }

/-- R175: the free space of the ring: (RP − WP − 8) modulo its size. -/
def Stream.space (c : Stream) : Nat := (c.rp % c.size + c.size - (c.wp + 8) % c.size) % c.size

/-- The word buffered is written to the ring, where there is space. -/
def RxAcc.flush (a : RxAcc) (n : Fin 128) : RxAcc :=
  let c := a.s.streams.at n
  if a.w.word = [] then a
  else if a.w.dropped || a.oos then { a with w := { a.w with word := [] } }
  else
    let i := (a.w.stored + 7) / 8
    if 8 + 8 * i > c.space then { a with oos := true, w := { a.w with word := [] } }
    else
      let v := a.w.word.foldr (init := 0) fun b acc => b.toNat + 256 * acc
      { a.put n (c.wp + 8 * i) v with w := { a.w with word := [] } }

/-- R177: a byte is stored, or discarded beyond MAXLEN. -/
def RxAcc.store (a : RxAcc) (n : Fin 128) (b : Byte) : RxAcc :=
  if a.w.stored ≥ (a.s.streams.at n).maxLen then { a with w := { a.w with trunc := true } }
  else
    let w1 := { a.w with word := a.w.word ++ [b], stored := a.w.stored + 1 }
    if w1.word.length = 8 then RxAcc.flush { a with w := w1 } n else { a with w := w1 }

/-- A received byte through the CRC unit (R182). -/
def RxAcc.byte (a : RxAcc) (n : Fin 128) (b : Byte) : RxAcc :=
  let c := a.s.streams.at n
  let a1 := { a with w := { a.w with total := a.w.total + 1 } }
  if c.crcEn then
    let k := (a.s.crcs.at (sfCrc n c)).settings
    let tail := a.w.tail ++ [b]
    if tail.length > k.wb then
      match tail with
      | x :: r => RxAcc.store { a1 with w := { a1.w with tail := r, crc := k.step a.w.crc x } } n x
      | [] => a1
    else { a1 with w := { a1.w with tail := tail } }
  else a1.store n b

/-- A decoded bit: bytes are assembled in line order (R167). -/
def RxAcc.bit (a : RxAcc) (n : Fin 128) (b : Bool) : RxAcc :=
  let bb := a.w.byteBits ++ [b]
  if bb.length = 8 then
    let v := bitsNat (if (a.s.streams.at n).bitOrd then bb.reverse else bb)
    RxAcc.byte { a with w := { a.w with byteBits := [] } } n (BitVec.ofNat 8 v)
  else { a with w := { a.w with byteBits := bb } }

/-- A line bit through the line-coding and bit-stuff units (R180). -/
def RxAcc.line (a : RxAcc) (n : Fin 128) (b : Bool) : RxAcc :=
  let c := a.s.streams.at n
  let (bs, k1, lc, bad) :=
    if Sys2Proof.bit c.cfg 24 then unlineBit (a.s.lcs.at (sfLc n c)) a.w.code a.w.lc b else ([b], a.w.code, [], false)
  bs.foldl (init := { a with w := { a.w with code := k1, lc := lc, codeErr := a.w.codeErr || bad } }) fun a b =>
    if Sys2Proof.bit c.cfg 20 then
      let (o, k2, bad2) := unstuffBit (a.s.bss.at (sfBs n c)) a.w.code b
      o.foldl (init := { a with w := { a.w with code := k2, codeErr := a.w.codeErr || bad2 } }) fun a b => a.bit n b
    else a.bit n b

/-- The valid bits of an entry. -/
def OutEntry.bits (x : OutEntry) : List Bool := (List.range (x.nbits.val + 1)).map fun i => x.data.getLsbD i

/-- A frame that opens (R168). -/
def State.rxOpen (s : State) (n : Fin 128) (stamp : Option (BitVec 42)) : RxWork :=
  { stamp := stamp, abort := false, trunc := false, codeErr := false, code := s.codeStart n, lc := [], byteBits := [],
    tail := [], crc := (s.crcs.at (sfCrc n (s.streams.at n))).settings.init, total := 0, stored := 0, word := [],
    dropped := false }

/-- R168, R173, R174, R182: the frame closes: the rest of its bytes, its header and its record. `oos` of the result
says that it found no space; the state is then as the frame found it but for the words written. -/
def RxAcc.close (a : RxAcc) (n : Fin 128) : RxAcc :=
  let c := a.s.streams.at n
  let k := (a.s.crcs.at (sfCrc n c)).settings
  let a1 := if c.crcEn && !c.strip then a.w.tail.foldl (fun a b => a.store n b) a else a
  let a2 := a1.flush n
  let want := k.bytes (k.fcs a.w.crc)
  let crcErr := c.crcEn && (decide (a.w.total < k.wb + 1) || decide (a.w.tail ≠ want))
  let noStamp := a.w.stamp.isNone
  let flags := 16 * b2n crcErr + 8 * b2n a.w.abort + 4 * b2n a2.w.trunc + 2 * b2n a.w.codeErr + b2n noStamp
  let oos := a2.oos || decide (8 > c.space)
  let hdr := b2n crcErr * 2 ^ 63 + b2n a.w.abort * 2 ^ 62 + b2n a2.w.trunc * 2 ^ 61 + b2n a.w.codeErr * 2 ^ 60 +
    b2n noStamp * 2 ^ 59 + a2.w.stored * 2 ^ 42 + (a.w.stamp.getD 0).toNat
  let s1 := if c.crcEn then
      { a2.s with crcs := a2.s.crcs.mod (sfCrc n c) fun u => { u with res := BitVec.ofNat 32 (k.fcs a.w.crc) } }
    else a2.s
  let s2 := s1.modSf n fun c =>
    { c with rx := none, trunc := c.trunc || a2.w.trunc, codeErr := c.codeErr || a.w.codeErr, crcErr := c.crcErr || crcErr }
  if a.w.dropped || oos then
    let s3 := s2.modSf n fun c =>
      { c with rOvf := true, drops := if c.drops = 0xFFFF then c.drops else c.drops + 1 }.addRec (record 2 flags c.wp)
    { a2 with s := if a.w.abort then s3 else s3.breachOf (a.s.sfOwner n) .overflow, oos := oos }
  else
    let a3 := RxAcc.put { a2 with s := s2 } n c.wp hdr
    { a3 with oos := false, s := a3.s.modSf n fun c =>
        { c with wp := (c.wp + 8 + (a2.w.stored + 7) / 8 * 8) % c.size }.addRec (record 0 flags c.wp) }

/-- One entry of the engine's output FIFO taken into the frame that is open. -/
def State.rxEntry (s : State) (n : Fin 128) (x : OutEntry) : RxAcc :=
  let c := s.streams.at n
  match x.tag, c.rx with
  | .stamp, none =>
    RxAcc.start (s.modSf n fun c => { c with rx := some (s.rxOpen n (some (fld x.data 0 42))) }) (s.rxOpen n none)
  | .stamp, some w =>
    let a := (RxAcc.start s { w with abort := true }).close n
    { a with s := a.s.modSf n fun c => { c with rx := some (s.rxOpen n (some (fld x.data 0 42))) } }
  | .abort, none => RxAcc.start s (s.rxOpen n none)
  | .abort, some w => (RxAcc.start s { w with abort := true }).close n
  | .data, r =>
    let a := x.bits.foldl (fun a b => a.line n b) (RxAcc.start s (r.getD (s.rxOpen n none)))
    { a with s := a.s.modSf n fun c => { c with rx := some { a.w with dropped := a.w.dropped || a.oos } } }
  | .last, r =>
    (x.bits.foldl (fun a b => a.line n b) (RxAcc.start s (r.getD (s.rxOpen n none)))).close n

/-- R168, R175: an RX channel takes an entry from its engine's output FIFO. -/
def State.sfRxEntry (s : State) (n : Fin 128) (xs : List PortA) : State :=
  let c := s.streams.at n
  let g := sfEng n c
  if s.sfUp n ∧ c.rx? ∧ (c.st = .active ∨ c.st = .draining) ∧ c.recs = [] then
    match (s.engines.at g).ofs.at (sfFifo c) with
    | [] => s
    | e :: r =>
      let s0 := s.modEng g fun z => { z with ofs := z.ofs.upd (sfFifo c) r }
      let a := s0.rxEntry n e
      if a.oos && bit c.cfg 12 then s
      else
        let s1 := a.wrote.foldl (fun z o => z.collide n xs true o (o + 8)) a.s
        if c.st = .draining ∧ (s1.streams.at n).rx = none then s1.modSf n Stream.toOff else s1
  else s

/-! Records, control and registers (R176, R179, R186 to R192). -/

/-- R179: the first record that waits enters the completion FIFO, where it has room. -/
def State.sfRecPush (s : State) (n : Fin 128) : State :=
  let c := s.streams.at n
  match c.recs with
  | r :: rest =>
    if s.sfUp n ∧ c.cpl.length < 8 then
      let k := fldN r 29 2
      let s1 := s.modSf n fun c =>
        { c with recs := rest, cpl := c.cpl ++ [r],
                 frames := if k ≤ 1 ∧ c.frames ≠ 0xFFFF then c.frames + 1 else c.frames }
      if bit c.cfg 28 then s1.fire (fldN c.evt 0 8) else s1
    else s
  | [] => s

/-- R179: a pop of the completion FIFO. -/
def State.sfCplPop (s : State) (n : Fin 128) : W32 × State :=
  match (s.streams.at n).cpl with
  | [] => (0, s.modSf n fun c => { c with fifoErr := true })
  | r :: rest => (r, s.modSf n fun c => { c with cpl := rest })

/-- R178, R179: a write of SFn_CPL pushes a record, with V at 1 and the reserved bits [23:21] at 0. -/
def State.sfCplPush (s : State) (n : Fin 128) (v : W32) : State :=
  let c := s.streams.at n
  if c.cpl.length < 8 then
    let s1 := s.modSf n fun c => { c with cpl := c.cpl ++ [v &&& 0xFF1FFFFF ||| 0x80000000] }
    if bit c.cfg 28 then s1.fire (fldN c.evt 0 8) else s1
  else s.modSf n fun c => { c with fifoErr := true }

/-- R176: a write of SFn_RP. -/
def State.sfRp (s : State) (n : Fin 128) (v : W32) : State :=
  s.modSf n fun c =>
    let x := fldN v 3 17 * 8
    let r := c.rp % c.size
    if x < c.size ∧ (x + c.size - r) % c.size ≤ (c.wp % c.size + c.size - r) % c.size then { c with rp := x }
    else { c with rpErr := true }

/-- R165, R186: the configuration `v` of channel `n` names something that another enabled channel has. -/
def State.sfClash (s : State) (n : Fin 128) (v : W32) : Bool :=
  allStreams.any fun i =>
    let c := s.streams.at i
    decide (i ≠ n) && decide (c.st ≠ .off) && decide (sfHalf i = sfHalf n) &&
      ((decide (fldN c.cfg 4 5 = fldN v 4 5) && decide (fldN c.cfg 9 3 = fldN v 9 3) && (bit c.cfg 1 == bit v 1)) ||
       (bit c.cfg 15 && bit v 15 && decide (fldN c.cfg 16 4 = fldN v 16 4)) ||
       (bit c.cfg 20 && bit v 20 && decide (fldN c.cfg 21 3 = fldN v 21 3)) ||
       (bit c.cfg 24 && bit v 24 && decide (fldN c.cfg 25 3 = fldN v 25 3)))

/-- R186: the configuration `v` is valid. SIZE is judged in both directions; the ring base only of an RX channel, since
SFn_ADDR of a SINGLE frame may have any alignment (R169). -/
def State.sfCfgOk (s : State) (n : Fin 128) (v : W32) : Bool :=
  let c := s.streams.at n
  let lc := s.lcs.at (sfLc n { c with cfg := v })
  decide (fldN c.ring 0 4 ≤ 12) && (!bit v 1 || decide (c.base % c.size = 0)) &&
    !(bit v 24 && decide (fldN lc 0 2 = 3)) && !s.sfClash n v

/-- R186: what an enable does in OFF. -/
def State.sfEnable (s : State) (n : Fin 128) (v : W32) : State :=
  if s.sfCfgOk n v then
    s.modSf n fun c =>
      if bit v 1 then { c with cfg := v, st := .active, rx := none }
      else { c with cfg := v, st := if c.queued && bit v 2 then .active else .idle, queued := c.queued && !bit v 2 }
  else s.modSf n fun c => { c with cfg := v &&& ~~~1, cfgErr := true }

/-- R187: a frame is in flight: entries of it have passed, and neither its LAST nor an ABORT entry. -/
def Stream.inFlight (c : Stream) : Bool :=
  if c.rx? then c.rx.isSome else c.abortEnt || (c.tx.map (·.started)).getD false

/-- R187: a disable with ABORT, or an ABORT in DRAINING. A TX channel stays in DRAINING until the ABORT entry of its
frame has been pushed. -/
def Stream.abort (c : Stream) : Stream :=
  let c1 :=
    if c.rx? then
      match c.rx with
      | some w =>
        { c with rx := none, drops := if c.drops = 0xFFFF then c.drops else c.drops + 1,
                 trunc := c.trunc || w.trunc, codeErr := c.codeErr || w.codeErr }.addRec
          (record 2 (8 + 4 * b2n w.trunc + 2 * b2n w.codeErr + b2n w.stamp.isNone) c.wp)
      | none => c
    else
      match c.tx with
      | some t =>
        if t.started then
          { c with abortEnt := true, cur := if c.chain then t.first else c.cur,
                   tx := if c.chain then some t.again else none }
        else c
      | none => c
  c1.leave

def sfCfgMask : W32 := 0x7FFFFFFF

/-- A write of SFn_CFG as OFF takes it. -/
def State.sfCfgOff (s : State) (n : Fin 128) (w : W32) : State :=
  if bit w 0 then s.sfEnable n w else s.modSf n fun c => { c with cfg := w }

/-- R354: the last write of DRAINING applies once OFF is reached, as though written there. -/
def State.sfSettle (s : State) (n : Fin 128) : State :=
  let c := s.streams.at n
  match c.st, c.enRec with
  | .off, some v => (s.modSf n fun c => { c with enRec := none }).sfCfgOff n v
  | _, _ => s

/-- SFn_CFG as it reads. In DRAINING, with EN at 0, it holds the fields last written, which apply in OFF (DESIGN CHOICE,
log 15), and EN reads 0. -/
def Stream.cfgWord (c : Stream) : W32 :=
  match c.enRec with
  | some v => v &&& ~~~1
  | none => c.cfg

/-- R186 to R188, R354: a write of SFn_CFG. While EN is 1 it changes EN, ABORT, EVTEN, CIE and EIE alone. In DRAINING it
is recorded whole, the frame in flight goes on under the configuration it began with, and ABORT, EVTEN, CIE and EIE act
at once. In ERROR entered from DRAINING (EN 0) a write with EN at 0 is taken whole and leaves ERROR, and one with EN at 1
changes the same fields as while EN is 1 (DESIGN CHOICE, log 15). -/
def State.sfCfg (s : State) (n : Fin 128) (v : W32) : State :=
  let w := v &&& sfCfgMask
  let c := s.streams.at n
  let keep : W32 := 0x70000009
  if c.st = .off then s.sfCfgOff n w
  else if c.st = .draining then
    let s1 := s.modSf n fun c => { c with cfg := mrg 0x70000008 c.cfg w, enRec := some w }
    (if bit w 3 then s1.modSf n Stream.abort else s1).sfSettle n
  else if !bit c.cfg 0 && !bit w 0 then s.modSf n fun c => { c with cfg := w }.toOff
  else
    let odd := decide ((c.cfg ^^^ w) &&& ~~~keep ≠ 0)
    let nc := mrg keep c.cfg w
    let s1 := s.modSf n fun c => { c with cfg := nc, cfgIgn := c.cfgIgn || odd }
    match c.st, bit w 0 with
    | .active, false =>
      if c.inFlight then
        if bit w 3 then s1.modSf n Stream.abort
        else s1.modSf n fun c => { c with st := .draining, cfg := c.cfg &&& ~~~1 }
      else s1.modSf n Stream.leave
    | .idle, false => s1.modSf n Stream.toOff
    | .error, false => s1.modSf n Stream.toOff
    | _, _ => s1

/-- R169, R170, R186: GO. -/
def State.sfGo (s : State) (n : Fin 128) : State :=
  let c := s.streams.at n
  if c.st = .idle ∧ !c.rx? then
    let a := c.base
    let len := fldN c.len 0 16
    let s1 := s.modSf n fun c => { c with laddr := a, llen := len, st := .active, tx := none, queued := false }
    let k := (s.crcs.at (sfCrc n c)).settings
    let t : TxWork := { first := a, desc := a, fetched := !c.chain, buf := a, left := if c.chain then 0 else len,
                        eof := true, crcOn := true, evt := true, crc := k.init, code := s.codeStart n, nib := [], bits := [],
                        fin := false, closed := false, started := false }
    if c.chain then
      if a % 16 ≠ 0 then (s1.modSf n fun c => { c with tx := some t }).sfError n .desc
      else s1.modSf n fun c => { c with tx := some t, cur := a }
    else if len = 0 ∨ a + len > 2 ^ 21 then s1.sfError n .desc
    else s1.modSf n fun c => { c with tx := some t }
  else s

/-- R171: CONT, with the port-A accesses `xs` that its reads meet.
DESIGN CHOICE (log 15): a channel in SINGLE mode, which walks no chain, ignores CONT. -/
def State.sfCont (s : State) (n : Fin 128) (xs : List PortA) : State :=
  let c := s.streams.at n
  if c.st = .idle ∧ !c.rx? ∧ c.chain then
    match s.sfLink n xs c.cur with
    | (none, s1) => s1.sfError n .ecc
    | (some w, s1) =>
      if w % 2 = 1 then (s1.modSf n fun c => { c with st := .active, tx := none }).sfNext n xs (w / 16 % 2 ^ 17 * 16) true
      else s1
  else s

/-- R187: FLUSH. -/
def State.sfFlush (s : State) (n : Fin 128) : State :=
  s.modSf n fun c =>
    if c.st = .off ∨ c.st = .idle ∨ c.st = .error then
      if c.rx? then { c with rp := c.wp, cpl := [] } else { c with cur := 0, tx := none, queued := false }
    else c

/-- R186: CLRERR. -/
def State.sfClrErr (s : State) (n : Fin 128) : State :=
  s.modSf n fun c => if c.st = .error ∧ bit c.cfg 0 then { c with st := .idle, cause := .none } else c

/-- R186: a write of SFn_CTRL: error clear and flush first, then GO, or CONT where GO is not given; `xs` are the port-A accesses
that its reads meet. -/
def State.sfCtrl (s : State) (n : Fin 128) (xs : List PortA) (v : W32) : State :=
  let s1 := if bit v 3 then s.sfClrErr n else s
  let s2 := if bit v 2 then s1.sfFlush n else s1
  if bit v 0 then s2.sfGo n else if bit v 1 then s2.sfCont n xs else s2

def SfSt.num : SfSt → Nat
  | .off => 0
  | .idle => 1
  | .active => 2
  | .draining => 3
  | .error => 4

def SfCause.num : SfCause → Nat
  | .none => 0
  | .desc => 1
  | .ecc => 2

/-- R185, R191: BP: the channel waits now. -/
def State.sfBp (s : State) (n : Fin 128) : Bool :=
  let c := s.streams.at n
  let e := s.engines.at (sfEng n c)
  (decide (c.st = .active) || decide (c.st = .draining)) &&
    (if c.rx? then (e.ofs.at (sfFifo c)).isEmpty else decide ((e.ifs.at (sfFifo c)).length ≥ 4))

def State.sfStat (s : State) (n : Fin 128) : W32 :=
  let c := s.streams.at n
  put 20 c.cpl.length ||| put 16 c.cause.num ||| putB 15 c.cfgErr ||| putB 14 c.cfgIgn ||| putB 13 c.fifoErr |||
    putB 12 c.rpErr ||| putB 11 c.trunc ||| putB 10 c.codeErr ||| putB 9 c.crcErr ||| putB 8 c.rOvf |||
    putB 3 (s.sfBp n) ||| put 0 c.st.num

def State.sfStatW (s : State) (n : Fin 128) (v : W32) : State :=
  s.modSf n fun c =>
    { c with cfgErr := c.cfgErr && !bit v 15, cfgIgn := c.cfgIgn && !bit v 14, fifoErr := c.fifoErr && !bit v 13,
             rpErr := c.rpErr && !bit v 12, trunc := c.trunc && !bit v 11, codeErr := c.codeErr && !bit v 10,
             crcErr := c.crcErr && !bit v 9, rOvf := c.rOvf && !bit v 8 }

/-- R188: the enabled channel to which the unit of `sel` is attached. -/
def State.sfUnitUser (s : State) (p : Fin 128 → Stream → Bool) : Option (Fin 128) :=
  allStreams.find? fun i => let c := s.streams.at i; decide (c.st ≠ .off) && p i c

/-- R188: a write of a unit register: ignored, with CFGIGN on the channel, while the unit is attached. -/
def State.sfUnitWrite (s : State) (p : Fin 128 → Stream → Bool) (f : State → State) : State :=
  match s.sfUnitUser p with
  | some i => s.modSf i fun c => { c with cfgIgn := true }
  | none => f s

/-- R192: the channel requests. -/
def State.sfReqs (s : State) (n : Fin 128) : Bool :=
  let c := s.streams.at n
  s.sfUp n && ((bit c.cfg 29 && !c.cpl.isEmpty) ||
    (bit c.cfg 30 && (c.cfgErr || c.cfgIgn || c.fifoErr || c.rpErr || c.trunc || c.codeErr || c.crcErr || c.rOvf ||
      decide (c.st = .error))))

end Sys2Proof.Machine
end

