-- ==== Sys2Proof/Machine/Guardian.lean ====
section
/-! DEFINITION. The guardian channels: slot table, windows, relays, the local transmitter and receive
(spec/15_time_triggered_buses.md). -/

namespace Sys2Proof.Machine

def State.modGd (s : State) (x : Fin 2) (f : Guardian → Guardian) : State := { s with gds := s.gds.mod x f }

def Guardian.en (g : Guardian) : Bool := bit g.cfg 0
def Guardian.node (g : Guardian) : Bool := bit g.cfg 1
def Guardian.cold (g : Guardian) : Bool := bit g.cfg 3
def Guardian.dom (g : Guardian) : Fin 8 := Fin.ofNat 8 (fldN g.cfg 4 3)
def Guardian.nbr (g : Guardian) : Fin 16 := Fin.ofNat 16 (fldN g.cfg 8 4)
def Guardian.bt (g : Guardian) : Nat := fldN g.line 0 10
def Guardian.sslen (g : Guardian) : Nat := fldN g.line 12 4
def Guardian.len (g : Guardian) : Nat := fldN g.cycLen 0 24
def Guardian.margin (g : Guardian) : Nat := fldN g.gm 0 20
def Guardian.slots (g : Guardian) : Nat := fldN g.nslot 0 12
def Guardian.isoThr (g : Guardian) : Nat := fldN g.iso 0 4
def Guardian.isoWin (g : Guardian) : Nat := let w := fldN g.iso 8 5; if w = 0 ∨ 16 < w then 16 else w
/-- The branch is used by the role (R393). -/
def Guardian.uses (g : Guardian) (k : Nat) : Bool := if g.node then g.nbr.val = k else bit g.brMask k

/-- The channel's half runs and TD0 counts: its state is its own and not HOLD (R415). -/
def State.gdLive (s : State) (x : Fin 2) : Bool := s.halfUp x && s.ticking

/-- The channel's domain now, in ns. -/
def State.gdNow (s : State) (x : Fin 2) : W64 := (s.beryl.doms.at (s.gds.at x).dom).nsAt s.beryl.g

/-! The slot table (R395, R396). -/

/-- An entry of the slot table. -/
structure Slot where
  kind : Nat
  owner : Nat
  start : Nat
  buf : Fin 64
  lenw : Nat
  qen : Bool
  sync : Bool
  dur : Nat
  deriving DecidableEq, Repr

def Guardian.slot (g : Guardian) (j : Nat) : Slot :=
  let a := sparseGet 0 g.table (2 * j)
  let b := sparseGet 0 g.table (2 * j + 1)
  { kind := fldN a 30 2, owner := fldN a 24 5, start := fldN a 0 24, buf := Fin.ofNat 64 (fldN b 26 6),
    lenw := fldN b 22 4, qen := bit b 21, sync := bit b 20, dur := fldN b 0 20 }

/-- A word of the entry holds an uncorrectable error. -/
def Guardian.slotBad (g : Guardian) (j : Nat) : Bool := g.tunc.any fun w => w / 2 = j

/-- The entry keeps the rules of R396 that concern it alone. -/
def Guardian.slotOk (g : Guardian) (e : Slot) : Bool :=
  decide (e.lenw ≤ 8) && match e.kind with
  | 0 => true
  | 1 => decide (1 ≤ e.dur) && (g.node || (decide (e.owner < 16) && bit g.brMask e.owner))
  | 2 => decide (1 ≤ e.dur) && decide (e.owner = 16)
  | _ => false

/-- R396: the used entries from `j` up, the windows before them ending at `e`. -/
def Guardian.tableOk (g : Guardian) : Nat → Nat → Nat → Bool
  | 0, _, e => decide (e ≤ g.len)
  | k + 1, j, e =>
    let x := g.slot j
    g.slotOk x && (if x.kind = 0 then g.tableOk k (j + 1) e
      else decide (e ≤ x.start) && g.tableOk k (j + 1) (x.start + x.dur))

/-- R420: SSLEN, BT, the cycle length and the count of slots lie in range. -/
def Guardian.rangeOk (g : Guardian) : Bool :=
  decide (3 ≤ g.sslen) && decide (g.bt % 2 = 0 ∧ 20 ≤ g.bt ∧ g.bt ≤ 1022) &&
    decide (1000 ≤ g.len ∧ g.len ≤ 16000000) && decide (1 ≤ g.slots ∧ g.slots ≤ 2048)

/-- R397: the symbols of a frame with `b` bytes. -/
def Guardian.symbols (g : Guardian) (b : Nat) : Nat := g.sslen + 2 + 8 * b + 1

/-- The start of cycle `c` in the domain (R394). -/
def Guardian.cycStart (g : Guardian) (c : Nat) : W64 := g.cyc0 + BitVec.ofNat 64 (c * g.len)

/-- The start of the window of slot `j` in cycle `c` (R396). -/
def Guardian.winStart (g : Guardian) (c j : Nat) : W64 := g.cycStart c + BitVec.ofNat 64 (g.slot j).start

/-- The end of that window. -/
def Guardian.winEnd (g : Guardian) (c j : Nat) : W64 := g.winStart c j + BitVec.ofNat 64 (g.slot j).dur

/-- The start of the frame of TX slot `j` (R405). -/
def Guardian.txStart (g : Guardian) (c j : Nat) : W64 := g.winStart c j + BitVec.ofNat 64 g.margin

/-- R407: the latch instant. -/
def Guardian.latchAt (g : Guardian) (c j : Nat) : W64 := g.txStart c j - 1024

/-! The owner of a guardian channel and its breaches (R418). -/

def State.gdOwner (s : State) (x : Fin 2) : Option (Fin 256) :=
  let g := s.gds.at x
  let c : Fin 256 := Fin.ofNat 256 (fldN g.nodeCfg 24 8)
  if bit g.nodeCfg 23 ∧ (s.chans.at c).st ≠ .off ∧ (s.chans.at c).det then some c else none

/-- An uncorrectable error met by the channel at block offset `a` (R380, R418, R419). -/
def State.gdEcc (s : State) (x : Fin 2) (a : Nat) : State :=
  ((s.modGd x fun g => { g with ecc := true }).arrayUnc none a).breachOf (s.gdOwner x) .ecc

/-! The line (R397, R399). -/

/-- The quarters of a ns from `a` to `b` (R99), 0 where `b` comes first. -/
def spanQ (a b : Instant) : Nat := ((b.ns ++ b.q) - (a.ns ++ a.q)).toInt.toNat

/-- The half-bits of levels of the lengths `runs`, the first of them `v`: each length is taken to the nearest number of
half-bits. DESIGN CHOICE (log 10): so every edge resynchronises, which accepts every sender within ±2 %. -/
def halfBits (bt : Nat) : Bool → List Nat → List Bool
  | _, [] => []
  | v, r :: l => List.replicate ((r + bt) / (2 * bt)) v ++ halfBits bt (!v) l

/-- The symbols of half-bits. -/
def symbolsOf : List Bool → List (Bool × Bool)
  | a :: b :: l => (a, b) :: symbolsOf l
  | _ => []

/-- R399: the symbols after a start delimiter that follows at least two preamble bits (`n` so far), and whether its
second symbol was malformed. -/
def gdSync : Nat → List (Bool × Bool) → Option (Bool × List (Bool × Bool))
  | _, [] => none
  | n, (true, false) :: l => gdSync (n + 1) l
  | n, (false, false) :: l =>
    if 2 ≤ n then
      match l with
      | [] => none
      | p :: r => some (decide (p ≠ (true, true)), r)
    else gdSync 0 l
  | _, _ :: l => gdSync 0 l

/-- R397, R399: the data bits up to the end delimiter; whether they end in one (none where the symbols end first). -/
def gdData : List (Bool × Bool) → List Bool × Option Bool
  | [] => ([], none)
  | (false, true) :: l => let (b, e) := gdData l; (true :: b, e)
  | (true, false) :: l => let (b, e) := gdData l; (false :: b, e)
  | (false, false) :: l => ([], some (l.all fun p => p = (true, true)))
  | (true, true) :: _ => ([], some false)

/-- The whole bytes of data bits, least significant bit first. -/
def gdOctets (l : List Bool) : List Byte :=
  (List.range (l.length / 8)).map fun i => BitVec.ofNat 8 (bitsNat ((l.drop (8 * i)).take 8))

/-- The symbols that the decoder has seen: the stamp stands at the centre of the first preamble bit. -/
def Guardian.symbolsSeen (g : Guardian) (runs : List Nat) : List (Bool × Bool) := symbolsOf (true :: halfBits g.bt false runs)

/-- R399: the bytes of the frame `d` and whether its code is broken; none where no start delimiter was recognised. A frame
that its window cut has its bits up to the cut. -/
def Guardian.decode (g : Guardian) (d : Decode) : Option (List Byte × Bool) :=
  (gdSync 0 (g.symbolsSeen d.runs)).map fun (bad, l) =>
    let (b, e) := gdData l
    (gdOctets b, bad || (match e with | none => !d.trunc | some ok => !ok || (!d.trunc && decide (b.length % 8 ≠ 0))))

/-- The quarters of a ns, in whole half-bits, that the line has kept its level by `t` since the edge at `e`, up to eight of them. -/
def Guardian.heldFor (g : Guardian) (e t : Instant) : Nat := min (spanQ e t) (16 * g.bt) / (2 * g.bt) * (2 * g.bt)

/-- R399: the start delimiter of the frame `d` has ended by `t`. -/
def Guardian.recognised (g : Guardian) (d : Decode) (t : Instant) : Bool :=
  let last := match (g.branches.at d.branch).edge with
    | some e => g.heldFor e t
    | none => 0
  (gdSync 0 (g.symbolsSeen (d.runs ++ (if d.cut then [] else [last])))).isSome

/-- R399: the first ns in which the start delimiter of the frame `d` has ended, where that is `m` half-bits after the last edge. -/
def Guardian.recognisedAt (g : Guardian) (d : Decode) (m : Nat) : Option W64 :=
  match (g.branches.at d.branch).edge with
  | some e => if d.cut then none else some (((e.ns ++ e.q) + BitVec.ofNat 66 (2 * g.bt * m + 3)).extractLsb' 2 64)
  | none => none

/-- R411: the last ns before the start delimiter of `d` had ended, where it ended by the line keeping its level. -/
def Guardian.beforeSync (g : Guardian) (d : Decode) : Option W64 :=
  match (List.range 9).find? fun m => (gdSync 0 (g.symbolsSeen (d.runs ++ [2 * g.bt * m]))).isSome with
  | some (m + 1) => (g.recognisedAt d (m + 1)).map (· - 1)
  | _ => none

/-- R397: the half-bits of a data bit and of a byte. -/
def gdBit (b : Bool) : List Bool := [!b, b]
def gdByte (b : Byte) : List Bool := (List.range 8).flatMap fun i => gdBit (b.getLsbD i)

/-- R397: the half-bits of a frame of bytes `l`. -/
def Guardian.wave (g : Guardian) (l : List Byte) : List Bool :=
  (List.replicate g.sslen (gdBit false)).flatten ++ [false, false, true, true] ++ l.flatMap gdByte ++ [false, false]

/-! Truncation and isolation (R402, R403). -/

def Branch.sum (b : Branch) (win : Nat) : Nat := (b.hist.take win).foldl (· + ·) 0

/-- R402, R403: a truncation on the branch. -/
def Branch.truncated (b : Branch) (thr win : Nat) : Branch :=
  let h := match b.hist with | [] => [1] | x :: r => (x + 1) :: r
  let b1 := { b with trunc := true, total := if b.total = 255 then 255 else b.total + 1, hist := h }
  if thr ≠ 0 ∧ thr ≤ b1.sum win ∧ b.st = .active then { b1 with st := .isolated, isoF := true } else b1

/-- R403: a READMIT finds the branch as it is; `at_` is its ns of TD0, none while TD0 stands. -/
def Branch.readmitted (b : Branch) (at_ : Option W64) : Branch :=
  let iso := decide (b.st = .isolated)
  let b1 := { b with readmit := at_.map fun g => (g, iso) }
  if iso then { b1 with st := .active, hist := [] } else b1

/-- R402, R403: a truncation in the ns `now`. A READMIT of the same ns is applied after it. -/
def Branch.truncate (b : Branch) (thr win : Nat) (now : Option W64) : Branch :=
  match b.readmit, now with
  | some (g, iso), some n =>
    if g = n then (({ b with st := if iso then .isolated else b.st } : Branch).truncated thr win).readmitted now else b.truncated thr win
  | _, _ => b.truncated thr win

def Guardian.truncate (g : Guardian) (k : Fin 16) (now : Option W64) : Guardian :=
  { g with branches := g.branches.mod k fun b => b.truncate g.isoThr g.isoWin now }

/-- R403: `n` cycle starts pass. -/
def Branch.cycles (b : Branch) (n : Nat) : Branch := { b with hist := (List.replicate (min n 16) 0 ++ b.hist).take 16 }

/-- The watermark of the receive queue (R411). -/
def State.gdMark (s : State) (x : Fin 2) : W64 :=
  let g := s.gds.at x
  let twg := BitVec.ofNat 64 g.twg
  let later (a b : W64) : W64 := if notBefore a b then a else b
  match g.dec with
  | some d =>
    if g.recognised d { ns := s.now, q := 0 } then
      later d.stamp.ns (match g.beforeSync d with | some t => later (t - twg) g.mark | none => g.mark)
    else later (s.now - twg) g.mark
  | none => later (s.now - twg) g.mark

/-- The mark is noted before a frame that it rests on goes. -/
def State.gdNote (s : State) (x : Fin 2) : State := s.modGd x fun g => { g with mark := s.gdMark x }

/-- R416: an uncorrectable error on a read of table entry `j` stops the channel in RUN. In WAIT and DRAINING the entry is
not used and ECC is set (DEDUCED, log 10: the table gives the error in RUN alone). -/
def State.gdTableEcc (s : State) (x : Fin 2) (j : Nat) : State :=
  let s1 := (s.gdNote x).gdEcc x (0x1E4000 + 0x4000 * x.val + 8 * j)
  s1.modGd x fun g =>
    if g.st = .run then { g with st := .error, cause := .ecc, win := none, dec := none, ready := [], tx := none }
    else { g with dec := none }

/-! States (R416, R417). -/

/-- A relay runs, a frame is being received, or a frame of the local transmitter is on the line at domain time `d`. -/
def Guardian.busy (g : Guardian) (d : W64) : Bool :=
  (match g.win with | some w => w.relay | none => false) || g.dec.isSome ||
    (match g.tx with | some t => !notBefore d t.fin | none => false)

def Guardian.toOff (g : Guardian) : Guardian :=
  { g with st := .off, win := none, dec := none, ready := [], tx := none }

/-- R416: the enable with the configuration `v`. -/
def Guardian.enable (g : Guardian) (v : W32) : Guardian :=
  let g1 := { g with cfg := v, enRec := none }
  let refuse (c : GdCause) : Guardian := { g1 with cfg := v &&& ~~~1, cfgErr := true, cause := c }
  if !g1.rangeOk then refuse .range
  else if !g1.tableOk g1.slots 0 0 then refuse .table
  else { g1 with st := .wait, cyc := 0, devV := false, lastSync := none, sent := [],
                 twg := (g1.sslen + 2) * g1.bt + 8,
                 branches := Vector.ofFn fun k : Fin 16 =>
                   { g1.branches.at k with st := if g1.uses k.val then .active else .off, hist := [] } }

/-- A write of GDx_CFG as OFF takes it. -/
def Guardian.cfgOff (g : Guardian) (v : W32) : Guardian :=
  if bit v 0 then g.enable v else { g with cfg := v, enRec := none }

/-- R354, R416: DRAINING ends: the channel is OFF, and the last write of DRAINING applies as though written there. -/
def Guardian.ended (g : Guardian) : Guardian :=
  let g1 : Guardian := { g.toOff with cfg := g.cfg &&& ~~~1 }
  match g.enRec with
  | some v => g1.cfgOff v
  | none => g1

/-- R354, R415: DRAINING ends once nothing is in progress, the domain at `d`; while Beryl is not in RUN it holds. -/
def State.gdSettleAt (s : State) (x : Fin 2) (d : W64) : State :=
  let g := s.gds.at x
  if g.st = .draining ∧ !g.busy d ∧ s.gdLive x then (s.gdNote x).modGd x Guardian.ended else s

/-- The same now. -/
def State.gdSettle (s : State) (x : Fin 2) : State := s.gdSettleAt x (s.gdNow x)

/-- R416: both channels as they stand now, a drain that the end of a local frame has ended among them. -/
def State.gdSettled (s : State) : State := (s.gdSettle 0).gdSettle 1

/-- GDx_CFG as it reads. In DRAINING, with EN at 0, it holds the fields last written, which apply in OFF (DESIGN CHOICE,
log 10), and EN reads 0. -/
def Guardian.cfgWord (g : Guardian) : W32 :=
  match g.enRec with
  | some v => v &&& ~~~1
  | none => g.cfg

def gdCfgMask : W32 := 0x003E0F7F
def gdLiveMask : W32 := 0x003E000D

/-- R416, R417, R354: a write of GDx_CFG. While EN is 1 it changes EN, ABORT, COLD and the IE fields alone. In DRAINING,
where EN is 0, it is recorded whole, what is in progress goes on under the configuration it began with, and ABORT, COLD
and the IE fields act at once. -/
def State.gdCfg (s : State) (x : Fin 2) (v : W32) : State :=
  let s0 := (s.gdNote x).gdSettle x
  let w := v &&& gdCfgMask
  let g := s0.gds.at x
  match g.st, bit w 0 with
  | .off, _ => s0.modGd x fun g => g.cfgOff w
  | .draining, _ =>
    let s1 := s0.modGd x fun g => { g with cfg := mrg gdLiveMask g.cfg w &&& ~~~1, enRec := some w }
    if bit w 2 then s1.modGd x Guardian.ended else s1
  | .error, false => s0.modGd x fun g => ({ g with cfg := mrg gdLiveMask g.cfg w }).toOff
  | _, true => s0.modGd x fun g => { g with cfg := mrg gdLiveMask g.cfg w }
  | _, false =>
    let s1 := s0.modGd x fun g => { g with cfg := mrg gdLiveMask g.cfg w }
    if bit w 2 then s1.modGd x Guardian.toOff
    else (s1.modGd x fun g => { g with st := .draining }).gdSettle x

/-- R416: CLRERR. CAUSE is kept, since the table gives CLRERR and a valid enable no effect on it. -/
def State.gdClrErr (s : State) (x : Fin 2) : State :=
  s.modGd x fun g => if g.st = .error ∧ g.en then { g with st := .wait } else g

/-- R416: FLUSHQ. -/
def State.gdFlushQ (s : State) (x : Fin 2) : State :=
  let s0 := s.gdSettle x
  s0.modGd x fun g => if g.st = .off ∨ g.st = .error then { g with rxq := [] } else g

def State.gdCtrl (s : State) (x : Fin 2) (v : W32) : State :=
  let s1 := if bit v 0 then s.gdClrErr x else s
  if bit v 1 then s1.gdFlushQ x else s1

/-- R417: a configuration register that takes writes only while EN is 0. -/
def State.gdReg (s : State) (x : Fin 2) (f : Guardian → Guardian) : State :=
  (s.gdSettle x).modGd x fun g => if g.en then { g with cfgIgn := true } else f g

/-- R415, R517: the reset of the common region: every register and array takes its reset value, and the inputs RXD keep
their levels. -/
def Guardian.cleared (g : Guardian) : Guardian :=
  { Guardian.reset with branches := g.branches.map fun b => { Branch.reset with rxd := b.rxd, edge := b.edge } }

/-- R415: the half of the channel is gated or in reset. -/
def Guardian.halfLost (g : Guardian) : Guardian := ({ g with cfg := g.cfg &&& ~~~1, enRec := none }).toOff

/-- R93, R415: Beryl leaves RUN: TXEN is 0 on every branch. -/
def Guardian.hold (g : Guardian) : Guardian :=
  { g with win := g.win.map fun w => { w with relay := false }, dec := none, tx := none }

/-! Cycles, windows and relays (R394 to R402). -/

/-- The cycle that the domain time `d` lies in, where cycle 0 has started. -/
def Guardian.cycleAt (g : Guardian) (d : W64) : Option Nat :=
  if notBefore d g.cyc0 ∧ g.len ≠ 0 then some ((d - g.cyc0).toNat / g.len) else none

/-- R394, R403, R416: the domain reaches a cycle start. -/
def State.gdCycle (s0 : State) (x : Fin 2) : State :=
  let s := s0.gdSettle x
  let g := s.gds.at x
  match g.cycleAt (s.gdNow x) with
  | none => s
  | some c =>
    let pass (g : Guardian) : Guardian := { g with cyc := c, branches := g.branches.map fun b => b.cycles (c - g.cyc) }
    match s.gdLive x, g.st with
    | true, .wait => s.modGd x fun g => { pass g with st := .run }
    | true, .run | true, .draining => s.modGd x pass
    | _, _ => s

/-- R400, R402: the window of RX slot `j` opens. -/
def State.gdOpen (s0 : State) (x : Fin 2) (j : Nat) : State :=
  let s := s0.gdSettle x
  let g := s.gds.at x
  let d := s.gdNow x
  if s.gdLive x ∧ g.st = .run ∧ j < g.slots then
    if g.slotBad j then s.gdTableEcc x j
    else
      let e := g.slot j
      if e.kind = 1 ∧ notBefore d (g.winStart g.cyc j) ∧ !notBefore d (g.winEnd g.cyc j) then
        let k := if g.node then g.nbr else Fin.ofNat 16 e.owner
        let dead := !(g.branches.at k).rxd && !g.node
        let g1 := { g with win := some { slot := j, cyc := g.cyc, branch := k, relay := false, relayed := false,
                                         dead := dead } }
        s.modGd x fun _ => if dead then g1.truncate k s.nsNow else g1
      else s
  else s

/-- R393, R402: the window in which the frame `d` is received closes at `now`: its input ends there, and so does its relay. -/
def Guardian.cutDec (g : Guardian) (w : Window) (now : W64) (d : Decode) : Decode :=
  if g.node ∨ d.cut then d
  else
    let last := match (g.branches.at d.branch).edge with
      | some e => g.heldFor e { ns := now, q := 0 }
      | none => 0
    { d with cut := true, trunc := w.relay, runs := d.runs ++ [last] }

/-- R402: the open window closes at `now`, which is the ns `at_` of TD0 while TD0 runs. -/
def Guardian.closeWin (g : Guardian) (now : W64) (at_ : Option W64) : Guardian :=
  match g.win with
  | none => g
  | some w =>
    let g1 := { g with win := none, dec := g.dec.map (g.cutDec w now) }
    if w.relay then g1.truncate w.branch at_ else g1

/-- R402: the end of the open window is reached. -/
def State.gdClose (s : State) (x : Fin 2) : State :=
  let g := s.gds.at x
  match g.win with
  | none => s.gdSettle x
  | some w =>
    if s.gdLive x ∧ notBefore (s.gdNow x) (g.winEnd w.cyc w.slot) then
      ((s.gdNote x).modGd x fun g => g.closeWin s.now s.nsNow).gdSettle x
    else s

/-! The branch lines (R393, R400, R401). -/

/-- The branches that receive a relay: every used branch but the owner, and the owner where its ECHO bit is 1 (R400);
isolated ones too (R401). -/
def Guardian.relayMask (g : Guardian) : BitVec 16 :=
  match g.win with
  | some w =>
    if w.relay then
      let own : BitVec 16 := BitVec.ofNat 16 (2 ^ w.branch.val)
      let echo : BitVec 16 := fld g.brMask 16 16
      fld g.brMask 0 16 &&& (~~~own ||| echo)
    else 0
  | none => 0

/-- TXEN of branch `k` of channel `x` now (R84, R93, R393, R400, R404, R405). With VAO absent the pad shows the
integrator's default, which is no value of the block. -/
def State.gdTxen (s : State) (x : Fin 2) (k : Fin 16) : Bool :=
  let g := s.gds.at x
  let d := s.gdNow x
  s.gdLive x && (g.relayMask.getLsbD k.val ||
    (match g.tx with | some t => t.mask.getLsbD k.val && notBefore d t.start && !notBefore d t.fin | none => false))

/-- TXD of branch `k` of channel `x` now: it follows the owner's RXD in a relay (R400), shows half-bit j of a frame of the
local transmitter from ts + j × BT/2 on, each once (R405), and is 1 otherwise (R84, R93, R393, R397). The delay TRELAY is left out. -/
def State.gdTxd (s : State) (x : Fin 2) (k : Fin 16) : Bool :=
  let g := s.gds.at x
  if !s.gdTxen x k then true
  else if g.relayMask.getLsbD k.val then (match g.win with | some w => (g.branches.at w.branch).rxd | none => true)
  else match g.tx with
    | some t => (g.wave t.bytes).getD (max t.from_ ((s.gdNow x - t.start).toNat * 2 / g.bt)) true
    | none => true

/-- The used entry of the table whose window of the present cycle holds domain time `d`; NSLOT where there is none. -/
def Guardian.slotNow (g : Guardian) (d : W64) : Nat :=
  ((List.range g.slots).find? fun j =>
    decide ((g.slot j).kind ≠ 0) && notBefore d (g.winStart g.cyc j) && !notBefore d (g.winEnd g.cyc j)).getD g.slots

/-- R400: RXD of branch `k` has been 1 for 2 × BT by `t`. -/
def Guardian.idleAt (g : Guardian) (k : Fin 16) (t : Instant) : Bool :=
  (g.branches.at k).rxd && (match (g.branches.at k).edge with | some e => decide (8 * g.bt ≤ spanQ e t) | none => true)

/-- The branch whose signal the channel follows. -/
def Guardian.heard (g : Guardian) : Option (Fin 16) :=
  match g.dec, g.win with
  | some d, _ => some d.branch
  | none, some w => if w.relay then some w.branch else none
  | none, none => none

/-- R400: RXD has been 1 for two bit times: a relay ends. A start that the decoder did not recognise as a frame by then is
dropped; a recognised frame waits for its command (log 10). -/
def State.gdRelayEnd (s : State) (x : Fin 2) (t : Instant) : State :=
  let g := s.gds.at x
  match g.heard with
  | some k =>
    if g.idleAt k t then
      ((s.gdNote x).modGd x fun g =>
        { g with win := g.win.map fun w => { w with relay := false },
                 dec := g.dec.filter fun d => g.recognised d t }).gdSettle x
    else s
  | none => s

/-- R399: an edge at `t` on RXD of branch `k`, which then reads `v`: the frame that the decoder follows there grows. -/
def Guardian.edge (g : Guardian) (k : Fin 16) (t : Instant) (v : Bool) : Guardian :=
  let span := match (g.branches.at k).edge with | some e => spanQ e t | none => 0
  { g with dec := g.dec.map fun d => if d.branch = k ∧ !d.cut then { d with runs := d.runs ++ [span] } else d,
           branches := g.branches.mod k fun b => { b with rxd := v, edge := some t } }

/-- R393, R399 to R401: a falling edge at `t` on RXD of branch `k`, which was idle before it or not. In STAR the first one in a window
starts the relay, and the decoder where it follows no frame: a frame may be under way as its window opens. -/
def State.gdFall (s : State) (x : Fin 2) (k : Fin 16) (t : Instant) (idle : Bool) : State :=
  let g := s.gds.at x
  if s.gdLive x ∧ (g.st = .wait ∨ g.st = .run ∨ g.st = .draining) ∧ g.uses k.val then
    let dec (j c : Nat) : Option Decode :=
      if idle || g.dec.isNone then some { stamp := t, slot := j, cyc := c, branch := k, trunc := false, cut := false, runs := [] }
      else g.dec
    let flag (f : Branch → Branch) : State := s.modGd x fun g => { g with branches := g.branches.mod k f }
    let block : State := if idle then flag fun b => { b with block := true } else s
    if g.node then (if idle then s.modGd x fun g => { g with dec := dec (g.slotNow (s.gdNow x)) g.cyc } else s)
    else match g.win with
    | some w =>
      if w.branch = k then
        if w.relay then s
        else if w.relayed then
          (flag fun b => { b with multi := true }).modGd x fun g => { g with dec := dec w.slot w.cyc }
        else if (g.branches.at k).st = .active ∧ g.st = .run ∧ !w.dead then
          s.modGd x fun g => { g with dec := dec w.slot w.cyc, win := some { w with relay := true, relayed := true } }
        else s.modGd x fun g => { g with dec := dec w.slot w.cyc }
      else block
    | none => block
  else s

/-- R399 to R401: an edge on RXD of branch `k`, captured at TD0 = `t`, after which RXD reads `v`. -/
def State.gdEdge (s : State) (x : Fin 2) (k : Fin 16) (t : Instant) (v : Bool) : State :=
  let s0 := (s.gdNote x).gdSettle x
  let b := (s0.gds.at x).branches.at k
  if b.rxd = v then s0
  else
    let idle := (s0.gds.at x).idleAt k t
    let s1 := if idle then s0.gdRelayEnd x t else s0
    let s2 := s1.modGd x fun g => if idle then { g with branches := g.branches.mod k fun b => { b with rxd := v, edge := some t } } else g.edge k t v
    if v then s2 else s2.gdFall x k t idle

/-! Receive (R399, R409 to R412). -/

/-- The FCS unit of a frame (R397). -/
def gdCrc : CrcSet := CrcUnit.settings { cfg := 1, poly := 0, init := 0, xor := 0, res := 0 }

/-- R397: the four bytes of the frame check sequence. -/
def gdFcs (l : List Byte) : List Byte := gdCrc.bytes (gdCrc.fcs (l.foldl gdCrc.step gdCrc.init))

/-- The word of four bytes, the first lowest. -/
def bytesWord (l : List Byte) : W32 := l.getD 3 0 ++ l.getD 2 0 ++ l.getD 1 0 ++ l.getD 0 0

/-- The sparse words with `l` written from word `w` up. -/
def setWords (m : List (Nat × W32)) : Nat → List Byte → Nat → List (Nat × W32)
  | _, _, 0 => m
  | w, l, k + 1 => setWords (sparseSet 0 m w (bytesWord l)) (w + 1) (l.drop 4) k

/-- The first word of half `h` of buffer pair `b`. -/
def bufBase (b : Fin 64) (h : Bool) : Nat := 32 * b.val + 16 * b2n h

/-- The four bytes of a word. -/
def wordBytes (w : W32) : List Byte := (List.range 4).map fun i => fld w (8 * i) 8

/-- The first `8 * n` bytes of half `h` of buffer pair `b`. -/
def Guardian.payload (g : Guardian) (b : Fin 64) (h : Bool) (n : Nat) : List Byte :=
  (List.range (2 * n)).flatMap fun i => wordBytes (sparseGet 0 g.bufs (bufBase b h + i))

/-- The judgement of a received frame (R399): the flags CRCERR, CODEERR, SLOTERR, LENERR, TRUNC, ND. -/
structure Verdict where
  crc : Bool
  code : Bool
  slot : Bool
  len : Bool
  trunc : Bool
  nd : Bool
  deriving DecidableEq, Repr

def Verdict.valid (v : Verdict) : Bool := !(v.crc || v.code || v.slot || v.len || v.trunc)

/-- R399: the frame of bytes `l` judged against slot `j`, with `bad` for a broken bit or delimiter. The end
delimiter of a whole frame stands where the header's LENW puts it. -/
def gdJudge (l : List Byte) (bad trunc : Bool) (j : Nat) (e : Slot) : Verdict :=
  let h (i : Nat) : Byte := l.getD i 0
  let n := l.length - 4
  { crc := decide (l.length < 8) || decide (l.drop n ≠ gdFcs (l.take n)),
    code := bad || (!trunc && decide (l.length ≠ 8 + 8 * fldN (h 3) 0 4)) || decide (fldN (h 1) 4 4 ≠ 0) || decide (fldN (h 3) 4 4 ≠ 0),
    slot := decide ((h 0).toNat + 256 * fldN (h 1) 0 3 ≠ j),
    len := decide (fldN (h 3) 0 4 ≠ e.lenw), trunc := trunc, nd := bit (h 1) 3 }

/-- Word 3 of the quads of a frame but for the low ten bits (R410). -/
def Verdict.word (v : Verdict) (tag : Nat) (lost : Bool) (j : Nat) : W32 :=
  put 30 tag ||| putB 29 v.crc ||| putB 28 v.code ||| putB 27 v.slot ||| putB 26 v.len ||| putB 25 v.trunc |||
    putB 24 v.nd ||| putB 23 lost ||| put 12 j

/-- R410: the entries of a frame. -/
def gdEntries (g : Guardian) (l : List Byte) (v : Verdict) (j : Nat) (e : Slot) (d : Decode) : List Quad :=
  let es : BitVec 42 := d.stamp.ns.setWidth 40 ++ d.stamp.q
  let w2 := es.setWidth 32
  let top := put 0 (es.toNat / 2 ^ 32)
  let head : Quad :=
    { w0 := bytesWord l, w1 := put 0 (if g.node then 0 else d.branch.val), w2 := w2,
      w3 := v.word 2 g.qlost j ||| top }
  let pay (i : Nat) : Quad :=
    { w0 := bytesWord (l.drop (4 + 8 * i)), w1 := bytesWord (l.drop (8 + 8 * i)), w2 := w2,
      w3 := put 30 (if i + 1 = e.lenw then 1 else 0) ||| put 12 j ||| top }
  head :: (if v.valid then (List.range e.lenw).map pay else [])

/-- R410: the frame goes to the receive queue, or is dropped. -/
def State.gdQueue (s : State) (x : Fin 2) (q : List Quad) : State :=
  let g := s.gds.at x
  if g.rxq.length + q.length ≤ 64 then s.modGd x fun g => { g with rxq := g.rxq ++ q, qlost := false }
  else (s.modGd x fun g => { g with qovf := true, qlost := true }).breachOf (s.gdOwner x) .overflow

/-- R409: the buffer pair of a received frame. -/
def Guardian.receive (g : Guardian) (l : List Byte) (v : Verdict) (e : Slot) : Guardian :=
  let b := g.bstat.at e.buf
  if !v.valid then { g with bstat := g.bstat.upd e.buf { b with err := true } }
  else
    let b1 := { b with last := l.getD 2 0 }
    if v.nd then
      let base := bufBase e.buf (!b.front)
      { g with bufs := setWords g.bufs base (l.drop 4) (2 * e.lenw),
               bunc := g.bunc.filter fun w => !(decide (base ≤ w) && decide (w < base + 2 * e.lenw)),
               bstat := g.bstat.upd e.buf { b1 with nd := true, front := !b.front, seq := b.seq + 1 } }
    else { g with bstat := g.bstat.upd e.buf b1 }

/-- A number of ns that saturates at ±(2^31 − 1). -/
def satDev (i : Int) : Int := if i > 2 ^ 31 - 1 then 2 ^ 31 - 1 else if i < -(2 ^ 31 - 1) then -(2 ^ 31 - 1) else i

/-- R412: the deviation of a frame of the domain time `t`. -/
def Guardian.deviation (g : Guardian) (t : W64) (d : Decode) : W32 :=
  let expect := g.txStart d.cyc d.slot + BitVec.ofNat 64 (fldN g.nodeDly 0 20)
  BitVec.ofInt 32 (satDev (t - expect).toInt)

/-- An instant of TD0 as 64.40. -/
def Instant.fix (t : Instant) : BitVec 104 := (t.ns ++ t.q) ++ (0 : BitVec 38)

/-- R399: the frame `d` has ended by `t`: its window has cut it, its end delimiter or a broken bit has come, or RXD idles. -/
def Guardian.over (g : Guardian) (d : Decode) (t : Instant) : Bool :=
  d.cut || g.idleAt d.branch t ||
    (match gdSync 0 (g.symbolsSeen d.runs) with | some (_, l) => (gdData l).2.isSome | none => false)

/-- R399, R409 to R412: the frame that the decoder follows has ended by `t`. A frame that no entry of the table holds is
dropped. -/
def State.gdFrame (s : State) (x : Fin 2) (t : Instant) : State :=
  let g := s.gds.at x
  match g.dec with
  | none => s
  | some d =>
    if s.gdLive x ∧ g.st ≠ .off ∧ g.st ≠ .error ∧ g.over d t then
      let drop := (s.gdNote x).modGd x fun g => { g with dec := none }
      match g.decode d with
      | none => drop.gdSettle x
      | some (l, bad) =>
        if g.slots ≤ d.slot then drop.gdSettle x
        else if g.slotBad d.slot then (s.gdTableEcc x d.slot).gdSettle x
        else
          let e := g.slot d.slot
          let v := gdJudge l bad d.trunc d.slot e
          let at_ : W64 := (s.beryl.convert 0 g.dom d.stamp.fix).1.extractLsb' 16 64
          let g0 := drop.gds.at x
          let g1 := if e.kind = 1 then g0.receive l v e else g0
          let g2 := if v.valid ∧ e.sync then
              { g1 with dev := g1.deviation at_ d, devV := true, lastSync := some g.cyc } else g1
          let s1 := s.modGd x fun _ => g2
          (if e.qen then s1.gdQueue x (gdEntries g l v d.slot e d) else s1).gdSettle x
    else s

/-! The local transmitter (R404 to R408). -/

/-- A valid SYNC frame came in this cycle or the one before it (R408, R420). -/
def Guardian.synced (g : Guardian) : Bool := match g.lastSync with | some c => decide (g.cyc ≤ c + 1) | none => false

/-- A word of the payload of slot `e` in half `h` that holds an uncorrectable error. -/
def Guardian.halfBad (g : Guardian) (e : Slot) (h : Bool) : Option Nat :=
  g.bunc.find? fun w => decide (bufBase e.buf h ≤ w) && decide (w < bufBase e.buf h + 2 * e.lenw)

/-- R408: the first guard check that the frame of slot `e` fails, with the half `h` to send. -/
def Guardian.guard (g : Guardian) (e : Slot) (h : Bool) : Option SuppCause :=
  let n := g.symbols (8 + 8 * e.lenw)
  let max := let m := fldN g.nodeCfg 0 20; if m = 0 then g.margin else m
  if g.margin + n * g.bt + g.margin > e.dur then some .fit
  else if !g.cold && !g.synced then some .noSync
  else if g.devV && decide (g.dev.toInt.natAbs > max) then some .dev
  else if (g.halfBad e h).isSome then some .ecc
  else none

/-- R408: a frame is suppressed. -/
def Guardian.suppress (g : Guardian) (c : SuppCause) : Guardian :=
  { g with supp := true, sCause := c, suppCnt := if g.suppCnt = 255 then 255 else g.suppCnt + 1 }

/-- R397, R398: the bytes of the frame of slot `j` in cycle `c`. -/
def gdBytes (j c : Nat) (nd : Bool) (e : Slot) (pay : List Byte) : List Byte :=
  let body : List Byte :=
    [BitVec.ofNat 8 j, BitVec.ofNat 8 (j / 256 % 8 + 8 * b2n nd), BitVec.ofNat 8 c, BitVec.ofNat 8 e.lenw] ++ pay
  body ++ gdFcs body

/-- The end of the frame of TX slot `j` of cycle `c` (R405). -/
def Guardian.txEnd (g : Guardian) (c j : Nat) : W64 :=
  g.txStart c j + BitVec.ofNat 64 (g.symbols (8 + 8 * (g.slot j).lenw) * g.bt)

/-- The frame of slot `j` in cycle `c` has had its latch. -/
def Guardian.latched (g : Guardian) (j c : Nat) : Bool :=
  g.sent.contains (j, c) || g.ready.any fun f => decide (f.slot = j ∧ f.cyc = c)

/-- R407, R408: the latch of the frame of TX slot `j`. A frame that has been sent, latched or suppressed for its cycle has no second
latch when a step of DOM repeats the span (DEDUCED from R405, log 10). -/
def State.gdLatch (s0 : State) (x : Fin 2) (j : Nat) : State :=
  let s := s0.gdSettle x
  let g := s.gds.at x
  let d := s.gdNow x
  -- the latch of a frame of cycle 0 may lie before CYC0, in WAIT
  let early := decide (g.st = .wait) && !notBefore d g.cyc0
  if s.gdLive x ∧ (g.st = .run ∨ early) ∧ j < g.slots then
    if g.slotBad j then s.gdTableEcc x j
    else
      let e := g.slot j
      -- the latch may lie in the cycle before the frame's own
      let c := if early then 0 else if notBefore d (g.txStart g.cyc j) then g.cyc + 1 else g.cyc
      if e.kind = 2 ∧ notBefore d (g.latchAt c j) ∧ !notBefore d (g.txEnd c j) ∧ !g.latched j c then
        let b := g.bstat.at e.buf
        let applies := match b.pend with
          | some (some k) => decide (k = BitVec.ofNat 8 c)
          | some none => true
          | none => false
        let h := if applies then !b.front else b.front
        match g.guard e h with
        | some k =>
          let s1 := s.modGd x fun g => { g.suppress k with sent := (j, c) :: g.sent }
          if k = .ecc then s1.gdEcc x (0x1EC000 + 0x2000 * x.val + 4 * (g.halfBad e h).getD 0) else s1
        | none =>
          let b1 := if applies then { b with front := h, pend := none, seq := b.seq + 1 } else b
          s.modGd x fun g =>
            { g with bstat := g.bstat.upd e.buf b1,
                     ready := g.ready ++ [{ slot := j, cyc := c,
                                            bytes := gdBytes j c applies e (g.payload e.buf h e.lenw) }] }
      else s
  else s

/-- R404, R405: the frame of TX slot `j` starts. -/
def State.gdSend (s : State) (x : Fin 2) (j : Nat) : State :=
  let g := s.gds.at x
  match g.ready.find? fun f => f.slot = j with
  | none => s
  | some f =>
    let d := s.gdNow x
    if s.gdLive x ∧ g.st = .run ∧ notBefore d (g.txStart f.cyc j) then
      let g1 := { g with ready := g.ready.filter fun f => f.slot ≠ j }
      if g.sent.contains (j, f.cyc) then s.modGd x fun _ => g1
      else
        let mask : BitVec 16 := if g.node then BitVec.ofNat 16 (2 ^ g.nbr.val) else g.brMask.setWidth 16
        s.modGd x fun _ =>
          { g1 with sent := (j, f.cyc) :: g.sent,
                    tx := some { mask := mask, bytes := f.bytes, start := g.txStart f.cyc j, from_ := 0,
                                 fin := g.txStart f.cyc j + BitVec.ofNat 64 (g.symbols f.bytes.length * g.bt) } }
    else s

/-- R406: the cycle near the present one whose count has the low bits `k`. -/
def Guardian.cycleOf (g : Guardian) (k : Byte) : Nat :=
  let lo := g.cyc - 128
  lo + (k - BitVec.ofNat 8 lo).toNat

/-- R406: a write of GDx_TXCOMMIT. -/
def State.gdCommit (s0 : State) (x : Fin 2) (v : W32) : State :=
  let s := s0.gdSettle x
  let g := s.gds.at x
  let b : Fin 64 := Fin.ofNat 64 (fldN v 0 6)
  let k := fld v 16 8
  if (g.bstat.at b).pend.isSome then s.modGd x fun g => { g with cmErr := true }
  else
    let past (j : Nat) : Bool := notBefore (s.gdNow x) (g.latchAt (g.cycleOf k) j)
    let late := bit v 31 && (List.range g.slots).all fun j =>
      let e := g.slot j
      decide (e.kind ≠ 2 ∨ e.buf ≠ b) || past j
    if late then (s.modGd x fun g => { g with late := true }).breachOf (s.gdOwner x) .late
    else s.modGd x fun g =>
      { g with bstat := g.bstat.mod b fun t => { t with pend := some (if bit v 31 then some k else none) } }

/-- R403: a write of GD_READMIT. -/
def State.gdReadmit (s0 : State) (v : W32) : State :=
  let s := s0.gdSettled
  { s with gds := Vector.ofFn fun x : Fin 2 =>
      let g := s.gds.at x
      { g with branches := Vector.ofFn fun k : Fin 16 =>
          let b := g.branches.at k
          if bit v (16 * x.val + k.val) then b.readmitted s.nsNow else b } }

/-! Steps of the domain and stopped time (R414, R415). -/

/-- R93: a load of TD0: the ns of a READMIT may come again. -/
def Guardian.loaded (g : Guardian) : Guardian :=
  { g with branches := g.branches.map fun b : Branch => { b with readmit := none } }

/-- The span from `a` to `b` of the domain, `a` already evaluated: whether a whole window or frame of the used table lies
in it, and the frames, neither latched nor suppressed yet, whose latch lies in it and whose start does not. -/
def Guardian.skipped (g : Guardian) (a b : W64) : Bool × List (Nat × Nat) :=
  let inside (t : W64) : Bool := notBefore t a && !notBefore t b && decide (t ≠ a)
  let near (d : W64) : List Nat := match g.cycleAt d with | some c => [c, c + 1] | none => [0]
  let js := List.range g.slots
  let whole := (near a).any fun c => js.any fun j =>
    (decide ((g.slot j).kind ≠ 0) && inside (g.winStart c j) && notBefore b (g.winEnd c j)) ||
      (decide ((g.slot j).kind = 2) && inside (g.txStart c j) && notBefore b (g.txEnd c j))
  let latch := (near b).flatMap fun c => (js.filter fun j =>
    decide ((g.slot j).kind = 2) && inside (g.latchAt c j) && !notBefore b (g.txStart c j) && !g.latched j c).map fun j => (j, c)
  (whole, latch)

/-- R414: the domain of channel `x` goes from `a` to `b` in one step, back or forward; a backward step leaves a window that
starts after `b`, which then closes, and a frame that has ended is not sent again. While Beryl does not run, a window whose end is passed counts as skipped (R415). The
cycle count follows the domain (R394). -/
def State.gdStep (s0 : State) (x : Fin 2) (a b : W64) : State :=
  let s := (s0.gdNote x).gdSettleAt x a
  let g := s.gds.at x
  if (g.st = .run ∨ g.st = .draining) ∧ !notBefore b a then
    let left := match g.win with | some w => !notBefore b (g.winStart w.cyc w.slot) | none => false
    let back (t : LineTx) : Option LineTx :=
      if notBefore a t.fin then none
      else some { t with from_ := if notBefore a t.start then max t.from_ ((a - t.start).toNat * 2 / g.bt) else t.from_ }
    let s1 := s.modGd x fun g =>
      { (if left then g.closeWin s.now s.nsNow else g) with cyc := (g.cycleAt b).getD g.cyc, tx := g.tx.bind back }
    s1.gdSettle x
  else if (g.st = .wait ∨ g.st = .run ∨ g.st = .draining) ∧ notBefore b a then
    let past := match g.win with | some w => notBefore b (g.winEnd w.cyc w.slot) | none => false
    let g1 := if past then { g.closeWin s.now s.nsNow with skip := g.skip || !s.ticking } else g
    if g.st = .draining then (s.modGd x fun _ => g1).gdSettle x
    else
      let (whole, latch) := g.skipped a b
      let g2 := { g1 with skip := g1.skip || whole,
                          ready := g1.ready.filter fun f => !notBefore b (g1.txEnd f.cyc f.slot) }
      (s.modGd x fun _ => latch.foldl (init := g2) fun z f => { z.suppress .fit with sent := f :: z.sent }).gdCycle x
  else s0

/-- R414: a step or set of domain `d`, which read `a` before and `b` after. -/
def State.gdsStep (s : State) (d : Fin 8) (a b : W64) : State :=
  let one (s : State) (x : Fin 2) : State := if (s.gds.at x).dom = d then s.gdStep x a b else s
  one (one s 0) 1

/-- R415: Beryl returns to RUN; windows whose end has passed count as skipped. -/
def State.gdReturn (s : State) (x : Fin 2) : State :=
  let g := s.gds.at x
  match g.win with
  | some w =>
    if notBefore (s.gdNow x) (g.winEnd w.cyc w.slot) then s.modGd x fun g => { g with win := none, skip := true } else s
  | none => s

/-! Registers (R420, R421). -/

def GdSt.num : GdSt → Nat
  | .off => 0
  | .wait => 1
  | .run => 2
  | .draining => 3
  | .error => 5

def GdCause.num : GdCause → Nat
  | .none => 0
  | .table => 1
  | .range => 2
  | .ecc => 3

def SuppCause.num : SuppCause → Nat
  | .none => 0
  | .fit => 1
  | .noSync => 2
  | .dev => 3
  | .ecc => 4

/-- QFILL of a queue of `n` entries out of `cap`. -/
def fillCode (n cap : Nat) : Nat := if n = 0 then 0 else if n ≥ cap then 3 else if 2 * n < cap then 1 else 2

/-- GDx_STAT as it reads. -/
def State.gdStat (s : State) (x : Fin 2) : W32 :=
  let g := s.gds.at x
  let st := if (g.st = .wait ∨ g.st = .run ∨ g.st = .draining) ∧ !s.ticking then 4 else g.st.num
  put 16 g.cause.num ||| putB 12 g.skip ||| putB 11 g.ecc ||| putB 10 g.qovf ||| putB 9 g.cfgIgn |||
    putB 8 g.cfgErr ||| put 6 (fillCode g.rxq.length 64) ||| putB 4 g.synced ||| put 0 st

def State.gdStatW (s : State) (x : Fin 2) (v : W32) : State :=
  s.modGd x fun g => { g with skip := g.skip && !bit v 12, ecc := g.ecc && !bit v 11, qovf := g.qovf && !bit v 10,
                              cfgIgn := g.cfgIgn && !bit v 9, cfgErr := g.cfgErr && !bit v 8 }

/-- GDx_NODE_STAT as it reads. -/
def Guardian.nodeStat (g : Guardian) : W32 :=
  put 24 g.suppCnt.toNat ||| put 16 g.sCause.num ||| putB 11 g.cmErr ||| putB 10 g.late ||| putB 9 g.devV |||
    putB 8 g.supp

def State.gdNodeStatW (s : State) (x : Fin 2) (v : W32) : State :=
  s.modGd x fun g => { g with suppCnt := fld v 24 8, cmErr := g.cmErr && !bit v 11, late := g.late && !bit v 10,
                              supp := g.supp && !bit v 8 }

def BrSt.num : BrSt → Nat
  | .off => 0
  | .active => 1
  | .isolated => 2

/-- GDx_BRk_STAT as it reads. -/
def Guardian.brStat (g : Guardian) (k : Fin 16) : W32 :=
  let b := g.branches.at k
  put 24 b.total.toNat ||| put 16 (min 15 (b.sum g.isoWin)) ||| putB 11 b.isoF ||| putB 10 b.multi ||| putB 9 b.block |||
    putB 8 b.trunc ||| put 0 b.st.num

def State.gdBrStatW (s : State) (x : Fin 2) (k : Fin 16) (v : W32) : State :=
  s.modGd x fun g => { g with branches := g.branches.mod k fun b =>
    { b with total := fld v 24 8, isoF := b.isoF && !bit v 11, multi := b.multi && !bit v 10,
             block := b.block && !bit v 9, trunc := b.trunc && !bit v 8 } }

/-- GDx_BSTATb as it reads. -/
def BufStat.word (b : BufStat) : W32 :=
  putB 31 b.nd ||| putB 30 b.front ||| putB 29 b.pend.isSome ||| putB 27 b.err ||| put 16 b.last.toNat |||
    put 12 b.seq.toNat

def State.gdBstatW (s : State) (x : Fin 2) (b : Fin 64) (v : W32) : State :=
  s.modGd x fun g => { g with bstat := g.bstat.mod b fun t => { t with nd := t.nd && !bit v 31, err := t.err && !bit v 27 } }

/-- R421: branch `k` of the channel requests. -/
def Guardian.requests (g : Guardian) (k : Fin 16) : Bool :=
  let b := g.branches.at k
  let err := bit g.cfg 21 && (decide (g.st = .error) || g.qovf || g.cfgErr || g.late)
  if g.node then decide (k = g.nbr) && ((bit g.cfg 20 && g.supp) || err)
  else (bit g.cfg 17 && b.trunc) || (bit g.cfg 18 && b.isoF) || (bit g.cfg 19 && (b.block || b.multi)) ||
    (decide (k = 0) && err)

/-- GD_ISOSUM and GD_IRQSUM. -/
def State.gdSum (s : State) (p : Guardian → Fin 16 → Bool) : W32 :=
  sumBits 32 fun i => p (s.gds.at (Fin.ofNat 2 (i / 16))) (Fin.ofNat 16 i)

def State.gdIsoSum (s : State) : W32 := s.gdSum fun g k => decide ((g.branches.at k).st = .isolated)
def State.gdIrqSum (s : State) : W32 := s.gdSum fun g k => g.requests k

/-- R417: a write of word `w` of the slot table. -/
def State.gdTableW (s : State) (x : Fin 2) (w : Nat) (v : W32) : State :=
  let m : W32 := if w % 2 = 0 then 0xDFFFFFFF else 0xFFFFFFFF
  s.gdReg x fun g => { g with table := sparseSet 0 g.table w (v &&& m), tunc := g.tunc.filter (· ≠ w) }

/-- A write of word `w` of the buffers. -/
def State.gdBufW (s : State) (x : Fin 2) (w : Nat) (v : W32) : State :=
  s.modGd x fun g => { g with bufs := sparseSet 0 g.bufs w v, bunc := g.bunc.filter (· ≠ w) }

end Sys2Proof.Machine
end

