-- ==== Sys2Proof/Machine/AbWire.lean ====
section
/-! DEFINITION. Frames of the arbitrated buses as bits: formats, CRC sequences, stuffing, sampling of AB_RXD
(spec/16_arbitrated_buses.md, R422 to R427).

A level is true where it is recessive. The formats, polynomials, stuffing rules and synchronisation rules are those of ISO
11898-1:2015, to which R422 refers; they stand in no file of the spec (PRESUMED, log 11). Times are ns of TD0 from the start
of the frame. -/

namespace Sys2Proof.Machine

/-! Bit timing (R423, R424, R426). -/

/-- The timing of one phase: the quantum in ns, and NSEG1, NSEG2 and SJW in quanta. -/
structure AbPhase where
  tq : Nat
  seg1 : Nat
  seg2 : Nat
  sjw : Nat
  deriving DecidableEq, Repr

/-- From the start of a bit to its sample point, and from there to its end. -/
def AbPhase.lead (p : AbPhase) : Nat := p.tq * (1 + p.seg1)
def AbPhase.trail (p : AbPhase) : Nat := p.tq * p.seg2

def AbCell.nominal (c : AbCell) : AbPhase :=
  { tq := fldN c.nbt 22 10, seg1 := fldN c.nbt 14 8 + 1, seg2 := fldN c.nbt 7 7 + 1, sjw := fldN c.nbt 0 7 + 1 }
def AbCell.fastPhase (c : AbCell) : AbPhase :=
  { tq := fldN c.dbt 22 10, seg1 := fldN c.dbt 17 5 + 1, seg2 := fldN c.dbt 13 4 + 1, sjw := fldN c.dbt 9 4 + 1 }
/-- The timing in force in the data phase (`fast`) and outside it. -/
def AbCell.phase (c : AbCell) (fast : Bool) : AbPhase := if fast then c.fastPhase else c.nominal

/-- The level of AB_RXD at `t`, which is recessive before the first of its edges. -/
def levelOf (edges : List Nat) (t : Nat) : Bool := edges.countP (fun e => decide (e ≤ t)) % 2 == 0

/-- The falling edges among the edges of AB_RXD. -/
def fallsOf : List Nat → List Nat
  | a :: _ :: l => a :: fallsOf l
  | l => l

/-- R426: the reading of a bit at its sample point `t`: with TRIPLE, of a nominal bit, the majority of three readings. -/
def AbCell.readAt (c : AbCell) (fast : Bool) (edges : List Nat) (t : Nat) : Bool :=
  if bit c.cfg 17 && !fast then
    let q := c.nominal.tq
    let a := levelOf edges t
    let b := levelOf edges (t - q)
    let d := levelOf edges (t - 2 * q)
    (a && b) || (a && d) || (b && d)
  else levelOf edges t

/-- R424: the start of a bit that would start at `b` in phase `p`, moved by the first falling edge after the sample point
`ps` of the bit before that `ok` admits: by whole quanta, at most SJW. -/
def resync (p : AbPhase) (falls : List Nat) (ps b : Nat) (ok : Nat → Bool) : Nat :=
  match falls.find? fun e => decide (ps < e ∧ e ≤ b + p.lead) && ok e with
  | none => b
  | some e =>
    if e < b then b - min ((b - e) / p.tq) p.sjw * p.tq
    else b + min ((e - b) / p.tq) p.sjw * p.tq

/-! Formats. -/

/-- A CRC of `w` bits with polynomial `poly` over bits, from the value `init`. -/
def crcOf (w poly init : Nat) (l : List Bool) : Nat :=
  l.foldl (init := init) fun c b =>
    let c1 := c * 2 % 2 ^ w
    if (c.testBit (w - 1)) != b then c1 ^^^ poly else c1

/-- The `w` low bits of a number, highest first. -/
def msbBits (w x : Nat) : List Bool := (List.range w).map fun i => x.testBit (w - 1 - i)

/-- CRC-15 over the bits of a classical frame before it. -/
def crc15 (l : List Bool) : Nat := crcOf 15 0x4599 0 l
/-- The width of the CRC of an FD frame with `n` data bytes. -/
def fdCrcLen (n : Nat) : Nat := if n ≤ 16 then 17 else 21
/-- CRC-17 or CRC-21 over the bits of an FD frame before it, dynamic stuff bits and the stuff count included. -/
def fdCrc (n : Nat) (l : List Bool) : Nat :=
  if n ≤ 16 then crcOf 17 0x1685B (2 ^ 16) l else crcOf 21 0x102899 (2 ^ 20) l

/-- The stuff count of an FD frame: the count modulo 8 in Gray code, and even parity. -/
def stuffCount (k : Nat) : List Bool :=
  let x := k % 8
  let g := msbBits 3 (x ^^^ (x / 2))
  g ++ [g.foldl (· != ·) false]

/-- Bits with a fixed stuff bit before each four, the opposite of the bit `last` before it. -/
def fixStuff : Nat → Bool → List Bool → List Bool
  | _, _, [] => []
  | 0, last, b :: l => (!last) :: b :: fixStuff 3 b l
  | k + 1, _, b :: l => b :: fixStuff k b l

/-- The bytes of a data length code (R427). -/
def dlcLen (fd : Bool) (d : Nat) : Nat :=
  if d ≤ 8 then d
  else if !fd then 8
  else match d with
    | 9 => 12
    | 10 => 16
    | 11 => 20
    | 12 => 24
    | 13 => 32
    | 14 => 48
    | _ => 64

/-- The bits from SOF to DLC of the frame of word 0 `w0`, without stuff bits. -/
def headBits (w0 : W32) (brs esi : Bool) (dlc : Nat) : List Bool :=
  let rtr := bit w0 30 && !bit w0 29
  let top := (List.range 11).map fun i => bit w0 (28 - i)
  let low := (List.range 18).map fun i => bit w0 (17 - i)
  let ctl := if bit w0 29 then [true, false, brs, esi] else if bit w0 31 then [false, false] else [false]
  (if bit w0 31 then [false] ++ top ++ [true, true] ++ low ++ [rtr] else [false] ++ top ++ [rtr, false]) ++ ctl ++ msbBits 4 dlc

/-- The bits of bytes, most significant bit first. -/
def dataBits (l : List Byte) : List Bool := l.flatMap fun b => msbBits 8 b.toNat

/-- Bits with a stuff bit after each five equal ones, and the number of them; none after the last bit of an FD frame's
part (`fd`). -/
def dynStuff (fd : Bool) : Bool → Nat → List Bool → List Bool × Nat
  | _, _, [] => ([], 0)
  | last, run, b :: l =>
    let n := if b = last ∧ run ≠ 0 then run + 1 else 1
    if n = 5 ∧ !(fd && l.isEmpty) then
      let (r, k) := dynStuff fd (!b) 1 l
      (b :: (!b) :: r, k + 1)
    else
      let (r, k) := dynStuff fd b n l
      (b :: r, k)

/-- A bit on the bus: its level as its transmitter sends it, and whether the data phase times it before its sample point and
after it. `res` marks the bit whose leading edge measures the loop delay (R425), `ack` the ACK slot. -/
structure AbSym where
  v : Bool
  lead : Bool
  trail : Bool
  res : Bool
  ack : Bool
  deriving DecidableEq, Repr

def AbSym.slow (v : Bool) : AbSym := { v := v, lead := false, trail := false, res := false, ack := false }
def AbSym.fast (v : Bool) : AbSym := { v := v, lead := true, trail := true, res := false, ack := false }

/-- The wire bits of the first `n` bits of `l` after stuffing, given the stuffed bits `s`. -/
def stuffedSpan : Nat → Bool → Nat → List Bool → Nat
  | 0, _, _, _ => 0
  | _, _, _, [] => 0
  | k + 1, last, run, b :: l =>
    let n := if b = last ∧ run ≠ 0 then run + 1 else 1
    if n = 5 then (if k = 0 then 1 else 2 + stuffedSpan k (!b) 1 l) else 1 + stuffedSpan k b n l

/-- The bits of a frame on the bus, from SOF to the last bit of its end-of-frame field. -/
def abFrameBits (w0 : W32) (brs esi : Bool) (dlc : Nat) (data : List Byte) : List AbSym :=
  let fd := bit w0 29
  let u := headBits w0 brs esi dlc ++ dataBits data
  let rest (d : AbSym) : List AbSym :=
    [d, { AbSym.slow true with ack := true }] ++ (List.replicate 8 true).map AbSym.slow
  if !fd then
    let s := (dynStuff false true 0 (u ++ msbBits 15 (crc15 u))).1
    s.map AbSym.slow ++ rest (AbSym.slow true)
  else
    let (s, k) := dynStuff true true 0 u
    let sc := stuffCount k
    let n := fdCrcLen data.length
    let f := fixStuff 0 (s.getLastD true) (sc ++ msbBits n (fdCrc data.length (s ++ sc)))
    -- the bits BRS and res on the wire
    let at_ := stuffedSpan ((if bit w0 31 then 35 else 16) + 1) true 0 u - 1
    let resAt := stuffedSpan (if bit w0 31 then 35 else 16) true 0 u - 1
    let sym (i : Nat) (v : Bool) : AbSym :=
      { v := v, lead := brs && decide (at_ < i), trail := brs && decide (at_ ≤ i), res := decide (i = resAt), ack := false }
    let w := s ++ f
    ((List.range w.length).map fun i => sym i (w.getD i true)) ++
      rest { AbSym.slow true with lead := brs }

/-! The transmitter's own bits (R424, R425). -/

/-- R424, R425: a bit that a transmitter sends: its start, its sample point, the end that the sample point gives it, the instant of its
reading and the reading, and the loop delay measured so far. -/
structure TxBit where
  start : Nat
  sample : Nat
  fin : Nat
  readAt : Nat
  ok : Bool
  loop : Option Nat
  deriving DecidableEq, Repr

/-- R424, R425: the bit `y`, the next bit of a transmitter, with AB_RXD as `edges` gives it. `t` is the end of the bit before, `ps` its
sample point, `own` its level, `loop` the loop delay measured so far. A transmitter does not resynchronise on an edge that follows its
own dominant bit, nor on the echo of its own edge. `ok` says that the bit reads as sent, and the ACK slot dominant. -/
def AbCell.txBit (c : AbCell) (edges falls : List Nat) (t ps : Nat) (own : Bool) (loop : Option Nat) (y : AbSym) : TxBit :=
  let p := c.phase y.lead
  let b := resync p falls ps t fun e => own && (decide (e < t) || y.v)
  let loop1 := if y.res then (falls.find? fun e => decide (b ≤ e)).map (· - b) else loop
  let s := b + p.lead
  let far := y.lead && bit c.cfg 13
  let at_ := if far then b + loop1.getD 0 + fldN c.cfg 4 9 else s
  let r := if far then levelOf edges at_ else c.readAt y.lead edges s
  { start := b, sample := s, fin := s + (c.phase y.trail).trail, readAt := at_, ok := r == (!y.ack && y.v), loop := loop1 }

/-- The bits that a transmitter sends, sampled on AB_RXD: the end of the last bit and the loop delay; none where one of
them reads otherwise than sent or the ACK slot reads recessive. -/
def AbCell.txWalk (c : AbCell) (edges falls : List Nat) (t ps : Nat) (own : Bool) (loop : Option Nat) :
    List AbSym → Option (Nat × Option Nat)
  | [] => some (t, loop)
  | y :: l =>
    let x := c.txBit edges falls t ps own loop y
    if x.ok then c.txWalk edges falls x.fin x.sample y.v x.loop l else none

/-- R424: the level that a transmitter drives at `now`, and the end of the bit that it belongs to, by the edges so far: recessive once
a bit has read otherwise than sent, and after the last one. -/
def AbCell.txLevel (c : AbCell) (edges falls : List Nat) (now t ps : Nat) (own : Bool) (loop : Option Nat) :
    List AbSym → Bool × Nat
  | [] => if now < t then (own, t) else (true, now)
  | y :: l =>
    let x := c.txBit edges falls t ps own loop y
    if now < x.start then (own, x.start)
    else if x.readAt ≤ now ∧ !x.ok then (if now < x.fin then (y.v, x.fin) else (true, now))
    else c.txLevel edges falls now x.fin x.sample y.v x.loop l

/-! The receiver (R424, R426, R433). -/

/-- What a receiver has sampled of a frame: the start of the next bit, the last sample point and its level, the run of equal
levels, the bits without and with their stuff bits, the stuff bits so far, and the bits after the stuffed part. -/
structure AbScan where
  t : Nat
  ps : Nat
  last : Bool
  run : Nat
  u : List Bool
  raw : List Bool
  stuffs : Nat
  tail : List Bool
  deriving DecidableEq, Repr

def fdAt (u : List Bool) : Nat := if u.getD 13 false then 33 else 14
def isFd (u : List Bool) : Bool := u.getD (fdAt u) false
/-- BRS has been read recessive. -/
def isFast (u : List Bool) : Bool := isFd u && u.getD (fdAt u + 2) false
/-- The number of bits from SOF to DLC. -/
def headLen (u : List Bool) : Nat := if isFd u then fdAt u + 8 else if u.getD 13 false then 39 else 19
/-- The number of a list of bits, the first bit highest. -/
def natMsb (l : List Bool) : Nat := l.foldl (fun x b => 2 * x + b2n b) 0
def rxDlc (u : List Bool) : Nat := natMsb ((u.drop (headLen u - 4)).take 4)
def rxRtr (u : List Bool) : Bool := !isFd u && u.getD (if u.getD 13 false then 32 else 12) false
def rxLen (u : List Bool) : Nat := if rxRtr u then 0 else dlcLen (isFd u) (rxDlc u)
/-- The number of bits of the part with dynamic stuff bits, once the bits read give it. -/
def stuffedPart (u : List Bool) : Option Nat :=
  if u.length ≤ 33 ∧ u.length ≤ fdAt u ∨ u.length < headLen u then none
  else some (headLen u + 8 * rxLen u + (if isFd u then 0 else 15))

/-- The bits between the stuffed part and the CRC delimiter. -/
def fixedPart (u : List Bool) : Nat := if isFd u then let n := fdCrcLen (rxLen u); 5 + n + (n + 3) / 4 else 0

/-- R424: the next bit is sampled; `hard` on the edge from FDF to res, `still` where the cell itself drives the bit dominant. -/
def AbCell.rxBit (c : AbCell) (edges falls : List Nat) (a : AbScan) (lead : Bool) (trail : Bool → Bool)
    (hard still : Bool) : Bool × AbScan :=
  let p := c.phase lead
  let b0 := if a.last && !still then resync p falls a.ps a.t (fun _ => true) else a.t
  -- ISO 11898-1: the edge from FDF to res synchronises hard
  let b := if hard ∧ a.last then ((falls.find? fun e => decide (a.ps < e ∧ e ≤ a.t + p.lead)).getD b0) else b0
  let s := b + p.lead
  let v := c.readAt lead edges s
  (v, { a with t := s + (c.phase (trail v)).trail, ps := s, last := v, run := if v = a.last ∧ a.run ≠ 0 then a.run + 1 else 1 })

/-- One bit of the frame; none at a stuff or form error, or at a format that the cell does not take. -/
def AbCell.rxStep (c : AbCell) (edges falls : List Nat) (a : AbScan) : Option AbScan :=
  let k := a.u.length
  let part := stuffedPart a.u
  let fast := isFast a.u
  let more := match part with | some n => decide (k < n) | none => true
  if more || (decide (a.tail = []) && decide (a.run = 5) && !isFd a.u) then
    if a.run = 5 then
      let (v, a1) := c.rxBit edges falls a fast (fun _ => fast) false false
      if v = a.last then none else some { a1 with run := 1, raw := a.raw ++ [v], stuffs := a.stuffs + 1 }
    else
      let brs := isFd a.u && decide (k = fdAt a.u + 2)
      let res := isFd a.u && decide (k = fdAt a.u + 1)
      let (v, a1) := c.rxBit edges falls a fast (fun v => fast || (brs && v)) res false
      if (decide (k = 0) && v) || (res && v) || (decide (k = fdAt a.u) && decide (13 < k) && v && !bit c.cfg 18) then none
      else some { a1 with u := a.u ++ [v], raw := a.raw ++ [v] }
  else
    let j := a.tail.length
    let n := fixedPart a.u
    let quick := fast && decide (j ≤ n)
    let (v, a1) := c.rxBit edges falls a quick (fun _ => fast && decide (j < n)) false
      (decide (j = n + 1) && decide (fldN c.cfg 20 2 ≠ 2))
    if decide (j < n) && decide (j % 5 = 0) && decide (v = a.last) then none
    else if (decide (j = n) || decide (n + 1 < j)) && !v then none
    else some { a1 with tail := a.tail ++ [v] }

/-- The frame up to the last bit but one of its end-of-frame field, where it is valid for a receiver (R433); `fuel` bits. -/
def AbCell.rxScan (c : AbCell) (edges falls : List Nat) (a : AbScan) : Nat → Option AbScan
  | 0 => none
  | f + 1 =>
    if (stuffedPart a.u).isSome ∧ a.tail.length = fixedPart a.u + 9 then some a
    else (c.rxStep edges falls a).bind fun a1 => c.rxScan edges falls a1 f

/-- The CRC delimiter has been read. -/
def AbScan.atAck (a : AbScan) : Bool := (stuffedPart a.u).isSome && decide (a.tail.length = fixedPart a.u + 1)

/-- The bits of an FD frame's fixed part without its stuff bits. -/
def unfix : Nat → List Bool → List Bool
  | _, [] => []
  | 0, _ :: l => unfix 4 l
  | k + 1, b :: l => b :: unfix k l

/-- The bytes of bits, most significant bit first. -/
def octets (l : List Bool) : List Byte :=
  (List.range (l.length / 8)).map fun i => BitVec.ofNat 8 (natMsb ((l.drop (8 * i)).take 8))

/-- The CRC sequence, and the stuff count of an FD frame, agree with the bits before them. -/
def AbScan.crcOk (a : AbScan) : Bool :=
  let n := rxLen a.u
  if isFd a.u then
    let f := unfix 0 (a.tail.take (fixedPart a.u))
    decide (f.take 4 = stuffCount a.stuffs) &&
      decide (f.drop 4 = msbBits (fdCrcLen n) (fdCrc n (a.raw ++ f.take 4)))
  else
    let m := headLen a.u + 8 * n
    decide (a.u.drop m = msbBits 15 (crc15 (a.u.take m)))

/-- The frame that the bits hold (R427, R434). -/
def AbScan.frame (a : AbScan) : AbRx :=
  let u := a.u
  let ext := u.getD 13 false
  let fd := isFd u
  let top := natMsb ((u.drop 1).take 11)
  let low := if ext then natMsb ((u.drop 14).take 18) else 0
  { w0 := putB 31 ext ||| putB 30 (rxRtr u) ||| putB 29 fd ||| put 18 top ||| put 0 low,
    brs := isFast u, esi := fd && u.getD (fdAt u + 3) false, dlc := Fin.ofNat 16 (rxDlc u),
    data := octets ((u.drop (headLen u)).take (8 * rxLen u)) }

/-- The edges `l` of AB_RXD as ns from TD0 = `t0`, each rounded down to whole ns (R424). -/
def edgeNs (t0 : W64) (l : List Instant) : List Nat := l.map fun e => (e.ns - t0).toNat

/-- A receiver at the SOF edge. -/
def AbScan.start : AbScan := { t := 0, ps := 0, last := false, run := 0, u := [], raw := [], stuffs := 0, tail := [] }

/-- R424, R426, R433: the frame whose SOF edge has the stamp `es` and whose later edges on AB_RXD are `l`: what it holds, and
the ns from its SOF to its last bit but one and to the end of its last bit; none where it is not received valid. -/
def AbCell.receive (c : AbCell) (es : Instant) (l : List Instant) : Option (AbRx × Nat × Nat) :=
  let edges := edgeNs es.ns (es :: l)
  (c.rxScan edges (fallsOf edges) .start 1000).bind fun a =>
    if a.crcOk then some (a.frame, a.ps, a.t + c.nominal.lead + c.nominal.trail) else none

/-- R422, R440: a receiver whose bits so far are `a` drives its ACK slot dominant at `now`: the CRC agrees, and the slot follows the
CRC delimiter. -/
def AbCell.rxAck (c : AbCell) (edges falls : List Nat) (now : Nat) (a : AbScan) : Nat → Bool
  | 0 => false
  | f + 1 =>
    if now < a.t then false
    else if a.atAck then a.crcOk && decide (now < a.t + c.nominal.lead + c.nominal.trail)
    else match c.rxStep edges falls a with
      | some a1 => c.rxAck edges falls now a1 f
      | none => false

/-- The same for the frame whose SOF edge has the stamp `es` and whose later edges so far are `l`. -/
def AbCell.acks (c : AbCell) (es : Instant) (l : List Instant) (g : W64) : Bool :=
  let edges := edgeNs es.ns (es :: l)
  c.rxAck edges (fallsOf edges) (g - es.ns).toNat .start 1000

/-- R424, R425: the frame that the cell sends from TD0 = `t0`, whose edges on AB_RXD are `l`: the ns to its end and the loop
delay; none where it does not complete without error. -/
def AbCell.transmit (c : AbCell) (t0 : W64) (l : List Instant) (w : List AbSym) : Option (Nat × Option Nat) :=
  let edges := edgeNs t0 l
  c.txWalk edges (fallsOf edges) 0 0 true none w

/-- R424: the level that the cell drives at TD0 = `g`, sending from TD0 = `t0` with the edges `l` so far, and the end of that bit. -/
def AbCell.driving (c : AbCell) (t0 : W64) (l : List Instant) (w : List AbSym) (g : W64) : Bool × W64 :=
  let edges := edgeNs t0 l
  let x := c.txLevel edges (fallsOf edges) (g - t0).toNat 0 0 true none w
  (x.1, t0 + BitVec.ofNat 64 x.2)

/-- The level at `n` ns into such a list, recessive after its end. -/
def driveAt : List (Bool × Nat) → Nat → Bool
  | [], _ => true
  | (v, d) :: l, n => if n < d then v else driveAt l (n - d)

end Sys2Proof.Machine
end

