-- ==== Sys2Proof/Machine/Arb.lean ====
section
/-! DEFINITION. The arbitrated-bus cells: buffers, arbitration, frames, fault confinement, states (spec/16_arbitrated_buses.md). -/

namespace Sys2Proof.Machine

def State.modAb (s : State) (k : Fin 16) (f : AbCell → AbCell) : State := { s with abs_ := s.abs_.mod k f }

def AbCell.en (c : AbCell) : Bool := bit c.cfg 0
def AbCell.mode (c : AbCell) : Nat := fldN c.cfg 20 2
def AbCell.fden (c : AbCell) : Bool := bit c.cfg 18
def AbCell.dar (c : AbCell) : Bool := bit c.cfg 16
def AbCell.sdom (c : AbCell) : Fin 8 := Fin.ofNat 8 (fldN c.cfg 24 3)
def AbCell.ntq (c : AbCell) : Nat := fldN c.nbt 22 10
def AbCell.nseg1 (c : AbCell) : Nat := fldN c.nbt 14 8 + 1
def AbCell.nseg2 (c : AbCell) : Nat := fldN c.nbt 7 7 + 1
def AbCell.nsjw (c : AbCell) : Nat := fldN c.nbt 0 7 + 1
def AbCell.dtq (c : AbCell) : Nat := fldN c.dbt 22 10
def AbCell.dseg1 (c : AbCell) : Nat := fldN c.dbt 17 5 + 1
def AbCell.dseg2 (c : AbCell) : Nat := fldN c.dbt 13 4 + 1
def AbCell.dsjw (c : AbCell) : Nat := fldN c.dbt 9 4 + 1
/-- The nominal bit time (R423). -/
def AbCell.bitNs (c : AbCell) : Nat := c.ntq * (1 + c.nseg1 + c.nseg2)
/-- The data bit time (R423). -/
def AbCell.dataNs (c : AbCell) : Nat := c.dtq * (1 + c.dseg1 + c.dseg2)

/-- R423: the bit timing is valid. -/
def AbCell.timingOk (c : AbCell) : Bool :=
  decide (2 ≤ c.ntq ∧ 2 ≤ c.dtq) && decide (1000 ≤ c.bitNs ∧ c.bitNs ≤ 100000) &&
    (!c.fden || decide (125 ≤ c.dataNs ∧ c.dataNs ≤ c.bitNs)) && decide (c.nsjw ≤ c.nseg2 ∧ c.dsjw ≤ c.dseg2) &&
    (!bit c.cfg 17 || decide (8000 ≤ c.bitNs ∧ 3 ≤ c.nseg1))

/-- The common region is out of reset and TD0 counts: the cell is not in HOLD. -/
def State.abLive (s : State) : Bool := s.up && s.ticking

/-! Fault confinement (R438, R439). -/

/-- ESTATE: 0 error-active, 1 error-passive, 2 bus-off. -/
def AbCell.estate (c : AbCell) : Nat :=
  if 255 < c.tec then 2 else if 127 < c.tec ∨ 127 < c.rec_ then 1 else 0

def AbCell.clearFrame (c : AbCell) : AbCell := { c with frame := none }

/-- New counter values: EPASS, BOFF and the entry into BUSOFF. -/
def AbCell.counters (c : AbCell) (tec rec_ : Nat) : AbCell :=
  let c1 := { c with tec := min tec 511, rec_ := min rec_ 255 }
  let c2 := { c1 with epass := c1.epass || (decide (c.estate ≠ 1) && decide (c1.estate = 1)),
                      boff := c1.boff || (decide (c.estate ≠ 2) && decide (c1.estate = 2)) }
  if c1.estate = 2 ∧ (c.st = .run ∨ c.st = .integ) then
    { c2 with st := .busOff, frame := none, errFrame := false, drive := none, recovering := bit c.cfg 15 }
  else c2

/-- Counters change only in NORMAL (R440). -/
def AbCell.addTec (c : AbCell) (n : Nat) : AbCell := if c.mode = 0 then c.counters (c.tec + n) c.rec_ else c
def AbCell.addRec (c : AbCell) (n : Nat) : AbCell := if c.mode = 0 then c.counters c.tec (c.rec_ + n) else c

/-! Transmit buffers (R427 to R432). -/

def AbCell.tb (c : AbCell) (b : Fin 8) (w : Nat) : W32 := sparseGet 0 c.tbw (32 * b.val + w)

/-- A word of the buffer holds an uncorrectable error. -/
def AbCell.tbBad (c : AbCell) (b : Fin 8) : Bool := c.tbad.any fun w => w / 32 = b.val

def TbSt.final : TbSt → Bool
  | .sent => true
  | .cancelled => true
  | .dropped => true
  | .tooLate => true
  | .failed => true
  | _ => false

/-- The buffer reaches a final state. -/
def AbCell.finish (c : AbCell) (b : Fin 8) (st : TbSt) : AbCell :=
  { c with tbs := c.tbs.upd b { TxBuf.reset with st := st }, txF := true }

/-- The bits of word 0 in the order of the arbitration field, as a number (R429). -/
def arbKey (w0 : W32) : Nat :=
  let rtr := b2n (bit w0 30 && !bit w0 29)
  let id11 := fldN w0 18 11
  if bit w0 31 then id11 * 2 ^ 21 + 2 ^ 20 + 2 ^ 19 + fldN w0 0 18 * 2 + rtr else id11 * 2 ^ 21 + rtr * 2 ^ 20

/-- The bits from SOF to the end of the arbitration field, without stuff bits (R431). -/
def arbBits (w0 : W32) : List Bool :=
  let rtr := bit w0 30 && !bit w0 29
  let top := (List.range 11).map fun i => bit w0 (28 - i)
  if bit w0 31 then [false] ++ top ++ [true, true] ++ ((List.range 18).map fun i => bit w0 (17 - i)) ++ [rtr]
  else [false] ++ top ++ [rtr]

/-- How many bit times the bits take on the bus, with a stuff bit after five equal bits. -/
def stuffedLen : List Bool → Bool → Nat → Nat
  | [], _, _ => 0
  | b :: r, last, run =>
    -- a stuff bit goes before `b` where five equal bits came before it
    if run = 5 then 2 + stuffedLen r b (if b = !last then 2 else 1)
    else 1 + stuffedLen r b (if b = last then run + 1 else 1)

/-- The due buffers, in the order of arbitration; the cell offers the first (R429). -/
def AbCell.offer (c : AbCell) : Option (Fin 8) :=
  (List.ofFn fun b : Fin 8 => b).foldl (init := none) fun acc b =>
    let t := c.tbs.at b
    if t.st = .pending ∧ t.due then
      match acc with
      | none => some b
      | some a => if arbKey (c.tb b 0) < arbKey (c.tb a 0) then some b else some a
    else acc

/-- R445, R446: an uncorrectable error in buffer `b`, at its first word that holds one, has the effect `f` on the cell. -/
def State.abTbEcc (s : State) (k : Fin 16) (b : Fin 8) (f : AbCell → AbCell) : State :=
  let w := ((s.abs_.at k).tbad.find? fun w => w / 32 = b.val).getD 0
  ((s.modAb k f).arrayUnc none (0x1F2000 + 0x400 * k.val + 4 * w)).breachOf (s.abOwner k) .ecc

/-- R428, R430: a request for buffer `b`. -/
def State.abRequest (s : State) (k : Fin 16) (b : Fin 8) : State :=
  let c := s.abs_.at k
  let t := c.tbs.at b
  if t.st ≠ .idle ∧ !t.st.final then s.modAb k fun c => { c with cfgIgn := true }
  else if c.tbBad b then s.abTbEcc k b fun c => c.finish b .failed
  else
    let w0 := c.tb b 0
    let w3 := c.tb b 3
    let ns : BitVec 40 := fld w3 0 8 ++ c.tb b 2
    if bit w0 29 ∧ (bit w0 30 ∨ !c.fden) then s.modAb k fun c => c.finish b .failed
    else if !bit w3 31 then
      s.modAb k fun c => { c with tbs := c.tbs.upd b { TxBuf.reset with st := .pending, due := true } }
    else
      let d := s.beryl.doms.at (Fin.ofNat 8 (fldN w3 8 3))
      if !d.leadLate ns s.beryl.g then
        s.modAb k fun c => { c with tbs := c.tbs.upd b { TxBuf.reset with st := .pending, due := d.dueAt ns s.beryl.g } }
      else
        let pol := if (s.abOwner k).isSome then 2 else fldN c.cfg 22 2
        match pol with
        | 0 => s.modAb k fun c => { c.finish b .dropped with late := true }
        | 1 => s.modAb k fun c =>
            { c with late := true, tbs := c.tbs.upd b { TxBuf.reset with st := .pending, execAt := some (s.now + 24) } }
        | _ =>
          (s.modAb k fun c => 
            { c.finish b .dropped with
              late := true,
              faultAt := if c.st = .off ∨ c.st = .fault then c.faultAt else some (c.faultAt.getD (s.now + 24)) }).breachOf
            (s.abOwner k) .late

/-- R429: buffer `b` reaches its due instant. -/
def State.abDue (s : State) (k : Fin 16) (b : Fin 8) : State :=
  let c := s.abs_.at k
  let t := c.tbs.at b
  let w3 := c.tb b 3
  let ns : BitVec 40 := fld w3 0 8 ++ c.tb b 2
  let due : Bool := match t.execAt with
    | some g => notBefore s.now g
    | none => (s.beryl.doms.at (Fin.ofNat 8 (fldN w3 8 3))).dueAt ns s.beryl.g
  if s.up ∧ t.st = .pending ∧ !t.due ∧ due then
    s.modAb k fun c => { c with tbs := c.tbs.mod b fun t => { t with due := true } }
  else s

/-- R431: a cancel of buffer `b`. -/
def AbCell.cancel (c : AbCell) (b : Fin 8) : AbCell :=
  match (c.tbs.at b).st with
  | .pending => c.finish b .cancelled
  | .active => { c with tbs := c.tbs.mod b fun t => { t with cancel := true } }
  | _ => c

/-! Frames (R429 to R437). -/

/-- R437: the watermark of the receive queue at TD0 = `g`. A frame that has been received valid has been pushed or discarded. -/
def AbCell.markAt (c : AbCell) (g : W64) : W64 :=
  let quiet := g - BitVec.ofNat 64 c.twa
  let now := match c.frame with
    | some f => if f.endAt.isSome && f.offered.isNone then quiet else f.es.ns
    | none => quiet
  if notBefore now c.mark then now else c.mark

/-- R437: the watermark now. -/
def State.abMark (s : State) (k : Fin 16) : W64 := (s.abs_.at k).markAt s.now

/-- The offered buffer has lost arbitration (R429, R431). -/
def AbCell.lost (c : AbCell) : AbCell :=
  match c.frame with
  | some { offered := some b, .. } =>
    if (c.tbs.at b).cancel then c.finish b .cancelled
    else { c with tbs := c.tbs.mod b fun t => { t with st := .pending, cancel := false } }
  | _ => c

def AbCell.toOff (c : AbCell) : AbCell :=
  { c with st := .off, cfg := c.cfg &&& ~~~1, frame := none, errFrame := false, drive := none, recovering := false,
           faultAt := none }

/-- R423, R437, R440: EN set by the configuration `v` at TD0 = `g`: refused, or with TWA fixed. -/
def AbCell.arm (c : AbCell) (v : W32) (g : W64) : AbCell :=
  let c1 := { c with cfg := v, enRec := none }
  let refuse (k : AbCause) : AbCell := { c1 with cfg := v &&& ~~~1, cfgErr := true, cause := k }
  if !c1.timingOk then refuse .timing
  else if c1.mode = 3 then refuse .mode
  else { c1 with enAt := g, twa := c1.bitNs + 8 }

/-- R442: the enable in OFF. -/
def AbCell.enable (c : AbCell) (v : W32) (g : W64) : AbCell :=
  let c1 := c.arm v g
  if c1.en then
    { c1 with st := .integ, tec := 0, rec_ := 0, ackRun := 0, frame := none, errFrame := false, drive := none, recovering := false }
  else c1

/-- A write of ABk_CFG as OFF takes it. -/
def AbCell.cfgOff (c : AbCell) (v : W32) (g : W64) : AbCell :=
  if bit v 0 then c.enable v g else { c with cfg := v, enRec := none }

/-- ABk_CFG as it reads. In DRAINING, with EN at 0, it holds the fields last written, which apply in OFF (DESIGN CHOICE,
log 11), and EN reads 0. -/
def AbCell.cfgWord (c : AbCell) : W32 :=
  match c.enRec with
  | some v => v &&& ~~~1
  | none => c.cfg

/-- The end of the frame in progress: a cell in DRAINING reaches OFF, and the last write of it applies (R354, R442). -/
def AbCell.frameEnd (c : AbCell) (g : W64) : AbCell :=
  let c1 := c.clearFrame
  if c1.st = .draining then
    match c1.enRec with
    | some v => c1.toOff.cfgOff v g
    | none => c1.toOff
  else c1

/-- R442, R443: the cell at TD0 = `g`: a frame whose end has come is over. -/
def AbCell.settle (c : AbCell) (g : W64) : AbCell :=
  match c.frame.bind AbFrame.endAt with
  | some e => if notBefore g e then ({ c.lost with mark := c.markAt e }).frameEnd e else c
  | none => c

/-- The cells as they stand now. -/
def State.abSettled (s : State) : State := if s.abLive then { s with abs_ := s.abs_.map fun c => c.settle s.now } else s

/-- A write of ABk_TXREQ. -/
def State.abTxReq (s : State) (k : Fin 16) (v : W32) : State :=
  (List.ofFn fun b : Fin 8 => b).foldl (init := s.abSettled) fun s b => if bit v b.val then s.abRequest k b else s

/-- A write of ABk_TXCAN. -/
def State.abTxCan (s : State) (k : Fin 16) (v : W32) : State :=
  s.abSettled.modAb k fun c => (List.ofFn fun b : Fin 8 => b).foldl (init := c) fun c b => if bit v b.val then c.cancel b else c

/-- The data bytes of a transmit buffer. -/
def AbCell.tbData (c : AbCell) (b : Fin 8) : List Byte :=
  let w0 := c.tb b 0
  let n := if bit w0 30 then 0 else dlcLen (bit w0 29) (fldN (c.tb b 1) 24 4)
  ((List.range 16).flatMap fun i => wordBytes (c.tb b (4 + i))).take n

/-- The frame of buffer `b` as the cell sends it (R422, R427, R438). -/
def AbCell.wire (c : AbCell) (b : Fin 8) : List AbSym :=
  let w0 := c.tb b 0
  let w1 := c.tb b 1
  abFrameBits w0 (bit w1 31 && bit w0 29) (bit w0 29 && decide (c.estate = 1)) (fldN w1 24 4) (c.tbData b)

/-- What the cell drives in the frame `f` at TD0 = `g`: the frame it sends, by its bit timing on the edges so far (R424), or the ACK
slot of the frame it receives (R422, R440). -/
def AbCell.frameLevel (c : AbCell) (f : AbFrame) (g : W64) : Bool :=
  match f.offered with
  | some b => (c.driving f.sof (f.es :: f.edges) (c.wire b) g).1
  | none => decide (c.mode = 2) || !c.acks f.es f.edges g

/-- AB_TXD of cell `k` now, true where it is recessive (R84, R93, R424, R440, R442). With VAO absent the pad shows the
integrator's default, which is no value of the block. The delay TLAUNCH is left out. -/
def State.abTxd (s : State) (k : Fin 16) : Bool :=
  let c := s.abSettled.abs_.at k
  if s.abLive ∧ (c.st = .run ∨ c.st = .draining) then
    match c.frame, c.drive with
    | some f, _ => c.frameLevel f s.now
    | none, some d => if notBefore s.now d.at_ then driveAt d.bits (s.now - d.at_).toNat else true
    | none, none => true
  else true

/-- The length of the arbitration field of the frame that the cell offers, in ns from its SOF (R431). -/
def AbCell.arbNs (c : AbCell) (b : Fin 8) : Nat := c.bitNs * stuffedLen (arbBits (c.tb b 0)) true 0

/-- R429: a start of frame at TD0 = now, with the capture stamp `es` of its edge; `own` when the cell starts it. A cell that
joins at another node's SOF synchronises on its edge. -/
def State.abSof (s0 : State) (k : Fin 16) (es : Instant) (own : Bool) : State :=
  let s := s0.abSettled
  let c := s.abs_.at k
  if s.abLive ∧ c.st = .run ∧ c.frame = none ∧ !c.errFrame then
    let t0 := if own then s.now else es.ns
    let off := if c.mode = 0 then c.offer else none
    let frame (b : Option (Fin 8)) : AbFrame :=
      { es := es, sof := t0, offered := b, filters := c.filt, edges := [], endAt := none }
    match own, off with
    | true, none => s
    | _, some b =>
      if c.tbBad b then
        s.abTbEcc k b fun c =>
          let c1 := c.finish b .failed
          if own then c1
          else { c1 with frame := some (frame none), drive := none }
      else s.modAb k fun c =>
        { c with tbs := c.tbs.mod b fun t => { t with st := .active, retry := false },
                 frame := some (frame (some b)), loop := none, drive := none }
    | false, none => s.modAb k fun c => { c with frame := some (frame none), drive := none }
  else s

/-- R424: an edge on AB_RXD in the frame, by its capture stamp. -/
def State.abEdge (s0 : State) (k : Fin 16) (e : Instant) : State :=
  let s := s0.abSettled
  s.modAb k fun c => if s.abLive then { c with frame := c.frame.map fun f : AbFrame => { f with edges := f.edges ++ [e] } } else c

/-- R429, R431: the buffer offered loses arbitration, in its arbitration field: it is PENDING again, or CANCELLED where a
cancel waits; the cell receives the frame, and AB_TXD is recessive. -/
def State.abLost (s0 : State) (k : Fin 16) : State :=
  let s := s0.abSettled
  let c := s.abs_.at k
  match c.frame with
  | some f =>
    match f.offered with
    | some b =>
      if s.abLive ∧ (c.st = .run ∨ c.st = .draining) ∧ f.endAt = none ∧ !notBefore s.now (f.sof + BitVec.ofNat 64 (c.arbNs b)) then
        s.modAb k fun c => { c.lost with frame := some { f with offered := none }, drive := none }
      else s
    | none => s
  | none => s

/-- TSCNT at TD0 = `g` (R434). -/
def AbCell.tscnt (c : AbCell) (g : W64) : BitVec 16 :=
  BitVec.ofNat 16 (if c.bitNs = 0 then 0 else (g - c.enAt).toNat / c.bitNs)

/-- TSCNT at the sample point of the SOF bit whose edge has the stamp `es` (R434). -/
def AbCell.tsAt (c : AbCell) (es : Instant) : BitVec 16 := c.tscnt (es.ns + BitVec.ofNat 64 (c.ntq * (1 + c.nseg1)))

/-- R436: the entries of a frame in the receive queue. -/
def abEntries (w0 w1 : W32) (data : List Byte) (es : Instant) (lost : Bool) : List Quad :=
  let e : BitVec 42 := es.ns.setWidth 40 ++ es.q
  let w2 := e.setWidth 32
  let top := put 0 (e.toNat / 2 ^ 32)
  let n := (data.length + 7) / 8
  { w0 := w0, w1 := w1 ||| putB 28 lost, w2 := w2, w3 := put 30 2 ||| top } ::
    (List.range n).map fun i =>
      { w0 := bytesWord (data.drop (8 * i)), w1 := bytesWord (data.drop (8 * i + 4)), w2 := w2,
        w3 := put 30 (if i + 1 = n then 1 else 0) ||| top }

/-- R436: a frame goes to the receive queue, or is discarded. -/
def State.abPush (s : State) (k : Fin 16) (q : List Quad) : State :=
  let c := s.abs_.at k
  if c.rxq.length + q.length ≤ 64 then s.modAb k fun c => { c with rxq := c.rxq ++ q, qlost := false }
  else (s.modAb k fun c => { c with qovf := true, qlost := true }).breachOf (s.abOwner k) .overflow

/-- R424, R425, R432: the frame `f` of buffer `b` has completed without error by TD0 = `g`: the loop delay measured in it; none
otherwise. -/
def AbCell.sentBy (c : AbCell) (f : AbFrame) (b : Fin 8) (g : W64) : Option (Option Nat) :=
  (c.transmit f.sof (f.es :: f.edges) (c.wire b)).bind fun (n, loop) =>
    if f.endAt.isNone ∧ notBefore g (f.sof + BitVec.ofNat 64 n) then some loop else none

/-- R424, R433: what the frame `f`, which another node sends, holds, where it has been received valid by TD0 = `g`, and the instant
of its end. -/
def AbCell.receivedBy (c : AbCell) (f : AbFrame) (g : W64) : Option (AbRx × W64) :=
  (c.receive f.es f.edges).bind fun (r, n, e) =>
    if f.endAt.isNone ∧ f.offered.isNone ∧ notBefore g (f.es.ns + BitVec.ofNat 64 n) then some (r, f.es.ns + BitVec.ofNat 64 e)
    else none

/-- R432, R433: the offered frame completes without error. -/
def State.abSent (s : State) (k : Fin 16) : State :=
  let c := s.abs_.at k
  match c.frame with
  | none => s
  | some f =>
    match f.offered, s.abLive && decide (c.st = .run ∨ c.st = .draining) with
    | some b, true =>
      match c.sentBy f b s.now with
      | none => s
      | some loop =>
        let t := c.tbs.at b
        let esi := decide (c.estate = 1) && bit (c.tb b 0) 29
        let w1 := putB 31 (bit (c.tb b 1) 31) ||| putB 30 esi ||| putB 29 true ||| put 24 (fldN (c.tb b 1) 24 4) |||
          put 8 (c.tsAt f.es).toNat
        let q := abEntries (c.tb b 0) w1 (c.tbData b) f.es c.qlost
        let m := s.abMark k
        let s1 := s.modAb k fun c =>
          (({ c.finish b (if t.cancel then .tooLate else .sent) with ackRun := 0, loop := loop, mark := m }).counters
            (c.tec - 1) c.rec_).frameEnd s.now
        if bit c.cfg 14 then s1.abPush k q else s1
    | _, _ => s

/-- R433: the filter that accepts word 0 of a frame. A filter with a word of `bad`, which holds an uncorrectable error,
accepts none (DESIGN CHOICE, log 11). -/
def abFilter (bad : List Nat) (filters : List (Nat × W32)) (w0 : W32) : Option (Fin 16) :=
  (List.ofFn fun f : Fin 16 => f).find? fun f => !(bad.any fun w => w / 4 = f.val) &&
    let a := sparseGet 0 filters (4 * f.val)
    let m := sparseGet 0 filters (4 * f.val + 1) &&& 0x1FFFFFFF
    bit a 31 && (bit a 30 == bit w0 31) && decide ((a ^^^ w0) &&& m = 0)

/-- A receive buffer's words 4 up with `data` written. -/
def AbCell.writeRb (c : AbCell) (b : Fin 16) (head : List W32) (data : List Byte) : AbCell :=
  let base := 32 * b.val
  let w := (List.range 4).foldl (init := c.rbw) fun m i => sparseSet 0 m (base + i) (head.getD i 0)
  { c with rbw := setWords w (base + 4) data ((data.length + 3) / 4),
           rbad := c.rbad.filter fun x => !(decide (base ≤ x) && decide (x < base + 32)) }

/-- R445: an uncorrectable error in the filters, which every frame received meets. -/
def State.abFilterEcc (s : State) (k : Fin 16) : State :=
  match (s.abs_.at k).fbad with
  | [] => s
  | w :: _ => (s.arrayUnc none (0x1FE000 + 0x100 * k.val + 4 * w)).breachOf (s.abOwner k) .ecc

/-- R433 to R438: the frame in progress, which another node sends, is received valid. It ends with the last bit of its end-of-frame
field. -/
def State.abReceived (s0 : State) (k : Fin 16) : State :=
  let c := s0.abs_.at k
  match c.frame with
  | none => s0
  | some f =>
    match decide (s0.abLive ∧ (c.st = .run ∨ c.st = .draining)), c.receivedBy f s0.now with
    | true, some (r, e) =>
      let s := s0.abFilterEcc k
      let pick := s.free
      let rec1 := if 127 < c.rec_ then 119 + (Config.recAfter pick).val else c.rec_ - 1
      let s0 := if 127 < c.rec_ ∧ c.mode = 0 then { s with free := pick + 1 } else s
      let m := s0.abMark k
      let s1 := s0.modAb k fun c =>
        let c1 := { c with ackRun := 0, mark := m, frame := some { f with endAt := some e } }
        if c.mode = 0 then c1.counters c.tec rec1 else c1
      let data := if bit r.w0 30 then [] else r.data
      match abFilter c.fbad f.filters r.w0 with
      | none => s1
      | some j =>
        let a := sparseGet 0 f.filters (4 * j.val)
        let mk := sparseGet 0 f.filters (4 * j.val + 1)
        let w1 := putB 31 r.brs ||| putB 30 r.esi ||| put 24 r.dlc.val ||| put 8 (c.tsAt f.es).toNat ||| put 0 j.val
        let t : W64 := (s.beryl.convert 0 c.sdom f.es.fix).1.extractLsb' 16 64
        let s2 := if bit mk 31 then
            let b : Fin 16 := Fin.ofNat 16 (fldN (sparseGet 0 f.filters (4 * j.val + 2)) 0 4)
            s1.modAb k fun c =>
              let one : BitVec 16 := BitVec.ofNat 16 (2 ^ b.val)
              { c.writeRb b [r.w0, w1, lo32 t, hi32 t] data with
                rxnd := c.rxnd ||| one, rxovr := c.rxovr ||| (c.rxnd &&& one) }
          else s1
        if bit a 29 then s2.abPush k (abEntries r.w0 w1 data f.es c.qlost) else s2
    | _, _ => s0

/-- R432, R438 to R440: what an error in a frame does to the cell as its transmitter. -/
def AbCell.txError (c0 : AbCell) (b : Fin 8) (lec : Nat) (quiet arbStuff acked : Bool) : AbCell :=
  let c := if acked then { c0 with ackRun := 0 } else c0
  let passive := decide (c.estate = 1)
  let c1 := if lec = 3 then
      { c with ackRun := if c.ackRun < 255 then c.ackRun + 1 else 255, alone := c.alone || decide (c.ackRun + 1 = 16) }
    else c
  let c2 := if (c.tbs.at b).cancel then c1.finish b .cancelled
    else if c.dar then c1.finish b .failed
    else { c1 with tbs := c1.tbs.mod b fun t => { t with st := .pending, due := true, retry := true } }
  if (lec = 3 ∧ passive ∧ quiet) ∨ arbStuff then c2 else c2.addTec 8

/-- R430, R440, R443: the frame in progress ends in an error frame, whose flag starts at TD0 = `g`: six dominant bits, or
six recessive ones where the cell was error-passive. The frame is in progress until the error frame ends. -/
def AbCell.errorFlag (c : AbCell) (passive : Bool) (g : W64) : AbCell :=
  if c.st = .busOff then c
  else { c with frame := none, errFrame := true, drive := some { at_ := g, bits := [(passive, 6 * c.bitNs)] } }

/-- R438 to R440: the cell meets an error of the bus. The command of an error in a frame comes at the start of the error
flag (DESIGN CHOICE, log 11). -/
def State.abError (s0 : State) (k : Fin 16) (e : AbErr) : State :=
  let s := s0.abSettled
  let c := s.abs_.at k
  if s.abLive ∧ (c.st = .run ∨ c.st = .draining) then
    match e with
    | .frame lec tx quiet arbStuff acked =>
      let m := s.abMark k
      s.modAb k fun c =>
        let c0 := { c with lec := lec.val, mark := m }
        let c1 := match c.frame, tx with
          | some { offered := some b, .. }, true => c0.txError b lec.val quiet arbStuff acked
          | _, _ => c0.lost.addRec 1
        if c.mode = 0 then c1.errorFlag (decide (c.estate ≠ 0)) s.now
        else
          let c2 := c1.frameEnd s.now
          if c2.st = .run then { c2 with st := .integ, drive := none } else c2
    | .primary => s.modAb k fun c => c.addRec 8
    | .flagBit tx => s.modAb k fun c =>
        -- a dominant bit of the flag read recessive
        let c1 : AbCell := { c with lec := 5 }
        if tx then c1.addTec 8 else c1.addRec 8
    | .run tx => s.modAb k fun c => if tx then c.addTec 8 else c.addRec 8
    | .overload => s.modAb k fun c =>
        if c.mode = 0 ∧ c.st = .run ∧ (c.frame.all fun f => f.endAt.isSome && f.offered.isNone) ∧ !c.errFrame then
          { c.frameEnd s.now with drive := some { at_ := s.now, bits := [(false, 6 * c.bitNs)] } }
        else c
    | .ended => s.modAb k fun c => if c.errFrame then ({ c with errFrame := false }).frameEnd s.now else c
  else s

/-- R439: a recessive res or FDF bit. -/
def State.abException (s0 : State) (k : Fin 16) : State :=
  let s := s0.abSettled
  let c := s.abs_.at k
  if s.abLive ∧ (c.st = .run ∨ c.st = .draining) then
    if bit c.cfg 19 then
      let m := s.abMark k
      s.modAb k fun c =>
        let c1 := ({ c.lost with pxev := true, mark := m, drive := none }).frameEnd s.now
        if c1.st = .run then { c1 with st := .integ } else c1
    else s.abError k (.frame 2 false false false false)
  else s

/-- R430, R442: the cell enters FAULT after a late request. -/
def State.abFault (s0 : State) (k : Fin 16) : State :=
  let s := s0.abSettled
  let c := s.abs_.at k
  match c.faultAt with
  | none => s
  | some g =>
    if s.abLive ∧ notBefore s.now g ∧ c.frame = none ∧ !c.errFrame ∧ (c.st = .integ ∨ c.st = .run ∨ c.st = .busOff) then
      (s.modAb k fun c => { c with st := .fault, faultAt := none, drive := none, recovering := false }).breachOf (s.abOwner k) .late
    else s

/-- R442: eleven recessive bits in a row. -/
def State.abIntegDone (s0 : State) (k : Fin 16) : State :=
  let s := s0.abSettled
  s.modAb k fun c => if s.abLive ∧ c.st = .integ then
      (if c.estate = 2 then { c with st := .busOff, recovering := bit c.cfg 15 } else { c with st := .run })
    else c

/-- R441: recovery from bus-off is complete. -/
def State.abRecovered (s : State) (k : Fin 16) : State :=
  s.modAb k fun c => if s.abLive ∧ c.st = .busOff ∧ c.recovering then
      { c with st := .run, tec := 0, rec_ := 0, recovering := false }
    else c

/-! Commands (R441 to R444). -/

/-- R441: RECOVER, which HOLD ignores. -/
def State.abRecover (s : State) (k : Fin 16) : State :=
  s.modAb k fun c => if c.st = .busOff ∧ s.ticking then { c with recovering := true } else c

/-- R442: CLRFLT, which HOLD ignores. -/
def State.abClrFlt (s : State) (k : Fin 16) : State :=
  s.modAb k fun c => if c.st = .fault ∧ s.ticking then { c with st := if c.en then .integ else .off } else c

/-- R443: FLUSH, in OFF or FAULT. -/
def State.abFlush (s0 : State) (k : Fin 16) : State :=
  let s := s0.abSettled
  s.modAb k fun c =>
    if c.st = .off ∨ (c.st = .fault ∧ s.ticking) then
      (List.ofFn fun b : Fin 8 => b).foldl (init := { c with rxq := [], qbad := [] }) fun c b =>
        if (c.tbs.at b).st = .pending then c.finish b .cancelled else c
    else c

def State.abCtrl (s : State) (k : Fin 16) (v : W32) : State :=
  let s1 := if bit v 0 then s.abClrFlt k else s
  let s2 := if bit v 1 then s1.abRecover k else s1
  if bit v 2 then s2.abFlush k else s2

/-- R444: a write of ABk_NBT or ABk_DBT. -/
def State.abReg (s : State) (k : Fin 16) (f : AbCell → AbCell) : State :=
  s.abSettled.modAb k fun c => if c.en then { c with cfgIgn := true } else f c

/-- R442: Beryl leaves RUN: a frame in progress is abandoned. -/
def AbCell.hold (c : AbCell) : AbCell :=
  { c with frame := none, errFrame := false, drive := none,
           tbs := c.tbs.map fun t => if t.st = .active then { t with st := .pending, cancel := false } else t }

/-- R442: Beryl returns to RUN at TD0 = `g`. -/
def AbCell.return_ (g : W64) (c : AbCell) : AbCell :=
  match c.st with
  | .integ => { c with recovering := false }
  | .run => { c with st := .integ, recovering := false }
  | .busOff => { c with st := .integ, recovering := false }
  | .draining => c.frameEnd g
  | _ => c

/-- R411, R437: the watermarks of the receive queues of both bus units are noted before a frame is dropped or TD0 moves. -/
def State.noteQueues (s : State) : State :=
  { s with gds := Vector.ofFn fun x : Fin 2 => { s.gds.at x with mark := s.gdMark x },
           abs_ := Vector.ofFn fun k : Fin 16 => { s.abs_.at k with mark := s.abMark k } }

/-- R443: ABORT with a frame in progress: a received frame is abandoned, and a frame of the cell's own that is still in
its arbitration field stops at the next bit as an arbitration loss. -/
def State.abAbort (s : State) (k : Fin 16) : State :=
  s.modAb k fun c =>
    match c.st, c.frame with
    | .draining, some f =>
      match f.offered with
      | none => c.frameEnd s.now
      | some b =>
        if notBefore s.now (f.sof + BitVec.ofNat 64 (c.arbNs b)) then c
        else { c with frame := some { f with endAt := some (c.driving f.sof (f.es :: f.edges) (c.wire b) s.now).2 } }
    | _, _ => c

def abCfgMask : W32 := 0x7FFFFFF3
def abLiveMask : W32 := 0x78008003

/-- R442 to R444, R354: a write of ABk_CFG. In DRAINING, where EN is 0, it is recorded whole, the frame goes on under the
configuration it began with, and ABORT, AUTOREC and the IE fields act at once. -/
def State.abCfg (z : State) (k : Fin 16) (v : W32) : State :=
  let s := z.abSettled.noteQueues
  let w := v &&& abCfgMask
  let c := s.abs_.at k
  let nc := mrg abLiveMask c.cfg w
  let odd := decide ((c.cfg ^^^ w) &&& ~~~abLiveMask ≠ 0)
  match c.st, bit w 0 with
  | .off, _ => s.modAb k fun c => c.cfgOff w s.now
  | .draining, _ =>
    let s1 := s.modAb k fun c => { c with cfg := nc &&& ~~~1, enRec := some w }
    if bit w 1 then s1.abAbort k else s1
  | .fault, e => s.modAb k fun c =>
      if c.en then { c with cfg := nc, cfgIgn := c.cfgIgn || odd } else if e then c.arm w s.now else { c with cfg := w }
  | _, true => s.modAb k fun c => { c with cfg := nc, cfgIgn := c.cfgIgn || odd }
  | .run, false =>
    let s1 := s.modAb k fun c => { c with cfg := nc, cfgIgn := c.cfgIgn || odd }
    if (c.frame.isSome ∨ c.errFrame) ∧ s.ticking then
      let s2 := s1.modAb k fun c => { c with st := .draining }
      if bit w 1 then s2.abAbort k else s2
    else s1.modAb k AbCell.toOff
  | _, false => s.modAb k fun c => ({ c with cfg := nc, cfgIgn := c.cfgIgn || odd }).toOff

/-- R428: a write of word `w` of buffer `b`. -/
def State.abTbW (s : State) (k : Fin 16) (b : Fin 8) (w : Nat) (v : W32) : State :=
  s.abSettled.modAb k fun c =>
    let m : W32 := if w = 1 then 0x8F000000 else if w = 3 then 0x800007FF else 0xFFFFFFFF
    match (c.tbs.at b).st with
    | .pending => { c with cfgIgn := true }
    | .active => { c with cfgIgn := true }
    | _ => { c with tbw := sparseSet 0 c.tbw (32 * b.val + w) (v &&& m), tbad := c.tbad.filter (· ≠ 32 * b.val + w) }

/-- R433: a write of word `w` of filter `f`. -/
def State.abFilterW (s : State) (k : Fin 16) (i : Nat) (v : W32) : State :=
  s.modAb k fun c =>
    let m : W32 := match i % 4 with
      | 0 => 0xFFFFFFFF
      | 1 => 0x9FFFFFFF
      | 2 => 0xF
      | _ => 0
    { c with filt := sparseSet 0 c.filt i (v &&& m), fbad := c.fbad.filter (· ≠ i) }

/-! Registers (R447, R448). -/

def AbSt.num : AbSt → Nat
  | .off => 0
  | .integ => 1
  | .run => 2
  | .busOff => 3
  | .draining => 4
  | .fault => 6

def AbCause.num : AbCause → Nat
  | .none => 0
  | .timing => 1
  | .mode => 2

def TbSt.num : TbSt → Nat
  | .idle => 0
  | .pending => 1
  | .active => 2
  | .sent => 3
  | .cancelled => 4
  | .dropped => 5
  | .tooLate => 6
  | .failed => 7

/-- ABk_STAT as it reads. -/
def State.abStat (s : State) (k : Fin 16) : W32 :=
  let c := s.abs_.at k
  put 17 c.rxq.length ||| putB 16 c.txF ||| putB 15 c.cfgErr ||| putB 14 c.cfgIgn ||| putB 13 c.qovf |||
    putB 12 c.late ||| putB 11 c.alone ||| putB 10 c.boff ||| putB 9 c.epass ||| putB 8 c.pxev ||| put 4 c.cause.num |||
    put 0 (if c.st ≠ .off ∧ !s.ticking then 5 else c.st.num)

def State.abStatW (s : State) (k : Fin 16) (v : W32) : State :=
  s.modAb k fun c =>
    { c with txF := c.txF && !bit v 16, cfgErr := c.cfgErr && !bit v 15, cfgIgn := c.cfgIgn && !bit v 14,
             qovf := c.qovf && !bit v 13, late := c.late && !bit v 12, alone := c.alone && !bit v 11,
             boff := c.boff && !bit v 10, epass := c.epass && !bit v 9, pxev := c.pxev && !bit v 8 }

/-- ABk_ERR as it reads. -/
def AbCell.err (c : AbCell) : W32 :=
  put 24 c.ackRun ||| put 16 c.rec_ ||| put 7 c.tec ||| put 5 c.estate ||| put 0 c.lec

/-- ABk_TXREQ as it reads. -/
def AbCell.txReq (c : AbCell) : W32 :=
  sumBits 8 fun b => let t := (c.tbs.at (Fin.ofNat 8 b)).st; decide (t = .pending ∨ t = .active)

/-- ABk_TXSTAT as it reads. -/
def AbCell.txStat (c : AbCell) : W32 :=
  (List.ofFn fun b : Fin 8 => b).foldl (init := 0) fun acc b => acc ||| put (4 * b.val) (c.tbs.at b).st.num

/-- R448: the cell requests. While Beryl is not in RUN (`ticking` false) it is in no FAULT. -/
def AbCell.requests (c : AbCell) (ticking : Bool) : Bool :=
  (bit c.cfg 30 && c.alone) ||
    (bit c.cfg 29 && (c.epass || c.boff || c.pxev || c.qovf || c.late || c.cfgErr || (ticking && decide (c.st = .fault)))) ||
    (bit c.cfg 28 && c.txF) || (bit c.cfg 27 && (!c.rxq.isEmpty || decide (c.rxnd ≠ 0)))

/-- AB_IRQSUM as it reads. -/
def State.abIrqSum (s : State) : W32 := sumBits 16 fun k => (s.abs_.at (Fin.ofNat 16 k)).requests s.ticking

end Sys2Proof.Machine
end

