-- ==== Sys2Proof/Machine/Timers.lean ====
section
/-! DEFINITION. Timers, absolute compares, capture pairs and the counting of the watchdogs
(spec/18_timer_array.md). -/

namespace Sys2Proof.Machine

def State.modTa (s : State) (f : TimerArray → TimerArray) : State := { s with ta := f s.ta }
def State.modTimer (s : State) (n : Fin 64) (f : Timer → Timer) : State :=
  s.modTa fun t => { t with timers := t.timers.mod n f }
def State.modAc (s : State) (k : Fin 32) (f : Compare → Compare) : State :=
  s.modTa fun t => { t with compares := t.compares.mod k f }
def State.modCp (s : State) (k : Fin 16) (f : CapPair → CapPair) : State :=
  s.modTa fun t => { t with pairs := t.pairs.mod k f }
def State.modWd (s : State) (w : Fin 2) (f : Watchdog → Watchdog) : State :=
  s.modTa fun t => { t with dogs := t.dogs.mod w f }

def Timer.en (x : Timer) : Bool := bit x.cfg 0
def Timer.mode (x : Timer) : Nat := fldN x.cfg 5 2
def Timer.src (x : Timer) : Nat := fldN x.cfg 7 2
def Timer.grp (x : Timer) : Nat := fldN x.cfg 9 3
def Timer.grpEn (x : Timer) : Bool := bit x.cfg 12
def Timer.frz (x : Timer) : Nat := fldN x.cfg 13 2
def Timer.satEn (x : Timer) : Bool := bit x.cfg 15
def Timer.pre (x : Timer) : Nat := fldN x.cfg 16 16 + 1

/-- The array counts: the common region is out of reset and TD0 runs (R480). -/
def State.taLive (s : State) : Bool := s.up && s.ticking

/-! Freezing (R479, R486). -/

/-- Any sequencer of the half is in HALT. -/
def State.halted (s : State) (h : Fin 2) : Bool :=
  allSeqs.any fun n => decide (seqHalf n = h) && decide ((s.seqs.at n).st = .halt)

/-- R479: the timer's freeze condition. -/
def Timer.freezes (x : Timer) (north south : Bool) : Bool :=
  match x.frz with
  | 0 => false
  | 1 => north
  | 2 => south
  | _ => north || south

/-- R479, R480: a timer enters or leaves FROZEN. -/
def Timer.freeze (x : Timer) (north south : Bool) (now : W64) : Timer :=
  match x.st, x.freezes north south with
  | .run, true => { x with st := .frozen, left := x.next - now }
  | .frozen, false => { x with st := .run, next := now + x.left }
  | _, _ => x

/-- R486, R487: a watchdog enters or leaves FROZEN. -/
def Watchdog.freeze (x : Watchdog) (halt : Bool) : Watchdog :=
  let f := halt && bit x.cfg 30
  match x.st, f with
  | .run, true => { x with st := .frozen }
  | .frozen, false =>
    let low := decide (x.cnt < x.grace)
    { x with st := .run, cnt := if low then x.grace else x.cnt, graced := x.graced || low }
  | _, _ => x

/-- R479, R486: timers and watchdogs follow the halts of the sequencers. -/
def State.refreeze (s : State) : State :=
  let north := s.halted 0
  let south := s.halted 1
  s.modTa fun t =>
    { t with timers := t.timers.map fun x => x.freeze north south s.now,
             dogs := (t.dogs.mod 0 fun x => x.freeze north).mod 1 fun x => x.freeze south }

/-! Counting (R468 to R471). -/

/-- R469, R470: one step of the count: the timer, with a carry and a match left to take effect. `hop` is the hop that
its events carry. -/
def Timer.step (x : Timer) (hop : Nat) : Timer :=
  let wrap : Bool := match x.mode with
    | 0 => decide (x.cnt = 0)
    | 1 => decide (x.lim ≤ x.cnt)
    | _ => decide (x.cnt = 0xFFFFFFFF)
  if wrap && x.satEn then { x with satd := true, sat := x.sat || !x.satd }
  else
    let late := decide (x.mode = 1) && decide (x.lim < x.cnt)
    let c : W32 := if wrap then (if x.mode = 0 then x.lim else 0) else if x.mode = 0 then x.cnt - 1 else x.cnt + 1
    { x with cnt := c, co := if wrap then some (hop, late) else x.co,
             match_ := if c = x.cmp then some hop else x.match_ }

/-- R468: a tick of timer `n`: a prescaler expiry, a count of its task input, or the carry that drives it. -/
def State.taTick (s : State) (n : Fin 64) : State :=
  let x := s.ta.timers.at n
  if s.taLive ∧ x.st = .run then
    match x.src with
    | 0 =>
      if notBefore s.now x.next then
        s.modTimer n fun x => ({ x with next := x.next + BitVec.ofNat 64 x.pre }).step 0
      else s
    | 1 =>
      match s.takeHw (1024 + n.val) with
      | (none, _) => s
      | (some h, s1) => s1.modTimer n fun x => x.step (1 + h)
    | _ =>
      match x.chain with
      | some h => s.modTimer n fun x => ({ x with chain := none }).step h
      | none => s
  else s

/-! Actions (R472, R473, R477). -/

/-- R473: RELOAD_NOW. -/
def Timer.reload (x : Timer) : Timer :=
  if x.st = .off then x else { x with cnt := if x.mode = 0 then x.lim else 0, satd := false }

/-- R480: START. -/
def Timer.start (x : Timer) (now : W64) : Timer :=
  if x.st = .stop then { x with st := .run, next := now + BitVec.ofNat 64 x.pre, chain := none } else x

/-- R480: STOP. -/
def Timer.stop (x : Timer) : Timer :=
  match x.st with
  | .run => { x with st := .stop, chain := none }
  | .frozen => { x with st := .stop, chain := none }
  | _ => x

/-- R472, R477, R480: the action `a` on timer `n`, after its own tick of the ns. Of the actions of one ns a stop comes last. In
HOLD a timer neither starts nor stops. -/
def State.taAction (s0 : State) (a : Nat) (n : Fin 64) : State :=
  let s := if a = 0 then s0 else s0.taTick n
  match a, s.ticking with
  | 1, true => (s.modTimer n fun x => if x.stopAt = some s.now then x else x.start s.now).refreeze
  | 2, true => s.modTimer n fun x => { x.stop with stopAt := some s.now }
  | 3, _ => s.modTimer n Timer.reload
  | _, _ => s

/-- R469, R473, R477: the carry of timer `n` takes effect: flags, event, action and the chained timer. -/
def State.taFireCo (s : State) (n : Fin 64) (hop : Nat) (late : Bool) : State :=
  let x := s.ta.timers.at n
  let s1 := s.modTimer n fun x => { x with coF := true, late := x.late || late, co := none }
  let s2 := if bit x.evt 15 then s1.fireHop true (fldN x.evt 0 8) hop else s1
  let s3 :=
    if n.val % 2 = 0 then
      s2.modTimer (Fin.ofNat 64 (n.val + 1)) fun y =>
        if y.st = .run ∧ y.src = 2 then { y with chain := some hop } else y
    else s2
  s3.taAction (fldN x.act 22 2) (Fin.ofNat 64 (fldN x.act 16 6))

/-- R469: the carry that the last tick fired. -/
def State.taCarry (s : State) (n : Fin 64) : State :=
  match (s.ta.timers.at n).co with
  | some (h, late) => s.taFireCo n h late
  | none => s

/-- R471: the match that the last tick fired. -/
def State.taMatch (s : State) (n : Fin 64) : State :=
  let x := s.ta.timers.at n
  match x.match_ with
  | none => s
  | some h =>
    let s1 := s.modTimer n fun x => { x with matchF := true, match_ := none }
    let s2 := if bit x.evt 31 then s1.fireHop true (fldN x.evt 16 8) h else s1
    s2.taAction (fldN x.act 30 2) (Fin.ofNat 64 (fldN x.act 24 6))

/-! Commands and writes (R472 to R481). -/

/-- R472, R480: a write of TAn_CTRL, after the timer's own tick of the ns. In HOLD a timer neither starts nor stops. -/
def State.taCtrl (s0 : State) (n : Fin 64) (v : W32) : State :=
  let s := s0.taTick n
  let s1 := if bit v 2 then s.modTimer n Timer.reload else s
  let s2 := if bit v 0 && s.ticking then (s1.modTimer n fun x => x.start s.now).refreeze else s1
  if bit v 1 && s.ticking then s2.modTimer n Timer.stop else s2

/-- R472, R473: a write of TAn_LIM, after the timer's own tick of the ns. -/
def State.taLim (s0 : State) (n : Fin 64) (v : W32) : State :=
  let s := s0.taTick n
  let x := s.ta.timers.at n
  let s1 := s.modTimer n fun x => { x with lim := v }
  if x.st ≠ .off ∧ x.mode = 1 ∧ v < x.cnt then (s1.modTimer n fun x => { x with cnt := 0 }).taFireCo n 0 true else s1

/-- R481: a write of TAn_CNT. -/
def State.taCnt (s : State) (n : Fin 64) (v : W32) : State :=
  s.modTimer n fun x =>
    if x.st = .run ∨ x.st = .frozen ∨ (x.st = .stop ∧ !s.ticking) then { x with cfgIgn := true }
    else { x with cnt := v, satd := false }

def taCfgMask : W32 := 0xFFFFFFE1
def taLiveMask : W32 := 0x0000FE01

/-- R480, R481: a write of TAn_CFG. -/
def State.taCfg (s : State) (n : Fin 64) (v : W32) : State :=
  let w := v &&& taCfgMask
  let s1 := s.modTimer n fun x =>
    if x.st = .off then
      if bit w 0 then
        let y := { x with cfg := w }
        if y.mode = 3 ∨ y.src = 3 ∨ (y.src = 2 ∧ n.val % 2 = 0) then { x with cfg := w &&& ~~~1, cfgErr := true }
        else { y with st := .stop }
      else { x with cfg := w }
    else
      let y := { x with cfg := mrg taLiveMask x.cfg w,
                        cfgIgn := x.cfgIgn || decide ((x.cfg ^^^ w) &&& ~~~taLiveMask ≠ 0) }
      if bit w 0 then y else { y with st := .off, co := none, match_ := none, chain := none }
  s1.refreeze

/-- R475: a read of TAn_CNT by `w`: the value, and the shadow. -/
def State.taCntRead (s : State) (w : Master) (n : Fin 64) : W32 × State :=
  let live := (s.ta.timers.at n).cnt
  if !s.ta.latch then (live, s)
  else
    let pair : Fin 32 := ⟨n.val / 2, by omega⟩
    if n.val % 2 = 0 then
      let hi := (s.ta.timers.at (Fin.ofNat 64 (n.val + 1))).cnt
      (live, s.modTa fun t => { t with shadows := t.shadows.upd w.slot (some (pair, hi)) })
    else match s.ta.shadows.at w.slot with
      | some (p, v) =>
        if p = pair then (v, s.modTa fun t => { t with shadows := t.shadows.upd w.slot none }) else (live, s)
      | none => (live, s)

/-- R476: TA_CTRL.SNAP. Snapshots of one ns are one. -/
def State.taSnap (s : State) : State :=
  if s.ticking ∧ s.ta.snapAt = some s.now then s
  else s.modTa fun t => { t with snapCnt := t.snapCnt + 1, snapAt := some s.now,
                                 timers := t.timers.map fun x => { x with snap := x.cnt } }

/-- R478: GO and CANCEL of TA_STAG_CTRL. -/
def State.stagGo (s : State) (mask : Byte) : State :=
  s.modTa fun t =>
    if t.pend.isSome then { t with busy := true }
    else if notBefore s.now t.stagAt then { t with pend := some { at_ := s.now + 1, mask := mask, late := true }, late := true }
    else { t with pend := some { at_ := t.stagAt, mask := mask, late := false } }

def State.stagCancel (s : State) : State := s.modTa fun t => { t with pend := none }

def State.stagCtrl (s : State) (v : W32) : State :=
  let s1 := if bit v 8 then s.stagGo (fld v 0 8) else s
  if bit v 9 then s1.stagCancel else s1

/-- R478: the stagger instant. -/
def State.stagStart (s : State) : State :=
  match s.ta.pend with
  | none => s
  | some g =>
    if s.taLive ∧ notBefore s.now g.at_ then
      (s.modTa fun t =>
        { t with pend := none, timers := t.timers.map fun x =>
            if x.st = .stop ∧ x.grpEn ∧ g.mask.getLsbD x.grp then
              { x with st := .run, cnt := x.phase, next := g.at_ + BitVec.ofNat 64 x.pre, chain := none }
            else x }).refreeze
    else s

/-! Absolute compares (R482, R483). -/

def Compare.dom (x : Compare) : Fin 8 := Fin.ofNat 8 (fldN x.cfg 4 3)

/-- R482: the value has been reached. -/
def State.acReached (s : State) (x : Compare) : Bool := decide (x.val ≤ (s.beryl.doms.at x.dom).nsAt s.beryl.g)

/-- R482: compare `k` is ARMED for its value. -/
def State.acArm (s : State) (k : Fin 32) : State :=
  s.modAc k fun x => { x with st := .armed, lateNext := s.acReached x,
                              from_ := if s.acReached x then s.now + 1 else s.now }

/-- R483: a write of ACk_CTRL. -/
def State.acCtrl (s : State) (k : Fin 32) (v : W32) : State :=
  let x := s.ta.compares.at k
  let s1 := if bit v 0 ∧ x.st = .idle then s.acArm k else s
  if bit v 1 then s1.modAc k fun x => if x.st = .armed then { x with st := .idle, lateNext := false } else x else s1

/-- R483: a write of ACk_CFG. -/
def State.acCfg (s : State) (k : Fin 32) (v : W32) : State :=
  s.modAc k fun x =>
    { x with cfg := v &&& 0xFFFF8073,
             st := if bit v 0 then (if x.st = .off then .idle else x.st) else .off,
             lateNext := x.lateNext && bit v 0 }

/-- R483: a write of ACk_VAL or ACk_INC. -/
def State.acReg (s : State) (k : Fin 32) (f : Compare → Compare) : State :=
  s.modAc k fun x => if x.st = .armed then { x with cfgIgn := true } else f x

/-- R482: compare `k` fires. -/
def State.acFire (s : State) (k : Fin 32) : State :=
  let x := s.ta.compares.at k
  if s.taLive ∧ x.st = .armed ∧ notBefore s.now x.from_ ∧ s.acReached x then
    let s1 := s.modAc k fun x => { x with fired := true, late := x.late || x.lateNext }
    let s2 :=
      if x.inc = 0 then s1.modAc k fun x => { x with st := .idle, lateNext := false }
      else (s1.modAc k fun x => { x with val := x.val + x.inc.setWidth 64 }).acArm k
    let s3 := if bit x.cfg 23 then s2.fireHop true (fldN x.cfg 24 8) 0 else s2
    s3.taAction (fldN x.cfg 21 2) (Fin.ofNat 64 (fldN x.cfg 15 6))
  else s

/-- R482: domain `d` goes from `a` to `b` other than by its advance. -/
def State.acsPassed (s : State) (d : Fin 8) (a b : W64) : State :=
  s.modTa fun t => { t with compares := t.compares.map fun x =>
    if x.st = .armed ∧ x.dom = d ∧ a < x.val ∧ x.val ≤ b then { x with lateNext := true } else x }

/-! Capture pairs (R484). -/

/-- R484: the oldest edge of the watched lane takes effect in the ns at which the lane would commit its capture. -/
def State.cpUpdate (s : State) (k : Fin 16) : State :=
  let x := s.ta.pairs.at k
  match x.pend with
  | [] => s
  | e :: r =>
    if s.taLive ∧ bit x.cfg 0 ∧ notBefore s.now e.commitAt then
      let s1 := s.modCp k fun x =>
        if e.level then { x with pend := r, rise := e.stamp, rv := true, ovr := x.ovr || x.rv, seq := x.seq + 1 }
        else { x with pend := r, fall := e.stamp, fv := true, ovr := x.ovr || x.fv, seq := x.seq + 1 }
      if !e.level ∧ bit x.cfg 23 then s1.fireHop true (fldN x.cfg 24 8) 0 else s1
    else s

/-- R484: a write of CPk_CFG. A pair that is switched off watches nothing, and what it has seen is gone. -/
def State.cpCfg (s : State) (k : Fin 16) (v : W32) : State :=
  s.modCp k fun x => { x with cfg := v &&& 0xFF80FF03, pend := if bit v 0 then x.pend else [] }

/-! Watchdogs (R485 to R487). -/

/-- The half of the watchdog runs. -/
def State.wdUp (s : State) (w : Fin 2) : Bool := s.halfUp w

/-- R485, R487: a write of WDx_CFG. -/
def State.wdCfg (s : State) (w : Fin 2) (v : W32) : State :=
  (s.modWd w fun x =>
    if bit x.cfg 31 then { x with cfgIgn := true }
    else
      let y := { x with cfg := v &&& 0xFC000001 }
      match x.st, bit v 0 with
      | .off, true => { y with st := .run, cnt := x.load }
      | .off, false => y
      | _, true => y
      | _, false => { y with st := .off, due := false }).refreeze

/-- R485: a write of LOAD, WARN or GRACE. -/
def State.wdReg (s : State) (w : Fin 2) (f : Watchdog → Watchdog) : State :=
  s.modWd w fun x => if bit x.cfg 31 then { x with cfgIgn := true } else f x

/-- R485: a decrement. -/
def State.wdDecrement (s : State) (w : Fin 2) : State :=
  let x := s.ta.dogs.at w
  if s.wdUp w ∧ s.ticking ∧ x.st = .run ∧ s.now.toNat % 1000 = 0 ∧ x.lastDec ≠ some s.now then
    let c := if x.cnt = 0 then 0 else x.cnt - 1
    s.modWd w fun x => { x with cnt := c, lastDec := some s.now, warnF := x.warnF || decide (x.warn ≠ 0 ∧ c = x.warn),
                                due := x.due || decide (c = 0) }
  else s

/-! Registers (R489, R490). -/

def TaSt.num : TaSt → Nat
  | .off => 0
  | .stop => 1
  | .run => 2
  | .frozen => 3

/-- TAn_STAT as it reads. -/
def State.taStat (s : State) (n : Fin 64) : W32 :=
  let x := s.ta.timers.at n
  putB 13 x.cfgErr ||| putB 12 x.cfgIgn ||| putB 11 x.late ||| putB 10 x.sat ||| putB 9 x.matchF ||| putB 8 x.coF |||
    put 0 (if x.st ≠ .off ∧ !s.ticking then 4 else x.st.num)

def State.taStatW (s : State) (n : Fin 64) (v : W32) : State :=
  s.modTimer n fun x =>
    { x with cfgErr := x.cfgErr && !bit v 13, cfgIgn := x.cfgIgn && !bit v 12, late := x.late && !bit v 11,
             sat := x.sat && !bit v 10, matchF := x.matchF && !bit v 9, coF := x.coF && !bit v 8 }

/-- A timer requests (R490). -/
def Timer.requests (x : Timer) : Bool :=
  (bit x.act 0 && x.coF) || (bit x.act 1 && x.matchF) || (bit x.act 2 && x.sat) || (bit x.act 3 && x.late)

def State.taIrqSum (s : State) (i : Nat) : W32 :=
  sumBits 32 fun j => (s.ta.timers.at (Fin.ofNat 64 (32 * i + j))).requests

/-- TA_STAG_STAT as it reads. -/
def TimerArray.stagStat (t : TimerArray) : W32 :=
  put 8 ((t.pend.map fun p => p.mask.toNat).getD 0) ||| putB 2 t.busy ||| putB 1 t.late ||| putB 0 t.pend.isSome

def AcSt.num : AcSt → Nat
  | .off => 0
  | .idle => 1
  | .armed => 2

def Compare.stat (x : Compare) : W32 := putB 10 x.cfgIgn ||| putB 9 x.late ||| putB 8 x.fired ||| put 0 x.st.num

def State.acStatW (s : State) (k : Fin 32) (v : W32) : State :=
  s.modAc k fun x => { x with cfgIgn := x.cfgIgn && !bit v 10, late := x.late && !bit v 9, fired := x.fired && !bit v 8 }

def CapPair.stat (x : CapPair) : W32 :=
  put 12 x.seq.toNat ||| put 10 x.fall.q.toNat ||| put 8 x.rise.q.toNat ||| putB 3 x.ovr ||| putB 2 x.fv ||| putB 1 x.rv

def State.cpStatW (s : State) (k : Fin 16) (v : W32) : State :=
  s.modCp k fun x => { x with ovr := x.ovr && !bit v 3, fv := x.fv && !bit v 2, rv := x.rv && !bit v 1 }

def WdSt.num : WdSt → Nat
  | .off => 0
  | .run => 1
  | .frozen => 2

/-- WDx_STAT as it reads. -/
def State.wdStat (s : State) (w : Fin 2) : W32 :=
  let x := s.ta.dogs.at w
  putB 12 x.cfgIgn ||| putB 11 x.graced ||| putB 10 x.keyErr ||| putB 9 x.expF ||| putB 8 x.warnF |||
    put 0 (if x.st ≠ .off ∧ !s.ticking then 3 else x.st.num)

def State.wdStatW (s : State) (w : Fin 2) (v : W32) : State :=
  s.modWd w fun x =>
    { x with cfgIgn := x.cfgIgn && !bit v 12, graced := x.graced && !bit v 11, keyErr := x.keyErr && !bit v 10,
             expF := x.expF && !bit v 9, warnF := x.warnF && !bit v 8 }

/-- R490: the sources of the array. -/
def State.taSource (s : State) (i : Nat) : Bool := (List.range 4).any fun j => (s.ta.timers.at (Fin.ofNat 64 (4 * i + j))).requests
def Compare.source (x : Compare) : Bool := bit x.cfg 1 && (x.fired || x.late)
def CapPair.source (x : CapPair) : Bool := bit x.cfg 1 && x.fv
def Watchdog.source (x : Watchdog) : Bool := (bit x.cfg 27 && x.warnF) || (bit x.cfg 26 && (x.expF || x.keyErr))

end Sys2Proof.Machine
end

