-- ==== Sys2Proof/Machine/Timebase.lean ====
section
/-! DEFINITION. Beryl's states, readings of now, snapshots, conversions and the commands of time domains, over the whole
state (spec/03_beryl_timebase.md). -/

namespace Sys2Proof.Machine

def State.modBeryl (s : State) (f : Beryl → Beryl) : State := { s with beryl := f s.beryl }
def State.modDom (s : State) (n : Fin 8) (f : Domain → Domain) : State :=
  s.modBeryl fun b => { b with doms := b.doms.mod n f }

/-! States (R90 to R93). -/

/-- R93: Beryl leaves RUN: every Beryl-timed unit holds, and every deterministic channel has a breach (R133). -/
def State.berylLost (s : State) : State :=
  let s1 := s.gdSettled.abSettled.noteQueues.modBeryl fun b => { b with st := .lost, lost := true, bref := false }
  let s2 :=
    { s1 with lanes := s1.lanes.map fun l : Lane => { l with held := true }, gds := s1.gds.map Guardian.hold,
              abs_ := s1.abs_.map AbCell.hold }
  allChans.foldl (init := allEngines.foldl (init := s2) State.peUnheld) fun z c =>
    let x := z.chans.at c
    if x.det ∧ x.st ≠ .off then z.breach c .beryl else z

/-- R90, R91, R113: BREF is lost, or (`present`) its edges come again, which BT_STAT.BREF shows. -/
def State.brefLevel (s : State) (present : Bool) : State :=
  if present then s.modBeryl fun b => { b with bref := true }
  else match s.beryl.st with
  | .waitRef | .ready => s.modBeryl fun b => { b with st := .waitRef, bref := false }
  | .run => s.berylLost
  | .lost => s.modBeryl fun b => { b with bref := false }
  | .reset => s.modBeryl fun b => { b with bref := false }

/-- R93: Beryl enters RUN and every unit resumes. -/
def State.enterRun (s : State) : State :=
  let s0 : State :=
    { s with power := { s.power with masterWas := none },
             vault := { s.vault with inputs := s.vault.inputs.map fun x : TamperIn => { x with since := none } } }
  let s1 := (s0.modBeryl fun b => { b with st := .run, snapAt := none }).modTa fun x => { x with snapAt := none }
  let s2 := { s1 with lanes := s1.lanes.map fun l : Lane => { l with held := false, lastAccept := none } }
  let s3 := allLanes.foldl (init := s2) fun z n =>
    if z.laneUp n && decide ((z.lanes.at n).st = .run) then z.laneReturn n (fun e => e.passed) else z
  let s4 := (s3.gdReturn 0).gdReturn 1
  { s4 with abs_ := s4.abs_.map (AbCell.return_ s4.now) }

/-- R91: the delay line has locked after 256 edges. -/
def State.berylLock (s : State) : State :=
  if s.up ∧ s.beryl.st = .waitRef then
    let s1 := s.modBeryl fun b => { b with bref := true }
    if bit s.beryl.cfg 1 then s1.modBeryl fun b => { b with st := .ready } else s1.enterRun
  else s

/-- R88: TD0 passes its maximum. -/
def State.td0Wrap (s : State) : State :=
  if s.ticking ∧ s.now ≠ 0 ∧ notBefore 0 s.now then s.advance { ns := 0, q := 0 } else s

/-- R93, R472, R478, R482, R485: a load moves TD0 by `jump`. What the array has noted of a ns of TD0 is gone, since the ns may come
again; a timer keeps the rest of its prescaler, and what was to happen at the next ns happens at the next ns after the load. -/
def State.taLoaded (s : State) (jump : W64) : State :=
  s.modTa fun x =>
    { x with
      timers := x.timers.map fun y : Timer => { y with next := if y.st = .run then y.next + jump else y.next, stopAt := none }
      compares := x.compares.map fun y : Compare =>
        { y with from_ := if y.from_ = s.now - jump + 1 then s.now + 1 else s.now }
      dogs := x.dogs.map fun y : Watchdog => { y with lastDec := none }
      pend := x.pend.map fun g => if g.late then { g with at_ := s.now + 1 } else g }

/-- R92: LOAD in READY. Commands given with NOW stay due at the next ns, a timer keeps the rest of its prescaler
(R93), compares whose value is passed are late, and so are lane entries on the return to RUN (R144). The time for which
SUPPLY_OK has had its level goes on (R79).
DESIGN CHOICE (log 9): a command that waits in READY for an AT that the load carries TD0 past counts in the domain's value
from AT on, stays PENDING, and is applied after START without LATE. So does a slew whose end it carries TD0 past: the value is the end segment's at once,
REMAIN reads 0, and TDn_STAT stays SLEWING, without SLEWEND, until START. The jump counts neither towards the 10 µs of KP_ACK
(R81) nor towards TIMEOUT of the transfer engine (R73), and the history of a lane's input keeps its distance from TD0; a capture
that waits takes its readings from it as it stands. -/
def State.btLoad (s : State) : State :=
  if s.beryl.st = .ready then
    let b := s.beryl
    let jump := b.load - b.td0
    let s1 := (allEngines.foldl (init := s.noteQueues) fun z e => z.noteMark e).modBeryl fun b =>
      let move (p : PendCmd) : PendCmd := if p.isNow then { p with at_ := b.wraps * 2 ^ 64 + b.load.toNat + 1 } else p
      { b with td0 := b.load, atWrap := false, q := 0, doms := b.doms.map fun d : Domain => { d with pend := d.pend.map move } }
    let s2 := s1.lanesAfterLoad b.g jump
    let s3 : State :=
      { s2 with power := { s2.power with sokSince := s2.power.sokSince + jump }, key := { s2.key with since := s2.key.since + jump },
                gds := s2.gds.map Guardian.loaded, dbg := { s2.dbg with freshNs := none },
                xf := { s2.xf with bursts := s2.xf.bursts.map fun y : Burst => { y with issued := y.issued + jump } } }
    let s4 := (s3.taLoaded jump).modSn fun x => { x with
      was := none, tookNs := none, arrNs := none
      luts := x.luts.map fun y : Lut => { y with evalAt := none, fresh := none } }
    [0, 1, 2, 3, 4, 5, 6, 7].foldl (init := s4) fun z d =>
      let old := (b.doms.at d).nsAt b.g
      let new := (z.beryl.doms.at d).nsAt z.beryl.g
      (z.gdsStep d old new).acsPassed d old new
  else s

/-- R92: START in READY. -/
def State.btStart (s : State) : State := if s.beryl.st = .ready then s.enterRun else s

/-- R91, R92: RESTART in LOST. -/
def State.btRestart (s : State) : State :=
  if s.beryl.st = .lost then s.modBeryl fun b => { b with st := .waitRef } else s

/-- R97: SNAP. Snapshots of one ns are one; while TD0 stands still each SNAP is one of its own. -/
def State.btSnap (s : State) : State :=
  s.modBeryl fun b =>
    if b.st = .run ∧ b.snapAt = some b.td0 then b
    else { b with snap := b.td0, snapCnt := b.snapCnt + 1, snapAt := some b.td0,
                  doms := b.doms.map fun d : Domain => { d with snap := (d.valueAt b.g).extractLsb' 24 80 } }

/-- R92: a write of BT_CTRL. -/
def State.btCtrl (s : State) (v : W32) : State :=
  let s1 := if bit v 3 then s.btLoad else s
  let s2 := if bit v 1 then s1.btStart else s1
  let s3 := if bit v 2 then s2.btRestart else s2
  if bit v 0 then s3.btSnap else s3

/-! Readings of now (R94 to R96). -/

/-- The live halves and fraction of domain `n`, 0 for TD0. -/
def Beryl.nowHi (b : Beryl) (n : Fin 8) : W32 := if n = 0 then hi32 b.td0 else hi32 ((b.doms.at n).nsAt b.g)
def Beryl.nowLo (b : Beryl) (n : Fin 8) : W32 := if n = 0 then lo32 b.td0 else lo32 ((b.doms.at n).nsAt b.g)
def Beryl.nowFr (b : Beryl) (n : Fin 8) : W32 :=
  if n = 0 then put 14 b.q.toNat else ((((b.doms.at n).valueAt b.g).extractLsb' 24 16).setWidth 32)

/-- R96: a read of a NOW_LO register by `w`. -/
def State.nowLoRead (s : State) (w : Master) (n : Fin 8) : W32 × State :=
  let b := s.beryl
  (b.nowLo n,
    if bit b.cfg 0 then
      s.modBeryl fun b => { b with shadows := b.shadows.upd w.slot (some { dom := n, hi := b.nowHi n, fr := b.nowFr n }) }
    else s)

/-- R96: the shadow that answers a read of NOW_HI or NOW_FR of domain `n` by `w`, where there is one. -/
def Beryl.shadow? (b : Beryl) (w : Master) (n : Fin 8) : Option NowShadow :=
  if bit b.cfg 0 then (b.shadows.at w.slot).filter fun x => decide (x.dom = n) else none

def State.nowHiRead (s : State) (w : Master) (n : Fin 8) : W32 :=
  match s.beryl.shadow? w n with | some x => x.hi | none => s.beryl.nowHi n
def State.nowFrRead (s : State) (w : Master) (n : Fin 8) : W32 :=
  match s.beryl.shadow? w n with | some x => x.fr | none => s.beryl.nowFr n

/-! Conversion (R110, R111). -/

/-- A 64-bit ns value with a 16-bit fraction as 64.40. -/
def fix16 (ns : W64) (fr : BitVec 16) : BitVec 104 := ns ++ (fr ++ (0 : BitVec 24))

/-- R111: a write of BT_CONV_CTRL. -/
def State.conversion (s : State) (v : W32) : State :=
  let b := s.beryl
  let (r, stale) := b.convert (Fin.ofNat 8 (fldN v 0 3)) (Fin.ofNat 8 (fldN v 4 3)) (fix16 b.convIn (fld v 16 16))
  s.modBeryl fun b => { b with convCtrl := v &&& 0xFFFF0077, convOut := r, stale := stale }

/-! Commands of the domains (R105 to R109). -/

/-- The deterministic channel whose store gives a command, where a sequencer makes it for one (R132). -/
def State.ownerOf (s : State) : Master → Option (Fin 256)
  | .sq n =>
    let q := s.seqs.at n
    if q.cxv ∧ (s.chans.at q.cx).det then some q.cx else none
  | _ => none

/-- The channel that gave a command, where it is deterministic now (R132). -/
def State.detOnly (s : State) (o : Option (Fin 256)) : Option (Fin 256) := o.filter fun c => (s.chans.at c).det

/-- R106, R107: the slew of domain `n` ends where its end comes up to TD0 = `g`. -/
def State.slewEndBy (s : State) (n : Fin 8) (g : Nat) : State :=
  let d := s.beryl.doms.at n
  match d.slew with
  | none => s
  | some w =>
    if w.stop ≤ g then
      let s1 := s.modDom n fun _ => d.finish w
      if w.cut.isSome ∧ w.cutLate then s1.breachOf (s1.detOnly w.cutOwner) .tdLate else s1
    else s

/-- R106, R107: TD0 has reached the end of the slew of domain `n`. -/
def State.slewEnd (s : State) (n : Fin 8) : State := if s.up ∧ s.ticking then s.slewEndBy n s.beryl.g else s

/-- R105, R107, R109: the command `p` that waits in domain `n` takes effect. For the lanes the domain goes from what it was to what
all the commands of the ns make of it. -/
def State.tdOne (s : State) (n : Fin 8) (p : PendCmd) : State :=
  let d := s.beryl.doms.at n
  let d0 := { d with pend := d.pend.filter fun x => decide (p.at_ < x.at_) }
  let d1 := { d with pend := d.pend.erase p }.apply p
  let s1 := s.modDom n fun _ => d1
  let s2 := if p.late then s1.breachOf (s1.detOnly p.owner) .tdLate else s1
  match p.code with
  | .slew | .rate => s2
  | _ =>
    let a := (d.cur.valueAt p.at_).extractLsb' 40 64
    let b := (d1.cur.valueAt p.at_).extractLsb' 40 64
    ((s2.lanesAfterStep d0 d1 n p.at_).gdsStep n a b).acsPassed n a b

/-- R105, R107, R109: TD0 has reached the instants of commands that wait in domain `n`. -/
def State.tdApply (s : State) (n : Fin 8) : State :=
  if s.up ∧ s.ticking then ((s.beryl.doms.at n).due s.beryl.g).foldl (init := s) fun z p => (z.slewEndBy n p.at_).tdOne n p
  else s

/-- R107, R108: what the present ns brings to domain `n` before a command is judged. -/
def State.tdSettle (s : State) (n : Fin 8) : State := (s.tdApply n).slewEnd n

/-- R105, R107, R108: SET, STEP, SLEW or RATE of domain `n` by `w`. -/
def State.tdCommand (s : State) (w : Master) (n : Fin 8) (c : TdCode) (whenAt : Bool) : State :=
  if n = 0 then s
  else (s.tdSettle n).modDom n fun d => d.command s.beryl c whenAt (s.ownerOf w)

/-- R107, R108: CANCEL of domain `n` by `w`. -/
def State.tdCancel (s : State) (w : Master) (n : Fin 8) (whenAt : Bool) : State :=
  if n = 0 then s
  else (s.tdSettle n).modDom n fun d => d.cancel s.beryl whenAt (s.ownerOf w)

/-- A write of TDn_CMD by `w`. -/
def State.tdCmd (s : State) (w : Master) (n : Fin 8) (v : W32) : State :=
  match fldN v 0 3 with
  | 1 => s.tdCommand w n .set (bit v 4)
  | 2 => s.tdCommand w n .step (bit v 4)
  | 3 => s.tdCommand w n .slew (bit v 4)
  | 4 => s.tdCommand w n .rate (bit v 4)
  | 5 => s.tdCancel w n (bit v 4)
  | _ => if n = 0 then s else (s.tdSettle n).modDom n fun d => { d with cmderr := if s.beryl.live then 3 else 6 }

/-! Registers (R113, R115). -/

def BerylSt.num : BerylSt → Nat
  | .reset => 0
  | .waitRef => 1
  | .ready => 2
  | .run => 3
  | .lost => 4

/-- BT_STAT as it reads. -/
def Beryl.stat (b : Beryl) : W32 :=
  put 16 b.snapCnt.toNat ||| putB 10 b.bref ||| putB 9 b.wrap ||| putB 8 b.lost ||| put 0 b.st.num

/-- TDn_STAT as it reads. -/
def Domain.stat (d : Domain) : W32 :=
  put 16 d.cmderr ||| putB 11 d.slewCut ||| putB 10 d.slewEnd ||| putB 9 d.late ||| putB 8 d.applied |||
    put 4 (if d.state = 1 then (match d.atCmd? with | some p => p.code.num | none => 0) else 0) ||| put 0 d.state

def Domain.statW (d : Domain) (v : W32) : Domain :=
  { d with slewCut := d.slewCut && !bit v 11, slewEnd := d.slewEnd && !bit v 10, late := d.late && !bit v 9,
           applied := d.applied && !bit v 8 }

/-- R88: source 467. -/
def Beryl.source (b : Beryl) : Bool := (b.wrap && bit b.cfg 9) || (b.lost && bit b.cfg 8)

/-- R116: source 468. -/
def Domain.source (d : Domain) : Bool := decide (fldN (d.stat &&& d.ie) 8 4 ≠ 0)

/-- R78: ALIVE. -/
def State.alive (s : State) : Bool :=
  s.up && s.beryl.bref && s.ticking && decide (s.now.toNat % 1000 < 500)

end Sys2Proof.Machine
end

