-- ==== Sys2Proof/Machine/Trace.lean ====
section
/-! DEFINITION. Trace packets and the trace buffer (spec/22_debug.md, R589 to R591). -/

namespace Sys2Proof.Machine

def State.modDbg (s : State) (f : Debug → Debug) : State := { s with dbg := f s.dbg }
def State.modDsq (s : State) (n : Fin 16) (f : DbgSeq → DbgSeq) : State :=
  s.modDbg fun d => { d with sqs := d.sqs.mod n f }

/-- A packet (R590). -/
def packet (kind src : Nat) (now : W64) (payload : W32) : W64 :=
  BitVec.ofNat 4 kind ++ (BitVec.ofNat 8 src ++ (now.extractLsb' 0 20 ++ payload))

/-- KIND and SRC of a packet as one number. -/
def packetKey (p : W64) : Nat := fldN p 52 12

/-- R590: a packet among the packets of its ns, by KIND and then SRC. -/
def insertPacket (p : W64) : List W64 → List W64
  | [] => [p]
  | x :: r => if packetKey p < packetKey x then p :: x :: r else x :: insertPacket p r

/-- An entry at the end of the trace, before which none enters later. -/
def Debug.push (d : Debug) (p : W64) : Debug := { d with trace := d.trace ++ [p], fresh := 0 }

/-- R590: a packet enters a buffer that has room for it; `ns` is its ns, none while TD0 stands. -/
def Debug.enter (d : Debug) (ns : Option W64) (p : W64) : Debug :=
  let n := if ns.isSome && decide (d.freshNs = ns) then min d.fresh d.trace.length else 0
  let i := d.trace.length - n
  { d with trace := d.trace.take i ++ insertPacket p (d.trace.drop i), fresh := n + 1, freshNs := ns }

/-- R590, R591: a packet is created, after a TIME packet where TD0 [51:20] has changed, and after a LOST packet where room has
returned after drops. Where there is no room for it, it is dropped.
DESIGN CHOICE (log 19): the LOST packet is created with the first packet after the drops, and a TIME packet that finds no room is not
created. -/
def Debug.create (d : Debug) (now : W64) (ns : Option W64) (p : W64) : Debug :=
  let hi := now.extractLsb' 20 32
  let room (d : Debug) : Bool := decide (d.trace.length < 512)
  let d1 := if d.lastTime ≠ some hi ∧ room d then { d.push (packet 7 0 now hi) with lastTime := some hi } else d
  let d2 := if d1.drops ≠ 0 ∧ room d1 then { d1.push (packet 6 0 now (BitVec.ofNat 32 d1.drops)) with drops := 0 } else d1
  if room d2 then d2.enter ns p else { d2 with ovf := true, drops := min 65535 (d2.drops + 1) }

def State.tracePacket (s : State) (kind src : Nat) (payload : W32) : State :=
  s.modDbg fun d => d.create s.now s.nsNow (packet kind src s.now payload)

/-- Trace is enabled for the class whose TRCFG bit is `b`. -/
def State.tracing (s : State) (b : Nat) : Bool := bit s.dbg.trCfg 0 && bit s.dbg.trCfg b

/-- R589: a write of DBG_STIMk. -/
def State.stim (s : State) (k : Fin 32) (v : W32) : State :=
  if bit s.dbg.stimEn k.val ∧ s.tracing 4 then s.tracePacket 1 k.val v else s

/-- R590: the packet of a macro trap. -/
def State.traceTrap (s : State) (n : Fin 16) : State :=
  if s.tracing 2 then s.tracePacket 3 n.val (s.seqs.at n).ltrap else s

/-- R590: the packets of a halt and a release. -/
def State.traceHalt (s : State) (n : Fin 16) (release : Bool) : State :=
  if s.tracing 3 then s.tracePacket (if release then 5 else 4) n.val (s.seqs.at n).pc else s

/-- R590: the packet at the end of a switch on sequencer `n`, with the channels that left and came. -/
def State.traceSwitch (s : State) (n : Fin 16) (out inn : Option (Fin 256)) : State :=
  if s.tracing 1 then
    s.tracePacket 2 n.val (putB 31 inn.isSome ||| putB 30 out.isSome ||| put 8 ((out.map Fin.val).getD 0) |||
      put 0 ((inn.map Fin.val).getD 0))
  else s

/-- R591: a read of DBG_TRACE with its effect: the value and the state.
DESIGN CHOICE (log 19): a read of an empty buffer leaves 0 in DBG_TRACELO; R21 and R591 give the value returned alone. -/
def Debug.pop (d : Debug) : W32 × Debug :=
  match d.trace with
  | [] => (0, { d with traceLo := 0 })
  | p :: r => (hi32 p, { d with trace := r, traceLo := lo32 p })

/-- R20: a write of DBG_TRACE pushes its word as bits [63:32] of an entry, whose other half no rule gives. -/
def State.tracePush (s : State) (v : W32) : State :=
  let (k, s1) := s.draw
  s1.modDbg fun d =>
    if d.trace.length < 512 then d.push (v ++ Config.freeWord k)
    else { d with ovf := true, drops := min 65535 (d.drops + 1) }

/-- DBG_TRSTAT as it reads. -/
def Debug.trStat (d : Debug) : W32 := put 16 d.drops ||| putB 10 d.ovf ||| put 0 d.trace.length

end Sys2Proof.Machine
end

