-- ==== Sys2Proof/Machine/Sources.lean ====
section
/-! DEFINITION. The level that every unit presents on its EIC source (R449, R450 and the source rules of the units). -/

namespace Sys2Proof.Machine

/-- R57, R58: source 465. -/
def State.hpSource (s : State) : Bool := s.hp.err.isSome

/-- R562: sources 440 to 442. -/
def State.secSource (s : State) (i : Nat) : Bool :=
  match i with
  | 440 => bit s.sec.cfg 0 && s.sec.ld.done
  | 441 => bit s.sec.cfg 1 && decide (s.vault.tflag ≠ 0)
  | 442 => bit s.sec.cfg 2 && s.sec.lcDone
  | _ => false

def Half.source (x : Half) : Bool := bit x.cfg 2 && (x.done || x.cmdErr || x.lostF)

/-- R536: sources 448 to 451. -/
def Power.source (p : Power) (i : Nat) : Bool :=
  match i with
  | 448 => bit p.supCfg 2 && p.lowF
  | 449 => bit p.leaseCfg 16 && p.chg
  | 450 => (p.halves.at 0).source || (p.halves.at 1).source
  | 451 => bit p.gasp.cfg 3 && (p.gasp.done || p.gasp.err)
  | _ => false

/-- R267: source 472. -/
def State.poolSource (s : State) : Bool :=
  (bit s.pool.cfg 24 && decide (fldN s.poolStat 0 16 ≠ 0)) || (bit s.pool.cfg 25 && s.pool.low)

/-- R594: source 478. -/
def State.haltSource (s : State) : Bool := bit s.dbg.cfg 4 && allSeqs.any fun n => decide ((s.seqs.at n).st = .halt)

/-- The level of source `n`. -/
def State.sourceLevel (s : State) (n : Fin 512) : Bool :=
  let i := n.val
  if i = 0 then false
  else if i ≤ 256 then (s.chans.at (Fin.ofNat 256 (i - 1))).source
  else if i ≤ 320 then s.peReq (Fin.ofNat 64 (i - 257))
  else if i ≤ 336 then s.taSource (i - 321)
  else if i ≤ 368 then (s.ta.compares.at (Fin.ofNat 32 (i - 337))).source
  else if i ≤ 384 then (s.ta.pairs.at (Fin.ofNat 16 (i - 369))).source
  else if i ≤ 400 then (s.abSettled.abs_.at (Fin.ofNat 16 (i - 385))).requests s.ticking
  else if i ≤ 416 then
    let k : Fin 16 := Fin.ofNat 16 (i - 401)
    let gds := s.gdSettled.gds
    (s.halfUp 0 && (gds.at 0).requests k) || (s.halfUp 1 && (gds.at 1).requests k)
  else if i ≤ 432 then s.sn.expFlag.getLsbD (i - 417) && s.sn.expIe.getLsbD (i - 417)
  else match i with
    | 465 => s.hpSource
    | 466 => s.xf.irq
    | 467 => s.beryl.source
    | 468 => s.beryl.doms.toList.any Domain.source
    | 469 => s.breachSource
    | 470 => allLanes.any fun l => s.laneUp l && decide ((s.lanes.at l).st = .fault)
    | 471 => allStreams.any fun c => s.sfReqs c
    | 472 => s.poolSource
    | 473 => s.cs.source
    | 474 => s.orphSource
    | 475 => s.halfUp 0 && (s.ta.dogs.at 0).source
    | 476 => s.halfUp 1 && (s.ta.dogs.at 1).source
    | 477 => s.sn.source
    | 478 => s.haltSource
    | _ => s.mem.source i || s.secSource i || s.power.source i

/-- A source rises or falls as its unit says (R450). -/
def State.sourceChange (s : State) (n : Fin 512) : State := if s.up then s.sample n (s.sourceLevel n) else s

end Sys2Proof.Machine
end

