-- ==== Sys2Proof/Machine/Halt.lean ====
section
/-! DEFINITION. The debugger's authorization, and how a sequencer enters and leaves HALT
(spec/22_debug.md, R573 to R581). -/

namespace Sys2Proof.Machine

/-- R539: the highest debug authorization of the lifecycle state: 0 NONE, 1 OBSERVE, 2 FULL. -/
def lcDebugLevel (st : BitVec 4) : Nat := if st = 0xF then 0 else if st = 3 then 1 else 2

/-- R574: MAX. -/
def State.authMax (s : State) : Nat := min (lcDebugLevel s.vault.state) (if s.power.crst then 2 else min 2 s.dbg.allow.toNat)

/-- R574: GRANT. -/
def State.grant (s : State) : Nat := min (min 2 s.dbg.port.req.toNat) s.authMax

/-- A bit of a 16-bit set of sequencers cleared. -/
def clear16 (x : BitVec 16) (n : Fin 16) : BitVec 16 := x &&& ~~~(BitVec.ofNat 16 (2 ^ n.val))

/-- R578 to R580: sequencer `n` enters HALT with `cause`. -/
def State.haltSeq (s : State) (n : Fin 16) (cause : Nat) : State :=
  let s1 := s.modSeq n fun q => { q with st := .halt, before := q.st, resv := none }
  let s2 := s1.modDbg fun d =>
    let group := d.hgrp.getLsbD n.val && decide (cause ≠ 2)
    let own (x : DbgSeq) : DbgSeq :=
      { x with hcause := cause, feedV := false, exempt := false, grp := false, stepping := false,
               trapCatch := x.trapCatch && decide (cause ≠ 5 ∧ cause ≠ 7), enCatch := x.enCatch && decide (cause ≠ 6) }
    let one (m : Fin 16) : DbgSeq :=
      let x := d.sqs.at m
      if m = n then own x else if group && d.hgrp.getLsbD m.val then { x with grp := true } else x
    { d with haltReq := if cause = 1 then clear16 d.haltReq n else d.haltReq, sqs := Vector.ofFn one }
  (s2.traceHalt n false).refreeze

/-- R580, R581: sequencer `n` returns to the state before its halt. -/
def State.unhalt (s : State) (n : Fin 16) : State :=
  if (s.seqs.at n).st = .halt then
    let s1 := s.traceHalt n true
    ((s1.modSeq n fun q => { q with st := q.before, resv := none, swReq := q.swReq }).modDsq n fun x =>
      { x with exempt := true, trapCatch := false }).refreeze.seqRests n
  else s

/-- R579: a STOP that reached channel `c` while its sequencer was halted takes effect. -/
def State.lateStop (s : State) (c : Fin 256) : State :=
  let x := s.chans.at c
  match x.stopRec with
  | some ab =>
    if x.st = .run ∨ x.st = .blocked then (s.modChan c fun x => { x with stopRec := none }).chStop c ab else s
  | none => s

/-- R579, R581: sequencer `n` is released. -/
def State.releaseSeq (s : State) (n : Fin 16) : State :=
  let q := s.seqs.at n
  if q.st = .halt then
    let s1 := s.unhalt n
    if q.cxv ∧ (s.chans.at q.cx).res then s1.lateStop q.cx else s1
  else s

/-- R575: what a fall of GRANT from `old` brings about. -/
def State.regrant (s : State) (old : Nat) : State :=
  let g := s.grant
  let s1 :=
    if old = 2 ∧ g < 2 then
      let s2 := allSeqs.foldl (init := s) fun z n => z.releaseSeq n
      s2.modDbg fun d =>
        { d with haltReq := 0, bps := d.bps.map fun b => b &&& 0x7FFFFFFF, cfg := d.cfg &&& ~~~15,
                 sqs := d.sqs.map fun x : DbgSeq => { x with grp := false, stepping := false, trapCatch := false, enCatch := false } }
    else s
  if old ≠ 0 ∧ g = 0 then s1.modDbg fun d => { d with trCfg := d.trCfg &&& ~~~1, stimEn := 0 } else s1

/-- R574: a write of DBG_AUTH.REQ. -/
def State.authRequest (s : State) (v : W32) : State :=
  let old := s.grant
  (s.modDbg fun d => { d with port := { d.port with req := fld v 0 2 } }).regrant old

/-- R574: a write of DBG_ALLOW. One that would raise it is ignored. -/
def State.allowWrite (s : State) (v : W32) : State :=
  if fldN v 0 2 ≤ s.dbg.allow.toNat then
    let old := s.grant
    (s.modDbg fun d => { d with allow := fld v 0 2 }).regrant old
  else s

/-! Breakpoints (R578). -/

/-- R578: an enabled breakpoint matches the next instruction of sequencer `n`. -/
def State.bkpt (s : State) (n : Fin 16) : Bool :=
  let q := s.seqs.at n
  s.dbg.bps.toList.any fun b =>
    bit b 31 && decide (b &&& 0x7FFFC = q.pc &&& 0x7FFFC ∧ q.pc.toNat < 0x80000 ∧ fldN q.pc 0 2 = 0) &&
      (!bit b 22 || decide (fldN b 23 8 = q.cx.val))

/-- R577, R578: the cause of a halt that is due on sequencer `n`, but for breakpoints at its next instruction. -/
def State.haltDue (s : State) (n : Fin 16) : Option Nat :=
  let x := s.dbg.sqs.at n
  if s.dbg.haltReq.getLsbD n.val then some 1
  else if x.grp then some 2
  else if x.stepping then some 7
  else if x.trapCatch && decide ((s.seqs.at n).st = .run ∨ (s.seqs.at n).st = .draining) then some 5
  else if x.enCatch && decide ((s.seqs.at n).st = .idle) then some 6
  else none

/-- R577: the states in which a halt is taken: not OFF, not HALT, and in SWITCH only once the switch has completed. -/
def SeqSt.haltable : SeqSt → Bool
  | .run | .draining | .idle | .pool | .nap => true
  | _ => false

end Sys2Proof.Machine
end

