-- ==== Sys2Proof/Machine/Float.lean ====
section
/-! DEFINITION. IEEE 754-2019 binary64 arithmetic as R313 to R317 take it, exact on natural numbers and rounded once. -/

namespace Sys2Proof.Machine

/-- The five exceptions (R313). -/
structure Fx where
  nv : Bool
  dz : Bool
  of_ : Bool
  uf : Bool
  nx : Bool
  deriving DecidableEq, Repr

def Fx.none : Fx := { nv := false, dz := false, of_ := false, uf := false, nx := false }
def Fx.invalid : Fx := { Fx.none with nv := true }

/-- The exceptions as FL and TE number them: NV in bit 4 to NX in bit 0. -/
def Fx.word (x : Fx) : BitVec 5 :=
  BitVec.ofNat 5 (16 * b2n x.nv + 8 * b2n x.dz + 4 * b2n x.of_ + 2 * b2n x.uf + b2n x.nx)

/-- A binary64 value: a NaN (signalling or not), an infinity, or `m * 2 ^ e`, each with its sign. -/
inductive FVal where
  | nan (sig : Bool)
  | inf (s : Bool)
  | fin (s : Bool) (m : Nat) (e : Int)

/-- The value of 64 bits. -/
def FVal.ofBits (x : W64) : FVal :=
  let s := bit x 63
  let e := fldN x 52 11
  let f := fldN x 0 52
  if e = 2047 then (if f = 0 then .inf s else .nan (!bit x 51))
  else if e = 0 then .fin s f (-1074)
  else .fin s (2 ^ 52 + f) (e - 1075)

/-- R314: every NaN result. -/
def nanBits : W64 := 0x7FF8000000000000

def signBit (s : Bool) : W64 := if s then 0x8000000000000000 else 0
def infBits (s : Bool) : W64 := signBit s ||| 0x7FF0000000000000
def zeroBits (s : Bool) : W64 := signBit s
/-- The largest finite value. -/
def maxBits (s : Bool) : W64 := signBit s ||| 0x7FEFFFFFFFFFFFFF

/-- A magnitude is rounded away from zero, under mode `rm` (0 nearest even, 1 toward zero, 2 up, 3 down), where the
kept part is `n` and the dropped part `r` of `d`. -/
def roundsUp (rm : Nat) (s : Bool) (n r d : Nat) : Bool :=
  match rm with
  | 0 => decide (d < 2 * r ∨ (d = 2 * r ∧ n % 2 = 1))
  | 1 => false
  | 2 => !s && decide (r ≠ 0)
  | _ => s && decide (r ≠ 0)

/-- `m * 2 ^ e` rounded to a multiple of `2 ^ q`: the multiple and whether it is inexact. -/
def roundTo (rm : Nat) (s : Bool) (m : Nat) (e q : Int) : Nat × Bool :=
  if q ≤ e then (m * 2 ^ (e - q).toNat, false)
  else
    let d := 2 ^ (q - e).toNat
    let n := m / d
    let r := m % d
    ((if roundsUp rm s n r d then n + 1 else n), decide (r ≠ 0))

/-- A finite value of at most 53 significant bits that is in range as 64 bits. -/
def packBits (s : Bool) (n : Nat) (q : Int) : W64 :=
  if n < 2 ^ 52 then signBit s ||| BitVec.ofNat 64 n
  else if n < 2 ^ 53 then signBit s ||| BitVec.ofNat 64 ((q + 1075).toNat * 2 ^ 52 + (n - 2 ^ 52))
  else signBit s ||| BitVec.ofNat 64 ((q + 1076).toNat * 2 ^ 52)

/-- R314: the exact value `m * 2 ^ e`, not zero, rounded to binary64, underflow detected after rounding. -/
def roundF (rm : Nat) (s : Bool) (m : Nat) (e : Int) : W64 × Fx :=
  let top : Int := m.log2 + e
  let q : Int := max (top - 52) (-1074)
  let (n, nx) := roundTo rm s m e q
  let free := roundTo rm s m e (top - 52)
  let tiny := decide ((free.1.log2 : Int) + (top - 52) < -1022)
  if n ≠ 0 ∧ (1024 : Int) ≤ n.log2 + q then
    (match rm with
      | 0 => infBits s
      | 1 => maxBits s
      | 2 => if s then maxBits s else infBits s
      | _ => if s then infBits s else maxBits s,
      { Fx.none with of_ := true, nx := true })
  else (packBits s n q, { Fx.none with uf := tiny && nx, nx := nx })

/-- The sign of an exact zero sum (IEEE 754). -/
def zeroSum (rm : Nat) (s t : Bool) : W64 := zeroBits (if s = t then s else decide (rm = 3))

/-- The exact sum of two finite values, rounded. -/
def addFin (rm : Nat) (s : Bool) (m : Nat) (e : Int) (t : Bool) (k : Nat) (f : Int) : W64 × Fx :=
  let g := min e f
  let a : Int := (if s then -1 else 1) * (m * 2 ^ (e - g).toNat : Nat)
  let b : Int := (if t then -1 else 1) * (k * 2 ^ (f - g).toNat : Nat)
  let c := a + b
  if c = 0 then (if m = 0 ∧ k = 0 then zeroSum rm s t else zeroBits (decide (rm = 3)), .none)
  else roundF rm (decide (c < 0)) c.natAbs g

def fAdd (rm : Nat) (x y : W64) : W64 × Fx :=
  match FVal.ofBits x, FVal.ofBits y with
  | .nan a, .nan b => (nanBits, { Fx.none with nv := a || b })
  | .nan a, _ => (nanBits, { Fx.none with nv := a })
  | _, .nan b => (nanBits, { Fx.none with nv := b })
  | .inf s, .inf t => if s = t then (infBits s, .none) else (nanBits, .invalid)
  | .inf s, .fin .. => (infBits s, .none)
  | .fin .., .inf t => (infBits t, .none)
  | .fin s m e, .fin t k f => addFin rm s m e t k f

/-- Bit 63 inverted. -/
def fNeg (x : W64) : W64 := x ^^^ 0x8000000000000000
def fAbs (x : W64) : W64 := x &&& 0x7FFFFFFFFFFFFFFF

def fSub (rm : Nat) (x y : W64) : W64 × Fx := fAdd rm x (fNeg y)

def fMul (rm : Nat) (x y : W64) : W64 × Fx :=
  match FVal.ofBits x, FVal.ofBits y with
  | .nan a, .nan b => (nanBits, { Fx.none with nv := a || b })
  | .nan a, _ => (nanBits, { Fx.none with nv := a })
  | _, .nan b => (nanBits, { Fx.none with nv := b })
  | .inf s, .inf t => (infBits (s != t), .none)
  | .inf s, .fin t k _ => if k = 0 then (nanBits, .invalid) else (infBits (s != t), .none)
  | .fin s m _, .inf t => if m = 0 then (nanBits, .invalid) else (infBits (s != t), .none)
  | .fin s m e, .fin t k f =>
    if m = 0 ∨ k = 0 then (zeroBits (s != t), .none) else roundF rm (s != t) (m * k) (e + f)

def fDiv (rm : Nat) (x y : W64) : W64 × Fx :=
  match FVal.ofBits x, FVal.ofBits y with
  | .nan a, .nan b => (nanBits, { Fx.none with nv := a || b })
  | .nan a, _ => (nanBits, { Fx.none with nv := a })
  | _, .nan b => (nanBits, { Fx.none with nv := b })
  | .inf _, .inf _ => (nanBits, .invalid)
  | .inf s, .fin t .. => (infBits (s != t), .none)
  | .fin s .., .inf t => (zeroBits (s != t), .none)
  | .fin s m e, .fin t k f =>
    if k = 0 then (if m = 0 then (nanBits, .invalid) else (infBits (s != t), { Fx.none with dz := true }))
    else if m = 0 then (zeroBits (s != t), .none)
    else
      let a := m * 2 ^ 120
      roundF rm (s != t) (2 * (a / k) + b2n (decide (a % k ≠ 0))) (e - f - 121)

/-- The integer square root of `x`, bit by bit from bit `k - 1` down, with `r` found so far. -/
def isqrt (x : Nat) : Nat → Nat → Nat
  | 0, r => r
  | k + 1, r => isqrt x k (if (r + 2 ^ k) * (r + 2 ^ k) ≤ x then r + 2 ^ k else r)

def fSqrt (rm : Nat) (x : W64) : W64 × Fx :=
  match FVal.ofBits x with
  | .nan a => (nanBits, { Fx.none with nv := a })
  | .inf s => if s then (nanBits, .invalid) else (infBits false, .none)
  | .fin s m e =>
    if m = 0 then (zeroBits s, .none)
    else if s then (nanBits, .invalid)
    else
      let odd := e % 2 ≠ 0
      let a := (if odd then 2 * m else m) * 2 ^ 120
      let h := if odd then e - 1 else e
      let r := isqrt a 88 0
      roundF rm false (2 * r + b2n (decide (r * r ≠ a))) (h / 2 - 61)

/-- FMA: `x * y + z`, rounded once. Whether `0 * inf` beside a quiet NaN is an invalid operation is left to the
implementation by IEEE 754. -/
def fFma (rm : Nat) (x y z : W64) : W64 × Fx :=
  let sn (v : FVal) : Bool := match v with | .nan a => a | _ => false
  let isNan (v : FVal) : Bool := match v with | .nan _ => true | _ => false
  let a := FVal.ofBits x
  let b := FVal.ofBits y
  let c := FVal.ofBits z
  let bad : Bool := match a, b with
    | .inf _, .fin _ k _ => decide (k = 0)
    | .fin _ m _, .inf _ => decide (m = 0)
    | _, _ => false
  if isNan a || isNan b || isNan c then
    (nanBits, { Fx.none with nv := sn a || sn b || sn c || (bad && Config.fmaInvalid) })
  else if bad then (nanBits, .invalid)
  else match a, b, c with
    | .fin s m e, .fin t k f, .fin u n g => addFin rm (s != t) (m * k) (e + f) u n g
    | .fin .., .fin .., .inf u => (infBits u, .none)
    | p, q, r =>
      let sg (v : FVal) : Bool := match v with | .inf s => s | .fin s .. => s | .nan _ => false
      let s := sg p != sg q
      match r with
      | .inf u => if s = u then (infBits s, .none) else (nanBits, .invalid)
      | _ => (infBits s, .none)

/-- `x` is less than `y`, neither of them a NaN, with -0 below +0 where `zeros` says so. -/
def fLess (zeros : Bool) (x y : W64) : Bool :=
  let key (v : W64) : Int := if bit v 63 then -((fAbs v).toNat : Int) - b2n zeros else (fAbs v).toNat
  decide (key x < key y)

def isNanBits (x : W64) : Bool := decide (0x7FF0000000000000 < (fAbs x).toNat)
def isSnan (x : W64) : Bool := isNanBits x && !bit x 51

/-- FMIN and FMAX (R314). -/
def fPick (mx : Bool) (x y : W64) : W64 × Fx :=
  let fx := { Fx.none with nv := isSnan x || isSnan y }
  let r :=
    if isNanBits x then (if isNanBits y then nanBits else y)
    else if isNanBits y then x
    else if mx then (if fLess true x y then y else x)
    else (if fLess true x y then x else y)
  (r, fx)

/-- FCMP (R316): N, Z, C and V. -/
def fCmp (x y : W64) : (Bool × Bool × Bool × Bool) × Fx :=
  let fx := { Fx.none with nv := isSnan x || isSnan y }
  if isNanBits x || isNanBits y then ((false, false, false, true), fx)
  else if fLess false x y then ((true, false, false, false), fx)
  else if fLess false y x then ((false, false, true, false), fx)
  else ((false, true, true, false), fx)

/-- FRINT (R315). -/
def fRint (rm : Nat) (x : W64) : W64 × Fx :=
  match FVal.ofBits x with
  | .nan a => (nanBits, { Fx.none with nv := a })
  | .inf s => (infBits s, .none)
  | .fin s m e =>
    if m = 0 then (zeroBits s, .none)
    else
      let (n, nx) := roundTo rm s m e 0
      let fx := { Fx.none with nx := nx }
      if n = 0 then (zeroBits s, fx) else ((roundF rm s n 0).1, fx)

/-- FCVTS and FCVTU: an integer rounded to binary64. -/
def fOfInt (rm : Nat) (i : Int) : W64 × Fx := if i = 0 then (0, .none) else roundF rm (decide (i < 0)) i.natAbs 0

/-- FTOS and FTOU (R317): the value rounded to an integer between `lo` and `hi`. -/
def fToInt (rm : Nat) (lo hi : Int) (x : W64) : W64 × Fx :=
  match FVal.ofBits x with
  | .nan _ => (BitVec.ofInt 64 lo, .invalid)
  | .inf s => (BitVec.ofInt 64 (if s then lo else hi), .invalid)
  | .fin s m e =>
    let (n, nx) := roundTo rm s m e 0
    let i : Int := if s then -(n : Int) else n
    if i < lo then (BitVec.ofInt 64 lo, .invalid)
    else if hi < i then (BitVec.ofInt 64 hi, .invalid)
    else (BitVec.ofInt 64 i, { Fx.none with nx := nx })

end Sys2Proof.Machine
end

