-- ==== Sys2Proof/Machine/Operands.lean ====
section
/-! DEFINITION. Instruction fields, the registers they name and the decoding of a macro instruction word
(spec/10, R268 to R272 and R276 to R292; spec/11, R294 to R319). -/

namespace Sys2Proof.Machine

/-! Fields (R271). -/

def opF (w : W32) : Nat := fldN w 26 6
def rdF (w : W32) : Nat := fldN w 21 5
def rsF (w : W32) : Nat := fldN w 16 5
def rtF (w : W32) : Nat := fldN w 11 5
def saF (w : W32) : Nat := fldN w 6 5
def fnF (w : W32) : Nat := fldN w 0 6
/-- IMM16 sign-extended. -/
def immS (w : W32) : W32 := (fld w 0 16).signExtend 32
/-- IMM16 zero-extended. -/
def immZ (w : W32) : W32 := (fld w 0 16).setWidth 32
/-- Four times a signed word offset of `k` bits. -/
def wordOff (k : Nat) (w : W32) : W32 := 4 * (fld w 0 k).signExtend 32

/-! Registers (R239, R240, R268, R295). -/

/-- A general register by its field value. -/
def Seq.reg (q : Seq) (r : Nat) : W32 :=
  let i : Fin 8 := Fin.ofNat 8 r
  match r / 8 % 4 with
  | 0 => q.k.at i
  | 1 => (q.ringA.at q.cw).at i
  | 2 => (q.ringM.at q.cw).at i
  | _ => (q.ringA.at (winUp q.cw 1)).at i

/-- A write of a general register. -/
def Seq.setReg (q : Seq) (r : Nat) (v : W32) : Seq :=
  let i : Fin 8 := Fin.ofNat 8 r
  match r / 8 % 4 with
  | 0 => { q with k := q.k.upd i v }
  | 1 => { q with ringA := q.ringA.mod q.cw fun b => b.upd i v }
  | 2 => { q with ringM := q.ringM.mod q.cw fun b => b.upd i v }
  | _ => { q with ringA := q.ringA.mod (winUp q.cw 1) fun b => b.upd i v }

/-- The pair that starts at an even register. -/
def Seq.pair (q : Seq) (r : Nat) : W64 := join (q.reg (r + 1)) (q.reg r)
def Seq.setPair (q : Seq) (r : Nat) (v : W64) : Seq := (q.setReg r (lo32 v)).setReg (r + 1) (hi32 v)
/-- A quad. -/
def Seq.setQuad (q : Seq) (r : Nat) (a b c d : W32) : Seq :=
  (((q.setReg r a).setReg (r + 1) b).setReg (r + 2) c).setReg (r + 3) d
/-- A register of the float bank. -/
def Seq.fq (q : Seq) (r : Nat) : W64 := q.q.at (Fin.ofNat 16 r)

def Seq.det (q : Seq) : Bool := bit q.stw 17
def Seq.sec (q : Seq) : Bool := bit q.stw 16

/-- The fields of st that an instruction may write (R273). -/
def stMask : W32 := 0x10F

/-- R274: a write of st. -/
def Seq.setSt (q : Seq) (v : W32) : Seq := { q with stw := mrg stMask q.stw v }

/-! Decoding (R272). -/

def aluMn (fn : Nat) : Option Mn :=
  match fn with
  | 1 => some .add
  | 2 => some .sub
  | 3 => some .adc
  | 4 => some .sbc
  | 5 => some .addt
  | 6 => some .subt
  | 7 => some .cmp
  | 8 => some .and
  | 9 => some .or
  | 10 => some .xor
  | 11 => some .andn
  | 12 => some .orn
  | 13 => some .tst
  | 14 => some .sll
  | 15 => some .srl
  | 16 => some .sra
  | 17 => some .ror
  | 18 => some .mul
  | 19 => some .mulhu
  | 20 => some .mulhs
  | 21 => some .divu
  | 22 => some .divs
  | 23 => some .remu
  | 24 => some .rems
  | 25 => some .mins
  | 26 => some .maxs
  | 27 => some .minu
  | 28 => some .maxu
  | 29 => some .clz
  | 30 => some .ctz
  | 31 => some .popc
  | 32 => some .bswap
  | 33 => some .brev
  | 34 => some .slts
  | 35 => some .sltu
  | _ => none

/-- R277: what the ALU group requires of its fields. -/
def aluOk (w : W32) (m : Mn) : Bool :=
  decide (fldN w 6 4 = 0) &&
    match m with
    | .cmp | .tst => decide (rdF w = 0) && bit w 10
    | .clz | .ctz | .popc | .bswap | .brev => decide (rtF w = 0)
    | _ => true

def shiMn (fn : Nat) : Option Mn :=
  match fn with
  | 1 => some .slli
  | 2 => some .srli
  | 3 => some .srai
  | 4 => some .rori
  | 5 => some .extu
  | 6 => some .exts
  | 7 => some .ins
  | _ => none

/-- R279. -/
def shiOk (w : W32) (m : Mn) : Bool :=
  match m with
  | .extu | .exts | .ins => decide (saF w + rtF w + 1 ≤ 32)
  | _ => decide (rtF w = 0)

/-- R281. -/
def sysMn (w : W32) : Option Mn :=
  if rtF w = 0 ∧ saF w = 0 then
    match fnF w with
    | 1 => if rdF w = 0 ∧ rsF w = 0 then some .nop else none
    | 2 => if rsF w ≤ 4 then some .rds else none
    | 3 => if rdF w = 1 then some .wrs else none
    | _ => none
  else none

/-- What a group of spec/11 requires of a register field (R294, R295, R315). -/
inductive FieldKind where
  | zero | any | pair | quad | q
  deriving DecidableEq, Repr

def FieldKind.ok (k : FieldKind) (r : Nat) : Bool :=
  match k with
  | .zero => decide (r = 0)
  | .any => true
  | .pair => decide (r % 2 = 0)
  | .quad => decide (r % 4 = 0)
  | .q => decide (r < 16)

/-- The fields of a word of format R: RD, RS, RT, and the bits of SA that may be set. -/
def fieldsOk (w : W32) (d s t : FieldKind) (sa : Nat) : Bool :=
  d.ok (rdF w) && s.ok (rsF w) && t.ok (rtF w) && decide (saF w &&& sa = saF w)

def only (b : Bool) (m : Mn) : Option Mn := if b then some m else none

/-- R298 to R318: the groups TIME to CHN. -/
def groupMn (w : W32) : Option Mn :=
  let f := fieldsOk w
  match opF w, fnF w with
  | 0x30, 1 => only (f .pair .zero .zero 7) .now
  | 0x30, 2 => only (f .pair .pair .any 0 && decide (rtF w / 2 ≠ rdF w / 2)) .conv
  | 0x30, 3 => only (f .pair .pair .pair 1) .exp
  | 0x31, 1 => only (f .zero .pair .any 7) .enql
  | 0x31, 2 => only (f .pair .pair .any 7) .enqe
  | 0x31, 3 => only (f .pair .zero .any 0) .pushe
  | 0x32, 1 => only (f .quad .any .zero 0) .deq
  | 0x32, 2 => only (f .quad .any .zero 0) .trydeq
  | 0x32, 3 => only (f .quad .any .pair 0) .brecv
  | 0x33, 1 => only (f .zero .any .zero 0) .fire
  | 0x33, 2 => only (f .any .any .zero 0) .waite
  | 0x33, 3 => only (f .any .any .zero 0) .trye
  | 0x34, 1 => only (f .any .any .zero 0) .ll
  | 0x34, 2 => only (f .any .any .any 0) .sc
  | 0x34, 3 => only (f .zero .zero .zero 0) .clrex
  | 0x35, 1 => only (f .any .zero .zero 31 && decide (saF w ≤ 3)) .rdc
  | 0x35, 2 => only (f .zero .any .zero 0) .wrc
  | 0x35, 3 => only (f .zero .zero .zero 0) .wspill
  | 0x35, 4 => only (f .zero .zero .zero 0) .frel
  | 0x36, 1 => only (f .q .q .q 0) .fadd
  | 0x36, 2 => only (f .q .q .q 0) .fsub
  | 0x36, 3 => only (f .q .q .q 0) .fmul
  | 0x36, 4 => only (f .q .q .q 0) .fdiv
  | 0x36, 5 => only (f .q .q .zero 0) .fsqrt
  | 0x36, 6 => only (f .q .q .q 0) .fma
  | 0x36, 7 => only (f .q .q .zero 0) .fneg
  | 0x36, 8 => only (f .q .q .zero 0) .fabs
  | 0x36, 9 => only (f .q .q .q 0) .fmin
  | 0x36, 10 => only (f .q .q .q 0) .fmax
  | 0x36, 11 => only (f .zero .q .q 0) .fcmp
  | 0x36, 12 => only (f .q .q .zero 0) .fcpy
  | 0x36, 13 => only (f .q .q .zero 0) .frint
  | 0x37, 1 => only (f .q .pair .zero 0) .fmvgq
  | 0x37, 2 => only (f .pair .q .zero 0) .fmvqg
  | 0x37, 3 => only (f .q .pair .zero 0) .fcvts
  | 0x37, 4 => only (f .q .pair .zero 0) .fcvtu
  | 0x37, 5 => only (f .pair .q .zero 0) .ftos
  | 0x37, 6 => only (f .pair .q .zero 0) .ftou
  | 0x37, 7 => only (f .q .any .zero 0) .fld
  | 0x37, 8 => only (f .zero .any .q 0) .fst
  | 0x37, 9 => only (f .any .zero .zero 0) .rdfc
  | 0x37, 10 => only (f .zero .any .zero 0) .wrfc
  | 0x38, 1 => only (f .zero .zero .zero 0) .yield
  | 0x38, 2 => only (f .zero .zero .zero 0) .stop
  | _, _ => none

/-- R272, R276: the instruction that a word encodes; none for a word that is illegal. -/
def decodeMacro (w : W32) : Option Mn :=
  match opF w with
  | 0x00 => (aluMn (fnF w)).filter (aluOk w)
  | 0x01 => (shiMn (fnF w)).filter (shiOk w)
  | 0x02 => sysMn w
  | 0x04 => some .addi
  | 0x05 => some .andi
  | 0x06 => some .ori
  | 0x07 => some .xori
  | 0x08 => only (decide (rsF w = 0)) .lui
  | 0x09 => only (decide (rdF w = 0)) .cmpi
  | 0x0A => only (decide (rdF w = 0)) .tsti
  | 0x10 => only (decide (fldN w 22 4 ≠ 15)) .bcc
  | 0x11 => only (decide (fldN w 16 5 = 0)) .bz
  | 0x12 => only (decide (fldN w 16 5 = 0)) .bnz
  | 0x13 => some .beq
  | 0x14 => some .bne
  | 0x18 => some .j
  | 0x19 => some .call
  | 0x1A => only (decide (rdF w = 0)) .jr
  | 0x1B => only (decide (rdF w = 0)) .callr
  | 0x1C => only (decide (rdF w = 0)) .ret
  | 0x1D => only (decide (fldN w 0 26 = 0)) .wopen
  | 0x1E => only (decide (fldN w 0 26 = 0)) .wclose
  | 0x1F => only (decide (fldN w 8 18 = 0)) .trap
  | 0x20 => some .ldb
  | 0x21 => some .ldbu
  | 0x22 => some .ldh
  | 0x23 => some .ldhu
  | 0x24 => some .ldw
  | 0x25 => some .ldwu
  | 0x26 => only (decide (rdF w % 2 = 0)) .ldp
  | 0x28 => some .stb
  | 0x29 => some .sth
  | 0x2A => some .stw
  | 0x2B => some .stwu
  | 0x2C => only (decide (rdF w % 2 = 0)) .stp
  | 0x3F => some .cux
  | _ => groupMn w

end Sys2Proof.Machine
end

