-- ==== Sys2Proof/Machine/Flags.lean ====
section
/-! DEFINITION. Results and flags of arithmetic, logic and shifts (R275, R277 to R279, R288, R328, R329). -/

namespace Sys2Proof.Machine

/-- Leading zeros, counted from bit 31 down; `k` bits are left to look at. -/
def clzGo (x : W32) : Nat → Nat
  | 0 => 0
  | k + 1 => if bit x k then 0 else 1 + clzGo x k

/-- Trailing zeros, counted from bit `i` up; `k` bits are left to look at. -/
def ctzGo (x : W32) (i : Nat) : Nat → Nat
  | 0 => 0
  | k + 1 => if bit x i then 0 else 1 + ctzGo x (i + 1) k

def popcount (x : W32) : Nat := (List.range 32).countP fun i => bit x i

/-- The bytes of a word in reverse order. -/
def byteSwap (x : W32) : W32 := fld x 0 8 ++ fld x 8 8 ++ fld x 16 8 ++ fld x 24 8

/-- The shift amount that an operand gives. -/
def amount (b : W32) : Nat := fldN b 0 5

/-- The result of an operation on `a` and `b` with carry `c` (R277, R328). -/
def AluOp.value (op : AluOp) (a b : W32) (c : Bool) : W32 :=
  match op with
  | .add => a + b
  | .sub => a - b
  | .adc => a + b + putB 0 c
  | .sbc => a - b - putB 0 (!c)
  | .and => a &&& b
  | .or => a ||| b
  | .xor => a ^^^ b
  | .andn => a &&& ~~~b
  | .orn => a ||| ~~~b
  | .sll => a <<< amount b
  | .srl => a >>> amount b
  | .sra => a.sshiftRight (amount b)
  | .ror => a.rotateRight (amount b)
  | .mul => a * b
  | .mulhu => BitVec.ofNat 32 (a.toNat * b.toNat / 2 ^ 32)
  | .mulhs => BitVec.ofInt 32 (a.toInt * b.toInt / 2 ^ 32)
  | .mins => if a.slt b then a else b
  | .maxs => if a.slt b then b else a
  | .minu => if a.ult b then a else b
  | .maxu => if a.ult b then b else a
  | .clz => BitVec.ofNat 32 (clzGo a 32)
  | .ctz => BitVec.ofNat 32 (ctzGo a 0 32)
  | .popc => BitVec.ofNat 32 (popcount a)
  | .bswap => byteSwap a
  | .brev => a.reverse
  | .slts => putB 0 (a.slt b)
  | .sltu => putB 0 (a.ult b)
  | .mov => a
  | .not => ~~~a

/-- R275: C of an operation, none where its formula leaves C alone or names none. -/
def AluOp.carry (op : AluOp) (a b : W32) (c : Bool) : Option Bool :=
  let n := amount b
  match op with
  | .add => some (decide (2 ^ 32 ≤ a.toNat + b.toNat))
  | .adc => some (decide (2 ^ 32 ≤ a.toNat + b.toNat + b2n c))
  | .sub => some (decide (b.toNat ≤ a.toNat))
  | .sbc => some (decide (b.toNat + b2n (!c) ≤ a.toNat))
  | .sll => if n = 0 then none else some (bit a (32 - n))
  | .srl | .sra | .ror => if n = 0 then none else some (bit a (n - 1))
  | _ => none

/-- R275: V of an operation with result `r`. -/
def AluOp.ovf (op : AluOp) (a b r : W32) : Option Bool :=
  match op with
  | .add | .adc => some (bit a 31 == bit b 31 && bit r 31 != bit a 31)
  | .sub | .sbc => some (bit a 31 != bit b 31 && bit r 31 != bit a 31)
  | _ => none

/-- The flags of st. -/
def stFlags (st : W32) : Nzcv := { n := bit st 3, z := bit st 2, c := bit st 1, v := bit st 0 }

/-- The four flags as st holds them. -/
def Nzcv.word (f : Nzcv) : W32 := putB 3 f.n ||| putB 2 f.z ||| putB 1 f.c ||| putB 0 f.v

/-- The flags after a flag-setting instruction; a flag that is not named keeps its value (R275). -/
def Nzcv.after (f : Nzcv) (r : W32) (c v : Option Bool) : Nzcv :=
  { n := bit r 31, z := decide (r = 0), c := c.getD f.c, v := v.getD f.v }

def Seq.setFlags (q : Seq) (f : Nzcv) : Seq := { q with stw := mrg 0xF q.stw f.word }

/-- R329: the micro-flags after a REG or IMM operation. A shift by 0 keeps C. -/
def AluOp.microFlags (op : AluOp) (f : Nzcv) (a b : W32) : Nzcv :=
  let r := op.value a b f.c
  let c := match op with
    | .sll | .srl | .sra | .ror => (op.carry a b f.c).getD f.c
    | _ => (op.carry a b f.c).getD false
  let v := match op with
    | .sll | .srl | .sra | .ror => f.v
    | _ => (op.ovf a b r).getD false
  { n := bit r 31, z := decide (r = 0), c := c, v := v }

/-- R288: condition `c` of Bcc. -/
def Nzcv.cond (f : Nzcv) (c : Nat) : Bool :=
  match c with
  | 0 => true
  | 1 => f.z
  | 2 => !f.z
  | 3 => !f.c
  | 4 => f.c
  | 5 => !f.c || f.z
  | 6 => f.c && !f.z
  | 7 => f.n != f.v
  | 8 => f.n == f.v
  | 9 => f.z || f.n != f.v
  | 10 => !f.z && f.n == f.v
  | 11 => f.n
  | 12 => !f.n
  | 13 => f.v
  | 14 => !f.v
  | _ => false

/-- R278: quotient and remainder with the V flag; DIVS truncates toward zero. -/
def divide (signed : Bool) (a b : W32) : W32 × W32 × Bool :=
  if b = 0 then (0xFFFFFFFF, a, true)
  else if signed then
    if a = 0x80000000 ∧ b = 0xFFFFFFFF then (0x80000000, 0, true)
    else (BitVec.ofInt 32 (a.toInt.tdiv b.toInt), BitVec.ofInt 32 (a.toInt.tmod b.toInt), false)
  else (BitVec.ofNat 32 (a.toNat / b.toNat), BitVec.ofNat 32 (a.toNat % b.toNat), false)

/-- A field of `w` bits from bit `lsb` of `x`, zero-extended (R279). -/
def extU (x : W32) (lsb w : Nat) : W32 := BitVec.ofNat 32 (fldN x lsb w)

/-- The same sign-extended. -/
def extS (x : W32) (lsb w : Nat) : W32 := (x.extractLsb' lsb w).signExtend 32

/-- `old` with its field of `w` bits from bit `lsb` replaced by the low bits of `x`. -/
def insert (old x : W32) (lsb w : Nat) : W32 := mrg (BitVec.ofNat 32 ((2 ^ w - 1) * 2 ^ lsb)) old (x <<< lsb)

end Sys2Proof.Machine
end

