-- ==== Sys2Proof/Machine/Isa.lean ====
section
/-! DEFINITION. Macro instructions that compute and that change control (spec/10_macro_instructions_core.md, R277 to
R281 and R288 to R293). -/

namespace Sys2Proof.Machine

/-- How an instruction ends: completed with its microwords and the next pc where it is not the one that follows; a trap
found after so many microwords; blocked (R297); without a node (R250); with an uncorrectable error in context SRAM
(R261); stalled inside the instruction (R119), with what is held; or with a fault of its channel (R338). -/
inductive Res where
  | done (s : State) (uw : Nat) (npc : Option W32)
  | trap (s : State) (uw : Nat) (t : Trap)
  | block (s : State) (uw : Nat)
  | pool (s : State)
  | ecc (s : State)
  | stall (s : State) (h : Held)
  | fault (s : State) (uw : Nat) (cause : FCause)

/-- A trap found by a macro instruction (R293). -/
def State.trapped (s : State) (code detail : Nat) (tval : W32) : Res :=
  .trap s 2 { code := code, detail := detail, tval := tval }

/-- R296: a register value is refused. -/
def State.badValue (s : State) (w : W32) : Res := s.trapped 3 1 w

/-- What window or context work comes to inside an instruction. -/
def Work.andThen (x : Work) (f : State → Res) : Res :=
  match x with
  | .done s => f s
  | .pool s => .pool s
  | .ecc s => .ecc s
  | .trap s t => .trap s 2 t

/-! Group ALU (R277, R278). -/

/-- The flags of st after an operation on `a` and `b` (R275). -/
def Seq.aluFlags (q : Seq) (op : AluOp) (a b : W32) : Nzcv :=
  let f := stFlags q.stw
  let r := op.value a b f.c
  f.after r (op.carry a b f.c) (op.ovf a b r)

/-- R277: an operation of `k` microwords whose result goes to rd. -/
def State.aluR (s : State) (n : Fin 16) (w : W32) (op : AluOp) (k : Nat) : Res :=
  let q := s.seqs.at n
  let a := q.reg (rsF w)
  let b := q.reg (rtF w)
  let q1 := q.setReg (rdF w) (op.value a b (bit q.stw 1))
  .done (s.modSeq n fun _ => if bit w 10 then q1.setFlags (q.aluFlags op a b) else q1) k none

/-- CMP and TST: only the flags. -/
def State.aluF (s : State) (n : Fin 16) (w : W32) (op : AluOp) : Res :=
  let q := s.seqs.at n
  .done (s.modSeq n fun _ => q.setFlags (q.aluFlags op (q.reg (rsF w)) (q.reg (rtF w)))) 2 none

/-- R278: ADDT and SUBT. -/
def State.aluT (s : State) (n : Fin 16) (w : W32) (op : AluOp) : Res :=
  let q := s.seqs.at n
  let a := q.reg (rsF w)
  let b := q.reg (rtF w)
  if op.ovf a b (op.value a b (bit q.stw 1)) = some true then s.trapped 16 1 w else s.aluR n w op 2

/-- R278: division; `rem` asks for the remainder. -/
def State.aluD (s : State) (n : Fin 16) (w : W32) (signed rem : Bool) : Res :=
  let q := s.seqs.at n
  let b := q.reg (rtF w)
  let (quo, re, v) := divide signed (q.reg (rsF w)) b
  if b = 0 ∧ bit q.stw 8 then s.trapped 16 2 w
  else
    let r := if rem then re else quo
    let q1 := q.setReg (rdF w) r
    .done (s.modSeq n fun _ => if bit w 10 then q1.setFlags ((stFlags q.stw).after r none (some v)) else q1)
      (if b = 0 then 4 else 38) none

/-! Groups SHI and immediate (R279, R280). -/

/-- A write of rd without flags. -/
def State.putRd (s : State) (n : Fin 16) (w v : W32) (k : Nat) : Res :=
  .done (s.modSeq n fun q => q.setReg (rdF w) v) k none

/-- R279: a shift or rotate of rs by SA. -/
def State.shiI (s : State) (n : Fin 16) (w : W32) (op : AluOp) : Res :=
  s.putRd n w (op.value ((s.seqs.at n).reg (rsF w)) (BitVec.ofNat 32 (saF w)) false) 2

/-- R280: an operation of rs with an immediate. -/
def State.immR (s : State) (n : Fin 16) (w : W32) (op : AluOp) (b : W32) : Res :=
  s.putRd n w (op.value ((s.seqs.at n).reg (rsF w)) b false) 2

/-- CMPI and TSTI. -/
def State.immF (s : State) (n : Fin 16) (w : W32) (op : AluOp) (b : W32) : Res :=
  let q := s.seqs.at n
  .done (s.modSeq n fun _ => q.setFlags (q.aluFlags op (q.reg (rsF w)) b)) 2 none

def State.doExtu (s : State) (n : Fin 16) (w : W32) : Res :=
  s.putRd n w (extU ((s.seqs.at n).reg (rsF w)) (saF w) (rtF w + 1)) 2
def State.doExts (s : State) (n : Fin 16) (w : W32) : Res :=
  s.putRd n w (extS ((s.seqs.at n).reg (rsF w)) (saF w) (rtF w + 1)) 2
def State.doIns (s : State) (n : Fin 16) (w : W32) : Res :=
  let q := s.seqs.at n
  s.putRd n w (insert (q.reg (rdF w)) (q.reg (rsF w)) (saF w) (rtF w + 1)) 3
def State.doLui (s : State) (n : Fin 16) (w : W32) : Res := s.putRd n w (immZ w <<< 16) 1

/-! Group SYS (R281). -/

def State.doNop (s : State) : Res := .done s 1 none

/-- The special register of code `c`. -/
def Seq.special (q : Seq) (c : Nat) : W32 :=
  match c with
  | 0 => q.pc
  | 1 => q.stw
  | 2 => put 0 q.cw.val
  | 3 => put 0 q.wv.toNat
  | 4 => put 0 q.cx.val
  | _ => 0

def State.doRds (s : State) (n : Fin 16) (w : W32) : Res := s.putRd n w ((s.seqs.at n).special (rsF w)) 2
def State.doWrs (s : State) (n : Fin 16) (w : W32) : Res :=
  .done (s.modSeq n fun q => q.setSt (q.reg (rsF w))) 2 none

/-! Control (R288 to R292). -/

/-- A branch that is taken where `c` holds. -/
def State.branch (s : State) (n : Fin 16) (c : Bool) (off : W32) : Res :=
  if c then .done s 3 (some ((s.seqs.at n).pc + off)) else .done s 2 none

def State.doBcc (s : State) (n : Fin 16) (w : W32) : Res :=
  s.branch n ((stFlags (s.seqs.at n).stw).cond (fldN w 22 4)) (wordOff 22 w)
def State.doBz (s : State) (n : Fin 16) (w : W32) : Res :=
  s.branch n (decide ((s.seqs.at n).reg (rdF w) = 0)) (wordOff 16 w)
def State.doBnz (s : State) (n : Fin 16) (w : W32) : Res :=
  s.branch n (decide ((s.seqs.at n).reg (rdF w) ≠ 0)) (wordOff 16 w)
def State.doBeq (s : State) (n : Fin 16) (w : W32) : Res :=
  s.branch n (decide ((s.seqs.at n).reg (rdF w) = (s.seqs.at n).reg (rsF w))) (wordOff 16 w)
def State.doBne (s : State) (n : Fin 16) (w : W32) : Res :=
  s.branch n (decide ((s.seqs.at n).reg (rdF w) ≠ (s.seqs.at n).reg (rsF w))) (wordOff 16 w)

/-- rs + sext(IMM16): the target of JR, CALLR and RET. -/
def Seq.target (q : Seq) (w : W32) : W32 := q.reg (rsF w) + immS w

def State.doJ (s : State) (n : Fin 16) (w : W32) : Res := .done s 2 (some ((s.seqs.at n).pc + wordOff 26 w))
def State.doJr (s : State) (n : Fin 16) (w : W32) : Res := .done s 2 (some ((s.seqs.at n).target w))

/-- A call to `t`: a window opens and m7 takes the return offset. -/
def State.callTo (s : State) (n : Fin 16) (t : W32) : Res :=
  let back := (s.seqs.at n).pc + 4
  (s.wopen n 250).andThen fun s1 => .done (s1.modSeq n fun q => q.setReg 23 back) 4 (some t)

def State.doCall (s : State) (n : Fin 16) (w : W32) : Res := s.callTo n ((s.seqs.at n).pc + wordOff 26 w)
def State.doCallr (s : State) (n : Fin 16) (w : W32) : Res := s.callTo n ((s.seqs.at n).target w)
def State.doRet (s : State) (n : Fin 16) (w : W32) : Res :=
  let t := (s.seqs.at n).target w
  (s.wclose n).andThen fun s1 => .done s1 4 (some t)
def State.doWopen (s : State) (n : Fin 16) : Res := (s.wopen n 250).andThen fun s1 => .done s1 3 none
def State.doWclose (s : State) (n : Fin 16) : Res := (s.wclose n).andThen fun s1 => .done s1 3 none
def State.doTrap (s : State) (w : W32) : Res := s.trapped 17 (fldN w 0 8) w

/-! Channel control (R318). -/

def State.doYield (s : State) (n : Fin 16) : Res :=
  .done ((s.reqSwitch n).modSeq n fun q => { q with yielded := true }) 2 none
/-- The channel enters STOPPED once it is switched out (R350). -/
def State.doStop (s : State) (n : Fin 16) : Res :=
  .done ((s.reqSwitch n).modSeq n fun q => { q with stopI := true }) 2 none

end Sys2Proof.Machine
end

