-- ==== Sys2Proof/Machine/Carnelian.lean ====
section
/-! DEFINITION. The Carnelian window (spec/23_carnelian_window.md). -/

namespace Sys2Proof.Machine

def State.modCw (s : State) (f : Carnelian → Carnelian) : State := { s with cw := f s.cw }

/-- The command completes with RESULT `r` (R603, R604). -/
def State.cwDone (s : State) (r : Nat) : State :=
  s.modCw fun w => { w with result := r, done := true, doneWas := w.done, pend := none }

/-- R605: the operation codes of the command table. -/
def cwKnown (op : Nat) : Bool := [0x00, 0x01, 0x02, 0x03, 0x04, 0x05, 0x06, 0x07, 0x10, 0x20, 0x21, 0x30, 0x31].contains op

/-- R605: the entries that a command pushes. -/
def cwEntries (op : Nat) : Nat :=
  match op with
  | 0x01 | 0x10 => 1
  | 0x20 | 0x21 | 0x30 => 2
  | _ => 0

/-- R601, order 4: CH, PARAM or MB lies outside its range. -/
def cwRange (op param ch mb : Nat) : Bool :=
  decide (31 < ch) || (if op = 0x30 ∨ op = 0x31 then decide (127 < param) else decide (param ≠ 0)) ||
    (decide (op ≠ 0x10) && decide (mb ≠ 0))

/-- R601, orders 5 and 6. -/
def State.cwClass (s : State) (c : Fin 256) (sec : Bool) : Option Nat :=
  let x := s.chans.at c
  if (if x.st = .off then bit (s.descWord c 0) 31 else x.det) then some 5
  else if s.chanSec c && !sec then some 6
  else none

/-- Entries enter the response FIFO. -/
def State.cwPush (s : State) (l : List (BitVec 16)) : State := s.modCw fun w => { w with rsp := w.rsp ++ l }

/-- A channel command completes with OK, or with IGNORED where the channel's state does not accept it (R605). -/
def State.cwChannel (s : State) (c : Fin 256) (f : State → State) : State :=
  let was := (s.chans.at c).cmdIgn
  let s1 := f (s.modChan c fun x => { x with cmdIgn := false })
  let ign := (s1.chans.at c).cmdIgn
  (s1.modChan c fun x => { x with cmdIgn := was || ign }).cwDone (if ign then 7 else 0)

/-- The two halves of a register as response entries. -/
def halves16 (v : W32) : List (BitVec 16) := [fld v 0 16, fld v 16 16]

/-- R605: word `w` of the descriptor as a command reads it: mailbox storage has no layout (R346), and a word that holds an
uncorrectable error reads 0 (R56, R380). -/
def State.cwDescRead (s : State) (c : Fin 256) (w : Nat) : W32 × State :=
  let (v, s1) := s.memRead 16 (descAddr c + 4 * w) 4
  if 64 ≤ w ∧ v.isSome then
    let (k, s2) := s1.draw
    (if (s.chans.at c).mbClean then 0 else Config.mailboxWord k, s2)
  else (BitVec.ofNat 32 (v.getD 0), s1)

/-- R603, R605: the effect of a command that passes its checks. -/
def State.cwEffect (s : State) (k : CwCmd) : State :=
  let c := k.ch
  match k.op.toNat with
  | 0x01 =>
    let s1 := s.cwChannel c fun z => z.chStart 16 c
    s1.cwPush [BitVec.ofNat 16 (s1.chans.at c).startErr]
  | 0x02 => s.cwChannel c fun z => z.chStop c false
  | 0x03 => s.cwChannel c fun z => if (z.chans.at c).st = .draining then z.chAbort c else z.chStop c true
  | 0x04 => s.cwChannel c fun z => z.chResume 16 c
  | 0x05 => s.cwChannel c fun z => z.chDiscard c
  | 0x06 => s.cwChannel c fun z => z.chFlush c
  | 0x07 => s.cwChannel c fun z => z.chNote c
  | 0x10 =>
    -- R363, R597: what names a channel in OFF is no post; no rule gives its RES, a free value (log 20)
    if (s.chans.at c).st = .off then
      let (x, s1) := s.draw
      (s1.cwPush [(Config.freeWord x).extractLsb' 0 2 |>.setWidth 16]).cwDone 0
    else
    let (s1, r) := s.postPlain c k.mb k.arg
    (s1.cwPush [BitVec.ofNat 16 r.num]).cwDone 0
  | 0x20 => (s.cwPush (halves16 (s.chans.at c).stat)).cwDone 0
  | 0x21 => (s.cwPush (halves16 (s.chans.at c).mbx)).cwDone 0
  | 0x30 =>
    let (v, s1) := s.cwDescRead c k.param.toNat
    (s1.cwPush (halves16 v)).cwDone 0
  | 0x31 =>
    let w := k.param.toNat
    if w = 0 ∧ bit k.arg 30 ∧ !k.sec then s.cwDone 6
    else if !s.descFree c w then s.cwDone 11
    else (s.memWrite 16 (descAddr c + 4 * w) 4 (lo32 k.arg).toNat).cwDone 0
  | _ => s.cwDone 0

/-- R603: the second judgement, and the effect. -/
def State.cwRun (s : State) (k : CwCmd) : State :=
  match s.cwClass k.ch k.sec with
  | some r => s.cwDone r
  | none =>
    if 8 < s.cw.rsp.length + cwEntries k.op.toNat then s.cwDone 8
    else if k.op = 0x10 ∧ (s.chans.at k.ch).stmp k.mb then s.cwDone 9
    else s.cwEffect k

/-- R602: the pending command waits for no entry any more. -/
def State.cwReleased (s : State) (c : Fin 256) : Bool :=
  (s.chans.at c).mbs.toList.all fun m => m.q.all fun e => !e.noted

/-- The marks of R602 are set or taken away on every entry of the channel. -/
def State.cwNote (s : State) (c : Fin 256) (v : Bool) : State :=
  s.modChan c fun x => { x with mbs := x.mbs.map fun m : Mailbox => { m with q := m.q.map fun e => { e with noted := v } } }

/-- R602, R603: a pending command is released. -/
def State.cwExecute (s : State) : State :=
  match s.cw.pend with
  | some k => if s.cwReleased k.ch then s.cwRun k else s
  | none => s

/-- R601: a write of CW_CMD_LO. -/
def State.cwLow (s : State) (op param : Byte) (sec : Bool) : State :=
  let w := s.cw
  let s1 := s.modCw fun w => { w with hiv := false }
  let chn := fldN w.cmdHi 0 8
  let c : Fin 256 := Fin.ofNat 256 chn
  if !w.hiv then s1.modCw fun w => { w with result := 1, done := true, doneWas := w.done }
  else if w.pend.isSome then s1.modCw fun w => { w with result := 2, done := true, doneWas := w.done }
  else if !cwKnown op.toNat then s1.cwDone 4
  else if cwRange op.toNat param.toNat chn (fldN w.cmdHi 8 2) then s1.cwDone 3
  else match s1.cwClass c sec with
    | some r => s1.cwDone r
    | none =>
      let k : CwCmd :=
        { op := op, param := param, ch := c, mb := Fin.ofNat 4 (fldN w.cmdHi 8 2),
          arg := ((w.args.at 3 ++ w.args.at 2) ++ w.args.at 1) ++ w.args.at 0, sec := sec }
      ((s1.cwNote c true).modCw fun w => { w with pend := some k }).cwExecute

/-- R601: a write of CW_CMD_HI. -/
def State.cwHigh (s : State) (v : BitVec 16) : State := s.modCw fun w => { w with cmdHi := v &&& 0x3FF, hiv := true }

/-- R604: a pending command is cancelled. -/
def State.cwCancel (s : State) : State :=
  match s.cw.pend with
  | some k => (s.cwNote k.ch false).cwDone 10
  | none => s

/-- R600: FLUSH. -/
def State.cwFlush (s : State) : State := s.modCw fun w => { w with rsp := [] }

/-- A write of CW_CTRL. -/
def State.cwCtrl (s : State) (v : BitVec 16) : State :=
  let s1 := if bit v 0 then s.cwCancel else s
  if bit v 1 then s1.cwFlush else s1

/-- R604: a write of GL_COMPAT. -/
def State.cwEnable (s : State) (v : W32) : State :=
  (if bit v 0 then s else s.cwCancel).modCw fun w => { w with en := bit v 0 }

/-- CW_STAT as it reads. -/
def Carnelian.stat (w : Carnelian) : BitVec 16 :=
  (putB 15 w.done ||| putB 14 w.pend.isSome ||| putB 13 w.hiv ||| putB 12 w.rfErr ||| put 8 w.rsp.length |||
    put 0 w.result).setWidth 16

/-- R23, R600: a read of CW_STAT. Where a completion coincides with it (`hw`), it returns DONE as it was before, and DONE stays
set. -/
def State.cwStatRead (s : State) (hw : Bool) : BitVec 16 × State :=
  if hw then ({ s.cw with done := s.cw.doneWas }.stat, s) else (s.cw.stat, s.modCw fun w => { w with done := false })

/-- A write of CW_STAT. -/
def State.cwStatW (s : State) (v : BitVec 16) : State := s.modCw fun w => { w with rfErr := w.rfErr && !bit v 12 }

/-- R600: a read of CW_RSP. -/
def State.cwPop (s : State) : BitVec 16 × State :=
  match s.cw.rsp with
  | [] => (0, s.modCw fun w => { w with rfErr := true })
  | x :: r => (x, s.modCw fun w => { w with rsp := r })

/-- R600: a write of CW_RSP. -/
def State.cwRspPush (s : State) (v : BitVec 16) : State :=
  if 8 ≤ s.cw.rsp.length then s.modCw fun w => { w with rfErr := true } else s.cwPush [v]

end Sys2Proof.Machine
end

