-- ==== Sys2Proof/Machine/Crypto.lean ====
section
/-! DEFINITION. The cryptography that a Hagal image names (spec/21_security_lifecycle.md, R547): SHA-384 of FIPS 180-4,
AES-256 in GCM of NIST SP 800-38D, and ECDSA on P-384 of FIPS 186-5. -/

namespace Sys2Proof.Machine

/-! SHA-384. -/

/-- The 80 round constants. -/
def shaK : List W64 :=
  [0x428A2F98D728AE22, 0x7137449123EF65CD, 0xB5C0FBCFEC4D3B2F, 0xE9B5DBA58189DBBC, 0x3956C25BF348B538,
   0x59F111F1B605D019, 0x923F82A4AF194F9B, 0xAB1C5ED5DA6D8118, 0xD807AA98A3030242, 0x12835B0145706FBE,
   0x243185BE4EE4B28C, 0x550C7DC3D5FFB4E2, 0x72BE5D74F27B896F, 0x80DEB1FE3B1696B1, 0x9BDC06A725C71235,
   0xC19BF174CF692694, 0xE49B69C19EF14AD2, 0xEFBE4786384F25E3, 0x0FC19DC68B8CD5B5, 0x240CA1CC77AC9C65] ++
  [0x2DE92C6F592B0275, 0x4A7484AA6EA6E483, 0x5CB0A9DCBD41FBD4, 0x76F988DA831153B5, 0x983E5152EE66DFAB,
   0xA831C66D2DB43210, 0xB00327C898FB213F, 0xBF597FC7BEEF0EE4, 0xC6E00BF33DA88FC2, 0xD5A79147930AA725,
   0x06CA6351E003826F, 0x142929670A0E6E70, 0x27B70A8546D22FFC, 0x2E1B21385C26C926, 0x4D2C6DFC5AC42AED,
   0x53380D139D95B3DF, 0x650A73548BAF63DE, 0x766A0ABB3C77B2A8, 0x81C2C92E47EDAEE6, 0x92722C851482353B] ++
  [0xA2BFE8A14CF10364, 0xA81A664BBC423001, 0xC24B8B70D0F89791, 0xC76C51A30654BE30, 0xD192E819D6EF5218,
   0xD69906245565A910, 0xF40E35855771202A, 0x106AA07032BBD1B8, 0x19A4C116B8D2D0C8, 0x1E376C085141AB53,
   0x2748774CDF8EEB99, 0x34B0BCB5E19B48A8, 0x391C0CB3C5C95A63, 0x4ED8AA4AE3418ACB, 0x5B9CCA4F7763E373,
   0x682E6FF3D6B2B8A3, 0x748F82EE5DEFB2FC, 0x78A5636F43172F60, 0x84C87814A1F0AB72, 0x8CC702081A6439EC] ++
  [0x90BEFFFA23631E28, 0xA4506CEBDE82BDE9, 0xBEF9A3F7B2C67915, 0xC67178F2E372532B, 0xCA273ECEEA26619C,
   0xD186B8C721C0C207, 0xEADA7DD6CDE0EB1E, 0xF57D4F7FEE6ED178, 0x06F067AA72176FBA, 0x0A637DC5A2C898A6,
   0x113F9804BEF90DAE, 0x1B710B35131C471B, 0x28DB77F523047D84, 0x32CAAB7B40C72493, 0x3C9EBE0A15C9BEBC,
   0x431D67C49C100D4C, 0x4CC5D4BECB3E42B6, 0x597F299CFC657E2A, 0x5FCB6FAB3AD6FAEC, 0x6C44198C4A475817]

/-- The initial hash value of SHA-384. -/
def shaH : List W64 :=
  [0xCBBB9D5DC1059ED8, 0x629A292A367CD507, 0x9159015A3070DD17, 0x152FECD8F70E5939,
   0x67332667FFC00B31, 0x8EB44A8768581511, 0xDB0C2E0D64F98FA7, 0x47B5481DBEFA4FA4]

def rot64 (x : W64) (n : Nat) : W64 := x.rotateRight n

/-- The message schedule: `k` further words after the last 16 in `l`, newest first. -/
def shaSchedule : Nat → List W64 → List W64
  | 0, l => l
  | k + 1, l =>
    let a := l.getD 14 0
    let b := l.getD 1 0
    let s0 := rot64 a 1 ^^^ rot64 a 8 ^^^ (a >>> 7)
    let s1 := rot64 b 19 ^^^ rot64 b 61 ^^^ (b >>> 6)
    shaSchedule k ((s1 + l.getD 6 0 + s0 + l.getD 15 0) :: l)

/-- One round on the working variables a to h with K + W. -/
def shaRound (v : List W64) (kw : W64) : List W64 :=
  match v with
  | [a, b, c, d, e, f, g, h] =>
    let t1 := h + (rot64 e 14 ^^^ rot64 e 18 ^^^ rot64 e 41) + ((e &&& f) ^^^ (~~~e &&& g)) + kw
    let t2 := (rot64 a 28 ^^^ rot64 a 34 ^^^ rot64 a 39) + ((a &&& b) ^^^ (a &&& c) ^^^ (b &&& c))
    [t1 + t2, a, b, c, d + t1, e, f, g]
  | _ => v

/-- The hash value after one block of 16 words. -/
def shaBlock (h : List W64) (m : List W64) : List W64 :=
  let w := (shaSchedule 64 m.reverse).reverse
  List.zipWith (· + ·) h ((List.zipWith (· + ·) shaK w).foldl shaRound h)

/-- Bytes, the first the most significant, as a number. -/
def beNat (l : List Byte) : Nat := l.foldl (fun n b => 256 * n + b.toNat) 0

/-- The `k` lowest bytes of `n`, the most significant first. -/
def beBytes (k n : Nat) : List Byte := (List.range k).map fun i => BitVec.ofNat 8 (n / 256 ^ (k - 1 - i))

/-- Fields of `w` bytes each of the first `k * w` bytes. -/
def chunks (w : Nat) : Nat → List Byte → List (List Byte)
  | 0, _ => []
  | k + 1, l => l.take w :: chunks w k (l.drop w)

/-- SHA-384 of a byte string. -/
def sha384 (l : List Byte) : List Byte :=
  let z := if (l.length % 128) < 112 then 111 - l.length % 128 else 239 - l.length % 128
  let m := l ++ [0x80] ++ List.replicate z 0 ++ beBytes 16 (8 * l.length)
  let h := (chunks 128 (m.length / 128) m).foldl (init := shaH) fun h b =>
    shaBlock h ((chunks 8 16 b).map fun x => BitVec.ofNat 64 (beNat x))
  (h.take 6).flatMap fun x => beBytes 8 x.toNat

/-! AES-256. -/

/-- Multiplication by x in the field of AES. -/
def xtime (a : Byte) : Byte := (a <<< 1) ^^^ (if a.getLsbD 7 then 0x1B else 0)

/-- Multiplication in the field of AES. -/
def gmul (a b : Byte) : Byte :=
  ((List.range 8).foldl (init := ((0 : Byte), a)) fun acc i =>
    (if b.getLsbD i then acc.1 ^^^ acc.2 else acc.1, xtime acc.2)).1

/-- `a` to the power `2 ^ k`. -/
def gsq : Nat → Byte → Byte
  | 0, a => a
  | k + 1, a => gsq k (gmul a a)

/-- The inverse, `a ^ 254`, with 0 for 0. -/
def ginv (a : Byte) : Byte := (List.range 7).foldl (init := (1 : Byte)) fun r i => gmul r (gsq (i + 1) a)

/-- The S-box. -/
def sbox (a : Byte) : Byte :=
  let b := ginv a
  b ^^^ b.rotateLeft 1 ^^^ b.rotateLeft 2 ^^^ b.rotateLeft 3 ^^^ b.rotateLeft 4 ^^^ 0x63

/-- The words of the key schedule, newest first, after `k` further words; `i` is the number of the next one. -/
def keyWords : Nat → Nat → Byte → List (List Byte) → List (List Byte)
  | 0, _, _, l => l
  | k + 1, i, rc, l =>
    let t := l.headD []
    let t1 :=
      if i % 8 = 0 then
        match ((t.drop 1) ++ (t.take 1)).map sbox with
        | a :: r => (a ^^^ rc) :: r
        | [] => []
      else if i % 8 = 4 then t.map sbox
      else t
    keyWords k (i + 1) (if i % 8 = 0 then xtime rc else rc) (List.zipWith (· ^^^ ·) (l.getD 7 []) t1 :: l)

/-- The 15 round keys of AES-256. -/
def roundKeys (key : List Byte) : List (List Byte) :=
  chunks 16 15 ((keyWords 52 8 1 (chunks 4 8 key).reverse).reverse.flatMap fun x => x)

/-- ShiftRows on the 16 bytes of a state, column by column. -/
def shiftRows (s : List Byte) : List Byte :=
  (List.range 16).map fun i => s.getD ((4 * (i / 4 + i % 4) + i % 4) % 16) 0

/-- MixColumns on one column. -/
def mixColumn (c : List Byte) : List Byte :=
  (List.range 4).map fun i =>
    gmul 2 (c.getD i 0) ^^^ gmul 3 (c.getD ((i + 1) % 4) 0) ^^^ c.getD ((i + 2) % 4) 0 ^^^ c.getD ((i + 3) % 4) 0

/-- The rounds after the first key addition. -/
def aesRounds : List (List Byte) → List Byte → List Byte
  | [], s => s
  | [k], s => List.zipWith (· ^^^ ·) (shiftRows (s.map sbox)) k
  | k :: k2 :: r, s =>
    aesRounds (k2 :: r) (List.zipWith (· ^^^ ·) ((chunks 4 4 (shiftRows (s.map sbox))).flatMap mixColumn) k)

/-- AES-256 of one block. -/
def aesBlock (key blk : List Byte) : List Byte :=
  match roundKeys key with
  | k :: r => aesRounds r (List.zipWith (· ^^^ ·) blk k)
  | [] => blk

/-! GCM. -/

/-- The payload's bytes `l`, of which the first has the index `i`, decrypted. -/
def gcmCrypt (key iv : List Byte) (i : Nat) (l : List Byte) : List Byte :=
  let ks := (List.range ((i + l.length + 15) / 16 - i / 16)).flatMap fun j => aesBlock key (iv ++ beBytes 4 (2 + i / 16 + j))
  List.zipWith (· ^^^ ·) l (ks.drop (i % 16))

/-- Multiplication in the field of GHASH: bit 127 of the number is the coefficient of 1. -/
def ghMul (x y : BitVec 128) : BitVec 128 :=
  ((List.range 128).foldl (init := ((0 : BitVec 128), y)) fun (acc : BitVec 128 × BitVec 128) (i : Nat) =>
    (if x.getLsbD (127 - i) then acc.1 ^^^ acc.2 else acc.1,
     (acc.2 >>> 1) ^^^ (if acc.2.getLsbD 0 then BitVec.ofNat 128 (0xE1 * 2 ^ 120) else 0))).1

/-- Bytes padded with zeros to whole blocks. -/
def pad16 (l : List Byte) : List Byte := l ++ List.replicate ((16 - l.length % 16) % 16) 0

/-- GHASH of additional data and ciphertext. -/
def ghash (h : BitVec 128) (aad ct : List Byte) : BitVec 128 :=
  let m := pad16 aad ++ pad16 ct ++ beBytes 8 (8 * aad.length) ++ beBytes 8 (8 * ct.length)
  (chunks 16 (m.length / 16) m).foldl (init := (0 : BitVec 128)) fun (y : BitVec 128) (b : List Byte) => ghMul (y ^^^ BitVec.ofNat 128 (beNat b)) h

/-- The 128-bit tag. -/
def gcmTag (key iv aad ct : List Byte) : List Byte :=
  let h := BitVec.ofNat 128 (beNat (aesBlock key (List.replicate 16 0)))
  List.zipWith (· ^^^ ·) (beBytes 16 (ghash h aad ct).toNat) (aesBlock key (iv ++ beBytes 4 1))

/-! ECDSA on P-384. -/

def p384P : Nat := 2 ^ 384 - 2 ^ 128 - 2 ^ 96 + 2 ^ 32 - 1
def p384N : Nat := 0xFFFFFFFFFFFFFFFFFFFFFFFFFFFFFFFFFFFFFFFFFFFFFFFFC7634D81F4372DDF581A0DB248B0A77AECEC196ACCC52973
def p384B : Nat := 0xB3312FA7E23EE7E4988E056BE3F82D19181D9C6EFE8141120314088F5013875AC656398D8A2ED19D2A85C8EDD3EC2AEF
def p384G : Nat × Nat :=
  (0xAA87CA22BE8B05378EB1C71EF320AD746E1D3B628BA79B9859F741E082542A385502F25DBF55296C3A545E3872760AB7,
   0x3617DE4A96262C6F5D9E98BF9292DC29F8F41DBD289A147CE9DA3113B5F0B8C00A60B1CE1D7E819D7A431D7C90EA0E5F)

/-- `b ^ e` modulo `m`, over the `k` lowest bits of `e`. -/
def powMod (m b e : Nat) : Nat → Nat
  | 0 => 1
  | k + 1 =>
    let r := powMod m b (e / 2) k
    let q := r * r % m
    if e % 2 = 1 then q * b % m else q

/-- The inverse modulo the prime `m` of at most 384 bits. -/
def invMod (m a : Nat) : Nat := powMod m (a % m) (m - 2) 384

/-- A point of the curve; none is the point at infinity. -/
abbrev Point := Option (Nat × Nat)

/-- Addition of points. -/
def pointAdd (a b : Point) : Point :=
  match a, b with
  | none, b => b
  | a, none => a
  | some (x1, y1), some (x2, y2) =>
    let p := p384P
    if x1 = x2 ∧ (y1 + y2) % p = 0 then none
    else
      let l := if x1 = x2 then (3 * x1 * x1 + p - 3) * invMod p (2 * y1) % p
               else (y2 + p - y1) * invMod p (x2 + p - x1) % p
      let x := (l * l + 2 * p - x1 - x2) % p
      some (x, (l * (x1 + p - x) + p - y1) % p)

/-- A point in Jacobian coordinates: (x / z², y / z³); none is the point at infinity. -/
abbrev Jac := Option (Nat × Nat × Nat)

/-- Twice a point. -/
def jacDouble : Jac → Jac
  | none => none
  | some (x, y, z) =>
    let p := p384P
    let d := z * z % p
    let g := y * y % p
    let b := x * g % p
    let a := 3 * (x + p - d) * (x + d) % p
    let x3 := (a * a + 8 * (p - b)) % p
    if y = 0 then none
    else some (x3, (a * (4 * b + p - x3) + 8 * (p - g * g % p)) % p, 2 * y * z % p)

/-- The sum of a point and the point (u, v). -/
def jacAdd (a : Jac) (u v : Nat) : Jac :=
  match a with
  | none => some (u, v, 1)
  | some (x, y, z) =>
    let p := p384P
    let zz := z * z % p
    let h := (u * zz + p - x) % p
    let r := (v * zz * z + p - y) % p
    if h = 0 then (if r = 0 then jacDouble a else none)
    else
      let hh := h * h % p
      let hhh := h * hh % p
      let w := x * hh % p
      let x3 := (r * r + (p - hhh) + 2 * (p - w)) % p
      some (x3, (r * (w + p - x3) + y * (p - hhh)) % p, z * h % p)

/-- The multiple of (u, v) by the `k` lowest bits of `e`. -/
def jacMul (u v e : Nat) : Nat → Jac
  | 0 => none
  | k + 1 =>
    let d := jacDouble (jacMul u v (e / 2) k)
    if e % 2 = 1 then jacAdd d u v else d

/-- The point in plain coordinates. -/
def Jac.affine : Jac → Point
  | none => none
  | some (x, y, z) =>
    let i := invMod p384P z
    let ii := i * i % p384P
    some (x * ii % p384P, y * (ii * i % p384P) % p384P)

/-- The multiple of the point (u, v) by `e`. -/
def pointMul (u v e : Nat) : Point := (jacMul u v e 384).affine

/-- The coordinates name a point of the curve. -/
def onCurve (x y : Nat) : Bool :=
  let p := p384P
  decide (x < p) && decide (y < p) && decide (y * y % p = (x * x * x + (p - 3) * x + p384B) % p)

/-- ECDSA verification of the signature `r`, `s` of the digest by the public key. -/
def ecdsaOk (pub digest sig : List Byte) : Bool :=
  let n := p384N
  let x := beNat (pub.take 48)
  let y := beNat (pub.drop 48)
  let r := beNat (sig.take 48)
  let s := beNat (sig.drop 48)
  let w := invMod n s
  let e := beNat digest
  onCurve x y && decide (0 < r ∧ r < n ∧ 0 < s ∧ s < n) &&
    (match pointAdd (pointMul p384G.1 p384G.2 (e * w % n)) (pointMul x y (r * w % n)) with
     | some (a, _) => decide (a % n = r)
     | none => false)

end Sys2Proof.Machine
end

