-- ==== Sys2Proof/Machine/Power.lean ====
section
/-! DEFINITION. Halves, resets, supply guarding, the lease, the canary and the watchdogs' expiry
(spec/20_power_reset_supply.md; R135, R485). -/

namespace Sys2Proof.Machine

def State.modPw (s : State) (f : Power → Power) : State := { s with power := f s.power }
def State.modHalf (s : State) (h : Fin 2) (f : Half → Half) : State :=
  s.modPw fun p => { p with halves := p.halves.mod h f }

/-! Supply guarding and the last gasp (R527 to R530). -/

/-- R527: the supply-low condition. -/
def Power.low (p : Power) : Bool := p.sokLow || p.floorLow

/-- R528: a refusal by supply guarding is counted. -/
def State.guardRefused (s : State) : State :=
  s.modPw fun p => { p with guardCnt := if p.guardCnt = 0xFFFF then p.guardCnt else p.guardCnt + 1 }

/-- R530: the numbers of the writes that a firing performs. -/
def Gasp.writes (g : Gasp) : List (Fin 4) := [0, 1, 2, 3].filter fun k : Fin 4 => decide (k.val ≤ fldN g.cfg 4 2)

/-- R530: the last gasp fires. -/
def Gasp.fire (g : Gasp) : Gasp := { g with cfg := g.cfg &&& ~~~1, ref := 0, left := g.writes }

/-- R527, R530: the causes become `sok` and `floor`; an onset of the condition sets LOWF and may fire the last gasp. -/
def State.setSupply (s : State) (sok floor : Bool) : State :=
  s.modPw fun p =>
    let p1 := { p with sokLow := sok, floorLow := floor }
    if p1.low ∧ !p.low then
      let bySok := sok && !p.sokLow
      let fires := bit p.gasp.cfg 0 && (bySok || !bit p.gasp.cfg 2)
      { p1 with lowF := true, gasp := if fires then p.gasp.fire else p.gasp }
    else p1

/-- R79: SUPPLY_OK takes the level `v`: a low of at least 8 ns starts the condition, a rise starts the time of its end. -/
def State.supplyLevel (s : State) (v : Bool) : State :=
  let s1 := s.modPw fun p => { p with sok := v, sokSince := s.now }
  if v then s1 else s1.setSupply true s.power.floorLow

/-- R79: the ns of TD0 for which SUPPLY_OK has had its level. -/
def State.supplyTime (s : State) : W64 := s.now - s.power.sokSince

/-- R79: the cause of SUPPLY_OK ends once the pin has been 1 for 10 µs of TD0. -/
def State.supplyEnd (s : State) : State :=
  if s.power.sok ∧ 10000 ≤ s.supplyTime then s.setSupply false s.power.floorLow else s

/-- R136: PW_CANARY_MIN falls to the rates of PW_CANARY that are not 0. -/
def Power.canaryLower (p : Power) : Power :=
  { p with canaryMin := Vector.ofFn fun h =>
      let r := p.canary.at h
      if r ≠ 0 ∧ r < p.canaryMin.at h then r else p.canaryMin.at h }

/-- R135, R527: at the end of a window of 1 µs PW_CANARY takes the rates of the halves that run.
DESIGN CHOICE (log 26): the windows end where TD0 is a multiple of 1,000 ns. -/
def State.canaryUpdate (s : State) (north south : BitVec 16) : State :=
  if s.up ∧ s.ticking ∧ s.now.toNat % 1000 = 0 ∧ s.power.canaryAt ≠ some s.now then
    let rate (h : Fin 2) : BitVec 16 := if s.halfUp h then (if h = 0 then north else south) else 0
    let floor := fldN s.power.supCfg 16 16
    let low := bit s.power.supCfg 1 && ([0, 1].any fun h : Fin 2 => decide (rate h ≠ 0 ∧ (rate h).toNat < floor))
    let s1 := s.modPw fun p => { p with canary := Vector.ofFn rate, canaryAt := some s.now }.canaryLower
    s1.setSupply s.power.sokLow low
  else s

/-- R136: a write of PW_CANARY_MIN. It goes before an update of the same ns. -/
def State.canaryMinW (s : State) (v : W32) : State :=
  s.modPw fun p =>
    let p1 := { p with canaryMin := (p.canaryMin.upd 0 (fld v 0 16)).upd 1 (fld v 16 16) }
    if s.ticking ∧ p.canaryAt = some s.now then p1.canaryLower else p1

/-- R527: a write of PW_SUP_CFG. -/
def State.supCfg (s : State) (v : W32) : State :=
  let s1 := s.modPw fun p => { p with supCfg := v &&& 0xFFFF0006 }
  if bit v 1 then s1 else s1.setSupply s.power.sokLow false

/-! The lease (R531, R532). -/

/-- R532: MASTER of the claims. -/
def masterOf (n q : Claim) : MasterSel :=
  match n.v, q.v with
  | false, false => .none
  | true, false => .north
  | false, true => .south
  | true, true => if n.epoch < q.epoch then .south else .north

/-- R532: MASTER follows the claims, and a change sets CHG. The writes and expiries of one TD0 ns make one change: MASTER and
CHG go from what they were before the first of them. -/
def State.settleMaster (s : State) : State :=
  s.modPw fun p =>
    let was : MasterWas := match p.masterWas with
      | some x => if s.ticking ∧ x.at_ = s.now then x else { at_ := s.now, master := p.master, chg := p.chg }
      | none => { at_ := s.now, master := p.master, chg := p.chg }
    let m := masterOf (p.claims.at 0) (p.claims.at 1)
    { p with master := m, chg := was.chg || decide (m ≠ was.master), masterWas := if s.ticking then some was else none }

/-- R531: a write of the claim of half `h`. -/
def State.leaseClaim (s : State) (h : Fin 2) (v : W32) : State :=
  let e : BitVec 16 := fld v 0 16
  if !bit v 31 then
    (s.modPw fun p => { p with claims := p.claims.mod h fun c => { c with v := false } }).settleMaster
  else if e < (s.power.claims.at h).epoch then s.modPw fun p => { p with eperr := p.eperr.upd h true }
  else
    let t := max 1 (fldN s.power.leaseCfg 0 16)
    (s.modPw fun p =>
      { p with claims := p.claims.upd h { v := true, epoch := e, until_ := s.now + BitVec.ofNat 64 (1000 * t) } }).settleMaster

/-- R531: the time of the live claim of half `h` has run out. -/
def State.leaseExpiry (s : State) (h : Fin 2) : State :=
  let c := s.power.claims.at h
  if c.v ∧ s.up ∧ s.ticking ∧ notBefore s.now c.until_ then
    (s.modPw fun p => { p with claims := p.claims.mod h fun c => { c with v := false } }).settleMaster
  else s

/-! What a half holds (R32, R517, R520, R522). -/

/-- R522: channels whose context the half held on a sequencer, or whose float values it held, are lost. -/
def State.halfFaults (s : State) (h : Fin 2) : State :=
  let fowned (c : Fin 256) : Bool := allSeqs.any fun n =>
    let q := s.seqs.at n
    decide (seqHalf n = h) && q.fownV && q.fownD && decide (q.fownCh = c)
  let hit (c : Fin 256) : Bool :=
    let x := s.chans.at c
    decide (x.st ≠ .off) && ((x.res && decide (seqHalf x.sq = h)) || fowned c)
  let lose (c : Fin 256) : Channel :=
    let x := s.chans.at c
    if !hit c then x
    else if x.st = .fault ∧ !fowned c then { x with res := false }
    else { x with st := .fault, faultF := true, fcause := .ctxEcc, res := x.res && decide (seqHalf x.sq ≠ h),
                  resumeRec := false, stopRec := none, abort := false, faultRec := none }
  let s1 := { s with chans := Vector.ofFn lose }
  if allChans.any hit then s1.modHalf h fun x => { x with lostF := true } else s1

/-- R517, R522: every unit of the half takes its reset values; the rest latches of its lanes hold. -/
def State.halfReset (s0 : State) (h : Fin 2) : State :=
  let s := s0.gdSettled.noteQueues
  let s1 := { s with
    lanes := Vector.ofFn fun n => if laneHalf n = h then .reset (s.lanes.at n).rest (s.lanes.at n).level else s.lanes.at n,
    engines := Vector.ofFn fun n => if engHalf n = h then .reset else s.engines.at n,
    groups := Vector.ofFn fun g : Fin 16 => if seqHalf g = h then .reset else s.groups.at g,
    streams := Vector.ofFn fun n => if sfHalf n = h then .reset else s.streams.at n,
    crcs := Vector.ofFn fun k : Fin 32 => if k.val / 16 = h.val then .reset else s.crcs.at k,
    bss := Vector.ofFn fun k : Fin 16 => if seqHalf k = h then 0 else s.bss.at k,
    lcs := Vector.ofFn fun k : Fin 16 => if seqHalf k = h then 0 else s.lcs.at k,
    seqs := Vector.ofFn fun n => if seqHalf n = h then .reset else s.seqs.at n,
    ibufs := Vector.ofFn fun k => if clusterHalf k = h then .reset else s.ibufs.at k,
    gds := s.gds.mod h Guardian.halfLost }
  let s2 := s1.modCs fun c => { c with copies := Vector.ofFn fun k => if clusterHalf k = h then .reset else c.copies.at k }
  let s3 := s2.modTa fun t => { t with dogs := t.dogs.upd h .reset }
  s3.modDbg fun d =>
    { d with sqs := Vector.ofFn fun n =>
               if seqHalf n = h then { d.sqs.at n with
                 exempt := false, trapCatch := false, enCatch := false, grp := false, stepping := false, swOut := none }
               else d.sqs.at n,
             emu := d.emu.upd h false }

/-- R461: the stacks of the half's sequencer targets are emptied. -/
def State.halfStacks (s : State) (h : Fin 2) : State :=
  allSeqs.foldl (init := s) fun z n =>
    if seqHalf n = h then z.emptyStack (Fin.ofNat 18 n.val) z.sourceLevel else z

/-- R522, R532: the half passes from RUN or SLEEP to `st`, which is DOWN or UP. -/
def State.halfLeave (s : State) (h : Fin 2) (st : HalfSt) : State :=
  let s1 := if (s.power.halves.at h).st = .run then s.halfFaults h else s
  let s2 := (s1.halfReset h).modHalf h fun x => { x with st := st, wakeRec := false }
  let s3 := s2.modPw fun p => { p with claims := p.claims.upd h .reset, canary := p.canary.upd h 0 }
  ((s3.settleMaster.halfStacks h).eicSettle).refreeze

/-- R517: a command that the state does not accept. -/
def State.halfErr (s : State) (h : Fin 2) (e : Nat) : State := s.modHalf h fun x => { x with cmdErr := true, serr := e }

/-- R517: OFF. -/
def State.halfOff (s : State) (h : Fin 2) : State :=
  let st := (s.power.halves.at h).st
  if s.up ∧ (st = .run ∨ st = .sleep) then s.halfLeave h .down else s.halfErr h 1

/-- R517, R523: RESET, by a command or (`wd`) by the half's watchdog. -/
def State.halfRestart (s : State) (h : Fin 2) (wd : Bool) : State :=
  let st := (s.power.halves.at h).st
  if s.up ∧ (st = .run ∨ st = .sleep) then
    (s.halfLeave h .up).modPw fun p =>
      { p with rstCause := p.rstCause ||| BitVec.ofNat 8 (2 ^ ((if wd then 2 else 4) + h.val)) }
  else s.halfErr h 1

/-- R517: ON. -/
def State.halfOn (s : State) (h : Fin 2) : State :=
  if s.up ∧ (s.power.halves.at h).st = .off then s.modHalf h fun x => { x with st := .up } else s.halfErr h 1

/-- R519: the half is quiet. -/
def State.quiet (s : State) (h : Fin 2) : Bool :=
  (allSeqs.all fun n => decide (seqHalf n ≠ h) ||
    (match (s.seqs.at n).st with | .off | .idle | .nap => true | _ => false)) &&
  (allEngines.all fun n => decide (engHalf n ≠ h) || decide ((s.engines.at n).st = .off)) &&
  (allLanes.all fun n => decide (laneHalf n ≠ h) || decide ((s.lanes.at n).st = .off)) &&
  (allStreams.all fun n => decide (sfHalf n ≠ h) || decide ((s.streams.at n).st = .off)) &&
  decide ((s.gdSettled.gds.at h).st = .off)

/-- R517, R519: SLEEP. -/
def State.halfSleep (s : State) (h : Fin 2) : State :=
  if s.up ∧ (s.power.halves.at h).st = .run then
    if s.quiet h then
      (((s.modHalf h fun x => { x with st := .enter, wakeRec := false }).modPw fun p =>
        { p with canary := p.canary.upd h 0 }).halfStacks h).eicSettle
    else s.halfErr h 2
  else s.halfErr h 1

/-- R517: WAKE. -/
def State.halfWake (s : State) (h : Fin 2) : State :=
  match s.up, (s.power.halves.at h).st with
  | true, .sleep => s.wakeHalf h
  | true, .enter => s.wakeHalf h
  | _, _ => s.halfErr h 1

/-- R519: a channel that has become READY with affinity to a half that sleeps, or enters sleep, is a wake request for it
where AUTOWAKE is 1. -/
def State.autowake (s : State) (c : Fin 256) : State :=
  let h := seqHalf (s.chans.at c).seqNo
  if s.waiting c ∧ bit (s.power.halves.at h).cfg 1 then s.wakeHalf h else s

/-- R517: a write of PW_HALFh_CTRL. -/
def State.halfCtrl (s : State) (h : Fin 2) (v : W32) : State :=
  if !s.up then s.halfErr h 1 else
  let s1 := if bit v 0 then s.halfOff h else s
  let s2 := if bit v 1 then s1.halfRestart h false else s1
  let s3 := if bit v 2 then s2.halfOn h else s2
  let s4 := if bit v 3 then s3.halfSleep h else s3
  if bit v 4 then s4.halfWake h else s4

/-- R517, R554: the half leaves reset and runs. -/
def State.halfUpDone (s : State) (h : Fin 2) : State :=
  if s.up ∧ (s.power.halves.at h).st = .up then
    let ks := [0, 1, 2, 3].filter fun k : Fin 4 => decide (clusterHalf k = h)
    let s1 := s.halfReset h
    let s2 := { s1 with sec := { s1.sec with csLock := clearValid s1.sec.csLock ks,
                                             patchValid := clearValid s1.sec.patchValid ks } }
    (s2.modHalf h fun x => { x with st := .run, done := true }).eicSettle
  else s

/-- R519: the dirty float banks of the half's sequencers are saved, in order; false where one finds no free node. A save costs
2 µw more than in the float microtrap of R256. -/
def State.saveBanks (s : State) (h : Fin 2) : Bool × State :=
  allSeqs.foldl (init := (true, s)) fun acc n =>
    let q := acc.2.seqs.at n
    if acc.1 ∧ seqHalf n = h ∧ q.fownV ∧ q.fownD then
      match acc.2.floatSave n with
      | .done s1 => (true, (s1.uw n 2).modSeq n fun q => { q with fownV := false, fownD := false })
      | .pool s1 => (false, s1)
      | .ecc s1 =>
        let c := q.fownCh
        let x := s1.chans.at c
        (true, (s1.modSeq n fun q => { q with fownV := false, fownD := false }).modChan c fun y =>
          if x.st = .off ∨ x.st = .fault then y
          else
            let y1 := { y with st := .fault, faultF := true, fcause := .ctxEcc }
            if x.det then y1.breached .ecc s1.now else y1)
      | .trap s1 _ => (true, s1)
    else acc

/-- R520: what SLEEP loses. -/
def State.sleepLoss (s : State) (h : Fin 2) : State :=
  { s with
    lanes := Vector.ofFn fun n =>
      let l := s.lanes.at n
      if laneHalf n = h then { l with aq := [], cq := [], pend := [], cand := none } else l,
    engines := Vector.ofFn fun n =>
      let e := s.engines.at n
      if engHalf n = h then
        { e with osr := 0, ocnt := 0, isr := 0, icnt := 0, at_ := 0, ct := 0, ps := 0, pv := false, cvLev := 0, cvPres := 0,
                 cmpVal := 0, cmpMask := 0, eq := false, lvLev := 0, lvVal := 0, rep := 0, pc := 0, lt := .data,
                 ifs := Bank.fill 8 [], ofs := Bank.fill 8 [], clk := [], stepDone := 0, ofOpen := 0, abortPend := 0, wm := 0 }
      else e,
    seqs := Vector.ofFn fun n =>
      let q := s.seqs.at n
      if seqHalf n = h then { q with q := Bank.fill 16 0, fctl := 0, resv := none, fownV := false, fownD := false } else q,
    ibufs := Vector.ofFn fun k : Fin 4 =>
      let b := s.ibufs.at k
      if clusterHalf k = h then { b with sets := Bank.fill 32 [] } else b }

/-- R517, R519, R520, R586: every bank of a half in ENTER is saved, and it enters SLEEP, or returns to RUN with POOL. -/
def State.halfSleepDone (s : State) (h : Fin 2) : State :=
  if s.up ∧ (s.power.halves.at h).st = .enter then
    match s.saveBanks h with
    | (false, s1) => ((s1.modHalf h fun x => { x with st := .run, wakeRec := false }).halfErr h 3).eicSettle
    | (true, s1) =>
      let emu := decide (s.grant = 2) && bit s.dbg.cfg 3 && !(s.power.halves.at h).wakeRec
      let s2 := (s1.sleepLoss h).modDbg fun d => { d with emu := d.emu.upd h emu }
      (s2.modHalf h fun x => { x with st := if x.wakeRec then .wake else .sleep, wakeRec := false, done := true }).eicSettle
  else s

/-- R517, R520: the wake of the half completes. -/
def State.halfWakeDone (s : State) (h : Fin 2) : State :=
  if s.up ∧ (s.power.halves.at h).st = .wake then
    let one (n : Fin 16) : Seq :=
      let q := s.seqs.at n
      if seqHalf n = h ∧ q.st = .nap then { q with st := .idle, idleSince := s.now } else q
    let s1 := { s with seqs := Vector.ofFn one }
    ((s1.modHalf h fun x => { x with st := .run, done := true }).modDbg fun d =>
      { d with emu := d.emu.upd h false }).eicSettle
  else s

/-- R517: the switches of the half are open. -/
def State.halfDownDone (s : State) (h : Fin 2) : State :=
  if s.up ∧ (s.power.halves.at h).st = .down then s.modHalf h fun x => { x with st := .off, done := true } else s

/-! Watchdog kicks and expiry (R485). -/

/-- R485: an expiry: EXPF, the reload and the action. -/
def State.wdExpire (s : State) (w : Fin 2) : State :=
  let s1 := s.modWd w fun x => { x with expF := true, cnt := x.load, due := false }
  match fldN (s.ta.dogs.at w).cfg 28 2 with
  | 0 => s1
  | 1 => s1.halfRestart w true
  | _ => s1.modPw fun p => { p with sysRst := true }

/-- R485: the expiry that a decrement has left. -/
def State.wdExpiry (s : State) (w : Fin 2) : State := if s.wdUp w ∧ (s.ta.dogs.at w).due then s.wdExpire w else s

/-- R485: a write of WDx_KICK. -/
def State.wdKick (s : State) (w : Fin 2) (v : W32) : State :=
  if (s.ta.dogs.at w).st = .off then s
  else if fldN v 0 16 = 0xA5C3 then s.modWd w fun x => { x with cnt := x.load }
  else (s.modWd w fun x => { x with keyErr := true }).wdExpire w

/-! Resets of the common region and the always-on domain (R523 to R526, R538). -/

/-- R523: the common region and both halves take their reset values. What the battery and always-on domains hold, the
contents of the memories and the responses in the host adapter stay. `cause` is the bit of PW_RSTCAUSE. -/
def State.commonReset (s : State) (cause : Nat) : State :=
  let old := s.grant
  let s1 := { s with
    beryl := .reset,
    lanes := s.lanes.map fun l : Lane => .reset l.rest l.level,
    hp := { s.hp with err := none }, xf := .reset, key := s.key.clear,
    chans := Bank.fill 256 .reset, posts := Bank.fill 18 .reset, seqs := Bank.fill 16 .reset, ibufs := Bank.fill 4 .reset,
    pool := .reset,
    mem := { Mem.reset with cells := s.mem.cells, corr := s.mem.corr, unc := s.mem.unc },
    engines := Bank.fill 64 .reset, groups := Bank.fill 16 .reset, streams := Bank.fill 128 .reset,
    crcs := Bank.fill 32 .reset, bss := Bank.fill 16 0, lcs := Bank.fill 16 0, gds := s.gds.map Guardian.cleared,
    abs_ := Bank.fill 16 .reset, sn := .reset, ta := .reset, eic := .reset, cs := .reset,
    vault := { s.vault with aonLoad := s.vault.aonLoad || decide (s.sec.ld.st ≠ LdSt.idle) },
    sec := .reset, dbg := { Debug.reset with port := s.dbg.port, cfg := s.dbg.cfg },
    cw := .reset }
  let s2 := s1.modPw fun p =>
    { p with crst := true, cready := false, sokSince := 0 - s.supplyTime, rstCause := p.rstCause ||| BitVec.ofNat 8 (2 ^ cause),
             halves := p.halves.map fun x : Half => { x with st := .off, wakeRec := false },
             claims := Bank.fill 2 .reset, canary := Bank.fill 2 0, canaryAt := none }
  s2.settleMaster.regrant old

/-- R525: a low on RST_N is recognised. -/
def State.rstAssert (s : State) : State :=
  if s.power.vao ∧ s.power.porst ∧ s.power.rst then
    let sys := s.power.sysRst
    (s.commonReset 1).modPw fun p => { p with rst := false, sysRst := false, rstCause := if sys then p.rstCause ||| 0x40 else p.rstCause }
  else s

/-- R524, R526, R538, R553: RST_N is released: the common region leaves reset, with memory set-up and an Agate wipe. -/
def State.rstRelease (s : State) : State :=
  if s.power.vao ∧ s.power.porst ∧ s.power.vcore ∧ s.power.crst then
    let old := s.grant
    let s1 := if s.power.vcoreLost || s.vault.aonLoad then s.memZero [0, 1, 2, 3] else s
    let s2 := (s1.agWipe 3).modBeryl fun b => { b with st := .waitRef }
    let s3 := s2.modPw fun p =>
      { p with rst := true, crst := false, vcoreLost := false,
               halves := p.halves.map fun x : Half => { x with st := if bit x.cfg 0 then .off else .up } }
    ({ s3 with vault := { s3.vault with aonLoad := false } }).regrant old
  else s

/-- R526: memory set-up and the Agate wipe have ended. -/
def State.commonReady (s : State) : State :=
  if s.up ∧ !s.power.cready then s.agWipeDone.modPw fun p => { p with cready := true } else s

/-- R523: VCORE is lost. -/
def State.vcoreLoss (s : State) : State :=
  if s.power.vao ∧ s.power.vcore then
    let s1 := s.commonReset 7
    (({ s1 with hp := s1.hp.clear }).memZero [0, 1, 2, 3]).modPw fun p => { p with vcore := false, vcoreLost := true }
  else s

/-- R526: VCORE is back. -/
def State.vcoreReturn (s : State) : State :=
  if s.power.vao ∧ !s.power.vcore then s.modPw fun p => { p with vcore := true } else s

/-- R523, R526, R534, R587: the always-on domain takes its reset values, and with it everything but the battery domain and
the contents of the memories. `porst` is the level of PORST_N afterwards. -/
def State.aonReset (s : State) (porst : Bool) : State :=
  let s1 := s.commonReset 0
  let s2 := { s1 with lanes := s1.lanes.map fun l : Lane => .reset 0 l.level, hp := s1.hp.clear,
                      dbg := { Debug.reset with port := .reset } }
  s2.modPw fun p =>
    { Power.reset with sok := p.sok, vcore := p.vcore, vcoreLost := p.vcoreLost || !p.vcore, porst := porst, testMode := p.testMode }

/-- R523: VAO is first applied, or PORST_N is asserted. -/
def State.powerOn (s : State) : State := (s.aonReset false).modPw fun p => { p with vao := true }

/-- R526: PORST_N is released, and the PW registers are at their reset values whatever came while it was low. -/
def State.porstRelease (s : State) : State := if s.power.vao ∧ !s.power.porst then s.aonReset true else s

/-- R588: TEST_MODE changes to `v`. -/
def State.testMode (s : State) (v : Bool) : State :=
  if s.power.vao ∧ s.power.testMode ≠ v then (s.aonReset s.power.porst).modPw fun p => { p with testMode := v } else s

/-- R516: VAO is removed.
DESIGN CHOICE (log 17): the outputs that R84 calls undefined without VAO, or leaves to the pads of the integrator, keep the
levels of a reset block: SYS_RST_REQ and KP_REQ low, lanes at rest code 0b00. -/
def State.vaoLoss (s : State) : State :=
  if s.power.vao then
    let s1 := s.aonReset false
    (s1.memZero [0, 1, 2, 3]).modPw fun p =>
      { p with vao := false, vcore := false, vcoreLost := true, rstCause := 0 }
  else s

/-- R516: VBAT falls below 1.8 V. What the registers of the battery domain read until it is initialised is left open. -/
def State.batteryLoss (s : State) : State :=
  if s.bat.vok then
    let old := s.grant
    let f := s.free
    let w (k : Nat) : W32 := Config.freeWord (f + k)
    ({ s with
      bat := { s.bat with vok := false, data := Vector.ofFn fun i => w i.val },
      vault := { s.vault with
        state := fld (w 64) 0 4, count := fld (w 65) 0 8, svn := w 66, tamperCfg := w 67 &&& 0x8000FFFF,
        tflag := fld (w 68) 0 4, wrap := bit (w 69) 0, tcount := fldN (w 70) 0 8, head := Fin.ofNat 16 (fldN (w 71) 0 4),
        log := Vector.ofFn fun i => { lo := w (72 + 2 * i.val), hi := w (73 + 2 * i.val) &&& 0xFF8FFFFF } },
      free := f + 104 }).regrant old
  else s

/-- R533, R538: VBAT returns and the battery domain is initialised. -/
def State.batteryInit (s : State) : State :=
  if s.bat.vok then s
  else
    let old := s.grant
    let s1 := ({ s with bat := .reset, vault := { Vault.reset with aonLoad := s.vault.aonLoad, inputs := s.vault.inputs } }).regrant old
    if s1.up then
      let s2 := s1.commonReset 7
      (s2.memZero [0, 1, 2, 3]).modPw fun p => { p with vcoreLost := true }
    else s1

/-! Registers (R535). -/

def HalfSt.num : HalfSt → Nat
  | .off => 0
  | .up => 1
  | .run => 2
  | .enter => 3
  | .sleep => 4
  | .wake => 5
  | .down => 6

def Power.stat (p : Power) : W32 := putB 1 p.cready ||| putB 0 p.crst
def Power.supStat (p : Power) : W32 :=
  put 16 p.guardCnt.toNat ||| putB 3 p.lowF ||| putB 2 p.floorLow ||| putB 1 p.sokLow ||| putB 0 p.low

def State.supStatW (s : State) (v : W32) : State :=
  s.modPw fun p => { p with guardCnt := fld v 16 16, lowF := p.lowF && !bit v 3 }

def Half.stat (x : Half) : W32 :=
  put 12 x.serr ||| putB 10 x.lostF ||| putB 9 x.cmdErr ||| putB 8 x.done ||| put 0 x.st.num

def State.halfStatW (s : State) (h : Fin 2) (v : W32) : State :=
  s.modHalf h fun x => { x with lostF := x.lostF && !bit v 10, cmdErr := x.cmdErr && !bit v 9, done := x.done && !bit v 8 }

def Claim.word (c : Claim) : W32 := putB 31 c.v ||| put 0 c.epoch.toNat

def MasterSel.num : MasterSel → Nat
  | .none => 0
  | .north => 1
  | .south => 2

def Power.leaseStat (p : Power) : W32 :=
  putB 10 (p.eperr.at 1) ||| putB 9 (p.eperr.at 0) ||| putB 8 p.chg ||| put 0 p.master.num

def State.leaseStatW (s : State) (v : W32) : State :=
  s.modPw fun p => { p with eperr := (p.eperr.mod 1 fun b => b && !bit v 10).mod 0 fun b => b && !bit v 9,
                            chg := p.chg && !bit v 8,
                            masterWas := p.masterWas.map fun x => { x with chg := x.chg && !bit v 8 } }

/-- PW_CANARY as it reads: a half that is gated or in reset reads 0 (R135). -/
def State.canaryWord (s : State) : W32 :=
  let r (h : Fin 2) : Nat := if s.halfUp h then (s.power.canary.at h).toNat else 0
  put 16 (r 1) ||| put 0 (r 0)

def Power.canaryMinWord (p : Power) : W32 := put 16 (p.canaryMin.at 1).toNat ||| put 0 (p.canaryMin.at 0).toNat

def Gasp.stat (g : Gasp) : W32 := putB 9 g.err ||| putB 8 g.done ||| put 4 g.cause ||| put 0 g.ref.toNat

def State.gaspStatW (s : State) (v : W32) : State :=
  s.modPw fun p => { p with gasp := { p.gasp with err := p.gasp.err && !bit v 9, done := p.gasp.done && !bit v 8 } }

/-- R530: the result of last-gasp write `k`: the cause of its refusal, where it was refused. -/
def Gasp.wrote (g : Gasp) (k : Fin 4) (c : Option Cause) : Gasp :=
  let g1 := match c with
    | none => g
    | some x => { g with ref := g.ref ||| BitVec.ofNat 4 (2 ^ k.val), err := true, cause := if g.ref = 0 then x.code else g.cause }
  { g1 with left := g1.left.tail, done := g1.done || decide (g1.left.tail = []) }

end Sys2Proof.Machine
end

