-- ==== Sys2Proof/Machine/Security.lean ====
section
/-! DEFINITION. Lifecycle transitions, Hagal images and their loader, and tamper events
(spec/21_security_lifecycle.md). -/

namespace Sys2Proof.Machine

def State.modSec (s : State) (f : Security → Security) : State := { s with sec := f s.sec }
def State.modLd (s : State) (f : Loader → Loader) : State := s.modSec fun x => { x with ld := f x.ld }
def State.modVault (s : State) (f : Vault → Vault) : State := { s with vault := f s.vault }

/-! The tamper log (R557). -/

/-- R557: entry `x` goes before `y` of the same TD0 ns: the one of the lower source. -/
def TamperEntry.before (x y : TamperEntry) : Bool :=
  !bit x.hi 30 && bit y.hi 31 && decide (x.lo = y.lo ∧ (x.hi ^^^ y.hi) &&& 0xC00FFFFF = 0 ∧ fldN x.hi 27 3 < fldN y.hi 27 3)

/-- R557: the entry at `i` goes back past entries of its ns that it precedes; `k` bounds how many. -/
def tamperSort : Nat → Bank TamperEntry 16 → Fin 16 → Bank TamperEntry 16
  | 0, l, _ => l
  | k + 1, l, i =>
    let x := l.at i
    let y := l.at (i - 1)
    if x.before y then tamperSort k ((l.upd i y).upd (i - 1) x) (i - 1) else l

/-- R557: an entry is written at HEAD, and takes its place among those of its ns. One that had to wait (`sort` false) keeps the
last. -/
def State.tamperLog (s : State) (src arg : Nat) (sort : Bool) : State :=
  let on := s.ticking
  let e : TamperEntry :=
    { lo := if on then lo32 s.now else 0,
      hi := putB 31 true ||| putB 30 (!on) ||| put 27 src ||| put 23 arg ||| (if on then put 0 (fldN s.now 32 20) else 0) }
  s.modVault fun v =>
    let l := v.log.upd v.head e
    { v with log := if sort then tamperSort 15 l v.head else l, head := v.head + 1, wrap := v.wrap || bit (v.log.at v.head).hi 31,
             tcount := sat255 v.tcount }

/-! Transitions (R541 to R543). -/

/-- The five state codes (R537). -/
def lcCode (x : BitVec 4) : Bool := decide (x = 0 ∨ x = 1 ∨ x = 3 ∨ x = 7 ∨ x = 0xF)

/-- R541: the pair is in the table of transitions made by SEC_LC_REQ. -/
def lcPair (a b : BitVec 4) : Bool :=
  decide ((a = 0 ∧ b = 1) ∨ ((a = 0 ∨ a = 1) ∧ b = 3) ∨ (a = 1 ∧ b = 7) ∨ (b = 0xF ∧ (a = 0 ∨ a = 1 ∨ a = 3 ∨ a = 7)))

/-- R541: the transition to `b` clears memories, control stores and secure words too. -/
def lcFull (b : BitVec 4) : Bool := decide (b = 7 ∨ b = 0xF)

/-- BB_DATA48 to BB_DATA59 are all 0. -/
def Battery.noKey (b : Battery) : Bool := (List.range 12).all fun i => decide (b.data.at (Fin.ofNat 64 (48 + i)) = 0)

/-- R542, R550: a sequencer is in a state other than OFF. -/
def State.seqsBusy (s : State) : Bool := allSeqs.any fun n => decide ((s.seqs.at n).st ≠ .off)

/-- R542: the RESULT of a request that fails, none for one that is accepted. -/
def State.lcJudge (s : State) (v : W32) : Option Nat :=
  let tgt : BitVec 4 := fld v 0 4
  let st := s.vault.state
  if fldN v 16 16 ≠ 0x4C43 then some 1
  else if s.sec.tr.st ≠ .idle ∨ s.sec.ld.st ≠ .idle ∨ s.seqsBusy then some 2
  else if !lcCode tgt then some 3
  else if st = 3 ∧ tgt = 7 then some 4
  else if !lcPair st tgt then some 5
  else if tgt = 3 ∧ s.bat.noKey then some 6
  else if s.power.low then some 7
  else none

/-- The clusters whose half is in RUN. -/
def State.runClusters (s : State) : List (Fin 4) := [0, 1, 2, 3].filter fun k : Fin 4 => s.halfUp (clusterHalf k)

/-- R541: the control stores of the clusters whose half is in RUN are zeroed, and CSLOCK with them. -/
def State.csZero (s : State) : State :=
  let ks := s.runClusters
  (s.csChange ks fun _ => .reset).modSec fun x => { x with csLock := clearValid x.csLock ks }

/-- R543: the CLEAR step begins. -/
def State.lcStart (s : State) (tgt : BitVec 4) (byLoad : Bool) : State :=
  let full := lcFull tgt
  let s1 := s.modSec fun x =>
    { x with lcResult := 0, tr := { st := .clear, target := tgt, full := full, byLoad := byLoad } }
  let s2 := if full then
      let s3 := s1.memZero [0, 2, 3]
      ({ s3 with seqs := s3.seqs.map fun q : Seq => { q with resv := none } }).csZero
    else s1
  s2.agWipe 1

/-- R542: a write of SEC_LC_REQ. -/
def State.lcRequest (s : State) (v : W32) : State :=
  match s.lcJudge v with
  | some r =>
    let s1 := s.modSec fun x => { x with lcResult := r }
    if r = 7 then s1.guardRefused else s1
  | none => s.lcStart (fld v 0 4) false

/-- R549: the load ends, with DONE, and the key is overwritten with zeros. -/
def State.ldEnd (s : State) (err : Nat) : State :=
  { s.modLd fun l => { l with st := .idle, done := true, err := err } with key := s.key.clear }

/-- R543: the COMMIT step. -/
def State.lcCommit (s : State) : State :=
  let tr := s.sec.tr
  if s.up ∧ tr.st = .clear ∧ !s.mem.wiping then
    let old := s.grant
    let fin (z : State) (r : Nat) : State :=
      let z1 := z.modSec fun x => { x with lcResult := r, lcDone := true, tr := .reset }
      if tr.byLoad then z1.ldEnd (if r = 7 then 12 else 0) else z1
    if s.power.low then fin s.guardRefused 7
    else
      let s1 := if tr.full then
          { s with bat := { s.bat with data := Vector.ofFn fun i : Fin 64 => if 32 ≤ i.val then 0 else s.bat.data.at i } }
        else s
      let s2 := s1.modVault fun v => { v with state := tr.target, count := v.count + 1 }
      (fin (s2.tamperLog 4 tr.target.toNat true) 0).regrant old
  else s

/-! Hagal images (R544 to R547). -/

/-- The little-endian field of `n` bytes at offset `a`. -/
def imgLe (l : List Byte) (a n : Nat) : Nat := beNat ((l.drop a).take n).reverse

/-- The bytes from `a`, `n` of them. -/
def imgBytes (l : List Byte) (a n : Nat) : List Byte := (l.drop a).take n

def imgTotal (l : List Byte) : Nat := imgLe l 8 4
def imgSects (l : List Byte) : Nat := imgLe l 0xC 2
def imgEnc (l : List Byte) : Bool := decide (imgLe l 7 1 % 2 = 1)
def imgCustomer (l : List Byte) : Bool := decide (imgLe l 7 1 / 2 % 2 = 1)
def imgSvnUp (l : List Byte) : Bool := decide (imgLe l 7 1 / 4 % 2 = 1)
def imgAuth (l : List Byte) : Bool := decide (imgLe l 6 1 = 2)
def imgRomRev (l : List Byte) : Nat := imgLe l 0xE 2
def imgSvn (l : List Byte) : Nat := imgLe l 0x14 4

/-- R544: H, where the number of sections is one that the header may give. -/
def imgH (l : List Byte) : Nat := 0xC0 + (if imgSects l ≤ 32 then 16 * imgSects l else 0)

/-- R544: P. -/
def imgP (l : List Byte) : Nat := imgTotal l - imgH l - 96

/-- The offsets of the entries of the section table. -/
def imgTable (l : List Byte) : List Nat := (List.range (min 32 (imgSects l))).map fun i => 0xC0 + 16 * i

def sectDest (l : List Byte) (e : Nat) : Nat := imgLe l e 4
def sectLen (l : List Byte) (e : Nat) : Nat := imgLe l (e + 4) 4
def sectType (l : List Byte) (e : Nat) : Nat := imgLe l (e + 8) 1
def sectLock (l : List Byte) (e : Nat) : Bool := decide (imgLe l (e + 9) 1 % 2 = 1)
def sectOff (l : List Byte) (e : Nat) : Nat := imgLe l (e + 12) 4

/-- The image has a section of one of the types `ts`. -/
def imgHas (l : List Byte) (ts : List Nat) : Bool := (imgTable l).any fun e => ts.contains (sectType l e)

/-- R546: the destination range of a section. -/
def sectDestOk (l : List Byte) (e : Nat) : Bool :=
  let d := sectDest l e
  let n := sectLen l e
  match sectType l e with
  | 1 => decide (0x1800000 ≤ d ∧ d + n ≤ 0x1880000 ∧ d % 8 = 0 ∧ n % 8 = 0)
  | 2 => decide (0x4000 ≤ d ∧ d + n / 4 ≤ 0x8000)
  | 3 => decide (d + n / 4 ≤ 64)
  | 4 => decide (0x1200000 ≤ d ∧ d + n ≤ 0x1210000 ∧ d % 8 = 0 ∧ n % 8 = 0) && imgEnc l
  | _ => false

/-- R546: an entry of the section table but for overlaps. -/
def sectOk (l : List Byte) (e : Nat) : Bool :=
  sectDestOk l e && decide (sectLen l e % 4 = 0 ∧ imgLe l (e + 9) 1 ≤ 1 ∧ imgLe l (e + 10) 2 = 0 ∧ sectOff l e % 8 = 0 ∧
    sectOff l e + sectLen l e ≤ imgP l)

/-- R546: two sections do not overlap in the payload. -/
def sectApart (l : List Byte) (a b : Nat) : Bool :=
  decide (sectOff l a + sectLen l a ≤ sectOff l b ∨ sectOff l b + sectLen l b ≤ sectOff l a)

/-- R544 to R546. -/
def imgFormat (l : List Byte) : Bool :=
  let kind := imgLe l 6 1
  let n := imgSects l
  let t := imgTotal l
  let arg := imgLe l 0x1C 4
  decide (imgBytes l 0 4 = [0x48, 0x47, 0x4C, 0x39] ∧ imgLe l 4 2 = 1 ∧ imgLe l 7 1 < 8) &&
  decide ((kind = 1 ∧ 1 ≤ n ∧ n ≤ 32 ∧ arg = 0) ∨ (kind = 2 ∧ n = 0 ∧ arg / 16 % 16 = 0 ∧ arg < 0x10000)) &&
  decide (t % 8 = 0 ∧ t ≤ 1048576 ∧ imgH l + 96 ≤ t) &&
  (imgEnc l || decide (imgLe l 0x20 12 = 0 ∧ imgLe l 0x30 16 = 0)) &&
  decide (imgLe l 0x2C 4 = 0 ∧ imgLe l 0xA0 32 = 0) &&
  (imgTable l).all (sectOk l) &&
  decide ((imgTable l).Pairwise fun a b => sectApart l a b = true)

/-- R539, R550: the present state refuses the kind, the key or ENC, or the target of an authorization. -/
def imgRefused (l : List Byte) (st : BitVec 4) (count : BitVec 8) : Bool :=
  let enc := imgEnc l || decide (st = 0 ∨ st = 1 ∨ st = 7)
  let kind :=
    if imgAuth l then
      let arg := imgLe l 0x1C 4
      decide (st = 3 ∧ arg % 16 = 7 ∧ arg / 256 = count.toNat)
    else if imgCustomer l then decide (st = 0 ∨ st = 1 ∨ st = 3)
    else decide (st = 0 ∨ st = 1 ∨ st = 7)
  !(enc && kind)

/-- R547: the customer key hash as a number. -/
def Battery.keyHash (b : Battery) : Nat :=
  (List.range 12).foldl (fun n i => n * 2 ^ 32 + (b.data.at (Fin.ofNat 64 (48 + i))).toNat) 0

/-- R9: version 9.2 of the block meets MINVER. -/
def versionMeets (minver : Nat) : Bool := decide (minver / 0x10000 = 9 ∧ minver % 0x10000 ≤ 2)

/-- R550, orders 2 to 8: the first check of the header that fails. -/
def State.ldHeader (s : State) (l : List Byte) : Option Nat :=
  let want := if imgCustomer l then s.bat.keyHash else Config.vendorHash.toNat
  if !imgFormat l || decide (imgTotal l < s.sec.ld.fedBytes) then some 3
  else if imgRefused l s.vault.state s.vault.count then some 4
  else if imgCustomer l && s.bat.noKey then some 5
  else if beNat (sha384 (imgBytes l 0x40 96)) ≠ want then some 6
  else if !versionMeets (imgLe l 0x10 4) || decide (imgRomRev l ≠ 0 ∧ imgRomRev l ≠ 0x11) ||
      (decide (imgRomRev l = 0) && imgHas l [2, 3]) then some 7
  else if imgSvn l < s.vault.svn.toNat then some 8
  else if imgHas l [2, 3] && !(s.halfUp 0 && s.halfUp 1) then some 2
  else none

/-! The loader (R548 to R553). -/

/-- An AGATE section of the image has been written to. -/
def Loader.agWritten (l : Loader) : Bool :=
  (imgTable l.img).any fun e => decide (sectType l.img e = 4 ∧ sectOff l.img e < l.paid ∧ 0 < sectLen l.img e)

/-- R549, R552: the load fails with `err` and enters ROLLBACK. -/
def State.ldFail (s : State) (err : Nat) : State :=
  let s1 := { s.modLd fun l => { l with st := .rollback, err := err, fed := [] } with key := { s.key with req := false, waits := false } }
  if s.sec.ld.agWritten then s1.agWipe 0 else s1

/-- A refusal of the load by supply guarding. -/
def State.ldGuard (s : State) : State := s.guardRefused.ldFail 12

/-- R549, R550: GO. -/
def State.ldGo (s : State) : State :=
  if s.sec.ld.st ≠ .idle then s
  else if s.sec.tr.st ≠ .idle ∨ s.seqsBusy then s.modLd fun l => { l with err := 1, done := true }
  else if s.power.low then s.guardRefused.modLd fun l => { l with err := 12, done := true }
  else s.modLd fun l =>
    { l with st := .header, err := 0, free := Bank.fill 2 true, fed := [], fedBytes := 0, img := [], paid := 0 }

/-- HEADER to COMMIT. -/
def LdSt.loading : LdSt → Bool
  | .idle | .rollback => false
  | _ => true

/-- R549: ABORT. It does not stop a transition that the image has started. -/
def State.ldAbort (s : State) : State :=
  if s.sec.ld.st.loading ∧ !(s.sec.tr.st = .clear ∧ s.sec.tr.byLoad) then s.ldFail 15 else s

/-- A write of SEC_LD_CTRL. -/
def State.ldCtrl (s : State) (v : W32) : State :=
  if s.sec.ld.st = .idle then (if bit v 0 then s.ldGo else s) else if bit v 1 then s.ldAbort else s

/-- R548: a write of word `w` of window half `h`, which is FREE. -/
def State.ldWindow (s : State) (h : Fin 2) (w : Fin 4096) (v : W32) : State :=
  s.modLd fun l => { l with win := sparseSet 0 l.win (4096 * h.val + w.val) v, bad := l.bad.filter (· ≠ 4096 * h.val + w.val) }

/-- R548: a write of SEC_LD_FEED. -/
def State.ldFeed (s : State) (v : W32) : State :=
  let l := s.sec.ld
  let h : Fin 2 := if bit v 16 then 1 else 0
  let n := fldN v 0 13
  if l.st = .idle ∨ l.st = .commit ∨ l.st = .rollback ∨ !l.free.at h ∨ n = 0 ∨ 4096 < n then
    s.modLd fun l => { l with feedErr := true }
  else if 12 ≤ l.img.length ∧ imgTotal l.img < l.fedBytes + 4 * n then s.ldFail 3
  else s.modLd fun l => { l with free := l.free.upd h false, fed := l.fed ++ [(h, n)], fedBytes := l.fedBytes + 4 * n }

/-- How many bytes of the image the present state consumes (R549). -/
def Loader.limit (l : Loader) : Nat :=
  match l.st with
  | .header => if l.img.length < 0xC0 then 0xC0 else imgH l.img
  | .pass => imgTotal l.img - 96
  | .verify => imgTotal l.img
  | _ => 0

/-- The bytes of `n` words of the window from word `w` up. -/
def Loader.winBytes (l : Loader) (w n : Nat) : List Byte :=
  (List.range n).flatMap fun i => (beBytes 4 (sparseGet (0 : W32) l.win (w + i)).toNat).reverse

/-- R549, R551: the oldest fed half is consumed as far as the present state goes; none where nothing is. -/
def Loader.take (l : Loader) : Option Loader :=
  match l.fed with
  | [] => none
  | (h, n) :: rest =>
    let later := rest.foldl (fun k x => k + 4 * x.2) 0
    let left := l.fedBytes - l.img.length - later
    let k := min left (l.limit - l.img.length)
    if k < 4 then none
    else
      let b := l.winBytes (4096 * h.val + n - left / 4) (k / 4)
      let l1 := { l with img := l.img ++ b }
      some (if left ≤ 4 * (k / 4) then { l1 with fed := rest, free := l.free.upd h true } else l1)

/-- R551: `d`, the plain bytes of section `e` from its byte `o` up, go to the destination. -/
def State.ldStore (s : State) (e o : Nat) (d : List Byte) : State :=
  let img := s.sec.ld.img
  let dst := sectDest img e
  match sectType img e with
  | 1 => (List.range (d.length / 8)).foldl (init := s) fun z i => z.memWrite 18 (dst + o + 8 * i) 8 (imgLe d (8 * i) 8)
  | 4 => (List.range (d.length / 8)).foldl (init := s) fun z i =>
      let a := dst + o + 8 * i
      if z.mem.wiping || z.mem.wlock.getLsbD (agSegment a) then z else z.memWrite 18 a 8 (imgLe d (8 * i) 8)
  | 2 => s.csChange s.runClusters fun c => (List.range (d.length / 4)).foldl (init := c) fun x i =>
      x.setWord (dst + o / 4 + i) (BitVec.ofNat 32 (imgLe d (4 * i) 4))
  | 3 => s.csChange s.runClusters fun c => (List.range (d.length / 4)).foldl (init := c) fun x i =>
      { x with pm := x.pm.upd (Fin.ofNat 64 (dst + o / 4 + i)) (BitVec.ofNat 32 (imgLe d (4 * i) 4) &&& pmMask) }
  | _ => s

/-- R550: the destination of the bytes `a` to `b` of section `e` holds an uncorrectable error: a word of memory, by its offset
divided by 8, or a word of a control store (none).
DESIGN CHOICE (log 18): the loader meets the error of a word that it is about to write. -/
def State.ldDestBad (s : State) (e a b : Nat) : Option (Option Nat) :=
  let dst := sectDest s.sec.ld.img e
  match sectType s.sec.ld.img e with
  | 2 => if s.runClusters.any fun k => (s.cs.copies.at k).unc.any fun w => decide (dst + a / 4 ≤ w ∧ w < dst + b / 4)
         then some none else none
  | 3 => none
  | _ => (s.mem.unc.find? fun w => decide ((dst + a) / 8 ≤ w ∧ w < (dst + b) / 8)).map some

/-- R380, R550: the load ends for an uncorrectable error, which MEM_UNC_INFO records where it stands in a memory. -/
def State.ldEcc (s : State) (w : Option Nat) : State :=
  (match w with
    | some w => s.modMem fun m => m.noteUnc 18 w
    | none => s).ldFail 13

/-- The key's bytes (R80). -/
def keyBytes (k : BitVec 256) : List Byte := beBytes 32 k.toNat

/-- R528, R529, R551: the payload consumed since the last call is decrypted and written, in units of 8 bytes. Supply guarding
is judged before a step that writes. -/
def State.ldPayload (s : State) : State :=
  let l := s.sec.ld
  let upto := min (imgP l.img) ((l.img.length - imgH l.img) / 8 * 8)
  if upto ≤ l.paid then s
  else
    let raw := imgBytes l.img (imgH l.img + l.paid) (upto - l.paid)
    let plain := if imgEnc l.img then gcmCrypt (keyBytes s.key.key) (imgBytes l.img 0x20 12) l.paid raw else raw
    let hit := (imgTable l.img).filter fun e => decide (sectOff l.img e < upto ∧ l.paid < sectOff l.img e + sectLen l.img e)
    let lo (e : Nat) : Nat := max l.paid (sectOff l.img e)
    let hi (e : Nat) : Nat := min upto (sectOff l.img e + sectLen l.img e)
    if s.power.low && !hit.isEmpty then s.ldGuard
    else match hit.findSome? fun e => s.ldDestBad e (lo e - sectOff l.img e) (hi e - sectOff l.img e) with
    | some w => s.ldEcc w
    | none =>
      let s1 := hit.foldl (init := s) fun z e =>
        z.ldStore e (lo e - sectOff l.img e) (imgBytes plain (lo e - l.paid) (hi e - lo e))
      s1.modLd fun x => { x with paid := upto }

/-- R549: PASS ends when TOTAL − 96 bytes are consumed. -/
def State.ldSettle (s : State) : State :=
  let l := s.sec.ld
  if l.st = .pass ∧ imgTotal l.img - 96 ≤ l.img.length then s.modLd fun x => { x with st := .verify } else s

/-- R550: the bytes consumed from `l0` to `l` come from window words that hold an uncorrectable error. -/
def Loader.winBad (l l0 : Loader) : Bool :=
  match l0.fed with
  | [] => false
  | (h, n) :: rest =>
    let left := l0.fedBytes - l0.img.length - rest.foldl (fun k x => k + 4 * x.2) 0
    let a := 4096 * h.val + n - left / 4
    l0.bad.any fun w => decide (a ≤ w ∧ w < a + (l.img.length - l0.img.length) / 4)

/-- R549, R551: consumption of fed bytes. -/
def State.ldConsume (s : State) : State :=
  match s.sec.ld.take with
  | none => s
  | some l =>
    let s1 := s.modLd fun _ => l
    if l.winBad s.sec.ld then s1.ldFail 13
    else if l.st = .pass then s1.ldPayload.ldSettle else s1

/-- R80, R81: the key is requested: KP_REQ rises, or waits for KP_ACK to be 0; while supply is low the read is refused. -/
def State.keyRequest (s : State) : State :=
  if s.power.low then s.ldGuard
  else if s.key.ack then { s with key := { s.key with waits := true } }
  else { s with key := { s.key with req := true, waits := false, since := s.now } }

/-- R550: the header and the section table are judged once H bytes are consumed. -/
def State.ldHeaderDone (s : State) : State :=
  let l := s.sec.ld
  if l.st = .header ∧ 0xC0 ≤ l.img.length ∧ imgH l.img ≤ l.img.length then
    match s.ldHeader l.img with
    | some e => s.ldFail e
    | none =>
      if imgEnc l.img then
        (s.modLd fun x => { x with st := .key }).keyRequest
      else (s.modLd fun x => { x with st := .pass }).ldSettle
  else s

/-- R80, R81: KP_ACK takes the level `v`. Its rise finds the key `k` on KP_KEY, and its fall ends the wait of a key read. -/
def State.keyAck (s0 : State) (v : Bool) (k : BitVec 256) : State :=
  let s := { s0 with key := { s0.key with ack := v } }
  if s.sec.ld.st ≠ .key then s
  else if v then
    if s.key.req then
      { s.modLd fun x => { x with st := .pass } with key := { s.key with req := false, key := k } }.ldSettle
    else s
  else if s.key.waits then s.keyRequest
  else s

/-- R81, R550: KP_ACK has not risen within 10 µs.
DESIGN CHOICE (log 18): a jump of TD0 by BT_CTRL.LOAD does not count towards the 10 µs of TD0. -/
def State.keyTimeout (s : State) : State :=
  if s.key.req ∧ s.sec.ld.st = .key ∧ s.ticking ∧ notBefore s.now (s.key.since + 10000) then s.ldFail 11 else s

/-- R547, R549, R550: the signature and the tag are verified. -/
def State.ldVerifyDone (s : State) : State :=
  let l := s.sec.ld
  let img := l.img
  let t := imgTotal img
  if l.st = .verify ∧ img.length = t then
    let digest := sha384 (img.take (t - 96))
    if !ecdsaOk (imgBytes img 0x40 96) digest (imgBytes img (t - 96) 96) then s.ldFail 9
    else if imgEnc img && decide (gcmTag (keyBytes s.key.key) (imgBytes img 0x20 12)
        (imgBytes img 0 0x30 ++ imgBytes img 0xC0 (imgH img - 0xC0)) (imgBytes img (imgH img) (imgP img)) ≠
          imgBytes img 0x30 16) then s.ldFail 10
    else s.modLd fun x => { x with st := .commit }
  else s

/-- The segments of Agate that the sections with LOCK touch (R552). -/
def imgLocks (l : List Byte) : BitVec 16 :=
  (imgTable l).foldl (init := (0 : BitVec 16)) fun x e =>
    if sectType l e = 4 ∧ sectLock l e ∧ 0 < sectLen l e then
      let a := agSegment (sectDest l e)
      let b := agSegment (sectDest l e + sectLen l e - 1)
      (List.range 16).foldl (init := x) fun y i => if a ≤ i ∧ i ≤ b then y ||| BitVec.ofNat 16 (2 ^ i) else y
    else x

/-- R551, R552: COMMIT. -/
def State.ldCommit (s : State) : State :=
  let img := s.sec.ld.img
  if s.sec.ld.st = .commit ∧ s.sec.tr.st = .idle then
    let up := imgSvnUp img && decide (s.vault.svn.toNat < imgSvn img)
    if s.power.low then
      (if imgAuth img then s.modSec fun x => { x with lcResult := 7 } else s).ldGuard
    else
      let s1 := if up then s.modVault fun v => { v with svn := BitVec.ofNat 32 (imgSvn img) } else s
      let lock := (imgTable img).any fun e => sectLock img e && (decide (sectType img e = 2) || decide (sectType img e = 3))
      let s2 := s1.modMem fun m => { m with wlock := m.wlock ||| imgLocks img }
      let s3 := s2.modSec fun x =>
        { x with csLock := if lock then 0xF else x.csLock,
                 patchId := if imgHas img [2, 3] then BitVec.ofNat 32 (imgLe img 0x18 4) else x.patchId,
                 patchRom := if imgHas img [2, 3] then BitVec.ofNat 16 (imgRomRev img) else x.patchRom,
                 patchValid := if imgHas img [2, 3] then 0xF else x.patchValid,
                 hdr := Vector.ofFn fun i : Fin 48 => BitVec.ofNat 32 (imgLe img (4 * i.val) 4) }
      if imgAuth img then s3.lcStart 7 true else s3.ldEnd 0
  else s

/-- R552: ROLLBACK has zeroed what the load wrote. -/
def State.ldRollback (s : State) : State :=
  let l := s.sec.ld
  if l.st = .rollback ∧ !(l.agWritten && s.mem.wiping) then
    let s1 := (imgTable l.img).foldl (init := s) fun z e =>
      let n := min l.paid (sectOff l.img e + sectLen l.img e) - sectOff l.img e
      if 0 < n ∧ sectType l.img e ≠ 4 then z.ldStore e 0 (List.replicate n 0) else z
    s1.ldEnd l.err
  else s

/-! Tamper (R555, R556). -/

/-- R556: the event of input `k` and its action; `late` says that it has waited for a transition to end. -/
def State.tamperAct (s : State) (k : Fin 4) (late : Bool) : State :=
  let act := fldN s.vault.tamperCfg (4 * k.val + 2) 2
  let s1 := (s.tamperLog k.val act (!late)).modVault fun v => { v with tflag := v.tflag ||| BitVec.ofNat 4 (2 ^ k.val) }
  if act = 0 then s1
  else
    let s2 := if s1.up then
        let z := s1.agWipe 2
        if z.sec.ld.st.loading then z.ldFail 14 else z
      else s1
    if act = 2 then (if s2.power.vao then s2.modPw fun p => { p with sysRst := true } else s2)
    else if act = 3 then
      { s2 with bat := { s2.bat with data := Vector.ofFn fun i : Fin 64 => if 32 ≤ i.val then 0 else s2.bat.data.at i } }
    else s2

def State.modTamper (s : State) (k : Fin 4) (f : TamperIn → TamperIn) : State :=
  s.modVault fun v => { v with inputs := v.inputs.mod k f }

/-- R556: the event of input `k` is given, or waits for the transition that runs. -/
def State.tamperGive (s : State) (k : Fin 4) : State :=
  let s1 := s.modTamper k fun x => { x with given := true, waits := decide (s.sec.tr.st ≠ .idle) }
  if s.sec.tr.st = .idle then s1.tamperAct k false else s1

/-- R556: the events that have waited follow the transition, in order of k. -/
def State.tamperSettle (s : State) : State :=
  if s.sec.tr.st ≠ .idle then s
  else [0, 1, 2, 3].foldl (init := s) fun z k =>
    if (z.vault.inputs.at k).waits then (z.modTamper k fun x => { x with waits := false }).tamperAct k true else z

/-- R555: input `k` stands at its active level. -/
def Vault.tamperOn (v : Vault) (k : Fin 4) : Bool := (v.inputs.at k).level == bit v.tamperCfg (4 * k.val + 1)

/-- R555: TAMPER[k] takes the level `v`. -/
def State.tamperLevel (s : State) (k : Fin 4) (v : Bool) : State :=
  if (s.vault.inputs.at k).level = v then s
  else s.modTamper k fun x => { x with level := v, since := if s.ticking then some s.now else none, given := false }

/-- R555: the enabled input `k` has held its active level for 1 µs, and gives its event, one for each time that it becomes
active.
DESIGN CHOICE (log 18): a level held for 200 ns to 1 µs gives an event where the command says so. -/
def State.tamperEvent (s : State) (k : Fin 4) : State :=
  let x := s.vault.inputs.at k
  let held : Bool := match x.since with
    | some a => !s.ticking || decide (200 ≤ (s.now - a).toNat)
    | none => true
  if s.bat.vok ∧ bit s.vault.tamperCfg (4 * k.val) ∧ s.vault.tamperOn k ∧ !x.given ∧ held then s.tamperGive k else s

/-! Registers (R559, R561). -/

def LdSt.num : LdSt → Nat
  | .idle => 0
  | .header => 1
  | .key => 2
  | .pass => 3
  | .verify => 4
  | .commit => 5
  | .rollback => 6

def State.lcStat (s : State) : W32 :=
  put 24 s.vault.count.toNat ||| putB 16 s.sec.lcDone ||| put 12 s.sec.lcResult |||
    put 8 (if s.sec.tr.st = .clear then 1 else 0) ||| put 0 s.vault.state.toNat

def Loader.stat (l : Loader) : W32 :=
  putB 11 (l.free.at 1) ||| putB 10 (l.free.at 0) ||| putB 9 l.feedErr ||| putB 8 l.done ||| put 4 l.err ||| put 0 l.st.num

def Security.patchInfo (x : Security) : W32 := put 16 x.patchValid.toNat ||| put 0 x.patchRom.toNat

def Vault.lcState (v : Vault) : W32 := put 8 v.count.toNat ||| put 0 v.state.toNat

def Vault.tamperStat (v : Vault) : W32 :=
  putB 20 v.wrap ||| put 16 v.tflag.toNat ||| put 8 v.tcount ||| put 0 v.head.val

def State.tamperStatW (s : State) (x : W32) : State :=
  s.modVault fun v => { v with wrap := v.wrap && !bit x 20, tflag := v.tflag &&& ~~~(fld x 16 4) }

/-- R555: a write of BB_TAMPER_CFG. An input that is active as EN is set gives its event at once; one that a change of POL
makes active begins to hold its level. -/
def State.tamperCfgW (s : State) (x : W32) : State :=
  let old := s.vault
  let s1 := s.modVault fun v => { v with tamperCfg := (v.tamperCfg &&& 0x80000000) ||| (x &&& 0x8000FFFF) }
  [0, 1, 2, 3].foldl (init := s1) fun z (k : Fin 4) =>
    let on := bit old.tamperCfg (4 * k.val)
    if bit x (4 * k.val) && !on then
      (if s1.vault.tamperOn k then z.tamperGive k else z.modTamper k fun y => { y with given := false })
    else if s1.vault.tamperOn k && !old.tamperOn k then
      z.modTamper k fun y => { y with since := if s.ticking then some s.now else none, given := false }
    else z

/-- R554: a write of SEC_STAT. -/
def State.csLockSet (s : State) (v : W32) : State := s.modSec fun x => { x with csLock := x.csLock ||| fld v 0 4 }

end Sys2Proof.Machine
end

