-- ==== Sys2Proof/Machine/Access.lean ====
section
/-! DEFINITION. The refusals of an access in the order of R57 (spec/02_block_boundary.md), with the regions of
spec/24_address_map.md and the rules that name a cause elsewhere. -/

namespace Sys2Proof.Machine

/-- `lo ≤ a < hi`. -/
def within (a lo hi : Nat) : Bool := decide (lo ≤ a ∧ a < hi)

/-- `a` is one of `k` registers from `base` up, `step` bytes apart, each of them with the registers of its block below
`size`. -/
def inBlocks (a base step k size : Nat) : Bool := decide (base ≤ a ∧ (a - base) / step < k ∧ (a - base) % step < size)

/-- A sequencer's own data path. -/
def Master.isSq : Master → Bool
  | .sq _ => true
  | _ => false

/-- R606: the register regions. -/
def regRegion (a : Nat) : Bool :=
  within a 0 0x50000 || within a 0x60000 0x70000 || within a 0x80000 0xD0000 || within a 0x100000 0x210000

/-- R370, R606: the memory windows. -/
def memWindow (a : Nat) : Bool := (memOf a).isSome

/-- The Carnelian window (R596, R606). -/
def cwWindow (a : Nat) : Bool := within a 0xF00 0x1000

/-- R608: the half that a register offset belongs to. -/
def State.regHalf (s : State) (a : Nat) : Option (Fin 2) :=
  let half (i n : Nat) : Option (Fin 2) := some (if i < n then 0 else 1)
  if inBlocks a 0x100000 0x40 256 0x10 then half ((a - 0x100000) / 0x40) 128
  else if inBlocks a 0x110000 0x100 64 0x2C then half ((a - 0x110000) / 0x100) 32
  else if inBlocks a 0x114000 0x10 16 8 then half ((a - 0x114000) / 0x10) 8
  else if within a 0x120000 0x124000 then half ((a - 0x120000) / 0x400) 8
  else if inBlocks a 0x140000 0x40 128 0x30 then half ((a - 0x140000) / 0x40) 64
  else if inBlocks a 0x144000 0x20 32 0x14 then half ((a - 0x144000) / 0x20) 16
  else if inBlocks a 0x145000 0x10 16 4 then half ((a - 0x145000) / 0x10) 8
  else if inBlocks a 0x145400 0x10 16 4 then half ((a - 0x145400) / 0x10) 8
  else if inBlocks a 0x180000 0x1000 16 0x20 then half ((a - 0x180000) / 0x1000) 8
  else if inBlocks a 0x190100 0x10 4 8 then half ((a - 0x190100) / 0x10) 2
  else if within a 0x1A0000 0x1B0000 || within a 0x1B0100 0x1B0200 then some (clusterHalf s.cs.cluster)
  else if within a 0xB4000 0xB401C then some 0
  else if within a 0xB4100 0xB411C then some 1
  else none

/-- The control-store window or CS_PMk. -/
def csOffset (a : Nat) : Bool := within a 0x1A0000 0x1B0000 || within a 0x1B0100 0x1B0200

/-- R57 order 5, R342: the half of the target is gated or in reset. The debugger reads the registers of a half in emulated sleep
(R586). -/
def State.halfOffAt (s : State) (q : Req) (wr : Bool) (a : Nat) : Bool :=
  let off (h : Fin 2) : Bool := !s.halfUp h && !(decide (q.who = .debugger) && !wr && s.up && s.dbg.emu.at h)
  if csOffset a && wr && s.cs.bcast then off 0 && off 1
  else match s.regHalf a with
    | some h => off h
    | none => false

/-- The channel whose CH block holds the offset, with its offset in the block. -/
def chBlock (a : Nat) : Option (Fin 256 × Nat) :=
  if within a 0x1C0000 0x1C4000 then some (Fin.ofNat 256 ((a - 0x1C0000) / 0x40), (a - 0x1C0000) % 0x40) else none

/-- R540: a register access requires the secure attribute. -/
def State.regSec (s : State) (wr : Bool) (a : Nat) (v : W32) : Bool :=
  within a 0x40080 0x40100 ||
  (wr && (decide (a = 0x20008 ∨ a = 0x20050 ∨ a = 0x60104 ∨ a = 0x6010C ∨ a = 0x200100 ∨ a = 0x40280) ||
    within a 0x20060 0x20080 || within a 0x30000 0x30028 || within a 0x30100 0x301C0 || within a 0x38000 0x40000 ||
    within a 0x40200 0x40280 || within a 0x40288 0x40290 || within a 0x200260 0x200280 ||
    (decide (a = 0xC0008) && bit (s.sn.chCfg.at (Fin.ofNat 256 (fldN v 0 8))) 22) ||
    (within a 0xC0100 0xC0500 && (bit v 22 || bit (s.sn.chCfg.at (Fin.ofNat 256 ((a - 0xC0100) / 4))) 22)) ||
    (within a 0xC2000 0xC2A20 && s.subNeedsSec (Fin.ofNat 648 ((a - 0xC2000) / 4)) v) ||
    (decide (a = 0x1C4010) && s.chanSec (Fin.ofNat 256 (fldN v 8 8))) ||
    (match chBlock a with | some (c, o) => decide (o < 8) && s.chanSec c | none => false)))

/-- The requesters to which the lock on program memory, or (`cs`) on the control store, applies (R539): of the debugger those
accesses through a halted sequencer, which reach memory only. -/
def Master.lockable (w : Master) (cs : Bool) : Bool :=
  match w with
  | .sq _ => false
  | .loader => false
  | .debugger => !cs
  | _ => true

/-- R539: the target is locked in the present lifecycle state. -/
def State.lcLocked (s : State) (q : Req) (wr : Bool) (a : Nat) : Bool :=
  let st := s.vault.state
  let open_ := within a 0 0x10 || within a 0x20000 0x30000 || decide (a = 0x3000C ∨ a = 0x40100 ∨ a = 0x40280) ||
    within a 0x40200 0x40280 || within a 0x40288 0x40290
  let code := csOffset a || decide (memOf a = some 3)
  (decide (st = 0xF) && !open_ && !code) ||
  (decide (st = 3 ∨ st = 0xF) && code && q.who.lockable (csOffset a)) ||
  (decide (st = 3 ∨ st = 7 ∨ st = 0xF) && wr && within a 0x400C0 0x400F0)

/-- The DBG registers that only the debugger reaches (R593). -/
def dbgOwn (a : Nat) : Bool :=
  within a 0x200000 0x200014 || within a 0x200104 0x200118 || within a 0x200120 0x200130 || within a 0x200280 0x200294 ||
    inBlocks a 0x201000 0x40 16 0x24

/-- R57 order 8: the function of a register is switched off. -/
def State.regDisabled (s : State) (q : Req) (wr : Bool) (a : Nat) (v : W32) : Bool :=
  if cwWindow a then !s.cw.en
  else if within a 0x40000 0x40100 then !s.bat.vok
  else if dbgOwn a then decide (q.who ≠ .debugger)
  else if !wr then false
  else if a = 0x40288 then bit s.vault.tamperCfg 31
  else if within a 0x38000 0x40000 then !s.sec.ld.free.at (if a < 0x3C000 then 0 else 1)
  else if inBlocks a 0x180000 0x1000 16 4 then
    bit v 0 && (decide (s.sec.tr.st ≠ .idle) || decide (s.sec.ld.st ≠ .idle))
  else if csOffset a then s.csLocked
  else if within a 0x120000 0x124000 then s.progLocked (Fin.ofNat 16 ((a - 0x120000) / 0x400)) ((a - 0x120000) % 0x400 / 4)
  else if a = 0x20034 ∨ a = 0x20038 then
    match q.who with
    | .sq n => decide (seqHalf n ≠ (if a = 0x20034 then 0 else 1))
    | _ => true
  else if a = 0x1C4010 then decide ((s.chans.at (Fin.ofNat 256 (fldN v 8 8))).st = .off)
  else false

/-- R528, R560: a guarded register. -/
def regGuarded (a : Nat) : Bool := within a 0x40000 0x40104 || within a 0x40200 0x40290

/-- A node of the save pool that holds a context (R370). -/
def NodeKind.held : NodeKind → Bool
  | .unowned | .free => false
  | _ => true

/-- R367, R370, R385: an access to memory requires the secure attribute. `v` holds the bytes that a write carries. -/
def State.memSec (s : State) (wr : Bool) (a n v : Nat) : Bool :=
  if memOf a = some 1 then true
  else if within a 0x1400000 0x1420000 then
    let c : Fin 256 := Fin.ofNat 256 ((a - 0x1400000) / 0x200)
    let top := descAddr c + 3
    s.chanSec c || (wr && decide (a ≤ top ∧ top < a + n) && decide (v / 256 ^ (top - a) / 64 % 2 = 1))
  else if within a 0x1420000 0x1440000 then
    let x := s.pool.nodes.at (Fin.ofNat 512 ((a - 0x1420000) / 0x100))
    x.kind.held && s.chanSec x.owner
  else false

/-- R237, R348, R370, R386: a write or an access to memory is refused with DISABLED. -/
def State.memDisabled (s : State) (q : Req) (wr : Bool) (a n : Nat) : Bool :=
  if memOf a = some 1 then s.mem.wiping || (wr && s.mem.wlock.getLsbD (agSegment a))
  else if !wr then false
  else if within a 0x1400000 0x1420000 then
    let c : Fin 256 := Fin.ofNat 256 ((a - 0x1400000) / 0x200)
    let w := (a - 0x1400000) % 0x200 / 4
    !s.descFree c w || !s.descFree c ((a + n - 1 - 0x1400000) % 0x200 / 4)
  else if within a 0x1420000 0x1440000 then (s.pool.nodes.at (Fin.ofNat 512 ((a - 0x1420000) / 0x100))).kind.held
  else decide (memOf a = some 3) && q.who.isSq

/-- R48, R50, R284: the width is not permitted. `n` is the width in bytes, 0 for the size code 0b11. -/
def badWidth (q : Req) (a n : Nat) : Bool :=
  if cwWindow a then !(decide (q.who = .host) && decide (n = 2))
  else if memWindow a then
    !q.who.isSq && decide (n ≠ 4 ∧ n ≠ 8)
  else decide (n ≠ 4)

/-- Targets that answer while the common region is in reset (R57). -/
def aonTarget (a : Nat) : Bool := within a 0 0x10 || within a 0x20000 0x30000

/-- R57: the cause of a refusal but for ECC. `n` is the width in bytes and `v` the data of a write. -/
def State.refusal (s : State) (q : Req) (wr : Bool) (a n v : Nat) : Option Cause :=
  let w := BitVec.ofNat 32 v
  let mem := memWindow a
  if !(regRegion a || mem) then some .unmapped
  else if badWidth q a n then some .width
  else if a % n ≠ 0 ∧ !(mem && q.who.isSq) then some .align
  else if !s.up ∧ !aonTarget a then some .reset
  else if !mem ∧ s.halfOffAt q wr a then some .halfOff
  else if !q.sec ∧ (if mem then s.memSec wr a n v else s.regSec wr a w) then some .secure
  else if s.lcLocked q wr a then some .lifecycle
  else if (if mem then s.memDisabled q wr a n else s.regDisabled q wr a w) then some .disabled
  else if wr ∧ s.power.low ∧ (if mem then decide (memOf a = some 1) else regGuarded a) then some .guard
  else none

/-- What a refusal leaves behind: the count of R528, and WRERR of R342. -/
def State.refused (s : State) (wr : Bool) (a : Nat) (c : Cause) : State :=
  if c = .guard then s.guardRefused
  else if c = .disabled ∧ wr ∧ csOffset a then s.csWrErr
  else s

/-- The data of a permitted read of memory, none for an uncorrectable error. Mailbox storage has no layout (R346); it reads 0
from the time that it is zeroed until a message is accepted. -/
def State.memLoad (s : State) (req a n : Nat) : Option Nat × State :=
  if within a 0x1400000 0x1420000 && decide (64 ≤ (a - 0x1400000) % 0x200 / 4) then
    let k := s.free
    let clean := (s.chans.at (Fin.ofNat 256 ((a - 0x1400000) / 0x200))).mbClean
    let x := if clean then 0 else (Config.mailboxWord (k + 1) ++ Config.mailboxWord k).toNat
    let (ok, m) := s.mem.check req (a / 8)
    (if ok then some (x / 256 ^ (a % 8) % 256 ^ n) else none, { s with free := k + 2, mem := m })
  else s.memRead req a n

end Sys2Proof.Machine
end

