-- ==== Sys2Proof/Machine/RegRead.lean ====
section
/-! DEFINITION. Reads of the registers by block offset (spec/24_address_map.md and the field tables of the units). A reserved
offset reads 0 (R24). Each function takes the offset inside its region and answers the value and the state after the side
effects of the read. -/

namespace Sys2Proof.Machine

/-- A summary register whose instances in a half that is gated or in reset read 0 (R608). -/
def State.fltSum (s : State) (i : Nat) : W32 :=
  sumBits 32 fun j =>
    let n : Fin 256 := Fin.ofNat 256 (32 * i + j)
    s.laneUp n && decide ((s.lanes.at n).st = .fault)

/-- GL and the Carnelian window (R609). `hw`: the hardware sets CW_STAT.DONE in the same access (R23). -/
def State.rdGl (s : State) (hw : Bool) (a : Nat) : W32 × State :=
  match a with
  | 0x0 => (0x0B724809, s)
  | 0x4 => (0x00090002, s)
  | 0x8 => (0x20100810, s)
  | 0xC => (0x11, s)
  | 0x10 => (putB 0 s.cw.en, s)
  | 0xF00 => (s.cw.cmdHi.setWidth 32, s)
  | 0xF04 => ((s.cw.args.at 0).setWidth 32, s)
  | 0xF06 => ((s.cw.args.at 1).setWidth 32, s)
  | 0xF08 => ((s.cw.args.at 2).setWidth 32, s)
  | 0xF0A => ((s.cw.args.at 3).setWidth 32, s)
  | 0xF0C => ((s.cwStatRead hw).1.setWidth 32, (s.cwStatRead hw).2)
  | 0xF0E => (s.cwPop.1.setWidth 32, s.cwPop.2)
  | _ => (0, s)

def XfSt.num : XfSt → Nat
  | .off => 0
  | .idle => 1
  | .busy => 2
  | .draining => 3
  | .error => 4

def XfCause.num : XfCause → Nat
  | .none => 0
  | .param => 1
  | .resp => 2
  | .timeout => 3
  | .ecc => 4

/-- HP_XF_STAT as it reads (R72). -/
def Xfer.stat (x : Xfer) : W32 := put 12 (x.remain / 8) ||| put 4 x.cause.num ||| putB 3 x.done ||| put 0 x.st.num

/-- HP_XF_CTRL as it reads (R71). -/
def Xfer.ctrl (x : Xfer) : W32 := putB 3 x.abort ||| putB 2 x.dir ||| putB 0 x.en

/-- HP_ERR_INFO as it reads (R69). -/
def HostErr.info (e : HostErr) : W32 :=
  putB 31 true ||| putB 30 e.ovf ||| put 24 e.tag.toNat ||| put 16 e.cause.code ||| put 14 e.cause.resp |||
    put 12 e.size.toNat ||| putB 11 e.write ||| putB 10 e.sec

/-- HP (R610). -/
def State.rdHp (s : State) (o : Nat) : W32 :=
  match o with
  | 0x0 => match s.hp.err with | some e => e.addr.setWidth 32 | none => 0
  | 0x4 => match s.hp.err with | some e => e.info | none => 0
  | 0x10 => BitVec.ofNat 32 s.xf.sys
  | 0x14 => BitVec.ofNat 32 (s.xf.sys / 2 ^ 32)
  | 0x18 => BitVec.ofNat 32 s.xf.blk
  | 0x1C => BitVec.ofNat 32 s.xf.len
  | 0x20 => s.xf.ctrl
  | 0x24 => s.xf.stat
  | 0x28 => s.xf.cfg
  | _ => 0

/-- PW (R611). -/
def State.rdPw (s : State) (o : Nat) : W32 :=
  let p := s.power
  if within o 0x10 0x30 then
    let x := p.halves.at (if o < 0x20 then 0 else 1)
    match o % 0x10 with
    | 0 => x.cfg
    | 8 => x.stat
    | _ => 0
  else if within o 0x60 0x80 then
    let k : Fin 4 := Fin.ofNat 4 ((o - 0x60) / 8)
    match o % 8 with
    | 0 => p.gasp.addr.at k
    | 4 => p.gasp.data.at k
    | _ => 0
  else match o with
  | 0x0 => p.stat
  | 0x4 => p.rstCause.setWidth 32
  | 0x8 => p.supCfg
  | 0xC => p.supStat
  | 0x30 => p.leaseCfg
  | 0x34 => (p.claims.at 0).word
  | 0x38 => (p.claims.at 1).word
  | 0x3C => p.leaseStat
  | 0x40 => s.canaryWord
  | 0x44 => p.canaryMinWord
  | 0x50 => p.gasp.cfg
  | 0x54 => p.gasp.stat
  | _ => 0

/-- SEC (R612). -/
def State.rdSec (s : State) (o : Nat) : W32 :=
  if within o 0x100 0x1C0 then (if o % 4 = 0 then s.sec.hdr.at (Fin.ofNat 48 ((o - 0x100) / 4)) else 0)
  else match o with
  | 0x0 => s.sec.cfg
  | 0x4 => s.sec.csLock.setWidth 32
  | 0xC => s.lcStat
  | 0x18 => s.sec.ld.stat
  | 0x1C => BitVec.ofNat 32 s.sec.ld.img.length
  | 0x20 => s.sec.patchId
  | 0x24 => s.sec.patchInfo
  | _ => 0

/-- BB (R611). -/
def State.rdBb (s : State) (o : Nat) : W32 :=
  if o < 0x100 then s.bat.data.at (Fin.ofNat 64 (o / 4))
  else if within o 0x200 0x280 then
    let e := s.vault.log.at (Fin.ofNat 16 ((o - 0x200) / 8))
    if o % 8 = 0 then e.lo else e.hi
  else match o with
  | 0x100 => putB 2 s.bat.vok ||| putB 0 s.bat.vinit
  | 0x280 => s.vault.lcState
  | 0x284 => s.vault.svn
  | 0x288 => s.vault.tamperCfg
  | 0x28C => s.vault.tamperStat
  | _ => 0

/-- MEM and AG (R613). -/
def State.rdMem (s : State) (o : Nat) : W32 :=
  let m := s.mem
  match o with
  | 0x0 => m.cfg
  | 0x4 => m.corrWord
  | 0x8 => BitVec.ofNat 32 m.uncRec.first.addr
  | 0xC => m.uncRec.info
  | 0x10 => BitVec.ofNat 32 m.collRec.first.addr
  | 0x14 => m.collRec.info
  | 0x18 => m.bistCfg
  | 0x1C => s.bistStat
  | 0x20 => BitVec.ofNat 32 m.bistNext
  | 0x24 => BitVec.ofNat 32 m.bistFaddr
  | 0x100 => putB 0 m.agIe
  | 0x108 => m.agStat
  | 0x10C => m.wlock.setWidth 32
  | _ => 0

/-- EIC (R614). -/
def State.rdEic (s : State) (o : Nat) : W32 × State :=
  if within o 0x1004 0x1800 then ((s.eic.srcs.at (Fin.ofNat 512 ((o - 0x1000) / 4))).reg, s)
  else if within o 0x2000 0x2040 then (s.eicWord ((o - 0x2000) / 4) Source.ip, s)
  else if within o 0x2040 0x2080 then (s.eicWord ((o - 0x2040) / 4) Source.act, s)
  else if within o 0x2080 0x20C0 then (s.eicWord ((o - 0x2080) / 4) fun x => x.orph, s)
  else if within o 0x20C0 0x2100 then (s.eicWord ((o - 0x20C0) / 4) fun x => x.level, s)
  else if within o 0x3000 0x3200 then
    let g : Fin 32 := Fin.ofNat 32 ((o - 0x3000) / 0x10)
    match o % 0x10 with
    | 0 => ((s.eic.mods.at g).cfg, s)
    | 4 => (s.modStat g, s)
    | _ => (0, s)
  else if within o 0x4000 0x4240 then
    let t : Fin 18 := Fin.ofNat 18 ((o - 0x4000) / 0x20)
    match o % 0x20 with
    | 0x0 => ((s.eic.targets.at t).cfg, s)
    | 0x4 => ((s.eic.targets.at t).thr.setWidth 32, s)
    | 0x8 => (BitVec.ofNat 32 (s.claim t).1, (s.claim t).2)
    | 0xC => (BitVec.ofNat 32 (s.complete t s.sourceLevel).1, (s.complete t s.sourceLevel).2)
    | 0x10 => (s.targetStat t, s)
    | _ => (0, s)
  else match o with
  | 0x0 => (putB 0 s.eic.ieOrph, s)
  | 0x4 => (s.eic.spur.setWidth 32, s)
  | _ => (0, s)

/-- BT and TD (R615), read by `w`. -/
def State.rdBt (s : State) (w : Master) (o : Nat) : W32 × State :=
  let b := s.beryl
  if within o 0x140 0x300 then
    let n : Fin 8 := Fin.ofNat 8 ((o - 0x100) / 0x40)
    let d := b.doms.at n
    match o % 0x40 with
    | 0x00 => s.nowLoRead w n
    | 0x04 => (s.nowHiRead w n, s)
    | 0x08 => (s.nowFrRead w n, s)
    | 0x0C => (BitVec.ofInt 32 d.rate, s)
    | 0x10 => (lo32 d.arg, s)
    | 0x14 => (hi32 d.arg, s)
    | 0x18 => (lo32 d.at_, s)
    | 0x1C => (hi32 d.at_, s)
    | 0x20 => (d.slewReg, s)
    | 0x28 => (d.stat, s)
    | 0x2C => (d.remain s.beryl.g, s)
    | 0x30 => (d.snap.extractLsb' 16 32, s)
    | 0x34 => (d.snap.extractLsb' 48 32, s)
    | 0x38 => ((d.snap.extractLsb' 0 16).setWidth 32, s)
    | 0x3C => (d.ie, s)
    | _ => (0, s)
  else match o with
  | 0x00 => s.nowLoRead w 0
  | 0x04 => (s.nowHiRead w 0, s)
  | 0x08 => (s.nowFrRead w 0, s)
  | 0x0C => (b.cfg, s)
  | 0x14 => (b.stat, s)
  | 0x18 => (lo32 b.load, s)
  | 0x1C => (hi32 b.load, s)
  | 0x20 => (lo32 b.snap, s)
  | 0x24 => (hi32 b.snap, s)
  | 0x30 => (lo32 b.convIn, s)
  | 0x34 => (hi32 b.convIn, s)
  | 0x38 => (b.convCtrl, s)
  | 0x3C => (b.convOut.extractLsb' 16 32, s)
  | 0x40 => (b.convOut.extractLsb' 48 32, s)
  | 0x44 => ((b.convOut.extractLsb' 0 16).setWidth 32, s)
  | 0x48 => (putB 0 b.stale, s)
  | _ => (0, s)

/-- TA, AC, CP and WD (R616), read by `w`. -/
def State.rdTa (s : State) (w : Master) (o : Nat) : W32 × State :=
  if o < 0x1000 then
    let n : Fin 64 := Fin.ofNat 64 (o / 0x40)
    let x := s.ta.timers.at n
    match o % 0x40 with
    | 0x00 => (x.cfg, s)
    | 0x08 => (s.taStat n, s)
    | 0x0C => s.taCntRead w n
    | 0x10 => (x.lim, s)
    | 0x14 => (x.cmp, s)
    | 0x18 => (x.phase, s)
    | 0x1C => (x.snap, s)
    | 0x20 => (x.act, s)
    | 0x24 => (x.evt, s)
    | _ => (0, s)
  else if within o 0x2000 0x2400 then
    let k : Fin 32 := Fin.ofNat 32 ((o - 0x2000) / 0x20)
    let x := s.ta.compares.at k
    match o % 0x20 with
    | 0x00 => (x.cfg, s)
    | 0x08 => (x.stat, s)
    | 0x0C => (lo32 x.val, s)
    | 0x10 => (hi32 x.val, s)
    | 0x14 => (x.inc, s)
    | _ => (0, s)
  else if within o 0x3000 0x3200 then
    let x := s.ta.pairs.at (Fin.ofNat 16 ((o - 0x3000) / 0x20))
    match o % 0x20 with
    | 0x00 => (x.cfg, s)
    | 0x04 => (x.stat, s)
    | 0x08 => (lo32 x.rise.ns, s)
    | 0x0C => (hi32 x.rise.ns, s)
    | 0x10 => (lo32 x.fall.ns, s)
    | 0x14 => (hi32 x.fall.ns, s)
    | _ => (0, s)
  else if within o 0x4000 0x401C || within o 0x4100 0x411C then
    let h : Fin 2 := if o < 0x4100 then 0 else 1
    let x := s.ta.dogs.at h
    match o % 0x100 with
    | 0x00 => (x.cfg, s)
    | 0x08 => (s.wdStat h, s)
    | 0x0C => (x.load, s)
    | 0x10 => (x.warn, s)
    | 0x14 => (x.grace, s)
    | 0x18 => (x.cnt, s)
    | _ => (0, s)
  else match o with
  | 0x1000 => (putB 0 s.ta.latch, s)
  | 0x1008 => (put 16 s.ta.snapCnt.toNat, s)
  | 0x100C => (lo32 s.ta.stagAt, s)
  | 0x1010 => (hi32 s.ta.stagAt, s)
  | 0x1018 => (s.ta.stagStat, s)
  | 0x1020 => (s.taIrqSum 0, s)
  | 0x1024 => (s.taIrqSum 1, s)
  | _ => (0, s)

/-- SN (R617). -/
def State.rdSn (s : State) (o : Nat) : W32 :=
  let n := s.sn
  if within o 0x100 0x500 then n.chCfg.at (Fin.ofNat 256 ((o - 0x100) / 4))
  else if within o 0x800 0xA00 then
    let x := n.luts.at (Fin.ofNat 32 ((o - 0x800) / 0x10))
    match o % 0x10 with
    | 0x0 => x.cfg
    | 0x4 => x.filt.setWidth 32
    | 0x8 => x.stat
    | _ => 0
  else if within o 0xC00 0xC40 then n.exp (Fin.ofNat 16 ((o - 0xC00) / 4))
  else if within o 0x2000 0x2A20 then n.subs.at (Fin.ofNat 648 ((o - 0x2000) / 4))
  else if within o 0x3000 0x30A4 then n.ovfWord ((o - 0x3000) / 4)
  else match o with
  | 0x0 => n.cfg
  | 0x4 => n.stat
  | 0x10 => n.groups.setWidth 32
  | 0x14 => BitVec.ofNat 32 n.tisel
  | 0x18 => n.tidata
  | _ => 0

/-- LN (R618). -/
def State.rdLn (s : State) (o : Nat) : W32 :=
  if o < 0x4000 then
    let n : Fin 256 := Fin.ofNat 256 (o / 0x40)
    match o % 0x40 with
    | 0x0 => (s.lanes.at n).readCfg
    | 0x8 => s.laneStat n
    | 0xC => (s.lanes.at n).faultNs
    | _ => 0
  else if within o 0x4000 0x4020 then s.fltSum ((o - 0x4000) / 4)
  else 0

/-- PE and the group program memories (R618); `o` is the offset from 0x011_0000. -/
def State.rdPe (s : State) (o : Nat) : W32 × State :=
  if o < 0x4000 then
    let n : Fin 64 := Fin.ofNat 64 (o / 0x100)
    let e := s.engines.at n
    match o % 0x100 with
    | 0x00 => (e.cfg, s)
    | 0x08 => (s.peStat n, s)
    | 0x0C => (e.pcReg, s)
    | 0x10 => (e.lanes, s)
    | 0x14 => (e.clkReg, s)
    | 0x18 => (e.period, s)
    | 0x1C => (e.fstat, s)
    | 0x20 => (lo32 e.fdata, s)
    | 0x24 => (hi32 e.fdata, s)
    | 0x28 => s.faccPop n
    | _ => (0, s)
  else if within o 0x4000 0x4100 then
    let g : Fin 16 := Fin.ofNat 16 ((o - 0x4000) / 0x10)
    match o % 0x10 with
    | 0x0 => ((s.groups.at g).isel, s)
    | 0x4 => (s.inspectRead g, s)
    | _ => (0, s)
  else if within o 0x4100 0x4108 then
    (sumBits 32 fun j => s.peReq (Fin.ofNat 64 (32 * ((o - 0x4100) / 4) + j)), s)
  else if within o 0x10000 0x14000 then (s.progWord (Fin.ofNat 16 ((o - 0x10000) / 0x400)) (o % 0x400 / 4), s)
  else (0, s)

/-- SF (R619). -/
def State.rdSf (s : State) (o : Nat) : W32 × State :=
  if o < 0x2000 then
    let n : Fin 128 := Fin.ofNat 128 (o / 0x40)
    let c := s.streams.at n
    match o % 0x40 with
    | 0x00 => (c.cfgWord, s)
    | 0x08 => (s.sfStat n, s)
    | 0x0C => (c.addr, s)
    | 0x10 => (c.len, s)
    | 0x14 => (c.ring, s)
    | 0x18 => (BitVec.ofNat 32 c.wp, s)
    | 0x1C => (BitVec.ofNat 32 c.rp, s)
    | 0x20 => s.sfCplPop n
    | 0x24 => (c.evt, s)
    | 0x28 => (c.drops ++ c.frames, s)
    | 0x2C => (BitVec.ofNat 32 (c.cur / 16 * 16), s)
    | _ => (0, s)
  else if within o 0x4000 0x4400 then
    let u := s.crcs.at (Fin.ofNat 32 ((o - 0x4000) / 0x20))
    match o % 0x20 with
    | 0x00 => (u.cfg, s)
    | 0x04 => (u.poly, s)
    | 0x08 => (u.init, s)
    | 0x0C => (u.xor, s)
    | 0x10 => (u.res, s)
    | _ => (0, s)
  else if inBlocks o 0x5000 0x10 16 4 then (s.bss.at (Fin.ofNat 16 ((o - 0x5000) / 0x10)), s)
  else if inBlocks o 0x5400 0x10 16 4 then (s.lcs.at (Fin.ofNat 16 ((o - 0x5400) / 0x10)), s)
  else if within o 0x6000 0x6010 then (sumBits 32 fun j => s.sfReqs (Fin.ofNat 128 (32 * ((o - 0x6000) / 4) + j)), s)
  else (0, s)

/-- SQ (R620). -/
def State.rdSq (s : State) (o : Nat) : W32 × State :=
  if o < 0x10000 then
    let n : Fin 16 := Fin.ofNat 16 (o / 0x1000)
    let q := s.seqs.at n
    match o % 0x1000 with
    | 0x00 => (q.cfg, s)
    | 0x04 => (q.stat, s)
    | 0x08 => (q.fown, s)
    | 0x0C => (q.ltrap, s)
    | 0x10 => (q.ltval, s)
    | 0x14 => (q.ltpc, s)
    | 0x18 => (q.uwcnt, s)
    | 0x1C => (q.swcnt, s)
    | _ => (0, s)
  else if inBlocks o 0x10100 0x10 4 8 then
    ((if o % 0x10 = 4 then (s.ibufs.at (Fin.ofNat 4 ((o - 0x10100) / 0x10))).misses else 0), s)
  else if within o 0x11000 0x11800 then ((s.pool.nodes.at (Fin.ofNat 512 ((o - 0x11000) / 4))).word, s)
  else match o with
  | 0x10000 => (BitVec.ofNat 32 s.pool.count, s)
  | 0x10008 => (s.pool.pop.1, { s with pool := s.pool.pop.2 })
  | 0x1000C => (s.pool.cfg, s)
  | 0x10010 => (s.poolStat, s)
  | _ => (0, s)

/-- CS (R620). -/
def State.rdCs (s : State) (o : Nat) : W32 :=
  let c := s.cs.copies.at s.cs.cluster
  if o < 0x10000 then c.word (0x4000 + o / 4)
  else if within o 0x10100 0x10200 then c.pm.at (Fin.ofNat 64 ((o - 0x10100) / 4))
  else match o with
  | 0x10000 => s.cs.cfg
  | 0x10004 => s.cs.sel
  | 0x10008 => s.cs.stat
  | 0x1000C => s.cs.fault
  | _ => 0

/-- CH (R621), read by `w`. -/
def State.rdCh (s : State) (w : Master) (o : Nat) : W32 :=
  if o < 0x4000 then
    let c : Fin 256 := Fin.ofNat 256 (o / 0x40)
    match o % 0x40 with
    | 0x4 => (s.chans.at c).stat
    | 0x8 => (s.chans.at c).mbx
    | _ => 0
  else if within o 0x4100 0x4120 then s.stopSum ((o - 0x4100) / 4)
  else
    let p := s.posts.at w.slot
    match o with
    | 0x4000 => lo32 p.data
    | 0x4004 => hi32 p.data
    | 0x4008 => lo32 p.time
    | 0x400C => hi32 p.time
    | 0x4014 => p.stat
    | _ => 0

/-- GD (R622). -/
def State.rdGd (s0 : State) (o : Nat) : W32 :=
  let s := s0.gdSettled
  if o < 0x1000 then
    let x : Fin 2 := if o < 0x800 then 0 else 1
    let g := s.gds.at x
    let r := o % 0x800
    if within r 0x100 0x140 then g.brStat (Fin.ofNat 16 ((r - 0x100) / 4))
    else if within r 0x400 0x500 then (g.bstat.at (Fin.ofNat 64 ((r - 0x400) / 4))).word
    else match r with
    | 0x00 => g.cfgWord
    | 0x08 => s.gdStat x
    | 0x0C => g.line
    | 0x10 => g.cycLen
    | 0x14 => lo32 g.cyc0
    | 0x18 => hi32 g.cyc0
    | 0x1C => g.gm
    | 0x20 => g.iso
    | 0x24 => g.nslot
    | 0x28 => g.brMask
    | 0x2C => BitVec.ofNat 32 g.cyc
    | 0x30 => g.nodeCfg
    | 0x34 => g.nodeDly
    | 0x38 => g.dev
    | 0x3C => g.nodeStat
    | _ => 0
  else if within o 0x4000 0xC000 then
    sparseGet 0 (s.gds.at (if o < 0x8000 then 0 else 1)).table (o % 0x4000 / 4)
  else if 0xC000 ≤ o then sparseGet 0 (s.gds.at (if o < 0xE000 then 0 else 1)).bufs (o % 0x2000 / 4)
  else match o with
  | 0x1000 => s.gdIsoSum
  | 0x1008 => s.gdIrqSum
  | _ => 0

/-- AB (R623). -/
def State.rdAb (s0 : State) (o : Nat) : W32 :=
  let s := s0.abSettled
  if o < 0x1000 then
    let k : Fin 16 := Fin.ofNat 16 (o / 0x100)
    let c := s.abs_.at k
    match o % 0x100 with
    | 0x00 => c.cfgWord
    | 0x08 => s.abStat k
    | 0x0C => c.nbt
    | 0x10 => c.dbt
    | 0x14 => c.err
    | 0x18 => c.txReq
    | 0x20 => c.txStat
    | 0x24 => c.rxnd.setWidth 32
    | 0x28 => c.rxovr.setWidth 32
    | 0x2C => if c.st = .off then 0 else (c.tscnt s.now).setWidth 32
    | _ => 0
  else if within o 0x2000 0x6000 then
    let w := o % 0x80 / 4
    if w < 20 then (s.abs_.at (Fin.ofNat 16 ((o - 0x2000) / 0x400))).tb (Fin.ofNat 8 (o % 0x400 / 0x80)) w else 0
  else if within o 0x6000 0xE000 then
    let w := o % 0x80 / 4
    if w < 20 then
      sparseGet 0 (s.abs_.at (Fin.ofNat 16 ((o - 0x6000) / 0x800))).rbw (32 * ((o - 0x6000) % 0x800 / 0x80) + w)
    else 0
  else if within o 0xE000 0xF000 then sparseGet 0 (s.abs_.at (Fin.ofNat 16 ((o - 0xE000) / 0x100))).filt (o % 0x100 / 4)
  else if o = 0x1000 then s.abIrqSum
  else 0

/-- R380, R445: an uncorrectable error met by the read of a register word. One in an array of an AB cell is a breach of the cell's
owner. -/
def State.regUnc (s : State) (req : Option Nat) (a : Nat) : State :=
  let cell : Option (Fin 16) :=
    if within a 0x1F2000 0x1F6000 then some (Fin.ofNat 16 ((a - 0x1F2000) / 0x400))
    else if within a 0x1F6000 0x1FE000 then some (Fin.ofNat 16 ((a - 0x1F6000) / 0x800))
    else if within a 0x1FE000 0x1FF000 then some (Fin.ofNat 16 ((a - 0x1FE000) / 0x100))
    else none
  (s.arrayUnc req a).breachOf (cell.bind s.abOwner) .ecc

/-- R378, R380: the register word is in an array and holds an uncorrectable error.
DESIGN CHOICE (log 6): the control-store window is no such array: a read of it returns the word as it is stored, and an error
in it is met by fetches alone (R323). -/
def State.regEcc (s : State) (a : Nat) : Bool :=
  if within a 0x1E4000 0x1EC000 then
    (s.gds.at (if a < 0x1E8000 then 0 else 1)).tunc.contains (a % 0x4000 / 4)
  else if within a 0x1EC000 0x1F0000 then (s.gds.at (if a < 0x1EE000 then 0 else 1)).bunc.contains (a % 0x2000 / 4)
  else if within a 0x1F2000 0x1F6000 then
    (s.abs_.at (Fin.ofNat 16 ((a - 0x1F2000) / 0x400))).tbad.contains ((a - 0x1F2000) % 0x400 / 4)
  else if within a 0x1F6000 0x1FE000 then
    (s.abs_.at (Fin.ofNat 16 ((a - 0x1F6000) / 0x800))).rbad.contains ((a - 0x1F6000) % 0x800 / 4)
  else if within a 0x1FE000 0x1FF000 then
    (s.abs_.at (Fin.ofNat 16 ((a - 0x1FE000) / 0x100))).fbad.contains (a % 0x100 / 4)
  else false

/-- DBG_ALLOW, the one DBG register that others than the debugger read (R574). -/
def State.rdAllow (s : State) (a : Nat) : W32 := if a = 0x200100 then s.dbg.allow.setWidth 32 else 0

/-- A read of the register at block offset `a` by `q` that no cause of R57 refuses. -/
def State.regRead (s : State) (q : Req) (a : Nat) : W32 × State :=
  let w := q.who
  match a / 0x10000 with
  | 0x00 => s.rdGl (bit q.hw 15) a
  | 0x01 => (s.rdHp (a % 0x10000), s)
  | 0x02 => (s.rdPw (a % 0x10000), s)
  | 0x03 => (s.rdSec (a % 0x10000), s)
  | 0x04 => (s.rdBb (a % 0x10000), s)
  | 0x06 => (s.rdMem (a % 0x10000), s)
  | 0x08 => s.rdEic (a - 0x80000)
  | 0x0A => s.rdBt w (a % 0x10000)
  | 0x0B => s.rdTa w (a % 0x10000)
  | 0x0C => (s.rdSn (a % 0x10000), s)
  | 0x10 => (s.rdLn (a % 0x10000), s)
  | 0x11 => s.rdPe (a - 0x110000)
  | 0x12 => s.rdPe (a - 0x110000)
  | 0x14 => s.rdSf (a - 0x140000)
  | 0x18 => s.rdSq (a - 0x180000)
  | 0x19 => s.rdSq (a - 0x180000)
  | 0x1A => (s.rdCs (a - 0x1A0000), s)
  | 0x1B => (s.rdCs (a - 0x1A0000), s)
  | 0x1C => (s.rdCh w (a - 0x1C0000), s)
  | 0x1E => (s.rdGd (a - 0x1E0000), s)
  | 0x1F => (s.rdAb (a - 0x1F0000), s)
  | 0x20 => (s.rdAllow a, s)
  | _ => (0, s)

end Sys2Proof.Machine
end

