-- ==== Sys2Proof/Machine/Xfer.lean ====
section
/-! DEFINITION. The transfer engine (spec/02_block_boundary.md, R60 to R73). -/

namespace Sys2Proof.Machine

def State.modXf (s : State) (f : Xfer → Xfer) : State := { s with xf := f s.xf }

/-- The engine as a requester: it carries no secure attribute (R385). -/
def xfReq : Req := { who := .xfer, sec := false }

/-- The transfer ends in `st`, with DONE, and raises source 466. -/
def Xfer.finish (x : Xfer) (st : XfSt) (c : XfCause) : Xfer := { x with st := st, cause := c, done := true, irq := true }

/-- R64: DRAINING ends when no work is left: nothing outstanding, and nothing to issue. An enable written during DRAINING
then applies (R354). -/
def Xfer.settle (x : Xfer) : Xfer :=
  match x.st with
  | .draining => if x.bursts.isEmpty ∧ (x.stopped ∨ x.llen ≤ x.next) then x.finish (if x.en then .idle else .off) x.cause else x
  | .busy => if x.bursts.isEmpty ∧ x.llen ≤ x.next then x.finish .idle x.cause else x
  | _ => x

/-- R64: an error of cause `c`: no new bursts. In DRAINING the engine still ends in OFF. -/
def Xfer.fail (x : Xfer) (c : XfCause) : Xfer :=
  match x.st with
  | .busy => { x.finish .error c with stopped := true }
  | .draining => { x with stopped := true, cause := c }.settle
  | _ => x

/-- The engine leaves ERROR: the tags of bursts that are still outstanding answer to nothing any more (R73). -/
def Xfer.leaveError (x : Xfer) (st : XfSt) : Xfer :=
  { x with st := st, bursts := [], deadTags := x.bursts.map Burst.tag }

/-- R65: the parameters of GO are valid. -/
def xfValid (sys blk len : Nat) (dir : Bool) : Bool :=
  let m := memOf blk
  decide (len ≠ 0) && decide (m = memOf (blk + len - 1)) && decide (m = some 0 ∨ m = some 2 ∨ m = some 3) &&
    decide (sys + len ≤ 2 ^ 40) && !(dir && decide (m = some 3))

/-- R64: EN set. -/
def State.xfEnable (s : State) : State :=
  s.modXf fun x => { x with en := true, st := if x.st = .off then .idle else x.st }

/-- R65: GO with direction `dir`. -/
def State.xfGo (s : State) (dir : Bool) : State :=
  s.modXf fun x =>
    if x.st ≠ .idle then x
    else if !xfValid x.sys x.blk x.len dir then { x with st := .error, cause := .param, done := true, dir := dir }
    else
      { x with st := .busy, dir := dir, lsys := x.sys, lblk := x.blk, llen := x.len,
               ldir := dir, next := 0, remain := x.len, stopped := false, bursts := [] }

/-- R64: EN cleared. -/
def State.xfDisable (s : State) (abort : Bool) : State :=
  s.modXf fun x0 =>
    let x := { x0 with en := false, abort := abort }
    match x.st with
    | .idle => { x with st := .off }
    | .error => x.leaveError .off
    | .busy => { x with st := .draining, stopped := abort }.settle
    | .draining => { x with stopped := x.stopped || abort }.settle
    | .off => x

/-- R71: a write of HP_XF_CTRL. -/
def State.xfCtrl (s : State) (v : W32) : State :=
  let s0 := s.modXf fun x => { x with dir := bit v 2, abort := bit v 3 }
  if bit v 0 then
    let s1 := s0.xfEnable
    if bit v 1 then s1.xfGo (bit v 2) else s1
  else if s.xf.en then s0.xfDisable (bit v 3)
  else s0.modXf fun x => if x.st = .draining ∧ bit v 3 then { x with stopped := true }.settle else x

/-- R64: 1 written to DONE.
DESIGN CHOICE (log 13): source 466, of which the table says only when it is raised, falls as DONE is cleared. -/
def State.xfDoneClear (s : State) : State :=
  s.modXf fun x =>
    { (if x.st = .error then { x.leaveError .idle with cause := .none } else x) with done := false, irq := false }

/-- R73: the outstanding limit. -/
def Xfer.maxOut (x : Xfer) : Nat := let k := fldN x.cfg 16 4; if k = 0 ∨ 8 < k then 8 else k

/-- R63: the beats of the next burst. -/
def Xfer.beats (x : Xfer) : Nat :=
  let b := if fldN x.cfg 0 4 = 0 then 16 else fldN x.cfg 0 4
  min (min b ((x.llen - x.next) / 8)) ((4096 - (x.lsys + x.next) % 4096) / 8)

/-- R370: a word that the engine reads from a memory: none for an uncorrectable error, 0 where the read is refused (R56). -/
def State.xfRead (s : State) (a : Nat) : Option Nat × State :=
  match s.refusal xfReq false a 8 0 with
  | some _ => (some 0, s)
  | none => s.memLoad 17 a 8

/-- R62: the words that a write burst carries, in order: none where one meets an uncorrectable error. -/
def State.xfFetch (s : State) (a : Nat) : Nat → Option (List W64) × State
  | 0 => (some [], s)
  | n + 1 =>
    match s.xfRead a with
    | (none, s1) => (none, s1)
    | (some d, s1) =>
      let r := s1.xfFetch (a + 8) n
      (r.1.map fun l => BitVec.ofNat 64 d :: l, r.2)

/-- R62: the write beats of a burst of the words `l`. -/
def wdBeats (tag : Fin 8) : List W64 → List WdBeat
  | [] => []
  | d :: l => { tag := tag, data := d, last := l.isEmpty } :: wdBeats tag l

/-- R62: HI_WD_VALID with HI_WD_DATA and HI_WD_LAST: the oldest write beat that waits. -/
def Xfer.hiWd (x : Xfer) : Option (W64 × Bool) := x.wd.head?.map fun b => (b.data, b.last)

/-- R42, R60: the interconnect takes `k` write beats with HI_WD_READY, the oldest first. -/
def State.xfBeats (s : State) (k : Nat) : State :=
  if s.up ∧ s.hp.hiRstN then s.modXf fun x => { x with wd := x.wd.drop k } else s

/-- R62: the write beats that still wait once the interconnect has answered the write burst `tag`: it has taken the beats of
that burst before, and those ahead of them. -/
def wdAfter (tag : Fin 8) (l : List WdBeat) : List WdBeat :=
  if l.any fun b => decide (b.tag = tag) then (l.dropWhile fun b => !(decide (b.tag = tag) && b.last)).tail else l

/-- R61, R63, R64: the next burst is issued with the tag `tag`, which is not in use. A burst that was outstanding as the engine
left ERROR counts as outstanding until it is answered. -/
def State.xfIssue (s : State) (tag : Fin 8) : State :=
  let x := s.xf
  if s.up ∧ s.hp.hiRstN ∧ (x.st = .busy ∨ x.st = .draining) ∧ !x.stopped ∧ x.next < x.llen ∧ x.bursts.length + x.deadTags.length < x.maxOut ∧
      !((x.bursts.map Burst.tag).contains tag) ∧ !x.deadTags.contains tag then
    let n := x.beats
    match (if x.ldir then s.xfFetch (x.lblk + x.next) n else (some [], s)) with
    | (some l, s1) =>
      s1.modXf fun x =>
        { x with next := x.next + 8 * n,
                 wd := x.wd ++ wdBeats tag l,
                 bursts := x.bursts ++ [{ tag := tag, blk := x.lblk + x.next, sys := x.lsys + x.next, beats := n, got := 0,
                                          issued := s.now }] }
    | (none, s1) => s1.modXf fun x => x.fail .ecc
  else s

/-- R66, R370: a word that the engine writes to a memory. A refused write has no effect (R56). -/
def State.xfStore (s : State) (a : Nat) (v : W64) : State :=
  match s.refusal xfReq true a 8 v.toNat with
  | some c => s.refused true a c
  | none => s.memWrite 17 a 8 v.toNat

/-- R62, R64, R73: a response beat with tag `tag`. -/
def State.xfResponse (s0 : State) (tag : Fin 8) (status : Nat) (data : W64) (last : Bool) : State :=
  let s := if last then s0.modXf fun x => { x with wd := wdAfter tag x.wd } else s0
  let x := s.xf
  if !s0.up ∨ !s0.hp.hiRstN then s0
  else if x.deadTags.contains tag then
    s.modXf fun x => { x with deadTags := if last ∧ x.st ≠ .error then x.deadTags.filter (· ≠ tag) else x.deadTags }
  else match x.bursts.find? fun b => b.tag = tag with
  | none => s
  | some b =>
    let ok := decide (status = 0)
    let s1 := if ok && !x.ldir then s.xfStore (b.blk + 8 * b.got) data else s
    let moved := if !ok then 0 else if x.ldir then 8 * b.beats else 8
    let rest (l : List Burst) : List Burst :=
      if last then l.filter fun y => decide (y.tag ≠ tag)
      else l.map fun y => if y.tag = tag then { y with got := y.got + 1 } else y
    s1.modXf fun x =>
      let x1 := { x with bursts := rest x.bursts, remain := x.remain - moved }
      if ok then x1.settle else x1.fail .resp

/-- R73: responses have not come within TIMEOUT µs of TD0. A jump of TD0 by a load does not count (log 13). -/
def State.xfTimeout (s : State) : State :=
  let x := s.xf
  let lim := fldN x.cfg 8 8
  let late (b : Burst) : Bool := notBefore s.now (b.issued + BitVec.ofNat 64 (1000 * lim))
  if s.up ∧ s.ticking ∧ lim ≠ 0 ∧ x.bursts.any late then
    s.modXf fun x =>
      ({ x with bursts := x.bursts.filter fun b => !late b,
                deadTags := x.deadTags ++ (x.bursts.filter late).map Burst.tag }).fail .timeout
  else s

/-- Writes of the address and length registers (R70). -/
def State.xfReg (s : State) (o : Nat) (v : W32) : State :=
  s.modXf fun x =>
    match o with
    | 0x10 => { x with sys := x.sys / 2 ^ 32 * 2 ^ 32 + (v &&& 0xFFFFFFF8).toNat }
    | 0x14 => { x with sys := (v &&& 0xFF).toNat * 2 ^ 32 + x.sys % 2 ^ 32 }
    | 0x18 => { x with blk := (v &&& 0x03FFFFF8).toNat }
    | 0x1C => { x with len := (v &&& 0x001FFFF8).toNat }
    | 0x28 => { x with cfg := v &&& 0x000FFF0F }
    | _ => x

/-- R53, R60: HI_RST_N takes the level `v`. Low, nothing is transferred on the initiator port.
DESIGN CHOICE (log 13): a low HI_RST_N drops the write beats that wait, while the bursts stay issued and outstanding, with
their tags and their TIMEOUT; the rules do not say what becomes of them. -/
def State.initiatorReset (s : State) (v : Bool) : State :=
  ({ s with hp := { s.hp with hiRstN := v } }).modXf fun x => if v then x else { x with wd := [] }

end Sys2Proof.Machine
end

