-- ==== Sys2Proof/Machine/RegWrite.lean ====
section
/-! DEFINITION. Writes of the registers by block offset. A write of a reserved offset or of a read-only field has no effect
(R20, R24). Each function takes the offset inside its region. -/

namespace Sys2Proof.Machine

/-- A 64-bit value with its low half replaced. -/
def setLo (x : W64) (v : W32) : W64 := join (hi32 x) v
/-- A 64-bit value with its high half replaced. -/
def setHi (x : W64) (v : W32) : W64 := join v (lo32 x)

/-- GL and the Carnelian window (R609). -/
def State.wrGl (s : State) (q : Req) (a : Nat) (v : W32) : State :=
  let x : BitVec 16 := fld v 0 16
  match a with
  | 0x10 => s.cwEnable v
  | 0xF00 => s.cwHigh x
  | 0xF02 => s.cwLow (fld v 8 8) (fld v 0 8) q.sec
  | 0xF04 => s.modCw fun w => { w with args := w.args.upd 0 x }
  | 0xF06 => s.modCw fun w => { w with args := w.args.upd 1 x }
  | 0xF08 => s.modCw fun w => { w with args := w.args.upd 2 x }
  | 0xF0A => s.modCw fun w => { w with args := w.args.upd 3 x }
  | 0xF0C => s.cwStatW x
  | 0xF0E => s.cwRspPush x
  | 0xF10 => s.cwCtrl x
  | _ => s

/-- R59: VALID of HP_ERR_INFO written 1. -/
def State.hpErrClear (s : State) : State := { s with hp := { s.hp with err := none } }

/-- HP (R610). -/
def State.wrHp (s : State) (o : Nat) (v : W32) : State :=
  match o with
  | 0x4 => if bit v 31 then s.hpErrClear else s
  | 0x20 => s.xfCtrl v
  | 0x24 => if bit v 3 then s.xfDoneClear else s
  | _ => s.xfReg o v

/-- R530: a write of a last-gasp register. -/
def State.gaspReg (s : State) (o : Nat) (v : W32) : State :=
  s.modPw fun p =>
    let g := p.gasp
    if o = 0x50 then { p with gasp := { g with cfg := v &&& 0x7D } }
    else
      let k : Fin 4 := Fin.ofNat 4 ((o - 0x60) / 8)
      match o % 8 with
      | 0 => { p with gasp := { g with addr := g.addr.upd k (v &&& 0x03FFFFFC) } }
      | 4 => { p with gasp := { g with data := g.data.upd k v } }
      | _ => p

/-- PW (R611). -/
def State.wrPw (s : State) (o : Nat) (v : W32) : State :=
  if within o 0x10 0x30 then
    let h : Fin 2 := if o < 0x20 then 0 else 1
    match o % 0x10 with
    | 0 => s.modHalf h fun x => { x with cfg := v &&& 7 }
    | 4 => s.halfCtrl h v
    | 8 => s.halfStatW h v
    | _ => s
  else if within o 0x60 0x80 || decide (o = 0x50) then s.gaspReg o v
  else match o with
  | 0x4 => s.modPw fun p => { p with rstCause := p.rstCause &&& ~~~(fld v 0 8) }
  | 0x8 => s.supCfg v
  | 0xC => s.supStatW v
  | 0x30 => s.modPw fun p => { p with leaseCfg := v &&& 0x1FFFF }
  | 0x34 => s.leaseClaim 0 v
  | 0x38 => s.leaseClaim 1 v
  | 0x3C => s.leaseStatW v
  | 0x44 => s.canaryMinW v
  | 0x54 => s.gaspStatW v
  | _ => s

/-- SEC (R612). -/
def State.wrSec (s : State) (o : Nat) (v : W32) : State :=
  if 0x8000 ≤ o then s.ldWindow (if o < 0xC000 then 0 else 1) (Fin.ofNat 4096 (o % 0x4000 / 4)) v
  else match o with
  | 0x0 => s.modSec fun x => { x with cfg := v &&& 7 }
  | 0x4 => s.csLockSet v
  | 0x8 => s.lcRequest v
  | 0xC => if bit v 16 then s.modSec fun x => { x with lcDone := false } else s
  | 0x10 => s.ldCtrl v
  | 0x14 => s.ldFeed v
  | 0x18 => s.modLd fun l => { l with feedErr := l.feedErr && !bit v 9, done := l.done && !bit v 8 }
  | _ => s

/-- R533: a permitted write of BB_DATAi. -/
def State.bbData (s : State) (i : Fin 64) (v : W32) : State := { s with bat := { s.bat with data := s.bat.data.upd i v } }

/-- BB (R611). -/
def State.wrBb (s : State) (o : Nat) (v : W32) : State :=
  if o < 0x100 then s.bbData (Fin.ofNat 64 (o / 4)) v
  else match o with
  | 0x100 => { s with bat := { s.bat with vinit := s.bat.vinit && !bit v 0 } }
  | 0x288 => s.tamperCfgW v
  | 0x28C => s.tamperStatW v
  | _ => s

/-- MEM and AG (R613). -/
def State.wrMem (s : State) (q : Req) (o : Nat) (v : W32) : State :=
  match o with
  | 0x0 => s.modMem fun m => { m with cfg := v &&& 0xFF00000F }
  | 0x4 => s.modMem fun m => m.setCorr v
  | 0xC => if bit v 31 then s.uncRearm (bit q.hw 31) else s
  | 0x14 => if bit v 31 then s.collRearm (bit q.hw 31) else s
  | 0x18 => s.modMem fun m => { m with bistCfg := v &&& 0xFFFF00F1 }
  | 0x1C => s.bistStatW v
  | 0x100 => s.modMem fun m => { m with agIe := bit v 0 }
  | 0x104 => if bit v 0 then s.agWipe 0 else s
  | 0x108 => s.modMem fun m => { m with agDone := m.agDone && !bit v 4 }
  | 0x10C => s.agLockSet v
  | _ => s

/-- EIC (R614). -/
def State.wrEic (s : State) (o : Nat) (v : W32) : State :=
  if within o 0x1004 0x1800 then s.srcWrite (Fin.ofNat 512 ((o - 0x1000) / 4)) v
  else if within o 0x2080 0x20C0 then s.orphW ((o - 0x2080) / 4) v
  else if within o 0x3000 0x3200 then (if o % 0x10 = 0 then s.modCfg (Fin.ofNat 32 ((o - 0x3000) / 0x10)) v else s)
  else if within o 0x4000 0x4240 then
    let t : Fin 18 := Fin.ofNat 18 ((o - 0x4000) / 0x20)
    match o % 0x20 with
    | 0x0 => s.targetCfg t v s.sourceLevel
    | 0x4 => s.targetThr t v
    | _ => s
  else match o with
  | 0x0 => s.modEic fun e => { e with ieOrph := bit v 0 }
  | 0x4 => s.modEic fun e => { e with spur := fld v 0 16 }
  | 0x8 => s.setPend (Fin.ofNat 512 (fldN v 0 9))
  | 0xC => s.clrPend (Fin.ofNat 512 (fldN v 0 9))
  | _ => s

/-- BT and TD (R615), written by `w`.
DESIGN CHOICE (log 9): a shadow of R96 is kept while BT_CFG.LATCH is 0 and answers again once LATCH is set. -/
def State.wrBt (s : State) (w : Master) (o : Nat) (v : W32) : State :=
  if within o 0x140 0x300 then
    let n : Fin 8 := Fin.ofNat 8 ((o - 0x100) / 0x40)
    match o % 0x40 with
    | 0x10 => s.modDom n fun d => { d with arg := setLo d.arg v }
    | 0x14 => s.modDom n fun d => { d with arg := setHi d.arg v }
    | 0x18 => s.modDom n fun d => { d with at_ := setLo d.at_ v }
    | 0x1C => s.modDom n fun d => { d with at_ := setHi d.at_ v }
    | 0x20 => s.modDom n fun d => { d with slewReg := v &&& 0x07FFFFFF }
    | 0x24 => s.tdCmd w n v
    | 0x28 => s.modDom n fun d => d.statW v
    | 0x3C => s.modDom n fun d => { d with ie := v &&& 0xF00 }
    | _ => s
  else match o with
  | 0x0C => s.modBeryl fun b => { b with cfg := v &&& 0x303 }
  | 0x10 => s.btCtrl v
  | 0x14 => s.modBeryl fun b =>
      { b with wrap := b.wrap && (!bit v 9 || (b.atWrap && decide (b.st = .run))), lost := b.lost && !bit v 8 }
  | 0x18 => s.modBeryl fun b => { b with load := setLo b.load v }
  | 0x1C => s.modBeryl fun b => { b with load := setHi b.load v }
  | 0x30 => s.modBeryl fun b => { b with convIn := setLo b.convIn v }
  | 0x34 => s.modBeryl fun b => { b with convIn := setHi b.convIn v }
  | 0x38 => s.conversion v
  | _ => s

/-- TA, AC, CP and WD (R616). -/
def State.wrTa (s : State) (o : Nat) (v : W32) : State :=
  if o < 0x1000 then
    let n : Fin 64 := Fin.ofNat 64 (o / 0x40)
    match o % 0x40 with
    | 0x00 => s.taCfg n v
    | 0x04 => s.taCtrl n v
    | 0x08 => s.taStatW n v
    | 0x0C => s.taCnt n v
    | 0x10 => s.taLim n v
    | 0x14 => s.modTimer n fun x => { x with cmp := v }
    | 0x18 => s.modTimer n fun x => { x with phase := v }
    | 0x20 => s.modTimer n fun x => { x with act := v &&& 0xFFFF000F }
    | 0x24 => s.modTimer n fun x => { x with evt := v &&& 0x80FF80FF }
    | _ => s
  else if within o 0x2000 0x2400 then
    let k : Fin 32 := Fin.ofNat 32 ((o - 0x2000) / 0x20)
    match o % 0x20 with
    | 0x00 => s.acCfg k v
    | 0x04 => s.acCtrl k v
    | 0x08 => s.acStatW k v
    | 0x0C => s.acReg k fun x => { x with val := setLo x.val v }
    | 0x10 => s.acReg k fun x => { x with val := setHi x.val v }
    | 0x14 => s.acReg k fun x => { x with inc := v }
    | _ => s
  else if within o 0x3000 0x3200 then
    let k : Fin 16 := Fin.ofNat 16 ((o - 0x3000) / 0x20)
    match o % 0x20 with
    | 0x00 => s.cpCfg k v
    | 0x04 => s.cpStatW k v
    | _ => s
  else if within o 0x4000 0x401C || within o 0x4100 0x411C then
    let h : Fin 2 := if o < 0x4100 then 0 else 1
    match o % 0x100 with
    | 0x00 => s.wdCfg h v
    | 0x04 => s.wdKick h v
    | 0x08 => s.wdStatW h v
    | 0x0C => s.wdReg h fun x => { x with load := v }
    | 0x10 => s.wdReg h fun x => { x with warn := v }
    | 0x14 => s.wdReg h fun x => { x with grace := v }
    | _ => s
  else match o with
  | 0x1000 => s.modTa fun t => { t with latch := bit v 0 }
  | 0x1004 => if bit v 0 then s.taSnap else s
  | 0x100C => s.modTa fun t => { t with stagAt := setLo t.stagAt v }
  | 0x1010 => s.modTa fun t => { t with stagAt := setHi t.stagAt v }
  | 0x1014 => s.stagCtrl v
  | 0x1018 => s.modTa fun t => { t with busy := t.busy && !bit v 2, late := t.late && !bit v 1 }
  | _ => s

/-- SN (R617). -/
def State.wrSn (s : State) (o : Nat) (v : W32) : State :=
  if within o 0x100 0x500 then s.snChCfg (Fin.ofNat 256 ((o - 0x100) / 4)) v
  else if within o 0x800 0xA00 then
    let c : Fin 32 := Fin.ofNat 32 ((o - 0x800) / 0x10)
    match o % 0x10 with
    | 0x0 => s.lutCfg c v
    | 0x4 => s.lutFilt c v
    | 0xC => if bit v 0 then s.lutClear c else s
    | _ => s
  else if within o 0xC00 0xC40 then s.snExpW (Fin.ofNat 16 ((o - 0xC00) / 4)) v
  else if within o 0x2000 0x2A20 then s.subWrite (Fin.ofNat 648 ((o - 0x2000) / 4)) v
  else if within o 0x3000 0x30A4 then s.snOvfW ((o - 0x3000) / 4) v
  else match o with
  | 0x0 => s.snCfg v
  | 0x4 => s.snStatW v
  | 0x8 => s.fire (fldN v 0 8)
  | 0xC => s.groupSwitch v
  | 0x14 => s.modSn fun n => { n with tisel := fldN v 0 11 }
  | _ => s

/-- LN (R618). -/
def State.wrLn (s : State) (o : Nat) (v : W32) : State :=
  if o < 0x4000 then
    let n : Fin 256 := Fin.ofNat 256 (o / 0x40)
    match o % 0x40 with
    | 0x0 => s.laneCfgWrite n v
    | 0x4 => s.laneCtrl n v
    | 0x8 => s.laneStatW n v
    | _ => s
  else s

/-- PE and the group program memories (R618). -/
def State.wrPe (s : State) (o : Nat) (v : W32) : State :=
  if o < 0x4000 then
    let n : Fin 64 := Fin.ofNat 64 (o / 0x100)
    match o % 0x100 with
    | 0x00 => s.peCfg n v
    | 0x04 => s.peCtrl n v
    | 0x08 => s.peStatW n v
    | 0x0C => s.peCfgReg n fun e => { e with pcReg := v &&& 0x01FFFFFF }
    | 0x10 => s.peCfgReg n fun e => { e with lanes := v }
    | 0x14 => s.peCfgReg n fun e => { e with clkReg := v &&& 0xFEFFFFFF }
    | 0x18 => s.peCfgReg n fun e => { e with period := v }
    | 0x20 => s.modEng n fun e => { e with fdata := setLo e.fdata v }
    | 0x24 => s.modEng n fun e => { e with fdata := setHi e.fdata v }
    | 0x28 => s.faccPush n v
    | _ => s
  else if within o 0x4000 0x4100 then
    let g : Fin 16 := Fin.ofNat 16 ((o - 0x4000) / 0x10)
    match o % 0x10 with
    | 0x0 => { s with groups := s.groups.mod g fun x => { x with isel := v &&& 0x3F } }
    | 0x4 => s.inspectWrite g v
    | _ => s
  else if within o 0x10000 0x14000 then s.progWrite (Fin.ofNat 16 ((o - 0x10000) / 0x400)) (o % 0x400 / 4) v
  else s

/-- SF (R619). -/
def State.wrSf (s : State) (q : Req) (o : Nat) (v : W32) : State :=
  if o < 0x2000 then
    let n : Fin 128 := Fin.ofNat 128 (o / 0x40)
    match o % 0x40 with
    | 0x00 => s.sfCfg n v
    | 0x04 => s.sfCtrl n q.coll v
    | 0x08 => s.sfStatW n v
    | 0x0C => s.modSf n fun c => { c with addr := v &&& 0x1FFFFF }
    | 0x10 => s.modSf n fun c => { c with len := v &&& 0xFFFF }
    | 0x14 => s.modSf n fun c => { c with ring := v &&& 0xFFFF000F }
    | 0x1C => s.sfRp n v
    | 0x20 => s.sfCplPush n v
    | 0x24 => s.modSf n fun c => { c with evt := v &&& 0xFF }
    | 0x28 => s.modSf n fun c => { c with drops := fld v 16 16, frames := fld v 0 16 }
    | _ => s
  else if within o 0x4000 0x4400 then
    let k : Fin 32 := Fin.ofNat 32 ((o - 0x4000) / 0x20)
    let put (f : CrcUnit → CrcUnit) : State :=
      s.sfUnitWrite (fun i c => c.crcEn && decide (sfCrc i c = k)) fun z => { z with crcs := z.crcs.mod k f }
    match o % 0x20 with
    | 0x00 => put fun u => { u with cfg := v &&& 0x7F }
    | 0x04 => put fun u => { u with poly := v }
    | 0x08 => put fun u => { u with init := v }
    | 0x0C => put fun u => { u with xor := v }
    | 0x10 => put fun u => u
    | _ => s
  else if inBlocks o 0x5000 0x10 16 4 then
    let k : Fin 16 := Fin.ofNat 16 ((o - 0x5000) / 0x10)
    s.sfUnitWrite (fun i c => bit c.cfg 20 && decide (sfBs i c = k)) fun z => { z with bss := z.bss.upd k (v &&& 0x1F) }
  else if inBlocks o 0x5400 0x10 16 4 then
    let k : Fin 16 := Fin.ofNat 16 ((o - 0x5400) / 0x10)
    s.sfUnitWrite (fun i c => bit c.cfg 24 && decide (sfLc i c = k)) fun z => { z with lcs := z.lcs.upd k (v &&& 0xF) }
  else s

/-- R262, R578: a write of SQn_CFG. Setting EN with CATCHEN at 1 leaves a caught enable. -/
def State.seqEnableW (s : State) (n : Fin 16) (v : W32) : State :=
  let s1 := s.seqCfg n v
  if (s.seqs.at n).st = .off ∧ !(s.seqs.at n).en ∧ bit v 0 ∧ bit s.dbg.cfg 0 then
    s1.modDsq n fun x => { x with enCatch := true }
  else s1

/-- SQ (R620). -/
def State.wrSq (s : State) (o : Nat) (v : W32) : State :=
  if o < 0x10000 then
    let n : Fin 16 := Fin.ofNat 16 (o / 0x1000)
    match o % 0x1000 with
    | 0x00 => s.seqEnableW n v
    | 0x04 => s.modSeq n fun q => { q with trapF := q.trapF && !bit v 8 }
    | _ => s
  else if inBlocks o 0x10100 0x10 4 8 then
    let k : Fin 4 := Fin.ofNat 4 ((o - 0x10100) / 0x10)
    match o % 0x10 with
    | 0 => if bit v 0 then s.ibInvalidate k else s
    | 4 => { s with ibufs := s.ibufs.mod k fun b => { b with misses := v } }
    | _ => s
  else match o with
  | 0x10004 => { s with pool := s.pool.push (Fin.ofNat 512 (fldN v 0 9)) }
  | 0x10008 => { s with pool := s.pool.push (Fin.ofNat 512 (fldN v 0 9)) }
  | 0x1000C => { s with pool := { s.pool with cfg := v &&& 0x030003FF } }
  | 0x10010 => { s with pool := { s.pool with fifoErr := s.pool.fifoErr && !bit v 18, pushErr := s.pool.pushErr && !bit v 17,
                                              low := s.pool.low && !bit v 16 } }
  | _ => s

/-- CS (R620). -/
def State.wrCs (s : State) (o : Nat) (v : W32) : State :=
  if o < 0x10000 then s.csWordW (0x4000 + o / 4) v
  else if within o 0x10100 0x10200 then s.csPmW (Fin.ofNat 64 ((o - 0x10100) / 4)) v
  else match o with
  | 0x10000 => s.modCs fun c => { c with cfg := v &&& 0x11FFF }
  | 0x10004 => s.modCs fun c => { c with sel := v &&& 0x13 }
  | 0x10008 => s.csStatW v
  | _ => s

/-- CH (R621), written by `w`. -/
def State.wrCh (s : State) (w : Master) (o : Nat) (v : W32) : State :=
  if o < 0x4000 then
    let c : Fin 256 := Fin.ofNat 256 (o / 0x40)
    match o % 0x40 with
    | 0x0 => s.chCtrl w.memReq c v
    | 0x4 => s.chStatW c v
    | 0x8 => s.chMbxW c v
    | _ => s
  else
    let stage (f : PostRegs → PostRegs) : State := { s with posts := s.posts.mod w.slot f }
    match o with
    | 0x4000 => stage fun p => { p with data := setLo p.data v }
    | 0x4004 => stage fun p => { p with data := setHi p.data v }
    | 0x4008 => stage fun p => { p with time := setLo p.time v }
    | 0x400C => stage fun p => { p with time := setHi p.time v }
    | 0x4010 => s.post w (Fin.ofNat 256 (fldN v 8 8)) (Fin.ofNat 4 (fldN v 0 2))
    | _ => s

/-- GD (R622). -/
def State.wrGd (s : State) (o : Nat) (v : W32) : State :=
  if o < 0x1000 then
    let x : Fin 2 := if o < 0x800 then 0 else 1
    let r := o % 0x800
    if within r 0x100 0x140 then s.gdBrStatW x (Fin.ofNat 16 ((r - 0x100) / 4)) v
    else if within r 0x400 0x500 then s.gdBstatW x (Fin.ofNat 64 ((r - 0x400) / 4)) v
    else match r with
    | 0x00 => s.gdCfg x v
    | 0x04 => s.gdCtrl x v
    | 0x08 => s.gdStatW x v
    | 0x0C => s.gdReg x fun g => { g with line := v &&& 0xF3FF }
    | 0x10 => s.gdReg x fun g => { g with cycLen := v &&& 0xFFFFFF }
    | 0x14 => s.gdReg x fun g => { g with cyc0 := setLo g.cyc0 v }
    | 0x18 => s.gdReg x fun g => { g with cyc0 := setHi g.cyc0 v }
    | 0x1C => s.gdReg x fun g => { g with gm := v &&& 0xFFFFF }
    | 0x20 => s.gdReg x fun g => { g with iso := v &&& 0x1F0F }
    | 0x24 => s.gdReg x fun g => { g with nslot := v &&& 0xFFF }
    | 0x28 => s.gdReg x fun g => { g with brMask := v }
    | 0x30 => s.gdReg x fun g => { g with nodeCfg := v &&& 0xFF8FFFFF }
    | 0x34 => s.modGd x fun g => { g with nodeDly := v &&& 0xFFFFF }
    | 0x3C => s.gdNodeStatW x v
    | 0x40 => s.gdCommit x v
    | _ => s
  else if within o 0x4000 0xC000 then s.gdTableW (if o < 0x8000 then 0 else 1) (o % 0x4000 / 4) v
  else if 0xC000 ≤ o then s.gdBufW (if o < 0xE000 then 0 else 1) (o % 0x2000 / 4) v
  else if o = 0x1004 then s.gdReadmit v
  else s

/-- AB (R623). -/
def State.wrAb (s : State) (o : Nat) (v : W32) : State :=
  if o < 0x1000 then
    let k : Fin 16 := Fin.ofNat 16 (o / 0x100)
    match o % 0x100 with
    | 0x00 => s.abCfg k v
    | 0x04 => s.abCtrl k v
    | 0x08 => s.abStatW k v
    | 0x0C => s.abReg k fun c => { c with nbt := v }
    | 0x10 => s.abReg k fun c => { c with dbt := v &&& 0xFFFFFE00 }
    | 0x18 => s.abTxReq k v
    | 0x1C => s.abTxCan k v
    | 0x24 => s.modAb k fun c => { c with rxnd := c.rxnd &&& ~~~(fld v 0 16) }
    | 0x28 => s.modAb k fun c => { c with rxovr := c.rxovr &&& ~~~(fld v 0 16) }
    | _ => s
  else if within o 0x2000 0x6000 then
    let w := o % 0x80 / 4
    if w < 20 then s.abTbW (Fin.ofNat 16 ((o - 0x2000) / 0x400)) (Fin.ofNat 8 (o % 0x400 / 0x80)) w v else s
  else if within o 0xE000 0xF000 then s.abFilterW (Fin.ofNat 16 ((o - 0xE000) / 0x100)) (o % 0x100 / 4) v
  else s

/-- DBG_ALLOW and DBG_STIMk (R574, R589). -/
def State.wrDbg (s : State) (w : Master) (a : Nat) (v : W32) : State :=
  if a = 0x200100 then (if w = .debugger then s else s.allowWrite v)
  else if within a 0x200200 0x200280 then s.stim (Fin.ofNat 32 ((a - 0x200200) / 4)) v
  else s

/-- A write of the register at block offset `a` that no cause of R57 refuses. -/
def State.regWrite (s : State) (q : Req) (a : Nat) (v : W32) : State :=
  let w := q.who
  match a / 0x10000 with
  | 0x00 => s.wrGl q a v
  | 0x01 => s.wrHp (a % 0x10000) v
  | 0x02 => s.wrPw (a % 0x10000) v
  | 0x03 => s.wrSec (a % 0x10000) v
  | 0x04 => s.wrBb (a % 0x10000) v
  | 0x06 => s.wrMem q (a % 0x10000) v
  | 0x08 => s.wrEic (a - 0x80000) v
  | 0x0A => s.wrBt w (a % 0x10000) v
  | 0x0B => s.wrTa (a % 0x10000) v
  | 0x0C => s.wrSn (a % 0x10000) v
  | 0x10 => s.wrLn (a % 0x10000) v
  | 0x11 => s.wrPe (a - 0x110000) v
  | 0x12 => s.wrPe (a - 0x110000) v
  | 0x14 => s.wrSf q (a - 0x140000) v
  | 0x18 => s.wrSq (a - 0x180000) v
  | 0x19 => s.wrSq (a - 0x180000) v
  | 0x1A => s.wrCs (a - 0x1A0000) v
  | 0x1B => s.wrCs (a - 0x1A0000) v
  | 0x1C => s.wrCh w (a - 0x1C0000) v
  | 0x1E => s.wrGd (a - 0x1E0000) v
  | 0x1F => s.wrAb (a - 0x1F0000) v
  | 0x20 => s.wrDbg w a v
  | _ => s

/-! Accesses with their refusals. -/

/-- The registers with W1C and W1S fields, by block offset, with those fields (R20). Where the state tells which bits the
hardware updates in the access of a write, the register's own write applies R22: LATE of LNn_STAT (R163), WRAP of BT_STAT,
VALID of MEM_UNC_INFO and MEM_COLL_INFO (R377, R380). -/
def w1Bits (a : Nat) : W32 :=
  let b (l : List Nat) : W32 := l.foldl (init := 0) fun x i => x ||| putB i true
  let hi (i n : Nat) : W32 := BitVec.ofNat 32 ((2 ^ n - 1) * 2 ^ i)
  if within a 0x100000 0x104000 then (if a % 0x40 = 8 then b [5, 6, 7] else 0)
  else if within a 0x110000 0x114000 then (if a % 0x100 = 8 then hi 15 8 else 0)
  else if within a 0x140000 0x142000 then (if a % 0x40 = 8 then hi 8 8 else 0)
  else if within a 0x180000 0x190000 then (if a % 0x1000 = 4 then b [8] else 0)
  else if within a 0x1C0000 0x1C4000 then
    (if a % 0x40 = 4 then hi 9 4 else if a % 0x40 = 8 then b [6, 14, 22, 30] else 0)
  else if within a 0x1E0000 0x1E1000 then
    let r := a % 0x800
    if r = 8 then hi 8 5 else if r = 0x3C then b [8, 10, 11] else if within r 0x100 0x140 then hi 8 4
    else if within r 0x400 0x500 then b [27, 31] else 0
  else if within a 0x1F0000 0x1F1000 then
    match a % 0x100 with
    | 0x08 => hi 8 9
    | 0x18 => hi 0 8
    | 0x24 => hi 0 16
    | 0x28 => hi 0 16
    | _ => 0
  else if within a 0x82080 0x820C0 then hi 0 32
  else if within a 0xB0000 0xB1000 then (if a % 0x40 = 8 then hi 8 6 else 0)
  else if within a 0xB2000 0xB2400 then (if a % 0x20 = 8 then hi 8 3 else 0)
  else if within a 0xB3000 0xB3200 then (if a % 0x20 = 4 then hi 1 3 else 0)
  else if within a 0xC0C00 0xC0C40 then b [31]
  else if within a 0xC3000 0xC30A4 then hi 0 32
  else if within a 0xA0140 0xA0300 then (if a % 0x40 = 0x28 then hi 8 4 else 0)
  else if within a 0x201000 0x201400 then (if a % 0x40 = 0 then b [4] else 0)
  else match a with
  | 0x200004 => hi 29 3
  | 0x200288 => b [10]
  | 0x10004 => b [31]
  | 0x10024 => b [3]
  | 0x20004 => hi 0 8
  | 0x2000C => b [3]
  | 0x20018 => hi 8 3
  | 0x20028 => hi 8 3
  | 0x2003C => hi 8 3
  | 0x20054 => hi 8 2
  | 0x30004 => hi 0 4
  | 0x3000C => b [16]
  | 0x30018 => hi 8 2
  | 0x40100 => b [0]
  | 0x40288 => b [31]
  | 0x4028C => hi 16 5
  | 0x6001C => hi 1 2
  | 0x60108 => b [4]
  | 0x6010C => hi 0 16
  | 0xA0014 => hi 8 2
  | 0xB1018 => hi 1 2
  | 0xB4000 => b [31]
  | 0xB4100 => b [31]
  | 0xB4008 => hi 8 5
  | 0xB4108 => hi 8 5
  | 0xC0004 => b [0, 2]
  | 0x190010 => hi 16 3
  | 0x1B0008 => b [4] ||| hi 8 4
  | 0xF0C => b [12]
  | _ => 0

/-- R22: what a write of `v` at `a` leaves to be written where the hardware updates the bits `hw` in the same access: the
hardware wins in every W1C and W1S bit. -/
def hwWins (a : Nat) (v hw : W32) : W32 := v &&& ~~~(hw &&& w1Bits a)

/-- An access as a requester sees it: the cause of a refusal or the data of a read. -/
def State.busRead (s : State) (q : Req) (a n : Nat) : Except Cause Nat × State :=
  match s.refusal q false a n 0 with
  | some c => (.error c, s.refused false a c)
  | none =>
    if memWindow a then
      match s.memLoad q.who.memReq a n with
      | (some v, s1) => (.ok v, s1)
      | (none, s1) => (.error .ecc, s1)
    else if s.regEcc a then (.error .ecc, s.regUnc (some q.who.memReq) a)
    else
      let (v, s1) := s.regRead q a
      (.ok v.toNat, s1)

/-- A write: the cause of a refusal. -/
def State.busWrite (s : State) (q : Req) (a n v : Nat) : Option Cause × State :=
  match s.refusal q true a n v with
  | some c => (some c, s.refused true a c)
  | none =>
    (none, if memWindow a then s.memWrite q.who.memReq a n v else s.regWrite q a (hwWins a (BitVec.ofNat 32 v) q.hw))

/-! The host target port (R47 to R59). -/

/-- The width in bytes that HT_REQ_SIZE encodes (R48), 0 for 0b11. -/
def sizeBytes (z : BitVec 2) : Nat :=
  match z with
  | 0 => 2
  | 1 => 4
  | 2 => 8
  | 3 => 0

/-- R58: a refused access is recorded. -/
def HostPort.record (h : HostPort) (e : HostErr) : HostPort :=
  { h with err := some (match h.err with
      | some old => { old with ovf := true }
      | none => e) }

/-- An answer enters the response queue of the adapter. -/
def State.hostAnswer (s : State) (r : HostResp) : State := { s with hp := { s.hp with resps := s.hp.resps ++ [r] } }

/-- R55 to R58: the request `r` is refused with cause `c`. `live` says that the common region was out of reset. -/
def State.hostRefuse (s : State) (live : Bool) (r : HostReq) (c : Cause) : State :=
  let e : HostErr :=
    { addr := r.addr, tag := r.tag, cause := c, size := r.size, write := r.write, sec := r.sec, ovf := false }
  (if c = .reset ∨ !live then s else { s with hp := s.hp.record e }).hostAnswer { tag := r.tag, status := c.resp, data := 0 }

/-- R51, R55 to R58: a request passes into the block, is executed and answered. -/
def State.hostPass (s : State) (r : HostReq) : State :=
  let q : Req := { who := .host, sec := r.sec, hw := r.hw, coll := r.coll }
  let n := sizeBytes r.size
  let a := r.addr.toNat
  if r.write then
    let d := r.data.toNat % 256 ^ n
    match s.busWrite q a n d with
    | (some c, z) => z.hostRefuse s.up r c
    | (none, z) => z.hostAnswer { tag := r.tag, status := 0, data := 0 }
  else
    match s.busRead q a n with
    | (.error c, z) => z.hostRefuse s.up r c
    | (.ok v, z) => z.hostAnswer { tag := r.tag, status := 0, data := BitVec.ofNat 64 v }

/-- The host adapter works: it has power and is out of reset (R53, R84). -/
def State.hostLive (s : State) : Bool := s.power.vao && s.power.vcore && s.hp.rstN

/-- R51, R53: the requests that wait in the adapter pass into the block, in the order of their transfer. -/
def State.hostPassAll (s : State) : State :=
  s.hp.reqs.foldl (init := { s with hp := { s.hp with reqs := [] } }) State.hostPass

/-- R47, R51, R53: a request is transferred, where fewer than 16 wait for their response. It waits in the adapter, or passes
into the block behind those that wait (`pass`). -/
def State.hostRequest (s : State) (r : HostReq) (pass : Bool) : State :=
  if s.hostLive ∧ s.hp.reqs.length + s.hp.resps.length < 16 then
    let s1 := { s with hp := { s.hp with reqs := s.hp.reqs ++ [r] } }
    if pass then s1.hostPassAll else s1
  else s

/-- R53: the oldest response is transferred; where none is ready, the requests that wait pass first. -/
def State.hostResponse (s : State) : State :=
  if s.hostLive then
    let s1 := if s.hp.resps = [] then s.hostPassAll else s
    { s1 with hp := { s1.hp with resps := s1.hp.resps.tail } }
  else s

/-- R53: HT_RST_N (`target`) or HI_RST_N takes the level `v`. A low HT_RST_N drops the requests that have not passed and
discards the responses. -/
def State.adapterReset (s : State) (target v : Bool) : State :=
  if target then
    { s with hp := if v then { s.hp with rstN := true } else { s.hp with rstN := false, reqs := [], resps := [] } }
  else s.initiatorReset v

/-! The last gasp (R530). -/

/-- R530: the next write of a firing. -/
def State.gaspWrite (s : State) : State :=
  match s.power.gasp.left with
  | [] => s
  | k :: _ =>
    let g := s.power.gasp
    let a := (g.addr.at k).toNat
    let q : Req := { who := .gasp, sec := bit g.cfg 6 }
    let (c, s1) := if 0x1000000 ≤ a then (some Cause.disabled, s) else s.busWrite q a 4 (g.data.at k).toNat
    s1.modPw fun p => { p with gasp := p.gasp.wrote k c }

end Sys2Proof.Machine
end

