-- ==== Sys2Proof/Machine/IsaData.lean ====
section
/-! DEFINITION. Loads, stores and atomics (R282 to R287, R310, R311, R317; the deterministic class under R126). -/

namespace Sys2Proof.Machine

/-- The data path of sequencer `n` (R285). -/
def State.seqReq (s : State) (n : Fin 16) : Req := { who := .sq n, sec := (s.seqs.at n).sec }

/-- R126: a load of `k` bytes at `ea` in a deterministic channel that DET_LOAD refuses: register space but for the four
identity registers. -/
def detLoad (ea k : Nat) : Bool := decide (ea < 0x1000000 ∧ 0x10 < ea + k)

/-- R126: a store of `k` bytes at `ea` with data `v` that DET_TIME refuses in a deterministic channel: it reaches BT_CTRL,
or TDn_CMD otherwise than as a word with WHEN at 1. -/
def detStore (ea k v : Nat) : Bool :=
  (List.range 3).any fun i =>
    let a := ea / 4 * 4 + 4 * i
    decide (a < ea + k) &&
      (decide (a = 0xA0010) ||
        (decide (0xA0140 ≤ a ∧ a < 0xA0300 ∧ (a - 0xA0100) % 0x40 = 0x24) &&
          !(decide (k = 4 ∧ a = ea) && decide (v / 16 % 2 = 1))))

/-- R286: the parts of an access of `k` bytes at `ea`: one inside an aligned block of 8 bytes, else two. -/
def splitParts (ea k : Nat) : List (Nat × Nat) :=
  if ea % 8 + k ≤ 8 then [(ea, k)] else [(ea, 8 - ea % 8), (ea + (8 - ea % 8), k - (8 - ea % 8))]

/-- R284, R286: the cause that refuses a part of a load or store, before either is made. -/
def State.accessCause (s : State) (q : Req) (wr : Bool) (ea k v : Nat) (unaligned : Bool) : Option (Nat × Cause) :=
  if unaligned && !memWindow ea && decide (ea % 4 ≠ 0) then
    some (ea, if regRegion ea || memWindow ea then .width else .unmapped)
  else
    (splitParts ea k).findSome? fun p =>
      (s.refusal q wr p.1 p.2 (v / 256 ^ (p.1 - ea) % 256 ^ p.2)).map fun c => (p.1, c)

/-- What a data access of a sequencer comes to: data, or a trap. -/
inductive DataRes where
  | ok (s : State) (v : Nat)
  | trap (s : State) (t : Trap)

/-- The reads of the parts in ascending order. -/
def State.loadParts (s : State) (q : Req) (ea : Nat) : List (Nat × Nat) → Nat → DataRes
  | [], acc => .ok s acc
  | p :: r, acc =>
    match s.busRead q p.1 p.2 with
    | (.ok v, s1) => s1.loadParts q ea r (acc + v * 256 ^ (p.1 - ea))
    | (.error c, s1) =>
      .trap s1 (if c = .ecc then { code := 11, detail := 0, tval := BitVec.ofNat 32 ea }
                else { code := 10, detail := c.code, tval := BitVec.ofNat 32 ea })

/-- R282 to R286: a load of `k` bytes at `ea`, which must be a multiple of `al`. -/
def State.load (s : State) (n : Fin 16) (ea : W32) (k al : Nat) : DataRes :=
  let a := ea.toNat
  let q := s.seqReq n
  if (s.seqs.at n).det ∧ detLoad a k then .trap s { code := 7, detail := 0, tval := ea }
  else if a % al ≠ 0 then .trap s { code := 9, detail := 0, tval := ea }
  else match s.accessCause q false a k 0 (decide (k = 4 ∧ al = 1)) with
    | some (x, c) => .trap (s.refused false x c) { code := 10, detail := c.code, tval := ea }
    | none => s.loadParts q a (splitParts a k) 0

/-- The writes of the parts in ascending order. -/
def State.storeParts (s : State) (q : Req) (ea v : Nat) (l : List (Nat × Nat)) : State :=
  l.foldl (init := s) fun s p => (s.busWrite q p.1 p.2 (v / 256 ^ (p.1 - ea) % 256 ^ p.2)).2

/-- R282 to R286: a store of the `k` low bytes of `v` at `ea`; `w` is the instruction word. -/
def State.store (s : State) (n : Fin 16) (ea : W32) (k al v : Nat) (w : W32) : DataRes :=
  let a := ea.toNat
  let q := s.seqReq n
  if (s.seqs.at n).det ∧ detStore a k v then .trap s { code := 6, detail := 0, tval := w }
  else if a % al ≠ 0 then .trap s { code := 9, detail := 0, tval := ea }
  else match s.accessCause q true a k v (decide (k = 4 ∧ al = 1)) with
    | some (x, c) => .trap (s.refused true x c) { code := 10, detail := c.code, tval := ea }
    | none => .ok (s.storeParts q a v (splitParts a k)) 0

/-- A data access that makes its instruction trap, or goes on with its data. -/
def DataRes.andThen (x : DataRes) (f : State → Nat → Res) : Res :=
  match x with
  | .ok s v => f s v
  | .trap s t => .trap s 2 t

/-- The effective address of a load or store (R282). -/
def Seq.ea (q : Seq) (w : W32) : W32 := q.reg (rsF w) + immS w

/-- A load of `k` bytes whose value `f` makes the word of rd. -/
def State.doLoad (s : State) (n : Fin 16) (w : W32) (k : Nat) (f : Nat → W32) : Res :=
  (s.load n ((s.seqs.at n).ea w) k k).andThen fun s1 v => s1.putRd n w (f v) 3

def State.doLdwu (s : State) (n : Fin 16) (w : W32) : Res :=
  let ea := (s.seqs.at n).ea w
  (s.load n ea 4 1).andThen fun s1 v => s1.putRd n w (BitVec.ofNat 32 v) (if ea.toNat % 8 ≤ 4 then 3 else 6)

def State.doLdp (s : State) (n : Fin 16) (w : W32) : Res :=
  (s.load n ((s.seqs.at n).ea w) 8 8).andThen fun s1 v =>
    .done (s1.modSeq n fun q => q.setPair (rdF w) (BitVec.ofNat 64 v)) 3 none

/-- What an instruction that has made a store leaves: its microwords. -/
def DataRes.stored (x : DataRes) (k : Nat) : Res := x.andThen fun s1 _ => .done s1 k none

/-- A store of the `k` low bytes of rd. -/
def State.doStore (s : State) (n : Fin 16) (w : W32) (k : Nat) : Res :=
  let q := s.seqs.at n
  (s.store n (q.ea w) k k ((q.reg (rdF w)).toNat % 256 ^ k) w).stored 2

def State.doStwu (s : State) (n : Fin 16) (w : W32) : Res :=
  let q := s.seqs.at n
  (s.store n (q.ea w) 4 1 (q.reg (rdF w)).toNat w).stored (if (q.ea w).toNat % 8 ≤ 4 then 2 else 5)

def State.doStp (s : State) (n : Fin 16) (w : W32) : Res :=
  let q := s.seqs.at n
  (s.store n (q.ea w) 8 8 (q.pair (rdF w)).toNat w).stored 2

/-! Atomics (R310, R311). -/

/-- The address lies where LL and SC may work. -/
def atomWindow (a : Nat) : Bool := memWindow a && decide (memOf a ≠ some 3)

/-- R310: the refusal of an access of LL or SC: a region that is not theirs is refused with DISABLED, and an earlier
cause of R57 goes first. -/
def State.atomCause (s : State) (q : Req) (wr : Bool) (a v : Nat) : Option Cause :=
  match s.refusal q wr a 4 v with
  | some .guard => some (if atomWindow a then .guard else .disabled)
  | some c => some c
  | none => if atomWindow a then none else some .disabled

/-- The checks of LL and SC at `ea`. -/
def State.atomTrap (s : State) (n : Fin 16) (ea : W32) (wr : Bool) (v : Nat) : Option (State × Trap) :=
  if ea.toNat % 4 ≠ 0 then some (s, { code := 9, detail := 0, tval := ea })
  else (s.atomCause (s.seqReq n) wr ea.toNat v).map fun c =>
    (s.refused wr ea.toNat c, { code := 10, detail := c.code, tval := ea })

/-- LL: the word and the reservation. -/
def State.linked (s : State) (n : Fin 16) (ea : W32) : DataRes :=
  match s.atomTrap n ea false 0 with
  | some (s1, t) => .trap s1 t
  | none =>
    match s.memLoad n.val ea.toNat 4 with
    | (some v, s1) => .ok (s1.modSeq n fun q => { q with resv := some (ea.toNat / 8) }) v
    | (none, s1) => .trap s1 { code := 11, detail := 0, tval := ea }

/-- SC: 1 where it stored. Without its reservation it makes no store, so that R310's own checks alone apply. -/
def State.conditional (s : State) (n : Fin 16) (ea v : W32) : DataRes :=
  let hit := decide ((s.seqs.at n).resv = some (ea.toNat / 8))
  let idle := !hit && decide (ea.toNat % 4 = 0) && atomWindow ea.toNat
  match if idle then none else s.atomTrap n ea true v.toNat with
  | some (s1, t) => .trap s1 t
  | none =>
    let s1 := if hit then s.memWrite n.val ea.toNat 4 v.toNat else s
    .ok (s1.modSeq n fun q => { q with resv := none }) (b2n hit)

def State.doLl (s : State) (n : Fin 16) (w : W32) : Res :=
  (s.linked n ((s.seqs.at n).reg (rsF w))).andThen fun s1 v => s1.putRd n w (BitVec.ofNat 32 v) 4

def State.doSc (s : State) (n : Fin 16) (w : W32) : Res :=
  let q := s.seqs.at n
  (s.conditional n (q.reg (rsF w)) (q.reg (rtF w))).andThen fun s1 v =>
    s1.putRd n w (BitVec.ofNat 32 v) (if v = 1 then 5 else 3)

def State.doClrex (s : State) (n : Fin 16) : Res := .done (s.modSeq n fun q => { q with resv := none }) 1 none

end Sys2Proof.Machine
end

