-- ==== Sys2Proof/Machine/IsaUnits.lean ====
section
/-! DEFINITION. Time, stamped enqueue, dequeue, events, context and servo float (spec/11_macro_instructions_time_io.md,
R298 to R317). -/

namespace Sys2Proof.Machine

/-! Time (R298 to R300). -/

/-- The floor of domain time that NOW reads (R298). -/
def State.domNow (s : State) (d : Fin 8) : W64 := (s.beryl.doms.at d).nsAt s.beryl.g

def State.doNow (s : State) (n : Fin 16) (w : W32) : Res :=
  if (s.seqs.at n).det then s.trapped 6 0 w
  else .done (s.modSeq n fun q => q.setPair (rdF w) (s.domNow (Fin.ofNat 8 (saF w)))) 5 none

def State.doConv (s : State) (n : Fin 16) (w : W32) : Res :=
  let q := s.seqs.at n
  let c := q.reg (rtF w)
  let (r, stale) := s.beryl.convert (Fin.ofNat 8 (fldN c 0 3)) (Fin.ofNat 8 (fldN c 4 3)) (fix16 (q.pair (rsF w)) (fld c 16 16))
  if q.det && stale then s.trapped 6 0 w
  else
    let back := ((r.extractLsb' 0 16).setWidth 32 <<< 16) ||| (c &&& 0x77) ||| putB 3 stale
    .done (s.modSeq n fun q => (q.setPair (rdF w) (r.extractLsb' 16 64)).setReg (rtF w) back) 14 none

/-- R300: the NS field in the two layouts. -/
def stampNs (action : Bool) (lo hi : W32) : BitVec 40 :=
  if action then fld hi 0 8 ++ lo else fld hi 0 10 ++ fld lo 2 30

def State.doExp (s : State) (n : Fin 16) (w : W32) : Res :=
  let q := s.seqs.at n
  let ns := stampNs (decide (saF w = 1)) (q.reg (rtF w)) (q.reg (rtF w + 1))
  .done (s.modSeq n fun q => q.setPair (rdF w) (expand40 (q.pair (rsF w)) ns)) 5 none

/-! Stamped enqueue (R301 to R303). -/

/-- What an attempt on a unit comes to. -/
inductive Try where
  | ok (s : State)
  | trap (t : Trap)
  | wait
  | stall (d : Fin 8) (ns : BitVec 40)

/-- The operation that an action word names (R139, R302). -/
def actOfWord (x : W32) : Option ActOp :=
  if x &&& 0xFFFF008E ≠ 0 then none
  else match fldN x 4 3 with
    | 0 => some .drive
    | 1 => some .float
    | 2 => some .toggle
    | 3 => some .rest
    | 4 => some .sample
    | 5 => some .mark
    | _ => none

/-- R100: the time lies outside the horizon of domain `d`. -/
def State.offHorizon (s : State) (d : Fin 8) (t : W64) : Bool := !(s.beryl.doms.at d).inHorizon t s.beryl.g

/-- R303: the delivery of action word `x`, whose operation is `op`, with the stamp of domain `d` and `ns`. -/
def State.laneDeliver (s : State) (x : W32) (op : ActOp) (d : Fin 8) (ns : BitVec 40) : Try :=
  match s.enqLane (Fin.ofNat 256 (fldN x 8 8)) op (bit x 0) d ns with
  | (s1, .ok) => .ok s1
  | (_, .stall) => .stall d ns
  | (_, .refused) => .trap { code := 10, detail := 9, tval := x }

/-- ENQL (R303): action word `x` at time `t` of domain `d`; `ir` is the instruction word. -/
def State.laneAction (s : State) (n : Fin 16) (x : W32) (t : W64) (d : Fin 8) (ir : W32) : Try :=
  let l : Fin 256 := Fin.ofNat 256 (fldN x 8 8)
  match actOfWord x with
  | none => .trap { code := 3, detail := 1, tval := ir }
  | some op =>
    if laneHalf l ≠ seqHalf n then .trap { code := 12, detail := 0, tval := ir }
    else if s.offHorizon d t then .trap { code := 13, detail := 0, tval := lo32 t }
    else s.laneDeliver x op d (t.setWidth 40)

/-- ENQE and PUSHE (R303): push word `x` with its data, and the time and domain of its stamp where it has one. -/
def State.pushEntry (s : State) (n : Fin 16) (x : W32) (data : W64) (st : Option (W64 × Fin 8)) (ir : W32) : Try :=
  let e : Fin 64 := Fin.ofNat 64 (fldN x 8 8)
  let k : Fin 8 := Fin.ofNat 8 (fldN x 0 3)
  if x &&& 0x00FFC0F8 ≠ 0 then .trap { code := 3, detail := 1, tval := ir }
  else if engHalf e ≠ seqHalf n then .trap { code := 12, detail := 0, tval := ir }
  else
    let far := match st with | some (t, d) => s.offHorizon d t | none => false
    if far then .trap { code := 13, detail := 0, tval := lo32 ((st.map Prod.fst).getD 0) }
    else if s.sfAttached e false k.val then .trap { code := 10, detail := 9, tval := x }
    else if ((s.engines.at e).ifs.at k).length ≥ 4 then .wait
    else
      let entry : InEntry :=
        { data := data, tag := tagOf (fldN x 30 2), nbits := Fin.ofNat 64 (fldN x 24 6),
          stamp := st.map fun p => BitVec.ofNat 3 p.2.val ++ p.1.setWidth 40 }
      .ok (s.modEng e fun g => { g with ifs := g.ifs.mod k (· ++ [entry]) })

/-- An attempt as the end of the macro instruction `ir` of `k` microwords; `x` is the action word of an ENQL. -/
def Try.res (y : Try) (s : State) (k : Nat) (ir x : W32) : Res :=
  match y with
  | .ok s1 => .done s1 k none
  | .trap t => .trap s 2 t
  | .wait => .block s k
  | .stall d ns => .stall s { ir := ir, act := x, dom := d, ns := ns, micro := none, fed := false }

def State.doEnql (s : State) (n : Fin 16) (w : W32) : Res :=
  let q := s.seqs.at n
  (s.laneAction n (q.reg (rtF w)) (q.pair (rsF w)) (Fin.ofNat 8 (saF w)) w).res s 5 w (q.reg (rtF w))

def State.doEnqe (s : State) (n : Fin 16) (w : W32) : Res :=
  let q := s.seqs.at n
  (s.pushEntry n (q.reg (rtF w)) (q.pair (rdF w)) (some (q.pair (rsF w), Fin.ofNat 8 (saF w))) w).res s 6 w 0

def State.doPushe (s : State) (n : Fin 16) (w : W32) : Res :=
  let q := s.seqs.at n
  (s.pushEntry n (q.reg (rtF w)) (q.pair (rdF w)) none w).res s 5 w 0

/-! Dequeue and bounded receive (R305 to R307). -/

/-- The ways of taking an entry (R306). -/
inductive RecvMode where
  | deq | trydeq | brecv
  deriving DecidableEq, Repr

/-- R305, R307 stage 1: the path of a selector; none where it is refused. `bounded` asks for a watermark. -/
def State.pathOf (s : State) (cx : Fin 256) (x : W32) (bounded : Bool) : Option Path :=
  let unit := fldN x 8 8
  let sub := fldN x 0 3
  let mb (st : Bool) : Option Path :=
    match idx? 4 sub with
    | some m => if unit = 0 ∧ ((s.chans.at cx).stmp m == st) then some (.mbox m st) else none
    | none => none
  if x &&& 0x0FFF00F8 ≠ 0 then none
  else match fldN x 28 4 with
    | 1 => (idx? 64 unit).map fun e => .fifo e (Fin.ofNat 8 sub)
    | 2 => if sub = 0 ∧ !bounded then (idx? 128 unit).map .cpl else none
    | 3 => if bounded then none else mb false
    | 4 => mb true
    | 5 => if sub = 0 then (idx? 16 unit).map .cell else none
    | 6 => if sub = 0 then (idx? 2 unit).map .node else none
    | _ => none

/-- R307 stages 2 and 3. -/
def State.pathTrap (s : State) (n : Fin 16) (p : Path) (sel ir : W32) : Option Trap :=
  let half : Option Trap := some { code := 12, detail := 0, tval := ir }
  match p with
  | .fifo e k =>
    if engHalf e ≠ seqHalf n then half
    else if s.sfAttached e true k.val then some { code := 10, detail := 9, tval := sel } else none
  | .cpl c => if sfHalf c ≠ seqHalf n then half else none
  | .node x => if x ≠ seqHalf n then half else none
  | _ => none

/-- R307: the stamp lies below the bound. -/
def below (t : W64) (ns : BitVec 40) : Bool := !notBefore (expand40 t ns) t

/-- The stamp lies below the bound, where there is one. -/
def within? (t : Option W64) (ns : BitVec 40) : Bool := match t with | some b => below b ns | none => true

/-- The entry of least time among those that satisfy `p`, the first accepted on equal times, and the rest (R123). -/
def earliest (p : MbEntry → Bool) : List MbEntry → Option (MbEntry × List MbEntry)
  | [] => none
  | x :: r =>
    match earliest p r with
    | none => if p x then some (x, r) else none
    | some (y, l) => if p x && notBefore y.time x.time then some (x, r) else some (y, x :: l)

/-- An output FIFO entry as its quad (R305). -/
def OutEntry.quad (x : OutEntry) : Quad :=
  { w0 := lo32 x.data, w1 := hi32 x.data, w2 := x.es.extractLsb' 0 32,
    w3 := put 30 x.tag.num ||| put 24 x.nbits.val ||| (x.es.extractLsb' 32 10).setWidth 32 }

/-- The NS of a quad's capture stamp. -/
def Quad.ns (x : Quad) : BitVec 40 := stampNs false x.w2 x.w3

/-- The quad of a mailbox entry of channel `cx` (R305). -/
def State.mbQuad (s : State) (cx : Fin 256) (m : Fin 4) (st : Bool) (x : MbEntry) : Quad :=
  { w0 := lo32 x.data, w1 := hi32 x.data, w2 := if st then lo32 x.time else 0,
    w3 := if st then put 8 ((s.chans.at cx).mdom m).val ||| (x.time.extractLsb' 32 8).setWidth 32 else 0 }

/-- The quad of a completion record (R305). -/
def recordQuad (x : W32) : Quad := { w0 := x, w1 := 0, w2 := 0, w3 := 0 }

/-- A list without its first member that satisfies `p`. -/
def without {α : Type} (p : α → Bool) (l : List α) : List α := l.eraseP p

/-- The path without its first entry whose quad is `x`. -/
def State.dropEntry (s : State) (cx : Fin 256) (p : Path) (x : Quad) : State :=
  match p with
  | .fifo e k => s.modEng e fun g => { g with ofs := g.ofs.mod k (without fun y : OutEntry => decide (y.quad = x)) }
  | .cpl c => s.modSf c fun f => { f with cpl := without (fun y => decide (recordQuad y = x)) f.cpl }
  | .mbox m st => s.modMb cx m fun b => { b with q := without (fun y => decide (s.mbQuad cx m st y = x)) b.q }
  | .cell k => s.modAb k fun c => { c with rxq := without (fun y => decide (y = x)) c.rxq, qbad := c.qbad.erase x }
  | .node k => s.modGd k fun g => { g with rxq := without (fun y => decide (y = x)) g.rxq }

/-- R445: the entry that is taken from the queue of cell `k` holds an uncorrectable error: its words are free values (log 11). -/
def State.abQueueEcc (s : State) (k : Fin 16) : Quad × State :=
  let w (i : Nat) : W32 := BitVec.ofNat 32 (freeNat (s.free + 32 * i) 32)
  ({ w0 := w 0, w1 := w 1, w2 := w 2, w3 := w 3 }, ({ s with free := s.free + 128 } : State).breachOf (s.abOwner k) .ecc)

/-- The next entry of the path that lies below the bound, and the state without it (R123, R307). -/
def State.takeFrom (s : State) (cx : Fin 256) (p : Path) (t : Option W64) : Option (Quad × State) :=
  match p with
  | .fifo e k =>
    match (s.engines.at e).ofs.at k with
    | x :: r => if within? t x.quad.ns then some (x.quad, s.modEng e fun g => { g with ofs := g.ofs.upd k r }) else none
    | [] => none
  | .cpl c =>
    match (s.streams.at c).cpl with
    | x :: r => some (recordQuad x, s.modSf c fun f => { f with cpl := r })
    | [] => none
  | .mbox m st =>
    let ch := s.chans.at cx
    let d := s.beryl.doms.at (ch.mdom m)
    let there (x : MbEntry) : Bool :=
      !st || ((x.vis || d.dueAt (x.time.setWidth 40) s.beryl.g) && within? t (x.time.setWidth 40))
    let pick := if st then earliest there (ch.mbs.at m).q
                else match (ch.mbs.at m).q with | x :: r => some (x, r) | [] => none
    match pick with
    | some (x, r) =>
      some (s.mbQuad cx m st x, s.modMb cx m fun b => { b with q := r })
    | none => none
  | .cell k =>
    match (s.abs_.at k).rxq with
    | x :: r =>
      if within? t x.ns then
        let s1 := s.modAb k fun c => { c with rxq := r, qbad := c.qbad.erase x }
        some (if (s.abs_.at k).qbad.contains x then s1.abQueueEcc k else (x, s1))
      else none
    | [] => none
  | .node k =>
    match (s.gds.at k).rxq with
    | x :: r => if within? t x.ns then some (x, s.modGd k fun g => { g with rxq := r }) else none
    | [] => none

/-- R122: the watermark of the path.
DESIGN CHOICE (log 9): that of a stamped mailbox is the present time of its domain (R130) even where a STEP, a SET or a load
has moved that time back, where R122 says that no watermark decreases. -/
def State.pathMark (s : State) (cx : Fin 256) (p : Path) : W64 :=
  match p with
  | .fifo e _ => s.outMark e
  | .mbox m _ => s.domNow ((s.chans.at cx).mdom m)
  | .cell k => s.abMark k
  | .node x => s.gdMark x
  | .cpl _ => 0

/-- What a dequeue comes to. `nothing` is an empty path of TRYDEQ, or NONE of BRECV. -/
inductive Recv where
  | got (x : Quad) (s : State)
  | nothing
  | wait
  | trap (t : Trap)

/-- R306, R307: a dequeue by sequencer `n` with selector `sel`, bound `t` and instruction word `ir`. -/
def State.receive (s : State) (n : Fin 16) (m : RecvMode) (sel : W32) (t : W64) (ir : W32) : Recv :=
  let q := s.seqs.at n
  match s.pathOf q.cx sel (decide (m = .brecv)) with
  | none => .trap { code := 3, detail := 1, tval := ir }
  | some p =>
    if m = .trydeq ∧ q.det then .trap { code := 8, detail := 0, tval := ir }
    else match s.pathTrap n p sel ir with
      | some x => .trap x
      | none =>
        match s.takeFrom q.cx p (if m = .brecv then some t else none) with
        | some (x, s1) => .got x s1
        | none =>
          match m with
          | .deq => .wait
          | .trydeq => .nothing
          | .brecv => if notBefore (s.pathMark q.cx p) t then .nothing else .wait

/-- The flag Z of st. -/
def Seq.setZ (q : Seq) (z : Bool) : Seq := { q with stw := mrg 4 q.stw (putB 2 z) }

/-- A dequeue as the end of a macro instruction of `k` microwords; `z` says that it writes Z. -/
def Recv.res (x : Recv) (s : State) (n : Fin 16) (w : W32) (k : Nat) (z : Bool) : Res :=
  match x with
  | .got y s1 =>
    .done (s1.modSeq n fun q =>
      let q1 := q.setQuad (rdF w) y.w0 y.w1 y.w2 y.w3
      if z then q1.setZ false else q1) k none
  | .nothing => .done (s.modSeq n fun q => (q.setQuad (rdF w) 0 0 0 0).setZ true) k none
  | .wait => .block s k
  | .trap t => .trap s 2 t

def State.doDeq (s : State) (n : Fin 16) (w : W32) : Res :=
  (s.receive n .deq ((s.seqs.at n).reg (rsF w)) 0 w).res s n w 6 false
def State.doTrydeq (s : State) (n : Fin 16) (w : W32) : Res :=
  (s.receive n .trydeq ((s.seqs.at n).reg (rsF w)) 0 w).res s n w 6 true
def State.doBrecv (s : State) (n : Fin 16) (w : W32) : Res :=
  let q := s.seqs.at n
  (s.receive n .brecv (q.reg (rsF w)) (q.pair (rtF w)) w).res s n w 8 true

/-! Events (R308, R309). -/

/-- The refusal of a firing by sequencer `n` (R500). -/
def State.fireCause (s : State) (n : Fin 16) (c : Fin 256) : Option Cause :=
  let q := s.seqs.at n
  (s.sn.fireRefused c q.cx q.sec).map fun sec => if sec then .secure else .disabled

/-- FIRE of the channel that `x` names. -/
def State.fireFrom (s : State) (n : Fin 16) (x : W32) : Try :=
  let c : Fin 256 := Fin.ofNat 256 (fldN x 0 8)
  match s.fireCause n c with
  | some k => .trap { code := 10, detail := k.code, tval := x &&& 0xFF }
  | none => .ok (s.fire c.val)

def State.doFire (s : State) (n : Fin 16) (w : W32) : Res := (s.fireFrom n ((s.seqs.at n).reg (rsF w))).res s 3 w 0

/-- Without what customer microcode has taken (R338). -/
def State.retake (s : State) (cx : Fin 256) (x : Taken) : State :=
  match x with
  | .entry p y => s.dropEntry cx p y
  | .event i => (s.takeCount (4 * cx.val + i)).2

/-- The lowest event input of channel `c` in `mask` that has a count, and the state without that count. -/
def State.takeEvent (s : State) (c : Fin 256) (mask : W32) : Option (Nat × State) :=
  (List.range 4).findSome? fun i =>
    if bit mask i then
      match s.takeCount (4 * c.val + i) with
      | (some _, s1) => some (i, s1)
      | (none, _) => none
    else none

/-- R309: the mask is refused. -/
def badMask (x : W32) : Bool := decide (x = 0 ∨ x &&& 0xFFFFFFF0 ≠ 0)

/-- The index that WAITE and TRYE write: 0 in a deterministic channel. -/
def Seq.evIndex (q : Seq) (i : Nat) : W32 := if q.det then 0 else BitVec.ofNat 32 i

def State.doWaite (s : State) (n : Fin 16) (w : W32) : Res :=
  let q := s.seqs.at n
  let x := q.reg (rsF w)
  if badMask x then s.badValue w
  else match s.takeEvent q.cx x with
    | some (i, s1) => s1.putRd n w (q.evIndex i) 4
    | none => .block s 4

def State.doTrye (s : State) (n : Fin 16) (w : W32) : Res :=
  let q := s.seqs.at n
  let x := q.reg (rsF w)
  if badMask x then s.badValue w
  else if q.det then s.trapped 8 0 w
  else match s.takeEvent q.cx x with
    | some (i, s1) => .done (s1.modSeq n fun q => (q.setReg (rdF w) (q.evIndex i)).setZ false) 4 none
    | none => .done (s.modSeq n fun q => (q.setReg (rdF w) 0).setZ true) 4 none

/-! Context (R312). -/

def State.doRdc (s : State) (n : Fin 16) (w : W32) : Res :=
  let q := s.seqs.at n
  match saF w with
  | 0 => s.putRd n w q.tvec 2
  | 1 => s.putRd n w q.tcause 2
  | 2 => s.putRd n w q.tval 2
  | _ =>
    match s.anchor n q.cx with
    | (some a, s1) => s1.putRd n w (BitVec.ofNat 32 a.spcnt) 2
    | (none, s1) => .ecc s1

def State.doWrc (s : State) (n : Fin 16) (w : W32) : Res :=
  let x := (s.seqs.at n).reg (rsF w)
  if fldN x 0 2 ≠ 0 then s.badValue w else .done (s.modSeq n fun q => { q with tvec := x }) 2 none

/-- R312: WSPILL. Nothing is changed where a node is missing. -/
def State.doWspill (s : State) (n : Fin 16) : Res :=
  let q := s.seqs.at n
  let k := wvCount q.wv - 1
  match s.anchor n q.cx with
  | (none, s1) => .ecc s1
  | (some a, s1) =>
    if 250 < a.spcnt + k then s1.trapped 15 0 (BitVec.ofNat 32 a.spcnt)
    else match s1.spillAll n k with
      | .done s2 => .done s2 3 none
      | .pool _ => .pool s1
      | .ecc s2 => .ecc s2
      | .trap s2 t => .trap s2 2 t

def State.doFrel (s : State) (n : Fin 16) : Res :=
  let q := s.seqs.at n
  if q.fownV ∧ q.fownCh = q.cx then
    (if q.fownD then s.floatSave n else .done s).andThen fun s1 =>
      .done (s1.modSeq n fun q => { q with fownV := false, fownD := false }) 2 none
  else .done s 2 none

/-! Servo float (R313 to R317). -/

def Seq.rm (q : Seq) : Nat := fldN q.fctl 5 2

/-- The fields of FC (R313). -/
def fcMask : W32 := 0x1F7F

/-- R314: the first exception of `x` whose trap is enabled, as a DETAIL. -/
def fxTrap (fc : W32) (x : Fx) : Option Nat :=
  let e := fld fc 8 5 &&& x.word
  (List.range 5).findSome? fun i => if bit e (4 - i) then some (8 + i) else none

/-- The bank with the flags of `x` set; D where FC changes (R314, R315). -/
def Seq.raise (q : Seq) (x : Fx) : Seq :=
  let fc := q.fctl ||| x.word.setWidth 32
  { q with fctl := fc, fownD := q.fownD || decide (fc ≠ q.fctl) }

/-- A write of a q register. -/
def Seq.setFq (q : Seq) (r : Nat) (v : W64) : Seq := { q with q := q.q.upd (Fin.ofNat 16 r) v, fownD := true }

/-- R315: the float microtrap, and then `f` on the sequencer that owns the bank. -/
def State.floatOp (s : State) (n : Fin 16) (f : State → Seq → Res) : Res :=
  (s.floatOwn n).andThen fun s1 => f s1 (s1.seqs.at n)

/-- A float instruction that raises `x` and then does `f`. -/
def State.floatDo (s : State) (n : Fin 16) (w : W32) (k : Nat) (x : Fx) (f : Seq → Seq) : Res :=
  match fxTrap (s.seqs.at n).fctl x with
  | some d => s.trapped 16 d w
  | none => .done (s.modSeq n fun q => f (q.raise x)) k none

/-- An operation that writes qd. -/
def State.fop (s : State) (n : Fin 16) (w : W32) (k : Nat) (f : Seq → W64 × Fx) : Res :=
  s.floatOp n fun s1 q =>
    let (r, x) := f q
    s1.floatDo n w k x fun q => q.setFq (rdF w) r

def Seq.qs (q : Seq) (w : W32) : W64 := q.fq (rsF w)
def Seq.qt (q : Seq) (w : W32) : W64 := q.fq (rtF w)

def State.doFadd (s : State) (n : Fin 16) (w : W32) : Res := s.fop n w 6 fun q => fAdd q.rm (q.qs w) (q.qt w)
def State.doFsub (s : State) (n : Fin 16) (w : W32) : Res := s.fop n w 6 fun q => fSub q.rm (q.qs w) (q.qt w)
def State.doFmul (s : State) (n : Fin 16) (w : W32) : Res := s.fop n w 7 fun q => fMul q.rm (q.qs w) (q.qt w)
def State.doFdiv (s : State) (n : Fin 16) (w : W32) : Res := s.fop n w 30 fun q => fDiv q.rm (q.qs w) (q.qt w)
def State.doFsqrt (s : State) (n : Fin 16) (w : W32) : Res := s.fop n w 32 fun q => fSqrt q.rm (q.qs w)
def State.doFma (s : State) (n : Fin 16) (w : W32) : Res :=
  s.fop n w 9 fun q => fFma q.rm (q.qs w) (q.qt w) (q.fq (rdF w))
def State.doFneg (s : State) (n : Fin 16) (w : W32) : Res := s.fop n w 3 fun q => (fNeg (q.qs w), .none)
def State.doFabs (s : State) (n : Fin 16) (w : W32) : Res := s.fop n w 3 fun q => (fAbs (q.qs w), .none)
def State.doFmin (s : State) (n : Fin 16) (w : W32) : Res := s.fop n w 4 fun q => fPick false (q.qs w) (q.qt w)
def State.doFmax (s : State) (n : Fin 16) (w : W32) : Res := s.fop n w 4 fun q => fPick true (q.qs w) (q.qt w)
def State.doFcpy (s : State) (n : Fin 16) (w : W32) : Res := s.fop n w 3 fun q => (q.qs w, .none)
def State.doFrint (s : State) (n : Fin 16) (w : W32) : Res := s.fop n w 6 fun q => fRint q.rm (q.qs w)

def State.doFcmp (s : State) (n : Fin 16) (w : W32) : Res :=
  s.floatOp n fun s1 q =>
    let ((a, b, c, d), x) := fCmp (q.qs w) (q.qt w)
    s1.floatDo n w 4 x fun q => q.setFlags { n := a, z := b, c := c, v := d }

def State.doFmvgq (s : State) (n : Fin 16) (w : W32) : Res := s.fop n w 3 fun q => (q.pair (rsF w), .none)

/-- An operation on qs whose result goes to the rd pair. -/
def State.fpair (s : State) (n : Fin 16) (w : W32) (k : Nat) (f : Seq → W64 × Fx) : Res :=
  s.floatOp n fun s1 q =>
    let (r, x) := f q
    s1.floatDo n w k x fun q => q.setPair (rdF w) r

def State.doFmvqg (s : State) (n : Fin 16) (w : W32) : Res := s.fpair n w 3 fun q => (q.qs w, .none)
def State.doFcvts (s : State) (n : Fin 16) (w : W32) : Res := s.fop n w 5 fun q => fOfInt q.rm (q.pair (rsF w)).toInt
def State.doFcvtu (s : State) (n : Fin 16) (w : W32) : Res := s.fop n w 5 fun q => fOfInt q.rm (q.pair (rsF w)).toNat
def State.doFtos (s : State) (n : Fin 16) (w : W32) : Res :=
  s.fpair n w 6 fun q => fToInt q.rm (-2 ^ 63) (2 ^ 63 - 1) (q.qs w)
def State.doFtou (s : State) (n : Fin 16) (w : W32) : Res := s.fpair n w 6 fun q => fToInt q.rm 0 (2 ^ 64 - 1) (q.qs w)

def State.doFld (s : State) (n : Fin 16) (w : W32) : Res :=
  s.floatOp n fun s1 q =>
    (s1.load n (q.reg (rsF w)) 8 8).andThen fun s2 v =>
      .done (s2.modSeq n fun q => q.setFq (rdF w) (BitVec.ofNat 64 v)) 4 none

def State.doFst (s : State) (n : Fin 16) (w : W32) : Res :=
  s.floatOp n fun s1 q => (s1.store n (q.reg (rsF w)) 8 8 (q.qt w).toNat w).stored 3

def State.doRdfc (s : State) (n : Fin 16) (w : W32) : Res := s.floatOp n fun s1 q => s1.putRd n w q.fctl 2

def State.doWrfc (s : State) (n : Fin 16) (w : W32) : Res :=
  s.floatOp n fun s1 q =>
    let v := mrg fcMask q.fctl (q.reg (rsF w))
    .done (s1.modSeq n fun q => { q with fctl := v, fownD := true }) 2 none

end Sys2Proof.Machine
end

