-- ==== Sys2Proof/Machine/Microcode.lean ====
section
/-! DEFINITION. Customer microcode (spec/12_microcode.md, R319, R320 and R324 to R340). -/

namespace Sys2Proof.Machine

/-- Fields of a microword (R324). -/
def uD (w : W32) : Nat := fldN w 16 6
def uA (w : W32) : Nat := fldN w 10 6
def uB (w : W32) : Nat := fldN w 4 6

/-- R326: an operand select that names an operand. -/
def selOk (x : Nat) : Bool := decide (x < 62)

/-- The general register that a select names, where it names one (R326). -/
def Micro.genReg (m : Micro) (x : Nat) : Option Nat :=
  if x < 32 then some x
  else match x with
    | 48 => some (rdF m.ir)
    | 49 => some (rsF m.ir)
    | 50 => some (rtF m.ir)
    | 51 => some ((rdF m.ir + 1) % 32)
    | 52 => some ((rsF m.ir + 1) % 32)
    | 53 => some ((rtF m.ir + 1) % 32)
    | _ => none

/-- The value of an operand (R326). -/
def Micro.get (m : Micro) (q : Seq) (x : Nat) : W32 :=
  match m.genReg x with
  | some r => q.reg r
  | none =>
    if 32 ≤ x ∧ x < 48 then m.u.at (Fin.ofNat 16 (x - 32))
    else match x with
      | 54 => m.ir
      | 55 => BitVec.ofNat 32 (saF m.ir)
      | 56 => m.npc
      | 57 => q.stw
      | 58 => m.cnt
      | 59 => m.mdh
      | 61 => BitVec.ofNat 32 q.cx.val
      | _ => 0

/-- A write of an operand; a write of a general register or of ST commits (R326, R338). -/
def Micro.set (m : Micro) (s : State) (n : Fin 16) (x : Nat) (v : W32) : State × Micro :=
  match m.genReg x with
  | some r => (s.modSeq n fun q => q.setReg r v, { m with cmt := true })
  | none =>
    if 32 ≤ x ∧ x < 48 then (s, { m with u := m.u.upd (Fin.ofNat 16 (x - 32)) v })
    else match x with
      | 56 => (s, { m with npc := v })
      | 57 => (s.modSeq n fun q => q.setSt v, { m with cmt := true })
      | 58 => (s, { m with cnt := v })
      | 59 => (s, { m with mdh := v })
      | _ => (s, m)

/-- What a microword comes to: executed, with the next microword in order; a branch; the end of the instruction; a fault,
with what it leaves where it is absorbed after commit (R338); a trap of UTRAP; a block; a stall; illegal. -/
inductive UOut where
  | ok (s : State) (m : Micro)
  | jump (m : Micro)
  | fin (m : Micro)
  | flt (s : State) (t : Trap) (s1 : State) (m1 : Micro)
  | utrap (t : Trap)
  | wait
  | stall (act : W32) (d : Fin 8) (ns : BitVec 40)
  | illegal

/-- The result `r` of an operation goes to D, with its flags. -/
def Micro.result (m : Micro) (s : State) (n : Fin 16) (d : Nat) (r : W32) (f : Nzcv) : UOut :=
  let (s1, m1) := ({ m with fl := f }).set s n d r
  .ok s1 m1

/-- Flags of an operation that sets C and V to 0 (R329). -/
def plainFlags (r : W32) : Nzcv := { n := bit r 31, z := decide (r = 0), c := false, v := false }

/-- REG operations (R328). -/
def regOp (u : Nat) : Option AluOp :=
  match u with
  | 0 => some .mov
  | 1 => some .add
  | 2 => some .sub
  | 3 => some .adc
  | 4 => some .sbc
  | 5 => some .and
  | 6 => some .or
  | 7 => some .xor
  | 8 => some .andn
  | 9 => some .sll
  | 10 => some .srl
  | 11 => some .sra
  | 12 => some .ror
  | 13 => some .mul
  | 14 => some .mulhu
  | 15 => some .mulhs
  | 16 => some .clz
  | 17 => some .ctz
  | 18 => some .popc
  | 19 => some .bswap
  | 20 => some .brev
  | 21 => some .mins
  | 22 => some .maxs
  | 23 => some .minu
  | 24 => some .maxu
  | 25 => some .not
  | 26 => some .slts
  | 27 => some .sltu
  | _ => none

/-- The operations whose B field must be 0 and is not read (R328). -/
def AluOp.unary : AluOp → Bool
  | .mov | .clz | .ctz | .popc | .bswap | .brev | .not => true
  | _ => false

/-- A vendor-only microword. It is illegal in customer code (R324). DESIGN CHOICE (log 8): in vendor microcode what it leaves
in the registers that the sequencer holds is a free value, since the spec states no effect. -/
def Micro.execVend (m : Micro) (s : State) (n : Fin 16) (w : W32) : UOut :=
  let q := s.seqs.at n
  if !m.vend then .illegal
  else
    let f := Config.vendorWord w m q
    .ok (s.modSeq n fun q => (List.range 32).foldl (init := q) fun q i => q.setReg i (f (32 + i)))
      { m with u := Vector.ofFn fun i => f i.val, cnt := f 16, mdh := f 17, fl := stFlags (f 18), cmt := m.cmt || bit (f 18) 4 }

/-- Format REG. -/
def Micro.execReg (m : Micro) (s : State) (n : Fin 16) (w : W32) : UOut :=
  let q := s.seqs.at n
  match regOp (fldN w 22 6) with
  | none => if 32 ≤ fldN w 22 6 then m.execVend s n w else .illegal
  | some op =>
    if fldN w 0 4 ≠ 0 ∨ !selOk (uD w) ∨ !selOk (uA w) ∨ !selOk (uB w) ∨ (op.unary ∧ uB w ≠ 0) then .illegal
    else
      let a := m.get q (uA w)
      let b := if op.unary then 0 else m.get q (uB w)
      m.result s n (uD w) (op.value a b m.fl.c) (op.microFlags m.fl a b)

/-- Format IMM (R330). -/
def Micro.execImm (m : Micro) (s : State) (n : Fin 16) (w : W32) : UOut :=
  let q := s.seqs.at n
  let d := fldN w 18 6
  let a := m.get q (fldN w 12 6)
  let sx : W32 := (fld w 0 12).signExtend 32
  let zx : W32 := (fld w 0 12).setWidth 32
  let lsb := fldN w 5 5
  let width := fldN w 0 5 + 1
  let alu (op : AluOp) (b : W32) : UOut := m.result s n d (op.value a b m.fl.c) (op.microFlags m.fl a b)
  let shift (op : AluOp) : UOut := if fldN w 5 7 ≠ 0 then .illegal else alu op zx
  let field (r : W32) : UOut :=
    if fldN w 10 2 ≠ 0 ∨ 32 < lsb + width then .illegal else m.result s n d r (plainFlags r)
  if !selOk d || !selOk (fldN w 12 6) then .illegal
  else match fldN w 24 4 with
    | 0 => alu .add sx
    | 1 => alu .and zx
    | 2 => alu .or zx
    | 3 => alu .xor zx
    | 4 => shift .sll
    | 5 => shift .srl
    | 6 => shift .sra
    | 7 => shift .ror
    | 8 => field (extU a lsb width)
    | 9 => field (extS a lsb width)
    | 10 => field (insert (m.get q d) a lsb width)
    | 11 => if d ≠ 60 then .illegal else alu .sub sx
    | _ => .illegal

/-- Format LIT (R331). -/
def Micro.execLit (m : Micro) (s : State) (n : Fin 16) (w : W32) : UOut :=
  let q := s.seqs.at n
  if fldN w 22 5 ≠ 0 ∨ !selOk (uD w) then .illegal
  else
    let v : W32 := if bit w 27 then fld w 0 16 ++ fld (m.get q (uD w)) 0 16 else (fld w 0 16).setWidth 32
    let (s1, m1) := m.set s n (uD w) v
    .ok s1 m1

/-- A load's destinations: R and, for a double, MDH (R332). -/
def Micro.loaded (m : Micro) (s : State) (n : Fin 16) (r : Nat) (dbl : Bool) (v : Nat) : State × Micro :=
  let (s1, m1) := m.set s n r (BitVec.ofNat 32 v)
  (s1, if dbl then { m1 with mdh := BitVec.ofNat 32 (v / 2 ^ 32) } else m1)

/-- R338: an access to register space commits. -/
def Micro.touch (m : Micro) (ea : W32) : Micro := { m with cmt := m.cmt || decide (ea.toNat < 0x1000000) }

/-- Format MEM (R332). -/
def Micro.execMem (m : Micro) (s : State) (n : Fin 16) (w : W32) : UOut :=
  let q := s.seqs.at n
  let size := fldN w 23 2
  let r := fldN w 17 6
  let ab := fldN w 11 6
  let ea : W32 := m.get q ab + (fld w 0 11).signExtend 32
  let k := 2 ^ size
  let data : Nat := (m.get q r).toNat + (if size = 3 then m.mdh.toNat * 2 ^ 32 else 0)
  let slow (m : Micro) : Micro := { m with cost := m.cost + (if ea.toNat % 8 ≤ 4 then 0 else 1) }
  let ld (al : Nat) (f : Micro → Micro) : UOut :=
    match s.load n ea k al with
    | .ok s1 v => let (s2, m2) := (f (m.touch ea)).loaded s1 n r (decide (size = 3)) v; .ok s2 m2
    | .trap s1 t => let (s2, m2) := m.loaded s1 n r (decide (size = 3)) 0; .flt s1 t s2 m2
  let st (al : Nat) (f : Micro → Micro) : UOut :=
    match s.store n ea k al (data % 256 ^ k) m.ir with
    | .ok s1 _ => .ok s1 { f m with cmt := true }
    | .trap s1 t => .flt s1 t s1 m
  if !selOk r || !selOk ab then .illegal
  else match fldN w 25 3 with
    | 0 => ld k id
    | 1 => st k id
    | 2 => if size ≠ 2 then .illegal else ld 1 slow
    | 3 => if size ≠ 2 then .illegal else st 1 slow
    | 4 =>
      if size ≠ 2 then .illegal
      else if q.det ∧ detLoad ea.toNat 4 then
        let (s2, m2) := m.loaded s n r false 0
        .flt s { code := 7, detail := 0, tval := ea } s2 m2
      else match s.linked n ea with
        | .ok s1 v => let (s2, m2) := m.loaded s1 n r false v; .ok s2 m2
        | .trap s1 t => let (s2, m2) := m.loaded s1 n r false 0; .flt s1 t s2 m2
    | 5 =>
      if size ≠ 2 then .illegal
      else match s.conditional n ea (m.get q r) with
        | .ok s1 v => .ok s1 { m with scok := decide (v = 1), cmt := true }
        | .trap s1 t => .flt s1 t s1 m
    | _ => .illegal

/-- The time in u10 and u11. -/
def Micro.time (m : Micro) : W64 := join (m.u.at 11) (m.u.at 10)

/-- A quad in u12 to u15. -/
def Micro.quad (m : Micro) (x : Quad) : Micro :=
  { m with u := (((m.u.upd 12 x.w0).upd 13 x.w1).upd 14 x.w2).upd 15 x.w3 }

/-- A trap of code `c` with the instruction word. -/
def Micro.trap (m : Micro) (c d : Nat) : Trap := { code := c, detail := d, tval := m.ir }

/-- Format WAIT (R337). -/
def Micro.execWait (m : Micro) (s : State) (n : Fin 16) (w : W32) : UOut :=
  let q := s.seqs.at n
  let d := fldN w 18 6
  let a := m.get q (fldN w 12 6)
  let none4 : Quad := { w0 := 0, w1 := 0, w2 := 0, w3 := 0 }
  let recv (mode : RecvMode) : UOut :=
    match s.receive n mode a m.time m.ir with
    | .got x s1 =>
      let got := match s.pathOf q.cx a (decide (mode = .brecv)) with | some p => [Taken.entry p x] | none => []
      .ok s1 { m.quad x with none_ := if mode = .deq then m.none_ else false, taken := m.taken ++ got }
    | .nothing => .ok s { m.quad none4 with none_ := true }
    | .wait => .wait
    | .trap t => .flt s t s m
  if fldN w 3 9 ≠ 0 ∨ !selOk d ∨ !selOk (fldN w 12 6) then .illegal
  else match fldN w 24 4 with
    | 1 =>
      if badMask a then .flt s (m.trap 3 1) s m
      else match s.takeEvent q.cx a with
        | some (i, s1) => let (s2, m2) := ({ m with taken := m.taken ++ [Taken.event i] } : Micro).set s1 n d (q.evIndex i); .ok s2 m2
        | none => .wait
    | 2 => recv .deq
    | 3 => recv .brecv
    | 4 => recv .trydeq
    | 5 =>
      if q.det then .flt s (m.trap 6 0) s m
      else if notBefore (s.domNow (Fin.ofNat 8 (fldN w 0 3))) m.time then .ok s m else .wait
    | _ => .illegal

/-- R334: a condition that the microcode may test: 49 to 55 are illegal everywhere, those from 56 up in customer code. -/
def Micro.condOk (m : Micro) (c : Nat) : Bool := decide (c < 49) || (m.vend && decide (56 ≤ c))

/-- R248: SPCNT of the anchor of the channel on sequencer `n`, 0 where its word holds an error that cannot be corrected. -/
def State.spillCount (s : State) (n : Fin 16) : Nat :=
  match (s.anchor n (s.seqs.at n).cx).1 with
  | some a => a.spcnt
  | none => 0

/-- R334: the condition multiplexer. The conditions from 56 up are the vendor's. -/
def Micro.cond (m : Micro) (s : State) (n : Fin 16) (c : Nat) : Bool :=
  let q := s.seqs.at n
  let f := stFlags q.stw
  if 28 ≤ c ∧ c < 32 then !(s.sn.pending (4 * q.cx.val + (c - 28))).isEmpty
  else if 32 ≤ c ∧ c < 48 then bit (m.u.at 0) (c - 32)
  else match c with
    | 0 => true
    | 1 => m.fl.z
    | 2 => m.fl.n
    | 3 => m.fl.c
    | 4 => m.fl.v
    | 5 => m.fl.n != m.fl.v
    | 6 => m.fl.z || m.fl.n != m.fl.v
    | 7 => m.fl.c && !m.fl.z
    | 8 => decide (m.cnt = 0)
    | 9 => m.xf
    | 10 => m.cmt
    | 11 => q.resv.isSome
    | 12 => m.scok
    | 13 => m.none_
    | 14 => q.det
    | 15 => q.sec
    | 16 => f.z
    | 17 => f.n
    | 18 => f.c
    | 19 => f.v
    | 20 => decide (saF m.ir = 0)
    | 21 => decide (rdF m.ir % 2 = 0)
    | 22 => decide (rsF m.ir % 2 = 0)
    | 23 => decide (rtF m.ir % 2 = 0)
    | 24 => decide (rdF m.ir % 4 = 0)
    | 25 => decide (rdF m.ir = 0)
    | 26 => decide (rsF m.ir = 0)
    | 27 => decide (rtF m.ir = 0)
    | 48 => decide (seqHalf n = 0)
    | 56 => decide (s.spillCount n = 0)
    | 57 => decide (wvCount q.wv = 7)
    | 58 => s.pool.head.isNone
    | 59 => q.fownV && decide (q.fownCh = q.cx)
    | 60 => q.fownD
    | 61 => q.swReq
    | 62 => (s.haltDue n).isSome
    | 63 => q.micro
    | _ => false

/-- The customer region (R333). -/
def customer (x : Nat) : Bool := decide (0x6040 ≤ x ∧ x < 0x8000)

/-- The region that the microcode runs in: vendor code may branch between ROM and patch RAM (R321, R333). -/
def Micro.region (m : Micro) (x : Nat) : Bool := if m.vend then decide (x < 0x6000) else customer x

/-- Format BR (R333). -/
def Micro.execBr (m : Micro) (s : State) (n : Fin 16) (w : W32) : UOut :=
  let q := s.seqs.at n
  let c := fldN w 20 6
  let tgt := fldN w 0 15
  let t := m.cond s n c != bit w 26
  let go (x : Nat) (m1 : Micro) : UOut := if m.region x then .jump { m1 with upc := x } else .illegal
  let kind := fldN w 27 2
  let far : Bool := if kind = 2 then decide (tgt ≠ 0) else if kind = 3 then false else !m.region tgt
  if fldN w 15 5 ≠ 0 ∨ !m.condOk c ∨ far then .illegal
  else if q.det ∧ 28 ≤ c ∧ c < 32 then .flt s (m.trap 8 0) s m
  else match kind with
    | 0 => go (if t then tgt else m.upc + 1) m
    | 1 =>
      if t then (if 4 ≤ m.ret.length then .illegal else go tgt { m with ret := (m.upc + 1) :: m.ret })
      else go (m.upc + 1) m
    | 2 =>
      if t then (match m.ret with | [] => .illegal | x :: r => go x { m with ret := r })
      else go (m.upc + 1) m
    | _ => if t then .fin m else go (m.upc + 1) m

/-- A unit's answer to a microword; `act` is the action word of an ENQL. -/
def Micro.tried (m : Micro) (s : State) (act : W32) (x : Try) : UOut :=
  match x with
  | .ok s1 => .ok s1 { m with cmt := true }
  | .trap t => .flt s t s m
  | .wait => .wait
  | .stall d ns => .stall act d ns

/-- Format SYS (R336). -/
def Micro.execSys (m : Micro) (s : State) (n : Fin 16) (w : W32) : UOut :=
  let q := s.seqs.at n
  let a := m.get q (uA w)
  let b := m.get q (uB w)
  let d := Fin.ofNat 8 (fldN w 0 3)
  let fields := decide (uD w = 0 ∧ uA w = 0 ∧ uB w = 0 ∧ fldN w 0 3 = 0)
  if bit w 3 || !selOk (uD w) || !selOk (uA w) || !selOk (uB w) then .illegal
  else match fldN w 22 6 with
    | 0 => m.tried s a (s.laneAction n a m.time d m.ir)
    | 1 => m.tried s a (s.pushEntry n a (join m.mdh b) (some (m.time, d)) m.ir)
    | 2 => m.tried s a (s.pushEntry n a (join m.mdh b) none m.ir)
    | 3 => m.tried s a (s.fireFrom n a)
    | 4 =>
      if q.det then .flt s (m.trap 6 0) s m
      else
        let (s1, m1) := m.loaded s n (uD w) true (s.domNow d).toNat
        .ok s1 m1
    | 5 =>
      if bit w 28 ∨ !(decide (uB w = 3 ∨ uB w = 9 ∨ uB w = 16 ∨ uB w = 17)) then .illegal
      else .utrap { code := uB w, detail := fldN a 0 8, tval := m.get q (uD w) }
    | 6 =>
      if !fields then .illegal
      else .ok (s.modSeq n fun q => q.setFlags m.fl) { m with cmt := true }
    | 7 => if !fields then .illegal else .ok (s.modSeq n fun q => { q with resv := none }) m
    | _ => .illegal

/-- A vendor-only SYS operation (R336). -/
def vendorSys (w : W32) : Bool := decide (fldN w 29 3 = 6) && decide (32 ≤ fldN w 22 6)

/-- The last word of the region can be followed by none: it is illegal unless it ends the instruction (R333). -/
def Micro.runsOff (m : Micro) (w : W32) : Bool :=
  !m.region (m.upc + 1) && !bit w 28 && decide (fldN w 29 3 ≠ 5) &&
    !(decide (fldN w 29 3 = 6) && decide (fldN w 22 6 = 5))

/-- One microword (R324). -/
def Micro.exec (m : Micro) (s : State) (n : Fin 16) (w : W32) : UOut :=
  if m.runsOff w then .illegal
  else if vendorSys w then m.execVend s n w
  else match fldN w 29 3 with
    | 0 => m.execReg s n w
    | 1 => m.execImm s n w
    | 2 => m.execLit s n w
    | 3 => m.execMem s n w
    | 4 => m.execWait s n w
    | 5 => m.execBr s n w
    | 6 => m.execSys s n w
    | _ => m.execVend s n w

/-- R338: what an instruction that is given up before commit keeps: errors met on the way. -/
def State.keepRecords (s0 s : State) : State := { s0 with mem := s.mem, cs := s.cs, power := s.power, free := s.free }

/-- R340, R344: the fault that stops the channel, recorded in CS_FAULT. -/
def State.microFault (s0 s : State) (n : Fin 16) (m : Micro) (c : FCause) : Res :=
  let s1 := if m.cmt then s else s0.keepRecords s
  .fault (s1.csFault n (s.seqs.at n).cx m.upc c) m.cost c

/-- R119, R337, R338: the sequencer is held in place by a full lane queue. What was done after commit stands; before commit the
machine stays as it was but for the reservation, and what was taken is taken again as the instruction goes on. -/
def State.microStall (s0 s : State) (n : Fin 16) (m : Micro) (k : Nat) (act : W32) (d : Fin 8) (ns : BitVec 40) : Res :=
  let s1 := if m.cmt then s else (s0.keepRecords s).modSeq n fun q => { q with resv := (s.seqs.at n).resv }
  .stall (s1.uw n m.cost)
    { ir := m.ir, act := act, dom := d, ns := ns, micro := some ({ m with cost := 0 }, k), fed := false }

/-- R325, R337 to R340: what a microword `w` with the outcome `x` comes to; `s` and `m` are what it began with, `k` more
microwords may follow it, and `go` runs them. -/
def State.microEnd (s0 s : State) (n : Fin 16) (m : Micro) (k : Nat) (w : W32) (go : State → Micro → Res) (x : UOut) : Res :=
  let on (s2 : State) (m2 : Micro) : Res :=
    if bit w 28 then .done s2 m2.cost (some m2.npc) else go s2 { m2 with upc := m2.upc + 1 }
  match x with
  | .ok s2 m2 => on s2 m2
  | .jump m2 => go s m2
  | .fin m2 => .done s m2.cost (some m2.npc)
  | .illegal => s0.microFault s n { m with cost := m.cost - 1 } .uIllegal
  | .stall act d ns => s0.microStall s n m k act d ns
  | .wait => if m.cmt then s0.microFault s n m .uCommit else .block (s0.keepRecords s) m.cost
  | .utrap t => if m.cmt then s0.microFault s n m .uCommit else .trap (s0.keepRecords s) m.cost t
  | .flt s2 t s3 m3 =>
    if m.cmt then
      (if t.code = 6 ∨ t.code = 7 ∨ t.code = 8 then s0.microFault s n m .uCommit
       else on (s3.eccTrap n t) { m3 with xf := true })
    else .trap (s0.keepRecords s2) m.cost t

/-- R340: the limit of customer microcode is met. Vendor microcode has none: it goes on as the next command. -/
def State.microOver (s0 s : State) (n : Fin 16) (m : Micro) : Res :=
  if m.vend then
    .stall (s.uw n m.cost)
      { ir := m.ir, act := 0, dom := 0, ns := 0, micro := some ({ m with cost := 0 }, vendorBound), fed := false, more := true }
  else s0.microFault s n m .uLimit

/-- R341: the microcode at the microaddress that its fetch is made from. -/
def Micro.fetchFrom (m : Micro) (c : CsCopy) : Micro := { m with upc := c.patch m.upc }

/-- R325, R337 to R341: microcode runs on; `k` more microwords may be executed. -/
def State.microRun (s0 : State) (n : Fin 16) : Nat → State → Micro → Res
  | 0, s, m => s0.microOver s n m
  | k + 1, s, m0 =>
    let m := m0.fetchFrom (s.cs.copies.at (seqCluster n))
    match s.csCheck (seqCluster n) m.upc with
    | (false, s1) => s0.microFault s1 n m .csEcc
    | (true, s1) =>
      let w := (s1.cs.copies.at (seqCluster n)).fetched m.upc
      let m1 := { m with cost := m.cost + 1 }
      s0.microEnd s1 n m1 k w (s0.microRun n k) (m1.exec s1 n w)

/-- R327: the values at the entry of customer microcode. -/
def Micro.entry (w npc : W32) (start : Nat) : Micro :=
  { vend := false, ir := w, npc := npc, u := Bank.fill 16 0, cnt := 0, mdh := 0,
    fl := { n := false, z := false, c := false, v := false }, xf := false, scok := false, none_ := false, cmt := false,
    ret := [], upc := start, cost := 2, taken := [] }

/-- R119, R303: the instruction that a full lane queue holds goes on with its delivery. -/
def Held.res (h : Held) (s : State) (n : Fin 16) : Res :=
  let op := (actOfWord h.act).getD .drive
  match h.micro with
  | none => (s.laneDeliver h.act op h.dom h.ns).res s 5 h.ir h.act
  | some (m, k) =>
    if h.more then s.microRun n k s m else
    let s1 := if m.cmt then s else m.taken.foldl (init := s) fun z x => z.retake (s.seqs.at n).cx x
    let w := (s1.cs.copies.at (seqCluster n)).fetched m.upc
    s.microEnd s1 n m k w (s.microRun n k) (m.tried s1 h.act (s1.laneDeliver h.act op h.dom h.ns))

/-- The values at the entry of vendor microcode at `x`. DESIGN CHOICE (log 8): what its micro-registers hold is free. -/
def Micro.vendor (w npc : W32) (x : Nat) : Micro :=
  { vend := true, ir := w, npc := npc, u := Vector.ofFn fun i => Config.vendorReg i.val, cnt := Config.vendorReg 16,
    mdh := Config.vendorReg 17, fl := stFlags (Config.vendorReg 18), xf := false, scok := false, none_ := false, cmt := false,
    ret := [], upc := x, cost := 0, taken := [] }

/-- R341: the macro instruction `w`, of whose vendor microcode a word is fetched from patch RAM: its microwords are executed,
those of ROM among them. -/
def State.vendorRun (s : State) (n : Fin 16) (w : W32) : Res :=
  let q := s.seqs.at n
  s.microRun n vendorBound s (Micro.vendor w (q.pc + 4) (Config.romEntry (.instr w) q).toNat)

/-- R319, R339: CUXN. -/
def State.doCux (s : State) (n : Fin 16) (w : W32) : Res :=
  let k := seqCluster n
  let x := 0x6000 + fnF w
  let q := s.seqs.at n
  match s.csCheck k x with
  | (false, s1) => s.microFault s1 n (Micro.entry w (q.pc + 4) x) .csEcc
  | (true, s1) =>
    let e := (s1.cs.copies.at k).word x
    let start := fldN e 0 15
    if !bit e 31 || !customer start then s1.trapped 4 0 w
    else if 48 ≤ fnF w ∧ !q.sec then s1.trapped 5 0 w
    else s1.microRun n s1.cs.maxUw s1 (Micro.entry w (q.pc + 4) start)

end Sys2Proof.Machine
end

