-- ==== Sys2Proof/Machine/Execute.lean ====
section
/-! DEFINITION. How a sequencer fetches and carries out one macro instruction (spec/09_sequencers.md, R235 to R237, R250,
R259 to R264; spec/11, R297). -/

namespace Sys2Proof.Machine

/-! Fetch (R236, R380). -/

/-- R236: the line that holds the offset `pc` is read from program memory: its words and the pairs of words that are
uncorrectable. -/
def State.readLine (s : State) (k : Fin 4) (line : Nat) : IbLine × State :=
  (List.range 8).foldl (init := ({ line := line, words := [], bad := [] }, s)) fun acc i =>
    let a := 0x1800000 + 64 * line + 8 * i
    let (v, s1) := acc.2.memRead (19 + k.val) a 8
    let raw := acc.2.mem.num a 8
    ({ acc.1 with words := acc.1.words ++ [BitVec.ofNat 32 raw, BitVec.ofNat 32 (raw / 2 ^ 32)],
                  bad := if v.isSome then acc.1.bad else acc.1.bad ++ [i] }, s1)

/-- The line with the offset `pc` in the cluster's buffer, most recently used, filled where it misses. -/
def State.lineOf (s : State) (k : Fin 4) (line : Nat) : IbLine × State :=
  let b := s.ibufs.at k
  let i : Fin 32 := Fin.ofNat 32 line
  let l := b.sets.at i
  match l.find? fun x => decide (x.line = line) with
  | some x =>
    (x, { s with ibufs := s.ibufs.upd k { b with sets := b.sets.upd i (x :: l.filter fun y => decide (y.line ≠ line)) } })
  | none =>
    let (x, s1) := s.readLine k line
    let m := if b.misses = 0xFFFFFFFF then b.misses else b.misses + 1
    (x, { s1 with ibufs := s1.ibufs.upd k { sets := b.sets.upd i ((x :: l).take 4), misses := m } })

/-- R259, R270: the word at pc, or the trap of its fetch. -/
def State.fetch (s : State) (n : Fin 16) : Except Trap W32 × State :=
  let pc := (s.seqs.at n).pc
  if pc.toNat % 4 ≠ 0 ∨ 0x80000 ≤ pc.toNat then (.error { code := 2, detail := 0, tval := pc }, s)
  else
    let (x, s1) := s.lineOf (seqCluster n) (pc.toNat / 64)
    if x.bad.contains (pc.toNat % 64 / 8) then (.error { code := 1, detail := 0, tval := pc }, s1)
    else (.ok (x.words.getD (pc.toNat % 64 / 4) 0), s1)

/-! Meanings of the instructions. -/

/-- The effect of macro instruction `m` with word `w` on sequencer `n`. -/
def Mn.sem (m : Mn) (s : State) (n : Fin 16) (w : W32) : Res :=
  match m with
  | .add => s.aluR n w .add 2
  | .sub => s.aluR n w .sub 2
  | .adc => s.aluR n w .adc 2
  | .sbc => s.aluR n w .sbc 2
  | .addt => s.aluT n w .add
  | .subt => s.aluT n w .sub
  | .cmp => s.aluF n w .sub
  | .and => s.aluR n w .and 2
  | .or => s.aluR n w .or 2
  | .xor => s.aluR n w .xor 2
  | .andn => s.aluR n w .andn 2
  | .orn => s.aluR n w .orn 2
  | .tst => s.aluF n w .and
  | .sll => s.aluR n w .sll 2
  | .srl => s.aluR n w .srl 2
  | .sra => s.aluR n w .sra 2
  | .ror => s.aluR n w .ror 2
  | .mul => s.aluR n w .mul 4
  | .mulhu => s.aluR n w .mulhu 5
  | .mulhs => s.aluR n w .mulhs 5
  | .divu => s.aluD n w false false
  | .divs => s.aluD n w true false
  | .remu => s.aluD n w false true
  | .rems => s.aluD n w true true
  | .mins => s.aluR n w .mins 2
  | .maxs => s.aluR n w .maxs 2
  | .minu => s.aluR n w .minu 2
  | .maxu => s.aluR n w .maxu 2
  | .clz => s.aluR n w .clz 2
  | .ctz => s.aluR n w .ctz 2
  | .popc => s.aluR n w .popc 2
  | .bswap => s.aluR n w .bswap 2
  | .brev => s.aluR n w .brev 2
  | .slts => s.aluR n w .slts 2
  | .sltu => s.aluR n w .sltu 2
  | .slli => s.shiI n w .sll
  | .srli => s.shiI n w .srl
  | .srai => s.shiI n w .sra
  | .rori => s.shiI n w .ror
  | .extu => s.doExtu n w
  | .exts => s.doExts n w
  | .ins => s.doIns n w
  | .addi => s.immR n w .add (immS w)
  | .andi => s.immR n w .and (immZ w)
  | .ori => s.immR n w .or (immZ w)
  | .xori => s.immR n w .xor (immZ w)
  | .lui => s.doLui n w
  | .cmpi => s.immF n w .sub (immS w)
  | .tsti => s.immF n w .and (immZ w)
  | .nop => s.doNop
  | .rds => s.doRds n w
  | .wrs => s.doWrs n w
  | .ldb => s.doLoad n w 1 fun v => (BitVec.ofNat 8 v).signExtend 32
  | .ldbu => s.doLoad n w 1 fun v => (BitVec.ofNat 8 v).setWidth 32
  | .ldh => s.doLoad n w 2 fun v => (BitVec.ofNat 16 v).signExtend 32
  | .ldhu => s.doLoad n w 2 fun v => (BitVec.ofNat 16 v).setWidth 32
  | .ldw => s.doLoad n w 4 fun v => BitVec.ofNat 32 v
  | .ldwu => s.doLdwu n w
  | .ldp => s.doLdp n w
  | .stb => s.doStore n w 1
  | .sth => s.doStore n w 2
  | .stw => s.doStore n w 4
  | .stwu => s.doStwu n w
  | .stp => s.doStp n w
  | .bcc => s.doBcc n w
  | .bz => s.doBz n w
  | .bnz => s.doBnz n w
  | .beq => s.doBeq n w
  | .bne => s.doBne n w
  | .j => s.doJ n w
  | .call => s.doCall n w
  | .jr => s.doJr n w
  | .callr => s.doCallr n w
  | .ret => s.doRet n w
  | .wopen => s.doWopen n
  | .wclose => s.doWclose n
  | .trap => s.doTrap w
  | .now => s.doNow n w
  | .conv => s.doConv n w
  | .exp => s.doExp n w
  | .enql => s.doEnql n w
  | .enqe => s.doEnqe n w
  | .pushe => s.doPushe n w
  | .deq => s.doDeq n w
  | .trydeq => s.doTrydeq n w
  | .brecv => s.doBrecv n w
  | .fire => s.doFire n w
  | .waite => s.doWaite n w
  | .trye => s.doTrye n w
  | .ll => s.doLl n w
  | .sc => s.doSc n w
  | .clrex => s.doClrex n
  | .rdc => s.doRdc n w
  | .wrc => s.doWrc n w
  | .wspill => s.doWspill n
  | .frel => s.doFrel n
  | .fadd => s.doFadd n w
  | .fsub => s.doFsub n w
  | .fmul => s.doFmul n w
  | .fdiv => s.doFdiv n w
  | .fsqrt => s.doFsqrt n w
  | .fma => s.doFma n w
  | .fneg => s.doFneg n w
  | .fabs => s.doFabs n w
  | .fmin => s.doFmin n w
  | .fmax => s.doFmax n w
  | .fcmp => s.doFcmp n w
  | .fcpy => s.doFcpy n w
  | .frint => s.doFrint n w
  | .fmvgq => s.doFmvgq n w
  | .fmvqg => s.doFmvqg n w
  | .fcvts => s.doFcvts n w
  | .fcvtu => s.doFcvtu n w
  | .ftos => s.doFtos n w
  | .ftou => s.doFtou n w
  | .fld => s.doFld n w
  | .fst => s.doFst n w
  | .rdfc => s.doRdfc n w
  | .wrfc => s.doWrfc n w
  | .yield => s.doYield n
  | .stop => s.doStop n
  | .cux => s.doCux n w

/-! The end of an instruction. -/

/-- R578: the trap is one that CATCHTRAP catches. -/
def State.catchTrap (s : State) (n : Fin 16) : State :=
  let q := s.seqs.at n
  if bit s.dbg.cfg 2 && decide (q.tvec ≠ 0 ∧ (s.chans.at q.cx).st ≠ .fault) then
    s.modDsq n fun x => { x with trapCatch := true }
  else s

/-- R132, R260, R293: `uw` microwords and the trap `t`, traced and caught. -/
def State.takeTrap (s : State) (n : Fin 16) (uw : Nat) (t : Trap) : State :=
  ((((s.uw n uw).eccTrap n t).trapEntry n t).traceTrap n).catchTrap n

/-- R297, R350, R358, R360: the channel blocks. One that drains is at its switch point, and a channel that waits for the
sequencer takes it. -/
def State.blockOn (s : State) (n : Fin 16) : State :=
  let q := s.seqs.at n
  let x := s.chans.at q.cx
  match x.st with
  | .draining => s.reqSwitch n
  | .run =>
    let s1 := s.modChan q.cx fun x => { x with st := .blocked }
    if q.st = .draining ∨ (allChans.any fun c => s.waiting c && s.eligible n (s.chans.at c)) then s1.reqSwitch n else s1
  | _ => s

/-- The sequencer still holds the channel after the instruction's own effect. -/
def State.holds (s : State) (n : Fin 16) : Bool :=
  s.seqUp n && (s.seqs.at n).cxv && (s.chans.at (s.seqs.at n).cx).res

/-- What the end of the instruction `w` makes of the machine (R260, R264, R297, R325). -/
def Res.retire (r : Res) (n : Fin 16) (w : W32) : State :=
  match r with
  | .done s1 k npc =>
    if s1.holds n then
      (s1.uw n k).modSeq n fun q => { q with pc := npc.getD (q.pc + 4) }
    else s1
  | .trap s1 k t => s1.takeTrap n k t
  | .block s1 k => (s1.uw n k).blockOn n
  | .pool s1 => s1.enterPool n (.instr w)
  | .ecc s1 => s1.ctxEcc n
  | .stall s1 h => s1.modSeq n fun q => { q with held := some h }
  | .fault s1 k c => (s1.uw n k).channelFault n c

/-! Running (R264). -/

/-- Sequencer `n` is at a boundary with a channel that runs and no switch requested. -/
def State.runnable (s : State) (n : Fin 16) : Bool :=
  let q := s.seqs.at n
  let x := s.chans.at q.cx
  s.seqUp n && q.cxv && !q.swReq && q.held.isNone && decide (q.st = .run ∨ q.st = .draining) &&
    decide (x.st = .run ∨ x.st = .draining) && x.res

/-- R578: the word is the software breakpoint that CATCHSW catches. -/
def State.swBkpt (s : State) (w : W32) : Bool :=
  bit s.dbg.cfg 1 && decide (decodeMacro w = some .trap ∧ fldN w 0 8 = 255)

/-- R264, R577, R578: no halt is due before the instruction at pc, whose word is known where it was fetched. -/
def State.haltFree (s : State) (n : Fin 16) (w : Option W32) : Bool :=
  let ex := (s.dbg.sqs.at n).exempt
  (s.haltDue n).isNone && (ex || (!s.bkpt n && !(match w with | some x => s.swBkpt x | none => false)))

/-- The exemption of the first instruction after a release ends (R581). -/
def State.ran (s : State) (n : Fin 16) : State := s.modDsq n fun x => { x with exempt := false }

/-- How an instruction begins: with its word, with the trap of its fetch, or with a double-bit error in the control store. -/
inductive Begun where
  | word (w : W32)
  | trap (t : Trap)
  | cs (upc : Nat)

/-- The next fetch of the channel on sequencer `n` is no longer the first at TVEC (R260). -/
def State.fetched (s : State) (n : Fin 16) : State := s.modChan (s.seqs.at n).cx fun x => { x with firstFetch := false }

/-- R323: the fetches of the vendor microcode of the instruction `w`; those of patch RAM are made as its words are executed. -/
def State.wordFetch (s : State) (n : Fin 16) (w : W32) : Option Nat × State :=
  if s.patched n (.instr w) then (none, s) else s.vendorFetch n (.instr w)

/-- R236, R323: the fetch of the instruction at pc, and the vendor microcode that carries it out. -/
def State.begin_ (s : State) (n : Fin 16) : Begun × State :=
  match s.fetch n with
  | (.error t, s1) => (.trap t, s1)
  | (.ok w, s1) =>
    match (s1.fetched n).wordFetch n w with
    | (some u, s2) => (.cs u, s2)
    | (none, s2) => (.word w, s2)

/-- What the instruction of word `w` comes to on sequencer `n`: that of its meaning (R276), or that of the microwords that
patch RAM puts in its place (R341). -/
def State.meaning (s : State) (n : Fin 16) (w : W32) : Res :=
  if s.patched n (.instr w) then s.vendorRun n w
  else match decodeMacro w with
    | none => s.trapped 3 0 w
    | some m => m.sem s n w

/-- The instruction of word `w` is carried out on sequencer `n`. -/
def State.runWord (s : State) (n : Fin 16) (w : W32) : State := ((s.meaning n w).retire n w).ran n

/-- The instruction at pc of sequencer `n` is carried out. -/
def State.execute (s : State) (n : Fin 16) : State :=
  match s.begin_ n with
  | (.trap t, s1) => (s1.takeTrap n 2 t).ran n
  | (.cs u, s1) => ((s1.csFault n (s1.seqs.at n).cx u .csEcc).channelFault n .csEcc).ran n
  | (.word w, s1) => s1.runWord n w

/-- The word at pc where the fetch gives one. -/
def State.wordAt (s : State) (n : Fin 16) : Option W32 :=
  match (s.fetch n).1 with
  | .ok w => some w
  | .error _ => none

/-- A fed instruction (R583) has the result `r` with the cause `c`. -/
def State.fed (s : State) (n : Fin 16) (r : FeedRes) (c : BitVec 24) : State :=
  s.modDsq n fun x => { x with feedV := true, feedRes := r, feedCause := c }

/-- R583: how a fed instruction ends. -/
def Res.feed (r : Res) (n : Fin 16) : State :=
  match r with
  | .done s1 k _ => (if s1.holds n then s1.uw n k else s1).fed n .ok 0
  | .trap s1 k t => ((s1.uw n k).eccTrap n t).fed n .trap (t.cause.setWidth 24)
  | .block s1 k => (s1.uw n k).fed n .block 0
  | .pool s1 => s1.fed n .block 0
  | .stall s1 h => s1.modSeq n fun q => { q with held := some { h with fed := true } }
  | .ecc s1 => (s1.channelFault n .ctxEcc).fed n .ok 0
  | .fault s1 k c => ((s1.uw n k).channelFault n c).fed n .ok 0

/-- R119, R264: the held instruction of sequencer `n` goes on. -/
def State.goOn (s : State) (n : Fin 16) (h : Held) : State :=
  let s1 := s.modSeq n fun q => { q with held := none }
  if h.fed then (h.res s1 n).feed n else ((h.res s1 n).retire n h.ir).ran n

/-- R264: sequencer `n` carries out the instruction at its pc, an instruction `m` (none: one that cannot be fetched or
decoded), where it is at a boundary and no switch or halt goes first; or the instruction `m` that a full lane queue holds goes
on. -/
def State.macro_ (s : State) (n : Fin 16) (m : Option Mn) : State :=
  let w := s.wordAt n
  match (s.seqs.at n).held with
  | some h => if s.seqUp n ∧ m = decodeMacro h.ir then s.goOn n h else s
  | none => if s.runnable n && s.haltFree n w && decide (m = w.bind decodeMacro) then s.execute n else s

end Sys2Proof.Machine
end

