-- ==== Sys2Proof/Machine/Switch.lean ====
section
/-! DEFINITION. Channel switches with their trace packets (R254, R262, R590), the retry in POOL (R250), and halts that are
taken (R577, R578). -/

namespace Sys2Proof.Machine

/-- R590: the packet of a switch on sequencer `n` that has ended with channel `inn`, none where none is switched in. -/
def State.switchEnd (s : State) (n : Fin 16) (inn : Option (Fin 256)) : State :=
  (s.traceSwitch n (s.dbg.sqs.at n).swOut inn).modDsq n fun x => { x with swOut := none }

/-- Notes that channel `c` has left sequencer `n`; the switch ends where no channel follows. -/
def State.switchLeft (s : State) (n : Fin 16) (c : Fin 256) : State :=
  let s1 := s.modDsq n fun x => { x with swOut := some c }
  if (s1.seqs.at n).st = .switch then s1 else s1.switchEnd n none

/-- R264, R577, R578: the cause of the halt that sequencer `n` takes now, the lowest code first; none inside an instruction. -/
def State.haltNow (s : State) (n : Fin 16) : Option Nat :=
  let q := s.seqs.at n
  let ex := (s.dbg.sqs.at n).exempt
  if s.seqUp n && q.st.haltable && q.held.isNone then
    match s.haltDue n with
    | some 1 => some 1
    | some 2 => some 2
    | d =>
      if !ex && s.runnable n && s.bkpt n then some 3
      else if !ex && s.runnable n && (match s.wordAt n with | some w => s.swBkpt w | none => false) then some 4
      else d
  else none

/-- R254, R264: SWITCH_OUT with its packet; a halt that is due goes first. -/
def State.switchOutT (s : State) (n : Fin 16) : State :=
  let c := (s.seqs.at n).cx
  let s1 := if (s.haltNow n).isNone then s.switchOut n else s
  if (s.chans.at c).res ∧ !(s1.chans.at c).res then s1.switchLeft n c else s1

/-- R577, R578: a request or a caught enable halts sequencer `n` in IDLE before any dispatch. -/
def State.haltsIdle (s : State) (n : Fin 16) : Bool :=
  decide ((s.seqs.at n).st = .idle) && (s.dbg.haltReq.getLsbD n.val || (s.dbg.sqs.at n).enCatch)

/-- R262, R357: dispatch with its packet. -/
def State.dispatchT (s : State) (n : Fin 16) : State :=
  let q := s.seqs.at n
  if s.haltsIdle n then s
  else
  let s0 := if q.st = .switch then s else s.modDsq n fun x => { x with swOut := none }
  let s1 := s0.dispatch n
  let r := s1.seqs.at n
  if r.st = .run ∧ q.st ≠ .run then s1.switchEnd n (some r.cx)
  else if q.st = .switch ∧ r.st ≠ .switch then s1.switchEnd n none
  else s1

/-- R250, R350, R354: the sequencer and the channel leave POOL as the retry succeeds: a disable that was recorded makes the
sequencer drain, and a STOP makes the channel drain. -/
def State.leavePool (s : State) (n : Fin 16) : State :=
  let q := s.seqs.at n
  let c := q.cx
  let x := s.chans.at c
  let s1 := s.modSeq n fun q =>
    { q with st := if q.drainRec then .draining else .run, poolWork := none, drainRec := false }
  if x.st ≠ .waitPool then s1
  else if x.faultRec.isSome then
    (s1.modChan c fun x => { x with st := .run, stopRec := none }).modSeq n fun q => { q with stopI := false }
  else match x.stopRec with
    | some ab => (s1.modChan c fun x => { x with st := .draining, abort := ab, stopRec := none }).modSeq n fun q =>
        { q with swReq := q.swReq || ab }
    | none => s1.modChan c fun x => { x with st := x.back }

/-- R250, R351: a sequencer in POOL tries again, and the work that waited completes before anything else. A fault that was
recorded follows it. -/
def State.poolRetry (s : State) (n : Fin 16) : State :=
  let q := s.seqs.at n
  if q.st = .pool ∧ s.pool.head.isSome then
    let s1 := s.leavePool n
    let s2 := match q.poolWork with
      | some (.instr w) => s1.runWord n w
      | some (.trapEntry t) => s1.trapWindow n t
      | some (.switchOut k) => (s1.saveFrom n k).settle n
      | none => s1
    match (s2.chans.at q.cx).faultRec with
    | some f =>
      if (s2.seqs.at n).st = .pool then s2
      else (s2.modChan q.cx fun x => { x with faultRec := none }).faultChan q.cx f
    | none => s2
  else s

/-- R250: the retry with its packets. -/
def State.poolRetryT (s : State) (n : Fin 16) : State :=
  let c := (s.seqs.at n).cx
  let s1 := s.poolRetry n
  if (s.chans.at c).res ∧ !(s1.chans.at c).res then s1.switchLeft n c else s1

/-- R578: SEQUENCER_HALT. -/
def State.takeHalt (s : State) (n : Fin 16) : State :=
  match s.haltNow n with
  | some c => s.haltSeq n c
  | none => s

/-- R578: a group request reaches sequencer `n`. -/
def State.takeGroupHalt (s : State) (n : Fin 16) : State :=
  if (s.dbg.sqs.at n).grp ∧ s.seqUp n ∧ (s.seqs.at n).st.haltable ∧ (s.seqs.at n).held = none then s.haltSeq n 2 else s

end Sys2Proof.Machine
end

