-- ==== Sys2Proof/Machine/Debug.lean ====
section
/-! DEFINITION. The debugger: its registers, work through a halted sequencer, and the Vyler wire port
(spec/22_debug.md, R563 to R593). -/

namespace Sys2Proof.Machine

def State.modPort (s : State) (f : VylerPort → VylerPort) : State := s.modDbg fun d => { d with port := f d.port }

/-- The sequencer is in HALT. -/
def State.isHalted (s : State) (n : Fin 16) : Bool := s.seqUp n && decide ((s.seqs.at n).st = .halt)

/-- A refused access to a halted sequencer's registers, or a refused step (R581, R582). -/
def State.accErr (s : State) (n : Fin 16) : State := s.modDsq n fun x => { x with accErr := true }

/-! The wire (R566 to R568). -/

/-- R567: CMD of an operation. -/
def WireOp.cmd : WireOp → BitVec 3
  | .read => 1
  | .consume => 2
  | .write _ => 4

/-- R568: RSP, the bit of edge 34 highest. -/
def Rsp.code : Rsp → BitVec 4
  | .done => 6
  | .hold => 5
  | .refuse => 3
  | .silent => 15

/-- The check register of a CRC of `w` bits with polynomial `poly` after the bits of `l` (R567). -/
def wireCrc (w poly : Nat) (l : List Bool) : Nat :=
  l.foldl (init := 0) fun c b =>
    let top := decide (c / 2 ^ (w - 1) % 2 = 1) != b
    let c1 := c * 2 % 2 ^ w
    if top then c1 ^^^ poly else c1

/-- The bits of the low `k` bits of `x`, the most significant first. -/
def msbFirst {w : Nat} (x : BitVec w) (k : Nat) : List Bool := (List.range k).map fun i => bit x (k - 1 - i)

/-- R567: DCRC of a data word. -/
def dcrcOf (v : W32) : BitVec 8 := BitVec.ofNat 8 (wireCrc 8 7 (msbFirst v 32))

/-- R567: HCRC of CMD and ADDR. -/
def hcrcOf (cmd : BitVec 3) (addr : BitVec 24) : BitVec 4 := BitVec.ofNat 4 (wireCrc 4 3 (msbFirst cmd 3 ++ msbFirst addr 24))

/-- R566: the bits of a header, SYNC, CMD, ADDR and HCRC: the bit that the block samples at edge `e` is bit 32 − e. -/
def wireHeader (sync : BitVec 2) (cmd : BitVec 3) (addr : BitVec 24) (hcrc : BitVec 4) : BitVec 33 := sync ++ cmd ++ addr ++ hcrc

/-- R566, R567: the header with which the debugger asks for `op` at word address `addr`. -/
def WireOp.header (op : WireOp) (addr : BitVec 24) : BitVec 33 := wireHeader 1 op.cmd addr (hcrcOf op.cmd addr)

/-- R566, R567, R571: a header is answered: SYNC is 0 then 1, CMD is one of the codes and HCRC agrees. -/
def headerGood (x : BitVec 33) : Bool :=
  let cmd : BitVec 3 := fld x 28 3
  decide (fldN x 31 2 = 1) && [WireOp.read, .consume, .write 0].any (fun op => decide (op.cmd = cmd)) &&
    decide (fld x 0 4 = hcrcOf cmd (fld x 4 24))

/-- R566: the bits of a WRITE frame's data and DCRC: the bit of edge `e` is bit 78 − e. -/
def wireData (v : W32) : BitVec 40 := v ++ dcrcOf v

/-- R566, R568: what the block drives on DIO for edge `e` of the frame last answered, none where it does not: RSP, and the data and
DCRC of a read answered DONE. -/
def VylerPort.drives (p : VylerPort) (e : Nat) : Option Bool :=
  if p.rsp = .silent then none
  else if 34 ≤ e ∧ e < 38 then some (bit p.rsp.code (37 - e))
  else if p.rsp = .done ∧ !p.wrote ∧ 38 ≤ e ∧ e < 78 then some (bit (wireData p.rdata) (77 - e))
  else none

/-- DIO_OE and DIO_OUT at edge `e` of a frame (R31, R566, R587): the port needs power and no reset. -/
def State.dioOe (s : State) (e : Nat) : Bool := s.power.vao && s.power.porst && (s.dbg.port.drives e).isSome
def State.dioOut (s : State) (e : Nat) : Bool := (s.dbg.port.drives e).getD true

/-! Halt, release and step (R577, R581). -/

def State.haltRequest (s : State) (v : W32) : State := s.modDbg fun d => { d with haltReq := d.haltReq ||| fld v 0 16 }

/-- R581: a write of DBG_RELEASE. -/
def State.releaseAll (s : State) (v : W32) : State :=
  allSeqs.foldl (init := s) fun z n => if bit v n.val then z.releaseSeq n else z

/-- R581: one step of sequencer `n`; one that a full lane queue holds halts as it completes (R264). -/
def State.stepSeq (s : State) (n : Fin 16) : State :=
  let q := s.seqs.at n
  if !s.isHalted n then s
  else if q.before ≠ .run ∨ q.held.isSome then s.accErr n
  else
    let s1 := s.unhalt n
    let c := q.cx
    let s2 := if (s1.chans.at c).st = .blocked then s1.modChan c fun x => { x with st := .run } else s1
    let live := decide ((s2.chans.at c).st = .run ∨ (s2.chans.at c).st = .draining) && q.cxv
    let s3 := if live then s2.execute n else s2
    if (s3.seqs.at n).held.isSome then s3.modDsq n fun x => { x with stepping := true }
    else if s3.seqUp n ∧ (s3.seqs.at n).st.haltable then s3.haltSeq n 7
    else s3

def State.singleStep (s : State) (v : W32) : State :=
  allSeqs.foldl (init := s) fun z n => if bit v n.val then z.stepSeq n else z

/-! Registers of a halted sequencer (R582). -/

/-- The float bank is the channel's. -/
def Seq.ownsBank (q : Seq) : Bool := q.fownV && decide (q.fownCh = q.cx)

/-- The item of GSEL, none where it is refused. -/
def State.gItem (s : State) (n : Fin 16) : Option W32 :=
  let q := s.seqs.at n
  let g := fldN (s.dbg.sqs.at n).gsel 0 7
  if !s.isHalted n then none
  else if g < 32 then some (q.reg g)
  else if 64 ≤ g ∧ g < 96 then
    if q.ownsBank then some (if g % 2 = 0 then lo32 (q.fq ((g - 64) / 2)) else hi32 (q.fq ((g - 64) / 2))) else none
  else match g with
    | 32 => some q.pc
    | 33 => some q.stw
    | 34 => some (put 0 q.cw.val)
    | 35 => some (put 0 q.wv.toNat)
    | 36 => some (put 0 q.cx.val)
    | 37 => some q.tvec
    | 38 => some q.tcause
    | 39 => some q.tval
    | 40 => if q.ownsBank then some q.fctl else none
    | _ => none

/-- The sequencer after a write of the item of GSEL, none where it is refused. -/
def Seq.setItem (q : Seq) (g : Nat) (v : W32) : Option Seq :=
  if g < 32 then some (q.setReg g v)
  else if 64 ≤ g ∧ g < 96 then
    let x := q.fq ((g - 64) / 2)
    if q.ownsBank then some (q.setFq ((g - 64) / 2) (if g % 2 = 0 then setLo x v else setHi x v)) else none
  else match g with
    | 32 => if fldN v 0 2 = 0 then some { q with pc := v } else none
    | 33 => some (q.setSt v)
    | 37 => if fldN v 0 2 = 0 then some { q with tvec := v } else none
    | 40 => if q.ownsBank then some { q with fctl := mrg fcMask q.fctl v, fownD := true } else none
    | _ => none

/-- R582: a write of DBG_SQn_GDATA. -/
def State.gdataW (s : State) (n : Fin 16) (v : W32) : State :=
  match (if s.isHalted n then (s.seqs.at n).setItem (fldN (s.dbg.sqs.at n).gsel 0 7) v else none) with
  | some q => s.modSeq n fun _ => q
  | none => s.accErr n

/-! Feed (R583). -/

/-- R583: the word is one that a feed refuses. -/
def feedBad (w : W32) : Bool := decide ((0x10 ≤ opF w ∧ opF w < 0x20) ∨ opF w = 0x38)

/-- R583: the word `w` runs as one instruction of the halted channel. -/
def State.feed (s : State) (n : Fin 16) (w : W32) : State :=
  let q := s.seqs.at n
  if !s.isHalted n || !q.cxv || feedBad w || q.held.isSome then
    s.modDsq n fun x => { x with feedRes := .refused, feedCause := 0 }
  else match s.wordFetch n w with
    | (some u, s1) => (Res.fault (s1.csFault n q.cx u .csEcc) 0 .csEcc).feed n
    | (none, s1) => (s1.meaning n w).feed n

/-! Memory through a halted sequencer (R584). -/

/-- R584: the result of an access. -/
def State.mResult (s : State) (n : Fin 16) (c : Option Cause) : State :=
  s.modDsq n fun x => { x with merr := c.isSome, mcause := (c.map Cause.code).getD 0 }

/-- The line of program memory that holds `a` leaves every instruction buffer. -/
def State.dropLine (s : State) (a : Nat) : State :=
  let line := (a - 0x1800000) / 64
  let one (b : Ibuf) : Ibuf := { b with sets := b.sets.map fun l : List IbLine => l.filter fun x => decide (x.line ≠ line) }
  { s with ibufs := s.ibufs.map one }

/-- R584: a write of GO to DBG_SQn_MCTRL. -/
def State.memAccess (s : State) (n : Fin 16) (v : W32) : State :=
  let s0 := s.modDsq n fun x => { x with mctrl := v &&& 0xE }
  let x := s0.dbg.sqs.at n
  let a := x.maddr.toNat
  let k := if bit v 2 then 8 else 4
  let wr := bit v 1
  let data := (if bit v 2 then (join x.mdhi x.mdlo).toNat else x.mdlo.toNat)
  let q : Req := { who := .debugger, sec := decide (s.grant = 2) }
  let next (z : State) : State :=
    let z1 := z.mResult n none
    if bit v 3 then z1.modDsq n fun x => { x with maddr := (x.maddr + BitVec.ofNat 32 k) &&& 0x03FFFFFC } else z1
  if !s0.isHalted n || !within a 0x1000000 0x2000000 then s0.mResult n (some .disabled)
  else match s0.refusal q wr a k data with
    | some c => (s0.refused wr a c).mResult n (some c)
    | none =>
      if wr then
        let s1 := s0.memWrite n.val a k data
        next (if memOf a = some 3 then s1.dropLine a else s1)
      else match s0.memLoad n.val a k with
        | (some d, s1) =>
          next (s1.modDsq n fun x =>
            { x with mdlo := BitVec.ofNat 32 d, mdhi := if k = 8 then BitVec.ofNat 32 (d / 2 ^ 32) else x.mdhi })
        | (none, s1) => s1.mResult n (some .ecc)

/-- A write of DBG_SQn_MCTRL. -/
def State.mctrlW (s : State) (n : Fin 16) (v : W32) : State :=
  if bit v 0 then s.memAccess n v else s.modDsq n fun x => { x with mctrl := v &&& 0xE }

/-! The debugger's registers (R592, R593). -/

/-- A port register, served by the always-on domain (R564). -/
def portReg (a : Nat) : Bool := within a 0x200000 0x200014

/-- DBG_PSTAT as it reads. -/
def VylerPort.pstat (p : VylerPort) : W32 := putB 31 p.sticky ||| putB 30 p.wdcErr ||| putB 29 p.hdrErr ||| put 16 p.cause

/-- DBG_AUTH as it reads. -/
def State.authWord (s : State) : W32 :=
  put 8 s.authMax ||| put 4 s.grant ||| s.dbg.port.req.setWidth 32

def State.portRead (s : State) (a : Nat) : W32 :=
  match a with
  | 0x200000 => 0x56590001
  | 0x200004 => s.dbg.port.pstat
  | 0x200008 => s.authWord
  | 0x20000C => s.dbg.cfg
  | 0x200010 => s.dbg.port.rdbuf
  | _ => 0

def State.portWrite (s : State) (a : Nat) (v : W32) : State :=
  match a with
  | 0x200004 => s.modPort fun p =>
    { p with sticky := p.sticky && !bit v 31, cause := if bit v 31 then 0 else p.cause, wdcErr := p.wdcErr && !bit v 30,
             hdrErr := p.hdrErr && !bit v 29 }
  | 0x200008 => s.authRequest v
  | 0x20000C => s.modDbg fun d => { d with cfg := v &&& 0x1F }
  | _ => s

/-- DBG_SQn_STAT as it reads. -/
def State.dbgSqStat (s : State) (n : Fin 16) : W32 :=
  let x := s.dbg.sqs.at n
  put 12 x.hcause ||| put 8 (s.seqs.at n).before.num ||| putB 4 x.accErr ||| putB 0 (s.isHalted n)

def FeedRes.num : FeedRes → Nat
  | .ok => 0
  | .trap => 1
  | .block => 2
  | .refused => 3

/-- A read of a DBG register by the debugger, with its side effects. -/
def State.dbgRead (s : State) (a : Nat) : W32 × State :=
  if 0x201400 ≤ a then (0, s)
  else if 0x201000 ≤ a then
    let n : Fin 16 := Fin.ofNat 16 ((a - 0x201000) / 0x40)
    let x := s.dbg.sqs.at n
    match a % 0x40 with
    | 0x00 => (s.dbgSqStat n, s)
    | 0x04 => (x.gsel, s)
    | 0x08 => match s.gItem n with | some v => (v, s) | none => (0, s.accErr n)
    | 0x10 => (putB 31 x.feedV ||| put 28 x.feedRes.num ||| x.feedCause.setWidth 32, s)
    | 0x14 => (x.maddr, s)
    | 0x18 => (x.mdlo, s)
    | 0x1C => (x.mdhi, s)
    | 0x20 => (putB 31 x.merr ||| put 24 x.mcause ||| x.mctrl, s)
    | _ => (0, s)
  else match a with
    | 0x200100 => (s.dbg.allow.setWidth 32, s)
    | 0x200104 => (s.dbg.haltReq.setWidth 32, s)
    | 0x200110 => (sumBits 16 fun i => s.isHalted (Fin.ofNat 16 i), s)
    | 0x200114 => (s.dbg.hgrp.setWidth 32, s)
    | 0x200120 => (s.dbg.bps.at 0, s)
    | 0x200124 => (s.dbg.bps.at 1, s)
    | 0x200128 => (s.dbg.bps.at 2, s)
    | 0x20012C => (s.dbg.bps.at 3, s)
    | 0x200280 => (s.dbg.stimEn, s)
    | 0x200284 => (s.dbg.trCfg, s)
    | 0x200288 => (s.dbg.trStat, s)
    | 0x20028C => let (v, d) := s.dbg.pop; (v, { s with dbg := d })
    | 0x200290 => (s.dbg.traceLo, s)
    | _ => (0, s)

/-- A write of a DBG register by the debugger. -/
def State.dbgWrite (s : State) (a : Nat) (v : W32) : State :=
  if 0x201400 ≤ a then s
  else if 0x201000 ≤ a then
    let n : Fin 16 := Fin.ofNat 16 ((a - 0x201000) / 0x40)
    match a % 0x40 with
    | 0x00 => s.modDsq n fun x => { x with accErr := x.accErr && !bit v 4 }
    | 0x04 => s.modDsq n fun x => { x with gsel := v &&& 0x7F }
    | 0x08 => s.gdataW n v
    | 0x0C => s.feed n v
    | 0x14 => s.modDsq n fun x => { x with maddr := v &&& 0x03FFFFFC }
    | 0x18 => s.modDsq n fun x => { x with mdlo := v }
    | 0x1C => s.modDsq n fun x => { x with mdhi := v }
    | 0x20 => s.mctrlW n v
    | _ => s
  else if within a 0x200200 0x200280 then s.stim (Fin.ofNat 32 ((a - 0x200200) / 4)) v
  else if within a 0x200120 0x200130 then
    s.modDbg fun d => { d with bps := d.bps.upd (Fin.ofNat 4 ((a - 0x200120) / 4)) (v &&& 0xFFC7FFFC) }
  else match a with
    | 0x200104 => s.haltRequest v
    | 0x200108 => s.releaseAll v
    | 0x20010C => s.singleStep v
    | 0x200114 => s.modDbg fun d => { d with hgrp := fld v 0 16 }
    | 0x200280 => s.modDbg fun d => { d with stimEn := v }
    | 0x200284 => s.modDbg fun d => { d with trCfg := v &&& 0x1F }
    | 0x200288 => s.modDbg fun d => { d with ovf := d.ovf && !bit v 10 }
    | 0x20028C => s.tracePush v
    | _ => s

/-! Accesses of the wire port (R564, R569 to R576). -/

/-- R573: the level that an access needs. -/
def WireOp.level (op : WireOp) (a : Nat) : Nat :=
  match op with
  | .read => if portReg a then 0 else 1
  | .consume => if a = 0x20028C then 1 else 2
  | .write _ => if a = 0x200004 ∨ a = 0x200008 then 0 else if a = 0x200280 ∨ a = 0x200284 then 1 else 2

def WireOp.isWrite : WireOp → Bool
  | .write _ => true
  | _ => false

/-- R564: the cause that refuses an access: a code of R57, 11 AUTH or 12 NOCORE. -/
def State.wireRefusal (s : State) (op : WireOp) (a : Nat) : Option Nat :=
  let data : Nat := match op with | .write v => v.toNat | _ => 0
  if s.power.testMode then (if a = 0x200000 ∧ op = .read then none else some Cause.disabled.code)
  else if !portReg a ∧ !s.power.vcore then some 12
  else if s.grant < op.level a then some 11
  else if portReg a then none
  else if within a 0x1000000 0x2000000 then some Cause.disabled.code
  else
    (s.refusal { who := .debugger, sec := decide (s.grant = 2) } op.isWrite a 4 data).map Cause.code

/-- R570: a refused access. -/
def State.wireRefused (s : State) (op : WireOp) (a c : Nat) : State :=
  let s1 := if c = Cause.guard.code then s.refused op.isWrite a .guard
    else if c = Cause.disabled.code then s.refused op.isWrite a .disabled else s
  s1.modPort fun p => { p with sticky := true, cause := c }

/-- Whether a read of the register loads a shadow even for READ (R576). -/
def shadowRead (a : Nat) : Bool :=
  decide (a = 0xA0000) || (within a 0xB0000 0xB1000 && decide (a % 0x80 = 0x0C))

/-- The value of a permitted read, and the state after it with its side effects. -/
def State.wireValue (s : State) (a : Nat) (hw : W32) : W32 × State :=
  if portReg a then (s.portRead a, s)
  else if within a 0x200000 0x210000 then s.dbgRead a
  else s.regRead { who := .debugger, sec := false, hw := hw } a

/-- R23, R569, R576: a read is made, in whose access the hardware sets the bits `hw`: its data and the state after it; none where it
is refused. -/
def State.wireRead (s : State) (op : WireOp) (a : Nat) (hw : W32) : Option W32 × State :=
  match s.wireRefusal op a with
  | some c => (none, s.wireRefused op a c)
  | none =>
    if !portReg a && !within a 0x200000 0x210000 && s.regEcc a then (none, (s.regUnc none a).wireRefused op a Cause.ecc.code)
    else
      let (v, s1) := s.wireValue a hw
      let s2 := if op = .consume ∨ shadowRead a then s1 else s
      (some v, if a = 0x200010 ∨ a = 0x200004 then s2 else s2.modPort fun p => { p with rdbuf := v })

/-- R22, R564, R570, R593: a write is made, in whose access the hardware sets the bits `hw` and the port B reads it leads to meet the
accesses `coll`. -/
def State.wireWrite (s : State) (a : Nat) (v hw : W32) (coll : List PortA) : State :=
  match s.wireRefusal (.write v) a with
  | some c => s.wireRefused (.write v) a c
  | none =>
    let x := hwWins a v hw
    if portReg a then s.portWrite a x
    else if within a 0x200000 0x210000 then s.dbgWrite a x
    else s.regWrite { who := .debugger, sec := decide (s.grant = 2), hw := hw, coll := coll } a x

/-- The port takes accesses: it has power, is out of reset, and is not stopped by a refused one (R570, R587). -/
def State.portOpen (s : State) : Bool := s.power.vao && s.power.porst && !s.dbg.port.sticky

/-- A write of `a` that the debugger makes, as its access runs. -/
def State.portCmd (s : State) (a : Nat) (v : W32) : State := if s.portOpen then s.wireWrite a v 0 [] else s

/-- R591: a CONSUME of DBG_TRACE. -/
def State.traceRead (s : State) : State := if s.portOpen then (s.wireRead .consume 0x20028C 0).2 else s

/-- An answer on the wire (R568), to a WRITE (`wr`) or with the data `v` of a read. -/
def State.answer (s : State) (wr : Bool) (r : Rsp) (v : W32) : State :=
  s.modPort fun p => { p with rsp := r, rdata := v, wrote := wr }

/-- The port has power and is out of reset, and takes frames (R571, R587). -/
def State.portLive (s : State) : Bool := s.power.vao && s.power.porst && !s.dbg.port.lost

/-- R569, R570: a READ or CONSUME frame. `prompt` says that the access completes before the response. -/
def State.wireReadFrame (s : State) (op : WireOp) (addr : BitVec 26) (prompt : Bool) (hw : W32) : State :=
  let p := s.dbg.port
  let a := addr.toNat / 4 * 4
  if !s.portLive then s
  else if p.busy.isSome then s.answer false .hold 0
  else
    let held : Option W32 := match p.held with
      | some (o, b, v) => if o = op ∧ b.toNat = a then some v else none
      | none => none
    let s0 := s.modPort fun p => { p with held := none }
    if p.sticky && !(decide (op = .read) && portReg a) then s0.answer false .refuse 0
    else match held with
      | some v => s0.answer false .done v
      | none =>
        if prompt then
          match s0.wireRead op a hw with
          | (some v, s1) => s1.answer false .done v
          | (none, s1) => s1.answer false .refuse 0
        else (s0.modPort fun p => { p with busy := some (op, BitVec.ofNat 26 a) }).answer false .hold 0

/-- R569 to R572: a WRITE frame. -/
def State.wireWriteFrame (s : State) (addr : BitVec 26) (v : W32) (dcrc : BitVec 8) (prompt : Bool) (hw : W32) (coll : List PortA) :
    State :=
  let p := s.dbg.port
  let a := addr.toNat / 4 * 4
  if !s.portLive then s
  else if p.busy.isSome then s.answer true .hold 0
  else
    let s0 := s.modPort fun p => { p with held := none }
    if p.sticky ∧ a ≠ 0x200004 then s0.answer true .refuse 0
    else
      let s1 := s0.answer true .done 0
      if dcrc ≠ dcrcOf v then s1.modPort fun p => { p with wdcErr := true, sticky := true, cause := 0 }
      else if prompt then s1.wireWrite a v hw coll
      else s1.modPort fun p => { p with busy := some (.write v, BitVec.ofNat 26 a) }

/-- R569: the access in progress completes. -/
def State.wireDone (s : State) (hw : W32) (coll : List PortA) : State :=
  match s.dbg.port.busy with
  | none => s
  | some (op, addr) =>
    let s0 := s.modPort fun p => { p with busy := none }
    match op with
    | .write v => s0.wireWrite addr.toNat v hw coll
    | _ =>
      match s0.wireRead op addr.toNat hw with
      | (some v, s1) => s1.modPort fun p => { p with held := some (op, addr, v) }
      | (none, s1) => s1

/-- R571: a header that is not as R566 and R567 have it. -/
def State.headerError (s : State) (sync : BitVec 2) (cmd : BitVec 3) (addr : BitVec 24) (hcrc : BitVec 4) : State :=
  if s.portLive && !headerGood (wireHeader sync cmd addr hcrc) then s.modPort fun p => { p with hdrErr := true, lost := true, rsp := .silent } else s

/-- R571: a line reset. -/
def State.lineReset (s : State) : State :=
  if s.power.vao ∧ s.power.porst then s.modPort fun p => { p with lost := false, held := none } else s

end Sys2Proof.Machine
end

