-- ==== Sys2Proof/WellFormed.lean ====
section
/-! DEFINITION. Which commands are ones that the world outside can give: the payload of an error that a bus
carries. Every other operand is of a type that holds what its pin, register or wire can. -/

namespace Sys2Proof.Machine

/-- R438: an error in a frame has an error code. -/
def AbErr.wf : AbErr → Bool
  | .frame lec _ _ _ _ => decide (lec ≠ 0)
  | _ => true

end Sys2Proof.Machine

namespace Sys2Proof

/-- The command is well formed. -/
def Instr.wf (i : Instr) : Bool :=
  match i with
  | .abBusError _ _ e => e.wf
  | _ => true

end Sys2Proof
end

