-- ==== Sys2Proof/Machine/ExecArb.lean ====
section
/-! DEFINITION. The meanings of the commands of the arbitrated-bus cells (spec/16). -/

namespace Sys2Proof.Machine

/-- R442: Setting ABk_CFG.EN with valid timing puts the cell in INTEG, or refuses with CFGERR. -/
def execAbEnable (k : Fin 16) (v : W32) (s : State) : Host.Outcome State Fault Refusal :=
  .next (if s.up ∧ !(s.abs_.at k).en ∧ bit v 0 then s.abCfg k v else s)

/-- R443: Clearing EN turns the cell OFF or DRAINING until the frame in progress ends. -/
def execAbDisable (k : Fin 16) (v : W32) (s : State) : Host.Outcome State Fault Refusal :=
  .next (if s.up ∧ (s.abs_.at k).en ∧ !bit v 0 then s.abCfg k v else s)

/-- R443: ABORT during DRAINING abandons a received frame or stops a frame still in arbitration. -/
def execAbAbort (k : Fin 16) (v : W32) (s : State) : Host.Outcome State Fault Refusal :=
  .next (if s.up ∧ (s.abs_.at k).st = .draining ∧ bit v 1 then s.abCfg k v else s)

/-- R442: CLRFLT takes the cell from FAULT to INTEG or OFF. -/
def execAbClrflt (k : Fin 16) (s : State) : Host.Outcome State Fault Refusal :=
  .next (if s.up then s.abClrFlt k else s)

/-- R441: RECOVER in BUS_OFF starts bus-off recovery. -/
def execRecover (k : Fin 16) (s : State) : Host.Outcome State Fault Refusal :=
  .next (if s.up then s.abRecover k else s)

/-- R443: FLUSH in OFF or FAULT cancels PENDING buffers and empties the receive queue. -/
def execAbFlush (k : Fin 16) (s : State) : Host.Outcome State Fault Refusal :=
  .next (if s.up then s.abFlush k else s)

/-- R428: A write of 1 to ABk_TXREQ makes a transmit buffer PENDING and judges its lead. -/
def execTxRequest (k : Fin 16) (v : W32) (s : State) : Host.Outcome State Fault Refusal :=
  .next (if s.up then s.abTxReq k v else s)

/-- R431: A write of 1 to ABk_TXCAN cancels a transmit buffer according to its progress. -/
def execTxCancel (k : Fin 16) (v : W32) (s : State) : Host.Outcome State Fault Refusal :=
  .next (if s.up then s.abTxCan k v else s)

/-- R429: A stamped transmit buffer reaches its due instant and competes at the next SOF. -/
def execTxDue (t : Instant) (k : Fin 16) (b : Fin 8) (s : State) : Host.Outcome State Fault Refusal :=
  .next ((s.advance t).abDue k b)

/-- R429: A start of frame on the bus, own or another's, fixes the offered buffer and begins a frame. The command also
carries the edges of AB_RXD after it (R424) and the loss of arbitration. -/
def execAbSof (t : Instant) (k : Fin 16) (e : AbSofEv) (s : State) : Host.Outcome State Fault Refusal :=
  match e with
  | .start es own => .next ((s.advance t).abSof k es own)
  | .edge x => .next ((s.advance t).abEdge k x)
  | .lost => .next ((s.advance t).abLost k)

/-- R432: A transmitted frame completes without error and its buffer ends SENT or TOO_LATE. -/
def execAbFrameSent (t : Instant) (k : Fin 16) (s : State) : Host.Outcome State Fault Refusal :=
  .next ((s.advance t).abSent k)

/-- R433: A received valid frame is filtered into a receive buffer and the receive queue. -/
def execAbFrameReceived (t : Instant) (k : Fin 16) (s : State) : Host.Outcome State Fault Refusal :=
  .next ((s.advance t).abReceived k)

/-- R438: An error detected in a frame updates TEC or REC and error state and may schedule retransmission. -/
def execAbBusError (t : Instant) (k : Fin 16) (e : AbErr) (s : State) : Host.Outcome State Fault Refusal :=
  if e.wf then .next ((s.advance t).abError k e) else .fault .illFormed

/-- R439: With PXE, a recessive res or FDF bit sets PXEV and sends the cell to INTEG. -/
def execAbProtocolException (t : Instant) (k : Fin 16) (s : State) : Host.Outcome State Fault Refusal :=
  .next ((s.advance t).abException k)

/-- R430: After a late request under FAULT policy the cell enters FAULT at ge + 24 or at the frame's end. -/
def execAbFaultEntry (t : Instant) (k : Fin 16) (s : State) : Host.Outcome State Fault Refusal :=
  .next ((s.advance t).abFault k)

/-- R442: Eleven consecutive recessive bits end integration and the cell enters RUN. -/
def execAbIntegDone (t : Instant) (k : Fin 16) (s : State) : Host.Outcome State Fault Refusal :=
  .next ((s.advance t).abIntegDone k)

/-- R441: 128 occurrences of 11 recessive bits complete recovery, clearing the counters. -/
def execBusoffRecoveryDone (t : Instant) (k : Fin 16) (s : State) : Host.Outcome State Fault Refusal :=
  .next ((s.advance t).abRecovered k)

end Sys2Proof.Machine
end

