-- ==== Sys2Proof/Machine/ExecCarnelian.lean ====
section
/-! DEFINITION. The meanings of the commands of the Carnelian window (spec/23). -/

namespace Sys2Proof.Machine

/-- R601: A write of CW_CMD_HI sets the channel and mailbox and sets HIV. -/
def execCwCmdHi (v : BitVec 16) (s : State) : Host.Outcome State Fault Refusal :=
  .next (if s.up ∧ s.cw.en then s.cwHigh v else s)

/-- R605: Carnelian NOP completes with no effect. -/
def execCwNop (param : Byte) (sec : Bool) (s : State) : Host.Outcome State Fault Refusal :=
  .next (if s.up ∧ s.cw.en then s.cwLow 0x00 param sec else s)

/-- R605: Carnelian START acts as CHn_CTRL.START and pushes STARTERR. -/
def execCwStart (param : Byte) (sec : Bool) (s : State) : Host.Outcome State Fault Refusal :=
  .next (if s.up ∧ s.cw.en then s.cwLow 0x01 param sec else s)

/-- R605: Carnelian STOP acts as CHn_CTRL.STOP with ABORT 0. -/
def execCwStop (param : Byte) (sec : Bool) (s : State) : Host.Outcome State Fault Refusal :=
  .next (if s.up ∧ s.cw.en then s.cwLow 0x02 param sec else s)

/-- R605: Carnelian ABORT stops with ABORT 1, or aborts alone while DRAINING. -/
def execCwAbort (param : Byte) (sec : Bool) (s : State) : Host.Outcome State Fault Refusal :=
  .next (if s.up ∧ s.cw.en then s.cwLow 0x03 param sec else s)

/-- R605: Carnelian RESUME acts as CHn_CTRL.RESUME. -/
def execCwResume (param : Byte) (sec : Bool) (s : State) : Host.Outcome State Fault Refusal :=
  .next (if s.up ∧ s.cw.en then s.cwLow 0x04 param sec else s)

/-- R605: Carnelian DISCARD acts as CHn_CTRL.DISCARD. -/
def execCwDiscard (param : Byte) (sec : Bool) (s : State) : Host.Outcome State Fault Refusal :=
  .next (if s.up ∧ s.cw.en then s.cwLow 0x05 param sec else s)

/-- R605: Carnelian FLUSH acts as CHn_CTRL.FLUSH. -/
def execCwFlush (param : Byte) (sec : Bool) (s : State) : Host.Outcome State Fault Refusal :=
  .next (if s.up ∧ s.cw.en then s.cwLow 0x06 param sec else s)

/-- R605: Carnelian NOTE acts as CHn_CTRL.NOTE. -/
def execCwNote (param : Byte) (sec : Bool) (s : State) : Host.Outcome State Fault Refusal :=
  .next (if s.up ∧ s.cw.en then s.cwLow 0x07 param sec else s)

/-- R605: Carnelian POST makes a plain post of the argument and pushes its result. -/
def execCwPost (param : Byte) (sec : Bool) (s : State) : Host.Outcome State Fault Refusal :=
  .next (if s.up ∧ s.cw.en then s.cwLow 0x10 param sec else s)

/-- R605: Carnelian STAT pushes CHn_STAT as two entries. -/
def execCwStat (param : Byte) (sec : Bool) (s : State) : Host.Outcome State Fault Refusal :=
  .next (if s.up ∧ s.cw.en then s.cwLow 0x20 param sec else s)

/-- R605: Carnelian MBX pushes CHn_MBX as two entries. -/
def execCwMbx (param : Byte) (sec : Bool) (s : State) : Host.Outcome State Fault Refusal :=
  .next (if s.up ∧ s.cw.en then s.cwLow 0x21 param sec else s)

/-- R605: Carnelian RDDESC pushes a descriptor word as two entries. -/
def execCwRddesc (param : Byte) (sec : Bool) (s : State) : Host.Outcome State Fault Refusal :=
  .next (if s.up ∧ s.cw.en then s.cwLow 0x30 param sec else s)

/-- R605: Carnelian WRDESC writes a descriptor word under R348. -/
def execCwWrdesc (param : Byte) (sec : Bool) (s : State) : Host.Outcome State Fault Refusal :=
  .next (if s.up ∧ s.cw.en then s.cwLow 0x31 param sec else s)

/-- R603: A pending Carnelian command is released by its mailbox entries leaving, judged again and executed. -/
def execCwExecute (s : State) : Host.Outcome State Fault Refusal :=
  .next (if s.up then s.cwExecute else s)

/-- R604: CW_CTRL.CANCEL completes a pending command with RESULT CANCELLED. -/
def execCwCancel (s : State) : Host.Outcome State Fault Refusal :=
  .next (if s.up ∧ s.cw.en then s.cwCancel else s)

/-- R600: CW_CTRL.FLUSH empties the response FIFO. -/
def execCwRspFlush (s : State) : Host.Outcome State Fault Refusal :=
  .next (if s.up ∧ s.cw.en then s.cwFlush else s)

/-- R600: A read of CW_STAT returns DONE and then clears it, but for a DONE set in the same access. -/
def execCwStatRead (hw : Bool) (s : State) : Host.Outcome State Fault Refusal :=
  .next (if s.up ∧ s.cw.en then (s.cwStatRead hw).2 else s)

/-- R600: A read of CW_RSP pops a response entry, or sets RFERR when empty. -/
def execCwRspPop (s : State) : Host.Outcome State Fault Refusal :=
  .next (if s.up ∧ s.cw.en then s.cwPop.2 else s)

/-- R600: A write of CW_RSP pushes an entry, or sets RFERR when full. -/
def execCwRspPush (v : BitVec 16) (s : State) : Host.Outcome State Fault Refusal :=
  .next (if s.up ∧ s.cw.en then s.cwRspPush v else s)

/-- R604: A write of GL_COMPAT.CW_EN enables the window, and clearing it cancels a pending command. -/
def execCwEnableWrite (v : W32) (s : State) : Host.Outcome State Fault Refusal :=
  .next (if s.up then s.cwEnable v else s)

end Sys2Proof.Machine
end

