-- ==== Sys2Proof/Machine/ExecChannel.lean ====
section
/-! DEFINITION. The meanings of the commands of channels and mailboxes (spec/13). -/

namespace Sys2Proof.Machine

/-- R130: An accepted stamped mailbox post reaches its due instant and enters the path of bounded receive. -/
def execStampedEntryDue (t : Instant) (ch : Fin 256) (mb : Fin 4) (s : State) : Host.Outcome State Fault Refusal :=
  .next ((s.advance t).entryIn ch mb)

/-- R349: START in OFF checks the descriptor, claims and pool, binds LOWER and makes the channel READY. -/
def execChStart (r : Req) (ch : Fin 256) (s : State) : Host.Outcome State Fault Refusal :=
  .next ((s.busWrite r (0x1C0000 + 0x40 * ch.val) 4 0x01).2)

/-- R350: STOP takes a channel to STOPPED, or to DRAINING when it runs. -/
def execChStop (r : Req) (ch : Fin 256) (s : State) : Host.Outcome State Fault Refusal :=
  .next ((s.busWrite r (0x1C0000 + 0x40 * ch.val) 4 0x02).2)

/-- R354: ABORT with STOP or alone in DRAINING ends the run at the next instruction boundary. -/
def execChAbort (r : Req) (ch : Fin 256) (stop : Bool) (s : State) : Host.Outcome State Fault Refusal :=
  .next ((s.busWrite r (0x1C0000 + 0x40 * ch.val) 4 (if stop then 0x06 else 0x04)).2)

/-- R361: RESUME in STOPPED re-reads priority and affinity and makes the channel READY, or is recorded in DRAINING. -/
def execChResume (r : Req) (ch : Fin 256) (s : State) : Host.Outcome State Fault Refusal :=
  .next ((s.busWrite r (0x1C0000 + 0x40 * ch.val) 4 0x08).2)

/-- R352: DISCARD frees the channel's nodes, empties mailboxes, releases claims and returns it to OFF. -/
def execChDiscard (r : Req) (ch : Fin 256) (s : State) : Host.Outcome State Fault Refusal :=
  .next ((s.busWrite r (0x1C0000 + 0x40 * ch.val) 4 0x10).2)

/-- R354: FLUSH in STOPPED or FAULT empties the channel's mailboxes. -/
def execChFlush (r : Req) (ch : Fin 256) (s : State) : Host.Outcome State Fault Refusal :=
  .next ((s.busWrite r (0x1C0000 + 0x40 * ch.val) 4 0x20).2)

/-- R353: NOTE sets CHn_STAT.NOTE. -/
def execChNote (r : Req) (ch : Fin 256) (s : State) : Host.Outcome State Fault Refusal :=
  .next ((s.busWrite r (0x1C0000 + 0x40 * ch.val) 4 0x40).2)

/-- R360: A blocked channel's condition may hold, so it becomes READY or re-executes if resident. -/
def execChannelWake (t : Instant) (ch : Fin 256) (s : State) : Host.Outcome State Fault Refusal :=
  .next ((s.advance t).chWake ch)

/-- R348: A write to a descriptor word is permitted or refused according to its class and the channel state. -/
def execDescriptorWrite (r : Req) (ch : Fin 256) (w : Fin 128) (v : W32) (s : State) : Host.Outcome State Fault Refusal :=
  .next ((s.busWrite r (descAddr ch + 4 * w.val) 4 v.toNat).2)

/-- R364: A CH_POST_GO to a plain mailbox is accepted or refused for FULL. -/
def execPlainPost (r : Req) (ch : Fin 256) (mb : Fin 4) (s : State) : Host.Outcome State Fault Refusal :=
  .next (if !(s.chans.at ch).stmp mb then (s.busWrite r (0x1C4010) 4 (0x100 * ch.val + mb.val)).2 else s)

/-- R364: A CH_POST_GO to a stamped mailbox is judged for HORIZON, LATE and FULL. -/
def execStampedPost (r : Req) (ch : Fin 256) (mb : Fin 4) (s : State) : Host.Outcome State Fault Refusal :=
  .next (if (s.chans.at ch).stmp mb then (s.busWrite r (0x1C4010) 4 (0x100 * ch.val + mb.val)).2 else s)

end Sys2Proof.Machine
end

