-- ==== Sys2Proof/Machine/ExecDebug.lean ====
section
/-! DEFINITION. The meanings of the commands of debug and trace (spec/22). -/

namespace Sys2Proof.Machine

/-- R566, R576: A READ wire frame, with the header of R566 for `addr`, peeks a register without side effects. -/
def execDebugRead (addr : BitVec 24) (prompt : Bool) (s : State) : Host.Outcome State Fault Refusal :=
  .next (s.wireReadFrame .read (addr ++ (0 : BitVec 2)) prompt 0)

/-- R576: A CONSUME wire frame reads a register with its side effects. -/
def execDebugConsume (addr : BitVec 24) (prompt : Bool) (hw : W32) (s : State) : Host.Outcome State Fault Refusal :=
  .next (s.wireReadFrame .consume (addr ++ (0 : BitVec 2)) prompt hw)

/-- R569: A WRITE wire frame is answered and its access runs once DCRC is checked. -/
def execDebugWrite (addr : BitVec 24) (v : W32) (dcrc : Byte) (prompt : Bool) (hw : W32) (coll : List PortA)
    (s : State) : Host.Outcome State Fault Refusal :=
  .next (s.wireWriteFrame (addr ++ (0 : BitVec 2)) v dcrc prompt hw coll)

/-- R569: A debug access completes and its data is placed in DBG_RDBUF for the repeated request. -/
def execDebugAccessDone (hw : W32) (coll : List PortA) (s : State) : Host.Outcome State Fault Refusal :=
  .next (s.wireDone hw coll)

/-- R571: A frame with a bad SYNC, CMD or HCRC gets no response, sets HDRERR and the port enters LOST. -/
def execHeaderError (sync : BitVec 2) (cmd : BitVec 3) (addr : BitVec 24) (hcrc : BitVec 4)
    (s : State) : Host.Outcome State Fault Refusal :=
  .next (s.headerError sync cmd addr hcrc)

/-- R571: 80 consecutive 0 bits followed by a 1 reset the port's framing. -/
def execLineReset (s : State) : Host.Outcome State Fault Refusal :=
  .next s.lineReset

/-- R574: A write of DBG_AUTH.REQ sets the granted level, and a fall below FULL releases halts and clears catches. -/
def execAuthRequest (v : W32) (s : State) : Host.Outcome State Fault Refusal :=
  .next (s.portCmd 0x200008 v)

/-- R574: A secure write of DBG_ALLOW lowers the host limit on authorization. -/
def execAllowWrite (r : Req) (v : W32) (s : State) : Host.Outcome State Fault Refusal :=
  .next ((s.busWrite r (0x200100) 4 v.toNat).2)

/-- R577: A write of DBG_HALTREQ requests a halt of a sequencer. -/
def execHaltRequest (v : W32) (s : State) : Host.Outcome State Fault Refusal :=
  .next (s.portCmd 0x200104 v)

/-- R578: A sequencer enters HALT for a request, group, breakpoint, catch, trap or step and records HCAUSE. -/
def execSequencerHalt (n : Fin 16) (s : State) : Host.Outcome State Fault Refusal :=
  .next (s.takeHalt n)

/-- R578: A halt of a group member reaches the other members within 40 ns. -/
def execGroupHalt (n : Fin 16) (s : State) : Host.Outcome State Fault Refusal :=
  .next (s.takeGroupHalt n)

/-- R581: A write of DBG_RELEASE returns a halted sequencer to its state before the halt. -/
def execRelease (v : W32) (s : State) : Host.Outcome State Fault Refusal :=
  .next (s.portCmd 0x200108 v)

/-- R581: A write of DBG_STEP runs one instruction and halts again. -/
def execSingleStep (v : W32) (s : State) : Host.Outcome State Fault Refusal :=
  .next (s.portCmd 0x20010C v)

/-- R582: A write of DBG_SQn_GDATA sets the selected item of a halted sequencer, or sets ACCERR. -/
def execGdataWrite (n : Fin 16) (v : W32) (s : State) : Host.Outcome State Fault Refusal :=
  .next (s.portCmd (0x201008 + 0x40 * n.val) v)

/-- R583: A write of DBG_SQn_FEED runs one instruction of the halted channel and records RES. -/
def execInstructionFeed (n : Fin 16) (w : W32) (s : State) : Host.Outcome State Fault Refusal :=
  .next (s.portCmd (0x20100C + 0x40 * n.val) w)

/-- R584: GO in DBG_SQn_MCTRL makes one memory access through the halted sequencer's data path. -/
def execDebugMemoryAccess (n : Fin 16) (v : W32) (s : State) : Host.Outcome State Fault Refusal :=
  .next (s.portCmd (0x201020 + 0x40 * n.val) (v ||| 1))

/-- R589: A write of DBG_STIMk creates a STIM trace packet when enabled. -/
def execStimulusWrite (r : Req) (k : Fin 32) (v : W32) (s : State) : Host.Outcome State Fault Refusal :=
  .next ((s.busWrite r (0x200200 + 4 * k.val) 4 v.toNat).2)

/-- R591: A read of DBG_TRACE pops the head packet and latches its low half. -/
def execTraceRead (s : State) : Host.Outcome State Fault Refusal :=
  .next s.traceRead

end Sys2Proof.Machine
end

