-- ==== Sys2Proof/Machine/ExecEic.lean ====
section
/-! DEFINITION. The meanings of the commands of the event interrupt controller (spec/17). -/

namespace Sys2Proof.Machine

/-- R450: A unit asserts or deasserts an EIC source, which becomes pending, held, orphaned or idle. -/
def execSourceLevelChange (n : Fin 512) (s : State) : Host.Outcome State Fault Refusal :=
  .next (s.sourceChange n)

/-- R454: A target's request rises, driving IRQ_H0 or IRQ_H1 or making an arrival at E3 of its handler channel. -/
def execEicDelivery (tgt : Fin 18) (s : State) : Host.Outcome State Fault Refusal :=
  .next (s.deliver tgt)

/-- R451: A write of EIC_SETPEND sets a source's software latch. -/
def execEicSetpend (n : Fin 512) (s : State) : Host.Outcome State Fault Refusal :=
  .next (if s.up then s.setPend n else s)

/-- R451: A write of EIC_CLRPEND clears a source's software latch. -/
def execEicClrpend (n : Fin 512) (s : State) : Host.Outcome State Fault Refusal :=
  .next (if s.up then s.clrPend n else s)

/-- R456: A read of EIC_Tt_CLAIM claims the best eligible source or returns 1023. -/
def execEicClaim (tgt : Fin 18) (s : State) : Host.Outcome State Fault Refusal :=
  .next (if s.up then (s.claim tgt).2 else s)

/-- R458: A read of EIC_Tt_COMPLETE pops the target's stack and re-samples the source. -/
def execEicComplete (tgt : Fin 18) (s : State) : Host.Outcome State Fault Refusal :=
  .next (if s.up then (s.complete tgt s.sourceLevel).2 else s)

/-- R457: A write of EIC_SRCi changes priority and target mask and may orphan a pending source. -/
def execSourceConfigWrite (n : Fin 512) (v : W32) (s : State) : Host.Outcome State Fault Refusal :=
  .next (if s.up then s.srcWrite n v else s)

/-- R461: A write of EIC_Tt_CFG changes the target, and clearing EN empties its stack. -/
def execTargetConfigWrite (tgt : Fin 18) (v : W32) (s : State) : Host.Outcome State Fault Refusal :=
  .next (if s.up then s.targetCfg tgt v s.sourceLevel else s)

/-- R463: A write of EIC_MODg_CFG switches moderation on or off, releasing held sources when cleared. -/
def execModConfigWrite (g : Fin 32) (v : W32) (s : State) : Host.Outcome State Fault Refusal :=
  .next (if s.up then s.modCfg g v else s)

/-- R463: A moderation window ends, releasing held sources or returning the group to IDLE. -/
def execModWindowEnd (t : Instant) (g : Fin 32) (s : State) : Host.Outcome State Fault Refusal :=
  .next ((s.advance t).modWindowEnd g)

end Sys2Proof.Machine
end

