-- ==== Sys2Proof/Machine/ExecEngine.lean ====
section
/-! DEFINITION. The meanings of the commands of the pin engines (spec/07, spec/08). -/

namespace Sys2Proof.Machine

/-- R214: Setting PEn_CFG.EN with a valid configuration puts the engine in HALT, or refuses with CFGERR. -/
def execPeEnable (n : Fin 64) (v : W32) (s : State) : Host.Outcome State Fault Refusal :=
  .next (if s.engUp n ∧ !(s.engines.at n).en ∧ bit v 0 then s.peCfg n v else s)

/-- R215: Clearing EN turns the engine OFF at once or lets it drain to its next idle-marked instruction. -/
def execPeDisable (n : Fin 64) (v : W32) (s : State) : Host.Outcome State Fault Refusal :=
  .next (if s.engUp n ∧ (s.engines.at n).en ∧ !bit v 0 then s.peCfg n v else s)

/-- R215: ABORT written 1 during DRAINING stops the engine at the next step and pushes ABORT entries. -/
def execPeAbort (n : Fin 64) (v : W32) (s : State) : Host.Outcome State Fault Refusal :=
  .next (if s.engUp n ∧ (s.engines.at n).st = .draining ∧ bit v 1 then s.peCfg n v else s)

/-- R215: A pending ABORT entry is pushed to an output FIFO as soon as it has room. -/
def execPeAbortEntryPush (n : Fin 64) (s : State) : Host.Outcome State Fault Refusal :=
  .next (if s.engUp n then s.modEng n Engine.abortPush else s)

/-- R214: GO in HALT starts the engine at pc, or enters ERROR with PCBOUND. -/
def execPeGo (n : Fin 64) (s : State) : Host.Outcome State Fault Refusal :=
  .next (if s.engUp n then s.peGo n false false else s)

/-- R214: NEWPC with an applied GO sets pc to START and REP to 0. -/
def execPeNewpc (n : Fin 64) (clear : Bool) (s : State) : Host.Outcome State Fault Refusal :=
  .next (if s.engUp n then s.peGo n true clear else s)

/-- R214: CLEAR with an applied GO clears OSR, ISR, OCNT, ICNT, CV, EQ and LV. -/
def execPeClear (n : Fin 64) (s : State) : Host.Outcome State Fault Refusal :=
  .next (if s.engUp n then s.peGo n false true else s)

/-- R214: HALT stops a running, stalled or waiting engine between steps with its state kept. -/
def execPeHalt (n : Fin 64) (s : State) : Host.Outcome State Fault Refusal :=
  .next (if s.engUp n then s.peHalt n else s)

/-- R214: CLRERR takes the engine from ERROR to HALT or OFF and clears CAUSE. -/
def execPeClrerr (n : Fin 64) (s : State) : Host.Outcome State Fault Refusal :=
  .next (if s.engUp n then s.peClrErr n else s)

/-- R215: FLUSH_I in OFF, HALT or ERROR empties every unattached input FIFO. -/
def execPeFlushI (n : Fin 64) (s : State) : Host.Outcome State Fault Refusal :=
  .next (if s.engUp n then s.peFlushI n else s)

/-- R215: FLUSH_O in OFF, HALT or ERROR empties every unattached output FIFO. -/
def execPeFlushO (n : Fin 64) (s : State) : Host.Outcome State Fault Refusal :=
  .next (if s.engUp n then s.peFlushO n else s)

/-- R218: A write of PEn_FACC pushes PEn_FDATA and sideband into an input FIFO, or is refused or overflows. -/
def execPeFaccPush (n : Fin 64) (v : W32) (s : State) : Host.Outcome State Fault Refusal :=
  .next (if s.engUp n then s.faccPush n v else s)

/-- R218: A read of PEn_FACC pops the HSEL output FIFO into PEn_FDATA and returns its sideband. -/
def execPeFaccPop (n : Fin 64) (s : State) : Host.Outcome State Fault Refusal :=
  .next (if s.engUp n then (s.faccPop n).2 else s)

/-- R219: A write of PE_GRPg_IDATA sets the selected item of a halted or off engine, or sets CFGIGN. -/
def execInspectWrite (g : Fin 16) (v : W32) (s : State) : Host.Outcome State Fault Refusal :=
  .next (if s.engUp (s.inspected g) then s.inspectWrite g v else s)

/-- R212: A write to a group program memory word is refused when a running engine's bounds cover it. -/
def execProgramWordWrite (r : Req) (g : Fin 16) (w : Fin 256) (v : W32) (s : State) : Host.Outcome State Fault Refusal :=
  .next ((s.busWrite r (0x120000 + 0x400 * g.val + 4 * w.val) 4 v.toNat).2)

/-- R208: The clock generator enqueues the next toggle of CLKLANE as soon as the lane queue has room. -/
def execClockToggle (n : Fin 64) (s : State) : Host.Outcome State Fault Refusal :=
  .next (s.clkToggle n)

/-- R198: PULL takes the head entry of an input FIFO into OSR, or stalls while it is empty. -/
def execPePull (n : Fin 64) (s : State) : Host.Outcome State Fault Refusal :=
  .next (s.pePull n)

/-- R199: PUSH forms an entry from ISR or CT and pushes it to an output FIFO, stalling or dropping when full. -/
def execPePush (n : Fin 64) (s : State) : Host.Outcome State Fault Refusal :=
  .next (s.pePush n)

/-- R206: Each OUT step shifts bits of OSR onto the out set as stamped DRIVE actions and advances AT. -/
def execPeOut (n : Fin 64) (s : State) : Host.Outcome State Fault Refusal :=
  .next (s.peOut n)

/-- R227: Each IN step takes a released capture set and shifts its levels into ISR, with optional hunt compare. -/
def execPeIn (n : Fin 64) (s : State) : Host.Outcome State Fault Refusal :=
  .next (s.peIn n)

/-- R228: Each WAIT step takes a released capture set without shifting. -/
def execPeWait (n : Fin 64) (s : State) : Host.Outcome State Fault Refusal :=
  .next (s.peWait n)

/-- R229: SET enqueues one operation to every lane in LMASK at floor(AT) and may advance AT. -/
def execPeSet (n : Fin 64) (s : State) : Host.Outcome State Fault Refusal :=
  .next (s.peSet n)

/-- R230: SCHED sets AT from PS, from CT or relatively, and may arm the clock generator. -/
def execPeSched (n : Fin 64) (s : State) : Host.Outcome State Fault Refusal :=
  .next (s.peSched n)

/-- R232: CMP sets EQ from ISR or the CV levels against CMPVAL under CMPMASK. -/
def execPeCmp (n : Fin 64) (s : State) : Host.Outcome State Fault Refusal :=
  .next (s.peCmp n)

/-- R232: LDCMP loads one half of CMPVAL or CMPMASK. -/
def execPeLdcmp (n : Fin 64) (s : State) : Host.Outcome State Fault Refusal :=
  .next (s.peLdcmp n)

/-- R231: LDPER loads the engine's PERIOD. -/
def execPeLdper (n : Fin 64) (s : State) : Host.Outcome State Fault Refusal :=
  .next (s.peLdper n)

/-- R232: SIG sets SIGF and may fire the engine's Spinel channel. -/
def execPeSig (n : Fin 64) (s : State) : Host.Outcome State Fault Refusal :=
  .next (s.peSig n)

/-- R233: JMP sets pc to TARGET when its condition XOR N is 1. -/
def execPeJmp (n : Fin 64) (s : State) : Host.Outcome State Fault Refusal :=
  .next (s.peJmp n)

/-- R222: An engine reaching an illegal word enters ERROR with cause ILLEGAL. -/
def execPeIllegal (n : Fin 64) (s : State) : Host.Outcome State Fault Refusal :=
  .next (s.peIll n)

/-- R203: A capture set is released once every consume-set lane with an empty capture queue has a watermark above the
set's stamp, and an engine waiting in WAIT resumes. -/
def execCaptureSetRelease (t : Instant) (n : Fin 64) (s : State) : Host.Outcome State Fault Refusal :=
  .next ((s.advance t).setReleased n)

end Sys2Proof.Machine
end

