-- ==== Sys2Proof/Machine/ExecGuardian.lean ====
section
/-! DEFINITION. The meanings of the commands of the guardian channels (spec/15). -/

namespace Sys2Proof.Machine

/-- R416: Setting GDx_CFG.EN with a valid table puts the guardian channel in WAIT, or refuses with CFGERR. -/
def execGdEnable (x : Fin 2) (v : W32) (s : State) : Host.Outcome State Fault Refusal :=
  .next (if s.up ∧ !(s.gds.at x).en ∧ bit v 0 then s.gdCfg x v else s)

/-- R416: Clearing EN turns the guardian channel OFF or DRAINING. -/
def execGdDisable (x : Fin 2) (v : W32) (s : State) : Host.Outcome State Fault Refusal :=
  .next (if s.up ∧ (s.gds.at x).en ∧ !bit v 0 then s.gdCfg x v else s)

/-- R416: ABORT written 1 during DRAINING turns the guardian channel OFF. -/
def execGdAbort (x : Fin 2) (v : W32) (s : State) : Host.Outcome State Fault Refusal :=
  .next (if s.up ∧ (s.gds.at x).st = .draining ∧ bit v 2 then s.gdCfg x v else s)

/-- R416: CLRERR with EN 1 returns the guardian channel from ERROR to WAIT. -/
def execGdClrerr (x : Fin 2) (s : State) : Host.Outcome State Fault Refusal :=
  .next (if s.up then s.gdClrErr x else s)

/-- R416: FLUSHQ in OFF or ERROR empties the guardian receive queue. -/
def execFlushq (x : Fin 2) (s : State) : Host.Outcome State Fault Refusal :=
  .next (if s.up then s.gdFlushQ x else s)

/-- R394: DOM reaches the next cycle start, advancing the cycle count and the branch histories. -/
def execCycleStart (t : Instant) (x : Fin 2) (s : State) : Host.Outcome State Fault Refusal :=
  .next ((s.advance t).gdCycle x)

/-- R396: A slot window opens for its owner branch, truncating when RXD is already 0. -/
def execWindowOpen (t : Instant) (x : Fin 2) (slot : Fin 2048)
    (s : State) : Host.Outcome State Fault Refusal :=
  .next ((s.advance t).gdOpen x slot.val)

/-- R402: A slot window closes, cutting an active relay as a truncation. -/
def execWindowClose (t : Instant) (x : Fin 2) (s : State) : Host.Outcome State Fault Refusal :=
  .next ((s.advance t).gdClose x)

/-- R400: A falling edge on an owner's RXD in its open window starts a relay, or sets BLOCK or MULTI. The command carries
every edge of a branch's RXD, after which it reads `level`: the relay and the decoder follow them. -/
def execRelayStart (t : Instant) (x : Fin 2) (br : Fin 16) (level : Bool) (s : State) : Host.Outcome State Fault Refusal :=
  .next ((s.advance t).gdEdge x br t level)

/-- R400: RXD has been 1 for 2 × BT, so the relay ends and receivers' TXEN fall. -/
def execRelayEnd (t : Instant) (x : Fin 2) (s : State) : Host.Outcome State Fault Refusal :=
  .next ((s.advance t).gdRelayEnd x t)

/-- R399: A received frame is judged, written to its buffer, pushed to the queue and used for DEV. -/
def execGdFrameReceived (t : Instant) (x : Fin 2) (s : State) : Host.Outcome State Fault Refusal :=
  .next ((s.advance t).gdFrame x t)

/-- R407: At ts − 1,024 ns the local transmitter applies a pending commit and checks its guard. -/
def execTxLatch (t : Instant) (x : Fin 2) (slot : Fin 2048) (s : State) : Host.Outcome State Fault Refusal :=
  .next ((s.advance t).gdLatch x slot.val)

/-- R405: At ts the local transmitter sends the frame of a TX slot. -/
def execGdTxFrame (t : Instant) (x : Fin 2) (slot : Fin 2048) (s : State) : Host.Outcome State Fault Refusal :=
  .next ((s.advance t).gdSend x slot.val)

/-- R406: A write of GDx_TXCOMMIT makes a commit pending, or is refused or discarded late. -/
def execTxCommit (x : Fin 2) (v : W32) (s : State) : Host.Outcome State Fault Refusal :=
  .next (if s.up then s.gdCommit x v else s)

/-- R403: Writing a GD_READMIT bit makes an isolated branch ACTIVE with its history cleared. -/
def execReadmit (v : W32) (s : State) : Host.Outcome State Fault Refusal :=
  .next (if s.up then s.gdReadmit v else s)

end Sys2Proof.Machine
end

