-- ==== Sys2Proof/Machine/ExecHost.lean ====
section
/-! DEFINITION. The meanings of the commands of the host target port, the transfer engine and register writes (spec/02). -/

namespace Sys2Proof.Machine

/-- R20: A write to a register field that has no behaviour of its own sets or ignores the field according to its
access code. -/
def execRegisterWrite (r : Req) (addr : BitVec 26) (v : W32) (s : State) : Host.Outcome State Fault Refusal :=
  .next (if !memWindow addr.toNat then (s.busWrite r (addr.toNat) 4 v.toNat).2 else s)

/-- R51: A request is transferred on the host target port, accepted in order, executed and answered in order. -/
def execHostRequest (t : Instant) (r : HostReq) (pass : Bool) (s : State) : Host.Outcome State Fault Refusal :=
  .next ((s.advance t).hostRequest r pass)

/-- R53: A ready response is transferred on the HT response channel once HT_CLK runs and HT_RSP_READY is 1. -/
def execHostResponse (s : State) : Host.Outcome State Fault Refusal :=
  .next s.hostResponse

/-- R53: HT_RST_N or HI_RST_N resets only its adapter, which drops requests not yet passed and discards pending
responses. -/
def execAdapterReset (target level : Bool) (s : State) : Host.Outcome State Fault Refusal :=
  .next (s.adapterReset target level)

/-- R59: Writing 1 to HP_ERR_INFO.VALID clears both error registers and re-arms recording. -/
def execHpErrClear (s : State) : Host.Outcome State Fault Refusal :=
  .next (if s.up then s.hpErrClear else s)

/-- R64: Setting HP_XF_CTRL.EN moves the transfer engine from OFF to IDLE. -/
def execXfEnable (s : State) : Host.Outcome State Fault Refusal :=
  .next (if s.up then s.xfEnable else s)

/-- R65: GO in IDLE latches SYS, BLK, LEN and DIR and starts a transfer, or enters ERROR with cause PARAM. -/
def execXfGo (dir : Bool) (s : State) : Host.Outcome State Fault Refusal :=
  .next (if s.up then s.xfGo dir else s)

/-- R64: Clearing EN turns the engine OFF, or moves it to DRAINING with or without ABORT. -/
def execXfDisable (abort : Bool) (s : State) : Host.Outcome State Fault Refusal :=
  .next (if s.up ∧ s.xf.en then s.xfDisable abort else s)

/-- R63: The engine issues the next burst, sized by BURST, the remainder and the 4 KiB boundary, when fewer than
MAXOUT are outstanding; before it the interconnect takes `taken` write beats. -/
def execXfBurstIssue (t : Instant) (tag : Fin 8) (taken : Nat) (s : State) : Host.Outcome State Fault Refusal :=
  .next (((s.advance t).xfBeats taken).xfIssue tag)

/-- R62: A response beat of a burst is received, and the last response completes the transfer or a drain;
before it the interconnect takes `taken` write beats. -/
def execXfBurstResponse (tag : Fin 8) (status : BitVec 2) (data : W64) (last : Bool) (taken : Nat)
    (s : State) : Host.Outcome State Fault Refusal :=
  .next ((s.xfBeats taken).xfResponse tag status.toNat data last)

/-- R73: A burst response not received within TIMEOUT µs of TD0 sends the engine to ERROR with cause TIMEOUT. -/
def execXfTimeout (t : Instant) (s : State) : Host.Outcome State Fault Refusal :=
  .next ((s.advance t).xfTimeout)

/-- R64: Clearing DONE in ERROR returns the transfer engine to IDLE and clears CAUSE. -/
def execXfDoneClear (s : State) : Host.Outcome State Fault Refusal :=
  .next (if s.up then s.xfDoneClear else s)

end Sys2Proof.Machine
end

