-- ==== Sys2Proof/Machine/ExecLane.lean ====
section
/-! DEFINITION. The meanings of the commands of the lane cells (spec/04, spec/05). -/

namespace Sys2Proof.Machine

/-- R147: A level change on LN_IN is stamped and, if the filter accepts it, forms an EDGE or strobe capture. -/
def execLaneInputEdge (t : Instant) (lane : Fin 256) (level : Bool) (s : State) : Host.Outcome State Fault Refusal :=
  .next ((s.advance t).inputEdge lane t level)

/-- R140: An action entry enters a lane queue at most once per 4 ns and receives the lead test and late policy. -/
def execLaneEnqueue (t : Instant) (lane : Fin 256) (op : ActOp) (v : Bool) (td : Fin 8) (ns : BitVec 40)
    (s : State) : Host.Outcome State Fault Refusal :=
  .next (((s.advance t).enqLane lane op v td ns).1)

/-- R139: A DRIVE entry becomes due and drives the lane to V with output enabled. -/
def execActionDrive (t : Instant) (lane : Fin 256) (s : State) : Host.Outcome State Fault Refusal :=
  .next ((s.advance t).execAction lane .drive)

/-- R139: A FLOAT entry becomes due and releases the lane with the pull-up set to V. -/
def execActionFloat (t : Instant) (lane : Fin 256) (s : State) : Host.Outcome State Fault Refusal :=
  .next ((s.advance t).execAction lane .float)

/-- R139: A TOGGLE entry becomes due and inverts the held output value. -/
def execActionToggle (t : Instant) (lane : Fin 256) (s : State) : Host.Outcome State Fault Refusal :=
  .next ((s.advance t).execAction lane .toggle)

/-- R139: A REST entry becomes due and returns the lane to its rest-latch code. -/
def execActionRest (t : Instant) (lane : Fin 256) (s : State) : Host.Outcome State Fault Refusal :=
  .next ((s.advance t).execAction lane .rest)

/-- R148: A SAMPLE entry becomes due and takes a SAMPLE capture, triple-sampled when TRIPLE is 1. -/
def execActionSample (t : Instant) (lane : Fin 256) (s : State) : Host.Outcome State Fault Refusal :=
  .next ((s.advance t).execAction lane .sample)

/-- R139: A MARK entry becomes due and commits a MARK capture with value V. -/
def execActionMark (t : Instant) (lane : Fin 256) (s : State) : Host.Outcome State Fault Refusal :=
  .next ((s.advance t).execAction lane .mark)

/-- R142: At ge + 24 after a late entry under FAULT policy the lane enters FAULT and drives its rest level. -/
def execLaneFaultEntry (t : Instant) (lane : Fin 256) (s : State) : Host.Outcome State Fault Refusal :=
  .next ((s.advance t).laneFaultDue lane)

/-- R149: A capture is committed to the lane's capture queue exactly TWM ns after its stamp, or discarded when the
queue is full. -/
def execCaptureCommit (t : Instant) (lane : Fin 256) (s : State) : Host.Outcome State Fault Refusal :=
  .next ((s.advance t).commitCapture lane)

/-- R157: Setting LNn_CFG.EN takes every field, fixes TWM and puts the lane in RUN. -/
def execLaneEnable (lane : Fin 256) (v : W32) (s : State) : Host.Outcome State Fault Refusal :=
  .next (if s.laneUp lane ∧ !(s.lanes.at lane).en ∧ bit v 4 then s.laneCfgWrite lane v else s)

/-- R157: Clearing EN puts the lane in OFF, driving its rest level and keeping both queues. -/
def execLaneDisable (lane : Fin 256) (v : W32) (s : State) : Host.Outcome State Fault Refusal :=
  .next (if s.laneUp lane ∧ (s.lanes.at lane).en ∧ !bit v 4 then s.laneCfgWrite lane v else s)

/-- R160: A write to LNn_CFG with EN kept at 1 changes only REST and POLICY and sets CFGIGN for other changes. -/
def execLaneCfgWrite (lane : Fin 256) (v : W32) (s : State) : Host.Outcome State Fault Refusal :=
  .next (if s.laneUp lane ∧ (s.lanes.at lane).en ∧ bit v 4 then s.laneCfgWrite lane v else s)

/-- R157: LNn_CTRL.CLRFLT empties the action queue and returns a faulted lane to RUN or OFF. -/
def execClrflt (lane : Fin 256) (s : State) : Host.Outcome State Fault Refusal :=
  .next (if s.laneUp lane then s.laneClrFlt lane else s)

/-- R161: LNn_CTRL.FLUSH_A empties the lane's action queue. -/
def execFlushA (lane : Fin 256) (s : State) : Host.Outcome State Fault Refusal :=
  .next (if s.laneUp lane then s.laneFlushA lane else s)

/-- R161: LNn_CTRL.FLUSH_C empties the lane's capture queue. -/
def execFlushC (lane : Fin 256) (s : State) : Host.Outcome State Fault Refusal :=
  .next (if s.laneUp lane then s.laneFlushC lane else s)

end Sys2Proof.Machine
end

