-- ==== Sys2Proof/Machine/ExecMacro.lean ====
section
/-! DEFINITION. The meanings of the commands of the macro instructions (spec/10, spec/11, spec/12). -/

namespace Sys2Proof.Machine

/-- R272: An undefined encoding traps with ILLEGAL. -/
def execIllegalInstruction (n : Fin 16) (s : State) : Host.Outcome State Fault Refusal :=
  .next (s.macro_ n none)

/-- R277: ADD writes rs + rt and may set NZCV. -/
def execAdd (n : Fin 16) (s : State) : Host.Outcome State Fault Refusal :=
  .next (s.macro_ n (some .add))

/-- R277: SUB writes rs − rt and may set NZCV. -/
def execSub (n : Fin 16) (s : State) : Host.Outcome State Fault Refusal :=
  .next (s.macro_ n (some .sub))

/-- R277: ADC writes rs + rt + C. -/
def execAdc (n : Fin 16) (s : State) : Host.Outcome State Fault Refusal :=
  .next (s.macro_ n (some .adc))

/-- R277: SBC writes rs − rt − !C. -/
def execSbc (n : Fin 16) (s : State) : Host.Outcome State Fault Refusal :=
  .next (s.macro_ n (some .sbc))

/-- R278: ADDT adds and traps with ARITH on signed overflow. -/
def execAddt (n : Fin 16) (s : State) : Host.Outcome State Fault Refusal :=
  .next (s.macro_ n (some .addt))

/-- R278: SUBT subtracts and traps with ARITH on signed overflow. -/
def execSubt (n : Fin 16) (s : State) : Host.Outcome State Fault Refusal :=
  .next (s.macro_ n (some .subt))

/-- R277: CMP sets the flags of rs − rt without writing a register. -/
def execCmp (n : Fin 16) (s : State) : Host.Outcome State Fault Refusal :=
  .next (s.macro_ n (some .cmp))

/-- R277: AND writes rs & rt. -/
def execAnd (n : Fin 16) (s : State) : Host.Outcome State Fault Refusal :=
  .next (s.macro_ n (some .and))

/-- R277: OR writes rs | rt. -/
def execOr (n : Fin 16) (s : State) : Host.Outcome State Fault Refusal :=
  .next (s.macro_ n (some .or))

/-- R277: XOR writes rs ^ rt. -/
def execXor (n : Fin 16) (s : State) : Host.Outcome State Fault Refusal :=
  .next (s.macro_ n (some .xor))

/-- R277: ANDN writes rs & ~rt. -/
def execAndn (n : Fin 16) (s : State) : Host.Outcome State Fault Refusal :=
  .next (s.macro_ n (some .andn))

/-- R277: ORN writes rs | ~rt. -/
def execOrn (n : Fin 16) (s : State) : Host.Outcome State Fault Refusal :=
  .next (s.macro_ n (some .orn))

/-- R277: TST sets the flags of rs & rt. -/
def execTst (n : Fin 16) (s : State) : Host.Outcome State Fault Refusal :=
  .next (s.macro_ n (some .tst))

/-- R277: SLL shifts rs left by rt[4:0]. -/
def execSll (n : Fin 16) (s : State) : Host.Outcome State Fault Refusal :=
  .next (s.macro_ n (some .sll))

/-- R277: SRL shifts rs right with zero fill. -/
def execSrl (n : Fin 16) (s : State) : Host.Outcome State Fault Refusal :=
  .next (s.macro_ n (some .srl))

/-- R277: SRA shifts rs right with sign fill. -/
def execSra (n : Fin 16) (s : State) : Host.Outcome State Fault Refusal :=
  .next (s.macro_ n (some .sra))

/-- R277: ROR rotates rs right by rt[4:0]. -/
def execRor (n : Fin 16) (s : State) : Host.Outcome State Fault Refusal :=
  .next (s.macro_ n (some .ror))

/-- R277: MUL writes the low 32 bits of the product. -/
def execMul (n : Fin 16) (s : State) : Host.Outcome State Fault Refusal :=
  .next (s.macro_ n (some .mul))

/-- R277: MULHU writes the high 32 bits of the unsigned product. -/
def execMulhu (n : Fin 16) (s : State) : Host.Outcome State Fault Refusal :=
  .next (s.macro_ n (some .mulhu))

/-- R277: MULHS writes the high 32 bits of the signed product. -/
def execMulhs (n : Fin 16) (s : State) : Host.Outcome State Fault Refusal :=
  .next (s.macro_ n (some .mulhs))

/-- R278: DIVU writes the unsigned quotient, with defined division-by-zero results or ARITH. -/
def execDivu (n : Fin 16) (s : State) : Host.Outcome State Fault Refusal :=
  .next (s.macro_ n (some .divu))

/-- R278: DIVS writes the signed quotient truncated toward zero. -/
def execDivs (n : Fin 16) (s : State) : Host.Outcome State Fault Refusal :=
  .next (s.macro_ n (some .divs))

/-- R278: REMU writes the unsigned remainder. -/
def execRemu (n : Fin 16) (s : State) : Host.Outcome State Fault Refusal :=
  .next (s.macro_ n (some .remu))

/-- R278: REMS writes the signed remainder with the dividend's sign. -/
def execRems (n : Fin 16) (s : State) : Host.Outcome State Fault Refusal :=
  .next (s.macro_ n (some .rems))

/-- R277: MINS writes the signed minimum. -/
def execMins (n : Fin 16) (s : State) : Host.Outcome State Fault Refusal :=
  .next (s.macro_ n (some .mins))

/-- R277: MAXS writes the signed maximum. -/
def execMaxs (n : Fin 16) (s : State) : Host.Outcome State Fault Refusal :=
  .next (s.macro_ n (some .maxs))

/-- R277: MINU writes the unsigned minimum. -/
def execMinu (n : Fin 16) (s : State) : Host.Outcome State Fault Refusal :=
  .next (s.macro_ n (some .minu))

/-- R277: MAXU writes the unsigned maximum. -/
def execMaxu (n : Fin 16) (s : State) : Host.Outcome State Fault Refusal :=
  .next (s.macro_ n (some .maxu))

/-- R277: CLZ writes the count of leading zeros. -/
def execClz (n : Fin 16) (s : State) : Host.Outcome State Fault Refusal :=
  .next (s.macro_ n (some .clz))

/-- R277: CTZ writes the count of trailing zeros. -/
def execCtz (n : Fin 16) (s : State) : Host.Outcome State Fault Refusal :=
  .next (s.macro_ n (some .ctz))

/-- R277: POPC writes the number of 1 bits. -/
def execPopc (n : Fin 16) (s : State) : Host.Outcome State Fault Refusal :=
  .next (s.macro_ n (some .popc))

/-- R277: BSWAP reverses the bytes of rs. -/
def execBswap (n : Fin 16) (s : State) : Host.Outcome State Fault Refusal :=
  .next (s.macro_ n (some .bswap))

/-- R277: BREV reverses the bits of rs. -/
def execBrev (n : Fin 16) (s : State) : Host.Outcome State Fault Refusal :=
  .next (s.macro_ n (some .brev))

/-- R277: SLTS writes 1 when rs is signed-less than rt. -/
def execSlts (n : Fin 16) (s : State) : Host.Outcome State Fault Refusal :=
  .next (s.macro_ n (some .slts))

/-- R277: SLTU writes 1 when rs is unsigned-less than rt. -/
def execSltu (n : Fin 16) (s : State) : Host.Outcome State Fault Refusal :=
  .next (s.macro_ n (some .sltu))

/-- R279: SLLI shifts left by SA. -/
def execSlli (n : Fin 16) (s : State) : Host.Outcome State Fault Refusal :=
  .next (s.macro_ n (some .slli))

/-- R279: SRLI shifts right by SA with zero fill. -/
def execSrli (n : Fin 16) (s : State) : Host.Outcome State Fault Refusal :=
  .next (s.macro_ n (some .srli))

/-- R279: SRAI shifts right by SA with sign fill. -/
def execSrai (n : Fin 16) (s : State) : Host.Outcome State Fault Refusal :=
  .next (s.macro_ n (some .srai))

/-- R279: RORI rotates right by SA. -/
def execRori (n : Fin 16) (s : State) : Host.Outcome State Fault Refusal :=
  .next (s.macro_ n (some .rori))

/-- R279: EXTU extracts a zero-extended bitfield. -/
def execExtu (n : Fin 16) (s : State) : Host.Outcome State Fault Refusal :=
  .next (s.macro_ n (some .extu))

/-- R279: EXTS extracts a sign-extended bitfield. -/
def execExts (n : Fin 16) (s : State) : Host.Outcome State Fault Refusal :=
  .next (s.macro_ n (some .exts))

/-- R279: INS inserts a bitfield into rd. -/
def execIns (n : Fin 16) (s : State) : Host.Outcome State Fault Refusal :=
  .next (s.macro_ n (some .ins))

/-- R280: ADDI adds a sign-extended immediate. -/
def execAddi (n : Fin 16) (s : State) : Host.Outcome State Fault Refusal :=
  .next (s.macro_ n (some .addi))

/-- R280: ANDI ands a zero-extended immediate. -/
def execAndi (n : Fin 16) (s : State) : Host.Outcome State Fault Refusal :=
  .next (s.macro_ n (some .andi))

/-- R280: ORI ors a zero-extended immediate. -/
def execOri (n : Fin 16) (s : State) : Host.Outcome State Fault Refusal :=
  .next (s.macro_ n (some .ori))

/-- R280: XORI xors a zero-extended immediate. -/
def execXori (n : Fin 16) (s : State) : Host.Outcome State Fault Refusal :=
  .next (s.macro_ n (some .xori))

/-- R280: LUI loads an immediate into the upper half. -/
def execLui (n : Fin 16) (s : State) : Host.Outcome State Fault Refusal :=
  .next (s.macro_ n (some .lui))

/-- R280: CMPI sets the flags of rs minus a sign-extended immediate. -/
def execCmpi (n : Fin 16) (s : State) : Host.Outcome State Fault Refusal :=
  .next (s.macro_ n (some .cmpi))

/-- R280: TSTI sets the flags of rs and a zero-extended immediate. -/
def execTsti (n : Fin 16) (s : State) : Host.Outcome State Fault Refusal :=
  .next (s.macro_ n (some .tsti))

/-- R281: NOP does nothing. -/
def execNop (n : Fin 16) (s : State) : Host.Outcome State Fault Refusal :=
  .next (s.macro_ n (some .nop))

/-- R281: RDS reads a special register. -/
def execRds (n : Fin 16) (s : State) : Host.Outcome State Fault Refusal :=
  .next (s.macro_ n (some .rds))

/-- R281: WRS writes the RW fields of st. -/
def execWrs (n : Fin 16) (s : State) : Host.Outcome State Fault Refusal :=
  .next (s.macro_ n (some .wrs))

/-- R283: LDB loads a sign-extended byte. -/
def execLdb (n : Fin 16) (s : State) : Host.Outcome State Fault Refusal :=
  .next (s.macro_ n (some .ldb))

/-- R283: LDBU loads a zero-extended byte. -/
def execLdbu (n : Fin 16) (s : State) : Host.Outcome State Fault Refusal :=
  .next (s.macro_ n (some .ldbu))

/-- R283: LDH loads a sign-extended halfword. -/
def execLdh (n : Fin 16) (s : State) : Host.Outcome State Fault Refusal :=
  .next (s.macro_ n (some .ldh))

/-- R283: LDHU loads a zero-extended halfword. -/
def execLdhu (n : Fin 16) (s : State) : Host.Outcome State Fault Refusal :=
  .next (s.macro_ n (some .ldhu))

/-- R283: LDW loads an aligned word. -/
def execLdw (n : Fin 16) (s : State) : Host.Outcome State Fault Refusal :=
  .next (s.macro_ n (some .ldw))

/-- R286: LDWU loads a word at any byte address, split when it crosses a block. -/
def execLdwu (n : Fin 16) (s : State) : Host.Outcome State Fault Refusal :=
  .next (s.macro_ n (some .ldwu))

/-- R283: LDP loads an aligned 64-bit pair. -/
def execLdp (n : Fin 16) (s : State) : Host.Outcome State Fault Refusal :=
  .next (s.macro_ n (some .ldp))

/-- R283: STB stores a byte. -/
def execStb (n : Fin 16) (s : State) : Host.Outcome State Fault Refusal :=
  .next (s.macro_ n (some .stb))

/-- R283: STH stores a halfword. -/
def execSth (n : Fin 16) (s : State) : Host.Outcome State Fault Refusal :=
  .next (s.macro_ n (some .sth))

/-- R283: STW stores an aligned word. -/
def execStw (n : Fin 16) (s : State) : Host.Outcome State Fault Refusal :=
  .next (s.macro_ n (some .stw))

/-- R286: STWU stores a word at any byte address, split when it crosses a block. -/
def execStwu (n : Fin 16) (s : State) : Host.Outcome State Fault Refusal :=
  .next (s.macro_ n (some .stwu))

/-- R283: STP stores an aligned 64-bit pair. -/
def execStp (n : Fin 16) (s : State) : Host.Outcome State Fault Refusal :=
  .next (s.macro_ n (some .stp))

/-- R288: Bcc branches when its flag condition holds. -/
def execBcc (n : Fin 16) (s : State) : Host.Outcome State Fault Refusal :=
  .next (s.macro_ n (some .bcc))

/-- R289: BZ branches when rs is zero. -/
def execBz (n : Fin 16) (s : State) : Host.Outcome State Fault Refusal :=
  .next (s.macro_ n (some .bz))

/-- R289: BNZ branches when rs is not zero. -/
def execBnz (n : Fin 16) (s : State) : Host.Outcome State Fault Refusal :=
  .next (s.macro_ n (some .bnz))

/-- R289: BEQ branches when rs equals rt. -/
def execBeq (n : Fin 16) (s : State) : Host.Outcome State Fault Refusal :=
  .next (s.macro_ n (some .beq))

/-- R289: BNE branches when rs differs from rt. -/
def execBne (n : Fin 16) (s : State) : Host.Outcome State Fault Refusal :=
  .next (s.macro_ n (some .bne))

/-- R289: J jumps by a word offset. -/
def execJ (n : Fin 16) (s : State) : Host.Outcome State Fault Refusal :=
  .next (s.macro_ n (some .j))

/-- R289: CALL opens a window, saves the return offset in m7 and jumps. -/
def execCall (n : Fin 16) (s : State) : Host.Outcome State Fault Refusal :=
  .next (s.macro_ n (some .call))

/-- R289: JR jumps to rs plus an offset. -/
def execJr (n : Fin 16) (s : State) : Host.Outcome State Fault Refusal :=
  .next (s.macro_ n (some .jr))

/-- R289: CALLR opens a window and jumps to rs plus an offset. -/
def execCallr (n : Fin 16) (s : State) : Host.Outcome State Fault Refusal :=
  .next (s.macro_ n (some .callr))

/-- R289: RET closes the window and jumps to rs plus an offset. -/
def execRet (n : Fin 16) (s : State) : Host.Outcome State Fault Refusal :=
  .next (s.macro_ n (some .ret))

/-- R242: WOPEN opens a window above the current one, spilling if seven are valid. -/
def execWopen (n : Fin 16) (s : State) : Host.Outcome State Fault Refusal :=
  .next (s.macro_ n (some .wopen))

/-- R242: WCLOSE closes the current window, filling from the spill stack if needed. -/
def execWclose (n : Fin 16) (s : State) : Host.Outcome State Fault Refusal :=
  .next (s.macro_ n (some .wclose))

/-- R292: TRAP raises SWTRAP with its code as DETAIL. -/
def execTrap (n : Fin 16) (s : State) : Host.Outcome State Fault Refusal :=
  .next (s.macro_ n (some .trap))

/-- R298: NOW writes the floor of domain time at the instant of the instruction. -/
def execNow (n : Fin 16) (s : State) : Host.Outcome State Fault Refusal :=
  .next (s.macro_ n (some .now))

/-- R299: CONV converts a time between domains with the arithmetic of R110. -/
def execConv (n : Fin 16) (s : State) : Host.Outcome State Fault Refusal :=
  .next (s.macro_ n (some .conv))

/-- R300: EXP expands a 40-bit stamp against a reference. -/
def execExp (n : Fin 16) (s : State) : Host.Outcome State Fault Refusal :=
  .next (s.macro_ n (some .exp))

/-- R303: ENQL enqueues one stamped lane action, after register, half and horizon checks. -/
def execEnql (n : Fin 16) (s : State) : Host.Outcome State Fault Refusal :=
  .next (s.macro_ n (some .enql))

/-- R303: ENQE pushes a stamped entry to an engine input FIFO, blocking while it is full. -/
def execEnqe (n : Fin 16) (s : State) : Host.Outcome State Fault Refusal :=
  .next (s.macro_ n (some .enqe))

/-- R303: PUSHE pushes an unstamped entry to an engine input FIFO, blocking while it is full. -/
def execPushe (n : Fin 16) (s : State) : Host.Outcome State Fault Refusal :=
  .next (s.macro_ n (some .pushe))

/-- R306: DEQ pops the head entry of a path, blocking while it is empty. -/
def execDeq (n : Fin 16) (s : State) : Host.Outcome State Fault Refusal :=
  .next (s.macro_ n (some .deq))

/-- R306: TRYDEQ pops the head entry or reports the path empty. -/
def execTrydeq (n : Fin 16) (s : State) : Host.Outcome State Fault Refusal :=
  .next (s.macro_ n (some .trydeq))

/-- R306: BRECV performs a bounded receive with bound T, blocking until an outcome of R123 holds. -/
def execBrecv (n : Fin 16) (s : State) : Host.Outcome State Fault Refusal :=
  .next (s.macro_ n (some .brecv))

/-- R309: FIRE fires a Spinel channel, subject to ownership and security. -/
def execFire (n : Fin 16) (s : State) : Host.Outcome State Fault Refusal :=
  .next (s.macro_ n (some .fire))

/-- R309: WAITE takes one pending count from a masked event input, blocking while none is pending. -/
def execWaite (n : Fin 16) (s : State) : Host.Outcome State Fault Refusal :=
  .next (s.macro_ n (some .waite))

/-- R309: TRYE takes a pending count if any, otherwise sets Z. -/
def execTrye (n : Fin 16) (s : State) : Host.Outcome State Fault Refusal :=
  .next (s.macro_ n (some .trye))

/-- R310: LL loads a word and sets the reservation on its 64-bit word. -/
def execLl (n : Fin 16) (s : State) : Host.Outcome State Fault Refusal :=
  .next (s.macro_ n (some .ll))

/-- R310: SC stores if the reservation is valid and clears it. -/
def execSc (n : Fin 16) (s : State) : Host.Outcome State Fault Refusal :=
  .next (s.macro_ n (some .sc))

/-- R310: CLREX clears the reservation. -/
def execClrex (n : Fin 16) (s : State) : Host.Outcome State Fault Refusal :=
  .next (s.macro_ n (some .clrex))

/-- R312: RDC reads a context item. -/
def execRdc (n : Fin 16) (s : State) : Host.Outcome State Fault Refusal :=
  .next (s.macro_ n (some .rdc))

/-- R312: WRC writes TVEC. -/
def execWrc (n : Fin 16) (s : State) : Host.Outcome State Fault Refusal :=
  .next (s.macro_ n (some .wrc))

/-- R312: WSPILL spills every valid window other than the current one. -/
def execWspill (n : Fin 16) (s : State) : Host.Outcome State Fault Refusal :=
  .next (s.macro_ n (some .wspill))

/-- R312: FREL saves a dirty owned float bank and releases SQn_FOWN. -/
def execFrel (n : Fin 16) (s : State) : Host.Outcome State Fault Refusal :=
  .next (s.macro_ n (some .frel))

/-- R315: FADD adds two binary64 values. -/
def execFadd (n : Fin 16) (s : State) : Host.Outcome State Fault Refusal :=
  .next (s.macro_ n (some .fadd))

/-- R315: FSUB subtracts two binary64 values. -/
def execFsub (n : Fin 16) (s : State) : Host.Outcome State Fault Refusal :=
  .next (s.macro_ n (some .fsub))

/-- R315: FMUL multiplies two binary64 values. -/
def execFmul (n : Fin 16) (s : State) : Host.Outcome State Fault Refusal :=
  .next (s.macro_ n (some .fmul))

/-- R315: FDIV divides two binary64 values. -/
def execFdiv (n : Fin 16) (s : State) : Host.Outcome State Fault Refusal :=
  .next (s.macro_ n (some .fdiv))

/-- R315: FSQRT takes a binary64 square root. -/
def execFsqrt (n : Fin 16) (s : State) : Host.Outcome State Fault Refusal :=
  .next (s.macro_ n (some .fsqrt))

/-- R315: FMA performs a fused multiply-add. -/
def execFma (n : Fin 16) (s : State) : Host.Outcome State Fault Refusal :=
  .next (s.macro_ n (some .fma))

/-- R315: FNEG inverts the sign bit. -/
def execFneg (n : Fin 16) (s : State) : Host.Outcome State Fault Refusal :=
  .next (s.macro_ n (some .fneg))

/-- R315: FABS clears the sign bit. -/
def execFabs (n : Fin 16) (s : State) : Host.Outcome State Fault Refusal :=
  .next (s.macro_ n (some .fabs))

/-- R315: FMIN writes the minimum under R314. -/
def execFmin (n : Fin 16) (s : State) : Host.Outcome State Fault Refusal :=
  .next (s.macro_ n (some .fmin))

/-- R315: FMAX writes the maximum under R314. -/
def execFmax (n : Fin 16) (s : State) : Host.Outcome State Fault Refusal :=
  .next (s.macro_ n (some .fmax))

/-- R316: FCMP sets st flags from a float comparison. -/
def execFcmp (n : Fin 16) (s : State) : Host.Outcome State Fault Refusal :=
  .next (s.macro_ n (some .fcmp))

/-- R315: FCPY copies a q register. -/
def execFcpy (n : Fin 16) (s : State) : Host.Outcome State Fault Refusal :=
  .next (s.macro_ n (some .fcpy))

/-- R315: FRINT rounds to an integral value under RM. -/
def execFrint (n : Fin 16) (s : State) : Host.Outcome State Fault Refusal :=
  .next (s.macro_ n (some .frint))

/-- R317: FMVGQ moves a register pair into a q register. -/
def execFmvgq (n : Fin 16) (s : State) : Host.Outcome State Fault Refusal :=
  .next (s.macro_ n (some .fmvgq))

/-- R317: FMVQG moves a q register into a register pair. -/
def execFmvqg (n : Fin 16) (s : State) : Host.Outcome State Fault Refusal :=
  .next (s.macro_ n (some .fmvqg))

/-- R317: FCVTS converts a signed 64-bit integer to binary64. -/
def execFcvts (n : Fin 16) (s : State) : Host.Outcome State Fault Refusal :=
  .next (s.macro_ n (some .fcvts))

/-- R317: FCVTU converts an unsigned 64-bit integer to binary64. -/
def execFcvtu (n : Fin 16) (s : State) : Host.Outcome State Fault Refusal :=
  .next (s.macro_ n (some .fcvtu))

/-- R317: FTOS converts binary64 to a signed 64-bit integer. -/
def execFtos (n : Fin 16) (s : State) : Host.Outcome State Fault Refusal :=
  .next (s.macro_ n (some .ftos))

/-- R317: FTOU converts binary64 to an unsigned 64-bit integer. -/
def execFtou (n : Fin 16) (s : State) : Host.Outcome State Fault Refusal :=
  .next (s.macro_ n (some .ftou))

/-- R317: FLD loads a 64-bit word into a q register. -/
def execFld (n : Fin 16) (s : State) : Host.Outcome State Fault Refusal :=
  .next (s.macro_ n (some .fld))

/-- R317: FST stores a q register as a 64-bit word. -/
def execFst (n : Fin 16) (s : State) : Host.Outcome State Fault Refusal :=
  .next (s.macro_ n (some .fst))

/-- R317: RDFC reads the float control word. -/
def execRdfc (n : Fin 16) (s : State) : Host.Outcome State Fault Refusal :=
  .next (s.macro_ n (some .rdfc))

/-- R317: WRFC writes the float control word. -/
def execWrfc (n : Fin 16) (s : State) : Host.Outcome State Fault Refusal :=
  .next (s.macro_ n (some .wrfc))

/-- R318: YIELD requests a switch at the next boundary while the channel stays ready. -/
def execYield (n : Fin 16) (s : State) : Host.Outcome State Fault Refusal :=
  .next (s.macro_ n (some .yield))

/-- R318: STOP puts the running channel in STOPPED and raises its source. -/
def execStop (n : Fin 16) (s : State) : Host.Outcome State Fault Refusal :=
  .next (s.macro_ n (some .stop))

/-- R339: CUXN dispatches to customer microcode entry N, or traps with CUXNONE or SECURE. -/
def execCuxn (n : Fin 16) (s : State) : Host.Outcome State Fault Refusal :=
  .next (s.macro_ n (some .cux))

end Sys2Proof.Machine
end

