-- ==== Sys2Proof/Machine/ExecMemory.lean ====
section
/-! DEFINITION. The meanings of the commands of memories and control stores (spec/12, spec/14). -/

namespace Sys2Proof.Machine

/-- R342: A write to a control-store window word is refused or written to the selected or every running cluster. -/
def execCsWordWrite (r : Req) (w : Fin 16384) (v : W32) (s : State) : Host.Outcome State Fault Refusal :=
  .next ((s.busWrite r (0x1A0000 + 4 * w.val) 4 v.toNat).2)

/-- R342: A write to CS_PMk is refused or sets a patch map entry and clears VALID of the cluster. -/
def execCsPmWrite (r : Req) (k : Fin 64) (v : W32) (s : State) : Host.Outcome State Fault Refusal :=
  .next ((s.busWrite r (0x1B0100 + 4 * k.val) 4 v.toNat).2)

/-- R382: Every PERIOD ns the background test reads, complements and restores one word. -/
def execBistWord (t : Instant) (fail : Bool) (s : State) : Host.Outcome State Fault Refusal :=
  .next ((s.advance t).bistWord fail)

/-- R380: Writing 1 to MEM_UNC_INFO.VALID clears the record and re-arms it. -/
def execUncRearm (hw : Bool) (s : State) : Host.Outcome State Fault Refusal :=
  .next (if s.up then s.uncRearm hw else s)

/-- R377: Writing 1 to MEM_COLL_INFO.VALID clears the collision record and re-arms it. -/
def execCollRearm (hw : Bool) (s : State) : Host.Outcome State Fault Refusal :=
  .next (if s.up then s.collRearm hw else s)

/-- R387: A wipe trigger starts or extends an Agate wipe, refusing Agate accesses. -/
def execAgateWipe (r : Req) (s : State) : Host.Outcome State Fault Refusal :=
  .next ((s.busWrite r (0x60104) 4 1).2)

/-- R387: The last Agate word is written, locks clear, WIPES increments and DONE is set. -/
def execAgateWipeDone (s : State) : Host.Outcome State Fault Refusal :=
  .next s.agWipeDone

/-- R386: Writing 1 to an AG_WLOCK bit locks that Agate segment against writes. -/
def execAgWlockSet (r : Req) (v : W32) (s : State) : Host.Outcome State Fault Refusal :=
  .next ((s.busWrite r (0x6010C) 4 v.toNat).2)

end Sys2Proof.Machine
end

