-- ==== Sys2Proof/Machine/ExecPower.lean ====
section
/-! DEFINITION. The meanings of the commands of power, reset, supply, lease and last gasp (spec/20). -/

namespace Sys2Proof.Machine

/-- R79: A low level on SUPPLY_OK of at least 8 ns starts the supply-low condition within 20 ns; a rise starts the 10 µs of
its end. -/
def execSupplyOkFall (t : Instant) (level : Bool) (s : State) : Host.Outcome State Fault Refusal :=
  .next ((s.advance t).supplyLevel level)

/-- R79: SUPPLY_OK has been 1 for 10 µs of TD0, ending its cause of the supply-low condition. -/
def execSupplyLowEnd (t : Instant) (s : State) : Host.Outcome State Fault Refusal :=
  .next ((s.advance t).supplyEnd)

/-- R517: ON moves a half from OFF to UP. -/
def execHalfOn (h : Fin 2) (s : State) : Host.Outcome State Fault Refusal :=
  .next (s.halfOn h)

/-- R517: OFF moves a half from RUN or SLEEP to DOWN. -/
def execHalfOff (h : Fin 2) (s : State) : Host.Outcome State Fault Refusal :=
  .next (s.halfOff h)

/-- R517: RESET moves a half from RUN or SLEEP to UP, discarding its state. -/
def execHalfReset (h : Fin 2) (s : State) : Host.Outcome State Fault Refusal :=
  .next (s.halfRestart h false)

/-- R519: SLEEP moves a quiet half to ENTER and saves dirty float banks, or is refused. -/
def execHalfSleep (h : Fin 2) (s : State) : Host.Outcome State Fault Refusal :=
  .next (s.halfSleep h)

/-- R517: WAKE, a wake request or AUTOWAKE moves a sleeping half to WAKE, or is recorded in ENTER. -/
def execHalfWake (h : Fin 2) (s : State) : Host.Outcome State Fault Refusal :=
  .next (s.halfWake h)

/-- R517: The half's supply settles and reset releases, so it enters RUN and sets DONE. -/
def execHalfUpDone (h : Fin 2) (s : State) : Host.Outcome State Fault Refusal :=
  .next (s.halfUpDone h)

/-- R517: Every bank is saved, so the half enters SLEEP, or returns to RUN with SERR POOL. -/
def execHalfSleepDone (h : Fin 2) (s : State) : Host.Outcome State Fault Refusal :=
  .next (s.halfSleepDone h)

/-- R517: The wake completes, the half enters RUN and its EIC targets become AWAKE. -/
def execHalfWakeDone (h : Fin 2) (s : State) : Host.Outcome State Fault Refusal :=
  .next (s.halfWakeDone h)

/-- R517: The switches open and the half enters OFF. -/
def execHalfDownDone (h : Fin 2) (s : State) : Host.Outcome State Fault Refusal :=
  .next (s.halfDownDone h)

/-- R527: A write of PW_SUP_CFG changes FLOOR and FLOOREN, ending the canary cause at once when cleared. -/
def execSupCfgWrite (r : Req) (v : W32) (s : State) : Host.Outcome State Fault Refusal :=
  .next ((s.busWrite r (0x20008) 4 v.toNat).2)

/-- R530: The PW unit performs the next last-gasp register write, setting DONE after the last. -/
def execLastGaspWrite (s : State) : Host.Outcome State Fault Refusal :=
  .next s.gaspWrite

/-- R531: A write of a lease claim makes it live, releases it, or is ignored with EPERR. -/
def execLeaseClaim (r : Req) (h : Fin 2) (v : W32) (s : State) : Host.Outcome State Fault Refusal :=
  .next ((s.busWrite r (0x20034 + 4 * h.val) 4 v.toNat).2)

/-- R531: A live claim's time runs out and it becomes not live. -/
def execLeaseExpiry (t : Instant) (h : Fin 2) (s : State) : Host.Outcome State Fault Refusal :=
  .next ((s.advance t).leaseExpiry h)

/-- R533: A write of a battery-backed register is guarded, secured and refused when VBAT is out of range. -/
def execBbWrite (r : Req) (k : Fin 64) (v : W32) (s : State) : Host.Outcome State Fault Refusal :=
  .next ((s.busWrite r (0x40000 + 4 * k.val) 4 v.toNat).2)

/-- R523: VAO first applied or PORST_N asserted resets the always-on domain, common region, halves and adapters. -/
def execPowerOnReset (s : State) : Host.Outcome State Fault Refusal :=
  .next s.powerOn.tamperSettle

/-- R526: PORST_N is released and the PW registers take their reset values. -/
def execPorstNRelease (s : State) : Host.Outcome State Fault Refusal :=
  .next s.porstRelease

/-- R525: A recognised low on RST_N resets the common region and halves, cutting frames and holding outputs. -/
def execRstNAssert (s : State) : Host.Outcome State Fault Refusal :=
  .next s.rstAssert.tamperSettle

/-- R526: RST_N is released, the common region leaves reset, Beryl waits for BREF and halves with BOOTOFF 0 enter UP.
-/
def execRstNRelease (s : State) : Host.Outcome State Fault Refusal :=
  .next s.rstRelease

/-- R526: Memory set-up and the Agate wipe end and CREADY is set. -/
def execCommonReady (s : State) : Host.Outcome State Fault Refusal :=
  .next s.commonReady

/-- R523: VCORE is lost with VAO present, resetting as RST_N and losing memory contents. -/
def execVcoreLoss (s : State) : Host.Outcome State Fault Refusal :=
  .next s.vcoreLoss.tamperSettle

/-- R516: VBAT falls below 1.8 V and the battery domain loses its contents. -/
def execBatteryLoss (s : State) : Host.Outcome State Fault Refusal :=
  .next s.batteryLoss

/-- R538: VBAT returns and the battery domain initialises, resetting lifecycle and key hash and counting as a VCORE
loss. -/
def execBatteryInit (s : State) : Host.Outcome State Fault Refusal :=
  .next s.batteryInit.tamperSettle

/-- R588: A change of TEST_MODE acts as a PORST_N assertion. -/
def execTestModeChange (v : Bool) (s : State) : Host.Outcome State Fault Refusal :=
  .next ((s.testMode v).tamperSettle)

/-- R526: VCORE comes back into range with VAO present, so the host port answers again with the common region held in
reset until RST_N is released. -/
def execVcoreReturn (s : State) : Host.Outcome State Fault Refusal :=
  .next s.vcoreReturn

/-- R516: VAO is removed, and the always-on domain, the hold latches and the core lose their contents while the
outputs fall to the integrator's pad defaults. -/
def execVaoLoss (s : State) : Host.Outcome State Fault Refusal :=
  .next s.vaoLoss.tamperSettle

end Sys2Proof.Machine
end

