-- ==== Sys2Proof/Machine/ExecSecurity.lean ====
section
/-! DEFINITION. The meanings of the commands of lifecycle, loader and tamper (spec/21). -/

namespace Sys2Proof.Machine

/-- R80: KP_ACK rises, the block captures KP_KEY and lowers KP_REQ. -/
def execKeyAck (t : Instant) (level : Bool) (key : BitVec 256) (s : State) : Host.Outcome State Fault Refusal :=
  .next ((s.advance t).keyAck level key)

/-- R81: KP_ACK has not risen within 10 µs, so the key read fails and KP_REQ falls. -/
def execKeyReadTimeout (t : Instant) (s : State) : Host.Outcome State Fault Refusal :=
  .next ((s.advance t).keyTimeout)

/-- R542: A write of SEC_LC_REQ is judged and, if accepted, starts the CLEAR step of a transition. -/
def execLifecycleRequest (r : Req) (v : W32) (s : State) : Host.Outcome State Fault Refusal :=
  .next ((s.busWrite r (0x30008) 4 v.toNat).2)

/-- R543: CLEAR completes and COMMIT writes the new state, count and log entry, or is abandoned with GUARD. -/
def execLifecycleCommit (t : Instant) (s : State) : Host.Outcome State Fault Refusal :=
  .next ((s.advance t).lcCommit.tamperSettle)

/-- R549: SEC_LD_CTRL.GO starts a load in HEADER, or fails with BUSY. -/
def execLoaderGo (r : Req) (s : State) : Host.Outcome State Fault Refusal :=
  .next ((s.busWrite r (0x30010) 4 1).2)

/-- R549: SEC_LD_CTRL.ABORT rolls a load back with ERR ABORT. -/
def execLoaderAbort (r : Req) (s : State) : Host.Outcome State Fault Refusal :=
  .next ((s.busWrite r (0x30010) 4 2).2)

/-- R548: A write to a loader window half fills it, or is refused when the half is not FREE. -/
def execLoaderWindowWrite (r : Req) (h : Fin 2) (w : Fin 4096) (v : W32) (s : State) : Host.Outcome State Fault Refusal :=
  .next ((s.busWrite r (0x38000 + 0x4000 * h.val + 4 * w.val) 4 v.toNat).2)

/-- R548: A write of SEC_LD_FEED hands a filled half to the loader, or sets FEEDERR. -/
def execLoaderFeed (r : Req) (v : W32) (s : State) : Host.Outcome State Fault Refusal :=
  .next ((s.busWrite r (0x30014) 4 v.toNat).2)

/-- R551: The loader consumes a fed half, hashing, decrypting and writing sections, and frees it. -/
def execLoaderConsume (s : State) : Host.Outcome State Fault Refusal :=
  .next s.ldConsume

/-- R550: The header and table are consumed and checked, moving the loader to KEY or PASS, or to ROLLBACK. -/
def execLoaderHeaderDone (t : Instant) (s : State) : Host.Outcome State Fault Refusal :=
  .next ((s.advance t).ldHeaderDone)

/-- R549: Signature and tag verification ends, moving the loader to COMMIT or ROLLBACK. -/
def execLoaderVerifyDone (s : State) : Host.Outcome State Fault Refusal :=
  .next s.ldVerifyDone

/-- R552: COMMIT raises BB_SVN, sets locks, patch identity and header copies, and the load ends with DONE. -/
def execLoaderCommit (s : State) : Host.Outcome State Fault Refusal :=
  .next s.ldCommit

/-- R552: ROLLBACK zeroes every destination the load wrote and the load ends with DONE and ERR. -/
def execLoaderRollback (s : State) : Host.Outcome State Fault Refusal :=
  .next s.ldRollback

/-- R554: Writing 1 to SEC_STAT.CSLOCK locks a cluster's control-store window and patch map. -/
def execCslockSet (r : Req) (v : W32) (s : State) : Host.Outcome State Fault Refusal :=
  .next ((s.busWrite r (0x30004) 4 v.toNat).2)

/-- R555, R556: TAMPER[k] takes the level `v`, or (none) an enabled input held active for 1 µs sets TFLAG, logs an entry and
performs its action. -/
def execTamperEvent (t : Instant) (k : Fin 4) (v : Option Bool) (s : State) : Host.Outcome State Fault Refusal :=
  .next (match v with | some x => (s.advance t).tamperLevel k x | none => (s.advance t).tamperEvent k)

end Sys2Proof.Machine
end

