-- ==== Sys2Proof/Machine/ExecSequencer.lean ====
section
/-! DEFINITION. The meanings of the commands of sequencers and the save pool (spec/09). -/

namespace Sys2Proof.Machine

/-- R237: A write of SQ_CLk_IBCTL.INV invalidates every line of the cluster instruction buffer. -/
def execIbInvalidate (k : Fin 4) (s : State) : Host.Outcome State Fault Refusal :=
  .next (if s.halfUp (clusterHalf k) then s.ibInvalidate k else s)

/-- R262: Setting SQn_CFG.EN moves the sequencer from OFF to IDLE. -/
def execSqEnable (r : Req) (n : Fin 16) (v : W32) (s : State) : Host.Outcome State Fault Refusal :=
  .next (if !(s.seqs.at n).en ∧ bit v 0 then (s.busWrite r (0x180000 + 0x1000 * n.val) 4 v.toNat).2 else s)

/-- R262: Clearing EN turns the sequencer OFF, or DRAINING until the channel's switch point. -/
def execSqDisable (n : Fin 16) (v : W32) (s : State) : Host.Outcome State Fault Refusal :=
  .next (if s.seqUp n ∧ (s.seqs.at n).en ∧ !bit v 0 then s.seqEnableW n v else s)

/-- R262: A sequencer idle for NAPDLY µs enters NAP. -/
def execSqNap (t : Instant) (n : Fin 16) (s : State) : Host.Outcome State Fault Refusal :=
  .next ((s.advance t).seqNap n)

/-- R358: A channel becoming READY makes the scheduler request a switch on one eligible sequencer. -/
def execSchedulerRequest (ch : Fin 256) (s : State) : Host.Outcome State Fault Refusal :=
  .next ((s.autowake ch).schedule ch)

/-- R357: A sequencer begins switch-in dispatch, chooses its next channel and restores its context. -/
def execChannelDispatch (n : Fin 16) (s : State) : Host.Outcome State Fault Refusal :=
  .next (s.dispatchT n)

/-- R254: At an instruction boundary with a switch requested the sequencer saves the running channel's context. -/
def execSwitchOut (n : Fin 16) (s : State) : Host.Outcome State Fault Refusal :=
  .next (s.switchOutT n)

/-- R250: When a node becomes FREE, each sequencer in POOL retries its allocation and completes the interrupted work.
-/
def execPoolRetry (n : Fin 16) (s : State) : Host.Outcome State Fault Refusal :=
  .next (s.poolRetryT n)

/-- R247: A write of SQ_POOL_PUSH makes an UNOWNED node FREE, or sets PUSHERR. -/
def execPoolPush (x : Fin 512) (s : State) : Host.Outcome State Fault Refusal :=
  .next (if s.up then { s with pool := s.pool.push x } else s)

/-- R247: A read of SQ_POOL_POP removes the head FREE node and makes it UNOWNED. -/
def execPoolPop (s : State) : Host.Outcome State Fault Refusal :=
  .next (if s.up then { s with pool := s.pool.pop.2 } else s)

end Sys2Proof.Machine
end

