-- ==== Sys2Proof/Machine/ExecSpinel.lean ====
section
/-! DEFINITION. The meanings of the commands of Spinel (spec/19). -/

namespace Sys2Proof.Machine

/-- R500: A write of SN_FIRE fires an event on the channel, subject to security. -/
def execSnFireWrite (r : Req) (v : W32) (s : State) : Host.Outcome State Fault Refusal :=
  .next ((s.busWrite r (0xC0008) 4 v.toNat).2)

/-- R495: A fired event enters Spinel and is discarded, hop-dropped or scheduled to arrive 2 ns later. -/
def execEventEntry (t : Instant) (ch : Fin 256) (s : State) : Host.Outcome State Fault Refusal :=
  .next ((s.advance t).eventEntry ch)

/-- R497: An event arrives at every subscribing task input, adding pending counts or setting overflow. -/
def execEventArrival (t : Instant) (ch : Fin 256) (s : State) : Host.Outcome State Fault Refusal :=
  .next ((s.advance t).eventArrival ch)

/-- R506: An enabled LUT cell takes its input counts, updates levels, Q, Y and OUT and may fire OSN. -/
def execLutEvaluate (t : Instant) (c : Fin 32) (s : State) : Host.Outcome State Fault Refusal :=
  .next ((s.advance t).lutEvaluate c)

/-- R502: A count on a group's enable input switches the group ON. -/
def execGroupEnableEvent (t : Instant) (g : Fin 16) (s : State) : Host.Outcome State Fault Refusal :=
  .next ((s.advance t).groupEnable g)

/-- R502: A count on a group's disable input switches the group OFF. -/
def execGroupDisableEvent (t : Instant) (g : Fin 16) (s : State) : Host.Outcome State Fault Refusal :=
  .next ((s.advance t).groupDisable g)

/-- R512: An export takes a count and sets its FLAG, asserting its source with IE. -/
def execExportEvent (t : Instant) (k : Fin 16) (s : State) : Host.Outcome State Fault Refusal :=
  .next ((s.advance t).exportEvent k)

/-- R502: A write of SN_GRPCTRL switches groups ON and OFF. -/
def execGroupSwitch (v : W32) (s : State) : Host.Outcome State Fault Refusal :=
  .next (if s.up then s.groupSwitch v else s)

/-- R507: SN_LUTc_CTRL.CLR clears the cell's levels without firing. -/
def execLutClear (c : Fin 32) (s : State) : Host.Outcome State Fault Refusal :=
  .next (if s.up then s.lutClear c else s)

/-- R511: A write of SN_LUTc_CFG is applied or refused for closing a combinational loop. -/
def execLutCfgWrite (c : Fin 32) (v : W32) (s : State) : Host.Outcome State Fault Refusal :=
  .next (if s.up then s.lutCfg c v else s)

/-- R511: A write of SN_SUBi is applied or refused for security or loop closing. -/
def execSubscriptionWrite (r : Req) (k : Fin 648) (v : W32) (s : State) : Host.Outcome State Fault Refusal :=
  .next ((s.busWrite r (0xC2000 + 4 * k.val) 4 v.toNat).2)

/-- R500: A write of SN_CHn_CFG changes enable, group, owner and security, subject to the secure attribute. -/
def execSnChCfgWrite (r : Req) (ch : Fin 256) (v : W32) (s : State) : Host.Outcome State Fault Refusal :=
  .next ((s.busWrite r (0xC0100 + 4 * ch.val) 4 v.toNat).2)

end Sys2Proof.Machine
end

