-- ==== Sys2Proof/Machine/ExecStream.lean ====
section
/-! DEFINITION. The meanings of the commands of the stream fabric (spec/06). -/

namespace Sys2Proof.Machine

/-- R186: Setting SFn_CFG.EN with a valid configuration attaches the stream channel, or the enable is refused with
CFGERR. -/
def execSfEnable (n : Fin 128) (v : W32) (s : State) : Host.Outcome State Fault Refusal :=
  .next (if s.sfUp n ∧ !bit (s.streams.at n).cfg 0 ∧ bit v 0 then s.sfCfg n v else s)

/-- R187: Clearing EN turns the stream channel OFF or DRAINING, completing or aborting the frame in flight. -/
def execSfDisable (n : Fin 128) (v : W32) (s : State) : Host.Outcome State Fault Refusal :=
  .next (if s.sfUp n ∧ bit (s.streams.at n).cfg 0 ∧ !bit v 0 then s.sfCfg n v else s)

/-- R187: ABORT written 1 during DRAINING aborts the frame in flight at once. -/
def execSfAbort (n : Fin 128) (v : W32) (s : State) : Host.Outcome State Fault Refusal :=
  .next (if s.sfUp n ∧ (s.streams.at n).st = .draining ∧ bit v 3 then s.sfCfg n v else s)

/-- R169: GO in IDLE starts a SINGLE frame or a CHAIN walk of a TX stream channel. -/
def execSfGo (n : Fin 128) (s : State) : Host.Outcome State Fault Refusal :=
  .next (if s.sfUp n then s.sfGo n else s)

/-- R171: CONT in IDLE re-reads the LINK of the current descriptor and continues the chain if it is set. -/
def execSfCont (n : Fin 128) (coll : List PortA) (s : State) : Host.Outcome State Fault Refusal :=
  .next (if s.sfUp n then s.sfCont n coll else s)

/-- R187: FLUSH in OFF, IDLE or ERROR discards queued chain work or ring contents and records. -/
def execSfFlush (n : Fin 128) (s : State) : Host.Outcome State Fault Refusal :=
  .next (if s.sfUp n then s.sfFlush n else s)

/-- R186: CLRERR with EN 1 returns a stream channel from ERROR to IDLE. -/
def execSfClrerr (n : Fin 128) (s : State) : Host.Outcome State Fault Refusal :=
  .next (if s.sfUp n then s.sfClrErr n else s)

/-- R170: A TX channel reads a descriptor and its buffer from scratchpad through port B. -/
def execSfDescFetch (n : Fin 128) (coll : List PortA) (s : State) : Host.Outcome State Fault Refusal :=
  .next ((s.sfDescFetch n coll).sfSettle n)

/-- R180: A processed TX entry is pushed into the engine input FIFO when it has room. -/
def execSfTxEntry (n : Fin 128) (coll : List PortA) (s : State) : Host.Outcome State Fault Refusal :=
  .next ((s.sfTxEntry n coll).sfSettle n)

/-- R168: An RX channel takes an entry from the engine output FIFO, decodes it and writes data to the ring. -/
def execSfRxEntry (n : Fin 128) (coll : List PortA) (s : State) : Host.Outcome State Fault Refusal :=
  .next ((s.sfRxEntry n coll).sfSettle n)

/-- R179: A completion record is pushed to the completion FIFO once it has room, firing the SN event with EVTEN. -/
def execSfRecordPush (n : Fin 128) (s : State) : Host.Outcome State Fault Refusal :=
  .next ((s.sfRecPush n).sfSettle n)

/-- R179: A host read of SFn_CPL pops a completion record or returns 0 and sets FIFOERR. -/
def execSfCplPop (n : Fin 128) (s : State) : Host.Outcome State Fault Refusal :=
  .next (if s.sfUp n then (s.sfCplPop n).2 else s)

/-- R179: A host write of SFn_CPL pushes a record into the completion FIFO. -/
def execSfCplPush (n : Fin 128) (v : W32) (s : State) : Host.Outcome State Fault Refusal :=
  .next (if s.sfUp n then s.sfCplPush n v else s)

/-- R176: A write of SFn_RP takes effect only inside the consumed span, otherwise it sets RPERR. -/
def execSfRpWrite (n : Fin 128) (v : W32) (s : State) : Host.Outcome State Fault Refusal :=
  .next (if s.sfUp n then s.sfRp n v else s)

end Sys2Proof.Machine
end

