-- ==== Sys2Proof/Machine/ExecTime.lean ====
section
/-! DEFINITION. The meanings of the commands of Beryl and the time domains (spec/03). -/

namespace Sys2Proof.Machine

/-- R90: No BREF edge arrives for the loss time, so Beryl restarts its lock or enters LOST with TD0 frozen and timed
units held; with `level` true the edges come again. -/
def execBrefLoss (t : Instant) (level : Bool) (s : State) : Host.Outcome State Fault Refusal :=
  .next ((s.advance t).brefLevel level)

/-- R91: The delay line locks after 256 BREF edges, and Beryl enters RUN, or READY when HOLD is 1. -/
def execBerylLock (s : State) : Host.Outcome State Fault Refusal :=
  .next s.berylLock

/-- R88: TD0 passes its maximum, becomes 0 and sets BT_STAT.WRAP. -/
def execTd0Wrap (s : State) : Host.Outcome State Fault Refusal :=
  .next s.td0Wrap

/-- R92: BT_CTRL.LOAD in READY loads TD0 from BT_LOAD_HI:BT_LOAD_LO. -/
def execBtLoad (s : State) : Host.Outcome State Fault Refusal :=
  .next (if s.up then s.btLoad else s)

/-- R92: BT_CTRL.START in READY starts TD0 counting and Beryl enters RUN. -/
def execBtStart (s : State) : Host.Outcome State Fault Refusal :=
  .next (if s.up then s.btStart else s)

/-- R91: BT_CTRL.RESTART in LOST returns Beryl to WAIT_REF with TD0 kept. -/
def execBtRestart (s : State) : Host.Outcome State Fault Refusal :=
  .next (if s.up then s.btRestart else s)

/-- R97: BT_CTRL.SNAP copies TD0 and TD1 to TD7 into the snapshot registers at one ns and increments SNAPCNT. -/
def execBtSnap (s : State) : Host.Outcome State Fault Refusal :=
  .next (if s.up then s.btSnap else s)

/-- R96: With LATCH at 1, a read of a NOW_LO register copies the matching HI and FR values into the requester's
shadow. -/
def execNowLoRead (who : Master) (dom : Fin 8) (s : State) : Host.Outcome State Fault Refusal :=
  .next (if s.up then (s.nowLoRead who dom).2 else s)

/-- R111: A write of BT_CONV_CTRL converts BT_CONV_IN between domains under R110 before its response. -/
def execConversion (v : W32) (s : State) : Host.Outcome State Fault Refusal :=
  .next (if s.up then s.conversion v else s)

/-- R105: A TDn_CMD SET command starts a new segment at the given value, judged under R107. -/
def execTdSet (who : Master) (n : Fin 8) (whenAt : Bool) (s : State) : Host.Outcome State Fault Refusal :=
  .next (if s.up then s.tdCommand who n .set whenAt else s)

/-- R105: A TDn_CMD STEP command moves the domain by a signed amount, judged under R107. -/
def execTdStep (who : Master) (n : Fin 8) (whenAt : Bool) (s : State) : Host.Outcome State Fault Refusal :=
  .next (if s.up then s.tdCommand who n .step whenAt else s)

/-- R105: A TDn_CMD SLEW command starts a slew of the given amount at SLEW rate, judged under R107. -/
def execTdSlew (who : Master) (n : Fin 8) (whenAt : Bool) (s : State) : Host.Outcome State Fault Refusal :=
  .next (if s.up then s.tdCommand who n .slew whenAt else s)

/-- R105: A TDn_CMD RATE command sets the base rate of the domain, judged under R107. -/
def execTdRate (who : Master) (n : Fin 8) (whenAt : Bool) (s : State) : Host.Outcome State Fault Refusal :=
  .next (if s.up then s.tdCommand who n .rate whenAt else s)

/-- R107: A TDn_CMD CANCEL removes a pending command or ends a running slew, or is refused. -/
def execTdCancel (who : Master) (n : Fin 8) (whenAt : Bool) (s : State) : Host.Outcome State Fault Refusal :=
  .next (if s.up then s.tdCancel who n whenAt else s)

/-- R107: TD0 reaches the AT of a pending command, which takes effect and sets APPLIED. -/
def execTdApply (t : Instant) (n : Fin 8) (s : State) : Host.Outcome State Fault Refusal :=
  .next ((s.advance t).tdApply n)

/-- R106: A slew reaches its end instant, and the domain takes the end segment and sets SLEWEND. -/
def execSlewEnd (t : Instant) (n : Fin 8) (s : State) : Host.Outcome State Fault Refusal :=
  .next ((s.advance t).slewEnd n)

/-- R135: At the end of each 1 µs window, PW_CANARY takes the rates of both halves and PW_CANARY_MIN may fall. -/
def execCanaryUpdate (t : Instant) (north south : BitVec 16) (s : State) : Host.Outcome State Fault Refusal :=
  .next ((s.advance t).canaryUpdate north south)

end Sys2Proof.Machine
end

