-- ==== Sys2Proof/Machine/ExecTimer.lean ====
section
/-! DEFINITION. The meanings of the commands of the timer array and the watchdogs (spec/18). -/

namespace Sys2Proof.Machine

/-- R480: Setting TAn_CFG.EN with a valid configuration puts the timer in STOP, or sets CFGERR. -/
def execTimerEnable (n : Fin 64) (v : W32) (s : State) : Host.Outcome State Fault Refusal :=
  .next (if s.up ∧ !(s.ta.timers.at n).en ∧ bit v 0 then s.taCfg n v else s)

/-- R480: Clearing EN puts the timer in OFF at once. -/
def execTimerDisable (n : Fin 64) (v : W32) (s : State) : Host.Outcome State Fault Refusal :=
  .next (if s.up ∧ (s.ta.timers.at n).en ∧ !bit v 0 then s.taCfg n v else s)

/-- R468: A prescaler expiry, task-input count or chained carry advances CNT one step. -/
def execTimerTick (t : Instant) (n : Fin 64) (s : State) : Host.Outcome State Fault Refusal :=
  .next ((s.advance t).taTick n)

/-- R469: The count wraps and fires CO with its flag, events and action. -/
def execTimerCarry (n : Fin 64) (s : State) : Host.Outcome State Fault Refusal :=
  .next (s.taCarry n)

/-- R471: CNT equals CMP after a tick and fires MATCH with its flag, events and action. -/
def execTimerMatch (n : Fin 64) (s : State) : Host.Outcome State Fault Refusal :=
  .next (s.taMatch n)

/-- R472: START moves a stopped timer to RUN. -/
def execTimerStart (n : Fin 64) (s : State) : Host.Outcome State Fault Refusal :=
  .next (if s.up then s.taCtrl n 1 else s)

/-- R472: STOP moves a running or frozen timer to STOP. -/
def execTimerStop (n : Fin 64) (s : State) : Host.Outcome State Fault Refusal :=
  .next (if s.up then s.taCtrl n 2 else s)

/-- R473: RELOAD_NOW loads CNT with LIM or 0 at once. -/
def execTimerReloadNow (n : Fin 64) (s : State) : Host.Outcome State Fault Refusal :=
  .next (if s.up then s.taCtrl n 4 else s)

/-- R473: A write of TAn_LIM buffers or applies the new period and may fire PERIOD with LATE. -/
def execTimerLimWrite (n : Fin 64) (v : W32) (s : State) : Host.Outcome State Fault Refusal :=
  .next (if s.up then s.taLim n v else s)

/-- R475: With LATCH, a read of an even timer's CNT copies the odd timer's CNT into the requester's shadow. -/
def execTimerCntRead (who : Master) (n : Fin 64) (s : State) : Host.Outcome State Fault Refusal :=
  .next (if s.up then (s.taCntRead who n).2 else s)

/-- R476: TA_CTRL.SNAP copies all 64 counts into TAn_SNAP at one ns. -/
def execTimerSnapshot (s : State) : Host.Outcome State Fault Refusal :=
  .next (if s.up then s.taSnap else s)

/-- R478: TA_STAG_CTRL.GO arms a stagger start for the masked groups, or sets BUSY or LATE. -/
def execStaggerGo (mask : Byte) (s : State) : Host.Outcome State Fault Refusal :=
  .next (if s.up then s.stagGo mask else s)

/-- R478: TA_STAG_CTRL.CANCEL clears a pending stagger start. -/
def execStaggerCancel (s : State) : Host.Outcome State Fault Refusal :=
  .next (if s.up then s.stagCancel else s)

/-- R478: At TA_STAG_AT every stopped timer of the groups loads PHASE and enters RUN. -/
def execStaggerStart (t : Instant) (s : State) : Host.Outcome State Fault Refusal :=
  .next ((s.advance t).stagStart)

/-- R483: Setting or clearing ACk_CFG.EN moves the compare between OFF and IDLE. -/
def execCompareEnable (k : Fin 32) (v : W32) (s : State) : Host.Outcome State Fault Refusal :=
  .next (if s.up then s.acCfg k v else s)

/-- R483: ARM moves the compare to ARMED. -/
def execCompareArm (k : Fin 32) (s : State) : Host.Outcome State Fault Refusal :=
  .next (if s.up then s.acCtrl k 1 else s)

/-- R483: DISARM returns the compare to IDLE. -/
def execCompareDisarm (k : Fin 32) (s : State) : Host.Outcome State Fault Refusal :=
  .next (if s.up then s.acCtrl k 2 else s)

/-- R482: Domain time reaches VAL, the compare fires its action and event and re-arms with INC. -/
def execCompareFire (t : Instant) (k : Fin 32) (s : State) : Host.Outcome State Fault Refusal :=
  .next ((s.advance t).acFire k)

/-- R484: An accepted edge of the watched lane sets RISE or FALL and increments SEQ. -/
def execCapturePairUpdate (t : Instant) (k : Fin 16) (s : State) : Host.Outcome State Fault Refusal :=
  .next ((s.advance t).cpUpdate k)

/-- R487: Setting EN moves the watchdog to RUN with CNT loaded, and LOCK write locks it. -/
def execWatchdogEnable (w : Fin 2) (v : W32) (s : State) : Host.Outcome State Fault Refusal :=
  .next (if s.wdUp w then s.wdCfg w v else s)

/-- R485: A write of WDx_KICK reloads CNT with the correct key, or expires at once with a wrong key. -/
def execWatchdogKick (w : Fin 2) (v : W32) (s : State) : Host.Outcome State Fault Refusal :=
  .next (if s.wdUp w then s.wdKick w v else s)

/-- R485: At each TD0 multiple of 1,000 a running watchdog decrements CNT and may set WARNF. -/
def execWatchdogDecrement (t : Instant) (w : Fin 2) (s : State) : Host.Outcome State Fault Refusal :=
  .next ((s.advance t).wdDecrement w)

/-- R485: CNT reaches 0, setting EXPF, performing ACT and reloading. -/
def execWatchdogExpiry (w : Fin 2) (s : State) : Host.Outcome State Fault Refusal :=
  .next (s.wdExpiry w)

end Sys2Proof.Machine
end

