-- ==== Sys2Proof/Machine/Dispatch.lean ====
section
/-! DEFINITION. Which meaning each command has. -/

namespace Sys2Proof.Machine

/-- The effect of a command on everything but the queue. -/
def exec (i : Instr) (s : State) : Host.Outcome State Fault Refusal :=
  match i with
  | .registerWrite r addr v => Sys2Proof.Machine.execRegisterWrite r addr v s
  | .hostRequest t r pass => Sys2Proof.Machine.execHostRequest t r pass s
  | .hostResponse => Sys2Proof.Machine.execHostResponse s
  | .adapterReset target level => Sys2Proof.Machine.execAdapterReset target level s
  | .hpErrClear => Sys2Proof.Machine.execHpErrClear s
  | .xfEnable => Sys2Proof.Machine.execXfEnable s
  | .xfGo dir => Sys2Proof.Machine.execXfGo dir s
  | .xfDisable abort => Sys2Proof.Machine.execXfDisable abort s
  | .xfBurstIssue t tag taken => Sys2Proof.Machine.execXfBurstIssue t tag taken s
  | .xfBurstResponse tag status data last taken => Sys2Proof.Machine.execXfBurstResponse tag status data last taken s
  | .xfTimeout t => Sys2Proof.Machine.execXfTimeout t s
  | .xfDoneClear => Sys2Proof.Machine.execXfDoneClear s
  | .laneInputEdge t lane level => Sys2Proof.Machine.execLaneInputEdge t lane level s
  | .supplyOkFall t level => Sys2Proof.Machine.execSupplyOkFall t level s
  | .supplyLowEnd t => Sys2Proof.Machine.execSupplyLowEnd t s
  | .keyAck t level key => Sys2Proof.Machine.execKeyAck t level key s
  | .keyReadTimeout t => Sys2Proof.Machine.execKeyReadTimeout t s
  | .brefLoss t level => Sys2Proof.Machine.execBrefLoss t level s
  | .berylLock => Sys2Proof.Machine.execBerylLock s
  | .td0Wrap => Sys2Proof.Machine.execTd0Wrap s
  | .btLoad => Sys2Proof.Machine.execBtLoad s
  | .btStart => Sys2Proof.Machine.execBtStart s
  | .btRestart => Sys2Proof.Machine.execBtRestart s
  | .btSnap => Sys2Proof.Machine.execBtSnap s
  | .nowLoRead who dom => Sys2Proof.Machine.execNowLoRead who dom s
  | .conversion v => Sys2Proof.Machine.execConversion v s
  | .tdSet who n whenAt => Sys2Proof.Machine.execTdSet who n whenAt s
  | .tdStep who n whenAt => Sys2Proof.Machine.execTdStep who n whenAt s
  | .tdSlew who n whenAt => Sys2Proof.Machine.execTdSlew who n whenAt s
  | .tdRate who n whenAt => Sys2Proof.Machine.execTdRate who n whenAt s
  | .tdCancel who n whenAt => Sys2Proof.Machine.execTdCancel who n whenAt s
  | .tdApply t n => Sys2Proof.Machine.execTdApply t n s
  | .slewEnd t n => Sys2Proof.Machine.execSlewEnd t n s
  | .canaryUpdate t north south => Sys2Proof.Machine.execCanaryUpdate t north south s
  | .stampedEntryDue t ch mb => Sys2Proof.Machine.execStampedEntryDue t ch mb s
  | .laneEnqueue t lane op v td ns => Sys2Proof.Machine.execLaneEnqueue t lane op v td ns s
  | .actionDrive t lane => Sys2Proof.Machine.execActionDrive t lane s
  | .actionFloat t lane => Sys2Proof.Machine.execActionFloat t lane s
  | .actionToggle t lane => Sys2Proof.Machine.execActionToggle t lane s
  | .actionRest t lane => Sys2Proof.Machine.execActionRest t lane s
  | .actionSample t lane => Sys2Proof.Machine.execActionSample t lane s
  | .actionMark t lane => Sys2Proof.Machine.execActionMark t lane s
  | .laneFaultEntry t lane => Sys2Proof.Machine.execLaneFaultEntry t lane s
  | .captureCommit t lane => Sys2Proof.Machine.execCaptureCommit t lane s
  | .laneEnable lane v => Sys2Proof.Machine.execLaneEnable lane v s
  | .laneDisable lane v => Sys2Proof.Machine.execLaneDisable lane v s
  | .laneCfgWrite lane v => Sys2Proof.Machine.execLaneCfgWrite lane v s
  | .clrflt lane => Sys2Proof.Machine.execClrflt lane s
  | .flushA lane => Sys2Proof.Machine.execFlushA lane s
  | .flushC lane => Sys2Proof.Machine.execFlushC lane s
  | .sfEnable n v => Sys2Proof.Machine.execSfEnable n v s
  | .sfDisable n v => Sys2Proof.Machine.execSfDisable n v s
  | .sfAbort n v => Sys2Proof.Machine.execSfAbort n v s
  | .sfGo n => Sys2Proof.Machine.execSfGo n s
  | .sfCont n coll => Sys2Proof.Machine.execSfCont n coll s
  | .sfFlush n => Sys2Proof.Machine.execSfFlush n s
  | .sfClrerr n => Sys2Proof.Machine.execSfClrerr n s
  | .sfDescFetch n coll => Sys2Proof.Machine.execSfDescFetch n coll s
  | .sfTxEntry n coll => Sys2Proof.Machine.execSfTxEntry n coll s
  | .sfRxEntry n coll => Sys2Proof.Machine.execSfRxEntry n coll s
  | .sfRecordPush n => Sys2Proof.Machine.execSfRecordPush n s
  | .sfCplPop n => Sys2Proof.Machine.execSfCplPop n s
  | .sfCplPush n v => Sys2Proof.Machine.execSfCplPush n v s
  | .sfRpWrite n v => Sys2Proof.Machine.execSfRpWrite n v s
  | .peEnable n v => Sys2Proof.Machine.execPeEnable n v s
  | .peDisable n v => Sys2Proof.Machine.execPeDisable n v s
  | .peAbort n v => Sys2Proof.Machine.execPeAbort n v s
  | .peAbortEntryPush n => Sys2Proof.Machine.execPeAbortEntryPush n s
  | .peGo n => Sys2Proof.Machine.execPeGo n s
  | .peNewpc n clear => Sys2Proof.Machine.execPeNewpc n clear s
  | .peClear n => Sys2Proof.Machine.execPeClear n s
  | .peHalt n => Sys2Proof.Machine.execPeHalt n s
  | .peClrerr n => Sys2Proof.Machine.execPeClrerr n s
  | .peFlushI n => Sys2Proof.Machine.execPeFlushI n s
  | .peFlushO n => Sys2Proof.Machine.execPeFlushO n s
  | .peFaccPush n v => Sys2Proof.Machine.execPeFaccPush n v s
  | .peFaccPop n => Sys2Proof.Machine.execPeFaccPop n s
  | .inspectWrite g v => Sys2Proof.Machine.execInspectWrite g v s
  | .programWordWrite r g w v => Sys2Proof.Machine.execProgramWordWrite r g w v s
  | .clockToggle n => Sys2Proof.Machine.execClockToggle n s
  | .pePull n => Sys2Proof.Machine.execPePull n s
  | .pePush n => Sys2Proof.Machine.execPePush n s
  | .peOut n => Sys2Proof.Machine.execPeOut n s
  | .peIn n => Sys2Proof.Machine.execPeIn n s
  | .peWait n => Sys2Proof.Machine.execPeWait n s
  | .peSet n => Sys2Proof.Machine.execPeSet n s
  | .peSched n => Sys2Proof.Machine.execPeSched n s
  | .peCmp n => Sys2Proof.Machine.execPeCmp n s
  | .peLdcmp n => Sys2Proof.Machine.execPeLdcmp n s
  | .peLdper n => Sys2Proof.Machine.execPeLdper n s
  | .peSig n => Sys2Proof.Machine.execPeSig n s
  | .peJmp n => Sys2Proof.Machine.execPeJmp n s
  | .peIllegal n => Sys2Proof.Machine.execPeIllegal n s
  | .ibInvalidate k => Sys2Proof.Machine.execIbInvalidate k s
  | .sqEnable r n v => Sys2Proof.Machine.execSqEnable r n v s
  | .sqDisable n v => Sys2Proof.Machine.execSqDisable n v s
  | .sqNap t n => Sys2Proof.Machine.execSqNap t n s
  | .schedulerRequest ch => Sys2Proof.Machine.execSchedulerRequest ch s
  | .channelDispatch n => Sys2Proof.Machine.execChannelDispatch n s
  | .switchOut n => Sys2Proof.Machine.execSwitchOut n s
  | .poolRetry n => Sys2Proof.Machine.execPoolRetry n s
  | .poolPush x => Sys2Proof.Machine.execPoolPush x s
  | .poolPop => Sys2Proof.Machine.execPoolPop s
  | .illegalInstruction n => Sys2Proof.Machine.execIllegalInstruction n s
  | .add n => Sys2Proof.Machine.execAdd n s
  | .sub n => Sys2Proof.Machine.execSub n s
  | .adc n => Sys2Proof.Machine.execAdc n s
  | .sbc n => Sys2Proof.Machine.execSbc n s
  | .addt n => Sys2Proof.Machine.execAddt n s
  | .subt n => Sys2Proof.Machine.execSubt n s
  | .cmp n => Sys2Proof.Machine.execCmp n s
  | .and n => Sys2Proof.Machine.execAnd n s
  | .or n => Sys2Proof.Machine.execOr n s
  | .xor n => Sys2Proof.Machine.execXor n s
  | .andn n => Sys2Proof.Machine.execAndn n s
  | .orn n => Sys2Proof.Machine.execOrn n s
  | .tst n => Sys2Proof.Machine.execTst n s
  | .sll n => Sys2Proof.Machine.execSll n s
  | .srl n => Sys2Proof.Machine.execSrl n s
  | .sra n => Sys2Proof.Machine.execSra n s
  | .ror n => Sys2Proof.Machine.execRor n s
  | .mul n => Sys2Proof.Machine.execMul n s
  | .mulhu n => Sys2Proof.Machine.execMulhu n s
  | .mulhs n => Sys2Proof.Machine.execMulhs n s
  | .divu n => Sys2Proof.Machine.execDivu n s
  | .divs n => Sys2Proof.Machine.execDivs n s
  | .remu n => Sys2Proof.Machine.execRemu n s
  | .rems n => Sys2Proof.Machine.execRems n s
  | .mins n => Sys2Proof.Machine.execMins n s
  | .maxs n => Sys2Proof.Machine.execMaxs n s
  | .minu n => Sys2Proof.Machine.execMinu n s
  | .maxu n => Sys2Proof.Machine.execMaxu n s
  | .clz n => Sys2Proof.Machine.execClz n s
  | .ctz n => Sys2Proof.Machine.execCtz n s
  | .popc n => Sys2Proof.Machine.execPopc n s
  | .bswap n => Sys2Proof.Machine.execBswap n s
  | .brev n => Sys2Proof.Machine.execBrev n s
  | .slts n => Sys2Proof.Machine.execSlts n s
  | .sltu n => Sys2Proof.Machine.execSltu n s
  | .slli n => Sys2Proof.Machine.execSlli n s
  | .srli n => Sys2Proof.Machine.execSrli n s
  | .srai n => Sys2Proof.Machine.execSrai n s
  | .rori n => Sys2Proof.Machine.execRori n s
  | .extu n => Sys2Proof.Machine.execExtu n s
  | .exts n => Sys2Proof.Machine.execExts n s
  | .ins n => Sys2Proof.Machine.execIns n s
  | .addi n => Sys2Proof.Machine.execAddi n s
  | .andi n => Sys2Proof.Machine.execAndi n s
  | .ori n => Sys2Proof.Machine.execOri n s
  | .xori n => Sys2Proof.Machine.execXori n s
  | .lui n => Sys2Proof.Machine.execLui n s
  | .cmpi n => Sys2Proof.Machine.execCmpi n s
  | .tsti n => Sys2Proof.Machine.execTsti n s
  | .nop n => Sys2Proof.Machine.execNop n s
  | .rds n => Sys2Proof.Machine.execRds n s
  | .wrs n => Sys2Proof.Machine.execWrs n s
  | .ldb n => Sys2Proof.Machine.execLdb n s
  | .ldbu n => Sys2Proof.Machine.execLdbu n s
  | .ldh n => Sys2Proof.Machine.execLdh n s
  | .ldhu n => Sys2Proof.Machine.execLdhu n s
  | .ldw n => Sys2Proof.Machine.execLdw n s
  | .ldwu n => Sys2Proof.Machine.execLdwu n s
  | .ldp n => Sys2Proof.Machine.execLdp n s
  | .stb n => Sys2Proof.Machine.execStb n s
  | .sth n => Sys2Proof.Machine.execSth n s
  | .stw n => Sys2Proof.Machine.execStw n s
  | .stwu n => Sys2Proof.Machine.execStwu n s
  | .stp n => Sys2Proof.Machine.execStp n s
  | .bcc n => Sys2Proof.Machine.execBcc n s
  | .bz n => Sys2Proof.Machine.execBz n s
  | .bnz n => Sys2Proof.Machine.execBnz n s
  | .beq n => Sys2Proof.Machine.execBeq n s
  | .bne n => Sys2Proof.Machine.execBne n s
  | .j n => Sys2Proof.Machine.execJ n s
  | .call n => Sys2Proof.Machine.execCall n s
  | .jr n => Sys2Proof.Machine.execJr n s
  | .callr n => Sys2Proof.Machine.execCallr n s
  | .ret n => Sys2Proof.Machine.execRet n s
  | .wopen n => Sys2Proof.Machine.execWopen n s
  | .wclose n => Sys2Proof.Machine.execWclose n s
  | .trap n => Sys2Proof.Machine.execTrap n s
  | .now n => Sys2Proof.Machine.execNow n s
  | .conv n => Sys2Proof.Machine.execConv n s
  | .exp n => Sys2Proof.Machine.execExp n s
  | .enql n => Sys2Proof.Machine.execEnql n s
  | .enqe n => Sys2Proof.Machine.execEnqe n s
  | .pushe n => Sys2Proof.Machine.execPushe n s
  | .deq n => Sys2Proof.Machine.execDeq n s
  | .trydeq n => Sys2Proof.Machine.execTrydeq n s
  | .brecv n => Sys2Proof.Machine.execBrecv n s
  | .fire n => Sys2Proof.Machine.execFire n s
  | .waite n => Sys2Proof.Machine.execWaite n s
  | .trye n => Sys2Proof.Machine.execTrye n s
  | .ll n => Sys2Proof.Machine.execLl n s
  | .sc n => Sys2Proof.Machine.execSc n s
  | .clrex n => Sys2Proof.Machine.execClrex n s
  | .rdc n => Sys2Proof.Machine.execRdc n s
  | .wrc n => Sys2Proof.Machine.execWrc n s
  | .wspill n => Sys2Proof.Machine.execWspill n s
  | .frel n => Sys2Proof.Machine.execFrel n s
  | .fadd n => Sys2Proof.Machine.execFadd n s
  | .fsub n => Sys2Proof.Machine.execFsub n s
  | .fmul n => Sys2Proof.Machine.execFmul n s
  | .fdiv n => Sys2Proof.Machine.execFdiv n s
  | .fsqrt n => Sys2Proof.Machine.execFsqrt n s
  | .fma n => Sys2Proof.Machine.execFma n s
  | .fneg n => Sys2Proof.Machine.execFneg n s
  | .fabs n => Sys2Proof.Machine.execFabs n s
  | .fmin n => Sys2Proof.Machine.execFmin n s
  | .fmax n => Sys2Proof.Machine.execFmax n s
  | .fcmp n => Sys2Proof.Machine.execFcmp n s
  | .fcpy n => Sys2Proof.Machine.execFcpy n s
  | .frint n => Sys2Proof.Machine.execFrint n s
  | .fmvgq n => Sys2Proof.Machine.execFmvgq n s
  | .fmvqg n => Sys2Proof.Machine.execFmvqg n s
  | .fcvts n => Sys2Proof.Machine.execFcvts n s
  | .fcvtu n => Sys2Proof.Machine.execFcvtu n s
  | .ftos n => Sys2Proof.Machine.execFtos n s
  | .ftou n => Sys2Proof.Machine.execFtou n s
  | .fld n => Sys2Proof.Machine.execFld n s
  | .fst n => Sys2Proof.Machine.execFst n s
  | .rdfc n => Sys2Proof.Machine.execRdfc n s
  | .wrfc n => Sys2Proof.Machine.execWrfc n s
  | .yield n => Sys2Proof.Machine.execYield n s
  | .stop n => Sys2Proof.Machine.execStop n s
  | .cuxn n => Sys2Proof.Machine.execCuxn n s
  | .csWordWrite r w v => Sys2Proof.Machine.execCsWordWrite r w v s
  | .csPmWrite r k v => Sys2Proof.Machine.execCsPmWrite r k v s
  | .chStart r ch => Sys2Proof.Machine.execChStart r ch s
  | .chStop r ch => Sys2Proof.Machine.execChStop r ch s
  | .chAbort r ch stop => Sys2Proof.Machine.execChAbort r ch stop s
  | .chResume r ch => Sys2Proof.Machine.execChResume r ch s
  | .chDiscard r ch => Sys2Proof.Machine.execChDiscard r ch s
  | .chFlush r ch => Sys2Proof.Machine.execChFlush r ch s
  | .chNote r ch => Sys2Proof.Machine.execChNote r ch s
  | .channelWake t ch => Sys2Proof.Machine.execChannelWake t ch s
  | .descriptorWrite r ch w v => Sys2Proof.Machine.execDescriptorWrite r ch w v s
  | .plainPost r ch mb => Sys2Proof.Machine.execPlainPost r ch mb s
  | .stampedPost r ch mb => Sys2Proof.Machine.execStampedPost r ch mb s
  | .bistWord t fail => Sys2Proof.Machine.execBistWord t fail s
  | .uncRearm hw => Sys2Proof.Machine.execUncRearm hw s
  | .collRearm hw => Sys2Proof.Machine.execCollRearm hw s
  | .agateWipe r => Sys2Proof.Machine.execAgateWipe r s
  | .agateWipeDone => Sys2Proof.Machine.execAgateWipeDone s
  | .agWlockSet r v => Sys2Proof.Machine.execAgWlockSet r v s
  | .gdEnable x v => Sys2Proof.Machine.execGdEnable x v s
  | .gdDisable x v => Sys2Proof.Machine.execGdDisable x v s
  | .gdAbort x v => Sys2Proof.Machine.execGdAbort x v s
  | .gdClrerr x => Sys2Proof.Machine.execGdClrerr x s
  | .flushq x => Sys2Proof.Machine.execFlushq x s
  | .cycleStart t x => Sys2Proof.Machine.execCycleStart t x s
  | .windowOpen t x slot => Sys2Proof.Machine.execWindowOpen t x slot s
  | .windowClose t x => Sys2Proof.Machine.execWindowClose t x s
  | .relayStart t x br level => Sys2Proof.Machine.execRelayStart t x br level s
  | .relayEnd t x => Sys2Proof.Machine.execRelayEnd t x s
  | .gdFrameReceived t x => Sys2Proof.Machine.execGdFrameReceived t x s
  | .txLatch t x slot => Sys2Proof.Machine.execTxLatch t x slot s
  | .gdTxFrame t x slot => Sys2Proof.Machine.execGdTxFrame t x slot s
  | .txCommit x v => Sys2Proof.Machine.execTxCommit x v s
  | .readmit v => Sys2Proof.Machine.execReadmit v s
  | .abEnable k v => Sys2Proof.Machine.execAbEnable k v s
  | .abDisable k v => Sys2Proof.Machine.execAbDisable k v s
  | .abAbort k v => Sys2Proof.Machine.execAbAbort k v s
  | .abClrflt k => Sys2Proof.Machine.execAbClrflt k s
  | .recover k => Sys2Proof.Machine.execRecover k s
  | .abFlush k => Sys2Proof.Machine.execAbFlush k s
  | .txRequest k v => Sys2Proof.Machine.execTxRequest k v s
  | .txCancel k v => Sys2Proof.Machine.execTxCancel k v s
  | .txDue t k b => Sys2Proof.Machine.execTxDue t k b s
  | .abSof t k e => Sys2Proof.Machine.execAbSof t k e s
  | .abFrameSent t k => Sys2Proof.Machine.execAbFrameSent t k s
  | .abFrameReceived t k => Sys2Proof.Machine.execAbFrameReceived t k s
  | .abBusError t k e => Sys2Proof.Machine.execAbBusError t k e s
  | .abProtocolException t k => Sys2Proof.Machine.execAbProtocolException t k s
  | .abFaultEntry t k => Sys2Proof.Machine.execAbFaultEntry t k s
  | .abIntegDone t k => Sys2Proof.Machine.execAbIntegDone t k s
  | .busoffRecoveryDone t k => Sys2Proof.Machine.execBusoffRecoveryDone t k s
  | .sourceLevelChange n => Sys2Proof.Machine.execSourceLevelChange n s
  | .eicDelivery tgt => Sys2Proof.Machine.execEicDelivery tgt s
  | .eicSetpend n => Sys2Proof.Machine.execEicSetpend n s
  | .eicClrpend n => Sys2Proof.Machine.execEicClrpend n s
  | .eicClaim tgt => Sys2Proof.Machine.execEicClaim tgt s
  | .eicComplete tgt => Sys2Proof.Machine.execEicComplete tgt s
  | .sourceConfigWrite n v => Sys2Proof.Machine.execSourceConfigWrite n v s
  | .targetConfigWrite tgt v => Sys2Proof.Machine.execTargetConfigWrite tgt v s
  | .modConfigWrite g v => Sys2Proof.Machine.execModConfigWrite g v s
  | .modWindowEnd t g => Sys2Proof.Machine.execModWindowEnd t g s
  | .timerEnable n v => Sys2Proof.Machine.execTimerEnable n v s
  | .timerDisable n v => Sys2Proof.Machine.execTimerDisable n v s
  | .timerTick t n => Sys2Proof.Machine.execTimerTick t n s
  | .timerCarry n => Sys2Proof.Machine.execTimerCarry n s
  | .timerMatch n => Sys2Proof.Machine.execTimerMatch n s
  | .timerStart n => Sys2Proof.Machine.execTimerStart n s
  | .timerStop n => Sys2Proof.Machine.execTimerStop n s
  | .timerReloadNow n => Sys2Proof.Machine.execTimerReloadNow n s
  | .timerLimWrite n v => Sys2Proof.Machine.execTimerLimWrite n v s
  | .timerCntRead who n => Sys2Proof.Machine.execTimerCntRead who n s
  | .timerSnapshot => Sys2Proof.Machine.execTimerSnapshot s
  | .staggerGo mask => Sys2Proof.Machine.execStaggerGo mask s
  | .staggerCancel => Sys2Proof.Machine.execStaggerCancel s
  | .staggerStart t => Sys2Proof.Machine.execStaggerStart t s
  | .compareEnable k v => Sys2Proof.Machine.execCompareEnable k v s
  | .compareArm k => Sys2Proof.Machine.execCompareArm k s
  | .compareDisarm k => Sys2Proof.Machine.execCompareDisarm k s
  | .compareFire t k => Sys2Proof.Machine.execCompareFire t k s
  | .capturePairUpdate t k => Sys2Proof.Machine.execCapturePairUpdate t k s
  | .watchdogEnable w v => Sys2Proof.Machine.execWatchdogEnable w v s
  | .watchdogKick w v => Sys2Proof.Machine.execWatchdogKick w v s
  | .watchdogDecrement t w => Sys2Proof.Machine.execWatchdogDecrement t w s
  | .watchdogExpiry w => Sys2Proof.Machine.execWatchdogExpiry w s
  | .snFireWrite r v => Sys2Proof.Machine.execSnFireWrite r v s
  | .eventEntry t ch => Sys2Proof.Machine.execEventEntry t ch s
  | .eventArrival t ch => Sys2Proof.Machine.execEventArrival t ch s
  | .lutEvaluate t c => Sys2Proof.Machine.execLutEvaluate t c s
  | .groupEnableEvent t g => Sys2Proof.Machine.execGroupEnableEvent t g s
  | .groupDisableEvent t g => Sys2Proof.Machine.execGroupDisableEvent t g s
  | .exportEvent t k => Sys2Proof.Machine.execExportEvent t k s
  | .groupSwitch v => Sys2Proof.Machine.execGroupSwitch v s
  | .lutClear c => Sys2Proof.Machine.execLutClear c s
  | .lutCfgWrite c v => Sys2Proof.Machine.execLutCfgWrite c v s
  | .subscriptionWrite r k v => Sys2Proof.Machine.execSubscriptionWrite r k v s
  | .snChCfgWrite r ch v => Sys2Proof.Machine.execSnChCfgWrite r ch v s
  | .halfOn h => Sys2Proof.Machine.execHalfOn h s
  | .halfOff h => Sys2Proof.Machine.execHalfOff h s
  | .halfReset h => Sys2Proof.Machine.execHalfReset h s
  | .halfSleep h => Sys2Proof.Machine.execHalfSleep h s
  | .halfWake h => Sys2Proof.Machine.execHalfWake h s
  | .halfUpDone h => Sys2Proof.Machine.execHalfUpDone h s
  | .halfSleepDone h => Sys2Proof.Machine.execHalfSleepDone h s
  | .halfWakeDone h => Sys2Proof.Machine.execHalfWakeDone h s
  | .halfDownDone h => Sys2Proof.Machine.execHalfDownDone h s
  | .supCfgWrite r v => Sys2Proof.Machine.execSupCfgWrite r v s
  | .lastGaspWrite => Sys2Proof.Machine.execLastGaspWrite s
  | .leaseClaim r h v => Sys2Proof.Machine.execLeaseClaim r h v s
  | .leaseExpiry t h => Sys2Proof.Machine.execLeaseExpiry t h s
  | .bbWrite r k v => Sys2Proof.Machine.execBbWrite r k v s
  | .powerOnReset => Sys2Proof.Machine.execPowerOnReset s
  | .porstNRelease => Sys2Proof.Machine.execPorstNRelease s
  | .rstNAssert => Sys2Proof.Machine.execRstNAssert s
  | .rstNRelease => Sys2Proof.Machine.execRstNRelease s
  | .commonReady => Sys2Proof.Machine.execCommonReady s
  | .vcoreLoss => Sys2Proof.Machine.execVcoreLoss s
  | .batteryLoss => Sys2Proof.Machine.execBatteryLoss s
  | .batteryInit => Sys2Proof.Machine.execBatteryInit s
  | .testModeChange v => Sys2Proof.Machine.execTestModeChange v s
  | .lifecycleRequest r v => Sys2Proof.Machine.execLifecycleRequest r v s
  | .lifecycleCommit t => Sys2Proof.Machine.execLifecycleCommit t s
  | .loaderGo r => Sys2Proof.Machine.execLoaderGo r s
  | .loaderAbort r => Sys2Proof.Machine.execLoaderAbort r s
  | .loaderWindowWrite r h w v => Sys2Proof.Machine.execLoaderWindowWrite r h w v s
  | .loaderFeed r v => Sys2Proof.Machine.execLoaderFeed r v s
  | .loaderConsume => Sys2Proof.Machine.execLoaderConsume s
  | .loaderHeaderDone t => Sys2Proof.Machine.execLoaderHeaderDone t s
  | .loaderVerifyDone => Sys2Proof.Machine.execLoaderVerifyDone s
  | .loaderCommit => Sys2Proof.Machine.execLoaderCommit s
  | .loaderRollback => Sys2Proof.Machine.execLoaderRollback s
  | .cslockSet r v => Sys2Proof.Machine.execCslockSet r v s
  | .tamperEvent t k v => Sys2Proof.Machine.execTamperEvent t k v s
  | .debugRead addr prompt => Sys2Proof.Machine.execDebugRead addr prompt s
  | .debugConsume addr prompt hw => Sys2Proof.Machine.execDebugConsume addr prompt hw s
  | .debugWrite addr v dcrc prompt hw coll => Sys2Proof.Machine.execDebugWrite addr v dcrc prompt hw coll s
  | .debugAccessDone hw coll => Sys2Proof.Machine.execDebugAccessDone hw coll s
  | .headerError sync cmd addr hcrc => Sys2Proof.Machine.execHeaderError sync cmd addr hcrc s
  | .lineReset => Sys2Proof.Machine.execLineReset s
  | .authRequest v => Sys2Proof.Machine.execAuthRequest v s
  | .allowWrite r v => Sys2Proof.Machine.execAllowWrite r v s
  | .haltRequest v => Sys2Proof.Machine.execHaltRequest v s
  | .sequencerHalt n => Sys2Proof.Machine.execSequencerHalt n s
  | .groupHalt n => Sys2Proof.Machine.execGroupHalt n s
  | .release v => Sys2Proof.Machine.execRelease v s
  | .singleStep v => Sys2Proof.Machine.execSingleStep v s
  | .gdataWrite n v => Sys2Proof.Machine.execGdataWrite n v s
  | .instructionFeed n w => Sys2Proof.Machine.execInstructionFeed n w s
  | .debugMemoryAccess n v => Sys2Proof.Machine.execDebugMemoryAccess n v s
  | .stimulusWrite r k v => Sys2Proof.Machine.execStimulusWrite r k v s
  | .traceRead => Sys2Proof.Machine.execTraceRead s
  | .cwCmdHi v => Sys2Proof.Machine.execCwCmdHi v s
  | .cwNop param sec => Sys2Proof.Machine.execCwNop param sec s
  | .cwStart param sec => Sys2Proof.Machine.execCwStart param sec s
  | .cwStop param sec => Sys2Proof.Machine.execCwStop param sec s
  | .cwAbort param sec => Sys2Proof.Machine.execCwAbort param sec s
  | .cwResume param sec => Sys2Proof.Machine.execCwResume param sec s
  | .cwDiscard param sec => Sys2Proof.Machine.execCwDiscard param sec s
  | .cwFlush param sec => Sys2Proof.Machine.execCwFlush param sec s
  | .cwNote param sec => Sys2Proof.Machine.execCwNote param sec s
  | .cwPost param sec => Sys2Proof.Machine.execCwPost param sec s
  | .cwStat param sec => Sys2Proof.Machine.execCwStat param sec s
  | .cwMbx param sec => Sys2Proof.Machine.execCwMbx param sec s
  | .cwRddesc param sec => Sys2Proof.Machine.execCwRddesc param sec s
  | .cwWrdesc param sec => Sys2Proof.Machine.execCwWrdesc param sec s
  | .cwExecute => Sys2Proof.Machine.execCwExecute s
  | .cwCancel => Sys2Proof.Machine.execCwCancel s
  | .cwRspFlush => Sys2Proof.Machine.execCwRspFlush s
  | .cwStatRead hw => Sys2Proof.Machine.execCwStatRead hw s
  | .cwRspPop => Sys2Proof.Machine.execCwRspPop s
  | .cwRspPush v => Sys2Proof.Machine.execCwRspPush v s
  | .cwEnableWrite v => Sys2Proof.Machine.execCwEnableWrite v s
  | .captureSetRelease t n => Sys2Proof.Machine.execCaptureSetRelease t n s
  | .vcoreReturn => Sys2Proof.Machine.execVcoreReturn s
  | .vaoLoss => Sys2Proof.Machine.execVaoLoss s

end Sys2Proof.Machine
end

