-- ==== Sys2Proof/Safety.lean ====
section
/-! DEFINITION. What the claims say of a state and of a run: the invariant, and the situations that the claims name. -/

namespace Sys2Proof.Machine

/-- The invariant: the bytes of the memories, the words of the other addressed stores and the event counts are in their canonical
form, and the queues that the spec bounds hold no more than they can (R51: 16 requests without a response transferred; R600: eight
entries). -/
structure State.Inv (s : State) : Prop where
  mem : Memory.wf s.mem = true
  prog : ∀ g, sparseWf 0 (s.groups.at g).prog = true
  store : ∀ k, sparseWf 0 (s.cs.copies.at k).words = true
  bufs : ∀ x, sparseWf 0 (s.gds.at x).bufs = true
  rbw : ∀ k, sparseWf 0 (s.abs_.at k).rbw = true
  counts : sparseWf [] s.sn.counts = true
  rsp : s.cw.rsp.length ≤ 8
  hp : s.hp.reqs.length + s.hp.resps.length ≤ 16

/-- Where control goes after the instruction at pc: the next word, or PCLO after PCHI with WRAP; none outside the bounds (R211). -/
def Engine.nextPc (e : Engine) : Option Nat :=
  if e.pc.toNat = e.pchi then if e.wrap then some e.pclo else none
  else if e.pclo ≤ e.pc.toNat + 1 ∧ e.pc.toNat + 1 ≤ e.pchi then some (e.pc.toNat + 1) else none

/-- An engine in RUN, STALL or WAIT, which nothing asks to stop, is at the legal word `w`, of which `r` steps are left. -/
def State.engineAt (s : State) (n : Fin 64) (w : W32) (r : Nat) : Prop :=
  let e := s.engines.at n
  s.engUp n = true ∧ (e.st = .run ∨ e.st = .stall ∨ e.st = .wait) ∧ e.stop = none ∧ s.peWord n = w ∧ e.legal w = true ∧
    r = if e.rep = 0 then e.count w else e.rep

/-- What every reset of the common region leaves (R523): its units and both halves at their reset values, with the rest
latches and pads of the lanes kept; no sequencer and no timer runs. -/
def State.RegionReset (s z : State) : Prop :=
  z.beryl = .reset ∧ z.xf = .reset ∧ z.key = s.key.clear ∧
    (z.chans = Bank.fill 256 .reset ∨ z.chans = Bank.fill 256 { Channel.reset with mbClean := true }) ∧
    z.posts = Bank.fill 18 .reset ∧ z.ibufs = Bank.fill 4 .reset ∧ z.pool = .reset ∧
    z.engines = Bank.fill 64 .reset ∧ z.groups = Bank.fill 16 .reset ∧
    z.streams = Bank.fill 128 .reset ∧ z.crcs = Bank.fill 32 .reset ∧
    z.bss = Bank.fill 16 0 ∧ z.lcs = Bank.fill 16 0 ∧ z.gds = s.gds.map Guardian.cleared ∧
    z.abs_ = Bank.fill 16 .reset ∧ z.sn = .reset ∧ z.eic = .reset ∧ z.cs = .reset ∧ z.sec = .reset ∧ z.cw = .reset ∧
    (∀ n, z.lanes.at n = .reset (s.lanes.at n).rest (s.lanes.at n).level ∨ z.lanes.at n = .reset 0 (s.lanes.at n).level) ∧
    (∀ n, (z.seqs.at n).st = .off) ∧ (∀ n, (z.ta.timers.at n).st = .off) ∧ (∀ w, (z.ta.dogs.at w).st = .off) ∧
    z.power.crst = true ∧ z.power.cready = false ∧ ∀ h, (z.power.halves.at h).st = .off

/-- `z` is `s` after its load has failed with `e`: it is in ROLLBACK, KP_REQ is low, and Agate is wiped where the load had
written to it (R549, R552). -/
def State.LoadFailed (s z : State) (e : Nat) : Prop :=
  z = { s with
    sec := { s.sec with ld := { s.sec.ld with st := .rollback, err := e, fed := [] } }
    key := { s.key with req := false, waits := false }, mem := z.mem, seqs := z.seqs } ∧
  (s.sec.ld.agWritten = false → z.mem = s.mem ∧ z.seqs = s.seqs) ∧
  (s.sec.ld.agWritten = true → z.mem.wiping = true ∧ ∀ e, e ∈ z.mem.cells ↔ e ∈ s.mem.cells ∧ memOf e.1 ≠ some 1)

/-- Sequencer `n` is at a boundary with its channel running and no halt due, and the word at pc, whose fetch and whose vendor
microcode leave `z`, is `w`, an instruction `m` that no fetch from patch RAM replaces (R236, R264, R272, R323, R341, R577). -/
structure State.At (s : State) (n : Fin 16) (m : Mn) (w : W32) (z : State) : Prop where
  runs : s.runnable n = true
  free : s.haltFree n (some w) = true
  word : s.begin_ n = (.word w, z)
  code : decodeMacro w = some m
  own : z.patched n (.instr w) = false

/-- `z` after an instruction of sequencer `n` of `k` microwords that changes its registers by `f` and goes on at `p`. -/
def State.after (z : State) (n : Fin 16) (k : Nat) (p : W32) (f : Seq → Seq) : State :=
  { z with
    seqs := z.seqs.mod n fun q => { f q with pc := p, uwcnt := q.uwcnt + BitVec.ofNat 32 k }
    dbg := { z.dbg with sqs := z.dbg.sqs.mod n fun x => { x with exempt := false } } }

/-- `z` after an instruction of sequencer `n` that traps with `t` after `k` microwords. -/
def State.trapsTo (z : State) (n : Fin 16) (k : Nat) (t : Trap) : State :=
  (z.takeTrap n k t).ran n

end Sys2Proof.Machine
end

