-- ==== Sys2Proof/Certificates/Slice0/Obligations.lean ====
section
/-! DEFINITION. The statements about the block. A command that comes at an instant `t` first moves TD0 to it: `s.advance t` is the
machine at that instant (log entry 1, DESIGN CHOICE; TimeAdvances says what it is). A command whose condition does not hold changes
nothing but the time (log entry 2, DESIGN CHOICE). -/

open Sys2Proof Sys2Proof.Machine

/-- A step takes the command at the front of the queue and carries it out on the state with the queue's rest. The queue is the
model's own form of the world outside; no rule of the spec names it (log entry 1). -/
def Obligations.StepRunsTheFrontCommand : Prop :=
  ∀ (c : Instr) (r : List Instr) (s : State), s.pending = c :: r → step s = exec c { s with pending := r }

/-- On an empty queue the block idles (log entry 1, DESIGN CHOICE). No command changes the queue of the commands that wait (log
entry 1). -/
def Obligations.QueueIsTheWorldOutside : Prop :=
  (∀ s : State, s.pending = [] → step s = .next s) ∧
  (∀ (c : Instr) (s t : State), exec c s = .next t → t.pending = s.pending)

/-- The invariant holds at reset. -/
def Obligations.InvariantAtReset : Prop :=
 State.Inv State.reset

/-- Every step keeps the invariant: the memories keep their canonical form (the model's own form of the memories of spec/14),
the response FIFO of the Carnelian window holds at most 8 entries (R600), and at most 16 requests wait for the transfer of their
response (R51). -/
def Obligations.StepKeepsTheInvariant : Prop :=
 ∀ s t : State, s.Inv → step s = .next t → t.Inv

/-- R20, R22, R24: a permitted register write sets the fields that may be written and nothing else: HP_XF_CFG, BT_LOAD_LO,
SN_CFG, MEM_CFG and, in a lane's own block, a reserved offset; in BT_STAT it clears the flags that it writes 1 to, but for those
that the hardware sets in the same access, which the requester marks, and for WRAP in the ns of TD0 in which it was set. R496:
in the ns of the write the hardware of Spinel still acts by the old SN_CFG. A register write that a cause of R57 refuses does
nothing but what R528 and R342 count: every command that is a register write of a requester, at its own address. A command that
does not apply changes nothing: log entry 2. Readings and choices behind it: log entry 6. -/
def Obligations.RegisterWrites : Prop :=
  (∀ (s : State) (r : Req) (v : W32),
    (s.refusal r true 0x10028 4 v.toNat = none →
      exec (.registerWrite r 0x10028 v) s = .next { s with xf := { s.xf with cfg := v &&& 0x000FFF0F } }) ∧
    (s.refusal r true 0xA0018 4 v.toNat = none →
      exec (.registerWrite r 0xA0018 v) s =
        .next { s with beryl := { s.beryl with load := hi32 s.beryl.load ++ v } }) ∧
    (s.refusal r true 0xA0014 4 v.toNat = none →
      exec (.registerWrite r 0xA0014 v) s = .next { s with beryl := { s.beryl with
        wrap := s.beryl.wrap && !(v.getLsbD 9 && !r.hw.getLsbD 9 && !(s.beryl.atWrap && s.ticking))
        lost := s.beryl.lost && !(v.getLsbD 8 && !r.hw.getLsbD 8) } }) ∧
    (s.refusal r true 0xC0000 4 v.toNat = none →
      ∃ w, let z := { s with sn := { s.sn with cfg := v &&& 0x70F, was := w } }
        exec (.registerWrite r 0xC0000 v) s = .next z ∧ (s.ticking = true → z.snHw.cfg = s.snHw.cfg)) ∧
    (s.refusal r true 0x60000 4 v.toNat = none →
      exec (.registerWrite r 0x60000 v) s = .next { s with mem := { s.mem with cfg := v &&& 0xFF00000F } }) ∧
    (s.refusal r true 0x10003C 4 v.toNat = none → exec (.registerWrite r 0x10003C v) s = .next s)) ∧
  (∀ (s : State) (r : Req) (c : Cause),
    (∀ (a : BitVec 26) (v : W32), memWindow a.toNat = false → s.refusal r true a.toNat 4 v.toNat = some c →
      exec (.registerWrite r a v) s = .next (s.refused true a.toNat c)) ∧
    (∀ (ch : Fin 256), s.refusal r true (0x1C0000 + 0x40 * ch.val) 4 0x01 = some c →
      exec (.chStart r ch) s = .next (s.refused true (0x1C0000 + 0x40 * ch.val) c)) ∧
    (∀ (k : Fin 32) (v : W32), s.refusal r true (0x200200 + 4 * k.val) 4 v.toNat = some c →
      exec (.stimulusWrite r k v) s = .next (s.refused true (0x200200 + 4 * k.val) c)) ∧
    (∀ v : W32, s.refusal r true 0x30008 4 v.toNat = some c →
      exec (.lifecycleRequest r v) s = .next (s.refused true 0x30008 c)) ∧
    (∀ (i : Fin 64) (v : W32), s.refusal r true (0x40000 + 4 * i.val) 4 v.toNat = some c →
      exec (.bbWrite r i v) s = .next (s.refused true (0x40000 + 4 * i.val) c)) ∧
    (∀ (w : Fin 16384) (v : W32), s.refusal r true (0x1A0000 + 4 * w.val) 4 v.toNat = some c →
      exec (.csWordWrite r w v) s = .next (s.refused true (0x1A0000 + 4 * w.val) c)) ∧
    (∀ a : Nat, s.refused true a c =
      if c = .guard then { s with power := { s.power with
        guardCnt := if s.power.guardCnt = 0xFFFF then 0xFFFF else s.power.guardCnt + 1 } }
      else if c = .disabled ∧ csOffset a = true then { s with cs := { s.cs with wrErr := true } }
      else s))

/-- R51, R53, R59: a request that is transferred waits in the adapter or passes into the block behind those that wait; a
permitted read or write is executed and answered, after the answers that wait; the oldest answer is transferred first; HT_RST_N
at 0 drops the requests that have not passed and the answers that wait and nothing else, and no request is transferred while it
is 0; the error record is cleared. R22: a W1C bit that the hardware sets in the same access stays set. `a` is the machine at the
instant of the command. The instants of commands follow log entry 1. A command that does not apply changes nothing: log entry 2.
Readings and choices behind it: log entry 13. -/
def Obligations.HostPortCommands : Prop :=
  (∀ (s : State) (t : Instant) (r : HostReq),
    let a := s.advance t
    a.power.vao = true → a.power.vcore = true → a.hp.rstN = true → a.hp.reqs.length + a.hp.resps.length < 16 →
    exec (.hostRequest t r false) s = .next { a with hp := { a.hp with reqs := a.hp.reqs ++ [r] } } ∧
    exec (.hostRequest t r true) s =
      .next ((List.foldl State.hostPass { a with hp := { a.hp with reqs := [] } } a.hp.reqs).hostPass r)) ∧
  (∀ (a z : State) (r : HostReq),
    let q : Req := { who := .host, sec := r.sec, hw := r.hw, coll := r.coll }
    let n := sizeBytes r.size
    (∀ v, r.write = false → a.busRead q r.addr.toNat n = (.ok v, z) →
      a.hostPass r = { z with hp := { z.hp with
        resps := z.hp.resps ++ [{ tag := r.tag, status := 0, data := BitVec.ofNat 64 v }] } }) ∧
    (r.write = true → a.busWrite q r.addr.toNat n (r.data.toNat % 256 ^ n) = (none, z) →
      a.hostPass r = { z with hp := { z.hp with resps := z.hp.resps ++ [{ tag := r.tag, status := 0, data := 0 }] } })) ∧
  (∀ (a : Nat) (v hw : W32) (k : Nat), (hwWins a v hw).getLsbD k = (v.getLsbD k && !(hw.getLsbD k && (w1Bits a).getLsbD k))) ∧
  (∀ (s : State) (x : HostResp) (l : List HostResp), s.hp.resps = x :: l →
    s.power.vao = true → s.power.vcore = true → s.hp.rstN = true →
    exec .hostResponse s = .next { s with hp := { s.hp with resps := l } }) ∧
  (∀ s : State, exec (.adapterReset true false) s =
    .next { s with hp := { s.hp with rstN := false, reqs := [], resps := [] } }) ∧
  (∀ s : State, exec (.adapterReset true true) s = .next { s with hp := { s.hp with rstN := true } }) ∧
  (∀ s : State, exec (.adapterReset false false) s =
    .next { s with hp := { s.hp with hiRstN := false }, xf := { s.xf with wd := [] } }) ∧
  (∀ s : State, exec (.adapterReset false true) s = .next { s with hp := { s.hp with hiRstN := true } }) ∧
  (∀ (s : State) (t : Instant) (r : HostReq) (pass : Bool), s.hp.rstN = false →
    exec (.hostRequest t r pass) s = .next (s.advance t) ∧ exec .hostResponse s = .next s) ∧
  (∀ s : State, s.up = true → exec .hpErrClear s = .next { s with hp := { s.hp with err := none } })

/-- R56: a refused access of the host target port has no effect but the count of R528, the mark of R342, the record of R58 and
its response, whose 64 data bits are 0: when it passes into the block, and so when it is transferred and passes at once. The
instants of commands follow log entry 1. Readings and choices behind it: log entries 1 and 6 and 7 and 13. -/
def Obligations.RefusedHostAccess : Prop :=
  ∀ (r : HostReq) (c : Cause),
    let n := sizeBytes r.size
    let d := r.data.toNat % 256 ^ n
    let refuses (a : State) : Prop := a.refusal { who := .host, sec := r.sec, hw := r.hw, coll := r.coll } r.write r.addr.toNat n
      (if r.write then d else 0) = some c
    let answer (a : State) : State :=
      let z := a.refused r.write r.addr.toNat c
      { z with hp := { z.hp with
        resps := a.hp.resps ++ [{ tag := r.tag, status := c.resp, data := 0 }],
        err := if c = .reset ∨ a.up = false then a.hp.err
               else some (match a.hp.err with
                 | some old => { old with ovf := true }
                 | none => { addr := r.addr, tag := r.tag, cause := c, size := r.size, write := r.write, sec := r.sec,
                             ovf := false }) } }
    (∀ a : State, refuses a → a.hostPass r = answer a) ∧
    (∀ (s : State) (t : Instant),
      let a := s.advance t
      a.power.vao = true → a.power.vcore = true → a.hp.rstN = true → a.hp.reqs = [] → a.hp.resps.length < 16 →
      refuses a → exec (.hostRequest t r true) s = .next (answer a))

/-- R57: the cause of a refusal is the first of the table that applies. Readings and choices behind it: log entry 6. -/
def Obligations.FirstCauseIsReported : Prop :=
  ∀ (s : State) (q : Req) (wr : Bool) (a n v : Nat),
    s.refusal q wr a n v =
      (([(!(regRegion a || memWindow a), Cause.unmapped), (badWidth q a n, .width),
         (decide (a % n ≠ 0) && !(memWindow a && q.who.isSq), .align), (!s.up && !aonTarget a, .reset),
         (!memWindow a && s.halfOffAt q wr a, .halfOff),
         (!q.sec && (if memWindow a then s.memSec wr a n v else s.regSec wr a (BitVec.ofNat 32 v)), .secure),
         (s.lcLocked q wr a, .lifecycle),
         (if memWindow a then s.memDisabled q wr a n else s.regDisabled q wr a (BitVec.ofNat 32 v), .disabled),
         (wr && s.power.low && (if memWindow a then decide (memOf a = some 1) else regGuarded a), .guard)].find? fun p => p.1).map
        fun p => p.2)

/-- R63, R64, R65, R71: the transfer engine is enabled, starts, turns GO with invalid parameters away, is disabled, and leaves
ERROR. R61, R62, R64, R73: the engine issues a burst, which carries the words of the block in order where it writes the system;
the interconnect takes write beats, the oldest first; a beat of read data goes to the block, the last beat of the last burst
ends the transfer with DONE; and a burst that is not answered in time ends it with cause TIMEOUT. The instants of commands
follow log entry 1. A command that does not apply changes nothing: log entry 2. Readings and choices behind it: log entry 13. -/
def Obligations.TransferEngine : Prop :=
  (∀ s : State, s.up = true →
    (s.xf.st = .off → exec .xfEnable s = .next { s with xf := { s.xf with en := true, st := .idle } }) ∧
    (∀ dir, s.xf.st = .idle → xfValid s.xf.sys s.xf.blk s.xf.len dir = true →
      exec (.xfGo dir) s = .next { s with xf := { s.xf with
        st := .busy, dir := dir, lsys := s.xf.sys, lblk := s.xf.blk, llen := s.xf.len, ldir := dir,
        next := 0, remain := s.xf.len, stopped := false, bursts := [] } }) ∧
    (∀ dir, s.xf.st = .idle → xfValid s.xf.sys s.xf.blk s.xf.len dir = false →
      exec (.xfGo dir) s = .next { s with xf := { s.xf with st := .error, cause := .param, done := true, dir := dir } }) ∧
    (∀ dir, s.xf.st ≠ .idle → exec (.xfGo dir) s = .next s) ∧
    (∀ abort, s.xf.st = .idle → s.xf.en = true →
      exec (.xfDisable abort) s = .next { s with xf := { s.xf with en := false, abort := abort, st := .off } }) ∧
    (∀ abort, s.xf.st = .busy → s.xf.en = true → s.xf.bursts ≠ [] →
      exec (.xfDisable abort) s =
        .next { s with xf := { s.xf with en := false, abort := abort, st := .draining, stopped := abort } }) ∧
    (∀ abort, s.xf.st = .error → s.xf.en = true → exec (.xfDisable abort) s = .next { s with xf := { s.xf with
      en := false, abort := abort, st := .off, bursts := [], deadTags := s.xf.bursts.map Burst.tag } }) ∧
    (s.xf.st = .error → exec .xfDoneClear s = .next { s with xf := { s.xf with
      st := .idle, cause := .none, done := false, irq := false, bursts := [], deadTags := s.xf.bursts.map Burst.tag } }) ∧
    (s.xf.st ≠ .error → exec .xfDoneClear s = .next { s with xf := { s.xf with done := false, irq := false } })) ∧
  ((∀ (s : State) (k : Nat), s.up = true → s.hp.hiRstN = true →
    s.xfBeats k = { s with xf := { s.xf with wd := s.xf.wd.drop k } }) ∧
  (∀ (s : State) (t : Instant) (tag : Fin 8) (taken : Nat),
    let a := (s.advance t).xfBeats taken
    let x := a.xf
    a.up = true → a.hp.hiRstN = true → (x.st = .busy ∨ x.st = .draining) → x.stopped = false → x.next < x.llen →
    x.bursts.length + x.deadTags.length < x.maxOut → tag ∉ x.bursts.map Burst.tag → tag ∉ x.deadTags →
    let sent (z : State) (l : List W64) : State := { z with xf := { z.xf with
      next := x.next + 8 * x.beats, wd := x.wd ++ wdBeats tag l,
      bursts := x.bursts ++ [{ tag := tag, blk := x.lblk + x.next, sys := x.lsys + x.next, beats := x.beats, got := 0,
                               issued := a.beryl.td0 }] } }
    (x.ldir = false → exec (.xfBurstIssue t tag taken) s = .next (sent a [])) ∧
    (∀ z l, x.ldir = true → a.xfFetch (x.lblk + x.next) x.beats = (some l, z) →
      exec (.xfBurstIssue t tag taken) s = .next (sent z l))) ∧
  (∀ (x : Xfer) (tag : Fin 8) (d : W64) (l : List W64), x.wd = wdBeats tag (d :: l) → x.hiWd = some (d, l.isEmpty)) ∧
  (∀ (s0 : State) (b : Burst) (data : W64) (taken : Nat),
    let s := s0.xfBeats taken
    s.up = true → s.hp.hiRstN = true → s.xf.st = .busy → s.xf.ldir = false → s.xf.bursts = [b] →
    b.tag ∉ s.xf.deadTags → s.refusal xfReq true (b.blk + 8 * b.got) 8 data.toNat = none →
    let z := s.memWrite 17 (b.blk + 8 * b.got) 8 data.toNat
    exec (.xfBurstResponse b.tag 0 data false taken) s0 = .next { z with xf := { s.xf with
      bursts := [{ b with got := b.got + 1 }], remain := s.xf.remain - 8 } } ∧
    (s.xf.llen ≤ s.xf.next → exec (.xfBurstResponse b.tag 0 data true taken) s0 = .next { z with xf := { s.xf with
      bursts := [], wd := wdAfter b.tag s.xf.wd, remain := s.xf.remain - 8, st := .idle, done := true, irq := true } })) ∧
  (∀ (s : State) (t : Instant) (b : Burst),
    let a := s.advance t
    let x := a.xf
    let lim := fldN x.cfg 8 8
    a.up = true → a.ticking = true → x.st = .busy → x.bursts = [b] → lim ≠ 0 →
    notBefore a.beryl.td0 (b.issued + BitVec.ofNat 64 (1000 * lim)) = true →
    exec (.xfTimeout t) s = .next { a with xf := { x with
      bursts := [], deadTags := x.deadTags ++ [b.tag], st := .error, cause := .timeout, done := true, irq := true, stopped := true } }))

/-- R63: each burst has the largest number of beats that exceeds neither BURST, nor the beats that remain, nor the next 4 KiB
boundary of the system range. -/
def Obligations.BurstIsTheLargest : Prop :=
  ∀ x : Xfer, x.next < x.llen → 8 ∣ x.llen → 8 ∣ x.next → 8 ∣ x.lsys →
    let burst := if fldN x.cfg 0 4 = 0 then 16 else fldN x.cfg 0 4
    let fits (k : Nat) : Prop :=
      k ≤ burst ∧ 8 * k ≤ x.llen - x.next ∧ (x.lsys + x.next) % 4096 + 8 * k ≤ 4096
    fits x.beats ∧ 1 ≤ x.beats ∧ ∀ k, fits k → k ≤ x.beats

/-- R87, R88: a command that comes at the instant `t` first moves TD0 to it where Beryl is in RUN, and nothing else; TD0 passing
its maximum sets WRAP, and TD0_WRAP once TD0 has passed it does so no more. The wraps are counted, so that instants of the block
can be compared across them (log entry 9). The instants of commands follow log entry 1. A command that does not apply changes
nothing: log entry 2. -/
def Obligations.TimeAdvances : Prop :=
  (∀ (s : State) (t : Instant), s.beryl.st = .run → notBefore t.ns s.beryl.td0 = true →
    s.advance t = { s with beryl := { s.beryl with
      td0 := t.ns, q := t.q, wraps := s.beryl.wraps + (if t.ns < s.beryl.td0 then 1 else 0),
      atWrap := decide (t.ns = 0) && (decide (t.ns < s.beryl.td0) || s.beryl.atWrap),
      wrap := s.beryl.wrap || decide (t.ns < s.beryl.td0) } }) ∧
  (∀ (s : State) (t : Instant), s.beryl.st ≠ .run → s.advance t = s) ∧
  (∀ (s : State) (t : Instant), notBefore t.ns s.beryl.td0 = false → s.advance t = s) ∧
  (∀ s : State, s.beryl.st = .run → s.beryl.td0 ≠ 0 → notBefore 0 s.beryl.td0 = true →
    exec .td0Wrap s = .next { s with beryl := { s.beryl with
      td0 := 0, q := 0, wraps := s.beryl.wraps + 1, atWrap := true, wrap := true } }) ∧
  (∀ s : State, s.beryl.td0 = 0 → exec .td0Wrap s = .next s)

/-- R91, R92, R113: the transitions of Beryl that do not touch another unit: BREF lost in WAIT_REF, READY or LOST, its edges
coming again, the lock with HOLD at 1, RESTART in LOST, SNAP, and a command that its state ignores. R91 to R93: Beryl enters RUN
on START in READY or on its lock with HOLD at 0, with TD0 kept; it leaves RUN for LOST on the loss of BREF, with TD0 frozen,
every lane in HOLD and a breach of every deterministic channel outside OFF (R133), and, where no engine waits inside a step for
the queue of a lane (R210), no other change of a lane, an engine or a channel; LOAD in READY sets TD0, and what is measured in
TD0 moves with it. No other unit changes than those of R93 and the channels and sequencers of a breach. The instants of commands
follow log entry 1. A command that does not apply changes nothing: log entry 2. Readings and choices behind it: log entry 9. -/
def Obligations.BerylTransitions : Prop :=
  ((∀ (s : State) (t : Instant), let a := s.advance t
    a.beryl.st = .waitRef ∨ a.beryl.st = .ready →
    exec (.brefLoss t false) s = .next { a with beryl := { a.beryl with st := .waitRef, bref := false } }) ∧
  (∀ (s : State) (t : Instant), s.beryl.st = .lost →
    exec (.brefLoss t false) s = .next { s with beryl := { s.beryl with bref := false } }) ∧
  (∀ (s : State) (t : Instant), let a := s.advance t
    exec (.brefLoss t true) s = .next { a with beryl := { a.beryl with bref := true } }) ∧
  (∀ s : State, s.up = true → s.beryl.st = .waitRef → bit s.beryl.cfg 1 = true →
    exec .berylLock s = .next { s with beryl := { s.beryl with st := .ready, bref := true } }) ∧
  (∀ s : State, s.up = true → s.beryl.st = .lost →
    exec .btRestart s = .next { s with beryl := { s.beryl with st := .waitRef } }) ∧
  (∀ s : State, s.beryl.st ≠ .lost → exec .btRestart s = .next s) ∧
  (∀ s : State, s.beryl.st ≠ .ready → exec .btStart s = .next s ∧ exec .btLoad s = .next s) ∧
  (∀ s : State, s.up = true → s.beryl.st ≠ .run ∨ s.beryl.snapAt ≠ some s.beryl.td0 →
    exec .btSnap s = .next { s with beryl := { s.beryl with
      snap := s.beryl.td0, snapCnt := s.beryl.snapCnt + 1, snapAt := some s.beryl.td0,
      doms := s.beryl.doms.map fun d : Domain => { d with snap := (d.valueAt s.beryl.g).extractLsb' 24 80 } } })) ∧
  ((∀ s : State, s.up = true → s.beryl.st = .ready → ∃ z, exec .btStart s = .next z ∧
    z.beryl = { s.beryl with st := .run, snapAt := none } ∧
    z.power = { s.power with masterWas := none } ∧
    (∀ k, z.vault.inputs.at k = { s.vault.inputs.at k with since := none }) ∧
    z = { s with beryl := z.beryl, ta := z.ta, lanes := z.lanes, chans := z.chans, seqs := z.seqs, gds := z.gds, abs_ := z.abs_,
                 power := z.power, vault := { s.vault with inputs := z.vault.inputs } }) ∧
  (∀ s : State, s.up = true → s.beryl.st = .waitRef → bit s.beryl.cfg 1 = false → ∃ z, exec .berylLock s = .next z ∧
    z.beryl = { s.beryl with st := .run, bref := true, snapAt := none } ∧
    z.power = { s.power with masterWas := none } ∧
    (∀ k, z.vault.inputs.at k = { s.vault.inputs.at k with since := none }) ∧
    z = { s with beryl := z.beryl, ta := z.ta, lanes := z.lanes, chans := z.chans, seqs := z.seqs, gds := z.gds, abs_ := z.abs_,
                 power := z.power, vault := { s.vault with inputs := z.vault.inputs } }) ∧
  (∀ (s : State) (t : Instant), let a := s.advance t
    s.beryl.st = .run → ∃ z, exec (.brefLoss t false) s = .next z ∧
    z.beryl = { a.beryl with st := .lost, lost := true, bref := false } ∧
    (∀ c : Fin 256, (a.chans.at c).det = true → (a.chans.at c).st ≠ .off → (z.chans.at c).breach ≠ none) ∧
    (∀ n, (z.lanes.at n).held = true) ∧
    ((∀ e, (a.engines.at e).stallOn ≠ .lane) → z.engines = a.engines ∧
      (∀ c : Fin 256, (a.chans.at c).det = false ∨ (a.chans.at c).st = .off → z.chans.at c = a.chans.at c) ∧
      (∀ n, z.lanes.at n = { a.lanes.at n with held := true })) ∧
    z = { a with beryl := z.beryl, lanes := z.lanes, chans := z.chans, seqs := z.seqs, engines := z.engines, gds := z.gds,
                 abs_ := z.abs_ }) ∧
  (∀ s : State, s.up = true → s.beryl.st = .ready → ∃ z, exec .btLoad s = .next z ∧
    z.beryl.td0 = s.beryl.load ∧ z.beryl.wraps = s.beryl.wraps ∧ z.beryl.st = .ready ∧
    let jump := s.beryl.load - s.beryl.td0
    z.power = { s.power with sokSince := s.power.sokSince + jump } ∧ z.key = { s.key with since := s.key.since + jump } ∧
    z.xf = { s.xf with bursts := s.xf.bursts.map fun b : Burst => { b with issued := b.issued + jump } } ∧
    z = { s with beryl := z.beryl, lanes := z.lanes, power := z.power, key := z.key, xf := z.xf, ta := z.ta, engines := z.engines,
                 gds := z.gds, abs_ := z.abs_, sn := z.sn, dbg := { s.dbg with freshNs := none } }))

/-- R96, R111, R135: with LATCH at 1 a read of NOW_LO fills the reader's shadow and no other; a conversion writes its result
registers; the canary takes the two rates, 0 for a half that does not run, once at the end of each window of 1 µs. R110: the
identity conversion is exact: a 64-bit time with a 16-bit fraction of TD0 converts to TD0 unchanged, and is not stale. The
instants of commands follow log entry 1. A command that does not apply changes nothing: log entry 2. Readings and choices behind
it: log entries 9 and 26. -/
def Obligations.TimeReads : Prop :=
  ((∀ (s : State) (who : Master) (d : Fin 8), s.up = true → bit s.beryl.cfg 0 = true →
    exec (.nowLoRead who d) s = .next { s with beryl := { s.beryl with
      shadows := s.beryl.shadows.upd who.slot (some { dom := d, hi := s.beryl.nowHi d, fr := s.beryl.nowFr d }) } }) ∧
  (∀ (s : State) (who : Master) (d : Fin 8), bit s.beryl.cfg 0 = false → exec (.nowLoRead who d) s = .next s) ∧
  (∀ (s : State) (v : W32), s.up = true →
    let r := s.beryl.convert (Fin.ofNat 8 (fldN v 0 3)) (Fin.ofNat 8 (fldN v 4 3)) (fix16 s.beryl.convIn (fld v 16 16))
    exec (.conversion v) s = .next { s with beryl := { s.beryl with
      convCtrl := v &&& 0xFFFF0077, convOut := r.1, stale := r.2 } }) ∧
  (∀ (s : State) (t : Instant) (north south : BitVec 16),
    let a := s.advance t
    a.up = true → a.ticking = true → a.beryl.td0.toNat % 1000 = 0 → a.power.canaryAt ≠ some a.beryl.td0 →
    ∃ z, exec (.canaryUpdate t north south) s = .next z ∧
    z.power.canary.at 0 = (if a.halfUp 0 then north else 0) ∧ z.power.canary.at 1 = (if a.halfUp 1 then south else 0) ∧
    (∀ h, z.power.canaryMin.at h =
      if z.power.canary.at h ≠ 0 ∧ z.power.canary.at h < a.power.canaryMin.at h then z.power.canary.at h
      else a.power.canaryMin.at h) ∧
    z = { a with power := z.power }) ∧
  (∀ (s : State) (t : Instant) (north south : BitVec 16),
    let a := s.advance t
    a.beryl.td0.toNat % 1000 ≠ 0 ∨ a.power.canaryAt = some a.beryl.td0 →
    exec (.canaryUpdate t north south) s = .next a)) ∧
  (∀ (b : Beryl) (ns : W64) (fr : BitVec 16), b.convert 0 0 (fix16 ns fr) = (ns ++ fr, false))

/-- R105, R107, R108: what the present ns brings to the domain comes first (`z`); then a SET, STEP, SLEW or RATE is refused with
STATE, RANGE or BUSY, in that order, and otherwise waits for AT, or for the next TD0 ns where it is given with NOW or AT has
passed, behind the commands that wait; nothing else of the machine changes. Where nothing is due, `z` is `s`. R107, R108:
CANCEL, after what the present ns brings to the domain, removes a command that waits for AT, cuts a slew short, or is refused
with NOTHING or TOO_LATE. -/
def Obligations.DomainCommandsAreJudged : Prop :=
  ((∀ (s : State) (who : Master) (n : Fin 8) (whenAt : Bool) (code : TdCode) (i : Instr),
    (code, i) ∈ [(TdCode.set, Instr.tdSet who n whenAt), (.step, .tdStep who n whenAt), (.slew, .tdSlew who n whenAt),
                 (.rate, .tdRate who n whenAt)] →
    s.up = true → n ≠ 0 →
    let z := s.tdSettle n
    let d := z.beryl.doms.at n
    let to_ (x : Domain) : Host.Outcome State Fault Refusal :=
      .next { z with beryl := { z.beryl with doms := z.beryl.doms.upd n x } }
    let slew := fldN d.slewReg 0 27
    if s.beryl.st ≠ .ready ∧ s.beryl.st ≠ .run then exec i s = to_ { d with cmderr := 6 }
    else if tdRangeOk code d.arg slew = false then exec i s = to_ { d with cmderr := 2 }
    else if d.slew ≠ none ∨ ∃ p ∈ d.pend, p.isNow = false then exec i s = to_ { d with cmderr := 1 }
    else if whenAt = true ∧ s.beryl.td0 < d.at_ then exec i s = to_ { d with cmderr := 0, pend := d.pend ++ [{
      code := code, arg := d.arg, slew := slew, at_ := s.beryl.wraps * 2 ^ 64 + d.at_.toNat, late := false, isNow := false,
      owner := s.ownerOf who }] }
    else exec i s = to_ { d with cmderr := 0, pend := d.pend ++ [{
      code := code, arg := d.arg, slew := slew, at_ := s.beryl.wraps * 2 ^ 64 + s.beryl.td0.toNat + 1, late := whenAt,
      isNow := true, owner := s.ownerOf who }] }) ∧
  (∀ (s : State) (n : Fin 8),
    let d := s.beryl.doms.at n
    (∀ p ∈ d.pend, s.beryl.g < p.at_) → (∀ w, d.slew = some w → s.beryl.g < w.stop) → s.tdSettle n = s)) ∧
  (∀ (s : State) (who : Master) (n : Fin 8) (whenAt : Bool),
    s.up = true → n ≠ 0 → (s.beryl.st = .ready ∨ s.beryl.st = .run) →
    let z := s.tdSettle n
    let d := z.beryl.doms.at n
    let to_ (x : Domain) : Host.Outcome State Fault Refusal :=
      .next { z with beryl := { z.beryl with doms := z.beryl.doms.upd n x } }
    let at_ := s.beryl.wraps * 2 ^ 64 + (if whenAt = true ∧ s.beryl.td0 < d.at_ then d.at_.toNat else s.beryl.td0.toNat + 1)
    (d.slew = none → (∃ p ∈ d.pend, p.isNow = false) →
      exec (.tdCancel who n whenAt) s = to_ { d with pend := d.pend.filter (fun p => p.isNow), cmderr := 0 }) ∧
    (d.slew = none → (∀ p ∈ d.pend, p.isNow = true) →
      exec (.tdCancel who n whenAt) s = to_ { d with cmderr := 4 }) ∧
    (∀ w, d.slew = some w → at_ < w.endAt →
      exec (.tdCancel who n whenAt) s = to_ { d with cmderr := 0, slew := some { w with
        cut := some at_, cutLate := decide (whenAt = true ∧ ¬ s.beryl.td0 < d.at_), cutOwner := s.ownerOf who } }) ∧
    (∀ w, d.slew = some w → ¬ at_ < w.endAt → exec (.tdCancel who n whenAt) s = to_ { d with cmderr := 5 }))

/-- R103, R105 to R107: at its instant a command that waits becomes the new segment of its domain and sets APPLIED, and LATE
where it was late; the segment before it becomes the previous one, unless it lasted no time; at its end a slew becomes the
segment of R106, which from its own segment is the base rate and the whole step, and sets SLEWEND, or SLEWCUT at the cut where
it was cut. The instants of commands follow log entry 1. Readings and choices behind it: log entry 9. -/
def Obligations.DomainCommandsApply : Prop :=
  (∀ (s : State) (t : Instant) (n : Fin 8) (p : PendCmd),
    let a := s.advance t
    let d := a.beryl.doms.at n
    a.up = true → a.ticking = true → d.pend = [p] → p.at_ ≤ a.beryl.g → (∀ w, d.slew = some w → p.at_ < w.stop) →
    ∃ z, exec (.tdApply t n) s = .next z ∧
      (∀ m, m ≠ n → z.beryl.doms.at m = a.beryl.doms.at m) ∧
      (let e := z.beryl.doms.at n
       let v := d.cur.valueAt p.at_
       e.prev = (if d.cur.gs = p.at_ then d.prev else d.cur) ∧ e.pend = [] ∧ e.applied = true ∧ e.late = (d.late || p.late) ∧
       e.cur.gs = p.at_ ∧
       (p.code = .set → e.cur.vs = p.arg ++ (0 : BitVec 40) ∧ e.cur.r = d.cur.r) ∧
       (p.code = .step → e.cur.vs = v + (p.arg ++ (0 : BitVec 40)) ∧ e.cur.r = d.cur.r) ∧
       (p.code = .rate → e.cur.vs = v ∧ e.rate = (p.arg.extractLsb' 0 32).toInt ∧ e.cur.r = e.rate + d.slewRate) ∧
       (p.code = .slew → e.cur.vs = v) ∧
       (p.code = .slew → p.arg = 0 → e.cur.r = d.rate ∧ e.slewEnd = true ∧ e.slew = none) ∧
       (p.code = .slew → p.arg ≠ 0 → e.cur.r = d.rate + p.arg.toInt.sign * p.slew ∧
         e.slew = some { arg := p.arg.toInt, rate := p.slew, from_ := p.at_,
                         endAt := p.at_ + (p.arg.toInt.natAbs * 2 ^ 40 + p.slew - 1) / p.slew, cut := none,
                         cutLate := false, cutOwner := none })) ∧
      z = { a with beryl := z.beryl, lanes := z.lanes, chans := z.chans, seqs := z.seqs, gds := z.gds, ta := z.ta }) ∧
  (∀ (s : State) (t : Instant) (n : Fin 8) (w : Slew),
    let a := s.advance t
    let d := a.beryl.doms.at n
    let prev := if d.cur.gs = w.stop then d.prev else d.cur
    a.up = true → a.ticking = true → d.slew = some w → w.stop ≤ a.beryl.g →
    (w.cut = none →
      exec (.slewEnd t n) s = .next { a with beryl := { a.beryl with doms := a.beryl.doms.upd n { d with
        prev := prev, slew := none, slewEnd := true,
        cur := { gs := w.endAt, r := d.rate, vs := d.cur.valueAt w.endAt + BitVec.ofInt 104 w.rest } } } }) ∧
    (d.cur.gs = w.from_ → d.cur.r = d.rate + w.arg.sign * w.rate → w.from_ ≤ w.endAt →
      d.cur.valueAt w.endAt + BitVec.ofInt 104 w.rest = d.cur.vs + BitVec.ofInt 104
        (((w.endAt : Int) - w.from_) * (2 ^ 40 + d.rate) + w.arg * 2 ^ 40)) ∧
    (∀ c, w.cut = some c → ∃ z, exec (.slewEnd t n) s = .next z ∧
      z.beryl = { a.beryl with doms := a.beryl.doms.upd n { d with
        prev := prev, slew := none, slewCut := true, late := d.late || w.cutLate,
        cur := { gs := c, r := d.rate, vs := d.cur.valueAt c } } } ∧
      z = { a with beryl := z.beryl, chans := z.chans, seqs := z.seqs }))

/-- R155, R157: a lane is enabled with every field of the written word, disabled with both queues kept, and leaves FAULT on
CLRFLT for RUN or OFF with an empty action queue. While TD0 stands, an enable of a lane in OFF marks the entries whose instants
have passed: the return to RUN finds them late. R160: a write of LNn_CFG with EN kept at 1 changes only REST and POLICY, and
sets CFGIGN where it tried to change another field. R161: FLUSH_A empties the action queue, but for an entry that enters in the
same ns, and FLUSH_C the capture queue, and neither changes anything else. A command that does not apply changes nothing: log
entry 2. Readings and choices behind it: log entry 9. -/
def Obligations.LaneSetUp : Prop :=
  (∀ (s : State) (n : Fin 256) (v : W32), s.laneUp n = true →
    let l := s.lanes.at n
    (l.en = false → bit v 4 = true → l.st ≠ .off ∨ s.ticking = false ∨ l.aq = [] →
      ∃ e, exec (.laneEnable n v) s = .next { s with engines := e, lanes := s.lanes.upd n { l with
        cfg := v &&& 0x3FFFFF7C, rest := fld v 0 2, st := if l.st = .off then .run else l.st, twm := s.twmOf n v,
        driven := false, mark := some (s.laneMark n),
        aq := if s.ticking then l.aq
              else l.aq.map fun e => { e with passed := e.passed || (decide (l.st = .off) && s.orderLate e) } } }) ∧
    (l.en = true → bit v 4 = false →
      ∃ e, exec (.laneDisable n v) s = .next { s with engines := e, lanes := s.lanes.upd n { l with
        cfg := v &&& 0x3FFFFF7C, rest := fld v 0 2, st := if l.st = .run then .off else l.st, driven := false } }) ∧
    (l.st = .fault → exec (.clrflt n) s = .next { s with lanes := s.lanes.upd n { l with
      aq := [], fcause := 0, st := if l.en then .run else .off, driven := false } }) ∧
    (l.st ≠ .fault → exec (.clrflt n) s = .next s)) ∧
  (∀ (s : State) (n : Fin 256) (v : W32), s.laneUp n = true → (s.lanes.at n).en = true → bit v 4 = true →
    let l := s.lanes.at n
    ∃ e c, exec (.laneCfgWrite n v) s = .next { s with engines := e, lanes := s.lanes.upd n { l with
        cfg := c, rest := fld v 0 2, cfgIgn := l.cfgIgn || decide ((l.cfg ^^^ (v &&& 0x3FFFFF7C)) &&& 0x3FFFFF70 ≠ 0) } } ∧
      fld c 2 2 = fld v 2 2 ∧ ∀ i, i ≠ 2 → i ≠ 3 → bit c i = bit l.cfg i) ∧
  (∀ (s : State) (n : Fin 256), s.laneUp n = true →
    exec (.flushA n) s = .next { s with lanes := s.lanes.upd n { s.lanes.at n with
      aq := if s.ticking = true then (s.lanes.at n).aq.filter (fun e => notBefore e.ge s.beryl.td0) else [] } } ∧
    exec (.flushC n) s = .next { s with lanes := s.lanes.upd n { s.lanes.at n with cq := [] } })

/-- R118 to R120, R140, R142: an action enters the queue of its lane in its own ns, but waits within 4 ns of the last one and
while the queue is full; one that fails the lead test is counted, and is discarded, kept for ge + 24, or makes the lane enter
FAULT at ge + 24, as the policy says; one that meets the lane in FAULT does not enter. No entry into FAULT is due here. R139,
R143, R149: the entry at the head of the action queue of a lane in RUN executes at its instant and leaves the queue: it drives,
floats, inverts or rests the lane's signals, or takes a SAMPLE or a MARK capture, which is due TWM ns later. The entry behind it
is not late for order here, and no entry into FAULT is due. The instants of commands follow log entry 1. A command that does not
apply changes nothing: log entry 2. Readings and choices behind it: log entry 9. -/
def Obligations.LaneActions : Prop :=
  (∀ (s : State) (t : Instant) (n : Fin 256) (op : ActOp) (v : Bool) (td : Fin 8) (ns : BitVec 40),
    let a := s.advance t
    let l := a.lanes.at n
    let ge := a.beryl.td0
    let e : ActEntry := { v := v, op := op, td := td, ns := ns, ge := ge, execAt := none, passed := false }
    let to_ (x : Lane) : Host.Outcome State Fault Refusal := .next { a with lanes := a.lanes.upd n { x with lastAccept := some ge } }
    let counted : Lane := { l with late := true, lateAt := some ge, lateNs := if l.lateAt = some ge then l.lateNs + 1 else 1,
                                   lateCnt := if l.lateCnt = 255 then 255 else l.lateCnt + 1 }
    let late := (a.beryl.doms.at td).leadLate ns (a.abs ge)
    a.laneUp n = true → a.ticking = true → (∀ g ∈ l.faultAt, notBefore ge g = false) →
    (l.st = .fault → exec (.laneEnqueue t n op v td ns) s = .next a) ∧
    (8 ≤ l.aq.length → exec (.laneEnqueue t n op v td ns) s = .next a) ∧
    (∀ x, l.lastAccept = some x → notBefore ge (x + 4) = false → exec (.laneEnqueue t n op v td ns) s = .next a) ∧
    (l.aq.length < 8 → l.st ≠ .fault → (∀ x, l.lastAccept = some x → notBefore ge (x + 4) = true) →
      (late = false → exec (.laneEnqueue t n op v td ns) s = to_ { l with aq := l.aq ++ [e] }) ∧
      (late = true → a.lanePolicy n = .drop → exec (.laneEnqueue t n op v td ns) s = to_ counted) ∧
      (late = true → a.lanePolicy n = .exec →
        exec (.laneEnqueue t n op v td ns) s = to_ { counted with aq := l.aq ++ [{ e with execAt := some (ge + 24) }] }) ∧
      (late = true → a.lanePolicy n = .fault →
        exec (.laneEnqueue t n op v td ns) s = to_ { counted with faultAt := l.faultAt ++ [ge + 24] }))) ∧
  (∀ (s : State) (t : Instant) (n : Fin 256) (e : ActEntry) (r : List ActEntry),
    let a := s.advance t
    let l := a.lanes.at n
    let now := a.beryl.td0
    let pad := if l.driven then l.pad else restPad l.rest
    let to_ (x : Lane) : Host.Outcome State Fault Refusal := .next { a with lanes := a.lanes.upd n { x with aq := r } }
    let cap (k : CapKind) (v : Bool) : List PendCap :=
      l.pend ++ [{ kind := k, v := v, dis := false, stamp := { ns := now, q := 0 }, commitAt := now + BitVec.ofNat 64 l.twm, src := n.val,
                   at_ := l.readings k }]
    a.laneUp n = true → a.ticking = true → (∀ g ∈ l.faultAt, notBefore now g = false) → l.st = .run →
    l.aq = e :: r → a.entryDue e now = true →
    (∀ x ∈ r.head?, a.orderLate x = false) →
    (e.op = .drive → exec (.actionDrive t n) s = to_ { l with driven := true, pad := { out := e.v, oe := true, pu := false } }) ∧
    (e.op = .float → exec (.actionFloat t n) s = to_ { l with driven := true, pad := { out := false, oe := false, pu := e.v } }) ∧
    (e.op = .toggle → exec (.actionToggle t n) s = to_ { l with driven := true, pad := { pad with out := !pad.out } }) ∧
    (e.op = .rest → exec (.actionRest t n) s = to_ { l with driven := false, pad := restPad l.rest }) ∧
    (e.op = .sample → exec (.actionSample t n) s = to_ { l with pend := cap .sample false }) ∧
    (e.op = .mark → exec (.actionMark t n) s = to_ { l with pend := cap .mark e.v }))

/-- R143: an entry behind the executed one that is late for order is counted and, under DROP_FLAG, discarded. R142, R157, R158:
a lane enters FAULT at ge + 24 with cause LATE, and a deterministic owner has a breach; the instants that have come are taken
off, and a lane that is in FAULT stays as it is, its deterministic owner having the breach. The instants of commands follow log
entry 1. Readings and choices behind it: log entry 9. -/
def Obligations.LaneFaults : Prop :=
  (∀ (s : State) (t : Instant) (n : Fin 256) (e x : ActEntry),
    let a := s.advance t
    let l := a.lanes.at n
    a.laneUp n = true → a.ticking = true → (∀ g ∈ l.faultAt, notBefore a.beryl.td0 g = false) → l.st = .run → l.aq = [e, x] → a.entryDue e a.beryl.td0 = true → e.op = .drive →
    a.orderLate x = true → a.lanePolicy n = .drop →
    exec (.actionDrive t n) s = .next { a with lanes := a.lanes.upd n { l with
      aq := [], driven := true, pad := { out := e.v, oe := true, pu := false }, late := true, order := true,
      lateAt := some a.beryl.td0, lateNs := if l.lateAt = some a.beryl.td0 then l.lateNs + 1 else 1,
      lateCnt := if l.lateCnt = 255 then 255 else l.lateCnt + 1 } }) ∧
  (∀ (s : State) (t : Instant) (n : Fin 256) (g : W64),
    let a := s.advance t
    let l := a.lanes.at n
    let later := l.faultAt.filter fun x => !notBefore a.beryl.td0 x
    a.laneUp n = true → a.ticking = true → g ∈ l.faultAt → notBefore a.beryl.td0 g = true →
    (l.st = .fault → a.laneOwner n = none →
      exec (.laneFaultEntry t n) s = .next { a with lanes := a.lanes.upd n { l with faultAt := later } }) ∧
    (l.st = .fault → ∀ c, a.laneOwner n = some c → ∃ z, exec (.laneFaultEntry t n) s = .next z ∧
      z = { a with lanes := a.lanes.upd n { l with faultAt := later }, chans := z.chans, seqs := z.seqs } ∧
      (z.chans.at c).breach ≠ none) ∧
    (l.st ≠ .fault → ∃ z, exec (.laneFaultEntry t n) s = .next z ∧
      z.lanes = a.lanes.upd n { l with
        faultAt := later, st := .fault, fcause := 1, faultNs := a.beryl.td0.extractLsb' 0 32, driven := false } ∧
      (a.laneOwner n = none → z.chans = a.chans ∧ z.seqs = a.seqs) ∧
      (∀ c, a.laneOwner n = some c → (z.chans.at c).breach ≠ none) ∧
      z = { a with lanes := z.lanes, chans := z.chans, seqs := z.seqs }))

/-- R146, R147, R149, R151, R484: a change of a lane's input is remembered, makes an EDGE capture with its own stamp where the
lane selects it, and is seen by the capture pairs that watch a lane in RUN; a change that follows the last one within the filter
time takes that one's captures back, and the pairs' edge; a capture enters the capture queue at its instant, or is discarded
with COVF where the queue is full, which is a breach for a deterministic owner. The instants of commands follow log entry 1. A
command that does not apply changes nothing: log entry 2. Readings and choices behind it: log entry 9. -/
def Obligations.LaneCaptures : Prop :=
  (∀ (s : State) (t : Instant) (n : Fin 256) (level : Bool),
    let a := s.advance t
    let l := a.lanes.at n
    let due := t.ns + BitVec.ofNat 64 l.twm
    let hist := noteEdge t level l.hist
    let unseen (c : Instant) (x : CapPair) : CapPair :=
      if fldN x.cfg 8 8 = n.val then { x with pend := x.pend.filter fun e => decide (e.stamp ≠ c) } else x
    (l.level = level → exec (.laneInputEdge t n level) s = .next a) ∧
    (l.level ≠ level → l.cand = none → a.capturing n = true → edgeSel l.capEdge level = true →
      (∀ i, (a.lanes.at (groupLane n i)).strbEn = false) →
      exec (.laneInputEdge t n level) s = .next { a with
        lanes := a.lanes.upd n { l with
          level := level, accLevel := level, cand := some t, hist := hist,
          pend := l.pend ++ [{ kind := .edge, v := level, dis := false, stamp := t, commitAt := due, src := n.val, at_ := [] }] },
        ta := { a.ta with pairs := a.ta.pairs.map fun x =>
          if l.st = .run ∧ bit x.cfg 0 = true ∧ fldN x.cfg 8 8 = n.val then
            { x with pend := x.pend ++ [{ stamp := t, level := level, commitAt := due }] }
          else x } }) ∧
    (∀ c, l.level ≠ level → a.ticking = true → l.cand = some c → (t.quarters - c.quarters).toNat < 4 * l.filt →
      ∃ z, exec (.laneInputEdge t n level) s = .next z ∧
        z = { a with lanes := z.lanes, ta := { a.ta with pairs := a.ta.pairs.map (unseen c) } } ∧
        (z.lanes.at n).level = level ∧ (z.lanes.at n).accLevel = level ∧ (z.lanes.at n).cand = none ∧
        (z.lanes.at n).hist = hist ∧
        ∀ i, (z.lanes.at (groupLane n i)).pend = (a.lanes.at (groupLane n i)).pend.filter fun p =>
          !(p.src = n.val && p.stamp = c && (p.kind = .edge || p.kind = .strobe)))) ∧
  (∀ (s : State) (t : Instant) (n : Fin 256) (p : PendCap) (r : List PendCap),
    let a := s.advance t
    let l := a.lanes.at n
    let full : Vector Lane 256 := a.lanes.upd n { l with pend := r, covf := true, ovfNext := true }
    a.laneUp n = true → a.ticking = true → firstCap l.pend = some (p, r) → notBefore a.beryl.td0 p.commitAt = true →
    (l.cq.length < 8 → ∃ e, exec (.captureCommit t n) s = .next { a with lanes := a.lanes.upd n { l with
        pend := r, cq := l.cq ++ [e], ovfNext := false } } ∧
      e.kind = p.kind ∧ e.stamp = p.stamp ∧ e.ovfb = l.ovfNext ∧ (p.at_ = [] → e.v = p.v ∧ e.dis = p.dis) ∧
      (let level (d : Int) : Bool := levelAt l.level (p.stamp.quarters + BitVec.ofInt 66 d) l.hist
       (∀ d, p.at_ = [d] → e.v = level d ∧ e.dis = false) ∧
       (∀ x y z, p.at_ = [x, y, z] →
         e.v = (level x && level y || level x && level z || level y && level z) ∧
         e.dis = !(decide (level x = level y) && decide (level y = level z))))) ∧
    (8 ≤ l.cq.length → a.laneOwner n = none → l.st ≠ .run ∨ a.lanePolicy n ≠ .fault →
      exec (.captureCommit t n) s = .next { a with lanes := full }) ∧
    (8 ≤ l.cq.length → ∀ c, a.laneOwner n = some c → l.st ≠ .run → ∃ z, exec (.captureCommit t n) s = .next z ∧
      z = { a with lanes := full, chans := z.chans, seqs := z.seqs } ∧ (z.chans.at c).breach ≠ none))

/-- R186, R187: a stream channel is enabled, or turned away with CFGERR; it is disabled at once in IDLE and ERROR, and drains
while a frame is in flight; ABORT in DRAINING ends a frame: a TX channel stays in DRAINING until its ABORT entry has passed to
the engine (log entry 15), and an RX channel is OFF at once with a DROPPED record. R169 to R171, R186: GO in IDLE starts a
SINGLE frame or the walk of a chain, with a descriptor that is refused sending the channel to ERROR; CONT in IDLE goes on where
the current descriptor now has a LINK; CLRERR leaves ERROR; FLUSH discards what is queued. A command that does not apply changes
nothing: log entry 2. -/
def Obligations.StreamControl : Prop :=
  (∀ (s : State) (n : Fin 128) (v : W32), s.sfUp n = true →
    let c := s.streams.at n
    let w := v &&& 0x7FFFFFFF
    let to_ (x : Stream) : Host.Outcome State Fault Refusal := .next { s with streams := s.streams.upd n x }
    (c.st = .off → bit c.cfg 0 = false → bit v 0 = true → s.sfCfgOk n w = true → bit v 1 = true →
      exec (.sfEnable n v) s = to_ { c with cfg := w, st := .active, rx := none }) ∧
    (c.st = .off → bit c.cfg 0 = false → bit v 0 = true → s.sfCfgOk n w = true → bit v 1 = false →
      exec (.sfEnable n v) s = to_ { c with
        cfg := w, st := if c.queued && bit v 2 then .active else .idle, queued := c.queued && !bit v 2 }) ∧
    (c.st = .off → bit c.cfg 0 = false → bit v 0 = true → s.sfCfgOk n w = false →
      exec (.sfEnable n v) s = to_ { c with cfg := w &&& ~~~1, cfgErr := true }) ∧
    (c.st = .idle ∨ c.st = .error → bit c.cfg 0 = true → bit v 0 = false →
      ∃ x, exec (.sfDisable n v) s = to_ x ∧ x.st = .off ∧ bit x.cfg 0 = false ∧ x.cpl = c.cpl ∧ x.recs = c.recs ∧
        x.rx = c.rx ∧ x.wp = c.wp ∧ x.rp = c.rp ∧ (c.tx = none → x.tx = none ∧ x.cur = c.cur)) ∧
    (c.st = .active → c.inFlight = true → bit c.cfg 0 = true → bit v 0 = false → bit v 3 = false →
      ∃ x, exec (.sfDisable n v) s = to_ x ∧ x.st = .draining ∧ x.tx = c.tx ∧ x.rx = c.rx ∧ x.cpl = c.cpl ∧ x.recs = c.recs) ∧
    (∀ f, c.st = .draining → c.rx? = false → c.tx = some f → f.started = true → f.closed = false → bit v 0 = false → bit v 3 = true →
      ∃ x, exec (.sfAbort n v) s = to_ x ∧ x.st = .draining ∧ x.abortEnt = true ∧ x.recs = c.recs ∧
        (c.chain = true → x.cur = f.first ∧ ∃ t, x.tx = some t ∧ t.desc = f.first ∧ t.fetched = false) ∧
        (c.chain = false → x.tx = none)) ∧
    (∀ f, c.st = .draining → c.rx? = true → c.rx = some f → c.abortEnt = false → bit v 0 = false → bit v 3 = true →
      ∃ x r, exec (.sfAbort n v) s = to_ x ∧ x.st = .off ∧ x.cfg = w ∧ x.rx = none ∧ x.recs = c.recs ++ [r] ∧ fldN r 29 2 = 2 ∧
        bit r 27 = true ∧ x.wp = c.wp)) ∧
  (∀ (s : State) (n : Fin 128), s.sfUp n = true →
    let c := s.streams.at n
    let to_ (x : Stream) : Host.Outcome State Fault Refusal := .next { s with streams := s.streams.upd n x }
    let start (fetched : Bool) : TxWork :=
      { first := c.base, desc := c.base, fetched := fetched, buf := c.base, left := if fetched then fldN c.len 0 16 else 0,
        eof := true, crcOn := true, evt := true, crc := (s.crcs.at (sfCrc n c)).settings.init, code := s.codeStart n,
        nib := [], bits := [], fin := false, closed := false, started := false }
    (c.st = .idle → c.rx? = false → c.chain = false → fldN c.len 0 16 ≠ 0 → c.base + fldN c.len 0 16 ≤ 2 ^ 21 →
      exec (.sfGo n) s = to_ { c with
        laddr := c.base, llen := fldN c.len 0 16, st := .active, queued := false, tx := some (start true) }) ∧
    (c.st = .idle → c.rx? = false → c.chain = true → c.base % 16 = 0 →
      exec (.sfGo n) s = to_ { c with
        laddr := c.base, llen := fldN c.len 0 16, st := .active, queued := false, cur := c.base, tx := some (start false) }) ∧
    (c.st = .idle → c.rx? = false → c.chain = false → fldN c.len 0 16 = 0 →
      ∃ x, exec (.sfGo n) s = to_ x ∧ x.st = .error ∧ x.cause = .desc ∧ x.tx = none ∧
        x.recs = c.recs ++ [record 3 0 c.base]) ∧
    (c.st ≠ .idle ∨ c.rx? = true → exec (.sfGo n) s = .next s) ∧
    (∀ (w d : Nat) (z : State) (xs : List PortA), c.st = .idle → c.rx? = false → c.chain = true →
      (s.collide n xs false (c.cur + 8) (c.cur + 16)).portB (c.cur + 8) = (some w, z) →
      let p := w / 16 % 2 ^ 17 * 16
      (w % 2 = 0 → exec (.sfCont n xs) s = .next z) ∧
      (w % 2 = 1 → ((z.collide n xs false p (p + 8)).portB p).1 = some d → d / 2 ^ 32 % 2 ^ 16 ≠ 0 →
        d % 2 ^ 21 + d / 2 ^ 32 % 2 ^ 16 ≤ 2 ^ 21 →
        ∃ y t, exec (.sfCont n xs) s = .next y ∧ y = { s with streams := y.streams, mem := y.mem } ∧
          (∀ m, m ≠ n → y.streams.at m = s.streams.at m) ∧ (y.streams.at n).st = .active ∧
          (y.streams.at n).cur = p ∧ (y.streams.at n).tx = some t ∧ t.desc = p ∧ t.buf = d % 2 ^ 21 ∧ t.left = d / 2 ^ 32 % 2 ^ 16)) ∧
    (∀ xs, c.st ≠ .idle → exec (.sfCont n xs) s = .next s) ∧
    (c.st = .error → bit c.cfg 0 = true → exec (.sfClrerr n) s = to_ { c with st := .idle, cause := .none }) ∧
    (c.st = .off ∨ c.st = .idle ∨ c.st = .error → c.rx? = true → exec (.sfFlush n) s = to_ { c with rp := c.wp, cpl := [] }) ∧
    (c.st = .off ∨ c.st = .idle ∨ c.st = .error → c.rx? = false →
      exec (.sfFlush n) s = to_ { c with cur := 0, tx := none, queued := false }) ∧
    (c.st = .active ∨ c.st = .draining → exec (.sfFlush n) s = .next s))

/-- R178, R179, R21: the record that waits first enters the completion FIFO where it has room; a host read pops the FIFO and a
host write pushes a record with V at 1 and the reserved bits at 0; each sets FIFOERR where the FIFO is empty or full. EVTEN is 0
here. R179: with EVTEN at 1 a record push also fires the channel's Spinel channel. Readings and choices behind it: log entry 15.
-/
def Obligations.StreamRecords : Prop :=
  (∀ (s : State) (n : Fin 128), s.sfUp n = true →
    let c := s.streams.at n
    let to_ (x : Stream) : Host.Outcome State Fault Refusal := .next { s with streams := s.streams.upd n x }
    (∀ r l, c.recs = r :: l → c.cpl.length < 8 → bit c.cfg 28 = false → c.st ≠ .off →
      exec (.sfRecordPush n) s = to_ { c with
        recs := l, cpl := c.cpl ++ [r],
        frames := if fldN r 29 2 ≤ 1 ∧ c.frames ≠ 0xFFFF then c.frames + 1 else c.frames }) ∧
    (c.cpl = [] → exec (.sfCplPop n) s = to_ { c with fifoErr := true }) ∧
    (∀ r l, c.cpl = r :: l → exec (.sfCplPop n) s = to_ { c with cpl := l }) ∧
    (∀ v, c.cpl.length < 8 → bit c.cfg 28 = false →
      exec (.sfCplPush n v) s = to_ { c with cpl := c.cpl ++ [v &&& 0xFF1FFFFF ||| 0x80000000] }) ∧
    (∀ v, 8 ≤ c.cpl.length → exec (.sfCplPush n v) s = to_ { c with fifoErr := true })) ∧
  (∀ (s : State) (n : Fin 128) (r : W32) (l : List W32), s.sfUp n = true →
    let c := s.streams.at n
    c.recs = r :: l → c.cpl.length < 8 → bit c.cfg 28 = true → c.st ≠ .off →
    exec (.sfRecordPush n) s = .next { s with
      streams := s.streams.upd n { c with
        recs := l, cpl := c.cpl ++ [r],
        frames := if fldN r 29 2 ≤ 1 ∧ c.frames ≠ 0xFFFF then c.frames + 1 else c.frames },
      sn := { s.sn with fired := s.sn.fired ++ [{ ch := Fin.ofNat 256 (fldN c.evt 0 8), hop := 0, fired := none }] } })

/-- R176: a write of SFn_RP takes effect only where the new value lies in the consumed span [RP, WP], counted forward from the
old RP in the ring; any other value is ignored and sets RPERR. -/
def Obligations.StreamReadPointer : Prop :=
  ∀ (s : State) (n : Fin 128) (v : W32), s.sfUp n = true →
    let c := s.streams.at n
    let x := 8 * fldN v 3 17
    let ahead (p : Nat) : Nat := (p + c.size - c.rp % c.size) % c.size
    (x < c.size → ahead x ≤ ahead (c.wp % c.size) →
      exec (.sfRpWrite n v) s = .next { s with streams := s.streams.upd n { c with rp := x } }) ∧
    (¬ (x < c.size ∧ ahead x ≤ ahead (c.wp % c.size)) →
      exec (.sfRpWrite n v) s = .next { s with streams := s.streams.upd n { c with rpErr := true } })

/-- R168, R170, R172, R180: a chain reads the descriptor it has come to; a TX entry of 64 coded bits, the last entry of a SINGLE
frame with its record, and the ABORT entry pass to the engine's input FIFO, with which the channel enters ERROR where its frame
has failed and goes off where it was disabled, a chain starting its frame anew; a STAMP entry opens an RX frame, and an ABORT
entry with no frame open is ignored. No port-A access meets those of the entries here; `xs` are those that a descriptor read
meets. R167, R173, R180: on an RX channel without processing units, a DATA entry of 64 bits of a frame that has stored whole
words writes these eight bytes to the next word of the ring, behind the frame's header place, and nothing else in memory.
Readings and choices behind it: log entry 15. -/
def Obligations.StreamData : Prop :=
  (∀ (s : State) (n : Fin 128), s.sfUp n = true →
    let c := s.streams.at n
    let g := sfEng n c
    let k := sfFifo c
    let push (e : InEntry) : Bank Engine 64 := s.engines.mod g fun y => { y with ifs := y.ifs.mod k (· ++ [e]) }
    let pop (l : List OutEntry) : Bank Engine 64 := s.engines.mod g fun y => { y with ofs := y.ofs.upd k l }
    let room := (((s.engines.at g).ifs.at k).length < 4)
    (∀ (f : TxWork) (d : Nat) (z : State) (xs : List PortA), c.st = .active → c.rx? = false → c.chain = true → c.recs = [] →
      c.abortEnt = false → c.tx = some f → f.fetched = false →
      (s.collide n xs false f.desc (f.desc + 8)).portB f.desc = (some d, z) → d / 2 ^ 32 % 2 ^ 16 ≠ 0 →
      d % 2 ^ 21 + d / 2 ^ 32 % 2 ^ 16 ≤ 2 ^ 21 →
      ∃ y t, exec (.sfDescFetch n xs) s = .next y ∧ y = { s with streams := y.streams, mem := z.mem } ∧
        (∀ m, m ≠ n → y.streams.at m = s.streams.at m) ∧ (y.streams.at n).st = .active ∧ (y.streams.at n).tx = some t ∧
        t.fetched = true ∧ t.buf = d % 2 ^ 21 ∧ t.left = d / 2 ^ 32 % 2 ^ 16 ∧ t.eof = (d / 2 ^ 48 % 2 == 1) ∧
        t.crcOn = (d / 2 ^ 49 % 2 == 1)) ∧
    (∀ f : TxWork, c.st = .active → c.rx? = false → c.recs = [] → c.abortEnt = false → room →
      c.tx = some f → f.fetched = true → f.closed = false → 65 ≤ f.bits.length → f.left ≠ 0 →
      exec (.sfTxEntry n []) s = .next { s with
        engines := push { data := BitVec.ofNat 64 (bitsNat (f.bits.take 64)), tag := .data, nbits := 63, stamp := none },
        streams := s.streams.upd n { c with tx := some { f with bits := f.bits.drop 64, started := true } } }) ∧
    (∀ f : TxWork, c.st = .active → c.rx? = false → c.chain = false → c.crcEn = false → c.recs = [] → c.abortEnt = false →
      room → c.tx = some f → f.fetched = true → f.closed = false → f.fin = true → f.left = 0 → f.bits ≠ [] →
      f.bits.length ≤ 64 →
      exec (.sfTxEntry n []) s = .next { s with
        engines := push { data := BitVec.ofNat 64 (bitsNat f.bits), tag := .last,
                          nbits := Fin.ofNat 64 (f.bits.length - 1), stamp := none },
        streams := s.streams.upd n { c with tx := none, st := .idle, recs := [record 1 0 c.laddr] } }) ∧
    (∀ cause off, c.st = .active ∨ c.st = .draining → c.rx? = false → c.abortEnt = true → c.fail = some (cause, off) → room →
      exec (.sfTxEntry n []) s = .next { s with
        engines := push { data := 0, tag := .abort, nbits := 0, stamp := none },
        streams := s.streams.upd n { c with
          abortEnt := false, fail := none, st := .error, cause := cause, enRec := none, recs := c.recs ++ [record 3 0 off] } }) ∧
    (c.st = .draining → c.enRec = none → c.rx? = false → c.abortEnt = true → c.fail = none → room →
      let to_ (x : Stream) : Host.Outcome State Fault Refusal := .next { s with
        engines := push { data := 0, tag := .abort, nbits := 0, stamp := none },
        streams := s.streams.upd n { x with abortEnt := false, st := .off, cfg := c.cfg &&& ~~~1 } }
      (c.tx = none → exec (.sfTxEntry n []) s = to_ { c with queued := false }) ∧
      (∀ f, c.tx = some f → c.chain = true → f.closed = false →
        exec (.sfTxEntry n []) s = to_ { c with
          queued := true, cur := f.first,
          tx := some { f with desc := f.first, fetched := false, left := 0, nib := [], bits := [], fin := false,
                              started := false } })) ∧
    (∀ (e : OutEntry) (l : List OutEntry), c.st = .active → c.rx? = true → c.recs = [] → c.rx = none →
      (s.engines.at g).ofs.at k = e :: l →
      (e.tag = .stamp → exec (.sfRxEntry n []) s = .next { s with
        engines := pop l,
        streams := s.streams.upd n { c with rx := some (s.rxOpen n (some (fld e.data 0 42))) } }) ∧
      (e.tag = .abort → exec (.sfRxEntry n []) s = .next { s with engines := pop l }))) ∧
  (∀ (s : State) (n : Fin 128) (w : RxWork) (e : OutEntry) (l : List OutEntry), s.sfUp n = true → Memory.wf s.mem = true →
    let c := s.streams.at n
    let g := sfEng n c
    let k := sfFifo c
    let i := w.stored / 8 + 1
    let a := 0x1000000 + (c.base + (c.wp + 8 * i) % c.size) % 2 ^ 21
    c.st = .active → c.rx? = true → c.recs = [] → c.rx = some w → c.crcEn = false → bit c.cfg 20 = false →
    bit c.cfg 24 = false → c.bitOrd = false → (s.engines.at g).ofs.at k = e :: l → e.tag = .data → e.nbits = 63 →
    w.stored % 8 = 0 → w.word = [] → w.byteBits = [] → w.dropped = false → w.stored + 8 ≤ c.maxLen →
    8 + 8 * i ≤ c.space →
    ∃ z y, exec (.sfRxEntry n []) s = .next z ∧ (z.streams.at n).rx = some y ∧ y.stored = w.stored + 8 ∧ y.word = [] ∧
      z.mem.num a 8 = e.data.toNat ∧ (∀ b, b < a ∨ a + 8 ≤ b → z.mem.byte b = s.mem.byte b) ∧
      (z.engines.at g).ofs.at k = l ∧
      z = { s with engines := z.engines, streams := z.streams, mem := z.mem, seqs := z.seqs })

/-- R214, R215: a pin engine is enabled into HALT, or turned away with CFGERR; disabled it is OFF at once from HALT, ERROR or an
instruction with the idle mark, and drains otherwise; ABORT in DRAINING ends it with an ABORT entry for each output FIFO that
holds an open frame, pushed at once where there is room and owed otherwise. Inside a step, which some lanes have taken and
others have not, it goes off at the step's end. The watermark of R201 is noted. R214, R215: GO, with NEWPC and CLEAR, starts an
engine in HALT or ends it with PCBOUND; HALT stops it with its state kept, at the end of the step where it is inside one; CLRERR
leaves ERROR; an ABORT entry that is owed is pushed to the first FIFO with room; FLUSH_I and FLUSH_O empty the FIFOs that are
attached to no stream channel. A command that does not apply changes nothing: log entry 2. Readings and choices behind it: log
entry 28. -/
def Obligations.EngineControl : Prop :=
  (∀ (s : State) (n : Fin 64) (v : W32), s.engUp n = true →
    let e := s.engines.at n
    let w := v &&& 0x7FFFFF77
    let m := s.outMark n
    let to_ (x : Engine) : Host.Outcome State Fault Refusal := .next { s with engines := s.engines.upd n x }
    (e.st = .off → e.en = false → bit v 0 = true → e.cfgOk = true →
      exec (.peEnable n v) s = to_ { e with
        wm := m, cfg := w, st := .halt, lvVal := 0, rep := 0, stepDone := 0 }) ∧
    (e.st = .off → e.en = false → bit v 0 = true → e.cfgOk = false →
      exec (.peEnable n v) s = to_ { e with wm := m, cfg := w &&& ~~~1, cfgErr := true }) ∧
    (e.st = .halt ∨ e.st = .error → e.en = true → e.enRec = none → bit v 0 = false →
      exec (.peDisable n v) s = to_ { e with
        wm := m, cfg := w &&& ~~~1, st := .off, stallOn := .none, clk := [], stepDone := 0, stop := none }) ∧
    (e.st = .run ∨ e.st = .stall ∨ e.st = .wait → e.en = true → bit v 0 = false → bit v 1 = false →
      (s.peIdle n = false → e.stop = none → exec (.peDisable n v) s = to_ { e with wm := m, cfg := w, st := .draining }) ∧
      (s.peIdle n = true ∨ e.stop ≠ none → e.stepDone = 0 → e.enRec = none →
        exec (.peDisable n v) s = to_ { e with
          wm := m, cfg := w &&& ~~~1, st := .off, stallOn := .none, clk := [], stepDone := 0, stop := none }) ∧
      (s.peIdle n = true ∨ e.stop ≠ none → e.stepDone ≠ 0 →
        exec (.peDisable n v) s = to_ { e with wm := m, cfg := w, st := .draining, stop := some (.off false) })) ∧
    (e.st = .draining → bit v 0 = false → bit v 1 = true →
      (e.stepDone ≠ 0 → exec (.peAbort n v) s = to_ { e with wm := m, cfg := w, enRec := none, stop := some (.off true) }) ∧
      (e.stepDone = 0 → ∃ x : Engine, exec (.peAbort n v) s = to_ { x with
          wm := m, cfg := w &&& ~~~1, st := .off, stallOn := .none, clk := [], stepDone := 0, enRec := none, stop := none } ∧
        x = { e with ofs := x.ofs, ofOpen := x.ofOpen, abortPend := x.abortPend } ∧
        ∀ k : Fin 8,
          let owed := e.abortPend.getLsbD k.val || e.ofOpen.getLsbD k.val
          let now := owed && decide ((e.ofs.at k).length < 4)
          x.ofs.at k = (if now then e.ofs.at k ++ [{ data := 0, tag := .abort, nbits := 0, es := e.ct }] else e.ofs.at k) ∧
          x.ofOpen.getLsbD k.val = (e.ofOpen.getLsbD k.val && !now) ∧ x.abortPend.getLsbD k.val = (owed && !now)))) ∧
  (∀ (s : State) (n : Fin 64), s.engUp n = true →
    let e := s.engines.at n
    let to_ (x : Engine) : Host.Outcome State Fault Refusal := .next { s with engines := s.engines.upd n x }
    let quiet : Prop := e.st = .off ∨ e.st = .halt ∨ e.st = .error
    (e.st = .halt → e.pclo ≤ e.pc.toNat → e.pc.toNat ≤ e.pchi → exec (.peGo n) s = to_ { e with st := .run, goCfg := e.cfg }) ∧
    (e.st = .halt → ¬ (e.pclo ≤ e.pc.toNat ∧ e.pc.toNat ≤ e.pchi) →
      exec (.peGo n) s = to_ { e with
        st := .error, cause := .pcBound, stallOn := .none, clk := [], stepDone := 0, enRec := none, stop := none }) ∧
    (e.st ≠ .halt → exec (.peGo n) s = .next s) ∧
    (e.st = .halt → e.pclo ≤ (fld e.pcReg 16 8).toNat → (fld e.pcReg 16 8).toNat ≤ e.pchi →
      exec (.peNewpc n false) s = to_ { e with
        pc := fld e.pcReg 16 8, rep := 0, stepDone := 0, st := .run, goCfg := e.cfg }) ∧
    (e.st = .halt → e.pclo ≤ e.pc.toNat → e.pc.toNat ≤ e.pchi →
      exec (.peClear n) s = to_ { e with
        osr := 0, isr := 0, ocnt := 0, icnt := 0, cvLev := 0, cvPres := 0, eq := false, lvLev := 0, lvVal := 0, st := .run,
        goCfg := e.cfg }) ∧
    (e.st = .run ∨ e.st = .stall ∨ e.st = .wait →
      exec (.peHalt n) s = to_ (
        if e.stepDone = 0 then { e with wm := s.outMark n, st := .halt, stallOn := .none, clk := [], stop := none }
        else { e with wm := s.outMark n, stop := some .halt })) ∧
    (e.st = .error → exec (.peClrerr n) s = to_ { e with st := if e.en then .halt else .off, cause := .none }) ∧
    (e.st ≠ .error → exec (.peClrerr n) s = .next s) ∧
    (e.abortPend = 1 → (e.ofs.at 0).length < 4 → exec (.peAbortEntryPush n) s = to_ { e with
      abortPend := 0, ofs := e.ofs.upd 0 (e.ofs.at 0 ++ [{ data := 0, tag := .abort, nbits := 0, es := e.ct }]),
      ofOpen := e.ofOpen &&& 0xFE }) ∧
    (quiet → ∃ x, exec (.peFlushI n) s = to_ x ∧ x = { e with ifs := x.ifs } ∧
      ∀ k, x.ifs.at k = if s.sfAttached n false k.val then e.ifs.at k else []) ∧
    (quiet → ∃ x, exec (.peFlushO n) s = to_ x ∧ x = { e with ofs := x.ofs, abortPend := x.abortPend } ∧
      (∀ k, x.ofs.at k = if s.sfAttached n true k.val then e.ofs.at k else []) ∧
      ∀ k : Fin 8, x.abortPend.getLsbD k.val = (e.abortPend.getLsbD k.val && s.sfAttached n true k.val)) ∧
    (¬ quiet → exec (.peFlushI n) s = .next s ∧ exec (.peFlushO n) s = .next s))

/-- R165, R212, R218, R219: the host pushes to an input FIFO and pops an output FIFO where no stream channel is attached, with
ATTERR, IFOVF or FIFOERR otherwise; an inspection item and a program word are written. Readings and choices behind it: log entry
28. -/
def Obligations.EngineHostAccess : Prop :=
  ∀ (s : State) (n : Fin 64), s.engUp n = true →
    let e := s.engines.at n
    let to_ (x : Engine) : Host.Outcome State Fault Refusal := .next { s with engines := s.engines.upd n x }
    (∀ (v : W32) (k : Fin 8), k.val = fldN v 8 3 →
      (s.sfAttached n false k.val = true → exec (.peFaccPush n v) s = to_ { e with attErr := true }) ∧
      (s.sfAttached n false k.val = false → (e.ifs.at k).length < 4 →
        exec (.peFaccPush n v) s = to_ { e with ifs := e.ifs.upd k (e.ifs.at k ++
          [{ data := e.fdata, tag := tagOf (fldN v 6 2), nbits := Fin.ofNat 64 (fldN v 0 6), stamp := none }]) }) ∧
      (s.sfAttached n false k.val = false → 4 ≤ (e.ifs.at k).length → s.engOwner n = none →
        exec (.peFaccPush n v) s = to_ { e with ifOvf := true })) ∧
    (∀ k : Fin 8, k.val = fldN e.cfg 28 3 →
      (s.sfAttached n true k.val = true → exec (.peFaccPop n) s = to_ { e with attErr := true }) ∧
      (s.sfAttached n true k.val = false → e.ofs.at k = [] → exec (.peFaccPop n) s = to_ { e with fifoErr := true }) ∧
      (∀ x l, s.sfAttached n true k.val = false → e.ofs.at k = x :: l →
        exec (.peFaccPop n) s = to_ { e with ofs := e.ofs.upd k l, fdata := x.data })) ∧
    (∀ (g : Fin 16) (v : W32), s.inspected g = n →
      (e.st = .off ∨ e.st = .halt →
        (fldN (s.groups.at g).isel 0 4 = 14 → exec (.inspectWrite g v) s = to_ { e with cmpVal := v }) ∧
        (fldN (s.groups.at g).isel 0 4 = 15 → exec (.inspectWrite g v) s = to_ { e with cmpMask := v }) ∧
        (fldN (s.groups.at g).isel 0 4 = 0 →
          exec (.inspectWrite g v) s = to_ { e with osr := e.osr.extractLsb' 32 32 ++ v }) ∧
        (fldN (s.groups.at g).isel 0 4 = 5 →
          exec (.inspectWrite g v) s = to_ { e with rep := fldN v 16 16, pc := fld v 0 8, stepDone := 0 })) ∧
      (e.st ≠ .off → e.st ≠ .halt → exec (.inspectWrite g v) s = to_ { e with cfgIgn := true })) ∧
    (∀ (r : Req) (g : Fin 16) (i : Fin 256) (v : W32),
      s.refusal r true (0x120000 + 0x400 * g.val + 4 * i.val) 4 v.toNat = none →
      ∃ z, exec (.programWordWrite r g i v) s = .next z ∧ z = { s with groups := z.groups, engines := z.engines } ∧
        (∀ m, z.engines.at m = if engGroup m = g ∧ (s.engines.at m).pc.toNat = i.val then { s.engines.at m with stepDone := 0 }
                               else s.engines.at m) ∧
        (∀ h, h ≠ g → z.groups.at h = s.groups.at h) ∧ (z.groups.at g).isel = (s.groups.at g).isel ∧
        (sparseWf 0 (s.groups.at g).prog = true → ∀ j, z.progWord g j = if j = i.val then v else s.progWord g j))

/-- R198, R199, R205, R207, R211, R220, R222, R225, R229 to R233: the instructions of a pin engine that take no capture and
drive no lane, and an illegal word. An instruction of which more than one step is left comes one step further and stays where it
is. Readings and choices behind it: log entry 28. -/
def Obligations.EngineInstructions : Prop :=
  (∀ (s : State) (n : Fin 64) (w : W32) (np r : Nat), s.engineAt n w r → r ≠ 0 →
    (s.engines.at n).nextPc = some np →
    let e := s.engines.at n
    let k : Fin 8 := Fin.ofNat 8 (fldN w 0 3)
    let t := fldN w 3 2
    let seq (x : Engine) : Engine :=
      { x with st := .run, stallOn := .none, pc := if r = 1 then BitVec.ofNat 8 np else e.pc, rep := r - 1, stepDone := 0 }
    let to_ (x : Engine) : Host.Outcome State Fault Refusal := .next { s with engines := s.engines.upd n x }
    let imm : W32 := (fld w 0 16).setWidth 32
    let load (x : W32) : W32 := if bit w 25 then (x &&& 0xFFFF) ||| (imm <<< 16) else (x &&& 0xFFFF0000) ||| imm
    let off : BitVec 40 := (fld w 0 24).signExtend 40
    let lim := e.atNs + BitVec.ofNat 40 e.clkOff
    let armed (a : BitVec 48) (x : Engine) : Engine := { x with
      at_ := a,
      clk := if e.clkEn && (e.clk.isEmpty || bit e.clkReg 26) then
               (e.clk.map fun r => { r with lim := some (r.lim.getD lim) }).filter e.clkLeft ++
                 [{ a := a.extractLsb' 8 40, k := 0, lim := none }]
             else e.clk }
    let p := e.abortInto k
    let took (x : Engine) : Engine := if t = 2 then x else { x with isr := 0, icnt := 0 }
    (∀ x l, peOpc w = 1 → e.ifs.at k = x :: l → exec (.pePull n) s = to_ (seq { e with
      ifs := e.ifs.upd k l, osr := x.data, lt := x.tag, ps := x.stamp.getD e.ps, pv := x.stamp.isSome || e.pv,
      ocnt := if x.tag = .data ∨ x.tag = .last then x.nbits.val + 1 else 0 })) ∧
    (peOpc w = 1 → e.ifs.at k = [] → exec (.pePull n) s = to_ { e with st := .stall, stallOn := .pull, rep := r }) ∧
    (peOpc w = 2 → (p.ofs.at k).length < 4 → exec (.pePush n) s = to_ (took (seq { p with
      ofOpen := if t = 0 ∨ t = 2 then p.ofOpen ||| BitVec.ofNat 8 (2 ^ k.val) else p.ofOpen &&& ~~~ BitVec.ofNat 8 (2 ^ k.val)
      ofs := p.ofs.upd k (p.ofs.at k ++ [{
        data := if t = 2 then e.ct.setWidth 64 else if t = 3 then 0 else e.isr >>> (64 - e.icnt)
        tag := tagOf t, nbits := if t < 2 then Fin.ofNat 64 (e.icnt - 1) else 0, es := e.ct }]) }))) ∧
    (peOpc w = 2 → 4 ≤ (p.ofs.at k).length → bit e.goCfg (8 + k.val) = true → s.engOwner n = none →
      exec (.pePush n) s = to_ (took (seq { p with ofOvf := true }))) ∧
    (peOpc w = 2 → 4 ≤ (p.ofs.at k).length → bit e.goCfg (8 + k.val) = false →
      exec (.pePush n) s = to_ { p with st := .stall, stallOn := .push, rep := r }) ∧
    (e.abortPend.getLsbD k.val = false ∨ 4 ≤ (e.ofs.at k).length → p = e) ∧
    (e.abortPend.getLsbD k.val = true → (e.ofs.at k).length < 4 → (p.abortPend.getLsbD k.val = false) ∧
      p.ofs = e.ofs.upd k (e.ofs.at k ++ [{ data := 0, tag := .abort, nbits := 0, es := e.ct }])) ∧
    (peOpc w = 7 → fldN w 24 2 = 0 → e.pv = true → fldN e.ps 40 3 = e.adom.val →
      exec (.peSched n) s = to_ (seq (armed (e.ps.setWidth 40 ++ (0 : BitVec 8)) e))) ∧
    (peOpc w = 7 → (fldN w 24 2 = 0 ∧ (e.pv = false ∨ fldN e.ps 40 3 ≠ e.adom.val)) ∨ (fldN w 24 2 = 1 ∧ e.adom ≠ 0) →
      exec (.peSched n) s = to_ { e with
        st := .error, cause := .domain, stallOn := .none, clk := [], stepDone := 0, enRec := none,
        rep := r }) ∧
    (peOpc w = 7 → fldN w 24 2 = 1 → e.adom = 0 →
      exec (.peSched n) s = to_ (seq (armed ((e.ct.extractLsb' 2 40 + off) ++ (0 : BitVec 8)) e))) ∧
    (peOpc w = 7 → fldN w 24 2 = 2 → exec (.peSched n) s = to_ (seq { e with at_ := e.at_ + (off ++ (0 : BitVec 8)) })) ∧
    (peOpc w = 8 → exec (.peCmp n) s = to_ (seq { e with
      eq := decide (((if bit w 25 then e.cvLev.setWidth 32 else e.isr.extractLsb' 32 32) ^^^ e.cmpVal) &&& e.cmpMask = 0) })) ∧
    (peOpc w = 9 → exec (.peLdcmp n) s = to_ (seq (
      if bit w 24 then { e with cmpMask := load e.cmpMask } else { e with cmpVal := load e.cmpVal }))) ∧
    (peOpc w = 10 → exec (.peLdper n) s = to_ (seq { e with period := (fld w 0 24).setWidth 32 })) ∧
    (peOpc w = 11 → exec (.peSig n) s = .next { s with
      engines := s.engines.upd n (seq { e with sigF := true })
      sn := if bit e.goCfg 24 then { s.sn with fired := s.sn.fired ++ [{ ch := Fin.ofNat 256 (fldN e.goCfg 16 8), hop := 0, fired := none }] }
            else s.sn }) ∧
    (peOpc w = 12 → (e.cond w != bit w 25) = false → exec (.peJmp n) s = to_ (seq e)) ∧
    (peOpc w = 12 → (e.cond w != bit w 25) = true → r ≠ 1 ∨ e.pclo ≤ fldN w 0 8 ∧ fldN w 0 8 ≤ e.pchi →
      exec (.peJmp n) s = to_ { seq e with pc := if r = 1 then BitVec.ofNat 8 (fldN w 0 8) else e.pc }) ∧
    (peOpc w = 12 → r = 1 → (e.cond w != bit w 25) = true → ¬ (e.pclo ≤ fldN w 0 8 ∧ fldN w 0 8 ≤ e.pchi) →
      exec (.peJmp n) s = to_ { e with
        st := .error, cause := .pcBound, stallOn := .none, clk := [], stepDone := 0, enRec := none,
        rep := 0 })) ∧
  (∀ (s : State) (n : Fin 64) (w : W32), s.engineAt n w 1 → peOpc w = 10 → (s.engines.at n).nextPc = none →
    exec (.peLdper n) s = .next { s with engines := s.engines.upd n { s.engines.at n with
      period := (fld w 0 24).setWidth 32
      st := .error, cause := .pcBound, stallOn := .none, clk := [], stepDone := 0, enRec := none, rep := 0 } }) ∧
  ∀ (s : State) (n : Fin 64), s.engUp n = true → (s.engines.at n).st.live = true →
    (s.engines.at n).legal (s.peWord n) = false →
    exec (.peIllegal n) s = .next { s with engines := s.engines.upd n { s.engines.at n with
      st := .error, cause := .illegal, stallOn := .none, clk := [], stepDone := 0, enRec := none, stop := none } }

/-- R195, R203, R204, R206, R208, R226 to R229: OUT and SET enqueue at floor(AT) to their lanes and move AT by PERIOD; IN and
WAIT take the capture set that is released, or wait for one; the release ends WAIT, the instruction taking the set; a halt or a
stop asked for inside an OUT step comes at its end; and the clock generator enqueues its next toggle. The instants of commands
follow log entry 1. Readings and choices behind it: log entry 28. -/
def Obligations.EngineLaneInstructions : Prop :=
  (∀ (s z : State) (n : Fin 64) (w : W32) (np r : Nat), s.engineAt n w r →
    (s.engines.at n).nextPc = some np →
    let e := s.engines.at n
    let s1 : State := { s with engines := s.engines.upd n { e with rep := r } }
    let after (x : Engine) : Prop :=
      x.st = .run ∧ x.stepDone = 0 ∧
        if r ≤ 1 then x.pc = BitVec.ofNat 8 np ∧ x.rep = 0 else x.pc = e.pc ∧ x.rep = r - 1
    (peOpc w = 3 → r ≠ 0 → s1.enqAll n false e.adom e.atNs .drive e.outSet = (z, .done) →
      ∃ x, exec (.peOut n) s = .next { z with engines := z.engines.upd n x } ∧ after x ∧
        x.osr = e.osr >>> e.wo ∧ x.ocnt = e.ocnt - e.wo ∧ x.at_ = e.at_ + e.per) ∧
    (peOpc w = 6 → r ≠ 0 → s1.enqAll n false e.adom e.atNs (actOp (fldN w 23 3))
        (((List.range 16).filter fun i => bit w i).map fun i => (i, bit w 22)) = (z, .done) →
      ∃ x, exec (.peSet n) s = .next { z with engines := z.engines.upd n x } ∧ after x ∧
        x.at_ = (if bit w 21 then e.at_ + e.per else e.at_) ∧
        x.lvVal = (if fldN w 23 3 = 0 then e.lvVal ||| fld w 0 16
                   else if fldN w 23 3 ≤ 3 then e.lvVal &&& ~~~ fld w 0 16 else e.lvVal) ∧
        x.lvLev = if fldN w 23 3 ≠ 0 then e.lvLev
                  else if bit w 22 then e.lvLev ||| fld w 0 16 else e.lvLev &&& ~~~ fld w 0 16) ∧
    (∀ t, peOpc w = 4 → r ≠ 0 → bit w 24 = false → s.released n = some t →
      ∃ y x, exec (.peIn n) s = .next y ∧ y = { s with engines := s.engines.upd n x, lanes := y.lanes } ∧ after x ∧
        x.ct = t.ns.setWidth 40 ++ t.q ∧ x.icnt = min 64 (e.icnt + e.wi) ∧
        x.isr = (e.isr >>> e.wi) ||| (BitVec.ofNat 64 x.inBits <<< (64 - e.wi)) ∧
        (∀ i ∈ s.consume n, ((s.lanes.at (engLane n i)).cq.head?).map (fun c => c.stamp) = some t →
          x.cvPres.getLsbD i = true ∧ (y.lanes.at (engLane n i)).cq = (s.lanes.at (engLane n i)).cq.tail ∧
          some (x.cvLev.getLsbD i) = ((s.lanes.at (engLane n i)).cq.head?).map fun c => c.v)) ∧
    (∀ t, peOpc w = 5 → r ≠ 0 → s.released n = some t →
      ∃ y x, exec (.peWait n) s = .next y ∧ y = { s with engines := s.engines.upd n x, lanes := y.lanes } ∧ after x ∧
        x.ct = t.ns.setWidth 40 ++ t.q ∧ x.isr = e.isr ∧ x.icnt = e.icnt) ∧
    (∀ t, peOpc w = 4 → r ≠ 0 → bit w 24 = true → s.released n = some t →
      ∃ y x, exec (.peIn n) s = .next y ∧ y = { s with engines := s.engines.upd n x, lanes := y.lanes } ∧
        let isr := (e.isr >>> e.wi) ||| (BitVec.ofNat 64 x.inBits <<< (64 - e.wi))
        x.eq = decide ((isr.extractLsb' 32 32 ^^^ e.cmpVal) &&& e.cmpMask = 0) ∧
        if x.eq then x.st = .run ∧ x.stepDone = 0 ∧ x.pc = BitVec.ofNat 8 np ∧ x.rep = 0 ∧ x.isr = 0 ∧ x.icnt = 0
        else after x ∧ x.isr = isr ∧ x.icnt = min 64 (e.icnt + e.wi)) ∧
    (peOpc w = 4 ∨ peOpc w = 5 → r ≠ 0 → s.released n = none →
      exec (if peOpc w = 4 then .peIn n else .peWait n) s = .next { s with engines := s.engines.upd n { e with
        st := .wait, stallOn := .none, rep := r } }) ∧
    (∀ c ∈ [(3, Instr.peOut n), (4, .peIn n), (5, .peWait n)], peOpc w = c.1 → r = 0 →
      exec c.2 s = .next { s with engines := s.engines.upd n { e with
        st := .run, stallOn := .none, pc := BitVec.ofNat 8 np, rep := 0, stepDone := 0 } })) ∧
  (∀ (s : State) (t : Instant) (n : Fin 64), let a := s.advance t
    (a.engines.at n).st = .wait → a.released n ≠ none →
    ∃ z, exec (.captureSetRelease t n) s = .next z ∧
      exec (if peOpc (a.peWord n) = 4 then .peIn n else .peWait n) a = .next z) ∧
  (∀ (s z : State) (n : Fin 64) (r : Nat) (p : PeStop),
    let e := s.engines.at n
    s.engUp n = true → e.st = .run ∨ e.st = .stall ∨ e.st = .draining → e.legal (s.peWord n) = true → peOpc (s.peWord n) = 3 →
    e.rep = r + 2 → e.stop = some p → e.enRec = none → s.enqAll n false e.adom e.atNs .drive e.outSet = (z, .done) →
    ∃ x, exec (.peOut n) s = .next { z with engines := z.engines.upd n x } ∧ x.rep = r + 1 ∧ x.pc = e.pc ∧ x.stop = none ∧
      x.at_ = e.at_ + e.per ∧ x.osr = e.osr >>> e.wo ∧
      (p = .halt → x.st = .halt) ∧ (∀ b, p = .off b → x.st = .off ∧ x.en = false)) ∧
  (∀ (s z : State) (n : Fin 64) (r : ClkRun) (l : List ClkRun), let e := s.engines.at n
    let due : BitVec 40 := r.a + BitVec.ofNat 40 (e.clkOff + r.k * e.clkHalf)
    s.engUp n = true → e.st.live = true → s.ticking = true → e.clk = r :: l →
    bit e.clkReg 26 = false ∨ r.lim ≠ none ∨ (due - (e.atNs + BitVec.ofNat 40 e.clkOff)).toInt < 0 →
    s.enqLane (engLane n e.clkLane) .drive (bit e.clkReg 25 != decide (r.k % 2 = 0)) e.adom due = (z, .ok) →
    exec (.clockToggle n) s = .next { z with engines := s.engines.upd n { e with
      clk := ({ r with k := r.k + 1 } :: l).filter e.clkLeft } }) ∧
  ∀ (s z : State) (n : Fin 64) (td : Fin 8) (ns : BitVec 40) (op : ActOp) (l : List (Nat × Bool)) (r : StepRes)
    (u : Bool), s.enqAll n u td ns op l = (z, r) →
    z = { s with engines := z.engines, lanes := z.lanes, chans := z.chans, seqs := z.seqs } ∧
    (∀ m, m ≠ n → z.engines.at m = s.engines.at m) ∧
    (z.engines.at n = { s.engines.at n with stepDone := (z.engines.at n).stepDone }) ∧
    (r = .done → (∀ p ∈ l, p.1 < 16) → ∀ p ∈ l, (z.engines.at n).stepDone.getLsbD p.1 = true)

/-- R403, R406, R416: a guardian channel is enabled into WAIT, or turned away with CFGERR and its cause, the range checked
before the table; disabled it ends at once, or drains while a relay or a frame is in progress, or in HOLD, and not aborted;
ABORT ends the draining, with the written word taken as in OFF (R354); a drain in which nothing is in progress has ended; CLRERR
leaves ERROR; FLUSHQ empties the queue; a commit becomes pending, is refused or is late; and a set bit of GD_READMIT makes its
isolated branch ACTIVE, and is remembered with its ns. R393, R394, R396, R399 to R403: a cycle start ends WAIT and moves the
histories of the branches; a window opens, closes, starts and ends its relay; an edge of RXD is noted, and a falling edge in the
open window starts the relay and the decoder, or, from idle, sets BLOCK or MULTI; a cut relay is a truncation, which isolates
the branch at the threshold, unless a READMIT of the same ns follows it; a relay shows RXD on the other used branches, and on
its own with ECHO; a local frame shows its half-bits, each once; while the channel does not run TXEN is 0 and TXD is 1. The
instants of commands follow log entry 1. A command that does not apply changes nothing: log entry 2. Readings and choices behind
it: log entry 10. -/
def Obligations.GuardianControl : Prop :=
  (∀ (s : State) (x : Fin 2) (v : W32), s.up = true →
    let g := s.gds.at x
    let w := v &&& 0x003E0F7F
    let kept : W32 := (g.cfg &&& ~~~0x003E000D) ||| (w &&& 0x003E000D)
    let m := s.gdMark x
    let new : Guardian := { g with mark := m, cfg := w }
    let b : Fin 64 := Fin.ofNat 64 (fldN v 0 6)
    let passed (j : Nat) : Prop := notBefore (s.gdNow x) (g.latchAt (g.cycleOf (fld v 16 8)) j) = true
    let to_ (y : Guardian) : Host.Outcome State Fault Refusal := .next { s with gds := s.gds.upd x y }
    let steady (c : Fin 2) : Prop :=
      (s.gds.at c).st = .draining → (s.gds.at c).busy (s.gdNow c) = true ∨ s.gdLive c = false
    let off (y : Guardian) : Guardian := { y with st := .off, win := none, dec := none, ready := [], tx := none }
    let pending (p : Option (Option Byte)) : Guardian :=
      { g with bstat := g.bstat.upd b { g.bstat.at b with pend := p } }
    (g.st = .off → bit g.cfg 0 = false → bit v 0 = true → new.rangeOk = false →
      exec (.gdEnable x v) s = to_ { new with enRec := none, cfg := w &&& ~~~1, cfgErr := true, cause := .range }) ∧
    (g.st = .off → bit g.cfg 0 = false → bit v 0 = true → new.rangeOk = true → new.tableOk new.slots 0 0 = false →
      exec (.gdEnable x v) s = to_ { new with enRec := none, cfg := w &&& ~~~1, cfgErr := true, cause := .table }) ∧
    (g.st = .off → bit g.cfg 0 = false → bit v 0 = true → new.rangeOk = true → new.tableOk new.slots 0 0 = true →
      ∃ br, exec (.gdEnable x v) s = to_ { new with
          enRec := none, st := .wait, cyc := 0, devV := false, lastSync := none, sent := []
          twg := (g.sslen + 2) * g.bt + 8, branches := br } ∧
        ∀ k, br.at k = { g.branches.at k with st := if new.uses k.val then .active else .off, hist := [] }) ∧
    (g.st = .wait ∨ g.st = .run → bit g.cfg 0 = true → g.enRec = none → bit v 0 = false →
      exec (.gdDisable x v) s = to_ (
        if bit v 2 = true ∨ (g.busy (s.gdNow x) = false ∧ s.gdLive x = true) then off { g with mark := m, cfg := kept }
        else { g with mark := m, cfg := kept, st := .draining })) ∧
    (g.st = .error → bit g.cfg 0 = true → bit v 0 = false →
      exec (.gdDisable x v) s = to_ (off { g with mark := m, cfg := kept })) ∧
    (g.st = .draining → g.busy (s.gdNow x) = true ∨ s.gdLive x = false → bit v 0 = false → bit v 2 = true →
      exec (.gdAbort x v) s = to_ (off { g with mark := m, cfg := w, enRec := none })) ∧
    (g.st = .error → bit g.cfg 0 = true → exec (.gdClrerr x) s = to_ { g with st := .wait }) ∧
    (g.st ≠ .error → exec (.gdClrerr x) s = .next s) ∧
    (g.st = .off ∨ g.st = .error → exec (.flushq x) s = to_ { g with rxq := [] }) ∧
    (g.st ≠ .off → g.st ≠ .error → steady x → exec (.flushq x) s = .next s) ∧
    (steady x →
      ((g.bstat.at b).pend ≠ none → exec (.txCommit x v) s = to_ { g with cmErr := true }) ∧
      ((g.bstat.at b).pend = none → bit v 31 = false → exec (.txCommit x v) s = to_ (pending (some none))) ∧
      ((g.bstat.at b).pend = none → bit v 31 = true →
        (∃ j, j < g.slots ∧ (g.slot j).kind = 2 ∧ (g.slot j).buf = b ∧ ¬ passed j) →
        exec (.txCommit x v) s = to_ (pending (some (some (fld v 16 8))))) ∧
      ((g.bstat.at b).pend = none → bit v 31 = true →
        (∀ j, j < g.slots → (g.slot j).kind = 2 → (g.slot j).buf = b → passed j) → s.gdOwner x = none →
        exec (.txCommit x v) s = to_ { g with late := true })) ∧
    (¬ steady x → g.enRec = none →
      let z : State := { s with gds := s.gds.upd x (off { g with mark := m, cfg := g.cfg &&& ~~~1 }) }
      exec (.txCommit x v) s = exec (.txCommit x v) z ∧ exec (.flushq x) s = exec (.flushq x) z) ∧
    (steady 0 → steady 1 → ∃ gs, exec (.readmit v) s = .next { s with gds := gs } ∧ ∀ c : Fin 2, ∃ br,
      gs.at c = { s.gds.at c with branches := br } ∧ ∀ k : Fin 16,
        let o := (s.gds.at c).branches.at k
        br.at k = if bit v (16 * c.val + k.val) = false then o
          else if o.st = .isolated then { o with st := .active, hist := [], readmit := s.nsNow.map fun g => (g, true) }
          else { o with readmit := s.nsNow.map fun g => (g, false) })) ∧
  ((∀ (s : State) (t : Instant) (x : Fin 2),
    let a := s.advance t
    let g := a.gds.at x
    let d := a.gdNow x
    let m := a.gdMark x
    let to_ (y : Guardian) : Host.Outcome State Fault Refusal := .next { a with gds := a.gds.upd x y }
    let edged (k : Fin 16) (f : Branch → Branch) : Guardian :=
      { g with branches := g.branches.upd k (f (g.branches.at k)) }
    a.gdLive x = true →
    (∀ c, g.cycleAt d = some c →
      let moved := g.branches.map fun b => { b with hist := (List.replicate (min (c - g.cyc) 16) 0 ++ b.hist).take 16 }
      (g.st = .wait → exec (.cycleStart t x) s = to_ { g with st := .run, cyc := c, branches := moved }) ∧
      (g.st = .run ∨ g.st = .draining ∧ g.busy d = true →
        exec (.cycleStart t x) s = to_ { g with cyc := c, branches := moved })) ∧
    (g.st = .run →
      (∀ (j : Fin 2048) (k : Fin 16), j.val < g.slots → g.slotBad j = false → (g.slot j).kind = 1 →
        notBefore d (g.winStart g.cyc j) = true → notBefore d (g.winEnd g.cyc j) = false →
        k = (if g.node then g.nbr else Fin.ofNat 16 (g.slot j).owner) →
        let low := !(g.branches.at k).rxd && !g.node
        let w : Window := { slot := j, cyc := g.cyc, branch := k, relay := false, relayed := false, dead := low }
        exec (.windowOpen t x j) s = to_ (
          if low then { edged k fun b => b.truncate g.isoThr g.isoWin a.nsNow with win := some w } else { g with win := some w })) ∧
      (∀ w, g.win = some w → notBefore d (g.winEnd w.cyc w.slot) = true →
        let cut (d : Decode) : Decode :=
          if g.node ∨ d.cut = true then d
          else { d with cut := true, trunc := w.relay, runs := d.runs ++ [match (g.branches.at d.branch).edge with
            | some e => g.heldFor e { ns := a.beryl.td0, q := 0 }
            | none => 0] }
        let y : Guardian := if w.relay then edged w.branch fun b => b.truncate g.isoThr g.isoWin a.nsNow else g
        exec (.windowClose t x) s = to_ { y with mark := m, win := none, dec := g.dec.map cut }) ∧
      (∀ w, g.win = some w → notBefore d (g.winEnd w.cyc w.slot) = false → exec (.windowClose t x) s = .next a) ∧
      (∀ (k : Fin 16) (v : Bool),
        let b := g.branches.at k
        let at_ (f : Branch → Branch) : Guardian := { edged k fun b => f { b with rxd := v, edge := some t } with mark := m }
        (b.rxd = v → exec (.relayStart t x k v) s = to_ { g with mark := m }) ∧
        let f (j c : Nat) : Decode := { stamp := t, slot := j, cyc := c, branch := k, trunc := false, cut := false, runs := [] }
        let grown := g.dec.map fun d : Decode =>
          if d.branch = k ∧ d.cut = false then
            { d with runs := d.runs ++ [match b.edge with | some e => spanQ e t | none => 0] } else d
        (b.rxd ≠ v → g.idleAt k t = false →
          (v = true ∨ g.uses k.val = false ∨ g.node = true ∨ (∀ w, g.win = some w → w.branch = k → w.relay = true) →
            exec (.relayStart t x k v) s = to_ { at_ id with dec := grown }) ∧
          (∀ w, v = false → g.uses k.val = true → g.node = false → g.win = some w → w.branch = k → w.relay = false →
            let y : Guardian := { at_ (if w.relayed then fun b => { b with multi := true } else id) with
              dec := some (grown.getD (f w.slot w.cyc)) }
            exec (.relayStart t x k v) s = to_ (
              if w.relayed = false ∧ w.dead = false ∧ b.st = .active then
                { y with win := some { w with relay := true, relayed := true } } else y))) ∧
        (v = false → g.idleAt k t = true → g.heard = none → g.uses k.val = true →
          (g.node = true → exec (.relayStart t x k v) s = to_ { at_ id with dec := some (f (g.slotNow d) g.cyc) }) ∧
          (∀ w, g.win = some w → g.node = false →
            (w.branch = k → w.relayed = true →
              exec (.relayStart t x k v) s = to_ { at_ fun b => { b with multi := true } with dec := some (f w.slot w.cyc) }) ∧
            (w.branch = k → w.relayed = false → w.dead = false → b.st = .active →
              exec (.relayStart t x k v) s = to_ { at_ id with
                dec := some (f w.slot w.cyc), win := some { w with relay := true, relayed := true } }) ∧
            (w.branch = k → w.relayed = false → w.dead = true ∨ b.st ≠ .active →
              exec (.relayStart t x k v) s = to_ { at_ id with dec := some (f w.slot w.cyc) }) ∧
            (w.branch ≠ k → exec (.relayStart t x k v) s = to_ (at_ fun b => { b with block := true }))) ∧
          (g.win = none → g.node = false →
            exec (.relayStart t x k v) s = to_ (at_ fun b => { b with block := true })))) ∧
      (∀ k, g.heard = some k → g.idleAt k t = true → exec (.relayEnd t x) s = to_ { g with
        win := g.win.map fun w => { w with relay := false }, dec := g.dec.filter fun d => g.recognised d t, mark := m }) ∧
      ((∀ k, g.heard = some k → g.idleAt k t = false) → exec (.relayEnd t x) s = .next a))) ∧
  (∀ (s : State) (x : Fin 2) (k : Fin 16),
    let g := s.gds.at x
    (s.gdLive x = false → s.gdTxen x k = false ∧ s.gdTxd x k = true) ∧
    (∀ w, s.gdLive x = true → g.win = some w → w.relay = true → bit g.brMask k.val = true →
      (k ≠ w.branch ∨ bit g.brMask (16 + k.val) = true) →
      s.gdTxen x k = true ∧ s.gdTxd x k = (g.branches.at w.branch).rxd) ∧
    (∀ f, s.gdLive x = true → g.win = none → g.tx = some f →
      let d := s.gdNow x
      let sends : Bool := f.mask.getLsbD k.val && notBefore d f.start && !notBefore d f.fin
      s.gdTxen x k = sends ∧
        s.gdTxd x k = if sends then (g.wave f.bytes).getD (max f.from_ ((d - f.start).toNat * 2 / g.bt)) true else true)) ∧
  (∀ (b : Branch) (thr win : Nat) (now : Option W64),
    let c := b.truncate thr win now
    c.trunc = true ∧ c.total.toNat = min 255 (b.total.toNat + 1) ∧ c.multi = b.multi ∧ c.block = b.block ∧
      ((∀ g i, b.readmit = some (g, i) → now ≠ some g) →
        c.hist = (b.hist.headD 0 + 1) :: b.hist.tail ∧
        (thr ≠ 0 → thr ≤ (c.hist.take win).foldl (· + ·) 0 → b.st = .active → c.st = .isolated ∧ c.isoF = true) ∧
        (thr = 0 ∨ (c.hist.take win).foldl (· + ·) 0 < thr ∨ b.st ≠ .active → c.st = b.st ∧ c.isoF = b.isoF)) ∧
      (∀ g i, b.readmit = some (g, i) → now = some g → c.st ≠ .isolated)))

/-- R399, R405, R407 to R410, R412: a frame that the decoder has followed to its end is judged: one without a fault fills the
back buffer of its pair and swaps it, a faulty one sets ERR alone, and one without a start delimiter, or outside every slot, is
dropped; the frame of a TX slot is latched with its pending commit or suppressed by the first check it fails, and sent once in
its cycle. R408: the checks of a frame of the local transmitter, in their order. The instants of commands follow log entry 1. A
command that does not apply changes nothing: log entry 2. Readings and choices behind it: log entry 10. -/
def Obligations.GuardianFrames : Prop :=
  (∀ (s : State) (t : Instant) (x : Fin 2),
    let a := s.advance t
    let g := a.gds.at x
    let now := a.gdNow x
    let to_ (y : Guardian) : Host.Outcome State Fault Refusal := .next { a with gds := a.gds.upd x y }
    a.gdLive x = true → g.st = .run →
    (∀ d : Decode, g.dec = some d → g.over d t = true →
      (g.decode d = none ∨ g.slots ≤ d.slot →
        exec (.gdFrameReceived t x) s = to_ { g with dec := none, mark := a.gdMark x }) ∧
      (∀ (l : List Byte) (bad : Bool), g.decode d = some (l, bad) → d.slot < g.slots → g.slotBad d.slot = false →
        let e := g.slot d.slot
        let b := g.bstat.at e.buf
        let v := gdJudge l bad d.trunc d.slot e
        let q := gdEntries g l v d.slot e d
        let base := 32 * e.buf.val + if b.front then 0 else 16
        (e.qen = false ∨ g.rxq.length + q.length ≤ 64) →
        ∃ y, exec (.gdFrameReceived t x) s = to_ y ∧
          y = { g with bstat := g.bstat.upd e.buf (y.bstat.at e.buf), bufs := y.bufs, bunc := y.bunc, mark := a.gdMark x
                       dec := none, dev := y.dev, devV := y.devV, lastSync := y.lastSync, rxq := y.rxq, qlost := y.qlost } ∧
          (y.rxq = if e.qen then g.rxq ++ q else g.rxq) ∧ (y.qlost = if e.qen then false else g.qlost) ∧
          (y.bstat.at e.buf = if e.kind ≠ 1 then b else if v.valid = false then { b with err := true }
            else if v.nd then { b with last := l.getD 2 0, nd := true, front := !b.front, seq := b.seq + 1 }
            else { b with last := l.getD 2 0 }) ∧
          (sparseWf 0 g.bufs = true → ∀ i, sparseGet 0 y.bufs i =
            if e.kind = 1 ∧ v.valid = true ∧ v.nd = true ∧ base ≤ i ∧ i < base + 2 * e.lenw then
              let k := 4 + 4 * (i - base)
              l.getD (k + 3) 0 ++ l.getD (k + 2) 0 ++ l.getD (k + 1) 0 ++ l.getD k 0
            else sparseGet 0 g.bufs i) ∧
          (if v.valid = true ∧ e.sync = true then y.devV = true ∧ y.lastSync = some g.cyc ∧
             y.dev = g.deviation ((a.beryl.convert 0 g.dom d.stamp.fix).1.extractLsb' 16 64) d
           else y.dev = g.dev ∧ y.devV = g.devV ∧ y.lastSync = g.lastSync))) ∧
    (∀ (j : Fin 2048) (c : Nat), j.val < g.slots → g.slotBad j = false → (g.slot j).kind = 2 →
      c = (if notBefore now (g.txStart g.cyc j) then g.cyc + 1 else g.cyc) → notBefore now (g.latchAt c j) = true → notBefore now (g.txEnd c j) = false →
      let e := g.slot j
      let b := g.bstat.at e.buf
      let swap : Bool := b.pend = some none ∨ b.pend = some (some (BitVec.ofNat 8 c))
      let half := b.front != swap
      let done : Prop := (j.val, c) ∈ g.sent ∨ ∃ f ∈ g.ready, f.slot = j.val ∧ f.cyc = c
      let cut (k : SuppCause) : Guardian := { g with
        sent := (j.val, c) :: g.sent, supp := true, sCause := k, suppCnt := if g.suppCnt = 255 then 255 else g.suppCnt + 1 }
      (done → exec (.txLatch t x j) s = .next a) ∧
      (∀ k, ¬ done → g.guard e half = some k → k ≠ .ecc → exec (.txLatch t x j) s = to_ (cut k)) ∧
      (¬ done → g.guard e half = some .ecc → a.gdOwner x = none → ∃ z, exec (.txLatch t x j) s = .next z ∧
        z.gds = a.gds.upd x { cut .ecc with ecc := true } ∧ z.mem.cells = a.mem.cells ∧
        z = { a with gds := z.gds, mem := z.mem, free := z.free }) ∧
      (¬ done → g.guard e half = none → exec (.txLatch t x j) s = to_ { g with
        bstat := g.bstat.upd e.buf (if swap then { b with front := half, pend := none, seq := b.seq + 1 } else b)
        ready := g.ready ++ [{ slot := j, cyc := c, bytes := gdBytes j c swap e (g.payload e.buf half e.lenw) }] })) ∧
    (∀ (j : Fin 2048) (f : TxFrame), g.ready.find? (fun f => f.slot = j.val) = some f →
      notBefore now (g.txStart f.cyc j) = true →
      let rest := g.ready.filter fun f => f.slot ≠ j.val
      ((j.val, f.cyc) ∈ g.sent → exec (.gdTxFrame t x j) s = to_ { g with ready := rest }) ∧
      ((j.val, f.cyc) ∉ g.sent →
        exec (.gdTxFrame t x j) s = to_ { g with
          ready := rest, sent := (j.val, f.cyc) :: g.sent
          tx := some { mask := if g.node then BitVec.ofNat 16 (2 ^ g.nbr.val) else g.brMask.setWidth 16, bytes := f.bytes
                       start := g.txStart f.cyc j
                       from_ := 0
                       fin := g.txStart f.cyc j + BitVec.ofNat 64 ((g.sslen + 2 + 8 * f.bytes.length + 1) * g.bt) } }))) ∧
  (∀ (g : Guardian) (e : Slot) (h : Bool),
    let limit := if fldN g.nodeCfg 0 20 = 0 then fldN g.gm 0 20 else fldN g.nodeCfg 0 20
    let fits : Prop := 2 * g.margin + (g.sslen + 2 + 8 * (8 + 8 * e.lenw) + 1) * g.bt ≤ e.dur
    let inSync : Prop := bit g.cfg 3 = true ∨ ∃ c, g.lastSync = some c ∧ g.cyc ≤ c + 1
    let near : Prop := g.devV = true → g.dev.toInt.natAbs ≤ limit
    let clean : Prop := ∀ w ∈ g.bunc, ¬ (32 * e.buf.val + 16 * b2n h ≤ w ∧ w < 32 * e.buf.val + 16 * b2n h + 2 * e.lenw)
    (g.guard e h = some .fit ↔ ¬ fits) ∧ (g.guard e h = some .noSync ↔ fits ∧ ¬ inSync) ∧
      (g.guard e h = some .dev ↔ fits ∧ inSync ∧ ¬ near) ∧
      (g.guard e h = some .ecc ↔ fits ∧ inSync ∧ near ∧ ¬ clean) ∧
      (g.guard e h = none ↔ fits ∧ inSync ∧ near ∧ clean))

/-- R428, R430, R431, R441 to R443: an arbitrated-bus cell is enabled into INTEG, or turned away with CFGERR and its cause;
disabled it is OFF at once but for a frame in progress; in FAULT an enable is checked too; ABORT abandons a received frame, and
stops one of the cell's own in its arbitration field at the next bit; a frame whose end has come is over; CLRFLT, RECOVER and
FLUSH act in their states alone, and not in HOLD; and a request is ignored, fails, waits for its instant, or follows the LATE
policy. A command that does not apply changes nothing: log entry 2. Readings and choices behind it: log entry 11. -/
def Obligations.ArbControl : Prop :=
  (∀ (s : State) (k : Fin 16) (v : W32), s.up = true →
    let z := s.abSettled.noteQueues
    let c := z.abs_.at k
    let en (b : Bool) : Prop := bit (s.abs_.at k).cfg 0 = b ∧ bit c.cfg 0 = b
    let w := v &&& 0x7FFFFFF3
    let kept : W32 := (c.cfg &&& ~~~0x78008003) ||| (w &&& 0x78008003)
    let ign : Bool := c.cfgIgn || decide ((c.cfg ^^^ w) &&& ~~~0x78008003 ≠ 0)
    let to_ (y : AbCell) : Host.Outcome State Fault Refusal := .next { z with abs_ := z.abs_.upd k y }
    let new : AbCell := { c with cfg := w, enRec := none }
    let off (y : AbCell) : AbCell := { y with
      st := .off, frame := none, errFrame := false, drive := none, recovering := false, faultAt := none }
    (c.st = .off → en false → bit v 0 = true → new.timingOk = false ∨ fldN v 20 2 = 3 →
      exec (.abEnable k v) s = to_ { new with
        cfg := w &&& ~~~1, cfgErr := true, cause := if new.timingOk then .mode else .timing }) ∧
    (c.st = .off → en false → bit v 0 = true → new.timingOk = true → fldN v 20 2 ≠ 3 →
      exec (.abEnable k v) s = to_ { new with
        st := .integ, tec := 0, rec_ := 0, ackRun := 0, enAt := s.now, twa := c.bitNs + 8
        frame := none, errFrame := false, drive := none, recovering := false }) ∧
    (c.st = .draining → en false → bit v 0 = true → bit v 1 = false →
      exec (.abEnable k v) s = to_ { c with cfg := kept &&& ~~~1, enRec := some w }) ∧
    (c.st = .integ ∨ c.st = .busOff ∨ (c.st = .run ∧ ((c.frame = none ∧ c.errFrame = false) ∨ s.ticking = false)) →
      en true → bit v 0 = false →
      exec (.abDisable k v) s = to_ (off { c with cfg := kept &&& ~~~1, cfgIgn := ign })) ∧
    (c.st = .run → c.frame ≠ none ∨ c.errFrame = true → s.ticking = true → en true → bit v 0 = false →
      bit v 1 = false → exec (.abDisable k v) s = to_ { c with cfg := kept, cfgIgn := ign, st := .draining }) ∧
    (c.st = .fault → en true → bit v 0 = false →
      exec (.abDisable k v) s = to_ { c with cfg := kept, cfgIgn := ign }) ∧
    (c.st = .fault → en false → bit v 0 = true → exec (.abEnable k v) s = to_ (
      if new.timingOk = false then { new with cfg := w &&& ~~~1, cfgErr := true, cause := .timing }
      else if fldN v 20 2 = 3 then { new with cfg := w &&& ~~~1, cfgErr := true, cause := .mode }
      else { new with enAt := s.now, twa := c.bitNs + 8 })) ∧
    (∀ f, (s.abs_.at k).st = .draining → c.st = .draining → c.frame = some f → bit v 0 = false → bit v 1 = true →
      let y : AbCell := { c with cfg := kept &&& ~~~1, enRec := some w }
      (f.offered = none → exec (.abAbort k v) s = to_ (off { c with cfg := w, enRec := none })) ∧
      (∀ b, f.offered = some b → exec (.abAbort k v) s = to_ (
        if notBefore s.now (f.sof + BitVec.ofNat 64 (c.arbNs b)) then y
        else { y with frame := some { f with endAt := some (y.driving f.sof (f.es :: f.edges) (y.wire b) s.now).2 } })))) ∧
  (∀ (s : State) (k : Fin 16),
    let z := s.abSettled
    let c := s.abs_.at k
    let y := z.abs_.at k
    z = { s with abs_ := z.abs_ } ∧
    (∀ f e, s.abLive = true → c.frame = some f → f.endAt = some e → notBefore s.now e = true →
      y.frame = none ∧ (c.st ≠ .draining → y.st = c.st) ∧
        (c.st = .draining → c.enRec = none → y.st = .off ∧ y.cfg = c.cfg &&& ~~~1)) ∧
    (s.abLive = false ∨ (∀ f e, c.frame = some f → f.endAt = some e → notBefore s.now e = false) → y = c)) ∧
  (∀ (s : State) (k : Fin 16) (v : W32), s.up = true →
    let c0 := s.abs_.at k
    let z := s.abSettled
    let c := z.abs_.at k
    let to0 (y : AbCell) : Host.Outcome State Fault Refusal := .next { s with abs_ := s.abs_.upd k y }
    let to_ (y : AbCell) : Host.Outcome State Fault Refusal := .next { z with abs_ := z.abs_.upd k y }
    let done (st : TbSt) : TxBuf := { st := st, due := false, retry := false, cancel := false, execAt := none }
    (c0.st = .fault → s.ticking = true →
      exec (.abClrflt k) s = to0 { c0 with st := if bit c0.cfg 0 then .integ else .off }) ∧
    (c0.st ≠ .fault ∨ s.ticking = false → exec (.abClrflt k) s = .next s) ∧
    (c0.st = .busOff → s.ticking = true → exec (.recover k) s = to0 { c0 with recovering := true }) ∧
    (c0.st ≠ .busOff ∨ s.ticking = false → exec (.recover k) s = .next s) ∧
    (c.st = .off ∨ (c.st = .fault ∧ s.ticking = true) → ∃ y, exec (.abFlush k) s = to_ y ∧
      y = { c with tbs := y.tbs, txF := y.txF, rxq := [], qbad := [] } ∧
      (∀ b, y.tbs.at b = if (c.tbs.at b).st = .pending then done .cancelled else c.tbs.at b) ∧
      (y.txF = true ↔ c.txF = true ∨ ∃ b, (c.tbs.at b).st = .pending)) ∧
    (c.st ≠ .off → c.st ≠ .fault ∨ s.ticking = false → exec (.abFlush k) s = .next z) ∧
    (∃ y, exec (.txCancel k v) s = to_ y ∧ y = { c with tbs := y.tbs, txF := y.txF } ∧
      (∀ b : Fin 8, y.tbs.at b =
        if bit v b.val = true ∧ (c.tbs.at b).st = .pending then done .cancelled
        else if bit v b.val = true ∧ (c.tbs.at b).st = .active then { c.tbs.at b with cancel := true }
        else c.tbs.at b) ∧
      (y.txF = true ↔ c.txF = true ∨ ∃ b : Fin 8, bit v b.val = true ∧ (c.tbs.at b).st = .pending)) ∧
    (∀ b : Fin 8, v = BitVec.ofNat 32 (2 ^ b.val) →
      let t := c.tbs.at b
      let w0 := c.tb b 0
      let w3 := c.tb b 3
      let ns : BitVec 40 := fld w3 0 8 ++ c.tb b 2
      let d := s.beryl.doms.at (Fin.ofNat 8 (fldN w3 8 3))
      let with_ (x : TxBuf) : AbCell := { c with tbs := c.tbs.upd b x }
      let badFrame : Prop := bit w0 29 = true ∧ (bit w0 30 = true ∨ bit c.cfg 18 = false)
      (t.st = .pending ∨ t.st = .active → exec (.txRequest k v) s = to_ { c with cfgIgn := true }) ∧
      (t.st ≠ .pending → t.st ≠ .active →
        (c.tbBad b = true → s.abOwner k = none →
          ∃ y, exec (.txRequest k v) s = .next y ∧ y = { z with abs_ := y.abs_, mem := y.mem, free := y.free } ∧
            y.abs_ = z.abs_.upd k { with_ (done .failed) with txF := true } ∧
            y.mem = { s.mem with uncRec := y.mem.uncRec } ∧ y.mem.uncRec.valid = true ∧
            (s.mem.uncRec.count ≤ 255 → y.mem.uncRec.count = min 255 (s.mem.uncRec.count + 1))) ∧
        (c.tbBad b = false →
          (badFrame → exec (.txRequest k v) s = to_ { with_ (done .failed) with txF := true }) ∧
          (¬ badFrame → bit w3 31 = false → exec (.txRequest k v) s = to_ (with_ { done .pending with due := true })) ∧
          (¬ badFrame → bit w3 31 = true → d.leadLate ns s.beryl.g = false →
            exec (.txRequest k v) s = to_ (with_ { done .pending with due := d.dueAt ns s.beryl.g })) ∧
          (¬ badFrame → bit w3 31 = true → d.leadLate ns s.beryl.g = true → s.abOwner k = none →
            (fldN c.cfg 22 2 = 0 →
              exec (.txRequest k v) s = to_ { with_ (done .dropped) with txF := true, late := true }) ∧
            (fldN c.cfg 22 2 = 1 → exec (.txRequest k v) s = to_ { with_ { done .pending with execAt := some (s.now + 24) } with
              late := true }) ∧
            (2 ≤ fldN c.cfg 22 2 → c.st ≠ .off → c.st ≠ .fault →
              exec (.txRequest k v) s = to_ { with_ (done .dropped) with
                txF := true, late := true, faultAt := some (c.faultAt.getD (s.now + 24)) }))))))

/-- R429, R430, R432 to R434, R436, R439, R441, R442: the events of a cell that runs: a due instant, a start of frame with the
buffer that is offered at it, an edge of AB_RXD, a frame sent or received, an exception of the protocol, and the ends of
integration and of recovery, and the entry into FAULT. A frame received valid goes on to its last bit. AB_TXD shows the bits of
the frame that the cell sends and the dominant ACK of one it receives with a right CRC, but in LISTEN, and is recessive while
the cell does not run. R422, R438 to R440: an error command without an error type ends in a fault of its own (the model's check,
log entry 3); an error in a frame counts by the role of the cell, brings the buffer back and starts the error flag, which the
cell of a mode that drives nothing answers with integration; the further errors of a flag count 8; a dominant bit in
intermission brings an overload flag; the error frame ends; and the counters move the error state at 128 and 256. The amounts
and the flags are those of ISO 11898-1 (log entry 11, PRESUMED). -/
def Obligations.ArbFrames : Prop :=
  (∀ (s : State) (t : Instant) (k : Fin 16),
    let a := s.advance t
    let z := a.abSettled
    let c0 := a.abs_.at k
    let c := z.abs_.at k
    let to0 (y : AbCell) : Host.Outcome State Fault Refusal := .next { a with abs_ := a.abs_.upd k y }
    let to_ (y : AbCell) : Host.Outcome State Fault Refusal := .next { z with abs_ := z.abs_.upd k y }
    let done (st : TbSt) : TxBuf := { st := st, due := false, retry := false, cancel := false, execAt := none }
    (∀ b : Fin 8, a.up = true → (c0.tbs.at b).st = .pending → (c0.tbs.at b).due = false →
      let w3 := c0.tb b 3
      (match (c0.tbs.at b).execAt with
        | some g => notBefore a.now g
        | none => (a.beryl.doms.at (Fin.ofNat 8 (fldN w3 8 3))).dueAt (fld w3 0 8 ++ c0.tb b 2) a.beryl.g) = true →
      exec (.txDue t k b) s = to0 { c0 with tbs := c0.tbs.upd b { c0.tbs.at b with due := true } }) ∧
    (a.abLive = true →
      (∀ (es : Instant) (own : Bool), c.st = .run → c.frame = none → c.errFrame = false →
        let t0 := if own then a.now else es.ns
        let frame (b : Option (Fin 8)) : Option AbFrame :=
          some { es := es, sof := t0, offered := b, filters := c.filt, edges := [], endAt := none }
        (∀ b, fldN c.cfg 20 2 = 0 → c.offer = some b → c.tbBad b = false →
          exec (.abSof t k (.start es own)) s = to_ { c with
            tbs := c.tbs.upd b { c.tbs.at b with st := .active, retry := false }, frame := frame (some b), loop := none
            drive := none }) ∧
        (∀ b, fldN c.cfg 20 2 = 0 → c.offer = some b → c.tbBad b = true → a.abOwner k = none →
          ∃ y, exec (.abSof t k (.start es own)) s = .next y ∧ y = { z with abs_ := y.abs_, mem := y.mem, free := y.free } ∧
            y.abs_ = z.abs_.upd k { c with
              tbs := c.tbs.upd b (done .failed), txF := true, frame := if own then none else frame none
              drive := if own then c.drive else none }) ∧
        (fldN c.cfg 20 2 ≠ 0 ∨ c.offer = none →
          exec (.abSof t k (.start es own)) s = if own then .next z else to_ { c with frame := frame none, drive := none })) ∧
      (∀ e : Instant, exec (.abSof t k (.edge e)) s =
        to_ { c with frame := c.frame.map fun f : AbFrame => { f with edges := f.edges ++ [e] } }) ∧
      (∀ f b, c.frame = some f → f.offered = some b → f.endAt = none → c.st = .run →
        notBefore a.now (f.sof + BitVec.ofNat 64 (c.arbNs b)) = false →
        exec (.abSof t k .lost) s = to_ { c with
          tbs := c.tbs.upd b (if (c.tbs.at b).cancel then done .cancelled else { c.tbs.at b with st := .pending, cancel := false })
          txF := c.txF || (c.tbs.at b).cancel, frame := some { f with offered := none }, drive := none }) ∧
      (∀ f b loop, c0.frame = some f → f.offered = some b → c0.st = .run → bit c0.cfg 14 = false →
        c0.sentBy f b a.now = some loop →
        exec (.abFrameSent t k) s = to0 { ({ c0 with
            tbs := c0.tbs.upd b (done (if (c0.tbs.at b).cancel then .tooLate else .sent)), txF := true, ackRun := 0
            loop := loop, mark := a.abMark k } : AbCell).counters (c0.tec - 1) c0.rec_ with frame := none }) ∧
      (∀ f (r : AbRx) (e : W64), c0.frame = some f → c0.st = .run → c0.fbad = [] →
        c0.receivedBy f a.now = some (r, e) →
        let n := if 127 < c0.rec_ then 119 + (Config.recAfter a.free).val else c0.rec_ - 1
        let c2 : AbCell := { c0 with ackRun := 0, mark := a.abMark k, frame := some { f with endAt := some e } }
        let c1 : AbCell := if fldN c0.cfg 20 2 = 0 then c2.counters c0.tec n else c2
        let fr : Nat := if 127 < c0.rec_ ∧ fldN c0.cfg 20 2 = 0 then a.free + 1 else a.free
        (abFilter [] f.filters r.w0 = none →
          exec (.abFrameReceived t k) s = .next { a with abs_ := a.abs_.upd k c1, free := fr }) ∧
        (∀ j, abFilter [] f.filters r.w0 = some j →
          let word (i : Nat) : W32 := sparseGet 0 f.filters (4 * j.val + i)
          let b : Fin 16 := Fin.ofNat 16 (fldN (word 2) 0 4)
          let w1 := putB 31 r.brs ||| putB 30 r.esi ||| put 24 r.dlc.val ||| put 8 (c0.tsAt f.es).toNat ||| put 0 j.val
          let data := if bit r.w0 30 then [] else r.data
          let q := abEntries r.w0 w1 data f.es c0.qlost
          bit (word 0) 29 = false ∨ c1.rxq.length + q.length ≤ 64 →
          ∃ y, exec (.abFrameReceived t k) s = .next { a with abs_ := a.abs_.upd k y, free := fr } ∧
            y = { c1 with rbw := y.rbw, rbad := y.rbad, rxnd := y.rxnd, rxovr := y.rxovr, rxq := y.rxq, qlost := y.qlost } ∧
            (if bit (word 0) 29 then y.rxq = c1.rxq ++ q ∧ y.qlost = false else y.rxq = c1.rxq ∧ y.qlost = c1.qlost) ∧
            (∀ i : Fin 16, y.rxnd.getLsbD i.val = (c1.rxnd.getLsbD i.val || (bit (word 1) 31 && decide (i = b))) ∧
              y.rxovr.getLsbD i.val =
                (c1.rxovr.getLsbD i.val || (bit (word 1) 31 && decide (i = b) && c1.rxnd.getLsbD i.val))) ∧
            (sparseWf 0 c1.rbw = true → sparseGet 0 y.rbw (32 * b.val) =
              if bit (word 1) 31 then r.w0 else sparseGet 0 c1.rbw (32 * b.val)))) ∧
      (c.st = .run → bit c.cfg 19 = true →
        exec (.abProtocolException t k) s = to_ { c.lost with
          pxev := true, mark := z.abMark k, frame := none, drive := none, st := .integ }) ∧
      (c.st = .run → bit c.cfg 19 = false →
        exec (.abProtocolException t k) s = exec (.abBusError t k (.frame 2 false false false false)) s) ∧
      (∀ g, c.faultAt = some g → notBefore a.now g = true → c.frame = none → c.errFrame = false →
        c.st = .integ ∨ c.st = .run ∨ c.st = .busOff → a.abOwner k = none →
        exec (.abFaultEntry t k) s = to_ { c with st := .fault, faultAt := none, drive := none, recovering := false }) ∧
      (c.st = .integ → c.tec ≤ 255 → exec (.abIntegDone t k) s = to_ { c with st := .run }) ∧
      (c.st = .integ → 255 < c.tec →
        exec (.abIntegDone t k) s = to_ { c with st := .busOff, recovering := bit c.cfg 15 }) ∧
      (c0.st = .busOff → c0.recovering = true →
        exec (.busoffRecoveryDone t k) s = to0 { c0 with st := .run, tec := 0, rec_ := 0, recovering := false })) ∧
    (let x := c.frame.map fun f => c.frameLevel f a.now
     a.abLive = true → c.st = .run →
      (∀ f, c.frame = some f → a.abTxd k = c.frameLevel f a.now) ∧
      (∀ f b, c.frame = some f → f.offered = some b →
        x = some (c.driving f.sof (f.es :: f.edges) (c.wire b) a.now).1) ∧
      (∀ f, c.frame = some f → f.offered = none →
        x = some (decide (fldN c.cfg 20 2 = 2) || !c.acks f.es f.edges a.now))) ∧
    (a.abLive = false ∨ (c.st ≠ .run ∧ c.st ≠ .draining) → a.abTxd k = true)) ∧
  ((∀ (s : State) (t : Instant) (k : Fin 16) (e : AbErr), e.wf = false → exec (.abBusError t k e) s = .fault .illFormed) ∧
  (∀ (s : State) (t : Instant) (k : Fin 16),
    let a := s.advance t
    let z := a.abSettled
    let c := z.abs_.at k
    let m := z.abMark k
    let to_ (y : AbCell) : Host.Outcome State Fault Refusal := .next { z with abs_ := z.abs_.upd k y }
    let flag (y : AbCell) : AbCell := if y.st = .busOff then y else { y with
      frame := none, errFrame := true, drive := some { at_ := a.now, bits := [(decide (c.estate ≠ 0), 6 * y.bitNs)] } }
    a.abLive = true → c.st = .run →
    (fldN c.cfg 20 2 = 0 →
      (∀ (lec : Fin 7) (tx q w ack : Bool), lec ≠ 0 → tx = false ∨ c.frame = none →
        exec (.abBusError t k (.frame lec tx q w ack)) s = to_ (flag (({ c with lec := lec.val, mark := m }.lost).addRec 1))) ∧
      (∀ (lec : Fin 7) (q ack : Bool) (f : AbFrame) (b : Fin 8), lec ≠ 0 → c.frame = some f → f.offered = some b →
        (c.tbs.at b).cancel = false → bit c.cfg 16 = false → lec.val ≠ 3 →
        exec (.abBusError t k (.frame lec true q false ack)) s = to_ (flag (({ c with
          lec := lec.val, mark := m, ackRun := if ack then 0 else c.ackRun
          tbs := c.tbs.upd b { c.tbs.at b with st := .pending, due := true, retry := true } } : AbCell).addTec 8))) ∧
      (let mayGo : Prop := c.errFrame = false ∧ ∀ f, c.frame = some f → f.endAt ≠ none ∧ f.offered = none
       (mayGo → exec (.abBusError t k .overload) s =
          to_ { c with frame := none, drive := some { at_ := a.now, bits := [(false, 6 * c.bitNs)] } }) ∧
       (¬ mayGo → exec (.abBusError t k .overload) s = .next z))) ∧
    (fldN c.cfg 20 2 ≠ 0 → ∀ (lec : Fin 7) (q w ack : Bool), lec ≠ 0 →
      exec (.abBusError t k (.frame lec false q w ack)) s = to_ { c.lost with
        lec := lec.val, mark := m, frame := none, drive := none, st := .integ }) ∧
    (exec (.abBusError t k .ended) s = if c.errFrame then to_ { c with errFrame := false, frame := none } else .next z) ∧
    (exec (.abBusError t k .primary) s = to_ (c.addRec 8)) ∧
    (∀ tx : Bool,
      exec (.abBusError t k (.flagBit tx)) s = to_ (if tx then { c with lec := 5 }.addTec 8 else { c with lec := 5 }.addRec 8) ∧
      exec (.abBusError t k (.run tx)) s = to_ (if tx then c.addTec 8 else c.addRec 8))) ∧
  (∀ (c : AbCell) (n : Nat),
    (fldN c.cfg 20 2 ≠ 0 → c.addTec n = c ∧ c.addRec n = c) ∧
    (fldN c.cfg 20 2 = 0 → c.rec_ ≤ 255 → c.tec ≤ 255 →
      (c.addTec n).tec = min 511 (c.tec + n) ∧ (c.addTec n).rec_ = c.rec_ ∧
      (c.addRec n).rec_ = min 255 (c.rec_ + n) ∧ (c.addRec n).tec = c.tec ∧
      ((c.addTec n).epass = true ↔ c.epass = true ∨ (c.tec ≤ 127 ∧ c.rec_ ≤ 127 ∧ 128 ≤ c.tec + n ∧ c.tec + n ≤ 255)) ∧
      ((c.addRec n).epass = true ↔ c.epass = true ∨ (c.tec ≤ 127 ∧ c.rec_ ≤ 127 ∧ 128 ≤ c.rec_ + n)) ∧
      (c.addTec n).st = (if 256 ≤ c.tec + n ∧ (c.st = .run ∨ c.st = .integ) then .busOff else c.st) ∧
      (256 ≤ c.tec + n → c.st = .run →
        (c.addTec n).frame = none ∧ (c.addTec n).errFrame = false ∧ (c.addTec n).drive = none) ∧
      (c.addRec n).st = c.st)) ∧
  (∀ (c : AbCell) (b : Fin 8), c.offer = some b →
    (c.tbs.at b).st = .pending ∧ (c.tbs.at b).due = true ∧
    ∀ x : Fin 8, (c.tbs.at x).st = .pending → (c.tbs.at x).due = true →
      arbKey (c.tb b 0) < arbKey (c.tb x 0) ∨ (arbKey (c.tb b 0) = arbKey (c.tb x 0) ∧ b ≤ x)))

/-- R450, R451, R454, R456 to R458, R461, R463: each command of the interrupt controller changes its source, target or group by
these rules, `becomes` saying what a source in IDLE does that becomes pending (R452, R463); what then settles (wakes, orphans
and falling requests) is `eicSettle`, and the last clauses say all that it can change. Source 0 does not exist, and a controller
without power takes no command. R454, R460, R586: after a change the controller only marks orphans, wakes sleeping targets and
halves (a wake ends the emulated sleep of a half), and lets requests fall: no source changes its state or its register, no
request rises, and a request that stands has a source to deliver. The instants of commands follow log entry 1. A command that
does not apply changes nothing: log entry 2. Readings and choices behind it: log entry 21. -/
def Obligations.InterruptCommands : Prop :=
  (let becomes : State → Fin 512 → Source → Host.Outcome State Fault Refusal → Prop := fun b n y o =>
    let g := srcGroup n
    let m := b.eic.mods.at g
    let on (st : SrcSt) : State := { b with eic := { b.eic with srcs := b.eic.srcs.upd n { y with st := st } } }
    let grp (z : State) (k : ModGroup) : State := { z with eic := { z.eic with mods := z.eic.mods.upd g k } }
    let end_ := b.now + m.hold
    let full : Prop := (if m.win = none then m.count else m.limit) ≤ (b.heldOf g).length + 1
    let held : Prop := m.win = none ∧ bit m.cfg 30 = true ∨ m.win ≠ none ∧ m.free ≠ some b.now
    (bit m.cfg 31 = false ∨ m.win ≠ none ∧ m.free = some b.now → o = .next (on .pending).eicSettle) ∧
    (bit m.cfg 31 = true → m.win = none → bit m.cfg 30 = false →
      o = .next (grp (on .pending) { m with win := some end_, free := some b.now, limit := m.count }).eicSettle) ∧
    (bit m.cfg 31 = true → held → ¬ full → m.win = none →
      o = .next (grp (on .held) { m with win := some end_, free := none, limit := m.count }).eicSettle) ∧
    (bit m.cfg 31 = true → held → ¬ full → m.win ≠ none → o = .next (on .held).eicSettle) ∧
    (bit m.cfg 31 = true → held → full → ∃ z : State,
      o = .next (grp z { m with win := some end_, free := some b.now, limit := m.count }).eicSettle ∧
      z = { b with eic := { b.eic with srcs := z.eic.srcs } } ∧ z.eic.srcs.at n = { y with st := .pending } ∧
      ∀ i, i ≠ n → z.eic.srcs.at i = { b.eic.srcs.at i with
        st := if i ∈ b.heldOf g then .pending else (b.eic.srcs.at i).st })
  (∀ (s : State) (n : Fin 512) (v : W32), s.up = true → n ≠ 0 →
    let x := s.eic.srcs.at n
    let to_ (y : Source) : Host.Outcome State Fault Refusal :=
      .next ({ s with eic := { s.eic with srcs := s.eic.srcs.upd n y } } : State).eicSettle
    (x.st ≠ .idle → exec (.eicSetpend n) s = to_ { x with swp := true }) ∧
    (x.st = .idle → becomes s n { x with swp := true } (exec (.eicSetpend n) s)) ∧
    (x.st = .idle → s.sourceLevel n = true → becomes s n { x with level := true } (exec (.sourceLevelChange n) s)) ∧
    (x.st = .idle → s.sourceLevel n = false → x.swp = true →
      becomes s n { x with level := false } (exec (.sourceLevelChange n) s)) ∧
    (x.st = .active ∨ x.st = .idle ∧ x.level = false ∨ x.st ≠ .idle ∧ x.level = true →
      exec (.eicClrpend n) s = to_ { x with swp := false }) ∧
    (x.st = .idle → x.level = true → becomes s n { x with swp := false } (exec (.eicClrpend n) s)) ∧
    (x.st = .held ∨ x.st = .pending → x.level = false → exec (.eicClrpend n) s = to_ { x with swp := false, st := .idle }) ∧
    (s.sourceLevel n = false → x.st = .held ∨ x.st = .pending → x.swp = false →
      exec (.sourceLevelChange n) s = to_ { x with level := false, st := .idle }) ∧
    (x.st = .active ∨ x.st ≠ .idle ∧ (x.swp = true ∨ s.sourceLevel n = true) ∨
        x.st = .idle ∧ x.swp = false ∧ s.sourceLevel n = false →
      exec (.sourceLevelChange n) s = to_ { x with level := s.sourceLevel n }) ∧
    exec (.sourceConfigWrite n v) s = to_ { x with reg := v &&& 0x3FFFF00F }) ∧
  (∀ (s : State) (n : Fin 512) (v : W32), s.up = false ∨ n = 0 →
    exec (.eicSetpend n) s = .next s ∧ exec (.eicClrpend n) s = .next s ∧ exec (.sourceLevelChange n) s = .next s ∧
    exec (.sourceConfigWrite n v) s = .next s) ∧
  (∀ (s : State) (t : Fin 18) (g : Fin 32) (v : W32), s.up = false →
    exec (.eicClaim t) s = .next s ∧ exec (.eicComplete t) s = .next s ∧ exec (.targetConfigWrite t v) s = .next s ∧
    exec (.modConfigWrite g v) s = .next s) ∧
  (∀ (s : State) (t : Fin 18) (v : W32), s.up = true →
    let x := s.eic.targets.at t
    let tgt (z : State) (y : Target) : State := { z with eic := { z.eic with targets := z.eic.targets.upd t y } }
    let src (n : Fin 512) (y : Source) : State := { s with eic := { s.eic with srcs := s.eic.srcs.upd n y } }
    (s.bestSrc t = none → exec (.eicClaim t) s = .next { s with eic := { s.eic with
      spur := if s.eic.spur = 0xFFFF then 0xFFFF else s.eic.spur + 1 } }) ∧
    (∀ n, s.bestSrc t = some n → exec (.eicClaim t) s = .next
      (tgt (src n { s.eic.srcs.at n with swp := false, st := .active })
        { x with stack := (n, fldN (s.eic.srcs.at n).reg 0 4) :: x.stack }).eicFall) ∧
    (x.stack = [] → exec (.eicComplete t) s = .next s.eicSettle) ∧
    (∀ n p r, x.stack = (n, p) :: r →
      let y : Source := { s.eic.srcs.at n with level := s.sourceLevel n, st := .idle }
      let z := tgt (src n y) { x with stack := r }
      (y.swp = false → y.level = false → exec (.eicComplete t) s = .next z.eicSettle) ∧
      (y.swp = true ∨ y.level = true → becomes z n y (exec (.eicComplete t) s))) ∧
    (bit v 0 = true ∨ x.stack = [] → exec (.targetConfigWrite t v) s = .next
      (tgt s { x with cfg := v &&& if t.val < 16 then 0xFF81 else 0x3 }).eicSettle) ∧
    (bit v 0 = false → ∃ z : State, exec (.targetConfigWrite t v) s = .next z.eicSettle ∧
      z = { s with eic := { s.eic with srcs := z.eic.srcs, mods := z.eic.mods, targets := z.eic.targets } } ∧
      z.eic.targets.at t = { x with cfg := v &&& if t.val < 16 then 0xFF81 else 0x3, stack := [] } ∧
      (∀ u, u ≠ t → z.eic.targets.at u = s.eic.targets.at u) ∧
      ∀ n, let y := s.eic.srcs.at n
        if (x.stack.any fun e => e.1 = n) then
          z.eic.srcs.at n = { y with level := s.sourceLevel n, st := (z.eic.srcs.at n).st } ∧
          (z.eic.srcs.at n).st ≠ .active ∧
          ((z.eic.srcs.at n).st = .idle ↔ y.swp = false ∧ s.sourceLevel n = false)
        else z.eic.srcs.at n = y ∨ y.st = .held ∧ z.eic.srcs.at n = { y with st := .pending })) ∧
  (∀ (s : State) (g : Fin 32) (v : W32), s.up = true →
    let m := s.eic.mods.at g
    (bit v 31 = true → exec (.modConfigWrite g v) s = .next
      ({ s with eic := { s.eic with mods := s.eic.mods.upd g { m with cfg := v &&& 0xC01FFFFF } } } : State).eicSettle) ∧
    (bit v 31 = false → ∃ z : State, exec (.modConfigWrite g v) s = .next z.eicSettle ∧
      z = { s with eic := { s.eic with
        srcs := z.eic.srcs, mods := s.eic.mods.upd g { m with cfg := v &&& 0xC01FFFFF, win := none, free := none } } } ∧
      ∀ i, z.eic.srcs.at i = { s.eic.srcs.at i with
        st := if i ∈ s.heldOf g then .pending else (s.eic.srcs.at i).st })) ∧
  (∀ (s : State) (t : Instant) (g : Fin 32) (w : W64),
    let a := s.advance t
    let m := a.eic.mods.at g
    m.win = some w → a.up = true → a.ticking = true → notBefore a.now w = true →
    (a.heldOf g = [] → exec (.modWindowEnd t g) s = .next { a with eic := { a.eic with
      mods := a.eic.mods.upd g { m with win := none } } }) ∧
    (a.heldOf g ≠ [] → ∃ z : State, exec (.modWindowEnd t g) s = .next z.eicSettle ∧
      z = { a with eic := { a.eic with
        srcs := z.eic.srcs, mods := a.eic.mods.upd g { m with win := some (w + m.hold), free := some a.now, limit := m.count } } } ∧
      ∀ i, z.eic.srcs.at i = { a.eic.srcs.at i with
        st := if i ∈ a.heldOf g then .pending else (a.eic.srcs.at i).st })) ∧
  (∀ (s : State) (t : Fin 18),
    let after (z : State) : State :=
      let x := z.eic.targets.at t
      let r : State := { z with eic := { z.eic with targets := z.eic.targets.upd t { x with req := true } } }
      if t.val < 16 then r.arriveEic (4 * fldN x.cfg 8 8 + 3) else r
    s.up = true → s.eicSettle.requestNow t = true → (s.eicSettle.eic.targets.at t).req = false →
      exec (.eicDelivery t) s = .next (after s.eicSettle) ∧
      (s.eicSettle = s → exec (.eicDelivery t) s = .next (after s))) ∧
  (∀ (s : State) (t : Fin 18), s.eicSettle.up = false ∨ s.eicSettle.requestNow t = false ∨
      (s.eicSettle.eic.targets.at t).req = true → exec (.eicDelivery t) s = .next s.eicSettle) ∧
  (∀ (s : State) (t : Instant) (g : Fin 32), ((s.advance t).eic.mods.at g).win = none →
    exec (.modWindowEnd t g) s = .next (s.advance t))) ∧
  (∀ s : State, ∃ e h m,
    s.eicSettle = { s with eic := e, power := { s.power with halves := h }, dbg := { s.dbg with emu := m } } ∧
    e.ieOrph = s.eic.ieOrph ∧ e.spur = s.eic.spur ∧ e.mods = s.eic.mods ∧
    (∀ n, e.srcs.at n = { s.eic.srcs.at n with orph := (e.srcs.at n).orph, stray := (e.srcs.at n).stray }) ∧
    (∀ n, (s.eic.srcs.at n).orph = true → (e.srcs.at n).orph = true) ∧
    (∀ t, e.targets.at t = { s.eic.targets.at t with
      req := (e.targets.at t).req, woken := (e.targets.at t).woken, cfg := (e.targets.at t).cfg }) ∧
    (∀ t : Fin 18, t.val < 16 → (e.targets.at t).cfg = (s.eic.targets.at t).cfg) ∧
    (∀ t, (e.targets.at t).req = true → (s.eic.targets.at t).req = true ∧ s.eicSettle.requestNow t = true) ∧
    ∀ i, let x := s.power.halves.at i
      (h.at i = x ∧ m.at i = s.dbg.emu.at i) ∨
      (x.st = .sleep ∧ h.at i = { x with st := .wake } ∧ m.at i = false) ∨
      (x.st = .enter ∧ h.at i = { x with wakeRec := true } ∧ m.at i = s.dbg.emu.at i))

/-- R453: the source that a target is given is PENDING, above the target's threshold, in its mask and of the highest priority,
of equal ones the one with the lowest number. Readings and choices behind it: log entry 21. -/
def Obligations.BestSourceIsDelivered : Prop :=
  ∀ (s : State) (t : Fin 18),
    let pri (n : Fin 512) : Nat := fldN (s.eic.srcs.at n).reg 0 4
    let limit : Nat := max (s.eic.targets.at t).thr.toNat ((s.eic.targets.at t).stack.head?.elim 0 fun p => p.2)
    let fit (n : Fin 512) : Prop := (s.eic.srcs.at n).st = .pending ∧ limit < pri n ∧
      bit (s.eic.srcs.at n).reg (12 + t.val) = true ∧ s.cond t ≠ .absent
    (s.bestSrc t = none ↔ ∀ n, ¬ fit n) ∧
    (∀ n, s.bestSrc t = some n ↔ fit n ∧ ∀ m, fit m → pri m < pri n ∨ (pri m = pri n ∧ n ≤ m))

/-- R472, R473, R475, R476, R478 to R481: the writes that reach a timer: the enable and its checks, START, STOP and RELOAD_NOW,
a new period, each after the timer's own tick of the ns and, for the first two, not in HOLD, the paired read of the count, the
snapshot, and GO and CANCEL of a staggered start; and the freeze that follows a start. R468 to R471, R477, R478: a tick moves
the count one step by the mode, fires CO as it wraps and MATCH as it meets CMP, or is absorbed with SAT; the carry and the match
set their flags, fire their events and drive the next timer; and a stagger starts every stopped timer of its groups. The
instants of commands follow log entry 1. A command that does not apply changes nothing: log entry 2. Readings and choices behind
it: log entry 12. -/
def Obligations.TimerControl : Prop :=
  ((∀ (s : State) (n : Fin 64) (v : W32), s.up = true →
    let x := s.ta.timers.at n
    let put (y : Timer) : State := { s with ta := { s.ta with timers := s.ta.timers.upd n y } }
    let to_ (y : Timer) : Host.Outcome State Fault Refusal := .next (put y)
    let w := v &&& 0xFFFFFFE1
    let bad : Prop := fldN v 5 2 = 3 ∨ fldN v 7 2 = 3 ∨ (fldN v 7 2 = 2 ∧ n.val % 2 = 0)
    (x.st = .off → bit x.cfg 0 = false → bit v 0 = true → bad →
      exec (.timerEnable n v) s = .next (put { x with cfg := w &&& ~~~1, cfgErr := true }).refreeze) ∧
    (x.st = .off → bit x.cfg 0 = false → bit v 0 = true → ¬ bad →
      exec (.timerEnable n v) s = .next (put { x with cfg := w, st := .stop }).refreeze) ∧
    (x.st ≠ .off → bit x.cfg 0 = true → bit v 0 = false →
      exec (.timerDisable n v) s = .next (put { x with
        cfg := (x.cfg &&& ~~~0xFE01) ||| (w &&& 0xFE01)
        cfgIgn := x.cfgIgn || decide ((x.cfg ^^^ w) &&& ~~~0xFE01 ≠ 0)
        st := .off, co := none, match_ := none, chain := none }).refreeze) ∧
    (let z := s.taTick n
     let x := z.ta.timers.at n
     let put (y : Timer) : State := { z with ta := { z.ta with timers := z.ta.timers.upd n y } }
     let to_ (y : Timer) : Host.Outcome State Fault Refusal := .next (put y)
     (x.st = .stop → s.ticking = true → exec (.timerStart n) s =
       .next (put { x with st := .run, next := s.now + BitVec.ofNat 64 (fldN x.cfg 16 16 + 1), chain := none }).refreeze) ∧
     (x.st ≠ .stop → s.ticking = true → exec (.timerStart n) s = .next z.refreeze) ∧
     (x.st = .run ∨ x.st = .frozen → s.ticking = true → exec (.timerStop n) s = to_ { x with st := .stop, chain := none }) ∧
     (x.st = .off ∨ x.st = .stop → exec (.timerStop n) s = .next z) ∧
     (s.ticking = false → exec (.timerStart n) s = .next z ∧ exec (.timerStop n) s = .next z) ∧
     (x.st ≠ .off → exec (.timerReloadNow n) s =
       to_ { x with cnt := if fldN x.cfg 5 2 = 0 then x.lim else 0, satd := false }) ∧
     (x.st = .off → exec (.timerReloadNow n) s = .next z) ∧
     (x.st = .off ∨ fldN x.cfg 5 2 ≠ 1 ∨ x.cnt ≤ v → exec (.timerLimWrite n v) s = to_ { x with lim := v }) ∧
     (x.st ≠ .off → fldN x.cfg 5 2 = 1 → v < x.cnt → bit x.evt 15 = false → fldN x.act 22 2 = 0 → n.val % 2 = 1 →
       exec (.timerLimWrite n v) s = to_ { x with lim := v, cnt := 0, coF := true, late := true, co := none })) ∧
    (∀ who : Master,
      let pair : Fin 32 := ⟨n.val / 2, by omega⟩
      let shadow (y : Option (Fin 32 × W32)) : Host.Outcome State Fault Refusal :=
        .next { s with ta := { s.ta with shadows := s.ta.shadows.upd who.slot y } }
      (s.ta.latch = false → s.taCntRead who n = (x.cnt, s)) ∧
      (s.ta.latch = true → n.val % 2 = 0 → (s.taCntRead who n).1 = x.cnt ∧ exec (.timerCntRead who n) s =
        shadow (some (pair, (s.ta.timers.at (Fin.ofNat 64 (n.val + 1))).cnt))) ∧
      (∀ c, s.ta.latch = true → n.val % 2 = 1 → s.ta.shadows.at who.slot = some (pair, c) →
        (s.taCntRead who n).1 = c ∧ exec (.timerCntRead who n) s = shadow none))) ∧
  (∀ (s : State) (mask : Byte), s.up = true →
    let ta (x : TimerArray) : Host.Outcome State Fault Refusal := .next { s with ta := x }
    (s.ticking = true → s.ta.snapAt = some s.now → exec .timerSnapshot s = .next s) ∧
    (s.ticking = false ∨ s.ta.snapAt ≠ some s.now → ∃ x, exec .timerSnapshot s = ta { s.ta with
        snapCnt := s.ta.snapCnt + 1, snapAt := some s.now, timers := x } ∧
      ∀ n, x.at n = { s.ta.timers.at n with snap := (s.ta.timers.at n).cnt }) ∧
    (s.ta.pend ≠ none → exec (.staggerGo mask) s = ta { s.ta with busy := true }) ∧
    (s.ta.pend = none → notBefore s.now s.ta.stagAt = true →
      exec (.staggerGo mask) s = ta { s.ta with pend := some { at_ := s.now + 1, mask := mask, late := true }, late := true }) ∧
    (s.ta.pend = none → notBefore s.now s.ta.stagAt = false →
      exec (.staggerGo mask) s = ta { s.ta with pend := some { at_ := s.ta.stagAt, mask := mask, late := false } }) ∧
    exec .staggerCancel s = ta { s.ta with pend := none }) ∧
  (∀ s : State,
    let halted (h : Fin 2) : Prop := ∃ q, seqHalf q = h ∧ (s.seqs.at q).st = .halt
    let stops (x : Timer) : Prop := (fldN x.cfg 13 2 = 1 ∧ halted 0) ∨ (fldN x.cfg 13 2 = 2 ∧ halted 1) ∨
      (fldN x.cfg 13 2 = 3 ∧ (halted 0 ∨ halted 1))
    ∃ x d, s.refreeze = { s with ta := { s.ta with timers := x, dogs := d } } ∧
      ∀ n, let o := s.ta.timers.at n
        (o.st = .run → stops o → x.at n = { o with st := .frozen, left := o.next - s.now }) ∧
        (o.st = .frozen → ¬ stops o → x.at n = { o with st := .run, next := s.now + o.left }) ∧
        (o.st = .off ∨ o.st = .stop ∨ (o.st = .run ∧ ¬ stops o) ∨ (o.st = .frozen ∧ stops o) → x.at n = o))) ∧
  ((∀ (s : State) (t : Instant) (n : Fin 64),
    let a := s.advance t
    let x := a.ta.timers.at n
    let to_ (y : Timer) : Host.Outcome State Fault Refusal :=
      .next { a with ta := { a.ta with timers := a.ta.timers.upd n y } }
    a.up = true → a.ticking = true → x.st = .run →
    (fldN x.cfg 7 2 = 0 → notBefore a.now x.next = true →
      exec (.timerTick t n) s = to_ (({ x with next := x.next + BitVec.ofNat 64 (fldN x.cfg 16 16 + 1) } : Timer).step 0)) ∧
    (fldN x.cfg 7 2 = 0 → notBefore a.now x.next = false → exec (.timerTick t n) s = .next a) ∧
    (∀ h r, fldN x.cfg 7 2 = 1 → a.sn.pending (1024 + n.val) = h :: r →
      let took := if a.sn.tookNs = some a.now then a.sn.took else []
      exec (.timerTick t n) s =
        if 1024 + n.val ∈ took then .next a
        else .next { a with
          ta := { a.ta with timers := a.ta.timers.upd n (x.step (1 + h)) }
          sn := { a.sn.setPending (1024 + n.val) r with took := (1024 + n.val) :: took, tookNs := some a.now } }) ∧
    (∀ h, 2 ≤ fldN x.cfg 7 2 → x.chain = some h →
      exec (.timerTick t n) s = to_ (({ x with chain := none } : Timer).step h))) ∧
  (∀ (x : Timer) (h : Nat),
    let m := fldN x.cfg 5 2
    let wraps : Prop := (m = 0 ∧ x.cnt = 0) ∨ (m = 1 ∧ x.lim ≤ x.cnt) ∨ (2 ≤ m ∧ x.cnt = 0xFFFFFFFF)
    let c : W32 := if m = 0 then (if x.cnt = 0 then x.lim else x.cnt - 1) else if m = 1 ∧ x.lim ≤ x.cnt then 0 else x.cnt + 1
    let hit : Option Nat := if c = x.cmp then some h else x.match_
    (wraps → bit x.cfg 15 = true → x.step h = { x with satd := true, sat := x.sat || !x.satd }) ∧
    (wraps → bit x.cfg 15 = false →
      x.step h = { x with cnt := c, co := some (h, decide (m = 1 ∧ x.lim < x.cnt)), match_ := hit }) ∧
    (¬ wraps → x.step h = { x with cnt := c, match_ := hit })) ∧
  (∀ (s : State) (n : Fin 64) (h : Nat),
    let x := s.ta.timers.at n
    let fired (on : Bool) (ch : Nat) : List Event := if on then s.sn.fired ++ [{ ch := Fin.ofNat 256 ch, hop := h, fired := some s.beryl.td0 }] else s.sn.fired
    (∀ late, x.co = some (h, late) → ∃ z : State, exec (.timerCarry n) s =
        .next (z.taAction (fldN x.act 22 2) (Fin.ofNat 64 (fldN x.act 16 6))) ∧
      z = { s with ta := { s.ta with timers := z.ta.timers }, sn := { s.sn with fired := fired (bit x.evt 15) (fldN x.evt 0 8) } } ∧
      z.ta.timers.at n = { x with coF := true, late := x.late || late, co := none } ∧
      ∀ k, k ≠ n → z.ta.timers.at k =
        if n.val % 2 = 0 ∧ k.val = n.val + 1 ∧ (s.ta.timers.at k).st = .run ∧ fldN (s.ta.timers.at k).cfg 7 2 = 2 then
          { s.ta.timers.at k with chain := some h }
        else s.ta.timers.at k) ∧
    (x.match_ = some h → exec (.timerMatch n) s = .next (({ s with
      ta := { s.ta with timers := s.ta.timers.upd n { x with matchF := true, match_ := none } }
      sn := { s.sn with fired := fired (bit x.evt 31) (fldN x.evt 16 8) } } : State).taAction
        (fldN x.act 30 2) (Fin.ofNat 64 (fldN x.act 24 6)))) ∧
    (x.co = none → exec (.timerCarry n) s = .next s) ∧ (x.match_ = none → exec (.timerMatch n) s = .next s)) ∧
  (∀ (s : State) (n : Fin 64),
    let z := s.taTick n
    let x := z.ta.timers.at n
    let put (y : Timer) : State := { z with ta := { z.ta with timers := z.ta.timers.upd n y } }
    s.taAction 0 n = s ∧
    (s.ticking = false → s.taAction 1 n = z ∧ s.taAction 2 n = z) ∧
    (s.ticking = true →
      (x.stopAt ≠ some s.now → x.st = .stop → s.taAction 1 n =
        (put { x with st := .run, next := s.now + BitVec.ofNat 64 (fldN x.cfg 16 16 + 1), chain := none }).refreeze) ∧
      (x.stopAt = some s.now ∨ x.st ≠ .stop → s.taAction 1 n = z.refreeze) ∧
      (x.st = .run ∨ x.st = .frozen → s.taAction 2 n = put { x with st := .stop, chain := none, stopAt := some s.now })) ∧
    (x.st ≠ .off → s.taAction 3 n = put { x with cnt := if fldN x.cfg 5 2 = 0 then x.lim else 0, satd := false })) ∧
  (∀ (s : State) (t : Instant) (g : Stagger),
    let a := s.advance t
    a.up = true → a.ticking = true → a.ta.pend = some g → notBefore a.now g.at_ = true →
    ∃ z : State, exec (.staggerStart t) s = .next z.refreeze ∧
      z = { a with ta := { a.ta with pend := none, timers := z.ta.timers } } ∧
      ∀ n, let x := a.ta.timers.at n
        z.ta.timers.at n =
          if x.st = .stop ∧ bit x.cfg 12 = true ∧ g.mask.getLsbD (fldN x.cfg 9 3) = true then
            { x with st := .run, cnt := x.phase, next := g.at_ + BitVec.ofNat 64 (fldN x.cfg 16 16 + 1), chain := none }
          else x))

/-- R482 to R487: an absolute compare is armed, disarmed and fires once its domain has reached the value; a capture pair takes
the stamps of its lane's accepted edges as the lane would commit them; a watchdog counts down, is kicked by its key and expires
by its action. The instants of commands follow log entry 1. A command that does not apply changes nothing: log entry 2. Readings
and choices behind it: log entry 12. -/
def Obligations.ComparesPairsAndWatchdogs : Prop :=
  (∀ (s : State) (k : Fin 32) (v : W32), s.up = true →
    let x := s.ta.compares.at k
    let to_ (y : Compare) : Host.Outcome State Fault Refusal :=
      .next { s with ta := { s.ta with compares := s.ta.compares.upd k y } }
    let past := decide (x.val ≤ (s.beryl.doms.at (Fin.ofNat 8 (fldN x.cfg 4 3))).nsAt s.beryl.g)
    (bit v 0 = true → exec (.compareEnable k v) s =
      to_ { x with cfg := v &&& 0xFFFF8073, st := if x.st = .off then .idle else x.st }) ∧
    (bit v 0 = false → exec (.compareEnable k v) s =
      to_ { x with cfg := v &&& 0xFFFF8073, st := .off, lateNext := false }) ∧
    (x.st = .idle → exec (.compareArm k) s =
      to_ { x with st := .armed, lateNext := past, from_ := if past then s.now + 1 else s.now }) ∧
    (x.st ≠ .idle → exec (.compareArm k) s = .next s) ∧
    (x.st = .armed → exec (.compareDisarm k) s = to_ { x with st := .idle, lateNext := false }) ∧
    (x.st ≠ .armed → exec (.compareDisarm k) s = .next s)) ∧
  (∀ (s : State) (t : Instant) (k : Fin 32),
    let a := s.advance t
    let x := a.ta.compares.at k
    a.up = true → a.ticking = true → x.st = .armed → notBefore a.now x.from_ = true →
    x.val ≤ (a.beryl.doms.at (Fin.ofNat 8 (fldN x.cfg 4 3))).nsAt a.beryl.g →
    ∃ y, exec (.compareFire t k) s = .next (({ a with
        ta := { a.ta with compares := a.ta.compares.upd k y }
        sn := { a.sn with fired := if bit x.cfg 23 then
          a.sn.fired ++ [{ ch := Fin.ofNat 256 (fldN x.cfg 24 8), hop := 0, fired := some a.beryl.td0 }] else a.sn.fired } } : State).taAction
          (fldN x.cfg 21 2) (Fin.ofNat 64 (fldN x.cfg 15 6))) ∧
      (x.inc = 0 → y = { x with fired := true, late := x.late || x.lateNext, st := .idle, lateNext := false }) ∧
      (x.inc ≠ 0 → y = { x with fired := true, late := x.late || x.lateNext, val := x.val + x.inc.setWidth 64
                                lateNext := y.lateNext, from_ := y.from_ })) ∧
  (∀ (s : State) (t : Instant) (k : Fin 16),
    let a := s.advance t
    let x := a.ta.pairs.at k
    (x.pend = [] → exec (.capturePairUpdate t k) s = .next a) ∧
    (∀ e r, x.pend = e :: r → a.up = true → a.ticking = true → bit x.cfg 0 = true →
      (notBefore a.now e.commitAt = false → exec (.capturePairUpdate t k) s = .next a) ∧
      (notBefore a.now e.commitAt = true →
        let y : CapPair :=
          if e.level then { x with pend := r, rise := e.stamp, rv := true, ovr := x.ovr || x.rv, seq := x.seq + 1 }
          else { x with pend := r, fall := e.stamp, fv := true, ovr := x.ovr || x.fv, seq := x.seq + 1 }
        exec (.capturePairUpdate t k) s = .next { a with
          ta := { a.ta with pairs := a.ta.pairs.upd k y }
          sn := { a.sn with fired := if e.level = false ∧ bit x.cfg 23 = true then
            a.sn.fired ++ [{ ch := Fin.ofNat 256 (fldN x.cfg 24 8), hop := 0, fired := some a.beryl.td0 }]
            else a.sn.fired } }))) ∧
  (∀ (s : State) (w : Fin 2) (v : W32), s.halfUp w = true →
    let x := s.ta.dogs.at w
    let put (y : Watchdog) : State := { s with ta := { s.ta with dogs := s.ta.dogs.upd w y } }
    (bit x.cfg 31 = true → exec (.watchdogEnable w v) s = .next (put { x with cfgIgn := true }).refreeze) ∧
    (bit x.cfg 31 = false → exec (.watchdogEnable w v) s = .next (put { x with
      cfg := v &&& 0xFC000001
      st := if bit v 0 = false then .off else if x.st = .off then .run else x.st
      cnt := if bit v 0 = true ∧ x.st = .off then x.load else x.cnt
      due := if bit v 0 = false ∧ x.st ≠ .off then false else x.due }).refreeze) ∧
    (x.st = .off → exec (.watchdogKick w v) s = .next s) ∧
    (x.st ≠ .off → fldN v 0 16 = 0xA5C3 → exec (.watchdogKick w v) s = .next (put { x with cnt := x.load })) ∧
    (x.st ≠ .off → fldN v 0 16 ≠ 0xA5C3 → fldN x.cfg 28 2 = 0 → exec (.watchdogKick w v) s =
      .next (put { x with keyErr := true, expF := true, cnt := x.load, due := false })) ∧
    (x.due = true →
      (fldN x.cfg 28 2 = 0 → exec (.watchdogExpiry w) s = .next (put { x with expF := true, cnt := x.load, due := false })) ∧
      (fldN x.cfg 28 2 = 1 → exec (.watchdogExpiry w) s =
        .next ((put { x with expF := true, cnt := x.load, due := false }).halfRestart w true)) ∧
      (2 ≤ fldN x.cfg 28 2 → exec (.watchdogExpiry w) s = .next { put { x with expF := true, cnt := x.load, due := false } with
        power := { s.power with sysRst := true } })) ∧
    (x.due = false → exec (.watchdogExpiry w) s = .next s)) ∧
  (∀ (s : State) (t : Instant) (w : Fin 2),
    let a := s.advance t
    let x := a.ta.dogs.at w
    let c : W32 := if x.cnt = 0 then 0 else x.cnt - 1
    a.halfUp w = true → a.ticking = true → x.st = .run → a.now.toNat % 1000 = 0 → x.lastDec ≠ some a.now →
    exec (.watchdogDecrement t w) s = .next { a with ta := { a.ta with dogs := a.ta.dogs.upd w { x with
      cnt := c, lastDec := some a.now, warnF := x.warnF || decide (x.warn ≠ 0 ∧ c = x.warn)
      due := x.due || decide (c = 0) } } })

/-- R495 to R498, R500, R502, R504, R510, R512: an event that is fired enters where its channel is ON and its hop is not above
HOPMAX, one of a Beryl-timed producer ahead of others, and arrives 2 ns after its own ns at every task input that subscribes;
two counts are kept and a third sets the overflow; the groups and exports take one count a ns, and a disable in the same ns
wins; SN_FIRE fires and SN_CHn_CFG keeps its bits. The hardware of a ns sees the registers as they were before the writes of
that ns. The instants of commands follow log entry 1. A command that does not apply changes nothing: log entry 2. Readings and
choices behind it: log entry 22. -/
def Obligations.EventFabric : Prop :=
  (∀ (s : State) (w : SnWas),
    (s.snWas = some w ↔ s.ticking = true ∧ s.sn.was = some w ∧ w.at_ = s.now) ∧ (s.snWas = none → s.snHw = s.sn) ∧
    (s.snWas = some w → s.snHw = { s.sn with cfg := w.cfg, chCfg := w.chCfg, subs := w.subs, groups := w.groups })) ∧
  (∀ (s : State) (t : Instant) (c : Fin 256) (e : Event) (l r : List Event),
    let a := s.advance t
    let to_ (n : Spinel) : Host.Outcome State Fault Refusal := .next { a with sn := n }
    let w := a.snHw.chCfg.at c
    let on : Prop := bit w 0 = true ∧ (bit w 1 = true → a.snHw.groups.getLsbD (fldN w 8 4) = true)
    a.up = true → a.ticking = true → a.sn.fired = l ++ e :: r → e.ch = c →
    (∀ x ∈ l, x.ch ≠ c ∨ (e.fired ≠ none ∧ x.fired = none)) → (e.fired = none → ∀ x ∈ l ++ r, x.ch = c → x.fired = none) →
    (¬ on → exec (.eventEntry t c) s = to_ { a.sn with fired := l ++ r }) ∧
    (on → e.hop ≤ fldN a.snHw.cfg 0 4 → exec (.eventEntry t c) s = to_ { a.sn with
      fired := l ++ r, flight := a.sn.flight ++ [{ ch := c, hop := e.hop, at_ := e.fired.getD a.now + 2 }] }) ∧
    (on → fldN a.snHw.cfg 0 4 < e.hop → exec (.eventEntry t c) s = to_ { a.sn with
      fired := l ++ r, hopDrop := true, hopCh := if a.sn.hopDrop then a.sn.hopCh else c
      hop := if a.sn.hopDrop then a.sn.hop else e.hop })) ∧
  (∀ (s : State) (t : Instant) (c : Fin 256) (f : Flight),
    let a := s.advance t
    a.up = true → a.ticking = true → nextFlight c a.sn.flight = some f → notBefore a.now f.at_ = true →
    sparseWf [] a.sn.counts = true →
    ∃ z, exec (.eventArrival t c) s = .next z ∧ z = { a with sn := z.sn, chans := z.chans, seqs := z.seqs } ∧
      z.sn = { a.sn with
        flight := a.sn.flight.erase f, counts := z.sn.counts, ovf := z.sn.ovf, arr := z.sn.arr, arrNs := z.sn.arrNs } ∧
      (∀ i, i < 1296 → z.sn.pending i =
        if a.snHw.subscribes i c = true ∧ (a.sn.pending i).length < 2 then a.sn.pending i ++ [f.hop] else a.sn.pending i) ∧
      (∀ i, i < 1296 → z.sn.ovf.getLsbD i =
        (a.sn.ovf.getLsbD i || (a.snHw.subscribes i c && decide (2 ≤ (a.sn.pending i).length)))) ∧
      ((∀ k, (a.chans.at k).det = false) → z.chans = a.chans ∧ z.seqs = a.seqs)) ∧
  (∀ (s : State) (t : Instant) (g : Fin 16),
    let a := s.advance t
    let to_ (n : Spinel) : Host.Outcome State Fault Refusal := .next { a with sn := n }
    let one : BitVec 16 := BitVec.ofNat 16 (2 ^ g.val)
    let tk := if a.sn.tookNs = some a.now then a.sn.took else []
    let taken (i : Nat) (l : List Nat) : Spinel := { a.sn.setPending i l with took := i :: tk, tookNs := some a.now }
    let set (n : Spinel) (f : BitVec 16 → BitVec 16) : Spinel := match a.snWas with
      | none => { n with groups := f n.groups }
      | some w => { n with groups := (f n.groups ||| w.on) &&& ~~~w.off, was := some { w with groups := f w.groups } }
    a.up = true → a.ticking = true →
    (∀ h l, a.sn.pending (1248 + 2 * g.val) = h :: l → 1248 + 2 * g.val ∉ tk →
      exec (.groupEnableEvent t g) s = to_ (
        if 1249 + 2 * g.val ∈ tk then taken (1248 + 2 * g.val) l else set (taken (1248 + 2 * g.val) l) fun x => x ||| one)) ∧
    (∀ h l, a.sn.pending (1249 + 2 * g.val) = h :: l → 1249 + 2 * g.val ∉ tk →
      exec (.groupDisableEvent t g) s = to_ (set (taken (1249 + 2 * g.val) l) fun x => x &&& ~~~one)) ∧
    (∀ h l, a.sn.pending (1280 + g.val) = h :: l → 1280 + g.val ∉ tk →
      exec (.exportEvent t g) s = to_ { taken (1280 + g.val) l with expFlag := a.sn.expFlag ||| one }) ∧
    (a.sn.pending (1280 + g.val) = [] ∨ 1280 + g.val ∈ tk → exec (.exportEvent t g) s = .next a)) ∧
  (∀ (s : State) (r : Req) (v : W32) (c : Fin 256),
    let old : SnWas := { at_ := s.now, cfg := s.sn.cfg, chCfg := s.sn.chCfg, subs := s.sn.subs, luts := s.sn.luts,
                         groups := s.sn.groups, on := 0, off := 0 }
    let was : Option SnWas := if s.ticking then some (s.snWas.getD old) else none
    let on : BitVec 16 := fld v 0 16
    let off : BitVec 16 := fld v 16 16
    (s.up = true → exec (.groupSwitch v) s = .next { s with sn := { s.sn with
      groups := (s.sn.groups ||| on) &&& ~~~off
      was := was.map fun w => { w with on := (w.on ||| on) &&& ~~~off, off := (w.off &&& ~~~on) ||| off } } }) ∧
    (s.refusal r true 0xC0008 4 v.toNat = none → exec (.snFireWrite r v) s = .next { s with sn := { s.sn with
      fired := s.sn.fired ++ [{ ch := Fin.ofNat 256 (fldN v 0 8), hop := 0, fired := none }] } }) ∧
    (r.sec = false → s.up = true → bit (s.sn.chCfg.at (Fin.ofNat 256 (fldN v 0 8))) 22 = true →
      s.refusal r true 0xC0008 4 v.toNat = some .secure) ∧
    (s.refusal r true (0xC0100 + 4 * c.val) 4 v.toNat = none →
      exec (.snChCfgWrite r c v) s = .next { s with sn := { s.sn with
        chCfg := s.sn.chCfg.upd c (v &&& 0xFFC00F03), was := was } }))

/-- R494, R506, R507, R511: an enabled LUT cell takes a count of each of its inputs, toggles or follows its levels, clocks Q
with the Y before, and fires OSN on the chosen change of OUT, which follows a V held for FILT ns, once a ns and as the cell was
before the writes of the ns; CLR clears it; a write that closes a loop of combinational cells is refused with LOOPERR and
changes nothing else. The instants of commands follow log entry 1. A command that does not apply changes nothing: log entry 2.
Readings and choices behind it: log entry 22. -/
def Obligations.EventCells : Prop :=
  (∀ (s : State) (t : Instant) (c : Fin 32),
    let a := s.advance t
    let now := a.sn.luts.at c
    let x := match a.snWas with | some w => w.luts.at c | none => now
    let input (i : Nat) : Nat := 1088 + 5 * c.val + i
    let tk := if a.sn.tookNs = some a.now then a.sn.took else []
    let took (i : Nat) : Bool := !(a.sn.pending (input i)).isEmpty
    let level (i : Nat) : Bool := if bit x.cfg i then x.l.getLsbD i != took i else took i
    let sel := fldN x.cfg 4 2
    (now.evalAt = some a.now → exec (.lutEvaluate t c) s = .next a) ∧
    (a.up = true → a.ticking = true → bit x.cfg 7 = true → now.evalAt ≠ some a.now → (∀ i, i < 5 → input i ∉ tk) →
      sparseWf [] a.sn.counts = true →
      ∃ y n h, exec (.lutEvaluate t c) s = .next { a with sn := n } ∧
        n = { a.sn with
          counts := n.counts, fired := n.fired, took := n.took, tookNs := n.tookNs
          luts := a.sn.luts.upd c (
            if a.snWas = none then y
            else if now.fresh = some a.now then { now with evalAt := some a.now, hop := y.hop }
            else { y with cfg := now.cfg, filt := now.filt }) } ∧
        (∀ i, i < 5 → n.pending (input i) = (a.sn.pending (input i)).tail) ∧
        (∀ j, (∀ i, i < 5 → j ≠ input i) → n.pending j = a.sn.pending j) ∧
        y = { x with q := y.q, l := y.l, y := y.y, v := y.v, since := y.since, out := y.out, last := a.now
                     evalAt := some a.now, hop := y.hop } ∧
        (∀ i, i < 4 → y.l.getLsbD i = level i) ∧ y.y = bit x.cfg (16 + y.l.toNat) ∧
        y.q = (if took 4 then x.yBefore a.now else x.q) ∧ y.v = (if bit x.cfg 6 then y.q else y.y) ∧
        y.since = (if y.v = x.v then x.since else a.now) ∧
        y.out = (if x.filt.toNat ≤ (a.now - y.since).toNat + 1 then y.v else x.out) ∧
        (y.out = x.out ∨ (y.out = true ∧ sel ≠ 1 ∧ sel ≠ 3) ∨ (y.out = false ∧ sel ≠ 2 ∧ sel ≠ 3) → n.fired = a.sn.fired) ∧
        (y.out ≠ x.out → (if y.out then sel = 1 ∨ sel = 3 else sel = 2 ∨ sel = 3) →
          n.fired = a.sn.fired ++ [{ ch := Fin.ofNat 256 (fldN x.cfg 8 8), hop := 1 + h, fired := some a.beryl.td0 }] ∧
            y.hop = 0 ∧ x.hop ≤ h ∧ ∀ i, i < 5 → ∀ p ∈ (a.sn.pending (input i)).head?, p ≤ h))) ∧
  (∀ (s : State) (c : Fin 32) (v : W32), s.up = true →
    let x := s.sn.luts.at c
    let old : SnWas := { at_ := s.now, cfg := s.sn.cfg, chCfg := s.sn.chCfg, subs := s.sn.subs, luts := s.sn.luts,
                         groups := s.sn.groups, on := 0, off := 0 }
    let was : Option SnWas := if s.ticking then some (s.snWas.getD old) else none
    let put (y : Lut) : Spinel := { s.sn with luts := s.sn.luts.upd c y, was := was }
    let y0 := bit v 16
    let o := !bit v 6 && y0
    let new : Lut := if bit v 7 = true ∧ bit x.cfg 7 = false then
        { x with cfg := v, l := 0, q := false, y := y0, v := o, out := o, since := s.now, last := s.now, fresh := s.nsNow }
      else { x with cfg := v }
    let checked : Prop := (bit v 7 = true ∧ bit x.cfg 7 = false) ∨ (bit v 6 = false ∧ bit x.cfg 6 = true) ∨ fldN v 8 8 ≠ fldN x.cfg 8 8
    exec (.lutClear c) s = .next { s with sn := put { x with
      l := 0, q := false, y := false, v := false, out := false, since := s.now, last := s.now, fresh := s.nsNow } } ∧
    (¬ checked ∨ (put new).loopAt c = none → exec (.lutCfgWrite c v) s = .next { s with sn := put new }) ∧
    (∀ b, checked → (put new).loopAt c = some b →
      exec (.lutCfgWrite c v) s = .next { s with sn := { s.sn with loopErr := true, loopCell := b, was := was } })) ∧
  (∀ (s : State) (r : Req) (k : Fin 648) (v : W32), s.refusal r true (0xC2000 + 4 * k.val) 4 v.toNat = none →
    let old : SnWas := { at_ := s.now, cfg := s.sn.cfg, chCfg := s.sn.chCfg, subs := s.sn.subs, luts := s.sn.luts,
                         groups := s.sn.groups, on := 0, off := 0 }
    let was : Option SnWas := if s.ticking then some (s.snWas.getD old) else none
    let n : Spinel := { s.sn with was := was, subs := s.sn.subs.upd k (v &&& 0x80FF80FF) }
    let cells := (inputCell (2 * k.val)).toList ++ (inputCell (2 * k.val + 1)).toList
    ((∀ c ∈ cells, n.loopAt c = none) → exec (.subscriptionWrite r k v) s = .next { s with sn := n }) ∧
    (∀ c b, cells.find? (fun c => (n.loopAt c).isSome) = some c → n.loopAt c = some b →
      exec (.subscriptionWrite r k v) s = .next { s with sn := { s.sn with loopErr := true, loopCell := b, was := was } })) ∧
  (∀ (n : Spinel) (c b : Fin 32), n.loopAt c = some b →
    (n.luts.at b).en = true ∧ (n.luts.at b).ff = false ∧ (n.luts.at c).ff = false ∧ n.edge b c = true)

/-- R517, R519, R520: the commands and events of a half, in the states that take them; any other command changes nothing but
CMDERR with its SERR; a half that leaves RUN or SLEEP loses its units' state and its claim, and a wake brings it back to RUN.
R79, R527 to R533: the supply-low condition with its two causes, LOWF and the firing of the last gasp at its onset; the writes
of a firing in their order; the claims of the lease with the epoch check and MASTER; and the battery-backed words. The instants
of commands follow log entry 1. A command that does not apply changes nothing: log entry 2. Readings and choices behind it: log
entries 17 and 25. -/
def Obligations.HalfSupplyAndLease : Prop :=
  (∀ (s : State) (h : Fin 2), s.up = true →
    let x := s.power.halves.at h
    let half (z : State) (y : Half) : State := { z with power := { z.power with halves := z.power.halves.upd h y } }
    let err (e : Nat) : Host.Outcome State Fault Refusal := .next (half s { x with cmdErr := true, serr := e })
    let lost (z : State) (st : HalfSt) : Prop :=
      (z.power.halves.at h).st = st ∧ z.power.claims.at h = .reset ∧ z.power.canary.at h = 0 ∧
      (∀ n, z.lanes.at n = if laneHalf n = h then .reset (s.lanes.at n).rest (s.lanes.at n).level else s.lanes.at n) ∧
      (∀ n, z.engines.at n = if engHalf n = h then .reset else s.engines.at n) ∧
      (∀ n, z.streams.at n = if sfHalf n = h then .reset else s.streams.at n) ∧
      (∀ n, z.seqs.at n = if seqHalf n = h then .reset else s.seqs.at n) ∧
      z.ta.dogs.at h = .reset ∧ (∀ q : Fin 16, seqHalf q = h → (z.eic.targets.at (Fin.ofNat 18 q.val)).stack = []) ∧
      z = { s with
        lanes := z.lanes, power := z.power, chans := z.chans, seqs := z.seqs, ibufs := z.ibufs, engines := z.engines
        groups := z.groups, streams := z.streams, crcs := z.crcs, bss := z.bss, lcs := z.lcs, gds := z.gds, abs_ := z.abs_
        ta := z.ta, eic := z.eic, cs := z.cs, dbg := z.dbg }
    let live : Prop := x.st = .run ∨ x.st = .sleep
    (x.st = .off → exec (.halfOn h) s = .next (half s { x with st := .up })) ∧
    (x.st ≠ .off → exec (.halfOn h) s = err 1) ∧
    (live → ∃ z, exec (.halfOff h) s = .next z ∧ lost z .down) ∧
    (¬ live → exec (.halfOff h) s = err 1) ∧
    (live → ∃ z, exec (.halfReset h) s = .next z ∧ lost z .up ∧ z.power.rstCause.getLsbD (4 + h.val) = true) ∧
    (¬ live → exec (.halfReset h) s = err 1) ∧
    (x.st = .run → s.quiet h = true → ∃ z, exec (.halfSleep h) s = .next z ∧
      z = { s with power := z.power, eic := z.eic, dbg := z.dbg } ∧ z.power.halves.at h = { x with st := .enter, wakeRec := (z.power.halves.at h).wakeRec } ∧
      z.power.canary = s.power.canary.upd h 0) ∧
    (x.st = .run → s.quiet h = false → exec (.halfSleep h) s = err 2) ∧
    (x.st ≠ .run → exec (.halfSleep h) s = err 1) ∧
    (x.st = .sleep → exec (.halfWake h) s = .next { half s { x with st := .wake } with
      dbg := { s.dbg with emu := s.dbg.emu.upd h false } }) ∧
    (x.st = .enter → exec (.halfWake h) s = .next (half s { x with wakeRec := true })) ∧
    (x.st ≠ .sleep → x.st ≠ .enter → exec (.halfWake h) s = err 1) ∧
    (x.st = .up → ∃ z, exec (.halfUpDone h) s = .next z ∧ z.power.halves.at h = { x with st := .run, done := true } ∧
      (∀ n, z.lanes.at n = if laneHalf n = h then .reset (s.lanes.at n).rest (s.lanes.at n).level else s.lanes.at n) ∧
      (∀ n, z.seqs.at n = if seqHalf n = h then .reset else s.seqs.at n)) ∧
    (x.st = .enter → (∀ q : Fin 16, seqHalf q = h → (s.seqs.at q).fownD = false) → ∃ z, exec (.halfSleepDone h) s = .next z ∧
      ((z.power.halves.at h).st = .wake ∨ (z.power.halves.at h).st = .sleep ∧ x.wakeRec = false) ∧ (z.power.halves.at h).done = true ∧ z.mem = s.mem ∧
      (∀ n, seqHalf n = h → (z.seqs.at n).q = Bank.fill 16 0 ∧ (z.seqs.at n).resv = none ∧ (z.seqs.at n).st = (s.seqs.at n).st) ∧
      (∀ n, seqHalf n ≠ h → z.seqs.at n = s.seqs.at n)) ∧
    (x.st = .wake → ∃ z, exec (.halfWakeDone h) s = .next z ∧
      z = { s with power := z.power, seqs := z.seqs, eic := z.eic, dbg := z.dbg } ∧
      z.power.halves.at h = { x with st := .run, done := true } ∧
      ∀ n, z.seqs.at n = if seqHalf n = h ∧ (s.seqs.at n).st = .nap then
        { s.seqs.at n with st := .idle, idleSince := s.now } else s.seqs.at n) ∧
    (x.st = .down → exec (.halfDownDone h) s = .next (half s { x with st := .off, done := true }))) ∧
  ((∀ (s : State) (t : Instant),
    let a := s.advance t
    let p := a.power
    let g := p.gasp
    let onset := !p.sokLow && !p.floorLow
    let fired : Gasp := { g with
      cfg := g.cfg &&& ~~~1, ref := 0, left := [0, 1, 2, 3].filter fun k : Fin 4 => decide (k.val ≤ fldN g.cfg 4 2) }
    exec (.supplyOkFall t false) s = .next { a with power := { p with
      sok := false, sokSince := a.now, sokLow := true, lowF := p.lowF || onset
      gasp := if onset ∧ bit g.cfg 0 = true then fired else g } } ∧
    exec (.supplyOkFall t true) s = .next { a with power := { p with sok := true, sokSince := a.now } } ∧
    (p.sok = true → 10000 ≤ a.now - p.sokSince →
      exec (.supplyLowEnd t) s = .next { a with power := { p with sokLow := false } }) ∧
    (p.sok = false ∨ a.now - p.sokSince < 10000 → exec (.supplyLowEnd t) s = .next a)) ∧
  (∀ (s : State) (r : Req) (v : W32), s.refusal r true 0x20008 4 v.toNat = none →
    (bit v 1 = true → exec (.supCfgWrite r v) s = .next { s with power := { s.power with supCfg := v &&& 0xFFFF0006 } }) ∧
    (bit v 1 = false → exec (.supCfgWrite r v) s =
      .next { s with power := { s.power with supCfg := v &&& 0xFFFF0006, floorLow := false } })) ∧
  (∀ (s : State) (k : Fin 4) (l : List (Fin 4)), s.power.gasp.left = k :: l →
    let g := s.power.gasp
    let a := (g.addr.at k).toNat
    let q : Req := { who := .gasp, sec := bit g.cfg 6 }
    let andDone (x : Gasp) : Gasp := { x with done := x.done || decide (x.left = []) }
    let tail (z : State) (c : Option Cause) : Host.Outcome State Fault Refusal := .next { z with power := { z.power with
      gasp := andDone (match c with
        | none => { z.power.gasp with left := z.power.gasp.left.tail }
        | some x => { z.power.gasp with
            left := z.power.gasp.left.tail, ref := z.power.gasp.ref ||| BitVec.ofNat 4 (2 ^ k.val), err := true
            cause := if z.power.gasp.ref = 0 then x.code else z.power.gasp.cause }) } }
    (0x1000000 ≤ a → exec .lastGaspWrite s = tail s (some .disabled)) ∧
    (∀ c z, a < 0x1000000 → s.busWrite q a 4 (g.data.at k).toNat = (c, z) → exec .lastGaspWrite s = tail z c)) ∧
  (∀ (s : State) (r : Req) (h : Fin 2) (v : W32), s.refusal r true (0x20034 + 4 * h.val) 4 v.toNat = none →
    let p := s.power
    let c := p.claims.at h
    let with_ (c' : Claim) : State := { s with power := { p with claims := p.claims.upd h c' } }
    (bit v 31 = false → exec (.leaseClaim r h v) s = .next (with_ { c with v := false }).settleMaster) ∧
    (bit v 31 = true → fld v 0 16 < c.epoch →
      exec (.leaseClaim r h v) s = .next { s with power := { p with eperr := p.eperr.upd h true } }) ∧
    (bit v 31 = true → c.epoch ≤ fld v 0 16 → exec (.leaseClaim r h v) s = .next (with_ {
      v := true, epoch := fld v 0 16
      until_ := s.now + BitVec.ofNat 64 (1000 * max 1 (fldN p.leaseCfg 0 16)) }).settleMaster)) ∧
  (∀ (s : State) (t : Instant) (h : Fin 2),
    let a := s.advance t
    let c := a.power.claims.at h
    c.v = true → a.up = true → a.ticking = true → notBefore a.now c.until_ = true →
    exec (.leaseExpiry t h) s =
      .next ({ a with power := { a.power with claims := a.power.claims.upd h { c with v := false } } } : State).settleMaster) ∧
  (∀ s : State,
    let n := s.power.claims.at 0
    let q := s.power.claims.at 1
    let m : MasterSel := if n.v = true ∧ (q.v = false ∨ q.epoch ≤ n.epoch) then .north else if q.v then .south else .none
    let now : MasterWas := { at_ := s.now, master := s.power.master, chg := s.power.chg }
    let settled (was : MasterWas) : State := { s with power := { s.power with
      master := m, chg := was.chg || decide (m ≠ was.master), masterWas := if s.ticking then some was else none } }
    (∀ x, s.power.masterWas = some x → s.ticking = true → x.at_ = s.now → s.settleMaster = settled x) ∧
    ((∀ x, s.power.masterWas = some x → s.ticking = false ∨ x.at_ ≠ s.now) → s.settleMaster = settled now)) ∧
  (∀ (s : State) (r : Req) (k : Fin 64) (v : W32), s.refusal r true (0x40000 + 4 * k.val) 4 v.toNat = none →
    exec (.bbWrite r k v) s = .next { s with bat := { s.bat with data := s.bat.data.upd k v } }) ∧
  (∀ (s : State) (r : Req) (k : Fin 64) (v : W32), s.up = true → r.sec = true → s.power.low = true →
    s.lcLocked r true (0x40000 + 4 * k.val) = false → s.regDisabled r true (0x40000 + 4 * k.val) v = false →
    s.refusal r true (0x40000 + 4 * k.val) 4 v.toNat = some .guard))

/-- R516, R523 to R526, R533, R538, R588: the resets and the rails: which cause each leaves in PW_RSTCAUSE, what is lost, what
stays, and what the release of RST_N starts. A tamper event that had waited for a transition acts after the reset that ends it,
and a fall of the grant has the effect that the statement on the debugger's grant gives. What the battery registers read after
the loss of VBAT is left open (log entry 7). Readings and choices behind it: log entries 17 and 25. -/
def Obligations.ResetsAndRails : Prop :=
  (∀ s : State, ∃ z, exec .powerOnReset s = .next z.tamperSettle ∧ s.RegionReset z ∧ z.power = { Power.reset with
      sok := s.power.sok, vcore := s.power.vcore, vcoreLost := s.power.vcoreLost || !s.power.vcore, porst := false, testMode := s.power.testMode } ∧
    z.bat = s.bat ∧ z.mem.cells = s.mem.cells ∧ z.hp = s.hp.clear ∧ ∀ n, (z.lanes.at n).rest = 0) ∧
  (∀ s : State, s.power.vao = true → s.power.porst = false → ∃ z, exec .porstNRelease s = .next z ∧ s.RegionReset z ∧
    z.power = { Power.reset with
      sok := s.power.sok, vcore := s.power.vcore, vcoreLost := s.power.vcoreLost || !s.power.vcore, porst := true, testMode := s.power.testMode } ∧
    z.bat = s.bat ∧ z.mem.cells = s.mem.cells) ∧
  (∀ s : State, s.power.vao = true → s.power.porst = true → s.power.rst = true → ∃ z, exec .rstNAssert s = .next z.tamperSettle ∧
    s.RegionReset z ∧ z.power.rst = false ∧ z.power.sysRst = false ∧ z.power.rstCause =
      (s.power.rstCause ||| 2 ||| if s.power.sysRst then 0x40 else 0) ∧
    z.bat = s.bat ∧ z.mem.cells = s.mem.cells ∧ z.power.supCfg = s.power.supCfg ∧ z.power.gasp = s.power.gasp ∧
    z.dbg.port = s.dbg.port ∧ z.dbg.cfg = s.dbg.cfg ∧ z.hp = { s.hp with err := none }) ∧
  (∀ s : State, s.power.vao = true → s.power.porst = true → s.power.vcore = true → s.power.crst = true →
    ∃ z : State, exec .rstNRelease s = .next (z.regrant s.grant) ∧
      z = { s with beryl := { s.beryl with st := .waitRef }, power := z.power, chans := z.chans, mem := z.mem, seqs := z.seqs
                   vault := { s.vault with aonLoad := false } } ∧
      z.power.rst = true ∧ z.power.crst = false ∧ z.power.vcoreLost = false ∧ z.power.rstCause = s.power.rstCause ∧
      (∀ h, z.power.halves.at h = { s.power.halves.at h with st := if bit (s.power.halves.at h).cfg 0 then .off else .up }) ∧
      z.mem.wiping = true ∧ z.mem.agLast = 3 ∧
      (s.power.vcoreLost = false → s.vault.aonLoad = false →
        z.chans = s.chans ∧ ∀ e, e ∈ z.mem.cells ↔ e ∈ s.mem.cells ∧ memOf e.1 ≠ some 1) ∧
      (s.power.vcoreLost = true ∨ s.vault.aonLoad = true →
        (∀ n, (z.chans.at n).mbClean = true) ∧ ∀ e ∈ z.mem.cells, memOf e.1 = none)) ∧
  (∀ s : State, s.up = true → s.power.cready = false →
    exec .commonReady s = .next { s with
      power := { s.power with cready := true }
      mem := if s.mem.wiping then { s.mem with wiping := false, wlock := 0, wipes := s.mem.wipes + 1, agDone := true }
             else s.mem }) ∧
  (∀ s : State, s.power.vao = true → s.power.vcore = true → ∃ z, exec .vcoreLoss s = .next z.tamperSettle ∧ s.RegionReset z ∧
    z.power.vcore = false ∧ z.power.vcoreLost = true ∧ z.power.rstCause = (s.power.rstCause ||| 0x80) ∧ z.bat = s.bat ∧
    z.power.sysRst = s.power.sysRst ∧ z.hp = s.hp.clear ∧ ∀ e ∈ z.mem.cells, memOf e.1 = none) ∧
  (∀ s : State, s.power.vao = true → s.power.vcore = false →
    exec .vcoreReturn s = .next { s with power := { s.power with vcore := true } }) ∧
  (∀ s : State, s.power.vao = true → ∃ z, exec .vaoLoss s = .next z.tamperSettle ∧ s.RegionReset z ∧ z.power.vao = false ∧
    z.power.vcore = false ∧ z.power.rstCause = 0 ∧ z.bat = s.bat ∧ ∀ e ∈ z.mem.cells, memOf e.1 = none) ∧
  (∀ s : State, s.bat.vok = true → ∃ z : State, exec .batteryLoss s = .next (z.regrant s.grant) ∧ z.bat.vok = false ∧
    z.vault.inputs = s.vault.inputs ∧ z = { s with bat := z.bat, vault := z.vault, free := z.free }) ∧
  (∀ s : State, s.bat.vok = false →
    let a : State := State.regrant { s with
      bat := .reset, vault := { Vault.reset with aonLoad := s.vault.aonLoad, inputs := s.vault.inputs } } s.grant
    (a.up = true → ∃ z, exec .batteryInit s = .next z.tamperSettle ∧ a.RegionReset z ∧ z.bat = .reset ∧
      z.power.rstCause = (a.power.rstCause ||| 0x80) ∧ z.power.vcoreLost = true ∧ ∀ e ∈ z.mem.cells, memOf e.1 = none) ∧
    (a.up = false → exec .batteryInit s = .next a.tamperSettle)) ∧
  (∀ (s : State) (v : Bool), s.power.vao = true → s.power.testMode ≠ v → ∃ z, exec (.testModeChange v) s = .next z.tamperSettle ∧
    s.RegionReset z ∧ z.power.testMode = v ∧ z.power.rstCause = 1 ∧ z.bat = s.bat) ∧
  (∀ s : State, s.power.vao = true → exec (.testModeChange s.power.testMode) s = .next s.tamperSettle)

/-- R541 to R543, R554 to R557: a lifecycle request is judged in its order and, accepted, starts the CLEAR step; COMMIT is
abandoned with GUARD while the supply is low, and otherwise writes the state, the count, the secure words and the log in one;
CSLOCK is set; a tamper input follows its pin, and one that is enabled, active and has not yet given its event logs it, in the
order of the inputs within a ns, and acts, after a transition that runs (log entry 18 on a level held for less than 1 µs). A
command that does not apply changes nothing: log entry 2. -/
def Obligations.LifecycleAndTamper : Prop :=
  let entry (a : State) (src arg : Nat) : TamperEntry := {
    lo := if a.ticking then a.now.extractLsb' 0 32 else 0
    hi := putB 31 true ||| putB 30 (!a.ticking) ||| put 27 src ||| put 23 arg |||
      if a.ticking then put 0 (fldN a.now 32 20) else 0 }
  (∀ (s : State) (r : Req) (v : W32), s.refusal r true 0x30008 4 v.toNat = none →
    let a := s.vault.state
    let b : BitVec 4 := fld v 0 4
    let codes : List (BitVec 4) := [0, 1, 3, 7, 0xF]
    let pairs : List (BitVec 4 × BitVec 4) := [(0, 1), (0, 3), (1, 3), (1, 7), (0, 0xF), (1, 0xF), (3, 0xF), (7, 0xF)]
    let full : Prop := b = 7 ∨ b = 0xF
    let fails : Option Nat := ([(decide (fldN v 16 16 ≠ 0x4C43), 1),
      (decide (s.sec.tr.st ≠ .idle ∨ s.sec.ld.st ≠ .idle) || s.seqsBusy, 2), (!codes.contains b, 3), (decide (a = 3 ∧ b = 7), 4),
      (!pairs.contains (a, b), 5), (decide (b = 3) && s.bat.noKey, 6), (s.power.low, 7)].find? fun p => p.1).map fun p => p.2
    (∀ e, fails = some e → e ≠ 7 →
      exec (.lifecycleRequest r v) s = .next { s with sec := { s.sec with lcResult := e } }) ∧
    (fails = some 7 → exec (.lifecycleRequest r v) s = .next { s with
      sec := { s.sec with lcResult := 7 }
      power := { s.power with guardCnt := if s.power.guardCnt = 0xFFFF then 0xFFFF else s.power.guardCnt + 1 } }) ∧
    (fails = none → ∃ z, exec (.lifecycleRequest r v) s = .next z ∧
      z = { s with sec := z.sec, mem := z.mem, chans := z.chans, seqs := z.seqs, cs := z.cs } ∧
      z.sec.tr = { st := .clear, target := b, full := decide full, byLoad := false } ∧ z.sec.lcResult = 0 ∧
      z.sec.lcDone = s.sec.lcDone ∧ z.mem.wiping = true ∧ z.mem.agLast = 1 ∧
      (full → (∀ n, (z.chans.at n).mbClean = true) ∧ ∀ e ∈ z.mem.cells, memOf e.1 = none) ∧
      (¬ full → z.cs = s.cs ∧ z.chans = s.chans ∧ ∀ e, e ∈ z.mem.cells ↔ e ∈ s.mem.cells ∧ memOf e.1 ≠ some 1))) ∧
  (∀ (s : State) (t : Instant),
    let a := s.advance t
    let x := a.sec.tr
    let ended (r : Nat) : Security := { a.sec with
      lcResult := r, lcDone := true, tr := .reset
      ld := if x.byLoad then { a.sec.ld with st := .idle, done := true, err := if r = 7 then 12 else 0 } else a.sec.ld }
    a.up = true → x.st = .clear → a.mem.wiping = false →
    (a.power.low = true → exec (.lifecycleCommit t) s = .next (State.tamperSettle { a with
      sec := ended 7, key := if x.byLoad then a.key.clear else a.key
      power := { a.power with guardCnt := if a.power.guardCnt = 0xFFFF then 0xFFFF else a.power.guardCnt + 1 } })) ∧
    (a.power.low = false → ∃ z : State, exec (.lifecycleCommit t) s = .next (z.regrant a.grant).tamperSettle ∧
      z = { a with sec := ended 0, key := if x.byLoad then a.key.clear else a.key, vault := z.vault, bat := z.bat } ∧
      z.vault = { a.vault with
        state := x.target, count := a.vault.count + 1, head := a.vault.head + 1
        log := tamperSort 15 (a.vault.log.upd a.vault.head (entry a 4 x.target.toNat)) a.vault.head
        wrap := a.vault.wrap || bit (a.vault.log.at a.vault.head).hi 31
        tcount := if a.vault.tcount < 255 then a.vault.tcount + 1 else 255 } ∧
      ∀ i : Fin 64, z.bat.data.at i = if x.full = true ∧ 32 ≤ i.val then 0 else a.bat.data.at i)) ∧
  (∀ (s : State) (r : Req) (v : W32), s.refusal r true 0x30004 4 v.toNat = none →
    exec (.cslockSet r v) s = .next { s with sec := { s.sec with csLock := s.sec.csLock ||| fld (hwWins 0x30004 v r.hw) 0 4 } }) ∧
  (∀ (a : State) (k : Fin 4) (late : Bool),
    let act := fldN a.vault.tamperCfg (4 * k.val + 2) 2
    let log := a.vault.log.upd a.vault.head (entry a k.val act)
    let logged : State := { a with vault := { a.vault with
      log := if late then log else tamperSort 15 log a.vault.head, head := a.vault.head + 1
      wrap := a.vault.wrap || bit (a.vault.log.at a.vault.head).hi 31
      tcount := if a.vault.tcount < 255 then a.vault.tcount + 1 else 255
      tflag := a.vault.tflag ||| BitVec.ofNat 4 (2 ^ k.val) } }
    (act = 0 → a.tamperAct k late = logged) ∧
    (act ≠ 0 → ∃ z, a.tamperAct k late = z ∧
      z = { logged with mem := z.mem, seqs := z.seqs, sec := z.sec, key := z.key, power := z.power, bat := z.bat } ∧
      (a.up = true → z.mem.wiping = true ∧ ∀ e, e ∈ z.mem.cells ↔ e ∈ a.mem.cells ∧ memOf e.1 ≠ some 1) ∧
      (a.up = true → a.sec.ld.st = .idle ∨ a.sec.ld.st = .rollback → z.sec = a.sec) ∧
      (a.up = true → a.sec.ld.st ≠ .idle → a.sec.ld.st ≠ .rollback → z.sec.ld.st = .rollback ∧ z.sec.ld.err = 14) ∧
      (z.power.sysRst = (a.power.sysRst || (decide (act = 2) && a.power.vao))) ∧
      ∀ i : Fin 64, z.bat.data.at i = if act = 3 ∧ 32 ≤ i.val then 0 else a.bat.data.at i)) ∧
  (∀ (l : Bank TamperEntry 16) (i : Fin 16) (n : Nat),
    let x := l.at i
    let y := l.at (i - 1)
    let sameNs : Prop := bit x.hi 30 = false ∧ bit y.hi 31 = true ∧ x.lo = y.lo ∧ (x.hi ^^^ y.hi) &&& 0xC00FFFFF = 0
    (¬ sameNs ∨ fldN y.hi 27 3 ≤ fldN x.hi 27 3 → tamperSort (n + 1) l i = l) ∧
    (sameNs → fldN x.hi 27 3 < fldN y.hi 27 3 → tamperSort (n + 1) l i = tamperSort n ((l.upd i y).upd (i - 1) x) (i - 1))) ∧
  (∀ (s : State) (t : Instant) (k : Fin 4),
    let a := s.advance t
    let c := a.vault.tamperCfg
    let x := a.vault.inputs.at k
    let input (y : TamperIn) : State := { a with vault := { a.vault with inputs := a.vault.inputs.upd k y } }
    let gives : Prop := a.bat.vok = true ∧ bit c (4 * k.val) = true ∧ x.level = bit c (4 * k.val + 1) ∧ x.given = false ∧
      ∀ u, x.since = some u → a.ticking = true → 200 ≤ (a.now - u).toNat
    (∀ v, exec (.tamperEvent t k (some v)) s = .next (if x.level = v then a
      else input { x with level := v, since := if a.ticking then some a.now else none, given := false })) ∧
    (¬ gives → exec (.tamperEvent t k none) s = .next a) ∧
    (gives → a.sec.tr.st ≠ .idle → exec (.tamperEvent t k none) s = .next (input { x with given := true, waits := true })) ∧
    (gives → a.sec.tr.st = .idle →
      exec (.tamperEvent t k none) s = .next ((input { x with given := true, waits := false }).tamperAct k false))) ∧
  (∀ s : State,
    (s.sec.tr.st ≠ .idle ∨ (∀ k, (s.vault.inputs.at k).waits = false) → s.tamperSettle = s) ∧
    ∀ k, s.sec.tr.st = .idle → (∀ j, (s.vault.inputs.at j).waits = decide (j = k)) →
      s.tamperSettle = State.tamperAct { s with vault := { s.vault with
        inputs := s.vault.inputs.upd k { s.vault.inputs.at k with waits := false } } } k true)

/-- R80, R81, R548 to R552: the loader: GO, ABORT, a window word, a feed, the consumption of a fed half, the judgement of the
header in its order, the key, the verification, COMMIT and ROLLBACK. The vendor's key hash and the state of the hash primitives
follow log entries 8 and 14. The instants of commands follow log entry 1. A command that does not apply changes nothing: log
entry 2. Readings and choices behind it: log entry 18. -/
def Obligations.ImageLoader : Prop :=
  let guarded (s : State) : Power := { s.power with
    guardCnt := if s.power.guardCnt = 0xFFFF then 0xFFFF else s.power.guardCnt + 1 }
  (∀ (s : State) (r : Req) (h : Fin 2) (w : Fin 4096) (v : W32),
    let l := s.sec.ld
    let ld (x : Loader) : State := { s with sec := { s.sec with ld := x } }
    (s.refusal r true 0x30010 4 1 = none →
      (l.st ≠ .idle → exec (.loaderGo r) s = .next s) ∧
      (l.st = .idle → s.sec.tr.st ≠ .idle ∨ s.seqsBusy = true → exec (.loaderGo r) s = .next (ld { l with err := 1, done := true })) ∧
      (l.st = .idle → s.sec.tr.st = .idle → s.seqsBusy = false → s.power.low = true →
        exec (.loaderGo r) s = .next { ld { l with err := 12, done := true } with power := guarded s }) ∧
      (l.st = .idle → s.sec.tr.st = .idle → s.seqsBusy = false → s.power.low = false →
        exec (.loaderGo r) s = .next (ld { l with
          st := .header, err := 0, free := Bank.fill 2 true, fed := [], fedBytes := 0, img := [], paid := 0 }))) ∧
    (s.refusal r true 0x30010 4 2 = none →
      (l.st = .idle ∨ l.st = .rollback → exec (.loaderAbort r) s = .next s) ∧
      (l.st ≠ .idle → l.st ≠ .rollback → s.sec.tr.st = .idle → ∃ z, exec (.loaderAbort r) s = .next z ∧ s.LoadFailed z 15)) ∧
    (s.refusal r true (0x38000 + 0x4000 * h.val + 4 * w.val) 4 v.toNat = none →
      exec (.loaderWindowWrite r h w v) s = .next (ld { l with
        win := sparseSet 0 l.win (4096 * h.val + w.val) v, bad := l.bad.filter (· ≠ 4096 * h.val + w.val) })) ∧
    (∀ n k, s.refusal r true 0x30014 4 v.toNat = none → n = fldN v 0 13 → k = (if bit v 16 then (1 : Fin 2) else 0) →
      let takes : Prop := (l.st = .header ∨ l.st = .key ∨ l.st = .pass ∨ l.st = .verify) ∧ l.free.at k = true ∧ 1 ≤ n ∧ n ≤ 4096
      (¬ takes → exec (.loaderFeed r v) s = .next (ld { l with feedErr := true })) ∧
      (takes → l.img.length < 12 ∨ l.fedBytes + 4 * n ≤ imgTotal l.img → exec (.loaderFeed r v) s = .next (ld { l with
        free := l.free.upd k false, fed := l.fed ++ [(k, n)], fedBytes := l.fedBytes + 4 * n })) ∧
      (takes → 12 ≤ l.img.length → imgTotal l.img < l.fedBytes + 4 * n →
        ∃ z, exec (.loaderFeed r v) s = .next z ∧ s.LoadFailed z 3))) ∧
  (∀ s : State, s.sec.ld.take = none → exec .loaderConsume s = .next s) ∧
  (∀ (s : State) (l : Loader), s.sec.ld.take = some l → l.winBad s.sec.ld = true → ∃ z, exec .loaderConsume s = .next z ∧
    ({ s with sec := { s.sec with ld := l } } : State).LoadFailed z 13) ∧
  (∀ (s : State) (l : Loader), s.sec.ld.take = some l → l.winBad s.sec.ld = false → l.st ≠ .pass →
    exec .loaderConsume s = .next { s with sec := { s.sec with ld := l } }) ∧
  (∀ l l' : Loader, l.take = some l' → ∃ b : List Byte, l'.img = l.img ++ b ∧ 4 ≤ b.length ∧ b.length % 4 = 0 ∧
    l'.img.length ≤ l.limit ∧ l' = { l with img := l'.img, fed := l'.fed, free := l'.free }) ∧
  (∀ (s : State) (l : Loader), s.sec.ld.take = some l → l.winBad s.sec.ld = false → l.st = .pass → ∃ z, exec .loaderConsume s = .next z ∧
    z.sec.ld.img = l.img ∧ z = { s with
      sec := z.sec, mem := z.mem, seqs := z.seqs, cs := z.cs, power := z.power, key := z.key }) ∧
  (∀ (s : State) (t : Instant),
    let a := s.advance t
    let l := a.sec.ld
    let i := l.img
    let ld (x : Loader) : State := { a with sec := { a.sec with ld := x } }
    let want : Nat := if imgCustomer i then a.bat.keyHash else Config.vendorHash.toNat
    let patch : Bool := imgHas i [2, 3]
    let fails : Option Nat := ([(!imgFormat i || decide (imgTotal i < l.fedBytes), 3), (imgRefused i a.vault.state a.vault.count, 4),
      (imgCustomer i && a.bat.noKey, 5), (decide (beNat (sha384 (imgBytes i 0x40 96)) ≠ want), 6),
      (!decide (imgLe i 0x10 4 / 0x10000 = 9 ∧ imgLe i 0x10 4 % 0x10000 ≤ 2) ||
        decide (imgRomRev i ≠ 0 ∧ imgRomRev i ≠ 0x11) || (decide (imgRomRev i = 0) && patch), 7),
      (decide (imgSvn i < a.vault.svn.toNat), 8), (patch && !(a.halfUp 0 && a.halfUp 1), 2)].find? fun p => p.1).map fun p => p.2
    l.st = .header → 0xC0 ≤ i.length → imgH i ≤ i.length →
    (∀ e, fails = some e → ∃ z, exec (.loaderHeaderDone t) s = .next z ∧ a.LoadFailed z e) ∧
    (fails = none → imgEnc i = true → a.power.low = true → ∃ z, exec (.loaderHeaderDone t) s = .next z ∧
      ({ a with power := guarded a } : State).LoadFailed z 12) ∧
    (fails = none → imgEnc i = true → a.power.low = false → a.key.ack = false → exec (.loaderHeaderDone t) s =
      .next { ld { l with st := .key } with key := { a.key with req := true, waits := false, since := a.now } }) ∧
    (fails = none → imgEnc i = true → a.power.low = false → a.key.ack = true → exec (.loaderHeaderDone t) s =
      .next { ld { l with st := .key } with key := { a.key with waits := true } }) ∧
    (fails = none → imgEnc i = false → exec (.loaderHeaderDone t) s =
      .next (ld { l with st := if imgTotal i - 96 ≤ i.length then .verify else .pass }))) ∧
  (∀ (s : State) (t : Instant) (k : BitVec 256),
    let a := s.advance t
    let l := a.sec.ld
    let pin (v : Bool) : KeyPort := { a.key with ack := v }
    (l.st ≠ .key ∨ a.key.req = false → exec (.keyAck t true k) s = .next { a with key := pin true }) ∧
    (l.st ≠ .key ∨ a.key.waits = false → exec (.keyAck t false k) s = .next { a with key := pin false }) ∧
    (l.st = .key → a.key.waits = true → a.power.low = false → exec (.keyAck t false k) s = .next { a with
      key := { pin false with req := true, waits := false, since := a.now } }) ∧
    (l.st = .key → a.key.waits = true → a.power.low = true → ∃ z, exec (.keyAck t false k) s = .next z ∧
      ({ a with key := pin false, power := guarded a } : State).LoadFailed z 12) ∧
    (a.key.req = true → l.st = .key → exec (.keyAck t true k) s = .next { a with
      sec := { a.sec with ld := { l with st := if imgTotal l.img - 96 ≤ l.img.length then .verify else .pass } }
      key := { pin true with req := false, key := k } }) ∧
    (a.key.req = true → l.st = .key →
      (a.ticking = true → notBefore a.now (a.key.since + 10000) = true →
        ∃ z, exec (.keyReadTimeout t) s = .next z ∧ a.LoadFailed z 11) ∧
      (a.ticking = false ∨ notBefore a.now (a.key.since + 10000) = false → exec (.keyReadTimeout t) s = .next a))) ∧
  (∀ s : State,
    let l := s.sec.ld
    let i := l.img
    let n := imgTotal i
    let ld (x : Loader) : State := { s with sec := { s.sec with ld := x } }
    let signed : Bool := ecdsaOk (imgBytes i 0x40 96) (sha384 (i.take (n - 96))) (imgBytes i (n - 96) 96)
    let tagged : Prop := imgEnc i = true → gcmTag (keyBytes s.key.key) (imgBytes i 0x20 12)
      (imgBytes i 0 0x30 ++ imgBytes i 0xC0 (imgH i - 0xC0)) (imgBytes i (imgH i) (imgP i)) = imgBytes i 0x30 16
    (l.st = .verify → i.length = n → signed = true → tagged → exec .loaderVerifyDone s = .next (ld { l with st := .commit })) ∧
    (l.st = .verify → i.length = n → signed = false ∨ ¬ tagged → ∃ z, exec .loaderVerifyDone s = .next z ∧
      s.LoadFailed z (if signed then 10 else 9)) ∧
    (l.st = .commit → s.sec.tr.st = .idle → s.power.low = true → ∃ z, exec .loaderCommit s = .next z ∧
      ({ s with
        sec := { s.sec with lcResult := if imgAuth i then 7 else s.sec.lcResult }, power := guarded s } : State).LoadFailed z 12) ∧
    (l.st = .commit → s.sec.tr.st = .idle → imgAuth i = true → s.power.low = false → ∃ z, exec .loaderCommit s = .next z ∧
      z.sec.tr = { st := .clear, target := 7, full := true, byLoad := true } ∧ z.sec.ld = l ∧ z.mem.wiping = true ∧
      z = { s with sec := z.sec, vault := z.vault, mem := z.mem, chans := z.chans, seqs := z.seqs, cs := z.cs }) ∧
    (l.st = .commit → s.sec.tr.st = .idle → imgAuth i = false → s.power.low = false → ∃ z, exec .loaderCommit s = .next z ∧
      z = { s with sec := z.sec, vault := z.vault, mem := { s.mem with wlock := s.mem.wlock ||| imgLocks i }, key := s.key.clear } ∧
      z.vault = { s.vault with svn := if imgSvnUp i = true ∧ s.vault.svn.toNat < imgSvn i then BitVec.ofNat 32 (imgSvn i)
                                      else s.vault.svn } ∧
      z.sec.ld = { l with st := .idle, done := true, err := 0 } ∧ z.sec.tr = s.sec.tr ∧
      (imgHas i [2, 3] = true → z.sec.patchValid = 0xF ∧ z.sec.patchId = BitVec.ofNat 32 (imgLe i 0x18 4)) ∧
      (imgHas i [2, 3] = false → z.sec.patchValid = s.sec.patchValid ∧ z.sec.patchId = s.sec.patchId) ∧
      (z.sec.csLock = 0xF ∨ z.sec.csLock = s.sec.csLock) ∧
      ∀ k : Fin 48, z.sec.hdr.at k = BitVec.ofNat 32 (imgLe i (4 * k.val) 4)) ∧
    (l.st = .rollback → l.agWritten = false ∨ s.mem.wiping = false → ∃ z, exec .loaderRollback s = .next z ∧
      z.sec.ld = { l with st := .idle, done := true } ∧ z.key = s.key.clear ∧
      z = { s with sec := z.sec, mem := z.mem, seqs := z.seqs, cs := z.cs, key := z.key }))

/-- R564, R567 to R576: a frame of the wire port is answered HOLD while an access runs, REFUSE after a refusal, and otherwise
runs its access, at once or in progress; a refused access sets STICKY and its cause; a bad DCRC drops a write; a bad header
loses the port until a line reset; a fall of the grant from FULL ends what the debugger holds; DBG_ALLOW only falls. A command
that does not apply changes nothing: log entry 2. Readings and choices behind it: log entry 19. -/
def Obligations.WirePort : Prop :=
  (∀ (s : State) (addr : BitVec 24) (c : Bool) (prompt : Bool) (hw : W32), s.portLive = true →
    let op : WireOp := if c then .consume else .read
    let cmd : Instr := if c then .debugConsume addr prompt hw else .debugRead addr prompt
    let sets : W32 := if c then hw else 0
    let p := s.dbg.port
    let a := 4 * addr.toNat
    let port (z : State) (x : VylerPort) : State := { z with dbg := { z.dbg with port := x } }
    let s0 := port s { p with held := none }
    let open_ : Prop := p.sticky = false ∨ (c = false ∧ portReg a = true)
    let same : Prop := ∃ o b v, p.held = some (o, b, v) ∧ o = op ∧ b.toNat = a
    (p.busy ≠ none → exec cmd s = .next (port s { p with wrote := false, rsp := .hold, rdata := 0 })) ∧
    (p.busy = none → ¬ open_ → exec cmd s = .next (port s { p with held := none, wrote := false, rsp := .refuse, rdata := 0 })) ∧
    (p.busy = none → open_ →
      (∀ b v, p.held = some (op, b, v) → b.toNat = a →
        exec cmd s = .next (port s { p with held := none, wrote := false, rsp := .done, rdata := v })) ∧
      (¬ same → prompt = false → exec cmd s = .next (port s { p with
        held := none, busy := some (op, addr ++ (0 : BitVec 2)), wrote := false, rsp := .hold, rdata := 0 })) ∧
      (¬ same → prompt = true →
        (∀ v z, s0.wireRead op a sets = (some v, z) → exec cmd s = .next (port z { z.dbg.port with wrote := false, rsp := .done, rdata := v })) ∧
        (∀ z, s0.wireRead op a sets = (none, z) → exec cmd s = .next (port z { z.dbg.port with wrote := false, rsp := .refuse, rdata := 0 }))))) ∧
  (∀ (s : State) (op : WireOp) (a : Nat) (hw : W32),
    let port (z : State) (x : VylerPort) : State := { z with dbg := { z.dbg with port := x } }
    (∀ c, s.wireRefusal op a = some c → c ≠ Cause.guard.code → c ≠ Cause.disabled.code →
      s.wireRead op a hw = (none, port s { s.dbg.port with sticky := true, cause := c })) ∧
    (s.wireRefusal op a = none → within a 0x200000 0x210000 = false → s.regEcc a = false → shadowRead a = false →
      let r := s.regRead { who := .debugger, sec := false, hw := hw } a
      (op = .read → s.wireRead op a hw = (some r.1, port s { s.dbg.port with rdbuf := r.1 })) ∧
      (op = .consume → s.wireRead op a hw = (some r.1, port r.2 { r.2.dbg.port with rdbuf := r.1 })))) ∧
  (∀ (s : State) (addr : BitVec 24) (v : W32) (dcrc : Byte) (prompt : Bool) (hw : W32) (coll : List PortA), s.portLive = true →
    let p := s.dbg.port
    let a := 4 * addr.toNat
    let port (x : VylerPort) : State := { s with dbg := { s.dbg with port := x } }
    let done : VylerPort := { p with held := none, wrote := true, rsp := .done, rdata := 0 }
    let exec_ := exec (.debugWrite addr v dcrc prompt hw coll) s
    (p.busy ≠ none → exec_ = .next (port { p with wrote := true, rsp := .hold, rdata := 0 })) ∧
    (p.busy = none → p.sticky = true → a ≠ 0x200004 → exec_ = .next (port { p with held := none, wrote := true, rsp := .refuse, rdata := 0 })) ∧
    (p.busy = none → p.sticky = false ∨ a = 0x200004 →
      (dcrc ≠ dcrcOf v → exec_ = .next (port { done with wdcErr := true, sticky := true, cause := 0 })) ∧
      (dcrc = dcrcOf v → prompt = true → exec_ = .next ((port done).wireWrite a v hw coll)) ∧
      (dcrc = dcrcOf v → prompt = false →
        exec_ = .next (port { done with busy := some (.write v, addr ++ (0 : BitVec 2)) })))) ∧
  (∀ (s : State) (op : WireOp) (addr : BitVec 26) (hw : W32) (coll : List PortA), s.dbg.port.busy = some (op, addr) →
    let s0 : State := { s with dbg := { s.dbg with port := { s.dbg.port with busy := none } } }
    (∀ v, op = .write v → exec (.debugAccessDone hw coll) s = .next (s0.wireWrite addr.toNat v hw coll)) ∧
    (∀ v z, op.isWrite = false → s0.wireRead op addr.toNat hw = (some v, z) → exec (.debugAccessDone hw coll) s =
      .next { z with dbg := { z.dbg with port := { z.dbg.port with held := some (op, addr, v) } } }) ∧
    (∀ z, op.isWrite = false → s0.wireRead op addr.toNat hw = (none, z) → exec (.debugAccessDone hw coll) s = .next z)) ∧
  (∀ (s : State) (sync : BitVec 2) (cmd : BitVec 3) (addr : BitVec 24) (hcrc : BitVec 4),
    let good : Prop := sync = 1 ∧ (cmd = 1 ∨ cmd = 2 ∨ cmd = 4) ∧ hcrc = hcrcOf cmd addr
    (s.portLive = true → ¬ good → exec (.headerError sync cmd addr hcrc) s = .next { s with dbg := { s.dbg with
      port := { s.dbg.port with hdrErr := true, lost := true, rsp := .silent } } }) ∧
    (good → exec (.headerError sync cmd addr hcrc) s = .next s)) ∧
  (∀ s : State, s.power.vao = true → s.power.porst = true → exec .lineReset s = .next { s with dbg := { s.dbg with
    port := { s.dbg.port with lost := false, held := none } } }) ∧
  (∀ (s : State) (v : W32), s.portOpen = true → s.power.testMode = false →
    let s0 : State := { s with dbg := { s.dbg with port := { s.dbg.port with req := fld v 0 2 } } }
    (s.grant ≤ s0.grant ∨ (s.grant = 2 → s0.grant = 2) ∧ s0.grant ≠ 0 → exec (.authRequest v) s = .next s0) ∧
    (s.grant = 2 → s0.grant < 2 →
      let y := allSeqs.foldl (fun z n => z.releaseSeq n) s0
      ∃ z, exec (.authRequest v) s = .next z ∧ z = { y with dbg := z.dbg } ∧ z.dbg.port = y.dbg.port ∧ z.dbg.haltReq = 0 ∧
        (∀ k, z.dbg.bps.at k = y.dbg.bps.at k &&& 0x7FFFFFFF) ∧ z.dbg.cfg = y.dbg.cfg &&& ~~~15 ∧
        (∀ n, z.dbg.sqs.at n =
          { y.dbg.sqs.at n with grp := false, stepping := false, trapCatch := false, enCatch := false }) ∧
        (s0.grant ≠ 0 → z.dbg.trCfg = y.dbg.trCfg) ∧ (s0.grant = 0 → bit z.dbg.trCfg 0 = false ∧ z.dbg.stimEn = 0))) ∧
  (∀ (s : State) (n : Fin 16),
    let q := s.seqs.at n
    let c := q.cx
    let x := s.chans.at c
    let stops : Prop := q.cxv = true ∧ x.res = true ∧ (x.st = .run ∨ x.st = .blocked)
    (q.st ≠ .halt → s.releaseSeq n = s) ∧
    (q.st = .halt → ∃ z : State, z = { s with seqs := s.seqs.upd n { q with st := q.before, resv := none }, ta := z.ta, dbg := z.dbg } ∧
      z.dbg.sqs = s.dbg.sqs.upd n { s.dbg.sqs.at n with exempt := true, trapCatch := false } ∧ z.dbg.port = s.dbg.port ∧
      (¬ stops ∨ x.stopRec = none → s.releaseSeq n = z.seqRests n) ∧
      ∀ ab, stops → x.stopRec = some ab →
        s.releaseSeq n = ((z.seqRests n).modChan c fun y => { y with stopRec := none }).chStop c ab)) ∧
  (∀ (s : State) (r : Req) (v : W32), r.who ≠ .debugger → s.refusal r true 0x200100 4 v.toNat = none →
    (s.dbg.allow.toNat < fldN v 0 2 → exec (.allowWrite r v) s = .next s) ∧
    (fldN v 0 2 ≤ s.dbg.allow.toNat → exec (.allowWrite r v) s =
      .next (State.regrant { s with dbg := { s.dbg with allow := fld v 0 2 } } s.grant)))

/-- R577, R578, R580 to R584, R589 to R591: a halt request is noted; a sequencer that halts keeps its state before, loses its
reservation and records its cause, and passes a group request on; release restores it; a step runs one instruction and halts
again; the items, the feed and the memory access of a halted sequencer; a stimulus packet, which takes its place by KIND and SRC
among the packets of its ns, and the read of the trace. What DBG_TRACELO holds after a read of an empty trace is the model's
choice (log entry 19). A command that does not apply changes nothing: log entry 2. -/
def Obligations.HaltedSequencers : Prop :=
  (∀ (s : State) (n : Fin 16) (v : W32) (a : Nat), s.portOpen = true → s.wireRefusal (.write v) a = none →
    let q := s.seqs.at n
    let x := s.dbg.sqs.at n
    let dsq (z : State) (y : DbgSeq) : State := { z with dbg := { z.dbg with sqs := z.dbg.sqs.upd n y } }
    let seq (y : Seq) : State := { s with seqs := s.seqs.upd n y }
    (a = 0x200104 → exec (.haltRequest v) s = .next { s with dbg := { s.dbg with haltReq := s.dbg.haltReq ||| fld v 0 16 } }) ∧
    (a = 0x200108 → exec (.release v) s =
      .next (allSeqs.foldl (fun z m => if bit v m.val then z.releaseSeq m else z) s)) ∧
    (a = 0x20010C → v = BitVec.ofNat 32 (2 ^ n.val) →
      (s.isHalted n = false → exec (.singleStep v) s = .next s) ∧
      (s.isHalted n = true → q.before ≠ .run ∨ q.held ≠ none → exec (.singleStep v) s = .next (dsq s { x with accErr := true })) ∧
      (s.isHalted n = true → q.before = .run → q.held = none →
        let s1 := s.unhalt n
        let o := s1.chans.at q.cx
        let s2 : State := if o.st = .blocked then { s1 with chans := s1.chans.upd q.cx { o with st := .run } } else s1
        let live : Prop := q.cxv = true ∧ (o.st = .blocked ∨ o.st = .run ∨ o.st = .draining)
        ∃ y, (live → y = s2.execute n) ∧ (¬ live → y = s2) ∧
        ((y.seqs.at n).held ≠ none → exec (.singleStep v) s = .next (dsq y { y.dbg.sqs.at n with stepping := true })) ∧
        ((y.seqs.at n).held = none → y.seqUp n = true → (y.seqs.at n).st.haltable = true → ∃ z, exec (.singleStep v) s = .next z ∧
          z.seqs.at n = { y.seqs.at n with st := .halt, before := (y.seqs.at n).st, resv := none } ∧
          (z.dbg.sqs.at n).hcause = 7 ∧ (z.dbg.sqs.at n).stepping = false ∧ z = { y with seqs := z.seqs, ta := z.ta, dbg := z.dbg }) ∧
        ((y.seqs.at n).held = none → y.seqUp n = false ∨ (y.seqs.at n).st.haltable = false → exec (.singleStep v) s = .next y))) ∧
    (a = 0x201008 + 0x40 * n.val →
      let g := fldN x.gsel 0 7
      let to_ (z : State) : Prop := exec (.gdataWrite n v) s = .next z
      (s.isHalted n = false → to_ (dsq s { x with accErr := true })) ∧
      (s.isHalted n = true →
        (g < 32 → to_ (seq (q.setReg g v))) ∧
        (g = 32 → fldN v 0 2 = 0 → to_ (seq { q with pc := v })) ∧
        (g = 33 → to_ (seq (q.setSt v))) ∧
        (g = 37 → fldN v 0 2 = 0 → to_ (seq { q with tvec := v })) ∧
        ((g = 32 ∨ g = 37) ∧ fldN v 0 2 ≠ 0 ∨ (34 ≤ g ∧ g ≤ 36) ∨ g = 38 ∨ g = 39 ∨ (41 ≤ g ∧ g < 64) ∨ 96 ≤ g ∨
          ((g = 40 ∨ 64 ≤ g ∧ g < 96) ∧ q.ownsBank = false) → to_ (dsq s { x with accErr := true })))) ∧
    (a = 0x20100C + 0x40 * n.val →
      let taken : Prop := s.isHalted n = true ∧ q.cxv = true ∧ feedBad v = false ∧ q.held = none
      (¬ taken → exec (.instructionFeed n v) s = .next (dsq s { x with feedRes := .refused, feedCause := 0 })) ∧
      (∀ u z, taken → s.wordFetch n v = (some u, z) →
        exec (.instructionFeed n v) s = .next ((Res.fault (z.csFault n q.cx u .csEcc) 0 .csEcc).feed n)) ∧
      (∀ z, taken → s.wordFetch n v = (none, z) →
        (z.patched n (.instr v) = true → exec (.instructionFeed n v) s = .next ((z.vendorRun n v).feed n)) ∧
        (z.patched n (.instr v) = false →
          (decodeMacro v = none → exec (.instructionFeed n v) s = .next (dsq
            { z with seqs := z.seqs.upd n { z.seqs.at n with uwcnt := (z.seqs.at n).uwcnt + 2 } }
            { z.dbg.sqs.at n with feedV := true, feedRes := .trap, feedCause := 3 })) ∧
          (∀ m y k npc, decodeMacro v = some m → m.sem z n v = .done y k npc → y.holds n = true → exec (.instructionFeed n v) s =
            .next (dsq { y with seqs := y.seqs.upd n { y.seqs.at n with uwcnt := (y.seqs.at n).uwcnt + BitVec.ofNat 32 k } }
              { y.dbg.sqs.at n with feedV := true, feedRes := .ok, feedCause := 0 })) ∧
          (∀ m y k t, decodeMacro v = some m → m.sem z n v = .trap y k t →
            ∃ o, exec (.instructionFeed n v) s = .next o ∧
              (o.dbg.sqs.at n).feedV = true ∧ (o.dbg.sqs.at n).feedRes = .trap ∧ (o.dbg.sqs.at n).feedCause = t.cause.setWidth 24) ∧
          (∀ m y h, decodeMacro v = some m → m.sem z n v = .stall y h → exec (.instructionFeed n v) s =
            .next { y with seqs := y.seqs.upd n { y.seqs.at n with held := some { h with fed := true } } }))))) ∧
  (∀ (s : State) (n : Fin 16) (v : W32),
    s.portOpen = true → s.wireRefusal (.write (v ||| 1)) (0x201020 + 0x40 * n.val) = none →
    let x := { s.dbg.sqs.at n with mctrl := v &&& 0xE }
    let dsq (z : State) (y : DbgSeq) : State := { z with dbg := { z.dbg with sqs := z.dbg.sqs.upd n y } }
    let a := x.maddr.toNat
    let k := if bit v 2 then 8 else 4
    let data := if bit v 2 then (x.mdhi ++ x.mdlo).toNat else x.mdlo.toNat
    let q : Req := { who := .debugger, sec := decide (s.grant = 2) }
    let moved (y : DbgSeq) : DbgSeq := { y with
      merr := false, mcause := 0, maddr := if bit v 3 then (x.maddr + BitVec.ofNat 32 k) &&& 0x03FFFFFC else x.maddr }
    let s0 := dsq s x
    (s.isHalted n = false ∨ within a 0x1000000 0x2000000 = false → exec (.debugMemoryAccess n v) s =
      .next (dsq s { x with merr := true, mcause := Cause.disabled.code })) ∧
    (s.isHalted n = true → within a 0x1000000 0x2000000 = true →
      (∀ c, s0.refusal q (bit v 1) a k data = some c → c ≠ .guard → c ≠ .disabled → exec (.debugMemoryAccess n v) s =
        .next (dsq s { x with merr := true, mcause := c.code })) ∧
      (s0.refusal q (bit v 1) a k data = none →
        (bit v 1 = true → memOf a ≠ some 3 → exec (.debugMemoryAccess n v) s = .next (dsq (s0.memWrite n.val a k data) (moved x))) ∧
        (∀ d z, bit v 1 = false → s0.memLoad n.val a k = (some d, z) → exec (.debugMemoryAccess n v) s =
          .next (dsq z (moved { x with
            mdlo := BitVec.ofNat 32 d, mdhi := if bit v 2 then BitVec.ofNat 32 (d / 2 ^ 32) else x.mdhi }))) ∧
        (bit v 1 = true → memOf a = some 3 → exec (.debugMemoryAccess n v) s =
          .next (dsq ((s0.memWrite n.val a k data).dropLine a) (moved x))) ∧
        (∀ z, bit v 1 = false → s0.memLoad n.val a k = (none, z) → exec (.debugMemoryAccess n v) s =
          .next (dsq z { x with merr := true, mcause := Cause.ecc.code }))))) ∧
  (∀ (s : State) (n : Fin 16) (c : Nat) (i : Instr),
    (i = .sequencerHalt n ∧ s.haltNow n = some c) ∨
      (i = .groupHalt n ∧ c = 2 ∧ (s.dbg.sqs.at n).grp = true ∧ s.seqUp n = true ∧ (s.seqs.at n).st.haltable = true ∧
        (s.seqs.at n).held = none) →
    ∃ z, exec i s = .next z ∧ z = { s with seqs := z.seqs, ta := z.ta, dbg := z.dbg } ∧
      z.seqs = s.seqs.upd n { s.seqs.at n with st := .halt, before := (s.seqs.at n).st, resv := none } ∧
      (z.dbg.sqs.at n).hcause = c ∧ (z.dbg.sqs.at n).feedV = false ∧ (z.dbg.sqs.at n).grp = false ∧
      (∀ m, m ≠ n → z.dbg.sqs.at m = { s.dbg.sqs.at m with
        grp := (s.dbg.sqs.at m).grp || (decide (c ≠ 2) && s.dbg.hgrp.getLsbD n.val && s.dbg.hgrp.getLsbD m.val) }) ∧
      z.dbg.haltReq = if c = 1 then s.dbg.haltReq &&& ~~~ BitVec.ofNat 16 (2 ^ n.val) else s.dbg.haltReq) ∧
  (∀ (s : State) (n : Fin 16), s.seqUp n = true → (s.seqs.at n).st.haltable = true → (s.seqs.at n).held = none →
    (s.dbg.haltReq.getLsbD n.val = true → s.haltNow n = some 1) ∧
    (s.dbg.haltReq.getLsbD n.val = false → (s.dbg.sqs.at n).grp = true → s.haltNow n = some 2) ∧
    (s.dbg.haltReq.getLsbD n.val = false → (s.dbg.sqs.at n).grp = false → (s.dbg.sqs.at n).exempt = false →
      s.runnable n = true → s.bkpt n = true → s.haltNow n = some 3)) ∧
  (∀ (s : State) (n : Fin 16), (s.seqs.at n).held ≠ none → s.haltNow n = none ∧ exec (.sequencerHalt n) s = .next s) ∧
  (∀ (s : State) (r : Req) (k : Fin 32) (v : W32), s.refusal r true (0x200200 + 4 * k.val) 4 v.toNat = none →
    let p := packet 1 k.val s.now v
    (bit s.dbg.stimEn k.val = false ∨ bit s.dbg.trCfg 0 = false ∨ bit s.dbg.trCfg 4 = false →
      exec (.stimulusWrite r k v) s = .next s) ∧
    (bit s.dbg.stimEn k.val = true → bit s.dbg.trCfg 0 = true → bit s.dbg.trCfg 4 = true → s.dbg.drops = 0 →
      s.dbg.lastTime = some (s.now.extractLsb' 20 32) → s.dbg.trace.length < 512 →
      let l := s.dbg.trace
      let f := if s.ticking = true ∧ s.dbg.freshNs = some s.now then min s.dbg.fresh l.length else 0
      exec (.stimulusWrite r k v) s = .next { s with dbg := { s.dbg with
        trace := l.take (l.length - f) ++ insertPacket p (l.drop (l.length - f)), fresh := f + 1
        freshNs := if s.ticking then some s.now else none } })) ∧
  (∀ (p : W64) (l : List W64), ∃ a b, l = a ++ b ∧ insertPacket p l = a ++ p :: b ∧
    (∀ x ∈ a, fldN x 52 12 ≤ fldN p 52 12) ∧ ∀ x, b.head? = some x → fldN p 52 12 < fldN x 52 12) ∧
  (∀ s : State, s.portOpen = true → s.wireRefusal .consume 0x20028C = none →
    (∀ p l, s.dbg.trace = p :: l → exec .traceRead s = .next { s with dbg := { s.dbg with
      trace := l, traceLo := p.extractLsb' 0 32, port := { s.dbg.port with rdbuf := p.extractLsb' 32 32 } } }) ∧
    (s.dbg.trace = [] → exec .traceRead s = .next { s with dbg := { s.dbg with
      traceLo := 0, port := { s.dbg.port with rdbuf := 0 } } }))

/-- R600 to R605: a window command is judged in its order and completes at once with its RESULT, or pends until no entry that
its channel holds is marked; it is judged again as it executes; the channel commands act as their bits of CHn_CTRL and answer
IGNORED where these would; the response FIFO takes what a command pushes. What mailbox storage holds is left open (R346, log
entry 7), and so is the RES of a POST that names a channel in OFF, which is no post (R363, log entry 20). -/
def Obligations.CarnelianWindow : Prop :=
  (∀ (s : State) (v : BitVec 16), s.up = true → s.cw.en = true →
    let w := s.cw
    let to_ (x : Carnelian) : Host.Outcome State Fault Refusal := .next { s with cw := x }
    let unnoted (c : Fin 256) : State := { s with chans := s.chans.upd c { s.chans.at c with mbs := (s.chans.at c).mbs.map fun m : Mailbox =>
      { m with q := m.q.map fun e => { e with noted := false } } } }
    exec (.cwCmdHi v) s = to_ { w with cmdHi := v &&& 0x3FF, hiv := true } ∧
    (w.pend = none → exec .cwCancel s = .next s) ∧
    (∀ k, w.pend = some k → exec .cwCancel s = .next { unnoted k.ch with cw := { w with result := 10, done := true, doneWas := w.done, pend := none } }) ∧
    exec .cwRspFlush s = to_ { w with rsp := [] } ∧
    exec (.cwStatRead false) s = to_ { w with done := false } ∧
    exec (.cwStatRead true) s = .next s ∧ s.cwStatRead true = ({ w with done := w.doneWas }.stat, s) ∧
    (w.rsp = [] → exec .cwRspPop s = to_ { w with rfErr := true }) ∧
    (∀ x l, w.rsp = x :: l → s.cwPop.1 = x ∧ exec .cwRspPop s = to_ { w with rsp := l }) ∧
    (8 ≤ w.rsp.length → exec (.cwRspPush v) s = to_ { w with rfErr := true }) ∧
    (w.rsp.length < 8 → exec (.cwRspPush v) s = to_ { w with rsp := w.rsp ++ [v] })) ∧
  (∀ (s : State) (v : W32), s.up = true → bit v 0 = true ∨ s.cw.pend = none →
    exec (.cwEnableWrite v) s = .next { s with cw := { s.cw with en := bit v 0 } }) ∧
  (∀ s : State, s.up = true →
    (s.cw.pend = none → exec .cwExecute s = .next s) ∧
    (∀ k, s.cw.pend = some k →
      let held : Prop := ∃ m ∈ (s.chans.at k.ch).mbs.toList, ∃ e ∈ m.q, e.noted = true
      (held → exec .cwExecute s = .next s) ∧ (¬ held → exec .cwExecute s = .next (s.cwRun k)))) ∧
  (∀ (s : State) (param : Byte) (sec : Bool) (i : Instr) (op : Nat), s.up = true → s.cw.en = true →
    (i, op) ∈ [(.cwNop param sec, 0x00), (.cwStart param sec, 0x01), (.cwStop param sec, 0x02), (.cwAbort param sec, 0x03),
      (.cwResume param sec, 0x04), (.cwDiscard param sec, 0x05), (.cwFlush param sec, 0x06), (.cwNote param sec, 0x07),
      (.cwPost param sec, 0x10), (.cwStat param sec, 0x20), (.cwMbx param sec, 0x21), (.cwRddesc param sec, 0x30),
      (.cwWrdesc param sec, 0x31)] →
    let w := s.cw
    let n := fldN w.cmdHi 0 8
    let c : Fin 256 := Fin.ofNat 256 n
    let low : Carnelian := { w with hiv := false }
    let ends (r : Nat) : Host.Outcome State Fault Refusal := .next { s with cw := { low with result := r, done := true, doneWas := w.done } }
    let outside : Prop := 31 < n ∨ (if op = 0x30 ∨ op = 0x31 then 127 < param.toNat else param.toNat ≠ 0) ∨
      (op ≠ 0x10 ∧ fldN w.cmdHi 8 2 ≠ 0)
    let k : CwCmd := { op := BitVec.ofNat 8 op, param := param, ch := c, mb := Fin.ofNat 4 (fldN w.cmdHi 8 2)
                       arg := w.args.at 3 ++ w.args.at 2 ++ w.args.at 1 ++ w.args.at 0, sec := sec }
    let waits (v : Bool) : State := { s with cw := { low with pend := some k }, chans := s.chans.upd c { s.chans.at c with
      mbs := (s.chans.at c).mbs.map fun m : Mailbox => { m with q := m.q.map fun e => { e with noted := v } } } }
    (w.hiv = false → exec i s = ends 1) ∧
    (w.hiv = true → w.pend ≠ none → exec i s = ends 2) ∧
    (w.hiv = true → w.pend = none →
      (outside → exec i s = ends 3) ∧
      (∀ r, ¬ outside → s.cwClass c sec = some r → exec i s = ends r) ∧
      (¬ outside → s.cwClass c sec = none →
        ((∃ m ∈ (s.chans.at c).mbs.toList, m.q ≠ []) → exec i s = .next (waits true)) ∧
        ((∀ m ∈ (s.chans.at c).mbs.toList, m.q = []) → exec i s = .next ((waits true).cwRun k))))) ∧
  (∀ (s : State) (k : CwCmd),
    let c := k.ch
    let x := s.chans.at c
    let fin (z : State) (r : Nat) (l : List (BitVec 16)) : State :=
      { z with cw := { z.cw with result := r, done := true, doneWas := z.cw.done, pend := none, rsp := z.cw.rsp ++ l } }
    let op := k.op.toNat
    let clear : State := { s with chans := s.chans.upd c { x with cmdIgn := false } }
    let acts (z : State) (l : List (BitVec 16)) : State :=
      fin { z with chans := z.chans.upd c { z.chans.at c with cmdIgn := x.cmdIgn || (z.chans.at c).cmdIgn } }
        (if (z.chans.at c).cmdIgn then 7 else 0) l
    let words (v : W32) : List (BitVec 16) := [fld v 0 16, fld v 16 16]
    (∀ r, s.cwClass c k.sec = some r → s.cwRun k = fin s r []) ∧
    (s.cwClass c k.sec = none →
      (8 < s.cw.rsp.length + cwEntries op → s.cwRun k = fin s 8 []) ∧
      (s.cw.rsp.length + cwEntries op ≤ 8 →
        (op = 0x00 → s.cwRun k = fin s 0 []) ∧
        (op = 0x01 → s.cwRun k = acts (clear.chStart 16 c) [BitVec.ofNat 16 ((clear.chStart 16 c).chans.at c).startErr]) ∧
        (op = 0x02 → s.cwRun k = acts (clear.chStop c false) []) ∧
        (op = 0x03 → s.cwRun k = acts (if x.st = .draining then clear.chAbort c else clear.chStop c true) []) ∧
        (op = 0x04 → s.cwRun k = acts (clear.chResume 16 c) []) ∧
        (op = 0x05 → s.cwRun k = acts (clear.chDiscard c) []) ∧
        (op = 0x06 → s.cwRun k = acts (clear.chFlush c) []) ∧
        (op = 0x07 → s.cwRun k = acts (clear.chNote c) []) ∧
        (op = 0x10 → x.stmp k.mb = true → s.cwRun k = fin s 9 []) ∧
        (op = 0x10 → x.stmp k.mb = false → x.st = .off →
          s.cwRun k = fin { s with free := s.free + 1 } 0 [((Config.freeWord s.free).extractLsb' 0 2).setWidth 16]) ∧
        (op = 0x10 → x.stmp k.mb = false → x.st ≠ .off →
          s.cwRun k = fin (s.postPlain c k.mb k.arg).1 0 [BitVec.ofNat 16 (s.postPlain c k.mb k.arg).2.num]) ∧
        (op = 0x20 → s.cwRun k = fin s 0 (words x.stat)) ∧
        (op = 0x21 → s.cwRun k = fin s 0 (words x.mbx)) ∧
        (op = 0x30 → k.param.toNat < 64 → ∀ v m, s.mem.read 16 (descAddr c + 4 * k.param.toNat) 4 = (some v, m) →
          s.cwRun k = fin { s with mem := m } 0 (words (BitVec.ofNat 32 v))) ∧
        (op = 0x30 → 64 ≤ k.param.toNat → ∀ v m, s.mem.read 16 (descAddr c + 4 * k.param.toNat) 4 = (some v, m) →
          s.cwRun k = fin { s with mem := m, free := s.free + 1 } 0
            (words (if x.mbClean then 0 else Config.mailboxWord s.free))) ∧
        (op = 0x30 → ∀ m, s.mem.read 16 (descAddr c + 4 * k.param.toNat) 4 = (none, m) →
          s.cwRun k = fin { s with mem := m } 0 (words 0)) ∧
        (op = 0x31 → k.param.toNat = 0 → bit k.arg 30 = true → k.sec = false → s.cwRun k = fin s 6 []) ∧
        (op = 0x31 → k.param.toNat ≠ 0 ∨ bit k.arg 30 = false ∨ k.sec = true →
          s.cwRun k = if s.descFree c k.param.toNat then
            fin (s.memWrite 16 (descAddr c + 4 * k.param.toNat) 4 (fldN k.arg 0 32)) 0 []
          else fin s 11 []))))

/-- R116, R345, R392, R467, R515, R536, R562, R594: the interrupt sources of the domains, the control stores, the memories, the
interrupt controller, Spinel, power, security and debug are asserted exactly while the named flags and enables are 1. -/
def Obligations.SourcesFollowTheirFlags : Prop :=
  ∀ s : State,
    let m := s.mem
    (s.sourceLevel 468 = true ↔ ∃ d : Fin 8, ∃ i, 8 ≤ i ∧ i ≤ 11 ∧ bit (s.beryl.doms.at d).stat i = true ∧
      bit (s.beryl.doms.at d).ie i = true) ∧
    (s.sourceLevel 473 = true ↔ bit s.cs.cfg 16 = true ∧ s.cs.uncF ≠ 0) ∧
    (s.sourceLevel 433 = true ↔ bit m.cfg 0 = true ∧ m.uncRec.valid = true) ∧
    (s.sourceLevel 434 = true ↔ bit m.cfg 1 = true ∧ fldN m.cfg 24 8 ≠ 0 ∧
      ∃ k : Fin 4, fldN m.cfg 24 8 ≤ (m.corrCnt.at k).toNat) ∧
    (s.sourceLevel 435 = true ↔ bit m.cfg 2 = true ∧ m.collRec.valid = true) ∧
    (s.sourceLevel 436 = true ↔ bit m.cfg 3 = true ∧ m.fail = true) ∧
    (s.sourceLevel 437 = true ↔ m.agIe = true ∧ m.agDone = true) ∧
    (s.sourceLevel 474 = true ↔ s.eic.ieOrph = true ∧ ∃ n : Fin 512, (s.eic.srcs.at n).orph = true) ∧
    (s.sourceLevel 477 = true ↔ (bit s.sn.cfg 8 = true ∧ s.sn.hopDrop = true) ∨ (bit s.sn.cfg 9 = true ∧ s.sn.ovf ≠ 0) ∨
      (bit s.sn.cfg 10 = true ∧ s.sn.loopErr = true)) ∧
    (s.sourceLevel 448 = true ↔ bit s.power.supCfg 2 = true ∧ s.power.lowF = true) ∧
    (s.sourceLevel 449 = true ↔ bit s.power.leaseCfg 16 = true ∧ s.power.chg = true) ∧
    (s.sourceLevel 450 = true ↔ ∃ h : Fin 2, let x := s.power.halves.at h
      bit x.cfg 2 = true ∧ (x.done = true ∨ x.cmdErr = true ∨ x.lostF = true)) ∧
    (s.sourceLevel 451 = true ↔ bit s.power.gasp.cfg 3 = true ∧ (s.power.gasp.done = true ∨ s.power.gasp.err = true)) ∧
    (s.sourceLevel 440 = true ↔ bit s.sec.cfg 0 = true ∧ s.sec.ld.done = true) ∧
    (s.sourceLevel 441 = true ↔ bit s.sec.cfg 1 = true ∧ s.vault.tflag ≠ 0) ∧
    (s.sourceLevel 442 = true ↔ bit s.sec.cfg 2 = true ∧ s.sec.lcDone = true) ∧
    (s.sourceLevel 478 = true ↔ bit s.dbg.cfg 4 = true ∧ ∃ n : Fin 16, (s.seqs.at n).st = .halt)

/-- R49, R374: the memories hold bytes, and an access of several bytes has its first byte lowest: what is read back after a
write. The context microcode writes its words so. R381: a write of a whole word clears its error, and no write touches another
byte. R379, R380: a read that meets a double-bit error returns nothing and is counted, and the first of them recorded; a single-
bit error is corrected and counted. R377: a collision of the two ports is counted, and the first recorded. Readings and choices
behind it: log entry 23. -/
def Obligations.MemoryReadsBack : Prop :=
  (∀ (m : Mem) (req a n v b : Nat), Memory.wf m = true →
    (m.write req a n v).byte b = if a ≤ b ∧ b < a + n then BitVec.ofNat 8 (v / 256 ^ (b - a)) else m.byte b) ∧
  (∀ (m : Mem) (req a n v : Nat), Memory.wf m = true → v < 256 ^ n → (m.write req a n v).num a n = v) ∧
  (∀ (m : Mem) (req a v w : Nat),
    (w ∈ (m.write req a 8 v).unc ↔ w ∈ m.unc ∧ w ≠ a / 8) ∧ (w ∈ (m.write req a 8 v).corr ↔ w ∈ m.corr ∧ w ≠ a / 8)) ∧
  (∀ (s : State) (n : Fin 16) (a b : Nat) (l : List W32), Memory.wf s.mem = true → l.length % 2 = 0 →
    (s.ctxWrite n a l).mem.byte b = if a ≤ b ∧ b < a + 4 * l.length then
      fld (l.getD ((b - a) / 4) 0) (8 * ((b - a) % 4)) 8 else s.mem.byte b) ∧
  (∀ (m : Mem) (req a n : Nat) (k : Fin 4), memOf (a / 8 * 8) = some k → m.uncRec.count ≤ 255 →
    let u := m.uncRec
    let cnt (x : Nat) : Nat := min 255 (x + 1)
    (a / 8 ∈ m.unc → m.read req a n = (none, { m with uncRec :=
      let e : UncErr := { req := req, mem := k.val, addr := a / 8 * 8 }
      { valid := true, count := cnt u.count, first := if u.valid then u.first else e, newest := e } })) ∧
    (a / 8 ∉ m.unc → a / 8 ∈ m.corr → (m.read req a n).1 = some (m.num a n) ∧ (m.read req a n).2 = { m with
      corr := m.corr.filter (· ≠ a / 8)
      corrCnt := m.corrCnt.upd k (if m.corrCnt.at k = 255 then 255 else m.corrCnt.at k + 1) }) ∧
    (a / 8 ∉ m.unc → a / 8 ∉ m.corr → m.read req a n = (some (m.num a n), m))) ∧
  (∀ (m : Mem) (x : PortA) (ch : Fin 128) (wr : Bool), m.collRec.count ≤ 255 →
    let o := m.collRec
    m.collide x ch wr = { m with collRec :=
      let e : CollErr := { awr := x.write, bwr := wr, areq := x.areq.val, sfch := ch.val, addr := 0x1000000 + x.off.toNat / 8 * 8 }
      { valid := true, count := min 255 (o.count + 1), first := if o.valid then o.first else e, newest := e } })

/-- R341, R342, R344, R377, R380, R382, R384, R386, R387: a control-store word and a patch map entry are written in the cluster
that CS_SEL names or in every running one; the background test steps on once PERIOD has passed; the error records are armed
again; Agate is wiped, its segments are locked, and the end of a wipe unlocks them. The instants of commands follow log entry 1.
A command that does not apply changes nothing: log entry 2. Readings and choices behind it: log entries 23 and 7. -/
def Obligations.MemoryCommands : Prop :=
  (∀ (s : State) (r : Req) (w : Fin 16384) (v : W32), s.refusal r true (0x1A0000 + 4 * w.val) 4 v.toNat = none →
    ∃ z, exec (.csWordWrite r w v) s = .next z ∧ z = { s with cs := z.cs, sec := z.sec } ∧
      (∀ k, (sparseWf 0 (s.cs.copies.at k).words = true → ∀ j, (z.cs.copies.at k).word j =
          if j = 0x4000 + w.val ∧ k ∈ s.csTargets then v else (s.cs.copies.at k).word j) ∧
        (z.cs.copies.at k).pm = (s.cs.copies.at k).pm ∧
        (z.sec.patchValid.getLsbD k.val = (s.sec.patchValid.getLsbD k.val && !decide (k ∈ s.csTargets))))) ∧
  (∀ (s : State) (r : Req) (p : Fin 64) (v : W32), s.refusal r true (0x1B0100 + 4 * p.val) 4 v.toNat = none →
    ∃ z, exec (.csPmWrite r p v) s = .next z ∧ z = { s with cs := z.cs, sec := z.sec } ∧
      (∀ k, (z.cs.copies.at k).words = (s.cs.copies.at k).words ∧
        (∀ j, (z.cs.copies.at k).pm.at j =
          if j = p ∧ k ∈ s.csTargets then v &&& 0xBFFF1FFF else (s.cs.copies.at k).pm.at j) ∧
        (z.sec.patchValid.getLsbD k.val = (s.sec.patchValid.getLsbD k.val && !decide (k ∈ s.csTargets))))) ∧
  (∀ s : State, s.csTargets = if s.cs.bcast then [0, 1, 2, 3].filter fun k : Fin 4 => s.halfUp (clusterHalf k)
    else [s.cs.cluster]) ∧
  (∀ (s : State) (t : Instant) (f : Bool) (k : Fin 4) (p : Nat),
    let a := s.advance t
    let m := a.mem
    a.up = true → a.ticking = true → bit m.bistCfg 0 = true → m.selected = [k] → m.bistAddr = p → (memSpan k).1 ≤ p →
    p + 8 ≤ (memSpan k).2 → p / 8 ∉ m.unc → p / 8 ∉ m.corr →
    let due : Prop := ∀ b, m.bistLast = some b → max 256 (fldN m.bistCfg 16 16) ≤ (a.now - b).toNat
    (¬ due → exec (.bistWord t f) s = .next a) ∧
    (due → exec (.bistWord t f) s = .next { a with mem := { m with
      bistLast := some a.now, bistAddr := if p + 8 = (memSpan k).2 then (memSpan k).1 else p + 8, fail := m.fail || f
      bistFaddr := if f = true ∧ m.fail = false then p else m.bistFaddr
      passes := if p + 8 = (memSpan k).2 then m.passes + 1 else m.passes } })) ∧
  (∀ s : State, s.up = true →
    let u := s.mem.uncRec.newest
    let c := s.mem.collRec.newest
    exec (.uncRearm false) s = .next { s with mem := { s.mem with uncRec := .reset } } ∧
    exec (.uncRearm true) s = .next { s with mem := { s.mem with
      uncRec := { valid := true, count := 1, first := u, newest := u } } } ∧
    exec (.collRearm false) s = .next { s with mem := { s.mem with collRec := .reset } } ∧
    exec (.collRearm true) s = .next { s with mem := { s.mem with
      collRec := { valid := true, count := 1, first := c, newest := c } } }) ∧
  (∀ (s : State) (r : Req), s.refusal r true 0x60104 4 1 = none →
    ∃ m q, exec (.agateWipe r) s = .next { s with mem := m, seqs := q } ∧
      m = { s.mem with cells := m.cells, corr := m.corr, unc := m.unc, wiping := true, agLast := 0 } ∧
      (∀ n, (q.at n) = { s.seqs.at n with resv := (q.at n).resv }) ∧
      (Memory.wf s.mem = true → ∀ b, m.byte b = if 0x1200000 ≤ b ∧ b < 0x1210000 then 0 else s.mem.byte b)) ∧
  (∀ s : State,
    (s.mem.wiping = true → exec .agateWipeDone s = .next { s with mem := { s.mem with
      wiping := false, wlock := 0, wipes := s.mem.wipes + 1, agDone := true } }) ∧
    (s.mem.wiping = false → exec .agateWipeDone s = .next s)) ∧
  (∀ (s : State) (r : Req) (v : W32), s.refusal r true 0x6010C 4 v.toNat = none →
    exec (.agWlockSet r v) s = .next { s with mem := { s.mem with wlock := s.mem.wlock ||| fld (hwWins 0x6010C v r.hw) 0 16 } }) ∧
  (∀ (s : State) (r : Req) (wr : Bool) (a v : Nat), memOf a = some 1 → a % 4 = 0 → s.up = true →
    (r.sec = false → s.refusal r wr a 4 v = some .secure) ∧
    (r.sec = true → s.vault.state ≠ 0xF → s.mem.wiping = true → s.refusal r wr a 4 v = some .disabled) ∧
    (r.sec = true → s.vault.state ≠ 0xF → s.mem.wiping = false → s.mem.wlock.getLsbD ((a - 0x1200000) / 0x1000) = true →
      s.refusal r true a 4 v = some .disabled))

/-- R252, R345 to R361: START checks the descriptor, the claims and the pool in this order, and makes the channel READY with a
LOWER node that holds its first context; STOP, ABORT, RESUME, DISCARD, FLUSH and NOTE act or are ignored as the state of the
channel says, and a STOP of a channel that a halted sequencer holds is recorded; a BLOCKED channel wakes. What the interrupt
controller makes of a channel that has become READY is the statement on its targets. The instants of commands follow log entry
1. A command that does not apply changes nothing: log entry 2. Readings and choices behind it: log entry 16. -/
def Obligations.ChannelCommands : Prop :=
  (∀ (s : State) (r : Req) (c : Fin 256), s.refusal r true (0x1C0000 + 0x40 * c.val) 4 1 = none →
    let x := s.chans.at c
    let to_ (y : Channel) : Host.Outcome State Fault Refusal := .next { s with chans := s.chans.upd c y }
    let num (w k : Nat) : Nat := s.mem.num (0x1400000 + 0x200 * c.val + 4 * w) (4 * k)
    let w0 : W32 := BitVec.ofNat 32 (num 0 1)
    let pc : W32 := BitVec.ofNat 32 (num 1 1)
    let tvec : W32 := BitVec.ofNat 32 (num 2 1)
    let valid := fldN w0 28 2 < 2 ∧ pc.toNat % 4 = 0 ∧ pc.toNat < 0x80000 ∧ tvec.toNat % 4 = 0
    let l := BitVec.ofNat 256 (num 16 8)
    let e := BitVec.ofNat 64 (num 24 2)
    let f := BitVec.ofNat 128 (num 26 4)
    let a := BitVec.ofNat 16 (num 30 1)
    let taken := ∃ d, d ≠ c ∧ (s.chans.at d).st ≠ .off ∧ ((s.chans.at d).lanes &&& l ≠ 0 ∨ (s.chans.at d).engines &&& e ≠ 0 ∨
      (s.chans.at d).streams &&& f ≠ 0 ∨ (s.chans.at d).cells &&& a ≠ 0)
    (x.st ≠ .off → exec (.chStart r c) s = to_ { x with cmdIgn := true }) ∧
    (x.st = .off → (∀ k, k < 16 → (0x1400000 + 0x200 * c.val) / 8 + k ∉ s.mem.unc ∧
        (0x1400000 + 0x200 * c.val) / 8 + k ∉ s.mem.corr) →
      (¬ valid → exec (.chStart r c) s = to_ { x with startErr := 3 }) ∧
      (valid → taken → exec (.chStart r c) s = to_ { x with startErr := 2 }) ∧
      (valid → ¬ taken → s.pool.head = none → exec (.chStart r c) s = to_ { x with startErr := 1 }) ∧
      (∀ i, valid → ¬ taken → s.pool.head = some i → ∃ z : State, exec (.chStart r c) s = .next z.eicSettle ∧
        z = { s with chans := z.chans, pool := z.pool, mem := z.mem, seqs := z.seqs, sn := z.sn } ∧
        z.chans = s.chans.upd c { x with
          st := .ready, since := s.now, config := w0, lanes := l, engines := e, streams := f, cells := a, startErr := 0, breach := none, breachAt := 0
          fcause := .none, resumeRec := false, stopRec := none, abort := false, faultRec := none, firstFetch := false
          mbs := x.mbs.map fun m : Mailbox => { m with q := [] } } ∧
        z.pool.head = (s.pool.nodes.at i).next ∧
        z.pool.nodes = s.pool.nodes.upd i { kind := .lower, owner := c, count := 0, next := none } ∧
        (sparseWf [] s.sn.counts = true → ∀ j, z.sn.pending j = if j / 4 = c.val then [] else s.sn.pending j) ∧
        (Memory.wf s.mem = true →
          (∀ j, j < 8 → z.mem.num (0x1420000 + 0x100 * i.val + 4 * j) 4 = num (4 + j) 1) ∧
          z.mem.num (0x1420000 + 0x100 * i.val + 4 * 32) 4 = pc.toNat ∧
          z.mem.num (0x1420000 + 0x100 * i.val + 4 * 38) 4 = tvec.toNat ∧
          (∀ b, ¬ (0x1420000 + 0x100 * i.val ≤ b ∧ b < 0x1420000 + 0x100 * i.val + 160) →
            ¬ (0x1400000 + 0x200 * c.val + 48 ≤ b ∧ b < 0x1400000 + 0x200 * c.val + 56) → z.mem.byte b = s.mem.byte b))))) ∧
  (∀ (s : State) (r : Req) (c : Fin 256),
    let x := s.chans.at c
    let ok (v : Nat) : Prop := s.refusal r true (0x1C0000 + 0x40 * c.val) 4 v = none
    let to_ (y : Channel) : Host.Outcome State Fault Refusal := .next { s with chans := s.chans.upd c y }
    let both (y : Channel) : Host.Outcome State Fault Refusal := .next { s with
      chans := s.chans.upd c y, seqs := s.seqs.upd x.sq { s.seqs.at x.sq with swReq := true } }
    let ignored := to_ { x with cmdIgn := true }
    let w0 : W32 := s.descWord c 0
    (ok 2 →
      (s.frozen c = true → x.st = .run ∨ x.st = .blocked →
        exec (.chStop r c) s = to_ { x with stopRec := some (x.stopRec.getD false) }) ∧
      (s.frozen c = false → x.st = .run →
        exec (.chStop r c) s = to_ { x with st := .draining, abort := false, resumeRec := false }) ∧
      (x.st = .waitPool → exec (.chStop r c) s = to_ { x with stopRec := some (x.stopRec.getD false) }) ∧
      (x.st = .ready ∨ (x.st = .blocked ∧ s.frozen c = false) → x.resumeRec = false →
        exec (.chStop r c) s = (if x.res then both else to_) { x with st := .stopped, stopF := true, abort := false }) ∧
      (x.st = .draining ∨ x.st = .off ∨ x.st = .stopped ∨ x.st = .fault → exec (.chStop r c) s = ignored)) ∧
    (ok 6 →
      (s.frozen c = true → x.st = .run ∨ x.st = .blocked → exec (.chAbort r c true) s = to_ { x with stopRec := some true }) ∧
      (s.frozen c = false → x.st = .run →
        exec (.chAbort r c true) s = both { x with st := .draining, abort := true, resumeRec := false }) ∧
      (x.st = .waitPool → exec (.chAbort r c true) s = to_ { x with stopRec := some true }) ∧
      (x.st = .draining → exec (.chAbort r c true) s = both { x with cmdIgn := true, abort := true }) ∧
      (x.st = .off ∨ x.st = .stopped ∨ x.st = .fault → exec (.chAbort r c true) s = ignored)) ∧
    (ok 4 →
      (x.st = .draining → exec (.chAbort r c false) s = both { x with abort := true }) ∧
      (x.st ≠ .draining → exec (.chAbort r c false) s = ignored)) ∧
    (ok 8 →
      (x.st = .stopped → (0x1400000 + 0x200 * c.val) / 8 ∉ s.mem.unc → (0x1400000 + 0x200 * c.val) / 8 ∉ s.mem.corr →
        bit w0 29 = false → fldN w0 24 6 = fldN x.config 24 6 →
        exec (.chResume r c) s = .next (State.eicSettle { s with chans := s.chans.upd c { x with
          st := .ready, since := s.now, config := (x.config &&& ~~~0x3FF00000) ||| (w0 &&& 0x3FF00000) } })) ∧
      (x.st = .stopped → (0x1400000 + 0x200 * c.val) / 8 ∉ s.mem.unc → (0x1400000 + 0x200 * c.val) / 8 ∉ s.mem.corr →
        bit w0 29 = true → exec (.chResume r c) s = ignored) ∧
      (x.st = .draining → exec (.chResume r c) s = to_ { x with resumeRec := true }) ∧
      (x.st ≠ .stopped → x.st ≠ .draining → exec (.chResume r c) s = ignored)) ∧
    (ok 0x10 →
      (x.st = .stopped ∨ x.st = .fault → ∃ z, exec (.chDiscard r c) s = .next z ∧
        z = { s with power := z.power, chans := z.chans, pool := z.pool, mem := z.mem, seqs := z.seqs, eic := z.eic, dbg := z.dbg } ∧
        (∀ d, d ≠ c → z.chans.at d = s.chans.at d) ∧
        (let y := z.chans.at c
         y.st = .off ∧ y.config = 0 ∧ y.lanes = 0 ∧ y.engines = 0 ∧ y.streams = 0 ∧ y.cells = 0 ∧ y.res = false ∧
         ∀ m, (y.mbs.at m).q = []) ∧
        (∀ i, ((s.pool.nodes.at i).owner = c ∧ (s.pool.nodes.at i).kind ≠ .unowned → (z.pool.nodes.at i).kind = .free) ∧
          ((s.pool.nodes.at i).owner ≠ c → z.pool.nodes.at i = s.pool.nodes.at i)) ∧
        (∀ n, (z.seqs.at n).fownCh = c → (z.seqs.at n).fownV = false) ∧
        (Memory.wf s.mem = true → ∀ b, z.mem.byte b =
          if 0x1400000 + 0x200 * c.val + 48 ≤ b ∧ b < 0x1400000 + 0x200 * c.val + 56 then 0 else s.mem.byte b)) ∧
      (x.st ≠ .stopped → x.st ≠ .fault → exec (.chDiscard r c) s = ignored)) ∧
    (ok 0x20 →
      (x.st = .stopped ∨ x.st = .fault → ∃ m, exec (.chFlush r c) s = to_ { x with mbs := m } ∧
        ∀ j, m.at j = { x.mbs.at j with q := [] }) ∧
      (x.st ≠ .stopped → x.st ≠ .fault → exec (.chFlush r c) s = ignored)) ∧
    (ok 0x40 → exec (.chNote r c) s = to_ { x with note := true })) ∧
  (∀ (s : State) (t : Instant) (c : Fin 256),
    let a := s.advance t
    let x := a.chans.at c
    let y : Channel := if x.res then { x with st := .run } else { x with st := .ready, since := a.now }
    (x.st = .blocked → a.frozen c = false → exec (.channelWake t c) s = .next { a with chans := a.chans.upd c y }) ∧
    (x.st ≠ .blocked ∨ a.frozen c = true → exec (.channelWake t c) s = .next a))

/-- R130, R346 to R348, R362 to R365: a descriptor word is written where its class and the state of the channel allow it, and
refused with DISABLED elsewhere; a post enters its mailbox or is refused as FULL, LATE or for its horizon, in this order of
tests, and the result is recorded; a stamped entry is in its path from its instant on. The instants of commands follow log entry
1. A command that does not apply changes nothing: log entry 2. Readings and choices behind it: log entry 16. -/
def Obligations.Mailboxes : Prop :=
  (∀ (s : State) (r : Req) (c : Fin 256) (w : Fin 128) (v : W32),
    let a := 0x1400000 + 0x200 * c.val + 4 * w.val
    let x := s.chans.at c
    (s.refusal r true a 4 v.toNat = none →
      exec (.descriptorWrite r c w v) s = .next (s.memWrite r.who.memReq a 4 v.toNat)) ∧
    (∀ k, s.refusal r true a 4 v.toNat = some k → k ≠ .guard → exec (.descriptorWrite r c w v) s = .next s) ∧
    (s.up = true → r.sec = true → s.vault.state ≠ 0xF →
      (s.refusal r true a 4 v.toNat = some .disabled ↔
        w.val = 12 ∨ w.val = 13 ∨ 64 ≤ w.val ∨ (w.val < 32 ∧ x.st ≠ .off ∧ x.st ≠ .stopped ∧ x.st ≠ .fault)))) ∧
  (∀ (s : State) (r : Req) (c : Fin 256) (m : Fin 4), s.refusal r true 0x1C4010 4 (0x100 * c.val + m.val) = none →
    let x := s.chans.at c
    let b := x.mbs.at m
    let p := s.posts.at r.who.slot
    let d := s.beryl.doms.at (x.mdom m)
    let put (y : Mailbox) (k : PostRes) (br : Bool) : State → Prop := fun z =>
      ∃ ch, z = { s with chans := ch, seqs := z.seqs
                         posts := s.posts.upd r.who.slot { p with v := true, ch := c, mb := m, res := k } } ∧
        (ch.at c).mbs = x.mbs.upd m y ∧ (∀ e, e ≠ c → ch.at e = s.chans.at e) ∧
        (br = false → ch.at c = { x with mbs := x.mbs.upd m y, mbClean := x.mbClean && decide (k ≠ .accepted) } ∧ z.seqs = s.seqs) ∧
        (br = true → (ch.at c).breach = match x.breach with
          | none => some .overflow
          | some b => if x.breachAt = s.now ∧ 2 < b.num then some .overflow else some b)
    let entry (tm : W64) (vis : Bool) : MbEntry := { data := p.data, time := tm, vis := vis, noted := false }
    (x.stmp m = false → b.q.length < 4 → ∃ z, exec (.plainPost r c m) s = .next z ∧
      put { b with q := b.q ++ [entry 0 true], res := .accepted } .accepted false z) ∧
    (x.stmp m = false → 4 ≤ b.q.length → ∃ z, exec (.plainPost r c m) s = .next z ∧
      put { b with res := .full, refused := true } .full false z) ∧
    (x.stmp m = true → d.inHorizon p.time s.beryl.g = false → ∃ z, exec (.stampedPost r c m) s = .next z ∧
      put { b with res := .horizon, refused := true } .horizon false z) ∧
    (x.stmp m = true → d.inHorizon p.time s.beryl.g = true → d.dueAt (p.time.setWidth 40) s.beryl.g = true →
      ∃ z, exec (.stampedPost r c m) s = .next z ∧ put { b with res := .late, refused := true } .late false z) ∧
    (x.stmp m = true → d.inHorizon p.time s.beryl.g = true → d.dueAt (p.time.setWidth 40) s.beryl.g = false →
      (b.q.length < 4 → ∃ z, exec (.stampedPost r c m) s = .next z ∧
        put { b with q := b.q ++ [entry p.time false], res := .accepted } .accepted false z) ∧
      (4 ≤ b.q.length → ∃ z, exec (.stampedPost r c m) s = .next z ∧
        put { b with res := .full, refused := true } .full (x.det && decide (x.st ≠ .off)) z))) ∧
  (∀ (s : State) (t : Instant) (c : Fin 256) (m : Fin 4),
    let a := s.advance t
    let x := a.chans.at c
    let b := x.mbs.at m
    ∃ q, exec (.stampedEntryDue t c m) s = .next { a with chans := a.chans.upd c { x with mbs := x.mbs.upd m { b with q := q } } } ∧
      q = b.q.map fun e => { e with vis := e.vis || (a.beryl.doms.at (x.mdom m)).dueAt (e.time.setWidth 40) a.beryl.g })

/-- R237, R246, R247, R250, R262, R459: an instruction buffer is emptied; a sequencer is enabled into IDLE, and disabled at once
or by draining; it naps after its delay; nodes of the pool are pushed and popped. Once a node is free, a sequencer in POOL takes
up the work that waited, before a disable, a STOP or a fault that was recorded meanwhile has its effect (R350, R351, R354). The
instants of commands follow log entry 1. A command that does not apply changes nothing: log entry 2. Readings and choices behind
it: log entries 8 and 16. -/
def Obligations.SequencersAndPool : Prop :=
  (∀ (s : State) (k : Fin 4), s.halfUp (clusterHalf k) = true →
    ∃ b, exec (.ibInvalidate k) s = .next { s with ibufs := s.ibufs.upd k b } ∧ b.misses = (s.ibufs.at k).misses ∧
      ∀ j, b.sets.at j = []) ∧
  (∀ (s : State) (n : Fin 16) (v : W32), s.seqUp n = true →
    let q := s.seqs.at n
    let c := v &&& 0x00FF0003
    let to_ (x : Seq) : Host.Outcome State Fault Refusal := .next { s with seqs := s.seqs.upd n x }
    let settled (x : Seq) : Host.Outcome State Fault Refusal := .next (State.eicSettle { s with seqs := s.seqs.upd n x })
    let blocked : Bool := decide ((s.chans.at q.cx).st = .blocked)
    (∀ r, s.refusal r true (0x180000 + 0x1000 * n.val) 4 v.toNat = none → q.en = false → bit v 0 = true → q.st = .off →
      ∃ d, exec (.sqEnable r n v) s = .next { s with
          seqs := s.seqs.upd n { q with cfg := c, st := .idle, idleSince := s.now, swReq := false }, dbg := d } ∧
        (bit s.dbg.cfg 0 = false → d = s.dbg) ∧ (bit s.dbg.cfg 0 = true → (d.sqs.at n).enCatch = true)) ∧
    (∀ r, s.refusal r true (0x180000 + 0x1000 * n.val) 4 v.toNat = none → q.en = false → bit v 0 = true →
      (q.st = .draining → exec (.sqEnable r n v) s = to_ { q with cfg := c, swReq := q.swReq || bit v 1 }) ∧
      (q.st = .pool → exec (.sqEnable r n v) s = to_ { q with cfg := c, swReq := q.swReq || (q.drainRec && bit v 1) }) ∧
      (q.st = .halt → q.before = .off →
        exec (.sqEnable r n v) s = to_ { q with cfg := c, before := .idle, idleSince := s.now, swReq := false }) ∧
      (q.st = .halt → q.before = .draining → exec (.sqEnable r n v) s = to_ { q with cfg := c, swReq := q.swReq || bit v 1 }) ∧
      (q.st = .halt → q.before = .pool →
        exec (.sqEnable r n v) s = to_ { q with cfg := c, swReq := q.swReq || (q.drainRec && bit v 1) }) ∧
      (q.st = .nap → exec (.sqEnable r n v) s = settled { q with cfg := c }) ∧
      (q.st = .idle ∨ q.st = .run ∨ q.st = .switch ∨ q.st = .halt ∧ q.before ≠ .off ∧ q.before ≠ .draining ∧ q.before ≠ .pool →
        exec (.sqEnable r n v) s = to_ { q with cfg := c })) ∧
    (q.en = true → bit v 0 = false →
      (q.st = .idle ∨ q.st = .nap ∨ q.st = .switch →
        exec (.sqDisable n v) s = settled { q with cfg := c, st := .off, cxv := false, swReq := false }) ∧
      (q.st = .run → exec (.sqDisable n v) s = to_ { q with cfg := c, st := .draining, swReq := q.swReq || (bit v 1 || blocked) }) ∧
      (q.st = .off → exec (.sqDisable n v) s = settled { q with cfg := c }) ∧
      (q.st = .pool ∨ q.st = .halt ∧ q.before = .pool →
        exec (.sqDisable n v) s = to_ { q with cfg := c, drainRec := true, swReq := q.swReq || bit v 1 }) ∧
      (q.st = .halt → q.before = .off ∨ q.before = .halt → exec (.sqDisable n v) s = to_ { q with cfg := c }) ∧
      (q.st = .draining ∨ q.st = .halt ∧ q.before = .draining →
        exec (.sqDisable n v) s = to_ { q with cfg := c, swReq := q.swReq || bit v 1 }) ∧
      (q.st = .halt → q.before = .run →
        exec (.sqDisable n v) s = to_ { q with cfg := c, before := .draining, swReq := q.swReq || (bit v 1 || blocked) }) ∧
      (q.st = .halt → q.before = .idle ∨ q.before = .nap ∨ q.before = .switch →
        exec (.sqDisable n v) s = to_ { q with cfg := c, before := .off, cxv := false }))) ∧
  (∀ (s : State) (t : Instant) (n : Fin 16),
    let a := s.advance t
    let q := a.seqs.at n
    let d := fldN q.cfg 16 8
    let due : Prop := q.st = .idle ∧ d ≠ 0 ∧ a.ticking = true ∧ notBefore a.now (q.idleSince + BitVec.ofNat 64 (1000 * d)) = true
    (due → exec (.sqNap t n) s = .next (State.eicSettle { a with
      seqs := a.seqs.upd n { q with st := .nap }
      eic := { a.eic with targets := a.eic.targets.mod (Fin.ofNat 18 n.val) fun x => { x with woken := false } } })) ∧
    (¬ due → exec (.sqNap t n) s = .next a)) ∧
  (∀ (s : State) (i : Fin 512), s.up = true →
    let p := s.pool
    let to_ (x : Pool) : Host.Outcome State Fault Refusal := .next { s with pool := x }
    ((p.nodes.at i).kind = .unowned → exec (.poolPush i) s = to_ { p with
      nodes := p.nodes.upd i { kind := .free, owner := 0, count := 0, next := p.head }, head := some i }) ∧
    ((p.nodes.at i).kind ≠ .unowned → exec (.poolPush i) s = to_ { p with pushErr := true }) ∧
    (p.head = some i → ∃ low, exec .poolPop s = to_ { p with
        head := (p.nodes.at i).next, low := low
        nodes := p.nodes.upd i { kind := .unowned, owner := 0, count := 0, next := none } } ∧
      p.pop.1 = BitVec.ofNat 32 (2 ^ 31 + i.val) ∧
      (low = true ↔ p.low = true ∨
        (p.nodes.upd i { kind := .unowned, owner := 0, count := 0, next := none }).toList.countP
          (fun x => decide (x.kind = .free)) < fldN p.cfg 0 10)) ∧
    (p.head = none → exec .poolPop s = to_ { p with fifoErr := true } ∧ p.pop.1 = 0)) ∧
  (∀ (s : State) (n : Fin 16),
    let q := s.seqs.at n
    let x := s.chans.at q.cx
    let q0 : Seq := { q with st := if q.drainRec then .draining else .run, poolWork := none, drainRec := false }
    let rec_ : Bool := x.st = .waitPool && x.faultRec.isSome
    let stop : Option Bool := if x.st = .waitPool then x.stopRec else none
    let left : State :=
      if rec_ then { s with
        seqs := s.seqs.upd n { q0 with stopI := false }, chans := s.chans.upd q.cx { x with st := .run, stopRec := none } }
      else match stop with
        | some ab => { s with
          seqs := s.seqs.upd n { q0 with swReq := q.swReq || ab }
          chans := s.chans.upd q.cx { x with st := .draining, abort := ab, stopRec := none } }
        | none => { s with
          seqs := s.seqs.upd n q0
          chans := if x.st = .waitPool then s.chans.upd q.cx { x with st := x.back } else s.chans }
    let work (y : State) : Prop :=
      let faulted : State := ({ y with
        chans := y.chans.upd q.cx { y.chans.at q.cx with faultRec := none } } : State).faultChan q.cx
          (((y.chans.at q.cx).faultRec).getD .breach)
      let z := if (y.chans.at q.cx).faultRec.isSome = true ∧ (y.seqs.at n).st ≠ .pool then faulted else y
      (x.res = false ∨ (y.chans.at q.cx).res = true → exec (.poolRetry n) s = .next z) ∧
      ∃ d, exec (.poolRetry n) s = .next { z with dbg := d }
    (q.st ≠ .pool ∨ s.pool.head = none → exec (.poolRetry n) s = .next s) ∧
    (q.st = .pool → s.pool.head.isSome = true →
      (q.poolWork = none → work left) ∧
      (∀ w, q.poolWork = some (.instr w) → work (left.runWord n w)) ∧
      (∀ t, q.poolWork = some (.trapEntry t) → work (left.trapWindow n t)) ∧
      (∀ k, q.poolWork = some (.switchOut k) → work ((left.saveFrom n k).settle n)))) ∧
  (∀ (s z : State) (n : Fin 16) (i : Instr) (m : Mn) (w : W32),
    (i, m) ∈ [(Instr.wopen n, Mn.wopen), (.wclose n, .wclose), (.call n, .call), (.callr n, .callr), (.ret n, .ret), (.wspill n, .wspill), (.frel n, .frel), (.fadd n, .fadd), (.fld n, .fld), (.fst n, .fst),
      (.fmvgq n, .fmvgq), (.rdfc n, .rdfc), (.wrfc n, .wrfc)] →
    s.At n m w z → exec i s = .next (z.runWord n w)) ∧
  (∀ (z y : State) (n : Fin 16) (t : Trap) (a : Anchor) (z1 : State),
    let q := z.seqs.at n
    let x := (z.trapWindow n t).seqs.at n
    wvCount q.wv = 7 → z.anchor n q.cx = (some a, z1) → a.spcnt < 255 → z1.spillWin n (winUp q.cw 2) = .done y →
      x.pc = q.tvec ∧ x.reg 16 = q.pc ∧ x.reg 17 = q.tcause ∧ x.reg 18 = q.tval ∧ x.cw = winUp q.cw 1 ∧
      x.uwcnt = (y.seqs.at n).uwcnt + 18 ∧ (z.trapWindow n t).mem = y.mem ∧ (z.trapWindow n t).pool = y.pool ∧
      (z.trapWindow n t).chans = y.chans.upd q.cx { y.chans.at q.cx with firstFetch := true })

/-- R264, R356 to R359, R578: the scheduler asks, for a channel that has become READY and that wakes its half where it sleeps
with AUTOWAKE at 1 (R519, R586), an eligible sequencer in IDLE before one in NAP before one whose channel is BLOCKED before one
that runs a channel of lower priority; the choice has the highest priority; the context of the chosen channel is restored, and
the sequencer runs it. A halt request or a caught enable that waits in IDLE goes before any dispatch. R248, R252 to R255, R257,
R350, R361: a switch-out writes the 40 words of the lower half to the channel's LOWER node, and the channel becomes READY, or
STOPPED after STOP or DRAINING, where a recorded RESUME is then judged; a halt that is due goes first (R264), and after YIELD
nothing is switched where the same channel is the choice (R357). A save that finds no node waits in POOL at the step it has
reached (R255), and one that meets an uncorrectable error or a double-bit error of the vendor microcode stops the channel (R261,
R323). The restore reads them back: registers, pc, status, window pointer and trap registers. A command that does not apply
changes nothing: log entry 2. Readings and choices behind it: log entries 7 and 8 and 16. -/
def Obligations.Scheduling : Prop :=
  ((∀ (o : State) (c : Fin 256),
    let h := seqHalf (o.chans.at c).seqNo
    let y := o.power.halves.at h
    let woken : Half := if o.waiting c = true ∧ bit y.cfg 1 = true then
      (if y.st = .sleep then { y with st := .wake } else if y.st = .enter then { y with wakeRec := true } else y) else y
    let wakes : Bool := o.waiting c && bit y.cfg 1 && decide (y.st = .sleep)
    let s : State := { o with
      power := { o.power with halves := o.power.halves.upd h woken }
      dbg := { o.dbg with emu := o.dbg.emu.upd h (o.dbg.emu.at h && !wakes) } }
    let x := s.chans.at c
    let el (n : Fin 16) : Prop := s.eligible n x = true
    let asks (n : Fin 16) : Prop := exec (.schedulerRequest c) o = .next { s with
      seqs := s.seqs.upd n { s.seqs.at n with swReq := true } }
    let st (k : SeqSt) (n : Fin 16) : Prop := (s.seqs.at n).st = k
    let stuck (n : Fin 16) : Prop := st .run n ∧ (s.seqs.at n).cxv = true ∧
      (s.chans.at (s.seqs.at n).cx).st = .blocked ∧ (s.chans.at (s.seqs.at n).cx).res = true
    let runs (n : Fin 16) : Prop := st .run n ∧ (s.seqs.at n).cxv = true ∧ ((s.chans.at (s.seqs.at n).cx).st = .run ∨ (s.chans.at (s.seqs.at n).cx).st = .draining) ∧
      (s.chans.at (s.seqs.at n).cx).pri < x.pri
    let first (p : Fin 16 → Prop) (n : Fin 16) : Prop := el n ∧ p n ∧ ∀ m, m < n → el m → ¬ p m
    let no (p : Fin 16 → Prop) : Prop := ∀ m, el m → ¬ p m
    (s.waiting c = false → exec (.schedulerRequest c) o = .next s) ∧
    (s.waiting c = true →
      (∀ n, first (st .idle) n → asks n) ∧ (∀ n, no (st .idle) → first (st .nap) n → asks n) ∧
      (∀ n, no (st .idle) → no (st .nap) → first stuck n → asks n) ∧
      (∀ n, no (st .idle) → no (st .nap) → no stuck → el n → runs n →
        (∀ m, el m → runs m → (s.chans.at (s.seqs.at n).cx).pri ≤ (s.chans.at (s.seqs.at m).cx).pri) →
        (∀ m, m < n → el m → runs m → (s.chans.at (s.seqs.at n).cx).pri ≠ (s.chans.at (s.seqs.at m).cx).pri) → asks n) ∧
      (no (st .idle) → no (st .nap) → no stuck → no runs → exec (.schedulerRequest c) o = .next s)) ∧
    (∀ n, el n ↔ (s.seqs.at n).en = true ∧ (s.seqs.at n).st ≠ .draining ∧ s.seqUp n = true ∧
      (if x.aff = 0 then x.seqNo = n else seqHalf x.seqNo = seqHalf n))) ∧
  (∀ (s : State) (n : Fin 16) (p : Fin 256 → Bool) (c : Fin 256), s.choose n p = some c →
    p c = true ∧ s.eligible n (s.chans.at c) = true ∧
      ∀ d, p d = true → s.eligible n (s.chans.at d) = true → (s.chans.at d).pri ≤ (s.chans.at c).pri) ∧
  (∀ (s : State) (n : Fin 16) (p : Fin 256 → Bool), s.choose n p = none →
    ∀ d, p d = true → s.eligible n (s.chans.at d) = false) ∧
  (∀ (s : State) (n : Fin 16),
    let q := s.seqs.at n
    let halts : Prop := q.st = .idle ∧ (s.dbg.haltReq.getLsbD n.val = true ∨ (s.dbg.sqs.at n).enCatch = true)
    let due : Prop := ¬ halts ∧
      s.seqUp n = true ∧ q.en = true ∧ (q.st = .switch ∨ ((q.st = .idle ∨ q.st = .nap) ∧ q.swReq = true))
    (halts → exec (.channelDispatch n) s = .next s) ∧
    (¬ due → ∃ d, exec (.channelDispatch n) s = .next { s with dbg := d }) ∧
    (due → s.choose n s.waiting = none → ∃ d, exec (.channelDispatch n) s = .next { s with
      dbg := d, seqs := s.seqs.upd n { q with
        st := if q.st = .switch then .idle else q.st, cxv := false, swReq := false
        idleSince := if q.st = .switch then s.now else q.idleSince } }) ∧
    (∀ c, due → s.choose n s.waiting = some c →
      let s1 := if q.st = .switch then s else s.modDsq n fun x => { x with swOut := none }
      let lost (z : State) (f : FCause) (cs : ControlStore) : Prop :=
        let ch := z.chans.at c
        let ch1 := if ch.det = true then ch.breached .ecc s.now else ch
        ∃ d, exec (.channelDispatch n) s = .next { z with
          dbg := d, cs := cs, seqs := z.seqs.upd n { z.seqs.at n with cx := c, st := .switch, swReq := false }
          chans := z.chans.upd c { ch1 with st := .fault, faultF := true, fcause := f, res := false } }
      (∀ u z, s1.vendorFetch n .switchIn = (some u, z) → lost z .csEcc { z.cs with
        fault := put 24 c.val ||| put 20 4 ||| put 15 (seqCluster n).val ||| put 0 u
        uncF := z.cs.uncF ||| BitVec.ofNat 4 (2 ^ (seqCluster n).val) }) ∧
      (∀ s0 z, s1.vendorFetch n .switchIn = (none, s0) → s0.loadContext n c = .ecc z → lost z .ctxEcc z.cs) ∧
      (∀ s0 y, s1.vendorFetch n .switchIn = (none, s0) → s0.loadContext n c = .done y →
        ∃ d, exec (.channelDispatch n) s = .next { y with
          dbg := d, seqs := y.seqs.upd n { y.seqs.at n with
            st := .run, cx := c, cxv := true, swReq := false, yielded := false, swcnt := (y.seqs.at n).swcnt + 1 }
          chans := y.chans.upd c { y.chans.at c with st := .run, res := true, sq := n } })))) ∧
  ((∀ (s y : State) (n : Fin 16),
    let q := s.seqs.at n
    let x := s.chans.at q.cx
    let due : Prop := s.seqUp n = true ∧ (q.st = .run ∨ q.st = .draining) ∧ q.cxv = true ∧ q.swReq = true ∧ x.res = true ∧
      q.held = none ∧ s.haltNow n = none
    let again : Prop := q.yielded = true ∧ q.st = .run ∧ x.st = .run ∧
      (({ s with chans := s.chans.upd q.cx { x with since := s.now, st := .ready } } : State).choose n
        fun d => decide (d = q.cx) || s.waiting d) = some q.cx
    (¬ due → exec (.switchOut n) s = .next s) ∧
    (due → again → exec (.switchOut n) s = .next { s with
      seqs := s.seqs.upd n { q with swReq := false, yielded := false } }) ∧
    (due → ¬ again → s.saveContext n = .done y →
      let r := y.seqs.at n
      let c := y.chans.at r.cx
      let rd := y.memRead n.val (0x1400000 + 0x200 * r.cx.val) 4
      let w0 : W32 := BitVec.ofNat 32 (rd.1.getD 0)
      let stops : Bool := (c.st = .run && r.stopI) || c.st = .draining
      let applies : Bool := stops && c.resumeRec && rd.1.isSome && !bit w0 29
      let moved : Bool := applies && fldN w0 24 6 != fldN c.config 24 6
      let stopped : Channel := { c with st := .stopped, stopF := true, abort := false, resumeRec := false, res := false }
      let st : SeqSt := if r.st = .draining ∨ (r.st = .pool ∧ r.drainRec = true) then (if r.en then .idle else .off) else .switch
      let freed : Seq := { r with
        st := st, cxv := r.cxv && decide (st = .switch), swReq := false, yielded := false, stopI := false, drainRec := false
        poolWork := none, held := none, idleSince := y.now }
      ∃ d sq ch e w, exec (.switchOut n) s = .next { y with
        dbg := d, seqs := sq, chans := y.chans.upd r.cx ch, mem := if stops && c.resumeRec then rd.2.mem else y.mem
        eic := e, power := w } ∧
      (st ≠ .off → applies = false → e = y.eic ∧ w = y.power) ∧
      (∀ m, let z := (y.seqs.upd n freed).at m
        sq.at m = if moved = true ∧ z.fownCh = r.cx then { z with fownV := false, fownD := false } else z) ∧
      (c.st = .run → r.stopI = false → ch = { c with st := .ready, since := y.now, res := false }) ∧
      (stops = true → c.resumeRec = false → ch = stopped) ∧
      (stops = true → c.resumeRec = true → rd.1 = none ∨ bit w0 29 = true → ch = { stopped with cmdIgn := true }) ∧
      (applies = true → ch = { stopped with
        st := .ready, since := y.now, config := (c.config &&& ~~~0x3FF00000) ||| (w0 &&& 0x3FF00000) }) ∧
      (c.st = .stopped ∨ c.st = .fault ∨ c.st = .blocked ∨ c.st = .ready ∨ c.st = .off ∨ c.st = .waitPool →
        ch = { c with res := false })) ∧
    (∀ k, due → ¬ again → s.saveContext n = .pool y k →
      let c := y.chans.at (y.seqs.at n).cx
      ∃ sq ch, exec (.switchOut n) s = .next { y with seqs := y.seqs.upd n sq, chans := y.chans.upd (y.seqs.at n).cx ch } ∧
        sq = { y.seqs.at n with
          st := .pool, poolWork := some (.switchOut k)
          drainRec := (y.seqs.at n).drainRec || decide ((y.seqs.at n).st = .draining) } ∧
        (c.st = .fault → ch = c) ∧
        (c.st = .draining → ch = { c with st := .waitPool, back := .run, stopRec := some c.abort }) ∧
        (c.st ≠ .fault → c.st ≠ .draining → ch = { c with st := .waitPool, back := c.st })) ∧
    (∀ f cs, due → ¬ again →
      (s.saveContext n = .ecc y ∧ f = .ctxEcc ∧ cs = y.cs ∨ ∃ u, s.saveContext n = .cs y u ∧ f = .csEcc ∧ cs = { y.cs with
        fault := put 24 (y.seqs.at n).cx.val ||| put 20 4 ||| put 15 (seqCluster n).val ||| put 0 u
        uncF := y.cs.uncF ||| BitVec.ofNat 4 (2 ^ (seqCluster n).val) }) →
      let r := y.seqs.at n
      let c := y.chans.at r.cx
      let c1 := if c.det = true then c.breached .ecc y.now else c
      let st : SeqSt := if r.st = .draining ∨ (r.st = .pool ∧ r.drainRec = true) then (if r.en then .idle else .off) else .switch
      c.res = true → ∃ d z e w, exec (.switchOut n) s = .next { y with
        dbg := d, cs := cs, eic := e, power := w, seqs := y.seqs.upd n z
        chans := y.chans.upd r.cx { c1 with st := .fault, faultF := true, fcause := f, res := false } } ∧
        z.st = st ∧ z.swReq = false ∧ (st ≠ .off → e = y.eic ∧ w = y.power))) ∧
  (∀ (s y : State) (n : Fin 16) (a : Anchor),
    let q := s.seqs.at n
    let words : List W32 := (List.range 32).map q.reg ++
      [q.pc, q.stw, put 8 q.cw.val ||| put 0 q.wv.toNat, put 0 q.cx.val, q.tcause, q.tval, q.tvec, 0]
    let cs := s.cs.copies.at (seqCluster n)
    let save := (y.ctxWrite n (0x1420000 + 0x100 * a.lower.val) words).uw n 56
    s.anchor n q.cx = (some a, y) →
    (cs.unc = [] → cs.corr = [] → s.saveContext n = save.saveRest n a) ∧
    s.saveFrom n 2 = y.saveRest n a ∧ s.saveFrom n 3 = s.saveFloat n ∧
    (cs.unc = [] → q.slots = [] → (s.chans.at q.cx).aff ≠ 1 →
    ∃ z, s.saveContext n = .done z ∧
      z.mem = ((y.ctxWrite n (0x1420000 + 0x100 * a.lower.val) words).setAnchor n q.cx { a with uv := false }).mem ∧
      z.seqs.at n = { q with uwcnt := q.uwcnt + 56, resv := none } ∧ z.chans = s.chans ∧ z.pool = s.pool)) ∧
  (∀ (s y z : State) (n : Fin 16) (c : Fin 256) (a : Anchor) (l : List W32),
    s.anchor n c = (some a, y) → a.uv = false → y.ctxRead n (0x1420000 + 0x100 * a.lower.val) 20 = (some l, z) →
    let w := l.getD 34 0
    ∃ t, s.loadContext n c = .done t ∧
      let x := t.seqs.at n
      (∀ j, j < 32 → x.reg j = l.getD j 0) ∧ x.pc = l.getD 32 0 ∧ x.stw = l.getD 33 0 ∧ x.cw.val = fldN w 8 3 ∧
      x.wv = fld w 0 8 ∧ x.cx = c ∧ x.tcause = l.getD 36 0 ∧ x.tval = l.getD 37 0 ∧ x.tvec = l.getD 38 0 ∧ x.resv = none ∧
      x.uwcnt = (s.seqs.at n).uwcnt + 96 ∧ t.chans = s.chans ∧ t.pool = s.pool ∧ t.mem = z.mem))

/-- R275, R277, R278: the ALU group. Each instruction writes its result to rd, sets the flags that its table names where S is 1,
leaves everything else, and takes its microwords; ADDT, SUBT and, with DZT, a division by 0 trap with ARITH. Readings and
choices behind it: log entry 5. -/
def Obligations.MacroArithmetic : Prop :=
  ∀ (s z : State) (n : Fin 16) (w : W32),
    let q := z.seqs.at n
    let a := q.reg (rsF w)
    let b := q.reg (rtF w)
    let c := bit q.stw 1
    let v := bit q.stw 0
    let k := fldN b 0 5
    let flags (r : W32) (cy ov : Bool) : Nzcv := { n := bit r 31, z := decide (r = 0), c := cy, v := ov }
    let to_ (i : Instr) (m : Mn) (u : Nat) (f : Seq → Seq) : Prop := s.At n m w z → exec i s = .next (z.after n u (q.pc + 4) f)
    let row (i : Instr) (m : Mn) (u : Nat) (r : W32) (cy ov : Bool) : Prop := to_ i m u fun q =>
      if bit w 10 then (q.setReg (rdF w) r).setFlags (flags r cy ov) else q.setReg (rdF w) r
    let adds (r : W32) : Bool := bit a 31 == bit b 31 && bit r 31 != bit a 31
    let subs (r : W32) : Bool := bit a 31 != bit b 31 && bit r 31 != bit a 31
    let arith (d : Nat) : Host.Outcome State Fault Refusal := .next (z.trapsTo n 2 { code := 16, detail := d, tval := w })
    let div (i : Instr) (m : Mn) (zero r : W32) (ov : Bool) : Prop :=
      (b ≠ 0 → row i m 38 r c ov) ∧ (b = 0 → bit q.stw 8 = false → row i m 4 zero c true) ∧
        (b = 0 → bit q.stw 8 = true → s.At n m w z → exec i s = arith 2)
    let least : Bool := decide (a = 0x80000000 ∧ b = 0xFFFFFFFF)
    row (.add n) .add 2 (a + b) (decide (2 ^ 32 ≤ a.toNat + b.toNat)) (adds (a + b)) ∧
    row (.sub n) .sub 2 (a - b) (decide (b.toNat ≤ a.toNat)) (subs (a - b)) ∧
    row (.adc n) .adc 2 (a + b + (if c then 1 else 0)) (decide (2 ^ 32 ≤ a.toNat + b.toNat + (if c then 1 else 0)))
      (adds (a + b + (if c then 1 else 0))) ∧
    row (.sbc n) .sbc 2 (a - b - (if c then 0 else 1)) (decide (b.toNat + (if c then 0 else 1) ≤ a.toNat))
      (subs (a - b - (if c then 0 else 1))) ∧
    (adds (a + b) = false → row (.addt n) .addt 2 (a + b) (decide (2 ^ 32 ≤ a.toNat + b.toNat)) false) ∧
    (adds (a + b) = true → s.At n .addt w z → exec (.addt n) s = arith 1) ∧
    (subs (a - b) = false → row (.subt n) .subt 2 (a - b) (decide (b.toNat ≤ a.toNat)) false) ∧
    (subs (a - b) = true → s.At n .subt w z → exec (.subt n) s = arith 1) ∧
    to_ (.cmp n) .cmp 2 (fun q => q.setFlags (flags (a - b) (decide (b.toNat ≤ a.toNat)) (subs (a - b)))) ∧
    to_ (.tst n) .tst 2 (fun q => q.setFlags (flags (a &&& b) c v)) ∧
    row (.and n) .and 2 (a &&& b) c v ∧ row (.or n) .or 2 (a ||| b) c v ∧ row (.xor n) .xor 2 (a ^^^ b) c v ∧
    row (.andn n) .andn 2 (a &&& ~~~b) c v ∧ row (.orn n) .orn 2 (a ||| ~~~b) c v ∧
    row (.sll n) .sll 2 (a <<< k) (if k = 0 then c else bit a (32 - k)) v ∧
    row (.srl n) .srl 2 (a >>> k) (if k = 0 then c else bit a (k - 1)) v ∧
    row (.sra n) .sra 2 (a.sshiftRight k) (if k = 0 then c else bit a (k - 1)) v ∧
    row (.ror n) .ror 2 (a.rotateRight k) (if k = 0 then c else bit a (k - 1)) v ∧
    row (.mul n) .mul 4 (a * b) c v ∧
    row (.mulhu n) .mulhu 5 (BitVec.ofNat 32 (a.toNat * b.toNat / 2 ^ 32)) c v ∧
    row (.mulhs n) .mulhs 5 (BitVec.ofInt 32 (a.toInt * b.toInt / 2 ^ 32)) c v ∧
    div (.divu n) .divu 0xFFFFFFFF (a / b) false ∧ div (.divs n) .divs 0xFFFFFFFF (a.sdiv b) least ∧
    div (.remu n) .remu a (a % b) false ∧ div (.rems n) .rems a (a.srem b) least ∧
    row (.mins n) .mins 2 (if a.toInt < b.toInt then a else b) c v ∧
    row (.maxs n) .maxs 2 (if a.toInt < b.toInt then b else a) c v ∧
    row (.minu n) .minu 2 (if a.toNat < b.toNat then a else b) c v ∧
    row (.maxu n) .maxu 2 (if a.toNat < b.toNat then b else a) c v ∧
    row (.clz n) .clz 2 (BitVec.ofNat 32 (clzGo a 32)) c v ∧ row (.ctz n) .ctz 2 (BitVec.ofNat 32 (ctzGo a 0 32)) c v ∧
    row (.popc n) .popc 2 (BitVec.ofNat 32 (popcount a)) c v ∧
    row (.bswap n) .bswap 2 (fld a 0 8 ++ fld a 8 8 ++ fld a 16 8 ++ fld a 24 8) c v ∧
    row (.brev n) .brev 2 a.reverse c v ∧
    row (.slts n) .slts 2 (if a.toInt < b.toInt then 1 else 0) c v ∧
    row (.sltu n) .sltu 2 (if a.toNat < b.toNat then 1 else 0) c v

/-- R279, R280, R281: shifts and bit fields, the immediate group and the SYS group. EXTU, EXTS and INS are stated bit by bit.
R288 to R290, R296: branches and jumps change nothing but the pc; a branch takes 3 microwords where it is taken, and 2 where it
is not. Readings and choices behind it: log entry 5. -/
def Obligations.MacroImmediatesAndBranches : Prop :=
  (∀ (s z : State) (n : Fin 16) (w : W32),
    let q := z.seqs.at n
    let a := q.reg (rsF w)
    let sx := (fld w 0 16).signExtend 32
    let zx := (fld w 0 16).setWidth 32
    let sa := saF w
    let to_ (i : Instr) (m : Mn) (u : Nat) (f : Seq → Seq) : Prop := s.At n m w z → exec i s = .next (z.after n u (q.pc + 4) f)
    let row (i : Instr) (m : Mn) (u : Nat) (r : W32) : Prop := to_ i m u fun q => q.setReg (rdF w) r
    let bits (i : Instr) (m : Mn) (u : Nat) (f : Nat → Bool) : Prop :=
      ∃ r : W32, (∀ j, j < 32 → r.getLsbD j = f j) ∧ row i m u r
    row (.slli n) .slli 2 (a <<< sa) ∧ row (.srli n) .srli 2 (a >>> sa) ∧ row (.srai n) .srai 2 (a.sshiftRight sa) ∧
    row (.rori n) .rori 2 (a.rotateRight sa) ∧
    (s.At n .extu w z → bits (.extu n) .extu 2 fun j => decide (j ≤ rtF w) && a.getLsbD (sa + j)) ∧
    (s.At n .exts w z → bits (.exts n) .exts 2 fun j => a.getLsbD (sa + min j (rtF w))) ∧
    (s.At n .ins w z → bits (.ins n) .ins 3 fun j =>
      if sa ≤ j ∧ j ≤ sa + rtF w then a.getLsbD (j - sa) else (q.reg (rdF w)).getLsbD j) ∧
    row (.addi n) .addi 2 (a + sx) ∧ row (.andi n) .andi 2 (a &&& zx) ∧ row (.ori n) .ori 2 (a ||| zx) ∧
    row (.xori n) .xori 2 (a ^^^ zx) ∧ row (.lui n) .lui 1 (zx <<< 16) ∧
    to_ (.cmpi n) .cmpi 2 (fun q => q.setFlags
      { n := bit (a - sx) 31, z := decide (a = sx), c := decide (sx.toNat ≤ a.toNat),
        v := bit a 31 != bit sx 31 && bit (a - sx) 31 != bit a 31 }) ∧
    to_ (.tsti n) .tsti 2 (fun q => q.setFlags
      { n := bit (a &&& zx) 31, z := decide (a &&& zx = 0), c := bit q.stw 1, v := bit q.stw 0 }) ∧
    to_ (.nop n) .nop 1 id ∧
    (s.At n .rds w z → row (.rds n) .rds 2 (([q.pc, q.stw, BitVec.ofNat 32 q.cw.val, q.wv.setWidth 32,
      BitVec.ofNat 32 q.cx.val] : List W32).getD (rsF w) 0)) ∧
    to_ (.wrs n) .wrs 2 (fun q => { q with stw := (q.stw &&& ~~~0x10F) ||| (a &&& 0x10F) })) ∧
  (∀ (s z : State) (n : Fin 16) (w : W32),
    let q := z.seqs.at n
    let off (k : Nat) : W32 := 4 * (fld w 0 k).signExtend 32
    let f := stFlags q.stw
    let branch (i : Instr) (m : Mn) (c : Prop) (o : W32) : Prop := s.At n m w z →
      (c → exec i s = .next (z.after n 3 (q.pc + o) id)) ∧ (¬ c → exec i s = .next (z.after n 2 (q.pc + 4) id))
    branch (.bcc n) .bcc (([true, f.z, !f.z, !f.c, f.c, !f.c || f.z, f.c && !f.z, f.n != f.v, f.n == f.v,
      f.z || f.n != f.v, !f.z && f.n == f.v, f.n, !f.n, f.v, !f.v] : List Bool).getD (fldN w 22 4) false = true) (off 22) ∧
    branch (.bz n) .bz (q.reg (rdF w) = 0) (off 16) ∧ branch (.bnz n) .bnz (q.reg (rdF w) ≠ 0) (off 16) ∧
    branch (.beq n) .beq (q.reg (rdF w) = q.reg (rsF w)) (off 16) ∧
    branch (.bne n) .bne (q.reg (rdF w) ≠ q.reg (rsF w)) (off 16) ∧
    (s.At n .j w z → exec (.j n) s = .next (z.after n 2 (q.pc + off 26) id)) ∧
    (s.At n .jr w z → exec (.jr n) s = .next (z.after n 2 (q.reg (rsF w) + (fld w 0 16).signExtend 32) id)))

/-- R239, R240, R268: the 32 general registers are distinct; the arriving registers of a window are the departing registers of
the window below; k registers are the same in every window. R242, R291, R292, R312: WOPEN and WCLOSE with the calls that use
them, where the window has room: the window above opens with its own and departing registers undefined, m7 takes the return
offset, and the window below, with its registers, comes back. With seven windows in use, and where none is below, the window's
frame is spilled or filled first; RDC, WRC and WSPILL. Readings and choices behind it: log entries 5 and 7 and 8. -/
def Obligations.MacroWindows : Prop :=
  (∀ (q : Seq) (r t : Nat) (v : W32), r < 32 → t < 32 → (q.setReg r v).reg t = if t = r then v else q.reg t) ∧
  (∀ (s z : State) (n : Fin 16) (w : W32),
    let q := z.seqs.at n
    let up := winUp q.cw 1
    let down := winUp q.cw 7
    let target := q.reg (rsF w) + (fld w 0 16).signExtend 32
    let opens (i : Instr) (k : Nat) (p : W32) (link : Option W32) : Prop :=
      (wvCount q.wv ≠ 7 → ∃ x : Seq, exec i s = .next { z.after n k p (fun _ => x) with free := z.free + 16 } ∧
        x = { q with cw := up, wv := x.wv, ringA := x.ringA, ringM := x.ringM } ∧
        (∀ j, x.wv.getLsbD j = (q.wv.getLsbD j || decide (j = up.val))) ∧
        (∀ j, j < 8 → x.reg j = q.reg j ∧ x.reg (8 + j) = q.reg (24 + j)) ∧ (∀ a ∈ link, x.reg 23 = a) ∧
        ∀ u, u ≠ up → x.ringM.at u = q.ringM.at u ∧ (u ≠ winUp q.cw 2 → x.ringA.at u = q.ringA.at u)) ∧
      (∀ y, wvCount q.wv = 7 → z.wopen n 250 = .done y → exec i s = .next (y.after n k p fun x =>
        match link with | some a => x.setReg 23 a | none => x)) ∧
      (wvCount q.wv = 7 → ∀ a y, z.anchor n q.cx = (some a, y) → 250 ≤ a.spcnt →
        exec i s = .next (y.trapsTo n 2 { code := 15, detail := 0, tval := BitVec.ofNat 32 a.spcnt }))
    let closes (i : Instr) (k : Nat) (p : W32) : Prop :=
      (q.wv.getLsbD down.val = true → ∃ x : Seq, exec i s = .next (z.after n k p fun _ => x) ∧
        x = { q with cw := down, wv := x.wv } ∧
        ∀ j, x.wv.getLsbD j = (q.wv.getLsbD j && decide (j ≠ q.cw.val))) ∧
      (∀ y, q.wv.getLsbD down.val = false → z.wclose n = .done y → exec i s = .next (y.after n k p id)) ∧
      (q.wv.getLsbD down.val = false → ∀ a y, z.anchor n q.cx = (some a, y) → a.spcnt = 0 →
        exec i s = .next (y.trapsTo n 2 { code := 14, detail := 0, tval := 0 }))
    (s.At n .wopen w z → opens (.wopen n) 3 (q.pc + 4) none) ∧
    (s.At n .call w z → opens (.call n) 4 (q.pc + 4 * (fld w 0 26).signExtend 32) (some (q.pc + 4))) ∧
    (s.At n .callr w z → opens (.callr n) 4 target (some (q.pc + 4))) ∧
    (s.At n .wclose w z → closes (.wclose n) 3 (q.pc + 4)) ∧ (s.At n .ret w z → closes (.ret n) 4 target) ∧
    (s.At n .rdc w z → saF w ≤ 2 → exec (.rdc n) s = .next (z.after n 2 (q.pc + 4) fun x =>
      x.setReg (rdF w) (if saF w = 0 then q.tvec else if saF w = 1 then q.tcause else q.tval))) ∧
    (s.At n .rdc w z → saF w = 3 → ∀ a y, z.anchor n q.cx = (some a, y) → exec (.rdc n) s = .next
      (y.after n 2 (q.pc + 4) fun x => x.setReg (rdF w) (BitVec.ofNat 32 a.spcnt))) ∧
    (s.At n .wrc w z → fldN (q.reg (rsF w)) 0 2 = 0 →
      exec (.wrc n) s = .next (z.after n 2 (q.pc + 4) fun x => { x with tvec := q.reg (rsF w) })) ∧
    (s.At n .wrc w z → fldN (q.reg (rsF w)) 0 2 ≠ 0 →
      exec (.wrc n) s = .next (z.trapsTo n 2 { code := 3, detail := 1, tval := w })) ∧
    (s.At n .wspill w z → ∀ a y, z.anchor n q.cx = (some a, y) →
      (wvCount q.wv = 1 → a.spcnt ≤ 250 → exec (.wspill n) s = .next (y.after n 3 (q.pc + 4) id)) ∧
      (250 < a.spcnt + (wvCount q.wv - 1) →
        exec (.wspill n) s = .next (y.trapsTo n 2 { code := 15, detail := 0, tval := BitVec.ofNat 32 a.spcnt })) ∧
      (∀ t, a.spcnt + (wvCount q.wv - 1) ≤ 250 → y.spillAll n (wvCount q.wv - 1) = .done t →
        exec (.wspill n) s = .next (t.after n 3 (q.pc + 4) id))))

/-- R126, R259, R282 to R287: loads and stores of a sequencer in the memory windows and in register space: the address rs +
IMM16, the value that rd or its pair takes with its extension, the bytes that a store writes, the microwords; and the traps
before either: DET_TIME and DET_LOAD, ALIGN, BUS with the cause of R57, and DATA_ECC. R310, R311: LL loads a word and reserves
its double word; SC stores where the reservation still names it, says in rd whether it did, and drops the reservation; CLREX
drops it; a store of any party to the double word ends every reservation on it. Both trap with ALIGN on an address that is no
multiple of 4, and with BUS and DISABLED outside their memories. Readings and choices behind it: log entries 5 and 7. -/
def Obligations.MacroMemory : Prop :=
  (∀ (s z : State) (n : Fin 16) (w : W32),
    let q := z.seqs.at n
    let ea := q.reg (rsF w) + (fld w 0 16).signExtend 32
    let a := ea.toNat
    let r := z.seqReq n
    let next (y : State) (u : Nat) (f : Seq → Seq) : Host.Outcome State Fault Refusal := .next (y.after n u (q.pc + 4) f)
    let trap (y : State) (c d : Nat) (x : W32) : Host.Outcome State Fault Refusal :=
      .next (y.trapsTo n 2 { code := c, detail := d, tval := x })
    let checked : State := { z with mem := (z.mem.check n.val (a / 8)).2 }
    let store : Bool := !(0x1400000 ≤ a && a < 0x1420000 && 64 ≤ (a - 0x1400000) % 0x200 / 4)
    let det : Bool := bit q.stw 17
    -- a load of k bytes whose address is a multiple of al
    let load (i : Instr) (m : Mn) (k al : Nat) (f : Nat → Seq → Seq) : Prop := s.At n m w z →
      let one := a % al = 0 ∧ a % 8 + k ≤ 8
      (memWindow a = true → one → store = true → z.refusal r false a k 0 = none → a / 8 ∉ z.mem.unc →
        exec i s = next checked 3 (f (z.mem.num a k))) ∧
      (memWindow a = true → one → z.refusal r false a k 0 = none → a / 8 ∈ z.mem.unc →
        exec i s = trap (if store then checked else { checked with free := z.free + 2 }) 11 0 ea) ∧
      (memWindow a = true → one → store = false → z.refusal r false a k 0 = none → a / 8 ∉ z.mem.unc →
        ∃ v, exec i s = next { checked with free := z.free + 2 } 3 (f v)) ∧
      (∀ v y, memWindow a = false → a % k = 0 → (det = true → a + k ≤ 0x10) → z.refusal r false a k 0 = none →
        z.regEcc a = false → z.regRead r a = (v, y) → y.holds n = true →
        exec i s = .next (y.after n 3 ((y.seqs.at n).pc + 4) (f v.toNat))) ∧
      (det = true → a < 0x1000000 → 0x10 < a + k → exec i s = trap z 7 0 ea) ∧
      ((det = true → 0x1000000 ≤ a ∨ a + k ≤ 0x10) → a % al ≠ 0 → exec i s = trap z 9 0 ea) ∧
      (∀ c, (det = true → 0x1000000 ≤ a ∨ a + k ≤ 0x10) → one → memWindow a = true ∨ a % k = 0 →
        z.refusal r false a k 0 = some c → exec i s = trap (z.refused false a c) 10 c.code ea)
    let rd (f : Nat → W32) (v : Nat) (q : Seq) : Seq := q.setReg (rdF w) (f v)
    -- a store of the k bytes of v at a multiple of al
    let put (i : Instr) (m : Mn) (k al v : Nat) : Prop := s.At n m w z →
      let one := a % al = 0 ∧ a % 8 + k ≤ 8
      let timely := det = true → detStore a k v = false
      (memWindow a = true → one → z.refusal r true a k v = none → exec i s = next (z.memWrite n.val a k v) 2 id) ∧
      (∀ y, memWindow a = false → a % k = 0 → timely → z.refusal r true a k v = none →
        z.regWrite r a (BitVec.ofNat 32 v) = y → y.holds n = true →
        exec i s = .next (y.after n 2 ((y.seqs.at n).pc + 4) id)) ∧
      (det = true → detStore a k v = true → exec i s = trap z 6 0 w) ∧
      (timely → a % al ≠ 0 → exec i s = trap z 9 0 ea) ∧
      (∀ c, timely → one → memWindow a = true ∨ a % k = 0 → z.refusal r true a k v = some c →
        exec i s = trap (z.refused true a c) 10 c.code ea)
    let one : Nat := (q.reg (rdF w)).toNat
    load (.ldb n) .ldb 1 1 (rd fun v => (BitVec.ofNat 8 v).signExtend 32) ∧
    load (.ldbu n) .ldbu 1 1 (rd fun v => BitVec.ofNat 32 v) ∧
    load (.ldh n) .ldh 2 2 (rd fun v => (BitVec.ofNat 16 v).signExtend 32) ∧
    load (.ldhu n) .ldhu 2 2 (rd fun v => BitVec.ofNat 32 v) ∧
    load (.ldw n) .ldw 4 4 (rd fun v => BitVec.ofNat 32 v) ∧ load (.ldwu n) .ldwu 4 1 (rd fun v => BitVec.ofNat 32 v) ∧
    load (.ldp n) .ldp 8 8 (fun v q => (q.setReg (rdF w) (BitVec.ofNat 32 v)).setReg (rdF w + 1) (BitVec.ofNat 32 (v / 2 ^ 32))) ∧
    put (.stb n) .stb 1 1 (one % 2 ^ 8) ∧ put (.sth n) .sth 2 2 (one % 2 ^ 16) ∧ put (.stw n) .stw 4 4 one ∧
    put (.stwu n) .stwu 4 1 one ∧ put (.stp n) .stp 8 8 (one + 2 ^ 32 * (q.reg (rdF w + 1)).toNat) ∧
    -- a word that crosses a block of 8 bytes
    (let k := 8 - a % 8
     let y := z.memWrite n.val a k (one % 256 ^ k)
     (s.At n .ldwu w z → memWindow a = true → 4 < a % 8 → a / 8 ∉ z.mem.unc → a / 8 + 1 ∉ z.mem.unc →
      a / 8 ∉ z.mem.corr → a / 8 + 1 ∉ z.mem.corr → a < 0x1400000 ∨ 0x1420000 ≤ a →
      z.refusal r false a k 0 = none → z.refusal r false (a + k) (4 - k) 0 = none →
      exec (.ldwu n) s = next z 6 (rd (fun v => BitVec.ofNat 32 v) (z.mem.num a 4))) ∧
     (s.At n .stwu w z → memWindow a = true → 4 < a % 8 → z.refusal r true a k (one % 256 ^ k) = none →
      z.refusal r true (a + k) (4 - k) (one / 256 ^ k) = none → y.refusal r true (a + k) (4 - k) (one / 256 ^ k) = none →
      exec (.stwu n) s = next (y.memWrite n.val (a + k) (4 - k) (one / 256 ^ k)) 5 id)) ∧
    (s.At n .ldwu w z → memWindow a = false → a % 4 ≠ 0 → (det = true → 0x1000000 ≤ a ∨ a + 4 ≤ 0x10) →
      exec (.ldwu n) s = trap z 10 (if regRegion a then Cause.width.code else Cause.unmapped.code) ea) ∧
    (s.At n .stwu w z → memWindow a = false → a % 4 ≠ 0 → (det = true → detStore a 4 one = false) →
      exec (.stwu n) s = trap z 10 (if regRegion a then Cause.width.code else Cause.unmapped.code) ea)) ∧
  ((∀ (s z : State) (n : Fin 16) (w : W32),
    let q := z.seqs.at n
    let ea := q.reg (rsF w)
    let a := ea.toNat
    let v := q.reg (rtF w)
    let next (y : State) (u : Nat) (f : Seq → Seq) : Host.Outcome State Fault Refusal := .next (y.after n u (q.pc + 4) f)
    let trap (c d : Nat) : Host.Outcome State Fault Refusal := .next (z.trapsTo n 2 { code := c, detail := d, tval := ea })
    let atom : Bool := memWindow a && memOf a != some 3
    let store : Bool := !(0x1400000 ≤ a && a < 0x1420000 && 64 ≤ (a - 0x1400000) % 0x200 / 4)
    (s.At n .ll w z → a % 4 = 0 → atom = true → store = true → z.refusal (z.seqReq n) false a 4 0 = none → a / 8 ∉ z.mem.unc →
      exec (.ll n) s = next { z with mem := (z.mem.check n.val (a / 8)).2 } 4 fun q =>
        { q.setReg (rdF w) (BitVec.ofNat 32 (z.mem.num a 4)) with resv := some (a / 8) }) ∧
    (s.At n .sc w z → a % 4 = 0 → atom = true → z.refusal (z.seqReq n) true a 4 v.toNat = none → q.resv = some (a / 8) →
      exec (.sc n) s = next (z.memWrite n.val a 4 v.toNat) 5 fun q => { q.setReg (rdF w) 1 with resv := none }) ∧
    (s.At n .sc w z → a % 4 = 0 → atom = true → q.resv ≠ some (a / 8) →
      exec (.sc n) s = next z 3 fun q => { q.setReg (rdF w) 0 with resv := none }) ∧
    (s.At n .clrex w z → exec (.clrex n) s = next z 1 fun q => { q with resv := none }) ∧
    (s.At n .ll w z → a % 4 ≠ 0 → exec (.ll n) s = trap 9 0) ∧
    (s.At n .sc w z → a % 4 ≠ 0 → exec (.sc n) s = trap 9 0) ∧
    (s.At n .ll w z → a % 4 = 0 → atom = false → z.refusal (z.seqReq n) false a 4 0 = none →
      exec (.ll n) s = trap 10 Cause.disabled.code) ∧
    (s.At n .sc w z → a % 4 = 0 → atom = false → csOffset a = false → z.refusal (z.seqReq n) true a 4 v.toNat = none →
      exec (.sc n) s = trap 10 Cause.disabled.code)) ∧
  (∀ (s : State) (req a k v : Nat) (n : Fin 16), ((s.memWrite req a k v).seqs.at n).resv =
    if (s.seqs.at n).resv = some (a / 8) then none else (s.seqs.at n).resv))

/-- R101, R298 to R303: NOW, CONV and EXP; ENQL, ENQE and PUSHE check their words, their half, the horizon and their FIFO in
this order and enter an action or an entry. Where there is no room, ENQE and PUSHE wait as a blocked channel, and R119: ENQL
holds the sequencer inside the instruction, which goes on with the same delivery until it enters or is refused. Readings and
choices behind it: log entry 5. -/
def Obligations.MacroTimeAndEnqueue : Prop :=
  (∀ (s : State) (n : Fin 16) (h : Held) (op : ActOp), s.seqUp n = true → (s.seqs.at n).held = some h →
    decodeMacro h.ir = some .enql → h.micro = none → h.fed = false → actOfWord h.act = some op →
    let s1 : State := { s with seqs := s.seqs.upd n { s.seqs.at n with held := none } }
    let tried := s1.enqLane (Fin.ofNat 256 (fldN h.act 8 8)) op (bit h.act 0) h.dom h.ns
    (∀ y, tried = (y, .ok) → y.holds n = true → exec (.enql n) s = .next (y.after n 5 ((y.seqs.at n).pc + 4) id)) ∧
    (∀ y, tried = (y, .stall) → exec (.enql n) s = .next (s.ran n)) ∧
    (∀ y, tried = (y, .refused) → exec (.enql n) s = .next (s1.trapsTo n 2 { code := 10, detail := 9, tval := h.act }))) ∧
  ∀ (s z : State) (n : Fin 16) (w : W32),
    let q := z.seqs.at n
    let det : Bool := bit q.stw 17
    let next (y : State) (u : Nat) (f : Seq → Seq) : Host.Outcome State Fault Refusal := .next (y.after n u (q.pc + 4) f)
    let trap (c d : Nat) (x : W32) : Host.Outcome State Fault Refusal :=
      .next (z.trapsTo n 2 { code := c, detail := d, tval := x })
    let x := q.reg (rtF w)
    let t : W64 := q.reg (rsF w + 1) ++ q.reg (rsF w)
    let d : Fin 8 := Fin.ofNat 8 (saF w)
    let dom := z.beryl.doms.at d
    (s.At n .now w z → det = false → ∃ r : W64, r = (dom.valueAt z.beryl.g).extractLsb' 40 64 ∧
      exec (.now n) s = next z 5 fun q => (q.setReg (rdF w) (lo32 r)).setReg (rdF w + 1) (hi32 r)) ∧
    (s.At n .now w z → det = true → exec (.now n) s = trap 6 0 w) ∧
    (s.At n .conv w z →
      let c := z.beryl.convert (Fin.ofNat 8 (fldN x 0 3)) (Fin.ofNat 8 (fldN x 4 3)) (fix16 t (fld x 16 16))
      (det = true → c.2 = true → exec (.conv n) s = trap 6 0 w) ∧
      (det = false ∨ c.2 = false → ∃ (y : W64) (f : BitVec 16), c.1 = y ++ f ∧
        exec (.conv n) s = next z 14 fun q =>
          ((q.setReg (rdF w) (lo32 y)).setReg (rdF w + 1) (hi32 y)).setReg (rtF w)
            ((f.setWidth 32 <<< 16) ||| (x &&& 0x77) ||| (if c.2 then 8 else 0)))) ∧
    (s.At n .exp w z → ∃ r : W64,
      r.setWidth 40 = (if saF w = 1 then fld (q.reg (rtF w + 1)) 0 8 ++ x else fld (q.reg (rtF w + 1)) 0 10 ++ fld x 2 30) ∧
      -(2 ^ 39 : Int) ≤ (r - t).toInt ∧ (r - t).toInt < 2 ^ 39 ∧
      exec (.exp n) s = next z 5 fun q => (q.setReg (rdF w) (lo32 r)).setReg (rdF w + 1) (hi32 r)) ∧
    (s.At n .enql w z →
      let l : Fin 256 := Fin.ofNat 256 (fldN x 8 8)
      (actOfWord x = none → exec (.enql n) s = trap 3 1 w) ∧
      (∀ op, actOfWord x = some op →
        (laneHalf l ≠ seqHalf n → exec (.enql n) s = trap 12 0 w) ∧
        (laneHalf l = seqHalf n → dom.inHorizon t z.beryl.g = false → exec (.enql n) s = trap 13 0 (lo32 t)) ∧
        (laneHalf l = seqHalf n → dom.inHorizon t z.beryl.g = true →
          (∀ y, z.enqLane l op (bit x 0) d (t.setWidth 40) = (y, .ok) → y.holds n = true →
            exec (.enql n) s = .next (y.after n 5 ((y.seqs.at n).pc + 4) id)) ∧
          (∀ y, z.enqLane l op (bit x 0) d (t.setWidth 40) = (y, .stall) → exec (.enql n) s = .next (({ z with
            seqs := z.seqs.upd n { q with held := some {
              ir := w, act := x, dom := d, ns := t.setWidth 40, micro := none, fed := false } } } : State).ran n)) ∧
          (∀ y, z.enqLane l op (bit x 0) d (t.setWidth 40) = (y, .refused) → exec (.enql n) s = trap 10 9 x)))) ∧
    (let e : Fin 64 := Fin.ofNat 64 (fldN x 8 8)
     let k : Fin 8 := Fin.ofNat 8 (fldN x 0 3)
     let g := z.engines.at e
     let data : W64 := q.reg (rdF w + 1) ++ q.reg (rdF w)
     let push (i : Instr) (m : Mn) (u : Nat) (stamp : Option (BitVec 43)) (far : Bool) : Prop := s.At n m w z →
      (x &&& 0x00FFC0F8 ≠ 0 → exec i s = trap 3 1 w) ∧
      (x &&& 0x00FFC0F8 = 0 → engHalf e ≠ seqHalf n → exec i s = trap 12 0 w) ∧
      (x &&& 0x00FFC0F8 = 0 → engHalf e = seqHalf n → far = true → exec i s = trap 13 0 (lo32 t)) ∧
      (x &&& 0x00FFC0F8 = 0 → engHalf e = seqHalf n → far = false →
        (z.sfAttached e false k.val = true → exec i s = trap 10 9 x) ∧
        (z.sfAttached e false k.val = false → 4 ≤ (g.ifs.at k).length →
          exec i s = .next (((z.uw n u).blockOn n).ran n)) ∧
        (z.sfAttached e false k.val = false → (g.ifs.at k).length < 4 → ∃ p : InEntry,
          exec i s = next { z with engines := z.engines.upd e { g with ifs := g.ifs.upd k (g.ifs.at k ++ [p]) } } u id ∧
          p.data = data ∧ p.tag = tagOf (fldN x 30 2) ∧ p.nbits.val = fldN x 24 6 ∧ p.stamp = stamp))
     push (.enqe n) .enqe 6 (some (BitVec.ofNat 3 d.val ++ t.setWidth 40)) (!dom.inHorizon t z.beryl.g) ∧
     push (.pushe n) .pushe 5 none false)

/-- R122, R123, R305 to R309: DEQ, TRYDEQ and BRECV take the next entry of the path that their selector names, BRECV only one
whose stamp lies below its bound; on an empty path DEQ waits, TRYDEQ answers with Z at 1, and BRECV answers so once the
watermark has reached the bound and waits until then; the last clauses say which entry of each path is the next. The words of an
entry of a receive queue that holds an uncorrectable error are left open (log entry 11). FIRE fires an event or is refused;
WAITE and TRYE take the lowest named event input that has a count, and WAITE waits for one. A channel that waits keeps its pc
and becomes BLOCKED. Readings and choices behind it: log entry 5. -/
def Obligations.MacroDequeueAndEvents : Prop :=
  (∀ (s z : State) (n : Fin 16) (w : W32),
    let q := z.seqs.at n
    let det : Bool := bit q.stw 17
    let next (y : State) (u : Nat) (f : Seq → Seq) : Host.Outcome State Fault Refusal := .next (y.after n u (q.pc + 4) f)
    let trap (c d : Nat) (x : W32) : Host.Outcome State Fault Refusal :=
      .next (z.trapsTo n 2 { code := c, detail := d, tval := x })
    let waits (u : Nat) : Host.Outcome State Fault Refusal := .next (((z.uw n u).blockOn n).ran n)
    let x := q.reg (rsF w)
    let d := rdF w
    let quad (y : Quad) (q : Seq) : Seq := (((q.setReg d y.w0).setReg (d + 1) y.w1).setReg (d + 2) y.w2).setReg (d + 3) y.w3
    let none_ : Quad := { w0 := 0, w1 := 0, w2 := 0, w3 := 0 }
    let setZ (b : Bool) (q : Seq) : Seq := { q with stw := (q.stw &&& ~~~4) ||| (if b then 4 else 0) }
    let t : W64 := q.reg (rtF w + 1) ++ q.reg (rtF w)
    (s.At n .deq w z →
      (z.pathOf q.cx x false = none → exec (.deq n) s = trap 3 1 w) ∧
      (∀ p, z.pathOf q.cx x false = some p →
        (∀ c, z.pathTrap n p x w = some c → exec (.deq n) s = .next (z.trapsTo n 2 c)) ∧
        (z.pathTrap n p x w = none →
          (∀ y a, z.takeFrom q.cx p none = some (y, a) → exec (.deq n) s = next a 6 (quad y)) ∧
          (z.takeFrom q.cx p none = none → exec (.deq n) s = waits 6)))) ∧
    (s.At n .trydeq w z →
      (z.pathOf q.cx x false = none → exec (.trydeq n) s = trap 3 1 w) ∧
      (∀ p, z.pathOf q.cx x false = some p →
        (det = true → exec (.trydeq n) s = trap 8 0 w) ∧
        (∀ c, det = false → z.pathTrap n p x w = some c → exec (.trydeq n) s = .next (z.trapsTo n 2 c)) ∧
        (det = false → z.pathTrap n p x w = none →
          (∀ y a, z.takeFrom q.cx p none = some (y, a) → exec (.trydeq n) s = next a 6 fun q => setZ false (quad y q)) ∧
          (z.takeFrom q.cx p none = none → exec (.trydeq n) s = next z 6 fun q => setZ true (quad none_ q))))) ∧
    (s.At n .brecv w z →
      (z.pathOf q.cx x true = none → exec (.brecv n) s = trap 3 1 w) ∧
      (∀ p, z.pathOf q.cx x true = some p →
        (∀ c, z.pathTrap n p x w = some c → exec (.brecv n) s = .next (z.trapsTo n 2 c)) ∧
        (z.pathTrap n p x w = none →
          (∀ y a, z.takeFrom q.cx p (some t) = some (y, a) → exec (.brecv n) s = next a 8 fun q => setZ false (quad y q)) ∧
          (z.takeFrom q.cx p (some t) = none → notBefore (z.pathMark q.cx p) t = true →
            exec (.brecv n) s = next z 8 fun q => setZ true (quad none_ q)) ∧
          (z.takeFrom q.cx p (some t) = none → notBefore (z.pathMark q.cx p) t = false → exec (.brecv n) s = waits 8)))) ∧
    (s.At n .fire w z →
      let c : Fin 256 := Fin.ofNat 256 (fldN x 0 8)
      let g := z.sn.chCfg.at c
      let own := bit g 23 = true ∧ fldN g 24 8 ≠ q.cx.val
      let sec := bit g 22 = true ∧ bit q.stw 16 = false
      (sec → exec (.fire n) s = trap 10 Cause.secure.code (x &&& 0xFF)) ∧
      (¬ sec → own → exec (.fire n) s = trap 10 Cause.disabled.code (x &&& 0xFF)) ∧
      (¬ own → ¬ sec → exec (.fire n) s = next { z with sn := { z.sn with fired := z.sn.fired ++ [{ ch := c, hop := 0, fired := none }] } } 3 id)) ∧
    (let bad : Prop := x = 0 ∨ x &&& 0xFFFFFFF0 ≠ 0
     let count (j : Nat) : List Nat := z.sn.pending (4 * q.cx.val + j)
     let index (j : Nat) : W32 := if det then 0 else BitVec.ofNat 32 j
     let takes (j : Nat) (y : Spinel) : Prop := j < 4 ∧ bit x j = true ∧ count j ≠ [] ∧
      (∀ i, i < j → bit x i = true → count i = []) ∧ y = z.sn.setPending (4 * q.cx.val + j) (count j).tail
     let none_ : Prop := ∀ j, j < 4 → bit x j = true → count j = []
     (s.At n .waite w z → bad → exec (.waite n) s = trap 3 1 w) ∧
     (∀ j y, s.At n .waite w z → ¬ bad → takes j y →
       exec (.waite n) s = next { z with sn := y } 4 fun q => q.setReg d (index j)) ∧
     (s.At n .waite w z → ¬ bad → none_ → exec (.waite n) s = waits 4) ∧
     (s.At n .trye w z → bad → exec (.trye n) s = trap 3 1 w) ∧
     (s.At n .trye w z → ¬ bad → det = true → exec (.trye n) s = trap 8 0 w) ∧
     (∀ j y, s.At n .trye w z → ¬ bad → det = false → takes j y →
       exec (.trye n) s = next { z with sn := y } 4 fun q => setZ false (q.setReg d (BitVec.ofNat 32 j))) ∧
     (s.At n .trye w z → ¬ bad → det = false → none_ → exec (.trye n) s = next z 4 fun q => setZ true (q.setReg d 0)))) ∧
  (∀ (z : State) (n : Fin 16),
    let q := z.seqs.at n
    let c := z.chans.at q.cx
    (c.st = .run → q.st = .run → (∀ d, z.waiting d = true → z.eligible n (z.chans.at d) = false) →
      z.blockOn n = { z with chans := z.chans.upd q.cx { c with st := .blocked } }) ∧
    (c.st = .run → (q.st = .draining ∨ ∃ d, z.waiting d = true ∧ z.eligible n (z.chans.at d) = true) →
      z.blockOn n = { z with chans := z.chans.upd q.cx { c with st := .blocked }, seqs := z.seqs.upd n { q with swReq := true } }) ∧
    (c.st = .draining → z.blockOn n = { z with seqs := z.seqs.upd n { q with swReq := true } })) ∧
  (∀ (z : State) (cx : Fin 256) (t : Option W64),
    -- the time nearest to the bound that has these 40 bits lies before it
    let below (ns : BitVec 40) : Prop := ∀ b, t = some b → (ns - b.setWidth 40).toInt < 0
    (∀ (e : Fin 64) (k : Fin 8), let g := z.engines.at e
      (g.ofs.at k = [] → z.takeFrom cx (.fifo e k) t = none) ∧
      (∀ x r, g.ofs.at k = x :: r → ¬ below (x.es.extractLsb' 2 40) → z.takeFrom cx (.fifo e k) t = none) ∧
      (∀ x r, g.ofs.at k = x :: r → below (x.es.extractLsb' 2 40) → z.takeFrom cx (.fifo e k) t = some
        ({ w0 := lo32 x.data, w1 := hi32 x.data, w2 := x.es.extractLsb' 0 32,
           w3 := put 30 x.tag.num ||| put 24 x.nbits.val ||| (x.es.extractLsb' 32 10).setWidth 32 },
         { z with engines := z.engines.upd e { g with ofs := g.ofs.upd k r } }))) ∧
    (∀ c : Fin 128, let f := z.streams.at c
      (f.cpl = [] → z.takeFrom cx (.cpl c) t = none) ∧
      (∀ x r, f.cpl = x :: r → z.takeFrom cx (.cpl c) t = some
        ({ w0 := x, w1 := 0, w2 := 0, w3 := 0 }, { z with streams := z.streams.upd c { f with cpl := r } }))) ∧
    (∀ k : Fin 16, let c := z.abs_.at k
      (c.rxq = [] → z.takeFrom cx (.cell k) t = none) ∧
      (∀ x r, c.rxq = x :: r →
        let low := below (fld x.w3 0 10 ++ fld x.w2 2 30)
        (¬ low → z.takeFrom cx (.cell k) t = none) ∧
        (low → x ∉ c.qbad → z.takeFrom cx (.cell k) t = some (x, { z with abs_ := z.abs_.upd k { c with rxq := r } })) ∧
        (low → x ∈ c.qbad → ∃ y, z.takeFrom cx (.cell k) t = some (y, State.breachOf { z with
          abs_ := z.abs_.upd k { c with rxq := r, qbad := c.qbad.erase x }, free := z.free + 128 } (z.abOwner k) .ecc)))) ∧
    (∀ k : Fin 2, let g := z.gds.at k
      (g.rxq = [] → z.takeFrom cx (.node k) t = none) ∧
      (∀ x r, g.rxq = x :: r → z.takeFrom cx (.node k) t = none ∧ ¬ below (fld x.w3 0 10 ++ fld x.w2 2 30) ∨
        z.takeFrom cx (.node k) t = some (x, { z with gds := z.gds.upd k { g with rxq := r } }) ∧
          below (fld x.w3 0 10 ++ fld x.w2 2 30))) ∧
    (∀ m : Fin 4,
      let c := z.chans.at cx
      let b := c.mbs.at m
      let d := c.mdom m
      let without (q : List MbEntry) : State := { z with chans := z.chans.upd cx { c with mbs := c.mbs.upd m { b with q := q } } }
      let there (x : MbEntry) : Prop :=
        (x.vis = true ∨ (z.beryl.doms.at d).dueAt (x.time.setWidth 40) z.beryl.g = true) ∧ below (x.time.setWidth 40)
      (b.q = [] → z.takeFrom cx (.mbox m false) t = none) ∧
      (∀ x r, b.q = x :: r → z.takeFrom cx (.mbox m false) t = some
        ({ w0 := lo32 x.data, w1 := hi32 x.data, w2 := 0, w3 := 0 }, without r)) ∧
      ((∀ x ∈ b.q, ¬ there x) → z.takeFrom cx (.mbox m true) t = none) ∧
      (∀ l x r, b.q = l ++ x :: r → there x → (∀ y ∈ l, there y → notBefore x.time y.time = false) →
        (∀ y ∈ r, there y → notBefore y.time x.time = true) → z.takeFrom cx (.mbox m true) t = some
          ({ w0 := lo32 x.data, w1 := hi32 x.data, w2 := lo32 x.time,
             w3 := put 8 d.val ||| (x.time.extractLsb' 32 8).setWidth 32 }, without (l ++ r)))))

/-- R256, R312 to R317: the servo float group works on the bank of the channel, which the microtrap brings where another
channel's stands there. Each instruction writes its result, adds its IEEE flags to FC and marks the bank, or traps with ARITH
where a raised exception's trap is enabled; FREL gives the bank up. Readings and choices behind it: log entries 5 and 14. -/
def Obligations.MacroFloat : Prop :=
  (∀ (s z y : State) (n : Fin 16) (w : W32), z.floatOwn n = .done y →
    let q := y.seqs.at n
    let rm := fldN q.fctl 5 2
    let a := q.q.at (Fin.ofNat 16 (rsF w))
    let b := q.q.at (Fin.ofNat 16 (rtF w))
    let p : W64 := q.reg (rsF w + 1) ++ q.reg (rsF w)
    let pc := (z.seqs.at n).pc
    let next (u : Nat) (f : Seq → Seq) : Host.Outcome State Fault Refusal := .next (y.after n u (pc + 4) f)
    let flags (x : Fx) (q : Seq) : Seq := { q with
      fctl := q.fctl ||| x.word.setWidth 32, fownD := q.fownD || decide (q.fctl ||| x.word.setWidth 32 ≠ q.fctl) }
    let row (i : Instr) (m : Mn) (u : Nat) (x : Fx) (f : Seq → Seq) : Prop := s.At n m w z →
      ((∀ j, j < 5 → bit q.fctl (8 + j) = true → bit x.word j = false) → exec i s = next u fun q => f (flags x q)) ∧
      (∀ j, j < 5 → bit q.fctl (12 - j) = true → bit x.word (4 - j) = true →
        (∀ l, l < j → bit q.fctl (12 - l) = true → bit x.word (4 - l) = false) →
        exec i s = .next (y.trapsTo n 2 { code := 16, detail := 8 + j, tval := w }))
    let setQ (r : W64) (q : Seq) : Seq := { q with q := q.q.upd (Fin.ofNat 16 (rdF w)) r, fownD := true }
    let setP (r : W64) (q : Seq) : Seq := (q.setReg (rdF w) (lo32 r)).setReg (rdF w + 1) (hi32 r)
    let toQ (i : Instr) (m : Mn) (u : Nat) (r : W64 × Fx) : Prop := row i m u r.2 (setQ r.1)
    let toP (i : Instr) (m : Mn) (u : Nat) (r : W64 × Fx) : Prop := row i m u r.2 (setP r.1)
    toQ (.fadd n) .fadd 6 (fAdd rm a b) ∧ toQ (.fsub n) .fsub 6 (fSub rm a b) ∧ toQ (.fmul n) .fmul 7 (fMul rm a b) ∧
    toQ (.fdiv n) .fdiv 30 (fDiv rm a b) ∧ toQ (.fsqrt n) .fsqrt 32 (fSqrt rm a) ∧
    toQ (.fma n) .fma 9 (fFma rm a b (q.q.at (Fin.ofNat 16 (rdF w)))) ∧
    toQ (.fneg n) .fneg 3 (a ^^^ 0x8000000000000000, .none) ∧ toQ (.fabs n) .fabs 3 (a &&& 0x7FFFFFFFFFFFFFFF, .none) ∧
    toQ (.fmin n) .fmin 4 (fPick false a b) ∧ toQ (.fmax n) .fmax 4 (fPick true a b) ∧ toQ (.fcpy n) .fcpy 3 (a, .none) ∧
    toQ (.frint n) .frint 6 (fRint rm a) ∧ toQ (.fmvgq n) .fmvgq 3 (p, .none) ∧
    toQ (.fcvts n) .fcvts 5 (fOfInt rm p.toInt) ∧ toQ (.fcvtu n) .fcvtu 5 (fOfInt rm p.toNat) ∧
    toP (.fmvqg n) .fmvqg 3 (a, .none) ∧ toP (.ftos n) .ftos 6 (fToInt rm (-2 ^ 63) (2 ^ 63 - 1) a) ∧
    toP (.ftou n) .ftou 6 (fToInt rm 0 (2 ^ 64 - 1) a) ∧
    row (.fcmp n) .fcmp 4 (fCmp a b).2 (fun q => q.setFlags
      { n := (fCmp a b).1.1, z := (fCmp a b).1.2.1, c := (fCmp a b).1.2.2.1, v := (fCmp a b).1.2.2.2 }) ∧
    (let ea := q.reg (rsF w)
     let k := ea.toNat
     (s.At n .fld w z → memWindow k = true → k % 8 = 0 → k < 0x1400000 ∨ 0x1420000 ≤ k →
       y.refusal (y.seqReq n) false k 8 0 = none → k / 8 ∉ y.mem.unc → k / 8 ∉ y.mem.corr →
       exec (.fld n) s = next 4 (setQ (BitVec.ofNat 64 (y.mem.num k 8)))) ∧
     (s.At n .fst w z → memWindow k = true → k % 8 = 0 → y.refusal (y.seqReq n) true k 8 b.toNat = none →
       exec (.fst n) s = .next ((y.memWrite n.val k 8 b.toNat).after n 3 (pc + 4) id)) ∧
     (s.At n .fld w z → 0x1000000 ≤ k → k % 8 ≠ 0 →
       exec (.fld n) s = .next (y.trapsTo n 2 { code := 9, detail := 0, tval := ea })) ∧
     (s.At n .fst w z → 0x1000000 ≤ k → k % 8 ≠ 0 →
       exec (.fst n) s = .next (y.trapsTo n 2 { code := 9, detail := 0, tval := ea }))) ∧
    (s.At n .rdfc w z → exec (.rdfc n) s = next 2 fun x => x.setReg (rdF w) q.fctl) ∧
    (s.At n .wrfc w z → exec (.wrfc n) s = next 2 fun x => { x with
      fctl := (q.fctl &&& ~~~0x1F7F) ||| (q.reg (rsF w) &&& 0x1F7F), fownD := true })) ∧
  (∀ (s z : State) (n : Fin 16) (w : W32),
    let q := z.seqs.at n
    let own := q.fownV = true ∧ q.fownCh = q.cx
    (own → z.floatOwn n = .done z) ∧
    (∀ a y, q.fownV = false ∨ q.fownD = false → ¬ own → z.anchor n q.cx = (some a, y) → a.fv = false →
      z.floatOwn n = .done { y with seqs := y.seqs.upd n { q with
        q := Bank.fill 16 0, fctl := 0, fownV := true, fownD := false, fownCh := q.cx, uwcnt := q.uwcnt + 12 } }) ∧
    (s.At n .frel w z → ¬ own → exec (.frel n) s = .next (z.after n 2 (q.pc + 4) id)) ∧
    (s.At n .frel w z → own → q.fownD = false →
      exec (.frel n) s = .next (z.after n 2 (q.pc + 4) fun q => { q with fownV := false, fownD := false })) ∧
    (∀ y, s.At n .frel w z → own → q.fownD = true → z.floatSave n = .done y →
      exec (.frel n) s = .next (y.after n 2 (q.pc + 4) fun q => { q with fownV := false, fownD := false })))

/-- R318, R319, R324 to R328, R339, R340: YIELD and STOP request a switch. CUXN enters customer microcode at its entry: an entry
that is not valid and a secure one without the attribute trap; a microword of format REG with END writes its result and ends the
instruction; an illegal one stops the channel with UILLEGAL, recorded in CS_FAULT. A double-bit error at a fetch of the vendor
microcode that carries YIELD or STOP out stops the channel with CSECC (R323). An instruction of whose vendor microcode patch RAM
holds a word runs its microwords in place of its documented effect (R341; log entry 8 on the words of the ROM). Readings and
choices behind it: log entries 5 and 24. -/
def Obligations.MacroChannelAndMicrocode : Prop :=
  ∀ (s z : State) (n : Fin 16) (w : W32),
    let q := z.seqs.at n
    (s.At n .yield w z → exec (.yield n) s = .next (z.after n 2 (q.pc + 4) fun q => { q with swReq := true, yielded := true })) ∧
    (s.At n .stop w z → exec (.stop n) s = .next (z.after n 2 (q.pc + 4) fun q => { q with swReq := true, stopI := true })) ∧
    (∀ i m u, i = .yield n ∧ m = .yield ∨ i = .stop n ∧ m = .stop → s.runnable n = true → s.haltFree n (some w) = true →
      (s.fetch n).1 = .ok w → decodeMacro w = some m → s.begin_ n = (.cs u, z) →
      let y := ({ z with cs := { z.cs with
        fault := put 24 q.cx.val ||| put 20 4 ||| put 15 (seqCluster n).val ||| put 0 u,
        uncF := z.cs.uncF ||| BitVec.ofNat 4 (2 ^ (seqCluster n).val) } } : State).faultChan q.cx .csEcc
      let c := y.chans.at q.cx
      let d := if c.det = true then c.breached .ecc z.now else c
      exec i s = .next (({ y with chans := y.chans.upd q.cx d } : State).ran n)) ∧
    (∀ i m, s.runnable n = true → s.haltFree n (some w) = true → s.begin_ n = (.word w, z) → z.patched n (.instr w) = true →
      decodeMacro w = some m → (i, m) ∈ ([
       (.add n, .add), (.sub n, .sub), (.adc n, .adc), (.sbc n, .sbc), (.addt n, .addt), (.subt n, .subt), (.cmp n, .cmp),
       (.and n, .and), (.or n, .or), (.xor n, .xor), (.andn n, .andn), (.orn n, .orn), (.tst n, .tst), (.sll n, .sll),
       (.srl n, .srl), (.sra n, .sra), (.ror n, .ror), (.mul n, .mul), (.mulhu n, .mulhu), (.mulhs n, .mulhs), (.divu n, .divu),
       (.divs n, .divs), (.remu n, .remu), (.rems n, .rems), (.mins n, .mins), (.maxs n, .maxs), (.minu n, .minu),
       (.maxu n, .maxu), (.clz n, .clz), (.ctz n, .ctz), (.popc n, .popc), (.bswap n, .bswap), (.brev n, .brev),
       (.slts n, .slts), (.sltu n, .sltu), (.slli n, .slli), (.srli n, .srli), (.srai n, .srai), (.rori n, .rori),
       (.extu n, .extu), (.exts n, .exts), (.ins n, .ins), (.addi n, .addi), (.andi n, .andi), (.ori n, .ori), (.xori n, .xori),
       (.lui n, .lui), (.cmpi n, .cmpi), (.tsti n, .tsti), (.nop n, .nop), (.rds n, .rds), (.wrs n, .wrs), (.ldb n, .ldb),
       (.ldbu n, .ldbu), (.ldh n, .ldh), (.ldhu n, .ldhu), (.ldw n, .ldw), (.ldwu n, .ldwu), (.ldp n, .ldp), (.stb n, .stb),
       (.sth n, .sth), (.stw n, .stw), (.stwu n, .stwu), (.stp n, .stp), (.bcc n, .bcc), (.bz n, .bz), (.bnz n, .bnz),
       (.beq n, .beq), (.bne n, .bne), (.j n, .j), (.call n, .call), (.jr n, .jr), (.callr n, .callr), (.ret n, .ret),
       (.wopen n, .wopen), (.wclose n, .wclose), (.trap n, .trap), (.now n, .now), (.conv n, .conv), (.exp n, .exp),
       (.enql n, .enql), (.enqe n, .enqe), (.pushe n, .pushe), (.deq n, .deq), (.trydeq n, .trydeq), (.brecv n, .brecv),
       (.fire n, .fire), (.waite n, .waite), (.trye n, .trye), (.ll n, .ll), (.sc n, .sc), (.clrex n, .clrex), (.rdc n, .rdc),
       (.wrc n, .wrc), (.wspill n, .wspill), (.frel n, .frel), (.fadd n, .fadd), (.fsub n, .fsub), (.fmul n, .fmul),
       (.fdiv n, .fdiv), (.fsqrt n, .fsqrt), (.fma n, .fma), (.fneg n, .fneg), (.fabs n, .fabs), (.fmin n, .fmin),
       (.fmax n, .fmax), (.fcmp n, .fcmp), (.fcpy n, .fcpy), (.frint n, .frint), (.fmvgq n, .fmvgq), (.fmvqg n, .fmvqg),
       (.fcvts n, .fcvts), (.fcvtu n, .fcvtu), (.ftos n, .ftos), (.ftou n, .ftou), (.fld n, .fld), (.fst n, .fst),
       (.rdfc n, .rdfc), (.wrfc n, .wrfc), (.yield n, .yield), (.stop n, .stop), (.cuxn n, .cux) ] : List (Instr × Mn)) →
      exec i s = .next (((z.vendorRun n w).retire n w).ran n)) ∧
    (let k := seqCluster n
     let copy := z.cs.copies.at k
     let at_ := 0x6000 + fldN w 0 6
     let e := copy.word at_
     let start := fldN e 0 15
     let u := copy.word start
     let open_ := bit e 31 = true ∧ 0x6040 ≤ start ∧ start < 0x8000
     let m := Micro.entry w (q.pc + 4) start
     s.At n .cux w z → at_ ∉ copy.unc → at_ ∉ copy.corr →
     (¬ open_ → exec (.cuxn n) s = .next (z.trapsTo n 2 { code := 4, detail := 0, tval := w })) ∧
     (open_ → 48 ≤ fldN w 0 6 → bit q.stw 16 = false →
       exec (.cuxn n) s = .next (z.trapsTo n 2 { code := 5, detail := 0, tval := w })) ∧
     (open_ → fldN w 0 6 < 48 ∨ bit q.stw 16 = true → start ∉ copy.unc → start ∉ copy.corr → z.cs.maxUw ≠ 0 →
       (∀ op r, fldN u 29 3 = 0 → bit u 28 = true → regOp (fldN u 22 6) = some op → fldN u 0 4 = 0 → uD u < 62 → uA u < 62 →
         uB u < 62 → (op.unary = true → uB u = 0) → m.genReg (uD u) = some r →
         exec (.cuxn n) s = .next (z.after n 3 (q.pc + 4) fun x => x.setReg r
           (op.value (m.get q (uA u)) (if op.unary then 0 else m.get q (uB u)) false))) ∧
       (fldN u 29 3 = 7 → exec (.cuxn n) s = .next (((({ z with cs := { z.cs with
           fault := put 24 q.cx.val ||| put 20 1 ||| put 15 k.val ||| put 0 start } }).uw n 2).channelFault n .uIllegal).ran n))))

/-- R132, R133, R236, R259, R260, R266, R272, R293: TRAP, an illegal word and a fetch that fails trap. Taking a trap: the cause
and its value are noted, a window opens, its m0, m1 and m2 take the pc of the instruction, the cause and the value, and the pc
becomes TVEC, after 18 more microwords, where the vendor microcode of the entry meets no double-bit error; without a handler,
and on a double trap, the channel stops in FAULT instead. An uncorrectable error of a deterministic channel's own fetch or load
is a breach as well. Readings and choices behind it: log entries 5 and 7 and 8 and 16. -/
def Obligations.TakingATrap : Prop :=
  (∀ (s z : State) (n : Fin 16) (w : W32),
    (s.At n .trap w z → exec (.trap n) s = .next (z.trapsTo n 2 { code := 17, detail := fldN w 0 8, tval := w })) ∧
    (s.runnable n = true → s.haltFree n (some w) = true → s.begin_ n = (.word w, z) → z.patched n (.instr w) = false → decodeMacro w = none →
      exec (.illegalInstruction n) s = .next (z.trapsTo n 2 { code := 3, detail := 0, tval := w })) ∧
    (∀ t, s.runnable n = true → s.haltFree n none = true → s.fetch n = (.error t, z) →
      exec (.illegalInstruction n) s = .next (z.trapsTo n 2 t)) ∧
    (let pc := (s.seqs.at n).pc
     (pc.toNat % 4 ≠ 0 ∨ 0x80000 ≤ pc.toNat → s.fetch n = (.error { code := 2, detail := 0, tval := pc }, s)) ∧
     (pc.toNat % 4 = 0 → pc.toNat < 0x80000 → ∀ x y, s.lineOf (seqCluster n) (pc.toNat / 64) = (x, y) →
       s.fetch n = (if x.bad.contains (pc.toNat % 64 / 8) then .error { code := 1, detail := 0, tval := pc }
         else .ok (x.words.getD (pc.toNat % 64 / 4) 0), y)))) ∧
  (∀ (z : State) (n : Fin 16) (t : Trap) (u : Nat),
    let q := z.seqs.at n
    let y := z.trapsTo n u t
    let x := y.seqs.at n
    let cause : W32 := BitVec.ofNat 32 (t.code + 2 ^ 16 * t.detail)
    let last : W32 := put 24 q.cx.val ||| cause
    let b := if (t.code = 1 ∨ t.code = 11) ∧ (z.chans.at q.cx).det = true then z.breach q.cx .ecc else z
    let double := (z.chans.at q.cx).firstFetch = true ∧ (t.code = 1 ∨ t.code = 2)
    let clean := (z.cs.copies.at (seqCluster n)).unc = []
    let stops := y.chans = (b.faultChan q.cx .noHandler).chans
    t.code < 2 ^ 16 → t.detail < 2 ^ 16 →
    (¬ double → q.tvec ≠ 0 → clean → wvCount q.wv ≠ 7 →
      x.pc = q.tvec ∧ x.tcause = cause ∧ x.tval = t.tval ∧ x.reg 16 = q.pc ∧ x.reg 17 = cause ∧ x.reg 18 = t.tval ∧
      x.cw = winUp q.cw 1 ∧ (∀ j, j < 8 → x.reg j = q.reg j ∧ x.reg (8 + j) = q.reg (24 + j)) ∧
      x.uwcnt = q.uwcnt + BitVec.ofNat 32 u + 18 ∧ x.resv = none ∧ x.trapF = true ∧ x.ltpc = q.pc ∧ x.ltrap = last ∧
      x.ltval = t.tval ∧ x.stw = q.stw ∧ x.tvec = q.tvec ∧ y.mem = z.mem ∧
      y.chans = b.chans.upd q.cx { b.chans.at q.cx with firstFetch := true }) ∧
    (¬ double → q.tvec = 0 → x.tcause = cause ∧ x.tval = t.tval ∧ x.ltrap = last ∧ x.ltval = t.tval ∧ x.pc = q.pc ∧ stops) ∧
    (double → x.tcause = 0x80000000 ||| cause ∧ x.tval = t.tval ∧ x.ltrap = last ∧ x.ltval = t.tval ∧ x.pc = q.pc ∧ stops) ∧
    (∀ a s2, ¬ double → q.tvec ≠ 0 → clean → wvCount q.wv = 7 → z.anchor n q.cx = (some a, s2) → 255 ≤ a.spcnt →
      x.tcause = 0x8000000F ∧ x.tval = BitVec.ofNat 32 a.spcnt ∧ x.ltrap = (put 24 q.cx.val ||| 15) ∧
      x.ltval = BitVec.ofNat 32 a.spcnt ∧ x.pc = q.pc ∧ stops)) ∧
  (∀ (z : State) (c : Fin 256) (f : FCause),
    let x := z.chans.at c
    x.st = .run ∨ x.st = .ready ∨ x.st = .blocked ∨ x.st = .draining →
    ∃ q, z.faultChan c f = { z with seqs := q, chans := z.chans.upd c { x with st := .fault, faultF := true, fcause := f } } ∧
      q = if x.res then z.seqs.upd x.sq { z.seqs.at x.sq with swReq := true } else z.seqs) ∧
  (∀ (z : State) (c : Fin 256) (k : BreachCond),
    let x := z.chans.at c
    (x.st = .off → z.breach c k = z) ∧
    (x.st ≠ .off → z.breach c k = ({ z with chans := z.chans.upd c (if x.breach = none then
        { x with breach := some k, breachAt := z.now }
      else if x.breachAt = z.now ∧ ∃ b, x.breach = some b ∧ k.num < b.num then { x with breach := some k }
      else x) } : State).faultChan c .breach))
end

