-- ==== Sys2Proof/Laws/Bank.lean ====
section
/-! SUPPORT. Laws of banks: what reading one member after a change of one member gives. -/

namespace Sys2Proof

variable {α β : Type} {n : Nat}

@[simp] theorem Bank.at_upd_self (v : Bank α n) (i : Fin n) (x : α) : (v.upd i x).at i = x := by
  simp [Bank.at, Bank.upd]

@[simp] theorem Bank.at_upd_ne (v : Bank α n) {i j : Fin n} (x : α) (h : j ≠ i) : (v.upd i x).at j = v.at j := by
  have : i.val ≠ j.val := fun e => h (Fin.ext e.symm)
  simp [Bank.at, Bank.upd, this]

theorem Bank.at_upd (v : Bank α n) (i j : Fin n) (x : α) : (v.upd i x).at j = if j = i then x else v.at j := by
  obtain rfl | other := eq_or_ne j i <;> simp [*]

@[simp] theorem Bank.at_mod_self (v : Bank α n) (i : Fin n) (f : α → α) : (v.mod i f).at i = f (v.at i) := by
  simp [Bank.mod]

@[simp] theorem Bank.at_mod_ne (v : Bank α n) {i j : Fin n} (f : α → α) (h : j ≠ i) : (v.mod i f).at j = v.at j := by
  simp [Bank.mod, h]

theorem Bank.at_mod (v : Bank α n) (i j : Fin n) (f : α → α) :
    (v.mod i f).at j = if j = i then f (v.at j) else v.at j := by
  obtain rfl | other := eq_or_ne j i <;> simp [*]

@[simp] theorem Bank.at_fill (x : α) (i : Fin n) : (Bank.fill n x).at i = x := by
  simp [Bank.at, Bank.fill]

@[simp] theorem Bank.at_map (v : Bank α n) (f : α → β) (i : Fin n) : Bank.at (Vector.map f v) i = f (v.at i) := by
  simp [Bank.at]

@[simp] theorem Bank.at_ofFn (f : Fin n → α) (i : Fin n) : Bank.at (Vector.ofFn f) i = f i := by
  simp [Bank.at]

theorem Bank.ext {v w : Bank α n} (h : ∀ i, v.at i = w.at i) : v = w := by
  apply Vector.ext
  intro i hi
  exact h ⟨i, hi⟩

@[simp] theorem Bank.upd_at (v : Bank α n) (i : Fin n) : v.upd i (v.at i) = v :=
  Bank.ext fun j => by simp only [Bank.at_upd]; split_ifs <;> simp_all

@[simp] theorem Bank.upd_upd (v : Bank α n) (i : Fin n) (x y : α) : (v.upd i x).upd i y = v.upd i y :=
  Bank.ext fun j => by simp only [Bank.at_upd]; split_ifs <;> rfl

theorem Bank.mod_eq (v : Bank α n) (i : Fin n) (f : α → α) : v.mod i f = v.upd i (f (v.at i)) := rfl

end Sys2Proof
end

