-- ==== Sys2Proof/Laws/Sparse.lean ====
section
/-! SUPPORT. Laws of sparse lists: reading after a write, and that a write keeps the canonical form. -/

namespace Sys2Proof

variable {α : Type} [DecidableEq α]

/-- Every key of the list lies above `k`. -/
def keysAbove (k : Nat) : List (Nat × α) → Prop
  | [] => True
  | (a, _) :: _ => k < a

theorem sparseWf_cons (d : α) (a : Nat) (v : α) (r : List (Nat × α)) :
    sparseWf d ((a, v) :: r) = true ↔ v ≠ d ∧ keysAbove a r ∧ sparseWf d r = true := by
  cases r with
  | nil => simp [sparseWf, keysAbove]
  | cons p r => obtain ⟨b, w⟩ := p; simp [sparseWf, keysAbove, and_assoc]

omit [DecidableEq α] in
theorem keysAbove_mono {j k : Nat} (below : j ≤ k) : ∀ l : List (Nat × α), keysAbove k l → keysAbove j l
  | [], _ => trivial
  | _ :: _, above => Nat.lt_of_le_of_lt below above

omit [DecidableEq α] in
theorem sparseGet_above (d : α) {k : Nat} : ∀ l : List (Nat × α), keysAbove k l → sparseGet d l k = d
  | [], _ => rfl
  | (a, _) :: _, above => by
    have : k < a := above
    simp [sparseGet, this, Nat.ne_of_gt this]

theorem keysAbove_sparseDel {d : α} {j k : Nat} (l : List (Nat × α)) (hw : sparseWf d l = true) (h : keysAbove j l) :
    keysAbove j (sparseDel l k) := by
  match l with
  | [] => trivial
  | (a, v) :: r =>
    simp only [sparseDel]
    split_ifs
    exacts [keysAbove_mono (Nat.le_of_lt h) r ((sparseWf_cons d a v r).1 hw).2.1, h, h]

theorem sparseWf_sparseDel {d : α} (l : List (Nat × α)) (k : Nat) (hw : sparseWf d l = true) :
    sparseWf d (sparseDel l k) = true := by
  fun_induction sparseDel l k with
  | case1 => rfl
  | case2 r v _ => exact ((sparseWf_cons ..).1 hw).2.2
  | case3 => exact hw
  | case4 a v r _ _ _ rest =>
    obtain ⟨own, above, below⟩ := (sparseWf_cons ..).1 hw
    exact (sparseWf_cons ..).2 ⟨own, keysAbove_sparseDel r below above, rest below⟩

omit [DecidableEq α] in
theorem keysAbove_sparseIns {j k : Nat} {x : α} (l : List (Nat × α)) (hk : j < k) (h : keysAbove j l) :
    keysAbove j (sparseIns l k x) := by
  match l with
  | [] => exact hk
  | (a, v) :: r =>
    simp only [sparseIns]
    split_ifs
    exacts [hk, hk, h]

theorem sparseWf_sparseIns {d : α} (l : List (Nat × α)) (k : Nat) {x : α} (hx : x ≠ d) (hw : sparseWf d l = true) :
    sparseWf d (sparseIns l k x) = true := by
  fun_induction sparseIns l k x with
  | case1 => simpa [sparseWf] using hx
  | case2 => exact (sparseWf_cons ..).2 ⟨hx, ((sparseWf_cons ..).1 hw).2⟩
  | case3 => exact (sparseWf_cons ..).2 ⟨hx, by assumption, hw⟩
  | case4 a v r _ _ _ _ rest =>
    obtain ⟨own, above, below⟩ := (sparseWf_cons ..).1 hw
    exact (sparseWf_cons ..).2 ⟨own, keysAbove_sparseIns r (by omega) above, rest hx below⟩

/-- A write keeps the canonical form. -/
theorem sparseWf_sparseSet {d : α} (l : List (Nat × α)) (k : Nat) (x : α) (hw : sparseWf d l = true) :
    sparseWf d (sparseSet d l k x) = true := by
  unfold sparseSet
  split
  · exact sparseWf_sparseDel l k hw
  · next h => exact sparseWf_sparseIns l k h hw

theorem keysAbove_filter {d : α} {j : Nat} (p : Nat × α → Bool) (l : List (Nat × α)) (hw : sparseWf d l = true)
    (h : keysAbove j l) : keysAbove j (l.filter p) := by
  match l with
  | [] => trivial
  | (a, v) :: r =>
    obtain ⟨-, above, below⟩ := (sparseWf_cons ..).1 hw
    rw [List.filter_cons]
    split_ifs
    exacts [h, keysAbove_filter p r below (keysAbove_mono (Nat.le_of_lt h) r above)]

/-- Taking entries away keeps the canonical form. -/
theorem sparseWf_filter {d : α} (p : Nat × α → Bool) (l : List (Nat × α)) (hw : sparseWf d l = true) :
    sparseWf d (l.filter p) = true := by
  match l with
  | [] => rfl
  | (a, v) :: r =>
    obtain ⟨own, above, below⟩ := (sparseWf_cons ..).1 hw
    rw [List.filter_cons]
    split_ifs
    exacts [(sparseWf_cons ..).2 ⟨own, keysAbove_filter p r below above, sparseWf_filter p r below⟩, sparseWf_filter p r below]

/-- A canonical list reads as its first entry at that key and as the rest elsewhere. -/
theorem sparseGet_cons {d : α} {a : Nat} {v : α} {r : List (Nat × α)} (hw : sparseWf d ((a, v) :: r) = true) (j : Nat) :
    sparseGet d ((a, v) :: r) j = if a = j then v else sparseGet d r j := by
  simp only [sparseGet]
  split_ifs with _ before
  exacts [rfl, (sparseGet_above d r (keysAbove_mono (Nat.le_of_lt before) r ((sparseWf_cons ..).1 hw).2.1)).symm, rfl]

theorem sparseGet_sparseDel {d : α} (l : List (Nat × α)) (k j : Nat) (hw : sparseWf d l = true) :
    sparseGet d (sparseDel l k) j = if j = k then d else sparseGet d l j := by
  have kept := sparseWf_sparseDel l k hw
  fun_induction sparseDel l k with
  | case1 => simp [sparseGet]
  | case2 =>
    rw [sparseGet_cons hw]
    split_ifs with at_ own own
    exacts [sparseGet_above d _ (at_ ▸ ((sparseWf_cons ..).1 hw).2.1), absurd own.symm at_, rfl]
  | case3 a v r k other before =>
    split_ifs with at_
    exacts [by simp [at_, sparseGet, other, before], rfl]
  | case4 a v r k other _ rest =>
    rw [sparseGet_cons kept, sparseGet_cons hw, rest ((sparseWf_cons ..).1 hw).2.2 ((sparseWf_cons ..).1 kept).2.2]
    split_ifs with own at_ at_
    exacts [absurd (own.trans at_) other, rfl, rfl, rfl]

theorem sparseGet_sparseIns {d : α} (l : List (Nat × α)) (k j : Nat) (x : α) (hx : x ≠ d) (hw : sparseWf d l = true) :
    sparseGet d (sparseIns l k x) j = if j = k then x else sparseGet d l j := by
  have kept := sparseWf_sparseIns l k hx hw
  simp only [eq_comm (a := j)]
  fun_induction sparseIns l k x with
  | case1 => exact sparseGet_cons kept j
  | case2 => rw [sparseGet_cons kept, sparseGet_cons hw]; split_ifs <;> rfl
  | case3 => exact sparseGet_cons kept j
  | case4 a v r k x other _ rest =>
    rw [sparseGet_cons kept, sparseGet_cons hw, rest hx ((sparseWf_cons ..).1 hw).2.2 ((sparseWf_cons ..).1 kept).2.2]
    split_ifs with own at_ at_
    exacts [absurd (own.trans at_.symm) other, rfl, rfl, rfl]

/-- A read after a write. -/
theorem sparseGet_sparseSet {d : α} (l : List (Nat × α)) (k j : Nat) (x : α) (hw : sparseWf d l = true) :
    sparseGet d (sparseSet d l k x) j = if j = k then x else sparseGet d l j := by
  unfold sparseSet
  split
  · next blank => rw [sparseGet_sparseDel l k j hw, blank]
  · next listed => exact sparseGet_sparseIns l k j x listed hw

end Sys2Proof
end

