-- ==== Sys2Proof/Laws/Memory.lean ====
section
/-! SUPPORT. Laws of the memories: every operation keeps the canonical form, and what a byte reads as after it. -/

namespace Sys2Proof.Machine

/-! Bytes. -/

theorem Mem.byte_setByte (m : Mem) (a b : Nat) (v : Byte) (h : Memory.wf m = true) :
    (m.setByte a v).byte b = if b = a then v else m.byte b := by
  simpa [Mem.byte, Mem.setByte] using sparseGet_sparseSet (d := Mem.blank) m.cells a b v h

theorem Mem.setByte_wf (m : Mem) (a : Nat) (v : Byte) (h : Memory.wf m = true) : Memory.wf (m.setByte a v) = true :=
  sparseWf_sparseSet m.cells a v h

theorem Mem.setNum_wf : ∀ (n : Nat) (m : Mem) (a v : Nat), Memory.wf m = true → Memory.wf (m.setNum a n v) = true
  | 0, _, _, _, wf => wf
  | n + 1, m, a, v, wf => Mem.setNum_wf n (m.setByte a (BitVec.ofNat 8 v)) (a + 1) (v / 256) (m.setByte_wf a _ wf)

/-- Everything that a write of `n` bytes does to the bytes. -/
theorem Mem.byte_setNum (n : Nat) : ∀ (m : Mem) (a v b : Nat), Memory.wf m = true →
    (m.setNum a n v).byte b = if a ≤ b ∧ b < a + n then BitVec.ofNat 8 (v / 256 ^ (b - a)) else m.byte b := by
  induction n with
  | zero => intro m a v b h; simp [Mem.setNum]
  | succ n ih =>
    intro m a v b h
    rw [Mem.setNum, ih _ _ _ _ (m.setByte_wf a _ h), m.byte_setByte a b _ h]
    by_cases e : b = a
    · subst e; simp
    · by_cases g : a ≤ b ∧ b < a + (n + 1)
      · have : a + 1 ≤ b ∧ b < a + 1 + n := by omega
        rw [if_pos this, if_pos g, Nat.div_div_eq_div_mul, ← Nat.pow_succ']
        congr 3; omega
      · have : ¬ (a + 1 ≤ b ∧ b < a + 1 + n) := by omega
        rw [if_neg this, if_neg g, if_neg e]

/-- A write changes the listed bytes and nothing else of the memory. -/
theorem Mem.setNum_frame (n : Nat) : ∀ (m : Mem) (a v : Nat), ∃ c, m.setNum a n v = { m with cells := c } := by
  induction n with
  | zero => exact fun m a v => ⟨m.cells, rfl⟩
  | succ n ih =>
    intro m a v
    obtain ⟨c, h⟩ := ih (m.setByte a (BitVec.ofNat 8 v)) (a + 1) (v / 256)
    exact ⟨c, h⟩

/-- A number is fixed by its bytes. -/
theorem Mem.num_congr (n : Nat) : ∀ (m k : Mem) (a : Nat), (∀ b, a ≤ b → b < a + n → m.byte b = k.byte b) →
    m.num a n = k.num a n := by
  induction n with
  | zero => exact fun m k a h => rfl
  | succ n ih =>
    intro m k a h
    rw [Mem.num, Mem.num, h a (Nat.le_refl a) (by omega), ih m k (a + 1) fun b h1 h2 => h b (by omega) (by omega)]

/-! Error records leave the bytes. -/

@[simp] theorem State.arrayUnc_cells (s : State) (r : Option Nat) (a : Nat) : (s.arrayUnc r a).mem.cells = s.mem.cells := rfl

/-- An uncorrectable error in a register array changes its record and draws free values. -/
theorem State.arrayUnc_frame (s : State) (r : Option Nat) (a : Nat) :
    ∃ x, s.arrayUnc r a = { s with free := s.free + 7, mem := { s.mem with uncRec := x } } := ⟨_, rfl⟩

@[simp] theorem Mem.noteUnc_cells (m : Mem) (req w : Nat) : (m.noteUnc req w).cells = m.cells := rfl

@[simp] theorem Mem.noteCorr_cells (m : Mem) (w : Nat) : (m.noteCorr w).cells = m.cells := by
  unfold Mem.noteCorr; split <;> rfl

@[simp] theorem Mem.check_cells (m : Mem) (req w : Nat) : (m.check req w).2.cells = m.cells := by
  unfold Mem.check; split
  · rfl
  · split <;> simp

@[simp] theorem Mem.read_cells (m : Mem) (req a n : Nat) : (m.read req a n).2.cells = m.cells := by
  simp [Mem.read]

@[simp] theorem Mem.collide_cells (m : Mem) (x : PortA) (ch : Fin 128) (w : Bool) : (m.collide x ch w).cells = m.cells := rfl

/-- Two memories with the same listed bytes. -/
theorem Memory.wf_congr {m k : Mem} (h : m.cells = k.cells) : Memory.wf m = Memory.wf k := by
  simp [Memory.wf, h]

/-! Reads and writes. -/

theorem Mem.read_wf (m : Mem) (req a n : Nat) (h : Memory.wf m = true) : Memory.wf (m.read req a n).2 = true := by
  rwa [Memory.wf_congr (m.read_cells req a n)]

theorem Mem.write_wf (m : Mem) (req a n v : Nat) (h : Memory.wf m = true) : Memory.wf (m.write req a n v) = true := by
  unfold Mem.write
  split
  · exact Mem.setNum_wf _ _ _ _ h
  · exact Mem.setNum_wf _ _ _ _ (by rwa [Memory.wf_congr (m.check_cells req (a / 8))])

theorem Mem.collide_wf (m : Mem) (x : PortA) (ch : Fin 128) (w : Bool) (h : Memory.wf m = true) :
    Memory.wf (m.collide x ch w) = true := h

theorem Mem.wipe_wf (m : Mem) (k : Nat) (h : Memory.wf m = true) : Memory.wf (m.wipe k) = true :=
  sparseWf_filter _ m.cells h

theorem Mem.zero_wf (m : Mem) (ks : List (Fin 4)) (h : Memory.wf m = true) : Memory.wf (m.zero ks) = true :=
  sparseWf_filter _ m.cells h

theorem State.reset_mem_wf : Memory.wf State.reset.mem = true := rfl

/-- A read of memory changes the error records alone. -/
theorem State.memRead_frame (s : State) (req a n : Nat) :
    (s.memRead req a n).2 = { s with mem := (s.mem.read req a n).2 } := rfl

theorem State.memRead_wf (s : State) (req a n : Nat) (h : Memory.wf s.mem = true) :
    Memory.wf (s.memRead req a n).2.mem = true := s.mem.read_wf req a n h

/-- A write of memory changes the memory and the reservations alone. -/
theorem State.memWrite_frame (s : State) (req a n v : Nat) :
    ∃ q, s.memWrite req a n v = { s with mem := s.mem.write req a n v, seqs := q } := ⟨_, rfl⟩

@[simp] theorem State.memWrite_mem (s : State) (req a n v : Nat) : (s.memWrite req a n v).mem = s.mem.write req a n v := rfl

theorem State.memWrite_wf (s : State) (req a n v : Nat) (h : Memory.wf s.mem = true) :
    Memory.wf (s.memWrite req a n v).mem = true := s.mem.write_wf req a n v h

/-- What a read of memory by an access can do: it answers with an error record changed, or with free values drawn. -/
theorem State.memLoad_frame (s : State) (req a n : Nat) :
    ∃ m k, (s.memLoad req a n).2 = { s with mem := m, free := k } ∧ m.cells = s.mem.cells := by
  unfold State.memLoad
  split
  · exact ⟨_, s.free + 2, rfl, s.mem.check_cells req (a / 8)⟩
  · exact ⟨_, s.free, rfl, s.mem.read_cells req a n⟩

theorem State.memLoad_wf (s : State) (req a n : Nat) (h : Memory.wf s.mem = true) :
    Memory.wf (s.memLoad req a n).2.mem = true := by
  obtain ⟨m, k, e, c⟩ := s.memLoad_frame req a n
  rw [e, Memory.wf_congr (k := s.mem) c]; exact h

/-! Context memory. -/

theorem State.ctxWrite_frame (s : State) (n : Fin 16) (a : Nat) (l : List W32) :
    ∃ m q, s.ctxWrite n a l = { s with mem := m, seqs := q } := by
  fun_induction State.ctxWrite s n a l with
  | case1 s a x y r ih => obtain ⟨m, q, h⟩ := ih; exact ⟨m, q, h⟩
  | case2 s a x => exact ⟨_, _, rfl⟩
  | case3 s a => exact ⟨s.mem, s.seqs, rfl⟩

theorem State.ctxWrite_wf (s : State) (n : Fin 16) (a : Nat) (l : List W32) (h : Memory.wf s.mem = true) :
    Memory.wf (s.ctxWrite n a l).mem = true := by
  fun_induction State.ctxWrite s n a l with
  | case1 s a x y r ih => exact ih (s.memWrite_wf _ _ _ _ h)
  | case2 s a x => exact s.memWrite_wf _ _ _ _ h
  | case3 s a => exact h

/-- A read of context memory changes the error records alone. -/
theorem State.ctxRead_frame (s : State) (n : Fin 16) (a k : Nat) :
    ∃ m, (s.ctxRead n a k).2 = { s with mem := m } ∧ m.cells = s.mem.cells := by
  induction k generalizing s a with
  | zero => exact ⟨s.mem, rfl, rfl⟩
  | succ k ih =>
    have h0 := s.memRead_frame n.val a 8
    have hc := s.mem.read_cells n.val a 8
    unfold State.ctxRead
    split
    · next lost => exact ⟨_, (congrArg Prod.snd lost).symm.trans h0, hc⟩
    · next got =>
      obtain rfl := (congrArg Prod.snd got).symm.trans h0
      obtain ⟨m, e, c⟩ := ih { s with mem := (s.mem.read n.val a 8).2 } (a + 8)
      split
      all_goals next read => exact ⟨m, (congrArg Prod.snd read).symm.trans e, c.trans hc⟩

theorem State.ctxRead_wf (s : State) (n : Fin 16) (a k : Nat) (h : Memory.wf s.mem = true) :
    Memory.wf (s.ctxRead n a k).2.mem = true := by
  obtain ⟨m, e, c⟩ := s.ctxRead_frame n a k
  rw [e, Memory.wf_congr (k := s.mem) c]; exact h

theorem State.anchor_frame (s : State) (n : Fin 16) (c : Fin 256) :
    ∃ m, (s.anchor n c).2 = { s with mem := m } ∧ m.cells = s.mem.cells := by
  have := s.ctxRead_frame n (descAddr c + 48) 1
  unfold State.anchor
  split <;> rename_i h <;> rw [h] at this <;> exact this

theorem State.setAnchor_wf (s : State) (n : Fin 16) (c : Fin 256) (x : Anchor) (h : Memory.wf s.mem = true) :
    Memory.wf (s.setAnchor n c x).mem = true := s.ctxWrite_wf n _ _ h

end Sys2Proof.Machine
end

