-- ==== Sys2Proof/Laws/Access.lean ====
section
/-! SUPPORT. What an access to the block can do: a refusal, a register, or memory. -/

namespace Sys2Proof.Machine

/-- A refused write does what a refusal leaves. -/
theorem State.busWrite_refused {s : State} {q : Req} {a n v : Nat} {c : Cause} (h : s.refusal q true a n v = some c) :
    s.busWrite q a n v = (some c, s.refused true a c) := by simp [State.busWrite, h]

/-- A permitted write of a register. -/
theorem State.busWrite_reg {s : State} {q : Req} {a n v : Nat} (h : s.refusal q true a n v = none)
    (m : memWindow a = false) : s.busWrite q a n v = (none, s.regWrite q a (hwWins a (BitVec.ofNat 32 v) q.hw)) := by
  simp [State.busWrite, h, m]

/-- A permitted write of memory. -/
theorem State.busWrite_mem {s : State} {q : Req} {a n v : Nat} (h : s.refusal q true a n v = none)
    (m : memWindow a = true) : s.busWrite q a n v = (none, s.memWrite q.who.memReq a n v) := by
  simp [State.busWrite, h, m]

/-- A refused read. -/
theorem State.busRead_refused {s : State} {q : Req} {a n : Nat} {c : Cause} (h : s.refusal q false a n 0 = some c) :
    s.busRead q a n = (.error c, s.refused false a c) := by simp [State.busRead, h]

/-- A permitted read of a register without an error. -/
theorem State.busRead_reg {s : State} {q : Req} {a n : Nat} (h : s.refusal q false a n 0 = none)
    (m : memWindow a = false) (e : s.regEcc a = false) :
    s.busRead q a n = (.ok (s.regRead q a).1.toNat, (s.regRead q a).2) := by
  simp [State.busRead, h, m, e]

/-- A permitted read of a register that meets an uncorrectable error. -/
theorem State.busRead_regEcc {s : State} {q : Req} {a n : Nat} (h : s.refusal q false a n 0 = none)
    (m : memWindow a = false) (e : s.regEcc a = true) :
    s.busRead q a n = (.error .ecc, s.regUnc (some q.who.memReq) a) := by
  simp [State.busRead, h, m, e]

/-- A permitted read of memory. -/
theorem State.busRead_mem {s s1 : State} {q : Req} {a n v : Nat} (h : s.refusal q false a n 0 = none)
    (m : memWindow a = true) (l : s.memLoad q.who.memReq a n = (some v, s1)) : s.busRead q a n = (.ok v, s1) := by
  simp [State.busRead, h, m, l]

/-- A permitted read of memory that meets an uncorrectable error. -/
theorem State.busRead_memEcc {s s1 : State} {q : Req} {a n : Nat} (h : s.refusal q false a n 0 = none)
    (m : memWindow a = true) (l : s.memLoad q.who.memReq a n = (none, s1)) : s.busRead q a n = (.error .ecc, s1) := by
  simp [State.busRead, h, m, l]

/-- What a refusal leaves is the count of R528, the mark of R342, or nothing. -/
theorem State.refused_frame (s : State) (wr : Bool) (a : Nat) (c : Cause) :
    ∃ p k, s.refused wr a c = { s with power := p, cs := k } := by
  unfold State.refused
  split
  · exact ⟨_, s.cs, rfl⟩
  · split
    · exact ⟨s.power, _, rfl⟩
    · exact ⟨s.power, s.cs, rfl⟩

/-- Time alone changes: nothing but Beryl's count. -/
theorem State.advance_frame (s : State) (t : Instant) : ∃ b, s.advance t = { s with beryl := b } := by
  unfold State.advance; split
  · exact ⟨_, rfl⟩
  · exact ⟨s.beryl, rfl⟩

/-- What is kept of Spinel's registers before the writes of a ns changes nothing else. -/
theorem State.snMark_frame (s : State) : ∃ w, s.snMark = { s with sn := { s.sn with was := w } } := by
  unfold State.snMark
  split
  · exact ⟨s.sn.was, rfl⟩
  · exact ⟨_, rfl⟩

/-- A fault of a channel changes the channel and a switch request alone. -/
theorem State.faultChan_frame (s : State) (c : Fin 256) (f : FCause) :
    ∃ h q, s.faultChan c f = { s with chans := h, seqs := q } := by
  unfold State.faultChan; dsimp only
  split
  case h_5 => exact ⟨_, s.seqs, rfl⟩
  case h_6 => exact ⟨s.chans, s.seqs, rfl⟩
  all_goals split <;> exact ⟨_, _, rfl⟩

/-- A breach changes the channel and a switch request alone. -/
theorem State.breach_frame (s : State) (c : Fin 256) (b : BreachCond) :
    ∃ h q, s.breach c b = { s with chans := h, seqs := q } := by
  unfold State.breach; dsimp only
  split
  · exact ⟨s.chans, s.seqs, rfl⟩
  · obtain ⟨h, q, e⟩ := State.faultChan_frame
      { s with chans := s.chans.upd c ((s.chans.at c).breached b s.now) } c .breach
    exact ⟨h, q, e⟩

end Sys2Proof.Machine
end

