-- ==== Sys2Proof/Laws/Changes.lean ====
section
/-! SUPPORT. What an operation can change: the parts of the state that it may write, that it keeps the commands that wait, the
canonical forms of the invariant and the bound of the requests without a response. Each operation has one lemma of this form in the files
named Laws/Changes. -/

namespace Sys2Proof.Machine

/-- The parts of the state. -/
inductive Part where
  | beryl | lanes | hp | xf | key | power | bat | chans | posts | seqs | ibufs | pool | mem | engines | groups | streams | crcs | bss | lcs | gds | abs_ | sn | ta | eic | cs | sec | vault | dbg | cw | free
  deriving DecidableEq, Repr

/-- Part `p` of `t` is that of `s`. -/
def Part.Same (s t : State) : Part → Prop
  | .beryl => t.beryl = s.beryl
  | .lanes => t.lanes = s.lanes
  | .hp => t.hp = s.hp
  | .xf => t.xf = s.xf
  | .key => t.key = s.key
  | .power => t.power = s.power
  | .bat => t.bat = s.bat
  | .chans => t.chans = s.chans
  | .posts => t.posts = s.posts
  | .seqs => t.seqs = s.seqs
  | .ibufs => t.ibufs = s.ibufs
  | .pool => t.pool = s.pool
  | .mem => t.mem = s.mem
  | .engines => t.engines = s.engines
  | .groups => t.groups = s.groups
  | .streams => t.streams = s.streams
  | .crcs => t.crcs = s.crcs
  | .bss => t.bss = s.bss
  | .lcs => t.lcs = s.lcs
  | .gds => t.gds = s.gds
  | .abs_ => t.abs_ = s.abs_
  | .sn => t.sn = s.sn
  | .ta => t.ta = s.ta
  | .eic => t.eic = s.eic
  | .cs => t.cs = s.cs
  | .sec => t.sec = s.sec
  | .vault => t.vault = s.vault
  | .dbg => t.dbg = s.dbg
  | .cw => t.cw = s.cw
  | .free => t.free = s.free

/-- The invariant but for the bound of the requests without a response. -/
structure State.Forms (s : State) : Prop where
  mem : Memory.wf s.mem = true
  prog : ∀ g, sparseWf 0 (s.groups.at g).prog = true
  store : ∀ k, sparseWf 0 (s.cs.copies.at k).words = true
  bufs : ∀ x, sparseWf 0 (s.gds.at x).bufs = true
  rbw : ∀ k, sparseWf 0 (s.abs_.at k).rbw = true
  counts : sparseWf [] s.sn.counts = true
  rsp : s.cw.rsp.length ≤ 8

/-- From `s` to `t` nothing but the parts of the list changes, the waiting commands stay, the forms of the invariant are kept,
and no more requests are without a transferred response than before. -/
structure State.Changes (l : List Part) (s t : State) : Prop where
  same : ∀ p, l.contains p = false → p.Same s t
  pending : t.pending = s.pending
  forms : s.Forms → t.Forms
  waits : t.hp.reqs.length + t.hp.resps.length ≤ s.hp.reqs.length + s.hp.resps.length

theorem Part.Same.refl (s : State) (p : Part) : p.Same s s := by cases p <;> rfl

theorem Part.Same.trans {s z t : State} {p : Part} (h : p.Same s z) (k : p.Same z t) : p.Same s t := by
  cases p <;> exact Eq.trans k h

theorem State.Changes.refl (l : List Part) (s : State) : State.Changes l s s :=
  ⟨fun p _ => .refl s p, rfl, id, Nat.le_refl _⟩

theorem State.Changes.trans {l : List Part} {s z t : State} (h : State.Changes l s z) (k : State.Changes l z t) :
    State.Changes l s t :=
  ⟨fun p hp => (h.same p hp).trans (k.same p hp), k.pending.trans h.pending, fun f => k.forms (h.forms f),
    Nat.le_trans k.waits h.waits⟩

theorem State.Changes.mono {l m : List Part} {s t : State} (h : State.Changes l s t) (sub : l.all m.contains = true) :
    State.Changes m s t := by
  refine ⟨fun p hp => h.same p ?_, h.pending, h.forms, h.waits⟩
  cases hl : l.contains p with
  | false => rfl
  | true =>
    rw [List.all_eq_true] at sub
    have := sub p (by simpa using hl)
    rw [this] at hp
    exact absurd hp (by simp)

/-- An operation after others. -/
theorem State.Changes.step {l m : List Part} {s z t : State} (h : State.Changes l s z) (k : State.Changes m z t)
    (sub : m.all l.contains = true) : State.Changes l s t := h.trans (k.mono sub)

/-- The state of a pair. -/
theorem State.Changes.snd {α : Type} {l m : List Part} {s y z : State} {f : α × State} {x : α} (e : f = (x, z))
    (k : State.Changes m y f.2) (sub : m.all l.contains = true) (h : State.Changes l s y) : State.Changes l s z := by
  subst e; exact h.step k sub

theorem State.Changes.fst {α : Type} {l m : List Part} {s y z : State} {f : State × α} {x : α} (e : f = (z, x))
    (k : State.Changes m y f.1) (sub : m.all l.contains = true) (h : State.Changes l s y) : State.Changes l s z := by
  subst e; exact h.step k sub

/-- A change up to the state of a pair, where the pair is known. -/
theorem State.Changes.atPair {α : Type} {l : List Part} {s z : State} {f : α × State} {x : α}
    (h : State.Changes l s f.2) (e : f = (x, z)) : State.Changes l s z := by subst e; exact h

theorem State.Changes.atFst {α : Type} {l : List Part} {s z : State} {f : State × α} {x : α}
    (h : State.Changes l s f.1) (e : f = (z, x)) : State.Changes l s z := by subst e; exact h

theorem State.Changes.foldl {α : Type} {l : List Part} {s y : State} {f : State → α → State} {x : List α}
    (h : State.Changes l s y) (k : ∀ z a, State.Changes l z (f z a)) : State.Changes l s (x.foldl f y) :=
  List.foldlRecOn x f h fun z hz a _ => hz.trans (k z a)

/-- What a change outside the list leaves, as the state with the parts of the list. -/
theorem State.Changes.eq {l : List Part} {s t : State} (h : State.Changes l s t) (p : Part) (n : l.contains p = false) :
    p.Same s t := h.same p n

/-- The invariant is kept. -/
theorem State.Changes.inv {l : List Part} {s t : State} (h : State.Changes l s t) (i : s.Inv) : t.Inv := by
  obtain ⟨a, b, c, d, e, f, g⟩ := h.forms ⟨i.mem, i.prog, i.store, i.bufs, i.rbw, i.counts, i.rsp⟩
  exact ⟨a, b, c, d, e, f, g, Nat.le_trans h.waits i.hp⟩

/-! Updates of one part. -/

def State.set_beryl (z : State) (v : Beryl) : State := { z with beryl := v }

theorem State.set_beryl_eq (z : State) (v : Beryl) : z.set_beryl v = { z with beryl := v } := rfl

theorem State.Changes.beryl {l : List Part} {s z : State} {v} (h : State.Changes l s z) (n : l.contains .beryl = true) :
    State.Changes l s (z.set_beryl v) := by
  refine ⟨fun p hp => ?_, h.pending, fun g => let f := h.forms g; ⟨f.mem, f.prog, f.store, f.bufs, f.rbw, f.counts, f.rsp⟩, h.waits⟩
  cases p <;> first | exact absurd (n.symm.trans hp) (by simp) | exact h.same _ hp

def State.set_lanes (z : State) (v : Bank Lane 256) : State := { z with lanes := v }

theorem State.set_lanes_eq (z : State) (v : Bank Lane 256) : z.set_lanes v = { z with lanes := v } := rfl

theorem State.Changes.lanes {l : List Part} {s z : State} {v} (h : State.Changes l s z) (n : l.contains .lanes = true) :
    State.Changes l s (z.set_lanes v) := by
  refine ⟨fun p hp => ?_, h.pending, fun g => let f := h.forms g; ⟨f.mem, f.prog, f.store, f.bufs, f.rbw, f.counts, f.rsp⟩, h.waits⟩
  cases p <;> first | exact absurd (n.symm.trans hp) (by simp) | exact h.same _ hp

def State.set_hp (z : State) (v : HostPort) : State := { z with hp := v }

theorem State.set_hp_eq (z : State) (v : HostPort) : z.set_hp v = { z with hp := v } := rfl

theorem State.Changes.hp {l : List Part} {s z : State} {v} (h : State.Changes l s z) (n : l.contains .hp = true) (k : v.reqs.length + v.resps.length ≤ z.hp.reqs.length + z.hp.resps.length) :
    State.Changes l s (z.set_hp v) := by
  refine ⟨fun p hp => ?_, h.pending, fun g => let f := h.forms g; ⟨f.mem, f.prog, f.store, f.bufs, f.rbw, f.counts, f.rsp⟩, Nat.le_trans k h.waits⟩
  cases p <;> first | exact absurd (n.symm.trans hp) (by simp) | exact h.same _ hp

def State.set_xf (z : State) (v : Xfer) : State := { z with xf := v }

theorem State.set_xf_eq (z : State) (v : Xfer) : z.set_xf v = { z with xf := v } := rfl

theorem State.Changes.xf {l : List Part} {s z : State} {v} (h : State.Changes l s z) (n : l.contains .xf = true) :
    State.Changes l s (z.set_xf v) := by
  refine ⟨fun p hp => ?_, h.pending, fun g => let f := h.forms g; ⟨f.mem, f.prog, f.store, f.bufs, f.rbw, f.counts, f.rsp⟩, h.waits⟩
  cases p <;> first | exact absurd (n.symm.trans hp) (by simp) | exact h.same _ hp

def State.set_key (z : State) (v : KeyPort) : State := { z with key := v }

theorem State.set_key_eq (z : State) (v : KeyPort) : z.set_key v = { z with key := v } := rfl

theorem State.Changes.key {l : List Part} {s z : State} {v} (h : State.Changes l s z) (n : l.contains .key = true) :
    State.Changes l s (z.set_key v) := by
  refine ⟨fun p hp => ?_, h.pending, fun g => let f := h.forms g; ⟨f.mem, f.prog, f.store, f.bufs, f.rbw, f.counts, f.rsp⟩, h.waits⟩
  cases p <;> first | exact absurd (n.symm.trans hp) (by simp) | exact h.same _ hp

def State.set_power (z : State) (v : Power) : State := { z with power := v }

theorem State.set_power_eq (z : State) (v : Power) : z.set_power v = { z with power := v } := rfl

theorem State.Changes.power {l : List Part} {s z : State} {v} (h : State.Changes l s z) (n : l.contains .power = true) :
    State.Changes l s (z.set_power v) := by
  refine ⟨fun p hp => ?_, h.pending, fun g => let f := h.forms g; ⟨f.mem, f.prog, f.store, f.bufs, f.rbw, f.counts, f.rsp⟩, h.waits⟩
  cases p <;> first | exact absurd (n.symm.trans hp) (by simp) | exact h.same _ hp

def State.set_bat (z : State) (v : Battery) : State := { z with bat := v }

theorem State.set_bat_eq (z : State) (v : Battery) : z.set_bat v = { z with bat := v } := rfl

theorem State.Changes.bat {l : List Part} {s z : State} {v} (h : State.Changes l s z) (n : l.contains .bat = true) :
    State.Changes l s (z.set_bat v) := by
  refine ⟨fun p hp => ?_, h.pending, fun g => let f := h.forms g; ⟨f.mem, f.prog, f.store, f.bufs, f.rbw, f.counts, f.rsp⟩, h.waits⟩
  cases p <;> first | exact absurd (n.symm.trans hp) (by simp) | exact h.same _ hp

def State.set_chans (z : State) (v : Bank Channel 256) : State := { z with chans := v }

theorem State.set_chans_eq (z : State) (v : Bank Channel 256) : z.set_chans v = { z with chans := v } := rfl

theorem State.Changes.chans {l : List Part} {s z : State} {v} (h : State.Changes l s z) (n : l.contains .chans = true) :
    State.Changes l s (z.set_chans v) := by
  refine ⟨fun p hp => ?_, h.pending, fun g => let f := h.forms g; ⟨f.mem, f.prog, f.store, f.bufs, f.rbw, f.counts, f.rsp⟩, h.waits⟩
  cases p <;> first | exact absurd (n.symm.trans hp) (by simp) | exact h.same _ hp

def State.set_posts (z : State) (v : Bank PostRegs 18) : State := { z with posts := v }

theorem State.set_posts_eq (z : State) (v : Bank PostRegs 18) : z.set_posts v = { z with posts := v } := rfl

theorem State.Changes.posts {l : List Part} {s z : State} {v} (h : State.Changes l s z) (n : l.contains .posts = true) :
    State.Changes l s (z.set_posts v) := by
  refine ⟨fun p hp => ?_, h.pending, fun g => let f := h.forms g; ⟨f.mem, f.prog, f.store, f.bufs, f.rbw, f.counts, f.rsp⟩, h.waits⟩
  cases p <;> first | exact absurd (n.symm.trans hp) (by simp) | exact h.same _ hp

def State.set_seqs (z : State) (v : Bank Seq 16) : State := { z with seqs := v }

theorem State.set_seqs_eq (z : State) (v : Bank Seq 16) : z.set_seqs v = { z with seqs := v } := rfl

theorem State.Changes.seqs {l : List Part} {s z : State} {v} (h : State.Changes l s z) (n : l.contains .seqs = true) :
    State.Changes l s (z.set_seqs v) := by
  refine ⟨fun p hp => ?_, h.pending, fun g => let f := h.forms g; ⟨f.mem, f.prog, f.store, f.bufs, f.rbw, f.counts, f.rsp⟩, h.waits⟩
  cases p <;> first | exact absurd (n.symm.trans hp) (by simp) | exact h.same _ hp

def State.set_ibufs (z : State) (v : Bank Ibuf 4) : State := { z with ibufs := v }

theorem State.set_ibufs_eq (z : State) (v : Bank Ibuf 4) : z.set_ibufs v = { z with ibufs := v } := rfl

theorem State.Changes.ibufs {l : List Part} {s z : State} {v} (h : State.Changes l s z) (n : l.contains .ibufs = true) :
    State.Changes l s (z.set_ibufs v) := by
  refine ⟨fun p hp => ?_, h.pending, fun g => let f := h.forms g; ⟨f.mem, f.prog, f.store, f.bufs, f.rbw, f.counts, f.rsp⟩, h.waits⟩
  cases p <;> first | exact absurd (n.symm.trans hp) (by simp) | exact h.same _ hp

def State.set_pool (z : State) (v : Pool) : State := { z with pool := v }

theorem State.set_pool_eq (z : State) (v : Pool) : z.set_pool v = { z with pool := v } := rfl

theorem State.Changes.pool {l : List Part} {s z : State} {v} (h : State.Changes l s z) (n : l.contains .pool = true) :
    State.Changes l s (z.set_pool v) := by
  refine ⟨fun p hp => ?_, h.pending, fun g => let f := h.forms g; ⟨f.mem, f.prog, f.store, f.bufs, f.rbw, f.counts, f.rsp⟩, h.waits⟩
  cases p <;> first | exact absurd (n.symm.trans hp) (by simp) | exact h.same _ hp

def State.set_mem (z : State) (v : Mem) : State := { z with mem := v }

theorem State.set_mem_eq (z : State) (v : Mem) : z.set_mem v = { z with mem := v } := rfl

theorem State.Changes.mem {l : List Part} {s z : State} {v} (h : State.Changes l s z) (n : l.contains .mem = true) (k : Memory.wf z.mem = true → Memory.wf v = true) :
    State.Changes l s (z.set_mem v) := by
  refine ⟨fun p hp => ?_, h.pending, fun g => let f := h.forms g; ⟨k f.mem, f.prog, f.store, f.bufs, f.rbw, f.counts, f.rsp⟩, h.waits⟩
  cases p <;> first | exact absurd (n.symm.trans hp) (by simp) | exact h.same _ hp

def State.set_engines (z : State) (v : Bank Engine 64) : State := { z with engines := v }

theorem State.set_engines_eq (z : State) (v : Bank Engine 64) : z.set_engines v = { z with engines := v } := rfl

theorem State.Changes.engines {l : List Part} {s z : State} {v} (h : State.Changes l s z) (n : l.contains .engines = true) :
    State.Changes l s (z.set_engines v) := by
  refine ⟨fun p hp => ?_, h.pending, fun g => let f := h.forms g; ⟨f.mem, f.prog, f.store, f.bufs, f.rbw, f.counts, f.rsp⟩, h.waits⟩
  cases p <;> first | exact absurd (n.symm.trans hp) (by simp) | exact h.same _ hp

def State.set_groups (z : State) (v : Bank PeGroup 16) : State := { z with groups := v }

theorem State.set_groups_eq (z : State) (v : Bank PeGroup 16) : z.set_groups v = { z with groups := v } := rfl

theorem State.Changes.groups {l : List Part} {s z : State} {v} (h : State.Changes l s z) (n : l.contains .groups = true) (k : ∀ g, sparseWf 0 (z.groups.at g).prog = true → sparseWf 0 (v.at g).prog = true) :
    State.Changes l s (z.set_groups v) := by
  refine ⟨fun p hp => ?_, h.pending, fun g => let f := h.forms g; ⟨f.mem, fun g => k g (f.prog g), f.store, f.bufs, f.rbw, f.counts, f.rsp⟩, h.waits⟩
  cases p <;> first | exact absurd (n.symm.trans hp) (by simp) | exact h.same _ hp

def State.set_streams (z : State) (v : Bank Stream 128) : State := { z with streams := v }

theorem State.set_streams_eq (z : State) (v : Bank Stream 128) : z.set_streams v = { z with streams := v } := rfl

theorem State.Changes.streams {l : List Part} {s z : State} {v} (h : State.Changes l s z) (n : l.contains .streams = true) :
    State.Changes l s (z.set_streams v) := by
  refine ⟨fun p hp => ?_, h.pending, fun g => let f := h.forms g; ⟨f.mem, f.prog, f.store, f.bufs, f.rbw, f.counts, f.rsp⟩, h.waits⟩
  cases p <;> first | exact absurd (n.symm.trans hp) (by simp) | exact h.same _ hp

def State.set_crcs (z : State) (v : Bank CrcUnit 32) : State := { z with crcs := v }

theorem State.set_crcs_eq (z : State) (v : Bank CrcUnit 32) : z.set_crcs v = { z with crcs := v } := rfl

theorem State.Changes.crcs {l : List Part} {s z : State} {v} (h : State.Changes l s z) (n : l.contains .crcs = true) :
    State.Changes l s (z.set_crcs v) := by
  refine ⟨fun p hp => ?_, h.pending, fun g => let f := h.forms g; ⟨f.mem, f.prog, f.store, f.bufs, f.rbw, f.counts, f.rsp⟩, h.waits⟩
  cases p <;> first | exact absurd (n.symm.trans hp) (by simp) | exact h.same _ hp

def State.set_bss (z : State) (v : Bank W32 16) : State := { z with bss := v }

theorem State.set_bss_eq (z : State) (v : Bank W32 16) : z.set_bss v = { z with bss := v } := rfl

theorem State.Changes.bss {l : List Part} {s z : State} {v} (h : State.Changes l s z) (n : l.contains .bss = true) :
    State.Changes l s (z.set_bss v) := by
  refine ⟨fun p hp => ?_, h.pending, fun g => let f := h.forms g; ⟨f.mem, f.prog, f.store, f.bufs, f.rbw, f.counts, f.rsp⟩, h.waits⟩
  cases p <;> first | exact absurd (n.symm.trans hp) (by simp) | exact h.same _ hp

def State.set_lcs (z : State) (v : Bank W32 16) : State := { z with lcs := v }

theorem State.set_lcs_eq (z : State) (v : Bank W32 16) : z.set_lcs v = { z with lcs := v } := rfl

theorem State.Changes.lcs {l : List Part} {s z : State} {v} (h : State.Changes l s z) (n : l.contains .lcs = true) :
    State.Changes l s (z.set_lcs v) := by
  refine ⟨fun p hp => ?_, h.pending, fun g => let f := h.forms g; ⟨f.mem, f.prog, f.store, f.bufs, f.rbw, f.counts, f.rsp⟩, h.waits⟩
  cases p <;> first | exact absurd (n.symm.trans hp) (by simp) | exact h.same _ hp

def State.set_gds (z : State) (v : Bank Guardian 2) : State := { z with gds := v }

theorem State.set_gds_eq (z : State) (v : Bank Guardian 2) : z.set_gds v = { z with gds := v } := rfl

theorem State.Changes.gds {l : List Part} {s z : State} {v} (h : State.Changes l s z) (n : l.contains .gds = true) (k : ∀ g, sparseWf 0 (z.gds.at g).bufs = true → sparseWf 0 (v.at g).bufs = true) :
    State.Changes l s (z.set_gds v) := by
  refine ⟨fun p hp => ?_, h.pending, fun g => let f := h.forms g; ⟨f.mem, f.prog, f.store, fun g => k g (f.bufs g), f.rbw, f.counts, f.rsp⟩, h.waits⟩
  cases p <;> first | exact absurd (n.symm.trans hp) (by simp) | exact h.same _ hp

def State.set_abs_ (z : State) (v : Bank AbCell 16) : State := { z with abs_ := v }

theorem State.set_abs__eq (z : State) (v : Bank AbCell 16) : z.set_abs_ v = { z with abs_ := v } := rfl

theorem State.Changes.abs_ {l : List Part} {s z : State} {v} (h : State.Changes l s z) (n : l.contains .abs_ = true) (k : ∀ g, sparseWf 0 (z.abs_.at g).rbw = true → sparseWf 0 (v.at g).rbw = true) :
    State.Changes l s (z.set_abs_ v) := by
  refine ⟨fun p hp => ?_, h.pending, fun g => let f := h.forms g; ⟨f.mem, f.prog, f.store, f.bufs, fun g => k g (f.rbw g), f.counts, f.rsp⟩, h.waits⟩
  cases p <;> first | exact absurd (n.symm.trans hp) (by simp) | exact h.same _ hp

def State.set_sn (z : State) (v : Spinel) : State := { z with sn := v }

theorem State.set_sn_eq (z : State) (v : Spinel) : z.set_sn v = { z with sn := v } := rfl

theorem State.Changes.sn {l : List Part} {s z : State} {v} (h : State.Changes l s z) (n : l.contains .sn = true) (k : sparseWf [] z.sn.counts = true → sparseWf [] v.counts = true) :
    State.Changes l s (z.set_sn v) := by
  refine ⟨fun p hp => ?_, h.pending, fun g => let f := h.forms g; ⟨f.mem, f.prog, f.store, f.bufs, f.rbw, k f.counts, f.rsp⟩, h.waits⟩
  cases p <;> first | exact absurd (n.symm.trans hp) (by simp) | exact h.same _ hp

def State.set_ta (z : State) (v : TimerArray) : State := { z with ta := v }

theorem State.set_ta_eq (z : State) (v : TimerArray) : z.set_ta v = { z with ta := v } := rfl

theorem State.Changes.ta {l : List Part} {s z : State} {v} (h : State.Changes l s z) (n : l.contains .ta = true) :
    State.Changes l s (z.set_ta v) := by
  refine ⟨fun p hp => ?_, h.pending, fun g => let f := h.forms g; ⟨f.mem, f.prog, f.store, f.bufs, f.rbw, f.counts, f.rsp⟩, h.waits⟩
  cases p <;> first | exact absurd (n.symm.trans hp) (by simp) | exact h.same _ hp

def State.set_eic (z : State) (v : Eic) : State := { z with eic := v }

theorem State.set_eic_eq (z : State) (v : Eic) : z.set_eic v = { z with eic := v } := rfl

theorem State.Changes.eic {l : List Part} {s z : State} {v} (h : State.Changes l s z) (n : l.contains .eic = true) :
    State.Changes l s (z.set_eic v) := by
  refine ⟨fun p hp => ?_, h.pending, fun g => let f := h.forms g; ⟨f.mem, f.prog, f.store, f.bufs, f.rbw, f.counts, f.rsp⟩, h.waits⟩
  cases p <;> first | exact absurd (n.symm.trans hp) (by simp) | exact h.same _ hp

def State.set_cs (z : State) (v : ControlStore) : State := { z with cs := v }

theorem State.set_cs_eq (z : State) (v : ControlStore) : z.set_cs v = { z with cs := v } := rfl

theorem State.Changes.cs {l : List Part} {s z : State} {v} (h : State.Changes l s z) (n : l.contains .cs = true) (k : ∀ g, sparseWf 0 (z.cs.copies.at g).words = true → sparseWf 0 (v.copies.at g).words = true) :
    State.Changes l s (z.set_cs v) := by
  refine ⟨fun p hp => ?_, h.pending, fun g => let f := h.forms g; ⟨f.mem, f.prog, fun g => k g (f.store g), f.bufs, f.rbw, f.counts, f.rsp⟩, h.waits⟩
  cases p <;> first | exact absurd (n.symm.trans hp) (by simp) | exact h.same _ hp

def State.set_sec (z : State) (v : Security) : State := { z with sec := v }

theorem State.set_sec_eq (z : State) (v : Security) : z.set_sec v = { z with sec := v } := rfl

theorem State.Changes.sec {l : List Part} {s z : State} {v} (h : State.Changes l s z) (n : l.contains .sec = true) :
    State.Changes l s (z.set_sec v) := by
  refine ⟨fun p hp => ?_, h.pending, fun g => let f := h.forms g; ⟨f.mem, f.prog, f.store, f.bufs, f.rbw, f.counts, f.rsp⟩, h.waits⟩
  cases p <;> first | exact absurd (n.symm.trans hp) (by simp) | exact h.same _ hp

def State.set_vault (z : State) (v : Vault) : State := { z with vault := v }

theorem State.set_vault_eq (z : State) (v : Vault) : z.set_vault v = { z with vault := v } := rfl

theorem State.Changes.vault {l : List Part} {s z : State} {v} (h : State.Changes l s z) (n : l.contains .vault = true) :
    State.Changes l s (z.set_vault v) := by
  refine ⟨fun p hp => ?_, h.pending, fun g => let f := h.forms g; ⟨f.mem, f.prog, f.store, f.bufs, f.rbw, f.counts, f.rsp⟩, h.waits⟩
  cases p <;> first | exact absurd (n.symm.trans hp) (by simp) | exact h.same _ hp

def State.set_dbg (z : State) (v : Debug) : State := { z with dbg := v }

theorem State.set_dbg_eq (z : State) (v : Debug) : z.set_dbg v = { z with dbg := v } := rfl

theorem State.Changes.dbg {l : List Part} {s z : State} {v} (h : State.Changes l s z) (n : l.contains .dbg = true) :
    State.Changes l s (z.set_dbg v) := by
  refine ⟨fun p hp => ?_, h.pending, fun g => let f := h.forms g; ⟨f.mem, f.prog, f.store, f.bufs, f.rbw, f.counts, f.rsp⟩, h.waits⟩
  cases p <;> first | exact absurd (n.symm.trans hp) (by simp) | exact h.same _ hp

def State.set_cw (z : State) (v : Carnelian) : State := { z with cw := v }

theorem State.set_cw_eq (z : State) (v : Carnelian) : z.set_cw v = { z with cw := v } := rfl

theorem State.Changes.cw {l : List Part} {s z : State} {v} (h : State.Changes l s z) (n : l.contains .cw = true) (k : z.cw.rsp.length ≤ 8 → v.rsp.length ≤ 8) :
    State.Changes l s (z.set_cw v) := by
  refine ⟨fun p hp => ?_, h.pending, fun g => let f := h.forms g; ⟨f.mem, f.prog, f.store, f.bufs, f.rbw, f.counts, k f.rsp⟩, h.waits⟩
  cases p <;> first | exact absurd (n.symm.trans hp) (by simp) | exact h.same _ hp

def State.set_free (z : State) (v : Nat) : State := { z with free := v }

theorem State.set_free_eq (z : State) (v : Nat) : z.set_free v = { z with free := v } := rfl

theorem State.Changes.free {l : List Part} {s z : State} {v} (h : State.Changes l s z) (n : l.contains .free = true) :
    State.Changes l s (z.set_free v) := by
  refine ⟨fun p hp => ?_, h.pending, fun g => let f := h.forms g; ⟨f.mem, f.prog, f.store, f.bufs, f.rbw, f.counts, f.rsp⟩, h.waits⟩
  cases p <;> first | exact absurd (n.symm.trans hp) (by simp) | exact h.same _ hp

theorem State.set_bat_vault_eq (z : State) (v0 : Battery) (v1 : Vault) :
    State.set_vault (State.set_bat z v0) v1 = { z with bat := v0, vault := v1 } := rfl

theorem State.set_bat_vault_free_eq (z : State) (v0 : Battery) (v1 : Vault) (v2 : Nat) :
    State.set_free (State.set_vault (State.set_bat z v0) v1) v2 = { z with bat := v0, vault := v1, free := v2 } := rfl

theorem State.set_many27_eq (z : State) (v0 : Beryl) (v1 : Bank Lane 256) (v2 : HostPort) (v3 : Xfer) (v4 : KeyPort) (v5 : Bank Channel 256) (v6 : Bank PostRegs 18) (v7 : Bank Seq 16) (v8 : Bank Ibuf 4) (v9 : Pool) (v10 : Mem) (v11 : Bank Engine 64) (v12 : Bank PeGroup 16) (v13 : Bank Stream 128) (v14 : Bank CrcUnit 32) (v15 : Bank W32 16) (v16 : Bank W32 16) (v17 : Bank Guardian 2) (v18 : Bank AbCell 16) (v19 : Spinel) (v20 : TimerArray) (v21 : Eic) (v22 : ControlStore) (v23 : Security) (v24 : Vault) (v25 : Debug) (v26 : Carnelian) :
    State.set_cw (State.set_dbg (State.set_vault (State.set_sec (State.set_cs (State.set_eic (State.set_ta (State.set_sn (State.set_abs_ (State.set_gds (State.set_lcs (State.set_bss (State.set_crcs (State.set_streams (State.set_groups (State.set_engines (State.set_mem (State.set_pool (State.set_ibufs (State.set_seqs (State.set_posts (State.set_chans (State.set_key (State.set_xf (State.set_hp (State.set_lanes (State.set_beryl z v0) v1) v2) v3) v4) v5) v6) v7) v8) v9) v10) v11) v12) v13) v14) v15) v16) v17) v18) v19) v20) v21) v22) v23) v24) v25) v26 = { z with beryl := v0, lanes := v1, hp := v2, xf := v3, key := v4, chans := v5, posts := v6, seqs := v7, ibufs := v8, pool := v9, mem := v10, engines := v11, groups := v12, streams := v13, crcs := v14, bss := v15, lcs := v16, gds := v17, abs_ := v18, sn := v19, ta := v20, eic := v21, cs := v22, sec := v23, vault := v24, dbg := v25, cw := v26 } := rfl

theorem State.set_chans_mem_eq (z : State) (v0 : Bank Channel 256) (v1 : Mem) :
    State.set_mem (State.set_chans z v0) v1 = { z with chans := v0, mem := v1 } := rfl

theorem State.set_crcs_bss_lcs_eq (z : State) (v0 : Bank CrcUnit 32) (v1 : Bank W32 16) (v2 : Bank W32 16) :
    State.set_lcs (State.set_bss (State.set_crcs z v0) v1) v2 = { z with crcs := v0, bss := v1, lcs := v2 } := rfl

theorem State.set_crcs_free_eq (z : State) (v0 : Bank CrcUnit 32) (v1 : Nat) :
    State.set_free (State.set_crcs z v0) v1 = { z with crcs := v0, free := v1 } := rfl

theorem State.set_gds_abs__eq (z : State) (v0 : Bank Guardian 2) (v1 : Bank AbCell 16) :
    State.set_abs_ (State.set_gds z v0) v1 = { z with gds := v0, abs_ := v1 } := rfl

theorem State.set_ibufs_pool_eq (z : State) (v0 : Bank Ibuf 4) (v1 : Pool) :
    State.set_pool (State.set_ibufs z v0) v1 = { z with ibufs := v0, pool := v1 } := rfl

theorem State.set_lanes_gds_abs__eq (z : State) (v0 : Bank Lane 256) (v1 : Bank Guardian 2) (v2 : Bank AbCell 16) :
    State.set_abs_ (State.set_gds (State.set_lanes z v0) v1) v2 = { z with lanes := v0, gds := v1, abs_ := v2 } := rfl

theorem State.set_lanes_hp_dbg_eq (z : State) (v0 : Bank Lane 256) (v1 : HostPort) (v2 : Debug) :
    State.set_dbg (State.set_hp (State.set_lanes z v0) v1) v2 = { z with lanes := v0, hp := v1, dbg := v2 } := rfl

theorem State.set_lanes_power_abs__vault_eq (z : State) (v0 : Bank Lane 256) (v1 : Power) (v2 : Bank AbCell 16) (v3 : Vault) :
    State.set_vault (State.set_abs_ (State.set_power (State.set_lanes z v0) v1) v2) v3 = { z with lanes := v0, power := v1, abs_ := v2, vault := v3 } := rfl

theorem State.set_lanes_seqs_ibufs_engines_eq (z : State) (v0 : Bank Lane 256) (v1 : Bank Seq 16) (v2 : Bank Ibuf 4) (v3 : Bank Engine 64) :
    State.set_engines (State.set_ibufs (State.set_seqs (State.set_lanes z v0) v1) v2) v3 = { z with lanes := v0, seqs := v1, ibufs := v2, engines := v3 } := rfl

theorem State.set_many10_eq (z : State) (v0 : Bank Lane 256) (v1 : Bank Seq 16) (v2 : Bank Ibuf 4) (v3 : Bank Engine 64) (v4 : Bank PeGroup 16) (v5 : Bank Stream 128) (v6 : Bank CrcUnit 32) (v7 : Bank W32 16) (v8 : Bank W32 16) (v9 : Bank Guardian 2) :
    State.set_gds (State.set_lcs (State.set_bss (State.set_crcs (State.set_streams (State.set_groups (State.set_engines (State.set_ibufs (State.set_seqs (State.set_lanes z v0) v1) v2) v3) v4) v5) v6) v7) v8) v9 = { z with lanes := v0, seqs := v1, ibufs := v2, engines := v3, groups := v4, streams := v5, crcs := v6, bss := v7, lcs := v8, gds := v9 } := rfl

theorem State.set_mem_free_eq (z : State) (v0 : Mem) (v1 : Nat) :
    State.set_free (State.set_mem z v0) v1 = { z with mem := v0, free := v1 } := rfl

theorem State.set_power_dbg_eq (z : State) (v0 : Power) (v1 : Debug) :
    State.set_dbg (State.set_power z v0) v1 = { z with power := v0, dbg := v1 } := rfl

theorem State.set_power_mem_cs_free_eq (z : State) (v0 : Power) (v1 : Mem) (v2 : ControlStore) (v3 : Nat) :
    State.set_free (State.set_cs (State.set_mem (State.set_power z v0) v1) v2) v3 = { z with power := v0, mem := v1, cs := v2, free := v3 } := rfl

theorem State.set_many5_eq (z : State) (v0 : Xfer) (v1 : KeyPort) (v2 : Power) (v3 : Bank Guardian 2) (v4 : Debug) :
    State.set_dbg (State.set_gds (State.set_power (State.set_key (State.set_xf z v0) v1) v2) v3) v4 = { z with xf := v0, key := v1, power := v2, gds := v3, dbg := v4 } := rfl

/-! Results that hold states. -/

/-- Every state of the result has the property. -/
def Res.All (p : State → Prop) : Res → Prop
  | .done s _ _ => p s
  | .trap s _ _ => p s
  | .block s _ => p s
  | .pool s => p s
  | .ecc s => p s
  | .stall s _ => p s
  | .fault s _ _ => p s

def DataRes.All (p : State → Prop) : DataRes → Prop
  | .ok s _ => p s
  | .trap s _ => p s

def Work.All (p : State → Prop) : Work → Prop
  | .done s => p s
  | .pool s => p s
  | .ecc s => p s
  | .trap s _ => p s

def Try.All (p : State → Prop) : Try → Prop
  | .ok s => p s
  | .trap _ => True
  | .wait => True
  | .stall _ _ => True

def Recv.All (p : State → Prop) : Recv → Prop
  | .got _ s => p s
  | .nothing => True
  | .wait => True
  | .trap _ => True

/-! Updates of the records that hold a sparse list. -/

theorem State.modMem_changes (s : State) (f : Mem → Mem) (k : ∀ m, Memory.wf m = true → Memory.wf (f m) = true) :
    State.Changes [.mem] s (s.modMem f) :=
  (State.Changes.refl _ s).mem rfl (k s.mem)

theorem State.Changes.modGd {l : List Part} {s z : State} {x : Fin 2} {f : Guardian → Guardian} (h : State.Changes l s z)
    (n : l.contains .gds = true)
    (k : (∀ i, sparseWf 0 (s.gds.at i).bufs = true) → (∀ i, sparseWf 0 (z.gds.at i).bufs = true) →
      sparseWf 0 (f (z.gds.at x)).bufs = true) : State.Changes l s (z.modGd x f) := by
  refine ⟨fun p hp => ?_, h.pending, fun g => ?_, h.waits⟩
  · cases p <;> first | exact absurd (n.symm.trans hp) (by simp) | exact h.same _ hp
  · have e := h.forms g
    refine ⟨e.mem, e.prog, e.store, ?_, e.rbw, e.counts, e.rsp⟩
    intro i
    by_cases c : i = x
    · subst c; simpa [State.modGd] using k g.bufs e.bufs
    · simpa [State.modGd, c] using e.bufs i

theorem State.Changes.modAb {l : List Part} {s z : State} {x : Fin 16} {f : AbCell → AbCell} (h : State.Changes l s z)
    (n : l.contains .abs_ = true)
    (k : (∀ i, sparseWf 0 (s.abs_.at i).rbw = true) → (∀ i, sparseWf 0 (z.abs_.at i).rbw = true) →
      sparseWf 0 (f (z.abs_.at x)).rbw = true) : State.Changes l s (z.modAb x f) := by
  refine ⟨fun p hp => ?_, h.pending, fun g => ?_, h.waits⟩
  · cases p <;> first | exact absurd (n.symm.trans hp) (by simp) | exact h.same _ hp
  · have e := h.forms g
    refine ⟨e.mem, e.prog, e.store, e.bufs, ?_, e.counts, e.rsp⟩
    intro i
    by_cases c : i = x
    · subst c; simpa [State.modAb] using k g.rbw e.rbw
    · simpa [State.modAb, c] using e.rbw i

theorem State.modCs_changes (s : State) (f : ControlStore → ControlStore)
    (k : ∀ c : ControlStore, ∀ g, sparseWf 0 (c.copies.at g).words = true → sparseWf 0 ((f c).copies.at g).words = true) :
    State.Changes [.cs] s (s.modCs f) :=
  (State.Changes.refl _ s).cs rfl (k s.cs)

theorem State.modSn_changes (s : State) (f : Spinel → Spinel)
    (k : ∀ n : Spinel, sparseWf [] n.counts = true → sparseWf [] (f n).counts = true) : State.Changes [.sn] s (s.modSn f) :=
  (State.Changes.refl _ s).sn rfl (k s.sn)

theorem State.modCw_changes (s : State) (f : Carnelian → Carnelian)
    (k : ∀ w : Carnelian, w.rsp.length ≤ 8 → (f w).rsp.length ≤ 8) : State.Changes [.cw] s (s.modCw f) :=
  (State.Changes.refl _ s).cw rfl (k s.cw)

/-- What one turn of a loop keeps, the loop keeps. -/
theorem foldl_keep {σ ι : Type} {p : σ → Prop} {turn : σ → ι → σ} {todo : List ι} {first : σ} (start : p first)
    (keep : ∀ z i, p z → p (turn z i)) : p (todo.foldl turn first) :=
  List.foldlRecOn todo turn start fun z hz i _ => keep z i hz

theorem State.Changes.foldl_snd {α β : Type} {l : List Part} {s : State} {f : α × State → β → α × State} {x : List β}
    {y : α × State} (h : State.Changes l s y.2) (k : ∀ z b, State.Changes l z.2 (f z b).2) :
    State.Changes l s (x.foldl f y).2 :=
  foldl_keep (p := fun y : α × State => State.Changes l s y.2) h fun z b g => g.trans (k z b)

theorem Bank.mod_keep {α : Type} {n : Nat} {p : α → Prop} {v : Bank α n} {x i : Fin n} {f : α → α} (h : p (v.at i))
    (k : ∀ a, p a → p (f a)) : p ((v.mod x f).at i) := by
  rw [Bank.at_mod]
  split_ifs
  exacts [k _ h, h]

theorem setWords_wf : ∀ (k : Nat) (m : List (Nat × W32)) (w : Nat) (l : List Byte), sparseWf 0 m = true →
    sparseWf 0 (setWords m w l k) = true
  | 0, _, _, _, wf => wf
  | k + 1, m, w, _, wf => setWords_wf k _ _ _ (sparseWf_sparseSet m w _ wf)

@[simp] theorem Guardian.closeWin_bufs (g : Guardian) (now : W64) (t : Option W64) : (g.closeWin now t).bufs = g.bufs := by
  unfold Guardian.closeWin Guardian.truncate; split <;> (try split) <;> rfl

@[simp] theorem Guardian.toOff_bufs (g : Guardian) : g.toOff.bufs = g.bufs := rfl

@[simp] theorem Guardian.enable_bufs (g : Guardian) (v : W32) : (g.enable v).bufs = g.bufs := by
  unfold Guardian.enable; dsimp only; (repeat' split) <;> rfl

@[simp] theorem Guardian.cfgOff_bufs (g : Guardian) (v : W32) : (g.cfgOff v).bufs = g.bufs := by
  unfold Guardian.cfgOff; split <;> simp

@[simp] theorem Guardian.ended_bufs (g : Guardian) : g.ended.bufs = g.bufs := by
  unfold Guardian.ended; dsimp only; split <;> simp

@[simp] theorem Guardian.edge_bufs (g : Guardian) (k : Fin 16) (t : Instant) (v : Bool) : (g.edge k t v).bufs = g.bufs := rfl

@[simp] theorem Guardian.halfLost_bufs (g : Guardian) : g.halfLost.bufs = g.bufs := rfl

@[simp] theorem Guardian.hold_bufs (g : Guardian) : g.hold.bufs = g.bufs := rfl

@[simp] theorem Guardian.suppress_bufs (g : Guardian) (c : SuppCause) : (g.suppress c).bufs = g.bufs := rfl

@[simp] theorem Guardian.truncate_bufs (g : Guardian) (k : Fin 16) (t : Option W64) : (g.truncate k t).bufs = g.bufs := rfl

@[simp] theorem Guardian.loaded_bufs (g : Guardian) : g.loaded.bufs = g.bufs := rfl

theorem Guardian.receive_bufs (g : Guardian) (l : List Byte) (v : Verdict) (e : Slot) (h : sparseWf 0 g.bufs = true) :
    sparseWf 0 (g.receive l v e).bufs = true := by
  unfold Guardian.receive; dsimp only; (repeat' split) <;> first | exact h | exact setWords_wf _ _ _ _ h

@[simp] theorem AbCell.counters_rbw (c : AbCell) (t r : Nat) : (c.counters t r).rbw = c.rbw := by
  unfold AbCell.counters; dsimp only; split <;> rfl

@[simp] theorem AbCell.addTec_rbw (c : AbCell) (n : Nat) : (c.addTec n).rbw = c.rbw := by
  unfold AbCell.addTec; split <;> simp

@[simp] theorem AbCell.addRec_rbw (c : AbCell) (n : Nat) : (c.addRec n).rbw = c.rbw := by
  unfold AbCell.addRec; split <;> simp

@[simp] theorem AbCell.finish_rbw (c : AbCell) (b : Fin 8) (t : TbSt) : (c.finish b t).rbw = c.rbw := rfl

@[simp] theorem AbCell.cancel_rbw (c : AbCell) (b : Fin 8) : (c.cancel b).rbw = c.rbw := by
  unfold AbCell.cancel; split <;> rfl

@[simp] theorem AbCell.clearFrame_rbw (c : AbCell) : c.clearFrame.rbw = c.rbw := rfl

@[simp] theorem AbCell.toOff_rbw (c : AbCell) : c.toOff.rbw = c.rbw := rfl

@[simp] theorem AbCell.arm_rbw (c : AbCell) (v : W32) (g : W64) : (c.arm v g).rbw = c.rbw := by
  unfold AbCell.arm; dsimp only; (repeat' split) <;> rfl

@[simp] theorem AbCell.enable_rbw (c : AbCell) (v : W32) (g : W64) : (c.enable v g).rbw = c.rbw := by
  unfold AbCell.enable; dsimp only; (repeat' split) <;> exact c.arm_rbw v g

@[simp] theorem AbCell.cfgOff_rbw (c : AbCell) (v : W32) (g : W64) : (c.cfgOff v g).rbw = c.rbw := by
  unfold AbCell.cfgOff; split <;> simp

@[simp] theorem AbCell.errorFlag_rbw (c : AbCell) (p : Bool) (g : W64) : (c.errorFlag p g).rbw = c.rbw := by
  unfold AbCell.errorFlag; split <;> rfl

@[simp] theorem AbCell.frameEnd_rbw (c : AbCell) (g : W64) : (c.frameEnd g).rbw = c.rbw := by
  unfold AbCell.frameEnd; dsimp only; (repeat' split) <;> simp

@[simp] theorem AbCell.hold_rbw (c : AbCell) : c.hold.rbw = c.rbw := rfl

@[simp] theorem AbCell.lost_rbw (c : AbCell) : c.lost.rbw = c.rbw := by
  unfold AbCell.lost; (repeat' split) <;> rfl

@[simp] theorem AbCell.settle_rbw (c : AbCell) (g : W64) : (c.settle g).rbw = c.rbw := by
  unfold AbCell.settle; dsimp only; (repeat' split) <;> simp

@[simp] theorem AbCell.return_rbw (c : AbCell) (g : W64) : (AbCell.return_ g c).rbw = c.rbw := by
  unfold AbCell.return_; split <;> simp

@[simp] theorem AbCell.txError_rbw (c : AbCell) (b : Fin 8) (n : Nat) (q a k : Bool) : (c.txError b n q a k).rbw = c.rbw := by
  unfold AbCell.txError; dsimp only; (repeat' split) <;> simp

theorem AbCell.writeRb_rbw (c : AbCell) (b : Fin 16) (l : List W32) (d : List Byte) (h : sparseWf 0 c.rbw = true) :
    sparseWf 0 (c.writeRb b l d).rbw = true := by
  refine setWords_wf _ _ _ _ ?_
  generalize List.range 4 = r
  generalize c.rbw = m at h ⊢
  induction r generalizing m with
  | nil => exact h
  | cons i r ih => exact ih _ (sparseWf_sparseSet m _ _ h)

theorem CsCopy.setWord_words (c : CsCopy) (w : Nat) (v : W32) (h : sparseWf 0 c.words = true) :
    sparseWf 0 (c.setWord w v).words = true := sparseWf_sparseSet c.words w v h

theorem Spinel.setPending_counts (n : Spinel) (t : Nat) (l : List Nat) (h : sparseWf [] n.counts = true) :
    sparseWf [] (n.setPending t l).counts = true := sparseWf_sparseSet n.counts t l h

/-! States of results. -/

theorem DataRes.All.ok {p : State → Prop} {r : DataRes} {z : State} {v : Nat} (h : r.All p) (e : r = .ok z v) : p z := by
  subst e; exact h

theorem DataRes.All.trap {p : State → Prop} {r : DataRes} {z : State} {t : Trap} (h : r.All p) (e : r = .trap z t) : p z := by
  subst e; exact h

theorem Work.All.done {p : State → Prop} {r : Work} {z : State} (h : r.All p) (e : r = .done z) : p z := by
  subst e; exact h

theorem Work.All.pool {p : State → Prop} {r : Work} {z : State} (h : r.All p) (e : r = .pool z) : p z := by
  subst e; exact h

theorem Work.All.ecc {p : State → Prop} {r : Work} {z : State} (h : r.All p) (e : r = .ecc z) : p z := by
  subst e; exact h

theorem Work.All.trap {p : State → Prop} {r : Work} {z : State} {t : Trap} (h : r.All p) (e : r = .trap z t) : p z := by
  subst e; exact h

theorem Try.All.ok {p : State → Prop} {r : Try} {z : State} (h : r.All p) (e : r = .ok z) : p z := by
  subst e; exact h

theorem Recv.All.got {p : State → Prop} {r : Recv} {z : State} {x : Quad} (h : r.All p) (e : r = .got x z) : p z := by
  subst e; exact h

/-- Every state of the result has the property. -/
def Saved.All (p : State → Prop) : Saved → Prop
  | .done s => p s
  | .pool s _ => p s
  | .ecc s => p s
  | .cs s _ => p s

theorem Saved.All.done {p : State → Prop} {r : Saved} {z : State} (h : r.All p) (e : r = .done z) : p z := by
  subst e; exact h

theorem Saved.All.pool {p : State → Prop} {r : Saved} {z : State} {k : Nat} (h : r.All p) (e : r = .pool z k) : p z := by
  subst e; exact h

theorem Saved.All.ecc {p : State → Prop} {r : Saved} {z : State} (h : r.All p) (e : r = .ecc z) : p z := by
  subst e; exact h

theorem Saved.All.cs {p : State → Prop} {r : Saved} {z : State} {u : Nat} (h : r.All p) (e : r = .cs z u) : p z := by
  subst e; exact h

/-! Results as predicates over states, after other operations. -/

/-- Every state of the result has the property. -/
def UOut.All (p : State → Prop) : UOut → Prop
  | .ok s _ => p s
  | .jump _ => True
  | .fin _ => True
  | .flt s _ z _ => p s ∧ p z
  | .utrap _ => True
  | .wait => True
  | .stall _ _ _ => True
  | .illegal => True

theorem UOut.All.ok {p : State → Prop} {r : UOut} {z : State} {m : Micro} (h : r.All p) (e : r = .ok z m) : p z := by
  subst e; exact h

theorem UOut.All.flt {p : State → Prop} {r : UOut} {z y : State} {t : Trap} {m : Micro} (h : r.All p) (e : r = .flt z t y m) :
    p z ∧ p y := by
  subst e; exact h

theorem Res.All.imp {p q : State → Prop} {r : Res} (h : r.All p) (k : ∀ z, p z → q z) : r.All q := by
  cases r <;> first | exact k _ h | trivial

theorem Res.All.step {l m : List Part} {s z : State} {r : Res} (k : r.All (State.Changes m z)) (sub : m.all l.contains = true)
    (h : State.Changes l s z) : r.All (State.Changes l s) := k.imp fun _ c => h.step c sub

theorem DataRes.All.imp {p q : State → Prop} {r : DataRes} (h : r.All p) (k : ∀ z, p z → q z) : r.All q := by
  cases r <;> first | exact k _ h | trivial

theorem DataRes.All.step {l m : List Part} {s z : State} {r : DataRes} (k : r.All (State.Changes m z)) (sub : m.all l.contains = true)
    (h : State.Changes l s z) : r.All (State.Changes l s) := k.imp fun _ c => h.step c sub

theorem Work.All.imp {p q : State → Prop} {r : Work} (h : r.All p) (k : ∀ z, p z → q z) : r.All q := by
  cases r <;> first | exact k _ h | trivial

theorem Work.All.step {l m : List Part} {s z : State} {r : Work} (k : r.All (State.Changes m z)) (sub : m.all l.contains = true)
    (h : State.Changes l s z) : r.All (State.Changes l s) := k.imp fun _ c => h.step c sub

theorem Saved.All.imp {p q : State → Prop} {r : Saved} (h : r.All p) (k : ∀ z, p z → q z) : r.All q := by
  cases r <;> first | exact k _ h | trivial

theorem Saved.All.step {l m : List Part} {s z : State} {r : Saved} (k : r.All (State.Changes m z)) (sub : m.all l.contains = true)
    (h : State.Changes l s z) : r.All (State.Changes l s) := k.imp fun _ c => h.step c sub

theorem Try.All.imp {p q : State → Prop} {r : Try} (h : r.All p) (k : ∀ z, p z → q z) : r.All q := by
  cases r <;> first | exact k _ h | trivial

theorem Try.All.step {l m : List Part} {s z : State} {r : Try} (k : r.All (State.Changes m z)) (sub : m.all l.contains = true)
    (h : State.Changes l s z) : r.All (State.Changes l s) := k.imp fun _ c => h.step c sub

theorem Recv.All.imp {p q : State → Prop} {r : Recv} (h : r.All p) (k : ∀ z, p z → q z) : r.All q := by
  cases r <;> first | exact k _ h | trivial

theorem Recv.All.step {l m : List Part} {s z : State} {r : Recv} (k : r.All (State.Changes m z)) (sub : m.all l.contains = true)
    (h : State.Changes l s z) : r.All (State.Changes l s) := k.imp fun _ c => h.step c sub

theorem UOut.All.imp {p q : State → Prop} {r : UOut} (h : r.All p) (k : ∀ z, p z → q z) : r.All q := by
  cases r <;> first | exact k _ h | trivial | exact ⟨k _ h.1, k _ h.2⟩

theorem UOut.All.step {l m : List Part} {s z : State} {r : UOut} (k : r.All (State.Changes m z)) (sub : m.all l.contains = true)
    (h : State.Changes l s z) : r.All (State.Changes l s) := k.imp fun _ c => h.step c sub


theorem Res.of_done {p : State → Prop} {s} {k} {n} (h : p s) : (Res.done s k n).All p := h

theorem Res.of_trap {p : State → Prop} {s} {k} {t} (h : p s) : (Res.trap s k t).All p := h

theorem Res.of_block {p : State → Prop} {s} {k} (h : p s) : (Res.block s k).All p := h

theorem Res.of_pool {p : State → Prop} {s} (h : p s) : (Res.pool s).All p := h

theorem Res.of_ecc {p : State → Prop} {s} (h : p s) : (Res.ecc s).All p := h

theorem Res.of_stall {p : State → Prop} {s} {k} (h : p s) : (Res.stall s k).All p := h

theorem Res.of_fault {p : State → Prop} {s} {k} {c} (h : p s) : (Res.fault s k c).All p := h

theorem DataRes.of_ok {p : State → Prop} {s} {v} (h : p s) : (DataRes.ok s v).All p := h

theorem DataRes.of_trap {p : State → Prop} {s} {t} (h : p s) : (DataRes.trap s t).All p := h

theorem Work.of_done {p : State → Prop} {s} (h : p s) : (Work.done s).All p := h

theorem Work.of_pool {p : State → Prop} {s} (h : p s) : (Work.pool s).All p := h

theorem Work.of_ecc {p : State → Prop} {s} (h : p s) : (Work.ecc s).All p := h

theorem Work.of_trap {p : State → Prop} {s} {t} (h : p s) : (Work.trap s t).All p := h

theorem Saved.of_done {p : State → Prop} {s} (h : p s) : (Saved.done s).All p := h

theorem Saved.of_pool {p : State → Prop} {s} {k} (h : p s) : (Saved.pool s k).All p := h

theorem Saved.of_ecc {p : State → Prop} {s} (h : p s) : (Saved.ecc s).All p := h

theorem Saved.of_cs {p : State → Prop} {s} {u} (h : p s) : (Saved.cs s u).All p := h

theorem Try.of_ok {p : State → Prop} {s} (h : p s) : (Try.ok s).All p := h

theorem Try.of_trap {p : State → Prop} {t} : (Try.trap t).All p := trivial

theorem Try.of_wait {p : State → Prop} : (Try.wait).All p := trivial

theorem Try.of_stall {p : State → Prop} {d} {k} : (Try.stall d k).All p := trivial

theorem Recv.of_got {p : State → Prop} {x} {s} (h : p s) : (Recv.got x s).All p := h

theorem Recv.of_nothing {p : State → Prop} : (Recv.nothing).All p := trivial

theorem Recv.of_wait {p : State → Prop} : (Recv.wait).All p := trivial

theorem Recv.of_trap {p : State → Prop} {t} : (Recv.trap t).All p := trivial

theorem UOut.of_ok {p : State → Prop} {s} {m} (h : p s) : (UOut.ok s m).All p := h

theorem UOut.of_jump {p : State → Prop} {m} : (UOut.jump m).All p := trivial

theorem UOut.of_fin {p : State → Prop} {m} : (UOut.fin m).All p := trivial

theorem UOut.of_flt {p : State → Prop} {s} {t} {z} {m} (h : p s) (g : p z) : (UOut.flt s t z m).All p := ⟨h, g⟩

theorem UOut.of_utrap {p : State → Prop} {t} : (UOut.utrap t).All p := trivial

theorem UOut.of_wait {p : State → Prop} : (UOut.wait).All p := trivial

theorem UOut.of_stall {p : State → Prop} {a} {d} {k} : (UOut.stall a d k).All p := trivial

theorem UOut.of_illegal {p : State → Prop} : (UOut.illegal).All p := trivial

theorem Work.andThen_changes {l : List Part} {s : State} {x : Work} {f : State → Res} (h : x.All (State.Changes l s))
    (k : ∀ z, State.Changes l s z → (f z).All (State.Changes l s)) : (x.andThen f).All (State.Changes l s) := by
  cases x <;> first | exact k _ h | exact h

theorem DataRes.andThen_changes {l : List Part} {s : State} {x : DataRes} {f : State → Nat → Res}
    (h : x.All (State.Changes l s)) (k : ∀ z v, State.Changes l s z → (f z v).All (State.Changes l s)) :
    (x.andThen f).All (State.Changes l s) := by
  cases x <;> first | exact k _ _ h | exact h

theorem DataRes.stored_changes {l : List Part} {s : State} {x : DataRes} {k : Nat} (h : x.All (State.Changes l s)) :
    (x.stored k).All (State.Changes l s) := by
  cases x <;> exact h

/-- Every next state of the outcome has the property. -/
def Answers (p : State → Prop) (o : Host.Outcome State Fault Refusal) : Prop := ∀ z, o = .next z → p z

theorem Answers.next {p : State → Prop} {z : State} (h : p z) : Answers p (.next z) := by
  rintro _ ⟨⟩; exact h

theorem Answers.fault {p : State → Prop} {r : Fault} : Answers p (.fault r) := fun _ h => nomatch h

end Sys2Proof.Machine
end

