-- ==== Sys2Proof/Laws/ChangesCore.lean ====
section
/-! SUPPORT. What each operation can change: the shared operations, the control stores, events, interrupts, contexts and windows of the sequencers, and the first macro instructions. -/

namespace Sys2Proof.Machine

theorem State.advance_changes (s : State) (t : Instant) :
    State.Changes [.beryl] s (State.advance s t) := by
  unfold State.advance
  dsimp -zeta only [← State.set_beryl_eq]
  try dsimp only
  repeat'
    first
    | with_reducible apply State.Changes.refl
    | exact rfl
    | with_reducible apply State.Changes.beryl
    | split

theorem State.draw_changes (s : State) :
    State.Changes [.free] s (State.draw s).2 := by
  unfold State.draw
  dsimp -zeta only [← State.set_free_eq]
  try dsimp only
  repeat'
    first
    | with_reducible apply State.Changes.refl
    | exact rfl
    | with_reducible apply State.Changes.free

theorem State.fireHop_changes (s : State) (timed : Bool) (n : Nat) (h : Nat) :
    State.Changes [.sn] s (State.fireHop s timed n h) := by
  unfold State.fireHop
  dsimp -zeta only [← State.set_sn_eq]
  try dsimp only
  repeat'
    first
    | with_reducible apply State.Changes.refl
    | exact rfl
    | dsimp only
    | with_reducible apply State.Changes.sn
    | exact fun h => h

theorem State.fire_changes (s : State) (n : Nat) :
    State.Changes [.sn] s (State.fire s n) := by
  unfold State.fire
  try dsimp only
  repeat'
    first
    | with_reducible apply State.Changes.refl
    | exact rfl
    | with_reducible apply State.Changes.step (k := State.fireHop_changes _ _ _ _)

theorem State.reqSwitch_changes (s : State) (n : Fin 16) :
    State.Changes [.seqs] s (State.reqSwitch s n) := by
  unfold State.reqSwitch
  dsimp -zeta only [← State.set_seqs_eq]
  try dsimp only
  repeat'
    first
    | with_reducible apply State.Changes.refl
    | exact rfl
    | with_reducible apply State.Changes.seqs

theorem State.faultChan_changes (s : State) (c : Fin 256) (cause : FCause) :
    State.Changes [.chans, .seqs] s (State.faultChan s c cause) := by
  unfold State.faultChan
  dsimp -zeta only [← State.set_chans_eq]
  try dsimp only
  repeat'
    first
    | with_reducible apply State.Changes.refl
    | exact rfl
    | with_reducible apply State.Changes.chans
    | with_reducible apply State.Changes.step (k := State.reqSwitch_changes _ _)
    | split

theorem State.breach_changes (s : State) (c : Fin 256) (cond : BreachCond) :
    State.Changes [.chans, .seqs] s (State.breach s c cond) := by
  unfold State.breach
  dsimp -zeta only [← State.set_chans_eq]
  try dsimp only
  repeat'
    first
    | with_reducible apply State.Changes.refl
    | exact rfl
    | with_reducible apply State.Changes.chans
    | with_reducible apply State.Changes.step (k := State.faultChan_changes _ _ _)
    | split

theorem State.breachOf_changes (s : State) (o : Option (Fin 256)) (cond : BreachCond) :
    State.Changes [.chans, .seqs] s (State.breachOf s o cond) := by
  unfold State.breachOf
  try dsimp only
  repeat'
    first
    | with_reducible apply State.Changes.refl
    | exact rfl
    | with_reducible apply State.Changes.step (k := State.breach_changes _ _ _)
    | split

theorem State.arrayUnc_changes (s : State) (req : Option Nat) (a : Nat) :
    State.Changes [.mem, .free] s (State.arrayUnc s req a) := by
  unfold State.arrayUnc
  dsimp -zeta only [← State.set_mem_free_eq, ← State.set_free_eq, ← State.set_mem_eq]
  try dsimp only
  repeat'
    first
    | with_reducible apply State.Changes.refl
    | exact rfl
    | with_reducible apply State.Changes.free
    | with_reducible apply State.Changes.mem
    | exact fun h => h

theorem State.clearResv_changes (s : State) (w : Nat) :
    State.Changes [.seqs] s (State.clearResv s w) := by
  unfold State.clearResv
  dsimp -zeta only [← State.set_seqs_eq]
  try dsimp only
  repeat'
    first
    | with_reducible apply State.Changes.refl
    | exact rfl
    | with_reducible apply State.Changes.seqs

theorem State.memWrite_changes (s : State) (req : Nat) (a : Nat) (n : Nat) (v : Nat) :
    State.Changes [.seqs, .mem] s (State.memWrite s req a n v) := by
  unfold State.memWrite
  dsimp -zeta only [← State.set_mem_eq]
  try dsimp only
  repeat'
    first
    | with_reducible apply State.Changes.refl
    | exact rfl
    | with_reducible apply State.Changes.mem
    | with_reducible apply State.Changes.step (k := State.clearResv_changes _ _)
    | exact fun h => Mem.write_wf _ _ _ _ _ h

theorem State.memRead_changes (s : State) (req : Nat) (a : Nat) (n : Nat) :
    State.Changes [.mem] s (State.memRead s req a n).2 := by
  unfold State.memRead
  dsimp -zeta only [← State.set_mem_eq]
  try dsimp only
  repeat'
    first
    | with_reducible apply State.Changes.refl
    | exact rfl
    | with_reducible apply State.Changes.mem
    | exact fun h => (Memory.wf_congr (Mem.read_cells _ _ _ _)).trans h


theorem State.csChange_changes (s : State) (ks : List (Fin 4)) (f : CsCopy → CsCopy)
    (k : ∀ c, sparseWf 0 c.words = true → sparseWf 0 (f c).words = true) :
    State.Changes [.cs, .sec] s (State.csChange s ks f) := by
  unfold State.csChange
  extract_lets s1
  have h1 : State.Changes [.cs, .sec] s s1 := by
    refine .foldl (.refl _ _) fun z i => ?_
    refine (State.modCs_changes z _ fun c g h => ?_).mono rfl
    by_cases e : g = i
    · subst e; simpa using k _ h
    · simpa [e] using h
  clear_value s1
  exact h1.sec rfl

theorem State.csWordW_changes (s : State) (w : Nat) (v : W32) :
    State.Changes [.cs, .sec] s (State.csWordW s w v) := by
  unfold State.csWordW
  try dsimp only
  repeat'
    first
    | with_reducible apply State.Changes.refl
    | exact rfl
    | with_reducible apply State.Changes.step (k := State.csChange_changes _ _ _ ?_)
    | exact fun _ h => sparseWf_sparseSet _ _ _ h

theorem State.csPmW_changes (s : State) (k : Fin 64) (v : W32) :
    State.Changes [.cs, .sec] s (State.csPmW s k v) := by
  unfold State.csPmW
  try dsimp only
  repeat'
    first
    | with_reducible apply State.Changes.refl
    | exact rfl
    | dsimp only
    | with_reducible apply State.Changes.step (k := State.csChange_changes _ _ _ ?_)
    | (intro _ h; exact h)

theorem State.csWrErr_changes (s : State) :
    State.Changes [.cs] s (State.csWrErr s) := by
  unfold State.csWrErr
  try dsimp only
  repeat'
    first
    | with_reducible apply State.Changes.refl
    | exact rfl
    | dsimp only
    | with_reducible apply State.Changes.step (k := State.modCs_changes _ _ ?_)
    | (intro _ h; simpa using h)

theorem State.csCheck_changes (s : State) (k : Fin 4) (w : Nat) :
    State.Changes [.cs] s (State.csCheck s k w).2 := by
  unfold State.csCheck
  extract_lets c
  split
  · exact .refl _ _
  · split
    · refine (State.Changes.refl _ s).cs rfl fun g h => ?_
      by_cases e : g = k
      · subst e; simpa using h
      · simpa [e] using h
    · exact .refl _ _

theorem State.vendorFetch_changes (s : State) (n : Fin 16) (w : VendorWork) :
    State.Changes [.cs] s (State.vendorFetch s n w).2 := by
  unfold State.vendorFetch
  dsimp only
  split
  · exact .refl _ _
  · refine State.Changes.foldl_snd (.refl _ _) fun z x => ?_
    split
    · exact .refl _ _
    · exact State.csCheck_changes _ _ _

theorem State.csFault_changes (s : State) (n : Fin 16) (c : Fin 256) (upc : Nat) (cause : FCause) :
    State.Changes [.cs] s (State.csFault s n c upc cause) := by
  unfold State.csFault
  try dsimp only
  repeat'
    first
    | with_reducible apply State.Changes.refl
    | exact rfl
    | dsimp only
    | with_reducible apply State.Changes.step (k := State.modCs_changes _ _ ?_)
    | (intro _ h; simpa using h)

theorem State.csStatW_changes (s : State) (v : W32) :
    State.Changes [.cs] s (State.csStatW s v) := by
  unfold State.csStatW
  try dsimp only
  repeat'
    first
    | with_reducible apply State.Changes.refl
    | exact rfl
    | dsimp only
    | with_reducible apply State.Changes.step (k := State.modCs_changes _ _ ?_)
    | (intro _ h; simpa using h)


theorem State.inputOvf_changes (s : State) (t : Nat) :
    State.Changes [.chans, .seqs, .sn] s (State.inputOvf s t) := by
  unfold State.inputOvf
  extract_lets s1 c
  have h1 : State.Changes [.chans, .seqs, .sn] s s1 := by
    refine (State.modSn_changes s _ ?_).mono rfl
    exact fun _ g => g
  clear_value s1
  (repeat' split) <;> first | exact h1.step (State.breach_changes _ _ _) rfl | exact h1

theorem State.arrive_changes (s : State) (t : Nat) (h : Nat) :
    State.Changes [.chans, .seqs, .sn] s (State.arrive s t h) := by
  unfold State.arrive
  dsimp only
  split
  · refine (State.modSn_changes s _ ?_).mono rfl
    exact fun n g => n.setPending_counts t _ g
  · exact (State.inputOvf_changes s t).mono rfl

theorem State.arriveEic_changes (s : State) (t : Nat) :
    State.Changes [.chans, .seqs, .sn] s (State.arriveEic s t) := by
  unfold State.arriveEic
  extract_lets l k s1
  have h1 : State.Changes [.chans, .seqs, .sn] s s1 := (State.modSn_changes s _ fun n g => n.setPending_counts _ _ g).mono rfl
  clear_value s1
  split
  · exact h1
  · exact h1.step (State.inputOvf_changes _ _) rfl

theorem State.takeCount_changes (s : State) (t : Nat) :
    State.Changes [.sn] s (State.takeCount s t).2 := by
  unfold State.takeCount
  split
  · exact .refl _ _
  · exact State.modSn_changes s _ fun n g => n.setPending_counts _ _ g

theorem State.clearInputs_changes (s : State) (c : Fin 256) :
    State.Changes [.sn] s (State.clearInputs s c) :=
  State.modSn_changes s _ fun _ g =>
    foldl_keep (p := fun n : Spinel => sparseWf [] n.counts = true) g fun n _ g => n.setPending_counts _ _ g

theorem State.snMark_changes (s : State) :
    State.Changes [.sn] s (State.snMark s) := by
  unfold State.snMark
  try dsimp only
  repeat'
    first
    | with_reducible apply State.Changes.refl
    | exact rfl
    | dsimp only
    | with_reducible apply State.Changes.step (k := State.modSn_changes _ _ ?_)
    | (intro _ h; exact h)
    | split

theorem State.takeHw_changes (s : State) (t : Nat) :
    State.Changes [.sn] s (State.takeHw s t).2 := by
  unfold State.takeHw
  try dsimp only
  repeat'
    first
    | with_reducible apply State.Changes.refl
    | exact rfl
    | dsimp only
    | with_reducible apply State.Changes.step (k := State.modSn_changes _ _ ?_)
    | with_reducible apply State.Changes.step (k := State.takeCount_changes _ _)
    | refine State.Changes.snd (f := State.takeCount _ _) (by with_reducible assumption) (State.takeCount_changes _ _) ?_ ?_
    | (intro _ h; exact h)
    | split

theorem State.eventEntry_changes (s : State) (c : Fin 256) :
    State.Changes [.sn] s (State.eventEntry s c) := by
  unfold State.eventEntry
  try dsimp only
  repeat'
    first
    | with_reducible apply State.Changes.refl
    | exact rfl
    | with_reducible apply State.Changes.step (k := State.modSn_changes _ _ ?_)
    | (intro _ h; (try dsimp only); (repeat' split) <;> first | exact h | simpa using h)
    | split

theorem State.eventArrival_changes (s : State) (c : Fin 256) :
    State.Changes [.chans, .seqs, .sn] s (State.eventArrival s c) := by
  unfold State.eventArrival
  try dsimp only
  repeat'
    first
    | with_reducible apply State.Changes.refl
    | exact rfl
    | dsimp only
    | with_reducible apply State.Changes.foldl
    | with_reducible apply State.Changes.step (k := State.arrive_changes _ _ _)
    | with_reducible apply State.Changes.step (k := State.modSn_changes _ _ ?_)
    | (intro _ h; exact h)
    | intro _
    | split

theorem State.groupSet_changes (s : State) (g : Fin 16) (v : Bool) :
    State.Changes [.sn] s (State.groupSet s g v) := by
  unfold State.groupSet
  try dsimp only
  repeat'
    first
    | with_reducible apply State.Changes.refl
    | exact rfl
    | with_reducible apply State.Changes.step (k := State.modSn_changes _ _ ?_)
    | (intro _ h; (try dsimp only); (repeat' split) <;> first | exact h | simpa using h)

theorem State.groupEnable_changes (s : State) (g : Fin 16) :
    State.Changes [.sn] s (State.groupEnable s g) := by
  unfold State.groupEnable
  try dsimp only
  repeat'
    first
    | with_reducible apply State.Changes.refl
    | exact rfl
    | with_reducible apply State.Changes.step (k := State.groupSet_changes _ _ _)
    | refine State.Changes.snd (f := State.takeHw _ _) (by with_reducible assumption) (State.takeHw_changes _ _) ?_ ?_
    | split

theorem State.groupDisable_changes (s : State) (g : Fin 16) :
    State.Changes [.sn] s (State.groupDisable s g) := by
  unfold State.groupDisable
  try dsimp only
  repeat'
    first
    | with_reducible apply State.Changes.refl
    | exact rfl
    | with_reducible apply State.Changes.step (k := State.groupSet_changes _ _ _)
    | refine State.Changes.snd (f := State.takeHw _ _) (by with_reducible assumption) (State.takeHw_changes _ _) ?_ ?_
    | split

theorem State.groupSwitch_changes (s : State) (v : W32) :
    State.Changes [.sn] s (State.groupSwitch s v) := by
  unfold State.groupSwitch
  try dsimp only
  repeat'
    first
    | with_reducible apply State.Changes.refl
    | exact rfl
    | dsimp only
    | with_reducible apply State.Changes.step (k := State.snMark_changes _)
    | with_reducible apply State.Changes.step (k := State.modSn_changes _ _ ?_)
    | (intro _ h; exact h)

theorem State.exportEvent_changes (s : State) (k : Fin 16) :
    State.Changes [.sn] s (State.exportEvent s k) := by
  unfold State.exportEvent
  try dsimp only
  repeat'
    first
    | with_reducible apply State.Changes.refl
    | exact rfl
    | dsimp only
    | with_reducible apply State.Changes.step (k := State.modSn_changes _ _ ?_)
    | refine State.Changes.snd (f := State.takeHw _ _) (by with_reducible assumption) (State.takeHw_changes _ _) ?_ ?_
    | (intro _ h; exact h)
    | split

theorem State.takeInputs_changes (s : State) (base : Nat) (k : Nat) :
    State.Changes [.sn] s (State.takeInputs s base k).2 := by
  refine State.Changes.foldl_snd (.refl _ _) fun z i => ?_
  have g := State.takeHw_changes z.2 (base + i)
  split <;> exact g.atPair (by assumption)

theorem State.lutEvaluate_changes (s : State) (c : Fin 32) :
    State.Changes [.sn] s (State.lutEvaluate s c) := by
  unfold State.lutEvaluate
  extract_lets x x0
  split
  · have h1 := (State.takeInputs_changes s (1088 + 5 * c.val) 5).mono (m := [.sn]) rfl
    split
    rename_i acc s1 e1
    rw [e1] at h1
    split
    rename_i x1 ev e2
    extract_lets s2
    have h2 : State.Changes [.sn] s s2 := h1.step (State.modSn_changes s1 _ fun _ g => g) rfl
    clear_value s2
    split
    · exact h2.step (State.fireHop_changes _ _ _ _) rfl
    · exact h2
  · exact .refl _ _

theorem State.lutClear_changes (s : State) (c : Fin 32) :
    State.Changes [.sn] s (State.lutClear s c) := by
  unfold State.lutClear
  try dsimp only
  repeat'
    first
    | with_reducible apply State.Changes.refl
    | exact rfl
    | dsimp only
    | with_reducible apply State.Changes.step (k := State.snMark_changes _)
    | with_reducible apply State.Changes.step (k := State.modSn_changes _ _ ?_)
    | (intro _ h; exact h)

theorem State.lutFilt_changes (s : State) (c : Fin 32) (v : W32) :
    State.Changes [.sn] s (State.lutFilt s c v) := by
  unfold State.lutFilt
  try dsimp only
  repeat'
    first
    | with_reducible apply State.Changes.refl
    | exact rfl
    | dsimp only
    | with_reducible apply State.Changes.step (k := State.snMark_changes _)
    | with_reducible apply State.Changes.step (k := State.modSn_changes _ _ ?_)
    | (intro _ h; exact h)

theorem State.snCfg_changes (s : State) (v : W32) :
    State.Changes [.sn] s (State.snCfg s v) := by
  unfold State.snCfg
  try dsimp only
  repeat'
    first
    | with_reducible apply State.Changes.refl
    | exact rfl
    | dsimp only
    | with_reducible apply State.Changes.step (k := State.snMark_changes _)
    | with_reducible apply State.Changes.step (k := State.modSn_changes _ _ ?_)
    | (intro _ h; exact h)

theorem State.loopRefuse_changes (s : State) (a : Fin 32) :
    State.Changes [.sn] s (State.loopRefuse s a) := by
  unfold State.loopRefuse
  try dsimp only
  repeat'
    first
    | with_reducible apply State.Changes.refl
    | exact rfl
    | dsimp only
    | with_reducible apply State.Changes.step (k := State.modSn_changes _ _ ?_)
    | (intro _ h; exact h)

theorem State.lutCfg_changes (s0 : State) (c : Fin 32) (v : W32) :
    State.Changes [.sn] s0 (State.lutCfg s0 c v) := by
  unfold State.lutCfg
  dsimp -zeta only [← State.set_sn_eq]
  try dsimp only
  repeat'
    first
    | with_reducible apply State.Changes.refl
    | exact rfl
    | dsimp only
    | with_reducible apply State.Changes.sn
    | with_reducible apply State.Changes.step (k := State.loopRefuse_changes _ _)
    | with_reducible apply State.Changes.step (k := State.snMark_changes _)
    | exact fun h => h
    | split

theorem State.subWrite_changes (s0 : State) (i : Fin 648) (v : W32) :
    State.Changes [.sn] s0 (State.subWrite s0 i v) := by
  unfold State.subWrite
  dsimp -zeta only [← State.set_sn_eq]
  try dsimp only
  repeat'
    first
    | with_reducible apply State.Changes.refl
    | exact rfl
    | dsimp only
    | with_reducible apply State.Changes.sn
    | with_reducible apply State.Changes.step (k := State.loopRefuse_changes _ _)
    | with_reducible apply State.Changes.step (k := State.snMark_changes _)
    | exact fun h => h
    | split

theorem State.snChCfg_changes (s : State) (c : Fin 256) (v : W32) :
    State.Changes [.sn] s (State.snChCfg s c v) := by
  unfold State.snChCfg
  try dsimp only
  repeat'
    first
    | with_reducible apply State.Changes.refl
    | exact rfl
    | dsimp only
    | with_reducible apply State.Changes.step (k := State.snMark_changes _)
    | with_reducible apply State.Changes.step (k := State.modSn_changes _ _ ?_)
    | (intro _ h; exact h)

theorem State.snStatW_changes (s : State) (v : W32) :
    State.Changes [.sn] s (State.snStatW s v) := by
  unfold State.snStatW
  try dsimp only
  repeat'
    first
    | with_reducible apply State.Changes.refl
    | exact rfl
    | dsimp only
    | with_reducible apply State.Changes.step (k := State.modSn_changes _ _ ?_)
    | (intro _ h; exact h)

theorem State.snExpW_changes (s : State) (k : Fin 16) (v : W32) :
    State.Changes [.sn] s (State.snExpW s k v) := by
  unfold State.snExpW
  try dsimp only
  repeat'
    first
    | with_reducible apply State.Changes.refl
    | exact rfl
    | dsimp only
    | with_reducible apply State.Changes.step (k := State.modSn_changes _ _ ?_)
    | (intro _ h; exact h)

theorem State.snOvfW_changes (s : State) (i : Nat) (v : W32) :
    State.Changes [.sn] s (State.snOvfW s i v) := by
  unfold State.snOvfW
  try dsimp only
  repeat'
    first
    | with_reducible apply State.Changes.refl
    | exact rfl
    | dsimp only
    | with_reducible apply State.Changes.step (k := State.modSn_changes _ _ ?_)
    | (intro _ h; exact h)

theorem State.modEic_changes (s : State) (f : Eic → Eic) :
    State.Changes [.eic] s (State.modEic s f) := by
  unfold State.modEic
  dsimp -zeta only [← State.set_eic_eq]
  try dsimp only
  repeat'
    first
    | with_reducible apply State.Changes.refl
    | exact rfl
    | with_reducible apply State.Changes.eic

theorem State.modSrc_changes (s : State) (n : Fin 512) (f : Source → Source) :
    State.Changes [.eic] s (State.modSrc s n f) := by
  unfold State.modSrc
  try dsimp only
  repeat'
    first
    | with_reducible apply State.Changes.refl
    | exact rfl
    | with_reducible apply State.Changes.step (k := State.modEic_changes _ _)

theorem State.modTarget_changes (s : State) (t : Fin 18) (f : Target → Target) :
    State.Changes [.eic] s (State.modTarget s t f) := by
  unfold State.modTarget
  try dsimp only
  repeat'
    first
    | with_reducible apply State.Changes.refl
    | exact rfl
    | with_reducible apply State.Changes.step (k := State.modEic_changes _ _)

theorem State.modGroup_changes (s : State) (g : Fin 32) (f : ModGroup → ModGroup) :
    State.Changes [.eic] s (State.modGroup s g f) := by
  unfold State.modGroup
  try dsimp only
  repeat'
    first
    | with_reducible apply State.Changes.refl
    | exact rfl
    | with_reducible apply State.Changes.step (k := State.modEic_changes _ _)

theorem State.eicFall_changes (s : State) :
    State.Changes [.eic] s (State.eicFall s) := by
  unfold State.eicFall
  try dsimp only
  repeat'
    first
    | with_reducible apply State.Changes.refl
    | exact rfl
    | with_reducible apply State.Changes.step (k := State.modEic_changes _ _)

theorem State.wakeHalf_changes (s : State) (h : Fin 2) :
    State.Changes [.power, .dbg] s (State.wakeHalf s h) := by
  unfold State.wakeHalf
  dsimp -zeta only [← State.set_power_dbg_eq, ← State.set_power_eq, ← State.set_dbg_eq]
  try dsimp only
  repeat'
    first
    | with_reducible apply State.Changes.refl
    | exact rfl
    | with_reducible apply State.Changes.power
    | with_reducible apply State.Changes.dbg

theorem State.attend_changes (s0 : State) (n : Fin 512) :
    State.Changes [.power, .eic, .dbg] s0 (State.attend s0 n) := by
  unfold State.attend
  try dsimp only
  repeat'
    first
    | with_reducible apply State.Changes.refl
    | exact rfl
    | with_reducible apply State.Changes.step (k := State.wakeHalf_changes _ _)
    | with_reducible apply State.Changes.step (k := State.modTarget_changes _ _ _)
    | with_reducible apply State.Changes.step (k := State.modSrc_changes _ _ _)
    | split

theorem State.eicSettle_changes (s : State) :
    State.Changes [.power, .eic, .dbg] s (State.eicSettle s) := by
  unfold State.eicSettle
  try dsimp only
  repeat'
    first
    | with_reducible apply State.Changes.refl
    | exact rfl
    | with_reducible apply State.Changes.foldl
    | with_reducible apply State.Changes.step (k := State.attend_changes _ _)
    | with_reducible apply State.Changes.step (k := State.eicFall_changes _)
    | with_reducible apply State.Changes.step (k := State.modEic_changes _ _)
    | intro _

theorem State.release_changes (s : State) (g : Fin 32) :
    State.Changes [.eic] s (State.release s g) := by
  unfold State.release
  try dsimp only
  repeat'
    first
    | with_reducible apply State.Changes.refl
    | exact rfl
    | with_reducible apply State.Changes.foldl
    | with_reducible apply State.Changes.step (k := State.modSrc_changes _ _ _)
    | intro _

theorem State.becomePending_changes (s : State) (n : Fin 512) :
    State.Changes [.eic] s (State.becomePending s n) := by
  unfold State.becomePending
  try dsimp only
  repeat'
    first
    | with_reducible apply State.Changes.refl
    | exact rfl
    | with_reducible apply State.Changes.step (k := State.release_changes _ _)
    | with_reducible apply State.Changes.step (k := State.modGroup_changes _ _ _)
    | with_reducible apply State.Changes.step (k := State.modSrc_changes _ _ _)
    | split

theorem State.follow_changes (s : State) (n : Fin 512) :
    State.Changes [.eic] s (State.follow s n) := by
  unfold State.follow
  try dsimp only
  repeat'
    first
    | with_reducible apply State.Changes.refl
    | exact rfl
    | with_reducible apply State.Changes.step (k := State.modSrc_changes _ _ _)
    | with_reducible apply State.Changes.step (k := State.becomePending_changes _ _)
    | split

theorem State.sample_changes (s : State) (n : Fin 512) (v : Bool) :
    State.Changes [.power, .eic, .dbg] s (State.sample s n v) := by
  unfold State.sample
  try dsimp only
  repeat'
    first
    | with_reducible apply State.Changes.refl
    | exact rfl
    | with_reducible apply State.Changes.step (k := State.modSrc_changes _ _ _)
    | with_reducible apply State.Changes.step (k := State.follow_changes _ _)
    | with_reducible apply State.Changes.step (k := State.eicSettle_changes _)
    | split

theorem State.setPend_changes (s : State) (n : Fin 512) :
    State.Changes [.power, .eic, .dbg] s (State.setPend s n) := by
  unfold State.setPend
  try dsimp only
  repeat'
    first
    | with_reducible apply State.Changes.refl
    | exact rfl
    | with_reducible apply State.Changes.step (k := State.modSrc_changes _ _ _)
    | with_reducible apply State.Changes.step (k := State.follow_changes _ _)
    | with_reducible apply State.Changes.step (k := State.eicSettle_changes _)
    | split

theorem State.clrPend_changes (s : State) (n : Fin 512) :
    State.Changes [.power, .eic, .dbg] s (State.clrPend s n) := by
  unfold State.clrPend
  try dsimp only
  repeat'
    first
    | with_reducible apply State.Changes.refl
    | exact rfl
    | with_reducible apply State.Changes.step (k := State.modSrc_changes _ _ _)
    | with_reducible apply State.Changes.step (k := State.follow_changes _ _)
    | with_reducible apply State.Changes.step (k := State.eicSettle_changes _)
    | split

theorem State.claim_changes (s : State) (t : Fin 18) :
    State.Changes [.eic] s (State.claim s t).2 := by
  unfold State.claim
  split
  · dsimp only; exact State.modEic_changes _ _
  · dsimp only; exact ((State.modSrc_changes _ _ _).trans (State.modTarget_changes _ _ _)).trans (State.eicFall_changes _)

theorem State.completeTop_changes (s : State) (t : Fin 18) (level : Fin 512 → Bool) :
    State.Changes [.eic] s (State.completeTop s t level) := by
  unfold State.completeTop
  try dsimp only
  repeat'
    first
    | with_reducible apply State.Changes.refl
    | exact rfl
    | with_reducible apply State.Changes.step (k := State.modSrc_changes _ _ _)
    | with_reducible apply State.Changes.step (k := State.follow_changes _ _)
    | with_reducible apply State.Changes.step (k := State.modTarget_changes _ _ _)
    | split

theorem State.complete_changes (s : State) (t : Fin 18) (level : Fin 512 → Bool) :
    State.Changes [.power, .eic, .dbg] s (State.complete s t level).2 := by
  unfold State.complete
  try dsimp only
  repeat'
    first
    | with_reducible apply State.Changes.refl
    | exact rfl
    | with_reducible apply State.Changes.step (k := State.completeTop_changes _ _ _)
    | with_reducible apply State.Changes.step (k := State.eicSettle_changes _)

theorem State.emptyStack_changes (s : State) (t : Fin 18) (level : Fin 512 → Bool) :
    State.Changes [.eic] s (State.emptyStack s t level) := by
  unfold State.emptyStack
  try dsimp only
  repeat'
    first
    | with_reducible apply State.Changes.refl
    | exact rfl
    | with_reducible apply State.Changes.foldl
    | with_reducible apply State.Changes.step (k := State.completeTop_changes _ _ _)
    | intro _

theorem State.srcWrite_changes (s : State) (n : Fin 512) (v : W32) :
    State.Changes [.power, .eic, .dbg] s (State.srcWrite s n v) := by
  unfold State.srcWrite
  try dsimp only
  repeat'
    first
    | with_reducible apply State.Changes.refl
    | exact rfl
    | with_reducible apply State.Changes.step (k := State.modSrc_changes _ _ _)
    | with_reducible apply State.Changes.step (k := State.eicSettle_changes _)
    | split

theorem State.targetCfg_changes (s : State) (t : Fin 18) (v : W32) (level : Fin 512 → Bool) :
    State.Changes [.power, .eic, .dbg] s (State.targetCfg s t v level) := by
  unfold State.targetCfg
  try dsimp only
  repeat'
    first
    | with_reducible apply State.Changes.refl
    | exact rfl
    | with_reducible apply State.Changes.step (k := State.emptyStack_changes _ _ _)
    | with_reducible apply State.Changes.step (k := State.eicSettle_changes _)
    | with_reducible apply State.Changes.step (k := State.modTarget_changes _ _ _)
    | split

theorem State.targetThr_changes (s : State) (t : Fin 18) (v : W32) :
    State.Changes [.power, .eic, .dbg] s (State.targetThr s t v) := by
  unfold State.targetThr
  try dsimp only
  repeat'
    first
    | with_reducible apply State.Changes.refl
    | exact rfl
    | with_reducible apply State.Changes.step (k := State.modTarget_changes _ _ _)
    | with_reducible apply State.Changes.step (k := State.eicSettle_changes _)

theorem State.modCfg_changes (s : State) (g : Fin 32) (v : W32) :
    State.Changes [.power, .eic, .dbg] s (State.modCfg s g v) := by
  unfold State.modCfg
  try dsimp only
  repeat'
    first
    | with_reducible apply State.Changes.refl
    | exact rfl
    | with_reducible apply State.Changes.step (k := State.release_changes _ _)
    | with_reducible apply State.Changes.step (k := State.eicSettle_changes _)
    | with_reducible apply State.Changes.step (k := State.modGroup_changes _ _ _)
    | split

theorem State.modWindowEnd_changes (s : State) (g : Fin 32) :
    State.Changes [.power, .eic, .dbg] s (State.modWindowEnd s g) := by
  unfold State.modWindowEnd
  try dsimp only
  repeat'
    first
    | with_reducible apply State.Changes.refl
    | exact rfl
    | with_reducible apply State.Changes.step (k := State.release_changes _ _)
    | with_reducible apply State.Changes.step (k := State.eicSettle_changes _)
    | with_reducible apply State.Changes.step (k := State.modGroup_changes _ _ _)
    | split

theorem State.deliver_changes (s : State) (t : Fin 18) :
    State.Changes [.power, .chans, .seqs, .sn, .eic, .dbg] s (State.deliver s t) := by
  unfold State.deliver
  try dsimp only
  repeat'
    first
    | with_reducible apply State.Changes.refl
    | exact rfl
    | with_reducible apply State.Changes.step (k := State.arriveEic_changes _ _)
    | with_reducible apply State.Changes.step (k := State.modTarget_changes _ _ _)
    | with_reducible apply State.Changes.step (k := State.eicSettle_changes _)
    | split

theorem State.orphW_changes (s : State) (j : Nat) (v : W32) :
    State.Changes [.eic] s (State.orphW s j v) := by
  unfold State.orphW
  try dsimp only
  repeat'
    first
    | with_reducible apply State.Changes.refl
    | exact rfl
    | with_reducible apply State.Changes.step (k := State.modEic_changes _ _)

theorem State.modSeq_changes (s : State) (n : Fin 16) (f : Seq → Seq) :
    State.Changes [.seqs] s (State.modSeq s n f) := by
  unfold State.modSeq
  dsimp -zeta only [← State.set_seqs_eq]
  try dsimp only
  repeat'
    first
    | with_reducible apply State.Changes.refl
    | exact rfl
    | with_reducible apply State.Changes.seqs

theorem State.modChan_changes (s : State) (c : Fin 256) (f : Channel → Channel) :
    State.Changes [.chans] s (State.modChan s c f) := by
  unfold State.modChan
  dsimp -zeta only [← State.set_chans_eq]
  try dsimp only
  repeat'
    first
    | with_reducible apply State.Changes.refl
    | exact rfl
    | with_reducible apply State.Changes.chans

theorem State.uw_changes (s : State) (n : Fin 16) (k : Nat) :
    State.Changes [.seqs] s (State.uw s n k) := by
  unfold State.uw
  try dsimp only
  repeat'
    first
    | with_reducible apply State.Changes.refl
    | exact rfl
    | with_reducible apply State.Changes.step (k := State.modSeq_changes _ _ _)

theorem State.ctxWrite_changes (s : State) (n : Fin 16) (a : Nat) (l : List W32) :
    State.Changes [.seqs, .mem] s (State.ctxWrite s n a l) := by
  induction l using List.twoStepInduction generalizing s a with
  | nil => exact .refl _ _
  | singleton x => exact State.memWrite_changes _ _ _ _ _
  | cons_cons x y r ih _ => exact (State.memWrite_changes _ _ _ _ _).trans (ih _ _)

theorem State.ctxRead_changes (s : State) (n : Fin 16) (a : Nat) (k : Nat) :
    State.Changes [.mem] s (State.ctxRead s n a k).2 := by
  induction k generalizing s a with
  | zero => exact .refl _ _
  | succ k ih =>
    unfold State.ctxRead
    have h := State.memRead_changes s n a 8
    split
    · next lost => exact h.atPair lost
    · next got =>
      have j := (h.atPair got).trans (ih _ (a + 8))
      split <;> exact j.atPair (by assumption)

theorem State.anchor_changes (s : State) (n : Fin 16) (c : Fin 256) :
    State.Changes [.mem] s (State.anchor s n c).2 := by
  unfold State.anchor
  try dsimp only
  repeat'
    first
    | with_reducible apply State.Changes.refl
    | assumption
    | exact rfl
    | dsimp only
    | with_reducible apply State.Changes.foldl
    | with_reducible apply State.Changes.step (k := State.ctxRead_changes _ _ _ _)
    | refine State.Changes.snd (f := State.ctxRead _ _ _ _) (by with_reducible assumption) (State.ctxRead_changes _ _ _ _) ?_ ?_
    | intro _
    | split

theorem State.setAnchor_changes (s : State) (n : Fin 16) (c : Fin 256) (x : Anchor) :
    State.Changes [.seqs, .mem] s (State.setAnchor s n c x) := by
  unfold State.setAnchor
  try dsimp only
  repeat'
    first
    | with_reducible apply State.Changes.refl
    | assumption
    | exact rfl
    | dsimp only
    | with_reducible apply State.Changes.foldl
    | with_reducible apply State.Changes.step (k := State.ctxWrite_changes _ _ _ _)
    | intro _
    | split

theorem State.spillWin_changes (s : State) (n : Fin 16) (w : Fin 8) :
    (State.spillWin s n w).All (State.Changes [.seqs, .pool, .mem] s) := by
  unfold State.spillWin
  dsimp -zeta only [← State.set_pool_eq]
  try dsimp only
  repeat'
    first
    | with_reducible apply State.Changes.refl
    | assumption
    | exact rfl
    | dsimp only
    | with_reducible apply State.Changes.foldl
    | with_reducible apply State.Changes.pool
    | with_reducible apply State.Changes.step (k := State.uw_changes _ _ _)
    | with_reducible apply State.Changes.step (k := State.modSeq_changes _ _ _)
    | with_reducible apply State.Changes.step (k := State.setAnchor_changes _ _ _ _)
    | with_reducible apply State.Changes.step (k := State.ctxWrite_changes _ _ _ _)
    | with_reducible apply State.Changes.step (k := State.anchor_changes _ _ _)
    | refine State.Changes.snd (f := State.anchor _ _ _) (by with_reducible assumption) (State.anchor_changes _ _ _) ?_ ?_
    | with_reducible apply Work.of_done
    | with_reducible apply Work.of_pool
    | with_reducible apply Work.of_ecc
    | with_reducible apply Work.of_trap
    | intro _
    | split

theorem State.fillWin_changes (s : State) (n : Fin 16) (w : Fin 8) :
    (State.fillWin s n w).All (State.Changes [.seqs, .pool, .mem] s) := by
  unfold State.fillWin
  dsimp -zeta only [← State.set_pool_eq]
  try dsimp only
  repeat'
    first
    | with_reducible apply State.Changes.refl
    | assumption
    | exact rfl
    | dsimp only
    | with_reducible apply State.Changes.foldl
    | with_reducible apply State.Changes.pool
    | with_reducible apply State.Changes.step (k := State.modSeq_changes _ _ _)
    | with_reducible apply State.Changes.step (k := State.uw_changes _ _ _)
    | with_reducible apply State.Changes.step (k := State.setAnchor_changes _ _ _ _)
    | with_reducible apply State.Changes.step (k := State.ctxRead_changes _ _ _ _)
    | refine State.Changes.snd (f := State.ctxRead _ _ _ _) (by with_reducible assumption) (State.ctxRead_changes _ _ _ _) ?_ ?_
    | with_reducible apply State.Changes.step (k := State.anchor_changes _ _ _)
    | refine State.Changes.snd (f := State.anchor _ _ _) (by with_reducible assumption) (State.anchor_changes _ _ _) ?_ ?_
    | with_reducible apply Work.of_done
    | with_reducible apply Work.of_pool
    | with_reducible apply Work.of_ecc
    | with_reducible apply Work.of_trap
    | intro _
    | split

theorem State.wopen_changes (s : State) (n : Fin 16) (limit : Nat) :
    (State.wopen s n limit).All (State.Changes [.seqs, .pool, .mem, .free] s) := by
  unfold State.wopen
  dsimp -zeta only [← State.set_free_eq]
  try dsimp only
  repeat'
    first
    | with_reducible apply State.Changes.refl
    | exact rfl
    | with_reducible apply State.Changes.free
    | with_reducible apply Work.All.step (k := State.spillWin_changes _ _ _)
    | refine State.Changes.step ?_ (Work.All.done (State.spillWin_changes _ _ _) (by with_reducible assumption)) ?_
    | refine State.Changes.snd (f := State.anchor _ _ _) (by with_reducible assumption) (State.anchor_changes _ _ _) ?_ ?_
    | with_reducible apply State.Changes.step (k := State.modSeq_changes _ _ _)
    | with_reducible apply Work.of_done
    | split

theorem State.wclose_changes (s : State) (n : Fin 16) :
    (State.wclose s n).All (State.Changes [.seqs, .pool, .mem] s) := by
  unfold State.wclose
  try dsimp only
  repeat'
    first
    | with_reducible apply State.Changes.refl
    | exact rfl
    | with_reducible apply Work.All.step (k := State.fillWin_changes _ _ _)
    | refine State.Changes.step ?_ (Work.All.done (State.fillWin_changes _ _ _) (by with_reducible assumption)) ?_
    | refine State.Changes.snd (f := State.anchor _ _ _) (by with_reducible assumption) (State.anchor_changes _ _ _) ?_ ?_
    | with_reducible apply State.Changes.step (k := State.modSeq_changes _ _ _)
    | with_reducible apply Work.of_done
    | split

theorem State.spillAll_changes (s : State) (n : Fin 16) (k : Nat) :
    (State.spillAll s n k).All (State.Changes [.seqs, .pool, .mem] s) := by
  induction k generalizing s with
  | zero => exact State.Changes.refl _ _
  | succ k ih =>
    unfold State.spillAll
    have h := State.spillWin_changes s n (winUp (s.seqs.at n).cw (8 - (k + 1)))
    split
    · rename_i z e; exact (ih z).step rfl (h.done e)
    · exact h

theorem State.floatSave_changes (s : State) (n : Fin 16) :
    (State.floatSave s n).All (State.Changes [.seqs, .pool, .mem] s) := by
  unfold State.floatSave
  dsimp -zeta only [← State.set_pool_eq]
  try dsimp only
  repeat'
    first
    | with_reducible apply State.Changes.refl
    | assumption
    | exact rfl
    | dsimp only
    | with_reducible apply State.Changes.foldl
    | with_reducible apply State.Changes.pool
    | with_reducible apply State.Changes.step (k := State.modSeq_changes _ _ _)
    | with_reducible apply State.Changes.step (k := State.uw_changes _ _ _)
    | with_reducible apply State.Changes.step (k := State.setAnchor_changes _ _ _ _)
    | with_reducible apply State.Changes.step (k := State.ctxWrite_changes _ _ _ _)
    | with_reducible apply State.Changes.step (k := State.anchor_changes _ _ _)
    | refine State.Changes.snd (f := State.anchor _ _ _) (by with_reducible assumption) (State.anchor_changes _ _ _) ?_ ?_
    | with_reducible apply Work.of_done
    | with_reducible apply Work.of_pool
    | with_reducible apply Work.of_ecc
    | with_reducible apply Work.of_trap
    | intro _
    | split

theorem State.floatOwn_changes (s : State) (n : Fin 16) :
    (State.floatOwn s n).All (State.Changes [.seqs, .pool, .mem] s) := by
  unfold State.floatOwn
  dsimp only
  split
  · exact .refl _ _
  · have h : (if ((s.seqs.at n).fownV && (s.seqs.at n).fownD) = true then s.floatSave n else .done s).All
        (State.Changes [.seqs, .pool, .mem] s) := by
      split
      · exact State.floatSave_changes s n
      · exact .refl _ _
    split
    · next s1 saved =>
      have h2 := State.Changes.step (h.done saved) (State.anchor_changes s1 n (s.seqs.at n).cx) rfl
      split
      · next lost => exact h2.atPair lost
      · next a s2 found =>
        have h3 := h2.atPair found
        split
        · have h4 := h3.step (State.ctxRead_changes s2 n (nodeAddr a.float) 17) rfl
          split
          · next lost => exact h4.atPair lost
          · next got =>
            exact (((h4.atPair got).step (State.modSeq_changes _ _ _) rfl).step (State.modSeq_changes _ _ _) rfl).step
              (State.uw_changes _ _ _) rfl
        · exact ((h3.step (State.modSeq_changes _ _ _) rfl).step (State.modSeq_changes _ _ _) rfl).step
            (State.uw_changes _ _ _) rfl
    · exact h

theorem State.dropFown_changes (s : State) (c : Fin 256) :
    State.Changes [.seqs] s (State.dropFown s c) := by
  unfold State.dropFown
  dsimp -zeta only [← State.set_seqs_eq]
  try dsimp only
  repeat'
    first
    | with_reducible apply State.Changes.refl
    | exact rfl
    | with_reducible apply State.Changes.seqs

theorem State.saveLower_changes (s : State) (n : Fin 16) (a : Anchor) :
    State.Changes [.seqs, .mem] s (State.saveLower s n a) := by
  unfold State.saveLower
  try dsimp only
  repeat'
    first
    | with_reducible apply State.Changes.refl
    | assumption
    | exact rfl
    | dsimp only
    | with_reducible apply State.Changes.foldl
    | with_reducible apply State.Changes.step (k := State.ctxWrite_changes _ _ _ _)
    | with_reducible apply State.Changes.step (k := State.uw_changes _ _ _)
    | intro _
    | split

theorem State.saveUpper_changes (s : State) (n : Fin 16) (a : Anchor) :
    ∀ z, State.saveUpper s n a = some z → State.Changes [.seqs, .pool, .mem] s z := by
  intro z h
  simp only [State.saveUpper] at h
  split at h
  · exact Option.some.inj h ▸ (State.setAnchor_changes _ _ _ _).mono rfl
  · split at h
    · exact nomatch h
    · obtain rfl := Option.some.inj h
      refine State.Changes.step (State.Changes.step ?_ (State.setAnchor_changes _ _ _ _) rfl) (State.uw_changes _ _ _) rfl
      exact ((State.Changes.refl _ s).pool rfl).foldl fun _ _ => (State.ctxWrite_changes _ _ _ _).mono rfl

theorem State.saveFloat_changes (s : State) (n : Fin 16) : (State.saveFloat s n).All (State.Changes [.seqs, .pool, .mem] s) := by
  unfold State.saveFloat
  extract_lets q own
  have h : (if (own && q.fownD) = true then s.floatSave n else .done s).All (State.Changes [.seqs, .pool, .mem] s) := by
    split
    · exact (State.floatSave_changes s n).step rfl (.refl _ s)
    · exact State.Changes.refl _ _
  split <;> rename_i saved <;> rw [saved] at h
  · exact Saved.of_done (State.Changes.step h (State.modSeq_changes _ _ _) rfl)
  · exact h
  · exact h
  · exact h

theorem State.saveRest_changes (s : State) (n : Fin 16) (a : Anchor) :
    (State.saveRest s n a).All (State.Changes [.seqs, .pool, .mem] s) := by
  unfold State.saveRest
  try dsimp only
  repeat'
    first
    | with_reducible apply State.Changes.refl
    | exact rfl
    | with_reducible apply Saved.All.step (k := State.saveFloat_changes _ _)
    | refine State.Changes.step ?_ (State.saveUpper_changes _ _ _ _ (by with_reducible assumption)) ?_
    | with_reducible apply Saved.of_pool
    | split

theorem State.saveContext_changes (s : State) (n : Fin 16) :
    (State.saveContext s n).All (State.Changes [.seqs, .pool, .mem, .cs] s) := by
  unfold State.saveContext
  try dsimp only
  repeat'
    first
    | with_reducible apply State.Changes.refl
    | exact rfl
    | with_reducible apply State.Changes.step (k := State.saveLower_changes _ _ _)
    | with_reducible apply Saved.All.step (k := State.saveRest_changes _ _ _)
    | refine State.Changes.snd (f := State.anchor _ _ _) (by with_reducible assumption) (State.anchor_changes _ _ _) ?_ ?_
    | refine State.Changes.snd (f := State.vendorFetch _ _ _) (by with_reducible assumption) (State.vendorFetch_changes _ _ _) ?_ ?_
    | split

theorem State.saveFrom_changes (s : State) (n : Fin 16) (step : Nat) :
    (State.saveFrom s n step).All (State.Changes [.seqs, .pool, .mem] s) := by
  unfold State.saveFrom
  try dsimp only
  repeat'
    first
    | with_reducible apply State.Changes.refl
    | exact rfl
    | with_reducible apply Saved.All.step (k := State.saveRest_changes _ _ _)
    | refine State.Changes.snd (f := State.anchor _ _ _) (by with_reducible assumption) (State.anchor_changes _ _ _) ?_ ?_
    | with_reducible apply Saved.All.step (k := State.saveFloat_changes _ _)
    | split

theorem State.loadContext_changes (s : State) (n : Fin 16) (c : Fin 256) :
    (State.loadContext s n c).All (State.Changes [.seqs, .mem, .free] s) := by
  unfold State.loadContext
  have h1 := State.anchor_changes s n c
  split
  · next lost => exact (h1.atPair lost).mono rfl
  · next a s1 found =>
    have h2 : State.Changes [.seqs, .mem, .free] s (s1.ctxRead n (nodeAddr a.lower) 20).2 :=
      ((h1.atPair found).mono rfl).step (State.ctxRead_changes _ _ _ _) rfl
    split
    · next lost => exact h2.atPair lost
    · next r s2 got =>
      have h2' := h2.atPair got
      extract_lets w34 cw wv f y3 s3 slots b load
      have h3 : State.Changes [.seqs, .mem, .free] s s3 := by
        have h : State.Changes [.seqs, .mem, .free] s y3 := h2'.step (State.modSeq_changes _ _ _) rfl
        exact h.free rfl
      have key : ∀ (l : List Nat) (acc : Option State × State), State.Changes [.seqs, .mem, .free] s acc.2 →
          (∀ z, acc.1 = some z → State.Changes [.seqs, .mem, .free] s z) →
          State.Changes [.seqs, .mem, .free] s (l.foldl load acc).2 ∧
            ∀ z, (l.foldl load acc).1 = some z → State.Changes [.seqs, .mem, .free] s z := by
        intro l
        induction l with
        | nil => exact fun acc h k => ⟨h, k⟩
        | cons j l ih =>
          intro acc h k
          refine ih _ ?_ ?_
          all_goals
            obtain ⟨o, y⟩ := acc
            cases o with
            | none => first | exact h | exact k
            | some z =>
              have hz := k z rfl
              have h4 := hz.step (State.ctxRead_changes z n (slotAddr a.upper b j) 8) rfl
              simp only [load]
              split
              · next lost => first | exact h4.atPair lost | exact fun _ e => absurd e (by simp)
              · next got =>
                have h5 := h4.atPair got
                first
                | exact h5.step (State.modSeq_changes _ _ _) rfl
                | (intro y ey; cases ey; exact h5.step (State.modSeq_changes _ _ _) rfl)
      have h6 := key slots (some s3, s3) h3 (fun z e => by cases e; exact h3)
      split
      · next lost => exact h6.1.atPair lost
      · next all => exact State.Changes.step (h6.2 _ (congrArg Prod.fst all)) (State.uw_changes _ _ _) rfl

theorem State.makeReady_changes (s : State) (c : Fin 256) :
    State.Changes [.chans] s (State.makeReady s c) := by
  unfold State.makeReady
  try dsimp only
  repeat'
    first
    | with_reducible apply State.Changes.refl
    | exact rfl
    | with_reducible apply State.Changes.step (k := State.modChan_changes _ _ _)

theorem State.schedule_changes (s : State) (c : Fin 256) :
    State.Changes [.seqs] s (State.schedule s c) := by
  unfold State.schedule
  try dsimp only
  repeat'
    first
    | with_reducible apply State.Changes.refl
    | exact rfl
    | with_reducible apply State.Changes.step (k := State.reqSwitch_changes _ _)
    | split

theorem State.reread_changes (s : State) (c : Fin 256) (w : W32) :
    ∀ z, State.reread s c w = some z → State.Changes [.chans, .seqs] s z := by
  intro z h
  obtain ⟨-, kept⟩ := Option.ite_none_left_eq_some.mp h
  obtain rfl := Option.some.inj kept
  have h1 := (State.modChan_changes s c fun x => { x with config := mrg 0x3FF00000 (s.chans.at c).config w }).mono
    (m := [.chans, .seqs]) rfl
  split
  exacts [h1, h1.step (State.dropFown_changes _ _) rfl]

theorem State.resume_changes (s : State) (req : Nat) (c : Fin 256) :
    State.Changes [.power, .chans, .seqs, .mem, .eic, .dbg] s (State.resume s req c) := by
  unfold State.resume
  have h1 := (State.memRead_changes s req (descAddr c) 4).mono (m := [.power, .chans, .seqs, .mem, .eic, .dbg]) rfl
  dsimp only
  split
  · next s2 e =>
    obtain ⟨w, -, got⟩ := Option.bind_eq_some_iff.mp e
    exact (h1.step (State.reread_changes _ _ _ _ got) rfl).step (State.makeReady_changes _ _) rfl
      |>.step (State.eicSettle_changes _) rfl
  · exact h1.step (State.modChan_changes _ _ _) rfl

theorem State.stopChan_changes (s : State) (req : Nat) (c : Fin 256) :
    State.Changes [.power, .chans, .seqs, .mem, .eic, .dbg] s (State.stopChan s req c) := by
  unfold State.stopChan
  try dsimp only
  repeat'
    first
    | with_reducible apply State.Changes.refl
    | exact rfl
    | with_reducible apply State.Changes.step (k := State.resume_changes _ _ _)
    | with_reducible apply State.Changes.step (k := State.modChan_changes _ _ _)
    | split

theorem State.seqRests_changes (s : State) (n : Fin 16) :
    State.Changes [.power, .eic, .dbg] s (State.seqRests s n) := by
  unfold State.seqRests
  try dsimp only
  repeat'
    first
    | with_reducible apply State.Changes.refl
    | exact rfl
    | with_reducible apply State.Changes.step (k := State.eicSettle_changes _)
    | split

theorem State.seqFreed_changes (s : State) (n : Fin 16) :
    State.Changes [.power, .seqs, .eic, .dbg] s (State.seqFreed s n) := by
  unfold State.seqFreed
  try dsimp only
  repeat'
    first
    | with_reducible apply State.Changes.refl
    | exact rfl
    | with_reducible apply State.Changes.step (k := State.modSeq_changes _ _ _)
    | with_reducible apply State.Changes.step (k := State.seqRests_changes _ _)

theorem State.switchedOut_changes (s : State) (n : Fin 16) :
    State.Changes [.power, .chans, .seqs, .mem, .eic, .dbg] s (State.switchedOut s n) := by
  unfold State.switchedOut
  try dsimp only
  repeat'
    first
    | with_reducible apply State.Changes.refl
    | exact rfl
    | with_reducible apply State.Changes.step (k := State.makeReady_changes _ _)
    | with_reducible apply State.Changes.step (k := State.stopChan_changes _ _ _)
    | with_reducible apply State.Changes.step (k := State.modChan_changes _ _ _)
    | with_reducible apply State.Changes.step (k := State.seqFreed_changes _ _)
    | split

theorem State.enterPool_changes (s : State) (n : Fin 16) (w : PoolWork) :
    State.Changes [.chans, .seqs] s (State.enterPool s n w) := by
  unfold State.enterPool
  try dsimp only
  repeat'
    first
    | with_reducible apply State.Changes.refl
    | exact rfl
    | with_reducible apply State.Changes.step (k := State.modChan_changes _ _ _)
    | with_reducible apply State.Changes.step (k := State.modSeq_changes _ _ _)
    | split

theorem State.ctxLost_changes (s : State) (n : Fin 16) (cause : FCause) :
    State.Changes [.power, .chans, .seqs, .eic, .dbg] s (State.ctxLost s n cause) := by
  unfold State.ctxLost
  try dsimp only
  repeat'
    first
    | with_reducible apply State.Changes.refl
    | exact rfl
    | with_reducible apply State.Changes.step (k := State.seqFreed_changes _ _)
    | with_reducible apply State.Changes.step (k := State.modChan_changes _ _ _)
    | split

theorem State.ctxEcc_changes (s : State) (n : Fin 16) :
    State.Changes [.power, .chans, .seqs, .eic, .dbg] s (State.ctxEcc s n) := by
  unfold State.ctxEcc
  try dsimp only
  repeat'
    first
    | with_reducible apply State.Changes.refl
    | exact rfl
    | with_reducible apply State.Changes.step (k := State.ctxLost_changes _ _ _)

theorem State.csLost_changes (s : State) (n : Fin 16) (u : Nat) :
    State.Changes [.power, .chans, .seqs, .eic, .cs, .dbg] s (State.csLost s n u) := by
  unfold State.csLost
  try dsimp only
  repeat'
    first
    | with_reducible apply State.Changes.refl
    | exact rfl
    | with_reducible apply State.Changes.step (k := State.csFault_changes _ _ _ _ _)
    | with_reducible apply State.Changes.step (k := State.ctxLost_changes _ _ _)

theorem State.channelFault_changes (s : State) (n : Fin 16) (c : FCause) :
    State.Changes [.chans, .seqs] s (State.channelFault s n c) := by
  unfold State.channelFault
  try dsimp only
  repeat'
    first
    | with_reducible apply State.Changes.refl
    | exact rfl
    | with_reducible apply State.Changes.step (k := State.modChan_changes _ _ _)
    | with_reducible apply State.Changes.step (k := State.faultChan_changes _ _ _)
    | split

theorem State.eccTrap_changes (s : State) (n : Fin 16) (t : Trap) :
    State.Changes [.chans, .seqs] s (State.eccTrap s n t) := by
  unfold State.eccTrap
  try dsimp only
  repeat'
    first
    | with_reducible apply State.Changes.refl
    | exact rfl
    | with_reducible apply State.Changes.step (k := State.breach_changes _ _ _)
    | split

theorem Saved.settle_changes {l : List Part} {s : State} (x : Saved) (n : Fin 16) (h : x.All (State.Changes l s))
    (sub : [.power, .chans, .seqs, .mem, .eic, .cs, .dbg].all l.contains = true) : State.Changes l s (Saved.settle x n) := by
  have w : ∀ {m : List Part} {y z : State}, State.Changes l s y → State.Changes m y z → m.all [.power, .chans, .seqs, .mem, .eic, .cs, .dbg].contains = true →
      State.Changes l s z := fun a b c => a.trans ((b.mono c).mono sub)
  cases x with
  | done s1 => exact w h (State.switchedOut_changes _ _) rfl
  | pool s1 k => exact w h (State.enterPool_changes _ _ _) rfl
  | ecc s1 => exact w h (State.ctxEcc_changes _ _) rfl
  | cs s1 u => exact w h (State.csLost_changes _ _ _) rfl

theorem State.switchOut_changes (s : State) (n : Fin 16) :
    State.Changes [.power, .chans, .seqs, .pool, .mem, .eic, .cs, .dbg] s (State.switchOut s n) := by
  unfold State.switchOut
  try dsimp only
  repeat'
    first
    | with_reducible apply State.Changes.refl
    | exact rfl
    | with_reducible apply Saved.All.step (k := State.saveContext_changes _ _)
    | with_reducible apply State.Changes.step (k := State.modSeq_changes _ _ _)
    | with_reducible apply Saved.settle_changes
    | split

theorem State.dispatch_changes (s : State) (n : Fin 16) :
    State.Changes [.power, .chans, .seqs, .mem, .eic, .cs, .dbg, .free] s (State.dispatch s n) := by
  unfold State.dispatch
  try dsimp only
  repeat'
    first
    | with_reducible apply State.Changes.refl
    | exact rfl
    | with_reducible apply State.Changes.step (k := State.ctxEcc_changes _ _)
    | with_reducible apply State.Changes.step (k := State.modChan_changes _ _ _)
    | refine State.Changes.step ?_ (Work.All.done (State.loadContext_changes _ _ _) (by with_reducible assumption)) ?_
    | refine State.Changes.step ?_ (Work.All.pool (State.loadContext_changes _ _ _) (by with_reducible assumption)) ?_
    | refine State.Changes.step ?_ (Work.All.ecc (State.loadContext_changes _ _ _) (by with_reducible assumption)) ?_
    | refine State.Changes.step ?_ (Work.All.trap (State.loadContext_changes _ _ _) (by with_reducible assumption)) ?_
    | with_reducible apply State.Changes.step (k := State.csLost_changes _ _ _)
    | refine State.Changes.snd (f := State.vendorFetch _ _ _) (by with_reducible assumption) (State.vendorFetch_changes _ _ _) ?_ ?_
    | with_reducible apply State.Changes.step (k := State.modSeq_changes _ _ _)
    | split

theorem State.noHandler_changes (s : State) (n : Fin 16) :
    State.Changes [.chans, .seqs] s (State.noHandler s n) := by
  unfold State.noHandler
  try dsimp only
  repeat'
    first
    | with_reducible apply State.Changes.refl
    | exact rfl
    | with_reducible apply State.Changes.step (k := State.faultChan_changes _ _ _)

theorem State.doubleTrap_changes (s : State) (n : Fin 16) (t : Trap) :
    State.Changes [.chans, .seqs] s (State.doubleTrap s n t) := by
  unfold State.doubleTrap
  try dsimp only
  repeat'
    first
    | with_reducible apply State.Changes.refl
    | exact rfl
    | with_reducible apply State.Changes.step (k := State.modSeq_changes _ _ _)
    | with_reducible apply State.Changes.step (k := State.noHandler_changes _ _)

theorem State.trapWindow_changes (s : State) (n : Fin 16) (t : Trap) :
    State.Changes [.power, .chans, .seqs, .pool, .mem, .eic, .dbg, .free] s (State.trapWindow s n t) := by
  unfold State.trapWindow
  try dsimp only
  repeat'
    first
    | with_reducible apply State.Changes.refl
    | exact rfl
    | with_reducible apply State.Changes.step (k := State.doubleTrap_changes _ _ _)
    | with_reducible apply State.Changes.step (k := State.ctxEcc_changes _ _)
    | with_reducible apply State.Changes.step (k := State.enterPool_changes _ _ _)
    | with_reducible apply State.Changes.step (k := State.modSeq_changes _ _ _)
    | with_reducible apply State.Changes.step (k := State.modChan_changes _ _ _)
    | with_reducible apply State.Changes.step (k := State.uw_changes _ _ _)
    | refine State.Changes.step ?_ (Work.All.done (State.wopen_changes _ _ _) (by with_reducible assumption)) ?_
    | refine State.Changes.step ?_ (Work.All.pool (State.wopen_changes _ _ _) (by with_reducible assumption)) ?_
    | refine State.Changes.step ?_ (Work.All.ecc (State.wopen_changes _ _ _) (by with_reducible assumption)) ?_
    | refine State.Changes.step ?_ (Work.All.trap (State.wopen_changes _ _ _) (by with_reducible assumption)) ?_
    | split

theorem State.trapEntry_changes (s : State) (n : Fin 16) (t : Trap) :
    State.Changes [.power, .chans, .seqs, .pool, .mem, .eic, .cs, .dbg, .free] s (State.trapEntry s n t) := by
  unfold State.trapEntry
  try dsimp only
  repeat'
    first
    | with_reducible apply State.Changes.refl
    | exact rfl
    | with_reducible apply State.Changes.step (k := State.trapWindow_changes _ _ _)
    | with_reducible apply State.Changes.step (k := State.csFault_changes _ _ _ _ _)
    | with_reducible apply State.Changes.step (k := State.channelFault_changes _ _ _)
    | refine State.Changes.snd (f := State.vendorFetch _ _ _) (by with_reducible assumption) (State.vendorFetch_changes _ _ _) ?_ ?_
    | with_reducible apply State.Changes.step (k := State.noHandler_changes _ _)
    | with_reducible apply State.Changes.step (k := State.doubleTrap_changes _ _ _)
    | with_reducible apply State.Changes.step (k := State.modSeq_changes _ _ _)
    | split

theorem State.seqConfig_changes (s : State) (n : Fin 16) (v : W32) :
    State.Changes [.seqs] s (State.seqConfig s n v) := by
  unfold State.seqConfig
  try dsimp only
  repeat'
    first
    | with_reducible apply State.Changes.refl
    | exact rfl
    | with_reducible apply State.Changes.step (k := State.modSeq_changes _ _ _)
    | split

theorem State.seqCfg_changes (s : State) (n : Fin 16) (v : W32) :
    State.Changes [.power, .seqs, .eic, .dbg] s (State.seqCfg s n v) := by
  unfold State.seqCfg
  try dsimp only
  repeat'
    first
    | with_reducible apply State.Changes.refl
    | exact rfl
    | with_reducible apply State.Changes.step (k := State.seqConfig_changes _ _ _)
    | with_reducible apply State.Changes.step (k := State.seqRests_changes _ _)

theorem State.seqNap_changes (s : State) (n : Fin 16) :
    State.Changes [.power, .seqs, .eic, .dbg] s (State.seqNap s n) := by
  unfold State.seqNap
  try dsimp only
  repeat'
    first
    | with_reducible apply State.Changes.refl
    | exact rfl
    | with_reducible apply State.Changes.step (k := State.modSeq_changes _ _ _)
    | with_reducible apply State.Changes.step (k := State.modTarget_changes _ _ _)
    | with_reducible apply State.Changes.step (k := State.eicSettle_changes _)
    | split

theorem State.ibInvalidate_changes (s : State) (k : Fin 4) :
    State.Changes [.ibufs] s (State.ibInvalidate s k) := by
  unfold State.ibInvalidate
  dsimp -zeta only [← State.set_ibufs_eq]
  try dsimp only
  repeat'
    first
    | with_reducible apply State.Changes.refl
    | exact rfl
    | with_reducible apply State.Changes.ibufs

theorem State.trapped_changes (s : State) (code : Nat) (detail : Nat) (tval : W32) :
    (State.trapped s code detail tval).All (State.Changes [] s) := by
  unfold State.trapped
  try dsimp only
  repeat'
    first
    | with_reducible apply State.Changes.refl
    | with_reducible apply Res.of_trap

theorem State.badValue_changes (s : State) (w : W32) :
    (State.badValue s w).All (State.Changes [] s) := by
  unfold State.badValue
  try dsimp only
  repeat'
    first
    | with_reducible apply State.Changes.refl
    | exact rfl
    | with_reducible apply Res.All.step (k := State.trapped_changes _ _ _ _)


theorem State.aluR_changes (s : State) (n : Fin 16) (w : W32) (op : AluOp) (k : Nat) :
    (State.aluR s n w op k).All (State.Changes [.seqs] s) := by
  unfold State.aluR
  try dsimp only
  repeat'
    first
    | with_reducible apply State.Changes.refl
    | exact rfl
    | with_reducible apply State.Changes.step (k := State.modSeq_changes _ _ _)
    | with_reducible apply Res.of_done

theorem State.aluF_changes (s : State) (n : Fin 16) (w : W32) (op : AluOp) :
    (State.aluF s n w op).All (State.Changes [.seqs] s) := by
  unfold State.aluF
  try dsimp only
  repeat'
    first
    | with_reducible apply State.Changes.refl
    | exact rfl
    | with_reducible apply State.Changes.step (k := State.modSeq_changes _ _ _)
    | with_reducible apply Res.of_done

theorem State.aluT_changes (s : State) (n : Fin 16) (w : W32) (op : AluOp) :
    (State.aluT s n w op).All (State.Changes [.seqs] s) := by
  unfold State.aluT
  try dsimp only
  repeat'
    first
    | with_reducible apply State.Changes.refl
    | exact rfl
    | with_reducible apply Res.All.step (k := State.aluR_changes _ _ _ _ _)
    | with_reducible apply Res.All.step (k := State.trapped_changes _ _ _ _)
    | split

theorem State.aluD_changes (s : State) (n : Fin 16) (w : W32) (signed : Bool) (rem : Bool) :
    (State.aluD s n w signed rem).All (State.Changes [.seqs] s) := by
  unfold State.aluD
  try dsimp only
  repeat'
    first
    | with_reducible apply State.Changes.refl
    | exact rfl
    | with_reducible apply State.Changes.step (k := State.modSeq_changes _ _ _)
    | with_reducible apply Res.All.step (k := State.trapped_changes _ _ _ _)
    | with_reducible apply Res.of_done
    | split

theorem State.putRd_changes (s : State) (n : Fin 16) (w : W32) (v : W32) (k : Nat) :
    (State.putRd s n w v k).All (State.Changes [.seqs] s) := by
  unfold State.putRd
  try dsimp only
  repeat'
    first
    | with_reducible apply State.Changes.refl
    | exact rfl
    | with_reducible apply State.Changes.step (k := State.modSeq_changes _ _ _)
    | with_reducible apply Res.of_done

theorem State.shiI_changes (s : State) (n : Fin 16) (w : W32) (op : AluOp) :
    (State.shiI s n w op).All (State.Changes [.seqs] s) := by
  unfold State.shiI
  try dsimp only
  repeat'
    first
    | with_reducible apply State.Changes.refl
    | exact rfl
    | with_reducible apply Res.All.step (k := State.putRd_changes _ _ _ _ _)

theorem State.immR_changes (s : State) (n : Fin 16) (w : W32) (op : AluOp) (b : W32) :
    (State.immR s n w op b).All (State.Changes [.seqs] s) := by
  unfold State.immR
  try dsimp only
  repeat'
    first
    | with_reducible apply State.Changes.refl
    | exact rfl
    | with_reducible apply Res.All.step (k := State.putRd_changes _ _ _ _ _)

theorem State.immF_changes (s : State) (n : Fin 16) (w : W32) (op : AluOp) (b : W32) :
    (State.immF s n w op b).All (State.Changes [.seqs] s) := by
  unfold State.immF
  try dsimp only
  repeat'
    first
    | with_reducible apply State.Changes.refl
    | exact rfl
    | with_reducible apply State.Changes.step (k := State.modSeq_changes _ _ _)
    | with_reducible apply Res.of_done

theorem State.doExtu_changes (s : State) (n : Fin 16) (w : W32) :
    (State.doExtu s n w).All (State.Changes [.seqs] s) := by
  unfold State.doExtu
  try dsimp only
  repeat'
    first
    | with_reducible apply State.Changes.refl
    | exact rfl
    | with_reducible apply Res.All.step (k := State.putRd_changes _ _ _ _ _)

theorem State.doExts_changes (s : State) (n : Fin 16) (w : W32) :
    (State.doExts s n w).All (State.Changes [.seqs] s) := by
  unfold State.doExts
  try dsimp only
  repeat'
    first
    | with_reducible apply State.Changes.refl
    | exact rfl
    | with_reducible apply Res.All.step (k := State.putRd_changes _ _ _ _ _)

theorem State.doIns_changes (s : State) (n : Fin 16) (w : W32) :
    (State.doIns s n w).All (State.Changes [.seqs] s) := by
  unfold State.doIns
  try dsimp only
  repeat'
    first
    | with_reducible apply State.Changes.refl
    | exact rfl
    | with_reducible apply Res.All.step (k := State.putRd_changes _ _ _ _ _)

theorem State.doLui_changes (s : State) (n : Fin 16) (w : W32) :
    (State.doLui s n w).All (State.Changes [.seqs] s) := by
  unfold State.doLui
  try dsimp only
  repeat'
    first
    | with_reducible apply State.Changes.refl
    | exact rfl
    | with_reducible apply Res.All.step (k := State.putRd_changes _ _ _ _ _)

theorem State.doNop_changes (s : State) :
    (State.doNop s).All (State.Changes [] s) := by
  unfold State.doNop
  try dsimp only
  repeat'
    first
    | with_reducible apply State.Changes.refl
    | with_reducible apply Res.of_done

theorem State.doRds_changes (s : State) (n : Fin 16) (w : W32) :
    (State.doRds s n w).All (State.Changes [.seqs] s) := by
  unfold State.doRds
  try dsimp only
  repeat'
    first
    | with_reducible apply State.Changes.refl
    | exact rfl
    | with_reducible apply Res.All.step (k := State.putRd_changes _ _ _ _ _)

theorem State.doWrs_changes (s : State) (n : Fin 16) (w : W32) :
    (State.doWrs s n w).All (State.Changes [.seqs] s) := by
  unfold State.doWrs
  try dsimp only
  repeat'
    first
    | with_reducible apply State.Changes.refl
    | exact rfl
    | with_reducible apply State.Changes.step (k := State.modSeq_changes _ _ _)
    | with_reducible apply Res.of_done

theorem State.branch_changes (s : State) (n : Fin 16) (c : Bool) (off : W32) :
    (State.branch s n c off).All (State.Changes [] s) := by
  unfold State.branch
  try dsimp only
  repeat'
    first
    | with_reducible apply State.Changes.refl
    | with_reducible apply Res.of_done
    | split

theorem State.doBcc_changes (s : State) (n : Fin 16) (w : W32) :
    (State.doBcc s n w).All (State.Changes [] s) := by
  unfold State.doBcc
  try dsimp only
  repeat'
    first
    | with_reducible apply State.Changes.refl
    | exact rfl
    | with_reducible apply Res.All.step (k := State.branch_changes _ _ _ _)

theorem State.doBz_changes (s : State) (n : Fin 16) (w : W32) :
    (State.doBz s n w).All (State.Changes [] s) := by
  unfold State.doBz
  try dsimp only
  repeat'
    first
    | with_reducible apply State.Changes.refl
    | exact rfl
    | with_reducible apply Res.All.step (k := State.branch_changes _ _ _ _)

theorem State.doBnz_changes (s : State) (n : Fin 16) (w : W32) :
    (State.doBnz s n w).All (State.Changes [] s) := by
  unfold State.doBnz
  try dsimp only
  repeat'
    first
    | with_reducible apply State.Changes.refl
    | exact rfl
    | with_reducible apply Res.All.step (k := State.branch_changes _ _ _ _)

theorem State.doBeq_changes (s : State) (n : Fin 16) (w : W32) :
    (State.doBeq s n w).All (State.Changes [] s) := by
  unfold State.doBeq
  try dsimp only
  repeat'
    first
    | with_reducible apply State.Changes.refl
    | exact rfl
    | with_reducible apply Res.All.step (k := State.branch_changes _ _ _ _)

theorem State.doBne_changes (s : State) (n : Fin 16) (w : W32) :
    (State.doBne s n w).All (State.Changes [] s) := by
  unfold State.doBne
  try dsimp only
  repeat'
    first
    | with_reducible apply State.Changes.refl
    | exact rfl
    | with_reducible apply Res.All.step (k := State.branch_changes _ _ _ _)

theorem State.doJ_changes (s : State) (n : Fin 16) (w : W32) :
    (State.doJ s n w).All (State.Changes [] s) := by
  unfold State.doJ
  try dsimp only
  repeat'
    first
    | with_reducible apply State.Changes.refl
    | with_reducible apply Res.of_done

theorem State.doJr_changes (s : State) (n : Fin 16) (w : W32) :
    (State.doJr s n w).All (State.Changes [] s) := by
  unfold State.doJr
  try dsimp only
  repeat'
    first
    | with_reducible apply State.Changes.refl
    | with_reducible apply Res.of_done

theorem State.callTo_changes (s : State) (n : Fin 16) (t : W32) :
    (State.callTo s n t).All (State.Changes [.seqs, .pool, .mem, .free] s) := by
  unfold State.callTo
  try dsimp only
  repeat'
    first
    | with_reducible apply State.Changes.refl
    | assumption
    | exact rfl
    | with_reducible apply State.Changes.step (k := State.modSeq_changes _ _ _)
    | with_reducible apply Work.All.step (k := State.wopen_changes _ _ _)
    | with_reducible apply Res.of_done
    | with_reducible apply Work.andThen_changes
    | intro _

theorem State.doCall_changes (s : State) (n : Fin 16) (w : W32) :
    (State.doCall s n w).All (State.Changes [.seqs, .pool, .mem, .free] s) := by
  unfold State.doCall
  try dsimp only
  repeat'
    first
    | with_reducible apply State.Changes.refl
    | exact rfl
    | with_reducible apply Res.All.step (k := State.callTo_changes _ _ _)

theorem State.doCallr_changes (s : State) (n : Fin 16) (w : W32) :
    (State.doCallr s n w).All (State.Changes [.seqs, .pool, .mem, .free] s) := by
  unfold State.doCallr
  try dsimp only
  repeat'
    first
    | with_reducible apply State.Changes.refl
    | exact rfl
    | with_reducible apply Res.All.step (k := State.callTo_changes _ _ _)

theorem State.doRet_changes (s : State) (n : Fin 16) (w : W32) :
    (State.doRet s n w).All (State.Changes [.seqs, .pool, .mem] s) := by
  unfold State.doRet
  try dsimp only
  repeat'
    first
    | with_reducible apply State.Changes.refl
    | exact rfl
    | with_reducible apply Work.All.step (k := State.wclose_changes _ _)
    | with_reducible apply Res.of_done
    | with_reducible apply Work.andThen_changes
    | intro _

theorem State.doWopen_changes (s : State) (n : Fin 16) :
    (State.doWopen s n).All (State.Changes [.seqs, .pool, .mem, .free] s) := by
  unfold State.doWopen
  try dsimp only
  repeat'
    first
    | with_reducible apply State.Changes.refl
    | exact rfl
    | with_reducible apply Work.All.step (k := State.wopen_changes _ _ _)
    | with_reducible apply Res.of_done
    | with_reducible apply Work.andThen_changes
    | intro _

theorem State.doWclose_changes (s : State) (n : Fin 16) :
    (State.doWclose s n).All (State.Changes [.seqs, .pool, .mem] s) := by
  unfold State.doWclose
  try dsimp only
  repeat'
    first
    | with_reducible apply State.Changes.refl
    | exact rfl
    | with_reducible apply Work.All.step (k := State.wclose_changes _ _)
    | with_reducible apply Res.of_done
    | with_reducible apply Work.andThen_changes
    | intro _

theorem State.doTrap_changes (s : State) (w : W32) :
    (State.doTrap s w).All (State.Changes [] s) := by
  unfold State.doTrap
  try dsimp only
  repeat'
    first
    | with_reducible apply State.Changes.refl
    | exact rfl
    | with_reducible apply Res.All.step (k := State.trapped_changes _ _ _ _)

theorem State.doYield_changes (s : State) (n : Fin 16) :
    (State.doYield s n).All (State.Changes [.seqs] s) := by
  unfold State.doYield
  try dsimp only
  repeat'
    first
    | with_reducible apply State.Changes.refl
    | exact rfl
    | with_reducible apply State.Changes.step (k := State.reqSwitch_changes _ _)
    | with_reducible apply State.Changes.step (k := State.modSeq_changes _ _ _)
    | with_reducible apply Res.of_done

theorem State.doStop_changes (s : State) (n : Fin 16) :
    (State.doStop s n).All (State.Changes [.seqs] s) := by
  unfold State.doStop
  try dsimp only
  repeat'
    first
    | with_reducible apply State.Changes.refl
    | exact rfl
    | with_reducible apply State.Changes.step (k := State.reqSwitch_changes _ _)
    | with_reducible apply State.Changes.step (k := State.modSeq_changes _ _ _)
    | with_reducible apply Res.of_done


end Sys2Proof.Machine
end

