-- ==== Sys2Proof/Laws/ChangesLanes.lean ====
section
/-! SUPPORT. What each operation can change: lanes, pin engines and streams. -/

namespace Sys2Proof.Machine

theorem State.modLane_changes (s : State) (n : Fin 256) (f : Lane → Lane) :
    State.Changes [.lanes] s (State.modLane s n f) := by
  unfold State.modLane
  dsimp -zeta only [← State.set_lanes_eq]
  try dsimp only
  repeat'
    first
    | with_reducible apply State.Changes.refl
    | exact rfl
    | with_reducible apply State.Changes.lanes

theorem State.laneFault_changes (s : State) (n : Fin 256) (covf : Bool) :
    State.Changes [.lanes, .chans, .seqs] s (State.laneFault s n covf) := by
  unfold State.laneFault
  try dsimp only
  repeat'
    first
    | with_reducible apply State.Changes.refl
    | exact rfl
    | with_reducible apply State.Changes.step (k := State.breachOf_changes _ _ _)
    | with_reducible apply State.Changes.step (k := State.modLane_changes _ _ _)

theorem State.laneReturn_changes (s : State) (n : Fin 256) (f : ActEntry → Bool) :
    State.Changes [.lanes, .chans, .seqs] s (State.laneReturn s n f) := by
  unfold State.laneReturn
  try dsimp only
  repeat'
    first
    | with_reducible apply State.Changes.refl
    | exact rfl
    | with_reducible apply State.Changes.step (k := State.laneFault_changes _ _ _)
    | with_reducible apply State.Changes.step (k := State.modLane_changes _ _ _)
    | split

theorem State.lanesAfterLoad_changes (s : State) (g : Nat) (jump : W64) :
    State.Changes [.lanes] s (State.lanesAfterLoad s g jump) := by
  unfold State.lanesAfterLoad
  dsimp -zeta only [← State.set_lanes_eq]
  try dsimp only
  repeat'
    first
    | with_reducible apply State.Changes.refl
    | exact rfl
    | with_reducible apply State.Changes.lanes

theorem State.laneFaultDue_changes (s : State) (n : Fin 256) :
    State.Changes [.lanes, .chans, .seqs] s (State.laneFaultDue s n) := by
  unfold State.laneFaultDue
  try dsimp only
  repeat'
    first
    | with_reducible apply State.Changes.refl
    | exact rfl
    | with_reducible apply State.Changes.step (k := State.laneFault_changes _ _ _)
    | with_reducible apply State.Changes.step (k := State.breachOf_changes _ _ _)
    | with_reducible apply State.Changes.step (k := State.modLane_changes _ _ _)
    | split

theorem State.enqLane_changes (s0 : State) (n : Fin 256) (op : ActOp) (v : Bool) (td : Fin 8) (ns : BitVec 40) :
    State.Changes [.lanes, .chans, .seqs] s0 (State.enqLane s0 n op v td ns).1 := by
  unfold State.enqLane
  try dsimp only
  repeat'
    first
    | with_reducible apply State.Changes.refl
    | exact rfl
    | dsimp only
    | with_reducible apply State.Changes.step (k := State.modLane_changes _ _ _)
    | with_reducible apply State.Changes.step (k := State.laneFaultDue_changes _ _)
    | split

theorem State.lanesAfterStep_changes (s : State) (old : Domain) (new : Domain) (td : Fin 8) (ga : Nat) :
    State.Changes [.lanes] s (State.lanesAfterStep s old new td ga) := by
  unfold State.lanesAfterStep
  dsimp -zeta only [← State.set_lanes_eq]
  try dsimp only
  repeat'
    first
    | with_reducible apply State.Changes.refl
    | exact rfl
    | with_reducible apply State.Changes.lanes

theorem State.execAction_changes (s0 : State) (n : Fin 256) (op : ActOp) :
    State.Changes [.lanes, .chans, .seqs] s0 (State.execAction s0 n op) := by
  unfold State.execAction
  try dsimp only
  repeat'
    first
    | with_reducible apply State.Changes.refl
    | exact rfl
    | with_reducible apply State.Changes.step (k := State.laneFault_changes _ _ _)
    | with_reducible apply State.Changes.step (k := State.modLane_changes _ _ _)
    | with_reducible apply State.Changes.step (k := State.laneFaultDue_changes _ _)
    | split

theorem State.pairsEdge_changes (s : State) (n : Fin 256) (t : Instant) (level : Bool) :
    State.Changes [.ta] s (State.pairsEdge s n t level) := by
  unfold State.pairsEdge
  dsimp -zeta only [← State.set_ta_eq]
  try dsimp only
  repeat'
    first
    | with_reducible apply State.Changes.refl
    | exact rfl
    | with_reducible apply State.Changes.ta
    | split

theorem State.pairsDrop_changes (s : State) (n : Fin 256) (t : Instant) :
    State.Changes [.ta] s (State.pairsDrop s n t) := by
  unfold State.pairsDrop
  dsimp -zeta only [← State.set_ta_eq]
  try dsimp only
  repeat'
    first
    | with_reducible apply State.Changes.refl
    | exact rfl
    | with_reducible apply State.Changes.ta

theorem State.edgeCaptures_changes (s : State) (n : Fin 256) (t : Instant) (level : Bool) :
    State.Changes [.lanes] s (State.edgeCaptures s n t level) := by
  unfold State.edgeCaptures
  try dsimp only
  repeat'
    first
    | with_reducible apply State.Changes.refl
    | exact rfl
    | with_reducible apply State.Changes.foldl
    | with_reducible apply State.Changes.step (k := State.modLane_changes _ _ _)
    | intro _
    | split

theorem State.dropCaptures_changes (s : State) (n : Fin 256) (t : Instant) :
    State.Changes [.lanes] s (State.dropCaptures s n t) := by
  unfold State.dropCaptures
  try dsimp only
  repeat'
    first
    | with_reducible apply State.Changes.refl
    | exact rfl
    | with_reducible apply State.Changes.foldl
    | with_reducible apply State.Changes.step (k := State.modLane_changes _ _ _)
    | intro _

theorem State.inputEdge_changes (s : State) (n : Fin 256) (t0 : Instant) (level : Bool) :
    State.Changes [.lanes, .ta] s (State.inputEdge s n t0 level) := by
  unfold State.inputEdge
  extract_lets l t s0
  have h0 : State.Changes [.lanes, .ta] s s0 := (State.modLane_changes _ _ _).mono rfl
  clear_value s0 t
  split
  · exact .refl _ _
  · split
    · split
      · exact (h0.step (State.dropCaptures_changes s0 _ _) rfl).step (State.pairsDrop_changes _ _ _) rfl
          |>.step (State.modLane_changes _ _ _) rfl
      · exact (h0.step (State.edgeCaptures_changes s0 _ _ _) rfl).step (State.pairsEdge_changes _ _ _ _) rfl
          |>.step (State.modLane_changes _ _ _) rfl
    · exact (h0.step (State.edgeCaptures_changes s0 _ _ _) rfl).step (State.pairsEdge_changes _ _ _ _) rfl
        |>.step (State.modLane_changes _ _ _) rfl

theorem State.commitCapture_changes (s : State) (n : Fin 256) :
    State.Changes [.lanes, .chans, .seqs] s (State.commitCapture s n) := by
  unfold State.commitCapture
  try dsimp only
  repeat'
    first
    | with_reducible apply State.Changes.refl
    | exact rfl
    | with_reducible apply State.Changes.step (k := State.breachOf_changes _ _ _)
    | with_reducible apply State.Changes.step (k := State.laneFault_changes _ _ _)
    | with_reducible apply State.Changes.step (k := State.modLane_changes _ _ _)
    | split

theorem State.laneCfg_changes (s : State) (n : Fin 256) (v : W32) :
    State.Changes [.lanes, .chans, .seqs] s (State.laneCfg s n v) := by
  unfold State.laneCfg
  try dsimp only
  repeat'
    first
    | with_reducible apply State.Changes.refl
    | exact rfl
    | with_reducible apply State.Changes.step (k := State.laneReturn_changes _ _ _)
    | with_reducible apply State.Changes.step (k := State.modLane_changes _ _ _)
    | split

theorem State.laneClrFlt_changes (s : State) (n : Fin 256) :
    State.Changes [.lanes] s (State.laneClrFlt s n) := by
  unfold State.laneClrFlt
  try dsimp only
  repeat'
    first
    | with_reducible apply State.Changes.refl
    | exact rfl
    | with_reducible apply State.Changes.step (k := State.modLane_changes _ _ _)

theorem State.laneFlushA_changes (s : State) (n : Fin 256) :
    State.Changes [.lanes] s (State.laneFlushA s n) := by
  unfold State.laneFlushA
  try dsimp only
  repeat'
    first
    | with_reducible apply State.Changes.refl
    | exact rfl
    | with_reducible apply State.Changes.step (k := State.modLane_changes _ _ _)

theorem State.laneFlushC_changes (s : State) (n : Fin 256) :
    State.Changes [.lanes] s (State.laneFlushC s n) := by
  unfold State.laneFlushC
  try dsimp only
  repeat'
    first
    | with_reducible apply State.Changes.refl
    | exact rfl
    | with_reducible apply State.Changes.step (k := State.modLane_changes _ _ _)

theorem State.laneCtrl_changes (s : State) (n : Fin 256) (v : W32) :
    State.Changes [.lanes] s (State.laneCtrl s n v) := by
  unfold State.laneCtrl
  try dsimp only
  repeat'
    first
    | with_reducible apply State.Changes.refl
    | exact rfl
    | with_reducible apply State.Changes.step (k := State.laneFlushC_changes _ _)
    | with_reducible apply State.Changes.step (k := State.laneFlushA_changes _ _)
    | with_reducible apply State.Changes.step (k := State.laneClrFlt_changes _ _)
    | split

theorem State.laneStatW_changes (s : State) (n : Fin 256) (v : W32) :
    State.Changes [.lanes] s (State.laneStatW s n v) := by
  unfold State.laneStatW
  try dsimp only
  repeat'
    first
    | with_reducible apply State.Changes.refl
    | exact rfl
    | with_reducible apply State.Changes.step (k := State.modLane_changes _ _ _)

theorem State.modEng_changes (s : State) (n : Fin 64) (f : Engine → Engine) :
    State.Changes [.engines] s (State.modEng s n f) := by
  unfold State.modEng
  dsimp -zeta only [← State.set_engines_eq]
  try dsimp only
  repeat'
    first
    | with_reducible apply State.Changes.refl
    | exact rfl
    | with_reducible apply State.Changes.engines

theorem State.peNext_changes (s : State) (n : Fin 64) (target : Option Nat) :
    State.Changes [.engines] s (State.peNext s n target) := by
  unfold State.peNext
  try dsimp only
  repeat'
    first
    | with_reducible apply State.Changes.refl
    | exact rfl
    | with_reducible apply State.Changes.step (k := State.modEng_changes _ _ _)
    | split

theorem State.peStep_changes {l : List Part} (s : State) (n : Fin 64) (op : Nat) (f : State → Engine → W32 → State)
    (he : l.contains .engines = true) (k : ∀ z e w, State.Changes l z (f z e w)) : State.Changes l s (State.peStep s n op f) := by
  unfold State.peStep
  dsimp only
  have hs : [Part.engines].all l.contains = true := by simpa using he
  (repeat' split)
  · exact ((State.modEng_changes _ _ _).trans (State.peNext_changes _ _ _)).mono hs
  · exact ((State.modEng_changes _ _ _).mono hs).trans (k _ _ _)
  · exact k _ _ _
  · exact .refl _ _

theorem State.peDone_changes (s : State) (n : Fin 64) (target : optParam (Option Nat) none) :
    State.Changes [.engines] s (State.peDone s n target) := by
  unfold State.peDone
  try dsimp only
  repeat'
    first
    | with_reducible apply State.Changes.refl
    | exact rfl
    | with_reducible apply State.Changes.step (k := State.peNext_changes _ _ _)
    | with_reducible apply State.Changes.step (k := State.modEng_changes _ _ _)
    | split

theorem State.enqAll_changes (s : State) (n : Fin 64) (waiting : Bool) (td : Fin 8) (ns : BitVec 40) (op : ActOp) (a : List (Nat × Bool)) :
    State.Changes [.lanes, .chans, .seqs, .engines] s (State.enqAll s n waiting td ns op a).1 := by
  induction a generalizing s with
  | nil => exact .refl _ _
  | cons x r ih =>
    unfold State.enqAll
    split
    · exact ih s
    · split
      · exact .refl _ _
      · have h := (State.enqLane_changes s (engLane n x.1) op x.2 td ns).mono (m := [.lanes, .chans, .seqs, .engines]) rfl
        split
        · next entered => exact ((h.atFst entered).step (State.modEng_changes _ _ _) rfl).trans (ih _)
        · have j := ih s
          split <;> exact j.atFst (by assumption)
        · next refused => exact (h.atFst refused).trans (ih _)

theorem State.afterEnq_changes {l : List Part} {s : State} {r : State × StepRes} (n : Fin 64) {k : State → State}
    (he : l.contains .engines = true) (h : State.Changes l s r.1) (hk : ∀ z, State.Changes l z (k z)) :
    State.Changes l s (State.afterEnq r n k) := by
  have hs : [Part.engines].all l.contains = true := by simpa using he
  unfold State.afterEnq
  split
  · exact (h.step (State.modEng_changes _ _ _) hs).trans (hk _)
  all_goals exact h.step (State.modEng_changes _ _ _) hs

theorem State.peOut_changes (s : State) (n : Fin 64) (waiting : optParam Bool false) :
    State.Changes [.lanes, .chans, .seqs, .engines] s (State.peOut s n waiting) := by
  unfold State.peOut
  try dsimp only
  repeat'
    first
    | with_reducible apply State.Changes.refl
    | exact rfl
    | with_reducible apply State.Changes.step (k := State.modEng_changes _ _ _)
    | with_reducible apply State.Changes.step (k := State.peDone_changes _ _ _)
    | with_reducible apply State.Changes.step (k := State.enqAll_changes _ _ _ _ _ _ _)
    | with_reducible apply State.peStep_changes
    | with_reducible apply State.afterEnq_changes
    | intro _

theorem State.peSet_changes (s : State) (n : Fin 64) (waiting : optParam Bool false) :
    State.Changes [.lanes, .chans, .seqs, .engines] s (State.peSet s n waiting) := by
  unfold State.peSet
  try dsimp only
  repeat'
    first
    | with_reducible apply State.Changes.refl
    | exact rfl
    | with_reducible apply State.Changes.step (k := State.modEng_changes _ _ _)
    | with_reducible apply State.Changes.step (k := State.peDone_changes _ _ _)
    | with_reducible apply State.Changes.step (k := State.enqAll_changes _ _ _ _ _ _ _)
    | with_reducible apply State.peStep_changes
    | with_reducible apply State.afterEnq_changes
    | intro _

theorem State.peUnheld_changes (s : State) (n : Fin 64) :
    State.Changes [.lanes, .chans, .seqs, .engines] s (State.peUnheld s n) := by
  unfold State.peUnheld
  try dsimp only
  repeat'
    first
    | with_reducible apply State.Changes.refl
    | exact rfl
    | with_reducible apply State.Changes.step (k := State.peSet_changes _ _ _)
    | with_reducible apply State.Changes.step (k := State.peOut_changes _ _ _)
    | split

theorem State.pePull_changes (s : State) (n : Fin 64) :
    State.Changes [.engines] s (State.pePull s n) := by
  unfold State.pePull
  try dsimp only
  repeat'
    first
    | with_reducible apply State.Changes.refl
    | exact rfl
    | with_reducible apply State.Changes.step (k := State.peDone_changes _ _ _)
    | with_reducible apply State.Changes.step (k := State.modEng_changes _ _ _)
    | with_reducible apply State.peStep_changes
    | intro _
    | split

theorem State.pePush_changes (s : State) (n : Fin 64) :
    State.Changes [.chans, .seqs, .engines] s (State.pePush s n) := by
  unfold State.pePush
  try dsimp only
  repeat'
    first
    | with_reducible apply State.Changes.refl
    | exact rfl
    | with_reducible apply State.Changes.step (k := State.breachOf_changes _ _ _)
    | with_reducible apply State.Changes.step (k := State.peDone_changes _ _ _)
    | with_reducible apply State.Changes.step (k := State.modEng_changes _ _ _)
    | with_reducible apply State.peStep_changes
    | intro _
    | split

theorem State.noteMark_changes (s : State) (n : Fin 64) :
    State.Changes [.engines] s (State.noteMark s n) := by
  unfold State.noteMark
  try dsimp only
  repeat'
    first
    | with_reducible apply State.Changes.refl
    | exact rfl
    | with_reducible apply State.Changes.step (k := State.modEng_changes _ _ _)

theorem State.takeSet_changes (s : State) (n : Fin 64) (t : Instant) :
    State.Changes [.lanes, .engines] s (State.takeSet s n t) := by
  unfold State.takeSet
  try dsimp only
  repeat'
    first
    | with_reducible apply State.Changes.refl
    | exact rfl
    | with_reducible apply State.Changes.foldl
    | with_reducible apply State.Changes.step (k := State.modEng_changes _ _ _)
    | with_reducible apply State.Changes.step (k := State.noteMark_changes _ _)
    | with_reducible apply State.Changes.step (k := State.modLane_changes _ _ _)
    | intro _

theorem State.peIn_changes (s : State) (n : Fin 64) :
    State.Changes [.lanes, .engines] s (State.peIn s n) := by
  unfold State.peIn
  try extract_lets
  repeat'
    first
    | with_reducible apply State.Changes.refl
    | exact rfl
    | extract_lets
    | with_reducible apply State.Changes.step (k := State.peDone_changes _ _ _)
    | with_reducible apply State.Changes.step (k := State.takeSet_changes _ _ _)
    | with_reducible apply State.Changes.step (k := State.modEng_changes _ _ _)
    | with_reducible apply State.peStep_changes
    | intro _
    | split

theorem State.peWait_changes (s : State) (n : Fin 64) :
    State.Changes [.lanes, .engines] s (State.peWait s n) := by
  unfold State.peWait
  try dsimp only
  repeat'
    first
    | with_reducible apply State.Changes.refl
    | exact rfl
    | with_reducible apply State.Changes.step (k := State.takeSet_changes _ _ _)
    | with_reducible apply State.Changes.step (k := State.peDone_changes _ _ _)
    | with_reducible apply State.Changes.step (k := State.modEng_changes _ _ _)
    | with_reducible apply State.peStep_changes
    | intro _
    | split

theorem State.setReleased_changes (s : State) (n : Fin 64) :
    State.Changes [.lanes, .engines] s (State.setReleased s n) := by
  unfold State.setReleased
  try dsimp only
  repeat'
    first
    | with_reducible apply State.Changes.refl
    | exact rfl
    | with_reducible apply State.Changes.step (k := State.peWait_changes _ _)
    | with_reducible apply State.Changes.step (k := State.peIn_changes _ _)
    | split

theorem State.peSched_changes (s : State) (n : Fin 64) :
    State.Changes [.engines] s (State.peSched s n) := by
  unfold State.peSched
  try dsimp only
  repeat'
    first
    | with_reducible apply State.Changes.refl
    | exact rfl
    | with_reducible apply State.Changes.step (k := State.peDone_changes _ _ _)
    | with_reducible apply State.Changes.step (k := State.modEng_changes _ _ _)
    | with_reducible apply State.peStep_changes
    | intro _
    | split

theorem State.peCmp_changes (s : State) (n : Fin 64) :
    State.Changes [.engines] s (State.peCmp s n) := by
  unfold State.peCmp
  try dsimp only
  repeat'
    first
    | with_reducible apply State.Changes.refl
    | exact rfl
    | with_reducible apply State.Changes.step (k := State.modEng_changes _ _ _)
    | with_reducible apply State.Changes.step (k := State.peDone_changes _ _ _)
    | with_reducible apply State.peStep_changes
    | intro _

theorem State.peLdcmp_changes (s : State) (n : Fin 64) :
    State.Changes [.engines] s (State.peLdcmp s n) := by
  unfold State.peLdcmp
  try dsimp only
  repeat'
    first
    | with_reducible apply State.Changes.refl
    | exact rfl
    | with_reducible apply State.Changes.step (k := State.modEng_changes _ _ _)
    | with_reducible apply State.Changes.step (k := State.peDone_changes _ _ _)
    | with_reducible apply State.peStep_changes
    | intro _

theorem State.peLdper_changes (s : State) (n : Fin 64) :
    State.Changes [.engines] s (State.peLdper s n) := by
  unfold State.peLdper
  try dsimp only
  repeat'
    first
    | with_reducible apply State.Changes.refl
    | exact rfl
    | with_reducible apply State.Changes.step (k := State.modEng_changes _ _ _)
    | with_reducible apply State.Changes.step (k := State.peDone_changes _ _ _)
    | with_reducible apply State.peStep_changes
    | intro _

theorem State.peSig_changes (s : State) (n : Fin 64) :
    State.Changes [.engines, .sn] s (State.peSig s n) := by
  unfold State.peSig
  try dsimp only
  repeat'
    first
    | with_reducible apply State.Changes.refl
    | exact rfl
    | with_reducible apply State.Changes.step (k := State.fire_changes _ _)
    | with_reducible apply State.Changes.step (k := State.peDone_changes _ _ _)
    | with_reducible apply State.Changes.step (k := State.modEng_changes _ _ _)
    | with_reducible apply State.peStep_changes
    | intro _
    | split

theorem State.peJmp_changes (s : State) (n : Fin 64) :
    State.Changes [.engines] s (State.peJmp s n) := by
  unfold State.peJmp
  try dsimp only
  repeat'
    first
    | with_reducible apply State.Changes.refl
    | exact rfl
    | with_reducible apply State.Changes.step (k := State.modEng_changes _ _ _)
    | with_reducible apply State.Changes.step (k := State.peDone_changes _ _ _)
    | with_reducible apply State.peStep_changes
    | intro _

theorem State.peIll_changes (s : State) (n : Fin 64) :
    State.Changes [.engines] s (State.peIll s n) := by
  unfold State.peIll
  try dsimp only
  repeat'
    first
    | with_reducible apply State.Changes.refl
    | exact rfl
    | with_reducible apply State.Changes.step (k := State.modEng_changes _ _ _)
    | split

theorem State.clkToggle_changes (s : State) (n : Fin 64) :
    State.Changes [.lanes, .chans, .seqs, .engines] s (State.clkToggle s n) := by
  unfold State.clkToggle
  try dsimp only
  repeat'
    first
    | with_reducible apply State.Changes.refl
    | exact rfl
    | with_reducible apply State.Changes.step (k := State.noteMark_changes _ _)
    | with_reducible apply State.Changes.step (k := State.modEng_changes _ _ _)
    | refine State.Changes.fst (f := State.enqLane _ _ _ _ _ _) (by with_reducible assumption) (State.enqLane_changes _ _ _ _ _ _) ?_ ?_
    | split

theorem State.laneCfgWrite_changes (s : State) (n : Fin 256) (v : W32) :
    State.Changes [.lanes, .chans, .seqs, .engines] s (State.laneCfgWrite s n v) := by
  unfold State.laneCfgWrite
  try dsimp only
  repeat'
    first
    | with_reducible apply State.Changes.refl
    | exact rfl
    | with_reducible apply State.Changes.foldl
    | with_reducible apply State.Changes.step (k := State.noteMark_changes _ _)
    | with_reducible apply State.Changes.step (k := State.laneCfg_changes _ _ _)
    | intro _
    | split

theorem State.faccPush_changes (s : State) (n : Fin 64) (v : W32) :
    State.Changes [.chans, .seqs, .engines] s (State.faccPush s n v) := by
  unfold State.faccPush
  try dsimp only
  repeat'
    first
    | with_reducible apply State.Changes.refl
    | exact rfl
    | with_reducible apply State.Changes.step (k := State.breachOf_changes _ _ _)
    | with_reducible apply State.Changes.step (k := State.modEng_changes _ _ _)
    | split

theorem State.faccPop_changes (s : State) (n : Fin 64) :
    State.Changes [.engines] s (State.faccPop s n).2 := by
  unfold State.faccPop
  try dsimp only
  repeat'
    first
    | with_reducible apply State.Changes.refl
    | exact rfl
    | dsimp only
    | with_reducible apply State.Changes.step (k := State.modEng_changes _ _ _)
    | split

theorem State.peCfg_changes (s0 : State) (n : Fin 64) (v : W32) :
    State.Changes [.engines] s0 (State.peCfg s0 n v) := by
  unfold State.peCfg
  try dsimp only
  repeat'
    first
    | with_reducible apply State.Changes.refl
    | exact rfl
    | with_reducible apply State.Changes.step (k := State.modEng_changes _ _ _)
    | with_reducible apply State.Changes.step (k := State.noteMark_changes _ _)
    | split

theorem State.peFlushI_changes (s : State) (n : Fin 64) :
    State.Changes [.engines] s (State.peFlushI s n) := by
  unfold State.peFlushI
  try dsimp only
  repeat'
    first
    | with_reducible apply State.Changes.refl
    | exact rfl
    | with_reducible apply State.Changes.step (k := State.modEng_changes _ _ _)
    | split

theorem State.peFlushO_changes (s : State) (n : Fin 64) :
    State.Changes [.engines] s (State.peFlushO s n) := by
  unfold State.peFlushO
  try dsimp only
  repeat'
    first
    | with_reducible apply State.Changes.refl
    | exact rfl
    | with_reducible apply State.Changes.step (k := State.modEng_changes _ _ _)
    | split

theorem State.peClrErr_changes (s : State) (n : Fin 64) :
    State.Changes [.engines] s (State.peClrErr s n) := by
  unfold State.peClrErr
  try dsimp only
  repeat'
    first
    | with_reducible apply State.Changes.refl
    | exact rfl
    | with_reducible apply State.Changes.step (k := State.modEng_changes _ _ _)

theorem State.peHalt_changes (s : State) (n : Fin 64) :
    State.Changes [.engines] s (State.peHalt s n) := by
  unfold State.peHalt
  try dsimp only
  repeat'
    first
    | with_reducible apply State.Changes.refl
    | exact rfl
    | with_reducible apply State.Changes.step (k := State.noteMark_changes _ _)
    | with_reducible apply State.Changes.step (k := State.modEng_changes _ _ _)

theorem State.peGo_changes (s : State) (n : Fin 64) (newpc : Bool) (clear : Bool) :
    State.Changes [.engines] s (State.peGo s n newpc clear) := by
  unfold State.peGo
  try dsimp only
  repeat'
    first
    | with_reducible apply State.Changes.refl
    | exact rfl
    | with_reducible apply State.Changes.step (k := State.modEng_changes _ _ _)

theorem State.peCtrl_changes (s : State) (n : Fin 64) (v : W32) :
    State.Changes [.engines] s (State.peCtrl s n v) := by
  unfold State.peCtrl
  extract_lets s1 s2 s3
  have h1 : State.Changes [.engines] s s1 := by
    unfold s1; split
    · exact (State.peFlushI_changes _ _).mono rfl
    · exact .refl _ _
  have h2 : State.Changes [.engines] s s2 := by
    unfold s2; split
    · exact h1.step (State.peFlushO_changes _ _) rfl
    · exact h1
  have h3 : State.Changes [.engines] s s3 := by
    unfold s3; split
    · exact h2.step (State.peClrErr_changes _ _) rfl
    · exact h2
  split
  · exact h3.step (State.peHalt_changes _ _) rfl
  · split
    · exact h3.step (State.peGo_changes _ _ _ _) rfl
    · exact h3

theorem State.peCfgReg_changes (s : State) (n : Fin 64) (f : Engine → Engine) :
    State.Changes [.engines] s (State.peCfgReg s n f) := by
  unfold State.peCfgReg
  try dsimp only
  repeat'
    first
    | with_reducible apply State.Changes.refl
    | exact rfl
    | with_reducible apply State.Changes.step (k := State.modEng_changes _ _ _)

theorem State.peStatW_changes (s : State) (n : Fin 64) (v : W32) :
    State.Changes [.engines] s (State.peStatW s n v) := by
  unfold State.peStatW
  try dsimp only
  repeat'
    first
    | with_reducible apply State.Changes.refl
    | exact rfl
    | with_reducible apply State.Changes.step (k := State.modEng_changes _ _ _)

theorem State.inspectWrite_changes (s : State) (g : Fin 16) (v : W32) :
    State.Changes [.engines] s (State.inspectWrite s g v) := by
  unfold State.inspectWrite
  try dsimp only
  repeat'
    first
    | with_reducible apply State.Changes.refl
    | exact rfl
    | with_reducible apply State.Changes.step (k := State.modEng_changes _ _ _)

theorem State.progWrite_changes (s : State) (g : Fin 16) (w : Nat) (v : W32) :
    State.Changes [.groups] s (State.progWrite s g w v) := by
  unfold State.progWrite
  exact (State.Changes.refl _ s).groups rfl fun _ h =>
    Bank.mod_keep (p := fun x : PeGroup => sparseWf 0 x.prog = true) h fun _ k => sparseWf_sparseSet _ _ _ k

theorem State.modSf_changes (s : State) (n : Fin 128) (f : Stream → Stream) :
    State.Changes [.streams] s (State.modSf s n f) := by
  unfold State.modSf
  dsimp -zeta only [← State.set_streams_eq]
  try dsimp only
  repeat'
    first
    | with_reducible apply State.Changes.refl
    | exact rfl
    | with_reducible apply State.Changes.streams

theorem State.sfError_changes (s : State) (n : Fin 128) (cause : SfCause) :
    State.Changes [.chans, .seqs, .streams] s (State.sfError s n cause) := by
  unfold State.sfError
  try dsimp only
  repeat'
    first
    | with_reducible apply State.Changes.refl
    | exact rfl
    | with_reducible apply State.Changes.step (k := State.breachOf_changes _ _ _)
    | with_reducible apply State.Changes.step (k := State.modSf_changes _ _ _)
    | split

theorem State.portB_changes (s : State) (o : Nat) :
    State.Changes [.mem] s (State.portB s o).2 := by
  unfold State.portB
  try dsimp only
  repeat'
    first
    | with_reducible apply State.Changes.refl
    | exact rfl
    | with_reducible apply State.Changes.step (k := State.memRead_changes _ _ _ _)

theorem State.collide_changes (s : State) (n : Fin 128) (xs : List PortA) (bwr : Bool) (lo : Nat) (hi : Nat) :
    State.Changes [.mem] s (State.collide s n xs bwr lo hi) := by
  unfold State.collide
  dsimp -zeta only [← State.set_mem_eq]
  try dsimp only
  repeat'
    first
    | with_reducible apply State.Changes.refl
    | exact rfl
    | with_reducible apply State.Changes.foldl
    | with_reducible apply State.Changes.mem
    | exact fun h => h
    | intro _
    | split

theorem State.sfReadDesc_changes (s : State) (n : Fin 128) (d : Nat) (newFrame : Bool) :
    State.Changes [.chans, .seqs, .mem, .streams] s (State.sfReadDesc s n d newFrame) := by
  unfold State.sfReadDesc
  try dsimp only
  repeat'
    first
    | with_reducible apply State.Changes.refl
    | exact rfl
    | with_reducible apply State.Changes.step (k := State.sfError_changes _ _ _)
    | refine State.Changes.snd (f := State.portB _ _) (by with_reducible assumption) (State.portB_changes _ _) ?_ ?_
    | with_reducible apply State.Changes.step (k := State.modSf_changes _ _ _)
    | split

theorem State.sfNext_changes (s : State) (n : Fin 128) (xs : List PortA) (d : Nat) (newFrame : Bool) :
    State.Changes [.chans, .seqs, .mem, .streams] s (State.sfNext s n xs d newFrame) := by
  unfold State.sfNext
  try dsimp only
  repeat'
    first
    | with_reducible apply State.Changes.refl
    | exact rfl
    | with_reducible apply State.Changes.step (k := State.collide_changes _ _ _ _ _ _)
    | with_reducible apply State.Changes.step (k := State.sfReadDesc_changes _ _ _ _)

theorem State.sfLink_changes (s : State) (n : Fin 128) (xs : List PortA) (d : Nat) :
    State.Changes [.mem] s (State.sfLink s n xs d).2 := by
  unfold State.sfLink
  try dsimp only
  repeat'
    first
    | with_reducible apply State.Changes.refl
    | exact rfl
    | with_reducible apply State.Changes.step (k := State.collide_changes _ _ _ _ _ _)
    | with_reducible apply State.Changes.step (k := State.portB_changes _ _)

theorem State.sfDescFetch_changes (s : State) (n : Fin 128) (xs : List PortA) :
    State.Changes [.chans, .seqs, .mem, .streams] s (State.sfDescFetch s n xs) := by
  unfold State.sfDescFetch
  try dsimp only
  repeat'
    first
    | with_reducible apply State.Changes.refl
    | exact rfl
    | with_reducible apply State.Changes.step (k := State.modSf_changes _ _ _)
    | with_reducible apply State.Changes.step (k := State.sfError_changes _ _ _)
    | refine State.Changes.snd (f := State.sfLink _ _ _ _) (by with_reducible assumption) (State.sfLink_changes _ _ _ _) ?_ ?_
    | with_reducible apply State.Changes.step (k := State.sfNext_changes _ _ _ _ _)
    | split

theorem State.txFill_changes (s : State) (n : Fin 128) (t : TxWork) (a : Nat) :
    State.Changes [.mem] s (State.txFill s n t a).1 := by
  induction a generalizing s t with
  | zero => exact .refl _ _
  | succ k ih =>
    unfold State.txFill
    split
    · exact .refl _ _
    · have h := State.memRead_changes s sfReq (0x1000000 + t.buf) 1
      split
      · next lost => exact h.atPair lost
      · next got => exact (h.atPair got).trans (ih _ _)

theorem State.sfPush_changes (s : State) (n : Fin 128) (x : InEntry) :
    State.Changes [.engines] s (State.sfPush s n x) := by
  unfold State.sfPush
  try dsimp only
  repeat'
    first
    | with_reducible apply State.Changes.refl
    | exact rfl
    | with_reducible apply State.Changes.step (k := State.modEng_changes _ _ _)

theorem State.sfTxEntry_changes (s : State) (n : Fin 128) (x : List PortA) :
    State.Changes [.chans, .seqs, .mem, .engines, .streams, .crcs, .free] s (State.sfTxEntry s n x) := by
  unfold State.sfTxEntry
  dsimp -zeta only [← State.set_free_eq, ← State.set_crcs_eq]
  extract_lets c e
  split
  · split
    · exact ((State.sfPush_changes _ _ _).mono rfl).step (State.modSf_changes _ _ _) rfl
    · split
      · split
        · exact .refl _ _
        · rename_i t _
          split
          · exact .refl _ _
          · have h : State.Changes [.chans, .seqs, .mem, .engines, .streams, .crcs, .free] s (s.txFill n t 80).1 := (State.txFill_changes _ _ _ _).mono rfl
            split
            · rename_i ez; rw [ez] at h
              exact (h.step (State.collide_changes _ _ _ _ _ _) rfl).step (State.sfError_changes _ _ _) rfl
            · rename_i s0 o t1 ez
              rw [ez] at h
              dsimp only at h
              replace h : State.Changes [.chans, .seqs, .mem, .engines, .streams, .crcs, .free] s (s0.collide n x false t.buf o) := h.step (State.collide_changes _ _ _ _ _ _) rfl
              extract_lets s1 t2 s2 s3 kk s4
              have h2 : State.Changes [.chans, .seqs, .mem, .engines, .streams, .crcs, .free] s s2 := by
                unfold s2; split
                · exact (h.free rfl)
                · exact h
              have h3 : State.Changes [.chans, .seqs, .mem, .engines, .streams, .crcs, .free] s s3 := (h2.step (State.sfPush_changes _ _ _) rfl).step (State.modSf_changes _ _ _) rfl
              have h4 : State.Changes [.chans, .seqs, .mem, .engines, .streams, .crcs, .free] s s4 := by
                unfold s4; split
                · exact h3.crcs rfl
                · exact h3
              clear_value s2 s3 s4
              split
              · exact (h2.step (State.sfPush_changes _ _ _) rfl).step (State.modSf_changes _ _ _) rfl
              · split
                · split
                  · exact h4.step (State.modSf_changes _ _ _) rfl
                  · exact h4
                · exact h2.step (State.modSf_changes _ _ _) rfl
      · exact .refl _ _
  · exact .refl _ _

theorem RxAcc.start_changes (s : State) (w : RxWork) :
    State.Changes [] s (RxAcc.start s w).s := by
  unfold RxAcc.start
  try dsimp only
  repeat'
    first
    | with_reducible apply State.Changes.refl

theorem RxAcc.put_changes (a : RxAcc) (n : Fin 128) (off : Nat) (v : Nat) :
    State.Changes [.seqs, .mem] a.s (RxAcc.put a n off v).s := by
  unfold RxAcc.put
  try dsimp only
  repeat'
    first
    | with_reducible apply State.Changes.refl
    | exact rfl
    | with_reducible apply State.Changes.step (k := State.memWrite_changes _ _ _ _ _)

theorem RxAcc.flush_changes (a : RxAcc) (n : Fin 128) :
    State.Changes [.seqs, .mem] a.s (RxAcc.flush a n).s := by
  unfold RxAcc.flush
  try dsimp only
  repeat'
    first
    | with_reducible apply State.Changes.refl
    | exact rfl
    | dsimp only
    | with_reducible apply State.Changes.step (k := RxAcc.put_changes _ _ _ _)
    | split

theorem RxAcc.store_changes (a : RxAcc) (n : Fin 128) (b : Byte) :
    State.Changes [.seqs, .mem] a.s (RxAcc.store a n b).s := by
  unfold RxAcc.store
  try dsimp only
  repeat'
    first
    | with_reducible apply State.Changes.refl
    | exact rfl
    | with_reducible apply State.Changes.step (k := RxAcc.flush_changes _ _)
    | split

theorem RxAcc.byte_changes (a : RxAcc) (n : Fin 128) (b : Byte) :
    State.Changes [.seqs, .mem] a.s (RxAcc.byte a n b).s := by
  unfold RxAcc.byte
  try dsimp only
  repeat'
    first
    | with_reducible apply State.Changes.refl
    | exact rfl
    | with_reducible apply State.Changes.step (k := RxAcc.store_changes _ _ _)
    | split

theorem RxAcc.bit_changes (a : RxAcc) (n : Fin 128) (b : Bool) :
    State.Changes [.seqs, .mem] a.s (RxAcc.bit a n b).s := by
  unfold RxAcc.bit
  try dsimp only
  repeat'
    first
    | with_reducible apply State.Changes.refl
    | exact rfl
    | with_reducible apply State.Changes.step (k := RxAcc.byte_changes _ _ _)
    | split

theorem RxAcc.foldl_changes {α : Type} {l : List Part} {s : State} {y : RxAcc} {f : RxAcc → α → RxAcc} {x : List α}
    (h : State.Changes l s y.s) (k : ∀ z a, State.Changes l z.s (f z a).s) : State.Changes l s (x.foldl f y).s := by
  induction x generalizing y with
  | nil => exact h
  | cons a x ih => exact ih (h.trans (k y a))

theorem RxAcc.line_changes (a : RxAcc) (n : Fin 128) (b : Bool) :
    State.Changes [.seqs, .mem] a.s (RxAcc.line a n b).s := by
  unfold RxAcc.line
  dsimp only
  refine RxAcc.foldl_changes (.refl _ _) fun z b => ?_
  split
  · exact RxAcc.foldl_changes (.refl _ _) fun z b => RxAcc.bit_changes _ _ _
  · exact RxAcc.bit_changes _ _ _

theorem RxAcc.close_changes (a : RxAcc) (n : Fin 128) :
    State.Changes [.chans, .seqs, .mem, .streams, .crcs] a.s (RxAcc.close a n).s := by
  unfold RxAcc.close
  extract_lets c k a1 a2 want crcErr noStamp flags oos hdr y1 s1 s2 s3 a3
  have h1 : State.Changes [.chans, .seqs, .mem, .streams, .crcs] a.s a1.s := by
    unfold a1; split
    · exact RxAcc.foldl_changes (.refl _ _) fun z b => (RxAcc.store_changes _ _ _).mono rfl
    · exact .refl _ _
  have h2 : State.Changes [.chans, .seqs, .mem, .streams, .crcs] a.s a2.s := h1.step (RxAcc.flush_changes _ _) rfl
  have h3 : State.Changes [.chans, .seqs, .mem, .streams, .crcs] a.s s1 := by
    unfold s1; split
    · exact h2.crcs rfl
    · exact h2
  have h4 : State.Changes [.chans, .seqs, .mem, .streams, .crcs] a.s s2 := h3.step (State.modSf_changes _ _ _) rfl
  clear_value s1 s2
  split
  · have h5 : State.Changes [.chans, .seqs, .mem, .streams, .crcs] a.s s3 := h4.step (State.modSf_changes _ _ _) rfl
    dsimp only
    split
    · exact h5
    · exact h5.step (State.breachOf_changes _ _ _) rfl
  · have h5 : State.Changes [.chans, .seqs, .mem, .streams, .crcs] a.s a3.s := h4.step (RxAcc.put_changes { a2 with s := s2 } _ _ _) rfl
    exact h5.step (State.modSf_changes _ _ _) rfl

theorem State.rxEntry_changes (s : State) (n : Fin 128) (x : OutEntry) :
    State.Changes [.chans, .seqs, .mem, .streams, .crcs] s (State.rxEntry s n x).s := by
  unfold State.rxEntry
  dsimp only
  split
  · exact (State.modSf_changes _ _ _).mono rfl
  · rename_i w _ _
    exact ((RxAcc.close_changes (RxAcc.start s { w with abort := true }) n).mono rfl).step
      (State.modSf_changes _ _ _) rfl
  · exact .refl _ _
  · rename_i w _ _
    exact (RxAcc.close_changes (RxAcc.start s { w with abort := true }) n).mono rfl
  · refine State.Changes.step ?_ (State.modSf_changes _ _ _) rfl
    exact RxAcc.foldl_changes (.refl _ _) fun z b => (RxAcc.line_changes _ _ _).mono rfl
  · refine State.Changes.step ?_ (RxAcc.close_changes _ _) rfl
    exact RxAcc.foldl_changes (.refl _ _) fun z b => (RxAcc.line_changes _ _ _).mono rfl

theorem State.sfRxEntry_changes (s : State) (n : Fin 128) (xs : List PortA) :
    State.Changes [.chans, .seqs, .mem, .engines, .streams, .crcs] s (State.sfRxEntry s n xs) := by
  unfold State.sfRxEntry
  try dsimp only
  repeat'
    first
    | with_reducible apply State.Changes.refl
    | exact rfl
    | with_reducible apply State.Changes.foldl
    | with_reducible apply State.Changes.step (k := State.modSf_changes _ _ _)
    | with_reducible apply State.Changes.step (k := State.collide_changes _ _ _ _ _ _)
    | with_reducible apply State.Changes.step (k := State.rxEntry_changes _ _ _)
    | with_reducible apply State.Changes.step (k := State.modEng_changes _ _ _)
    | intro _
    | split

theorem State.sfRecPush_changes (s : State) (n : Fin 128) :
    State.Changes [.streams, .sn] s (State.sfRecPush s n) := by
  unfold State.sfRecPush
  try dsimp only
  repeat'
    first
    | with_reducible apply State.Changes.refl
    | exact rfl
    | with_reducible apply State.Changes.step (k := State.fire_changes _ _)
    | with_reducible apply State.Changes.step (k := State.modSf_changes _ _ _)
    | split

theorem State.sfCplPop_changes (s : State) (n : Fin 128) :
    State.Changes [.streams] s (State.sfCplPop s n).2 := by
  unfold State.sfCplPop
  try dsimp only
  repeat'
    first
    | with_reducible apply State.Changes.refl
    | exact rfl
    | dsimp only
    | with_reducible apply State.Changes.step (k := State.modSf_changes _ _ _)
    | split

theorem State.sfCplPush_changes (s : State) (n : Fin 128) (v : W32) :
    State.Changes [.streams, .sn] s (State.sfCplPush s n v) := by
  unfold State.sfCplPush
  try dsimp only
  repeat'
    first
    | with_reducible apply State.Changes.refl
    | exact rfl
    | with_reducible apply State.Changes.step (k := State.fire_changes _ _)
    | with_reducible apply State.Changes.step (k := State.modSf_changes _ _ _)
    | split

theorem State.sfRp_changes (s : State) (n : Fin 128) (v : W32) :
    State.Changes [.streams] s (State.sfRp s n v) := by
  unfold State.sfRp
  try dsimp only
  repeat'
    first
    | with_reducible apply State.Changes.refl
    | exact rfl
    | with_reducible apply State.Changes.step (k := State.modSf_changes _ _ _)

theorem State.sfEnable_changes (s : State) (n : Fin 128) (v : W32) :
    State.Changes [.streams] s (State.sfEnable s n v) := by
  unfold State.sfEnable
  try dsimp only
  repeat'
    first
    | with_reducible apply State.Changes.refl
    | exact rfl
    | with_reducible apply State.Changes.step (k := State.modSf_changes _ _ _)
    | split

theorem State.sfCfgOff_changes (s : State) (n : Fin 128) (w : W32) :
    State.Changes [.streams] s (State.sfCfgOff s n w) := by
  unfold State.sfCfgOff
  try dsimp only
  repeat'
    first
    | with_reducible apply State.Changes.refl
    | exact rfl
    | with_reducible apply State.Changes.step (k := State.modSf_changes _ _ _)
    | with_reducible apply State.Changes.step (k := State.sfEnable_changes _ _ _)
    | split

theorem State.sfSettle_changes (s : State) (n : Fin 128) :
    State.Changes [.streams] s (State.sfSettle s n) := by
  unfold State.sfSettle
  try dsimp only
  repeat'
    first
    | with_reducible apply State.Changes.refl
    | exact rfl
    | with_reducible apply State.Changes.step (k := State.modSf_changes _ _ _)
    | with_reducible apply State.Changes.step (k := State.sfCfgOff_changes _ _ _)
    | split

theorem State.sfCfg_changes (s : State) (n : Fin 128) (v : W32) :
    State.Changes [.streams] s (State.sfCfg s n v) := by
  unfold State.sfCfg
  try dsimp only
  repeat'
    first
    | with_reducible apply State.Changes.refl
    | exact rfl
    | with_reducible apply State.Changes.step (k := State.sfSettle_changes _ _)
    | with_reducible apply State.Changes.step (k := State.modSf_changes _ _ _)
    | with_reducible apply State.Changes.step (k := State.sfCfgOff_changes _ _ _)
    | split

theorem State.sfGo_changes (s : State) (n : Fin 128) :
    State.Changes [.chans, .seqs, .streams] s (State.sfGo s n) := by
  unfold State.sfGo
  try dsimp only
  repeat'
    first
    | with_reducible apply State.Changes.refl
    | exact rfl
    | with_reducible apply State.Changes.step (k := State.sfError_changes _ _ _)
    | with_reducible apply State.Changes.step (k := State.modSf_changes _ _ _)
    | split

theorem State.sfCont_changes (s : State) (n : Fin 128) (xs : List PortA) :
    State.Changes [.chans, .seqs, .mem, .streams] s (State.sfCont s n xs) := by
  unfold State.sfCont
  try dsimp only
  repeat'
    first
    | with_reducible apply State.Changes.refl
    | exact rfl
    | with_reducible apply State.Changes.step (k := State.modSf_changes _ _ _)
    | with_reducible apply State.Changes.step (k := State.sfNext_changes _ _ _ _ _)
    | with_reducible apply State.Changes.step (k := State.sfError_changes _ _ _)
    | refine State.Changes.snd (f := State.sfLink _ _ _ _) (by with_reducible assumption) (State.sfLink_changes _ _ _ _) ?_ ?_
    | split

theorem State.sfFlush_changes (s : State) (n : Fin 128) :
    State.Changes [.streams] s (State.sfFlush s n) := by
  unfold State.sfFlush
  try dsimp only
  repeat'
    first
    | with_reducible apply State.Changes.refl
    | exact rfl
    | with_reducible apply State.Changes.step (k := State.modSf_changes _ _ _)

theorem State.sfClrErr_changes (s : State) (n : Fin 128) :
    State.Changes [.streams] s (State.sfClrErr s n) := by
  unfold State.sfClrErr
  try dsimp only
  repeat'
    first
    | with_reducible apply State.Changes.refl
    | exact rfl
    | with_reducible apply State.Changes.step (k := State.modSf_changes _ _ _)

theorem State.sfCtrl_changes (s : State) (n : Fin 128) (xs : List PortA) (v : W32) :
    State.Changes [.chans, .seqs, .mem, .streams] s (State.sfCtrl s n xs v) := by
  unfold State.sfCtrl
  try dsimp only
  repeat'
    first
    | with_reducible apply State.Changes.refl
    | exact rfl
    | with_reducible apply State.Changes.step (k := State.sfCont_changes _ _ _)
    | with_reducible apply State.Changes.step (k := State.sfGo_changes _ _)
    | with_reducible apply State.Changes.step (k := State.sfFlush_changes _ _)
    | with_reducible apply State.Changes.step (k := State.sfClrErr_changes _ _)
    | split

theorem State.sfStatW_changes (s : State) (n : Fin 128) (v : W32) :
    State.Changes [.streams] s (State.sfStatW s n v) := by
  unfold State.sfStatW
  try dsimp only
  repeat'
    first
    | with_reducible apply State.Changes.refl
    | exact rfl
    | with_reducible apply State.Changes.step (k := State.modSf_changes _ _ _)

theorem State.sfUnitWrite_changes {l : List Part} (s : State) (p : Fin 128 → Stream → Bool) (f : State → State)
    (hl : l.contains .streams = true) (k : State.Changes l s (f s)) : State.Changes l s (State.sfUnitWrite s p f) := by
  unfold State.sfUnitWrite
  split
  · exact (State.modSf_changes _ _ _).mono (by simpa using hl)
  · exact k


end Sys2Proof.Machine
end

