-- ==== Sys2Proof/Laws/ChangesBuses.lean ====
section
/-! SUPPORT. What each operation can change: guardian channels and arbitrated-bus cells. -/

namespace Sys2Proof.Machine


theorem State.gdEcc_changes (s : State) (x : Fin 2) (a : Nat) :
    State.Changes [.chans, .seqs, .mem, .gds, .free] s (State.gdEcc s x a) := by
  unfold State.gdEcc
  try dsimp only
  repeat'
    first
    | with_reducible apply State.Changes.refl
    | exact rfl
    | dsimp only
    | with_reducible apply State.Changes.step (k := State.arrayUnc_changes _ _ _)
    | with_reducible apply State.Changes.step (k := State.breachOf_changes _ _ _)
    | (intro k h; (try dsimp only); (repeat' split) <;> first | with_reducible exact h _ | with_reducible exact k _ | simpa using h _ | simpa using k _ | with_reducible exact Guardian.receive_bufs _ _ _ _ (h _) | with_reducible exact Guardian.receive_bufs _ _ _ _ (k _) | with_reducible exact sparseWf_sparseSet _ _ _ (h _) | exact h _ | exact k _)
    | with_reducible apply State.Changes.modGd

theorem State.gdNote_changes (s : State) (x : Fin 2) :
    State.Changes [.gds] s (State.gdNote s x) := by
  unfold State.gdNote
  try dsimp only
  repeat'
    first
    | with_reducible apply State.Changes.refl
    | exact rfl
    | dsimp only
    | (intro k h; (try dsimp only); (repeat' split) <;> first | with_reducible exact h _ | with_reducible exact k _ | simpa using h _ | simpa using k _ | with_reducible exact Guardian.receive_bufs _ _ _ _ (h _) | with_reducible exact Guardian.receive_bufs _ _ _ _ (k _) | with_reducible exact sparseWf_sparseSet _ _ _ (h _) | exact h _ | exact k _)
    | with_reducible apply State.Changes.modGd

theorem State.gdTableEcc_changes (s : State) (x : Fin 2) (j : Nat) :
    State.Changes [.chans, .seqs, .mem, .gds, .free] s (State.gdTableEcc s x j) := by
  unfold State.gdTableEcc
  try dsimp only
  repeat'
    first
    | with_reducible apply State.Changes.refl
    | exact rfl
    | with_reducible apply State.Changes.step (k := State.gdNote_changes _ _)
    | with_reducible apply State.Changes.step (k := State.gdEcc_changes _ _ _)
    | (intro k h; (try dsimp only); (repeat' split) <;> first | with_reducible exact h _ | with_reducible exact k _ | simpa using h _ | simpa using k _ | with_reducible exact Guardian.receive_bufs _ _ _ _ (h _) | with_reducible exact Guardian.receive_bufs _ _ _ _ (k _) | with_reducible exact sparseWf_sparseSet _ _ _ (h _) | exact h _ | exact k _)
    | with_reducible apply State.Changes.modGd

theorem State.gdSettleAt_changes (s : State) (x : Fin 2) (d : W64) :
    State.Changes [.gds] s (State.gdSettleAt s x d) := by
  unfold State.gdSettleAt
  try dsimp only
  repeat'
    first
    | with_reducible apply State.Changes.refl
    | exact rfl
    | with_reducible apply State.Changes.step (k := State.gdNote_changes _ _)
    | (intro k h; (try dsimp only); (repeat' split) <;> first | with_reducible exact h _ | with_reducible exact k _ | simpa using h _ | simpa using k _ | with_reducible exact Guardian.receive_bufs _ _ _ _ (h _) | with_reducible exact Guardian.receive_bufs _ _ _ _ (k _) | with_reducible exact sparseWf_sparseSet _ _ _ (h _) | exact h _ | exact k _)
    | with_reducible apply State.Changes.modGd
    | split

theorem State.gdSettle_changes (s : State) (x : Fin 2) :
    State.Changes [.gds] s (State.gdSettle s x) := by
  unfold State.gdSettle
  try dsimp only
  repeat'
    first
    | with_reducible apply State.Changes.refl
    | exact rfl
    | with_reducible apply State.Changes.step (k := State.gdSettleAt_changes _ _ _)

theorem State.gdSettled_changes (s : State) :
    State.Changes [.gds] s (State.gdSettled s) := by
  unfold State.gdSettled
  try dsimp only
  repeat'
    first
    | with_reducible apply State.Changes.refl
    | exact rfl
    | with_reducible apply State.Changes.step (k := State.gdSettle_changes _ _)

theorem State.gdCfg_changes (s : State) (x : Fin 2) (v : W32) :
    State.Changes [.gds] s (State.gdCfg s x v) := by
  unfold State.gdCfg
  extract_lets s0 w g s2 s1
  have h0 : State.Changes [.gds] s s0 := (State.gdNote_changes s x).step (State.gdSettle_changes _ _) rfl
  clear_value s0
  have h1 : State.Changes [.gds] s s1 := h0.modGd rfl fun _ h => h x
  split
  · exact h0.modGd rfl fun _ h => by simpa using h x
  · have h2 : State.Changes [.gds] s s2 := h0.modGd rfl fun _ h => h x
    split
    · exact h2.modGd rfl fun _ h => by simpa using h x
    · exact h2
  · exact h0.modGd rfl fun _ h => h x
  · exact h0.modGd rfl fun _ h => h x
  · split
    · exact h1.modGd rfl fun _ h => h x
    · exact (h1.modGd rfl fun _ h => h x).step (State.gdSettle_changes _ _) rfl

theorem State.gdClrErr_changes (s : State) (x : Fin 2) :
    State.Changes [.gds] s (State.gdClrErr s x) := by
  unfold State.gdClrErr
  try dsimp only
  repeat'
    first
    | with_reducible apply State.Changes.refl
    | exact rfl
    | (intro k h; (try dsimp only); (repeat' split) <;> first | with_reducible exact h _ | with_reducible exact k _ | simpa using h _ | simpa using k _ | with_reducible exact Guardian.receive_bufs _ _ _ _ (h _) | with_reducible exact Guardian.receive_bufs _ _ _ _ (k _) | with_reducible exact sparseWf_sparseSet _ _ _ (h _) | exact h _ | exact k _)
    | with_reducible apply State.Changes.modGd

theorem State.gdFlushQ_changes (s : State) (x : Fin 2) :
    State.Changes [.gds] s (State.gdFlushQ s x) := by
  unfold State.gdFlushQ
  try dsimp only
  repeat'
    first
    | with_reducible apply State.Changes.refl
    | exact rfl
    | with_reducible apply State.Changes.step (k := State.gdSettle_changes _ _)
    | (intro k h; (try dsimp only); (repeat' split) <;> first | with_reducible exact h _ | with_reducible exact k _ | simpa using h _ | simpa using k _ | with_reducible exact Guardian.receive_bufs _ _ _ _ (h _) | with_reducible exact Guardian.receive_bufs _ _ _ _ (k _) | with_reducible exact sparseWf_sparseSet _ _ _ (h _) | exact h _ | exact k _)
    | with_reducible apply State.Changes.modGd

theorem State.gdCtrl_changes (s : State) (x : Fin 2) (v : W32) :
    State.Changes [.gds] s (State.gdCtrl s x v) := by
  unfold State.gdCtrl
  try dsimp only
  repeat'
    first
    | with_reducible apply State.Changes.refl
    | exact rfl
    | with_reducible apply State.Changes.step (k := State.gdFlushQ_changes _ _)
    | with_reducible apply State.Changes.step (k := State.gdClrErr_changes _ _)
    | split

theorem State.gdReg_changes {l : List Part} {s z : State} {x : Fin 2} {f : Guardian → Guardian} (h : State.Changes l s z)
    (n : l.contains .gds = true) (k : ∀ g, (f g).bufs = g.bufs) : State.Changes l s (State.gdReg z x f) := by
  unfold State.gdReg
  refine (h.step (State.gdSettle_changes _ _) (by simpa using n)).modGd n fun _ b => ?_
  split
  · exact b _
  · rw [k]; exact b _

theorem State.gdCycle_changes (s0 : State) (x : Fin 2) :
    State.Changes [.gds] s0 (State.gdCycle s0 x) := by
  unfold State.gdCycle
  try dsimp only
  repeat'
    first
    | with_reducible apply State.Changes.refl
    | exact rfl
    | dsimp only
    | with_reducible apply State.Changes.step (k := State.gdSettle_changes _ _)
    | (intro k h; (try dsimp only); (repeat' split) <;> first | with_reducible exact h _ | with_reducible exact k _ | simpa using h _ | simpa using k _ | with_reducible exact Guardian.receive_bufs _ _ _ _ (h _) | with_reducible exact Guardian.receive_bufs _ _ _ _ (k _) | with_reducible exact sparseWf_sparseSet _ _ _ (h _) | exact h _ | exact k _)
    | with_reducible apply State.Changes.modGd
    | split

theorem State.gdOpen_changes (s0 : State) (x : Fin 2) (j : Nat) :
    State.Changes [.chans, .seqs, .mem, .gds, .free] s0 (State.gdOpen s0 x j) := by
  unfold State.gdOpen
  try dsimp only
  repeat'
    first
    | with_reducible apply State.Changes.refl
    | exact rfl
    | with_reducible apply State.Changes.step (k := State.gdTableEcc_changes _ _ _)
    | with_reducible apply State.Changes.step (k := State.gdSettle_changes _ _)
    | (intro k h; (try dsimp only); (repeat' split) <;> first | with_reducible exact h _ | with_reducible exact k _ | simpa using h _ | simpa using k _ | with_reducible exact Guardian.receive_bufs _ _ _ _ (h _) | with_reducible exact Guardian.receive_bufs _ _ _ _ (k _) | with_reducible exact sparseWf_sparseSet _ _ _ (h _) | exact h _ | exact k _)
    | with_reducible apply State.Changes.modGd
    | split

theorem State.gdClose_changes (s : State) (x : Fin 2) :
    State.Changes [.gds] s (State.gdClose s x) := by
  unfold State.gdClose
  try dsimp only
  repeat'
    first
    | with_reducible apply State.Changes.refl
    | exact rfl
    | with_reducible apply State.Changes.step (k := State.gdNote_changes _ _)
    | with_reducible apply State.Changes.step (k := State.gdSettle_changes _ _)
    | (intro k h; (try dsimp only); (repeat' split) <;> first | with_reducible exact h _ | with_reducible exact k _ | simpa using h _ | simpa using k _ | with_reducible exact Guardian.receive_bufs _ _ _ _ (h _) | with_reducible exact Guardian.receive_bufs _ _ _ _ (k _) | with_reducible exact sparseWf_sparseSet _ _ _ (h _) | exact h _ | exact k _)
    | with_reducible apply State.Changes.modGd
    | split

theorem State.gdRelayEnd_changes (s : State) (x : Fin 2) (t : Instant) :
    State.Changes [.gds] s (State.gdRelayEnd s x t) := by
  unfold State.gdRelayEnd
  try dsimp only
  repeat'
    first
    | with_reducible apply State.Changes.refl
    | exact rfl
    | dsimp only
    | with_reducible apply State.Changes.step (k := State.gdNote_changes _ _)
    | with_reducible apply State.Changes.step (k := State.gdSettle_changes _ _)
    | (intro k h; (try dsimp only); (repeat' split) <;> first | with_reducible exact h _ | with_reducible exact k _ | simpa using h _ | simpa using k _ | with_reducible exact Guardian.receive_bufs _ _ _ _ (h _) | with_reducible exact Guardian.receive_bufs _ _ _ _ (k _) | with_reducible exact sparseWf_sparseSet _ _ _ (h _) | exact h _ | exact k _)
    | with_reducible apply State.Changes.modGd
    | split

theorem State.gdFall_changes (s : State) (x : Fin 2) (k : Fin 16) (t : Instant) (idle : Bool) :
    State.Changes [.gds] s (State.gdFall s x k t idle) := by
  unfold State.gdFall
  try dsimp only
  repeat'
    first
    | with_reducible apply State.Changes.refl
    | exact rfl
    | dsimp only
    | (intro k h; (try dsimp only); (repeat' split) <;> first | with_reducible exact h _ | with_reducible exact k _ | simpa using h _ | simpa using k _ | with_reducible exact Guardian.receive_bufs _ _ _ _ (h _) | with_reducible exact Guardian.receive_bufs _ _ _ _ (k _) | with_reducible exact sparseWf_sparseSet _ _ _ (h _) | exact h _ | exact k _)
    | with_reducible apply State.Changes.modGd
    | split

theorem State.gdEdge_changes (s : State) (x : Fin 2) (k : Fin 16) (t : Instant) (v : Bool) :
    State.Changes [.gds] s (State.gdEdge s x k t v) := by
  unfold State.gdEdge
  extract_lets s0 b idle s1 s2
  have h0 : State.Changes [.gds] s s0 := (State.gdNote_changes s x).step (State.gdSettle_changes _ _) rfl
  have h1 : State.Changes [.gds] s s1 := by
    unfold s1; split
    · exact h0.step (State.gdRelayEnd_changes _ _ _) rfl
    · exact h0
  clear_value s0 idle s1
  have h2 : State.Changes [.gds] s s2 := h1.modGd rfl fun _ h => by split <;> exact h x
  clear_value s2
  (repeat' split) <;> first | exact h0 | exact h2 | exact h2.step (State.gdFall_changes _ _ _ _ _) rfl

theorem State.gdQueue_changes (s : State) (x : Fin 2) (q : List Quad) :
    State.Changes [.chans, .seqs, .gds] s (State.gdQueue s x q) := by
  unfold State.gdQueue
  try dsimp only
  repeat'
    first
    | with_reducible apply State.Changes.refl
    | exact rfl
    | dsimp only
    | with_reducible apply State.Changes.step (k := State.breachOf_changes _ _ _)
    | (intro k h; (try dsimp only); (repeat' split) <;> first | with_reducible exact h _ | with_reducible exact k _ | simpa using h _ | simpa using k _ | with_reducible exact Guardian.receive_bufs _ _ _ _ (h _) | with_reducible exact Guardian.receive_bufs _ _ _ _ (k _) | with_reducible exact sparseWf_sparseSet _ _ _ (h _) | exact h _ | exact k _)
    | with_reducible apply State.Changes.modGd
    | split

theorem State.gdFrame_changes (s : State) (x : Fin 2) (t : Instant) :
    State.Changes [.chans, .seqs, .mem, .gds, .free] s (State.gdFrame s x t) := by
  unfold State.gdFrame
  dsimp only
  split
  · exact .refl _ _
  · split
    · have hd : State.Changes [.chans, .seqs, .mem, .gds, .free] s ((s.gdNote x).modGd x fun g => { g with dec := none }) :=
        ((State.gdNote_changes s x).mono rfl).modGd rfl fun _ h => h x
      split
      · exact hd.step (State.gdSettle_changes _ _) rfl
      · split
        · exact hd.step (State.gdSettle_changes _ _) rfl
        · split
          · exact ((State.gdTableEcc_changes s x _).mono rfl).step (State.gdSettle_changes _ _) rfl
          · rename_i l bad _ _ _
            have h1 : ∀ f : Guardian → Guardian, (∀ g, (∀ i, sparseWf 0 (s.gds.at i).bufs = true) → sparseWf 0 (f g).bufs = true) →
                State.Changes [.chans, .seqs, .mem, .gds, .free] s (s.modGd x f) := fun f e => (State.Changes.refl _ s).modGd rfl fun h _ => e _ h
            have hb : (∀ i, sparseWf 0 (s.gds.at i).bufs = true) →
                sparseWf 0 (((s.gdNote x).modGd x fun g => { g with dec := none }).gds.at x).bufs = true := fun h => by
              simpa [State.gdNote, State.modGd] using h x
            split
            · refine ((h1 _ fun g h => ?_).step (State.gdQueue_changes _ _ _) rfl).step (State.gdSettle_changes _ _) rfl
              split <;> split <;> first | exact Guardian.receive_bufs _ _ _ _ (hb h) | exact hb h
            · refine (h1 _ fun g h => ?_).step (State.gdSettle_changes _ _) rfl
              split <;> split <;> first | exact Guardian.receive_bufs _ _ _ _ (hb h) | exact hb h
    · exact .refl _ _

theorem State.gdLatch_changes (s0 : State) (x : Fin 2) (j : Nat) :
    State.Changes [.chans, .seqs, .mem, .gds, .free] s0 (State.gdLatch s0 x j) := by
  unfold State.gdLatch
  try dsimp only
  repeat'
    first
    | with_reducible apply State.Changes.refl
    | exact rfl
    | dsimp only
    | with_reducible apply State.Changes.step (k := State.gdEcc_changes _ _ _)
    | with_reducible apply State.Changes.step (k := State.gdTableEcc_changes _ _ _)
    | with_reducible apply State.Changes.step (k := State.gdSettle_changes _ _)
    | (intro k h; (try dsimp only); (repeat' split) <;> first | with_reducible exact h _ | with_reducible exact k _ | simpa using h _ | simpa using k _ | with_reducible exact Guardian.receive_bufs _ _ _ _ (h _) | with_reducible exact Guardian.receive_bufs _ _ _ _ (k _) | with_reducible exact sparseWf_sparseSet _ _ _ (h _) | exact h _ | exact k _)
    | with_reducible apply State.Changes.modGd
    | split

theorem State.gdSend_changes (s : State) (x : Fin 2) (j : Nat) :
    State.Changes [.gds] s (State.gdSend s x j) := by
  unfold State.gdSend
  try dsimp only
  repeat'
    first
    | with_reducible apply State.Changes.refl
    | exact rfl
    | dsimp only
    | (intro k h; (try dsimp only); (repeat' split) <;> first | with_reducible exact h _ | with_reducible exact k _ | simpa using h _ | simpa using k _ | with_reducible exact Guardian.receive_bufs _ _ _ _ (h _) | with_reducible exact Guardian.receive_bufs _ _ _ _ (k _) | with_reducible exact sparseWf_sparseSet _ _ _ (h _) | exact h _ | exact k _)
    | with_reducible apply State.Changes.modGd
    | split

theorem State.gdCommit_changes (s0 : State) (x : Fin 2) (v : W32) :
    State.Changes [.chans, .seqs, .gds] s0 (State.gdCommit s0 x v) := by
  unfold State.gdCommit
  try dsimp only
  repeat'
    first
    | with_reducible apply State.Changes.refl
    | exact rfl
    | dsimp only
    | with_reducible apply State.Changes.step (k := State.breachOf_changes _ _ _)
    | with_reducible apply State.Changes.step (k := State.gdSettle_changes _ _)
    | (intro k h; (try dsimp only); (repeat' split) <;> first | with_reducible exact h _ | with_reducible exact k _ | simpa using h _ | simpa using k _ | with_reducible exact Guardian.receive_bufs _ _ _ _ (h _) | with_reducible exact Guardian.receive_bufs _ _ _ _ (k _) | with_reducible exact sparseWf_sparseSet _ _ _ (h _) | exact h _ | exact k _)
    | with_reducible apply State.Changes.modGd
    | split

theorem State.gdReadmit_changes (s0 : State) (v : W32) :
    State.Changes [.gds] s0 (State.gdReadmit s0 v) := by
  unfold State.gdReadmit
  dsimp -zeta only [← State.set_gds_eq]
  try dsimp only
  repeat'
    first
    | with_reducible apply State.Changes.refl
    | exact rfl
    | with_reducible apply State.Changes.gds
    | with_reducible apply State.Changes.step (k := State.gdSettled_changes _)
    | (intro _ h; simpa using h)

theorem State.gdStep_changes (s0 : State) (x : Fin 2) (a : W64) (b : W64) :
    State.Changes [.gds] s0 (State.gdStep s0 x a b) := by
  unfold State.gdStep
  extract_lets s g left back s1 past src g1 _
  have h0 : State.Changes [.gds] s0 s := (State.gdNote_changes s0 x).step (State.gdSettleAt_changes _ _ _) rfl
  have hb : (∀ i, sparseWf 0 (s.gds.at i).bufs = true) → sparseWf 0 g1.bufs = true := fun h => by
    unfold g1; split
    · simpa [src, g] using h x
    · exact h x
  have hl : State.Changes [.gds] s0 s1 := h0.modGd rfl fun _ h => by
    dsimp only
    split
    · simpa [g] using h x
    · exact h x
  clear_value s g1 s1
  split
  · exact hl.step (State.gdSettle_changes _ _) rfl
  · split
    · split
      · exact State.Changes.step (h0.modGd rfl fun _ h => hb h) (State.gdSettle_changes _ _) rfl
      · refine State.Changes.step (h0.modGd rfl fun _ h => ?_) (State.gdCycle_changes _ _) rfl
        exact foldl_keep (p := fun g : Guardian => sparseWf 0 g.bufs = true) (hb h) fun g _ hg => hg
    · exact .refl _ _

theorem State.gdsStep_changes (s : State) (d : Fin 8) (a : W64) (b : W64) :
    State.Changes [.gds] s (State.gdsStep s d a b) := by
  unfold State.gdsStep
  try dsimp only
  repeat'
    first
    | with_reducible apply State.Changes.refl
    | exact rfl
    | with_reducible apply State.Changes.step (k := State.gdStep_changes _ _ _ _)
    | split

theorem State.gdReturn_changes (s : State) (x : Fin 2) :
    State.Changes [.gds] s (State.gdReturn s x) := by
  unfold State.gdReturn
  try dsimp only
  repeat'
    first
    | with_reducible apply State.Changes.refl
    | exact rfl
    | dsimp only
    | (intro k h; (try dsimp only); (repeat' split) <;> first | with_reducible exact h _ | with_reducible exact k _ | simpa using h _ | simpa using k _ | with_reducible exact Guardian.receive_bufs _ _ _ _ (h _) | with_reducible exact Guardian.receive_bufs _ _ _ _ (k _) | with_reducible exact sparseWf_sparseSet _ _ _ (h _) | exact h _ | exact k _)
    | with_reducible apply State.Changes.modGd
    | split

theorem State.gdStatW_changes (s : State) (x : Fin 2) (v : W32) :
    State.Changes [.gds] s (State.gdStatW s x v) := by
  unfold State.gdStatW
  try dsimp only
  repeat'
    first
    | with_reducible apply State.Changes.refl
    | exact rfl
    | dsimp only
    | (intro k h; (try dsimp only); (repeat' split) <;> first | with_reducible exact h _ | with_reducible exact k _ | simpa using h _ | simpa using k _ | with_reducible exact Guardian.receive_bufs _ _ _ _ (h _) | with_reducible exact Guardian.receive_bufs _ _ _ _ (k _) | with_reducible exact sparseWf_sparseSet _ _ _ (h _) | exact h _ | exact k _)
    | with_reducible apply State.Changes.modGd

theorem State.gdNodeStatW_changes (s : State) (x : Fin 2) (v : W32) :
    State.Changes [.gds] s (State.gdNodeStatW s x v) := by
  unfold State.gdNodeStatW
  try dsimp only
  repeat'
    first
    | with_reducible apply State.Changes.refl
    | exact rfl
    | dsimp only
    | (intro k h; (try dsimp only); (repeat' split) <;> first | with_reducible exact h _ | with_reducible exact k _ | simpa using h _ | simpa using k _ | with_reducible exact Guardian.receive_bufs _ _ _ _ (h _) | with_reducible exact Guardian.receive_bufs _ _ _ _ (k _) | with_reducible exact sparseWf_sparseSet _ _ _ (h _) | exact h _ | exact k _)
    | with_reducible apply State.Changes.modGd

theorem State.gdBrStatW_changes (s : State) (x : Fin 2) (k : Fin 16) (v : W32) :
    State.Changes [.gds] s (State.gdBrStatW s x k v) := by
  unfold State.gdBrStatW
  try dsimp only
  repeat'
    first
    | with_reducible apply State.Changes.refl
    | exact rfl
    | dsimp only
    | (intro k h; (try dsimp only); (repeat' split) <;> first | with_reducible exact h _ | with_reducible exact k _ | simpa using h _ | simpa using k _ | with_reducible exact Guardian.receive_bufs _ _ _ _ (h _) | with_reducible exact Guardian.receive_bufs _ _ _ _ (k _) | with_reducible exact sparseWf_sparseSet _ _ _ (h _) | exact h _ | exact k _)
    | with_reducible apply State.Changes.modGd

theorem State.gdBstatW_changes (s : State) (x : Fin 2) (b : Fin 64) (v : W32) :
    State.Changes [.gds] s (State.gdBstatW s x b v) := by
  unfold State.gdBstatW
  try dsimp only
  repeat'
    first
    | with_reducible apply State.Changes.refl
    | exact rfl
    | dsimp only
    | (intro k h; (try dsimp only); (repeat' split) <;> first | with_reducible exact h _ | with_reducible exact k _ | simpa using h _ | simpa using k _ | with_reducible exact Guardian.receive_bufs _ _ _ _ (h _) | with_reducible exact Guardian.receive_bufs _ _ _ _ (k _) | with_reducible exact sparseWf_sparseSet _ _ _ (h _) | exact h _ | exact k _)
    | with_reducible apply State.Changes.modGd

theorem State.gdTableW_changes (s : State) (x : Fin 2) (w : Nat) (v : W32) :
    State.Changes [.gds] s (State.gdTableW s x w v) := by
  unfold State.gdTableW
  try dsimp only
  repeat'
    first
    | with_reducible apply State.Changes.refl
    | exact rfl
    | dsimp only
    | exact fun _ => rfl
    | with_reducible apply State.gdReg_changes

theorem State.gdBufW_changes (s : State) (x : Fin 2) (w : Nat) (v : W32) :
    State.Changes [.gds] s (State.gdBufW s x w v) := by
  unfold State.gdBufW
  try dsimp only
  repeat'
    first
    | with_reducible apply State.Changes.refl
    | exact rfl
    | dsimp only
    | (intro k h; (try dsimp only); (repeat' split) <;> first | with_reducible exact h _ | with_reducible exact k _ | simpa using h _ | simpa using k _ | with_reducible exact Guardian.receive_bufs _ _ _ _ (h _) | with_reducible exact Guardian.receive_bufs _ _ _ _ (k _) | with_reducible exact sparseWf_sparseSet _ _ _ (h _) | exact h _ | exact k _)
    | with_reducible apply State.Changes.modGd


theorem State.abTbEcc_changes (s : State) (k : Fin 16) (b : Fin 8) (f : AbCell → AbCell) (e : ∀ c, (f c).rbw = c.rbw) :
    State.Changes [.chans, .seqs, .mem, .abs_, .free] s (State.abTbEcc s k b f) := by
  unfold State.abTbEcc
  have h : State.Changes [.chans, .seqs, .mem, .abs_, .free] s (s.modAb k f) := (State.Changes.refl _ s).modAb rfl fun h _ => by rw [e]; exact h k
  exact (h.step (State.arrayUnc_changes _ _ _) rfl).step (State.breachOf_changes _ _ _) rfl

theorem State.abRequest_changes (s : State) (k : Fin 16) (b : Fin 8) :
    State.Changes [.chans, .seqs, .mem, .abs_, .free] s (State.abRequest s k b) := by
  unfold State.abRequest
  try dsimp only
  repeat'
    first
    | with_reducible apply State.Changes.refl
    | exact rfl
    | dsimp only
    | with_reducible apply State.Changes.step (k := State.breachOf_changes _ _ _)
    | with_reducible apply State.Changes.step (k := State.abTbEcc_changes _ _ _ _ ?_)
    | (intro k h; (try dsimp only); (repeat' split) <;> first | with_reducible exact h _ | with_reducible exact k _ | simpa using h _ | simpa using k _ | with_reducible exact Guardian.receive_bufs _ _ _ _ (h _) | with_reducible exact Guardian.receive_bufs _ _ _ _ (k _) | with_reducible exact sparseWf_sparseSet _ _ _ (h _) | exact h _ | exact k _)
    | with_reducible apply State.Changes.modAb
    | exact fun _ => rfl
    | split

theorem State.abDue_changes (s : State) (k : Fin 16) (b : Fin 8) :
    State.Changes [.abs_] s (State.abDue s k b) := by
  unfold State.abDue
  try dsimp only
  repeat'
    first
    | with_reducible apply State.Changes.refl
    | exact rfl
    | dsimp only
    | (intro k h; (try dsimp only); (repeat' split) <;> first | with_reducible exact h _ | with_reducible exact k _ | simpa using h _ | simpa using k _ | with_reducible exact Guardian.receive_bufs _ _ _ _ (h _) | with_reducible exact Guardian.receive_bufs _ _ _ _ (k _) | with_reducible exact sparseWf_sparseSet _ _ _ (h _) | exact h _ | exact k _)
    | with_reducible apply State.Changes.modAb
    | split

theorem State.abSettled_changes (s : State) :
    State.Changes [.abs_] s (State.abSettled s) := by
  unfold State.abSettled
  dsimp -zeta only [← State.set_abs__eq]
  try dsimp only
  repeat'
    first
    | with_reducible apply State.Changes.refl
    | exact rfl
    | with_reducible apply State.Changes.abs_
    | (intro _ h; simpa using h)
    | split

theorem State.abTxReq_changes (s : State) (k : Fin 16) (v : W32) :
    State.Changes [.chans, .seqs, .mem, .abs_, .free] s (State.abTxReq s k v) := by
  unfold State.abTxReq
  try dsimp only
  repeat'
    first
    | with_reducible apply State.Changes.refl
    | exact rfl
    | with_reducible apply State.Changes.foldl
    | with_reducible apply State.Changes.step (k := State.abSettled_changes _)
    | with_reducible apply State.Changes.step (k := State.abRequest_changes _ _ _)
    | intro _
    | split

theorem State.abTxCan_changes (s : State) (k : Fin 16) (v : W32) :
    State.Changes [.abs_] s (State.abTxCan s k v) := by
  unfold State.abTxCan
  refine (State.abSettled_changes s).modAb rfl fun _ h => ?_
  refine foldl_keep (p := fun c : AbCell => sparseWf 0 c.rbw = true) (h k) fun c b hc => ?_
  split
  · simpa using hc
  · exact hc

theorem State.abSof_changes (s0 : State) (k : Fin 16) (es : Instant) (own : Bool) :
    State.Changes [.chans, .seqs, .mem, .abs_, .free] s0 (State.abSof s0 k es own) := by
  unfold State.abSof
  try dsimp only
  repeat'
    first
    | with_reducible apply State.Changes.refl
    | exact rfl
    | dsimp only
    | with_reducible apply State.Changes.step (k := State.abTbEcc_changes _ _ _ _ ?_)
    | with_reducible apply State.Changes.step (k := State.abSettled_changes _)
    | (intro k h; (try dsimp only); (repeat' split) <;> first | with_reducible exact h _ | with_reducible exact k _ | simpa using h _ | simpa using k _ | with_reducible exact Guardian.receive_bufs _ _ _ _ (h _) | with_reducible exact Guardian.receive_bufs _ _ _ _ (k _) | with_reducible exact sparseWf_sparseSet _ _ _ (h _) | exact h _ | exact k _)
    | with_reducible apply State.Changes.modAb
    | (intro c; (repeat' split) <;> rfl)
    | split

theorem State.abEdge_changes (s0 : State) (k : Fin 16) (e : Instant) :
    State.Changes [.abs_] s0 (State.abEdge s0 k e) := by
  unfold State.abEdge
  try dsimp only
  repeat'
    first
    | with_reducible apply State.Changes.refl
    | exact rfl
    | with_reducible apply State.Changes.step (k := State.abSettled_changes _)
    | (intro k h; (try dsimp only); (repeat' split) <;> first | with_reducible exact h _ | with_reducible exact k _ | simpa using h _ | simpa using k _ | with_reducible exact Guardian.receive_bufs _ _ _ _ (h _) | with_reducible exact Guardian.receive_bufs _ _ _ _ (k _) | with_reducible exact sparseWf_sparseSet _ _ _ (h _) | exact h _ | exact k _)
    | with_reducible apply State.Changes.modAb

theorem State.abLost_changes (s0 : State) (k : Fin 16) :
    State.Changes [.abs_] s0 (State.abLost s0 k) := by
  unfold State.abLost
  try dsimp only
  repeat'
    first
    | with_reducible apply State.Changes.refl
    | exact rfl
    | dsimp only
    | with_reducible apply State.Changes.step (k := State.abSettled_changes _)
    | (intro k h; (try dsimp only); (repeat' split) <;> first | with_reducible exact h _ | with_reducible exact k _ | simpa using h _ | simpa using k _ | with_reducible exact Guardian.receive_bufs _ _ _ _ (h _) | with_reducible exact Guardian.receive_bufs _ _ _ _ (k _) | with_reducible exact sparseWf_sparseSet _ _ _ (h _) | exact h _ | exact k _)
    | with_reducible apply State.Changes.modAb
    | split

theorem State.abPush_changes (s : State) (k : Fin 16) (q : List Quad) :
    State.Changes [.chans, .seqs, .abs_] s (State.abPush s k q) := by
  unfold State.abPush
  try dsimp only
  repeat'
    first
    | with_reducible apply State.Changes.refl
    | exact rfl
    | dsimp only
    | with_reducible apply State.Changes.step (k := State.breachOf_changes _ _ _)
    | (intro k h; (try dsimp only); (repeat' split) <;> first | with_reducible exact h _ | with_reducible exact k _ | simpa using h _ | simpa using k _ | with_reducible exact Guardian.receive_bufs _ _ _ _ (h _) | with_reducible exact Guardian.receive_bufs _ _ _ _ (k _) | with_reducible exact sparseWf_sparseSet _ _ _ (h _) | exact h _ | exact k _)
    | with_reducible apply State.Changes.modAb
    | split

theorem State.abSent_changes (s : State) (k : Fin 16) :
    State.Changes [.chans, .seqs, .abs_] s (State.abSent s k) := by
  unfold State.abSent
  dsimp only
  split
  · exact .refl _ _
  · split
    · split
      · exact .refl _ _
      · have h1 : ∀ f : AbCell → AbCell, (∀ c, (f c).rbw = c.rbw) → State.Changes [.chans, .seqs, .abs_] s (s.modAb k f) := fun f e =>
          (State.Changes.refl _ s).modAb rfl fun h _ => by rw [e]; exact h k
        split
        · exact (h1 _ fun c => by simp).step (State.abPush_changes _ _ _) rfl
        · exact h1 _ fun c => by simp
    · exact .refl _ _

theorem State.abFilterEcc_changes (s : State) (k : Fin 16) :
    State.Changes [.chans, .seqs, .mem, .free] s (State.abFilterEcc s k) := by
  unfold State.abFilterEcc
  try dsimp only
  repeat'
    first
    | with_reducible apply State.Changes.refl
    | exact rfl
    | with_reducible apply State.Changes.step (k := State.arrayUnc_changes _ _ _)
    | with_reducible apply State.Changes.step (k := State.breachOf_changes _ _ _)
    | split

theorem State.abReceived_changes (s0 : State) (k : Fin 16) :
    State.Changes [.chans, .seqs, .mem, .abs_, .free] s0 (State.abReceived s0 k) := by
  unfold State.abReceived
  dsimp -zeta only [← State.set_free_eq]
  extract_lets c s pick rec1 z m
  split
  · exact .refl _ _
  · split
    · extract_lets s1 data t
      have h : State.Changes [.chans, .seqs, .mem, .abs_, .free] s0 s := (State.abFilterEcc_changes s0 k).mono rfl
      have h0 : State.Changes [.chans, .seqs, .mem, .abs_, .free] s0 z := by
        unfold z; split
        · exact h.free rfl
        · exact h
      have h1 : State.Changes [.chans, .seqs, .mem, .abs_, .free] s0 s1 := by
        refine h0.modAb rfl fun _ h => ?_
        dsimp only
        split <;> simpa using h k
      clear_value s z s1
      split
      · exact h1
      · extract_lets a mk w1 b one s2
        have h2 : State.Changes [.chans, .seqs, .mem, .abs_, .free] s0 s2 := by
          unfold s2; split
          · exact h1.modAb rfl fun _ h => AbCell.writeRb_rbw _ _ _ _ (h k)
          · exact h1
        clear_value s2
        split
        · exact h2.step (State.abPush_changes _ _ _) rfl
        · exact h2
    · exact .refl _ _

theorem State.abError_changes (s0 : State) (k : Fin 16) (e : AbErr) :
    State.Changes [.abs_] s0 (State.abError s0 k e) := by
  unfold State.abError
  try dsimp only
  repeat'
    first
    | with_reducible apply State.Changes.refl
    | exact rfl
    | with_reducible apply State.Changes.step (k := State.abSettled_changes _)
    | (intro k h; (try dsimp only); (repeat' split) <;> first | with_reducible exact h _ | with_reducible exact k _ | simpa using h _ | simpa using k _ | with_reducible exact Guardian.receive_bufs _ _ _ _ (h _) | with_reducible exact Guardian.receive_bufs _ _ _ _ (k _) | with_reducible exact sparseWf_sparseSet _ _ _ (h _) | exact h _ | exact k _)
    | with_reducible apply State.Changes.modAb
    | split

theorem State.abException_changes (s0 : State) (k : Fin 16) :
    State.Changes [.abs_] s0 (State.abException s0 k) := by
  unfold State.abException
  try dsimp only
  repeat'
    first
    | with_reducible apply State.Changes.refl
    | exact rfl
    | with_reducible apply State.Changes.step (k := State.abError_changes _ _ _)
    | with_reducible apply State.Changes.step (k := State.abSettled_changes _)
    | (intro k h; (try dsimp only); (repeat' split) <;> first | with_reducible exact h _ | with_reducible exact k _ | simpa using h _ | simpa using k _ | with_reducible exact Guardian.receive_bufs _ _ _ _ (h _) | with_reducible exact Guardian.receive_bufs _ _ _ _ (k _) | with_reducible exact sparseWf_sparseSet _ _ _ (h _) | exact h _ | exact k _)
    | with_reducible apply State.Changes.modAb
    | split

theorem State.abFault_changes (s0 : State) (k : Fin 16) :
    State.Changes [.chans, .seqs, .abs_] s0 (State.abFault s0 k) := by
  unfold State.abFault
  try dsimp only
  repeat'
    first
    | with_reducible apply State.Changes.refl
    | exact rfl
    | dsimp only
    | with_reducible apply State.Changes.step (k := State.breachOf_changes _ _ _)
    | with_reducible apply State.Changes.step (k := State.abSettled_changes _)
    | (intro k h; (try dsimp only); (repeat' split) <;> first | with_reducible exact h _ | with_reducible exact k _ | simpa using h _ | simpa using k _ | with_reducible exact Guardian.receive_bufs _ _ _ _ (h _) | with_reducible exact Guardian.receive_bufs _ _ _ _ (k _) | with_reducible exact sparseWf_sparseSet _ _ _ (h _) | exact h _ | exact k _)
    | with_reducible apply State.Changes.modAb
    | split

theorem State.abIntegDone_changes (s0 : State) (k : Fin 16) :
    State.Changes [.abs_] s0 (State.abIntegDone s0 k) := by
  unfold State.abIntegDone
  try dsimp only
  repeat'
    first
    | with_reducible apply State.Changes.refl
    | exact rfl
    | with_reducible apply State.Changes.step (k := State.abSettled_changes _)
    | (intro k h; (try dsimp only); (repeat' split) <;> first | with_reducible exact h _ | with_reducible exact k _ | simpa using h _ | simpa using k _ | with_reducible exact Guardian.receive_bufs _ _ _ _ (h _) | with_reducible exact Guardian.receive_bufs _ _ _ _ (k _) | with_reducible exact sparseWf_sparseSet _ _ _ (h _) | exact h _ | exact k _)
    | with_reducible apply State.Changes.modAb

theorem State.abRecovered_changes (s : State) (k : Fin 16) :
    State.Changes [.abs_] s (State.abRecovered s k) := by
  unfold State.abRecovered
  try dsimp only
  repeat'
    first
    | with_reducible apply State.Changes.refl
    | exact rfl
    | (intro k h; (try dsimp only); (repeat' split) <;> first | with_reducible exact h _ | with_reducible exact k _ | simpa using h _ | simpa using k _ | with_reducible exact Guardian.receive_bufs _ _ _ _ (h _) | with_reducible exact Guardian.receive_bufs _ _ _ _ (k _) | with_reducible exact sparseWf_sparseSet _ _ _ (h _) | exact h _ | exact k _)
    | with_reducible apply State.Changes.modAb

theorem State.abRecover_changes (s : State) (k : Fin 16) :
    State.Changes [.abs_] s (State.abRecover s k) := by
  unfold State.abRecover
  try dsimp only
  repeat'
    first
    | with_reducible apply State.Changes.refl
    | exact rfl
    | (intro k h; (try dsimp only); (repeat' split) <;> first | with_reducible exact h _ | with_reducible exact k _ | simpa using h _ | simpa using k _ | with_reducible exact Guardian.receive_bufs _ _ _ _ (h _) | with_reducible exact Guardian.receive_bufs _ _ _ _ (k _) | with_reducible exact sparseWf_sparseSet _ _ _ (h _) | exact h _ | exact k _)
    | with_reducible apply State.Changes.modAb

theorem State.abClrFlt_changes (s : State) (k : Fin 16) :
    State.Changes [.abs_] s (State.abClrFlt s k) := by
  unfold State.abClrFlt
  try dsimp only
  repeat'
    first
    | with_reducible apply State.Changes.refl
    | exact rfl
    | (intro k h; (try dsimp only); (repeat' split) <;> first | with_reducible exact h _ | with_reducible exact k _ | simpa using h _ | simpa using k _ | with_reducible exact Guardian.receive_bufs _ _ _ _ (h _) | with_reducible exact Guardian.receive_bufs _ _ _ _ (k _) | with_reducible exact sparseWf_sparseSet _ _ _ (h _) | exact h _ | exact k _)
    | with_reducible apply State.Changes.modAb

theorem State.abFlush_changes (s0 : State) (k : Fin 16) :
    State.Changes [.abs_] s0 (State.abFlush s0 k) := by
  unfold State.abFlush
  refine ((State.abSettled_changes s0).mono rfl).modAb rfl fun _ h => ?_
  split
  · refine foldl_keep (p := fun c : AbCell => sparseWf 0 c.rbw = true) (h k) fun c b hc => ?_
    split
    · simpa using hc
    · exact hc
  · exact h k

theorem State.abCtrl_changes (s : State) (k : Fin 16) (v : W32) :
    State.Changes [.abs_] s (State.abCtrl s k v) := by
  unfold State.abCtrl
  try dsimp only
  repeat'
    first
    | with_reducible apply State.Changes.refl
    | exact rfl
    | with_reducible apply State.Changes.step (k := State.abFlush_changes _ _)
    | with_reducible apply State.Changes.step (k := State.abRecover_changes _ _)
    | with_reducible apply State.Changes.step (k := State.abClrFlt_changes _ _)
    | split

theorem State.abReg_changes {l : List Part} {s z : State} {x : Fin 16} {f : AbCell → AbCell} (h : State.Changes l s z)
    (n : l.contains .abs_ = true) (k : ∀ g, (f g).rbw = g.rbw) : State.Changes l s (State.abReg z x f) := by
  unfold State.abReg
  refine (h.step (State.abSettled_changes _) (by simpa using n)).modAb n fun _ b => ?_
  split
  · exact b _
  · rw [k]; exact b _

theorem State.noteQueues_changes (s : State) :
    State.Changes [.gds, .abs_] s (State.noteQueues s) := by
  refine (((State.Changes.refl [.gds, .abs_] s).gds rfl fun g h => ?_).abs_ rfl fun g h => ?_ :
    State.Changes [.gds, .abs_] s ((s.set_gds (Vector.ofFn fun x : Fin 2 => { s.gds.at x with mark := s.gdMark x })).set_abs_
      (Vector.ofFn fun k : Fin 16 => { s.abs_.at k with mark := s.abMark k })))
  · simpa using h
  · simpa [State.set_gds] using h

theorem State.abAbort_changes (s : State) (k : Fin 16) :
    State.Changes [.abs_] s (State.abAbort s k) := by
  unfold State.abAbort
  try dsimp only
  repeat'
    first
    | with_reducible apply State.Changes.refl
    | exact rfl
    | (intro k h; (try dsimp only); (repeat' split) <;> first | with_reducible exact h _ | with_reducible exact k _ | simpa using h _ | simpa using k _ | with_reducible exact Guardian.receive_bufs _ _ _ _ (h _) | with_reducible exact Guardian.receive_bufs _ _ _ _ (k _) | with_reducible exact sparseWf_sparseSet _ _ _ (h _) | exact h _ | exact k _)
    | with_reducible apply State.Changes.modAb

theorem State.abCfg_changes (z : State) (k : Fin 16) (v : W32) :
    State.Changes [.gds, .abs_] z (State.abCfg z k v) := by
  unfold State.abCfg
  extract_lets s w c nc odd s3 s1 s2
  have h0 : State.Changes [.gds, .abs_] z s := ((State.abSettled_changes z).mono (m := [.gds, .abs_]) rfl).step (State.noteQueues_changes _) rfl
  clear_value s
  have h1 : State.Changes [.gds, .abs_] z s1 := h0.modAb rfl fun _ h => h k
  clear_value s1
  have h2 : State.Changes [.gds, .abs_] z s2 := h1.modAb rfl fun _ h => h k
  clear_value s2
  split
  · exact h0.modAb rfl fun _ h => by simpa using h k
  · have h3 : State.Changes [.gds, .abs_] z s3 := h0.modAb rfl fun _ h => h k
    clear_value s3
    split
    · exact h3.step (State.abAbort_changes _ _) rfl
    · exact h3
  · refine h0.modAb rfl fun _ h => ?_
    (repeat' split) <;> simpa using h k
  · exact h0.modAb rfl fun _ h => h k
  · split
    · split
      · exact h2.step (State.abAbort_changes _ _) rfl
      · exact h2
    · exact h1.modAb rfl fun _ h => h k
  · exact h0.modAb rfl fun _ h => h k

theorem State.abTbW_changes (s : State) (k : Fin 16) (b : Fin 8) (w : Nat) (v : W32) :
    State.Changes [.abs_] s (State.abTbW s k b w v) := by
  unfold State.abTbW
  try dsimp only
  repeat'
    first
    | with_reducible apply State.Changes.refl
    | exact rfl
    | with_reducible apply State.Changes.step (k := State.abSettled_changes _)
    | (intro k h; (try dsimp only); (repeat' split) <;> first | with_reducible exact h _ | with_reducible exact k _ | simpa using h _ | simpa using k _ | with_reducible exact Guardian.receive_bufs _ _ _ _ (h _) | with_reducible exact Guardian.receive_bufs _ _ _ _ (k _) | with_reducible exact sparseWf_sparseSet _ _ _ (h _) | exact h _ | exact k _)
    | with_reducible apply State.Changes.modAb

theorem State.abFilterW_changes (s : State) (k : Fin 16) (i : Nat) (v : W32) :
    State.Changes [.abs_] s (State.abFilterW s k i v) := by
  unfold State.abFilterW
  try dsimp only
  repeat'
    first
    | with_reducible apply State.Changes.refl
    | exact rfl
    | dsimp only
    | (intro k h; (try dsimp only); (repeat' split) <;> first | with_reducible exact h _ | with_reducible exact k _ | simpa using h _ | simpa using k _ | with_reducible exact Guardian.receive_bufs _ _ _ _ (h _) | with_reducible exact Guardian.receive_bufs _ _ _ _ (k _) | with_reducible exact sparseWf_sparseSet _ _ _ (h _) | exact h _ | exact k _)
    | with_reducible apply State.Changes.modAb

theorem State.abStatW_changes (s : State) (k : Fin 16) (v : W32) :
    State.Changes [.abs_] s (State.abStatW s k v) := by
  unfold State.abStatW
  try dsimp only
  repeat'
    first
    | with_reducible apply State.Changes.refl
    | exact rfl
    | dsimp only
    | (intro k h; (try dsimp only); (repeat' split) <;> first | with_reducible exact h _ | with_reducible exact k _ | simpa using h _ | simpa using k _ | with_reducible exact Guardian.receive_bufs _ _ _ _ (h _) | with_reducible exact Guardian.receive_bufs _ _ _ _ (k _) | with_reducible exact sparseWf_sparseSet _ _ _ (h _) | exact h _ | exact k _)
    | with_reducible apply State.Changes.modAb


end Sys2Proof.Machine
end

