-- ==== Sys2Proof/Laws/ChangesTime.lean ====
section
/-! SUPPORT. What each operation can change: timers, channels, the time base and memories. -/

namespace Sys2Proof.Machine

theorem State.modTa_changes (s : State) (f : TimerArray → TimerArray) :
    State.Changes [.ta] s (State.modTa s f) := by
  unfold State.modTa
  dsimp -zeta only [← State.set_ta_eq]
  try dsimp only
  repeat'
    first
    | with_reducible apply State.Changes.refl
    | exact rfl
    | with_reducible apply State.Changes.ta

theorem State.modTimer_changes (s : State) (n : Fin 64) (f : Timer → Timer) :
    State.Changes [.ta] s (State.modTimer s n f) := by
  unfold State.modTimer
  try dsimp only
  repeat'
    first
    | with_reducible apply State.Changes.refl
    | exact rfl
    | with_reducible apply State.Changes.step (k := State.modTa_changes _ _)

theorem State.modAc_changes (s : State) (k : Fin 32) (f : Compare → Compare) :
    State.Changes [.ta] s (State.modAc s k f) := by
  unfold State.modAc
  try dsimp only
  repeat'
    first
    | with_reducible apply State.Changes.refl
    | exact rfl
    | with_reducible apply State.Changes.step (k := State.modTa_changes _ _)

theorem State.modCp_changes (s : State) (k : Fin 16) (f : CapPair → CapPair) :
    State.Changes [.ta] s (State.modCp s k f) := by
  unfold State.modCp
  try dsimp only
  repeat'
    first
    | with_reducible apply State.Changes.refl
    | exact rfl
    | with_reducible apply State.Changes.step (k := State.modTa_changes _ _)

theorem State.modWd_changes (s : State) (w : Fin 2) (f : Watchdog → Watchdog) :
    State.Changes [.ta] s (State.modWd s w f) := by
  unfold State.modWd
  try dsimp only
  repeat'
    first
    | with_reducible apply State.Changes.refl
    | exact rfl
    | with_reducible apply State.Changes.step (k := State.modTa_changes _ _)

theorem State.refreeze_changes (s : State) :
    State.Changes [.ta] s (State.refreeze s) := by
  unfold State.refreeze
  try dsimp only
  repeat'
    first
    | with_reducible apply State.Changes.refl
    | exact rfl
    | with_reducible apply State.Changes.step (k := State.modTa_changes _ _)

theorem State.taTick_changes (s : State) (n : Fin 64) :
    State.Changes [.sn, .ta] s (State.taTick s n) := by
  unfold State.taTick
  try dsimp only
  repeat'
    first
    | with_reducible apply State.Changes.refl
    | exact rfl
    | refine State.Changes.snd (f := State.takeHw _ _) (by with_reducible assumption) (State.takeHw_changes _ _) ?_ ?_
    | with_reducible apply State.Changes.step (k := State.modTimer_changes _ _ _)
    | split

theorem State.taAction_changes (s0 : State) (a : Nat) (n : Fin 64) :
    State.Changes [.sn, .ta] s0 (State.taAction s0 a n) := by
  unfold State.taAction
  try dsimp only
  repeat'
    first
    | with_reducible apply State.Changes.refl
    | exact rfl
    | with_reducible apply State.Changes.step (k := State.modTimer_changes _ _ _)
    | with_reducible apply State.Changes.step (k := State.refreeze_changes _)
    | with_reducible apply State.Changes.step (k := State.taTick_changes _ _)
    | split

theorem State.taFireCo_changes (s : State) (n : Fin 64) (hop : Nat) (late : Bool) :
    State.Changes [.sn, .ta] s (State.taFireCo s n hop late) := by
  unfold State.taFireCo
  try dsimp only
  repeat'
    first
    | with_reducible apply State.Changes.refl
    | exact rfl
    | with_reducible apply State.Changes.step (k := State.taAction_changes _ _ _)
    | with_reducible apply State.Changes.step (k := State.fireHop_changes _ _ _ _)
    | with_reducible apply State.Changes.step (k := State.modTimer_changes _ _ _)
    | split

theorem State.taCarry_changes (s : State) (n : Fin 64) :
    State.Changes [.sn, .ta] s (State.taCarry s n) := by
  unfold State.taCarry
  try dsimp only
  repeat'
    first
    | with_reducible apply State.Changes.refl
    | exact rfl
    | with_reducible apply State.Changes.step (k := State.taFireCo_changes _ _ _ _)
    | split

theorem State.taMatch_changes (s : State) (n : Fin 64) :
    State.Changes [.sn, .ta] s (State.taMatch s n) := by
  unfold State.taMatch
  try dsimp only
  repeat'
    first
    | with_reducible apply State.Changes.refl
    | exact rfl
    | with_reducible apply State.Changes.step (k := State.taAction_changes _ _ _)
    | with_reducible apply State.Changes.step (k := State.fireHop_changes _ _ _ _)
    | with_reducible apply State.Changes.step (k := State.modTimer_changes _ _ _)
    | split

theorem State.taCtrl_changes (s0 : State) (n : Fin 64) (v : W32) :
    State.Changes [.sn, .ta] s0 (State.taCtrl s0 n v) := by
  unfold State.taCtrl
  try dsimp only
  repeat'
    first
    | with_reducible apply State.Changes.refl
    | exact rfl
    | with_reducible apply State.Changes.step (k := State.refreeze_changes _)
    | with_reducible apply State.Changes.step (k := State.modTimer_changes _ _ _)
    | with_reducible apply State.Changes.step (k := State.taTick_changes _ _)
    | split

theorem State.taLim_changes (s0 : State) (n : Fin 64) (v : W32) :
    State.Changes [.sn, .ta] s0 (State.taLim s0 n v) := by
  unfold State.taLim
  try dsimp only
  repeat'
    first
    | with_reducible apply State.Changes.refl
    | exact rfl
    | with_reducible apply State.Changes.step (k := State.taFireCo_changes _ _ _ _)
    | with_reducible apply State.Changes.step (k := State.modTimer_changes _ _ _)
    | with_reducible apply State.Changes.step (k := State.taTick_changes _ _)
    | split

theorem State.taCnt_changes (s : State) (n : Fin 64) (v : W32) :
    State.Changes [.ta] s (State.taCnt s n v) := by
  unfold State.taCnt
  try dsimp only
  repeat'
    first
    | with_reducible apply State.Changes.refl
    | exact rfl
    | with_reducible apply State.Changes.step (k := State.modTimer_changes _ _ _)

theorem State.taCfg_changes (s : State) (n : Fin 64) (v : W32) :
    State.Changes [.ta] s (State.taCfg s n v) := by
  unfold State.taCfg
  try dsimp only
  repeat'
    first
    | with_reducible apply State.Changes.refl
    | exact rfl
    | with_reducible apply State.Changes.step (k := State.refreeze_changes _)
    | with_reducible apply State.Changes.step (k := State.modTimer_changes _ _ _)

theorem State.taCntRead_changes (s : State) (w : Master) (n : Fin 64) :
    State.Changes [.ta] s (State.taCntRead s w n).2 := by
  unfold State.taCntRead
  try dsimp only
  repeat'
    first
    | with_reducible apply State.Changes.refl
    | exact rfl
    | dsimp only
    | with_reducible apply State.Changes.step (k := State.modTa_changes _ _)
    | split

theorem State.taSnap_changes (s : State) :
    State.Changes [.ta] s (State.taSnap s) := by
  unfold State.taSnap
  try dsimp only
  repeat'
    first
    | with_reducible apply State.Changes.refl
    | exact rfl
    | with_reducible apply State.Changes.step (k := State.modTa_changes _ _)
    | split

theorem State.stagGo_changes (s : State) (mask : Byte) :
    State.Changes [.ta] s (State.stagGo s mask) := by
  unfold State.stagGo
  try dsimp only
  repeat'
    first
    | with_reducible apply State.Changes.refl
    | exact rfl
    | with_reducible apply State.Changes.step (k := State.modTa_changes _ _)

theorem State.stagCancel_changes (s : State) :
    State.Changes [.ta] s (State.stagCancel s) := by
  unfold State.stagCancel
  try dsimp only
  repeat'
    first
    | with_reducible apply State.Changes.refl
    | exact rfl
    | with_reducible apply State.Changes.step (k := State.modTa_changes _ _)

theorem State.stagCtrl_changes (s : State) (v : W32) :
    State.Changes [.ta] s (State.stagCtrl s v) := by
  unfold State.stagCtrl
  try dsimp only
  repeat'
    first
    | with_reducible apply State.Changes.refl
    | exact rfl
    | with_reducible apply State.Changes.step (k := State.stagCancel_changes _)
    | with_reducible apply State.Changes.step (k := State.stagGo_changes _ _)
    | split

theorem State.stagStart_changes (s : State) :
    State.Changes [.ta] s (State.stagStart s) := by
  unfold State.stagStart
  try dsimp only
  repeat'
    first
    | with_reducible apply State.Changes.refl
    | exact rfl
    | with_reducible apply State.Changes.step (k := State.modTa_changes _ _)
    | with_reducible apply State.Changes.step (k := State.refreeze_changes _)
    | split

theorem State.acArm_changes (s : State) (k : Fin 32) :
    State.Changes [.ta] s (State.acArm s k) := by
  unfold State.acArm
  try dsimp only
  repeat'
    first
    | with_reducible apply State.Changes.refl
    | exact rfl
    | with_reducible apply State.Changes.step (k := State.modAc_changes _ _ _)

theorem State.acCtrl_changes (s : State) (k : Fin 32) (v : W32) :
    State.Changes [.ta] s (State.acCtrl s k v) := by
  unfold State.acCtrl
  try dsimp only
  repeat'
    first
    | with_reducible apply State.Changes.refl
    | exact rfl
    | with_reducible apply State.Changes.step (k := State.modAc_changes _ _ _)
    | with_reducible apply State.Changes.step (k := State.acArm_changes _ _)
    | split

theorem State.acCfg_changes (s : State) (k : Fin 32) (v : W32) :
    State.Changes [.ta] s (State.acCfg s k v) := by
  unfold State.acCfg
  try dsimp only
  repeat'
    first
    | with_reducible apply State.Changes.refl
    | exact rfl
    | with_reducible apply State.Changes.step (k := State.modAc_changes _ _ _)

theorem State.acReg_changes (s : State) (k : Fin 32) (f : Compare → Compare) :
    State.Changes [.ta] s (State.acReg s k f) := by
  unfold State.acReg
  try dsimp only
  repeat'
    first
    | with_reducible apply State.Changes.refl
    | exact rfl
    | with_reducible apply State.Changes.step (k := State.modAc_changes _ _ _)

theorem State.acFire_changes (s : State) (k : Fin 32) :
    State.Changes [.sn, .ta] s (State.acFire s k) := by
  unfold State.acFire
  try dsimp only
  repeat'
    first
    | with_reducible apply State.Changes.refl
    | exact rfl
    | with_reducible apply State.Changes.step (k := State.taAction_changes _ _ _)
    | with_reducible apply State.Changes.step (k := State.fireHop_changes _ _ _ _)
    | with_reducible apply State.Changes.step (k := State.acArm_changes _ _)
    | with_reducible apply State.Changes.step (k := State.modAc_changes _ _ _)
    | split

theorem State.acsPassed_changes (s : State) (d : Fin 8) (a : W64) (b : W64) :
    State.Changes [.ta] s (State.acsPassed s d a b) := by
  unfold State.acsPassed
  try dsimp only
  repeat'
    first
    | with_reducible apply State.Changes.refl
    | exact rfl
    | with_reducible apply State.Changes.step (k := State.modTa_changes _ _)

theorem State.cpUpdate_changes (s : State) (k : Fin 16) :
    State.Changes [.sn, .ta] s (State.cpUpdate s k) := by
  unfold State.cpUpdate
  try dsimp only
  repeat'
    first
    | with_reducible apply State.Changes.refl
    | exact rfl
    | with_reducible apply State.Changes.step (k := State.fireHop_changes _ _ _ _)
    | with_reducible apply State.Changes.step (k := State.modCp_changes _ _ _)
    | split

theorem State.cpCfg_changes (s : State) (k : Fin 16) (v : W32) :
    State.Changes [.ta] s (State.cpCfg s k v) := by
  unfold State.cpCfg
  try dsimp only
  repeat'
    first
    | with_reducible apply State.Changes.refl
    | exact rfl
    | with_reducible apply State.Changes.step (k := State.modCp_changes _ _ _)

theorem State.wdCfg_changes (s : State) (w : Fin 2) (v : W32) :
    State.Changes [.ta] s (State.wdCfg s w v) := by
  unfold State.wdCfg
  try dsimp only
  repeat'
    first
    | with_reducible apply State.Changes.refl
    | exact rfl
    | with_reducible apply State.Changes.step (k := State.modWd_changes _ _ _)
    | with_reducible apply State.Changes.step (k := State.refreeze_changes _)

theorem State.wdReg_changes (s : State) (w : Fin 2) (f : Watchdog → Watchdog) :
    State.Changes [.ta] s (State.wdReg s w f) := by
  unfold State.wdReg
  try dsimp only
  repeat'
    first
    | with_reducible apply State.Changes.refl
    | exact rfl
    | with_reducible apply State.Changes.step (k := State.modWd_changes _ _ _)

theorem State.wdDecrement_changes (s : State) (w : Fin 2) :
    State.Changes [.ta] s (State.wdDecrement s w) := by
  unfold State.wdDecrement
  try dsimp only
  repeat'
    first
    | with_reducible apply State.Changes.refl
    | exact rfl
    | with_reducible apply State.Changes.step (k := State.modWd_changes _ _ _)
    | split

theorem State.taStatW_changes (s : State) (n : Fin 64) (v : W32) :
    State.Changes [.ta] s (State.taStatW s n v) := by
  unfold State.taStatW
  try dsimp only
  repeat'
    first
    | with_reducible apply State.Changes.refl
    | exact rfl
    | with_reducible apply State.Changes.step (k := State.modTimer_changes _ _ _)

theorem State.acStatW_changes (s : State) (k : Fin 32) (v : W32) :
    State.Changes [.ta] s (State.acStatW s k v) := by
  unfold State.acStatW
  try dsimp only
  repeat'
    first
    | with_reducible apply State.Changes.refl
    | exact rfl
    | with_reducible apply State.Changes.step (k := State.modAc_changes _ _ _)

theorem State.cpStatW_changes (s : State) (k : Fin 16) (v : W32) :
    State.Changes [.ta] s (State.cpStatW s k v) := by
  unfold State.cpStatW
  try dsimp only
  repeat'
    first
    | with_reducible apply State.Changes.refl
    | exact rfl
    | with_reducible apply State.Changes.step (k := State.modCp_changes _ _ _)

theorem State.wdStatW_changes (s : State) (w : Fin 2) (v : W32) :
    State.Changes [.ta] s (State.wdStatW s w v) := by
  unfold State.wdStatW
  try dsimp only
  repeat'
    first
    | with_reducible apply State.Changes.refl
    | exact rfl
    | with_reducible apply State.Changes.step (k := State.modWd_changes _ _ _)

theorem State.descCheck_changes (s : State) (req : Nat) (c : Fin 256) :
    State.Changes [.mem] s (State.descCheck s req c).2 :=
  State.Changes.foldl_snd (.refl _ _) fun z _ => (State.memRead_changes z.2 req _ 8).mono rfl

theorem State.chStart_changes (s : State) (req : Nat) (c : Fin 256) :
    State.Changes [.power, .chans, .seqs, .pool, .mem, .sn, .eic, .dbg] s (State.chStart s req c) := by
  unfold State.chStart
  split
  · exact (State.modChan_changes _ _ _).mono rfl
  · split
    rename_i ok s1 e1
    have h1 : State.Changes [.power, .chans, .seqs, .pool, .mem, .sn, .eic, .dbg] s s1 := .snd e1 (State.descCheck_changes s req c) rfl (.refl _ _)
    extract_lets refuse w0 pc tvec l e f a
    have hr : ∀ z n, State.Changes [.power, .chans, .seqs, .pool, .mem, .sn, .eic, .dbg] s z → State.Changes [.power, .chans, .seqs, .pool, .mem, .sn, .eic, .dbg] s (refuse z n) := fun z n h =>
      h.step (State.modChan_changes _ _ _) rfl
    clear_value refuse w0 pc tvec l e f a
    split
    · exact hr _ _ h1
    · split
      · exact hr _ _ h1
      · split
        · exact hr _ _ h1
        · rename_i i p _
          dsimp only
          refine State.Changes.step ?_ (State.eicSettle_changes _) rfl
          refine State.Changes.step ?_ (State.makeReady_changes _ _) rfl
          refine State.Changes.step ?_ (State.clearInputs_changes _ _) rfl
          refine State.Changes.step ?_ (State.modChan_changes _ _ _) rfl
          refine State.Changes.step ?_ (State.ctxWrite_changes _ _ _ _) rfl
          refine State.Changes.step ?_ (State.ctxWrite_changes _ _ _ _) rfl
          exact h1.pool rfl

theorem State.ignored_changes (s : State) (c : Fin 256) :
    State.Changes [.chans] s (State.ignored s c) := by
  unfold State.ignored
  try dsimp only
  repeat'
    first
    | with_reducible apply State.Changes.refl
    | exact rfl
    | with_reducible apply State.Changes.step (k := State.modChan_changes _ _ _)

theorem State.chStop_changes (s : State) (c : Fin 256) (abort : Bool) :
    State.Changes [.power, .chans, .seqs, .mem, .eic, .dbg] s (State.chStop s c abort) := by
  unfold State.chStop
  try dsimp only
  repeat'
    first
    | with_reducible apply State.Changes.refl
    | exact rfl
    | with_reducible apply State.Changes.step (k := State.ignored_changes _ _)
    | with_reducible apply State.Changes.step (k := State.stopChan_changes _ _ _)
    | with_reducible apply State.Changes.step (k := State.reqSwitch_changes _ _)
    | with_reducible apply State.Changes.step (k := State.modChan_changes _ _ _)
    | split

theorem State.chAbort_changes (s : State) (c : Fin 256) :
    State.Changes [.chans, .seqs] s (State.chAbort s c) := by
  unfold State.chAbort
  try dsimp only
  repeat'
    first
    | with_reducible apply State.Changes.refl
    | exact rfl
    | with_reducible apply State.Changes.step (k := State.ignored_changes _ _)
    | with_reducible apply State.Changes.step (k := State.modChan_changes _ _ _)
    | with_reducible apply State.Changes.step (k := State.reqSwitch_changes _ _)
    | split

theorem State.chResume_changes (s : State) (req : Nat) (c : Fin 256) :
    State.Changes [.power, .chans, .seqs, .mem, .eic, .dbg] s (State.chResume s req c) := by
  unfold State.chResume
  try dsimp only
  repeat'
    first
    | with_reducible apply State.Changes.refl
    | exact rfl
    | with_reducible apply State.Changes.step (k := State.ignored_changes _ _)
    | with_reducible apply State.Changes.step (k := State.modChan_changes _ _ _)
    | with_reducible apply State.Changes.step (k := State.resume_changes _ _ _)
    | split

theorem State.seqAbandon_changes (s : State) (n : Fin 16) :
    State.Changes [.power, .seqs, .eic, .dbg] s (State.seqAbandon s n) := by
  unfold State.seqAbandon
  try dsimp only
  repeat'
    first
    | with_reducible apply State.Changes.refl
    | exact rfl
    | with_reducible apply State.Changes.step (k := State.seqFreed_changes _ _)
    | with_reducible apply State.Changes.step (k := State.modSeq_changes _ _ _)
    | split

theorem State.chDiscard_changes (s : State) (c : Fin 256) :
    State.Changes [.power, .chans, .seqs, .pool, .mem, .eic, .dbg] s (State.chDiscard s c) := by
  unfold State.chDiscard
  dsimp -zeta only [← State.set_pool_eq]
  try dsimp only
  repeat'
    first
    | with_reducible apply State.Changes.refl
    | assumption
    | exact rfl
    | dsimp only
    | with_reducible apply State.Changes.foldl
    | with_reducible apply State.Changes.pool
    | with_reducible apply State.Changes.step (k := State.ignored_changes _ _)
    | with_reducible apply State.Changes.step (k := State.ctxWrite_changes _ _ _ _)
    | with_reducible apply State.Changes.step (k := State.modChan_changes _ _ _)
    | with_reducible apply State.Changes.step (k := State.eicSettle_changes _)
    | with_reducible apply State.Changes.step (k := State.dropFown_changes _ _)
    | with_reducible apply State.Changes.step (k := State.seqAbandon_changes _ _)
    | intro _
    | split

theorem State.chFlush_changes (s : State) (c : Fin 256) :
    State.Changes [.chans] s (State.chFlush s c) := by
  unfold State.chFlush
  try dsimp only
  repeat'
    first
    | with_reducible apply State.Changes.refl
    | exact rfl
    | with_reducible apply State.Changes.step (k := State.ignored_changes _ _)
    | with_reducible apply State.Changes.step (k := State.modChan_changes _ _ _)
    | split

theorem State.chNote_changes (s : State) (c : Fin 256) :
    State.Changes [.chans] s (State.chNote s c) := by
  unfold State.chNote
  try dsimp only
  repeat'
    first
    | with_reducible apply State.Changes.refl
    | exact rfl
    | with_reducible apply State.Changes.step (k := State.modChan_changes _ _ _)

theorem State.chCtrl_changes (s : State) (req : Nat) (c : Fin 256) (v : W32) :
    State.Changes [.power, .chans, .seqs, .pool, .mem, .sn, .eic, .dbg] s (State.chCtrl s req c v) := by
  unfold State.chCtrl
  try dsimp only
  repeat'
    first
    | with_reducible apply State.Changes.refl
    | exact rfl
    | with_reducible apply State.Changes.step (k := State.chNote_changes _ _)
    | with_reducible apply State.Changes.step (k := State.chResume_changes _ _ _)
    | with_reducible apply State.Changes.step (k := State.chStart_changes _ _ _)
    | with_reducible apply State.Changes.step (k := State.chFlush_changes _ _)
    | with_reducible apply State.Changes.step (k := State.chDiscard_changes _ _)
    | with_reducible apply State.Changes.step (k := State.chAbort_changes _ _)
    | with_reducible apply State.Changes.step (k := State.chStop_changes _ _ _)
    | split

theorem State.chWake_changes (s : State) (c : Fin 256) :
    State.Changes [.chans] s (State.chWake s c) := by
  unfold State.chWake
  try dsimp only
  repeat'
    first
    | with_reducible apply State.Changes.refl
    | exact rfl
    | with_reducible apply State.Changes.step (k := State.makeReady_changes _ _)
    | with_reducible apply State.Changes.step (k := State.modChan_changes _ _ _)
    | split

theorem State.modMb_changes (s : State) (c : Fin 256) (m : Fin 4) (f : Mailbox → Mailbox) :
    State.Changes [.chans] s (State.modMb s c m f) := by
  unfold State.modMb
  try dsimp only
  repeat'
    first
    | with_reducible apply State.Changes.refl
    | exact rfl
    | with_reducible apply State.Changes.step (k := State.modChan_changes _ _ _)

theorem State.mbResult_changes (s : State) (c : Fin 256) (m : Fin 4) (r : PostRes) :
    State.Changes [.chans] s (State.mbResult s c m r) := by
  unfold State.mbResult
  try dsimp only
  repeat'
    first
    | with_reducible apply State.Changes.refl
    | exact rfl
    | with_reducible apply State.Changes.step (k := State.modMb_changes _ _ _ _)

theorem State.mbAccept_changes (s : State) (c : Fin 256) (m : Fin 4) (e : MbEntry) :
    State.Changes [.chans] s (State.mbAccept s c m e) := by
  unfold State.mbAccept
  try dsimp only
  repeat'
    first
    | with_reducible apply State.Changes.refl
    | exact rfl
    | with_reducible apply State.Changes.step (k := State.modChan_changes _ _ _)
    | with_reducible apply State.Changes.step (k := State.modMb_changes _ _ _ _)
    | with_reducible apply State.Changes.step (k := State.mbResult_changes _ _ _ _)

theorem State.postPlain_changes (s : State) (c : Fin 256) (m : Fin 4) (data : W64) :
    State.Changes [.chans] s (State.postPlain s c m data).1 := by
  unfold State.postPlain
  try dsimp only
  repeat'
    first
    | with_reducible apply State.Changes.refl
    | exact rfl
    | dsimp only
    | with_reducible apply State.Changes.step (k := State.mbAccept_changes _ _ _ _)
    | with_reducible apply State.Changes.step (k := State.mbResult_changes _ _ _ _)
    | split

theorem State.postStamped_changes (s : State) (c : Fin 256) (m : Fin 4) (data : W64) (time : W64) :
    State.Changes [.chans, .seqs] s (State.postStamped s c m data time).1 := by
  unfold State.postStamped
  try dsimp only
  repeat'
    first
    | with_reducible apply State.Changes.refl
    | exact rfl
    | dsimp only
    | with_reducible apply State.Changes.step (k := State.mbAccept_changes _ _ _ _)
    | with_reducible apply State.Changes.step (k := State.breach_changes _ _ _)
    | with_reducible apply State.Changes.step (k := State.mbResult_changes _ _ _ _)
    | split

theorem State.post_changes (s : State) (w : Master) (c : Fin 256) (m : Fin 4) :
    State.Changes [.chans, .posts, .seqs] s (State.post s w c m) := by
  unfold State.post
  dsimp -zeta only [← State.set_posts_eq]
  try dsimp only
  repeat'
    first
    | with_reducible apply State.Changes.refl
    | exact rfl
    | with_reducible apply State.Changes.posts
    | with_reducible apply State.Changes.step (k := State.postPlain_changes _ _ _ _)
    | with_reducible apply State.Changes.step (k := State.postStamped_changes _ _ _ _ _)
    | split

theorem State.entryIn_changes (s : State) (c : Fin 256) (m : Fin 4) :
    State.Changes [.chans] s (State.entryIn s c m) := by
  unfold State.entryIn
  try dsimp only
  repeat'
    first
    | with_reducible apply State.Changes.refl
    | exact rfl
    | with_reducible apply State.Changes.step (k := State.modMb_changes _ _ _ _)

theorem State.chStatW_changes (s : State) (c : Fin 256) (v : W32) :
    State.Changes [.chans] s (State.chStatW s c v) := by
  unfold State.chStatW
  try dsimp only
  repeat'
    first
    | with_reducible apply State.Changes.refl
    | exact rfl
    | with_reducible apply State.Changes.step (k := State.modChan_changes _ _ _)

theorem State.chMbxW_changes (s : State) (c : Fin 256) (v : W32) :
    State.Changes [.chans] s (State.chMbxW s c v) := by
  unfold State.chMbxW
  try dsimp only
  repeat'
    first
    | with_reducible apply State.Changes.refl
    | exact rfl
    | with_reducible apply State.Changes.step (k := State.modChan_changes _ _ _)

theorem State.modBeryl_changes (s : State) (f : Beryl → Beryl) :
    State.Changes [.beryl] s (State.modBeryl s f) := by
  unfold State.modBeryl
  dsimp -zeta only [← State.set_beryl_eq]
  try dsimp only
  repeat'
    first
    | with_reducible apply State.Changes.refl
    | exact rfl
    | with_reducible apply State.Changes.beryl

theorem State.modDom_changes (s : State) (n : Fin 8) (f : Domain → Domain) :
    State.Changes [.beryl] s (State.modDom s n f) := by
  unfold State.modDom
  try dsimp only
  repeat'
    first
    | with_reducible apply State.Changes.refl
    | exact rfl
    | with_reducible apply State.Changes.step (k := State.modBeryl_changes _ _)

theorem State.berylLost_changes (s : State) :
    State.Changes [.beryl, .lanes, .chans, .seqs, .engines, .gds, .abs_] s (State.berylLost s) := by
  unfold State.berylLost
  extract_lets s1 s2
  have h1 : State.Changes [.beryl, .lanes, .chans, .seqs, .engines, .gds, .abs_] s s1 :=
    ((State.gdSettled_changes s).mono rfl).step (State.abSettled_changes _) rfl
      |>.step (State.noteQueues_changes _) rfl |>.step (State.modBeryl_changes _ _) rfl
  clear_value s1
  have h2 : State.Changes [.beryl, .lanes, .chans, .seqs, .engines, .gds, .abs_] s s2 := by
    have k := ((h1.lanes rfl (v := s1.lanes.map fun l : Lane => { l with held := true })).gds rfl (v := s1.gds.map Guardian.hold) (fun x h => by simpa [State.set_lanes] using h)).abs_ rfl
      (v := s1.abs_.map AbCell.hold) (fun x h => by simpa [State.set_gds, State.set_lanes] using h)
    exact k
  clear_value s2
  refine .foldl (.foldl h2 fun z e => (State.peUnheld_changes z e).mono rfl) fun z c => ?_
  dsimp only
  split
  · exact (State.breach_changes _ _ _).mono rfl
  · exact .refl _ _

theorem State.brefLevel_changes (s : State) (present : Bool) :
    State.Changes [.beryl, .lanes, .chans, .seqs, .engines, .gds, .abs_] s (State.brefLevel s present) := by
  unfold State.brefLevel
  try dsimp only
  repeat'
    first
    | with_reducible apply State.Changes.refl
    | exact rfl
    | with_reducible apply State.Changes.step (k := State.berylLost_changes _)
    | with_reducible apply State.Changes.step (k := State.modBeryl_changes _ _)
    | split

theorem State.enterRun_changes (s : State) :
    State.Changes [.beryl, .lanes, .power, .chans, .seqs, .gds, .abs_, .ta, .vault] s (State.enterRun s) := by
  unfold State.enterRun
  extract_lets _ _ s0 s1 s2 s3 s4
  have h0 : State.Changes [.beryl, .lanes, .power, .chans, .seqs, .gds, .abs_, .ta, .vault] s s0 :=
    ((State.Changes.refl [.beryl, .lanes, .power, .chans, .seqs, .gds, .abs_, .ta, .vault] s).power rfl (v := { s.power with masterWas := none })).vault rfl
      (v := { s.vault with inputs := s.vault.inputs.map fun x : TamperIn => { x with since := none } })
  clear_value s0
  have h1 : State.Changes [.beryl, .lanes, .power, .chans, .seqs, .gds, .abs_, .ta, .vault] s s1 :=
    (h0.step (State.modBeryl_changes _ _) rfl).step (State.modTa_changes _ _) rfl
  clear_value s1
  have h2 : State.Changes [.beryl, .lanes, .power, .chans, .seqs, .gds, .abs_, .ta, .vault] s s2 := h1.lanes rfl
  clear_value s2
  have h3 : State.Changes [.beryl, .lanes, .power, .chans, .seqs, .gds, .abs_, .ta, .vault] s s3 := by
    refine .foldl h2 fun z n => ?_
    split
    · exact (State.laneReturn_changes _ _ _).mono rfl
    · exact .refl _ _
  clear_value s3
  have h4 : State.Changes [.beryl, .lanes, .power, .chans, .seqs, .gds, .abs_, .ta, .vault] s s4 :=
    (h3.step (State.gdReturn_changes _ _) rfl).step (State.gdReturn_changes _ _) rfl
  clear_value s4
  have k := h4.abs_ rfl (v := s4.abs_.map (AbCell.return_ s4.now)) (fun x h => by simpa using h)
  exact k

theorem State.berylLock_changes (s : State) :
    State.Changes [.beryl, .lanes, .power, .chans, .seqs, .gds, .abs_, .ta, .vault] s (State.berylLock s) := by
  unfold State.berylLock
  try dsimp only
  repeat'
    first
    | with_reducible apply State.Changes.refl
    | exact rfl
    | with_reducible apply State.Changes.step (k := State.enterRun_changes _)
    | with_reducible apply State.Changes.step (k := State.modBeryl_changes _ _)
    | split

theorem State.td0Wrap_changes (s : State) :
    State.Changes [.beryl] s (State.td0Wrap s) := by
  unfold State.td0Wrap
  try dsimp only
  repeat'
    first
    | with_reducible apply State.Changes.refl
    | exact rfl
    | with_reducible apply State.Changes.step (k := State.advance_changes _ _)
    | split

theorem State.taLoaded_changes (s : State) (jump : W64) :
    State.Changes [.ta] s (State.taLoaded s jump) := by
  unfold State.taLoaded
  try dsimp only
  repeat'
    first
    | with_reducible apply State.Changes.refl
    | exact rfl
    | with_reducible apply State.Changes.step (k := State.modTa_changes _ _)

theorem State.btLoad_changes (s : State) :
    State.Changes [.beryl, .lanes, .xf, .key, .power, .engines, .gds, .abs_, .sn, .ta, .dbg] s (State.btLoad s) := by
  unfold State.btLoad
  split
  · extract_lets b jump s1 s2 _ _ _ _ s3 s4
    have h1 : State.Changes [.beryl, .lanes, .xf, .key, .power, .engines, .gds, .abs_, .sn, .ta, .dbg] s s1 :=
      (State.Changes.foldl ((State.noteQueues_changes s).mono rfl) fun z e => (State.noteMark_changes z e).mono rfl)
        |>.step (State.modBeryl_changes _ _) rfl
    clear_value s1
    have h2 : State.Changes [.beryl, .lanes, .xf, .key, .power, .engines, .gds, .abs_, .sn, .ta, .dbg] s s2 := h1.step (State.lanesAfterLoad_changes _ _ _) rfl
    clear_value s2
    have h3 : State.Changes [.beryl, .lanes, .xf, .key, .power, .engines, .gds, .abs_, .sn, .ta, .dbg] s s3 :=
      ((((h2.power rfl (v := { s2.power with sokSince := s2.power.sokSince + jump })).key rfl
        (v := { s2.key with since := s2.key.since + jump })).gds rfl (v := s2.gds.map Guardian.loaded)
        fun x h => by simpa [State.set_key, State.set_power] using h).dbg rfl (v := { s2.dbg with freshNs := none })).xf rfl
    clear_value s3
    have h4 : State.Changes [.beryl, .lanes, .xf, .key, .power, .engines, .gds, .abs_, .sn, .ta, .dbg] s s4 := (h3.step (State.taLoaded_changes _ _) rfl).step (State.modSn_changes _ _ fun _ h => h) rfl
    clear_value s4
    exact .foldl h4 fun z d => ((State.gdsStep_changes z d _ _).mono rfl).step (State.acsPassed_changes _ _ _ _) rfl
  · exact .refl _ _

theorem State.btStart_changes (s : State) :
    State.Changes [.beryl, .lanes, .power, .chans, .seqs, .gds, .abs_, .ta, .vault] s (State.btStart s) := by
  unfold State.btStart
  try dsimp only
  repeat'
    first
    | with_reducible apply State.Changes.refl
    | exact rfl
    | with_reducible apply State.Changes.step (k := State.enterRun_changes _)
    | split

theorem State.btRestart_changes (s : State) :
    State.Changes [.beryl] s (State.btRestart s) := by
  unfold State.btRestart
  try dsimp only
  repeat'
    first
    | with_reducible apply State.Changes.refl
    | exact rfl
    | with_reducible apply State.Changes.step (k := State.modBeryl_changes _ _)
    | split

theorem State.btSnap_changes (s : State) :
    State.Changes [.beryl] s (State.btSnap s) := by
  unfold State.btSnap
  try dsimp only
  repeat'
    first
    | with_reducible apply State.Changes.refl
    | exact rfl
    | with_reducible apply State.Changes.step (k := State.modBeryl_changes _ _)

theorem State.btCtrl_changes (s : State) (v : W32) :
    State.Changes [.beryl, .lanes, .xf, .key, .power, .chans, .seqs, .engines, .gds, .abs_, .sn, .ta, .vault, .dbg] s (State.btCtrl s v) := by
  unfold State.btCtrl
  try dsimp only
  repeat'
    first
    | with_reducible apply State.Changes.refl
    | exact rfl
    | with_reducible apply State.Changes.step (k := State.btSnap_changes _)
    | with_reducible apply State.Changes.step (k := State.btRestart_changes _)
    | with_reducible apply State.Changes.step (k := State.btStart_changes _)
    | with_reducible apply State.Changes.step (k := State.btLoad_changes _)
    | split

theorem State.nowLoRead_changes (s : State) (w : Master) (n : Fin 8) :
    State.Changes [.beryl] s (State.nowLoRead s w n).2 := by
  unfold State.nowLoRead
  try dsimp only
  repeat'
    first
    | with_reducible apply State.Changes.refl
    | exact rfl
    | with_reducible apply State.Changes.step (k := State.modBeryl_changes _ _)
    | split

theorem State.conversion_changes (s : State) (v : W32) :
    State.Changes [.beryl] s (State.conversion s v) := by
  unfold State.conversion
  try dsimp only
  repeat'
    first
    | with_reducible apply State.Changes.refl
    | exact rfl
    | with_reducible apply State.Changes.step (k := State.modBeryl_changes _ _)

theorem State.slewEndBy_changes (s : State) (n : Fin 8) (g : Nat) :
    State.Changes [.beryl, .chans, .seqs] s (State.slewEndBy s n g) := by
  unfold State.slewEndBy
  try dsimp only
  repeat'
    first
    | with_reducible apply State.Changes.refl
    | exact rfl
    | with_reducible apply State.Changes.step (k := State.breachOf_changes _ _ _)
    | with_reducible apply State.Changes.step (k := State.modDom_changes _ _ _)
    | split

theorem State.slewEnd_changes (s : State) (n : Fin 8) :
    State.Changes [.beryl, .chans, .seqs] s (State.slewEnd s n) := by
  unfold State.slewEnd
  try dsimp only
  repeat'
    first
    | with_reducible apply State.Changes.refl
    | exact rfl
    | with_reducible apply State.Changes.step (k := State.slewEndBy_changes _ _ _)
    | split

theorem State.tdOne_changes (s : State) (n : Fin 8) (p : PendCmd) :
    State.Changes [.beryl, .lanes, .chans, .seqs, .gds, .ta] s (State.tdOne s n p) := by
  unfold State.tdOne
  try dsimp only
  repeat'
    first
    | with_reducible apply State.Changes.refl
    | exact rfl
    | with_reducible apply State.Changes.step (k := State.lanesAfterStep_changes _ _ _ _ _)
    | with_reducible apply State.Changes.step (k := State.gdsStep_changes _ _ _ _)
    | with_reducible apply State.Changes.step (k := State.acsPassed_changes _ _ _ _)
    | with_reducible apply State.Changes.step (k := State.breachOf_changes _ _ _)
    | with_reducible apply State.Changes.step (k := State.modDom_changes _ _ _)
    | split

theorem State.tdApply_changes (s : State) (n : Fin 8) :
    State.Changes [.beryl, .lanes, .chans, .seqs, .gds, .ta] s (State.tdApply s n) := by
  unfold State.tdApply
  try dsimp only
  repeat'
    first
    | with_reducible apply State.Changes.refl
    | exact rfl
    | with_reducible apply State.Changes.foldl
    | with_reducible apply State.Changes.step (k := State.slewEndBy_changes _ _ _)
    | with_reducible apply State.Changes.step (k := State.tdOne_changes _ _ _)
    | intro _
    | split

theorem State.tdSettle_changes (s : State) (n : Fin 8) :
    State.Changes [.beryl, .lanes, .chans, .seqs, .gds, .ta] s (State.tdSettle s n) := by
  unfold State.tdSettle
  try dsimp only
  repeat'
    first
    | with_reducible apply State.Changes.refl
    | exact rfl
    | with_reducible apply State.Changes.step (k := State.tdApply_changes _ _)
    | with_reducible apply State.Changes.step (k := State.slewEnd_changes _ _)

theorem State.tdCommand_changes (s : State) (w : Master) (n : Fin 8) (c : TdCode) (whenAt : Bool) :
    State.Changes [.beryl, .lanes, .chans, .seqs, .gds, .ta] s (State.tdCommand s w n c whenAt) := by
  unfold State.tdCommand
  try dsimp only
  repeat'
    first
    | with_reducible apply State.Changes.refl
    | exact rfl
    | with_reducible apply State.Changes.step (k := State.tdSettle_changes _ _)
    | with_reducible apply State.Changes.step (k := State.modDom_changes _ _ _)
    | split

theorem State.tdCancel_changes (s : State) (w : Master) (n : Fin 8) (whenAt : Bool) :
    State.Changes [.beryl, .lanes, .chans, .seqs, .gds, .ta] s (State.tdCancel s w n whenAt) := by
  unfold State.tdCancel
  try dsimp only
  repeat'
    first
    | with_reducible apply State.Changes.refl
    | exact rfl
    | with_reducible apply State.Changes.step (k := State.tdSettle_changes _ _)
    | with_reducible apply State.Changes.step (k := State.modDom_changes _ _ _)
    | split

theorem State.tdCmd_changes (s : State) (w : Master) (n : Fin 8) (v : W32) :
    State.Changes [.beryl, .lanes, .chans, .seqs, .gds, .ta] s (State.tdCmd s w n v) := by
  unfold State.tdCmd
  try dsimp only
  repeat'
    first
    | with_reducible apply State.Changes.refl
    | exact rfl
    | with_reducible apply State.Changes.step (k := State.tdSettle_changes _ _)
    | with_reducible apply State.Changes.step (k := State.modDom_changes _ _ _)
    | with_reducible apply State.Changes.step (k := State.tdCancel_changes _ _ _ _)
    | with_reducible apply State.Changes.step (k := State.tdCommand_changes _ _ _ _ _)
    | split


theorem State.bistWord_changes (s : State) (fail : Bool) :
    State.Changes [.mem] s (State.bistWord s fail) := by
  unfold State.bistWord
  extract_lets m
  split
  · split
    · exact .refl _ _
    · rename_i a _
      split
      rename_i ok m1 e1
      extract_lets m2 last
      refine (State.Changes.refl _ s).mem rfl fun h => ?_
      have h1 : m1.cells = s.mem.cells := by
        have := Mem.check_cells m 23 (a / 8)
        rw [e1] at this; exact this
      have h2 : m2.cells = s.mem.cells := by
        rw [← h1]; unfold m2; split
        · rfl
        · split <;> rfl
      exact (Memory.wf_congr h2).trans h
  · exact .refl _ _

theorem State.agWipe_changes (s : State) (last : Nat) :
    State.Changes [.seqs, .mem] s (State.agWipe s last) := by
  unfold State.agWipe
  extract_lets s1
  have h1 : State.Changes [.seqs, .mem] s s1 := (State.modMem_changes s _ fun m h => m.wipe_wf last h).mono rfl
  clear_value s1
  exact h1.seqs rfl

theorem State.agWipeDone_changes (s : State) :
    State.Changes [.mem] s (State.agWipeDone s) := by
  unfold State.agWipeDone
  try dsimp only
  repeat'
    first
    | with_reducible apply State.Changes.refl
    | exact rfl
    | with_reducible apply State.Changes.step (k := State.modMem_changes _ _ ?_)
    | (intro _ h; exact h)
    | split

theorem State.agLockSet_changes (s : State) (v : W32) :
    State.Changes [.mem] s (State.agLockSet s v) := by
  unfold State.agLockSet
  try dsimp only
  repeat'
    first
    | with_reducible apply State.Changes.refl
    | exact rfl
    | with_reducible apply State.Changes.step (k := State.modMem_changes _ _ ?_)
    | (intro _ h; exact h)

theorem State.memZero_changes (s : State) (ks : List (Fin 4)) :
    State.Changes [.chans, .mem] s (State.memZero s ks) :=
  ((State.Changes.refl [.chans, .mem] s).mem rfl (Mem.zero_wf _ _)).chans rfl
    (v := if ks.contains 2 then s.chans.map Channel.mailZero else s.chans)

theorem State.uncRearm_changes (s : State) (hw : Bool) :
    State.Changes [.mem] s (State.uncRearm s hw) := by
  unfold State.uncRearm
  try dsimp only
  repeat'
    first
    | with_reducible apply State.Changes.refl
    | exact rfl
    | with_reducible apply State.Changes.step (k := State.modMem_changes _ _ ?_)
    | (intro _ h; exact h)

theorem State.collRearm_changes (s : State) (hw : Bool) :
    State.Changes [.mem] s (State.collRearm s hw) := by
  unfold State.collRearm
  try dsimp only
  repeat'
    first
    | with_reducible apply State.Changes.refl
    | exact rfl
    | with_reducible apply State.Changes.step (k := State.modMem_changes _ _ ?_)
    | (intro _ h; exact h)

theorem State.bistStatW_changes (s : State) (v : W32) :
    State.Changes [.mem] s (State.bistStatW s v) := by
  unfold State.bistStatW
  try dsimp only
  repeat'
    first
    | with_reducible apply State.Changes.refl
    | exact rfl
    | with_reducible apply State.Changes.step (k := State.modMem_changes _ _ ?_)
    | (intro _ h; exact h)

theorem State.modDbg_changes (s : State) (f : Debug → Debug) :
    State.Changes [.dbg] s (State.modDbg s f) := by
  unfold State.modDbg
  dsimp -zeta only [← State.set_dbg_eq]
  try dsimp only
  repeat'
    first
    | with_reducible apply State.Changes.refl
    | exact rfl
    | with_reducible apply State.Changes.dbg

theorem State.modDsq_changes (s : State) (n : Fin 16) (f : DbgSeq → DbgSeq) :
    State.Changes [.dbg] s (State.modDsq s n f) := by
  unfold State.modDsq
  try dsimp only
  repeat'
    first
    | with_reducible apply State.Changes.refl
    | exact rfl
    | with_reducible apply State.Changes.step (k := State.modDbg_changes _ _)

theorem State.tracePacket_changes (s : State) (kind : Nat) (src : Nat) (payload : W32) :
    State.Changes [.dbg] s (State.tracePacket s kind src payload) := by
  unfold State.tracePacket
  try dsimp only
  repeat'
    first
    | with_reducible apply State.Changes.refl
    | exact rfl
    | with_reducible apply State.Changes.step (k := State.modDbg_changes _ _)

theorem State.stim_changes (s : State) (k : Fin 32) (v : W32) :
    State.Changes [.dbg] s (State.stim s k v) := by
  unfold State.stim
  try dsimp only
  repeat'
    first
    | with_reducible apply State.Changes.refl
    | exact rfl
    | with_reducible apply State.Changes.step (k := State.tracePacket_changes _ _ _ _)
    | split

theorem State.traceTrap_changes (s : State) (n : Fin 16) :
    State.Changes [.dbg] s (State.traceTrap s n) := by
  unfold State.traceTrap
  try dsimp only
  repeat'
    first
    | with_reducible apply State.Changes.refl
    | exact rfl
    | with_reducible apply State.Changes.step (k := State.tracePacket_changes _ _ _ _)
    | split

theorem State.traceHalt_changes (s : State) (n : Fin 16) (release : Bool) :
    State.Changes [.dbg] s (State.traceHalt s n release) := by
  unfold State.traceHalt
  try dsimp only
  repeat'
    first
    | with_reducible apply State.Changes.refl
    | exact rfl
    | with_reducible apply State.Changes.step (k := State.tracePacket_changes _ _ _ _)
    | split

theorem State.traceSwitch_changes (s : State) (n : Fin 16) (out : Option (Fin 256)) (inn : Option (Fin 256)) :
    State.Changes [.dbg] s (State.traceSwitch s n out inn) := by
  unfold State.traceSwitch
  try dsimp only
  repeat'
    first
    | with_reducible apply State.Changes.refl
    | exact rfl
    | with_reducible apply State.Changes.step (k := State.tracePacket_changes _ _ _ _)
    | split

theorem State.tracePush_changes (s : State) (v : W32) :
    State.Changes [.dbg, .free] s (State.tracePush s v) := by
  unfold State.tracePush
  try dsimp only
  repeat'
    first
    | with_reducible apply State.Changes.refl
    | exact rfl
    | with_reducible apply State.Changes.step (k := State.modDbg_changes _ _)
    | with_reducible apply State.Changes.step (k := State.draw_changes _)

theorem State.sourceChange_changes (s : State) (n : Fin 512) :
    State.Changes [.power, .eic, .dbg] s (State.sourceChange s n) := by
  unfold State.sourceChange
  try dsimp only
  repeat'
    first
    | with_reducible apply State.Changes.refl
    | exact rfl
    | with_reducible apply State.Changes.step (k := State.sample_changes _ _ _)
    | split

theorem State.haltSeq_changes (s : State) (n : Fin 16) (cause : Nat) :
    State.Changes [.seqs, .ta, .dbg] s (State.haltSeq s n cause) := by
  unfold State.haltSeq
  try dsimp only
  repeat'
    first
    | with_reducible apply State.Changes.refl
    | exact rfl
    | with_reducible apply State.Changes.step (k := State.traceHalt_changes _ _ _)
    | with_reducible apply State.Changes.step (k := State.refreeze_changes _)
    | with_reducible apply State.Changes.step (k := State.modDbg_changes _ _)
    | with_reducible apply State.Changes.step (k := State.modSeq_changes _ _ _)

theorem State.unhalt_changes (s : State) (n : Fin 16) :
    State.Changes [.power, .seqs, .ta, .eic, .dbg] s (State.unhalt s n) := by
  unfold State.unhalt
  try dsimp only
  repeat'
    first
    | with_reducible apply State.Changes.refl
    | exact rfl
    | with_reducible apply State.Changes.step (k := State.modSeq_changes _ _ _)
    | with_reducible apply State.Changes.step (k := State.modDsq_changes _ _ _)
    | with_reducible apply State.Changes.step (k := State.refreeze_changes _)
    | with_reducible apply State.Changes.step (k := State.seqRests_changes _ _)
    | with_reducible apply State.Changes.step (k := State.traceHalt_changes _ _ _)
    | split

theorem State.lateStop_changes (s : State) (c : Fin 256) :
    State.Changes [.power, .chans, .seqs, .mem, .eic, .dbg] s (State.lateStop s c) := by
  unfold State.lateStop
  try dsimp only
  repeat'
    first
    | with_reducible apply State.Changes.refl
    | exact rfl
    | with_reducible apply State.Changes.step (k := State.modChan_changes _ _ _)
    | with_reducible apply State.Changes.step (k := State.chStop_changes _ _ _)
    | split

theorem State.releaseSeq_changes (s : State) (n : Fin 16) :
    State.Changes [.power, .chans, .seqs, .mem, .ta, .eic, .dbg] s (State.releaseSeq s n) := by
  unfold State.releaseSeq
  try dsimp only
  repeat'
    first
    | with_reducible apply State.Changes.refl
    | exact rfl
    | with_reducible apply State.Changes.step (k := State.lateStop_changes _ _)
    | with_reducible apply State.Changes.step (k := State.unhalt_changes _ _)
    | split

theorem State.regrant_changes (s : State) (old : Nat) :
    State.Changes [.power, .chans, .seqs, .mem, .ta, .eic, .dbg] s (State.regrant s old) := by
  unfold State.regrant
  try dsimp only
  repeat'
    first
    | with_reducible apply State.Changes.refl
    | exact rfl
    | with_reducible apply State.Changes.foldl
    | with_reducible apply State.Changes.step (k := State.modDbg_changes _ _)
    | with_reducible apply State.Changes.step (k := State.releaseSeq_changes _ _)
    | intro _
    | split

theorem State.authRequest_changes (s : State) (v : W32) :
    State.Changes [.power, .chans, .seqs, .mem, .ta, .eic, .dbg] s (State.authRequest s v) := by
  unfold State.authRequest
  try dsimp only
  repeat'
    first
    | with_reducible apply State.Changes.refl
    | exact rfl
    | with_reducible apply State.Changes.step (k := State.modDbg_changes _ _)
    | with_reducible apply State.Changes.step (k := State.regrant_changes _ _)

theorem State.allowWrite_changes (s : State) (v : W32) :
    State.Changes [.power, .chans, .seqs, .mem, .ta, .eic, .dbg] s (State.allowWrite s v) := by
  unfold State.allowWrite
  try dsimp only
  repeat'
    first
    | with_reducible apply State.Changes.refl
    | exact rfl
    | with_reducible apply State.Changes.step (k := State.modDbg_changes _ _)
    | with_reducible apply State.Changes.step (k := State.regrant_changes _ _)
    | split


end Sys2Proof.Machine
end

