-- ==== Sys2Proof/Laws/ChangesPower.lean ====
section
/-! SUPPORT. What each operation can change: power, security and the Carnelian window. -/

namespace Sys2Proof.Machine

theorem State.modPw_changes (s : State) (f : Power → Power) :
    State.Changes [.power] s (State.modPw s f) := by
  unfold State.modPw
  dsimp -zeta only [← State.set_power_eq]
  try dsimp only
  repeat'
    first
    | with_reducible apply State.Changes.refl
    | exact rfl
    | with_reducible apply State.Changes.power

theorem State.modHalf_changes (s : State) (h : Fin 2) (f : Half → Half) :
    State.Changes [.power] s (State.modHalf s h f) := by
  unfold State.modHalf
  try dsimp only
  repeat'
    first
    | with_reducible apply State.Changes.refl
    | exact rfl
    | with_reducible apply State.Changes.step (k := State.modPw_changes _ _)

theorem State.guardRefused_changes (s : State) :
    State.Changes [.power] s (State.guardRefused s) := by
  unfold State.guardRefused
  try dsimp only
  repeat'
    first
    | with_reducible apply State.Changes.refl
    | exact rfl
    | with_reducible apply State.Changes.step (k := State.modPw_changes _ _)

theorem State.setSupply_changes (s : State) (sok : Bool) (floor : Bool) :
    State.Changes [.power] s (State.setSupply s sok floor) := by
  unfold State.setSupply
  try dsimp only
  repeat'
    first
    | with_reducible apply State.Changes.refl
    | exact rfl
    | with_reducible apply State.Changes.step (k := State.modPw_changes _ _)

theorem State.supplyLevel_changes (s : State) (v : Bool) :
    State.Changes [.power] s (State.supplyLevel s v) := by
  unfold State.supplyLevel
  try dsimp only
  repeat'
    first
    | with_reducible apply State.Changes.refl
    | exact rfl
    | with_reducible apply State.Changes.step (k := State.setSupply_changes _ _ _)
    | with_reducible apply State.Changes.step (k := State.modPw_changes _ _)
    | split

theorem State.supplyEnd_changes (s : State) :
    State.Changes [.power] s (State.supplyEnd s) := by
  unfold State.supplyEnd
  try dsimp only
  repeat'
    first
    | with_reducible apply State.Changes.refl
    | exact rfl
    | with_reducible apply State.Changes.step (k := State.setSupply_changes _ _ _)
    | split

theorem State.canaryUpdate_changes (s : State) (north : BitVec 16) (south : BitVec 16) :
    State.Changes [.power] s (State.canaryUpdate s north south) := by
  unfold State.canaryUpdate
  try dsimp only
  repeat'
    first
    | with_reducible apply State.Changes.refl
    | exact rfl
    | with_reducible apply State.Changes.step (k := State.setSupply_changes _ _ _)
    | with_reducible apply State.Changes.step (k := State.modPw_changes _ _)
    | split

theorem State.canaryMinW_changes (s : State) (v : W32) :
    State.Changes [.power] s (State.canaryMinW s v) := by
  unfold State.canaryMinW
  try dsimp only
  repeat'
    first
    | with_reducible apply State.Changes.refl
    | exact rfl
    | with_reducible apply State.Changes.step (k := State.modPw_changes _ _)

theorem State.supCfg_changes (s : State) (v : W32) :
    State.Changes [.power] s (State.supCfg s v) := by
  unfold State.supCfg
  try dsimp only
  repeat'
    first
    | with_reducible apply State.Changes.refl
    | exact rfl
    | with_reducible apply State.Changes.step (k := State.setSupply_changes _ _ _)
    | with_reducible apply State.Changes.step (k := State.modPw_changes _ _)
    | split

theorem State.settleMaster_changes (s : State) :
    State.Changes [.power] s (State.settleMaster s) := by
  unfold State.settleMaster
  try dsimp only
  repeat'
    first
    | with_reducible apply State.Changes.refl
    | exact rfl
    | with_reducible apply State.Changes.step (k := State.modPw_changes _ _)

theorem State.leaseClaim_changes (s : State) (h : Fin 2) (v : W32) :
    State.Changes [.power] s (State.leaseClaim s h v) := by
  unfold State.leaseClaim
  try dsimp only
  repeat'
    first
    | with_reducible apply State.Changes.refl
    | exact rfl
    | with_reducible apply State.Changes.step (k := State.modPw_changes _ _)
    | with_reducible apply State.Changes.step (k := State.settleMaster_changes _)
    | split

theorem State.leaseExpiry_changes (s : State) (h : Fin 2) :
    State.Changes [.power] s (State.leaseExpiry s h) := by
  unfold State.leaseExpiry
  try dsimp only
  repeat'
    first
    | with_reducible apply State.Changes.refl
    | exact rfl
    | with_reducible apply State.Changes.step (k := State.modPw_changes _ _)
    | with_reducible apply State.Changes.step (k := State.settleMaster_changes _)
    | split

theorem State.halfFaults_changes (s : State) (h : Fin 2) :
    State.Changes [.power, .chans] s (State.halfFaults s h) := by
  unfold State.halfFaults
  dsimp -zeta only [← State.set_chans_eq]
  try dsimp only
  repeat'
    first
    | with_reducible apply State.Changes.refl
    | exact rfl
    | with_reducible apply State.Changes.chans
    | with_reducible apply State.Changes.step (k := State.modHalf_changes _ _ _)
    | split

theorem State.halfReset_changes (s0 : State) (h : Fin 2) :
    State.Changes [.lanes, .seqs, .ibufs, .engines, .groups, .streams, .crcs, .bss, .lcs, .gds, .abs_, .ta, .cs, .dbg] s0 (State.halfReset s0 h) := by
  unfold State.halfReset
  extract_lets s s1 s2 s3
  have h0 : State.Changes [.lanes, .seqs, .ibufs, .engines, .groups, .streams, .crcs, .bss, .lcs, .gds, .abs_, .ta, .cs, .dbg] s0 s := ((State.gdSettled_changes s0).mono rfl).step (State.noteQueues_changes _) rfl
  clear_value s
  have h1 : State.Changes [.lanes, .seqs, .ibufs, .engines, .groups, .streams, .crcs, .bss, .lcs, .gds, .abs_, .ta, .cs, .dbg] s s1 := by
    refine ⟨fun p hp => by cases p <;> first | exact absurd hp (by decide) | rfl, rfl,
      fun f => ⟨f.mem, fun g => ?_, f.store, fun x => ?_, f.rbw, f.counts, f.rsp⟩, Nat.le_refl _⟩
    · dsimp only [s1]
      rw [Bank.at_ofFn]; split
      · rfl
      · exact f.prog g
    · dsimp only [s1]
      by_cases c : x = h
      · subst c; simpa using f.bufs x
      · simpa [c] using f.bufs x
  clear_value s1
  have h2 : State.Changes [.lanes, .seqs, .ibufs, .engines, .groups, .streams, .crcs, .bss, .lcs, .gds, .abs_, .ta, .cs, .dbg] s1 s2 := by
    refine (State.modCs_changes s1 _ fun c g k => ?_).mono rfl
    dsimp only
    rw [Bank.at_ofFn]; split
    · rfl
    · exact k
  clear_value s2
  exact (((h0.trans h1).trans h2).step (State.modTa_changes _ _) rfl).step (State.modDbg_changes _ _) rfl

theorem State.halfStacks_changes (s : State) (h : Fin 2) :
    State.Changes [.eic] s (State.halfStacks s h) := by
  unfold State.halfStacks
  try dsimp only
  repeat'
    first
    | with_reducible apply State.Changes.refl
    | exact rfl
    | with_reducible apply State.Changes.foldl
    | with_reducible apply State.Changes.step (k := State.emptyStack_changes _ _ _)
    | intro _
    | split

theorem State.halfLeave_changes (s : State) (h : Fin 2) (st : HalfSt) :
    State.Changes [.lanes, .power, .chans, .seqs, .ibufs, .engines, .groups, .streams, .crcs, .bss, .lcs, .gds, .abs_, .ta, .eic, .cs, .dbg] s (State.halfLeave s h st) := by
  unfold State.halfLeave
  try dsimp only
  repeat'
    first
    | with_reducible apply State.Changes.refl
    | exact rfl
    | with_reducible apply State.Changes.step (k := State.settleMaster_changes _)
    | with_reducible apply State.Changes.step (k := State.halfStacks_changes _ _)
    | with_reducible apply State.Changes.step (k := State.eicSettle_changes _)
    | with_reducible apply State.Changes.step (k := State.refreeze_changes _)
    | with_reducible apply State.Changes.step (k := State.modPw_changes _ _)
    | with_reducible apply State.Changes.step (k := State.halfReset_changes _ _)
    | with_reducible apply State.Changes.step (k := State.modHalf_changes _ _ _)
    | with_reducible apply State.Changes.step (k := State.halfFaults_changes _ _)
    | split

theorem State.halfErr_changes (s : State) (h : Fin 2) (e : Nat) :
    State.Changes [.power] s (State.halfErr s h e) := by
  unfold State.halfErr
  try dsimp only
  repeat'
    first
    | with_reducible apply State.Changes.refl
    | exact rfl
    | with_reducible apply State.Changes.step (k := State.modHalf_changes _ _ _)

theorem State.halfOff_changes (s : State) (h : Fin 2) :
    State.Changes [.lanes, .power, .chans, .seqs, .ibufs, .engines, .groups, .streams, .crcs, .bss, .lcs, .gds, .abs_, .ta, .eic, .cs, .dbg] s (State.halfOff s h) := by
  unfold State.halfOff
  try dsimp only
  repeat'
    first
    | with_reducible apply State.Changes.refl
    | exact rfl
    | with_reducible apply State.Changes.step (k := State.halfErr_changes _ _ _)
    | with_reducible apply State.Changes.step (k := State.halfLeave_changes _ _ _)
    | split

theorem State.halfRestart_changes (s : State) (h : Fin 2) (wd : Bool) :
    State.Changes [.lanes, .power, .chans, .seqs, .ibufs, .engines, .groups, .streams, .crcs, .bss, .lcs, .gds, .abs_, .ta, .eic, .cs, .dbg] s (State.halfRestart s h wd) := by
  unfold State.halfRestart
  try dsimp only
  repeat'
    first
    | with_reducible apply State.Changes.refl
    | exact rfl
    | with_reducible apply State.Changes.step (k := State.halfErr_changes _ _ _)
    | with_reducible apply State.Changes.step (k := State.halfLeave_changes _ _ _)
    | with_reducible apply State.Changes.step (k := State.modPw_changes _ _)
    | split

theorem State.halfOn_changes (s : State) (h : Fin 2) :
    State.Changes [.power] s (State.halfOn s h) := by
  unfold State.halfOn
  try dsimp only
  repeat'
    first
    | with_reducible apply State.Changes.refl
    | exact rfl
    | with_reducible apply State.Changes.step (k := State.halfErr_changes _ _ _)
    | with_reducible apply State.Changes.step (k := State.modHalf_changes _ _ _)
    | split

theorem State.halfSleep_changes (s : State) (h : Fin 2) :
    State.Changes [.power, .eic, .dbg] s (State.halfSleep s h) := by
  unfold State.halfSleep
  try dsimp only
  repeat'
    first
    | with_reducible apply State.Changes.refl
    | exact rfl
    | with_reducible apply State.Changes.step (k := State.halfErr_changes _ _ _)
    | with_reducible apply State.Changes.step (k := State.modHalf_changes _ _ _)
    | with_reducible apply State.Changes.step (k := State.modPw_changes _ _)
    | with_reducible apply State.Changes.step (k := State.halfStacks_changes _ _)
    | with_reducible apply State.Changes.step (k := State.eicSettle_changes _)
    | split

theorem State.halfWake_changes (s : State) (h : Fin 2) :
    State.Changes [.power, .dbg] s (State.halfWake s h) := by
  unfold State.halfWake
  try dsimp only
  repeat'
    first
    | with_reducible apply State.Changes.refl
    | exact rfl
    | with_reducible apply State.Changes.step (k := State.halfErr_changes _ _ _)
    | with_reducible apply State.Changes.step (k := State.wakeHalf_changes _ _)
    | split

theorem State.autowake_changes (s : State) (c : Fin 256) :
    State.Changes [.power, .dbg] s (State.autowake s c) := by
  unfold State.autowake
  try dsimp only
  repeat'
    first
    | with_reducible apply State.Changes.refl
    | exact rfl
    | with_reducible apply State.Changes.step (k := State.wakeHalf_changes _ _)
    | split

theorem State.halfCtrl_changes (s : State) (h : Fin 2) (v : W32) :
    State.Changes [.lanes, .power, .chans, .seqs, .ibufs, .engines, .groups, .streams, .crcs, .bss, .lcs, .gds, .abs_, .ta, .eic, .cs, .dbg] s (State.halfCtrl s h v) := by
  unfold State.halfCtrl
  try dsimp only
  repeat'
    first
    | with_reducible apply State.Changes.refl
    | exact rfl
    | with_reducible apply State.Changes.step (k := State.halfWake_changes _ _)
    | with_reducible apply State.Changes.step (k := State.halfSleep_changes _ _)
    | with_reducible apply State.Changes.step (k := State.halfOn_changes _ _)
    | with_reducible apply State.Changes.step (k := State.halfRestart_changes _ _ _)
    | with_reducible apply State.Changes.step (k := State.halfOff_changes _ _)
    | with_reducible apply State.Changes.step (k := State.halfErr_changes _ _ _)
    | split

theorem State.halfUpDone_changes (s : State) (h : Fin 2) :
    State.Changes [.lanes, .power, .seqs, .ibufs, .engines, .groups, .streams, .crcs, .bss, .lcs, .gds, .abs_, .ta, .eic, .cs, .sec, .dbg] s (State.halfUpDone s h) := by
  unfold State.halfUpDone
  dsimp -zeta only [← State.set_sec_eq]
  try dsimp only
  repeat'
    first
    | with_reducible apply State.Changes.refl
    | exact rfl
    | with_reducible apply State.Changes.sec
    | with_reducible apply State.Changes.step (k := State.modHalf_changes _ _ _)
    | with_reducible apply State.Changes.step (k := State.eicSettle_changes _)
    | with_reducible apply State.Changes.step (k := State.halfReset_changes _ _)
    | split

theorem State.saveBanks_changes (s : State) (h : Fin 2) :
    State.Changes [.chans, .seqs, .pool, .mem] s (State.saveBanks s h).2 := by
  unfold State.saveBanks
  refine State.Changes.foldl_snd (.refl _ _) fun z n => ?_
  dsimp only
  split
  · have k := State.floatSave_changes z.2 n
    split <;> rename_i e <;> rw [e] at k
    · exact ((State.Changes.mono k rfl).step (State.uw_changes _ _ _) rfl).step (State.modSeq_changes _ _ _) rfl
    · exact State.Changes.mono k rfl
    · exact ((State.Changes.mono k rfl).step (State.modSeq_changes _ _ _) rfl).step (State.modChan_changes _ _ _) rfl
    · exact State.Changes.mono k rfl
  · exact .refl _ _

theorem State.sleepLoss_changes (s : State) (h : Fin 2) :
    State.Changes [.lanes, .seqs, .ibufs, .engines] s (State.sleepLoss s h) := by
  unfold State.sleepLoss
  dsimp -zeta only [← State.set_lanes_seqs_ibufs_engines_eq, ← State.set_ibufs_eq, ← State.set_engines_eq, ← State.set_seqs_eq, ← State.set_lanes_eq]
  try dsimp only
  repeat'
    first
    | with_reducible apply State.Changes.refl
    | exact rfl
    | with_reducible apply State.Changes.ibufs
    | with_reducible apply State.Changes.engines
    | with_reducible apply State.Changes.seqs
    | with_reducible apply State.Changes.lanes

theorem State.halfSleepDone_changes (s : State) (h : Fin 2) :
    State.Changes [.lanes, .power, .chans, .seqs, .ibufs, .pool, .mem, .engines, .eic, .dbg] s (State.halfSleepDone s h) := by
  unfold State.halfSleepDone
  try dsimp only
  repeat'
    first
    | with_reducible apply State.Changes.refl
    | exact rfl
    | with_reducible apply State.Changes.step (k := State.sleepLoss_changes _ _)
    | with_reducible apply State.Changes.step (k := State.modDbg_changes _ _)
    | with_reducible apply State.Changes.step (k := State.modHalf_changes _ _ _)
    | with_reducible apply State.Changes.step (k := State.halfErr_changes _ _ _)
    | with_reducible apply State.Changes.step (k := State.eicSettle_changes _)
    | refine State.Changes.snd (f := State.saveBanks _ _) (by with_reducible assumption) (State.saveBanks_changes _ _) ?_ ?_
    | split

theorem State.halfWakeDone_changes (s : State) (h : Fin 2) :
    State.Changes [.power, .seqs, .eic, .dbg] s (State.halfWakeDone s h) := by
  unfold State.halfWakeDone
  dsimp -zeta only [← State.set_seqs_eq]
  try dsimp only
  repeat'
    first
    | with_reducible apply State.Changes.refl
    | exact rfl
    | with_reducible apply State.Changes.seqs
    | with_reducible apply State.Changes.step (k := State.modHalf_changes _ _ _)
    | with_reducible apply State.Changes.step (k := State.modDbg_changes _ _)
    | with_reducible apply State.Changes.step (k := State.eicSettle_changes _)
    | split

theorem State.halfDownDone_changes (s : State) (h : Fin 2) :
    State.Changes [.power] s (State.halfDownDone s h) := by
  unfold State.halfDownDone
  try dsimp only
  repeat'
    first
    | with_reducible apply State.Changes.refl
    | exact rfl
    | with_reducible apply State.Changes.step (k := State.modHalf_changes _ _ _)
    | split

theorem State.wdExpire_changes (s : State) (w : Fin 2) :
    State.Changes [.lanes, .power, .chans, .seqs, .ibufs, .engines, .groups, .streams, .crcs, .bss, .lcs, .gds, .abs_, .ta, .eic, .cs, .dbg] s (State.wdExpire s w) := by
  unfold State.wdExpire
  try dsimp only
  repeat'
    first
    | with_reducible apply State.Changes.refl
    | exact rfl
    | with_reducible apply State.Changes.step (k := State.modPw_changes _ _)
    | with_reducible apply State.Changes.step (k := State.halfRestart_changes _ _ _)
    | with_reducible apply State.Changes.step (k := State.modWd_changes _ _ _)
    | split

theorem State.wdExpiry_changes (s : State) (w : Fin 2) :
    State.Changes [.lanes, .power, .chans, .seqs, .ibufs, .engines, .groups, .streams, .crcs, .bss, .lcs, .gds, .abs_, .ta, .eic, .cs, .dbg] s (State.wdExpiry s w) := by
  unfold State.wdExpiry
  try dsimp only
  repeat'
    first
    | with_reducible apply State.Changes.refl
    | exact rfl
    | with_reducible apply State.Changes.step (k := State.wdExpire_changes _ _)
    | split

theorem State.wdKick_changes (s : State) (w : Fin 2) (v : W32) :
    State.Changes [.lanes, .power, .chans, .seqs, .ibufs, .engines, .groups, .streams, .crcs, .bss, .lcs, .gds, .abs_, .ta, .eic, .cs, .dbg] s (State.wdKick s w v) := by
  unfold State.wdKick
  try dsimp only
  repeat'
    first
    | with_reducible apply State.Changes.refl
    | exact rfl
    | with_reducible apply State.Changes.step (k := State.wdExpire_changes _ _)
    | with_reducible apply State.Changes.step (k := State.modWd_changes _ _ _)
    | split

theorem State.commonReset_changes (s : State) (cause : Nat) :
    State.Changes [.beryl, .lanes, .hp, .xf, .key, .power, .chans, .posts, .seqs, .ibufs, .pool, .mem, .engines, .groups, .streams, .crcs, .bss, .lcs, .gds, .abs_, .sn, .ta, .eic, .cs, .sec, .vault, .dbg, .cw] s (State.commonReset s cause) := by
  unfold State.commonReset
  dsimp only
  refine State.Changes.step ?_ (State.regrant_changes _ _) rfl
  refine State.Changes.step ?_ (State.settleMaster_changes _) rfl
  refine State.Changes.step ?_ (State.modPw_changes _ _) rfl
  refine ⟨fun p hp => by cases p <;> first | exact absurd hp (by decide) | rfl, rfl,
    fun f => ⟨f.mem, fun g => ?_, fun x => ?_, fun x => ?_, fun x => ?_, rfl, Nat.zero_le _⟩, Nat.le_refl _⟩
  all_goals
    dsimp only [ControlStore.reset]
    first
    | rw [Bank.at_fill]; rfl
    | simp only [Bank.at_map, Guardian.cleared]; rfl

theorem State.rstAssert_changes (s : State) :
    State.Changes [.beryl, .lanes, .hp, .xf, .key, .power, .chans, .posts, .seqs, .ibufs, .pool, .mem, .engines, .groups, .streams, .crcs, .bss, .lcs, .gds, .abs_, .sn, .ta, .eic, .cs, .sec, .vault, .dbg, .cw] s (State.rstAssert s) := by
  unfold State.rstAssert
  try dsimp only
  repeat'
    first
    | with_reducible apply State.Changes.refl
    | exact rfl
    | with_reducible apply State.Changes.step (k := State.commonReset_changes _ _)
    | with_reducible apply State.Changes.step (k := State.modPw_changes _ _)
    | split

theorem State.rstRelease_changes (s : State) :
    State.Changes [.beryl, .power, .chans, .seqs, .mem, .ta, .eic, .vault, .dbg] s (State.rstRelease s) := by
  unfold State.rstRelease
  dsimp -zeta only [← State.set_vault_eq]
  try dsimp only
  repeat'
    first
    | with_reducible apply State.Changes.refl
    | exact rfl
    | with_reducible apply State.Changes.vault
    | with_reducible apply State.Changes.step (k := State.regrant_changes _ _)
    | with_reducible apply State.Changes.step (k := State.modPw_changes _ _)
    | with_reducible apply State.Changes.step (k := State.agWipe_changes _ _)
    | with_reducible apply State.Changes.step (k := State.modBeryl_changes _ _)
    | with_reducible apply State.Changes.step (k := State.memZero_changes _ _)
    | split

theorem State.commonReady_changes (s : State) :
    State.Changes [.power, .mem] s (State.commonReady s) := by
  unfold State.commonReady
  try dsimp only
  repeat'
    first
    | with_reducible apply State.Changes.refl
    | exact rfl
    | with_reducible apply State.Changes.step (k := State.agWipeDone_changes _)
    | with_reducible apply State.Changes.step (k := State.modPw_changes _ _)
    | split

theorem State.vcoreLoss_changes (s : State) :
    State.Changes [.beryl, .lanes, .hp, .xf, .key, .power, .chans, .posts, .seqs, .ibufs, .pool, .mem, .engines, .groups, .streams, .crcs, .bss, .lcs, .gds, .abs_, .sn, .ta, .eic, .cs, .sec, .vault, .dbg, .cw] s (State.vcoreLoss s) := by
  unfold State.vcoreLoss
  split
  · extract_lets s1
    have h1 : State.Changes [.beryl, .lanes, .hp, .xf, .key, .power, .chans, .posts, .seqs, .ibufs, .pool, .mem, .engines, .groups, .streams, .crcs, .bss, .lcs, .gds, .abs_, .sn, .ta, .eic, .cs, .sec, .vault, .dbg, .cw] s s1 := (State.commonReset_changes s 7).mono rfl
    clear_value s1
    have k := (h1.hp rfl (v := s1.hp.clear) (Nat.zero_le _)).step (State.memZero_changes _ [0, 1, 2, 3]) rfl
    exact k.step (State.modPw_changes _ _) rfl
  · exact .refl _ _

theorem State.vcoreReturn_changes (s : State) :
    State.Changes [.power] s (State.vcoreReturn s) := by
  unfold State.vcoreReturn
  try dsimp only
  repeat'
    first
    | with_reducible apply State.Changes.refl
    | exact rfl
    | with_reducible apply State.Changes.step (k := State.modPw_changes _ _)
    | split

theorem State.aonReset_changes (s : State) (porst : Bool) :
    State.Changes [.beryl, .lanes, .hp, .xf, .key, .power, .chans, .posts, .seqs, .ibufs, .pool, .mem, .engines, .groups, .streams, .crcs, .bss, .lcs, .gds, .abs_, .sn, .ta, .eic, .cs, .sec, .vault, .dbg, .cw] s (State.aonReset s porst) := by
  unfold State.aonReset
  dsimp only
  refine State.Changes.step ?_ (State.modPw_changes _ _) rfl
  have h1 : State.Changes [.beryl, .lanes, .hp, .xf, .key, .power, .chans, .posts, .seqs, .ibufs, .pool, .mem, .engines, .groups, .streams, .crcs, .bss, .lcs, .gds, .abs_, .sn, .ta, .eic, .cs, .sec, .vault, .dbg, .cw] s (s.commonReset 0) := (State.commonReset_changes s 0).mono rfl
  generalize s.commonReset 0 = s1 at h1
  exact ((h1.lanes rfl (v := s1.lanes.map fun l : Lane => .reset 0 l.level)).hp rfl (v := s1.hp.clear)
    (Nat.zero_le _)).dbg rfl (v := { Debug.reset with port := .reset })

theorem State.powerOn_changes (s : State) :
    State.Changes [.beryl, .lanes, .hp, .xf, .key, .power, .chans, .posts, .seqs, .ibufs, .pool, .mem, .engines, .groups, .streams, .crcs, .bss, .lcs, .gds, .abs_, .sn, .ta, .eic, .cs, .sec, .vault, .dbg, .cw] s (State.powerOn s) := by
  unfold State.powerOn
  try dsimp only
  repeat'
    first
    | with_reducible apply State.Changes.refl
    | exact rfl
    | with_reducible apply State.Changes.step (k := State.aonReset_changes _ _)
    | with_reducible apply State.Changes.step (k := State.modPw_changes _ _)

theorem State.porstRelease_changes (s : State) :
    State.Changes [.beryl, .lanes, .hp, .xf, .key, .power, .chans, .posts, .seqs, .ibufs, .pool, .mem, .engines, .groups, .streams, .crcs, .bss, .lcs, .gds, .abs_, .sn, .ta, .eic, .cs, .sec, .vault, .dbg, .cw] s (State.porstRelease s) := by
  unfold State.porstRelease
  try dsimp only
  repeat'
    first
    | with_reducible apply State.Changes.refl
    | exact rfl
    | with_reducible apply State.Changes.step (k := State.aonReset_changes _ _)
    | split

theorem State.testMode_changes (s : State) (v : Bool) :
    State.Changes [.beryl, .lanes, .hp, .xf, .key, .power, .chans, .posts, .seqs, .ibufs, .pool, .mem, .engines, .groups, .streams, .crcs, .bss, .lcs, .gds, .abs_, .sn, .ta, .eic, .cs, .sec, .vault, .dbg, .cw] s (State.testMode s v) := by
  unfold State.testMode
  try dsimp only
  repeat'
    first
    | with_reducible apply State.Changes.refl
    | exact rfl
    | with_reducible apply State.Changes.step (k := State.aonReset_changes _ _)
    | with_reducible apply State.Changes.step (k := State.modPw_changes _ _)
    | split

theorem State.vaoLoss_changes (s : State) :
    State.Changes [.beryl, .lanes, .hp, .xf, .key, .power, .chans, .posts, .seqs, .ibufs, .pool, .mem, .engines, .groups, .streams, .crcs, .bss, .lcs, .gds, .abs_, .sn, .ta, .eic, .cs, .sec, .vault, .dbg, .cw] s (State.vaoLoss s) := by
  unfold State.vaoLoss
  split
  · extract_lets s1
    have h1 : State.Changes [.beryl, .lanes, .hp, .xf, .key, .power, .chans, .posts, .seqs, .ibufs, .pool, .mem, .engines, .groups, .streams, .crcs, .bss, .lcs, .gds, .abs_, .sn, .ta, .eic, .cs, .sec, .vault, .dbg, .cw] s s1 := (State.aonReset_changes s false).mono rfl
    clear_value s1
    exact (h1.step (State.memZero_changes _ [0, 1, 2, 3]) rfl).step (State.modPw_changes _ _) rfl
  · exact .refl _ _

theorem State.batteryLoss_changes (s : State) :
    State.Changes [.power, .bat, .chans, .seqs, .mem, .ta, .eic, .vault, .dbg, .free] s (State.batteryLoss s) := by
  unfold State.batteryLoss
  dsimp -zeta only [← State.set_bat_vault_free_eq, ← State.set_vault_eq, ← State.set_free_eq, ← State.set_bat_eq]
  try dsimp only
  repeat'
    first
    | with_reducible apply State.Changes.refl
    | exact rfl
    | with_reducible apply State.Changes.vault
    | with_reducible apply State.Changes.free
    | with_reducible apply State.Changes.bat
    | with_reducible apply State.Changes.step (k := State.regrant_changes _ _)
    | split

theorem State.batteryInit_changes (s : State) :
    State.Changes [.beryl, .lanes, .hp, .xf, .key, .power, .bat, .chans, .posts, .seqs, .ibufs, .pool, .mem, .engines, .groups, .streams, .crcs, .bss, .lcs, .gds, .abs_, .sn, .ta, .eic, .cs, .sec, .vault, .dbg, .cw] s (State.batteryInit s) := by
  unfold State.batteryInit
  split
  · exact .refl _ _
  · dsimp only
    have k := (((State.Changes.refl [.beryl, .lanes, .hp, .xf, .key, .power, .bat, .chans, .posts, .seqs, .ibufs, .pool, .mem, .engines, .groups, .streams, .crcs, .bss, .lcs, .gds, .abs_, .sn, .ta, .eic, .cs, .sec, .vault, .dbg, .cw] s).bat rfl (v := Battery.reset)).vault rfl
      (v := { Vault.reset with aonLoad := s.vault.aonLoad, inputs := s.vault.inputs })).step (State.regrant_changes _ s.grant) rfl
    generalize hz : State.regrant _ s.grant = z at k
    have e : State.regrant { s with bat := Battery.reset, vault := { Vault.reset with aonLoad := s.vault.aonLoad, inputs := s.vault.inputs } } s.grant = z := hz
    rw [e]
    split
    · have h2 : State.Changes [.beryl, .lanes, .hp, .xf, .key, .power, .bat, .chans, .posts, .seqs, .ibufs, .pool, .mem, .engines, .groups, .streams, .crcs, .bss, .lcs, .gds, .abs_, .sn, .ta, .eic, .cs, .sec, .vault, .dbg, .cw] s (z.commonReset 7) := k.step (State.commonReset_changes _ _) rfl
      generalize z.commonReset 7 = s2 at h2
      exact (h2.step (State.memZero_changes _ [0, 1, 2, 3]) rfl).step (State.modPw_changes _ _) rfl
    · exact k

theorem State.supStatW_changes (s : State) (v : W32) :
    State.Changes [.power] s (State.supStatW s v) := by
  unfold State.supStatW
  try dsimp only
  repeat'
    first
    | with_reducible apply State.Changes.refl
    | exact rfl
    | with_reducible apply State.Changes.step (k := State.modPw_changes _ _)

theorem State.halfStatW_changes (s : State) (h : Fin 2) (v : W32) :
    State.Changes [.power] s (State.halfStatW s h v) := by
  unfold State.halfStatW
  try dsimp only
  repeat'
    first
    | with_reducible apply State.Changes.refl
    | exact rfl
    | with_reducible apply State.Changes.step (k := State.modHalf_changes _ _ _)

theorem State.leaseStatW_changes (s : State) (v : W32) :
    State.Changes [.power] s (State.leaseStatW s v) := by
  unfold State.leaseStatW
  try dsimp only
  repeat'
    first
    | with_reducible apply State.Changes.refl
    | exact rfl
    | with_reducible apply State.Changes.step (k := State.modPw_changes _ _)

theorem State.gaspStatW_changes (s : State) (v : W32) :
    State.Changes [.power] s (State.gaspStatW s v) := by
  unfold State.gaspStatW
  try dsimp only
  repeat'
    first
    | with_reducible apply State.Changes.refl
    | exact rfl
    | with_reducible apply State.Changes.step (k := State.modPw_changes _ _)

theorem State.modSec_changes (s : State) (f : Security → Security) :
    State.Changes [.sec] s (State.modSec s f) := by
  unfold State.modSec
  dsimp -zeta only [← State.set_sec_eq]
  try dsimp only
  repeat'
    first
    | with_reducible apply State.Changes.refl
    | exact rfl
    | with_reducible apply State.Changes.sec

theorem State.modLd_changes (s : State) (f : Loader → Loader) :
    State.Changes [.sec] s (State.modLd s f) := by
  unfold State.modLd
  try dsimp only
  repeat'
    first
    | with_reducible apply State.Changes.refl
    | exact rfl
    | with_reducible apply State.Changes.step (k := State.modSec_changes _ _)

theorem State.modVault_changes (s : State) (f : Vault → Vault) :
    State.Changes [.vault] s (State.modVault s f) := by
  unfold State.modVault
  dsimp -zeta only [← State.set_vault_eq]
  try dsimp only
  repeat'
    first
    | with_reducible apply State.Changes.refl
    | exact rfl
    | with_reducible apply State.Changes.vault

theorem State.tamperLog_changes (s : State) (src : Nat) (arg : Nat) (sort : Bool) :
    State.Changes [.vault] s (State.tamperLog s src arg sort) := by
  unfold State.tamperLog
  try dsimp only
  repeat'
    first
    | with_reducible apply State.Changes.refl
    | exact rfl
    | with_reducible apply State.Changes.step (k := State.modVault_changes _ _)

theorem State.csZero_changes (s : State) :
    State.Changes [.cs, .sec] s (State.csZero s) := by
  unfold State.csZero
  try dsimp only
  repeat'
    first
    | with_reducible apply State.Changes.refl
    | exact rfl
    | with_reducible apply State.Changes.step (k := State.csChange_changes _ _ _ ?_)
    | with_reducible apply State.Changes.step (k := State.modSec_changes _ _)
    | intro _

theorem State.lcStart_changes (s : State) (tgt : BitVec 4) (byLoad : Bool) :
    State.Changes [.chans, .seqs, .mem, .cs, .sec] s (State.lcStart s tgt byLoad) := by
  unfold State.lcStart
  dsimp -zeta only [← State.set_seqs_eq]
  try dsimp only
  repeat'
    first
    | with_reducible apply State.Changes.refl
    | exact rfl
    | with_reducible apply State.Changes.seqs
    | with_reducible apply State.Changes.step (k := State.agWipe_changes _ _)
    | with_reducible apply State.Changes.step (k := State.csZero_changes _)
    | with_reducible apply State.Changes.step (k := State.memZero_changes _ _)
    | with_reducible apply State.Changes.step (k := State.modSec_changes _ _)
    | split

theorem State.lcRequest_changes (s : State) (v : W32) :
    State.Changes [.power, .chans, .seqs, .mem, .cs, .sec] s (State.lcRequest s v) := by
  unfold State.lcRequest
  try dsimp only
  repeat'
    first
    | with_reducible apply State.Changes.refl
    | exact rfl
    | with_reducible apply State.Changes.step (k := State.lcStart_changes _ _ _)
    | with_reducible apply State.Changes.step (k := State.guardRefused_changes _)
    | with_reducible apply State.Changes.step (k := State.modSec_changes _ _)
    | split

theorem State.ldEnd_changes (s : State) (err : Nat) :
    State.Changes [.key, .sec] s (State.ldEnd s err) := by
  unfold State.ldEnd
  dsimp -zeta only [← State.set_key_eq]
  try dsimp only
  repeat'
    first
    | with_reducible apply State.Changes.refl
    | exact rfl
    | with_reducible apply State.Changes.key
    | with_reducible apply State.Changes.step (k := State.modLd_changes _ _)

theorem State.lcCommit_changes (s : State) :
    State.Changes [.key, .power, .bat, .chans, .seqs, .mem, .ta, .eic, .sec, .vault, .dbg] s (State.lcCommit s) := by
  unfold State.lcCommit
  dsimp -zeta only [← State.set_bat_eq]
  try dsimp only
  repeat'
    first
    | with_reducible apply State.Changes.refl
    | exact rfl
    | with_reducible apply State.Changes.bat
    | with_reducible apply State.Changes.step (k := State.tamperLog_changes _ _ _ _)
    | with_reducible apply State.Changes.step (k := State.regrant_changes _ _)
    | with_reducible apply State.Changes.step (k := State.modVault_changes _ _)
    | with_reducible apply State.Changes.step (k := State.guardRefused_changes _)
    | with_reducible apply State.Changes.step (k := State.ldEnd_changes _ _)
    | with_reducible apply State.Changes.step (k := State.modSec_changes _ _)
    | split

theorem State.ldFail_changes (s : State) (err : Nat) :
    State.Changes [.key, .seqs, .mem, .sec] s (State.ldFail s err) := by
  unfold State.ldFail
  dsimp -zeta only [← State.set_key_eq]
  try dsimp only
  repeat'
    first
    | with_reducible apply State.Changes.refl
    | exact rfl
    | with_reducible apply State.Changes.key
    | with_reducible apply State.Changes.step (k := State.agWipe_changes _ _)
    | with_reducible apply State.Changes.step (k := State.modLd_changes _ _)
    | split

theorem State.ldGuard_changes (s : State) :
    State.Changes [.key, .power, .seqs, .mem, .sec] s (State.ldGuard s) := by
  unfold State.ldGuard
  try dsimp only
  repeat'
    first
    | with_reducible apply State.Changes.refl
    | exact rfl
    | with_reducible apply State.Changes.step (k := State.guardRefused_changes _)
    | with_reducible apply State.Changes.step (k := State.ldFail_changes _ _)

theorem State.ldGo_changes (s : State) :
    State.Changes [.power, .sec] s (State.ldGo s) := by
  unfold State.ldGo
  try dsimp only
  repeat'
    first
    | with_reducible apply State.Changes.refl
    | exact rfl
    | with_reducible apply State.Changes.step (k := State.guardRefused_changes _)
    | with_reducible apply State.Changes.step (k := State.modLd_changes _ _)
    | split

theorem State.ldAbort_changes (s : State) :
    State.Changes [.key, .seqs, .mem, .sec] s (State.ldAbort s) := by
  unfold State.ldAbort
  try dsimp only
  repeat'
    first
    | with_reducible apply State.Changes.refl
    | exact rfl
    | with_reducible apply State.Changes.step (k := State.ldFail_changes _ _)
    | split

theorem State.ldCtrl_changes (s : State) (v : W32) :
    State.Changes [.key, .power, .seqs, .mem, .sec] s (State.ldCtrl s v) := by
  unfold State.ldCtrl
  try dsimp only
  repeat'
    first
    | with_reducible apply State.Changes.refl
    | exact rfl
    | with_reducible apply State.Changes.step (k := State.ldAbort_changes _)
    | with_reducible apply State.Changes.step (k := State.ldGo_changes _)
    | split

theorem State.ldWindow_changes (s : State) (h : Fin 2) (w : Fin 4096) (v : W32) :
    State.Changes [.sec] s (State.ldWindow s h w v) := by
  unfold State.ldWindow
  try dsimp only
  repeat'
    first
    | with_reducible apply State.Changes.refl
    | exact rfl
    | with_reducible apply State.Changes.step (k := State.modLd_changes _ _)

theorem State.ldFeed_changes (s : State) (v : W32) :
    State.Changes [.key, .seqs, .mem, .sec] s (State.ldFeed s v) := by
  unfold State.ldFeed
  try dsimp only
  repeat'
    first
    | with_reducible apply State.Changes.refl
    | exact rfl
    | with_reducible apply State.Changes.step (k := State.ldFail_changes _ _)
    | with_reducible apply State.Changes.step (k := State.modLd_changes _ _)
    | split

theorem State.ldStore_changes (s : State) (e : Nat) (o : Nat) (d : List Byte) :
    State.Changes [.seqs, .mem, .cs, .sec] s (State.ldStore s e o d) := by
  unfold State.ldStore
  try dsimp only
  repeat'
    first
    | with_reducible apply State.Changes.refl
    | exact rfl
    | with_reducible apply State.Changes.foldl
    | with_reducible apply State.Changes.step (k := State.csChange_changes _ _ _ ?_)
    | with_reducible apply State.Changes.step (k := State.memWrite_changes _ _ _ _ _)
    | exact fun _ h => foldl_keep (p := fun c : CsCopy => sparseWf 0 c.words = true) h fun _ _ g => sparseWf_sparseSet _ _ _ g
    | exact fun _ h => foldl_keep (p := fun c : CsCopy => sparseWf 0 c.words = true) h fun _ _ g => g
    | intro _
    | split

theorem State.ldEcc_changes (s : State) (w : Option Nat) :
    State.Changes [.key, .seqs, .mem, .sec] s (State.ldEcc s w) := by
  unfold State.ldEcc
  try dsimp only
  repeat'
    first
    | with_reducible apply State.Changes.refl
    | exact rfl
    | with_reducible apply State.Changes.step (k := State.modMem_changes _ _ ?_)
    | with_reducible apply State.Changes.step (k := State.ldFail_changes _ _)
    | (intro _ h; exact h)
    | split

theorem State.ldPayload_changes (s : State) :
    State.Changes [.key, .power, .seqs, .mem, .cs, .sec] s (State.ldPayload s) := by
  unfold State.ldPayload
  try dsimp only
  repeat'
    first
    | with_reducible apply State.Changes.refl
    | exact rfl
    | with_reducible apply State.Changes.foldl
    | with_reducible apply State.Changes.step (k := State.modLd_changes _ _)
    | with_reducible apply State.Changes.step (k := State.ldStore_changes _ _ _ _)
    | with_reducible apply State.Changes.step (k := State.ldEcc_changes _ _)
    | with_reducible apply State.Changes.step (k := State.ldGuard_changes _)
    | intro _
    | split

theorem State.ldSettle_changes (s : State) :
    State.Changes [.sec] s (State.ldSettle s) := by
  unfold State.ldSettle
  try dsimp only
  repeat'
    first
    | with_reducible apply State.Changes.refl
    | exact rfl
    | with_reducible apply State.Changes.step (k := State.modLd_changes _ _)
    | split

theorem State.ldConsume_changes (s : State) :
    State.Changes [.key, .power, .seqs, .mem, .cs, .sec] s (State.ldConsume s) := by
  unfold State.ldConsume
  try dsimp only
  repeat'
    first
    | with_reducible apply State.Changes.refl
    | exact rfl
    | with_reducible apply State.Changes.step (k := State.ldPayload_changes _)
    | with_reducible apply State.Changes.step (k := State.ldSettle_changes _)
    | with_reducible apply State.Changes.step (k := State.ldFail_changes _ _)
    | with_reducible apply State.Changes.step (k := State.modLd_changes _ _)
    | split

theorem State.keyRequest_changes (s : State) :
    State.Changes [.key, .power, .seqs, .mem, .sec] s (State.keyRequest s) := by
  unfold State.keyRequest
  dsimp -zeta only [← State.set_key_eq]
  try dsimp only
  repeat'
    first
    | with_reducible apply State.Changes.refl
    | exact rfl
    | with_reducible apply State.Changes.key
    | with_reducible apply State.Changes.step (k := State.ldGuard_changes _)
    | split

theorem State.ldHeaderDone_changes (s : State) :
    State.Changes [.key, .power, .seqs, .mem, .sec] s (State.ldHeaderDone s) := by
  unfold State.ldHeaderDone
  try dsimp only
  repeat'
    first
    | with_reducible apply State.Changes.refl
    | exact rfl
    | with_reducible apply State.Changes.step (k := State.ldSettle_changes _)
    | with_reducible apply State.Changes.step (k := State.modLd_changes _ _)
    | with_reducible apply State.Changes.step (k := State.keyRequest_changes _)
    | with_reducible apply State.Changes.step (k := State.ldFail_changes _ _)
    | split

theorem State.keyAck_changes (s0 : State) (v : Bool) (k : BitVec 256) :
    State.Changes [.key, .power, .seqs, .mem, .sec] s0 (State.keyAck s0 v k) := by
  unfold State.keyAck
  extract_lets _ s
  have h : State.Changes [.key, .power, .seqs, .mem, .sec] s0 s := (State.Changes.refl _ s0).key rfl
  split
  · exact h
  · split
    · split
      · exact ((h.step (State.modLd_changes _ _) rfl).key rfl).step (State.ldSettle_changes _) rfl
      · exact h
    · split
      · exact h.step (State.keyRequest_changes _) rfl
      · exact h

theorem State.keyTimeout_changes (s : State) :
    State.Changes [.key, .seqs, .mem, .sec] s (State.keyTimeout s) := by
  unfold State.keyTimeout
  try dsimp only
  repeat'
    first
    | with_reducible apply State.Changes.refl
    | exact rfl
    | with_reducible apply State.Changes.step (k := State.ldFail_changes _ _)
    | split

theorem State.ldVerifyDone_changes (s : State) :
    State.Changes [.key, .seqs, .mem, .sec] s (State.ldVerifyDone s) := by
  unfold State.ldVerifyDone
  try dsimp only
  repeat'
    first
    | with_reducible apply State.Changes.refl
    | exact rfl
    | with_reducible apply State.Changes.step (k := State.modLd_changes _ _)
    | with_reducible apply State.Changes.step (k := State.ldFail_changes _ _)
    | split

theorem State.ldCommit_changes (s : State) :
    State.Changes [.key, .power, .chans, .seqs, .mem, .cs, .sec, .vault] s (State.ldCommit s) := by
  unfold State.ldCommit
  try dsimp only
  repeat'
    first
    | with_reducible apply State.Changes.refl
    | exact rfl
    | with_reducible apply State.Changes.step (k := State.ldEnd_changes _ _)
    | with_reducible apply State.Changes.step (k := State.lcStart_changes _ _ _)
    | with_reducible apply State.Changes.step (k := State.modMem_changes _ _ ?_)
    | with_reducible apply State.Changes.step (k := State.modVault_changes _ _)
    | with_reducible apply State.Changes.step (k := State.modSec_changes _ _)
    | with_reducible apply State.Changes.step (k := State.ldGuard_changes _)
    | (intro _ h; exact h)
    | split

theorem State.ldRollback_changes (s : State) :
    State.Changes [.key, .seqs, .mem, .cs, .sec] s (State.ldRollback s) := by
  unfold State.ldRollback
  try dsimp only
  repeat'
    first
    | with_reducible apply State.Changes.refl
    | exact rfl
    | with_reducible apply State.Changes.foldl
    | with_reducible apply State.Changes.step (k := State.ldEnd_changes _ _)
    | with_reducible apply State.Changes.step (k := State.ldStore_changes _ _ _ _)
    | intro _
    | split

theorem State.tamperAct_changes (s : State) (k : Fin 4) (late : Bool) :
    State.Changes [.key, .power, .bat, .seqs, .mem, .sec, .vault] s (State.tamperAct s k late) := by
  unfold State.tamperAct
  dsimp -zeta only [← State.set_bat_eq]
  try dsimp only
  repeat'
    first
    | with_reducible apply State.Changes.refl
    | exact rfl
    | with_reducible apply State.Changes.bat
    | with_reducible apply State.Changes.step (k := State.modPw_changes _ _)
    | with_reducible apply State.Changes.step (k := State.ldFail_changes _ _)
    | with_reducible apply State.Changes.step (k := State.agWipe_changes _ _)
    | with_reducible apply State.Changes.step (k := State.tamperLog_changes _ _ _ _)
    | with_reducible apply State.Changes.step (k := State.modVault_changes _ _)
    | split

theorem State.modTamper_changes (s : State) (k : Fin 4) (f : TamperIn → TamperIn) :
    State.Changes [.vault] s (State.modTamper s k f) := by
  unfold State.modTamper
  try dsimp only
  repeat'
    first
    | with_reducible apply State.Changes.refl
    | exact rfl
    | with_reducible apply State.Changes.step (k := State.modVault_changes _ _)

theorem State.tamperGive_changes (s : State) (k : Fin 4) :
    State.Changes [.key, .power, .bat, .seqs, .mem, .sec, .vault] s (State.tamperGive s k) := by
  unfold State.tamperGive
  try dsimp only
  repeat'
    first
    | with_reducible apply State.Changes.refl
    | exact rfl
    | with_reducible apply State.Changes.step (k := State.tamperAct_changes _ _ _)
    | with_reducible apply State.Changes.step (k := State.modTamper_changes _ _ _)
    | split

theorem State.tamperSettle_changes (s : State) :
    State.Changes [.key, .power, .bat, .seqs, .mem, .sec, .vault] s (State.tamperSettle s) := by
  unfold State.tamperSettle
  try dsimp only
  repeat'
    first
    | with_reducible apply State.Changes.refl
    | exact rfl
    | with_reducible apply State.Changes.foldl
    | with_reducible apply State.Changes.step (k := State.modTamper_changes _ _ _)
    | with_reducible apply State.Changes.step (k := State.tamperAct_changes _ _ _)
    | intro _
    | split

theorem State.tamperLevel_changes (s : State) (k : Fin 4) (v : Bool) :
    State.Changes [.vault] s (State.tamperLevel s k v) := by
  unfold State.tamperLevel
  try dsimp only
  repeat'
    first
    | with_reducible apply State.Changes.refl
    | exact rfl
    | with_reducible apply State.Changes.step (k := State.modTamper_changes _ _ _)
    | split

theorem State.tamperEvent_changes (s : State) (k : Fin 4) :
    State.Changes [.key, .power, .bat, .seqs, .mem, .sec, .vault] s (State.tamperEvent s k) := by
  unfold State.tamperEvent
  try dsimp only
  repeat'
    first
    | with_reducible apply State.Changes.refl
    | exact rfl
    | with_reducible apply State.Changes.step (k := State.tamperGive_changes _ _)
    | split

theorem State.tamperStatW_changes (s : State) (x : W32) :
    State.Changes [.vault] s (State.tamperStatW s x) := by
  unfold State.tamperStatW
  try dsimp only
  repeat'
    first
    | with_reducible apply State.Changes.refl
    | exact rfl
    | with_reducible apply State.Changes.step (k := State.modVault_changes _ _)

theorem State.tamperCfgW_changes (s : State) (x : W32) :
    State.Changes [.key, .power, .bat, .seqs, .mem, .sec, .vault] s (State.tamperCfgW s x) := by
  unfold State.tamperCfgW
  try dsimp only
  repeat'
    first
    | with_reducible apply State.Changes.refl
    | exact rfl
    | with_reducible apply State.Changes.foldl
    | with_reducible apply State.Changes.step (k := State.modTamper_changes _ _ _)
    | with_reducible apply State.Changes.step (k := State.tamperGive_changes _ _)
    | with_reducible apply State.Changes.step (k := State.modVault_changes _ _)
    | intro _
    | split

theorem State.csLockSet_changes (s : State) (v : W32) :
    State.Changes [.sec] s (State.csLockSet s v) := by
  unfold State.csLockSet
  try dsimp only
  repeat'
    first
    | with_reducible apply State.Changes.refl
    | exact rfl
    | with_reducible apply State.Changes.step (k := State.modSec_changes _ _)


theorem State.cwDone_changes (s : State) (r : Nat) :
    State.Changes [.cw] s (State.cwDone s r) := by
  unfold State.cwDone
  try dsimp only
  repeat'
    first
    | with_reducible apply State.Changes.refl
    | exact rfl
    | dsimp only
    | with_reducible apply State.Changes.step (k := State.modCw_changes _ _ ?_)
    | (intro _ h; exact h)

theorem State.cwPush_changes (s : State) (l : List (BitVec 16)) (k : s.cw.rsp.length + l.length ≤ 8) :
    State.Changes [.cw] s (State.cwPush s l) :=
  (State.Changes.refl _ s).cw rfl fun _ => by simpa using k

theorem State.cwChannel_changes {L : List Part} (s : State) (c : Fin 256) (f : State → State)
    (nc : L.contains .chans = true) (nw : L.contains .cw = true) (k : ∀ z, State.Changes L z (f z)) :
    State.Changes L s (State.cwChannel s c f) := by
  have w : ∀ z (l : List Part), l = [.chans] ∨ l = [.cw] → ∀ t, State.Changes l z t → State.Changes L z t := by
    rintro z _ (rfl | rfl) t h <;> exact h.mono (by simp_all)
  unfold State.cwChannel
  extract_lets was s1 ign
  have h1 : State.Changes L s s1 := (w _ _ (.inl rfl) _ (State.modChan_changes _ _ _)).trans (k _)
  clear_value s1 ign
  exact (h1.trans (w _ _ (.inl rfl) _ (State.modChan_changes _ _ _))).trans (w _ _ (.inr rfl) _ (State.cwDone_changes _ _))

theorem State.cwDone_rsp (s : State) (r : Nat) : (s.cwDone r).cw.rsp = s.cw.rsp := rfl

theorem State.cwChannel_rsp (s : State) (c : Fin 256) (f : State → State) (k : ∀ z, (f z).cw = z.cw) :
    (State.cwChannel s c f).cw.rsp = s.cw.rsp := by
  have h := congrArg Carnelian.rsp (k (s.modChan c fun x => { x with cmdIgn := false }))
  exact h

theorem State.cwDescRead_changes (s : State) (c : Fin 256) (w : Nat) :
    State.Changes [.mem, .free] s (State.cwDescRead s c w).2 := by
  unfold State.cwDescRead
  try dsimp only
  repeat'
    first
    | with_reducible apply State.Changes.refl
    | exact rfl
    | dsimp only
    | with_reducible apply State.Changes.step (k := State.draw_changes _)
    | with_reducible apply State.Changes.step (k := State.memRead_changes _ _ _ _)
    | split

theorem State.cwEffect_changes (s : State) (k : CwCmd) (room : s.cw.rsp.length + cwEntries k.op.toNat ≤ 8) :
    State.Changes [.power, .chans, .seqs, .pool, .mem, .sn, .eic, .dbg, .cw, .free] s (State.cwEffect s k) := by
  unfold State.cwEffect
  extract_lets c s2 w
  split <;> rename_i hop <;> try rw [hop] at room
  · have h1 : State.Changes [.power, .chans, .seqs, .pool, .mem, .sn, .eic, .dbg, .cw, .free] s s2 := State.cwChannel_changes _ _ _ rfl rfl fun z => (State.chStart_changes z _ _).mono rfl
    have e : s2.cw.rsp = s.cw.rsp := State.cwChannel_rsp _ _ _ fun z => (State.chStart_changes z _ _).same .cw rfl
    clear_value s2
    exact h1.step (State.cwPush_changes _ _ (by rw [e]; exact room)) rfl
  · exact State.cwChannel_changes _ _ _ rfl rfl fun z => (State.chStop_changes z _ _).mono rfl
  · refine State.cwChannel_changes _ _ _ rfl rfl fun z => ?_
    split
    · exact (State.chAbort_changes z _).mono rfl
    · exact (State.chStop_changes z _ _).mono rfl
  · exact State.cwChannel_changes _ _ _ rfl rfl fun z => (State.chResume_changes z _ _).mono rfl
  · exact State.cwChannel_changes _ _ _ rfl rfl fun z => (State.chDiscard_changes z _).mono rfl
  · exact State.cwChannel_changes _ _ _ rfl rfl fun z => (State.chFlush_changes z _).mono rfl
  · exact State.cwChannel_changes _ _ _ rfl rfl fun z => (State.chNote_changes z _).mono rfl
  · split
    · exact ((((State.Changes.refl [.power, .chans, .seqs, .pool, .mem, .sn, .eic, .dbg, .cw, .free] s).free rfl (v := s.free + 1)).step (State.cwPush_changes _ _ (by exact room)) rfl)
        |>.step (State.cwDone_changes _ _) rfl)
    split
    rename_i s1 r e
    have k1 := State.postPlain_changes s c k.mb k.arg
    rw [e] at k1
    have e1 : s1.cw = s.cw := k1.same .cw rfl
    exact ((k1.mono rfl).step (State.cwPush_changes _ _ (by rw [e1]; exact room)) rfl).step (State.cwDone_changes _ _) rfl
  · exact ((State.cwPush_changes s (halves16 _) room).mono rfl).step (State.cwDone_changes _ _) rfl
  · exact ((State.cwPush_changes s (halves16 _) room).mono rfl).step (State.cwDone_changes _ _) rfl
  · split
    rename_i v s1 e
    have k1 := State.cwDescRead_changes s c k.param.toNat
    rw [e] at k1
    have e1 : s1.cw = s.cw := k1.same .cw rfl
    exact ((k1.mono rfl).step (State.cwPush_changes _ _ (by rw [e1]; exact room)) rfl).step (State.cwDone_changes _ _) rfl
  · split
    · exact (State.cwDone_changes _ _).mono rfl
    · split
      · exact (State.cwDone_changes _ _).mono rfl
      · exact ((State.memWrite_changes _ _ _ _ _).mono rfl).step (State.cwDone_changes _ _) rfl
  · exact (State.cwDone_changes _ _).mono rfl

theorem State.cwRun_changes (s : State) (k : CwCmd) :
    State.Changes [.power, .chans, .seqs, .pool, .mem, .sn, .eic, .dbg, .cw, .free] s (State.cwRun s k) := by
  unfold State.cwRun
  split
  · exact (State.cwDone_changes _ _).mono rfl
  · split
    · exact (State.cwDone_changes _ _).mono rfl
    · split
      · exact (State.cwDone_changes _ _).mono rfl
      · rename_i h _
        exact State.cwEffect_changes s k (by omega)

theorem State.cwNote_changes (s : State) (c : Fin 256) (v : Bool) :
    State.Changes [.chans] s (State.cwNote s c v) := by
  unfold State.cwNote
  try dsimp only
  repeat'
    first
    | with_reducible apply State.Changes.refl
    | exact rfl
    | with_reducible apply State.Changes.step (k := State.modChan_changes _ _ _)

theorem State.cwExecute_changes (s : State) :
    State.Changes [.power, .chans, .seqs, .pool, .mem, .sn, .eic, .dbg, .cw, .free] s (State.cwExecute s) := by
  unfold State.cwExecute
  try dsimp only
  repeat'
    first
    | with_reducible apply State.Changes.refl
    | exact rfl
    | with_reducible apply State.Changes.step (k := State.cwRun_changes _ _)
    | split

theorem State.cwLow_changes (s : State) (op : Byte) (param : Byte) (sec : Bool) :
    State.Changes [.power, .chans, .seqs, .pool, .mem, .sn, .eic, .dbg, .cw, .free] s (State.cwLow s op param sec) := by
  unfold State.cwLow
  try dsimp only
  repeat'
    first
    | with_reducible apply State.Changes.refl
    | exact rfl
    | dsimp only
    | with_reducible apply State.Changes.step (k := State.cwNote_changes _ _ _)
    | with_reducible apply State.Changes.step (k := State.cwExecute_changes _)
    | with_reducible apply State.Changes.step (k := State.cwDone_changes _ _)
    | with_reducible apply State.Changes.step (k := State.modCw_changes _ _ ?_)
    | (intro _ h; exact h)
    | split

theorem State.cwHigh_changes (s : State) (v : BitVec 16) :
    State.Changes [.cw] s (State.cwHigh s v) := by
  unfold State.cwHigh
  try dsimp only
  repeat'
    first
    | with_reducible apply State.Changes.refl
    | exact rfl
    | dsimp only
    | with_reducible apply State.Changes.step (k := State.modCw_changes _ _ ?_)
    | (intro _ h; exact h)

theorem State.cwCancel_changes (s : State) :
    State.Changes [.chans, .cw] s (State.cwCancel s) := by
  unfold State.cwCancel
  try dsimp only
  repeat'
    first
    | with_reducible apply State.Changes.refl
    | exact rfl
    | with_reducible apply State.Changes.step (k := State.cwNote_changes _ _ _)
    | with_reducible apply State.Changes.step (k := State.cwDone_changes _ _)
    | split

theorem State.cwFlush_changes (s : State) :
    State.Changes [.cw] s (State.cwFlush s) := by
  unfold State.cwFlush
  try dsimp only
  repeat'
    first
    | with_reducible apply State.Changes.refl
    | exact rfl
    | dsimp only
    | with_reducible apply State.Changes.step (k := State.modCw_changes _ _ ?_)
    | (intro _ h; simpa using h)

theorem State.cwCtrl_changes (s : State) (v : BitVec 16) :
    State.Changes [.chans, .cw] s (State.cwCtrl s v) := by
  unfold State.cwCtrl
  try dsimp only
  repeat'
    first
    | with_reducible apply State.Changes.refl
    | exact rfl
    | with_reducible apply State.Changes.step (k := State.cwFlush_changes _)
    | with_reducible apply State.Changes.step (k := State.cwCancel_changes _)
    | split

theorem State.cwEnable_changes (s : State) (v : W32) :
    State.Changes [.chans, .cw] s (State.cwEnable s v) := by
  unfold State.cwEnable
  try dsimp only
  repeat'
    first
    | with_reducible apply State.Changes.refl
    | exact rfl
    | dsimp only
    | with_reducible apply State.Changes.step (k := State.cwCancel_changes _)
    | with_reducible apply State.Changes.step (k := State.modCw_changes _ _ ?_)
    | (intro _ h; exact h)
    | split

theorem State.cwStatRead_changes (s : State) (hw : Bool) :
    State.Changes [.cw] s (State.cwStatRead s hw).2 := by
  unfold State.cwStatRead
  try dsimp only
  repeat'
    first
    | with_reducible apply State.Changes.refl
    | exact rfl
    | dsimp only
    | with_reducible apply State.Changes.step (k := State.modCw_changes _ _ ?_)
    | (intro _ h; exact h)
    | split

theorem State.cwStatW_changes (s : State) (v : BitVec 16) :
    State.Changes [.cw] s (State.cwStatW s v) := by
  unfold State.cwStatW
  try dsimp only
  repeat'
    first
    | with_reducible apply State.Changes.refl
    | exact rfl
    | dsimp only
    | with_reducible apply State.Changes.step (k := State.modCw_changes _ _ ?_)
    | (intro _ h; exact h)

theorem State.cwPop_changes (s : State) : State.Changes [.cw] s (State.cwPop s).2 := by
  unfold State.cwPop
  split
  · dsimp only; refine State.modCw_changes _ _ ?_; exact fun _ h => h
  · rename_i x r e
    refine (State.Changes.refl _ s).cw rfl fun h => ?_
    rw [e] at h
    exact Nat.le_of_succ_le h

theorem State.cwRspPush_changes (s : State) (v : BitVec 16) : State.Changes [.cw] s (State.cwRspPush s v) := by
  unfold State.cwRspPush
  split
  · exact State.modCw_changes _ _ fun _ h => h
  · exact State.cwPush_changes _ _ (by simp; omega)


end Sys2Proof.Machine
end

