-- ==== Sys2Proof/Laws/ChangesAccess.lean ====
section
/-! SUPPORT. What each operation can change: register accesses, the host port and the transfer engine. -/

namespace Sys2Proof.Machine

theorem State.refused_changes (s : State) (wr : Bool) (a : Nat) (c : Cause) :
    State.Changes [.power, .cs] s (State.refused s wr a c) := by
  unfold State.refused
  try dsimp only
  repeat'
    first
    | with_reducible apply State.Changes.refl
    | exact rfl
    | with_reducible apply State.Changes.step (k := State.csWrErr_changes _)
    | with_reducible apply State.Changes.step (k := State.guardRefused_changes _)
    | split

theorem State.memLoad_changes (s : State) (req : Nat) (a : Nat) (n : Nat) :
    State.Changes [.mem, .free] s (State.memLoad s req a n).2 := by
  unfold State.memLoad
  dsimp -zeta only [← State.set_mem_free_eq, ← State.set_free_eq, ← State.set_mem_eq]
  try dsimp only
  repeat'
    first
    | with_reducible apply State.Changes.refl
    | exact rfl
    | dsimp only
    | with_reducible apply State.Changes.free
    | with_reducible apply State.Changes.mem
    | with_reducible apply State.Changes.step (k := State.memRead_changes _ _ _ _)
    | exact fun h => (Memory.wf_congr (Mem.check_cells _ _ _)).trans h
    | split

theorem State.rdGl_changes (s : State) (hw : Bool) (a : Nat) :
    State.Changes [.cw] s (State.rdGl s hw a).2 := by
  unfold State.rdGl
  try dsimp only
  repeat'
    first
    | with_reducible apply State.Changes.refl
    | exact rfl
    | dsimp only
    | with_reducible apply State.Changes.step (k := State.cwPop_changes _)
    | with_reducible apply State.Changes.step (k := State.cwStatRead_changes _ _)
    | split

theorem State.rdEic_changes (s : State) (o : Nat) :
    State.Changes [.power, .eic, .dbg] s (State.rdEic s o).2 := by
  unfold State.rdEic
  try dsimp only
  repeat'
    first
    | with_reducible apply State.Changes.refl
    | exact rfl
    | dsimp only
    | with_reducible apply State.Changes.step (k := State.complete_changes _ _ _)
    | with_reducible apply State.Changes.step (k := State.claim_changes _ _)
    | split

theorem State.rdBt_changes (s : State) (w : Master) (o : Nat) :
    State.Changes [.beryl] s (State.rdBt s w o).2 := by
  unfold State.rdBt
  try dsimp only
  repeat'
    first
    | with_reducible apply State.Changes.refl
    | exact rfl
    | with_reducible apply State.Changes.step (k := State.nowLoRead_changes _ _ _)
    | split

theorem State.rdTa_changes (s : State) (w : Master) (o : Nat) :
    State.Changes [.ta] s (State.rdTa s w o).2 := by
  unfold State.rdTa
  try dsimp only
  repeat'
    first
    | with_reducible apply State.Changes.refl
    | exact rfl
    | with_reducible apply State.Changes.step (k := State.taCntRead_changes _ _ _)
    | split

theorem State.rdPe_changes (s : State) (o : Nat) :
    State.Changes [.engines] s (State.rdPe s o).2 := by
  unfold State.rdPe
  try dsimp only
  repeat'
    first
    | with_reducible apply State.Changes.refl
    | exact rfl
    | with_reducible apply State.Changes.step (k := State.faccPop_changes _ _)
    | split

theorem State.rdSf_changes (s : State) (o : Nat) :
    State.Changes [.streams] s (State.rdSf s o).2 := by
  unfold State.rdSf
  try dsimp only
  repeat'
    first
    | with_reducible apply State.Changes.refl
    | exact rfl
    | with_reducible apply State.Changes.step (k := State.sfCplPop_changes _ _)
    | split

theorem State.rdSq_changes (s : State) (o : Nat) :
    State.Changes [.pool] s (State.rdSq s o).2 := by
  unfold State.rdSq
  dsimp -zeta only [← State.set_pool_eq]
  try dsimp only
  repeat'
    first
    | with_reducible apply State.Changes.refl
    | exact rfl
    | dsimp only
    | with_reducible apply State.Changes.pool
    | split

theorem State.regUnc_changes (s : State) (req : Option Nat) (a : Nat) :
    State.Changes [.chans, .seqs, .mem, .free] s (State.regUnc s req a) := by
  unfold State.regUnc
  try dsimp only
  repeat'
    first
    | with_reducible apply State.Changes.refl
    | exact rfl
    | with_reducible apply State.Changes.step (k := State.arrayUnc_changes _ _ _)
    | with_reducible apply State.Changes.step (k := State.breachOf_changes _ _ _)

theorem State.regRead_changes (s : State) (q : Req) (a : Nat) :
    State.Changes [.beryl, .power, .pool, .engines, .streams, .ta, .eic, .dbg, .cw] s (State.regRead s q a).2 := by
  unfold State.regRead
  try dsimp only
  repeat'
    first
    | with_reducible apply State.Changes.refl
    | exact rfl
    | with_reducible apply State.Changes.step (k := State.rdSq_changes _ _)
    | with_reducible apply State.Changes.step (k := State.rdSf_changes _ _)
    | with_reducible apply State.Changes.step (k := State.rdPe_changes _ _)
    | with_reducible apply State.Changes.step (k := State.rdTa_changes _ _ _)
    | with_reducible apply State.Changes.step (k := State.rdBt_changes _ _ _)
    | with_reducible apply State.Changes.step (k := State.rdEic_changes _ _)
    | with_reducible apply State.Changes.step (k := State.rdGl_changes _ _ _)
    | split

theorem State.modXf_changes (s : State) (f : Xfer → Xfer) :
    State.Changes [.xf] s (State.modXf s f) := by
  unfold State.modXf
  dsimp -zeta only [← State.set_xf_eq]
  try dsimp only
  repeat'
    first
    | with_reducible apply State.Changes.refl
    | exact rfl
    | with_reducible apply State.Changes.xf

theorem State.xfEnable_changes (s : State) :
    State.Changes [.xf] s (State.xfEnable s) := by
  unfold State.xfEnable
  try dsimp only
  repeat'
    first
    | with_reducible apply State.Changes.refl
    | exact rfl
    | with_reducible apply State.Changes.step (k := State.modXf_changes _ _)

theorem State.xfGo_changes (s : State) (dir : Bool) :
    State.Changes [.xf] s (State.xfGo s dir) := by
  unfold State.xfGo
  try dsimp only
  repeat'
    first
    | with_reducible apply State.Changes.refl
    | exact rfl
    | with_reducible apply State.Changes.step (k := State.modXf_changes _ _)

theorem State.xfDisable_changes (s : State) (abort : Bool) :
    State.Changes [.xf] s (State.xfDisable s abort) := by
  unfold State.xfDisable
  try dsimp only
  repeat'
    first
    | with_reducible apply State.Changes.refl
    | exact rfl
    | with_reducible apply State.Changes.step (k := State.modXf_changes _ _)

theorem State.xfCtrl_changes (s : State) (v : W32) :
    State.Changes [.xf] s (State.xfCtrl s v) := by
  unfold State.xfCtrl
  try dsimp only
  repeat'
    first
    | with_reducible apply State.Changes.refl
    | exact rfl
    | with_reducible apply State.Changes.step (k := State.xfDisable_changes _ _)
    | with_reducible apply State.Changes.step (k := State.xfGo_changes _ _)
    | with_reducible apply State.Changes.step (k := State.xfEnable_changes _)
    | with_reducible apply State.Changes.step (k := State.modXf_changes _ _)
    | split

theorem State.xfDoneClear_changes (s : State) :
    State.Changes [.xf] s (State.xfDoneClear s) := by
  unfold State.xfDoneClear
  try dsimp only
  repeat'
    first
    | with_reducible apply State.Changes.refl
    | exact rfl
    | with_reducible apply State.Changes.step (k := State.modXf_changes _ _)

theorem State.xfRead_changes (s : State) (a : Nat) :
    State.Changes [.mem, .free] s (State.xfRead s a).2 := by
  unfold State.xfRead
  try dsimp only
  repeat'
    first
    | with_reducible apply State.Changes.refl
    | exact rfl
    | with_reducible apply State.Changes.step (k := State.memLoad_changes _ _ _ _)
    | split

theorem State.xfFetch_changes (s : State) (a : Nat) (n : Nat) :
    State.Changes [.mem, .free] s (State.xfFetch s a n).2 := by
  induction n generalizing s a with
  | zero => exact .refl _ _
  | succ n ih =>
    have k := State.xfRead_changes s a
    unfold State.xfFetch
    split <;> rename_i e <;> rw [e] at k
    · exact k
    · exact k.trans (ih _ _)

theorem State.xfBeats_changes (s : State) (k : Nat) :
    State.Changes [.xf] s (State.xfBeats s k) := by
  unfold State.xfBeats
  try dsimp only
  repeat'
    first
    | with_reducible apply State.Changes.refl
    | exact rfl
    | with_reducible apply State.Changes.step (k := State.modXf_changes _ _)
    | split

theorem State.xfIssue_changes (s : State) (tag : Fin 8) :
    State.Changes [.xf, .mem, .free] s (State.xfIssue s tag) := by
  unfold State.xfIssue
  dsimp only
  split
  · have h : State.Changes [.xf, .mem, .free] s (if s.xf.ldir then s.xfFetch (s.xf.lblk + s.xf.next) s.xf.beats else (some [], s)).2 := by
      split
      · exact (State.xfFetch_changes _ _ _).mono rfl
      · exact .refl _ _
    split <;> rename_i e <;> rw [e] at h <;> exact h.step (State.modXf_changes _ _) rfl
  · exact .refl _ _

theorem State.xfStore_changes (s : State) (a : Nat) (v : W64) :
    State.Changes [.power, .seqs, .mem, .cs] s (State.xfStore s a v) := by
  unfold State.xfStore
  try dsimp only
  repeat'
    first
    | with_reducible apply State.Changes.refl
    | exact rfl
    | with_reducible apply State.Changes.step (k := State.memWrite_changes _ _ _ _ _)
    | with_reducible apply State.Changes.step (k := State.refused_changes _ _ _ _)
    | split

theorem State.xfResponse_changes (s0 : State) (tag : Fin 8) (status : Nat) (data : W64) (last : Bool) :
    State.Changes [.xf, .power, .seqs, .mem, .cs] s0 (State.xfResponse s0 tag status data last) := by
  unfold State.xfResponse
  try dsimp only
  repeat'
    first
    | with_reducible apply State.Changes.refl
    | exact rfl
    | with_reducible apply State.Changes.step (k := State.xfStore_changes _ _ _)
    | with_reducible apply State.Changes.step (k := State.modXf_changes _ _)
    | split

theorem State.xfTimeout_changes (s : State) :
    State.Changes [.xf] s (State.xfTimeout s) := by
  unfold State.xfTimeout
  try dsimp only
  repeat'
    first
    | with_reducible apply State.Changes.refl
    | exact rfl
    | with_reducible apply State.Changes.step (k := State.modXf_changes _ _)
    | split

theorem State.xfReg_changes (s : State) (o : Nat) (v : W32) :
    State.Changes [.xf] s (State.xfReg s o v) := by
  unfold State.xfReg
  try dsimp only
  repeat'
    first
    | with_reducible apply State.Changes.refl
    | exact rfl
    | with_reducible apply State.Changes.step (k := State.modXf_changes _ _)

theorem State.initiatorReset_changes (s : State) (v : Bool) :
    State.Changes [.hp, .xf] s (State.initiatorReset s v) := by
  unfold State.initiatorReset
  have h : State.Changes [.hp, .xf] s { s with hp := { s.hp with hiRstN := v } } := (State.Changes.refl _ s).hp rfl (Nat.le_refl _)
  exact h.step (State.modXf_changes _ _) rfl

theorem State.wrGl_changes (s : State) (q : Req) (a : Nat) (v : W32) :
    State.Changes [.power, .chans, .seqs, .pool, .mem, .sn, .eic, .dbg, .cw, .free] s (State.wrGl s q a v) := by
  unfold State.wrGl
  try dsimp only
  repeat'
    first
    | with_reducible apply State.Changes.refl
    | exact rfl
    | dsimp only
    | with_reducible apply State.Changes.step (k := State.cwCtrl_changes _ _)
    | with_reducible apply State.Changes.step (k := State.cwRspPush_changes _ _)
    | with_reducible apply State.Changes.step (k := State.cwStatW_changes _ _)
    | with_reducible apply State.Changes.step (k := State.modCw_changes _ _ ?_)
    | with_reducible apply State.Changes.step (k := State.cwLow_changes _ _ _ _)
    | with_reducible apply State.Changes.step (k := State.cwHigh_changes _ _)
    | with_reducible apply State.Changes.step (k := State.cwEnable_changes _ _)
    | (intro _ h; exact h)
    | split

theorem State.hpErrClear_changes (s : State) :
    State.Changes [.hp] s (State.hpErrClear s) := by
  unfold State.hpErrClear
  dsimp -zeta only [← State.set_hp_eq]
  try dsimp only
  repeat'
    first
    | with_reducible apply State.Changes.refl
    | exact rfl
    | dsimp only
    | with_reducible apply State.Changes.hp
    | exact Nat.le_refl _

theorem State.wrHp_changes (s : State) (o : Nat) (v : W32) :
    State.Changes [.hp, .xf] s (State.wrHp s o v) := by
  unfold State.wrHp
  try dsimp only
  repeat'
    first
    | with_reducible apply State.Changes.refl
    | exact rfl
    | with_reducible apply State.Changes.step (k := State.xfReg_changes _ _ _)
    | with_reducible apply State.Changes.step (k := State.xfDoneClear_changes _)
    | with_reducible apply State.Changes.step (k := State.xfCtrl_changes _ _)
    | with_reducible apply State.Changes.step (k := State.hpErrClear_changes _)
    | split

theorem State.gaspReg_changes (s : State) (o : Nat) (v : W32) :
    State.Changes [.power] s (State.gaspReg s o v) := by
  unfold State.gaspReg
  try dsimp only
  repeat'
    first
    | with_reducible apply State.Changes.refl
    | exact rfl
    | with_reducible apply State.Changes.step (k := State.modPw_changes _ _)

theorem State.wrPw_changes (s : State) (o : Nat) (v : W32) :
    State.Changes [.lanes, .power, .chans, .seqs, .ibufs, .engines, .groups, .streams, .crcs, .bss, .lcs, .gds, .abs_, .ta, .eic, .cs, .dbg] s (State.wrPw s o v) := by
  unfold State.wrPw
  try dsimp only
  repeat'
    first
    | with_reducible apply State.Changes.refl
    | exact rfl
    | with_reducible apply State.Changes.step (k := State.gaspStatW_changes _ _)
    | with_reducible apply State.Changes.step (k := State.canaryMinW_changes _ _)
    | with_reducible apply State.Changes.step (k := State.leaseStatW_changes _ _)
    | with_reducible apply State.Changes.step (k := State.leaseClaim_changes _ _ _)
    | with_reducible apply State.Changes.step (k := State.supStatW_changes _ _)
    | with_reducible apply State.Changes.step (k := State.supCfg_changes _ _)
    | with_reducible apply State.Changes.step (k := State.modPw_changes _ _)
    | with_reducible apply State.Changes.step (k := State.gaspReg_changes _ _ _)
    | with_reducible apply State.Changes.step (k := State.halfStatW_changes _ _ _)
    | with_reducible apply State.Changes.step (k := State.halfCtrl_changes _ _ _)
    | with_reducible apply State.Changes.step (k := State.modHalf_changes _ _ _)
    | split

theorem State.wrSec_changes (s : State) (o : Nat) (v : W32) :
    State.Changes [.key, .power, .chans, .seqs, .mem, .cs, .sec] s (State.wrSec s o v) := by
  unfold State.wrSec
  try dsimp only
  repeat'
    first
    | with_reducible apply State.Changes.refl
    | exact rfl
    | with_reducible apply State.Changes.step (k := State.modLd_changes _ _)
    | with_reducible apply State.Changes.step (k := State.ldFeed_changes _ _)
    | with_reducible apply State.Changes.step (k := State.ldCtrl_changes _ _)
    | with_reducible apply State.Changes.step (k := State.lcRequest_changes _ _)
    | with_reducible apply State.Changes.step (k := State.csLockSet_changes _ _)
    | with_reducible apply State.Changes.step (k := State.modSec_changes _ _)
    | with_reducible apply State.Changes.step (k := State.ldWindow_changes _ _ _ _)
    | split

theorem State.bbData_changes (s : State) (i : Fin 64) (v : W32) :
    State.Changes [.bat] s (State.bbData s i v) := by
  unfold State.bbData
  dsimp -zeta only [← State.set_bat_eq]
  try dsimp only
  repeat'
    first
    | with_reducible apply State.Changes.refl
    | exact rfl
    | with_reducible apply State.Changes.bat

theorem State.wrBb_changes (s : State) (o : Nat) (v : W32) :
    State.Changes [.key, .power, .bat, .seqs, .mem, .sec, .vault] s (State.wrBb s o v) := by
  unfold State.wrBb
  dsimp -zeta only [← State.set_bat_eq]
  try dsimp only
  repeat'
    first
    | with_reducible apply State.Changes.refl
    | exact rfl
    | with_reducible apply State.Changes.bat
    | with_reducible apply State.Changes.step (k := State.tamperStatW_changes _ _)
    | with_reducible apply State.Changes.step (k := State.tamperCfgW_changes _ _)
    | with_reducible apply State.Changes.step (k := State.bbData_changes _ _ _)
    | split

theorem State.wrMem_changes (s : State) (q : Req) (o : Nat) (v : W32) :
    State.Changes [.seqs, .mem] s (State.wrMem s q o v) := by
  unfold State.wrMem
  try dsimp only
  repeat'
    first
    | with_reducible apply State.Changes.refl
    | exact rfl
    | with_reducible apply State.Changes.step (k := State.agLockSet_changes _ _)
    | with_reducible apply State.Changes.step (k := State.agWipe_changes _ _)
    | with_reducible apply State.Changes.step (k := State.bistStatW_changes _ _)
    | with_reducible apply State.Changes.step (k := State.collRearm_changes _ _)
    | with_reducible apply State.Changes.step (k := State.uncRearm_changes _ _)
    | with_reducible apply State.Changes.step (k := State.modMem_changes _ _ ?_)
    | (intro _ h; exact h)
    | split

theorem State.wrEic_changes (s : State) (o : Nat) (v : W32) :
    State.Changes [.power, .eic, .dbg] s (State.wrEic s o v) := by
  unfold State.wrEic
  try dsimp only
  repeat'
    first
    | with_reducible apply State.Changes.refl
    | exact rfl
    | with_reducible apply State.Changes.step (k := State.clrPend_changes _ _)
    | with_reducible apply State.Changes.step (k := State.setPend_changes _ _)
    | with_reducible apply State.Changes.step (k := State.modEic_changes _ _)
    | with_reducible apply State.Changes.step (k := State.targetThr_changes _ _ _)
    | with_reducible apply State.Changes.step (k := State.targetCfg_changes _ _ _ _)
    | with_reducible apply State.Changes.step (k := State.modCfg_changes _ _ _)
    | with_reducible apply State.Changes.step (k := State.orphW_changes _ _ _)
    | with_reducible apply State.Changes.step (k := State.srcWrite_changes _ _ _)
    | split

theorem State.wrBt_changes (s : State) (w : Master) (o : Nat) (v : W32) :
    State.Changes [.beryl, .lanes, .xf, .key, .power, .chans, .seqs, .engines, .gds, .abs_, .sn, .ta, .vault, .dbg] s (State.wrBt s w o v) := by
  unfold State.wrBt
  try dsimp only
  repeat'
    first
    | with_reducible apply State.Changes.refl
    | exact rfl
    | with_reducible apply State.Changes.step (k := State.conversion_changes _ _)
    | with_reducible apply State.Changes.step (k := State.btCtrl_changes _ _)
    | with_reducible apply State.Changes.step (k := State.modBeryl_changes _ _)
    | with_reducible apply State.Changes.step (k := State.tdCmd_changes _ _ _ _)
    | with_reducible apply State.Changes.step (k := State.modDom_changes _ _ _)
    | split

theorem State.wrTa_changes (s : State) (o : Nat) (v : W32) :
    State.Changes [.lanes, .power, .chans, .seqs, .ibufs, .engines, .groups, .streams, .crcs, .bss, .lcs, .gds, .abs_, .sn, .ta, .eic, .cs, .dbg] s (State.wrTa s o v) := by
  unfold State.wrTa
  try dsimp only
  repeat'
    first
    | with_reducible apply State.Changes.refl
    | exact rfl
    | with_reducible apply State.Changes.step (k := State.stagCtrl_changes _ _)
    | with_reducible apply State.Changes.step (k := State.taSnap_changes _)
    | with_reducible apply State.Changes.step (k := State.modTa_changes _ _)
    | with_reducible apply State.Changes.step (k := State.wdReg_changes _ _ _)
    | with_reducible apply State.Changes.step (k := State.wdStatW_changes _ _ _)
    | with_reducible apply State.Changes.step (k := State.wdKick_changes _ _ _)
    | with_reducible apply State.Changes.step (k := State.wdCfg_changes _ _ _)
    | with_reducible apply State.Changes.step (k := State.cpStatW_changes _ _ _)
    | with_reducible apply State.Changes.step (k := State.cpCfg_changes _ _ _)
    | with_reducible apply State.Changes.step (k := State.acReg_changes _ _ _)
    | with_reducible apply State.Changes.step (k := State.acStatW_changes _ _ _)
    | with_reducible apply State.Changes.step (k := State.acCtrl_changes _ _ _)
    | with_reducible apply State.Changes.step (k := State.acCfg_changes _ _ _)
    | with_reducible apply State.Changes.step (k := State.modTimer_changes _ _ _)
    | with_reducible apply State.Changes.step (k := State.taLim_changes _ _ _)
    | with_reducible apply State.Changes.step (k := State.taCnt_changes _ _ _)
    | with_reducible apply State.Changes.step (k := State.taStatW_changes _ _ _)
    | with_reducible apply State.Changes.step (k := State.taCtrl_changes _ _ _)
    | with_reducible apply State.Changes.step (k := State.taCfg_changes _ _ _)
    | split

theorem State.wrSn_changes (s : State) (o : Nat) (v : W32) :
    State.Changes [.sn] s (State.wrSn s o v) := by
  unfold State.wrSn
  try dsimp only
  repeat'
    first
    | with_reducible apply State.Changes.refl
    | exact rfl
    | dsimp only
    | with_reducible apply State.Changes.step (k := State.modSn_changes _ _ ?_)
    | with_reducible apply State.Changes.step (k := State.groupSwitch_changes _ _)
    | with_reducible apply State.Changes.step (k := State.fire_changes _ _)
    | with_reducible apply State.Changes.step (k := State.snStatW_changes _ _)
    | with_reducible apply State.Changes.step (k := State.snCfg_changes _ _)
    | with_reducible apply State.Changes.step (k := State.snOvfW_changes _ _ _)
    | with_reducible apply State.Changes.step (k := State.subWrite_changes _ _ _)
    | with_reducible apply State.Changes.step (k := State.snExpW_changes _ _ _)
    | with_reducible apply State.Changes.step (k := State.lutClear_changes _ _)
    | with_reducible apply State.Changes.step (k := State.lutFilt_changes _ _ _)
    | with_reducible apply State.Changes.step (k := State.lutCfg_changes _ _ _)
    | with_reducible apply State.Changes.step (k := State.snChCfg_changes _ _ _)
    | (intro _ h; exact h)
    | split

theorem State.wrLn_changes (s : State) (o : Nat) (v : W32) :
    State.Changes [.lanes, .chans, .seqs, .engines] s (State.wrLn s o v) := by
  unfold State.wrLn
  try dsimp only
  repeat'
    first
    | with_reducible apply State.Changes.refl
    | exact rfl
    | with_reducible apply State.Changes.step (k := State.laneStatW_changes _ _ _)
    | with_reducible apply State.Changes.step (k := State.laneCtrl_changes _ _ _)
    | with_reducible apply State.Changes.step (k := State.laneCfgWrite_changes _ _ _)
    | split

theorem State.wrPe_changes (s : State) (o : Nat) (v : W32) :
    State.Changes [.chans, .seqs, .engines, .groups] s (State.wrPe s o v) := by
  unfold State.wrPe
  dsimp -zeta only [← State.set_groups_eq]
  try dsimp only
  repeat'
    first
    | with_reducible apply State.Changes.refl
    | exact rfl
    | with_reducible apply State.Changes.groups
    | with_reducible apply State.Changes.step (k := State.progWrite_changes _ _ _ _)
    | with_reducible apply State.Changes.step (k := State.inspectWrite_changes _ _ _)
    | with_reducible apply State.Changes.step (k := State.faccPush_changes _ _ _)
    | with_reducible apply State.Changes.step (k := State.modEng_changes _ _ _)
    | with_reducible apply State.Changes.step (k := State.peCfgReg_changes _ _ _)
    | with_reducible apply State.Changes.step (k := State.peStatW_changes _ _ _)
    | with_reducible apply State.Changes.step (k := State.peCtrl_changes _ _ _)
    | with_reducible apply State.Changes.step (k := State.peCfg_changes _ _ _)
    | exact fun i h => Bank.mod_keep (p := fun x : PeGroup => sparseWf 0 x.prog = true) h fun _ g => g
    | split

theorem State.wrSf_changes (s : State) (q : Req) (o : Nat) (v : W32) :
    State.Changes [.chans, .seqs, .mem, .streams, .crcs, .bss, .lcs, .sn] s (State.wrSf s q o v) := by
  unfold State.wrSf
  dsimp -zeta only [← State.set_crcs_bss_lcs_eq, ← State.set_bss_eq, ← State.set_crcs_eq, ← State.set_lcs_eq]
  try dsimp only
  repeat'
    first
    | with_reducible apply State.Changes.refl
    | exact rfl
    | with_reducible apply State.Changes.bss
    | with_reducible apply State.Changes.crcs
    | with_reducible apply State.Changes.lcs
    | with_reducible apply State.Changes.step (k := State.sfCplPush_changes _ _ _)
    | with_reducible apply State.Changes.step (k := State.sfRp_changes _ _ _)
    | with_reducible apply State.Changes.step (k := State.modSf_changes _ _ _)
    | with_reducible apply State.Changes.step (k := State.sfStatW_changes _ _ _)
    | with_reducible apply State.Changes.step (k := State.sfCtrl_changes _ _ _ _)
    | with_reducible apply State.Changes.step (k := State.sfCfg_changes _ _ _)
    | with_reducible apply State.sfUnitWrite_changes
    | split

theorem State.seqEnableW_changes (s : State) (n : Fin 16) (v : W32) :
    State.Changes [.power, .seqs, .eic, .dbg] s (State.seqEnableW s n v) := by
  unfold State.seqEnableW
  try dsimp only
  repeat'
    first
    | with_reducible apply State.Changes.refl
    | exact rfl
    | with_reducible apply State.Changes.step (k := State.modDsq_changes _ _ _)
    | with_reducible apply State.Changes.step (k := State.seqCfg_changes _ _ _)
    | split

theorem State.wrSq_changes (s : State) (o : Nat) (v : W32) :
    State.Changes [.power, .seqs, .ibufs, .pool, .eic, .dbg] s (State.wrSq s o v) := by
  unfold State.wrSq
  dsimp -zeta only [← State.set_ibufs_pool_eq, ← State.set_ibufs_eq, ← State.set_pool_eq]
  try dsimp only
  repeat'
    first
    | with_reducible apply State.Changes.refl
    | exact rfl
    | with_reducible apply State.Changes.ibufs
    | with_reducible apply State.Changes.pool
    | with_reducible apply State.Changes.step (k := State.ibInvalidate_changes _ _)
    | with_reducible apply State.Changes.step (k := State.modSeq_changes _ _ _)
    | with_reducible apply State.Changes.step (k := State.seqEnableW_changes _ _ _)
    | split

theorem State.wrCs_changes (s : State) (o : Nat) (v : W32) :
    State.Changes [.cs, .sec] s (State.wrCs s o v) := by
  unfold State.wrCs
  try dsimp only
  repeat'
    first
    | with_reducible apply State.Changes.refl
    | exact rfl
    | dsimp only
    | with_reducible apply State.Changes.step (k := State.csStatW_changes _ _)
    | with_reducible apply State.Changes.step (k := State.modCs_changes _ _ ?_)
    | with_reducible apply State.Changes.step (k := State.csPmW_changes _ _ _)
    | with_reducible apply State.Changes.step (k := State.csWordW_changes _ _ _)
    | (intro _ h; simpa using h)
    | split

theorem State.wrCh_changes (s : State) (w : Master) (o : Nat) (v : W32) :
    State.Changes [.power, .chans, .posts, .seqs, .pool, .mem, .sn, .eic, .dbg] s (State.wrCh s w o v) := by
  unfold State.wrCh
  dsimp -zeta only [← State.set_posts_eq]
  try dsimp only
  repeat'
    first
    | with_reducible apply State.Changes.refl
    | exact rfl
    | with_reducible apply State.Changes.posts
    | with_reducible apply State.Changes.step (k := State.post_changes _ _ _ _)
    | with_reducible apply State.Changes.step (k := State.chMbxW_changes _ _ _)
    | with_reducible apply State.Changes.step (k := State.chStatW_changes _ _ _)
    | with_reducible apply State.Changes.step (k := State.chCtrl_changes _ _ _ _)
    | split

theorem State.wrGd_changes (s : State) (o : Nat) (v : W32) :
    State.Changes [.chans, .seqs, .gds] s (State.wrGd s o v) := by
  unfold State.wrGd
  try dsimp only
  repeat'
    first
    | with_reducible apply State.Changes.refl
    | exact rfl
    | dsimp only
    | with_reducible apply State.Changes.step (k := State.gdReadmit_changes _ _)
    | with_reducible apply State.Changes.step (k := State.gdBufW_changes _ _ _ _)
    | with_reducible apply State.Changes.step (k := State.gdTableW_changes _ _ _ _)
    | with_reducible apply State.Changes.step (k := State.gdCommit_changes _ _ _)
    | with_reducible apply State.Changes.step (k := State.gdNodeStatW_changes _ _ _)
    | with_reducible apply State.Changes.step (k := State.gdStatW_changes _ _ _)
    | with_reducible apply State.Changes.step (k := State.gdCtrl_changes _ _ _)
    | with_reducible apply State.Changes.step (k := State.gdCfg_changes _ _ _)
    | with_reducible apply State.Changes.step (k := State.gdBstatW_changes _ _ _ _)
    | with_reducible apply State.Changes.step (k := State.gdBrStatW_changes _ _ _ _)
    | exact fun _ => rfl
    | (intro k h; (try dsimp only); (repeat' split) <;> first | with_reducible exact h _ | with_reducible exact k _ | simpa using h _ | simpa using k _ | with_reducible exact Guardian.receive_bufs _ _ _ _ (h _) | with_reducible exact Guardian.receive_bufs _ _ _ _ (k _) | with_reducible exact sparseWf_sparseSet _ _ _ (h _) | exact h _ | exact k _)
    | with_reducible apply State.gdReg_changes
    | with_reducible apply State.Changes.modGd
    | split

theorem State.wrAb_changes (s : State) (o : Nat) (v : W32) :
    State.Changes [.chans, .seqs, .mem, .gds, .abs_, .free] s (State.wrAb s o v) := by
  unfold State.wrAb
  try dsimp only
  repeat'
    first
    | with_reducible apply State.Changes.refl
    | exact rfl
    | dsimp only
    | with_reducible apply State.Changes.step (k := State.abFilterW_changes _ _ _ _)
    | with_reducible apply State.Changes.step (k := State.abTbW_changes _ _ _ _ _)
    | with_reducible apply State.Changes.step (k := State.abTxCan_changes _ _ _)
    | with_reducible apply State.Changes.step (k := State.abTxReq_changes _ _ _)
    | with_reducible apply State.Changes.step (k := State.abStatW_changes _ _ _)
    | with_reducible apply State.Changes.step (k := State.abCtrl_changes _ _ _)
    | with_reducible apply State.Changes.step (k := State.abCfg_changes _ _ _)
    | exact fun _ => rfl
    | (intro k h; (try dsimp only); (repeat' split) <;> first | with_reducible exact h _ | with_reducible exact k _ | simpa using h _ | simpa using k _ | with_reducible exact Guardian.receive_bufs _ _ _ _ (h _) | with_reducible exact Guardian.receive_bufs _ _ _ _ (k _) | with_reducible exact sparseWf_sparseSet _ _ _ (h _) | exact h _ | exact k _)
    | with_reducible apply State.abReg_changes
    | with_reducible apply State.Changes.modAb
    | split

theorem State.wrDbg_changes (s : State) (w : Master) (a : Nat) (v : W32) :
    State.Changes [.power, .chans, .seqs, .mem, .ta, .eic, .dbg] s (State.wrDbg s w a v) := by
  unfold State.wrDbg
  try dsimp only
  repeat'
    first
    | with_reducible apply State.Changes.refl
    | exact rfl
    | with_reducible apply State.Changes.step (k := State.stim_changes _ _ _)
    | with_reducible apply State.Changes.step (k := State.allowWrite_changes _ _)
    | split

theorem State.regWrite_changes (s : State) (q : Req) (a : Nat) (v : W32) :
    State.Changes [.beryl, .lanes, .hp, .xf, .key, .power, .bat, .chans, .posts, .seqs, .ibufs, .pool, .mem, .engines, .groups, .streams, .crcs, .bss, .lcs, .gds, .abs_, .sn, .ta, .eic, .cs, .sec, .vault, .dbg, .cw, .free] s (State.regWrite s q a v) := by
  unfold State.regWrite
  try dsimp only
  repeat'
    first
    | with_reducible apply State.Changes.refl
    | exact rfl
    | with_reducible apply State.Changes.step (k := State.wrDbg_changes _ _ _ _)
    | with_reducible apply State.Changes.step (k := State.wrAb_changes _ _ _)
    | with_reducible apply State.Changes.step (k := State.wrGd_changes _ _ _)
    | with_reducible apply State.Changes.step (k := State.wrCh_changes _ _ _ _)
    | with_reducible apply State.Changes.step (k := State.wrCs_changes _ _ _)
    | with_reducible apply State.Changes.step (k := State.wrSq_changes _ _ _)
    | with_reducible apply State.Changes.step (k := State.wrSf_changes _ _ _ _)
    | with_reducible apply State.Changes.step (k := State.wrPe_changes _ _ _)
    | with_reducible apply State.Changes.step (k := State.wrLn_changes _ _ _)
    | with_reducible apply State.Changes.step (k := State.wrSn_changes _ _ _)
    | with_reducible apply State.Changes.step (k := State.wrTa_changes _ _ _)
    | with_reducible apply State.Changes.step (k := State.wrBt_changes _ _ _ _)
    | with_reducible apply State.Changes.step (k := State.wrEic_changes _ _ _)
    | with_reducible apply State.Changes.step (k := State.wrMem_changes _ _ _ _)
    | with_reducible apply State.Changes.step (k := State.wrBb_changes _ _ _)
    | with_reducible apply State.Changes.step (k := State.wrSec_changes _ _ _)
    | with_reducible apply State.Changes.step (k := State.wrPw_changes _ _ _)
    | with_reducible apply State.Changes.step (k := State.wrHp_changes _ _ _)
    | with_reducible apply State.Changes.step (k := State.wrGl_changes _ _ _ _)
    | split

theorem State.busRead_changes (s : State) (q : Req) (a : Nat) (n : Nat) :
    State.Changes [.beryl, .power, .chans, .seqs, .pool, .mem, .engines, .streams, .ta, .eic, .cs, .dbg, .cw, .free] s (State.busRead s q a n).2 := by
  unfold State.busRead
  try dsimp only
  repeat'
    first
    | with_reducible apply State.Changes.refl
    | exact rfl
    | dsimp only
    | with_reducible apply State.Changes.step (k := State.regRead_changes _ _ _)
    | with_reducible apply State.Changes.step (k := State.regUnc_changes _ _ _)
    | refine State.Changes.snd (f := State.memLoad _ _ _ _) (by with_reducible assumption) (State.memLoad_changes _ _ _ _) ?_ ?_
    | with_reducible apply State.Changes.step (k := State.refused_changes _ _ _ _)
    | split

theorem State.busWrite_changes (s : State) (q : Req) (a : Nat) (n : Nat) (v : Nat) :
    State.Changes [.beryl, .lanes, .hp, .xf, .key, .power, .bat, .chans, .posts, .seqs, .ibufs, .pool, .mem, .engines, .groups, .streams, .crcs, .bss, .lcs, .gds, .abs_, .sn, .ta, .eic, .cs, .sec, .vault, .dbg, .cw, .free] s (State.busWrite s q a n v).2 := by
  unfold State.busWrite
  try dsimp only
  repeat'
    first
    | with_reducible apply State.Changes.refl
    | exact rfl
    | dsimp only
    | with_reducible apply State.Changes.step (k := State.regWrite_changes _ _ _ _)
    | with_reducible apply State.Changes.step (k := State.memWrite_changes _ _ _ _ _)
    | with_reducible apply State.Changes.step (k := State.refused_changes _ _ _ _)
    | split

/-- From `s` to `t` nothing but the parts of the list changes, the waiting commands stay, the forms of the invariant are kept,
and at most `k` more requests are without a transferred response. -/
structure State.Grows (l : List Part) (k : Nat) (s t : State) : Prop where
  same : ∀ p, l.contains p = false → p.Same s t
  pending : t.pending = s.pending
  forms : s.Forms → t.Forms
  waits : t.hp.reqs.length + t.hp.resps.length ≤ s.hp.reqs.length + s.hp.resps.length + k

theorem State.Changes.grows {l : List Part} {s t : State} (h : State.Changes l s t) : State.Grows l 0 s t :=
  ⟨h.same, h.pending, h.forms, h.waits⟩

theorem State.Grows.trans {l : List Part} {k m : Nat} {s z t : State} (h : State.Grows l k s z) (g : State.Grows l m z t) :
    State.Grows l (k + m) s t :=
  ⟨fun p hp => (h.same p hp).trans (g.same p hp), g.pending.trans h.pending, fun f => g.forms (h.forms f),
    Nat.le_trans g.waits (by have := h.waits; omega)⟩

theorem State.hostAnswer_changes {l : List Part} (s : State) (r : HostResp) (n : l.contains .hp = true) :
    State.Grows l 1 s (State.hostAnswer s r) := by
  refine ⟨fun p hp => ?_, rfl, fun f => ⟨f.mem, f.prog, f.store, f.bufs, f.rbw, f.counts, f.rsp⟩, ?_⟩
  · cases p <;> first | exact absurd (n.symm.trans hp) (by simp) | rfl
  · simp only [State.hostAnswer, List.length_append, List.length_singleton]; omega

theorem State.hostRefuse_changes {l : List Part} (s : State) (live : Bool) (r : HostReq) (c : Cause) (n : l.contains .hp = true) :
    State.Grows l 1 s (State.hostRefuse s live r c) := by
  unfold State.hostRefuse
  extract_lets e
  have h : State.Changes l s (if c = .reset ∨ !live then s else { s with hp := s.hp.record e }) := by
    split
    · exact .refl _ _
    · exact (State.Changes.refl _ s).hp n (Nat.le_refl _)
  exact h.grows.trans (State.hostAnswer_changes _ _ n)

theorem State.hostPass_changes (s : State) (r : HostReq) : State.Grows [.beryl, .lanes, .hp, .xf, .key, .power, .bat, .chans, .posts, .seqs, .ibufs, .pool, .mem, .engines, .groups, .streams, .crcs, .bss, .lcs, .gds, .abs_, .sn, .ta, .eic, .cs, .sec, .vault, .dbg, .cw, .free] 1 s (State.hostPass s r) := by
  unfold State.hostPass
  extract_lets q n a d
  split
  · have k : State.Changes [.beryl, .lanes, .hp, .xf, .key, .power, .bat, .chans, .posts, .seqs, .ibufs, .pool, .mem, .engines, .groups, .streams, .crcs, .bss, .lcs, .gds, .abs_, .sn, .ta, .eic, .cs, .sec, .vault, .dbg, .cw, .free] s (s.busWrite q a n d).2 :=
      (State.busWrite_changes _ _ _ _ _).mono rfl
    split <;> rename_i e <;> rw [e] at k
    · exact k.grows.trans (State.hostRefuse_changes _ _ _ _ rfl)
    · exact k.grows.trans (State.hostAnswer_changes _ _ rfl)
  · have k : State.Changes [.beryl, .lanes, .hp, .xf, .key, .power, .bat, .chans, .posts, .seqs, .ibufs, .pool, .mem, .engines, .groups, .streams, .crcs, .bss, .lcs, .gds, .abs_, .sn, .ta, .eic, .cs, .sec, .vault, .dbg, .cw, .free] s (s.busRead q a n).2 := (State.busRead_changes _ _ _ _).mono rfl
    split <;> rename_i e <;> rw [e] at k
    · exact k.grows.trans (State.hostRefuse_changes _ _ _ _ rfl)
    · exact k.grows.trans (State.hostAnswer_changes _ _ rfl)

theorem State.hostPassList_changes (q : List HostReq) (s : State) :
    State.Grows [.beryl, .lanes, .hp, .xf, .key, .power, .bat, .chans, .posts, .seqs, .ibufs, .pool, .mem, .engines, .groups, .streams, .crcs, .bss, .lcs, .gds, .abs_, .sn, .ta, .eic, .cs, .sec, .vault, .dbg, .cw, .free] q.length s (q.foldl State.hostPass s) := by
  induction q generalizing s with
  | nil => exact (State.Changes.refl _ s).grows
  | cons r q ih =>
    have h := (State.hostPass_changes s r).trans (ih (s.hostPass r))
    rw [Nat.add_comm] at h
    exact h

theorem State.hostPassAll_changes (s : State) : State.Changes [.beryl, .lanes, .hp, .xf, .key, .power, .bat, .chans, .posts, .seqs, .ibufs, .pool, .mem, .engines, .groups, .streams, .crcs, .bss, .lcs, .gds, .abs_, .sn, .ta, .eic, .cs, .sec, .vault, .dbg, .cw, .free] s (State.hostPassAll s) := by
  have h0 : State.Changes [.beryl, .lanes, .hp, .xf, .key, .power, .bat, .chans, .posts, .seqs, .ibufs, .pool, .mem, .engines, .groups, .streams, .crcs, .bss, .lcs, .gds, .abs_, .sn, .ta, .eic, .cs, .sec, .vault, .dbg, .cw, .free] s { s with hp := { s.hp with reqs := [] } } :=
    (State.Changes.refl _ s).hp rfl (Nat.add_le_add_right (Nat.zero_le _) _)
  have h := State.hostPassList_changes s.hp.reqs { s with hp := { s.hp with reqs := [] } }
  refine ⟨fun p hp => (h0.same p hp).trans (h.same p hp), h.pending, fun f => h.forms (h0.forms f), Nat.le_trans h.waits ?_⟩
  simp only [List.length_nil]; omega

/-- A request is one more without a transferred response at most, and never one over sixteen. -/
theorem State.hostRequest_changes (s : State) (r : HostReq) (pass : Bool) : State.Grows [.beryl, .lanes, .hp, .xf, .key, .power, .bat, .chans, .posts, .seqs, .ibufs, .pool, .mem, .engines, .groups, .streams, .crcs, .bss, .lcs, .gds, .abs_, .sn, .ta, .eic, .cs, .sec, .vault, .dbg, .cw, .free] 1 s (State.hostRequest s r pass) ∧
    (s.hp.reqs.length + s.hp.resps.length ≤ 16 →
      (State.hostRequest s r pass).hp.reqs.length + (State.hostRequest s r pass).hp.resps.length ≤ 16) := by
  unfold State.hostRequest
  split
  · rename_i g
    have h : State.Grows [.beryl, .lanes, .hp, .xf, .key, .power, .bat, .chans, .posts, .seqs, .ibufs, .pool, .mem, .engines, .groups, .streams, .crcs, .bss, .lcs, .gds, .abs_, .sn, .ta, .eic, .cs, .sec, .vault, .dbg, .cw, .free] 1 s { s with hp := { s.hp with reqs := s.hp.reqs ++ [r] } } := by
      refine ⟨fun p hp => ?_, rfl, fun f => ⟨f.mem, f.prog, f.store, f.bufs, f.rbw, f.counts, f.rsp⟩, ?_⟩
      · cases p <;> first | exact absurd hp (by decide) | rfl
      · simp only [List.length_append, List.length_singleton]; omega
    have k : State.Grows [.beryl, .lanes, .hp, .xf, .key, .power, .bat, .chans, .posts, .seqs, .ibufs, .pool, .mem, .engines, .groups, .streams, .crcs, .bss, .lcs, .gds, .abs_, .sn, .ta, .eic, .cs, .sec, .vault, .dbg, .cw, .free] 1 s (if pass then State.hostPassAll { s with hp := { s.hp with reqs := s.hp.reqs ++ [r] } } else
        { s with hp := { s.hp with reqs := s.hp.reqs ++ [r] } }) := by
      split
      · exact h.trans (State.hostPassAll_changes _).grows
      · exact h
    exact ⟨k, fun _ => Nat.le_trans k.waits (by omega)⟩
  · exact ⟨⟨fun p _ => .refl s p, rfl, id, Nat.le_succ _⟩, id⟩

theorem State.hostResponse_changes (s : State) : State.Changes [.beryl, .lanes, .hp, .xf, .key, .power, .bat, .chans, .posts, .seqs, .ibufs, .pool, .mem, .engines, .groups, .streams, .crcs, .bss, .lcs, .gds, .abs_, .sn, .ta, .eic, .cs, .sec, .vault, .dbg, .cw, .free] s (State.hostResponse s) := by
  unfold State.hostResponse
  split
  · extract_lets s1
    have h : State.Changes [.beryl, .lanes, .hp, .xf, .key, .power, .bat, .chans, .posts, .seqs, .ibufs, .pool, .mem, .engines, .groups, .streams, .crcs, .bss, .lcs, .gds, .abs_, .sn, .ta, .eic, .cs, .sec, .vault, .dbg, .cw, .free] s s1 := by
      unfold s1; split
      · exact State.hostPassAll_changes s
      · exact .refl _ _
    clear_value s1
    exact h.hp rfl (Nat.add_le_add_left (by simp) _)
  · exact .refl _ _

theorem State.adapterReset_changes (s : State) (target : Bool) (v : Bool) :
    State.Changes [.hp, .xf] s (State.adapterReset s target v) := by
  unfold State.adapterReset
  split
  · refine (State.Changes.refl _ s).hp rfl ?_
    split
    · exact Nat.le_refl _
    · exact Nat.zero_le _
  · exact (State.initiatorReset_changes s v).mono rfl

theorem State.gaspWrite_changes (s : State) :
    State.Changes [.beryl, .lanes, .hp, .xf, .key, .power, .bat, .chans, .posts, .seqs, .ibufs, .pool, .mem, .engines, .groups, .streams, .crcs, .bss, .lcs, .gds, .abs_, .sn, .ta, .eic, .cs, .sec, .vault, .dbg, .cw, .free] s (State.gaspWrite s) := by
  unfold State.gaspWrite
  try dsimp only
  repeat'
    first
    | with_reducible apply State.Changes.refl
    | exact rfl
    | with_reducible apply State.Changes.step (k := State.modPw_changes _ _)
    | with_reducible apply State.Changes.step (k := State.busWrite_changes _ _ _ _ _)
    | split


end Sys2Proof.Machine
end

