-- ==== Sys2Proof/Laws/ChangesMacro.lean ====
section
/-! SUPPORT. What each operation can change: macro instructions, microcode, switches and debug. -/

namespace Sys2Proof.Machine

theorem State.loadParts_changes (s : State) (q : Req) (ea : Nat) (a : List (Nat × Nat)) (v : Nat) :
    (State.loadParts s q ea a v).All (State.Changes [.beryl, .power, .chans, .seqs, .pool, .mem, .engines, .streams, .ta, .eic, .cs, .dbg, .cw, .free] s) := by
  induction a generalizing s v with
  | nil => exact .refl _ _
  | cons p r ih =>
    have k := State.busRead_changes s q p.1 p.2
    unfold State.loadParts
    split
    · next read => exact (ih _ _).step rfl (k.atPair read)
    · next refused => exact k.atPair refused

theorem State.load_changes (s : State) (n : Fin 16) (ea : W32) (k : Nat) (al : Nat) :
    (State.load s n ea k al).All (State.Changes [.beryl, .power, .chans, .seqs, .pool, .mem, .engines, .streams, .ta, .eic, .cs, .dbg, .cw, .free] s) := by
  unfold State.load
  try dsimp only
  repeat'
    first
    | with_reducible apply State.Changes.refl
    | assumption
    | exact rfl
    | dsimp only
    | with_reducible apply State.Changes.foldl
    | with_reducible apply DataRes.All.step (k := State.loadParts_changes _ _ _ _ _)
    | refine State.Changes.step ?_ (DataRes.All.ok (State.loadParts_changes _ _ _ _ _) (by with_reducible assumption)) ?_
    | refine State.Changes.step ?_ (DataRes.All.trap (State.loadParts_changes _ _ _ _ _) (by with_reducible assumption)) ?_
    | with_reducible apply State.Changes.step (k := State.refused_changes _ _ _ _)
    | with_reducible apply DataRes.of_ok
    | with_reducible apply DataRes.of_trap
    | intro _
    | split

theorem State.storeParts_changes (s : State) (q : Req) (ea : Nat) (v : Nat) (l : List (Nat × Nat)) :
    State.Changes [.beryl, .lanes, .hp, .xf, .key, .power, .bat, .chans, .posts, .seqs, .ibufs, .pool, .mem, .engines, .groups, .streams, .crcs, .bss, .lcs, .gds, .abs_, .sn, .ta, .eic, .cs, .sec, .vault, .dbg, .cw, .free] s (State.storeParts s q ea v l) := by
  unfold State.storeParts
  try dsimp only
  repeat'
    first
    | with_reducible apply State.Changes.refl
    | exact rfl
    | with_reducible apply State.Changes.foldl
    | with_reducible apply State.Changes.step (k := State.busWrite_changes _ _ _ _ _)
    | intro _

theorem State.store_changes (s : State) (n : Fin 16) (ea : W32) (k : Nat) (al : Nat) (v : Nat) (w : W32) :
    (State.store s n ea k al v w).All (State.Changes [.beryl, .lanes, .hp, .xf, .key, .power, .bat, .chans, .posts, .seqs, .ibufs, .pool, .mem, .engines, .groups, .streams, .crcs, .bss, .lcs, .gds, .abs_, .sn, .ta, .eic, .cs, .sec, .vault, .dbg, .cw, .free] s) := by
  unfold State.store
  try dsimp only
  repeat'
    first
    | with_reducible apply State.Changes.refl
    | exact rfl
    | with_reducible apply State.Changes.step (k := State.storeParts_changes _ _ _ _ _)
    | with_reducible apply State.Changes.step (k := State.refused_changes _ _ _ _)
    | with_reducible apply DataRes.of_ok
    | with_reducible apply DataRes.of_trap
    | split


theorem State.doLoad_changes (s : State) (n : Fin 16) (w : W32) (k : Nat) (f : Nat → W32) :
    (State.doLoad s n w k f).All (State.Changes [.beryl, .power, .chans, .seqs, .pool, .mem, .engines, .streams, .ta, .eic, .cs, .dbg, .cw, .free] s) := by
  unfold State.doLoad
  try dsimp only
  repeat'
    first
    | with_reducible apply State.Changes.refl
    | exact rfl
    | with_reducible apply Res.All.step (k := State.putRd_changes _ _ _ _ _)
    | with_reducible apply DataRes.All.step (k := State.load_changes _ _ _ _ _)
    | with_reducible apply DataRes.andThen_changes
    | intro _

theorem State.doLdwu_changes (s : State) (n : Fin 16) (w : W32) :
    (State.doLdwu s n w).All (State.Changes [.beryl, .power, .chans, .seqs, .pool, .mem, .engines, .streams, .ta, .eic, .cs, .dbg, .cw, .free] s) := by
  unfold State.doLdwu
  try dsimp only
  repeat'
    first
    | with_reducible apply State.Changes.refl
    | exact rfl
    | with_reducible apply Res.All.step (k := State.putRd_changes _ _ _ _ _)
    | with_reducible apply DataRes.All.step (k := State.load_changes _ _ _ _ _)
    | with_reducible apply DataRes.andThen_changes
    | intro _

theorem State.doLdp_changes (s : State) (n : Fin 16) (w : W32) :
    (State.doLdp s n w).All (State.Changes [.beryl, .power, .chans, .seqs, .pool, .mem, .engines, .streams, .ta, .eic, .cs, .dbg, .cw, .free] s) := by
  unfold State.doLdp
  try dsimp only
  repeat'
    first
    | with_reducible apply State.Changes.refl
    | assumption
    | exact rfl
    | with_reducible apply State.Changes.step (k := State.modSeq_changes _ _ _)
    | with_reducible apply DataRes.All.step (k := State.load_changes _ _ _ _ _)
    | with_reducible apply Res.of_done
    | with_reducible apply DataRes.andThen_changes
    | intro _


theorem State.doStore_changes (s : State) (n : Fin 16) (w : W32) (k : Nat) :
    (State.doStore s n w k).All (State.Changes [.beryl, .lanes, .hp, .xf, .key, .power, .bat, .chans, .posts, .seqs, .ibufs, .pool, .mem, .engines, .groups, .streams, .crcs, .bss, .lcs, .gds, .abs_, .sn, .ta, .eic, .cs, .sec, .vault, .dbg, .cw, .free] s) := by
  unfold State.doStore
  try dsimp only
  repeat'
    first
    | with_reducible apply State.Changes.refl
    | exact rfl
    | with_reducible apply DataRes.All.step (k := State.store_changes _ _ _ _ _ _ _)
    | with_reducible apply DataRes.stored_changes

theorem State.doStwu_changes (s : State) (n : Fin 16) (w : W32) :
    (State.doStwu s n w).All (State.Changes [.beryl, .lanes, .hp, .xf, .key, .power, .bat, .chans, .posts, .seqs, .ibufs, .pool, .mem, .engines, .groups, .streams, .crcs, .bss, .lcs, .gds, .abs_, .sn, .ta, .eic, .cs, .sec, .vault, .dbg, .cw, .free] s) := by
  unfold State.doStwu
  try dsimp only
  repeat'
    first
    | with_reducible apply State.Changes.refl
    | exact rfl
    | with_reducible apply DataRes.All.step (k := State.store_changes _ _ _ _ _ _ _)
    | with_reducible apply DataRes.stored_changes

theorem State.doStp_changes (s : State) (n : Fin 16) (w : W32) :
    (State.doStp s n w).All (State.Changes [.beryl, .lanes, .hp, .xf, .key, .power, .bat, .chans, .posts, .seqs, .ibufs, .pool, .mem, .engines, .groups, .streams, .crcs, .bss, .lcs, .gds, .abs_, .sn, .ta, .eic, .cs, .sec, .vault, .dbg, .cw, .free] s) := by
  unfold State.doStp
  try dsimp only
  repeat'
    first
    | with_reducible apply State.Changes.refl
    | exact rfl
    | with_reducible apply DataRes.All.step (k := State.store_changes _ _ _ _ _ _ _)
    | with_reducible apply DataRes.stored_changes

theorem State.atomTrap_changes (s : State) (n : Fin 16) (ea : W32) (wr : Bool) (v : Nat) :
    ∀ z, State.atomTrap s n ea wr v = some z → State.Changes [.power, .cs] s z.1 := by
  unfold State.atomTrap
  intro z h
  split at h
  · obtain rfl := Option.some.inj h
    exact .refl _ _
  · obtain ⟨c, _, rfl⟩ := Option.map_eq_some_iff.mp h
    exact State.refused_changes _ _ _ _

theorem State.linked_changes (s : State) (n : Fin 16) (ea : W32) :
    (State.linked s n ea).All (State.Changes [.power, .seqs, .mem, .cs, .free] s) := by
  unfold State.linked
  try dsimp only
  repeat'
    first
    | with_reducible apply State.Changes.refl
    | exact rfl
    | with_reducible apply State.Changes.step (k := State.modSeq_changes _ _ _)
    | refine State.Changes.snd (f := State.memLoad _ _ _ _) (by with_reducible assumption) (State.memLoad_changes _ _ _ _) ?_ ?_
    | refine State.Changes.step ?_ (State.atomTrap_changes _ _ _ _ _ _ (by with_reducible assumption)) ?_
    | with_reducible apply DataRes.of_ok
    | split

theorem State.conditional_changes (s : State) (n : Fin 16) (ea : W32) (v : W32) :
    (State.conditional s n ea v).All (State.Changes [.power, .seqs, .mem, .cs] s) := by
  unfold State.conditional
  extract_lets hit idle s1
  split
  · rename_i z t e
    split at e
    · cases e
    · exact (State.atomTrap_changes _ _ _ _ _ _ e).mono rfl
  · have h1 : State.Changes [.power, .seqs, .mem, .cs] s s1 := by
      unfold s1; split
      · exact (State.memWrite_changes _ _ _ _ _).mono rfl
      · exact .refl _ _
    clear_value s1
    exact h1.step (State.modSeq_changes _ _ _) rfl

theorem State.doLl_changes (s : State) (n : Fin 16) (w : W32) :
    (State.doLl s n w).All (State.Changes [.power, .seqs, .mem, .cs, .free] s) := by
  unfold State.doLl
  try dsimp only
  repeat'
    first
    | with_reducible apply State.Changes.refl
    | exact rfl
    | with_reducible apply Res.All.step (k := State.putRd_changes _ _ _ _ _)
    | with_reducible apply DataRes.All.step (k := State.linked_changes _ _ _)
    | with_reducible apply DataRes.andThen_changes
    | intro _

theorem State.doSc_changes (s : State) (n : Fin 16) (w : W32) :
    (State.doSc s n w).All (State.Changes [.power, .seqs, .mem, .cs] s) := by
  unfold State.doSc
  try dsimp only
  repeat'
    first
    | with_reducible apply State.Changes.refl
    | exact rfl
    | with_reducible apply Res.All.step (k := State.putRd_changes _ _ _ _ _)
    | with_reducible apply DataRes.All.step (k := State.conditional_changes _ _ _ _)
    | with_reducible apply DataRes.andThen_changes
    | intro _

theorem State.doClrex_changes (s : State) (n : Fin 16) :
    (State.doClrex s n).All (State.Changes [.seqs] s) := by
  unfold State.doClrex
  try dsimp only
  repeat'
    first
    | with_reducible apply State.Changes.refl
    | exact rfl
    | with_reducible apply State.Changes.step (k := State.modSeq_changes _ _ _)
    | with_reducible apply Res.of_done

theorem State.doNow_changes (s : State) (n : Fin 16) (w : W32) :
    (State.doNow s n w).All (State.Changes [.seqs] s) := by
  unfold State.doNow
  try dsimp only
  repeat'
    first
    | with_reducible apply State.Changes.refl
    | exact rfl
    | with_reducible apply State.Changes.step (k := State.modSeq_changes _ _ _)
    | with_reducible apply Res.All.step (k := State.trapped_changes _ _ _ _)
    | with_reducible apply Res.of_done
    | split

theorem State.doConv_changes (s : State) (n : Fin 16) (w : W32) :
    (State.doConv s n w).All (State.Changes [.seqs] s) := by
  unfold State.doConv
  try dsimp only
  repeat'
    first
    | with_reducible apply State.Changes.refl
    | exact rfl
    | with_reducible apply State.Changes.step (k := State.modSeq_changes _ _ _)
    | with_reducible apply Res.All.step (k := State.trapped_changes _ _ _ _)
    | with_reducible apply Res.of_done
    | split

theorem State.doExp_changes (s : State) (n : Fin 16) (w : W32) :
    (State.doExp s n w).All (State.Changes [.seqs] s) := by
  unfold State.doExp
  try dsimp only
  repeat'
    first
    | with_reducible apply State.Changes.refl
    | exact rfl
    | with_reducible apply State.Changes.step (k := State.modSeq_changes _ _ _)
    | with_reducible apply Res.of_done

theorem State.laneDeliver_changes (s : State) (x : W32) (op : ActOp) (d : Fin 8) (ns : BitVec 40) :
    (State.laneDeliver s x op d ns).All (State.Changes [.lanes, .chans, .seqs] s) := by
  unfold State.laneDeliver
  try dsimp only
  repeat'
    first
    | with_reducible apply State.Changes.refl
    | exact rfl
    | refine State.Changes.fst (f := State.enqLane _ _ _ _ _ _) (by with_reducible assumption) (State.enqLane_changes _ _ _ _ _ _) ?_ ?_
    | with_reducible apply Try.of_trap
    | with_reducible apply Try.of_stall
    | split

theorem State.laneAction_changes (s : State) (n : Fin 16) (x : W32) (t : W64) (d : Fin 8) (ir : W32) :
    (State.laneAction s n x t d ir).All (State.Changes [.lanes, .chans, .seqs] s) := by
  unfold State.laneAction
  try dsimp only
  repeat'
    first
    | with_reducible apply State.Changes.refl
    | exact rfl
    | with_reducible apply Try.All.step (k := State.laneDeliver_changes _ _ _ _ _)
    | with_reducible apply Try.of_trap
    | split

theorem State.pushEntry_changes (s : State) (n : Fin 16) (x : W32) (data : W64) (st : Option (W64 × Fin 8)) (ir : W32) :
    (State.pushEntry s n x data st ir).All (State.Changes [.engines] s) := by
  unfold State.pushEntry
  try dsimp only
  repeat'
    first
    | with_reducible apply State.Changes.refl
    | exact rfl
    | with_reducible apply State.Changes.step (k := State.modEng_changes _ _ _)
    | with_reducible apply Try.of_ok
    | with_reducible apply Try.of_trap
    | with_reducible apply Try.of_wait
    | split

theorem Try.res_changes {p : State → Prop} (x : Try) (s : State) (k : Nat) (ir a : W32) (h : x.All p) (hs : p s) :
    (Try.res x s k ir a).All p := by
  cases x <;> first | exact h | exact hs | trivial

theorem State.doEnql_changes (s : State) (n : Fin 16) (w : W32) :
    (State.doEnql s n w).All (State.Changes [.lanes, .chans, .seqs] s) := by
  unfold State.doEnql
  try dsimp only
  repeat'
    first
    | with_reducible apply State.Changes.refl
    | exact rfl
    | with_reducible apply Try.All.step (k := State.laneAction_changes _ _ _ _ _ _)
    | with_reducible apply Try.res_changes

theorem State.doEnqe_changes (s : State) (n : Fin 16) (w : W32) :
    (State.doEnqe s n w).All (State.Changes [.engines] s) := by
  unfold State.doEnqe
  try dsimp only
  repeat'
    first
    | with_reducible apply State.Changes.refl
    | exact rfl
    | with_reducible apply Try.All.step (k := State.pushEntry_changes _ _ _ _ _ _)
    | with_reducible apply Try.res_changes

theorem State.doPushe_changes (s : State) (n : Fin 16) (w : W32) :
    (State.doPushe s n w).All (State.Changes [.engines] s) := by
  unfold State.doPushe
  try dsimp only
  repeat'
    first
    | with_reducible apply State.Changes.refl
    | exact rfl
    | with_reducible apply Try.All.step (k := State.pushEntry_changes _ _ _ _ _ _)
    | with_reducible apply Try.res_changes

theorem State.dropEntry_changes (s : State) (cx : Fin 256) (p : Path) (x : Quad) :
    State.Changes [.chans, .engines, .streams, .gds, .abs_] s (State.dropEntry s cx p x) := by
  unfold State.dropEntry
  try dsimp only
  repeat'
    first
    | with_reducible apply State.Changes.refl
    | exact rfl
    | dsimp only
    | with_reducible apply State.Changes.step (k := State.modMb_changes _ _ _ _)
    | with_reducible apply State.Changes.step (k := State.modSf_changes _ _ _)
    | with_reducible apply State.Changes.step (k := State.modEng_changes _ _ _)
    | (intro k h; (try dsimp only); (repeat' split) <;> first | with_reducible exact h _ | with_reducible exact k _ | simpa using h _ | simpa using k _ | with_reducible exact Guardian.receive_bufs _ _ _ _ (h _) | with_reducible exact Guardian.receive_bufs _ _ _ _ (k _) | with_reducible exact sparseWf_sparseSet _ _ _ (h _) | exact h _ | exact k _)
    | with_reducible apply State.Changes.modGd
    | with_reducible apply State.Changes.modAb
    | split

theorem State.abQueueEcc_changes (s : State) (k : Fin 16) :
    State.Changes [.chans, .seqs, .free] s (State.abQueueEcc s k).2 := by
  unfold State.abQueueEcc
  dsimp -zeta only [← State.set_free_eq]
  try dsimp only
  repeat'
    first
    | with_reducible apply State.Changes.refl
    | exact rfl
    | with_reducible apply State.Changes.free
    | with_reducible apply State.Changes.step (k := State.breachOf_changes _ _ _)

theorem State.takeFrom_changes (s : State) (cx : Fin 256) (p : Path) (t : Option W64) :
    ∀ z, State.takeFrom s cx p t = some z → State.Changes [.chans, .seqs, .engines, .streams, .gds, .abs_, .free] s z.2 := by
  unfold State.takeFrom
  intro z h
  dsimp only at h
  split at h
  · split at h
    · obtain rfl := Option.some.inj (Option.ite_none_right_eq_some.mp h).2
      exact (State.modEng_changes _ _ _).mono rfl
    · cases h
  · split at h
    · cases h; exact (State.modSf_changes _ _ _).mono rfl
    · cases h
  · split at h
    · cases h; exact (State.modMb_changes _ _ _ _).mono rfl
    · cases h
  · split at h
    · rename_i k _ x r _
      obtain rfl := Option.some.inj (Option.ite_none_right_eq_some.mp h).2
      have h1 : State.Changes [.chans, .seqs, .engines, .streams, .gds, .abs_, .free] s (s.modAb k fun c => { c with rxq := r, qbad := c.qbad.erase x }) :=
        (State.Changes.refl _ s).modAb rfl fun _ h => h _
      split
      · exact h1.step (State.abQueueEcc_changes _ _) rfl
      · exact h1
    · cases h
  · split at h
    · obtain rfl := Option.some.inj (Option.ite_none_right_eq_some.mp h).2
      exact (State.Changes.refl _ s).modGd rfl fun _ h => h _
    · cases h

theorem State.receive_changes (s : State) (n : Fin 16) (m : RecvMode) (sel : W32) (t : W64) (ir : W32) :
    (State.receive s n m sel t ir).All (State.Changes [.chans, .seqs, .engines, .streams, .gds, .abs_, .free] s) := by
  unfold State.receive
  try dsimp only
  repeat'
    first
    | with_reducible apply State.Changes.refl
    | exact rfl
    | refine State.Changes.step ?_ (State.takeFrom_changes _ _ _ _ _ (by with_reducible assumption)) ?_
    | with_reducible apply Recv.of_nothing
    | with_reducible apply Recv.of_wait
    | with_reducible apply Recv.of_trap
    | split

theorem Recv.res_changes {l : List Part} {s0 : State} (x : Recv) (s : State) (n : Fin 16) (w : W32) (k : Nat) (z : Bool)
    (h : x.All (State.Changes l s0)) (hs : State.Changes l s0 s) (sub : [Part.seqs].all l.contains = true) :
    (Recv.res x s n w k z).All (State.Changes l s0) := by
  cases x with
  | got y s1 => exact State.Changes.step h (State.modSeq_changes _ _ _) sub
  | nothing => exact hs.step (State.modSeq_changes _ _ _) sub
  | wait => exact hs
  | trap t => exact hs

theorem State.doDeq_changes (s : State) (n : Fin 16) (w : W32) :
    (State.doDeq s n w).All (State.Changes [.chans, .seqs, .engines, .streams, .gds, .abs_, .free] s) := by
  unfold State.doDeq
  try dsimp only
  repeat'
    first
    | with_reducible apply State.Changes.refl
    | exact rfl
    | with_reducible apply Recv.All.step (k := State.receive_changes _ _ _ _ _ _)
    | with_reducible apply Recv.res_changes

theorem State.doTrydeq_changes (s : State) (n : Fin 16) (w : W32) :
    (State.doTrydeq s n w).All (State.Changes [.chans, .seqs, .engines, .streams, .gds, .abs_, .free] s) := by
  unfold State.doTrydeq
  try dsimp only
  repeat'
    first
    | with_reducible apply State.Changes.refl
    | exact rfl
    | with_reducible apply Recv.All.step (k := State.receive_changes _ _ _ _ _ _)
    | with_reducible apply Recv.res_changes

theorem State.doBrecv_changes (s : State) (n : Fin 16) (w : W32) :
    (State.doBrecv s n w).All (State.Changes [.chans, .seqs, .engines, .streams, .gds, .abs_, .free] s) := by
  unfold State.doBrecv
  try dsimp only
  repeat'
    first
    | with_reducible apply State.Changes.refl
    | exact rfl
    | with_reducible apply Recv.All.step (k := State.receive_changes _ _ _ _ _ _)
    | with_reducible apply Recv.res_changes

theorem State.fireFrom_changes (s : State) (n : Fin 16) (x : W32) :
    (State.fireFrom s n x).All (State.Changes [.sn] s) := by
  unfold State.fireFrom
  try dsimp only
  repeat'
    first
    | with_reducible apply State.Changes.refl
    | exact rfl
    | with_reducible apply State.Changes.step (k := State.fire_changes _ _)
    | with_reducible apply Try.of_ok
    | with_reducible apply Try.of_trap
    | split

theorem State.doFire_changes (s : State) (n : Fin 16) (w : W32) :
    (State.doFire s n w).All (State.Changes [.sn] s) := by
  unfold State.doFire
  try dsimp only
  repeat'
    first
    | with_reducible apply State.Changes.refl
    | exact rfl
    | with_reducible apply Try.All.step (k := State.fireFrom_changes _ _ _)
    | with_reducible apply Try.res_changes

theorem State.retake_changes (s : State) (cx : Fin 256) (x : Taken) :
    State.Changes [.chans, .engines, .streams, .gds, .abs_, .sn] s (State.retake s cx x) := by
  unfold State.retake
  try dsimp only
  repeat'
    first
    | with_reducible apply State.Changes.refl
    | exact rfl
    | with_reducible apply State.Changes.step (k := State.takeCount_changes _ _)
    | with_reducible apply State.Changes.step (k := State.dropEntry_changes _ _ _ _)
    | split

theorem State.takeEvent_changes (s : State) (c : Fin 256) (mask : W32) :
    ∀ z, State.takeEvent s c mask = some z → State.Changes [.sn] s z.2 := by
  unfold State.takeEvent
  intro z h
  obtain ⟨i, _, g⟩ := List.exists_of_findSome?_eq_some h
  obtain ⟨-, g⟩ := Option.ite_none_right_eq_some.mp g
  split at g
  · next got => exact Option.some.inj g ▸ (State.takeCount_changes s (4 * c.val + i)).atPair got
  · cases g

theorem State.doWaite_changes (s : State) (n : Fin 16) (w : W32) :
    (State.doWaite s n w).All (State.Changes [.seqs, .sn] s) := by
  unfold State.doWaite
  try dsimp only
  repeat'
    first
    | with_reducible apply State.Changes.refl
    | exact rfl
    | with_reducible apply Res.All.step (k := State.putRd_changes _ _ _ _ _)
    | refine State.Changes.step ?_ (State.takeEvent_changes _ _ _ _ (by with_reducible assumption)) ?_
    | with_reducible apply Res.All.step (k := State.badValue_changes _ _)
    | with_reducible apply Res.of_block
    | split

theorem State.doTrye_changes (s : State) (n : Fin 16) (w : W32) :
    (State.doTrye s n w).All (State.Changes [.seqs, .sn] s) := by
  unfold State.doTrye
  try dsimp only
  repeat'
    first
    | with_reducible apply State.Changes.refl
    | exact rfl
    | with_reducible apply State.Changes.step (k := State.modSeq_changes _ _ _)
    | refine State.Changes.step ?_ (State.takeEvent_changes _ _ _ _ (by with_reducible assumption)) ?_
    | with_reducible apply Res.All.step (k := State.trapped_changes _ _ _ _)
    | with_reducible apply Res.All.step (k := State.badValue_changes _ _)
    | with_reducible apply Res.of_done
    | split

theorem State.doRdc_changes (s : State) (n : Fin 16) (w : W32) :
    (State.doRdc s n w).All (State.Changes [.seqs, .mem] s) := by
  unfold State.doRdc
  try dsimp only
  repeat'
    first
    | with_reducible apply State.Changes.refl
    | exact rfl
    | refine State.Changes.snd (f := State.anchor _ _ _) (by with_reducible assumption) (State.anchor_changes _ _ _) ?_ ?_
    | with_reducible apply Res.All.step (k := State.putRd_changes _ _ _ _ _)
    | split

theorem State.doWrc_changes (s : State) (n : Fin 16) (w : W32) :
    (State.doWrc s n w).All (State.Changes [.seqs] s) := by
  unfold State.doWrc
  try dsimp only
  repeat'
    first
    | with_reducible apply State.Changes.refl
    | exact rfl
    | with_reducible apply State.Changes.step (k := State.modSeq_changes _ _ _)
    | with_reducible apply Res.All.step (k := State.badValue_changes _ _)
    | with_reducible apply Res.of_done
    | split

theorem State.doWspill_changes (s : State) (n : Fin 16) :
    (State.doWspill s n).All (State.Changes [.seqs, .pool, .mem] s) := by
  unfold State.doWspill
  try dsimp only
  repeat'
    first
    | with_reducible apply State.Changes.refl
    | exact rfl
    | refine State.Changes.step ?_ (Work.All.done (State.spillAll_changes _ _ _) (by with_reducible assumption)) ?_
    | refine State.Changes.step ?_ (Work.All.ecc (State.spillAll_changes _ _ _) (by with_reducible assumption)) ?_
    | refine State.Changes.step ?_ (Work.All.trap (State.spillAll_changes _ _ _) (by with_reducible assumption)) ?_
    | with_reducible apply Res.All.step (k := State.trapped_changes _ _ _ _)
    | refine State.Changes.snd (f := State.anchor _ _ _) (by with_reducible assumption) (State.anchor_changes _ _ _) ?_ ?_
    | split

theorem State.doFrel_changes (s : State) (n : Fin 16) :
    (State.doFrel s n).All (State.Changes [.seqs, .pool, .mem] s) := by
  unfold State.doFrel
  extract_lets q
  split
  · refine Work.andThen_changes ?_ fun z h => ?_
    · split
      · exact (State.floatSave_changes s n).step rfl (.refl _ _)
      · exact .refl _ _
    · exact h.step (State.modSeq_changes _ _ _) rfl
  · exact .refl _ _

theorem State.floatOp_changes {l : List Part} (s : State) (n : Fin 16) (f : State → Seq → Res)
    (sub : [Part.seqs, .pool, .mem].all l.contains = true)
    (k : ∀ z q, State.Changes l s z → (f z q).All (State.Changes l s)) : (State.floatOp s n f).All (State.Changes l s) :=
  Work.andThen_changes ((State.floatOwn_changes s n).step (by simpa using sub) (.refl _ _)) fun z h => k z _ h

theorem State.floatDo_changes (s : State) (n : Fin 16) (w : W32) (k : Nat) (x : Fx) (f : Seq → Seq) :
    (State.floatDo s n w k x f).All (State.Changes [.seqs] s) := by
  unfold State.floatDo
  try dsimp only
  repeat'
    first
    | with_reducible apply State.Changes.refl
    | exact rfl
    | with_reducible apply State.Changes.step (k := State.modSeq_changes _ _ _)
    | with_reducible apply Res.All.step (k := State.trapped_changes _ _ _ _)
    | with_reducible apply Res.of_done
    | split

theorem State.fop_changes (s : State) (n : Fin 16) (w : W32) (k : Nat) (f : Seq → W64 × Fx) :
    (State.fop s n w k f).All (State.Changes [.seqs, .pool, .mem] s) := by
  unfold State.fop
  try dsimp only
  repeat'
    first
    | exact rfl
    | with_reducible apply Res.All.step (k := State.floatDo_changes _ _ _ _ _ _)
    | with_reducible apply State.floatOp_changes
    | intro _

theorem State.doFadd_changes (s : State) (n : Fin 16) (w : W32) :
    (State.doFadd s n w).All (State.Changes [.seqs, .pool, .mem] s) := by
  unfold State.doFadd
  try dsimp only
  repeat'
    first
    | with_reducible apply State.Changes.refl
    | exact rfl
    | with_reducible apply Res.All.step (k := State.fop_changes _ _ _ _ _)

theorem State.doFsub_changes (s : State) (n : Fin 16) (w : W32) :
    (State.doFsub s n w).All (State.Changes [.seqs, .pool, .mem] s) := by
  unfold State.doFsub
  try dsimp only
  repeat'
    first
    | with_reducible apply State.Changes.refl
    | exact rfl
    | with_reducible apply Res.All.step (k := State.fop_changes _ _ _ _ _)

theorem State.doFmul_changes (s : State) (n : Fin 16) (w : W32) :
    (State.doFmul s n w).All (State.Changes [.seqs, .pool, .mem] s) := by
  unfold State.doFmul
  try dsimp only
  repeat'
    first
    | with_reducible apply State.Changes.refl
    | exact rfl
    | with_reducible apply Res.All.step (k := State.fop_changes _ _ _ _ _)

theorem State.doFdiv_changes (s : State) (n : Fin 16) (w : W32) :
    (State.doFdiv s n w).All (State.Changes [.seqs, .pool, .mem] s) := by
  unfold State.doFdiv
  try dsimp only
  repeat'
    first
    | with_reducible apply State.Changes.refl
    | exact rfl
    | with_reducible apply Res.All.step (k := State.fop_changes _ _ _ _ _)

theorem State.doFsqrt_changes (s : State) (n : Fin 16) (w : W32) :
    (State.doFsqrt s n w).All (State.Changes [.seqs, .pool, .mem] s) := by
  unfold State.doFsqrt
  try dsimp only
  repeat'
    first
    | with_reducible apply State.Changes.refl
    | exact rfl
    | with_reducible apply Res.All.step (k := State.fop_changes _ _ _ _ _)

theorem State.doFma_changes (s : State) (n : Fin 16) (w : W32) :
    (State.doFma s n w).All (State.Changes [.seqs, .pool, .mem] s) := by
  unfold State.doFma
  try dsimp only
  repeat'
    first
    | with_reducible apply State.Changes.refl
    | exact rfl
    | with_reducible apply Res.All.step (k := State.fop_changes _ _ _ _ _)

theorem State.doFneg_changes (s : State) (n : Fin 16) (w : W32) :
    (State.doFneg s n w).All (State.Changes [.seqs, .pool, .mem] s) := by
  unfold State.doFneg
  try dsimp only
  repeat'
    first
    | with_reducible apply State.Changes.refl
    | exact rfl
    | with_reducible apply Res.All.step (k := State.fop_changes _ _ _ _ _)

theorem State.doFabs_changes (s : State) (n : Fin 16) (w : W32) :
    (State.doFabs s n w).All (State.Changes [.seqs, .pool, .mem] s) := by
  unfold State.doFabs
  try dsimp only
  repeat'
    first
    | with_reducible apply State.Changes.refl
    | exact rfl
    | with_reducible apply Res.All.step (k := State.fop_changes _ _ _ _ _)

theorem State.doFmin_changes (s : State) (n : Fin 16) (w : W32) :
    (State.doFmin s n w).All (State.Changes [.seqs, .pool, .mem] s) := by
  unfold State.doFmin
  try dsimp only
  repeat'
    first
    | with_reducible apply State.Changes.refl
    | exact rfl
    | with_reducible apply Res.All.step (k := State.fop_changes _ _ _ _ _)

theorem State.doFmax_changes (s : State) (n : Fin 16) (w : W32) :
    (State.doFmax s n w).All (State.Changes [.seqs, .pool, .mem] s) := by
  unfold State.doFmax
  try dsimp only
  repeat'
    first
    | with_reducible apply State.Changes.refl
    | exact rfl
    | with_reducible apply Res.All.step (k := State.fop_changes _ _ _ _ _)

theorem State.doFcpy_changes (s : State) (n : Fin 16) (w : W32) :
    (State.doFcpy s n w).All (State.Changes [.seqs, .pool, .mem] s) := by
  unfold State.doFcpy
  try dsimp only
  repeat'
    first
    | with_reducible apply State.Changes.refl
    | exact rfl
    | with_reducible apply Res.All.step (k := State.fop_changes _ _ _ _ _)

theorem State.doFrint_changes (s : State) (n : Fin 16) (w : W32) :
    (State.doFrint s n w).All (State.Changes [.seqs, .pool, .mem] s) := by
  unfold State.doFrint
  try dsimp only
  repeat'
    first
    | with_reducible apply State.Changes.refl
    | exact rfl
    | with_reducible apply Res.All.step (k := State.fop_changes _ _ _ _ _)

theorem State.doFcmp_changes (s : State) (n : Fin 16) (w : W32) :
    (State.doFcmp s n w).All (State.Changes [.seqs, .pool, .mem] s) := by
  unfold State.doFcmp
  try dsimp only
  repeat'
    first
    | exact rfl
    | with_reducible apply Res.All.step (k := State.floatDo_changes _ _ _ _ _ _)
    | with_reducible apply State.floatOp_changes
    | intro _

theorem State.doFmvgq_changes (s : State) (n : Fin 16) (w : W32) :
    (State.doFmvgq s n w).All (State.Changes [.seqs, .pool, .mem] s) := by
  unfold State.doFmvgq
  try dsimp only
  repeat'
    first
    | with_reducible apply State.Changes.refl
    | exact rfl
    | with_reducible apply Res.All.step (k := State.fop_changes _ _ _ _ _)

theorem State.fpair_changes (s : State) (n : Fin 16) (w : W32) (k : Nat) (f : Seq → W64 × Fx) :
    (State.fpair s n w k f).All (State.Changes [.seqs, .pool, .mem] s) := by
  unfold State.fpair
  try dsimp only
  repeat'
    first
    | exact rfl
    | with_reducible apply Res.All.step (k := State.floatDo_changes _ _ _ _ _ _)
    | with_reducible apply State.floatOp_changes
    | intro _

theorem State.doFmvqg_changes (s : State) (n : Fin 16) (w : W32) :
    (State.doFmvqg s n w).All (State.Changes [.seqs, .pool, .mem] s) := by
  unfold State.doFmvqg
  try dsimp only
  repeat'
    first
    | with_reducible apply State.Changes.refl
    | exact rfl
    | with_reducible apply Res.All.step (k := State.fpair_changes _ _ _ _ _)

theorem State.doFcvts_changes (s : State) (n : Fin 16) (w : W32) :
    (State.doFcvts s n w).All (State.Changes [.seqs, .pool, .mem] s) := by
  unfold State.doFcvts
  try dsimp only
  repeat'
    first
    | with_reducible apply State.Changes.refl
    | exact rfl
    | with_reducible apply Res.All.step (k := State.fop_changes _ _ _ _ _)

theorem State.doFcvtu_changes (s : State) (n : Fin 16) (w : W32) :
    (State.doFcvtu s n w).All (State.Changes [.seqs, .pool, .mem] s) := by
  unfold State.doFcvtu
  try dsimp only
  repeat'
    first
    | with_reducible apply State.Changes.refl
    | exact rfl
    | with_reducible apply Res.All.step (k := State.fop_changes _ _ _ _ _)

theorem State.doFtos_changes (s : State) (n : Fin 16) (w : W32) :
    (State.doFtos s n w).All (State.Changes [.seqs, .pool, .mem] s) := by
  unfold State.doFtos
  try dsimp only
  repeat'
    first
    | with_reducible apply State.Changes.refl
    | exact rfl
    | with_reducible apply Res.All.step (k := State.fpair_changes _ _ _ _ _)

theorem State.doFtou_changes (s : State) (n : Fin 16) (w : W32) :
    (State.doFtou s n w).All (State.Changes [.seqs, .pool, .mem] s) := by
  unfold State.doFtou
  try dsimp only
  repeat'
    first
    | with_reducible apply State.Changes.refl
    | exact rfl
    | with_reducible apply Res.All.step (k := State.fpair_changes _ _ _ _ _)

theorem State.doFld_changes (s : State) (n : Fin 16) (w : W32) :
    (State.doFld s n w).All (State.Changes [.beryl, .power, .chans, .seqs, .pool, .mem, .engines, .streams, .ta, .eic, .cs, .dbg, .cw, .free] s) := by
  unfold State.doFld
  try dsimp only
  repeat'
    first
    | assumption
    | exact rfl
    | with_reducible apply State.Changes.step (k := State.modSeq_changes _ _ _)
    | with_reducible apply DataRes.All.step (k := State.load_changes _ _ _ _ _)
    | with_reducible apply Res.of_done
    | with_reducible apply State.floatOp_changes
    | with_reducible apply DataRes.andThen_changes
    | intro _

theorem State.doFst_changes (s : State) (n : Fin 16) (w : W32) :
    (State.doFst s n w).All (State.Changes [.beryl, .lanes, .hp, .xf, .key, .power, .bat, .chans, .posts, .seqs, .ibufs, .pool, .mem, .engines, .groups, .streams, .crcs, .bss, .lcs, .gds, .abs_, .sn, .ta, .eic, .cs, .sec, .vault, .dbg, .cw, .free] s) := by
  unfold State.doFst
  try dsimp only
  repeat'
    first
    | assumption
    | exact rfl
    | with_reducible apply DataRes.All.step (k := State.store_changes _ _ _ _ _ _ _)
    | with_reducible apply State.floatOp_changes
    | with_reducible apply DataRes.stored_changes
    | intro _

theorem State.doRdfc_changes (s : State) (n : Fin 16) (w : W32) :
    (State.doRdfc s n w).All (State.Changes [.seqs, .pool, .mem] s) := by
  unfold State.doRdfc
  try dsimp only
  repeat'
    first
    | exact rfl
    | with_reducible apply Res.All.step (k := State.putRd_changes _ _ _ _ _)
    | with_reducible apply State.floatOp_changes
    | intro _

theorem State.doWrfc_changes (s : State) (n : Fin 16) (w : W32) :
    (State.doWrfc s n w).All (State.Changes [.seqs, .pool, .mem] s) := by
  unfold State.doWrfc
  try dsimp only
  repeat'
    first
    | assumption
    | exact rfl
    | with_reducible apply State.Changes.step (k := State.modSeq_changes _ _ _)
    | with_reducible apply Res.of_done
    | with_reducible apply State.floatOp_changes
    | intro _

theorem Micro.set_changes (m : Micro) (s : State) (n : Fin 16) (x : Nat) (v : W32) :
    State.Changes [.seqs] s (Micro.set m s n x v).1 := by
  unfold Micro.set
  try dsimp only
  repeat'
    first
    | with_reducible apply State.Changes.refl
    | exact rfl
    | dsimp only
    | with_reducible apply State.Changes.step (k := State.modSeq_changes _ _ _)
    | split

theorem Micro.result_changes (m : Micro) (s : State) (n : Fin 16) (d : Nat) (r : W32) (f : Nzcv) :
    (Micro.result m s n d r f).All (State.Changes [.seqs] s) := by
  unfold Micro.result
  try dsimp only
  repeat'
    first
    | with_reducible apply State.Changes.refl
    | exact rfl
    | with_reducible apply State.Changes.step (k := Micro.set_changes _ _ _ _ _)
    | with_reducible apply UOut.of_ok

theorem Micro.execVend_changes (m : Micro) (s : State) (n : Fin 16) (w : W32) :
    (Micro.execVend m s n w).All (State.Changes [.seqs] s) := by
  unfold Micro.execVend
  try dsimp only
  repeat'
    first
    | with_reducible apply State.Changes.refl
    | exact rfl
    | with_reducible apply State.Changes.step (k := State.modSeq_changes _ _ _)
    | with_reducible apply UOut.of_ok
    | with_reducible apply UOut.of_illegal
    | split

theorem Micro.execReg_changes (m : Micro) (s : State) (n : Fin 16) (w : W32) :
    (Micro.execReg m s n w).All (State.Changes [.seqs] s) := by
  unfold Micro.execReg
  try dsimp only
  repeat'
    first
    | with_reducible apply State.Changes.refl
    | exact rfl
    | with_reducible apply UOut.All.step (k := Micro.result_changes _ _ _ _ _ _)
    | with_reducible apply UOut.All.step (k := Micro.execVend_changes _ _ _ _)
    | with_reducible apply UOut.of_illegal
    | split

theorem Micro.execImm_changes (m : Micro) (s : State) (n : Fin 16) (w : W32) :
    (Micro.execImm m s n w).All (State.Changes [.seqs] s) := by
  unfold Micro.execImm
  try dsimp only
  repeat'
    first
    | with_reducible apply State.Changes.refl
    | exact rfl
    | with_reducible apply UOut.All.step (k := Micro.result_changes _ _ _ _ _ _)
    | with_reducible apply UOut.of_illegal
    | split

theorem Micro.execLit_changes (m : Micro) (s : State) (n : Fin 16) (w : W32) :
    (Micro.execLit m s n w).All (State.Changes [.seqs] s) := by
  unfold Micro.execLit
  try dsimp only
  repeat'
    first
    | with_reducible apply State.Changes.refl
    | exact rfl
    | with_reducible apply State.Changes.step (k := Micro.set_changes _ _ _ _ _)
    | with_reducible apply UOut.of_ok
    | with_reducible apply UOut.of_illegal
    | split

theorem Micro.loaded_changes (m : Micro) (s : State) (n : Fin 16) (r : Nat) (dbl : Bool) (v : Nat) :
    State.Changes [.seqs] s (Micro.loaded m s n r dbl v).1 := by
  unfold Micro.loaded
  try dsimp only
  repeat'
    first
    | with_reducible apply State.Changes.refl
    | exact rfl
    | with_reducible apply State.Changes.step (k := Micro.set_changes _ _ _ _ _)

theorem Micro.execMem_changes (m : Micro) (s : State) (n : Fin 16) (w : W32) :
    (Micro.execMem m s n w).All (State.Changes [.beryl, .lanes, .hp, .xf, .key, .power, .bat, .chans, .posts, .seqs, .ibufs, .pool, .mem, .engines, .groups, .streams, .crcs, .bss, .lcs, .gds, .abs_, .sn, .ta, .eic, .cs, .sec, .vault, .dbg, .cw, .free] s) := by
  unfold Micro.execMem
  try dsimp only
  repeat'
    first
    | with_reducible apply State.Changes.refl
    | exact rfl
    | refine State.Changes.step ?_ (DataRes.All.ok (State.conditional_changes _ _ _ _) (by with_reducible assumption)) ?_
    | refine State.Changes.step ?_ (DataRes.All.trap (State.conditional_changes _ _ _ _) (by with_reducible assumption)) ?_
    | refine State.Changes.step ?_ (DataRes.All.ok (State.linked_changes _ _ _) (by with_reducible assumption)) ?_
    | refine State.Changes.step ?_ (DataRes.All.trap (State.linked_changes _ _ _) (by with_reducible assumption)) ?_
    | refine State.Changes.step ?_ (DataRes.All.ok (State.store_changes _ _ _ _ _ _ _) (by with_reducible assumption)) ?_
    | refine State.Changes.step ?_ (DataRes.All.trap (State.store_changes _ _ _ _ _ _ _) (by with_reducible assumption)) ?_
    | with_reducible apply State.Changes.step (k := Micro.loaded_changes _ _ _ _ _ _)
    | refine State.Changes.step ?_ (DataRes.All.ok (State.load_changes _ _ _ _ _) (by with_reducible assumption)) ?_
    | refine State.Changes.step ?_ (DataRes.All.trap (State.load_changes _ _ _ _ _) (by with_reducible assumption)) ?_
    | with_reducible apply UOut.of_ok
    | with_reducible apply UOut.of_flt
    | with_reducible apply UOut.of_illegal
    | split

theorem Micro.execWait_changes (m : Micro) (s : State) (n : Fin 16) (w : W32) :
    (Micro.execWait m s n w).All (State.Changes [.chans, .seqs, .engines, .streams, .gds, .abs_, .sn, .free] s) := by
  unfold Micro.execWait
  try dsimp only
  repeat'
    first
    | with_reducible apply State.Changes.refl
    | exact rfl
    | with_reducible apply State.Changes.step (k := Micro.set_changes _ _ _ _ _)
    | refine State.Changes.step ?_ (State.takeEvent_changes _ _ _ _ (by with_reducible assumption)) ?_
    | refine State.Changes.step ?_ (Recv.All.got (State.receive_changes _ _ _ _ _ _) (by with_reducible assumption)) ?_
    | with_reducible apply UOut.of_ok
    | with_reducible apply UOut.of_flt
    | with_reducible apply UOut.of_wait
    | with_reducible apply UOut.of_illegal
    | split

theorem Micro.execBr_changes (m : Micro) (s : State) (n : Fin 16) (w : W32) :
    (Micro.execBr m s n w).All (State.Changes [] s) := by
  unfold Micro.execBr
  try dsimp only
  repeat'
    first
    | with_reducible apply State.Changes.refl
    | with_reducible apply UOut.of_jump
    | with_reducible apply UOut.of_fin
    | with_reducible apply UOut.of_flt
    | with_reducible apply UOut.of_illegal
    | split

theorem Micro.tried_changes {p : State → Prop} (m : Micro) (s : State) (a : W32) (x : Try) (h : x.All p) (hs : p s) :
    (Micro.tried m s a x).All p := by
  cases x <;> first | exact h | exact ⟨hs, hs⟩ | trivial

theorem Micro.execSys_changes (m : Micro) (s : State) (n : Fin 16) (w : W32) :
    (Micro.execSys m s n w).All (State.Changes [.lanes, .chans, .seqs, .engines, .sn] s) := by
  unfold Micro.execSys
  try dsimp only
  repeat'
    first
    | with_reducible apply State.Changes.refl
    | exact rfl
    | with_reducible apply State.Changes.step (k := State.modSeq_changes _ _ _)
    | with_reducible apply State.Changes.step (k := Micro.loaded_changes _ _ _ _ _ _)
    | with_reducible apply Try.All.step (k := State.fireFrom_changes _ _ _)
    | with_reducible apply Try.All.step (k := State.pushEntry_changes _ _ _ _ _ _)
    | with_reducible apply Try.All.step (k := State.laneAction_changes _ _ _ _ _ _)
    | with_reducible apply UOut.of_ok
    | with_reducible apply UOut.of_flt
    | with_reducible apply UOut.of_utrap
    | with_reducible apply UOut.of_illegal
    | with_reducible apply Micro.tried_changes
    | split

theorem Micro.exec_changes (m : Micro) (s : State) (n : Fin 16) (w : W32) :
    (Micro.exec m s n w).All (State.Changes [.beryl, .lanes, .hp, .xf, .key, .power, .bat, .chans, .posts, .seqs, .ibufs, .pool, .mem, .engines, .groups, .streams, .crcs, .bss, .lcs, .gds, .abs_, .sn, .ta, .eic, .cs, .sec, .vault, .dbg, .cw, .free] s) := by
  unfold Micro.exec
  try dsimp only
  repeat'
    first
    | with_reducible apply State.Changes.refl
    | exact rfl
    | with_reducible apply UOut.All.step (k := Micro.execSys_changes _ _ _ _)
    | with_reducible apply UOut.All.step (k := Micro.execBr_changes _ _ _ _)
    | with_reducible apply UOut.All.step (k := Micro.execWait_changes _ _ _ _)
    | with_reducible apply UOut.All.step (k := Micro.execMem_changes _ _ _ _)
    | with_reducible apply UOut.All.step (k := Micro.execLit_changes _ _ _ _)
    | with_reducible apply UOut.All.step (k := Micro.execImm_changes _ _ _ _)
    | with_reducible apply UOut.All.step (k := Micro.execReg_changes _ _ _ _)
    | with_reducible apply UOut.All.step (k := Micro.execVend_changes _ _ _ _)
    | with_reducible apply UOut.of_illegal
    | split

theorem State.keepRecords_changes {l : List Part} (s0 s : State) (h : State.Changes l s0 s) :
    State.Changes [.power, .mem, .cs, .free] s0 (State.keepRecords s0 s) :=
  ⟨fun p hp => by cases p <;> first | exact absurd hp (by decide) | rfl, rfl,
    fun f => ⟨(h.forms f).mem, f.prog, (h.forms f).store, f.bufs, f.rbw, f.counts, f.rsp⟩, Nat.le_refl _⟩

theorem State.microFault_changes {l : List Part} (s0 s : State) (n : Fin 16) (m : Micro) (c : FCause)
    (h : State.Changes l s0 s) (sub : [Part.power, .mem, .cs, .free].all l.contains = true) :
    (State.microFault s0 s n m c).All (State.Changes l s0) := by
  unfold State.microFault
  extract_lets s1
  have h1 : State.Changes l s0 s1 := by
    unfold s1; split
    · exact h
    · exact (State.keepRecords_changes s0 s h).mono sub
  clear_value s1
  exact h1.trans (((State.csFault_changes s1 n (s.seqs.at n).cx m.upc c).mono (m := [.power, .mem, .cs, .free]) rfl).mono sub)

theorem State.microStall_changes {l : List Part} (s0 s : State) (n : Fin 16) (m : Micro) (k : Nat) (act : W32) (d : Fin 8)
    (ns : BitVec 40) (h : State.Changes l s0 s) (sub : [.power, .seqs, .mem, .cs, .free].all l.contains = true) :
    (State.microStall s0 s n m k act d ns).All (State.Changes l s0) := by
  unfold State.microStall
  extract_lets s1
  have w : ∀ {m : List Part} {y z : State}, State.Changes l s0 y → State.Changes m y z → m.all [.power, .seqs, .mem, .cs, .free].contains = true →
      State.Changes l s0 z := fun a b c => a.trans ((b.mono c).mono sub)
  have h1 : State.Changes l s0 s1 := by
    unfold s1; split
    · exact h
    · exact w (w (.refl _ _) (State.keepRecords_changes s0 s h) rfl) (State.modSeq_changes _ _ _) rfl
  clear_value s1
  exact w h1 (State.uw_changes _ _ _) rfl

theorem State.microEnd_changes {l : List Part} (s0 s : State) (n : Fin 16) (m : Micro) (k : Nat) (w : W32)
    (go : State → Micro → Res) (x : UOut) (h : State.Changes l s0 s) (hx : x.All (State.Changes l s0))
    (hg : ∀ z y, State.Changes l s0 z → (go z y).All (State.Changes l s0)) (sub : [.power, .chans, .seqs, .mem, .cs, .free].all l.contains = true) :
    (State.microEnd s0 s n m k w go x).All (State.Changes l s0) := by
  unfold State.microEnd
  extract_lets on
  have w : ∀ {m : List Part} {y z : State}, State.Changes l s0 y → State.Changes m y z → m.all [.power, .chans, .seqs, .mem, .cs, .free].contains = true →
      State.Changes l s0 z := fun a b c => a.trans ((b.mono c).mono sub)
  have ho : ∀ z y, State.Changes l s0 z → (on z y).All (State.Changes l s0) := by
    intro z y hz
    unfold on
    split
    · exact hz
    · exact hg _ _ hz
  have hk : ∀ {z : State}, State.Changes l s0 z → State.Changes l s0 (s0.keepRecords z) := fun hz =>
    w (.refl _ _) (State.keepRecords_changes s0 _ hz) rfl
  have hf : ∀ (y : Micro) (c : FCause), (s0.microFault s n y c).All (State.Changes l s0) := fun y c =>
    State.microFault_changes s0 s n y c h (by simp at sub ⊢; simp [sub])
  clear_value on
  cases x with
  | ok y m2 => exact ho y m2 hx
  | jump m2 => exact hg s m2 h
  | fin m2 => exact h
  | illegal => exact hf { m with cost := m.cost - 1 } .uIllegal
  | stall a d i => exact State.microStall_changes _ _ _ _ _ _ _ _ h (by simp at sub ⊢; simp [sub])
  | wait => dsimp only; split_ifs; exacts [hf m .uCommit, hk h]
  | utrap t => dsimp only; split_ifs; exacts [hf m .uCommit, hk h]
  | flt y t v m3 =>
    dsimp only; split_ifs
    exacts [hf m .uCommit, ho _ { m3 with xf := true } (w hx.2 (State.eccTrap_changes _ _ _) rfl), hk hx.1]

theorem State.microOver_changes {l : List Part} (s0 s : State) (n : Fin 16) (m : Micro) (h : State.Changes l s0 s)
    (sub : [.power, .seqs, .mem, .cs, .free].all l.contains = true) : (State.microOver s0 s n m).All (State.Changes l s0) := by
  unfold State.microOver
  split
  · exact h.trans (((State.uw_changes s n m.cost).mono (m := [.power, .seqs, .mem, .cs, .free]) rfl).mono sub)
  · exact State.microFault_changes _ _ _ _ _ h (by simp at sub ⊢; simp [sub])

theorem State.microRun_changes (s0 : State) (n : Fin 16) (k : Nat) (s : State) (m : Micro) (h : State.Changes [.beryl, .lanes, .hp, .xf, .key, .power, .bat, .chans, .posts, .seqs, .ibufs, .pool, .mem, .engines, .groups, .streams, .crcs, .bss, .lcs, .gds, .abs_, .sn, .ta, .eic, .cs, .sec, .vault, .dbg, .cw, .free] s0 s) :
    (State.microRun s0 n k s m).All (State.Changes [.beryl, .lanes, .hp, .xf, .key, .power, .bat, .chans, .posts, .seqs, .ibufs, .pool, .mem, .engines, .groups, .streams, .crcs, .bss, .lcs, .gds, .abs_, .sn, .ta, .eic, .cs, .sec, .vault, .dbg, .cw, .free] s0) := by
  induction k generalizing s m with
  | zero => exact State.microOver_changes _ _ _ _ h rfl
  | succ k ih =>
    unfold State.microRun
    extract_lets m
    have g := State.csCheck_changes s (seqCluster n) m.upc
    split <;> rename_i e <;> rw [e] at g <;> dsimp only at g
    · exact State.microFault_changes _ _ _ _ _ (h.step g rfl) rfl
    · rename_i s1
      have h1 : State.Changes [.beryl, .lanes, .hp, .xf, .key, .power, .bat, .chans, .posts, .seqs, .ibufs, .pool, .mem, .engines, .groups, .streams, .crcs, .bss, .lcs, .gds, .abs_, .sn, .ta, .eic, .cs, .sec, .vault, .dbg, .cw, .free] s0 s1 := h.step g rfl
      exact State.microEnd_changes _ _ _ _ _ _ _ _ h1 ((Micro.exec_changes _ s1 n _).step (l := [.beryl, .lanes, .hp, .xf, .key, .power, .bat, .chans, .posts, .seqs, .ibufs, .pool, .mem, .engines, .groups, .streams, .crcs, .bss, .lcs, .gds, .abs_, .sn, .ta, .eic, .cs, .sec, .vault, .dbg, .cw, .free]) rfl h1)
        (fun z y hz => ih z y hz) rfl

theorem Held.res_changes (h : Held) (s : State) (n : Fin 16) : (Held.res h s n).All (State.Changes [.beryl, .lanes, .hp, .xf, .key, .power, .bat, .chans, .posts, .seqs, .ibufs, .pool, .mem, .engines, .groups, .streams, .crcs, .bss, .lcs, .gds, .abs_, .sn, .ta, .eic, .cs, .sec, .vault, .dbg, .cw, .free] s) := by
  unfold Held.res
  extract_lets op
  split
  · exact Try.res_changes _ _ _ _ _ ((State.laneDeliver_changes _ _ _ _ _).step (l := [.beryl, .lanes, .hp, .xf, .key, .power, .bat, .chans, .posts, .seqs, .ibufs, .pool, .mem, .engines, .groups, .streams, .crcs, .bss, .lcs, .gds, .abs_, .sn, .ta, .eic, .cs, .sec, .vault, .dbg, .cw, .free]) rfl (.refl _ _)) (.refl _ _)
  · rename_i m k _
    split
    · exact State.microRun_changes s n k s m (.refl _ _)
    · extract_lets s1 w
      have h1 : State.Changes [.beryl, .lanes, .hp, .xf, .key, .power, .bat, .chans, .posts, .seqs, .ibufs, .pool, .mem, .engines, .groups, .streams, .crcs, .bss, .lcs, .gds, .abs_, .sn, .ta, .eic, .cs, .sec, .vault, .dbg, .cw, .free] s s1 := by
        unfold s1; split
        · exact .refl _ _
        · exact .foldl (.refl _ _) fun z x => (State.retake_changes _ _ _).mono rfl
      clear_value s1
      exact State.microEnd_changes _ _ _ _ _ _ _ _ h1
        (Micro.tried_changes _ _ _ _ ((State.laneDeliver_changes _ _ _ _ _).step (l := [.beryl, .lanes, .hp, .xf, .key, .power, .bat, .chans, .posts, .seqs, .ibufs, .pool, .mem, .engines, .groups, .streams, .crcs, .bss, .lcs, .gds, .abs_, .sn, .ta, .eic, .cs, .sec, .vault, .dbg, .cw, .free]) rfl h1) h1)
        (fun z y hz => State.microRun_changes s n k z y hz) rfl

theorem State.vendorRun_changes (s : State) (n : Fin 16) (w : W32) :
    (State.vendorRun s n w).All (State.Changes [.beryl, .lanes, .hp, .xf, .key, .power, .bat, .chans, .posts, .seqs, .ibufs, .pool, .mem, .engines, .groups, .streams, .crcs, .bss, .lcs, .gds, .abs_, .sn, .ta, .eic, .cs, .sec, .vault, .dbg, .cw, .free] s) := State.microRun_changes s n _ s _ (.refl _ _)

theorem State.doCux_changes (s : State) (n : Fin 16) (w : W32) :
    (State.doCux s n w).All (State.Changes [.beryl, .lanes, .hp, .xf, .key, .power, .bat, .chans, .posts, .seqs, .ibufs, .pool, .mem, .engines, .groups, .streams, .crcs, .bss, .lcs, .gds, .abs_, .sn, .ta, .eic, .cs, .sec, .vault, .dbg, .cw, .free] s) := by
  unfold State.doCux
  extract_lets k x q e start
  have g := State.csCheck_changes s k x
  split <;> rename_i h <;> rw [h] at g <;> dsimp only at g
  · exact State.microFault_changes _ _ _ _ _ (g.mono rfl) rfl
  · have g1 := g.mono (m := [.beryl, .lanes, .hp, .xf, .key, .power, .bat, .chans, .posts, .seqs, .ibufs, .pool, .mem, .engines, .groups, .streams, .crcs, .bss, .lcs, .gds, .abs_, .sn, .ta, .eic, .cs, .sec, .vault, .dbg, .cw, .free]) rfl
    extract_lets e start
    split
    · exact g1
    · split
      · exact g1
      · exact (State.microRun_changes _ _ _ _ _ (.refl _ _)).step rfl g1

theorem State.readLine_changes (s : State) (k : Fin 4) (line : Nat) :
    State.Changes [.mem] s (State.readLine s k line).2 :=
  State.Changes.foldl_snd (.refl _ _) fun z _ => (State.memRead_changes z.2 _ _ 8).mono rfl

theorem State.lineOf_changes (s : State) (k : Fin 4) (line : Nat) :
    State.Changes [.ibufs, .mem] s (State.lineOf s k line).2 := by
  unfold State.lineOf
  dsimp -zeta only [← State.set_ibufs_eq]
  try dsimp only
  repeat'
    first
    | with_reducible apply State.Changes.refl
    | exact rfl
    | dsimp only
    | with_reducible apply State.Changes.ibufs
    | with_reducible apply State.Changes.step (k := State.readLine_changes _ _ _)
    | split

theorem State.fetch_changes (s : State) (n : Fin 16) :
    State.Changes [.ibufs, .mem] s (State.fetch s n).2 := by
  unfold State.fetch
  try dsimp only
  repeat'
    first
    | with_reducible apply State.Changes.refl
    | exact rfl
    | dsimp only
    | with_reducible apply State.Changes.step (k := State.lineOf_changes _ _ _)
    | split

theorem Mn.sem_changes (m : Mn) (s : State) (n : Fin 16) (w : W32) :
    (Mn.sem m s n w).All (State.Changes [.beryl, .lanes, .hp, .xf, .key, .power, .bat, .chans, .posts, .seqs, .ibufs, .pool, .mem, .engines, .groups, .streams, .crcs, .bss, .lcs, .gds, .abs_, .sn, .ta, .eic, .cs, .sec, .vault, .dbg, .cw, .free] s) := by
  unfold Mn.sem
  try dsimp only
  repeat'
    first
    | with_reducible apply State.Changes.refl
    | exact rfl
    | with_reducible apply Res.All.step (k := State.doCux_changes _ _ _)
    | with_reducible apply Res.All.step (k := State.doStop_changes _ _)
    | with_reducible apply Res.All.step (k := State.doYield_changes _ _)
    | with_reducible apply Res.All.step (k := State.doWrfc_changes _ _ _)
    | with_reducible apply Res.All.step (k := State.doRdfc_changes _ _ _)
    | with_reducible apply Res.All.step (k := State.doFst_changes _ _ _)
    | with_reducible apply Res.All.step (k := State.doFld_changes _ _ _)
    | with_reducible apply Res.All.step (k := State.doFtou_changes _ _ _)
    | with_reducible apply Res.All.step (k := State.doFtos_changes _ _ _)
    | with_reducible apply Res.All.step (k := State.doFcvtu_changes _ _ _)
    | with_reducible apply Res.All.step (k := State.doFcvts_changes _ _ _)
    | with_reducible apply Res.All.step (k := State.doFmvqg_changes _ _ _)
    | with_reducible apply Res.All.step (k := State.doFmvgq_changes _ _ _)
    | with_reducible apply Res.All.step (k := State.doFrint_changes _ _ _)
    | with_reducible apply Res.All.step (k := State.doFcpy_changes _ _ _)
    | with_reducible apply Res.All.step (k := State.doFcmp_changes _ _ _)
    | with_reducible apply Res.All.step (k := State.doFmax_changes _ _ _)
    | with_reducible apply Res.All.step (k := State.doFmin_changes _ _ _)
    | with_reducible apply Res.All.step (k := State.doFabs_changes _ _ _)
    | with_reducible apply Res.All.step (k := State.doFneg_changes _ _ _)
    | with_reducible apply Res.All.step (k := State.doFma_changes _ _ _)
    | with_reducible apply Res.All.step (k := State.doFsqrt_changes _ _ _)
    | with_reducible apply Res.All.step (k := State.doFdiv_changes _ _ _)
    | with_reducible apply Res.All.step (k := State.doFmul_changes _ _ _)
    | with_reducible apply Res.All.step (k := State.doFsub_changes _ _ _)
    | with_reducible apply Res.All.step (k := State.doFadd_changes _ _ _)
    | with_reducible apply Res.All.step (k := State.doFrel_changes _ _)
    | with_reducible apply Res.All.step (k := State.doWspill_changes _ _)
    | with_reducible apply Res.All.step (k := State.doWrc_changes _ _ _)
    | with_reducible apply Res.All.step (k := State.doRdc_changes _ _ _)
    | with_reducible apply Res.All.step (k := State.doClrex_changes _ _)
    | with_reducible apply Res.All.step (k := State.doSc_changes _ _ _)
    | with_reducible apply Res.All.step (k := State.doLl_changes _ _ _)
    | with_reducible apply Res.All.step (k := State.doTrye_changes _ _ _)
    | with_reducible apply Res.All.step (k := State.doWaite_changes _ _ _)
    | with_reducible apply Res.All.step (k := State.doFire_changes _ _ _)
    | with_reducible apply Res.All.step (k := State.doBrecv_changes _ _ _)
    | with_reducible apply Res.All.step (k := State.doTrydeq_changes _ _ _)
    | with_reducible apply Res.All.step (k := State.doDeq_changes _ _ _)
    | with_reducible apply Res.All.step (k := State.doPushe_changes _ _ _)
    | with_reducible apply Res.All.step (k := State.doEnqe_changes _ _ _)
    | with_reducible apply Res.All.step (k := State.doEnql_changes _ _ _)
    | with_reducible apply Res.All.step (k := State.doExp_changes _ _ _)
    | with_reducible apply Res.All.step (k := State.doConv_changes _ _ _)
    | with_reducible apply Res.All.step (k := State.doNow_changes _ _ _)
    | with_reducible apply Res.All.step (k := State.doTrap_changes _ _)
    | with_reducible apply Res.All.step (k := State.doWclose_changes _ _)
    | with_reducible apply Res.All.step (k := State.doWopen_changes _ _)
    | with_reducible apply Res.All.step (k := State.doRet_changes _ _ _)
    | with_reducible apply Res.All.step (k := State.doCallr_changes _ _ _)
    | with_reducible apply Res.All.step (k := State.doJr_changes _ _ _)
    | with_reducible apply Res.All.step (k := State.doCall_changes _ _ _)
    | with_reducible apply Res.All.step (k := State.doJ_changes _ _ _)
    | with_reducible apply Res.All.step (k := State.doBne_changes _ _ _)
    | with_reducible apply Res.All.step (k := State.doBeq_changes _ _ _)
    | with_reducible apply Res.All.step (k := State.doBnz_changes _ _ _)
    | with_reducible apply Res.All.step (k := State.doBz_changes _ _ _)
    | with_reducible apply Res.All.step (k := State.doBcc_changes _ _ _)
    | with_reducible apply Res.All.step (k := State.doStp_changes _ _ _)
    | with_reducible apply Res.All.step (k := State.doStwu_changes _ _ _)
    | with_reducible apply Res.All.step (k := State.doStore_changes _ _ _ _)
    | with_reducible apply Res.All.step (k := State.doLdp_changes _ _ _)
    | with_reducible apply Res.All.step (k := State.doLdwu_changes _ _ _)
    | with_reducible apply Res.All.step (k := State.doLoad_changes _ _ _ _ _)
    | with_reducible apply Res.All.step (k := State.doWrs_changes _ _ _)
    | with_reducible apply Res.All.step (k := State.doRds_changes _ _ _)
    | with_reducible apply Res.All.step (k := State.doNop_changes _)
    | with_reducible apply Res.All.step (k := State.immF_changes _ _ _ _ _)
    | with_reducible apply Res.All.step (k := State.doLui_changes _ _ _)
    | with_reducible apply Res.All.step (k := State.immR_changes _ _ _ _ _)
    | with_reducible apply Res.All.step (k := State.doIns_changes _ _ _)
    | with_reducible apply Res.All.step (k := State.doExts_changes _ _ _)
    | with_reducible apply Res.All.step (k := State.doExtu_changes _ _ _)
    | with_reducible apply Res.All.step (k := State.shiI_changes _ _ _ _)
    | with_reducible apply Res.All.step (k := State.aluD_changes _ _ _ _ _)
    | with_reducible apply Res.All.step (k := State.aluF_changes _ _ _ _)
    | with_reducible apply Res.All.step (k := State.aluT_changes _ _ _ _)
    | with_reducible apply Res.All.step (k := State.aluR_changes _ _ _ _ _)
    | split

theorem State.catchTrap_changes (s : State) (n : Fin 16) :
    State.Changes [.dbg] s (State.catchTrap s n) := by
  unfold State.catchTrap
  try dsimp only
  repeat'
    first
    | with_reducible apply State.Changes.refl
    | exact rfl
    | with_reducible apply State.Changes.step (k := State.modDsq_changes _ _ _)
    | split

theorem State.takeTrap_changes (s : State) (n : Fin 16) (uw : Nat) (t : Trap) :
    State.Changes [.power, .chans, .seqs, .pool, .mem, .eic, .cs, .dbg, .free] s (State.takeTrap s n uw t) := by
  unfold State.takeTrap
  try dsimp only
  repeat'
    first
    | with_reducible apply State.Changes.refl
    | exact rfl
    | with_reducible apply State.Changes.step (k := State.uw_changes _ _ _)
    | with_reducible apply State.Changes.step (k := State.eccTrap_changes _ _ _)
    | with_reducible apply State.Changes.step (k := State.trapEntry_changes _ _ _)
    | with_reducible apply State.Changes.step (k := State.traceTrap_changes _ _)
    | with_reducible apply State.Changes.step (k := State.catchTrap_changes _ _)

theorem State.blockOn_changes (s : State) (n : Fin 16) :
    State.Changes [.chans, .seqs] s (State.blockOn s n) := by
  unfold State.blockOn
  try dsimp only
  repeat'
    first
    | with_reducible apply State.Changes.refl
    | exact rfl
    | with_reducible apply State.Changes.step (k := State.modChan_changes _ _ _)
    | with_reducible apply State.Changes.step (k := State.reqSwitch_changes _ _)
    | split

theorem Res.retire_changes {l : List Part} {s0 : State} (r : Res) (n : Fin 16) (w : W32) (h : r.All (State.Changes l s0))
    (sub : [.power, .chans, .seqs, .pool, .mem, .eic, .cs, .dbg, .free].all l.contains = true) : State.Changes l s0 (Res.retire r n w) := by
  have w : ∀ {m : List Part} {y z : State}, State.Changes l s0 y → State.Changes m y z → m.all [.power, .chans, .seqs, .pool, .mem, .eic, .cs, .dbg, .free].contains = true →
      State.Changes l s0 z := fun a b c => a.trans ((b.mono c).mono sub)
  cases r with
  | done s1 k npc =>
    unfold Res.retire
    dsimp only
    split
    · exact w (w h (State.uw_changes _ _ _) rfl) (State.modSeq_changes _ _ _) rfl
    · exact h
  | trap s1 k t => exact w h (State.takeTrap_changes _ _ _ _) rfl
  | block s1 k => exact w (w h (State.uw_changes _ _ _) rfl) (State.blockOn_changes _ _) rfl
  | pool s1 => exact w h (State.enterPool_changes _ _ _) rfl
  | ecc s1 => exact w h (State.ctxEcc_changes _ _) rfl
  | stall s1 x => exact w h (State.modSeq_changes _ _ _) rfl
  | fault s1 k c => exact w (w h (State.uw_changes _ _ _) rfl) (State.channelFault_changes _ _ _) rfl

theorem State.ran_changes (s : State) (n : Fin 16) :
    State.Changes [.dbg] s (State.ran s n) := by
  unfold State.ran
  try dsimp only
  repeat'
    first
    | with_reducible apply State.Changes.refl
    | exact rfl
    | with_reducible apply State.Changes.step (k := State.modDsq_changes _ _ _)

theorem State.fetched_changes (s : State) (n : Fin 16) :
    State.Changes [.chans] s (State.fetched s n) := by
  unfold State.fetched
  try dsimp only
  repeat'
    first
    | with_reducible apply State.Changes.refl
    | exact rfl
    | with_reducible apply State.Changes.step (k := State.modChan_changes _ _ _)

theorem State.wordFetch_changes (s : State) (n : Fin 16) (w : W32) :
    State.Changes [.cs] s (State.wordFetch s n w).2 := by
  unfold State.wordFetch
  try dsimp only
  repeat'
    first
    | with_reducible apply State.Changes.refl
    | exact rfl
    | with_reducible apply State.Changes.step (k := State.vendorFetch_changes _ _ _)
    | split

theorem State.begin__changes (s : State) (n : Fin 16) :
    State.Changes [.chans, .ibufs, .mem, .cs] s (State.begin_ s n).2 := by
  unfold State.begin_
  try dsimp only
  repeat'
    first
    | with_reducible apply State.Changes.refl
    | exact rfl
    | dsimp only
    | with_reducible apply State.Changes.step (k := State.fetched_changes _ _)
    | refine State.Changes.snd (f := State.wordFetch _ _ _) (by with_reducible assumption) (State.wordFetch_changes _ _ _) ?_ ?_
    | refine State.Changes.snd (f := State.fetch _ _) (by with_reducible assumption) (State.fetch_changes _ _) ?_ ?_
    | split

theorem State.meaning_changes (s : State) (n : Fin 16) (w : W32) :
    (State.meaning s n w).All (State.Changes [.beryl, .lanes, .hp, .xf, .key, .power, .bat, .chans, .posts, .seqs, .ibufs, .pool, .mem, .engines, .groups, .streams, .crcs, .bss, .lcs, .gds, .abs_, .sn, .ta, .eic, .cs, .sec, .vault, .dbg, .cw, .free] s) := by
  unfold State.meaning
  try dsimp only
  repeat'
    first
    | with_reducible apply State.Changes.refl
    | exact rfl
    | with_reducible apply Res.All.step (k := Mn.sem_changes _ _ _ _)
    | with_reducible apply Res.All.step (k := State.trapped_changes _ _ _ _)
    | with_reducible apply Res.All.step (k := State.vendorRun_changes _ _ _)
    | split

theorem State.runWord_changes (s : State) (n : Fin 16) (w : W32) :
    State.Changes [.beryl, .lanes, .hp, .xf, .key, .power, .bat, .chans, .posts, .seqs, .ibufs, .pool, .mem, .engines, .groups, .streams, .crcs, .bss, .lcs, .gds, .abs_, .sn, .ta, .eic, .cs, .sec, .vault, .dbg, .cw, .free] s (State.runWord s n w) :=
  State.Changes.step (Res.retire_changes _ _ _ ((State.meaning_changes s n w).step (l := [.beryl, .lanes, .hp, .xf, .key, .power, .bat, .chans, .posts, .seqs, .ibufs, .pool, .mem, .engines, .groups, .streams, .crcs, .bss, .lcs, .gds, .abs_, .sn, .ta, .eic, .cs, .sec, .vault, .dbg, .cw, .free]) rfl (.refl _ _)) rfl)
    (State.ran_changes _ _) rfl

theorem State.execute_changes (s : State) (n : Fin 16) :
    State.Changes [.beryl, .lanes, .hp, .xf, .key, .power, .bat, .chans, .posts, .seqs, .ibufs, .pool, .mem, .engines, .groups, .streams, .crcs, .bss, .lcs, .gds, .abs_, .sn, .ta, .eic, .cs, .sec, .vault, .dbg, .cw, .free] s (State.execute s n) := by
  unfold State.execute
  try dsimp only
  repeat'
    first
    | with_reducible apply State.Changes.refl
    | exact rfl
    | with_reducible apply State.Changes.step (k := State.runWord_changes _ _ _)
    | with_reducible apply State.Changes.step (k := State.csFault_changes _ _ _ _ _)
    | with_reducible apply State.Changes.step (k := State.channelFault_changes _ _ _)
    | with_reducible apply State.Changes.step (k := State.takeTrap_changes _ _ _ _)
    | with_reducible apply State.Changes.step (k := State.ran_changes _ _)
    | refine State.Changes.snd (f := State.begin_ _ _) (by with_reducible assumption) (State.begin__changes _ _) ?_ ?_
    | split

theorem State.fed_changes (s : State) (n : Fin 16) (r : FeedRes) (c : BitVec 24) :
    State.Changes [.dbg] s (State.fed s n r c) := by
  unfold State.fed
  try dsimp only
  repeat'
    first
    | with_reducible apply State.Changes.refl
    | exact rfl
    | with_reducible apply State.Changes.step (k := State.modDsq_changes _ _ _)

theorem Res.feed_changes {l : List Part} {s0 : State} (r : Res) (n : Fin 16) (h : r.All (State.Changes l s0))
    (sub : [.chans, .seqs, .dbg].all l.contains = true) : State.Changes l s0 (Res.feed r n) := by
  have w : ∀ {m : List Part} {y z : State}, State.Changes l s0 y → State.Changes m y z → m.all [.chans, .seqs, .dbg].contains = true →
      State.Changes l s0 z := fun a b c => a.trans ((b.mono c).mono sub)
  cases r with
  | done s1 k npc =>
    unfold Res.feed
    dsimp only
    refine w ?_ (State.fed_changes _ _ _ _) rfl
    split
    · exact w h (State.uw_changes _ _ _) rfl
    · exact h
  | trap s1 k t => exact w (w (w h (State.uw_changes _ _ _) rfl) (State.eccTrap_changes _ _ _) rfl) (State.fed_changes _ _ _ _) rfl
  | block s1 k => exact w (w h (State.uw_changes _ _ _) rfl) (State.fed_changes _ _ _ _) rfl
  | pool s1 => exact w h (State.fed_changes _ _ _ _) rfl
  | ecc s1 => exact w (w h (State.channelFault_changes _ _ _) rfl) (State.fed_changes _ _ _ _) rfl
  | stall s1 x => exact w h (State.modSeq_changes _ _ _) rfl
  | fault s1 k c =>
    exact w (w (w h (State.uw_changes _ _ _) rfl) (State.channelFault_changes _ _ _) rfl) (State.fed_changes _ _ _ _) rfl

theorem State.goOn_changes (s : State) (n : Fin 16) (h : Held) :
    State.Changes [.beryl, .lanes, .hp, .xf, .key, .power, .bat, .chans, .posts, .seqs, .ibufs, .pool, .mem, .engines, .groups, .streams, .crcs, .bss, .lcs, .gds, .abs_, .sn, .ta, .eic, .cs, .sec, .vault, .dbg, .cw, .free] s (State.goOn s n h) := by
  unfold State.goOn
  extract_lets s1
  have h1 : State.Changes [.beryl, .lanes, .hp, .xf, .key, .power, .bat, .chans, .posts, .seqs, .ibufs, .pool, .mem, .engines, .groups, .streams, .crcs, .bss, .lcs, .gds, .abs_, .sn, .ta, .eic, .cs, .sec, .vault, .dbg, .cw, .free] s s1 := (State.modSeq_changes _ _ _).mono rfl
  clear_value s1
  have x := (Held.res_changes h s1 n).step (l := [.beryl, .lanes, .hp, .xf, .key, .power, .bat, .chans, .posts, .seqs, .ibufs, .pool, .mem, .engines, .groups, .streams, .crcs, .bss, .lcs, .gds, .abs_, .sn, .ta, .eic, .cs, .sec, .vault, .dbg, .cw, .free]) rfl h1
  split
  · exact Res.feed_changes _ _ x rfl
  · exact State.Changes.step (Res.retire_changes _ _ _ x rfl) (State.ran_changes _ _) rfl

theorem State.macro__changes (s : State) (n : Fin 16) (m : Option Mn) :
    State.Changes [.beryl, .lanes, .hp, .xf, .key, .power, .bat, .chans, .posts, .seqs, .ibufs, .pool, .mem, .engines, .groups, .streams, .crcs, .bss, .lcs, .gds, .abs_, .sn, .ta, .eic, .cs, .sec, .vault, .dbg, .cw, .free] s (State.macro_ s n m) := by
  unfold State.macro_
  try dsimp only
  repeat'
    first
    | with_reducible apply State.Changes.refl
    | exact rfl
    | with_reducible apply State.Changes.step (k := State.execute_changes _ _)
    | with_reducible apply State.Changes.step (k := State.goOn_changes _ _ _)
    | split

theorem State.switchEnd_changes (s : State) (n : Fin 16) (inn : Option (Fin 256)) :
    State.Changes [.dbg] s (State.switchEnd s n inn) := by
  unfold State.switchEnd
  try dsimp only
  repeat'
    first
    | with_reducible apply State.Changes.refl
    | exact rfl
    | with_reducible apply State.Changes.step (k := State.traceSwitch_changes _ _ _ _)
    | with_reducible apply State.Changes.step (k := State.modDsq_changes _ _ _)

theorem State.switchLeft_changes (s : State) (n : Fin 16) (c : Fin 256) :
    State.Changes [.dbg] s (State.switchLeft s n c) := by
  unfold State.switchLeft
  try dsimp only
  repeat'
    first
    | with_reducible apply State.Changes.refl
    | exact rfl
    | with_reducible apply State.Changes.step (k := State.switchEnd_changes _ _ _)
    | with_reducible apply State.Changes.step (k := State.modDsq_changes _ _ _)
    | split

theorem State.switchOutT_changes (s : State) (n : Fin 16) :
    State.Changes [.power, .chans, .seqs, .pool, .mem, .eic, .cs, .dbg] s (State.switchOutT s n) := by
  unfold State.switchOutT
  try dsimp only
  repeat'
    first
    | with_reducible apply State.Changes.refl
    | exact rfl
    | with_reducible apply State.Changes.step (k := State.switchLeft_changes _ _ _)
    | with_reducible apply State.Changes.step (k := State.switchOut_changes _ _)
    | split

theorem State.dispatchT_changes (s : State) (n : Fin 16) :
    State.Changes [.power, .chans, .seqs, .mem, .eic, .cs, .dbg, .free] s (State.dispatchT s n) := by
  unfold State.dispatchT
  try dsimp only
  repeat'
    first
    | with_reducible apply State.Changes.refl
    | exact rfl
    | with_reducible apply State.Changes.step (k := State.switchEnd_changes _ _ _)
    | with_reducible apply State.Changes.step (k := State.dispatch_changes _ _)
    | with_reducible apply State.Changes.step (k := State.modDsq_changes _ _ _)
    | split

theorem State.leavePool_changes (s : State) (n : Fin 16) :
    State.Changes [.chans, .seqs] s (State.leavePool s n) := by
  unfold State.leavePool
  try dsimp only
  repeat'
    first
    | with_reducible apply State.Changes.refl
    | exact rfl
    | with_reducible apply State.Changes.step (k := State.modChan_changes _ _ _)
    | with_reducible apply State.Changes.step (k := State.modSeq_changes _ _ _)
    | split

theorem State.poolRetry_changes (s : State) (n : Fin 16) :
    State.Changes [.beryl, .lanes, .hp, .xf, .key, .power, .bat, .chans, .posts, .seqs, .ibufs, .pool, .mem, .engines, .groups, .streams, .crcs, .bss, .lcs, .gds, .abs_, .sn, .ta, .eic, .cs, .sec, .vault, .dbg, .cw, .free] s (State.poolRetry s n) := by
  unfold State.poolRetry
  try dsimp only
  repeat'
    first
    | with_reducible apply State.Changes.refl
    | exact rfl
    | with_reducible apply State.Changes.step (k := State.modChan_changes _ _ _)
    | with_reducible apply State.Changes.step (k := State.faultChan_changes _ _ _)
    | with_reducible apply Saved.All.step (k := State.saveFrom_changes _ _ _)
    | with_reducible apply State.Changes.step (k := State.trapWindow_changes _ _ _)
    | with_reducible apply State.Changes.step (k := State.runWord_changes _ _ _)
    | with_reducible apply State.Changes.step (k := State.leavePool_changes _ _)
    | with_reducible apply Saved.settle_changes
    | split

theorem State.poolRetryT_changes (s : State) (n : Fin 16) :
    State.Changes [.beryl, .lanes, .hp, .xf, .key, .power, .bat, .chans, .posts, .seqs, .ibufs, .pool, .mem, .engines, .groups, .streams, .crcs, .bss, .lcs, .gds, .abs_, .sn, .ta, .eic, .cs, .sec, .vault, .dbg, .cw, .free] s (State.poolRetryT s n) := by
  unfold State.poolRetryT
  try dsimp only
  repeat'
    first
    | with_reducible apply State.Changes.refl
    | exact rfl
    | with_reducible apply State.Changes.step (k := State.switchLeft_changes _ _ _)
    | with_reducible apply State.Changes.step (k := State.poolRetry_changes _ _)
    | split

theorem State.takeHalt_changes (s : State) (n : Fin 16) :
    State.Changes [.seqs, .ta, .dbg] s (State.takeHalt s n) := by
  unfold State.takeHalt
  try dsimp only
  repeat'
    first
    | with_reducible apply State.Changes.refl
    | exact rfl
    | with_reducible apply State.Changes.step (k := State.haltSeq_changes _ _ _)
    | split

theorem State.takeGroupHalt_changes (s : State) (n : Fin 16) :
    State.Changes [.seqs, .ta, .dbg] s (State.takeGroupHalt s n) := by
  unfold State.takeGroupHalt
  try dsimp only
  repeat'
    first
    | with_reducible apply State.Changes.refl
    | exact rfl
    | with_reducible apply State.Changes.step (k := State.haltSeq_changes _ _ _)
    | split

theorem State.modPort_changes (s : State) (f : VylerPort → VylerPort) :
    State.Changes [.dbg] s (State.modPort s f) := by
  unfold State.modPort
  try dsimp only
  repeat'
    first
    | with_reducible apply State.Changes.refl
    | exact rfl
    | with_reducible apply State.Changes.step (k := State.modDbg_changes _ _)

theorem State.accErr_changes (s : State) (n : Fin 16) :
    State.Changes [.dbg] s (State.accErr s n) := by
  unfold State.accErr
  try dsimp only
  repeat'
    first
    | with_reducible apply State.Changes.refl
    | exact rfl
    | with_reducible apply State.Changes.step (k := State.modDsq_changes _ _ _)

theorem State.haltRequest_changes (s : State) (v : W32) :
    State.Changes [.dbg] s (State.haltRequest s v) := by
  unfold State.haltRequest
  try dsimp only
  repeat'
    first
    | with_reducible apply State.Changes.refl
    | exact rfl
    | with_reducible apply State.Changes.step (k := State.modDbg_changes _ _)

theorem State.releaseAll_changes (s : State) (v : W32) :
    State.Changes [.power, .chans, .seqs, .mem, .ta, .eic, .dbg] s (State.releaseAll s v) := by
  unfold State.releaseAll
  try dsimp only
  repeat'
    first
    | with_reducible apply State.Changes.refl
    | exact rfl
    | with_reducible apply State.Changes.foldl
    | with_reducible apply State.Changes.step (k := State.releaseSeq_changes _ _)
    | intro _
    | split

theorem State.stepSeq_changes (s : State) (n : Fin 16) :
    State.Changes [.beryl, .lanes, .hp, .xf, .key, .power, .bat, .chans, .posts, .seqs, .ibufs, .pool, .mem, .engines, .groups, .streams, .crcs, .bss, .lcs, .gds, .abs_, .sn, .ta, .eic, .cs, .sec, .vault, .dbg, .cw, .free] s (State.stepSeq s n) := by
  unfold State.stepSeq
  extract_lets q s1 c s2 live s3
  split
  · exact .refl _ _
  · split
    · exact (State.accErr_changes _ _).mono rfl
    · have h1 : State.Changes [.beryl, .lanes, .hp, .xf, .key, .power, .bat, .chans, .posts, .seqs, .ibufs, .pool, .mem, .engines, .groups, .streams, .crcs, .bss, .lcs, .gds, .abs_, .sn, .ta, .eic, .cs, .sec, .vault, .dbg, .cw, .free] s s1 := (State.unhalt_changes _ _).mono rfl
      have h2 : State.Changes [.beryl, .lanes, .hp, .xf, .key, .power, .bat, .chans, .posts, .seqs, .ibufs, .pool, .mem, .engines, .groups, .streams, .crcs, .bss, .lcs, .gds, .abs_, .sn, .ta, .eic, .cs, .sec, .vault, .dbg, .cw, .free] s s2 := by
        unfold s2; split
        · exact h1.step (State.modChan_changes _ _ _) rfl
        · exact h1
      have h3 : State.Changes [.beryl, .lanes, .hp, .xf, .key, .power, .bat, .chans, .posts, .seqs, .ibufs, .pool, .mem, .engines, .groups, .streams, .crcs, .bss, .lcs, .gds, .abs_, .sn, .ta, .eic, .cs, .sec, .vault, .dbg, .cw, .free] s s3 := by
        unfold s3; split
        · exact h2.step (State.execute_changes _ _) rfl
        · exact h2
      clear_value s3
      split
      · exact h3.step (State.modDsq_changes _ _ _) rfl
      · split
        · exact h3.step (State.haltSeq_changes _ _ _) rfl
        · exact h3

theorem State.singleStep_changes (s : State) (v : W32) :
    State.Changes [.beryl, .lanes, .hp, .xf, .key, .power, .bat, .chans, .posts, .seqs, .ibufs, .pool, .mem, .engines, .groups, .streams, .crcs, .bss, .lcs, .gds, .abs_, .sn, .ta, .eic, .cs, .sec, .vault, .dbg, .cw, .free] s (State.singleStep s v) := by
  unfold State.singleStep
  try dsimp only
  repeat'
    first
    | with_reducible apply State.Changes.refl
    | exact rfl
    | with_reducible apply State.Changes.foldl
    | with_reducible apply State.Changes.step (k := State.stepSeq_changes _ _)
    | intro _
    | split

theorem State.gdataW_changes (s : State) (n : Fin 16) (v : W32) :
    State.Changes [.seqs, .dbg] s (State.gdataW s n v) := by
  unfold State.gdataW
  try dsimp only
  repeat'
    first
    | with_reducible apply State.Changes.refl
    | exact rfl
    | with_reducible apply State.Changes.step (k := State.accErr_changes _ _)
    | with_reducible apply State.Changes.step (k := State.modSeq_changes _ _ _)
    | split

theorem State.feed_changes (s : State) (n : Fin 16) (w : W32) :
    State.Changes [.beryl, .lanes, .hp, .xf, .key, .power, .bat, .chans, .posts, .seqs, .ibufs, .pool, .mem, .engines, .groups, .streams, .crcs, .bss, .lcs, .gds, .abs_, .sn, .ta, .eic, .cs, .sec, .vault, .dbg, .cw, .free] s (State.feed s n w) := by
  unfold State.feed
  extract_lets q
  split
  · exact (State.modDsq_changes _ _ _).mono rfl
  · have g := State.wordFetch_changes s n w
    split
    · rename_i u s1 e
      rw [e] at g
      have h : State.Changes [.beryl, .lanes, .hp, .xf, .key, .power, .bat, .chans, .posts, .seqs, .ibufs, .pool, .mem, .engines, .groups, .streams, .crcs, .bss, .lcs, .gds, .abs_, .sn, .ta, .eic, .cs, .sec, .vault, .dbg, .cw, .free] s (s1.csFault n q.cx u .csEcc) := (g.mono rfl).step (State.csFault_changes _ _ _ _ _) rfl
      exact Res.feed_changes _ _ h rfl
    · rename_i s1 e
      rw [e] at g
      have h : State.Changes [.beryl, .lanes, .hp, .xf, .key, .power, .bat, .chans, .posts, .seqs, .ibufs, .pool, .mem, .engines, .groups, .streams, .crcs, .bss, .lcs, .gds, .abs_, .sn, .ta, .eic, .cs, .sec, .vault, .dbg, .cw, .free] s s1 := g.mono rfl
      exact Res.feed_changes _ _ ((State.meaning_changes s1 n w).step (l := [.beryl, .lanes, .hp, .xf, .key, .power, .bat, .chans, .posts, .seqs, .ibufs, .pool, .mem, .engines, .groups, .streams, .crcs, .bss, .lcs, .gds, .abs_, .sn, .ta, .eic, .cs, .sec, .vault, .dbg, .cw, .free]) rfl h) rfl

theorem State.mResult_changes (s : State) (n : Fin 16) (c : Option Cause) :
    State.Changes [.dbg] s (State.mResult s n c) := by
  unfold State.mResult
  try dsimp only
  repeat'
    first
    | with_reducible apply State.Changes.refl
    | exact rfl
    | with_reducible apply State.Changes.step (k := State.modDsq_changes _ _ _)

theorem State.dropLine_changes (s : State) (a : Nat) :
    State.Changes [.ibufs] s (State.dropLine s a) := by
  unfold State.dropLine
  dsimp -zeta only [← State.set_ibufs_eq]
  try dsimp only
  repeat'
    first
    | with_reducible apply State.Changes.refl
    | exact rfl
    | with_reducible apply State.Changes.ibufs

theorem State.memAccess_changes (s : State) (n : Fin 16) (v : W32) :
    State.Changes [.power, .seqs, .ibufs, .mem, .cs, .dbg, .free] s (State.memAccess s n v) := by
  unfold State.memAccess
  try dsimp only
  repeat'
    first
    | with_reducible apply State.Changes.refl
    | exact rfl
    | refine State.Changes.snd (f := State.memLoad _ _ _ _) (by with_reducible assumption) (State.memLoad_changes _ _ _ _) ?_ ?_
    | with_reducible apply State.Changes.step (k := State.dropLine_changes _ _)
    | with_reducible apply State.Changes.step (k := State.memWrite_changes _ _ _ _ _)
    | with_reducible apply State.Changes.step (k := State.refused_changes _ _ _ _)
    | with_reducible apply State.Changes.step (k := State.mResult_changes _ _ _)
    | with_reducible apply State.Changes.step (k := State.modDsq_changes _ _ _)
    | split

theorem State.mctrlW_changes (s : State) (n : Fin 16) (v : W32) :
    State.Changes [.power, .seqs, .ibufs, .mem, .cs, .dbg, .free] s (State.mctrlW s n v) := by
  unfold State.mctrlW
  try dsimp only
  repeat'
    first
    | with_reducible apply State.Changes.refl
    | exact rfl
    | with_reducible apply State.Changes.step (k := State.modDsq_changes _ _ _)
    | with_reducible apply State.Changes.step (k := State.memAccess_changes _ _ _)
    | split

theorem State.portWrite_changes (s : State) (a : Nat) (v : W32) :
    State.Changes [.power, .chans, .seqs, .mem, .ta, .eic, .dbg] s (State.portWrite s a v) := by
  unfold State.portWrite
  try dsimp only
  repeat'
    first
    | with_reducible apply State.Changes.refl
    | exact rfl
    | with_reducible apply State.Changes.step (k := State.modDbg_changes _ _)
    | with_reducible apply State.Changes.step (k := State.authRequest_changes _ _)
    | with_reducible apply State.Changes.step (k := State.modPort_changes _ _)
    | split

theorem State.dbgRead_changes (s : State) (a : Nat) :
    State.Changes [.dbg] s (State.dbgRead s a).2 := by
  unfold State.dbgRead
  dsimp -zeta only [← State.set_dbg_eq]
  try dsimp only
  repeat'
    first
    | with_reducible apply State.Changes.refl
    | exact rfl
    | dsimp only
    | with_reducible apply State.Changes.dbg
    | with_reducible apply State.Changes.step (k := State.accErr_changes _ _)
    | split

theorem State.dbgWrite_changes (s : State) (a : Nat) (v : W32) :
    State.Changes [.beryl, .lanes, .hp, .xf, .key, .power, .bat, .chans, .posts, .seqs, .ibufs, .pool, .mem, .engines, .groups, .streams, .crcs, .bss, .lcs, .gds, .abs_, .sn, .ta, .eic, .cs, .sec, .vault, .dbg, .cw, .free] s (State.dbgWrite s a v) := by
  unfold State.dbgWrite
  try dsimp only
  repeat'
    first
    | with_reducible apply State.Changes.refl
    | exact rfl
    | with_reducible apply State.Changes.step (k := State.tracePush_changes _ _)
    | with_reducible apply State.Changes.step (k := State.singleStep_changes _ _)
    | with_reducible apply State.Changes.step (k := State.releaseAll_changes _ _)
    | with_reducible apply State.Changes.step (k := State.haltRequest_changes _ _)
    | with_reducible apply State.Changes.step (k := State.modDbg_changes _ _)
    | with_reducible apply State.Changes.step (k := State.stim_changes _ _ _)
    | with_reducible apply State.Changes.step (k := State.mctrlW_changes _ _ _)
    | with_reducible apply State.Changes.step (k := State.feed_changes _ _ _)
    | with_reducible apply State.Changes.step (k := State.gdataW_changes _ _ _)
    | with_reducible apply State.Changes.step (k := State.modDsq_changes _ _ _)
    | split

theorem State.wireRefused_changes (s : State) (op : WireOp) (a : Nat) (c : Nat) :
    State.Changes [.power, .cs, .dbg] s (State.wireRefused s op a c) := by
  unfold State.wireRefused
  try dsimp only
  repeat'
    first
    | with_reducible apply State.Changes.refl
    | exact rfl
    | with_reducible apply State.Changes.step (k := State.modPort_changes _ _)
    | with_reducible apply State.Changes.step (k := State.refused_changes _ _ _ _)
    | split

theorem State.wireValue_changes (s : State) (a : Nat) (hw : W32) :
    State.Changes [.beryl, .power, .pool, .engines, .streams, .ta, .eic, .dbg, .cw] s (State.wireValue s a hw).2 := by
  unfold State.wireValue
  try dsimp only
  repeat'
    first
    | with_reducible apply State.Changes.refl
    | exact rfl
    | with_reducible apply State.Changes.step (k := State.regRead_changes _ _ _)
    | with_reducible apply State.Changes.step (k := State.dbgRead_changes _ _)
    | split

theorem State.wireRead_changes (s : State) (op : WireOp) (a : Nat) (hw : W32) :
    State.Changes [.beryl, .power, .chans, .seqs, .pool, .mem, .engines, .streams, .ta, .eic, .cs, .dbg, .cw, .free] s (State.wireRead s op a hw).2 := by
  unfold State.wireRead
  try dsimp only
  repeat'
    first
    | with_reducible apply State.Changes.refl
    | exact rfl
    | dsimp only
    | with_reducible apply State.Changes.step (k := State.modPort_changes _ _)
    | with_reducible apply State.Changes.step (k := State.wireValue_changes _ _ _)
    | with_reducible apply State.Changes.step (k := State.regUnc_changes _ _ _)
    | with_reducible apply State.Changes.step (k := State.wireRefused_changes _ _ _ _)
    | split

theorem State.wireWrite_changes (s : State) (a : Nat) (v : W32) (hw : W32) (coll : List PortA) :
    State.Changes [.beryl, .lanes, .hp, .xf, .key, .power, .bat, .chans, .posts, .seqs, .ibufs, .pool, .mem, .engines, .groups, .streams, .crcs, .bss, .lcs, .gds, .abs_, .sn, .ta, .eic, .cs, .sec, .vault, .dbg, .cw, .free] s (State.wireWrite s a v hw coll) := by
  unfold State.wireWrite
  try dsimp only
  repeat'
    first
    | with_reducible apply State.Changes.refl
    | exact rfl
    | with_reducible apply State.Changes.step (k := State.regWrite_changes _ _ _ _)
    | with_reducible apply State.Changes.step (k := State.dbgWrite_changes _ _ _)
    | with_reducible apply State.Changes.step (k := State.portWrite_changes _ _ _)
    | with_reducible apply State.Changes.step (k := State.wireRefused_changes _ _ _ _)
    | split

theorem State.portCmd_changes (s : State) (a : Nat) (v : W32) :
    State.Changes [.beryl, .lanes, .hp, .xf, .key, .power, .bat, .chans, .posts, .seqs, .ibufs, .pool, .mem, .engines, .groups, .streams, .crcs, .bss, .lcs, .gds, .abs_, .sn, .ta, .eic, .cs, .sec, .vault, .dbg, .cw, .free] s (State.portCmd s a v) := by
  unfold State.portCmd
  try dsimp only
  repeat'
    first
    | with_reducible apply State.Changes.refl
    | exact rfl
    | with_reducible apply State.Changes.step (k := State.wireWrite_changes _ _ _ _ _)
    | split

theorem State.traceRead_changes (s : State) :
    State.Changes [.beryl, .power, .chans, .seqs, .pool, .mem, .engines, .streams, .ta, .eic, .cs, .dbg, .cw, .free] s (State.traceRead s) := by
  unfold State.traceRead
  try dsimp only
  repeat'
    first
    | with_reducible apply State.Changes.refl
    | exact rfl
    | with_reducible apply State.Changes.step (k := State.wireRead_changes _ _ _ _)
    | split

theorem State.answer_changes (s : State) (wr : Bool) (r : Rsp) (v : W32) :
    State.Changes [.dbg] s (State.answer s wr r v) := by
  unfold State.answer
  try dsimp only
  repeat'
    first
    | with_reducible apply State.Changes.refl
    | exact rfl
    | with_reducible apply State.Changes.step (k := State.modPort_changes _ _)

theorem State.wireReadFrame_changes (s : State) (op : WireOp) (addr : BitVec 26) (prompt : Bool) (hw : W32) :
    State.Changes [.beryl, .power, .chans, .seqs, .pool, .mem, .engines, .streams, .ta, .eic, .cs, .dbg, .cw, .free] s (State.wireReadFrame s op addr prompt hw) := by
  unfold State.wireReadFrame
  try dsimp only
  repeat'
    first
    | with_reducible apply State.Changes.refl
    | exact rfl
    | refine State.Changes.snd (f := State.wireRead _ _ _ _) (by with_reducible assumption) (State.wireRead_changes _ _ _ _) ?_ ?_
    | with_reducible apply State.Changes.step (k := State.modPort_changes _ _)
    | with_reducible apply State.Changes.step (k := State.answer_changes _ _ _ _)
    | split

theorem State.wireWriteFrame_changes (s : State) (addr : BitVec 26) (v : W32) (dcrc : BitVec 8) (prompt : Bool) (hw : W32) (coll : List PortA) :
    State.Changes [.beryl, .lanes, .hp, .xf, .key, .power, .bat, .chans, .posts, .seqs, .ibufs, .pool, .mem, .engines, .groups, .streams, .crcs, .bss, .lcs, .gds, .abs_, .sn, .ta, .eic, .cs, .sec, .vault, .dbg, .cw, .free] s (State.wireWriteFrame s addr v dcrc prompt hw coll) := by
  unfold State.wireWriteFrame
  try dsimp only
  repeat'
    first
    | with_reducible apply State.Changes.refl
    | exact rfl
    | with_reducible apply State.Changes.step (k := State.wireWrite_changes _ _ _ _ _)
    | with_reducible apply State.Changes.step (k := State.modPort_changes _ _)
    | with_reducible apply State.Changes.step (k := State.answer_changes _ _ _ _)
    | split

theorem State.wireDone_changes (s : State) (hw : W32) (coll : List PortA) :
    State.Changes [.beryl, .lanes, .hp, .xf, .key, .power, .bat, .chans, .posts, .seqs, .ibufs, .pool, .mem, .engines, .groups, .streams, .crcs, .bss, .lcs, .gds, .abs_, .sn, .ta, .eic, .cs, .sec, .vault, .dbg, .cw, .free] s (State.wireDone s hw coll) := by
  unfold State.wireDone
  try dsimp only
  repeat'
    first
    | with_reducible apply State.Changes.refl
    | exact rfl
    | refine State.Changes.snd (f := State.wireRead _ _ _ _) (by with_reducible assumption) (State.wireRead_changes _ _ _ _) ?_ ?_
    | with_reducible apply State.Changes.step (k := State.wireWrite_changes _ _ _ _ _)
    | with_reducible apply State.Changes.step (k := State.modPort_changes _ _)
    | split

theorem State.headerError_changes (s : State) (sync : BitVec 2) (cmd : BitVec 3) (addr : BitVec 24) (hcrc : BitVec 4) :
    State.Changes [.dbg] s (State.headerError s sync cmd addr hcrc) := by
  unfold State.headerError
  try dsimp only
  repeat'
    first
    | with_reducible apply State.Changes.refl
    | exact rfl
    | with_reducible apply State.Changes.step (k := State.modPort_changes _ _)
    | split

theorem State.lineReset_changes (s : State) :
    State.Changes [.dbg] s (State.lineReset s) := by
  unfold State.lineReset
  try dsimp only
  repeat'
    first
    | with_reducible apply State.Changes.refl
    | exact rfl
    | with_reducible apply State.Changes.step (k := State.modPort_changes _ _)
    | split


end Sys2Proof.Machine
end

