-- ==== Sys2Proof/Laws/ChangesCommands.lean ====
section
/-! SUPPORT. What each command can change: one lemma for each constructor of the commands. -/

namespace Sys2Proof.Machine

theorem execRegisterWrite_changes (r : Req) (addr : BitVec 26) (v : W32) (s : State) :
    Answers (State.Changes [.beryl, .lanes, .hp, .xf, .key, .power, .bat, .chans, .posts, .seqs, .ibufs, .pool, .mem, .engines, .groups, .streams, .crcs, .bss, .lcs, .gds, .abs_, .sn, .ta, .eic, .cs, .sec, .vault, .dbg, .cw, .free] s) (execRegisterWrite r addr v s) := by
  unfold execRegisterWrite
  try dsimp only
  repeat'
    first
    | with_reducible apply Answers.next
    | with_reducible apply State.Changes.refl
    | exact rfl
    | with_reducible apply State.Changes.step (k := State.busWrite_changes _ _ _ _ _)
    | split

theorem execHostResponse_changes (s : State) :
    Answers (State.Changes [.beryl, .lanes, .hp, .xf, .key, .power, .bat, .chans, .posts, .seqs, .ibufs, .pool, .mem, .engines, .groups, .streams, .crcs, .bss, .lcs, .gds, .abs_, .sn, .ta, .eic, .cs, .sec, .vault, .dbg, .cw, .free] s) (execHostResponse s) := by
  unfold execHostResponse
  try dsimp only
  repeat'
    first
    | with_reducible apply Answers.next
    | with_reducible apply State.Changes.refl
    | exact rfl
    | with_reducible apply State.Changes.step (k := State.hostResponse_changes _)

theorem execAdapterReset_changes (target : Bool) (level : Bool) (s : State) :
    Answers (State.Changes [.hp, .xf] s) (execAdapterReset target level s) := by
  unfold execAdapterReset
  try dsimp only
  repeat'
    first
    | with_reducible apply Answers.next
    | with_reducible apply State.Changes.refl
    | exact rfl
    | with_reducible apply State.Changes.step (k := State.adapterReset_changes _ _ _)

theorem execHpErrClear_changes (s : State) :
    Answers (State.Changes [.hp] s) (execHpErrClear s) := by
  unfold execHpErrClear
  try dsimp only
  repeat'
    first
    | with_reducible apply Answers.next
    | with_reducible apply State.Changes.refl
    | exact rfl
    | with_reducible apply State.Changes.step (k := State.hpErrClear_changes _)
    | split

theorem execXfEnable_changes (s : State) :
    Answers (State.Changes [.xf] s) (execXfEnable s) := by
  unfold execXfEnable
  try dsimp only
  repeat'
    first
    | with_reducible apply Answers.next
    | with_reducible apply State.Changes.refl
    | exact rfl
    | with_reducible apply State.Changes.step (k := State.xfEnable_changes _)
    | split

theorem execXfGo_changes (dir : Bool) (s : State) :
    Answers (State.Changes [.xf] s) (execXfGo dir s) := by
  unfold execXfGo
  try dsimp only
  repeat'
    first
    | with_reducible apply Answers.next
    | with_reducible apply State.Changes.refl
    | exact rfl
    | with_reducible apply State.Changes.step (k := State.xfGo_changes _ _)
    | split

theorem execXfDisable_changes (abort : Bool) (s : State) :
    Answers (State.Changes [.xf] s) (execXfDisable abort s) := by
  unfold execXfDisable
  try dsimp only
  repeat'
    first
    | with_reducible apply Answers.next
    | with_reducible apply State.Changes.refl
    | exact rfl
    | with_reducible apply State.Changes.step (k := State.xfDisable_changes _ _)
    | split

theorem execXfBurstIssue_changes (t : Instant) (tag : Fin 8) (taken : Nat) (s : State) :
    Answers (State.Changes [.beryl, .xf, .mem, .free] s) (execXfBurstIssue t tag taken s) := by
  unfold execXfBurstIssue
  try dsimp only
  repeat'
    first
    | with_reducible apply Answers.next
    | with_reducible apply State.Changes.refl
    | exact rfl
    | with_reducible apply State.Changes.step (k := State.advance_changes _ _)
    | with_reducible apply State.Changes.step (k := State.xfBeats_changes _ _)
    | with_reducible apply State.Changes.step (k := State.xfIssue_changes _ _)

theorem execXfBurstResponse_changes (tag : Fin 8) (status : BitVec 2) (data : W64) (last : Bool) (taken : Nat) (s : State) :
    Answers (State.Changes [.xf, .power, .seqs, .mem, .cs] s) (execXfBurstResponse tag status data last taken s) := by
  unfold execXfBurstResponse
  try dsimp only
  repeat'
    first
    | with_reducible apply Answers.next
    | with_reducible apply State.Changes.refl
    | exact rfl
    | with_reducible apply State.Changes.step (k := State.xfBeats_changes _ _)
    | with_reducible apply State.Changes.step (k := State.xfResponse_changes _ _ _ _ _)

theorem execXfTimeout_changes (t : Instant) (s : State) :
    Answers (State.Changes [.beryl, .xf] s) (execXfTimeout t s) := by
  unfold execXfTimeout
  try dsimp only
  repeat'
    first
    | with_reducible apply Answers.next
    | with_reducible apply State.Changes.refl
    | exact rfl
    | with_reducible apply State.Changes.step (k := State.advance_changes _ _)
    | with_reducible apply State.Changes.step (k := State.xfTimeout_changes _)

theorem execXfDoneClear_changes (s : State) :
    Answers (State.Changes [.xf] s) (execXfDoneClear s) := by
  unfold execXfDoneClear
  try dsimp only
  repeat'
    first
    | with_reducible apply Answers.next
    | with_reducible apply State.Changes.refl
    | exact rfl
    | with_reducible apply State.Changes.step (k := State.xfDoneClear_changes _)
    | split

theorem execLaneInputEdge_changes (t : Instant) (lane : Fin 256) (level : Bool) (s : State) :
    Answers (State.Changes [.beryl, .lanes, .ta] s) (execLaneInputEdge t lane level s) := by
  unfold execLaneInputEdge
  try dsimp only
  repeat'
    first
    | with_reducible apply Answers.next
    | with_reducible apply State.Changes.refl
    | exact rfl
    | with_reducible apply State.Changes.step (k := State.advance_changes _ _)
    | with_reducible apply State.Changes.step (k := State.inputEdge_changes _ _ _ _)

theorem execLaneEnqueue_changes (t : Instant) (lane : Fin 256) (op : ActOp) (v : Bool) (td : Fin 8) (ns : BitVec 40) (s : State) :
    Answers (State.Changes [.beryl, .lanes, .chans, .seqs] s) (execLaneEnqueue t lane op v td ns s) := by
  unfold execLaneEnqueue
  try dsimp only
  repeat'
    first
    | with_reducible apply Answers.next
    | with_reducible apply State.Changes.refl
    | exact rfl
    | with_reducible apply State.Changes.step (k := State.advance_changes _ _)
    | with_reducible apply State.Changes.step (k := State.enqLane_changes _ _ _ _ _ _)

theorem execActionDrive_changes (t : Instant) (lane : Fin 256) (s : State) :
    Answers (State.Changes [.beryl, .lanes, .chans, .seqs] s) (execActionDrive t lane s) := by
  unfold execActionDrive
  try dsimp only
  repeat'
    first
    | with_reducible apply Answers.next
    | with_reducible apply State.Changes.refl
    | exact rfl
    | with_reducible apply State.Changes.step (k := State.advance_changes _ _)
    | with_reducible apply State.Changes.step (k := State.execAction_changes _ _ _)

theorem execActionFloat_changes (t : Instant) (lane : Fin 256) (s : State) :
    Answers (State.Changes [.beryl, .lanes, .chans, .seqs] s) (execActionFloat t lane s) := by
  unfold execActionFloat
  try dsimp only
  repeat'
    first
    | with_reducible apply Answers.next
    | with_reducible apply State.Changes.refl
    | exact rfl
    | with_reducible apply State.Changes.step (k := State.advance_changes _ _)
    | with_reducible apply State.Changes.step (k := State.execAction_changes _ _ _)

theorem execActionToggle_changes (t : Instant) (lane : Fin 256) (s : State) :
    Answers (State.Changes [.beryl, .lanes, .chans, .seqs] s) (execActionToggle t lane s) := by
  unfold execActionToggle
  try dsimp only
  repeat'
    first
    | with_reducible apply Answers.next
    | with_reducible apply State.Changes.refl
    | exact rfl
    | with_reducible apply State.Changes.step (k := State.advance_changes _ _)
    | with_reducible apply State.Changes.step (k := State.execAction_changes _ _ _)

theorem execActionRest_changes (t : Instant) (lane : Fin 256) (s : State) :
    Answers (State.Changes [.beryl, .lanes, .chans, .seqs] s) (execActionRest t lane s) := by
  unfold execActionRest
  try dsimp only
  repeat'
    first
    | with_reducible apply Answers.next
    | with_reducible apply State.Changes.refl
    | exact rfl
    | with_reducible apply State.Changes.step (k := State.advance_changes _ _)
    | with_reducible apply State.Changes.step (k := State.execAction_changes _ _ _)

theorem execActionSample_changes (t : Instant) (lane : Fin 256) (s : State) :
    Answers (State.Changes [.beryl, .lanes, .chans, .seqs] s) (execActionSample t lane s) := by
  unfold execActionSample
  try dsimp only
  repeat'
    first
    | with_reducible apply Answers.next
    | with_reducible apply State.Changes.refl
    | exact rfl
    | with_reducible apply State.Changes.step (k := State.advance_changes _ _)
    | with_reducible apply State.Changes.step (k := State.execAction_changes _ _ _)

theorem execActionMark_changes (t : Instant) (lane : Fin 256) (s : State) :
    Answers (State.Changes [.beryl, .lanes, .chans, .seqs] s) (execActionMark t lane s) := by
  unfold execActionMark
  try dsimp only
  repeat'
    first
    | with_reducible apply Answers.next
    | with_reducible apply State.Changes.refl
    | exact rfl
    | with_reducible apply State.Changes.step (k := State.advance_changes _ _)
    | with_reducible apply State.Changes.step (k := State.execAction_changes _ _ _)

theorem execLaneFaultEntry_changes (t : Instant) (lane : Fin 256) (s : State) :
    Answers (State.Changes [.beryl, .lanes, .chans, .seqs] s) (execLaneFaultEntry t lane s) := by
  unfold execLaneFaultEntry
  try dsimp only
  repeat'
    first
    | with_reducible apply Answers.next
    | with_reducible apply State.Changes.refl
    | exact rfl
    | with_reducible apply State.Changes.step (k := State.advance_changes _ _)
    | with_reducible apply State.Changes.step (k := State.laneFaultDue_changes _ _)

theorem execCaptureCommit_changes (t : Instant) (lane : Fin 256) (s : State) :
    Answers (State.Changes [.beryl, .lanes, .chans, .seqs] s) (execCaptureCommit t lane s) := by
  unfold execCaptureCommit
  try dsimp only
  repeat'
    first
    | with_reducible apply Answers.next
    | with_reducible apply State.Changes.refl
    | exact rfl
    | with_reducible apply State.Changes.step (k := State.advance_changes _ _)
    | with_reducible apply State.Changes.step (k := State.commitCapture_changes _ _)

theorem execLaneEnable_changes (lane : Fin 256) (v : W32) (s : State) :
    Answers (State.Changes [.lanes, .chans, .seqs, .engines] s) (execLaneEnable lane v s) := by
  unfold execLaneEnable
  try dsimp only
  repeat'
    first
    | with_reducible apply Answers.next
    | with_reducible apply State.Changes.refl
    | exact rfl
    | with_reducible apply State.Changes.step (k := State.laneCfgWrite_changes _ _ _)
    | split

theorem execLaneDisable_changes (lane : Fin 256) (v : W32) (s : State) :
    Answers (State.Changes [.lanes, .chans, .seqs, .engines] s) (execLaneDisable lane v s) := by
  unfold execLaneDisable
  try dsimp only
  repeat'
    first
    | with_reducible apply Answers.next
    | with_reducible apply State.Changes.refl
    | exact rfl
    | with_reducible apply State.Changes.step (k := State.laneCfgWrite_changes _ _ _)
    | split

theorem execLaneCfgWrite_changes (lane : Fin 256) (v : W32) (s : State) :
    Answers (State.Changes [.lanes, .chans, .seqs, .engines] s) (execLaneCfgWrite lane v s) := by
  unfold execLaneCfgWrite
  try dsimp only
  repeat'
    first
    | with_reducible apply Answers.next
    | with_reducible apply State.Changes.refl
    | exact rfl
    | with_reducible apply State.Changes.step (k := State.laneCfgWrite_changes _ _ _)
    | split

theorem execClrflt_changes (lane : Fin 256) (s : State) :
    Answers (State.Changes [.lanes] s) (execClrflt lane s) := by
  unfold execClrflt
  try dsimp only
  repeat'
    first
    | with_reducible apply Answers.next
    | with_reducible apply State.Changes.refl
    | exact rfl
    | with_reducible apply State.Changes.step (k := State.laneClrFlt_changes _ _)
    | split

theorem execFlushA_changes (lane : Fin 256) (s : State) :
    Answers (State.Changes [.lanes] s) (execFlushA lane s) := by
  unfold execFlushA
  try dsimp only
  repeat'
    first
    | with_reducible apply Answers.next
    | with_reducible apply State.Changes.refl
    | exact rfl
    | with_reducible apply State.Changes.step (k := State.laneFlushA_changes _ _)
    | split

theorem execFlushC_changes (lane : Fin 256) (s : State) :
    Answers (State.Changes [.lanes] s) (execFlushC lane s) := by
  unfold execFlushC
  try dsimp only
  repeat'
    first
    | with_reducible apply Answers.next
    | with_reducible apply State.Changes.refl
    | exact rfl
    | with_reducible apply State.Changes.step (k := State.laneFlushC_changes _ _)
    | split

theorem execSupplyOkFall_changes (t : Instant) (level : Bool) (s : State) :
    Answers (State.Changes [.beryl, .power] s) (execSupplyOkFall t level s) := by
  unfold execSupplyOkFall
  try dsimp only
  repeat'
    first
    | with_reducible apply Answers.next
    | with_reducible apply State.Changes.refl
    | exact rfl
    | with_reducible apply State.Changes.step (k := State.advance_changes _ _)
    | with_reducible apply State.Changes.step (k := State.supplyLevel_changes _ _)

theorem execSupplyLowEnd_changes (t : Instant) (s : State) :
    Answers (State.Changes [.beryl, .power] s) (execSupplyLowEnd t s) := by
  unfold execSupplyLowEnd
  try dsimp only
  repeat'
    first
    | with_reducible apply Answers.next
    | with_reducible apply State.Changes.refl
    | exact rfl
    | with_reducible apply State.Changes.step (k := State.advance_changes _ _)
    | with_reducible apply State.Changes.step (k := State.supplyEnd_changes _)

theorem execHalfOn_changes (h : Fin 2) (s : State) :
    Answers (State.Changes [.power] s) (execHalfOn h s) := by
  unfold execHalfOn
  try dsimp only
  repeat'
    first
    | with_reducible apply Answers.next
    | with_reducible apply State.Changes.refl
    | exact rfl
    | with_reducible apply State.Changes.step (k := State.halfOn_changes _ _)

theorem execHalfOff_changes (h : Fin 2) (s : State) :
    Answers (State.Changes [.lanes, .power, .chans, .seqs, .ibufs, .engines, .groups, .streams, .crcs, .bss, .lcs, .gds, .abs_, .ta, .eic, .cs, .dbg] s) (execHalfOff h s) := by
  unfold execHalfOff
  try dsimp only
  repeat'
    first
    | with_reducible apply Answers.next
    | with_reducible apply State.Changes.refl
    | exact rfl
    | with_reducible apply State.Changes.step (k := State.halfOff_changes _ _)

theorem execHalfReset_changes (h : Fin 2) (s : State) :
    Answers (State.Changes [.lanes, .power, .chans, .seqs, .ibufs, .engines, .groups, .streams, .crcs, .bss, .lcs, .gds, .abs_, .ta, .eic, .cs, .dbg] s) (execHalfReset h s) := by
  unfold execHalfReset
  try dsimp only
  repeat'
    first
    | with_reducible apply Answers.next
    | with_reducible apply State.Changes.refl
    | exact rfl
    | with_reducible apply State.Changes.step (k := State.halfRestart_changes _ _ _)

theorem execHalfSleep_changes (h : Fin 2) (s : State) :
    Answers (State.Changes [.power, .eic, .dbg] s) (execHalfSleep h s) := by
  unfold execHalfSleep
  try dsimp only
  repeat'
    first
    | with_reducible apply Answers.next
    | with_reducible apply State.Changes.refl
    | exact rfl
    | with_reducible apply State.Changes.step (k := State.halfSleep_changes _ _)

theorem execHalfWake_changes (h : Fin 2) (s : State) :
    Answers (State.Changes [.power, .dbg] s) (execHalfWake h s) := by
  unfold execHalfWake
  try dsimp only
  repeat'
    first
    | with_reducible apply Answers.next
    | with_reducible apply State.Changes.refl
    | exact rfl
    | with_reducible apply State.Changes.step (k := State.halfWake_changes _ _)

theorem execHalfUpDone_changes (h : Fin 2) (s : State) :
    Answers (State.Changes [.lanes, .power, .seqs, .ibufs, .engines, .groups, .streams, .crcs, .bss, .lcs, .gds, .abs_, .ta, .eic, .cs, .sec, .dbg] s) (execHalfUpDone h s) := by
  unfold execHalfUpDone
  try dsimp only
  repeat'
    first
    | with_reducible apply Answers.next
    | with_reducible apply State.Changes.refl
    | exact rfl
    | with_reducible apply State.Changes.step (k := State.halfUpDone_changes _ _)

theorem execHalfSleepDone_changes (h : Fin 2) (s : State) :
    Answers (State.Changes [.lanes, .power, .chans, .seqs, .ibufs, .pool, .mem, .engines, .eic, .dbg] s) (execHalfSleepDone h s) := by
  unfold execHalfSleepDone
  try dsimp only
  repeat'
    first
    | with_reducible apply Answers.next
    | with_reducible apply State.Changes.refl
    | exact rfl
    | with_reducible apply State.Changes.step (k := State.halfSleepDone_changes _ _)

theorem execHalfWakeDone_changes (h : Fin 2) (s : State) :
    Answers (State.Changes [.power, .seqs, .eic, .dbg] s) (execHalfWakeDone h s) := by
  unfold execHalfWakeDone
  try dsimp only
  repeat'
    first
    | with_reducible apply Answers.next
    | with_reducible apply State.Changes.refl
    | exact rfl
    | with_reducible apply State.Changes.step (k := State.halfWakeDone_changes _ _)

theorem execHalfDownDone_changes (h : Fin 2) (s : State) :
    Answers (State.Changes [.power] s) (execHalfDownDone h s) := by
  unfold execHalfDownDone
  try dsimp only
  repeat'
    first
    | with_reducible apply Answers.next
    | with_reducible apply State.Changes.refl
    | exact rfl
    | with_reducible apply State.Changes.step (k := State.halfDownDone_changes _ _)

theorem execSupCfgWrite_changes (r : Req) (v : W32) (s : State) :
    Answers (State.Changes [.beryl, .lanes, .hp, .xf, .key, .power, .bat, .chans, .posts, .seqs, .ibufs, .pool, .mem, .engines, .groups, .streams, .crcs, .bss, .lcs, .gds, .abs_, .sn, .ta, .eic, .cs, .sec, .vault, .dbg, .cw, .free] s) (execSupCfgWrite r v s) := by
  unfold execSupCfgWrite
  try dsimp only
  repeat'
    first
    | with_reducible apply Answers.next
    | with_reducible apply State.Changes.refl
    | exact rfl
    | with_reducible apply State.Changes.step (k := State.busWrite_changes _ _ _ _ _)

theorem execLastGaspWrite_changes (s : State) :
    Answers (State.Changes [.beryl, .lanes, .hp, .xf, .key, .power, .bat, .chans, .posts, .seqs, .ibufs, .pool, .mem, .engines, .groups, .streams, .crcs, .bss, .lcs, .gds, .abs_, .sn, .ta, .eic, .cs, .sec, .vault, .dbg, .cw, .free] s) (execLastGaspWrite s) := by
  unfold execLastGaspWrite
  try dsimp only
  repeat'
    first
    | with_reducible apply Answers.next
    | with_reducible apply State.Changes.refl
    | exact rfl
    | with_reducible apply State.Changes.step (k := State.gaspWrite_changes _)

theorem execLeaseClaim_changes (r : Req) (h : Fin 2) (v : W32) (s : State) :
    Answers (State.Changes [.beryl, .lanes, .hp, .xf, .key, .power, .bat, .chans, .posts, .seqs, .ibufs, .pool, .mem, .engines, .groups, .streams, .crcs, .bss, .lcs, .gds, .abs_, .sn, .ta, .eic, .cs, .sec, .vault, .dbg, .cw, .free] s) (execLeaseClaim r h v s) := by
  unfold execLeaseClaim
  try dsimp only
  repeat'
    first
    | with_reducible apply Answers.next
    | with_reducible apply State.Changes.refl
    | exact rfl
    | with_reducible apply State.Changes.step (k := State.busWrite_changes _ _ _ _ _)

theorem execLeaseExpiry_changes (t : Instant) (h : Fin 2) (s : State) :
    Answers (State.Changes [.beryl, .power] s) (execLeaseExpiry t h s) := by
  unfold execLeaseExpiry
  try dsimp only
  repeat'
    first
    | with_reducible apply Answers.next
    | with_reducible apply State.Changes.refl
    | exact rfl
    | with_reducible apply State.Changes.step (k := State.advance_changes _ _)
    | with_reducible apply State.Changes.step (k := State.leaseExpiry_changes _ _)

theorem execBbWrite_changes (r : Req) (k : Fin 64) (v : W32) (s : State) :
    Answers (State.Changes [.beryl, .lanes, .hp, .xf, .key, .power, .bat, .chans, .posts, .seqs, .ibufs, .pool, .mem, .engines, .groups, .streams, .crcs, .bss, .lcs, .gds, .abs_, .sn, .ta, .eic, .cs, .sec, .vault, .dbg, .cw, .free] s) (execBbWrite r k v s) := by
  unfold execBbWrite
  try dsimp only
  repeat'
    first
    | with_reducible apply Answers.next
    | with_reducible apply State.Changes.refl
    | exact rfl
    | with_reducible apply State.Changes.step (k := State.busWrite_changes _ _ _ _ _)

theorem execPowerOnReset_changes (s : State) :
    Answers (State.Changes [.beryl, .lanes, .hp, .xf, .key, .power, .bat, .chans, .posts, .seqs, .ibufs, .pool, .mem, .engines, .groups, .streams, .crcs, .bss, .lcs, .gds, .abs_, .sn, .ta, .eic, .cs, .sec, .vault, .dbg, .cw] s) (execPowerOnReset s) := by
  unfold execPowerOnReset
  try dsimp only
  repeat'
    first
    | with_reducible apply Answers.next
    | with_reducible apply State.Changes.refl
    | exact rfl
    | with_reducible apply State.Changes.step (k := State.powerOn_changes _)
    | with_reducible apply State.Changes.step (k := State.tamperSettle_changes _)

theorem execPorstNRelease_changes (s : State) :
    Answers (State.Changes [.beryl, .lanes, .hp, .xf, .key, .power, .chans, .posts, .seqs, .ibufs, .pool, .mem, .engines, .groups, .streams, .crcs, .bss, .lcs, .gds, .abs_, .sn, .ta, .eic, .cs, .sec, .vault, .dbg, .cw] s) (execPorstNRelease s) := by
  unfold execPorstNRelease
  try dsimp only
  repeat'
    first
    | with_reducible apply Answers.next
    | with_reducible apply State.Changes.refl
    | exact rfl
    | with_reducible apply State.Changes.step (k := State.porstRelease_changes _)

theorem execRstNAssert_changes (s : State) :
    Answers (State.Changes [.beryl, .lanes, .hp, .xf, .key, .power, .bat, .chans, .posts, .seqs, .ibufs, .pool, .mem, .engines, .groups, .streams, .crcs, .bss, .lcs, .gds, .abs_, .sn, .ta, .eic, .cs, .sec, .vault, .dbg, .cw] s) (execRstNAssert s) := by
  unfold execRstNAssert
  try dsimp only
  repeat'
    first
    | with_reducible apply Answers.next
    | with_reducible apply State.Changes.refl
    | exact rfl
    | with_reducible apply State.Changes.step (k := State.rstAssert_changes _)
    | with_reducible apply State.Changes.step (k := State.tamperSettle_changes _)

theorem execRstNRelease_changes (s : State) :
    Answers (State.Changes [.beryl, .power, .chans, .seqs, .mem, .ta, .eic, .vault, .dbg] s) (execRstNRelease s) := by
  unfold execRstNRelease
  try dsimp only
  repeat'
    first
    | with_reducible apply Answers.next
    | with_reducible apply State.Changes.refl
    | exact rfl
    | with_reducible apply State.Changes.step (k := State.rstRelease_changes _)

theorem execCommonReady_changes (s : State) :
    Answers (State.Changes [.power, .mem] s) (execCommonReady s) := by
  unfold execCommonReady
  try dsimp only
  repeat'
    first
    | with_reducible apply Answers.next
    | with_reducible apply State.Changes.refl
    | exact rfl
    | with_reducible apply State.Changes.step (k := State.commonReady_changes _)

theorem execVcoreLoss_changes (s : State) :
    Answers (State.Changes [.beryl, .lanes, .hp, .xf, .key, .power, .bat, .chans, .posts, .seqs, .ibufs, .pool, .mem, .engines, .groups, .streams, .crcs, .bss, .lcs, .gds, .abs_, .sn, .ta, .eic, .cs, .sec, .vault, .dbg, .cw] s) (execVcoreLoss s) := by
  unfold execVcoreLoss
  try dsimp only
  repeat'
    first
    | with_reducible apply Answers.next
    | with_reducible apply State.Changes.refl
    | exact rfl
    | with_reducible apply State.Changes.step (k := State.vcoreLoss_changes _)
    | with_reducible apply State.Changes.step (k := State.tamperSettle_changes _)

theorem execBatteryLoss_changes (s : State) :
    Answers (State.Changes [.power, .bat, .chans, .seqs, .mem, .ta, .eic, .vault, .dbg, .free] s) (execBatteryLoss s) := by
  unfold execBatteryLoss
  try dsimp only
  repeat'
    first
    | with_reducible apply Answers.next
    | with_reducible apply State.Changes.refl
    | exact rfl
    | with_reducible apply State.Changes.step (k := State.batteryLoss_changes _)

theorem execBatteryInit_changes (s : State) :
    Answers (State.Changes [.beryl, .lanes, .hp, .xf, .key, .power, .bat, .chans, .posts, .seqs, .ibufs, .pool, .mem, .engines, .groups, .streams, .crcs, .bss, .lcs, .gds, .abs_, .sn, .ta, .eic, .cs, .sec, .vault, .dbg, .cw] s) (execBatteryInit s) := by
  unfold execBatteryInit
  try dsimp only
  repeat'
    first
    | with_reducible apply Answers.next
    | with_reducible apply State.Changes.refl
    | exact rfl
    | with_reducible apply State.Changes.step (k := State.batteryInit_changes _)
    | with_reducible apply State.Changes.step (k := State.tamperSettle_changes _)

theorem execTestModeChange_changes (v : Bool) (s : State) :
    Answers (State.Changes [.beryl, .lanes, .hp, .xf, .key, .power, .bat, .chans, .posts, .seqs, .ibufs, .pool, .mem, .engines, .groups, .streams, .crcs, .bss, .lcs, .gds, .abs_, .sn, .ta, .eic, .cs, .sec, .vault, .dbg, .cw] s) (execTestModeChange v s) := by
  unfold execTestModeChange
  try dsimp only
  repeat'
    first
    | with_reducible apply Answers.next
    | with_reducible apply State.Changes.refl
    | exact rfl
    | with_reducible apply State.Changes.step (k := State.testMode_changes _ _)
    | with_reducible apply State.Changes.step (k := State.tamperSettle_changes _)

theorem execVcoreReturn_changes (s : State) :
    Answers (State.Changes [.power] s) (execVcoreReturn s) := by
  unfold execVcoreReturn
  try dsimp only
  repeat'
    first
    | with_reducible apply Answers.next
    | with_reducible apply State.Changes.refl
    | exact rfl
    | with_reducible apply State.Changes.step (k := State.vcoreReturn_changes _)

theorem execVaoLoss_changes (s : State) :
    Answers (State.Changes [.beryl, .lanes, .hp, .xf, .key, .power, .bat, .chans, .posts, .seqs, .ibufs, .pool, .mem, .engines, .groups, .streams, .crcs, .bss, .lcs, .gds, .abs_, .sn, .ta, .eic, .cs, .sec, .vault, .dbg, .cw] s) (execVaoLoss s) := by
  unfold execVaoLoss
  try dsimp only
  repeat'
    first
    | with_reducible apply Answers.next
    | with_reducible apply State.Changes.refl
    | exact rfl
    | with_reducible apply State.Changes.step (k := State.vaoLoss_changes _)
    | with_reducible apply State.Changes.step (k := State.tamperSettle_changes _)

theorem execKeyAck_changes (t : Instant) (level : Bool) (key : BitVec 256) (s : State) :
    Answers (State.Changes [.beryl, .key, .power, .seqs, .mem, .sec] s) (execKeyAck t level key s) := by
  unfold execKeyAck
  try dsimp only
  repeat'
    first
    | with_reducible apply Answers.next
    | with_reducible apply State.Changes.refl
    | exact rfl
    | with_reducible apply State.Changes.step (k := State.advance_changes _ _)
    | with_reducible apply State.Changes.step (k := State.keyAck_changes _ _ _)

theorem execKeyReadTimeout_changes (t : Instant) (s : State) :
    Answers (State.Changes [.beryl, .key, .seqs, .mem, .sec] s) (execKeyReadTimeout t s) := by
  unfold execKeyReadTimeout
  try dsimp only
  repeat'
    first
    | with_reducible apply Answers.next
    | with_reducible apply State.Changes.refl
    | exact rfl
    | with_reducible apply State.Changes.step (k := State.advance_changes _ _)
    | with_reducible apply State.Changes.step (k := State.keyTimeout_changes _)

theorem execLifecycleRequest_changes (r : Req) (v : W32) (s : State) :
    Answers (State.Changes [.beryl, .lanes, .hp, .xf, .key, .power, .bat, .chans, .posts, .seqs, .ibufs, .pool, .mem, .engines, .groups, .streams, .crcs, .bss, .lcs, .gds, .abs_, .sn, .ta, .eic, .cs, .sec, .vault, .dbg, .cw, .free] s) (execLifecycleRequest r v s) := by
  unfold execLifecycleRequest
  try dsimp only
  repeat'
    first
    | with_reducible apply Answers.next
    | with_reducible apply State.Changes.refl
    | exact rfl
    | with_reducible apply State.Changes.step (k := State.busWrite_changes _ _ _ _ _)

theorem execLifecycleCommit_changes (t : Instant) (s : State) :
    Answers (State.Changes [.beryl, .key, .power, .bat, .chans, .seqs, .mem, .ta, .eic, .sec, .vault, .dbg] s) (execLifecycleCommit t s) := by
  unfold execLifecycleCommit
  try dsimp only
  repeat'
    first
    | with_reducible apply Answers.next
    | with_reducible apply State.Changes.refl
    | exact rfl
    | with_reducible apply State.Changes.step (k := State.advance_changes _ _)
    | with_reducible apply State.Changes.step (k := State.lcCommit_changes _)
    | with_reducible apply State.Changes.step (k := State.tamperSettle_changes _)

theorem execLoaderGo_changes (r : Req) (s : State) :
    Answers (State.Changes [.beryl, .lanes, .hp, .xf, .key, .power, .bat, .chans, .posts, .seqs, .ibufs, .pool, .mem, .engines, .groups, .streams, .crcs, .bss, .lcs, .gds, .abs_, .sn, .ta, .eic, .cs, .sec, .vault, .dbg, .cw, .free] s) (execLoaderGo r s) := by
  unfold execLoaderGo
  try dsimp only
  repeat'
    first
    | with_reducible apply Answers.next
    | with_reducible apply State.Changes.refl
    | exact rfl
    | with_reducible apply State.Changes.step (k := State.busWrite_changes _ _ _ _ _)

theorem execLoaderAbort_changes (r : Req) (s : State) :
    Answers (State.Changes [.beryl, .lanes, .hp, .xf, .key, .power, .bat, .chans, .posts, .seqs, .ibufs, .pool, .mem, .engines, .groups, .streams, .crcs, .bss, .lcs, .gds, .abs_, .sn, .ta, .eic, .cs, .sec, .vault, .dbg, .cw, .free] s) (execLoaderAbort r s) := by
  unfold execLoaderAbort
  try dsimp only
  repeat'
    first
    | with_reducible apply Answers.next
    | with_reducible apply State.Changes.refl
    | exact rfl
    | with_reducible apply State.Changes.step (k := State.busWrite_changes _ _ _ _ _)

theorem execLoaderWindowWrite_changes (r : Req) (h : Fin 2) (w : Fin 4096) (v : W32) (s : State) :
    Answers (State.Changes [.beryl, .lanes, .hp, .xf, .key, .power, .bat, .chans, .posts, .seqs, .ibufs, .pool, .mem, .engines, .groups, .streams, .crcs, .bss, .lcs, .gds, .abs_, .sn, .ta, .eic, .cs, .sec, .vault, .dbg, .cw, .free] s) (execLoaderWindowWrite r h w v s) := by
  unfold execLoaderWindowWrite
  try dsimp only
  repeat'
    first
    | with_reducible apply Answers.next
    | with_reducible apply State.Changes.refl
    | exact rfl
    | with_reducible apply State.Changes.step (k := State.busWrite_changes _ _ _ _ _)

theorem execLoaderFeed_changes (r : Req) (v : W32) (s : State) :
    Answers (State.Changes [.beryl, .lanes, .hp, .xf, .key, .power, .bat, .chans, .posts, .seqs, .ibufs, .pool, .mem, .engines, .groups, .streams, .crcs, .bss, .lcs, .gds, .abs_, .sn, .ta, .eic, .cs, .sec, .vault, .dbg, .cw, .free] s) (execLoaderFeed r v s) := by
  unfold execLoaderFeed
  try dsimp only
  repeat'
    first
    | with_reducible apply Answers.next
    | with_reducible apply State.Changes.refl
    | exact rfl
    | with_reducible apply State.Changes.step (k := State.busWrite_changes _ _ _ _ _)

theorem execLoaderConsume_changes (s : State) :
    Answers (State.Changes [.key, .power, .seqs, .mem, .cs, .sec] s) (execLoaderConsume s) := by
  unfold execLoaderConsume
  try dsimp only
  repeat'
    first
    | with_reducible apply Answers.next
    | with_reducible apply State.Changes.refl
    | exact rfl
    | with_reducible apply State.Changes.step (k := State.ldConsume_changes _)

theorem execLoaderHeaderDone_changes (t : Instant) (s : State) :
    Answers (State.Changes [.beryl, .key, .power, .seqs, .mem, .sec] s) (execLoaderHeaderDone t s) := by
  unfold execLoaderHeaderDone
  try dsimp only
  repeat'
    first
    | with_reducible apply Answers.next
    | with_reducible apply State.Changes.refl
    | exact rfl
    | with_reducible apply State.Changes.step (k := State.advance_changes _ _)
    | with_reducible apply State.Changes.step (k := State.ldHeaderDone_changes _)

theorem execLoaderVerifyDone_changes (s : State) :
    Answers (State.Changes [.key, .seqs, .mem, .sec] s) (execLoaderVerifyDone s) := by
  unfold execLoaderVerifyDone
  try dsimp only
  repeat'
    first
    | with_reducible apply Answers.next
    | with_reducible apply State.Changes.refl
    | exact rfl
    | with_reducible apply State.Changes.step (k := State.ldVerifyDone_changes _)

theorem execLoaderCommit_changes (s : State) :
    Answers (State.Changes [.key, .power, .chans, .seqs, .mem, .cs, .sec, .vault] s) (execLoaderCommit s) := by
  unfold execLoaderCommit
  try dsimp only
  repeat'
    first
    | with_reducible apply Answers.next
    | with_reducible apply State.Changes.refl
    | exact rfl
    | with_reducible apply State.Changes.step (k := State.ldCommit_changes _)

theorem execLoaderRollback_changes (s : State) :
    Answers (State.Changes [.key, .seqs, .mem, .cs, .sec] s) (execLoaderRollback s) := by
  unfold execLoaderRollback
  try dsimp only
  repeat'
    first
    | with_reducible apply Answers.next
    | with_reducible apply State.Changes.refl
    | exact rfl
    | with_reducible apply State.Changes.step (k := State.ldRollback_changes _)

theorem execCslockSet_changes (r : Req) (v : W32) (s : State) :
    Answers (State.Changes [.beryl, .lanes, .hp, .xf, .key, .power, .bat, .chans, .posts, .seqs, .ibufs, .pool, .mem, .engines, .groups, .streams, .crcs, .bss, .lcs, .gds, .abs_, .sn, .ta, .eic, .cs, .sec, .vault, .dbg, .cw, .free] s) (execCslockSet r v s) := by
  unfold execCslockSet
  try dsimp only
  repeat'
    first
    | with_reducible apply Answers.next
    | with_reducible apply State.Changes.refl
    | exact rfl
    | with_reducible apply State.Changes.step (k := State.busWrite_changes _ _ _ _ _)

theorem execTamperEvent_changes (t : Instant) (k : Fin 4) (v : Option Bool) (s : State) :
    Answers (State.Changes [.beryl, .key, .power, .bat, .seqs, .mem, .sec, .vault] s) (execTamperEvent t k v s) := by
  unfold execTamperEvent
  try dsimp only
  repeat'
    first
    | with_reducible apply Answers.next
    | with_reducible apply State.Changes.refl
    | exact rfl
    | with_reducible apply State.Changes.step (k := State.tamperEvent_changes _ _)
    | with_reducible apply State.Changes.step (k := State.advance_changes _ _)
    | with_reducible apply State.Changes.step (k := State.tamperLevel_changes _ _ _)
    | split

theorem execBrefLoss_changes (t : Instant) (level : Bool) (s : State) :
    Answers (State.Changes [.beryl, .lanes, .chans, .seqs, .engines, .gds, .abs_] s) (execBrefLoss t level s) := by
  unfold execBrefLoss
  try dsimp only
  repeat'
    first
    | with_reducible apply Answers.next
    | with_reducible apply State.Changes.refl
    | exact rfl
    | with_reducible apply State.Changes.step (k := State.advance_changes _ _)
    | with_reducible apply State.Changes.step (k := State.brefLevel_changes _ _)

theorem execBerylLock_changes (s : State) :
    Answers (State.Changes [.beryl, .lanes, .power, .chans, .seqs, .gds, .abs_, .ta, .vault] s) (execBerylLock s) := by
  unfold execBerylLock
  try dsimp only
  repeat'
    first
    | with_reducible apply Answers.next
    | with_reducible apply State.Changes.refl
    | exact rfl
    | with_reducible apply State.Changes.step (k := State.berylLock_changes _)

theorem execTd0Wrap_changes (s : State) :
    Answers (State.Changes [.beryl] s) (execTd0Wrap s) := by
  unfold execTd0Wrap
  try dsimp only
  repeat'
    first
    | with_reducible apply Answers.next
    | with_reducible apply State.Changes.refl
    | exact rfl
    | with_reducible apply State.Changes.step (k := State.td0Wrap_changes _)

theorem execBtLoad_changes (s : State) :
    Answers (State.Changes [.beryl, .lanes, .xf, .key, .power, .engines, .gds, .abs_, .sn, .ta, .dbg] s) (execBtLoad s) := by
  unfold execBtLoad
  try dsimp only
  repeat'
    first
    | with_reducible apply Answers.next
    | with_reducible apply State.Changes.refl
    | exact rfl
    | with_reducible apply State.Changes.step (k := State.btLoad_changes _)
    | split

theorem execBtStart_changes (s : State) :
    Answers (State.Changes [.beryl, .lanes, .power, .chans, .seqs, .gds, .abs_, .ta, .vault] s) (execBtStart s) := by
  unfold execBtStart
  try dsimp only
  repeat'
    first
    | with_reducible apply Answers.next
    | with_reducible apply State.Changes.refl
    | exact rfl
    | with_reducible apply State.Changes.step (k := State.btStart_changes _)
    | split

theorem execBtRestart_changes (s : State) :
    Answers (State.Changes [.beryl] s) (execBtRestart s) := by
  unfold execBtRestart
  try dsimp only
  repeat'
    first
    | with_reducible apply Answers.next
    | with_reducible apply State.Changes.refl
    | exact rfl
    | with_reducible apply State.Changes.step (k := State.btRestart_changes _)
    | split

theorem execBtSnap_changes (s : State) :
    Answers (State.Changes [.beryl] s) (execBtSnap s) := by
  unfold execBtSnap
  try dsimp only
  repeat'
    first
    | with_reducible apply Answers.next
    | with_reducible apply State.Changes.refl
    | exact rfl
    | with_reducible apply State.Changes.step (k := State.btSnap_changes _)
    | split

theorem execNowLoRead_changes (who : Master) (dom : Fin 8) (s : State) :
    Answers (State.Changes [.beryl] s) (execNowLoRead who dom s) := by
  unfold execNowLoRead
  try dsimp only
  repeat'
    first
    | with_reducible apply Answers.next
    | with_reducible apply State.Changes.refl
    | exact rfl
    | with_reducible apply State.Changes.step (k := State.nowLoRead_changes _ _ _)
    | split

theorem execConversion_changes (v : W32) (s : State) :
    Answers (State.Changes [.beryl] s) (execConversion v s) := by
  unfold execConversion
  try dsimp only
  repeat'
    first
    | with_reducible apply Answers.next
    | with_reducible apply State.Changes.refl
    | exact rfl
    | with_reducible apply State.Changes.step (k := State.conversion_changes _ _)
    | split

theorem execTdSet_changes (who : Master) (n : Fin 8) (whenAt : Bool) (s : State) :
    Answers (State.Changes [.beryl, .lanes, .chans, .seqs, .gds, .ta] s) (execTdSet who n whenAt s) := by
  unfold execTdSet
  try dsimp only
  repeat'
    first
    | with_reducible apply Answers.next
    | with_reducible apply State.Changes.refl
    | exact rfl
    | with_reducible apply State.Changes.step (k := State.tdCommand_changes _ _ _ _ _)
    | split

theorem execTdStep_changes (who : Master) (n : Fin 8) (whenAt : Bool) (s : State) :
    Answers (State.Changes [.beryl, .lanes, .chans, .seqs, .gds, .ta] s) (execTdStep who n whenAt s) := by
  unfold execTdStep
  try dsimp only
  repeat'
    first
    | with_reducible apply Answers.next
    | with_reducible apply State.Changes.refl
    | exact rfl
    | with_reducible apply State.Changes.step (k := State.tdCommand_changes _ _ _ _ _)
    | split

theorem execTdSlew_changes (who : Master) (n : Fin 8) (whenAt : Bool) (s : State) :
    Answers (State.Changes [.beryl, .lanes, .chans, .seqs, .gds, .ta] s) (execTdSlew who n whenAt s) := by
  unfold execTdSlew
  try dsimp only
  repeat'
    first
    | with_reducible apply Answers.next
    | with_reducible apply State.Changes.refl
    | exact rfl
    | with_reducible apply State.Changes.step (k := State.tdCommand_changes _ _ _ _ _)
    | split

theorem execTdRate_changes (who : Master) (n : Fin 8) (whenAt : Bool) (s : State) :
    Answers (State.Changes [.beryl, .lanes, .chans, .seqs, .gds, .ta] s) (execTdRate who n whenAt s) := by
  unfold execTdRate
  try dsimp only
  repeat'
    first
    | with_reducible apply Answers.next
    | with_reducible apply State.Changes.refl
    | exact rfl
    | with_reducible apply State.Changes.step (k := State.tdCommand_changes _ _ _ _ _)
    | split

theorem execTdCancel_changes (who : Master) (n : Fin 8) (whenAt : Bool) (s : State) :
    Answers (State.Changes [.beryl, .lanes, .chans, .seqs, .gds, .ta] s) (execTdCancel who n whenAt s) := by
  unfold execTdCancel
  try dsimp only
  repeat'
    first
    | with_reducible apply Answers.next
    | with_reducible apply State.Changes.refl
    | exact rfl
    | with_reducible apply State.Changes.step (k := State.tdCancel_changes _ _ _ _)
    | split

theorem execTdApply_changes (t : Instant) (n : Fin 8) (s : State) :
    Answers (State.Changes [.beryl, .lanes, .chans, .seqs, .gds, .ta] s) (execTdApply t n s) := by
  unfold execTdApply
  try dsimp only
  repeat'
    first
    | with_reducible apply Answers.next
    | with_reducible apply State.Changes.refl
    | exact rfl
    | with_reducible apply State.Changes.step (k := State.advance_changes _ _)
    | with_reducible apply State.Changes.step (k := State.tdApply_changes _ _)

theorem execSlewEnd_changes (t : Instant) (n : Fin 8) (s : State) :
    Answers (State.Changes [.beryl, .chans, .seqs] s) (execSlewEnd t n s) := by
  unfold execSlewEnd
  try dsimp only
  repeat'
    first
    | with_reducible apply Answers.next
    | with_reducible apply State.Changes.refl
    | exact rfl
    | with_reducible apply State.Changes.step (k := State.advance_changes _ _)
    | with_reducible apply State.Changes.step (k := State.slewEnd_changes _ _)

theorem execCanaryUpdate_changes (t : Instant) (north : BitVec 16) (south : BitVec 16) (s : State) :
    Answers (State.Changes [.beryl, .power] s) (execCanaryUpdate t north south s) := by
  unfold execCanaryUpdate
  try dsimp only
  repeat'
    first
    | with_reducible apply Answers.next
    | with_reducible apply State.Changes.refl
    | exact rfl
    | with_reducible apply State.Changes.step (k := State.advance_changes _ _)
    | with_reducible apply State.Changes.step (k := State.canaryUpdate_changes _ _ _)

theorem execStampedEntryDue_changes (t : Instant) (ch : Fin 256) (mb : Fin 4) (s : State) :
    Answers (State.Changes [.beryl, .chans] s) (execStampedEntryDue t ch mb s) := by
  unfold execStampedEntryDue
  try dsimp only
  repeat'
    first
    | with_reducible apply Answers.next
    | with_reducible apply State.Changes.refl
    | exact rfl
    | with_reducible apply State.Changes.step (k := State.advance_changes _ _)
    | with_reducible apply State.Changes.step (k := State.entryIn_changes _ _ _)

theorem execChStart_changes (r : Req) (ch : Fin 256) (s : State) :
    Answers (State.Changes [.beryl, .lanes, .hp, .xf, .key, .power, .bat, .chans, .posts, .seqs, .ibufs, .pool, .mem, .engines, .groups, .streams, .crcs, .bss, .lcs, .gds, .abs_, .sn, .ta, .eic, .cs, .sec, .vault, .dbg, .cw, .free] s) (execChStart r ch s) := by
  unfold execChStart
  try dsimp only
  repeat'
    first
    | with_reducible apply Answers.next
    | with_reducible apply State.Changes.refl
    | exact rfl
    | with_reducible apply State.Changes.step (k := State.busWrite_changes _ _ _ _ _)

theorem execChStop_changes (r : Req) (ch : Fin 256) (s : State) :
    Answers (State.Changes [.beryl, .lanes, .hp, .xf, .key, .power, .bat, .chans, .posts, .seqs, .ibufs, .pool, .mem, .engines, .groups, .streams, .crcs, .bss, .lcs, .gds, .abs_, .sn, .ta, .eic, .cs, .sec, .vault, .dbg, .cw, .free] s) (execChStop r ch s) := by
  unfold execChStop
  try dsimp only
  repeat'
    first
    | with_reducible apply Answers.next
    | with_reducible apply State.Changes.refl
    | exact rfl
    | with_reducible apply State.Changes.step (k := State.busWrite_changes _ _ _ _ _)

theorem execChAbort_changes (r : Req) (ch : Fin 256) (stop : Bool) (s : State) :
    Answers (State.Changes [.beryl, .lanes, .hp, .xf, .key, .power, .bat, .chans, .posts, .seqs, .ibufs, .pool, .mem, .engines, .groups, .streams, .crcs, .bss, .lcs, .gds, .abs_, .sn, .ta, .eic, .cs, .sec, .vault, .dbg, .cw, .free] s) (execChAbort r ch stop s) := by
  unfold execChAbort
  try dsimp only
  repeat'
    first
    | with_reducible apply Answers.next
    | with_reducible apply State.Changes.refl
    | exact rfl
    | with_reducible apply State.Changes.step (k := State.busWrite_changes _ _ _ _ _)

theorem execChResume_changes (r : Req) (ch : Fin 256) (s : State) :
    Answers (State.Changes [.beryl, .lanes, .hp, .xf, .key, .power, .bat, .chans, .posts, .seqs, .ibufs, .pool, .mem, .engines, .groups, .streams, .crcs, .bss, .lcs, .gds, .abs_, .sn, .ta, .eic, .cs, .sec, .vault, .dbg, .cw, .free] s) (execChResume r ch s) := by
  unfold execChResume
  try dsimp only
  repeat'
    first
    | with_reducible apply Answers.next
    | with_reducible apply State.Changes.refl
    | exact rfl
    | with_reducible apply State.Changes.step (k := State.busWrite_changes _ _ _ _ _)

theorem execChDiscard_changes (r : Req) (ch : Fin 256) (s : State) :
    Answers (State.Changes [.beryl, .lanes, .hp, .xf, .key, .power, .bat, .chans, .posts, .seqs, .ibufs, .pool, .mem, .engines, .groups, .streams, .crcs, .bss, .lcs, .gds, .abs_, .sn, .ta, .eic, .cs, .sec, .vault, .dbg, .cw, .free] s) (execChDiscard r ch s) := by
  unfold execChDiscard
  try dsimp only
  repeat'
    first
    | with_reducible apply Answers.next
    | with_reducible apply State.Changes.refl
    | exact rfl
    | with_reducible apply State.Changes.step (k := State.busWrite_changes _ _ _ _ _)

theorem execChFlush_changes (r : Req) (ch : Fin 256) (s : State) :
    Answers (State.Changes [.beryl, .lanes, .hp, .xf, .key, .power, .bat, .chans, .posts, .seqs, .ibufs, .pool, .mem, .engines, .groups, .streams, .crcs, .bss, .lcs, .gds, .abs_, .sn, .ta, .eic, .cs, .sec, .vault, .dbg, .cw, .free] s) (execChFlush r ch s) := by
  unfold execChFlush
  try dsimp only
  repeat'
    first
    | with_reducible apply Answers.next
    | with_reducible apply State.Changes.refl
    | exact rfl
    | with_reducible apply State.Changes.step (k := State.busWrite_changes _ _ _ _ _)

theorem execChNote_changes (r : Req) (ch : Fin 256) (s : State) :
    Answers (State.Changes [.beryl, .lanes, .hp, .xf, .key, .power, .bat, .chans, .posts, .seqs, .ibufs, .pool, .mem, .engines, .groups, .streams, .crcs, .bss, .lcs, .gds, .abs_, .sn, .ta, .eic, .cs, .sec, .vault, .dbg, .cw, .free] s) (execChNote r ch s) := by
  unfold execChNote
  try dsimp only
  repeat'
    first
    | with_reducible apply Answers.next
    | with_reducible apply State.Changes.refl
    | exact rfl
    | with_reducible apply State.Changes.step (k := State.busWrite_changes _ _ _ _ _)

theorem execChannelWake_changes (t : Instant) (ch : Fin 256) (s : State) :
    Answers (State.Changes [.beryl, .chans] s) (execChannelWake t ch s) := by
  unfold execChannelWake
  try dsimp only
  repeat'
    first
    | with_reducible apply Answers.next
    | with_reducible apply State.Changes.refl
    | exact rfl
    | with_reducible apply State.Changes.step (k := State.advance_changes _ _)
    | with_reducible apply State.Changes.step (k := State.chWake_changes _ _)

theorem execDescriptorWrite_changes (r : Req) (ch : Fin 256) (w : Fin 128) (v : W32) (s : State) :
    Answers (State.Changes [.beryl, .lanes, .hp, .xf, .key, .power, .bat, .chans, .posts, .seqs, .ibufs, .pool, .mem, .engines, .groups, .streams, .crcs, .bss, .lcs, .gds, .abs_, .sn, .ta, .eic, .cs, .sec, .vault, .dbg, .cw, .free] s) (execDescriptorWrite r ch w v s) := by
  unfold execDescriptorWrite
  try dsimp only
  repeat'
    first
    | with_reducible apply Answers.next
    | with_reducible apply State.Changes.refl
    | exact rfl
    | with_reducible apply State.Changes.step (k := State.busWrite_changes _ _ _ _ _)

theorem execPlainPost_changes (r : Req) (ch : Fin 256) (mb : Fin 4) (s : State) :
    Answers (State.Changes [.beryl, .lanes, .hp, .xf, .key, .power, .bat, .chans, .posts, .seqs, .ibufs, .pool, .mem, .engines, .groups, .streams, .crcs, .bss, .lcs, .gds, .abs_, .sn, .ta, .eic, .cs, .sec, .vault, .dbg, .cw, .free] s) (execPlainPost r ch mb s) := by
  unfold execPlainPost
  try dsimp only
  repeat'
    first
    | with_reducible apply Answers.next
    | with_reducible apply State.Changes.refl
    | exact rfl
    | with_reducible apply State.Changes.step (k := State.busWrite_changes _ _ _ _ _)
    | split

theorem execStampedPost_changes (r : Req) (ch : Fin 256) (mb : Fin 4) (s : State) :
    Answers (State.Changes [.beryl, .lanes, .hp, .xf, .key, .power, .bat, .chans, .posts, .seqs, .ibufs, .pool, .mem, .engines, .groups, .streams, .crcs, .bss, .lcs, .gds, .abs_, .sn, .ta, .eic, .cs, .sec, .vault, .dbg, .cw, .free] s) (execStampedPost r ch mb s) := by
  unfold execStampedPost
  try dsimp only
  repeat'
    first
    | with_reducible apply Answers.next
    | with_reducible apply State.Changes.refl
    | exact rfl
    | with_reducible apply State.Changes.step (k := State.busWrite_changes _ _ _ _ _)
    | split

theorem execSfEnable_changes (n : Fin 128) (v : W32) (s : State) :
    Answers (State.Changes [.streams] s) (execSfEnable n v s) := by
  unfold execSfEnable
  try dsimp only
  repeat'
    first
    | with_reducible apply Answers.next
    | with_reducible apply State.Changes.refl
    | exact rfl
    | with_reducible apply State.Changes.step (k := State.sfCfg_changes _ _ _)
    | split

theorem execSfDisable_changes (n : Fin 128) (v : W32) (s : State) :
    Answers (State.Changes [.streams] s) (execSfDisable n v s) := by
  unfold execSfDisable
  try dsimp only
  repeat'
    first
    | with_reducible apply Answers.next
    | with_reducible apply State.Changes.refl
    | exact rfl
    | with_reducible apply State.Changes.step (k := State.sfCfg_changes _ _ _)
    | split

theorem execSfAbort_changes (n : Fin 128) (v : W32) (s : State) :
    Answers (State.Changes [.streams] s) (execSfAbort n v s) := by
  unfold execSfAbort
  try dsimp only
  repeat'
    first
    | with_reducible apply Answers.next
    | with_reducible apply State.Changes.refl
    | exact rfl
    | with_reducible apply State.Changes.step (k := State.sfCfg_changes _ _ _)
    | split

theorem execSfGo_changes (n : Fin 128) (s : State) :
    Answers (State.Changes [.chans, .seqs, .streams] s) (execSfGo n s) := by
  unfold execSfGo
  try dsimp only
  repeat'
    first
    | with_reducible apply Answers.next
    | with_reducible apply State.Changes.refl
    | exact rfl
    | with_reducible apply State.Changes.step (k := State.sfGo_changes _ _)
    | split

theorem execSfCont_changes (n : Fin 128) (coll : List PortA) (s : State) :
    Answers (State.Changes [.chans, .seqs, .mem, .streams] s) (execSfCont n coll s) := by
  unfold execSfCont
  try dsimp only
  repeat'
    first
    | with_reducible apply Answers.next
    | with_reducible apply State.Changes.refl
    | exact rfl
    | with_reducible apply State.Changes.step (k := State.sfCont_changes _ _ _)
    | split

theorem execSfFlush_changes (n : Fin 128) (s : State) :
    Answers (State.Changes [.streams] s) (execSfFlush n s) := by
  unfold execSfFlush
  try dsimp only
  repeat'
    first
    | with_reducible apply Answers.next
    | with_reducible apply State.Changes.refl
    | exact rfl
    | with_reducible apply State.Changes.step (k := State.sfFlush_changes _ _)
    | split

theorem execSfClrerr_changes (n : Fin 128) (s : State) :
    Answers (State.Changes [.streams] s) (execSfClrerr n s) := by
  unfold execSfClrerr
  try dsimp only
  repeat'
    first
    | with_reducible apply Answers.next
    | with_reducible apply State.Changes.refl
    | exact rfl
    | with_reducible apply State.Changes.step (k := State.sfClrErr_changes _ _)
    | split

theorem execSfDescFetch_changes (n : Fin 128) (coll : List PortA) (s : State) :
    Answers (State.Changes [.chans, .seqs, .mem, .streams] s) (execSfDescFetch n coll s) := by
  unfold execSfDescFetch
  try dsimp only
  repeat'
    first
    | with_reducible apply Answers.next
    | with_reducible apply State.Changes.refl
    | exact rfl
    | with_reducible apply State.Changes.step (k := State.sfDescFetch_changes _ _ _)
    | with_reducible apply State.Changes.step (k := State.sfSettle_changes _ _)

theorem execSfTxEntry_changes (n : Fin 128) (coll : List PortA) (s : State) :
    Answers (State.Changes [.chans, .seqs, .mem, .engines, .streams, .crcs, .free] s) (execSfTxEntry n coll s) := by
  unfold execSfTxEntry
  try dsimp only
  repeat'
    first
    | with_reducible apply Answers.next
    | with_reducible apply State.Changes.refl
    | exact rfl
    | with_reducible apply State.Changes.step (k := State.sfTxEntry_changes _ _ _)
    | with_reducible apply State.Changes.step (k := State.sfSettle_changes _ _)

theorem execSfRxEntry_changes (n : Fin 128) (coll : List PortA) (s : State) :
    Answers (State.Changes [.chans, .seqs, .mem, .engines, .streams, .crcs] s) (execSfRxEntry n coll s) := by
  unfold execSfRxEntry
  try dsimp only
  repeat'
    first
    | with_reducible apply Answers.next
    | with_reducible apply State.Changes.refl
    | exact rfl
    | with_reducible apply State.Changes.step (k := State.sfRxEntry_changes _ _ _)
    | with_reducible apply State.Changes.step (k := State.sfSettle_changes _ _)

theorem execSfRecordPush_changes (n : Fin 128) (s : State) :
    Answers (State.Changes [.streams, .sn] s) (execSfRecordPush n s) := by
  unfold execSfRecordPush
  try dsimp only
  repeat'
    first
    | with_reducible apply Answers.next
    | with_reducible apply State.Changes.refl
    | exact rfl
    | with_reducible apply State.Changes.step (k := State.sfRecPush_changes _ _)
    | with_reducible apply State.Changes.step (k := State.sfSettle_changes _ _)

theorem execSfCplPop_changes (n : Fin 128) (s : State) :
    Answers (State.Changes [.streams] s) (execSfCplPop n s) := by
  unfold execSfCplPop
  try dsimp only
  repeat'
    first
    | with_reducible apply Answers.next
    | with_reducible apply State.Changes.refl
    | exact rfl
    | with_reducible apply State.Changes.step (k := State.sfCplPop_changes _ _)
    | split

theorem execSfCplPush_changes (n : Fin 128) (v : W32) (s : State) :
    Answers (State.Changes [.streams, .sn] s) (execSfCplPush n v s) := by
  unfold execSfCplPush
  try dsimp only
  repeat'
    first
    | with_reducible apply Answers.next
    | with_reducible apply State.Changes.refl
    | exact rfl
    | with_reducible apply State.Changes.step (k := State.sfCplPush_changes _ _ _)
    | split

theorem execSfRpWrite_changes (n : Fin 128) (v : W32) (s : State) :
    Answers (State.Changes [.streams] s) (execSfRpWrite n v s) := by
  unfold execSfRpWrite
  try dsimp only
  repeat'
    first
    | with_reducible apply Answers.next
    | with_reducible apply State.Changes.refl
    | exact rfl
    | with_reducible apply State.Changes.step (k := State.sfRp_changes _ _ _)
    | split

theorem execPeEnable_changes (n : Fin 64) (v : W32) (s : State) :
    Answers (State.Changes [.engines] s) (execPeEnable n v s) := by
  unfold execPeEnable
  try dsimp only
  repeat'
    first
    | with_reducible apply Answers.next
    | with_reducible apply State.Changes.refl
    | exact rfl
    | with_reducible apply State.Changes.step (k := State.peCfg_changes _ _ _)
    | split

theorem execPeDisable_changes (n : Fin 64) (v : W32) (s : State) :
    Answers (State.Changes [.engines] s) (execPeDisable n v s) := by
  unfold execPeDisable
  try dsimp only
  repeat'
    first
    | with_reducible apply Answers.next
    | with_reducible apply State.Changes.refl
    | exact rfl
    | with_reducible apply State.Changes.step (k := State.peCfg_changes _ _ _)
    | split

theorem execPeAbort_changes (n : Fin 64) (v : W32) (s : State) :
    Answers (State.Changes [.engines] s) (execPeAbort n v s) := by
  unfold execPeAbort
  try dsimp only
  repeat'
    first
    | with_reducible apply Answers.next
    | with_reducible apply State.Changes.refl
    | exact rfl
    | with_reducible apply State.Changes.step (k := State.peCfg_changes _ _ _)
    | split

theorem execPeAbortEntryPush_changes (n : Fin 64) (s : State) :
    Answers (State.Changes [.engines] s) (execPeAbortEntryPush n s) := by
  unfold execPeAbortEntryPush
  try dsimp only
  repeat'
    first
    | with_reducible apply Answers.next
    | with_reducible apply State.Changes.refl
    | exact rfl
    | with_reducible apply State.Changes.step (k := State.modEng_changes _ _ _)
    | split

theorem execPeGo_changes (n : Fin 64) (s : State) :
    Answers (State.Changes [.engines] s) (execPeGo n s) := by
  unfold execPeGo
  try dsimp only
  repeat'
    first
    | with_reducible apply Answers.next
    | with_reducible apply State.Changes.refl
    | exact rfl
    | with_reducible apply State.Changes.step (k := State.peGo_changes _ _ _ _)
    | split

theorem execPeNewpc_changes (n : Fin 64) (clear : Bool) (s : State) :
    Answers (State.Changes [.engines] s) (execPeNewpc n clear s) := by
  unfold execPeNewpc
  try dsimp only
  repeat'
    first
    | with_reducible apply Answers.next
    | with_reducible apply State.Changes.refl
    | exact rfl
    | with_reducible apply State.Changes.step (k := State.peGo_changes _ _ _ _)
    | split

theorem execPeClear_changes (n : Fin 64) (s : State) :
    Answers (State.Changes [.engines] s) (execPeClear n s) := by
  unfold execPeClear
  try dsimp only
  repeat'
    first
    | with_reducible apply Answers.next
    | with_reducible apply State.Changes.refl
    | exact rfl
    | with_reducible apply State.Changes.step (k := State.peGo_changes _ _ _ _)
    | split

theorem execPeHalt_changes (n : Fin 64) (s : State) :
    Answers (State.Changes [.engines] s) (execPeHalt n s) := by
  unfold execPeHalt
  try dsimp only
  repeat'
    first
    | with_reducible apply Answers.next
    | with_reducible apply State.Changes.refl
    | exact rfl
    | with_reducible apply State.Changes.step (k := State.peHalt_changes _ _)
    | split

theorem execPeClrerr_changes (n : Fin 64) (s : State) :
    Answers (State.Changes [.engines] s) (execPeClrerr n s) := by
  unfold execPeClrerr
  try dsimp only
  repeat'
    first
    | with_reducible apply Answers.next
    | with_reducible apply State.Changes.refl
    | exact rfl
    | with_reducible apply State.Changes.step (k := State.peClrErr_changes _ _)
    | split

theorem execPeFlushI_changes (n : Fin 64) (s : State) :
    Answers (State.Changes [.engines] s) (execPeFlushI n s) := by
  unfold execPeFlushI
  try dsimp only
  repeat'
    first
    | with_reducible apply Answers.next
    | with_reducible apply State.Changes.refl
    | exact rfl
    | with_reducible apply State.Changes.step (k := State.peFlushI_changes _ _)
    | split

theorem execPeFlushO_changes (n : Fin 64) (s : State) :
    Answers (State.Changes [.engines] s) (execPeFlushO n s) := by
  unfold execPeFlushO
  try dsimp only
  repeat'
    first
    | with_reducible apply Answers.next
    | with_reducible apply State.Changes.refl
    | exact rfl
    | with_reducible apply State.Changes.step (k := State.peFlushO_changes _ _)
    | split

theorem execPeFaccPush_changes (n : Fin 64) (v : W32) (s : State) :
    Answers (State.Changes [.chans, .seqs, .engines] s) (execPeFaccPush n v s) := by
  unfold execPeFaccPush
  try dsimp only
  repeat'
    first
    | with_reducible apply Answers.next
    | with_reducible apply State.Changes.refl
    | exact rfl
    | with_reducible apply State.Changes.step (k := State.faccPush_changes _ _ _)
    | split

theorem execPeFaccPop_changes (n : Fin 64) (s : State) :
    Answers (State.Changes [.engines] s) (execPeFaccPop n s) := by
  unfold execPeFaccPop
  try dsimp only
  repeat'
    first
    | with_reducible apply Answers.next
    | with_reducible apply State.Changes.refl
    | exact rfl
    | with_reducible apply State.Changes.step (k := State.faccPop_changes _ _)
    | split

theorem execInspectWrite_changes (g : Fin 16) (v : W32) (s : State) :
    Answers (State.Changes [.engines] s) (execInspectWrite g v s) := by
  unfold execInspectWrite
  try dsimp only
  repeat'
    first
    | with_reducible apply Answers.next
    | with_reducible apply State.Changes.refl
    | exact rfl
    | with_reducible apply State.Changes.step (k := State.inspectWrite_changes _ _ _)
    | split

theorem execProgramWordWrite_changes (r : Req) (g : Fin 16) (w : Fin 256) (v : W32) (s : State) :
    Answers (State.Changes [.beryl, .lanes, .hp, .xf, .key, .power, .bat, .chans, .posts, .seqs, .ibufs, .pool, .mem, .engines, .groups, .streams, .crcs, .bss, .lcs, .gds, .abs_, .sn, .ta, .eic, .cs, .sec, .vault, .dbg, .cw, .free] s) (execProgramWordWrite r g w v s) := by
  unfold execProgramWordWrite
  try dsimp only
  repeat'
    first
    | with_reducible apply Answers.next
    | with_reducible apply State.Changes.refl
    | exact rfl
    | with_reducible apply State.Changes.step (k := State.busWrite_changes _ _ _ _ _)

theorem execClockToggle_changes (n : Fin 64) (s : State) :
    Answers (State.Changes [.lanes, .chans, .seqs, .engines] s) (execClockToggle n s) := by
  unfold execClockToggle
  try dsimp only
  repeat'
    first
    | with_reducible apply Answers.next
    | with_reducible apply State.Changes.refl
    | exact rfl
    | with_reducible apply State.Changes.step (k := State.clkToggle_changes _ _)

theorem execPePull_changes (n : Fin 64) (s : State) :
    Answers (State.Changes [.engines] s) (execPePull n s) := by
  unfold execPePull
  try dsimp only
  repeat'
    first
    | with_reducible apply Answers.next
    | with_reducible apply State.Changes.refl
    | exact rfl
    | with_reducible apply State.Changes.step (k := State.pePull_changes _ _)

theorem execPePush_changes (n : Fin 64) (s : State) :
    Answers (State.Changes [.chans, .seqs, .engines] s) (execPePush n s) := by
  unfold execPePush
  try dsimp only
  repeat'
    first
    | with_reducible apply Answers.next
    | with_reducible apply State.Changes.refl
    | exact rfl
    | with_reducible apply State.Changes.step (k := State.pePush_changes _ _)

theorem execPeOut_changes (n : Fin 64) (s : State) :
    Answers (State.Changes [.lanes, .chans, .seqs, .engines] s) (execPeOut n s) := by
  unfold execPeOut
  try dsimp only
  repeat'
    first
    | with_reducible apply Answers.next
    | with_reducible apply State.Changes.refl
    | exact rfl
    | with_reducible apply State.Changes.step (k := State.peOut_changes _ _ _)

theorem execPeIn_changes (n : Fin 64) (s : State) :
    Answers (State.Changes [.lanes, .engines] s) (execPeIn n s) := by
  unfold execPeIn
  try dsimp only
  repeat'
    first
    | with_reducible apply Answers.next
    | with_reducible apply State.Changes.refl
    | exact rfl
    | with_reducible apply State.Changes.step (k := State.peIn_changes _ _)

theorem execPeWait_changes (n : Fin 64) (s : State) :
    Answers (State.Changes [.lanes, .engines] s) (execPeWait n s) := by
  unfold execPeWait
  try dsimp only
  repeat'
    first
    | with_reducible apply Answers.next
    | with_reducible apply State.Changes.refl
    | exact rfl
    | with_reducible apply State.Changes.step (k := State.peWait_changes _ _)

theorem execPeSet_changes (n : Fin 64) (s : State) :
    Answers (State.Changes [.lanes, .chans, .seqs, .engines] s) (execPeSet n s) := by
  unfold execPeSet
  try dsimp only
  repeat'
    first
    | with_reducible apply Answers.next
    | with_reducible apply State.Changes.refl
    | exact rfl
    | with_reducible apply State.Changes.step (k := State.peSet_changes _ _ _)

theorem execPeSched_changes (n : Fin 64) (s : State) :
    Answers (State.Changes [.engines] s) (execPeSched n s) := by
  unfold execPeSched
  try dsimp only
  repeat'
    first
    | with_reducible apply Answers.next
    | with_reducible apply State.Changes.refl
    | exact rfl
    | with_reducible apply State.Changes.step (k := State.peSched_changes _ _)

theorem execPeCmp_changes (n : Fin 64) (s : State) :
    Answers (State.Changes [.engines] s) (execPeCmp n s) := by
  unfold execPeCmp
  try dsimp only
  repeat'
    first
    | with_reducible apply Answers.next
    | with_reducible apply State.Changes.refl
    | exact rfl
    | with_reducible apply State.Changes.step (k := State.peCmp_changes _ _)

theorem execPeLdcmp_changes (n : Fin 64) (s : State) :
    Answers (State.Changes [.engines] s) (execPeLdcmp n s) := by
  unfold execPeLdcmp
  try dsimp only
  repeat'
    first
    | with_reducible apply Answers.next
    | with_reducible apply State.Changes.refl
    | exact rfl
    | with_reducible apply State.Changes.step (k := State.peLdcmp_changes _ _)

theorem execPeLdper_changes (n : Fin 64) (s : State) :
    Answers (State.Changes [.engines] s) (execPeLdper n s) := by
  unfold execPeLdper
  try dsimp only
  repeat'
    first
    | with_reducible apply Answers.next
    | with_reducible apply State.Changes.refl
    | exact rfl
    | with_reducible apply State.Changes.step (k := State.peLdper_changes _ _)

theorem execPeSig_changes (n : Fin 64) (s : State) :
    Answers (State.Changes [.engines, .sn] s) (execPeSig n s) := by
  unfold execPeSig
  try dsimp only
  repeat'
    first
    | with_reducible apply Answers.next
    | with_reducible apply State.Changes.refl
    | exact rfl
    | with_reducible apply State.Changes.step (k := State.peSig_changes _ _)

theorem execPeJmp_changes (n : Fin 64) (s : State) :
    Answers (State.Changes [.engines] s) (execPeJmp n s) := by
  unfold execPeJmp
  try dsimp only
  repeat'
    first
    | with_reducible apply Answers.next
    | with_reducible apply State.Changes.refl
    | exact rfl
    | with_reducible apply State.Changes.step (k := State.peJmp_changes _ _)

theorem execPeIllegal_changes (n : Fin 64) (s : State) :
    Answers (State.Changes [.engines] s) (execPeIllegal n s) := by
  unfold execPeIllegal
  try dsimp only
  repeat'
    first
    | with_reducible apply Answers.next
    | with_reducible apply State.Changes.refl
    | exact rfl
    | with_reducible apply State.Changes.step (k := State.peIll_changes _ _)

theorem execCaptureSetRelease_changes (t : Instant) (n : Fin 64) (s : State) :
    Answers (State.Changes [.beryl, .lanes, .engines] s) (execCaptureSetRelease t n s) := by
  unfold execCaptureSetRelease
  try dsimp only
  repeat'
    first
    | with_reducible apply Answers.next
    | with_reducible apply State.Changes.refl
    | exact rfl
    | with_reducible apply State.Changes.step (k := State.advance_changes _ _)
    | with_reducible apply State.Changes.step (k := State.setReleased_changes _ _)

theorem execIbInvalidate_changes (k : Fin 4) (s : State) :
    Answers (State.Changes [.ibufs] s) (execIbInvalidate k s) := by
  unfold execIbInvalidate
  try dsimp only
  repeat'
    first
    | with_reducible apply Answers.next
    | with_reducible apply State.Changes.refl
    | exact rfl
    | with_reducible apply State.Changes.step (k := State.ibInvalidate_changes _ _)
    | split

theorem execSqEnable_changes (r : Req) (n : Fin 16) (v : W32) (s : State) :
    Answers (State.Changes [.beryl, .lanes, .hp, .xf, .key, .power, .bat, .chans, .posts, .seqs, .ibufs, .pool, .mem, .engines, .groups, .streams, .crcs, .bss, .lcs, .gds, .abs_, .sn, .ta, .eic, .cs, .sec, .vault, .dbg, .cw, .free] s) (execSqEnable r n v s) := by
  unfold execSqEnable
  try dsimp only
  repeat'
    first
    | with_reducible apply Answers.next
    | with_reducible apply State.Changes.refl
    | exact rfl
    | with_reducible apply State.Changes.step (k := State.busWrite_changes _ _ _ _ _)
    | split

theorem execSqDisable_changes (n : Fin 16) (v : W32) (s : State) :
    Answers (State.Changes [.power, .seqs, .eic, .dbg] s) (execSqDisable n v s) := by
  unfold execSqDisable
  try dsimp only
  repeat'
    first
    | with_reducible apply Answers.next
    | with_reducible apply State.Changes.refl
    | exact rfl
    | with_reducible apply State.Changes.step (k := State.seqEnableW_changes _ _ _)
    | split

theorem execSqNap_changes (t : Instant) (n : Fin 16) (s : State) :
    Answers (State.Changes [.beryl, .power, .seqs, .eic, .dbg] s) (execSqNap t n s) := by
  unfold execSqNap
  try dsimp only
  repeat'
    first
    | with_reducible apply Answers.next
    | with_reducible apply State.Changes.refl
    | exact rfl
    | with_reducible apply State.Changes.step (k := State.advance_changes _ _)
    | with_reducible apply State.Changes.step (k := State.seqNap_changes _ _)

theorem execSchedulerRequest_changes (ch : Fin 256) (s : State) :
    Answers (State.Changes [.power, .seqs, .dbg] s) (execSchedulerRequest ch s) := by
  unfold execSchedulerRequest
  try dsimp only
  repeat'
    first
    | with_reducible apply Answers.next
    | with_reducible apply State.Changes.refl
    | exact rfl
    | with_reducible apply State.Changes.step (k := State.autowake_changes _ _)
    | with_reducible apply State.Changes.step (k := State.schedule_changes _ _)

theorem execChannelDispatch_changes (n : Fin 16) (s : State) :
    Answers (State.Changes [.power, .chans, .seqs, .mem, .eic, .cs, .dbg, .free] s) (execChannelDispatch n s) := by
  unfold execChannelDispatch
  try dsimp only
  repeat'
    first
    | with_reducible apply Answers.next
    | with_reducible apply State.Changes.refl
    | exact rfl
    | with_reducible apply State.Changes.step (k := State.dispatchT_changes _ _)

theorem execSwitchOut_changes (n : Fin 16) (s : State) :
    Answers (State.Changes [.power, .chans, .seqs, .pool, .mem, .eic, .cs, .dbg] s) (execSwitchOut n s) := by
  unfold execSwitchOut
  try dsimp only
  repeat'
    first
    | with_reducible apply Answers.next
    | with_reducible apply State.Changes.refl
    | exact rfl
    | with_reducible apply State.Changes.step (k := State.switchOutT_changes _ _)

theorem execPoolRetry_changes (n : Fin 16) (s : State) :
    Answers (State.Changes [.beryl, .lanes, .hp, .xf, .key, .power, .bat, .chans, .posts, .seqs, .ibufs, .pool, .mem, .engines, .groups, .streams, .crcs, .bss, .lcs, .gds, .abs_, .sn, .ta, .eic, .cs, .sec, .vault, .dbg, .cw, .free] s) (execPoolRetry n s) := by
  unfold execPoolRetry
  try dsimp only
  repeat'
    first
    | with_reducible apply Answers.next
    | with_reducible apply State.Changes.refl
    | exact rfl
    | with_reducible apply State.Changes.step (k := State.poolRetryT_changes _ _)

theorem execPoolPush_changes (x : Fin 512) (s : State) :
    Answers (State.Changes [.pool] s) (execPoolPush x s) := by
  unfold execPoolPush
  dsimp -zeta only [← State.set_pool_eq]
  try dsimp only
  repeat'
    first
    | with_reducible apply Answers.next
    | with_reducible apply State.Changes.refl
    | exact rfl
    | with_reducible apply State.Changes.pool
    | split

theorem execPoolPop_changes (s : State) :
    Answers (State.Changes [.pool] s) (execPoolPop s) := by
  unfold execPoolPop
  dsimp -zeta only [← State.set_pool_eq]
  try dsimp only
  repeat'
    first
    | with_reducible apply Answers.next
    | with_reducible apply State.Changes.refl
    | exact rfl
    | with_reducible apply State.Changes.pool
    | split

theorem execIllegalInstruction_changes (n : Fin 16) (s : State) :
    Answers (State.Changes [.beryl, .lanes, .hp, .xf, .key, .power, .bat, .chans, .posts, .seqs, .ibufs, .pool, .mem, .engines, .groups, .streams, .crcs, .bss, .lcs, .gds, .abs_, .sn, .ta, .eic, .cs, .sec, .vault, .dbg, .cw, .free] s) (execIllegalInstruction n s) :=
  Answers.next (State.macro__changes _ _ _)

theorem execAdd_changes (n : Fin 16) (s : State) :
    Answers (State.Changes [.beryl, .lanes, .hp, .xf, .key, .power, .bat, .chans, .posts, .seqs, .ibufs, .pool, .mem, .engines, .groups, .streams, .crcs, .bss, .lcs, .gds, .abs_, .sn, .ta, .eic, .cs, .sec, .vault, .dbg, .cw, .free] s) (execAdd n s) :=
  Answers.next (State.macro__changes _ _ _)

theorem execSub_changes (n : Fin 16) (s : State) :
    Answers (State.Changes [.beryl, .lanes, .hp, .xf, .key, .power, .bat, .chans, .posts, .seqs, .ibufs, .pool, .mem, .engines, .groups, .streams, .crcs, .bss, .lcs, .gds, .abs_, .sn, .ta, .eic, .cs, .sec, .vault, .dbg, .cw, .free] s) (execSub n s) :=
  Answers.next (State.macro__changes _ _ _)

theorem execAdc_changes (n : Fin 16) (s : State) :
    Answers (State.Changes [.beryl, .lanes, .hp, .xf, .key, .power, .bat, .chans, .posts, .seqs, .ibufs, .pool, .mem, .engines, .groups, .streams, .crcs, .bss, .lcs, .gds, .abs_, .sn, .ta, .eic, .cs, .sec, .vault, .dbg, .cw, .free] s) (execAdc n s) :=
  Answers.next (State.macro__changes _ _ _)

theorem execSbc_changes (n : Fin 16) (s : State) :
    Answers (State.Changes [.beryl, .lanes, .hp, .xf, .key, .power, .bat, .chans, .posts, .seqs, .ibufs, .pool, .mem, .engines, .groups, .streams, .crcs, .bss, .lcs, .gds, .abs_, .sn, .ta, .eic, .cs, .sec, .vault, .dbg, .cw, .free] s) (execSbc n s) :=
  Answers.next (State.macro__changes _ _ _)

theorem execAddt_changes (n : Fin 16) (s : State) :
    Answers (State.Changes [.beryl, .lanes, .hp, .xf, .key, .power, .bat, .chans, .posts, .seqs, .ibufs, .pool, .mem, .engines, .groups, .streams, .crcs, .bss, .lcs, .gds, .abs_, .sn, .ta, .eic, .cs, .sec, .vault, .dbg, .cw, .free] s) (execAddt n s) :=
  Answers.next (State.macro__changes _ _ _)

theorem execSubt_changes (n : Fin 16) (s : State) :
    Answers (State.Changes [.beryl, .lanes, .hp, .xf, .key, .power, .bat, .chans, .posts, .seqs, .ibufs, .pool, .mem, .engines, .groups, .streams, .crcs, .bss, .lcs, .gds, .abs_, .sn, .ta, .eic, .cs, .sec, .vault, .dbg, .cw, .free] s) (execSubt n s) :=
  Answers.next (State.macro__changes _ _ _)

theorem execCmp_changes (n : Fin 16) (s : State) :
    Answers (State.Changes [.beryl, .lanes, .hp, .xf, .key, .power, .bat, .chans, .posts, .seqs, .ibufs, .pool, .mem, .engines, .groups, .streams, .crcs, .bss, .lcs, .gds, .abs_, .sn, .ta, .eic, .cs, .sec, .vault, .dbg, .cw, .free] s) (execCmp n s) :=
  Answers.next (State.macro__changes _ _ _)

theorem execAnd_changes (n : Fin 16) (s : State) :
    Answers (State.Changes [.beryl, .lanes, .hp, .xf, .key, .power, .bat, .chans, .posts, .seqs, .ibufs, .pool, .mem, .engines, .groups, .streams, .crcs, .bss, .lcs, .gds, .abs_, .sn, .ta, .eic, .cs, .sec, .vault, .dbg, .cw, .free] s) (execAnd n s) :=
  Answers.next (State.macro__changes _ _ _)

theorem execOr_changes (n : Fin 16) (s : State) :
    Answers (State.Changes [.beryl, .lanes, .hp, .xf, .key, .power, .bat, .chans, .posts, .seqs, .ibufs, .pool, .mem, .engines, .groups, .streams, .crcs, .bss, .lcs, .gds, .abs_, .sn, .ta, .eic, .cs, .sec, .vault, .dbg, .cw, .free] s) (execOr n s) :=
  Answers.next (State.macro__changes _ _ _)

theorem execXor_changes (n : Fin 16) (s : State) :
    Answers (State.Changes [.beryl, .lanes, .hp, .xf, .key, .power, .bat, .chans, .posts, .seqs, .ibufs, .pool, .mem, .engines, .groups, .streams, .crcs, .bss, .lcs, .gds, .abs_, .sn, .ta, .eic, .cs, .sec, .vault, .dbg, .cw, .free] s) (execXor n s) :=
  Answers.next (State.macro__changes _ _ _)

theorem execAndn_changes (n : Fin 16) (s : State) :
    Answers (State.Changes [.beryl, .lanes, .hp, .xf, .key, .power, .bat, .chans, .posts, .seqs, .ibufs, .pool, .mem, .engines, .groups, .streams, .crcs, .bss, .lcs, .gds, .abs_, .sn, .ta, .eic, .cs, .sec, .vault, .dbg, .cw, .free] s) (execAndn n s) :=
  Answers.next (State.macro__changes _ _ _)

theorem execOrn_changes (n : Fin 16) (s : State) :
    Answers (State.Changes [.beryl, .lanes, .hp, .xf, .key, .power, .bat, .chans, .posts, .seqs, .ibufs, .pool, .mem, .engines, .groups, .streams, .crcs, .bss, .lcs, .gds, .abs_, .sn, .ta, .eic, .cs, .sec, .vault, .dbg, .cw, .free] s) (execOrn n s) :=
  Answers.next (State.macro__changes _ _ _)

theorem execTst_changes (n : Fin 16) (s : State) :
    Answers (State.Changes [.beryl, .lanes, .hp, .xf, .key, .power, .bat, .chans, .posts, .seqs, .ibufs, .pool, .mem, .engines, .groups, .streams, .crcs, .bss, .lcs, .gds, .abs_, .sn, .ta, .eic, .cs, .sec, .vault, .dbg, .cw, .free] s) (execTst n s) :=
  Answers.next (State.macro__changes _ _ _)

theorem execSll_changes (n : Fin 16) (s : State) :
    Answers (State.Changes [.beryl, .lanes, .hp, .xf, .key, .power, .bat, .chans, .posts, .seqs, .ibufs, .pool, .mem, .engines, .groups, .streams, .crcs, .bss, .lcs, .gds, .abs_, .sn, .ta, .eic, .cs, .sec, .vault, .dbg, .cw, .free] s) (execSll n s) :=
  Answers.next (State.macro__changes _ _ _)

theorem execSrl_changes (n : Fin 16) (s : State) :
    Answers (State.Changes [.beryl, .lanes, .hp, .xf, .key, .power, .bat, .chans, .posts, .seqs, .ibufs, .pool, .mem, .engines, .groups, .streams, .crcs, .bss, .lcs, .gds, .abs_, .sn, .ta, .eic, .cs, .sec, .vault, .dbg, .cw, .free] s) (execSrl n s) :=
  Answers.next (State.macro__changes _ _ _)

theorem execSra_changes (n : Fin 16) (s : State) :
    Answers (State.Changes [.beryl, .lanes, .hp, .xf, .key, .power, .bat, .chans, .posts, .seqs, .ibufs, .pool, .mem, .engines, .groups, .streams, .crcs, .bss, .lcs, .gds, .abs_, .sn, .ta, .eic, .cs, .sec, .vault, .dbg, .cw, .free] s) (execSra n s) :=
  Answers.next (State.macro__changes _ _ _)

theorem execRor_changes (n : Fin 16) (s : State) :
    Answers (State.Changes [.beryl, .lanes, .hp, .xf, .key, .power, .bat, .chans, .posts, .seqs, .ibufs, .pool, .mem, .engines, .groups, .streams, .crcs, .bss, .lcs, .gds, .abs_, .sn, .ta, .eic, .cs, .sec, .vault, .dbg, .cw, .free] s) (execRor n s) :=
  Answers.next (State.macro__changes _ _ _)

theorem execMul_changes (n : Fin 16) (s : State) :
    Answers (State.Changes [.beryl, .lanes, .hp, .xf, .key, .power, .bat, .chans, .posts, .seqs, .ibufs, .pool, .mem, .engines, .groups, .streams, .crcs, .bss, .lcs, .gds, .abs_, .sn, .ta, .eic, .cs, .sec, .vault, .dbg, .cw, .free] s) (execMul n s) :=
  Answers.next (State.macro__changes _ _ _)

theorem execMulhu_changes (n : Fin 16) (s : State) :
    Answers (State.Changes [.beryl, .lanes, .hp, .xf, .key, .power, .bat, .chans, .posts, .seqs, .ibufs, .pool, .mem, .engines, .groups, .streams, .crcs, .bss, .lcs, .gds, .abs_, .sn, .ta, .eic, .cs, .sec, .vault, .dbg, .cw, .free] s) (execMulhu n s) :=
  Answers.next (State.macro__changes _ _ _)

theorem execMulhs_changes (n : Fin 16) (s : State) :
    Answers (State.Changes [.beryl, .lanes, .hp, .xf, .key, .power, .bat, .chans, .posts, .seqs, .ibufs, .pool, .mem, .engines, .groups, .streams, .crcs, .bss, .lcs, .gds, .abs_, .sn, .ta, .eic, .cs, .sec, .vault, .dbg, .cw, .free] s) (execMulhs n s) :=
  Answers.next (State.macro__changes _ _ _)

theorem execDivu_changes (n : Fin 16) (s : State) :
    Answers (State.Changes [.beryl, .lanes, .hp, .xf, .key, .power, .bat, .chans, .posts, .seqs, .ibufs, .pool, .mem, .engines, .groups, .streams, .crcs, .bss, .lcs, .gds, .abs_, .sn, .ta, .eic, .cs, .sec, .vault, .dbg, .cw, .free] s) (execDivu n s) :=
  Answers.next (State.macro__changes _ _ _)

theorem execDivs_changes (n : Fin 16) (s : State) :
    Answers (State.Changes [.beryl, .lanes, .hp, .xf, .key, .power, .bat, .chans, .posts, .seqs, .ibufs, .pool, .mem, .engines, .groups, .streams, .crcs, .bss, .lcs, .gds, .abs_, .sn, .ta, .eic, .cs, .sec, .vault, .dbg, .cw, .free] s) (execDivs n s) :=
  Answers.next (State.macro__changes _ _ _)

theorem execRemu_changes (n : Fin 16) (s : State) :
    Answers (State.Changes [.beryl, .lanes, .hp, .xf, .key, .power, .bat, .chans, .posts, .seqs, .ibufs, .pool, .mem, .engines, .groups, .streams, .crcs, .bss, .lcs, .gds, .abs_, .sn, .ta, .eic, .cs, .sec, .vault, .dbg, .cw, .free] s) (execRemu n s) :=
  Answers.next (State.macro__changes _ _ _)

theorem execRems_changes (n : Fin 16) (s : State) :
    Answers (State.Changes [.beryl, .lanes, .hp, .xf, .key, .power, .bat, .chans, .posts, .seqs, .ibufs, .pool, .mem, .engines, .groups, .streams, .crcs, .bss, .lcs, .gds, .abs_, .sn, .ta, .eic, .cs, .sec, .vault, .dbg, .cw, .free] s) (execRems n s) :=
  Answers.next (State.macro__changes _ _ _)

theorem execMins_changes (n : Fin 16) (s : State) :
    Answers (State.Changes [.beryl, .lanes, .hp, .xf, .key, .power, .bat, .chans, .posts, .seqs, .ibufs, .pool, .mem, .engines, .groups, .streams, .crcs, .bss, .lcs, .gds, .abs_, .sn, .ta, .eic, .cs, .sec, .vault, .dbg, .cw, .free] s) (execMins n s) :=
  Answers.next (State.macro__changes _ _ _)

theorem execMaxs_changes (n : Fin 16) (s : State) :
    Answers (State.Changes [.beryl, .lanes, .hp, .xf, .key, .power, .bat, .chans, .posts, .seqs, .ibufs, .pool, .mem, .engines, .groups, .streams, .crcs, .bss, .lcs, .gds, .abs_, .sn, .ta, .eic, .cs, .sec, .vault, .dbg, .cw, .free] s) (execMaxs n s) :=
  Answers.next (State.macro__changes _ _ _)

theorem execMinu_changes (n : Fin 16) (s : State) :
    Answers (State.Changes [.beryl, .lanes, .hp, .xf, .key, .power, .bat, .chans, .posts, .seqs, .ibufs, .pool, .mem, .engines, .groups, .streams, .crcs, .bss, .lcs, .gds, .abs_, .sn, .ta, .eic, .cs, .sec, .vault, .dbg, .cw, .free] s) (execMinu n s) :=
  Answers.next (State.macro__changes _ _ _)

theorem execMaxu_changes (n : Fin 16) (s : State) :
    Answers (State.Changes [.beryl, .lanes, .hp, .xf, .key, .power, .bat, .chans, .posts, .seqs, .ibufs, .pool, .mem, .engines, .groups, .streams, .crcs, .bss, .lcs, .gds, .abs_, .sn, .ta, .eic, .cs, .sec, .vault, .dbg, .cw, .free] s) (execMaxu n s) :=
  Answers.next (State.macro__changes _ _ _)

theorem execClz_changes (n : Fin 16) (s : State) :
    Answers (State.Changes [.beryl, .lanes, .hp, .xf, .key, .power, .bat, .chans, .posts, .seqs, .ibufs, .pool, .mem, .engines, .groups, .streams, .crcs, .bss, .lcs, .gds, .abs_, .sn, .ta, .eic, .cs, .sec, .vault, .dbg, .cw, .free] s) (execClz n s) :=
  Answers.next (State.macro__changes _ _ _)

theorem execCtz_changes (n : Fin 16) (s : State) :
    Answers (State.Changes [.beryl, .lanes, .hp, .xf, .key, .power, .bat, .chans, .posts, .seqs, .ibufs, .pool, .mem, .engines, .groups, .streams, .crcs, .bss, .lcs, .gds, .abs_, .sn, .ta, .eic, .cs, .sec, .vault, .dbg, .cw, .free] s) (execCtz n s) :=
  Answers.next (State.macro__changes _ _ _)

theorem execPopc_changes (n : Fin 16) (s : State) :
    Answers (State.Changes [.beryl, .lanes, .hp, .xf, .key, .power, .bat, .chans, .posts, .seqs, .ibufs, .pool, .mem, .engines, .groups, .streams, .crcs, .bss, .lcs, .gds, .abs_, .sn, .ta, .eic, .cs, .sec, .vault, .dbg, .cw, .free] s) (execPopc n s) :=
  Answers.next (State.macro__changes _ _ _)

theorem execBswap_changes (n : Fin 16) (s : State) :
    Answers (State.Changes [.beryl, .lanes, .hp, .xf, .key, .power, .bat, .chans, .posts, .seqs, .ibufs, .pool, .mem, .engines, .groups, .streams, .crcs, .bss, .lcs, .gds, .abs_, .sn, .ta, .eic, .cs, .sec, .vault, .dbg, .cw, .free] s) (execBswap n s) :=
  Answers.next (State.macro__changes _ _ _)

theorem execBrev_changes (n : Fin 16) (s : State) :
    Answers (State.Changes [.beryl, .lanes, .hp, .xf, .key, .power, .bat, .chans, .posts, .seqs, .ibufs, .pool, .mem, .engines, .groups, .streams, .crcs, .bss, .lcs, .gds, .abs_, .sn, .ta, .eic, .cs, .sec, .vault, .dbg, .cw, .free] s) (execBrev n s) :=
  Answers.next (State.macro__changes _ _ _)

theorem execSlts_changes (n : Fin 16) (s : State) :
    Answers (State.Changes [.beryl, .lanes, .hp, .xf, .key, .power, .bat, .chans, .posts, .seqs, .ibufs, .pool, .mem, .engines, .groups, .streams, .crcs, .bss, .lcs, .gds, .abs_, .sn, .ta, .eic, .cs, .sec, .vault, .dbg, .cw, .free] s) (execSlts n s) :=
  Answers.next (State.macro__changes _ _ _)

theorem execSltu_changes (n : Fin 16) (s : State) :
    Answers (State.Changes [.beryl, .lanes, .hp, .xf, .key, .power, .bat, .chans, .posts, .seqs, .ibufs, .pool, .mem, .engines, .groups, .streams, .crcs, .bss, .lcs, .gds, .abs_, .sn, .ta, .eic, .cs, .sec, .vault, .dbg, .cw, .free] s) (execSltu n s) :=
  Answers.next (State.macro__changes _ _ _)

theorem execSlli_changes (n : Fin 16) (s : State) :
    Answers (State.Changes [.beryl, .lanes, .hp, .xf, .key, .power, .bat, .chans, .posts, .seqs, .ibufs, .pool, .mem, .engines, .groups, .streams, .crcs, .bss, .lcs, .gds, .abs_, .sn, .ta, .eic, .cs, .sec, .vault, .dbg, .cw, .free] s) (execSlli n s) :=
  Answers.next (State.macro__changes _ _ _)

theorem execSrli_changes (n : Fin 16) (s : State) :
    Answers (State.Changes [.beryl, .lanes, .hp, .xf, .key, .power, .bat, .chans, .posts, .seqs, .ibufs, .pool, .mem, .engines, .groups, .streams, .crcs, .bss, .lcs, .gds, .abs_, .sn, .ta, .eic, .cs, .sec, .vault, .dbg, .cw, .free] s) (execSrli n s) :=
  Answers.next (State.macro__changes _ _ _)

theorem execSrai_changes (n : Fin 16) (s : State) :
    Answers (State.Changes [.beryl, .lanes, .hp, .xf, .key, .power, .bat, .chans, .posts, .seqs, .ibufs, .pool, .mem, .engines, .groups, .streams, .crcs, .bss, .lcs, .gds, .abs_, .sn, .ta, .eic, .cs, .sec, .vault, .dbg, .cw, .free] s) (execSrai n s) :=
  Answers.next (State.macro__changes _ _ _)

theorem execRori_changes (n : Fin 16) (s : State) :
    Answers (State.Changes [.beryl, .lanes, .hp, .xf, .key, .power, .bat, .chans, .posts, .seqs, .ibufs, .pool, .mem, .engines, .groups, .streams, .crcs, .bss, .lcs, .gds, .abs_, .sn, .ta, .eic, .cs, .sec, .vault, .dbg, .cw, .free] s) (execRori n s) :=
  Answers.next (State.macro__changes _ _ _)

theorem execExtu_changes (n : Fin 16) (s : State) :
    Answers (State.Changes [.beryl, .lanes, .hp, .xf, .key, .power, .bat, .chans, .posts, .seqs, .ibufs, .pool, .mem, .engines, .groups, .streams, .crcs, .bss, .lcs, .gds, .abs_, .sn, .ta, .eic, .cs, .sec, .vault, .dbg, .cw, .free] s) (execExtu n s) :=
  Answers.next (State.macro__changes _ _ _)

theorem execExts_changes (n : Fin 16) (s : State) :
    Answers (State.Changes [.beryl, .lanes, .hp, .xf, .key, .power, .bat, .chans, .posts, .seqs, .ibufs, .pool, .mem, .engines, .groups, .streams, .crcs, .bss, .lcs, .gds, .abs_, .sn, .ta, .eic, .cs, .sec, .vault, .dbg, .cw, .free] s) (execExts n s) :=
  Answers.next (State.macro__changes _ _ _)

theorem execIns_changes (n : Fin 16) (s : State) :
    Answers (State.Changes [.beryl, .lanes, .hp, .xf, .key, .power, .bat, .chans, .posts, .seqs, .ibufs, .pool, .mem, .engines, .groups, .streams, .crcs, .bss, .lcs, .gds, .abs_, .sn, .ta, .eic, .cs, .sec, .vault, .dbg, .cw, .free] s) (execIns n s) :=
  Answers.next (State.macro__changes _ _ _)

theorem execAddi_changes (n : Fin 16) (s : State) :
    Answers (State.Changes [.beryl, .lanes, .hp, .xf, .key, .power, .bat, .chans, .posts, .seqs, .ibufs, .pool, .mem, .engines, .groups, .streams, .crcs, .bss, .lcs, .gds, .abs_, .sn, .ta, .eic, .cs, .sec, .vault, .dbg, .cw, .free] s) (execAddi n s) :=
  Answers.next (State.macro__changes _ _ _)

theorem execAndi_changes (n : Fin 16) (s : State) :
    Answers (State.Changes [.beryl, .lanes, .hp, .xf, .key, .power, .bat, .chans, .posts, .seqs, .ibufs, .pool, .mem, .engines, .groups, .streams, .crcs, .bss, .lcs, .gds, .abs_, .sn, .ta, .eic, .cs, .sec, .vault, .dbg, .cw, .free] s) (execAndi n s) :=
  Answers.next (State.macro__changes _ _ _)

theorem execOri_changes (n : Fin 16) (s : State) :
    Answers (State.Changes [.beryl, .lanes, .hp, .xf, .key, .power, .bat, .chans, .posts, .seqs, .ibufs, .pool, .mem, .engines, .groups, .streams, .crcs, .bss, .lcs, .gds, .abs_, .sn, .ta, .eic, .cs, .sec, .vault, .dbg, .cw, .free] s) (execOri n s) :=
  Answers.next (State.macro__changes _ _ _)

theorem execXori_changes (n : Fin 16) (s : State) :
    Answers (State.Changes [.beryl, .lanes, .hp, .xf, .key, .power, .bat, .chans, .posts, .seqs, .ibufs, .pool, .mem, .engines, .groups, .streams, .crcs, .bss, .lcs, .gds, .abs_, .sn, .ta, .eic, .cs, .sec, .vault, .dbg, .cw, .free] s) (execXori n s) :=
  Answers.next (State.macro__changes _ _ _)

theorem execLui_changes (n : Fin 16) (s : State) :
    Answers (State.Changes [.beryl, .lanes, .hp, .xf, .key, .power, .bat, .chans, .posts, .seqs, .ibufs, .pool, .mem, .engines, .groups, .streams, .crcs, .bss, .lcs, .gds, .abs_, .sn, .ta, .eic, .cs, .sec, .vault, .dbg, .cw, .free] s) (execLui n s) :=
  Answers.next (State.macro__changes _ _ _)

theorem execCmpi_changes (n : Fin 16) (s : State) :
    Answers (State.Changes [.beryl, .lanes, .hp, .xf, .key, .power, .bat, .chans, .posts, .seqs, .ibufs, .pool, .mem, .engines, .groups, .streams, .crcs, .bss, .lcs, .gds, .abs_, .sn, .ta, .eic, .cs, .sec, .vault, .dbg, .cw, .free] s) (execCmpi n s) :=
  Answers.next (State.macro__changes _ _ _)

theorem execTsti_changes (n : Fin 16) (s : State) :
    Answers (State.Changes [.beryl, .lanes, .hp, .xf, .key, .power, .bat, .chans, .posts, .seqs, .ibufs, .pool, .mem, .engines, .groups, .streams, .crcs, .bss, .lcs, .gds, .abs_, .sn, .ta, .eic, .cs, .sec, .vault, .dbg, .cw, .free] s) (execTsti n s) :=
  Answers.next (State.macro__changes _ _ _)

theorem execNop_changes (n : Fin 16) (s : State) :
    Answers (State.Changes [.beryl, .lanes, .hp, .xf, .key, .power, .bat, .chans, .posts, .seqs, .ibufs, .pool, .mem, .engines, .groups, .streams, .crcs, .bss, .lcs, .gds, .abs_, .sn, .ta, .eic, .cs, .sec, .vault, .dbg, .cw, .free] s) (execNop n s) :=
  Answers.next (State.macro__changes _ _ _)

theorem execRds_changes (n : Fin 16) (s : State) :
    Answers (State.Changes [.beryl, .lanes, .hp, .xf, .key, .power, .bat, .chans, .posts, .seqs, .ibufs, .pool, .mem, .engines, .groups, .streams, .crcs, .bss, .lcs, .gds, .abs_, .sn, .ta, .eic, .cs, .sec, .vault, .dbg, .cw, .free] s) (execRds n s) :=
  Answers.next (State.macro__changes _ _ _)

theorem execWrs_changes (n : Fin 16) (s : State) :
    Answers (State.Changes [.beryl, .lanes, .hp, .xf, .key, .power, .bat, .chans, .posts, .seqs, .ibufs, .pool, .mem, .engines, .groups, .streams, .crcs, .bss, .lcs, .gds, .abs_, .sn, .ta, .eic, .cs, .sec, .vault, .dbg, .cw, .free] s) (execWrs n s) :=
  Answers.next (State.macro__changes _ _ _)

theorem execLdb_changes (n : Fin 16) (s : State) :
    Answers (State.Changes [.beryl, .lanes, .hp, .xf, .key, .power, .bat, .chans, .posts, .seqs, .ibufs, .pool, .mem, .engines, .groups, .streams, .crcs, .bss, .lcs, .gds, .abs_, .sn, .ta, .eic, .cs, .sec, .vault, .dbg, .cw, .free] s) (execLdb n s) :=
  Answers.next (State.macro__changes _ _ _)

theorem execLdbu_changes (n : Fin 16) (s : State) :
    Answers (State.Changes [.beryl, .lanes, .hp, .xf, .key, .power, .bat, .chans, .posts, .seqs, .ibufs, .pool, .mem, .engines, .groups, .streams, .crcs, .bss, .lcs, .gds, .abs_, .sn, .ta, .eic, .cs, .sec, .vault, .dbg, .cw, .free] s) (execLdbu n s) :=
  Answers.next (State.macro__changes _ _ _)

theorem execLdh_changes (n : Fin 16) (s : State) :
    Answers (State.Changes [.beryl, .lanes, .hp, .xf, .key, .power, .bat, .chans, .posts, .seqs, .ibufs, .pool, .mem, .engines, .groups, .streams, .crcs, .bss, .lcs, .gds, .abs_, .sn, .ta, .eic, .cs, .sec, .vault, .dbg, .cw, .free] s) (execLdh n s) :=
  Answers.next (State.macro__changes _ _ _)

theorem execLdhu_changes (n : Fin 16) (s : State) :
    Answers (State.Changes [.beryl, .lanes, .hp, .xf, .key, .power, .bat, .chans, .posts, .seqs, .ibufs, .pool, .mem, .engines, .groups, .streams, .crcs, .bss, .lcs, .gds, .abs_, .sn, .ta, .eic, .cs, .sec, .vault, .dbg, .cw, .free] s) (execLdhu n s) :=
  Answers.next (State.macro__changes _ _ _)

theorem execLdw_changes (n : Fin 16) (s : State) :
    Answers (State.Changes [.beryl, .lanes, .hp, .xf, .key, .power, .bat, .chans, .posts, .seqs, .ibufs, .pool, .mem, .engines, .groups, .streams, .crcs, .bss, .lcs, .gds, .abs_, .sn, .ta, .eic, .cs, .sec, .vault, .dbg, .cw, .free] s) (execLdw n s) :=
  Answers.next (State.macro__changes _ _ _)

theorem execLdwu_changes (n : Fin 16) (s : State) :
    Answers (State.Changes [.beryl, .lanes, .hp, .xf, .key, .power, .bat, .chans, .posts, .seqs, .ibufs, .pool, .mem, .engines, .groups, .streams, .crcs, .bss, .lcs, .gds, .abs_, .sn, .ta, .eic, .cs, .sec, .vault, .dbg, .cw, .free] s) (execLdwu n s) :=
  Answers.next (State.macro__changes _ _ _)

theorem execLdp_changes (n : Fin 16) (s : State) :
    Answers (State.Changes [.beryl, .lanes, .hp, .xf, .key, .power, .bat, .chans, .posts, .seqs, .ibufs, .pool, .mem, .engines, .groups, .streams, .crcs, .bss, .lcs, .gds, .abs_, .sn, .ta, .eic, .cs, .sec, .vault, .dbg, .cw, .free] s) (execLdp n s) :=
  Answers.next (State.macro__changes _ _ _)

theorem execStb_changes (n : Fin 16) (s : State) :
    Answers (State.Changes [.beryl, .lanes, .hp, .xf, .key, .power, .bat, .chans, .posts, .seqs, .ibufs, .pool, .mem, .engines, .groups, .streams, .crcs, .bss, .lcs, .gds, .abs_, .sn, .ta, .eic, .cs, .sec, .vault, .dbg, .cw, .free] s) (execStb n s) :=
  Answers.next (State.macro__changes _ _ _)

theorem execSth_changes (n : Fin 16) (s : State) :
    Answers (State.Changes [.beryl, .lanes, .hp, .xf, .key, .power, .bat, .chans, .posts, .seqs, .ibufs, .pool, .mem, .engines, .groups, .streams, .crcs, .bss, .lcs, .gds, .abs_, .sn, .ta, .eic, .cs, .sec, .vault, .dbg, .cw, .free] s) (execSth n s) :=
  Answers.next (State.macro__changes _ _ _)

theorem execStw_changes (n : Fin 16) (s : State) :
    Answers (State.Changes [.beryl, .lanes, .hp, .xf, .key, .power, .bat, .chans, .posts, .seqs, .ibufs, .pool, .mem, .engines, .groups, .streams, .crcs, .bss, .lcs, .gds, .abs_, .sn, .ta, .eic, .cs, .sec, .vault, .dbg, .cw, .free] s) (execStw n s) :=
  Answers.next (State.macro__changes _ _ _)

theorem execStwu_changes (n : Fin 16) (s : State) :
    Answers (State.Changes [.beryl, .lanes, .hp, .xf, .key, .power, .bat, .chans, .posts, .seqs, .ibufs, .pool, .mem, .engines, .groups, .streams, .crcs, .bss, .lcs, .gds, .abs_, .sn, .ta, .eic, .cs, .sec, .vault, .dbg, .cw, .free] s) (execStwu n s) :=
  Answers.next (State.macro__changes _ _ _)

theorem execStp_changes (n : Fin 16) (s : State) :
    Answers (State.Changes [.beryl, .lanes, .hp, .xf, .key, .power, .bat, .chans, .posts, .seqs, .ibufs, .pool, .mem, .engines, .groups, .streams, .crcs, .bss, .lcs, .gds, .abs_, .sn, .ta, .eic, .cs, .sec, .vault, .dbg, .cw, .free] s) (execStp n s) :=
  Answers.next (State.macro__changes _ _ _)

theorem execBcc_changes (n : Fin 16) (s : State) :
    Answers (State.Changes [.beryl, .lanes, .hp, .xf, .key, .power, .bat, .chans, .posts, .seqs, .ibufs, .pool, .mem, .engines, .groups, .streams, .crcs, .bss, .lcs, .gds, .abs_, .sn, .ta, .eic, .cs, .sec, .vault, .dbg, .cw, .free] s) (execBcc n s) :=
  Answers.next (State.macro__changes _ _ _)

theorem execBz_changes (n : Fin 16) (s : State) :
    Answers (State.Changes [.beryl, .lanes, .hp, .xf, .key, .power, .bat, .chans, .posts, .seqs, .ibufs, .pool, .mem, .engines, .groups, .streams, .crcs, .bss, .lcs, .gds, .abs_, .sn, .ta, .eic, .cs, .sec, .vault, .dbg, .cw, .free] s) (execBz n s) :=
  Answers.next (State.macro__changes _ _ _)

theorem execBnz_changes (n : Fin 16) (s : State) :
    Answers (State.Changes [.beryl, .lanes, .hp, .xf, .key, .power, .bat, .chans, .posts, .seqs, .ibufs, .pool, .mem, .engines, .groups, .streams, .crcs, .bss, .lcs, .gds, .abs_, .sn, .ta, .eic, .cs, .sec, .vault, .dbg, .cw, .free] s) (execBnz n s) :=
  Answers.next (State.macro__changes _ _ _)

theorem execBeq_changes (n : Fin 16) (s : State) :
    Answers (State.Changes [.beryl, .lanes, .hp, .xf, .key, .power, .bat, .chans, .posts, .seqs, .ibufs, .pool, .mem, .engines, .groups, .streams, .crcs, .bss, .lcs, .gds, .abs_, .sn, .ta, .eic, .cs, .sec, .vault, .dbg, .cw, .free] s) (execBeq n s) :=
  Answers.next (State.macro__changes _ _ _)

theorem execBne_changes (n : Fin 16) (s : State) :
    Answers (State.Changes [.beryl, .lanes, .hp, .xf, .key, .power, .bat, .chans, .posts, .seqs, .ibufs, .pool, .mem, .engines, .groups, .streams, .crcs, .bss, .lcs, .gds, .abs_, .sn, .ta, .eic, .cs, .sec, .vault, .dbg, .cw, .free] s) (execBne n s) :=
  Answers.next (State.macro__changes _ _ _)

theorem execJ_changes (n : Fin 16) (s : State) :
    Answers (State.Changes [.beryl, .lanes, .hp, .xf, .key, .power, .bat, .chans, .posts, .seqs, .ibufs, .pool, .mem, .engines, .groups, .streams, .crcs, .bss, .lcs, .gds, .abs_, .sn, .ta, .eic, .cs, .sec, .vault, .dbg, .cw, .free] s) (execJ n s) :=
  Answers.next (State.macro__changes _ _ _)

theorem execCall_changes (n : Fin 16) (s : State) :
    Answers (State.Changes [.beryl, .lanes, .hp, .xf, .key, .power, .bat, .chans, .posts, .seqs, .ibufs, .pool, .mem, .engines, .groups, .streams, .crcs, .bss, .lcs, .gds, .abs_, .sn, .ta, .eic, .cs, .sec, .vault, .dbg, .cw, .free] s) (execCall n s) :=
  Answers.next (State.macro__changes _ _ _)

theorem execJr_changes (n : Fin 16) (s : State) :
    Answers (State.Changes [.beryl, .lanes, .hp, .xf, .key, .power, .bat, .chans, .posts, .seqs, .ibufs, .pool, .mem, .engines, .groups, .streams, .crcs, .bss, .lcs, .gds, .abs_, .sn, .ta, .eic, .cs, .sec, .vault, .dbg, .cw, .free] s) (execJr n s) :=
  Answers.next (State.macro__changes _ _ _)

theorem execCallr_changes (n : Fin 16) (s : State) :
    Answers (State.Changes [.beryl, .lanes, .hp, .xf, .key, .power, .bat, .chans, .posts, .seqs, .ibufs, .pool, .mem, .engines, .groups, .streams, .crcs, .bss, .lcs, .gds, .abs_, .sn, .ta, .eic, .cs, .sec, .vault, .dbg, .cw, .free] s) (execCallr n s) :=
  Answers.next (State.macro__changes _ _ _)

theorem execRet_changes (n : Fin 16) (s : State) :
    Answers (State.Changes [.beryl, .lanes, .hp, .xf, .key, .power, .bat, .chans, .posts, .seqs, .ibufs, .pool, .mem, .engines, .groups, .streams, .crcs, .bss, .lcs, .gds, .abs_, .sn, .ta, .eic, .cs, .sec, .vault, .dbg, .cw, .free] s) (execRet n s) :=
  Answers.next (State.macro__changes _ _ _)

theorem execWopen_changes (n : Fin 16) (s : State) :
    Answers (State.Changes [.beryl, .lanes, .hp, .xf, .key, .power, .bat, .chans, .posts, .seqs, .ibufs, .pool, .mem, .engines, .groups, .streams, .crcs, .bss, .lcs, .gds, .abs_, .sn, .ta, .eic, .cs, .sec, .vault, .dbg, .cw, .free] s) (execWopen n s) :=
  Answers.next (State.macro__changes _ _ _)

theorem execWclose_changes (n : Fin 16) (s : State) :
    Answers (State.Changes [.beryl, .lanes, .hp, .xf, .key, .power, .bat, .chans, .posts, .seqs, .ibufs, .pool, .mem, .engines, .groups, .streams, .crcs, .bss, .lcs, .gds, .abs_, .sn, .ta, .eic, .cs, .sec, .vault, .dbg, .cw, .free] s) (execWclose n s) :=
  Answers.next (State.macro__changes _ _ _)

theorem execTrap_changes (n : Fin 16) (s : State) :
    Answers (State.Changes [.beryl, .lanes, .hp, .xf, .key, .power, .bat, .chans, .posts, .seqs, .ibufs, .pool, .mem, .engines, .groups, .streams, .crcs, .bss, .lcs, .gds, .abs_, .sn, .ta, .eic, .cs, .sec, .vault, .dbg, .cw, .free] s) (execTrap n s) :=
  Answers.next (State.macro__changes _ _ _)

theorem execNow_changes (n : Fin 16) (s : State) :
    Answers (State.Changes [.beryl, .lanes, .hp, .xf, .key, .power, .bat, .chans, .posts, .seqs, .ibufs, .pool, .mem, .engines, .groups, .streams, .crcs, .bss, .lcs, .gds, .abs_, .sn, .ta, .eic, .cs, .sec, .vault, .dbg, .cw, .free] s) (execNow n s) :=
  Answers.next (State.macro__changes _ _ _)

theorem execConv_changes (n : Fin 16) (s : State) :
    Answers (State.Changes [.beryl, .lanes, .hp, .xf, .key, .power, .bat, .chans, .posts, .seqs, .ibufs, .pool, .mem, .engines, .groups, .streams, .crcs, .bss, .lcs, .gds, .abs_, .sn, .ta, .eic, .cs, .sec, .vault, .dbg, .cw, .free] s) (execConv n s) :=
  Answers.next (State.macro__changes _ _ _)

theorem execExp_changes (n : Fin 16) (s : State) :
    Answers (State.Changes [.beryl, .lanes, .hp, .xf, .key, .power, .bat, .chans, .posts, .seqs, .ibufs, .pool, .mem, .engines, .groups, .streams, .crcs, .bss, .lcs, .gds, .abs_, .sn, .ta, .eic, .cs, .sec, .vault, .dbg, .cw, .free] s) (execExp n s) :=
  Answers.next (State.macro__changes _ _ _)

theorem execEnql_changes (n : Fin 16) (s : State) :
    Answers (State.Changes [.beryl, .lanes, .hp, .xf, .key, .power, .bat, .chans, .posts, .seqs, .ibufs, .pool, .mem, .engines, .groups, .streams, .crcs, .bss, .lcs, .gds, .abs_, .sn, .ta, .eic, .cs, .sec, .vault, .dbg, .cw, .free] s) (execEnql n s) :=
  Answers.next (State.macro__changes _ _ _)

theorem execEnqe_changes (n : Fin 16) (s : State) :
    Answers (State.Changes [.beryl, .lanes, .hp, .xf, .key, .power, .bat, .chans, .posts, .seqs, .ibufs, .pool, .mem, .engines, .groups, .streams, .crcs, .bss, .lcs, .gds, .abs_, .sn, .ta, .eic, .cs, .sec, .vault, .dbg, .cw, .free] s) (execEnqe n s) :=
  Answers.next (State.macro__changes _ _ _)

theorem execPushe_changes (n : Fin 16) (s : State) :
    Answers (State.Changes [.beryl, .lanes, .hp, .xf, .key, .power, .bat, .chans, .posts, .seqs, .ibufs, .pool, .mem, .engines, .groups, .streams, .crcs, .bss, .lcs, .gds, .abs_, .sn, .ta, .eic, .cs, .sec, .vault, .dbg, .cw, .free] s) (execPushe n s) :=
  Answers.next (State.macro__changes _ _ _)

theorem execDeq_changes (n : Fin 16) (s : State) :
    Answers (State.Changes [.beryl, .lanes, .hp, .xf, .key, .power, .bat, .chans, .posts, .seqs, .ibufs, .pool, .mem, .engines, .groups, .streams, .crcs, .bss, .lcs, .gds, .abs_, .sn, .ta, .eic, .cs, .sec, .vault, .dbg, .cw, .free] s) (execDeq n s) :=
  Answers.next (State.macro__changes _ _ _)

theorem execTrydeq_changes (n : Fin 16) (s : State) :
    Answers (State.Changes [.beryl, .lanes, .hp, .xf, .key, .power, .bat, .chans, .posts, .seqs, .ibufs, .pool, .mem, .engines, .groups, .streams, .crcs, .bss, .lcs, .gds, .abs_, .sn, .ta, .eic, .cs, .sec, .vault, .dbg, .cw, .free] s) (execTrydeq n s) :=
  Answers.next (State.macro__changes _ _ _)

theorem execBrecv_changes (n : Fin 16) (s : State) :
    Answers (State.Changes [.beryl, .lanes, .hp, .xf, .key, .power, .bat, .chans, .posts, .seqs, .ibufs, .pool, .mem, .engines, .groups, .streams, .crcs, .bss, .lcs, .gds, .abs_, .sn, .ta, .eic, .cs, .sec, .vault, .dbg, .cw, .free] s) (execBrecv n s) :=
  Answers.next (State.macro__changes _ _ _)

theorem execFire_changes (n : Fin 16) (s : State) :
    Answers (State.Changes [.beryl, .lanes, .hp, .xf, .key, .power, .bat, .chans, .posts, .seqs, .ibufs, .pool, .mem, .engines, .groups, .streams, .crcs, .bss, .lcs, .gds, .abs_, .sn, .ta, .eic, .cs, .sec, .vault, .dbg, .cw, .free] s) (execFire n s) :=
  Answers.next (State.macro__changes _ _ _)

theorem execWaite_changes (n : Fin 16) (s : State) :
    Answers (State.Changes [.beryl, .lanes, .hp, .xf, .key, .power, .bat, .chans, .posts, .seqs, .ibufs, .pool, .mem, .engines, .groups, .streams, .crcs, .bss, .lcs, .gds, .abs_, .sn, .ta, .eic, .cs, .sec, .vault, .dbg, .cw, .free] s) (execWaite n s) :=
  Answers.next (State.macro__changes _ _ _)

theorem execTrye_changes (n : Fin 16) (s : State) :
    Answers (State.Changes [.beryl, .lanes, .hp, .xf, .key, .power, .bat, .chans, .posts, .seqs, .ibufs, .pool, .mem, .engines, .groups, .streams, .crcs, .bss, .lcs, .gds, .abs_, .sn, .ta, .eic, .cs, .sec, .vault, .dbg, .cw, .free] s) (execTrye n s) :=
  Answers.next (State.macro__changes _ _ _)

theorem execLl_changes (n : Fin 16) (s : State) :
    Answers (State.Changes [.beryl, .lanes, .hp, .xf, .key, .power, .bat, .chans, .posts, .seqs, .ibufs, .pool, .mem, .engines, .groups, .streams, .crcs, .bss, .lcs, .gds, .abs_, .sn, .ta, .eic, .cs, .sec, .vault, .dbg, .cw, .free] s) (execLl n s) :=
  Answers.next (State.macro__changes _ _ _)

theorem execSc_changes (n : Fin 16) (s : State) :
    Answers (State.Changes [.beryl, .lanes, .hp, .xf, .key, .power, .bat, .chans, .posts, .seqs, .ibufs, .pool, .mem, .engines, .groups, .streams, .crcs, .bss, .lcs, .gds, .abs_, .sn, .ta, .eic, .cs, .sec, .vault, .dbg, .cw, .free] s) (execSc n s) :=
  Answers.next (State.macro__changes _ _ _)

theorem execClrex_changes (n : Fin 16) (s : State) :
    Answers (State.Changes [.beryl, .lanes, .hp, .xf, .key, .power, .bat, .chans, .posts, .seqs, .ibufs, .pool, .mem, .engines, .groups, .streams, .crcs, .bss, .lcs, .gds, .abs_, .sn, .ta, .eic, .cs, .sec, .vault, .dbg, .cw, .free] s) (execClrex n s) :=
  Answers.next (State.macro__changes _ _ _)

theorem execRdc_changes (n : Fin 16) (s : State) :
    Answers (State.Changes [.beryl, .lanes, .hp, .xf, .key, .power, .bat, .chans, .posts, .seqs, .ibufs, .pool, .mem, .engines, .groups, .streams, .crcs, .bss, .lcs, .gds, .abs_, .sn, .ta, .eic, .cs, .sec, .vault, .dbg, .cw, .free] s) (execRdc n s) :=
  Answers.next (State.macro__changes _ _ _)

theorem execWrc_changes (n : Fin 16) (s : State) :
    Answers (State.Changes [.beryl, .lanes, .hp, .xf, .key, .power, .bat, .chans, .posts, .seqs, .ibufs, .pool, .mem, .engines, .groups, .streams, .crcs, .bss, .lcs, .gds, .abs_, .sn, .ta, .eic, .cs, .sec, .vault, .dbg, .cw, .free] s) (execWrc n s) :=
  Answers.next (State.macro__changes _ _ _)

theorem execWspill_changes (n : Fin 16) (s : State) :
    Answers (State.Changes [.beryl, .lanes, .hp, .xf, .key, .power, .bat, .chans, .posts, .seqs, .ibufs, .pool, .mem, .engines, .groups, .streams, .crcs, .bss, .lcs, .gds, .abs_, .sn, .ta, .eic, .cs, .sec, .vault, .dbg, .cw, .free] s) (execWspill n s) :=
  Answers.next (State.macro__changes _ _ _)

theorem execFrel_changes (n : Fin 16) (s : State) :
    Answers (State.Changes [.beryl, .lanes, .hp, .xf, .key, .power, .bat, .chans, .posts, .seqs, .ibufs, .pool, .mem, .engines, .groups, .streams, .crcs, .bss, .lcs, .gds, .abs_, .sn, .ta, .eic, .cs, .sec, .vault, .dbg, .cw, .free] s) (execFrel n s) :=
  Answers.next (State.macro__changes _ _ _)

theorem execFadd_changes (n : Fin 16) (s : State) :
    Answers (State.Changes [.beryl, .lanes, .hp, .xf, .key, .power, .bat, .chans, .posts, .seqs, .ibufs, .pool, .mem, .engines, .groups, .streams, .crcs, .bss, .lcs, .gds, .abs_, .sn, .ta, .eic, .cs, .sec, .vault, .dbg, .cw, .free] s) (execFadd n s) :=
  Answers.next (State.macro__changes _ _ _)

theorem execFsub_changes (n : Fin 16) (s : State) :
    Answers (State.Changes [.beryl, .lanes, .hp, .xf, .key, .power, .bat, .chans, .posts, .seqs, .ibufs, .pool, .mem, .engines, .groups, .streams, .crcs, .bss, .lcs, .gds, .abs_, .sn, .ta, .eic, .cs, .sec, .vault, .dbg, .cw, .free] s) (execFsub n s) :=
  Answers.next (State.macro__changes _ _ _)

theorem execFmul_changes (n : Fin 16) (s : State) :
    Answers (State.Changes [.beryl, .lanes, .hp, .xf, .key, .power, .bat, .chans, .posts, .seqs, .ibufs, .pool, .mem, .engines, .groups, .streams, .crcs, .bss, .lcs, .gds, .abs_, .sn, .ta, .eic, .cs, .sec, .vault, .dbg, .cw, .free] s) (execFmul n s) :=
  Answers.next (State.macro__changes _ _ _)

theorem execFdiv_changes (n : Fin 16) (s : State) :
    Answers (State.Changes [.beryl, .lanes, .hp, .xf, .key, .power, .bat, .chans, .posts, .seqs, .ibufs, .pool, .mem, .engines, .groups, .streams, .crcs, .bss, .lcs, .gds, .abs_, .sn, .ta, .eic, .cs, .sec, .vault, .dbg, .cw, .free] s) (execFdiv n s) :=
  Answers.next (State.macro__changes _ _ _)

theorem execFsqrt_changes (n : Fin 16) (s : State) :
    Answers (State.Changes [.beryl, .lanes, .hp, .xf, .key, .power, .bat, .chans, .posts, .seqs, .ibufs, .pool, .mem, .engines, .groups, .streams, .crcs, .bss, .lcs, .gds, .abs_, .sn, .ta, .eic, .cs, .sec, .vault, .dbg, .cw, .free] s) (execFsqrt n s) :=
  Answers.next (State.macro__changes _ _ _)

theorem execFma_changes (n : Fin 16) (s : State) :
    Answers (State.Changes [.beryl, .lanes, .hp, .xf, .key, .power, .bat, .chans, .posts, .seqs, .ibufs, .pool, .mem, .engines, .groups, .streams, .crcs, .bss, .lcs, .gds, .abs_, .sn, .ta, .eic, .cs, .sec, .vault, .dbg, .cw, .free] s) (execFma n s) :=
  Answers.next (State.macro__changes _ _ _)

theorem execFneg_changes (n : Fin 16) (s : State) :
    Answers (State.Changes [.beryl, .lanes, .hp, .xf, .key, .power, .bat, .chans, .posts, .seqs, .ibufs, .pool, .mem, .engines, .groups, .streams, .crcs, .bss, .lcs, .gds, .abs_, .sn, .ta, .eic, .cs, .sec, .vault, .dbg, .cw, .free] s) (execFneg n s) :=
  Answers.next (State.macro__changes _ _ _)

theorem execFabs_changes (n : Fin 16) (s : State) :
    Answers (State.Changes [.beryl, .lanes, .hp, .xf, .key, .power, .bat, .chans, .posts, .seqs, .ibufs, .pool, .mem, .engines, .groups, .streams, .crcs, .bss, .lcs, .gds, .abs_, .sn, .ta, .eic, .cs, .sec, .vault, .dbg, .cw, .free] s) (execFabs n s) :=
  Answers.next (State.macro__changes _ _ _)

theorem execFmin_changes (n : Fin 16) (s : State) :
    Answers (State.Changes [.beryl, .lanes, .hp, .xf, .key, .power, .bat, .chans, .posts, .seqs, .ibufs, .pool, .mem, .engines, .groups, .streams, .crcs, .bss, .lcs, .gds, .abs_, .sn, .ta, .eic, .cs, .sec, .vault, .dbg, .cw, .free] s) (execFmin n s) :=
  Answers.next (State.macro__changes _ _ _)

theorem execFmax_changes (n : Fin 16) (s : State) :
    Answers (State.Changes [.beryl, .lanes, .hp, .xf, .key, .power, .bat, .chans, .posts, .seqs, .ibufs, .pool, .mem, .engines, .groups, .streams, .crcs, .bss, .lcs, .gds, .abs_, .sn, .ta, .eic, .cs, .sec, .vault, .dbg, .cw, .free] s) (execFmax n s) :=
  Answers.next (State.macro__changes _ _ _)

theorem execFcmp_changes (n : Fin 16) (s : State) :
    Answers (State.Changes [.beryl, .lanes, .hp, .xf, .key, .power, .bat, .chans, .posts, .seqs, .ibufs, .pool, .mem, .engines, .groups, .streams, .crcs, .bss, .lcs, .gds, .abs_, .sn, .ta, .eic, .cs, .sec, .vault, .dbg, .cw, .free] s) (execFcmp n s) :=
  Answers.next (State.macro__changes _ _ _)

theorem execFcpy_changes (n : Fin 16) (s : State) :
    Answers (State.Changes [.beryl, .lanes, .hp, .xf, .key, .power, .bat, .chans, .posts, .seqs, .ibufs, .pool, .mem, .engines, .groups, .streams, .crcs, .bss, .lcs, .gds, .abs_, .sn, .ta, .eic, .cs, .sec, .vault, .dbg, .cw, .free] s) (execFcpy n s) :=
  Answers.next (State.macro__changes _ _ _)

theorem execFrint_changes (n : Fin 16) (s : State) :
    Answers (State.Changes [.beryl, .lanes, .hp, .xf, .key, .power, .bat, .chans, .posts, .seqs, .ibufs, .pool, .mem, .engines, .groups, .streams, .crcs, .bss, .lcs, .gds, .abs_, .sn, .ta, .eic, .cs, .sec, .vault, .dbg, .cw, .free] s) (execFrint n s) :=
  Answers.next (State.macro__changes _ _ _)

theorem execFmvgq_changes (n : Fin 16) (s : State) :
    Answers (State.Changes [.beryl, .lanes, .hp, .xf, .key, .power, .bat, .chans, .posts, .seqs, .ibufs, .pool, .mem, .engines, .groups, .streams, .crcs, .bss, .lcs, .gds, .abs_, .sn, .ta, .eic, .cs, .sec, .vault, .dbg, .cw, .free] s) (execFmvgq n s) :=
  Answers.next (State.macro__changes _ _ _)

theorem execFmvqg_changes (n : Fin 16) (s : State) :
    Answers (State.Changes [.beryl, .lanes, .hp, .xf, .key, .power, .bat, .chans, .posts, .seqs, .ibufs, .pool, .mem, .engines, .groups, .streams, .crcs, .bss, .lcs, .gds, .abs_, .sn, .ta, .eic, .cs, .sec, .vault, .dbg, .cw, .free] s) (execFmvqg n s) :=
  Answers.next (State.macro__changes _ _ _)

theorem execFcvts_changes (n : Fin 16) (s : State) :
    Answers (State.Changes [.beryl, .lanes, .hp, .xf, .key, .power, .bat, .chans, .posts, .seqs, .ibufs, .pool, .mem, .engines, .groups, .streams, .crcs, .bss, .lcs, .gds, .abs_, .sn, .ta, .eic, .cs, .sec, .vault, .dbg, .cw, .free] s) (execFcvts n s) :=
  Answers.next (State.macro__changes _ _ _)

theorem execFcvtu_changes (n : Fin 16) (s : State) :
    Answers (State.Changes [.beryl, .lanes, .hp, .xf, .key, .power, .bat, .chans, .posts, .seqs, .ibufs, .pool, .mem, .engines, .groups, .streams, .crcs, .bss, .lcs, .gds, .abs_, .sn, .ta, .eic, .cs, .sec, .vault, .dbg, .cw, .free] s) (execFcvtu n s) :=
  Answers.next (State.macro__changes _ _ _)

theorem execFtos_changes (n : Fin 16) (s : State) :
    Answers (State.Changes [.beryl, .lanes, .hp, .xf, .key, .power, .bat, .chans, .posts, .seqs, .ibufs, .pool, .mem, .engines, .groups, .streams, .crcs, .bss, .lcs, .gds, .abs_, .sn, .ta, .eic, .cs, .sec, .vault, .dbg, .cw, .free] s) (execFtos n s) :=
  Answers.next (State.macro__changes _ _ _)

theorem execFtou_changes (n : Fin 16) (s : State) :
    Answers (State.Changes [.beryl, .lanes, .hp, .xf, .key, .power, .bat, .chans, .posts, .seqs, .ibufs, .pool, .mem, .engines, .groups, .streams, .crcs, .bss, .lcs, .gds, .abs_, .sn, .ta, .eic, .cs, .sec, .vault, .dbg, .cw, .free] s) (execFtou n s) :=
  Answers.next (State.macro__changes _ _ _)

theorem execFld_changes (n : Fin 16) (s : State) :
    Answers (State.Changes [.beryl, .lanes, .hp, .xf, .key, .power, .bat, .chans, .posts, .seqs, .ibufs, .pool, .mem, .engines, .groups, .streams, .crcs, .bss, .lcs, .gds, .abs_, .sn, .ta, .eic, .cs, .sec, .vault, .dbg, .cw, .free] s) (execFld n s) :=
  Answers.next (State.macro__changes _ _ _)

theorem execFst_changes (n : Fin 16) (s : State) :
    Answers (State.Changes [.beryl, .lanes, .hp, .xf, .key, .power, .bat, .chans, .posts, .seqs, .ibufs, .pool, .mem, .engines, .groups, .streams, .crcs, .bss, .lcs, .gds, .abs_, .sn, .ta, .eic, .cs, .sec, .vault, .dbg, .cw, .free] s) (execFst n s) :=
  Answers.next (State.macro__changes _ _ _)

theorem execRdfc_changes (n : Fin 16) (s : State) :
    Answers (State.Changes [.beryl, .lanes, .hp, .xf, .key, .power, .bat, .chans, .posts, .seqs, .ibufs, .pool, .mem, .engines, .groups, .streams, .crcs, .bss, .lcs, .gds, .abs_, .sn, .ta, .eic, .cs, .sec, .vault, .dbg, .cw, .free] s) (execRdfc n s) :=
  Answers.next (State.macro__changes _ _ _)

theorem execWrfc_changes (n : Fin 16) (s : State) :
    Answers (State.Changes [.beryl, .lanes, .hp, .xf, .key, .power, .bat, .chans, .posts, .seqs, .ibufs, .pool, .mem, .engines, .groups, .streams, .crcs, .bss, .lcs, .gds, .abs_, .sn, .ta, .eic, .cs, .sec, .vault, .dbg, .cw, .free] s) (execWrfc n s) :=
  Answers.next (State.macro__changes _ _ _)

theorem execYield_changes (n : Fin 16) (s : State) :
    Answers (State.Changes [.beryl, .lanes, .hp, .xf, .key, .power, .bat, .chans, .posts, .seqs, .ibufs, .pool, .mem, .engines, .groups, .streams, .crcs, .bss, .lcs, .gds, .abs_, .sn, .ta, .eic, .cs, .sec, .vault, .dbg, .cw, .free] s) (execYield n s) :=
  Answers.next (State.macro__changes _ _ _)

theorem execStop_changes (n : Fin 16) (s : State) :
    Answers (State.Changes [.beryl, .lanes, .hp, .xf, .key, .power, .bat, .chans, .posts, .seqs, .ibufs, .pool, .mem, .engines, .groups, .streams, .crcs, .bss, .lcs, .gds, .abs_, .sn, .ta, .eic, .cs, .sec, .vault, .dbg, .cw, .free] s) (execStop n s) :=
  Answers.next (State.macro__changes _ _ _)

theorem execCuxn_changes (n : Fin 16) (s : State) :
    Answers (State.Changes [.beryl, .lanes, .hp, .xf, .key, .power, .bat, .chans, .posts, .seqs, .ibufs, .pool, .mem, .engines, .groups, .streams, .crcs, .bss, .lcs, .gds, .abs_, .sn, .ta, .eic, .cs, .sec, .vault, .dbg, .cw, .free] s) (execCuxn n s) :=
  Answers.next (State.macro__changes _ _ _)

theorem execCsWordWrite_changes (r : Req) (w : Fin 16384) (v : W32) (s : State) :
    Answers (State.Changes [.beryl, .lanes, .hp, .xf, .key, .power, .bat, .chans, .posts, .seqs, .ibufs, .pool, .mem, .engines, .groups, .streams, .crcs, .bss, .lcs, .gds, .abs_, .sn, .ta, .eic, .cs, .sec, .vault, .dbg, .cw, .free] s) (execCsWordWrite r w v s) := by
  unfold execCsWordWrite
  try dsimp only
  repeat'
    first
    | with_reducible apply Answers.next
    | with_reducible apply State.Changes.refl
    | exact rfl
    | with_reducible apply State.Changes.step (k := State.busWrite_changes _ _ _ _ _)

theorem execCsPmWrite_changes (r : Req) (k : Fin 64) (v : W32) (s : State) :
    Answers (State.Changes [.beryl, .lanes, .hp, .xf, .key, .power, .bat, .chans, .posts, .seqs, .ibufs, .pool, .mem, .engines, .groups, .streams, .crcs, .bss, .lcs, .gds, .abs_, .sn, .ta, .eic, .cs, .sec, .vault, .dbg, .cw, .free] s) (execCsPmWrite r k v s) := by
  unfold execCsPmWrite
  try dsimp only
  repeat'
    first
    | with_reducible apply Answers.next
    | with_reducible apply State.Changes.refl
    | exact rfl
    | with_reducible apply State.Changes.step (k := State.busWrite_changes _ _ _ _ _)

theorem execBistWord_changes (t : Instant) (fail : Bool) (s : State) :
    Answers (State.Changes [.beryl, .mem] s) (execBistWord t fail s) := by
  unfold execBistWord
  try dsimp only
  repeat'
    first
    | with_reducible apply Answers.next
    | with_reducible apply State.Changes.refl
    | exact rfl
    | with_reducible apply State.Changes.step (k := State.advance_changes _ _)
    | with_reducible apply State.Changes.step (k := State.bistWord_changes _ _)

theorem execUncRearm_changes (hw : Bool) (s : State) :
    Answers (State.Changes [.mem] s) (execUncRearm hw s) := by
  unfold execUncRearm
  try dsimp only
  repeat'
    first
    | with_reducible apply Answers.next
    | with_reducible apply State.Changes.refl
    | exact rfl
    | with_reducible apply State.Changes.step (k := State.uncRearm_changes _ _)
    | split

theorem execCollRearm_changes (hw : Bool) (s : State) :
    Answers (State.Changes [.mem] s) (execCollRearm hw s) := by
  unfold execCollRearm
  try dsimp only
  repeat'
    first
    | with_reducible apply Answers.next
    | with_reducible apply State.Changes.refl
    | exact rfl
    | with_reducible apply State.Changes.step (k := State.collRearm_changes _ _)
    | split

theorem execAgateWipe_changes (r : Req) (s : State) :
    Answers (State.Changes [.beryl, .lanes, .hp, .xf, .key, .power, .bat, .chans, .posts, .seqs, .ibufs, .pool, .mem, .engines, .groups, .streams, .crcs, .bss, .lcs, .gds, .abs_, .sn, .ta, .eic, .cs, .sec, .vault, .dbg, .cw, .free] s) (execAgateWipe r s) := by
  unfold execAgateWipe
  try dsimp only
  repeat'
    first
    | with_reducible apply Answers.next
    | with_reducible apply State.Changes.refl
    | exact rfl
    | with_reducible apply State.Changes.step (k := State.busWrite_changes _ _ _ _ _)

theorem execAgateWipeDone_changes (s : State) :
    Answers (State.Changes [.mem] s) (execAgateWipeDone s) := by
  unfold execAgateWipeDone
  try dsimp only
  repeat'
    first
    | with_reducible apply Answers.next
    | with_reducible apply State.Changes.refl
    | exact rfl
    | with_reducible apply State.Changes.step (k := State.agWipeDone_changes _)

theorem execAgWlockSet_changes (r : Req) (v : W32) (s : State) :
    Answers (State.Changes [.beryl, .lanes, .hp, .xf, .key, .power, .bat, .chans, .posts, .seqs, .ibufs, .pool, .mem, .engines, .groups, .streams, .crcs, .bss, .lcs, .gds, .abs_, .sn, .ta, .eic, .cs, .sec, .vault, .dbg, .cw, .free] s) (execAgWlockSet r v s) := by
  unfold execAgWlockSet
  try dsimp only
  repeat'
    first
    | with_reducible apply Answers.next
    | with_reducible apply State.Changes.refl
    | exact rfl
    | with_reducible apply State.Changes.step (k := State.busWrite_changes _ _ _ _ _)

theorem execGdEnable_changes (x : Fin 2) (v : W32) (s : State) :
    Answers (State.Changes [.gds] s) (execGdEnable x v s) := by
  unfold execGdEnable
  try dsimp only
  repeat'
    first
    | with_reducible apply Answers.next
    | with_reducible apply State.Changes.refl
    | exact rfl
    | with_reducible apply State.Changes.step (k := State.gdCfg_changes _ _ _)
    | split

theorem execGdDisable_changes (x : Fin 2) (v : W32) (s : State) :
    Answers (State.Changes [.gds] s) (execGdDisable x v s) := by
  unfold execGdDisable
  try dsimp only
  repeat'
    first
    | with_reducible apply Answers.next
    | with_reducible apply State.Changes.refl
    | exact rfl
    | with_reducible apply State.Changes.step (k := State.gdCfg_changes _ _ _)
    | split

theorem execGdAbort_changes (x : Fin 2) (v : W32) (s : State) :
    Answers (State.Changes [.gds] s) (execGdAbort x v s) := by
  unfold execGdAbort
  try dsimp only
  repeat'
    first
    | with_reducible apply Answers.next
    | with_reducible apply State.Changes.refl
    | exact rfl
    | with_reducible apply State.Changes.step (k := State.gdCfg_changes _ _ _)
    | split

theorem execGdClrerr_changes (x : Fin 2) (s : State) :
    Answers (State.Changes [.gds] s) (execGdClrerr x s) := by
  unfold execGdClrerr
  try dsimp only
  repeat'
    first
    | with_reducible apply Answers.next
    | with_reducible apply State.Changes.refl
    | exact rfl
    | with_reducible apply State.Changes.step (k := State.gdClrErr_changes _ _)
    | split

theorem execFlushq_changes (x : Fin 2) (s : State) :
    Answers (State.Changes [.gds] s) (execFlushq x s) := by
  unfold execFlushq
  try dsimp only
  repeat'
    first
    | with_reducible apply Answers.next
    | with_reducible apply State.Changes.refl
    | exact rfl
    | with_reducible apply State.Changes.step (k := State.gdFlushQ_changes _ _)
    | split

theorem execCycleStart_changes (t : Instant) (x : Fin 2) (s : State) :
    Answers (State.Changes [.beryl, .gds] s) (execCycleStart t x s) := by
  unfold execCycleStart
  try dsimp only
  repeat'
    first
    | with_reducible apply Answers.next
    | with_reducible apply State.Changes.refl
    | exact rfl
    | with_reducible apply State.Changes.step (k := State.advance_changes _ _)
    | with_reducible apply State.Changes.step (k := State.gdCycle_changes _ _)

theorem execWindowOpen_changes (t : Instant) (x : Fin 2) (slot : Fin 2048) (s : State) :
    Answers (State.Changes [.beryl, .chans, .seqs, .mem, .gds, .free] s) (execWindowOpen t x slot s) := by
  unfold execWindowOpen
  try dsimp only
  repeat'
    first
    | with_reducible apply Answers.next
    | with_reducible apply State.Changes.refl
    | exact rfl
    | with_reducible apply State.Changes.step (k := State.advance_changes _ _)
    | with_reducible apply State.Changes.step (k := State.gdOpen_changes _ _ _)

theorem execWindowClose_changes (t : Instant) (x : Fin 2) (s : State) :
    Answers (State.Changes [.beryl, .gds] s) (execWindowClose t x s) := by
  unfold execWindowClose
  try dsimp only
  repeat'
    first
    | with_reducible apply Answers.next
    | with_reducible apply State.Changes.refl
    | exact rfl
    | with_reducible apply State.Changes.step (k := State.advance_changes _ _)
    | with_reducible apply State.Changes.step (k := State.gdClose_changes _ _)

theorem execRelayStart_changes (t : Instant) (x : Fin 2) (br : Fin 16) (level : Bool) (s : State) :
    Answers (State.Changes [.beryl, .gds] s) (execRelayStart t x br level s) := by
  unfold execRelayStart
  try dsimp only
  repeat'
    first
    | with_reducible apply Answers.next
    | with_reducible apply State.Changes.refl
    | exact rfl
    | with_reducible apply State.Changes.step (k := State.advance_changes _ _)
    | with_reducible apply State.Changes.step (k := State.gdEdge_changes _ _ _ _ _)

theorem execRelayEnd_changes (t : Instant) (x : Fin 2) (s : State) :
    Answers (State.Changes [.beryl, .gds] s) (execRelayEnd t x s) := by
  unfold execRelayEnd
  try dsimp only
  repeat'
    first
    | with_reducible apply Answers.next
    | with_reducible apply State.Changes.refl
    | exact rfl
    | with_reducible apply State.Changes.step (k := State.advance_changes _ _)
    | with_reducible apply State.Changes.step (k := State.gdRelayEnd_changes _ _ _)

theorem execGdFrameReceived_changes (t : Instant) (x : Fin 2) (s : State) :
    Answers (State.Changes [.beryl, .chans, .seqs, .mem, .gds, .free] s) (execGdFrameReceived t x s) := by
  unfold execGdFrameReceived
  try dsimp only
  repeat'
    first
    | with_reducible apply Answers.next
    | with_reducible apply State.Changes.refl
    | exact rfl
    | with_reducible apply State.Changes.step (k := State.advance_changes _ _)
    | with_reducible apply State.Changes.step (k := State.gdFrame_changes _ _ _)

theorem execTxLatch_changes (t : Instant) (x : Fin 2) (slot : Fin 2048) (s : State) :
    Answers (State.Changes [.beryl, .chans, .seqs, .mem, .gds, .free] s) (execTxLatch t x slot s) := by
  unfold execTxLatch
  try dsimp only
  repeat'
    first
    | with_reducible apply Answers.next
    | with_reducible apply State.Changes.refl
    | exact rfl
    | with_reducible apply State.Changes.step (k := State.advance_changes _ _)
    | with_reducible apply State.Changes.step (k := State.gdLatch_changes _ _ _)

theorem execGdTxFrame_changes (t : Instant) (x : Fin 2) (slot : Fin 2048) (s : State) :
    Answers (State.Changes [.beryl, .gds] s) (execGdTxFrame t x slot s) := by
  unfold execGdTxFrame
  try dsimp only
  repeat'
    first
    | with_reducible apply Answers.next
    | with_reducible apply State.Changes.refl
    | exact rfl
    | with_reducible apply State.Changes.step (k := State.advance_changes _ _)
    | with_reducible apply State.Changes.step (k := State.gdSend_changes _ _ _)

theorem execTxCommit_changes (x : Fin 2) (v : W32) (s : State) :
    Answers (State.Changes [.chans, .seqs, .gds] s) (execTxCommit x v s) := by
  unfold execTxCommit
  try dsimp only
  repeat'
    first
    | with_reducible apply Answers.next
    | with_reducible apply State.Changes.refl
    | exact rfl
    | with_reducible apply State.Changes.step (k := State.gdCommit_changes _ _ _)
    | split

theorem execReadmit_changes (v : W32) (s : State) :
    Answers (State.Changes [.gds] s) (execReadmit v s) := by
  unfold execReadmit
  try dsimp only
  repeat'
    first
    | with_reducible apply Answers.next
    | with_reducible apply State.Changes.refl
    | exact rfl
    | with_reducible apply State.Changes.step (k := State.gdReadmit_changes _ _)
    | split

theorem execAbEnable_changes (k : Fin 16) (v : W32) (s : State) :
    Answers (State.Changes [.gds, .abs_] s) (execAbEnable k v s) := by
  unfold execAbEnable
  try dsimp only
  repeat'
    first
    | with_reducible apply Answers.next
    | with_reducible apply State.Changes.refl
    | exact rfl
    | with_reducible apply State.Changes.step (k := State.abCfg_changes _ _ _)
    | split

theorem execAbDisable_changes (k : Fin 16) (v : W32) (s : State) :
    Answers (State.Changes [.gds, .abs_] s) (execAbDisable k v s) := by
  unfold execAbDisable
  try dsimp only
  repeat'
    first
    | with_reducible apply Answers.next
    | with_reducible apply State.Changes.refl
    | exact rfl
    | with_reducible apply State.Changes.step (k := State.abCfg_changes _ _ _)
    | split

theorem execAbAbort_changes (k : Fin 16) (v : W32) (s : State) :
    Answers (State.Changes [.gds, .abs_] s) (execAbAbort k v s) := by
  unfold execAbAbort
  try dsimp only
  repeat'
    first
    | with_reducible apply Answers.next
    | with_reducible apply State.Changes.refl
    | exact rfl
    | with_reducible apply State.Changes.step (k := State.abCfg_changes _ _ _)
    | split

theorem execAbClrflt_changes (k : Fin 16) (s : State) :
    Answers (State.Changes [.abs_] s) (execAbClrflt k s) := by
  unfold execAbClrflt
  try dsimp only
  repeat'
    first
    | with_reducible apply Answers.next
    | with_reducible apply State.Changes.refl
    | exact rfl
    | with_reducible apply State.Changes.step (k := State.abClrFlt_changes _ _)
    | split

theorem execRecover_changes (k : Fin 16) (s : State) :
    Answers (State.Changes [.abs_] s) (execRecover k s) := by
  unfold execRecover
  try dsimp only
  repeat'
    first
    | with_reducible apply Answers.next
    | with_reducible apply State.Changes.refl
    | exact rfl
    | with_reducible apply State.Changes.step (k := State.abRecover_changes _ _)
    | split

theorem execAbFlush_changes (k : Fin 16) (s : State) :
    Answers (State.Changes [.abs_] s) (execAbFlush k s) := by
  unfold execAbFlush
  try dsimp only
  repeat'
    first
    | with_reducible apply Answers.next
    | with_reducible apply State.Changes.refl
    | exact rfl
    | with_reducible apply State.Changes.step (k := State.abFlush_changes _ _)
    | split

theorem execTxRequest_changes (k : Fin 16) (v : W32) (s : State) :
    Answers (State.Changes [.chans, .seqs, .mem, .abs_, .free] s) (execTxRequest k v s) := by
  unfold execTxRequest
  try dsimp only
  repeat'
    first
    | with_reducible apply Answers.next
    | with_reducible apply State.Changes.refl
    | exact rfl
    | with_reducible apply State.Changes.step (k := State.abTxReq_changes _ _ _)
    | split

theorem execTxCancel_changes (k : Fin 16) (v : W32) (s : State) :
    Answers (State.Changes [.abs_] s) (execTxCancel k v s) := by
  unfold execTxCancel
  try dsimp only
  repeat'
    first
    | with_reducible apply Answers.next
    | with_reducible apply State.Changes.refl
    | exact rfl
    | with_reducible apply State.Changes.step (k := State.abTxCan_changes _ _ _)
    | split

theorem execTxDue_changes (t : Instant) (k : Fin 16) (b : Fin 8) (s : State) :
    Answers (State.Changes [.beryl, .abs_] s) (execTxDue t k b s) := by
  unfold execTxDue
  try dsimp only
  repeat'
    first
    | with_reducible apply Answers.next
    | with_reducible apply State.Changes.refl
    | exact rfl
    | with_reducible apply State.Changes.step (k := State.advance_changes _ _)
    | with_reducible apply State.Changes.step (k := State.abDue_changes _ _ _)

theorem execAbSof_changes (t : Instant) (k : Fin 16) (e : AbSofEv) (s : State) :
    Answers (State.Changes [.beryl, .chans, .seqs, .mem, .abs_, .free] s) (execAbSof t k e s) := by
  unfold execAbSof
  try dsimp only
  repeat'
    first
    | with_reducible apply Answers.next
    | with_reducible apply State.Changes.refl
    | exact rfl
    | with_reducible apply State.Changes.step (k := State.abLost_changes _ _)
    | with_reducible apply State.Changes.step (k := State.abEdge_changes _ _ _)
    | with_reducible apply State.Changes.step (k := State.advance_changes _ _)
    | with_reducible apply State.Changes.step (k := State.abSof_changes _ _ _ _)
    | split

theorem execAbFrameSent_changes (t : Instant) (k : Fin 16) (s : State) :
    Answers (State.Changes [.beryl, .chans, .seqs, .abs_] s) (execAbFrameSent t k s) := by
  unfold execAbFrameSent
  try dsimp only
  repeat'
    first
    | with_reducible apply Answers.next
    | with_reducible apply State.Changes.refl
    | exact rfl
    | with_reducible apply State.Changes.step (k := State.advance_changes _ _)
    | with_reducible apply State.Changes.step (k := State.abSent_changes _ _)

theorem execAbFrameReceived_changes (t : Instant) (k : Fin 16) (s : State) :
    Answers (State.Changes [.beryl, .chans, .seqs, .mem, .abs_, .free] s) (execAbFrameReceived t k s) := by
  unfold execAbFrameReceived
  try dsimp only
  repeat'
    first
    | with_reducible apply Answers.next
    | with_reducible apply State.Changes.refl
    | exact rfl
    | with_reducible apply State.Changes.step (k := State.advance_changes _ _)
    | with_reducible apply State.Changes.step (k := State.abReceived_changes _ _)

theorem execAbBusError_changes (t : Instant) (k : Fin 16) (e : AbErr) (s : State) :
    Answers (State.Changes [.beryl, .abs_] s) (execAbBusError t k e s) := by
  unfold execAbBusError
  try dsimp only
  repeat'
    first
    | with_reducible apply Answers.next
    | with_reducible exact Answers.fault
    | with_reducible apply State.Changes.refl
    | exact rfl
    | with_reducible apply State.Changes.step (k := State.advance_changes _ _)
    | with_reducible apply State.Changes.step (k := State.abError_changes _ _ _)
    | split

theorem execAbProtocolException_changes (t : Instant) (k : Fin 16) (s : State) :
    Answers (State.Changes [.beryl, .abs_] s) (execAbProtocolException t k s) := by
  unfold execAbProtocolException
  try dsimp only
  repeat'
    first
    | with_reducible apply Answers.next
    | with_reducible apply State.Changes.refl
    | exact rfl
    | with_reducible apply State.Changes.step (k := State.advance_changes _ _)
    | with_reducible apply State.Changes.step (k := State.abException_changes _ _)

theorem execAbFaultEntry_changes (t : Instant) (k : Fin 16) (s : State) :
    Answers (State.Changes [.beryl, .chans, .seqs, .abs_] s) (execAbFaultEntry t k s) := by
  unfold execAbFaultEntry
  try dsimp only
  repeat'
    first
    | with_reducible apply Answers.next
    | with_reducible apply State.Changes.refl
    | exact rfl
    | with_reducible apply State.Changes.step (k := State.advance_changes _ _)
    | with_reducible apply State.Changes.step (k := State.abFault_changes _ _)

theorem execAbIntegDone_changes (t : Instant) (k : Fin 16) (s : State) :
    Answers (State.Changes [.beryl, .abs_] s) (execAbIntegDone t k s) := by
  unfold execAbIntegDone
  try dsimp only
  repeat'
    first
    | with_reducible apply Answers.next
    | with_reducible apply State.Changes.refl
    | exact rfl
    | with_reducible apply State.Changes.step (k := State.advance_changes _ _)
    | with_reducible apply State.Changes.step (k := State.abIntegDone_changes _ _)

theorem execBusoffRecoveryDone_changes (t : Instant) (k : Fin 16) (s : State) :
    Answers (State.Changes [.beryl, .abs_] s) (execBusoffRecoveryDone t k s) := by
  unfold execBusoffRecoveryDone
  try dsimp only
  repeat'
    first
    | with_reducible apply Answers.next
    | with_reducible apply State.Changes.refl
    | exact rfl
    | with_reducible apply State.Changes.step (k := State.advance_changes _ _)
    | with_reducible apply State.Changes.step (k := State.abRecovered_changes _ _)

theorem execSourceLevelChange_changes (n : Fin 512) (s : State) :
    Answers (State.Changes [.power, .eic, .dbg] s) (execSourceLevelChange n s) := by
  unfold execSourceLevelChange
  try dsimp only
  repeat'
    first
    | with_reducible apply Answers.next
    | with_reducible apply State.Changes.refl
    | exact rfl
    | with_reducible apply State.Changes.step (k := State.sourceChange_changes _ _)

theorem execEicDelivery_changes (tgt : Fin 18) (s : State) :
    Answers (State.Changes [.power, .chans, .seqs, .sn, .eic, .dbg] s) (execEicDelivery tgt s) := by
  unfold execEicDelivery
  try dsimp only
  repeat'
    first
    | with_reducible apply Answers.next
    | with_reducible apply State.Changes.refl
    | exact rfl
    | with_reducible apply State.Changes.step (k := State.deliver_changes _ _)

theorem execEicSetpend_changes (n : Fin 512) (s : State) :
    Answers (State.Changes [.power, .eic, .dbg] s) (execEicSetpend n s) := by
  unfold execEicSetpend
  try dsimp only
  repeat'
    first
    | with_reducible apply Answers.next
    | with_reducible apply State.Changes.refl
    | exact rfl
    | with_reducible apply State.Changes.step (k := State.setPend_changes _ _)
    | split

theorem execEicClrpend_changes (n : Fin 512) (s : State) :
    Answers (State.Changes [.power, .eic, .dbg] s) (execEicClrpend n s) := by
  unfold execEicClrpend
  try dsimp only
  repeat'
    first
    | with_reducible apply Answers.next
    | with_reducible apply State.Changes.refl
    | exact rfl
    | with_reducible apply State.Changes.step (k := State.clrPend_changes _ _)
    | split

theorem execEicClaim_changes (tgt : Fin 18) (s : State) :
    Answers (State.Changes [.eic] s) (execEicClaim tgt s) := by
  unfold execEicClaim
  try dsimp only
  repeat'
    first
    | with_reducible apply Answers.next
    | with_reducible apply State.Changes.refl
    | exact rfl
    | with_reducible apply State.Changes.step (k := State.claim_changes _ _)
    | split

theorem execEicComplete_changes (tgt : Fin 18) (s : State) :
    Answers (State.Changes [.power, .eic, .dbg] s) (execEicComplete tgt s) := by
  unfold execEicComplete
  try dsimp only
  repeat'
    first
    | with_reducible apply Answers.next
    | with_reducible apply State.Changes.refl
    | exact rfl
    | with_reducible apply State.Changes.step (k := State.complete_changes _ _ _)
    | split

theorem execSourceConfigWrite_changes (n : Fin 512) (v : W32) (s : State) :
    Answers (State.Changes [.power, .eic, .dbg] s) (execSourceConfigWrite n v s) := by
  unfold execSourceConfigWrite
  try dsimp only
  repeat'
    first
    | with_reducible apply Answers.next
    | with_reducible apply State.Changes.refl
    | exact rfl
    | with_reducible apply State.Changes.step (k := State.srcWrite_changes _ _ _)
    | split

theorem execTargetConfigWrite_changes (tgt : Fin 18) (v : W32) (s : State) :
    Answers (State.Changes [.power, .eic, .dbg] s) (execTargetConfigWrite tgt v s) := by
  unfold execTargetConfigWrite
  try dsimp only
  repeat'
    first
    | with_reducible apply Answers.next
    | with_reducible apply State.Changes.refl
    | exact rfl
    | with_reducible apply State.Changes.step (k := State.targetCfg_changes _ _ _ _)
    | split

theorem execModConfigWrite_changes (g : Fin 32) (v : W32) (s : State) :
    Answers (State.Changes [.power, .eic, .dbg] s) (execModConfigWrite g v s) := by
  unfold execModConfigWrite
  try dsimp only
  repeat'
    first
    | with_reducible apply Answers.next
    | with_reducible apply State.Changes.refl
    | exact rfl
    | with_reducible apply State.Changes.step (k := State.modCfg_changes _ _ _)
    | split

theorem execModWindowEnd_changes (t : Instant) (g : Fin 32) (s : State) :
    Answers (State.Changes [.beryl, .power, .eic, .dbg] s) (execModWindowEnd t g s) := by
  unfold execModWindowEnd
  try dsimp only
  repeat'
    first
    | with_reducible apply Answers.next
    | with_reducible apply State.Changes.refl
    | exact rfl
    | with_reducible apply State.Changes.step (k := State.advance_changes _ _)
    | with_reducible apply State.Changes.step (k := State.modWindowEnd_changes _ _)

theorem execTimerEnable_changes (n : Fin 64) (v : W32) (s : State) :
    Answers (State.Changes [.ta] s) (execTimerEnable n v s) := by
  unfold execTimerEnable
  try dsimp only
  repeat'
    first
    | with_reducible apply Answers.next
    | with_reducible apply State.Changes.refl
    | exact rfl
    | with_reducible apply State.Changes.step (k := State.taCfg_changes _ _ _)
    | split

theorem execTimerDisable_changes (n : Fin 64) (v : W32) (s : State) :
    Answers (State.Changes [.ta] s) (execTimerDisable n v s) := by
  unfold execTimerDisable
  try dsimp only
  repeat'
    first
    | with_reducible apply Answers.next
    | with_reducible apply State.Changes.refl
    | exact rfl
    | with_reducible apply State.Changes.step (k := State.taCfg_changes _ _ _)
    | split

theorem execTimerTick_changes (t : Instant) (n : Fin 64) (s : State) :
    Answers (State.Changes [.beryl, .sn, .ta] s) (execTimerTick t n s) := by
  unfold execTimerTick
  try dsimp only
  repeat'
    first
    | with_reducible apply Answers.next
    | with_reducible apply State.Changes.refl
    | exact rfl
    | with_reducible apply State.Changes.step (k := State.advance_changes _ _)
    | with_reducible apply State.Changes.step (k := State.taTick_changes _ _)

theorem execTimerCarry_changes (n : Fin 64) (s : State) :
    Answers (State.Changes [.sn, .ta] s) (execTimerCarry n s) := by
  unfold execTimerCarry
  try dsimp only
  repeat'
    first
    | with_reducible apply Answers.next
    | with_reducible apply State.Changes.refl
    | exact rfl
    | with_reducible apply State.Changes.step (k := State.taCarry_changes _ _)

theorem execTimerMatch_changes (n : Fin 64) (s : State) :
    Answers (State.Changes [.sn, .ta] s) (execTimerMatch n s) := by
  unfold execTimerMatch
  try dsimp only
  repeat'
    first
    | with_reducible apply Answers.next
    | with_reducible apply State.Changes.refl
    | exact rfl
    | with_reducible apply State.Changes.step (k := State.taMatch_changes _ _)

theorem execTimerStart_changes (n : Fin 64) (s : State) :
    Answers (State.Changes [.sn, .ta] s) (execTimerStart n s) := by
  unfold execTimerStart
  try dsimp only
  repeat'
    first
    | with_reducible apply Answers.next
    | with_reducible apply State.Changes.refl
    | exact rfl
    | with_reducible apply State.Changes.step (k := State.taCtrl_changes _ _ _)
    | split

theorem execTimerStop_changes (n : Fin 64) (s : State) :
    Answers (State.Changes [.sn, .ta] s) (execTimerStop n s) := by
  unfold execTimerStop
  try dsimp only
  repeat'
    first
    | with_reducible apply Answers.next
    | with_reducible apply State.Changes.refl
    | exact rfl
    | with_reducible apply State.Changes.step (k := State.taCtrl_changes _ _ _)
    | split

theorem execTimerReloadNow_changes (n : Fin 64) (s : State) :
    Answers (State.Changes [.sn, .ta] s) (execTimerReloadNow n s) := by
  unfold execTimerReloadNow
  try dsimp only
  repeat'
    first
    | with_reducible apply Answers.next
    | with_reducible apply State.Changes.refl
    | exact rfl
    | with_reducible apply State.Changes.step (k := State.taCtrl_changes _ _ _)
    | split

theorem execTimerLimWrite_changes (n : Fin 64) (v : W32) (s : State) :
    Answers (State.Changes [.sn, .ta] s) (execTimerLimWrite n v s) := by
  unfold execTimerLimWrite
  try dsimp only
  repeat'
    first
    | with_reducible apply Answers.next
    | with_reducible apply State.Changes.refl
    | exact rfl
    | with_reducible apply State.Changes.step (k := State.taLim_changes _ _ _)
    | split

theorem execTimerCntRead_changes (who : Master) (n : Fin 64) (s : State) :
    Answers (State.Changes [.ta] s) (execTimerCntRead who n s) := by
  unfold execTimerCntRead
  try dsimp only
  repeat'
    first
    | with_reducible apply Answers.next
    | with_reducible apply State.Changes.refl
    | exact rfl
    | with_reducible apply State.Changes.step (k := State.taCntRead_changes _ _ _)
    | split

theorem execTimerSnapshot_changes (s : State) :
    Answers (State.Changes [.ta] s) (execTimerSnapshot s) := by
  unfold execTimerSnapshot
  try dsimp only
  repeat'
    first
    | with_reducible apply Answers.next
    | with_reducible apply State.Changes.refl
    | exact rfl
    | with_reducible apply State.Changes.step (k := State.taSnap_changes _)
    | split

theorem execStaggerGo_changes (mask : Byte) (s : State) :
    Answers (State.Changes [.ta] s) (execStaggerGo mask s) := by
  unfold execStaggerGo
  try dsimp only
  repeat'
    first
    | with_reducible apply Answers.next
    | with_reducible apply State.Changes.refl
    | exact rfl
    | with_reducible apply State.Changes.step (k := State.stagGo_changes _ _)
    | split

theorem execStaggerCancel_changes (s : State) :
    Answers (State.Changes [.ta] s) (execStaggerCancel s) := by
  unfold execStaggerCancel
  try dsimp only
  repeat'
    first
    | with_reducible apply Answers.next
    | with_reducible apply State.Changes.refl
    | exact rfl
    | with_reducible apply State.Changes.step (k := State.stagCancel_changes _)
    | split

theorem execStaggerStart_changes (t : Instant) (s : State) :
    Answers (State.Changes [.beryl, .ta] s) (execStaggerStart t s) := by
  unfold execStaggerStart
  try dsimp only
  repeat'
    first
    | with_reducible apply Answers.next
    | with_reducible apply State.Changes.refl
    | exact rfl
    | with_reducible apply State.Changes.step (k := State.advance_changes _ _)
    | with_reducible apply State.Changes.step (k := State.stagStart_changes _)

theorem execCompareEnable_changes (k : Fin 32) (v : W32) (s : State) :
    Answers (State.Changes [.ta] s) (execCompareEnable k v s) := by
  unfold execCompareEnable
  try dsimp only
  repeat'
    first
    | with_reducible apply Answers.next
    | with_reducible apply State.Changes.refl
    | exact rfl
    | with_reducible apply State.Changes.step (k := State.acCfg_changes _ _ _)
    | split

theorem execCompareArm_changes (k : Fin 32) (s : State) :
    Answers (State.Changes [.ta] s) (execCompareArm k s) := by
  unfold execCompareArm
  try dsimp only
  repeat'
    first
    | with_reducible apply Answers.next
    | with_reducible apply State.Changes.refl
    | exact rfl
    | with_reducible apply State.Changes.step (k := State.acCtrl_changes _ _ _)
    | split

theorem execCompareDisarm_changes (k : Fin 32) (s : State) :
    Answers (State.Changes [.ta] s) (execCompareDisarm k s) := by
  unfold execCompareDisarm
  try dsimp only
  repeat'
    first
    | with_reducible apply Answers.next
    | with_reducible apply State.Changes.refl
    | exact rfl
    | with_reducible apply State.Changes.step (k := State.acCtrl_changes _ _ _)
    | split

theorem execCompareFire_changes (t : Instant) (k : Fin 32) (s : State) :
    Answers (State.Changes [.beryl, .sn, .ta] s) (execCompareFire t k s) := by
  unfold execCompareFire
  try dsimp only
  repeat'
    first
    | with_reducible apply Answers.next
    | with_reducible apply State.Changes.refl
    | exact rfl
    | with_reducible apply State.Changes.step (k := State.advance_changes _ _)
    | with_reducible apply State.Changes.step (k := State.acFire_changes _ _)

theorem execCapturePairUpdate_changes (t : Instant) (k : Fin 16) (s : State) :
    Answers (State.Changes [.beryl, .sn, .ta] s) (execCapturePairUpdate t k s) := by
  unfold execCapturePairUpdate
  try dsimp only
  repeat'
    first
    | with_reducible apply Answers.next
    | with_reducible apply State.Changes.refl
    | exact rfl
    | with_reducible apply State.Changes.step (k := State.advance_changes _ _)
    | with_reducible apply State.Changes.step (k := State.cpUpdate_changes _ _)

theorem execWatchdogEnable_changes (w : Fin 2) (v : W32) (s : State) :
    Answers (State.Changes [.ta] s) (execWatchdogEnable w v s) := by
  unfold execWatchdogEnable
  try dsimp only
  repeat'
    first
    | with_reducible apply Answers.next
    | with_reducible apply State.Changes.refl
    | exact rfl
    | with_reducible apply State.Changes.step (k := State.wdCfg_changes _ _ _)
    | split

theorem execWatchdogKick_changes (w : Fin 2) (v : W32) (s : State) :
    Answers (State.Changes [.lanes, .power, .chans, .seqs, .ibufs, .engines, .groups, .streams, .crcs, .bss, .lcs, .gds, .abs_, .ta, .eic, .cs, .dbg] s) (execWatchdogKick w v s) := by
  unfold execWatchdogKick
  try dsimp only
  repeat'
    first
    | with_reducible apply Answers.next
    | with_reducible apply State.Changes.refl
    | exact rfl
    | with_reducible apply State.Changes.step (k := State.wdKick_changes _ _ _)
    | split

theorem execWatchdogDecrement_changes (t : Instant) (w : Fin 2) (s : State) :
    Answers (State.Changes [.beryl, .ta] s) (execWatchdogDecrement t w s) := by
  unfold execWatchdogDecrement
  try dsimp only
  repeat'
    first
    | with_reducible apply Answers.next
    | with_reducible apply State.Changes.refl
    | exact rfl
    | with_reducible apply State.Changes.step (k := State.advance_changes _ _)
    | with_reducible apply State.Changes.step (k := State.wdDecrement_changes _ _)

theorem execWatchdogExpiry_changes (w : Fin 2) (s : State) :
    Answers (State.Changes [.lanes, .power, .chans, .seqs, .ibufs, .engines, .groups, .streams, .crcs, .bss, .lcs, .gds, .abs_, .ta, .eic, .cs, .dbg] s) (execWatchdogExpiry w s) := by
  unfold execWatchdogExpiry
  try dsimp only
  repeat'
    first
    | with_reducible apply Answers.next
    | with_reducible apply State.Changes.refl
    | exact rfl
    | with_reducible apply State.Changes.step (k := State.wdExpiry_changes _ _)

theorem execSnFireWrite_changes (r : Req) (v : W32) (s : State) :
    Answers (State.Changes [.beryl, .lanes, .hp, .xf, .key, .power, .bat, .chans, .posts, .seqs, .ibufs, .pool, .mem, .engines, .groups, .streams, .crcs, .bss, .lcs, .gds, .abs_, .sn, .ta, .eic, .cs, .sec, .vault, .dbg, .cw, .free] s) (execSnFireWrite r v s) := by
  unfold execSnFireWrite
  try dsimp only
  repeat'
    first
    | with_reducible apply Answers.next
    | with_reducible apply State.Changes.refl
    | exact rfl
    | with_reducible apply State.Changes.step (k := State.busWrite_changes _ _ _ _ _)

theorem execEventEntry_changes (t : Instant) (ch : Fin 256) (s : State) :
    Answers (State.Changes [.beryl, .sn] s) (execEventEntry t ch s) := by
  unfold execEventEntry
  try dsimp only
  repeat'
    first
    | with_reducible apply Answers.next
    | with_reducible apply State.Changes.refl
    | exact rfl
    | with_reducible apply State.Changes.step (k := State.advance_changes _ _)
    | with_reducible apply State.Changes.step (k := State.eventEntry_changes _ _)

theorem execEventArrival_changes (t : Instant) (ch : Fin 256) (s : State) :
    Answers (State.Changes [.beryl, .chans, .seqs, .sn] s) (execEventArrival t ch s) := by
  unfold execEventArrival
  try dsimp only
  repeat'
    first
    | with_reducible apply Answers.next
    | with_reducible apply State.Changes.refl
    | exact rfl
    | with_reducible apply State.Changes.step (k := State.advance_changes _ _)
    | with_reducible apply State.Changes.step (k := State.eventArrival_changes _ _)

theorem execLutEvaluate_changes (t : Instant) (c : Fin 32) (s : State) :
    Answers (State.Changes [.beryl, .sn] s) (execLutEvaluate t c s) := by
  unfold execLutEvaluate
  try dsimp only
  repeat'
    first
    | with_reducible apply Answers.next
    | with_reducible apply State.Changes.refl
    | exact rfl
    | with_reducible apply State.Changes.step (k := State.advance_changes _ _)
    | with_reducible apply State.Changes.step (k := State.lutEvaluate_changes _ _)

theorem execGroupEnableEvent_changes (t : Instant) (g : Fin 16) (s : State) :
    Answers (State.Changes [.beryl, .sn] s) (execGroupEnableEvent t g s) := by
  unfold execGroupEnableEvent
  try dsimp only
  repeat'
    first
    | with_reducible apply Answers.next
    | with_reducible apply State.Changes.refl
    | exact rfl
    | with_reducible apply State.Changes.step (k := State.advance_changes _ _)
    | with_reducible apply State.Changes.step (k := State.groupEnable_changes _ _)

theorem execGroupDisableEvent_changes (t : Instant) (g : Fin 16) (s : State) :
    Answers (State.Changes [.beryl, .sn] s) (execGroupDisableEvent t g s) := by
  unfold execGroupDisableEvent
  try dsimp only
  repeat'
    first
    | with_reducible apply Answers.next
    | with_reducible apply State.Changes.refl
    | exact rfl
    | with_reducible apply State.Changes.step (k := State.advance_changes _ _)
    | with_reducible apply State.Changes.step (k := State.groupDisable_changes _ _)

theorem execExportEvent_changes (t : Instant) (k : Fin 16) (s : State) :
    Answers (State.Changes [.beryl, .sn] s) (execExportEvent t k s) := by
  unfold execExportEvent
  try dsimp only
  repeat'
    first
    | with_reducible apply Answers.next
    | with_reducible apply State.Changes.refl
    | exact rfl
    | with_reducible apply State.Changes.step (k := State.advance_changes _ _)
    | with_reducible apply State.Changes.step (k := State.exportEvent_changes _ _)

theorem execGroupSwitch_changes (v : W32) (s : State) :
    Answers (State.Changes [.sn] s) (execGroupSwitch v s) := by
  unfold execGroupSwitch
  try dsimp only
  repeat'
    first
    | with_reducible apply Answers.next
    | with_reducible apply State.Changes.refl
    | exact rfl
    | with_reducible apply State.Changes.step (k := State.groupSwitch_changes _ _)
    | split

theorem execLutClear_changes (c : Fin 32) (s : State) :
    Answers (State.Changes [.sn] s) (execLutClear c s) := by
  unfold execLutClear
  try dsimp only
  repeat'
    first
    | with_reducible apply Answers.next
    | with_reducible apply State.Changes.refl
    | exact rfl
    | with_reducible apply State.Changes.step (k := State.lutClear_changes _ _)
    | split

theorem execLutCfgWrite_changes (c : Fin 32) (v : W32) (s : State) :
    Answers (State.Changes [.sn] s) (execLutCfgWrite c v s) := by
  unfold execLutCfgWrite
  try dsimp only
  repeat'
    first
    | with_reducible apply Answers.next
    | with_reducible apply State.Changes.refl
    | exact rfl
    | with_reducible apply State.Changes.step (k := State.lutCfg_changes _ _ _)
    | split

theorem execSubscriptionWrite_changes (r : Req) (k : Fin 648) (v : W32) (s : State) :
    Answers (State.Changes [.beryl, .lanes, .hp, .xf, .key, .power, .bat, .chans, .posts, .seqs, .ibufs, .pool, .mem, .engines, .groups, .streams, .crcs, .bss, .lcs, .gds, .abs_, .sn, .ta, .eic, .cs, .sec, .vault, .dbg, .cw, .free] s) (execSubscriptionWrite r k v s) := by
  unfold execSubscriptionWrite
  try dsimp only
  repeat'
    first
    | with_reducible apply Answers.next
    | with_reducible apply State.Changes.refl
    | exact rfl
    | with_reducible apply State.Changes.step (k := State.busWrite_changes _ _ _ _ _)

theorem execSnChCfgWrite_changes (r : Req) (ch : Fin 256) (v : W32) (s : State) :
    Answers (State.Changes [.beryl, .lanes, .hp, .xf, .key, .power, .bat, .chans, .posts, .seqs, .ibufs, .pool, .mem, .engines, .groups, .streams, .crcs, .bss, .lcs, .gds, .abs_, .sn, .ta, .eic, .cs, .sec, .vault, .dbg, .cw, .free] s) (execSnChCfgWrite r ch v s) := by
  unfold execSnChCfgWrite
  try dsimp only
  repeat'
    first
    | with_reducible apply Answers.next
    | with_reducible apply State.Changes.refl
    | exact rfl
    | with_reducible apply State.Changes.step (k := State.busWrite_changes _ _ _ _ _)

theorem execDebugRead_changes (addr : BitVec 24) (prompt : Bool) (s : State) :
    Answers (State.Changes [.beryl, .power, .chans, .seqs, .pool, .mem, .engines, .streams, .ta, .eic, .cs, .dbg, .cw, .free] s) (execDebugRead addr prompt s) := by
  unfold execDebugRead
  try dsimp only
  repeat'
    first
    | with_reducible apply Answers.next
    | with_reducible apply State.Changes.refl
    | exact rfl
    | with_reducible apply State.Changes.step (k := State.wireReadFrame_changes _ _ _ _ _)

theorem execDebugConsume_changes (addr : BitVec 24) (prompt : Bool) (hw : W32) (s : State) :
    Answers (State.Changes [.beryl, .power, .chans, .seqs, .pool, .mem, .engines, .streams, .ta, .eic, .cs, .dbg, .cw, .free] s) (execDebugConsume addr prompt hw s) := by
  unfold execDebugConsume
  try dsimp only
  repeat'
    first
    | with_reducible apply Answers.next
    | with_reducible apply State.Changes.refl
    | exact rfl
    | with_reducible apply State.Changes.step (k := State.wireReadFrame_changes _ _ _ _ _)

theorem execDebugWrite_changes (addr : BitVec 24) (v : W32) (dcrc : Byte) (prompt : Bool) (hw : W32) (coll : List PortA) (s : State) :
    Answers (State.Changes [.beryl, .lanes, .hp, .xf, .key, .power, .bat, .chans, .posts, .seqs, .ibufs, .pool, .mem, .engines, .groups, .streams, .crcs, .bss, .lcs, .gds, .abs_, .sn, .ta, .eic, .cs, .sec, .vault, .dbg, .cw, .free] s) (execDebugWrite addr v dcrc prompt hw coll s) := by
  unfold execDebugWrite
  try dsimp only
  repeat'
    first
    | with_reducible apply Answers.next
    | with_reducible apply State.Changes.refl
    | exact rfl
    | with_reducible apply State.Changes.step (k := State.wireWriteFrame_changes _ _ _ _ _ _ _)

theorem execDebugAccessDone_changes (hw : W32) (coll : List PortA) (s : State) :
    Answers (State.Changes [.beryl, .lanes, .hp, .xf, .key, .power, .bat, .chans, .posts, .seqs, .ibufs, .pool, .mem, .engines, .groups, .streams, .crcs, .bss, .lcs, .gds, .abs_, .sn, .ta, .eic, .cs, .sec, .vault, .dbg, .cw, .free] s) (execDebugAccessDone hw coll s) := by
  unfold execDebugAccessDone
  try dsimp only
  repeat'
    first
    | with_reducible apply Answers.next
    | with_reducible apply State.Changes.refl
    | exact rfl
    | with_reducible apply State.Changes.step (k := State.wireDone_changes _ _ _)

theorem execHeaderError_changes (sync : BitVec 2) (cmd : BitVec 3) (addr : BitVec 24) (hcrc : BitVec 4) (s : State) :
    Answers (State.Changes [.dbg] s) (execHeaderError sync cmd addr hcrc s) := by
  unfold execHeaderError
  try dsimp only
  repeat'
    first
    | with_reducible apply Answers.next
    | with_reducible apply State.Changes.refl
    | exact rfl
    | with_reducible apply State.Changes.step (k := State.headerError_changes _ _ _ _ _)

theorem execLineReset_changes (s : State) :
    Answers (State.Changes [.dbg] s) (execLineReset s) := by
  unfold execLineReset
  try dsimp only
  repeat'
    first
    | with_reducible apply Answers.next
    | with_reducible apply State.Changes.refl
    | exact rfl
    | with_reducible apply State.Changes.step (k := State.lineReset_changes _)

theorem execAuthRequest_changes (v : W32) (s : State) :
    Answers (State.Changes [.beryl, .lanes, .hp, .xf, .key, .power, .bat, .chans, .posts, .seqs, .ibufs, .pool, .mem, .engines, .groups, .streams, .crcs, .bss, .lcs, .gds, .abs_, .sn, .ta, .eic, .cs, .sec, .vault, .dbg, .cw, .free] s) (execAuthRequest v s) := by
  unfold execAuthRequest
  try dsimp only
  repeat'
    first
    | with_reducible apply Answers.next
    | with_reducible apply State.Changes.refl
    | exact rfl
    | with_reducible apply State.Changes.step (k := State.portCmd_changes _ _ _)

theorem execAllowWrite_changes (r : Req) (v : W32) (s : State) :
    Answers (State.Changes [.beryl, .lanes, .hp, .xf, .key, .power, .bat, .chans, .posts, .seqs, .ibufs, .pool, .mem, .engines, .groups, .streams, .crcs, .bss, .lcs, .gds, .abs_, .sn, .ta, .eic, .cs, .sec, .vault, .dbg, .cw, .free] s) (execAllowWrite r v s) := by
  unfold execAllowWrite
  try dsimp only
  repeat'
    first
    | with_reducible apply Answers.next
    | with_reducible apply State.Changes.refl
    | exact rfl
    | with_reducible apply State.Changes.step (k := State.busWrite_changes _ _ _ _ _)

theorem execHaltRequest_changes (v : W32) (s : State) :
    Answers (State.Changes [.beryl, .lanes, .hp, .xf, .key, .power, .bat, .chans, .posts, .seqs, .ibufs, .pool, .mem, .engines, .groups, .streams, .crcs, .bss, .lcs, .gds, .abs_, .sn, .ta, .eic, .cs, .sec, .vault, .dbg, .cw, .free] s) (execHaltRequest v s) := by
  unfold execHaltRequest
  try dsimp only
  repeat'
    first
    | with_reducible apply Answers.next
    | with_reducible apply State.Changes.refl
    | exact rfl
    | with_reducible apply State.Changes.step (k := State.portCmd_changes _ _ _)

theorem execSequencerHalt_changes (n : Fin 16) (s : State) :
    Answers (State.Changes [.seqs, .ta, .dbg] s) (execSequencerHalt n s) := by
  unfold execSequencerHalt
  try dsimp only
  repeat'
    first
    | with_reducible apply Answers.next
    | with_reducible apply State.Changes.refl
    | exact rfl
    | with_reducible apply State.Changes.step (k := State.takeHalt_changes _ _)

theorem execGroupHalt_changes (n : Fin 16) (s : State) :
    Answers (State.Changes [.seqs, .ta, .dbg] s) (execGroupHalt n s) := by
  unfold execGroupHalt
  try dsimp only
  repeat'
    first
    | with_reducible apply Answers.next
    | with_reducible apply State.Changes.refl
    | exact rfl
    | with_reducible apply State.Changes.step (k := State.takeGroupHalt_changes _ _)

theorem execRelease_changes (v : W32) (s : State) :
    Answers (State.Changes [.beryl, .lanes, .hp, .xf, .key, .power, .bat, .chans, .posts, .seqs, .ibufs, .pool, .mem, .engines, .groups, .streams, .crcs, .bss, .lcs, .gds, .abs_, .sn, .ta, .eic, .cs, .sec, .vault, .dbg, .cw, .free] s) (execRelease v s) := by
  unfold execRelease
  try dsimp only
  repeat'
    first
    | with_reducible apply Answers.next
    | with_reducible apply State.Changes.refl
    | exact rfl
    | with_reducible apply State.Changes.step (k := State.portCmd_changes _ _ _)

theorem execSingleStep_changes (v : W32) (s : State) :
    Answers (State.Changes [.beryl, .lanes, .hp, .xf, .key, .power, .bat, .chans, .posts, .seqs, .ibufs, .pool, .mem, .engines, .groups, .streams, .crcs, .bss, .lcs, .gds, .abs_, .sn, .ta, .eic, .cs, .sec, .vault, .dbg, .cw, .free] s) (execSingleStep v s) := by
  unfold execSingleStep
  try dsimp only
  repeat'
    first
    | with_reducible apply Answers.next
    | with_reducible apply State.Changes.refl
    | exact rfl
    | with_reducible apply State.Changes.step (k := State.portCmd_changes _ _ _)

theorem execGdataWrite_changes (n : Fin 16) (v : W32) (s : State) :
    Answers (State.Changes [.beryl, .lanes, .hp, .xf, .key, .power, .bat, .chans, .posts, .seqs, .ibufs, .pool, .mem, .engines, .groups, .streams, .crcs, .bss, .lcs, .gds, .abs_, .sn, .ta, .eic, .cs, .sec, .vault, .dbg, .cw, .free] s) (execGdataWrite n v s) := by
  unfold execGdataWrite
  try dsimp only
  repeat'
    first
    | with_reducible apply Answers.next
    | with_reducible apply State.Changes.refl
    | exact rfl
    | with_reducible apply State.Changes.step (k := State.portCmd_changes _ _ _)

theorem execInstructionFeed_changes (n : Fin 16) (w : W32) (s : State) :
    Answers (State.Changes [.beryl, .lanes, .hp, .xf, .key, .power, .bat, .chans, .posts, .seqs, .ibufs, .pool, .mem, .engines, .groups, .streams, .crcs, .bss, .lcs, .gds, .abs_, .sn, .ta, .eic, .cs, .sec, .vault, .dbg, .cw, .free] s) (execInstructionFeed n w s) := by
  unfold execInstructionFeed
  try dsimp only
  repeat'
    first
    | with_reducible apply Answers.next
    | with_reducible apply State.Changes.refl
    | exact rfl
    | with_reducible apply State.Changes.step (k := State.portCmd_changes _ _ _)

theorem execDebugMemoryAccess_changes (n : Fin 16) (v : W32) (s : State) :
    Answers (State.Changes [.beryl, .lanes, .hp, .xf, .key, .power, .bat, .chans, .posts, .seqs, .ibufs, .pool, .mem, .engines, .groups, .streams, .crcs, .bss, .lcs, .gds, .abs_, .sn, .ta, .eic, .cs, .sec, .vault, .dbg, .cw, .free] s) (execDebugMemoryAccess n v s) := by
  unfold execDebugMemoryAccess
  try dsimp only
  repeat'
    first
    | with_reducible apply Answers.next
    | with_reducible apply State.Changes.refl
    | exact rfl
    | with_reducible apply State.Changes.step (k := State.portCmd_changes _ _ _)

theorem execStimulusWrite_changes (r : Req) (k : Fin 32) (v : W32) (s : State) :
    Answers (State.Changes [.beryl, .lanes, .hp, .xf, .key, .power, .bat, .chans, .posts, .seqs, .ibufs, .pool, .mem, .engines, .groups, .streams, .crcs, .bss, .lcs, .gds, .abs_, .sn, .ta, .eic, .cs, .sec, .vault, .dbg, .cw, .free] s) (execStimulusWrite r k v s) := by
  unfold execStimulusWrite
  try dsimp only
  repeat'
    first
    | with_reducible apply Answers.next
    | with_reducible apply State.Changes.refl
    | exact rfl
    | with_reducible apply State.Changes.step (k := State.busWrite_changes _ _ _ _ _)

theorem execTraceRead_changes (s : State) :
    Answers (State.Changes [.beryl, .power, .chans, .seqs, .pool, .mem, .engines, .streams, .ta, .eic, .cs, .dbg, .cw, .free] s) (execTraceRead s) := by
  unfold execTraceRead
  try dsimp only
  repeat'
    first
    | with_reducible apply Answers.next
    | with_reducible apply State.Changes.refl
    | exact rfl
    | with_reducible apply State.Changes.step (k := State.traceRead_changes _)

theorem execCwCmdHi_changes (v : BitVec 16) (s : State) :
    Answers (State.Changes [.cw] s) (execCwCmdHi v s) := by
  unfold execCwCmdHi
  try dsimp only
  repeat'
    first
    | with_reducible apply Answers.next
    | with_reducible apply State.Changes.refl
    | exact rfl
    | with_reducible apply State.Changes.step (k := State.cwHigh_changes _ _)
    | split

theorem execCwNop_changes (param : Byte) (sec : Bool) (s : State) :
    Answers (State.Changes [.power, .chans, .seqs, .pool, .mem, .sn, .eic, .dbg, .cw, .free] s) (execCwNop param sec s) := by
  unfold execCwNop
  try dsimp only
  repeat'
    first
    | with_reducible apply Answers.next
    | with_reducible apply State.Changes.refl
    | exact rfl
    | with_reducible apply State.Changes.step (k := State.cwLow_changes _ _ _ _)
    | split

theorem execCwStart_changes (param : Byte) (sec : Bool) (s : State) :
    Answers (State.Changes [.power, .chans, .seqs, .pool, .mem, .sn, .eic, .dbg, .cw, .free] s) (execCwStart param sec s) := by
  unfold execCwStart
  try dsimp only
  repeat'
    first
    | with_reducible apply Answers.next
    | with_reducible apply State.Changes.refl
    | exact rfl
    | with_reducible apply State.Changes.step (k := State.cwLow_changes _ _ _ _)
    | split

theorem execCwStop_changes (param : Byte) (sec : Bool) (s : State) :
    Answers (State.Changes [.power, .chans, .seqs, .pool, .mem, .sn, .eic, .dbg, .cw, .free] s) (execCwStop param sec s) := by
  unfold execCwStop
  try dsimp only
  repeat'
    first
    | with_reducible apply Answers.next
    | with_reducible apply State.Changes.refl
    | exact rfl
    | with_reducible apply State.Changes.step (k := State.cwLow_changes _ _ _ _)
    | split

theorem execCwAbort_changes (param : Byte) (sec : Bool) (s : State) :
    Answers (State.Changes [.power, .chans, .seqs, .pool, .mem, .sn, .eic, .dbg, .cw, .free] s) (execCwAbort param sec s) := by
  unfold execCwAbort
  try dsimp only
  repeat'
    first
    | with_reducible apply Answers.next
    | with_reducible apply State.Changes.refl
    | exact rfl
    | with_reducible apply State.Changes.step (k := State.cwLow_changes _ _ _ _)
    | split

theorem execCwResume_changes (param : Byte) (sec : Bool) (s : State) :
    Answers (State.Changes [.power, .chans, .seqs, .pool, .mem, .sn, .eic, .dbg, .cw, .free] s) (execCwResume param sec s) := by
  unfold execCwResume
  try dsimp only
  repeat'
    first
    | with_reducible apply Answers.next
    | with_reducible apply State.Changes.refl
    | exact rfl
    | with_reducible apply State.Changes.step (k := State.cwLow_changes _ _ _ _)
    | split

theorem execCwDiscard_changes (param : Byte) (sec : Bool) (s : State) :
    Answers (State.Changes [.power, .chans, .seqs, .pool, .mem, .sn, .eic, .dbg, .cw, .free] s) (execCwDiscard param sec s) := by
  unfold execCwDiscard
  try dsimp only
  repeat'
    first
    | with_reducible apply Answers.next
    | with_reducible apply State.Changes.refl
    | exact rfl
    | with_reducible apply State.Changes.step (k := State.cwLow_changes _ _ _ _)
    | split

theorem execCwFlush_changes (param : Byte) (sec : Bool) (s : State) :
    Answers (State.Changes [.power, .chans, .seqs, .pool, .mem, .sn, .eic, .dbg, .cw, .free] s) (execCwFlush param sec s) := by
  unfold execCwFlush
  try dsimp only
  repeat'
    first
    | with_reducible apply Answers.next
    | with_reducible apply State.Changes.refl
    | exact rfl
    | with_reducible apply State.Changes.step (k := State.cwLow_changes _ _ _ _)
    | split

theorem execCwNote_changes (param : Byte) (sec : Bool) (s : State) :
    Answers (State.Changes [.power, .chans, .seqs, .pool, .mem, .sn, .eic, .dbg, .cw, .free] s) (execCwNote param sec s) := by
  unfold execCwNote
  try dsimp only
  repeat'
    first
    | with_reducible apply Answers.next
    | with_reducible apply State.Changes.refl
    | exact rfl
    | with_reducible apply State.Changes.step (k := State.cwLow_changes _ _ _ _)
    | split

theorem execCwPost_changes (param : Byte) (sec : Bool) (s : State) :
    Answers (State.Changes [.power, .chans, .seqs, .pool, .mem, .sn, .eic, .dbg, .cw, .free] s) (execCwPost param sec s) := by
  unfold execCwPost
  try dsimp only
  repeat'
    first
    | with_reducible apply Answers.next
    | with_reducible apply State.Changes.refl
    | exact rfl
    | with_reducible apply State.Changes.step (k := State.cwLow_changes _ _ _ _)
    | split

theorem execCwStat_changes (param : Byte) (sec : Bool) (s : State) :
    Answers (State.Changes [.power, .chans, .seqs, .pool, .mem, .sn, .eic, .dbg, .cw, .free] s) (execCwStat param sec s) := by
  unfold execCwStat
  try dsimp only
  repeat'
    first
    | with_reducible apply Answers.next
    | with_reducible apply State.Changes.refl
    | exact rfl
    | with_reducible apply State.Changes.step (k := State.cwLow_changes _ _ _ _)
    | split

theorem execCwMbx_changes (param : Byte) (sec : Bool) (s : State) :
    Answers (State.Changes [.power, .chans, .seqs, .pool, .mem, .sn, .eic, .dbg, .cw, .free] s) (execCwMbx param sec s) := by
  unfold execCwMbx
  try dsimp only
  repeat'
    first
    | with_reducible apply Answers.next
    | with_reducible apply State.Changes.refl
    | exact rfl
    | with_reducible apply State.Changes.step (k := State.cwLow_changes _ _ _ _)
    | split

theorem execCwRddesc_changes (param : Byte) (sec : Bool) (s : State) :
    Answers (State.Changes [.power, .chans, .seqs, .pool, .mem, .sn, .eic, .dbg, .cw, .free] s) (execCwRddesc param sec s) := by
  unfold execCwRddesc
  try dsimp only
  repeat'
    first
    | with_reducible apply Answers.next
    | with_reducible apply State.Changes.refl
    | exact rfl
    | with_reducible apply State.Changes.step (k := State.cwLow_changes _ _ _ _)
    | split

theorem execCwWrdesc_changes (param : Byte) (sec : Bool) (s : State) :
    Answers (State.Changes [.power, .chans, .seqs, .pool, .mem, .sn, .eic, .dbg, .cw, .free] s) (execCwWrdesc param sec s) := by
  unfold execCwWrdesc
  try dsimp only
  repeat'
    first
    | with_reducible apply Answers.next
    | with_reducible apply State.Changes.refl
    | exact rfl
    | with_reducible apply State.Changes.step (k := State.cwLow_changes _ _ _ _)
    | split

theorem execCwExecute_changes (s : State) :
    Answers (State.Changes [.power, .chans, .seqs, .pool, .mem, .sn, .eic, .dbg, .cw, .free] s) (execCwExecute s) := by
  unfold execCwExecute
  try dsimp only
  repeat'
    first
    | with_reducible apply Answers.next
    | with_reducible apply State.Changes.refl
    | exact rfl
    | with_reducible apply State.Changes.step (k := State.cwExecute_changes _)
    | split

theorem execCwCancel_changes (s : State) :
    Answers (State.Changes [.chans, .cw] s) (execCwCancel s) := by
  unfold execCwCancel
  try dsimp only
  repeat'
    first
    | with_reducible apply Answers.next
    | with_reducible apply State.Changes.refl
    | exact rfl
    | with_reducible apply State.Changes.step (k := State.cwCancel_changes _)
    | split

theorem execCwRspFlush_changes (s : State) :
    Answers (State.Changes [.cw] s) (execCwRspFlush s) := by
  unfold execCwRspFlush
  try dsimp only
  repeat'
    first
    | with_reducible apply Answers.next
    | with_reducible apply State.Changes.refl
    | exact rfl
    | with_reducible apply State.Changes.step (k := State.cwFlush_changes _)
    | split

theorem execCwStatRead_changes (hw : Bool) (s : State) :
    Answers (State.Changes [.cw] s) (execCwStatRead hw s) := by
  unfold execCwStatRead
  try dsimp only
  repeat'
    first
    | with_reducible apply Answers.next
    | with_reducible apply State.Changes.refl
    | exact rfl
    | with_reducible apply State.Changes.step (k := State.cwStatRead_changes _ _)
    | split

theorem execCwRspPop_changes (s : State) :
    Answers (State.Changes [.cw] s) (execCwRspPop s) := by
  unfold execCwRspPop
  try dsimp only
  repeat'
    first
    | with_reducible apply Answers.next
    | with_reducible apply State.Changes.refl
    | exact rfl
    | with_reducible apply State.Changes.step (k := State.cwPop_changes _)
    | split

theorem execCwRspPush_changes (v : BitVec 16) (s : State) :
    Answers (State.Changes [.cw] s) (execCwRspPush v s) := by
  unfold execCwRspPush
  try dsimp only
  repeat'
    first
    | with_reducible apply Answers.next
    | with_reducible apply State.Changes.refl
    | exact rfl
    | with_reducible apply State.Changes.step (k := State.cwRspPush_changes _ _)
    | split

theorem execCwEnableWrite_changes (v : W32) (s : State) :
    Answers (State.Changes [.chans, .cw] s) (execCwEnableWrite v s) := by
  unfold execCwEnableWrite
  try dsimp only
  repeat'
    first
    | with_reducible apply Answers.next
    | with_reducible apply State.Changes.refl
    | exact rfl
    | with_reducible apply State.Changes.step (k := State.cwEnable_changes _ _)
    | split


/-- A request of the host port: what its accesses change, and at most one request more without a transferred response, never one
over sixteen. -/
theorem execHostRequest_changes (t : Instant) (r : HostReq) (pass : Bool) (s : State) : ∃ z,
    execHostRequest t r pass s = .next z ∧ State.Grows [.beryl, .lanes, .hp, .xf, .key, .power, .bat, .chans, .posts, .seqs, .ibufs, .pool, .mem, .engines, .groups, .streams, .crcs, .bss, .lcs, .gds, .abs_, .sn, .ta, .eic, .cs, .sec, .vault, .dbg, .cw, .free] 1 s z ∧
      (s.hp.reqs.length + s.hp.resps.length ≤ 16 → z.hp.reqs.length + z.hp.resps.length ≤ 16) := by
  have h0 : State.Changes [.beryl, .lanes, .hp, .xf, .key, .power, .bat, .chans, .posts, .seqs, .ibufs, .pool, .mem, .engines, .groups, .streams, .crcs, .bss, .lcs, .gds, .abs_, .sn, .ta, .eic, .cs, .sec, .vault, .dbg, .cw, .free] s (s.advance t) := (State.advance_changes s t).mono rfl
  obtain ⟨h, k⟩ := (s.advance t).hostRequest_changes r pass
  have g := h0.grows.trans h
  exact ⟨_, rfl, g, fun a => k (Nat.le_trans h0.waits a)⟩

end Sys2Proof.Machine
end

