-- ==== Sys2Proof/Laws/State.lean ====
section
/-! SUPPORT. What each field of the state is after each named update of one record: the record itself, or what it was. -/

namespace Sys2Proof.Machine

@[simp] theorem State.modBeryl_beryl (s : State) (f : Beryl → Beryl) : (s.modBeryl f).beryl = f s.beryl := rfl
@[simp] theorem State.modBeryl_lanes (s : State) (f : Beryl → Beryl) : (s.modBeryl f).lanes = s.lanes := rfl
@[simp] theorem State.modBeryl_hp (s : State) (f : Beryl → Beryl) : (s.modBeryl f).hp = s.hp := rfl
@[simp] theorem State.modBeryl_xf (s : State) (f : Beryl → Beryl) : (s.modBeryl f).xf = s.xf := rfl
@[simp] theorem State.modBeryl_key (s : State) (f : Beryl → Beryl) : (s.modBeryl f).key = s.key := rfl
@[simp] theorem State.modBeryl_power (s : State) (f : Beryl → Beryl) : (s.modBeryl f).power = s.power := rfl
@[simp] theorem State.modBeryl_bat (s : State) (f : Beryl → Beryl) : (s.modBeryl f).bat = s.bat := rfl
@[simp] theorem State.modBeryl_chans (s : State) (f : Beryl → Beryl) : (s.modBeryl f).chans = s.chans := rfl
@[simp] theorem State.modBeryl_posts (s : State) (f : Beryl → Beryl) : (s.modBeryl f).posts = s.posts := rfl
@[simp] theorem State.modBeryl_seqs (s : State) (f : Beryl → Beryl) : (s.modBeryl f).seqs = s.seqs := rfl
@[simp] theorem State.modBeryl_ibufs (s : State) (f : Beryl → Beryl) : (s.modBeryl f).ibufs = s.ibufs := rfl
@[simp] theorem State.modBeryl_pool (s : State) (f : Beryl → Beryl) : (s.modBeryl f).pool = s.pool := rfl
@[simp] theorem State.modBeryl_mem (s : State) (f : Beryl → Beryl) : (s.modBeryl f).mem = s.mem := rfl
@[simp] theorem State.modBeryl_engines (s : State) (f : Beryl → Beryl) : (s.modBeryl f).engines = s.engines := rfl
@[simp] theorem State.modBeryl_groups (s : State) (f : Beryl → Beryl) : (s.modBeryl f).groups = s.groups := rfl
@[simp] theorem State.modBeryl_streams (s : State) (f : Beryl → Beryl) : (s.modBeryl f).streams = s.streams := rfl
@[simp] theorem State.modBeryl_crcs (s : State) (f : Beryl → Beryl) : (s.modBeryl f).crcs = s.crcs := rfl
@[simp] theorem State.modBeryl_bss (s : State) (f : Beryl → Beryl) : (s.modBeryl f).bss = s.bss := rfl
@[simp] theorem State.modBeryl_lcs (s : State) (f : Beryl → Beryl) : (s.modBeryl f).lcs = s.lcs := rfl
@[simp] theorem State.modBeryl_gds (s : State) (f : Beryl → Beryl) : (s.modBeryl f).gds = s.gds := rfl
@[simp] theorem State.modBeryl_abs_ (s : State) (f : Beryl → Beryl) : (s.modBeryl f).abs_ = s.abs_ := rfl
@[simp] theorem State.modBeryl_sn (s : State) (f : Beryl → Beryl) : (s.modBeryl f).sn = s.sn := rfl
@[simp] theorem State.modBeryl_ta (s : State) (f : Beryl → Beryl) : (s.modBeryl f).ta = s.ta := rfl
@[simp] theorem State.modBeryl_eic (s : State) (f : Beryl → Beryl) : (s.modBeryl f).eic = s.eic := rfl
@[simp] theorem State.modBeryl_cs (s : State) (f : Beryl → Beryl) : (s.modBeryl f).cs = s.cs := rfl
@[simp] theorem State.modBeryl_sec (s : State) (f : Beryl → Beryl) : (s.modBeryl f).sec = s.sec := rfl
@[simp] theorem State.modBeryl_vault (s : State) (f : Beryl → Beryl) : (s.modBeryl f).vault = s.vault := rfl
@[simp] theorem State.modBeryl_dbg (s : State) (f : Beryl → Beryl) : (s.modBeryl f).dbg = s.dbg := rfl
@[simp] theorem State.modBeryl_cw (s : State) (f : Beryl → Beryl) : (s.modBeryl f).cw = s.cw := rfl
@[simp] theorem State.modBeryl_pending (s : State) (f : Beryl → Beryl) : (s.modBeryl f).pending = s.pending := rfl
@[simp] theorem State.modBeryl_free (s : State) (f : Beryl → Beryl) : (s.modBeryl f).free = s.free := rfl

@[simp] theorem State.modDom_beryl (s : State) (n : Fin 8) (f : Domain → Domain) : (s.modDom n f).beryl = { s.beryl with doms := s.beryl.doms.mod n f } := rfl
@[simp] theorem State.modDom_lanes (s : State) (n : Fin 8) (f : Domain → Domain) : (s.modDom n f).lanes = s.lanes := rfl
@[simp] theorem State.modDom_hp (s : State) (n : Fin 8) (f : Domain → Domain) : (s.modDom n f).hp = s.hp := rfl
@[simp] theorem State.modDom_xf (s : State) (n : Fin 8) (f : Domain → Domain) : (s.modDom n f).xf = s.xf := rfl
@[simp] theorem State.modDom_key (s : State) (n : Fin 8) (f : Domain → Domain) : (s.modDom n f).key = s.key := rfl
@[simp] theorem State.modDom_power (s : State) (n : Fin 8) (f : Domain → Domain) : (s.modDom n f).power = s.power := rfl
@[simp] theorem State.modDom_bat (s : State) (n : Fin 8) (f : Domain → Domain) : (s.modDom n f).bat = s.bat := rfl
@[simp] theorem State.modDom_chans (s : State) (n : Fin 8) (f : Domain → Domain) : (s.modDom n f).chans = s.chans := rfl
@[simp] theorem State.modDom_posts (s : State) (n : Fin 8) (f : Domain → Domain) : (s.modDom n f).posts = s.posts := rfl
@[simp] theorem State.modDom_seqs (s : State) (n : Fin 8) (f : Domain → Domain) : (s.modDom n f).seqs = s.seqs := rfl
@[simp] theorem State.modDom_ibufs (s : State) (n : Fin 8) (f : Domain → Domain) : (s.modDom n f).ibufs = s.ibufs := rfl
@[simp] theorem State.modDom_pool (s : State) (n : Fin 8) (f : Domain → Domain) : (s.modDom n f).pool = s.pool := rfl
@[simp] theorem State.modDom_mem (s : State) (n : Fin 8) (f : Domain → Domain) : (s.modDom n f).mem = s.mem := rfl
@[simp] theorem State.modDom_engines (s : State) (n : Fin 8) (f : Domain → Domain) : (s.modDom n f).engines = s.engines := rfl
@[simp] theorem State.modDom_groups (s : State) (n : Fin 8) (f : Domain → Domain) : (s.modDom n f).groups = s.groups := rfl
@[simp] theorem State.modDom_streams (s : State) (n : Fin 8) (f : Domain → Domain) : (s.modDom n f).streams = s.streams := rfl
@[simp] theorem State.modDom_crcs (s : State) (n : Fin 8) (f : Domain → Domain) : (s.modDom n f).crcs = s.crcs := rfl
@[simp] theorem State.modDom_bss (s : State) (n : Fin 8) (f : Domain → Domain) : (s.modDom n f).bss = s.bss := rfl
@[simp] theorem State.modDom_lcs (s : State) (n : Fin 8) (f : Domain → Domain) : (s.modDom n f).lcs = s.lcs := rfl
@[simp] theorem State.modDom_gds (s : State) (n : Fin 8) (f : Domain → Domain) : (s.modDom n f).gds = s.gds := rfl
@[simp] theorem State.modDom_abs_ (s : State) (n : Fin 8) (f : Domain → Domain) : (s.modDom n f).abs_ = s.abs_ := rfl
@[simp] theorem State.modDom_sn (s : State) (n : Fin 8) (f : Domain → Domain) : (s.modDom n f).sn = s.sn := rfl
@[simp] theorem State.modDom_ta (s : State) (n : Fin 8) (f : Domain → Domain) : (s.modDom n f).ta = s.ta := rfl
@[simp] theorem State.modDom_eic (s : State) (n : Fin 8) (f : Domain → Domain) : (s.modDom n f).eic = s.eic := rfl
@[simp] theorem State.modDom_cs (s : State) (n : Fin 8) (f : Domain → Domain) : (s.modDom n f).cs = s.cs := rfl
@[simp] theorem State.modDom_sec (s : State) (n : Fin 8) (f : Domain → Domain) : (s.modDom n f).sec = s.sec := rfl
@[simp] theorem State.modDom_vault (s : State) (n : Fin 8) (f : Domain → Domain) : (s.modDom n f).vault = s.vault := rfl
@[simp] theorem State.modDom_dbg (s : State) (n : Fin 8) (f : Domain → Domain) : (s.modDom n f).dbg = s.dbg := rfl
@[simp] theorem State.modDom_cw (s : State) (n : Fin 8) (f : Domain → Domain) : (s.modDom n f).cw = s.cw := rfl
@[simp] theorem State.modDom_pending (s : State) (n : Fin 8) (f : Domain → Domain) : (s.modDom n f).pending = s.pending := rfl
@[simp] theorem State.modDom_free (s : State) (n : Fin 8) (f : Domain → Domain) : (s.modDom n f).free = s.free := rfl

@[simp] theorem State.modLane_beryl (s : State) (n : Fin 256) (f : Lane → Lane) : (s.modLane n f).beryl = s.beryl := rfl
@[simp] theorem State.modLane_lanes (s : State) (n : Fin 256) (f : Lane → Lane) : (s.modLane n f).lanes = s.lanes.mod n f := rfl
@[simp] theorem State.modLane_hp (s : State) (n : Fin 256) (f : Lane → Lane) : (s.modLane n f).hp = s.hp := rfl
@[simp] theorem State.modLane_xf (s : State) (n : Fin 256) (f : Lane → Lane) : (s.modLane n f).xf = s.xf := rfl
@[simp] theorem State.modLane_key (s : State) (n : Fin 256) (f : Lane → Lane) : (s.modLane n f).key = s.key := rfl
@[simp] theorem State.modLane_power (s : State) (n : Fin 256) (f : Lane → Lane) : (s.modLane n f).power = s.power := rfl
@[simp] theorem State.modLane_bat (s : State) (n : Fin 256) (f : Lane → Lane) : (s.modLane n f).bat = s.bat := rfl
@[simp] theorem State.modLane_chans (s : State) (n : Fin 256) (f : Lane → Lane) : (s.modLane n f).chans = s.chans := rfl
@[simp] theorem State.modLane_posts (s : State) (n : Fin 256) (f : Lane → Lane) : (s.modLane n f).posts = s.posts := rfl
@[simp] theorem State.modLane_seqs (s : State) (n : Fin 256) (f : Lane → Lane) : (s.modLane n f).seqs = s.seqs := rfl
@[simp] theorem State.modLane_ibufs (s : State) (n : Fin 256) (f : Lane → Lane) : (s.modLane n f).ibufs = s.ibufs := rfl
@[simp] theorem State.modLane_pool (s : State) (n : Fin 256) (f : Lane → Lane) : (s.modLane n f).pool = s.pool := rfl
@[simp] theorem State.modLane_mem (s : State) (n : Fin 256) (f : Lane → Lane) : (s.modLane n f).mem = s.mem := rfl
@[simp] theorem State.modLane_engines (s : State) (n : Fin 256) (f : Lane → Lane) : (s.modLane n f).engines = s.engines := rfl
@[simp] theorem State.modLane_groups (s : State) (n : Fin 256) (f : Lane → Lane) : (s.modLane n f).groups = s.groups := rfl
@[simp] theorem State.modLane_streams (s : State) (n : Fin 256) (f : Lane → Lane) : (s.modLane n f).streams = s.streams := rfl
@[simp] theorem State.modLane_crcs (s : State) (n : Fin 256) (f : Lane → Lane) : (s.modLane n f).crcs = s.crcs := rfl
@[simp] theorem State.modLane_bss (s : State) (n : Fin 256) (f : Lane → Lane) : (s.modLane n f).bss = s.bss := rfl
@[simp] theorem State.modLane_lcs (s : State) (n : Fin 256) (f : Lane → Lane) : (s.modLane n f).lcs = s.lcs := rfl
@[simp] theorem State.modLane_gds (s : State) (n : Fin 256) (f : Lane → Lane) : (s.modLane n f).gds = s.gds := rfl
@[simp] theorem State.modLane_abs_ (s : State) (n : Fin 256) (f : Lane → Lane) : (s.modLane n f).abs_ = s.abs_ := rfl
@[simp] theorem State.modLane_sn (s : State) (n : Fin 256) (f : Lane → Lane) : (s.modLane n f).sn = s.sn := rfl
@[simp] theorem State.modLane_ta (s : State) (n : Fin 256) (f : Lane → Lane) : (s.modLane n f).ta = s.ta := rfl
@[simp] theorem State.modLane_eic (s : State) (n : Fin 256) (f : Lane → Lane) : (s.modLane n f).eic = s.eic := rfl
@[simp] theorem State.modLane_cs (s : State) (n : Fin 256) (f : Lane → Lane) : (s.modLane n f).cs = s.cs := rfl
@[simp] theorem State.modLane_sec (s : State) (n : Fin 256) (f : Lane → Lane) : (s.modLane n f).sec = s.sec := rfl
@[simp] theorem State.modLane_vault (s : State) (n : Fin 256) (f : Lane → Lane) : (s.modLane n f).vault = s.vault := rfl
@[simp] theorem State.modLane_dbg (s : State) (n : Fin 256) (f : Lane → Lane) : (s.modLane n f).dbg = s.dbg := rfl
@[simp] theorem State.modLane_cw (s : State) (n : Fin 256) (f : Lane → Lane) : (s.modLane n f).cw = s.cw := rfl
@[simp] theorem State.modLane_pending (s : State) (n : Fin 256) (f : Lane → Lane) : (s.modLane n f).pending = s.pending := rfl
@[simp] theorem State.modLane_free (s : State) (n : Fin 256) (f : Lane → Lane) : (s.modLane n f).free = s.free := rfl

@[simp] theorem State.modEng_beryl (s : State) (n : Fin 64) (f : Engine → Engine) : (s.modEng n f).beryl = s.beryl := rfl
@[simp] theorem State.modEng_lanes (s : State) (n : Fin 64) (f : Engine → Engine) : (s.modEng n f).lanes = s.lanes := rfl
@[simp] theorem State.modEng_hp (s : State) (n : Fin 64) (f : Engine → Engine) : (s.modEng n f).hp = s.hp := rfl
@[simp] theorem State.modEng_xf (s : State) (n : Fin 64) (f : Engine → Engine) : (s.modEng n f).xf = s.xf := rfl
@[simp] theorem State.modEng_key (s : State) (n : Fin 64) (f : Engine → Engine) : (s.modEng n f).key = s.key := rfl
@[simp] theorem State.modEng_power (s : State) (n : Fin 64) (f : Engine → Engine) : (s.modEng n f).power = s.power := rfl
@[simp] theorem State.modEng_bat (s : State) (n : Fin 64) (f : Engine → Engine) : (s.modEng n f).bat = s.bat := rfl
@[simp] theorem State.modEng_chans (s : State) (n : Fin 64) (f : Engine → Engine) : (s.modEng n f).chans = s.chans := rfl
@[simp] theorem State.modEng_posts (s : State) (n : Fin 64) (f : Engine → Engine) : (s.modEng n f).posts = s.posts := rfl
@[simp] theorem State.modEng_seqs (s : State) (n : Fin 64) (f : Engine → Engine) : (s.modEng n f).seqs = s.seqs := rfl
@[simp] theorem State.modEng_ibufs (s : State) (n : Fin 64) (f : Engine → Engine) : (s.modEng n f).ibufs = s.ibufs := rfl
@[simp] theorem State.modEng_pool (s : State) (n : Fin 64) (f : Engine → Engine) : (s.modEng n f).pool = s.pool := rfl
@[simp] theorem State.modEng_mem (s : State) (n : Fin 64) (f : Engine → Engine) : (s.modEng n f).mem = s.mem := rfl
@[simp] theorem State.modEng_engines (s : State) (n : Fin 64) (f : Engine → Engine) : (s.modEng n f).engines = s.engines.mod n f := rfl
@[simp] theorem State.modEng_groups (s : State) (n : Fin 64) (f : Engine → Engine) : (s.modEng n f).groups = s.groups := rfl
@[simp] theorem State.modEng_streams (s : State) (n : Fin 64) (f : Engine → Engine) : (s.modEng n f).streams = s.streams := rfl
@[simp] theorem State.modEng_crcs (s : State) (n : Fin 64) (f : Engine → Engine) : (s.modEng n f).crcs = s.crcs := rfl
@[simp] theorem State.modEng_bss (s : State) (n : Fin 64) (f : Engine → Engine) : (s.modEng n f).bss = s.bss := rfl
@[simp] theorem State.modEng_lcs (s : State) (n : Fin 64) (f : Engine → Engine) : (s.modEng n f).lcs = s.lcs := rfl
@[simp] theorem State.modEng_gds (s : State) (n : Fin 64) (f : Engine → Engine) : (s.modEng n f).gds = s.gds := rfl
@[simp] theorem State.modEng_abs_ (s : State) (n : Fin 64) (f : Engine → Engine) : (s.modEng n f).abs_ = s.abs_ := rfl
@[simp] theorem State.modEng_sn (s : State) (n : Fin 64) (f : Engine → Engine) : (s.modEng n f).sn = s.sn := rfl
@[simp] theorem State.modEng_ta (s : State) (n : Fin 64) (f : Engine → Engine) : (s.modEng n f).ta = s.ta := rfl
@[simp] theorem State.modEng_eic (s : State) (n : Fin 64) (f : Engine → Engine) : (s.modEng n f).eic = s.eic := rfl
@[simp] theorem State.modEng_cs (s : State) (n : Fin 64) (f : Engine → Engine) : (s.modEng n f).cs = s.cs := rfl
@[simp] theorem State.modEng_sec (s : State) (n : Fin 64) (f : Engine → Engine) : (s.modEng n f).sec = s.sec := rfl
@[simp] theorem State.modEng_vault (s : State) (n : Fin 64) (f : Engine → Engine) : (s.modEng n f).vault = s.vault := rfl
@[simp] theorem State.modEng_dbg (s : State) (n : Fin 64) (f : Engine → Engine) : (s.modEng n f).dbg = s.dbg := rfl
@[simp] theorem State.modEng_cw (s : State) (n : Fin 64) (f : Engine → Engine) : (s.modEng n f).cw = s.cw := rfl
@[simp] theorem State.modEng_pending (s : State) (n : Fin 64) (f : Engine → Engine) : (s.modEng n f).pending = s.pending := rfl
@[simp] theorem State.modEng_free (s : State) (n : Fin 64) (f : Engine → Engine) : (s.modEng n f).free = s.free := rfl

@[simp] theorem State.modSf_beryl (s : State) (n : Fin 128) (f : Stream → Stream) : (s.modSf n f).beryl = s.beryl := rfl
@[simp] theorem State.modSf_lanes (s : State) (n : Fin 128) (f : Stream → Stream) : (s.modSf n f).lanes = s.lanes := rfl
@[simp] theorem State.modSf_hp (s : State) (n : Fin 128) (f : Stream → Stream) : (s.modSf n f).hp = s.hp := rfl
@[simp] theorem State.modSf_xf (s : State) (n : Fin 128) (f : Stream → Stream) : (s.modSf n f).xf = s.xf := rfl
@[simp] theorem State.modSf_key (s : State) (n : Fin 128) (f : Stream → Stream) : (s.modSf n f).key = s.key := rfl
@[simp] theorem State.modSf_power (s : State) (n : Fin 128) (f : Stream → Stream) : (s.modSf n f).power = s.power := rfl
@[simp] theorem State.modSf_bat (s : State) (n : Fin 128) (f : Stream → Stream) : (s.modSf n f).bat = s.bat := rfl
@[simp] theorem State.modSf_chans (s : State) (n : Fin 128) (f : Stream → Stream) : (s.modSf n f).chans = s.chans := rfl
@[simp] theorem State.modSf_posts (s : State) (n : Fin 128) (f : Stream → Stream) : (s.modSf n f).posts = s.posts := rfl
@[simp] theorem State.modSf_seqs (s : State) (n : Fin 128) (f : Stream → Stream) : (s.modSf n f).seqs = s.seqs := rfl
@[simp] theorem State.modSf_ibufs (s : State) (n : Fin 128) (f : Stream → Stream) : (s.modSf n f).ibufs = s.ibufs := rfl
@[simp] theorem State.modSf_pool (s : State) (n : Fin 128) (f : Stream → Stream) : (s.modSf n f).pool = s.pool := rfl
@[simp] theorem State.modSf_mem (s : State) (n : Fin 128) (f : Stream → Stream) : (s.modSf n f).mem = s.mem := rfl
@[simp] theorem State.modSf_engines (s : State) (n : Fin 128) (f : Stream → Stream) : (s.modSf n f).engines = s.engines := rfl
@[simp] theorem State.modSf_groups (s : State) (n : Fin 128) (f : Stream → Stream) : (s.modSf n f).groups = s.groups := rfl
@[simp] theorem State.modSf_streams (s : State) (n : Fin 128) (f : Stream → Stream) : (s.modSf n f).streams = s.streams.mod n f := rfl
@[simp] theorem State.modSf_crcs (s : State) (n : Fin 128) (f : Stream → Stream) : (s.modSf n f).crcs = s.crcs := rfl
@[simp] theorem State.modSf_bss (s : State) (n : Fin 128) (f : Stream → Stream) : (s.modSf n f).bss = s.bss := rfl
@[simp] theorem State.modSf_lcs (s : State) (n : Fin 128) (f : Stream → Stream) : (s.modSf n f).lcs = s.lcs := rfl
@[simp] theorem State.modSf_gds (s : State) (n : Fin 128) (f : Stream → Stream) : (s.modSf n f).gds = s.gds := rfl
@[simp] theorem State.modSf_abs_ (s : State) (n : Fin 128) (f : Stream → Stream) : (s.modSf n f).abs_ = s.abs_ := rfl
@[simp] theorem State.modSf_sn (s : State) (n : Fin 128) (f : Stream → Stream) : (s.modSf n f).sn = s.sn := rfl
@[simp] theorem State.modSf_ta (s : State) (n : Fin 128) (f : Stream → Stream) : (s.modSf n f).ta = s.ta := rfl
@[simp] theorem State.modSf_eic (s : State) (n : Fin 128) (f : Stream → Stream) : (s.modSf n f).eic = s.eic := rfl
@[simp] theorem State.modSf_cs (s : State) (n : Fin 128) (f : Stream → Stream) : (s.modSf n f).cs = s.cs := rfl
@[simp] theorem State.modSf_sec (s : State) (n : Fin 128) (f : Stream → Stream) : (s.modSf n f).sec = s.sec := rfl
@[simp] theorem State.modSf_vault (s : State) (n : Fin 128) (f : Stream → Stream) : (s.modSf n f).vault = s.vault := rfl
@[simp] theorem State.modSf_dbg (s : State) (n : Fin 128) (f : Stream → Stream) : (s.modSf n f).dbg = s.dbg := rfl
@[simp] theorem State.modSf_cw (s : State) (n : Fin 128) (f : Stream → Stream) : (s.modSf n f).cw = s.cw := rfl
@[simp] theorem State.modSf_pending (s : State) (n : Fin 128) (f : Stream → Stream) : (s.modSf n f).pending = s.pending := rfl
@[simp] theorem State.modSf_free (s : State) (n : Fin 128) (f : Stream → Stream) : (s.modSf n f).free = s.free := rfl

@[simp] theorem State.modSeq_beryl (s : State) (n : Fin 16) (f : Seq → Seq) : (s.modSeq n f).beryl = s.beryl := rfl
@[simp] theorem State.modSeq_lanes (s : State) (n : Fin 16) (f : Seq → Seq) : (s.modSeq n f).lanes = s.lanes := rfl
@[simp] theorem State.modSeq_hp (s : State) (n : Fin 16) (f : Seq → Seq) : (s.modSeq n f).hp = s.hp := rfl
@[simp] theorem State.modSeq_xf (s : State) (n : Fin 16) (f : Seq → Seq) : (s.modSeq n f).xf = s.xf := rfl
@[simp] theorem State.modSeq_key (s : State) (n : Fin 16) (f : Seq → Seq) : (s.modSeq n f).key = s.key := rfl
@[simp] theorem State.modSeq_power (s : State) (n : Fin 16) (f : Seq → Seq) : (s.modSeq n f).power = s.power := rfl
@[simp] theorem State.modSeq_bat (s : State) (n : Fin 16) (f : Seq → Seq) : (s.modSeq n f).bat = s.bat := rfl
@[simp] theorem State.modSeq_chans (s : State) (n : Fin 16) (f : Seq → Seq) : (s.modSeq n f).chans = s.chans := rfl
@[simp] theorem State.modSeq_posts (s : State) (n : Fin 16) (f : Seq → Seq) : (s.modSeq n f).posts = s.posts := rfl
@[simp] theorem State.modSeq_seqs (s : State) (n : Fin 16) (f : Seq → Seq) : (s.modSeq n f).seqs = s.seqs.mod n f := rfl
@[simp] theorem State.modSeq_ibufs (s : State) (n : Fin 16) (f : Seq → Seq) : (s.modSeq n f).ibufs = s.ibufs := rfl
@[simp] theorem State.modSeq_pool (s : State) (n : Fin 16) (f : Seq → Seq) : (s.modSeq n f).pool = s.pool := rfl
@[simp] theorem State.modSeq_mem (s : State) (n : Fin 16) (f : Seq → Seq) : (s.modSeq n f).mem = s.mem := rfl
@[simp] theorem State.modSeq_engines (s : State) (n : Fin 16) (f : Seq → Seq) : (s.modSeq n f).engines = s.engines := rfl
@[simp] theorem State.modSeq_groups (s : State) (n : Fin 16) (f : Seq → Seq) : (s.modSeq n f).groups = s.groups := rfl
@[simp] theorem State.modSeq_streams (s : State) (n : Fin 16) (f : Seq → Seq) : (s.modSeq n f).streams = s.streams := rfl
@[simp] theorem State.modSeq_crcs (s : State) (n : Fin 16) (f : Seq → Seq) : (s.modSeq n f).crcs = s.crcs := rfl
@[simp] theorem State.modSeq_bss (s : State) (n : Fin 16) (f : Seq → Seq) : (s.modSeq n f).bss = s.bss := rfl
@[simp] theorem State.modSeq_lcs (s : State) (n : Fin 16) (f : Seq → Seq) : (s.modSeq n f).lcs = s.lcs := rfl
@[simp] theorem State.modSeq_gds (s : State) (n : Fin 16) (f : Seq → Seq) : (s.modSeq n f).gds = s.gds := rfl
@[simp] theorem State.modSeq_abs_ (s : State) (n : Fin 16) (f : Seq → Seq) : (s.modSeq n f).abs_ = s.abs_ := rfl
@[simp] theorem State.modSeq_sn (s : State) (n : Fin 16) (f : Seq → Seq) : (s.modSeq n f).sn = s.sn := rfl
@[simp] theorem State.modSeq_ta (s : State) (n : Fin 16) (f : Seq → Seq) : (s.modSeq n f).ta = s.ta := rfl
@[simp] theorem State.modSeq_eic (s : State) (n : Fin 16) (f : Seq → Seq) : (s.modSeq n f).eic = s.eic := rfl
@[simp] theorem State.modSeq_cs (s : State) (n : Fin 16) (f : Seq → Seq) : (s.modSeq n f).cs = s.cs := rfl
@[simp] theorem State.modSeq_sec (s : State) (n : Fin 16) (f : Seq → Seq) : (s.modSeq n f).sec = s.sec := rfl
@[simp] theorem State.modSeq_vault (s : State) (n : Fin 16) (f : Seq → Seq) : (s.modSeq n f).vault = s.vault := rfl
@[simp] theorem State.modSeq_dbg (s : State) (n : Fin 16) (f : Seq → Seq) : (s.modSeq n f).dbg = s.dbg := rfl
@[simp] theorem State.modSeq_cw (s : State) (n : Fin 16) (f : Seq → Seq) : (s.modSeq n f).cw = s.cw := rfl
@[simp] theorem State.modSeq_pending (s : State) (n : Fin 16) (f : Seq → Seq) : (s.modSeq n f).pending = s.pending := rfl
@[simp] theorem State.modSeq_free (s : State) (n : Fin 16) (f : Seq → Seq) : (s.modSeq n f).free = s.free := rfl

@[simp] theorem State.modChan_beryl (s : State) (c : Fin 256) (f : Channel → Channel) : (s.modChan c f).beryl = s.beryl := rfl
@[simp] theorem State.modChan_lanes (s : State) (c : Fin 256) (f : Channel → Channel) : (s.modChan c f).lanes = s.lanes := rfl
@[simp] theorem State.modChan_hp (s : State) (c : Fin 256) (f : Channel → Channel) : (s.modChan c f).hp = s.hp := rfl
@[simp] theorem State.modChan_xf (s : State) (c : Fin 256) (f : Channel → Channel) : (s.modChan c f).xf = s.xf := rfl
@[simp] theorem State.modChan_key (s : State) (c : Fin 256) (f : Channel → Channel) : (s.modChan c f).key = s.key := rfl
@[simp] theorem State.modChan_power (s : State) (c : Fin 256) (f : Channel → Channel) : (s.modChan c f).power = s.power := rfl
@[simp] theorem State.modChan_bat (s : State) (c : Fin 256) (f : Channel → Channel) : (s.modChan c f).bat = s.bat := rfl
@[simp] theorem State.modChan_chans (s : State) (c : Fin 256) (f : Channel → Channel) : (s.modChan c f).chans = s.chans.mod c f := rfl
@[simp] theorem State.modChan_posts (s : State) (c : Fin 256) (f : Channel → Channel) : (s.modChan c f).posts = s.posts := rfl
@[simp] theorem State.modChan_seqs (s : State) (c : Fin 256) (f : Channel → Channel) : (s.modChan c f).seqs = s.seqs := rfl
@[simp] theorem State.modChan_ibufs (s : State) (c : Fin 256) (f : Channel → Channel) : (s.modChan c f).ibufs = s.ibufs := rfl
@[simp] theorem State.modChan_pool (s : State) (c : Fin 256) (f : Channel → Channel) : (s.modChan c f).pool = s.pool := rfl
@[simp] theorem State.modChan_mem (s : State) (c : Fin 256) (f : Channel → Channel) : (s.modChan c f).mem = s.mem := rfl
@[simp] theorem State.modChan_engines (s : State) (c : Fin 256) (f : Channel → Channel) : (s.modChan c f).engines = s.engines := rfl
@[simp] theorem State.modChan_groups (s : State) (c : Fin 256) (f : Channel → Channel) : (s.modChan c f).groups = s.groups := rfl
@[simp] theorem State.modChan_streams (s : State) (c : Fin 256) (f : Channel → Channel) : (s.modChan c f).streams = s.streams := rfl
@[simp] theorem State.modChan_crcs (s : State) (c : Fin 256) (f : Channel → Channel) : (s.modChan c f).crcs = s.crcs := rfl
@[simp] theorem State.modChan_bss (s : State) (c : Fin 256) (f : Channel → Channel) : (s.modChan c f).bss = s.bss := rfl
@[simp] theorem State.modChan_lcs (s : State) (c : Fin 256) (f : Channel → Channel) : (s.modChan c f).lcs = s.lcs := rfl
@[simp] theorem State.modChan_gds (s : State) (c : Fin 256) (f : Channel → Channel) : (s.modChan c f).gds = s.gds := rfl
@[simp] theorem State.modChan_abs_ (s : State) (c : Fin 256) (f : Channel → Channel) : (s.modChan c f).abs_ = s.abs_ := rfl
@[simp] theorem State.modChan_sn (s : State) (c : Fin 256) (f : Channel → Channel) : (s.modChan c f).sn = s.sn := rfl
@[simp] theorem State.modChan_ta (s : State) (c : Fin 256) (f : Channel → Channel) : (s.modChan c f).ta = s.ta := rfl
@[simp] theorem State.modChan_eic (s : State) (c : Fin 256) (f : Channel → Channel) : (s.modChan c f).eic = s.eic := rfl
@[simp] theorem State.modChan_cs (s : State) (c : Fin 256) (f : Channel → Channel) : (s.modChan c f).cs = s.cs := rfl
@[simp] theorem State.modChan_sec (s : State) (c : Fin 256) (f : Channel → Channel) : (s.modChan c f).sec = s.sec := rfl
@[simp] theorem State.modChan_vault (s : State) (c : Fin 256) (f : Channel → Channel) : (s.modChan c f).vault = s.vault := rfl
@[simp] theorem State.modChan_dbg (s : State) (c : Fin 256) (f : Channel → Channel) : (s.modChan c f).dbg = s.dbg := rfl
@[simp] theorem State.modChan_cw (s : State) (c : Fin 256) (f : Channel → Channel) : (s.modChan c f).cw = s.cw := rfl
@[simp] theorem State.modChan_pending (s : State) (c : Fin 256) (f : Channel → Channel) : (s.modChan c f).pending = s.pending := rfl
@[simp] theorem State.modChan_free (s : State) (c : Fin 256) (f : Channel → Channel) : (s.modChan c f).free = s.free := rfl

@[simp] theorem State.modPw_beryl (s : State) (f : Power → Power) : (s.modPw f).beryl = s.beryl := rfl
@[simp] theorem State.modPw_lanes (s : State) (f : Power → Power) : (s.modPw f).lanes = s.lanes := rfl
@[simp] theorem State.modPw_hp (s : State) (f : Power → Power) : (s.modPw f).hp = s.hp := rfl
@[simp] theorem State.modPw_xf (s : State) (f : Power → Power) : (s.modPw f).xf = s.xf := rfl
@[simp] theorem State.modPw_key (s : State) (f : Power → Power) : (s.modPw f).key = s.key := rfl
@[simp] theorem State.modPw_power (s : State) (f : Power → Power) : (s.modPw f).power = f s.power := rfl
@[simp] theorem State.modPw_bat (s : State) (f : Power → Power) : (s.modPw f).bat = s.bat := rfl
@[simp] theorem State.modPw_chans (s : State) (f : Power → Power) : (s.modPw f).chans = s.chans := rfl
@[simp] theorem State.modPw_posts (s : State) (f : Power → Power) : (s.modPw f).posts = s.posts := rfl
@[simp] theorem State.modPw_seqs (s : State) (f : Power → Power) : (s.modPw f).seqs = s.seqs := rfl
@[simp] theorem State.modPw_ibufs (s : State) (f : Power → Power) : (s.modPw f).ibufs = s.ibufs := rfl
@[simp] theorem State.modPw_pool (s : State) (f : Power → Power) : (s.modPw f).pool = s.pool := rfl
@[simp] theorem State.modPw_mem (s : State) (f : Power → Power) : (s.modPw f).mem = s.mem := rfl
@[simp] theorem State.modPw_engines (s : State) (f : Power → Power) : (s.modPw f).engines = s.engines := rfl
@[simp] theorem State.modPw_groups (s : State) (f : Power → Power) : (s.modPw f).groups = s.groups := rfl
@[simp] theorem State.modPw_streams (s : State) (f : Power → Power) : (s.modPw f).streams = s.streams := rfl
@[simp] theorem State.modPw_crcs (s : State) (f : Power → Power) : (s.modPw f).crcs = s.crcs := rfl
@[simp] theorem State.modPw_bss (s : State) (f : Power → Power) : (s.modPw f).bss = s.bss := rfl
@[simp] theorem State.modPw_lcs (s : State) (f : Power → Power) : (s.modPw f).lcs = s.lcs := rfl
@[simp] theorem State.modPw_gds (s : State) (f : Power → Power) : (s.modPw f).gds = s.gds := rfl
@[simp] theorem State.modPw_abs_ (s : State) (f : Power → Power) : (s.modPw f).abs_ = s.abs_ := rfl
@[simp] theorem State.modPw_sn (s : State) (f : Power → Power) : (s.modPw f).sn = s.sn := rfl
@[simp] theorem State.modPw_ta (s : State) (f : Power → Power) : (s.modPw f).ta = s.ta := rfl
@[simp] theorem State.modPw_eic (s : State) (f : Power → Power) : (s.modPw f).eic = s.eic := rfl
@[simp] theorem State.modPw_cs (s : State) (f : Power → Power) : (s.modPw f).cs = s.cs := rfl
@[simp] theorem State.modPw_sec (s : State) (f : Power → Power) : (s.modPw f).sec = s.sec := rfl
@[simp] theorem State.modPw_vault (s : State) (f : Power → Power) : (s.modPw f).vault = s.vault := rfl
@[simp] theorem State.modPw_dbg (s : State) (f : Power → Power) : (s.modPw f).dbg = s.dbg := rfl
@[simp] theorem State.modPw_cw (s : State) (f : Power → Power) : (s.modPw f).cw = s.cw := rfl
@[simp] theorem State.modPw_pending (s : State) (f : Power → Power) : (s.modPw f).pending = s.pending := rfl
@[simp] theorem State.modPw_free (s : State) (f : Power → Power) : (s.modPw f).free = s.free := rfl

@[simp] theorem State.modHalf_beryl (s : State) (h : Fin 2) (f : Half → Half) : (s.modHalf h f).beryl = s.beryl := rfl
@[simp] theorem State.modHalf_lanes (s : State) (h : Fin 2) (f : Half → Half) : (s.modHalf h f).lanes = s.lanes := rfl
@[simp] theorem State.modHalf_hp (s : State) (h : Fin 2) (f : Half → Half) : (s.modHalf h f).hp = s.hp := rfl
@[simp] theorem State.modHalf_xf (s : State) (h : Fin 2) (f : Half → Half) : (s.modHalf h f).xf = s.xf := rfl
@[simp] theorem State.modHalf_key (s : State) (h : Fin 2) (f : Half → Half) : (s.modHalf h f).key = s.key := rfl
@[simp] theorem State.modHalf_power (s : State) (h : Fin 2) (f : Half → Half) : (s.modHalf h f).power = { s.power with halves := s.power.halves.mod h f } := rfl
@[simp] theorem State.modHalf_bat (s : State) (h : Fin 2) (f : Half → Half) : (s.modHalf h f).bat = s.bat := rfl
@[simp] theorem State.modHalf_chans (s : State) (h : Fin 2) (f : Half → Half) : (s.modHalf h f).chans = s.chans := rfl
@[simp] theorem State.modHalf_posts (s : State) (h : Fin 2) (f : Half → Half) : (s.modHalf h f).posts = s.posts := rfl
@[simp] theorem State.modHalf_seqs (s : State) (h : Fin 2) (f : Half → Half) : (s.modHalf h f).seqs = s.seqs := rfl
@[simp] theorem State.modHalf_ibufs (s : State) (h : Fin 2) (f : Half → Half) : (s.modHalf h f).ibufs = s.ibufs := rfl
@[simp] theorem State.modHalf_pool (s : State) (h : Fin 2) (f : Half → Half) : (s.modHalf h f).pool = s.pool := rfl
@[simp] theorem State.modHalf_mem (s : State) (h : Fin 2) (f : Half → Half) : (s.modHalf h f).mem = s.mem := rfl
@[simp] theorem State.modHalf_engines (s : State) (h : Fin 2) (f : Half → Half) : (s.modHalf h f).engines = s.engines := rfl
@[simp] theorem State.modHalf_groups (s : State) (h : Fin 2) (f : Half → Half) : (s.modHalf h f).groups = s.groups := rfl
@[simp] theorem State.modHalf_streams (s : State) (h : Fin 2) (f : Half → Half) : (s.modHalf h f).streams = s.streams := rfl
@[simp] theorem State.modHalf_crcs (s : State) (h : Fin 2) (f : Half → Half) : (s.modHalf h f).crcs = s.crcs := rfl
@[simp] theorem State.modHalf_bss (s : State) (h : Fin 2) (f : Half → Half) : (s.modHalf h f).bss = s.bss := rfl
@[simp] theorem State.modHalf_lcs (s : State) (h : Fin 2) (f : Half → Half) : (s.modHalf h f).lcs = s.lcs := rfl
@[simp] theorem State.modHalf_gds (s : State) (h : Fin 2) (f : Half → Half) : (s.modHalf h f).gds = s.gds := rfl
@[simp] theorem State.modHalf_abs_ (s : State) (h : Fin 2) (f : Half → Half) : (s.modHalf h f).abs_ = s.abs_ := rfl
@[simp] theorem State.modHalf_sn (s : State) (h : Fin 2) (f : Half → Half) : (s.modHalf h f).sn = s.sn := rfl
@[simp] theorem State.modHalf_ta (s : State) (h : Fin 2) (f : Half → Half) : (s.modHalf h f).ta = s.ta := rfl
@[simp] theorem State.modHalf_eic (s : State) (h : Fin 2) (f : Half → Half) : (s.modHalf h f).eic = s.eic := rfl
@[simp] theorem State.modHalf_cs (s : State) (h : Fin 2) (f : Half → Half) : (s.modHalf h f).cs = s.cs := rfl
@[simp] theorem State.modHalf_sec (s : State) (h : Fin 2) (f : Half → Half) : (s.modHalf h f).sec = s.sec := rfl
@[simp] theorem State.modHalf_vault (s : State) (h : Fin 2) (f : Half → Half) : (s.modHalf h f).vault = s.vault := rfl
@[simp] theorem State.modHalf_dbg (s : State) (h : Fin 2) (f : Half → Half) : (s.modHalf h f).dbg = s.dbg := rfl
@[simp] theorem State.modHalf_cw (s : State) (h : Fin 2) (f : Half → Half) : (s.modHalf h f).cw = s.cw := rfl
@[simp] theorem State.modHalf_pending (s : State) (h : Fin 2) (f : Half → Half) : (s.modHalf h f).pending = s.pending := rfl
@[simp] theorem State.modHalf_free (s : State) (h : Fin 2) (f : Half → Half) : (s.modHalf h f).free = s.free := rfl

@[simp] theorem State.modMem_beryl (s : State) (f : Mem → Mem) : (s.modMem f).beryl = s.beryl := rfl
@[simp] theorem State.modMem_lanes (s : State) (f : Mem → Mem) : (s.modMem f).lanes = s.lanes := rfl
@[simp] theorem State.modMem_hp (s : State) (f : Mem → Mem) : (s.modMem f).hp = s.hp := rfl
@[simp] theorem State.modMem_xf (s : State) (f : Mem → Mem) : (s.modMem f).xf = s.xf := rfl
@[simp] theorem State.modMem_key (s : State) (f : Mem → Mem) : (s.modMem f).key = s.key := rfl
@[simp] theorem State.modMem_power (s : State) (f : Mem → Mem) : (s.modMem f).power = s.power := rfl
@[simp] theorem State.modMem_bat (s : State) (f : Mem → Mem) : (s.modMem f).bat = s.bat := rfl
@[simp] theorem State.modMem_chans (s : State) (f : Mem → Mem) : (s.modMem f).chans = s.chans := rfl
@[simp] theorem State.modMem_posts (s : State) (f : Mem → Mem) : (s.modMem f).posts = s.posts := rfl
@[simp] theorem State.modMem_seqs (s : State) (f : Mem → Mem) : (s.modMem f).seqs = s.seqs := rfl
@[simp] theorem State.modMem_ibufs (s : State) (f : Mem → Mem) : (s.modMem f).ibufs = s.ibufs := rfl
@[simp] theorem State.modMem_pool (s : State) (f : Mem → Mem) : (s.modMem f).pool = s.pool := rfl
@[simp] theorem State.modMem_mem (s : State) (f : Mem → Mem) : (s.modMem f).mem = f s.mem := rfl
@[simp] theorem State.modMem_engines (s : State) (f : Mem → Mem) : (s.modMem f).engines = s.engines := rfl
@[simp] theorem State.modMem_groups (s : State) (f : Mem → Mem) : (s.modMem f).groups = s.groups := rfl
@[simp] theorem State.modMem_streams (s : State) (f : Mem → Mem) : (s.modMem f).streams = s.streams := rfl
@[simp] theorem State.modMem_crcs (s : State) (f : Mem → Mem) : (s.modMem f).crcs = s.crcs := rfl
@[simp] theorem State.modMem_bss (s : State) (f : Mem → Mem) : (s.modMem f).bss = s.bss := rfl
@[simp] theorem State.modMem_lcs (s : State) (f : Mem → Mem) : (s.modMem f).lcs = s.lcs := rfl
@[simp] theorem State.modMem_gds (s : State) (f : Mem → Mem) : (s.modMem f).gds = s.gds := rfl
@[simp] theorem State.modMem_abs_ (s : State) (f : Mem → Mem) : (s.modMem f).abs_ = s.abs_ := rfl
@[simp] theorem State.modMem_sn (s : State) (f : Mem → Mem) : (s.modMem f).sn = s.sn := rfl
@[simp] theorem State.modMem_ta (s : State) (f : Mem → Mem) : (s.modMem f).ta = s.ta := rfl
@[simp] theorem State.modMem_eic (s : State) (f : Mem → Mem) : (s.modMem f).eic = s.eic := rfl
@[simp] theorem State.modMem_cs (s : State) (f : Mem → Mem) : (s.modMem f).cs = s.cs := rfl
@[simp] theorem State.modMem_sec (s : State) (f : Mem → Mem) : (s.modMem f).sec = s.sec := rfl
@[simp] theorem State.modMem_vault (s : State) (f : Mem → Mem) : (s.modMem f).vault = s.vault := rfl
@[simp] theorem State.modMem_dbg (s : State) (f : Mem → Mem) : (s.modMem f).dbg = s.dbg := rfl
@[simp] theorem State.modMem_cw (s : State) (f : Mem → Mem) : (s.modMem f).cw = s.cw := rfl
@[simp] theorem State.modMem_pending (s : State) (f : Mem → Mem) : (s.modMem f).pending = s.pending := rfl
@[simp] theorem State.modMem_free (s : State) (f : Mem → Mem) : (s.modMem f).free = s.free := rfl

@[simp] theorem State.modCs_beryl (s : State) (f : ControlStore → ControlStore) : (s.modCs f).beryl = s.beryl := rfl
@[simp] theorem State.modCs_lanes (s : State) (f : ControlStore → ControlStore) : (s.modCs f).lanes = s.lanes := rfl
@[simp] theorem State.modCs_hp (s : State) (f : ControlStore → ControlStore) : (s.modCs f).hp = s.hp := rfl
@[simp] theorem State.modCs_xf (s : State) (f : ControlStore → ControlStore) : (s.modCs f).xf = s.xf := rfl
@[simp] theorem State.modCs_key (s : State) (f : ControlStore → ControlStore) : (s.modCs f).key = s.key := rfl
@[simp] theorem State.modCs_power (s : State) (f : ControlStore → ControlStore) : (s.modCs f).power = s.power := rfl
@[simp] theorem State.modCs_bat (s : State) (f : ControlStore → ControlStore) : (s.modCs f).bat = s.bat := rfl
@[simp] theorem State.modCs_chans (s : State) (f : ControlStore → ControlStore) : (s.modCs f).chans = s.chans := rfl
@[simp] theorem State.modCs_posts (s : State) (f : ControlStore → ControlStore) : (s.modCs f).posts = s.posts := rfl
@[simp] theorem State.modCs_seqs (s : State) (f : ControlStore → ControlStore) : (s.modCs f).seqs = s.seqs := rfl
@[simp] theorem State.modCs_ibufs (s : State) (f : ControlStore → ControlStore) : (s.modCs f).ibufs = s.ibufs := rfl
@[simp] theorem State.modCs_pool (s : State) (f : ControlStore → ControlStore) : (s.modCs f).pool = s.pool := rfl
@[simp] theorem State.modCs_mem (s : State) (f : ControlStore → ControlStore) : (s.modCs f).mem = s.mem := rfl
@[simp] theorem State.modCs_engines (s : State) (f : ControlStore → ControlStore) : (s.modCs f).engines = s.engines := rfl
@[simp] theorem State.modCs_groups (s : State) (f : ControlStore → ControlStore) : (s.modCs f).groups = s.groups := rfl
@[simp] theorem State.modCs_streams (s : State) (f : ControlStore → ControlStore) : (s.modCs f).streams = s.streams := rfl
@[simp] theorem State.modCs_crcs (s : State) (f : ControlStore → ControlStore) : (s.modCs f).crcs = s.crcs := rfl
@[simp] theorem State.modCs_bss (s : State) (f : ControlStore → ControlStore) : (s.modCs f).bss = s.bss := rfl
@[simp] theorem State.modCs_lcs (s : State) (f : ControlStore → ControlStore) : (s.modCs f).lcs = s.lcs := rfl
@[simp] theorem State.modCs_gds (s : State) (f : ControlStore → ControlStore) : (s.modCs f).gds = s.gds := rfl
@[simp] theorem State.modCs_abs_ (s : State) (f : ControlStore → ControlStore) : (s.modCs f).abs_ = s.abs_ := rfl
@[simp] theorem State.modCs_sn (s : State) (f : ControlStore → ControlStore) : (s.modCs f).sn = s.sn := rfl
@[simp] theorem State.modCs_ta (s : State) (f : ControlStore → ControlStore) : (s.modCs f).ta = s.ta := rfl
@[simp] theorem State.modCs_eic (s : State) (f : ControlStore → ControlStore) : (s.modCs f).eic = s.eic := rfl
@[simp] theorem State.modCs_cs (s : State) (f : ControlStore → ControlStore) : (s.modCs f).cs = f s.cs := rfl
@[simp] theorem State.modCs_sec (s : State) (f : ControlStore → ControlStore) : (s.modCs f).sec = s.sec := rfl
@[simp] theorem State.modCs_vault (s : State) (f : ControlStore → ControlStore) : (s.modCs f).vault = s.vault := rfl
@[simp] theorem State.modCs_dbg (s : State) (f : ControlStore → ControlStore) : (s.modCs f).dbg = s.dbg := rfl
@[simp] theorem State.modCs_cw (s : State) (f : ControlStore → ControlStore) : (s.modCs f).cw = s.cw := rfl
@[simp] theorem State.modCs_pending (s : State) (f : ControlStore → ControlStore) : (s.modCs f).pending = s.pending := rfl
@[simp] theorem State.modCs_free (s : State) (f : ControlStore → ControlStore) : (s.modCs f).free = s.free := rfl

@[simp] theorem State.modSec_beryl (s : State) (f : Security → Security) : (s.modSec f).beryl = s.beryl := rfl
@[simp] theorem State.modSec_lanes (s : State) (f : Security → Security) : (s.modSec f).lanes = s.lanes := rfl
@[simp] theorem State.modSec_hp (s : State) (f : Security → Security) : (s.modSec f).hp = s.hp := rfl
@[simp] theorem State.modSec_xf (s : State) (f : Security → Security) : (s.modSec f).xf = s.xf := rfl
@[simp] theorem State.modSec_key (s : State) (f : Security → Security) : (s.modSec f).key = s.key := rfl
@[simp] theorem State.modSec_power (s : State) (f : Security → Security) : (s.modSec f).power = s.power := rfl
@[simp] theorem State.modSec_bat (s : State) (f : Security → Security) : (s.modSec f).bat = s.bat := rfl
@[simp] theorem State.modSec_chans (s : State) (f : Security → Security) : (s.modSec f).chans = s.chans := rfl
@[simp] theorem State.modSec_posts (s : State) (f : Security → Security) : (s.modSec f).posts = s.posts := rfl
@[simp] theorem State.modSec_seqs (s : State) (f : Security → Security) : (s.modSec f).seqs = s.seqs := rfl
@[simp] theorem State.modSec_ibufs (s : State) (f : Security → Security) : (s.modSec f).ibufs = s.ibufs := rfl
@[simp] theorem State.modSec_pool (s : State) (f : Security → Security) : (s.modSec f).pool = s.pool := rfl
@[simp] theorem State.modSec_mem (s : State) (f : Security → Security) : (s.modSec f).mem = s.mem := rfl
@[simp] theorem State.modSec_engines (s : State) (f : Security → Security) : (s.modSec f).engines = s.engines := rfl
@[simp] theorem State.modSec_groups (s : State) (f : Security → Security) : (s.modSec f).groups = s.groups := rfl
@[simp] theorem State.modSec_streams (s : State) (f : Security → Security) : (s.modSec f).streams = s.streams := rfl
@[simp] theorem State.modSec_crcs (s : State) (f : Security → Security) : (s.modSec f).crcs = s.crcs := rfl
@[simp] theorem State.modSec_bss (s : State) (f : Security → Security) : (s.modSec f).bss = s.bss := rfl
@[simp] theorem State.modSec_lcs (s : State) (f : Security → Security) : (s.modSec f).lcs = s.lcs := rfl
@[simp] theorem State.modSec_gds (s : State) (f : Security → Security) : (s.modSec f).gds = s.gds := rfl
@[simp] theorem State.modSec_abs_ (s : State) (f : Security → Security) : (s.modSec f).abs_ = s.abs_ := rfl
@[simp] theorem State.modSec_sn (s : State) (f : Security → Security) : (s.modSec f).sn = s.sn := rfl
@[simp] theorem State.modSec_ta (s : State) (f : Security → Security) : (s.modSec f).ta = s.ta := rfl
@[simp] theorem State.modSec_eic (s : State) (f : Security → Security) : (s.modSec f).eic = s.eic := rfl
@[simp] theorem State.modSec_cs (s : State) (f : Security → Security) : (s.modSec f).cs = s.cs := rfl
@[simp] theorem State.modSec_sec (s : State) (f : Security → Security) : (s.modSec f).sec = f s.sec := rfl
@[simp] theorem State.modSec_vault (s : State) (f : Security → Security) : (s.modSec f).vault = s.vault := rfl
@[simp] theorem State.modSec_dbg (s : State) (f : Security → Security) : (s.modSec f).dbg = s.dbg := rfl
@[simp] theorem State.modSec_cw (s : State) (f : Security → Security) : (s.modSec f).cw = s.cw := rfl
@[simp] theorem State.modSec_pending (s : State) (f : Security → Security) : (s.modSec f).pending = s.pending := rfl
@[simp] theorem State.modSec_free (s : State) (f : Security → Security) : (s.modSec f).free = s.free := rfl

@[simp] theorem State.modLd_beryl (s : State) (f : Loader → Loader) : (s.modLd f).beryl = s.beryl := rfl
@[simp] theorem State.modLd_lanes (s : State) (f : Loader → Loader) : (s.modLd f).lanes = s.lanes := rfl
@[simp] theorem State.modLd_hp (s : State) (f : Loader → Loader) : (s.modLd f).hp = s.hp := rfl
@[simp] theorem State.modLd_xf (s : State) (f : Loader → Loader) : (s.modLd f).xf = s.xf := rfl
@[simp] theorem State.modLd_key (s : State) (f : Loader → Loader) : (s.modLd f).key = s.key := rfl
@[simp] theorem State.modLd_power (s : State) (f : Loader → Loader) : (s.modLd f).power = s.power := rfl
@[simp] theorem State.modLd_bat (s : State) (f : Loader → Loader) : (s.modLd f).bat = s.bat := rfl
@[simp] theorem State.modLd_chans (s : State) (f : Loader → Loader) : (s.modLd f).chans = s.chans := rfl
@[simp] theorem State.modLd_posts (s : State) (f : Loader → Loader) : (s.modLd f).posts = s.posts := rfl
@[simp] theorem State.modLd_seqs (s : State) (f : Loader → Loader) : (s.modLd f).seqs = s.seqs := rfl
@[simp] theorem State.modLd_ibufs (s : State) (f : Loader → Loader) : (s.modLd f).ibufs = s.ibufs := rfl
@[simp] theorem State.modLd_pool (s : State) (f : Loader → Loader) : (s.modLd f).pool = s.pool := rfl
@[simp] theorem State.modLd_mem (s : State) (f : Loader → Loader) : (s.modLd f).mem = s.mem := rfl
@[simp] theorem State.modLd_engines (s : State) (f : Loader → Loader) : (s.modLd f).engines = s.engines := rfl
@[simp] theorem State.modLd_groups (s : State) (f : Loader → Loader) : (s.modLd f).groups = s.groups := rfl
@[simp] theorem State.modLd_streams (s : State) (f : Loader → Loader) : (s.modLd f).streams = s.streams := rfl
@[simp] theorem State.modLd_crcs (s : State) (f : Loader → Loader) : (s.modLd f).crcs = s.crcs := rfl
@[simp] theorem State.modLd_bss (s : State) (f : Loader → Loader) : (s.modLd f).bss = s.bss := rfl
@[simp] theorem State.modLd_lcs (s : State) (f : Loader → Loader) : (s.modLd f).lcs = s.lcs := rfl
@[simp] theorem State.modLd_gds (s : State) (f : Loader → Loader) : (s.modLd f).gds = s.gds := rfl
@[simp] theorem State.modLd_abs_ (s : State) (f : Loader → Loader) : (s.modLd f).abs_ = s.abs_ := rfl
@[simp] theorem State.modLd_sn (s : State) (f : Loader → Loader) : (s.modLd f).sn = s.sn := rfl
@[simp] theorem State.modLd_ta (s : State) (f : Loader → Loader) : (s.modLd f).ta = s.ta := rfl
@[simp] theorem State.modLd_eic (s : State) (f : Loader → Loader) : (s.modLd f).eic = s.eic := rfl
@[simp] theorem State.modLd_cs (s : State) (f : Loader → Loader) : (s.modLd f).cs = s.cs := rfl
@[simp] theorem State.modLd_sec (s : State) (f : Loader → Loader) : (s.modLd f).sec = { s.sec with ld := f s.sec.ld } := rfl
@[simp] theorem State.modLd_vault (s : State) (f : Loader → Loader) : (s.modLd f).vault = s.vault := rfl
@[simp] theorem State.modLd_dbg (s : State) (f : Loader → Loader) : (s.modLd f).dbg = s.dbg := rfl
@[simp] theorem State.modLd_cw (s : State) (f : Loader → Loader) : (s.modLd f).cw = s.cw := rfl
@[simp] theorem State.modLd_pending (s : State) (f : Loader → Loader) : (s.modLd f).pending = s.pending := rfl
@[simp] theorem State.modLd_free (s : State) (f : Loader → Loader) : (s.modLd f).free = s.free := rfl

@[simp] theorem State.modVault_beryl (s : State) (f : Vault → Vault) : (s.modVault f).beryl = s.beryl := rfl
@[simp] theorem State.modVault_lanes (s : State) (f : Vault → Vault) : (s.modVault f).lanes = s.lanes := rfl
@[simp] theorem State.modVault_hp (s : State) (f : Vault → Vault) : (s.modVault f).hp = s.hp := rfl
@[simp] theorem State.modVault_xf (s : State) (f : Vault → Vault) : (s.modVault f).xf = s.xf := rfl
@[simp] theorem State.modVault_key (s : State) (f : Vault → Vault) : (s.modVault f).key = s.key := rfl
@[simp] theorem State.modVault_power (s : State) (f : Vault → Vault) : (s.modVault f).power = s.power := rfl
@[simp] theorem State.modVault_bat (s : State) (f : Vault → Vault) : (s.modVault f).bat = s.bat := rfl
@[simp] theorem State.modVault_chans (s : State) (f : Vault → Vault) : (s.modVault f).chans = s.chans := rfl
@[simp] theorem State.modVault_posts (s : State) (f : Vault → Vault) : (s.modVault f).posts = s.posts := rfl
@[simp] theorem State.modVault_seqs (s : State) (f : Vault → Vault) : (s.modVault f).seqs = s.seqs := rfl
@[simp] theorem State.modVault_ibufs (s : State) (f : Vault → Vault) : (s.modVault f).ibufs = s.ibufs := rfl
@[simp] theorem State.modVault_pool (s : State) (f : Vault → Vault) : (s.modVault f).pool = s.pool := rfl
@[simp] theorem State.modVault_mem (s : State) (f : Vault → Vault) : (s.modVault f).mem = s.mem := rfl
@[simp] theorem State.modVault_engines (s : State) (f : Vault → Vault) : (s.modVault f).engines = s.engines := rfl
@[simp] theorem State.modVault_groups (s : State) (f : Vault → Vault) : (s.modVault f).groups = s.groups := rfl
@[simp] theorem State.modVault_streams (s : State) (f : Vault → Vault) : (s.modVault f).streams = s.streams := rfl
@[simp] theorem State.modVault_crcs (s : State) (f : Vault → Vault) : (s.modVault f).crcs = s.crcs := rfl
@[simp] theorem State.modVault_bss (s : State) (f : Vault → Vault) : (s.modVault f).bss = s.bss := rfl
@[simp] theorem State.modVault_lcs (s : State) (f : Vault → Vault) : (s.modVault f).lcs = s.lcs := rfl
@[simp] theorem State.modVault_gds (s : State) (f : Vault → Vault) : (s.modVault f).gds = s.gds := rfl
@[simp] theorem State.modVault_abs_ (s : State) (f : Vault → Vault) : (s.modVault f).abs_ = s.abs_ := rfl
@[simp] theorem State.modVault_sn (s : State) (f : Vault → Vault) : (s.modVault f).sn = s.sn := rfl
@[simp] theorem State.modVault_ta (s : State) (f : Vault → Vault) : (s.modVault f).ta = s.ta := rfl
@[simp] theorem State.modVault_eic (s : State) (f : Vault → Vault) : (s.modVault f).eic = s.eic := rfl
@[simp] theorem State.modVault_cs (s : State) (f : Vault → Vault) : (s.modVault f).cs = s.cs := rfl
@[simp] theorem State.modVault_sec (s : State) (f : Vault → Vault) : (s.modVault f).sec = s.sec := rfl
@[simp] theorem State.modVault_vault (s : State) (f : Vault → Vault) : (s.modVault f).vault = f s.vault := rfl
@[simp] theorem State.modVault_dbg (s : State) (f : Vault → Vault) : (s.modVault f).dbg = s.dbg := rfl
@[simp] theorem State.modVault_cw (s : State) (f : Vault → Vault) : (s.modVault f).cw = s.cw := rfl
@[simp] theorem State.modVault_pending (s : State) (f : Vault → Vault) : (s.modVault f).pending = s.pending := rfl
@[simp] theorem State.modVault_free (s : State) (f : Vault → Vault) : (s.modVault f).free = s.free := rfl

@[simp] theorem State.modDbg_beryl (s : State) (f : Debug → Debug) : (s.modDbg f).beryl = s.beryl := rfl
@[simp] theorem State.modDbg_lanes (s : State) (f : Debug → Debug) : (s.modDbg f).lanes = s.lanes := rfl
@[simp] theorem State.modDbg_hp (s : State) (f : Debug → Debug) : (s.modDbg f).hp = s.hp := rfl
@[simp] theorem State.modDbg_xf (s : State) (f : Debug → Debug) : (s.modDbg f).xf = s.xf := rfl
@[simp] theorem State.modDbg_key (s : State) (f : Debug → Debug) : (s.modDbg f).key = s.key := rfl
@[simp] theorem State.modDbg_power (s : State) (f : Debug → Debug) : (s.modDbg f).power = s.power := rfl
@[simp] theorem State.modDbg_bat (s : State) (f : Debug → Debug) : (s.modDbg f).bat = s.bat := rfl
@[simp] theorem State.modDbg_chans (s : State) (f : Debug → Debug) : (s.modDbg f).chans = s.chans := rfl
@[simp] theorem State.modDbg_posts (s : State) (f : Debug → Debug) : (s.modDbg f).posts = s.posts := rfl
@[simp] theorem State.modDbg_seqs (s : State) (f : Debug → Debug) : (s.modDbg f).seqs = s.seqs := rfl
@[simp] theorem State.modDbg_ibufs (s : State) (f : Debug → Debug) : (s.modDbg f).ibufs = s.ibufs := rfl
@[simp] theorem State.modDbg_pool (s : State) (f : Debug → Debug) : (s.modDbg f).pool = s.pool := rfl
@[simp] theorem State.modDbg_mem (s : State) (f : Debug → Debug) : (s.modDbg f).mem = s.mem := rfl
@[simp] theorem State.modDbg_engines (s : State) (f : Debug → Debug) : (s.modDbg f).engines = s.engines := rfl
@[simp] theorem State.modDbg_groups (s : State) (f : Debug → Debug) : (s.modDbg f).groups = s.groups := rfl
@[simp] theorem State.modDbg_streams (s : State) (f : Debug → Debug) : (s.modDbg f).streams = s.streams := rfl
@[simp] theorem State.modDbg_crcs (s : State) (f : Debug → Debug) : (s.modDbg f).crcs = s.crcs := rfl
@[simp] theorem State.modDbg_bss (s : State) (f : Debug → Debug) : (s.modDbg f).bss = s.bss := rfl
@[simp] theorem State.modDbg_lcs (s : State) (f : Debug → Debug) : (s.modDbg f).lcs = s.lcs := rfl
@[simp] theorem State.modDbg_gds (s : State) (f : Debug → Debug) : (s.modDbg f).gds = s.gds := rfl
@[simp] theorem State.modDbg_abs_ (s : State) (f : Debug → Debug) : (s.modDbg f).abs_ = s.abs_ := rfl
@[simp] theorem State.modDbg_sn (s : State) (f : Debug → Debug) : (s.modDbg f).sn = s.sn := rfl
@[simp] theorem State.modDbg_ta (s : State) (f : Debug → Debug) : (s.modDbg f).ta = s.ta := rfl
@[simp] theorem State.modDbg_eic (s : State) (f : Debug → Debug) : (s.modDbg f).eic = s.eic := rfl
@[simp] theorem State.modDbg_cs (s : State) (f : Debug → Debug) : (s.modDbg f).cs = s.cs := rfl
@[simp] theorem State.modDbg_sec (s : State) (f : Debug → Debug) : (s.modDbg f).sec = s.sec := rfl
@[simp] theorem State.modDbg_vault (s : State) (f : Debug → Debug) : (s.modDbg f).vault = s.vault := rfl
@[simp] theorem State.modDbg_dbg (s : State) (f : Debug → Debug) : (s.modDbg f).dbg = f s.dbg := rfl
@[simp] theorem State.modDbg_cw (s : State) (f : Debug → Debug) : (s.modDbg f).cw = s.cw := rfl
@[simp] theorem State.modDbg_pending (s : State) (f : Debug → Debug) : (s.modDbg f).pending = s.pending := rfl
@[simp] theorem State.modDbg_free (s : State) (f : Debug → Debug) : (s.modDbg f).free = s.free := rfl

@[simp] theorem State.modDsq_beryl (s : State) (n : Fin 16) (f : DbgSeq → DbgSeq) : (s.modDsq n f).beryl = s.beryl := rfl
@[simp] theorem State.modDsq_lanes (s : State) (n : Fin 16) (f : DbgSeq → DbgSeq) : (s.modDsq n f).lanes = s.lanes := rfl
@[simp] theorem State.modDsq_hp (s : State) (n : Fin 16) (f : DbgSeq → DbgSeq) : (s.modDsq n f).hp = s.hp := rfl
@[simp] theorem State.modDsq_xf (s : State) (n : Fin 16) (f : DbgSeq → DbgSeq) : (s.modDsq n f).xf = s.xf := rfl
@[simp] theorem State.modDsq_key (s : State) (n : Fin 16) (f : DbgSeq → DbgSeq) : (s.modDsq n f).key = s.key := rfl
@[simp] theorem State.modDsq_power (s : State) (n : Fin 16) (f : DbgSeq → DbgSeq) : (s.modDsq n f).power = s.power := rfl
@[simp] theorem State.modDsq_bat (s : State) (n : Fin 16) (f : DbgSeq → DbgSeq) : (s.modDsq n f).bat = s.bat := rfl
@[simp] theorem State.modDsq_chans (s : State) (n : Fin 16) (f : DbgSeq → DbgSeq) : (s.modDsq n f).chans = s.chans := rfl
@[simp] theorem State.modDsq_posts (s : State) (n : Fin 16) (f : DbgSeq → DbgSeq) : (s.modDsq n f).posts = s.posts := rfl
@[simp] theorem State.modDsq_seqs (s : State) (n : Fin 16) (f : DbgSeq → DbgSeq) : (s.modDsq n f).seqs = s.seqs := rfl
@[simp] theorem State.modDsq_ibufs (s : State) (n : Fin 16) (f : DbgSeq → DbgSeq) : (s.modDsq n f).ibufs = s.ibufs := rfl
@[simp] theorem State.modDsq_pool (s : State) (n : Fin 16) (f : DbgSeq → DbgSeq) : (s.modDsq n f).pool = s.pool := rfl
@[simp] theorem State.modDsq_mem (s : State) (n : Fin 16) (f : DbgSeq → DbgSeq) : (s.modDsq n f).mem = s.mem := rfl
@[simp] theorem State.modDsq_engines (s : State) (n : Fin 16) (f : DbgSeq → DbgSeq) : (s.modDsq n f).engines = s.engines := rfl
@[simp] theorem State.modDsq_groups (s : State) (n : Fin 16) (f : DbgSeq → DbgSeq) : (s.modDsq n f).groups = s.groups := rfl
@[simp] theorem State.modDsq_streams (s : State) (n : Fin 16) (f : DbgSeq → DbgSeq) : (s.modDsq n f).streams = s.streams := rfl
@[simp] theorem State.modDsq_crcs (s : State) (n : Fin 16) (f : DbgSeq → DbgSeq) : (s.modDsq n f).crcs = s.crcs := rfl
@[simp] theorem State.modDsq_bss (s : State) (n : Fin 16) (f : DbgSeq → DbgSeq) : (s.modDsq n f).bss = s.bss := rfl
@[simp] theorem State.modDsq_lcs (s : State) (n : Fin 16) (f : DbgSeq → DbgSeq) : (s.modDsq n f).lcs = s.lcs := rfl
@[simp] theorem State.modDsq_gds (s : State) (n : Fin 16) (f : DbgSeq → DbgSeq) : (s.modDsq n f).gds = s.gds := rfl
@[simp] theorem State.modDsq_abs_ (s : State) (n : Fin 16) (f : DbgSeq → DbgSeq) : (s.modDsq n f).abs_ = s.abs_ := rfl
@[simp] theorem State.modDsq_sn (s : State) (n : Fin 16) (f : DbgSeq → DbgSeq) : (s.modDsq n f).sn = s.sn := rfl
@[simp] theorem State.modDsq_ta (s : State) (n : Fin 16) (f : DbgSeq → DbgSeq) : (s.modDsq n f).ta = s.ta := rfl
@[simp] theorem State.modDsq_eic (s : State) (n : Fin 16) (f : DbgSeq → DbgSeq) : (s.modDsq n f).eic = s.eic := rfl
@[simp] theorem State.modDsq_cs (s : State) (n : Fin 16) (f : DbgSeq → DbgSeq) : (s.modDsq n f).cs = s.cs := rfl
@[simp] theorem State.modDsq_sec (s : State) (n : Fin 16) (f : DbgSeq → DbgSeq) : (s.modDsq n f).sec = s.sec := rfl
@[simp] theorem State.modDsq_vault (s : State) (n : Fin 16) (f : DbgSeq → DbgSeq) : (s.modDsq n f).vault = s.vault := rfl
@[simp] theorem State.modDsq_dbg (s : State) (n : Fin 16) (f : DbgSeq → DbgSeq) : (s.modDsq n f).dbg = { s.dbg with sqs := s.dbg.sqs.mod n f } := rfl
@[simp] theorem State.modDsq_cw (s : State) (n : Fin 16) (f : DbgSeq → DbgSeq) : (s.modDsq n f).cw = s.cw := rfl
@[simp] theorem State.modDsq_pending (s : State) (n : Fin 16) (f : DbgSeq → DbgSeq) : (s.modDsq n f).pending = s.pending := rfl
@[simp] theorem State.modDsq_free (s : State) (n : Fin 16) (f : DbgSeq → DbgSeq) : (s.modDsq n f).free = s.free := rfl

@[simp] theorem State.modPort_beryl (s : State) (f : VylerPort → VylerPort) : (s.modPort f).beryl = s.beryl := rfl
@[simp] theorem State.modPort_lanes (s : State) (f : VylerPort → VylerPort) : (s.modPort f).lanes = s.lanes := rfl
@[simp] theorem State.modPort_hp (s : State) (f : VylerPort → VylerPort) : (s.modPort f).hp = s.hp := rfl
@[simp] theorem State.modPort_xf (s : State) (f : VylerPort → VylerPort) : (s.modPort f).xf = s.xf := rfl
@[simp] theorem State.modPort_key (s : State) (f : VylerPort → VylerPort) : (s.modPort f).key = s.key := rfl
@[simp] theorem State.modPort_power (s : State) (f : VylerPort → VylerPort) : (s.modPort f).power = s.power := rfl
@[simp] theorem State.modPort_bat (s : State) (f : VylerPort → VylerPort) : (s.modPort f).bat = s.bat := rfl
@[simp] theorem State.modPort_chans (s : State) (f : VylerPort → VylerPort) : (s.modPort f).chans = s.chans := rfl
@[simp] theorem State.modPort_posts (s : State) (f : VylerPort → VylerPort) : (s.modPort f).posts = s.posts := rfl
@[simp] theorem State.modPort_seqs (s : State) (f : VylerPort → VylerPort) : (s.modPort f).seqs = s.seqs := rfl
@[simp] theorem State.modPort_ibufs (s : State) (f : VylerPort → VylerPort) : (s.modPort f).ibufs = s.ibufs := rfl
@[simp] theorem State.modPort_pool (s : State) (f : VylerPort → VylerPort) : (s.modPort f).pool = s.pool := rfl
@[simp] theorem State.modPort_mem (s : State) (f : VylerPort → VylerPort) : (s.modPort f).mem = s.mem := rfl
@[simp] theorem State.modPort_engines (s : State) (f : VylerPort → VylerPort) : (s.modPort f).engines = s.engines := rfl
@[simp] theorem State.modPort_groups (s : State) (f : VylerPort → VylerPort) : (s.modPort f).groups = s.groups := rfl
@[simp] theorem State.modPort_streams (s : State) (f : VylerPort → VylerPort) : (s.modPort f).streams = s.streams := rfl
@[simp] theorem State.modPort_crcs (s : State) (f : VylerPort → VylerPort) : (s.modPort f).crcs = s.crcs := rfl
@[simp] theorem State.modPort_bss (s : State) (f : VylerPort → VylerPort) : (s.modPort f).bss = s.bss := rfl
@[simp] theorem State.modPort_lcs (s : State) (f : VylerPort → VylerPort) : (s.modPort f).lcs = s.lcs := rfl
@[simp] theorem State.modPort_gds (s : State) (f : VylerPort → VylerPort) : (s.modPort f).gds = s.gds := rfl
@[simp] theorem State.modPort_abs_ (s : State) (f : VylerPort → VylerPort) : (s.modPort f).abs_ = s.abs_ := rfl
@[simp] theorem State.modPort_sn (s : State) (f : VylerPort → VylerPort) : (s.modPort f).sn = s.sn := rfl
@[simp] theorem State.modPort_ta (s : State) (f : VylerPort → VylerPort) : (s.modPort f).ta = s.ta := rfl
@[simp] theorem State.modPort_eic (s : State) (f : VylerPort → VylerPort) : (s.modPort f).eic = s.eic := rfl
@[simp] theorem State.modPort_cs (s : State) (f : VylerPort → VylerPort) : (s.modPort f).cs = s.cs := rfl
@[simp] theorem State.modPort_sec (s : State) (f : VylerPort → VylerPort) : (s.modPort f).sec = s.sec := rfl
@[simp] theorem State.modPort_vault (s : State) (f : VylerPort → VylerPort) : (s.modPort f).vault = s.vault := rfl
@[simp] theorem State.modPort_dbg (s : State) (f : VylerPort → VylerPort) : (s.modPort f).dbg = { s.dbg with port := f s.dbg.port } := rfl
@[simp] theorem State.modPort_cw (s : State) (f : VylerPort → VylerPort) : (s.modPort f).cw = s.cw := rfl
@[simp] theorem State.modPort_pending (s : State) (f : VylerPort → VylerPort) : (s.modPort f).pending = s.pending := rfl
@[simp] theorem State.modPort_free (s : State) (f : VylerPort → VylerPort) : (s.modPort f).free = s.free := rfl

@[simp] theorem State.modCw_beryl (s : State) (f : Carnelian → Carnelian) : (s.modCw f).beryl = s.beryl := rfl
@[simp] theorem State.modCw_lanes (s : State) (f : Carnelian → Carnelian) : (s.modCw f).lanes = s.lanes := rfl
@[simp] theorem State.modCw_hp (s : State) (f : Carnelian → Carnelian) : (s.modCw f).hp = s.hp := rfl
@[simp] theorem State.modCw_xf (s : State) (f : Carnelian → Carnelian) : (s.modCw f).xf = s.xf := rfl
@[simp] theorem State.modCw_key (s : State) (f : Carnelian → Carnelian) : (s.modCw f).key = s.key := rfl
@[simp] theorem State.modCw_power (s : State) (f : Carnelian → Carnelian) : (s.modCw f).power = s.power := rfl
@[simp] theorem State.modCw_bat (s : State) (f : Carnelian → Carnelian) : (s.modCw f).bat = s.bat := rfl
@[simp] theorem State.modCw_chans (s : State) (f : Carnelian → Carnelian) : (s.modCw f).chans = s.chans := rfl
@[simp] theorem State.modCw_posts (s : State) (f : Carnelian → Carnelian) : (s.modCw f).posts = s.posts := rfl
@[simp] theorem State.modCw_seqs (s : State) (f : Carnelian → Carnelian) : (s.modCw f).seqs = s.seqs := rfl
@[simp] theorem State.modCw_ibufs (s : State) (f : Carnelian → Carnelian) : (s.modCw f).ibufs = s.ibufs := rfl
@[simp] theorem State.modCw_pool (s : State) (f : Carnelian → Carnelian) : (s.modCw f).pool = s.pool := rfl
@[simp] theorem State.modCw_mem (s : State) (f : Carnelian → Carnelian) : (s.modCw f).mem = s.mem := rfl
@[simp] theorem State.modCw_engines (s : State) (f : Carnelian → Carnelian) : (s.modCw f).engines = s.engines := rfl
@[simp] theorem State.modCw_groups (s : State) (f : Carnelian → Carnelian) : (s.modCw f).groups = s.groups := rfl
@[simp] theorem State.modCw_streams (s : State) (f : Carnelian → Carnelian) : (s.modCw f).streams = s.streams := rfl
@[simp] theorem State.modCw_crcs (s : State) (f : Carnelian → Carnelian) : (s.modCw f).crcs = s.crcs := rfl
@[simp] theorem State.modCw_bss (s : State) (f : Carnelian → Carnelian) : (s.modCw f).bss = s.bss := rfl
@[simp] theorem State.modCw_lcs (s : State) (f : Carnelian → Carnelian) : (s.modCw f).lcs = s.lcs := rfl
@[simp] theorem State.modCw_gds (s : State) (f : Carnelian → Carnelian) : (s.modCw f).gds = s.gds := rfl
@[simp] theorem State.modCw_abs_ (s : State) (f : Carnelian → Carnelian) : (s.modCw f).abs_ = s.abs_ := rfl
@[simp] theorem State.modCw_sn (s : State) (f : Carnelian → Carnelian) : (s.modCw f).sn = s.sn := rfl
@[simp] theorem State.modCw_ta (s : State) (f : Carnelian → Carnelian) : (s.modCw f).ta = s.ta := rfl
@[simp] theorem State.modCw_eic (s : State) (f : Carnelian → Carnelian) : (s.modCw f).eic = s.eic := rfl
@[simp] theorem State.modCw_cs (s : State) (f : Carnelian → Carnelian) : (s.modCw f).cs = s.cs := rfl
@[simp] theorem State.modCw_sec (s : State) (f : Carnelian → Carnelian) : (s.modCw f).sec = s.sec := rfl
@[simp] theorem State.modCw_vault (s : State) (f : Carnelian → Carnelian) : (s.modCw f).vault = s.vault := rfl
@[simp] theorem State.modCw_dbg (s : State) (f : Carnelian → Carnelian) : (s.modCw f).dbg = s.dbg := rfl
@[simp] theorem State.modCw_cw (s : State) (f : Carnelian → Carnelian) : (s.modCw f).cw = f s.cw := rfl
@[simp] theorem State.modCw_pending (s : State) (f : Carnelian → Carnelian) : (s.modCw f).pending = s.pending := rfl
@[simp] theorem State.modCw_free (s : State) (f : Carnelian → Carnelian) : (s.modCw f).free = s.free := rfl

@[simp] theorem State.modGd_beryl (s : State) (x : Fin 2) (f : Guardian → Guardian) : (s.modGd x f).beryl = s.beryl := rfl
@[simp] theorem State.modGd_lanes (s : State) (x : Fin 2) (f : Guardian → Guardian) : (s.modGd x f).lanes = s.lanes := rfl
@[simp] theorem State.modGd_hp (s : State) (x : Fin 2) (f : Guardian → Guardian) : (s.modGd x f).hp = s.hp := rfl
@[simp] theorem State.modGd_xf (s : State) (x : Fin 2) (f : Guardian → Guardian) : (s.modGd x f).xf = s.xf := rfl
@[simp] theorem State.modGd_key (s : State) (x : Fin 2) (f : Guardian → Guardian) : (s.modGd x f).key = s.key := rfl
@[simp] theorem State.modGd_power (s : State) (x : Fin 2) (f : Guardian → Guardian) : (s.modGd x f).power = s.power := rfl
@[simp] theorem State.modGd_bat (s : State) (x : Fin 2) (f : Guardian → Guardian) : (s.modGd x f).bat = s.bat := rfl
@[simp] theorem State.modGd_chans (s : State) (x : Fin 2) (f : Guardian → Guardian) : (s.modGd x f).chans = s.chans := rfl
@[simp] theorem State.modGd_posts (s : State) (x : Fin 2) (f : Guardian → Guardian) : (s.modGd x f).posts = s.posts := rfl
@[simp] theorem State.modGd_seqs (s : State) (x : Fin 2) (f : Guardian → Guardian) : (s.modGd x f).seqs = s.seqs := rfl
@[simp] theorem State.modGd_ibufs (s : State) (x : Fin 2) (f : Guardian → Guardian) : (s.modGd x f).ibufs = s.ibufs := rfl
@[simp] theorem State.modGd_pool (s : State) (x : Fin 2) (f : Guardian → Guardian) : (s.modGd x f).pool = s.pool := rfl
@[simp] theorem State.modGd_mem (s : State) (x : Fin 2) (f : Guardian → Guardian) : (s.modGd x f).mem = s.mem := rfl
@[simp] theorem State.modGd_engines (s : State) (x : Fin 2) (f : Guardian → Guardian) : (s.modGd x f).engines = s.engines := rfl
@[simp] theorem State.modGd_groups (s : State) (x : Fin 2) (f : Guardian → Guardian) : (s.modGd x f).groups = s.groups := rfl
@[simp] theorem State.modGd_streams (s : State) (x : Fin 2) (f : Guardian → Guardian) : (s.modGd x f).streams = s.streams := rfl
@[simp] theorem State.modGd_crcs (s : State) (x : Fin 2) (f : Guardian → Guardian) : (s.modGd x f).crcs = s.crcs := rfl
@[simp] theorem State.modGd_bss (s : State) (x : Fin 2) (f : Guardian → Guardian) : (s.modGd x f).bss = s.bss := rfl
@[simp] theorem State.modGd_lcs (s : State) (x : Fin 2) (f : Guardian → Guardian) : (s.modGd x f).lcs = s.lcs := rfl
@[simp] theorem State.modGd_gds (s : State) (x : Fin 2) (f : Guardian → Guardian) : (s.modGd x f).gds = s.gds.mod x f := rfl
@[simp] theorem State.modGd_abs_ (s : State) (x : Fin 2) (f : Guardian → Guardian) : (s.modGd x f).abs_ = s.abs_ := rfl
@[simp] theorem State.modGd_sn (s : State) (x : Fin 2) (f : Guardian → Guardian) : (s.modGd x f).sn = s.sn := rfl
@[simp] theorem State.modGd_ta (s : State) (x : Fin 2) (f : Guardian → Guardian) : (s.modGd x f).ta = s.ta := rfl
@[simp] theorem State.modGd_eic (s : State) (x : Fin 2) (f : Guardian → Guardian) : (s.modGd x f).eic = s.eic := rfl
@[simp] theorem State.modGd_cs (s : State) (x : Fin 2) (f : Guardian → Guardian) : (s.modGd x f).cs = s.cs := rfl
@[simp] theorem State.modGd_sec (s : State) (x : Fin 2) (f : Guardian → Guardian) : (s.modGd x f).sec = s.sec := rfl
@[simp] theorem State.modGd_vault (s : State) (x : Fin 2) (f : Guardian → Guardian) : (s.modGd x f).vault = s.vault := rfl
@[simp] theorem State.modGd_dbg (s : State) (x : Fin 2) (f : Guardian → Guardian) : (s.modGd x f).dbg = s.dbg := rfl
@[simp] theorem State.modGd_cw (s : State) (x : Fin 2) (f : Guardian → Guardian) : (s.modGd x f).cw = s.cw := rfl
@[simp] theorem State.modGd_pending (s : State) (x : Fin 2) (f : Guardian → Guardian) : (s.modGd x f).pending = s.pending := rfl
@[simp] theorem State.modGd_free (s : State) (x : Fin 2) (f : Guardian → Guardian) : (s.modGd x f).free = s.free := rfl

@[simp] theorem State.modAb_beryl (s : State) (k : Fin 16) (f : AbCell → AbCell) : (s.modAb k f).beryl = s.beryl := rfl
@[simp] theorem State.modAb_lanes (s : State) (k : Fin 16) (f : AbCell → AbCell) : (s.modAb k f).lanes = s.lanes := rfl
@[simp] theorem State.modAb_hp (s : State) (k : Fin 16) (f : AbCell → AbCell) : (s.modAb k f).hp = s.hp := rfl
@[simp] theorem State.modAb_xf (s : State) (k : Fin 16) (f : AbCell → AbCell) : (s.modAb k f).xf = s.xf := rfl
@[simp] theorem State.modAb_key (s : State) (k : Fin 16) (f : AbCell → AbCell) : (s.modAb k f).key = s.key := rfl
@[simp] theorem State.modAb_power (s : State) (k : Fin 16) (f : AbCell → AbCell) : (s.modAb k f).power = s.power := rfl
@[simp] theorem State.modAb_bat (s : State) (k : Fin 16) (f : AbCell → AbCell) : (s.modAb k f).bat = s.bat := rfl
@[simp] theorem State.modAb_chans (s : State) (k : Fin 16) (f : AbCell → AbCell) : (s.modAb k f).chans = s.chans := rfl
@[simp] theorem State.modAb_posts (s : State) (k : Fin 16) (f : AbCell → AbCell) : (s.modAb k f).posts = s.posts := rfl
@[simp] theorem State.modAb_seqs (s : State) (k : Fin 16) (f : AbCell → AbCell) : (s.modAb k f).seqs = s.seqs := rfl
@[simp] theorem State.modAb_ibufs (s : State) (k : Fin 16) (f : AbCell → AbCell) : (s.modAb k f).ibufs = s.ibufs := rfl
@[simp] theorem State.modAb_pool (s : State) (k : Fin 16) (f : AbCell → AbCell) : (s.modAb k f).pool = s.pool := rfl
@[simp] theorem State.modAb_mem (s : State) (k : Fin 16) (f : AbCell → AbCell) : (s.modAb k f).mem = s.mem := rfl
@[simp] theorem State.modAb_engines (s : State) (k : Fin 16) (f : AbCell → AbCell) : (s.modAb k f).engines = s.engines := rfl
@[simp] theorem State.modAb_groups (s : State) (k : Fin 16) (f : AbCell → AbCell) : (s.modAb k f).groups = s.groups := rfl
@[simp] theorem State.modAb_streams (s : State) (k : Fin 16) (f : AbCell → AbCell) : (s.modAb k f).streams = s.streams := rfl
@[simp] theorem State.modAb_crcs (s : State) (k : Fin 16) (f : AbCell → AbCell) : (s.modAb k f).crcs = s.crcs := rfl
@[simp] theorem State.modAb_bss (s : State) (k : Fin 16) (f : AbCell → AbCell) : (s.modAb k f).bss = s.bss := rfl
@[simp] theorem State.modAb_lcs (s : State) (k : Fin 16) (f : AbCell → AbCell) : (s.modAb k f).lcs = s.lcs := rfl
@[simp] theorem State.modAb_gds (s : State) (k : Fin 16) (f : AbCell → AbCell) : (s.modAb k f).gds = s.gds := rfl
@[simp] theorem State.modAb_abs_ (s : State) (k : Fin 16) (f : AbCell → AbCell) : (s.modAb k f).abs_ = s.abs_.mod k f := rfl
@[simp] theorem State.modAb_sn (s : State) (k : Fin 16) (f : AbCell → AbCell) : (s.modAb k f).sn = s.sn := rfl
@[simp] theorem State.modAb_ta (s : State) (k : Fin 16) (f : AbCell → AbCell) : (s.modAb k f).ta = s.ta := rfl
@[simp] theorem State.modAb_eic (s : State) (k : Fin 16) (f : AbCell → AbCell) : (s.modAb k f).eic = s.eic := rfl
@[simp] theorem State.modAb_cs (s : State) (k : Fin 16) (f : AbCell → AbCell) : (s.modAb k f).cs = s.cs := rfl
@[simp] theorem State.modAb_sec (s : State) (k : Fin 16) (f : AbCell → AbCell) : (s.modAb k f).sec = s.sec := rfl
@[simp] theorem State.modAb_vault (s : State) (k : Fin 16) (f : AbCell → AbCell) : (s.modAb k f).vault = s.vault := rfl
@[simp] theorem State.modAb_dbg (s : State) (k : Fin 16) (f : AbCell → AbCell) : (s.modAb k f).dbg = s.dbg := rfl
@[simp] theorem State.modAb_cw (s : State) (k : Fin 16) (f : AbCell → AbCell) : (s.modAb k f).cw = s.cw := rfl
@[simp] theorem State.modAb_pending (s : State) (k : Fin 16) (f : AbCell → AbCell) : (s.modAb k f).pending = s.pending := rfl
@[simp] theorem State.modAb_free (s : State) (k : Fin 16) (f : AbCell → AbCell) : (s.modAb k f).free = s.free := rfl

@[simp] theorem State.modSn_beryl (s : State) (f : Spinel → Spinel) : (s.modSn f).beryl = s.beryl := rfl
@[simp] theorem State.modSn_lanes (s : State) (f : Spinel → Spinel) : (s.modSn f).lanes = s.lanes := rfl
@[simp] theorem State.modSn_hp (s : State) (f : Spinel → Spinel) : (s.modSn f).hp = s.hp := rfl
@[simp] theorem State.modSn_xf (s : State) (f : Spinel → Spinel) : (s.modSn f).xf = s.xf := rfl
@[simp] theorem State.modSn_key (s : State) (f : Spinel → Spinel) : (s.modSn f).key = s.key := rfl
@[simp] theorem State.modSn_power (s : State) (f : Spinel → Spinel) : (s.modSn f).power = s.power := rfl
@[simp] theorem State.modSn_bat (s : State) (f : Spinel → Spinel) : (s.modSn f).bat = s.bat := rfl
@[simp] theorem State.modSn_chans (s : State) (f : Spinel → Spinel) : (s.modSn f).chans = s.chans := rfl
@[simp] theorem State.modSn_posts (s : State) (f : Spinel → Spinel) : (s.modSn f).posts = s.posts := rfl
@[simp] theorem State.modSn_seqs (s : State) (f : Spinel → Spinel) : (s.modSn f).seqs = s.seqs := rfl
@[simp] theorem State.modSn_ibufs (s : State) (f : Spinel → Spinel) : (s.modSn f).ibufs = s.ibufs := rfl
@[simp] theorem State.modSn_pool (s : State) (f : Spinel → Spinel) : (s.modSn f).pool = s.pool := rfl
@[simp] theorem State.modSn_mem (s : State) (f : Spinel → Spinel) : (s.modSn f).mem = s.mem := rfl
@[simp] theorem State.modSn_engines (s : State) (f : Spinel → Spinel) : (s.modSn f).engines = s.engines := rfl
@[simp] theorem State.modSn_groups (s : State) (f : Spinel → Spinel) : (s.modSn f).groups = s.groups := rfl
@[simp] theorem State.modSn_streams (s : State) (f : Spinel → Spinel) : (s.modSn f).streams = s.streams := rfl
@[simp] theorem State.modSn_crcs (s : State) (f : Spinel → Spinel) : (s.modSn f).crcs = s.crcs := rfl
@[simp] theorem State.modSn_bss (s : State) (f : Spinel → Spinel) : (s.modSn f).bss = s.bss := rfl
@[simp] theorem State.modSn_lcs (s : State) (f : Spinel → Spinel) : (s.modSn f).lcs = s.lcs := rfl
@[simp] theorem State.modSn_gds (s : State) (f : Spinel → Spinel) : (s.modSn f).gds = s.gds := rfl
@[simp] theorem State.modSn_abs_ (s : State) (f : Spinel → Spinel) : (s.modSn f).abs_ = s.abs_ := rfl
@[simp] theorem State.modSn_sn (s : State) (f : Spinel → Spinel) : (s.modSn f).sn = f s.sn := rfl
@[simp] theorem State.modSn_ta (s : State) (f : Spinel → Spinel) : (s.modSn f).ta = s.ta := rfl
@[simp] theorem State.modSn_eic (s : State) (f : Spinel → Spinel) : (s.modSn f).eic = s.eic := rfl
@[simp] theorem State.modSn_cs (s : State) (f : Spinel → Spinel) : (s.modSn f).cs = s.cs := rfl
@[simp] theorem State.modSn_sec (s : State) (f : Spinel → Spinel) : (s.modSn f).sec = s.sec := rfl
@[simp] theorem State.modSn_vault (s : State) (f : Spinel → Spinel) : (s.modSn f).vault = s.vault := rfl
@[simp] theorem State.modSn_dbg (s : State) (f : Spinel → Spinel) : (s.modSn f).dbg = s.dbg := rfl
@[simp] theorem State.modSn_cw (s : State) (f : Spinel → Spinel) : (s.modSn f).cw = s.cw := rfl
@[simp] theorem State.modSn_pending (s : State) (f : Spinel → Spinel) : (s.modSn f).pending = s.pending := rfl
@[simp] theorem State.modSn_free (s : State) (f : Spinel → Spinel) : (s.modSn f).free = s.free := rfl

@[simp] theorem State.modTa_beryl (s : State) (f : TimerArray → TimerArray) : (s.modTa f).beryl = s.beryl := rfl
@[simp] theorem State.modTa_lanes (s : State) (f : TimerArray → TimerArray) : (s.modTa f).lanes = s.lanes := rfl
@[simp] theorem State.modTa_hp (s : State) (f : TimerArray → TimerArray) : (s.modTa f).hp = s.hp := rfl
@[simp] theorem State.modTa_xf (s : State) (f : TimerArray → TimerArray) : (s.modTa f).xf = s.xf := rfl
@[simp] theorem State.modTa_key (s : State) (f : TimerArray → TimerArray) : (s.modTa f).key = s.key := rfl
@[simp] theorem State.modTa_power (s : State) (f : TimerArray → TimerArray) : (s.modTa f).power = s.power := rfl
@[simp] theorem State.modTa_bat (s : State) (f : TimerArray → TimerArray) : (s.modTa f).bat = s.bat := rfl
@[simp] theorem State.modTa_chans (s : State) (f : TimerArray → TimerArray) : (s.modTa f).chans = s.chans := rfl
@[simp] theorem State.modTa_posts (s : State) (f : TimerArray → TimerArray) : (s.modTa f).posts = s.posts := rfl
@[simp] theorem State.modTa_seqs (s : State) (f : TimerArray → TimerArray) : (s.modTa f).seqs = s.seqs := rfl
@[simp] theorem State.modTa_ibufs (s : State) (f : TimerArray → TimerArray) : (s.modTa f).ibufs = s.ibufs := rfl
@[simp] theorem State.modTa_pool (s : State) (f : TimerArray → TimerArray) : (s.modTa f).pool = s.pool := rfl
@[simp] theorem State.modTa_mem (s : State) (f : TimerArray → TimerArray) : (s.modTa f).mem = s.mem := rfl
@[simp] theorem State.modTa_engines (s : State) (f : TimerArray → TimerArray) : (s.modTa f).engines = s.engines := rfl
@[simp] theorem State.modTa_groups (s : State) (f : TimerArray → TimerArray) : (s.modTa f).groups = s.groups := rfl
@[simp] theorem State.modTa_streams (s : State) (f : TimerArray → TimerArray) : (s.modTa f).streams = s.streams := rfl
@[simp] theorem State.modTa_crcs (s : State) (f : TimerArray → TimerArray) : (s.modTa f).crcs = s.crcs := rfl
@[simp] theorem State.modTa_bss (s : State) (f : TimerArray → TimerArray) : (s.modTa f).bss = s.bss := rfl
@[simp] theorem State.modTa_lcs (s : State) (f : TimerArray → TimerArray) : (s.modTa f).lcs = s.lcs := rfl
@[simp] theorem State.modTa_gds (s : State) (f : TimerArray → TimerArray) : (s.modTa f).gds = s.gds := rfl
@[simp] theorem State.modTa_abs_ (s : State) (f : TimerArray → TimerArray) : (s.modTa f).abs_ = s.abs_ := rfl
@[simp] theorem State.modTa_sn (s : State) (f : TimerArray → TimerArray) : (s.modTa f).sn = s.sn := rfl
@[simp] theorem State.modTa_ta (s : State) (f : TimerArray → TimerArray) : (s.modTa f).ta = f s.ta := rfl
@[simp] theorem State.modTa_eic (s : State) (f : TimerArray → TimerArray) : (s.modTa f).eic = s.eic := rfl
@[simp] theorem State.modTa_cs (s : State) (f : TimerArray → TimerArray) : (s.modTa f).cs = s.cs := rfl
@[simp] theorem State.modTa_sec (s : State) (f : TimerArray → TimerArray) : (s.modTa f).sec = s.sec := rfl
@[simp] theorem State.modTa_vault (s : State) (f : TimerArray → TimerArray) : (s.modTa f).vault = s.vault := rfl
@[simp] theorem State.modTa_dbg (s : State) (f : TimerArray → TimerArray) : (s.modTa f).dbg = s.dbg := rfl
@[simp] theorem State.modTa_cw (s : State) (f : TimerArray → TimerArray) : (s.modTa f).cw = s.cw := rfl
@[simp] theorem State.modTa_pending (s : State) (f : TimerArray → TimerArray) : (s.modTa f).pending = s.pending := rfl
@[simp] theorem State.modTa_free (s : State) (f : TimerArray → TimerArray) : (s.modTa f).free = s.free := rfl

@[simp] theorem State.modTimer_beryl (s : State) (n : Fin 64) (f : Timer → Timer) : (s.modTimer n f).beryl = s.beryl := rfl
@[simp] theorem State.modTimer_lanes (s : State) (n : Fin 64) (f : Timer → Timer) : (s.modTimer n f).lanes = s.lanes := rfl
@[simp] theorem State.modTimer_hp (s : State) (n : Fin 64) (f : Timer → Timer) : (s.modTimer n f).hp = s.hp := rfl
@[simp] theorem State.modTimer_xf (s : State) (n : Fin 64) (f : Timer → Timer) : (s.modTimer n f).xf = s.xf := rfl
@[simp] theorem State.modTimer_key (s : State) (n : Fin 64) (f : Timer → Timer) : (s.modTimer n f).key = s.key := rfl
@[simp] theorem State.modTimer_power (s : State) (n : Fin 64) (f : Timer → Timer) : (s.modTimer n f).power = s.power := rfl
@[simp] theorem State.modTimer_bat (s : State) (n : Fin 64) (f : Timer → Timer) : (s.modTimer n f).bat = s.bat := rfl
@[simp] theorem State.modTimer_chans (s : State) (n : Fin 64) (f : Timer → Timer) : (s.modTimer n f).chans = s.chans := rfl
@[simp] theorem State.modTimer_posts (s : State) (n : Fin 64) (f : Timer → Timer) : (s.modTimer n f).posts = s.posts := rfl
@[simp] theorem State.modTimer_seqs (s : State) (n : Fin 64) (f : Timer → Timer) : (s.modTimer n f).seqs = s.seqs := rfl
@[simp] theorem State.modTimer_ibufs (s : State) (n : Fin 64) (f : Timer → Timer) : (s.modTimer n f).ibufs = s.ibufs := rfl
@[simp] theorem State.modTimer_pool (s : State) (n : Fin 64) (f : Timer → Timer) : (s.modTimer n f).pool = s.pool := rfl
@[simp] theorem State.modTimer_mem (s : State) (n : Fin 64) (f : Timer → Timer) : (s.modTimer n f).mem = s.mem := rfl
@[simp] theorem State.modTimer_engines (s : State) (n : Fin 64) (f : Timer → Timer) : (s.modTimer n f).engines = s.engines := rfl
@[simp] theorem State.modTimer_groups (s : State) (n : Fin 64) (f : Timer → Timer) : (s.modTimer n f).groups = s.groups := rfl
@[simp] theorem State.modTimer_streams (s : State) (n : Fin 64) (f : Timer → Timer) : (s.modTimer n f).streams = s.streams := rfl
@[simp] theorem State.modTimer_crcs (s : State) (n : Fin 64) (f : Timer → Timer) : (s.modTimer n f).crcs = s.crcs := rfl
@[simp] theorem State.modTimer_bss (s : State) (n : Fin 64) (f : Timer → Timer) : (s.modTimer n f).bss = s.bss := rfl
@[simp] theorem State.modTimer_lcs (s : State) (n : Fin 64) (f : Timer → Timer) : (s.modTimer n f).lcs = s.lcs := rfl
@[simp] theorem State.modTimer_gds (s : State) (n : Fin 64) (f : Timer → Timer) : (s.modTimer n f).gds = s.gds := rfl
@[simp] theorem State.modTimer_abs_ (s : State) (n : Fin 64) (f : Timer → Timer) : (s.modTimer n f).abs_ = s.abs_ := rfl
@[simp] theorem State.modTimer_sn (s : State) (n : Fin 64) (f : Timer → Timer) : (s.modTimer n f).sn = s.sn := rfl
@[simp] theorem State.modTimer_ta (s : State) (n : Fin 64) (f : Timer → Timer) : (s.modTimer n f).ta = { s.ta with timers := s.ta.timers.mod n f } := rfl
@[simp] theorem State.modTimer_eic (s : State) (n : Fin 64) (f : Timer → Timer) : (s.modTimer n f).eic = s.eic := rfl
@[simp] theorem State.modTimer_cs (s : State) (n : Fin 64) (f : Timer → Timer) : (s.modTimer n f).cs = s.cs := rfl
@[simp] theorem State.modTimer_sec (s : State) (n : Fin 64) (f : Timer → Timer) : (s.modTimer n f).sec = s.sec := rfl
@[simp] theorem State.modTimer_vault (s : State) (n : Fin 64) (f : Timer → Timer) : (s.modTimer n f).vault = s.vault := rfl
@[simp] theorem State.modTimer_dbg (s : State) (n : Fin 64) (f : Timer → Timer) : (s.modTimer n f).dbg = s.dbg := rfl
@[simp] theorem State.modTimer_cw (s : State) (n : Fin 64) (f : Timer → Timer) : (s.modTimer n f).cw = s.cw := rfl
@[simp] theorem State.modTimer_pending (s : State) (n : Fin 64) (f : Timer → Timer) : (s.modTimer n f).pending = s.pending := rfl
@[simp] theorem State.modTimer_free (s : State) (n : Fin 64) (f : Timer → Timer) : (s.modTimer n f).free = s.free := rfl

@[simp] theorem State.modAc_beryl (s : State) (k : Fin 32) (f : Compare → Compare) : (s.modAc k f).beryl = s.beryl := rfl
@[simp] theorem State.modAc_lanes (s : State) (k : Fin 32) (f : Compare → Compare) : (s.modAc k f).lanes = s.lanes := rfl
@[simp] theorem State.modAc_hp (s : State) (k : Fin 32) (f : Compare → Compare) : (s.modAc k f).hp = s.hp := rfl
@[simp] theorem State.modAc_xf (s : State) (k : Fin 32) (f : Compare → Compare) : (s.modAc k f).xf = s.xf := rfl
@[simp] theorem State.modAc_key (s : State) (k : Fin 32) (f : Compare → Compare) : (s.modAc k f).key = s.key := rfl
@[simp] theorem State.modAc_power (s : State) (k : Fin 32) (f : Compare → Compare) : (s.modAc k f).power = s.power := rfl
@[simp] theorem State.modAc_bat (s : State) (k : Fin 32) (f : Compare → Compare) : (s.modAc k f).bat = s.bat := rfl
@[simp] theorem State.modAc_chans (s : State) (k : Fin 32) (f : Compare → Compare) : (s.modAc k f).chans = s.chans := rfl
@[simp] theorem State.modAc_posts (s : State) (k : Fin 32) (f : Compare → Compare) : (s.modAc k f).posts = s.posts := rfl
@[simp] theorem State.modAc_seqs (s : State) (k : Fin 32) (f : Compare → Compare) : (s.modAc k f).seqs = s.seqs := rfl
@[simp] theorem State.modAc_ibufs (s : State) (k : Fin 32) (f : Compare → Compare) : (s.modAc k f).ibufs = s.ibufs := rfl
@[simp] theorem State.modAc_pool (s : State) (k : Fin 32) (f : Compare → Compare) : (s.modAc k f).pool = s.pool := rfl
@[simp] theorem State.modAc_mem (s : State) (k : Fin 32) (f : Compare → Compare) : (s.modAc k f).mem = s.mem := rfl
@[simp] theorem State.modAc_engines (s : State) (k : Fin 32) (f : Compare → Compare) : (s.modAc k f).engines = s.engines := rfl
@[simp] theorem State.modAc_groups (s : State) (k : Fin 32) (f : Compare → Compare) : (s.modAc k f).groups = s.groups := rfl
@[simp] theorem State.modAc_streams (s : State) (k : Fin 32) (f : Compare → Compare) : (s.modAc k f).streams = s.streams := rfl
@[simp] theorem State.modAc_crcs (s : State) (k : Fin 32) (f : Compare → Compare) : (s.modAc k f).crcs = s.crcs := rfl
@[simp] theorem State.modAc_bss (s : State) (k : Fin 32) (f : Compare → Compare) : (s.modAc k f).bss = s.bss := rfl
@[simp] theorem State.modAc_lcs (s : State) (k : Fin 32) (f : Compare → Compare) : (s.modAc k f).lcs = s.lcs := rfl
@[simp] theorem State.modAc_gds (s : State) (k : Fin 32) (f : Compare → Compare) : (s.modAc k f).gds = s.gds := rfl
@[simp] theorem State.modAc_abs_ (s : State) (k : Fin 32) (f : Compare → Compare) : (s.modAc k f).abs_ = s.abs_ := rfl
@[simp] theorem State.modAc_sn (s : State) (k : Fin 32) (f : Compare → Compare) : (s.modAc k f).sn = s.sn := rfl
@[simp] theorem State.modAc_ta (s : State) (k : Fin 32) (f : Compare → Compare) : (s.modAc k f).ta = { s.ta with compares := s.ta.compares.mod k f } := rfl
@[simp] theorem State.modAc_eic (s : State) (k : Fin 32) (f : Compare → Compare) : (s.modAc k f).eic = s.eic := rfl
@[simp] theorem State.modAc_cs (s : State) (k : Fin 32) (f : Compare → Compare) : (s.modAc k f).cs = s.cs := rfl
@[simp] theorem State.modAc_sec (s : State) (k : Fin 32) (f : Compare → Compare) : (s.modAc k f).sec = s.sec := rfl
@[simp] theorem State.modAc_vault (s : State) (k : Fin 32) (f : Compare → Compare) : (s.modAc k f).vault = s.vault := rfl
@[simp] theorem State.modAc_dbg (s : State) (k : Fin 32) (f : Compare → Compare) : (s.modAc k f).dbg = s.dbg := rfl
@[simp] theorem State.modAc_cw (s : State) (k : Fin 32) (f : Compare → Compare) : (s.modAc k f).cw = s.cw := rfl
@[simp] theorem State.modAc_pending (s : State) (k : Fin 32) (f : Compare → Compare) : (s.modAc k f).pending = s.pending := rfl
@[simp] theorem State.modAc_free (s : State) (k : Fin 32) (f : Compare → Compare) : (s.modAc k f).free = s.free := rfl

@[simp] theorem State.modCp_beryl (s : State) (k : Fin 16) (f : CapPair → CapPair) : (s.modCp k f).beryl = s.beryl := rfl
@[simp] theorem State.modCp_lanes (s : State) (k : Fin 16) (f : CapPair → CapPair) : (s.modCp k f).lanes = s.lanes := rfl
@[simp] theorem State.modCp_hp (s : State) (k : Fin 16) (f : CapPair → CapPair) : (s.modCp k f).hp = s.hp := rfl
@[simp] theorem State.modCp_xf (s : State) (k : Fin 16) (f : CapPair → CapPair) : (s.modCp k f).xf = s.xf := rfl
@[simp] theorem State.modCp_key (s : State) (k : Fin 16) (f : CapPair → CapPair) : (s.modCp k f).key = s.key := rfl
@[simp] theorem State.modCp_power (s : State) (k : Fin 16) (f : CapPair → CapPair) : (s.modCp k f).power = s.power := rfl
@[simp] theorem State.modCp_bat (s : State) (k : Fin 16) (f : CapPair → CapPair) : (s.modCp k f).bat = s.bat := rfl
@[simp] theorem State.modCp_chans (s : State) (k : Fin 16) (f : CapPair → CapPair) : (s.modCp k f).chans = s.chans := rfl
@[simp] theorem State.modCp_posts (s : State) (k : Fin 16) (f : CapPair → CapPair) : (s.modCp k f).posts = s.posts := rfl
@[simp] theorem State.modCp_seqs (s : State) (k : Fin 16) (f : CapPair → CapPair) : (s.modCp k f).seqs = s.seqs := rfl
@[simp] theorem State.modCp_ibufs (s : State) (k : Fin 16) (f : CapPair → CapPair) : (s.modCp k f).ibufs = s.ibufs := rfl
@[simp] theorem State.modCp_pool (s : State) (k : Fin 16) (f : CapPair → CapPair) : (s.modCp k f).pool = s.pool := rfl
@[simp] theorem State.modCp_mem (s : State) (k : Fin 16) (f : CapPair → CapPair) : (s.modCp k f).mem = s.mem := rfl
@[simp] theorem State.modCp_engines (s : State) (k : Fin 16) (f : CapPair → CapPair) : (s.modCp k f).engines = s.engines := rfl
@[simp] theorem State.modCp_groups (s : State) (k : Fin 16) (f : CapPair → CapPair) : (s.modCp k f).groups = s.groups := rfl
@[simp] theorem State.modCp_streams (s : State) (k : Fin 16) (f : CapPair → CapPair) : (s.modCp k f).streams = s.streams := rfl
@[simp] theorem State.modCp_crcs (s : State) (k : Fin 16) (f : CapPair → CapPair) : (s.modCp k f).crcs = s.crcs := rfl
@[simp] theorem State.modCp_bss (s : State) (k : Fin 16) (f : CapPair → CapPair) : (s.modCp k f).bss = s.bss := rfl
@[simp] theorem State.modCp_lcs (s : State) (k : Fin 16) (f : CapPair → CapPair) : (s.modCp k f).lcs = s.lcs := rfl
@[simp] theorem State.modCp_gds (s : State) (k : Fin 16) (f : CapPair → CapPair) : (s.modCp k f).gds = s.gds := rfl
@[simp] theorem State.modCp_abs_ (s : State) (k : Fin 16) (f : CapPair → CapPair) : (s.modCp k f).abs_ = s.abs_ := rfl
@[simp] theorem State.modCp_sn (s : State) (k : Fin 16) (f : CapPair → CapPair) : (s.modCp k f).sn = s.sn := rfl
@[simp] theorem State.modCp_ta (s : State) (k : Fin 16) (f : CapPair → CapPair) : (s.modCp k f).ta = { s.ta with pairs := s.ta.pairs.mod k f } := rfl
@[simp] theorem State.modCp_eic (s : State) (k : Fin 16) (f : CapPair → CapPair) : (s.modCp k f).eic = s.eic := rfl
@[simp] theorem State.modCp_cs (s : State) (k : Fin 16) (f : CapPair → CapPair) : (s.modCp k f).cs = s.cs := rfl
@[simp] theorem State.modCp_sec (s : State) (k : Fin 16) (f : CapPair → CapPair) : (s.modCp k f).sec = s.sec := rfl
@[simp] theorem State.modCp_vault (s : State) (k : Fin 16) (f : CapPair → CapPair) : (s.modCp k f).vault = s.vault := rfl
@[simp] theorem State.modCp_dbg (s : State) (k : Fin 16) (f : CapPair → CapPair) : (s.modCp k f).dbg = s.dbg := rfl
@[simp] theorem State.modCp_cw (s : State) (k : Fin 16) (f : CapPair → CapPair) : (s.modCp k f).cw = s.cw := rfl
@[simp] theorem State.modCp_pending (s : State) (k : Fin 16) (f : CapPair → CapPair) : (s.modCp k f).pending = s.pending := rfl
@[simp] theorem State.modCp_free (s : State) (k : Fin 16) (f : CapPair → CapPair) : (s.modCp k f).free = s.free := rfl

@[simp] theorem State.modWd_beryl (s : State) (w : Fin 2) (f : Watchdog → Watchdog) : (s.modWd w f).beryl = s.beryl := rfl
@[simp] theorem State.modWd_lanes (s : State) (w : Fin 2) (f : Watchdog → Watchdog) : (s.modWd w f).lanes = s.lanes := rfl
@[simp] theorem State.modWd_hp (s : State) (w : Fin 2) (f : Watchdog → Watchdog) : (s.modWd w f).hp = s.hp := rfl
@[simp] theorem State.modWd_xf (s : State) (w : Fin 2) (f : Watchdog → Watchdog) : (s.modWd w f).xf = s.xf := rfl
@[simp] theorem State.modWd_key (s : State) (w : Fin 2) (f : Watchdog → Watchdog) : (s.modWd w f).key = s.key := rfl
@[simp] theorem State.modWd_power (s : State) (w : Fin 2) (f : Watchdog → Watchdog) : (s.modWd w f).power = s.power := rfl
@[simp] theorem State.modWd_bat (s : State) (w : Fin 2) (f : Watchdog → Watchdog) : (s.modWd w f).bat = s.bat := rfl
@[simp] theorem State.modWd_chans (s : State) (w : Fin 2) (f : Watchdog → Watchdog) : (s.modWd w f).chans = s.chans := rfl
@[simp] theorem State.modWd_posts (s : State) (w : Fin 2) (f : Watchdog → Watchdog) : (s.modWd w f).posts = s.posts := rfl
@[simp] theorem State.modWd_seqs (s : State) (w : Fin 2) (f : Watchdog → Watchdog) : (s.modWd w f).seqs = s.seqs := rfl
@[simp] theorem State.modWd_ibufs (s : State) (w : Fin 2) (f : Watchdog → Watchdog) : (s.modWd w f).ibufs = s.ibufs := rfl
@[simp] theorem State.modWd_pool (s : State) (w : Fin 2) (f : Watchdog → Watchdog) : (s.modWd w f).pool = s.pool := rfl
@[simp] theorem State.modWd_mem (s : State) (w : Fin 2) (f : Watchdog → Watchdog) : (s.modWd w f).mem = s.mem := rfl
@[simp] theorem State.modWd_engines (s : State) (w : Fin 2) (f : Watchdog → Watchdog) : (s.modWd w f).engines = s.engines := rfl
@[simp] theorem State.modWd_groups (s : State) (w : Fin 2) (f : Watchdog → Watchdog) : (s.modWd w f).groups = s.groups := rfl
@[simp] theorem State.modWd_streams (s : State) (w : Fin 2) (f : Watchdog → Watchdog) : (s.modWd w f).streams = s.streams := rfl
@[simp] theorem State.modWd_crcs (s : State) (w : Fin 2) (f : Watchdog → Watchdog) : (s.modWd w f).crcs = s.crcs := rfl
@[simp] theorem State.modWd_bss (s : State) (w : Fin 2) (f : Watchdog → Watchdog) : (s.modWd w f).bss = s.bss := rfl
@[simp] theorem State.modWd_lcs (s : State) (w : Fin 2) (f : Watchdog → Watchdog) : (s.modWd w f).lcs = s.lcs := rfl
@[simp] theorem State.modWd_gds (s : State) (w : Fin 2) (f : Watchdog → Watchdog) : (s.modWd w f).gds = s.gds := rfl
@[simp] theorem State.modWd_abs_ (s : State) (w : Fin 2) (f : Watchdog → Watchdog) : (s.modWd w f).abs_ = s.abs_ := rfl
@[simp] theorem State.modWd_sn (s : State) (w : Fin 2) (f : Watchdog → Watchdog) : (s.modWd w f).sn = s.sn := rfl
@[simp] theorem State.modWd_ta (s : State) (w : Fin 2) (f : Watchdog → Watchdog) : (s.modWd w f).ta = { s.ta with dogs := s.ta.dogs.mod w f } := rfl
@[simp] theorem State.modWd_eic (s : State) (w : Fin 2) (f : Watchdog → Watchdog) : (s.modWd w f).eic = s.eic := rfl
@[simp] theorem State.modWd_cs (s : State) (w : Fin 2) (f : Watchdog → Watchdog) : (s.modWd w f).cs = s.cs := rfl
@[simp] theorem State.modWd_sec (s : State) (w : Fin 2) (f : Watchdog → Watchdog) : (s.modWd w f).sec = s.sec := rfl
@[simp] theorem State.modWd_vault (s : State) (w : Fin 2) (f : Watchdog → Watchdog) : (s.modWd w f).vault = s.vault := rfl
@[simp] theorem State.modWd_dbg (s : State) (w : Fin 2) (f : Watchdog → Watchdog) : (s.modWd w f).dbg = s.dbg := rfl
@[simp] theorem State.modWd_cw (s : State) (w : Fin 2) (f : Watchdog → Watchdog) : (s.modWd w f).cw = s.cw := rfl
@[simp] theorem State.modWd_pending (s : State) (w : Fin 2) (f : Watchdog → Watchdog) : (s.modWd w f).pending = s.pending := rfl
@[simp] theorem State.modWd_free (s : State) (w : Fin 2) (f : Watchdog → Watchdog) : (s.modWd w f).free = s.free := rfl

@[simp] theorem State.modEic_beryl (s : State) (f : Eic → Eic) : (s.modEic f).beryl = s.beryl := rfl
@[simp] theorem State.modEic_lanes (s : State) (f : Eic → Eic) : (s.modEic f).lanes = s.lanes := rfl
@[simp] theorem State.modEic_hp (s : State) (f : Eic → Eic) : (s.modEic f).hp = s.hp := rfl
@[simp] theorem State.modEic_xf (s : State) (f : Eic → Eic) : (s.modEic f).xf = s.xf := rfl
@[simp] theorem State.modEic_key (s : State) (f : Eic → Eic) : (s.modEic f).key = s.key := rfl
@[simp] theorem State.modEic_power (s : State) (f : Eic → Eic) : (s.modEic f).power = s.power := rfl
@[simp] theorem State.modEic_bat (s : State) (f : Eic → Eic) : (s.modEic f).bat = s.bat := rfl
@[simp] theorem State.modEic_chans (s : State) (f : Eic → Eic) : (s.modEic f).chans = s.chans := rfl
@[simp] theorem State.modEic_posts (s : State) (f : Eic → Eic) : (s.modEic f).posts = s.posts := rfl
@[simp] theorem State.modEic_seqs (s : State) (f : Eic → Eic) : (s.modEic f).seqs = s.seqs := rfl
@[simp] theorem State.modEic_ibufs (s : State) (f : Eic → Eic) : (s.modEic f).ibufs = s.ibufs := rfl
@[simp] theorem State.modEic_pool (s : State) (f : Eic → Eic) : (s.modEic f).pool = s.pool := rfl
@[simp] theorem State.modEic_mem (s : State) (f : Eic → Eic) : (s.modEic f).mem = s.mem := rfl
@[simp] theorem State.modEic_engines (s : State) (f : Eic → Eic) : (s.modEic f).engines = s.engines := rfl
@[simp] theorem State.modEic_groups (s : State) (f : Eic → Eic) : (s.modEic f).groups = s.groups := rfl
@[simp] theorem State.modEic_streams (s : State) (f : Eic → Eic) : (s.modEic f).streams = s.streams := rfl
@[simp] theorem State.modEic_crcs (s : State) (f : Eic → Eic) : (s.modEic f).crcs = s.crcs := rfl
@[simp] theorem State.modEic_bss (s : State) (f : Eic → Eic) : (s.modEic f).bss = s.bss := rfl
@[simp] theorem State.modEic_lcs (s : State) (f : Eic → Eic) : (s.modEic f).lcs = s.lcs := rfl
@[simp] theorem State.modEic_gds (s : State) (f : Eic → Eic) : (s.modEic f).gds = s.gds := rfl
@[simp] theorem State.modEic_abs_ (s : State) (f : Eic → Eic) : (s.modEic f).abs_ = s.abs_ := rfl
@[simp] theorem State.modEic_sn (s : State) (f : Eic → Eic) : (s.modEic f).sn = s.sn := rfl
@[simp] theorem State.modEic_ta (s : State) (f : Eic → Eic) : (s.modEic f).ta = s.ta := rfl
@[simp] theorem State.modEic_eic (s : State) (f : Eic → Eic) : (s.modEic f).eic = f s.eic := rfl
@[simp] theorem State.modEic_cs (s : State) (f : Eic → Eic) : (s.modEic f).cs = s.cs := rfl
@[simp] theorem State.modEic_sec (s : State) (f : Eic → Eic) : (s.modEic f).sec = s.sec := rfl
@[simp] theorem State.modEic_vault (s : State) (f : Eic → Eic) : (s.modEic f).vault = s.vault := rfl
@[simp] theorem State.modEic_dbg (s : State) (f : Eic → Eic) : (s.modEic f).dbg = s.dbg := rfl
@[simp] theorem State.modEic_cw (s : State) (f : Eic → Eic) : (s.modEic f).cw = s.cw := rfl
@[simp] theorem State.modEic_pending (s : State) (f : Eic → Eic) : (s.modEic f).pending = s.pending := rfl
@[simp] theorem State.modEic_free (s : State) (f : Eic → Eic) : (s.modEic f).free = s.free := rfl

@[simp] theorem State.modSrc_beryl (s : State) (n : Fin 512) (f : Source → Source) : (s.modSrc n f).beryl = s.beryl := rfl
@[simp] theorem State.modSrc_lanes (s : State) (n : Fin 512) (f : Source → Source) : (s.modSrc n f).lanes = s.lanes := rfl
@[simp] theorem State.modSrc_hp (s : State) (n : Fin 512) (f : Source → Source) : (s.modSrc n f).hp = s.hp := rfl
@[simp] theorem State.modSrc_xf (s : State) (n : Fin 512) (f : Source → Source) : (s.modSrc n f).xf = s.xf := rfl
@[simp] theorem State.modSrc_key (s : State) (n : Fin 512) (f : Source → Source) : (s.modSrc n f).key = s.key := rfl
@[simp] theorem State.modSrc_power (s : State) (n : Fin 512) (f : Source → Source) : (s.modSrc n f).power = s.power := rfl
@[simp] theorem State.modSrc_bat (s : State) (n : Fin 512) (f : Source → Source) : (s.modSrc n f).bat = s.bat := rfl
@[simp] theorem State.modSrc_chans (s : State) (n : Fin 512) (f : Source → Source) : (s.modSrc n f).chans = s.chans := rfl
@[simp] theorem State.modSrc_posts (s : State) (n : Fin 512) (f : Source → Source) : (s.modSrc n f).posts = s.posts := rfl
@[simp] theorem State.modSrc_seqs (s : State) (n : Fin 512) (f : Source → Source) : (s.modSrc n f).seqs = s.seqs := rfl
@[simp] theorem State.modSrc_ibufs (s : State) (n : Fin 512) (f : Source → Source) : (s.modSrc n f).ibufs = s.ibufs := rfl
@[simp] theorem State.modSrc_pool (s : State) (n : Fin 512) (f : Source → Source) : (s.modSrc n f).pool = s.pool := rfl
@[simp] theorem State.modSrc_mem (s : State) (n : Fin 512) (f : Source → Source) : (s.modSrc n f).mem = s.mem := rfl
@[simp] theorem State.modSrc_engines (s : State) (n : Fin 512) (f : Source → Source) : (s.modSrc n f).engines = s.engines := rfl
@[simp] theorem State.modSrc_groups (s : State) (n : Fin 512) (f : Source → Source) : (s.modSrc n f).groups = s.groups := rfl
@[simp] theorem State.modSrc_streams (s : State) (n : Fin 512) (f : Source → Source) : (s.modSrc n f).streams = s.streams := rfl
@[simp] theorem State.modSrc_crcs (s : State) (n : Fin 512) (f : Source → Source) : (s.modSrc n f).crcs = s.crcs := rfl
@[simp] theorem State.modSrc_bss (s : State) (n : Fin 512) (f : Source → Source) : (s.modSrc n f).bss = s.bss := rfl
@[simp] theorem State.modSrc_lcs (s : State) (n : Fin 512) (f : Source → Source) : (s.modSrc n f).lcs = s.lcs := rfl
@[simp] theorem State.modSrc_gds (s : State) (n : Fin 512) (f : Source → Source) : (s.modSrc n f).gds = s.gds := rfl
@[simp] theorem State.modSrc_abs_ (s : State) (n : Fin 512) (f : Source → Source) : (s.modSrc n f).abs_ = s.abs_ := rfl
@[simp] theorem State.modSrc_sn (s : State) (n : Fin 512) (f : Source → Source) : (s.modSrc n f).sn = s.sn := rfl
@[simp] theorem State.modSrc_ta (s : State) (n : Fin 512) (f : Source → Source) : (s.modSrc n f).ta = s.ta := rfl
@[simp] theorem State.modSrc_eic (s : State) (n : Fin 512) (f : Source → Source) : (s.modSrc n f).eic = { s.eic with srcs := s.eic.srcs.mod n f } := rfl
@[simp] theorem State.modSrc_cs (s : State) (n : Fin 512) (f : Source → Source) : (s.modSrc n f).cs = s.cs := rfl
@[simp] theorem State.modSrc_sec (s : State) (n : Fin 512) (f : Source → Source) : (s.modSrc n f).sec = s.sec := rfl
@[simp] theorem State.modSrc_vault (s : State) (n : Fin 512) (f : Source → Source) : (s.modSrc n f).vault = s.vault := rfl
@[simp] theorem State.modSrc_dbg (s : State) (n : Fin 512) (f : Source → Source) : (s.modSrc n f).dbg = s.dbg := rfl
@[simp] theorem State.modSrc_cw (s : State) (n : Fin 512) (f : Source → Source) : (s.modSrc n f).cw = s.cw := rfl
@[simp] theorem State.modSrc_pending (s : State) (n : Fin 512) (f : Source → Source) : (s.modSrc n f).pending = s.pending := rfl
@[simp] theorem State.modSrc_free (s : State) (n : Fin 512) (f : Source → Source) : (s.modSrc n f).free = s.free := rfl

@[simp] theorem State.modTarget_beryl (s : State) (t : Fin 18) (f : Target → Target) : (s.modTarget t f).beryl = s.beryl := rfl
@[simp] theorem State.modTarget_lanes (s : State) (t : Fin 18) (f : Target → Target) : (s.modTarget t f).lanes = s.lanes := rfl
@[simp] theorem State.modTarget_hp (s : State) (t : Fin 18) (f : Target → Target) : (s.modTarget t f).hp = s.hp := rfl
@[simp] theorem State.modTarget_xf (s : State) (t : Fin 18) (f : Target → Target) : (s.modTarget t f).xf = s.xf := rfl
@[simp] theorem State.modTarget_key (s : State) (t : Fin 18) (f : Target → Target) : (s.modTarget t f).key = s.key := rfl
@[simp] theorem State.modTarget_power (s : State) (t : Fin 18) (f : Target → Target) : (s.modTarget t f).power = s.power := rfl
@[simp] theorem State.modTarget_bat (s : State) (t : Fin 18) (f : Target → Target) : (s.modTarget t f).bat = s.bat := rfl
@[simp] theorem State.modTarget_chans (s : State) (t : Fin 18) (f : Target → Target) : (s.modTarget t f).chans = s.chans := rfl
@[simp] theorem State.modTarget_posts (s : State) (t : Fin 18) (f : Target → Target) : (s.modTarget t f).posts = s.posts := rfl
@[simp] theorem State.modTarget_seqs (s : State) (t : Fin 18) (f : Target → Target) : (s.modTarget t f).seqs = s.seqs := rfl
@[simp] theorem State.modTarget_ibufs (s : State) (t : Fin 18) (f : Target → Target) : (s.modTarget t f).ibufs = s.ibufs := rfl
@[simp] theorem State.modTarget_pool (s : State) (t : Fin 18) (f : Target → Target) : (s.modTarget t f).pool = s.pool := rfl
@[simp] theorem State.modTarget_mem (s : State) (t : Fin 18) (f : Target → Target) : (s.modTarget t f).mem = s.mem := rfl
@[simp] theorem State.modTarget_engines (s : State) (t : Fin 18) (f : Target → Target) : (s.modTarget t f).engines = s.engines := rfl
@[simp] theorem State.modTarget_groups (s : State) (t : Fin 18) (f : Target → Target) : (s.modTarget t f).groups = s.groups := rfl
@[simp] theorem State.modTarget_streams (s : State) (t : Fin 18) (f : Target → Target) : (s.modTarget t f).streams = s.streams := rfl
@[simp] theorem State.modTarget_crcs (s : State) (t : Fin 18) (f : Target → Target) : (s.modTarget t f).crcs = s.crcs := rfl
@[simp] theorem State.modTarget_bss (s : State) (t : Fin 18) (f : Target → Target) : (s.modTarget t f).bss = s.bss := rfl
@[simp] theorem State.modTarget_lcs (s : State) (t : Fin 18) (f : Target → Target) : (s.modTarget t f).lcs = s.lcs := rfl
@[simp] theorem State.modTarget_gds (s : State) (t : Fin 18) (f : Target → Target) : (s.modTarget t f).gds = s.gds := rfl
@[simp] theorem State.modTarget_abs_ (s : State) (t : Fin 18) (f : Target → Target) : (s.modTarget t f).abs_ = s.abs_ := rfl
@[simp] theorem State.modTarget_sn (s : State) (t : Fin 18) (f : Target → Target) : (s.modTarget t f).sn = s.sn := rfl
@[simp] theorem State.modTarget_ta (s : State) (t : Fin 18) (f : Target → Target) : (s.modTarget t f).ta = s.ta := rfl
@[simp] theorem State.modTarget_eic (s : State) (t : Fin 18) (f : Target → Target) : (s.modTarget t f).eic = { s.eic with targets := s.eic.targets.mod t f } := rfl
@[simp] theorem State.modTarget_cs (s : State) (t : Fin 18) (f : Target → Target) : (s.modTarget t f).cs = s.cs := rfl
@[simp] theorem State.modTarget_sec (s : State) (t : Fin 18) (f : Target → Target) : (s.modTarget t f).sec = s.sec := rfl
@[simp] theorem State.modTarget_vault (s : State) (t : Fin 18) (f : Target → Target) : (s.modTarget t f).vault = s.vault := rfl
@[simp] theorem State.modTarget_dbg (s : State) (t : Fin 18) (f : Target → Target) : (s.modTarget t f).dbg = s.dbg := rfl
@[simp] theorem State.modTarget_cw (s : State) (t : Fin 18) (f : Target → Target) : (s.modTarget t f).cw = s.cw := rfl
@[simp] theorem State.modTarget_pending (s : State) (t : Fin 18) (f : Target → Target) : (s.modTarget t f).pending = s.pending := rfl
@[simp] theorem State.modTarget_free (s : State) (t : Fin 18) (f : Target → Target) : (s.modTarget t f).free = s.free := rfl

@[simp] theorem State.modGroup_beryl (s : State) (g : Fin 32) (f : ModGroup → ModGroup) : (s.modGroup g f).beryl = s.beryl := rfl
@[simp] theorem State.modGroup_lanes (s : State) (g : Fin 32) (f : ModGroup → ModGroup) : (s.modGroup g f).lanes = s.lanes := rfl
@[simp] theorem State.modGroup_hp (s : State) (g : Fin 32) (f : ModGroup → ModGroup) : (s.modGroup g f).hp = s.hp := rfl
@[simp] theorem State.modGroup_xf (s : State) (g : Fin 32) (f : ModGroup → ModGroup) : (s.modGroup g f).xf = s.xf := rfl
@[simp] theorem State.modGroup_key (s : State) (g : Fin 32) (f : ModGroup → ModGroup) : (s.modGroup g f).key = s.key := rfl
@[simp] theorem State.modGroup_power (s : State) (g : Fin 32) (f : ModGroup → ModGroup) : (s.modGroup g f).power = s.power := rfl
@[simp] theorem State.modGroup_bat (s : State) (g : Fin 32) (f : ModGroup → ModGroup) : (s.modGroup g f).bat = s.bat := rfl
@[simp] theorem State.modGroup_chans (s : State) (g : Fin 32) (f : ModGroup → ModGroup) : (s.modGroup g f).chans = s.chans := rfl
@[simp] theorem State.modGroup_posts (s : State) (g : Fin 32) (f : ModGroup → ModGroup) : (s.modGroup g f).posts = s.posts := rfl
@[simp] theorem State.modGroup_seqs (s : State) (g : Fin 32) (f : ModGroup → ModGroup) : (s.modGroup g f).seqs = s.seqs := rfl
@[simp] theorem State.modGroup_ibufs (s : State) (g : Fin 32) (f : ModGroup → ModGroup) : (s.modGroup g f).ibufs = s.ibufs := rfl
@[simp] theorem State.modGroup_pool (s : State) (g : Fin 32) (f : ModGroup → ModGroup) : (s.modGroup g f).pool = s.pool := rfl
@[simp] theorem State.modGroup_mem (s : State) (g : Fin 32) (f : ModGroup → ModGroup) : (s.modGroup g f).mem = s.mem := rfl
@[simp] theorem State.modGroup_engines (s : State) (g : Fin 32) (f : ModGroup → ModGroup) : (s.modGroup g f).engines = s.engines := rfl
@[simp] theorem State.modGroup_groups (s : State) (g : Fin 32) (f : ModGroup → ModGroup) : (s.modGroup g f).groups = s.groups := rfl
@[simp] theorem State.modGroup_streams (s : State) (g : Fin 32) (f : ModGroup → ModGroup) : (s.modGroup g f).streams = s.streams := rfl
@[simp] theorem State.modGroup_crcs (s : State) (g : Fin 32) (f : ModGroup → ModGroup) : (s.modGroup g f).crcs = s.crcs := rfl
@[simp] theorem State.modGroup_bss (s : State) (g : Fin 32) (f : ModGroup → ModGroup) : (s.modGroup g f).bss = s.bss := rfl
@[simp] theorem State.modGroup_lcs (s : State) (g : Fin 32) (f : ModGroup → ModGroup) : (s.modGroup g f).lcs = s.lcs := rfl
@[simp] theorem State.modGroup_gds (s : State) (g : Fin 32) (f : ModGroup → ModGroup) : (s.modGroup g f).gds = s.gds := rfl
@[simp] theorem State.modGroup_abs_ (s : State) (g : Fin 32) (f : ModGroup → ModGroup) : (s.modGroup g f).abs_ = s.abs_ := rfl
@[simp] theorem State.modGroup_sn (s : State) (g : Fin 32) (f : ModGroup → ModGroup) : (s.modGroup g f).sn = s.sn := rfl
@[simp] theorem State.modGroup_ta (s : State) (g : Fin 32) (f : ModGroup → ModGroup) : (s.modGroup g f).ta = s.ta := rfl
@[simp] theorem State.modGroup_eic (s : State) (g : Fin 32) (f : ModGroup → ModGroup) : (s.modGroup g f).eic = { s.eic with mods := s.eic.mods.mod g f } := rfl
@[simp] theorem State.modGroup_cs (s : State) (g : Fin 32) (f : ModGroup → ModGroup) : (s.modGroup g f).cs = s.cs := rfl
@[simp] theorem State.modGroup_sec (s : State) (g : Fin 32) (f : ModGroup → ModGroup) : (s.modGroup g f).sec = s.sec := rfl
@[simp] theorem State.modGroup_vault (s : State) (g : Fin 32) (f : ModGroup → ModGroup) : (s.modGroup g f).vault = s.vault := rfl
@[simp] theorem State.modGroup_dbg (s : State) (g : Fin 32) (f : ModGroup → ModGroup) : (s.modGroup g f).dbg = s.dbg := rfl
@[simp] theorem State.modGroup_cw (s : State) (g : Fin 32) (f : ModGroup → ModGroup) : (s.modGroup g f).cw = s.cw := rfl
@[simp] theorem State.modGroup_pending (s : State) (g : Fin 32) (f : ModGroup → ModGroup) : (s.modGroup g f).pending = s.pending := rfl
@[simp] theorem State.modGroup_free (s : State) (g : Fin 32) (f : ModGroup → ModGroup) : (s.modGroup g f).free = s.free := rfl

@[simp] theorem State.modXf_beryl (s : State) (f : Xfer → Xfer) : (s.modXf f).beryl = s.beryl := rfl
@[simp] theorem State.modXf_lanes (s : State) (f : Xfer → Xfer) : (s.modXf f).lanes = s.lanes := rfl
@[simp] theorem State.modXf_hp (s : State) (f : Xfer → Xfer) : (s.modXf f).hp = s.hp := rfl
@[simp] theorem State.modXf_xf (s : State) (f : Xfer → Xfer) : (s.modXf f).xf = f s.xf := rfl
@[simp] theorem State.modXf_key (s : State) (f : Xfer → Xfer) : (s.modXf f).key = s.key := rfl
@[simp] theorem State.modXf_power (s : State) (f : Xfer → Xfer) : (s.modXf f).power = s.power := rfl
@[simp] theorem State.modXf_bat (s : State) (f : Xfer → Xfer) : (s.modXf f).bat = s.bat := rfl
@[simp] theorem State.modXf_chans (s : State) (f : Xfer → Xfer) : (s.modXf f).chans = s.chans := rfl
@[simp] theorem State.modXf_posts (s : State) (f : Xfer → Xfer) : (s.modXf f).posts = s.posts := rfl
@[simp] theorem State.modXf_seqs (s : State) (f : Xfer → Xfer) : (s.modXf f).seqs = s.seqs := rfl
@[simp] theorem State.modXf_ibufs (s : State) (f : Xfer → Xfer) : (s.modXf f).ibufs = s.ibufs := rfl
@[simp] theorem State.modXf_pool (s : State) (f : Xfer → Xfer) : (s.modXf f).pool = s.pool := rfl
@[simp] theorem State.modXf_mem (s : State) (f : Xfer → Xfer) : (s.modXf f).mem = s.mem := rfl
@[simp] theorem State.modXf_engines (s : State) (f : Xfer → Xfer) : (s.modXf f).engines = s.engines := rfl
@[simp] theorem State.modXf_groups (s : State) (f : Xfer → Xfer) : (s.modXf f).groups = s.groups := rfl
@[simp] theorem State.modXf_streams (s : State) (f : Xfer → Xfer) : (s.modXf f).streams = s.streams := rfl
@[simp] theorem State.modXf_crcs (s : State) (f : Xfer → Xfer) : (s.modXf f).crcs = s.crcs := rfl
@[simp] theorem State.modXf_bss (s : State) (f : Xfer → Xfer) : (s.modXf f).bss = s.bss := rfl
@[simp] theorem State.modXf_lcs (s : State) (f : Xfer → Xfer) : (s.modXf f).lcs = s.lcs := rfl
@[simp] theorem State.modXf_gds (s : State) (f : Xfer → Xfer) : (s.modXf f).gds = s.gds := rfl
@[simp] theorem State.modXf_abs_ (s : State) (f : Xfer → Xfer) : (s.modXf f).abs_ = s.abs_ := rfl
@[simp] theorem State.modXf_sn (s : State) (f : Xfer → Xfer) : (s.modXf f).sn = s.sn := rfl
@[simp] theorem State.modXf_ta (s : State) (f : Xfer → Xfer) : (s.modXf f).ta = s.ta := rfl
@[simp] theorem State.modXf_eic (s : State) (f : Xfer → Xfer) : (s.modXf f).eic = s.eic := rfl
@[simp] theorem State.modXf_cs (s : State) (f : Xfer → Xfer) : (s.modXf f).cs = s.cs := rfl
@[simp] theorem State.modXf_sec (s : State) (f : Xfer → Xfer) : (s.modXf f).sec = s.sec := rfl
@[simp] theorem State.modXf_vault (s : State) (f : Xfer → Xfer) : (s.modXf f).vault = s.vault := rfl
@[simp] theorem State.modXf_dbg (s : State) (f : Xfer → Xfer) : (s.modXf f).dbg = s.dbg := rfl
@[simp] theorem State.modXf_cw (s : State) (f : Xfer → Xfer) : (s.modXf f).cw = s.cw := rfl
@[simp] theorem State.modXf_pending (s : State) (f : Xfer → Xfer) : (s.modXf f).pending = s.pending := rfl
@[simp] theorem State.modXf_free (s : State) (f : Xfer → Xfer) : (s.modXf f).free = s.free := rfl

@[simp] theorem State.uw_beryl (s : State) (n : Fin 16) (k : Nat) : (s.uw n k).beryl = s.beryl := rfl
@[simp] theorem State.uw_lanes (s : State) (n : Fin 16) (k : Nat) : (s.uw n k).lanes = s.lanes := rfl
@[simp] theorem State.uw_hp (s : State) (n : Fin 16) (k : Nat) : (s.uw n k).hp = s.hp := rfl
@[simp] theorem State.uw_xf (s : State) (n : Fin 16) (k : Nat) : (s.uw n k).xf = s.xf := rfl
@[simp] theorem State.uw_key (s : State) (n : Fin 16) (k : Nat) : (s.uw n k).key = s.key := rfl
@[simp] theorem State.uw_power (s : State) (n : Fin 16) (k : Nat) : (s.uw n k).power = s.power := rfl
@[simp] theorem State.uw_bat (s : State) (n : Fin 16) (k : Nat) : (s.uw n k).bat = s.bat := rfl
@[simp] theorem State.uw_chans (s : State) (n : Fin 16) (k : Nat) : (s.uw n k).chans = s.chans := rfl
@[simp] theorem State.uw_posts (s : State) (n : Fin 16) (k : Nat) : (s.uw n k).posts = s.posts := rfl
@[simp] theorem State.uw_seqs (s : State) (n : Fin 16) (k : Nat) : (s.uw n k).seqs = s.seqs.mod n fun q => { q with uwcnt := q.uwcnt + BitVec.ofNat 32 k } := rfl
@[simp] theorem State.uw_ibufs (s : State) (n : Fin 16) (k : Nat) : (s.uw n k).ibufs = s.ibufs := rfl
@[simp] theorem State.uw_pool (s : State) (n : Fin 16) (k : Nat) : (s.uw n k).pool = s.pool := rfl
@[simp] theorem State.uw_mem (s : State) (n : Fin 16) (k : Nat) : (s.uw n k).mem = s.mem := rfl
@[simp] theorem State.uw_engines (s : State) (n : Fin 16) (k : Nat) : (s.uw n k).engines = s.engines := rfl
@[simp] theorem State.uw_groups (s : State) (n : Fin 16) (k : Nat) : (s.uw n k).groups = s.groups := rfl
@[simp] theorem State.uw_streams (s : State) (n : Fin 16) (k : Nat) : (s.uw n k).streams = s.streams := rfl
@[simp] theorem State.uw_crcs (s : State) (n : Fin 16) (k : Nat) : (s.uw n k).crcs = s.crcs := rfl
@[simp] theorem State.uw_bss (s : State) (n : Fin 16) (k : Nat) : (s.uw n k).bss = s.bss := rfl
@[simp] theorem State.uw_lcs (s : State) (n : Fin 16) (k : Nat) : (s.uw n k).lcs = s.lcs := rfl
@[simp] theorem State.uw_gds (s : State) (n : Fin 16) (k : Nat) : (s.uw n k).gds = s.gds := rfl
@[simp] theorem State.uw_abs_ (s : State) (n : Fin 16) (k : Nat) : (s.uw n k).abs_ = s.abs_ := rfl
@[simp] theorem State.uw_sn (s : State) (n : Fin 16) (k : Nat) : (s.uw n k).sn = s.sn := rfl
@[simp] theorem State.uw_ta (s : State) (n : Fin 16) (k : Nat) : (s.uw n k).ta = s.ta := rfl
@[simp] theorem State.uw_eic (s : State) (n : Fin 16) (k : Nat) : (s.uw n k).eic = s.eic := rfl
@[simp] theorem State.uw_cs (s : State) (n : Fin 16) (k : Nat) : (s.uw n k).cs = s.cs := rfl
@[simp] theorem State.uw_sec (s : State) (n : Fin 16) (k : Nat) : (s.uw n k).sec = s.sec := rfl
@[simp] theorem State.uw_vault (s : State) (n : Fin 16) (k : Nat) : (s.uw n k).vault = s.vault := rfl
@[simp] theorem State.uw_dbg (s : State) (n : Fin 16) (k : Nat) : (s.uw n k).dbg = s.dbg := rfl
@[simp] theorem State.uw_cw (s : State) (n : Fin 16) (k : Nat) : (s.uw n k).cw = s.cw := rfl
@[simp] theorem State.uw_pending (s : State) (n : Fin 16) (k : Nat) : (s.uw n k).pending = s.pending := rfl
@[simp] theorem State.uw_free (s : State) (n : Fin 16) (k : Nat) : (s.uw n k).free = s.free := rfl

@[simp] theorem State.fireHop_beryl (s : State) (b : Bool) (n h : Nat) : (s.fireHop b n h).beryl = s.beryl := rfl
@[simp] theorem State.fireHop_lanes (s : State) (b : Bool) (n h : Nat) : (s.fireHop b n h).lanes = s.lanes := rfl
@[simp] theorem State.fireHop_hp (s : State) (b : Bool) (n h : Nat) : (s.fireHop b n h).hp = s.hp := rfl
@[simp] theorem State.fireHop_xf (s : State) (b : Bool) (n h : Nat) : (s.fireHop b n h).xf = s.xf := rfl
@[simp] theorem State.fireHop_key (s : State) (b : Bool) (n h : Nat) : (s.fireHop b n h).key = s.key := rfl
@[simp] theorem State.fireHop_power (s : State) (b : Bool) (n h : Nat) : (s.fireHop b n h).power = s.power := rfl
@[simp] theorem State.fireHop_bat (s : State) (b : Bool) (n h : Nat) : (s.fireHop b n h).bat = s.bat := rfl
@[simp] theorem State.fireHop_chans (s : State) (b : Bool) (n h : Nat) : (s.fireHop b n h).chans = s.chans := rfl
@[simp] theorem State.fireHop_posts (s : State) (b : Bool) (n h : Nat) : (s.fireHop b n h).posts = s.posts := rfl
@[simp] theorem State.fireHop_seqs (s : State) (b : Bool) (n h : Nat) : (s.fireHop b n h).seqs = s.seqs := rfl
@[simp] theorem State.fireHop_ibufs (s : State) (b : Bool) (n h : Nat) : (s.fireHop b n h).ibufs = s.ibufs := rfl
@[simp] theorem State.fireHop_pool (s : State) (b : Bool) (n h : Nat) : (s.fireHop b n h).pool = s.pool := rfl
@[simp] theorem State.fireHop_mem (s : State) (b : Bool) (n h : Nat) : (s.fireHop b n h).mem = s.mem := rfl
@[simp] theorem State.fireHop_engines (s : State) (b : Bool) (n h : Nat) : (s.fireHop b n h).engines = s.engines := rfl
@[simp] theorem State.fireHop_groups (s : State) (b : Bool) (n h : Nat) : (s.fireHop b n h).groups = s.groups := rfl
@[simp] theorem State.fireHop_streams (s : State) (b : Bool) (n h : Nat) : (s.fireHop b n h).streams = s.streams := rfl
@[simp] theorem State.fireHop_crcs (s : State) (b : Bool) (n h : Nat) : (s.fireHop b n h).crcs = s.crcs := rfl
@[simp] theorem State.fireHop_bss (s : State) (b : Bool) (n h : Nat) : (s.fireHop b n h).bss = s.bss := rfl
@[simp] theorem State.fireHop_lcs (s : State) (b : Bool) (n h : Nat) : (s.fireHop b n h).lcs = s.lcs := rfl
@[simp] theorem State.fireHop_gds (s : State) (b : Bool) (n h : Nat) : (s.fireHop b n h).gds = s.gds := rfl
@[simp] theorem State.fireHop_abs_ (s : State) (b : Bool) (n h : Nat) : (s.fireHop b n h).abs_ = s.abs_ := rfl
@[simp] theorem State.fireHop_sn (s : State) (b : Bool) (n h : Nat) : (s.fireHop b n h).sn = { s.sn with fired := s.sn.fired ++ [{ ch := Fin.ofNat 256 n, hop := h, fired := if b then some s.beryl.td0 else none }] } := rfl
@[simp] theorem State.fireHop_ta (s : State) (b : Bool) (n h : Nat) : (s.fireHop b n h).ta = s.ta := rfl
@[simp] theorem State.fireHop_eic (s : State) (b : Bool) (n h : Nat) : (s.fireHop b n h).eic = s.eic := rfl
@[simp] theorem State.fireHop_cs (s : State) (b : Bool) (n h : Nat) : (s.fireHop b n h).cs = s.cs := rfl
@[simp] theorem State.fireHop_sec (s : State) (b : Bool) (n h : Nat) : (s.fireHop b n h).sec = s.sec := rfl
@[simp] theorem State.fireHop_vault (s : State) (b : Bool) (n h : Nat) : (s.fireHop b n h).vault = s.vault := rfl
@[simp] theorem State.fireHop_dbg (s : State) (b : Bool) (n h : Nat) : (s.fireHop b n h).dbg = s.dbg := rfl
@[simp] theorem State.fireHop_cw (s : State) (b : Bool) (n h : Nat) : (s.fireHop b n h).cw = s.cw := rfl
@[simp] theorem State.fireHop_pending (s : State) (b : Bool) (n h : Nat) : (s.fireHop b n h).pending = s.pending := rfl
@[simp] theorem State.fireHop_free (s : State) (b : Bool) (n h : Nat) : (s.fireHop b n h).free = s.free := rfl

@[simp] theorem State.fire_beryl (s : State) (n : Nat) : (s.fire n).beryl = s.beryl := rfl
@[simp] theorem State.fire_lanes (s : State) (n : Nat) : (s.fire n).lanes = s.lanes := rfl
@[simp] theorem State.fire_hp (s : State) (n : Nat) : (s.fire n).hp = s.hp := rfl
@[simp] theorem State.fire_xf (s : State) (n : Nat) : (s.fire n).xf = s.xf := rfl
@[simp] theorem State.fire_key (s : State) (n : Nat) : (s.fire n).key = s.key := rfl
@[simp] theorem State.fire_power (s : State) (n : Nat) : (s.fire n).power = s.power := rfl
@[simp] theorem State.fire_bat (s : State) (n : Nat) : (s.fire n).bat = s.bat := rfl
@[simp] theorem State.fire_chans (s : State) (n : Nat) : (s.fire n).chans = s.chans := rfl
@[simp] theorem State.fire_posts (s : State) (n : Nat) : (s.fire n).posts = s.posts := rfl
@[simp] theorem State.fire_seqs (s : State) (n : Nat) : (s.fire n).seqs = s.seqs := rfl
@[simp] theorem State.fire_ibufs (s : State) (n : Nat) : (s.fire n).ibufs = s.ibufs := rfl
@[simp] theorem State.fire_pool (s : State) (n : Nat) : (s.fire n).pool = s.pool := rfl
@[simp] theorem State.fire_mem (s : State) (n : Nat) : (s.fire n).mem = s.mem := rfl
@[simp] theorem State.fire_engines (s : State) (n : Nat) : (s.fire n).engines = s.engines := rfl
@[simp] theorem State.fire_groups (s : State) (n : Nat) : (s.fire n).groups = s.groups := rfl
@[simp] theorem State.fire_streams (s : State) (n : Nat) : (s.fire n).streams = s.streams := rfl
@[simp] theorem State.fire_crcs (s : State) (n : Nat) : (s.fire n).crcs = s.crcs := rfl
@[simp] theorem State.fire_bss (s : State) (n : Nat) : (s.fire n).bss = s.bss := rfl
@[simp] theorem State.fire_lcs (s : State) (n : Nat) : (s.fire n).lcs = s.lcs := rfl
@[simp] theorem State.fire_gds (s : State) (n : Nat) : (s.fire n).gds = s.gds := rfl
@[simp] theorem State.fire_abs_ (s : State) (n : Nat) : (s.fire n).abs_ = s.abs_ := rfl
@[simp] theorem State.fire_sn (s : State) (n : Nat) : (s.fire n).sn = { s.sn with fired := s.sn.fired ++ [{ ch := Fin.ofNat 256 n, hop := 0, fired := none }] } := rfl
@[simp] theorem State.fire_ta (s : State) (n : Nat) : (s.fire n).ta = s.ta := rfl
@[simp] theorem State.fire_eic (s : State) (n : Nat) : (s.fire n).eic = s.eic := rfl
@[simp] theorem State.fire_cs (s : State) (n : Nat) : (s.fire n).cs = s.cs := rfl
@[simp] theorem State.fire_sec (s : State) (n : Nat) : (s.fire n).sec = s.sec := rfl
@[simp] theorem State.fire_vault (s : State) (n : Nat) : (s.fire n).vault = s.vault := rfl
@[simp] theorem State.fire_dbg (s : State) (n : Nat) : (s.fire n).dbg = s.dbg := rfl
@[simp] theorem State.fire_cw (s : State) (n : Nat) : (s.fire n).cw = s.cw := rfl
@[simp] theorem State.fire_pending (s : State) (n : Nat) : (s.fire n).pending = s.pending := rfl
@[simp] theorem State.fire_free (s : State) (n : Nat) : (s.fire n).free = s.free := rfl

@[simp] theorem State.reqSwitch_beryl (s : State) (n : Fin 16) : (s.reqSwitch n).beryl = s.beryl := rfl
@[simp] theorem State.reqSwitch_lanes (s : State) (n : Fin 16) : (s.reqSwitch n).lanes = s.lanes := rfl
@[simp] theorem State.reqSwitch_hp (s : State) (n : Fin 16) : (s.reqSwitch n).hp = s.hp := rfl
@[simp] theorem State.reqSwitch_xf (s : State) (n : Fin 16) : (s.reqSwitch n).xf = s.xf := rfl
@[simp] theorem State.reqSwitch_key (s : State) (n : Fin 16) : (s.reqSwitch n).key = s.key := rfl
@[simp] theorem State.reqSwitch_power (s : State) (n : Fin 16) : (s.reqSwitch n).power = s.power := rfl
@[simp] theorem State.reqSwitch_bat (s : State) (n : Fin 16) : (s.reqSwitch n).bat = s.bat := rfl
@[simp] theorem State.reqSwitch_chans (s : State) (n : Fin 16) : (s.reqSwitch n).chans = s.chans := rfl
@[simp] theorem State.reqSwitch_posts (s : State) (n : Fin 16) : (s.reqSwitch n).posts = s.posts := rfl
@[simp] theorem State.reqSwitch_seqs (s : State) (n : Fin 16) : (s.reqSwitch n).seqs = s.seqs.mod n fun q => { q with swReq := true } := rfl
@[simp] theorem State.reqSwitch_ibufs (s : State) (n : Fin 16) : (s.reqSwitch n).ibufs = s.ibufs := rfl
@[simp] theorem State.reqSwitch_pool (s : State) (n : Fin 16) : (s.reqSwitch n).pool = s.pool := rfl
@[simp] theorem State.reqSwitch_mem (s : State) (n : Fin 16) : (s.reqSwitch n).mem = s.mem := rfl
@[simp] theorem State.reqSwitch_engines (s : State) (n : Fin 16) : (s.reqSwitch n).engines = s.engines := rfl
@[simp] theorem State.reqSwitch_groups (s : State) (n : Fin 16) : (s.reqSwitch n).groups = s.groups := rfl
@[simp] theorem State.reqSwitch_streams (s : State) (n : Fin 16) : (s.reqSwitch n).streams = s.streams := rfl
@[simp] theorem State.reqSwitch_crcs (s : State) (n : Fin 16) : (s.reqSwitch n).crcs = s.crcs := rfl
@[simp] theorem State.reqSwitch_bss (s : State) (n : Fin 16) : (s.reqSwitch n).bss = s.bss := rfl
@[simp] theorem State.reqSwitch_lcs (s : State) (n : Fin 16) : (s.reqSwitch n).lcs = s.lcs := rfl
@[simp] theorem State.reqSwitch_gds (s : State) (n : Fin 16) : (s.reqSwitch n).gds = s.gds := rfl
@[simp] theorem State.reqSwitch_abs_ (s : State) (n : Fin 16) : (s.reqSwitch n).abs_ = s.abs_ := rfl
@[simp] theorem State.reqSwitch_sn (s : State) (n : Fin 16) : (s.reqSwitch n).sn = s.sn := rfl
@[simp] theorem State.reqSwitch_ta (s : State) (n : Fin 16) : (s.reqSwitch n).ta = s.ta := rfl
@[simp] theorem State.reqSwitch_eic (s : State) (n : Fin 16) : (s.reqSwitch n).eic = s.eic := rfl
@[simp] theorem State.reqSwitch_cs (s : State) (n : Fin 16) : (s.reqSwitch n).cs = s.cs := rfl
@[simp] theorem State.reqSwitch_sec (s : State) (n : Fin 16) : (s.reqSwitch n).sec = s.sec := rfl
@[simp] theorem State.reqSwitch_vault (s : State) (n : Fin 16) : (s.reqSwitch n).vault = s.vault := rfl
@[simp] theorem State.reqSwitch_dbg (s : State) (n : Fin 16) : (s.reqSwitch n).dbg = s.dbg := rfl
@[simp] theorem State.reqSwitch_cw (s : State) (n : Fin 16) : (s.reqSwitch n).cw = s.cw := rfl
@[simp] theorem State.reqSwitch_pending (s : State) (n : Fin 16) : (s.reqSwitch n).pending = s.pending := rfl
@[simp] theorem State.reqSwitch_free (s : State) (n : Fin 16) : (s.reqSwitch n).free = s.free := rfl

end Sys2Proof.Machine
end

