-- ==== Sys2Proof/Laws/Macro.lean ====
section
/-! SUPPORT. Laws of the macro instructions: what a fetch can change, and what the instruction at pc comes to. -/

namespace Sys2Proof.Machine
/-- Reading a line changes error records alone. -/
theorem State.readLine_frame (s : State) (k : Fin 4) (line : Nat) :
    ∃ m, (s.readLine k line).2 = { s with mem := m } := by
  unfold State.readLine
  refine List.foldlRecOn (motive := fun acc : IbLine × State => ∃ m, acc.2 = { s with mem := m }) _ _ ⟨s.mem, rfl⟩ ?_
  rintro acc ⟨m, h⟩ i -
  exact ⟨_, by simp only [State.memRead, h]; rfl⟩

/-- Finding a line changes the instruction buffers and error records alone. -/
theorem State.lineOf_frame (s : State) (k : Fin 4) (line : Nat) :
    ∃ b m, (s.lineOf k line).2 = { s with ibufs := b, mem := m } := by
  unfold State.lineOf
  dsimp only
  split
  · exact ⟨_, s.mem, rfl⟩
  · obtain ⟨m, h⟩ := s.readLine_frame k line
    exact ⟨_, m, by dsimp only; rw [h]⟩

/-- A fetch changes the instruction buffers and error records alone. -/
theorem State.fetch_frame (s : State) (n : Fin 16) : ∃ b m, (s.fetch n).2 = { s with ibufs := b, mem := m } := by
  unfold State.fetch
  dsimp only
  split
  · exact ⟨s.ibufs, s.mem, rfl⟩
  · have := s.lineOf_frame (seqCluster n) ((s.seqs.at n).pc.toNat / 64)
    split <;> exact this

/-- The check of a control-store fetch changes the control stores alone. -/
theorem State.csCheck_frame (s : State) (k : Fin 4) (w : Nat) : ∃ c, (s.csCheck k w).2 = { s with cs := c } := by
  unfold State.csCheck; dsimp only
  split
  · exact ⟨s.cs, rfl⟩
  · split
    · exact ⟨_, rfl⟩
    · exact ⟨s.cs, rfl⟩

/-- The fetches of vendor microcode change the control stores alone. -/
theorem State.vendorFetch_frame (s : State) (n : Fin 16) (w : VendorWork) : ∃ c, (s.vendorFetch n w).2 = { s with cs := c } := by
  unfold State.vendorFetch; dsimp only
  split
  · exact ⟨s.cs, rfl⟩
  · refine List.foldlRecOn (motive := fun acc : Option Nat × State => ∃ c, acc.2 = { s with cs := c }) _ _ ⟨s.cs, rfl⟩ ?_
    rintro ⟨- | bad, _⟩ ⟨c, rfl⟩ x -
    exacts [({ s with cs := c } : State).csCheck_frame (seqCluster n) x, ⟨c, rfl⟩]

/-- The fetches that begin an instruction change the control stores alone. -/
theorem State.wordFetch_frame (s : State) (n : Fin 16) (w : W32) : ∃ c, (s.wordFetch n w).2 = { s with cs := c } := by
  unfold State.wordFetch
  split
  · exact ⟨s.cs, rfl⟩
  · exact s.vendorFetch_frame n _

/-- The beginning of an instruction changes the instruction buffers, error records, the control stores and the mark of the
first fetch at TVEC alone. -/
theorem State.begin_frame {s z : State} {n : Fin 16} {w : W32} (h : s.begin_ n = (.word w, z)) :
    ∃ b m c, z = { s with
      ibufs := b, mem := m, cs := c,
      chans := s.chans.mod (s.seqs.at n).cx fun x => { x with firstFetch := false } } := by
  unfold State.begin_ at h
  obtain ⟨b, m, hf⟩ := s.fetch_frame n
  split at h
  · exact nomatch h
  · next v s1 got =>
    obtain rfl : s1 = { s with ibufs := b, mem := m } := (congrArg Prod.snd got).symm.trans hf
    obtain ⟨c, hc⟩ := (State.fetched { s with ibufs := b, mem := m } n).wordFetch_frame n v
    split at h
    · exact nomatch h
    · next began => exact ⟨b, m, c, ((congrArg Prod.snd h).symm.trans (congrArg Prod.snd began).symm).trans hc⟩

/-- The word that an instruction begins with is the word at pc. -/
theorem State.begin_word {s z : State} {n : Fin 16} {w : W32} (h : s.begin_ n = (.word w, z)) : s.wordAt n = some w := by
  unfold State.begin_ at h
  unfold State.wordAt
  split at h
  · exact nomatch h
  · next got =>
    split at h
    · exact nomatch h
    · rw [got]; exact congrArg some (Begun.word.inj (congrArg Prod.fst h))

/-- What has begun leaves the machine as it was but for what beginning changes. -/
theorem State.At.frame {s z : State} {n : Fin 16} {m : Mn} {w : W32} (h : s.At n m w z) :
    ∃ b m c, z = { s with
      ibufs := b, mem := m, cs := c,
      chans := s.chans.mod (s.seqs.at n).cx fun x => { x with firstFetch := false } } :=
  State.begin_frame h.word

theorem State.At.seqs {s z : State} {n : Fin 16} {m : Mn} {w : W32} (h : s.At n m w z) : z.seqs = s.seqs := by
  obtain ⟨b, m, c, rfl⟩ := h.frame; rfl

/-- At a boundary no instruction is held. -/
theorem State.At.held {s z : State} {n : Fin 16} {m : Mn} {w : W32} (h : s.At n m w z) : (s.seqs.at n).held = none := by
  have := h.runs
  simp only [State.runnable, Bool.and_eq_true, Option.isNone_iff_eq_none] at this
  exact this.1.1.1.2

/-- At a boundary the sequencer holds its channel. -/
theorem State.At.holds {s z : State} {n : Fin 16} {m : Mn} {w : W32} (h : s.At n m w z) : z.holds n = true := by
  have := h.runs
  obtain ⟨b, m, c, rfl⟩ := h.frame
  simp only [State.runnable, Bool.and_eq_true] at this
  simp only [State.holds, Bool.and_eq_true]
  refine ⟨⟨this.1.1.1.1.1.1, this.1.1.1.1.1.2⟩, ?_⟩
  simpa using this.2

/-- The instruction at pc is carried out and ends as its result says. -/
theorem State.At.execute {s z : State} {n : Fin 16} {m : Mn} {w : W32} (h : s.At n m w z) :
    s.macro_ n (some m) = ((m.sem z n w).retire n w).ran n := by
  simp [State.macro_, State.execute, State.runWord, State.meaning, h.own, State.begin_word h.word, h.held, h.runs, h.free, h.word, h.code]

/-- An instruction that completes in `y`. -/
theorem State.At.done {s z : State} {n : Fin 16} {m : Mn} {w : W32} (h : s.At n m w z) {y : State} {k : Nat}
    {npc : Option W32} (hs : m.sem z n w = .done y k npc) (hh : y.holds n = true) :
    s.macro_ n (some m) = y.after n k (npc.getD ((y.seqs.at n).pc + 4)) id := by
  rw [h.execute, hs]
  simp [Res.retire, hh, State.after, State.ran, State.modDsq, State.modDbg, State.uw, State.modSeq, Bank.mod_eq]

/-- An instruction that completes with a change of the registers alone. -/
theorem State.At.regs {s z : State} {n : Fin 16} {m : Mn} {w : W32} (h : s.At n m w z) {f : Seq → Seq} {k : Nat}
    {npc : Option W32} (hs : m.sem z n w = .done (z.modSeq n f) k npc)
    (hc : (f (z.seqs.at n)).cxv = (z.seqs.at n).cxv) (hx : (f (z.seqs.at n)).cx = (z.seqs.at n).cx) (hp : (f (z.seqs.at n)).pc = (z.seqs.at n).pc)
    (hu : (f (z.seqs.at n)).uwcnt = (z.seqs.at n).uwcnt) :
    s.macro_ n (some m) = z.after n k (npc.getD ((z.seqs.at n).pc + 4)) f := by
  have hz := h.holds
  have : (z.modSeq n f).holds n = true := by
    simp only [State.holds, Bool.and_eq_true] at hz ⊢
    exact ⟨⟨hz.1.1, by simpa [State.modSeq, hc] using hz.1.2⟩, by simpa [State.modSeq, hx] using hz.2⟩
  rw [h.done hs this]
  simp [State.after, State.modSeq, Bank.mod_eq, hp, hu]

/-- An instruction that traps. -/
theorem State.At.trap {s z : State} {n : Fin 16} {m : Mn} {w : W32} (h : s.At n m w z) {y : State} {k : Nat} {t : Trap}
    (hs : m.sem z n w = .trap y k t) : s.macro_ n (some m) = y.trapsTo n k t := by
  rw [h.execute, hs]; rfl

@[simp] theorem Seq.setReg_cxv (q : Seq) (r : Nat) (v : W32) : (q.setReg r v).cxv = q.cxv := by
  unfold Seq.setReg; dsimp only; split <;> rfl
@[simp] theorem Seq.setReg_cx (q : Seq) (r : Nat) (v : W32) : (q.setReg r v).cx = q.cx := by
  unfold Seq.setReg; dsimp only; split <;> rfl
@[simp] theorem Seq.setReg_pc (q : Seq) (r : Nat) (v : W32) : (q.setReg r v).pc = q.pc := by
  unfold Seq.setReg; dsimp only; split <;> rfl
@[simp] theorem Seq.setReg_uwcnt (q : Seq) (r : Nat) (v : W32) : (q.setReg r v).uwcnt = q.uwcnt := by
  unfold Seq.setReg; dsimp only; split <;> rfl
@[simp] theorem Seq.setReg_stw (q : Seq) (r : Nat) (v : W32) : (q.setReg r v).stw = q.stw := by
  unfold Seq.setReg; dsimp only; split <;> rfl

/-! Traps. -/

/-- A packet of the trace changes the debug unit alone. -/
theorem State.tracePacket_frame (s : State) (k n : Nat) (v : W32) : ∃ d, s.tracePacket k n v = { s with dbg := d } := ⟨_, rfl⟩

theorem State.traceTrap_frame (s : State) (n : Fin 16) : ∃ d, s.traceTrap n = { s with dbg := d } := by
  unfold State.traceTrap; split
  · exact s.tracePacket_frame _ _ _
  · exact ⟨s.dbg, rfl⟩

theorem State.catchTrap_frame (s : State) (n : Fin 16) : ∃ d, s.catchTrap n = { s with dbg := d } := by
  unfold State.catchTrap; dsimp only; split
  · exact ⟨_, rfl⟩
  · exact ⟨s.dbg, rfl⟩

/-- A trap is its entry, with changes of the debug unit. -/
theorem State.trapsTo_frame (s : State) (n : Fin 16) (k : Nat) (t : Trap) :
    ∃ d, s.trapsTo n k t = { ((s.uw n k).eccTrap n t).trapEntry n t with dbg := d } := by
  unfold State.trapsTo State.takeTrap
  obtain ⟨d1, h1⟩ := (((s.uw n k).eccTrap n t).trapEntry n t).traceTrap_frame n
  rw [h1]
  obtain ⟨d2, h2⟩ := ({ ((s.uw n k).eccTrap n t).trapEntry n t with dbg := d1 } : State).catchTrap_frame n
  rw [h2]
  exact ⟨_, rfl⟩

end Sys2Proof.Machine
end

