-- ==== Sys2Proof/Tests/Slice0.lean ====
section
/-! SUPPORT. Tests: ill-formed payloads that the check refuses, worked examples of the spec, and states that meet the hypotheses
of the statements, clause by clause. -/

namespace Sys2Proof.Tests

set_option Elab.async false

open Sys2Proof Sys2Proof.Machine

/-! States. -/

/-- The block out of reset: both halves and Beryl run. -/
def up : State := { State.reset with
  power := { State.reset.power with crst := false, cready := true, rst := true
                                    halves := Bank.fill 2 { Half.reset with st := .run } }
  beryl := { State.reset.beryl with st := .run, bref := true } }

def hs : Req := { who := .host, sec := true }
def hn : Req := { who := .host, sec := false }
/-- An instant after reset. -/
def t5 : Instant := { ns := 5, q := 0 }
def bt (f : Beryl → Beryl) : State := up.modBeryl f
def dm (f : Domain → Domain) : State := up.modDom 1 f
def xf (f : Xfer → Xfer) : State := up.modXf f
def ln (f : Lane → Lane) : State := up.modLane 0 f
/-- A lane in RUN with EN at 1. -/
def lr (f : Lane → Lane) : State := ln fun l => f { l with cfg := 0x10, st := .run }

theorem detOwner_off {s : State} (h : s.chans = Bank.fill 256 .reset) (p : Channel → Bool) : s.detOwner p = none := by
  simp [State.detOwner, h, Channel.reset]

/-- A choice over a list that answers `b` at `n` and passes by everything else finds `b` where `n` stands in the list. -/
theorem foldl_only {α β : Type} [DecidableEq α] (pick : Option β → α → Option β) (n : α) (b : β)
    (pass : ∀ o m, m ≠ n → pick o m = o) (find : pick none n = some b) (stay : pick (some b) n = some b) (l : List α) :
    (l.foldl pick none = if n ∈ l then some b else none) ∧ l.foldl pick (some b) = some b := by
  have found : ∀ l : List α, l.foldl pick (some b) = some b := fun l =>
    List.foldlRecOn (motive := fun o => o = some b) l pick rfl fun o ho m _ => by
      obtain rfl | other := eq_or_ne m n
      exacts [ho ▸ stay, (pass o m other).trans ho]
  refine ⟨?_, found l⟩
  induction l with
  | nil => rfl
  | cons m rest sofar =>
    obtain rfl | other := eq_or_ne m n
    · simp [find, found]
    · simp [pass none m other, sofar, Ne.symm other]

/-! Ill-formed payloads (R438, log entry 3): the check of Instr.wf refuses a term that breaks it. -/

theorem wf_error : (Instr.abBusError t5 0 (.frame 1 false false false false)).wf = true := by decide +kernel
theorem wf_refuses_no_code : (Instr.abBusError t5 0 (.frame 0 false false false false)).wf = false := by decide +kernel

/-! Witnesses: the queue, time and Beryl. -/

theorem witness_StepRunsTheFrontCommand : { up with pending := [Instr.uncRearm false] }.pending = Instr.uncRearm false :: [] := rfl

theorem witness_QueueIsTheWorldOutside : up.pending = [] ∧ ∃ t, exec (.uncRearm false) up = .next t := ⟨rfl, _, rfl⟩

theorem witness_StepKeepsTheInvariant : ∃ s t, s.Inv ∧ step s = .next t := by
  refine ⟨{ up with pending := [Instr.hostResponse] }, _, ⟨rfl, ?_, ?_, ?_, ?_, rfl, by decide, by decide⟩, rfl⟩ <;>
    intro _ <;> simp [up, State.reset, PeGroup.reset, ControlStore.reset, CsCopy.reset, Guardian.reset, AbCell.reset, sparseWf]

theorem witness_RegisterWrites :
    up.refusal hs true 0x10028 4 3 = none ∧ up.refusal hs true 0xA0018 4 3 = none ∧ up.refusal hs true 0xC0000 4 3 = none ∧
    up.refusal hs true 0x60000 4 3 = none ∧ up.refusal hs true 0x10003C 4 3 = none ∧ up.refusal hs true 0xA0014 4 0x300 = none ∧
    up.ticking = true ∧
    (memWindow (0x10028 : BitVec 26).toNat = false ∧ State.reset.refusal hs true (0x10028 : BitVec 26).toNat 4 3 = some .reset) ∧
    State.reset.refusal hs true (0x1C0000 + 0x40 * 255) 4 1 = some .reset ∧
    State.reset.refusal hs true (0x200200 + 4 * 31) 4 1 = some .reset ∧ State.reset.refusal hs true 0x30008 4 1 = some .reset ∧
    (up.modPw fun p => { p with sokLow := true, supCfg := 2 }).refusal hs true (0x40000 + 4 * 63) 4 1 = some .guard ∧
    (up.modSeq 0 fun q => { q with st := .idle }).refusal hs true (0x1A0000 + 4 * 16383) 4 1 = some .disabled := by decide +kernel

def hrq (write : Bool) (a : BitVec 26) : HostReq :=
  { write := write, size := 1, addr := a, data := 0, tag := 0, sec := false, hw := 0 }

theorem witness_HostPortCommands :
    ((up.advance t5).power.vao = true ∧ (up.advance t5).power.vcore = true ∧ (up.advance t5).hp.resps.length < 16 ∧
      ((up.advance t5).busRead hs 0x0 (sizeBytes 1)).1.isOk = true ∧
      ((up.advance t5).busWrite hs 0x10028 (sizeBytes 1) 3).1 = none) ∧
    (up.advance t5).hp.rstN = true ∧ (up.advance t5).hp.reqs = [] ∧
    ({ up with hp := { up.hp with rstN := false } } : State).hp.rstN = false ∧
    (hwWins 0xA0014 0x300 0x200 = 0x100) ∧
    ({ up with hp := { up.hp with resps := [⟨1, 0, 0⟩] } } : State).hp.resps = [⟨1, 0, 0⟩] ∧ up.up = true := by decide +kernel

theorem witness_RefusedHostAccess :
    (up.advance t5).power.vao = true ∧ (up.advance t5).power.vcore = true ∧ (up.advance t5).hp.resps.length < 16 ∧
    (up.advance t5).hp.rstN = true ∧ (up.advance t5).hp.reqs = [] ∧
    (up.advance t5).refusal { who := .host, sec := false } true (0x3FFFFFC : BitVec 26).toNat (sizeBytes 1) 0 = some .unmapped ∧
    (up.advance t5).refusal { who := .host, sec := false } false (0x1 : BitVec 26).toNat (sizeBytes 1) 0 = some .align := by
  decide +kernel

theorem witness_TransferEngine :
    up.up = true ∧ up.xf.st = .off ∧
    ((xf fun x => { x with st := .idle, sys := 8, blk := 0x1000000, len := 8 }).xf.st = .idle ∧ xfValid 8 0x1000000 8 false = true ∧
      xfValid 8 0x1000000 0 false = false) ∧
    ((xf fun x => { x with st := .idle, en := true }).xf.st = .idle ∧ (xf fun x => { x with st := .idle, en := true }).xf.en = true) ∧
    (let x := (xf fun x => { x with st := .busy, en := true, bursts := [⟨0, 0x1000000, 0, 1, 0, 0⟩] }).xf
     x.st = .busy ∧ x.en = true ∧ x.bursts ≠ []) ∧
    ((xf fun x => { x with st := .error, en := true }).xf.st = .error ∧ (xf fun x => { x with st := .error, en := true }).xf.en = true) ∧
    (xf fun x => { x with wd := wdBeats 3 [1, 2] }).xf.wd = wdBeats 3 (1 :: [2]) ∧ up.hp.hiRstN = true ∧
    (let a := ((xf fun x => { x with st := .busy, llen := 8, lblk := 0x1000000, ldir := true }).advance t5).xfBeats 0
     a.xf.ldir = true ∧ (a.xfFetch (a.xf.lblk + a.xf.next) a.xf.beats).1 = some [0]) ∧
    (let a := ((xf fun x => { x with st := .busy, llen := 8, lblk := 0x1000000, wd := wdBeats 3 [1] }).advance t5).xfBeats 1
     a.up = true ∧ a.xf.st = .busy ∧ a.xf.stopped = false ∧ a.xf.ldir = false ∧ a.xf.next < a.xf.llen ∧
       a.xf.bursts.length + a.xf.deadTags.length < a.xf.maxOut ∧ (7 : Fin 8) ∉ a.xf.bursts.map Burst.tag ∧ (7 : Fin 8) ∉ a.xf.deadTags) ∧
    (let b : Burst := ⟨0, 0x1000000, 0, 1, 0, 0⟩
     let s := (xf fun x => { x with st := .busy, bursts := [b], llen := 8, next := 8 }).xfBeats 0
     s.up = true ∧ s.hp.hiRstN = true ∧ s.xf.st = .busy ∧ s.xf.ldir = false ∧ s.xf.bursts = [b] ∧ b.tag ∉ s.xf.deadTags ∧
       s.refusal xfReq true (b.blk + 8 * b.got) 8 9 = none ∧ s.xf.llen ≤ s.xf.next) ∧
    (let b : Burst := ⟨0, 0x1000000, 0, 1, 0, 0⟩
     let a := (xf fun x => { x with st := .busy, bursts := [b], cfg := 0x100 }).advance { ns := 1000, q := 0 }
     a.up = true ∧ a.ticking = true ∧ a.xf.st = .busy ∧ a.xf.bursts = [b] ∧ fldN a.xf.cfg 8 8 ≠ 0 ∧
       notBefore a.beryl.td0 (b.issued + BitVec.ofNat 64 (1000 * fldN a.xf.cfg 8 8)) = true) := by decide +kernel

theorem witness_BurstIsTheLargest : ∃ x : Xfer, x.next < x.llen ∧ 8 ∣ x.llen ∧ 8 ∣ x.next ∧ 8 ∣ x.lsys ∧ x.beats = 1 :=
  ⟨{ State.reset.xf with next := 0, llen := 4096, lsys := 4088 }, by decide +kernel⟩

theorem witness_TimeAdvances :
    (up.beryl.st = .run ∧ notBefore t5.ns up.beryl.td0 = true) ∧ State.reset.beryl.st ≠ .run ∧
    notBefore t5.ns (bt fun b => { b with td0 := 6 }).beryl.td0 = false ∧
    ((bt fun b => { b with td0 := 0xFFFFFFFFFFFFFFFF }).beryl.st = .run ∧
      (bt fun b => { b with td0 := 0xFFFFFFFFFFFFFFFF }).beryl.td0 ≠ 0 ∧
      notBefore 0 (bt fun b => { b with td0 := 0xFFFFFFFFFFFFFFFF }).beryl.td0 = true) ∧ State.reset.beryl.td0 = 0 := by decide +kernel

theorem witness_BerylTransitions :
    ((bt fun b => { b with st := .waitRef }).advance t5).beryl.st = .waitRef ∧
    ((bt fun b => { b with st := .ready }).advance t5).beryl.st = .ready ∧
    up.beryl.st = .run ∧ (bt fun b => { b with st := .lost }).beryl.st = .lost ∧ (bt fun b => { b with st := .lost }).up = true ∧
    ((bt fun b => { b with st := .waitRef, cfg := 2 }).beryl.st = .waitRef ∧ bit (bt fun b => { b with st := .waitRef, cfg := 2 }).beryl.cfg 1 = true) ∧
    (bit (bt fun b => { b with st := .waitRef }).beryl.cfg 1 = false) ∧
    up.beryl.st ≠ .lost ∧ up.beryl.st ≠ .ready ∧ up.beryl.snapAt ≠ some up.beryl.td0 ∧ up.up = true ∧ up.beryl.st = .run ∧
    ∀ e, ((up.advance t5).engines.at e).stallOn ≠ .lane := by
  decide +kernel

theorem witness_TimeReads :
    (up.up = true ∧ bit (bt fun b => { b with cfg := 1 }).beryl.cfg 0 = true) ∧ bit up.beryl.cfg 0 = false ∧
    (let a := up.advance { ns := 1000, q := 0 }
     a.up = true ∧ a.ticking = true ∧ a.beryl.td0.toNat % 1000 = 0 ∧ a.power.canaryAt ≠ some a.beryl.td0) ∧
    (up.advance t5).beryl.td0.toNat % 1000 ≠ 0 := by decide +kernel

theorem witness_DomainCommandsAreJudged :
    (TdCode.set, Instr.tdSet .host 7 true) ∈ [(TdCode.set, Instr.tdSet .host 7 true), (.step, .tdStep .host 7 true),
      (.slew, .tdSlew .host 7 true), (.rate, .tdRate .host 7 true)] ∧
    up.up = true ∧ (7 : Fin 8) ≠ 0 ∧
    -- STATE, RANGE, BUSY, AT and NOW
    ((bt fun b => { b with st := .lost }).beryl.st ≠ .ready ∧ (bt fun b => { b with st := .lost }).beryl.st ≠ .run) ∧
    tdRangeOk .rate 0x40000001 0 = false ∧ tdRangeOk .rate 0x40000000 0 = true ∧ tdRangeOk .slew 1 0 = false ∧
    tdRangeOk .slew 1 109951162 = true ∧
    ((dm fun d => { d with at_ := 1 }).beryl.td0 < ((dm fun d => { d with at_ := 1 }).beryl.doms.at 1).at_) ∧
    ¬ up.beryl.td0 < (up.beryl.doms.at 1).at_ ∧
    (let p : PendCmd := ⟨.set, 0, 0, 9, false, false, none⟩
     let d := ((dm fun d => { d with pend := [p] }).tdSettle 1).beryl.doms.at 1
     (∃ p ∈ d.pend, p.isNow = false) ∧ ∀ w, d.slew = some w → False) ∧
    ((∀ p ∈ (up.beryl.doms.at 1).pend, up.beryl.g < p.at_) ∧ (up.beryl.doms.at 1).slew = none) ∧
    -- CANCEL
    (let p : PendCmd := ⟨.set, 0, 0, 9, false, false, none⟩
     let d := ((dm fun d => { d with pend := [p] }).tdSettle 1).beryl.doms.at 1
     d.slew = none ∧ ∃ p ∈ d.pend, p.isNow = false) ∧
    (let p : PendCmd := ⟨.set, 0, 0, 9, false, true, none⟩
     let d := ((dm fun d => { d with pend := [p] }).tdSettle 1).beryl.doms.at 1
     d.slew = none ∧ d.pend ≠ [] ∧ ∀ p ∈ d.pend, p.isNow = true) ∧
    (let w : Slew := ⟨1, 1, 0, 2, none, false, none⟩
     let z := (dm fun d => { d with slew := some w }).tdSettle 1
     (z.beryl.doms.at 1).slew = some w ∧ up.beryl.td0.toNat + 1 < w.endAt) ∧
    (let w : Slew := ⟨1, 1, 0, 1, none, false, none⟩
     let z := (dm fun d => { d with slew := some w }).tdSettle 1
     (z.beryl.doms.at 1).slew = some w ∧ ¬ up.beryl.td0.toNat + 1 < w.endAt) := by
  refine ⟨by decide +kernel, by decide +kernel, by decide +kernel, by decide +kernel, by decide +kernel, by decide +kernel, by decide +kernel,
    by decide +kernel, by decide +kernel, by decide +kernel, ⟨by decide +kernel, ?_⟩, ⟨by decide +kernel, by decide +kernel⟩, by decide +kernel,
    by decide +kernel, by decide +kernel, by decide +kernel⟩
  intro w h
  have : (((dm fun d => { d with pend := [(⟨.set, 0, 0, 9, false, false, none⟩ : PendCmd)] }).tdSettle 1).beryl.doms.at 1).slew = none := by
    decide +kernel
  rw [this] at h
  cases h

theorem witness_DomainCommandsApply :
    (let p : PendCmd := ⟨.set, 0, 0, 5, false, false, none⟩
     let a := (dm fun d => { d with pend := [p] }).advance t5
     a.up = true ∧ a.ticking = true ∧ (a.beryl.doms.at 1).pend = [p] ∧ p.at_ ≤ a.beryl.g ∧ (a.beryl.doms.at 1).slew = none) ∧
    (let w : Slew := ⟨1, 1, 0, 5, none, false, none⟩
     let a := (dm fun d => { d with cur := { d.cur with r := 1 }, slew := some w }).advance t5
     let d := a.beryl.doms.at 1
     a.up = true ∧ a.ticking = true ∧ d.slew = some w ∧ w.cut = none ∧ w.stop ≤ a.beryl.g ∧
       d.cur.gs = w.from_ ∧ d.cur.r = d.rate + w.arg.sign * w.rate ∧ w.from_ ≤ w.endAt) ∧
    (let w : Slew := ⟨1, 1, 0, 9, some 5, true, none⟩
     let a := (dm fun d => { d with slew := some w }).advance t5
     (a.beryl.doms.at 1).slew = some w ∧ w.cut = some 5 ∧ w.stop ≤ a.beryl.g) := by decide +kernel

/-! Lanes. -/

theorem witness_LaneSetUp :
    (up.laneUp 0 = true ∧ (up.lanes.at 0).en = false ∧ bit (0x10 : W32) 4 = true ∧ (up.lanes.at 0).st = .off ∧ (up.lanes.at 0).aq = []) ∧
    (((lr id).lanes.at 0).en = true ∧ bit (0 : W32) 4 = false ∧ (lr id).laneUp 0 = true ∧ bit (0x14 : W32) 4 = true) ∧
    ((lr fun l => { l with st := .fault }).lanes.at 0).st = .fault ∧ ((lr id).lanes.at 0).st ≠ .fault := by decide +kernel

def act (op : ActOp) (ns : BitVec 40) : ActEntry := { v := true, op := op, td := 0, ns := ns, ge := 0, execAt := none, passed := false }

theorem witness_LaneActions :
    (let a := (lr id).advance t5
     a.laneUp 0 = true ∧ a.ticking = true ∧ (a.lanes.at 0).st ≠ .fault ∧ (a.lanes.at 0).aq.length < 8 ∧
       (a.lanes.at 0).faultAt = []) ∧
    8 ≤ (((lr fun l => { l with aq := List.replicate 8 (act .drive 0) }).advance t5).lanes.at 0).aq.length ∧
    (let a := (lr fun l => { l with lastAccept := some 2 }).advance t5
     (a.lanes.at 0).lastAccept = some 2 ∧ notBefore a.beryl.td0 (2 + 4) = false ∧ notBefore a.beryl.td0 (1 + 4) = true) ∧
    (let a := (lr fun l => { l with aq := [act .drive 5, act .toggle 5] }).advance t5
     a.laneUp 0 = true ∧ a.ticking = true ∧ (a.lanes.at 0).st = .run ∧ (a.lanes.at 0).aq = act .drive 5 :: [act .toggle 5] ∧
       a.entryDue (act .drive 5) a.beryl.td0 = true ∧ ∀ x ∈ ([act .toggle 5] : List ActEntry).head?, a.orderLate x = false) ∧
    (act .float 5).op = .float ∧ (act .toggle 5).op = .toggle ∧ (act .rest 5).op = .rest ∧ (act .sample 5).op = .sample ∧
    (act .mark 5).op = .mark := by decide +kernel

/-- Exactly 24 ns before its instant an action is not late. -/
theorem witness_LaneActions_lead :
    let a := (lr id).advance t5
    (a.beryl.doms.at 0).leadLate 29 (a.abs 5) = false ∧ (a.beryl.doms.at 0).leadLate 28 (a.abs 5) = true := by
  intro a
  have h : a.beryl.doms.at 0 = .reset := by decide +kernel
  have g : a.abs 5 = 5 := by decide +kernel
  rw [h, g]
  decide +kernel

theorem witness_LaneActions_policies :
    ((lr id).advance t5).lanePolicy 0 = .drop ∧ ((lr fun l => { l with cfg := 0x14 }).advance t5).lanePolicy 0 = .exec ∧
    ((lr fun l => { l with cfg := 0x18 }).advance t5).lanePolicy 0 = .fault := by
  refine ⟨?_, ?_, ?_⟩ <;> rw [State.lanePolicy, State.laneOwner, detOwner_off rfl] <;> decide +kernel

theorem witness_LaneFaults :
    (let a := (lr fun l => { l with aq := [act .drive 5, act .drive 4] }).advance t5
     a.laneUp 0 = true ∧ a.ticking = true ∧ (a.lanes.at 0).st = .run ∧ (a.lanes.at 0).aq = [act .drive 5, act .drive 4] ∧
       a.entryDue (act .drive 5) a.beryl.td0 = true ∧ a.orderLate (act .drive 4) = true) ∧
    (let a := (lr fun l => { l with faultAt := [5] }).advance t5
     a.laneUp 0 = true ∧ a.ticking = true ∧ (a.lanes.at 0).st ≠ .fault ∧ 5 ∈ (a.lanes.at 0).faultAt ∧
       notBefore a.beryl.td0 5 = true) ∧
    (((lr fun l => { l with st := .fault, faultAt := [5] }).advance t5).lanes.at 0).st = .fault := by decide +kernel

theorem witness_LaneFaults_owner :
    ((lr fun l => { l with st := .fault, faultAt := [5] }).advance t5).laneOwner 0 = none ∧
    (({ lr fun l => { l with st := .fault, faultAt := [5], cq := List.replicate 8 ⟨false, false, .mark, true, t5⟩ } with
        chans := up.chans.upd 0 { Channel.reset with st := .run, config := 0x80000000, lanes := 1 } } : State).advance t5).laneOwner 0 =
      some 0 := by
  refine ⟨?_, ?_⟩
  · rw [State.laneOwner, detOwner_off rfl]
  · decide +kernel

theorem witness_LaneCaptures :
    ((up.advance t5).lanes.at 0).level = false ∧
    (let a := (lr fun l => { l with cfg := 0x70 }).advance t5
     (a.lanes.at 0).level ≠ true ∧ (a.lanes.at 0).cand = none ∧ a.capturing 0 = true ∧
       edgeSel (a.lanes.at 0).capEdge true = true ∧ ∀ i, i < 16 → (a.lanes.at (groupLane 0 i)).strbEn = false) ∧
    (let a := (lr fun l => { l with cfg := 0x110, cand := some { ns := 5, q := 0 } }).advance t5
     (a.lanes.at 0).level ≠ true ∧ a.ticking = true ∧ (a.lanes.at 0).cand = some { ns := 5, q := 0 } ∧
       (t5.quarters - ({ ns := 5, q := 0 } : Instant).quarters).toNat < 4 * (a.lanes.at 0).filt) ∧
    (let p : PendCap := ⟨.mark, true, false, t5, 5, 0, []⟩
     let a := (lr fun l => { l with pend := [p] }).advance t5
     a.laneUp 0 = true ∧ a.ticking = true ∧ firstCap (a.lanes.at 0).pend = some (p, []) ∧ notBefore a.beryl.td0 p.commitAt = true ∧
       (a.lanes.at 0).cq.length < 8) ∧
    (let l := Lane.reset 0 false
     ({ l with cfg := 0x10 } : Lane).readings .mark = [] ∧ ({ l with cfg := 0x10 } : Lane).readings .sample = [0]) ∧
    8 ≤ ((lr fun l => { l with cq := List.replicate 8 ⟨false, false, .mark, true, t5⟩ }).lanes.at 0).cq.length ∧
    ((lr fun l => { l with st := .fault }).lanes.at 0).st ≠ .run := by
  decide +kernel

/-! Streams and engines. -/

def sf (f : Stream → Stream) : State := up.modSf 0 f
def en (f : Engine → Engine) : State := up.modEng 0 f
/-- Engine 0 in RUN with PC_HI 0xFF and the word `w` at word 0 of its program. -/
def pe (w : W32) (f : Engine → Engine) : State :=
  { en (fun e => f { e with cfg := 1, st := .run }) with groups := up.groups.upd 0 { prog := if w = 0 then [] else [(0, w)], isel := 0 } }
def txw : TxWork :=
  { first := 0, desc := 0, fetched := true, buf := 0, left := 8, eof := true, crcOn := true, evt := true, crc := 0,
    code := .start false, nib := [], bits := [], fin := false, closed := false, started := true }
def rxw : RxWork :=
  { stamp := none, abort := false, trunc := false, codeErr := false, code := .start false, lc := [], byteBits := [],
    tail := [], crc := 0, total := 8, stored := 8, word := [], dropped := false }
/-- Memory with the word `v` at block offset `a`. -/
def word (s : State) (a v : Nat) : State := { s with mem := s.mem.setNum a 8 v }

theorem witness_StreamControl_config :
    ((sf id).sfUp 0 = true ∧ ((sf id).streams.at 0).st = .off ∧ bit ((sf id).streams.at 0).cfg 0 = false ∧ bit (3 : W32) 0 = true ∧
      up.sfCfgOk 0 3 = true ∧ up.sfCfgOk 0 1 = true ∧ (sf fun c => { c with ring := 13 }).sfCfgOk 0 3 = false ∧
      (sf fun c => { c with ring := 12 }).sfCfgOk 0 3 = true) ∧
    (((sf fun c => { c with st := .idle, cfg := 1 }).streams.at 0).st = .idle ∧ bit (1 : W32) 0 = true ∧ bit (0 : W32) 0 = false) ∧
    (let c := (sf fun c => { c with st := .active, cfg := 1, tx := some txw }).streams.at 0
     c.st = .active ∧ c.inFlight = true ∧ bit c.cfg 0 = true) ∧
    (let c := (sf fun c => { c with st := .draining, tx := some txw }).streams.at 0
     c.st = .draining ∧ c.rx? = false ∧ c.tx = some txw ∧ txw.started = true ∧ txw.closed = false ∧ bit (8 : W32) 0 = false ∧ bit (8 : W32) 3 = true) ∧
    (let c := (sf fun c => { c with st := .draining, cfg := 2, rx := some rxw }).streams.at 0
     c.st = .draining ∧ c.rx? = true ∧ c.rx = some rxw ∧ c.abortEnt = false) ∧
    (bit ((sf fun c => { c with st := .error, cfg := 1, tx := none }).streams.at 0).cfg 0 = true) ∧
    ((sf fun c => { c with cfg := 4 }).streams.at 0).chain = true ∧ (up.streams.at 0).chain = false := by decide +kernel

theorem witness_StreamControl_commands :
    (let c := (sf fun c => { c with st := .idle, addr := 0x1FFFF8, len := 8 }).streams.at 0
     c.st = .idle ∧ c.rx? = false ∧ c.chain = false ∧ fldN c.len 0 16 ≠ 0 ∧ c.base + fldN c.len 0 16 ≤ 2 ^ 21) ∧
    (let c := (sf fun c => { c with st := .idle, cfg := 4, addr := 16 }).streams.at 0
     c.st = .idle ∧ c.rx? = false ∧ c.chain = true ∧ c.base % 16 = 0) ∧
    fldN ((sf fun c => { c with st := .idle }).streams.at 0).len 0 16 = 0 ∧ (up.streams.at 0).st ≠ .idle ∧
    ((sf fun c => { c with cfg := 2 }).streams.at 0).rx? = true ∧
    (let s := sf fun c => { c with st := .idle, cfg := 4 }
     let a := (s.streams.at 0).cur
     ((s.collide 0 [] false (a + 8) (a + 16)).portB (a + 8)).1 = some 0) ∧
    (let s := word (word (sf fun c => { c with st := .idle, cfg := 4 }) 0x1000008 0x11) 0x1000010 0x100000020
     let x := (s.collide 0 [] false 8 16).portB 8
     x.1 = some 0x11 ∧ 0x11 % 2 = 1 ∧ ((x.2.collide 0 [] false 16 24).portB 16).1 = some 0x100000020 ∧
       0x11 / 16 % 2 ^ 17 * 16 = 16 ∧ 0x100000020 / 2 ^ 32 % 2 ^ 16 ≠ 0 ∧
       0x100000020 % 2 ^ 21 + 0x100000020 / 2 ^ 32 % 2 ^ 16 ≤ 2 ^ 21) ∧
    (let c := (sf fun c => { c with st := .error, cfg := 1 }).streams.at 0
     c.st = .error ∧ bit c.cfg 0 = true) ∧
    ((sf fun c => { c with st := .active }).streams.at 0).st = .active := by decide +kernel

theorem witness_StreamRecords :
    (let c := (sf fun c => { c with st := .idle, recs := [1], cpl := List.replicate 7 0 }).streams.at 0
     c.recs = 1 :: [] ∧ c.cpl.length < 8 ∧ bit c.cfg 28 = false ∧ c.st ≠ .off) ∧
    (up.streams.at 0).cpl = [] ∧ ((sf fun c => { c with cpl := [5] }).streams.at 0).cpl = 5 :: [] ∧
    8 ≤ ((sf fun c => { c with cpl := List.replicate 8 0 }).streams.at 0).cpl.length ∧
    bit (0x10000000 : W32) 28 = true := by decide +kernel

theorem witness_StreamReadPointer :
    (let c := (sf fun c => { c with rp := 0xF8, wp := 8 }).streams.at 0
     8 * fldN (8 : W32) 3 17 < c.size ∧ (8 + c.size - c.rp % c.size) % c.size ≤ (c.wp % c.size + c.size - c.rp % c.size) % c.size ∧
       ¬ (16 + c.size - c.rp % c.size) % c.size ≤ (c.wp % c.size + c.size - c.rp % c.size) % c.size ∧ ¬ 8 * fldN (0x100 : W32) 3 17 < c.size) := by
  decide +kernel

theorem witness_StreamData :
    (let s := word (sf fun c => { c with st := .active, cfg := 4, tx := some { txw with fetched := false } }) 0x1000000 0x100000020
     let c := s.streams.at 0
     c.st = .active ∧ c.rx? = false ∧ c.chain = true ∧ c.recs = [] ∧ c.tx = some { txw with fetched := false } ∧
       c.abortEnt = false ∧ ((s.collide 0 [] false 0 8).portB 0).1 = some 0x100000020) ∧
    (let f := { txw with bits := List.replicate 65 true }
     let c := (sf fun c => { c with st := .active, tx := some f }).streams.at 0
     c.abortEnt = false ∧ ((up.engines.at (sfEng 0 c)).ifs.at (sfFifo c)).length < 4 ∧ f.fetched = true ∧ f.closed = false ∧
       65 ≤ f.bits.length ∧ f.left ≠ 0) ∧
    (let f := { txw with bits := List.replicate 64 true, fin := true, left := 0 }
     f.fin = true ∧ f.left = 0 ∧ f.bits ≠ [] ∧ f.bits.length ≤ 64 ∧ up.sfUp 127 = true ∧ (up.streams.at 127).crcEn = false) ∧
    (let c := (sf fun c => { c with st := .active, abortEnt := true, fail := some (.desc, 16) }).streams.at 0
     c.st = .active ∧ c.rx? = false ∧ c.abortEnt = true ∧ c.fail = some (.desc, 16)) ∧
    (let c := (sf fun c => { c with st := .draining, abortEnt := true }).streams.at 0
     c.st = .draining ∧ c.enRec = none ∧ c.rx? = false ∧ c.abortEnt = true ∧ c.fail = none ∧ c.tx = none) ∧
    (let c := (sf fun c => { c with st := .draining, cfg := 4, abortEnt := true, tx := some txw }).streams.at 0
     c.enRec = none ∧ c.fail = none ∧ c.tx = some txw ∧ c.chain = true ∧ txw.closed = false) ∧
    (let e : OutEntry := ⟨0, .stamp, 0, 0⟩
     let s := (sf fun c => { c with st := .active, cfg := 2 }).modEng 0 fun y => { y with ofs := y.ofs.upd 0 [e] }
     let c := s.streams.at 0
     c.st = .active ∧ c.rx? = true ∧ c.recs = [] ∧ c.rx = none ∧ (s.engines.at (sfEng 0 c)).ofs.at (sfFifo c) = e :: []) ∧
    (let e : OutEntry := ⟨7, .data, 63, 0⟩
     let s := (sf fun c => { c with st := .active, cfg := 2, rx := some rxw }).modEng 0 fun y => { y with ofs := y.ofs.upd 0 [e] }
     let c := s.streams.at 0
     Memory.wf s.mem = true ∧ c.rx = some rxw ∧ c.crcEn = false ∧ bit c.cfg 20 = false ∧ bit c.cfg 24 = false ∧ c.bitOrd = false ∧
       (s.engines.at (sfEng 0 c)).ofs.at (sfFifo c) = e :: [] ∧ e.tag = .data ∧ e.nbits = 63 ∧ rxw.stored % 8 = 0 ∧
       rxw.stored + 8 ≤ c.maxLen ∧ 8 + 8 * (rxw.stored / 8 + 1) ≤ c.space) := by decide +kernel

theorem witness_EngineControl :
    (up.engUp 0 = true ∧ (up.engines.at 0).st = .off ∧ (up.engines.at 0).en = false ∧ (up.engines.at 0).cfgOk = true ∧
      -- the out set may end at lane 15 and no further
      (((en fun e => { e with lanes := 0xFF }).engines.at 0).cfgOk = false ∧ ((en fun e => { e with lanes := 0xF0 }).engines.at 0).cfgOk = true)) ∧
    (let e := (en fun e => { e with st := .halt, cfg := 1 }).engines.at 0
     e.st = .halt ∧ e.en = true ∧ e.enRec = none ∧ e.pclo ≤ e.pc.toNat ∧ e.pc.toNat ≤ e.pchi) ∧
    ((pe 0 id).peIdle 0 = false ∧ ((pe 0 id).engines.at 0).stop = none ∧ ((pe 0 id).engines.at 0).st = .run ∧ ((pe 0 id).engines.at 0).en = true) ∧
    ((pe 0x04000000 id).peIdle 0 = true ∧ ((pe 0x04000000 id).engines.at 0).enRec = none ∧
      ((pe 0x04000000 id).engines.at 0).stepDone = 0) ∧
    (let e := (pe 0x04000000 fun e => { e with st := .stall, stallOn := .lane, stepDone := 1 }).engines.at 0
     e.stepDone ≠ 0 ∧ e.st = .stall ∧ ((en fun e => { e with st := .draining, stepDone := 1 }).engines.at 0).stepDone ≠ 0) ∧
    ((en fun e => { e with st := .draining }).engines.at 0).st = .draining ∧
    (let e := (en fun e => { e with st := .halt, pcReg := 0xFF01 }).engines.at 0
     e.st = .halt ∧ ¬ (e.pclo ≤ e.pc.toNat ∧ e.pc.toNat ≤ e.pchi)) ∧
    (let e := (en fun e => { e with st := .halt, pcReg := 0xFFFF00 }).engines.at 0
     e.pclo ≤ (fld e.pcReg 16 8).toNat ∧ (fld e.pcReg 16 8).toNat ≤ e.pchi) ∧
    ((en fun e => { e with st := .error }).engines.at 0).st = .error ∧
    (let e := (en fun e => { e with abortPend := 1 }).engines.at 0
     e.abortPend = 1 ∧ (e.ofs.at 0).length < 4) := by decide +kernel

theorem witness_EngineHostAccess :
    ((sf fun c => { c with st := .idle }).sfAttached 0 false 0 = true ∧ up.sfAttached 0 false 0 = false ∧
      ((up.engines.at 0).ifs.at 7).length < 4 ∧ (7 : Fin 8).val = fldN (0x700 : W32) 8 3) ∧
    (4 ≤ (((en fun e => { e with ifs := e.ifs.upd 0 (List.replicate 4 ⟨0, .data, 0, none⟩) }).engines.at 0).ifs.at 0).length) ∧
    ((sf fun c => { c with st := .active, cfg := 2 }).sfAttached 0 true 0 = true ∧ up.sfAttached 0 true 0 = false ∧
      (up.engines.at 0).ofs.at 0 = [] ∧ (0 : Fin 8).val = fldN (up.engines.at 0).cfg 28 3) ∧
    ((en fun e => { e with ofs := e.ofs.upd 0 [⟨0, .data, 0, 0⟩] }).engines.at 0).ofs.at 0 = ⟨0, .data, 0, 0⟩ :: [] ∧
    (up.inspected 0 = 0 ∧ fldN (up.groups.at 0).isel 0 4 = 0 ∧ fldN (14 : W32) 0 4 = 14 ∧
      (let s := pe 0 id
       (s.engines.at 0).st ≠ .off ∧ (s.engines.at 0).st ≠ .halt)) ∧
    (sparseWf 0 (up.groups.at 0).prog = true ∧ up.refusal hs true (0x120000 + 0x400 * 15 + 4 * 255) 4 9 = none) := by decide +kernel

theorem witness_EngineHostAccess_owner : up.engOwner 0 = none := by rw [State.engOwner, detOwner_off rfl]

theorem engineAt_of {s : State} {n : Fin 64} {w : W32} {r : Nat}
    (h : (s.engUp n && ((s.engines.at n).st = .run || (s.engines.at n).st = .wait) && decide ((s.engines.at n).stop = none) &&
      decide (s.peWord n = w) && (s.engines.at n).legal w &&
      decide (r = if (s.engines.at n).rep = 0 then (s.engines.at n).count w else (s.engines.at n).rep)) = true) : s.engineAt n w r := by
  simp only [Bool.and_eq_true, Bool.or_eq_true, decide_eq_true_eq] at h
  obtain ⟨⟨⟨⟨⟨u, t⟩, e⟩, p⟩, l⟩, c⟩ := h
  exact ⟨u, t.elim .inl fun x => .inr (.inr x), e, p, l, c⟩

theorem witness_EngineInstructions_at :
    (pe 0x08000007 id).engineAt 0 0x08000007 1 ∧ ((pe 0x08000007 id).engines.at 0).nextPc = some 1 ∧ peOpc 0x08000007 = 1 ∧
    (pe 0x10000000 fun e => { e with icnt := 64 }).engineAt 0 0x10000000 1 ∧ (pe 0x10000010 id).engineAt 0 0x10000010 1 ∧
    (pe 0x38000000 id).engineAt 0 0x38000000 1 ∧ (pe 0x39FFFFFF id).engineAt 0 0x39FFFFFF 1 ∧ (pe 0x3A800000 id).engineAt 0 0x3A800000 1 ∧
    (pe 0x42000000 id).engineAt 0 0x42000000 1 ∧ (pe 0x4B00FFFF id).engineAt 0 0x4B00FFFF 1 ∧
    (pe 0x50FFFFFF id).engineAt 0 0x50FFFFFF 1 ∧ (pe 0x58000000 id).engineAt 0 0x58000000 1 ∧
    (pe 0x600000FF id).engineAt 0 0x600000FF 1 ∧ (pe 0x62000005 id).engineAt 0 0x62000005 1 ∧
    (pe 0x600000FF fun e => { e with rep := 2 }).engineAt 0 0x600000FF 2 := by
  and_intros <;> first | exact engineAt_of (by decide +kernel) | decide +kernel

theorem witness_EngineInstructions :
    (let e := (pe 0x08000000 fun e => { e with ifs := e.ifs.upd 0 [⟨5, .last, 63, none⟩] }).engines.at 0
     e.ifs.at 0 = ⟨5, .last, 63, none⟩ :: [] ∧ ((pe 0x08000000 id).engines.at 0).ifs.at 0 = []) ∧
    (let f := fun e : Engine => { e with ofs := e.ofs.upd 0 (List.replicate 4 ⟨0, .data, 0, 0⟩) }
     4 ≤ (((pe 0x10000010 f).engines.at 0).ofs.at 0).length ∧ (((pe 0x10000010 id).engines.at 0).ofs.at 0).length < 4 ∧
       bit (0x100 : W32) 8 = true) ∧
    (let e := (pe 0x10000010 fun e => { e with abortPend := 1 }).engines.at 0
     e.abortPend.getLsbD 0 = true ∧ (e.ofs.at 0).length < 4 ∧ ((pe 0x10000010 id).engines.at 0).abortPend.getLsbD 0 = false) ∧
    (let e := (pe 0x38000000 fun e => { e with pv := true }).engines.at 0
     e.pv = true ∧ fldN e.ps 40 3 = e.adom.val ∧ ((pe 0x38000000 id).engines.at 0).pv = false) ∧
    (((pe 0x39000000 id).engines.at 0).adom = 0 ∧
      ({ (pe 0x39000000 id).engines.at 0 with goCfg := 0x10 } : Engine).adom ≠ 0 ∧ fldN (0x3A000000 : W32) 24 2 = 2) ∧
    (let e := (pe 0x600000FF id).engines.at 0
     (e.cond 0x600000FF != bit (0x600000FF : W32) 25) = true ∧ (e.cond 0x62000005 != bit (0x62000005 : W32) 25) = false ∧
       e.pclo ≤ 255 ∧ 255 ≤ e.pchi ∧ ¬ 255 ≤ ({ e with pcReg := 0xFE00 } : Engine).pchi) ∧
    ((pe 0x50000001 fun e => { e with pcReg := 0 }).engines.at 0).nextPc = none ∧
    ((pe 0 id).engines.at 0).legal ((pe 0 id).peWord 0) = false ∧ ((pe 0 id).engines.at 0).st.live = true := by decide +kernel

theorem witness_EngineInstructions_bound : (pe 0x50000001 fun e => { e with pcReg := 0 }).engineAt 0 0x50000001 1 := by
  and_intros <;> first | exact engineAt_of (by decide +kernel) | decide +kernel

/-- The word `w` at pc, and a capture in lane 0 that engine 0 consumes; lane 0 also takes actions. -/
def pl (w : W32) (f : Engine → Engine) (q : List CapEntry) : State :=
  { pe w fun e => f { e with lanes := 0x10000 } with
    lanes := up.lanes.upd 0 { Lane.reset 0 false with cfg := 0x10, st := .run, cq := q } }
def c9 : CapEntry := ⟨false, false, .edge, true, { ns := 9, q := 3 }⟩

theorem witness_EngineLaneInstructions_at :
    (pl 0x18000001 id []).engineAt 0 0x18000001 1 ∧ (pl 0x32000001 id []).engineAt 0 0x32000001 1 ∧
    (pl 0x20000002 id [c9]).engineAt 0 0x20000002 2 ∧ (pl 0x21000001 id [c9]).engineAt 0 0x21000001 1 ∧
    (pl 0x28000001 id [c9]).engineAt 0 0x28000001 1 ∧ (pl 0x1A000000 id []).engineAt 0 0x1A000000 0 := by
  and_intros <;> first | exact engineAt_of (by decide +kernel) | decide +kernel

theorem witness_EngineLaneInstructions :
    (let s := pl 0x18000001 id []
     let e := s.engines.at 0
     e.nextPc = some 1 ∧ e.count 0x18000001 = 1 ∧
       ({ s with engines := s.engines.upd 0 { e with rep := 1 } }.enqAll 0 false e.adom e.atNs .drive e.outSet).2 = .done) ∧
    (let s := pl 0x30400001 id []
     let e := s.engines.at 0
     ({ s with engines := s.engines.upd 0 { e with rep := 1 } }.enqAll 0 false e.adom e.atNs .drive
       (((List.range 16).filter fun i => bit (0x30400001 : W32) i).map fun i => (i, true))).2 = .done) ∧
    (let s := pl 0x20000002 id [c9]
     (s.engines.at 0).count 0x20000002 = 2 ∧ bit (0x20000002 : W32) 24 = false ∧ s.released 0 = some { ns := 9, q := 3 } ∧
       s.consume 0 = [0]) ∧
    bit (0x21000001 : W32) 24 = true ∧ (pl 0x20000002 id []).released 0 = none ∧
    ((pl 0x1A000000 id []).engines.at 0).count 0x1A000000 = 0 ∧
    (let a := (pl 0x20000001 id [c9]).advance t5
     let b := (pl 0x20000001 (fun e => { e with st := .wait }) [c9]).advance t5
     a.engUp 0 = true ∧ b.released 0 ≠ none ∧ (b.engines.at 0).st = .wait) ∧
    (let s := pl 0x18000003 (fun e => { e with rep := 2, stop := some (.off false) }) []
     let e := s.engines.at 0
     s.engUp 0 = true ∧ e.st = .run ∧ e.legal (s.peWord 0) = true ∧ peOpc (s.peWord 0) = 3 ∧ e.rep = 0 + 2 ∧
       e.stop = some (.off false) ∧ (s.enqAll 0 false e.adom e.atNs .drive e.outSet).2 = .done ∧ e.enRec = none) ∧
    (let s := pl 0x18000001 (fun e => { e with clkReg := 0x08000004, clk := [⟨9, 0, none⟩] }) []
     let e := s.engines.at 0
     e.st.live = true ∧ s.ticking = true ∧ e.clk = ⟨9, 0, none⟩ :: [] ∧ bit e.clkReg 26 = false ∧
       (s.enqLane (engLane 0 e.clkLane) .drive (bit e.clkReg 25 != decide (0 % 2 = 0)) e.adom
         (9 + BitVec.ofNat 40 (e.clkOff + 0 * e.clkHalf))).2 = .ok) := by decide +kernel

/-! Guardians and arbitrated buses. -/

/-- A guardian channel with one slot: 3 symbols of start sequence, bits of 20 ns, cycles of 16000 ns. -/
def gok : Guardian := { Guardian.reset with line := 0x3014, cycLen := 16000, nslot := 1, brMask := 1 }
def gu (f : Guardian → Guardian) : State := { up with gds := up.gds.upd 0 (f gok) }
/-- Its slot 0 as an RX or a TX slot of 1400 ns. -/
def rxSlot : List (Nat × W32) := [(0, 0x40000000), (1, 1400)]
def txSlot : List (Nat × W32) := [(0, 0x90000000), (1, 1400)]
def win0 : Window := { slot := 0, cyc := 0, branch := 0, relay := false, relayed := false, dead := false }
def dec0 : Decode := { stamp := t5, slot := 0, cyc := 0, branch := 0, trunc := false, cut := false, runs := [] }
/-- The lengths of the levels of a line, in quarters of a ns, at bits of 20 ns. -/
def runsOf (l : List Bool) : List Nat := (l.splitBy (· == ·)).map fun x => 40 * x.length
/-- A frame of slot 0 in cycle 0 with no payload, as the decoder has followed it to its end delimiter. -/
def frame0 : Decode := { dec0 with runs := runsOf ((gok.wave (gdBytes 0 0 true (gok.slot 0) [])).tail) }

theorem witness_GuardianControl_config :
    up.up = true ∧
    (let g := (gu id).gds.at 0
     g.st = .off ∧ bit g.cfg 0 = false ∧ bit (1 : W32) 0 = true ∧ g.rangeOk = true ∧ g.tableOk 1 0 0 = true) ∧
    ({ gok with line := 0x2014 } : Guardian).rangeOk = false ∧ ({ gok with cycLen := 999 } : Guardian).rangeOk = false ∧
    -- a window that ends with the cycle is allowed, one that ends later is not
    ({ gok with table := [(0, 0x40000000), (1, 16000)] } : Guardian).tableOk 1 0 0 = true ∧
    ({ gok with table := [(0, 0x40000000), (1, 16001)] } : Guardian).tableOk 1 0 0 = false ∧
    (let s := gu fun g => { g with st := .run, cfg := 1, win := some { win0 with relay := true } }
     let g := s.gds.at 0
     g.st = .run ∧ bit g.cfg 0 = true ∧ g.enRec = none ∧ g.busy (s.gdNow 0) = true ∧ s.gdLive 0 = true) ∧
    ((gu fun g => { g with st := .run, cfg := 1 }).gds.at 0).busy 0 = false ∧
    (let s := gu fun g => { g with st := .draining, win := some { win0 with relay := true } }
     let g := s.gds.at 0
     g.st = .draining ∧ g.busy (s.gdNow 0) = true ∧ bit (4 : W32) 2 = true) ∧
    -- a drain in which nothing is in progress has ended
    (let s := gu fun g => { g with st := .draining }
     let g := s.gds.at 0
     g.st = .draining ∧ g.busy (s.gdNow 0) = false ∧ s.gdLive 0 = true ∧ g.enRec = none ∧ (s.gds.at 1).st ≠ .draining) := by decide +kernel

theorem witness_GuardianControl_commit :
    (((gu fun g => { g with bstat := g.bstat.upd 0 { BufStat.reset with pend := some none } }).gds.at 0).bstat.at 0).pend ≠ none ∧
    (((gu id).gds.at 0).bstat.at 0).pend = none ∧
    (let s := gu fun g => { g with table := txSlot }
     let g := s.gds.at 0
     (g.slot 0).kind = 2 ∧ (g.slot 0).buf = 0 ∧ notBefore (s.gdNow 0) (g.latchAt (g.cycleOf 1) 0) = false) ∧
    (let s := gu fun g => { g with table := txSlot }
     let g := s.gds.at 0
     (∀ j, j < g.slots → (g.slot j).kind = 2 → (g.slot j).buf = 0 → notBefore (s.gdNow 0) (g.latchAt (g.cycleOf 0) j) = true) ∧
       s.gdOwner 0 = none) := by
  decide +kernel

theorem witness_GuardianControl_live :
    (let a := (gu fun g => { g with st := .wait, cyc0 := 5 }).advance t5
     a.gdLive 0 = true ∧ (a.gds.at 0).cycleAt (a.gdNow 0) = some 0) ∧
    (let a := (gu fun g => { g with st := .run, table := rxSlot, cyc0 := 5 }).advance t5
     let g := a.gds.at 0
     g.st = .run ∧ g.slotBad 0 = false ∧ (g.slot 0).kind = 1 ∧ notBefore (a.gdNow 0) (g.winStart g.cyc 0) = true ∧
       notBefore (a.gdNow 0) (g.winEnd g.cyc 0) = false ∧ g.uses 0 = true ∧ g.node = false ∧ g.win = none) ∧
    (let a := (gu fun g => { g with st := .run, table := rxSlot, win := some win0 }).advance { ns := 1400, q := 0 }
     let g := a.gds.at 0
     g.win = some win0 ∧ notBefore (a.gdNow 0) (g.winEnd win0.cyc win0.slot) = true) ∧
    (let a := (gu fun g => { g with st := .run, table := rxSlot, win := some win0, branches := Bank.fill 16 { Branch.reset with st := .active } }).advance
       { ns := 1399, q := 0 }
     let g := a.gds.at 0
     notBefore (a.gdNow 0) (g.winEnd win0.cyc win0.slot) = false ∧ win0.branch = 0 ∧ (g.branches.at 0).st = .active) ∧
    (let b := { Branch.reset with st := .active, hist := [0] }
     1 ≤ ((b.truncate 1 1 none).hist.take 1).foldl (· + ·) 0 ∧ ((b.truncate 2 1 none).hist.take 1).foldl (· + ·) 0 < 2 ∧
       b.readmit = none ∧ { b with readmit := some (5, true) }.readmit = some (5, true)) := by decide +kernel

theorem witness_GuardianFrames :
    (let a := (gu fun g => { g with st := .run, dec := some dec0, table := rxSlot }).advance t5
     let g := a.gds.at 0
     a.gdLive 0 = true ∧ g.st = .run ∧ g.dec = some dec0 ∧ g.slotBad 0 = false ∧ (g.slot 0).qen = false ∧ sparseWf 0 g.bufs = true) ∧
    (let a := (gu fun g => { g with st := .run, table := txSlot, cfg := 8, cyc0 := 1029 }).advance t5
     let g := a.gds.at 0
     0 < g.slots ∧ g.slotBad 0 = false ∧ (g.slot 0).kind = 2 ∧ ¬ notBefore (a.gdNow 0) (g.txStart g.cyc 0) = true ∧
       notBefore (a.gdNow 0) (g.latchAt 0 0) = true ∧
       notBefore (a.gdNow 0) (g.txEnd 0 0) = false ∧ g.guard (g.slot 0) false = none ∧ a.gdOwner 0 = none) ∧
    (let f : TxFrame := { slot := 0, cyc := 1, bytes := [] }
     let a := (gu fun g => { g with st := .run, table := txSlot, cyc0 := 5 - 16000, ready := [f], sent := [(0, 1)] }).advance t5
     let g := a.gds.at 0
     g.ready.find? (fun f => f.slot = (0 : Fin 2048).val) = some f ∧ notBefore (a.gdNow 0) (g.txStart f.cyc 0) = true ∧
       (0, 1) ∈ g.sent) ∧
    -- the checks of R408: 1400 ns fit one frame without payload, 1399 do not
    (let e : Slot := { kind := 2, owner := 16, start := 0, buf := 0, lenw := 0, qen := false, sync := false, dur := 1400 }
     let g := { gok with cfg := 8 }
     g.guard e false = none ∧ g.guard { e with dur := 1399 } false = some .fit ∧ gok.guard e false = some .noSync ∧
       ({ g with devV := true, dev := 1 } : Guardian).guard e false = some .dev ∧
       ({ g with bunc := [31] } : Guardian).guard { e with lenw := 8, dur := 11640 } true = some .ecc ∧
       ({ g with bunc := [32] } : Guardian).guard { e with lenw := 8, dur := 11640 } true = none) := by decide +kernel

theorem witness_GuardianWindows :
    (let a := (gu fun g => { g with st := .run, table := rxSlot, branches := Bank.fill 16 { Branch.reset with rxd := false } }).advance t5
     ((a.gds.at 0).branches.at 0).rxd = false ∧ (a.gds.at 0).node = false) ∧
    -- an edge that changes nothing, one within a frame, and one from idle: RXD has been 1 for 40 ns
    (let a := (gu fun g => { g with st := .run }).advance t5
     let g := a.gds.at 0
     (g.branches.at 0).rxd = true ∧ g.idleAt 0 t5 = true ∧ g.heard = none ∧ g.uses 0 = true ∧ g.win = none ∧ g.node = false) ∧
    (let a := (gu fun g => { g with st := .run, win := some win0, dec := none, cfg := 1
                                    branches := Bank.fill 16 { Branch.reset with edge := some { ns := 0, q := 0 }, st := .active } }).advance
        { ns := 40, q := 0 }
     let g := a.gds.at 0
     g.idleAt 0 { ns := 40, q := 0 } = true ∧ g.win = some win0 ∧
       win0.relayed = false ∧ win0.dead = false ∧ (g.branches.at 0).st = .active ∧ (1 : Fin 16) ≠ win0.branch) ∧
    -- a falling edge in the open window, of a frame that began before it
    (let a := (gu fun g => { g with st := .run, win := some win0, dec := none, cfg := 1
                                    branches := Bank.fill 16 { Branch.reset with edge := some { ns := 0, q := 0 }, st := .active } }).advance
        { ns := 39, q := 3 }
     let g := a.gds.at 0
     g.idleAt 0 { ns := 39, q := 3 } = false ∧ (g.branches.at 0).rxd = true ∧ g.uses 0 = true ∧ g.node = false ∧
       g.win = some win0 ∧ win0.branch = 0 ∧ win0.relay = false) ∧
    (let a := (gu fun g => { g with st := .run, cfg := 3, brMask := 0 }).advance t5
     (a.gds.at 0).node = true ∧ (a.gds.at 0).uses 0 = true ∧ (a.gds.at 0).heard = none) ∧
    ((gu fun g => { g with dec := some dec0, win := none }).gds.at 0).heard = some 0 := by decide +kernel

theorem witness_GuardianWindows_lines :
    (let s := gu fun g => { g with st := .run, win := some { win0 with relay := true }, brMask := 0x00010003 }
     let g := s.gds.at 0
     s.gdLive 0 = true ∧ g.win = some { win0 with relay := true } ∧ bit g.brMask 0 = true ∧ bit g.brMask 16 = true ∧
       bit g.brMask 1 = true ∧ bit g.brMask 17 = false ∧ s.gdTxen 0 1 = true ∧ s.gdTxen 0 0 = true ∧ s.gdTxen 0 2 = false) ∧
    (gu fun g => { g with brMask := 3, win := some { win0 with relay := true } }).gdTxen 0 0 = false ∧
    State.reset.gdLive 0 = false ∧
    (let f : LineTx := { mask := 1, start := 0, fin := 9, bytes := [0x55], from_ := 0 }
     let s := gu fun g => { g with st := .run, tx := some f }
     s.gdLive 0 = true ∧ (s.gds.at 0).win = none ∧ (s.gds.at 0).tx = some f) := by decide +kernel

/-- The frame comes back from its levels; it is recognised 2 bits after the start sequence and is over at its end delimiter. -/
theorem witness_GuardianFrames_line :
    gok.decode frame0 = some (gdBytes 0 0 true (gok.slot 0) [], false) ∧ gok.decode dec0 = none ∧
    gok.over frame0 { ns := 1, q := 0 } = true ∧
    ({ gok with branches := Bank.fill 16 { Branch.reset with edge := some { ns := 0, q := 0 } } } : Guardian).over dec0
      { ns := 39, q := 3 } = false ∧
    frame0.slot < gok.slots ∧ gok.slots ≤ ({ frame0 with slot := 1 } : Decode).slot := by decide +kernel

theorem witness_GuardianFrames_latch :
    (let a := (gu fun g => { g with st := .run, table := txSlot, cfg := 8, cyc0 := 1029, sent := [(0, 0)] }).advance t5
     (0, 0) ∈ (a.gds.at 0).sent) ∧
    (let a := (gu fun g => { g with st := .run, table := [(0, 0x90000001), (1, 1400)], cfg := 8, cyc0 := 1029, bunc := [0] }).advance t5
     let g := a.gds.at 0
     g.guard { g.slot 0 with lenw := 1, dur := 11640 } false = some .ecc ∧ a.gdOwner 0 = none) := by decide +kernel

/-- A cell in NORMAL with bits of 1000 ns. -/
def aok : AbCell := { AbCell.reset with nbt := 0x0A0C8401, dbt := 0x0A000000 }
def ab (f : AbCell → AbCell) : State := { up with abs_ := up.abs_.upd 0 (f aok) }
/-- The cell in RUN with a frame in progress. -/
def afr (o : Option (Fin 8)) : AbFrame := { es := t5, sof := 0, offered := o, filters := [], edges := [], endAt := none }

theorem witness_ArbControl_config :
    (let c := (ab id).abSettled.noteQueues.abs_.at 0
     c.st = .off ∧ bit c.cfg 0 = false ∧ c.timingOk = true ∧ fldN (1 : W32) 20 2 ≠ 3 ∧ fldN (0x300001 : W32) 20 2 = 3) ∧
    (AbCell.reset).timingOk = false ∧
    (let c := (ab fun c => { c with st := .run, cfg := 1, frame := some (afr none) }).abSettled.noteQueues.abs_.at 0
     c.st = .run ∧ c.frame = some (afr none) ∧ bit c.cfg 0 = true ∧ up.ticking = true) ∧
    (let c := (ab fun c => { c with st := .draining, frame := some (afr none) }).abSettled.noteQueues.abs_.at 0
     c.st = .draining ∧ c.frame = some (afr none) ∧ (afr none).offered = none ∧ bit (2 : W32) 1 = true) ∧
    ((ab fun c => { c with st := .fault, cfg := 1 }).abSettled.noteQueues.abs_.at 0).st = .fault ∧
    ((ab fun c => { c with st := .integ, cfg := 1 }).abSettled.noteQueues.abs_.at 0).st = .integ ∧
    (let c := (ab fun c => { c with st := .fault }).abSettled.noteQueues.abs_.at 0
     c.st = .fault ∧ bit c.cfg 0 = false ∧ bit (1 : W32) 0 = true) ∧
    (let s := ab fun c => { c with st := .draining, frame := some (afr (some 0)) }
     let c := s.abSettled.noteQueues.abs_.at 0
     (s.abs_.at 0).st = .draining ∧ c.st = .draining ∧ c.frame = some (afr (some 0)) ∧ bit (2 : W32) 1 = true ∧
       notBefore s.now ((afr (some 0)).sof + BitVec.ofNat 64 (c.arbNs 0)) = false) ∧
    -- a received frame whose end has come
    (let f : AbFrame := { afr none with endAt := some 0 }
     let s := ab fun c => { c with st := .draining, frame := some f }
     let c := s.abs_.at 0
     s.abLive = true ∧ c.frame = some f ∧ f.endAt = some 0 ∧ notBefore s.now 0 = true ∧ c.st = .draining ∧ c.enRec = none) := by decide +kernel

theorem witness_ArbControl_requests :
    ((ab fun c => { c with st := .busOff }).abs_.at 0).st = .busOff ∧ up.ticking = true ∧ State.reset.ticking = false ∧
    (let c := aok
     (c.tbs.at 0).st ≠ .pending ∧ (c.tbs.at 0).st ≠ .active ∧ c.tbBad 0 = false ∧
       ¬ (bit (c.tb 0 0) 29 = true ∧ (bit (c.tb 0 0) 30 = true ∨ bit c.cfg 18 = false)) ∧ bit (c.tb 0 3) 31 = false) ∧
    ({ aok with tbad := [31] } : AbCell).tbBad 0 = true ∧ ({ aok with tbad := [32] } : AbCell).tbBad 0 = false ∧
    bit (({ aok with tbw := [(0, 0x20000000)] } : AbCell).tb 0 0) 29 = true ∧
    -- exactly 24 ns before its instant a request is not late
    (let d := up.beryl.doms.at 0
     bit (({ aok with tbw := [(3, 0x80000000)] } : AbCell).tb 0 3) 31 = true ∧ d.leadLate 24 0 = false ∧ d.leadLate 23 0 = true ∧
       d.dueAt 24 0 = false) ∧
    ((ab fun c => { c with tbs := c.tbs.upd 7 { TxBuf.reset with st := .pending } }).abs_.at 0).tbs.at 7 =
      { TxBuf.reset with st := .pending } := by decide +kernel

theorem witness_ArbControl_owner : up.abOwner 0 = none := by rw [State.abOwner, detOwner_off rfl]

/-- AB_RXD while frame bits `w` pass with their ACK slot dominant, as the edges after SOF from TD0 = `t`, the last level `v`. -/
def rxdOf (c : AbCell) : Bool → W64 → List AbSym → List Instant
  | _, _, [] => []
  | v, t, y :: l =>
    let x := y.v && !y.ack
    let n := t + BitVec.ofNat 64 ((c.phase y.lead).lead + (c.phase y.trail).trail)
    if x = v then rxdOf c v n l else { ns := t, q := 0 } :: rxdOf c x n l
/-- The frame in buffer 0 of `aok`: identifier 0 with no data. -/
def edges0 : List Instant := rxdOf aok false 0 (aok.wire 0)
def fr0 : AbFrame := { es := { ns := 0, q := 0 }, sof := 0, offered := some 0, filters := [], edges := [], endAt := none }

theorem witness_ArbFrames_wire :
    (let f := { fr0 with edges := edges0 }
     (aok.receivedBy { f with offered := none } 1000000).isSome = true ∧ aok.sentBy f 0 1000000 = some none ∧
       (aok.receivedBy { fr0 with offered := none } 1000000).isSome = false ∧ aok.sentBy f 0 1000 = none) := by decide +kernel

theorem witness_ArbFrames_live :
    (let b := { TxBuf.reset with st := TbSt.pending }
     let a := (ab fun c => { c with tbs := c.tbs.upd 0 { b with execAt := some 5 } }).advance t5
     let c := a.abs_.at 0
     a.up = true ∧ (c.tbs.at 0).st = .pending ∧ (c.tbs.at 0).due = false ∧ (c.tbs.at 0).execAt = some 5 ∧
       notBefore a.now 5 = true) ∧
    (let b := { TxBuf.reset with st := TbSt.pending, due := true }
     let a := (ab fun c => { c with st := .run, tbs := c.tbs.upd 7 b }).advance t5
     let c := a.abs_.at 0
     a.abLive = true ∧ c.st = .run ∧ c.frame = none ∧ c.errFrame = false ∧ fldN c.cfg 20 2 = 0 ∧ c.offer = some 7 ∧
       c.tbBad 7 = false ∧ ({ c with tbad := [255] } : AbCell).tbBad 7 = true) ∧
    (let c := ((ab fun c => { c with st := .run, frame := some (afr (some 0)) }).advance t5).abs_.at 0
     c.frame = some (afr (some 0)) ∧ (afr (some 0)).offered = some 0 ∧ (afr (some 0)).endAt = none ∧ bit c.cfg 14 = false ∧ bit c.cfg 16 = false ∧
       (c.tbs.at 0).cancel = false ∧ notBefore 5 ((afr (some 0)).sof + BitVec.ofNat 64 (c.arbNs 0)) = false) ∧
    (let f := { afr none with filters := [(0, 0x80000000)] }
     abFilter [] f.filters 0 = some 0 ∧ abFilter [] (afr none).filters 0 = none ∧ abFilter [3] f.filters 0 = none ∧
       bit (sparseGet 0 f.filters 0) 29 = false ∧ bit (sparseGet 0 f.filters 1) 31 = false) ∧
    (let a := (ab fun c => { c with st := .run, faultAt := some 5 }).advance t5
     (a.abs_.at 0).faultAt = some 5 ∧ notBefore a.now 5 = true ∧ (a.abs_.at 0).frame = none ∧ (a.abs_.at 0).errFrame = false) ∧
    bit (0x80000 : W32) 19 = true := by decide +kernel

theorem witness_ArbErrors :
    (AbErr.frame 0 false false false false).wf = false ∧
    aok.rec_ ≤ 255 ∧ aok.tec ≤ 255 ∧ fldN ({ aok with cfg := 0x100000 } : AbCell).cfg 20 2 ≠ 0 ∧
    ({ aok with st := .integ, tec := 255 } : AbCell).tec ≤ 255 ∧ 255 < ({ aok with st := .integ, tec := 256 } : AbCell).tec ∧
    ({ aok with st := .busOff, recovering := true } : AbCell).recovering = true ∧
    -- the receiver, the transmitter, a passive cell, an error frame in progress
    (let c := ((ab fun c => { c with st := .run, frame := some (afr (some 0)) }).advance t5).abs_.at 0
     c.st = .run ∧ (afr (some 0)).offered = some 0 ∧ (c.tbs.at 0).cancel = false ∧ bit c.cfg 16 = false ∧ c.estate = 0 ∧
       (c.addTec 256).st = .busOff ∧ ({ c with tec := 128 } : AbCell).estate ≠ 0) ∧
    (((ab fun c => { c with st := .run, errFrame := true }).advance t5).abs_.at 0).errFrame = true ∧
    -- the last bit of a frame received valid, where an overload flag may follow
    (let f : AbFrame := { afr none with endAt := some 9 }
     let c := ((ab fun c => { c with st := .run, frame := some f }).advance t5).abSettled.abs_.at 0
     c.errFrame = false ∧ c.frame = some f ∧ f.endAt ≠ none ∧ f.offered = none) := by decide +kernel

/-! Interrupts, timers and Spinel. -/

def ei (f : Eic → Eic) : State := { up with eic := f up.eic }
def so (n : Fin 512) (x : Source) : State := ei fun e => { e with srcs := e.srcs.upd n x }
/-- Source 1 stands at target 16, the host. -/
def st16 : State :=
  ei fun e => { e with srcs := e.srcs.upd 1 { Source.reset with st := .pending, reg := 0x10000001 }
                       targets := e.targets.upd 16 { Target.reset with cfg := 1 } }
/-- Group 0 under moderation with one source held. -/
def md (m : ModGroup) : State :=
  ei fun e => { e with srcs := e.srcs.upd 2 { Source.reset with st := .held }, mods := e.mods.upd 0 m }

theorem witness_InterruptCommands_sources :
    ((so 1 { Source.reset with st := .active }).eic.srcs.at 1).st = .active ∧ (up.eic.srcs.at 1).st = .idle ∧
    (let s := { up with sn := { up.sn with cfg := 0x100, hopDrop := true } }
     s.up = true ∧ (477 : Fin 512) ≠ 0 ∧ s.sourceLevel 477 = true ∧ (s.eic.srcs.at 477).st = .idle) ∧
    up.sourceLevel 477 = false ∧ bit (up.eic.mods.at 0).cfg 31 = false ∧
    (let m := (md { ModGroup.reset with cfg := 0x80010000 }).eic.mods.at 0
     bit m.cfg 31 = true ∧ m.win = none ∧ bit m.cfg 30 = false) ∧
    (let s := md { ModGroup.reset with cfg := 0xC0020000 }
     bit (s.eic.mods.at 0).cfg 30 = true ∧ (s.eic.mods.at 0).count ≤ (s.heldOf 0).length + 1) ∧
    (let s := md { ModGroup.reset with cfg := 0xC0030000, win := some 9 }
     ¬ (s.eic.mods.at 0).count ≤ (s.heldOf 0).length + 1 ∧ (s.eic.mods.at 0).win ≠ none ∧
       (s.eic.mods.at 0).free ≠ some s.now) ∧
    (let y := (so 1 { Source.reset with st := .held, swp := false }).eic.srcs.at 1
     y.st = .held ∧ y.level = false) ∧
    (let y := (so 1 { Source.reset with level := true, swp := true }).eic.srcs.at 1
     y.st = .idle ∧ y.level = true ∧ y.swp = true) ∧
    (let y := (so 1 { Source.reset with st := .pending, level := true }).eic.srcs.at 1
     y.st ≠ .active ∧ y.st ≠ .idle ∧ y.level = true) ∧
    (so 1 .reset).sourceLevel 1 = false ∧ State.reset.up = false := by decide +kernel

theorem bestSrc_none {s : State} {t : Fin 18} (h : ∀ n, s.eligibleSrc t n = false) : s.bestSrc t = none := by
  simp [State.bestSrc, h]

theorem bestSrc_only {s : State} {t : Fin 18} {n : Fin 512} (h : ∀ m, s.eligibleSrc t m = decide (m = n)) : s.bestSrc t = some n :=
  ((foldl_only _ n n (fun o m e => by simp [h, e]) (by simp [h]) (by simp [h]) _).1).trans (if_pos (List.mem_ofFn.2 ⟨n, rfl⟩))

theorem bestSrc_up : up.bestSrc 16 = none := bestSrc_none fun n => by simp [State.eligibleSrc, up, State.reset, Eic.reset, Source.reset]
theorem bestSrc_st16 : st16.bestSrc 16 = some 1 := bestSrc_only fun n => by
  by_cases e : n = 1
  · subst e; decide +kernel
  · simp [State.eligibleSrc, st16, ei, up, State.reset, Eic.reset, Source.reset, e]

theorem st16_src (n : Fin 512) (h : n ≠ 1) : st16.eic.srcs.at n = .reset := by simp [st16, ei, up, State.reset, Eic.reset, h]

theorem st16_settle : st16.eicSettle = st16 := by
  have w : ∀ n, st16.attend n = st16 := fun n => by
    by_cases e : n = 1
    · subst e
      have f : (allTargets.filter fun t => (st16.eic.srcs.at 1).targets t && decide (st16.cond t ≠ .absent)) = [16] := by decide +kernel
      have c : (st16.eic.srcs.at 1).st = .pending ∧ (st16.eic.srcs.at 1).pri ≠ 0 := by decide +kernel
      have m : st16.modSrc 1 (fun x => { x with stray := false, orph := x.orph }) = st16 := by
        simp [State.modSrc, State.modEic, Bank.mod_eq, st16, ei]; rfl
      simp only [State.attend, f, if_pos c, List.isEmpty_cons, Bool.false_and, Bool.or_false, m]
      rw [if_neg (by decide +kernel)]
    · simp [State.attend, st16_src n e, Source.reset]
  have x : (st16.modEic fun e => { e with targets := Vector.ofFn fun t : Fin 18 =>
      let x := e.targets.at t
      { x with woken := x.woken && decide (t.val < 16) && decide ((st16.seqs.at (Fin.ofNat 16 t.val)).st = .nap) } }) = st16 := by
    have : ∀ t, (st16.eic.targets.at t).woken = false := by decide +kernel
    have y : (Vector.ofFn fun t : Fin 18 =>
      { st16.eic.targets.at t with woken := (st16.eic.targets.at t).woken && decide (t.val < 16) && decide ((st16.seqs.at (Fin.ofNat 16 t.val)).st = .nap) }) =
      st16.eic.targets := Bank.ext fun t => by simp [this t]; rw [← this t]
    simp only [State.modEic, y]
  have z : st16.eicFall = st16 := by
    have : ∀ t, (st16.eic.targets.at t).req = false := by decide +kernel
    have y : (Vector.ofFn fun t : Fin 18 => { st16.eic.targets.at t with req := (st16.eic.targets.at t).req && st16.requestNow t }) =
      st16.eic.targets := Bank.ext fun t => by simp [this t]; rw [← this t]
    simp only [State.eicFall, State.modEic, y]
  simp only [State.eicSettle, x]
  rw [List.foldl_fixed' w, z]

theorem witness_InterruptCommands_targets :
    up.bestSrc 16 = none ∧ st16.bestSrc 16 = some 1 ∧ (up.eic.targets.at 16).stack = [] ∧
    (let s := ei fun e => { e with targets := e.targets.upd 16 { Target.reset with stack := [(1, 3)] } }
     (s.eic.targets.at 16).stack = (1, 3) :: [] ∧ (s.eic.srcs.at 1).swp = false ∧ s.sourceLevel 1 = false ∧
       ((s.eic.targets.at 16).stack.any fun e => e.1 = 1) = true ∧ bit (s.eic.mods.at (srcGroup 1)).cfg 31 = false) ∧
    (let s := ei fun e => { e with srcs := e.srcs.upd 1 { Source.reset with st := .active, swp := true }
                                   targets := e.targets.upd 16 { Target.reset with stack := [(1, 3)] } }
     (s.eic.targets.at 16).stack = (1, 3) :: [] ∧ (s.eic.srcs.at 1).swp = true) ∧
    (up.eic.mods.at 0).win = none ∧
    (st16.up = true ∧ st16.eicSettle.requestNow 16 = true ∧ (st16.eicSettle.eic.targets.at 16).req = false) ∧
    (let a := (md { ModGroup.reset with cfg := 0xC0030000, win := some 5 }).advance t5
     (a.eic.mods.at 0).win = some 5 ∧ a.ticking = true ∧ notBefore a.now 5 = true ∧ a.heldOf 0 ≠ []) ∧
    (ei fun e => { e with mods := e.mods.upd 0 { ModGroup.reset with win := some 5 } }).heldOf 0 = [] := by
  rw [st16_settle, State.requestNow, bestSrc_up, bestSrc_st16]
  decide +kernel

def tm (n : Fin 64) (f : Timer → Timer) : State := up.modTimer n f

theorem witness_TimerControl :
    ((up.ta.timers.at 0).st = .off ∧ bit (up.ta.timers.at 0).cfg 0 = false ∧ fldN (0x61 : W32) 5 2 = 3 ∧ fldN (0x181 : W32) 7 2 = 3 ∧
      fldN (0x101 : W32) 7 2 = 2 ∧ ¬ (fldN (1 : W32) 5 2 = 3 ∨ fldN (1 : W32) 7 2 = 3)) ∧
    (let x := ((tm 1 fun x => { x with st := .stop, cfg := 0x101 }).taTick 1).ta.timers.at 1
     x.st = .stop ∧ bit x.cfg 0 = true ∧ fldN x.cfg 7 2 = 2) ∧
    State.reset.ticking = false ∧
    (let x := ((tm 1 fun x => { x with st := .run, cfg := 0x21, cnt := 9, next := 5 }).taTick 1).ta.timers.at 1
     x.st ≠ .off ∧ fldN x.cfg 5 2 = 1 ∧ (8 : W32) < x.cnt ∧ ¬ (9 : W32) < x.cnt ∧ bit x.evt 15 = false ∧ fldN x.act 22 2 = 0) ∧
    (let s := { up with ta := { up.ta with latch := true, shadows := up.ta.shadows.upd 0 (some (0, 7)) } }
     s.up = true ∧ s.ta.latch = true ∧ s.ta.shadows.at Master.host.slot = some (⟨0, by omega⟩, 7) ∧ up.ta.latch = false) ∧
    (up.ticking = true ∧ { up.ta with snapAt := some up.now }.snapAt = some up.now ∧ up.ta.snapAt ≠ some up.now) ∧
    (up.ta.pend = none ∧ notBefore up.now up.ta.stagAt = true ∧ notBefore up.now 1 = false ∧
      { up.ta with pend := some ⟨9, 1, false⟩ }.pend ≠ none) := by decide +kernel

theorem witness_TimerControl_counting :
    (let a := (tm 0 fun x => { x with st := .run, cfg := 1, next := 5 }).advance t5
     let x := a.ta.timers.at 0
     a.up = true ∧ a.ticking = true ∧ x.st = .run ∧ fldN x.cfg 7 2 = 0 ∧ notBefore a.now x.next = true ∧ notBefore a.now 6 = false) ∧
    (let a := ({ tm 0 fun x => { x with st := .run, cfg := 0x81 } with sn := { up.sn with counts := [(1024, [3])] } }).advance t5
     a.sn.pending 1024 = 3 :: [] ∧ 1024 ∉ (if a.sn.tookNs = some a.now then a.sn.took else []) ∧ fldN (a.ta.timers.at 0).cfg 7 2 = 1) ∧
    (let x := (tm 1 fun x => { x with st := .run, cfg := 0x101, chain := some 2 }).ta.timers.at 1
     2 ≤ fldN x.cfg 7 2 ∧ x.chain = some 2) ∧
    ((tm 0 fun x => { x with co := some (1, false), match_ := some 1 }).ta.timers.at 0).co = some (1, false) ∧
    ((tm 0 fun x => { x with match_ := some 1 }).ta.timers.at 0).match_ = some 1 ∧
    (let x := ((tm 0 fun x => { x with st := .stop }).taTick 0).ta.timers.at 0
     x.stopAt ≠ some up.now ∧ x.st = .stop) ∧
    ({ (up.ta.timers.at 0) with stopAt := some up.now } : Timer).stopAt = some up.now ∧
    ((tm 0 fun x => { x with st := .frozen }).ta.timers.at 0).st = .frozen ∧
    (let a := ({ up with ta := { up.ta with pend := some ⟨5, 1, false⟩ } } : State).advance t5
     a.ta.pend = some ⟨5, 1, false⟩ ∧ notBefore a.now 5 = true) := by decide +kernel

theorem witness_ComparesPairsAndWatchdogs :
    (let s := up.modAc 0 fun x => { x with st := .armed, val := 5 }
     let a := s.advance t5
     let x := a.ta.compares.at 0
     x.st = .armed ∧ notBefore a.now x.from_ = true ∧ x.val ≤ (a.beryl.doms.at (Fin.ofNat 8 (fldN x.cfg 4 3))).nsAt a.beryl.g) ∧
    ((up.modAc 0 fun x => { x with st := .idle }).ta.compares.at 0).st = .idle ∧ (up.ta.compares.at 0).st ≠ .idle ∧
    (let e (n : W64) : PairEdge := { stamp := { ns := 1, q := 2 }, level := true, commitAt := n }
     let a (n : W64) := ((lr id).modCp 0 fun x => { x with cfg := 1, pend := [e n] }).advance t5
     ((a 5).ta.pairs.at 0).pend = e 5 :: [] ∧ bit ((a 5).ta.pairs.at 0).cfg 0 = true ∧ (a 5).up = true ∧ (a 5).ticking = true ∧
       notBefore (a 5).now (e 5).commitAt = true ∧ notBefore (a 6).now (e 6).commitAt = false ∧ (up.ta.pairs.at 0).pend = []) ∧
    (up.halfUp 0 = true ∧ bit (up.ta.dogs.at 0).cfg 31 = false ∧ bit (0xC0000000 : W32) 31 = true ∧ (up.ta.dogs.at 0).st = .off ∧
      fldN (up.ta.dogs.at 0).cfg 28 2 = 0 ∧ fldN (0xA5C3 : W32) 0 16 = 0xA5C3 ∧ (up.ta.dogs.at 0).due = false) ∧
    (let x := (up.modWd 0 fun x => { x with st := .run, due := true, cfg := 0x10000001 }).ta.dogs.at 0
     x.st ≠ .off ∧ x.due = true ∧ fldN x.cfg 28 2 = 1) ∧
    (let a := (up.modWd 1 fun x => { x with st := .run }).advance { ns := 1000, q := 0 }
     a.halfUp 1 = true ∧ a.ticking = true ∧ (a.ta.dogs.at 1).st = .run ∧ a.now.toNat % 1000 = 0 ∧
       (a.ta.dogs.at 1).lastDec ≠ some a.now) := by decide +kernel

def sn (f : Spinel → Spinel) : State := up.modSn f

theorem witness_EventFabric :
    (let e : Event := { ch := 1, hop := 8, fired := none }
     let a := (sn fun n => { n with fired := [e], chCfg := n.chCfg.upd 1 1 }).advance t5
     a.up = true ∧ a.ticking = true ∧ a.sn.fired = [] ++ e :: [] ∧ e.ch = 1 ∧ bit (a.snHw.chCfg.at 1) 0 = true ∧
       bit (a.snHw.chCfg.at 1) 1 = false ∧ e.hop ≤ fldN a.snHw.cfg 0 4 ∧ fldN a.snHw.cfg 0 4 < 9 ∧ bit (a.snHw.chCfg.at 2) 0 = false) ∧
    -- a timed event goes ahead of an older one of the same channel
    (let o : Event := { ch := 1, hop := 0, fired := none }
     let e : Event := { ch := 1, hop := 0, fired := some 5 }
     ((sn fun n => { n with fired := [o, e] }).advance t5).sn.fired = [o] ++ e :: [] ∧ e.fired ≠ none ∧ o.fired = none) ∧
    (let f : Flight := { ch := 1, hop := 0, at_ := 5 }
     let a := (sn fun n => { n with flight := [f] }).advance t5
     nextFlight 1 a.sn.flight = some f ∧ notBefore a.now f.at_ = true ∧ sparseWf [] a.sn.counts = true) ∧
    (let a := (sn fun n => { n with counts := [(1248, [1]), (1249, [1]), (1295, [1])] }).advance t5
     a.sn.pending (1248 + 2 * 0) = 1 :: [] ∧ a.sn.pending (1249 + 2 * 0) = 1 :: [] ∧ a.sn.pending (1280 + 15) = 1 :: [] ∧
       a.sn.pending (1280 + 0) = [] ∧ a.up = true ∧ a.ticking = true ∧ a.sn.tookNs ≠ some a.now ∧ a.snWas = none) ∧
    (let a := (sn fun n => { n with counts := [(1248, [1])], took := [1249, 1280], tookNs := some 5 }).advance t5
     a.sn.tookNs = some a.now ∧ 1249 + 2 * 0 ∈ a.sn.took ∧ 1248 + 2 * 0 ∉ a.sn.took ∧ 1280 + 0 ∈ a.sn.took) ∧
    (up.refusal hs true 0xC0008 4 7 = none ∧ up.refusal hs true (0xC0100 + 4 * 255) 4 1 = none ∧
      hn.sec = false ∧ bit ((sn fun n => { n with chCfg := n.chCfg.upd 7 0x400000 }).sn.chCfg.at 7) 22 = true) := by decide +kernel

/-- The registers before the writes of the ns are those of the hardware, and no longer in the next ns. -/
theorem witness_EventFabric_was :
    let w : SnWas := { at_ := 0, cfg := 0, chCfg := up.sn.chCfg, subs := up.sn.subs, luts := up.sn.luts, groups := 0, on := 1, off := 0 }
    let s := sn fun n => { n with was := some w }
    s.snWas = some w ∧ (s.advance t5).snWas = none := by
  intro w s
  have h : s.ticking = true ∧ s.now = 0 := by decide +kernel
  refine ⟨?_, by decide +kernel⟩
  rw [State.snWas, if_pos h.1, h.2]
  rfl

theorem witness_EventCells :
    (let a := (sn fun n => { n with luts := n.luts.upd 0 { Lut.reset with cfg := 0x80 } }).advance t5
     a.up = true ∧ a.ticking = true ∧ bit (a.sn.luts.at 0).cfg 7 = true ∧ sparseWf [] a.sn.counts = true ∧ a.snWas = none ∧
       (a.sn.luts.at 0).evalAt ≠ some a.now ∧ a.sn.tookNs ≠ some a.now) ∧
    ({ up.sn.luts.at 0 with evalAt := some up.now } : Lut).evalAt = some up.now ∧
    -- cell 0 fires channel 1, to which its own input 0 subscribes
    (let s := sn fun n => { n with luts := n.luts.upd 0 { Lut.reset with cfg := 0x180 }, subs := n.subs.upd 544 0x8001 }
     s.sn.loopAt 0 = some 0 ∧ bit (0x180 : W32) 7 = true ∧ bit (up.sn.luts.at 0).cfg 7 = false) ∧
    ({ up.sn with luts := up.sn.luts.upd 0 { Lut.reset with cfg := 0x80 } }).loopAt 0 = none ∧
    up.refusal hs true (0xC2000 + 4 * 647) 4 0 = none ∧ (inputCell 1088).toList = [0] ∧ (inputCell 1087).toList = [] ∧
    (inputCell 1247).toList = [31] ∧ (inputCell 1248).toList = [] := by decide +kernel

/-! Power, security, debug and Carnelian. -/

def pw (f : Power → Power) : State := up.modPw f
def hf (f : Half → Half) : State := up.modHalf 0 f
/-- Neither half runs a sequencer in `up`: every one is in its reset state, OFF. -/
def claim1 : Claim := { v := true, epoch := 1, until_ := 5 }

theorem witness_HalfSupplyAndLease_halves :
    up.up = true ∧ ((hf fun x => { x with st := .off }).power.halves.at 0).st = .off ∧ (up.power.halves.at 0).st = .run ∧
    up.quiet 0 = true ∧ (hf fun x => x).quiet 1 = true ∧
    (en fun e => { e with st := .halt }).quiet 0 = false ∧
    ((hf fun x => { x with st := .sleep }).power.halves.at 0).st = .sleep ∧
    ((hf fun x => { x with st := .enter }).power.halves.at 0).st = .enter ∧
    (∀ q : Fin 16, seqHalf q = 0 → (up.seqs.at q).fownD = false) ∧
    ((hf fun x => { x with st := .wake }).power.halves.at 0).st = .wake ∧
    ((hf fun x => { x with st := .down }).power.halves.at 0).st = .down ∧
    ((hf fun x => { x with st := .up }).power.halves.at 0).st = .up := by decide +kernel

theorem witness_HalfSupplyAndLease_supply :
    -- exactly 10000 ns after SUPPLY_OK rose
    (let p := ((pw fun p => { p with sok := true, sokSince := 5, sokLow := true }).advance { ns := 10005, q := 0 })
     p.power.sok = true ∧ 10000 ≤ p.now - p.power.sokSince) ∧
    (let p := ((pw fun p => { p with sok := true, sokSince := 5, sokLow := true }).advance { ns := 10004, q := 3 })
     p.now - p.power.sokSince < 10000) ∧
    (pw fun p => { p with sok := false }).power.sok = false ∧
    up.refusal hs true 0x20008 4 2 = none ∧ bit (2 : W32) 1 = true ∧
    (let g := (pw fun p => { p with gasp := { p.gasp with left := [3], addr := Bank.fill 4 0xFFFFFC } }).power.gasp
     g.left = 3 :: [] ∧ (g.addr.at 3).toNat < 0x1000000 ∧ 0x1000000 ≤ (({ g with addr := Bank.fill 4 0x1000000 } : Gasp).addr.at 3).toNat) ∧
    up.refusal { who := .sq 8, sec := false } true (0x20034 + 4 * 1) 4 0 = none ∧
    (let c := (pw fun p => { p with claims := p.claims.upd 1 claim1 }).power.claims.at 1
     bit (0x80000000 : W32) 31 = true ∧ fld (0x80000000 : W32) 0 16 < c.epoch ∧ c.epoch ≤ fld (0x80000001 : W32) 0 16) ∧
    (let a := (pw fun p => { p with claims := p.claims.upd 1 claim1 }).advance t5
     (a.power.claims.at 1).v = true ∧ a.up = true ∧ a.ticking = true ∧ notBefore a.now (a.power.claims.at 1).until_ = true) ∧
    up.refusal hs true (0x40000 + 4 * 31) 4 1 = none ∧
    (let s := pw fun p => { p with masterWas := some { at_ := 0, master := .none, chg := false } }
     s.power.masterWas = some { at_ := 0, master := .none, chg := false } ∧ s.ticking = true ∧ 0 = s.now ∧ up.power.masterWas = none) ∧
    (let s := pw fun p => { p with sokLow := true, supCfg := 2 }
     s.power.low = true ∧ s.lcLocked hs true (0x40000 + 4 * 63) = false ∧ s.regDisabled hs true (0x40000 + 4 * 63) 1 = false) := by
  decide +kernel

theorem witness_ResetsAndRails :
    (up.power.vao = true ∧ (pw fun p => { p with porst := false }).power.porst = false ∧ up.power.porst = true ∧ up.power.rst = true) ∧
    (let s := State.reset
     s.power.vao = true ∧ s.power.porst = true ∧ s.power.vcore = true ∧ s.power.crst = true ∧ s.power.vcoreLost = true ∧
       (s.modPw fun p => { p with vcoreLost := false }).power.vcoreLost = false ∧ s.vault.aonLoad = false) ∧
    (let s := pw fun p => { p with cready := false }
     s.up = true ∧ s.power.cready = false) ∧
    (pw fun p => { p with vcore := false }).power.vcore = false ∧ up.bat.vok = true ∧
    (let s : State := { up with bat := { up.bat with vok := false } }
     s.bat.vok = false ∧ (State.regrant { s with
       bat := .reset, vault := { Vault.reset with aonLoad := s.vault.aonLoad, inputs := s.vault.inputs } } s.grant).up = true) ∧
    up.power.testMode ≠ true := by decide +kernel

theorem witness_LifecycleAndTamper_request :
    up.refusal hs true 0x30008 4 0x4C430001 = none ∧ up.refusal hs true 0x30004 4 0xF = none ∧
    -- from DEVELOPMENT, code 0, to code 1: no check fails; each value here fails the check of its RESULT
    (up.vault.state = 0 ∧ fldN (0x4C430001 : W32) 16 16 = 0x4C43 ∧ up.sec.tr.st = .idle ∧ up.sec.ld.st = .idle ∧ up.seqsBusy = false ∧
      up.bat.noKey = true ∧ up.power.low = false ∧ (pw fun p => { p with sokLow := true }).power.low = true) ∧
    fldN (0x4C440001 : W32) 16 16 ≠ 0x4C43 := by decide +kernel

theorem witness_LifecycleAndTamper_events :
    (let a := ({ up with sec := { up.sec with tr := { st := .clear, target := 1, full := false, byLoad := false } } } : State).advance t5
     a.up = true ∧ a.sec.tr.st = .clear ∧ a.mem.wiping = false ∧ a.power.low = false) ∧
    (let a := ({ up with vault := { up.vault with tamperCfg := 0xD000 } } : State).advance t5
     a.bat.vok = true ∧ bit a.vault.tamperCfg (4 * 3) = true ∧ fldN a.vault.tamperCfg (4 * 3 + 2) 2 = 3 ∧
       bit a.vault.tamperCfg (4 * 0) = false ∧ fldN (0x1000 : W32) 14 2 = 0 ∧ a.up = true ∧ a.sec.ld.st = .idle ∧ a.sec.tr.st = .idle ∧
       (let x := a.vault.inputs.at 3
        x.level = bit a.vault.tamperCfg (4 * 3 + 1) ∧ x.given = false ∧ x.since = none)) ∧
    -- an input that took its level at 5 has held it for 200 ns at 205
    (let s : State := { up with vault := { up.vault with inputs := up.vault.inputs.upd 3 { TamperIn.reset with since := some 5 } } }
     let a := s.advance { ns := 205, q := 0 }
     (a.vault.inputs.at 3).since = some 5 ∧ 200 ≤ (a.now - 5).toNat ∧
       ¬ 200 ≤ ((s.advance { ns := 204, q := 3 }).now - 5).toNat) ∧
    (∀ j, ((up.vault.inputs.upd 2 { TamperIn.reset with waits := true }).at j).waits = decide (j = 2)) ∧
    -- two events of one ns whose inputs stand in the wrong order
    (let l := ((Bank.fill 16 ⟨0, 0⟩).upd 5 ⟨7, 0x88000000⟩).upd 4 (⟨7, 0x90000000⟩ : TamperEntry)
     let x := l.at 5
     let y := l.at 4
     bit x.hi 30 = false ∧ bit y.hi 31 = true ∧ x.lo = y.lo ∧ (x.hi ^^^ y.hi) &&& 0xC00FFFFF = 0 ∧ fldN x.hi 27 3 < fldN y.hi 27 3) ∧
    (let l := { up.sec.ld with st := LdSt.pass }
     l.st ≠ .idle ∧ l.st ≠ .rollback) := by decide +kernel

/-- An image of one section of eight bytes for PROGRAM, signed with the key of private part 1 (R544 to R547; made by hand with the
formulas of FIPS 186-5). -/
def image : List Byte := beBytes 312 0x48474C39010001023801000001000000020009000000000000000000000000000000000000000000000000000000000000000000000000000000000000000000AA87CA22BE8B05378EB1C71EF320AD746E1D3B628BA79B9859F741E082542A385502F25DBF55296C3A545E3872760AB73617DE4A96262C6F5D9E98BF9292DC29F8F41DBD289A147CE9DA3113B5F0B8C00A60B1CE1D7E819D7A431D7C90EA0E5F000000000000000000000000000000000000000000000000000000000000000000008001080000000100000000000000010203040506070808D999057BA3D2D969260045C55B97F089025959A6F434D651D207D19FB96E9E4FE0E86EBE0E64F85B96A9C75295DF61443602DB4C413F0A08DBB3B608E8B4EBA585B1AB10FCA55500728E2819E3663C481CD1751C896997E65EF7AE3E2B6C10
/-- SHA-384 of its key, for BB_DATA48 to BB_DATA59. -/
def keyHash : Nat := 0xA19D4DB171B582EB8052B0CFE555E17894AA22D1C8A9770950697DD8F796D2FA4BF0A56AD80006B7EA08E1191F814B65
def ldr (f : Loader → Loader) : State :=
  { up with sec := { up.sec with ld := f up.sec.ld }
            bat := { up.bat with data := Vector.ofFn fun i => if i.val < 48 then 0 else BitVec.ofNat 32 (keyHash / 2 ^ (32 * (59 - i.val))) } }

theorem image_is_signed : ecdsaOk (imgBytes image 0x40 96) (sha384 (image.take 216)) (imgBytes image 216 96) = true := by decide +kernel

theorem witness_ImageLoader_port :
    up.refusal hs true 0x30010 4 1 = none ∧ up.refusal hs true 0x30010 4 2 = none ∧
    (let s := pw fun p => { p with sokLow := true }
     s.refusal hs true 0x30010 4 1 = none ∧ s.power.low = true ∧ s.sec.ld.st = .idle ∧ s.sec.tr.st = .idle ∧ s.seqsBusy = false) ∧
    (let l := (ldr fun l => { l with st := .verify, img := image, fedBytes := 312 }).sec.ld
     l.st = .verify ∧ l.free.at 1 = true ∧ 12 ≤ l.img.length ∧ imgTotal l.img < l.fedBytes + 4 * 4096) ∧
    (let l (b : List Nat) := (ldr fun l => { l with st := .header, fed := [(0, 1)], fedBytes := 4, bad := b }).sec.ld
     ((l [0]).take.map fun x => x.winBad (l [0])) = some true ∧ ((l [1]).take.map fun x => x.winBad (l [1])) = some false ∧
       up.sec.ld.take = none) ∧
    (let l := (ldr fun l => { l with st := .header }).sec.ld
     l.st ≠ .idle ∧ l.st ≠ .rollback ∧ l.agWritten = false) ∧
    (up.sec.ld.st = .idle ∧ up.sec.tr.st = .idle ∧ up.seqsBusy = false ∧ up.power.low = false) ∧
    ({ up with seqs := up.seqs.upd 15 { up.seqs.at 15 with st := .idle } } : State).seqsBusy = true ∧
    up.refusal hs true (0x38000 + 0x4000 * 1 + 4 * 4095) 4 7 = none ∧ up.refusal hs true 0x30014 4 0x11000 = none ∧
    (let l := (ldr fun l => { l with st := .verify }).sec.ld
     (4096 : Nat) = fldN (0x11000 : W32) 0 13 ∧ l.st = .verify ∧ l.free.at 1 = true ∧ l.img.length < 12) ∧
    (let l := (ldr fun l => { l with st := .header, fed := [(0, 1)], fedBytes := 4 }).sec.ld
     l.take.isSome = true ∧ l.st ≠ .pass) ∧
    (let l := (ldr fun l => { l with st := .pass, fed := [(0, 2)], fedBytes := 216, img := image.take 208 }).sec.ld
     l.take.isSome = true ∧ (l.take.map fun x => x.st) = some .pass) := by decide +kernel

theorem witness_ImageLoader_header :
    (let a := (ldr fun l => { l with st := .header, img := image.take 208, fedBytes := 312 }).advance t5
     let i := a.sec.ld.img
     a.sec.ld.st = .header ∧ 0xC0 ≤ i.length ∧ imgH i ≤ i.length ∧ imgFormat i = true ∧ imgTotal i = 312 ∧
       imgRefused i a.vault.state a.vault.count = false ∧ imgCustomer i = true ∧ a.bat.noKey = false ∧
       beNat (sha384 (imgBytes i 0x40 96)) = a.bat.keyHash ∧ imgLe i 0x10 4 / 0x10000 = 9 ∧ imgLe i 0x10 4 % 0x10000 = 2 ∧
       imgRomRev i = 0 ∧ imgHas i [2, 3] = false ∧ imgSvn i = a.vault.svn.toNat ∧ imgEnc i = false ∧ a.power.low = false ∧
       imgEnc (i.set 7 3) = true ∧ imgFormat (i.set 7 3) = true ∧ imgFormat (i.set 0 0) = false) ∧
    (let s : State := { ldr fun l => { l with st := .key } with key := { up.key with req := true, since := 5 } }
     let a := s.advance { ns := 10005, q := 0 }
     a.key.req = true ∧ a.sec.ld.st = .key ∧ a.ticking = true ∧ notBefore a.now (a.key.since + 10000) = true ∧
       notBefore (s.advance { ns := 10004, q := 0 }).now (a.key.since + 10000) = false) ∧
    -- KP_REQ waits for KP_ACK to be 0
    (let a := ({ ldr fun l => { l with st := .key } with key := { up.key with ack := true, waits := true } } : State).advance t5
     a.sec.ld.st = .key ∧ a.key.waits = true ∧ a.key.ack = true ∧ a.power.low = false ∧ a.key.req = false) ∧
    ((ldr fun l => { l with st := .key }).modPw fun p => { p with sokLow := true }).power.low = true := by decide +kernel

theorem witness_ImageLoader_end :
    (let l := (ldr fun l => { l with st := .verify, img := image }).sec.ld
     l.st = .verify ∧ l.img.length = imgTotal l.img ∧ imgTotal l.img - 96 = 216 ∧ imgEnc l.img = false ∧ l.agWritten = false ∧
       ecdsaOk (imgBytes image 0x40 96) (sha384 (image.take 216)) (List.replicate 96 0) = false) ∧
    (let s := ldr fun l => { l with st := .commit, img := image }
     s.sec.ld.st = .commit ∧ s.sec.tr.st = .idle ∧ imgAuth (image.set 6 2) = true ∧ imgAuth s.sec.ld.img = false ∧ s.power.low = false ∧ imgHas s.sec.ld.img [2, 3] = false) ∧
    (let s := ldr fun l => { l with st := .rollback }
     s.sec.ld.st = .rollback ∧ s.sec.ld.agWritten = false) := by decide +kernel

/-! Debug and Carnelian. -/

/-- `up` with the full grant of debug access. -/
def dg (f : Debug → Debug) : State := { up with dbg := f { up.dbg with port := { up.dbg.port with req := 2 } } }
def pt (f : VylerPort → VylerPort) : State := dg fun d => { d with port := f d.port }
/-- Sequencer 0 in HALT, which runs channel 0. -/
def hq (f : Seq → Seq) (g : DbgSeq → DbgSeq) : State :=
  { dg (fun d => { d with sqs := d.sqs.upd 0 (g .reset) }) with
    seqs := up.seqs.upd 0 (f { Seq.reset with cfg := 1, st := .halt, before := .run, cxv := true })
    chans := up.chans.upd 0 { Channel.reset with st := .run, res := true } }
def mm (f : Mem → Mem) : State := { up with mem := f up.mem }
def cw (f : Carnelian → Carnelian) : State := { up with cw := f { up.cw with en := true } }
/-- Channel `c` in the state `x`. -/
def ch (c : Fin 256) (x : Channel) : State := { up with chans := up.chans.upd c x }
def entry1 : MbEntry := { data := 5, time := 0, vis := true, noted := true }

/-- R566, R588: a READ of GL_VERSION, at 0x4, has the HCRC 0b1110, and its data 0x0009_0002 the DCRC 0x34. -/
theorem example_crcs : hcrcOf 1 1 = 0xE ∧ dcrcOf 0x00090002 = 0x34 := by decide +kernel

theorem witness_WirePort :
    (up.portLive = true ∧ (pt fun p => { p with busy := some (.read, 8) }).dbg.port.busy ≠ none ∧ up.dbg.port.busy = none ∧
      (pt fun p => { p with sticky := true }).dbg.port.sticky = true ∧ portReg 0x200008 = true ∧ portReg 8 = false) ∧
    (let p := (pt fun p => { p with held := some (.read, 8, 7) }).dbg.port
     p.busy = none ∧ p.sticky = false ∧ p.held = some (.read, 8, 7) ∧ (8 : BitVec 26).toNat = 4 * (2 : BitVec 24).toNat) ∧
    ((pt id).wireRead .read 4 0).1 = some 0x90002 ∧ ((pt id).wireRead .read 0x400000 0).1 = none ∧
    (pt id).wireRefusal .read 0x400000 = some 1 ∧ (pt id).wireRefusal .read 0x1200000 = some Cause.disabled.code ∧
    ((pt id).wireRefusal .read 0x20000 = none ∧ within 0x20000 0x200000 0x210000 = false ∧ (pt id).regEcc 0x20000 = false ∧
      shadowRead 0x20000 = false) ∧
    ((pt fun p => { p with sticky := true }).dbg.port.busy = none ∧ 4 * (2 : BitVec 24).toNat ≠ 0x200004 ∧
      (0x34 : Byte) = dcrcOf 0x00090002 ∧ (0x35 : Byte) ≠ dcrcOf 0x00090002) ∧
    (pt fun p => { p with busy := some (.write 5, 8) }).dbg.port.busy = some (.write 5, 8) ∧
    (let p := (pt fun p => { p with busy := some (.read, 0x20000) }).dbg.port
     p.busy = some (.read, 0x20000) ∧ WireOp.isWrite .read = false) ∧
    ((1 : BitVec 2) = 1 ∧ (0xE : BitVec 4) = hcrcOf 1 1 ∧ (0xF : BitVec 4) ≠ hcrcOf 1 1) ∧
    (up.power.vao = true ∧ up.power.porst = true ∧ up.portOpen = true ∧ up.power.testMode = false) ∧
    (up.grant ≤ up.grant ∧ (pt id).grant = 2 ∧ (pt fun p => { p with req := 1 }).grant < 2) ∧
    (hs.who ≠ .debugger ∧ up.refusal hs true 0x200100 4 1 = none ∧ fldN (1 : W32) 0 2 < up.dbg.allow.toNat ∧
      ({ up.dbg with allow := 0 }).allow.toNat < fldN (1 : W32) 0 2) := by decide +kernel

theorem witness_HaltedSequencers_release :
    ((dg id).portOpen = true ∧ (dg id).wireRefusal (.write 1) 0x200104 = none ∧ (dg id).wireRefusal (.write 1) 0x200108 = none ∧
      (dg id).wireRefusal (.write 1) 0x20010C = none ∧ (1 : W32) = BitVec.ofNat 32 (2 ^ (0 : Fin 16).val)) ∧
    ((dg id).isHalted 0 = false ∧ (hq id id).isHalted 0 = true ∧ (hq id id).wireRefusal (.write 1) 0x20010C = none ∧
      ((hq (fun q => { q with before := .idle }) id).seqs.at 0).before ≠ .run) ∧
    (let s := hq id id
     let q := s.seqs.at 0
     q.before = .run ∧ q.cxv = true ∧ (s.chans.at q.cx).st = .run ∧ q.cx = 0) ∧
    (let y := ((hq id id).unhalt 0).execute 0
     y.seqUp 0 = true ∧ (y.seqs.at 0).st.haltable = true) ∧
    -- the channel of the halted sequencer is BLOCKED, and a STOP has been recorded for it
    (let s : State := { hq id id with chans := up.chans.upd 0 { Channel.reset with st := .blocked, res := true, stopRec := some true } }
     let x := s.chans.at 0
     (s.seqs.at 0).st = .halt ∧ (s.seqs.at 0).cxv = true ∧ x.res = true ∧ x.st = .blocked ∧ x.stopRec = some true ∧
       ((s.unhalt 0).chans.at 0).st = .blocked) := by decide +kernel

theorem witness_HaltedSequencers_items :
    let q := (hq (fun q => { q with fownV := true }) id).seqs.at 0
    (hq id id).wireRefusal (.write 4) 0x201008 = none ∧ (hq id id).wireRefusal (.write 0) 0x20100C = none ∧
    fldN (31 : W32) 0 7 < 32 ∧ fldN (32 : W32) 0 7 = 32 ∧ fldN (4 : W32) 0 2 = 0 ∧ fldN (5 : W32) 0 2 ≠ 0 ∧ fldN (37 : W32) 0 7 = 37 ∧
    fldN (40 : W32) 0 7 = 40 ∧ ((hq id id).seqs.at 0).ownsBank = false ∧ q.ownsBank = true ∧
    (feedBad 0 = false ∧ decodeMacro 0x2C000000 = none ∧ feedBad 0x2C000000 = false) ∧
    (let w : W32 := 0x00220003
     feedBad w = false ∧ decodeMacro w = some .adc) := by decide +kernel

theorem witness_HaltedSequencers_feed :
    (match (hq id id).wordFetch 0 0x10220001 with | (none, z) => !z.patched 0 (.instr 0x10220001) | _ => false) = true ∧
    (let s := hq id id
     let q := s.seqs.at 0
     s.isHalted 0 = true ∧ q.cxv = true ∧ feedBad 0x10220001 = false ∧ q.before = .run ∧ decodeMacro 0x10220001 = some .addi ∧
       (match Mn.sem .addi s 0 0x10220001 with | .done z _ _ => z.holds 0 | _ => false) = true ∧
       feedBad 0x00441006 = false ∧ decodeMacro 0x00441006 = some .subt ∧
       (match Mn.sem .subt (hq (fun q => (q.setReg 4 0x80000000).setReg 2 1) id) 0 0x00441006 with | .trap .. => true | _ => false) = true) := by
  decide +kernel

theorem witness_HaltedSequencers_memory :
    ((dg id).portOpen = true ∧ (dg id).wireRefusal (.write 1) 0x201020 = none) ∧
    (within 0x1000000 0x1000000 0x2000000 = true ∧ within 0xFFFFFC 0x1000000 0x2000000 = false) ∧
    (let s := hq id fun x => { x with maddr := 0x1000000 }
     let q : Req := { who := .debugger, sec := true }
     s.isHalted 0 = true ∧ s.refusal q true 0x1000000 4 0 = none ∧ memOf 0x1000000 ≠ some 3 ∧
       (s.memLoad 0 0x1000000 4).1 = some 0 ∧ bit (2 : W32) 1 = true ∧
       memOf 0x1800000 = some 3 ∧ (({ s with mem := { s.mem with unc := [0x200000] } } : State).memLoad 0 0x1000000 4).1 = none ∧
       (match s.refusal q true 0x1000001 4 0 with | some c => decide (c ≠ .guard ∧ c ≠ .disabled) | none => false) = true) := by
  decide +kernel

theorem witness_HaltedSequencers_halts :
    (let s := { hq (fun q => { q with st := .run }) id with dbg := { up.dbg with haltReq := 1 } }
     s.haltNow 0 = some 1 ∧ s.seqUp 0 = true ∧ (s.seqs.at 0).st.haltable = true ∧ s.dbg.haltReq.getLsbD 0 = true) ∧
    (let s := hq (fun q => { q with st := .run }) fun x => { x with grp := true }
     s.haltNow 0 = some 2 ∧ (s.dbg.sqs.at 0).grp = true ∧ s.dbg.haltReq.getLsbD 0 = false) ∧
    (let s := hq (fun q => { q with st := .run }) id
     let s : State := { s with dbg := { s.dbg with bps := s.dbg.bps.upd 0 0x80000000 } }
     (s.dbg.sqs.at 0).exempt = false ∧ s.runnable 0 = true ∧ s.bkpt 0 = true) := by decide +kernel

theorem witness_HaltedSequencers_trace :
    up.refusal hs true (0x200200 + 4 * 31) 4 7 = none ∧ bit up.dbg.stimEn 31 = false ∧
    (let d := { up.dbg with stimEn := 0x80000000, trCfg := 0x11, lastTime := some 0, trace := [7] }
     bit d.stimEn 31 = true ∧ bit d.trCfg 0 = true ∧ bit d.trCfg 4 = true ∧ d.drops = 0 ∧ d.trace.length < 512 ∧
       d.lastTime = some (up.now.extractLsb' 20 32) ∧ d.trace = 7 :: []) ∧
    ((dg id).portOpen = true ∧ (dg id).wireRefusal .consume 0x20028C = none ∧ (dg id).dbg.trace = []) := by decide +kernel

theorem witness_CarnelianWindow :
    let k : CwCmd := { op := 0x20, param := 0, ch := 1, mb := 0, arg := 0, sec := false }
    let m1 : Mailbox := { Mailbox.reset with q := [entry1] }
    (up.up = true ∧ (cw id).cw.en = true ∧ (cw id).cw.pend = none ∧ (cw fun w => { w with pend := some k }).cw.pend = some k ∧
      (cw fun w => { w with rsp := [3] }).cw.rsp = 3 :: [] ∧ 8 ≤ (cw fun w => { w with rsp := List.replicate 8 0 }).cw.rsp.length ∧
      bit (0 : W32) 0 = false) ∧
    (∃ m ∈ ((ch 1 { Channel.reset with mbs := Bank.fill 4 m1 }).chans.at 1).mbs.toList, ∃ e ∈ m.q, e.noted = true) ∧
    (∀ m ∈ (up.chans.at 1).mbs.toList, m.q = []) ∧
    ((Instr.cwStart 0 true, 0x01) ∈ [(.cwNop 0 true, 0x00), (Instr.cwStart 0 true, 0x01)]) ∧
    ((cw fun w => { w with hiv := true }).cw.hiv = true ∧ ¬ 31 < fldN (0x001 : BitVec 16) 0 8 ∧ 31 < fldN (0x20 : BitVec 16) 0 8) ∧
    (up.cwClass 1 true = none ∧ (ch 1 { Channel.reset with st := .run, config := 0x40000000 }).cwClass 1 false ≠ none) ∧
    (8 < (List.replicate 7 (0 : BitVec 16)).length + cwEntries 0x20 ∧ (List.replicate 6 (0 : BitVec 16)).length + cwEntries 0x20 ≤ 8) ∧
    ((up.chans.at 1).stmp 0 = false ∧ ({ Channel.reset with config := 0x100000 } : Channel).st = .off ∧
      ((ch 1 { Channel.reset with st := .ready }).chans.at 1).st ≠ .off) ∧
    ((mm fun m => { m with unc := [(descAddr 1 + 4 * 2) / 8] }).mem.read 16 (descAddr 1 + 4 * 2) 4).1 = none ∧
    (up.mem.read 16 (descAddr 1 + 4 * 63) 4).1 = some 0 ∧ up.descFree 1 127 = false ∧ up.descFree 1 63 = true ∧
    (({ k with arg := 0x40000000 } : CwCmd).param.toNat = 0 ∧ bit ({ k with arg := 0x40000000 } : CwCmd).arg 30 = true) := by
  decide +kernel

/-! Memories, channels and sequencers. -/

def sq (n : Fin 16) (f : Seq → Seq) : State := { up with seqs := up.seqs.mod n f }
/-- Two free nodes stand in the pool. -/
def pool1 : Pool := { Pool.reset with
  head := some 511
  nodes := (Pool.reset.nodes.upd 511 { Node.unowned with kind := .free, next := some 3 }).upd 3 { Node.unowned with kind := .free } }
/-- Channel 1 runs on sequencer 0 and has its context in node 3. -/
def run1 (f : Channel → Channel) (g : Seq → Seq) : State :=
  { up with
    chans := up.chans.upd 1 (f { Channel.reset with st := .run, res := true, lanes := 4 })
    seqs := up.seqs.upd 0 (g { Seq.reset with cfg := 1, st := .run, cxv := true, cx := 1 })
    pool := { Pool.reset with nodes := Pool.reset.nodes.upd 3 { Node.unowned with kind := .lower, owner := 1 } } }

theorem chans_off (d : Fin 256) : (up.chans.at d).st = .off := by
  have : up.chans = Bank.fill 256 .reset := rfl
  simp [this, Channel.reset]

theorem witness_MemoryReadsBack :
    Memory.wf up.mem = true ∧ 5 < 256 ^ 1 ∧ 256 ^ 2 - 1 < 256 ^ 2 ∧ ([1, 2] : List W32).length % 2 = 0 ∧
    (memOf (0x1400008 / 8 * 8)).isSome = true ∧ up.mem.uncRec.count ≤ 255 ∧ up.mem.collRec.count ≤ 255 ∧
    0x1400008 / 8 ∈ (mm fun m => { m with unc := [0x280001] }).mem.unc ∧
    0x1400008 / 8 ∈ (mm fun m => { m with corr := [0x280001] }).mem.corr := by decide +kernel

theorem witness_MemoryCommands :
    up.refusal hs true (0x1A0000 + 4 * 16383) 4 7 = none ∧ up.refusal hs true (0x1B0100 + 4 * 63) 4 7 = none ∧
    sparseWf 0 (up.cs.copies.at 3).words = true ∧
    (let a := (mm fun m => { m with bistCfg := 0x11, bistAddr := (memSpan 0).1 }).advance t5
     let m := a.mem
     a.up = true ∧ a.ticking = true ∧ bit m.bistCfg 0 = true ∧ m.selected = [0] ∧ (memSpan 0).1 ≤ m.bistAddr ∧
       m.bistAddr + 8 ≤ (memSpan 0).2 ∧ m.bistAddr / 8 ∉ m.unc ∧ m.bistAddr / 8 ∉ m.corr ∧
       m.bistLast = none) ∧
    (let a := (mm fun m => { m with bistCfg := 0x11, bistLast := some 0 }).advance { ns := 255, q := 0 }
     (a.now - 0).toNat < max 256 (fldN a.mem.bistCfg 16 16)) ∧
    up.refusal hs true 0x60104 4 1 = none ∧ Memory.wf up.mem = true ∧
    (mm fun m => { m with wiping := true }).mem.wiping = true ∧ up.mem.wiping = false ∧
    up.refusal hs true 0x6010C 4 0x8000 = none ∧
    (memOf 0x120FFFC = some 1 ∧ 0x120FFFC % 4 = 0 ∧ hn.sec = false ∧ hs.sec = true ∧ up.vault.state ≠ 0xF ∧
      (mm fun m => { m with wlock := 0x8000 }).mem.wlock.getLsbD ((0x120FFFC - 0x1200000) / 0x1000) = true) := by decide +kernel

theorem witness_ChannelCommands_start :
    (up.refusal hs true (0x1C0000 + 0x40 * 255) 4 1 = none ∧ (up.chans.at 255).st = .off ∧ (run1 id id).refusal hs true (0x1C0000 + 0x40 * 1) 4 1 = none ∧
      ((run1 id id).chans.at 1).st ≠ .off ∧ up.mem.unc = [] ∧ up.mem.corr = []) ∧
    (up.mem.num 0x1400040 4 = 0 ∧ fldN (0 : W32) 28 2 < 2 ∧ ¬ (word up 0x1400200 0x100000000).mem.num 0x1400204 4 % 4 = 0) ∧
    (∃ d : Fin 256, let s := word (run1 id id) 0x1400040 4
      d ≠ 0 ∧ (s.chans.at d).st ≠ .off ∧ (s.chans.at d).lanes &&& BitVec.ofNat 256 (s.mem.num 0x1400040 32) ≠ 0) ∧
    (¬ ∃ d : Fin 256, d ≠ 0 ∧ (up.chans.at d).st ≠ .off) ∧
    (up.pool.head = none ∧ ({ up with pool := pool1 } : State).pool.head = some 511 ∧ sparseWf [] up.sn.counts = true) := by
  refine ⟨by decide +kernel, by decide +kernel, ⟨1, by decide +kernel⟩, ?_, by decide +kernel⟩
  rintro ⟨d, -, h⟩
  exact h (chans_off d)

theorem witness_ChannelCommands :
    (let s := run1 id id
     (s.chans.at 1).st = .run ∧ s.refusal hs true (0x1C0000 + 0x40 * 1) 4 2 = none ∧ s.refusal hs true (0x1C0000 + 0x40 * 1) 4 6 = none) ∧
    -- a channel that a halted sequencer holds
    (let s := run1 (fun x => { x with st := .blocked }) fun q => { q with st := .halt, before := .run }
     s.frozen 1 = true ∧ (s.chans.at 1).st = .blocked ∧ s.refusal hs true (0x1C0000 + 0x40 * 1) 4 2 = none ∧
       s.refusal hs true (0x1C0000 + 0x40 * 1) 4 6 = none ∧ (s.advance t5).frozen 1 = true ∧ (run1 id id).frozen 1 = false) ∧
    ((run1 (fun x => { x with st := .waitPool }) id).chans.at 1).st = .waitPool ∧
    (let x := (run1 (fun x => { x with st := .ready }) id).chans.at 1
     x.st = .ready ∧ x.resumeRec = false) ∧
    (up.chans.at 255).st = .off ∧
    (let s := run1 (fun x => { x with st := .draining }) id
     (s.chans.at 1).st = .draining ∧ s.refusal hs true (0x1C0000 + 0x40 * 1) 4 4 = none ∧ s.refusal hs true (0x1C0000 + 0x40 * 1) 4 8 = none) ∧
    (let s := run1 (fun x => { x with st := .stopped }) id
     (s.chans.at 1).st = .stopped ∧ bit (s.descWord 1 0) 29 = false ∧ fldN (s.descWord 1 0) 24 6 = fldN (s.chans.at 1).config 24 6) ∧
    bit ((word up 0x1400200 0x20000000).descWord 1 0) 29 = true ∧
    up.refusal hs true (0x1C0000 + 0x40 * 1) 4 0x10 = none ∧ up.refusal hs true (0x1C0000 + 0x40 * 1) 4 0x20 = none ∧
    up.refusal hs true (0x1C0000 + 0x40 * 1) 4 0x40 = none ∧
    (let a := (run1 (fun x => { x with st := .blocked }) id).advance t5
     (a.chans.at 1).st = .blocked ∧ a.frozen 1 = false) := by decide +kernel

theorem witness_Mailboxes :
    (up.refusal hs true (0x1400000 + 0x200 * 255 + 4 * 63) 4 7 = none ∧ up.refusal hs true (0x1400000 + 0x200 * 255 + 4 * 64) 4 7 = some .disabled ∧
      up.up = true ∧ hs.sec = true ∧ up.vault.state ≠ 0xF) ∧
    (let s := ch 255 { Channel.reset with st := .ready }
     let x := s.chans.at 255
     s.refusal hs true 0x1C4010 4 (0x100 * 255 + 3) = none ∧ x.stmp 3 = false ∧ (x.mbs.at 3).q.length < 4) ∧
    4 ≤ ({ Mailbox.reset with q := List.replicate 4 entry1 } : Mailbox).q.length ∧
    (let s := ch 1 { Channel.reset with config := 8, st := .blocked }
     let s1 : State := { s with posts := s.posts.upd 0 { PostRegs.reset with time := 5 } }
     let s2 : State := { s with posts := s.posts.upd 0 { PostRegs.reset with time := 0x8000000000 } }
     let d := s.beryl.doms.at ((s.chans.at 1).mdom 0)
     (s.chans.at 1).stmp 0 = true ∧ hs.who.slot = 0 ∧ s.refusal hs true 0x1C4010 4 0x100 = none ∧
       d.inHorizon (s1.posts.at 0).time s.beryl.g = true ∧ d.dueAt ((s1.posts.at 0).time.setWidth 40) s.beryl.g = false ∧
       d.inHorizon (s2.posts.at 0).time s.beryl.g = false ∧
       d.inHorizon (s.posts.at 0).time s.beryl.g = true ∧ d.dueAt ((s.posts.at 0).time.setWidth 40) s.beryl.g = true) := by decide +kernel

theorem witness_SequencersAndPool :
    (up.halfUp (clusterHalf 3) = true ∧ up.seqUp 15 = true ∧ up.refusal hs true (0x180000 + 0x1000 * 15) 4 1 = none ∧
      (up.seqs.at 15).en = false ∧ bit (1 : W32) 0 = true ∧ (up.seqs.at 15).st = .off ∧ bit up.dbg.cfg 0 = false ∧
      bit ({ up.dbg with cfg := 1 }).cfg 0 = true) ∧
    (let q := (sq 1 fun q => { q with cfg := 1, st := .nap }).seqs.at 1
     q.en = true ∧ bit (0 : W32) 0 = false ∧ q.st = .nap) ∧
    (let q := (run1 id id).seqs.at 0
     q.en = true ∧ q.st = .run) ∧
    ((sq 1 fun q => { q with cfg := 1, st := .pool }).seqs.at 1).st = .pool ∧
    ((sq 1 fun q => { q with cfg := 1, st := .draining }).seqs.at 1).st = .draining ∧
    (let q := (sq 1 fun q => { q with cfg := 1, st := .halt, before := .run }).seqs.at 1
     q.st = .halt ∧ q.before = .run) ∧
    (∀ b ∈ [SeqSt.off, .idle, .nap, .pool, .draining, .switch],
      let q := (sq 1 fun q => { q with cfg := 1, st := .halt, before := b }).seqs.at 1
      q.st = .halt ∧ q.before = b) ∧
    (let a := (sq 1 fun q => { q with cfg := 0x10001, st := .idle }).advance { ns := 1000, q := 0 }
     let q := a.seqs.at 1
     q.st = .idle ∧ fldN q.cfg 16 8 ≠ 0 ∧ a.ticking = true ∧
       notBefore a.now (q.idleSince + BitVec.ofNat 64 (1000 * fldN q.cfg 16 8)) = true) ∧
    (up.up = true ∧ (up.pool.nodes.at 511).kind = .unowned ∧ (pool1.nodes.at 511).kind ≠ .unowned ∧ pool1.head = some 511 ∧
      up.pool.head = none) ∧
    (let s : State := { run1 (fun x => { x with st := .waitPool, back := .run }) (fun q => { q with st := .pool, poolWork := some (.instr 0) }) with pool := pool1 }
     let q := s.seqs.at 0
     let x := s.chans.at q.cx
     q.st = .pool ∧ s.pool.head.isSome = true ∧ q.poolWork = some (.instr 0) ∧ q.cxv = true ∧ x.st = .waitPool ∧ x.faultRec = none ∧
       x.stopRec = none ∧ (up.seqs.at 0).st ≠ .pool) := by decide +kernel

theorem witness_Scheduling_request :
    bit (up.power.halves.at 0).cfg 1 = false ∧ up.waiting 255 = false ∧
    (let y : Channel := { Channel.reset with st := .ready, config := 0x10000000 }
     let s : State := { ch 1 y with seqs := up.seqs.upd 15 { Seq.reset with cfg := 1, st := .idle } }
     s.waiting 1 = true) ∧
    (let s : State := { up with seqs := up.seqs.upd 0 { Seq.reset with cfg := 1, st := .idle } }
     s.eligible 0 .reset = true ∧ (s.seqs.at 0).st = .idle) ∧
    (let s : State := { up with seqs := up.seqs.upd 0 { Seq.reset with cfg := 1, st := .nap } }
     s.eligible 0 .reset = true ∧ (s.seqs.at 0).st = .nap) ∧
    (let s := run1 (fun x => { x with st := .blocked }) id
     let q := s.seqs.at 0
     s.eligible 0 .reset = true ∧ q.st = .run ∧ q.cxv = true ∧ (s.chans.at q.cx).st = .blocked ∧ (s.chans.at q.cx).res = true) ∧
    (let s := run1 id id
     let q := s.seqs.at 0
     s.eligible 0 .reset = true ∧ q.st = .run ∧ q.cxv = true ∧ (s.chans.at q.cx).st = .run ∧
       (s.chans.at q.cx).pri < ({ Channel.reset with config := 0x100000 } : Channel).pri) ∧
    (∀ n : Fin 16, ¬ up.eligible n .reset = true) := by decide +kernel

theorem witness_Scheduling_dispatch :
    up.seqUp 0 = true ∧ (up.seqs.at 0).en = false ∧
    (let q := (sq 0 fun q => { q with cfg := 1, st := .switch }).seqs.at 0
     q.en = true ∧ q.st = .switch) ∧
    (let q := (sq 0 fun q => { q with cfg := 1, st := .idle, swReq := true }).seqs.at 0
     q.en = true ∧ q.st = .idle ∧ q.swReq = true) ∧
    (let s : State := { sq 0 fun q => { q with cfg := 1, st := .idle } with dbg := { up.dbg with haltReq := 1 } }
     (s.seqs.at 0).st = .idle ∧ s.dbg.haltReq.getLsbD 0 = true ∧ up.dbg.haltReq.getLsbD 0 = false ∧ (up.dbg.sqs.at 0).enCatch = false) := by
  decide +kernel

theorem witness_Scheduling_context :
    (let s := run1 id fun q => { q with swReq := true }
     let q := s.seqs.at 0
     s.seqUp 0 = true ∧ q.st = .run ∧ q.cxv = true ∧ q.swReq = true ∧ (s.chans.at q.cx).res = true ∧ q.yielded = false ∧
       q.slots = [] ∧ (s.chans.at q.cx).aff ≠ 1 ∧ ((s.anchor 0 1).1.map fun a => a.uv) = some false ∧
       (match s.saveContext 0 with | .done _ => true | _ => false) = true) ∧
    (let s := word (run1 (fun x => { x with st := .ready, res := false }) fun q => { q with st := .switch, cxv := false }) 0x1400230 0x80000003
     ((s.anchor 0 1).1.map fun a => (a.uv, a.lower)) = some (false, 3) ∧
       ((s.anchor 0 1).2.ctxRead 0 (0x1420000 + 0x100 * 3) 20).1.isSome = true ∧
       (match s.loadContext 0 1 with | .done _ => true | _ => false) = true) := by decide +kernel

theorem choose_only {s : State} {n : Fin 16} {p : Fin 256 → Bool} {c : Fin 256}
    (h : ∀ d, (p d = true ∧ s.eligible n (s.chans.at d) = true) ↔ d = c) : s.choose n p = some c :=
  ((foldl_only _ c c (fun o m e => by simp [h, e]) (by simp [h]) (by simp [h]) _).1).trans
    (if_pos (List.mem_ofFn.2 ⟨c, rfl⟩))

/-- Channel 1 is READY, and sequencer 0 looks for a channel. -/
def rd1 : State := run1 (fun x => { x with st := .ready, res := false }) fun q => { q with st := .switch, cxv := false }
/-- Channel 1 has executed YIELD on sequencer 0. -/
def yd1 : State := run1 id fun q => { q with swReq := true, yielded := true }

theorem witness_Scheduling_choice :
    rd1.choose 0 rd1.waiting = some 1 ∧ (sq 0 fun q => { q with cfg := 1, st := .switch }).choose 0 up.waiting = none := by
  refine ⟨choose_only fun d => ?_, ?_⟩
  · by_cases e : d = 1
    · subst e; exact ⟨fun _ => rfl, fun _ => by decide +kernel⟩
    · have : rd1.waiting d = false := by simp [State.waiting, rd1, run1, up, State.reset, e, Channel.reset]
      simp [this, e]
  · have : up.waiting = fun _ => false := by funext d; simp [State.waiting, chans_off]
    rw [this]; simp [State.choose]

theorem witness_ContextSwitch_again :
    (let q := yd1.seqs.at 0
     let x := yd1.chans.at q.cx
     q.yielded = true ∧ q.st = .run ∧ x.st = .run ∧ q.held = none ∧ yd1.haltNow 0 = none) ∧
    (({ yd1 with chans := yd1.chans.upd 1 { yd1.chans.at 1 with since := yd1.now, st := .ready } } : State).choose 0
      fun d => decide (d = 1) || yd1.waiting d) = some 1 := by
  refine ⟨by decide +kernel, choose_only fun d => ?_⟩
  by_cases e : d = 1
  · subst e; exact ⟨fun _ => rfl, fun _ => by decide +kernel⟩
  · have : yd1.waiting d = false := by simp [State.waiting, yd1, run1, up, State.reset, e, Channel.reset]
    simp [this, e]

/-- The save without a node, and with an error in the anchor of the channel; a channel that drains. -/
theorem witness_ContextSwitch_waits :
    (match (run1 id fun q => { q with swReq := true, wv := 0x80 }).saveContext 0 with
      | .pool y k => decide (k = 2 ∧ (y.chans.at 1).st = .run) | _ => false) = true ∧
    (let s := run1 id fun q => { q with swReq := true }
     let s : State := { s with mem := { s.mem with unc := [0x280046] } }
     (match s.saveContext 0 with | .ecc y => (y.chans.at 1).res | _ => false) = true) ∧
    (let s := run1 (fun x => { x with st := .draining, resumeRec := true }) fun q => { q with swReq := true }
     (match s.saveContext 0 with
      | .done y => decide ((y.chans.at 1).st = .draining ∧ (y.chans.at 1).resumeRec = true ∧
          (y.memRead 0 0x1400200 4).1.isSome = true ∧ (s.mem.num 0x1400200 4) = 0 ∧ fldN (y.chans.at 1).config 24 6 = 0)
      | _ => false) = true) := by decide +kernel

theorem witness_Scheduling_lost :
    let s : State := { rd1 with mem := { rd1.mem with unc := [0x280046] } }
    (s.seqs.at 0).st = .switch ∧ (match s.vendorFetch 0 .switchIn with | (none, _) => true | _ => false) = true ∧
      (match s.loadContext 0 1 with | .ecc _ => true | _ => false) = true := by decide +kernel

/-- The waiting works of a sequencer in POOL, a recorded STOP and a recorded fault; a trap entry that spills. -/
theorem witness_SequencersAndPool_works :
    (let w (o : Option PoolWork) (f : Channel → Channel) : State :=
      { run1 (fun x => f { x with st := .waitPool, back := .run }) (fun q => { q with st := .pool, poolWork := o }) with pool := pool1 }
     ((w none id).seqs.at 0).poolWork = none ∧
     ((w (some (.trapEntry { code := 17, detail := 0, tval := 0 })) id).seqs.at 0).st = .pool ∧
     ((w (some (.switchOut 2)) fun x => { x with stopRec := some true }).chans.at 1).stopRec = some true ∧
     ((w (some (.switchOut 3)) fun x => { x with faultRec := some .breach }).chans.at 1).faultRec.isSome = true ∧
     (w none id).pool.head.isSome = true) ∧
    (let s : State := { run1 id (fun q => { q with wv := 0x7F, tvec := 0x100 }) with pool := pool1 }
     wvCount (s.seqs.at 0).wv = 7 ∧ ((s.anchor 0 1).1.map fun a => decide (a.spcnt < 255)) = some true ∧
       (match (s.anchor 0 1).2.spillWin 0 (winUp 0 2) with | .done _ => true | _ => false) = true) := by decide +kernel

/-! Macro instructions. -/

/-- Words written out by the formats and tables of R271, R276, R277, R279 to R281, R283, R284, R289, R298, R301, R306, R309, R310,
R312, R315, R317 to R319. -/
def words : List (Mn × W32) :=
  [(.add, 0x00442C01), (.sub, 0x00442C02), (.adc, 0x00442C03), (.sbc, 0x00442C04), (.addt, 0x00442C05),
     (.subt, 0x00442C06), (.cmp, 0x00042C07), (.and, 0x00442C08), (.or, 0x00442C09), (.xor, 0x00442C0A),
     (.andn, 0x00442C0B), (.orn, 0x00442C0C), (.tst, 0x00042C0D), (.sll, 0x00442C0E), (.srl, 0x00442C0F),
     (.sra, 0x00442C10), (.ror, 0x00442C11), (.mul, 0x00442C12), (.mulhu, 0x00442C13), (.mulhs, 0x00442C14),
     (.divu, 0x00442C15), (.divs, 0x00442C16), (.remu, 0x00442C17), (.rems, 0x00442C18), (.mins, 0x00442C19),
     (.maxs, 0x00442C1A), (.minu, 0x00442C1B), (.maxu, 0x00442C1C), (.clz, 0x0044041D), (.ctz, 0x0044041E),
     (.popc, 0x0044041F), (.bswap, 0x00440420), (.brev, 0x00440421), (.slts, 0x00442C22), (.sltu, 0x00442C23),
     (.slli, 0x044400C1), (.srli, 0x044400C2), (.srai, 0x044400C3), (.rori, 0x044400C4), (.extu, 0x044428C5),
     (.exts, 0x044428C6), (.ins, 0x044428C7), (.addi, 0x10448001), (.andi, 0x14448001), (.ori, 0x18448001),
     (.xori, 0x1C448001), (.lui, 0x20408001), (.cmpi, 0x24048001), (.tsti, 0x28048001), (.nop, 0x08000001),
     (.rds, 0x08440002), (.wrs, 0x08240003), (.ldb, 0x80440008), (.ldbu, 0x84440008), (.ldh, 0x88440008),
     (.ldhu, 0x8C440008), (.ldw, 0x90440008), (.ldwu, 0x94440008), (.ldp, 0x98440008), (.stb, 0xA0440008),
     (.sth, 0xA4440008), (.stw, 0xA8440008), (.stwu, 0xAC440008), (.stp, 0xB0440008), (.bcc, 0x43800003),
     (.bz, 0x44400003), (.bnz, 0x48400003), (.beq, 0x4C440003), (.bne, 0x50440003), (.j, 0x60000003), (.call, 0x64000003),
     (.jr, 0x68040008), (.callr, 0x6C040008), (.ret, 0x70040008), (.wopen, 0x74000000), (.wclose, 0x78000000),
     (.trap, 0x7C000007), (.now, 0xC04000C1), (.conv, 0xC0443002), (.exp, 0xC0443043), (.enql, 0xC40428C1),
     (.enqe, 0xC44430C2), (.pushe, 0xC4403003), (.deq, 0xC9050001), (.trydeq, 0xC9050002), (.brecv, 0xC9053003),
     (.fire, 0xCC050001), (.waite, 0xCC450002), (.trye, 0xCC450003), (.ll, 0xD0450001), (.sc, 0xD0453002),
     (.clrex, 0xD0000003), (.rdc, 0xD44000C1), (.wrc, 0xD4050002), (.wspill, 0xD4000003), (.frel, 0xD4000004),
     (.fadd, 0xD8442801), (.fsub, 0xD8442802), (.fmul, 0xD8442803), (.fdiv, 0xD8442804), (.fsqrt, 0xD8440005),
     (.fma, 0xD8442806), (.fneg, 0xD8440007), (.fabs, 0xD8440008), (.fmin, 0xD8442809), (.fmax, 0xD844280A),
     (.fcmp, 0xD804280B), (.fcpy, 0xD844000C), (.frint, 0xD844000D), (.fmvgq, 0xDC440001), (.fmvqg, 0xDC440002),
     (.fcvts, 0xDC440003), (.fcvtu, 0xDC440004), (.ftos, 0xDC440005), (.ftou, 0xDC440006), (.fld, 0xDC440007),
     (.fst, 0xDC042808), (.rdfc, 0xDC400009), (.wrfc, 0xDC04000A), (.yield, 0xE0000001), (.stop, 0xE0000002),
     (.cux, 0xFFFEEF2F)]

theorem test_decode_macro : words.all (fun x => decide (decodeMacro x.2 = some x.1)) = true := by decide +kernel

/-- R272: the word 0, an unassigned opcode, an unassigned FN, an ADD with bit 6 at 1, an INS that leaves the word, an odd pair
and a quad that is no multiple of 4. -/
theorem test_decode_illegal :
    ([0, 0x0C000000, 0x00442824, 0x00442841, 0x0444F847, 0x98640008, 0xC8A50001] : List W32).all
      (fun w => decide (decodeMacro w = none)) = true := by decide +kernel

/-- Sequencer 0 runs channel 0 and stands at offset 0x100, where the word `w` is. -/
def mac (w : W32) (f : Seq → Seq) : State :=
  { up with
    chans := up.chans.upd 0 { Channel.reset with st := .run, res := true }
    seqs := up.seqs.upd 0 (f { Seq.reset with cfg := 1, st := .run, cxv := true, pc := 0x100 })
    mem := up.mem.setNum 0x1800100 4 w.toNat }
/-- The conditions of `State.At` for sequencer 0. -/
def atOk (s : State) (m : Mn) (w : W32) : Bool :=
  s.runnable 0 && s.haltFree 0 (some w) && decide (decodeMacro w = some m) &&
    (match s.begin_ 0 with | (.word x, z) => decide (x = w) && !z.patched 0 (.instr w) | _ => false)
/-- What the fetch leaves. -/
def fz (s : State) : State := (s.begin_ 0).2

theorem at_of {s : State} {m : Mn} {w : W32} (h : atOk s m w = true) : s.At 0 m w (fz s) := by
  simp only [atOk, Bool.and_eq_true, decide_eq_true_eq] at h
  obtain ⟨⟨⟨a, b⟩, c⟩, d⟩ := h
  unfold fz
  revert d
  rcases e : s.begin_ 0 with ⟨t | u | x, z⟩ <;> simp
  rintro rfl p
  exact ⟨a, b, e, c, p⟩

theorem witness_At : words.all (fun x => atOk (mac x.2 id) x.1 x.2) = true := by decide +kernel

theorem witness_At_all (x : Mn × W32) (h : x ∈ words) : (mac x.2 id).At 0 x.1 x.2 (fz (mac x.2 id)) :=
  at_of (List.all_eq_true.mp witness_At x h)
def done? : Work → Bool
  | .done _ => true
  | _ => false
/-- A run of `k` registers from 4 on with the values `l`. -/
def regs (l : List W32) (q : Seq) : Seq := ((List.range l.length).foldl (fun q i => q.setReg (4 + i) (l.getD i 0)) q)

theorem witness_MacroArithmetic :
    (let s := mac 0x00442C05 (regs [0x7FFFFFFF, 1])
     atOk s .addt 0x00442C05 = true ∧ ((fz s).seqs.at 0).reg 4 = 0x7FFFFFFF ∧ ((fz s).seqs.at 0).reg 5 = 1) ∧
    atOk (mac 0x00442C06 (regs [0x80000000, 1])) .subt 0x00442C06 = true ∧ atOk (mac 0x00442815 (regs [7, 2])) .divu 0x00442815 = true ∧
    (let s := mac 0x00442C16 fun q => { regs [7, 0] q with stw := 0x100 }
     atOk s .divs 0x00442C16 = true ∧ ((fz s).seqs.at 0).reg 5 = 0 ∧ bit ((fz s).seqs.at 0).stw 8 = true) ∧
    (let s := mac 0x00442C16 (regs [0x80000000, 0xFFFFFFFF])
     atOk s .divs 0x00442C16 = true ∧ ((fz s).seqs.at 0).reg 5 ≠ 0) := by decide +kernel

theorem witness_MacroImmediatesAndBranches :
    atOk (mac 0x044428C5 (regs [0xFFFFFFFF])) .extu 0x044428C5 = true ∧ atOk (mac 0x044428C7 id) .ins 0x044428C7 = true ∧
    (let s := mac 0x44400003 id
     atOk s .bz 0x44400003 = true ∧ ((fz s).seqs.at 0).reg 2 = 0) ∧
    (let s := mac 0x44400003 fun q => q.setReg 2 1
     atOk s .bz 0x44400003 = true ∧ ((fz s).seqs.at 0).reg 2 ≠ 0) := by decide +kernel

theorem witness_MacroWindows :
    (let s := mac 0x74000000 id
     atOk s .wopen 0x74000000 = true ∧ wvCount ((fz s).seqs.at 0).wv ≠ 7) ∧
    (let s := { mac 0x64000003 (fun q => { q with wv := 0x7F, cw := 6 }) with pool := pool1 }
     atOk s .call 0x64000003 = true ∧ wvCount ((fz s).seqs.at 0).wv = 7 ∧ done? ((fz s).wopen 0 250) = true) ∧
    (let s := mac 0x6C040008 (fun q => { q with wv := 0x7F, cw := 6 })
     let s : State := { s with mem := s.mem.setNum 0x1400034 4 (512 * 250) }
     atOk s .callr 0x6C040008 = true ∧ ((fz s).anchor 0 0).1.map (fun a => a.spcnt) = some 250) ∧
    (let s := mac 0x78000000 fun q => { q with wv := 3, cw := 1 }
     atOk s .wclose 0x78000000 = true ∧ ((fz s).seqs.at 0).wv.getLsbD (winUp ((fz s).seqs.at 0).cw 7).val = true) ∧
    (let s := mac 0x70040008 id
     atOk s .ret 0x70040008 = true ∧ ((fz s).seqs.at 0).wv.getLsbD (winUp ((fz s).seqs.at 0).cw 7).val = false ∧
       ((fz s).anchor 0 0).1.map (fun a => a.spcnt) = some 0) ∧
    (let s := mac 0x70040008 id
     let s : State := { s with
       mem := s.mem.setNum 0x1400034 4 (512 + 3)
       pool := { Pool.reset with nodes := Pool.reset.nodes.upd 3 { Node.unowned with kind := .spill, count := 1 } } }
     atOk s .ret 0x70040008 = true ∧ done? ((fz s).wclose 0) = true) ∧
    (saF 0xD4400080 = 2 ∧ decodeMacro 0xD4400081 = some .rdc ∧ atOk (mac 0xD44000C1 id) .rdc 0xD44000C1 = true ∧ saF 0xD44000C1 = 3) ∧
    (let s := mac 0xD4050002 fun q => q.setReg 5 1
     atOk s .wrc 0xD4050002 = true ∧ fldN (((fz s).seqs.at 0).reg 5) 0 2 ≠ 0) ∧
    (let s := mac 0xD4000003 id
     atOk s .wspill 0xD4000003 = true ∧ wvCount ((fz s).seqs.at 0).wv = 1 ∧ ((fz s).anchor 0 0).1.map (fun a => a.spcnt) = some 0 ∧
       done? ((fz s).spillAll 0 0) = true) ∧
    (let s := mac 0xD4000003 (fun q => { q with wv := 3, cw := 1 })
     let s : State := { s with mem := s.mem.setNum 0x1400034 4 (512 * 250) }
     atOk s .wspill 0xD4000003 = true ∧ wvCount ((fz s).seqs.at 0).wv = 2 ∧ ((fz s).anchor 0 0).1.map (fun a => a.spcnt) = some 250) := by
  decide +kernel

theorem witness_MacroMemory_loads :
    -- a word of the scratchpad, with and without an error, and of the context SRAM
    (let s := mac 0x90440008 (regs [0x1000000])
     atOk s .ldw 0x90440008 = true ∧ memWindow 0x1000008 = true ∧ (fz s).refusal ((fz s).seqReq 0) false 0x1000008 4 0 = none ∧
       0x1000008 / 8 ∉ (fz s).mem.unc) ∧
    (let s := mac 0x90440008 (regs [0x1000000])
     let s : State := { s with mem := { s.mem with unc := [0x200001] } }
     atOk s .ldw 0x90440008 = true ∧ 0x1000008 / 8 ∈ (fz s).mem.unc) ∧
    (let s := mac 0x90440008 (regs [0x14001F4])
     atOk s .ldw 0x90440008 = true ∧ (0x14001FC - 0x1400000) % 0x200 / 4 = 127 ∧ (fz s).refusal ((fz s).seqReq 0) false 0x14001FC 4 0 = none) ∧
    -- GL_VERSION, also of a deterministic channel, which may not load the word after the four
    (let s := mac 0x90440008 fun q => { regs [0xFFFFFFFC] q with stw := 0x20000 }
     let z := fz s
     atOk s .ldw 0x90440008 = true ∧ z.refusal (z.seqReq 0) false 4 4 0 = none ∧ z.regEcc 4 = false ∧ (z.regRead (z.seqReq 0) 4).2.holds 0 = true ∧
       bit (z.seqs.at 0).stw 17 = true ∧ (4 + 4 ≤ 0x10) ∧ 0x10 < 0x10 + 4) ∧
    (let s := mac 0x88440008 (regs [0x1000001])
     atOk s .ldh 0x88440008 = true ∧ 0x1000009 % 2 ≠ 0) ∧
    (let s := mac 0x80440008 (regs [0x11FFFF8])
     atOk s .ldb 0x80440008 = true ∧ memWindow 0x1200000 = true ∧ (fz s).refusal ((fz s).seqReq 0) false 0x1200000 1 0 = some .secure) ∧
    (let s := mac 0x94440008 (regs [0x1000005])
     atOk s .ldwu 0x94440008 = true ∧ (4 : Nat) < 0x100000D % 8 ∧ (fz s).mem.unc = [] ∧ (fz s).mem.corr = [] ∧
       (fz s).refusal ((fz s).seqReq 0) false 0x100000D 3 0 = none ∧ (fz s).refusal ((fz s).seqReq 0) false 0x1000010 1 0 = none) ∧
    (let s := mac 0x94440008 (regs [1])
     atOk s .ldwu 0x94440008 = true ∧ memWindow 9 = false ∧ 9 % 4 ≠ 0 ∧ bit ((fz s).seqs.at 0).stw 17 = false) := by decide +kernel

theorem witness_MacroMemory_stores :
    (let s := mac 0xB0440008 (regs [0x1000000])
     atOk s .stp 0xB0440008 = true ∧ (fz s).refusal ((fz s).seqReq 0) true 0x1000008 8 0 = none) ∧
    -- a register store; a deterministic store to BT_CTRL may not
    (let s := mac 0xA8440008 (regs [0x181000])
     let z := fz s
     atOk s .stw 0xA8440008 = true ∧ z.refusal (z.seqReq 0) true 0x181008 4 0 = none ∧
       (z.regWrite (z.seqReq 0) 0x181008 0).holds 0 = true) ∧
    (let s := mac 0xA8440008 fun q => { regs [0xA0008] q with stw := 0x20000 }
     atOk s .stw 0xA8440008 = true ∧ detStore 0xA0010 4 0 = true ∧ detStore 0xA0014 4 0 = false) ∧
    (let s := mac 0xA8440008 (regs [0x1000002])
     atOk s .stw 0xA8440008 = true ∧ 0x100000A % 4 ≠ 0) ∧
    (let s := mac 0xA8440008 (regs [0x1200000])
     atOk s .stw 0xA8440008 = true ∧ (fz s).refusal ((fz s).seqReq 0) true 0x1200008 4 0 = some .secure) ∧
    (let s := mac 0xAC440008 (regs [0x1000007])
     let z := fz s
     atOk s .stwu 0xAC440008 = true ∧ (4 : Nat) < 0x100000F % 8 ∧ z.refusal (z.seqReq 0) true 0x100000F 1 0 = none ∧
       z.refusal (z.seqReq 0) true 0x1000010 3 0 = none ∧
       (z.memWrite 0 0x100000F 1 0).refusal (z.seqReq 0) true 0x1000010 3 0 = none) := by decide +kernel

theorem witness_MacroMemory_atomics :
    (let s := mac 0xD0450001 (fun q => q.setReg 5 0x1000004)
     atOk s .ll 0xD0450001 = true ∧ memOf 0x1000004 ≠ some 3 ∧ (fz s).refusal ((fz s).seqReq 0) false 0x1000004 4 0 = none) ∧
    (let s := mac 0xD0453002 (fun q => { q.setReg 5 0x1000004 with resv := some 0x200000 })
     atOk s .sc 0xD0453002 = true ∧ ((fz s).seqs.at 0).resv = some (0x1000004 / 8) ∧
       (fz s).refusal ((fz s).seqReq 0) true 0x1000004 4 0 = none) ∧
    (let s := mac 0xD0453002 (fun q => q.setReg 5 0x1000004)
     atOk s .sc 0xD0453002 = true ∧ ((fz s).seqs.at 0).resv ≠ some (0x1000004 / 8)) ∧
    atOk (mac 0xD0000003 id) .clrex 0xD0000003 = true ∧ atOk (mac 0xD0450001 fun q => q.setReg 5 0x1000001) .ll 0xD0450001 = true ∧
    (let s := mac 0xD0450001 id
     atOk s .ll 0xD0450001 = true ∧ memWindow 0 = false ∧ (fz s).refusal ((fz s).seqReq 0) false 0 4 0 = none) ∧
    (let s := mac 0xD0453002 (fun q => q.setReg 5 0x181008)
     atOk s .sc 0xD0453002 = true ∧ csOffset 0x181008 = false ∧ (fz s).refusal ((fz s).seqReq 0) true 0x181008 4 0 = none) := by decide +kernel

/-- `mac` with a part of the state changed. -/
def mas (w : W32) (f : Seq → Seq) (g : State → State) : State := g (mac w f)

theorem witness_MacroTimeAndEnqueue :
    (bit ((fz (mac 0xC04000C1 id)).seqs.at 0).stw 17 = false ∧
      (let s := mac 0xC04000C1 fun q => { q with stw := 0x20000 }
       atOk s .now 0xC04000C1 = true ∧ bit ((fz s).seqs.at 0).stw 17 = true)) ∧
    (let s := mas 0xC0443002 (fun q => { q with stw := 0x20000 }) id
     atOk s .conv 0xC0443002 = true ∧ ((fz s).beryl.convert 0 0 0).2 = false) ∧
    atOk (mac 0xC0443043 id) .exp 0xC0443043 = true ∧
    -- ENQL to lane 0 with the action word in r6
    (let s := mac 0xC4043001 (fun q => q.setReg 6 0x80)
     atOk s .enql 0xC4043001 = true ∧ ((fz s).seqs.at 0).reg 6 = 0x80 ∧ actOfWord 0x80 = none) ∧
    (actOfWord 0 = some .drive ∧ actOfWord 0xFF51 = some .mark ∧ laneHalf 0 = seqHalf 0 ∧ laneHalf 255 ≠ seqHalf 0) ∧
    (let s := mac 0xC4043001 (regs [0xFFFFFFFF, 0x7F])
     atOk s .enql 0xC4043001 = true ∧ ((fz s).beryl.doms.at 0).inHorizon 0x7FFFFFFFFF (fz s).beryl.g = true ∧
       ((fz s).beryl.doms.at 0).inHorizon 0x8000000000 (fz s).beryl.g = false) ∧
    (let s := mas 0xC4043001 id fun s => s.modLane 0 fun l => { l with cfg := 0x10, st := .run }
     let x := (fz s).enqLane 0 .drive false 0 0x1000
     atOk s .enql 0xC4043001 = true ∧ x.2 = .ok ∧ x.1.holds 0 = true) ∧
    (let e : ActEntry := { v := false, op := .drive, td := 0, ns := 0x1000, ge := 0, execAt := none, passed := false }
     let s := mas 0xC4043001 id fun s => s.modLane 0 fun l => { l with cfg := 0x10, st := .run, aq := List.replicate 8 e }
     atOk s .enql 0xC4043001 = true ∧ ((fz s).enqLane 0 .drive false 0 0x1000).2 = .stall) ∧
    (let s := mas 0xC4043001 id fun s => s.modLane 0 fun l => { l with st := .fault }
     atOk s .enql 0xC4043001 = true ∧ ((fz s).enqLane 0 .drive false 0 0x1000).2 = .refused) := by decide +kernel

/-- An ENQL that a full queue holds goes on once there is room, stays, or is refused. -/
theorem witness_MacroTimeAndEnqueue_held :
    let h : Held := { ir := 0xC4043001, act := 0, dom := 0, ns := 0x1000, micro := none, fed := false }
    let e : ActEntry := { v := false, op := .drive, td := 0, ns := 0x1000, ge := 0, execAt := none, passed := false }
    let s := mac 0 fun q => { q with held := some h }
    let t (f : Lane → Lane) : EnqRes × Bool :=
      let x := (s.modLane 0 fun l => f { l with cfg := 0x10, st := .run }).enqLane 0 .drive false 0 0x1000
      (x.2, x.1.holds 0)
    s.seqUp 0 = true ∧ (s.seqs.at 0).held = some h ∧ decodeMacro h.ir = some .enql ∧ actOfWord h.act = some .drive ∧
      t id = (.ok, true) ∧ (t fun l => { l with aq := List.replicate 8 e }).1 = .stall ∧ (t fun l => { l with st := .fault }).1 = .refused := by
  decide +kernel

theorem witness_MacroTimeAndEnqueue_push :
    (let s := mac 0xC44430C2 id
     let z := fz s
     atOk s .enqe 0xC44430C2 = true ∧ (0xFF003F07 : W32) &&& 0x00FFC0F8 = 0 ∧ engHalf 63 ≠ seqHalf 0 ∧ engHalf 31 = seqHalf 0 ∧
       ((z.engines.at 0).ifs.at 7).length < 4 ∧ (0x00010000 : W32) &&& 0x00FFC0F8 ≠ 0) ∧
    atOk (mac 0xC4403003 id) .pushe 0xC4403003 = true ∧
    4 ≤ (List.replicate 4 ({ data := 0, tag := .data, nbits := 0, stamp := none } : InEntry)).length := by decide +kernel

/-- No stream is attached to a FIFO in `up`. -/
theorem witness_MacroTimeAndEnqueue_streams :
    up.sfAttached 0 false 7 = false ∧ (sf fun c => { c with st := .idle, cfg := 0x1 }).sfAttached 0 false 0 = true := by decide +kernel

def oe : OutEntry := { data := 7, tag := .data, nbits := 8, es := 9 }

theorem witness_MacroDequeueAndEvents_dequeue :
    (let s := mac 0xC9050001 id
     atOk s .deq 0xC9050001 = true ∧ (fz s).pathOf 0 0 false = none) ∧
    (let s := mas 0xC9050001 (fun q => q.setReg 5 0x10000007) (fun s => s.modEng 0 fun e => { e with ofs := e.ofs.upd 7 [oe] })
     let z := fz s
     atOk s .deq 0xC9050001 = true ∧ z.pathOf 0 0x10000007 false = some (.fifo 0 7) ∧
       (z.takeFrom 0 (.fifo 0 7) none).isSome = true ∧ (z.takeFrom 0 (.fifo 0 6) none).isSome = false ∧
       z.pathTrap 0 (.fifo 63 0) 0x10003F00 0xC9050001 ≠ none ∧ ((z.engines.at 0).ofs.at 7) = oe :: []) ∧
    (let s := mac 0xC9050002 fun q => { q.setReg 5 0x30000003 with stw := 0x20000 }
     atOk s .trydeq 0xC9050002 = true ∧ (fz s).pathOf 0 0x30000003 false = some (.mbox 3 false) ∧ bit ((fz s).seqs.at 0).stw 17 = true ∧
       (fz s).pathTrap 0 (.mbox 3 false) 0x30000003 0xC9050002 = none ∧ ((fz s).takeFrom 0 (.mbox 3 false) none).isSome = false) ∧
    (let s := mas 0xC9053003 (fun q => (q.setReg 5 0x40000000).setReg 6 9) fun s => s.modChan 0 fun x => { x with config := 8 }
     let z := fz s
     atOk s .brecv 0xC9053003 = true ∧ z.pathOf 0 0x40000000 true = some (.mbox 0 true) ∧ (z.takeFrom 0 (.mbox 0 true) (some 9)).isSome = false ∧
       notBefore (z.pathMark 0 (.mbox 0 true)) 9 = false ∧ notBefore (z.pathMark 0 (.mbox 0 true)) 0 = true) ∧
    (let s := mas 0xC9053003 (fun q => (q.setReg 5 0x40000000).setReg 6 9) fun s => s.modChan 0 fun x => { x with
       config := 8, mbs := Bank.fill 4 { Mailbox.reset with q := [{ data := 3, time := 8, vis := true, noted := false }] } }
     atOk s .brecv 0xC9053003 = true ∧ ((fz s).takeFrom 0 (.mbox 0 true) (some 9)).isSome = true ∧
       ((fz s).takeFrom 0 (.mbox 0 true) (some 8)).isSome = false) ∧
    (let z := mas 0xC9050001 id fun s => s.modSf 127 fun f => { f with cpl := [5] }
     (z.streams.at 127).cpl = 5 :: []) ∧
    (let r : Quad := { w0 := 1, w1 := 0, w2 := 32, w3 := 0 }
     let z := mas 0xC9050001 id fun s => { s with
       abs_ := s.abs_.upd 15 { AbCell.reset with rxq := [r] }, gds := s.gds.upd 1 { Guardian.reset with rxq := [r] } }
     (z.takeFrom 0 (.cell 15) (some 8)).isSome = false ∧ (z.takeFrom 0 (.cell 15) (some 9)).isSome = true ∧
       ((z.abs_.at 15).rxq = [r] ∧ r ∉ (z.abs_.at 15).qbad ∧ r ∈ ({ z.abs_.at 15 with qbad := [r] } : AbCell).qbad) ∧
       (z.takeFrom 0 (.node 1) (some 8)).isSome = false ∧ (z.takeFrom 0 (.node 1) none).isSome = true) := by decide +kernel

theorem witness_MacroDequeueAndEvents_events :
    (let s := mas 0xCC050001 (fun q => q.setReg 5 255) fun s => { s with sn := { s.sn with chCfg := s.sn.chCfg.upd 255 0x01800000 } }
     let g := (fz s).sn.chCfg.at 255
     atOk s .fire 0xCC050001 = true ∧ bit g 23 = true ∧ fldN g 24 8 ≠ 0) ∧
    (let s := mas 0xCC050001 (fun q => q.setReg 5 255) fun s => { s with sn := { s.sn with chCfg := s.sn.chCfg.upd 255 0x00C00000 } }
     let g := (fz s).sn.chCfg.at 255
     atOk s .fire 0xCC050001 = true ∧ ¬ (bit g 23 = true ∧ fldN g 24 8 ≠ 0) ∧ bit g 22 = true ∧ bit ((fz s).seqs.at 0).stw 16 = false) ∧
    bit ((fz (mac 0xCC050001 id)).sn.chCfg.at 0) 23 = false ∧
    (let s := mas 0xCC450002 (fun q => q.setReg 5 0xA) fun s => { s with sn := { s.sn with counts := [(3, [7])] } }
     atOk s .waite 0xCC450002 = true ∧ (fz s).sn.pending 3 ≠ [] ∧ (fz s).sn.pending 1 = [] ∧ bit (0xA : W32) 3 = true ∧
       ¬ ((0xA : W32) = 0 ∨ (0xA : W32) &&& 0xFFFFFFF0 ≠ 0)) ∧
    (let s := mac 0xCC450003 (fun q => { q.setReg 5 0xF with stw := 0x20000 })
     atOk s .trye 0xCC450003 = true ∧ ((fz s).seqs.at 0).reg 5 = 0xF ∧ bit ((fz s).seqs.at 0).stw 17 = true ∧
       ∀ j : Fin 4, (fz s).sn.pending j.val = []) := by decide +kernel

theorem witness_MacroDequeueAndEvents_block :
    let z := mac 0xC9050001 id
    (z.chans.at 0).st = .run ∧ (z.seqs.at 0).st = .run ∧ (∀ d : Fin 256, z.waiting d = false) ∧
    (let y := mas 0xC9050001 id fun s => s.modChan 1 fun x => { x with st := .ready }
     y.waiting 1 = true ∧ y.eligible 0 (y.chans.at 1) = true) ∧
    ((mas 0xC9050001 id fun s => s.modChan 0 fun x => { x with st := .draining }).chans.at 0).st = .draining := by decide +kernel

theorem witness_MacroFloat :
    (let s := mac 0xD8442801 fun q => { q with fownV := true }
     let z := fz s
     atOk s .fadd 0xD8442801 = true ∧ done? (z.floatOwn 0) = true ∧ (z.seqs.at 0).fownV = true ∧ (z.seqs.at 0).fownCh = (z.seqs.at 0).cx ∧
       bit (z.seqs.at 0).fctl 8 = false) ∧
    -- the largest double twice, with the trap of OF enabled
    (let s := mac 0xD8442801 fun q => { q with fownV := true, fctl := 0x400, q := Bank.fill 16 0x7FEFFFFFFFFFFFFF }
     let q := (fz s).seqs.at 0
     let x := (fAdd 0 (q.q.at 4) (q.q.at 5)).2
     atOk s .fadd 0xD8442801 = true ∧ bit q.fctl 10 = true ∧ bit x.word 2 = true ∧ bit q.fctl 12 = false ∧ bit q.fctl 11 = false) ∧
    (let s := mac 0xD8442802 fun q => { q with fownV := true, fctl := 0x1F00, q := Bank.fill 16 0x3FF0000000000000 }
     let q := (fz s).seqs.at 0
     atOk s .fsub 0xD8442802 = true ∧ (fSub 0 (q.q.at 4) (q.q.at 5)).2.word = 0) ∧
    (let s := mac 0xDC440007 fun q => { q.setReg 4 0x1000008 with fownV := true }
     atOk s .fld 0xDC440007 = true ∧ (fz s).refusal ((fz s).seqReq 0) false 0x1000008 8 0 = none) ∧
    (let s := mac 0xDC042808 fun q => { q.setReg 4 0x1000008 with fownV := true }
     atOk s .fst 0xDC042808 = true ∧ (fz s).refusal ((fz s).seqReq 0) true 0x1000008 8 0 = none) ∧
    atOk (mac 0xDC440007 fun q => { q.setReg 4 0x1000001 with fownV := true }) .fld 0xDC440007 = true ∧
    (let z := fz (mac 0xD8442803 id)
     (z.seqs.at 0).fownV = false ∧ (z.anchor 0 0).1.map (fun a => a.fv) = some false ∧ done? (z.floatOwn 0) = true) ∧
    atOk (mac 0xD4000004 id) .frel 0xD4000004 = true ∧
    (let s := mac 0xD4000004 fun q => { q with fownV := true, fownD := true }
     let s : State := { s with pool := pool1 }
     atOk s .frel 0xD4000004 = true ∧ ((fz s).seqs.at 0).fownD = true ∧ done? ((fz s).floatSave 0) = true) := by decide +kernel

/-- The microword 0x1070C720 is ADD rd, rs, rt with END. -/
theorem witness_MacroChannelAndMicrocode :
    atOk (mac 0xE0000001 id) .yield 0xE0000001 = true ∧ atOk (mac 0xE0000002 id) .stop 0xE0000002 = true ∧
    (let s := mac 0xFFFEEF2F id
     let copy := (fz s).cs.copies.at (seqCluster 0)
     atOk s .cux 0xFFFEEF2F = true ∧ fldN (0xFFFEEF2F : W32) 0 6 = 47 ∧ 0x602F ∉ copy.unc ∧ 0x602F ∉ copy.corr ∧ bit (copy.word 0x602F) 31 = false) ∧
    (let s := mas 0xFC000030 id fun s => { s with cs := { s.cs with copies := s.cs.copies.mod 0 fun k => { k with words := [(0x6030, 0x80007FFF)] } } }
     let e := ((fz s).cs.copies.at (seqCluster 0)).word 0x6030
     atOk s .cux 0xFC000030 = true ∧ bit e 31 = true ∧ fldN e 0 15 = 0x7FFF ∧ 48 ≤ fldN (0xFC000030 : W32) 0 6 ∧
       bit ((fz s).seqs.at 0).stw 16 = false) ∧
    (let s := mas 0xFFFEEF2F id fun s => { s with cs := { s.cs with copies := s.cs.copies.mod 0 fun k => { k with words := [(0x602F, 0x80006040), (0x6040, 0x1070C720)] } } }
     let copy := (fz s).cs.copies.at (seqCluster 0)
     let u := copy.word 0x6040
     atOk s .cux 0xFFFEEF2F = true ∧ copy.word 0x602F = 0x80006040 ∧ (fz s).cs.maxUw ≠ 0 ∧ fldN u 29 3 = 0 ∧ bit u 28 = true ∧
       (regOp (fldN u 22 6)).isSome = true ∧ fldN u 0 4 = 0 ∧ uD u < 62 ∧ uA u < 62 ∧ uB u < 62 ∧
       ((Micro.entry 0xFFFEEF2F 0x104 0x6040).genReg (uD u)).isSome = true) ∧
    fldN (0xE0000000 : W32) 29 3 = 7 := by decide +kernel

/-- Cluster 0 with an uncorrectable error in the word of the ROM at which the work `w` of sequencer 0 begins. -/
def badRom (s : State) (w : VendorWork) : State :=
  { s with cs := { s.cs with copies := s.cs.copies.upd 0 { s.cs.copies.at 0 with unc := [(Config.romEntry w (s.seqs.at 0)).toNat] } } }
/-- Entry 0 of the patch map of cluster 0 takes that word from patch RAM. -/
def patchRom (s : State) (w : VendorWork) : State :=
  { s with cs := { s.cs with copies := s.cs.copies.upd 0 { s.cs.copies.at 0 with
      pm := (s.cs.copies.at 0).pm.upd 0 ((2 : BitVec 2) ++ Config.romEntry w (s.seqs.at 0) ++ (0 : BitVec 16)) } } }

theorem walk_first (c : CsCopy) (takes : Nat → Bool) (k : Nat) (r : List Nat) (x : Nat) (h : x < 0x6000) :
    ∃ l, c.walk takes (k + 1) r x = c.patch x :: l := by
  rw [CsCopy.walk, if_pos h]; exact ⟨_, rfl⟩

theorem badRom_fetch {s : State} {w : VendorWork} (h : ∀ e ∈ (s.cs.copies.at 0).pm.toList, bit e 31 = false) :
    (badRom s w).vendorFetch 0 w = (some (Config.romEntry w (s.seqs.at 0)).toNat, badRom s w) := by
  have u : (badRom s w).cs.copies.at 0 =
      { s.cs.copies.at 0 with unc := [(Config.romEntry w (s.seqs.at 0)).toNat] } := by simp [badRom]
  have lt : (Config.romEntry w (s.seqs.at 0)).toNat < 0x4000 := (Config.romEntry w (s.seqs.at 0)).isLt
  have pt : ((badRom s w).cs.copies.at 0).patch (Config.romEntry w (s.seqs.at 0)).toNat = (Config.romEntry w (s.seqs.at 0)).toNat := by
    rw [u, CsCopy.patch, if_pos lt, List.find?_eq_none.2 fun e m => by simp [h e m]]
  obtain ⟨l, e⟩ := walk_first ((badRom s w).cs.copies.at 0) (Config.romTakes w (s.seqs.at 0)) 0xFFF []
    (Config.romEntry w (s.seqs.at 0)).toNat (by omega)
  have path : (badRom s w).vendorPath 0 w = (Config.romEntry w (s.seqs.at 0)).toNat :: l := by rw [← pt]; exact e
  rw [State.vendorFetch, if_neg (by rw [show seqCluster 0 = 0 from rfl, u]; simp), path, List.foldl_cons]
  have first : (badRom s w).csCheck 0 (Config.romEntry w (s.seqs.at 0)).toNat = (false, badRom s w) := by
    rw [State.csCheck, u]; simp
  simp only [show seqCluster 0 = 0 from rfl, first, Bool.false_eq_true, if_false]
  exact List.foldl_fixed' (fun _ => rfl) l

theorem badRom_some (s : State) (w : VendorWork) (h : ∀ e ∈ (s.cs.copies.at 0).pm.toList, bit e 31 = false) :
    ((badRom s w).vendorFetch 0 w).1.isSome = true := by rw [badRom_fetch h]; rfl

theorem patch_entry (x : BitVec 14) :
    let e : BitVec (2 + 14 + 16) := (2 : BitVec 2) ++ x ++ (0 : BitVec 16)
    e.getLsbD 31 = true ∧ e.extractLsb' 16 14 = x := by
  refine ⟨?_, BitVec.eq_of_getLsbD_eq fun i h => ?_⟩
  · rw [BitVec.getLsbD_append, BitVec.getLsbD_append]; rfl
  · rw [BitVec.getLsbD_extractLsb', BitVec.getLsbD_append, BitVec.getLsbD_append]; simp [h]

theorem patchRom_patched (s : State) (w : VendorWork) : (patchRom s w).patched 0 w = true := by
  generalize r : Config.romEntry w (s.seqs.at 0) = x
  have lt : x.toNat < 0x4000 := x.isLt
  let e : W32 := (2 : BitVec 2) ++ x ++ (0 : BitVec 16)
  have v : bit e 31 = true := (patch_entry x).1
  have m : fldN e 16 14 = x.toNat := congrArg BitVec.toNat (patch_entry x).2
  have u : (patchRom s w).cs.copies.at 0 = { s.cs.copies.at 0 with pm := (s.cs.copies.at 0).pm.upd 0 e } := by simp [patchRom, r, e]
  have inn : e ∈ ((s.cs.copies.at 0).pm.upd 0 e).toList := by
    have : ((s.cs.copies.at 0).pm.upd 0 e).at 0 = e := by simp
    have k : ((s.cs.copies.at 0).pm.upd 0 e).at 0 ∈ ((s.cs.copies.at 0).pm.upd 0 e) := Vector.getElem_mem _
    rw [this] at k; exact Vector.mem_toList_iff.2 k
  obtain ⟨l, p⟩ := walk_first ((patchRom s w).cs.copies.at 0) (Config.romTakes w (s.seqs.at 0)) 0xFFF [] x.toNat (by omega)
  have path : (patchRom s w).vendorPath 0 w = ((patchRom s w).cs.copies.at 0).patch x.toNat :: l := by rw [← p, ← r]; rfl
  rw [State.patched, path, show seqCluster 0 = 0 from rfl, u, CsCopy.mapped, CsCopy.patch, if_pos lt]
  rcases f : ((s.cs.copies.at 0).pm.upd 0 e).toList.find? (fun y => bit y 31 && decide (fldN y 16 14 = x.toNat)) with _ | y
  · exact absurd (List.find?_eq_none.1 f e inn) (by simp [v, m])
  · simp only [Bool.and_eq_true, List.any_eq_true, List.any_cons, Bool.or_eq_true, decide_eq_true_eq]
    exact ⟨⟨e, inn, v⟩, .inl (by simp [f])⟩

/-- The patch map of `up` is not valid anywhere. -/
theorem pm_up (e : W32) (h : e ∈ (up.cs.copies.at 0).pm.toList) : bit e 31 = false := by
  have : (up.cs.copies.at 0).pm = Bank.fill 64 0 := rfl
  rw [this] at h
  simp [Bank.fill] at h
  subst h; rfl

/-- A double-bit error in the vendor microcode of a switch-in, of a switch-out, of an instruction and of one that is fed. -/
theorem witness_vendor_errors :
    ((badRom rd1 .switchIn).seqs.at 0).st = .switch ∧ ((badRom rd1 .switchIn).vendorFetch 0 .switchIn).1.isSome = true ∧
    ((badRom yd1 .switchOut).seqs.at 0).swReq = true ∧ ((badRom yd1 .switchOut).vendorFetch 0 .switchOut).1.isSome = true ∧
    (let s := badRom (mac 0xE0000001 id) (.instr 0xE0000001)
     s.runnable 0 = true ∧ (s.vendorFetch 0 (.instr 0xE0000001)).1.isSome = true) ∧
    (let s := badRom (hq id id) (.instr 0)
     s.isHalted 0 = true ∧ (s.vendorFetch 0 (.instr 0)).1.isSome = true) := by
  refine ⟨rfl, ?_, rfl, ?_, ⟨by decide +kernel, ?_⟩, by decide +kernel, ?_⟩ <;> exact badRom_some _ _ pm_up

/-- An instruction, run and fed, whose first vendor microword stands in patch RAM. -/
theorem witness_vendor_patched :
    (let s := patchRom (mac 0x00442C01 id) (.instr 0x00442C01)
     s.patched 0 (.instr 0x00442C01) = true ∧ s.runnable 0 = true) ∧
    (let s := patchRom (hq id id) (.instr 0)
     s.patched 0 (.instr 0) = true ∧ s.isHalted 0 = true) :=
  ⟨⟨patchRom_patched _ _, by decide +kernel⟩, patchRom_patched _ _, by decide +kernel⟩

theorem witness_TakingATrap :
    (let s := mac 0x0C000000 id
     s.runnable 0 = true ∧ s.haltFree 0 (some 0x0C000000) = true ∧ decodeMacro 0x0C000000 = none ∧
       (match s.begin_ 0 with | (.word w, z) => decide (w = 0x0C000000) && !z.patched 0 (.instr w) | _ => false) = true) ∧
    (let s := mac 0 fun q => { q with pc := 0x80000 }
     s.runnable 0 = true ∧ s.haltFree 0 none = true ∧ 0x80000 ≤ ((s.seqs.at 0).pc).toNat ∧
       (match s.fetch 0 with | (.error _, _) => true | _ => false) = true) ∧
    ((mac 0 fun q => { q with tvec := 0x200 }).seqs.at 0).tvec ≠ 0 ∧ ((mac 0 id).chans.at 0).firstFetch = false ∧
    wvCount ((mac 0 id).seqs.at 0).wv ≠ 7 ∧ ((mas 0 id fun s => s.modChan 0 fun x => { x with firstFetch := true }).chans.at 0).firstFetch = true ∧ ((mac 0 id).cs.copies.at 0).unc = [] ∧
    (let s := mac 0 fun q => { q with tvec := 0x200, wv := 0x7F }
     let s : State := { s with mem := s.mem.setNum 0x1400034 4 (512 * 255) }
     wvCount (s.seqs.at 0).wv = 7 ∧ ((s.anchor 0 0).1.map fun a => a.spcnt) = some 255) ∧
    ((mac 0 id).chans.at 0).st = .run := by decide +kernel

/-! Worked examples of the spec. -/

/-- The custom instruction LDF16P of chapter 12: its words in cluster 0 and the frame of chapter 6. -/
def ldf16p (w : W32) : State :=
  let s := mac w fun q => ((q.setReg 1 0x01002008).setReg 22 8)
  { s with
    mem := s.mem.setNum 0x1002016 4 0x66000040
    cs := { s.cs with
      copies := s.cs.copies.mod 0 fun k => { k with
        words := [(0x6009, 0x80006040), (0x6040, 0xA5506048), (0x6041, 0x0060C770), (0x6042, 0x65430000),
          (0x6043, 0x04E18400), (0x6044, 0x28C2120F), (0x6045, 0x28CE100F), (0x6046, 0x00BCCF20), (0x6047, 0xD1800000),
          (0x6048, 0xC176F030)] } } }

/-- LDF16P m4, k1, m6, 14 loads 0x4000 and 0x66, leaves C alone at 1, and takes 11 microwords. -/
theorem example_ldf16p :
    (match exec (.cuxn 0) (ldf16p 0xFE81B389) with
     | .next s =>
       let q := s.seqs.at 0
       decide (q.reg 20 = 0x4000 ∧ q.reg 21 = 0x66 ∧ q.stw = 2 ∧ q.pc = 0x104 ∧ q.uwcnt = 11)
     | _ => false) = true := by decide +kernel

/-- LDF16P m5 traps with ILLEGAL after 4 microwords, and 18 more enter the handler. -/
theorem example_ldf16p_odd :
    (match exec (.cuxn 0) ((ldf16p 0xFEA1B389).modSeq 0 fun q => { q with tvec := 0x200 }) with
     | .next s =>
       let q := s.seqs.at 0
       decide (q.tcause = 3 ∧ q.tval = 0xFEA1B389 ∧ q.pc = 0x200 ∧ q.uwcnt = 22)
     | _ => false) = true := by decide +kernel

/-- The bounded receive of chapter 11: the entry of PE57 arrives with its stamp, and EXP gives its time back. -/
theorem example_brecv :
    (let s := (mac 0xCA022003 fun q => ((q.setReg 2 0x10000000).setReg 4 0x0132B3A0)).modEng 0 fun e =>
       { e with ofs := e.ofs.upd 0 [{ data := 0x24, tag := .last, nbits := 7, es := 4 * 20082736 }] }
     match exec (.brecv 0) s with
     | .next s =>
       let q := s.seqs.at 0
       decide (q.reg 16 = 0x24 ∧ q.reg 17 = 0 ∧ q.reg 18 = 0x04C9C0C0 ∧ q.reg 19 = 0x47000000 ∧ bit q.stw 2 = false ∧ q.uwcnt = 8)
     | _ => false) = true ∧
    (match exec (.exp 0) (mac 0xC2849003 fun q => ((q.setReg 4 0x0132B3A0).setReg 18 0x04C9C0C0)) with
     | .next s => decide ((s.seqs.at 0).reg 20 = 0x01327030 ∧ (s.seqs.at 0).reg 21 = 0)
     | _ => false) = true := by decide +kernel

/-- R59: the refused 32-bit read of the window's register is recorded; the refused read of an offset without a register then
sets OVF only. -/
theorem example_hostErrors :
    (match exec (.hostRequest t5 { hrq false 0xF00 with tag := 2 } true) (cw id) with
     | .next s =>
       match exec (.hostRequest t5 { hrq false 0x300000 with tag := 5 } true) s with
       | .next z => decide ((s.regRead hn 0x10004).1 = 0x82025000 ∧ (z.regRead hn 0x10004).1 = 0xC2025000 ∧
           (z.regRead hn 0x10000).1 = 0xF00)
       | _ => false
     | _ => false) = true := by decide +kernel

/-- The collision of chapter 14: a store of SQ9 to word 0x2044 meets a ring word of stream channel 4. -/
theorem example_collision :
    (let m := State.reset.mem.collide { areq := 9, write := true, off := 0x2044 } 4 true
     m.collRec.first.addr = 0x1002040 ∧ m.collRec.info = 0x8001C904) := by decide +kernel

end Sys2Proof.Tests
end

namespace Sys2Proof.Machine

/-- R63, R73: HP_XF_CFG.BURST as a number of beats, where the field 0 stands for 16. -/
def Xfer.burstLimit (x : Xfer) : Nat := if fldN x.cfg 0 4 = 0 then 16 else fldN x.cfg 0 4

theorem Xfer.one_le_burstLimit (x : Xfer) : 1 ≤ x.burstLimit := by
  unfold Xfer.burstLimit
  split <;> omega

/-- R63: the beats of the next burst are the minimum of the three limits, so that a burst of `k` beats is within them exactly
when it meets each. Both ends of the obligation are instances of this. -/
theorem Xfer.le_beats_iff (x : Xfer) (k : Nat) :
    k ≤ x.beats ↔ k ≤ x.burstLimit ∧ 8 * k ≤ x.llen - x.next ∧ (x.lsys + x.next) % 4096 + 8 * k ≤ 4096 := by
  have hpage : k ≤ (4096 - (x.lsys + x.next) % 4096) / 8 ↔ (x.lsys + x.next) % 4096 + 8 * k ≤ 4096 := by omega
  have hrest : k ≤ (x.llen - x.next) / 8 ↔ 8 * k ≤ x.llen - x.next := by omega
  unfold Xfer.beats
  rw [le_min_iff, le_min_iff, hpage, hrest, and_assoc, Xfer.burstLimit]

/-- A word that is left lies whole in the block and in its 4 KiB page, since the length, the progress and the system address
are multiples of 8: the engine never issues an empty burst. -/
theorem Xfer.one_le_beats (x : Xfer) (hleft : x.next < x.llen) (hlen : 8 ∣ x.llen) (hnext : 8 ∣ x.next) (hsys : 8 ∣ x.lsys) :
    1 ≤ x.beats := by
  have hrest : 8 * 1 ≤ x.llen - x.next := by omega
  have hpage : (x.lsys + x.next) % 4096 + 8 * 1 ≤ 4096 := by omega
  exact (x.le_beats_iff 1).2 ⟨x.one_le_burstLimit, hrest, hpage⟩

/-- Settles O10: a burst of `k` beats meets the three limits of R63 exactly when `k` is at most the engine's count. -/
theorem burstIsTheLargest : Obligations.BurstIsTheLargest := by
  intro x hleft hlen hnext hsys
  exact ⟨(x.le_beats_iff x.beats).1 le_rfl, x.one_le_beats hleft hlen hnext hsys, fun k => (x.le_beats_iff k).2⟩

end Sys2Proof.Machine

namespace Sys2Proof

/-- A bank's fold by "or" asks for a member that meets `p`. -/
theorem Bank.any_toList_iff {α : Type} {n : Nat} (v : Bank α n) (p : α → Bool) :
    v.toList.any p = true ↔ ∃ i : Fin n, p (v.at i) = true := by
  constructor
  · intro h
    obtain ⟨x, hx, hp⟩ := List.any_eq_true.1 h
    obtain ⟨i, hi, rfl⟩ := Vector.getElem_of_mem (Vector.mem_toList_iff.1 hx)
    exact ⟨⟨i, hi⟩, hp⟩
  · rintro ⟨i, hp⟩
    exact List.any_eq_true.2 ⟨v.at i, Vector.mem_toList_iff.2 (Vector.getElem_mem i.isLt), hp⟩

theorem any_ofFn_self_iff {n : Nat} (p : Fin n → Bool) : (List.ofFn fun i : Fin n => i).any p = true ↔ ∃ i, p i = true := by
  simp only [List.any_eq_true, List.mem_ofFn, exists_eq, true_and]

theorem bit_and {w : Nat} (x y : BitVec w) (i : Nat) : bit (x &&& y) i = (bit x i && bit y i) := BitVec.getLsbD_and

theorem fldN_ne_zero_iff {w : Nat} (x : BitVec w) (lo len : Nat) :
    fldN x lo len ≠ 0 ↔ ∃ i, lo ≤ i ∧ i < lo + len ∧ bit x i = true := by
  have hzero : fldN x lo len = 0 ↔ ∀ j < len, x.getLsbD (lo + j) = false := by
    rw [fldN, BitVec.toNat_eq_nat]
    simp [BitVec.eq_of_getLsbD_eq_iff]
  rw [Ne, hzero]
  push Not
  constructor
  · rintro ⟨j, hj, hb⟩
    exact ⟨lo + j, by omega, by omega, by simpa [bit] using hb⟩
  · rintro ⟨i, hlo, hhi, hb⟩
    exact ⟨i - lo, by omega, by simpa [bit, Nat.add_sub_cancel' hlo] using hb⟩

end Sys2Proof

namespace Sys2Proof.Machine

/-! The units' own sources, each as the flags and enables that assert it. -/

theorem Domain.source_iff (d : Domain) :
    d.source = true ↔ ∃ i, 8 ≤ i ∧ i ≤ 11 ∧ bit d.stat i = true ∧ bit d.ie i = true := by
  simp only [Domain.source, decide_eq_true_eq, fldN_ne_zero_iff, bit_and, Bool.and_eq_true, Nat.reduceAdd, Nat.lt_succ_iff]

theorem ControlStore.source_iff (c : ControlStore) : c.source = true ↔ bit c.cfg 16 = true ∧ c.uncF ≠ 0 := by
  simp [ControlStore.source]

theorem Spinel.source_iff (n : Spinel) : n.source = true ↔ (bit n.cfg 8 = true ∧ n.hopDrop = true) ∨
    (bit n.cfg 9 = true ∧ n.ovf ≠ 0) ∨ (bit n.cfg 10 = true ∧ n.loopErr = true) := by
  simp only [Spinel.source, Bool.or_eq_true, Bool.and_eq_true, decide_eq_true_eq, or_assoc]

theorem State.orphSource_iff (s : State) :
    s.orphSource = true ↔ s.eic.ieOrph = true ∧ ∃ n : Fin 512, (s.eic.srcs.at n).orph = true := by
  simp only [State.orphSource, allSrcs, Bool.and_eq_true, any_ofFn_self_iff]

theorem State.haltSource_iff (s : State) :
    s.haltSource = true ↔ bit s.dbg.cfg 4 = true ∧ ∃ n : Fin 16, (s.seqs.at n).st = .halt := by
  simp only [State.haltSource, allSeqs, Bool.and_eq_true, any_ofFn_self_iff, decide_eq_true_eq]

theorem Mem.source_434_iff (m : Mem) : m.source 434 = true ↔ bit m.cfg 1 = true ∧ fldN m.cfg 24 8 ≠ 0 ∧
    ∃ k : Fin 4, fldN m.cfg 24 8 ≤ (m.corrCnt.at k).toNat := by
  have hcnt := Bank.any_toList_iff m.corrCnt fun c => decide (fldN m.cfg 24 8 ≤ c.toNat)
  simp only [decide_eq_true_eq] at hcnt
  simp only [Mem.source, Bool.and_eq_true, decide_eq_true_eq, hcnt, and_assoc]

theorem Half.source_iff (x : Half) :
    x.source = true ↔ bit x.cfg 2 = true ∧ (x.done = true ∨ x.cmdErr = true ∨ x.lostF = true) := by
  simp [Half.source, or_assoc]

theorem Power.source_450_iff (p : Power) : p.source 450 = true ↔ ∃ h : Fin 2, (p.halves.at h).source = true := by
  simp [Power.source, Fin.exists_fin_two]

/-! R449: from 433 to 464 the level is the "or" of three units, of which only the owner of the number can assert it. -/

theorem Mem.source_eq_false (m : Mem) {i : Nat} (h : i < 433 ∨ 437 < i) : m.source i = false := by
  unfold Mem.source
  split
  case h_6 => rfl
  all_goals omega

theorem State.secSource_eq_false (s : State) {i : Nat} (h : i < 440 ∨ 442 < i) : s.secSource i = false := by
  unfold State.secSource
  split
  case h_4 => rfl
  all_goals omega

theorem Power.source_eq_false (p : Power) {i : Nat} (h : i < 448 ∨ 451 < i) : p.source i = false := by
  unfold Power.source
  split
  case h_5 => rfl
  all_goals omega

theorem State.sourceLevel_of_shared (s : State) (n : Fin 512) (hlo : 433 ≤ n.val) (hhi : n.val ≤ 464) :
    s.sourceLevel n = (s.mem.source n.val || s.secSource n.val || s.power.source n.val) := by
  unfold State.sourceLevel
  dsimp only
  rw [if_neg (by omega), if_neg (by omega), if_neg (by omega), if_neg (by omega), if_neg (by omega), if_neg (by omega),
    if_neg (by omega), if_neg (by omega), if_neg (by omega)]
  split
  case h_15 => rfl
  all_goals omega

theorem State.sourceLevel_of_mem (s : State) (n : Fin 512) (hlo : 433 ≤ n.val) (hhi : n.val ≤ 437) :
    s.sourceLevel n = s.mem.source n.val := by
  rw [s.sourceLevel_of_shared n (by omega) (by omega), s.secSource_eq_false (by omega), s.power.source_eq_false (by omega),
    Bool.or_false, Bool.or_false]

theorem State.sourceLevel_of_sec (s : State) (n : Fin 512) (hlo : 440 ≤ n.val) (hhi : n.val ≤ 442) :
    s.sourceLevel n = s.secSource n.val := by
  rw [s.sourceLevel_of_shared n (by omega) (by omega), s.mem.source_eq_false (by omega), s.power.source_eq_false (by omega),
    Bool.false_or, Bool.or_false]

theorem State.sourceLevel_of_power (s : State) (n : Fin 512) (hlo : 448 ≤ n.val) (hhi : n.val ≤ 451) :
    s.sourceLevel n = s.power.source n.val := by
  rw [s.sourceLevel_of_shared n (by omega) (by omega), s.mem.source_eq_false (by omega), s.secSource_eq_false (by omega),
    Bool.false_or, Bool.false_or]

/-! The sources from 465 up that a unit presents alone. -/

theorem State.sourceLevel_domains (s : State) : s.sourceLevel 468 = s.beryl.doms.toList.any Domain.source := rfl
theorem State.sourceLevel_controlStore (s : State) : s.sourceLevel 473 = s.cs.source := rfl
theorem State.sourceLevel_orphan (s : State) : s.sourceLevel 474 = s.orphSource := rfl
theorem State.sourceLevel_spinel (s : State) : s.sourceLevel 477 = s.sn.source := rfl
theorem State.sourceLevel_halt (s : State) : s.sourceLevel 478 = s.haltSource := rfl

/-- Settles O45: the level of each source is its unit's own source, which is asserted as the rule of the unit says. -/
theorem sourcesFollowTheirFlags : Obligations.SourcesFollowTheirFlags := by
  intro s m
  refine ⟨?domains, ?controlStore, ?unc, ?corr, ?coll, ?bist, ?agate, ?orphan, ?spinel, ?supply, ?lease, ?halves, ?gasp,
    ?load, ?tamper, ?lifecycle, ?halt⟩
  case domains =>
    rw [s.sourceLevel_domains, Bank.any_toList_iff]
    exact exists_congr fun d => (s.beryl.doms.at d).source_iff
  case controlStore => rw [s.sourceLevel_controlStore, s.cs.source_iff]
  case corr => rw [s.sourceLevel_of_mem 434 (by decide) (by decide)]; exact m.source_434_iff
  case unc | coll | bist | agate =>
    rw [s.sourceLevel_of_mem _ (by decide) (by decide)]
    simp [m, Mem.source]
  case orphan => rw [s.sourceLevel_orphan, s.orphSource_iff]
  case spinel => rw [s.sourceLevel_spinel, s.sn.source_iff]
  case halves =>
    rw [s.sourceLevel_of_power 450 (by decide) (by decide)]
    exact s.power.source_450_iff.trans (exists_congr fun h => (s.power.halves.at h).source_iff)
  case supply | lease | gasp =>
    rw [s.sourceLevel_of_power _ (by decide) (by decide)]
    simp [Power.source]
  case load | tamper | lifecycle =>
    rw [s.sourceLevel_of_sec _ (by decide) (by decide)]
    simp [State.secSource]
  case halt => rw [s.sourceLevel_halt, s.haltSource_iff]

end Sys2Proof.Machine

namespace Sys2Proof.Machine

/-! R176: what a write of SFn_RP does, by where the new value lies in the ring. -/

/-- How far the offset `p` lies ahead of the channel's RP, counted forward in its ring. -/
def Stream.aheadOfRp (c : Stream) (p : Nat) : Nat := (p + c.size - c.rp % c.size) % c.size

/-- The offset `p` of the ring lies in the consumed span [RP, WP]. -/
abbrev Stream.InConsumedSpan (c : Stream) (p : Nat) : Prop := p < c.size ∧ c.aheadOfRp p ≤ c.aheadOfRp (c.wp % c.size)

theorem exec_sfRpWrite_of_sfUp {s : State} {n : Fin 128} (v : W32) (hup : s.sfUp n = true) :
    exec (.sfRpWrite n v) s = .next (s.sfRp n v) := by
  change Host.Outcome.next (if s.sfUp n then s.sfRp n v else s) = _
  rw [if_pos hup]

theorem State.sfRp_eq (s : State) (n : Fin 128) (v : W32) :
    s.sfRp n v = s.modSf n fun c =>
      if c.InConsumedSpan (8 * fldN v 3 17) then { c with rp := 8 * fldN v 3 17 } else { c with rpErr := true } := by
  rw [Nat.mul_comm 8]
  rfl

theorem State.sfRp_of_inConsumedSpan {s : State} {n : Fin 128} {v : W32}
    (h : (s.streams.at n).InConsumedSpan (8 * fldN v 3 17)) :
    s.sfRp n v = { s with streams := s.streams.upd n { s.streams.at n with rp := 8 * fldN v 3 17 } } := by
  rw [s.sfRp_eq, State.modSf, Bank.mod_eq, if_pos h]

theorem State.sfRp_of_not_inConsumedSpan {s : State} {n : Fin 128} {v : W32}
    (h : ¬ (s.streams.at n).InConsumedSpan (8 * fldN v 3 17)) :
    s.sfRp n v = { s with streams := s.streams.upd n { s.streams.at n with rpErr := true } } := by
  rw [s.sfRp_eq, State.modSf, Bank.mod_eq, if_neg h]

/-- Settles O22: the write is accepted exactly where the new value lies in the consumed span, and else sets RPERR alone. -/
theorem streamReadPointer : Obligations.StreamReadPointer := by
  intro s n v hup
  dsimp only
  rw [exec_sfRpWrite_of_sfUp v hup]
  constructor
  · intro hring hspan
    exact congrArg _ (State.sfRp_of_inConsumedSpan ⟨hring, hspan⟩)
  · intro hout
    exact congrArg _ (State.sfRp_of_not_inConsumedSpan hout)

end Sys2Proof.Machine

namespace Sys2Proof.Machine

/-! What every command keeps: the queue of the commands that wait, and the invariant. -/

/-- From `s` to `t` the queue of the commands that wait stays, and the invariant is kept. -/
structure State.Keeps (s t : State) : Prop where
  pending : t.pending = s.pending
  inv : s.Inv → t.Inv

theorem Answers.mono {p q : State → Prop} {o : Host.Outcome State Fault Refusal} (h : Answers p o) (k : ∀ z, p z → q z) :
    Answers q o := fun z e => k z (h z e)

theorem State.Changes.keeps {l : List Part} {s t : State} (h : State.Changes l s t) : s.Keeps t :=
  ⟨h.pending, h.inv⟩

theorem Answers.keeps {l : List Part} {s : State} {o : Host.Outcome State Fault Refusal}
    (h : Answers (State.Changes l s) o) : Answers s.Keeps o := h.mono fun _ => State.Changes.keeps

/-- R51: a request of the host port is the one command that lets more requests wait, and it respects their bound. -/
theorem execHostRequest_keeps (t : Instant) (r : HostReq) (pass : Bool) (s : State) :
    Answers s.Keeps (execHostRequest t r pass s) := by
  obtain ⟨z, hz, hgrows, hbound⟩ := execHostRequest_changes t r pass s
  rintro _ h
  obtain rfl : z = _ := Host.Outcome.next.inj (hz.symm.trans h)
  refine ⟨hgrows.pending, fun i => ?_⟩
  obtain ⟨mem, prog, store, bufs, rbw, counts, rsp⟩ :=
    hgrows.forms ⟨i.mem, i.prog, i.store, i.bufs, i.rbw, i.counts, i.rsp⟩
  exact ⟨mem, prog, store, bufs, rbw, counts, rsp, hbound i.hp⟩

/-- Every command keeps the queue and the invariant, by what each can change. -/
theorem exec_keeps (c : Instr) (s : State) : Answers s.Keeps (exec c s) :=
  match c with
  | .registerWrite _ _ _ => (execRegisterWrite_changes _ _ _ s).keeps
  | .hostRequest t r pass => execHostRequest_keeps t r pass s
  | .hostResponse => (execHostResponse_changes s).keeps
  | .adapterReset _ _ => (execAdapterReset_changes _ _ s).keeps
  | .hpErrClear => (execHpErrClear_changes s).keeps
  | .xfEnable => (execXfEnable_changes s).keeps
  | .xfGo _ => (execXfGo_changes _ s).keeps
  | .xfDisable _ => (execXfDisable_changes _ s).keeps
  | .xfBurstIssue _ _ _ => (execXfBurstIssue_changes _ _ _ s).keeps
  | .xfBurstResponse _ _ _ _ _ => (execXfBurstResponse_changes _ _ _ _ _ s).keeps
  | .xfTimeout _ => (execXfTimeout_changes _ s).keeps
  | .xfDoneClear => (execXfDoneClear_changes s).keeps
  | .laneInputEdge _ _ _ => (execLaneInputEdge_changes _ _ _ s).keeps
  | .supplyOkFall _ _ => (execSupplyOkFall_changes _ _ s).keeps
  | .supplyLowEnd _ => (execSupplyLowEnd_changes _ s).keeps
  | .keyAck _ _ _ => (execKeyAck_changes _ _ _ s).keeps
  | .keyReadTimeout _ => (execKeyReadTimeout_changes _ s).keeps
  | .brefLoss _ _ => (execBrefLoss_changes _ _ s).keeps
  | .berylLock => (execBerylLock_changes s).keeps
  | .td0Wrap => (execTd0Wrap_changes s).keeps
  | .btLoad => (execBtLoad_changes s).keeps
  | .btStart => (execBtStart_changes s).keeps
  | .btRestart => (execBtRestart_changes s).keeps
  | .btSnap => (execBtSnap_changes s).keeps
  | .nowLoRead _ _ => (execNowLoRead_changes _ _ s).keeps
  | .conversion _ => (execConversion_changes _ s).keeps
  | .tdSet _ _ _ => (execTdSet_changes _ _ _ s).keeps
  | .tdStep _ _ _ => (execTdStep_changes _ _ _ s).keeps
  | .tdSlew _ _ _ => (execTdSlew_changes _ _ _ s).keeps
  | .tdRate _ _ _ => (execTdRate_changes _ _ _ s).keeps
  | .tdCancel _ _ _ => (execTdCancel_changes _ _ _ s).keeps
  | .tdApply _ _ => (execTdApply_changes _ _ s).keeps
  | .slewEnd _ _ => (execSlewEnd_changes _ _ s).keeps
  | .canaryUpdate _ _ _ => (execCanaryUpdate_changes _ _ _ s).keeps
  | .stampedEntryDue _ _ _ => (execStampedEntryDue_changes _ _ _ s).keeps
  | .laneEnqueue _ _ _ _ _ _ => (execLaneEnqueue_changes _ _ _ _ _ _ s).keeps
  | .actionDrive _ _ => (execActionDrive_changes _ _ s).keeps
  | .actionFloat _ _ => (execActionFloat_changes _ _ s).keeps
  | .actionToggle _ _ => (execActionToggle_changes _ _ s).keeps
  | .actionRest _ _ => (execActionRest_changes _ _ s).keeps
  | .actionSample _ _ => (execActionSample_changes _ _ s).keeps
  | .actionMark _ _ => (execActionMark_changes _ _ s).keeps
  | .laneFaultEntry _ _ => (execLaneFaultEntry_changes _ _ s).keeps
  | .captureCommit _ _ => (execCaptureCommit_changes _ _ s).keeps
  | .laneEnable _ _ => (execLaneEnable_changes _ _ s).keeps
  | .laneDisable _ _ => (execLaneDisable_changes _ _ s).keeps
  | .laneCfgWrite _ _ => (execLaneCfgWrite_changes _ _ s).keeps
  | .clrflt _ => (execClrflt_changes _ s).keeps
  | .flushA _ => (execFlushA_changes _ s).keeps
  | .flushC _ => (execFlushC_changes _ s).keeps
  | .sfEnable _ _ => (execSfEnable_changes _ _ s).keeps
  | .sfDisable _ _ => (execSfDisable_changes _ _ s).keeps
  | .sfAbort _ _ => (execSfAbort_changes _ _ s).keeps
  | .sfGo _ => (execSfGo_changes _ s).keeps
  | .sfCont _ _ => (execSfCont_changes _ _ s).keeps
  | .sfFlush _ => (execSfFlush_changes _ s).keeps
  | .sfClrerr _ => (execSfClrerr_changes _ s).keeps
  | .sfDescFetch _ _ => (execSfDescFetch_changes _ _ s).keeps
  | .sfTxEntry _ _ => (execSfTxEntry_changes _ _ s).keeps
  | .sfRxEntry _ _ => (execSfRxEntry_changes _ _ s).keeps
  | .sfRecordPush _ => (execSfRecordPush_changes _ s).keeps
  | .sfCplPop _ => (execSfCplPop_changes _ s).keeps
  | .sfCplPush _ _ => (execSfCplPush_changes _ _ s).keeps
  | .sfRpWrite _ _ => (execSfRpWrite_changes _ _ s).keeps
  | .peEnable _ _ => (execPeEnable_changes _ _ s).keeps
  | .peDisable _ _ => (execPeDisable_changes _ _ s).keeps
  | .peAbort _ _ => (execPeAbort_changes _ _ s).keeps
  | .peAbortEntryPush _ => (execPeAbortEntryPush_changes _ s).keeps
  | .peGo _ => (execPeGo_changes _ s).keeps
  | .peNewpc _ _ => (execPeNewpc_changes _ _ s).keeps
  | .peClear _ => (execPeClear_changes _ s).keeps
  | .peHalt _ => (execPeHalt_changes _ s).keeps
  | .peClrerr _ => (execPeClrerr_changes _ s).keeps
  | .peFlushI _ => (execPeFlushI_changes _ s).keeps
  | .peFlushO _ => (execPeFlushO_changes _ s).keeps
  | .peFaccPush _ _ => (execPeFaccPush_changes _ _ s).keeps
  | .peFaccPop _ => (execPeFaccPop_changes _ s).keeps
  | .inspectWrite _ _ => (execInspectWrite_changes _ _ s).keeps
  | .programWordWrite _ _ _ _ => (execProgramWordWrite_changes _ _ _ _ s).keeps
  | .clockToggle _ => (execClockToggle_changes _ s).keeps
  | .pePull _ => (execPePull_changes _ s).keeps
  | .pePush _ => (execPePush_changes _ s).keeps
  | .peOut _ => (execPeOut_changes _ s).keeps
  | .peIn _ => (execPeIn_changes _ s).keeps
  | .peWait _ => (execPeWait_changes _ s).keeps
  | .peSet _ => (execPeSet_changes _ s).keeps
  | .peSched _ => (execPeSched_changes _ s).keeps
  | .peCmp _ => (execPeCmp_changes _ s).keeps
  | .peLdcmp _ => (execPeLdcmp_changes _ s).keeps
  | .peLdper _ => (execPeLdper_changes _ s).keeps
  | .peSig _ => (execPeSig_changes _ s).keeps
  | .peJmp _ => (execPeJmp_changes _ s).keeps
  | .peIllegal _ => (execPeIllegal_changes _ s).keeps
  | .ibInvalidate _ => (execIbInvalidate_changes _ s).keeps
  | .sqEnable _ _ _ => (execSqEnable_changes _ _ _ s).keeps
  | .sqDisable _ _ => (execSqDisable_changes _ _ s).keeps
  | .sqNap _ _ => (execSqNap_changes _ _ s).keeps
  | .schedulerRequest _ => (execSchedulerRequest_changes _ s).keeps
  | .channelDispatch _ => (execChannelDispatch_changes _ s).keeps
  | .switchOut _ => (execSwitchOut_changes _ s).keeps
  | .poolRetry _ => (execPoolRetry_changes _ s).keeps
  | .poolPush _ => (execPoolPush_changes _ s).keeps
  | .poolPop => (execPoolPop_changes s).keeps
  | .illegalInstruction _ => (execIllegalInstruction_changes _ s).keeps
  | .add _ => (execAdd_changes _ s).keeps
  | .sub _ => (execSub_changes _ s).keeps
  | .adc _ => (execAdc_changes _ s).keeps
  | .sbc _ => (execSbc_changes _ s).keeps
  | .addt _ => (execAddt_changes _ s).keeps
  | .subt _ => (execSubt_changes _ s).keeps
  | .cmp _ => (execCmp_changes _ s).keeps
  | .and _ => (execAnd_changes _ s).keeps
  | .or _ => (execOr_changes _ s).keeps
  | .xor _ => (execXor_changes _ s).keeps
  | .andn _ => (execAndn_changes _ s).keeps
  | .orn _ => (execOrn_changes _ s).keeps
  | .tst _ => (execTst_changes _ s).keeps
  | .sll _ => (execSll_changes _ s).keeps
  | .srl _ => (execSrl_changes _ s).keeps
  | .sra _ => (execSra_changes _ s).keeps
  | .ror _ => (execRor_changes _ s).keeps
  | .mul _ => (execMul_changes _ s).keeps
  | .mulhu _ => (execMulhu_changes _ s).keeps
  | .mulhs _ => (execMulhs_changes _ s).keeps
  | .divu _ => (execDivu_changes _ s).keeps
  | .divs _ => (execDivs_changes _ s).keeps
  | .remu _ => (execRemu_changes _ s).keeps
  | .rems _ => (execRems_changes _ s).keeps
  | .mins _ => (execMins_changes _ s).keeps
  | .maxs _ => (execMaxs_changes _ s).keeps
  | .minu _ => (execMinu_changes _ s).keeps
  | .maxu _ => (execMaxu_changes _ s).keeps
  | .clz _ => (execClz_changes _ s).keeps
  | .ctz _ => (execCtz_changes _ s).keeps
  | .popc _ => (execPopc_changes _ s).keeps
  | .bswap _ => (execBswap_changes _ s).keeps
  | .brev _ => (execBrev_changes _ s).keeps
  | .slts _ => (execSlts_changes _ s).keeps
  | .sltu _ => (execSltu_changes _ s).keeps
  | .slli _ => (execSlli_changes _ s).keeps
  | .srli _ => (execSrli_changes _ s).keeps
  | .srai _ => (execSrai_changes _ s).keeps
  | .rori _ => (execRori_changes _ s).keeps
  | .extu _ => (execExtu_changes _ s).keeps
  | .exts _ => (execExts_changes _ s).keeps
  | .ins _ => (execIns_changes _ s).keeps
  | .addi _ => (execAddi_changes _ s).keeps
  | .andi _ => (execAndi_changes _ s).keeps
  | .ori _ => (execOri_changes _ s).keeps
  | .xori _ => (execXori_changes _ s).keeps
  | .lui _ => (execLui_changes _ s).keeps
  | .cmpi _ => (execCmpi_changes _ s).keeps
  | .tsti _ => (execTsti_changes _ s).keeps
  | .nop _ => (execNop_changes _ s).keeps
  | .rds _ => (execRds_changes _ s).keeps
  | .wrs _ => (execWrs_changes _ s).keeps
  | .ldb _ => (execLdb_changes _ s).keeps
  | .ldbu _ => (execLdbu_changes _ s).keeps
  | .ldh _ => (execLdh_changes _ s).keeps
  | .ldhu _ => (execLdhu_changes _ s).keeps
  | .ldw _ => (execLdw_changes _ s).keeps
  | .ldwu _ => (execLdwu_changes _ s).keeps
  | .ldp _ => (execLdp_changes _ s).keeps
  | .stb _ => (execStb_changes _ s).keeps
  | .sth _ => (execSth_changes _ s).keeps
  | .stw _ => (execStw_changes _ s).keeps
  | .stwu _ => (execStwu_changes _ s).keeps
  | .stp _ => (execStp_changes _ s).keeps
  | .bcc _ => (execBcc_changes _ s).keeps
  | .bz _ => (execBz_changes _ s).keeps
  | .bnz _ => (execBnz_changes _ s).keeps
  | .beq _ => (execBeq_changes _ s).keeps
  | .bne _ => (execBne_changes _ s).keeps
  | .j _ => (execJ_changes _ s).keeps
  | .call _ => (execCall_changes _ s).keeps
  | .jr _ => (execJr_changes _ s).keeps
  | .callr _ => (execCallr_changes _ s).keeps
  | .ret _ => (execRet_changes _ s).keeps
  | .wopen _ => (execWopen_changes _ s).keeps
  | .wclose _ => (execWclose_changes _ s).keeps
  | .trap _ => (execTrap_changes _ s).keeps
  | .now _ => (execNow_changes _ s).keeps
  | .conv _ => (execConv_changes _ s).keeps
  | .exp _ => (execExp_changes _ s).keeps
  | .enql _ => (execEnql_changes _ s).keeps
  | .enqe _ => (execEnqe_changes _ s).keeps
  | .pushe _ => (execPushe_changes _ s).keeps
  | .deq _ => (execDeq_changes _ s).keeps
  | .trydeq _ => (execTrydeq_changes _ s).keeps
  | .brecv _ => (execBrecv_changes _ s).keeps
  | .fire _ => (execFire_changes _ s).keeps
  | .waite _ => (execWaite_changes _ s).keeps
  | .trye _ => (execTrye_changes _ s).keeps
  | .ll _ => (execLl_changes _ s).keeps
  | .sc _ => (execSc_changes _ s).keeps
  | .clrex _ => (execClrex_changes _ s).keeps
  | .rdc _ => (execRdc_changes _ s).keeps
  | .wrc _ => (execWrc_changes _ s).keeps
  | .wspill _ => (execWspill_changes _ s).keeps
  | .frel _ => (execFrel_changes _ s).keeps
  | .fadd _ => (execFadd_changes _ s).keeps
  | .fsub _ => (execFsub_changes _ s).keeps
  | .fmul _ => (execFmul_changes _ s).keeps
  | .fdiv _ => (execFdiv_changes _ s).keeps
  | .fsqrt _ => (execFsqrt_changes _ s).keeps
  | .fma _ => (execFma_changes _ s).keeps
  | .fneg _ => (execFneg_changes _ s).keeps
  | .fabs _ => (execFabs_changes _ s).keeps
  | .fmin _ => (execFmin_changes _ s).keeps
  | .fmax _ => (execFmax_changes _ s).keeps
  | .fcmp _ => (execFcmp_changes _ s).keeps
  | .fcpy _ => (execFcpy_changes _ s).keeps
  | .frint _ => (execFrint_changes _ s).keeps
  | .fmvgq _ => (execFmvgq_changes _ s).keeps
  | .fmvqg _ => (execFmvqg_changes _ s).keeps
  | .fcvts _ => (execFcvts_changes _ s).keeps
  | .fcvtu _ => (execFcvtu_changes _ s).keeps
  | .ftos _ => (execFtos_changes _ s).keeps
  | .ftou _ => (execFtou_changes _ s).keeps
  | .fld _ => (execFld_changes _ s).keeps
  | .fst _ => (execFst_changes _ s).keeps
  | .rdfc _ => (execRdfc_changes _ s).keeps
  | .wrfc _ => (execWrfc_changes _ s).keeps
  | .yield _ => (execYield_changes _ s).keeps
  | .stop _ => (execStop_changes _ s).keeps
  | .cuxn _ => (execCuxn_changes _ s).keeps
  | .csWordWrite _ _ _ => (execCsWordWrite_changes _ _ _ s).keeps
  | .csPmWrite _ _ _ => (execCsPmWrite_changes _ _ _ s).keeps
  | .chStart _ _ => (execChStart_changes _ _ s).keeps
  | .chStop _ _ => (execChStop_changes _ _ s).keeps
  | .chAbort _ _ _ => (execChAbort_changes _ _ _ s).keeps
  | .chResume _ _ => (execChResume_changes _ _ s).keeps
  | .chDiscard _ _ => (execChDiscard_changes _ _ s).keeps
  | .chFlush _ _ => (execChFlush_changes _ _ s).keeps
  | .chNote _ _ => (execChNote_changes _ _ s).keeps
  | .channelWake _ _ => (execChannelWake_changes _ _ s).keeps
  | .descriptorWrite _ _ _ _ => (execDescriptorWrite_changes _ _ _ _ s).keeps
  | .plainPost _ _ _ => (execPlainPost_changes _ _ _ s).keeps
  | .stampedPost _ _ _ => (execStampedPost_changes _ _ _ s).keeps
  | .bistWord _ _ => (execBistWord_changes _ _ s).keeps
  | .uncRearm _ => (execUncRearm_changes _ s).keeps
  | .collRearm _ => (execCollRearm_changes _ s).keeps
  | .agateWipe _ => (execAgateWipe_changes _ s).keeps
  | .agateWipeDone => (execAgateWipeDone_changes s).keeps
  | .agWlockSet _ _ => (execAgWlockSet_changes _ _ s).keeps
  | .gdEnable _ _ => (execGdEnable_changes _ _ s).keeps
  | .gdDisable _ _ => (execGdDisable_changes _ _ s).keeps
  | .gdAbort _ _ => (execGdAbort_changes _ _ s).keeps
  | .gdClrerr _ => (execGdClrerr_changes _ s).keeps
  | .flushq _ => (execFlushq_changes _ s).keeps
  | .cycleStart _ _ => (execCycleStart_changes _ _ s).keeps
  | .windowOpen _ _ _ => (execWindowOpen_changes _ _ _ s).keeps
  | .windowClose _ _ => (execWindowClose_changes _ _ s).keeps
  | .relayStart _ _ _ _ => (execRelayStart_changes _ _ _ _ s).keeps
  | .relayEnd _ _ => (execRelayEnd_changes _ _ s).keeps
  | .gdFrameReceived _ _ => (execGdFrameReceived_changes _ _ s).keeps
  | .txLatch _ _ _ => (execTxLatch_changes _ _ _ s).keeps
  | .gdTxFrame _ _ _ => (execGdTxFrame_changes _ _ _ s).keeps
  | .txCommit _ _ => (execTxCommit_changes _ _ s).keeps
  | .readmit _ => (execReadmit_changes _ s).keeps
  | .abEnable _ _ => (execAbEnable_changes _ _ s).keeps
  | .abDisable _ _ => (execAbDisable_changes _ _ s).keeps
  | .abAbort _ _ => (execAbAbort_changes _ _ s).keeps
  | .abClrflt _ => (execAbClrflt_changes _ s).keeps
  | .recover _ => (execRecover_changes _ s).keeps
  | .abFlush _ => (execAbFlush_changes _ s).keeps
  | .txRequest _ _ => (execTxRequest_changes _ _ s).keeps
  | .txCancel _ _ => (execTxCancel_changes _ _ s).keeps
  | .txDue _ _ _ => (execTxDue_changes _ _ _ s).keeps
  | .abSof _ _ _ => (execAbSof_changes _ _ _ s).keeps
  | .abFrameSent _ _ => (execAbFrameSent_changes _ _ s).keeps
  | .abFrameReceived _ _ => (execAbFrameReceived_changes _ _ s).keeps
  | .abBusError _ _ _ => (execAbBusError_changes _ _ _ s).keeps
  | .abProtocolException _ _ => (execAbProtocolException_changes _ _ s).keeps
  | .abFaultEntry _ _ => (execAbFaultEntry_changes _ _ s).keeps
  | .abIntegDone _ _ => (execAbIntegDone_changes _ _ s).keeps
  | .busoffRecoveryDone _ _ => (execBusoffRecoveryDone_changes _ _ s).keeps
  | .sourceLevelChange _ => (execSourceLevelChange_changes _ s).keeps
  | .eicDelivery _ => (execEicDelivery_changes _ s).keeps
  | .eicSetpend _ => (execEicSetpend_changes _ s).keeps
  | .eicClrpend _ => (execEicClrpend_changes _ s).keeps
  | .eicClaim _ => (execEicClaim_changes _ s).keeps
  | .eicComplete _ => (execEicComplete_changes _ s).keeps
  | .sourceConfigWrite _ _ => (execSourceConfigWrite_changes _ _ s).keeps
  | .targetConfigWrite _ _ => (execTargetConfigWrite_changes _ _ s).keeps
  | .modConfigWrite _ _ => (execModConfigWrite_changes _ _ s).keeps
  | .modWindowEnd _ _ => (execModWindowEnd_changes _ _ s).keeps
  | .timerEnable _ _ => (execTimerEnable_changes _ _ s).keeps
  | .timerDisable _ _ => (execTimerDisable_changes _ _ s).keeps
  | .timerTick _ _ => (execTimerTick_changes _ _ s).keeps
  | .timerCarry _ => (execTimerCarry_changes _ s).keeps
  | .timerMatch _ => (execTimerMatch_changes _ s).keeps
  | .timerStart _ => (execTimerStart_changes _ s).keeps
  | .timerStop _ => (execTimerStop_changes _ s).keeps
  | .timerReloadNow _ => (execTimerReloadNow_changes _ s).keeps
  | .timerLimWrite _ _ => (execTimerLimWrite_changes _ _ s).keeps
  | .timerCntRead _ _ => (execTimerCntRead_changes _ _ s).keeps
  | .timerSnapshot => (execTimerSnapshot_changes s).keeps
  | .staggerGo _ => (execStaggerGo_changes _ s).keeps
  | .staggerCancel => (execStaggerCancel_changes s).keeps
  | .staggerStart _ => (execStaggerStart_changes _ s).keeps
  | .compareEnable _ _ => (execCompareEnable_changes _ _ s).keeps
  | .compareArm _ => (execCompareArm_changes _ s).keeps
  | .compareDisarm _ => (execCompareDisarm_changes _ s).keeps
  | .compareFire _ _ => (execCompareFire_changes _ _ s).keeps
  | .capturePairUpdate _ _ => (execCapturePairUpdate_changes _ _ s).keeps
  | .watchdogEnable _ _ => (execWatchdogEnable_changes _ _ s).keeps
  | .watchdogKick _ _ => (execWatchdogKick_changes _ _ s).keeps
  | .watchdogDecrement _ _ => (execWatchdogDecrement_changes _ _ s).keeps
  | .watchdogExpiry _ => (execWatchdogExpiry_changes _ s).keeps
  | .snFireWrite _ _ => (execSnFireWrite_changes _ _ s).keeps
  | .eventEntry _ _ => (execEventEntry_changes _ _ s).keeps
  | .eventArrival _ _ => (execEventArrival_changes _ _ s).keeps
  | .lutEvaluate _ _ => (execLutEvaluate_changes _ _ s).keeps
  | .groupEnableEvent _ _ => (execGroupEnableEvent_changes _ _ s).keeps
  | .groupDisableEvent _ _ => (execGroupDisableEvent_changes _ _ s).keeps
  | .exportEvent _ _ => (execExportEvent_changes _ _ s).keeps
  | .groupSwitch _ => (execGroupSwitch_changes _ s).keeps
  | .lutClear _ => (execLutClear_changes _ s).keeps
  | .lutCfgWrite _ _ => (execLutCfgWrite_changes _ _ s).keeps
  | .subscriptionWrite _ _ _ => (execSubscriptionWrite_changes _ _ _ s).keeps
  | .snChCfgWrite _ _ _ => (execSnChCfgWrite_changes _ _ _ s).keeps
  | .halfOn _ => (execHalfOn_changes _ s).keeps
  | .halfOff _ => (execHalfOff_changes _ s).keeps
  | .halfReset _ => (execHalfReset_changes _ s).keeps
  | .halfSleep _ => (execHalfSleep_changes _ s).keeps
  | .halfWake _ => (execHalfWake_changes _ s).keeps
  | .halfUpDone _ => (execHalfUpDone_changes _ s).keeps
  | .halfSleepDone _ => (execHalfSleepDone_changes _ s).keeps
  | .halfWakeDone _ => (execHalfWakeDone_changes _ s).keeps
  | .halfDownDone _ => (execHalfDownDone_changes _ s).keeps
  | .supCfgWrite _ _ => (execSupCfgWrite_changes _ _ s).keeps
  | .lastGaspWrite => (execLastGaspWrite_changes s).keeps
  | .leaseClaim _ _ _ => (execLeaseClaim_changes _ _ _ s).keeps
  | .leaseExpiry _ _ => (execLeaseExpiry_changes _ _ s).keeps
  | .bbWrite _ _ _ => (execBbWrite_changes _ _ _ s).keeps
  | .powerOnReset => (execPowerOnReset_changes s).keeps
  | .porstNRelease => (execPorstNRelease_changes s).keeps
  | .rstNAssert => (execRstNAssert_changes s).keeps
  | .rstNRelease => (execRstNRelease_changes s).keeps
  | .commonReady => (execCommonReady_changes s).keeps
  | .vcoreLoss => (execVcoreLoss_changes s).keeps
  | .batteryLoss => (execBatteryLoss_changes s).keeps
  | .batteryInit => (execBatteryInit_changes s).keeps
  | .testModeChange _ => (execTestModeChange_changes _ s).keeps
  | .lifecycleRequest _ _ => (execLifecycleRequest_changes _ _ s).keeps
  | .lifecycleCommit _ => (execLifecycleCommit_changes _ s).keeps
  | .loaderGo _ => (execLoaderGo_changes _ s).keeps
  | .loaderAbort _ => (execLoaderAbort_changes _ s).keeps
  | .loaderWindowWrite _ _ _ _ => (execLoaderWindowWrite_changes _ _ _ _ s).keeps
  | .loaderFeed _ _ => (execLoaderFeed_changes _ _ s).keeps
  | .loaderConsume => (execLoaderConsume_changes s).keeps
  | .loaderHeaderDone _ => (execLoaderHeaderDone_changes _ s).keeps
  | .loaderVerifyDone => (execLoaderVerifyDone_changes s).keeps
  | .loaderCommit => (execLoaderCommit_changes s).keeps
  | .loaderRollback => (execLoaderRollback_changes s).keeps
  | .cslockSet _ _ => (execCslockSet_changes _ _ s).keeps
  | .tamperEvent _ _ _ => (execTamperEvent_changes _ _ _ s).keeps
  | .debugRead _ _ => (execDebugRead_changes _ _ s).keeps
  | .debugConsume _ _ _ => (execDebugConsume_changes _ _ _ s).keeps
  | .debugWrite _ _ _ _ _ _ => (execDebugWrite_changes _ _ _ _ _ _ s).keeps
  | .debugAccessDone _ _ => (execDebugAccessDone_changes _ _ s).keeps
  | .headerError _ _ _ _ => (execHeaderError_changes _ _ _ _ s).keeps
  | .lineReset => (execLineReset_changes s).keeps
  | .authRequest _ => (execAuthRequest_changes _ s).keeps
  | .allowWrite _ _ => (execAllowWrite_changes _ _ s).keeps
  | .haltRequest _ => (execHaltRequest_changes _ s).keeps
  | .sequencerHalt _ => (execSequencerHalt_changes _ s).keeps
  | .groupHalt _ => (execGroupHalt_changes _ s).keeps
  | .release _ => (execRelease_changes _ s).keeps
  | .singleStep _ => (execSingleStep_changes _ s).keeps
  | .gdataWrite _ _ => (execGdataWrite_changes _ _ s).keeps
  | .instructionFeed _ _ => (execInstructionFeed_changes _ _ s).keeps
  | .debugMemoryAccess _ _ => (execDebugMemoryAccess_changes _ _ s).keeps
  | .stimulusWrite _ _ _ => (execStimulusWrite_changes _ _ _ s).keeps
  | .traceRead => (execTraceRead_changes s).keeps
  | .cwCmdHi _ => (execCwCmdHi_changes _ s).keeps
  | .cwNop _ _ => (execCwNop_changes _ _ s).keeps
  | .cwStart _ _ => (execCwStart_changes _ _ s).keeps
  | .cwStop _ _ => (execCwStop_changes _ _ s).keeps
  | .cwAbort _ _ => (execCwAbort_changes _ _ s).keeps
  | .cwResume _ _ => (execCwResume_changes _ _ s).keeps
  | .cwDiscard _ _ => (execCwDiscard_changes _ _ s).keeps
  | .cwFlush _ _ => (execCwFlush_changes _ _ s).keeps
  | .cwNote _ _ => (execCwNote_changes _ _ s).keeps
  | .cwPost _ _ => (execCwPost_changes _ _ s).keeps
  | .cwStat _ _ => (execCwStat_changes _ _ s).keeps
  | .cwMbx _ _ => (execCwMbx_changes _ _ s).keeps
  | .cwRddesc _ _ => (execCwRddesc_changes _ _ s).keeps
  | .cwWrdesc _ _ => (execCwWrdesc_changes _ _ s).keeps
  | .cwExecute => (execCwExecute_changes s).keeps
  | .cwCancel => (execCwCancel_changes s).keeps
  | .cwRspFlush => (execCwRspFlush_changes s).keeps
  | .cwStatRead _ => (execCwStatRead_changes _ s).keeps
  | .cwRspPop => (execCwRspPop_changes s).keeps
  | .cwRspPush _ => (execCwRspPush_changes _ s).keeps
  | .cwEnableWrite _ => (execCwEnableWrite_changes _ s).keeps
  | .captureSetRelease _ _ => (execCaptureSetRelease_changes _ _ s).keeps
  | .vcoreReturn => (execVcoreReturn_changes s).keeps
  | .vaoLoss => (execVaoLoss_changes s).keeps

theorem step_of_pending_nil {s : State} (h : s.pending = []) : step s = .next s := by
  rw [step, h]

theorem step_of_pending_cons {s : State} {c : Instr} {r : List Instr} (h : s.pending = c :: r) :
    step s = exec c { s with pending := r } := by
  rw [step, h]

/-- Settles O1. -/
theorem stepRunsTheFrontCommand : Obligations.StepRunsTheFrontCommand :=
  fun _ _ _ h => step_of_pending_cons h

/-- Settles O2: an empty queue idles, and each command keeps the queue. -/
theorem queueIsTheWorldOutside : Obligations.QueueIsTheWorldOutside :=
  ⟨fun _ h => step_of_pending_nil h, fun c s t h => (exec_keeps c s t h).pending⟩

/-- The invariant says nothing of the queue. -/
theorem State.Inv.withPending {s : State} (h : s.Inv) (r : List Instr) : State.Inv { s with pending := r } :=
  ⟨h.mem, h.prog, h.store, h.bufs, h.rbw, h.counts, h.rsp, h.hp⟩

/-- Settles O3: at reset every store and queue is empty. -/
theorem invariantAtReset : Obligations.InvariantAtReset := by
  refine ⟨State.reset_mem_wf, ?prog, ?store, ?bufs, ?rbw, rfl, Nat.zero_le _, Nat.zero_le _⟩
  case prog => exact fun g => congrArg (sparseWf 0 <| PeGroup.prog ·) (Bank.at_fill PeGroup.reset g)
  case store => exact fun k => congrArg (sparseWf 0 <| CsCopy.words ·) (Bank.at_fill CsCopy.reset k)
  case bufs => exact fun x => congrArg (sparseWf 0 <| Guardian.bufs ·) (Bank.at_fill Guardian.reset x)
  case rbw => exact fun k => congrArg (sparseWf 0 <| AbCell.rbw ·) (Bank.at_fill AbCell.reset k)

/-- Settles O4: an idle step changes nothing, and a command keeps the invariant of the state it is carried out on. -/
theorem stepKeepsTheInvariant : Obligations.StepKeepsTheInvariant := by
  intro s t hinv hstep
  cases hq : s.pending with
  | nil =>
    rw [step_of_pending_nil hq] at hstep
    exact Host.Outcome.next.inj hstep ▸ hinv
  | cons c r =>
    rw [step_of_pending_cons hq] at hstep
    exact (exec_keeps c _ t hstep).inv (hinv.withPending r)

end Sys2Proof.Machine

namespace Sys2Proof.Machine

/-! The frame of a change, as an equation between states. -/

/-- `s` with the parts of `l` as they are in `t`. -/
def State.withParts (s : State) (l : List Part) (t : State) : State where
  beryl := if l.contains .beryl then t.beryl else s.beryl
  lanes := if l.contains .lanes then t.lanes else s.lanes
  hp := if l.contains .hp then t.hp else s.hp
  xf := if l.contains .xf then t.xf else s.xf
  key := if l.contains .key then t.key else s.key
  power := if l.contains .power then t.power else s.power
  bat := if l.contains .bat then t.bat else s.bat
  chans := if l.contains .chans then t.chans else s.chans
  posts := if l.contains .posts then t.posts else s.posts
  seqs := if l.contains .seqs then t.seqs else s.seqs
  ibufs := if l.contains .ibufs then t.ibufs else s.ibufs
  pool := if l.contains .pool then t.pool else s.pool
  mem := if l.contains .mem then t.mem else s.mem
  engines := if l.contains .engines then t.engines else s.engines
  groups := if l.contains .groups then t.groups else s.groups
  streams := if l.contains .streams then t.streams else s.streams
  crcs := if l.contains .crcs then t.crcs else s.crcs
  bss := if l.contains .bss then t.bss else s.bss
  lcs := if l.contains .lcs then t.lcs else s.lcs
  gds := if l.contains .gds then t.gds else s.gds
  abs_ := if l.contains .abs_ then t.abs_ else s.abs_
  sn := if l.contains .sn then t.sn else s.sn
  ta := if l.contains .ta then t.ta else s.ta
  eic := if l.contains .eic then t.eic else s.eic
  cs := if l.contains .cs then t.cs else s.cs
  sec := if l.contains .sec then t.sec else s.sec
  vault := if l.contains .vault then t.vault else s.vault
  dbg := if l.contains .dbg then t.dbg else s.dbg
  cw := if l.contains .cw then t.cw else s.cw
  pending := s.pending
  free := if l.contains .free then t.free else s.free

/-- What a change outside its list leaves, as the state with the parts of the list. -/
theorem State.Changes.frame {l : List Part} {s t : State} (h : State.Changes l s t) : t = s.withParts l t := by
  have pick (p : Part) {α : Type} (x y : α) (hp : l.contains p = false → y = x) :
      y = if l.contains p then y else x := by
    cases hc : l.contains p with
    | true => rfl
    | false => exact hp hc
  have hq := h.pending
  have key (p : Part) := h.same p
  cases t
  simp only [State.withParts, State.mk.injEq]
  exact ⟨pick _ _ _ (key .beryl), pick _ _ _ (key .lanes), pick _ _ _ (key .hp), pick _ _ _ (key .xf), pick _ _ _ (key .key),
    pick _ _ _ (key .power), pick _ _ _ (key .bat), pick _ _ _ (key .chans), pick _ _ _ (key .posts), pick _ _ _ (key .seqs),
    pick _ _ _ (key .ibufs), pick _ _ _ (key .pool), pick _ _ _ (key .mem), pick _ _ _ (key .engines),
    pick _ _ _ (key .groups), pick _ _ _ (key .streams), pick _ _ _ (key .crcs), pick _ _ _ (key .bss), pick _ _ _ (key .lcs),
    pick _ _ _ (key .gds), pick _ _ _ (key .abs_), pick _ _ _ (key .sn), pick _ _ _ (key .ta), pick _ _ _ (key .eic),
    pick _ _ _ (key .cs), pick _ _ _ (key .sec), pick _ _ _ (key .vault), pick _ _ _ (key .dbg), pick _ _ _ (key .cw), hq,
    pick _ _ _ (key .free)⟩

end Sys2Proof.Machine

namespace Sys2Proof.Machine

/-! R20, R24, R57: a register write of a requester, as its cause of refusal or its effect on the register. -/

theorem exec_registerWrite_permitted {s : State} {r : Req} {a : BitVec 26} {v : W32} (m : memWindow a.toNat = false)
    (h : s.refusal r true a.toNat 4 v.toNat = none) :
    exec (.registerWrite r a v) s = .next (s.regWrite r a.toNat (hwWins a.toNat v r.hw)) := by
  change Host.Outcome.next _ = _
  simp [m, State.busWrite_reg h m]

theorem exec_registerWrite_refused {s : State} {r : Req} {a : BitVec 26} {v : W32} {c : Cause}
    (m : memWindow a.toNat = false) (h : s.refusal r true a.toNat 4 v.toNat = some c) :
    exec (.registerWrite r a v) s = .next (s.refused true a.toNat c) := by
  change Host.Outcome.next _ = _
  simp [m, State.busWrite_refused h]

/-- R22: at a register without W1C and W1S fields nothing of the written word is held back. -/
theorem hwWins_of_w1Bits_zero {a : Nat} (h : w1Bits a = 0) (v hw : W32) : hwWins a v hw = v := by
  rw [hwWins, h, show hw &&& 0 = 0#32 from BitVec.and_zero, BitVec.not_zero, BitVec.and_allOnes]

/-- R496: in a ns in which TD0 runs, the registers kept of before its first write stay those by which the hardware acts. -/
theorem State.snHw_cfg_of_snMark (s : State) (v : W32) (ht : s.ticking = true) :
    (s.snCfg v).snHw.cfg = s.snHw.cfg := by
  have hkept : ∃ w, (s.snCfg v).snWas = some w ∧ w.cfg = s.snHw.cfg := by
    have hwas : (s.snCfg v).snWas = s.snMark.snWas := rfl
    rw [hwas, State.snMark, State.snHw]
    cases hw : s.snWas with
    | some w => exact ⟨w, hw, rfl⟩
    | none => simp_all [State.snWas, State.modSn, State.ticking, State.now]
  obtain ⟨w, hw, hcfg⟩ := hkept
  rw [State.snHw, hw]
  exact hcfg

/-- BT_STAT: LOST and WRAP are cleared where a 1 is written and the hardware does not set them in the same access. -/
theorem State.wrBt_stat (s : State) (w : Master) (v hw : W32) :
    s.wrBt w 0x14 (hwWins 0xA0014 v hw) = { s with beryl := { s.beryl with
      wrap := s.beryl.wrap && !(v.getLsbD 9 && !hw.getLsbD 9 && !(s.beryl.atWrap && s.ticking))
      lost := s.beryl.lost && !(v.getLsbD 8 && !hw.getLsbD 8) } } := by
  have h8 : bit (hwWins 0xA0014 v hw) 8 = (v.getLsbD 8 && !hw.getLsbD 8) := by
    simp [hwWins, bit, show w1Bits 0xA0014 = 0x300 by decide]
  have h9 : bit (hwWins 0xA0014 v hw) 9 = (v.getLsbD 9 && !hw.getLsbD 9) := by
    simp [hwWins, bit, show w1Bits 0xA0014 = 0x300 by decide]
  simp [State.wrBt, within, State.modBeryl, h8, h9, State.ticking]

/-- What a refused write leaves: R528 counts a cause GUARD, R342 marks a refused write of the control stores. -/
theorem State.refused_write_eq (s : State) (a : Nat) (c : Cause) :
    s.refused true a c =
      if c = .guard then { s with power := { s.power with
        guardCnt := if s.power.guardCnt = 0xFFFF then 0xFFFF else s.power.guardCnt + 1 } }
      else if c = .disabled ∧ csOffset a = true then { s with cs := { s.cs with wrErr := true } }
      else s := by
  have hcnt : (if s.power.guardCnt = 0xFFFF then s.power.guardCnt else s.power.guardCnt + 1) =
      if s.power.guardCnt = 0xFFFF then 0xFFFF else s.power.guardCnt + 1 := by
    split_ifs with h
    exacts [h, rfl]
  simp only [State.refused, State.guardRefused, State.modPw, State.csWrErr, State.modCs, hcnt, true_and]

/-- Settles O5: a permitted write is the effect of its register, a refused one what the refusal leaves. -/
theorem registerWrites : Obligations.RegisterWrites := by
  have refused {s : State} {r : Req} {c : Cause} {a v : Nat} (h : s.refusal r true a 4 v = some c) :
      Host.Outcome.next (s.busWrite r a 4 v).2 = (.next (s.refused true a c) : Host.Outcome State Fault Refusal) := by
    rw [State.busWrite_refused h]
  constructor
  · intro s r v
    refine ⟨?xfCfg, ?btLoad, ?btStat, ?snCfg, ?memCfg, ?reserved⟩ <;> intro h <;>
      rw [exec_registerWrite_permitted (by decide) h]
    case btStat => exact congrArg _ (s.wrBt_stat r.who v r.hw)
    all_goals rw [hwWins_of_w1Bits_zero (by decide)]
    case snCfg =>
      obtain ⟨w, hw⟩ := s.snMark_frame
      have hcfg : s.snCfg v = { s with sn := { s.sn with cfg := v &&& 0x70F, was := w } } := by rw [State.snCfg, hw]; rfl
      exact ⟨w, congrArg _ hcfg, fun ht => hcfg ▸ s.snHw_cfg_of_snMark v ht⟩
    all_goals rfl
  · intro s r c
    refine ⟨fun a v m h => exec_registerWrite_refused m h, ?_, ?_, ?_, ?_, ?_, fun a => s.refused_write_eq a c⟩ <;> intros
    all_goals exact refused ‹_›

end Sys2Proof.Machine

namespace Sys2Proof.Machine

/-! R51, R53, R55 to R59: the host target port. -/

theorem State.hostLive_iff (s : State) :
    s.hostLive = true ↔ s.power.vao = true ∧ s.power.vcore = true ∧ s.hp.rstN = true := by
  simp only [State.hostLive, Bool.and_eq_true, and_assoc]

theorem State.hostLive_of_rstN_low {s : State} (h : s.hp.rstN = false) : s.hostLive = false := by
  simp [State.hostLive, h]

theorem State.hostRequest_waits {a : State} (r : HostReq) (hlive : a.hostLive = true)
    (hroom : a.hp.reqs.length + a.hp.resps.length < 16) :
    a.hostRequest r false = { a with hp := { a.hp with reqs := a.hp.reqs ++ [r] } } := by
  simp [State.hostRequest, hlive, hroom]

/-- R51: a request that passes does so behind those that wait. -/
theorem State.hostRequest_passes {a : State} (r : HostReq) (hlive : a.hostLive = true)
    (hroom : a.hp.reqs.length + a.hp.resps.length < 16) :
    a.hostRequest r true =
      (a.hp.reqs.foldl State.hostPass { a with hp := { a.hp with reqs := [] } }).hostPass r := by
  simp [State.hostRequest, hlive, hroom, State.hostPassAll, List.foldl_append]

theorem State.hostRequest_of_not_live {a : State} (r : HostReq) (pass : Bool) (h : a.hostLive = false) :
    a.hostRequest r pass = a := by
  simp [State.hostRequest, h]

theorem State.hostResponse_of_ready {s : State} {x : HostResp} {l : List HostResp} (hlive : s.hostLive = true)
    (h : s.hp.resps = x :: l) : s.hostResponse = { s with hp := { s.hp with resps := l } } := by
  simp [State.hostResponse, hlive, h]

theorem State.hostResponse_of_not_live {s : State} (h : s.hostLive = false) : s.hostResponse = s := by
  simp [State.hostResponse, h]

/-- Time leaves the host port as it was. -/
@[simp] theorem State.advance_hp (s : State) (t : Instant) : (s.advance t).hp = s.hp := by
  obtain ⟨b, h⟩ := s.advance_frame t
  rw [h]

theorem State.hostPass_read {a z : State} {r : HostReq} {v : Nat} (hr : r.write = false)
    (h : a.busRead { who := .host, sec := r.sec, hw := r.hw, coll := r.coll } r.addr.toNat (sizeBytes r.size) = (.ok v, z)) :
    a.hostPass r = z.hostAnswer { tag := r.tag, status := 0, data := BitVec.ofNat 64 v } := by
  simp [State.hostPass, hr, h]

theorem State.hostPass_write {a z : State} {r : HostReq} (hr : r.write = true)
    (h : a.busWrite { who := .host, sec := r.sec, hw := r.hw, coll := r.coll } r.addr.toNat (sizeBytes r.size)
      (r.data.toNat % 256 ^ sizeBytes r.size) = (none, z)) :
    a.hostPass r = z.hostAnswer { tag := r.tag, status := 0, data := 0 } := by
  simp [State.hostPass, hr, h]

theorem hwWins_getLsbD (a : Nat) (v hw : W32) (k : Nat) :
    (hwWins a v hw).getLsbD k = (v.getLsbD k && !(hw.getLsbD k && (w1Bits a).getLsbD k)) := by
  rw [hwWins]
  rcases lt_or_ge k 32 with hk | hk
  · simp [hk]
  · simp [hk]

/-- Settles O6. -/
theorem hostPortCommands : Obligations.HostPortCommands := by
  refine ⟨?request, ?pass, hwWins_getLsbD, ?response, ?targetLow, ?targetHigh, ?initiatorLow, ?initiatorHigh, ?inReset, ?errClear⟩
  case request =>
    intro s t r a hvao hvcore hrst hroom
    have hlive : a.hostLive = true := a.hostLive_iff.2 ⟨hvao, hvcore, hrst⟩
    exact ⟨congrArg _ (State.hostRequest_waits r hlive hroom), congrArg _ (State.hostRequest_passes r hlive hroom)⟩
  case pass =>
    intro a z r q n
    exact ⟨fun v => State.hostPass_read, State.hostPass_write⟩
  case response =>
    intro s x l h hvao hvcore hrst
    exact congrArg _ (State.hostResponse_of_ready (s.hostLive_iff.2 ⟨hvao, hvcore, hrst⟩) h)
  case inReset =>
    intro s t r pass h
    have hlive := State.hostLive_of_rstN_low h
    have hlater : (s.advance t).hostLive = false := State.hostLive_of_rstN_low (by rw [State.advance_hp, h])
    exact ⟨congrArg _ (State.hostRequest_of_not_live r pass hlater), congrArg _ (State.hostResponse_of_not_live hlive)⟩
  case errClear =>
    intro s hup
    change Host.Outcome.next (if s.up then s.hpErrClear else s) = _
    rw [if_pos hup]; rfl
  all_goals exact fun s => rfl

/-- R56, R58: what a refused request of the host port leaves, `z` being the machine after the refusal. -/
theorem State.hostRefuse_eq (a z : State) (r : HostReq) (c : Cause) (hz : z.hp = a.hp) :
    z.hostRefuse a.up r c = { z with hp := { z.hp with
      resps := a.hp.resps ++ [{ tag := r.tag, status := c.resp, data := 0 }],
      err := if c = .reset ∨ a.up = false then a.hp.err
             else some (match a.hp.err with
               | some old => { old with ovf := true }
               | none => { addr := r.addr, tag := r.tag, cause := c, size := r.size, write := r.write, sec := r.sec,
                           ovf := false }) } } := by
  simp only [State.hostRefuse, State.hostAnswer, HostPort.record, hz, Bool.not_eq_true']
  split_ifs
  · simp [hz]
  · cases a.hp.err <;> rfl

theorem State.refused_hp (s : State) (wr : Bool) (a : Nat) (c : Cause) : (s.refused wr a c).hp = s.hp := by
  obtain ⟨p, k, h⟩ := s.refused_frame wr a c
  rw [h]

/-- A refused request is answered with the cause of its refusal. -/
theorem State.hostPass_refused {a : State} {r : HostReq} {c : Cause}
    (h : a.refusal { who := .host, sec := r.sec, hw := r.hw, coll := r.coll } r.write r.addr.toNat (sizeBytes r.size)
      (if r.write then r.data.toNat % 256 ^ sizeBytes r.size else 0) = some c) :
    a.hostPass r = (a.refused r.write r.addr.toNat c).hostRefuse a.up r c := by
  cases hw : r.write with
  | true => rw [hw, if_pos rfl] at h; simp [State.hostPass, hw, State.busWrite_refused h]
  | false => rw [hw, if_neg (by decide)] at h; simp [State.hostPass, hw, State.busRead_refused h]

/-- Settles O7. -/
theorem refusedHostAccess : Obligations.RefusedHostAccess := by
  intro r c n d refuses answer
  have hpass : ∀ a, refuses a → a.hostPass r = answer a := fun a h =>
    (State.hostPass_refused h).trans (State.hostRefuse_eq a _ r c (a.refused_hp ..))
  refine ⟨hpass, ?_⟩
  intro s t a hvao hvcore hrst hreqs hresps h
  have hroom : a.hp.reqs.length + a.hp.resps.length < 16 := by simpa [hreqs] using hresps
  have hone := State.hostRequest_passes r (a.hostLive_iff.2 ⟨hvao, hvcore, hrst⟩) hroom
  have hsame : ({ a with hp := { a.hp with reqs := [] } } : State) = a := by rw [← hreqs]
  rw [hreqs, List.foldl_nil, hsame, hpass a h] at hone
  exact congrArg _ hone

/-- The table of R57 is read from its top. -/
theorem find_cause_cons (b : Bool) (c : Cause) (l : List (Bool × Cause)) :
    (((b, c) :: l).find? fun p => p.1).map (fun p => p.2) = if b then some c else (l.find? fun p => p.1).map fun p => p.2 := by
  cases b <;> rfl

/-- Settles O8: the nested tests of a refusal are the table of R57, read from its top. -/
theorem firstCauseIsReported : Obligations.FirstCauseIsReported := by
  intro s q wr a n v
  simp only [find_cause_cons, List.find?_nil, Option.map_none, State.refusal, Bool.and_eq_true, decide_eq_true_eq, and_assoc]

end Sys2Proof.Machine

namespace Sys2Proof.Machine

/-! R60 to R73: the transfer engine. -/

theorem exec_xfEnable {s : State} (h : s.up = true) : exec .xfEnable s = .next s.xfEnable := congrArg _ (if_pos h)
theorem exec_xfGo {s : State} (dir : Bool) (h : s.up = true) : exec (.xfGo dir) s = .next (s.xfGo dir) := congrArg _ (if_pos h)
theorem exec_xfDoneClear {s : State} (h : s.up = true) : exec .xfDoneClear s = .next s.xfDoneClear := congrArg _ (if_pos h)
theorem exec_xfDisable {s : State} (abort : Bool) (h : s.up = true) (hen : s.xf.en = true) :
    exec (.xfDisable abort) s = .next (s.xfDisable abort) := congrArg _ (if_pos ⟨h, hen⟩)

/-- R64: an engine in BUSY or DRAINING with a burst outstanding has not ended. -/
theorem Xfer.settle_of_bursts {x : Xfer} (h : x.bursts ≠ []) : x.settle = x := by
  simp only [Xfer.settle, List.isEmpty_iff, h, false_and, if_false]
  cases x.st <;> rfl

/-- R64: the last response of the last burst ends the transfer. -/
theorem Xfer.settle_of_busy_done {x : Xfer} (hst : x.st = .busy) (hb : x.bursts = []) (hnext : x.llen ≤ x.next) :
    x.settle = x.finish .idle x.cause := by
  simp [Xfer.settle, hst, hb, hnext]

/-- R62: the words that a burst fetches are sent behind the beats that wait. -/
theorem State.xfIssue_eq {a : State} {tag : Fin 8} {z : State} {l : List W64} (hup : a.up = true) (hrst : a.hp.hiRstN = true)
    (hst : a.xf.st = .busy ∨ a.xf.st = .draining) (hgo : a.xf.stopped = false) (hleft : a.xf.next < a.xf.llen)
    (hroom : a.xf.bursts.length + a.xf.deadTags.length < a.xf.maxOut) (htag : tag ∉ a.xf.bursts.map Burst.tag)
    (hdead : tag ∉ a.xf.deadTags)
    (hf : (if a.xf.ldir then a.xfFetch (a.xf.lblk + a.xf.next) a.xf.beats else (some [], a)) = (some l, z)) :
    a.xfIssue tag = z.modXf fun x =>
      { x with next := x.next + 8 * a.xf.beats, wd := x.wd ++ wdBeats tag l,
               bursts := x.bursts ++ [{ tag := tag, blk := x.lblk + x.next, sys := x.lsys + x.next, beats := a.xf.beats,
                                        got := 0, issued := a.now }] } := by
  rw [State.xfIssue]
  dsimp only
  rw [if_pos (by simp_all), hf]

theorem State.xfRead_xf (s : State) (a : Nat) : (s.xfRead a).2.xf = s.xf := by
  unfold State.xfRead
  split
  · rfl
  · obtain ⟨m, k, h, -⟩ := s.memLoad_frame 17 a 8
    rw [h]

theorem State.xfFetch_xf (s : State) (a k : Nat) : (s.xfFetch a k).2.xf = s.xf := by
  induction k generalizing s a with
  | zero => rfl
  | succ k ih =>
    have hread := s.xfRead_xf a
    unfold State.xfFetch
    split <;> simp_all

theorem Xfer.hiWd_of_beats {x : Xfer} {tag : Fin 8} {d : W64} {l : List W64} (h : x.wd = wdBeats tag (d :: l)) :
    x.hiWd = some (d, l.isEmpty) := by
  rw [Xfer.hiWd, h]; rfl

@[simp] theorem State.memWrite_xf (s : State) (r a n v : Nat) : (s.memWrite r a n v).xf = s.xf := rfl

theorem State.modXf_modXf (s : State) (f g : Xfer → Xfer) : (s.modXf f).modXf g = s.modXf fun x => g (f x) := rfl

theorem State.modXf_congr {s : State} {f g : Xfer → Xfer} (h : f s.xf = g s.xf) : s.modXf f = s.modXf g := by
  rw [State.modXf, State.modXf, h]

theorem State.xfStore_permitted {s : State} {a : Nat} {v : W64} (h : s.refusal xfReq true a 8 v.toNat = none) :
    s.xfStore a v = s.memWrite 17 a 8 v.toNat := by
  rw [State.xfStore, h]

/-- R62, R66: a beat of read data of the one burst outstanding is written to the block, and counted. -/
theorem State.xfResponse_word {s : State} {b : Burst} {data : W64} (last : Bool) (hup : s.up = true)
    (hrst : s.hp.hiRstN = true) (hdir : s.xf.ldir = false) (hb : s.xf.bursts = [b]) (hdead : b.tag ∉ s.xf.deadTags)
    (href : s.refusal xfReq true (b.blk + 8 * b.got) 8 data.toNat = none) :
    s.xfResponse b.tag 0 data last = (s.memWrite 17 (b.blk + 8 * b.got) 8 data.toNat).modXf fun _ => Xfer.settle
      { s.xf with bursts := if last then [] else [{ b with got := b.got + 1 }], remain := s.xf.remain - 8,
                  wd := if last then wdAfter b.tag s.xf.wd else s.xf.wd } := by
  have hstore (f : Xfer → Xfer) : (s.modXf f).xfStore (b.blk + 8 * b.got) data =
      (s.memWrite 17 (b.blk + 8 * b.got) 8 data.toNat).modXf f := State.xfStore_permitted href
  cases last with
  | false =>
    simp [State.xfResponse, hup, hrst, hdir, hb, hdead, State.xfStore_permitted href]
    exact State.modXf_congr (by simp [hb, hdir])
  | true =>
    simp [State.xfResponse, hup, hrst, hdir, hb, hdead, hstore, State.modXf_modXf]
    exact State.modXf_congr (by simp [hb, hdir])

/-- Settles O9. -/
theorem transferEngine : Obligations.TransferEngine := by
  refine ⟨?control, ?beats, ?issue, fun x tag d l => Xfer.hiWd_of_beats, ?response, ?timeout⟩
  case control =>
    intro s hup
    refine ⟨?enable, ?go, ?param, ?goIgnored, ?disableIdle, ?disableBusy, ?disableError, ?leaveError, ?doneClear⟩
    case enable => intro h; rw [exec_xfEnable hup]; simp [State.xfEnable, State.modXf, h]
    case go => intro dir h hv; rw [exec_xfGo dir hup]; simp [State.xfGo, State.modXf, h, hv]
    case param => intro dir h hv; rw [exec_xfGo dir hup]; simp [State.xfGo, State.modXf, h, hv]
    case goIgnored => intro dir h; rw [exec_xfGo dir hup]; simp [State.xfGo, State.modXf, h]
    case disableIdle => intro b h hen; rw [exec_xfDisable b hup hen]; simp [State.xfDisable, State.modXf, h]
    case disableBusy =>
      intro b h hen hb
      rw [exec_xfDisable b hup hen]
      simp only [State.xfDisable, State.modXf, h]
      rw [Xfer.settle_of_bursts]
      exact hb
    case disableError =>
      intro b h hen; rw [exec_xfDisable b hup hen]; simp [State.xfDisable, State.modXf, h, Xfer.leaveError]
    case leaveError => intro h; rw [exec_xfDoneClear hup]; simp [State.xfDoneClear, State.modXf, h, Xfer.leaveError]
    case doneClear => intro h; rw [exec_xfDoneClear hup]; simp [State.xfDoneClear, State.modXf, h]
  case beats =>
    intro s k hup hrst
    exact if_pos ⟨hup, hrst⟩
  case issue =>
    intro s t tag taken a x hup hrst hst hgo hleft hroom htag hdead sent
    constructor
    · intro hdir
      exact congrArg _ (State.xfIssue_eq hup hrst hst hgo hleft hroom htag hdead (z := a) (if_neg (by simpa using hdir)))
    · intro z l hdir hf
      have hz : z.xf = x := (congrArg (State.xf ·.2) hf).symm.trans (a.xfFetch_xf ..)
      have := State.xfIssue_eq hup hrst hst hgo hleft hroom htag hdead ((if_pos hdir).trans hf)
      rw [State.modXf, hz] at this
      refine congrArg _ (this.trans ?_)
      simp only [sent, hz]
      rfl
  case response =>
    intro s0 b data taken s hup hrst hst hdir hb hdead href z
    constructor
    · refine congrArg Host.Outcome.next ((State.xfResponse_word false hup hrst hdir hb hdead href).trans ?_)
      rw [Xfer.settle_of_bursts]
      exacts [rfl, List.cons_ne_nil _ _]
    · intro hend
      refine congrArg Host.Outcome.next ((State.xfResponse_word true hup hrst hdir hb hdead href).trans ?_)
      rw [Xfer.settle_of_busy_done]
      exacts [rfl, hst, rfl, hend]
  case timeout =>
    intro s t b a x lim hup htick hst hb hlim hlate
    refine congrArg Host.Outcome.next (?_ : a.xfTimeout = _)
    simp only [lim] at hlim hlate ⊢
    simp [State.xfTimeout, State.modXf, Xfer.fail, Xfer.finish, State.now, hup, htick, x, hst, hb, hlim, hlate]

theorem State.advance_of_run {s : State} {t : Instant} (h : s.beryl.st = .run) (ht : notBefore t.ns s.beryl.td0 = true) :
    s.advance t = { s with beryl := { s.beryl with
      td0 := t.ns, q := t.q, wraps := s.beryl.wraps + (if t.ns < s.beryl.td0 then 1 else 0),
      atWrap := decide (t.ns = 0) && (decide (t.ns < s.beryl.td0) || s.beryl.atWrap),
      wrap := s.beryl.wrap || decide (t.ns < s.beryl.td0) } } := by
  simp [State.advance, h, ht, b2n]

theorem State.advance_of_not_run {s : State} (t : Instant) (h : s.beryl.st ≠ .run) : s.advance t = s := if_neg fun c => h c.1

theorem State.advance_of_before {s : State} {t : Instant} (h : notBefore t.ns s.beryl.td0 = false) : s.advance t = s :=
  if_neg fun c => by simp [h] at c

/-- Settles O11. -/
theorem timeAdvances : Obligations.TimeAdvances := by
  refine ⟨fun s t => State.advance_of_run, fun s t => State.advance_of_not_run t, fun s t => State.advance_of_before, ?_, ?_⟩
  · intro s hrun hne hnb
    have hlt : (0 : W64) < s.beryl.td0 := (BitVec.pos_iff_ne_zero _).2 hne
    have hwrap : s.td0Wrap = s.advance { ns := 0, q := 0 } := if_pos ⟨decide_eq_true hrun, hne, hnb⟩
    refine congrArg _ (hwrap.trans ?_)
    rw [State.advance_of_run hrun hnb]
    simp only [hlt, if_true, decide_true, Bool.true_or, Bool.true_and, Bool.or_true]
  · intro s h
    exact congrArg _ (if_neg fun c => c.2.1 h)

end Sys2Proof.Machine

namespace Sys2Proof.Machine

/-! R90 to R93, R113: the transitions of Beryl. -/

/-- From `s` to `t` no lane leaves or enters HOLD, and no channel loses its breach, leaves OFF for it or changes its class. -/
structure State.HoldKept (s t : State) : Prop where
  held : ∀ n, (t.lanes.at n).held = (s.lanes.at n).held
  det : ∀ c, (t.chans.at c).det = (s.chans.at c).det
  live : ∀ c, (s.chans.at c).st ≠ .off → (t.chans.at c).st ≠ .off
  breach : ∀ c, (s.chans.at c).breach ≠ none → (t.chans.at c).breach ≠ none

theorem State.HoldKept.refl (s : State) : s.HoldKept s := ⟨fun _ => rfl, fun _ => rfl, fun _ => id, fun _ => id⟩

theorem State.HoldKept.trans {s z t : State} (h : s.HoldKept z) (k : z.HoldKept t) : s.HoldKept t :=
  ⟨fun n => (k.held n).trans (h.held n), fun c => (k.det c).trans (h.det c), fun c => k.live c ∘ h.live c,
    fun c => k.breach c ∘ h.breach c⟩

theorem State.HoldKept.of_eq {s t : State} (hl : t.lanes = s.lanes) (hc : t.chans = s.chans) : s.HoldKept t :=
  ⟨fun n => by rw [hl], fun c => by rw [hc], fun c => by rw [hc]; exact id, fun c => by rw [hc]; exact id⟩

theorem State.HoldKept.foldl {α : Type} {f : State → α → State} (h : ∀ (z : State) (x : α), z.HoldKept (f z x)) (l : List α) (s : State) :
    s.HoldKept (l.foldl f s) :=
  List.foldlRecOn l f (.refl s) fun _ hz x _ => hz.trans (h _ x)

/-- A change of one lane that keeps HOLD. -/
theorem State.HoldKept.modLane {s : State} {n : Fin 256} {f : Lane → Lane} (hf : (f (s.lanes.at n)).held = (s.lanes.at n).held) :
    s.HoldKept (s.modLane n f) := by
  refine ⟨fun m => ?_, fun _ => rfl, fun _ => id, fun _ => id⟩
  rw [State.modLane_lanes, Bank.at_mod]
  split_ifs with h
  · rw [h, hf]
  · rfl

theorem State.HoldKept.setLane {s : State} {n : Fin 256} {l : Lane} (h : l.held = (s.lanes.at n).held) :
    s.HoldKept (s.modLane n fun _ => l) := .modLane h

theorem State.HoldKept.modEng (s : State) (n : Fin 64) (f : Engine → Engine) : s.HoldKept (s.modEng n f) := .of_eq rfl rfl

theorem Channel.breached_breach (x : Channel) (c : BreachCond) (now : W64) : (x.breached c now).breach ≠ none := by
  unfold Channel.breached
  split
  · exact Option.some_ne_none _
  · next h => split_ifs <;> simp [h]

theorem Channel.breached_det (x : Channel) (c : BreachCond) (now : W64) : (x.breached c now).det = x.det := by
  unfold Channel.breached
  split
  · rfl
  · split_ifs <;> rfl

theorem Channel.breached_st (x : Channel) (c : BreachCond) (now : W64) : (x.breached c now).st = x.st := by
  unfold Channel.breached
  split
  · rfl
  · split_ifs <;> rfl

/-- R351: a fault leaves a channel's class and breach, and never turns it off. -/
theorem State.faultChan_holdKept (s : State) (c : Fin 256) (f : FCause) : s.HoldKept (s.faultChan c f) := by
  have hset (x : Channel) (hd : x.det = (s.chans.at c).det) (hb : x.breach = (s.chans.at c).breach)
      (hl : (s.chans.at c).st ≠ .off → x.st ≠ .off) (q : Bank Seq 16) :
      s.HoldKept { s with chans := s.chans.upd c x, seqs := q } := by
    have hat (d : Fin 256) : (s.chans.upd c x).at d = if d = c then x else s.chans.at d := Bank.at_upd _ _ _ _
    refine ⟨fun _ => rfl, fun d => ?det, fun d => ?live, fun d => ?breach⟩
    all_goals
      dsimp only
      rw [hat]
    case det =>
      split_ifs with h
      exacts [h ▸ hd, rfl]
    case live =>
      split_ifs with h
      exacts [h ▸ hl, id]
    case breach =>
      split_ifs with h
      exacts [h ▸ hb ▸ id, id]
  unfold State.faultChan
  dsimp only
  split
  case h_6 => exact .refl s
  case h_5 h =>
    refine hset _ ?_ ?_ ?_ _
    exacts [rfl, rfl, id]
  all_goals
    have hfault (q : Bank Seq 16) := hset { s.chans.at c with st := .fault, faultF := true, fcause := f } rfl rfl (fun _ => nofun) q
    split_ifs
    · exact hfault _
    · exact hfault _

theorem State.breach_holdKept (s : State) (c : Fin 256) (b : BreachCond) : s.HoldKept (s.breach c b) := by
  unfold State.breach
  dsimp only
  split_ifs
  · exact .refl s
  · refine State.HoldKept.trans ?_ (State.faultChan_holdKept _ _ _)
    refine ⟨fun _ => rfl, fun d => ?_, fun d => ?_, fun d => ?_⟩ <;> dsimp only <;> rw [Bank.at_upd] <;> split_ifs with h
    · rw [h, Channel.breached_det]
    · rfl
    · rw [h, Channel.breached_st]; exact id
    · exact id
    · exact fun _ => Channel.breached_breach _ _ _
    · exact id

/-- R133: a breach of a channel outside OFF is recorded. -/
theorem State.breach_recorded {s : State} {c : Fin 256} (b : BreachCond) (h : (s.chans.at c).st ≠ .off) :
    ((s.breach c b).chans.at c).breach ≠ none := by
  unfold State.breach
  dsimp only
  rw [if_neg h]
  refine (State.faultChan_holdKept _ _ _).breach c ?_
  rw [Bank.at_upd_self]
  exact Channel.breached_breach _ _ _

theorem State.breachOf_holdKept (s : State) (o : Option (Fin 256)) (b : BreachCond) : s.HoldKept (s.breachOf o b) := by
  cases o with
  | none => exact .refl s
  | some c => exact s.breach_holdKept c b

theorem State.laneFault_holdKept (s : State) (n : Fin 256) (covf : Bool) : s.HoldKept (s.laneFault n covf) :=
  (State.HoldKept.modLane rfl).trans (State.breachOf_holdKept _ _ _)

theorem State.laneFaultDue_holdKept (s : State) (n : Fin 256) : s.HoldKept (s.laneFaultDue n) := by
  unfold State.laneFaultDue
  dsimp only
  split_ifs
  · exact (State.HoldKept.modLane rfl).trans (State.breachOf_holdKept _ _ _)
  · exact (State.HoldKept.modLane rfl).trans (State.laneFault_holdKept _ _ _)
  · exact .refl s

theorem State.enqLane_holdKept (s : State) (n : Fin 256) (op : ActOp) (v : Bool) (td : Fin 8) (ns : BitVec 40) :
    s.HoldKept (s.enqLane n op v td ns).1 := by
  refine (s.laneFaultDue_holdKept n).trans ?_
  unfold State.enqLane
  dsimp only
  generalize s.laneFaultDue n = z
  split
  · exact .refl z
  split
  · exact .refl z
  split
  · exact .refl z
  · apply State.HoldKept.setLane
    split
    · cases z.lanePolicy n <;> simp only [Lane.countLate]
    · simp only

theorem State.enqAll_holdKept (n : Fin 64) (w : Bool) (td : Fin 8) (ns : BitVec 40) (op : ActOp) (l : List (Nat × Bool))
    (s : State) : s.HoldKept (s.enqAll n w td ns op l).1 := by
  induction l generalizing s with
  | nil => exact .refl s
  | cons x r ih =>
    obtain ⟨i, v⟩ := x
    have henq := s.enqLane_holdKept (engLane n i) op v td ns
    unfold State.enqAll
    split
    · exact ih s
    split
    · exact .refl s
    split
    · next hq => rw [hq] at henq; exact (henq.trans (.modEng _ _ _)).trans (ih _)
    · split
      all_goals next hr => have := ih s; rwa [hr] at this
    · next hq => rw [hq] at henq; exact henq.trans (ih _)

theorem State.peNext_holdKept (s : State) (n : Fin 64) (t : Option Nat) : s.HoldKept (s.peNext n t) := by
  have hsame : (s.peNext n t).lanes = s.lanes ∧ (s.peNext n t).chans = s.chans := by
    unfold State.peNext
    dsimp only
    split
    · split <;> exact ⟨rfl, rfl⟩
    · exact ⟨rfl, rfl⟩
  exact .of_eq hsame.1 hsame.2

theorem State.peDone_holdKept (s : State) (n : Fin 64) (t : Option Nat) : s.HoldKept (s.peDone n t) := by
  refine State.HoldKept.trans ?_ (.modEng _ _ _)
  split
  · exact s.peNext_holdKept n t
  · exact .modEng _ _ _

theorem State.afterEnq_holdKept {s : State} {r : State × StepRes} {n : Fin 64} {k : State → State} (hr : s.HoldKept r.1)
    (hk : ∀ z : State, z.HoldKept (k z)) : s.HoldKept (State.afterEnq r n k) := by
  obtain ⟨z, res⟩ := r
  cases res
  case done => exact (hr.trans (.modEng _ _ _)).trans (hk _)
  all_goals exact hr.trans (.modEng _ _ _)

theorem State.peStep_holdKept (s : State) (n : Fin 64) (op : Nat) {f : State → Engine → W32 → State}
    (hf : ∀ (z : State) e w, z.HoldKept (f z e w)) : s.HoldKept (s.peStep n op f) := by
  unfold State.peStep
  dsimp only
  split
  · split
    · split
      · exact (State.HoldKept.modEng _ _ _).trans (State.peNext_holdKept _ _ _)
      · exact (State.HoldKept.modEng _ _ _).trans (hf _ _ _)
    · exact hf _ _ _
  · exact .refl s

/-- R210: what the engines' waiting entries become as Beryl is lost. -/
theorem State.peUnheld_holdKept (s : State) (n : Fin 64) : s.HoldKept (s.peUnheld n) := by
  have hdone (f : Engine → Engine) (z : State) : z.HoldKept ((z.modEng n f).peDone n) :=
    (State.HoldKept.modEng _ _ _).trans (State.peDone_holdKept _ _ _)
  unfold State.peUnheld
  split
  · split
    · exact State.peStep_holdKept _ _ _ fun z e _ => State.afterEnq_holdKept (State.enqAll_holdKept ..) (hdone _)
    · exact State.peStep_holdKept _ _ _ fun z e _ => State.afterEnq_holdKept (State.enqAll_holdKept ..) (hdone _)
  · exact .refl s

theorem mem_allChans (c : Fin 256) : c ∈ allChans := List.mem_ofFn.2 ⟨c, rfl⟩

/-- R133: the breach that the loss of Beryl is to a deterministic channel outside OFF. -/
def State.berylBreach (s : State) (c : Fin 256) : State :=
  if (s.chans.at c).det ∧ (s.chans.at c).st ≠ .off then s.breach c .beryl else s

theorem State.berylBreach_holdKept (s : State) (c : Fin 256) : s.HoldKept (s.berylBreach c) := by
  unfold State.berylBreach
  split
  · exact s.breach_holdKept c _
  · exact .refl s

theorem State.berylBreach_changes (s : State) (c : Fin 256) : State.Changes [.chans, .seqs] s (s.berylBreach c) := by
  unfold State.berylBreach
  split
  · exact s.breach_changes c _
  · exact .refl _ s

theorem State.breach_chans_ne (s : State) {c d : Fin 256} (b : BreachCond) (h : d ≠ c) :
    (s.breach c b).chans.at d = s.chans.at d := by
  unfold State.breach State.faultChan
  dsimp only
  split
  · rfl
  · split <;> (try split) <;> simp [h]

/-- A channel that is not deterministic, or is OFF, is left as it was. -/
theorem State.berylBreach_other (s : State) (c d : Fin 256) (h : (s.chans.at d).det = false ∨ (s.chans.at d).st = .off) :
    (s.berylBreach c).chans.at d = s.chans.at d := by
  unfold State.berylBreach
  split
  · next hc => exact s.breach_chans_ne _ fun e => by subst e; rcases h with h | h <;> simp_all
  · rfl

theorem State.foldl_berylBreach_other (l : List (Fin 256)) (s : State) (d : Fin 256)
    (h : (s.chans.at d).det = false ∨ (s.chans.at d).st = .off) :
    (l.foldl State.berylBreach s).chans.at d = s.chans.at d := by
  refine List.foldlRecOn (motive := fun z : State => z.chans.at d = s.chans.at d) l _ rfl fun z hz c _ => ?_
  rw [z.berylBreach_other c d (hz ▸ h), hz]

/-- Every deterministic channel outside OFF among those visited has its breach. -/
theorem State.foldl_berylBreach_recorded (l : List (Fin 256)) (s : State) (c : Fin 256) (hc : c ∈ l)
    (hdet : (s.chans.at c).det = true) (hst : (s.chans.at c).st ≠ .off) :
    ((l.foldl State.berylBreach s).chans.at c).breach ≠ none := by
  induction l generalizing s with
  | nil => exact absurd hc List.not_mem_nil
  | cons d l ih =>
    have hd := s.berylBreach_holdKept d
    rcases List.mem_cons.1 hc with rfl | hc
    · refine (State.HoldKept.foldl State.berylBreach_holdKept l _).breach c ?_
      rw [State.berylBreach, if_pos ⟨hdet, hst⟩]
      exact State.breach_recorded _ hst
    · exact ih _ hc ((hd.det c).trans hdet) (hd.live c hst)

/-- The block as Beryl leaves RUN, before the entries that wait and the breaches are dealt with. -/
def State.berylHeld (s : State) : State :=
  let y := s.gdSettled.abSettled.noteQueues
  { y with beryl := { y.beryl with st := .lost, lost := true, bref := false },
           lanes := y.lanes.map fun l : Lane => { l with held := true }, gds := y.gds.map Guardian.hold,
           abs_ := y.abs_.map AbCell.hold }

theorem State.berylLost_eq (s : State) :
    s.berylLost = allChans.foldl State.berylBreach (allEngines.foldl State.peUnheld s.berylHeld) := rfl

theorem State.berylHeld_eq (s : State) : ∃ g a, s.berylHeld = { s with
    beryl := { s.beryl with st := .lost, lost := true, bref := false },
    lanes := s.lanes.map fun l : Lane => { l with held := true }, gds := g, abs_ := a } := by
  have h := (((s.gdSettled_changes).mono (m := [.gds, .abs_]) rfl).step (State.abSettled_changes _) rfl).step
    (State.noteQueues_changes _) rfl
  refine ⟨s.berylHeld.gds, s.berylHeld.abs_, ?_⟩
  have hframe := h.frame
  generalize hy : s.gdSettled.abSettled.noteQueues = y at hframe
  rw [State.berylHeld, hy, hframe]
  rfl

/-- What the entries that wait before the lanes, and then the breaches, leave of the block. -/
theorem State.berylLost_split (s : State) : ∃ y, State.Changes [.lanes, .chans, .seqs, .engines] s.berylHeld y ∧
    s.berylHeld.HoldKept y ∧ ((∀ e, (s.engines.at e).stallOn ≠ .lane) → y = s.berylHeld) ∧
    s.berylLost = allChans.foldl State.berylBreach y := by
  refine ⟨allEngines.foldl State.peUnheld s.berylHeld, .foldl (.refl _ _) State.peUnheld_changes,
    .foldl State.peUnheld_holdKept _ _, fun hlane => ?_, s.berylLost_eq⟩
  refine List.foldlRecOn (motive := fun z => z = s.berylHeld) _ _ rfl fun z hz e _ => ?_
  obtain ⟨g, b, hheld⟩ := s.berylHeld_eq
  subst hz
  refine if_neg ?_
  rw [hheld]
  exact hlane e

/-- What the loss of Beryl leaves: TD0 frozen, the lanes in HOLD, and a breach of every deterministic channel in use. -/
theorem State.berylLost_spec (a : State) :
    a.berylLost.beryl = { a.beryl with st := .lost, lost := true, bref := false } ∧
    (∀ c : Fin 256, (a.chans.at c).det = true → (a.chans.at c).st ≠ .off → (a.berylLost.chans.at c).breach ≠ none) ∧
    (∀ n, (a.berylLost.lanes.at n).held = true) ∧
    ((∀ e, (a.engines.at e).stallOn ≠ .lane) → a.berylLost.engines = a.engines ∧
      (∀ c : Fin 256, (a.chans.at c).det = false ∨ (a.chans.at c).st = .off → a.berylLost.chans.at c = a.chans.at c) ∧
      (∀ n, a.berylLost.lanes.at n = { a.lanes.at n with held := true })) := by
  obtain ⟨g, b, hheld⟩ := a.berylHeld_eq
  obtain ⟨y, hengc, heng, hnone, hlost⟩ := a.berylLost_split
  have hchk : y.HoldKept (allChans.foldl State.berylBreach y) := .foldl State.berylBreach_holdKept _ _
  have hchc : State.Changes [.chans, .seqs] y (allChans.foldl State.berylBreach y) :=
    .foldl (.refl _ _) State.berylBreach_changes
  rw [← hlost] at hchk hchc
  have hc (c : Fin 256) : a.berylHeld.chans.at c = a.chans.at c := by rw [hheld]
  refine ⟨?_, fun c hdet hst => ?_, fun n => ?_, fun hlane => ?_⟩
  · rw [hchc.same .beryl rfl, hengc.same .beryl rfl, hheld]
  · rw [← hc c] at hdet hst
    rw [hlost]
    exact State.foldl_berylBreach_recorded _ _ c (mem_allChans c) ((heng.det c).trans hdet) (heng.live c hst)
  · rw [hchk.held, heng.held, hheld, Bank.at_map]
  · obtain rfl := hnone hlane
    refine ⟨?_, fun c h => ?_, fun n => ?_⟩
    · rw [hchc.same .engines rfl, hheld]
    · rw [← hc c] at h ⊢
      rw [hlost, State.foldl_berylBreach_other _ _ _ h]
    · rw [hchc.same .lanes rfl, hheld, Bank.at_map]

theorem State.berylLost_frame (a : State) : a.berylLost = { a with
    beryl := a.berylLost.beryl, lanes := a.berylLost.lanes, chans := a.berylLost.chans, seqs := a.berylLost.seqs,
    engines := a.berylLost.engines, gds := a.berylLost.gds, abs_ := a.berylLost.abs_ } := by
  have frame {z : State} (h : State.Changes [.beryl, .lanes, .chans, .seqs, .engines, .gds, .abs_] a z) : z = { a with
    beryl := z.beryl, lanes := z.lanes, chans := z.chans, seqs := z.seqs, engines := z.engines, gds := z.gds,
    abs_ := z.abs_ } := h.frame
  exact frame a.berylLost_changes

/-- The block as Beryl enters RUN, before the units return. -/
def State.berylRunning (s : State) : State :=
  { s with
    power := { s.power with masterWas := none }
    vault := { s.vault with inputs := s.vault.inputs.map fun x : TamperIn => { x with since := none } }
    beryl := { s.beryl with st := .run, snapAt := none }, ta := { s.ta with snapAt := none } }

/-- The return of the units to RUN touches the lanes with their owners, and both bus units. -/
theorem State.enterRun_changes_running (s : State) :
    State.Changes [.lanes, .chans, .seqs, .gds, .abs_] s.berylRunning s.enterRun := by
  unfold State.enterRun
  extract_lets _ _ s0 s1 s2 s3 s4
  have h2 : State.Changes [.lanes, .chans, .seqs, .gds, .abs_] s.berylRunning s2 := (State.Changes.refl _ _).lanes rfl
  clear_value s2
  have h3 : State.Changes [.lanes, .chans, .seqs, .gds, .abs_] s.berylRunning s3 := by
    refine .foldl h2 fun z n => ?_
    split
    · exact (State.laneReturn_changes _ _ _).mono rfl
    · exact .refl _ _
  clear_value s3
  have h4 : State.Changes [.lanes, .chans, .seqs, .gds, .abs_] s.berylRunning s4 :=
    (h3.step (State.gdReturn_changes _ _) rfl).step (State.gdReturn_changes _ _) rfl
  clear_value s4
  exact h4.abs_ rfl fun x h => by simpa using h

theorem State.enterRun_spec (s : State) :
    s.enterRun.beryl = { s.beryl with st := .run, snapAt := none } ∧
    s.enterRun.power = { s.power with masterWas := none } ∧
    (∀ k, s.enterRun.vault.inputs.at k = { s.vault.inputs.at k with since := none }) ∧
    s.enterRun = { s with
      beryl := s.enterRun.beryl, ta := s.enterRun.ta, lanes := s.enterRun.lanes, chans := s.enterRun.chans,
      seqs := s.enterRun.seqs, gds := s.enterRun.gds, abs_ := s.enterRun.abs_, power := s.enterRun.power,
      vault := { s.vault with inputs := s.enterRun.vault.inputs } } := by
  have h := s.enterRun_changes_running
  have hb := h.same .beryl rfl
  have hp := h.same .power rfl
  have hv := h.same .vault rfl
  have ht := h.same .ta rfl
  refine ⟨hb, hp, fun k => ?_, h.frame.trans ?_⟩
  · rw [hv]; exact Bank.at_map _ _ k
  · rw [hb, hp, hv, ht]
    rfl

/-- R92: a load of TD0 in READY moves with it what is measured in TD0. -/
theorem State.btLoad_spec {s : State} (hst : s.beryl.st = .ready) :
    let jump := s.beryl.load - s.beryl.td0
    s.btLoad.beryl.td0 = s.beryl.load ∧ s.btLoad.beryl.wraps = s.beryl.wraps ∧ s.btLoad.beryl.st = .ready ∧
    s.btLoad.power = { s.power with sokSince := s.power.sokSince + jump } ∧
    s.btLoad.key = { s.key with since := s.key.since + jump } ∧
    s.btLoad.xf = { s.xf with bursts := s.xf.bursts.map fun b : Burst => { b with issued := b.issued + jump } } ∧
    s.btLoad.dbg = { s.dbg with freshNs := none } := by
  intro jump
  unfold State.btLoad
  rw [if_pos hst]
  extract_lets b jump' s1 s2 _ _ _ _ s3 s4
  have h0 : State.Changes [.gds, .abs_, .engines] s (allEngines.foldl (fun z e => z.noteMark e) s.noteQueues) :=
    .foldl (s.noteQueues_changes.mono rfl) fun z e => (z.noteMark_changes e).mono rfl
  have h1 : State.Changes [.beryl, .gds, .abs_, .engines] s s1 := (h0.mono rfl).step (State.modBeryl_changes _ _) rfl
  have hb1 : s1.beryl.td0 = s.beryl.load ∧ s1.beryl.wraps = s.beryl.wraps ∧ s1.beryl.st = s.beryl.st := by
    have hb : State.beryl _ = s.beryl := h0.same .beryl rfl
    exact ⟨(congrArg Beryl.load hb :), (congrArg Beryl.wraps hb :), (congrArg Beryl.st hb :)⟩
  clear_value s1
  have h2 : State.Changes [.lanes] s1 s2 := State.lanesAfterLoad_changes _ _ _
  clear_value s2
  have h4 : State.Changes [.ta, .sn] s3 s4 :=
    ((State.taLoaded_changes _ _).mono rfl).step (State.modSn_changes _ _ fun _ h => h) rfl
  clear_value s4
  have h5 : State.Changes [.gds, .ta, .sn] s3 ([0, 1, 2, 3, 4, 5, 6, 7].foldl (init := s4) fun z d =>
      (z.gdsStep d ((b.doms.at d).nsAt b.g) ((z.beryl.doms.at d).nsAt z.beryl.g)).acsPassed d ((b.doms.at d).nsAt b.g)
        ((z.beryl.doms.at d).nsAt z.beryl.g)) :=
    .foldl (h4.mono rfl) fun z d => ((State.gdsStep_changes _ _ _ _).mono rfl).step (State.acsPassed_changes _ _ _ _) rfl
  obtain ⟨htd0, hwraps, hst1⟩ := hb1
  have hb : s3.beryl = s1.beryl := h2.same .beryl rfl
  rw [h5.same .beryl rfl, h5.same .power rfl, h5.same .key rfl, h5.same .xf rfl, h5.same .dbg rfl, hb]
  have hp : s2.power = s.power := Eq.trans (h2.same .power rfl) (h1.same .power rfl)
  have hk : s2.key = s.key := Eq.trans (h2.same .key rfl) (h1.same .key rfl)
  have hx : s2.xf = s.xf := Eq.trans (h2.same .xf rfl) (h1.same .xf rfl)
  have hd : s2.dbg = s.dbg := Eq.trans (h2.same .dbg rfl) (h1.same .dbg rfl)
  exact ⟨htd0, hwraps, hst1.trans hst,
    (congrArg (fun p : Power => { p with sokSince := p.sokSince + jump }) hp :),
    (congrArg (fun k : KeyPort => { k with since := k.since + jump }) hk :),
    (congrArg (fun x : Xfer => { x with bursts := x.bursts.map fun b : Burst => { b with issued := b.issued + jump } }) hx :),
    (congrArg (fun d : Debug => { d with freshNs := none }) hd :)⟩

/-- Settles O12. -/
theorem berylTransitions : Obligations.BerylTransitions := by
  refine ⟨⟨?refLost, ?lostLost, ?refBack, ?lockHeld, ?restart, ?restartIgnored, ?readyIgnored, ?snap⟩, ?start, ?lock, ?loss, ?load⟩
  case refLost =>
    intro s t a h
    refine congrArg Host.Outcome.next (?_ : a.brefLevel false = _)
    rcases h with h | h <;> simp [State.brefLevel, h, State.modBeryl]
  case lostLost =>
    intro s t h
    have hadv : s.advance t = s := State.advance_of_not_run t (by simp [h])
    refine congrArg Host.Outcome.next (?_ : (s.advance t).brefLevel false = _)
    simp [hadv, State.brefLevel, h, State.modBeryl]
  case refBack => exact fun s t => rfl
  case lockHeld =>
    intro s hup h hhold
    refine congrArg Host.Outcome.next (?_ : s.berylLock = _)
    simp [State.berylLock, hup, h, hhold, State.modBeryl]
  case restart =>
    intro s hup h
    refine congrArg Host.Outcome.next (?_ : (if s.up then s.btRestart else s) = _)
    simp [hup, State.btRestart, h, State.modBeryl]
  case restartIgnored =>
    intro s h
    refine congrArg Host.Outcome.next (?_ : (if s.up then s.btRestart else s) = _)
    simp [State.btRestart, h]
  case readyIgnored =>
    intro s h
    have hstart : s.btStart = s := if_neg h
    have hload : s.btLoad = s := if_neg h
    exact ⟨congrArg Host.Outcome.next (by rw [hstart, ite_self]), congrArg Host.Outcome.next (by rw [hload, ite_self])⟩
  case snap =>
    intro s hup h
    refine congrArg Host.Outcome.next (?_ : (if s.up then s.btSnap else s) = _)
    have hnew : ¬ (s.beryl.st = .run ∧ s.beryl.snapAt = some s.beryl.td0) := fun ⟨hr, hs⟩ => h.elim (· hr) (· hs)
    simp [hup, State.btSnap, State.modBeryl, hnew]
  case start =>
    intro s hup h
    exact ⟨s.enterRun, congrArg Host.Outcome.next ((if_pos hup).trans (if_pos h)), s.enterRun_spec⟩
  case lock =>
    intro s hup h hhold
    obtain ⟨hb, hp, hv, hf⟩ := (s.modBeryl fun b => { b with bref := true }).enterRun_spec
    refine ⟨_, congrArg Host.Outcome.next ((if_pos ⟨hup, h⟩).trans (if_neg (by simp [hhold]))), hb, hp, hv, hf⟩
  case loss =>
    intro s t a h
    have hst : a.beryl.st = .run := by
      have : a.beryl.st = s.beryl.st := by
        simp only [a, State.advance]; split <;> rfl
      rw [this, h]
    have hlost : a.brefLevel false = a.berylLost := by simp [State.brefLevel, hst]
    obtain ⟨hb, hdet, hheld, hother⟩ := a.berylLost_spec
    exact ⟨a.berylLost, congrArg Host.Outcome.next hlost, hb, hdet, hheld, hother, a.berylLost_frame⟩
  case load =>
    intro s hup h
    obtain ⟨htd0, hwraps, hst, hp, hk, hx, hd⟩ := State.btLoad_spec h
    refine ⟨s.btLoad, congrArg Host.Outcome.next (if_pos hup), htd0, hwraps, hst, hp, hk, hx, ?_⟩
    have := s.btLoad_changes.frame
    rw [← hd]
    exact this

end Sys2Proof.Machine

namespace Sys2Proof.Machine

/-! R96, R110, R111, R135: reads of time, conversions and the canaries. -/

/-- R110: TD0 is one fixed segment, from which a time lies as far as it is, modulo the circle of times. -/
theorem Seg.zero_span_ofInt (g : Nat) (t : BitVec 104) : BitVec.ofInt 104 (Seg.zero.span g t) = t := by
  have hvalue : Seg.zero.valueAt g = BitVec.ofInt 104 (g * 2 ^ 40) := by simp [Seg.valueAt, Seg.zero]
  have hdist : BitVec.ofInt 104 (g * 2 ^ 40) + BitVec.ofInt 104 (t - Seg.zero.valueAt g).toInt = t := by
    rw [BitVec.ofInt_toInt, hvalue, add_sub_cancel]
  have hspan : Seg.zero.span g t = g * 2 ^ 40 + ((t - Seg.zero.valueAt g).toInt +
      if g * 2 ^ 40 + (t - Seg.zero.valueAt g).toInt < 0 then 2 ^ 104 else 0) := by
    change ((g : Int) - (0 : Nat)) * (2 ^ 40 + 0) + (if (g : Int) * (2 ^ 40 + 0) + _ < 0 then _ else _) = _
    generalize (t - Seg.zero.valueAt g).toInt = d
    split_ifs <;> omega
  rw [hspan, BitVec.ofInt_add, BitVec.ofInt_add, ← add_assoc, hdist]
  split_ifs <;> simp

theorem exists_eq_toNat_add {w : Nat} {x : Int} {t : BitVec w} (h : BitVec.ofInt w x = t) :
    ∃ k : Int, x = t.toNat + 2 ^ w * k := by
  refine ⟨x / (2 ^ w : Nat), ?_⟩
  rw [← h, BitVec.toNat_ofInt, Int.toNat_of_nonneg (Int.emod_nonneg _ (by positivity))]
  push_cast
  exact (Int.emod_add_mul_ediv x (2 ^ w)).symm

/-- R110: the identity conversion of TD0 is exact, and not stale. -/
theorem Beryl.convert_td0 (b : Beryl) (ns : W64) (fr : BitVec 16) : b.convert 0 0 (fix16 ns fr) = (ns ++ fr, false) := by
  obtain ⟨k, hk⟩ := exists_eq_toNat_add (Seg.zero_span_ofInt b.g (fix16 ns fr))
  have htime : ((fix16 ns fr).toNat : Int) = (ns ++ fr).toNat * 2 ^ 24 := by
    have happ : fix16 ns fr = (ns ++ fr) ++ (0 : BitVec 24) := (BitVec.append_assoc ..).symm
    rw [happ, BitVec.toNat_append, Nat.shiftLeft_eq]
    simp
  have hquot : Seg.zero.span b.g (fix16 ns fr) * 2 ^ 40 / (2 ^ 40 * 2 ^ 24) = (ns ++ fr).toNat + 2 ^ 80 * k := by
    rw [hk, htime]
    omega
  have hres : ((((0 : Nat) : Int) - ((0 : Nat) - (0 : Nat)) * (2 ^ 40 + 0)) * (2 ^ 40 + 0) +
      Seg.zero.span b.g (fix16 ns fr) * (2 ^ 40 + 0)) / ((2 ^ 40 + 0) * 2 ^ 24) = (ns ++ fr).toNat + 2 ^ 80 * k := by
    rw [← hquot]; norm_num
  have hturn : BitVec.ofInt 80 (2 ^ 80 * k) = 0 := by
    rw [BitVec.ofInt_mul, show BitVec.ofInt 80 (2 ^ 80) = 0 by decide, zero_mul]
  simp only [Beryl.convert, Beryl.segs, pickSeg, if_true]
  refine Prod.ext ((congrArg (BitVec.ofInt 80) hres).trans ?_) (by simp)
  rw [BitVec.ofInt_add, hturn, add_zero, BitVec.ofInt_natCast, BitVec.ofNat_toNat, BitVec.setWidth_eq]

theorem Power.canaryLower_min (p : Power) (h : Fin 2) :
    p.canaryLower.canaryMin.at h =
      if p.canary.at h ≠ 0 ∧ p.canary.at h < p.canaryMin.at h then p.canary.at h else p.canaryMin.at h :=
  Bank.at_ofFn _ h

/-- A change of the supply's causes leaves the canaries. -/
theorem State.setSupply_canary (s : State) (sok floor : Bool) : ∃ p, s.setSupply sok floor = { s with power := p } ∧
    p.canary = s.power.canary ∧ p.canaryMin = s.power.canaryMin := by
  refine ⟨(s.setSupply sok floor).power, rfl, ?_⟩
  simp only [State.setSupply, State.modPw_power]
  split <;> exact ⟨rfl, rfl⟩

/-- R135, R136: at the end of a window the canary takes the rates of the halves that run, and its minimum falls to them. -/
theorem State.canaryUpdate_spec {a : State} (north south : BitVec 16) (hup : a.up = true) (htick : a.ticking = true)
    (hns : a.beryl.td0.toNat % 1000 = 0) (hat : a.power.canaryAt ≠ some a.beryl.td0) :
    ∃ p, a.canaryUpdate north south = { a with power := p } ∧
      (∀ h, p.canary.at h = if a.halfUp h then (if h = 0 then north else south) else 0) ∧
      ∀ h, p.canaryMin.at h =
        if p.canary.at h ≠ 0 ∧ p.canary.at h < a.power.canaryMin.at h then p.canary.at h else a.power.canaryMin.at h := by
  rw [State.canaryUpdate, if_pos ⟨hup, htick, hns, hat⟩]
  extract_lets rate floor low s1
  obtain ⟨p, hz, hrates, hmin⟩ := s1.setSupply_canary a.power.sokLow low
  have hcanary : p.canary = Vector.ofFn rate := hrates
  refine ⟨p, hz, fun h => ?_, fun h => ?_⟩
  · rw [hcanary, Bank.at_ofFn]
  · rw [hmin, hcanary]
    exact Power.canaryLower_min { a.power with canary := Vector.ofFn rate, canaryAt := some a.now } h

/-- Settles O13. -/
theorem timeReads : Obligations.TimeReads := by
  refine ⟨⟨?latched, ?live, ?conversion, ?canary, ?noCanary⟩, Beryl.convert_td0⟩
  case latched =>
    intro s who d hup hlatch
    refine congrArg Host.Outcome.next (?_ : (if s.up then (s.nowLoRead who d).2 else s) = _)
    simp only [hup, State.nowLoRead, hlatch, if_true]
    rfl
  case live =>
    intro s who d hlatch
    refine congrArg Host.Outcome.next (?_ : (if s.up then (s.nowLoRead who d).2 else s) = _)
    simp [State.nowLoRead, hlatch]
  case conversion =>
    intro s v hup r
    exact congrArg Host.Outcome.next (if_pos hup)
  case canary =>
    intro s t north south a hup htick hns hat
    obtain ⟨p, hz, hcanary, hmin⟩ := State.canaryUpdate_spec north south hup htick hns hat
    exact ⟨_, congrArg Host.Outcome.next hz, hcanary 0, hcanary 1, hmin, rfl⟩
  case noCanary =>
    intro s t north south a h
    exact congrArg Host.Outcome.next (if_neg fun c => h.elim (· c.2.2.1) fun e => c.2.2.2 e)

end Sys2Proof.Machine

namespace Sys2Proof.Machine

/-! R103 to R109: the commands of the time domains. -/

theorem Domain.due_eq_nil {d : Domain} {g : Nat} (h : ∀ p ∈ d.pend, g < p.at_) : d.due g = [] := by
  have hnone : (d.pend.filter fun p => decide ((p.at_ : Int) ≤ g)) = [] :=
    List.filter_eq_nil_iff.2 fun p hp => by have := h p hp; simp; omega
  rw [Domain.due, hnone]
  rfl

/-- Where nothing is due in the present ns, a command is judged at once. -/
theorem State.tdSettle_of_none_due {s : State} {n : Fin 8} (hp : ∀ p ∈ (s.beryl.doms.at n).pend, s.beryl.g < p.at_)
    (hs : ∀ w, (s.beryl.doms.at n).slew = some w → s.beryl.g < w.stop) : s.tdSettle n = s := by
  have happly : s.tdApply n = s := by simp [State.tdApply, Domain.due_eq_nil hp]
  have hend : s.slewEndBy n s.beryl.g = s := by
    unfold State.slewEndBy
    dsimp only
    split
    · rfl
    · next w hw => exact if_neg (Nat.not_le.2 (hs w hw))
  rw [State.tdSettle, happly, State.slewEnd, hend, ite_self]

theorem Beryl.live_iff (b : Beryl) : b.live = true ↔ b.st = .ready ∨ b.st = .run := by simp [Beryl.live]

theorem Domain.atCmd?_isSome (d : Domain) : d.atCmd?.isSome = true ↔ ∃ p ∈ d.pend, p.isNow = false := by
  simp [Domain.atCmd?, List.find?_isSome]

theorem Domain.state_ne_zero (d : Domain) : d.state ≠ 0 ↔ d.slew ≠ none ∨ ∃ p ∈ d.pend, p.isNow = false := by
  rw [Domain.state, ← d.atCmd?_isSome]
  cases d.slew <;> cases d.atCmd? <;> simp

/-- R105, R107: the judgement of a command in the order of its causes. -/
theorem Domain.command_eq (d : Domain) (b : Beryl) (code : TdCode) (whenAt : Bool) (o : Option (Fin 256)) :
    d.command b code whenAt o =
      if b.st ≠ .ready ∧ b.st ≠ .run then { d with cmderr := 6 }
      else if tdRangeOk code d.arg (fldN d.slewReg 0 27) = false then { d with cmderr := 2 }
      else if d.slew ≠ none ∨ ∃ p ∈ d.pend, p.isNow = false then { d with cmderr := 1 }
      else if whenAt = true ∧ b.td0 < d.at_ then { d with cmderr := 0, pend := d.pend ++ [{
        code := code, arg := d.arg, slew := fldN d.slewReg 0 27, at_ := b.wraps * 2 ^ 64 + d.at_.toNat, late := false,
        isNow := false, owner := o }] }
      else { d with cmderr := 0, pend := d.pend ++ [{
        code := code, arg := d.arg, slew := fldN d.slewReg 0 27, at_ := b.wraps * 2 ^ 64 + b.td0.toNat + 1, late := whenAt,
        isNow := true, owner := o }] } := by
  have hlive : (!b.live) = true ↔ b.st ≠ .ready ∧ b.st ≠ .run := by
    rw [Bool.not_eq_true', ← Bool.not_eq_true, b.live_iff, not_or]
  simp only [Domain.command, hlive, Bool.not_eq_true', d.state_ne_zero, Bool.and_eq_true, decide_eq_true_eq, Beryl.g]
  split_ifs <;> rfl

/-- R107: a CANCEL of a slew cuts it at its instant, where that comes before the slew's own end. -/
theorem Domain.cancel_of_slew {d : Domain} {b : Beryl} {w : Slew} (whenAt : Bool) (o : Option (Fin 256)) (hlive : b.live = true)
    (hs : d.slew = some w) :
    d.cancel b whenAt o =
      let at_ := b.wraps * 2 ^ 64 + (if whenAt = true ∧ b.td0 < d.at_ then d.at_.toNat else b.td0.toNat + 1)
      if at_ < w.endAt then { d with cmderr := 0, slew := some { w with
        cut := some at_, cutLate := decide (whenAt = true ∧ ¬ b.td0 < d.at_), cutOwner := o } }
      else { d with cmderr := 5 } := by
  simp only [Domain.cancel, hlive, hs, Bool.not_true, Bool.false_eq_true, if_false, Bool.and_eq_true, decide_eq_true_eq, Beryl.g]
  cases whenAt <;> by_cases hlater : b.td0 < d.at_ <;> simp [hlater, Nat.add_assoc]

/-- R107, R108: with no slew, a CANCEL removes the command that waits for AT. -/
theorem Domain.cancel_of_no_slew {d : Domain} {b : Beryl} (whenAt : Bool) (o : Option (Fin 256)) (hlive : b.live = true)
    (hs : d.slew = none) :
    d.cancel b whenAt o = if d.atCmd?.isSome = true then { d with pend := d.pend.filter fun p => p.isNow, cmderr := 0 }
      else { d with cmderr := 4 } := by
  simp [Domain.cancel, hlive, hs]

/-- Settles O14. -/
theorem domainCommandsAreJudged : Obligations.DomainCommandsAreJudged := by
  refine ⟨⟨?judged, fun s n => State.tdSettle_of_none_due⟩, ?cancel⟩
  case judged =>
    intro s who n whenAt code i hi hup hn z d to_ slew
    have hexec : exec i s = to_ (d.command s.beryl code whenAt (s.ownerOf who)) := by
      have hcmd : exec i s = .next (if s.up then s.tdCommand who n code whenAt else s) := by
        simp only [List.mem_cons, List.not_mem_nil, or_false, Prod.mk.injEq] at hi
        rcases hi with ⟨rfl, rfl⟩ | ⟨rfl, rfl⟩ | ⟨rfl, rfl⟩ | ⟨rfl, rfl⟩ <;> rfl
      rw [hcmd, if_pos hup, State.tdCommand, if_neg hn]
      rfl
    rw [hexec, d.command_eq]
    split_ifs <;> rfl
  case cancel =>
    intro s who n whenAt hup hn hst z d to_ at_
    have hlive : s.beryl.live = true := s.beryl.live_iff.2 hst
    have hexec : exec (.tdCancel who n whenAt) s = to_ (d.cancel s.beryl whenAt (s.ownerOf who)) := by
      refine congrArg Host.Outcome.next ((if_pos hup).trans ?_)
      rw [State.tdCancel, if_neg hn]
      rfl
    rw [hexec]
    refine ⟨fun hs hp => ?_, fun hs hp => ?_, fun w hs hat => ?_, fun w hs hat => ?_⟩
    · rw [Domain.cancel_of_no_slew _ _ hlive hs, if_pos (d.atCmd?_isSome.2 hp)]
    · have hnone : ¬ d.atCmd?.isSome = true := fun h => by
        obtain ⟨p, hp', hnow⟩ := d.atCmd?_isSome.1 h
        simp [hp p hp'] at hnow
      rw [Domain.cancel_of_no_slew _ _ hlive hs, if_neg hnone]
    · rw [Domain.cancel_of_slew _ _ hlive hs]
      exact congrArg to_ (if_pos hat)
    · rw [Domain.cancel_of_slew _ _ hlive hs]
      exact congrArg to_ (if_neg hat)

theorem sgn_eq_sign (x : Int) : sgn x = x.sign := by
  unfold sgn
  split_ifs with hneg hzero
  · exact (Int.sign_eq_neg_one_of_neg hneg).symm
  · rw [hzero]; rfl
  · exact (Int.sign_eq_one_of_pos (by omega)).symm

/-- R105, R107: when its command takes effect, a domain enters the command's segment. -/
theorem Domain.apply_spec (d0 : Domain) (p : PendCmd) :
    let e := d0.apply p
    let v := d0.cur.valueAt p.at_
    e.prev = (if d0.cur.gs = p.at_ then d0.prev else d0.cur) ∧ e.pend = d0.pend ∧ e.applied = true ∧
    e.late = (d0.late || p.late) ∧ e.cur.gs = p.at_ ∧
    (p.code = .set → e.cur.vs = p.arg ++ (0 : BitVec 40) ∧ e.cur.r = d0.cur.r) ∧
    (p.code = .step → e.cur.vs = v + (p.arg ++ (0 : BitVec 40)) ∧ e.cur.r = d0.cur.r) ∧
    (p.code = .rate → e.cur.vs = v ∧ e.rate = (p.arg.extractLsb' 0 32).toInt ∧ e.cur.r = e.rate + d0.slewRate) ∧
    (p.code = .slew → e.cur.vs = v) ∧
    (p.code = .slew → p.arg = 0 → e.cur.r = d0.rate ∧ e.slewEnd = true ∧ e.slew = none) ∧
    (p.code = .slew → p.arg ≠ 0 → e.cur.r = d0.rate + p.arg.toInt.sign * p.slew ∧
      e.slew = some { arg := p.arg.toInt, rate := p.slew, from_ := p.at_,
                      endAt := p.at_ + (p.arg.toInt.natAbs * 2 ^ 40 + p.slew - 1) / p.slew, cut := none,
                      cutLate := false, cutOwner := none }) := by
  cases hc : p.code
  case slew =>
    by_cases harg : p.arg = 0#64 <;>
      simp [Domain.apply, Domain.enter, Domain.segOf, hc, harg, sgn_eq_sign, slewLen]
  all_goals simp [Domain.apply, Domain.enter, Domain.segOf, hc, fix40, lo32]

/-- A command that takes effect changes its own domain, and for the units what follows of the new segment. -/
theorem State.tdOne_beryl (s : State) (n : Fin 8) (p : PendCmd) :
    let d := s.beryl.doms.at n
    (s.tdOne n p).beryl = { s.beryl with doms := s.beryl.doms.upd n ({ d with pend := d.pend.erase p }.apply p) } := by
  intro d
  unfold State.tdOne
  extract_lets d0 d1 s1 s2
  have h2 : State.Changes [.lanes, .chans, .seqs, .gds, .ta] s1 s2 := by
    simp only [s2]
    split
    · exact (State.breachOf_changes _ _ _).mono rfl
    · exact .refl _ _
  clear_value s2
  have hb : s2.beryl = s1.beryl := h2.same .beryl rfl
  cases p.code
  case slew | rate => exact hb
  all_goals
    have h3 := (((State.lanesAfterStep_changes s2 d0 d1 n p.at_).mono (m := [.lanes, .gds, .ta]) rfl).step
      (State.gdsStep_changes _ n ((d.cur.valueAt p.at_).extractLsb' 40 64) ((d1.cur.valueAt p.at_).extractLsb' 40 64)) rfl).step
      (State.acsPassed_changes _ n ((d.cur.valueAt p.at_).extractLsb' 40 64) ((d1.cur.valueAt p.at_).extractLsb' 40 64)) rfl
    exact Eq.trans (h3.same .beryl rfl) hb

/-- R107: the one command that waits takes effect at its instant, before which its domain's slew has not ended. -/
theorem State.tdApply_of_one {a : State} {n : Fin 8} {p : PendCmd} (hup : a.up = true) (htick : a.ticking = true)
    (hpend : (a.beryl.doms.at n).pend = [p]) (hdue : p.at_ ≤ a.beryl.g)
    (hslew : ∀ w, (a.beryl.doms.at n).slew = some w → p.at_ < w.stop) : a.tdApply n = a.tdOne n p := by
  have hlist : (a.beryl.doms.at n).due a.beryl.g = [p] := by
    simp [Domain.due, hpend, hdue, byInstant]
  have hend : a.slewEndBy n p.at_ = a := by
    unfold State.slewEndBy
    dsimp only
    split
    · rfl
    · next w hw => exact if_neg (Nat.not_le.2 (hslew w hw))
  rw [State.tdApply, if_pos ⟨hup, htick⟩, hlist, List.foldl_cons, List.foldl_nil, hend]

theorem State.slewEnd_of_due {a : State} {n : Fin 8} {w : Slew} (hup : a.up = true) (htick : a.ticking = true)
    (hw : (a.beryl.doms.at n).slew = some w) (hstop : w.stop ≤ a.beryl.g) :
    a.slewEnd n =
      let z := a.modDom n fun _ => (a.beryl.doms.at n).finish w
      if w.cut.isSome ∧ w.cutLate then z.breachOf (z.detOnly w.cutOwner) .tdLate else z := by
  rw [State.slewEnd, if_pos ⟨hup, htick⟩, State.slewEndBy]
  simp only [hw]
  rw [if_pos hstop]

/-- R106: over a whole slew the segment's advance and the rest make the base rate and the whole step. -/
theorem Domain.slew_whole_step {d : Domain} {w : Slew} (hgs : d.cur.gs = w.from_) (hr : d.cur.r = d.rate + w.arg.sign * w.rate)
    (hle : w.from_ ≤ w.endAt) :
    d.cur.valueAt w.endAt + BitVec.ofInt 104 w.rest =
      d.cur.vs + BitVec.ofInt 104 (((w.endAt : Int) - w.from_) * (2 ^ 40 + d.rate) + w.arg * 2 ^ 40) := by
  rw [Seg.valueAt, Slew.rest, hgs, hr, sgn_eq_sign, BitVec.add_assoc, ← BitVec.ofInt_add]
  congr 2
  push_cast [hle]
  ring

/-- Settles O15. -/
theorem domainCommandsApply : Obligations.DomainCommandsApply := by
  refine ⟨?command, ?slew⟩
  case command =>
    intro s t n p a d hup htick hpend hdue hslew
    have happly := State.tdApply_of_one hup htick hpend hdue hslew
    have hb : (a.tdApply n).beryl = _ := (congrArg State.beryl happly).trans (a.tdOne_beryl n p)
    have hdom : (a.tdApply n).beryl.doms.at n = ({ d with pend := d.pend.erase p }.apply p) := by
      rw [hb]; exact Bank.at_upd_self ..
    have hempty : d.pend.erase p = [] := by rw [hpend]; simp
    obtain ⟨hprev, hpend', hrest⟩ := Domain.apply_spec { d with pend := d.pend.erase p } p
    refine ⟨a.tdApply n, rfl, fun m hm => ?_, ?_, ?_⟩
    · rw [hb]; exact Bank.at_upd_ne _ _ hm
    · rw [hdom]
      exact ⟨hprev, hpend'.trans hempty, hrest⟩
    · have frame {z : State} (h : State.Changes [.beryl, .lanes, .chans, .seqs, .gds, .ta] a z) : z = { a with
          beryl := z.beryl, lanes := z.lanes, chans := z.chans, seqs := z.seqs, gds := z.gds, ta := z.ta } := h.frame
      exact frame (a.tdApply_changes n)
  case slew =>
    intro s t n w a d prev hup htick hslew hstop
    have hend := State.slewEnd_of_due hup htick hslew hstop
    refine ⟨fun hcut => ?_, Domain.slew_whole_step, fun c hcut => ?_⟩
    · refine congrArg Host.Outcome.next (hend.trans ?_)
      simp only [hcut, Option.isSome_none, Bool.false_eq_true, false_and, if_false, Domain.finish, Domain.endSeg]
      simp [Domain.enter, State.modDom, State.modBeryl, Bank.mod, prev, d, Slew.stop, hcut]
    · have hfin : d.finish w = { d with
          prev := prev, slew := none, slewCut := true, late := d.late || w.cutLate,
          cur := { gs := c, r := d.rate, vs := d.cur.valueAt c } } := by
        simp [Domain.finish, Domain.endSeg, Domain.enter, hcut, prev, Slew.stop]
      have hch : State.Changes [.chans, .seqs] (a.modDom n fun _ => d.finish w) (a.slewEnd n) := by
        rw [hend]
        dsimp only
        split
        · exact State.breachOf_changes _ _ _
        · exact .refl _ _
      have frame {y z : State} (h : State.Changes [.chans, .seqs] y z) : z = { y with chans := z.chans, seqs := z.seqs } := h.frame
      have hb : (a.slewEnd n).beryl = _ := hch.same .beryl rfl
      refine ⟨a.slewEnd n, rfl, ?_, ?_⟩
      · rw [hb, ← hfin]; rfl
      · rw [hb]; exact frame hch

end Sys2Proof.Machine

namespace Sys2Proof.Machine

/-! Fields of merged words. -/

theorem bit_mrg {w : Nat} (m a b : BitVec w) (i : Nat) : bit (mrg m a b) i = if bit m i then bit b i else bit a i := by
  rcases lt_or_ge i w with hi | hi
  · cases h : bit m i <;> simp_all [bit, mrg]
  · simp [bit, hi]

/-! R155 to R161: a lane is set up. -/

/-- R160: REST and POLICY are the fields of LNn_CFG that a write takes while EN stays 1. -/
theorem bit_policyMask (i : Nat) : bit (0xC : W32) i = decide (i = 2 ∨ i = 3) := by
  rcases lt_or_ge i 32 with hi | hi
  · exact (by decide : ∀ j : Fin 32, bit (0xC : W32) j = decide (j.val = 2 ∨ j.val = 3)) ⟨i, hi⟩
  · rw [bit, BitVec.getLsbD_of_ge _ _ hi]
    exact (decide_eq_false (by omega)).symm

theorem fld_policy_mrg (x v : W32) : fld (mrg 0xC x (v &&& 0x3FFFFF7C)) 2 2 = fld v 2 2 := by
  refine BitVec.eq_of_getLsbD_eq fun i hi => ?_
  have hbit := bit_mrg 0xC x (v &&& 0x3FFFFF7C) (2 + i)
  rw [bit_policyMask, if_pos (by simp; omega)] at hbit
  interval_cases i <;> simpa [fld, bit] using hbit


/-- What a write of LNn_CFG first notes are the watermarks of the engines that take the lane's captures. -/
theorem State.laneCfgWrite_noted (s : State) (n : Fin 256) (v : W32) :
    ∃ e, s.laneCfgWrite n v = ({ s with engines := e } : State).laneCfg n v := by
  have h : State.Changes [.engines] s
      (allEngines.foldl (fun z e => if e.val / 4 = n.val / 16 then z.noteMark e else z) s) := by
    refine .foldl (.refl _ _) fun z e => ?_
    split
    · exact z.noteMark_changes e
    · exact .refl _ _
  have frame {z : State} (k : State.Changes [.engines] s z) : z = { s with engines := z.engines } := k.frame
  exact ⟨_, congrArg (State.laneCfg · n v) (frame h)⟩

theorem State.laneCfg_enable {s : State} {n : Fin 256} {v : W32} (hen : (s.lanes.at n).en = false) (hv : bit v 4 = true)
    (h : (s.lanes.at n).st ≠ .off ∨ s.ticking = false ∨ (s.lanes.at n).aq = []) :
    s.laneCfg n v = let l := s.lanes.at n
      { s with lanes := s.lanes.upd n { l with
        cfg := v &&& 0x3FFFFF7C, rest := fld v 0 2, st := if l.st = .off then .run else l.st, twm := s.twmOf n v,
        driven := false, mark := some (s.laneMark n),
        aq := if s.ticking then l.aq
              else l.aq.map fun e => { e with passed := e.passed || (decide (l.st = .off) && s.orderLate e) } } } := by
  have hen' : ({ s.lanes.at n with rest := fld v 0 2 } : Lane).en = false := hen
  unfold State.laneCfg
  dsimp only
  rw [hen', hv]
  dsimp only
  split
  · next hret =>
    obtain ⟨hoff, htick⟩ := hret
    have haq : (s.lanes.at n).aq = [] := by simpa [hoff, htick] using h
    simp [State.laneReturn, State.overdue, State.modLane, Bank.mod_eq, haq, htick, laneCfgMask]
  · rfl

/-- Settles O16. -/
theorem laneSetUp : Obligations.LaneSetUp := by
  refine ⟨?state, ?live, ?flush⟩
  case state =>
    intro s n v hup l
    refine ⟨fun hen hv h => ?_, fun hen hv => ?_, fun h => ?_, fun h => ?_⟩
    · obtain ⟨e, he⟩ := s.laneCfgWrite_noted n v
      refine ⟨e, congrArg Host.Outcome.next ((if_pos ⟨hup, by simp [l] at hen; simp [hen], hv⟩).trans (he.trans ?_))⟩
      exact State.laneCfg_enable hen hv h
    · obtain ⟨e, he⟩ := s.laneCfgWrite_noted n v
      refine ⟨e, congrArg Host.Outcome.next ((if_pos ⟨hup, hen, by simp [hv]⟩).trans (he.trans ?_))⟩
      have hen' : ({ s.lanes.at n with rest := fld v 0 2 } : Lane).en = true := hen
      simp only [State.laneCfg, hen', hv]
      rfl
    · refine congrArg Host.Outcome.next ((if_pos hup).trans ?_)
      simp only [State.laneClrFlt, State.modLane, Bank.mod_eq]
      rw [if_pos h]
    · refine congrArg Host.Outcome.next ((if_pos hup).trans ?_)
      simp only [State.laneClrFlt, State.modLane, Bank.mod_eq]
      rw [if_neg h, Bank.upd_at]
  case live =>
    intro s n v hup hen hv l
    obtain ⟨e, he⟩ := s.laneCfgWrite_noted n v
    have hen' : ({ s.lanes.at n with rest := fld v 0 2 } : Lane).en = true := hen
    refine ⟨e, mrg 0xC l.cfg (v &&& 0x3FFFFF7C),
      congrArg Host.Outcome.next ((if_pos ⟨hup, hen, hv⟩).trans (he.trans ?_)), ?_, fun i h2 h3 => ?_⟩
    · simp only [State.laneCfg, hen', hv]
      rfl
    · exact fld_policy_mrg l.cfg v
    · rw [bit_mrg, bit_policyMask, if_neg (by simp [h2, h3])]
  case flush =>
    intro s n hup
    exact ⟨congrArg Host.Outcome.next (if_pos hup), congrArg Host.Outcome.next (if_pos hup)⟩

end Sys2Proof.Machine

namespace Sys2Proof.Machine

/-! R118 to R143: entries of the action queues. -/

/-- R142: no entry into FAULT is due. -/
theorem State.laneFaultDue_of_none {s : State} {n : Fin 256} (h : ∀ g ∈ (s.lanes.at n).faultAt, notBefore s.now g = false) :
    s.laneFaultDue n = s := by
  refine if_neg fun c => ?_
  obtain ⟨g, hg, hdue⟩ := List.any_eq_true.1 c.2.2
  simp [h g hg] at hdue

/-- R118, R142: what an entry that enters leaves of its lane, by the lead test and the policy. -/
def State.entered (s : State) (n : Fin 256) (op : ActOp) (v : Bool) (td : Fin 8) (ns : BitVec 40) : Lane :=
  let e : ActEntry := { v := v, op := op, td := td, ns := ns, ge := s.now, execAt := none, passed := false }
  let l := { s.lanes.at n with lastAccept := some s.now }
  if (s.beryl.doms.at td).leadLate ns (s.abs s.now) then
    match s.lanePolicy n with
    | .drop => l.countLate false s.now
    | .exec => { l.countLate false s.now with aq := l.aq ++ [{ e with execAt := some (s.now + 24) }] }
    | .fault => { l.countLate false s.now with faultAt := l.faultAt ++ [s.now + 24] }
  else { l with aq := l.aq ++ [e] }

theorem Lane.any_lastAccept_iff (l : Lane) (now : W64) :
    (l.lastAccept.any fun a => !notBefore now (a + 4)) = true ↔ ∃ x, l.lastAccept = some x ∧ notBefore now (x + 4) = false := by
  cases l.lastAccept <;> simp

section
variable {s : State} {n : Fin 256} (op : ActOp) (v : Bool) (td : Fin 8) (ns : BitVec 40)
  (hdue : ∀ g ∈ (s.lanes.at n).faultAt, notBefore s.now g = false)
include hdue

theorem State.enqLane_of_fault (h : (s.lanes.at n).st = .fault) : (s.enqLane n op v td ns).1 = s := by
  simp [State.enqLane, State.laneFaultDue_of_none hdue, h]

theorem State.enqLane_of_full (h : 8 ≤ (s.lanes.at n).aq.length) : (s.enqLane n op v td ns).1 = s := by
  rw [State.enqLane, State.laneFaultDue_of_none hdue]
  dsimp only
  rw [if_pos (show (s.lanes.at n).aq.length ≥ 8 from h)]
  split <;> rfl

/-- R119: within 4 ns of the last entry nothing enters. -/
theorem State.enqLane_of_recent (htick : s.ticking = true) {x : W64} (h : (s.lanes.at n).lastAccept = some x)
    (hx : notBefore s.now (x + 4) = false) : (s.enqLane n op v td ns).1 = s := by
  have hany : ((s.lanes.at n).lastAccept.any fun a => !notBefore s.now (a + 4)) = true :=
    ((s.lanes.at n).any_lastAccept_iff s.now).2 ⟨x, h, hx⟩
  rw [State.enqLane, State.laneFaultDue_of_none hdue]
  dsimp only
  rw [if_pos (show s.ticking = true ∧ _ from ⟨htick, hany⟩)]
  split
  · rfl
  · split <;> rfl

theorem State.enqLane_enters (hup : s.laneUp n = true) (htick : s.ticking = true) (hlen : (s.lanes.at n).aq.length < 8)
    (hst : (s.lanes.at n).st ≠ .fault)
    (hlast : ∀ x, (s.lanes.at n).lastAccept = some x → notBefore s.now (x + 4) = true) :
    (s.enqLane n op v td ns).1 = s.modLane n fun _ => s.entered n op v td ns := by
  have hany : ¬ (s.ticking = true ∧ ((s.lanes.at n).lastAccept.any fun a => !notBefore s.now (a + 4)) = true) := fun h => by
    obtain ⟨x, hx, hn⟩ := ((s.lanes.at n).any_lastAccept_iff s.now).1 h.2
    exact absurd ((hlast x hx).symm.trans hn) (by decide)
  rw [State.enqLane, State.laneFaultDue_of_none hdue]
  dsimp only
  rw [if_neg (by simp [hup, hst]), if_neg (by omega), if_neg hany, if_pos htick]
  rfl

/-- R139, R143: the head of the queue executes and leaves it, where the entry behind it is not late for order. -/
theorem State.execAction_head {op : ActOp} {e : ActEntry} {r : List ActEntry} (hup : s.laneUp n = true) (htick : s.ticking = true)
    (hst : (s.lanes.at n).st = .run) (haq : (s.lanes.at n).aq = e :: r) (hop : e.op = op) (hnow : s.entryDue e s.now = true)
    (hr : ∀ x ∈ r.head?, s.orderLate x = false) :
    s.execAction n op = s.modLane n fun _ => { s.perform n (s.lanes.at n) e with aq := r } := by
  have hsweep (l : Lane) (p : Policy) : s.sweep p l r = ({ l with aq := r }, false) := by
    cases r with
    | nil => rfl
    | cons x r => simp [State.sweep, hr x (by simp)]
  rw [State.execAction, State.laneFaultDue_of_none hdue]
  dsimp only
  rw [haq]
  dsimp only
  rw [if_pos ⟨hup, htick, hst, hop, hnow⟩, hsweep]
  rfl

end

/-- Settles O17. -/
theorem laneActions : Obligations.LaneActions := by
  refine ⟨?enter, ?execute⟩
  case enter =>
    intro s t n op v td ns a l ge e to_ counted late hup htick hdue
    refine ⟨fun h => ?_, fun h => ?_, fun x hx h => ?_, fun hlen hst hlast => ?_⟩
    · exact congrArg Host.Outcome.next (State.enqLane_of_fault op v td ns hdue h)
    · exact congrArg Host.Outcome.next (State.enqLane_of_full op v td ns hdue h)
    · exact congrArg Host.Outcome.next (State.enqLane_of_recent op v td ns hdue htick hx h)
    · have hent := State.enqLane_enters op v td ns hdue hup htick hlen hst hlast
      have hexec : exec (.laneEnqueue t n op v td ns) s = .next (a.modLane n fun _ => a.entered n op v td ns) :=
        congrArg Host.Outcome.next hent
      rw [hexec]
      have hne : late ≠ true → a.entered n op v td ns = { l with aq := l.aq ++ [e], lastAccept := some ge } := fun hl => if_neg hl
      have hl' (hl : late = true) : a.entered n op v td ns = _ := if_pos hl
      refine ⟨fun hl => ?_, fun hl hp => ?_, fun hl hp => ?_, fun hl hp => ?_⟩
      · rw [hne (by simp [hl])]; rfl
      all_goals
        rw [hl' hl, hp]
        simp only [Lane.countLate, Bool.or_false]
        rfl
  case execute =>
    intro s t n e r a l now pad to_ cap hup htick hdue hst haq hnow hr
    have hhead {op : ActOp} (hop : e.op = op) := State.execAction_head hdue hup htick hst haq hop hnow hr
    refine ⟨fun hop => ?_, fun hop => ?_, fun hop => ?_, fun hop => ?_, fun hop => ?_, fun hop => ?_⟩ <;>
      refine congrArg Host.Outcome.next ((hhead hop).trans ?_) <;> simp only [State.perform, hop] <;> rfl

end Sys2Proof.Machine

namespace Sys2Proof.Machine

/-! R142, R143, R157, R158: late entries and the entry of a lane into FAULT. -/

/-- R366: the deterministic channel that is found is outside OFF. -/
theorem State.detOwner_st {s : State} {p : Channel → Bool} {c : Fin 256} (h : s.detOwner p = some c) : (s.chans.at c).st ≠ .off := by
  have hc := List.find?_some h
  simp only [Bool.and_eq_true, decide_eq_true_eq] at hc
  exact hc.1.1

/-- R133: the owner of a lane has its breach recorded. -/
theorem State.breachOf_recorded {s : State} {o : Option (Fin 256)} {c : Fin 256} (b : BreachCond) (ho : o = some c)
    (h : (s.chans.at c).st ≠ .off) : ((s.breachOf o b).chans.at c).breach ≠ none := by
  rw [ho]
  exact State.breach_recorded b h

/-- R143: the head executes, and the one entry behind it that is late for order is counted and discarded. -/
theorem State.execAction_drops {s : State} {n : Fin 256} {op : ActOp} {e x : ActEntry} (hup : s.laneUp n = true)
    (htick : s.ticking = true) (hdue : ∀ g ∈ (s.lanes.at n).faultAt, notBefore s.now g = false) (hst : (s.lanes.at n).st = .run)
    (haq : (s.lanes.at n).aq = [e, x]) (hnow : s.entryDue e s.now = true) (hop : e.op = op) (hx : s.orderLate x = true)
    (hp : s.lanePolicy n = .drop) :
    s.execAction n op = s.modLane n fun _ => { (s.perform n (s.lanes.at n) e).countLate true s.now with aq := [] } := by
  rw [State.execAction, State.laneFaultDue_of_none hdue]
  dsimp only
  rw [haq]
  dsimp only
  rw [if_pos ⟨hup, htick, hst, hop, hnow⟩, hp, State.sweep, if_pos hx]
  rfl

/-- R142: an entry into FAULT that is due. -/
theorem State.laneFaultDue_of_due {s : State} {n : Fin 256} {g : W64} (hup : s.laneUp n = true) (htick : s.ticking = true)
    (hg : g ∈ (s.lanes.at n).faultAt) (hdue : notBefore s.now g = true) :
    s.laneFaultDue n =
      let s1 := s.modLane n fun l => { l with faultAt := l.faultAt.filter fun g => !notBefore s.now g }
      if (s.lanes.at n).st = .fault then s1.breachOf (s.laneOwner n) .late else s1.laneFault n false :=
  if_pos ⟨hup, htick, List.any_eq_true.2 ⟨g, hg, hdue⟩⟩

/-- R142, R157: lane `n` in FAULT with cause LATE, `later` the instants still to come. -/
def State.laneFaulted (s : State) (n : Fin 256) (later : List W64) : State :=
  s.modLane n fun l => { l with faultAt := later, st := .fault, fcause := 1, faultNs := lo32 s.now, driven := false }

theorem State.laneFault_after (s : State) (n : Fin 256) :
    (s.modLane n fun l => { l with faultAt := l.faultAt.filter fun g => !notBefore s.now g }).laneFault n false =
      (s.laneFaulted n ((s.lanes.at n).faultAt.filter fun g => !notBefore s.now g)).breachOf (s.laneOwner n) .late := by
  refine congrArg (fun z : State => z.breachOf (s.laneOwner n) .late) ?_
  simp [State.modLane, State.laneFaulted, Bank.mod_eq, State.now]

/-- Settles O18. -/
theorem laneFaults : Obligations.LaneFaults := by
  refine ⟨?dropped, ?faults⟩
  case dropped =>
    intro s t n e x a l hup htick hdue hst haq hnow hop hx hp
    refine congrArg Host.Outcome.next ((State.execAction_drops hup htick hdue hst haq hnow hop hx hp).trans ?_)
    simp only [State.perform, hop, Lane.countLate, Bool.or_true]
    rfl
  case faults =>
    intro s t n g a l later hup htick hg hdue
    have hexec : exec (.laneFaultEntry t n) s = .next (a.laneFaultDue n) := rfl
    rw [hexec, State.laneFaultDue_of_due hup htick hg hdue]
    dsimp only
    refine ⟨fun hst ho => ?none, fun hst c ho => ?owner, fun hst => ?enters⟩
    case none =>
      rw [if_pos hst, ho]
      rfl
    case owner =>
      rw [if_pos hst]
      exact ⟨_, rfl, (State.breachOf_changes _ _ _).frame, State.breachOf_recorded _ ho (State.detOwner_st (s := a) ho)⟩
    case enters =>
      rw [if_neg hst, State.laneFault_after]
      have hc := State.breachOf_changes (a.laneFaulted n later) (a.laneOwner n) .late
      refine ⟨_, rfl, hc.same .lanes rfl, fun ho => ?_, fun c ho => ?_, ?_⟩
      · rw [ho]
        exact ⟨rfl, rfl⟩
      · exact State.breachOf_recorded _ ho (State.detOwner_st (s := a) ho)
      · exact (.step ((a.modLane_changes n _).mono rfl) hc rfl : State.Changes [.lanes, .chans, .seqs] a _).frame

end Sys2Proof.Machine

namespace Sys2Proof.Machine

/-! R145 to R153: changes of a lane's input and the captures they make. -/

theorem groupLane_self (n : Fin 256) : groupLane n (n.val % 16) = n := by
  apply Fin.ext
  simp only [groupLane, Fin.ofNat]
  omega

theorem groupLane_mod (n : Fin 256) (i : Nat) : groupLane n (i % 16) = groupLane n i := by
  simp [groupLane]

/-- A change of a lane to what it is. -/
theorem State.modLane_same {s : State} {n : Fin 256} {f : Lane → Lane} (h : f (s.lanes.at n) = s.lanes.at n) : s.modLane n f = s := by
  rw [State.modLane, Bank.mod_eq, h, Bank.upd_at]

/-- R146, R153: an edge of a lane in whose group no lane takes strobe captures makes the lane's own capture. -/
theorem State.edgeCaptures_own {s : State} {n : Fin 256} (t : Instant) (level : Bool) (hcap : s.capturing n = true)
    (hsel : edgeSel (s.lanes.at n).capEdge level = true) (hstrb : ∀ i, (s.lanes.at (groupLane n i)).strbEn = false) :
    s.edgeCaptures n t level = s.modLane n fun l => l.take .edge level t n.val := by
  have hn : (s.lanes.at n).strbEn = false := groupLane_self n ▸ hstrb (n.val % 16)
  have hown : (s.modLane n fun l => if (s.capturing n && !l.strbEn && edgeSel l.capEdge level) = true then l.take .edge level t n.val else l) =
      s.modLane n fun l => l.take .edge level t n.val := by
    simp [State.modLane, Bank.mod_eq, hcap, hn, hsel]
  have hkeep (i : Nat) : ((s.modLane n fun l => l.take .edge level t n.val).lanes.at (groupLane n i)).strbEn = false := by
    by_cases hi : groupLane n i = n
    · rw [hi, State.modLane_lanes, Bank.at_mod_self]
      exact hn
    · simpa [Bank.at_mod_ne _ _ hi] using hstrb i
  rw [State.edgeCaptures]
  dsimp only
  rw [hown]
  split
  · exact List.foldl_fixed' (fun i => State.modLane_same (if_neg (by rw [hkeep i]; simp))) _
  · rfl

/-- R147: what is left of a lane's captures once those of the edge of `n` at `c` are taken back. -/
def Lane.without (n : Fin 256) (c : Instant) (l : Lane) : Lane :=
  { l with pend := l.pend.filter fun p => !(decide (p.src = n.val) && decide (p.stamp = c) && (decide (p.kind = .edge) || decide (p.kind = .strobe))) }

theorem Lane.without_without (n : Fin 256) (c : Instant) (l : Lane) : (l.without n c).without n c = l.without n c := by
  simp [Lane.without, List.filter_filter]

theorem State.foldl_without (n : Fin 256) (c : Instant) (l : List Nat) (s : State) (m : Fin 256) :
    (l.foldl (fun z i => z.modLane (groupLane n i) (Lane.without n c)) s).lanes.at m =
      if ∃ i ∈ l, groupLane n i = m then (s.lanes.at m).without n c else s.lanes.at m := by
  induction l generalizing s with
  | nil => simp
  | cons i l ih =>
    rw [List.foldl_cons, ih, State.modLane_lanes, Bank.at_mod]
    by_cases hi : m = groupLane n i
    · simp [hi, Lane.without_without]
    · simp [hi, Ne.symm hi]

theorem State.dropCaptures_lanes (s : State) (n : Fin 256) (c : Instant) (m : Fin 256) :
    (s.dropCaptures n c).lanes.at m =
      if ∃ i ∈ List.range 16, groupLane n i = m then (s.lanes.at m).without n c else s.lanes.at m :=
  State.foldl_without n c _ s m

theorem State.dropCaptures_group (s : State) (n : Fin 256) (c : Instant) (i : Nat) :
    (s.dropCaptures n c).lanes.at (groupLane n i) = (s.lanes.at (groupLane n i)).without n c := by
  rw [State.dropCaptures_lanes, if_pos ⟨i % 16, List.mem_range.2 (Nat.mod_lt _ (by decide)), groupLane_mod n i⟩]

/-- R484: what the capture pairs see of an edge of a lane in a running half. -/
theorem State.pairsEdge_up {s : State} {n : Fin 256} (t : Instant) (level : Bool) (hup : s.laneUp n = true) (htick : s.ticking = true) :
    s.pairsEdge n t level = { s with
      ta := { s.ta with pairs := s.ta.pairs.map fun x =>
        if (s.lanes.at n).st = .run ∧ bit x.cfg 0 = true ∧ fldN x.cfg 8 8 = n.val then
          { x with pend := x.pend ++ [{ stamp := t, level := level, commitAt := t.ns + BitVec.ofNat 64 (s.lanes.at n).twm }] }
        else x } } := by
  rw [State.pairsEdge]
  dsimp only
  by_cases hst : (s.lanes.at n).st = .run
  · simp [hst, hup, htick]
  · simp [hst]

/-- R146: a lane whose input has changed to `level` at `t`. -/
def Lane.seen (t : Instant) (level : Bool) (l : Lane) : Lane := { l with level := level, hist := noteEdge t level l.hist }

section
variable {s : State} {n : Fin 256} {t : Instant} {level : Bool} (hne : (s.lanes.at n).level ≠ level) (htick : s.ticking = true)
include hne htick

theorem State.inputEdge_first (hc : (s.lanes.at n).cand = none) :
    s.inputEdge n t level =
      (((s.modLane n (Lane.seen t level)).edgeCaptures n t level).pairsEdge n t level).modLane n
        fun l => { l with cand := some t, accLevel := level } := by
  rw [State.inputEdge]
  dsimp only
  rw [if_neg hne, if_pos htick, hc]
  rfl

/-- R147: the filter refuses the change and takes the last one back. -/
theorem State.inputEdge_refused {c : Instant} (hc : (s.lanes.at n).cand = some c)
    (hfilt : (t.quarters - c.quarters).toNat < 4 * (s.lanes.at n).filt) :
    s.inputEdge n t level =
      (((s.modLane n (Lane.seen t level)).dropCaptures n c).pairsDrop n c).modLane n
        fun l => { l with cand := none, accLevel := level } := by
  rw [State.inputEdge]
  dsimp only
  rw [if_neg hne, if_pos htick, hc]
  exact if_pos hfilt

/-- R146, R484: an edge that is accepted at once. -/
theorem State.inputEdge_accepted (hc : (s.lanes.at n).cand = none) (hup : s.laneUp n = true) (hst : (s.lanes.at n).st ≠ .off)
    (hsel : edgeSel (s.lanes.at n).capEdge level = true) (hstrb : ∀ i, (s.lanes.at (groupLane n i)).strbEn = false) :
    s.inputEdge n t level =
      ({ s with
        ta := { s.ta with pairs := s.ta.pairs.map fun x =>
          if (s.lanes.at n).st = .run ∧ bit x.cfg 0 = true ∧ fldN x.cfg 8 8 = n.val then
            { x with pend := x.pend ++ [{ stamp := t, level := level, commitAt := t.ns + BitVec.ofNat 64 (s.lanes.at n).twm }] }
          else x } } : State).modLane n fun l =>
            { (l.seen t level).take .edge level t n.val with cand := some t, accLevel := level } := by
  have hl : (s.modLane n (Lane.seen t level)).lanes.at n = (s.lanes.at n).seen t level := Bank.at_mod_self _ _ _
  have hcap : (s.modLane n (Lane.seen t level)).capturing n = true := by
    rw [State.capturing, hl, Bool.and_eq_true, Bool.and_eq_true, decide_eq_true_eq]
    exact ⟨⟨hup, htick⟩, hst⟩
  have hsel' : edgeSel ((s.modLane n (Lane.seen t level)).lanes.at n).capEdge level = true := hl ▸ hsel
  have hstrb' (i : Nat) : ((s.modLane n (Lane.seen t level)).lanes.at (groupLane n i)).strbEn = false := by
    rw [State.modLane_lanes, Bank.at_mod]
    split
    next hi => exact hi ▸ hstrb i
    next => exact hstrb i
  rw [State.inputEdge_first hne htick hc, State.edgeCaptures_own t level hcap hsel' hstrb', State.pairsEdge_up t level]
  · simp [State.modLane, Bank.mod_eq]
    exact fun _ _ => rfl
  · exact hup
  · exact htick

end

/-- R147: lane `n` after the filter has refused its change. -/
theorem State.refused_lane (s : State) (n : Fin 256) (c : Instant) (level : Bool) :
    (((s.dropCaptures n c).pairsDrop n c).modLane n fun l => { l with cand := none, accLevel := level }).lanes.at n =
      { (s.lanes.at n).without n c with cand := none, accLevel := level } := by
  have h := s.dropCaptures_group n c (n.val % 16)
  rw [groupLane_self] at h
  rw [State.modLane_lanes, Bank.at_mod_self, ← h]
  rfl

/-- R147: no capture of the change that the filter has refused is left in the group. -/
theorem State.refused_pend (s : State) (n : Fin 256) (c : Instant) (level : Bool) (i : Nat) :
    ((((s.dropCaptures n c).pairsDrop n c).modLane n fun l => { l with cand := none, accLevel := level }).lanes.at (groupLane n i)).pend =
      ((s.lanes.at (groupLane n i)).without n c).pend := by
  rw [← s.dropCaptures_group n c i, State.modLane_lanes, Bank.at_mod]
  split
  next hi => rw [hi]; rfl
  next => rfl

theorem State.filtered_changes (s : State) (n : Fin 256) (t c : Instant) (level : Bool) :
    State.Changes [.lanes, .ta] s ((((s.modLane n (Lane.seen t level)).dropCaptures n c).pairsDrop n c).modLane n
      fun l => { l with cand := none, accLevel := level }) :=
  .step (.step (.step ((s.modLane_changes n _).mono rfl) (State.dropCaptures_changes _ n c) rfl)
    (State.pairsDrop_changes _ n c) rfl) (State.modLane_changes _ n _) rfl

/-- R145: what a committed capture says of the levels it read. -/
theorem Lane.entryOf_spec (l : Lane) (p : PendCap) :
    let e := l.entryOf p
    let level (d : Int) : Bool := levelAt l.level (p.stamp.quarters + BitVec.ofInt 66 d) l.hist
    e.kind = p.kind ∧ e.stamp = p.stamp ∧ e.ovfb = l.ovfNext ∧ (p.at_ = [] → e.v = p.v ∧ e.dis = p.dis) ∧
    (∀ d, p.at_ = [d] → e.v = level d ∧ e.dis = false) ∧
    (∀ x y z, p.at_ = [x, y, z] →
      e.v = (level x && level y || level x && level z || level y && level z) ∧
      e.dis = !(decide (level x = level y) && decide (level y = level z))) := by
  dsimp only [Lane.entryOf]
  refine ⟨?kind, ?stamp, rfl, ?mark, ?one, ?three⟩
  case kind => rw [Lane.sampled]; split <;> rfl
  case stamp => rw [Lane.sampled]; split <;> rfl
  case mark => intro h; simp [Lane.sampled, h]
  case one => intro d h; simp [Lane.sampled, h, majority]
  case three => intro x y z h; simp [Lane.sampled, h, majority, beq_eq_decide]

/-- Settles O19. -/
theorem laneCaptures : Obligations.LaneCaptures := by
  refine ⟨?edge, ?commit⟩
  case edge =>
    intro s t n level a l due hist unseen
    have hexec : exec (.laneInputEdge t n level) s = .next (a.inputEdge n t level) := rfl
    rw [hexec]
    clear_value a
    refine ⟨fun h => ?same, fun h hc hcap hsel hstrb => ?accepted, fun c h htick hc hfilt => ?refused⟩
    case same => exact congrArg Host.Outcome.next (if_pos h)
    case accepted =>
      obtain ⟨⟨hup, htick⟩, hst⟩ : (a.laneUp n = true ∧ a.ticking = true) ∧ ((a.lanes.at n).st ≠ .off) := by
        simpa only [State.capturing, Bool.and_eq_true, decide_eq_true_eq] using hcap
      exact congrArg Host.Outcome.next (State.inputEdge_accepted h htick hc hup hst hsel hstrb)
    case refused =>
      rw [State.inputEdge_refused h htick hc hfilt]
      have hn := (a.modLane n (Lane.seen t level)).refused_lane n c level
      have hl : (a.modLane n (Lane.seen t level)).lanes.at n = (a.lanes.at n).seen t level := Bank.at_mod_self _ _ _
      rw [hl] at hn
      refine ⟨_, rfl, ?frame, congrArg Lane.level hn, congrArg Lane.accLevel hn, congrArg Lane.cand hn, congrArg Lane.hist hn, fun i => ?pend⟩
      case frame =>
        have hta : ((a.modLane n (Lane.seen t level)).dropCaptures n c).ta = a.ta :=
          Eq.trans ((State.dropCaptures_changes _ n c).same .ta rfl) rfl
        refine (a.filtered_changes n t c level).frame.trans (congrArg (fun x => ({ a with lanes := State.lanes _, ta := x } : State)) ?_)
        exact congrArg (fun x : TimerArray => { x with pairs := x.pairs.map (unseen c) }) hta
      case pend =>
        rw [State.refused_pend]
        have hseen : ((a.modLane n (Lane.seen t level)).lanes.at (groupLane n i)).pend = (a.lanes.at (groupLane n i)).pend := by
          rw [State.modLane_lanes, Bank.at_mod]
          split
          next hi => rw [hi]; rfl
          next => rfl
        exact congrArg (List.filter _) hseen
  case commit =>
    intro s t n p r a l full hup htick hfirst hnow
    have hexec : exec (.captureCommit t n) s = .next (a.commitCapture n) := rfl
    have hready : a.laneUp n = true ∧ a.ticking = true ∧ notBefore a.now p.commitAt = true := ⟨hup, htick, hnow⟩
    rw [hexec, State.commitCapture]
    dsimp only
    rw [show firstCap (a.lanes.at n).pend = some (p, r) from hfirst]
    dsimp only
    rw [if_pos hready]
    refine ⟨fun hlen => ?room, fun hlen ho hp => ?full, fun hlen c ho hst => ?owner⟩
    case room =>
      rw [if_pos hlen]
      exact ⟨l.entryOf p, rfl, l.entryOf_spec p⟩
    case full =>
      rw [if_neg (Nat.not_lt.2 hlen), if_neg (by tauto), ho]
      rfl
    case owner =>
      rw [if_neg (Nat.not_lt.2 hlen), if_neg (by tauto)]
      exact ⟨_, rfl, (State.breachOf_changes _ _ _).frame, State.breachOf_recorded _ ho (State.detOwner_st (s := a) ho)⟩

end Sys2Proof.Machine

namespace Sys2Proof.Machine

/-! R169 to R187: the control of a stream channel and its records. -/

theorem bit_put (lo v i : Nat) : bit (put lo v) i = (decide (i < 32) && decide (lo ≤ i) && v.testBit (i - lo)) := by
  simp only [bit, put, BitVec.getLsbD_ofNat, Nat.testBit_mul_two_pow, Bool.and_assoc]

theorem bit_or {w : Nat} (x y : BitVec w) (i : Nat) : bit (x ||| y) i = (bit x i || bit y i) := BitVec.getLsbD_or

/-- R178: the bits of a record above its offset. -/
theorem bit_record {i : Nat} (k flags off : Nat) (hi : 21 ≤ i) (h31 : i < 31) :
    bit (record k flags off) i = (decide (29 ≤ i) && k.testBit (i - 29) || decide (24 ≤ i) && flags.testBit (i - 24)) := by
  have hv : bit (putB 31 true) i = false := by
    simpa [show ¬ 31 ≤ i by omega, put, putB] using bit_put 31 1 i
  simp only [record, bit_or, bit_put, hv, Nat.testBit_mod_two_pow]
  simp [show i < 32 by omega, show ¬ i < 21 by omega]

/-- R178, R187: the record of a dropped frame that ends by an abort. -/
theorem record_dropped (trunc code bare : Bool) (off : Nat) :
    let r := record 2 (8 + 4 * b2n trunc + 2 * b2n code + b2n bare) off
    fldN r 29 2 = 2 ∧ bit r 27 = true := by
  dsimp only
  have hkind (i : Nat) (hi : i < 2) :
      bit (record 2 (8 + 4 * b2n trunc + 2 * b2n code + b2n bare) off) (29 + i) = (2#2).getLsbD i := by
    rw [bit_record _ _ _ (by omega) (by omega)]
    interval_cases i <;> cases trunc <;> cases code <;> cases bare <;> rfl
  refine ⟨congrArg BitVec.toNat (BitVec.eq_of_getLsbD_eq (y := 2#2) fun i hi => ?_), ?_⟩
  · rw [BitVec.getLsbD_extractLsb', ← hkind i hi]
    simp [hi, bit]
  · rw [bit_record _ _ _ (by omega) (by omega)]
    cases trunc <;> cases code <;> cases bare <;> rfl

theorem State.sfSettle_of_st {s : State} {n : Fin 128} (h : (s.streams.at n).st ≠ .off) : s.sfSettle n = s := by
  unfold State.sfSettle
  dsimp only
  split
  next hst _ => exact absurd hst h
  next => rfl

theorem State.sfSettle_of_enRec {s : State} {n : Fin 128} (h : (s.streams.at n).enRec = none) : s.sfSettle n = s := by
  unfold State.sfSettle
  dsimp only
  rw [h]
  split
  next he => exact nomatch he
  next => rfl

theorem State.modSf_of_at {s : State} {n : Fin 128} {f : Stream → Stream} {x : Stream} (h : f (s.streams.at n) = x) :
    s.modSf n f = { s with streams := s.streams.upd n x } := by
  rw [State.modSf, Bank.mod_eq, h]

theorem State.sfCplPop_empty {s : State} {n : Fin 128} (h : (s.streams.at n).cpl = []) :
    (s.sfCplPop n).2 = s.modSf n fun c => { c with fifoErr := true } := by
  rw [State.sfCplPop, h]

/-- Settles O21. -/
theorem streamRecords : Obligations.StreamRecords := by
  refine ⟨?each, ?event⟩
  case each =>
    intro s n hup c to_
    refine ⟨fun r l hr hlen hev hst => ?push, fun h => ?popEmpty, fun r l h => ?pop, fun v hlen hev => ?write, fun v hlen => ?writeFull⟩
    case push =>
      have hpush : s.sfRecPush n = s.modSf n fun c => { c with
          recs := l, cpl := c.cpl ++ [r],
          frames := if fldN r 29 2 ≤ 1 ∧ c.frames ≠ 0xFFFF then c.frames + 1 else c.frames } := by
        rw [State.sfRecPush]
        dsimp only
        rw [hr]
        dsimp only
        rw [if_pos ⟨hup, hlen⟩, if_neg (by simpa using hev)]
      refine congrArg Host.Outcome.next (?_ : (s.sfRecPush n).sfSettle n = _)
      rw [State.sfSettle_of_st (by rw [hpush]; simpa using hst), hpush]
      rfl
    case popEmpty =>
      exact congrArg Host.Outcome.next ((if_pos hup).trans (State.sfCplPop_empty h))
    case pop =>
      refine congrArg Host.Outcome.next ((if_pos hup).trans ?_)
      rw [State.sfCplPop, h]
      rfl
    case write =>
      refine congrArg Host.Outcome.next ((if_pos hup).trans ?_)
      rw [State.sfCplPush]
      dsimp only
      rw [if_pos hlen, if_neg (by simpa using hev)]
      rfl
    case writeFull =>
      refine congrArg Host.Outcome.next ((if_pos hup).trans ?_)
      exact if_neg (Nat.not_lt.2 hlen)
  case event =>
    intro s n r l hup c hr hlen hev hst
    have hpush : s.sfRecPush n = (s.modSf n fun c => { c with
        recs := l, cpl := c.cpl ++ [r],
        frames := if fldN r 29 2 ≤ 1 ∧ c.frames ≠ 0xFFFF then c.frames + 1 else c.frames }).fire (fldN c.evt 0 8) := by
      rw [State.sfRecPush]
      dsimp only
      rw [hr]
      dsimp only
      rw [if_pos ⟨hup, hlen⟩, if_pos hev]
    refine congrArg Host.Outcome.next (?_ : (s.sfRecPush n).sfSettle n = _)
    rw [State.sfSettle_of_st (by rw [hpush]; simpa using hst), hpush]
    rfl

end Sys2Proof.Machine

namespace Sys2Proof.Machine

/-! R169 to R187: a stream channel is set up and leaves its states. -/

/-! Port B: its accesses touch the memories alone. -/

/-- R376, R377: the collisions of port-B accesses, on the memories. -/
def Mem.collideAll (m : Mem) (n : Fin 128) (xs : List PortA) (bwr : Bool) (lo hi : Nat) : Mem :=
  xs.foldl (init := m) fun m p =>
    if (p.write ∨ bwr) ∧ lo < hi ∧ lo / 8 ≤ p.off.toNat / 8 ∧ p.off.toNat / 8 * 8 < hi then m.collide p n bwr else m

theorem State.collide_eq (s : State) (n : Fin 128) (xs : List PortA) (bwr : Bool) (lo hi : Nat) :
    s.collide n xs bwr lo hi = { s with mem := s.mem.collideAll n xs bwr lo hi } := by
  unfold State.collide Mem.collideAll
  induction xs generalizing s with
  | nil => rfl
  | cons p xs ih =>
    rw [List.foldl_cons, List.foldl_cons, ih]
    split <;> rfl

theorem State.collide_nil (s : State) (n : Fin 128) (bwr : Bool) (lo hi : Nat) : s.collide n [] bwr lo hi = s := rfl

theorem State.portB_snd (s : State) (o : Nat) : (s.portB o).2 = { s with mem := (s.mem.read sfReq (0x1000000 + o) 8).2 } := rfl

theorem State.portB_congr {s t : State} (h : s.mem = t.mem) (o : Nat) :
    (s.portB o).1 = (t.portB o).1 ∧ (s.portB o).2.mem = (t.portB o).2.mem := by
  simp [State.portB, State.memRead, h]

/-- R170: the work on a frame once word 0, `d`, of the descriptor at `p` is read. -/
def TxWork.described (t : TxWork) (p d : Nat) : TxWork :=
  { t with desc := p, fetched := true, buf := d % 2 ^ 21, left := d / 2 ^ 32 % 2 ^ 16, eof := (d / 2 ^ 48 % 2 == 1),
           crcOn := (d / 2 ^ 49 % 2 == 1), evt := (d / 2 ^ 50 % 2 == 1) }

/-- R170: a descriptor whose word 0 is read and accepted. -/
theorem State.sfNext_spec {s : State} {n : Fin 128} {xs : List PortA} {p d : Nat} {m : Mem} (fresh : Bool)
    (hread : ((s.collide n xs false p (p + 8)).portB p).1 = some d) (hm : ((s.collide n xs false p (p + 8)).portB p).2.mem = m)
    (hlen : d / 2 ^ 32 % 2 ^ 16 ≠ 0) (hfit : d % 2 ^ 21 + d / 2 ^ 32 % 2 ^ 16 ≤ 2 ^ 21) :
    ∃ t : TxWork, s.sfNext n xs p fresh =
      { s with streams := s.streams.upd n { s.streams.at n with tx := some (t.described p d), cur := p }, mem := m } := by
  rw [State.collide_eq] at hread hm
  rw [State.sfNext, State.collide_eq]
  unfold State.sfReadDesc
  extract_lets c t0 s0
  clear_value t0
  have hs0 : s0.portB p = (some d, { s0 with mem := m }) := by
    refine Prod.ext ((State.portB_congr ?_ p).1.trans hread) ((State.portB_snd s0 p).trans ?_)
    · rfl
    · exact congrArg (fun m => ({ s0 with mem := m } : State)) (hm ▸ rfl)
  rw [hs0]
  dsimp only
  rw [if_neg (not_or.2 ⟨hlen, Nat.not_lt.2 hfit⟩)]
  refine ⟨t0, ?_⟩
  simp [State.modSf, Bank.mod_eq, s0, TxWork.described]
  rfl

/-! R186, R187: the states of a channel. -/

/-- R187: OFF keeps the rest of a chain alone. -/
theorem Stream.toOff_spec (c : Stream) :
    c.toOff = { c with st := .off, cfg := c.cfg &&& ~~~1, tx := c.toOff.tx, cur := c.toOff.cur, queued := c.toOff.queued } ∧
    (c.tx = none → c.toOff.tx = none ∧ c.toOff.cur = c.cur) := by
  unfold Stream.toOff
  dsimp only
  cases c.tx with
  | none => exact ⟨rfl, fun _ => ⟨rfl, rfl⟩⟩
  | some t =>
    dsimp only
    split <;> exact ⟨rfl, fun h => nomatch h⟩

@[simp] theorem Stream.toOff_st (c : Stream) : c.toOff.st = .off := by rw [c.toOff_spec.1]
@[simp] theorem Stream.toOff_cfg (c : Stream) : c.toOff.cfg = c.cfg &&& ~~~1 := by rw [c.toOff_spec.1]
@[simp] theorem Stream.toOff_enRec (c : Stream) : c.toOff.enRec = c.enRec := by rw [c.toOff_spec.1]
@[simp] theorem Stream.toOff_rx (c : Stream) : c.toOff.rx = c.rx := by rw [c.toOff_spec.1]
@[simp] theorem Stream.toOff_recs (c : Stream) : c.toOff.recs = c.recs := by rw [c.toOff_spec.1]
@[simp] theorem Stream.toOff_cpl (c : Stream) : c.toOff.cpl = c.cpl := by rw [c.toOff_spec.1]
@[simp] theorem Stream.toOff_wp (c : Stream) : c.toOff.wp = c.wp := by rw [c.toOff_spec.1]
@[simp] theorem Stream.toOff_rp (c : Stream) : c.toOff.rp = c.rp := by rw [c.toOff_spec.1]

theorem bit_clear_zero (x : W32) : bit (x &&& ~~~1) 0 = false := by simp [bit]

/-- R187: the fields that a write of SFn_CFG changes while EN is 1. -/
def Stream.noted (v : W32) (c : Stream) : Stream :=
  { c with cfg := mrg 0x70000009 c.cfg (v &&& sfCfgMask),
           cfgIgn := c.cfgIgn || decide ((c.cfg ^^^ (v &&& sfCfgMask)) &&& ~~~0x70000009 ≠ 0) }

/-- R187: an abort of a TX frame that has started: its ABORT entry is still to pass. -/
theorem Stream.abort_tx {c : Stream} {f : TxWork} (hrx : c.rx? = false) (hf : c.tx = some f) (hs : f.started = true) :
    c.abort = { c with abortEnt := true, cur := if c.chain then f.first else c.cur, tx := if c.chain then some f.again else none,
                       st := .draining, cfg := c.cfg &&& ~~~1 } := by
  simp [Stream.abort, hrx, hf, hs, Stream.leave]

/-- R187: an abort of an RX frame ends it with a DROPPED record. -/
theorem Stream.abort_rx {c : Stream} {f : RxWork} (hrx : c.rx? = true) (hf : c.rx = some f) (ha : c.abortEnt = false) :
    c.abort = ({ c with rx := none, drops := if c.drops = 0xFFFF then c.drops else c.drops + 1,
                        trunc := c.trunc || f.trunc, codeErr := c.codeErr || f.codeErr }.addRec
          (record 2 (8 + 4 * b2n f.trunc + 2 * b2n f.codeErr + b2n f.stamp.isNone) c.wp)).toOff := by
  simp [Stream.abort, hrx, hf, ha, Stream.leave, Stream.addRec]

/-- R354: the last write of DRAINING, with EN at 0, is taken in OFF. -/
theorem State.sfSettle_upd {s : State} {n : Fin 128} {v : W32} {x : Stream} (hst : x.st = .off) (hr : x.enRec = some v)
    (hv : bit v 0 = false) : State.sfSettle { s with streams := s.streams.upd n x } n =
      { s with streams := s.streams.upd n { x with enRec := none, cfg := v } } := by
  unfold State.sfSettle
  dsimp only
  rw [Bank.at_upd_self, hst, hr]
  simp [State.sfCfgOff, hv, State.modSf, Bank.mod_eq, hst]

section
variable {s : State} {n : Fin 128} {v : W32} (hup : s.sfUp n = true)
include hup

/-- R186: an enable in OFF. -/
theorem State.sfEnable_of_off (hst : (s.streams.at n).st = .off) (hen : bit (s.streams.at n).cfg 0 = false) (hv : bit v 0 = true) :
    exec (.sfEnable n v) s = .next (s.sfEnable n (v &&& sfCfgMask)) := by
  have hw : bit (v &&& sfCfgMask) 0 = true := by simpa [bit, sfCfgMask] using hv
  refine congrArg Host.Outcome.next ((if_pos ⟨hup, by simpa using hen, hv⟩).trans ?_)
  rw [State.sfCfg]
  dsimp only
  rw [if_pos hst, State.sfCfgOff, if_pos hw]

/-- R187: a disable outside OFF and DRAINING. -/
theorem State.sfDisable_of_enabled (hst : (s.streams.at n).st ≠ .off) (hst' : (s.streams.at n).st ≠ .draining)
    (hen : bit (s.streams.at n).cfg 0 = true) (hv : bit v 0 = false) :
    exec (.sfDisable n v) s = .next (
      let s1 := s.modSf n (Stream.noted v)
      match (s.streams.at n).st with
      | .active =>
        if (s.streams.at n).inFlight then
          if bit v 3 then s1.modSf n Stream.abort
          else s1.modSf n fun c => { c with st := .draining, cfg := c.cfg &&& ~~~1 }
        else s1.modSf n Stream.leave
      | .idle => s1.modSf n Stream.toOff
      | .error => s1.modSf n Stream.toOff
      | _ => s1) := by
  have hw : bit (v &&& sfCfgMask) 0 = false := by simpa [bit, sfCfgMask] using hv
  have hw3 : bit (v &&& sfCfgMask) 3 = bit v 3 := by simp [bit, sfCfgMask]
  refine congrArg Host.Outcome.next ((if_pos ⟨hup, hen, by simpa using hv⟩).trans ?_)
  unfold State.sfCfg
  dsimp only
  rw [if_neg hst, if_neg hst', if_neg (by simp [hen]), hw, hw3]
  cases (s.streams.at n).st <;> rfl

/-- R187: ABORT in DRAINING. -/
theorem State.sfAbort_of_draining (hst : (s.streams.at n).st = .draining) (hv : bit v 3 = true) :
    exec (.sfAbort n v) s = .next ((s.modSf n fun c =>
      Stream.abort { c with cfg := mrg 0x70000008 c.cfg (v &&& sfCfgMask), enRec := some (v &&& sfCfgMask) }).sfSettle n) := by
  have hw : bit (v &&& sfCfgMask) 3 = true := by simpa [bit, sfCfgMask] using hv
  refine congrArg Host.Outcome.next ((if_pos ⟨hup, hst, hv⟩).trans ?_)
  unfold State.sfCfg
  dsimp only
  rw [if_neg (by simp [hst]), if_pos hst, if_pos hw]
  simp [State.modSf, Bank.mod_eq]

end

section
variable {s : State} {n : Fin 128} (hst : (s.streams.at n).st = .idle) (hrx : (s.streams.at n).rx? = false)
include hst hrx

/-- R169, R170: the work on a frame that GO starts. -/
def State.txStart (s : State) (n : Fin 128) (fetched : Bool) : TxWork :=
  let c := s.streams.at n
  { first := c.base, desc := c.base, fetched := fetched, buf := c.base, left := if fetched then fldN c.len 0 16 else 0,
    eof := true, crcOn := true, evt := true, crc := (s.crcs.at (sfCrc n c)).settings.init, code := s.codeStart n,
    nib := [], bits := [], fin := false, closed := false, started := false }

theorem State.sfGo_single (hch : (s.streams.at n).chain = false) (hlen : fldN (s.streams.at n).len 0 16 ≠ 0)
    (hfit : (s.streams.at n).base + fldN (s.streams.at n).len 0 16 ≤ 2 ^ 21) :
    s.sfGo n = { s with streams := s.streams.upd n { s.streams.at n with
      laddr := (s.streams.at n).base, llen := fldN (s.streams.at n).len 0 16, st := .active, queued := false,
      tx := some (s.txStart n true) } } := by
  unfold State.sfGo
  dsimp only
  rw [if_pos ⟨hst, by simpa using hrx⟩, hch, if_neg (by decide), if_neg (not_or.2 ⟨hlen, Nat.not_lt.2 hfit⟩)]
  simp only [State.modSf, Bank.mod_eq, Bank.at_upd_self, Bank.upd_upd]
  rfl

theorem State.sfGo_chain (hch : (s.streams.at n).chain = true) (hal : (s.streams.at n).base % 16 = 0) :
    s.sfGo n = { s with streams := s.streams.upd n { s.streams.at n with
      laddr := (s.streams.at n).base, llen := fldN (s.streams.at n).len 0 16, st := .active, queued := false,
      cur := (s.streams.at n).base, tx := some (s.txStart n false) } } := by
  unfold State.sfGo
  dsimp only
  rw [if_pos ⟨hst, by simpa using hrx⟩, hch, if_pos rfl, if_neg (not_not.2 hal)]
  simp only [State.modSf, Bank.mod_eq, Bank.at_upd_self, Bank.upd_upd]
  rfl

/-- R172: a SINGLE frame of no bytes. -/
theorem State.sfGo_empty (hch : (s.streams.at n).chain = false) (hlen : fldN (s.streams.at n).len 0 16 = 0) :
    s.sfGo n = { s with streams := s.streams.upd n (Stream.enterError { s.streams.at n with
      laddr := (s.streams.at n).base, llen := fldN (s.streams.at n).len 0 16, queued := false, tx := none }
      .desc (s.streams.at n).base) } := by
  unfold State.sfGo
  dsimp only
  rw [if_pos ⟨hst, by simpa using hrx⟩, hch, if_neg (by decide), if_pos (Or.inl hlen)]
  have hch' : bit (s.streams.at n).cfg 2 = false := hch
  simp only [State.sfError, State.modSf, Bank.mod_eq, Bank.at_upd_self, Bank.upd_upd, Stream.chain, hch']
  rfl

end

/-- Settles O20. -/
theorem streamControl : Obligations.StreamControl := by
  refine ⟨?cfg, ?ctrl⟩
  case cfg =>
    intro s n v hup c w to_
    refine ⟨fun hst hen hv hok hrx => ?rx, fun hst hen hv hok hrx => ?tx, fun hst hen hv hok => ?refused, fun hst hen hv => ?disable,
      fun hst hin hen hv hv3 => ?drain, fun f hst hrx hf hs hc hv hv3 => ?abortTx, fun f hst hrx hf ha hv hv3 => ?abortRx⟩
    case rx =>
      have hrx' : bit (v &&& sfCfgMask) 1 = true := by simpa [bit, sfCfgMask] using hrx
      rw [State.sfEnable_of_off hup hst hen hv, State.sfEnable, if_pos (show s.sfCfgOk n (v &&& sfCfgMask) = true from hok)]
      simp only [hrx', if_true]
      rfl
    case tx =>
      have hrx' : bit (v &&& sfCfgMask) 1 = false := by simpa [bit, sfCfgMask] using hrx
      have h2 : bit (v &&& sfCfgMask) 2 = bit v 2 := by simp [bit, sfCfgMask]
      rw [State.sfEnable_of_off hup hst hen hv, State.sfEnable, if_pos (show s.sfCfgOk n (v &&& sfCfgMask) = true from hok)]
      simp only [hrx', h2]
      rfl
    case refused =>
      rw [State.sfEnable_of_off hup hst hen hv, State.sfEnable, if_neg (by rw [show s.sfCfgOk n (v &&& sfCfgMask) = false from hok]; decide)]
      rfl
    case disable =>
      have hno : (s.streams.at n).st ≠ .off ∧ (s.streams.at n).st ≠ .draining := by
        rcases hst with h | h <;> simp [show (s.streams.at n).st = _ from h]
      have hoff : exec (.sfDisable n v) s = to_ (c.noted v).toOff := by
        rw [State.sfDisable_of_enabled hup hno.1 hno.2 hen hv]
        rcases hst with hst | hst <;> rw [show (s.streams.at n).st = _ from hst] <;>
          simp [State.modSf, Bank.mod_eq, to_, c]
      refine ⟨_, hoff, Stream.toOff_st _, ?_, Stream.toOff_cpl _, Stream.toOff_recs _, Stream.toOff_rx _, Stream.toOff_wp _,
        Stream.toOff_rp _, (c.noted v).toOff_spec.2⟩
      rw [Stream.toOff_cfg]
      exact bit_clear_zero _
    case drain =>
      have hdrain : exec (.sfDisable n v) s =
          to_ { c.noted v with st := .draining, cfg := (c.noted v).cfg &&& ~~~1 } := by
        rw [State.sfDisable_of_enabled hup (fun k => nomatch hst.symm.trans k) (fun k => nomatch hst.symm.trans k) hen hv]
        rw [show (s.streams.at n).st = _ from hst]
        dsimp only
        rw [if_pos hin, if_neg (by simp [hv3])]
        simp [State.modSf, Bank.mod_eq, to_, c]
      exact ⟨_, hdrain, rfl, rfl, rfl, rfl, rfl⟩
    case abortTx =>
      have hrx' : Stream.rx? { c with cfg := mrg 0x70000008 c.cfg w, enRec := some w } = false :=
        (bit_mrg _ _ _ _).trans hrx
      have hch : Stream.chain { c with cfg := mrg 0x70000008 c.cfg w, enRec := some w } = c.chain := bit_mrg _ _ _ _
      have hab : Stream.abort { c with cfg := mrg 0x70000008 c.cfg w, enRec := some w } = _ := Stream.abort_tx hrx' hf hs
      rw [State.sfAbort_of_draining hup hst hv3, State.modSf_of_at hab, State.sfSettle_of_st (by simp), hch]
      refine ⟨_, rfl, rfl, rfl, rfl, fun hc => ?_, fun hc => ?_⟩
      · simp [hc, TxWork.again, ‹f.closed = false›]
      · simp [hc]
    case abortRx =>
      have hrx' : Stream.rx? { c with cfg := mrg 0x70000008 c.cfg w, enRec := some w } = true :=
        (bit_mrg _ _ _ _).trans hrx
      have hab : Stream.abort { c with cfg := mrg 0x70000008 c.cfg w, enRec := some w } = _ := Stream.abort_rx hrx' hf ha
      have hw : bit w 0 = false := by simpa [bit, w] using hv
      rw [State.sfAbort_of_draining hup hst hv3, State.modSf_of_at hab, State.sfSettle_upd (v := w) (by simp) (by simp [Stream.addRec]) hw]
      obtain ⟨hkind, habort⟩ := record_dropped f.trunc f.codeErr f.stamp.isNone c.wp
      refine ⟨_, _, rfl, ?_, rfl, ?_, ?_, hkind, habort, ?_⟩ <;> simp [Stream.addRec]
  case ctrl =>
    intro s n hup c to_ start
    refine ⟨fun hst hrx hch hlen hfit => ?single, fun hst hrx hch hal => ?chain, fun hst hrx hch hlen => ?bad, fun h => ?noGo,
      fun w d z xs hst hrx hch hread => ?cont, fun xs hst => ?noCont, fun hst hen => ?clear, fun hst hrx => ?flushRx, fun hst hrx => ?flushTx, fun hst => ?noFlush⟩
    case single =>
      have hgo : s.sfGo n = _ := State.sfGo_single hst hrx hch hlen hfit
      exact congrArg Host.Outcome.next ((if_pos hup).trans hgo)
    case chain =>
      have hgo : s.sfGo n = _ := State.sfGo_chain hst hrx hch hal
      exact congrArg Host.Outcome.next ((if_pos hup).trans hgo)
    case bad =>
      have hgo : s.sfGo n = _ := State.sfGo_empty hst hrx hch hlen
      exact ⟨_, congrArg Host.Outcome.next ((if_pos hup).trans hgo), rfl, rfl, rfl, rfl⟩
    case noGo =>
      refine congrArg Host.Outcome.next ((if_pos hup).trans (if_neg ?_))
      rcases h with h | h
      · exact fun k => h k.1
      · simp [show (s.streams.at n).rx? = true from h]
    case cont =>
      have hz : z = { s with mem := z.mem } := by
        have h := congrArg Prod.snd hread
        rw [State.collide_eq, State.portB_snd] at h
        exact h.symm.trans (congrArg (fun m => ({ s with mem := m } : State)) (congrArg State.mem h))
      have hcont : exec (.sfCont n xs) s = .next
          (if w % 2 = 1 then (z.modSf n fun c => { c with st := .active, tx := none }).sfNext n xs (w / 16 % 2 ^ 17 * 16) true else z) := by
        refine congrArg Host.Outcome.next ((if_pos hup).trans ((if_pos ⟨hst, by simpa using hrx, hch⟩).trans ?_))
        rw [State.sfLink, hread]
      rw [hcont]
      refine ⟨fun hw => ?_, fun hw hd hlen hfit => ?_⟩
      · rw [if_neg (by omega)]
      · rw [if_pos hw]
        have hread' := State.portB_congr (s := (z.modSf n fun c => { c with st := .active, tx := none }).collide n xs false
          (w / 16 % 2 ^ 17 * 16) (w / 16 % 2 ^ 17 * 16 + 8)) (t := z.collide n xs false (w / 16 % 2 ^ 17 * 16) (w / 16 % 2 ^ 17 * 16 + 8))
          (by rw [State.collide_eq, State.collide_eq]; rfl) (w / 16 % 2 ^ 17 * 16)
        obtain ⟨t, ht⟩ := State.sfNext_spec true (hread'.1.trans hd) rfl hlen hfit
        have hzs : z.streams = s.streams := by rw [hz]
        rw [ht]
        refine ⟨_, t.described (w / 16 % 2 ^ 17 * 16) d, rfl, ?frame, fun m hm => ?_, ?_, ?_, ?_, rfl, rfl, rfl⟩
        case frame => rw [hz]; rfl
        · exact (Bank.at_upd_ne _ _ hm).trans (congrArg (fun b : Bank Stream 128 => b.at m)
            (congrArg (fun b : Bank Stream 128 => b.upd n _) hzs) |>.trans (Bank.at_upd_ne _ _ hm))
        all_goals simp
    case noCont => exact congrArg Host.Outcome.next ((if_pos hup).trans (if_neg fun k => hst k.1))
    case clear =>
      refine congrArg Host.Outcome.next ((if_pos hup).trans ?_)
      exact State.modSf_of_at (if_pos ⟨hst, hen⟩)
    case flushRx =>
      refine congrArg Host.Outcome.next ((if_pos hup).trans ?_)
      exact State.modSf_of_at ((if_pos hst).trans (if_pos hrx))
    case flushTx =>
      refine congrArg Host.Outcome.next ((if_pos hup).trans ?_)
      exact State.modSf_of_at ((if_pos hst).trans (if_neg (Bool.eq_false_iff.1 hrx)))
    case noFlush =>
      refine congrArg Host.Outcome.next ((if_pos hup).trans ?_)
      refine (State.modSf_of_at (if_neg ?_)).trans ?_
      · rcases hst with h | h <;> simp [show (s.streams.at n).st = _ from h]
      · rw [Bank.upd_at]

end Sys2Proof.Machine

namespace Sys2Proof.Machine

/-! R49, R374 to R381: what the memories read back. -/

theorem Mem.byte_congr {m k : Mem} (h : m.cells = k.cells) (b : Nat) : m.byte b = k.byte b := by rw [Mem.byte, Mem.byte, h]

theorem Mem.setNum_unc (m : Mem) (a n v : Nat) : (m.setNum a n v).unc = m.unc := by
  obtain ⟨c, h⟩ := Mem.setNum_frame n m a v
  rw [h]

theorem Mem.setNum_corr (m : Mem) (a n v : Nat) : (m.setNum a n v).corr = m.corr := by
  obtain ⟨c, h⟩ := Mem.setNum_frame n m a v
  rw [h]

/-- R374: every byte after a write. -/
theorem Mem.byte_write (m : Mem) (req a n v b : Nat) (h : Memory.wf m = true) :
    (m.write req a n v).byte b = if a ≤ b ∧ b < a + n then BitVec.ofNat 8 (v / 256 ^ (b - a)) else m.byte b := by
  unfold Mem.write
  split
  next h8 =>
    subst h8
    exact Mem.byte_setNum 8 _ a v b h
  next =>
    have hc := m.check_cells req (a / 8)
    rw [Mem.byte_setNum n _ a v b ((Memory.wf_congr hc).trans h), Mem.byte_congr hc]

/-- A number whose bytes are those of `v`. -/
theorem Mem.num_of_bytes (n : Nat) : ∀ (m : Mem) (a v : Nat), v < 256 ^ n →
    (∀ i, i < n → m.byte (a + i) = BitVec.ofNat 8 (v / 256 ^ i)) → m.num a n = v := by
  induction n with
  | zero =>
    intro m a v hv _
    rw [Mem.num]
    omega
  | succ n ih =>
    intro m a v hv h
    have h0 := h 0 (Nat.succ_pos n)
    have hr : m.num (a + 1) n = v / 256 := by
      refine ih m (a + 1) (v / 256) (Nat.div_lt_of_lt_mul (by rwa [Nat.pow_succ'] at hv)) fun i hi => ?_
      rw [Nat.add_right_comm, Nat.add_assoc, h (i + 1) (Nat.succ_lt_succ hi), Nat.div_div_eq_div_mul, ← Nat.pow_succ']
    rw [Mem.num, hr, ← Nat.add_zero a, h0]
    simp only [Nat.pow_zero, Nat.div_one, BitVec.toNat_ofNat]
    omega

/-- R374: a write is read back. -/
theorem Mem.num_write (m : Mem) (req a n v : Nat) (h : Memory.wf m = true) (hv : v < 256 ^ n) : (m.write req a n v).num a n = v := by
  refine Mem.num_of_bytes n _ a v hv fun i hi => ?_
  rw [Mem.byte_write m req a n v _ h, if_pos (by omega), Nat.add_sub_cancel_left]

/-- R381: a write of a whole word leaves no error in it. -/
theorem Mem.write_word_unc (m : Mem) (req a v w : Nat) : w ∈ (m.write req a 8 v).unc ↔ w ∈ m.unc ∧ w ≠ a / 8 := by
  rw [Mem.write, if_pos rfl, Mem.setNum_unc]
  simp [List.mem_filter]

theorem Mem.write_word_corr (m : Mem) (req a v w : Nat) : w ∈ (m.write req a 8 v).corr ↔ w ∈ m.corr ∧ w ≠ a / 8 := by
  rw [Mem.write, if_pos rfl, Mem.setNum_corr]
  simp [List.mem_filter]

/-! R378 to R380: a read meets the errors of its word. -/

theorem Mem.read_of_unc {m : Mem} {a : Nat} (req n : Nat) (h : a / 8 ∈ m.unc) : m.read req a n = (none, m.noteUnc req (a / 8)) := by
  simp [Mem.read, Mem.check, h]

theorem Mem.num_noteCorr (m : Mem) (w a n : Nat) : (m.noteCorr w).num a n = m.num a n :=
  Mem.num_congr n _ _ a fun b _ _ => Mem.byte_congr (m.noteCorr_cells w) b

theorem Mem.read_of_corr {m : Mem} {a : Nat} (req n : Nat) (hu : a / 8 ∉ m.unc) (hc : a / 8 ∈ m.corr) :
    m.read req a n = (some (m.num a n), m.noteCorr (a / 8)) := by
  simp [Mem.read, Mem.check, hu, hc, Mem.num_noteCorr]

/-- A read of a word without errors changes nothing. -/
theorem Mem.read_of_clean {m : Mem} {a : Nat} (req n : Nat) (hu : a / 8 ∉ m.unc) (hc : a / 8 ∉ m.corr) :
    m.read req a n = (some (m.num a n), m) := by
  simp [Mem.read, Mem.check, hu, hc]

theorem sat255_eq {x : Nat} (h : x ≤ 255) : sat255 x = min 255 (x + 1) := by
  unfold sat255
  split <;> omega

/-! R253: the context microcode writes two words at a time. -/

/-- The byte `k` of a pair of words. -/
theorem byte_of_pair (x y : W32) (k : Nat) (hk : k < 8) :
    BitVec.ofNat 8 ((x.toNat + 2 ^ 32 * y.toNat) / 256 ^ k) = fld (if k < 4 then x else y) (8 * (k % 4)) 8 := by
  have hx := x.isLt
  apply BitVec.eq_of_toNat_eq
  simp only [fld, BitVec.extractLsb'_toNat, BitVec.toNat_ofNat, Nat.shiftRight_eq_div_pow]
  interval_cases k <;> simp <;> omega

theorem State.byte_ctxWrite (s : State) (n : Fin 16) (a : Nat) (l : List W32) (b : Nat) (hw : Memory.wf s.mem = true) (hl : l.length % 2 = 0) :
    (s.ctxWrite n a l).mem.byte b = if a ≤ b ∧ b < a + 4 * l.length then
      fld (l.getD ((b - a) / 4) 0) (8 * ((b - a) % 4)) 8 else s.mem.byte b := by
  fun_induction State.ctxWrite s n a l with
  | case1 s a x y r ih =>
    rw [ih (s.memWrite_wf _ _ _ _ hw) (by simp at hl; omega), State.memWrite_mem, Mem.byte_write _ _ _ _ _ _ hw]
    simp only [List.length_cons]
    by_cases h8 : a ≤ b ∧ b < a + 8
    · obtain ⟨k, rfl⟩ := Nat.exists_eq_add_of_le h8.1
      have hk : k < 8 := by omega
      rw [if_neg (by omega), if_pos h8, if_pos (by omega), Nat.add_sub_cancel_left, byte_of_pair x y k hk]
      interval_cases k <;> rfl
    · rw [if_neg h8]
      by_cases hr : a + 8 ≤ b ∧ b < a + 8 + 4 * r.length
      · obtain ⟨k, rfl⟩ := Nat.exists_eq_add_of_le hr.1
        rw [if_pos hr, if_pos (by omega), Nat.add_sub_cancel_left, show a + 8 + k - a = k + 8 by omega, show (k + 8) / 4 = k / 4 + 2 by omega,
          show (k + 8) % 4 = k % 4 by omega]
        rfl
      · rw [if_neg hr, if_neg (by omega)]
  | case2 s a x => simp at hl
  | case3 s a => simp

/-- Settles O46. -/
theorem memoryReadsBack : Obligations.MemoryReadsBack := by
  refine ⟨?bytes, ?back, ?errors, ?ctx, ?read, ?collide⟩
  case bytes => exact fun m req a n v b h => m.byte_write req a n v b h
  case back => exact fun m req a n v h hv => m.num_write req a n v h hv
  case errors => exact fun m req a v w => ⟨m.write_word_unc req a v w, m.write_word_corr req a v w⟩
  case ctx => exact fun s n a b l hw hl => s.byte_ctxWrite n a l b hw hl
  case read =>
    intro m req a n k hk hcnt u cnt
    have hk' : memOf (8 * (a / 8)) = some k := by rwa [Nat.mul_comm]
    refine ⟨fun hu => ?_, fun hu hc => ?_, fun hu hc => Mem.read_of_clean req n hu hc⟩
    · rw [Mem.read_of_unc req n hu, Mem.noteUnc, hk', UncRec.note, sat255_eq hcnt, Nat.mul_comm 8]
      rfl
    · rw [Mem.read_of_corr req n hu hc, Mem.noteCorr, hk']
      refine ⟨rfl, ?_⟩
      have hsat (c : Byte) : (if c = 255 then c else c + 1) = if c = 255 then 255 else c + 1 := if_ctx_congr Iff.rfl id fun _ => rfl
      dsimp only
      rw [Bank.mod_eq, hsat]
  case collide =>
    intro m x ch wr hcnt o
    rw [Mem.collide, sat255_eq hcnt]

end Sys2Proof.Machine

namespace Sys2Proof.Machine

/-! R167 to R180: the data of a stream channel. -/

theorem State.sfSettle_upd_st {s : State} {n : Fin 128} {e : Bank Engine 64} {x : Stream} (h : x.st ≠ .off) :
    State.sfSettle { s with engines := e, streams := s.streams.upd n x } n = { s with engines := e, streams := s.streams.upd n x } :=
  State.sfSettle_of_st (by simpa using h)

theorem State.sfSettle_upd_enRec {s : State} {n : Fin 128} {e : Bank Engine 64} {x : Stream} (h : x.enRec = none) :
    State.sfSettle { s with engines := e, streams := s.streams.upd n x } n = { s with engines := e, streams := s.streams.upd n x } :=
  State.sfSettle_of_enRec (by simpa using h)

/-! R167, R173: received bits become bytes, and eight bytes a word of the ring. -/

/-- The number that the `k` low bits of `x` make. -/
theorem bitsNat_testBit (x k : Nat) : bitsNat ((List.range k).map x.testBit) = x % 2 ^ k := by
  induction k generalizing x with
  | zero => simp [bitsNat, Nat.mod_one]
  | succ k ih =>
    have htail : (List.range k).map (x.testBit ∘ Nat.succ) = (List.range k).map (x / 2).testBit :=
      List.map_congr_left fun i _ => Nat.testBit_succ x i
    rw [List.range_succ_eq_map, List.map_cons, List.map_map, htail, bitsNat, ih, Nat.testBit_zero, Nat.pow_succ', Nat.mod_mul]
    rcases Nat.mod_two_eq_zero_or_one x with h | h <;> simp [h, b2n]

/-- The byte `j` of a word. -/
def byteOf (d : W64) (j : Nat) : Byte := BitVec.ofNat 8 (d.toNat / 256 ^ j)

/-- The bits of the byte `j` of a word. -/
def bitsOf (d : W64) (j : Nat) : List Bool := (List.range 8).map fun i => d.getLsbD (8 * j + i)

theorem bitsOf_length (d : W64) (j : Nat) : (bitsOf d j).length = 8 := by simp [bitsOf]

theorem byteOf_bits (d : W64) (j : Nat) : BitVec.ofNat 8 (bitsNat (bitsOf d j)) = byteOf d j := by
  have hbits : bitsOf d j = (List.range 8).map (d.toNat / 256 ^ j).testBit :=
    List.map_congr_left fun i _ => by
      rw [BitVec.getLsbD, show 256 ^ j = 2 ^ (8 * j) by rw [Nat.pow_mul], Nat.testBit_div_two_pow, Nat.add_comm]
  rw [hbits, bitsNat_testBit, byteOf]
  exact BitVec.eq_of_toNat_eq (by simp)

theorem foldr_bytes (d k : Nat) :
    ((List.range k).map fun j => BitVec.ofNat 8 (d / 256 ^ j)).foldr (init := 0) (fun b acc => b.toNat + 256 * acc) = d % 256 ^ k := by
  induction k generalizing d with
  | zero => simp [Nat.mod_one]
  | succ k ih =>
    have htail : (List.range k).map ((fun j => BitVec.ofNat 8 (d / 256 ^ j)) ∘ Nat.succ) =
        (List.range k).map fun j => BitVec.ofNat 8 (d / 256 / 256 ^ j) :=
      List.map_congr_left fun i _ => by
        rw [Function.comp_apply, Nat.succ_eq_add_one, Nat.pow_succ', Nat.div_div_eq_div_mul]
    rw [List.range_succ_eq_map, List.map_cons, List.map_map, htail, List.foldr_cons, ih, Nat.pow_succ', Nat.mod_mul]
    simp

theorem foldr_byteOf (d : W64) :
    ((List.range 8).map (byteOf d)).foldr (init := 0) (fun b acc => b.toNat + 256 * acc) = d.toNat :=
  (foldr_bytes d.toNat 8).trans (Nat.mod_eq_of_lt d.isLt)

/-- The bits of an entry of 64, byte by byte. -/
theorem OutEntry.bits_full {e : OutEntry} (h : e.nbits = 63) :
    e.bits = (List.range 8).flatMap (bitsOf e.data) := by
  rw [OutEntry.bits, h]
  rfl

/-- Where reception has got to inside a word: the state is `s`, no word has missed its space, `word` and `bits` are gathered. -/
structure RxAcc.At (a : RxAcc) (s : State) (stored : Nat) (word : List Byte) (bits : List Bool) : Prop where
  state : a.s = s
  room : a.oos = false
  kept : a.w.dropped = false
  stored : a.w.stored = stored
  word : a.w.word = word
  bits : a.w.byteBits = bits

section
variable {a : RxAcc} {s : State} {n : Fin 128} {k : Nat} {word : List Byte} {bits : List Bool}
  (hlc : Sys2Proof.bit (s.streams.at n).cfg 24 = false) (hbs : Sys2Proof.bit (s.streams.at n).cfg 20 = false)
include hlc hbs

/-- R180: a channel without units takes a line bit as it is. -/
theorem RxAcc.line_bare (h : a.At s k word bits) (b : Bool) : ∃ x : RxAcc, a.line n b = x.bit n b ∧ x.At s k word bits := by
  obtain ⟨rfl, hroom, hkept, hst, hw, hb⟩ := h
  refine ⟨{ a with w := { a.w with code := a.w.code, lc := [], codeErr := a.w.codeErr || false } }, ?_, rfl, hroom, hkept, hst, hw, hb⟩
  simp only [RxAcc.line, hlc, hbs]
  rfl

/-- R167: the bits of a byte but the last. -/
theorem RxAcc.line_within (h : a.At s k word bits) (hlen : bits.length < 7) (b : Bool) : (a.line n b).At s k word (bits ++ [b]) := by
  obtain ⟨x, hx, rfl, hroom, hkept, hst, hw, hb⟩ := RxAcc.line_bare hlc hbs h b
  have hl : (x.w.byteBits ++ [b]).length ≠ 8 := by simp [hb]; omega
  rw [hx, RxAcc.bit]
  dsimp only
  rw [if_neg hl]
  exact ⟨rfl, hroom, hkept, hst, hw, by rw [hb]⟩

theorem RxAcc.foldl_line_within (l : List Bool) (h : a.At s k word bits) (hlen : bits.length + l.length < 8) :
    (l.foldl (fun a b => a.line n b) a).At s k word (bits ++ l) := by
  induction l generalizing a bits with
  | nil => simpa using h
  | cons b l ih =>
    have hlen' : bits.length + (l.length + 1) < 8 := hlen
    simpa using ih (RxAcc.line_within hlc hbs h (by omega) b) (by simp; omega)

section
variable (hcrc : (s.streams.at n).crcEn = false) (hord : (s.streams.at n).bitOrd = false) (hmax : k < (s.streams.at n).maxLen)
include hcrc hord hmax

/-- R177: the last bit of a byte stores it. -/
theorem RxAcc.line_last (h : a.At s k word bits) (hlen : bits.length = 7) (b : Bool) :
    ∃ x : RxAcc, x.At s (k + 1) (word ++ [BitVec.ofNat 8 (bitsNat (bits ++ [b]))]) [] ∧
      a.line n b = if word.length = 7 then x.flush n else x := by
  obtain ⟨x, hx, rfl, hroom, hkept, hst, hw, hb⟩ := RxAcc.line_bare hlc hbs h b
  have hl : (x.w.byteBits ++ [b]).length = 8 := by simp [hb, hlen]
  rw [hx, RxAcc.bit]
  dsimp only
  rw [if_pos hl, hord, RxAcc.byte]
  dsimp only
  rw [hcrc, if_neg (by decide), RxAcc.store]
  dsimp only
  rw [if_neg (show ¬ x.w.stored ≥ _ by rw [hst]; omega)]
  refine ⟨{ x with w := { x.w with
    byteBits := [], total := x.w.total + 1, word := x.w.word ++ [BitVec.ofNat 8 (bitsNat (x.w.byteBits ++ [b]))], stored := x.w.stored + 1 } },
    ⟨rfl, hroom, hkept, congrArg (· + 1) hst, by rw [hw, hb], rfl⟩, if_congr ?_ rfl rfl⟩
  simp [hw]

/-- R167: the eight bits of a byte. -/
theorem RxAcc.foldl_line_byte (h : a.At s k word []) (l : List Bool) (hl : l.length = 8) :
    ∃ x : RxAcc, x.At s (k + 1) (word ++ [BitVec.ofNat 8 (bitsNat l)]) [] ∧
      l.foldl (fun a b => a.line n b) a = if word.length = 7 then x.flush n else x := by
  have hne : l ≠ [] := by rintro rfl; simp at hl
  have h7 := RxAcc.foldl_line_within hlc hbs l.dropLast h (by simp [hl])
  obtain ⟨x, hx, hline⟩ := RxAcc.line_last hlc hbs hcrc hord hmax h7 (by simp [hl]) (l.getLast hne)
  refine ⟨x, by simpa [List.dropLast_append_getLast hne] using hx, ?_⟩
  conv_lhs => rw [← List.dropLast_append_getLast hne, List.foldl_append]
  exact hline

end

/-- R167: the bytes of a word but the last. -/
theorem RxAcc.foldl_bytes (d : W64) (hcrc : (s.streams.at n).crcEn = false) (hord : (s.streams.at n).bitOrd = false)
    (h : a.At s k [] []) (j : Nat) (hj : j < 8) (hmax : k + j ≤ (s.streams.at n).maxLen) :
    RxAcc.At ((List.range j).foldl (fun a j => (bitsOf d j).foldl (fun a b => a.line n b) a) a)
      s (k + j) ((List.range j).map (byteOf d)) [] := by
  induction j with
  | zero => exact h
  | succ j ih =>
    have hbyte := ih (by omega) (by omega)
    obtain ⟨x, hx, hfold⟩ := RxAcc.foldl_line_byte hlc hbs hcrc hord (by omega) hbyte (bitsOf d j) (bitsOf_length d j)
    rw [byteOf_bits] at hx
    rw [List.range_succ, List.foldl_append, List.map_append]
    rw [if_neg (by simp; omega)] at hfold
    rw [List.foldl_cons, hfold]
    exact hx

/-- R173: a whole word of the ring. -/
theorem RxAcc.foldl_word (d : W64) (hcrc : (s.streams.at n).crcEn = false) (hord : (s.streams.at n).bitOrd = false)
    (h : a.At s k [] []) (hmax : k + 8 ≤ (s.streams.at n).maxLen) :
    ∃ x : RxAcc, x.At s (k + 8) ((List.range 8).map (byteOf d)) [] ∧
      ((List.range 8).flatMap (bitsOf d)).foldl (fun a b => a.line n b) a = x.flush n := by
  have hbytes := RxAcc.foldl_bytes hlc hbs d hcrc hord h 7 (by omega) (by omega)
  obtain ⟨x, hx, hfold⟩ := RxAcc.foldl_line_byte hlc hbs hcrc hord (by omega) hbytes (bitsOf d 7) (bitsOf_length d 7)
  rw [byteOf_bits] at hx
  rw [if_pos (by simp)] at hfold
  refine ⟨x, hx, ?_⟩
  have h8 : List.range 8 = List.range 7 ++ [7] := rfl
  rw [h8, List.flatMap_append, List.foldl_append, List.foldl_flatMap, List.foldl_flatMap, List.foldl_cons, List.foldl_nil]
  exact hfold

end

/-- R180: `e` passes to the input FIFO of channel `n`, and the channel becomes `x`. -/
def State.sfPassed (s : State) (n : Fin 128) (e : InEntry) (x : Stream) : State :=
  { s with
    engines := s.engines.mod (sfEng n (s.streams.at n)) fun y => { y with ifs := y.ifs.mod (sfFifo (s.streams.at n)) (· ++ [e]) },
    streams := s.streams.upd n x }

/-- R172, R187: what passing its ABORT entry makes of a channel. -/
def Stream.aborted (c : Stream) : Stream :=
  match c.fail with
  | some (cause, off) => Stream.enterError { c with abortEnt := false } cause off
  | none => Stream.toOff { c with abortEnt := false }

theorem Stream.aborted_of_none {c : Stream} (h : c.fail = none) : c.aborted = Stream.toOff { c with abortEnt := false } := by
  simp [Stream.aborted, h]

section
variable {s : State} {n : Fin 128} (hup : s.sfUp n = true) (hst : (s.streams.at n).st = .active ∨ (s.streams.at n).st = .draining)
  (hrx : (s.streams.at n).rx? = false)
include hup hst hrx

/-- R170: a chain goes on to a descriptor that it has not read. -/
theorem State.sfDescFetch_next {xs : List PortA} {f : TxWork} (hch : (s.streams.at n).chain = true) (hr : (s.streams.at n).recs = [])
    (ha : (s.streams.at n).abortEnt = false) (hf : (s.streams.at n).tx = some f) (hfet : f.fetched = false) :
    s.sfDescFetch n xs = s.sfNext n xs f.desc true := by
  unfold State.sfDescFetch
  dsimp only
  rw [if_pos ⟨hup, hst, by simpa using hrx, hch, hr, by simpa using ha⟩, hf]
  simp [hfet]

section
variable (hroom : ((s.engines.at (sfEng n (s.streams.at n))).ifs.at (sfFifo (s.streams.at n))).length < 4)
include hroom

theorem State.sfTxEntry_abort (ha : (s.streams.at n).abortEnt = true) :
    s.sfTxEntry n [] = s.sfPassed n { data := 0, tag := .abort, nbits := 0, stamp := none }
      (s.streams.at n).aborted := by
  unfold State.sfTxEntry
  dsimp only
  rw [if_pos ⟨hup, hst, by simpa using hrx, hroom⟩, if_pos ha]
  rfl

section
variable {f : TxWork} (hr : (s.streams.at n).recs = []) (ha : (s.streams.at n).abortEnt = false) (hf : (s.streams.at n).tx = some f)
  (hfet : f.fetched = true) (hcl : f.closed = false)
include hr ha hf hfet hcl

/-- R180: 64 coded bits and more that wait go first. -/
theorem State.sfTxEntry_data (hlen : 65 ≤ f.bits.length) (hleft : f.left ≠ 0) :
    s.sfTxEntry n [] = s.sfPassed n { data := BitVec.ofNat 64 (bitsNat (f.bits.take 64)), tag := .data, nbits := 63, stamp := none }
      { s.streams.at n with tx := some { f with bits := f.bits.drop 64, started := true } } := by
  have hfill : s.txFill n f 80 = (s, f.buf, some f) := if_pos (Or.inl hlen)
  unfold State.sfTxEntry
  dsimp only
  rw [if_pos ⟨hup, hst, by simpa using hrx, hroom⟩, if_neg (by simp [ha]), if_pos hr, hf]
  dsimp only
  rw [if_neg (by simp [hfet, hcl]), hfill]
  dsimp only
  rw [State.collide_nil, if_neg (show ¬ (f.left = 0 ∧ f.eof = true ∧ (!f.fin) = true) from fun k => hleft k.1),
    if_neg (show ¬ (f.fin = true ∧ (!f.fin) = true) by simp), if_pos hlen]
  rfl

/-- R180: the last bits of a SINGLE frame without an FCS. -/
theorem State.sfTxEntry_last (hact : (s.streams.at n).st = .active) (hch : (s.streams.at n).chain = false) (hcrc : (s.streams.at n).crcEn = false)
    (hfin : f.fin = true) (hleft : f.left = 0) (hlen : f.bits.length ≤ 64) :
    s.sfTxEntry n [] = s.sfPassed n { data := BitVec.ofNat 64 (bitsNat f.bits), tag := .last, nbits := Fin.ofNat 64 (f.bits.length - 1), stamp := none }
      { s.streams.at n with tx := none, st := .idle, recs := [record 1 0 (s.streams.at n).laddr] } := by
  have hfill : s.txFill n f 80 = (s, f.buf, some f) := if_pos (Or.inr hleft)
  unfold State.sfTxEntry
  dsimp only
  rw [if_pos ⟨hup, hst, by simpa using hrx, hroom⟩, if_neg (by simp [ha]), if_pos hr, hf]
  dsimp only
  rw [if_neg (by simp [hfet, hcl]), hfill]
  dsimp only
  rw [State.collide_nil, if_neg (show ¬ (f.left = 0 ∧ f.eof = true ∧ (!f.fin) = true) by simp [hfin]),
    if_neg (show ¬ (f.fin = true ∧ (!f.fin) = true) by simp), if_neg (show ¬ f.bits.length ≥ 65 by omega), if_pos hfin,
    if_neg (show ¬ (s.streams.at n).st = .draining by simp [hact]), if_neg (show ¬ (s.streams.at n).crcEn = true by simp [hcrc])]
  have hat : (s.sfPush n { data := BitVec.ofNat 64 (bitsNat f.bits), tag := .last, nbits := Fin.ofNat 64 (f.bits.length - 1), stamp := none }).streams = s.streams := rfl
  refine State.modSf_of_at ?_
  rw [hat]
  simp [hch, Stream.addRec, hr, hact]

end

end

end

/-- R173: the word of the ring that is complete goes to its place, where the ring has space. -/
theorem RxAcc.flush_of_space {x : RxAcc} {s : State} {n : Fin 128} {k : Nat} {word : List Byte} (h : x.At s k word []) (hne : word ≠ [])
    (hspace : 8 + 8 * ((k + 7) / 8) ≤ (s.streams.at n).space) :
    x.flush n = { x.put n ((s.streams.at n).wp + 8 * ((k + 7) / 8)) (word.foldr (init := 0) fun b acc => b.toNat + 256 * acc) with
      w := { x.w with word := [] } } := by
  obtain ⟨rfl, hroom, hkept, rfl, rfl, -⟩ := h
  rw [RxAcc.flush]
  dsimp only
  rw [if_neg hne, if_neg (by simp [hroom, hkept]), if_neg (Nat.not_lt.2 hspace)]

section
variable {s : State} {n : Fin 128} (hup : s.sfUp n = true) (hst : (s.streams.at n).st = .active) (hrx : (s.streams.at n).rx? = true)
  (hr : (s.streams.at n).recs = []) {e : OutEntry} {l : List OutEntry}
  (ho : (s.engines.at (sfEng n (s.streams.at n))).ofs.at (sfFifo (s.streams.at n)) = e :: l)
include hup hst hrx hr ho

/-- R168: `s` without the first entry of the output FIFO of channel `n`. -/
def State.sfPopped (s : State) (n : Fin 128) (l : List OutEntry) : State :=
  s.modEng (sfEng n (s.streams.at n)) fun z => { z with ofs := z.ofs.upd (sfFifo (s.streams.at n)) l }

/-- R168: an RX channel in ACTIVE takes an entry. -/
theorem State.sfRxEntry_active (hoos : ((s.sfPopped n l).rxEntry n e).oos = false) :
    s.sfRxEntry n [] = ((s.sfPopped n l).rxEntry n e).s := by
  unfold State.sfRxEntry
  dsimp only
  rw [if_pos ⟨hup, hrx, Or.inl hst, hr⟩, ho]
  dsimp only
  rw [if_neg, if_neg (by simp [hst])]
  · exact List.foldl_fixed' (fun o => State.collide_nil _ n true o (o + 8)) _
  · exact (congrArg (fun b => ¬ (b && bit (s.streams.at n).cfg 12) = true) hoos).mpr (by simp)

end

/-- R168: the bits of a DATA entry for a frame that is open. -/
theorem State.rxEntry_data {s : State} {n : Fin 128} {e : OutEntry} {w : RxWork} {l : List Bool} {a : RxAcc} (ht : e.tag = .data)
    (hw : (s.streams.at n).rx = some w) (hl : e.bits = l) (ha : l.foldl (fun a b => a.line n b) (RxAcc.start s w) = a) :
    s.rxEntry n e = { a with s := a.s.modSf n fun c => { c with rx := some { a.w with dropped := a.w.dropped || a.oos } } } := by
  unfold State.rxEntry
  dsimp only
  rw [ht, hw]
  dsimp only
  rw [Option.getD_some, hl, ha]

/-- Settles O23. -/
theorem streamData : Obligations.StreamData := by
  refine ⟨?each, ?word⟩
  case each =>
    intro s n hup c g k push pop room
    refine ⟨fun f d z xs hst hrx hch hr ha hf hfet hread hlen hfit => ?desc, fun f hst hrx hr ha hroom hf hfet hcl hlen hleft => ?data,
      fun f hst hrx hch hcrc hr ha hroom hf hfet hcl hfin hleft hne hlen => ?last, fun cause off hst hrx ha hfail hroom => ?fails,
      fun hst hrec hrx ha hfail hroom => ?off, fun e l hst hrx hr hw ho => ⟨fun ht => ?stamp, fun ht => ?abort⟩⟩
    case desc =>
      obtain ⟨t, ht⟩ := State.sfNext_spec true (congrArg Prod.fst hread) (congrArg (fun x => x.2.mem) hread) hlen hfit
      have hexec : exec (.sfDescFetch n xs) s = .next (s.sfNext n xs f.desc true) := by
        refine congrArg Host.Outcome.next ?_
        rw [State.sfDescFetch_next hup (Or.inl hst) hrx hch hr ha hf hfet, ht]
        exact State.sfSettle_of_st (by simpa using fun k => nomatch hst.symm.trans k)
      rw [hexec, ht]
      refine ⟨_, t.described f.desc d, rfl, rfl, fun m hm => Bank.at_upd_ne _ _ hm, ?_, ?_, rfl, rfl, rfl, rfl, rfl⟩
      · exact (congrArg Stream.st (Bank.at_upd_self _ _ _)).trans hst
      · exact congrArg Stream.tx (Bank.at_upd_self _ _ _)
    case data =>
      refine congrArg Host.Outcome.next ((congrArg (State.sfSettle · n) (State.sfTxEntry_data hup (Or.inl hst) hrx hroom hr ha hf hfet hcl hlen hleft)).trans ?_)
      exact State.sfSettle_upd_st (fun k => nomatch hst.symm.trans k)
    case last =>
      refine congrArg Host.Outcome.next ((congrArg (State.sfSettle · n) (State.sfTxEntry_last hup (Or.inl hst) hrx hroom hr ha hf hfet hcl hst hch hcrc hfin hleft hlen)).trans ?_)
      exact State.sfSettle_upd_st (fun k => nomatch k)
    case fails =>
      refine congrArg Host.Outcome.next ((congrArg (State.sfSettle · n) (State.sfTxEntry_abort hup hst hrx hroom ha)).trans ?_)
      rw [Stream.aborted, hfail]
      exact State.sfSettle_upd_st (fun k => nomatch k)
    case off =>
      have hexec : exec (.sfTxEntry n []) s = .next (s.sfPassed n { data := 0, tag := .abort, nbits := 0, stamp := none }
          (Stream.toOff { c with abortEnt := false })) := by
        refine congrArg Host.Outcome.next ((congrArg (State.sfSettle · n) (State.sfTxEntry_abort hup (Or.inr hst) hrx hroom ha)).trans ?_)
        rw [Stream.aborted_of_none hfail]
        exact State.sfSettle_upd_enRec (s := s) (x := Stream.toOff { c with abortEnt := false }) ((Stream.toOff_enRec _).trans hrec)
      rw [hexec]
      refine ⟨fun hf => ?_, fun f hf hch hcl => ?_⟩
      · have hoff : Stream.toOff { c with abortEnt := false } =
            { c with abortEnt := false, st := .off, cfg := c.cfg &&& ~~~1, queued := false } := by
          simp [Stream.toOff, hf]
        rw [hoff]
        rfl
      · have hoff : Stream.toOff { c with abortEnt := false } =
            { c with abortEnt := false, st := .off, cfg := c.cfg &&& ~~~1, queued := true, cur := f.first, tx := some f.again } := by
          have hch' : bit c.cfg 2 = true := hch
          simp [Stream.toOff, hf, Stream.chain, hch', TxWork.again, hcl]
        rw [hoff]
        simp only [TxWork.again, hcl]
        rfl
    case stamp =>
      have hentry : (s.sfPopped n l).rxEntry n e =
          RxAcc.start ((s.sfPopped n l).modSf n fun c => { c with rx := some (s.rxOpen n (some (fld e.data 0 42))) }) (s.rxOpen n none) := by
        unfold State.rxEntry
        dsimp only
        rw [ht, show ((s.sfPopped n l).streams.at n).rx = none from hw]
        rfl
      refine congrArg Host.Outcome.next ((congrArg (State.sfSettle · n) (State.sfRxEntry_active hup hst hrx hr ho (by rw [hentry]; rfl))).trans ?_)
      rw [hentry]
      exact State.sfSettle_upd_st (fun k => nomatch hst.symm.trans k)
    case abort =>
      have hentry : (s.sfPopped n l).rxEntry n e = RxAcc.start (s.sfPopped n l) (s.rxOpen n none) := by
        unfold State.rxEntry
        dsimp only
        rw [ht, show ((s.sfPopped n l).streams.at n).rx = none from hw]
        rfl
      refine congrArg Host.Outcome.next ((congrArg (State.sfSettle · n) (State.sfRxEntry_active hup hst hrx hr ho (by rw [hentry]; rfl))).trans ?_)
      rw [hentry]
      exact State.sfSettle_of_st (fun k => nomatch hst.symm.trans k)
  case word =>
    intro s n w e l hup hwf c g k i a hst hrx hr hw hcrc hbs hlc hord ho ht hn hal hword hbits hdrop hmax hspace
    have hat : (RxAcc.start (s.sfPopped n l) w).At (s.sfPopped n l) w.stored [] [] := ⟨rfl, rfl, hdrop, rfl, hword, hbits⟩
    obtain ⟨x, hx, hfold⟩ := RxAcc.foldl_word (s := s.sfPopped n l) hlc hbs e.data hcrc hord hat hmax
    have hi : (w.stored + 8 + 7) / 8 = i := by omega
    rw [RxAcc.flush_of_space hx (by simp) (by rw [hi]; exact hspace), hi, foldr_byteOf] at hfold
    have hentry := State.rxEntry_data (s := s.sfPopped n l) (n := n) ht hw (e.bits_full hn) hfold
    obtain ⟨hxs, hroom, hkept, hstored, -, -⟩ := hx
    have hput : (x.put n (((s.sfPopped n l).streams.at n).wp + 8 * i) e.data.toNat).s = (s.sfPopped n l).memWrite sfReq a 8 e.data.toNat := by
      rw [RxAcc.put, hxs]
      rfl
    obtain ⟨y, hy, hys, hyw⟩ : ∃ y : RxWork, s.sfRxEntry n [] =
        ((s.sfPopped n l).memWrite sfReq a 8 e.data.toNat).modSf n (fun c => { c with rx := some y }) ∧
        y.stored = w.stored + 8 ∧ y.word = [] := by
      rw [State.sfRxEntry_active hup hst hrx hr ho (by rw [hentry]; exact hroom), hentry, hput]
      exact ⟨_, rfl, hstored, rfl⟩
    have hexec : exec (.sfRxEntry n []) s = .next (s.sfRxEntry n []) := by
      refine congrArg Host.Outcome.next (State.sfSettle_of_st ?_)
      rw [hy]
      exact fun h => nomatch hst.symm.trans ((congrArg Stream.st (Bank.at_mod_self s.streams n _)).symm.trans h)
    have hmem : (s.sfRxEntry n []).mem = s.mem.write sfReq a 8 e.data.toNat := by
      rw [hy]
      rfl
    clear_value a
    rw [hexec]
    refine ⟨_, y, rfl, ?_, hys, hyw, ?_, fun b hb => ?_, ?_, ?_⟩
    · rw [hy]
      exact congrArg Stream.rx (Bank.at_mod_self s.streams n _)
    · rw [hmem]
      exact Mem.num_write _ _ _ _ _ hwf e.data.isLt
    · rw [hmem, Mem.byte_write _ _ _ _ _ _ hwf, if_neg (by omega)]
    · rw [hy]
      exact (congrArg (fun z : Engine => z.ofs.at k) (Bank.at_mod_self s.engines g _)).trans (Bank.at_upd_self _ _ _)
    · rw [hy]
      rfl

end Sys2Proof.Machine

namespace Sys2Proof.Machine

/-! R214, R215: the control of a pin engine. -/

theorem State.modEng_of_at {s : State} {n : Fin 64} {f : Engine → Engine} {x : Engine} (h : f (s.engines.at n) = x) :
    s.modEng n f = { s with engines := s.engines.upd n x } := by
  rw [State.modEng, Bank.mod_eq, h]

theorem setBit8_getLsbD (x : BitVec 8) {k j : Nat} (hk : k < 8) (v : Bool) :
    (setBit8 x k v).getLsbD j = if j = k then v else x.getLsbD j := by
  have hbit : (BitVec.ofNat 8 (2 ^ k)).getLsbD j = decide (j = k) := by
    rw [BitVec.getLsbD_ofNat, Nat.testBit_two_pow]
    by_cases h : j = k
    · simp [h, hk]
    · simp [h, Ne.symm h]
  unfold setBit8
  cases v
  · rw [if_neg (by decide), BitVec.getLsbD_and, BitVec.getLsbD_not, hbit]
    by_cases h : j = k
    · simp [h]
    · by_cases h8 : j < 8
      · simp [h, h8]
      · simp [h, x.getLsbD_of_ge j (Nat.not_lt.1 h8)]
  · rw [if_pos rfl, BitVec.getLsbD_or, hbit]
    by_cases h : j = k <;> simp [h]

/-- The bits of a mask that is set up one bit after the other. -/
theorem foldl_setBit8 (f : Nat → Bool) (l : List Nat) (hl : ∀ k ∈ l, k < 8) (x : BitVec 8) (j : Nat) :
    (l.foldl (fun x k => setBit8 x k (f k)) x).getLsbD j = if j ∈ l then f j else x.getLsbD j := by
  induction l generalizing x with
  | nil => simp
  | cons k l ih =>
    rw [List.foldl_cons, ih fun m hm => hl m (List.mem_cons_of_mem k hm), setBit8_getLsbD x (hl k List.mem_cons_self)]
    by_cases hj : j ∈ l
    · simp [hj]
    · by_cases hk : j = k <;> simp [hj, hk]

/-- The output FIFO `k` owes an ABORT entry and has room for it. -/
def Engine.owesNow (e : Engine) (k : Fin 8) : Bool := e.abortPend.getLsbD k.val && decide ((e.ofs.at k).length < 4)

/-- R215: what an owed ABORT entry changes. -/
theorem Engine.abortInto_spec (e : Engine) (k : Fin 8) :
    e.abortInto k = { e with ofs := (e.abortInto k).ofs, ofOpen := (e.abortInto k).ofOpen, abortPend := (e.abortInto k).abortPend } ∧
    ∀ j : Fin 8,
      (e.abortInto k).ofs.at j =
        (if j = k ∧ e.owesNow k = true then e.ofs.at k ++ [{ data := 0, tag := .abort, nbits := 0, es := e.ct }] else e.ofs.at j) ∧
      (e.abortInto k).ofOpen.getLsbD j.val = (e.ofOpen.getLsbD j.val && !(decide (j = k) && e.owesNow k)) ∧
      (e.abortInto k).abortPend.getLsbD j.val = (e.abortPend.getLsbD j.val && !(decide (j = k) && e.owesNow k)) := by
  unfold Engine.abortInto
  change ((if e.owesNow k = true then _ else _) = _) ∧ _
  by_cases h : e.owesNow k = true
  · have hif : (e.abortPend.getLsbD k.val && decide ((e.ofs.at k).length < 4)) = true := h
    rw [if_pos hif, if_pos h]
    refine ⟨rfl, fun j => ?_⟩
    dsimp only [Engine.pushOf, Engine.pushEntry]
    rw [Bank.at_mod, setBit8_getLsbD _ k.isLt, setBit8_getLsbD _ k.isLt]
    by_cases hj : j = k <;> simp [hj, h, Fin.val_inj]
  · have hif : ¬ (e.abortPend.getLsbD k.val && decide ((e.ofs.at k).length < 4)) = true := h
    rw [if_neg hif, if_neg h]
    simp [h]

/-- R215: the ABORT entries that are owed go to the FIFOs of `l` that have room. -/
theorem Engine.foldl_abortInto (l : List (Fin 8)) (hl : l.Nodup) (e : Engine) :
    ∃ o b p, l.foldl Engine.abortInto e = { e with ofs := o, ofOpen := b, abortPend := p } ∧
      ∀ j : Fin 8,
        o.at j = (if j ∈ l ∧ e.owesNow j = true then e.ofs.at j ++ [{ data := 0, tag := .abort, nbits := 0, es := e.ct }] else e.ofs.at j) ∧
        b.getLsbD j.val = (e.ofOpen.getLsbD j.val && !(decide (j ∈ l) && e.owesNow j)) ∧
        p.getLsbD j.val = (e.abortPend.getLsbD j.val && !(decide (j ∈ l) && e.owesNow j)) := by
  induction l generalizing e with
  | nil => exact ⟨e.ofs, e.ofOpen, e.abortPend, rfl, fun j => by simp⟩
  | cons k l ih =>
    obtain ⟨hk, hl⟩ := List.nodup_cons.1 hl
    obtain ⟨o, b, p, hfold, hall⟩ := ih hl (e.abortInto k)
    obtain ⟨hframe, hinto⟩ := e.abortInto_spec k
    have hct : (e.abortInto k).ct = e.ct := (congrArg Engine.ct hframe :)
    refine ⟨o, b, p, ?_, fun j => ?_⟩
    · rw [List.foldl_cons, hfold]
      rw [hframe]
    · obtain ⟨ho, hb, hp⟩ := hall j
      obtain ⟨io, ib, ip⟩ := hinto j
      have howes : (e.abortInto k).owesNow j = (e.owesNow j && !(decide (j = k))) := by
        rw [Engine.owesNow, ip, io]
        by_cases hj : j = k
        · subst hj
          cases h : e.owesNow j
          · simpa [Engine.owesNow] using h
          · simp
        · simp [hj, Engine.owesNow]
      rw [ho, hb, hp, howes, io, ib, ip, hct]
      by_cases hj : j = k
      · subst hj
        simp [hk]
      · simp [hj]

/-- R214, R215, R354: the engine `e` in state `st` after a write of PEn_CFG; `idle` is the idle mark of the word at pc. -/
def Engine.cfgWrite (e : Engine) (st : PeSt) (idle : Bool) (w : W32) : Engine :=
  match st, bit w 0 with
  | .off, true => e.enable w
  | .off, false => { e with cfg := w }
  | .draining, true =>
    let e1 := { e with cfg := w &&& ~~~1, enRec := some w }
    if bit w 1 then e1.offAtStep true else e1
  | .draining, false =>
    let e1 := { e with cfg := w, enRec := none }
    if bit w 1 then e1.offAtStep true else e1
  | .halt, false => ({ e with cfg := w }).toOff
  | .error, false => if e.en then ({ e with cfg := w }).toOff else { e with cfg := w }
  | _, true => { e with cfg := w }
  | _, false =>
    let e1 := { e with cfg := w }
    if bit w 1 then e1.offAtStep true
    else if idle = true ∨ e.stop.isSome then e1.offAtStep false
    else { e1 with st := .draining }

theorem State.peCfg_eq (s : State) (n : Fin 64) (v : W32) :
    s.peCfg n v = { s with engines := s.engines.upd n (Engine.cfgWrite { s.engines.at n with wm := s.outMark n } (s.engines.at n).st (s.peIdle n) (v &&& peCfgMask)) } := by
  have hidle : (s.noteMark n).peIdle n = s.peIdle n := by simp [State.peIdle, State.peWord, State.noteMark, State.progWord]
  have hat : (s.noteMark n).engines.at n = { s.engines.at n with wm := s.outMark n } := Bank.at_mod_self _ _ _
  have hmod (f : Engine → Engine) : (s.noteMark n).modEng n f = { s with engines := s.engines.upd n (f { s.engines.at n with wm := s.outMark n }) } := by
    simp [State.modEng, State.noteMark, Bank.mod_eq]
  have hst : (s.engines.at n).st = ((s.noteMark n).engines.at n).st := by rw [hat]
  rw [hst]
  generalize ({ s.engines.at n with wm := s.outMark n } : Engine) = e at hat hmod ⊢
  unfold State.peCfg
  dsimp only
  rw [hat, hidle]
  generalize e.st = st
  cases st <;> cases hb : bit (v &&& peCfgMask) 0 <;> (simp only [Engine.cfgWrite, hb]; exact hmod _)

/-- R214: OFF, where no enable was recorded. -/
theorem Engine.toOff_of_none {e : Engine} (h : e.enRec = none) :
    e.toOff = { e with st := .off, cfg := e.cfg &&& ~~~1, stallOn := .none, clk := [], stepDone := 0, stop := none } := by
  simp [Engine.toOff, h]

/-- R215: OFF with ABORT entries to the output FIFOs that hold an open frame. -/
theorem Engine.abortOff_spec {e : Engine} (h : e.enRec = none) :
    ∃ o b p, e.abortOff = { e with
        ofs := o, ofOpen := b, abortPend := p, st := .off, cfg := e.cfg &&& ~~~1, stallOn := .none, clk := [], stepDone := 0,
        stop := none } ∧
      ∀ k : Fin 8,
        let owed := e.abortPend.getLsbD k.val || e.ofOpen.getLsbD k.val
        let now := owed && decide ((e.ofs.at k).length < 4)
        o.at k = (if now then e.ofs.at k ++ [{ data := 0, tag := .abort, nbits := 0, es := e.ct }] else e.ofs.at k) ∧
        b.getLsbD k.val = (e.ofOpen.getLsbD k.val && !now) ∧ p.getLsbD k.val = (owed && !now) := by
  obtain ⟨o, b, p, hfold, hall⟩ := Engine.foldl_abortInto (List.ofFn fun i : Fin 8 => i) (by decide)
    { e with abortPend := e.abortPend ||| e.ofOpen }
  refine ⟨o, b, p, ?_, fun k => ?_⟩
  · rw [Engine.abortOff, hfold]
    exact Engine.toOff_of_none h
  · have hk : k ∈ List.ofFn fun i : Fin 8 => i := List.mem_ofFn.2 ⟨k, rfl⟩
    obtain ⟨ho, hb, hp⟩ := hall k
    simp only [hk, Engine.owesNow, BitVec.getLsbD_or, decide_true, Bool.true_and, true_and] at ho hb hp
    exact ⟨ho, hb, hp⟩

theorem bit_peCfgMask (v : W32) : bit (v &&& peCfgMask) 0 = bit v 0 ∧ bit (v &&& peCfgMask) 1 = bit v 1 := by
  simp [bit, peCfgMask]

/-- Settles O24. -/
theorem engineControl : Obligations.EngineControl := by
  refine ⟨?cfg, ?ctrl⟩
  case cfg =>
    intro s n v hup e w m to_
    have hen (hv : bit v 0 = true) (hoff : e.en = false) (hst : e.st = .off) :
        exec (.peEnable n v) s = to_ (Engine.enable { e with wm := m } w) := by
      have hw : bit w 0 = true := (bit_peCfgMask v).1.trans hv
      have hcfg : Engine.cfgWrite { e with wm := m } e.st (s.peIdle n) w = Engine.enable { e with wm := m } w := by
        simp only [Engine.cfgWrite, hst, hw]
      exact congrArg Host.Outcome.next ((if_pos ⟨hup, by simpa using hoff, hv⟩).trans ((s.peCfg_eq n v).trans
        (congrArg (fun x => ({ s with engines := s.engines.upd n x } : State)) hcfg)))
    have hdis (hv : bit v 0 = false) (hon : e.en = true) :
        exec (.peDisable n v) s = to_ (Engine.cfgWrite { e with wm := m } e.st (s.peIdle n) w) :=
      congrArg Host.Outcome.next ((if_pos ⟨hup, hon, by simpa using hv⟩).trans (s.peCfg_eq n v))
    have hw0 (hv : bit v 0 = false) : bit w 0 = false := (bit_peCfgMask v).1.trans hv
    refine ⟨fun hst hoff hv hok => ?enable, fun hst hoff hv hok => ?refused, fun hst hon hr hv => ?halted, fun hst hon hv hv1 => ?running,
      fun hst hv hv1 => ?abort⟩
    case enable =>
      exact (hen hv hoff hst).trans (congrArg to_ (if_pos hok))
    case refused =>
      exact (hen hv hoff hst).trans (congrArg to_ (if_neg (Bool.eq_false_iff.1 hok)))
    case halted =>
      have hcfg : Engine.cfgWrite { e with wm := m } e.st (s.peIdle n) w = Engine.toOff { e with wm := m, cfg := w } := by
        rcases hst with h | h
        · simp [Engine.cfgWrite, h, hw0 hv]
        · have hon' : bit e.cfg 0 = true := hon
          simp [Engine.cfgWrite, h, hw0 hv, Engine.en, hon']
      exact (hdis hv hon).trans (congrArg to_ (hcfg.trans (Engine.toOff_of_none (e := { e with wm := m, cfg := w }) hr)))
    case running =>
      have hw1 : bit w 1 = false := (bit_peCfgMask v).2.trans hv1
      have hcfg : Engine.cfgWrite { e with wm := m } e.st (s.peIdle n) w =
          if s.peIdle n = true ∨ e.stop.isSome then Engine.offAtStep { e with wm := m, cfg := w } false
          else { e with wm := m, cfg := w, st := .draining } := by
        rcases hst with h | h | h <;> simp [Engine.cfgWrite, h, hw0 hv, hw1]
      have hany : (s.peIdle n = true ∨ e.stop ≠ none) → (s.peIdle n = true ∨ e.stop.isSome) :=
        Or.imp_right Option.isSome_iff_ne_none.2
      have hexec := (hdis hv hon).trans (congrArg to_ hcfg)
      refine ⟨fun hi hs => hexec.trans (congrArg to_ (if_neg ?_)), fun hi hd hr => hexec.trans (congrArg to_ ((if_pos (hany hi)).trans ?_)),
        fun hi hd => hexec.trans (congrArg to_ ((if_pos (hany hi)).trans (if_neg hd)))⟩
      · simp [hi, hs]
      · exact (if_pos hd).trans (Engine.toOff_of_none (e := { e with wm := m, cfg := w }) hr)
    case abort =>
      have hexec : exec (.peAbort n v) s = to_ (Engine.offAtStep { e with wm := m, cfg := w, enRec := none } true) := by
        have hw1 : bit w 1 = true := (bit_peCfgMask v).2.trans hv1
        have hcfg : Engine.cfgWrite { e with wm := m } e.st (s.peIdle n) w = Engine.offAtStep { e with wm := m, cfg := w, enRec := none } true := by
          simp only [Engine.cfgWrite, hst, hw0 hv, hw1, if_true]
        exact congrArg Host.Outcome.next ((if_pos ⟨hup, hst, hv1⟩).trans ((s.peCfg_eq n v).trans
          (congrArg (fun x => ({ s with engines := s.engines.upd n x } : State)) hcfg)))
      refine ⟨fun hd => ?_, fun hd => ?_⟩
      · refine hexec.trans (congrArg to_ ((if_neg hd).trans ?_))
        rw [show e.st = .draining from hst]
      · obtain ⟨o, b, p, hoff, hall⟩ := Engine.abortOff_spec (e := { e with wm := m, cfg := w, enRec := none }) rfl
        exact ⟨{ e with ofs := o, ofOpen := b, abortPend := p }, hexec.trans (congrArg to_ ((if_pos hd).trans hoff)), rfl, hall⟩
  case ctrl =>
    intro s n hup e to_ quiet
    have hmod {i : Instr} {f : Engine → Engine} {x : Engine} (hi : exec i s = .next (if s.engUp n then s.modEng n f else s))
        (hx : f e = x) : exec i s = to_ x := hi.trans (congrArg Host.Outcome.next ((if_pos hup).trans (State.modEng_of_at hx)))
    refine ⟨fun hst hlo hhi => ?go, fun hst hb => ?bound, fun hst => ?noGo, fun hst hlo hhi => ?newpc, fun hst hlo hhi => ?clear,
      fun hst => ?halt, fun hst => ?clrerr, fun hst => ?noClrerr, fun hp hlen => ?owed, fun hq => ?flushI, fun hq => ?flushO, fun hq => ?noFlush⟩
    case go => exact hmod rfl ((if_pos hst).trans (if_pos ⟨hlo, hhi⟩))
    case bound => exact hmod rfl ((if_pos hst).trans (if_neg hb))
    case noGo => exact (hmod rfl (if_neg hst)).trans (congrArg (fun b => Host.Outcome.next { s with engines := b }) (Bank.upd_at _ _))
    case newpc => exact hmod rfl ((if_pos hst).trans (if_pos ⟨hlo, hhi⟩))
    case clear => exact hmod rfl ((if_pos hst).trans (if_pos ⟨hlo, hhi⟩))
    case halt =>
      have hhalt : s.peHalt n = { s with engines := s.engines.upd n (Engine.haltAtStep { e with wm := s.outMark n }) } := by
        have hat : (s.noteMark n).engines.at n = { e with wm := s.outMark n } := Bank.at_mod_self _ _ _
        rw [State.peHalt, State.modEng, Bank.mod_eq, hat, State.noteMark, State.modEng, Bank.mod_eq, Bank.upd_upd]
        rcases hst with h | h | h <;> simp only [h]
      refine congrArg Host.Outcome.next ((if_pos hup).trans (hhalt.trans ?_))
      exact congrArg (fun x => ({ s with engines := s.engines.upd n x } : State)) rfl
    case clrerr => exact hmod rfl (if_pos hst)
    case noClrerr => exact (hmod rfl (if_neg hst)).trans (congrArg (fun b => Host.Outcome.next { s with engines := b }) (Bank.upd_at _ _))
    case owed =>
      refine hmod rfl ?_
      have howes : e.owesNow 0 = true := by simp [Engine.owesNow, hp, hlen]
      have hfind : ((List.ofFn fun i : Fin 8 => i).find? e.owesNow) = some 0 := by
        rw [List.ofFn_succ, List.find?_cons_of_pos howes]
      have hpush : e.abortPush = e.abortInto 0 := by
        change (match (List.ofFn fun i : Fin 8 => i).find? e.owesNow with | some k => e.abortInto k | none => e) = _
        rw [hfind]
      refine hpush.trans ((if_pos howes).trans ?_)
      rw [hp]
      rfl
    case flushI =>
      have hflush : s.peFlushI n = s.modEng n fun e =>
          { e with ifs := Vector.ofFn fun k => if s.sfAttached n false k.val then e.ifs.at k else [] } := by
        rcases hq with h | h | h <;> simp only [State.peFlushI, show (s.engines.at n).st = _ from h]
      refine ⟨_, congrArg Host.Outcome.next ((if_pos hup).trans (hflush.trans (State.modEng_of_at rfl))), rfl, fun k => Bank.at_ofFn _ k⟩
    case flushO =>
      have hflush : s.peFlushO n = s.modEng n fun e =>
          { e with ofs := Vector.ofFn fun k => if s.sfAttached n true k.val then e.ofs.at k else [],
                   abortPend := e.abortPend &&& (List.range 8).foldl (fun x k => setBit8 x k (s.sfAttached n true k)) 0 } := by
        rcases hq with h | h | h <;> simp only [State.peFlushO, show (s.engines.at n).st = _ from h]
      refine ⟨_, congrArg Host.Outcome.next ((if_pos hup).trans (hflush.trans (State.modEng_of_at rfl))), rfl, fun k => Bank.at_ofFn _ k, fun k => ?_⟩
      rw [BitVec.getLsbD_and, foldl_setBit8 _ _ (fun i hi => List.mem_range.1 hi), if_pos (List.mem_range.2 k.isLt)]
    case noFlush =>
      have hst : e.st ≠ .off ∧ e.st ≠ .halt ∧ e.st ≠ .error := by simpa only [quiet, not_or] using hq
      obtain ⟨hoff, hhalt, herror⟩ := hst
      refine ⟨congrArg Host.Outcome.next ((if_pos hup).trans ?_), congrArg Host.Outcome.next ((if_pos hup).trans ?_)⟩
      · unfold State.peFlushI
        split
        next h => exact absurd h hoff
        next h => exact absurd h hhalt
        next h => exact absurd h herror
        next => rfl
      · unfold State.peFlushO
        split
        next h => exact absurd h hoff
        next h => exact absurd h hhalt
        next h => exact absurd h herror
        next => rfl

end Sys2Proof.Machine

namespace Sys2Proof.Machine

/-! R212: a write of a program word leaves the engines of the group as they are. -/

/-- A state whose half runs, with engine 0 off inside a step at pc 0: a lane has taken its entry. -/
def insideStep : State :=
  { State.reset with
    power := { State.reset.power with crst := false, halves := Bank.fill 2 { Half.reset with st := .run } },
    engines := State.reset.engines.upd 0 { Engine.reset with stepDone := 1 } }

/-- A host access that is secure. -/
def secureHost : Req := { who := .host, sec := true }

/-- Refutes O25: the write of the word at the pc of an engine in OFF is permitted, and the engine keeps the lanes that have taken their
entry of the step, where the statement clears them. -/
theorem not_engineHostAccess : ¬ Obligations.EngineHostAccess := by
  intro h
  have hup : insideStep.engUp 0 = true := by decide +kernel
  obtain ⟨-, -, -, hword⟩ := h insideStep 0 hup
  have hfree : insideStep.refusal secureHost true 0x120000 4 0 = none := by decide +kernel
  obtain ⟨z, hz, -, heng, -⟩ := hword secureHost 0 0 0 hfree
  have hkept : ((insideStep.busWrite secureHost 0x120000 4 0).2.engines.at 0).stepDone = 1 := by decide +kernel
  have hcleared : (z.engines.at 0).stepDone = 0 := (congrArg Engine.stepDone (heng 0)).trans (by decide +kernel)
  rw [← Host.Outcome.next.inj hz] at hcleared
  exact absurd (hkept.symm.trans hcleared) (by decide)

end Sys2Proof.Machine

namespace Sys2Proof.Machine

/-! R211, R220 to R233: one step of a pin engine's instruction. -/

/-- Engine `n` becomes `x`. -/
def State.setEng (s : State) (n : Fin 64) (x : Engine) : State := { s with engines := s.engines.upd n x }

theorem State.setEng_at (s : State) (n : Fin 64) (x : Engine) : (s.setEng n x).engines.at n = x := Bank.at_upd_self _ _ _

theorem State.modEng_setEng (s : State) (n : Fin 64) (x : Engine) (f : Engine → Engine) :
    (s.setEng n x).modEng n f = s.setEng n (f x) := by
  simp [State.setEng, State.modEng, Bank.mod_eq]

theorem State.modEng_eq_setEng (s : State) (n : Fin 64) (f : Engine → Engine) : s.modEng n f = s.setEng n (f (s.engines.at n)) := rfl

/-- R224: an instruction with steps left takes one of them. -/
theorem State.peStep_at {s : State} {n : Fin 64} {w : W32} {r op : Nat} (hat : s.engineAt n w r) (hop : peOpc w = op) (hr : r ≠ 0)
    (f : State → Engine → W32 → State) :
    s.peStep n op f = f (s.setEng n { s.engines.at n with rep := r }) { s.engines.at n with rep := r } w := by
  obtain ⟨hup, hst, hstop, hw, hlegal, hrep⟩ := hat
  have hlive : s.peLive n = true := by
    rcases hst with h | h | h <;> simp [State.peLive, hup, h, PeSt.live]
  unfold State.peStep
  dsimp only
  rw [hw, if_pos ⟨hlive, hlegal, hop⟩]
  by_cases h0 : (s.engines.at n).rep = 0
  · rw [if_pos h0] at hrep ⊢
    rw [if_neg (hrep ▸ hr), hrep, State.modEng_eq_setEng, State.setEng_at]
  · rw [if_neg h0] at hrep ⊢
    subst hrep
    rw [State.setEng, Bank.upd_at]

/-- R224: where an instruction without steps left goes on. -/
theorem State.peStep_none {s : State} {n : Fin 64} {w : W32} {op : Nat} (hat : s.engineAt n w 0) (hop : peOpc w = op)
    (f : State → Engine → W32 → State) : s.peStep n op f = (s.modEng n Engine.proceed).peNext n none := by
  obtain ⟨hup, hst, hstop, hw, hlegal, hrep⟩ := hat
  have hlive : s.peLive n = true := by
    rcases hst with h | h | h <;> simp [State.peLive, hup, h, PeSt.live]
  have h0 : (s.engines.at n).rep = 0 := by
    by_contra h
    rw [if_neg h] at hrep
    exact h hrep.symm
  rw [if_pos h0] at hrep
  unfold State.peStep
  dsimp only
  rw [hw, if_pos ⟨hlive, hlegal, hop⟩, if_pos h0, if_pos hrep.symm]

/-- A step proceeds in an engine that nothing drains. -/
theorem Engine.proceed_of_running {e : Engine} (h : e.st = .run ∨ e.st = .stall ∨ e.st = .wait) :
    e.proceed = { e with st := .run, stallOn := .none } := by
  rcases h with h | h | h <;> simp [Engine.proceed, h]

theorem Engine.stallAt_of_running {e : Engine} (h : e.st = .run ∨ e.st = .stall ∨ e.st = .wait) (x : StallOn) :
    e.stallAt x = { e with st := .stall, stallOn := x } := by
  rcases h with h | h | h <;> simp [Engine.stallAt, h]

/-- R211, R215: where control goes after an instruction, inside the bounds. -/
def Engine.target (e : Engine) (t : Option Nat) : Option Nat :=
  match t with
  | some x => if e.pclo ≤ x ∧ x ≤ e.pchi then some x else none
  | none => e.nextPc

theorem State.peNext_some {s : State} {n : Fin 64} {x : Engine} {t : Option Nat} {np : Nat} (hst : x.st = .run) (ht : x.target t = some np) :
    (s.setEng n x).peNext n t = s.setEng n { x with pc := BitVec.ofNat 8 np, rep := 0, stepDone := 0 } := by
  unfold State.peNext
  dsimp only
  rw [State.setEng_at]
  change (match x.target t with | some _ => _ | none => _) = _
  rw [ht]
  dsimp only
  rw [if_neg (by simp [hst]), State.modEng_setEng]

/-- R215: control leaves the bounds. -/
theorem State.peNext_none {s : State} {n : Fin 64} {x : Engine} {t : Option Nat} (ht : x.target t = none) :
    (s.setEng n x).peNext n t = s.setEng n { x.fail .pcBound with rep := 0 } := by
  unfold State.peNext
  dsimp only
  rw [State.setEng_at]
  change (match x.target t with | some _ => _ | none => _) = _
  rw [ht]
  dsimp only
  rw [State.modEng_setEng]

theorem Engine.boundary_of_none {e : Engine} (h : e.stop = none) : e.boundary = e := by
  unfold Engine.boundary
  rw [h]
  split <;> rfl

/-- The engine after a step that leaves it in RUN: `np` is where its last step goes. -/
def Engine.stepped (x : Engine) (np : Nat) : Engine :=
  { x with pc := if x.rep ≤ 1 then BitVec.ofNat 8 np else x.pc, rep := x.rep - 1, stepDone := 0 }

/-- R224: the end of a step. -/
theorem State.peDone_some {s : State} {n : Fin 64} {x : Engine} {t : Option Nat} {np : Nat} (hst : x.st = .run) (hstop : x.stop = none)
    (ht : x.rep ≤ 1 → x.target t = some np) : (s.setEng n x).peDone n t = s.setEng n (x.stepped np) := by
  unfold State.peDone
  dsimp only
  rw [State.setEng_at]
  by_cases hr : x.rep ≤ 1
  · rw [if_pos hr, State.peNext_some hst (ht hr), State.modEng_setEng, Engine.boundary_of_none, Engine.stepped, if_pos hr,
      Nat.sub_eq_zero_of_le hr]
    exact hstop
  · rw [if_neg hr, State.modEng_setEng, State.modEng_setEng, Engine.boundary_of_none, Engine.stepped, if_neg hr]
    exact hstop

/-- R215: the last step of an instruction after which control leaves the bounds. -/
theorem State.peDone_none {s : State} {n : Fin 64} {x : Engine} {t : Option Nat} (hr : x.rep ≤ 1) (ht : x.target t = none) :
    (s.setEng n x).peDone n t = s.setEng n { x.fail .pcBound with rep := 0 } := by
  unfold State.peDone
  dsimp only
  rw [State.setEng_at, if_pos hr, State.peNext_none ht, State.modEng_setEng, Engine.boundary_of_none rfl]

theorem Engine.abortInto_rep (e : Engine) (k : Fin 8) (r : Nat) : Engine.abortInto { e with rep := r } k = { e.abortInto k with rep := r } := by
  unfold Engine.abortInto
  split_ifs <;> rfl

theorem mrg_hi (x : W32) (y : BitVec 16) : mrg 0xFFFF0000 x (y.setWidth 32 <<< 16) = (x &&& 0xFFFF) ||| (y.setWidth 32 <<< 16) := by
  apply BitVec.eq_of_getLsbD_eq
  intro i hi
  interval_cases i <;> simp [mrg]

theorem mrg_lo (x : W32) (y : BitVec 16) : mrg 0xFFFF x (y.setWidth 32) = (x &&& 0xFFFF0000) ||| y.setWidth 32 := by
  apply BitVec.eq_of_getLsbD_eq
  intro i hi
  interval_cases i <;> simp [mrg]

/-- R207, R208: SCHED moves AT and arms the clock generator. -/
theorem Engine.armed_eq (e : Engine) (a : BitVec 48) : e.arm a = { e with
    at_ := a,
    clk := if e.clkEn && (e.clk.isEmpty || bit e.clkReg 26) then
        (e.clk.map fun r => { r with lim := some (r.lim.getD (e.atNs + BitVec.ofNat 40 e.clkOff)) }).filter e.clkLeft ++
          [{ a := a.extractLsb' 8 40, k := 0, lim := none }]
      else e.clk } := by
  unfold Engine.arm
  dsimp only
  split <;> rfl

/-- Settles O26. -/
theorem engineInstructions : Obligations.EngineInstructions := by
  refine ⟨?each, ?bound, ?illegal⟩
  case each =>
    intro s n w np r hat hr hnp e k t seq to_ imm load off lim armed p took
    obtain ⟨hup, hst, hstop, hw, hlegal, hrep⟩ := id hat
    have hproc : Engine.proceed { e with rep := r } = { e with st := .run, stallOn := .none, rep := r } := Engine.proceed_of_running hst
    have hseq (x : Engine) (hs : x.stop = none) (hpc : x.pc = e.pc) :
        Engine.stepped { x with st := .run, stallOn := .none, rep := r } np = seq x := by
      have h1 : r ≤ 1 ↔ r = 1 := by omega
      simp [Engine.stepped, seq, h1, hpc]
    have hdone (z : State) (x : Engine) (hs : x.stop = none) (hx : x.nextPc = some np) (hpc : x.pc = e.pc) :
        (z.setEng n { x with st := .run, stallOn := .none, rep := r }).peDone n = z.setEng n (seq x) :=
      (State.peDone_some (x := { x with st := .run, stallOn := .none, rep := r }) (t := none) rfl hs fun _ => hx).trans
        (congrArg (z.setEng n) (hseq x hs hpc))
    have hstop' : e.stop = none := hstop
    obtain ⟨hpframe, -⟩ := e.abortInto_spec k
    have hjmp (hop : peOpc w = 12) : s.peJmp n =
        (s.setEng n { e with st := .run, stallOn := .none, rep := r }).peDone n (if (e.cond w != bit w 25) = true then some (fldN w 0 8) else none) := by
      rw [State.peJmp, State.peStep_at hat hop hr]
      dsimp only
      rw [State.modEng_setEng, hproc]
      rfl
    have hpstop : p.stop = none := (congrArg Engine.stop hpframe :).trans hstop
    have hpnp : p.nextPc = some np := (congrArg Engine.nextPc hpframe :).trans hnp
    have hppc : p.pc = e.pc := (congrArg Engine.pc hpframe :)
    have hpst : p.st = .run ∨ p.st = .stall ∨ p.st = .wait := (congrArg Engine.st hpframe :) ▸ hst
    have hproc' : Engine.proceed { p with rep := r } = { p with st := .run, stallOn := .none, rep := r } := Engine.proceed_of_running hpst
    have htook : (∀ x, (took x).stop = x.stop) ∧ (∀ x, (took x).nextPc = x.nextPc) ∧ (∀ x, (took x).pc = x.pc) ∧ ∀ x, seq (took x) = took (seq x) := by
      refine ⟨fun x => ?_, fun x => ?_, fun x => ?_, fun x => ?_⟩ <;> dsimp only [took] <;> split <;> rfl
    have hT : t = 0 ∨ t = 1 ∨ t = 2 ∨ t = 3 := by
      have : t < 4 := (w.extractLsb' 3 2).isLt
      omega
    have htag : tagOf t = .stamp ↔ t = 2 := by rcases hT with h | h | h | h <;> simp [h, tagOf]
    have hpush (hop : peOpc w = 2) : s.pePush n =
        if (p.ofs.at k).length < 4 then
          ((s.setEng n { p with rep := r }).modEng n fun x =>
            let y := x.proceed.pushOf k (x.pushEntry (tagOf t))
            if tagOf t = .stamp then y else { y with isr := 0, icnt := 0 }).peDone n
        else if bit e.goCfg (8 + k.val) = true then
          (((s.setEng n { p with rep := r }).modEng n fun x =>
            let y := { x.proceed with ofOvf := true }
            if tagOf t = .stamp then y else { y with isr := 0, icnt := 0 }).breachOf (s.engOwner n) .overflow).peDone n
        else (s.setEng n { p with rep := r }).modEng n fun x => x.stallAt .push := by
      have hgo : bit p.goCfg (8 + k.val) = bit e.goCfg (8 + k.val) := (congrArg (fun x : Engine => bit x.goCfg (8 + k.val)) hpframe :)
      rw [State.pePush, State.peStep_at hat hop hr]
      dsimp only
      rw [State.modEng_setEng, Engine.abortInto_rep, State.setEng_at, ← hgo]
      rfl
    refine ⟨fun x l hop hifs => ?pull, fun hop hifs => ?pullEmpty, fun hop hlen => ?push, fun hop hlen hov ho => ?pushDrop, fun hop hlen hov => ?pushFull,
      fun hno => ?noOwed, fun ha hlen => ?owed, fun hop hm hpv hdom => ?schedPs, fun hop hbad => ?schedBad, fun hop hm hdom => ?schedCt,
      fun hop hm => ?schedRel, fun hop => ?cmp, fun hop => ?ldcmp, fun hop => ?ldper, fun hop => ?sig, fun hop hc => ?jmpNo, fun hop hc hb => ?jmp, fun hop hr1 hc hb => ?jmpOut⟩
    case pull =>
      refine congrArg Host.Outcome.next (?_ : s.pePull n = _)
      rw [State.pePull, State.peStep_at hat hop hr]
      dsimp only
      rw [show (s.engines.at n).ifs.at (Fin.ofNat 8 (fldN w 0 3)) = x :: l from hifs]
      dsimp only
      rw [State.modEng_setEng, hproc]
      refine Eq.trans ?_ (hdone s { e with
        ifs := e.ifs.upd k l, osr := x.data, lt := x.tag, ps := x.stamp.getD e.ps, pv := x.stamp.isSome || e.pv,
        ocnt := if x.tag = .data ∨ x.tag = .last then x.nbits.val + 1 else 0 } hstop hnp rfl)
      cases x.stamp <;> rfl
    case pullEmpty =>
      refine congrArg Host.Outcome.next (?_ : s.pePull n = _)
      rw [State.pePull, State.peStep_at hat hop hr]
      dsimp only
      rw [show (s.engines.at n).ifs.at (Fin.ofNat 8 (fldN w 0 3)) = [] from hifs]
      dsimp only
      rw [State.modEng_setEng]
      exact congrArg (s.setEng n) (Engine.stallAt_of_running (e := { e with rep := r }) hst .pull)
    case push =>
      refine congrArg Host.Outcome.next ((hpush hop).trans ((if_pos hlen).trans ?_))
      rw [State.modEng_setEng, hproc']
      refine Eq.trans ?_ ((hdone s (took { p with
          ofOpen := if t = 0 ∨ t = 2 then p.ofOpen ||| BitVec.ofNat 8 (2 ^ k.val) else p.ofOpen &&& ~~~ BitVec.ofNat 8 (2 ^ k.val)
          ofs := p.ofs.upd k (p.ofs.at k ++ [{
            data := if t = 2 then e.ct.setWidth 64 else if t = 3 then 0 else e.isr >>> (64 - e.icnt)
            tag := tagOf t, nbits := if t < 2 then Fin.ofNat 64 (e.icnt - 1) else 0, es := e.ct }]) })
        ((htook.1 _).trans hpstop) ((htook.2.1 _).trans hpnp) ((htook.2.2.1 _).trans hppc)).trans ?_)
      · have hisr : p.isr = e.isr := (congrArg Engine.isr hpframe :)
        have hicnt : p.icnt = e.icnt := (congrArg Engine.icnt hpframe :)
        have hct : p.ct = e.ct := (congrArg Engine.ct hpframe :)
        rcases hT with h | h | h | h <;>
          simp [h, took, tagOf, Engine.pushOf, Engine.pushEntry, setBit8, hisr, hicnt, hct, Bank.mod_eq]
      · rw [htook.2.2.2]
        rfl
    case pushDrop =>
      refine congrArg Host.Outcome.next ((hpush hop).trans ((if_neg (Nat.not_lt.2 hlen)).trans ((if_pos hov).trans ?_)))
      rw [State.modEng_setEng, hproc', ho]
      have hclear : (if tagOf t = .stamp then { p with st := .run, stallOn := .none, rep := r, ofOvf := true }
          else { p with st := .run, stallOn := .none, rep := r, ofOvf := true, isr := 0, icnt := 0 } : Engine) =
            { took { p with ofOvf := true } with st := .run, stallOn := .none, rep := r } := by
        rw [if_congr htag rfl rfl]
        dsimp only [took]
        split <;> rfl
      refine (congrArg (fun x => (s.setEng n x).peDone n) hclear).trans ((hdone s (took { p with ofOvf := true })
        ((htook.1 _).trans hpstop) ((htook.2.1 _).trans hpnp) ((htook.2.2.1 _).trans hppc)).trans ?_)
      rw [htook.2.2.2]
      rfl
    case pushFull =>
      refine congrArg Host.Outcome.next ((hpush hop).trans ((if_neg (Nat.not_lt.2 hlen)).trans ((if_neg (Bool.eq_false_iff.1 hov)).trans ?_)))
      rw [State.modEng_setEng]
      exact congrArg (s.setEng n) (Engine.stallAt_of_running (e := { p with rep := r }) hpst .push)
    case noOwed =>
      exact if_neg (Bool.eq_false_iff.1 (Bool.and_eq_false_iff.2 (hno.imp_right fun h => decide_eq_false (Nat.not_lt.2 h))))
    case owed =>
      obtain ⟨-, hinto⟩ := e.abortInto_spec k
      have howes : e.owesNow k = true := by simp [Engine.owesNow, ha, hlen]
      refine ⟨?_, Bank.ext fun j => ?_⟩
      · rw [(hinto k).2.2]
        simp [howes]
      · rw [(hinto j).1, Bank.at_upd]
        simp [howes]
    case schedPs =>
      refine congrArg Host.Outcome.next (?_ : s.peSched n = _)
      rw [State.peSched, State.peStep_at hat hop hr]
      dsimp only
      rw [hm]
      change (if (!e.pv) = true ∨ fldN e.ps 40 3 ≠ e.adom.val then _ else _) = _
      rw [if_neg (by simp [hpv, hdom]), State.modEng_setEng, hproc, Engine.armed_eq]
      exact hdone s (armed (e.ps.setWidth 40 ++ (0 : BitVec 8)) e) hstop hnp rfl
    case schedBad =>
      refine congrArg Host.Outcome.next (?_ : s.peSched n = _)
      rw [State.peSched, State.peStep_at hat hop hr]
      dsimp only
      rcases hbad with ⟨hm, hpv⟩ | ⟨hm, hdom⟩ <;> rw [hm]
      · change (if (!e.pv) = true ∨ fldN e.ps 40 3 ≠ e.adom.val then _ else _) = _
        rw [if_pos (hpv.imp_left fun h => by simp [h]), State.modEng_setEng, Engine.fail, hstop']
        rfl
      · change (if e.adom ≠ 0 then _ else _) = _
        rw [if_pos hdom, State.modEng_setEng, Engine.fail, hstop']
        rfl
    case schedCt =>
      refine congrArg Host.Outcome.next (?_ : s.peSched n = _)
      rw [State.peSched, State.peStep_at hat hop hr]
      dsimp only
      rw [hm]
      change (if e.adom ≠ 0 then _ else _) = _
      rw [if_neg (not_not.2 hdom), State.modEng_setEng, hproc, Engine.armed_eq]
      exact hdone s (armed ((e.ct.extractLsb' 2 40 + off) ++ (0 : BitVec 8)) e) hstop hnp rfl
    case schedRel =>
      refine congrArg Host.Outcome.next (?_ : s.peSched n = _)
      rw [State.peSched, State.peStep_at hat hop hr]
      dsimp only
      rw [hm]
      change State.peDone (State.modEng _ n _) n = _
      rw [State.modEng_setEng, hproc]
      exact hdone s { e with at_ := e.at_ + (off ++ (0 : BitVec 8)) } hstop hnp rfl
    case cmp =>
      refine congrArg Host.Outcome.next (?_ : s.peCmp n = _)
      rw [State.peCmp, State.peStep_at hat hop hr]
      dsimp only
      rw [State.modEng_setEng, hproc]
      exact hdone s { e with eq := e.compare (if bit w 25 then e.cvLev.setWidth 32 else hi32 e.isr) } hstop hnp rfl
    case ldcmp =>
      refine congrArg Host.Outcome.next (?_ : s.peLdcmp n = _)
      rw [State.peLdcmp, State.peStep_at hat hop hr]
      dsimp only
      rw [State.modEng_setEng, hproc]
      refine Eq.trans ?_ (hdone s (if bit w 24 then { e with cmpMask := load e.cmpMask } else { e with cmpVal := load e.cmpVal })
        (by split <;> exact hstop) (by split <;> exact hnp) (by split <;> rfl))
      have hload (x : W32) : (if bit w 25 then mrg 0xFFFF0000 x (imm <<< 16) else mrg 0xFFFF x imm) = load x := by
        simp only [load, imm, mrg_hi, mrg_lo]
      rw [hload, hload]
      cases bit w 24 <;> rfl
    case ldper =>
      refine congrArg Host.Outcome.next (?_ : s.peLdper n = _)
      rw [State.peLdper, State.peStep_at hat hop hr]
      dsimp only
      rw [State.modEng_setEng, hproc]
      exact hdone s { e with period := (fld w 0 24).setWidth 32 } hstop hnp rfl
    case sig =>
      refine congrArg Host.Outcome.next (?_ : s.peSig n = _)
      rw [State.peSig, State.peStep_at hat hop hr]
      dsimp only
      rw [State.modEng_setEng, hproc]
      by_cases hsn : bit e.goCfg 24 = true
      · rw [if_pos hsn]
        refine (hdone (s.fire (fldN e.goCfg 16 8)) { e with sigF := true } hstop hnp rfl).trans ?_
        rw [if_pos hsn]
        rfl
      · rw [if_neg hsn]
        refine (hdone s { e with sigF := true } hstop hnp rfl).trans ?_
        rw [if_neg hsn]
        rfl
    case jmpNo =>
      refine congrArg Host.Outcome.next ((hjmp hop).trans ?_)
      rw [hc]
      exact hdone s e hstop hnp rfl
    case jmp =>
      refine congrArg Host.Outcome.next ((hjmp hop).trans ?_)
      rw [hc]
      have h1 : r ≤ 1 ↔ r = 1 := by omega
      refine (State.peDone_some (x := { e with st := .run, stallOn := .none, rep := r }) (np := fldN w 0 8) rfl hstop fun hle => ?_).trans ?_
      · exact if_pos (hb.resolve_left (not_not.2 (h1.1 hle)))
      · simp only [Engine.stepped, h1]
        rfl
    case jmpOut =>
      refine congrArg Host.Outcome.next ((hjmp hop).trans ?_)
      rw [hc]
      refine (State.peDone_none (x := { e with st := .run, stallOn := .none, rep := r }) (t := some (fldN w 0 8)) hr1.le (if_neg hb)).trans ?_
      rw [Engine.fail, hstop']
      rfl
  case bound =>
    intro s n w hat hop hnp
    obtain ⟨-, hst, hstop, -, -, -⟩ := id hat
    refine congrArg Host.Outcome.next (?_ : s.peLdper n = _)
    rw [State.peLdper, State.peStep_at hat hop one_ne_zero]
    dsimp only
    rw [State.modEng_setEng, Engine.proceed_of_running (e := { s.engines.at n with rep := 1 }) hst]
    refine (State.peDone_none (x := { s.engines.at n with st := .run, stallOn := .none, rep := 1, period := (fld w 0 24).setWidth 32 })
      (t := none) le_rfl hnp).trans ?_
    rw [Engine.fail, ← hstop]
    rfl
  case illegal =>
    intro s n hup hlive hill
    refine congrArg Host.Outcome.next ((if_pos ⟨by simp [State.peLive, hup, hlive], by simpa using hill⟩).trans ?_)
    rfl

end Sys2Proof.Machine

namespace Sys2Proof.Machine

/-! R195, R203 to R208: what a pin engine does with its lanes. -/

theorem setBit16_getLsbD (x : BitVec 16) {k j : Nat} (hk : k < 16) (v : Bool) :
    (setBit16 x k v).getLsbD j = if j = k then v else x.getLsbD j := by
  have hbit : (BitVec.ofNat 16 (2 ^ k)).getLsbD j = decide (j = k) := by
    rw [BitVec.getLsbD_ofNat, Nat.testBit_two_pow]
    by_cases h : j = k
    · simp [h, hk]
    · simp [h, Ne.symm h]
  unfold setBit16
  cases v
  · rw [if_neg (by decide), BitVec.getLsbD_and, BitVec.getLsbD_not, hbit]
    by_cases h : j = k
    · simp [h]
    · by_cases h16 : j < 16
      · simp [h, h16]
      · simp [h, x.getLsbD_of_ge j (Nat.not_lt.1 h16)]
  · rw [if_pos rfl, BitVec.getLsbD_or, hbit]
    by_cases h : j = k <;> simp [h]

theorem foldl_setBit16 (f : Nat → Bool) (l : List Nat) (hl : ∀ k ∈ l, k < 16) (x : BitVec 16) (j : Nat) :
    (l.foldl (fun x k => setBit16 x k (f k)) x).getLsbD j = if j ∈ l then f j else x.getLsbD j := by
  induction l generalizing x with
  | nil => simp
  | cons k l ih =>
    rw [List.foldl_cons, ih fun m hm => hl m (List.mem_cons_of_mem k hm), setBit16_getLsbD x (hl k List.mem_cons_self)]
    by_cases hj : j ∈ l
    · simp [hj]
    · by_cases hk : j = k <;> simp [hj, hk]

/-! R195: the entries of a step. -/

/-- What the enqueues of a step do to the engines: lanes of engine `n` are marked, and marks stay. -/
structure State.Marked (s : State) (n : Fin 64) (z : State) : Prop where
  other : ∀ m, m ≠ n → z.engines.at m = s.engines.at m
  own : z.engines.at n = { s.engines.at n with stepDone := (z.engines.at n).stepDone }
  kept : ∀ i, (s.engines.at n).stepDone.getLsbD i = true → (z.engines.at n).stepDone.getLsbD i = true

theorem State.Marked.of_engines {s z : State} {n : Fin 64} (h : z.engines = s.engines) : s.Marked n z :=
  ⟨fun m _ => by rw [h], by rw [h], fun i hi => by rw [h]; exact hi⟩

theorem State.Marked.trans {s z y : State} {n : Fin 64} (h : s.Marked n z) (k : z.Marked n y) : s.Marked n y :=
  ⟨fun m hm => (k.other m hm).trans (h.other m hm), by rw [k.own, h.own], fun i hi => k.kept i (h.kept i hi)⟩

/-- A lane is marked. -/
theorem State.Marked.mark (s : State) (n : Fin 64) (i : Nat) :
    s.Marked n (s.modEng n fun e => { e with stepDone := e.stepDone ||| BitVec.ofNat 16 (2 ^ i) }) := by
  refine ⟨fun m hm => Bank.at_mod_ne _ _ hm, ?_, fun j hj => ?_⟩
  · rw [State.modEng_engines, Bank.at_mod_self]
  · rw [State.modEng_engines, Bank.at_mod_self, BitVec.getLsbD_or, hj, Bool.true_or]

theorem State.enqLane_engines {s z : State} {n : Fin 256} {op : ActOp} {v : Bool} {td : Fin 8} {ns : BitVec 40} {r : EnqRes}
    (h : s.enqLane n op v td ns = (z, r)) : z.engines = s.engines := by
  have hc := s.enqLane_changes n op v td ns
  rw [h] at hc
  exact hc.same .engines rfl

theorem State.enqAll_marked (n : Fin 64) (u : Bool) (td : Fin 8) (ns : BitVec 40) (op : ActOp) (l : List (Nat × Bool)) (s : State) :
    s.Marked n (s.enqAll n u td ns op l).1 ∧
      ((s.enqAll n u td ns op l).2 = .done → (∀ p ∈ l, p.1 < 16) →
        ∀ p ∈ l, ((s.enqAll n u td ns op l).1.engines.at n).stepDone.getLsbD p.1 = true) := by
  induction l generalizing s with
  | nil => exact ⟨.of_engines rfl, fun _ _ p hp => nomatch hp⟩
  | cons p l ih =>
    obtain ⟨i, v⟩ := p
    unfold State.enqAll
    split
    next hmark =>
      refine ⟨(ih s).1, fun hr hl p hp => ?_⟩
      rcases List.mem_cons.1 hp with rfl | hp
      · exact (ih s).1.kept i hmark
      · exact (ih s).2 hr (fun q hq => hl q (List.mem_cons_of_mem _ hq)) p hp
    next =>
      split
      next => exact ⟨.of_engines rfl, fun h => nomatch h⟩
      next =>
        split
        next s1 h1 =>
          have hs1 : s.Marked n s1 := .of_engines (State.enqLane_engines h1)
          have hnext := ih (s1.modEng n fun e => { e with stepDone := e.stepDone ||| BitVec.ofNat 16 (2 ^ i) })
          refine ⟨(hs1.trans (.mark s1 n i)).trans hnext.1, fun hr hl p hp => ?_⟩
          rcases List.mem_cons.1 hp with rfl | hp
          · refine hnext.1.kept i ?_
            have hi : i < 16 := hl _ hp
            rw [State.modEng_engines, Bank.at_mod_self, BitVec.getLsbD_or, BitVec.getLsbD_ofNat, Nat.testBit_two_pow_self]
            simp [hi]
          · exact hnext.2 hr (fun q hq => hl q (List.mem_cons_of_mem _ hq)) p hp
        next s1 h1 =>
          have hs := ih s
          split
          next s2 h2 =>
            rw [h2] at hs
            exact ⟨hs.1, fun h => nomatch h⟩
          next s2 r _ h2 =>
            rw [h2] at hs
            exact ⟨hs.1, fun h => nomatch h⟩
        next s1 h1 =>
          have hs1 : s.Marked n s1 := .of_engines (State.enqLane_engines h1)
          exact ⟨hs1.trans (ih s1).1, fun h => nomatch h⟩

/-! R203, R204: capture sets. -/

theorem engLane_inj (n : Fin 64) {i j : Nat} (hi : i < 16) (hj : j < 16) (h : engLane n i = engLane n j) : i = j := by
  have := congrArg Fin.val h
  simp only [engLane, Fin.ofNat] at this
  omega

theorem State.consume_setEng (s : State) (n : Fin 64) {x : Engine} (h : x.lanes = (s.engines.at n).lanes) :
    (s.setEng n x).consume n = s.consume n := by
  unfold State.consume
  rw [State.setEng_at, h]
  rfl

theorem State.released_setEng (s : State) (n : Fin 64) {x : Engine} (h : x.lanes = (s.engines.at n).lanes) :
    (s.setEng n x).released n = s.released n := by
  unfold State.released
  rw [State.consume_setEng s n h]
  rfl

theorem State.mem_consume_lt {s : State} {n : Fin 64} {i : Nat} (h : i ∈ s.consume n) : i < 16 :=
  List.mem_range.1 (List.mem_filter.1 h).1

/-- R204: the members of the set released at `t`. -/
def State.setOf (s : State) (n : Fin 64) (t : Instant) : List Nat :=
  (s.consume n).filter fun i => ((s.lanes.at (engLane n i)).cq.head?).map (·.stamp) = some t

theorem State.mem_setOf {s : State} {n : Fin 64} {t : Instant} {i : Nat} :
    i ∈ s.setOf n t ↔ i ∈ s.consume n ∧ ((s.lanes.at (engLane n i)).cq.head?).map (fun c => c.stamp) = some t := by
  simp [State.setOf, List.mem_filter]

/-- Each lane of a list is changed once. -/
theorem State.foldl_modLane {f : Nat → Fin 256} {g : Lane → Lane} (l : List Nat) (hnd : l.Nodup)
    (hinj : ∀ i ∈ l, ∀ j ∈ l, f i = f j → i = j) (s : State) {i : Nat} (hi : i ∈ l) :
    (l.foldl (fun z i => z.modLane (f i) g) s).lanes.at (f i) = g (s.lanes.at (f i)) := by
  have hout (l : List Nat) (s : State) (m : Fin 256) (hm : ∀ j ∈ l, f j ≠ m) :
      (l.foldl (fun z i => z.modLane (f i) g) s).lanes.at m = s.lanes.at m := by
    induction l generalizing s with
    | nil => rfl
    | cons j l ih =>
      rw [List.foldl_cons, ih _ fun k hk => hm k (List.mem_cons_of_mem j hk), State.modLane_lanes,
        Bank.at_mod_ne _ _ (hm j List.mem_cons_self).symm]
  induction l generalizing s with
  | nil => exact nomatch hi
  | cons j l ih =>
    obtain ⟨hj, hnd⟩ := List.nodup_cons.1 hnd
    rw [List.foldl_cons]
    rcases List.mem_cons.1 hi with rfl | hi'
    · rw [hout l _ _ fun k hk he => hj (hinj k (List.mem_cons_of_mem i hk) i List.mem_cons_self he ▸ hk), State.modLane_lanes,
        Bank.at_mod_self]
    · have hne : f i ≠ f j := fun he => hj (hinj i hi j List.mem_cons_self he ▸ hi')
      rw [ih hnd (fun a ha b hb => hinj a (List.mem_cons_of_mem j ha) b (List.mem_cons_of_mem j hb)) _ hi', State.modLane_lanes,
        Bank.at_mod_ne _ _ hne]

/-- R204: what the set released at `t` makes of the engine. -/
def State.setTaken (s : State) (n : Fin 64) (t : Instant) (e : Engine) : Engine :=
  let hd (i : Nat) : Option CapEntry := (s.lanes.at (engLane n i)).cq.head?
  { e.proceed with
    ct := stamp42 t, cvLev := (s.setOf n t).foldl (fun x i => setBit16 x i (((hd i).map (·.v)).getD false)) e.cvLev,
    cvPres := (s.setOf n t).foldl (fun x i => setBit16 x i true) 0,
    capOvf := e.capOvf || (s.setOf n t).any fun i => ((hd i).map (·.ovfb)).getD false,
    wm := if notBefore t.ns e.wm then t.ns else e.wm }

/-- R204: the engine takes the set, and its lanes lose their heads. -/
theorem State.takeSet_spec (s : State) (n : Fin 64) (t : Instant) :
    ∃ (l : Bank Lane 256) (lev pres : BitVec 16) (ovf : Bool) (wm : W64),
      s.takeSet n t = ({ s with lanes := l } : State).setEng n { (s.engines.at n).proceed with
        ct := stamp42 t, cvLev := lev, cvPres := pres, capOvf := ovf, wm := wm } ∧
      ∀ i ∈ s.setOf n t, pres.getLsbD i = true ∧ (l.at (engLane n i)).cq = (s.lanes.at (engLane n i)).cq.tail ∧
        some (lev.getLsbD i) = ((s.lanes.at (engLane n i)).cq.head?).map fun c => c.v := by
  have hlt : ∀ i ∈ s.setOf n t, i < 16 := fun i hi => State.mem_consume_lt (State.mem_setOf.1 hi).1
  have hnd : (s.setOf n t).Nodup := (List.nodup_range.filter _).filter _
  let z : State := (s.setOf n t).foldl (fun z i => z.modLane (engLane n i) fun l => { l with cq := l.cq.tail }) (s.noteMark n)
  have hz : State.Changes [.lanes] (s.noteMark n) z := .foldl (.refl _ _) fun z i => z.modLane_changes _ _
  let lev : BitVec 16 := (s.setOf n t).foldl (fun x i => setBit16 x i ((((s.lanes.at (engLane n i)).cq.head?).map (·.v)).getD false))
    (s.engines.at n).cvLev
  let pres : BitVec 16 := (s.setOf n t).foldl (fun x i => setBit16 x i true) 0
  let ovf : Bool := (s.engines.at n).capOvf || (s.setOf n t).any fun i => (((s.lanes.at (engLane n i)).cq.head?).map (·.ovfb)).getD false
  let wm : W64 := if notBefore t.ns (s.outMark n) then t.ns else s.outMark n
  refine ⟨z.lanes, lev, pres, ovf, wm, ?_, fun i hi => ⟨?_, ?_, ?_⟩⟩
  rotate_left 1
  · exact (foldl_setBit16 (fun _ => true) _ hlt 0 i).trans (if_pos hi)
  · have hcq := State.foldl_modLane (g := fun l => { l with cq := l.cq.tail }) _ hnd
      (fun i hi j hj => engLane_inj n (hlt i hi) (hlt j hj)) (s.noteMark n) hi
    exact (congrArg Lane.cq hcq).trans rfl
  · have hlev : lev.getLsbD i = (((s.lanes.at (engLane n i)).cq.head?).map (·.v)).getD false :=
      (foldl_setBit16 _ _ hlt _ i).trans (if_pos hi)
    obtain ⟨c, hc, -⟩ := Option.map_eq_some_iff.1 (State.mem_setOf.1 hi).2
    rw [hlev, hc]
    rfl
  · have heng : z.engines.at n = { s.engines.at n with wm := s.outMark n } := by
      rw [(hz.same .engines rfl : z.engines = _)]
      exact Bank.at_mod_self _ _ _
    have hframe (x : Engine) : z.setEng n x = ({ s with lanes := z.lanes } : State).setEng n x := by
      refine (congrArg (fun y : State => y.setEng n x) hz.frame).trans ?_
      simp only [State.setEng, State.noteMark, State.modEng, Bank.mod_eq]
      exact congrArg (fun b => ({ s with lanes := z.lanes, engines := b } : State)) (Bank.upd_upd _ _ _ _)
    have hstep : s.takeSet n t = z.setEng n (s.setTaken n t (z.engines.at n)) := rfl
    rw [hstep, heng]
    exact hframe _

/-- R195: a step whose lanes have all taken their entries completes. -/
theorem State.afterEnq_done {s z : State} {n : Fin 64} {u : Bool} {td : Fin 8} {ns : BitVec 40} {op : ActOp} {l : List (Nat × Bool)}
    (h : s.enqAll n u td ns op l = (z, .done)) (f : Engine → Engine) :
    State.afterEnq (s.enqAll n u td ns op l) n (fun y => (y.modEng n f).peDone n) =
      (z.setEng n (f (Engine.proceed { s.engines.at n with stepDone := (z.engines.at n).stepDone }))).peDone n := by
  have hown := (s.enqAll_marked n u td ns op l).1.own
  rw [h] at hown ⊢
  change State.peDone (State.modEng (z.modEng n Engine.proceed) n f) n = _
  rw [State.modEng_eq_setEng z n, State.modEng_setEng, ← hown]

/-- R206: what a step of OUT makes of the engine. -/
def Engine.outStep (e : Engine) : Engine :=
  let lv := (List.range e.wo).foldl (init := (e.lvLev, e.lvVal)) fun p j =>
    let b := decide (j < e.ocnt) && e.osr.getLsbD j
    (setBit16 p.1 (e.obase + j) b, setBit16 p.2 (e.obase + j) true)
  { e with osr := e.osr >>> e.wo, ocnt := e.ocnt - e.wo, at_ := e.at_ + e.per, lvLev := lv.1, lvVal := lv.2 }

/-- R229: what a step of SET makes of the engine. -/
def Engine.setStep (e : Engine) (w : W32) : Engine :=
  let m := fld w 0 16
  let lv : BitVec 16 × BitVec 16 :=
    match actOp (fldN w 23 3) with
    | .drive => (if bit w 22 then e.lvLev ||| m else e.lvLev &&& ~~~m, e.lvVal ||| m)
    | .float => (e.lvLev, e.lvVal &&& ~~~m)
    | .toggle => (e.lvLev, e.lvVal &&& ~~~m)
    | .rest => (e.lvLev, e.lvVal &&& ~~~m)
    | .sample => (e.lvLev, e.lvVal)
    | .mark => (e.lvLev, e.lvVal)
  { e with lvLev := lv.1, lvVal := lv.2, at_ := if bit w 21 then e.at_ + e.per else e.at_ }

/-- R229: the operation of a SET decides what becomes of the levels. -/
theorem Engine.setStep_levels (e : Engine) (w : W32) :
    (e.setStep w).lvVal = (if fldN w 23 3 = 0 then e.lvVal ||| fld w 0 16
      else if fldN w 23 3 ≤ 3 then e.lvVal &&& ~~~ fld w 0 16 else e.lvVal) ∧
    (e.setStep w).lvLev = (if fldN w 23 3 ≠ 0 then e.lvLev
      else if bit w 22 then e.lvLev ||| fld w 0 16 else e.lvLev &&& ~~~ fld w 0 16) := by
  have hlt : fldN w 23 3 < 8 := (w.extractLsb' 23 3).isLt
  unfold Engine.setStep
  generalize fldN w 23 3 = c at hlt ⊢
  interval_cases c <;> exact ⟨rfl, rfl⟩

/-- R227: what a step of IN makes of the engine that has taken its set. -/
def Engine.inStep (e : Engine) (w : W32) : Engine :=
  let isr := (e.isr >>> e.wi) ||| (BitVec.ofNat 64 e.inBits <<< (64 - e.wi))
  let e1 := { e with isr := isr, icnt := min 64 (e.icnt + e.wi) }
  if bit w 24 then { e1 with eq := e1.compare (hi32 isr) } else e1

/-- Settles O27. -/
theorem engineLaneInstructions : Obligations.EngineLaneInstructions := by
  refine ⟨?steps, ?release, ?stop, ?clock, ?entries⟩
  case steps =>
    intro s z n w np r hat hnp e s1 after
    obtain ⟨hup, hst, hstop, hw, hlegal, hrep⟩ := id hat
    have hproc (x : Engine) (h : x.st = e.st) : x.proceed = { x with st := .run, stallOn := .none } :=
      Engine.proceed_of_running (by rw [h]; exact hst)
    have hafter (x : Engine) (hs : x.st = .run) (hpc : x.pc = e.pc) (hrep : x.rep = r) : after (x.stepped np) := by
      refine ⟨hs, rfl, ?_⟩
      by_cases h1 : r ≤ 1
      · rw [if_pos h1]
        simp [Engine.stepped, hrep, h1]
      · rw [if_neg h1]
        simp [Engine.stepped, hrep, h1, hpc]
    have hdone (y : State) (x : Engine) (hs : x.st = .run) (hp : x.stop = none) (hn : x.nextPc = some np) :
        (y.setEng n x).peDone n = y.setEng n (x.stepped np) := State.peDone_some hs hp fun _ => hn
    have hs1 : s1.engines.at n = { e with rep := r } := Bank.at_upd_self _ _ _
    have hset (t : Instant) (hr : r ≠ 0) (ht : s.released n = some t) : s1.released n = some t :=
      (State.released_setEng s n (x := { e with rep := r }) rfl).trans ht
    have htake (t : Instant) : ∃ (l : Bank Lane 256) (lev pres : BitVec 16) (ovf : Bool) (wm : W64),
        s1.takeSet n t = ({ s with lanes := l } : State).setEng n { e with
          st := .run, stallOn := .none, rep := r, ct := stamp42 t, cvLev := lev, cvPres := pres, capOvf := ovf, wm := wm } ∧
        ∀ i ∈ s.consume n, ((s.lanes.at (engLane n i)).cq.head?).map (fun c => c.stamp) = some t →
          pres.getLsbD i = true ∧ (l.at (engLane n i)).cq = (s.lanes.at (engLane n i)).cq.tail ∧
            some (lev.getLsbD i) = ((s.lanes.at (engLane n i)).cq.head?).map fun c => c.v := by
      obtain ⟨l, lev, pres, ovf, wm, htake, hmem⟩ := s1.takeSet_spec n t
      refine ⟨l, lev, pres, ovf, wm, ?_, fun i hi ht => hmem i (State.mem_setOf.2 ⟨?_, ht⟩)⟩
      · rw [htake, hs1, hproc { e with rep := r } rfl]
        exact congrArg (fun b => ({ s with lanes := l, engines := b } : State)) (Bank.upd_upd _ _ _ _)
      · rw [show s1.consume n = s.consume n from State.consume_setEng s n (x := { e with rep := r }) rfl]
        exact hi
    have hin (t : Instant) (hop : peOpc w = 4) (hr : r ≠ 0) (ht : s.released n = some t) (y : State) (x : Engine)
        (htaken : s1.takeSet n t = y.setEng n x) :
        s.peIn n = if (bit w 24 && (x.inStep w).eq) = true then (y.setEng n { x.inStep w with isr := 0, icnt := 0, rep := 0 }).peDone n
          else (y.setEng n (x.inStep w)).peDone n := by
      rw [State.peIn, State.peStep_at hat hop hr]
      change (match s1.released n with | none => _ | some t => _) = _
      rw [hset t hr ht]
      change (if (bit w 24 && (((s1.takeSet n t).modEng n fun x => x.inStep w).engines.at n).eq) = true then
        (((s1.takeSet n t).modEng n fun x => x.inStep w).modEng n fun x => { x with isr := 0, icnt := 0, rep := 0 }).peDone n
        else ((s1.takeSet n t).modEng n fun x => x.inStep w).peDone n) = _
      rw [htaken, State.modEng_setEng, State.setEng_at, State.modEng_setEng]
    refine ⟨fun hop hr hz => ?out, fun hop hr hz => ?set, fun t hop hr hb ht => ?in_, fun t hop hr ht => ?wait, fun t hop hr hb ht => ?hunt,
      fun hop hr ht => ?waits, fun c hc hop hr => ?none_⟩
    case out =>
      refine ⟨(Engine.outStep { e with st := .run, stallOn := .none, rep := r, stepDone := (z.engines.at n).stepDone }).stepped np,
        congrArg Host.Outcome.next (?_ : s.peOut n = _), hafter _ rfl rfl rfl, rfl, rfl, rfl⟩
      rw [State.peOut, State.peStep_at hat hop hr]
      refine (State.afterEnq_done (s := s1) hz Engine.outStep).trans ?_
      rw [hs1, hproc { e with rep := r, stepDone := (z.engines.at n).stepDone } rfl]
      exact hdone z _ rfl hstop hnp
    case set =>
      refine ⟨(Engine.setStep { e with st := .run, stallOn := .none, rep := r, stepDone := (z.engines.at n).stepDone } w).stepped np,
        congrArg Host.Outcome.next (?_ : s.peSet n = _), hafter _ rfl rfl rfl, rfl, (Engine.setStep_levels _ w).1, (Engine.setStep_levels _ w).2⟩
      rw [State.peSet, State.peStep_at hat hop hr]
      refine (State.afterEnq_done (s := s1) hz fun x => x.setStep w).trans ?_
      rw [hs1, hproc { e with rep := r, stepDone := (z.engines.at n).stepDone } rfl]
      exact hdone z _ rfl hstop hnp
    case in_ =>
      obtain ⟨l, lev, pres, ovf, wm, htaken, hmem⟩ := htake t
      have hstep : Engine.inStep { e with
          st := .run, stallOn := .none, rep := r, ct := stamp42 t, cvLev := lev, cvPres := pres, capOvf := ovf, wm := wm } w = { e with
          st := .run, stallOn := .none, rep := r, ct := stamp42 t, cvLev := lev, cvPres := pres, capOvf := ovf, wm := wm,
          isr := (e.isr >>> e.wi) ||| (BitVec.ofNat 64 (Engine.inBits { e with cvLev := lev }) <<< (64 - e.wi)),
          icnt := min 64 (e.icnt + e.wi) } := by
        unfold Engine.inStep
        dsimp only
        rw [hb]
        rfl
      have hexec := hin t hop hr ht _ _ htaken
      rw [hstep, hb, Bool.false_and, if_neg Bool.false_ne_true] at hexec
      exact ⟨({ s with lanes := l } : State).setEng n _, _, congrArg Host.Outcome.next (hexec.trans (hdone _ _ rfl hstop hnp)), rfl,
        hafter _ rfl rfl rfl, rfl, rfl, rfl, hmem⟩
    case wait =>
      obtain ⟨l, lev, pres, ovf, wm, htaken, hmem⟩ := htake t
      refine ⟨({ s with lanes := l } : State).setEng n _, Engine.stepped { e with
        st := .run, stallOn := .none, rep := r, ct := stamp42 t, cvLev := lev, cvPres := pres, capOvf := ovf, wm := wm } np,
        congrArg Host.Outcome.next (?_ : s.peWait n = _), rfl, hafter _ rfl rfl rfl, rfl, rfl, rfl⟩
      rw [State.peWait, State.peStep_at hat hop hr]
      change (match s1.released n with | none => _ | some t => _) = _
      rw [hset t hr ht]
      change (s1.takeSet n t).peDone n = _
      rw [htaken]
      exact hdone { s with lanes := l } _ rfl hstop hnp
    case hunt =>
      obtain ⟨l, lev, pres, ovf, wm, htaken, -⟩ := htake t
      let isr : W64 := (e.isr >>> e.wi) ||| (BitVec.ofNat 64 (Engine.inBits { e with cvLev := lev }) <<< (64 - e.wi))
      let x : Engine := { e with
        st := .run, stallOn := .none, rep := r, ct := stamp42 t, cvLev := lev, cvPres := pres, capOvf := ovf, wm := wm,
        isr := isr, icnt := min 64 (e.icnt + e.wi), eq := e.compare (hi32 isr) }
      have hstep : Engine.inStep { e with
          st := .run, stallOn := .none, rep := r, ct := stamp42 t, cvLev := lev, cvPres := pres, capOvf := ovf, wm := wm } w = x := by
        unfold Engine.inStep
        dsimp only
        rw [hb]
        rfl
      have hexec := hin t hop hr ht _ _ htaken
      rw [hstep, hb, Bool.true_and] at hexec
      by_cases heq : x.eq = true
      · refine ⟨({ s with lanes := l } : State).setEng n _, Engine.stepped { x with isr := 0, icnt := 0, rep := 0 } np,
          congrArg Host.Outcome.next (hexec.trans ((if_pos heq).trans (hdone _ _ rfl hstop hnp))), rfl, rfl, ?_⟩
        exact (if_pos heq).mpr ⟨rfl, rfl, rfl, rfl, rfl, rfl⟩
      · refine ⟨({ s with lanes := l } : State).setEng n _, Engine.stepped x np,
          congrArg Host.Outcome.next (hexec.trans ((if_neg heq).trans (hdone _ _ rfl hstop hnp))), rfl, rfl, ?_⟩
        exact (if_neg heq).mpr ⟨hafter x rfl rfl rfl, rfl, rfl⟩
    case waits =>
      have hnone : s1.released n = none := (State.released_setEng s n (x := { e with rep := r }) rfl).trans ht
      have hwait : s1.modEng n Engine.waitSet = { s with engines := s.engines.upd n { e with st := .wait, stallOn := .none, rep := r } } := by
        have hd : e.st ≠ .draining := by rcases hst with h | h | h <;> (rw [show e.st = _ from h]; decide)
        refine (State.modEng_setEng s n { e with rep := r } Engine.waitSet).trans (congrArg (s.setEng n) ?_)
        simp [Engine.waitSet, hd]
      rcases hop with hop | hop
      · rw [if_pos hop]
        refine congrArg Host.Outcome.next ((?_ : s.peIn n = _).trans hwait)
        rw [State.peIn, State.peStep_at hat hop hr]
        change (match s1.released n with | none => _ | some t => _) = _
        rw [hnone]
        rfl
      · rw [if_neg (by omega)]
        refine congrArg Host.Outcome.next ((?_ : s.peWait n = _).trans hwait)
        rw [State.peWait, State.peStep_at hat hop hr]
        change (match s1.released n with | none => _ | some t => _) = _
        rw [hnone]
        rfl
    case none_ =>
      subst hr
      have hnext : (s.modEng n Engine.proceed).peNext n none = { s with engines := s.engines.upd n { e with
          st := .run, stallOn := .none, pc := BitVec.ofNat 8 np, rep := 0, stepDone := 0 } } := by
        rw [State.modEng_eq_setEng, hproc (s.engines.at n) rfl]
        exact State.peNext_some (x := { e with st := .run, stallOn := .none }) (t := none) rfl hnp
      simp only [List.mem_cons, List.not_mem_nil, or_false] at hc
      rcases hc with rfl | rfl | rfl
      · exact congrArg Host.Outcome.next ((State.peStep_none hat hop _).trans hnext)
      · exact congrArg Host.Outcome.next ((State.peStep_none hat hop _).trans hnext)
      · exact congrArg Host.Outcome.next ((State.peStep_none hat hop _).trans hnext)
  case release =>
    intro s t n a hst hrel
    have hset : a.setReleased n = if peOpc (a.peWord n) = 4 then a.peIn n else a.peWait n :=
      (if_pos (.inl hst)).trans (if_pos (Option.isSome_iff_ne_none.2 hrel))
    refine ⟨a.setReleased n, rfl, ?_⟩
    rw [hset]
    split <;> rfl
  case stop =>
    intro s z n r p e hup hst hlegal hop hrep hstop hrec hz
    have hlive : s.peLive n = true := by
      rcases hst with h | h | h <;> simp [State.peLive, hup, show (s.engines.at n).st = _ from h, PeSt.live]
    have hout : s.peOut n = State.afterEnq (s.enqAll n false e.adom e.atNs .drive e.outSet) n fun y => (y.modEng n Engine.outStep).peDone n := by
      rw [State.peOut, State.peStep]
      refine (if_pos ⟨hlive, hlegal, hop⟩).trans (if_neg ?_)
      rw [show (s.engines.at n).rep = r + 2 from hrep]
      exact Nat.succ_ne_zero _
    let x : Engine := { Engine.outStep (Engine.proceed { e with stepDone := (z.engines.at n).stepDone }) with rep := r + 1, stepDone := 0 }
    have hxlive : x.st.live = true := by
      change (if e.st = .draining then PeSt.draining else PeSt.run).live = true
      split <;> rfl
    have hdone : s.peOut n = z.setEng n x.boundary := by
      rw [hout, State.afterEnq_done hz, State.peDone]
      dsimp only
      have h2 : (Engine.outStep (Engine.proceed { s.engines.at n with stepDone := (z.engines.at n).stepDone })).rep = r + 2 := hrep
      rw [State.setEng_at, if_neg (by rw [h2]; omega), State.modEng_setEng, State.modEng_setEng, h2]
      rfl
    have hbound : x.boundary = match p with | .halt => x.haltNow | .off b => if b = true then x.abortOff else x.toOff := by
      unfold Engine.boundary
      rw [if_pos hxlive, show x.stop = some p from hstop]
      cases p <;> rfl
    cases p with
    | halt =>
      exact ⟨_, congrArg Host.Outcome.next (hdone.trans (congrArg (z.setEng n) hbound)), rfl, rfl, rfl, rfl, rfl, fun _ => rfl,
        fun b h => nomatch h⟩
    | off b =>
      obtain ⟨o, bb, pp, habort, -⟩ := Engine.abortOff_spec (e := x) hrec
      have hoff : ∃ y : Engine, x.boundary = y ∧ y.rep = r + 1 ∧ y.pc = e.pc ∧ y.stop = none ∧ y.at_ = e.at_ + e.per ∧
          y.osr = e.osr >>> e.wo ∧ y.st = .off ∧ y.en = false := by
        have hen (c : W32) : bit (c &&& ~~~1) 0 = false := by simp [bit]
        refine ⟨x.boundary, rfl, ?_⟩
        rw [hbound]
        cases b with
        | true =>
          dsimp only
          rw [if_pos rfl, habort]
          exact ⟨rfl, rfl, rfl, rfl, rfl, rfl, hen _⟩
        | false =>
          dsimp only
          rw [if_neg Bool.false_ne_true, Engine.toOff_of_none (e := x) hrec]
          exact ⟨rfl, rfl, rfl, rfl, rfl, rfl, hen _⟩
      obtain ⟨y, hy, h1, h2, h3, h4, h5, h6, h7⟩ := hoff
      exact ⟨y, congrArg Host.Outcome.next (hdone.trans (congrArg (z.setEng n) hy)), h1, h2, h3, h4, h5, fun h => (nomatch h), fun _ _ => ⟨h6, h7⟩⟩
  case clock =>
    intro s z n r l e due hup hst htick hclk hlim hz
    refine congrArg Host.Outcome.next (?_ : s.clkToggle n = _)
    have hlive : s.peLive n = true := by simp [State.peLive, hup, show (s.engines.at n).st.live = true from hst]
    unfold State.clkToggle
    dsimp only
    rw [show (s.engines.at n).clk = r :: l from hclk]
    dsimp only
    have hlim' : (!bit (s.engines.at n).clkReg 26) = true ∨ r.lim.isSome = true ∨
        ((s.engines.at n).clkDue r - ((s.engines.at n).atNs + BitVec.ofNat 40 (s.engines.at n).clkOff)).toInt < 0 := by
      rcases hlim with h | h | h
      · exact .inl (by rw [show bit (s.engines.at n).clkReg 26 = false from h]; rfl)
      · exact .inr (.inl (Option.isSome_iff_ne_none.2 h))
      · exact .inr (.inr h)
    have hpar : decide ((r.k + 1) % 2 = 1) = decide (r.k % 2 = 0) := decide_eq_decide.2 (by omega)
    rw [if_pos ⟨hlive, htick, hlim'⟩, hpar]
    change (match s.enqLane (engLane n e.clkLane) .drive (bit e.clkReg 25 != decide (r.k % 2 = 0)) e.adom due with
      | (s1, .ok) => _ | (_, .stall) => _ | (s1, .refused) => _) = _
    have heng := State.enqLane_engines hz
    rw [hz]
    change z.modEng n (fun e => { e with clk := ({ r with k := r.k + 1 } :: l).filter e.clkLeft }) = _
    rw [State.modEng_eq_setEng, State.setEng, heng]
  case entries =>
    intro s z n td ns op l r u hz
    obtain ⟨hm, hdone⟩ := s.enqAll_marked n u td ns op l
    have hframe := (s.enqAll_changes n u td ns op l).frame
    rw [hz] at hm hdone hframe
    exact ⟨hframe, hm.other, hm.own, hdone⟩

end Sys2Proof.Machine

namespace Sys2Proof.Machine

/-! R393 to R416: the states of a guardian channel, its windows and its lines. -/

/-- Guardian channel `x` becomes `g`. -/
def State.setGd (s : State) (x : Fin 2) (g : Guardian) : State := { s with gds := s.gds.upd x g }

theorem State.setGd_at (s : State) (x : Fin 2) (g : Guardian) : (s.setGd x g).gds.at x = g := Bank.at_upd_self _ _ _

theorem State.setGd_self (s : State) (x : Fin 2) : s.setGd x (s.gds.at x) = s := by
  unfold State.setGd
  rw [Bank.upd_at]

theorem State.modGd_eq_setGd (s : State) (x : Fin 2) (f : Guardian → Guardian) : s.modGd x f = s.setGd x (f (s.gds.at x)) := rfl

theorem State.modGd_setGd (s : State) (x : Fin 2) (g : Guardian) (f : Guardian → Guardian) :
    (s.setGd x g).modGd x f = s.setGd x (f g) := by
  simp [State.setGd, State.modGd, Bank.mod_eq]

theorem State.gdNow_setGd (s : State) (x : Fin 2) {g : Guardian} (h : g.dom = (s.gds.at x).dom) : (s.setGd x g).gdNow x = s.gdNow x := by
  unfold State.gdNow
  rw [State.setGd_at, h]
  rfl

theorem State.gdNote_eq (s : State) (x : Fin 2) : s.gdNote x = s.setGd x { s.gds.at x with mark := s.gdMark x } := rfl

theorem later_idem (a k : W64) :
    (if notBefore a (if notBefore a k then a else k) then a else if notBefore a k then a else k) = if notBefore a k then a else k := by
  by_cases h : notBefore a k = true
  · rw [if_pos h, ite_self]
  · rw [if_neg h, if_neg h]

theorem State.gdMark_of_noDec {s : State} {x : Fin 2} (h : (s.gds.at x).dec = none) :
    s.gdMark x = if notBefore (s.now - BitVec.ofNat 64 (s.gds.at x).twg) (s.gds.at x).mark then s.now - BitVec.ofNat 64 (s.gds.at x).twg
      else (s.gds.at x).mark := by
  unfold State.gdMark
  dsimp only
  rw [h]

/-- A mark that stands is noted again as it is, where no frame is being received. -/
theorem State.gdNote_setGd (s : State) (x : Fin 2) {g : Guardian} (hdec : g.dec = none) (hd : (s.gds.at x).dec = none)
    (htwg : g.twg = (s.gds.at x).twg) (hm : g.mark = s.gdMark x) : (s.setGd x g).gdNote x = s.setGd x g := by
  have hmark : (s.setGd x g).gdMark x = g.mark := by
    have hnow : (s.setGd x g).now = s.now := rfl
    rw [State.gdMark_of_noDec (by rwa [State.setGd_at]), State.setGd_at, hnow, htwg, hm, State.gdMark_of_noDec hd]
    exact later_idem _ _
  rw [State.gdNote_eq, State.setGd_at, hmark]
  exact congrArg (fun b => ({ s with gds := b } : State)) (Bank.upd_upd _ _ _ _)

/-- R354, R415: a drain in which something is in progress, or that time does not reach, goes on. -/
theorem State.gdSettle_of_steady {s : State} {x : Fin 2}
    (h : (s.gds.at x).st = .draining → (s.gds.at x).busy (s.gdNow x) = true ∨ s.gdLive x = false) : s.gdSettle x = s := by
  refine if_neg ?_
  rintro ⟨hst, hb, hl⟩
  rcases h hst with h | h
  · simp [h] at hb
  · simp [h] at hl

theorem State.gdSettle_setGd {s : State} {x : Fin 2} {g : Guardian} (h : g.st ≠ .draining) : (s.setGd x g).gdSettle x = s.setGd x g :=
  State.gdSettle_of_steady fun hs => absurd (by rwa [State.setGd_at] at hs) h

theorem Guardian.dec_of_idle {g : Guardian} {d : W64} (h : g.busy d = false) : g.dec = none := by
  unfold Guardian.busy at h
  simp only [Bool.or_eq_false_iff] at h
  exact Option.not_isSome_iff_eq_none.1 (by simp [h.1.2])

/-- The state before a write of GDx_CFG takes effect. -/
theorem State.gdNote_settle {s : State} {x : Fin 2}
    (h : (s.gds.at x).st = .draining → (s.gds.at x).busy (s.gdNow x) = true ∨ s.gdLive x = false) :
    (s.gdNote x).gdSettle x = s.setGd x { s.gds.at x with mark := s.gdMark x } := by
  rw [State.gdNote_eq]
  refine State.gdSettle_of_steady ?_
  rw [State.setGd_at, State.gdNow_setGd s x (g := { s.gds.at x with mark := s.gdMark x }) rfl]
  exact h

theorem Guardian.tableOk_enRec (g : Guardian) (k j e : Nat) : Guardian.tableOk { g with enRec := none } k j e = g.tableOk k j e := by
  induction k generalizing j e with
  | zero => rfl
  | succ k ih =>
    unfold Guardian.tableOk
    simp only [ih]
    rfl

theorem bit_gdCfgMask (v : W32) : bit (v &&& gdCfgMask) 0 = bit v 0 ∧ bit (v &&& gdCfgMask) 2 = bit v 2 := by
  simp [bit, gdCfgMask]

section
variable {s : State} {x : Fin 2} {y : Guardian} (hs : (s.gdNote x).gdSettle x = s.setGd x y)
include hs

/-- R417: a write of GDx_CFG in OFF. -/
theorem State.gdCfg_off (v : W32) (hst : y.st = .off) : s.gdCfg x v = s.setGd x (y.cfgOff (v &&& gdCfgMask)) := by
  unfold State.gdCfg
  dsimp only
  rw [hs, State.setGd_at, hst]
  exact State.modGd_setGd _ _ _ _

/-- R354: a write of GDx_CFG in DRAINING is recorded, and ABORT ends the drain. -/
theorem State.gdCfg_draining (v : W32) (hst : y.st = .draining) (h2 : bit (v &&& gdCfgMask) 2 = true) :
    s.gdCfg x v = s.setGd x (Guardian.ended { y with
      cfg := mrg gdLiveMask y.cfg (v &&& gdCfgMask) &&& ~~~1, enRec := some (v &&& gdCfgMask) }) := by
  unfold State.gdCfg
  dsimp only
  rw [hs, State.setGd_at, hst]
  dsimp only
  rw [if_pos h2, State.modGd_setGd, State.modGd_setGd]
  rfl

/-- R416: a write of GDx_CFG with EN at 0 in ERROR. -/
theorem State.gdCfg_error (v : W32) (hst : y.st = .error) (h0 : bit (v &&& gdCfgMask) 0 = false) :
    s.gdCfg x v = s.setGd x (Guardian.toOff { y with cfg := mrg gdLiveMask y.cfg (v &&& gdCfgMask) }) := by
  unfold State.gdCfg
  dsimp only
  rw [hs, State.setGd_at, hst, h0]
  exact State.modGd_setGd _ _ _ _

/-- R416: a write of GDx_CFG with EN at 0 in WAIT and RUN. -/
theorem State.gdCfg_running (v : W32) (hst : y.st = .wait ∨ y.st = .run) (h0 : bit (v &&& gdCfgMask) 0 = false) :
    s.gdCfg x v = if bit (v &&& gdCfgMask) 2 then s.setGd x (Guardian.toOff { y with cfg := mrg gdLiveMask y.cfg (v &&& gdCfgMask) })
      else (s.setGd x { y with cfg := mrg gdLiveMask y.cfg (v &&& gdCfgMask), st := .draining }).gdSettle x := by
  unfold State.gdCfg
  dsimp only
  rw [hs, State.setGd_at, h0]
  rcases hst with hst | hst <;> rw [hst] <;> dsimp only <;> rw [State.modGd_setGd, State.modGd_setGd, State.modGd_setGd] <;> rfl
end

/-- R354, R416: a drain in which nothing is in progress ends. -/
theorem State.gdSettle_drained {s : State} {x : Fin 2} {y : Guardian} (hst : y.st = .draining) (hb : y.busy ((s.setGd x y).gdNow x) = false)
    (hl : s.gdLive x = true) (hn : (s.setGd x y).gdNote x = s.setGd x y) : (s.setGd x y).gdSettle x = s.setGd x y.ended := by
  unfold State.gdSettle State.gdSettleAt
  dsimp only
  rw [State.setGd_at, hn, State.modGd_setGd]
  refine if_pos ⟨hst, ?_, hl⟩
  rw [hb]
  rfl

/-- R416: a write of GDx_CFG with EN at 1 in OFF. -/
theorem Guardian.enable_spec (g : Guardian) (w : W32) :
    let new : Guardian := { g with cfg := w }
    (new.rangeOk = false → g.enable w = { new with enRec := none, cfg := w &&& ~~~1, cfgErr := true, cause := .range }) ∧
    (new.rangeOk = true → new.tableOk new.slots 0 0 = false →
      g.enable w = { new with enRec := none, cfg := w &&& ~~~1, cfgErr := true, cause := .table }) ∧
    (new.rangeOk = true → new.tableOk new.slots 0 0 = true →
      ∃ br, g.enable w = { new with
          enRec := none, st := .wait, cyc := 0, devV := false, lastSync := none, sent := []
          twg := (g.sslen + 2) * g.bt + 8, branches := br } ∧
        ∀ k, br.at k = { g.branches.at k with st := if new.uses k.val then .active else .off, hist := [] }) := by
  intro new
  have htab : Guardian.tableOk { g with cfg := w, enRec := none } new.slots 0 0 = new.tableOk new.slots 0 0 :=
    Guardian.tableOk_enRec { g with cfg := w } _ _ _
  refine ⟨fun hr => ?_, fun hr ht => ?_, fun hr ht => ?_⟩
  · exact if_pos (by rw [show Guardian.rangeOk { g with cfg := w, enRec := none } = false from hr]; rfl)
  · refine (if_neg ?_).trans (if_pos ?_)
    · rw [show Guardian.rangeOk { g with cfg := w, enRec := none } = true from hr]; decide
    · exact (congrArg (! ·) (htab.trans ht) :)
  · refine ⟨_, (if_neg ?_).trans (if_neg ?_), fun k => Vector.getElem_ofFn _⟩
    · rw [show Guardian.rangeOk { g with cfg := w, enRec := none } = true from hr]; decide
    · exact fun h => Bool.noConfusion ((congrArg (! ·) (htab.trans ht) :).symm.trans h)

theorem bit_and_not_one (w : W32) (h : bit w 0 = false) : w &&& ~~~1 = w := by
  have hb : w.getLsbD 0 = false := h
  apply BitVec.eq_of_getLsbD_eq
  intro i hi
  rw [BitVec.getLsbD_and, BitVec.getLsbD_not, show (1 : W32).getLsbD i = decide (i = 0) from ?_]
  · by_cases h0 : i = 0
    · subst h0; rw [hb]; rfl
    · simp [h0, hi]
  · interval_cases i <;> rfl

/-- R417: what a write of GDx_CFG leaves of the configuration of a channel that runs. -/
theorem fldN_mrg_gdLive (c w : W32) : fldN (mrg gdLiveMask c w) 4 3 = fldN c 4 3 := by
  refine congrArg BitVec.toNat (BitVec.eq_of_getLsbD_eq fun i hi => ?_)
  interval_cases i <;> simp [mrg, gdLiveMask]

theorem bit_mrg_gdLive (c w : W32) : bit (mrg gdLiveMask c w) 0 = bit w 0 := by simp [bit, mrg, gdLiveMask]

theorem Guardian.ended_of_none {g : Guardian} (h : g.enRec = none) : g.ended = { g.toOff with cfg := g.cfg &&& ~~~1 } := by
  unfold Guardian.ended
  dsimp only
  rw [h]

theorem Branch.readmitted_eq (b : Branch) (o : Option W64) : b.readmitted o =
    if b.st = .isolated then { b with st := .active, hist := [], readmit := o.map fun g => (g, true) }
    else { b with readmit := o.map fun g => (g, false) } := by
  unfold Branch.readmitted
  by_cases h : b.st = .isolated
  · simp only [h, decide_true, if_true]
  · simp [h]

theorem Branch.truncated_eq (b : Branch) (thr win : Nat) :
    let b1 : Branch := { b with
      trunc := true, total := if b.total = 255 then 255 else b.total + 1, hist := (b.hist.headD 0 + 1) :: b.hist.tail }
    b.truncated thr win = if thr ≠ 0 ∧ thr ≤ b1.sum win ∧ b.st = .active then { b1 with st := .isolated, isoF := true } else b1 := by
  obtain ⟨rxd, edge, st, trunc, block, multi, isoF, total, hist, readmit⟩ := b
  cases hist <;> rfl

/-- R402, R403: a truncation raises the total and, at the threshold, isolates an active branch. -/
theorem Branch.truncated_spec (b : Branch) (thr win : Nat) :
    let c := b.truncated thr win
    c.trunc = true ∧ c.total.toNat = min 255 (b.total.toNat + 1) ∧ c.multi = b.multi ∧ c.block = b.block ∧
      c.hist = (b.hist.headD 0 + 1) :: b.hist.tail ∧ c.readmit = b.readmit ∧
      (thr ≠ 0 → thr ≤ (c.hist.take win).foldl (· + ·) 0 → b.st = .active → c.st = .isolated ∧ c.isoF = true) ∧
      (thr = 0 ∨ (c.hist.take win).foldl (· + ·) 0 < thr ∨ b.st ≠ .active → c.st = b.st ∧ c.isoF = b.isoF) := by
  have htotal : (if b.total = 255 then 255 else b.total + 1 : BitVec 8).toNat = min 255 (b.total.toNat + 1) := by
    split
    next h => rw [h]; rfl
    next h =>
      have : b.total.toNat ≠ 255 := fun h' => h (BitVec.eq_of_toNat_eq h')
      rw [BitVec.toNat_add]
      have := b.total.isLt
      simp
      omega
  let b1 : Branch := { b with
    trunc := true, total := if b.total = 255 then 255 else b.total + 1, hist := (b.hist.headD 0 + 1) :: b.hist.tail }
  have hdef := b.truncated_eq thr win
  intro c
  by_cases h : thr ≠ 0 ∧ thr ≤ b1.sum win ∧ b.st = .active
  · have hc : c = { b1 with st := .isolated, isoF := true } := hdef.trans (if_pos h)
    rw [hc]
    exact ⟨rfl, htotal, rfl, rfl, rfl, rfl, fun _ _ _ => ⟨rfl, rfl⟩, fun h' => absurd h' (not_or.2 ⟨h.1, not_or.2 ⟨Nat.not_lt.2 h.2.1, not_not.2 h.2.2⟩⟩)⟩
  · have hc : c = b1 := hdef.trans (if_neg h)
    rw [hc]
    exact ⟨rfl, htotal, rfl, rfl, rfl, rfl, fun h1 h2 h3 => absurd ⟨h1, h2, h3⟩ h, fun _ => ⟨rfl, rfl⟩⟩

/-- R403: a READMIT of the ns of a truncation follows it. -/
theorem Branch.truncate_readmit {b : Branch} {g : W64} {i : Bool} (h : b.readmit = some (g, i)) (thr win : Nat) :
    b.truncate thr win (some g) =
      (Branch.truncated { b with st := if i then .isolated else b.st } thr win).readmitted (some g) := by
  obtain ⟨rxd, edge, st, trunc, block, multi, isoF, total, hist, readmit⟩ := b
  obtain rfl : readmit = some (g, i) := h
  exact if_pos rfl

/-- R403: the branches of channel `c` after a write of GD_READMIT. -/
def State.readmitBranches (s : State) (v : W32) (c : Fin 2) : Bank Branch 16 :=
  Vector.ofFn fun k : Fin 16 =>
    let b := (s.gds.at c).branches.at k
    if bit v (16 * c.val + k.val) then b.readmitted s.nsNow else b

/-- R399: the frame that the decoder follows from a falling edge on. -/
def Guardian.fallDec (g : Guardian) (k : Fin 16) (t : Instant) (idle : Bool) (j c : Nat) : Option Decode :=
  if idle || g.dec.isNone then some { stamp := t, slot := j, cyc := c, branch := k, trunc := false, cut := false, runs := [] } else g.dec

def Guardian.flag (g : Guardian) (k : Fin 16) (f : Branch → Branch) : Guardian := { g with branches := g.branches.mod k f }

/-- R400, R401: what a falling edge makes of a channel in STAR and in RUN. -/
def Guardian.fallIn (g : Guardian) (k : Fin 16) (t : Instant) (idle : Bool) (win : Option Window) : Guardian :=
  let block : Guardian := if idle then g.flag k fun b => { b with block := true } else g
  match win with
  | some w =>
    if w.branch = k then
      if w.relay then g
      else if w.relayed then { g.flag k fun b => { b with multi := true } with dec := g.fallDec k t idle w.slot w.cyc }
      else if (g.branches.at k).st = .active ∧ !w.dead then
        { g with dec := g.fallDec k t idle w.slot w.cyc, win := some { w with relay := true, relayed := true } }
      else { g with dec := g.fallDec k t idle w.slot w.cyc }
    else block
  | none => block

/-- R400, R401: what a falling edge on a used branch makes of a channel in RUN, the domain at `d`. -/
def Guardian.fall (g : Guardian) (k : Fin 16) (t : Instant) (idle : Bool) (d : W64) : Guardian :=
  if g.node then (if idle then { g with dec := g.fallDec k t idle (g.slotNow d) g.cyc } else g) else g.fallIn k t idle g.win

theorem Guardian.fallDec_busy (g : Guardian) (k : Fin 16) (t : Instant) (j c : Nat) :
    g.fallDec k t false j c = some (g.dec.getD { stamp := t, slot := j, cyc := c, branch := k, trunc := false, cut := false, runs := [] }) := by
  unfold Guardian.fallDec
  cases g.dec <;> rfl

theorem Guardian.fallIn_relayed {win : Option Window} {k : Fin 16} (h : ∀ w, win = some w → w.branch = k → w.relay = true) (g : Guardian)
    (t : Instant) : g.fallIn k t false win = g := by
  cases win with
  | none => rfl
  | some w =>
    by_cases hk : w.branch = k
    · exact (if_pos hk).trans (if_pos (h w rfl hk))
    · exact if_neg hk

theorem Bank.mod_mod {α : Type} {n : Nat} (v : Bank α n) (k : Fin n) (f h : α → α) : (v.mod k f).mod k h = v.mod k fun a => h (f a) := by
  simp [Bank.mod_eq]

theorem State.gdFall_run {s : State} {x : Fin 2} {g : Guardian} {k : Fin 16} (t : Instant) (idle : Bool) (hl : s.gdLive x = true)
    (hst : g.st = .run) (hu : g.uses k.val = true) :
    (s.setGd x g).gdFall x k t idle = s.setGd x (g.fall k t idle ((s.setGd x g).gdNow x)) := by
  unfold State.gdFall
  dsimp only
  rw [State.setGd_at, if_pos ⟨hl, .inr (.inl hst), hu⟩]
  by_cases hn : g.node = true
  · refine (if_pos hn).trans (Eq.trans ?_ (congrArg (s.setGd x) (if_pos hn).symm))
    cases idle
    · rfl
    · exact State.modGd_setGd _ _ _ _
  refine (if_neg hn).trans (Eq.trans ?_ (congrArg (s.setGd x) (if_neg hn).symm))
  have hblock : (if idle = true then (s.setGd x g).modGd x fun g => { g with branches := g.branches.mod k fun b => { b with block := true } }
      else s.setGd x g) = s.setGd x (if idle = true then g.flag k fun b => { b with block := true } else g) := by
    cases idle
    · rfl
    · exact State.modGd_setGd _ _ _ _
  split
  next w hw =>
    refine Eq.trans ?_ (congrArg (fun o => s.setGd x (g.fallIn k t idle o)) hw.symm)
    by_cases hk : w.branch = k
    swap
    · exact (if_neg hk).trans (hblock.trans (congrArg (s.setGd x) (if_neg hk).symm))
    refine (if_pos hk).trans (Eq.trans ?_ (congrArg (s.setGd x) (if_pos hk).symm))
    by_cases hr : w.relay = true
    · exact (if_pos hr).trans (congrArg (s.setGd x) (if_pos hr).symm)
    refine (if_neg hr).trans (Eq.trans ?_ (congrArg (s.setGd x) (if_neg hr).symm))
    by_cases hd : w.relayed = true
    · refine (if_pos hd).trans (Eq.trans ?_ (congrArg (s.setGd x) (if_pos hd).symm))
      rw [State.modGd_setGd, State.modGd_setGd]
      rfl
    refine (if_neg hd).trans (Eq.trans ?_ (congrArg (s.setGd x) (if_neg hd).symm))
    by_cases ha : (g.branches.at k).st = .active ∧ (!w.dead) = true
    · exact (if_pos ⟨ha.1, hst, ha.2⟩).trans ((State.modGd_setGd _ _ _ _).trans (congrArg (s.setGd x) (if_pos ha).symm))
    · exact (if_neg fun h => ha ⟨h.1, h.2.2⟩).trans ((State.modGd_setGd _ _ _ _).trans (congrArg (s.setGd x) (if_neg ha).symm))
  next hw => exact hblock.trans (congrArg (fun o => s.setGd x (g.fallIn k t idle o)) hw.symm)

theorem State.gdFall_unused {s : State} {x : Fin 2} {k : Fin 16} (t : Instant) (idle : Bool) (hu : (s.gds.at x).uses k.val = false) :
    s.gdFall x k t idle = s := if_neg fun h => Bool.noConfusion (hu.symm.trans h.2.2)

section
variable {s : State} {x : Fin 2} {g : Guardian} (hs : (s.gdNote x).gdSettle x = s.setGd x g)
include hs

theorem State.gdEdge_same {k : Fin 16} {t : Instant} {v : Bool} (h : (g.branches.at k).rxd = v) : s.gdEdge x k t v = s.setGd x g := by
  unfold State.gdEdge
  dsimp only
  rw [hs, State.setGd_at]
  exact if_pos h

/-- R399: an edge on a branch that was not idle. -/
theorem State.gdEdge_busy {k : Fin 16} {t : Instant} {v : Bool} (h : (g.branches.at k).rxd ≠ v) (hi : g.idleAt k t = false) :
    s.gdEdge x k t v = if v then s.setGd x (g.edge k t v) else (s.setGd x (g.edge k t v)).gdFall x k t false := by
  unfold State.gdEdge
  dsimp only
  rw [hs, State.setGd_at, hi]
  refine (if_neg h).trans ?_
  rw [if_neg Bool.false_ne_true, State.modGd_setGd, if_neg Bool.false_ne_true]

/-- R400: a falling edge on an idle branch that the channel does not follow. -/
theorem State.gdEdge_idle {k : Fin 16} {t : Instant} (hi : g.idleAt k t = true) (hh : g.heard = none) :
    s.gdEdge x k t false =
      (s.setGd x { g with branches := g.branches.mod k fun b => { b with rxd := false, edge := some t } }).gdFall x k t true := by
  have hr : (g.branches.at k).rxd ≠ false := by
    have := (Bool.and_eq_true_iff.1 hi).1
    simp [this]
  have hend : (s.setGd x g).gdRelayEnd x t = s.setGd x g := by
    unfold State.gdRelayEnd
    dsimp only
    rw [State.setGd_at, hh]
  unfold State.gdEdge
  dsimp only
  rw [hs, State.setGd_at, hi]
  refine (if_neg hr).trans ?_
  rw [if_pos rfl, hend, State.modGd_setGd, if_pos rfl]
  rfl
end

/-- Settles O28. -/
theorem guardianControl : Obligations.GuardianControl := by
  refine ⟨?control, ?windows, ?lines, ?truncation⟩
  case control =>
    intro s x v hup g w kept m new b passed to_ steady off pending
    have hw0 : bit w 0 = bit v 0 := (bit_gdCfgMask v).1
    have hw2 : bit w 2 = bit v 2 := (bit_gdCfgMask v).2
    have hcfg (h : g.st = .draining → g.busy (s.gdNow x) = true ∨ s.gdLive x = false) :
        (s.gdNote x).gdSettle x = s.setGd x { g with mark := m } := State.gdNote_settle h
    have henable (hst : g.st = .off) (hen : bit g.cfg 0 = false) (hv : bit v 0 = true) :
        exec (.gdEnable x v) s = to_ (Guardian.enable { g with mark := m } w) := by
      have hen' : (!(s.gds.at x).en) = true := by rw [show (s.gds.at x).en = false from hen]; rfl
      refine congrArg Host.Outcome.next ((if_pos ⟨hup, hen', hv⟩).trans ((State.gdCfg_off (hcfg fun h => ?_) v hst).trans ?_))
      · rw [hst] at h; cases h
      · exact congrArg (s.setGd x) (if_pos (hw0.trans hv))
    have hdisable (hen : bit g.cfg 0 = true) (hv : bit v 0 = false) : exec (.gdDisable x v) s = .next (s.gdCfg x v) :=
      congrArg Host.Outcome.next (if_pos ⟨hup, hen, by rw [hv]; rfl⟩)
    refine ⟨fun hst hen hv hr => ?range, fun hst hen hv hr ht => ?table, fun hst hen hv hr ht => ?enable, fun hst hen hrec hv => ?disable,
      fun hst hen hv => ?disableError, fun hst hb hv hv2 => ?abort, fun hst hen => ?clrerr, fun hst => ?noClrerr, fun hst => ?flush,
      fun h1 h2 hs => ?noFlush, fun hs => ?commit, fun hs hrec => ?settles, fun h0 h1 => ?readmit⟩
    case range => exact (henable hst hen hv).trans (congrArg to_ ((Guardian.enable_spec _ w).1 hr))
    case table => exact (henable hst hen hv).trans (congrArg to_ ((Guardian.enable_spec _ w).2.1 hr ht))
    case enable =>
      obtain ⟨br, hbr, hat⟩ := (Guardian.enable_spec { g with mark := m } w).2.2 hr ht
      exact ⟨br, (henable hst hen hv).trans (congrArg to_ hbr), hat⟩
    case disable =>
      refine (hdisable hen hv).trans (congrArg Host.Outcome.next ((State.gdCfg_running (hcfg fun h => ?_) v hst (hw0.trans hv)).trans ?_))
      · rcases hst with h' | h' <;> rw [h'] at h <;> cases h
      have hdom : Guardian.dom { g with mark := m, cfg := kept, st := .draining } = g.dom := by
        unfold Guardian.dom
        exact congrArg _ (fldN_mrg_gdLive g.cfg w)
      have hnow : (s.setGd x { g with mark := m, cfg := kept, st := .draining }).gdNow x = s.gdNow x := s.gdNow_setGd x hdom
      rw [show bit (v &&& gdCfgMask) 2 = bit v 2 from hw2]
      by_cases h2 : bit v 2 = true
      · rw [if_pos h2, if_pos (.inl h2)]
        rfl
      rw [if_neg h2]
      by_cases hidle : g.busy (s.gdNow x) = false ∧ s.gdLive x = true
      · rw [if_pos (.inr hidle)]
        have hdec : g.dec = none := Guardian.dec_of_idle hidle.1
        refine (State.gdSettle_drained (y := { g with mark := m, cfg := kept, st := .draining }) rfl ?_ hidle.2 ?_).trans ?_
        · exact (congrArg g.busy hnow).trans hidle.1
        · exact s.gdNote_setGd x hdec hdec rfl rfl
        · refine congrArg (s.setGd x) ?_
          rw [Guardian.ended_of_none (g := { g with mark := m, cfg := kept, st := .draining }) hrec]
          have hk : kept &&& ~~~1 = kept := bit_and_not_one _ ((bit_mrg_gdLive g.cfg w).trans (hw0.trans hv))
          exact congrArg (fun c : W32 => off { g with mark := m, cfg := c }) hk
      · rw [if_neg fun h => h.elim h2 hidle]
        refine State.gdSettle_of_steady fun _ => ?_
        rw [State.setGd_at]
        rcases not_and_or.1 hidle with h | h
        · exact .inl ((congrArg g.busy hnow).trans (Bool.not_eq_false _ ▸ h))
        · exact .inr (Bool.eq_false_iff.2 h)
    case disableError =>
      refine (hdisable hen hv).trans (congrArg Host.Outcome.next (State.gdCfg_error (hcfg fun h => ?_) v hst (hw0.trans hv)))
      rw [hst] at h; cases h
    case abort =>
      refine congrArg Host.Outcome.next ((if_pos ⟨hup, hst, hv2⟩).trans ((State.gdCfg_draining (hcfg fun _ => hb) v hst (hw2.trans hv2)).trans ?_))
      exact congrArg (s.setGd x) (if_neg (by rw [show bit (v &&& gdCfgMask) 0 = false from hw0.trans hv]; decide))
    case clrerr => exact congrArg Host.Outcome.next ((if_pos hup).trans (congrArg (s.setGd x) (if_pos ⟨hst, hen⟩)))
    case noClrerr =>
      exact congrArg Host.Outcome.next ((if_pos hup).trans ((congrArg (s.setGd x) (if_neg fun h => hst h.1)).trans (s.setGd_self x)))
    case flush =>
      refine congrArg Host.Outcome.next ((if_pos hup).trans ?_)
      rw [State.gdFlushQ, State.gdSettle_of_steady fun h => ?_]
      · exact congrArg (s.setGd x) (if_pos hst)
      · rcases hst with h' | h' <;> rw [show (s.gds.at x).st = _ from h'] at h <;> cases h
    case noFlush =>
      refine congrArg Host.Outcome.next ((if_pos hup).trans ?_)
      rw [State.gdFlushQ, State.gdSettle_of_steady hs]
      exact (congrArg (s.setGd x) (if_neg (not_or.2 ⟨h1, h2⟩))).trans (s.setGd_self x)
    case commit =>
      have hsettle : s.gdSettle x = s := State.gdSettle_of_steady hs
      have hexec : exec (.txCommit x v) s = .next (if (g.bstat.at b).pend.isSome then s.modGd x fun g => { g with cmErr := true }
          else if (bit v 31 && (List.range g.slots).all fun j => decide ((g.slot j).kind ≠ 2 ∨ (g.slot j).buf ≠ b) ||
              notBefore (s.gdNow x) (g.latchAt (g.cycleOf (fld v 16 8)) j)) = true then
            (s.modGd x fun g => { g with late := true }).breachOf (s.gdOwner x) .late
          else s.modGd x fun g =>
            { g with bstat := g.bstat.mod b fun t => { t with pend := some (if bit v 31 then some (fld v 16 8) else none) } }) := by
        refine congrArg Host.Outcome.next ((if_pos hup).trans ?_)
        unfold State.gdCommit
        dsimp only
        rw [hsettle]
      refine ⟨fun hp => ?_, fun hp hv => ?_, fun hp hv hj => ?_, fun hp hv hj ho => ?_⟩
      · exact hexec.trans (congrArg Host.Outcome.next (if_pos (Option.isSome_iff_ne_none.2 hp)))
      · refine hexec.trans (congrArg Host.Outcome.next ((if_neg (by rw [hp]; decide)).trans ((if_neg (by simp [hv])).trans ?_)))
        rw [hv]
        rfl
      · obtain ⟨j, hlt, hk, hb, hpast⟩ := hj
        refine hexec.trans (congrArg Host.Outcome.next ((if_neg (by rw [hp]; decide)).trans ((if_neg ?_).trans ?_)))
        · intro h
          have hall := (List.all_eq_true.1 (Bool.and_eq_true_iff.1 h).2) j (List.mem_range.2 hlt)
          simp only [hk, hb, ne_eq, not_true_eq_false, or_self, decide_false, Bool.false_or] at hall
          exact hpast hall
        · rw [hv]
          rfl
      · refine hexec.trans (congrArg Host.Outcome.next ((if_neg (by rw [hp]; decide)).trans ((if_pos ?_).trans ?_)))
        · rw [hv, Bool.true_and, List.all_eq_true]
          intro j hlt
          by_cases hk : (g.slot j).kind = 2 ∧ (g.slot j).buf = b
          · exact Bool.or_eq_true_iff.2 (.inr (hj j (List.mem_range.1 hlt) hk.1 hk.2))
          · exact Bool.or_eq_true_iff.2 (.inl (decide_eq_true (not_and_or.1 hk)))
        · rw [ho]
          rfl
    case settles =>
      intro z
      obtain ⟨hst, hidle⟩ := Classical.not_imp.1 hs
      obtain ⟨hb, hl⟩ := not_or.1 hidle
      have hdec : g.dec = none := Guardian.dec_of_idle (Bool.eq_false_iff.2 hb)
      have hsettle : s.gdSettle x = z := by
        have hb' : (!(s.gds.at x).busy (s.gdNow x)) = true := by
          rw [show (s.gds.at x).busy (s.gdNow x) = false from Bool.eq_false_iff.2 hb]
          rfl
        refine (if_pos ⟨hst, hb', Bool.not_eq_false _ ▸ hl⟩).trans ?_
        · rw [State.gdNote_eq, State.modGd_setGd]
          refine congrArg (s.setGd x) ?_
          exact Guardian.ended_of_none (g := { g with mark := m }) hrec
      have hz : z.gdSettle x = z := State.gdSettle_setGd fun h => nomatch h
      have hzup : z.up = true := hup
      refine ⟨congrArg Host.Outcome.next ((if_pos hup).trans (Eq.trans ?_ (if_pos hzup).symm)),
        congrArg Host.Outcome.next ((if_pos hup).trans (Eq.trans ?_ (if_pos hzup).symm))⟩
      · unfold State.gdCommit
        rw [hsettle, hz]
      · unfold State.gdFlushQ
        rw [hsettle, hz]
    case readmit =>
      have hsettled : s.gdSettled = s := by
        unfold State.gdSettled
        rw [State.gdSettle_of_steady h0, State.gdSettle_of_steady h1]
      refine ⟨Vector.ofFn fun c : Fin 2 => { s.gds.at c with branches := s.readmitBranches v c }, congrArg Host.Outcome.next ((if_pos hup).trans ?_),
        fun c => ⟨s.readmitBranches v c, Bank.at_ofFn _ c, fun k => (Bank.at_ofFn _ k).trans ?_⟩⟩
      · unfold State.gdReadmit
        rw [hsettled]
        rfl
      · cases hbit : bit v (16 * c.val + k.val)
        · rfl
        · exact Branch.readmitted_eq _ _
  case windows =>
    intro s t x a g d m to_ edged hl
    refine ⟨fun c hc => ?cycle, fun hst => ⟨fun j k hj hbad hkind hws hwe hk => ?open_, fun w hw he => ?close, fun w hw he => ?noClose, fun k v => ?edge,
      fun k hk hi => ?relayEnd, fun hk => ?noRelayEnd⟩⟩
    case cycle =>
      intro moved
      let pass (g : Guardian) : Guardian := { g with cyc := c, branches := g.branches.map fun b => b.cycles (c - g.cyc) }
      have hexec (h : g.st = .draining → g.busy d = true ∨ a.gdLive x = false) (f : Guardian → Guardian)
          (hf : g.st = .wait ∧ f = (fun g => { pass g with st := .run }) ∨ (g.st = .run ∨ g.st = .draining) ∧ f = pass) :
          exec (.cycleStart t x) s = .next (a.modGd x f) := by
        refine congrArg Host.Outcome.next ?_
        unfold State.gdCycle
        dsimp only
        rw [State.gdSettle_of_steady h, show (a.gds.at x).cycleAt (a.gdNow x) = some c from hc, hl]
        rcases hf with ⟨hst, rfl⟩ | ⟨hst | hst, rfl⟩ <;> rw [show (a.gds.at x).st = _ from hst]
      refine ⟨fun hst => hexec (fun h => ?_) _ (.inl ⟨hst, rfl⟩), fun hst => hexec (fun h => ?_) _ (.inr ⟨hst.imp_right And.left, rfl⟩)⟩
      · rw [hst] at h; cases h
      · exact .inl (hst.resolve_left (by rw [h]; decide)).2
    case open_ =>
      intro low w
      have hsettle : a.gdSettle x = a := State.gdSettle_of_steady fun h => by rw [show (a.gds.at x).st = .run from hst] at h; cases h
      have hexec : exec (.windowOpen t x j) s = .next (a.setGd x (
          if low then Guardian.truncate { g with win := some w } k a.nsNow else { g with win := some w })) := by
        refine congrArg Host.Outcome.next ?_
        unfold State.gdOpen
        dsimp only
        rw [hsettle]
        refine (if_pos ⟨hl, hst, hj⟩).trans ((if_neg (Bool.eq_false_iff.1 hbad)).trans ((if_pos ⟨hkind, hws, ?_⟩).trans ?_))
        · rw [State.modGd_eq_setGd, show (if (a.gds.at x).node then (a.gds.at x).nbr else Fin.ofNat 16 ((a.gds.at x).slot j).owner) = k from hk.symm]
        · exact (congrArg (! ·) hwe :)
      refine hexec.trans (congrArg to_ ?_)
      by_cases h : low = true
      · rw [if_pos h, if_pos h]
        rfl
      · rw [if_neg h, if_neg h]
    case close =>
      intro cut y
      refine congrArg Host.Outcome.next ?_
      unfold State.gdClose
      dsimp only
      rw [show (a.gds.at x).win = some w from hw]
      refine (if_pos ⟨hl, he⟩).trans ?_
      rw [State.gdNote_eq, State.modGd_setGd, State.gdSettle_setGd ?_]
      · refine congrArg (a.setGd x) ?_
        rw [Guardian.closeWin, show (a.gds.at x).win = some w from hw]
        dsimp only [y]
        cases w.relay <;> rfl
      · rw [Guardian.closeWin, show (a.gds.at x).win = some w from hw]
        dsimp only
        split <;> exact fun h => by rw [show (a.gds.at x).st = .run from hst] at h; cases h
    case noClose =>
      refine congrArg Host.Outcome.next ?_
      unfold State.gdClose
      dsimp only
      rw [show (a.gds.at x).win = some w from hw]
      exact if_neg fun h => Bool.noConfusion (he.symm.trans h.2)
    case edge =>
      intro b at_
      have hnote : (a.gdNote x).gdSettle x = a.setGd x { g with mark := m } := State.gdNote_settle fun h => by rw [hst] at h; cases h
      refine ⟨fun h => congrArg Host.Outcome.next (State.gdEdge_same hnote h), ?_⟩
      intro f grown
      refine ⟨fun hb hi => ?busy, fun hv hi hh hu => ?idle⟩
      case busy =>
        let y : Guardian := Guardian.edge { g with mark := m } k t v
        have hgrown : y.dec = grown := congrArg (fun h => Option.map h g.dec) (funext fun d => if_congr (by simp) rfl rfl)
        have hy : y = { at_ id with dec := grown } := congrArg (fun o => ({ at_ id with dec := o } : Guardian)) hgrown
        have hedge := State.gdEdge_busy (t := t) hnote hb hi
        have hdown (hv : v = false) : exec (.relayStart t x k v) s = .next ((a.setGd x y).gdFall x k t false) :=
          congrArg Host.Outcome.next (hedge.trans (if_neg (Bool.eq_false_iff.1 hv)))
        have hfall (hv : v = false) (hu : g.uses k.val = true) : exec (.relayStart t x k v) s = to_ (y.fall k t false ((a.setGd x y).gdNow x)) :=
          (hdown hv).trans (congrArg Host.Outcome.next (State.gdFall_run t false hl hst hu))
        refine ⟨fun hwhy => ?_, fun w hv hu hn hw hk hr => ?_⟩
        · cases hv : v with
          | true =>
            subst hv
            exact congrArg Host.Outcome.next ((hedge.trans (if_pos rfl)).trans (congrArg (a.setGd x) hy))
          | false =>
            subst hv
            refine Eq.trans ?_ (congrArg to_ hy)
            by_cases hu : g.uses k.val = true
            · refine (hfall rfl hu).trans (congrArg to_ ?_)
              by_cases hn : g.node = true
              · exact (if_pos hn).trans (if_neg Bool.false_ne_true)
              · have hw := hwhy.resolve_left Bool.false_ne_true
                exact (if_neg hn).trans (y.fallIn_relayed ((hw.resolve_left (by simp [hu])).resolve_left hn) t)
            · refine (hdown rfl).trans (congrArg Host.Outcome.next (State.gdFall_unused t false ?_))
              rw [State.setGd_at]
              exact Bool.eq_false_iff.2 hu
        · refine (hfall hv hu).trans (congrArg to_ ((if_neg (Bool.eq_false_iff.1 hn)).trans ?_))
          rw [show y.win = some w from hw]
          refine (if_pos hk).trans ((if_neg (Bool.eq_false_iff.1 hr)).trans ?_)
          rw [y.fallDec_busy, hgrown]
          have hact : (y.branches.at k).st = b.st :=
            (congrArg Branch.st (Bank.at_mod_self g.branches k fun b => { b with rxd := v, edge := some t }) :)
          have hflag (h : Branch → Branch) : y.flag k h = { at_ h with dec := grown } :=
            congrArg₂ (fun br o => ({ g with mark := m, branches := br, dec := o } : Guardian)) (Bank.mod_mod g.branches k _ h) hgrown
          let dec : Option Decode := some (grown.getD (f w.slot w.cyc))
          let multi : Branch → Branch := fun b => { b with multi := true }
          let y1 : Guardian := { at_ (if w.relayed then multi else id) with dec := dec }
          change _ = if w.relayed = false ∧ w.dead = false ∧ b.st = .active then { y1 with win := some { w with relay := true, relayed := true } } else y1
          have hy1 (h : Branch → Branch) (hs : (if w.relayed = true then multi else id) = h) : y1 = { at_ h with dec := dec } :=
            congrArg (fun h => ({ at_ h with dec := dec } : Guardian)) hs
          by_cases hd : w.relayed = true
          · refine (if_pos hd).trans (Eq.trans ?_ (if_neg fun h => Bool.noConfusion (hd.symm.trans h.1)).symm)
            exact (congrArg (fun z : Guardian => { z with dec := dec }) (hflag multi)).trans (hy1 multi (if_pos hd)).symm
          · have hid : { y with dec := dec } = y1 := (hy1 id (if_neg hd)).symm
            refine (if_neg hd).trans ?_
            rw [hact]
            by_cases ha : b.st = .active ∧ (!w.dead) = true
            · refine (if_pos ha).trans (Eq.trans ?_ (if_pos ⟨Bool.eq_false_iff.2 hd, by simpa using ha.2, ha.1⟩).symm)
              exact congrArg (fun z : Guardian => { z with win := some { w with relay := true, relayed := true } }) hid
            · exact (if_neg ha).trans (hid.trans (if_neg fun h => ha ⟨h.2.2, by simpa using h.2.1⟩).symm)
      case idle =>
        subst hv
        have hdec : g.dec = none := by
          unfold Guardian.heard at hh
          split at hh
          next => cases hh
          next h _ => exact h
          next h _ => exact h
        let y : Guardian := { g with mark := m, branches := g.branches.mod k fun b => { b with rxd := false, edge := some t } }
        have hnow : (a.setGd x y).gdNow x = d := a.gdNow_setGd x rfl
        have hexec : exec (.relayStart t x k false) s = to_ (y.fall k t true d) :=
          congrArg Host.Outcome.next ((State.gdEdge_idle (t := t) hnote hi hh).trans ((State.gdFall_run (g := y) t true hl hst hu).trans
            (congrArg (fun d => a.setGd x (y.fall k t true d)) hnow)))
        have hact : (y.branches.at k).st = b.st :=
          (congrArg Branch.st (Bank.at_mod_self g.branches k fun b => { b with rxd := false, edge := some t }) :)
        have hflag (h : Branch → Branch) : y.flag k h = at_ h :=
          congrArg (fun br => ({ g with mark := m, branches := br } : Guardian)) (Bank.mod_mod g.branches k _ h)
        refine ⟨fun hn => hexec.trans (congrArg to_ ((if_pos hn).trans (if_pos rfl))), fun w hw hn => ?_, fun hw hn => ?_⟩
        · have hfall : exec (.relayStart t x k false) s = to_ (y.fallIn k t true (some w)) :=
            hexec.trans (congrArg to_ ((if_neg (Bool.eq_false_iff.1 hn)).trans (congrArg (y.fallIn k t true) hw)))
          have hr : w.relay ≠ true := by
            intro hr
            unfold Guardian.heard at hh
            rw [hdec, hw] at hh
            exact nomatch (if_pos hr).symm.trans hh
          refine ⟨fun hk hd => ?relayed, fun hk hd hdead ha => ?start, fun hk hd hwhy => ?dead, fun hk => ?block⟩
          case relayed =>
            refine hfall.trans (congrArg to_ ((if_pos hk).trans ((if_neg hr).trans ((if_pos hd).trans ?_))))
            exact congrArg (fun z : Guardian => { z with dec := some (f w.slot w.cyc) }) (hflag _)
          case start =>
            refine hfall.trans (congrArg to_ ((if_pos hk).trans ((if_neg hr).trans ((if_neg (by simp [hd])).trans (if_pos ⟨hact.trans ha, ?_⟩)))))
            rw [hdead]
            rfl
          case dead =>
            refine hfall.trans (congrArg to_ ((if_pos hk).trans ((if_neg hr).trans ((if_neg (by simp [hd])).trans (if_neg ?_)))))
            rintro ⟨ha, hdead⟩
            exact hwhy.elim (fun h => by simp [h] at hdead) fun h => h (hact.symm.trans ha)
          case block => exact hfall.trans (congrArg to_ ((if_neg hk).trans (hflag _)))
        · exact hexec.trans (congrArg to_ ((if_neg (Bool.eq_false_iff.1 hn)).trans ((congrArg (y.fallIn k t true) hw).trans (hflag _))))
    case relayEnd =>
      refine congrArg Host.Outcome.next ?_
      unfold State.gdRelayEnd
      dsimp only
      rw [show (a.gds.at x).heard = some k from hk]
      refine (if_pos hi).trans ?_
      rw [State.gdNote_eq, State.modGd_setGd, State.gdSettle_setGd]
      · rfl
      · exact fun h => by rw [show (a.gds.at x).st = .run from hst] at h; cases h
    case noRelayEnd =>
      refine congrArg Host.Outcome.next ?_
      unfold State.gdRelayEnd
      dsimp only
      cases hh : (a.gds.at x).heard with
      | none => rfl
      | some k => exact if_neg (Bool.eq_false_iff.1 (hk k hh))
  case lines =>
    intro s x k g
    have hoff {h : s.gdTxen x k = false} : s.gdTxd x k = true := if_pos (by rw [h]; rfl)
    refine ⟨fun hl => ?_, fun w hl hw hr hb hk => ?_, fun f hl hw ht => ?_⟩
    · have hen : s.gdTxen x k = false := Bool.and_eq_false_iff.2 (.inl hl)
      exact ⟨hen, hoff (h := hen)⟩
    · have hmask : g.relayMask.getLsbD k.val = true := by
        unfold Guardian.relayMask
        rw [hw]
        dsimp only
        rw [if_pos hr]
        have hown : (BitVec.ofNat 16 (2 ^ w.branch.val)).getLsbD k.val = decide (k = w.branch) := by
          rw [BitVec.getLsbD_ofNat, Nat.testBit_two_pow]
          simp [k.isLt, Fin.ext_iff, eq_comm]
        rw [BitVec.getLsbD_and, BitVec.getLsbD_or, BitVec.getLsbD_not, hown]
        have hlo : (fld g.brMask 0 16).getLsbD k.val = bit g.brMask k.val := by simp [fld, bit, k.isLt]
        have hhi : (fld g.brMask 16 16).getLsbD k.val = bit g.brMask (16 + k.val) := by simp [fld, bit, k.isLt]
        rw [hlo, hhi, hb]
        rcases hk with hk | hk
        · simp [hk, k.isLt]
        · simp [hk]
      have hen : s.gdTxen x k = true := Bool.and_eq_true_iff.2 ⟨hl, Bool.or_eq_true_iff.2 (.inl hmask)⟩
      refine ⟨hen, (if_neg (by rw [hen]; decide)).trans ((if_pos hmask).trans ?_)⟩
      rw [show (s.gds.at x).win = some w from hw]
    · intro d sends
      have hmask : g.relayMask.getLsbD k.val = false := by
        unfold Guardian.relayMask
        rw [hw]
        exact BitVec.getLsbD_zero
      have hen : s.gdTxen x k = sends := by
        unfold State.gdTxen
        dsimp only
        rw [hl, show (s.gds.at x).relayMask.getLsbD k.val = false from hmask, show (s.gds.at x).tx = some f from ht]
        rfl
      refine ⟨hen, ?_⟩
      by_cases hs : sends = true
      · refine (if_neg (by rw [hen, hs]; decide)).trans ((if_neg (Bool.eq_false_iff.1 hmask)).trans (Eq.trans ?_ (if_pos hs).symm))
        rw [show (s.gds.at x).tx = some f from ht]
      · exact (hoff (h := hen.trans (Bool.eq_false_iff.2 hs))).trans (if_neg hs).symm
  case truncation =>
    intro b thr win now c
    by_cases hre : ∃ g i, b.readmit = some (g, i) ∧ now = some g
    · obtain ⟨g, i, hr, rfl⟩ := hre
      let b0 : Branch := { b with st := if i then .isolated else b.st }
      have hc : c = (b0.truncated thr win).readmitted (some g) := Branch.truncate_readmit hr thr win
      obtain ⟨h1, h2, h3, h4, -⟩ := b0.truncated_spec thr win
      rw [hc, Branch.readmitted_eq]
      split
      next h => exact ⟨h1, h2, h3, h4, fun hg => absurd rfl (hg g i hr), fun _ _ _ _ => by simp⟩
      next h => exact ⟨h1, h2, h3, h4, fun hg => absurd rfl (hg g i hr), fun _ _ _ _ => h⟩
    · have hc : c = b.truncated thr win := by
        unfold c Branch.truncate
        split
        next g i n hr =>
          exact if_neg fun hg => hre ⟨g, i, hr, congrArg some hg.symm⟩
        next => rfl
      obtain ⟨h1, h2, h3, h4, h5, -, h6, h7⟩ := b.truncated_spec thr win
      rw [hc]
      exact ⟨h1, h2, h3, h4, fun _ => ⟨h5, h6, h7⟩, fun g i hr hn => absurd ⟨g, i, hr, hn⟩ hre⟩

end Sys2Proof.Machine

namespace Sys2Proof.Machine

/-! R399, R405, R407 to R412: the frames of a guardian channel. -/

/-- R397: words of bytes written from word `w` up. -/
theorem sparseGet_setWords (m : List (Nat × W32)) (w : Nat) (l : List Byte) (k : Nat) (hm : sparseWf 0 m = true) (i : Nat) :
    sparseGet 0 (setWords m w l k) i = if w ≤ i ∧ i < w + k then bytesWord (l.drop (4 * (i - w))) else sparseGet 0 m i := by
  induction k generalizing m w l with
  | zero => rw [if_neg (by omega)]; rfl
  | succ k ih =>
    rw [setWords, ih _ _ _ (sparseWf_sparseSet _ _ _ hm), sparseGet_sparseSet _ _ _ _ hm, List.drop_drop]
    by_cases hi : i = w
    · subst hi
      rw [if_neg (by omega), if_pos rfl, if_pos (by omega), Nat.sub_self]
      rfl
    · rw [if_neg hi]
      by_cases hr : w + 1 ≤ i ∧ i < w + 1 + k
      · rw [if_pos hr, if_pos (by omega), show 4 + 4 * (i - (w + 1)) = 4 * (i - w) by omega]
      · rw [if_neg hr, if_neg (by omega)]

theorem bytesWord_drop (l : List Byte) (n : Nat) :
    bytesWord (l.drop n) = l.getD (n + 3) 0 ++ l.getD (n + 2) 0 ++ l.getD (n + 1) 0 ++ l.getD n 0 := by
  simp [bytesWord, List.getD_eq_getElem?_getD]

/-- R409: what a received frame makes of its buffer pair. -/
theorem Guardian.receive_spec (g : Guardian) (l : List Byte) (v : Verdict) (e : Slot) :
    let b := g.bstat.at e.buf
    let base := bufBase e.buf (!b.front)
    ∃ bs bufs bunc, g.receive l v e = { g with bstat := g.bstat.upd e.buf bs, bufs := bufs, bunc := bunc } ∧
      bs = (if v.valid = false then { b with err := true }
        else if v.nd then { b with last := l.getD 2 0, nd := true, front := !b.front, seq := b.seq + 1 }
        else { b with last := l.getD 2 0 }) ∧
      (sparseWf 0 g.bufs = true → ∀ i, sparseGet 0 bufs i =
        if v.valid = true ∧ v.nd = true ∧ base ≤ i ∧ i < base + 2 * e.lenw then bytesWord (l.drop (4 + 4 * (i - base)))
        else sparseGet 0 g.bufs i) := by
  intro b base
  by_cases hv : v.valid = true
  · have hstart (x : Guardian) (h : (if v.nd = true then _ else _) = x) : g.receive l v e = x := (if_neg (by simp [hv])).trans h
    by_cases hn : v.nd = true
    · refine ⟨{ b with last := l.getD 2 0, nd := true, front := !b.front, seq := b.seq + 1 }, setWords g.bufs base (l.drop 4) (2 * e.lenw),
        g.bunc.filter fun w => !(decide (base ≤ w) && decide (w < base + 2 * e.lenw)), hstart _ (if_pos hn),
        ((if_neg (by simp [hv])).trans (if_pos hn)).symm, fun hw i => ?_⟩
      rw [sparseGet_setWords _ _ _ _ hw, List.drop_drop]
      simp only [hv, hn, true_and]
    · refine ⟨{ b with last := l.getD 2 0 }, g.bufs, g.bunc, hstart _ (if_neg hn), ((if_neg (by simp [hv])).trans (if_neg hn)).symm,
        fun _ i => (if_neg fun h => hn h.2.1).symm⟩
  · refine ⟨{ b with err := true }, g.bufs, g.bunc, if_pos (by simp [hv]), (if_pos (Bool.eq_false_iff.2 hv)).symm,
      fun _ i => (if_neg fun h => hv h.1).symm⟩

/-- R408: the checks of a frame of the local transmitter. -/
theorem Guardian.guard_eq (g : Guardian) (e : Slot) (h : Bool) :
    g.guard e h =
      if ¬ 2 * g.margin + (g.sslen + 2 + 8 * (8 + 8 * e.lenw) + 1) * g.bt ≤ e.dur then some .fit
      else if ¬ (bit g.cfg 3 = true ∨ ∃ c, g.lastSync = some c ∧ g.cyc ≤ c + 1) then some .noSync
      else if ¬ (g.devV = true → g.dev.toInt.natAbs ≤ if fldN g.nodeCfg 0 20 = 0 then fldN g.gm 0 20 else fldN g.nodeCfg 0 20) then some .dev
      else if ¬ (∀ w ∈ g.bunc, ¬ (32 * e.buf.val + 16 * b2n h ≤ w ∧ w < 32 * e.buf.val + 16 * b2n h + 2 * e.lenw)) then some .ecc
      else none := by
  unfold Guardian.guard
  dsimp only
  refine if_congr ?fit rfl (if_congr ?sync rfl (if_congr ?dev rfl (if_congr ?ecc rfl rfl)))
  case fit =>
    unfold Guardian.symbols
    omega
  case sync =>
    unfold Guardian.cold Guardian.synced
    cases g.lastSync <;> simp
  case dev => simp [Guardian.margin]
  case ecc =>
    unfold Guardian.halfBad bufBase
    rw [List.find?_isSome]
    simp

/-- R399, R409, R412: the channel after the frame of bytes `l`, whose stamp is `at_` in the domain. -/
def Guardian.judged (g : Guardian) (d : Decode) (l : List Byte) (v : Verdict) (at_ : W64) : Guardian :=
  let e := g.slot d.slot
  let g1 := if e.kind = 1 then g.receive l v e else g
  if v.valid ∧ e.sync then { g1 with dev := g1.deviation at_ d, devV := true, lastSync := some g.cyc } else g1

theorem Guardian.judged_spec (g : Guardian) (d : Decode) (l : List Byte) (v : Verdict) (at_ : W64) :
    let e := g.slot d.slot
    let b := g.bstat.at e.buf
    let base := bufBase e.buf (!b.front)
    ∃ bs bufs bunc dev devV ls, g.judged d l v at_ = { g with
        bstat := g.bstat.upd e.buf bs, bufs := bufs, bunc := bunc, dev := dev, devV := devV, lastSync := ls } ∧
      bs = (if e.kind ≠ 1 then b else if v.valid = false then { b with err := true }
        else if v.nd then { b with last := l.getD 2 0, nd := true, front := !b.front, seq := b.seq + 1 }
        else { b with last := l.getD 2 0 }) ∧
      (sparseWf 0 g.bufs = true → ∀ i, sparseGet 0 bufs i =
        if e.kind = 1 ∧ v.valid = true ∧ v.nd = true ∧ base ≤ i ∧ i < base + 2 * e.lenw then bytesWord (l.drop (4 + 4 * (i - base)))
        else sparseGet 0 g.bufs i) ∧
      (if v.valid = true ∧ e.sync = true then devV = true ∧ ls = some g.cyc ∧ dev = g.deviation at_ d
        else dev = g.dev ∧ devV = g.devV ∧ ls = g.lastSync) := by
  intro e b base
  have hrec : ∃ bs bufs bunc, (if e.kind = 1 then g.receive l v e else g) = { g with
        bstat := g.bstat.upd e.buf bs, bufs := bufs, bunc := bunc } ∧
      bs = (if e.kind ≠ 1 then b else if v.valid = false then { b with err := true }
        else if v.nd then { b with last := l.getD 2 0, nd := true, front := !b.front, seq := b.seq + 1 }
        else { b with last := l.getD 2 0 }) ∧
      (sparseWf 0 g.bufs = true → ∀ i, sparseGet 0 bufs i =
        if e.kind = 1 ∧ v.valid = true ∧ v.nd = true ∧ base ≤ i ∧ i < base + 2 * e.lenw then bytesWord (l.drop (4 + 4 * (i - base)))
        else sparseGet 0 g.bufs i) := by
    by_cases hk : e.kind = 1
    · obtain ⟨bs, bufs, bunc, hg, hbs, hbufs⟩ := g.receive_spec l v e
      refine ⟨bs, bufs, bunc, (if_pos hk).trans hg, hbs.trans (if_neg (not_not.2 hk)).symm, fun hw i => ?_⟩
      simp only [hk, true_and]
      exact hbufs hw i
    · refine ⟨b, g.bufs, g.bunc, (if_neg hk).trans ?_, (if_pos hk).symm, fun _ i => (if_neg fun h => hk h.1).symm⟩
      rw [Bank.upd_at]
  obtain ⟨bs, bufs, bunc, hg1, hbs, hbufs⟩ := hrec
  by_cases hv : v.valid = true ∧ e.sync = true
  · refine ⟨bs, bufs, bunc, g.deviation at_ d, true, some g.cyc, (if_pos hv).trans ?_, hbs, hbufs, (if_pos hv).mpr ⟨rfl, rfl, rfl⟩⟩
    exact congrArg (fun y : Guardian => { y with dev := y.deviation at_ d, devV := true, lastSync := some g.cyc }) hg1
  · exact ⟨bs, bufs, bunc, g.dev, g.devV, g.lastSync, (if_neg hv).trans hg1, hbs, hbufs, (if_neg hv).mpr ⟨rfl, rfl, rfl⟩⟩

/-- R410: the entries of a frame enter a receive queue that has room. -/
theorem State.gdQueue_room {s : State} {x : Fin 2} {g : Guardian} {q : List Quad} (h : g.rxq.length + q.length ≤ 64) :
    (s.setGd x g).gdQueue x q = s.setGd x { g with rxq := g.rxq ++ q, qlost := false } := by
  unfold State.gdQueue
  dsimp only
  rw [State.setGd_at, if_pos h, State.modGd_setGd]

/-- R380, R419: an uncorrectable error that a channel without an owner meets. -/
theorem State.gdEcc_of_noOwner {s : State} {x : Fin 2} {g : Guardian} (hn : g.nodeCfg = (s.gds.at x).nodeCfg) (ho : s.gdOwner x = none) (n : Nat) :
    (s.setGd x g).gdEcc x n = (s.setGd x { g with ecc := true }).arrayUnc none n := by
  have howner : (s.setGd x g).gdOwner x = none := by
    rw [← ho]
    unfold State.gdOwner
    dsimp only
    rw [State.setGd_at, hn]
    rfl
  unfold State.gdEcc
  rw [howner, State.modGd_setGd]
  rfl

/-- R407: the pending commit of a pair applies in cycle `c`. -/
def BufStat.applies (b : BufStat) (c : Nat) : Bool :=
  match b.pend with
  | some (some k) => decide (k = BitVec.ofNat 8 c)
  | some none => true
  | none => false

theorem BufStat.applies_eq (b : BufStat) (c : Nat) :
    b.applies c = decide (b.pend = some none ∨ b.pend = some (some (BitVec.ofNat 8 c))) := by
  unfold BufStat.applies
  rcases b.pend with _ | _ | k <;> simp

section
variable {s : State} {x : Fin 2} {j c : Nat}

/-- R407, R408: the latch of the frame of TX slot `j` of cycle `c` in RUN. -/
theorem State.gdLatch_run (hl : s.gdLive x = true) (hst : (s.gds.at x).st = .run) (hj : j < (s.gds.at x).slots)
    (hbad : (s.gds.at x).slotBad j = false) (hk : ((s.gds.at x).slot j).kind = 2)
    (hc : c = if notBefore (s.gdNow x) ((s.gds.at x).txStart (s.gds.at x).cyc j) then (s.gds.at x).cyc + 1 else (s.gds.at x).cyc)
    (hla : notBefore (s.gdNow x) ((s.gds.at x).latchAt c j) = true) (hend : notBefore (s.gdNow x) ((s.gds.at x).txEnd c j) = false) :
    let g := s.gds.at x
    let e := g.slot j
    let b := g.bstat.at e.buf
    let h := if b.applies c then !b.front else b.front
    (g.latched j c = true → s.gdLatch x j = s) ∧
    (∀ k, g.latched j c = false → g.guard e h = some k → s.gdLatch x j =
      let s1 := s.setGd x { g.suppress k with sent := (j, c) :: g.sent }
      if k = .ecc then s1.gdEcc x (0x1EC000 + 0x2000 * x.val + 4 * (g.halfBad e h).getD 0) else s1) ∧
    (g.latched j c = false → g.guard e h = none → s.gdLatch x j = s.setGd x { g with
      bstat := g.bstat.upd e.buf (if b.applies c then { b with front := h, pend := none, seq := b.seq + 1 } else b)
      ready := g.ready ++ [{ slot := j, cyc := c, bytes := gdBytes j c (b.applies c) e (g.payload e.buf h e.lenw) }] }) := by
  intro g e b h
  have hsettle : s.gdSettle x = s := State.gdSettle_of_steady fun h => by rw [hst] at h; cases h
  have hearly : (decide ((s.gds.at x).st = .wait) && !notBefore (s.gdNow x) (s.gds.at x).cyc0) = false := by rw [hst]; rfl
  have hlatch : s.gdLatch x j = if (!g.latched j c) = true then
      (match g.guard e h with
        | some k =>
          let s1 := s.modGd x fun g => { g.suppress k with sent := (j, c) :: g.sent }
          if k = .ecc then s1.gdEcc x (0x1EC000 + 0x2000 * x.val + 4 * (g.halfBad e h).getD 0) else s1
        | none =>
          s.modGd x fun g => { g with
            bstat := g.bstat.upd e.buf (if b.applies c then { b with front := h, pend := none, seq := b.seq + 1 } else b)
            ready := g.ready ++ [{ slot := j, cyc := c, bytes := gdBytes j c (b.applies c) e (g.payload e.buf h e.lenw) }] })
      else s := by
    unfold State.gdLatch
    dsimp only
    rw [hsettle, hearly, if_pos ⟨hl, .inl hst, hj⟩, if_neg (Bool.eq_false_iff.1 hbad), if_neg Bool.false_ne_true, ← hc]
    refine if_congr (Iff.intro (fun h => h.2.2.2) fun h => ⟨hk, hla, ?_, h⟩) rfl rfl
    exact (congrArg (! ·) hend :)
  refine ⟨fun hd => ?_, fun k hd hk => ?_, fun hd hk => ?_⟩
  · exact hlatch.trans (if_neg (by rw [hd]; decide))
  · refine hlatch.trans ((if_pos (by rw [hd]; rfl)).trans ?_)
    rw [hk]
    rfl
  · refine hlatch.trans ((if_pos (by rw [hd]; rfl)).trans ?_)
    rw [hk]
    rfl
end

/-- Settles O29. -/
theorem guardianFrames : Obligations.GuardianFrames := by
  refine ⟨?frames, ?checks⟩
  case frames =>
    intro s t x a g now to_ hl hst
    have hquiet (y : Guardian) (hy : y.st = .run) : (a.setGd x y).gdSettle x = a.setGd x y :=
      State.gdSettle_setGd fun h => by rw [hy] at h; cases h
    have hlive : (a.gds.at x).st ≠ .off ∧ (a.gds.at x).st ≠ .error := by
      rw [show (a.gds.at x).st = .run from hst]
      decide
    refine ⟨fun d hd hov => ⟨fun hno => ?drop, fun l bad hdec hslot hbad => ?judged⟩, fun j c hj hbad hk hc hla hend => ?latch, fun j f hf hst' => ?send⟩
    case drop =>
      have hdrop : ((a.gdNote x).modGd x fun g => { g with dec := none }) = a.setGd x { g with dec := none, mark := a.gdMark x } :=
        State.modGd_setGd _ _ _ _
      have hdone := hquiet { g with dec := none, mark := a.gdMark x } hst
      refine congrArg Host.Outcome.next ?_
      unfold State.gdFrame
      dsimp only
      rw [show (a.gds.at x).dec = some d from hd, hdrop]
      refine (if_pos ⟨hl, hlive.1, hlive.2, hov⟩).trans ?_
      split
      next => exact hdone
      next l bad hdec =>
        exact (if_pos (hno.resolve_left fun h => nomatch h.symm.trans hdec)).trans hdone
    case judged =>
      intro e b v q base hroom
      let at_ : W64 := (a.beryl.convert 0 g.dom d.stamp.fix).1.extractLsb' 16 64
      let g0 : Guardian := { g with dec := none, mark := a.gdMark x }
      obtain ⟨bs, bufs, bunc, dev, devV, ls, hg, hbs, hbufs, hdev⟩ := g0.judged_spec d l v at_
      have hdrop : ((a.gdNote x).modGd x fun g => { g with dec := none }) = a.setGd x g0 := State.modGd_setGd _ _ _ _
      have hexec : exec (.gdFrameReceived t x) s = .next (
          (if e.qen then (a.setGd x (g0.judged d l v at_)).gdQueue x q else a.setGd x (g0.judged d l v at_)).gdSettle x) := by
        refine congrArg Host.Outcome.next ?_
        unfold State.gdFrame
        dsimp only
        rw [show (a.gds.at x).dec = some d from hd, hdrop]
        refine (if_pos ⟨hl, hlive.1, hlive.2, hov⟩).trans ?_
        rw [show (a.gds.at x).decode d = some (l, bad) from hdec]
        refine (if_neg (Nat.not_le.2 hslot)).trans ((if_neg (Bool.eq_false_iff.1 hbad)).trans ?_)
        rw [State.setGd_at]
        rfl
      have hbase : bufBase e.buf (!b.front) = base := by
        unfold bufBase base
        cases b.front <;> rfl
      let z : Guardian := { g0 with bstat := g.bstat.upd e.buf bs, bufs := bufs, bunc := bunc, dev := dev, devV := devV, lastSync := ls }
      have hat : z.bstat.at e.buf = bs := Bank.at_upd_self _ _ _
      have hz (rxq : List Quad) (qlost : Bool) : ({ z with rxq := rxq, qlost := qlost } : Guardian) = { g with
          bstat := g.bstat.upd e.buf (z.bstat.at e.buf), bufs := bufs, bunc := bunc, mark := a.gdMark x
          dec := none, dev := dev, devV := devV, lastSync := ls, rxq := rxq, qlost := qlost } := by
        rw [hat]
      have hwords (hw : sparseWf 0 g.bufs = true) (i : Nat) : sparseGet 0 bufs i =
          if e.kind = 1 ∧ v.valid = true ∧ v.nd = true ∧ base ≤ i ∧ i < base + 2 * e.lenw then
            let k := 4 + 4 * (i - base)
            l.getD (k + 3) 0 ++ l.getD (k + 2) 0 ++ l.getD (k + 1) 0 ++ l.getD k 0
          else sparseGet 0 g.bufs i := by
        have h := hbufs hw i
        rw [show bufBase (g0.slot d.slot).buf (!(g0.bstat.at (g0.slot d.slot).buf).front) = base from hbase, bytesWord_drop] at h
        exact h
      cases hq : e.qen with
      | false =>
        have hout : (if e.qen then (a.setGd x (g0.judged d l v at_)).gdQueue x q else a.setGd x (g0.judged d l v at_)) = a.setGd x z := by
          rw [hq, hg]
          rfl
        exact ⟨z, hexec.trans (congrArg Host.Outcome.next ((congrArg (·.gdSettle x) hout).trans (hquiet z hst))), hz g.rxq g.qlost, rfl, rfl,
          hat.trans hbs, hwords, hdev⟩
      | true =>
        let y : Guardian := { z with rxq := g.rxq ++ q, qlost := false }
        have hout : (if e.qen then (a.setGd x (g0.judged d l v at_)).gdQueue x q else a.setGd x (g0.judged d l v at_)) = a.setGd x y := by
          rw [hq, hg]
          exact State.gdQueue_room (g := z) (hroom.resolve_left (by rw [hq]; decide))
        exact ⟨y, hexec.trans (congrArg Host.Outcome.next ((congrArg (·.gdSettle x) hout).trans (hquiet y hst))), hz _ _, rfl, rfl,
          hat.trans hbs, hwords, hdev⟩
    case latch =>
      intro e b swap half done cut
      obtain ⟨hdone, hcut, hgo⟩ := State.gdLatch_run (j := j) hl hst hj hbad hk hc hla hend
      have happ : b.applies c = swap := b.applies_eq c
      have hhalf : (if b.applies c then !b.front else b.front) = half := by
        rw [happ]
        unfold half
        cases b.front <;> cases swap <;> rfl
      have hlatched : g.latched j c = true ↔ done := by
        unfold Guardian.latched done
        simp
      refine ⟨fun h => congrArg Host.Outcome.next (hdone (hlatched.2 h)), fun k h hg hk => ?_, fun h hg ho => ?_, fun h hg => ?_⟩
      · have hg' := (congrArg (g.guard e) hhalf).trans hg
        exact congrArg Host.Outcome.next ((hcut k (Bool.eq_false_iff.2 fun h' => h (hlatched.1 h')) hg').trans (if_neg hk))
      · have hg' := (congrArg (g.guard e) hhalf).trans hg
        have hecc := State.gdEcc_of_noOwner (g := cut .ecc) rfl ho
        exact ⟨_, congrArg Host.Outcome.next ((hcut .ecc (Bool.eq_false_iff.2 fun h' => h (hlatched.1 h')) hg').trans ((if_pos rfl).trans (hecc _))),
          rfl, rfl, rfl⟩
      · have hg' := (congrArg (g.guard e) hhalf).trans hg
        refine congrArg Host.Outcome.next ((hgo (Bool.eq_false_iff.2 fun h' => h (hlatched.1 h')) hg').trans ?_)
        rw [hhalf, happ]
        rfl
    case send =>
      intro rest
      have hexec : exec (.gdTxFrame t x j) s = .next (if g.sent.contains (j.val, f.cyc) = true then a.setGd x { g with ready := rest } else
          a.setGd x { g with
            ready := rest, sent := (j.val, f.cyc) :: g.sent
            tx := some { mask := if g.node then BitVec.ofNat 16 (2 ^ g.nbr.val) else g.brMask.setWidth 16, bytes := f.bytes
                         start := g.txStart f.cyc j
                         from_ := 0
                         fin := g.txStart f.cyc j + BitVec.ofNat 64 ((g.sslen + 2 + 8 * f.bytes.length + 1) * g.bt) } }) := by
        refine congrArg Host.Outcome.next ?_
        unfold State.gdSend
        dsimp only
        rw [show (a.gds.at x).ready.find? (fun f => f.slot = j.val) = some f from hf]
        exact if_pos ⟨hl, hst, hst'⟩
      exact ⟨fun h => hexec.trans (congrArg Host.Outcome.next (if_pos (List.contains_iff_mem.2 h))),
        fun h => hexec.trans (congrArg Host.Outcome.next (if_neg fun k => h (List.contains_iff_mem.1 k)))⟩
  case checks =>
    intro g e h limit fits inSync near clean
    have hg : g.guard e h = if ¬ fits then some .fit else if ¬ inSync then some .noSync else if ¬ near then some .dev else if ¬ clean then some .ecc else none :=
      g.guard_eq e h
    rw [hg]
    by_cases h1 : fits <;> by_cases h2 : inSync <;> by_cases h3 : near <;> by_cases h4 : clean <;> simp [h1, h2, h3, h4]

end Sys2Proof.Machine

namespace Sys2Proof.Machine

/-! R428 to R431, R441 to R443: the states of an arbitrated-bus cell and its requests. -/

/-- Cell `k` becomes `c`. -/
def State.setAb (s : State) (k : Fin 16) (c : AbCell) : State := { s with abs_ := s.abs_.upd k c }

theorem State.setAb_at (s : State) (k : Fin 16) (c : AbCell) : (s.setAb k c).abs_.at k = c := Bank.at_upd_self _ _ _

theorem State.setAb_self (s : State) (k : Fin 16) : s.setAb k (s.abs_.at k) = s := by
  unfold State.setAb
  rw [Bank.upd_at]

theorem State.modAb_eq_setAb (s : State) (k : Fin 16) (f : AbCell → AbCell) : s.modAb k f = s.setAb k (f (s.abs_.at k)) := rfl

theorem State.modAb_setAb (s : State) (k : Fin 16) (c : AbCell) (f : AbCell → AbCell) : (s.setAb k c).modAb k f = s.setAb k (f c) := by
  simp [State.setAb, State.modAb, Bank.mod_eq]

theorem bit_abCfgMask (v : W32) : bit (v &&& abCfgMask) 0 = bit v 0 ∧ bit (v &&& abCfgMask) 1 = bit v 1 := by
  simp [bit, abCfgMask]

theorem fldN_abCfgMask (v : W32) : fldN (v &&& abCfgMask) 20 2 = fldN v 20 2 := by
  refine congrArg BitVec.toNat (BitVec.eq_of_getLsbD_eq fun i hi => ?_)
  interval_cases i <;> simp [abCfgMask]

/-- R423, R440: an enable whose timing or mode is not valid, and one that is. -/
theorem AbCell.armed_spec (c : AbCell) (w : W32) (g : W64) :
    let new : AbCell := { c with cfg := w, enRec := none }
    c.arm w g =
      if new.timingOk = false then { new with cfg := w &&& ~~~1, cfgErr := true, cause := .timing }
      else if fldN w 20 2 = 3 then { new with cfg := w &&& ~~~1, cfgErr := true, cause := .mode }
      else { new with enAt := g, twa := c.bitNs + 8 } := by
  intro new
  unfold AbCell.arm
  dsimp only
  exact if_congr (by simp [new]) rfl rfl

/-- R442: the enable of a cell in OFF. -/
theorem AbCell.cfgOff_enable (c : AbCell) {w : W32} (g : W64) (h : bit w 0 = true) :
    let new : AbCell := { c with cfg := w, enRec := none }
    (new.timingOk = false ∨ fldN w 20 2 = 3 → c.cfgOff w g = { new with
      cfg := w &&& ~~~1, cfgErr := true, cause := if new.timingOk then .mode else .timing }) ∧
    (new.timingOk = true → fldN w 20 2 ≠ 3 → c.cfgOff w g = { new with
      st := .integ, tec := 0, rec_ := 0, ackRun := 0, enAt := g, twa := c.bitNs + 8
      frame := none, errFrame := false, drive := none, recovering := false }) := by
  intro new
  have hen (x : W32) : bit (x &&& ~~~1) 0 = false := by simp [bit]
  have hcfg : c.cfgOff w g = if (c.arm w g).en then { c.arm w g with
      st := .integ, tec := 0, rec_ := 0, ackRun := 0, frame := none, errFrame := false, drive := none, recovering := false } else c.arm w g :=
    if_pos h
  refine ⟨fun hbad => ?_, fun ht hm => ?_⟩
  · have harm : c.arm w g = { new with cfg := w &&& ~~~1, cfgErr := true, cause := if new.timingOk then .mode else .timing } := by
      rw [c.armed_spec w g]
      cases ht : new.timingOk with
      | false => exact if_pos rfl
      | true => exact (if_neg (by decide)).trans (if_pos (hbad.resolve_left (by rw [ht]; decide)))
    rw [hcfg, harm]
    exact if_neg (Bool.eq_false_iff.1 (hen w))
  · have harm : c.arm w g = { new with enAt := g, twa := c.bitNs + 8 } := by
      rw [c.armed_spec w g]
      exact (if_neg (by rw [ht]; decide)).trans (if_neg hm)
    rw [hcfg, harm]
    exact if_pos h

theorem State.abSettled_frame (s : State) : s.abSettled = { s with abs_ := s.abSettled.abs_ } := by
  unfold State.abSettled
  split <;> rfl

theorem State.abSettled_noteQueues_now (s : State) : s.abSettled.noteQueues.now = s.now ∧ s.abSettled.noteQueues.ticking = s.ticking := by
  rw [s.abSettled_frame]
  exact ⟨rfl, rfl⟩

section
variable {s z : State} {k : Fin 16} {v : W32} (hz : s.abSettled.noteQueues = z)
include hz

/-- R444: a write of ABk_CFG in OFF. -/
theorem State.abCfg_off (hst : (z.abs_.at k).st = .off) : s.abCfg k v = z.setAb k ((z.abs_.at k).cfgOff (v &&& abCfgMask) z.now) := by
  unfold State.abCfg
  dsimp only
  rw [hz, hst]
  rfl

/-- R354: a write of ABk_CFG in DRAINING is recorded. -/
theorem State.abCfg_draining (hst : (z.abs_.at k).st = .draining) : s.abCfg k v =
    let s1 := z.modAb k fun c => { c with
      cfg := mrg abLiveMask c.cfg (v &&& abCfgMask) &&& ~~~1, enRec := some (v &&& abCfgMask) }
    if bit (v &&& abCfgMask) 1 then s1.abAbort k else s1 := by
  unfold State.abCfg
  dsimp only
  rw [hz, hst]
  rfl

/-- R442: a write of ABk_CFG in FAULT. -/
theorem State.abCfg_fault (hst : (z.abs_.at k).st = .fault) : s.abCfg k v = z.modAb k fun c =>
    let w := v &&& abCfgMask
    if c.en then { c with cfg := mrg abLiveMask c.cfg w, cfgIgn := c.cfgIgn || decide ((c.cfg ^^^ w) &&& ~~~abLiveMask ≠ 0) }
    else if bit w 0 then c.arm w z.now else { c with cfg := w } := by
  unfold State.abCfg
  dsimp only
  rw [hz, hst]
  cases bit (v &&& abCfgMask) 0 <;> rfl

/-- R442: a disable of a cell that runs. -/
theorem State.abCfg_disable (hst : (z.abs_.at k).st = .integ ∨ (z.abs_.at k).st = .busOff ∨ (z.abs_.at k).st = .run)
    (h0 : bit (v &&& abCfgMask) 0 = false) :
    let c := z.abs_.at k
    let y : AbCell := { c with
      cfg := mrg abLiveMask c.cfg (v &&& abCfgMask), cfgIgn := c.cfgIgn || decide ((c.cfg ^^^ (v &&& abCfgMask)) &&& ~~~abLiveMask ≠ 0) }
    ((c.st = .run → ¬ ((c.frame.isSome = true ∨ c.errFrame = true) ∧ z.ticking = true)) → s.abCfg k v = z.setAb k y.toOff) ∧
    (c.st = .run → (c.frame.isSome = true ∨ c.errFrame = true) ∧ z.ticking = true → bit (v &&& abCfgMask) 1 = false →
      s.abCfg k v = z.setAb k { y with st := .draining }) := by
  intro c y
  refine ⟨fun hno => ?_, fun hrun hbusy h1 => ?_⟩
  · rcases hst with hst | hst | hst
    · unfold State.abCfg
      dsimp only
      rw [hz, hst, h0]
      rfl
    · unfold State.abCfg
      dsimp only
      rw [hz, hst, h0]
      rfl
    · unfold State.abCfg
      dsimp only
      rw [hz, hst, h0]
      exact (if_neg (hno hst)).trans (State.modAb_setAb _ _ _ _)
  · unfold State.abCfg
    dsimp only
    rw [hz, show (z.abs_.at k).st = .run from hrun, h0]
    refine (if_pos hbusy).trans ((if_neg (Bool.eq_false_iff.1 h1)).trans ?_)
    exact State.modAb_setAb z k y _
end

theorem AbCell.frameEnd_draining {c : AbCell} (hst : c.st = .draining) (g : W64) :
    (∀ v, c.enRec = some v → c.frameEnd g = c.clearFrame.toOff.cfgOff v g) ∧ (c.enRec = none → c.frameEnd g = c.clearFrame.toOff) := by
  have hc : c.clearFrame.st = .draining := hst
  refine ⟨fun v h => ?_, fun h => ?_⟩
  · unfold AbCell.frameEnd
    dsimp only
    rw [if_pos hc, show c.clearFrame.enRec = some v from h]
  · unfold AbCell.frameEnd
    dsimp only
    rw [if_pos hc, show c.clearFrame.enRec = none from h]

theorem AbCell.frameEnd_of_ne {c : AbCell} (hst : c.st ≠ .draining) (g : W64) : c.frameEnd g = c.clearFrame := if_neg hst

theorem AbCell.cfgOff_frame {c : AbCell} (h : c.frame = none) (v : W32) (g : W64) : (c.cfgOff v g).frame = none := by
  unfold AbCell.cfgOff AbCell.enable AbCell.arm
  dsimp only
  split_ifs
  all_goals simp [h]

theorem AbCell.frameEnd_frame (c : AbCell) (g : W64) : (c.frameEnd g).frame = none := by
  by_cases h : c.st = .draining
  · cases hr : c.enRec with
    | none => rw [(AbCell.frameEnd_draining h g).2 hr]; rfl
    | some v => rw [(AbCell.frameEnd_draining h g).1 v hr]; exact AbCell.cfgOff_frame rfl v g
  · rw [AbCell.frameEnd_of_ne h]; rfl

/-- R443: ABORT abandons a received frame, and stops one of the cell's own in its arbitration field. -/
theorem State.abAbort_spec {s : State} {k : Fin 16} {c : AbCell} {f : AbFrame} (hst : c.st = .draining) (hf : c.frame = some f) :
    (f.offered = none → (s.setAb k c).abAbort k = s.setAb k (c.frameEnd s.now)) ∧
    (∀ b, f.offered = some b → (s.setAb k c).abAbort k = s.setAb k (
      if notBefore s.now (f.sof + BitVec.ofNat 64 (c.arbNs b)) then c
      else { c with frame := some { f with endAt := some (c.driving f.sof (f.es :: f.edges) (c.wire b) s.now).2 } })) := by
  refine ⟨fun ho => ?_, fun b ho => ?_⟩
  · unfold State.abAbort
    rw [State.modAb_setAb, hst, hf]
    dsimp only
    rw [ho]
    rfl
  · unfold State.abAbort
    rw [State.modAb_setAb, hst, hf]
    dsimp only
    rw [ho]
    rfl

theorem AbCell.lost_frame (c : AbCell) : ∃ tbs txF, c.lost = { c with tbs := tbs, txF := txF } := by
  unfold AbCell.lost
  split
  · split <;> exact ⟨_, _, rfl⟩
  · exact ⟨_, _, rfl⟩

theorem State.abSettled_at {s : State} (hl : s.abLive = true) (k : Fin 16) : s.abSettled.abs_.at k = (s.abs_.at k).settle s.now := by
  unfold State.abSettled
  rw [if_pos hl]
  exact Bank.at_map _ _ _

theorem AbCell.settle_of_end {c : AbCell} {f : AbFrame} {e g : W64} (hf : c.frame = some f) (he : f.endAt = some e)
    (hn : notBefore g e = true) : c.settle g = AbCell.frameEnd { c.lost with mark := c.markAt e } e := by
  have hb : c.frame.bind AbFrame.endAt = some e := by rw [hf]; exact he
  unfold AbCell.settle
  rw [hb]
  exact if_pos hn

theorem AbCell.settle_of_open {c : AbCell} {g : W64} (h : ∀ f e, c.frame = some f → f.endAt = some e → notBefore g e = false) :
    c.settle g = c := by
  unfold AbCell.settle
  split
  next e hb =>
    obtain ⟨f, hf, he⟩ := Option.bind_eq_some_iff.1 hb
    exact if_neg (Bool.eq_false_iff.1 (h f e hf he))
  next => rfl

/-- Each transmit buffer of a list is changed once, and a final state of one of them is flagged. -/
theorem AbCell.foldl_tbs (g : AbCell → Fin 8 → AbCell) (new : Fin 8 → TxBuf → TxBuf) (fin : Fin 8 → TxBuf → Bool)
    (hg : ∀ c b, g c b = { c with tbs := c.tbs.upd b (new b (c.tbs.at b)), txF := c.txF || fin b (c.tbs.at b) }) (l : List (Fin 8))
    (hl : l.Nodup) (c : AbCell) :
    ∃ tbs txF, l.foldl g c = { c with tbs := tbs, txF := txF } ∧
      (∀ b, tbs.at b = if b ∈ l then new b (c.tbs.at b) else c.tbs.at b) ∧
      (txF = true ↔ c.txF = true ∨ ∃ b ∈ l, fin b (c.tbs.at b) = true) := by
  induction l generalizing c with
  | nil => exact ⟨c.tbs, c.txF, rfl, fun b => (if_neg (List.not_mem_nil)).symm, by simp⟩
  | cons a l ih =>
    obtain ⟨ha, hl⟩ := List.nodup_cons.1 hl
    obtain ⟨tbs, txF, hfold, hat, hflag⟩ := ih hl (g c a)
    rw [hg] at hfold hat hflag
    have hne (b : Fin 8) (hb : b ∈ l) : b ≠ a := fun h => ha (h ▸ hb)
    refine ⟨tbs, txF, ?_, fun b => (hat b).trans ?_, hflag.trans ?_⟩
    · rw [List.foldl_cons, hg]
      exact hfold
    · by_cases hb : b = a
      · subst hb
        simp [ha]
      · simp [hb]
    · have hex : (∃ b ∈ l, fin b ((c.tbs.upd a (new a (c.tbs.at a))).at b) = true) ↔ ∃ b ∈ l, fin b (c.tbs.at b) = true := by
        refine exists_congr fun b => and_congr_right fun hb => ?_
        rw [Bank.at_upd_ne _ _ (hne b hb)]
      rw [Bool.or_eq_true, hex, List.exists_mem_cons_iff, or_assoc]

theorem mem_ofFn_id (b : Fin 8) : b ∈ List.ofFn fun b : Fin 8 => b := List.mem_ofFn.2 ⟨b, rfl⟩

theorem nodup_ofFn_id : (List.ofFn fun b : Fin 8 => b).Nodup := List.nodup_ofFn_ofInjective fun _ _ h => h

/-- R443: FLUSH of a cell, TD0 running or not. -/
def AbCell.flushed (ticking : Bool) (c : AbCell) : AbCell :=
  if c.st = .off ∨ (c.st = .fault ∧ ticking) then
    (List.ofFn fun b : Fin 8 => b).foldl (init := { c with rxq := [], qbad := [] }) fun c b =>
      if (c.tbs.at b).st = .pending then c.finish b .cancelled else c
  else c

/-- R431, R443: what a cancel makes of a buffer that waits. -/
def TxBuf.flushed (t : TxBuf) : TxBuf := if t.st = .pending then { TxBuf.reset with st := .cancelled } else t

/-- R443: FLUSH cancels a buffer that is PENDING. -/
theorem AbCell.flush_eq (c : AbCell) (b : Fin 8) : (if (c.tbs.at b).st = .pending then c.finish b .cancelled else c) = { c with
    tbs := c.tbs.upd b ((fun _ => TxBuf.flushed) b (c.tbs.at b))
    txF := c.txF || (fun _ t => decide (t.st = .pending)) b (c.tbs.at b) } := by
  dsimp only
  unfold TxBuf.flushed
  by_cases h : (c.tbs.at b).st = .pending
  · rw [if_pos h, if_pos h, decide_eq_true h, Bool.or_true]
    rfl
  · rw [if_neg h, if_neg h, decide_eq_false h, Bool.or_false, Bank.upd_at]

/-- R431: what a write of ABk_TXCAN makes of buffer `b`. -/
def TxBuf.cancelled (v : W32) (b : Fin 8) (t : TxBuf) : TxBuf :=
  if bit v b.val = true ∧ t.st = .pending then { TxBuf.reset with st := .cancelled }
  else if bit v b.val = true ∧ t.st = .active then { t with cancel := true } else t

theorem AbCell.cancel_eq (v : W32) (c : AbCell) (b : Fin 8) : (if bit v b.val then c.cancel b else c) = { c with
    tbs := c.tbs.upd b (TxBuf.cancelled v b (c.tbs.at b))
    txF := c.txF || (fun b t => bit v b.val && decide (t.st = .pending)) b (c.tbs.at b) } := by
  unfold TxBuf.cancelled
  cases hv : bit v b.val with
  | false => simp [hv]
  | true =>
    unfold AbCell.cancel
    cases hst : (c.tbs.at b).st <;> simp [hv, hst, AbCell.finish, Bank.mod_eq]

theorem foldl_single {α β : Type} [DecidableEq α] {f : β → α → β} {b : α} (l : List α) (hl : l.Nodup) (hb : b ∈ l) (s : β) :
    l.foldl (fun s a => if a = b then f s a else s) s = f s b := by
  have hno (l : List α) (h : b ∉ l) (s : β) : l.foldl (fun s a => if a = b then f s a else s) s = s := by
    induction l generalizing s with
    | nil => rfl
    | cons a l ih =>
      rw [List.foldl_cons, if_neg fun h' => h (by simp [h']), ih fun h' => h (List.mem_cons_of_mem _ h')]
  induction l generalizing s with
  | nil => exact nomatch hb
  | cons a l ih =>
    obtain ⟨ha, hl⟩ := List.nodup_cons.1 hl
    rw [List.foldl_cons]
    by_cases h : a = b
    · subst h
      rw [if_pos rfl, hno l ha]
    · rw [if_neg h, ih hl (by simpa [Ne.symm h] using hb)]

theorem bit_two_pow {b : Nat} (hb : b < 32) (j : Nat) : bit (BitVec.ofNat 32 (2 ^ b)) j = decide (j = b) := by
  unfold bit
  rw [BitVec.getLsbD_ofNat, Nat.testBit_two_pow]
  by_cases h : j = b
  · simp [h, hb]
  · simp [h, Ne.symm h]

/-- Settles O30. -/
theorem arbControl : Obligations.ArbControl := by
  refine ⟨?cfg, ?settled, ?commands⟩
  case cfg =>
    intro s k v hup z c en w kept ign to_ new off
    have hw0 : bit w 0 = bit v 0 := (bit_abCfgMask v).1
    have hw1 : bit w 1 = bit v 1 := (bit_abCfgMask v).2
    have hmode : fldN w 20 2 = fldN v 20 2 := fldN_abCfgMask v
    obtain ⟨hnow, htick⟩ : z.now = s.now ∧ z.ticking = s.ticking := s.abSettled_noteQueues_now
    have hz : s.abSettled.noteQueues = z := rfl
    clear_value z
    have henable (h : bit (s.abs_.at k).cfg 0 = false) (hv : bit v 0 = true) : exec (.abEnable k v) s = .next (s.abCfg k v) :=
      congrArg Host.Outcome.next (if_pos ⟨hup, (congrArg (! ·) h :), hv⟩)
    have hdisable (h : bit (s.abs_.at k).cfg 0 = true) (hv : bit v 0 = false) : exec (.abDisable k v) s = .next (s.abCfg k v) :=
      congrArg Host.Outcome.next (if_pos ⟨hup, h, (congrArg (! ·) hv :)⟩)
    refine ⟨fun hst he hv hbad => ?refused, fun hst he hv ht hm => ?enable, fun hst he hv h1 => ?record, fun hst he hv => ?off,
      fun hst hf ht he hv h1 => ?drain, fun hst he hv => ?fault, fun hst he hv => ?faultEnable, fun f h1 hst hf hv hv1 => ?abort⟩
    case refused =>
      refine (henable he.1 hv).trans (congrArg Host.Outcome.next ((State.abCfg_off hz hst).trans (congrArg (z.setAb k) ?_)))
      exact (c.cfgOff_enable z.now (hw0.trans hv)).1 (hbad.imp_right hmode.trans)
    case enable =>
      refine (henable he.1 hv).trans (congrArg Host.Outcome.next ((State.abCfg_off hz hst).trans (congrArg (z.setAb k) ?_)))
      rw [← hnow]
      exact (c.cfgOff_enable z.now (hw0.trans hv)).2 ht fun h => hm (hmode.symm.trans h)
    case record =>
      exact (henable he.1 hv).trans (congrArg Host.Outcome.next ((State.abCfg_draining hz hst).trans
        (if_neg (Bool.eq_false_iff.1 (hw1.trans h1)))))
    case off =>
      refine (hdisable he.1 hv).trans (congrArg Host.Outcome.next ((State.abCfg_disable hz ?_ (hw0.trans hv)).1 fun hrun => ?_))
      · exact hst.imp_right (Or.imp_right And.left)
      · rintro ⟨hb, ht⟩
        rcases hst with h | h | ⟨-, hidle⟩
        · exact nomatch h.symm.trans hrun
        · exact nomatch h.symm.trans hrun
        · rw [htick] at ht
          obtain ⟨hf, he⟩ := hidle.resolve_right (by rw [ht]; decide)
          rcases hb with hb | hb
          · exact nomatch (congrArg Option.isSome hf).symm.trans hb
          · exact nomatch he.symm.trans hb
    case drain =>
      have hbusy : (c.frame.isSome = true ∨ c.errFrame = true) ∧ z.ticking = true :=
        ⟨hf.imp_left Option.isSome_iff_ne_none.2, htick.trans ht⟩
      have hcfg := (State.abCfg_disable (v := v) hz (.inr (.inr hst)) (hw0.trans hv)).2 hst hbusy (hw1.trans h1)
      exact (hdisable he.1 hv).trans (congrArg Host.Outcome.next hcfg)
    case fault =>
      exact (hdisable he.1 hv).trans (congrArg Host.Outcome.next ((State.abCfg_fault hz hst).trans (congrArg (z.setAb k) (if_pos he.2))))
    case faultEnable =>
      refine (henable he.1 hv).trans (congrArg Host.Outcome.next ((State.abCfg_fault hz hst).trans (congrArg (z.setAb k)
        ((if_neg (Bool.eq_false_iff.1 he.2)).trans ((if_pos (hw0.trans hv)).trans ((c.armed_spec w z.now).trans ?_))))))
      rw [hmode, hnow]
    case abort =>
      intro y
      have hexec : exec (.abAbort k v) s = .next ((z.setAb k y).abAbort k) :=
        congrArg Host.Outcome.next ((if_pos ⟨hup, h1, hv1⟩).trans ((State.abCfg_draining hz hst).trans (if_pos (hw1.trans hv1))))
      refine ⟨fun ho => ?_, fun b ho => ?_⟩
      · refine hexec.trans (congrArg Host.Outcome.next (((State.abAbort_spec (c := y) hst hf).1 ho).trans (congrArg (z.setAb k) ?_)))
        rw [(AbCell.frameEnd_draining (c := y) hst z.now).1 w rfl]
        exact if_neg (Bool.eq_false_iff.1 (hw0.trans hv))
      · rw [← hnow]
        exact hexec.trans (congrArg Host.Outcome.next ((State.abAbort_spec (c := y) hst hf).2 b ho))
  case settled =>
    intro s k z c y
    refine ⟨s.abSettled_frame, fun f e hl hf he hn => ?_, fun hno => ?_⟩
    · have hy : y = AbCell.frameEnd { c.lost with mark := c.markAt e } e :=
        (State.abSettled_at hl k).trans (AbCell.settle_of_end hf he hn)
      obtain ⟨tbs, txF, hlost⟩ := c.lost_frame
      rw [hlost] at hy
      rw [hy]
      refine ⟨AbCell.frameEnd_frame _ _, fun hst => ?_, fun hst hr => ?_⟩
      · rw [AbCell.frameEnd_of_ne (c := { c with tbs := tbs, txF := txF, mark := c.markAt e }) hst]
        rfl
      · rw [(AbCell.frameEnd_draining (c := { c with tbs := tbs, txF := txF, mark := c.markAt e }) hst e).2 hr]
        exact ⟨rfl, rfl⟩
    · cases hl : s.abLive with
      | false => exact congrArg (fun z : State => z.abs_.at k) (if_neg (Bool.eq_false_iff.1 hl))
      | true =>
        exact (State.abSettled_at hl k).trans (AbCell.settle_of_open (hno.resolve_left (by rw [hl]; decide)))
  case commands =>
    intro s k v hup c0 z c to0 to_ done
    have hz : s.abSettled = z := rfl
    have htick : s.abSettled.ticking = s.ticking := (congrArg State.ticking s.abSettled_frame).trans rfl
    have hbase : z = { s with abs_ := z.abs_ } := s.abSettled_frame
    clear_value z
    have hcell {i : Instr} {f : AbCell → AbCell} (hi : exec i s = .next (if s.up then s.modAb k f else s)) :
        exec i s = to0 (f c0) := hi.trans (congrArg Host.Outcome.next (if_pos hup))
    have hsame : to0 c0 = .next s := congrArg Host.Outcome.next (s.setAb_self k)
    have hpart {i : Instr} (f : AbCell → AbCell) (hi : exec i s = .next (if s.up then s.abSettled.modAb k f else s)) :
        exec i s = to_ (f c) := hi.trans (congrArg Host.Outcome.next ((if_pos hup).trans (by rw [hz]; rfl)))
    refine ⟨fun hst ht => ?clrflt, fun hn => ?noClrflt, fun hst ht => ?recover, fun hn => ?noRecover, fun hst => ?flush, fun h1 h2 => ?noFlush,
      ?cancel, fun b hv => ?request⟩
    case clrflt => exact (hcell rfl).trans (congrArg to0 (if_pos ⟨hst, ht⟩))
    case noClrflt =>
      exact (hcell rfl).trans ((congrArg to0 (if_neg fun h => hn.elim (fun k => k h.1) fun k => Bool.noConfusion (k.symm.trans h.2))).trans hsame)
    case recover => exact (hcell rfl).trans (congrArg to0 (if_pos ⟨hst, ht⟩))
    case noRecover =>
      exact (hcell rfl).trans ((congrArg to0 (if_neg fun h => hn.elim (fun k => k h.1) fun k => Bool.noConfusion (k.symm.trans h.2))).trans hsame)
    case flush =>
      obtain ⟨tbs, txF, hfold, hat, hflag⟩ := AbCell.foldl_tbs _ (fun _ => TxBuf.flushed) (fun _ t => decide (t.st = .pending)) AbCell.flush_eq _ nodup_ofFn_id { c with rxq := [], qbad := [] }
      refine ⟨_, (hpart (AbCell.flushed s.abSettled.ticking) rfl).trans (congrArg to_ ((if_pos (hst.imp_right fun h => ⟨h.1, htick.trans h.2⟩)).trans hfold)),
        rfl, fun b => ?_, ?_⟩
      · rw [hat b, if_pos (mem_ofFn_id b)]
        rfl
      · exact hflag.trans (or_congr Iff.rfl (exists_congr fun b => ⟨fun h => of_decide_eq_true h.2, fun h => ⟨mem_ofFn_id b, decide_eq_true h⟩⟩))
    case noFlush =>
      refine (hpart (AbCell.flushed s.abSettled.ticking) rfl).trans ((congrArg to_ (if_neg fun h => ?_)).trans (congrArg Host.Outcome.next (z.setAb_self k)))
      rcases h with h | ⟨hf, ht⟩
      · exact h1 h
      · exact h2.elim (fun k => k hf) fun k => Bool.noConfusion (k.symm.trans (htick.symm.trans ht))
    case cancel =>
      obtain ⟨tbs, txF, hfold, hat, hflag⟩ := AbCell.foldl_tbs _ (TxBuf.cancelled v)
        (fun b t => bit v b.val && decide (t.st = .pending)) (AbCell.cancel_eq v) _ nodup_ofFn_id c
      refine ⟨_, (hpart (fun c => (List.ofFn fun b : Fin 8 => b).foldl (fun c b => if bit v b.val then c.cancel b else c) c) rfl).trans
        (congrArg to_ hfold), rfl, fun b => ?_, ?_⟩
      · rw [hat b, if_pos (mem_ofFn_id b)]
        rfl
      · refine hflag.trans (or_congr Iff.rfl (exists_congr fun b => ⟨fun h => ?_, fun h => ⟨mem_ofFn_id b, ?_⟩⟩))
        · exact (Bool.and_eq_true_iff.1 h.2).imp_right of_decide_eq_true
        · exact Bool.and_eq_true_iff.2 (h.imp_right decide_eq_true)
    case request =>
      obtain ⟨cells, rfl⟩ : ∃ cells, z = { s with abs_ := cells } := ⟨_, hbase⟩
      let z : State := { s with abs_ := cells }
      intro t w0 w3 ns d with_ badFrame
      have hexec : exec (.txRequest k v) s = .next (z.abRequest k b) := by
        refine congrArg Host.Outcome.next ((if_pos hup).trans ?_)
        unfold State.abTxReq
        rw [hz]
        have hbits (s : State) (a : Fin 8) : (if bit v a.val then s.abRequest k a else s) = if a = b then s.abRequest k a else s := by
          rw [hv, bit_two_pow (by omega)]
          exact if_congr (by simp [Fin.ext_iff]) rfl rfl
        simp only [hbits]
        exact foldl_single (f := fun s a => s.abRequest k a) _ nodup_ofFn_id (mem_ofFn_id b) z
      have hidle : z.abRequest k b = if t.st ≠ .idle ∧ (!t.st.final) = true then z.setAb k { c with cfgIgn := true }
          else if c.tbBad b then z.abTbEcc k b fun c => c.finish b .failed
          else if bit w0 29 = true ∧ (bit w0 30 = true ∨ (!c.fden) = true) then z.setAb k (c.finish b .failed)
          else if (!bit w3 31) = true then z.setAb k (with_ { done .pending with due := true })
          else if (!d.leadLate ns s.beryl.g) = true then z.setAb k (with_ { done .pending with due := d.dueAt ns s.beryl.g })
          else match (if (z.abOwner k).isSome then 2 else fldN c.cfg 22 2) with
            | 0 => z.setAb k { c.finish b .dropped with late := true }
            | 1 => z.setAb k { with_ { done .pending with execAt := some (s.now + 24) } with late := true }
            | _ => (z.setAb k { c.finish b .dropped with
                late := true, faultAt := if c.st = .off ∨ c.st = .fault then c.faultAt else some (c.faultAt.getD (s.now + 24)) }).breachOf
                  (z.abOwner k) .late := by
        rfl
      have hfree : t.st ≠ .pending → t.st ≠ .active → ¬ (t.st ≠ .idle ∧ (!t.st.final) = true) := by
        cases t.st <;> decide
      refine ⟨fun h => ?_, fun h1 h2 => ⟨fun hbad ho => ?_, fun hok => ?_⟩⟩
      · exact hexec.trans (congrArg Host.Outcome.next (hidle.trans (if_pos (by rcases h with h | h <;> rw [h] <;> decide))))
      · have hecc : z.abRequest k b = (z.setAb k (c.finish b .failed)).arrayUnc none
            (0x1F2000 + 0x400 * k.val + 4 * ((c.tbad.find? fun w => w / 32 = b.val).getD 0)) := by
          refine hidle.trans ((if_neg (hfree h1 h2)).trans ((if_pos hbad).trans ?_))
          unfold State.abTbEcc
          dsimp only
          rw [show z.abOwner k = none from ho]
          rfl
        refine ⟨_, hexec.trans (congrArg Host.Outcome.next hecc), rfl, rfl, rfl, rfl, fun hc => ?_⟩
        exact sat255_eq hc
      · have hreq := hexec.trans (congrArg Host.Outcome.next (hidle.trans ((if_neg (hfree h1 h2)).trans (if_neg (Bool.eq_false_iff.1 hok)))))
        have hbadF : (bit w0 29 = true ∧ (bit w0 30 = true ∨ (!c.fden) = true)) ↔ badFrame := by
          unfold badFrame AbCell.fden
          simp
        refine ⟨fun hb => ?_, fun hb h31 => ?_, fun hb h31 hl => ?_, fun hb h31 hl ho => ?_⟩
        · exact hreq.trans (congrArg Host.Outcome.next (if_pos (hbadF.2 hb)))
        · exact hreq.trans (congrArg Host.Outcome.next ((if_neg fun h => hb (hbadF.1 h)).trans (if_pos (congrArg (! ·) h31 :))))
        · exact hreq.trans (congrArg Host.Outcome.next ((if_neg fun h => hb (hbadF.1 h)).trans ((if_neg (by simp [h31])).trans
            (if_pos (congrArg (! ·) hl :)))))
        · have hlate := hreq.trans (congrArg Host.Outcome.next ((if_neg fun h => hb (hbadF.1 h)).trans ((if_neg (by simp [h31])).trans
            (if_neg (by rw [hl]; decide)))))
          rw [show z.abOwner k = none from ho] at hlate
          refine ⟨fun hp => hlate.trans ?_, fun hp => hlate.trans ?_, fun hp hoff hf => hlate.trans ?_⟩
          · rw [if_neg (by decide), hp]
            rfl
          · rw [if_neg (by decide), hp]
            rfl
          · have hfault : (if c.st = .off ∨ c.st = .fault then c.faultAt else some (c.faultAt.getD (s.now + 24))) =
                some (c.faultAt.getD (s.now + 24)) := if_neg (not_or.2 ⟨hoff, hf⟩)
            have h4 : fldN c.cfg 22 2 < 4 := (c.cfg.extractLsb' 22 2).isLt
            obtain h | h : fldN c.cfg 22 2 = 2 ∨ fldN c.cfg 22 2 = 3 := by omega
            · rw [if_neg (by decide), h, hfault]
              rfl
            · rw [if_neg (by decide), h, hfault]
              rfl

end Sys2Proof.Machine

namespace Sys2Proof.Machine

/-! R422, R429 to R442: the frames and errors of an arbitrated-bus cell. -/

theorem AbCell.settle_settle (c : AbCell) (g : W64) : (c.settle g).settle g = c.settle g := by
  by_cases h : ∃ f e, c.frame = some f ∧ f.endAt = some e ∧ notBefore g e = true
  · obtain ⟨f, e, hf, he, hn⟩ := h
    rw [AbCell.settle_of_end hf he hn]
    refine AbCell.settle_of_open fun f' e' hf' => ?_
    rw [AbCell.frameEnd_frame] at hf'
    exact nomatch hf'
  · have hopen := AbCell.settle_of_open (c := c) (g := g) fun f e hf he => Bool.eq_false_iff.2 fun hn => h ⟨f, e, hf, he, hn⟩
    rw [hopen, hopen]

theorem State.abSettled_idem (s : State) : s.abSettled.abSettled = s.abSettled := by
  cases hl : s.abLive with
  | false =>
    have h : s.abSettled = s := if_neg (Bool.eq_false_iff.1 hl)
    rw [h, h]
  | true =>
    have h : s.abSettled = { s with abs_ := s.abs_.map fun c => c.settle s.now } := if_pos hl
    rw [h]
    refine (if_pos hl).trans (congrArg (fun b => ({ s with abs_ := b } : State)) (Bank.ext fun k => ?_))
    simp only [Bank.at_map]
    exact AbCell.settle_settle _ _

/-! The first of the best of a list, as a fold finds it. -/

section
variable {α κ : Type} [LinearOrder α] [LinearOrder κ] {fit : α → Prop} {key : α → κ} {f : Option α → α → Option α}

/-- `o` is, of those of `l` that fit, the one of the greatest key, and of these the least. -/
def IsBest (fit : α → Prop) (key : α → κ) (l : List α) (o : Option α) : Prop :=
  (o = none → ∀ x ∈ l, ¬ fit x) ∧
  ∀ b, o = some b → b ∈ l ∧ fit b ∧ ∀ x ∈ l, fit x → key x < key b ∨ (key x = key b ∧ b ≤ x)

/-- `f` keeps the better of the choice so far and one more. -/
structure Chooses (fit : α → Prop) (key : α → κ) (f : Option α → α → Option α) : Prop where
  skip : ∀ o x, ¬ fit x → f o x = o
  first : ∀ x, fit x → f none x = some x
  worse : ∀ a x, fit x → key a < key x → f (some a) x = some x
  better : ∀ a x, fit x → ¬ key a < key x → f (some a) x = some a

theorem IsBest.skip {l : List α} {o : Option α} (h : IsBest fit key l o) {x : α} (hx : ¬ fit x) : IsBest fit key (l ++ [x]) o := by
  obtain ⟨hnone, hsome⟩ := h
  refine ⟨fun ho y hy => ?_, fun b hb => ?_⟩
  · rcases List.mem_append.1 hy with hy | hy
    · exact hnone ho y hy
    · rwa [List.mem_singleton.1 hy]
  · obtain ⟨hmem, hfit, hbest⟩ := hsome b hb
    refine ⟨List.mem_append_left _ hmem, hfit, fun y hy h => ?_⟩
    rcases List.mem_append.1 hy with hy | hy
    · exact hbest y hy h
    · exact absurd (List.mem_singleton.1 hy ▸ h) hx

/-- One that fits and goes before all before it is the best. -/
theorem isBest_of_last {l : List α} {x : α} (hx : fit x) (h : ∀ y ∈ l, fit y → key y < key x) :
    IsBest fit key (l ++ [x]) (some x) := by
  refine ⟨nofun, fun b hb => ?_⟩
  obtain rfl := Option.some.inj hb
  refine ⟨by simp, hx, fun y hy hf => ?_⟩
  rcases List.mem_append.1 hy with hy | hy
  · exact .inl (h y hy hf)
  · rw [List.mem_singleton.1 hy]
    exact .inr ⟨rfl, le_rfl⟩

theorem IsBest.step (hf : Chooses fit key f) {l : List α} {o : Option α} (h : IsBest fit key l o) {x : α} (hl : ∀ a ∈ l, a < x) :
    IsBest fit key (l ++ [x]) (f o x) := by
  by_cases hx : fit x
  case neg =>
    rw [hf.skip o x hx]
    exact h.skip hx
  obtain ⟨hnone, hsome⟩ := h
  cases o with
  | none =>
    rw [hf.first x hx]
    exact isBest_of_last hx fun y hy h => absurd h (hnone rfl y hy)
  | some a =>
    obtain ⟨ha, hfit, hbest⟩ := hsome a rfl
    by_cases hlt : key a < key x
    · rw [hf.worse a x hx hlt]
      refine isBest_of_last hx fun y hy h => ?_
      rcases hbest y hy h with h | ⟨h, -⟩
      · exact h.trans hlt
      · exact h ▸ hlt
    · rw [hf.better a x hx hlt]
      refine ⟨nofun, fun b hb => ?_⟩
      obtain rfl := Option.some.inj hb
      refine ⟨List.mem_append_left _ ha, hfit, fun y hy h => ?_⟩
      rcases List.mem_append.1 hy with hy | hy
      · exact hbest y hy h
      · rw [List.mem_singleton.1 hy]
        exact (lt_or_eq_of_le (not_lt.1 hlt)).imp_right fun h => ⟨h, (hl a ha).le⟩

theorem isBest_foldl_append (hf : Chooses fit key f) (r l : List α) {o : Option α} (h : IsBest fit key l o)
    (hs : (l ++ r).Pairwise (· < ·)) : IsBest fit key (l ++ r) (r.foldl f o) := by
  induction r generalizing l o with
  | nil => simpa using h
  | cons x r ih =>
    have hx : ∀ a ∈ l, a < x := fun a ha => (List.pairwise_append.1 hs).2.2 a ha x List.mem_cons_self
    simpa using ih (l ++ [x]) (h.step hf hx) (by simpa using hs)

/-- A fold that keeps the better finds the best of a rising list. -/
theorem isBest_foldl (hf : Chooses fit key f) {l : List α} (hs : l.Pairwise (· < ·)) : IsBest fit key l (l.foldl f none) :=
  isBest_foldl_append hf l [] ⟨fun _ _ hx => (nomatch hx), fun _ hb => (nomatch hb)⟩ hs

end

theorem pairwise_ofFn_id (n : Nat) : (List.ofFn fun i : Fin n => i).Pairwise (· < ·) :=
  List.pairwise_ofFn.2 fun _ _ h => h

/-! R429: the buffer that is offered. -/

/-- Buffer `b` waits and is due. -/
def AbCell.Due (c : AbCell) (b : Fin 8) : Prop := (c.tbs.at b).st = .pending ∧ (c.tbs.at b).due = true

theorem AbCell.offer_isBest (c : AbCell) :
    IsBest c.Due (fun b => OrderDual.toDual (arbKey (c.tb b 0))) (List.ofFn fun b : Fin 8 => b) c.offer :=
  isBest_foldl ⟨fun _ _ h => if_neg h, fun _ h => if_pos h, fun _ _ h hlt => (if_pos h).trans (if_pos hlt),
    fun _ _ h hlt => (if_pos h).trans (if_neg hlt)⟩ (pairwise_ofFn_id 8)

/-! R438 to R440: the error counters. -/

theorem AbCell.estate_eq_two (c : AbCell) : c.estate = 2 ↔ 255 < c.tec := by
  unfold AbCell.estate
  split
  · simp [*]
  · split <;> simp [*]

theorem AbCell.estate_eq_one (c : AbCell) : c.estate = 1 ↔ ¬ 255 < c.tec ∧ (127 < c.tec ∨ 127 < c.rec_) := by
  unfold AbCell.estate
  split
  · simp [*]
  · split <;> simp [*]

/-- R438, R439: new counter values. -/
theorem AbCell.counters_spec (c : AbCell) (t r : Nat) :
    let y := c.counters t r
    let off : Prop := 255 < min t 511 ∧ (c.st = .run ∨ c.st = .integ)
    y.tec = min t 511 ∧ y.rec_ = min r 255 ∧
      (y.epass = true ↔ c.epass = true ∨ (c.estate ≠ 1 ∧ ¬ 255 < min t 511 ∧ (127 < min t 511 ∨ 127 < min r 255))) ∧
      (off → y.st = .busOff ∧ y.frame = none ∧ y.errFrame = false ∧ y.drive = none) ∧ (¬ off → y.st = c.st) := by
  intro y off
  have h2 : ({ c with tec := min t 511, rec_ := min r 255 } : AbCell).estate = 2 ↔ 255 < min t 511 := AbCell.estate_eq_two _
  have h1 : ({ c with tec := min t 511, rec_ := min r 255 } : AbCell).estate = 1 ↔
      ¬ 255 < min t 511 ∧ (127 < min t 511 ∨ 127 < min r 255) := AbCell.estate_eq_one _
  have hep (x : Bool) : (x || (decide (c.estate ≠ 1) && decide (({ c with tec := min t 511, rec_ := min r 255 } : AbCell).estate = 1))) = true ↔
      x = true ∨ (c.estate ≠ 1 ∧ ¬ 255 < min t 511 ∧ (127 < min t 511 ∨ 127 < min r 255)) := by
    rw [Bool.or_eq_true, Bool.and_eq_true, decide_eq_true_iff, decide_eq_true_iff, h1]
  by_cases hoff : off
  · have hy : y = { c with
        tec := min t 511, rec_ := min r 255, epass := _, boff := _, st := .busOff, frame := none, errFrame := false, drive := none
        recovering := bit c.cfg 15 } := if_pos ⟨h2.2 hoff.1, hoff.2⟩
    rw [hy]
    exact ⟨rfl, rfl, hep _, fun _ => ⟨rfl, rfl, rfl, rfl⟩, fun h => absurd hoff h⟩
  · have hy : y = { c with tec := min t 511, rec_ := min r 255, epass := _, boff := _ } := if_neg fun h => hoff ⟨h2.1 h.1, h.2⟩
    rw [hy]
    exact ⟨rfl, rfl, hep _, fun h => absurd h hoff, fun _ => rfl⟩

theorem AbCell.addTec_of_mode {c : AbCell} (h : fldN c.cfg 20 2 = 0) (n : Nat) : c.addTec n = c.counters (c.tec + n) c.rec_ := if_pos h
theorem AbCell.addRec_of_mode {c : AbCell} (h : fldN c.cfg 20 2 = 0) (n : Nat) : c.addRec n = c.counters c.tec (c.rec_ + n) := if_pos h

/-- R438, R439: the amounts that an error counts. -/
theorem AbCell.add_spec (c : AbCell) (n : Nat) (hm : fldN c.cfg 20 2 = 0) (hr : c.rec_ ≤ 255) (ht : c.tec ≤ 255) :
    (c.addTec n).tec = min 511 (c.tec + n) ∧ (c.addTec n).rec_ = c.rec_ ∧
      (c.addRec n).rec_ = min 255 (c.rec_ + n) ∧ (c.addRec n).tec = c.tec ∧
      ((c.addTec n).epass = true ↔ c.epass = true ∨ (c.tec ≤ 127 ∧ c.rec_ ≤ 127 ∧ 128 ≤ c.tec + n ∧ c.tec + n ≤ 255)) ∧
      ((c.addRec n).epass = true ↔ c.epass = true ∨ (c.tec ≤ 127 ∧ c.rec_ ≤ 127 ∧ 128 ≤ c.rec_ + n)) ∧
      (c.addTec n).st = (if 256 ≤ c.tec + n ∧ (c.st = .run ∨ c.st = .integ) then .busOff else c.st) ∧
      (256 ≤ c.tec + n → c.st = .run →
        (c.addTec n).frame = none ∧ (c.addTec n).errFrame = false ∧ (c.addTec n).drive = none) ∧
      (c.addRec n).st = c.st := by
  obtain ⟨ttec, trec, tep, toff, tst⟩ := c.counters_spec (c.tec + n) c.rec_
  obtain ⟨rtec, rrec, rep, -, rst⟩ := c.counters_spec c.tec (c.rec_ + n)
  rw [AbCell.addTec_of_mode hm, AbCell.addRec_of_mode hm]
  have hone : c.estate ≠ 1 ↔ c.tec ≤ 127 ∧ c.rec_ ≤ 127 := by
    rw [ne_eq, c.estate_eq_one]
    omega
  refine ⟨?_, ?_, ?_, ?_, ?_, ?_, ?_, fun h1 h2 => (toff ⟨by omega, .inl h2⟩).2, rst (by omega)⟩
  · rw [ttec]; omega
  · rw [trec]; omega
  · rw [rrec]; omega
  · rw [rtec]; omega
  · rw [tep, hone]
    refine or_congr Iff.rfl ?_
    omega
  · rw [rep, hone]
    refine or_congr Iff.rfl ?_
    omega
  · by_cases h : 256 ≤ c.tec + n ∧ (c.st = .run ∨ c.st = .integ)
    · rw [if_pos h]
      exact (toff ⟨by omega, h.2⟩).1
    · rw [if_neg h]
      exact tst fun k => h ⟨by omega, k.2⟩

/-- R429, R431: the offered buffer is PENDING again, or CANCELLED where a cancel waits. -/
theorem AbCell.lost_offered {c : AbCell} {f : AbFrame} {b : Fin 8} (hf : c.frame = some f) (ho : f.offered = some b) :
    c.lost = { c with
      tbs := c.tbs.upd b (if (c.tbs.at b).cancel then { TxBuf.reset with st := .cancelled }
        else { c.tbs.at b with st := .pending, cancel := false })
      txF := c.txF || (c.tbs.at b).cancel } := by
  unfold AbCell.lost
  split
  next hm =>
    obtain rfl := Option.some.inj (hf.symm.trans hm)
    cases ho
    cases hc : (c.tbs.at b).cancel with
    | true =>
      rw [if_pos rfl, if_pos rfl, Bool.or_true]
      rfl
    | false =>
      rw [if_neg Bool.false_ne_true, if_neg Bool.false_ne_true, Bool.or_false]
      rfl
  next hno => exact absurd (hf.trans (congrArg some (show f = { f with offered := some b } by rw [← ho]))) (hno _ _ _ _ _ _)

theorem AbCell.lost_of_unoffered {c : AbCell} (h : ∀ f, c.frame = some f → f.offered = none) : c.lost = c := by
  unfold AbCell.lost
  split
  next hm => exact nomatch h _ hm
  next => rfl

/-- The loss of arbitration goes by the frame and the buffers alone. -/
theorem AbCell.lost_with (c : AbCell) (n : Nat) (m : W64) : ({ c with lec := n, mark := m } : AbCell).lost = { c.lost with lec := n, mark := m } := by
  by_cases h : ∃ f b, c.frame = some f ∧ f.offered = some b
  · obtain ⟨f, b, hf, ho⟩ := h
    rw [AbCell.lost_offered hf ho, AbCell.lost_offered (c := { c with lec := n, mark := m }) hf ho]
  · have hno (f : AbFrame) (hf : c.frame = some f) : f.offered = none := Option.eq_none_iff_forall_not_mem.2 fun b hb => h ⟨f, b, hf, hb⟩
    rw [AbCell.lost_of_unoffered hno, AbCell.lost_of_unoffered (c := { c with lec := n, mark := m }) hno]

theorem AbCell.lost_st (c : AbCell) : c.lost.st = c.st := by
  obtain ⟨tbs, txF, h⟩ := c.lost_frame
  rw [h]

theorem AbCell.counters_st_ne {c : AbCell} (h : c.st = .run) (t r : Nat) : (c.counters t r).st ≠ .draining := by
  obtain ⟨-, -, -, hoff, hon⟩ := c.counters_spec t r
  by_cases hb : 255 < min t 511 ∧ (c.st = .run ∨ c.st = .integ)
  · rw [(hoff hb).1]
    decide
  · rw [hon hb, h]
    decide

/-- R434: word 0 of a receive buffer is the first that a frame writes. -/
theorem AbCell.writeRb_first (c : AbCell) (hw : sparseWf 0 c.rbw = true) (b : Fin 16) (w : W32) (l : List W32) (data : List Byte) :
    sparseGet 0 (c.writeRb b (w :: l) data).rbw (32 * b.val) = w := by
  have hset (m : List (Nat × W32)) (hm : sparseWf 0 m = true) (i : Nat) (x : W32) :
      sparseGet 0 (sparseSet 0 m (32 * b.val + (i + 1)) x) (32 * b.val) = sparseGet 0 m (32 * b.val) := by
    rw [sparseGet_sparseSet _ _ _ _ hm, if_neg (by omega)]
  have hwf (m : List (Nat × W32)) (hm : sparseWf 0 m = true) (i : Nat) (x : W32) : sparseWf 0 (sparseSet 0 m i x) = true :=
    sparseWf_sparseSet _ _ _ hm
  unfold AbCell.writeRb
  dsimp only
  have h0 := hwf _ hw (32 * b.val + 0) ((w :: l).getD 0 0)
  have h1 := hwf _ h0 (32 * b.val + (0 + 1)) ((w :: l).getD 1 0)
  have h2 := hwf _ h1 (32 * b.val + (1 + 1)) ((w :: l).getD 2 0)
  have h3 := hwf _ h2 (32 * b.val + (2 + 1)) ((w :: l).getD 3 0)
  refine (sparseGet_setWords _ _ _ _ h3 _).trans ?_
  rw [if_neg (by omega), hset _ h2, hset _ h1, hset _ h0, sparseGet_sparseSet _ _ _ _ hw]
  exact if_pos rfl

/-- R436: the entries of a frame enter a receive queue that has room. -/
theorem State.abPush_room {s : State} {k : Fin 16} {c : AbCell} {q : List Quad} (h : c.rxq.length + q.length ≤ 64) :
    (s.setAb k c).abPush k q = s.setAb k { c with rxq := c.rxq ++ q, qlost := false } := by
  unfold State.abPush
  dsimp only
  rw [State.setAb_at, if_pos h, State.modAb_setAb]

/-- R433 to R436: what a frame received valid brings to the cell `c1`, which was `c0` before it. -/
def State.abStored (s : State) (k : Fin 16) (f : AbFrame) (r : AbRx) (o : Option (Fin 16)) (c0 c1 : AbCell) : State :=
  let data := if bit r.w0 30 then [] else r.data
  match o with
  | none => s.setAb k c1
  | some j =>
    let a := sparseGet 0 f.filters (4 * j.val)
    let mk := sparseGet 0 f.filters (4 * j.val + 1)
    let w1 := putB 31 r.brs ||| putB 30 r.esi ||| put 24 r.dlc.val ||| put 8 (c0.tsAt f.es).toNat ||| put 0 j.val
    let t : W64 := (s.beryl.convert 0 c0.sdom f.es.fix).1.extractLsb' 16 64
    let b : Fin 16 := Fin.ofNat 16 (fldN (sparseGet 0 f.filters (4 * j.val + 2)) 0 4)
    let one : BitVec 16 := BitVec.ofNat 16 (2 ^ b.val)
    let s2 := s.setAb k (if bit mk 31 then { c1.writeRb b [r.w0, w1, lo32 t, hi32 t] data with
      rxnd := c1.rxnd ||| one, rxovr := c1.rxovr ||| (c1.rxnd &&& one) } else c1)
    if bit a 29 then s2.abPush k (abEntries r.w0 w1 data f.es c0.qlost) else s2

/-- R438: an error in a frame, counted by the role of the cell; `m` is the watermark at it. -/
def AbCell.counted (c : AbCell) (lec : Nat) (tx quiet arbStuff acked : Bool) (m : W64) : AbCell :=
  let c0 := { c with lec := lec, mark := m }
  match c.frame, tx with
  | some { offered := some b, .. }, true => c0.txError b lec quiet arbStuff acked
  | _, _ => c0.lost.addRec 1

theorem AbCell.counted_rx {c : AbCell} {tx : Bool} (h : tx = false ∨ c.frame = none) (lec : Nat) (q w ack : Bool) (m : W64) :
    c.counted lec tx q w ack m = ({ c with lec := lec, mark := m } : AbCell).lost.addRec 1 := by
  unfold AbCell.counted
  dsimp only
  split
  next hf => exact h.elim nofun fun h => nomatch h.symm.trans hf
  next => rfl

theorem AbCell.counted_tx {c : AbCell} {f : AbFrame} {b : Fin 8} (hf : c.frame = some f) (ho : f.offered = some b) (lec : Nat)
    (q w ack : Bool) (m : W64) : c.counted lec true q w ack m = ({ c with lec := lec, mark := m } : AbCell).txError b lec q w ack := by
  unfold AbCell.counted
  dsimp only
  split
  next hf' _ =>
    obtain rfl := Option.some.inj (hf.symm.trans hf')
    cases ho
    rfl
  next hno => exact (hno _ _ _ _ _ _ (hf.trans (congrArg some (show f = { f with offered := some b } by rw [← ho]))) rfl).elim

/-- R432, R438: an error that brings the buffer back counts 8. -/
theorem AbCell.txError_retry (c : AbCell) (b : Fin 8) {lec : Nat} (q ack : Bool) (hc : (c.tbs.at b).cancel = false) (h16 : bit c.cfg 16 = false)
    (h3 : lec ≠ 3) : c.txError b lec q false ack = ({ c with
      ackRun := if ack then 0 else c.ackRun
      tbs := c.tbs.upd b { c.tbs.at b with st := .pending, due := true, retry := true } } : AbCell).addTec 8 := by
  have hc' (x : Bool) (h : (c.tbs.at b).cancel = x) : x = false := h.symm.trans hc
  unfold AbCell.txError
  dsimp only
  rw [if_neg h3, if_neg (by simp [h3])]
  refine congrArg (fun y : AbCell => y.addTec 8) ?_
  cases ack with
  | false => exact (if_neg (Bool.eq_false_iff.1 hc)).trans (if_neg (Bool.eq_false_iff.1 h16))
  | true => exact (if_neg (Bool.eq_false_iff.1 hc)).trans (if_neg (Bool.eq_false_iff.1 h16))

/-- R438 to R440: an error in a frame at TD0 = `g`. -/
def AbCell.frameError (c : AbCell) (lec : Nat) (tx quiet arbStuff acked : Bool) (m g : W64) : AbCell :=
  if c.mode = 0 then (c.counted lec tx quiet arbStuff acked m).errorFlag (decide (c.estate ≠ 0)) g
  else
    let c2 := (c.counted lec tx quiet arbStuff acked m).frameEnd g
    if c2.st = .run then { c2 with st := .integ, drive := none } else c2

/-- The frame that cell `c` follows from the start of frame `es` on, at TD0 = `t0`, with the buffer offered in it. -/
def AbCell.joins (c : AbCell) (es : Instant) (t0 : W64) (b : Option (Fin 8)) : AbFrame :=
  { es := es, sof := t0, offered := b, filters := c.filt, edges := [], endAt := none }

section
variable {s z : State} {k : Fin 16} {es : Instant} {own : Bool}

/-- R429: a start of frame with no buffer offered; the cell follows another node's frame. -/
theorem State.abSof_of_none (hz : s.abSettled = z)
    (hrun : z.abLive = true ∧ (z.abs_.at k).st = .run ∧ (z.abs_.at k).frame = none ∧ (! (z.abs_.at k).errFrame) = true)
    (ho : (if (z.abs_.at k).mode = 0 then (z.abs_.at k).offer else none) = none) :
    s.abSof k es own = if own then z else
      z.modAb k fun c => { c with frame := some ((z.abs_.at k).joins es es.ns none), drive := none } := by
  subst hz
  unfold State.abSof
  refine (if_pos hrun).trans ?_
  dsimp only
  rw [ho]
  cases own <;> rfl

/-- R429: a start of frame with buffer `b` offered. -/
theorem State.abSof_of_some {b : Fin 8} (hz : s.abSettled = z)
    (hrun : z.abLive = true ∧ (z.abs_.at k).st = .run ∧ (z.abs_.at k).frame = none ∧ (! (z.abs_.at k).errFrame) = true)
    (ho : (if (z.abs_.at k).mode = 0 then (z.abs_.at k).offer else none) = some b) :
    s.abSof k es own = if (z.abs_.at k).tbBad b then
        z.abTbEcc k b fun c =>
          if own then c.finish b .failed
          else { c.finish b .failed with frame := some ((z.abs_.at k).joins es (if own then z.now else es.ns) none), drive := none }
      else z.modAb k fun c =>
        { c with tbs := c.tbs.mod b fun t => { t with st := .active, retry := false }
                 frame := some ((z.abs_.at k).joins es (if own then z.now else es.ns) (some b)), loop := none, drive := none } := by
  subst hz
  unfold State.abSof
  refine (if_pos hrun).trans ?_
  dsimp only
  rw [ho]
  cases own <;> rfl
end
/-- Settles O31. -/
theorem arbFrames : Obligations.ArbFrames := by
  refine ⟨?events, fun s t k e hwf => if_neg (Bool.eq_false_iff.1 hwf), ?errors, fun c n => ⟨fun h => ⟨if_neg h, if_neg h⟩, c.add_spec n⟩, fun c b hb => ?offer⟩
  case events =>
    intro s t k a z c0 c to0 to_ done
    have hz : a.abSettled = z := rfl
    have hbase : z = { a with abs_ := z.abs_ } := a.abSettled_frame
    have hidem : z.abSettled = z := a.abSettled_idem
    clear_value z
    have hnow : z.now = a.now := (congrArg State.now hbase :)
    have hlive : z.abLive = a.abLive := (congrArg State.abLive hbase :)
    have howner : z.abOwner k = a.abOwner k := (congrArg (fun y : State => y.abOwner k) hbase :)
    have hself : to_ c = .next z := congrArg Host.Outcome.next (z.setAb_self k)
    have ha : s.advance t = a := rfl
    clear_value a
    have hinteg (hst : c.st = .integ) : a.abLive = true → exec (.abIntegDone t k) s = to_ (
        if c.estate = 2 then { c with st := .busOff, recovering := bit c.cfg 15 } else { c with st := .run }) := by
      intro hl
      refine congrArg Host.Outcome.next ?_
      unfold State.abIntegDone
      rw [ha, hz]
      exact congrArg (z.setAb k) (if_pos ⟨hlive.trans hl, hst⟩)
    refine ⟨fun b hup hst hdue => ?due, fun hl => ⟨fun es own hst hf he => ?sof, fun e => ?edge, fun f b hf ho he hst hn => ?lost,
      fun f b loop hf ho hst h14 hsent => ?sent, fun f r e hf hst hbad hrec => ?received, fun hst h19 => ?exception,
      fun hst h19 => ?exceptionOff, fun g hg hn hf he hst ho => ?fault, fun hst ht => ?integ, fun hst ht => ?integOff, fun hst hr => ?recovered⟩,
      ?level, fun hoff => ?recessive⟩
    case due =>
      intro w3 hd
      change Host.Outcome.next ((s.advance t).abDue k b) = _
      rw [ha]
      exact congrArg Host.Outcome.next (if_pos ⟨hup, hst, (congrArg (! ·) hdue :), hd⟩)
    case sof =>
      intro t0 frame
      have ht0 : (if own then z.now else es.ns) = t0 := by rw [hnow]
      have hrun : z.abLive = true ∧ (z.abs_.at k).st = .run ∧ (z.abs_.at k).frame = none ∧ (! (z.abs_.at k).errFrame) = true :=
        ⟨hlive.trans hl, hst, hf, (congrArg (! ·) he :)⟩
      have hframe (b : Option (Fin 8)) : some ((z.abs_.at k).joins es (if own then z.now else es.ns) b) = frame b :=
        congrArg (fun x : W64 => some ((z.abs_.at k).joins es x b)) ht0
      have hexec : exec (.abSof t k (.start es own)) s = .next (a.abSof k es own) := congrArg (fun y : State => Host.Outcome.next (y.abSof k es own)) ha
      rw [hexec]
      refine ⟨fun b hm ho hbad => ?good, fun b hm ho hbad hown => ?bad, fun hno => ?none⟩
      case good =>
        rw [State.abSof_of_some hz hrun ((if_pos hm).trans ho), if_neg (Bool.eq_false_iff.1 hbad), hframe, State.modAb_eq_setAb]
        rfl
      case bad =>
        rw [State.abSof_of_some hz hrun ((if_pos hm).trans ho), if_pos hbad]
        unfold State.abTbEcc
        dsimp only
        rw [howner.trans hown, State.modAb_eq_setAb]
        refine ⟨_, rfl, rfl, congrArg (z.abs_.upd k) ?_⟩
        cases own with
        | false => exact congrArg (fun x => ({ (z.abs_.at k).finish b .failed with frame := x, drive := none } : AbCell)) (hframe none)
        | true => exact congrArg (fun x => ({ (z.abs_.at k).finish b .failed with frame := x } : AbCell)) hf
      case none =>
        have ho : (if (z.abs_.at k).mode = 0 then (z.abs_.at k).offer else none) = none := by
          by_cases hm : (z.abs_.at k).mode = 0
          · exact (if_pos hm).trans (hno.resolve_left (not_not_intro hm))
          · exact if_neg hm
        rw [State.abSof_of_none hz hrun ho]
        cases own <;> rfl
    case edge =>
      refine congrArg Host.Outcome.next ?_
      unfold State.abEdge
      rw [ha, hz]
      dsimp only
      rw [hlive, hl]
      rfl
    case lost =>
      refine congrArg Host.Outcome.next ?_
      unfold State.abLost
      dsimp only
      rw [ha, hz, show (z.abs_.at k).frame = some f from hf]
      dsimp only
      rw [ho]
      refine (if_pos ⟨hlive.trans hl, .inl hst, he, ?_⟩).trans ?_
      · rw [State.modAb_eq_setAb, AbCell.lost_offered (c := z.abs_.at k) hf ho]
        rfl
      · rw [hnow]
        exact (congrArg (! ·) hn :)
    case sent =>
      have hrun : (a.abLive && decide ((a.abs_.at k).st = .run ∨ (a.abs_.at k).st = .draining)) = true :=
        Bool.and_eq_true_iff.2 ⟨hl, decide_eq_true (.inl hst)⟩
      have hsent : (s.advance t).abSent k = a.modAb k fun c => (AbCell.counters { c.finish b (if (c0.tbs.at b).cancel then .tooLate else .sent) with
          ackRun := 0, loop := loop, mark := a.abMark k } (c.tec - 1) c.rec_).frameEnd a.now := by
        unfold State.abSent
        dsimp only
        rw [ha, show (a.abs_.at k).frame = some f from hf]
        dsimp only
        rw [ho, hrun]
        dsimp only
        rw [show (a.abs_.at k).sentBy f b a.now = some loop from hsent]
        exact if_neg (Bool.eq_false_iff.1 h14)
      let y : AbCell := { c0 with
        tbs := c0.tbs.upd b (done (if (c0.tbs.at b).cancel then .tooLate else .sent)), txF := true, ackRun := 0, loop := loop, mark := a.abMark k }
      have hend := AbCell.frameEnd_of_ne (c := y.counters (c0.tec - 1) c0.rec_) (AbCell.counters_st_ne (c := y) hst _ _) a.now
      exact congrArg Host.Outcome.next (hsent.trans (congrArg (a.setAb k) hend))
    case received =>
      intro n c2 c1 fr
      let a1 : State := { a with free := fr }
      have hecc : a.abFilterEcc k = a := by
        unfold State.abFilterEcc
        rw [show (a.abs_.at k).fbad = [] from hbad]
      have hfr : (if 127 < (a.abs_.at k).rec_ ∧ (a.abs_.at k).mode = 0 then { a with free := a.free + 1 } else a) = a1 := by
        unfold a1 fr
        by_cases h : 127 < c0.rec_ ∧ fldN c0.cfg 20 2 = 0
        · rw [if_pos h]
          exact if_pos h
        · rw [if_neg h]
          exact if_neg h
      have hrun : decide (a.abLive ∧ ((a.abs_.at k).st = .run ∨ (a.abs_.at k).st = .draining)) = true := decide_eq_true ⟨hl, .inl hst⟩
      have hexec : exec (.abFrameReceived t k) s = .next (a1.abStored k f r (abFilter [] f.filters r.w0) c0 c1) := by
        refine congrArg Host.Outcome.next ?_
        unfold State.abReceived
        dsimp only
        rw [ha, show (a.abs_.at k).frame = some f from hf]
        dsimp only
        rw [hrun, show (a.abs_.at k).receivedBy f a.now = some (r, e) from hrec]
        dsimp only
        rw [hecc, hfr, show (a.abs_.at k).fbad = [] from hbad]
        unfold State.abStored
        cases abFilter [] f.filters r.w0 with
        | none => rfl
        | some j =>
          dsimp only
          cases bit (sparseGet 0 f.filters (4 * j.val + 1)) 31 with
          | false => rfl
          | true =>
            rw [if_pos rfl, if_pos rfl]
            refine Eq.trans (congrArg (fun z : State => if bit (sparseGet 0 f.filters (4 * j.val)) 29 = true then z.abPush k _ else z)
              (State.modAb_setAb a1 k c1 _)) rfl
      refine ⟨fun hno => ?_, fun j hj => ?_⟩
      · rw [hexec, hno]
        rfl
      · intro word b w1 data q hroom
        rw [hexec, hj]
        let c3 : AbCell := if bit (word 1) 31 then { c1.writeRb b [r.w0, w1, lo32 ((a.beryl.convert 0 c0.sdom f.es.fix).1.extractLsb' 16 64),
              hi32 ((a.beryl.convert 0 c0.sdom f.es.fix).1.extractLsb' 16 64)] data with
            rxnd := c1.rxnd ||| BitVec.ofNat 16 (2 ^ b.val), rxovr := c1.rxovr ||| (c1.rxnd &&& BitVec.ofNat 16 (2 ^ b.val)) } else c1
        have hstored : a1.abStored k f r (some j) c0 c1 = if bit (word 0) 29 then (a1.setAb k c3).abPush k q else a1.setAb k c3 := rfl
        rw [hstored]
        have hc3 : c3 = { c1 with rbw := c3.rbw, rbad := c3.rbad, rxnd := c3.rxnd, rxovr := c3.rxovr } := by
          unfold c3
          split <;> rfl
        have hnd (i : Fin 16) : c3.rxnd.getLsbD i.val = (c1.rxnd.getLsbD i.val || (bit (word 1) 31 && decide (i = b))) ∧
            c3.rxovr.getLsbD i.val = (c1.rxovr.getLsbD i.val || (bit (word 1) 31 && decide (i = b) && c1.rxnd.getLsbD i.val)) := by
          have hone : (BitVec.ofNat 16 (2 ^ b.val)).getLsbD i.val = decide (i = b) := by
            rw [BitVec.getLsbD_ofNat, Nat.testBit_two_pow]
            simp [i.isLt, Fin.ext_iff, eq_comm]
          unfold c3
          cases bit (word 1) 31 with
          | false => simp
          | true =>
            rw [if_pos rfl]
            simp only [BitVec.getLsbD_or, BitVec.getLsbD_and, hone, Bool.true_and, Bool.and_comm, and_self]
        have hfirst (hw : sparseWf 0 c1.rbw = true) : sparseGet 0 c3.rbw (32 * b.val) =
            if bit (word 1) 31 then r.w0 else sparseGet 0 c1.rbw (32 * b.val) := by
          unfold c3
          cases bit (word 1) 31 with
          | false => rfl
          | true => exact AbCell.writeRb_first _ hw _ _ _ _
        have hrxq : c3.rxq = c1.rxq := (congrArg AbCell.rxq hc3).trans rfl
        have hqlost : c3.qlost = c1.qlost := (congrArg AbCell.qlost hc3).trans rfl
        clear_value c3
        cases h29 : bit (word 0) 29 with
        | false =>
          rw [if_neg Bool.false_ne_true]
          refine ⟨c3, rfl, ?_, (if_neg Bool.false_ne_true).mpr ⟨hrxq, hqlost⟩, hnd, hfirst⟩
          rw [hrxq, hqlost]
          exact hc3
        | true =>
          rw [if_pos rfl, State.abPush_room (by rw [hrxq]; exact hroom.resolve_left (by rw [h29]; decide))]
          refine ⟨{ c3 with rxq := c3.rxq ++ q, qlost := false }, rfl, ?_, (if_pos rfl).mpr ⟨by rw [hrxq], rfl⟩, hnd, hfirst⟩
          exact congrArg (fun y : AbCell => { y with rxq := c3.rxq ++ q, qlost := false }) hc3
    case exception =>
      refine congrArg Host.Outcome.next ?_
      unfold State.abException
      dsimp only
      rw [ha, hz]
      refine (if_pos ⟨hlive.trans hl, .inl hst⟩).trans ((if_pos h19).trans (congrArg (z.setAb k) ?_))
      have hst' : ({ c.lost with pxev := true, mark := z.abMark k, drive := none } : AbCell).st = .run := c.lost_st.trans hst
      have hend := AbCell.frameEnd_of_ne (c := { c.lost with pxev := true, mark := z.abMark k, drive := none })
        (fun h => nomatch hst'.symm.trans h) z.now
      refine (congrArg (fun y : AbCell => if y.st = .run then { y with st := .integ } else y) hend).trans ?_
      exact if_pos hst'
    case exceptionOff =>
      refine congrArg Host.Outcome.next ?_
      unfold State.abException
      dsimp only
      rw [ha, hz]
      refine (if_pos ⟨hlive.trans hl, .inl hst⟩).trans ((if_neg (Bool.eq_false_iff.1 h19)).trans ?_)
      unfold State.abError
      rw [hidem, hz]
    case fault =>
      refine congrArg Host.Outcome.next ?_
      unfold State.abFault
      dsimp only
      rw [ha, hz, show (z.abs_.at k).faultAt = some g from hg]
      refine (if_pos ⟨hlive.trans hl, by rwa [hnow], hf, (congrArg (! ·) he :), hst⟩).trans ?_
      rw [show z.abOwner k = none from howner.trans ho]
      rfl
    case integ =>
      exact (hinteg hst hl).trans (congrArg to_ (if_neg fun h => Nat.not_lt.2 ht ((AbCell.estate_eq_two c).1 h)))
    case integOff => exact (hinteg hst hl).trans (congrArg to_ (if_pos ((AbCell.estate_eq_two c).2 ht)))
    case recovered =>
      change Host.Outcome.next ((s.advance t).abRecovered k) = _
      rw [ha]
      exact congrArg Host.Outcome.next (congrArg (a.setAb k) (if_pos ⟨hl, hst, hr⟩))
    case level =>
      intro x hl hst
      have htxd (f : AbFrame) (hf : c.frame = some f) : a.abTxd k = c.frameLevel f a.now := by
        unfold State.abTxd
        dsimp only
        rw [hz]
        refine (if_pos ⟨hl, .inl hst⟩).trans ?_
        rw [show (z.abs_.at k).frame = some f from hf]
      have hx (f : AbFrame) (hf : c.frame = some f) : x = some (c.frameLevel f a.now) := congrArg (Option.map fun f => c.frameLevel f a.now) hf
      refine ⟨htxd, fun f b hf ho => (hx f hf).trans (congrArg some ?_), fun f hf ho => (hx f hf).trans (congrArg some ?_)⟩
      · unfold AbCell.frameLevel
        rw [ho]
      · unfold AbCell.frameLevel
        rw [ho]
        rfl
    case recessive =>
      unfold State.abTxd
      dsimp only
      rw [hz]
      refine if_neg ?_
      rintro ⟨hl, hst⟩
      rcases hoff with h | ⟨h1, h2⟩
      · exact Bool.noConfusion (h.symm.trans hl)
      · exact hst.elim h1 h2
  case errors =>
    intro s t k a z c m to_ flag hl hst
    have hbase : z = { a with abs_ := z.abs_ } := a.abSettled_frame
    have hnow : a.abSettled.now = a.now := (congrArg State.now hbase :)
    have hlive : z.abLive = true := (congrArg State.abLive hbase :).trans hl
    have hself : to_ c = .next z := congrArg Host.Outcome.next (z.setAb_self k)
    have hexec (e : AbErr) (hwf : e.wf = true) : exec (.abBusError t k e) s = .next (a.abError k e) := if_pos hwf
    have hrun {e : AbErr} {f : AbCell → AbCell} (hwf : e.wf = true) (he : a.abError k e =
        if a.abSettled.abLive = true ∧ ((a.abSettled.abs_.at k).st = .run ∨ (a.abSettled.abs_.at k).st = .draining) then a.abSettled.modAb k f
        else a.abSettled) : exec (.abBusError t k e) s = to_ (f c) :=
      (hexec e hwf).trans (congrArg Host.Outcome.next (he.trans (if_pos ⟨hlive, .inl hst⟩)))
    have hflag (y : AbCell) : y.errorFlag (decide (c.estate ≠ 0)) a.abSettled.now = flag y := by
      rw [hnow]
      rfl
    have hmark : a.abSettled.abMark k = m := rfl
    have herror (lec : Fin 7) (tx q w ack : Bool) (h : lec ≠ 0) : exec (.abBusError t k (.frame lec tx q w ack)) s =
        to_ (c.frameError lec.val tx q w ack m a.abSettled.now) := by
      rw [← hmark]
      exact hrun (f := fun c => c.frameError lec.val tx q w ack (a.abSettled.abMark k) a.abSettled.now) (decide_eq_true h) rfl
    clear_value z a
    refine ⟨fun hm => ⟨fun lec tx q w ack hlec htx => ?rx, fun lec q ack f b hlec hf ho hc h16 h3 => ?tx, ?overload⟩,
      fun hm lec q w ack hlec => ?other, ?ended, hrun (f := fun c => c.addRec 8) rfl rfl, fun tx =>
        ⟨hrun (f := fun c => if tx then AbCell.addTec { c with lec := 5 } 8 else AbCell.addRec { c with lec := 5 } 8) rfl rfl,
          hrun (f := fun c => if tx then c.addTec 8 else c.addRec 8) rfl rfl⟩⟩
    case rx =>
      refine (herror lec tx q w ack hlec).trans (congrArg to_ ?_)
      refine (if_pos hm).trans ((hflag _).trans (congrArg flag ?_))
      exact AbCell.counted_rx htx _ _ _ _ _
    case tx =>
      refine (herror lec true q false ack hlec).trans (congrArg to_ ?_)
      refine (if_pos hm).trans ((hflag _).trans (congrArg flag ?_))
      refine (AbCell.counted_tx (c := c) hf ho _ _ _ _ _).trans ?_
      exact AbCell.txError_retry { c with lec := lec.val, mark := m } b q ack hc h16 h3
    case overload =>
      intro mayGo
      have hgo : (c.mode = 0 ∧ c.st = .run ∧ (c.frame.all fun f => f.endAt.isSome && f.offered.isNone) = true ∧ (!c.errFrame) = true) ↔ mayGo := by
        unfold mayGo
        cases c.frame <;> cases c.errFrame <;> simp [AbCell.mode, hm, hst, Option.isSome_iff_ne_none]
      have hexec := hrun (e := .overload) (f := fun c => if c.mode = 0 ∧ c.st = .run ∧ (c.frame.all fun f => f.endAt.isSome && f.offered.isNone) ∧ !c.errFrame then
          { c.frameEnd a.abSettled.now with drive := some { at_ := a.abSettled.now, bits := [(false, 6 * c.bitNs)] } } else c) rfl rfl
      refine ⟨fun h => hexec.trans (congrArg to_ ((if_pos (hgo.2 h)).trans ?_)), fun h => hexec.trans ((congrArg to_ (if_neg fun k => h (hgo.1 k))).trans hself)⟩
      rw [AbCell.frameEnd_of_ne (fun h => nomatch hst.symm.trans h), hnow]
      rfl
    case other =>
      refine (herror lec false q w ack hlec).trans (congrArg to_ ?_)
      have hadd : c.counted lec.val false q w ack m = { c.lost with lec := lec.val, mark := m } := by
        have hmode : c.lost.mode = c.mode := by
          obtain ⟨tbs, txF, h⟩ := c.lost_frame
          rw [h]
          rfl
        rw [AbCell.counted_rx (.inl rfl), AbCell.lost_with]
        exact if_neg fun h => hm (hmode.symm.trans h)
      have hst' : (c.counted lec.val false q w ack m).st = .run := by
        rw [hadd]
        exact c.lost_st.trans hst
      have hend := AbCell.frameEnd_of_ne (fun h => nomatch hst'.symm.trans h) a.abSettled.now
      refine (if_neg hm).trans ?_
      dsimp only
      rw [hend]
      refine (if_pos hst').trans ?_
      rw [hadd]
      rfl
    case ended =>
      refine (hrun (f := fun c => if c.errFrame then AbCell.frameEnd { c with errFrame := false } a.abSettled.now else c) rfl rfl).trans ?_
      by_cases he : c.errFrame = true
      · refine Eq.trans (congrArg to_ ((if_pos he).trans ?_)) (if_pos he).symm
        exact AbCell.frameEnd_of_ne (c := { c with errFrame := false }) (fun h => nomatch hst.symm.trans h) _
      · exact ((congrArg to_ (if_neg he)).trans hself).trans (if_neg he).symm
  case offer =>
    obtain ⟨-, hr, hmin⟩ := c.offer_isBest.2 b hb
    exact ⟨hr.1, hr.2, fun x h1 h2 => (hmin x (mem_ofFn_id x) ⟨h1, h2⟩).imp_right fun h => ⟨h.1.symm, h.2⟩⟩

end Sys2Proof.Machine

namespace Sys2Proof.Machine

/-- R453: the source is eligible for the target. -/
def State.Eligible (s : State) (t : Fin 18) (n : Fin 512) : Prop :=
  (s.eic.srcs.at n).st = .pending ∧ (s.eic.targets.at t).ethr < (s.eic.srcs.at n).pri ∧
    (s.eic.srcs.at n).targets t = true ∧ s.cond t ≠ .absent

theorem State.eligibleSrc_iff {s : State} {t : Fin 18} {n : Fin 512} : s.eligibleSrc t n = true ↔ s.Eligible t n := by
  simp [State.eligibleSrc, State.Eligible, and_assoc]

theorem Target.ethr_eq (x : Target) : x.ethr = max x.thr.toNat (x.stack.head?.elim 0 fun p => p.2) := by
  unfold Target.ethr Target.rpri
  cases x.stack <;> rfl

theorem State.bestSrc_isBest (s : State) (t : Fin 18) :
    IsBest (s.Eligible t) (fun n => (s.eic.srcs.at n).pri) allSrcs (s.bestSrc t) :=
  isBest_foldl ⟨fun _ _ h => if_neg fun he => h (State.eligibleSrc_iff.1 he), fun _ h => if_pos (State.eligibleSrc_iff.2 h),
    fun _ _ h hlt => (if_pos (State.eligibleSrc_iff.2 h)).trans (if_pos hlt),
    fun _ _ h hlt => (if_pos (State.eligibleSrc_iff.2 h)).trans (if_neg hlt)⟩ (pairwise_ofFn_id 512)

/-- Settles O33. -/
theorem bestSourceIsDelivered : Obligations.BestSourceIsDelivered := by
  intro s t pri limit fit
  have hfit (n : Fin 512) : s.Eligible t n ↔ fit n := by
    unfold State.Eligible fit
    rw [Target.ethr_eq]
    rfl
  obtain ⟨hnone, hsome⟩ := s.bestSrc_isBest t
  have hmem (n : Fin 512) : n ∈ allSrcs := List.mem_ofFn.2 ⟨n, rfl⟩
  refine ⟨⟨fun h n hn => hnone h n (hmem n) ((hfit n).2 hn), fun h => ?empty⟩, fun n => ⟨fun h => ?best, fun ⟨hn, hbest⟩ => ?unique⟩⟩
  case empty =>
    cases h0 : s.bestSrc t with
    | none => rfl
    | some n => exact absurd ((hfit n).1 (hsome n h0).2.1) (h n)
  case best =>
    obtain ⟨-, hn, hbest⟩ := hsome n h
    exact ⟨(hfit n).1 hn, fun m hm => hbest m (hmem m) ((hfit m).2 hm)⟩
  case unique =>
    cases h0 : s.bestSrc t with
    | none => exact absurd ((hfit n).2 hn) (hnone h0 n (hmem n))
    | some m =>
      obtain ⟨-, hm, hbest'⟩ := hsome m h0
      have h1 : pri n < pri m ∨ pri n = pri m ∧ m ≤ n := hbest' n (hmem n) ((hfit n).2 hn)
      have h2 := hbest m ((hfit m).1 hm)
      exact congrArg some (by omega)

end Sys2Proof.Machine

namespace Sys2Proof.Machine

/-! The state with one source, target or group set. -/

section
variable (s : State) (n : Fin 512) (y : Source) (t : Fin 18) (x : Target)

def State.setSrc : State := { s with eic := { s.eic with srcs := s.eic.srcs.upd n y } }
def State.setTarget : State := { s with eic := { s.eic with targets := s.eic.targets.upd t x } }

@[simp] theorem State.setSrc_at : (s.setSrc n y).eic.srcs.at n = y := Bank.at_upd_self _ _ _

theorem State.setSrc_at_ne {i : Fin 512} (h : i ≠ n) : (s.setSrc n y).eic.srcs.at i = s.eic.srcs.at i := Bank.at_upd_ne _ _ h

theorem State.modSrc_eq_setSrc (f : Source → Source) : s.modSrc n f = s.setSrc n (f (s.eic.srcs.at n)) := rfl

theorem State.modSrc_setSrc (f : Source → Source) : (s.setSrc n y).modSrc n f = s.setSrc n (f y) := by
  simp [State.setSrc, State.modSrc, State.modEic, Bank.mod_eq]

@[simp] theorem State.setTarget_at : (s.setTarget t x).eic.targets.at t = x := Bank.at_upd_self _ _ _

end

/-! R463: the held sources of a group, and their release. -/

theorem mem_group (n : Fin 512) : n ∈ (List.range 16).map fun i => (Fin.ofNat 512 (16 * (srcGroup n).val + i) : Fin 512) := by
  refine List.mem_map.2 ⟨n.val % 16, List.mem_range.2 (by omega), Fin.ext ?_⟩
  simp only [Fin.ofNat, srcGroup]
  omega

theorem nodup_group (g : Fin 32) : ((List.range 16).map fun i => (Fin.ofNat 512 (16 * g.val + i) : Fin 512)).Nodup := by
  refine List.Nodup.map_on (fun i hi j hj h => ?_) List.nodup_range
  have h := congrArg Fin.val h
  simp only [Fin.ofNat] at h
  have hi := List.mem_range.1 hi
  have hj := List.mem_range.1 hj
  omega

theorem State.mem_heldOf {s : State} {n : Fin 512} : n ∈ s.heldOf (srcGroup n) ↔ (s.eic.srcs.at n).st = .held := by
  simp only [State.heldOf, List.mem_filter, decide_eq_true_eq]
  exact and_iff_right (mem_group n)

theorem State.held_of_mem_heldOf {s : State} {g : Fin 32} {n : Fin 512} (h : n ∈ s.heldOf g) : (s.eic.srcs.at n).st = .held := by
  simpa using (List.mem_filter.1 h).2

/-- Another source's state does not touch who is held. -/
theorem State.mem_heldOf_setSrc_ne {s : State} {n i : Fin 512} (g : Fin 32) (y : Source) (h : i ≠ n) :
    i ∈ (s.setSrc n y).heldOf g ↔ i ∈ s.heldOf g := by
  simp only [State.heldOf, List.mem_filter, s.setSrc_at_ne n y h]

theorem length_filter_add_one {α : Type} {l : List α} {p q : α → Bool} {a : α} (hl : l.Nodup) (ha : a ∈ l) (hp : p a = true)
    (hq : q a = false) (h : ∀ x, x ≠ a → p x = q x) : (l.filter p).length = (l.filter q).length + 1 := by
  obtain ⟨u, v, rfl⟩ := List.append_of_mem ha
  have hnot := List.nodup_middle.1 hl
  have hne : ∀ x ∈ u ++ v, x ≠ a := fun x hx e => (List.nodup_cons.1 hnot).1 (e ▸ hx)
  have hu : u.filter p = u.filter q := List.filter_congr fun x hx => h x (hne x (List.mem_append_left _ hx))
  have hv : v.filter p = v.filter q := List.filter_congr fun x hx => h x (hne x (List.mem_append_right _ hx))
  simp only [List.filter_append, List.filter_cons, hp, hq, hu, hv, List.length_append, if_true, List.length_cons]
  simp
  omega

theorem State.length_heldOf_held {s : State} {n : Fin 512} {y : Source} (hs : (s.eic.srcs.at n).st ≠ .held) (hy : y.st = .held) :
    ((s.setSrc n y).heldOf (srcGroup n)).length = (s.heldOf (srcGroup n)).length + 1 :=
  length_filter_add_one (nodup_group _) (mem_group n) (by rw [State.setSrc_at, hy]; rfl) (decide_eq_false hs)
    fun i hi => by rw [s.setSrc_at_ne n y hi]

theorem foldl_pending (l : List (Fin 512)) (s : State) :
    let z := l.foldl (init := s) fun s n => s.modSrc n fun x => { x with st := .pending }
    z = { s with eic := { s.eic with srcs := z.eic.srcs } } ∧
    ∀ i, z.eic.srcs.at i = { s.eic.srcs.at i with st := if i ∈ l then .pending else (s.eic.srcs.at i).st } := by
  induction l generalizing s with
  | nil => exact ⟨rfl, fun i => rfl⟩
  | cons n l ih =>
    obtain ⟨hframe, hat⟩ := ih (s.modSrc n fun x => { x with st := .pending })
    refine ⟨hframe, fun i => (hat i).trans ?_⟩
    by_cases hi : i = n
    · subst hi
      rw [State.modSrc_eq_setSrc, State.setSrc_at, if_pos List.mem_cons_self]
      exact congrArg (fun x => ({ s.eic.srcs.at i with st := x } : Source)) (ite_self _)
    · rw [State.modSrc_eq_setSrc, State.setSrc_at_ne _ _ _ hi]
      simp [hi]

theorem State.release_spec (s : State) (g : Fin 32) :
    s.release g = { s with eic := { s.eic with srcs := (s.release g).eic.srcs } } ∧
    ∀ i, (s.release g).eic.srcs.at i = { s.eic.srcs.at i with
      st := if i ∈ s.heldOf g then .pending else (s.eic.srcs.at i).st } :=
  foldl_pending (s.heldOf g) s

/-! R463: a source becomes pending in its group. -/

def State.setGroup (s : State) (g : Fin 32) (m : ModGroup) : State := { s with eic := { s.eic with mods := s.eic.mods.upd g m } }

/-- R452, R463: what source `n` of `b`, which was idle, does with the register `y` as it becomes pending; `o` is the outcome. -/
def State.Becomes (b : State) (n : Fin 512) (y : Source) (o : Host.Outcome State Fault Refusal) : Prop :=
  let g := srcGroup n
  let m := b.eic.mods.at g
  let on (st : SrcSt) : State := b.setSrc n { y with st := st }
  let end_ := b.now + m.hold
  let full : Prop := (if m.win = none then m.count else m.limit) ≤ (b.heldOf g).length + 1
  let held : Prop := m.win = none ∧ bit m.cfg 30 = true ∨ m.win ≠ none ∧ m.free ≠ some b.now
  (bit m.cfg 31 = false ∨ m.win ≠ none ∧ m.free = some b.now → o = .next (on .pending).eicSettle) ∧
  (bit m.cfg 31 = true → m.win = none → bit m.cfg 30 = false →
    o = .next ((on .pending).setGroup g { m with win := some end_, free := some b.now, limit := m.count }).eicSettle) ∧
  (bit m.cfg 31 = true → held → ¬ full → m.win = none →
    o = .next ((on .held).setGroup g { m with win := some end_, free := none, limit := m.count }).eicSettle) ∧
  (bit m.cfg 31 = true → held → ¬ full → m.win ≠ none → o = .next (on .held).eicSettle) ∧
  (bit m.cfg 31 = true → held → full → ∃ z : State,
    o = .next (z.setGroup g { m with win := some end_, free := some b.now, limit := m.count }).eicSettle ∧
    z = { b with eic := { b.eic with srcs := z.eic.srcs } } ∧ z.eic.srcs.at n = { y with st := .pending } ∧
    ∀ i, i ≠ n → z.eic.srcs.at i = { b.eic.srcs.at i with
      st := if i ∈ b.heldOf g then .pending else (b.eic.srcs.at i).st })

section
variable (s : State) (g g' : Fin 32) (m m' : ModGroup)

theorem State.setGroup_setGroup : (s.setGroup g m).setGroup g m' = s.setGroup g m' := by
  simp [State.setGroup]

theorem State.modGroup_eq_setGroup (f : ModGroup → ModGroup) : s.modGroup g f = s.setGroup g (f (s.eic.mods.at g)) := rfl

theorem State.setGroup_at : (s.setGroup g m).eic.mods.at g = m := Bank.at_upd_self _ _ _

theorem State.release_setGroup : (s.setGroup g m).release g' = (s.release g').setGroup g m := by
  have hcomm (l : List (Fin 512)) (s : State) :
      l.foldl (init := s.setGroup g m) (fun s n => s.modSrc n fun x => { x with st := .pending }) =
        (l.foldl (init := s) fun s n => s.modSrc n fun x => { x with st := .pending }).setGroup g m := by
    induction l generalizing s with
    | nil => rfl
    | cons n l ih => exact ih (s.modSrc n fun x => { x with st := .pending })
  exact hcomm (s.heldOf g') s

theorem State.release_mods : (s.release g).eic.mods = s.eic.mods := (congrArg (fun z : State => z.eic.mods) (s.release_spec g).1 :)

end

section
variable {b : State} {n : Fin 512} {y : Source}

/-- The group's held sources are released, the new one among them. -/
theorem State.release_held (b : State) (n : Fin 512) (y : Source) :
    let z := (b.setSrc n { y with st := .held }).release (srcGroup n)
    z = { b with eic := { b.eic with srcs := z.eic.srcs } } ∧ z.eic.srcs.at n = { y with st := .pending } ∧
    ∀ i, i ≠ n → z.eic.srcs.at i = { b.eic.srcs.at i with
      st := if i ∈ b.heldOf (srcGroup n) then .pending else (b.eic.srcs.at i).st } := by
  obtain ⟨hframe, hat⟩ := (b.setSrc n { y with st := .held }).release_spec (srcGroup n)
  refine ⟨hframe, (hat n).trans ?_, fun i hi => (hat i).trans ?_⟩
  · rw [if_pos (State.mem_heldOf.2 (by rw [State.setSrc_at])), State.setSrc_at]
  · simp only [State.mem_heldOf_setSrc_ne _ _ hi, State.setSrc_at_ne _ _ _ hi]

/-- R463: a source that becomes pending is held, or passes at once. -/
theorem State.becomePending_setSrc (b : State) (n : Fin 512) (y : Source) :
    let g := srcGroup n
    let m := b.eic.mods.at g
    let on (st : SrcSt) : State := b.setSrc n { y with st := st }
    let w := b.now + m.hold
    let passed : State := ((on .held).release g).setGroup g (m.open_ w (some b.now))
    (b.setSrc n y).becomePending n =
      if bit m.cfg 31 = false then on .pending
      else if m.win = none then
        if bit m.cfg 30 = false then (on .pending).setGroup g (m.open_ w (some b.now))
        else if m.count ≤ ((on .held).heldOf g).length then passed else (on .held).setGroup g (m.open_ w none)
      else if m.free = some b.now then on .pending
      else if m.limit ≤ ((on .held).heldOf g).length then passed else on .held := by
  intro g m on w passed
  have hm : (b.setSrc n y).eic.mods.at (srcGroup n) = m := rfl
  have hnow : (b.setSrc n y).now = b.now := rfl
  have hmods (z : SrcSt) : ((on z).release g).eic.mods.at g = m := by
    rw [State.release_mods]
    rfl
  unfold State.becomePending
  simp only [State.modSrc_setSrc, hm, hnow]
  change (if (! bit m.cfg 31) = true then on .pending else _) = _
  by_cases h31 : bit m.cfg 31 = false
  · rw [if_pos h31]
    exact if_pos (congrArg (! ·) h31 :)
  rw [if_neg h31]
  refine (if_neg fun h => h31 (by simpa using h)).trans ?_
  cases hw : m.win with
  | none =>
    rw [if_pos rfl]
    by_cases h30 : bit m.cfg 30 = false
    · rw [if_pos h30]
      exact if_neg (Bool.eq_false_iff.1 h30)
    · rw [if_neg h30]
      refine (if_pos (by simpa using h30)).trans (if_congr (by rfl) ?_ rfl)
      rw [State.modGroup_eq_setGroup, State.modGroup_eq_setGroup, State.release_setGroup, State.setGroup_at, State.setGroup_setGroup]
      rfl
  | some v =>
    rw [if_neg (Option.some_ne_none v)]
    refine if_congr Iff.rfl rfl (if_congr Iff.rfl ?_ rfl)
    rw [State.modGroup_eq_setGroup]
    exact congrArg (fun x : ModGroup => ((on .held).release g).setGroup g (x.open_ (b.now + x.hold) (some b.now))) (hmods .held)

theorem State.becomes_becomePending (hb : (b.eic.srcs.at n).st ≠ .held) :
    b.Becomes n y (.next ((b.setSrc n y).becomePending n).eicSettle) := by
  unfold State.Becomes
  intro g m on end_ full held
  have hlen : ((on .held).heldOf g).length = (b.heldOf g).length + 1 := State.length_heldOf_held hb rfl
  have h := State.becomePending_setSrc b n y
  extract_lets at h
  rw [h]
  have hne {x : Bool} (hx : x = true) : ¬ x = false := fun h => (nomatch hx.symm.trans h)
  refine ⟨fun h1 => ?direct, fun h1 h2 h3 => ?bypass, fun h1 h2 h3 h4 => ?opens, fun h1 h2 h3 h4 => ?waits, fun h1 h2 h3 => ?releases⟩
  case direct =>
    by_cases h31 : bit m.cfg 31 = false
    · rw [if_pos h31]
    · obtain ⟨hw, hf⟩ := h1.resolve_left h31
      rw [if_neg h31, if_neg hw, if_pos hf]
  case bypass => 
    rw [if_neg (hne h1), if_pos h2, if_pos h3]
    rfl
  case opens =>
    have h30 : bit m.cfg 30 = true := (h2.resolve_right fun h => h.1 h4).2
    have hroom : ¬ m.count ≤ ((on .held).heldOf g).length := fun h => h3 (le_of_eq_of_le (if_pos h4) (hlen ▸ h))
    rw [if_neg (hne h1), if_pos h4, if_neg (hne h30), if_neg hroom]
    rfl
  case waits =>
    have hf : m.free ≠ some b.now := (h2.resolve_left fun h => h4 h.1).2
    have hroom : ¬ m.limit ≤ ((on .held).heldOf g).length := fun h => h3 (le_of_eq_of_le (if_neg h4) (hlen ▸ h))
    rw [if_neg (hne h1), if_neg h4, if_neg hf, if_neg hroom]
  case releases =>
    refine ⟨(on .held).release g, congrArg (fun z : State => Host.Outcome.next z.eicSettle) ?_, State.release_held b n y⟩
    by_cases hw : m.win = none
    · have h30 : bit m.cfg 30 = true := (h2.resolve_right fun h => h.1 hw).2
      have hroom : m.count ≤ ((on .held).heldOf g).length := by
        rw [hlen]
        exact le_of_eq_of_le (if_pos hw).symm h3
      rw [if_neg (hne h1), if_pos hw, if_neg (hne h30), if_pos hroom]
      rfl
    · have hf : m.free ≠ some b.now := (h2.resolve_left fun h => hw h.1).2
      have hroom : m.limit ≤ ((on .held).heldOf g).length := by
        rw [hlen]
        exact le_of_eq_of_le (if_neg hw).symm h3
      rw [if_neg (hne h1), if_neg hw, if_neg hf, if_pos hroom]
      rfl

end

/-! R451, R452: a source follows its level and latch. -/

section
variable {s : State} {n : Fin 512} {y : Source}

theorem State.follow_eq (s : State) (n : Fin 512) (y : Source) :
    (s.setSrc n y).follow n = match y.st, y.level || y.swp with
      | .idle, true => (s.setSrc n y).becomePending n
      | .held, false => s.setSrc n { y with st := .idle }
      | .pending, false => s.setSrc n { y with st := .idle }
      | _, _ => s.setSrc n y := by
  unfold State.follow
  simp only [State.setSrc_at, State.modSrc_setSrc] <;> rfl

theorem State.follow_pend (hst : y.st = .idle) (hon : (y.level || y.swp) = true) : (s.setSrc n y).follow n = (s.setSrc n y).becomePending n := by
  rw [State.follow_eq, hst, hon]

theorem State.follow_fall (hst : y.st = .held ∨ y.st = .pending) (hon : (y.level || y.swp) = false) :
    (s.setSrc n y).follow n = s.setSrc n { y with st := .idle } := by
  rw [State.follow_eq, hon]
  rcases hst with hst | hst <;> rw [hst]

theorem State.follow_active (hst : y.st = .active) : (s.setSrc n y).follow n = s.setSrc n y := by
  rw [State.follow_eq, hst]

theorem State.follow_on (hst : y.st ≠ .idle) (hon : (y.level || y.swp) = true) : (s.setSrc n y).follow n = s.setSrc n y := by
  rw [State.follow_eq, hon]
  cases h : y.st with
  | idle => exact absurd h hst
  | held => rfl
  | pending => rfl
  | active => rfl

theorem State.follow_off (hst : y.st = .idle) (hon : (y.level || y.swp) = false) : (s.setSrc n y).follow n = s.setSrc n y := by
  rw [State.follow_eq, hst, hon]

end

/-! R461: what completions on a stack leave. -/

/-- Source `x` as it stands with its state changed from HELD to PENDING at most. -/
def Source.Kept (x y : Source) : Prop := y = x ∨ x.st = .held ∧ y = { x with st := .pending }

/-- Source `x` after a completion at the level `l`. -/
def Source.Completed (x y : Source) (l : Bool) : Prop :=
  y = { x with level := l, st := y.st } ∧ y.st ≠ .active ∧ (y.st = .idle ↔ x.swp = false ∧ l = false)

theorem Source.Kept.trans {x y z : Source} (h : x.Kept y) (k : y.Kept z) : x.Kept z := by
  rcases h with rfl | ⟨hx, rfl⟩
  · exact k
  · rcases k with rfl | ⟨h, -⟩
    · exact .inr ⟨hx, rfl⟩
    · exact (nomatch h)

theorem Source.Completed.kept {x y z : Source} {l : Bool} (h : x.Completed y l) (k : y.Kept z) : x.Completed z l := by
  obtain ⟨heq, hne, hidle⟩ := h
  rcases k with rfl | ⟨hy, rfl⟩
  · exact ⟨heq, hne, hidle⟩
  · refine ⟨congrArg (fun w : Source => ({ w with st := .pending } : Source)) heq, nofun, fun h => (nomatch h), fun h => ?_⟩
    exact (nomatch hy.symm.trans (hidle.2 h))

theorem Source.Kept.completed {x y z : Source} {l : Bool} (h : x.Kept y) (k : y.Completed z l) : x.Completed z l := by
  rcases h with rfl | ⟨-, rfl⟩ <;> exact k

theorem Source.Completed.again {x y z : Source} {l : Bool} (h : x.Completed y l) (k : y.Completed z l) : x.Completed z l := by
  obtain ⟨hy, -⟩ := h
  obtain ⟨hz, hne, hidle⟩ := k
  have hswp : y.swp = x.swp := (congrArg Source.swp hy :)
  refine ⟨?_, hne, hswp ▸ hidle⟩
  rw [hz, hy]

/-- R463: what the state `b` may become as source `n` becomes pending with the register `y`. -/
structure State.PendsTo (b : State) (n : Fin 512) (y : Source) (z : State) : Prop where
  frame : z = { b with eic := { b.eic with srcs := z.eic.srcs, mods := z.eic.mods } }
  self : z.eic.srcs.at n = { y with st := .held } ∨ z.eic.srcs.at n = { y with st := .pending }
  other : ∀ i, i ≠ n → (b.eic.srcs.at i).Kept (z.eic.srcs.at i)

section
variable {b z : State} {n : Fin 512} {y : Source}

theorem State.PendsTo.setGroup (h : b.PendsTo n y z) (g : Fin 32) (m : ModGroup) : b.PendsTo n y (z.setGroup g m) := by
  obtain ⟨hframe, hself, hother⟩ := h
  refine ⟨?_, hself, hother⟩
  exact congrArg (fun x : State => { x with eic := { x.eic with mods := (z.setGroup g m).eic.mods } }) hframe

theorem State.pendsTo_setSrc {st : SrcSt} (hst : st = .held ∨ st = .pending) : b.PendsTo n y (b.setSrc n { y with st := st }) := by
  refine ⟨rfl, ?_, fun i hi => .inl (b.setSrc_at_ne n _ hi)⟩
  rcases hst with rfl | rfl
  · exact .inl (b.setSrc_at n _)
  · exact .inr (b.setSrc_at n _)

theorem State.pendsTo_release : b.PendsTo n y ((b.setSrc n { y with st := .held }).release (srcGroup n)) := by
  obtain ⟨hframe, hn, hother⟩ := State.release_held b n y
  refine ⟨hframe.trans ?_, .inr hn, fun i hi => ?_⟩
  · rw [State.release_mods]
    rfl
  · rw [hother i hi]
    by_cases h : i ∈ b.heldOf (srcGroup n)
    · rw [if_pos h]
      exact .inr ⟨State.held_of_mem_heldOf h, rfl⟩
    · rw [if_neg h]
      exact .inl rfl

theorem State.pendsTo_becomePending (b : State) (n : Fin 512) (y : Source) : b.PendsTo n y ((b.setSrc n y).becomePending n) := by
  rw [show (b.setSrc n y).becomePending n = _ from State.becomePending_setSrc b n y]
  have hp := State.pendsTo_setSrc (b := b) (n := n) (y := y) (.inr rfl : SrcSt.pending = .held ∨ _)
  have hh := State.pendsTo_setSrc (b := b) (n := n) (y := y) (.inl rfl : SrcSt.held = .held ∨ _)
  have hr := State.pendsTo_release (b := b) (n := n) (y := y)
  split
  · exact hp
  split
  · split
    · exact hp.setGroup _ _
    split
    · exact hr.setGroup _ _
    · exact hh.setGroup _ _
  split
  · exact hp
  split
  · exact hr.setGroup _ _
  · exact hh

end

/-- What completions of the sources of the stack `l` of target `t` leave of `s`, whose levels are `lv`. -/
structure State.Emptied (s : State) (t : Fin 18) (lv : Fin 512 → Bool) (l : List (Fin 512 × Nat)) (z : State) : Prop where
  frame : z = { s with eic := { s.eic with srcs := z.eic.srcs, mods := z.eic.mods, targets := z.eic.targets } }
  self : z.eic.targets.at t = { s.eic.targets.at t with stack := (z.eic.targets.at t).stack }
  other : ∀ u, u ≠ t → z.eic.targets.at u = s.eic.targets.at u
  src : ∀ n, if (l.any fun e => e.1 = n) then (s.eic.srcs.at n).Completed (z.eic.srcs.at n) (lv n)
    else (s.eic.srcs.at n).Kept (z.eic.srcs.at n)

/-- R458: the completion of the top source. -/
theorem State.completeTop_eq {s : State} {t : Fin 18} {n : Fin 512} {p : Nat} {r : List (Fin 512 × Nat)} (lv : Fin 512 → Bool)
    (h : (s.eic.targets.at t).stack = (n, p) :: r) :
    s.completeTop t lv = ((s.setTarget t { s.eic.targets.at t with stack := r }).setSrc n
      { s.eic.srcs.at n with st := .idle, level := lv n }).follow n := by
  unfold State.completeTop
  rw [h]
  rfl

theorem State.emptied_single {s z : State} {t : Fin 18} {n : Fin 512} {p : Nat} {r : List (Fin 512 × Nat)} {lv : Fin 512 → Bool}
    (h : z = { s with eic := { s.eic with
      srcs := z.eic.srcs, mods := z.eic.mods, targets := s.eic.targets.upd t { s.eic.targets.at t with stack := r } } })
    (hn : (s.eic.srcs.at n).Completed (z.eic.srcs.at n) (lv n)) (hk : ∀ i, i ≠ n → (s.eic.srcs.at i).Kept (z.eic.srcs.at i)) :
    s.Emptied t lv [(n, p)] z ∧ (z.eic.targets.at t).stack = r := by
  have ht : z.eic.targets = s.eic.targets.upd t { s.eic.targets.at t with stack := r } := (congrArg (fun x : State => x.eic.targets) h :)
  have hat : z.eic.targets.at t = { s.eic.targets.at t with stack := r } := by rw [ht, Bank.at_upd_self]
  refine ⟨⟨?_, ?_, fun u hu => ?_, fun i => ?_⟩, by rw [hat]⟩
  · rw [ht]
    exact h
  · rw [hat]
  · rw [ht, Bank.at_upd_ne _ _ hu]
  · by_cases hi : n = i
    · subst hi
      simpa using hn
    · simpa [hi] using hk i (Ne.symm hi)

theorem State.emptied_completeTop {s : State} {t : Fin 18} {n : Fin 512} {p : Nat} {r : List (Fin 512 × Nat)} (lv : Fin 512 → Bool)
    (h : (s.eic.targets.at t).stack = (n, p) :: r) :
    s.Emptied t lv [(n, p)] (s.completeTop t lv) ∧ ((s.completeTop t lv).eic.targets.at t).stack = r := by
  rw [State.completeTop_eq lv h]
  cases hon : lv n || (s.eic.srcs.at n).swp with
  | true =>
    rw [State.follow_pend rfl hon]
    obtain ⟨hframe, hself, hother⟩ := (s.setTarget t { s.eic.targets.at t with stack := r }).pendsTo_becomePending n
      { s.eic.srcs.at n with st := .idle, level := lv n }
    have hlit : ¬ ((s.eic.srcs.at n).swp = false ∧ lv n = false) := fun ⟨h1, h2⟩ => by simp [h1, h2] at hon
    refine State.emptied_single hframe ?_ hother
    rcases hself with hself | hself <;> rw [hself] <;> exact ⟨rfl, nofun, nofun, fun h => absurd h hlit⟩
  | false =>
    rw [State.follow_off rfl hon]
    have hdark : (s.eic.srcs.at n).swp = false ∧ lv n = false := (Bool.or_eq_false_iff.1 hon).symm
    refine State.emptied_single rfl ?_ fun i hi => .inl (State.setSrc_at_ne _ _ _ hi)
    rw [State.setSrc_at]
    exact ⟨rfl, nofun, fun _ => hdark, fun _ => rfl⟩

theorem State.Emptied.append {s y z : State} {t : Fin 18} {lv : Fin 512 → Bool} {e : Fin 512 × Nat} {l : List (Fin 512 × Nat)}
    (h : s.Emptied t lv [e] y) (k : y.Emptied t lv l z) : s.Emptied t lv (e :: l) z := by
  refine ⟨?_, ?_, fun u hu => (k.other u hu).trans (h.other u hu), fun n => ?_⟩
  · rw [k.frame, h.frame]
  · rw [k.self, h.self]
  · have h1 := h.src n
    have h2 := k.src n
    have hany : ((e :: l).any fun e => e.1 = n) = (decide (e.1 = n) || l.any fun e => e.1 = n) := rfl
    have hone : ([e].any fun e => e.1 = n) = decide (e.1 = n) := Bool.or_false _
    rw [hone] at h1
    rw [hany]
    cases he : decide (e.1 = n) <;> cases hr : l.any (fun e => e.1 = n) <;> rw [he] at h1 <;> rw [hr] at h2
    case false.false => exact h1.trans h2
    case false.true => exact h1.completed h2
    case true.false => exact h1.kept h2
    case true.true => exact h1.again h2

/-- R461: the stack of a target is emptied, top first. -/
theorem State.emptied_emptyStack (s : State) (t : Fin 18) (lv : Fin 512 → Bool) :
    s.Emptied t lv (s.eic.targets.at t).stack (s.emptyStack t lv) ∧ ((s.emptyStack t lv).eic.targets.at t).stack = [] := by
  unfold State.emptyStack
  generalize hl : (s.eic.targets.at t).stack = l
  induction l generalizing s with
  | nil => exact ⟨⟨rfl, rfl, fun _ _ => rfl, fun n => .inl rfl⟩, hl⟩
  | cons e r ih =>
    obtain ⟨h, hr⟩ := State.emptied_completeTop lv hl
    obtain ⟨k, hk⟩ := ih (s.completeTop t lv) hr
    exact ⟨h.append k, hk⟩

/-! R454, R460: what the controller does after a change. -/

/-- What a half `x` with emulated sleep `m` may become by wakes. -/
def Half.Woken (x : Half) (m : Bool) (y : Half) (n : Bool) : Prop :=
  (y = x ∧ n = m) ∨ (x.st = .sleep ∧ y = { x with st := .wake } ∧ n = false) ∨
    (x.st = .enter ∧ y = { x with wakeRec := true } ∧ n = m)

theorem Half.Woken.trans {x y z : Half} {m n o : Bool} (h : x.Woken m y n) (k : y.Woken n z o) : x.Woken m z o := by
  rcases h with ⟨rfl, rfl⟩ | ⟨hx, rfl, rfl⟩ | ⟨hx, rfl, rfl⟩
  · exact k
  · rcases k with ⟨rfl, rfl⟩ | ⟨h, -⟩ | ⟨h, -⟩
    · exact .inr (.inl ⟨hx, rfl, rfl⟩)
    · exact (nomatch h)
    · exact (nomatch h)
  · rcases k with ⟨rfl, rfl⟩ | ⟨h, -⟩ | ⟨-, rfl, rfl⟩
    · exact .inr (.inr ⟨hx, rfl, rfl⟩)
    · exact (nomatch hx.symm.trans h)
    · exact .inr (.inr ⟨hx, rfl, rfl⟩)

/-- What the controller's attention to its sources may change. -/
structure State.Attended (s z : State) : Prop where
  frame : z = { s with eic := z.eic, power := { s.power with halves := z.power.halves }, dbg := { s.dbg with emu := z.dbg.emu } }
  eic : z.eic = { s.eic with srcs := z.eic.srcs, targets := z.eic.targets }
  src : ∀ n, z.eic.srcs.at n = { s.eic.srcs.at n with orph := (z.eic.srcs.at n).orph, stray := (z.eic.srcs.at n).stray }
  orph : ∀ n, (s.eic.srcs.at n).orph = true → (z.eic.srcs.at n).orph = true
  target : ∀ t, z.eic.targets.at t = { s.eic.targets.at t with
    req := (z.eic.targets.at t).req, woken := (z.eic.targets.at t).woken, cfg := (z.eic.targets.at t).cfg }
  cfg : ∀ t : Fin 18, t.val < 16 → (z.eic.targets.at t).cfg = (s.eic.targets.at t).cfg
  req : ∀ t, (z.eic.targets.at t).req = true → (s.eic.targets.at t).req = true
  half : ∀ i, (s.power.halves.at i).Woken (s.dbg.emu.at i) (z.power.halves.at i) (z.dbg.emu.at i)

section
variable {s y z : State}

theorem State.Attended.refl (s : State) : s.Attended s :=
  ⟨rfl, rfl, fun _ => rfl, fun _ h => h, fun _ => rfl, fun _ _ => rfl, fun _ h => h, fun _ => .inl ⟨rfl, rfl⟩⟩

theorem State.Attended.trans (h : s.Attended y) (k : y.Attended z) : s.Attended z where
  frame := by rw [k.frame, h.frame]
  eic := by rw [k.eic, h.eic]
  src n := by rw [k.src, h.src]
  orph n hn := k.orph n (h.orph n hn)
  target t := by rw [k.target, h.target]
  cfg t ht := (k.cfg t ht).trans (h.cfg t ht)
  req t ht := h.req t (k.req t ht)
  half i := (h.half i).trans (k.half i)

theorem State.attended_modSrc (s : State) (n : Fin 512) (f : Source → Source)
    (h : f (s.eic.srcs.at n) = { s.eic.srcs.at n with orph := (f (s.eic.srcs.at n)).orph, stray := (f (s.eic.srcs.at n)).stray })
    (ho : (s.eic.srcs.at n).orph = true → (f (s.eic.srcs.at n)).orph = true) : s.Attended (s.modSrc n f) where
  frame := rfl
  eic := rfl
  src i := by
    by_cases hi : i = n
    · rw [State.modSrc_eq_setSrc, hi, State.setSrc_at]
      exact h
    · rw [State.modSrc_eq_setSrc, State.setSrc_at_ne _ _ _ hi]
  orph i := by
    by_cases hi : i = n
    · rw [State.modSrc_eq_setSrc, hi, State.setSrc_at]
      exact ho
    · rw [State.modSrc_eq_setSrc, State.setSrc_at_ne _ _ _ hi]
      exact id
  target t := rfl
  cfg t _ := rfl
  req t h := h
  half i := .inl ⟨rfl, rfl⟩

theorem State.attended_targets (s : State) (f : Fin 18 → Target → Target)
    (h : ∀ t x, f t x = { x with req := (f t x).req, woken := (f t x).woken, cfg := (f t x).cfg })
    (hc : ∀ (t : Fin 18) x, t.val < 16 → (f t x).cfg = x.cfg) (hr : ∀ t x, (f t x).req = true → x.req = true)
    (v : Bank Target 18) (hv : ∀ t, v.at t = f t (s.eic.targets.at t)) : s.Attended { s with eic := { s.eic with targets := v } } where
  frame := rfl
  eic := rfl
  src i := rfl
  orph i h := h
  target t := (hv t).trans ((h t _).trans (by rw [hv t]))
  cfg t ht := (congrArg Target.cfg (hv t)).trans (hc t _ ht)
  req t ht := hr t _ ((congrArg Target.req (hv t)).symm.trans ht)
  half i := .inl ⟨rfl, rfl⟩

theorem State.attended_wakeHalf (s : State) (h : Fin 2) : s.Attended (s.wakeHalf h) where
  frame := rfl
  eic := rfl
  src i := rfl
  orph i h := h
  target t := rfl
  cfg t _ := rfl
  req t h := h
  half i := by
    unfold State.wakeHalf
    dsimp only
    rw [Bank.at_mod, Bank.at_mod]
    by_cases hi : i = h
    · subst hi
      rw [if_pos rfl, if_pos rfl]
      split
      · next h => exact .inr (.inl ⟨h, rfl, by simp [h]⟩)
      · next h => exact .inr (.inr ⟨h, rfl, by simp [h]⟩)
      · next h _ => exact .inl ⟨rfl, by simpa using fun _ => h⟩
    · rw [if_neg hi, if_neg hi]
      exact .inl ⟨rfl, rfl⟩

theorem State.attended_woken (s : State) (t : Fin 18) : s.Attended (s.modTarget t fun y => { y with woken := true }) := by
  refine s.attended_targets (fun u x => if u = t then { x with woken := true } else x) (fun u x => ?_) (fun u x _ => ?_) (fun u x => ?_) _
    fun u => Bank.at_mod _ _ _ _
  all_goals split <;> simp

/-- A target that is no sequencer's wakes. -/
theorem State.attended_awoken (s : State) (t : Fin 18) (ht : ¬ t.val < 16) :
    s.Attended (s.modTarget t fun y => { y with cfg := y.cfg &&& ~~~2 }) := by
  refine s.attended_targets (fun u x => if u = t then { x with cfg := x.cfg &&& ~~~2 } else x) (fun u x => ?_) (fun u x hu => ?_)
    (fun u x => ?_) _ fun u => Bank.at_mod _ _ _ _
  · split <;> rfl
  · exact congrArg Target.cfg (if_neg fun e : u = t => ht (e ▸ hu))
  · split <;> exact id

theorem State.attended_attend (s : State) (n : Fin 512) : s.Attended (s.attend n) := by
  unfold State.attend
  dsimp only
  split
  · generalize (allTargets.filter fun t => (s.eic.srcs.at n).targets t && decide (s.cond t ≠ .absent)) = eff
    have h1 := s.attended_modSrc n (fun x => { x with stray := eff.isEmpty, orph := x.orph || (eff.isEmpty && !x.stray) }) rfl
      fun h => by simp [h]
    cases eff with
    | nil => exact h1
    | cons t r =>
      dsimp only
      split_ifs
      · exact h1.trans (State.attended_woken _ t)
      · exact h1.trans (State.attended_wakeHalf _ _)
      · exact h1.trans (State.attended_awoken _ t ‹_›)
      · exact h1
  split
  · exact s.attended_modSrc n (fun x => { x with stray := false }) rfl id
  · exact .refl s

/-- R460: the controller attends to every source before requests fall. -/
theorem State.eicSettle_eq_fall (s : State) : ∃ z, s.Attended z ∧ s.eicSettle = z.eicFall := by
  have h1 : s.Attended (s.modEic fun e => { e with targets := Vector.ofFn fun t : Fin 18 =>
      { e.targets.at t with
        woken := (e.targets.at t).woken && decide (t.val < 16) && decide ((s.seqs.at (Fin.ofNat 16 t.val)).st = .nap) } }) :=
    s.attended_targets (fun t x => { x with woken := x.woken && decide (t.val < 16) && decide ((s.seqs.at (Fin.ofNat 16 t.val)).st = .nap) })
      (fun _ _ => rfl) (fun _ _ _ => rfl) (fun _ _ => id) _ fun t => Bank.at_ofFn _ t
  have hfold (l : List (Fin 512)) : ∀ z : State, s.Attended z → s.Attended (l.foldl (init := z) fun s n => s.attend n) := by
    induction l with
    | nil => exact fun _ h => h
    | cons n l ih => exact fun z h => ih _ (h.trans (z.attended_attend n))
  exact ⟨_, hfold allSrcs _ h1, rfl⟩

theorem State.eicFall_target (s : State) (t : Fin 18) : s.eicFall.eic.targets.at t =
    { s.eic.targets.at t with req := (s.eic.targets.at t).req && s.requestNow t } := Bank.at_ofFn _ t

section
variable {t : Fin 18} {v : Bank Target 18} {r : Bool} (hv : v.at t = { s.eic.targets.at t with req := r })
include hv

theorem State.cond_of_req : ({ s with eic := { s.eic with targets := v } } : State).cond t = s.cond t := by
  unfold State.cond
  dsimp only
  rw [hv]
  rfl

/-- What is requested of a target does not depend on its request. -/
theorem State.requestNow_of_targets : ({ s with eic := { s.eic with targets := v } } : State).requestNow t = s.requestNow t := by
  have hel (n : Fin 512) : ({ s with eic := { s.eic with targets := v } } : State).eligibleSrc t n = s.eligibleSrc t n := by
    unfold State.eligibleSrc
    rw [State.cond_of_req hv]
    dsimp only
    rw [hv]
    rfl
  unfold State.requestNow State.bestSrc
  simp only [hel, State.cond_of_req hv]

end

theorem State.requestNow_eicFall (s : State) (t : Fin 18) : s.eicFall.requestNow t = s.requestNow t :=
  State.requestNow_of_targets (s.eicFall_target t)

theorem State.attended_eicFall (s : State) : s.Attended s.eicFall :=
  s.attended_targets (fun t x => { x with req := x.req && s.requestNow t }) (fun _ _ => rfl) (fun _ _ _ => rfl)
    (fun _ _ h => (Bool.and_eq_true_iff.1 h).1) _ fun t => Bank.at_ofFn _ t

theorem State.attended_eicSettle (s : State) : s.Attended s.eicSettle := by
  obtain ⟨z, hz, heq⟩ := s.eicSettle_eq_fall
  exact heq ▸ hz.trans z.attended_eicFall

/-- R454: a request that stands after the controller settles has a source to deliver. -/
theorem State.requestNow_of_req {s : State} {t : Fin 18} (h : (s.eicSettle.eic.targets.at t).req = true) : s.eicSettle.requestNow t = true := by
  obtain ⟨z, -, heq⟩ := s.eicSettle_eq_fall
  rw [heq] at h ⊢
  rw [State.requestNow_eicFall]
  rw [State.eicFall_target] at h
  exact (Bool.and_eq_true_iff.1 h).2

end

theorem ofNat_fldN_eight {v : W32} {lo : Nat} : (Fin.ofNat 256 (fldN v lo 8)).val = fldN v lo 8 :=
  Nat.mod_eq_of_lt (v.extractLsb' lo 8).isLt

theorem State.Attended.up {s z : State} (h : s.Attended z) : z.up = s.up := by
  have hcrst : z.power.crst = s.power.crst := by rw [h.frame]
  exact congrArg (! ·) hcrst

theorem State.deliver_rise {s z : State} {t : Fin 18} (hz : s.eicSettle = z) (hup : z.up = true) (hreq : z.requestNow t = true)
    (hlow : (z.eic.targets.at t).req = false) :
    s.deliver t = if t.val < 16 then (z.setTarget t { z.eic.targets.at t with req := true }).arriveEic
        (4 * fldN (z.eic.targets.at t).cfg 8 8 + 3)
      else z.setTarget t { z.eic.targets.at t with req := true } := by
  unfold State.deliver
  dsimp only
  rw [hz, if_pos ⟨hup, hreq, (congrArg (! ·) hlow :)⟩, ← ofNat_fldN_eight]
  rfl

theorem State.deliver_none {s z : State} {t : Fin 18} (hz : s.eicSettle = z)
    (h : z.up = false ∨ z.requestNow t = false ∨ (z.eic.targets.at t).req = true) : s.deliver t = z := by
  unfold State.deliver
  dsimp only
  rw [hz]
  refine if_neg fun ⟨hup, hreq, hlow⟩ => ?_
  rw [hup, hreq] at h
  simp only [Bool.true_eq_false, false_or] at h
  rw [h] at hlow
  exact (nomatch hlow)

theorem State.modTarget_eq_setTarget (s : State) (t : Fin 18) (f : Target → Target) : s.modTarget t f = s.setTarget t (f (s.eic.targets.at t)) := rfl

theorem State.release_modGroup (s : State) (g : Fin 32) (f : ModGroup → ModGroup) :
    let z := (s.release g).modGroup g f
    z = { s with eic := { s.eic with srcs := z.eic.srcs, mods := s.eic.mods.upd g (f (s.eic.mods.at g)) } } ∧
    ∀ i, z.eic.srcs.at i = { s.eic.srcs.at i with st := if i ∈ s.heldOf g then .pending else (s.eic.srcs.at i).st } := by
  obtain ⟨hframe, hat⟩ := s.release_spec g
  refine ⟨?_, hat⟩
  rw [State.modGroup_eq_setGroup, State.release_mods]
  exact congrArg (fun x : State => x.setGroup g (f (s.eic.mods.at g))) hframe

theorem State.setSrc_setSrc (s : State) (n : Fin 512) (x y : Source) : (s.setSrc n x).setSrc n y = s.setSrc n y := by
  simp [State.setSrc]

/-- Settles O32. -/
theorem interruptCommands : Obligations.InterruptCommands := by
  refine ⟨⟨?sources, ?noPower, ?noPowerTargets, ?targets, ?groups, ?windows, ?delivery, ?noDelivery, ?noWindow⟩, ?settle⟩
  case sources =>
    intro s n v hup hn x to_
    have hset : exec (.eicSetpend n) s = .next ((s.setSrc n { x with swp := true }).follow n).eicSettle :=
      congrArg Host.Outcome.next ((if_pos hup).trans (if_neg hn))
    have hclr : exec (.eicClrpend n) s = .next ((s.setSrc n { x with swp := false }).follow n).eicSettle :=
      congrArg Host.Outcome.next ((if_pos hup).trans (if_neg hn))
    have hlev : exec (.sourceLevelChange n) s = .next ((s.setSrc n { x with level := s.sourceLevel n }).follow n).eicSettle :=
      congrArg Host.Outcome.next ((if_pos hup).trans (if_neg hn))
    have hbecomes {y : Source} (hy : y.st = .idle) (hon : (y.level || y.swp) = true) (hx : x.st = .idle) :
        s.Becomes n y (.next ((s.setSrc n y).follow n).eicSettle) := by
      rw [State.follow_pend hy hon]
      exact State.becomes_becomePending (by rw [show (s.eic.srcs.at n).st = .idle from hx]; nofun)
    have hto {y z : Source} (h : (s.setSrc n y).follow n = s.setSrc n z) : Host.Outcome.next ((s.setSrc n y).follow n).eicSettle = to_ z :=
      congrArg (fun w : State => Host.Outcome.next w.eicSettle) h
    rw [hset, hclr, hlev]
    refine ⟨fun h => hto (State.follow_on h (Bool.or_true _)), fun h => hbecomes h (Bool.or_true _) h,
      fun h hl => ?rise, fun h hl hs => ?latched, fun h => ?cleared, fun h hl => hbecomes h (by simp [hl]) h,
      fun h hl => hto (State.follow_fall h (by simp [hl])), fun hl h hs => ?fall, fun h => ?stay, ?config⟩
    case rise =>
      rw [hl]
      exact hbecomes h rfl h
    case latched =>
      rw [hl]
      exact hbecomes h hs h
    case cleared =>
      refine hto ?_
      rcases h with h | ⟨h, hl⟩ | ⟨h, hl⟩
      · exact State.follow_active h
      · exact State.follow_off h (by simp [hl])
      · exact State.follow_on h (by simp [hl])
    case fall =>
      rw [hl]
      exact hto (State.follow_fall h hs)
    case stay =>
      refine hto ?_
      rcases h with h | ⟨h, hon⟩ | ⟨h, hs, hl⟩
      · exact State.follow_active h
      · exact State.follow_on h (Bool.or_eq_true_iff.2 hon.symm)
      · exact State.follow_off h (by simp [hs, hl])
    case config => exact congrArg Host.Outcome.next ((if_pos hup).trans (if_neg hn))
  case noPower =>
    intro s n v h
    have hkeep {z : State} (hz : n = 0 → z = s) : Host.Outcome.next (if s.up then z else s) = (.next s : Host.Outcome State Fault Refusal) := by
      refine congrArg Host.Outcome.next ?_
      split
      · next hup => exact hz (h.resolve_left fun hd => (nomatch hd.symm.trans hup))
      · rfl
    exact ⟨hkeep fun hn => if_pos hn, hkeep fun hn => if_pos hn, hkeep fun hn => if_pos hn, hkeep fun hn => if_pos hn⟩
  case noPowerTargets =>
    intro s t g v h
    have hup : ¬ s.up = true := Bool.eq_false_iff.1 h
    exact ⟨congrArg Host.Outcome.next (if_neg hup), congrArg Host.Outcome.next (if_neg hup), congrArg Host.Outcome.next (if_neg hup),
      congrArg Host.Outcome.next (if_neg hup)⟩
  case targets =>
    intro s t v hup x tgt src
    have hclaim : exec (.eicClaim t) s = .next (s.claim t).2 := congrArg Host.Outcome.next (if_pos hup)
    have hcomplete : exec (.eicComplete t) s = .next (s.completeTop t s.sourceLevel).eicSettle := congrArg Host.Outcome.next (if_pos hup)
    have hcfg : exec (.targetConfigWrite t v) s = .next (s.targetCfg t v s.sourceLevel) := congrArg Host.Outcome.next (if_pos hup)
    rw [hclaim, hcomplete, hcfg]
    refine ⟨fun h => ?spurious, fun n h => ?claim, fun h => ?empty, fun n p r h => ?complete, fun h => ?config, fun h => ?disable⟩
    case spurious =>
      unfold State.claim
      rw [h]
      dsimp only
      refine congrArg (fun x => Host.Outcome.next { s with eic := { s.eic with spur := x } }) ?_
      exact if_ctx_congr Iff.rfl id fun _ => rfl
    case claim =>
      unfold State.claim
      rw [h]
      rfl
    case empty =>
      unfold State.completeTop
      rw [show (s.eic.targets.at t).stack = [] from h]
    case complete =>
      intro y z
      rw [State.completeTop_eq _ h]
      have hz : (s.setTarget t { x with stack := r }).setSrc n { s.eic.srcs.at n with st := .idle, level := s.sourceLevel n } = z := rfl
      refine ⟨fun h1 h2 => ?_, fun hon => ?_⟩
      · rw [State.follow_off rfl (Bool.or_eq_false_iff.2 ⟨h2, h1⟩), hz]
      · have hy : z.setSrc n y = z := by
          rw [← hz]
          exact State.setSrc_setSrc _ _ _ _
        have hb := State.becomes_becomePending (b := z) (n := n) (y := y) (by rw [← hz, State.setSrc_at]; nofun)
        rw [hy] at hb
        rw [State.follow_pend rfl (Bool.or_eq_true_iff.2 hon.symm), hz]
        exact hb
    case config =>
      refine congrArg (fun z : State => Host.Outcome.next z.eicSettle) ?_
      by_cases hv : bit v 0 = true
      · exact if_pos hv
      · refine (if_neg hv).trans ?_
        unfold State.emptyStack
        rw [State.modTarget_eq_setTarget, State.setTarget_at, show (s.eic.targets.at t).stack = [] from h.resolve_left hv]
        rfl
    case disable =>
      let s1 : State := s.modTarget t fun x => { x with cfg := v &&& if t.val < 16 then 0xFF81 else 0x3 }
      have hat : s1.eic.targets.at t = { x with cfg := v &&& if t.val < 16 then 0xFF81 else 0x3 } := Bank.at_mod_self _ _ _
      obtain ⟨⟨hframe, hself, hother, hsrc⟩, hstack⟩ := s1.emptied_emptyStack t s.sourceLevel
      refine ⟨s1.emptyStack t s.sourceLevel, congrArg (fun z : State => Host.Outcome.next z.eicSettle) (if_neg (Bool.eq_false_iff.1 h)),
        hframe, ?_, fun u hu => (hother u hu).trans (Bank.at_mod_ne _ _ hu), fun n => ?_⟩
      · rw [hself, hstack, hat]
      · have hn := hsrc n
        rw [hat] at hn
        exact hn
  case groups =>
    intro s g v hup m
    refine ⟨fun h => congrArg Host.Outcome.next ((if_pos hup).trans (if_pos h)), fun h => ?_⟩
    let m1 : ModGroup := { m with cfg := v &&& 0xC01FFFFF }
    have hcfg : ((s.setGroup g m1).release g).modGroup g (fun m => { m with win := none, free := none }) =
        (s.release g).modGroup g fun _ => { m1 with win := none, free := none } := by
      rw [State.release_setGroup, State.modGroup_eq_setGroup, State.modGroup_eq_setGroup, State.setGroup_at, State.setGroup_setGroup]
    obtain ⟨hframe, hat⟩ := s.release_modGroup g fun _ => { m1 with win := none, free := none }
    refine ⟨_, congrArg Host.Outcome.next ((if_pos hup).trans ((if_neg (Bool.eq_false_iff.1 h)).trans (congrArg State.eicSettle hcfg))), hframe, hat⟩
  case windows =>
    intro s t g w a m hw hup htick hdue
    have hexec : exec (.modWindowEnd t g) s = .next (match a.heldOf g with
        | [] => a.modGroup g fun m => { m with win := none }
        | _ => ((a.release g).modGroup g fun m => m.open_ (w + m.hold) (some a.now)).eicSettle) := by
      refine congrArg Host.Outcome.next ?_
      unfold State.modWindowEnd
      dsimp only
      rw [show ((s.advance t).eic.mods.at g).win = some w from hw]
      exact if_pos ⟨hup, htick, hdue⟩
    rw [hexec]
    refine ⟨fun h => ?_, fun h => ?_⟩
    · rw [h]
      rfl
    · obtain ⟨n, l, hl⟩ := List.exists_cons_of_ne_nil h
      obtain ⟨hframe, hat⟩ := a.release_modGroup g fun m => m.open_ (w + m.hold) (some a.now)
      exact ⟨(a.release g).modGroup g fun m => m.open_ (w + m.hold) (some a.now), by rw [hl], hframe, hat⟩
  case delivery =>
    intro s t after hup hreq hlow
    have hrise (z : State) (hz : s.eicSettle = z) (hup : z.up = true) (hreq : z.requestNow t = true)
        (hlow : (z.eic.targets.at t).req = false) : exec (.eicDelivery t) s = .next (after z) :=
      congrArg Host.Outcome.next (State.deliver_rise hz hup hreq hlow)
    have hafter := hrise s.eicSettle rfl (s.attended_eicSettle.up.trans hup) hreq hlow
    exact ⟨hafter, fun h => hafter.trans (by rw [h])⟩
  case noDelivery =>
    intro s t h
    exact congrArg Host.Outcome.next (State.deliver_none rfl h)
  case noWindow =>
    intro s t g h
    refine congrArg Host.Outcome.next ?_
    unfold State.modWindowEnd
    dsimp only
    rw [h]
  case settle =>
    intro s
    obtain ⟨hframe, heic, hsrc, horph, htarget, hcfg, hreq, hhalf⟩ := s.attended_eicSettle
    refine ⟨s.eicSettle.eic, s.eicSettle.power.halves, s.eicSettle.dbg.emu, hframe, ?_, ?_, ?_, hsrc, horph, htarget, hcfg,
      fun t ht => ⟨hreq t ht, State.requestNow_of_req ht⟩, fun i => hhalf i⟩
    · exact (congrArg Eic.ieOrph heic :)
    · exact (congrArg Eic.spur heic :)
    · exact (congrArg Eic.mods heic :)

end Sys2Proof.Machine

namespace Sys2Proof.Machine

/-! The state with one timer set. -/

section
variable (s : State) (n : Fin 64) (x y : Timer)

def State.setTimer : State := { s with ta := { s.ta with timers := s.ta.timers.upd n x } }

@[simp] theorem State.setTimer_at : (s.setTimer n x).ta.timers.at n = x := Bank.at_upd_self _ _ _

theorem State.setTimer_at_ne {k : Fin 64} (h : k ≠ n) : (s.setTimer n x).ta.timers.at k = s.ta.timers.at k := Bank.at_upd_ne _ _ h

theorem State.modTimer_eq_setTimer (f : Timer → Timer) : s.modTimer n f = s.setTimer n (f (s.ta.timers.at n)) := rfl

theorem State.modTimer_setTimer (f : Timer → Timer) : (s.setTimer n x).modTimer n f = s.setTimer n (f x) := by
  simp [State.setTimer, State.modTimer, State.modTa, Bank.mod_eq]

theorem State.setTimer_self : s.setTimer n (s.ta.timers.at n) = s := by
  unfold State.setTimer
  rw [Bank.upd_at]

theorem State.modTimer_of_same {f : Timer → Timer} (h : f (s.ta.timers.at n) = s.ta.timers.at n) : s.modTimer n f = s := by
  rw [State.modTimer_eq_setTimer, h, State.setTimer_self]

end

/-! R470 to R473, R480: what a timer does. -/

section
variable {x : Timer}

theorem Timer.start_of_stop (h : x.st = .stop) (now : W64) :
    x.start now = { x with st := .run, next := now + BitVec.ofNat 64 (fldN x.cfg 16 16 + 1), chain := none } := if_pos h

theorem Timer.start_of_ne (h : x.st ≠ .stop) (now : W64) : x.start now = x := if_neg h

theorem Timer.stop_of_live (h : x.st = .run ∨ x.st = .frozen) : x.stop = { x with st := .stop, chain := none } := by
  unfold Timer.stop
  rcases h with h | h <;> rw [h]

theorem Timer.stop_of_idle (h : x.st = .off ∨ x.st = .stop) : x.stop = x := by
  unfold Timer.stop
  rcases h with h | h <;> rw [h]

theorem Timer.reload_of_on (h : x.st ≠ .off) : x.reload = { x with cnt := if fldN x.cfg 5 2 = 0 then x.lim else 0, satd := false } := if_neg h

theorem Timer.reload_of_off (h : x.st = .off) : x.reload = x := if_pos h

/-- R479: the halts of `n` (north) and `s` (south) stop the timer. -/
def Timer.Stops (x : Timer) (n s : Prop) : Prop :=
  (fldN x.cfg 13 2 = 1 ∧ n) ∨ (fldN x.cfg 13 2 = 2 ∧ s) ∨ (fldN x.cfg 13 2 = 3 ∧ (n ∨ s))

theorem Timer.freezes_iff (x : Timer) (n s : Bool) : x.freezes n s = true ↔ x.Stops (n = true) (s = true) := by
  unfold Timer.freezes Timer.Stops Timer.frz
  have h := (x.cfg.extractLsb' 13 2).isLt
  rw [show (x.cfg.extractLsb' 13 2).toNat = fldN x.cfg 13 2 from rfl] at h
  generalize fldN x.cfg 13 2 = m at h ⊢
  interval_cases m <;> simp

theorem Timer.freeze_spec (x : Timer) (n s : Bool) (now : W64) :
    (x.st = .run → x.Stops (n = true) (s = true) → x.freeze n s now = { x with st := .frozen, left := x.next - now }) ∧
    (x.st = .frozen → ¬ x.Stops (n = true) (s = true) → x.freeze n s now = { x with st := .run, next := now + x.left }) ∧
    (x.st = .off ∨ x.st = .stop ∨ (x.st = .run ∧ ¬ x.Stops (n = true) (s = true)) ∨ (x.st = .frozen ∧ x.Stops (n = true) (s = true)) →
      x.freeze n s now = x) := by
  simp only [← Timer.freezes_iff]
  unfold Timer.freeze
  cases x.freezes n s <;> cases hst : x.st <;> simp

theorem Timer.step_spec (x : Timer) (h : Nat) :
    let m := fldN x.cfg 5 2
    let wraps : Prop := (m = 0 ∧ x.cnt = 0) ∨ (m = 1 ∧ x.lim ≤ x.cnt) ∨ (2 ≤ m ∧ x.cnt = 0xFFFFFFFF)
    let c : W32 := if m = 0 then (if x.cnt = 0 then x.lim else x.cnt - 1) else if m = 1 ∧ x.lim ≤ x.cnt then 0 else x.cnt + 1
    let hit : Option Nat := if c = x.cmp then some h else x.match_
    (wraps → bit x.cfg 15 = true → x.step h = { x with satd := true, sat := x.sat || !x.satd }) ∧
    (wraps → bit x.cfg 15 = false →
      x.step h = { x with cnt := c, co := some (h, decide (m = 1 ∧ x.lim < x.cnt)), match_ := hit }) ∧
    (¬ wraps → x.step h = { x with cnt := c, match_ := hit }) := by
  unfold Timer.step Timer.mode Timer.satEn
  dsimp only
  generalize fldN x.cfg 5 2 = m
  match m with
  | 0 => refine ⟨fun hw hs => ?_, fun hw hs => ?_, fun hw => ?_⟩ <;> simp_all
  | 1 => refine ⟨fun hw hs => ?_, fun hw hs => ?_, fun hw => ?_⟩ <;> simp_all [-BitVec.not_le]
  | k + 2 => refine ⟨fun hw hs => ?_, fun hw hs => ?_, fun hw => ?_⟩ <;> simp_all

end

/-! R479: the freeze of the timers. -/

theorem State.halted_iff (s : State) (h : Fin 2) : s.halted h = true ↔ ∃ q, seqHalf q = h ∧ (s.seqs.at q).st = .halt := by
  refine List.any_eq_true.trans ⟨fun ⟨q, _, hq⟩ => ⟨q, ?_⟩, fun ⟨q, hq⟩ => ⟨q, List.mem_ofFn.2 ⟨q, rfl⟩, ?_⟩⟩
  · simpa using hq
  · simpa using hq

theorem State.refreeze_spec (s : State) : ∃ x d, s.refreeze = { s with ta := { s.ta with timers := x, dogs := d } } ∧
    ∀ n, x.at n = (s.ta.timers.at n).freeze (s.halted 0) (s.halted 1) s.now :=
  ⟨_, _, rfl, fun _ => Bank.at_map _ _ _⟩

/-! R468, R472, R477, R480: ticks, actions and writes. -/

section
variable {s z : State} {n : Fin 64}

theorem State.taTick_ticking (s : State) (n : Fin 64) : (s.taTick n).ticking = s.ticking := by
  have h : (s.taTick n).beryl = s.beryl := (s.taTick_changes n).same .beryl rfl
  unfold State.ticking
  rw [h]

theorem State.taTick_now (s : State) (n : Fin 64) : (s.taTick n).now = s.now := by
  have h : (s.taTick n).beryl = s.beryl := (s.taTick_changes n).same .beryl rfl
  unfold State.now
  rw [h]

theorem State.taCtrl_start (hz : s.taTick n = z) (ht : z.ticking = true) :
    s.taCtrl n 1 = (z.setTimer n ((z.ta.timers.at n).start z.now)).refreeze := by
  unfold State.taCtrl
  dsimp only
  rw [hz, ht]
  rfl

theorem State.taCtrl_stop (hz : s.taTick n = z) (ht : z.ticking = true) : s.taCtrl n 2 = z.setTimer n (z.ta.timers.at n).stop := by
  unfold State.taCtrl
  dsimp only
  rw [hz, ht]
  rfl

/-- R480: in HOLD a timer neither starts nor stops. -/
theorem State.taCtrl_held (hz : s.taTick n = z) (ht : z.ticking = false) : s.taCtrl n 1 = z ∧ s.taCtrl n 2 = z := by
  unfold State.taCtrl
  dsimp only
  rw [hz, ht]
  exact ⟨rfl, rfl⟩

theorem State.taCtrl_reload (hz : s.taTick n = z) : s.taCtrl n 4 = z.setTimer n (z.ta.timers.at n).reload := by
  unfold State.taCtrl
  dsimp only
  rw [hz]
  rfl

end

theorem bit_taCfgMask (v : W32) : bit (v &&& taCfgMask) 0 = bit v 0 := by simp [bit, taCfgMask]

theorem fldN_taCfgMask (v : W32) : fldN (v &&& taCfgMask) 5 2 = fldN v 5 2 ∧ fldN (v &&& taCfgMask) 7 2 = fldN v 7 2 := by
  constructor <;> refine congrArg BitVec.toNat (BitVec.eq_of_getLsbD_eq fun i hi => ?_) <;> interval_cases i <;> simp [taCfgMask]

section
variable {s z : State} {n : Fin 64} {v : W32}

/-- R480: a timer in OFF is enabled or turned away. -/
theorem State.taCfg_off (hst : (s.ta.timers.at n).st = .off) (hv : bit v 0 = true) : s.taCfg n v =
    (s.setTimer n (if fldN v 5 2 = 3 ∨ fldN v 7 2 = 3 ∨ (fldN v 7 2 = 2 ∧ n.val % 2 = 0) then
        { s.ta.timers.at n with cfg := v &&& taCfgMask &&& ~~~1, cfgErr := true }
      else { s.ta.timers.at n with cfg := v &&& taCfgMask, st := .stop })).refreeze := by
  refine congrArg (fun y : Timer => (s.setTimer n y).refreeze) ?_
  refine (if_pos hst).trans ((if_pos ((bit_taCfgMask v).trans hv)).trans (if_congr ?_ rfl rfl))
  unfold Timer.mode Timer.src
  dsimp only
  rw [(fldN_taCfgMask v).1, (fldN_taCfgMask v).2]

/-- R480, R481: a timer is disabled. -/
theorem State.taCfg_disable (hst : (s.ta.timers.at n).st ≠ .off) (hv : bit v 0 = false) : s.taCfg n v =
    (s.setTimer n { s.ta.timers.at n with
      cfg := mrg taLiveMask (s.ta.timers.at n).cfg (v &&& taCfgMask)
      cfgIgn := (s.ta.timers.at n).cfgIgn || decide (((s.ta.timers.at n).cfg ^^^ (v &&& taCfgMask)) &&& ~~~taLiveMask ≠ 0)
      st := .off, co := none, match_ := none, chain := none }).refreeze := by
  refine congrArg (fun y : Timer => (s.setTimer n y).refreeze) ?_
  exact (if_neg hst).trans (if_neg (Bool.eq_false_iff.1 ((bit_taCfgMask v).trans hv)))

/-- R477: the carry of a timer without event, chained timer or action. -/
theorem State.taFireCo_quiet {x : Timer} (hop : Nat) (late : Bool) (h15 : bit x.evt 15 = false) (hact : fldN x.act 22 2 = 0)
    (hn : n.val % 2 = 1) : (z.setTimer n x).taFireCo n hop late = z.setTimer n { x with coF := true, late := x.late || late, co := none } := by
  unfold State.taFireCo
  simp only [State.setTimer_at, State.modTimer_setTimer, h15, hact, hn, Bool.false_eq_true, if_false, one_ne_zero]
  rfl

/-- R472, R473: a write of LIM. -/
theorem State.taLim_eq {x : Timer} (hz : s.taTick n = z) (hx : z.ta.timers.at n = x) (v : W32) : s.taLim n v =
    if x.st ≠ .off ∧ fldN x.cfg 5 2 = 1 ∧ v < x.cnt then (z.setTimer n { x with lim := v, cnt := 0 }).taFireCo n 0 true
    else z.setTimer n { x with lim := v } := by
  subst hx
  unfold State.taLim
  dsimp only
  rw [hz]
  exact if_congr Iff.rfl (congrArg (fun y : State => y.taFireCo n 0 true) (State.modTimer_setTimer _ _ _ _)) rfl

/-- R473: a period written below the count ends at once. -/
theorem State.taLim_below {x : Timer} (hz : s.taTick n = z) (hx : z.ta.timers.at n = x) (hst : x.st ≠ .off) (hm : fldN x.cfg 5 2 = 1)
    (hv : v < x.cnt) (h15 : bit x.evt 15 = false) (hact : fldN x.act 22 2 = 0) (hn : n.val % 2 = 1) :
    s.taLim n v = z.setTimer n { x with lim := v, cnt := 0, coF := true, late := true, co := none } := by
  rw [State.taLim_eq hz hx, if_pos ⟨hst, hm, hv⟩, State.taFireCo_quiet (x := { x with lim := v, cnt := 0 }) 0 true h15 hact hn]
  dsimp only
  rw [Bool.or_true]

end

section
variable {s : State} {n : Fin 64}

theorem State.taAction_start {z : State} (hz : s.taTick n = z) (hb : z.ticking = true) : s.taAction 1 n =
    (z.modTimer n fun x => if x.stopAt = some z.now then x else x.start z.now).refreeze := by
  unfold State.taAction
  dsimp only
  rw [if_neg one_ne_zero, hz, hb]
  rfl

theorem State.taAction_stop {z : State} (hz : s.taTick n = z) (hb : z.ticking = true) : s.taAction 2 n =
    z.modTimer n fun x => { x.stop with stopAt := some z.now } := by
  unfold State.taAction
  dsimp only
  rw [if_neg two_ne_zero, hz, hb]
  rfl

theorem State.taAction_held {z : State} (hz : s.taTick n = z) (hb : z.ticking = false) : s.taAction 1 n = z ∧ s.taAction 2 n = z := by
  unfold State.taAction
  dsimp only
  rw [if_neg one_ne_zero, if_neg two_ne_zero, hz, hb]
  exact ⟨rfl, rfl⟩

theorem State.taAction_reload {z : State} (hz : s.taTick n = z) : s.taAction 3 n = z.modTimer n Timer.reload := by
  unfold State.taAction
  dsimp only
  rw [if_neg three_ne_zero, hz]
  rfl

theorem State.taTick_of_src (hup : s.up = true) (ht : s.ticking = true) (hst : (s.ta.timers.at n).st = .run) : s.taTick n =
    match fldN (s.ta.timers.at n).cfg 7 2 with
    | 0 => if notBefore s.now (s.ta.timers.at n).next then
        s.setTimer n (({ s.ta.timers.at n with next := (s.ta.timers.at n).next + BitVec.ofNat 64 (s.ta.timers.at n).pre } : Timer).step 0)
      else s
    | 1 => match s.takeHw (1024 + n.val) with
      | (none, _) => s
      | (some h, s1) => s1.modTimer n fun x => x.step (1 + h)
    | _ => match (s.ta.timers.at n).chain with
      | some h => s.setTimer n (({ s.ta.timers.at n with chain := none } : Timer).step h)
      | none => s := by
  unfold State.taTick State.taLive Timer.src
  dsimp only
  exact if_pos ⟨Bool.and_eq_true_iff.2 ⟨hup, ht⟩, hst⟩

/-- R498: a consumer of a ns takes the oldest count once. -/
theorem State.takeHw_cons (hup : s.up = true) (ht : s.ticking = true) {t h : Nat} {r : List Nat} (hp : s.sn.pending t = h :: r) :
    s.takeHw t = if t ∈ (if s.sn.tookNs = some s.now then s.sn.took else []) then (none, s)
      else (some h, { s with sn := { s.sn.setPending t r with
        took := t :: (if s.sn.tookNs = some s.now then s.sn.took else []), tookNs := some s.now } }) := by
  have hguard : (decide (s.sn.tookNs = some s.now) && s.sn.took.contains t) =
      decide (t ∈ (if s.sn.tookNs = some s.now then s.sn.took else [])) := by
    split <;> simp [*]
  unfold State.takeHw State.takeCount
  rw [hup, ht, hp, hguard]
  by_cases hm : t ∈ (if s.sn.tookNs = some s.now then s.sn.took else [])
  · rw [if_pos hm]
    exact if_pos (by simp [hm])
  · rw [if_neg hm]
    exact if_neg (by simp [hm])

end

theorem State.fired_eq (s : State) (on : Bool) (ch hop : Nat) : (if on then s.fireHop true ch hop else s) =
    { s with sn := { s.sn with fired := if on then
      s.sn.fired ++ [{ ch := Fin.ofNat 256 ch, hop := hop, fired := some s.beryl.td0 }] else s.sn.fired } } := by
  cases on <;> rfl

/-- R477: timer `y` as its even neighbour carries with the hop `hop`. -/
def Timer.chained (y : Timer) (hop : Nat) : Timer := if y.st = .run ∧ y.src = 2 then { y with chain := some hop } else y

/-- R469, R473: what the carry of timer `n` leaves before its action. -/
def State.carried (s : State) (n : Fin 64) (hop : Nat) (late : Bool) : State :=
  let x := s.ta.timers.at n
  let s1 := s.setTimer n { x with coF := true, late := x.late || late, co := none }
  let s2 := if bit x.evt 15 then s1.fireHop true (fldN x.evt 0 8) hop else s1
  if n.val % 2 = 0 then s2.modTimer (Fin.ofNat 64 (n.val + 1)) fun y => y.chained hop else s2

theorem State.taFireCo_eq (s : State) (n : Fin 64) (hop : Nat) (late : Bool) : s.taFireCo n hop late =
    (s.carried n hop late).taAction (fldN (s.ta.timers.at n).act 22 2) (Fin.ofNat 64 (fldN (s.ta.timers.at n).act 16 6)) := rfl

theorem State.carried_eq (s : State) (n : Fin 64) (hop : Nat) (late : Bool) :
    let z := s.carried n hop late
    let x := s.ta.timers.at n
    z = { s with
      ta := { s.ta with timers := z.ta.timers }
      sn := { s.sn with fired := if bit x.evt 15 then
        s.sn.fired ++ [{ ch := Fin.ofNat 256 (fldN x.evt 0 8), hop := hop, fired := some s.beryl.td0 }] else s.sn.fired } } := by
  unfold State.carried
  simp only [State.fired_eq]
  split <;> rfl

theorem State.carried_at (s : State) (n k : Fin 64) (hop : Nat) (late : Bool) : (s.carried n hop late).ta.timers.at k =
    let y := (s.setTimer n { s.ta.timers.at n with coF := true, late := (s.ta.timers.at n).late || late, co := none }).ta.timers.at k
    if n.val % 2 = 0 ∧ k.val = n.val + 1 then y.chained hop else y := by
  have hta (on : Bool) (z : State) (ch : Nat) : (if on then z.fireHop true ch hop else z).ta = z.ta := by cases on <;> rfl
  unfold State.carried
  dsimp only
  by_cases hn : n.val % 2 = 0
  · have hk : k = Fin.ofNat 64 (n.val + 1) ↔ k.val = n.val + 1 := by
      rw [Fin.ext_iff]
      simp only [Fin.ofNat]
      omega
    rw [if_pos hn]
    refine (Bank.at_mod _ (Fin.ofNat 64 (n.val + 1)) k fun y : Timer => y.chained hop).trans ?_
    rw [hta]
    exact if_congr (hk.trans (and_iff_right hn).symm) rfl rfl
  · rw [if_neg hn, hta]
    exact (if_neg fun h => hn h.1).symm

/-- Settles O34. -/
theorem timerControl : Obligations.TimerControl := by
  refine ⟨⟨?writes, ?shared, ?freeze⟩, ?tick, fun x h => x.step_spec h, ?events, ?actions, ?stagger⟩
  case writes =>
    intro s n v hup x put to_ w bad
    have hen : exec (.timerEnable n v) s = .next (if s.up ∧ !(s.ta.timers.at n).en ∧ bit v 0 then s.taCfg n v else s) := rfl
    have hdis : exec (.timerDisable n v) s = .next (if s.up ∧ (s.ta.timers.at n).en ∧ !bit v 0 then s.taCfg n v else s) := rfl
    refine ⟨fun hst h0 h1 hbad => ?cfgErr, fun hst h0 h1 hok => ?enable, fun hst h0 h1 => ?disable, ?ctrl, fun who => ?cnt⟩
    case cfgErr =>
      refine congrArg Host.Outcome.next ((if_pos ⟨hup, (congrArg (! ·) h0 :), h1⟩).trans ((State.taCfg_off hst h1).trans ?_))
      exact congrArg (fun y : Timer => (s.setTimer n y).refreeze) (if_pos hbad)
    case enable =>
      refine congrArg Host.Outcome.next ((if_pos ⟨hup, (congrArg (! ·) h0 :), h1⟩).trans ((State.taCfg_off hst h1).trans ?_))
      exact congrArg (fun y : Timer => (s.setTimer n y).refreeze) (if_neg hok)
    case disable =>
      exact congrArg Host.Outcome.next ((if_pos ⟨hup, h0, (congrArg (! ·) h1 :)⟩).trans (State.taCfg_disable hst h1))
    case ctrl =>
      intro z x put to_
      have hz : s.taTick n = z := rfl
      have hticking : z.ticking = s.ticking := s.taTick_ticking n
      have hnow : z.now = s.now := s.taTick_now n
      clear_value z
      have hself : put x = z := z.setTimer_self n
      have hstart : exec (.timerStart n) s = .next (s.taCtrl n 1) := congrArg Host.Outcome.next (if_pos hup)
      have hstop : exec (.timerStop n) s = .next (s.taCtrl n 2) := congrArg Host.Outcome.next (if_pos hup)
      have hreload : exec (.timerReloadNow n) s = .next (put x.reload) :=
        congrArg Host.Outcome.next ((if_pos hup).trans (State.taCtrl_reload hz))
      have hlim : exec (.timerLimWrite n v) s = .next (s.taLim n v) := congrArg Host.Outcome.next (if_pos hup)
      rw [hstart, hstop, hreload, hlim]
      refine ⟨fun hst ht => ?start, fun hst ht => ?on, fun hst ht => ?stop, fun hst => ?idle, fun ht => ?hold,
        fun hst => ?reload, fun hst => ?off, fun h => ?lim, fun hst hm hv h15 hact hn => ?below⟩
      case start =>
        rw [State.taCtrl_start hz (hticking.trans ht), Timer.start_of_stop hst, hnow]
        rfl
      case on =>
        rw [State.taCtrl_start hz (hticking.trans ht), Timer.start_of_ne hst]
        exact congrArg (fun y : State => Host.Outcome.next y.refreeze) hself
      case stop =>
        rw [State.taCtrl_stop hz (hticking.trans ht), Timer.stop_of_live hst]
        rfl
      case idle =>
        cases ht : z.ticking with
        | false => rw [(State.taCtrl_held hz ht).2]
        | true =>
          rw [State.taCtrl_stop hz ht, Timer.stop_of_idle hst]
          exact congrArg Host.Outcome.next hself
      case hold =>
        obtain ⟨h1, h2⟩ := State.taCtrl_held hz (hticking.trans ht)
        exact ⟨congrArg Host.Outcome.next h1, congrArg Host.Outcome.next h2⟩
      case reload =>
        rw [Timer.reload_of_on hst]
      case off =>
        rw [Timer.reload_of_off hst, hself]
      case lim =>
        refine congrArg Host.Outcome.next ((State.taLim_eq hz rfl v).trans (if_neg fun ⟨h1, h2, h3⟩ => ?_))
        rcases h with h | h | h
        · exact h1 h
        · exact h h2
        · exact BitVec.not_lt.2 h h3
      case below =>
        exact congrArg Host.Outcome.next (State.taLim_below hz rfl hst hm hv h15 hact hn)
    case cnt =>
      intro pair shadow
      have hexec : exec (.timerCntRead who n) s = .next (s.taCntRead who n).2 := congrArg Host.Outcome.next (if_pos hup)
      rw [hexec]
      refine ⟨fun hl => ?unlatched, fun hl hn => ?even, fun c hl hn hsh => ?odd⟩
      case unlatched => exact if_pos (congrArg (! ·) hl :)
      case even =>
        have h : s.taCntRead who n = (x.cnt, { s with ta := { s.ta with
            shadows := s.ta.shadows.upd who.slot (some (pair, (s.ta.timers.at (Fin.ofNat 64 (n.val + 1))).cnt)) } }) :=
          (if_neg (Bool.eq_false_iff.1 (congrArg (! ·) hl :))).trans (if_pos hn)
        rw [h]
        exact ⟨rfl, rfl⟩
      case odd =>
        have h : s.taCntRead who n = (c, { s with ta := { s.ta with shadows := s.ta.shadows.upd who.slot none } }) := by
          refine (if_neg (Bool.eq_false_iff.1 (congrArg (! ·) hl :))).trans ((if_neg (by omega)).trans ?_)
          rw [hsh]
          exact if_pos rfl
        rw [h]
        exact ⟨rfl, rfl⟩
  case shared =>
    intro s mask hup ta
    have hsnap : exec .timerSnapshot s = .next s.taSnap := congrArg Host.Outcome.next (if_pos hup)
    have hgo : exec (.staggerGo mask) s = .next (s.stagGo mask) := congrArg Host.Outcome.next (if_pos hup)
    rw [hsnap, hgo]
    refine ⟨fun ht h => congrArg Host.Outcome.next (if_pos ⟨ht, h⟩), fun h => ?_, fun h => ?_, fun h hb => ?_, fun h hb => ?_,
      congrArg Host.Outcome.next (if_pos hup)⟩
    · refine ⟨_, congrArg Host.Outcome.next (if_neg fun ⟨ht, h'⟩ => ?_), fun n => Bank.at_map _ _ _⟩
      exact h.elim (fun hf => (nomatch hf.symm.trans ht)) fun hne => hne h'
    · exact congrArg ta (if_pos (Option.isSome_iff_ne_none.2 h))
    · exact congrArg ta ((if_neg (by rw [h]; exact Bool.false_ne_true)).trans (if_pos hb))
    · exact congrArg ta ((if_neg (by rw [h]; exact Bool.false_ne_true)).trans (if_neg (Bool.eq_false_iff.1 hb)))
  case freeze =>
    intro s halted stops
    obtain ⟨x, d, heq, hx⟩ := s.refreeze_spec
    refine ⟨x, d, heq, fun n => ?_⟩
    have hstops (y : Timer) : y.Stops (s.halted 0 = true) (s.halted 1 = true) ↔ stops y := by
      unfold Timer.Stops stops
      rw [State.halted_iff, State.halted_iff]
    have := (s.ta.timers.at n).freeze_spec (s.halted 0) (s.halted 1) s.now
    rw [hstops, ← hx n] at this
    exact this
  case tick =>
    intro s t n a x to_ hup htick hst
    have hexec : exec (.timerTick t n) s = .next (a.taTick n) := rfl
    refine ⟨fun hsrc hn => ?due, fun hsrc hn => ?early, fun h r hsrc hp => ?count, fun h hsrc hc => ?chain⟩
    case due =>
      rw [hexec, State.taTick_of_src hup htick hst]
      rw [show fldN (a.ta.timers.at n).cfg 7 2 = 0 from hsrc]
      exact congrArg Host.Outcome.next (if_pos hn)
    case early =>
      rw [hexec, State.taTick_of_src hup htick hst]
      rw [show fldN (a.ta.timers.at n).cfg 7 2 = 0 from hsrc]
      exact congrArg Host.Outcome.next (if_neg (Bool.eq_false_iff.1 hn))
    case count =>
      intro took
      rw [hexec, State.taTick_of_src hup htick hst]
      rw [show fldN (a.ta.timers.at n).cfg 7 2 = 1 from hsrc]
      dsimp only
      rw [State.takeHw_cons hup htick hp]
      by_cases hm : 1024 + n.val ∈ took
      · rw [if_pos hm]
        exact (if_pos hm).symm
      · rw [if_neg hm]
        exact (if_neg hm).symm
    case chain =>
      have hchain (m : Nat) : fldN (a.ta.timers.at n).cfg 7 2 = m + 2 → exec (.timerTick t n) s = to_ (({ x with chain := none } : Timer).step h) := by
        intro hm
        rw [hexec, State.taTick_of_src hup htick hst, hm]
        dsimp only
        rw [show (a.ta.timers.at n).chain = some h from hc]
        rfl
      obtain ⟨m, hm⟩ := Nat.exists_eq_add_of_le hsrc
      exact (hchain m (hm.trans (Nat.add_comm 2 m)))
  case events =>
    intro s n h x fired
    refine ⟨fun late hco => ?carry, fun hm => ?match_, fun hco => ?noCarry, fun hm => ?noMatch⟩
    case carry =>
      refine ⟨s.carried n h late, congrArg Host.Outcome.next ?_, s.carried_eq n h late, ?_, fun k hk => ?_⟩
      · unfold State.taCarry
        rw [show (s.ta.timers.at n).co = some (h, late) from hco]
        exact s.taFireCo_eq n h late
      · rw [State.carried_at]
        exact (if_neg (by omega)).trans (s.setTimer_at n _)
      · rw [State.carried_at, State.setTimer_at_ne _ _ _ hk]
        by_cases hc : n.val % 2 = 0 ∧ k.val = n.val + 1
        · rw [if_pos hc]
          exact if_congr (by rw [and_iff_right hc.1, and_iff_right hc.2]; rfl) rfl rfl
        · rw [if_neg hc]
          exact (if_neg fun hh => hc ⟨hh.1, hh.2.1⟩).symm

    case match_ =>
      refine congrArg Host.Outcome.next ?_
      unfold State.taMatch
      dsimp only
      rw [show (s.ta.timers.at n).match_ = some h from hm]
      dsimp only
      rw [State.fired_eq]
      rfl
    case noCarry =>
      refine congrArg Host.Outcome.next ?_
      unfold State.taCarry
      rw [show (s.ta.timers.at n).co = none from hco]
    case noMatch =>
      refine congrArg Host.Outcome.next ?_
      unfold State.taMatch
      dsimp only
      rw [show (s.ta.timers.at n).match_ = none from hm]
  case actions =>
    intro s n z x put
    have hz : s.taTick n = z := rfl
    have hticking : z.ticking = s.ticking := s.taTick_ticking n
    have hnow : z.now = s.now := s.taTick_now n
    clear_value z
    refine ⟨?none, fun ht => ?held, fun ht => ⟨fun hs hst => ?start, fun h => ?still, fun hst => ?stop⟩, fun hst => ?reload⟩
    case none => rfl
    case held => exact State.taAction_held hz (hticking.trans ht)
    case start =>
      rw [← hnow] at hs ⊢
      refine (State.taAction_start hz (hticking.trans ht)).trans (congrArg (fun y : Timer => (put y).refreeze) ?_)
      exact (if_neg hs).trans (Timer.start_of_stop hst _)
    case still =>
      rw [← hnow] at h
      refine (State.taAction_start hz (hticking.trans ht)).trans (congrArg State.refreeze (z.modTimer_of_same n ?_))
      split
      · rfl
      · next hne => exact Timer.start_of_ne (h.resolve_left hne) _
    case stop =>
      rw [← hnow]
      exact (State.taAction_stop hz (hticking.trans ht)).trans (congrArg (fun y : Timer => put { y with stopAt := some z.now }) (Timer.stop_of_live hst))
    case reload =>
      exact (State.taAction_reload hz).trans (congrArg put (Timer.reload_of_on hst))
  case stagger =>
    intro s t g a hup htick hg hdue
    refine ⟨a.modTa fun t => { t with
        pend := none
        timers := t.timers.map fun x =>
          if x.st = .stop ∧ x.grpEn ∧ g.mask.getLsbD x.grp then
            { x with st := .run, cnt := x.phase, next := g.at_ + BitVec.ofNat 64 x.pre, chain := none }
          else x }, congrArg Host.Outcome.next ?_, rfl, fun n => Bank.at_map _ _ _⟩
    unfold State.stagStart
    rw [show (s.advance t).ta.pend = some g from hg]
    exact if_pos ⟨Bool.and_eq_true_iff.2 ⟨hup, htick⟩, hdue⟩

end Sys2Proof.Machine

namespace Sys2Proof.Machine

/-! R482, R483: absolute compares. -/

section
variable {s : State} {k : Fin 32} {x : Compare}

def State.setAc (s : State) (k : Fin 32) (x : Compare) : State := { s with ta := { s.ta with compares := s.ta.compares.upd k x } }

theorem State.modAc_eq_setAc (f : Compare → Compare) (hx : s.ta.compares.at k = x) : s.modAc k f = s.setAc k (f x) := by
  subst hx
  rfl

theorem State.modAc_setAc (s : State) (k : Fin 32) (x : Compare) (f : Compare → Compare) : (s.setAc k x).modAc k f = s.setAc k (f x) := by
  simp [State.setAc, State.modAc, State.modTa, Bank.mod_eq]

/-- R483: ARM in IDLE. -/
theorem State.acCtrl_arm (hx : s.ta.compares.at k = x) (hst : x.st = .idle) : s.acCtrl k 1 = s.setAc k { x with
    st := .armed, lateNext := s.acReached x, from_ := if s.acReached x then s.now + 1 else s.now } := by
  subst hx
  exact if_pos ⟨rfl, hst⟩

theorem State.acCtrl_arm_idle (hx : s.ta.compares.at k = x) (hst : x.st ≠ .idle) : s.acCtrl k 1 = s := by
  subst hx
  exact if_neg fun h => hst h.2

theorem State.acCtrl_disarm (hx : s.ta.compares.at k = x) : s.acCtrl k 2 =
    s.setAc k (if x.st = .armed then { x with st := .idle, lateNext := false } else x) := by
  subst hx
  rfl

/-- R482: a compare that has fired, before its event and its action. -/
def State.acFired (s : State) (k : Fin 32) (x : Compare) : State :=
  if x.inc = 0 then s.setAc k { x with fired := true, late := x.late || x.lateNext, st := .idle, lateNext := false }
  else (s.setAc k { x with fired := true, late := x.late || x.lateNext, val := x.val + x.inc.setWidth 64 }).acArm k

theorem State.acFired_eq (s : State) (k : Fin 32) (hst : x.st = .armed) : ∃ y, s.acFired k x = s.setAc k y ∧
    (x.inc = 0 → y = { x with fired := true, late := x.late || x.lateNext, st := .idle, lateNext := false }) ∧
    (x.inc ≠ 0 → y = { x with fired := true, late := x.late || x.lateNext, val := x.val + x.inc.setWidth 64
                              lateNext := y.lateNext, from_ := y.from_ }) := by
  unfold State.acFired
  by_cases h : x.inc = 0
  · rw [if_pos h]
    exact ⟨_, rfl, fun _ => rfl, fun hn => absurd h hn⟩
  · rw [if_neg h]
    refine ⟨_, State.modAc_setAc _ _ _ _, fun hz => absurd hz h, fun _ => ?_⟩
    dsimp only
    rw [hst]

theorem State.acFire_eq (hx : s.ta.compares.at k = x) (hlive : s.taLive = true) (hst : x.st = .armed) (hn : notBefore s.now x.from_ = true)
    (hv : s.acReached x = true) : s.acFire k =
    (if bit x.cfg 23 then (s.acFired k x).fireHop true (fldN x.cfg 24 8) 0 else s.acFired k x).taAction
      (fldN x.cfg 21 2) (Fin.ofNat 64 (fldN x.cfg 15 6)) := by
  subst hx
  unfold State.acFire
  refine (if_pos ⟨hlive, hst, hn, hv⟩).trans ?_
  have h (b : Bool) {y z : State} (hy : y = z) : (if b then y.fireHop true (fldN (s.ta.compares.at k).cfg 24 8) 0 else y) =
      if b then z.fireHop true (fldN (s.ta.compares.at k).cfg 24 8) 0 else z := by rw [hy]
  refine congrArg (fun y : State => y.taAction _ _) (h _ ?_)
  unfold State.acFired
  refine if_congr Iff.rfl ?_ ?_
  · exact State.modAc_setAc _ _ _ _
  · exact congrArg (fun y : State => y.acArm k) (State.modAc_setAc _ _ _ _)

end

/-! R485 to R487: watchdogs. -/

section
variable {s : State} {w : Fin 2} {x : Watchdog}

def State.setWd (s : State) (w : Fin 2) (x : Watchdog) : State := { s with ta := { s.ta with dogs := s.ta.dogs.upd w x } }

theorem State.modWd_setWd (s : State) (w : Fin 2) (x : Watchdog) (f : Watchdog → Watchdog) : (s.setWd w x).modWd w f = s.setWd w (f x) := by
  simp [State.setWd, State.modWd, State.modTa, Bank.mod_eq]

theorem State.setWd_at (s : State) (w : Fin 2) (x : Watchdog) : (s.setWd w x).ta.dogs.at w = x := Bank.at_upd_self _ _ _

/-- R485: an expiry whose action is none. -/
theorem State.wdExpire_none (h : fldN x.cfg 28 2 = 0) : (s.setWd w x).wdExpire w = s.setWd w { x with expF := true, cnt := x.load, due := false } := by
  unfold State.wdExpire
  rw [State.setWd_at, h]
  exact State.modWd_setWd _ _ _ _

/-- R485: an expiry that restarts the half. -/
theorem State.wdExpire_half (h : fldN x.cfg 28 2 = 1) : (s.setWd w x).wdExpire w =
    (s.setWd w { x with expF := true, cnt := x.load, due := false }).halfRestart w true := by
  unfold State.wdExpire
  rw [State.setWd_at, h]
  exact congrArg (fun y : State => y.halfRestart w true) (State.modWd_setWd _ _ _ _)

/-- R485: an expiry that resets the system. -/
theorem State.wdExpire_system (h : 2 ≤ fldN x.cfg 28 2) : (s.setWd w x).wdExpire w =
    (s.setWd w { x with expF := true, cnt := x.load, due := false }).modPw fun p => { p with sysRst := true } := by
  obtain ⟨m, hm⟩ := Nat.exists_eq_add_of_le' h
  unfold State.wdExpire
  rw [State.setWd_at, hm]
  exact congrArg (fun y : State => y.modPw fun p => { p with sysRst := true }) (State.modWd_setWd _ _ _ _)

theorem State.setWd_self (hx : s.ta.dogs.at w = x) : s.setWd w x = s := by
  subst hx
  unfold State.setWd
  rw [Bank.upd_at]

/-- R487: what a write of WDx_CFG leaves of a watchdog that is not locked. -/
theorem State.wdCfg_unlocked {v : W32} (hx : s.ta.dogs.at w = x) (h : bit x.cfg 31 = false) : s.wdCfg w v = (s.setWd w { x with
    cfg := v &&& 0xFC000001
    st := if bit v 0 = false then .off else if x.st = .off then .run else x.st
    cnt := if bit v 0 = true ∧ x.st = .off then x.load else x.cnt
    due := if bit v 0 = false ∧ x.st ≠ .off then false else x.due }).refreeze := by
  subst hx
  refine congrArg (fun y : Watchdog => (s.setWd w y).refreeze) ((if_neg (Bool.eq_false_iff.1 h)).trans ?_)
  cases hv : bit v 0 <;> cases (s.ta.dogs.at w).st <;> simp

end

/-- Settles O35. -/
theorem comparesPairsAndWatchdogs : Obligations.ComparesPairsAndWatchdogs := by
  refine ⟨?compares, ?fire, ?pairs, ?dogs, ?decrement⟩
  case compares =>
    intro s k v hup x to_ past
    have hx : s.ta.compares.at k = x := rfl
    have hcfg : exec (.compareEnable k v) s = .next (s.acCfg k v) := congrArg Host.Outcome.next (if_pos hup)
    have harm : exec (.compareArm k) s = .next (s.acCtrl k 1) := congrArg Host.Outcome.next (if_pos hup)
    have hdisarm : exec (.compareDisarm k) s = .next (s.acCtrl k 2) := congrArg Host.Outcome.next (if_pos hup)
    have hself : s.setAc k x = s := by
      unfold State.setAc
      rw [← hx, Bank.upd_at]
    rw [hcfg, harm, hdisarm]
    refine ⟨fun h => ?enable, fun h => ?disable, fun h => ?arm, fun h => ?armIgnored, fun h => ?disarm, fun h => ?disarmIgnored⟩
    case enable =>
      refine congrArg Host.Outcome.next ((s.modAc_eq_setAc _ hx).trans ?_)
      rw [h, Bool.and_true, if_pos rfl]
      rfl
    case disable =>
      refine congrArg Host.Outcome.next ((s.modAc_eq_setAc _ hx).trans ?_)
      rw [h, Bool.and_false, if_neg Bool.false_ne_true]
      rfl
    case arm => exact congrArg Host.Outcome.next (State.acCtrl_arm hx h)
    case armIgnored => exact congrArg Host.Outcome.next (State.acCtrl_arm_idle hx h)
    case disarm =>
      rw [State.acCtrl_disarm hx, if_pos h]
      rfl
    case disarmIgnored =>
      rw [State.acCtrl_disarm hx, if_neg h, hself]
  case fire =>
    intro s t k a x hup htick hst hn hv
    have hx : a.ta.compares.at k = x := rfl
    have hfire : exec (.compareFire t k) s = _ := congrArg Host.Outcome.next
      (State.acFire_eq hx (Bool.and_eq_true_iff.2 ⟨hup, htick⟩) hst hn (decide_eq_true hv))
    obtain ⟨y, hy, hzero, hstep⟩ := State.acFired_eq a k hst
    rw [State.fired_eq, hy] at hfire
    exact ⟨y, hfire, hzero, hstep⟩
  case pairs =>
    intro s t k a x
    have hexec : exec (.capturePairUpdate t k) s = .next (a.cpUpdate k) := rfl
    rw [hexec]
    refine ⟨fun h => ?_, fun e r h hup htick hon => ⟨fun hn => ?_, fun hn => ?_⟩⟩
    · unfold State.cpUpdate
      dsimp only
      rw [show (a.ta.pairs.at k).pend = [] from h]
    · unfold State.cpUpdate
      dsimp only
      rw [show (a.ta.pairs.at k).pend = e :: r from h]
      exact congrArg Host.Outcome.next (if_neg fun hc => Bool.eq_false_iff.1 hn hc.2.2)
    · unfold State.cpUpdate
      dsimp only
      rw [show (a.ta.pairs.at k).pend = e :: r from h]
      refine congrArg Host.Outcome.next ((if_pos ⟨Bool.and_eq_true_iff.2 ⟨hup, htick⟩, hon, hn⟩).trans ?_)
      by_cases hf : e.level = false ∧ bit x.cfg 23 = true
      · rw [if_pos hf]
        exact if_pos ⟨(congrArg (! ·) hf.1 :), hf.2⟩
      · rw [if_neg hf]
        exact if_neg fun h => hf ⟨by simpa using h.1, h.2⟩
  case dogs =>
    intro s w v hup x put
    have hx : s.ta.dogs.at w = x := rfl
    have hcfg : exec (.watchdogEnable w v) s = .next (s.wdCfg w v) := congrArg Host.Outcome.next (if_pos hup)
    have hkick : exec (.watchdogKick w v) s = .next (s.wdKick w v) := congrArg Host.Outcome.next (if_pos hup)
    rw [hcfg, hkick]
    refine ⟨fun h => ?locked, fun h => congrArg Host.Outcome.next (State.wdCfg_unlocked hx h), fun h => congrArg Host.Outcome.next (if_pos h),
      fun h hk => congrArg Host.Outcome.next ((if_neg h).trans (if_pos hk)), fun h hk h0 => ?badKey, fun hdue => ?expiry, fun hdue => ?notDue⟩
    case locked =>
      exact congrArg (fun y : Watchdog => Host.Outcome.next (put y).refreeze) (if_pos h)
    case badKey =>
      exact congrArg Host.Outcome.next ((if_neg h).trans ((if_neg hk).trans (State.wdExpire_none (s := s) (x := { x with keyErr := true }) h0)))
    case expiry =>
      have hexec : exec (.watchdogExpiry w) s = .next ((s.setWd w x).wdExpire w) := by
        rw [State.setWd_self hx]
        exact congrArg Host.Outcome.next (if_pos ⟨hup, hdue⟩)
      rw [hexec]
      refine ⟨fun h => ?_, fun h => ?_, fun h => ?_⟩
      · rw [State.wdExpire_none h]
        rfl
      · rw [State.wdExpire_half h]
        rfl
      · rw [State.wdExpire_system h]
        rfl
    case notDue => exact congrArg Host.Outcome.next (if_neg fun h => Bool.eq_false_iff.1 hdue h.2)
  case decrement =>
    intro s t w a x c hup htick hst hms hlast
    exact congrArg Host.Outcome.next (if_pos ⟨hup, htick, hst, hms, hlast⟩)

end Sys2Proof.Machine

namespace Sys2Proof.Machine

/-! R496: the registers by which the hardware of a ns acts. -/

section
variable {s : State} {w : SnWas}

theorem State.snWas_eq_some : s.snWas = some w ↔ s.ticking = true ∧ s.sn.was = some w ∧ w.at_ = s.now := by
  unfold State.snWas
  by_cases ht : s.ticking = true
  · rw [if_pos ht, Option.filter_eq_some_iff, decide_eq_true_eq]
    exact (and_iff_right ht).symm
  · rw [if_neg ht]
    exact ⟨nofun, fun h => absurd h.1 ht⟩

theorem State.snHw_of_none (h : s.snWas = none) : s.snHw = s.sn := by
  unfold State.snHw
  rw [h]

theorem State.snHw_of_some (h : s.snWas = some w) :
    s.snHw = { s.sn with cfg := w.cfg, chCfg := w.chCfg, subs := w.subs, groups := w.groups } := by
  unfold State.snHw
  rw [h]

/-- What Spinel keeps before the first write of a ns. -/
def State.snOld (s : State) : SnWas :=
  { at_ := s.now, cfg := s.sn.cfg, chCfg := s.sn.chCfg, subs := s.sn.subs, luts := s.sn.luts, groups := s.sn.groups, on := 0, off := 0 }

/-- R496: a write keeps what the registers are before the writes of its ns. -/
theorem State.snMark_eq (s : State) :
    s.snMark = { s with sn := { s.sn with was := if s.ticking then some (s.snWas.getD s.snOld) else none } } := by
  unfold State.snMark
  cases h : s.snWas with
  | none => rfl
  | some w =>
    obtain ⟨ht, hwas, -⟩ := State.snWas_eq_some.1 h
    rw [if_pos ht]
    exact congrArg (fun x => ({ s with sn := { s.sn with was := x } } : State)) hwas

end

/-! R495: the event that enters. -/

/-- Of the events that have been fired on a channel, one of a Beryl-timed producer enters first, and of each kind the oldest. -/
theorem Spinel.next_of_fired {n : Spinel} {c : Fin 256} {e : Event} {l r : List Event} (h : n.fired = l ++ e :: r) (he : e.ch = c)
    (hl : ∀ x ∈ l, x.ch ≠ c ∨ (e.fired ≠ none ∧ x.fired = none)) (hr : e.fired = none → ∀ x ∈ l ++ r, x.ch = c → x.fired = none) :
    n.next c = some e ∧ n.fired.erase e = l ++ r := by
  have hne : ∀ x ∈ l, x ≠ e := fun x hx hxe => by
    rcases hl x hx with h | ⟨h1, h2⟩
    · exact h (hxe ▸ he)
    · exact h1 (hxe ▸ h2)
  have hfind {p : Event → Bool} (hpe : p e = true) (hpl : ∀ x ∈ l, p x = false) : (l ++ e :: r).find? p = some e := by
    rw [List.find?_append, List.find?_eq_none.2 fun x hx => by rw [hpl x hx]; exact Bool.false_ne_true, Option.none_or,
      List.find?_cons_of_pos hpe]
  refine ⟨?_, ?_⟩
  · unfold Spinel.next
    rw [h]
    cases hf : e.fired with
    | some g =>
      rw [hfind (by simp [he, hf]) fun x hx => ?_]
      · rfl
      · rcases hl x hx with h | ⟨-, h⟩ <;> simp [h]
    | none =>
      rw [List.find?_eq_none.2 fun x hx => ?_, Option.none_or, hfind (by simp [he]) fun x hx => ?_]
      · rcases hl x hx with h | ⟨h, -⟩
        · simp [h]
        · exact absurd hf h
      · have hx' : x = e ∨ x ∈ l ++ r := by
          simp only [List.mem_append, List.mem_cons] at hx ⊢
          tauto
        rcases hx' with rfl | hx'
        · simp [hf]
        · by_cases hc : x.ch = c
          · simp [hr hf x hx' hc]
          · simp [hc]
  · rw [h, List.erase_append_right _ fun hm => hne e hm rfl, List.erase_cons_head]

theorem Spinel.on_iff (n : Spinel) (c : Fin 256) : n.on c = true ↔
    bit (n.chCfg.at c) 0 = true ∧ (bit (n.chCfg.at c) 1 = true → n.groups.getLsbD (fldN (n.chCfg.at c) 8 4) = true) := by
  unfold Spinel.on
  dsimp only
  cases bit (n.chCfg.at c) 1 <;> simp

theorem State.eventEntry_eq {s : State} {c : Fin 256} {e : Event} {l : List Event} (he : s.sn.next c = some e)
    (hl : s.sn.fired.erase e = l) (hup : s.up = true) (ht : s.ticking = true) :
    s.eventEntry c = s.modSn fun _ =>
      if !s.snHw.on c then { s.sn with fired := l }
      else if e.hop > fldN s.snHw.cfg 0 4 then
        if s.sn.hopDrop then { s.sn with fired := l } else { s.sn with fired := l, hopDrop := true, hopCh := c, hop := e.hop }
      else { s.sn with fired := l, flight := s.sn.flight ++ [{ ch := c, hop := e.hop, at_ := e.fired.getD s.now + 2 }] } := by
  subst hl
  unfold State.eventEntry
  rw [he]
  exact if_neg (by simp [hup, ht])

/-! R497, R499: arrivals at task inputs. -/

theorem Spinel.pending_setPending {n : Spinel} (hw : sparseWf [] n.counts = true) (t i : Nat) (l : List Nat) :
    (n.setPending t l).pending i = if i = t then l else n.pending i := sparseGet_sparseSet _ _ _ _ hw

theorem Spinel.wf_setPending {n : Spinel} (hw : sparseWf [] n.counts = true) (t : Nat) (l : List Nat) :
    sparseWf [] (n.setPending t l).counts = true := sparseWf_sparseSet _ _ _ hw

/-- What arrivals of hop `h` at the inputs of which `p` holds leave of `s`. -/
structure State.ArrivedAt (s : State) (p : Nat → Bool) (h : Nat) (z : State) : Prop where
  frame : z = { s with sn := z.sn, chans := z.chans, seqs := z.seqs }
  sn : z.sn = { s.sn with counts := z.sn.counts, ovf := z.sn.ovf, arr := z.sn.arr, arrNs := z.sn.arrNs }
  wf : sparseWf [] z.sn.counts = true
  pending : ∀ i, z.sn.pending i = if p i = true ∧ (s.sn.pending i).length < 2 then s.sn.pending i ++ [h] else s.sn.pending i
  ovf : ∀ i, i < 1296 → z.sn.ovf.getLsbD i = (s.sn.ovf.getLsbD i || (p i && decide (2 ≤ (s.sn.pending i).length)))
  quiet : (∀ k, (s.chans.at k).det = false) → z.chans = s.chans ∧ z.seqs = s.seqs

/-- An input at which two counts are pending sets its overflow, and breaches a deterministic channel. -/
theorem State.inputOvf_eq (s : State) (t : Nat) :
    let n : Spinel := { s.sn with ovf := s.sn.ovf ||| BitVec.ofNat 1312 (2 ^ t) }
    s.inputOvf t = { s with sn := n, chans := (s.inputOvf t).chans, seqs := (s.inputOvf t).seqs } ∧
    ((∀ k, (s.chans.at k).det = false) → s.inputOvf t = { s with sn := n }) := by
  unfold State.inputOvf
  dsimp only
  split
  · split
    · next hdet =>
      exact ⟨((s.modSn fun n => { n with ovf := n.ovf ||| BitVec.ofNat 1312 (2 ^ t) }).breach_changes _ _).frame,
        fun h => absurd hdet (by rw [h]; exact Bool.false_ne_true)⟩
    · exact ⟨rfl, fun _ => rfl⟩
  · exact ⟨rfl, fun _ => rfl⟩

theorem getLsbD_two_pow {w t i : Nat} (hi : i < w) : (BitVec.ofNat w (2 ^ t)).getLsbD i = decide (i = t) := by
  rw [BitVec.getLsbD_ofNat, Nat.testBit_two_pow]
  simp [hi, eq_comm]

section
variable {s : State} {h t : Nat}

/-- An arrival at one input. -/
theorem State.arrivedAt_arrive (hw : sparseWf [] s.sn.counts = true) : s.ArrivedAt (fun i => decide (i = t)) h (s.arrive t h) := by
  unfold State.arrive
  dsimp only
  split
  · next hlen =>
    refine ⟨rfl, rfl, Spinel.wf_setPending hw _ _, fun i => (Spinel.pending_setPending hw t i _).trans ?_, fun i _ => ?_, fun _ => ⟨rfl, rfl⟩⟩
    · by_cases hi : i = t
      · subst hi
        simp [hlen]
      · simp [hi]
    · by_cases hi : i = t
      · subst hi
        have : ¬ 2 ≤ (s.sn.pending i).length := by omega
        simp [this, State.modSn, Spinel.setPending]
      · simp [hi, State.modSn, Spinel.setPending]
  · next hlen =>
    obtain ⟨hframe, hquiet⟩ := s.inputOvf_eq t
    have hsn : (s.inputOvf t).sn = { s.sn with ovf := s.sn.ovf ||| BitVec.ofNat 1312 (2 ^ t) } := (congrArg State.sn hframe :)
    refine ⟨?_, ?_, ?_, fun i => ?_, fun i hi => ?_, fun hdet => ?_⟩
    · rw [hsn]
      exact hframe
    · rw [hsn]
    · rw [hsn]
      exact hw
    · rw [hsn]
      refine (if_neg fun hc => ?_).symm
      exact hlen (of_decide_eq_true hc.1 ▸ hc.2)
    · rw [hsn]
      refine (BitVec.getLsbD_or ..).trans (congrArg (s.sn.ovf.getLsbD i || ·) ?_)
      rw [getLsbD_two_pow (by omega)]
      by_cases hit : i = t
      · subst hit
        simp only [decide_true, Bool.true_and]
        exact (decide_eq_true (by omega)).symm
      · simp [hit]
    · rw [hquiet hdet]
      exact ⟨rfl, rfl⟩

/-- An arrival at one input more. -/
theorem State.ArrivedAt.step {p : Nat → Bool} {z y : State} (k : s.ArrivedAt p h z) (hz : z.ArrivedAt (fun i => decide (i = t)) h y)
    (hp : p t = false) : s.ArrivedAt (fun i => p i || decide (i = t)) h y where
  frame := by rw [hz.frame, k.frame]
  sn := by rw [hz.sn, k.sn]
  wf := hz.wf
  pending i := by
    rw [hz.pending, k.pending]
    by_cases hi : i = t
    · subst hi
      simp [hp]
    · simp [hi]
  ovf i hlt := by
    rw [hz.ovf i hlt, k.ovf i hlt, k.pending]
    by_cases hi : i = t
    · subst hi
      simp [hp]
    · simp [hi]
  quiet hdet := by
    obtain ⟨h1, h2⟩ := k.quiet hdet
    obtain ⟨h3, h4⟩ := hz.quiet (by rw [h1]; exact hdet)
    exact ⟨h3.trans h1, h4.trans h2⟩

theorem State.ArrivedAt.of_eq {p q : Nat → Bool} {z : State} (k : s.ArrivedAt p h z) (hpq : p = q) : s.ArrivedAt q h z := hpq ▸ k

/-- The arrivals at the first `m` inputs of those of which `p` holds. -/
theorem State.arrivedAt_foldl (hw : sparseWf [] s.sn.counts = true) (p : Nat → Bool) (m : Nat) :
    s.ArrivedAt (fun i => p i && decide (i < m)) h ((List.range m).foldl (init := s) fun z t => if p t then z.arrive t h else z) := by
  induction m with
  | zero => exact ⟨rfl, rfl, hw, fun i => by simp, fun i _ => by simp, fun _ => ⟨rfl, rfl⟩⟩
  | succ m ih =>
    rw [List.range_succ, List.foldl_append]
    simp only [List.foldl_cons, List.foldl_nil]
    cases hp : p m with
    | true =>
      rw [if_pos rfl]
      refine (ih.step (State.arrivedAt_arrive ih.wf) (by simp)).of_eq (funext fun i => ?_)
      by_cases hi : i = m
      · subst hi
        simp [hp]
      · rw [show decide (i < m + 1) = decide (i < m) from decide_eq_decide.2 (by omega)]
        simp [hi]
    | false =>
      rw [if_neg Bool.false_ne_true]
      refine ih.of_eq (funext fun i => ?_)
      by_cases hi : i = m
      · subst hi
        simp [hp]
      · rw [show decide (i < m + 1) = decide (i < m) from decide_eq_decide.2 (by omega)]

end

/-! R502, R512: groups and exports. -/

theorem State.takeHw_none {s : State} {t : Nat}
    (h : s.sn.pending t = [] ∨ t ∈ (if s.sn.tookNs = some s.now then s.sn.took else [])) : s.takeHw t = (none, s) := by
  unfold State.takeHw
  split
  · rfl
  · next hguard =>
    rcases h with h | h
    · unfold State.takeCount
      rw [h]
    · refine absurd ?_ hguard
      split at h
      · next hns => simp [hns, h]
      · exact absurd h List.not_mem_nil

/-- R496, R502: the groups with `f` applied by the hardware of the present ns. -/
def State.snSet (s : State) (n : Spinel) (f : BitVec 16 → BitVec 16) : Spinel :=
  match s.snWas with
  | none => { n with groups := f n.groups }
  | some w => { n with groups := (f n.groups ||| w.on) &&& ~~~w.off, was := some { w with groups := f w.groups } }

theorem State.groupSet_eq {s z : State} (hz : z.sn.was = s.sn.was) (hb : z.beryl = s.beryl) (g : Fin 16) (v : Bool) :
    z.groupSet g v = { z with sn := s.snSet z.sn fun x => Machine.setGroup x g v } := by
  have hwas : z.snWas = s.snWas := by
    unfold State.snWas State.ticking State.now
    rw [hz, hb]
  unfold State.groupSet State.snSet
  rw [hwas]
  cases h : s.snWas with
  | none =>
    dsimp only [State.modSn]
    cases z.sn.was <;> rfl
  | some w =>
    obtain ⟨-, hw, -⟩ := State.snWas_eq_some.1 h
    dsimp only [State.modSn]
    rw [hz, hw]
    rfl

/-! R496, R500: writes of the registers. -/

theorem State.regWrite_sn (s : State) (q : Req) {o : Nat} (ho : o < 0x10000) (v : W32) : s.regWrite q (0xC0000 + o) v = s.wrSn o v := by
  unfold State.regWrite
  rw [show (0xC0000 + o) / 0x10000 = 0xC by omega, show (0xC0000 + o) % 0x10000 = o by omega]
  rfl

theorem State.wrSn_chCfg (s : State) (c : Fin 256) (v : W32) : s.wrSn (0x100 + 4 * c.val) v = s.snChCfg c v := by
  unfold State.wrSn
  rw [if_pos (by simp only [within]; simp; omega)]
  congr 1
  exact Fin.ext (by simp only [Fin.ofNat]; omega)

/-- A permitted write of one of Spinel's registers without W1C and W1S fields. -/
theorem State.busWrite_sn {s : State} {r : Req} {o : Nat} {v : W32} (h : s.refusal r true (0xC0000 + o) 4 v.toNat = none) (ho : o < 0x10000)
    (hm : memWindow (0xC0000 + o) = false) (hw : w1Bits (0xC0000 + o) = 0) : (s.busWrite r (0xC0000 + o) 4 v.toNat).2 = s.wrSn o v := by
  rw [State.busWrite_reg h hm, hwWins_of_w1Bits_zero hw, s.regWrite_sn r ho]
  exact congrArg (s.wrSn o) ((BitVec.ofNat_toNat 32 v).trans (BitVec.setWidth_eq v))

/-- R57: an access of a register whose half runs, by a requester without the secure attribute that it requires. -/
theorem State.refusal_secure {s : State} {q : Req} {a n v : Nat} (hreg : regRegion a = true)
    (hw : badWidth q a n = false) (ha : a % n = 0) (hup : s.up = true) (hm : memWindow a = false) (hh : s.halfOffAt q true a = false)
    (hq : q.sec = false) (hs : s.regSec true a (BitVec.ofNat 32 v) = true) : s.refusal q true a n v = some .secure := by
  unfold State.refusal
  simp [hreg, hw, ha, hup, hm, hh, hq, hs]

/-- Settles O36. -/
theorem eventFabric : Obligations.EventFabric := by
  refine ⟨fun s w => ⟨State.snWas_eq_some, State.snHw_of_none, State.snHw_of_some⟩, ?entry, ?arrival, ?groups, ?writes⟩
  case entry =>
    intro s t c e l r a to_ w on hup ht hf he hl hr
    obtain ⟨hnext, herase⟩ := Spinel.next_of_fired hf he hl hr
    have hexec : exec (.eventEntry t c) s = .next (a.eventEntry c) := rfl
    rw [hexec, State.eventEntry_eq hnext herase hup ht]
    have hon : a.snHw.on c = true ↔ on := a.snHw.on_iff c
    refine ⟨fun h => ?off, fun h hhop => ?flies, fun h hhop => ?drops⟩
    case off => exact congrArg to_ (if_pos (by simpa using fun hc => h (hon.1 hc)))
    case flies => exact congrArg to_ ((if_neg (by simpa using hon.2 h)).trans (if_neg (not_lt.2 hhop)))
    case drops =>
      refine congrArg to_ ((if_neg (by simpa using hon.2 h)).trans ((if_pos hhop).trans ?_))
      cases hd : a.sn.hopDrop <;> simp [hd]
  case arrival =>
    intro s t c f a hup ht hn hdue hw
    let s1 : State := { a with sn := { a.sn with flight := a.sn.flight.erase f } }
    obtain ⟨hframe, hsn, -, hpend, hovf, hquiet⟩ := s1.arrivedAt_foldl (h := f.hop) hw (fun t => a.snHw.subscribes t c) 1296
    refine ⟨_, congrArg Host.Outcome.next ?_, hframe, hsn, fun i hi => ?_, fun i hi => ?_, hquiet⟩
    · unfold State.eventArrival
      rw [hn]
      exact if_pos ⟨hup, ht, hdue⟩
    · rw [hpend]
      simp [hi]
      rfl
    · rw [hovf i hi]
      simp [hi]
      rfl
  case groups =>
    intro s t g a to_ one tk taken set hup ht
    have htake {i h : Nat} {l : List Nat} (hp : a.sn.pending i = h :: l) (hi : i ∉ tk) :
        a.takeHw i = (some h, { a with sn := taken i l }) := (State.takeHw_cons hup ht hp).trans (if_neg hi)
    have hset (n : Spinel) (hn : n.was = a.sn.was) (v : Bool) : ({ a with sn := n } : State).groupSet g v =
        { a with sn := a.snSet n fun x => Machine.setGroup x g v } := State.groupSet_eq (s := a) (z := { a with sn := n }) hn rfl g v
    have hen : exec (.groupEnableEvent t g) s = .next (a.groupEnable g) := rfl
    have hdis : exec (.groupDisableEvent t g) s = .next (a.groupDisable g) := rfl
    have hexp : exec (.exportEvent t g) s = .next (a.exportEvent g) := rfl
    rw [hen, hdis, hexp]
    refine ⟨fun h l hp hi => congrArg Host.Outcome.next ?enable, fun h l hp hi => congrArg Host.Outcome.next ?disable,
      fun h l hp hi => congrArg Host.Outcome.next ?export_, fun h => congrArg Host.Outcome.next ?none⟩
    case enable =>
      unfold State.groupEnable
      rw [htake hp hi]
      have hboth : (a.sn.tookNs = some a.now ∧ 1249 + 2 * g.val ∈ a.sn.took) ↔ 1249 + 2 * g.val ∈ tk := by
        by_cases hns : a.sn.tookNs = some a.now <;> simp [tk, hns]
      by_cases hm : 1249 + 2 * g.val ∈ tk
      · rw [if_pos hm]
        exact if_pos (hboth.2 hm)
      · rw [if_neg hm]
        exact (if_neg fun h => hm (hboth.1 h)).trans (hset (taken (1248 + 2 * g.val) l) rfl true)
    case disable =>
      unfold State.groupDisable
      rw [htake hp hi]
      exact hset (taken (1249 + 2 * g.val) l) rfl false
    case export_ =>
      unfold State.exportEvent
      rw [htake hp hi]
      rfl
    case none =>
      unfold State.exportEvent
      rw [State.takeHw_none h]
  case writes =>
    intro s r v c old was on off
    refine ⟨fun hup => ?switch, fun h => ?fire, fun hsec hup hbit => ?secure, fun h => ?chCfg⟩
    case switch =>
      refine congrArg Host.Outcome.next ((if_pos hup).trans ?_)
      unfold State.groupSwitch
      rw [State.snMark_eq]
      rfl
    case fire =>
      have h0 := State.busWrite_sn (o := 8) h (by decide) (by decide) (by decide)
      exact congrArg Host.Outcome.next h0
    case secure =>
      have hsecure : s.regSec true 0xC0008 (BitVec.ofNat 32 v.toNat) = true := by
        rw [BitVec.ofNat_toNat, BitVec.setWidth_eq]
        unfold State.regSec
        rw [hbit]
        simp
      exact State.refusal_secure (by decide) rfl rfl hup (by decide) rfl hsec hsecure
    case chCfg =>
      have hw : ∀ c : Fin 256, memWindow (0xC0000 + (0x100 + 4 * c.val)) = false ∧ w1Bits (0xC0000 + (0x100 + 4 * c.val)) = 0 := by
        decide +kernel
      have h0 := State.busWrite_sn (o := 0x100 + 4 * c.val) (by rw [← Nat.add_assoc]; exact h) (by omega) (hw c).1 (hw c).2
      rw [State.wrSn_chCfg, State.snChCfg, State.snMark_eq, ← Nat.add_assoc] at h0
      exact congrArg Host.Outcome.next h0

end Sys2Proof.Machine

namespace Sys2Proof.Machine

/-! R498: the counts that a cell takes. -/

/-- The inputs that have taken a count in the present ns. -/
def State.taken (s : State) : List Nat := if s.sn.tookNs = some s.now then s.sn.took else []

theorem State.taken_of_ns {s : State} (h : s.sn.tookNs = some s.now) : s.taken = s.sn.took := if_pos h

/-- What taking counts at the inputs `base` to `base + m - 1` leaves of `s`: `t` says which of them took one, `h` bounds the hops. -/
structure State.Took (s : State) (base m t h : Nat) (z : State) : Prop where
  frame : z = { s with sn := z.sn }
  sn : z.sn = { s.sn with counts := z.sn.counts, took := z.sn.took, tookNs := z.sn.tookNs }
  wf : sparseWf [] z.sn.counts = true
  inside : ∀ i, i < m → z.sn.pending (base + i) = (s.sn.pending (base + i)).tail
  outside : ∀ j, (∀ i, i < m → j ≠ base + i) → z.sn.pending j = s.sn.pending j
  taken : ∀ j ∈ z.taken, j ∈ s.taken ∨ ∃ i, i < m ∧ j = base + i
  small : t < 2 ^ m
  bits : ∀ i, i < m → t.testBit i = !(s.sn.pending (base + i)).isEmpty
  hops : ∀ i, i < m → ∀ p ∈ (s.sn.pending (base + i)).head?, p ≤ h

section
variable {s z : State} {base m t h : Nat}

theorem State.Took.skip (k : s.Took base m t h z) (he : z.sn.pending (base + m) = []) : s.Took base (m + 1) t h z := by
  have hs : s.sn.pending (base + m) = [] := (k.outside (base + m) fun i hi => by omega).symm.trans he
  refine ⟨k.frame, k.sn, k.wf, fun i hi => ?_, fun j hj => k.outside j fun i hi => hj i (by omega), fun j hj => ?_, ?_, fun i hi => ?_, fun i hi => ?_⟩
  · rcases Nat.lt_succ_iff_lt_or_eq.1 hi with hi | rfl
    · exact k.inside i hi
    · rw [he, hs]
      rfl
  · exact (k.taken j hj).imp_right fun ⟨i, hi, hji⟩ => ⟨i, by omega, hji⟩
  · exact k.small.trans (Nat.pow_lt_pow_right (by omega) (by omega))
  · rcases Nat.lt_succ_iff_lt_or_eq.1 hi with hi | rfl
    · exact k.bits i hi
    · rw [hs]
      exact Nat.testBit_lt_two_pow k.small
  · rcases Nat.lt_succ_iff_lt_or_eq.1 hi with hi | rfl
    · exact k.hops i hi
    · rw [hs]
      exact nofun

theorem State.Took.take (k : s.Took base m t h z) {p : Nat} {r : List Nat} (he : z.sn.pending (base + m) = p :: r) :
    s.Took base (m + 1) (t + 2 ^ m) (max h p)
      { z with sn := { z.sn.setPending (base + m) r with took := (base + m) :: z.taken, tookNs := some z.now } } := by
  have hs : s.sn.pending (base + m) = p :: r := (k.outside (base + m) fun i hi => by omega).symm.trans he
  have hpend (j : Nat) : (z.sn.setPending (base + m) r).pending j = if j = base + m then r else z.sn.pending j :=
    Spinel.pending_setPending k.wf _ _ _
  refine ⟨?_, ?_, Spinel.wf_setPending k.wf _ _, fun i hi => (hpend _).trans ?_, fun j hj => (hpend _).trans ?_, fun j hj => ?_, ?_,
    fun i hi => ?_, fun i hi => ?_⟩
  · exact congrArg (fun x : State => { x with
      sn := { z.sn.setPending (base + m) r with took := (base + m) :: z.taken, tookNs := some z.now } }) k.frame
  · exact congrArg (fun x : Spinel => { x with
      counts := (z.sn.setPending (base + m) r).counts, took := (base + m) :: z.taken, tookNs := some z.now }) k.sn
  · rcases Nat.lt_succ_iff_lt_or_eq.1 hi with hi | rfl
    · rw [if_neg (by omega)]
      exact k.inside i hi
    · rw [if_pos rfl, hs]
      rfl
  · rw [if_neg (hj m (by omega))]
    exact k.outside j fun i hi => hj i (by omega)
  · have hj' : j = base + m ∨ j ∈ z.taken := by
      rw [State.taken_of_ns rfl] at hj
      exact List.mem_cons.1 hj
    rcases hj' with rfl | hj'
    · exact .inr ⟨m, by omega, rfl⟩
    · exact (k.taken j hj').imp_right fun ⟨i, hi, hji⟩ => ⟨i, by omega, hji⟩
  · have := k.small
    rw [Nat.pow_succ]
    omega
  · rw [Nat.add_comm]
    rcases Nat.lt_succ_iff_lt_or_eq.1 hi with hi | rfl
    · rw [Nat.testBit_two_pow_add_gt hi]
      exact k.bits i hi
    · rw [Nat.testBit_two_pow_add_eq, Nat.testBit_lt_two_pow k.small, hs]
      rfl
  · rcases Nat.lt_succ_iff_lt_or_eq.1 hi with hi | rfl
    · exact fun q hq => (k.hops i hi q hq).trans (le_max_left _ _)
    · intro q hq
      rw [hs] at hq
      obtain rfl := Option.mem_some_iff.1 hq
      exact le_max_right _ _

/-- R498: of each input the oldest count is taken. -/
theorem State.took_takeInputs (hup : s.up = true) (ht : s.ticking = true) (hw : sparseWf [] s.sn.counts = true) (k : Nat)
    (hfree : ∀ i, i < k → base + i ∉ s.taken) :
    s.Took base k (s.takeInputs base k).1.1 (s.takeInputs base k).1.2 (s.takeInputs base k).2 := by
  unfold State.takeInputs
  induction k with
  | zero => exact ⟨rfl, rfl, hw, nofun, fun _ _ => rfl, fun _ h => .inl h, Nat.one_pos, nofun, nofun⟩
  | succ m ih =>
    have k := ih fun i hi => hfree i (by omega)
    rw [List.range_succ, List.foldl_append]
    generalize (List.range m).foldl (init := ((0, 0), s)) (fun a i =>
      match a.2.takeHw (base + i) with
      | (some h, z) => ((a.1.1 + 2 ^ i, max a.1.2 h), z)
      | (none, z) => (a.1, z)) = acc at k ⊢
    obtain ⟨⟨t, h⟩, z⟩ := acc
    simp only [List.foldl_cons, List.foldl_nil] at k ⊢
    have hupz : z.up = true := by rw [k.frame]; exact hup
    have htz : z.ticking = true := by rw [k.frame]; exact ht
    cases he : z.sn.pending (base + m) with
    | nil =>
      rw [State.takeHw_none (.inl he)]
      exact k.skip he
    | cons p r =>
      rw [State.takeHw_cons hupz htz he, if_neg fun hm => ?_]
      · exact k.take he
      · rcases k.taken _ hm with hm | ⟨i, hi, hji⟩
        · exact hfree m (by omega) hm
        · omega

end

/-! R506: an evaluation. -/

/-- R506: the cell that `x` becomes as it evaluates at `g`. -/
theorem Lut.evaluate_spec (x : Lut) (g : W64) (took : BitVec 4) (clk : Bool) (hop : Nat) :
    let y := (x.evaluate g took clk hop).1
    let h := max x.hop hop
    let sel := fldN x.cfg 4 2
    let fires := y.out ≠ x.out ∧ if y.out then sel = 1 ∨ sel = 3 else sel = 2 ∨ sel = 3
    y = { x with q := y.q, l := y.l, y := y.y, v := y.v, since := y.since, out := y.out, last := g, evalAt := some g, hop := y.hop } ∧
    (∀ i, i < 4 → y.l.getLsbD i = if bit x.cfg i then x.l.getLsbD i != took.getLsbD i else took.getLsbD i) ∧
    y.y = bit x.cfg (16 + y.l.toNat) ∧ y.q = (if clk then x.yBefore g else x.q) ∧ y.v = (if bit x.cfg 6 then y.q else y.y) ∧
    y.since = (if y.v = x.v then x.since else g) ∧ y.out = (if x.filt.toNat ≤ (g - y.since).toNat + 1 then y.v else x.out) ∧
    (¬ fires → (x.evaluate g took clk hop).2 = none) ∧
    (fires → (x.evaluate g took clk hop).2 = some (1 + h) ∧ y.hop = 0) := by
  intro y h sel fires
  have hfires : (decide (y.out ≠ x.out) && (if y.out then decide (sel = 1 ∨ sel = 3) else decide (sel = 2 ∨ sel = 3))) = decide fires := by
    unfold fires
    cases y.out <;> simp
  refine ⟨rfl, fun i hi => ?_, rfl, rfl, rfl, rfl, rfl, fun hn => ?_, fun hf => ⟨?_, ?_⟩⟩
  · have hb : x.toggles.getLsbD i = bit x.cfg i := by simp [Lut.toggles, fld, bit, hi]
    have hl : y.l = (x.toggles &&& (x.l ^^^ took)) ||| (~~~x.toggles &&& took) := rfl
    rw [hl]
    simp only [BitVec.getLsbD_or, BitVec.getLsbD_and, BitVec.getLsbD_xor, BitVec.getLsbD_not, hb, hi]
    cases bit x.cfg i <;> simp
  · exact if_neg fun hc => hn (of_decide_eq_true (hfires.symm.trans hc))
  · exact if_pos (hfires.trans (decide_eq_true hf))
  · exact if_pos (hfires.trans (decide_eq_true hf))

/-- R496, R506, R508: the evaluation of a cell, which has been `x` before the writes of the ns. -/
theorem State.lutEvaluate_eq {s z : State} {c : Fin 32} {x : Lut} {m h : Nat}
    (hx : (match s.snWas with | some w => w.luts.at c | none => s.sn.luts.at c) = x) (hup : s.up = true) (ht : s.ticking = true)
    (hen : x.en = true) (hev : (s.sn.luts.at c).evalAt ≠ some s.now) (hacc : s.takeInputs (1088 + 5 * c.val) 5 = ((m, h), z)) :
    s.lutEvaluate c =
      let r := x.evaluate s.now (BitVec.ofNat 4 m) (decide (16 ≤ m)) h
      let z1 := z.modSn fun n => { n with luts := n.luts.upd c (if s.snWas.isSome then r.1.under (s.sn.luts.at c) s.now else r.1) }
      match r.2 with
      | some h => z1.fireHop true x.osn h
      | none => z1 := by
  subst hx
  unfold State.lutEvaluate
  refine (if_pos ⟨hup, ht, hen, hev⟩).trans ?_
  rw [hacc] <;> rfl

/-! R511: combinational loops. -/

theorem Spinel.loopAt_spec {n : Spinel} {c b : Fin 32} (h : n.loopAt c = some b) :
    (n.luts.at b).en = true ∧ (n.luts.at b).ff = false ∧ (n.luts.at c).ff = false ∧ n.edge b c = true := by
  unfold Spinel.loopAt at h
  split at h
  · next hc =>
    have hb := List.find?_some h
    simp only [Spinel.comb, Bool.and_eq_true, Bool.not_eq_true'] at hc hb
    exact ⟨hb.1.1, hb.1.2, hc.2, hb.2⟩
  · exact (nomatch h)

/-- The first of two candidates that gives something. -/
theorem or_bind_eq_find {α β : Type} (a b : Option α) (f : α → Option β) :
    (a.bind f).or (b.bind f) = ((a.toList ++ b.toList).find? fun x => (f x).isSome).bind f := by
  have hone (a : Option α) : a.bind f = (a.toList.find? fun x => (f x).isSome).bind f := by
    cases a with
    | none => rfl
    | some x => cases h : f x <;> simp [h]
  rw [List.find?_append]
  cases h : a.toList.find? fun x => (f x).isSome with
  | none => rw [hone a, h, Option.none_or, ← hone b]; rfl
  | some x =>
    obtain ⟨y, hy⟩ := Option.isSome_iff_exists.1 (show (f x).isSome = true from List.find?_some (p := fun x => (f x).isSome) h)
    rw [hone a, h]
    simp [hy]

theorem State.wrSn_sub (s : State) (k : Fin 648) (v : W32) : s.wrSn (0x2000 + 4 * k.val) v = s.subWrite k v := by
  unfold State.wrSn
  rw [if_neg (by simp [within]; omega), if_neg (by simp [within]; omega), if_neg (by simp [within]; omega),
    if_pos (by simp only [within]; simp; omega)]
  congr 1
  exact Fin.ext (by simp only [Fin.ofNat]; omega)

/-- Settles O37. -/
theorem eventCells : Obligations.EventCells := by
  refine ⟨?evaluate, ?write, ?subscribe, fun n c b h => Spinel.loopAt_spec h⟩
  case evaluate =>
    intro s t c a now x input tk took level sel
    have hexec : exec (.lutEvaluate t c) s = .next (a.lutEvaluate c) := rfl
    refine ⟨fun h => ?_, fun hup ht hen hev hfree hw => ?_⟩
    · refine congrArg Host.Outcome.next (if_neg fun hc => hc.2.2.2 h)
    · have htook := State.took_takeInputs (base := 1088 + 5 * c.val) hup ht hw 5 hfree
      generalize hacc : a.takeInputs (1088 + 5 * c.val) 5 = acc at htook
      obtain ⟨⟨m, h⟩, z⟩ := acc
      obtain ⟨hframe, hsn, -, hinside, houtside, -, hsmall, hbits, hhops⟩ := htook
      dsimp only at hframe hsn hinside houtside hsmall hbits hhops
      have hx : (match a.snWas with | some w => w.luts.at c | none => a.sn.luts.at c) = x := rfl
      have hrun := State.lutEvaluate_eq hx hup ht hen hev hacc
      obtain ⟨hy, hl, hyy, hq, hv, hsince, hout, hquiet, hfire⟩ := x.evaluate_spec a.now (BitVec.ofNat 4 m) (decide (16 ≤ m)) h
      generalize x.evaluate a.now (BitVec.ofNat 4 m) (decide (16 ≤ m)) h = r at hrun hy hl hyy hq hv hsince hout hquiet hfire
      obtain ⟨y, ev⟩ := r
      dsimp only at hy hl hyy hq hv hsince hout hquiet hfire
      have hluts : (if a.snWas.isSome then y.under (a.sn.luts.at c) a.now else y) =
          if a.snWas = none then y else if now.fresh = some a.now then { now with evalAt := some a.now, hop := y.hop }
            else { y with cfg := now.cfg, filt := now.filt } := by
        have he : y.evalAt = some a.now := (congrArg Lut.evalAt hy :)
        cases a.snWas with
        | none => rfl
        | some w =>
          unfold Lut.under
          rw [he]
          rfl
      have hluts0 : z.sn.luts = a.sn.luts := (congrArg Spinel.luts hsn :)
      have hfired0 : z.sn.fired = a.sn.fired := (congrArg Spinel.fired hsn :)
      have hberyl : z.beryl = a.beryl := (congrArg State.beryl hframe :)
      let n : Spinel := { z.sn with
        luts := z.sn.luts.upd c (if a.snWas.isSome then y.under (a.sn.luts.at c) a.now else y)
        fired := ev.elim z.sn.fired fun h =>
          z.sn.fired ++ [{ ch := Fin.ofNat 256 (fldN x.cfg 8 8), hop := h, fired := some z.beryl.td0 }] }
      have hn : exec (.lutEvaluate t c) s = .next { a with sn := n } := by
        refine congrArg Host.Outcome.next (hrun.trans ?_)
        refine Eq.trans ?_ (congrArg (fun u : State => { u with sn := n }) hframe)
        cases ev <;> rfl
      have hnsn : n = { a.sn with counts := n.counts, fired := n.fired, took := n.took, tookNs := n.tookNs, luts := n.luts } :=
        congrArg (fun u : Spinel => { u with luts := n.luts, fired := n.fired }) hsn
      refine ⟨y, n, max x.hop h, hn, hnsn.trans ?frame, hinside, houtside, hy, fun i hi => ?level, hyy, ?clock, hv, hsince, hout,
        fun hno => ?quiet, fun hne hs => ?fires⟩
      case frame =>
        refine congrArg (fun u : Bank Lut 32 => ({ a.sn with
          counts := n.counts, fired := n.fired, took := n.took, tookNs := n.tookNs, luts := u } : Spinel)) ?_
        exact congrArg₂ (fun (l : Bank Lut 32) (y : Lut) => l.upd c y) hluts0 hluts
      case level =>
        rw [hl i hi]
        have hb : (BitVec.ofNat 4 m).getLsbD i = took i := by
          rw [BitVec.getLsbD_ofNat, hbits i (by omega)]
          simp [hi, took, input]
        rw [hb]
      case clock =>
        have hb : decide (16 ≤ m) = took 4 := by
          rw [show took 4 = m.testBit 4 from (hbits 4 (by omega)).symm, Nat.testBit_eq_decide_div_mod_eq]
          exact decide_eq_decide.2 (by omega)
        rw [hq, hb]
      case quiet =>
        have hev : ev = none := hquiet fun ⟨hne, hs⟩ => by
          rcases hno with h | ⟨h, h1, h3⟩ | ⟨h, h2, h3⟩
          · exact hne h
          · exact ((if_pos h).mp hs).elim h1 h3
          · exact ((if_neg (Bool.eq_false_iff.1 h)).mp hs).elim h2 h3
        rw [← hfired0]
        unfold n
        rw [hev]
        rfl
      case fires =>
        obtain ⟨hev, hhop⟩ := hfire ⟨hne, hs⟩
        refine ⟨?_, hhop, le_max_left _ _, fun i hi p hp => (hhops i hi p hp).trans (le_max_right _ _)⟩
        rw [← hfired0, ← hberyl]
        unfold n
        rw [hev]
        rfl
  case write =>
    intro s c v hup x old was put y0 o new checked
    let z : State := { s with sn := { s.sn with was := was } }
    have hmark : s.snMark = z := s.snMark_eq
    have hclr : exec (.lutClear c) s = .next (s.lutClear c) := congrArg Host.Outcome.next (if_pos hup)
    have hcfg : exec (.lutCfgWrite c v) s = .next (match (if (bit v 7 && !x.en) || (!bit v 6 && x.ff) || decide (fldN v 8 8 ≠ x.osn)
        then (put new).loopAt c else none) with
        | some a => z.loopRefuse a
        | none => { z with sn := put new }) := by
      refine congrArg Host.Outcome.next ((if_pos hup).trans ?_)
      unfold State.lutCfg
      rw [hmark]
      have hnew : (if bit v 7 && !x.en then
          let y := bit v 16
          let o := if bit v 6 then false else y
          { x with cfg := v, l := 0, q := false, y := y, v := o, out := o, since := s.now, last := s.now, fresh := s.nsNow }
        else { x with cfg := v }) = new := by
        unfold new
        have ho : (if bit v 6 then false else bit v 16) = o := by
          unfold o
          cases bit v 6 <;> rfl
        exact if_congr (by simp [Lut.en]) (congrArg (fun o => ({ x with
          cfg := v, l := 0, q := false, y := y0, v := o, out := o, since := s.now, last := s.now, fresh := s.nsNow } : Lut)) ho) rfl
      exact congrArg (fun y : Lut => match (if (bit v 7 && !x.en) || (!bit v 6 && x.ff) || decide (fldN v 8 8 ≠ x.osn)
        then (put y).loopAt c else none) with
        | some a => z.loopRefuse a
        | none => { z with sn := put y }) hnew
    have hchecked : ((bit v 7 && !x.en) || (!bit v 6 && x.ff) || decide (fldN v 8 8 ≠ x.osn)) = decide checked := by
      unfold checked Lut.en Lut.ff Lut.osn
      simp only [Bool.decide_or, Bool.decide_and, Bool.decide_eq_true, Bool.decide_eq_false, Bool.or_assoc]
    rw [hclr, hcfg, hchecked]
    refine ⟨?_, fun h => ?_, fun b hc hb => ?_⟩
    · unfold State.lutClear
      rw [hmark]
      rfl
    · have hnone : (if decide checked then (put new).loopAt c else none) = none := by
        rcases h with h | h
        · exact if_neg (by simpa using h)
        · rw [h, ite_self]
      rw [hnone]
    · rw [if_pos (decide_eq_true hc), hb]
      rfl
  case subscribe =>
    intro s r k v hr old was n cells
    have hw : ∀ k : Fin 648, memWindow (0xC0000 + (0x2000 + 4 * k.val)) = false ∧ w1Bits (0xC0000 + (0x2000 + 4 * k.val)) = 0 := by
      decide +kernel
    have hmark : s.snMark = { s with sn := { s.sn with was := was } } := s.snMark_eq
    have h0 := State.busWrite_sn (o := 0x2000 + 4 * k.val) (by rw [← Nat.add_assoc]; exact hr) (by omega) (hw k).1 (hw k).2
    rw [State.wrSn_sub, ← Nat.add_assoc] at h0
    have hexec : exec (.subscriptionWrite r k v) s = .next (s.subWrite k v) := congrArg Host.Outcome.next h0
    let loop (t : Nat) : Option (Fin 32) := (inputCell t).bind n.loopAt
    have hsub : s.subWrite k v = match (loop (2 * k.val)).or (loop (2 * k.val + 1)) with
        | some a => ({ s with sn := { s.sn with was := was } } : State).loopRefuse a
        | none => { s with sn := n } := by
      have hloop (t : Nat) : (match inputCell t with | some c => n.loopAt c | none => none) = loop t := by
        unfold loop
        cases inputCell t <;> rfl
      unfold State.subWrite
      rw [hmark]
      rw [← hloop, ← hloop] <;> rfl
    rw [hexec, hsub, show (loop (2 * k.val)).or (loop (2 * k.val + 1)) = _ from or_bind_eq_find _ _ _]
    refine ⟨fun h => ?_, fun c b hc hb => ?_⟩
    · rw [List.find?_eq_none.2 fun c hc => by rw [h c hc]; exact Bool.false_ne_true]
      rfl
    · rw [show (((inputCell (2 * k.val)).toList ++ (inputCell (2 * k.val + 1)).toList).find? fun c => (n.loopAt c).isSome) = some c from hc]
      dsimp only [Option.bind]
      rw [hb]
      rfl

end Sys2Proof.Machine

namespace Sys2Proof.Machine

/-! R461, R522: what a half loses as it leaves RUN or SLEEP. -/

section
variable {s z : State} {h : Fin 2}

/-- A half that neither sleeps nor enters sleep is not woken. -/
theorem State.Attended.half_of_ne (k : s.Attended z) {i : Fin 2} (h1 : (s.power.halves.at i).st ≠ .sleep)
    (h2 : (s.power.halves.at i).st ≠ .enter) : z.power.halves.at i = s.power.halves.at i := by
  rcases k.half i with ⟨h, -⟩ | ⟨h, -⟩ | ⟨h, -⟩
  · exact h
  · exact absurd h h1
  · exact absurd h h2

theorem State.Attended.stack (k : s.Attended z) (t : Fin 18) : (z.eic.targets.at t).stack = (s.eic.targets.at t).stack := by
  rw [k.target]

theorem State.Attended.claims (k : s.Attended z) : z.power.claims = s.power.claims := by rw [k.frame]

theorem State.Attended.canary (k : s.Attended z) : z.power.canary = s.power.canary := by rw [k.frame]

/-- A target whose stack has been emptied stays so while others are emptied. -/
theorem State.emptyStack_stack (s : State) (t u : Fin 18) (lv : Fin 512 → Bool) :
    ((s.emptyStack t lv).eic.targets.at u).stack = if u = t then [] else (s.eic.targets.at u).stack := by
  obtain ⟨hemptied, hstack⟩ := s.emptied_emptyStack t lv
  by_cases hu : u = t
  · rw [if_pos hu, hu, hstack]
  · rw [if_neg hu, hemptied.other u hu]

theorem State.halfStacks_stack (s : State) (h : Fin 2) {q : Fin 16} (hq : seqHalf q = h) :
    ((s.halfStacks h).eic.targets.at (Fin.ofNat 18 q.val)).stack = [] := by
  have hfold (l : List (Fin 16)) : ∀ s : State, q ∈ l ∨ (s.eic.targets.at (Fin.ofNat 18 q.val)).stack = [] →
      ((l.foldl (init := s) fun z n => if seqHalf n = h then z.emptyStack (Fin.ofNat 18 n.val) z.sourceLevel else z).eic.targets.at
        (Fin.ofNat 18 q.val)).stack = [] := by
    induction l with
    | nil => exact fun s hs => hs.resolve_left List.not_mem_nil
    | cons n l ih =>
      intro s hs
      refine ih _ ?_
      dsimp only
      by_cases hn : q = n
      · subst hn
        rw [if_pos hq, State.emptyStack_stack, if_pos rfl]
        exact .inr rfl
      · refine hs.imp (fun hm => (List.mem_cons.1 hm).resolve_left hn) fun he => ?_
        split
        · rw [State.emptyStack_stack, he, ite_self]
        · exact he
  exact hfold allSeqs s (.inl (List.mem_ofFn.2 ⟨q, rfl⟩))

theorem Watchdog.freeze_reset (b : Bool) : Watchdog.reset.freeze b = .reset := by
  cases b <;> rfl

theorem State.refreeze_dogs_reset (hs : s.ta.dogs.at h = .reset) : s.refreeze.ta.dogs.at h = .reset := by
  refine (Bank.at_mod (s.ta.dogs.mod 0 fun x => x.freeze (s.halted 0)) 1 h fun x => x.freeze (s.halted 1)).trans ?_
  have h0 : (s.ta.dogs.mod 0 fun x => x.freeze (s.halted 0)).at h = .reset := by
    rw [Bank.at_mod, hs, Watchdog.freeze_reset, ite_self]
  rw [h0, Watchdog.freeze_reset, ite_self]

/-- R517, R522: the units of the half take their reset values. -/
theorem State.halfReset_spec (s : State) (h : Fin 2) :
    (∀ n, (s.halfReset h).lanes.at n = if laneHalf n = h then .reset (s.lanes.at n).rest (s.lanes.at n).level else s.lanes.at n) ∧
    (∀ n, (s.halfReset h).engines.at n = if engHalf n = h then .reset else s.engines.at n) ∧
    (∀ n, (s.halfReset h).streams.at n = if sfHalf n = h then .reset else s.streams.at n) ∧
    (∀ n, (s.halfReset h).seqs.at n = if seqHalf n = h then .reset else s.seqs.at n) ∧ (s.halfReset h).ta.dogs.at h = .reset := by
  have hk : State.Changes [.gds, .abs_] s s.gdSettled.noteQueues := ((s.gdSettled_changes).mono (by decide)).trans s.gdSettled.noteQueues_changes
  have hlanes : s.gdSettled.noteQueues.lanes = s.lanes := hk.same .lanes rfl
  have hengines : s.gdSettled.noteQueues.engines = s.engines := hk.same .engines rfl
  have hstreams : s.gdSettled.noteQueues.streams = s.streams := hk.same .streams rfl
  have hseqs : s.gdSettled.noteQueues.seqs = s.seqs := hk.same .seqs rfl
  refine ⟨fun n => ?_, fun n => ?_, fun n => ?_, fun n => ?_, Bank.at_upd_self _ _ _⟩
  · rw [← hlanes]
    exact Bank.at_ofFn _ n
  · rw [← hengines]
    exact Bank.at_ofFn _ n
  · rw [← hstreams]
    exact Bank.at_ofFn _ n
  · rw [← hseqs]
    exact Bank.at_ofFn _ n

/-- What a half `h` of `s` has lost where it has passed to `st`. -/
def State.HalfLost (s : State) (h : Fin 2) (z : State) (st : HalfSt) : Prop :=
  (z.power.halves.at h).st = st ∧ z.power.claims.at h = .reset ∧ z.power.canary.at h = 0 ∧
  (∀ n, z.lanes.at n = if laneHalf n = h then .reset (s.lanes.at n).rest (s.lanes.at n).level else s.lanes.at n) ∧
  (∀ n, z.engines.at n = if engHalf n = h then .reset else s.engines.at n) ∧
  (∀ n, z.streams.at n = if sfHalf n = h then .reset else s.streams.at n) ∧
  (∀ n, z.seqs.at n = if seqHalf n = h then .reset else s.seqs.at n) ∧
  z.ta.dogs.at h = .reset ∧ (∀ q : Fin 16, seqHalf q = h → (z.eic.targets.at (Fin.ofNat 18 q.val)).stack = []) ∧
  z = { s with
    lanes := z.lanes, power := z.power, chans := z.chans, seqs := z.seqs, ibufs := z.ibufs, engines := z.engines
    groups := z.groups, streams := z.streams, crcs := z.crcs, bss := z.bss, lcs := z.lcs, gds := z.gds, abs_ := z.abs_
    ta := z.ta, eic := z.eic, cs := z.cs, dbg := z.dbg }

/-- What the freezes leave after the interrupt controller has attended to its sources. -/
theorem State.Attended.refreeze {s y : State} {h : Fin 2} (k : s.Attended y) (hk : State.Changes [.power, .eic, .dbg] s y)
    (h1 : (s.power.halves.at h).st ≠ .sleep) (h2 : (s.power.halves.at h).st ≠ .enter) (hd : s.ta.dogs.at h = .reset) :
    State.Changes [.power, .eic, .dbg, .ta] s y.refreeze ∧ y.refreeze.power.halves.at h = s.power.halves.at h ∧
    y.refreeze.power.claims = s.power.claims ∧ y.refreeze.power.canary = s.power.canary ∧ y.refreeze.ta.dogs.at h = .reset ∧
    ∀ t, (y.refreeze.eic.targets.at t).stack = (s.eic.targets.at t).stack := by
  have hta : y.ta = s.ta := hk.same .ta rfl
  have hz := y.refreeze_changes
  have hpower : y.refreeze.power = y.power := hz.same .power rfl
  have heic : y.refreeze.eic = y.eic := hz.same .eic rfl
  refine ⟨(hk.mono rfl).step hz rfl, ?_, ?_, ?_, State.refreeze_dogs_reset (by rw [hta]; exact hd), fun t => ?_⟩
  · rw [hpower, k.half_of_ne h1 h2]
  · rw [hpower, k.claims]
  · rw [hpower, k.canary]
  · rw [heic, k.stack]

/-- R461: what the interrupt controller and the freezes make of a half that has left RUN or SLEEP. -/
theorem State.halfStacks_settled {s a y z : State} {h : Fin 2} (ha : s.halfStacks h = a) (hy : a.eicSettle = y) (hz : y.refreeze = z)
    (h1 : (s.power.halves.at h).st ≠ .sleep) (h2 : (s.power.halves.at h).st ≠ .enter) (hd : s.ta.dogs.at h = .reset) :
    State.Changes [.power, .eic, .dbg, .ta] s z ∧ z.power.halves.at h = s.power.halves.at h ∧ z.power.claims = s.power.claims ∧
    z.power.canary = s.power.canary ∧ z.ta.dogs.at h = .reset ∧
    ∀ q : Fin 16, seqHalf q = h → (z.eic.targets.at (Fin.ofNat 18 q.val)).stack = [] := by
  have hak : State.Changes [.eic] s a := ha ▸ s.halfStacks_changes h
  have hpower : a.power = s.power := hak.same .power rfl
  have hta : a.ta = s.ta := hak.same .ta rfl
  obtain ⟨hk, hhalf, hcl, hca, hdog, hstack⟩ := (hy ▸ a.attended_eicSettle : a.Attended y).refreeze (h := h)
    (hy ▸ a.eicSettle_changes) (by rw [hpower]; exact h1) (by rw [hpower]; exact h2) (by rw [hta]; exact hd)
  subst hz
  refine ⟨(hak.mono rfl).trans hk, ?_, ?_, ?_, hdog, fun q hq => ?_⟩
  · rw [hhalf, hpower]
  · rw [hcl, hpower]
  · rw [hca, hpower]
  · rw [hstack, ← ha, s.halfStacks_stack h hq]

/-- R522, R532: the half `h` stands in `st`, without its claim and its canary. -/
def State.halfGone (s : State) (h : Fin 2) (st : HalfSt) : State :=
  ((s.modHalf h fun x => { x with st := st, wakeRec := false }).modPw
    fun p => { p with claims := p.claims.upd h .reset, canary := p.canary.upd h 0 }).settleMaster

theorem State.halfGone_spec (s : State) (h : Fin 2) (st : HalfSt) :
    State.Changes [.power] s (s.halfGone h st) ∧ ((s.halfGone h st).power.halves.at h).st = st ∧
    (s.halfGone h st).power.claims.at h = .reset ∧ (s.halfGone h st).power.canary.at h = 0 :=
  ⟨((State.modHalf_changes _ _ _).trans (State.modPw_changes _ _)).trans (State.settleMaster_changes _),
    congrArg Half.st (Bank.at_mod_self _ _ _), Bank.at_upd_self _ _ _, Bank.at_upd_self _ _ _⟩

/-- The frame of the state in which a half is lost. -/
theorem State.frame_halfLost (k : State.Changes [.lanes, .power, .chans, .seqs, .ibufs, .engines, .groups, .streams, .crcs, .bss, .lcs,
    .gds, .abs_, .ta, .eic, .cs, .dbg] s z) : z = { s with
      lanes := z.lanes, power := z.power, chans := z.chans, seqs := z.seqs, ibufs := z.ibufs, engines := z.engines
      groups := z.groups, streams := z.streams, crcs := z.crcs, bss := z.bss, lcs := z.lcs, gds := z.gds, abs_ := z.abs_
      ta := z.ta, eic := z.eic, cs := z.cs, dbg := z.dbg } := by
  refine k.frame.trans ?_
  simp [State.withParts]

theorem State.halfLeave_eq (s : State) (h : Fin 2) (st : HalfSt) : s.halfLeave h st =
    (((((if (s.power.halves.at h).st = .run then s.halfFaults h else s).halfReset h).halfGone h st).halfStacks h).eicSettle).refreeze :=
  rfl

/-- R522, R532: the half passes from RUN or SLEEP to DOWN or UP. -/
theorem State.halfLost_halfLeave (s : State) (h : Fin 2) {st : HalfSt} (h1 : st ≠ .sleep) (h2 : st ≠ .enter) :
    s.HalfLost h (s.halfLeave h st) st := by
  have hall := s.halfLeave_changes h st
  have heq := s.halfLeave_eq h st
  have hs1 : State.Changes [.power, .chans] s (if (s.power.halves.at h).st = .run then s.halfFaults h else s) := by
    split
    · exact s.halfFaults_changes h
    · exact .refl _ _
  generalize (if (s.power.halves.at h).st = .run then s.halfFaults h else s) = s1 at heq hs1
  obtain ⟨hlanes, hengines, hstreams, hseqs, hdogs⟩ := s1.halfReset_spec h
  generalize s1.halfReset h = a at heq hlanes hengines hstreams hseqs hdogs
  obtain ⟨hk2, hst, hclaims, hcanary⟩ := a.halfGone_spec h st
  generalize a.halfGone h st = s2 at heq hk2 hst hclaims hcanary
  have hta : s2.ta = a.ta := hk2.same .ta rfl
  obtain ⟨hk, hhalf, hcl, hca, hdog, hstack⟩ := State.halfStacks_settled rfl rfl heq.symm
    (by rw [hst]; exact h1) (by rw [hst]; exact h2) (by rw [hta]; exact hdogs)
  generalize s.halfLeave h st = z at hall hk hhalf hcl hca hdog hstack ⊢
  clear heq
  have hka : State.Changes [.power, .eic, .dbg, .ta] a z := (hk2.mono rfl).trans hk
  have hl : z.lanes = a.lanes := hka.same .lanes rfl
  have he : z.engines = a.engines := hka.same .engines rfl
  have hf : z.streams = a.streams := hka.same .streams rfl
  have hq : z.seqs = a.seqs := hka.same .seqs rfl
  have hl1 : s1.lanes = s.lanes := hs1.same .lanes rfl
  have he1 : s1.engines = s.engines := hs1.same .engines rfl
  have hf1 : s1.streams = s.streams := hs1.same .streams rfl
  have hq1 : s1.seqs = s.seqs := hs1.same .seqs rfl
  refine ⟨?_, ?_, ?_, fun n => ?_, fun n => ?_, fun n => ?_, fun n => ?_, hdog, hstack, State.frame_halfLost hall⟩
  · rw [hhalf, hst]
  · rw [hcl, hclaims]
  · rw [hca, hcanary]
  · rw [hl, hlanes, hl1]
  · rw [he, hengines, he1]
  · rw [hf, hstreams, hf1]
  · rw [hq, hseqs, hq1]

end

/-! R517, R519, R520: the commands and events of a half. -/

section
variable {s : State} {h : Fin 2} {x : Half}

def State.setHalf (s : State) (h : Fin 2) (y : Half) : State := { s with power := { s.power with halves := s.power.halves.upd h y } }

theorem State.modHalf_eq_setHalf (hx : s.power.halves.at h = x) (f : Half → Half) : s.modHalf h f = s.setHalf h (f x) := by
  subst hx
  rfl

theorem State.halfErr_eq (hx : s.power.halves.at h = x) (e : Nat) : s.halfErr h e = s.setHalf h { x with cmdErr := true, serr := e } := by
  subst hx
  rfl

theorem State.setHalf_emu {e : Bank Bool 2} (he : e = s.dbg.emu) :
    ({ s.setHalf h x with dbg := { s.dbg with emu := e } } : State) = s.setHalf h x := by
  subst he
  rfl

theorem State.halfWake_sleep (hup : s.up = true) (hx : s.power.halves.at h = x) (hst : x.st = .sleep) :
    s.halfWake h = { s.setHalf h { x with st := .wake } with dbg := { s.dbg with emu := s.dbg.emu.upd h false } } := by
  subst hx
  unfold State.halfWake
  rw [hup, hst]
  have he : (s.dbg.emu.at h && decide ((s.power.halves.at h).st ≠ .sleep)) = false := by simp [hst]
  refine congrArg₂ (fun (y : Half) (b : Bool) => ({ s.setHalf h y with dbg := { s.dbg with emu := s.dbg.emu.upd h b } } : State)) ?_ he
  dsimp only
  rw [hst]

theorem State.halfWake_enter (hup : s.up = true) (hx : s.power.halves.at h = x) (hst : x.st = .enter) :
    s.halfWake h = s.setHalf h { x with wakeRec := true } := by
  subst hx
  unfold State.halfWake
  rw [hup, hst]
  have he : s.dbg.emu.mod h (fun e => e && decide ((s.power.halves.at h).st ≠ .sleep)) = s.dbg.emu := by
    unfold Bank.mod
    rw [hst]
    exact (congrArg (s.dbg.emu.upd h) (Bool.and_true _)).trans (Bank.upd_at _ _)
  refine Eq.trans ?_ (State.setHalf_emu he)
  refine congrArg (fun y => ({ s.setHalf h y with dbg := { s.dbg with
    emu := s.dbg.emu.mod h fun e => e && decide ((s.power.halves.at h).st ≠ .sleep) } } : State)) ?_
  dsimp only
  rw [hst]

theorem State.halfWake_err (hup : s.up = true) (hx : s.power.halves.at h = x) (h1 : x.st ≠ .sleep) (h2 : x.st ≠ .enter) :
    s.halfWake h = s.halfErr h 1 := by
  subst hx
  unfold State.halfWake
  rw [hup]
  cases hst : (s.power.halves.at h).st with
  | sleep => exact absurd hst h1
  | enter => exact absurd hst h2
  | _ => rfl

end

/-! R517 to R520: sleep, and the ends of the transitions. -/

section
variable {s a z : State} {h : Fin 2} {x : Half}

/-- A half that neither sleeps nor enters sleep stays as it is while the interrupt controller attends to its sources. -/
theorem State.eicSettle_half (h1 : (s.power.halves.at h).st ≠ .sleep) (h2 : (s.power.halves.at h).st ≠ .enter) :
    s.eicSettle.power.halves.at h = s.power.halves.at h :=
  s.attended_eicSettle.half_of_ne h1 h2

theorem State.modHalf_half (s : State) (h : Fin 2) (f : Half → Half) : (s.modHalf h f).power.halves.at h = f (s.power.halves.at h) :=
  Bank.at_mod_self s.power.halves h f

theorem State.eicSettle_lanes (s : State) : s.eicSettle.lanes = s.lanes := s.eicSettle_changes.same .lanes rfl

theorem State.eicSettle_seqs (s : State) : s.eicSettle.seqs = s.seqs := s.eicSettle_changes.same .seqs rfl

/-- R554: the locks and the patches of the half's clusters are open. -/
def State.halfUnlocked (s : State) (h : Fin 2) : State :=
  let ks := [0, 1, 2, 3].filter fun k : Fin 4 => decide (clusterHalf k = h)
  { s with sec := { s.sec with csLock := clearValid s.sec.csLock ks, patchValid := clearValid s.sec.patchValid ks } }

theorem State.halfUpDone_spec (hup : s.up = true) (hx : s.power.halves.at h = x) (hst : x.st = .up) :
    (s.halfUpDone h).power.halves.at h = { x with st := .run, done := true } ∧
    (s.halfUpDone h).lanes = (s.halfReset h).lanes ∧ (s.halfUpDone h).seqs = (s.halfReset h).seqs := by
  have hpower : (s.halfReset h).power = s.power := (s.halfReset_changes h).same .power rfl
  have heq : s.halfUpDone h = (((s.halfReset h).halfUnlocked h).modHalf h fun x => { x with st := .run, done := true }).eicSettle :=
    if_pos ⟨hup, hx ▸ hst⟩
  rw [heq]
  clear heq
  generalize s.halfReset h = a at hpower
  have hhalf : ((a.halfUnlocked h).modHalf h fun x => { x with st := .run, done := true }).power.halves.at h =
      { x with st := .run, done := true } := by
    refine (Bank.at_mod_self a.power.halves h _).trans ?_
    rw [hpower, hx]
  exact ⟨(State.eicSettle_half (fun h => nomatch (congrArg Half.st hhalf).symm.trans h)
    fun h => nomatch (congrArg Half.st hhalf).symm.trans h).trans hhalf, State.eicSettle_lanes _, State.eicSettle_seqs _⟩

theorem State.halfWakeDone_spec (hup : s.up = true) (hx : s.power.halves.at h = x) (hst : x.st = .wake) (hz : s.halfWakeDone h = z) :
    z = { s with power := z.power, seqs := z.seqs, eic := z.eic, dbg := z.dbg } ∧
    z.power.halves.at h = { x with st := .run, done := true } ∧
    ∀ n, z.seqs.at n = if seqHalf n = h ∧ (s.seqs.at n).st = .nap then { s.seqs.at n with st := .idle, idleSince := s.now } else s.seqs.at n := by
  have hk := hz ▸ s.halfWakeDone_changes h
  refine ⟨hk.frame, ?_⟩
  subst hz
  unfold State.halfWakeDone
  rw [if_pos ⟨hup, hx ▸ hst⟩]
  extract_lets one s1
  generalize hb : ((s1.modHalf h fun x => { x with st := .run, done := true }).modDbg fun d => { d with emu := d.emu.upd h false }) = b
  have hhalf : b.power.halves.at h = { x with st := .run, done := true } := by
    rw [← hb, ← hx]
    exact Bank.at_mod_self s.power.halves h _
  have hseqs : b.seqs = Vector.ofFn one := by
    rw [← hb]
    rfl
  refine ⟨(State.eicSettle_half (fun h => nomatch (congrArg Half.st hhalf).symm.trans h)
    fun h => nomatch (congrArg Half.st hhalf).symm.trans h).trans hhalf, fun n => ?_⟩
  · rw [State.eicSettle_seqs, hseqs]
    exact Bank.at_ofFn _ n

/-- R519: SLEEP of a quiet half. -/
theorem State.halfSleep_quiet (hup : s.up = true) (hx : s.power.halves.at h = x) (hst : x.st = .run) (hq : s.quiet h = true)
    (hz : s.halfSleep h = z) : z = { s with power := z.power, eic := z.eic, dbg := z.dbg } ∧
      z.power.halves.at h = { x with st := .enter, wakeRec := (z.power.halves.at h).wakeRec } ∧ z.power.canary = s.power.canary.upd h 0 := by
  have hk := hz ▸ s.halfSleep_changes h
  refine ⟨hk.frame, ?_⟩
  have heq : s.halfSleep h = ((((s.modHalf h fun x => { x with st := .enter, wakeRec := false }).modPw fun p =>
      { p with canary := p.canary.upd h 0 }).halfStacks h).eicSettle) :=
    (if_pos ⟨hup, hx ▸ hst⟩).trans (if_pos hq)
  rw [← hz, heq]
  generalize hb : ((s.modHalf h fun x => { x with st := .enter, wakeRec := false }).modPw fun p =>
      { p with canary := p.canary.upd h 0 }) = b
  have hhalf : b.power.halves.at h = { x with st := .enter, wakeRec := false } := by
    rw [← hb, ← hx]
    exact Bank.at_mod_self s.power.halves h _
  have hcanary : b.power.canary = s.power.canary.upd h 0 := by
    rw [← hb]
    rfl
  have hpower : (b.halfStacks h).power = b.power := (b.halfStacks_changes h).same .power rfl
  generalize b.halfStacks h = c at hpower
  have k := c.attended_eicSettle
  have hwoken := k.half h
  rw [hpower, hhalf] at hwoken
  refine ⟨?_, k.canary.trans (by rw [hpower, hcanary])⟩
  rcases hwoken with ⟨hw, -⟩ | ⟨hw, -⟩ | ⟨-, hw, -⟩
  · rw [hw]
  · exact nomatch hw
  · rw [hw]

/-- R519: where no bank is dirty, none is saved. -/
theorem State.saveBanks_clean (hd : ∀ q : Fin 16, seqHalf q = h → (s.seqs.at q).fownD = false) : s.saveBanks h = (true, s) := by
  have hfold (l : List (Fin 16)) : l.foldl (init := (true, s)) (fun acc n =>
      let q := acc.2.seqs.at n
      if acc.1 ∧ seqHalf n = h ∧ q.fownV ∧ q.fownD then
        match acc.2.floatSave n with
        | .done s1 => (true, (s1.uw n 2).modSeq n fun q => { q with fownV := false, fownD := false })
        | .pool s1 => (false, s1)
        | .ecc s1 =>
          let c := q.fownCh
          let x := s1.chans.at c
          (true, (s1.modSeq n fun q => { q with fownV := false, fownD := false }).modChan c fun y =>
            if x.st = .off ∨ x.st = .fault then y
            else
              let y1 := { y with st := .fault, faultF := true, fcause := .ctxEcc }
              if x.det then y1.breached .ecc s1.now else y1)
        | .trap s1 _ => (true, s1)
      else acc) = (true, s) := by
    induction l with
    | nil => rfl
    | cons n l ih =>
      refine Eq.trans (congrArg (List.foldl _ · l) (if_neg ?_)) ih
      rintro ⟨-, hn, -, hf⟩
      exact Bool.false_ne_true ((hd n hn).symm.trans hf)
  exact hfold allSeqs

/-- R517, R519, R520: a half in ENTER none of whose float banks is dirty enters SLEEP, and wakes at once where a wake was recorded. -/
theorem State.halfSleepDone_clean (hup : s.up = true) (hx : s.power.halves.at h = x) (hst : x.st = .enter)
    (hd : ∀ q : Fin 16, seqHalf q = h → (s.seqs.at q).fownD = false) (hz : s.halfSleepDone h = z) :
    ((z.power.halves.at h).st = .wake ∨ (z.power.halves.at h).st = .sleep ∧ x.wakeRec = false) ∧ (z.power.halves.at h).done = true ∧
    z.mem = s.mem ∧ (∀ n, seqHalf n = h → (z.seqs.at n).q = Bank.fill 16 0 ∧ (z.seqs.at n).resv = none ∧ (z.seqs.at n).st = (s.seqs.at n).st) ∧
    (∀ n, seqHalf n ≠ h → z.seqs.at n = s.seqs.at n) := by
  have heq : ∃ e, s.halfSleepDone h = (((s.sleepLoss h).modDbg fun d => { d with emu := d.emu.upd h e }).modHalf h fun x =>
      { x with st := if x.wakeRec then .wake else .sleep, wakeRec := false, done := true }).eicSettle := by
    unfold State.halfSleepDone
    rw [if_pos ⟨hup, hx ▸ hst⟩, State.saveBanks_clean hd]
    exact ⟨_, rfl⟩
  obtain ⟨e, heq⟩ := heq
  rw [← hz, heq]
  clear heq hz
  have hseq (n : Fin 16) : (s.sleepLoss h).seqs.at n = if seqHalf n = h then
      { s.seqs.at n with q := Bank.fill 16 0, fctl := 0, resv := none, fownV := false, fownD := false } else s.seqs.at n :=
    Bank.at_ofFn _ n
  have hmem : (s.sleepLoss h).mem = s.mem := (s.sleepLoss_changes h).same .mem rfl
  have hpower : (s.sleepLoss h).power = s.power := (s.sleepLoss_changes h).same .power rfl
  generalize s.sleepLoss h = a at hseq hmem hpower
  generalize hb : ((a.modDbg fun d => { d with emu := d.emu.upd h e }).modHalf h fun x =>
      { x with st := if x.wakeRec then .wake else .sleep, wakeRec := false, done := true }) = b
  have hhalf : b.power.halves.at h = { x with st := if x.wakeRec then .wake else .sleep, wakeRec := false, done := true } := by
    have ha : (a.modDbg fun d => { d with emu := d.emu.upd h e }).power.halves.at h = x := (congrArg (·.halves.at h) hpower).trans hx
    rw [← hb, State.modHalf_half, ha]
  have hbs : b.seqs = a.seqs := by
    rw [← hb]
    rfl
  have hbm : b.mem = a.mem := by
    rw [← hb]
    rfl
  have hzm : b.eicSettle.mem = b.mem := b.eicSettle_changes.same .mem rfl
  have hwoken := b.attended_eicSettle.half h
  rw [hhalf] at hwoken
  refine ⟨?_, ?_, hzm.trans (hbm.trans hmem), fun n hn => ?_, fun n hn => ?_⟩
  · rcases hwoken with ⟨hw, -⟩ | ⟨-, hw, -⟩ | ⟨hw, -⟩
    · rw [hw]
      cases hr : x.wakeRec with
      | true => exact .inl rfl
      | false => exact .inr ⟨rfl, rfl⟩
    · exact .inl (congrArg Half.st hw)
    · cases hr : x.wakeRec <;> rw [hr] at hw <;> exact nomatch hw
  · rcases hwoken with ⟨hw, -⟩ | ⟨-, hw, -⟩ | ⟨-, hw, -⟩ <;> rw [hw]
  · rw [State.eicSettle_seqs, hbs, hseq, if_pos hn]
    exact ⟨rfl, rfl, rfl⟩
  · rw [State.eicSettle_seqs, hbs, hseq, if_neg hn]

end

/-! R79, R527 to R533: the supply, the last gasp, the lease and the battery words. -/

section
variable {s : State} {h : Fin 2}

theorem halfCause_bit (h : Fin 2) : (BitVec.ofNat 8 (2 ^ ((if false = true then 2 else 4) + h.val))).getLsbD (4 + h.val) = true := by
  revert h
  decide

/-- R523: a cause of reset is no part of what a half loses. -/
theorem State.HalfLost.caused {z : State} {st : HalfSt} (k : s.HalfLost h z st) {c : BitVec 8} :
    s.HalfLost h { z with power := { z.power with rstCause := c } } st := by
  obtain ⟨hst, hclaim, hcanary, hlanes, hengines, hstreams, hseqs, hdog, hstacks, hframe⟩ := k
  refine ⟨hst, hclaim, hcanary, hlanes, hengines, hstreams, hseqs, hdog, hstacks, ?_⟩
  exact congrArg (fun y : State => ({ y with power := { z.power with rstCause := c } } : State)) hframe

/-- A permitted write of a register none of whose bits is W1C. -/
theorem State.busWrite_plain {r : Req} {a : Nat} {v : W32} (hp : s.refusal r true a 4 v.toNat = none) (hm : memWindow a = false)
    (hw : w1Bits a = 0) : (s.busWrite r a 4 v.toNat).2 = s.regWrite r a v := by
  rw [State.busWrite_reg hp hm, hwWins_of_w1Bits_zero hw]
  exact congrArg (s.regWrite r a) ((BitVec.ofNat_toNat 32 v).trans (BitVec.setWidth_eq v))

/-- R527: a supply-low condition that does not begin has its causes alone. -/
theorem State.setSupply_of_no_onset {p : Power} {sok floor : Bool} (hp : (sok || floor) = true → p.low = true) (s : State) :
    ({ s with power := p } : State).setSupply sok floor = { s with power := { p with sokLow := sok, floorLow := floor } } := by
  refine congrArg (fun p => ({ s with power := p } : State)) (if_neg ?_)
  rintro ⟨h1, h2⟩
  rw [hp h1] at h2
  exact Bool.false_ne_true h2

/-- R79, R527, R530: SUPPLY_OK at 0 starts the condition and, at its onset, fires an armed last gasp. -/
theorem State.supplyLevel_low (s : State) : s.supplyLevel false = { s with power := { s.power with
    sok := false, sokSince := s.now, sokLow := true, lowF := s.power.lowF || (!s.power.sokLow && !s.power.floorLow)
    gasp := if (!s.power.sokLow && !s.power.floorLow) = true ∧ bit s.power.gasp.cfg 0 = true then s.power.gasp.fire else s.power.gasp } } := by
  refine congrArg (fun p => ({ s with power := p } : State)) ?_
  dsimp only [Power.low, State.modPw, Bool.true_or]
  by_cases hs : s.power.sokLow = true
  · simp [hs]
  · by_cases hf : s.power.floorLow = true
    · simp [hf]
    · simp [hs, hf]

/-- R79: the cause of SUPPLY_OK ends after 10 µs. -/
theorem State.supplyEnd_due (h1 : s.power.sok = true) (h2 : 10000 ≤ s.now - s.power.sokSince) :
    s.supplyEnd = { s with power := { s.power with sokLow := false } } := by
  refine (if_pos ⟨h1, h2⟩).trans (State.setSupply_of_no_onset (p := s.power) (fun h => ?_) s)
  exact (congrArg (s.power.sokLow || ·) h).trans (Bool.or_true _)

theorem State.supplyEnd_early (h1 : s.power.sok = false ∨ s.now - s.power.sokSince < 10000) : s.supplyEnd = s := by
  refine if_neg ?_
  rintro ⟨hs, ht⟩
  rcases h1 with h | h
  · exact Bool.false_ne_true (h.symm.trans hs)
  · exact BitVec.not_lt.2 ht h

/-- R527: a write of PW_SUP_CFG. -/
theorem State.supCfg_floor (v : W32) (hv : bit v 1 = true) : s.supCfg v = { s with power := { s.power with supCfg := v &&& 0xFFFF0006 } } :=
  if_pos hv

theorem State.supCfg_noFloor (v : W32) (hv : bit v 1 = false) :
    s.supCfg v = { s with power := { s.power with supCfg := v &&& 0xFFFF0006, floorLow := false } } := by
  refine (if_neg (Bool.eq_false_iff.1 hv)).trans (State.setSupply_of_no_onset (p := { s.power with supCfg := v &&& 0xFFFF0006 }) (fun h => ?_) s)
  rw [Bool.or_false] at h
  exact (congrArg (· || s.power.floorLow) h).trans (Bool.true_or _)

/-- R532: the half that is the master. -/
theorem masterOf_eq (n q : Claim) :
    masterOf n q = if n.v = true ∧ (q.v = false ∨ q.epoch ≤ n.epoch) then .north else if q.v then .south else .none := by
  unfold masterOf
  cases n.v <;> cases q.v
  · rfl
  · rfl
  · rfl
  · by_cases he : n.epoch < q.epoch
    · have : ¬ q.epoch ≤ n.epoch := BitVec.not_le.2 he
      simp [he, this]
    · have : q.epoch ≤ n.epoch := BitVec.not_lt.1 he
      simp [he, this]

/-- R532: what MASTER and CHG were before the writes and expiries of the TD0 ns. -/
def State.masterBefore (s : State) : MasterWas :=
  match s.power.masterWas with
  | some x => if s.ticking ∧ x.at_ = s.now then x else { at_ := s.now, master := s.power.master, chg := s.power.chg }
  | none => { at_ := s.now, master := s.power.master, chg := s.power.chg }

theorem State.settleMaster_eq (s : State) : s.settleMaster = { s with power := { s.power with
    master := masterOf (s.power.claims.at 0) (s.power.claims.at 1)
    chg := s.masterBefore.chg || decide (masterOf (s.power.claims.at 0) (s.power.claims.at 1) ≠ s.masterBefore.master)
    masterWas := if s.ticking then some s.masterBefore else none } } :=
  rfl

theorem lease_address (h : Fin 2) : memWindow (0x20034 + 4 * h.val) = false ∧ w1Bits (0x20034 + 4 * h.val) = 0 := by
  revert h
  decide +kernel

theorem State.regWrite_lease (s : State) (q : Req) (h : Fin 2) (v : W32) : s.regWrite q (0x20034 + 4 * h.val) v = s.leaseClaim h v := by
  match h with
  | 0 => rfl
  | 1 => rfl

/-- R533, R611: a write of a battery word. -/
theorem State.regWrite_bb (s : State) (q : Req) (k : Fin 64) (v : W32) :
    s.regWrite q (0x40000 + 4 * k.val) v = { s with bat := { s.bat with data := s.bat.data.upd k v } } := by
  unfold State.regWrite
  rw [show (0x40000 + 4 * k.val) / 0x10000 = 4 by omega, show (0x40000 + 4 * k.val) % 0x10000 = 4 * k.val by omega]
  refine (if_pos (show 4 * k.val < 0x100 by omega)).trans ?_
  rw [show 4 * k.val / 4 = k.val by omega, show Fin.ofNat 64 k.val = k from Fin.ext (Nat.mod_eq_of_lt k.isLt)]
  rfl

/-- R610: no battery word belongs to a half. -/
theorem State.regHalf_bb (s : State) (k : Fin 64) : s.regHalf (0x40000 + 4 * k.val) = none := by
  have h : inBlocks (0x40000 + 4 * k.val) 0x100000 0x40 256 0x10 = false ∧ inBlocks (0x40000 + 4 * k.val) 0x110000 0x100 64 0x2C = false ∧
      inBlocks (0x40000 + 4 * k.val) 0x114000 0x10 16 8 = false ∧ within (0x40000 + 4 * k.val) 0x120000 0x124000 = false ∧
      inBlocks (0x40000 + 4 * k.val) 0x140000 0x40 128 0x30 = false ∧ inBlocks (0x40000 + 4 * k.val) 0x144000 0x20 32 0x14 = false ∧
      inBlocks (0x40000 + 4 * k.val) 0x145000 0x10 16 4 = false ∧ inBlocks (0x40000 + 4 * k.val) 0x145400 0x10 16 4 = false ∧
      inBlocks (0x40000 + 4 * k.val) 0x180000 0x1000 16 0x20 = false ∧ inBlocks (0x40000 + 4 * k.val) 0x190100 0x10 4 8 = false ∧
      (within (0x40000 + 4 * k.val) 0x1A0000 0x1B0000 || within (0x40000 + 4 * k.val) 0x1B0100 0x1B0200) = false ∧
      within (0x40000 + 4 * k.val) 0xB4000 0xB401C = false ∧ within (0x40000 + 4 * k.val) 0xB4100 0xB411C = false := by
    revert k
    decide +kernel
  unfold State.regHalf
  simp [h]

theorem bb_address (k : Fin 64) : memWindow (0x40000 + 4 * k.val) = false ∧ w1Bits (0x40000 + 4 * k.val) = 0 ∧
    regRegion (0x40000 + 4 * k.val) = true ∧ cwWindow (0x40000 + 4 * k.val) = false ∧ csOffset (0x40000 + 4 * k.val) = false ∧
    regGuarded (0x40000 + 4 * k.val) = true := by
  revert k
  decide +kernel

end

/-- Settles O38. -/
theorem halfSupplyAndLease : Obligations.HalfSupplyAndLease := by
  unfold Obligations.HalfSupplyAndLease
  refine ⟨fun s h hup => ?half, fun s t => ?supply, fun s r v hp => ?supCfg, fun s k l hl => ?gasp, fun s r h v hp => ?claim,
    fun s t h => ?expiry, fun s => ?master, fun s r k v hp => ?word, fun s r k v hup hs hlow hlc hdis => ?guard⟩
  case half =>
    intro x half err lost live
    have halfLost {st : HalfSt} (h1 : st ≠ .sleep) (h2 : st ≠ .enter) : lost (s.halfLeave h st) st := s.halfLost_halfLeave h h1 h2
    have refused : s.halfErr h 1 = half s { x with cmdErr := true, serr := 1 } := State.halfErr_eq rfl 1
    refine ⟨fun hx => ?on, fun hx => ?onErr, fun hx => ?off, fun hx => ?offErr, fun hx => ?reset, fun hx => ?resetErr,
      fun hx hq => ⟨_, rfl, State.halfSleep_quiet hup rfl hx hq rfl⟩, fun hx hq => ?notQuiet, fun hx => ?sleepErr, fun hx => ?wake, fun hx => ?wakeRec,
      fun h1 h2 => ?wakeErr, fun hx => ?upDone, fun hx hd => ⟨_, rfl, State.halfSleepDone_clean hup rfl hx hd rfl⟩,
      fun hx => ⟨_, rfl, State.halfWakeDone_spec hup rfl hx rfl⟩, fun hx => ?downDone⟩
    case on => exact congrArg Host.Outcome.next ((if_pos ⟨hup, hx⟩).trans (State.modHalf_eq_setHalf rfl _))
    case onErr => exact congrArg Host.Outcome.next ((if_neg fun h => hx h.2).trans refused)
    case off => exact ⟨_, congrArg Host.Outcome.next (if_pos ⟨hup, hx⟩), halfLost (by decide) (by decide)⟩
    case offErr => exact congrArg Host.Outcome.next ((if_neg fun h => hx h.2).trans refused)
    case reset =>
      have hl := halfLost (st := .up) (by decide) (by decide)
      refine ⟨_, congrArg Host.Outcome.next (if_pos ⟨hup, hx⟩), State.HalfLost.caused hl, ?_⟩
      refine (BitVec.getLsbD_or ..).trans ?_
      rw [halfCause_bit h, Bool.or_true]
    case resetErr => exact congrArg Host.Outcome.next ((if_neg fun h => hx h.2).trans refused)
    case notQuiet =>
      exact congrArg Host.Outcome.next ((if_pos ⟨hup, hx⟩).trans ((if_neg (Bool.eq_false_iff.1 hq)).trans (State.halfErr_eq rfl 2)))
    case sleepErr => exact congrArg Host.Outcome.next ((if_neg fun h => hx h.2).trans refused)
    case wake => exact congrArg Host.Outcome.next (State.halfWake_sleep hup rfl hx)
    case wakeRec => exact congrArg Host.Outcome.next (State.halfWake_enter hup rfl hx)
    case wakeErr => exact congrArg Host.Outcome.next ((State.halfWake_err hup rfl h1 h2).trans refused)
    case upDone =>
      obtain ⟨hhalf, hlanes, hseqs⟩ := State.halfUpDone_spec hup rfl hx
      obtain ⟨hl, -, -, hq, -⟩ := s.halfReset_spec h
      exact ⟨_, rfl, hhalf, fun n => (congrArg (Bank.at · n) hlanes).trans (hl n), fun n => (congrArg (Bank.at · n) hseqs).trans (hq n)⟩
    case downDone => exact congrArg Host.Outcome.next ((if_pos ⟨hup, hx⟩).trans (State.modHalf_eq_setHalf rfl _))
  case supply =>
    exact ⟨congrArg Host.Outcome.next (State.supplyLevel_low _), rfl, fun h1 h2 => congrArg Host.Outcome.next (State.supplyEnd_due h1 h2),
      fun h => congrArg Host.Outcome.next (State.supplyEnd_early h)⟩
  case supCfg =>
    have heq : exec (.supCfgWrite r v) s = .next (s.supCfg v) :=
      congrArg Host.Outcome.next (State.busWrite_plain hp (by decide +kernel) (by decide +kernel))
    exact ⟨fun hv => heq.trans (congrArg Host.Outcome.next (State.supCfg_floor v hv)),
      fun hv => heq.trans (congrArg Host.Outcome.next (State.supCfg_noFloor v hv))⟩
  case gasp =>
    intro g a q andDone tail
    have heq : s.gaspWrite = (fun y : Option Cause × State => y.2.modPw fun p => { p with gasp := p.gasp.wrote k y.1 })
        (if 0x1000000 ≤ a then (some Cause.disabled, s) else s.busWrite q a 4 (g.data.at k).toNat) := by
      unfold State.gaspWrite
      rw [hl]
    have htail (z : State) (c : Option Cause) :
        Host.Outcome.next (z.modPw fun p => { p with gasp := p.gasp.wrote k c }) = tail z c := by
      cases c <;> rfl
    refine ⟨fun ha => ?_, fun c z ha hb => ?_⟩
    · exact (congrArg Host.Outcome.next (heq.trans (by rw [if_pos ha]))).trans (htail s (some .disabled))
    · exact (congrArg Host.Outcome.next (heq.trans (by rw [if_neg (Nat.not_le.2 ha), hb]))).trans (htail z c)
  case claim =>
    intro p c with_
    have heq : exec (.leaseClaim r h v) s = .next (s.leaseClaim h v) := by
      obtain ⟨hm, hw⟩ := lease_address h
      exact congrArg Host.Outcome.next ((State.busWrite_plain hp hm hw).trans (State.regWrite_lease s r h v))
    refine ⟨fun hv => heq.trans (congrArg Host.Outcome.next (if_pos ?_)), fun hv he => heq.trans (congrArg Host.Outcome.next ?_),
      fun hv he => heq.trans (congrArg Host.Outcome.next ?_)⟩
    · exact congrArg (! ·) hv
    · exact (if_neg (by rw [hv]; decide)).trans (if_pos he)
    · exact (if_neg (by rw [hv]; decide)).trans (if_neg (BitVec.not_lt.2 he))
  case expiry =>
    intro a c hv hup ht hn
    exact congrArg Host.Outcome.next (if_pos ⟨hv, hup, ht, hn⟩)
  case master =>
    intro n q m now settled
    have hm : masterOf (s.power.claims.at 0) (s.power.claims.at 1) = m := masterOf_eq _ _
    have heq (was : MasterWas) (hwas : s.masterBefore = was) : s.settleMaster = settled was := by
      rw [State.settleMaster_eq, hwas, hm]
    refine ⟨fun x hx ht hat => heq x ?_, fun hn => heq now ?_⟩
    · unfold State.masterBefore
      rw [hx]
      exact if_pos ⟨ht, hat⟩
    · unfold State.masterBefore
      cases hx : s.power.masterWas with
      | none => rfl
      | some x => exact if_neg fun h => (hn x hx).elim (fun ht => Bool.false_ne_true (ht.symm.trans h.1)) fun hat => hat h.2
  case word =>
    obtain ⟨hm, hw, -⟩ := bb_address k
    exact congrArg Host.Outcome.next ((State.busWrite_plain hp hm hw).trans (s.regWrite_bb r k v))
  case guard =>
    obtain ⟨hm, -, hr, hcw, hcs, hg⟩ := bb_address k
    have hal : (0x40000 + 4 * k.val) % 4 = 0 := by omega
    have hoff : s.halfOffAt r true (0x40000 + 4 * k.val) = false := by
      unfold State.halfOffAt
      simp [hcs, s.regHalf_bb k]
    have hwidth : badWidth r (0x40000 + 4 * k.val) 4 = false := by
      simp [badWidth, hcw, hm]
    unfold State.refusal
    simp [hr, hm, hwidth, hal, hup, hoff, hs, hlc, hdis, hlow, hg]

end Sys2Proof.Machine

namespace Sys2Proof.Machine

/-! R575: a grant that does not fall. -/

section
variable {s y z : State}

theorem State.regrant_of_le {old : Nat} (h : old ≤ s.grant) : s.regrant old = s := by
  unfold State.regrant
  have h2 : ¬ (old = 2 ∧ s.grant < 2) := by omega
  have h0 : ¬ (old ≠ 0 ∧ s.grant = 0) := by omega
  dsimp only
  rw [if_neg h2, if_neg h0]

/-- R574: a block in reset grants no less than before. -/
theorem State.grant_le_inReset (hport : z.dbg.port = s.dbg.port) (hstate : z.vault.state = s.vault.state) (hcrst : z.power.crst = true) :
    s.grant ≤ z.grant := by
  unfold State.grant State.authMax
  rw [hport, hstate, hcrst, if_pos rfl]
  split <;> omega

/-! R523: what every reset of the common region does. -/

/-- The parts that a reset by `cause` leaves in a known state, beside the units of the common region. -/
structure State.ResetBy (s : State) (cause : Nat) (z : State) : Prop where
  region : s.RegionReset z
  chans : z.chans = Bank.fill 256 .reset
  lanes : ∀ n, z.lanes.at n = .reset (s.lanes.at n).rest (s.lanes.at n).level
  bat : z.bat = s.bat
  cells : z.mem.cells = s.mem.cells
  hp : z.hp = { s.hp with err := none }
  port : z.dbg.port = s.dbg.port
  cfg : z.dbg.cfg = s.dbg.cfg
  power : z.power = { s.power with
    crst := true, cready := false, rstCause := s.power.rstCause ||| BitVec.ofNat 8 (2 ^ cause)
    sokSince := z.power.sokSince, halves := z.power.halves, claims := z.power.claims, canary := z.power.canary, canaryAt := z.power.canaryAt
    master := z.power.master, chg := z.power.chg, masterWas := z.power.masterWas }

/-- The common region and both halves at their reset values, before MASTER follows the claims. -/
def State.regionCleared (s : State) (cause : Nat) : State :=
  { s with
    beryl := .reset, lanes := s.lanes.map fun l : Lane => .reset l.rest l.level
    hp := { s.hp with err := none }, xf := .reset, key := s.key.clear
    chans := Bank.fill 256 .reset, posts := Bank.fill 18 .reset, seqs := Bank.fill 16 .reset, ibufs := Bank.fill 4 .reset
    pool := .reset, mem := { Mem.reset with cells := s.mem.cells, corr := s.mem.corr, unc := s.mem.unc }
    engines := Bank.fill 64 .reset, groups := Bank.fill 16 .reset, streams := Bank.fill 128 .reset
    crcs := Bank.fill 32 .reset, bss := Bank.fill 16 0, lcs := Bank.fill 16 0, gds := s.gds.map Guardian.cleared
    abs_ := Bank.fill 16 .reset, sn := .reset, ta := .reset, eic := .reset, cs := .reset
    vault := { s.vault with aonLoad := s.vault.aonLoad || decide (s.sec.ld.st ≠ LdSt.idle) }
    sec := .reset, dbg := { Debug.reset with port := s.dbg.port, cfg := s.dbg.cfg }, cw := .reset
    power := { s.power with
      crst := true, cready := false, sokSince := 0 - s.supplyTime, rstCause := s.power.rstCause ||| BitVec.ofNat 8 (2 ^ cause)
      halves := s.power.halves.map fun x : Half => { x with st := .off, wakeRec := false }
      claims := Bank.fill 2 .reset, canary := Bank.fill 2 0, canaryAt := none } }

theorem State.commonReset_eq (s : State) (cause : Nat) : s.commonReset cause = (s.regionCleared cause).settleMaster :=
  State.regrant_of_le (State.grant_le_inReset (z := (s.regionCleared cause).settleMaster) rfl rfl rfl)

theorem State.regionCleared_resetBy (s : State) (cause : Nat) : s.ResetBy cause (s.regionCleared cause) where
  region := by
    refine ⟨rfl, rfl, rfl, .inl rfl, rfl, rfl, rfl, rfl, rfl, rfl, rfl, rfl, rfl, rfl, rfl, rfl, rfl, rfl, rfl, rfl,
      fun n => .inl (Bank.at_map ..), fun n => ?_, fun n => ?_, fun w => ?_, rfl, rfl, fun h => ?_⟩
    · exact congrArg Seq.st (Bank.at_fill _ n)
    · exact congrArg Timer.st (Bank.at_fill _ n)
    · exact congrArg Watchdog.st (Bank.at_fill _ w)
    · exact congrArg Half.st (Bank.at_map ..)
  chans := rfl
  lanes n := Bank.at_map ..
  bat := rfl
  cells := rfl
  hp := rfl
  port := rfl
  cfg := rfl
  power := rfl

theorem State.commonReset_resetBy (s : State) (cause : Nat) : s.ResetBy cause (s.commonReset cause) := by
  have k := s.regionCleared_resetBy cause
  rw [State.commonReset_eq]
  generalize s.regionCleared cause = z at k
  exact ⟨k.region, k.chans, k.lanes, k.bat, k.cells, k.hp, k.port, k.cfg, congrArg (fun p : Power => { p with
    master := z.settleMaster.power.master, chg := z.settleMaster.power.chg, masterWas := z.settleMaster.power.masterWas }) k.power⟩

/-- A state that keeps the units of the common region as a reset has left them. -/
theorem State.RegionReset.update (k : s.RegionReset z)
    (hy : y = { z with lanes := y.lanes, power := y.power, chans := y.chans, hp := y.hp, mem := y.mem, dbg := y.dbg })
    (hchans : y.chans = Bank.fill 256 .reset ∨ y.chans = Bank.fill 256 { Channel.reset with mbClean := true })
    (hlanes : ∀ n, y.lanes.at n = .reset (s.lanes.at n).rest (s.lanes.at n).level ∨ y.lanes.at n = .reset 0 (s.lanes.at n).level)
    (hcrst : y.power.crst = true) (hready : y.power.cready = false) (hhalves : ∀ h, (y.power.halves.at h).st = .off) : s.RegionReset y := by
  obtain ⟨hberyl, hxf, hkey, -, hposts, hibufs, hpool, hengines, hgroups, hstreams, hcrcs, hbss, hlcs, hgds, habs, hsn, heic, hcs, hsec, hcw, -,
    hseqs, htimers, hdogs, -, -, -⟩ := k
  generalize y.lanes = a, y.power = b, y.chans = c, y.hp = d, y.mem = e, y.dbg = f at *
  subst hy
  exact ⟨hberyl, hxf, hkey, hchans, hposts, hibufs, hpool, hengines, hgroups, hstreams, hcrcs, hbss, hlcs, hgds, habs, hsn, heic, hcs, hsec, hcw,
    hlanes, hseqs, htimers, hdogs, hcrst, hready, hhalves⟩

/-! R524: memories whose contents are lost. -/

theorem Mem.zero_all {m : Mem} {e : Nat × BitVec 8} (h : e ∈ (m.zero [0, 1, 2, 3]).cells) : memOf e.1 = none := by
  have hout := (List.mem_filter.1 h).2
  cases hm : memOf e.1 with
  | none => rfl
  | some k =>
    dsimp only at hout
    rw [hm] at hout
    clear hm
    revert k
    decide

theorem Channel.mailZero_reset : Channel.reset.mailZero = { Channel.reset with mbClean := true } := by
  decide +kernel

theorem Bank.map_fill {α β : Type} (n : Nat) (x : α) (f : α → β) : Vector.map f (Bank.fill n x) = Bank.fill n (f x) :=
  Bank.ext fun i => by simp

theorem State.memZero_chans (s : State) : (s.memZero [0, 1, 2, 3]).chans = s.chans.map Channel.mailZero :=
  rfl

/-- R524: a reset with which the memories lose their contents. -/
theorem State.RegionReset.memZero (k : s.RegionReset z) (hchans : z.chans = Bank.fill 256 .reset) :
    s.RegionReset (z.memZero [0, 1, 2, 3]) := by
  have ⟨_, _, _, _, _, _, _, _, _, _, _, _, _, _, _, _, _, _, _, _, hlanes, _, _, _, hcrst, hready, hhalves⟩ := k
  refine k.update rfl (.inr ?_) hlanes hcrst hready hhalves
  rw [State.memZero_chans, hchans, Bank.map_fill, Channel.mailZero_reset]

theorem State.ResetBy.memZero {cause : Nat} (k : s.ResetBy cause z) :
    s.RegionReset (z.memZero [0, 1, 2, 3]) ∧ ∀ e ∈ (z.memZero [0, 1, 2, 3]).mem.cells, memOf e.1 = none :=
  ⟨k.region.memZero k.chans, fun _ he => Mem.zero_all he⟩

end

/-! R516, R524, R526, R538: the resets and the rails. -/

section
variable {s z : State}

/-- R526: the always-on domain at its reset. -/
def Power.aonReset (p : Power) (porst : Bool) : Power :=
  { Power.reset with sok := p.sok, vcore := p.vcore, vcoreLost := p.vcoreLost || !p.vcore, porst := porst, testMode := p.testMode }

/-- R523, R526, R534: a reset of the always-on domain. -/
theorem State.aonReset_spec (s : State) (porst : Bool) :
    s.RegionReset (s.aonReset porst) ∧ (s.aonReset porst).power = s.power.aonReset porst ∧ (s.aonReset porst).bat = s.bat ∧
    (s.aonReset porst).mem.cells = s.mem.cells ∧ (s.aonReset porst).chans = Bank.fill 256 .reset ∧ (s.aonReset porst).hp = s.hp.clear ∧
    ∀ n, (s.aonReset porst).lanes.at n = .reset 0 (s.lanes.at n).level := by
  have k := s.commonReset_resetBy 0
  unfold State.aonReset
  generalize s.commonReset 0 = a at k
  have hlanes (n : Fin 256) : Bank.at (a.lanes.map fun l : Lane => Lane.reset 0 l.level) n = Lane.reset 0 (s.lanes.at n).level := by
    rw [Bank.at_map, k.lanes]
    rfl
  refine ⟨k.region.update rfl (.inl k.chans) (fun n => .inr (hlanes n)) rfl rfl fun h => ?_, ?_, k.bat, k.cells, k.chans, ?_, hlanes⟩
  · exact congrArg Half.st (Bank.at_fill _ h)
  · exact (congrArg (Power.aonReset · porst) k.power :)
  · exact (congrArg HostPort.clear k.hp :)

theorem State.RegionReset.modPw (k : s.RegionReset z) (f : Power → Power) (h1 : (f z.power).crst = z.power.crst)
    (h2 : (f z.power).cready = z.power.cready) (h3 : (f z.power).halves = z.power.halves) : s.RegionReset (z.modPw f) := by
  have ⟨_, _, _, hchans, _, _, _, _, _, _, _, _, _, _, _, _, _, _, _, _, hlanes, _, _, _, hcrst, hready, hhalves⟩ := k
  exact k.update rfl hchans hlanes (h1.trans hcrst) (h2.trans hready) fun h => (congrArg (fun b => (Bank.at b h).st) h3).trans (hhalves h)

theorem State.agWipeDone_eq (s : State) : s.agWipeDone = { s with
    mem := if s.mem.wiping then { s.mem with wiping := false, wlock := 0, wipes := s.mem.wipes + 1, agDone := true } else s.mem } := by
  unfold State.agWipeDone
  split <;> rfl

/-- R524, R526: the memories and mailboxes that the release of RST_N leaves. -/
theorem Mem.mem_wipe {m : Mem} {last : Nat} {e : Nat × BitVec 8} : e ∈ (m.wipe last).cells ↔ e ∈ m.cells ∧ memOf e.1 ≠ some 1 := by
  refine List.mem_filter.trans (and_congr_right fun _ => ?_)
  unfold memOf
  grind

/-- R524, R526, R538, R553: the release of RST_N. -/
theorem State.rstRelease_spec (s : State) (hv : s.power.vao = true) (hp : s.power.porst = true) (hc : s.power.vcore = true)
    (hr : s.power.crst = true) : ∃ z : State, exec .rstNRelease s = .next (z.regrant s.grant) ∧
      z = { s with beryl := { s.beryl with st := .waitRef }, power := z.power, chans := z.chans, mem := z.mem, seqs := z.seqs
                   vault := { s.vault with aonLoad := false } } ∧
      z.power.rst = true ∧ z.power.crst = false ∧ z.power.vcoreLost = false ∧ z.power.rstCause = s.power.rstCause ∧
      (∀ h, z.power.halves.at h = { s.power.halves.at h with st := if bit (s.power.halves.at h).cfg 0 then .off else .up }) ∧
      z.mem.wiping = true ∧ z.mem.agLast = 3 ∧
      (s.power.vcoreLost = false → s.vault.aonLoad = false →
        z.chans = s.chans ∧ ∀ e, e ∈ z.mem.cells ↔ e ∈ s.mem.cells ∧ memOf e.1 ≠ some 1) ∧
      (s.power.vcoreLost = true ∨ s.vault.aonLoad = true →
        (∀ n, (z.chans.at n).mbClean = true) ∧ ∀ e ∈ z.mem.cells, memOf e.1 = none) := by
  refine ⟨_, congrArg Host.Outcome.next (if_pos ⟨hv, hp, hc, hr⟩), ?_⟩
  have hkept (h1 : s.power.vcoreLost = false) (h2 : s.vault.aonLoad = false) :
      (if s.power.vcoreLost || s.vault.aonLoad then s.memZero [0, 1, 2, 3] else s) = s := by
    rw [h1, h2]
    rfl
  have hlost (h : s.power.vcoreLost = true ∨ s.vault.aonLoad = true) :
      (if s.power.vcoreLost || s.vault.aonLoad then s.memZero [0, 1, 2, 3] else s) = s.memZero [0, 1, 2, 3] :=
    if_pos (Bool.or_eq_true_iff.2 h)
  have hk : State.Changes [.chans, .mem] s (if s.power.vcoreLost || s.vault.aonLoad then s.memZero [0, 1, 2, 3] else s) := by
    split
    · exact s.memZero_changes _
    · exact .refl _ _
  generalize (if s.power.vcoreLost || s.vault.aonLoad then s.memZero [0, 1, 2, 3] else s) = a at hkept hlost hk
  obtain ⟨c, m, ha⟩ : ∃ c m, a = { s with chans := c, mem := m } := ⟨_, _, hk.frame⟩
  subst ha
  refine ⟨rfl, rfl, rfl, rfl, rfl, fun h => Bank.at_map .., rfl, rfl, fun h1 h2 => ?_, fun h => ?_⟩
  · have heq := hkept h1 h2
    have hm : m = s.mem := congrArg State.mem heq
    exact ⟨(congrArg State.chans heq :), fun e => hm ▸ Mem.mem_wipe⟩
  · have heq := hlost h
    have hm : m = s.mem.zero [0, 1, 2, 3] := congrArg State.mem heq
    have hc : c = s.chans.map Channel.mailZero := congrArg State.chans heq
    refine ⟨fun n => ?_, fun e he => Mem.zero_all (m := s.mem) (hm ▸ (Mem.mem_wipe.1 he).1)⟩
    exact (congrArg (fun b => (Bank.at b n).mbClean) hc).trans (congrArg Channel.mbClean (Bank.at_map ..))

end

/-- Settles O39. -/
theorem resetsAndRails : Obligations.ResetsAndRails := by
  unfold Obligations.ResetsAndRails
  refine ⟨fun s => ?powerOn, fun s hv hp => ?porst, fun s hv hp hr => ?rst, fun s hv hp hc hr => ?release, fun s hu hr => ?ready,
    fun s hv hc => ?vcore, fun s hv hc => ?back, fun s hv => ?vao, fun s hv => ?battery, fun s hv => ?init, fun s v hv ht => ?test, fun s hv => ?noTest⟩
  case powerOn =>
    obtain ⟨hregion, hpower, hbat, hcells, -, hhp, hlanes⟩ := s.aonReset_spec false
    refine ⟨s.powerOn, rfl, hregion.modPw _ rfl rfl rfl, ?_, hbat, hcells, hhp, fun n => congrArg Lane.rest (hlanes n)⟩
    exact congrArg (fun p : Power => { p with vao := true }) hpower
  case porst =>
    obtain ⟨hregion, hpower, hbat, hcells, -⟩ := s.aonReset_spec true
    exact ⟨_, congrArg Host.Outcome.next (if_pos ⟨hv, by rw [hp]; rfl⟩), hregion, hpower, hbat, hcells⟩
  case rst =>
    have k := s.commonReset_resetBy 1
    refine ⟨_, congrArg (fun z : State => Host.Outcome.next z.tamperSettle) (if_pos ⟨hv, hp, hr⟩), k.region.modPw _ rfl rfl rfl, rfl, rfl, ?_,
      k.bat, k.cells, (congrArg Power.supCfg k.power :), (congrArg Power.gasp k.power :), k.port, k.cfg, k.hp⟩
    generalize s.commonReset 1 = a at k
    have hcause := congrArg Power.rstCause k.power
    cases hs : s.power.sysRst with
    | true => exact congrArg (· ||| 0x40) hcause
    | false => exact hcause.trans (BitVec.or_zero).symm
  case release => exact s.rstRelease_spec hv hp hc hr
  case ready =>
    exact congrArg Host.Outcome.next ((if_pos ⟨hu, by rw [hr]; rfl⟩).trans (congrArg (State.modPw · fun p => { p with cready := true }) s.agWipeDone_eq))
  case vcore =>
    have k := s.commonReset_resetBy 7
    obtain ⟨hregion, hcells⟩ := k.memZero
    refine ⟨_, congrArg (fun z : State => Host.Outcome.next z.tamperSettle) (if_pos ⟨hv, hc⟩), ?_⟩
    generalize s.commonReset 7 = a at k hregion hcells
    have hz : s.RegionReset ((({ a with hp := a.hp.clear } : State).memZero [0, 1, 2, 3]).modPw fun p => { p with vcore := false, vcoreLost := true }) :=
      State.RegionReset.modPw (z := ({ a with hp := a.hp.clear } : State).memZero [0, 1, 2, 3]) hregion _ rfl rfl rfl
    exact ⟨hz, rfl, rfl, congrArg Power.rstCause k.power, k.bat, (congrArg Power.sysRst k.power :), (congrArg HostPort.clear k.hp :), hcells⟩
  case back => exact congrArg Host.Outcome.next (if_pos ⟨hv, by rw [hc]; rfl⟩)
  case vao =>
    obtain ⟨hregion, hpower, hbat, hcells, hchans, hhp, hlanes⟩ := s.aonReset_spec false
    refine ⟨_, congrArg (fun z : State => Host.Outcome.next z.tamperSettle) (if_pos hv), ?_⟩
    generalize s.aonReset false = a at hregion hpower hbat hcells hchans hhp hlanes
    exact ⟨(hregion.memZero hchans).modPw _ rfl rfl rfl, rfl, rfl, rfl, hbat, fun _ he => Mem.zero_all he⟩
  case battery => exact ⟨_, congrArg Host.Outcome.next (if_pos hv), rfl, rfl, rfl⟩
  case init =>
    intro a
    have heq : s.batteryInit = if a.up then ((a.commonReset 7).memZero [0, 1, 2, 3]).modPw fun p => { p with vcoreLost := true } else a :=
      if_neg (by rw [hv]; decide)
    have hbat : a.bat = .reset := (State.regrant_changes _ _).same .bat rfl
    clear_value a
    refine ⟨fun hu => ?_, fun hu => ?_⟩
    · have k := a.commonReset_resetBy 7
      obtain ⟨hregion, hcells⟩ := k.memZero
      refine ⟨_, congrArg (fun z : State => Host.Outcome.next z.tamperSettle) (heq.trans (if_pos hu)), ?_⟩
      generalize a.commonReset 7 = b at k hregion hcells
      exact ⟨hregion.modPw _ rfl rfl rfl, k.bat.trans hbat, congrArg Power.rstCause k.power, rfl, hcells⟩
    · exact congrArg (fun z : State => Host.Outcome.next z.tamperSettle) (heq.trans (if_neg (by rw [hu]; decide)))
  case test =>
    obtain ⟨hregion, hpower, hbat, -⟩ := s.aonReset_spec s.power.porst
    exact ⟨_, congrArg (fun z : State => Host.Outcome.next z.tamperSettle) (if_pos ⟨hv, ht⟩), hregion.modPw _ rfl rfl rfl, rfl,
      congrArg Power.rstCause hpower, hbat⟩
  case noTest => exact congrArg (fun z : State => Host.Outcome.next z.tamperSettle) (if_neg fun h => h.2 rfl)

end Sys2Proof.Machine

namespace Sys2Proof.Machine

/-! R541, R542: a lifecycle request is judged. -/

section
variable {s z : State}

/-- R542: the RESULT codes of a request, each with the check that gives it, in their order. -/
def State.lcChecks (s : State) (v : W32) : List (Bool × Nat) :=
  let a := s.vault.state
  let b : BitVec 4 := fld v 0 4
  [(decide (fldN v 16 16 ≠ 0x4C43), 1), (decide (s.sec.tr.st ≠ .idle ∨ s.sec.ld.st ≠ .idle) || s.seqsBusy, 2),
    (!([0, 1, 3, 7, 0xF] : List (BitVec 4)).contains b, 3), (decide (a = 3 ∧ b = 7), 4),
    (!([(0, 1), (0, 3), (1, 3), (1, 7), (0, 0xF), (1, 0xF), (3, 0xF), (7, 0xF)] : List (BitVec 4 × BitVec 4)).contains (a, b), 5),
    (decide (b = 3) && s.bat.noKey, 6), (s.power.low, 7)]

theorem lcCode_eq (b : BitVec 4) : lcCode b = ([0, 1, 3, 7, 0xF] : List (BitVec 4)).contains b := by
  revert b
  decide

theorem lcPair_eq (a b : BitVec 4) : lcPair a b =
    ([(0, 1), (0, 3), (1, 3), (1, 7), (0, 0xF), (1, 0xF), (3, 0xF), (7, 0xF)] : List (BitVec 4 × BitVec 4)).contains (a, b) := by
  revert a b
  decide

theorem find?_cons_map {c : Bool} {n : Nat} {l : List (Bool × Nat)} :
    (((c, n) :: l).find? fun p => p.1).map (fun p => p.2) = if c = true then some n else (l.find? fun p => p.1).map fun p => p.2 := by
  cases c <;> rfl

theorem State.lcJudge_eq (s : State) (v : W32) : s.lcJudge v = ((s.lcChecks v).find? fun p => p.1).map fun p => p.2 := by
  unfold State.lcJudge State.lcChecks
  simp only [find?_cons_map, lcCode_eq, lcPair_eq, List.find?_nil, Option.map_none, decide_eq_true_eq, Bool.or_eq_true, Bool.and_eq_true, or_assoc]

theorem State.csChange_eq (s : State) (ks : List (Fin 4)) (f : CsCopy → CsCopy) :
    ∃ c, s.csChange ks f = { s with cs := c, sec := { s.sec with patchValid := clearValid s.sec.patchValid ks } } := by
  have hfold (l : List (Fin 4)) : ∀ s : State,
      ∃ c, (l.foldl (init := s) fun s k => s.modCs fun c => { c with copies := c.copies.mod k f }) = { s with cs := c } := by
    induction l with
    | nil => exact fun s => ⟨s.cs, rfl⟩
    | cons k l ih =>
      intro s
      obtain ⟨c, hc⟩ := ih (s.modCs fun c => { c with copies := c.copies.mod k f })
      exact ⟨c, hc⟩
  obtain ⟨c, hc⟩ := hfold ks s
  exact ⟨c, congrArg (fun z : State => ({ z with sec := { z.sec with patchValid := clearValid z.sec.patchValid ks } } : State)) hc⟩

/-- R543: what the clearing of the control stores keeps. -/
theorem State.csZero_eq (s : State) : ∃ c l v, s.csZero = { s with cs := c, sec := { s.sec with csLock := l, patchValid := v } } := by
  obtain ⟨c, hc⟩ := s.csChange_eq s.runClusters fun _ => .reset
  refine ⟨c, clearValid s.sec.csLock s.runClusters, clearValid s.sec.patchValid s.runClusters, ?_⟩
  exact congrArg (fun z : State => z.modSec fun x => { x with csLock := clearValid x.csLock s.runClusters }) hc

theorem Mem.zero_others {m : Mem} {e : Nat × BitVec 8} (h : e ∈ (m.zero [0, 2, 3]).cells) (h1 : memOf e.1 ≠ some 1) : memOf e.1 = none := by
  have hout := (List.mem_filter.1 h).2
  cases hm : memOf e.1 with
  | none => rfl
  | some k =>
    dsimp only at hout
    rw [hm] at hout h1
    clear hm
    revert k
    decide

theorem State.memZero_mailZero (s : State) {ks : List (Fin 4)} (h : ks.contains 2 = true) (n : Fin 256) :
    ((s.memZero ks).chans.at n).mbClean = true := by
  have hc : (s.memZero ks).chans = s.chans.map Channel.mailZero := if_pos h
  rw [hc, Bank.at_map]
  rfl

/-- R543: a CLEAR step that clears memories and control stores too. -/
theorem State.lcStart_full {b : BitVec 4} {y : Bool} (hb : lcFull b = true) {c : ControlStore} {l v : BitVec 4}
    (hc : ({ (s.memZero [0, 2, 3]) with seqs := s.seqs.map fun q : Seq => { q with resv := none }
                                        sec := { s.sec with lcResult := 0, tr := { st := .clear, target := b, full := true, byLoad := y } } } : State).csZero =
      { (s.memZero [0, 2, 3]) with
          seqs := s.seqs.map fun q : Seq => { q with resv := none }, cs := c
          sec := { s.sec with lcResult := 0, tr := { st := .clear, target := b, full := true, byLoad := y }, csLock := l, patchValid := v } }) :
    s.lcStart b y = State.agWipe { (s.memZero [0, 2, 3]) with
          seqs := s.seqs.map fun q : Seq => { q with resv := none }, cs := c
          sec := { s.sec with lcResult := 0, tr := { st := .clear, target := b, full := true, byLoad := y }, csLock := l, patchValid := v } } 1 := by
  unfold State.lcStart
  rw [hb]
  exact congrArg (State.agWipe · 1) hc

/-- R543: what the CLEAR step of a transition changes. -/
theorem State.lcStart_spec (s : State) (b : BitVec 4) (hz : s.lcStart b false = z) :
    z = { s with sec := z.sec, mem := z.mem, chans := z.chans, seqs := z.seqs, cs := z.cs } ∧
    z.sec.tr = { st := .clear, target := b, full := decide (b = 7 ∨ b = 0xF), byLoad := false } ∧ z.sec.lcResult = 0 ∧
    z.sec.lcDone = s.sec.lcDone ∧ z.mem.wiping = true ∧ z.mem.agLast = 1 ∧
    (b = 7 ∨ b = 0xF → (∀ n, (z.chans.at n).mbClean = true) ∧ ∀ e ∈ z.mem.cells, memOf e.1 = none) ∧
    (¬ (b = 7 ∨ b = 0xF) → z.cs = s.cs ∧ z.chans = s.chans ∧ ∀ e, e ∈ z.mem.cells ↔ e ∈ s.mem.cells ∧ memOf e.1 ≠ some 1) := by
  by_cases hb : b = 7 ∨ b = 0xF
  · have hf : lcFull b = true := decide_eq_true hb
    obtain ⟨c, l, v, hc⟩ := ({ (s.memZero [0, 2, 3]) with
      seqs := s.seqs.map fun q : Seq => { q with resv := none }
      sec := { s.sec with lcResult := 0, tr := { st := .clear, target := b, full := true, byLoad := false } } } : State).csZero_eq
    rw [State.lcStart_full hf hc] at hz
    subst hz
    refine ⟨rfl, ?_, rfl, rfl, rfl, rfl, fun _ => ⟨s.memZero_mailZero (by decide), fun e he => ?_⟩, fun h => absurd hb h⟩
    · rw [decide_eq_true hb]
      rfl
    · obtain ⟨h0, h1⟩ := Mem.mem_wipe.1 he
      exact Mem.zero_others h0 h1
  · have hf : lcFull b = false := decide_eq_false hb
    have heq : s.lcStart b false = (s.modSec fun x => { x with
        lcResult := 0, tr := { st := .clear, target := b, full := false, byLoad := false } }).agWipe 1 := by
      unfold State.lcStart
      rw [hf]
      rfl
    rw [heq] at hz
    subst hz
    refine ⟨rfl, ?_, rfl, rfl, rfl, rfl, fun h => absurd h hb, fun _ => ⟨rfl, rfl, fun e => Mem.mem_wipe⟩⟩
    rw [decide_eq_false hb]
    rfl

/-! R543: the COMMIT step. -/

theorem State.guardRefused_eq (s : State) : s.guardRefused = { s with
    power := { s.power with guardCnt := if s.power.guardCnt = 0xFFFF then 0xFFFF else s.power.guardCnt + 1 } } := by
  refine congrArg (fun g => ({ s with power := { s.power with guardCnt := g } } : State)) ?_
  split
  · assumption
  · rfl


/-- What the end of the transition `x` with RESULT `r` makes of the secure state. -/
def Security.lcEnded (c : Security) (x : Transition) (r : Nat) : Security :=
  { c with
    lcResult := r, lcDone := true, tr := .reset
    ld := if x.byLoad then { c.ld with st := .idle, done := true, err := if r = 7 then 12 else 0 } else c.ld }

theorem State.lcFin_eq {c : Security} {k : KeyPort} (hc : s.sec = c) (hk : s.key = k) (x : Transition) (r : Nat) :
    (if x.byLoad then (s.modSec fun c => { c with lcResult := r, lcDone := true, tr := .reset }).ldEnd (if r = 7 then 12 else 0)
      else s.modSec fun c => { c with lcResult := r, lcDone := true, tr := .reset }) =
    { s with sec := c.lcEnded x r, key := if x.byLoad then k.clear else k } := by
  subst hc hk
  unfold Security.lcEnded
  cases x.byLoad <;> rfl

/-- R557: the entry that the log takes. -/
def State.tamperEntry (s : State) (src arg : Nat) : TamperEntry where
  lo := if s.ticking then s.now.extractLsb' 0 32 else 0
  hi := putB 31 true ||| putB 30 (!s.ticking) ||| put 27 src ||| put 23 arg ||| if s.ticking then put 0 (fldN s.now 32 20) else 0

theorem State.tamperLog_eq (s : State) (src arg : Nat) (sort : Bool) : s.tamperLog src arg sort = { s with vault := { s.vault with
    log := if sort then tamperSort 15 (s.vault.log.upd s.vault.head (s.tamperEntry src arg)) s.vault.head
      else s.vault.log.upd s.vault.head (s.tamperEntry src arg)
    head := s.vault.head + 1, wrap := s.vault.wrap || bit (s.vault.log.at s.vault.head).hi 31
    tcount := if s.vault.tcount < 255 then s.vault.tcount + 1 else 255 } } :=
  rfl

/-- R543: the secure words that a transition clears. -/
def Battery.wordsCleared (b : Battery) : Battery := { b with data := Vector.ofFn fun i : Fin 64 => if 32 ≤ i.val then 0 else b.data.at i }

theorem State.lcCommit_guarded (hup : s.up = true) (hst : s.sec.tr.st = .clear) (hw : s.mem.wiping = false) (hlow : s.power.low = true) :
    s.lcCommit = { s.guardRefused with
      sec := s.sec.lcEnded s.sec.tr 7, key := if s.sec.tr.byLoad then s.key.clear else s.key } := by
  unfold State.lcCommit
  dsimp only
  rw [if_pos ⟨hup, hst, by rw [hw]; rfl⟩, if_pos hlow]
  exact State.lcFin_eq (s := s.guardRefused) rfl rfl s.sec.tr 7

/-- R543: the block with the words of a full transition cleared, its new state and its count. -/
def State.lcMoved (s : State) : State :=
  State.modVault (if s.sec.tr.full then { s with bat := s.bat.wordsCleared } else s) fun v =>
    { v with state := s.sec.tr.target, count := v.count + 1 }

theorem State.lcMoved_eq (s : State) : s.lcMoved = { s with
    bat := if s.sec.tr.full then s.bat.wordsCleared else s.bat
    vault := { s.vault with state := s.sec.tr.target, count := s.vault.count + 1 } } := by
  unfold State.lcMoved
  split
  · exact congrArg (fun b => ({ s with bat := b, vault := { s.vault with state := s.sec.tr.target, count := s.vault.count + 1 } } : State)) rfl
  · rfl

theorem State.lcCommit_done (hup : s.up = true) (hst : s.sec.tr.st = .clear) (hw : s.mem.wiping = false) (hlow : s.power.low = false) :
    s.lcCommit = State.regrant { s.lcMoved.tamperLog 4 s.sec.tr.target.toNat true with
      sec := s.sec.lcEnded s.sec.tr 0, key := if s.sec.tr.byLoad then s.key.clear else s.key } s.grant := by
  have hm := s.lcMoved_eq
  have heq : s.lcCommit = State.regrant (if s.sec.tr.byLoad then ((s.lcMoved.tamperLog 4 s.sec.tr.target.toNat true).modSec fun c =>
      { c with lcResult := 0, lcDone := true, tr := .reset }).ldEnd (if 0 = 7 then 12 else 0)
      else (s.lcMoved.tamperLog 4 s.sec.tr.target.toNat true).modSec fun c => { c with lcResult := 0, lcDone := true, tr := .reset }) s.grant :=
    (if_pos ⟨hup, hst, by rw [hw]; rfl⟩).trans (if_neg (Bool.eq_false_iff.1 hlow))
  have hsec : (s.lcMoved.tamperLog 4 s.sec.tr.target.toNat true).sec = s.sec := by
    rw [State.tamperLog_eq, hm]
  have hkey : (s.lcMoved.tamperLog 4 s.sec.tr.target.toNat true).key = s.key := by
    rw [State.tamperLog_eq, hm]
  exact heq.trans (congrArg (State.regrant · s.grant) (State.lcFin_eq hsec hkey _ 0))

/-! R555 to R557: tamper events. -/

/-- R556: the log and the flag of the event of input `k`. -/
def State.tamperLogged (s : State) (k : Fin 4) (late : Bool) : State :=
  (s.tamperLog k.val (fldN s.vault.tamperCfg (4 * k.val + 2) 2) (!late)).modVault fun v => { v with tflag := v.tflag ||| BitVec.ofNat 4 (2 ^ k.val) }

/-- R556: the wipe and the end of a load that an action brings. -/
def State.tamperWipe (s : State) : State :=
  if s.up then (if (s.agWipe 2).sec.ld.st.loading then (s.agWipe 2).ldFail 14 else s.agWipe 2) else s

/-- R556: an action. -/
def State.tamperDo (s : State) (act : Nat) : State :=
  if act = 2 then (if s.power.vao then s.modPw fun p => { p with sysRst := true } else s)
  else if act = 3 then { s with bat := s.bat.wordsCleared }
  else s

theorem State.tamperAct_eq (s : State) (k : Fin 4) (late : Bool) : s.tamperAct k late =
    if fldN s.vault.tamperCfg (4 * k.val + 2) 2 = 0 then s.tamperLogged k late
    else (s.tamperLogged k late).tamperWipe.tamperDo (fldN s.vault.tamperCfg (4 * k.val + 2) 2) :=
  rfl

theorem State.tamperWipe_changes (s : State) : State.Changes [.key, .seqs, .mem, .sec] s s.tamperWipe := by
  unfold State.tamperWipe
  split
  · split
    · exact ((s.agWipe_changes 2).mono rfl).step ((s.agWipe 2).ldFail_changes 14) rfl
    · exact (s.agWipe_changes 2).mono rfl
  · exact .refl _ s

theorem LdSt.loading_iff (x : LdSt) : x.loading = true ↔ ¬ (x = .idle ∨ x = .rollback) := by
  cases x <;> decide

/-- R549, R552, R556: a load that fails. -/
theorem State.ldFail_spec (s : State) (e : Nat) : (s.ldFail e).sec.ld.st = .rollback ∧ (s.ldFail e).sec.ld.err = e ∧
    (s.mem.wiping = true → (s.ldFail e).mem.wiping = true) ∧
    ((∀ x ∈ s.mem.cells, memOf x.1 ≠ some 1) → (s.ldFail e).mem.cells = s.mem.cells) := by
  unfold State.ldFail
  dsimp only
  split
  · refine ⟨rfl, rfl, fun _ => rfl, fun h => List.filter_eq_self.2 fun x hx => ?_⟩
    exact (List.mem_filter.1 ((Mem.mem_wipe (m := s.mem) (last := 0)).2 ⟨hx, h x hx⟩)).2
  · exact ⟨rfl, rfl, id, fun _ => rfl⟩

theorem State.tamperWipe_spec (s : State) (hup : s.up = true) :
    s.tamperWipe.mem.wiping = true ∧ (∀ e, e ∈ s.tamperWipe.mem.cells ↔ e ∈ s.mem.cells ∧ memOf e.1 ≠ some 1) ∧
    (s.sec.ld.st = .idle ∨ s.sec.ld.st = .rollback → s.tamperWipe.sec = s.sec) ∧
    (s.sec.ld.st ≠ .idle → s.sec.ld.st ≠ .rollback → s.tamperWipe.sec.ld.st = .rollback ∧ s.tamperWipe.sec.ld.err = 14) := by
  unfold State.tamperWipe
  rw [if_pos hup]
  have hsec : (s.agWipe 2).sec = s.sec := rfl
  have hcells (e : Nat × BitVec 8) : e ∈ (s.agWipe 2).mem.cells ↔ e ∈ s.mem.cells ∧ memOf e.1 ≠ some 1 := Mem.mem_wipe
  have hwiping : (s.agWipe 2).mem.wiping = true := rfl
  generalize s.agWipe 2 = a at hsec hcells hwiping
  by_cases hl : s.sec.ld.st = .idle ∨ s.sec.ld.st = .rollback
  · rw [if_neg (by rw [hsec, LdSt.loading_iff]; exact not_not_intro hl)]
    exact ⟨hwiping, hcells, fun _ => hsec, fun h1 h2 => absurd hl (not_or.2 ⟨h1, h2⟩)⟩
  · rw [if_pos (by rw [hsec, LdSt.loading_iff]; exact hl)]
    obtain ⟨hst, herr, hw, hc⟩ := a.ldFail_spec 14
    rw [hc fun x hx => ((hcells x).1 hx).2]
    exact ⟨hw hwiping, hcells, fun h => absurd h hl, fun _ _ => ⟨hst, herr⟩⟩

theorem State.tamperDo_eq (s : State) (act : Nat) : s.tamperDo act = { s with
    power := { s.power with sysRst := s.power.sysRst || (decide (act = 2) && s.power.vao) }
    bat := if act = 3 then s.bat.wordsCleared else s.bat } := by
  unfold State.tamperDo
  by_cases h2 : act = 2
  · subst h2
    have h3 : (if 2 = 3 then s.bat.wordsCleared else s.bat) = s.bat := if_neg (by decide)
    rw [if_pos rfl, decide_eq_true rfl, Bool.true_and, h3]
    by_cases hv : s.power.vao = true
    · rw [if_pos hv, hv, Bool.or_true]
      rfl
    · rw [if_neg hv, Bool.eq_false_iff.2 hv, Bool.or_false]
  · rw [if_neg h2, decide_eq_false h2, Bool.false_and, Bool.or_false]
    split
    · rfl
    · rfl

theorem Battery.wordsCleared_data (b : Battery) (i : Fin 64) : b.wordsCleared.data.at i = if 32 ≤ i.val then 0 else b.data.at i :=
  Bank.at_ofFn _ i

/-- R555: input `k` gives its event. -/
def State.tamperGives (s : State) (k : Fin 4) : Bool :=
  let x := s.vault.inputs.at k
  let held : Bool := match x.since with
    | some a => !s.ticking || decide (200 ≤ (s.now - a).toNat)
    | none => true
  decide (s.bat.vok ∧ bit s.vault.tamperCfg (4 * k.val) ∧ s.vault.tamperOn k ∧ !x.given ∧ held)

theorem State.tamperEvent_eq (s : State) (k : Fin 4) : s.tamperEvent k = if s.tamperGives k = true then s.tamperGive k else s :=
  if_congr decide_eq_true_iff.symm rfl rfl

theorem State.tamperGives_iff (s : State) (k : Fin 4) : s.tamperGives k = true ↔
    s.bat.vok = true ∧ bit s.vault.tamperCfg (4 * k.val) = true ∧ (s.vault.inputs.at k).level = bit s.vault.tamperCfg (4 * k.val + 1) ∧
    (s.vault.inputs.at k).given = false ∧
    ∀ u, (s.vault.inputs.at k).since = some u → s.ticking = true → 200 ≤ (s.now - u).toNat := by
  unfold State.tamperGives Vault.tamperOn
  generalize s.vault.inputs.at k = x
  cases hx : x.since with
  | none => simp [hx]
  | some u =>
    cases s.ticking <;> simp [hx]

theorem State.tamperGive_waits {k : Fin 4} (h : s.sec.tr.st ≠ .idle) :
    s.tamperGive k = s.modTamper k fun x => { x with given := true, waits := true } := by
  refine (if_neg h).trans ?_
  rw [decide_eq_true h]

theorem State.tamperGive_acts {k : Fin 4} (h : s.sec.tr.st = .idle) :
    s.tamperGive k = (s.modTamper k fun x => { x with given := true, waits := false }).tamperAct k false := by
  refine (if_pos h).trans ?_
  rw [decide_eq_false (not_not_intro h)]

/-- R556: a tamper event keeps the inputs. -/
theorem State.tamperAct_inputs (s : State) (k : Fin 4) (late : Bool) : (s.tamperAct k late).vault.inputs = s.vault.inputs := by
  rw [State.tamperAct_eq]
  split
  · rfl
  · rw [State.tamperDo_eq]
    have hv : (s.tamperLogged k late).tamperWipe.vault = (s.tamperLogged k late).vault := (State.tamperWipe_changes _).same .vault rfl
    exact (congrArg Vault.inputs hv :)

/-- R556: the first of the inputs `l` whose event has waited acts, where no other has. -/
theorem State.tamperFold {k : Fin 4} (l : List (Fin 4)) : ∀ s : State, (∀ j ∈ l, j ≠ k → (s.vault.inputs.at j).waits = false) → l.Nodup →
    (k ∉ l ∨ (s.vault.inputs.at k).waits = false →
      (l.foldl (init := s) fun z k => if (z.vault.inputs.at k).waits then (z.modTamper k fun x => { x with waits := false }).tamperAct k true else z) = s) ∧
    (k ∈ l → (s.vault.inputs.at k).waits = true →
      (l.foldl (init := s) fun z k => if (z.vault.inputs.at k).waits then (z.modTamper k fun x => { x with waits := false }).tamperAct k true else z) =
        (s.modTamper k fun x => { x with waits := false }).tamperAct k true) := by
  induction l with
  | nil => exact fun s _ _ => ⟨fun _ => rfl, fun h => absurd h List.not_mem_nil⟩
  | cons j l ih =>
    intro s hs hnodup
    obtain ⟨hj, hl⟩ := List.nodup_cons.1 hnodup
    by_cases hjk : j = k
    · subst hjk
      have hrest (z : State) (hz : ∀ i ∈ l, i ≠ j → (z.vault.inputs.at i).waits = false) := (ih z hz hl).1 (.inl hj)
      refine ⟨fun h => ?_, fun _ hw => ?_⟩
      · have hw := h.resolve_left (not_not_intro List.mem_cons_self)
        refine Eq.trans (congrArg (List.foldl _ · l) (if_neg (Bool.eq_false_iff.1 hw))) (hrest s fun i hi => hs i (List.mem_cons_of_mem _ hi))
      · refine Eq.trans (congrArg (List.foldl _ · l) (if_pos hw)) (hrest _ fun i hi hne => ?_)
        rw [State.tamperAct_inputs]
        exact (congrArg TamperIn.waits (Bank.at_upd_ne _ _ hne)).trans (hs i (List.mem_cons_of_mem _ hi) hne)
    · have hj' := hs j List.mem_cons_self hjk
      have htail := ih s (fun i hi => hs i (List.mem_cons_of_mem _ hi)) hl
      refine ⟨fun h => ?_, fun hk hw => ?_⟩
      · exact Eq.trans (congrArg (List.foldl _ · l) (if_neg (Bool.eq_false_iff.1 hj')))
          (htail.1 (h.imp_left fun hk hm => hk (List.mem_cons_of_mem _ hm)))
      · exact Eq.trans (congrArg (List.foldl _ · l) (if_neg (Bool.eq_false_iff.1 hj')))
          (htail.2 ((List.mem_cons.1 hk).resolve_left (Ne.symm hjk)) hw)

end

/-- Settles O40. -/
theorem lifecycleAndTamper : Obligations.LifecycleAndTamper := by
  unfold Obligations.LifecycleAndTamper
  intro entry
  refine ⟨fun s r v hp => ?request, fun s t => ?commit, fun s r v hp => ?lock, fun a k late => ?act, fun l i n => ?sort, fun s t k => ?input,
    fun s => ?settle⟩
  case request =>
    intro a b codes pairs full fails
    have heq : exec (.lifecycleRequest r v) s = .next (s.lcRequest v) :=
      congrArg Host.Outcome.next (State.busWrite_plain hp (by decide +kernel) (by decide +kernel))
    have hjudge : s.lcJudge v = fails := s.lcJudge_eq v
    have hreq (e : Option Nat) (he : fails = e) : s.lcRequest v = e.elim (s.lcStart b false) fun r =>
        if r = 7 then (s.modSec fun x => { x with lcResult := r }).guardRefused else s.modSec fun x => { x with lcResult := r } := by
      unfold State.lcRequest
      rw [hjudge, he]
      cases e <;> rfl
    refine ⟨fun e he h7 => ?_, fun he => ?_, fun he => ?_⟩
    · exact heq.trans (congrArg Host.Outcome.next ((hreq _ he).trans (if_neg h7)))
    · exact heq.trans (congrArg Host.Outcome.next ((hreq _ he).trans (State.guardRefused_eq _)))
    · exact ⟨_, heq.trans (congrArg Host.Outcome.next (hreq _ he)), State.lcStart_spec s b rfl⟩
  case commit =>
    intro a x ended hup hst hw
    refine ⟨fun hlow => ?_, fun hlow => ?_⟩
    · refine congrArg (fun z : State => Host.Outcome.next z.tamperSettle) ((State.lcCommit_guarded hup hst hw hlow).trans ?_)
      exact congrArg (fun z : State => ({ z with sec := a.sec.lcEnded x 7, key := if x.byLoad then a.key.clear else a.key } : State)) a.guardRefused_eq
    · refine ⟨_, congrArg (fun z : State => Host.Outcome.next z.tamperSettle) (State.lcCommit_done hup hst hw hlow), ?_⟩
      rw [State.tamperLog_eq, State.lcMoved_eq]
      refine ⟨rfl, rfl, fun i => ?_⟩
      refine (congrArg (Bank.at · i) (apply_ite Battery.data _ _ _)).trans ?_
      by_cases hf : x.full = true
      · rw [if_pos hf, Battery.wordsCleared_data]
        exact if_congr (by rw [and_iff_right hf]) rfl rfl
      · rw [if_neg hf, if_neg fun h => hf h.1]
  case lock =>
    refine congrArg Host.Outcome.next ?_
    refine (congrArg Prod.snd (State.busWrite_reg hp (by decide +kernel))).trans ?_
    rw [BitVec.ofNat_toNat, BitVec.setWidth_eq]
    rfl
  case act =>
    intro act log logged
    have hlogged : a.tamperLogged k late = logged := by
      unfold State.tamperLogged
      rw [State.tamperLog_eq]
      cases late <;> rfl
    refine ⟨fun h0 => ?_, fun h0 => ⟨_, rfl, ?_⟩⟩
    · exact (a.tamperAct_eq k late).trans ((if_pos h0).trans hlogged)
    · have heq : a.tamperAct k late = logged.tamperWipe.tamperDo act := (a.tamperAct_eq k late).trans ((if_neg h0).trans (by rw [hlogged]))
      have hup : logged.up = a.up := rfl
      have hld : logged.sec = a.sec := rfl
      have hmem : logged.mem = a.mem := rfl
      have hpower : logged.power = a.power := rfl
      have hbat : logged.bat = a.bat := rfl
      rw [heq, State.tamperDo_eq]
      clear heq hlogged
      clear_value logged
      have hk := logged.tamperWipe_changes
      have hz := logged.tamperWipe_spec
      have hzp : logged.tamperWipe.power = logged.power := hk.same .power rfl
      have hzb : logged.tamperWipe.bat = logged.bat := hk.same .bat rfl
      rw [hpower] at hzp
      rw [hbat] at hzb
      rw [hup, hld, hmem] at hz
      generalize logged.tamperWipe = z at hk hz hzp hzb
      refine ⟨?_, fun hu => ⟨(hz hu).1, (hz hu).2.1⟩, fun hu => (hz hu).2.2.1, fun hu => (hz hu).2.2.2, ?_, fun i => ?_⟩
      · obtain ⟨c, q, m, x, hzk⟩ : ∃ c q m x, z = { logged with key := c, seqs := q, mem := m, sec := x } := ⟨_, _, _, _, hk.frame⟩
        subst hzk
        rfl
      · rw [hzp]
      · rw [hzb]
        refine (congrArg (Bank.at · i) (apply_ite Battery.data _ _ _)).trans ?_
        by_cases ha : act = 3
        · rw [if_pos ha, Battery.wordsCleared_data]
          exact if_congr (by rw [and_iff_right ha]) rfl rfl
        · rw [if_neg ha, if_neg fun h => ha h.1]
  case sort =>
    intro x y sameNs
    have hbefore : x.before y = true ↔ sameNs ∧ fldN x.hi 27 3 < fldN y.hi 27 3 := by
      unfold TamperEntry.before
      simp [sameNs, and_assoc]
    refine ⟨fun h => if_neg fun hb => ?_, fun hs hlt => if_pos (hbefore.2 ⟨hs, hlt⟩)⟩
    obtain ⟨hs, hlt⟩ := hbefore.1 hb
    exact h.elim (fun hn => hn hs) fun hle => Nat.not_lt.2 hle hlt
  case input =>
    intro a c x input gives
    have hgives : gives ↔ a.tamperGives k = true := (a.tamperGives_iff k).symm
    refine ⟨fun v => ?_, fun h => ?_, fun h hst => ?_, fun h hst => ?_⟩
    · exact congrArg Host.Outcome.next (if_congr Iff.rfl rfl rfl)
    · exact congrArg Host.Outcome.next ((a.tamperEvent_eq k).trans (if_neg (mt hgives.2 h)))
    · exact congrArg Host.Outcome.next ((a.tamperEvent_eq k).trans ((if_pos (hgives.1 h)).trans (State.tamperGive_waits hst)))
    · exact congrArg Host.Outcome.next ((a.tamperEvent_eq k).trans ((if_pos (hgives.1 h)).trans (State.tamperGive_acts hst)))
  case settle =>
    refine ⟨fun h => ?_, fun k hst hw => ?_⟩
    · by_cases hst : s.sec.tr.st = .idle
      · refine (if_neg (not_not_intro hst)).trans ((State.tamperFold (k := 0) [0, 1, 2, 3] s (fun j _ _ => ?_) (by decide)).1 (.inr ?_))
        · exact h.resolve_left (not_not_intro hst) j
        · exact h.resolve_left (not_not_intro hst) 0
      · exact if_pos hst
    · refine (if_neg (not_not_intro hst)).trans ((State.tamperFold (k := k) [0, 1, 2, 3] s (fun j _ hj => ?_) (by decide)).2 ?_ ?_)
      · rw [hw, decide_eq_false hj]
      · clear hw
        revert k
        decide
      · rw [hw, decide_eq_true rfl]

end Sys2Proof.Machine

namespace Sys2Proof.Machine

/-! R549, R552: a load that fails. -/

section
variable {s z : State}

theorem State.ldFail_loadFailed (s : State) (e : Nat) : s.LoadFailed (s.ldFail e) e := by
  refine ⟨?_, fun h => ?_, fun h => ?_⟩
  · unfold State.ldFail
    split <;> rfl
  · unfold State.ldFail
    rw [if_neg (Bool.eq_false_iff.1 h)]
    exact ⟨rfl, rfl⟩
  · unfold State.ldFail
    rw [if_pos h]
    exact ⟨rfl, fun _ => Mem.mem_wipe⟩

theorem State.ldGuard_eq (s : State) : s.ldGuard = State.ldFail { s with
    power := { s.power with guardCnt := if s.power.guardCnt = 0xFFFF then 0xFFFF else s.power.guardCnt + 1 } } 12 :=
  congrArg (State.ldFail · 12) s.guardRefused_eq

/-! R548: GO, ABORT, the window and the feed. -/

theorem State.busWrite_sec {r : Req} {o : Nat} {v : W32} (hp : s.refusal r true (0x30000 + o) 4 v.toNat = none)
    (ho : o < 0x10000) (hm : memWindow (0x30000 + o) = false) (hw : w1Bits (0x30000 + o) = 0) :
    (s.busWrite r (0x30000 + o) 4 v.toNat).2 = s.wrSec o v := by
  rw [State.busWrite_plain hp hm hw]
  unfold State.regWrite
  rw [show (0x30000 + o) / 0x10000 = 3 by omega, show (0x30000 + o) % 0x10000 = o by omega]
  rfl

theorem LdSt.loading_cases (x : LdSt) : x.loading = true ∧ x ≠ .commit ↔ x = .header ∨ x = .key ∨ x = .pass ∨ x = .verify := by
  cases x <;> decide

/-- R20: no word of the loader's window holds a W1C bit. -/
theorem w1Bits_window {a : Nat} (h1 : 0x38000 ≤ a) (h2 : a < 0x40000) : w1Bits a = 0 := by
  have hw (lo hi : Nat) (h : 0x40000 ≤ lo) : within a lo hi = false := by
    unfold within
    grind
  unfold w1Bits
  simp only [hw 0x100000 0x104000 (by decide), hw 0x110000 0x114000 (by decide),
    hw 0x140000 0x142000 (by decide), hw 0x180000 0x190000 (by decide), hw 0x1C0000 0x1C4000 (by decide),
    hw 0x1E0000 0x1E1000 (by decide), hw 0x1F0000 0x1F1000 (by decide), hw 0x82080 0x820C0 (by decide),
    hw 0xB0000 0xB1000 (by decide), hw 0xB2000 0xB2400 (by decide), hw 0xB3000 0xB3200 (by decide),
    hw 0xC0C00 0xC0C40 (by decide), hw 0xC3000 0xC30A4 (by decide), hw 0xA0140 0xA0300 (by decide),
    hw 0x201000 0x201400 (by decide), Bool.false_eq_true, if_false]
  split
  any_goals omega
  rfl

theorem window_address (h : Fin 2) (w : Fin 4096) : memWindow (0x30000 + (0x8000 + 0x4000 * h.val + 4 * w.val)) = false ∧
    w1Bits (0x30000 + (0x8000 + 0x4000 * h.val + 4 * w.val)) = 0 := by
  have hh := h.isLt
  have hw := w.isLt
  generalize ha : 0x30000 + (0x8000 + 0x4000 * h.val + 4 * w.val) = a
  have h1 : 0x38000 ≤ a := by omega
  have h2 : a < 0x40000 := by omega
  clear ha
  refine ⟨?_, w1Bits_window h1 h2⟩
  unfold memWindow memOf
  grind

theorem State.wrSec_window (s : State) (h : Fin 2) (w : Fin 4096) (v : W32) :
    s.wrSec (0x8000 + 0x4000 * h.val + 4 * w.val) v = s.ldWindow h w v := by
  have hw := w.isLt
  unfold State.wrSec
  rw [if_pos (by omega)]
  have hword : Fin.ofNat 4096 ((0x8000 + 0x4000 * h.val + 4 * w.val) % 0x4000 / 4) = w := Fin.ext (by simp; omega)
  rw [hword]
  match h with
  | 0 => exact congrArg (s.ldWindow · w v) (if_pos (by simp; omega))
  | 1 => exact congrArg (s.ldWindow · w v) (if_neg (by simp))

/-! R549, R551: consumption. -/

theorem beBytes_length (n v : Nat) : (beBytes n v).length = n :=
  (List.length_map _).trans List.length_range

theorem Loader.winBytes_length (l : Loader) (w n : Nat) : (l.winBytes w n).length = 4 * n := by
  unfold Loader.winBytes
  rw [List.length_flatMap, show (fun i => ((beBytes 4 (sparseGet (0 : W32) l.win (w + i)).toNat).reverse).length) = fun _ => 4 from
    funext fun i => (List.length_reverse).trans (beBytes_length _ _)]
  simp [Nat.mul_comm]

/-- R549, R551: what is consumed is whole words of the oldest fed half, no more than the present state consumes. -/
theorem Loader.take_spec {l l' : Loader} (h : l.take = some l') : ∃ b : List Byte, l'.img = l.img ++ b ∧ 4 ≤ b.length ∧ b.length % 4 = 0 ∧
    l'.img.length ≤ l.limit ∧ l' = { l with img := l'.img, fed := l'.fed, free := l'.free } := by
  unfold Loader.take at h
  split at h
  · exact nomatch h
  · next p n rest hfed =>
    extract_lets later left k b l1 at h
    split at h
    · exact nomatch h
    · next hk =>
      have hb : b.length = 4 * (k / 4) := l.winBytes_length _ _
      have hlen : (l.img ++ b).length ≤ l.limit := by
        rw [List.length_append, hb]
        omega
      have hl' := Option.some.inj h
      refine ⟨b, ?_, by omega, by omega, ?_, ?_⟩
      · rw [← hl']
        split <;> rfl
      · rw [← hl']
        split <;> exact hlen
      · rw [← hl']
        split <;> rfl

theorem State.ldStore_ld (s : State) (e o : Nat) (d : List Byte) : (s.ldStore e o d).sec.ld = s.sec.ld := by
  have hcs (ks : List (Fin 4)) (f : CsCopy → CsCopy) : (s.csChange ks f).sec.ld = s.sec.ld := by
    obtain ⟨c, hc⟩ := s.csChange_eq ks f
    rw [hc]
  have hmem {z : State} (h : State.Changes [.seqs, .mem] s z) : z.sec.ld = s.sec.ld := congrArg Security.ld (h.same .sec rfl : z.sec = s.sec)
  unfold State.ldStore
  dsimp only
  split
  · exact hmem (.foldl (.refl _ s) fun z i => z.memWrite_changes _ _ _ _)
  · refine hmem (.foldl (.refl _ s) fun z i => ?_)
    split
    · exact .refl _ z
    · exact z.memWrite_changes _ _ _ _
  · exact hcs _ _
  · exact hcs _ _
  · rfl

theorem State.ldStore_key (s : State) (e o : Nat) (d : List Byte) : (s.ldStore e o d).key = s.key :=
  (s.ldStore_changes e o d).same .key rfl

theorem State.ldFail_img (s : State) (e : Nat) : (s.ldFail e).sec.ld.img = s.sec.ld.img := by
  rw [(s.ldFail_loadFailed e).1]

theorem State.ldStores_ld {α : Type} (f : α → Nat) (g : α → Nat) (d : α → List Byte) (l : List α) : ∀ s : State,
    (l.foldl (init := s) fun z x => z.ldStore (f x) (g x) (d x)).sec.ld = s.sec.ld := by
  induction l with
  | nil => exact fun _ => rfl
  | cons x l ih => exact fun s => (ih _).trans (s.ldStore_ld _ _ _)

theorem State.ldPayload_img (s : State) : s.ldPayload.sec.ld.img = s.sec.ld.img := by
  unfold State.ldPayload
  extract_lets l upto raw plain hit lo hi s1
  have hstored : s1.sec.ld = s.sec.ld :=
    State.ldStores_ld (fun e => e) (fun e => lo e - sectOff l.img e) (fun e => imgBytes plain (lo e - l.paid) (hi e - lo e)) hit s
  clear_value s1
  split
  · rfl
  · split
    · rw [State.ldGuard_eq, State.ldFail_img]
    · split
      · unfold State.ldEcc
        rw [State.ldFail_img]
        split <;> rfl
      · exact (congrArg Loader.img hstored :)

theorem State.ldSettle_img (s : State) : s.ldSettle.sec.ld.img = s.sec.ld.img := by
  unfold State.ldSettle
  dsimp only
  split <;> rfl

/-! R550: the header. -/

/-- R550, orders 2 to 8: the ERR codes of the header, each with the check that gives it, in their order. -/
def State.ldChecks (s : State) (i : List Byte) : List (Bool × Nat) :=
  let want : Nat := if imgCustomer i then s.bat.keyHash else Config.vendorHash.toNat
  let patch : Bool := imgHas i [2, 3]
  [(!imgFormat i || decide (imgTotal i < s.sec.ld.fedBytes), 3), (imgRefused i s.vault.state s.vault.count, 4),
    (imgCustomer i && s.bat.noKey, 5), (decide (beNat (sha384 (imgBytes i 0x40 96)) ≠ want), 6),
    (!decide (imgLe i 0x10 4 / 0x10000 = 9 ∧ imgLe i 0x10 4 % 0x10000 ≤ 2) ||
      decide (imgRomRev i ≠ 0 ∧ imgRomRev i ≠ 0x11) || (decide (imgRomRev i = 0) && patch), 7),
    (decide (imgSvn i < s.vault.svn.toNat), 8), (patch && !(s.halfUp 0 && s.halfUp 1), 2)]

theorem State.ldHeader_eq (s : State) (i : List Byte) : s.ldHeader i = ((s.ldChecks i).find? fun p => p.1).map fun p => p.2 := by
  unfold State.ldHeader State.ldChecks versionMeets
  simp only [find?_cons_map, List.find?_nil, Option.map_none, decide_eq_true_eq]

theorem State.ldHeaderDone_eq {e : Option Nat} (hst : s.sec.ld.st = .header) (h1 : 0xC0 ≤ s.sec.ld.img.length)
    (h2 : imgH s.sec.ld.img ≤ s.sec.ld.img.length) (he : s.ldHeader s.sec.ld.img = e) : s.ldHeaderDone = e.elim
      (if imgEnc s.sec.ld.img then (s.modLd fun x => { x with st := .key }).keyRequest else (s.modLd fun x => { x with st := .pass }).ldSettle)
      s.ldFail := by
  refine (if_pos ⟨hst, h1, h2⟩).trans ?_
  rw [he]
  cases e <;> rfl

/-- R549: PASS ends at once where the image has come. -/
theorem State.ldSettle_pass (hst : s.sec.ld.st = .pass) : s.ldSettle = { s with
    sec := { s.sec with ld := { s.sec.ld with st := if imgTotal s.sec.ld.img - 96 ≤ s.sec.ld.img.length then .verify else .pass } } } := by
  unfold State.ldSettle
  dsimp only
  by_cases h : imgTotal s.sec.ld.img - 96 ≤ s.sec.ld.img.length
  · rw [if_pos ⟨hst, h⟩, if_pos h]
    rfl
  · rw [if_neg fun k => h k.2, if_neg h, ← hst]

/-! R80, R81: the key. -/

theorem State.keyRequest_low (h : s.power.low = true) : s.keyRequest = s.ldGuard := if_pos h

theorem State.keyRequest_rise (h : s.power.low = false) (ha : s.key.ack = false) :
    s.keyRequest = { s with key := { s.key with req := true, waits := false, since := s.now } } :=
  (if_neg (Bool.eq_false_iff.1 h)).trans (if_neg (Bool.eq_false_iff.1 ha))

theorem State.keyRequest_wait (h : s.power.low = false) (ha : s.key.ack = true) : s.keyRequest = { s with key := { s.key with waits := true } } :=
  (if_neg (Bool.eq_false_iff.1 h)).trans (if_pos ha)

/-! R552: the rollback. -/

theorem State.ldRollback_spec (hst : s.sec.ld.st = .rollback) (h : s.sec.ld.agWritten = false ∨ s.mem.wiping = false) (hz : s.ldRollback = z) :
    z.sec.ld = { s.sec.ld with st := .idle, done := true } ∧ z.key = s.key.clear ∧
    z = { s with sec := z.sec, mem := z.mem, seqs := z.seqs, cs := z.cs, key := z.key } := by
  have hk := hz ▸ s.ldRollback_changes
  subst hz
  have hcond : (!(s.sec.ld.agWritten && s.mem.wiping)) = true := by
    rcases h with h | h <;> rw [h]
    · rfl
    · rw [Bool.and_false]
      rfl
  rw [← and_assoc]
  refine ⟨?_, hk.frame⟩
  clear hk
  unfold State.ldRollback
  extract_lets l s1
  rw [if_pos ⟨hst, hcond⟩]
  have hkept : s1.sec.ld = s.sec.ld ∧ s1.key = s.key := by
    refine foldl_keep (p := fun z : State => z.sec.ld = s.sec.ld ∧ z.key = s.key) ⟨rfl, rfl⟩ fun z e ⟨hz, hq⟩ => ?_
    dsimp only
    split
    · exact ⟨(z.ldStore_ld _ _ _).trans hz, (z.ldStore_key _ _ _).trans hq⟩
    · exact ⟨hz, hq⟩
  clear_value s1
  obtain ⟨h1, h2⟩ := hkept
  exact ⟨(congrArg (fun x : Loader => { x with st := .idle, done := true, err := l.err }) h1 :), (congrArg KeyPort.clear h2 :)⟩

/-! R547, R550: the verification. -/

/-- R547: the signature of the image verifies. -/
def imgSigned (i : List Byte) : Bool :=
  ecdsaOk (imgBytes i 0x40 96) (sha384 (i.take (imgTotal i - 96))) (imgBytes i (imgTotal i - 96) 96)

/-- R547: the tag of an encrypted image is right. -/
def imgTagged (i : List Byte) (key : BitVec 256) : Prop :=
  imgEnc i = true → gcmTag (keyBytes key) (imgBytes i 0x20 12)
    (imgBytes i 0 0x30 ++ imgBytes i 0xC0 (imgH i - 0xC0)) (imgBytes i (imgH i) (imgP i)) = imgBytes i 0x30 16

theorem imgUntagged_iff (i : List Byte) (key : BitVec 256) : (imgEnc i && decide (gcmTag (keyBytes key) (imgBytes i 0x20 12)
    (imgBytes i 0 0x30 ++ imgBytes i 0xC0 (imgH i - 0xC0)) (imgBytes i (imgH i) (imgP i)) ≠ imgBytes i 0x30 16)) = true ↔
    ¬ imgTagged i key := by
  unfold imgTagged
  rw [Bool.and_eq_true, decide_eq_true_iff, Classical.not_imp]

theorem State.ldVerifyDone_eq (hst : s.sec.ld.st = .verify) (hlen : s.sec.ld.img.length = imgTotal s.sec.ld.img) : s.ldVerifyDone =
    if !imgSigned s.sec.ld.img then s.ldFail 9
    else if imgEnc s.sec.ld.img && decide (gcmTag (keyBytes s.key.key) (imgBytes s.sec.ld.img 0x20 12)
      (imgBytes s.sec.ld.img 0 0x30 ++ imgBytes s.sec.ld.img 0xC0 (imgH s.sec.ld.img - 0xC0))
        (imgBytes s.sec.ld.img (imgH s.sec.ld.img) (imgP s.sec.ld.img)) ≠ imgBytes s.sec.ld.img 0x30 16) then s.ldFail 10
    else s.modLd fun x => { x with st := .commit } :=
  if_pos ⟨hst, hlen⟩

theorem State.ldVerifyDone_ok (hst : s.sec.ld.st = .verify) (hlen : s.sec.ld.img.length = imgTotal s.sec.ld.img)
    (h1 : imgSigned s.sec.ld.img = true) (h2 : imgTagged s.sec.ld.img s.key.key) : s.ldVerifyDone = s.modLd fun x => { x with st := .commit } := by
  rw [State.ldVerifyDone_eq hst hlen, h1, if_neg (by decide), if_neg fun h => (imgUntagged_iff _ _).1 h h2]

theorem State.ldVerifyDone_fails (hst : s.sec.ld.st = .verify) (hlen : s.sec.ld.img.length = imgTotal s.sec.ld.img)
    (h : imgSigned s.sec.ld.img = false ∨ ¬ imgTagged s.sec.ld.img s.key.key) :
    s.ldVerifyDone = s.ldFail (if imgSigned s.sec.ld.img then 10 else 9) := by
  rw [State.ldVerifyDone_eq hst hlen]
  cases h1 : imgSigned s.sec.ld.img with
  | false => rfl
  | true => exact (if_neg (by decide)).trans (if_pos ((imgUntagged_iff _ _).2 (h.resolve_left (by rw [h1]; decide))))

/-! R551, R552: COMMIT. -/

/-- R552: the SVN that COMMIT leaves. -/
def State.ldSvn (s : State) : State :=
  if imgSvnUp s.sec.ld.img && decide (s.vault.svn.toNat < imgSvn s.sec.ld.img) then
    s.modVault fun v => { v with svn := BitVec.ofNat 32 (imgSvn s.sec.ld.img) }
  else s

theorem State.ldSvn_eq (s : State) : s.ldSvn = { s with vault := { s.vault with
    svn := if imgSvnUp s.sec.ld.img = true ∧ s.vault.svn.toNat < imgSvn s.sec.ld.img then BitVec.ofNat 32 (imgSvn s.sec.ld.img)
      else s.vault.svn } } := by
  unfold State.ldSvn
  by_cases h : imgSvnUp s.sec.ld.img = true ∧ s.vault.svn.toNat < imgSvn s.sec.ld.img
  · rw [if_pos h, if_pos (by rw [Bool.and_eq_true, decide_eq_true_iff]; exact h)]
    rfl
  · rw [if_neg h, if_neg (by rw [Bool.and_eq_true, decide_eq_true_iff]; exact h)]

/-- R552: the locks, the identity of the patch and the copies of the header that COMMIT sets. -/
def Security.committed (c : Security) (i : List Byte) : Security :=
  let lock := (imgTable i).any fun e => sectLock i e && (decide (sectType i e = 2) || decide (sectType i e = 3))
  { c with
    csLock := if lock then 0xF else c.csLock
    patchId := if imgHas i [2, 3] then BitVec.ofNat 32 (imgLe i 0x18 4) else c.patchId
    patchRom := if imgHas i [2, 3] then BitVec.ofNat 16 (imgRomRev i) else c.patchRom
    patchValid := if imgHas i [2, 3] then 0xF else c.patchValid
    hdr := Vector.ofFn fun k : Fin 48 => BitVec.ofNat 32 (imgLe i (4 * k.val) 4) }

theorem Security.committed_spec (c : Security) (i : List Byte) :
    (c.committed i).ld = c.ld ∧ (c.committed i).tr = c.tr ∧
    (imgHas i [2, 3] = true → (c.committed i).patchValid = 0xF ∧ (c.committed i).patchId = BitVec.ofNat 32 (imgLe i 0x18 4)) ∧
    (imgHas i [2, 3] = false → (c.committed i).patchValid = c.patchValid ∧ (c.committed i).patchId = c.patchId) ∧
    ((c.committed i).csLock = 0xF ∨ (c.committed i).csLock = c.csLock) ∧
    ∀ k : Fin 48, (c.committed i).hdr.at k = BitVec.ofNat 32 (imgLe i (4 * k.val) 4) := by
  refine ⟨rfl, rfl, fun h => ⟨if_pos h, if_pos h⟩, fun h => ?_, ite_eq_or_eq _ _ _, fun k => Bank.at_ofFn _ k⟩
  exact ⟨if_neg (Bool.eq_false_iff.1 h), if_neg (Bool.eq_false_iff.1 h)⟩

/-- R551, R552: the state that an image has committed. -/
def State.ldCommitted (s : State) : State :=
  (s.ldSvn.modMem fun m => { m with wlock := m.wlock ||| imgLocks s.sec.ld.img }).modSec fun c => c.committed s.sec.ld.img

theorem State.ldCommit_eq (hst : s.sec.ld.st = .commit) (htr : s.sec.tr.st = .idle) (hlow : s.power.low = false) :
    s.ldCommit = if imgAuth s.sec.ld.img then s.ldCommitted.lcStart 7 true else s.ldCommitted.ldEnd 0 :=
  (if_pos ⟨hst, htr⟩).trans (if_neg (Bool.eq_false_iff.1 hlow))

theorem State.ldCommitted_eq (s : State) : s.ldCommitted = { s with
    vault := { s.vault with
      svn := if imgSvnUp s.sec.ld.img = true ∧ s.vault.svn.toNat < imgSvn s.sec.ld.img then BitVec.ofNat 32 (imgSvn s.sec.ld.img)
        else s.vault.svn }
    mem := { s.mem with wlock := s.mem.wlock ||| imgLocks s.sec.ld.img }, sec := s.sec.committed s.sec.ld.img } := by
  unfold State.ldCommitted
  rw [State.ldSvn_eq]
  rfl

/-- R543, R551: a transition that an image starts. -/
theorem State.lcStart_byLoad (s : State) (hz : s.lcStart 7 true = z) :
    z.sec.tr = { st := .clear, target := 7, full := true, byLoad := true } ∧ z.sec.ld = s.sec.ld ∧ z.mem.wiping = true := by
  obtain ⟨c, l, v, hc⟩ := ({ (s.memZero [0, 2, 3]) with
    seqs := s.seqs.map fun q : Seq => { q with resv := none }
    sec := { s.sec with lcResult := 0, tr := { st := .clear, target := 7, full := true, byLoad := true } } } : State).csZero_eq
  rw [State.lcStart_full (by decide) hc] at hz
  subst hz
  exact ⟨rfl, rfl, rfl⟩

/-- R552: the commit of an image that starts no transition. -/
theorem State.ldCommit_image (hst : s.sec.ld.st = .commit) (htr : s.sec.tr.st = .idle) (ha : imgAuth s.sec.ld.img = false)
    (hlow : s.power.low = false) (hz : s.ldCommit = z) :
    let i := s.sec.ld.img
    z = { s with sec := z.sec, vault := z.vault, mem := { s.mem with wlock := s.mem.wlock ||| imgLocks i }, key := s.key.clear } ∧
    z.vault = { s.vault with svn := if imgSvnUp i = true ∧ s.vault.svn.toNat < imgSvn i then BitVec.ofNat 32 (imgSvn i) else s.vault.svn } ∧
    z.sec.ld = { s.sec.ld with st := .idle, done := true, err := 0 } ∧ z.sec.tr = s.sec.tr ∧
    (imgHas i [2, 3] = true → z.sec.patchValid = 0xF ∧ z.sec.patchId = BitVec.ofNat 32 (imgLe i 0x18 4)) ∧
    (imgHas i [2, 3] = false → z.sec.patchValid = s.sec.patchValid ∧ z.sec.patchId = s.sec.patchId) ∧
    (z.sec.csLock = 0xF ∨ z.sec.csLock = s.sec.csLock) ∧ ∀ k : Fin 48, z.sec.hdr.at k = BitVec.ofNat 32 (imgLe i (4 * k.val) 4) := by
  intro i
  have heq : z = s.ldCommitted.ldEnd 0 := hz.symm.trans ((State.ldCommit_eq hst htr hlow).trans (if_neg (Bool.eq_false_iff.1 ha)))
  rw [State.ldCommitted_eq] at heq
  obtain ⟨h1, h2, h3, h4, h5, h6⟩ := s.sec.committed_spec i
  change z = ({ s with
    vault := { s.vault with svn := if imgSvnUp i = true ∧ s.vault.svn.toNat < imgSvn i then BitVec.ofNat 32 (imgSvn i) else s.vault.svn }
    mem := { s.mem with wlock := s.mem.wlock ||| imgLocks i }, sec := s.sec.committed i } : State).ldEnd 0 at heq
  clear_value i
  generalize s.sec.committed i = c at heq h1 h2 h3 h4 h5 h6
  clear hz
  subst heq
  exact ⟨rfl, rfl, (congrArg (fun l : Loader => { l with st := .idle, done := true, err := 0 }) h1 :), h2, h3, h4, h5, h6⟩

/-- R551, R552: the commit of an image that starts a transition. -/
theorem State.ldCommit_auth (hst : s.sec.ld.st = .commit) (htr : s.sec.tr.st = .idle) (ha : imgAuth s.sec.ld.img = true)
    (hlow : s.power.low = false) (hz : s.ldCommit = z) :
    z.sec.tr = { st := .clear, target := 7, full := true, byLoad := true } ∧ z.sec.ld = s.sec.ld ∧ z.mem.wiping = true ∧
    z = { s with sec := z.sec, vault := z.vault, mem := z.mem, chans := z.chans, seqs := z.seqs, cs := z.cs } := by
  have heq : s.ldCommitted.lcStart 7 true = z := ((State.ldCommit_eq hst htr hlow).trans (if_pos ha)).symm.trans hz
  obtain ⟨h1, h2, h3⟩ := State.lcStart_byLoad s.ldCommitted heq
  have hk := heq ▸ s.ldCommitted.lcStart_changes 7 true
  have hld : s.ldCommitted.sec.ld = s.sec.ld := by
    rw [State.ldCommitted_eq]
    exact (s.sec.committed_spec _).1
  obtain ⟨c, q, m, k, x, hframe⟩ : ∃ c q m k x, z = { s.ldCommitted with chans := c, seqs := q, mem := m, cs := k, sec := x } :=
    ⟨_, _, _, _, _, hk.frame⟩
  refine ⟨h1, h2.trans hld, h3, ?_⟩
  rw [State.ldCommitted_eq] at hframe
  clear hk h1 h2 h3 heq hz hld
  subst hframe
  rfl

/-! R80, R81: KP_ACK. -/

theorem State.keyAck_rise_none {k : BitVec 256} (h : s.sec.ld.st ≠ .key ∨ s.key.req = false) :
    s.keyAck true k = { s with key := { s.key with ack := true } } := by
  by_cases hst : s.sec.ld.st = .key
  · exact (if_neg (not_not_intro hst)).trans ((if_pos rfl).trans (if_neg (Bool.eq_false_iff.1 (h.resolve_left (not_not_intro hst)))))
  · exact if_pos hst

theorem State.keyAck_fall_none {k : BitVec 256} (h : s.sec.ld.st ≠ .key ∨ s.key.waits = false) :
    s.keyAck false k = { s with key := { s.key with ack := false } } := by
  by_cases hst : s.sec.ld.st = .key
  · exact (if_neg (not_not_intro hst)).trans ((if_neg Bool.false_ne_true).trans
      (if_neg (Bool.eq_false_iff.1 (h.resolve_left (not_not_intro hst)))))
  · exact if_pos hst

theorem State.keyAck_fall {k : BitVec 256} (hst : s.sec.ld.st = .key) (hw : s.key.waits = true) :
    s.keyAck false k = ({ s with key := { s.key with ack := false } } : State).keyRequest :=
  (if_neg (not_not_intro hst)).trans ((if_neg Bool.false_ne_true).trans (if_pos hw))

theorem State.keyAck_rise {k : BitVec 256} (hst : s.sec.ld.st = .key) (hr : s.key.req = true) :
    s.keyAck true k = ({ s with
      sec := { s.sec with ld := { s.sec.ld with st := .pass } }, key := { s.key with ack := true, req := false, key := k } } : State).ldSettle :=
  (if_neg (not_not_intro hst)).trans ((if_pos rfl).trans (if_pos hr))

end

/-- Settles O41. -/
theorem imageLoader : Obligations.ImageLoader := by
  unfold Obligations.ImageLoader
  intro guarded
  refine ⟨fun s r h w v => ?control, fun s ht => ?nothing, fun s l ht hb => ?bad, fun s l ht hb hst => ?taken, fun l l' ht => Loader.take_spec ht,
    fun s l ht hb hst => ?pass, fun s t => ?header, fun s t k => ?key, fun s => ?finish⟩
  case control =>
    intro l ld
    refine ⟨fun hp => ?go, fun hp => ?abort, fun hp => ?window, fun n k hp hn hk => ?feed⟩
    case go =>
      have heq : exec (.loaderGo r) s = .next (s.ldCtrl 1) :=
        congrArg Host.Outcome.next (State.busWrite_sec (o := 0x10) (v := 1) hp (by decide) (by decide +kernel) (by decide +kernel))
      have hidle (hst : l.st = .idle) : s.ldCtrl 1 = s.ldGo := if_pos hst
      refine ⟨fun hst => heq.trans (congrArg Host.Outcome.next (if_neg hst)), fun hst hb => heq.trans (congrArg Host.Outcome.next ((hidle hst).trans ?_)),
        fun hst htr hb hlow => heq.trans (congrArg Host.Outcome.next ((hidle hst).trans ?_)),
        fun hst htr hb hlow => heq.trans (congrArg Host.Outcome.next ((hidle hst).trans ?_))⟩
      · exact (if_neg (not_not_intro hst)).trans (if_pos hb)
      · refine (if_neg (not_not_intro hst)).trans ((if_neg ?_).trans ((if_pos hlow).trans ?_))
        · rw [hb]
          exact fun h => h.elim (fun h => h htr) Bool.false_ne_true
        · exact congrArg (State.modLd · fun l => { l with err := 12, done := true }) s.guardRefused_eq
      · refine (if_neg (not_not_intro hst)).trans ((if_neg ?_).trans (if_neg (Bool.eq_false_iff.1 hlow)))
        rw [hb]
        exact fun h => h.elim (fun h => h htr) Bool.false_ne_true
    case abort =>
      have heq : exec (.loaderAbort r) s = .next (s.ldCtrl 2) :=
        congrArg Host.Outcome.next (State.busWrite_sec (o := 0x10) (v := 2) hp (by decide) (by decide +kernel) (by decide +kernel))
      have hbusy (hst : l.st ≠ .idle) : s.ldCtrl 2 = s.ldAbort := if_neg hst
      refine ⟨fun hst => heq.trans (congrArg Host.Outcome.next ?_), fun h1 h2 htr => ⟨s.ldFail 15, heq.trans (congrArg Host.Outcome.next ?_), s.ldFail_loadFailed 15⟩⟩
      · rcases hst with hst | hst
        · exact (if_pos hst).trans (if_neg (by decide))
        · exact (hbusy (by rw [hst]; decide)).trans (if_neg fun h => (LdSt.loading_iff _).1 h.1 (.inr hst))
      · exact (hbusy h1).trans (if_pos ⟨(LdSt.loading_iff _).2 (not_or.2 ⟨h1, h2⟩), by simp [htr]⟩)
    case window =>
      obtain ⟨hm, hw⟩ := window_address h w
      have ho : 0x8000 + 0x4000 * h.val + 4 * w.val < 0x10000 := by omega
      have ha : 0x38000 + 0x4000 * h.val + 4 * w.val = 0x30000 + (0x8000 + 0x4000 * h.val + 4 * w.val) := by omega
      refine congrArg Host.Outcome.next ?_
      rw [ha] at hp ⊢
      exact (State.busWrite_sec hp ho hm hw).trans (s.wrSec_window h w v)
    case feed =>
      intro takes
      have heq : exec (.loaderFeed r v) s = .next (s.ldFeed v) :=
        congrArg Host.Outcome.next (State.busWrite_sec (o := 0x14) hp (by decide) (by decide +kernel) (by decide +kernel))
      subst hn hk
      have htakes : takes ↔ ¬ (l.st = .idle ∨ l.st = .commit ∨ l.st = .rollback ∨ (!l.free.at (if bit v 16 then 1 else 0)) = true ∨ fldN v 0 13 = 0 ∨
          4096 < fldN v 0 13) := by
        have := LdSt.loading_iff l.st
        have := LdSt.loading_cases l.st
        simp only [takes]
        grind
      refine ⟨fun h => heq.trans (congrArg Host.Outcome.next (if_pos (not_not.1 (mt htakes.2 h)))), fun h hlen => heq.trans (congrArg Host.Outcome.next ?_),
        fun h h1 h2 => ⟨s.ldFail 3, heq.trans (congrArg Host.Outcome.next ?_), s.ldFail_loadFailed 3⟩⟩
      · exact (if_neg (htakes.1 h)).trans (if_neg fun k => hlen.elim (Nat.not_lt.2 k.1) (Nat.not_le.2 k.2))
      · exact (if_neg (htakes.1 h)).trans (if_pos ⟨h1, h2⟩)
  case nothing =>
    refine congrArg Host.Outcome.next (?_ : s.ldConsume = s)
    unfold State.ldConsume
    rw [ht]
  case bad =>
    have heq : s.ldConsume = ({ s with sec := { s.sec with ld := l } } : State).ldFail 13 := by
      unfold State.ldConsume
      rw [ht]
      exact if_pos hb
    exact ⟨_, congrArg Host.Outcome.next heq, State.ldFail_loadFailed _ 13⟩
  case taken =>
    refine congrArg Host.Outcome.next (?_ : s.ldConsume = _)
    unfold State.ldConsume
    rw [ht]
    exact (if_neg (Bool.eq_false_iff.1 hb)).trans (if_neg hst)
  case pass =>
    have heq : s.ldConsume = ({ s with sec := { s.sec with ld := l } } : State).ldPayload.ldSettle := by
      unfold State.ldConsume
      rw [ht]
      exact (if_neg (Bool.eq_false_iff.1 hb)).trans (if_pos hst)
    refine ⟨_, congrArg Host.Outcome.next heq, ?_, ?_⟩
    · rw [State.ldSettle_img, State.ldPayload_img]
    · rw [← heq]
      exact s.ldConsume_changes.frame
  case header =>
    intro a l i ld want patch fails hst h1 h2
    have hchecks : a.ldHeader i = fails := a.ldHeader_eq i
    have heq (e : Option Nat) (he : fails = e) : exec (.loaderHeaderDone t) s = .next (e.elim
        (if imgEnc i then (a.modLd fun x => { x with st := .key }).keyRequest else (a.modLd fun x => { x with st := .pass }).ldSettle) a.ldFail) :=
      congrArg Host.Outcome.next (State.ldHeaderDone_eq hst h1 h2 (hchecks.trans he))
    refine ⟨fun e he => ⟨_, heq _ he, a.ldFail_loadFailed e⟩, fun he henc hlow => ?_, fun he henc hlow hack => ?_, fun he henc hlow hack => ?_,
      fun he henc => ?_⟩
    · refine ⟨_, (heq _ he).trans (congrArg Host.Outcome.next ((if_pos henc).trans ((State.keyRequest_low (s := a.modLd fun x => { x with st := .key }) hlow).trans (State.ldGuard_eq _)))), ?_⟩
      exact State.ldFail_loadFailed ({ a with power := guarded a, sec := { a.sec with ld := { a.sec.ld with st := .key } } } : State) 12
    · exact (heq _ he).trans (congrArg Host.Outcome.next ((if_pos henc).trans (State.keyRequest_rise hlow hack)))
    · exact (heq _ he).trans (congrArg Host.Outcome.next ((if_pos henc).trans (State.keyRequest_wait hlow hack)))
    · exact (heq _ he).trans (congrArg Host.Outcome.next ((if_neg (Bool.eq_false_iff.1 henc)).trans (State.ldSettle_pass rfl)))
  case key =>
    intro a l pin
    refine ⟨fun h => congrArg Host.Outcome.next ?_, fun h => congrArg Host.Outcome.next ?_, fun hst hw hlow => congrArg Host.Outcome.next ?_,
      fun hst hw hlow => ⟨_, congrArg Host.Outcome.next ?_, State.ldFail_loadFailed ({ a with key := pin false, power := guarded a } : State) 12⟩,
      fun hreq hst => congrArg Host.Outcome.next ?_, fun hreq hst => ⟨fun ht hn => ⟨_, congrArg Host.Outcome.next ?_, a.ldFail_loadFailed 11⟩,
        fun h => congrArg Host.Outcome.next ?_⟩⟩
    · exact State.keyAck_rise_none h
    · exact State.keyAck_fall_none h
    · exact (State.keyAck_fall hst hw).trans (State.keyRequest_rise hlow rfl)
    · exact (State.keyAck_fall hst hw).trans ((State.keyRequest_low (s := { a with key := pin false }) hlow).trans (State.ldGuard_eq _))
    · exact (State.keyAck_rise hst hreq).trans (State.ldSettle_pass rfl)
    · exact if_pos ⟨hreq, hst, ht, hn⟩
    · refine if_neg fun ⟨_, _, ht, hn⟩ => ?_
      exact h.elim (fun h => Bool.false_ne_true (h.symm.trans ht)) fun h => Bool.false_ne_true (h.symm.trans hn)
  case finish =>
    intro l i n ld signed tagged
    refine ⟨fun hst hlen h1 h2 => ?ok, fun hst hlen h => ?fails, fun hst htr hlow => ?low, fun hst htr ha hlow => ?auth, fun hst htr ha hlow => ?image,
      fun hst h => ⟨_, rfl, State.ldRollback_spec hst h rfl⟩⟩
    case ok => exact congrArg Host.Outcome.next (State.ldVerifyDone_ok hst hlen h1 h2)
    case fails => exact ⟨_, congrArg Host.Outcome.next (State.ldVerifyDone_fails hst hlen h), s.ldFail_loadFailed _⟩
    case low =>
      have heq : s.ldCommit = (if imgAuth i then s.modSec fun x => { x with lcResult := 7 } else s).ldGuard := (if_pos ⟨hst, htr⟩).trans (if_pos hlow)
      have hres : (if imgAuth i then s.modSec fun x => { x with lcResult := 7 } else s) =
          { s with sec := { s.sec with lcResult := if imgAuth i then 7 else s.sec.lcResult } } := by
        split <;> rfl
      refine ⟨_, congrArg Host.Outcome.next (heq.trans ((congrArg State.ldGuard hres).trans (State.ldGuard_eq _))), ?_⟩
      exact State.ldFail_loadFailed ({ s with
        sec := { s.sec with lcResult := if imgAuth i then 7 else s.sec.lcResult }, power := guarded s } : State) 12
    case auth =>
      exact ⟨_, rfl, State.ldCommit_auth hst htr ha hlow rfl⟩
    case image =>
      exact ⟨_, rfl, State.ldCommit_image hst htr ha hlow rfl⟩

end Sys2Proof.Machine

namespace Sys2Proof.Machine

/-! R566 to R572: frames of the wire port. -/

section
variable {s z : State}

/-- A word address on the wire as a byte address. -/
theorem wireAddr_toNat (addr : BitVec 24) : (addr ++ (0 : BitVec 2)).toNat = 4 * addr.toNat := by
  rw [BitVec.toNat_append]
  simp [Nat.shiftLeft_eq]
  omega

theorem wireAddr_aligned (addr : BitVec 24) : (addr ++ (0 : BitVec 2)).toNat / 4 * 4 = 4 * addr.toNat := by
  rw [wireAddr_toNat]
  omega

theorem wireAddr_ofNat (addr : BitVec 24) : BitVec.ofNat 26 (4 * addr.toNat) = addr ++ (0 : BitVec 2) :=
  BitVec.eq_of_toNat_eq (by rw [wireAddr_toNat, BitVec.toNat_ofNat]; omega)

/-- The state with the port `x`. -/
def State.setPort (s : State) (x : VylerPort) : State := { s with dbg := { s.dbg with port := x } }

/-- R569: the data that the port holds for the operation `op` on `a`. -/
def VylerPort.heldFor (p : VylerPort) (op : WireOp) (a : Nat) : Option W32 :=
  match p.held with
  | some (o, b, v) => if o = op ∧ b.toNat = a then some v else none
  | none => none

theorem VylerPort.heldFor_eq_some {p : VylerPort} {op : WireOp} {a : Nat} {v : W32} :
    p.heldFor op a = some v ↔ ∃ b, p.held = some (op, b, v) ∧ b.toNat = a := by
  unfold VylerPort.heldFor
  cases h : p.held with
  | none => simp
  | some x =>
    obtain ⟨o, b, w⟩ := x
    simp only [Option.ite_none_right_eq_some, Option.some.injEq, Prod.mk.injEq]
    constructor
    · rintro ⟨⟨ho, hb⟩, hw⟩
      exact ⟨b, ⟨ho, rfl, hw⟩, hb⟩
    · rintro ⟨c, ⟨ho, hc, hw⟩, hb⟩
      exact ⟨⟨ho, hc ▸ hb⟩, hw⟩

/-- R569, R570: the answer to a read that has run. -/
def wireAnswered : Option W32 × State → State
  | (some v, z) => z.answer false .done v
  | (none, z) => z.answer false .refuse 0

section
variable {op : WireOp} {addr : BitVec 24} {prompt : Bool} {hw : W32} (hl : s.portLive = true)
include hl

theorem State.wireReadFrame_busy (hb : s.dbg.port.busy ≠ none) : s.wireReadFrame op (addr ++ (0 : BitVec 2)) prompt hw = s.answer false .hold 0 :=
  (if_neg (by rw [hl]; decide)).trans (if_pos (Option.isSome_iff_ne_none.2 hb))

/-- R569: a frame of an idle port. -/
theorem State.wireReadFrame_idle (hb : s.dbg.port.busy = none) : s.wireReadFrame op (addr ++ (0 : BitVec 2)) prompt hw =
    if s.dbg.port.sticky && !(decide (op = .read) && portReg (4 * addr.toNat)) then
      (s.setPort { s.dbg.port with held := none }).answer false .refuse 0
    else (s.dbg.port.heldFor op (4 * addr.toNat)).elim
      (if prompt then wireAnswered ((s.setPort { s.dbg.port with held := none }).wireRead op (4 * addr.toNat) hw)
        else (s.setPort { s.dbg.port with held := none, busy := some (op, addr ++ (0 : BitVec 2)) }).answer false .hold 0)
      ((s.setPort { s.dbg.port with held := none }).answer false .done) := by
  unfold State.wireReadFrame
  rw [wireAddr_aligned]
  dsimp only
  rw [wireAddr_ofNat, if_neg (by rw [hl]; decide), if_neg (by rw [hb]; decide)]
  refine if_congr Iff.rfl rfl ?_
  change (match s.dbg.port.heldFor op (4 * addr.toNat) with | some v => _ | none => _) = _
  cases s.dbg.port.heldFor op (4 * addr.toNat) with
  | some v => rfl
  | none =>
    rfl

/-- R569 to R572: a WRITE frame of an idle port. -/
theorem State.wireWriteFrame_idle {v : W32} {dcrc : Byte} {coll : List PortA} (hb : s.dbg.port.busy = none) :
    s.wireWriteFrame (addr ++ (0 : BitVec 2)) v dcrc prompt hw coll =
    if s.dbg.port.sticky ∧ 4 * addr.toNat ≠ 0x200004 then (s.setPort { s.dbg.port with held := none }).answer true .refuse 0
    else
      let s1 := (s.setPort { s.dbg.port with held := none }).answer true .done 0
      if dcrc ≠ dcrcOf v then s1.modPort fun p => { p with wdcErr := true, sticky := true, cause := 0 }
      else if prompt then s1.wireWrite (4 * addr.toNat) v hw coll
      else s1.modPort fun p => { p with busy := some (.write v, addr ++ (0 : BitVec 2)) } := by
  unfold State.wireWriteFrame
  rw [wireAddr_aligned]
  dsimp only
  rw [wireAddr_ofNat, if_neg (by rw [hl]; decide), if_neg (by rw [hb]; decide)]
  rfl

theorem State.wireWriteFrame_busy {v : W32} {dcrc : Byte} {coll : List PortA} (hb : s.dbg.port.busy ≠ none) :
    s.wireWriteFrame (addr ++ (0 : BitVec 2)) v dcrc prompt hw coll = s.answer true .hold 0 :=
  (if_neg (by rw [hl]; decide)).trans (if_pos (Option.isSome_iff_ne_none.2 hb))

end

/-! R576: reads. -/

theorem State.wireRead_refused {op : WireOp} {a c : Nat} {hw : W32} (h : s.wireRefusal op a = some c) (h1 : c ≠ Cause.guard.code)
    (h2 : c ≠ Cause.disabled.code) : s.wireRead op a hw = (none, s.setPort { s.dbg.port with sticky := true, cause := c }) := by
  unfold State.wireRead State.wireRefused
  rw [h]
  dsimp only
  rw [if_neg h1, if_neg h2]
  rfl

theorem portReg_outside {a : Nat} (h : within a 0x200000 0x210000 = false) : portReg a = false := by
  unfold portReg within at *
  grind

theorem State.wireRead_reg {op : WireOp} {a : Nat} {hw : W32} (h : s.wireRefusal op a = none) (ha : within a 0x200000 0x210000 = false)
    (he : s.regEcc a = false) (hs : shadowRead a = false) :
    s.wireRead op a hw = (some (s.regRead { who := .debugger, sec := false, hw := hw } a).1,
      (if op = .consume then (s.regRead { who := .debugger, sec := false, hw := hw } a).2 else s).modPort fun p =>
        { p with rdbuf := (s.regRead { who := .debugger, sec := false, hw := hw } a).1 }) := by
  have hp := portReg_outside ha
  have h1 : ¬ (a = 0x200010 ∨ a = 0x200004) := by
    rintro (rfl | rfl) <;> exact nomatch ha
  unfold State.wireRead State.wireValue
  rw [h]
  dsimp only
  rw [hp, ha, he, hs]
  simp [h1]

/-! R571: headers. -/

theorem wireHeader_toNat (sync : BitVec 2) (cmd : BitVec 3) (addr : BitVec 24) (hcrc : BitVec 4) :
    (wireHeader sync cmd addr hcrc).toNat = ((sync.toNat * 8 + cmd.toNat) * 16777216 + addr.toNat) * 16 + hcrc.toNat := by
  unfold wireHeader
  simp only [BitVec.toNat_append]
  rw [← Nat.shiftLeft_add_eq_or_of_lt cmd.isLt, ← Nat.shiftLeft_add_eq_or_of_lt addr.isLt, ← Nat.shiftLeft_add_eq_or_of_lt hcrc.isLt]
  simp only [Nat.shiftLeft_eq]

theorem header_digits {a b c d n : Nat} (ha : a < 4) (hb : b < 8) (hc : c < 16777216) (hd : d < 16)
    (hn : n = ((a * 8 + b) * 16777216 + c) * 16 + d) :
    n / 2147483648 % 4 = a ∧ n / 268435456 % 8 = b ∧ n / 16 % 16777216 = c ∧ n / 1 % 16 = d := by
  omega

theorem wireHeader_fields (sync : BitVec 2) (cmd : BitVec 3) (addr : BitVec 24) (hcrc : BitVec 4) :
    fldN (wireHeader sync cmd addr hcrc) 31 2 = sync.toNat ∧ fld (wireHeader sync cmd addr hcrc) 28 3 = cmd ∧
    fld (wireHeader sync cmd addr hcrc) 4 24 = addr ∧ fld (wireHeader sync cmd addr hcrc) 0 4 = hcrc := by
  have hx := wireHeader_toNat sync cmd addr hcrc
  obtain ⟨h1, h2, h3, h4⟩ := header_digits sync.isLt cmd.isLt addr.isLt hcrc.isLt hx
  generalize wireHeader sync cmd addr hcrc = x at h1 h2 h3 h4
  have hfld (lo len : Nat) : (fld x lo len).toNat = x.toNat / 2 ^ lo % 2 ^ len := by
    unfold fld
    rw [BitVec.extractLsb'_toNat, Nat.shiftRight_eq_div_pow]
  exact ⟨(hfld 31 2).trans h1, BitVec.eq_of_toNat_eq ((hfld 28 3).trans h2), BitVec.eq_of_toNat_eq ((hfld 4 24).trans h3),
    BitVec.eq_of_toNat_eq ((hfld 0 4).trans h4)⟩

theorem headerGood_iff (sync : BitVec 2) (cmd : BitVec 3) (addr : BitVec 24) (hcrc : BitVec 4) :
    headerGood (wireHeader sync cmd addr hcrc) = true ↔ sync = 1 ∧ (cmd = 1 ∨ cmd = 2 ∨ cmd = 4) ∧ hcrc = hcrcOf cmd addr := by
  obtain ⟨h1, h2, h3, h4⟩ := wireHeader_fields sync cmd addr hcrc
  have hsync : sync.toNat = 1 ↔ sync = 1 := (BitVec.toNat_inj (x := sync) (y := 1#2))
  have hcmd (c : BitVec 3) : ([WireOp.read, .consume, .write 0].any fun op => decide (op.cmd = c)) = true ↔ c = 1 ∨ c = 2 ∨ c = 4 := by
    revert c
    decide
  unfold headerGood
  dsimp only
  rw [h1, h2, h3, h4, Bool.and_eq_true, Bool.and_eq_true, decide_eq_true_iff, decide_eq_true_iff, hsync, hcmd, and_assoc]

/-! R574, R575: the grant. -/

theorem State.releaseSeq_of_not_halted {n : Fin 16} (h : (s.seqs.at n).st ≠ .halt) : s.releaseSeq n = s := if_neg h

/-- R575: a fall of the grant from FULL. -/
theorem State.regrant_fall (hg : s.grant < 2) : ∃ z, s.regrant 2 = z ∧
    let y := allSeqs.foldl (fun z n => z.releaseSeq n) s
    z = { y with dbg := z.dbg } ∧ z.dbg.port = y.dbg.port ∧ z.dbg.haltReq = 0 ∧
        (∀ k, z.dbg.bps.at k = y.dbg.bps.at k &&& 0x7FFFFFFF) ∧ z.dbg.cfg = y.dbg.cfg &&& ~~~15 ∧
        (∀ n, z.dbg.sqs.at n =
          { y.dbg.sqs.at n with grp := false, stepping := false, trapCatch := false, enCatch := false }) ∧
        (s.grant ≠ 0 → z.dbg.trCfg = y.dbg.trCfg) ∧ (s.grant = 0 → bit z.dbg.trCfg 0 = false ∧ z.dbg.stimEn = 0) := by
  refine ⟨_, rfl, ?_⟩
  unfold State.regrant
  dsimp only
  rw [if_pos (⟨rfl, hg⟩ : 2 = 2 ∧ s.grant < 2)]
  generalize allSeqs.foldl (fun z n => z.releaseSeq n) s = y
  by_cases h0 : s.grant = 0
  · rw [if_pos (⟨by decide, h0⟩ : 2 ≠ 0 ∧ s.grant = 0)]
    exact ⟨rfl, rfl, rfl, fun k => Bank.at_map .., rfl, fun n => Bank.at_map .., fun h => absurd h0 h, fun _ => ⟨bit_clear_zero _, rfl⟩⟩
  · rw [if_neg (fun h => h0 h.2 : ¬ (2 ≠ 0 ∧ s.grant = 0))]
    exact ⟨rfl, rfl, rfl, fun k => Bank.at_map .., rfl, fun n => Bank.at_map .., fun _ => rfl, fun h => absurd h h0⟩

theorem State.regrant_keep {old : Nat} (h : old ≤ s.grant ∨ (old = 2 → s.grant = 2) ∧ s.grant ≠ 0) : s.regrant old = s := by
  rcases h with h | ⟨h2, h0⟩
  · exact State.regrant_of_le h
  · unfold State.regrant
    dsimp only
    rw [if_neg (fun k => h0 k.2 : ¬ (old ≠ 0 ∧ s.grant = 0)), if_neg (by omega : ¬ (old = 2 ∧ s.grant < 2))]

/-! R578, R580, R581: the release of a halted sequencer. -/

/-- From `d` to `e` nothing but the trace and its counts changes. -/
def Debug.Traced (d e : Debug) : Prop :=
  e = { d with trace := e.trace, lastTime := e.lastTime, drops := e.drops, ovf := e.ovf, fresh := e.fresh, freshNs := e.freshNs }

theorem Debug.Traced.trans {d e f : Debug} (h : d.Traced e) (k : e.Traced f) : d.Traced f :=
  Eq.trans k (congrArg (fun x : Debug => { x with
    trace := f.trace, lastTime := f.lastTime, drops := f.drops, ovf := f.ovf, fresh := f.fresh, freshNs := f.freshNs }) h)

/-- R590: a packet changes the trace alone. -/
theorem Debug.create_traced (d : Debug) (now : W64) (ns : Option W64) (p : W64) : d.Traced (d.create now ns p) := by
  have hif {c : Prop} [Decidable c] {x y : Debug} (hx : d.Traced x) (hy : d.Traced y) : d.Traced (if c then x else y) := by
    split
    · exact hx
    · exact hy
  unfold Debug.create
  extract_lets hi room src d1 src' d2
  have h1 : d.Traced d1 := hif rfl rfl
  have h2 : d.Traced d2 := hif (h1.trans rfl) h1
  exact hif (h2.trans rfl) (h2.trans rfl)

theorem State.traceHalt_traced (s : State) (n : Fin 16) (b : Bool) : s.dbg.Traced (s.traceHalt n b).dbg := by
  unfold State.traceHalt
  split
  · exact s.dbg.create_traced ..
  · rfl

theorem State.traceHalt_dbg (s : State) (n : Fin 16) (b : Bool) :
    (s.traceHalt n b).dbg.sqs = s.dbg.sqs ∧ (s.traceHalt n b).dbg.port = s.dbg.port := by
  rw [s.traceHalt_traced n b]
  exact ⟨rfl, rfl⟩

/-- The state in which sequencer `n` has returned to the state before its halt. -/
def State.returned (s : State) (n : Fin 16) : State :=
  (((s.traceHalt n true).modSeq n fun q => { q with st := q.before, resv := none, swReq := q.swReq }).modDsq n fun x =>
      { x with exempt := true, trapCatch := false }).refreeze

theorem State.releaseSeq_halted {n : Fin 16} (h : (s.seqs.at n).st = .halt) : s.releaseSeq n =
    if (s.seqs.at n).cxv ∧ (s.chans.at (s.seqs.at n).cx).res then ((s.returned n).seqRests n).lateStop (s.seqs.at n).cx
    else (s.returned n).seqRests n := by
  refine (if_pos h).trans ?_
  have hun : s.unhalt n = (s.returned n).seqRests n := if_pos h
  rw [hun]

theorem State.returned_spec (s : State) (n : Fin 16) :
    s.returned n = { s with
      seqs := s.seqs.upd n { s.seqs.at n with st := (s.seqs.at n).before, resv := none }, ta := (s.returned n).ta, dbg := (s.returned n).dbg } ∧
    (s.returned n).dbg.sqs = s.dbg.sqs.upd n { s.dbg.sqs.at n with exempt := true, trapCatch := false } ∧
    (s.returned n).dbg.port = s.dbg.port := by
  obtain ⟨h1, h2⟩ := s.traceHalt_dbg n true
  obtain ⟨d, hd⟩ : ∃ d, s.traceHalt n true = { s with dbg := d } := ⟨_, (s.traceHalt_changes n true).frame⟩
  unfold State.returned
  rw [hd] at h1 h2 ⊢
  obtain ⟨x, w, hx, -⟩ := State.refreeze_spec ((({ s with dbg := d } : State).modSeq n fun q =>
    { q with st := q.before, resv := none, swReq := q.swReq }).modDsq n fun x => { x with exempt := true, trapCatch := false })
  rw [hx]
  refine ⟨rfl, ?_, h2⟩
  exact congrArg (fun q : Bank DbgSeq 16 => q.upd n { q.at n with exempt := true, trapCatch := false }) h1

end

section
variable {s : State}

/-- R569: the data of a read in progress is held for the request that repeats it. -/
def wireHeld (op : WireOp) (addr : BitVec 26) : Option W32 × State → State
  | (some v, z) => z.modPort fun p => { p with held := some (op, addr, v) }
  | (none, z) => z

theorem State.wireDone_write {v : W32} {addr : BitVec 26} {hw : W32} {coll : List PortA} (hb : s.dbg.port.busy = some (.write v, addr)) :
    s.wireDone hw coll = (s.setPort { s.dbg.port with busy := none }).wireWrite addr.toNat v hw coll := by
  unfold State.wireDone
  rw [hb]
  rfl

theorem State.wireDone_read {op : WireOp} {addr : BitVec 26} {hw : W32} {coll : List PortA} (hb : s.dbg.port.busy = some (op, addr))
    (ho : op.isWrite = false) :
    s.wireDone hw coll = wireHeld op addr ((s.setPort { s.dbg.port with busy := none }).wireRead op addr.toNat hw) := by
  unfold State.wireDone
  rw [hb]
  cases op with
  | write v => exact nomatch ho
  | read => rfl
  | consume => rfl

theorem State.lateStop_eq {c : Fin 256} {x : Channel} (hx : s.chans.at c = x) : s.lateStop c =
    x.stopRec.elim s fun ab => if x.st = .run ∨ x.st = .blocked then (s.modChan c fun y => { y with stopRec := none }).chStop c ab else s := by
  subst hx
  unfold State.lateStop
  dsimp only
  cases (s.chans.at c).stopRec <;> rfl

end

/-- Settles O42. -/
theorem wirePort : Obligations.WirePort := by
  unfold Obligations.WirePort
  refine ⟨fun s addr c prompt hw hl => ?read, fun s op a hw => ?access, fun s addr v dcrc prompt hw coll hl => ?write, fun s op addr hw coll hb => ?done,
    fun s sync cmd addr hcrc => ?header, fun s hv hp => ?reset, fun s v ho ht => ?auth, fun s n => ?release, fun s r v hr hp => ?allow⟩
  case read =>
    intro op cmd sets p a port s0 open_ same
    have hexec : exec cmd s = .next (s.wireReadFrame op (addr ++ (0 : BitVec 2)) prompt sets) := by
      unfold cmd op sets
      cases c <;> rfl
    have hopen : open_ ↔ ¬ (s.dbg.port.sticky && !(decide (op = .read) && portReg (4 * addr.toNat))) = true := by
      unfold open_ op p a
      cases c <;> cases s.dbg.port.sticky <;> simp
    have hidle (hb : p.busy = none) (ho : open_) : exec cmd s = .next ((p.heldFor op a).elim (if prompt then wireAnswered (s0.wireRead op a sets)
        else (s.setPort { p with held := none, busy := some (op, addr ++ (0 : BitVec 2)) }).answer false .hold 0) (s0.answer false .done)) :=
      hexec.trans (congrArg Host.Outcome.next ((State.wireReadFrame_idle hl hb).trans (if_neg (hopen.1 ho))))
    have hnone (hs : ¬ same) : p.heldFor op a = none := by
      refine Option.eq_none_iff_forall_ne_some.2 fun v hv => hs ?_
      obtain ⟨b, h1, h2⟩ := VylerPort.heldFor_eq_some.1 hv
      exact ⟨op, b, v, h1, rfl, h2⟩
    refine ⟨fun hb => hexec.trans (congrArg Host.Outcome.next (State.wireReadFrame_busy hl hb)), fun hb ho => ?_, fun hb ho =>
      ⟨fun b v hh hba => ?_, fun hs hp => ?_, fun hs hp => ⟨fun v z hz => ?_, fun z hz => ?_⟩⟩⟩
    · exact hexec.trans (congrArg Host.Outcome.next ((State.wireReadFrame_idle hl hb).trans (if_pos (not_not.1 (mt hopen.2 ho)))))
    · rw [hidle hb ho, VylerPort.heldFor_eq_some.2 ⟨b, hh, hba⟩]
      rfl
    · rw [hidle hb ho, hnone hs, hp]
      rfl
    · rw [hidle hb ho, hnone hs, hp, hz]
      rfl
    · rw [hidle hb ho, hnone hs, hp, hz]
      rfl
  case access =>
    intro port
    refine ⟨fun c h h1 h2 => State.wireRead_refused h h1 h2, fun h ha he hs => ?_⟩
    intro r
    have heq := State.wireRead_reg (hw := hw) h ha he hs
    refine ⟨fun ho => ?_, fun ho => ?_⟩
    · subst ho
      exact heq
    · subst ho
      exact heq
  case write =>
    intro p a port done exec_
    have hidle (hb : p.busy = none) := State.wireWriteFrame_idle (addr := addr) (prompt := prompt) (hw := hw) (v := v) (dcrc := dcrc) (coll := coll) hl hb
    refine ⟨fun hb => congrArg Host.Outcome.next (State.wireWriteFrame_busy hl hb), fun hb hs ha => congrArg Host.Outcome.next ((hidle hb).trans (if_pos ⟨hs, ha⟩)),
      fun hb h => ?_⟩
    have hopen : ¬ (s.dbg.port.sticky = true ∧ 4 * addr.toNat ≠ 0x200004) := fun ⟨hs, ha⟩ =>
      h.elim (fun h => Bool.false_ne_true (h.symm.trans hs)) ha
    have heq := (hidle hb).trans (if_neg hopen)
    refine ⟨fun hd => congrArg Host.Outcome.next (heq.trans (if_pos hd)), fun hd hp => congrArg Host.Outcome.next (heq.trans ((if_neg (not_not_intro hd)).trans (if_pos hp))),
      fun hd hp => congrArg Host.Outcome.next (heq.trans ((if_neg (not_not_intro hd)).trans (if_neg (Bool.eq_false_iff.1 hp))))⟩
  case done =>
    intro s0
    refine ⟨fun v ho => congrArg Host.Outcome.next ?_, fun v z ho hz => congrArg Host.Outcome.next ?_, fun z ho hz => congrArg Host.Outcome.next ?_⟩
    · exact State.wireDone_write (ho ▸ hb)
    · exact (State.wireDone_read hb ho).trans (congrArg (wireHeld op addr) hz)
    · exact (State.wireDone_read hb ho).trans (congrArg (wireHeld op addr) hz)
  case header =>
    intro good
    have hgood := headerGood_iff sync cmd addr hcrc
    refine ⟨fun hl hg => congrArg Host.Outcome.next (if_pos ?_), fun hg => congrArg Host.Outcome.next (if_neg ?_)⟩
    · rw [hl, Bool.eq_false_iff.2 (mt hgood.1 hg)]
      rfl
    · rw [hgood.2 hg]
      simp
  case reset => exact congrArg Host.Outcome.next (if_pos ⟨hv, hp⟩)
  case auth =>
    intro s0
    have heq : exec (.authRequest v) s = .next (s0.regrant s.grant) := by
      refine congrArg Host.Outcome.next ((if_pos ho).trans ?_)
      have hnone : s.wireRefusal (.write v) 0x200008 = none := by
        unfold State.wireRefusal
        rw [ht]
        rfl
      unfold State.wireWrite
      rw [hnone, hwWins_of_w1Bits_zero (by decide +kernel)]
      rfl
    refine ⟨fun h => heq.trans (congrArg Host.Outcome.next (State.regrant_keep h)), fun h2 hlt => ?_⟩
    obtain ⟨z, hz, h⟩ := s0.regrant_fall hlt
    exact ⟨z, heq.trans (congrArg Host.Outcome.next ((congrArg s0.regrant h2).trans hz)), h⟩
  case release =>
    intro q c x stops
    refine ⟨fun h => State.releaseSeq_of_not_halted h, fun h => ?_⟩
    obtain ⟨hframe, hsqs, hport⟩ := s.returned_spec n
    have heq := State.releaseSeq_halted h
    have hseq : ((s.returned n).seqRests n).chans = (s.returned n).chans := (State.seqRests_changes _ n).same .chans rfl
    have hchans : ((s.returned n).seqRests n).chans = s.chans := hseq.trans (congrArg State.chans hframe :)
    clear hseq
    generalize s.returned n = z at hframe hsqs hport heq hchans
    refine ⟨z, hframe, hsqs, hport, fun hs => ?_, fun ab hs hab => ?_⟩
    · refine heq.trans ((ite_eq_right_iff).2 fun hc => ?_)
      refine (State.lateStop_eq (congrArg (Bank.at · c) hchans)).trans ?_
      cases hab : x.stopRec with
      | none => rfl
      | some ab =>
        refine if_neg fun hst => ?_
        exact hs.elim (fun hs => hs ⟨hc.1, hc.2, hst⟩) fun hn => nomatch hab.symm.trans hn
    · refine heq.trans ((if_pos ⟨hs.1, hs.2.1⟩).trans ?_)
      refine (State.lateStop_eq (congrArg (Bank.at · c) hchans)).trans ?_
      change x.stopRec.elim _ _ = _
      rw [hab]
      exact if_pos hs.2.2
  case allow =>
    have heq : exec (.allowWrite r v) s = .next (s.allowWrite v) := by
      refine congrArg Host.Outcome.next ((State.busWrite_plain hp (by decide +kernel) (by decide +kernel)).trans ?_)
      exact if_neg hr
    exact ⟨fun h => heq.trans (congrArg Host.Outcome.next (if_neg (Nat.not_le.2 h))), fun h => heq.trans (congrArg Host.Outcome.next (if_pos h))⟩

end Sys2Proof.Machine

namespace Sys2Proof.Machine

/-! R564: writes of the debugger's own registers. -/

section
variable {s z : State} {n : Fin 16}

/-- The state with the debugger's record `y` of sequencer `n`. -/
def State.setDsq (s : State) (n : Fin 16) (y : DbgSeq) : State := { s with dbg := { s.dbg with sqs := s.dbg.sqs.upd n y } }

theorem State.modDsq_eq {x : DbgSeq} (hx : s.dbg.sqs.at n = x) (f : DbgSeq → DbgSeq) : s.modDsq n f = s.setDsq n (f x) := by
  subst hx
  rfl

theorem State.setDsq_at (y : DbgSeq) : (s.setDsq n y).dbg.sqs.at n = y := Bank.at_upd_self _ _ _

theorem State.modDsq_setDsq (y : DbgSeq) (f : DbgSeq → DbgSeq) : (s.setDsq n y).modDsq n f = s.setDsq n (f y) := by
  refine (State.modDsq_eq (State.setDsq_at y) f).trans ?_
  exact congrArg (fun b => ({ s with dbg := { s.dbg with sqs := b } } : State)) (Bank.upd_upd _ _ _ _)

theorem hwWins_zero (a : Nat) (v : W32) : hwWins a v 0 = v := by
  unfold hwWins
  change v &&& ~~~(0#32 &&& w1Bits a) = v
  rw [BitVec.zero_and]
  exact BitVec.and_allOnes

/-- R564: a permitted write of a register that is no port register. -/
theorem State.portCmd_dbg {a : Nat} {v : W32} (ho : s.portOpen = true) (h : s.wireRefusal (.write v) a = none)
    (ha : within a 0x200014 0x210000 = true) : s.portCmd a v = s.dbgWrite a v := by
  have hr : 0x200014 ≤ a ∧ a < 0x210000 := by
    unfold within at ha
    grind
  have h1 : portReg a = false := by
    unfold portReg within
    grind
  have h2 : within a 0x200000 0x210000 = true := by
    unfold within
    grind
  refine (if_pos ho).trans ?_
  unfold State.wireWrite
  rw [h]
  dsimp only
  rw [h1, if_neg Bool.false_ne_true, if_pos h2, hwWins_zero]

/-- R592: the registers of sequencer `n`. -/
theorem dbgSeq_offset (n : Fin 16) {o : Nat} (ho : o < 0x40) : ¬ 0x201400 ≤ 0x201000 + o + 0x40 * n.val ∧ 0x201000 ≤ 0x201000 + o + 0x40 * n.val ∧
    Fin.ofNat 16 ((0x201000 + o + 0x40 * n.val - 0x201000) / 0x40) = n ∧ (0x201000 + o + 0x40 * n.val) % 0x40 = o ∧
    within (0x201000 + o + 0x40 * n.val) 0x200014 0x210000 = true := by
  have hn := n.isLt
  refine ⟨by omega, by omega, Fin.ext (by simp; omega), by omega, ?_⟩
  unfold within
  grind

theorem State.dbgWrite_gdata (s : State) (n : Fin 16) (v : W32) : s.dbgWrite (0x201008 + 0x40 * n.val) v = s.gdataW n v := by
  obtain ⟨h1, h2, h3, h4, -⟩ := dbgSeq_offset n (by decide : 8 < 0x40)
  refine (if_neg h1).trans ((if_pos h2).trans ?_)
  dsimp only
  rw [h3, h4] <;> rfl

theorem State.dbgWrite_feed (s : State) (n : Fin 16) (v : W32) : s.dbgWrite (0x20100C + 0x40 * n.val) v = s.feed n v := by
  obtain ⟨h1, h2, h3, h4, -⟩ := dbgSeq_offset n (by decide : 0xC < 0x40)
  refine (if_neg h1).trans ((if_pos h2).trans ?_)
  dsimp only
  rw [h3, h4] <;> rfl

theorem State.dbgWrite_mctrl (s : State) (n : Fin 16) (v : W32) : s.dbgWrite (0x201020 + 0x40 * n.val) v = s.mctrlW n v := by
  obtain ⟨h1, h2, h3, h4, -⟩ := dbgSeq_offset n (by decide : 0x20 < 0x40)
  refine (if_neg h1).trans ((if_pos h2).trans ?_)
  dsimp only
  rw [h3, h4] <;> rfl

/-! R577, R578: halts. -/

/-- R577 to R580: what the debugger notes of the halt of sequencer `n` with `cause`. -/
def Debug.haltNoted (d : Debug) (n : Fin 16) (cause : Nat) : Debug :=
  let group := d.hgrp.getLsbD n.val && decide (cause ≠ 2)
  let own (x : DbgSeq) : DbgSeq :=
    { x with
      hcause := cause, feedV := false, exempt := false, grp := false, stepping := false
      trapCatch := x.trapCatch && decide (cause ≠ 5 ∧ cause ≠ 7), enCatch := x.enCatch && decide (cause ≠ 6) }
  let one (m : Fin 16) : DbgSeq :=
    let x := d.sqs.at m
    if m = n then own x else if group && d.hgrp.getLsbD m.val then { x with grp := true } else x
  { d with haltReq := if cause = 1 then clear16 d.haltReq n else d.haltReq, sqs := Vector.ofFn one }

theorem State.haltSeq_eq (s : State) (n : Fin 16) (c : Nat) : s.haltSeq n c =
    (((s.modSeq n fun q => { q with st := .halt, before := q.st, resv := none }).modDbg fun d => d.haltNoted n c).traceHalt n false).refreeze :=
  rfl

theorem Debug.haltNoted_own (d : Debug) (n : Fin 16) (c : Nat) :
    ((d.haltNoted n c).sqs.at n).hcause = c ∧ ((d.haltNoted n c).sqs.at n).feedV = false ∧ ((d.haltNoted n c).sqs.at n).grp = false ∧
    ((d.haltNoted n c).sqs.at n).stepping = false := by
  unfold Debug.haltNoted
  rw [Bank.at_ofFn, if_pos rfl]
  exact ⟨rfl, rfl, rfl, rfl⟩

theorem Debug.haltNoted_other (d : Debug) {n m : Fin 16} (h : m ≠ n) (c : Nat) : (d.haltNoted n c).sqs.at m = { d.sqs.at m with
    grp := (d.sqs.at m).grp || (decide (c ≠ 2) && d.hgrp.getLsbD n.val && d.hgrp.getLsbD m.val) } := by
  unfold Debug.haltNoted
  rw [Bank.at_ofFn, if_neg h, Bool.and_comm (d.hgrp.getLsbD n.val)]
  cases (decide (c ≠ 2) && d.hgrp.getLsbD n.val && d.hgrp.getLsbD m.val) with
  | true => exact congrArg (fun g => ({ d.sqs.at m with grp := g } : DbgSeq)) (Bool.or_true _).symm
  | false => exact congrArg (fun g => ({ d.sqs.at m with grp := g } : DbgSeq)) (Bool.or_false _).symm

theorem State.haltSeq_spec (s : State) (n : Fin 16) (c : Nat) (hz : s.haltSeq n c = z) :
    z = { s with seqs := z.seqs, ta := z.ta, dbg := z.dbg } ∧
      z.seqs = s.seqs.upd n { s.seqs.at n with st := .halt, before := (s.seqs.at n).st, resv := none } ∧
      z.dbg.sqs = (s.dbg.haltNoted n c).sqs ∧ z.dbg.haltReq = (s.dbg.haltNoted n c).haltReq := by
  have hk := hz ▸ s.haltSeq_changes n c
  refine ⟨hk.frame, ?_⟩
  clear hk
  rw [State.haltSeq_eq] at hz
  generalize hb : ((s.modSeq n fun q => { q with st := .halt, before := q.st, resv := none }).modDbg fun d => d.haltNoted n c) = b at hz
  have hseqs : b.seqs = s.seqs.upd n { s.seqs.at n with st := .halt, before := (s.seqs.at n).st, resv := none } := hb ▸ rfl
  have hdbg : b.dbg = s.dbg.haltNoted n c := hb ▸ rfl
  have htraced := b.traceHalt_traced n false
  have hts : (b.traceHalt n false).seqs = b.seqs := (b.traceHalt_changes n false).same .seqs rfl
  generalize b.traceHalt n false = a at hz htraced hts
  have hzd : z.dbg = a.dbg := hz ▸ a.refreeze_changes.same .dbg rfl
  have hzs : z.seqs = a.seqs := hz ▸ a.refreeze_changes.same .seqs rfl
  refine ⟨hzs.trans (hts.trans hseqs), ?_, ?_⟩
  · rw [hzd, htraced, hdbg]
  · rw [hzd, htraced, hdbg]

end

/-! R581: a step. -/

section
variable {s : State} {n : Fin 16}

/-- A write that names sequencer `n` alone. -/
theorem bit_single (n m : Fin 16) : bit (BitVec.ofNat 32 (2 ^ n.val)) m.val = true ↔ m = n := by
  revert n m
  decide

theorem State.singleStep_one (s : State) (n : Fin 16) : s.singleStep (BitVec.ofNat 32 (2 ^ n.val)) = s.stepSeq n := by
  unfold State.singleStep
  rw [← foldl_single (f := State.stepSeq) allSeqs (List.nodup_ofFn_ofInjective fun _ _ h => h) (List.mem_ofFn.2 ⟨n, rfl⟩) s]
  congr 1
  funext z m
  exact if_congr (bit_single n m) rfl rfl

/-- R581: the channel of a step is let run where it waits. -/
def State.stepWoken (s : State) (c : Fin 256) : State :=
  if (s.chans.at c).st = .blocked then { s with chans := s.chans.upd c { s.chans.at c with st := .run } } else s

/-- R581: what the instruction of a step leaves. -/
def State.stepped (s : State) (n : Fin 16) (c : Fin 256) (v : Bool) : State :=
  if (decide (((s.stepWoken c).chans.at c).st = .run ∨ ((s.stepWoken c).chans.at c).st = .draining) && v) = true then (s.stepWoken c).execute n
  else s.stepWoken c

theorem State.stepSeq_runs (hh : s.isHalted n = true) (hb : (s.seqs.at n).before = .run) (hheld : (s.seqs.at n).held = none) :
    s.stepSeq n =
      let y := (s.unhalt n).stepped n (s.seqs.at n).cx (s.seqs.at n).cxv
      if (y.seqs.at n).held.isSome then y.modDsq n fun x => { x with stepping := true }
      else if y.seqUp n ∧ (y.seqs.at n).st.haltable then y.haltSeq n 7
      else y := by
  refine (if_neg (by rw [hh]; decide)).trans (if_neg ?_)
  rw [hb, hheld]
  exact fun h => h.elim (fun h => h rfl) Bool.false_ne_true

theorem State.stepped_live {c : Fin 256} {v : Bool} :
    ((v = true ∧ ((s.chans.at c).st = .blocked ∨ (s.chans.at c).st = .run ∨ (s.chans.at c).st = .draining)) →
      s.stepped n c v = (s.stepWoken c).execute n) ∧
    (¬ (v = true ∧ ((s.chans.at c).st = .blocked ∨ (s.chans.at c).st = .run ∨ (s.chans.at c).st = .draining)) →
      s.stepped n c v = s.stepWoken c) := by
  have hst : ((s.stepWoken c).chans.at c).st = .run ∨ ((s.stepWoken c).chans.at c).st = .draining ↔
      (s.chans.at c).st = .blocked ∨ (s.chans.at c).st = .run ∨ (s.chans.at c).st = .draining := by
    unfold State.stepWoken
    by_cases hb : (s.chans.at c).st = .blocked
    · rw [if_pos hb]
      exact ⟨fun _ => .inl hb, fun _ => .inl (congrArg Channel.st (Bank.at_upd_self _ _ _))⟩
    · rw [if_neg hb]
      exact ⟨.inr, fun h => h.resolve_left hb⟩
  have hcond : (decide (((s.stepWoken c).chans.at c).st = .run ∨ ((s.stepWoken c).chans.at c).st = .draining) && v) = true ↔
      v = true ∧ ((s.chans.at c).st = .blocked ∨ (s.chans.at c).st = .run ∨ (s.chans.at c).st = .draining) := by
    rw [Bool.and_eq_true, decide_eq_true_iff, hst, and_comm]
  exact ⟨fun h => if_pos (hcond.2 h), fun h => if_neg (mt hcond.1 h)⟩

/-! R582: the items. -/

/-- R582: the write of an item. -/
theorem State.gdataW_item {g : Nat} {o : Option Seq} {v : W32} (hh : s.isHalted n = true) (hg : fldN (s.dbg.sqs.at n).gsel 0 7 = g)
    (ho : (s.seqs.at n).setItem g v = o) : s.gdataW n v = o.elim (s.accErr n) fun q => { s with seqs := s.seqs.upd n q } := by
  unfold State.gdataW
  rw [if_pos hh, hg, ho]
  cases o <;> rfl

theorem State.gdataW_runs {v : W32} (hh : s.isHalted n = false) : s.gdataW n v = s.accErr n := by
  unfold State.gdataW
  rw [if_neg (Bool.eq_false_iff.1 hh)]

theorem Seq.setItem_reg (q : Seq) {g : Nat} (h : g < 32) (v : W32) : q.setItem g v = some (q.setReg g v) := if_pos h

/-- R582: the items that no write changes. -/
theorem Seq.setItem_refused (q : Seq) {g : Nat} {v : W32} (h : (g = 32 ∨ g = 37) ∧ fldN v 0 2 ≠ 0 ∨ (34 ≤ g ∧ g ≤ 36) ∨ g = 38 ∨ g = 39 ∨
    (41 ≤ g ∧ g < 64) ∨ 96 ≤ g ∨ ((g = 40 ∨ 64 ≤ g ∧ g < 96) ∧ q.ownsBank = false)) : q.setItem g v = none := by
  unfold Seq.setItem
  rw [if_neg (by omega)]
  by_cases h6 : 64 ≤ g ∧ g < 96
  · rw [if_pos h6]
    have hb : q.ownsBank = false := by grind
    rw [hb]
    rfl
  · rw [if_neg h6]
    split
    · exact if_neg (by omega)
    · omega
    · exact if_neg (by omega)
    · have hb : q.ownsBank = false := by grind
      rw [hb]
      rfl
    · rfl

/-! R583: the feed. -/

/-- R583: a word that is fed is taken. -/
def State.FeedTaken (s : State) (n : Fin 16) (v : W32) : Prop :=
  s.isHalted n = true ∧ (s.seqs.at n).cxv = true ∧ feedBad v = false ∧ (s.seqs.at n).held = none

theorem State.feed_refused {v : W32} (h : ¬ s.FeedTaken n v) : s.feed n v = s.modDsq n fun x => { x with feedRes := .refused, feedCause := 0 } := by
  refine if_pos ?_
  unfold State.FeedTaken at h
  rw [← Option.not_isSome_iff_eq_none] at h
  grind

/-- R583: what a fed word that is taken comes to. -/
theorem State.feed_taken {v : W32} {u : Option Nat} {z : State} (h : s.FeedTaken n v) (hf : s.wordFetch n v = (u, z)) : s.feed n v =
    u.elim ((z.meaning n v).feed n) fun u => (Res.fault (z.csFault n (s.seqs.at n).cx u .csEcc) 0 .csEcc).feed n := by
  obtain ⟨hh, hc, hb, hheld⟩ := h
  unfold State.feed
  dsimp only
  rw [hh, hc, hb, hheld, hf]
  cases u <;> rfl

theorem State.meaning_patched {w : W32} (h : s.patched n (.instr w) = true) : s.meaning n w = s.vendorRun n w := if_pos h

theorem State.meaning_rom {w : W32} {m : Option Mn} (h : s.patched n (.instr w) = false) (hm : decodeMacro w = m) :
    s.meaning n w = m.elim (s.trapped 3 0 w) fun m => m.sem s n w := by
  refine (if_neg (Bool.eq_false_iff.1 h)).trans ?_
  rw [hm]
  cases m <;> rfl

/-! R584: memory through a halted sequencer. -/

/-- A write with GO. -/
theorem bit_go (v : W32) : bit (v ||| 1) 0 = true ∧ bit (v ||| 1) 1 = bit v 1 ∧ bit (v ||| 1) 2 = bit v 2 ∧ bit (v ||| 1) 3 = bit v 3 ∧
    (v ||| 1) &&& 0xE = v &&& 0xE := by
  have hbit (i : Nat) (hi : i ≠ 0) : bit (v ||| 1) i = bit v i := by
    have h1 : (1 : W32).getLsbD i = false := by
      change (1#32).getLsbD i = false
      rw [BitVec.getLsbD_one]
      simp [hi]
    exact (BitVec.getLsbD_or ..).trans (by rw [h1, Bool.or_false]; rfl)
  refine ⟨(BitVec.getLsbD_or ..).trans (Bool.or_true _), hbit 1 (by decide), hbit 2 (by decide), hbit 3 (by decide), ?_⟩
  refine BitVec.eq_of_getLsbD_eq fun i hi => ?_
  rw [BitVec.getLsbD_and, BitVec.getLsbD_and]
  by_cases h : i = 0
  · rw [h]
    exact (Bool.and_false _).trans (Bool.and_false _).symm
  · exact congrArg (· && _) (hbit i h)

/-- R584: the record after an access that has succeeded. -/
def DbgSeq.moved (x : DbgSeq) (v : W32) : DbgSeq :=
  { x with
    merr := false, mcause := 0
    maddr := if bit v 3 then (x.maddr + BitVec.ofNat 32 (if bit v 2 then 8 else 4)) &&& 0x03FFFFFC else x.maddr }

/-- R584: the request, the width and the data of an access. -/
def State.debugReq (s : State) : Req := { who := .debugger, sec := decide (s.grant = 2) }
def accWidth (v : W32) : Nat := if bit v 2 then 8 else 4
def DbgSeq.accData (x : DbgSeq) (v : W32) : Nat := if bit v 2 then (x.mdhi ++ x.mdlo).toNat else x.mdlo.toNat

/-- R584: the end of an access that has succeeded. -/
def State.accDone (s : State) (n : Fin 16) (v : W32) : State :=
  if bit v 3 then (s.mResult n none).modDsq n fun x => { x with maddr := (x.maddr + BitVec.ofNat 32 (accWidth v)) &&& 0x03FFFFFC } else s.mResult n none

/-- R584: a permitted access of a halted sequencer. -/
def State.accRuns (s : State) (n : Fin 16) (v : W32) (a : Nat) (d : Nat) : State :=
  if bit v 1 then
    (if memOf a = some 3 then (s.memWrite n.val a (accWidth v) d).dropLine a else s.memWrite n.val a (accWidth v) d).accDone n v
  else (s.memLoad n.val a (accWidth v)).1.elim ((s.memLoad n.val a (accWidth v)).2.mResult n (some .ecc)) fun d =>
    ((s.memLoad n.val a (accWidth v)).2.modDsq n fun x =>
      { x with mdlo := BitVec.ofNat 32 d, mdhi := if accWidth v = 8 then BitVec.ofNat 32 (d / 2 ^ 32) else x.mdhi }).accDone n v

theorem State.mctrlW_go {v : W32} {x : DbgSeq} (hz : (s.modDsq n fun x => { x with mctrl := v &&& 0xE }) = z) (hx : z.dbg.sqs.at n = x) :
    s.mctrlW n (v ||| 1) =
      if !z.isHalted n || !within x.maddr.toNat 0x1000000 0x2000000 then z.mResult n (some .disabled)
      else (z.refusal s.debugReq (bit v 1) x.maddr.toNat (accWidth v) (x.accData v)).elim (z.accRuns n v x.maddr.toNat (x.accData v))
        fun c => (z.refused (bit v 1) x.maddr.toNat c).mResult n (some c) := by
  obtain ⟨h0, h1, h2, h3, h4⟩ := bit_go v
  refine (if_pos h0).trans ?_
  unfold State.memAccess
  rw [h4, hz]
  dsimp only
  rw [hx, h1, h2, h3]
  refine if_congr Iff.rfl rfl ?_
  change (match z.refusal s.debugReq (bit v 1) x.maddr.toNat (accWidth v) (x.accData v) with | some c => _ | none => _) = _
  cases z.refusal s.debugReq (bit v 1) x.maddr.toNat (accWidth v) (x.accData v) with
  | some c => rfl
  | none =>
    refine if_congr Iff.rfl rfl ?_
    change (match z.memLoad n.val x.maddr.toNat (accWidth v) with | (some d, s1) => _ | (none, s1) => _) = _
    obtain ⟨d, y⟩ := z.memLoad n.val x.maddr.toNat (accWidth v)
    cases d <;> rfl

theorem State.mResult_eq {x : DbgSeq} (hx : s.dbg.sqs.at n = x) (c : Option Cause) :
    s.mResult n c = s.setDsq n { x with merr := c.isSome, mcause := (c.map Cause.code).getD 0 } :=
  State.modDsq_eq hx _

theorem State.accDone_eq {x : DbgSeq} (hx : s.dbg.sqs.at n = x) (v : W32) : s.accDone n v = s.setDsq n (x.moved v) := by
  unfold State.accDone DbgSeq.moved accWidth
  rw [State.mResult_eq hx]
  split
  · exact State.modDsq_setDsq _ _
  · rfl

theorem State.setDsq_setDsq (x y : DbgSeq) : (s.setDsq n x).setDsq n y = s.setDsq n y :=
  congrArg (fun b => ({ s with dbg := { s.dbg with sqs := b } } : State)) (Bank.upd_upd _ _ _ _)

theorem State.refused_other {a : Nat} {w : Bool} {c : Cause} (h1 : c ≠ .guard) (h2 : c ≠ .disabled) : s.refused w a c = s :=
  (if_neg h1).trans (if_neg fun h => h2 h.1)

theorem State.accRuns_read {v : W32} {a d e : Nat} {x : DbgSeq} (hw : bit v 1 = false) (hl : s.memLoad n.val a (accWidth v) = (some d, z))
    (hx : z.dbg.sqs.at n = x) : s.accRuns n v a e = z.setDsq n (({ x with
      mdlo := BitVec.ofNat 32 d, mdhi := if bit v 2 then BitVec.ofNat 32 (d / 2 ^ 32) else x.mdhi } : DbgSeq).moved v) := by
  have h8 : accWidth v = 8 ↔ bit v 2 = true := by
    unfold accWidth
    split <;> simp [*]
  refine (if_neg (by rw [hw]; decide)).trans ?_
  rw [hl]
  change (z.modDsq n fun x => _).accDone n v = _
  rw [State.modDsq_eq hx, State.accDone_eq (State.setDsq_at _), State.setDsq_setDsq, if_congr h8 rfl rfl]

theorem State.accRuns_ecc {v : W32} {a e : Nat} (hw : bit v 1 = false) (hl : s.memLoad n.val a (accWidth v) = (none, z)) :
    s.accRuns n v a e = z.mResult n (some .ecc) := by
  refine (if_neg (by rw [hw]; decide)).trans ?_
  rw [hl]
  rfl

theorem State.eccTrap_none {t : Trap} (h1 : t.code ≠ 1) (h2 : t.code ≠ 11) : s.eccTrap n t = s :=
  if_neg fun h => h.1.elim h1 h2

/-- R581: a fed word that is no instruction traps. -/
theorem State.feed_trapped (s : State) (n : Fin 16) (v : W32) : (s.trapped 3 0 v).feed n = (s.uw n 2).fed n .trap 3 := by
  have hcause : (put 16 0 ||| put 0 3).setWidth 24 = 3 := by decide
  calc (s.trapped 3 0 v).feed n
    _ = ((s.uw n 2).eccTrap n ⟨3, 0, v⟩).fed n .trap ((put 16 0 ||| put 0 3).setWidth 24) := rfl
    _ = (s.uw n 2).fed n .trap 3 := by
      rw [hcause, State.eccTrap_none (show (3 : Nat) ≠ 1 by decide) (show (3 : Nat) ≠ 11 by decide)]

/-! R264, R577, R578: the cause of a halt. -/

/-- R578: the halt of a sequencer at a boundary. -/
def State.haltChosen (s : State) (n : Fin 16) (d : Option Nat) : Option Nat :=
  let ex := (s.dbg.sqs.at n).exempt
  if !ex && s.runnable n && s.bkpt n then some 3
  else if !ex && s.runnable n && (match s.wordAt n with | some w => s.swBkpt w | none => false) then some 4
  else d

theorem State.haltNow_eq (hup : s.seqUp n = true) (hst : (s.seqs.at n).st.haltable = true) (hheld : (s.seqs.at n).held = none) :
    s.haltNow n = if s.haltDue n = some 1 ∨ s.haltDue n = some 2 then s.haltDue n else s.haltChosen n (s.haltDue n) := by
  refine (if_pos ?_).trans ?_
  · rw [hup, hst, hheld]
    rfl
  · cases s.haltDue n with
    | none => rfl
    | some k =>
      match k with
      | 0 => rfl
      | 1 => rfl
      | 2 => rfl
      | k + 3 => exact (if_neg (by simp)).symm

theorem State.haltDue_req (h : s.dbg.haltReq.getLsbD n.val = true) : s.haltDue n = some 1 := if_pos h

theorem State.haltDue_grp (h : s.dbg.haltReq.getLsbD n.val = false) (hg : (s.dbg.sqs.at n).grp = true) : s.haltDue n = some 2 :=
  (if_neg (Bool.eq_false_iff.1 h)).trans (if_pos hg)

theorem State.haltDue_else (h : s.dbg.haltReq.getLsbD n.val = false) (hg : (s.dbg.sqs.at n).grp = false) :
    ¬ (s.haltDue n = some 1 ∨ s.haltDue n = some 2) := by
  unfold State.haltDue
  dsimp only
  rw [h, hg, if_neg Bool.false_ne_true, if_neg Bool.false_ne_true]
  split
  · decide
  · split
    · decide
    · split <;> decide

/-! R589 to R591: stimuli and the trace. -/

/-- R590: a packet goes behind those of its ns that KIND and SRC put before it. -/
theorem insertPacket_spec (p : W64) (l : List W64) : ∃ a b, l = a ++ b ∧ insertPacket p l = a ++ p :: b ∧
    (∀ x ∈ a, fldN x 52 12 ≤ fldN p 52 12) ∧ ∀ x, b.head? = some x → fldN p 52 12 < fldN x 52 12 := by
  induction l with
  | nil => exact ⟨[], [], rfl, rfl, fun _ h => absurd h List.not_mem_nil, fun _ h => nomatch h⟩
  | cons y l ih =>
    by_cases h : packetKey p < packetKey y
    · exact ⟨[], y :: l, rfl, if_pos h, fun _ h => absurd h List.not_mem_nil, fun x hx => Option.some.inj hx ▸ h⟩
    · obtain ⟨a, b, hl, hi, ha, hb⟩ := ih
      refine ⟨y :: a, b, congrArg (y :: ·) hl, (if_neg h).trans (congrArg (y :: ·) hi), fun x hx => ?_, hb⟩
      rcases List.mem_cons.1 hx with rfl | hx
      · exact Nat.not_lt.1 h
      · exact ha x hx

/-- R590: a packet with nothing to precede it. -/
theorem Debug.create_plain {d : Debug} {now : W64} {ns : Option W64} {p : W64} (h1 : d.drops = 0)
    (h2 : d.lastTime = some (now.extractLsb' 20 32)) (h3 : d.trace.length < 512) : d.create now ns p = d.enter ns p := by
  unfold Debug.create
  simp [h1, h2, h3]

/-- R590: the place of a packet among the packets of its ns, which are the freshest of the buffer while TD0 runs. -/
theorem Debug.enter_nsNow (s : State) (d : Debug) (p : W64) :
    let f := if s.ticking = true ∧ d.freshNs = some s.now then min d.fresh d.trace.length else 0
    d.enter s.nsNow p = { d with
      trace := d.trace.take (d.trace.length - f) ++ insertPacket p (d.trace.drop (d.trace.length - f)), fresh := f + 1
      freshNs := if s.ticking then some s.now else none } := by
  unfold Debug.enter State.nsNow
  cases s.ticking <;> simp

theorem Debug.pop_cons {d : Debug} {p : W64} {l : List W64} (h : d.trace = p :: l) :
    d.pop = (hi32 p, { d with trace := l, traceLo := lo32 p }) := by
  unfold Debug.pop
  rw [h]

theorem Debug.pop_nil {d : Debug} (h : d.trace = []) : d.pop = (0, { d with traceLo := 0 }) := by
  unfold Debug.pop
  rw [h]

/-- R589: the stimulus registers. -/
theorem stim_address (k : Fin 32) : memWindow (0x200200 + 4 * k.val) = false ∧ w1Bits (0x200200 + 4 * k.val) = 0 := by
  revert k
  decide +kernel

theorem State.regWrite_stim (s : State) (q : Req) (k : Fin 32) (v : W32) : s.regWrite q (0x200200 + 4 * k.val) v = s.stim k v := by
  have hk := k.isLt
  unfold State.regWrite
  rw [show (0x200200 + 4 * k.val) / 0x10000 = 0x20 by omega]
  refine (if_neg (by omega)).trans ((if_pos ?_).trans ?_)
  · unfold within
    grind
  · rw [show (0x200200 + 4 * k.val - 0x200200) / 4 = k.val by omega, show Fin.ofNat 32 k.val = k from Fin.ext (Nat.mod_eq_of_lt hk)]

theorem State.wireRead_trace (h : s.wireRefusal .consume 0x20028C = none) : (s.wireRead .consume 0x20028C 0).2 =
    { s with dbg := { s.dbg.pop.2 with port := { s.dbg.pop.2.port with rdbuf := s.dbg.pop.1 } } } := by
  unfold State.wireRead
  rw [h]
  rfl

end

/-- Settles O43. -/
theorem haltedSequencers : Obligations.HaltedSequencers := by
  unfold Obligations.HaltedSequencers
  refine ⟨fun s n v a ho hr => ?write, fun s n v ho hr => ?memory, fun s n c i hi => ?halt, fun s n hup hst hheld => ?cause, fun s n hheld => ?held,
    fun s r k v hp => ?stim, insertPacket_spec, fun s ho hr => ?trace⟩
  case write =>
    intro q x dsq seq
    refine ⟨fun ha => ?req, fun ha => ?release, fun ha hv => ?step, fun ha => ?item, fun ha => ?feed⟩
    all_goals subst ha
    case req => exact congrArg Host.Outcome.next (State.portCmd_dbg ho hr (by decide))
    case release => exact congrArg Host.Outcome.next (State.portCmd_dbg ho hr (by decide))
    case step =>
      have heq : exec (.singleStep v) s = .next (s.stepSeq n) := by
        refine congrArg Host.Outcome.next ((State.portCmd_dbg ho hr (by decide)).trans ?_)
        rw [hv]
        exact s.singleStep_one n
      refine ⟨fun hh => heq.trans (congrArg Host.Outcome.next (if_pos (by rw [hh]; rfl))), fun hh hb => heq.trans (congrArg Host.Outcome.next ?_),
        fun hh hb hheld => ?_⟩
      · refine (if_neg (by rw [hh]; decide)).trans (if_pos ?_)
        rwa [Option.isSome_iff_ne_none]
      · intro s1 o s2 live
        have hrun := heq.trans (congrArg Host.Outcome.next (State.stepSeq_runs hh hb hheld))
        obtain ⟨hlive, hdead⟩ := State.stepped_live (s := s1) (n := n) (c := q.cx) (v := q.cxv)
        refine ⟨s1.stepped n q.cx q.cxv, hlive, hdead, ?_⟩
        change exec (.singleStep v) s = .next (if ((s1.stepped n q.cx q.cxv).seqs.at n).held.isSome then _ else _) at hrun
        clear hlive hdead heq
        generalize s1.stepped n q.cx q.cxv = y at hrun
        refine ⟨fun h => hrun.trans (congrArg Host.Outcome.next (if_pos (Option.isSome_iff_ne_none.2 h))), fun h hu hs => ?_, fun h hu => ?_⟩
        · refine ⟨_, hrun.trans (congrArg Host.Outcome.next ((if_neg (by rw [h]; decide)).trans (if_pos ⟨hu, hs⟩))), ?_⟩
          obtain ⟨hframe, hseqs, hsqs, -⟩ := State.haltSeq_spec y n 7 rfl
          obtain ⟨hcause, -, -, hstep⟩ := y.dbg.haltNoted_own n 7
          refine ⟨?_, ?_, ?_, hframe⟩
          · rw [hseqs]
            exact Bank.at_upd_self _ _ _
          · rw [hsqs, hcause]
          · rw [hsqs, hstep]
        · refine hrun.trans (congrArg Host.Outcome.next ((if_neg (by rw [h]; decide)).trans (if_neg fun k => ?_)))
          exact hu.elim (fun h => Bool.false_ne_true (h.symm.trans k.1)) fun h => Bool.false_ne_true (h.symm.trans k.2)
    case item =>
      intro g to_
      have heq : exec (.gdataWrite n v) s = .next (s.gdataW n v) := by
        refine congrArg Host.Outcome.next ((State.portCmd_dbg ho hr ?_).trans (s.dbgWrite_gdata n v))
        exact (dbgSeq_offset n (by decide : 8 < 0x40)).2.2.2.2
      have hitem (hh : s.isHalted n = true) {o : Option Seq} (hitem : q.setItem g v = o) :
          exec (.gdataWrite n v) s = .next (o.elim (s.accErr n) seq) :=
        heq.trans (congrArg Host.Outcome.next (State.gdataW_item hh rfl hitem))
      refine ⟨fun hh => heq.trans (congrArg Host.Outcome.next (State.gdataW_runs hh)), fun hh => ⟨fun hg => ?_, fun hg hv => ?_, fun hg => ?_, fun hg hv => ?_,
        fun hg => ?_⟩⟩
      · exact hitem hh (q.setItem_reg hg v)
      · exact hitem hh (o := some { q with pc := v }) (by rw [hg]; exact if_pos hv)
      · exact hitem hh (o := some (q.setSt v)) (by rw [hg]; rfl)
      · exact hitem hh (o := some { q with tvec := v }) (by rw [hg]; exact if_pos hv)
      · exact hitem hh (q.setItem_refused hg)
    case feed =>
      intro taken
      have heq : exec (.instructionFeed n v) s = .next (s.feed n v) := by
        refine congrArg Host.Outcome.next ((State.portCmd_dbg ho hr ?_).trans (s.dbgWrite_feed n v))
        exact (dbgSeq_offset n (by decide : 0xC < 0x40)).2.2.2.2
      refine ⟨fun h => heq.trans (congrArg Host.Outcome.next (State.feed_refused h)), fun u z h hf => heq.trans (congrArg Host.Outcome.next (State.feed_taken h hf)),
        fun z h hf => ?_⟩
      have hfed := heq.trans (congrArg Host.Outcome.next (State.feed_taken h hf))
      refine ⟨fun hp => hfed.trans (congrArg (fun r : Res => Host.Outcome.next (r.feed n)) (State.meaning_patched hp)), fun hp => ?_⟩
      have hmean {m : Option Mn} (hm : decodeMacro v = m) : exec (.instructionFeed n v) s = .next ((m.elim (z.trapped 3 0 v) fun m => m.sem z n v).feed n) :=
        hfed.trans (congrArg (fun r : Res => Host.Outcome.next (r.feed n)) (State.meaning_rom hp hm))
      refine ⟨fun hm => ?_, fun m y k npc hm hd hh => ?_, fun m y k t hm hd => ?_, fun m y h hm hd => ?_⟩
      · exact (hmean hm).trans (congrArg Host.Outcome.next (z.feed_trapped n v))
      · exact (hmean hm).trans (congrArg Host.Outcome.next ((congrArg (Res.feed · n) hd).trans (congrArg (State.fed · n .ok 0) (if_pos hh))))
      · refine ⟨_, (hmean hm).trans (congrArg (fun r : Res => Host.Outcome.next (r.feed n)) hd), ?_⟩
        exact ⟨congrArg DbgSeq.feedV (Bank.at_upd_self _ _ _), congrArg DbgSeq.feedRes (Bank.at_upd_self _ _ _), congrArg DbgSeq.feedCause (Bank.at_upd_self _ _ _)⟩
      · exact (hmean hm).trans (congrArg (fun r : Res => Host.Outcome.next (r.feed n)) hd)
  case memory =>
    intro x dsq a k data q moved s0
    have heq : exec (.debugMemoryAccess n v) s = .next (s.mctrlW n (v ||| 1)) := by
      refine congrArg Host.Outcome.next ((State.portCmd_dbg ho hr ?_).trans (s.dbgWrite_mctrl n (v ||| 1)))
      exact (dbgSeq_offset n (by decide : 0x20 < 0x40)).2.2.2.2
    have hx0 : s0.dbg.sqs.at n = x := State.setDsq_at x
    have hgo := heq.trans (congrArg Host.Outcome.next (State.mctrlW_go (n := n) (v := v) (z := s0) rfl hx0))
    have hres (c : Option Cause) : s0.mResult n c = s.setDsq n { x with merr := c.isSome, mcause := (c.map Cause.code).getD 0 } :=
      (State.mResult_eq hx0 c).trans (State.setDsq_setDsq _ _)
    have hhalted : s0.isHalted n = s.isHalted n := rfl
    refine ⟨fun h => ?_, fun hh ha => ?_⟩
    · refine hgo.trans (congrArg Host.Outcome.next ((if_pos ?_).trans (hres _)))
      rw [hhalted]
      rcases h with h | h <;> rw [h]
      · rfl
      · exact Bool.or_true _
    · have hperm := hgo.trans (congrArg Host.Outcome.next (if_neg (by rw [hhalted, hh, ha]; decide)))
      refine ⟨fun c hc h1 h2 => ?_, fun hc => ?_⟩
      · exact hperm.trans (congrArg Host.Outcome.next ((congrArg (Option.elim · _ _) hc).trans ((congrArg (State.mResult · n (some c)) (State.refused_other h1 h2)).trans (hres _))))
      · have hrun := hperm.trans (congrArg Host.Outcome.next (congrArg (Option.elim · _ _) hc))
        clear hgo hperm
        have hload (y : State) (hy : y.dbg = s0.dbg) : y.dbg.sqs.at n = x := (congrArg (fun d : Debug => d.sqs.at n) hy).trans hx0
        have hwrite : (s0.memWrite n.val a k data).dbg = s0.dbg := (s0.memWrite_changes _ _ _ _).same .dbg rfl
        have hread : (s0.memLoad n.val a k).2.dbg = s0.dbg := (s0.memLoad_changes _ _ _).same .dbg rfl
        refine ⟨fun hw hm => ?_, fun d z hw hd => ?_, fun hw hm => ?_, fun z hw hd => ?_⟩
        · exact hrun.trans (congrArg Host.Outcome.next ((if_pos hw).trans ((congrArg (State.accDone · n v) (if_neg hm)).trans (State.accDone_eq (hload _ hwrite) v))))
        · have hz : s0.accRuns n v a data = z.setDsq n (({ x with
              mdlo := BitVec.ofNat 32 d, mdhi := if bit v 2 then BitVec.ofNat 32 (d / 2 ^ 32) else x.mdhi } : DbgSeq).moved v) :=
            State.accRuns_read hw hd (hload z (by rw [← hread, hd]))
          exact hrun.trans (congrArg Host.Outcome.next hz)
        · exact hrun.trans (congrArg Host.Outcome.next ((if_pos hw).trans ((congrArg (State.accDone · n v) (if_pos hm)).trans
            (State.accDone_eq (hload ((s0.memWrite n.val a k data).dropLine a) hwrite) v))))
        · have hz : s0.accRuns n v a data = z.mResult n (some .ecc) := State.accRuns_ecc hw hd
          exact hrun.trans (congrArg Host.Outcome.next (hz.trans (State.mResult_eq (hload z (by rw [← hread, hd])) _)))
  case halt =>
    have heq : exec i s = .next (s.haltSeq n c) := by
      rcases hi with ⟨rfl, hc⟩ | ⟨rfl, rfl, hgrp, hup, hst, hheld⟩
      · refine congrArg Host.Outcome.next ?_
        unfold State.takeHalt
        rw [hc]
      · exact congrArg Host.Outcome.next (if_pos ⟨hgrp, hup, hst, hheld⟩)
    obtain ⟨hframe, hseqs, hsqs, hreq⟩ := State.haltSeq_spec s n c rfl
    obtain ⟨hcause, hfeed, hgrp, -⟩ := s.dbg.haltNoted_own n c
    refine ⟨_, heq, hframe, hseqs, ?_, ?_, ?_, fun m hm => ?_, hreq⟩
    · rw [hsqs, hcause]
    · rw [hsqs, hfeed]
    · rw [hsqs, hgrp]
    · rw [hsqs, s.dbg.haltNoted_other hm]
  case cause =>
    refine ⟨fun hr => ?_, fun hr hg => ?_, fun hr hg he hrun hb => ?_⟩
    · exact (State.haltNow_eq hup hst hheld).trans ((if_pos (.inl (State.haltDue_req hr))).trans (State.haltDue_req hr))
    · exact (State.haltNow_eq hup hst hheld).trans ((if_pos (.inr (State.haltDue_grp hr hg))).trans (State.haltDue_grp hr hg))
    · refine (State.haltNow_eq hup hst hheld).trans ((if_neg (State.haltDue_else hr hg)).trans (if_pos ?_))
      rw [he, hrun, hb]
      rfl
  case held =>
    have hnone : s.haltNow n = none := by
      refine if_neg fun h => hheld ?_
      rw [Bool.and_eq_true, Option.isNone_iff_eq_none] at h
      exact h.2
    refine ⟨hnone, congrArg Host.Outcome.next ?_⟩
    unfold State.takeHalt
    rw [hnone]
  case stim =>
    intro p
    have heq : exec (.stimulusWrite r k v) s = .next (s.stim k v) := by
      obtain ⟨hm, hw⟩ := stim_address k
      exact congrArg Host.Outcome.next ((State.busWrite_plain hp hm hw).trans (s.regWrite_stim r k v))
    refine ⟨fun h => heq.trans (congrArg Host.Outcome.next (if_neg fun k => ?_)), fun h1 h2 h3 h4 h5 h6 => heq.trans (congrArg Host.Outcome.next ((if_pos ?_).trans ?_))⟩
    · have htr : s.tracing 4 = true := k.2
      rw [State.tracing, Bool.and_eq_true] at htr
      rcases h with h | h | h
      · exact Bool.false_ne_true (h.symm.trans k.1)
      · exact Bool.false_ne_true (h.symm.trans htr.1)
      · exact Bool.false_ne_true (h.symm.trans htr.2)
    · exact ⟨h1, (Bool.and_eq_true _ _).mpr ⟨h2, h3⟩⟩
    · refine (congrArg (fun d => ({ s with dbg := d } : State)) (Debug.create_plain h4 h5 h6)).trans ?_
      refine congrArg (fun d => ({ s with dbg := d } : State)) ?_
      exact Debug.enter_nsNow s s.dbg p
  case trace =>
    have heq : exec .traceRead s = .next { s with dbg := { s.dbg.pop.2 with port := { s.dbg.pop.2.port with rdbuf := s.dbg.pop.1 } } } :=
      congrArg Host.Outcome.next ((if_pos ho).trans (State.wireRead_trace hr))
    refine ⟨fun p l hl => heq.trans ?_, fun hl => heq.trans ?_⟩
    · rw [Debug.pop_cons hl]
      rfl
    · rw [Debug.pop_nil hl]

end Sys2Proof.Machine

namespace Sys2Proof.Machine

/-! R600 to R605: the Carnelian window. -/

/-- R604: the window when its command has completed with RESULT `r`, behind `l` more response entries. -/
def State.completed (s : State) (r : Nat) (l : List (BitVec 16)) : State :=
  { s with cw := { s.cw with result := r, done := true, doneWas := s.cw.done, pend := none, rsp := s.cw.rsp ++ l } }

theorem State.cwDone_eq (s : State) (r : Nat) : s.cwDone r = s.completed r [] := by
  unfold State.cwDone State.modCw State.completed
  rw [List.append_nil]

theorem State.cwDone_cwPush (s : State) (r : Nat) (l : List (BitVec 16)) : (s.cwDone r).cwPush l = s.completed r l := rfl

section commands
variable {s : State} {op param : Byte} {sec : Bool}

/-- The pending command that a write of CW_CMD_LO makes (R601). -/
def State.cwCmd (s : State) (op param : Byte) (sec : Bool) : CwCmd :=
  { op := op, param := param, ch := Fin.ofNat 256 (fldN s.cw.cmdHi 0 8), mb := Fin.ofNat 4 (fldN s.cw.cmdHi 8 2)
    arg := s.cw.args.at 3 ++ s.cw.args.at 2 ++ s.cw.args.at 1 ++ s.cw.args.at 0, sec := sec }

/-- R602: the command pends, with every entry of its channel marked. -/
def State.cwWaits (s : State) (k : CwCmd) : State :=
  ((s.modCw fun w => { w with hiv := false }).cwNote k.ch true).modCw fun w => { w with pend := some k }

theorem cwRange_eq_true {op param ch mb : Nat} : cwRange op param ch mb = true ↔
    31 < ch ∨ (if op = 0x30 ∨ op = 0x31 then 127 < param else param ≠ 0) ∨ (op ≠ 0x10 ∧ mb ≠ 0) := by
  unfold cwRange
  split <;> simp [or_assoc]

theorem State.cwLow_noHigh (h : s.cw.hiv = false) : s.cwLow op param sec =
    { s with cw := { s.cw with hiv := false, result := 1, done := true, doneWas := s.cw.done } } := by
  unfold State.cwLow
  exact if_pos (congrArg (!·) h)

theorem State.cwLow_busy (h : s.cw.hiv = true) (hp : s.cw.pend ≠ none) : s.cwLow op param sec =
    { s with cw := { s.cw with hiv := false, result := 2, done := true, doneWas := s.cw.done } } := by
  unfold State.cwLow
  exact (if_neg (by simp [h])).trans (if_pos (Option.isSome_iff_ne_none.2 hp))

/-- R601, orders 4 to 6, of a known command. -/
theorem State.cwLow_known (h : s.cw.hiv = true) (hp : s.cw.pend = none) (hk : cwKnown op.toNat = true) :
    s.cwLow op param sec =
      if cwRange op.toNat param.toNat (fldN s.cw.cmdHi 0 8) (fldN s.cw.cmdHi 8 2) then
        (s.modCw fun w => { w with hiv := false }).cwDone 3
      else (s.cwClass (s.cwCmd op param sec).ch sec).elim (s.cwWaits (s.cwCmd op param sec)).cwExecute
        (s.modCw fun w => { w with hiv := false }).cwDone := by
  unfold State.cwLow
  refine (if_neg (by simp [h])).trans ((if_neg (by simp [hp])).trans ((if_neg (by simp [hk])).trans (if_congr Iff.rfl rfl ?_)))
  change (match s.cwClass (s.cwCmd op param sec).ch sec with | some r => _ | none => _) = _
  cases s.cwClass (s.cwCmd op param sec).ch sec <;> rfl

/-- With no command pending, a completion leaves none. -/
theorem State.cwDone_low (hp : s.cw.pend = none) (r : Nat) : (s.modCw fun w => { w with hiv := false }).cwDone r =
    { s with cw := { s.cw with hiv := false, result := r, done := true, doneWas := s.cw.done } } := by
  unfold State.cwDone State.modCw
  rw [← hp]

theorem State.cwReleased_iff (c : Fin 256) : s.cwReleased c = true ↔
    ¬ ∃ m ∈ (s.chans.at c).mbs.toList, ∃ e ∈ m.q, e.noted = true := by
  unfold State.cwReleased
  simp only [List.all_eq_true, Bool.not_eq_true', not_exists, not_and, Bool.not_eq_true]

theorem State.cwExecute_of_pend {k : CwCmd} (h : s.cw.pend = some k) :
    s.cwExecute = if s.cwReleased k.ch then s.cwRun k else s := by
  unfold State.cwExecute
  rw [h]

/-- R602: once every entry of the channel is marked, the command waits exactly where the channel holds one. -/
theorem State.cwWaits_released (k : CwCmd) : (s.cwWaits k).cwReleased k.ch = true ↔
    ∀ m ∈ (s.chans.at k.ch).mbs.toList, m.q = [] := by
  have hmbs : ((s.cwWaits k).chans.at k.ch).mbs =
      (s.chans.at k.ch).mbs.map fun m : Mailbox => { m with q := m.q.map fun e => { e with noted := true } } :=
    congrArg Channel.mbs (Bank.at_upd_self _ _ _)
  unfold State.cwReleased
  rw [hmbs, Vector.toList_map, List.all_map, List.all_eq_true]
  refine forall₂_congr fun m _ => ?_
  cases hq : m.q <;> simp [hq]

end commands

section effects
variable {s : State} {k : CwCmd}

/-- R605: channel `c` when the window has acted on it: CMDIGN stays set. -/
def State.cwActed (z : State) (c : Fin 256) (was : Bool) : State :=
  { z with chans := z.chans.upd c { z.chans.at c with cmdIgn := was || (z.chans.at c).cmdIgn } }

/-- The machine with CMDIGN of channel `c` taken away, on which a channel command acts. -/
def State.cwClear (s : State) (c : Fin 256) : State :=
  { s with chans := s.chans.upd c { s.chans.at c with cmdIgn := false } }

/-- R605: a channel command that has made `z` answers OK or IGNORED. -/
def State.cwActs (s z : State) (c : Fin 256) (l : List (BitVec 16)) : State :=
  (z.cwActed c (s.chans.at c).cmdIgn).completed (if (z.chans.at c).cmdIgn then 7 else 0) l

theorem State.cwChannel_eq (c : Fin 256) (f : State → State) : s.cwChannel c f = s.cwActs (f (s.cwClear c)) c [] :=
  State.cwDone_eq _ _

theorem State.cwChannel_push (c : Fin 256) (f : State → State) :
    (s.cwChannel c f).cwPush [BitVec.ofNat 16 ((s.cwChannel c f).chans.at c).startErr] =
      s.cwActs (f (s.cwClear c)) c [BitVec.ofNat 16 ((f (s.cwClear c)).chans.at c).startErr] := by
  have herr : ((s.cwChannel c f).chans.at c).startErr = ((f (s.cwClear c)).chans.at c).startErr :=
    (congrArg Channel.startErr (Bank.at_upd_self (f (s.cwClear c)).chans c
      { (f (s.cwClear c)).chans.at c with cmdIgn := _ }) :)
  rw [herr]
  exact State.cwDone_cwPush _ _ _

theorem State.cwClear_st (c : Fin 256) : ((s.cwClear c).chans.at c).st = (s.chans.at c).st :=
  (congrArg Channel.st (Bank.at_upd_self s.chans c { s.chans.at c with cmdIgn := false }) :)

/-- R603: the judgement of a command that executes. -/
theorem State.cwRun_of_class {r : Option Nat} (h : s.cwClass k.ch k.sec = r) : s.cwRun k = r.elim
    (if 8 < s.cw.rsp.length + cwEntries k.op.toNat then s.cwDone 8
      else if k.op = 0x10 ∧ (s.chans.at k.ch).stmp k.mb then s.cwDone 9 else s.cwEffect k) s.cwDone := by
  unfold State.cwRun
  rw [h]
  cases r <;> rfl

/-- R605: a command that meets room in the response FIFO, and is no POST to a stamped mailbox, has its effect. -/
theorem State.cwRun_effect (hc : s.cwClass k.ch k.sec = none) (hroom : s.cw.rsp.length + cwEntries k.op.toNat ≤ 8)
    (hpost : k.op.toNat = 0x10 → (s.chans.at k.ch).stmp k.mb = false) : s.cwRun k = s.cwEffect k := by
  refine (State.cwRun_of_class hc).trans ((if_neg (by omega)).trans (if_neg fun h => ?_))
  exact Bool.false_ne_true ((hpost (congrArg BitVec.toNat h.1)).symm.trans h.2)

/-- R346, R380, R605: a descriptor word as RDDESC reads it. -/
theorem State.cwDescRead_of (c : Fin 256) (w : Nat) {v : Option Nat} {m : Mem}
    (hm : s.mem.read 16 (descAddr c + 4 * w) 4 = (v, m)) : s.cwDescRead c w =
      if 64 ≤ w ∧ v.isSome then
        (if (s.chans.at c).mbClean then 0 else Config.mailboxWord s.free, { s with mem := m, free := s.free + 1 })
      else (BitVec.ofNat 32 (v.getD 0), { s with mem := m }) := by
  unfold State.cwDescRead State.memRead
  rw [hm] <;> rfl

/-- R605: RDDESC answers the two halves of the word. -/
theorem State.cwEffect_rddesc (h : k.op.toNat = 0x30) {v : W32} {z : State} (hr : s.cwDescRead k.ch k.param.toNat = (v, z)) :
    s.cwEffect k = z.completed 0 (halves16 v) := by
  unfold State.cwEffect
  rw [h]
  change (match s.cwDescRead k.ch k.param.toNat with | (v, s1) => (s1.cwPush (halves16 v)).cwDone 0) = _
  rw [hr] <;> rfl

/-- R605: WRDESC. -/
theorem State.cwEffect_wrdesc (h : k.op.toNat = 0x31) : s.cwEffect k =
    if k.param.toNat = 0 ∧ bit k.arg 30 ∧ !k.sec then s.cwDone 6
    else if !s.descFree k.ch k.param.toNat then s.cwDone 11
    else (s.memWrite 16 (descAddr k.ch + 4 * k.param.toNat) 4 (lo32 k.arg).toNat).cwDone 0 := by
  unfold State.cwEffect
  rw [h] <;> rfl

/-- R605: POST. -/
theorem State.cwEffect_post (h : k.op.toNat = 0x10) : s.cwEffect k =
    if (s.chans.at k.ch).st = .off then
      ({ s with free := s.free + 1 } : State).completed 0 [((Config.freeWord s.free).extractLsb' 0 2).setWidth 16]
    else (s.postPlain k.ch k.mb k.arg).1.completed 0 [BitVec.ofNat 16 (s.postPlain k.ch k.mb k.arg).2.num] := by
  unfold State.cwEffect
  rw [h] <;> rfl

/-- R605: the channel commands of the window. -/
theorem State.cwEffect_channel :
    (k.op.toNat = 0x02 → s.cwEffect k = s.cwChannel k.ch fun z => z.chStop k.ch false) ∧
    (k.op.toNat = 0x03 → s.cwEffect k = s.cwChannel k.ch fun z =>
      if (z.chans.at k.ch).st = .draining then z.chAbort k.ch else z.chStop k.ch true) ∧
    (k.op.toNat = 0x04 → s.cwEffect k = s.cwChannel k.ch fun z => z.chResume 16 k.ch) ∧
    (k.op.toNat = 0x05 → s.cwEffect k = s.cwChannel k.ch fun z => z.chDiscard k.ch) ∧
    (k.op.toNat = 0x06 → s.cwEffect k = s.cwChannel k.ch fun z => z.chFlush k.ch) ∧
    (k.op.toNat = 0x07 → s.cwEffect k = s.cwChannel k.ch fun z => z.chNote k.ch) := by
  unfold State.cwEffect
  refine ⟨fun h => ?_, fun h => ?_, fun h => ?_, fun h => ?_, fun h => ?_, fun h => ?_⟩ <;> rw [h] <;> rfl

/-- R605: NOP, START, STAT and MBX. -/
theorem State.cwEffect_plain :
    (k.op.toNat = 0x00 → s.cwEffect k = s.cwDone 0) ∧
    (k.op.toNat = 0x01 → s.cwEffect k = (s.cwChannel k.ch fun z => z.chStart 16 k.ch).cwPush
      [BitVec.ofNat 16 (((s.cwChannel k.ch fun z => z.chStart 16 k.ch).chans.at k.ch).startErr)]) ∧
    (k.op.toNat = 0x20 → s.cwEffect k = s.completed 0 (halves16 (s.chans.at k.ch).stat)) ∧
    (k.op.toNat = 0x21 → s.cwEffect k = s.completed 0 (halves16 (s.chans.at k.ch).mbx)) := by
  unfold State.cwEffect
  refine ⟨fun h => ?_, fun h => ?_, fun h => ?_, fun h => ?_⟩ <;> rw [h] <;> rfl

end effects

theorem State.cwPop_nil {s : State} (h : s.cw.rsp = []) : s.cwPop = (0, s.modCw fun w => { w with rfErr := true }) := by
  unfold State.cwPop
  rw [h]

theorem State.cwPop_cons {s : State} {x : BitVec 16} {l : List (BitVec 16)} (h : s.cw.rsp = x :: l) :
    s.cwPop = (x, s.modCw fun w => { w with rsp := l }) := by
  unfold State.cwPop
  rw [h]

/-- Settles O44. -/
theorem carnelianWindow : Obligations.CarnelianWindow := by
  unfold Obligations.CarnelianWindow
  refine ⟨fun s v hup hen => ?port, fun s v hup h => ?enable, fun s hup => ⟨fun hp => ?idle, fun k hp => ?pending⟩,
    fun s param sec i op hup hen hi => ?command, fun s k => ?run⟩
  case port =>
    intro w to_ unnoted
    have hon : s.up = true ∧ s.cw.en = true := ⟨hup, hen⟩
    have hexec {z : State} : (Host.Outcome.next (if s.up ∧ s.cw.en then z else s) : Host.Outcome State Fault Refusal) = .next z :=
      congrArg Host.Outcome.next (if_pos hon)
    refine ⟨hexec, fun hp => hexec.trans ?_, fun k hp => hexec.trans ?_, hexec, hexec, hexec, rfl,
      fun hr => hexec.trans ?_, fun x l hr => ⟨?_, hexec.trans ?_⟩, fun hr => hexec.trans ?_, fun hr => hexec.trans ?_⟩
    · unfold State.cwCancel
      rw [hp]
    · unfold State.cwCancel
      rw [hp] <;> rfl
    · exact congrArg (fun p : BitVec 16 × State => Host.Outcome.next p.2) (State.cwPop_nil hr)
    · exact congrArg Prod.fst (State.cwPop_cons hr)
    · exact congrArg (fun p : BitVec 16 × State => Host.Outcome.next p.2) (State.cwPop_cons hr)
    · exact congrArg Host.Outcome.next (if_pos hr)
    · exact congrArg Host.Outcome.next (if_neg (Nat.not_le.2 hr))
  case enable =>
    refine congrArg Host.Outcome.next ((if_pos hup).trans ?_)
    unfold State.cwEnable
    rcases h with h | h
    · rw [if_pos h] <;> rfl
    · have hcancel : s.cwCancel = s := by
        unfold State.cwCancel
        rw [h]
      rw [hcancel, ite_self] <;> rfl
  case idle =>
    refine congrArg Host.Outcome.next ((if_pos hup).trans ?_)
    unfold State.cwExecute
    rw [hp]
  case pending =>
    intro held
    have heq : exec .cwExecute s = .next (if s.cwReleased k.ch then s.cwRun k else s) :=
      congrArg Host.Outcome.next ((if_pos hup).trans (State.cwExecute_of_pend hp))
    exact ⟨fun h => heq.trans (congrArg Host.Outcome.next (if_neg fun hr => (State.cwReleased_iff k.ch).1 hr h)),
      fun h => heq.trans (congrArg Host.Outcome.next (if_pos ((State.cwReleased_iff k.ch).2 h)))⟩
  case command =>
    intro w n c low ends outside k waits
    obtain ⟨heq, hknown, hop⟩ : exec i s = .next (s.cwLow (BitVec.ofNat 8 op) param sec) ∧ cwKnown op = true ∧ op < 256 := by
      have hexec {o : Byte} : (Host.Outcome.next (if s.up ∧ s.cw.en then s.cwLow o param sec else s) :
          Host.Outcome State Fault Refusal) = .next (s.cwLow o param sec) := congrArg Host.Outcome.next (if_pos ⟨hup, hen⟩)
      simp only [List.mem_cons, Prod.mk.injEq, List.not_mem_nil, or_false] at hi
      rcases hi with ⟨rfl, rfl⟩ | ⟨rfl, rfl⟩ | ⟨rfl, rfl⟩ | ⟨rfl, rfl⟩ | ⟨rfl, rfl⟩ | ⟨rfl, rfl⟩ | ⟨rfl, rfl⟩ | ⟨rfl, rfl⟩ |
        ⟨rfl, rfl⟩ | ⟨rfl, rfl⟩ | ⟨rfl, rfl⟩ | ⟨rfl, rfl⟩ | ⟨rfl, rfl⟩ <;> exact ⟨hexec, rfl, by decide⟩
    have hnat : (BitVec.ofNat 8 op).toNat = op := Nat.mod_eq_of_lt hop
    refine ⟨fun hv => heq.trans (congrArg Host.Outcome.next (State.cwLow_noHigh hv)),
      fun hv hp => heq.trans (congrArg Host.Outcome.next (State.cwLow_busy hv hp)), fun hv hp => ?_⟩
    have hlow := heq.trans (congrArg Host.Outcome.next (State.cwLow_known hv hp (by rw [hnat]; exact hknown)))
    have hdone (r : Nat) : (Host.Outcome.next ((s.modCw fun w => { w with hiv := false }).cwDone r) :
        Host.Outcome State Fault Refusal) = ends r := congrArg Host.Outcome.next (State.cwDone_low hp r)
    rw [hnat] at hlow
    refine ⟨fun h => hlow.trans ((congrArg Host.Outcome.next (if_pos (cwRange_eq_true.2 h))).trans (hdone 3)), fun r h hr => ?_,
      fun h hr => ?_⟩
    · refine hlow.trans ((congrArg Host.Outcome.next (if_neg fun hc => h (cwRange_eq_true.1 hc))).trans (?_ : _ = _))
      exact (congrArg Host.Outcome.next (congrArg (Option.elim · _ _) hr)).trans (hdone r)
    · have hwait : exec i s = .next (s.cwWaits k).cwExecute :=
        hlow.trans ((congrArg Host.Outcome.next (if_neg fun hc => h (cwRange_eq_true.1 hc))).trans
          (congrArg Host.Outcome.next (congrArg (Option.elim · _ _) hr)))
      have hexe : (s.cwWaits k).cwExecute = if (s.cwWaits k).cwReleased k.ch then (s.cwWaits k).cwRun k else s.cwWaits k :=
        State.cwExecute_of_pend rfl
      refine ⟨fun ⟨m, hm, hq⟩ => hwait.trans (congrArg Host.Outcome.next (hexe.trans (if_neg fun hrel => ?_))),
        fun hq => hwait.trans (congrArg Host.Outcome.next (hexe.trans (if_pos ((State.cwWaits_released k).2 hq))))⟩
      exact hq ((State.cwWaits_released k).1 hrel m hm)
  case run =>
    intro c x fin op clear acts words
    refine ⟨fun r hr => (State.cwRun_of_class hr).trans (State.cwDone_eq s r), fun hr => ⟨fun hfull => ?_, fun hroom => ?_⟩⟩
    · exact (State.cwRun_of_class hr).trans ((if_pos hfull).trans (State.cwDone_eq s 8))
    have heff (h : op = 0x10 → x.stmp k.mb = false) : s.cwRun k = s.cwEffect k := State.cwRun_effect hr hroom h
    have hval {n : Nat} (h : op = n) (hn : n ≠ 0x10) : s.cwRun k = s.cwEffect k := heff fun h' => absurd (h.symm.trans h') hn
    obtain ⟨hstop, habort, hresume, hdiscard, hflush, hnote⟩ := State.cwEffect_channel (s := s) (k := k)
    obtain ⟨hnop, hstart, hstat, hmbx⟩ := State.cwEffect_plain (s := s) (k := k)
    refine ⟨fun h => ?_, fun h => ?_, fun h => ?_, fun h => ?_, fun h => ?_, fun h => ?_, fun h => ?_, fun h => ?_, fun h hst => ?_,
      fun h hst hoff => ?_, fun h hst hoff => ?_, fun h => ?_, fun h => ?_, fun h hw v m hm => ?_, fun h hw v m hm => ?_,
      fun h m hm => ?_, fun h hw hb hs => ?_, fun h hw => ?_⟩
    · exact (hval h (by decide)).trans ((hnop h).trans (s.cwDone_eq 0))
    · exact (hval h (by decide)).trans ((hstart h).trans (s.cwChannel_push c _))
    · exact (hval h (by decide)).trans ((hstop h).trans (s.cwChannel_eq c _))
    · refine (hval h (by decide)).trans ((habort h).trans ((s.cwChannel_eq c _).trans ?_))
      exact congrArg (fun z : State => s.cwActs z c []) (if_congr (by rw [State.cwClear_st]) rfl rfl)
    · exact (hval h (by decide)).trans ((hresume h).trans (s.cwChannel_eq c _))
    · exact (hval h (by decide)).trans ((hdiscard h).trans (s.cwChannel_eq c _))
    · exact (hval h (by decide)).trans ((hflush h).trans (s.cwChannel_eq c _))
    · exact (hval h (by decide)).trans ((hnote h).trans (s.cwChannel_eq c _))
    · refine (State.cwRun_of_class hr).trans ((if_neg (Nat.not_lt.2 hroom)).trans ((if_pos ⟨?_, hst⟩).trans (s.cwDone_eq 9)))
      exact BitVec.eq_of_toNat_eq h
    · exact (heff fun _ => hst).trans ((State.cwEffect_post h).trans (if_pos hoff))
    · exact (heff fun _ => hst).trans ((State.cwEffect_post h).trans (if_neg hoff))
    · exact (hval h (by decide)).trans (hstat h)
    · exact (hval h (by decide)).trans (hmbx h)
    · exact (hval h (by decide)).trans (State.cwEffect_rddesc h ((State.cwDescRead_of c _ hm).trans (if_neg (by omega))))
    · exact (hval h (by decide)).trans (State.cwEffect_rddesc h ((State.cwDescRead_of c _ hm).trans (if_pos ⟨hw, rfl⟩)))
    · exact (hval h (by decide)).trans (State.cwEffect_rddesc h ((State.cwDescRead_of c _ hm).trans (if_neg (nomatch ·.2))))
    · refine (hval h (by decide)).trans ((State.cwEffect_wrdesc h).trans ((if_pos ⟨hw, hb, ?_⟩).trans (s.cwDone_eq 6)))
      rw [hs]
      rfl
    · refine (hval h (by decide)).trans ((State.cwEffect_wrdesc h).trans ((if_neg fun hn => ?_).trans ?_))
      · obtain ⟨h0, h30, hsec⟩ := hn
        rcases hw with hw | hw | hw
        · exact hw h0
        · exact Bool.false_ne_true (hw.symm.trans h30)
        · rw [hw] at hsec
          exact Bool.false_ne_true hsec
      · cases hfree : s.descFree c k.param.toNat
        · exact s.cwDone_eq 11
        · exact State.cwDone_eq _ 0
end Sys2Proof.Machine

namespace Sys2Proof

/-- Taking away the entries of some keys blanks those keys and leaves the others. -/
theorem sparseGet_filter_key {α : Type} [DecidableEq α] {d : α} (p : Nat → Bool) (l : List (Nat × α)) (hw : sparseWf d l = true)
    (j : Nat) : sparseGet d (l.filter fun e => p e.1) j = if p j = true then sparseGet d l j else d := by
  induction l with
  | nil => exact (ite_self d).symm
  | cons e r ih =>
    obtain ⟨a, v⟩ := e
    obtain ⟨-, habove, hr⟩ := (sparseWf_cons d a v r).1 hw
    rw [sparseGet_cons hw]
    by_cases hp : p a = true
    · have hkept : ((a, v) :: r).filter (fun e => p e.1) = (a, v) :: r.filter fun e => p e.1 := List.filter_cons_of_pos hp
      have hwf : sparseWf d ((a, v) :: r.filter fun e => p e.1) = true := hkept ▸ sparseWf_filter _ _ hw
      rw [hkept, sparseGet_cons hwf, ih hr]
      by_cases ha : a = j
      · rw [if_pos ha, if_pos ha, if_pos (ha ▸ hp)]
      · rw [if_neg ha, if_neg ha]
    · have hgone : ((a, v) :: r).filter (fun e => p e.1) = r.filter fun e => p e.1 := List.filter_cons_of_neg hp
      rw [hgone, ih hr]
      by_cases ha : a = j
      · rw [if_neg (ha ▸ hp), if_neg (ha ▸ hp)]
      · rw [if_neg ha]

end Sys2Proof

namespace Sys2Proof.Machine

/-! R341, R342, R344: writes of the control stores. -/

theorem clearValid_getLsbD (x : BitVec 4) (ks : List (Fin 4)) (k : Fin 4) :
    (clearValid x ks).getLsbD k.val = (x.getLsbD k.val && !decide (k ∈ ks)) := by
  have hone (x : BitVec 4) (j : Fin 4) : (x &&& ~~~(BitVec.ofNat 4 (2 ^ j.val))).getLsbD k.val = (x.getLsbD k.val && !decide (k = j)) := by
    revert k j x
    decide +kernel
  induction ks generalizing x with
  | nil => simp [clearValid]
  | cons j ks ih =>
    refine (ih _).trans ?_
    rw [hone, Bool.and_assoc, ← Bool.not_or, ← Bool.decide_or]
    exact congrArg (fun b : Bool => x.getLsbD k.val && !b) (decide_eq_decide.2 List.mem_cons.symm)

/-- R342: the copies that a change reaches, each once. -/
theorem State.csChange_copies (s : State) {ks : List (Fin 4)} (hn : ks.Nodup) (f : CsCopy → CsCopy) (k : Fin 4) :
    (s.csChange ks f).cs.copies.at k = if k ∈ ks then f (s.cs.copies.at k) else s.cs.copies.at k := by
  change (ks.foldl (fun s k => s.modCs fun c => { c with copies := c.copies.mod k f }) s).cs.copies.at k = _
  induction ks generalizing s with
  | nil => rfl
  | cons j ks ih =>
    obtain ⟨hj, hks⟩ := List.nodup_cons.1 hn
    refine (ih (s.modCs fun c => { c with copies := c.copies.mod j f }) hks).trans ?_
    change (if k ∈ ks then f ((s.cs.copies.mod j f).at k) else (s.cs.copies.mod j f).at k) = _
    rw [Bank.at_mod]
    by_cases hk : k = j
    · rw [if_pos hk, if_neg (hk ▸ hj), if_pos (hk ▸ List.mem_cons_self)]
    · rw [if_neg hk]
      exact if_congr (List.mem_cons.trans (or_iff_right hk)).symm rfl rfl

theorem State.csTargets_nodup (s : State) : s.csTargets.Nodup := by
  unfold State.csTargets
  split
  · exact List.Nodup.filter _ (by decide)
  · exact List.nodup_singleton _

/-- R342: what a change of the target copies makes, for any property of a copy and its change. -/
theorem State.csChange_spec (s : State) (f : CsCopy → CsCopy) :
    ∃ z, s.csChange s.csTargets f = z ∧ z = { s with cs := z.cs, sec := z.sec } ∧
      ∀ k, z.cs.copies.at k = (if k ∈ s.csTargets then f (s.cs.copies.at k) else s.cs.copies.at k) ∧
        z.sec.patchValid.getLsbD k.val = (s.sec.patchValid.getLsbD k.val && !decide (k ∈ s.csTargets)) := by
  obtain ⟨c, hc⟩ := s.csChange_eq s.csTargets f
  have hcopies := s.csChange_copies s.csTargets_nodup f
  rw [hc] at hcopies
  exact ⟨_, hc, rfl, fun k => ⟨hcopies k, clearValid_getLsbD _ _ k⟩⟩

/-- R20: no register of the control-store windows has a W1C or W1S field. -/
theorem w1Bits_csWord {a : Nat} (h : a / 0x10000 = 0x1A) : w1Bits a = 0 := by
  have hlo : 0x1A0000 ≤ a := by omega
  have hhi : a < 0x1B0000 := by omega
  clear h
  unfold w1Bits within
  grind

theorem cs_word_address (w : Fin 16384) : memWindow (0x1A0000 + 4 * w.val) = false ∧ w1Bits (0x1A0000 + 4 * w.val) = 0 := by
  have hw := w.isLt
  refine ⟨?_, w1Bits_csWord (by omega)⟩
  unfold memWindow memOf
  grind

theorem cs_pm_address (p : Fin 64) : memWindow (0x1B0100 + 4 * p.val) = false ∧ w1Bits (0x1B0100 + 4 * p.val) = 0 := by
  revert p
  decide +kernel

theorem State.regWrite_cs (s : State) (q : Req) {a o : Nat} (h : a / 0x10000 = 0x1A ∨ a / 0x10000 = 0x1B)
    (ho : a - 0x1A0000 = o) (v : W32) : s.regWrite q a v = s.wrCs o v := by
  unfold State.regWrite
  rcases h with h | h <;> rw [h, ho] <;> rfl

theorem State.wrCs_word (s : State) {o : Nat} (ho : o < 0x10000) (v : W32) : s.wrCs o v = s.csWordW (0x4000 + o / 4) v :=
  if_pos ho

theorem State.wrCs_pm (s : State) {o : Nat} (h : 0x10100 ≤ o ∧ o < 0x10200) (v : W32) :
    s.wrCs o v = s.csPmW (Fin.ofNat 64 ((o - 0x10100) / 4)) v :=
  (if_neg (by omega)).trans (if_pos (decide_eq_true h))

theorem State.regWrite_csWord (s : State) (q : Req) (w : Fin 16384) (v : W32) :
    s.regWrite q (0x1A0000 + 4 * w.val) v = s.csWordW (0x4000 + w.val) v := by
  have hw := w.isLt
  refine (s.regWrite_cs q (o := 4 * w.val) (.inl (by omega)) (by omega) v).trans ((s.wrCs_word (by omega) v).trans ?_)
  exact congrArg (s.csWordW · v) (by omega)

theorem State.regWrite_csPm (s : State) (q : Req) (p : Fin 64) (v : W32) :
    s.regWrite q (0x1B0100 + 4 * p.val) v = s.csPmW p v := by
  have hp := p.isLt
  refine (s.regWrite_cs q (o := 0x10100 + 4 * p.val) (.inr (by omega)) (by omega) v).trans ((s.wrCs_pm (by omega) v).trans ?_)
  exact congrArg (s.csPmW · v) (Fin.ext ((Nat.mod_eq_of_lt (by omega)).trans (by omega)))

/-! R382, R384: the background test. -/

theorem Mem.bistPlace_of_selected {m : Mem} {k : Fin 4} (h : m.selected = [k]) {a : Nat} (ha : a < (memSpan k).2) :
    m.bistPlace a = some (max a (memSpan k).1) := by
  unfold Mem.bistPlace
  rw [h]
  simp [ha]

theorem State.bistDue_iff (s : State) : s.bistDue = true ↔
    ∀ b, s.mem.bistLast = some b → max 256 (fldN s.mem.bistCfg 16 16) ≤ (s.now - b).toNat := by
  unfold State.bistDue
  cases h : s.mem.bistLast with
  | none => simp
  | some t => simp [Mem.bistPeriod]

/-- R384: what a failed compare at `a` records. -/
def Mem.bistNoted (m : Mem) (f : Bool) (a : Nat) : Mem :=
  if f then { m with fail := true, bistFaddr := if m.fail then m.bistFaddr else a } else m

/-- R382: the test goes on behind the word at `a`, which may be the last of its pass. -/
def State.bistTaken (s : State) (m : Mem) (a : Nat) (last : Bool) : State :=
  s.modMem fun _ => { m with
    bistLast := some s.now, bistAddr := if last then (m.bistPlace 0).getD 0 else (m.bistPlace (a + 8)).getD 0
    passes := if last then m.passes + 1 else m.passes }

theorem State.bistWord_due {s : State} {f : Bool} {k : Fin 4} {a : Nat} (hup : s.up = true) (ht : s.ticking = true)
    (hon : bit s.mem.bistCfg 0 = true) (hdue : s.bistDue = true) (hk : s.mem.selected = [k])
    (ha : s.mem.bistPlace s.mem.bistAddr = some a) (hc : s.mem.check 23 (a / 8) = (true, s.mem)) :
    s.bistWord f = s.bistTaken (s.mem.bistNoted f a) a (decide (a + 8 = (memSpan k).2)) := by
  unfold State.bistWord
  refine (if_pos ⟨hup, ht, hon, hdue⟩).trans ?_
  rw [ha]
  dsimp only
  rw [hc, hk] <;> rfl

theorem Mem.bistNoted_place (m : Mem) (f : Bool) (a b : Nat) : (m.bistNoted f a).bistPlace b = m.bistPlace b := by
  cases f <;> rfl

/-- R382, R384: where the test of the only selected memory stands behind the word at `a`. -/
theorem State.bistTaken_selected {s : State} {k : Fin 4} (hk : s.mem.selected = [k]) (f : Bool) {a : Nat}
    (h1 : (memSpan k).1 ≤ a) (h2 : a + 8 ≤ (memSpan k).2) :
    s.bistTaken (s.mem.bistNoted f a) a (decide (a + 8 = (memSpan k).2)) = { s with mem := { s.mem with
      bistLast := some s.now, bistAddr := if a + 8 = (memSpan k).2 then (memSpan k).1 else a + 8
      fail := s.mem.fail || f
      bistFaddr := if f = true ∧ s.mem.fail = false then a else s.mem.bistFaddr
      passes := if a + 8 = (memSpan k).2 then s.mem.passes + 1 else s.mem.passes } } := by
  have hfirst : s.mem.bistPlace 0 = some (memSpan k).1 :=
    (Mem.bistPlace_of_selected hk (by omega)).trans (congrArg some (Nat.zero_max _))
  unfold State.bistTaken
  rw [Mem.bistNoted_place, Mem.bistNoted_place, hfirst]
  have hfail : (s.mem.bistNoted f a).fail = (s.mem.fail || f) ∧
      (s.mem.bistNoted f a).bistFaddr = if f = true ∧ s.mem.fail = false then a else s.mem.bistFaddr := by
    unfold Mem.bistNoted
    cases f <;> cases hfail : s.mem.fail <;> simp [hfail]
  have hkeep : s.mem.bistNoted f a = { s.mem with
      fail := (s.mem.bistNoted f a).fail, bistFaddr := (s.mem.bistNoted f a).bistFaddr } := by
    unfold Mem.bistNoted
    cases f <;> rfl
  rw [hfail.1, hfail.2] at hkeep
  rw [hkeep]
  by_cases hlast : a + 8 = (memSpan k).2
  · simp only [hlast, decide_true, if_true]
    rfl
  · have hnext : s.mem.bistPlace (a + 8) = some (a + 8) :=
      (Mem.bistPlace_of_selected hk (by omega)).trans (congrArg some (Nat.max_eq_left (by omega)))
    simp only [hlast, decide_false, if_false, hnext]
    rfl

/-! R377, R380: the error records. -/

/-! R386, R387: Agate. -/

theorem State.regWrite_mem (s : State) (q : Req) {a o : Nat} (h : a / 0x10000 = 6) (ho : a % 0x10000 = o) (v : W32) :
    s.regWrite q a v = s.wrMem q o v := by
  unfold State.regWrite
  rw [h, ho] <;> rfl

theorem State.wrMem_wipe (s : State) (q : Req) {v : W32} (h : bit v 0 = true) : s.wrMem q 0x104 v = s.agWipe 0 := if_pos h

theorem memOf_agate_iff {a : Nat} : memOf a = some 1 ↔ 0x1200000 ≤ a ∧ a < 0x1210000 := by
  unfold memOf
  grind

/-- R387: Agate reads 0 after a wipe, and every other byte as before. -/
theorem Mem.byte_wipe {m : Mem} (h : Memory.wf m = true) (last b : Nat) :
    (m.wipe last).byte b = if 0x1200000 ≤ b ∧ b < 0x1210000 then 0 else m.byte b := by
  refine (sparseGet_filter_key (fun a => !(decide (0x1200000 ≤ a ∧ a < 0x1210000))) m.cells h b).trans ?_
  by_cases hb : 0x1200000 ≤ b ∧ b < 0x1210000
  · rw [if_pos hb]
    exact if_neg (by simp [hb])
  · rw [if_neg hb]
    exact if_pos (by rw [decide_eq_false hb]; rfl)

/-- R310, R387: sequencer `q` with the reservation `o`, which a wipe ends where it lies in Agate. -/
def Seq.unreserve (q : Seq) (o : Option Nat) : Seq :=
  match o with
  | some w => if memOf (8 * w) = some 1 then { q with resv := none } else q
  | none => q

theorem Seq.unreserve_eq {q : Seq} {o : Option Nat} (h : q.resv = o) : ∃ x, q.unreserve o = { q with resv := x } := by
  subst h
  unfold Seq.unreserve
  split
  · split
    · exact ⟨none, rfl⟩
    · exact ⟨q.resv, rfl⟩
  · exact ⟨q.resv, rfl⟩

theorem State.agWipe_seq (s : State) (last : Nat) (n : Fin 16) :
    (s.agWipe last).seqs.at n = { s.seqs.at n with resv := ((s.agWipe last).seqs.at n).resv } := by
  obtain ⟨x, hx⟩ := Seq.unreserve_eq (q := s.seqs.at n) rfl
  have hat : (s.agWipe last).seqs.at n = { s.seqs.at n with resv := x } := (Bank.at_map _ _ _).trans hx
  rw [hat]

theorem lcLocked_agate {s : State} {r : Req} {wr : Bool} {a : Nat} (ha : memOf a = some 1) (hst : s.vault.state ≠ 0xF) :
    s.lcLocked r wr a = false := by
  obtain ⟨h1, h2⟩ := memOf_agate_iff.1 ha
  have hcs : csOffset a = false := by
    unfold csOffset within
    grind
  have hown : within a 0x400C0 0x400F0 = false := decide_eq_false (by omega)
  have hlc : decide (s.vault.state = 0xF) = false := decide_eq_false hst
  unfold State.lcLocked
  simp only [hlc, hcs, hown, ha]
  simp

section agate
variable {s : State} {r : Req} {wr : Bool} {a v : Nat}

/-- R57: what is left of the table for a word access to Agate. -/
theorem State.refusal_agate (ha : memOf a = some 1) (h4 : a % 4 = 0) (hup : s.up = true) : s.refusal r wr a 4 v =
    if r.sec = false then some .secure else if s.lcLocked r wr a then some .lifecycle
    else if s.mem.wiping || (wr && s.mem.wlock.getLsbD (agSegment a)) then some .disabled
    else if wr ∧ s.power.low then some .guard else none := by
  have hmem : memWindow a = true := congrArg Option.isSome ha
  have hcw : cwWindow a = false := by
    obtain ⟨h1, -⟩ := memOf_agate_iff.1 ha
    exact decide_eq_false (by omega)
  unfold State.refusal badWidth State.memSec State.memDisabled
  simp [hmem, hcw, ha, h4, hup]

theorem State.refusal_agate_public (ha : memOf a = some 1) (h4 : a % 4 = 0) (hup : s.up = true) (hr : r.sec = false) :
    s.refusal r wr a 4 v = some .secure :=
  (State.refusal_agate ha h4 hup).trans (if_pos hr)

theorem State.refusal_agate_disabled (ha : memOf a = some 1) (h4 : a % 4 = 0) (hup : s.up = true) (hr : r.sec = true)
    (hst : s.vault.state ≠ 0xF) (h : (s.mem.wiping || (wr && s.mem.wlock.getLsbD (agSegment a))) = true) :
    s.refusal r wr a 4 v = some .disabled := by
  refine (State.refusal_agate ha h4 hup).trans ((if_neg (by rw [hr]; decide)).trans ((if_neg ?_).trans (if_pos h)))
  rw [lcLocked_agate ha hst]
  decide

end agate

/-- Settles O47. -/
theorem memoryCommands : Obligations.MemoryCommands := by
  unfold Obligations.MemoryCommands
  refine ⟨fun s r w v hp => ?csWord, fun s r p v hp => ?csPm, fun s => rfl, ?bist, ?records, ?wipe, ?wiped, fun s r v hp => ?lock, ?refused⟩
  case csWord =>
    obtain ⟨hm, hw⟩ := cs_word_address w
    obtain ⟨z, hz, hframe, hk⟩ := s.csChange_spec fun c => c.setWord (0x4000 + w.val) v
    refine ⟨z, congrArg Host.Outcome.next ((State.busWrite_plain hp hm hw).trans ((s.regWrite_csWord r w v).trans hz)), hframe,
      fun k => ⟨fun hwf j => ?_, ?_, (hk k).2⟩⟩
    · rw [(hk k).1]
      by_cases hmem : k ∈ s.csTargets
      · rw [if_pos hmem]
        exact (sparseGet_sparseSet _ _ j v hwf).trans (if_congr (and_iff_left hmem).symm rfl rfl)
      · rw [if_neg hmem, if_neg fun h => hmem h.2]
    · rw [(hk k).1]
      exact (apply_ite CsCopy.pm _ _ _).trans (ite_self _)
  case csPm =>
    obtain ⟨hm, hw⟩ := cs_pm_address p
    obtain ⟨z, hz, hframe, hk⟩ := s.csChange_spec fun c => { c with pm := c.pm.upd p (v &&& pmMask) }
    refine ⟨z, congrArg Host.Outcome.next ((State.busWrite_plain hp hm hw).trans ((s.regWrite_csPm r p v).trans hz)), hframe,
      fun k => ⟨?_, fun j => ?_, (hk k).2⟩⟩
    · rw [(hk k).1]
      exact (apply_ite CsCopy.words _ _ _).trans (ite_self _)
    · rw [(hk k).1]
      by_cases hmem : k ∈ s.csTargets
      · rw [if_pos hmem]
        refine Eq.trans ?_ (if_congr (and_iff_left hmem).symm rfl rfl)
        by_cases hj : j = p
        · rw [if_pos hj, hj]
          exact Bank.at_upd_self _ _ _
        · rw [if_neg hj]
          exact Bank.at_upd_ne _ _ hj
      · rw [if_neg hmem, if_neg fun h => hmem h.2]
  case bist =>
    intro s t f k p a m hup ht hon hk hp h1 h2 hu hc due
    subst hp
    refine ⟨fun hdue => congrArg Host.Outcome.next (if_neg fun h => hdue ((State.bistDue_iff a).1 h.2.2.2)), fun hdue => ?_⟩
    have hplace : m.bistPlace m.bistAddr = some m.bistAddr :=
      (Mem.bistPlace_of_selected hk (by omega)).trans (congrArg some (Nat.max_eq_left h1))
    refine congrArg Host.Outcome.next ((State.bistWord_due (s := a) hup ht hon ((State.bistDue_iff a).2 hdue) hk hplace
      ((if_neg hu).trans (if_neg hc))).trans (State.bistTaken_selected hk f h1 h2))
  case records =>
    intro s hup u c
    exact ⟨congrArg Host.Outcome.next (if_pos hup), congrArg Host.Outcome.next (if_pos hup),
      congrArg Host.Outcome.next (if_pos hup), congrArg Host.Outcome.next (if_pos hup)⟩
  case wipe =>
    intro s r hp
    have heq : exec (.agateWipe r) s = .next (s.agWipe 0) := by
      refine congrArg Host.Outcome.next ((State.busWrite_plain (v := 1) hp rfl rfl).trans ?_)
      exact (s.regWrite_mem r (by decide : 0x60104 / 0x10000 = 6) (by decide : 0x60104 % 0x10000 = 0x104) 1).trans (s.wrMem_wipe r (by decide))
    refine ⟨_, _, heq, rfl, fun n => ?_, fun hwf b => Mem.byte_wipe hwf 0 b⟩
    exact s.agWipe_seq 0 n
  case wiped =>
    exact fun s => ⟨fun h => congrArg Host.Outcome.next (if_pos h), fun h => congrArg Host.Outcome.next (if_neg (Bool.eq_false_iff.1 h))⟩
  case lock =>
    refine congrArg Host.Outcome.next ((congrArg Prod.snd (State.busWrite_reg hp rfl)).trans ?_)
    rw [show BitVec.ofNat 32 v.toNat = v from (BitVec.ofNat_toNat 32 v).trans (BitVec.setWidth_eq v)]
    exact s.regWrite_mem r (by decide : 0x6010C / 0x10000 = 6) (by decide : 0x6010C % 0x10000 = 0x10C) _
  case refused =>
    intro s r wr a v ha h4 hup
    refine ⟨State.refusal_agate_public ha h4 hup, fun hr hst hw => State.refusal_agate_disabled ha h4 hup hr hst ?_,
      fun hr hst hw hl => State.refusal_agate_disabled ha h4 hup hr hst ?_⟩
    · rw [hw, Bool.true_or]
    · rw [agSegment, hl, Bool.true_and, Bool.or_true]

end Sys2Proof.Machine

namespace Sys2Proof.Machine

/-! R248, R253: what the context microcode writes reads back by words. -/

theorem byte_of_word (x : W32) {k : Nat} : fld x (8 * k) 8 = BitVec.ofNat 8 (x.toNat / 256 ^ k) := by
  apply BitVec.eq_of_toNat_eq
  simp only [fld, BitVec.extractLsb'_toNat, BitVec.toNat_ofNat, Nat.shiftRight_eq_div_pow, Nat.pow_mul]

theorem State.word_ctxWrite (s : State) (n : Fin 16) (a : Nat) {l : List W32} (hw : Memory.wf s.mem = true) (hl : l.length % 2 = 0)
    {j : Nat} (hj : j < l.length) : (s.ctxWrite n a l).mem.num (a + 4 * j) 4 = (l.getD j 0).toNat := by
  refine Mem.num_of_bytes 4 _ _ _ (l.getD j 0).isLt fun i hi => ?_
  rw [s.byte_ctxWrite n a l _ hw hl, if_pos (by omega), show (a + 4 * j + i - a) / 4 = j by omega,
    show (a + 4 * j + i - a) % 4 = i by omega]
  exact byte_of_word _

theorem State.byte_ctxWrite_apart (s : State) (n : Fin 16) {a : Nat} {l : List W32} (hw : Memory.wf s.mem = true) (hl : l.length % 2 = 0)
    {b : Nat} (hb : ¬ (a ≤ b ∧ b < a + 4 * l.length)) : (s.ctxWrite n a l).mem.byte b = s.mem.byte b :=
  (s.byte_ctxWrite n a l b hw hl).trans (if_neg hb)

theorem State.num_ctxWrite_apart (s : State) (n : Fin 16) {a : Nat} {l : List W32} (hw : Memory.wf s.mem = true) (hl : l.length % 2 = 0)
    {b k : Nat} (hb : b + k ≤ a ∨ a + 4 * l.length ≤ b) : (s.ctxWrite n a l).mem.num b k = s.mem.num b k :=
  Mem.num_congr k _ _ b fun d h1 h2 => s.byte_ctxWrite_apart n hw hl (by omega)

theorem Anchor.words_length (x : Anchor) : x.words.length = 2 := rfl

/-- A read of words without errors changes nothing. -/
theorem State.memRead_clean (s : State) (req : Nat) {a : Nat} (n : Nat) (hu : a / 8 ∉ s.mem.unc) (hc : a / 8 ∉ s.mem.corr) :
    s.memRead req a n = (some (s.mem.num a n), s) := by
  unfold State.memRead
  rw [Mem.read_of_clean req n hu hc]

theorem Mem.num_lt (m : Mem) (a n : Nat) : m.num a n < 256 ^ n := by
  induction n generalizing a with
  | zero => exact Nat.one_pos
  | succ n ih =>
    have hb := (m.byte a).isLt
    have hr := ih (a + 1)
    rw [Mem.num, Nat.pow_succ]
    omega

theorem State.descWord_toNat (s : State) (c : Fin 256) (w : Nat) : (s.descWord c w).toNat = s.mem.num (descAddr c + 4 * w) 4 :=
  Nat.mod_eq_of_lt (s.mem.num_lt _ 4)

/-- R310: a write of context words changes nothing of a sequencer but its reservation. -/
theorem State.clearResv_seq (s : State) (w : Nat) (n : Fin 16) : ∃ r, (s.clearResv w).seqs.at n = { s.seqs.at n with resv := r } := by
  refine (em ((s.seqs.at n).resv = some w)).elim (fun h => ⟨none, ?_⟩) fun h => ⟨(s.seqs.at n).resv, ?_⟩
  · exact (Bank.at_map _ _ _).trans (if_pos h)
  · exact (Bank.at_map _ _ _).trans (if_neg h)

theorem State.ctxWrite_seq (s : State) (n : Fin 16) (a : Nat) (l : List W32) (m : Fin 16) :
    ∃ r, (s.ctxWrite n a l).seqs.at m = { s.seqs.at m with resv := r } := by
  fun_induction State.ctxWrite s n a l with
  | case1 s a x y l ih =>
    obtain ⟨r, hr⟩ := ih
    obtain ⟨r', hr'⟩ := State.clearResv_seq { s with mem := s.mem.write n.val a 8 (x.toNat + 2 ^ 32 * y.toNat) } (a / 8) m
    refine ⟨r, hr.trans ?_⟩
    exact congrArg (fun q : Seq => { q with resv := r }) hr'
  | case2 s a x => exact State.clearResv_seq { s with mem := s.mem.write n.val a 4 x.toNat } (a / 8) m
  | case3 s a => exact ⟨_, rfl⟩

/-! R355: a write of CHn_CTRL. -/

theorem ctrl_address (c : Fin 256) : memWindow (0x1C0000 + 0x40 * c.val) = false ∧ w1Bits (0x1C0000 + 0x40 * c.val) = 0 := by
  revert c
  decide +kernel

theorem State.wrCh_ctrl (s : State) (w : Master) {o : Nat} {c : Fin 256} (ho : o = 0x40 * c.val) (v : W32) :
    s.wrCh w o v = s.chCtrl w.memReq c v := by
  have hc := c.isLt
  subst ho
  refine (if_pos (by omega)).trans ?_
  rw [show 0x40 * c.val % 0x40 = 0 by omega]
  exact congrArg (s.chCtrl w.memReq · v) (Fin.ext ((Nat.mod_eq_of_lt (by omega)).trans (by omega)))

theorem State.regWrite_ch (s : State) (q : Req) {a o : Nat} (h : a / 0x10000 = 0x1C) (ho : a - 0x1C0000 = o) (v : W32) :
    s.regWrite q a v = s.wrCh q.who o v := by
  unfold State.regWrite
  rw [h, ho] <;> rfl

theorem State.busWrite_ctrl {s : State} {r : Req} {c : Fin 256} {v : W32}
    (h : s.refusal r true (0x1C0000 + 0x40 * c.val) 4 v.toNat = none) :
    (s.busWrite r (0x1C0000 + 0x40 * c.val) 4 v.toNat).2 = s.chCtrl r.who.memReq c v := by
  have hc := c.isLt
  obtain ⟨hm, hw⟩ := ctrl_address c
  exact (State.busWrite_plain h hm hw).trans
    ((s.regWrite_ch r (o := 0x40 * c.val) (by omega) (by omega) v).trans (s.wrCh_ctrl r.who rfl v))

/-! R349: START. -/

section start
variable {s : State} {c : Fin 256} {req : Nat}

theorem State.descCheck_clean (h : ∀ k, k < 16 → descAddr c / 8 + k ∉ s.mem.unc ∧ descAddr c / 8 + k ∉ s.mem.corr) :
    s.descCheck req c = (true, s) := by
  have hfold (l : List Nat) : (∀ i ∈ l, i < 16) → (l.foldl (init := (true, s)) fun acc i =>
      let (v, s1) := acc.2.memRead req (descAddr c + 8 * i) 8
      (acc.1 && v.isSome, s1)) = (true, s) := by
    induction l with
    | nil => exact fun _ => rfl
    | cons i l ih =>
      intro hl
      obtain ⟨hu, hc⟩ := h i (hl i List.mem_cons_self)
      have hdiv : (descAddr c + 8 * i) / 8 = descAddr c / 8 + i := Nat.add_mul_div_left _ _ (by decide)
      rw [List.foldl_cons]
      simp only
      rw [s.memRead_clean req 8 (hdiv ▸ hu) (hdiv ▸ hc)]
      exact ih fun j hj => hl j (List.mem_cons_of_mem _ hj)
  exact hfold _ (by decide)

/-- R349: START refused with code `e`. -/
def State.startRefused (s : State) (c : Fin 256) (e : Nat) : State := s.modChan c fun x => { x with startErr := e }

/-- R349: the machine with the initial lower half in node `i`, and the anchor that names it. -/
def State.startBound (s : State) (c : Fin 256) (i : Fin 512) (p : Pool) : State :=
  (({ s with pool := p } : State).ctxWrite 0 (nodeAddr i) (startLower c (s.descWord c 0) (s.descWord c 1) (s.descWord c 2)
    ((List.range 8).map fun j => s.descWord c (4 + j)))).ctxWrite 0 (descAddr c + 48)
    (Anchor.words { lv := true, uv := false, fv := false, ub := false, fb := false, float := 0, upper := 0
                    lower := i, spcnt := 0, spill := 0 })

/-- R349: the record of a channel that has been started, before it becomes READY. -/
def Channel.started (x : Channel) (w0 : W32) (l : BitVec 256) (e : BitVec 64) (f : BitVec 128) (a : BitVec 16) : Channel :=
  { x with config := w0, lanes := l, engines := e, streams := f, cells := a, startErr := 0, breach := none, breachAt := 0
           fcause := .none, resumeRec := false, stopRec := none, abort := false, faultRec := none
           mbs := x.mbs.map fun m : Mailbox => { m with q := [] }, firstFetch := false }

/-- R349: the machine with channel `c` started in node `i`, before the interrupt controller sees it. -/
def State.started (s : State) (c : Fin 256) (i : Fin 512) (p : Pool) : State :=
  (((s.startBound c i p).modChan c fun x => x.started (s.descWord c 0) (BitVec.ofNat 256 (s.descNum c 16 8))
    (BitVec.ofNat 64 (s.descNum c 24 2)) (BitVec.ofNat 128 (s.descNum c 26 4)) (BitVec.ofNat 16 (s.descNum c 30 1))).clearInputs c).makeReady c

/-- R349: the checks of START in their order, where the descriptor holds no error. -/
theorem State.chStart_off (hoff : (s.chans.at c).st = .off) (hd : s.descCheck req c = (true, s)) : s.chStart req c =
    if descValid (s.descWord c 0) (s.descWord c 1) (s.descWord c 2) = false then s.startRefused c 3
    else if s.claimed c (BitVec.ofNat 256 (s.descNum c 16 8)) (BitVec.ofNat 64 (s.descNum c 24 2)) (BitVec.ofNat 128 (s.descNum c 26 4))
      (BitVec.ofNat 16 (s.descNum c 30 1)) then s.startRefused c 2
    else (s.pool.alloc .lower c).elim (s.startRefused c 1) fun r => (s.started c r.1 r.2).eicSettle := by
  unfold State.chStart
  refine (if_neg fun h => h hoff).trans ?_
  rw [hd]
  refine if_congr ?_ rfl (if_congr Iff.rfl rfl ?_)
  · cases descValid (s.descWord c 0) (s.descWord c 1) (s.descWord c 2) <;> decide
  · change (match s.pool.alloc .lower c with | none => _ | some (i, p) => State.eicSettle _) = _
    cases s.pool.alloc .lower c with
    | none => rfl
    | some r => exact congrArg State.eicSettle rfl

/-- What the binding of the node changes. -/
theorem State.startBound_frame (i : Fin 512) (p : Pool) : ∃ m q, s.startBound c i p = { s with pool := p, mem := m, seqs := q } := by
  have hk := (({ s with pool := p } : State).ctxWrite_changes 0 (nodeAddr i) (startLower c (s.descWord c 0) (s.descWord c 1)
    (s.descWord c 2) ((List.range 8).map fun j => s.descWord c (4 + j)))).trans
    (State.ctxWrite_changes _ 0 (descAddr c + 48) (Anchor.words { lv := true, uv := false, fv := false, ub := false, fb := false
                                                                  float := 0, upper := 0, lower := i, spcnt := 0, spill := 0 }))
  exact ⟨_, _, hk.frame⟩

theorem Spinel.pending_clearing (c : Nat) (l : List Nat) {n : Spinel} (hw : sparseWf [] n.counts = true) (j : Nat) :
    (l.foldl (fun n e => n.setPending (4 * c + e) []) n).pending j = if ∃ e ∈ l, j = 4 * c + e then [] else n.pending j := by
  induction l generalizing n with
  | nil => exact (if_neg fun h => nomatch h).symm
  | cons e l ih =>
    rw [List.foldl_cons, ih (Spinel.wf_setPending hw _ _), Spinel.pending_setPending hw]
    by_cases hr : ∃ e ∈ l, j = 4 * c + e
    · rw [if_pos hr, if_pos (List.exists_mem_cons_iff _ _ _ |>.2 (.inr hr))]
    · rw [if_neg hr]
      exact if_congr ((List.exists_mem_cons_iff _ _ _).trans (or_iff_left hr)).symm rfl rfl

/-- R498: the event inputs of channel `c` hold no count. -/
theorem State.pending_clearInputs (hw : sparseWf [] s.sn.counts = true) (j : Nat) :
    (s.clearInputs c).sn.pending j = if j / 4 = c.val then [] else s.sn.pending j := by
  refine (Spinel.pending_clearing c.val [0, 1, 2, 3] hw j).trans (if_congr ?_ rfl rfl)
  simp only [List.exists_mem_cons_iff, List.not_mem_nil, false_and, exists_false, or_false]
  omega

/-- R349: what START makes of the machine, but for the words that it writes. -/
theorem State.started_spec (i : Fin 512) (p : Pool) : ∃ z : State, s.started c i p = z ∧
    z = { s with chans := z.chans, pool := z.pool, mem := z.mem, seqs := z.seqs, sn := z.sn } ∧
    z.chans = s.chans.upd c { (s.chans.at c).started (s.descWord c 0) (BitVec.ofNat 256 (s.descNum c 16 8)) (BitVec.ofNat 64 (s.descNum c 24 2))
      (BitVec.ofNat 128 (s.descNum c 26 4)) (BitVec.ofNat 16 (s.descNum c 30 1)) with st := .ready, since := s.now } ∧
    z.pool = p ∧ z.mem = (s.startBound c i p).mem ∧
    (sparseWf [] s.sn.counts = true → ∀ j, z.sn.pending j = if j / 4 = c.val then [] else s.sn.pending j) := by
  obtain ⟨m, q, hy⟩ := State.startBound_frame (s := s) (c := c) i p
  refine ⟨_, rfl, ?_, ?_, ?_, rfl, fun hw j => ?_⟩
  all_goals unfold State.started; rw [hy]
  · rfl
  · refine (Bank.upd_upd s.chans c _ _).trans (congrArg (s.chans.upd c) ?_)
    exact congrArg (fun x : Channel => { x with st := .ready, since := s.now }) (Bank.at_upd_self s.chans c _)
  · rfl
  · exact State.pending_clearInputs (s := { s with pool := p, mem := m, seqs := q }) hw j

theorem descValid_iff (w0 pc tvec : W32) : descValid w0 pc tvec = true ↔
    fldN w0 28 2 < 2 ∧ pc.toNat % 4 = 0 ∧ pc.toNat < 0x80000 ∧ tvec.toNat % 4 = 0 := by
  have hlow (x : W32) : fldN x 0 2 = x.toNat % 4 := by
    simp [fldN, BitVec.extractLsb'_toNat]
  unfold descValid
  simp only [hlow, Bool.and_eq_true, decide_eq_true_eq, and_assoc]

theorem State.claimed_iff (l : BitVec 256) (e : BitVec 64) (f : BitVec 128) (a : BitVec 16) : s.claimed c l e f a = true ↔
    ∃ d, d ≠ c ∧ (s.chans.at d).st ≠ .off ∧ ((s.chans.at d).lanes &&& l ≠ 0 ∨ (s.chans.at d).engines &&& e ≠ 0 ∨
      (s.chans.at d).streams &&& f ≠ 0 ∨ (s.chans.at d).cells &&& a ≠ 0) := by
  unfold State.claimed
  simp only [List.any_eq_true, Bool.and_eq_true, Bool.or_eq_true, decide_eq_true_eq, and_assoc, or_assoc]
  exact ⟨fun ⟨d, _, h⟩ => ⟨d, h⟩, fun ⟨d, h⟩ => ⟨d, mem_allChans d, h⟩⟩

theorem Pool.take_none {p : Pool} {x : Node} (h : p.head = none) : p.take x = none := by
  unfold Pool.take
  rw [h]

theorem Pool.take_some {p : Pool} {x : Node} {i : Fin 512} (h : p.head = some i) : ∃ p1, p.take x = some (i, p1) ∧
    p1.head = (p.nodes.at i).next ∧ p1.nodes = p.nodes.upd i x := by
  unfold Pool.take
  rw [h]
  exact ⟨_, rfl, rfl, rfl⟩

/-- R248, R252, R349: the words of the initial lower half and of the anchor, and the bytes that are not written. -/
theorem State.startBound_mem (hw : Memory.wf s.mem = true) (i : Fin 512) (p : Pool) :
    (∀ j, j < 8 → (s.startBound c i p).mem.num (nodeAddr i + 4 * j) 4 = (s.descWord c (4 + j)).toNat) ∧
    (s.startBound c i p).mem.num (nodeAddr i + 4 * 32) 4 = (s.descWord c 1).toNat ∧
    (s.startBound c i p).mem.num (nodeAddr i + 4 * 38) 4 = (s.descWord c 2).toNat ∧
    ∀ b, ¬ (nodeAddr i ≤ b ∧ b < nodeAddr i + 160) → ¬ (descAddr c + 48 ≤ b ∧ b < descAddr c + 56) →
      (s.startBound c i p).mem.byte b = s.mem.byte b := by
  let l := startLower c (s.descWord c 0) (s.descWord c 1) (s.descWord c 2) ((List.range 8).map fun j => s.descWord c (4 + j))
  have hl : l.length = 40 := rfl
  have heven : l.length % 2 = 0 := by rw [hl]
  let y := ({ s with pool := p } : State).ctxWrite 0 (nodeAddr i) l
  have hy : Memory.wf y.mem = true := State.ctxWrite_wf { s with pool := p } 0 _ l hw
  have hc := c.isLt
  have hapart : descAddr c + 56 ≤ nodeAddr i := by
    unfold descAddr nodeAddr
    omega
  have hword {j : Nat} (hj : j < 40) : (s.startBound c i p).mem.num (nodeAddr i + 4 * j) 4 = (l.getD j 0).toNat :=
    (State.num_ctxWrite_apart y 0 hy (congrArg (· % 2) (Anchor.words_length _)) (.inr (by rw [Anchor.words_length]; omega))).trans
      (State.word_ctxWrite { s with pool := p } 0 (nodeAddr i) hw heven (hl ▸ hj))
  refine ⟨fun j hj => (hword (by omega)).trans ?_, hword (by decide), hword (by decide), fun b h1 h2 => ?_⟩
  · interval_cases j <;> rfl
  · exact (State.byte_ctxWrite_apart y 0 hy (congrArg (· % 2) (Anchor.words_length _)) (by rw [Anchor.words_length]; omega)).trans
      (State.byte_ctxWrite_apart { s with pool := p } 0 hw heven (by rw [hl]; omega))

end start

/-! R350 to R354: commands. -/

section commands
variable {s : State} {c : Fin 256} {req : Nat} {ab : Bool}

theorem State.chStop_frozen (hf : s.frozen c = true) (h : (s.chans.at c).st = .run ∨ (s.chans.at c).st = .blocked) :
    s.chStop c ab = s.modChan c fun x => { x with stopRec := some (ab || x.stopRec.getD false) } := if_pos ⟨hf, h⟩

/-- R350: what STOP makes of a channel in state `k` that no halted sequencer holds in RUN or BLOCKED. -/
def State.stopIn (s : State) (c : Fin 256) (ab : Bool) (k : ChSt) : State :=
  match k with
  | .run =>
    if ab then (s.modChan c fun x => { x with st := .draining, abort := ab, resumeRec := false }).reqSwitch (s.chans.at c).sq
    else s.modChan c fun x => { x with st := .draining, abort := ab, resumeRec := false }
  | .waitPool => s.modChan c fun x => { x with stopRec := some (ab || x.stopRec.getD false) }
  | .ready | .blocked => if (s.chans.at c).res then (s.stopChan 16 c).reqSwitch (s.chans.at c).sq else s.stopChan 16 c
  | .draining => if ab then ((s.ignored c).modChan c fun x => { x with abort := true }).reqSwitch (s.chans.at c).sq else s.ignored c
  | _ => s.ignored c

theorem State.chStop_of {k : ChSt} (h : (s.chans.at c).st = k) (hf : s.frozen c = false ∨ k ≠ .run ∧ k ≠ .blocked) :
    s.chStop c ab = s.stopIn c ab k := by
  subst h
  refine (if_neg fun hn => ?_).trans rfl
  rcases hf with hf | hf
  · exact Bool.false_ne_true (hf.symm.trans hn.1)
  · exact hn.2.elim hf.1 hf.2

theorem State.stopChan_fresh (h : (s.chans.at c).resumeRec = false) :
    s.stopChan req c = s.modChan c fun x => { x with st := .stopped, stopF := true, resumeRec := false, abort := false } := by
  unfold State.stopChan
  rw [h] <;> rfl

/-- R350, R361: RESUME after its re-read, which answers `o`. -/
def State.resumed (s : State) (c : Fin 256) (o : Option State) : State :=
  match o with
  | some z => (z.makeReady c).eicSettle
  | none => s.ignored c

theorem State.resume_clean (hu : descAddr c / 8 ∉ s.mem.unc) (hc : descAddr c / 8 ∉ s.mem.corr) :
    s.resume req c = s.resumed c (s.reread c (s.descWord c 0)) := by
  unfold State.resume
  rw [s.memRead_clean req 4 hu hc]
  rfl

theorem State.chResume_of {k : ChSt} (h : (s.chans.at c).st = k) : s.chResume req c =
    if k = .stopped then s.resume req c else if k = .draining then s.modChan c fun x => { x with resumeRec := true } else s.ignored c := by
  unfold State.chResume
  rw [h]
  cases k <;> rfl

theorem State.modChan_of_chans {z : State} {b : Bank Channel 256} (h : z.chans = b) (c : Fin 256) (f : Channel → Channel) :
    (z.modChan c f).chans = b.upd c (f (b.at c)) := by
  subst h
  rfl

theorem State.modChan_modChan (s : State) (c : Fin 256) (f g : Channel → Channel) :
    (s.modChan c f).modChan c g = s.modChan c fun x => g (f x) := by
  refine congrArg (fun b => ({ s with chans := b } : State)) ((Bank.upd_upd _ _ _ _).trans (congrArg (s.chans.upd c) ?_))
  exact congrArg g (Bank.at_upd_self _ _ _)

/-- R352: node `i` goes back to the free list where it holds a context of channel `c`. -/
def Pool.freeOf (c : Fin 256) (p : Pool) (i : Fin 512) : Pool :=
  if (p.nodes.at i).owner = c ∧ (p.nodes.at i).kind ≠ .free ∧ (p.nodes.at i).kind ≠ .unowned then p.free i else p

theorem Pool.freeOf_other (c : Fin 256) (p : Pool) {i j : Fin 512} (h : i ≠ j) : (p.freeOf c j).nodes.at i = p.nodes.at i := by
  unfold Pool.freeOf
  split
  · exact Bank.at_upd_ne _ _ h
  · rfl

theorem Pool.freeOf_kept {c : Fin 256} {p : Pool} {i : Fin 512} (h : (p.nodes.at i).owner ≠ c ∨ (p.nodes.at i).kind = .free) :
    p.freeOf c i = p :=
  if_neg fun hn => h.elim (fun k => k hn.1) hn.2.1

theorem Pool.freeOf_freed {c : Fin 256} {p : Pool} {i : Fin 512} (ho : (p.nodes.at i).owner = c) (hk : (p.nodes.at i).kind ≠ .unowned) :
    ((p.freeOf c i).nodes.at i).kind = .free := by
  by_cases hf : (p.nodes.at i).kind = .free
  · rw [Pool.freeOf_kept (.inr hf), hf]
  · have hfree : p.freeOf c i = p.free i := if_pos ⟨ho, hf, hk⟩
    rw [hfree]
    exact congrArg Node.kind (Bank.at_upd_self _ _ _)

theorem Pool.freeing_kept (c : Fin 256) (l : List (Fin 512)) {p : Pool} {i : Fin 512}
    (h : (p.nodes.at i).owner ≠ c ∨ (p.nodes.at i).kind = .free) : (l.foldl (Pool.freeOf c) p).nodes.at i = p.nodes.at i := by
  induction l generalizing p with
  | nil => rfl
  | cons j l ih =>
    have hj : (p.freeOf c j).nodes.at i = p.nodes.at i := by
      by_cases hij : i = j
      · rw [← hij, Pool.freeOf_kept h]
      · exact p.freeOf_other c hij
    exact (ih (by rw [hj]; exact h)).trans hj

theorem Pool.freeing_freed (c : Fin 256) (l : List (Fin 512)) {p : Pool} {i : Fin 512} (hi : i ∈ l)
    (ho : (p.nodes.at i).owner = c) (hk : (p.nodes.at i).kind ≠ .unowned) : ((l.foldl (Pool.freeOf c) p).nodes.at i).kind = .free := by
  induction l generalizing p with
  | nil => exact nomatch hi
  | cons j l ih =>
    by_cases hij : i = j
    · subst hij
      have hfreed := Pool.freeOf_freed ho hk
      exact (congrArg Node.kind (Pool.freeing_kept c l (.inr hfreed))).trans hfreed
    · have hj := p.freeOf_other c hij
      exact ih ((List.mem_cons.1 hi).resolve_left hij) (by rw [hj]; exact ho) (by rw [hj]; exact hk)

/-- R352: DISCARD in STOPPED or FAULT, before the interrupt controller sees it. -/
def State.discarded (s : State) (c : Fin 256) : State :=
  let s1 := if (s.chans.at c).res then s.seqAbandon (s.chans.at c).sq else s
  ((({ s1 with pool := s1.pool.freeAll c } : State).dropFown c).ctxWrite 0 (descAddr c + 48) [0, 0]).modChan c fun x =>
    { x with st := .off, res := false, config := 0, lanes := 0, engines := 0, streams := 0, cells := 0
             mbs := x.mbs.map fun m => { m with q := [] }, resumeRec := false, stopRec := none, abort := false, faultRec := none }

theorem State.discarded_spec (s : State) (c : Fin 256) :
    s.discarded c = { s with
      power := (s.discarded c).power, chans := (s.discarded c).chans, pool := (s.discarded c).pool,
      mem := (s.discarded c).mem, seqs := (s.discarded c).seqs, eic := (s.discarded c).eic, dbg := (s.discarded c).dbg } ∧
    (s.discarded c).chans = s.chans.upd c { s.chans.at c with
      st := .off, res := false, config := 0, lanes := 0, engines := 0, streams := 0, cells := 0
      mbs := (s.chans.at c).mbs.map fun m => { m with q := [] }, resumeRec := false, stopRec := none, abort := false, faultRec := none } ∧
    (s.discarded c).pool = s.pool.freeAll c ∧
    (∀ n, ((s.discarded c).seqs.at n).fownCh = c → ((s.discarded c).seqs.at n).fownV = false) ∧
    (Memory.wf s.mem = true → ∀ b, (s.discarded c).mem.byte b = if descAddr c + 48 ≤ b ∧ b < descAddr c + 56 then 0 else s.mem.byte b) := by
  obtain ⟨y, hy, hk⟩ : ∃ y, (if (s.chans.at c).res then s.seqAbandon (s.chans.at c).sq else s) = y ∧
      State.Changes [.power, .seqs, .eic, .dbg] s y := by
    refine ⟨_, rfl, ?_⟩
    split
    · exact s.seqAbandon_changes _
    · exact .refl _ _
  unfold State.discarded
  rw [hy]
  clear hy
  have hfreed : y.pool.freeAll c = s.pool.freeAll c := congrArg (Pool.freeAll · c) (hk.same .pool rfl)
  dsimp only
  rw [hfreed]
  generalize s.pool.freeAll c = p
  let w := ({ y with pool := p } : State).dropFown c
  have hw := w.ctxWrite_changes 0 (descAddr c + 48) [0, 0]
  have hchans : y.chans = s.chans := hk.same .chans rfl
  have hmem : y.mem = s.mem := hk.same .mem rfl
  have hwc : (w.ctxWrite 0 (descAddr c + 48) [0, 0]).chans = y.chans := hw.same .chans rfl
  have hwp : (w.ctxWrite 0 (descAddr c + 48) [0, 0]).pool = p := hw.same .pool rfl
  have hwchans : (w.ctxWrite 0 (descAddr c + 48) [0, 0]).chans = s.chans := hwc.trans hchans
  refine ⟨?_, ?_, hwp, fun n hn => ?_, fun hwf b => ?_⟩
  · obtain ⟨q, m, hz⟩ : ∃ q m, w.ctxWrite 0 (descAddr c + 48) [0, 0] = { w with seqs := q, mem := m } := ⟨_, _, hw.frame⟩
    obtain ⟨a, q', e, d, hy⟩ : ∃ a q e d, y = { s with power := a, seqs := q, eic := e, dbg := d } := ⟨_, _, _, _, hk.frame⟩
    change (w.ctxWrite 0 (descAddr c + 48) [0, 0]).modChan c _ = _
    rw [hz]
    subst hy
    rfl
  · exact State.modChan_of_chans hwchans c _
  · obtain ⟨r, hr⟩ := w.ctxWrite_seq 0 (descAddr c + 48) [0, 0] n
    have hv : (w.seqs.at n).fownCh = c → (w.seqs.at n).fownV = false := by
      have hat : w.seqs.at n = if (y.seqs.at n).fownCh = c then { y.seqs.at n with fownV := false, fownD := false } else y.seqs.at n :=
        Bank.at_map _ _ _
      rw [hat]
      by_cases hc : (y.seqs.at n).fownCh = c
      · rw [if_pos hc]
        exact fun _ => rfl
      · rw [if_neg hc]
        exact fun h => absurd h hc
    exact (congrArg Seq.fownV hr).trans (hv ((congrArg Seq.fownCh hr).symm.trans hn))
  · have hwf' : Memory.wf w.mem = true := hmem ▸ hwf
    refine (w.byte_ctxWrite 0 (descAddr c + 48) [0, 0] b hwf' rfl).trans (if_congr Iff.rfl ?_ (congrArg (Mem.byte · b) hmem))
    have hzero (k : Nat) : ([0, 0] : List W32).getD k 0 = 0 := by
      rcases k with _ | _ | k <;> rfl
    rw [hzero]
    exact BitVec.extractLsb'_zero

/-- R355: a write of CHn_CTRL with a single command. -/
theorem State.chCtrl_single : s.chCtrl req c 0x01 = s.chStart req c ∧ s.chCtrl req c 0x02 = s.chStop c false ∧
    s.chCtrl req c 0x06 = s.chStop c true ∧ s.chCtrl req c 0x04 = s.chAbort c ∧ s.chCtrl req c 0x08 = s.chResume req c ∧
    s.chCtrl req c 0x10 = s.chDiscard c ∧ s.chCtrl req c 0x20 = s.chFlush c ∧ s.chCtrl req c 0x40 = s.chNote c := by
  unfold State.chCtrl
  simp [bit]

end commands

/-- Settles O48. -/
theorem channelCommands : Obligations.ChannelCommands := by
  unfold Obligations.ChannelCommands
  refine ⟨fun s r c hp => ?start, fun s r c => ?commands, fun s t c => ?wake⟩
  case start =>
    intro x to_ num w0 pc tvec valid l e f a taken
    have heq : exec (.chStart r c) s = .next (s.chStart r.who.memReq c) :=
      congrArg Host.Outcome.next ((State.busWrite_ctrl (v := 1) hp).trans State.chCtrl_single.1)
    refine ⟨fun h => heq.trans (congrArg Host.Outcome.next (if_pos h)), fun hoff hclean => ?_⟩
    have hstart := heq.trans (congrArg Host.Outcome.next (State.chStart_off hoff (State.descCheck_clean hclean)))
    have hvalid : descValid (s.descWord c 0) (s.descWord c 1) (s.descWord c 2) = true ↔ valid := descValid_iff _ _ _
    have htaken : s.claimed c l e f a = true ↔ taken := State.claimed_iff l e f a
    refine ⟨fun hv => hstart.trans (congrArg Host.Outcome.next (if_pos (Bool.eq_false_iff.2 fun h => hv (hvalid.1 h)))), fun hv ht => ?_,
      fun hv ht hn => ?_, fun i hv ht hi => ?_⟩
    all_goals have hpass := hstart.trans (congrArg Host.Outcome.next (if_neg (by rw [hvalid.2 hv]; decide)))
    · exact hpass.trans (congrArg Host.Outcome.next (if_pos (htaken.2 ht)))
    · exact hpass.trans (congrArg Host.Outcome.next ((if_neg fun h => ht (htaken.1 h)).trans
        (congrArg (Option.elim · _ _) (Pool.take_none hn))))
    · obtain ⟨p, hp1, hhead, hnodes⟩ := Pool.take_some (x := { kind := .lower, owner := c, count := 0, next := none }) hi
      obtain ⟨z, hz, hframe, hchans, hpool, hmem, hsn⟩ := State.started_spec (s := s) (c := c) i p
      refine ⟨z, hpass.trans (congrArg Host.Outcome.next ((if_neg fun h => ht (htaken.1 h)).trans
        ((congrArg (Option.elim · _ _) hp1).trans (congrArg State.eicSettle hz)))), hframe, hchans, hpool ▸ hhead, hpool ▸ hnodes, hsn, fun hw => ?_⟩
      obtain ⟨hk, hpc, htvec, hrest⟩ := State.startBound_mem (c := c) hw i p
      rw [hmem]
      exact ⟨fun j hj => (hk j hj).trans (s.descWord_toNat c _), hpc, htvec, hrest⟩
  case commands =>
    intro x ok to_ both ignored w0
    obtain ⟨-, hstop, habort, halone, hresume, hdiscard, hflush, hnote⟩ := State.chCtrl_single (s := s) (c := c) (req := r.who.memReq)
    have hctrl {v : W32} {i : Instr} {z : State} (h : ok v.toNat)
        (hi : exec i s = .next (s.busWrite r (0x1C0000 + 0x40 * c.val) 4 v.toNat).2) (hz : s.chCtrl r.who.memReq c v = z) : exec i s = .next z :=
      hi.trans (congrArg Host.Outcome.next ((State.busWrite_ctrl h).trans hz))
    refine ⟨fun hp => ?stop, fun hp => ?abort, fun hp => ?alone, fun hp => ?resume, fun hp => ?discard, fun hp => ?flush,
      fun hp => hctrl (v := 0x40) hp rfl hnote⟩
    case stop =>
      have heq {z : State} (hz : s.chStop c false = z) : exec (.chStop r c) s = .next z := hctrl (v := 2) hp rfl (hstop.trans hz)
      refine ⟨fun hf h => heq (State.chStop_frozen hf h), fun hf h => heq (State.chStop_of h (.inl hf)),
        fun h => heq (State.chStop_of h (.inr (by decide))), fun h hr => ?_, fun h => ?_⟩
      · have hst : s.stopChan 16 c = s.modChan c fun x => { x with st := .stopped, stopF := true, abort := false } := by
          refine (State.stopChan_fresh hr).trans (congrArg (fun y => ({ s with chans := s.chans.upd c y } : State)) ?_)
          exact congrArg (fun b => { x with st := .stopped, stopF := true, resumeRec := b, abort := false }) hr.symm
        have hin : exec (.chStop r c) s = .next (if x.res then (s.stopChan 16 c).reqSwitch x.sq else s.stopChan 16 c) := by
          rcases h with h | ⟨h, hf⟩
          · exact heq (State.chStop_of h (.inr (by decide)))
          · exact heq (State.chStop_of h (.inl hf))
        rw [hin, hst]
        exact (apply_ite Host.Outcome.next _ _ _).trans (apply_ite (fun f : Channel → Host.Outcome State Fault Refusal => f _) _ both to_).symm
      · rcases h with h | h | h | h <;> exact heq (State.chStop_of h (.inr (by decide)))
    case abort =>
      have heq {z : State} (hz : s.chStop c true = z) : exec (.chAbort r c true) s = .next z := hctrl (v := 6) hp rfl (habort.trans hz)
      refine ⟨fun hf h => heq (State.chStop_frozen hf h), fun hf h => heq (State.chStop_of h (.inl hf)),
        fun h => heq (State.chStop_of h (.inr (by decide))), fun h => ?_, fun h => ?_⟩
      · refine heq ((State.chStop_of h (.inr (by decide))).trans ?_)
        exact congrArg (State.reqSwitch · x.sq) (s.modChan_modChan c _ _)
      · rcases h with h | h | h <;> exact heq (State.chStop_of h (.inr (by decide)))
    case alone =>
      have heq {z : State} (hz : s.chAbort c = z) : exec (.chAbort r c false) s = .next z := hctrl (v := 4) hp rfl (halone.trans hz)
      exact ⟨fun h => heq (if_pos h), fun h => heq (if_neg h)⟩
    case resume =>
      have heq {z : State} (hz : s.chResume r.who.memReq c = z) : exec (.chResume r c) s = .next z := hctrl (v := 8) hp rfl (hresume.trans hz)
      have hread (h : x.st = .stopped) (hu : (0x1400000 + 0x200 * c.val) / 8 ∉ s.mem.unc) (hc : (0x1400000 + 0x200 * c.val) / 8 ∉ s.mem.corr) :
          exec (.chResume r c) s = .next (s.resumed c (s.reread c w0)) :=
        heq ((State.chResume_of h).trans ((if_pos rfl).trans (State.resume_clean hu hc)))
      refine ⟨fun h hu hc hb hf => (hread h hu hc).trans (congrArg Host.Outcome.next ?_), fun h hu hc hb => (hread h hu hc).trans (congrArg Host.Outcome.next ?_),
        fun h => heq ((State.chResume_of h).trans rfl), fun h1 h2 => heq ((State.chResume_of rfl).trans ((if_neg h1).trans (if_neg h2)))⟩
      · have hre : s.reread c w0 = some (s.modChan c fun x => { x with config := mrg 0x3FF00000 x.config w0 }) :=
          (if_neg (Bool.eq_false_iff.1 hb)).trans (congrArg some (if_pos hf.symm))
        rw [hre]
        exact congrArg State.eicSettle (s.modChan_modChan c _ _)
      · have hre : s.reread c w0 = none := if_pos hb
        rw [hre] <;> rfl
    case discard =>
      have heq {z : State} (hz : s.chDiscard c = z) : exec (.chDiscard r c) s = .next z := hctrl (v := 0x10) hp rfl (hdiscard.trans hz)
      refine ⟨fun h => ?_, fun h1 h2 => heq (if_neg fun h => h.elim h1 h2)⟩
      obtain ⟨hframe, hchans, hpool, hseqs, hmem⟩ := s.discarded_spec c
      have hexec : exec (.chDiscard r c) s = .next (s.discarded c).eicSettle := heq (if_pos h)
      generalize s.discarded c = y at hexec hframe hchans hpool hseqs hmem
      have hk := y.eicSettle_changes
      have hzc : y.eicSettle.chans = y.chans := hk.same .chans rfl
      have hzp : y.eicSettle.pool = y.pool := hk.same .pool rfl
      have hzq : y.eicSettle.seqs = y.seqs := hk.same .seqs rfl
      have hzm : y.eicSettle.mem = y.mem := hk.same .mem rfl
      refine ⟨_, hexec, ?_, fun d hd => ?_, ?_, fun i => ⟨fun ⟨ho, hu⟩ => ?_, fun ho => ?_⟩, fun n hn => ?_, fun hw b => ?_⟩
      · obtain ⟨a, e, d, hz⟩ : ∃ a e d, y.eicSettle = { y with power := a, eic := e, dbg := d } := ⟨_, _, _, hk.frame⟩
        rw [hz]
        obtain ⟨a, b, p, m, q, e, d, hy⟩ : ∃ a b p m q e d, y = { s with power := a, chans := b, pool := p, mem := m, seqs := q, eic := e, dbg := d } :=
          ⟨_, _, _, _, _, _, _, hframe⟩
        subst hy
        rfl
      · rw [hzc, hchans]
        exact Bank.at_upd_ne _ _ hd
      · rw [hzc, hchans]
        dsimp only
        rw [Bank.at_upd_self]
        exact ⟨rfl, rfl, rfl, rfl, rfl, rfl, rfl, fun m => congrArg Mailbox.q (Bank.at_map _ _ _)⟩
      · rw [hzp, hpool]
        exact Pool.freeing_freed c _ (List.mem_ofFn.2 ⟨i, rfl⟩) ho hu
      · rw [hzp, hpool]
        exact Pool.freeing_kept c _ (.inl ho)
      · rw [hzq] at hn ⊢
        exact hseqs n hn
      · rw [hzm]
        exact hmem hw b
    case flush =>
      have heq {z : State} (hz : s.chFlush c = z) : exec (.chFlush r c) s = .next z := hctrl (v := 0x20) hp rfl (hflush.trans hz)
      refine ⟨fun h => ⟨_, heq (if_pos h), fun j => Bank.at_map _ _ _⟩, fun h1 h2 => heq (if_neg fun h => h.elim h1 h2)⟩
  case wake =>
    intro a x y
    refine ⟨fun hb hf => congrArg Host.Outcome.next ((if_pos ⟨hb, by rw [hf]; rfl⟩).trans ?_), fun h => congrArg Host.Outcome.next (if_neg fun hn => ?_)⟩
    · by_cases hres : x.res = true
      · refine (if_pos hres).trans (congrArg (fun y => ({ a with chans := a.chans.upd c y } : State)) ?_)
        exact (if_pos hres).symm
      · refine (if_neg hres).trans (congrArg (fun y => ({ a with chans := a.chans.upd c y } : State)) ?_)
        exact (if_neg hres).symm
    · rcases h with h | h
      · exact h hn.1
      · have hf := hn.2
        rw [h] at hf
        exact Bool.false_ne_true hf

end Sys2Proof.Machine

namespace Sys2Proof.Machine

/-! R346 to R348: descriptor words. -/

/-- R57: what is left of the table for a write of a descriptor word that meets no rule of security or lifecycle. -/
theorem State.refusal_descriptor {s : State} {r : Req} {c : Fin 256} {w : Fin 128} {v : Nat} (hup : s.up = true) (hr : r.sec = true)
    (hst : s.vault.state ≠ 0xF) : s.refusal r true (descAddr c + 4 * w.val) 4 v = if s.descFree c w.val then none else some .disabled := by
  have hc := c.isLt
  have hw := w.isLt
  have hd : descAddr c = 0x1400000 + 0x200 * c.val := rfl
  generalize ha : descAddr c + 4 * w.val = a
  have h1 : 0x1400000 ≤ a := by omega
  have h2 : a < 0x1420000 := by omega
  have hmemOf : memOf a = some 2 := by
    unfold memOf
    grind
  have hmem : memWindow a = true := congrArg Option.isSome hmemOf
  have hcw : cwWindow a = false := decide_eq_false (by omega)
  have hbad : badWidth r a 4 = false := by
    unfold badWidth
    simp [hmem, hcw]
  have hcs : csOffset a = false := by
    unfold csOffset within
    grind
  have hown : within a 0x400C0 0x400F0 = false := decide_eq_false (by omega)
  have hlc : s.lcLocked r true a = false := by
    have hl : decide (s.vault.state = 0xF) = false := decide_eq_false hst
    unfold State.lcLocked
    simp only [hl, hcs, hown, hmemOf]
    simp
  have hin : within a 0x1400000 0x1420000 = true := decide_eq_true ⟨h1, h2⟩
  have hdis : s.memDisabled r true a 4 = !s.descFree c w.val := by
    unfold State.memDisabled
    have hsub : a - 0x1400000 = 0x200 * c.val + 4 * w.val := Nat.sub_eq_of_eq_add (by omega)
    have hlast : a + 4 - 1 - 0x1400000 = 0x200 * c.val + 4 * w.val + 3 := Nat.sub_eq_of_eq_add (by omega)
    have hch : (a - 0x1400000) / 0x200 = c.val := by rw [hsub]; omega
    have hlo : (a - 0x1400000) % 0x200 / 4 = w.val := by rw [hsub]; omega
    have hhi : (a + 4 - 1 - 0x1400000) % 0x200 / 4 = w.val := by rw [hlast]; omega
    have hfin : Fin.ofNat 256 c.val = c := Fin.ext (Nat.mod_eq_of_lt hc)
    simp only [hmemOf, hin, hch, hlo, hhi, hfin]
    simp
  unfold State.refusal
  simp only [hmem, hbad, hlc, hdis, hup, hr, hmemOf]
  have h4 : a % 4 = 0 := by omega
  cases s.descFree c w.val <;> simp [h4]

theorem State.descFree_eq_false (s : State) (c : Fin 256) (w : Nat) : s.descFree c w = false ↔
    w = 12 ∨ w = 13 ∨ 64 ≤ w ∨ (w < 32 ∧ (s.chans.at c).st ≠ .off ∧ (s.chans.at c).st ≠ .stopped ∧ (s.chans.at c).st ≠ .fault) := by
  unfold State.descFree
  split
  · simp only [true_iff]
    tauto
  · split
    · simp only [Bool.true_eq_false, false_iff]
      omega
    · simp only [decide_eq_false_iff_not, not_or]
      constructor
      · intro h
        exact .inr (.inr (.inr ⟨by omega, h⟩))
      · rintro (h | h | h | h)
        · omega
        · omega
        · omega
        · exact h.2

theorem State.busWrite_descriptor_refused {s : State} {r : Req} {a : Nat} {v : W32} {k : Cause} (h1 : 0x1400000 ≤ a)
    (h : s.refusal r true a 4 v.toNat = some k) (hk : k ≠ .guard) : (s.busWrite r a 4 v.toNat).2 = s := by
  have hcs : csOffset a = false := by
    unfold csOffset within
    grind
  rw [State.busWrite_refused h]
  refine (if_neg hk).trans (if_neg fun hn => ?_)
  rw [hcs] at hn
  exact Bool.false_ne_true hn.2.2

/-! R363, R364: posts. -/

section post
variable {s : State} {c : Fin 256} {m : Fin 4}

/-- R351: what an entry into FAULT leaves of a channel. -/
theorem State.faultChan_spec (s : State) (c : Fin 256) (k : FCause) : ∃ y q, s.faultChan c k = { s with chans := s.chans.upd c y, seqs := q } ∧
    y.mbs = (s.chans.at c).mbs ∧ y.breach = (s.chans.at c).breach := by
  have hsame : ∃ y q, s = { s with chans := s.chans.upd c y, seqs := q } ∧ y.mbs = (s.chans.at c).mbs ∧ y.breach = (s.chans.at c).breach :=
    ⟨s.chans.at c, s.seqs, by rw [Bank.upd_at], rfl, rfl⟩
  have hfault : ∃ y q, (if (s.chans.at c).res then
      ({ s with chans := s.chans.upd c { s.chans.at c with st := .fault, faultF := true, fcause := k } } : State).reqSwitch (s.chans.at c).sq
      else { s with chans := s.chans.upd c { s.chans.at c with st := .fault, faultF := true, fcause := k } }) =
      { s with chans := s.chans.upd c y, seqs := q } ∧ y.mbs = (s.chans.at c).mbs ∧ y.breach = (s.chans.at c).breach := by
    split
    · exact ⟨_, _, rfl, rfl, rfl⟩
    · exact ⟨_, _, rfl, rfl, rfl⟩
  unfold State.faultChan
  dsimp only
  split
  · exact hfault
  · exact hfault
  · exact hfault
  · exact hfault
  · exact ⟨_, _, rfl, rfl, rfl⟩
  · exact hsame

/-- R364: the mailbox with the result of a post. -/
theorem State.mbResult_eq (k : PostRes) : s.mbResult c m k = { s with chans := s.chans.upd c { s.chans.at c with
    mbs := (s.chans.at c).mbs.upd m { (s.chans.at c).mbs.at m with
      res := k, refused := ((s.chans.at c).mbs.at m).refused || decide (k ≠ .accepted) } } } := rfl

theorem State.mbAccept_eq (e : MbEntry) : s.mbAccept c m e = { s with chans := s.chans.upd c { s.chans.at c with
    mbs := (s.chans.at c).mbs.upd m { (s.chans.at c).mbs.at m with q := ((s.chans.at c).mbs.at m).q ++ [e], res := .accepted }
    mbClean := false } } := by
  unfold State.mbAccept State.modMb
  rw [State.mbResult_eq]
  simp [State.modChan, Bank.mod]

/-- R363: the post by `w` that leaves `z` with result `k`. -/
def State.posted (s z : State) (w : Master) (c : Fin 256) (m : Fin 4) (k : PostRes) : State :=
  { z with posts := z.posts.upd w.slot { z.posts.at w.slot with v := true, ch := c, mb := m, res := k } }

theorem State.post_plain {w : Master} (h : (s.chans.at c).stmp m = false) {z : State} {k : PostRes}
    (hp : s.postPlain c m (s.posts.at w.slot).data = (z, k)) : s.post w c m = s.posted z w c m k := by
  unfold State.post
  rw [h]
  simp only [Bool.false_eq_true, if_false]
  rw [hp] <;> rfl

theorem State.post_stamped {w : Master} (h : (s.chans.at c).stmp m = true) {z : State} {k : PostRes}
    (hp : s.postStamped c m (s.posts.at w.slot).data (s.posts.at w.slot).time = (z, k)) : s.post w c m = s.posted z w c m k := by
  unfold State.post
  rw [h]
  simp only [if_true]
  rw [hp] <;> rfl

theorem State.regWrite_post (s : State) (q : Req) (c : Fin 256) (m : Fin 4) :
    s.regWrite q 0x1C4010 (BitVec.ofNat 32 (0x100 * c.val + m.val)) = s.post q.who c m := by
  have hfields : ∀ (c : Fin 256) (m : Fin 4), Fin.ofNat 256 (fldN (BitVec.ofNat 32 (0x100 * c.val + m.val)) 8 8) = c ∧
      Fin.ofNat 4 (fldN (BitVec.ofNat 32 (0x100 * c.val + m.val)) 0 2) = m := by
    decide +kernel
  obtain ⟨hc, hm⟩ := hfields c m
  refine (s.regWrite_ch q (o := 0x4010) (by decide) (by decide) _).trans ((if_neg (by decide)).trans ?_)
  exact congrArg₂ (s.post q.who) hc hm

theorem Channel.breached_mbs (x : Channel) (k : BreachCond) (now : W64) : (x.breached k now).mbs = x.mbs := by
  unfold Channel.breached
  split
  · rfl
  · split_ifs <;> rfl

theorem Channel.breached_overflow (x : Channel) (now : W64) : (x.breached .overflow now).breach =
    match x.breach with
    | none => some .overflow
    | some b => if x.breachAt = now ∧ 2 < b.num then some .overflow else some b := by
  unfold Channel.breached
  cases h : x.breach with
  | none => rfl
  | some b =>
    by_cases hb : x.breachAt = now ∧ 2 < b.num
    · exact (congrArg Channel.breach (if_pos hb)).trans (if_pos hb).symm
    · exact (congrArg Channel.breach (if_neg hb)).trans (h.trans (if_neg hb).symm)

/-- R133, R364: the overflow of a stamped mailbox is a breach. -/
theorem State.breach_overflow (h : (s.chans.at c).st ≠ .off) : ∃ y q, (s.mbResult c m .full).breach c .overflow =
      { s with chans := s.chans.upd c y, seqs := q } ∧
    y.mbs = (s.chans.at c).mbs.upd m { (s.chans.at c).mbs.at m with res := .full, refused := true } ∧
    y.breach = match (s.chans.at c).breach with
      | none => some .overflow
      | some b => if (s.chans.at c).breachAt = s.now ∧ 2 < b.num then some .overflow else some b := by
  let x : Channel := { s.chans.at c with
    mbs := (s.chans.at c).mbs.upd m { (s.chans.at c).mbs.at m with res := .full, refused := true } }
  have hz : s.mbResult c m .full = { s with chans := s.chans.upd c x } := by
    rw [State.mbResult_eq, show decide (PostRes.full ≠ .accepted) = true by decide, Bool.or_true]
  have hat : (({ s with chans := s.chans.upd c x } : State).chans.at c) = x := Bank.at_upd_self _ _ _
  have hbreach : (s.mbResult c m .full).breach c .overflow =
      ({ s with chans := s.chans.upd c (x.breached .overflow s.now) } : State).faultChan c .breach := by
    rw [hz]
    unfold State.breach
    rw [hat]
    refine (if_neg h).trans (congrArg (fun b => State.faultChan ({ s with chans := b } : State) c .breach) (Bank.upd_upd _ _ _ _))
  obtain ⟨y, q, hy, hmbs, hbr⟩ := State.faultChan_spec { s with chans := s.chans.upd c (x.breached .overflow s.now) } c .breach
  have hat' : (({ s with chans := s.chans.upd c (x.breached .overflow s.now) } : State).chans.at c) = x.breached .overflow s.now :=
    Bank.at_upd_self _ _ _
  rw [hat'] at hmbs hbr
  refine ⟨y, q, hbreach.trans (hy.trans (congrArg (fun b => ({ s with chans := b, seqs := q } : State)) (Bank.upd_upd _ _ _ _))), hmbs.trans ?_,
    hbr.trans ?_⟩
  · exact (x.breached_mbs _ _).trans rfl
  · exact (x.breached_overflow s.now).trans rfl

end post

/-- Settles O49. -/
theorem mailboxes : Obligations.Mailboxes := by
  unfold Obligations.Mailboxes
  refine ⟨fun s r c w v => ?word, fun s r c m hp => ?post, fun s t c m => ?due⟩
  case word =>
    intro a x
    have h1 : 0x1400000 ≤ a := Nat.le_trans (Nat.le_add_right _ _) (Nat.le_add_right _ _)
    refine ⟨fun h => ?_, fun k h hk => congrArg Host.Outcome.next (State.busWrite_descriptor_refused h1 h hk), fun hup hr hst => ?_⟩
    · have hc := c.isLt
      have hw := w.isLt
      have hm : memWindow a = true := by
        have h2 : a < 0x1420000 := by omega
        unfold memWindow memOf
        grind
      exact congrArg (fun p : Option Cause × State => Host.Outcome.next p.2) (State.busWrite_mem h hm)
    · rw [show s.refusal r true a 4 v.toNat = _ from State.refusal_descriptor hup hr hst, ← State.descFree_eq_false s c w.val]
      cases s.descFree c w.val <;> simp
  case post =>
    intro x b p d put entry
    have hbus : (s.busWrite r 0x1C4010 4 (0x100 * c.val + m.val)).2 = s.post r.who c m := by
      refine (congrArg Prod.snd (State.busWrite_reg hp rfl)).trans ?_
      rw [hwWins_of_w1Bits_zero (by decide)]
      exact s.regWrite_post r c m
    have hplain (hs : x.stmp m = false) : exec (.plainPost r c m) s = .next (s.post r.who c m) := by
      refine congrArg Host.Outcome.next ((if_pos ?_).trans hbus)
      exact congrArg (!·) hs
    have hstamped (hs : x.stmp m = true) : exec (.stampedPost r c m) s = .next (s.post r.who c m) :=
      congrArg Host.Outcome.next ((if_pos hs).trans hbus)
    have hput {y : Mailbox} {k : PostRes} {x' : Channel} (hx : x' = { x with mbs := x.mbs.upd m y, mbClean := x.mbClean && decide (k ≠ .accepted) }) :
        put y k false (s.posted { s with chans := s.chans.upd c x' } r.who c m k) := by
      subst hx
      exact ⟨_, rfl, congrArg Channel.mbs (Bank.at_upd_self _ _ _), fun e he => Bank.at_upd_ne _ _ he,
        fun _ => ⟨Bank.at_upd_self _ _ _, rfl⟩, fun h => nomatch h⟩
    have haccept (e : MbEntry) : put { b with q := b.q ++ [e], res := .accepted } .accepted false (s.posted (s.mbAccept c m e) r.who c m .accepted) := by
      rw [State.mbAccept_eq]
      refine hput ?_
      rw [show decide (PostRes.accepted ≠ .accepted) = false by decide, Bool.and_false]
    have hrefuse {k : PostRes} (hk : k ≠ .accepted) : put { b with res := k, refused := true } k false (s.posted (s.mbResult c m k) r.who c m k) := by
      rw [State.mbResult_eq]
      refine hput ?_
      rw [decide_eq_true hk, Bool.or_true, Bool.and_true]
    refine ⟨fun hs hq => ?_, fun hs hq => ?_, fun hs hh => ?_, fun hs hh hl => ?_, fun hs hh hl => ⟨fun hq => ?_, fun hq => ?_⟩⟩
    · exact ⟨_, (hplain hs).trans (congrArg Host.Outcome.next (State.post_plain hs (if_neg (Nat.not_le.2 hq)))), haccept _⟩
    · exact ⟨_, (hplain hs).trans (congrArg Host.Outcome.next (State.post_plain hs (if_pos hq))), hrefuse (by decide)⟩
    · have hres : s.postStamped c m p.data p.time = (s.mbResult c m .horizon, .horizon) := if_pos (congrArg (!·) hh)
      exact ⟨_, (hstamped hs).trans (congrArg Host.Outcome.next (State.post_stamped hs hres)), hrefuse (by decide)⟩
    all_goals have hin : ¬ (!d.inHorizon p.time s.beryl.g) = true := by rw [hh]; decide
    · have hres : s.postStamped c m p.data p.time = (s.mbResult c m .late, .late) := (if_neg hin).trans (if_pos hl)
      exact ⟨_, (hstamped hs).trans (congrArg Host.Outcome.next (State.post_stamped hs hres)), hrefuse (by decide)⟩
    all_goals have hdue : ¬ d.dueAt (p.time.setWidth 40) s.beryl.g = true := Bool.eq_false_iff.1 hl
    · have hres : s.postStamped c m p.data p.time = (s.mbAccept c m (entry p.time false), .accepted) :=
        (if_neg hin).trans ((if_neg hdue).trans (if_neg (Nat.not_le.2 hq)))
      exact ⟨_, (hstamped hs).trans (congrArg Host.Outcome.next (State.post_stamped hs hres)), haccept _⟩
    · have hres : s.postStamped c m p.data p.time =
          (if x.det then (s.mbResult c m .full).breach c .overflow else s.mbResult c m .full, .full) :=
        (if_neg hin).trans ((if_neg hdue).trans (if_pos hq))
      refine ⟨_, (hstamped hs).trans (congrArg Host.Outcome.next (State.post_stamped hs hres)), ?_⟩
      by_cases hb : (x.det && decide (x.st ≠ .off)) = true
      · rw [hb]
        rw [Bool.and_eq_true, decide_eq_true_eq] at hb
        rw [if_pos hb.1]
        obtain ⟨y, q, hz, hmbs, hbr⟩ := State.breach_overflow (m := m) hb.2
        rw [hz]
        refine ⟨_, rfl, (congrArg Channel.mbs (Bank.at_upd_self _ _ _)).trans hmbs, fun e he => Bank.at_upd_ne _ _ he, ?_, fun _ => ?_⟩
        · exact fun h => absurd h (by decide)
        · exact (congrArg Channel.breach (Bank.at_upd_self _ _ _)).trans hbr
      · have hsame : (if x.det then (s.mbResult c m .full).breach c .overflow else s.mbResult c m .full) = s.mbResult c m .full := by
          by_cases hdet : x.det = true
          · have hoff : x.st = .off := by simpa [hdet] using hb
            refine (if_pos hdet).trans (if_pos ?_)
            exact (congrArg Channel.st (Bank.at_upd_self _ _ _)).trans hoff
          · exact if_neg hdet
        rw [Bool.eq_false_iff.2 hb, hsame]
        exact hrefuse (by decide)
  case due =>
    intro a x b
    exact ⟨_, rfl, rfl⟩


end Sys2Proof.Machine

namespace Sys2Proof.Machine

/-! R262, R354, R459: a write of SQn_CFG. -/

section config
variable {s : State} {n : Fin 16} {v : W32} {x : Seq}

/-- The machine with sequencer `n` as `x`. -/
def State.setSeq (s : State) (n : Fin 16) (x : Seq) : State := { s with seqs := s.seqs.upd n x }

theorem State.setSeq_at : (s.setSeq n x).seqs.at n = x := Bank.at_upd_self _ _ _

theorem State.setSeq_modSeq (f : Seq → Seq) : (s.setSeq n x).modSeq n f = s.setSeq n (f x) := by
  refine congrArg (fun b => ({ s with seqs := b } : State)) ((Bank.upd_upd _ _ _ _).trans (congrArg (s.seqs.upd n) ?_))
  exact congrArg f State.setSeq_at

/-- R454, R460: only OFF and NAP bear on the interrupt targets. -/
theorem State.seqRests_awake (h1 : (s.seqs.at n).st ≠ .off) (h2 : (s.seqs.at n).st ≠ .nap) : s.seqRests n = s := by
  unfold State.seqRests
  split
  · next h => exact absurd h h1
  · next h => exact absurd h h2
  · rfl

theorem State.seqRests_resting (h : (s.seqs.at n).st = .off ∨ (s.seqs.at n).st = .nap) : s.seqRests n = s.eicSettle := by
  unfold State.seqRests
  rcases h with h | h <;> rw [h]

theorem State.seqCfg_awake (h : s.seqConfig n v = s.setSeq n x) (h1 : x.st ≠ .off) (h2 : x.st ≠ .nap) : s.seqCfg n v = s.setSeq n x := by
  unfold State.seqCfg
  rw [h]
  exact State.seqRests_awake (by rwa [State.setSeq_at]) (by rwa [State.setSeq_at])

theorem State.seqCfg_resting (h : s.seqConfig n v = s.setSeq n x) (h1 : x.st = .off ∨ x.st = .nap) :
    s.seqCfg n v = (s.setSeq n x).eicSettle := by
  unfold State.seqCfg
  rw [h]
  exact State.seqRests_resting (by rwa [State.setSeq_at])

/-- R578: without a catch of the enable, the write is that of the sequencer alone. -/
theorem State.seqEnableW_plain (h : (s.seqs.at n).st ≠ .off ∨ (s.seqs.at n).en = true) : s.seqEnableW n v = s.seqCfg n v := by
  refine if_neg fun hn => h.elim (fun k => k hn.1) fun k => ?_
  have he := hn.2.1
  rw [k] at he
  exact Bool.false_ne_true he

theorem bit_cfg (v : W32) : bit (v &&& 0x00FF0003) 0 = bit v 0 ∧ bit (v &&& 0x00FF0003) 1 = bit v 1 := by
  constructor <;> simp [bit]

theorem SeqSt.eq_of_ne {k : SeqSt} (h1 : k ≠ .off) (h2 : k ≠ .draining) (h3 : k ≠ .pool) :
    k = .idle ∨ k = .nap ∨ k = .run ∨ k = .switch ∨ k = .halt := by
  cases k <;> simp_all

theorem State.seqConfig_enabled (he : (s.seqs.at n).en = false) (hv : bit v 0 = true) : 
    let q := s.seqs.at n
    let c := v &&& 0x00FF0003
    (q.st = .off → s.seqConfig n v = s.setSeq n { q with cfg := c, st := .idle, idleSince := s.now, swReq := false }) ∧
    (q.st = .draining ∨ q.st = .halt ∧ q.before = .draining → s.seqConfig n v = s.setSeq n { q with cfg := c, swReq := q.swReq || bit v 1 }) ∧
    (q.st = .pool ∨ q.st = .halt ∧ q.before = .pool →
      s.seqConfig n v = s.setSeq n { q with cfg := c, swReq := q.swReq || (q.drainRec && bit v 1) }) ∧
    (q.st = .halt → q.before = .off → s.seqConfig n v = s.setSeq n { q with cfg := c, before := .idle, idleSince := s.now, swReq := false }) ∧
    (q.st = .nap ∨ q.st = .idle ∨ q.st = .run ∨ q.st = .switch ∨ q.st = .halt ∧ q.before ≠ .off ∧ q.before ≠ .draining ∧ q.before ≠ .pool →
      s.seqConfig n v = s.setSeq n { q with cfg := c }) := by
  intro q c
  have hw : bit c 0 = true := (bit_cfg v).1.trans hv
  have hab : bit c 1 = bit v 1 := (bit_cfg v).2
  have hmod (f : Seq → Seq) : (s.modSeq n fun q => { q with cfg := c }).modSeq n f = s.setSeq n (f { q with cfg := c }) :=
    State.setSeq_modSeq (s := s) f
  rw [← hab]
  refine ⟨fun h => ?_, fun h => ?_, fun h => ?_, fun h hb => ?_, fun h => ?_⟩
  · unfold State.seqConfig
    simp only [show (s.seqs.at n).st = _ from h, show bit (v &&& 0x00FF0003) 0 = _ from hw]
    exact hmod _
  · unfold State.seqConfig
    rcases h with h | ⟨h, hb⟩
    · simp only [show (s.seqs.at n).st = _ from h]
      exact hmod _
    · simp only [show (s.seqs.at n).st = _ from h, show (s.seqs.at n).before = _ from hb]
      exact hmod _
  · unfold State.seqConfig
    rcases h with h | ⟨h, hb⟩
    · simp only [show (s.seqs.at n).st = _ from h, he]
      exact hmod _
    · simp only [show (s.seqs.at n).st = _ from h, show (s.seqs.at n).before = _ from hb, he]
      exact hmod _
  · unfold State.seqConfig
    simp only [show (s.seqs.at n).st = _ from h, show (s.seqs.at n).before = _ from hb, he, show bit (v &&& 0x00FF0003) 0 = _ from hw]
    exact hmod _
  · unfold State.seqConfig
    rcases h with h | h | h | h | ⟨h, h1, h2, h3⟩
    · simp only [show (s.seqs.at n).st = _ from h, he, show bit (v &&& 0x00FF0003) 0 = _ from hw]
      rfl
    · simp only [show (s.seqs.at n).st = _ from h, he, show bit (v &&& 0x00FF0003) 0 = _ from hw]
      rfl
    · simp only [show (s.seqs.at n).st = _ from h, he, show bit (v &&& 0x00FF0003) 0 = _ from hw]
      rfl
    · simp only [show (s.seqs.at n).st = _ from h, he, show bit (v &&& 0x00FF0003) 0 = _ from hw]
      rfl
    · rcases SeqSt.eq_of_ne h1 h2 h3 with hb | hb | hb | hb | hb
      all_goals
        simp only [show (s.seqs.at n).st = _ from h, show (s.seqs.at n).before = _ from hb, he, show bit (v &&& 0x00FF0003) 0 = _ from hw]
        rfl

theorem State.seqConfig_disabled (he : (s.seqs.at n).en = true) (hv : bit v 0 = false) :
    let q := s.seqs.at n
    let c := v &&& 0x00FF0003
    let blocked : Bool := decide ((s.chans.at q.cx).st = .blocked)
    (q.st = .idle ∨ q.st = .nap ∨ q.st = .switch → s.seqConfig n v = s.setSeq n { q with cfg := c, st := .off, cxv := false, swReq := false }) ∧
    (q.st = .run → s.seqConfig n v = s.setSeq n { q with cfg := c, st := .draining, swReq := q.swReq || (bit v 1 || blocked) }) ∧
    (q.st = .off ∨ q.st = .halt ∧ (q.before = .off ∨ q.before = .halt) → s.seqConfig n v = s.setSeq n { q with cfg := c }) ∧
    (q.st = .pool ∨ q.st = .halt ∧ q.before = .pool →
      s.seqConfig n v = s.setSeq n { q with cfg := c, drainRec := true, swReq := q.swReq || bit v 1 }) ∧
    (q.st = .draining ∨ q.st = .halt ∧ q.before = .draining →
      s.seqConfig n v = s.setSeq n { q with cfg := c, swReq := q.swReq || bit v 1 }) ∧
    (q.st = .halt ∧ q.before = .run →
      s.seqConfig n v = s.setSeq n { q with cfg := c, before := .draining, swReq := q.swReq || (bit v 1 || blocked) }) ∧
    (q.st = .halt ∧ (q.before = .idle ∨ q.before = .nap ∨ q.before = .switch) →
      s.seqConfig n v = s.setSeq n { q with cfg := c, before := .off, cxv := false }) := by
  intro q c blocked
  have hw : bit c 0 = false := (bit_cfg v).1.trans hv
  have hab : bit c 1 = bit v 1 := (bit_cfg v).2
  have hmod (f : Seq → Seq) : (s.modSeq n fun q => { q with cfg := c }).modSeq n f = s.setSeq n (f { q with cfg := c }) :=
    State.setSeq_modSeq (s := s) f
  rw [← hab]
  refine ⟨fun h => ?_, fun h => ?_, fun h => ?_, fun h => ?_, fun h => ?_, fun ⟨h, hb⟩ => ?_, fun ⟨h, hb⟩ => ?_⟩
  all_goals unfold State.seqConfig
  · rcases h with h | h | h
    all_goals
      simp only [show (s.seqs.at n).st = _ from h, show bit (v &&& 0x00FF0003) 0 = _ from hw]
      exact hmod _
  · simp only [show (s.seqs.at n).st = _ from h, he, show bit (v &&& 0x00FF0003) 0 = _ from hw]
    exact hmod _
  · rcases h with h | ⟨h, hb | hb⟩
    · simp only [show (s.seqs.at n).st = _ from h, he, show bit (v &&& 0x00FF0003) 0 = _ from hw]
      rfl
    all_goals
      simp only [show (s.seqs.at n).st = _ from h, show (s.seqs.at n).before = _ from hb, he, show bit (v &&& 0x00FF0003) 0 = _ from hw]
      rfl
  · rcases h with h | ⟨h, hb⟩
    · simp only [show (s.seqs.at n).st = _ from h, he, show bit (v &&& 0x00FF0003) 0 = _ from hw]
      exact hmod _
    · simp only [show (s.seqs.at n).st = _ from h, show (s.seqs.at n).before = _ from hb, he, show bit (v &&& 0x00FF0003) 0 = _ from hw]
      exact hmod _
  · rcases h with h | ⟨h, hb⟩
    · simp only [show (s.seqs.at n).st = _ from h]
      exact hmod _
    · simp only [show (s.seqs.at n).st = _ from h, show (s.seqs.at n).before = _ from hb]
      exact hmod _
  · simp only [show (s.seqs.at n).st = _ from h, show (s.seqs.at n).before = _ from hb, he, show bit (v &&& 0x00FF0003) 0 = _ from hw]
    exact hmod _
  · rcases hb with hb | hb | hb
    all_goals
      simp only [show (s.seqs.at n).st = _ from h, show (s.seqs.at n).before = _ from hb, show bit (v &&& 0x00FF0003) 0 = _ from hw]
      exact hmod _

end config

theorem sq_address (n : Fin 16) : memWindow (0x180000 + 0x1000 * n.val) = false ∧ w1Bits (0x180000 + 0x1000 * n.val) = 0 := by
  revert n
  decide +kernel

theorem State.regWrite_sq (s : State) (q : Req) {a o : Nat} (h : a / 0x10000 = 0x18 ∨ a / 0x10000 = 0x19) (ho : a - 0x180000 = o) (v : W32) :
    s.regWrite q a v = s.wrSq o v := by
  unfold State.regWrite
  rcases h with h | h <;> rw [h, ho] <;> rfl

theorem State.wrSq_cfg (s : State) {o : Nat} {n : Fin 16} (ho : o = 0x1000 * n.val) (v : W32) : s.wrSq o v = s.seqEnableW n v := by
  have hn := n.isLt
  subst ho
  refine (if_pos (by omega)).trans ?_
  rw [show 0x1000 * n.val % 0x1000 = 0 by omega]
  exact congrArg (s.seqEnableW · v) (Fin.ext ((Nat.mod_eq_of_lt (by omega)).trans (by omega)))

theorem State.busWrite_sqCfg {s : State} {r : Req} {n : Fin 16} {v : W32} (h : s.refusal r true (0x180000 + 0x1000 * n.val) 4 v.toNat = none) :
    (s.busWrite r (0x180000 + 0x1000 * n.val) 4 v.toNat).2 = s.seqEnableW n v := by
  have hn := n.isLt
  obtain ⟨hm, hw⟩ := sq_address n
  exact (State.busWrite_plain h hm hw).trans
    ((s.regWrite_sq r (o := 0x1000 * n.val) (.inl (by omega)) (by omega) v).trans (s.wrSq_cfg rfl v))

/-! R247: the pool. -/

theorem putB31_put (i : Fin 512) : putB 31 true ||| put 0 i.val = BitVec.ofNat 32 (2 ^ 31 + i.val) := by
  revert i
  decide +kernel

/-- R247: a pop takes the head of the free list. -/
theorem Pool.pop_some {p : Pool} {i : Fin 512} (h : p.head = some i) : p.pop = (putB 31 true ||| put 0 i.val,
    { p with
      head := (p.nodes.at i).next, nodes := p.nodes.upd i .unowned
      low := p.low || decide ((p.nodes.upd i .unowned).toList.countP (fun x => decide (x.kind = .free)) < fldN p.cfg 0 10) }) := by
  unfold Pool.pop Pool.take
  rw [h]
  rfl

/-! R250: the retry in POOL. -/

section retry
variable {s : State} {n : Fin 16}

/-- R250, R350, R354: the machine as the retry of sequencer `n` leaves POOL. -/
def State.poolLeft (s : State) (n : Fin 16) : State :=
  let q := s.seqs.at n
  let x := s.chans.at q.cx
  let q0 : Seq := { q with st := if q.drainRec then .draining else .run, poolWork := none, drainRec := false }
  if (x.st = .waitPool && x.faultRec.isSome) then
    { s with seqs := s.seqs.upd n { q0 with stopI := false }, chans := s.chans.upd q.cx { x with st := .run, stopRec := none } }
  else match (if x.st = .waitPool then x.stopRec else none) with
    | some ab => { s with
      seqs := s.seqs.upd n { q0 with swReq := q.swReq || ab }
      chans := s.chans.upd q.cx { x with st := .draining, abort := ab, stopRec := none } }
    | none => { s with
      seqs := s.seqs.upd n q0
      chans := if x.st = .waitPool then s.chans.upd q.cx { x with st := x.back } else s.chans }

theorem State.leavePool_eq : s.leavePool n = s.poolLeft n := by
  unfold State.leavePool State.poolLeft
  by_cases hw : (s.chans.at (s.seqs.at n).cx).st = .waitPool
  · cases hf : (s.chans.at (s.seqs.at n).cx).faultRec with
    | some f => simp [hw, hf, State.modSeq, State.modChan, Bank.mod]
    | none =>
      cases hr : (s.chans.at (s.seqs.at n).cx).stopRec with
      | none => simp [hw, hf, hr, State.modSeq, State.modChan, Bank.mod]
      | some ab => simp [hw, hf, hr, State.modSeq, State.modChan, Bank.mod]
  · simp [hw, State.modSeq, Bank.mod]

/-- R250: the work of a retry. -/
def State.poolWork (s : State) (n : Fin 16) (w : Option PoolWork) : State :=
  match w with
  | some (.instr w) => s.runWord n w
  | some (.trapEntry t) => s.trapWindow n t
  | some (.switchOut k) => (s.saveFrom n k).settle n
  | none => s

/-- R351: a fault that was recorded in WAIT_POOL follows the retry that left POOL. -/
def State.poolFaulted (y : State) (n : Fin 16) (c : Fin 256) : State :=
  if (y.chans.at c).faultRec.isSome = true ∧ (y.seqs.at n).st ≠ .pool then
    ({ y with chans := y.chans.upd c { y.chans.at c with faultRec := none } } : State).faultChan c (((y.chans.at c).faultRec).getD .breach)
  else y

theorem State.poolRetry_of (hst : (s.seqs.at n).st = .pool) (hp : s.pool.head.isSome = true) :
    s.poolRetry n = ((s.leavePool n).poolWork n (s.seqs.at n).poolWork).poolFaulted n (s.seqs.at n).cx := by
  unfold State.poolRetry
  refine (if_pos ⟨hst, hp⟩).trans ?_
  let y := (s.leavePool n).poolWork n (s.seqs.at n).poolWork
  let c := (s.seqs.at n).cx
  change (match (y.chans.at c).faultRec with
    | some f => if (y.seqs.at n).st = .pool then y else (y.modChan c fun x => { x with faultRec := none }).faultChan c f
    | none => y) = y.poolFaulted n c
  clear_value y c
  unfold State.poolFaulted
  cases (y.chans.at c).faultRec with
  | none => rfl
  | some f =>
    by_cases hy : (y.seqs.at n).st = .pool
    · exact (if_pos hy).trans (if_neg fun h => h.2 hy).symm
    · exact (if_neg hy).trans (if_pos ⟨rfl, hy⟩).symm

theorem Channel.res_upd {b : Bank Channel 256} {c : Fin 256} {x : Channel} {r : Bool} (h : x.res = r) : ((b.upd c x).at c).res = r :=
  (congrArg Channel.res (Bank.at_upd_self b c x)).trans h

theorem State.faultChan_res (c : Fin 256) (k : FCause) : ((s.faultChan c k).chans.at c).res = (s.chans.at c).res := by
  have hfault : ((if (s.chans.at c).res then
      ({ s with chans := s.chans.upd c { s.chans.at c with st := .fault, faultF := true, fcause := k } } : State).reqSwitch (s.chans.at c).sq
      else { s with chans := s.chans.upd c { s.chans.at c with st := .fault, faultF := true, fcause := k } }).chans.at c).res =
      (s.chans.at c).res := by
    split <;> exact Channel.res_upd rfl
  unfold State.faultChan
  dsimp only
  split
  · exact hfault
  · exact hfault
  · exact hfault
  · exact hfault
  · exact Channel.res_upd rfl
  · rfl

theorem State.poolFaulted_res (y : State) (c : Fin 256) : ((y.poolFaulted n c).chans.at c).res = (y.chans.at c).res := by
  unfold State.poolFaulted
  split
  · exact (State.faultChan_res c _).trans (Channel.res_upd rfl)
  · rfl

/-- R250, R590: the retry with its packets. -/
theorem State.poolRetryT_spec {z : State} (h : s.poolRetry n = z) :
    ((s.chans.at (s.seqs.at n).cx).res = false ∨ (z.chans.at (s.seqs.at n).cx).res = true → s.poolRetryT n = z) ∧
    ∃ d, s.poolRetryT n = { z with dbg := d } := by
  subst h
  unfold State.poolRetryT
  refine ⟨fun h => if_neg fun hn => ?_, ?_⟩
  · rcases h with h | h
    · exact Bool.false_ne_true (h.symm.trans hn.1)
    · rw [h] at hn
      exact Bool.false_ne_true hn.2
  · dsimp only
    split
    · exact ⟨_, ((s.poolRetry n).switchLeft_changes n _).frame⟩
    · exact ⟨_, rfl⟩

end retry

/-! R260: a trap entry that spills a window first. -/

section entry
variable {s y z : State} {n : Fin 16}

/-- R242, R249: the frame of window `w` in slot `j` of node `i`, with the anchor that names it. -/
def State.framePut (s : State) (n : Fin 16) (w : Fin 8) (q : Seq) (a : Anchor) (i : Fin 512) (j k : Nat) : State :=
  (((s.ctxWrite n (nodeAddr i + 64 * j) (q.frame w)).setAnchor n q.cx { a with spcnt := a.spcnt + 1, spill := i }).modSeq n fun q =>
    { q with wv := wvSet q.wv w false }).uw n k

theorem State.framePut_seq (s : State) (n : Fin 16) (w : Fin 8) (q : Seq) (a : Anchor) (i : Fin 512) (j k : Nat) :
    ∃ wv u r, (s.framePut n w q a i j k).seqs.at n = { s.seqs.at n with wv := wv, uwcnt := u, resv := r } := by
  let s1 := s.ctxWrite n (nodeAddr i + 64 * j) (q.frame w)
  let s2 := s1.setAnchor n q.cx { a with spcnt := a.spcnt + 1, spill := i }
  obtain ⟨r1, h1⟩ := s.ctxWrite_seq n (nodeAddr i + 64 * j) (q.frame w) n
  obtain ⟨r2, h2⟩ := s1.ctxWrite_seq n (descAddr q.cx + 48) (Anchor.words { a with spcnt := a.spcnt + 1, spill := i }) n
  have hat : s2.seqs.at n = { s.seqs.at n with resv := r2 } := h2.trans (congrArg (fun q : Seq => { q with resv := r2 }) h1)
  have hmod : (s2.modSeq n fun q => { q with wv := wvSet q.wv w false }).seqs.at n =
      { s.seqs.at n with resv := r2, wv := wvSet (s.seqs.at n).wv w false } :=
    (Bank.at_upd_self _ _ _).trans (congrArg (fun q : Seq => { q with wv := wvSet q.wv w false }) hat)
  exact ⟨_, _, _, (Bank.at_upd_self _ _ _).trans (congrArg (fun q : Seq => { q with uwcnt := q.uwcnt + BitVec.ofNat 32 k }) hmod)⟩

/-- What a spill leaves of sequencer `n`. -/
theorem State.spillWin_seq {w : Fin 8} (h : s.spillWin n w = .done y) :
    ∃ wv u r, y.seqs.at n = { s.seqs.at n with wv := wv, uwcnt := u, resv := r } := by
  obtain ⟨m, hm, -⟩ := s.anchor_frame n (s.seqs.at n).cx
  unfold State.spillWin at h
  dsimp only at h
  split at h
  · exact nomatch h
  · next a s1 ha =>
    obtain rfl : s1 = { s with mem := m } := (congrArg Prod.snd ha).symm.trans hm
    split at h
    · split at h
      · exact nomatch h
      · exact Work.done.inj h ▸ State.framePut_seq _ n w _ a _ 0 30
    · exact Work.done.inj h ▸ State.framePut_seq _ n w _ a _ _ 22

/-- R242: the window above opens, its own and departing registers undefined from the free value `k` on. -/
def Seq.opened (q : Seq) (k : Nat) : Seq :=
  { q with
    cw := winUp q.cw 1, wv := wvSet q.wv (winUp q.cw 1) true, ringM := q.ringM.upd (winUp q.cw 1) (freeSet k)
    ringA := q.ringA.upd (winUp (winUp q.cw 1) 1) (freeSet (k + 8)) }

/-- R242: a window opens behind a spill. -/
theorem State.wopen_spill {limit : Nat} {a : Anchor} (h7 : wvCount (s.seqs.at n).wv = 7)
    (ha : s.anchor n (s.seqs.at n).cx = (some a, z)) (hl : a.spcnt < limit) (hs : z.spillWin n (winUp (s.seqs.at n).cw 2) = .done y) :
    s.wopen n limit = .done { y.setSeq n ((y.seqs.at n).opened y.free) with free := y.free + 16 } := by
  unfold State.wopen
  refine (if_pos h7).trans ?_
  rw [ha]
  refine (if_neg (Nat.not_le.2 hl)).trans ?_
  rw [hs] <;> rfl

/-- R260: the registers of a trap entry in the window that has opened. -/
def Seq.entered (q : Seq) : Seq :=
  { q with ringM := q.ringM.upd q.cw ((((q.ringM.at q.cw).upd 0 q.pc).upd 1 q.tcause).upd 2 q.tval), pc := q.tvec }

theorem Seq.entered_reg (q : Seq) : q.entered.reg 16 = q.pc ∧ q.entered.reg 17 = q.tcause ∧ q.entered.reg 18 = q.tval := by
  unfold Seq.reg Seq.entered
  simp

/-- R260: the window, the registers and the pc of a trap entry whose window opens in `z`. -/
theorem State.trapWindow_of {t : Trap} (h : s.wopen n 255 = .done z) : s.trapWindow n t =
    ((z.modSeq n Seq.entered).modChan (s.seqs.at n).cx fun x => { x with firstFetch := true }).uw n 18 := by
  unfold State.trapWindow
  rw [h] <;> rfl

end entry

/-- R264: the instruction at pc is carried out as its word says. -/
theorem State.At.runWord {s z : State} {n : Fin 16} {m : Mn} {w : W32} (h : s.At n m w z) : s.macro_ n (some m) = z.runWord n w := by
  simp [State.macro_, State.execute, State.begin_word h.word, h.held, h.runs, h.free, h.word, h.code]

/-- Settles O50. -/
theorem sequencersAndPool : Obligations.SequencersAndPool := by
  unfold Obligations.SequencersAndPool
  refine ⟨fun s k hup => ?buffers, fun s n v hup => ?config, fun s t n => ?nap, fun s i hup => ?pool, fun s n => ?retry,
    fun s z n i m w hi h => ?instr, fun z y n t a z1 => ?entry⟩
  case buffers =>
    exact ⟨_, congrArg Host.Outcome.next (if_pos hup), rfl, fun j => Bank.at_fill _ _⟩
  case config =>
    intro q c to_ settled blocked
    have hset {i : Instr} {x : Seq} (hi : exec i s = .next (s.seqEnableW n v)) (hp : q.st ≠ .off ∨ q.en = true)
        (hx : s.seqConfig n v = s.setSeq n x) : (x.st ≠ .off → x.st ≠ .nap → exec i s = to_ x) ∧
          (x.st = .off ∨ x.st = .nap → exec i s = settled x) := by
      have hcfg := hi.trans (congrArg Host.Outcome.next (State.seqEnableW_plain (v := v) hp))
      exact ⟨fun h1 h2 => hcfg.trans (congrArg Host.Outcome.next (State.seqCfg_awake hx h1 h2)),
        fun h => hcfg.trans (congrArg Host.Outcome.next (State.seqCfg_resting hx h))⟩
    have henable {r : Req} (hr : s.refusal r true (0x180000 + 0x1000 * n.val) 4 v.toNat = none) (he : q.en = false) (hv : bit v 0 = true) :
        exec (.sqEnable r n v) s = .next (s.seqEnableW n v) :=
      congrArg Host.Outcome.next ((if_pos ⟨congrArg (!·) he, hv⟩).trans (State.busWrite_sqCfg hr))
    refine ⟨fun r hr he hv hoff => ?caught, fun r hr he hv => ?enable, fun he hv => ?disable⟩
    case caught =>
      have hcfg := State.seqCfg_awake ((State.seqConfig_enabled he hv).1 hoff) (nomatch ·) (nomatch ·)
      by_cases hc : bit s.dbg.cfg 0 = true
      · refine ⟨_, (henable hr he hv).trans (congrArg Host.Outcome.next ((if_pos ⟨hoff, congrArg (!·) he, hv, hc⟩).trans
          (congrArg (State.modDsq · n fun x => { x with enCatch := true }) hcfg))), fun h => absurd (h.symm.trans hc) (by decide), fun _ => ?_⟩
        exact congrArg DbgSeq.enCatch (Bank.at_upd_self _ _ _)
      · exact ⟨s.dbg, (henable hr he hv).trans (congrArg Host.Outcome.next ((if_neg fun h => hc h.2.2.2).trans hcfg)), fun _ => rfl,
          fun h => absurd h hc⟩
    case enable =>
      obtain ⟨-, hdrain, hpool, hoff, hplain⟩ := State.seqConfig_enabled he hv
      have hen := henable hr he hv
      have hset' {k : SeqSt} {x : Seq} (h : q.st = k) (hk : k ≠ .off) (hx : s.seqConfig n v = s.setSeq n x) :=
        hset hen (.inl (h ▸ hk)) hx
      refine ⟨fun h => ?_, fun h => ?_, fun h hb => ?_, fun h hb => ?_, fun h hb => ?_, fun h => ?_, fun h => ?_⟩
      · exact (hset' h (by decide) (hdrain (.inl h))).1 (fun k => nomatch h.symm.trans k) (fun k => nomatch h.symm.trans k)
      · exact (hset' h (by decide) (hpool (.inl h))).1 (fun k => nomatch h.symm.trans k) (fun k => nomatch h.symm.trans k)
      · exact (hset' h (by decide) (hoff h hb)).1 (fun k => nomatch h.symm.trans k) (fun k => nomatch h.symm.trans k)
      · exact (hset' h (by decide) (hdrain (.inr ⟨h, hb⟩))).1 (fun k => nomatch h.symm.trans k) (fun k => nomatch h.symm.trans k)
      · exact (hset' h (by decide) (hpool (.inr ⟨h, hb⟩))).1 (fun k => nomatch h.symm.trans k) (fun k => nomatch h.symm.trans k)
      · exact (hset' h (by decide) (hplain (.inl h))).2 (.inr h)
      · have hx := hplain (.inr h)
        rcases h with h | h | h | ⟨h, -⟩
        all_goals exact (hset' h (by decide) hx).1 (fun k => nomatch h.symm.trans k) (fun k => nomatch h.symm.trans k)
    case disable =>
      obtain ⟨hrest, hrun, hplain, hpool, hdrain, hhrun, hhrest⟩ := State.seqConfig_disabled he hv
      have hdis : exec (.sqDisable n v) s = .next (s.seqEnableW n v) :=
        congrArg Host.Outcome.next (if_pos ⟨hup, he, congrArg (!·) hv⟩)
      have hset' {x : Seq} (hx : s.seqConfig n v = s.setSeq n x) := hset hdis (.inr he) hx
      refine ⟨fun h => (hset' (hrest h)).2 (.inl rfl), fun h => (hset' (hrun h)).1 (nomatch ·) (nomatch ·),
        fun h => (hset' (hplain (.inl h))).2 (.inl h), fun h => ?_, fun h hb => ?_, fun h => ?_, fun h hb => ?_, fun h hb => ?_⟩
      · have hx := hpool h
        rcases h with h | ⟨h, -⟩
        all_goals exact (hset' hx).1 (fun k => nomatch h.symm.trans k) (fun k => nomatch h.symm.trans k)
      · exact (hset' (hplain (.inr ⟨h, hb⟩))).1 (fun k => nomatch h.symm.trans k) (fun k => nomatch h.symm.trans k)
      · have hx := hdrain h
        rcases h with h | ⟨h, -⟩
        all_goals exact (hset' hx).1 (fun k => nomatch h.symm.trans k) (fun k => nomatch h.symm.trans k)
      · exact (hset' (hhrun ⟨h, hb⟩)).1 (fun k => nomatch h.symm.trans k) (fun k => nomatch h.symm.trans k)
      · exact (hset' (hhrest ⟨h, hb⟩)).1 (fun k => nomatch h.symm.trans k) (fun k => nomatch h.symm.trans k)
  case nap =>
    intro a q d due
    exact ⟨fun h => congrArg Host.Outcome.next (if_pos h), fun h => congrArg Host.Outcome.next (if_neg h)⟩
  case pool =>
    intro p to_
    have hexec {x : Pool} : (Host.Outcome.next (if s.up then { s with pool := x } else s) : Host.Outcome State Fault Refusal) = to_ x :=
      congrArg Host.Outcome.next (if_pos hup)
    refine ⟨fun h => ?_, fun h => ?_, fun h => ?_, fun h => ?_⟩
    · exact hexec.trans (congrArg to_ (if_pos h))
    · exact hexec.trans (congrArg to_ (if_neg h))
    · have hpop := Pool.pop_some h
      refine ⟨_, hexec.trans (congrArg (fun r : W32 × Pool => to_ r.2) hpop), (congrArg Prod.fst hpop).trans (putB31_put i), ?_⟩
      rw [Bool.or_eq_true, decide_eq_true_eq]
      exact Iff.rfl
    · have hpop : p.pop = (0, { p with fifoErr := true }) := by
        unfold Pool.pop
        rw [Pool.take_none h]
      exact ⟨hexec.trans (congrArg (fun r : W32 × Pool => to_ r.2) hpop), congrArg Prod.fst hpop⟩
  case retry =>
    intro q x q0 rec_ stop left work
    have hleft : s.leavePool n = left := State.leavePool_eq
    have hwork (h1 : q.st = .pool) (h2 : s.pool.head.isSome = true) {w : Option PoolWork} (hw : q.poolWork = w) : work (left.poolWork n w) := by
      have hz := State.poolRetry_of h1 h2
      rw [hleft, show (s.seqs.at n).poolWork = w from hw] at hz
      obtain ⟨hsame, d, hd⟩ := State.poolRetryT_spec hz
      rw [State.poolFaulted_res] at hsame
      exact ⟨fun h => congrArg Host.Outcome.next (hsame h), d, congrArg Host.Outcome.next hd⟩
    refine ⟨fun h => ?_, fun h1 h2 => ⟨fun hw => hwork h1 h2 hw, fun w hw => hwork h1 h2 hw, fun t hw => hwork h1 h2 hw, fun k hw => hwork h1 h2 hw⟩⟩
    have hsame : s.poolRetry n = s := if_neg fun hn => h.elim (fun k => k hn.1) fun k => by rw [k] at hn; exact Bool.false_ne_true hn.2
    refine congrArg Host.Outcome.next ((State.poolRetryT_spec hsame).1 ?_)
    cases (s.chans.at (s.seqs.at n).cx).res with
    | true => exact .inr rfl
    | false => exact .inl rfl
  case instr =>
    have heq : exec i s = .next (s.macro_ n (some m)) := by
      simp only [List.mem_cons, Prod.mk.injEq, List.not_mem_nil, or_false] at hi
      rcases hi with ⟨rfl, rfl⟩ | ⟨rfl, rfl⟩ | ⟨rfl, rfl⟩ | ⟨rfl, rfl⟩ | ⟨rfl, rfl⟩ | ⟨rfl, rfl⟩ | ⟨rfl, rfl⟩ | ⟨rfl, rfl⟩ |
        ⟨rfl, rfl⟩ | ⟨rfl, rfl⟩ | ⟨rfl, rfl⟩ | ⟨rfl, rfl⟩ | ⟨rfl, rfl⟩ <;> rfl
    exact heq.trans (congrArg Host.Outcome.next h.runWord)
  case entry =>
    intro q x h7 ha hl hs
    obtain ⟨m, hm, -⟩ := z.anchor_frame n q.cx
    have hz1 : z1 = { z with mem := m } := (congrArg Prod.snd ha).symm.trans hm
    obtain ⟨wv, u, r, hy⟩ := State.spillWin_seq hs
    have hyq : y.seqs.at n = { q with wv := wv, uwcnt := u, resv := r } := by
      rw [hy, hz1]
    have htrap := State.trapWindow_of (t := t) (State.wopen_spill h7 ha hl hs)
    have hx : x = { ((y.seqs.at n).opened y.free).entered with uwcnt := (y.seqs.at n).uwcnt + BitVec.ofNat 32 18 } := by
      have hat : ((y.setSeq n ((y.seqs.at n).opened y.free)).modSeq n Seq.entered).seqs.at n = ((y.seqs.at n).opened y.free).entered :=
        (Bank.at_upd_self _ _ _).trans (congrArg Seq.entered State.setSeq_at)
      refine (congrArg (fun w : State => w.seqs.at n) htrap).trans ((Bank.at_upd_self _ _ _).trans ?_)
      exact congrArg (fun q : Seq => { q with uwcnt := q.uwcnt + BitVec.ofNat 32 18 }) hat
    obtain ⟨h16, h17, h18⟩ := ((y.seqs.at n).opened y.free).entered_reg
    rw [hx, htrap]
    refine ⟨?_, h16.trans ?_, h17.trans ?_, h18.trans ?_, ?_, rfl, rfl, rfl, rfl⟩
    · exact (congrArg Seq.tvec hyq :)
    · exact (congrArg Seq.pc hyq :)
    · exact (congrArg Seq.tcause hyq :)
    · exact (congrArg Seq.tval hyq :)
    · exact (congrArg (fun q : Seq => winUp q.cw 1) hyq :)

end Sys2Proof.Machine

namespace Sys2Proof.Machine

/-! R356 to R358: which sequencer the scheduler asks. -/

section asks
variable {s : State} {c : Fin 256}

/-- In a rising list, the first that fits is found. -/
theorem find?_first {n : Nat} {l : List (Fin n)} (hl : l.Pairwise (· < ·)) {p : Fin n → Bool} {b : Fin n} (hb : b ∈ l) (hp : p b = true)
    (h : ∀ a ∈ l, a < b → p a = false) : l.find? p = some b := by
  obtain ⟨x, y, rfl⟩ := List.append_of_mem hb
  refine List.find?_eq_some_iff_append.2 ⟨hp, x, y, rfl, fun a ha => ?_⟩
  rw [h a (List.mem_append_left _ ha) ((List.pairwise_append.1 hl).2.2 a ha b List.mem_cons_self)]
  rfl

/-- The sequencers that channel `c` may run on (R356). -/
def State.candidates (s : State) (c : Fin 256) : List (Fin 16) := allSeqs.filter fun n => s.eligible n (s.chans.at c)

theorem State.mem_candidates {n : Fin 16} : n ∈ s.candidates c ↔ s.eligible n (s.chans.at c) = true :=
  List.mem_filter.trans (and_iff_right (List.mem_ofFn.2 ⟨n, rfl⟩))

theorem State.candidates_rising : (s.candidates c).Pairwise (· < ·) := (pairwise_ofFn_id 16).filter _

/-- Sequencer `n` holds a channel that is BLOCKED. -/
def State.stuckOn (s : State) (n : Fin 16) : Bool :=
  let q := s.seqs.at n
  decide (q.st = .run) && q.cxv && decide ((s.chans.at q.cx).st = .blocked) && (s.chans.at q.cx).res

/-- Sequencer `n` runs a channel of a lower priority than that of `c`. -/
def State.RunsLower (s : State) (c : Fin 256) (n : Fin 16) : Prop :=
  (s.seqs.at n).st = .run ∧ (s.seqs.at n).cxv = true ∧
    ((s.chans.at (s.seqs.at n).cx).st = .run ∨ (s.chans.at (s.seqs.at n).cx).st = .draining) ∧
    (s.chans.at (s.seqs.at n).cx).pri < (s.chans.at c).pri

/-- Of the sequencers that run a channel of lower priority, that of the lowest, the first of several. -/
def State.lowest (s : State) (c : Fin 256) : Option (Fin 16) :=
  (s.candidates c).foldl (init := none) fun acc n =>
    let q := s.seqs.at n
    let p := (s.chans.at q.cx).pri
    let live : Bool := decide ((s.chans.at q.cx).st = .run ∨ (s.chans.at q.cx).st = .draining)
    if q.st = .run ∧ q.cxv ∧ live ∧ p < (s.chans.at c).pri then
      match acc with
      | none => some n
      | some m => if p < (s.chans.at (s.seqs.at m).cx).pri then some n else some m
    else acc

theorem State.lowest_isBest : IsBest (s.RunsLower c) (fun n => OrderDual.toDual (s.chans.at (s.seqs.at n).cx).pri) (s.candidates c) (s.lowest c) := by
  have hfit {n : Fin 16} : s.RunsLower c n ↔ (s.seqs.at n).st = .run ∧ (s.seqs.at n).cxv ∧
      (decide ((s.chans.at (s.seqs.at n).cx).st = .run ∨ (s.chans.at (s.seqs.at n).cx).st = .draining)) = true ∧
      (s.chans.at (s.seqs.at n).cx).pri < (s.chans.at c).pri := by
    unfold State.RunsLower
    rw [decide_eq_true_eq]
  exact isBest_foldl ⟨fun _ _ h => if_neg (fun k => h (hfit.2 k)), fun _ h => if_pos (hfit.1 h),
    fun _ _ h hlt => (if_pos (hfit.1 h)).trans (if_pos hlt), fun _ _ h hlt => (if_pos (hfit.1 h)).trans (if_neg hlt)⟩ State.candidates_rising

/-- R358: the sequencer that the scheduler asks for channel `c`. -/
def State.asked (s : State) (c : Fin 256) : Option (Fin 16) :=
  ((s.candidates c).find? fun n => decide ((s.seqs.at n).st = .idle)).or
    (((s.candidates c).find? fun n => decide ((s.seqs.at n).st = .nap)).or (((s.candidates c).find? s.stuckOn).or (s.lowest c)))

theorem State.schedule_waiting (h : s.waiting c = true) : s.schedule c = (s.asked c).elim s s.reqSwitch := by
  unfold State.schedule
  refine (if_neg (by rw [h]; decide)).trans ?_
  change (match s.asked c with | some n => _ | none => _) = _
  cases s.asked c <;> rfl

theorem State.schedule_other (h : s.waiting c = false) : s.schedule c = s := if_pos (congrArg (!·) h)

end asks

/-! R357: the channel that a sequencer chooses. -/

/-- A fold that keeps one of two of no lower priority ends with one of the highest. -/
theorem foldl_greatest {α : Type} {fit : α → Prop} {pri : α → Nat} {f : Option α → α → Option α} (hskip : ∀ o x, ¬ fit x → f o x = o)
    (hfirst : ∀ x, fit x → f none x = some x)
    (hlater : ∀ a x, fit x → f (some a) x = some a ∧ pri x ≤ pri a ∨ f (some a) x = some x ∧ pri a ≤ pri x) (l : List α) (o : Option α) :
    (l.foldl f o = none → o = none ∧ ∀ x ∈ l, ¬ fit x) ∧
    ∀ b, l.foldl f o = some b → (o = some b ∨ b ∈ l ∧ fit b) ∧ (∀ a, o = some a → pri a ≤ pri b) ∧ ∀ x ∈ l, fit x → pri x ≤ pri b := by
  induction l generalizing o with
  | nil =>
    refine ⟨fun h => ⟨h, nofun⟩, fun b hb => ⟨.inl hb, fun a ha => ?_, nofun⟩⟩
    rw [Option.some.inj (ha.symm.trans hb)]
  | cons x l ih =>
    obtain ⟨hnone, hsome⟩ := ih (f o x)
    by_cases hx : fit x
    · cases o with
      | none =>
        have hf := hfirst x hx
        refine ⟨fun h => absurd ((hnone h).1.symm.trans hf) nofun, fun b hb => ?_⟩
        obtain ⟨hmem, hle, hl⟩ := hsome b hb
        refine ⟨.inr ?_, nofun, fun y hy hfit => ?_⟩
        · rcases hmem with h | h
          · exact Option.some.inj (hf.symm.trans h) ▸ ⟨List.mem_cons_self, hx⟩
          · exact ⟨List.mem_cons_of_mem _ h.1, h.2⟩
        · rcases List.mem_cons.1 hy with rfl | hy
          · exact hle _ hf
          · exact hl y hy hfit
      | some a =>
        refine ⟨fun h => ?_, fun b hb => ?_⟩
        · rcases hlater a x hx with ⟨k, -⟩ | ⟨k, -⟩ <;> exact absurd ((hnone h).1.symm.trans k) nofun
        · obtain ⟨hmem, hle, hl⟩ := hsome b hb
          rcases hlater a x hx with ⟨k, hk⟩ | ⟨k, hk⟩
          · refine ⟨?_, fun a' ha => Option.some.inj ha ▸ hle a k, fun y hy hfit => ?_⟩
            · exact hmem.imp (fun h => k.symm.trans h) fun h => ⟨List.mem_cons_of_mem _ h.1, h.2⟩
            · rcases List.mem_cons.1 hy with rfl | hy
              · exact hk.trans (hle a k)
              · exact hl y hy hfit
          · refine ⟨.inr ?_, fun a' ha => Option.some.inj ha ▸ hk.trans (hle x k), fun y hy hfit => ?_⟩
            · rcases hmem with h | h
              · exact Option.some.inj (k.symm.trans h) ▸ ⟨List.mem_cons_self, hx⟩
              · exact ⟨List.mem_cons_of_mem _ h.1, h.2⟩
            · rcases List.mem_cons.1 hy with rfl | hy
              · exact hle _ k
              · exact hl y hy hfit
    · rw [List.foldl_cons]
      rw [hskip o x hx] at hnone hsome ⊢
      refine ⟨fun h => ⟨(hnone h).1, fun y hy => ?_⟩, fun b hb => ?_⟩
      · rcases List.mem_cons.1 hy with rfl | hy
        · exact hx
        · exact (hnone h).2 y hy
      · obtain ⟨hmem, hle, hl⟩ := hsome b hb
        refine ⟨hmem.imp_right fun h => ⟨List.mem_cons_of_mem _ h.1, h.2⟩, hle, fun y hy hfit => ?_⟩
        rcases List.mem_cons.1 hy with rfl | hy
        · exact absurd hfit hx
        · exact hl y hy hfit

theorem pri_of_chanBefore {x y : Channel} : (chanBefore x y = true → y.pri ≤ x.pri) ∧ (chanBefore x y = false → x.pri ≤ y.pri) := by
  unfold chanBefore
  by_cases h : x.pri = y.pri
  · simp [h]
  · rw [if_pos h]
    simp only [decide_eq_true_eq, decide_eq_false_iff_not]
    omega

/-- One channel of the choice of `State.choose`. -/
def chooseStep (s : State) (n : Fin 16) (p : Fin 256 → Bool) (acc : Option (Fin 256)) (c : Fin 256) : Option (Fin 256) :=
  let x := s.chans.at c
  if p c ∧ s.eligible n x then
    match acc with
    | none => some c
    | some b => if chanBefore (s.chans.at b) x then some b else some c
  else acc

theorem State.choose_spec (s : State) (n : Fin 16) (p : Fin 256 → Bool) :
    (s.choose n p = none → ∀ d, ¬ (p d = true ∧ s.eligible n (s.chans.at d) = true)) ∧
    ∀ c, s.choose n p = some c → (p c = true ∧ s.eligible n (s.chans.at c) = true) ∧
      ∀ d, p d = true ∧ s.eligible n (s.chans.at d) = true → (s.chans.at d).pri ≤ (s.chans.at c).pri := by
  have hlater (a x : Fin 256) (h : p x = true ∧ s.eligible n (s.chans.at x) = true) :
      chooseStep s n p (some a) x = some a ∧ (s.chans.at x).pri ≤ (s.chans.at a).pri ∨
        chooseStep s n p (some a) x = some x ∧ (s.chans.at a).pri ≤ (s.chans.at x).pri := by
    cases hb : chanBefore (s.chans.at a) (s.chans.at x) with
    | true => exact .inl ⟨(if_pos h).trans (if_pos hb), pri_of_chanBefore.1 hb⟩
    | false => exact .inr ⟨(if_pos h).trans (if_neg (Bool.eq_false_iff.1 hb)), pri_of_chanBefore.2 hb⟩
  obtain ⟨hnone, hsome⟩ := foldl_greatest (f := chooseStep s n p) (fun _ _ h => if_neg h) (fun _ h => if_pos h) hlater allChans none
  refine ⟨fun h d => (hnone h).2 d (mem_allChans d), fun c hc => ?_⟩
  obtain ⟨hmem, -, hl⟩ := hsome c hc
  exact ⟨(hmem.resolve_left nofun).2, fun d => hl d (mem_allChans d)⟩


/-! R519, R586: a channel that has become READY wakes its half where that sleeps with AUTOWAKE at 1. -/

section autowake
variable (o : State) (c : Fin 256)

/-- A half after a wake request that `k` makes. -/
def Half.woken (y : Half) (k : Prop) [Decidable k] : Half :=
  if k then (if y.st = .sleep then { y with st := .wake } else if y.st = .enter then { y with wakeRec := true } else y) else y

theorem State.wakeHalf_eq (s : State) (h : Fin 2) : s.wakeHalf h = { s with
    power := { s.power with halves := s.power.halves.upd h ((s.power.halves.at h).woken True) }
    dbg := { s.dbg with emu := s.dbg.emu.upd h (s.dbg.emu.at h && !decide ((s.power.halves.at h).st = .sleep)) } } := by
  unfold State.wakeHalf Half.woken
  simp only [Bank.mod_eq, decide_not, if_true]
  cases hst : (s.power.halves.at h).st <;> rfl

/-- The state after the wake of a half by a channel that has become READY. -/
def State.awake (o : State) (c : Fin 256) : State :=
  let h := seqHalf (o.chans.at c).seqNo
  let y := o.power.halves.at h
  { o with
    power := { o.power with halves := o.power.halves.upd h (y.woken (o.waiting c = true ∧ bit y.cfg 1 = true)) }
    dbg := { o.dbg with emu := o.dbg.emu.upd h (o.dbg.emu.at h && !(o.waiting c && bit y.cfg 1 && decide (y.st = .sleep))) } }

theorem State.autowake_eq : o.autowake c = o.awake c := by
  unfold State.autowake State.awake
  by_cases hw : o.waiting c = true ∧ bit (o.power.halves.at (seqHalf (o.chans.at c).seqNo)).cfg 1 = true
  · refine (if_pos hw).trans ((State.wakeHalf_eq _ _).trans ?_)
    simp only [hw, Half.woken, Bool.true_and, if_true, and_self]
  · refine (if_neg hw).trans ?_
    have hf : (o.waiting c && bit (o.power.halves.at (seqHalf (o.chans.at c).seqNo)).cfg 1) = false := by
      rwa [← Bool.not_eq_true, Bool.and_eq_true]
    simp only [hf, hw, Half.woken, Bool.false_and, Bool.not_false, Bool.and_true, if_false, Bank.upd_at]

theorem exec_schedulerRequest (s : State) (hs : o.awake c = s) : exec (.schedulerRequest c) o = .next (s.schedule c) :=
  congrArg (fun z : State => Host.Outcome.next (z.schedule c)) ((State.autowake_eq o c).trans hs)

end autowake

section asks
variable {s : State} {c : Fin 256} {n : Fin 16}

theorem State.asked_of_first {p : Fin 16 → Bool} (he : s.eligible n (s.chans.at c) = true) (hp : p n = true)
    (h : ∀ m, m < n → s.eligible m (s.chans.at c) = true → ¬ p m = true) : (s.candidates c).find? p = some n :=
  find?_first State.candidates_rising (State.mem_candidates.2 he) hp fun m hm hlt => Bool.eq_false_iff.2 (h m hlt (State.mem_candidates.1 hm))

theorem State.asked_none {p : Fin 16 → Bool} (h : ∀ m, s.eligible m (s.chans.at c) = true → ¬ p m = true) :
    (s.candidates c).find? p = none :=
  List.find?_eq_none.2 fun m hm => h m (State.mem_candidates.1 hm)

theorem State.stuckOn_iff : s.stuckOn n = true ↔ (s.seqs.at n).st = .run ∧ (s.seqs.at n).cxv = true ∧
    (s.chans.at (s.seqs.at n).cx).st = .blocked ∧ (s.chans.at (s.seqs.at n).cx).res = true := by
  unfold State.stuckOn
  simp only [Bool.and_eq_true, decide_eq_true_eq, and_assoc]

theorem State.schedule_asks (hw : s.waiting c = true) (h : s.asked c = some n) :
    s.schedule c = { s with seqs := s.seqs.upd n { s.seqs.at n with swReq := true } } := by
  rw [State.schedule_waiting hw, h] <;> rfl

theorem State.schedule_none (h : s.asked c = none) (hw : s.waiting c = true) : s.schedule c = s := by
  rw [State.schedule_waiting hw, h] <;> rfl

theorem State.eligible_iff (x : Channel) : s.eligible n x = true ↔ (s.seqs.at n).en = true ∧ (s.seqs.at n).st ≠ .draining ∧
    s.seqUp n = true ∧ (if x.aff = 0 then x.seqNo = n else seqHalf x.seqNo = seqHalf n) := by
  unfold State.eligible
  by_cases h : x.aff = 0 <;> simp [h, and_assoc]

theorem State.lowest_of (he : s.eligible n (s.chans.at c) = true) (hr : s.RunsLower c n)
    (hle : ∀ m, s.eligible m (s.chans.at c) = true → s.RunsLower c m →
      (s.chans.at (s.seqs.at n).cx).pri ≤ (s.chans.at (s.seqs.at m).cx).pri)
    (hne : ∀ m, m < n → s.eligible m (s.chans.at c) = true → s.RunsLower c m →
      (s.chans.at (s.seqs.at n).cx).pri ≠ (s.chans.at (s.seqs.at m).cx).pri) : s.lowest c = some n := by
  obtain ⟨hnone, hsome⟩ := s.lowest_isBest (c := c)
  cases hl : s.lowest c with
  | none => exact absurd hr (hnone hl n (State.mem_candidates.2 he))
  | some b =>
    obtain ⟨hmem, hfit, hbest⟩ := hsome b hl
    have heb := State.mem_candidates.1 hmem
    rcases hbest n (State.mem_candidates.2 he) hr with h | ⟨h, hbn⟩
    · exact absurd (hle b heb hfit) (not_le.2 (OrderDual.toDual_lt_toDual.1 h))
    · rcases lt_or_eq_of_le hbn with h' | rfl
      · exact absurd (OrderDual.toDual_inj.1 h) (hne b h' heb hfit)
      · rfl

theorem State.lowest_none (h : ∀ m, s.eligible m (s.chans.at c) = true → ¬ s.RunsLower c m) : s.lowest c = none := by
  cases hl : s.lowest c with
  | none => rfl
  | some b =>
    obtain ⟨hmem, hfit, -⟩ := (s.lowest_isBest (c := c)).2 b hl
    exact absurd hfit (h b (State.mem_candidates.1 hmem))

end asks

/-! R262, R357: the dispatch of a sequencer. -/

section dispatch
variable {s : State} {n : Fin 16} {c : Fin 256}

/-- Sequencer `n` dispatches now. -/
def State.DispatchDue (s : State) (n : Fin 16) : Prop :=
  s.seqUp n = true ∧ (s.seqs.at n).en = true ∧
    ((s.seqs.at n).st = .switch ∨ (((s.seqs.at n).st = .idle ∨ (s.seqs.at n).st = .nap) ∧ (s.seqs.at n).swReq = true))

/-- A dispatch of sequencer `n` that lost the context of channel `c`. -/
def State.undispatched (z : State) (n : Fin 16) (c : Fin 256) : State :=
  z.modSeq n fun q => { q with cx := c, st := .switch, swReq := false }

/-- A channel that an error of its context has stopped. -/
def Channel.lost (x : Channel) (f : FCause) (t : W64) : Channel :=
  { (if x.det = true then x.breached .ecc t else x) with st := .fault, faultF := true, fcause := f, res := false }

theorem State.dispatch_early (h : ¬ s.DispatchDue n) : s.dispatch n = s := if_neg h

theorem State.dispatch_idle (h : s.DispatchDue n) (hc : s.choose n s.waiting = none) : s.dispatch n =
    s.modSeq n fun q => { q with st := if q.st = .switch then .idle else q.st, cxv := false, swReq := false,
                                 idleSince := if q.st = .switch then s.now else q.idleSince } := by
  refine (if_pos h).trans ?_
  rw [hc]

/-- R254: the switch-in of channel `c`. -/
def State.switchIn (s : State) (n : Fin 16) (c : Fin 256) : State :=
  match s.vendorFetch n .switchIn with
  | (some u, s0) => (s0.undispatched n c).csLost n u
  | (none, s0) =>
    match s0.loadContext n c with
    | .done s1 =>
      (s1.modSeq n fun q => { q with st := .run, cx := c, cxv := true, swReq := false, yielded := false,
                                     swcnt := q.swcnt + 1 }).modChan c fun x => { x with st := .run, res := true, sq := n }
    | .ecc s1 => (s1.undispatched n c).ctxEcc n
    | .pool s1 => s1
    | .trap s1 _ => s1

theorem State.dispatch_switchIn (h : s.DispatchDue n) (hc : s.choose n s.waiting = some c) : s.dispatch n = s.switchIn n c := by
  refine (if_pos h).trans ?_
  rw [hc] <;> rfl

theorem State.ctxLost_released (cause : FCause) (hc : (s.seqs.at n).cx = c) (h : (s.chans.at c).res = false) :
    s.ctxLost n cause = s.modChan c fun x => x.lost cause s.now := by
  subst hc
  exact if_neg fun k => Bool.false_ne_true (h.symm.trans k)

theorem State.ctxLost_held (cause : FCause) (hc : (s.seqs.at n).cx = c) (h : (s.chans.at c).res = true) :
    s.ctxLost n cause = (s.modChan c fun x => x.lost cause s.now).seqFreed n := by
  subst hc
  exact if_pos h

theorem State.undispatched_cx (z : State) : ((z.undispatched n c).seqs.at n).cx = c := congrArg Seq.cx (Bank.at_upd_self _ _ _)

theorem State.undispatched_lost (z : State) (h : (z.chans.at c).res = false) : (z.undispatched n c).ctxEcc n = { z with
    seqs := z.seqs.upd n { z.seqs.at n with cx := c, st := .switch, swReq := false }
    chans := z.chans.upd c ((z.chans.at c).lost .ctxEcc z.now) } :=
  State.ctxLost_released .ctxEcc (State.undispatched_cx z) h

/-- The record of a double-bit error of the vendor microcode at `u` in a switch of sequencer `n` with channel `c`. -/
def ControlStore.switchLost (cs : ControlStore) (n : Fin 16) (c : Fin 256) (u : Nat) : ControlStore := { cs with
  fault := put 24 c.val ||| put 20 4 ||| put 15 (seqCluster n).val ||| put 0 u
  uncF := cs.uncF ||| BitVec.ofNat 4 (2 ^ (seqCluster n).val) }

theorem State.csFault_ecc (z : State) (u : Nat) : z.csFault n c u .csEcc = { z with cs := z.cs.switchLost n c u } := rfl

theorem State.undispatched_csLost (z : State) (u : Nat) (h : (z.chans.at c).res = false) : (z.undispatched n c).csLost n u = { z with
    cs := z.cs.switchLost n c u
    seqs := z.seqs.upd n { z.seqs.at n with cx := c, st := .switch, swReq := false }
    chans := z.chans.upd c ((z.chans.at c).lost .csEcc z.now) } := by
  have hcx := State.undispatched_cx (n := n) (c := c) z
  unfold State.csLost
  rw [hcx, State.csFault_ecc]
  exact State.ctxLost_released .csEcc hcx h

theorem State.dispatchT_eq (h : s.haltsIdle n = false) : ∃ d, s.dispatchT n =
    { (if (s.seqs.at n).st = .switch then s else s.modDsq n fun x => { x with swOut := none }).dispatch n with dbg := d } := by
  generalize hz : (if (s.seqs.at n).st = .switch then s else s.modDsq n fun x => { x with swOut := none }).dispatch n = z
  have heq : s.dispatchT n = if (z.seqs.at n).st = .run ∧ (s.seqs.at n).st ≠ .run then z.switchEnd n (some (z.seqs.at n).cx)
      else if (s.seqs.at n).st = .switch ∧ (z.seqs.at n).st ≠ .switch then z.switchEnd n none else z := by
    subst hz
    exact if_neg (Bool.eq_false_iff.1 h)
  rw [heq]
  split
  · exact ⟨_, (State.switchEnd_changes _ _ _).frame⟩
  · split
    · exact ⟨_, (State.switchEnd_changes _ _ _).frame⟩
    · exact ⟨z.dbg, rfl⟩

theorem State.haltsIdle_iff : s.haltsIdle n = true ↔
    (s.seqs.at n).st = .idle ∧ (s.dbg.haltReq.getLsbD n.val = true ∨ (s.dbg.sqs.at n).enCatch = true) := by
  unfold State.haltsIdle
  rw [Bool.and_eq_true, decide_eq_true_eq, Bool.or_eq_true]

theorem State.waiting_res (h : s.waiting c = true) : (s.chans.at c).res = false := by
  unfold State.waiting at h
  simpa using (Bool.and_eq_true_iff.1 h).2

end dispatch

/-! R262, R350, R361: what a sequencer and its channel become once the context is saved. -/

theorem Bank.mod_upd_self {α : Type} {n : Nat} (v : Bank α n) (i : Fin n) (x : α) (f : α → α) : (v.upd i x).mod i f = v.upd i (f x) :=
  (Bank.upd_upd _ _ _ _).trans (congrArg (fun y => v.upd i (f y)) (Bank.at_upd_self _ _ _))

section out
variable {s : State} {n : Fin 16} {c : Fin 256} {req : Nat}

theorem State.eicSettle_spec (s : State) : ∃ d e w, s.eicSettle = { s with dbg := d, eic := e, power := w } :=
  ⟨_, _, _, (State.eicSettle_changes s).frame⟩

/-- A sequencer that has given up its channel at `t`. -/
def Seq.freed (r : Seq) (t : W64) : Seq :=
  { r with st := r.freedSt r.st, cxv := r.cxv && decide (r.freedSt r.st = .switch), swReq := false, yielded := false, stopI := false
           drainRec := false, poolWork := none, held := none, idleSince := t }

theorem State.seqFreed_spec (s : State) (n : Fin 16) : ∃ d e w, s.seqFreed n = { s with
    dbg := d, eic := e, power := w, seqs := s.seqs.upd n ((s.seqs.at n).freed s.now) } ∧
    (((s.seqs.at n).freed s.now).st ≠ .off → d = s.dbg ∧ e = s.eic ∧ w = s.power) := by
  have heq : s.seqFreed n = (s.setSeq n ((s.seqs.at n).freed s.now)).seqRests n := rfl
  have hnap : ((s.seqs.at n).freed s.now).st ≠ .nap := by
    unfold Seq.freed Seq.freedSt
    dsimp only
    split
    · split <;> decide
    · decide
  by_cases hoff : ((s.seqs.at n).freed s.now).st = .off
  · refine ⟨_, _, _, heq.trans ((State.seqRests_resting (.inl ?_)).trans (State.eicSettle_changes _).frame), fun h => absurd hoff h⟩
    rwa [State.setSeq_at]
  · refine ⟨_, _, _, heq.trans (State.seqRests_awake ?_ ?_), fun _ => ⟨rfl, rfl, rfl⟩⟩ <;> rwa [State.setSeq_at]

/-- A stopped channel. -/
def Channel.stopped (x : Channel) : Channel := { x with st := .stopped, stopF := true, resumeRec := false, abort := false }

theorem State.stopChan_resumes (h : (s.chans.at c).resumeRec = true) :
    s.stopChan req c = (s.modChan c Channel.stopped).resume req c := by
  unfold State.stopChan
  rw [h] <;> rfl

theorem State.resume_refused {o : Option Nat} {z : State} (hr : s.memRead req (descAddr c) 4 = (o, z))
    (h : o = none ∨ bit (BitVec.ofNat 32 (o.getD 0)) 29 = true) : s.resume req c = z.modChan c fun x => { x with cmdIgn := true } := by
  unfold State.resume
  rw [hr]
  have hn : (o.bind fun w => z.reread c (BitVec.ofNat 32 w)) = none := by
    cases o with
    | none => rfl
    | some w => exact if_pos (h.resolve_left nofun)
  dsimp only
  rw [hn]

/-- The channel with the priority and the affinity of `w`, READY at `t`. -/
def Channel.resumedAs (x : Channel) (w : W32) (t : W64) : Channel :=
  { x with st := .ready, since := t, config := mrg 0x3FF00000 x.config w }

theorem State.resume_applies {v : Nat} {z : State} (hr : s.memRead req (descAddr c) 4 = (some v, z))
    (h : bit (BitVec.ofNat 32 v) 29 = false) : s.resume req c =
    ({ z with
      chans := z.chans.upd c ((z.chans.at c).resumedAs (BitVec.ofNat 32 v) z.now)
      seqs := if fldN (z.chans.at c).config 24 6 = fldN (BitVec.ofNat 32 v) 24 6 then z.seqs else (z.dropFown c).seqs } : State).eicSettle := by
  unfold State.resume
  rw [hr]
  have hn : ((some v).bind fun w => z.reread c (BitVec.ofNat 32 w)) = some { z with
      chans := z.chans.upd c { z.chans.at c with config := mrg 0x3FF00000 (z.chans.at c).config (BitVec.ofNat 32 v) }
      seqs := if fldN (z.chans.at c).config 24 6 = fldN (BitVec.ofNat 32 v) 24 6 then z.seqs else (z.dropFown c).seqs } := by
    refine (if_neg (Bool.eq_false_iff.1 h)).trans (congrArg some ?_)
    split <;> rfl
  dsimp only
  rw [hn]
  refine congrArg State.eicSettle ?_
  exact congrArg (fun b => ({ z with chans := b, seqs := _ } : State)) (Bank.mod_upd_self _ _ _ _)

/-- The channel and its sequencer without each other. -/
def State.givenUp (s : State) (n : Fin 16) : State := (s.modChan (s.seqs.at n).cx fun x => { x with res := false }).seqFreed n

theorem State.givenUp_spec (s : State) (n : Fin 16) : ∃ d e w, s.givenUp n = { s with
    dbg := d, eic := e, power := w, seqs := s.seqs.upd n ((s.seqs.at n).freed s.now)
    chans := s.chans.upd (s.seqs.at n).cx { s.chans.at (s.seqs.at n).cx with res := false } } ∧
    (((s.seqs.at n).freed s.now).st ≠ .off → d = s.dbg ∧ e = s.eic ∧ w = s.power) :=
  (s.modChan (s.seqs.at n).cx fun x => { x with res := false }).seqFreed_spec n

/-- R350: what follows for the channel in state `k`. -/
def State.afterGiven (y : State) (n : Fin 16) (c : Fin 256) (stop : Bool) : ChSt → State
  | .run => if stop then y.stopChan n.val c else y.makeReady c
  | .draining => y.stopChan n.val c
  | _ => y

theorem State.switchedOut_eq {k : ChSt} (h : (s.chans.at (s.seqs.at n).cx).st = k) :
    s.switchedOut n = (s.givenUp n).afterGiven n (s.seqs.at n).cx (s.seqs.at n).stopI k := by
  obtain ⟨d, e, w, heq, -⟩ := s.givenUp_spec n
  have hst : ((s.givenUp n).chans.at (s.seqs.at n).cx).st = k := by
    rw [heq]
    exact (congrArg Channel.st (Bank.at_upd_self _ _ _)).trans h
  change (match ((s.givenUp n).chans.at (s.seqs.at n).cx).st with | .run => _ | .draining => _ | _ => _) = _
  rw [hst]
  cases k <;> rfl

/-- A switch-out is requested on sequencer `n`, at a boundary where it may be taken. -/
def State.SwitchDue (s : State) (n : Fin 16) : Prop :=
  s.seqUp n = true ∧ ((s.seqs.at n).st = .run ∨ (s.seqs.at n).st = .draining) ∧ (s.seqs.at n).cxv = true ∧
    (s.seqs.at n).swReq = true ∧ (s.chans.at (s.seqs.at n).cx).res = true ∧ (s.seqs.at n).held = none

/-- R357: the channel that has yielded is the choice again. -/
def State.SameAgain (s : State) (n : Fin 16) : Prop :=
  (s.seqs.at n).yielded = true ∧ (s.seqs.at n).st = .run ∧ (s.chans.at (s.seqs.at n).cx).st = .run ∧
    (s.modChan (s.seqs.at n).cx fun x => { x with since := s.now, st := .ready }).choose n
      (fun d => decide (d = (s.seqs.at n).cx) || s.waiting d) = some (s.seqs.at n).cx

theorem State.switchOut_early (h : ¬ s.SwitchDue n) : s.switchOut n = s := if_neg h

theorem State.switchOut_due (h : s.SwitchDue n) (a : Bool) (ha : a = true ↔ s.SameAgain n) : s.switchOut n =
    if a = true then s.modSeq n fun q => { q with swReq := false, yielded := false } else (s.saveContext n).settle n := by
  refine (if_pos h).trans (if_congr ?_ rfl rfl)
  rw [ha]
  unfold State.SameAgain
  simp only [Bool.and_eq_true, decide_eq_true_eq, and_assoc]

theorem State.switchOut_again (h : s.SwitchDue n) (ha : s.SameAgain n) :
    s.switchOut n = s.modSeq n fun q => { q with swReq := false, yielded := false } :=
  (State.switchOut_due h true (iff_of_true rfl ha)).trans (if_pos rfl)

theorem State.switchOut_save (h : s.SwitchDue n) (ha : ¬ s.SameAgain n) : s.switchOut n = (s.saveContext n).settle n :=
  (State.switchOut_due h false (iff_of_false nofun ha)).trans (if_neg nofun)

/-- A halt that is due goes first. -/
theorem State.switchOutT_halts (h : s.haltNow n ≠ none) : s.switchOutT n = s := by
  have hn : (s.haltNow n).isNone = false := by
    cases hk : s.haltNow n with
    | none => exact absurd hk h
    | some k => rfl
  unfold State.switchOutT
  simp only [hn, Bool.false_eq_true, if_false]
  refine if_neg fun k => ?_
  have hk := k.2
  rw [k.1] at hk
  exact absurd hk (by decide)

theorem State.switchOutT_of (h : s.haltNow n = none) {z : State} (hz : s.switchOut n = z) : s.switchOutT n =
    if (s.chans.at (s.seqs.at n).cx).res = true ∧ (!(z.chans.at (s.seqs.at n).cx).res) = true then z.switchLeft n (s.seqs.at n).cx else z := by
  subst hz
  unfold State.switchOutT
  rw [h] <;> rfl

theorem State.switchOutT_traced (h : s.haltNow n = none) {z : State} (hz : s.switchOut n = z) : ∃ d, s.switchOutT n = { z with dbg := d } := by
  rw [State.switchOutT_of h hz]
  split
  · exact ⟨_, (State.switchLeft_changes _ _ _).frame⟩
  · exact ⟨z.dbg, rfl⟩

theorem State.switchOutT_kept (h : s.haltNow n = none) {z : State} (hz : s.switchOut n = z)
    (hr : (z.chans.at (s.seqs.at n).cx).res = (s.chans.at (s.seqs.at n).cx).res) : s.switchOutT n = z := by
  rw [State.switchOutT_of h hz, hr]
  refine if_neg fun k => ?_
  have hk := k.2
  rw [k.1] at hk
  exact absurd hk (by decide)

/-- The channel of a sequencer that enters POOL. -/
def Channel.pooled (x : Channel) : Channel :=
  match x.st with
  | .fault => x
  | .draining => { x with st := .waitPool, back := .run, stopRec := some x.abort }
  | b => { x with st := .waitPool, back := b }

theorem Channel.pooled_spec (x : Channel) : (x.st = .fault → x.pooled = x) ∧
    (x.st = .draining → x.pooled = { x with st := .waitPool, back := .run, stopRec := some x.abort }) ∧
    (x.st ≠ .fault → x.st ≠ .draining → x.pooled = { x with st := .waitPool, back := x.st }) ∧ x.pooled.res = x.res := by
  unfold Channel.pooled
  cases x.st <;> simp

theorem State.enterPool_eq (s : State) (n : Fin 16) (w : PoolWork) : s.enterPool n w = { s with
    seqs := s.seqs.upd n { s.seqs.at n with
      st := .pool, poolWork := some w, drainRec := (s.seqs.at n).drainRec || decide ((s.seqs.at n).st = .draining) }
    chans := s.chans.upd (s.seqs.at n).cx (s.chans.at (s.seqs.at n).cx).pooled } := by
  unfold State.enterPool Channel.pooled
  dsimp only
  generalize (s.chans.at (s.seqs.at n).cx).st = k
  cases k
  case fault => exact congrArg (fun b => ({ s with seqs := _, chans := b } : State)) (Bank.upd_at _ _).symm
  all_goals rfl

/-- A save keeps the channels, and the sequencer its channel. -/
theorem State.saveContext_chans (s : State) (n : Fin 16) : (s.saveContext n).All fun y => y.chans = s.chans :=
  (s.saveContext_changes n).imp fun _ h => h.same .chans rfl

end out

/-! R252 to R255: the save of a switch-out. -/

section save
variable {s : State} {n : Fin 16} {c : Fin 256}

theorem Bank.toList_eq (v : Bank W32 8) : v.toList = (List.range 8).map fun j => v.at (Fin.ofNat 8 j) := by
  refine List.ext_getElem (by simp) fun i h1 h2 => ?_
  rw [List.getElem_map, List.getElem_range, Vector.getElem_toList]
  have hi : i < 8 := by simpa using h1
  exact congrArg v.at (Fin.ext (Nat.mod_eq_of_lt hi).symm : (⟨i, hi⟩ : Fin 8) = Fin.ofNat 8 i)

/-- R239, R252: the first 32 words of the lower half are the general registers. -/
theorem Seq.lower_eq (q : Seq) : q.lower = (List.range 32).map q.reg ++
    [q.pc, q.stw, put 8 q.cw.val ||| put 0 q.wv.toNat, put 0 q.cx.val, q.tcause, q.tval, q.tvec, 0] := by
  unfold Seq.lower
  simp only [Bank.toList_eq]
  rfl

theorem State.vendorFetch_clean (w : VendorWork) (hu : (s.cs.copies.at (seqCluster n)).unc = [])
    (hc : (s.cs.copies.at (seqCluster n)).corr = []) : s.vendorFetch n w = (none, s) := if_pos ⟨hc, hu⟩

theorem State.csCheck_ok {k : Fin 4} (w : Nat) (hu : (s.cs.copies.at k).unc = []) :
    (s.csCheck k w).1 = true ∧ ((s.csCheck k w).2.cs.copies.at k).unc = [] := by
  have hw : w ∉ (s.cs.copies.at k).unc := by
    rw [hu]
    exact List.not_mem_nil
  unfold State.csCheck
  dsimp only
  rw [if_neg hw]
  split
  · exact ⟨rfl, (congrArg CsCopy.unc (Bank.at_upd_self _ _ _)).trans hu⟩
  · exact ⟨rfl, hu⟩

/-- Without a double-bit error the fetches of vendor microcode meet none. -/
theorem State.vendorFetch_none (w : VendorWork) (hu : (s.cs.copies.at (seqCluster n)).unc = []) : (s.vendorFetch n w).1 = none := by
  unfold State.vendorFetch
  dsimp only
  split
  · rfl
  · refine (List.foldlRecOn (motive := fun acc : Option Nat × State => acc.1 = none ∧ (acc.2.cs.copies.at (seqCluster n)).unc = [])
      _ _ ⟨rfl, hu⟩ ?_).1
    rintro ⟨_, z⟩ ⟨rfl, hz⟩ x -
    obtain ⟨hok, hunc⟩ := State.csCheck_ok x hz
    refine ⟨?_, hunc⟩
    change (if (z.csCheck _ x).1 = true then none else some x) = none
    rw [hok] <;> rfl

theorem State.anchor_seqs {a : Anchor} {y : State} (h : s.anchor n c = (some a, y)) : ∃ m, y = { s with mem := m } := by
  obtain ⟨m, hm, -⟩ := s.anchor_frame n c
  rw [h] at hm
  exact ⟨m, hm⟩

/-- A context's anchor is read from memory alone. -/
theorem State.anchor_cs {a : Anchor} {y : State} (h : s.anchor n c = (some a, y)) (k : ControlStore) :
    ({ s with cs := k } : State).anchor n c = (some a, { y with cs := k }) := by
  obtain ⟨v, m, hr⟩ : ∃ v m, s.mem.read n.val (descAddr c + 48) 8 = (v, m) := ⟨_, _, rfl⟩
  have hread (z : State) (hz : z.mem = s.mem) : z.memRead n.val (descAddr c + 48) 8 = (v, { z with mem := m }) := by
    unfold State.memRead
    rw [hz, hr]
  unfold State.anchor State.ctxRead at h ⊢
  rw [hread s rfl] at h
  rw [hread { s with cs := k } rfl]
  cases v with
  | none => exact absurd (congrArg Prod.fst h) nofun
  | some v =>
    obtain rfl : _ = y := congrArg Prod.snd h
    exact congrArg (fun o => (o, _)) (congrArg Prod.fst h)

/-- What context microcode writes to memory depends on the memory alone. -/
theorem State.ctxWrite_mem {s t : State} (h : s.mem = t.mem) (n : Fin 16) (a : Nat) (l : List W32) :
    (s.ctxWrite n a l).mem = (t.ctxWrite n a l).mem := by
  induction l using List.twoStepInduction generalizing s t a with
  | nil => exact h
  | singleton x => exact congrArg (fun m : Mem => m.write n.val a 4 x.toNat) h
  | cons_cons x y l ih => exact ih (congrArg (fun m : Mem => m.write n.val a 8 (x.toNat + 2 ^ 32 * y.toNat)) h) (a + 8)

/-- R254: a bank that the channel does not own stays. -/
theorem State.saveFloat_other (hf : (s.chans.at (s.seqs.at n).cx).aff ≠ 1) :
    s.saveFloat n = .done (s.modSeq n fun q => { q with resv := none }) := by
  unfold State.saveFloat
  simp only [decide_eq_false hf, Bool.false_and, Bool.not_false, Bool.and_true, Bool.false_eq_true, if_false]

/-- A save with no window in the upper half and no float bank of the channel's own. -/
theorem State.saveRest_plain (a : Anchor) (hs : (s.seqs.at n).slots = []) (hf : (s.chans.at (s.seqs.at n).cx).aff ≠ 1) :
    s.saveRest n a = .done ((s.setAnchor n (s.seqs.at n).cx { a with uv := false }).modSeq n fun q => { q with resv := none }) := by
  have hup : s.saveUpper n a = some (s.setAnchor n (s.seqs.at n).cx { a with uv := false }) := if_pos hs
  unfold State.saveRest
  rw [hup]
  refine State.saveFloat_other ?_
  obtain ⟨r, hr⟩ := s.ctxWrite_seq n (descAddr (s.seqs.at n).cx + 48) ({ a with uv := false } : Anchor).words n
  have hcx : ((s.setAnchor n (s.seqs.at n).cx { a with uv := false }).seqs.at n).cx = (s.seqs.at n).cx :=
    (congrArg Seq.cx hr :)
  rw [hcx]
  have hchans : (s.setAnchor n (s.seqs.at n).cx { a with uv := false }).chans = s.chans :=
    (State.setAnchor_changes _ _ _ _).same .chans rfl
  rwa [hchans]

end save

/-! R254: the restore of a switch-in. -/

section load

theorem regs8_at (l : List W32) (i : Fin 8) : (regs8 l).at i = l.getD i.val 0 := Vector.getElem_ofFn _

theorem winUp_ne (w : Fin 8) : w ≠ winUp w 1 := by decide +revert

theorem fldN_ofNat (w : W32) : (Fin.ofNat 8 (fldN w 8 3)).val = fldN w 8 3 := by
  unfold fldN
  exact Nat.mod_eq_of_lt (Nat.lt_of_lt_of_le (BitVec.isLt _) (by decide))

/-- R239: the registers of a sequencer whose windows hold the words `l`. -/
theorem Seq.reg_of_words {q : Seq} {l : List W32} (hk : q.k = regs8 l) (ha : q.ringA.at q.cw = regs8 (l.drop 8))
    (hm : q.ringM.at q.cw = regs8 (l.drop 16)) (hd : q.ringA.at (winUp q.cw 1) = regs8 (l.drop 24)) {j : Nat} (hj : j < 32) :
    q.reg j = l.getD j 0 := by
  have hdrop (k : Nat) (h : k + j % 8 = j) : (regs8 (l.drop k)).at (Fin.ofNat 8 j) = l.getD j 0 := by
    rw [regs8_at, List.getD_eq_getElem?_getD, List.getElem?_drop, List.getD_eq_getElem?_getD]
    exact congrArg (fun i => l[i]?.getD 0) h
  have hlow (h : j % 8 = j) : (regs8 l).at (Fin.ofNat 8 j) = l.getD j 0 := hdrop 0 ((Nat.zero_add _).trans h)
  unfold Seq.reg
  obtain h | h | h | h : j / 8 % 4 = 0 ∨ j / 8 % 4 = 1 ∨ j / 8 % 4 = 2 ∨ j / 8 % 4 = 3 := by omega
  · rw [h, hk]
    exact hlow (by omega)
  · rw [h, ha]
    exact hdrop 8 (by omega)
  · rw [h, hm]
    exact hdrop 16 (by omega)
  · rw [h, hd]
    exact hdrop 24 (by omega)

/-- R254: a sequencer with the words `l` of the lower half of channel `c`; `f` counts the undefined values before. -/
def Seq.restored (q : Seq) (c : Fin 256) (l : List W32) (f : Nat) : Seq :=
  let cw := Fin.ofNat 8 (fldN (l.getD 34 0) 8 3)
  { q with
    k := regs8 l, pc := l.getD 32 0, stw := l.getD 33 0, cw := cw, wv := fld (l.getD 34 0) 0 8, cx := c
    tcause := l.getD 36 0, tval := l.getD 37 0, tvec := l.getD 38 0, resv := none
    ringA := ((freeRing f).upd cw (regs8 (l.drop 8))).upd (winUp cw 1) (regs8 (l.drop 24))
    ringM := (freeRing (f + 64)).upd cw (regs8 (l.drop 16)) }

theorem Seq.restored_reg (q : Seq) (c : Fin 256) (l : List W32) (f : Nat) {j : Nat} (hj : j < 32) : (q.restored c l f).reg j = l.getD j 0 :=
  Seq.reg_of_words rfl ((Bank.at_upd_ne _ _ (winUp_ne _)).trans (Bank.at_upd_self _ _ _)) (Bank.at_upd_self _ _ _)
    (Bank.at_upd_self _ _ _) hj

end load

/-- Settles O51. -/
theorem scheduling : Obligations.Scheduling := by
  unfold Obligations.Scheduling
  refine ⟨⟨fun o c => ?asks, fun s n p c h => ?best, fun s n p h d => ?nothing, fun s n => ?dispatch⟩, fun s y n => ?out,
    fun s y n a => ?save, fun s y z n c a l => ?load⟩
  case asks =>
    intro h y woken wakes s x el asks st stuck runs first no
    have hexec : exec (.schedulerRequest c) o = .next (s.schedule c) := exec_schedulerRequest o c s rfl
    have hasks {n : Fin 16} (hw : s.waiting c = true) (h : s.asked c = some n) : asks n :=
      hexec.trans (congrArg Host.Outcome.next (State.schedule_asks hw h))
    have hidle (h : no (st .idle)) : (s.candidates c).find? (fun n => decide ((s.seqs.at n).st = .idle)) = none :=
      State.asked_none fun m he k => h m he (of_decide_eq_true k)
    have hnap (h : no (st .nap)) : (s.candidates c).find? (fun n => decide ((s.seqs.at n).st = .nap)) = none :=
      State.asked_none fun m he k => h m he (of_decide_eq_true k)
    have hstuck (h : no stuck) : (s.candidates c).find? s.stuckOn = none :=
      State.asked_none fun m he k => h m he (State.stuckOn_iff.1 k)
    have hasked {a b d : Option (Fin 16)} (ha : (s.candidates c).find? (fun n => decide ((s.seqs.at n).st = .idle)) = a)
        (hb : (s.candidates c).find? (fun n => decide ((s.seqs.at n).st = .nap)) = b) (hd : (s.candidates c).find? s.stuckOn = d) :
        s.asked c = a.or (b.or (d.or (s.lowest c))) := by
      rw [← ha, ← hb, ← hd] <;> rfl
    clear_value s
    refine ⟨fun hw => ?_, fun hw => ⟨?_, ?_, ?_, ?_, ?_⟩, fun n => State.eligible_iff x⟩
    · exact hexec.trans (congrArg Host.Outcome.next (State.schedule_other hw))
    · rintro n ⟨he, hp, hlt⟩
      exact hasks hw (hasked (State.asked_of_first he (decide_eq_true hp) fun m hm he k => hlt m hm he (of_decide_eq_true k)) rfl rfl)
    · rintro n h1 ⟨he, hp, hlt⟩
      exact hasks hw (hasked (hidle h1) (State.asked_of_first he (decide_eq_true hp) fun m hm he k => hlt m hm he (of_decide_eq_true k)) rfl)
    · rintro n h1 h2 ⟨he, hp, hlt⟩
      exact hasks hw (hasked (hidle h1) (hnap h2)
        (State.asked_of_first he (State.stuckOn_iff.2 hp) fun m hm he k => hlt m hm he (State.stuckOn_iff.1 k)))
    · intro n h1 h2 h3 he hr hle hne
      exact hasks hw ((hasked (hidle h1) (hnap h2) (hstuck h3)).trans (State.lowest_of he hr hle hne))
    · intro h1 h2 h3 h4
      exact hexec.trans (congrArg Host.Outcome.next (State.schedule_none
        ((hasked (hidle h1) (hnap h2) (hstuck h3)).trans (State.lowest_none h4)) hw))
  case best =>
    obtain ⟨⟨hp, he⟩, hbest⟩ := (s.choose_spec n p).2 c h
    exact ⟨hp, he, fun d h1 h2 => hbest d ⟨h1, h2⟩⟩
  case nothing => exact fun hp => Bool.eq_false_iff.2 fun he => (s.choose_spec n p).1 h d ⟨hp, he⟩
  case dispatch =>
    intro q halts due
    have hexec : exec (.channelDispatch n) s = .next (s.dispatchT n) := rfl
    obtain ⟨s1, hs1⟩ : ∃ z, (if q.st = .switch then s else s.modDsq n fun x => { x with swOut := none }) = z := ⟨_, rfl⟩
    obtain ⟨d1, hd1⟩ : ∃ d, s1 = { s with dbg := d } := by
      rw [← hs1]
      split
      exacts [⟨s.dbg, rfl⟩, ⟨_, rfl⟩]
    have hnot (h : ¬ halts) : ∃ d, exec (.channelDispatch n) s = .next { s1.dispatch n with dbg := d } := by
      obtain ⟨d, hd⟩ := State.dispatchT_eq (s := s) (n := n) (Bool.eq_false_iff.2 fun k => h (State.haltsIdle_iff.1 k))
      exact ⟨d, hexec.trans (congrArg Host.Outcome.next (hd.trans (by rw [← hs1] <;> rfl)))⟩
    have hdue : s1.DispatchDue n ↔ s.seqUp n = true ∧ q.en = true ∧ (q.st = .switch ∨ ((q.st = .idle ∨ q.st = .nap) ∧ q.swReq = true)) := by
      rw [hd1] <;> exact Iff.rfl
    have hhalts (h : halts) : exec (.channelDispatch n) s = .next s :=
      hexec.trans (congrArg Host.Outcome.next (if_pos (State.haltsIdle_iff.2 h)))
    have hchoose {o : Option (Fin 256)} (h : s.choose n s.waiting = o) : s1.choose n s1.waiting = o := by
      rw [hd1] <;> exact h
    refine ⟨hhalts, fun h => ?early, fun ⟨hn, h⟩ hc => ?none, fun c ⟨hn, h⟩ hc => ?some⟩
    case early =>
      by_cases hh : halts
      · exact ⟨s.dbg, hhalts hh⟩
      · obtain ⟨d, hd⟩ := hnot hh
        refine ⟨d, hd.trans (congrArg Host.Outcome.next ?_)⟩
        rw [State.dispatch_early fun k => h ⟨hh, hdue.1 k⟩, hd1]
    case none =>
      obtain ⟨d, hd⟩ := hnot hn
      refine ⟨d, hd.trans (congrArg Host.Outcome.next ?_)⟩
      rw [State.dispatch_idle (hdue.2 h) (hchoose hc), hd1] <;> rfl
    case some =>
      intro s1' lost
      have hs : s1 = s1' := hs1.symm
      clear_value s1'
      subst hs
      obtain ⟨d, hd⟩ := hnot hn
      have hdis := State.dispatch_switchIn (hdue.2 h) (hchoose hc)
      have hres : (s1.chans.at c).res = false := by
        rw [hd1]
        exact State.waiting_res ((s.choose_spec n s.waiting).2 c hc).1.1
      have hnow : s1.now = s.now := by rw [hd1] <;> rfl
      have hlost {z : State} {f : FCause} {cs : ControlStore} (hn : z.now = s1.now) (hz : s1.switchIn n c = { z with
          cs := cs
          seqs := z.seqs.upd n { z.seqs.at n with cx := c, st := .switch, swReq := false }
          chans := z.chans.upd c ((z.chans.at c).lost f z.now) }) : lost z f cs := by
        refine ⟨d, hd.trans (congrArg Host.Outcome.next ?_)⟩
        rw [hdis, hz, hn, hnow] <;> rfl
      refine ⟨fun u z hz => ?cs, fun s0 z h0 hz => ?ecc, fun s0 y h0 hy => ?done⟩
      case cs =>
        obtain ⟨k, hk⟩ := s1.vendorFetch_frame n .switchIn
        rw [hz] at hk
        obtain rfl : z = _ := hk
        refine hlost rfl (Eq.trans ?_ (State.undispatched_csLost _ u hres))
        unfold State.switchIn
        rw [hz]
      case ecc =>
        obtain ⟨k, hk⟩ := s1.vendorFetch_frame n .switchIn
        rw [h0] at hk
        obtain rfl : s0 = _ := hk
        have hzc := (State.loadContext_changes _ n c).ecc hz
        have hchans : z.chans = s1.chans := hzc.same .chans rfl
        refine hlost (congrArg Beryl.td0 (hzc.same .beryl rfl :)) (Eq.trans ?_ (State.undispatched_lost z (hchans ▸ hres)))
        unfold State.switchIn
        rw [h0]
        dsimp only
        rw [hz]
      case done =>
        refine ⟨d, hd.trans (congrArg Host.Outcome.next ?_)⟩
        rw [hdis]
        unfold State.switchIn
        rw [h0]
        dsimp only
        rw [hy] <;> rfl
  case out =>
    intro q x due again
    have hexec : exec (.switchOut n) s = .next (s.switchOutT n) := rfl
    have hdue : due ↔ s.SwitchDue n ∧ s.haltNow n = none := by
      unfold State.SwitchDue
      simp only [and_assoc]
      exact Iff.rfl
    have hkept {z : State} (h : due) (hz : s.switchOut n = z) (hr : z.chans = s.chans) : exec (.switchOut n) s = .next z :=
      hexec.trans (congrArg Host.Outcome.next (State.switchOutT_kept (hdue.1 h).2 hz (by rw [hr])))
    have hsave {z : State} (h : due) (ha : ¬ again) (hz : (s.saveContext n).settle n = z) : ∃ d, exec (.switchOut n) s = .next { z with dbg := d } := by
      obtain ⟨d, hd⟩ := State.switchOutT_traced (hdue.1 h).2 ((State.switchOut_save (hdue.1 h).1 ha).trans hz)
      exact ⟨d, hexec.trans (congrArg Host.Outcome.next hd)⟩
    refine ⟨fun h => ?early, fun h ha => ?again, fun h ha hy => ?done, fun k h ha hy => ?pool, fun f cs h ha hy => ?lost⟩
    case early =>
      refine hexec.trans (congrArg Host.Outcome.next ?_)
      by_cases hh : s.haltNow n = none
      · exact State.switchOutT_kept hh (State.switchOut_early fun k => h (hdue.2 ⟨k, hh⟩)) rfl
      · exact State.switchOutT_halts hh
    case again => exact hkept h (State.switchOut_again (hdue.1 h).1 ha) rfl
    case done =>
      intro r c rd w0 stops applies moved stopped st freed
      obtain ⟨d, hd⟩ := hsave h ha (congrArg (fun v : Saved => v.settle n) hy)
      suffices hcore : ∃ d sq ch e w, y.switchedOut n = { y with
          dbg := d, seqs := sq, chans := y.chans.upd r.cx ch, mem := if stops && c.resumeRec then rd.2.mem else y.mem
          eic := e, power := w } ∧
          (st ≠ .off → applies = false → e = y.eic ∧ w = y.power) ∧
          (∀ m, let z := (y.seqs.upd n freed).at m
            sq.at m = if moved = true ∧ z.fownCh = r.cx then { z with fownV := false, fownD := false } else z) ∧
          (c.st = .run → r.stopI = false → ch = { c with st := .ready, since := y.now, res := false }) ∧
          (stops = true → c.resumeRec = false → ch = stopped) ∧
          (stops = true → c.resumeRec = true → rd.1 = none ∨ bit w0 29 = true → ch = { stopped with cmdIgn := true }) ∧
          (applies = true → ch = { stopped with
            st := .ready, since := y.now, config := (c.config &&& ~~~0x3FF00000) ||| (w0 &&& 0x3FF00000) }) ∧
          (c.st = .stopped ∨ c.st = .fault ∨ c.st = .blocked ∨ c.st = .ready ∨ c.st = .off ∨ c.st = .waitPool →
            ch = { c with res := false }) by
        obtain ⟨d', sq, ch, e, w, heq, hspec⟩ := hcore
        exact ⟨d, sq, ch, e, w, hd.trans (congrArg (fun z : State => Host.Outcome.next { z with dbg := d }) heq), hspec⟩
      obtain ⟨d1, e1, w1, hgiven, hkeep⟩ := y.givenUp_spec n
      have hstops : stops = true ↔ c.st = .run ∧ r.stopI = true ∨ c.st = .draining := by
        simp only [stops, Bool.or_eq_true, Bool.and_eq_true, decide_eq_true_eq]
      have hseqs (h : moved = false) (m : Fin 16) : (y.seqs.upd n (r.freed y.now)).at m =
          if moved = true ∧ ((y.seqs.upd n freed).at m).fownCh = r.cx then { (y.seqs.upd n freed).at m with fownV := false, fownD := false }
            else (y.seqs.upd n freed).at m := (if_neg fun k => Bool.false_ne_true (h.symm.trans k.1)).symm
      by_cases hs : stops = true
      case neg =>
        have hsf : stops = false := Bool.eq_false_iff.2 hs
        have hmoved : moved = false := by simp only [moved, applies, hsf, Bool.false_and]
        have happ : ¬ applies = true := by simp only [applies, hsf, Bool.false_and, Bool.false_eq_true, not_false_iff]
        have hmem : (if stops && c.resumeRec then rd.2.mem else y.mem) = y.mem := by simp only [hsf, Bool.false_and, Bool.false_eq_true, if_false]
        have hdrain : c.st ≠ .draining := fun k => hs (hstops.2 (.inr k))
        rw [hmem]
        by_cases hrun : c.st = .run
        · have hstop : r.stopI ≠ true := fun k => hs (hstops.2 (.inl ⟨hrun, k⟩))
          refine ⟨d1, y.seqs.upd n (r.freed y.now), { c with st := .ready, since := y.now, res := false }, e1, w1, ?_, fun h _ => (hkeep h).2,
            hseqs hmoved, fun _ _ => rfl, fun h => absurd h hs, fun h => absurd h hs, fun h => absurd h happ, fun h => ?_⟩
          · refine (State.switchedOut_eq hrun).trans ((if_neg hstop).trans ?_)
            rw [hgiven]
            exact congrArg (fun b => ({ y with dbg := _, eic := _, power := _, seqs := _, chans := b } : State)) (Bank.mod_upd_self _ _ _ _)
          · rw [hrun] at h
            simp at h
        · refine ⟨d1, y.seqs.upd n (r.freed y.now), { c with res := false }, e1, w1, ?_, fun h _ => (hkeep h).2,
            hseqs hmoved, fun h => absurd h hrun, fun h => absurd h hs, fun h => absurd h hs, fun h => absurd h happ, fun _ => rfl⟩
          refine Eq.trans ?_ hgiven
          cases hc : c.st
          all_goals refine (State.switchedOut_eq hc).trans ?_
          case run => exact absurd hc hrun
          case draining => exact absurd hc hdrain
          all_goals rfl
      case pos =>
        have hstop : y.switchedOut n = (y.givenUp n).stopChan n.val r.cx := by
          rcases hstops.1 hs with ⟨hrun, hi⟩ | hdrain
          · exact (State.switchedOut_eq hrun).trans (if_pos hi)
          · exact State.switchedOut_eq hdrain
        have hnot (h : c.st = .stopped ∨ c.st = .fault ∨ c.st = .blocked ∨ c.st = .ready ∨ c.st = .off ∨ c.st = .waitPool) : False := by
          rcases hstops.1 hs with ⟨hc, -⟩ | hc <;> rw [hc] at h <;> simp at h
        have hnorun (h : c.st = .run) (hi : r.stopI = false) : False := by
          rcases hstops.1 hs with ⟨-, k⟩ | k
          · exact Bool.false_ne_true (hi.symm.trans k)
          · exact nomatch h.symm.trans k
        have hchan : (y.givenUp n).chans.at r.cx = { c with res := false } := by
          rw [hgiven]
          exact Bank.at_upd_self _ _ _
        cases hrec : c.resumeRec
        case false =>
          have happ : applies = false := by simp only [applies, hrec, Bool.and_false, Bool.false_and]
          have hmoved : moved = false := by simp only [moved, happ, Bool.false_and]
          refine ⟨d1, y.seqs.upd n (r.freed y.now), stopped, e1, w1, ?_, fun h _ => (hkeep h).2, hseqs hmoved,
            fun h hi => (hnorun h hi).elim, fun _ _ => rfl, fun _ h => absurd h Bool.false_ne_true,
            fun h => absurd h (Bool.eq_false_iff.1 happ), fun h => (hnot h).elim⟩
          refine hstop.trans ((State.stopChan_fresh (by rw [hchan]; exact hrec)).trans ?_)
          rw [hgiven, Bool.and_false, if_neg Bool.false_ne_true]
          exact congrArg (fun b => ({ y with dbg := _, eic := _, power := _, seqs := _, chans := b } : State)) (Bank.mod_upd_self _ _ _ _)
        case true =>
          have hres : y.switchedOut n = ((y.givenUp n).modChan r.cx Channel.stopped).resume n.val r.cx :=
            hstop.trans (State.stopChan_resumes (by rw [hchan]; exact hrec))
          have hz : (y.givenUp n).modChan r.cx Channel.stopped = { y with
              dbg := d1, eic := e1, power := w1, seqs := y.seqs.upd n (r.freed y.now), chans := y.chans.upd r.cx stopped } := by
            rw [hgiven]
            exact congrArg (fun b => ({ y with dbg := _, eic := _, power := _, seqs := _, chans := b } : State)) (Bank.mod_upd_self _ _ _ _)
          have hread : ((y.givenUp n).modChan r.cx Channel.stopped).memRead n.val (descAddr r.cx) 4 = (rd.1, { y with
              dbg := d1, eic := e1, power := w1, seqs := y.seqs.upd n (r.freed y.now), chans := y.chans.upd r.cx stopped, mem := rd.2.mem }) := by
            rw [hz] <;> rfl
          rw [Bool.and_true, hs, if_pos rfl]
          by_cases hbad : rd.1 = none ∨ bit w0 29 = true
          · have happ : applies = false := by
              simp only [applies]
              rcases hbad with h | h <;> rw [h] <;> simp
            have hmoved : moved = false := by simp only [moved, happ, Bool.false_and]
            refine ⟨d1, y.seqs.upd n (r.freed y.now), { stopped with cmdIgn := true }, e1, w1, ?_, fun h _ => (hkeep h).2, hseqs hmoved,
              fun h hi => (hnorun h hi).elim, fun _ h => absurd h.symm Bool.false_ne_true, fun _ _ _ => rfl,
              fun h => absurd h (Bool.eq_false_iff.1 happ), fun h => (hnot h).elim⟩
            refine hres.trans ((State.resume_refused hread hbad).trans ?_)
            exact congrArg (fun b => ({ y with dbg := _, eic := _, power := _, seqs := _, chans := b, mem := _ } : State)) (Bank.mod_upd_self _ _ _ _)
          · obtain ⟨v, hv⟩ : ∃ v, rd.1 = some v := Option.ne_none_iff_exists'.1 fun k => hbad (.inl k)
            have hw0 : w0 = BitVec.ofNat 32 v := congrArg (fun o : Option Nat => BitVec.ofNat 32 (o.getD 0)) hv
            have hbit : bit w0 29 = false := Bool.eq_false_iff.2 fun k => hbad (.inr k)
            have happ : applies = true := by
              simp only [applies]
              rw [hs, hrec, hv, hbit] <;> rfl
            rw [hv] at hread
            have hat : (y.chans.upd r.cx stopped).at r.cx = stopped := Bank.at_upd_self _ _ _
            have heq := hres.trans (State.resume_applies hread (hw0 ▸ hbit))
            dsimp only at heq
            rw [hat, ← hw0] at heq
            obtain ⟨sq, hsq⟩ : ∃ q, q = if fldN c.config 24 6 = fldN w0 24 6 then y.seqs.upd n (r.freed y.now) else
                (y.seqs.upd n (r.freed y.now)).map fun q => if q.fownCh = r.cx then { q with fownV := false, fownD := false } else q := ⟨_, rfl⟩
            obtain ⟨d2, e2, w2, hset⟩ : ∃ d e w, y.switchedOut n = { y with
                dbg := d, eic := e, power := w, seqs := sq, chans := y.chans.upd r.cx (stopped.resumedAs w0 y.now), mem := rd.2.mem } := by
              obtain ⟨d, e, w, hset⟩ := State.eicSettle_spec _
              refine ⟨d, e, w, heq.trans (hset.trans ?_)⟩
              rw [hsq]
              exact congrArg (fun b => ({ y with dbg := _, eic := _, power := _, seqs := _, chans := b, mem := _ } : State)) (Bank.upd_upd _ _ _ _)
            refine ⟨d2, sq, stopped.resumedAs w0 y.now, e2, w2, hset, fun _ h => absurd (h.symm.trans happ) Bool.false_ne_true,
              fun m => ?_, fun h hi => (hnorun h hi).elim, fun _ h => absurd h.symm Bool.false_ne_true, fun _ _ h => absurd h hbad, fun _ => rfl,
              fun h => (hnot h).elim⟩
            rw [hsq]
            by_cases hsame : fldN c.config 24 6 = fldN w0 24 6
            · have hmoved : moved = false := by simp [moved, hsame]
              rw [if_pos hsame]
              exact hseqs hmoved m
            · have hmoved : moved = true := by simp [moved, happ, Ne.symm hsame]
              rw [if_neg hsame, Bank.at_map]
              exact if_congr (and_iff_right hmoved).symm rfl rfl
    case pool =>
      intro c
      have hchans : y.chans = s.chans := (s.saveContext_chans n).pool hy
      obtain ⟨hfault, hdrain, hother, hres⟩ := c.pooled_spec
      have hz : s.switchOut n = y.enterPool n (.switchOut k) :=
        (State.switchOut_save (hdue.1 h).1 ha).trans (congrArg (fun v : Saved => v.settle n) hy)
      refine ⟨_, c.pooled, hexec.trans (congrArg Host.Outcome.next (State.switchOutT_kept (hdue.1 h).2 (hz.trans (y.enterPool_eq n _)) ?_)),
        rfl, hfault, hdrain, hother⟩
      rw [← hchans]
      by_cases hcx : q.cx = (y.seqs.at n).cx
      · rw [hcx]
        exact (congrArg Channel.res (Bank.at_upd_self _ _ _)).trans hres
      · exact congrArg Channel.res (Bank.at_upd_ne _ _ hcx)
    case lost =>
      intro r c c1 st hres
      have hlost {g : FCause} {k : ControlStore} (hz : (s.saveContext n).settle n = ({ y with cs := k } : State).ctxLost n g) :
          ∃ d z e w, exec (.switchOut n) s = .next { y with
            dbg := d, cs := k, eic := e, power := w, seqs := y.seqs.upd n z, chans := y.chans.upd r.cx (c.lost g y.now) } ∧
            z.st = st ∧ z.swReq = false ∧ (st ≠ .off → e = y.eic ∧ w = y.power) := by
        obtain ⟨d, hd⟩ := hsave h ha (hz.trans (State.ctxLost_held g rfl hres))
        obtain ⟨d', e, w, hfreed, hkeep⟩ := (({ y with cs := k } : State).modChan r.cx fun x => x.lost g y.now).seqFreed_spec n
        refine ⟨d, r.freed y.now, e, w, hd.trans (congrArg Host.Outcome.next ?_), rfl, rfl, fun h => (hkeep h).2⟩
        exact congrArg (fun z : State => { z with dbg := d }) hfreed
      rcases hy with ⟨hy, rfl, rfl⟩ | ⟨u, hy, rfl, rfl⟩
      · exact hlost (congrArg (fun v : Saved => v.settle n) hy)
      · exact hlost (congrArg (fun v : Saved => v.settle n) hy)
  case save =>
    intro q words cs save ha
    have haddr : nodeAddr a.lower = 0x1420000 + 0x100 * a.lower.val := rfl
    obtain ⟨m, rfl⟩ := State.anchor_seqs ha
    have hlower (k : ControlStore) : ({ s with mem := m, cs := k } : State).saveLower n a =
        (({ s with mem := m, cs := k } : State).ctxWrite n (0x1420000 + 0x100 * a.lower.val) words).uw n 56 :=
      congrArg (fun l => (State.ctxWrite { s with mem := m, cs := k } n (nodeAddr a.lower) l).uw n 56) q.lower_eq
    refine ⟨fun hu hc => ?clean, ?from2, rfl, fun hu hs hf => ?plain⟩
    case clean =>
      unfold State.saveContext
      rw [State.vendorFetch_clean .switchOut hu hc]
      dsimp only
      rw [ha]
      exact congrArg (fun z : State => z.saveRest n a) (hlower s.cs)
    case from2 =>
      unfold State.saveFrom
      rw [if_neg (by decide), ha]
    case plain =>
      obtain ⟨k, hk⟩ := s.vendorFetch_frame n .switchOut
      have hfetch : s.vendorFetch n .switchOut = (none, { s with cs := k }) := Prod.ext (State.vendorFetch_none .switchOut hu) hk
      have hw := State.anchor_cs ha k
      obtain ⟨w, hweq⟩ : ∃ w, (({ s with mem := m, cs := k } : State).ctxWrite n (0x1420000 + 0x100 * a.lower.val) words).uw n 56 = w :=
        ⟨_, rfl⟩
      have hctx : s.saveContext n = w.saveRest n a := by
        unfold State.saveContext
        rw [hfetch]
        dsimp only
        rw [hw]
        exact congrArg (fun z : State => z.saveRest n a) ((hlower k).trans hweq)
      obtain ⟨r, hr⟩ := ({ s with mem := m, cs := k } : State).ctxWrite_seq n (0x1420000 + 0x100 * a.lower.val) words n
      have hseq : w.seqs.at n = { q with uwcnt := q.uwcnt + 56, resv := r } := by
        rw [← hweq]
        refine (Bank.at_mod_self _ _ _).trans ?_
        rw [hr] <;> rfl
      obtain ⟨hchans, hpool⟩ : w.chans = s.chans ∧ w.pool = s.pool := by
        have hk := State.ctxWrite_changes { s with mem := m, cs := k } n (0x1420000 + 0x100 * a.lower.val) words
        rw [← hweq]
        exact ⟨hk.same .chans rfl, hk.same .pool rfl⟩
      have hcx : (w.seqs.at n).cx = q.cx := (congrArg Seq.cx hseq :)
      have hwslots : (w.seqs.at n).slots = [] := (congrArg Seq.slots hseq : _).trans hs
      have hmem : w.mem = (({ s with mem := m } : State).ctxWrite n (0x1420000 + 0x100 * a.lower.val) words).mem := by
        rw [← hweq]
        exact State.ctxWrite_mem rfl _ _ _
      have haff : (w.chans.at (w.seqs.at n).cx).aff ≠ 1 := by rwa [hcx, hchans]
      refine ⟨_, hctx.trans (State.saveRest_plain a hwslots haff), ?mem, ?seq, ?chans, ?pool⟩
      case mem =>
        rw [hcx]
        exact State.ctxWrite_mem hmem _ _ _
      case seq =>
        obtain ⟨r', hr'⟩ := w.ctxWrite_seq n (descAddr (w.seqs.at n).cx + 48) ({ a with uv := false } : Anchor).words n
        refine (Bank.at_mod_self _ _ _).trans ?_
        exact (congrArg (fun q : Seq => { q with resv := none }) (hr'.trans (congrArg (fun q : Seq => { q with resv := r' }) hseq)) :)
      case chans => exact Eq.trans (b := w.chans) ((State.setAnchor_changes w n (w.seqs.at n).cx { a with uv := false }).same .chans rfl) hchans
      case pool => exact Eq.trans (b := w.pool) ((State.setAnchor_changes w n (w.seqs.at n).cx { a with uv := false }).same .pool rfl) hpool
  case load =>
    intro ha huv hl w
    obtain ⟨m, rfl⟩ : ∃ m, y = { s with mem := m } := by
      obtain ⟨m, hm, -⟩ := s.anchor_frame n c
      rw [ha] at hm
      exact ⟨m, hm⟩
    obtain ⟨m', hm', -⟩ := ({ s with mem := m } : State).ctxRead_frame n (0x1420000 + 0x100 * a.lower.val) 20
    rw [hl] at hm'
    obtain rfl : z = { s with mem := m' } := hm'
    have hl' : ({ s with mem := m } : State).ctxRead n (nodeAddr a.lower) 20 = (some l, { s with mem := m' }) := hl
    have hload : ∃ t, s.loadContext n c = .done t ∧ t = (({ s with
        mem := m', free := s.free + 128
        seqs := s.seqs.upd n ((s.seqs.at n).restored c l s.free) } : State).uw n 96) := by
      unfold State.loadContext
      rw [ha]
      dsimp only
      rw [hl']
      dsimp only
      rw [huv]
      exact ⟨_, rfl, rfl⟩
    obtain ⟨t, ht, rfl⟩ := hload
    have hseq : ((({ s with
        mem := m', free := s.free + 128
        seqs := s.seqs.upd n ((s.seqs.at n).restored c l s.free) } : State).uw n 96).seqs.at n) =
        { (s.seqs.at n).restored c l s.free with uwcnt := (s.seqs.at n).uwcnt + 96 } := by
      refine (Bank.at_mod_self _ _ _).trans ?_
      rw [Bank.at_upd_self] <;> rfl
    refine ⟨_, ht, ?_⟩
    dsimp only
    rw [hseq]
    exact ⟨fun j hj => Seq.restored_reg { s.seqs.at n with uwcnt := (s.seqs.at n).uwcnt + 96 } c l s.free hj, rfl, rfl, fldN_ofNat w, rfl, rfl, rfl, rfl, rfl, rfl, rfl, rfl, rfl, rfl⟩

end Sys2Proof.Machine

namespace Sys2Proof.Machine

/-! R275, R277, R278: the ALU group. -/

section alu
variable {s z : State} {n : Fin 16} {m : Mn} {w : W32} {op : AluOp} {k : Nat}

/-- The change of an ALU instruction with result `r` and flags `f`. -/
def Seq.aluResult (q : Seq) (w r : W32) (f : Nzcv) : Seq := if bit w 10 then (q.setReg (rdF w) r).setFlags f else q.setReg (rdF w) r

/-- The registers of an instruction that go where they went. -/
structure Seq.Kept (q r : Seq) : Prop where
  cxv : r.cxv = q.cxv
  cx : r.cx = q.cx
  pc : r.pc = q.pc
  uwcnt : r.uwcnt = q.uwcnt

theorem Seq.kept_setReg (q : Seq) (r : Nat) (v : W32) : q.Kept (q.setReg r v) := ⟨by simp, by simp, by simp, by simp⟩

theorem Seq.Kept.setFlags {q r : Seq} (h : q.Kept r) (f : Nzcv) : q.Kept (r.setFlags f) := ⟨h.cxv, h.cx, h.pc, h.uwcnt⟩

theorem Seq.kept_aluResult (q : Seq) (w r : W32) (f : Nzcv) : q.Kept (q.aluResult w r f) := by
  unfold Seq.aluResult
  split
  · exact (q.kept_setReg _ _).setFlags f
  · exact q.kept_setReg _ _

/-- An instruction that changes the registers alone and goes on at the next. -/
theorem State.At.moves (h : s.At n m w z) {f : Seq → Seq} (hs : m.sem z n w = .done (z.modSeq n f) k none)
    (hf : (z.seqs.at n).Kept (f (z.seqs.at n))) : s.macro_ n (some m) = z.after n k ((z.seqs.at n).pc + 4) f :=
  h.regs hs hf.cxv hf.cx hf.pc hf.uwcnt

/-- R275: the flags after a result, where `cy` and `ov` are its carry and its overflow. -/
def aluNzcv (r : W32) (cy ov : Bool) : Nzcv := { n := bit r 31, z := decide (r = 0), c := cy, v := ov }

/-- R277: an operation whose result goes to rd. -/
theorem State.At.alu (h : s.At n m w z) (hs : m.sem z n w = z.aluR n w op k) {r : W32} {cy ov : Bool}
    (hr : op.value ((z.seqs.at n).reg (rsF w)) ((z.seqs.at n).reg (rtF w)) (bit (z.seqs.at n).stw 1) = r)
    (hc : (op.carry ((z.seqs.at n).reg (rsF w)) ((z.seqs.at n).reg (rtF w)) (bit (z.seqs.at n).stw 1)).getD (bit (z.seqs.at n).stw 1) = cy)
    (hv : (op.ovf ((z.seqs.at n).reg (rsF w)) ((z.seqs.at n).reg (rtF w)) r).getD (bit (z.seqs.at n).stw 0) = ov) :
    s.macro_ n (some m) = z.after n k ((z.seqs.at n).pc + 4) fun q => q.aluResult w r (aluNzcv r cy ov) := by
  refine h.moves (hs.trans ?_) (Seq.kept_aluResult _ _ _ _)
  subst hr hc hv
  rfl

/-- CMP and TST: the flags alone. -/
theorem State.At.aluFlagged (h : s.At n m w z) (hs : m.sem z n w = z.aluF n w op) {r : W32} {cy ov : Bool}
    (hr : op.value ((z.seqs.at n).reg (rsF w)) ((z.seqs.at n).reg (rtF w)) (bit (z.seqs.at n).stw 1) = r)
    (hc : (op.carry ((z.seqs.at n).reg (rsF w)) ((z.seqs.at n).reg (rtF w)) (bit (z.seqs.at n).stw 1)).getD (bit (z.seqs.at n).stw 1) = cy)
    (hv : (op.ovf ((z.seqs.at n).reg (rsF w)) ((z.seqs.at n).reg (rtF w)) r).getD (bit (z.seqs.at n).stw 0) = ov) :
    s.macro_ n (some m) = z.after n 2 ((z.seqs.at n).pc + 4) fun q => q.setFlags (aluNzcv r cy ov) := by
  refine h.moves (hs.trans ?_) ⟨rfl, rfl, rfl, rfl⟩
  subst hr hc hv
  rfl

/-- R278: an addition or a subtraction that traps where it overflows. -/
theorem State.At.aluTraps (h : s.At n m w z) (hs : m.sem z n w = z.aluT n w op)
    (hv : op.ovf ((z.seqs.at n).reg (rsF w)) ((z.seqs.at n).reg (rtF w))
      (op.value ((z.seqs.at n).reg (rsF w)) ((z.seqs.at n).reg (rtF w)) (bit (z.seqs.at n).stw 1)) = some true) :
    s.macro_ n (some m) = z.trapsTo n 2 { code := 16, detail := 1, tval := w } :=
  h.trap (hs.trans (if_pos hv))

theorem State.aluT_fits (hv : op.ovf ((z.seqs.at n).reg (rsF w)) ((z.seqs.at n).reg (rtF w))
      (op.value ((z.seqs.at n).reg (rsF w)) ((z.seqs.at n).reg (rtF w)) (bit (z.seqs.at n).stw 1)) = some false) :
    z.aluT n w op = z.aluR n w op 2 := if_neg (by rw [hv]; decide)

theorem getD_shift (p : Prop) [Decidable p] (x c : Bool) : (if p then none else some x : Option Bool).getD c = if p then c else x := by
  split <;> rfl

theorem ite_slt (a b x y : W32) : (if a.slt b = true then x else y) = if a.toInt < b.toInt then x else y :=
  if_congr decide_eq_true_iff rfl rfl

theorem ite_ult (a b x y : W32) : (if a.ult b = true then x else y) = if a.toNat < b.toNat then x else y :=
  if_congr decide_eq_true_iff rfl rfl

theorem putB_not (b : Bool) : putB 0 (!b) = if b = true then 0 else 1 := by cases b <;> rfl

theorem b2n_not (b : Bool) : b2n (!b) = if b = true then 0 else 1 := by cases b <;> rfl

/-- R278: quotient, remainder and V of a division by other than 0. -/
theorem divide_unsigned {a b : W32} (h : b ≠ 0) : divide false a b = (a / b, a % b, false) := by
  unfold divide
  simp only [h, if_false, Bool.false_eq_true]
  refine congrArg₂ (fun x y => (x, y, false)) ?_ ?_
  · rw [← BitVec.toNat_udiv, BitVec.ofNat_toNat, BitVec.setWidth_eq]
  · rw [← BitVec.toNat_umod, BitVec.ofNat_toNat, BitVec.setWidth_eq]

theorem divide_signed {a b : W32} (h : b ≠ 0) : divide true a b = (a.sdiv b, a.srem b, decide (a = 0x80000000 ∧ b = 0xFFFFFFFF)) := by
  unfold divide
  simp only [h, if_false, if_true]
  split
  · next hl =>
    obtain ⟨rfl, rfl⟩ := hl
    rfl
  · next hl =>
    rw [decide_eq_false hl]
    refine congrArg₂ (fun x y => (x, y, false)) ?_ ?_
    · exact BitVec.eq_of_toInt_eq (by rw [BitVec.toInt_ofInt, BitVec.toInt_sdiv])
    · rw [← BitVec.toInt_srem, BitVec.ofInt_toInt]

/-- R278: a division that does not trap. -/
theorem State.At.divides (h : s.At n m w z) {signed rem : Bool} (hs : m.sem z n w = z.aluD n w signed rem) {x y : W32} {ov : Bool}
    (hd : divide signed ((z.seqs.at n).reg (rsF w)) ((z.seqs.at n).reg (rtF w)) = (x, y, ov))
    (ht : ¬ ((z.seqs.at n).reg (rtF w) = 0 ∧ bit (z.seqs.at n).stw 8 = true)) :
    s.macro_ n (some m) = z.after n (if (z.seqs.at n).reg (rtF w) = 0 then 4 else 38) ((z.seqs.at n).pc + 4)
      fun q => q.aluResult w (if rem = true then y else x) (aluNzcv (if rem = true then y else x) (bit (z.seqs.at n).stw 1) ov) := by
  refine h.moves (hs.trans ?_) (Seq.kept_aluResult _ _ _ _)
  unfold State.aluD
  dsimp only
  rw [hd]
  exact if_neg ht

theorem State.At.divideTraps (h : s.At n m w z) {signed rem : Bool} (hs : m.sem z n w = z.aluD n w signed rem)
    (hb : (z.seqs.at n).reg (rtF w) = 0) (ht : bit (z.seqs.at n).stw 8 = true) :
    s.macro_ n (some m) = z.trapsTo n 2 { code := 16, detail := 2, tval := w } :=
  h.trap (hs.trans (if_pos ⟨hb, ht⟩))

theorem divide_zero (signed : Bool) (a : W32) : divide signed a 0 = (0xFFFFFFFF, a, true) := rfl

end alu

/-- Settles O52. -/
theorem macroArithmetic : Obligations.MacroArithmetic := by
  unfold Obligations.MacroArithmetic
  intro s z n w q a b c v k flags to_ row adds subs arith div least
  have hrow {i : Instr} {m : Mn} {op : AluOp} {u : Nat} {r : W32} {cy ov : Bool} (hi : exec i s = .next (s.macro_ n (some m)))
      (hs : m.sem z n w = z.aluR n w op u) (hr : op.value a b c = r) (hc : (op.carry a b c).getD c = cy) (hv : (op.ovf a b r).getD v = ov) :
      row i m u r cy ov := fun h => hi.trans (congrArg Host.Outcome.next (h.alu hs hr hc hv))
  have hdiv {i : Instr} {m : Mn} {signed rem : Bool} {x y : W32} {ov : Bool} (hi : exec i s = .next (s.macro_ n (some m)))
      (hs : m.sem z n w = z.aluD n w signed rem) (hd : b ≠ 0 → divide signed a b = (x, y, ov)) :
      div i m (if rem = true then a else 0xFFFFFFFF) (if rem = true then y else x) ov := by
    refine ⟨fun hb h => ?_, fun hb ht h => ?_, fun hb ht h => hi.trans (congrArg Host.Outcome.next (h.divideTraps hs hb ht))⟩
    · have hrun := h.divides hs (hd hb) fun k => hb k.1
      rw [if_neg hb] at hrun
      exact hi.trans (congrArg Host.Outcome.next hrun)
    · have hrun := h.divides hs ((congrArg (divide signed a) hb).trans (divide_zero signed a)) fun k => Bool.false_ne_true (ht.symm.trans k.2)
      rw [if_pos hb] at hrun
      exact hi.trans (congrArg Host.Outcome.next hrun)
  refine ⟨hrow rfl rfl rfl rfl rfl, hrow rfl rfl rfl rfl rfl, hrow rfl rfl rfl rfl rfl, ?sbc, ?addt, ?addtTraps, ?subt, ?subtTraps,
    ?cmp, ?tst, hrow rfl rfl rfl rfl rfl, hrow rfl rfl rfl rfl rfl, hrow rfl rfl rfl rfl rfl, hrow rfl rfl rfl rfl rfl, hrow rfl rfl rfl rfl rfl,
    hrow rfl rfl rfl (getD_shift _ _ _) rfl, hrow rfl rfl rfl (getD_shift _ _ _) rfl, hrow rfl rfl rfl (getD_shift _ _ _) rfl, hrow rfl rfl rfl (getD_shift _ _ _) rfl,
    hrow rfl rfl rfl rfl rfl, hrow rfl rfl rfl rfl rfl, hrow rfl rfl rfl rfl rfl, ?divu, ?divs, ?remu, ?rems,
    hrow rfl rfl (ite_slt _ _ _ _) rfl rfl, hrow rfl rfl (ite_slt _ _ _ _) rfl rfl, hrow rfl rfl (ite_ult _ _ _ _) rfl rfl, hrow rfl rfl (ite_ult _ _ _ _) rfl rfl,
    hrow rfl rfl rfl rfl rfl, hrow rfl rfl rfl rfl rfl, hrow rfl rfl rfl rfl rfl, hrow rfl rfl rfl rfl rfl, hrow rfl rfl rfl rfl rfl,
    hrow rfl rfl (ite_slt _ _ _ _) rfl rfl, hrow rfl rfl (ite_ult _ _ _ _) rfl rfl⟩
  case sbc => exact hrow rfl rfl (congrArg (a - b - ·) (putB_not c)) (by rw [← b2n_not]; rfl) rfl
  case addt => exact fun hf h => congrArg Host.Outcome.next (h.alu (State.aluT_fits (congrArg some hf)) rfl rfl (congrArg (fun x => (some x).getD v) hf))
  case addtTraps => exact fun hf h => congrArg Host.Outcome.next (h.aluTraps rfl (congrArg some hf))
  case subt => exact fun hf h => congrArg Host.Outcome.next (h.alu (State.aluT_fits (congrArg some hf)) rfl rfl (congrArg (fun x => (some x).getD v) hf))
  case subtTraps => exact fun hf h => congrArg Host.Outcome.next (h.aluTraps rfl (congrArg some hf))
  case cmp => exact fun h => congrArg Host.Outcome.next (h.aluFlagged rfl rfl rfl rfl)
  case tst => exact fun h => congrArg Host.Outcome.next (h.aluFlagged rfl rfl rfl rfl)
  case divu => exact hdiv (m := .divu) (rem := false) rfl rfl fun h => divide_unsigned h
  case divs => exact hdiv (m := .divs) (rem := false) rfl rfl fun h => divide_signed h
  case remu => exact hdiv (m := .remu) (rem := true) rfl rfl fun h => divide_unsigned h
  case rems => exact hdiv (m := .rems) (rem := true) rfl rfl fun h => divide_signed h

end Sys2Proof.Machine

namespace Sys2Proof.Machine

/-! R279 to R281, R288 to R290: shifts, bit fields, immediates and branches. -/

section imm
variable {s z : State} {n : Fin 16} {m : Mn} {w : W32} {k : Nat}

theorem State.At.putRd (h : s.At n m w z) {v : W32} (hs : m.sem z n w = z.putRd n w v k) :
    s.macro_ n (some m) = z.after n k ((z.seqs.at n).pc + 4) fun q => q.setReg (rdF w) v :=
  h.moves hs (Seq.kept_setReg _ _ _)

theorem fldN_lt {v : Nat} (x : BitVec v) (lo len : Nat) : fldN x lo len < 2 ^ len := BitVec.isLt _

theorem amount_saF (w : W32) : amount (BitVec.ofNat 32 (saF w)) = saF w := by
  have hlt : saF w < 32 := fldN_lt w 6 5
  unfold amount fldN
  rw [BitVec.extractLsb'_toNat, BitVec.toNat_ofNat, Nat.shiftRight_zero, Nat.mod_eq_of_lt (Nat.lt_trans hlt (by decide)), Nat.mod_eq_of_lt hlt]

/-- R279: bit by bit, a field of `k` bits from `lsb` up. -/
theorem getLsbD_extU (x : W32) (lsb k : Nat) {j : Nat} (hj : j < 32) : (extU x lsb k).getLsbD j = (decide (j < k) && x.getLsbD (lsb + j)) := by
  unfold extU fldN
  rw [BitVec.ofNat_toNat, BitVec.getLsbD_setWidth, BitVec.getLsbD_extractLsb', decide_eq_true hj, Bool.true_and]

theorem getLsbD_extS (x : W32) (lsb k : Nat) {j : Nat} (hj : j < 32) : (extS x lsb (k + 1)).getLsbD j = x.getLsbD (lsb + min j k) := by
  unfold extS
  rw [BitVec.getLsbD_signExtend, decide_eq_true hj, Bool.true_and]
  by_cases h : j < k + 1
  · rw [if_pos h, BitVec.getLsbD_extractLsb', decide_eq_true h, Bool.true_and, Nat.min_eq_left (by omega)]
  · rw [if_neg h, BitVec.msb_eq_getLsbD_last, BitVec.getLsbD_extractLsb', decide_eq_true (by omega), Bool.true_and, Nat.min_eq_right (by omega)]
    rfl

theorem getLsbD_insert (old x : W32) (lsb k : Nat) {j : Nat} (hj : j < 32) :
    (insert old x lsb (k + 1)).getLsbD j = if lsb ≤ j ∧ j ≤ lsb + k then x.getLsbD (j - lsb) else old.getLsbD j := by
  unfold insert
  have hmask : (BitVec.ofNat 32 ((2 ^ (k + 1) - 1) * 2 ^ lsb)).getLsbD j = decide (lsb ≤ j ∧ j ≤ lsb + k) := by
    rw [BitVec.getLsbD_ofNat, decide_eq_true hj, Bool.true_and, Nat.testBit_mul_two_pow, Nat.testBit_two_pow_sub_one, Bool.decide_and]
    by_cases h : lsb ≤ j
    · rw [decide_eq_true h, decide_eq_decide.2 (show j - lsb < k + 1 ↔ j ≤ lsb + k by omega)]
    · rw [decide_eq_false h] <;> rfl
  have hshift (h : lsb ≤ j) : (x <<< lsb).getLsbD j = x.getLsbD (j - lsb) := by
    rw [BitVec.getLsbD_shiftLeft, decide_eq_true hj, decide_eq_false (by omega)] <;> rfl
  refine (bit_mrg _ old (x <<< lsb) j).trans ?_
  unfold bit
  rw [hmask]
  by_cases h : lsb ≤ j ∧ j ≤ lsb + k
  · rw [if_pos (decide_eq_true h), if_pos h, hshift h.1]
  · rw [if_neg (by rwa [decide_eq_true_eq]), if_neg h]

theorem sub_eq_zero_iff (a b : W32) : decide (a - b = 0) = decide (a = b) := decide_eq_decide.2 sub_eq_zero

theorem Seq.special_eq (q : Seq) (c : Nat) : q.special c =
    ([q.pc, q.stw, BitVec.ofNat 32 q.cw.val, q.wv.setWidth 32, BitVec.ofNat 32 q.cx.val] : List W32).getD c 0 := by
  match c with
  | 0 | 1 => rfl
  | 2 | 4 => exact congrArg (BitVec.ofNat 32) (Nat.mul_one _)
  | 3 => exact (congrArg (BitVec.ofNat 32) (Nat.mul_one _)).trans (BitVec.ofNat_toNat _ _)
  | _ + 5 => rfl

/-- R288: the conditions of Bcc, in the order of their codes. -/
theorem Nzcv.cond_eq (f : Nzcv) {c : Nat} (hc : c < 16) : f.cond c = ([true, f.z, !f.z, !f.c, f.c, !f.c || f.z, f.c && !f.z, f.n != f.v, f.n == f.v,
    f.z || f.n != f.v, !f.z && f.n == f.v, f.n, !f.n, f.v, !f.v] : List Bool).getD c false := by
  interval_cases c <;> rfl

end imm

/-- Settles O53. -/
theorem macroImmediatesAndBranches : Obligations.MacroImmediatesAndBranches := by
  unfold Obligations.MacroImmediatesAndBranches
  refine ⟨fun s z n w => ?row, fun s z n w => ?branch⟩
  case row =>
    intro q a sx zx sa to_ row bits
    have hrow {i : Instr} {m : Mn} {u : Nat} {r : W32} (hi : exec i s = .next (s.macro_ n (some m))) {v : W32}
        (hs : m.sem z n w = z.putRd n w v u) (hr : v = r) : row i m u r :=
      fun h => hi.trans (congrArg Host.Outcome.next (h.putRd (hr ▸ hs)))
    have hshift (op : AluOp) (f : W32 → Nat → W32) (hf : ∀ b c, op.value a b c = f a (amount b)) :
        op.value a (BitVec.ofNat 32 (saF w)) false = f a sa := (hf _ _).trans (congrArg (f a) (amount_saF w))
    refine ⟨hrow rfl rfl (hshift .sll (· <<< ·) fun _ _ => rfl), hrow rfl rfl (hshift .srl (· >>> ·) fun _ _ => rfl),
      hrow rfl rfl (hshift .sra BitVec.sshiftRight fun _ _ => rfl), hrow rfl rfl (hshift .ror BitVec.rotateRight fun _ _ => rfl),
      fun _ => ⟨_, fun j hj => ?extu, hrow rfl rfl rfl⟩, fun _ => ⟨_, fun j hj => ?exts, hrow rfl rfl rfl⟩, fun _ => ⟨_, fun j hj => ?ins, hrow rfl rfl rfl⟩,
      hrow rfl rfl rfl, hrow rfl rfl rfl, hrow rfl rfl rfl, hrow rfl rfl rfl, hrow rfl rfl rfl, fun h => ?cmpi, fun h => ?tsti, fun h => ?nop, fun h => ?rds, fun h => ?wrs⟩
    case extu =>
      rw [getLsbD_extU _ _ _ hj, decide_eq_decide.2 (Nat.lt_succ_iff)]
    case exts => exact getLsbD_extS _ _ _ hj
    case ins => exact getLsbD_insert _ _ _ _ hj
    case cmpi => 
      refine congrArg Host.Outcome.next (h.moves (f := fun q => q.setFlags _) ?_ ⟨rfl, rfl, rfl, rfl⟩)
      rw [← sub_eq_zero_iff]
      rfl
    case tsti => exact congrArg Host.Outcome.next (h.moves (f := fun q => q.setFlags _) rfl ⟨rfl, rfl, rfl, rfl⟩)
    case nop => exact congrArg Host.Outcome.next (h.done rfl h.holds)
    case rds => exact hrow rfl rfl (Seq.special_eq _ _)
    case wrs => exact congrArg Host.Outcome.next (h.moves (f := fun q => { q with stw := _ }) rfl ⟨rfl, rfl, rfl, rfl⟩)
  case branch =>
    intro q off f branch
    have hbranch {i : Instr} {m : Mn} {c : Prop} {o : W32} {p : Bool} (hi : exec i s = .next (s.macro_ n (some m)))
        (hs : m.sem z n w = z.branch n p o) (hp : p = true ↔ c) : branch i m c o := by
      refine fun h => ⟨fun hc => ?_, fun hc => ?_⟩
      · exact hi.trans (congrArg Host.Outcome.next (h.done (hs.trans (if_pos (hp.2 hc))) h.holds))
      · exact hi.trans (congrArg Host.Outcome.next (h.done (hs.trans (if_neg fun k => hc (hp.1 k))) h.holds))
    refine ⟨hbranch rfl rfl (Bool.eq_iff_iff.1 (f.cond_eq (fldN_lt w 22 4))), hbranch rfl rfl decide_eq_true_iff, hbranch rfl rfl decide_eq_true_iff, hbranch rfl rfl decide_eq_true_iff,
      hbranch rfl rfl decide_eq_true_iff, fun h => congrArg Host.Outcome.next (h.done rfl h.holds), fun h => congrArg Host.Outcome.next (h.done rfl h.holds)⟩

end Sys2Proof.Machine

namespace Sys2Proof.Machine

/-! R239 to R242: the register file and its windows. -/

section file

/-- R239: the four groups of the register file: the k registers, and those of the window. -/
def Seq.file (q : Seq) (g : Fin 4) : Bank W32 8 :=
  match g with
  | 0 => q.k
  | 1 => q.ringA.at q.cw
  | 2 => q.ringM.at q.cw
  | 3 => q.ringA.at (winUp q.cw 1)

/-- The group of register `r`. -/
def regGroup (r : Nat) : Fin 4 := Fin.ofNat 4 (r / 8)

theorem regGroup_cases (r : Nat) : r / 8 % 4 = 0 ∧ regGroup r = 0 ∨ r / 8 % 4 = 1 ∧ regGroup r = 1 ∨ r / 8 % 4 = 2 ∧ regGroup r = 2 ∨
    r / 8 % 4 = 3 ∧ regGroup r = 3 := by
  have h : r / 8 % 4 = 0 ∨ r / 8 % 4 = 1 ∨ r / 8 % 4 = 2 ∨ r / 8 % 4 = 3 := by omega
  simp only [regGroup, Fin.ext_iff, Fin.val_ofNat]
  omega

theorem Seq.reg_eq (q : Seq) (r : Nat) : q.reg r = (q.file (regGroup r)).at (Fin.ofNat 8 r) := by
  unfold Seq.reg
  rcases regGroup_cases r with ⟨h, hg⟩ | ⟨h, hg⟩ | ⟨h, hg⟩ | ⟨h, hg⟩
  all_goals
    rw [h, hg]
    rfl

/-- A write of a register writes its place of its group. -/
theorem Seq.file_setReg (q : Seq) (r : Nat) (v : W32) (g : Fin 4) :
    (q.setReg r v).file g = if g = regGroup r then (q.file g).upd (Fin.ofNat 8 r) v else q.file g := by
  have hup : winUp q.cw 1 ≠ q.cw := (winUp_ne q.cw).symm
  unfold Seq.setReg
  rcases regGroup_cases r with ⟨h, hg⟩ | ⟨h, hg⟩ | ⟨h, hg⟩ | ⟨h, hg⟩
  all_goals
    rw [h, hg]
    fin_cases g <;> simp [Seq.file, Bank.mod_eq, Bank.at_upd, hup, hup.symm]

theorem Seq.reg_setReg (q : Seq) {r t : Nat} (v : W32) (hr : r < 32) (ht : t < 32) :
    (q.setReg r v).reg t = if t = r then v else q.reg t := by
  rw [Seq.reg_eq, Seq.reg_eq, Seq.file_setReg]
  by_cases hg : regGroup t = regGroup r
  · rw [if_pos hg]
    have hg' : t / 8 = r / 8 := by
      have := congrArg Fin.val hg
      simp only [regGroup, Fin.val_ofNat] at this
      omega
    by_cases hi : (Fin.ofNat 8 t : Fin 8) = Fin.ofNat 8 r
    · have hi' : t % 8 = r % 8 := congrArg Fin.val hi
      rw [hi, if_pos (by omega)]
      exact Bank.at_upd_self _ _ _
    · rw [if_neg fun h => hi (congrArg _ h)]
      exact Bank.at_upd_ne _ _ hi
  · rw [if_neg hg, if_neg fun h => hg (congrArg _ h)]

end file

/-! R242: windows open and close. -/

section windows
variable {s y z : State} {n : Fin 16}

/-- What windows and contexts leave of a sequencer: its channel and its pc. -/
structure Seq.Stays (q r : Seq) : Prop where
  cxv : r.cxv = q.cxv
  cx : r.cx = q.cx
  pc : r.pc = q.pc

theorem Seq.Stays.trans {p q r : Seq} (h : p.Stays q) (k : q.Stays r) : p.Stays r :=
  ⟨k.cxv.trans h.cxv, k.cx.trans h.cx, k.pc.trans h.pc⟩

theorem State.holds_stays (hz : z.holds n = true) (hk : State.Changes [.seqs, .pool, .mem, .free] z y)
    (hq : (z.seqs.at n).Stays (y.seqs.at n)) : y.holds n = true := by
  obtain ⟨hp, hc⟩ : y.power = z.power ∧ y.chans = z.chans := ⟨hk.same .power rfl, hk.same .chans rfl⟩
  unfold State.holds State.seqUp State.halfUp at hz ⊢
  rwa [hp, hc, hq.cxv, hq.cx]

theorem State.modSeq_stays {f : Seq → Seq} (hf : (s.seqs.at n).Stays (f (s.seqs.at n))) : (s.seqs.at n).Stays ((s.modSeq n f).seqs.at n) := by
  have h : (s.modSeq n f).seqs.at n = f (s.seqs.at n) := Bank.at_mod_self _ _ _
  rwa [h]

theorem State.ctxWrite_stays (s : State) (n : Fin 16) (a : Nat) (l : List W32) : (s.seqs.at n).Stays ((s.ctxWrite n a l).seqs.at n) := by
  obtain ⟨r, hr⟩ := s.ctxWrite_seq n a l n
  rw [hr]
  exact ⟨rfl, rfl, rfl⟩

theorem State.spillWin_stays {w : Fin 8} (h : s.spillWin n w = .done y) : (s.seqs.at n).Stays (y.seqs.at n) := by
  obtain ⟨wv, u, r, hy⟩ := State.spillWin_seq h
  rw [hy]
  exact ⟨rfl, rfl, rfl⟩

theorem State.spillAll_stays {k : Nat} (h : s.spillAll n k = .done y) : (s.seqs.at n).Stays (y.seqs.at n) := by
  induction k generalizing s with
  | zero => exact Work.done.inj h ▸ ⟨rfl, rfl, rfl⟩
  | succ k ih =>
    unfold State.spillAll at h
    split at h
    · next s1 h1 => exact (State.spillWin_stays h1).trans (ih h)
    · next hn => exact absurd h (hn y)

/-- R242: window `w` takes the words `l`, and the anchor of channel `c` becomes `a`. -/
def State.frameGet (s : State) (n : Fin 16) (w : Fin 8) (c : Fin 256) (a : Anchor) (l : List W32) : State :=
  ((s.setAnchor n c a).modSeq n fun q => { q with ringA := q.ringA.upd w (regs8 l), ringM := q.ringM.upd w (regs8 (l.drop 8)) }).uw n 20

theorem State.frameGet_stays (s : State) (n : Fin 16) (w : Fin 8) (c : Fin 256) (a : Anchor) (l : List W32) :
    (s.seqs.at n).Stays ((s.frameGet n w c a l).seqs.at n) := by
  have hset : (s.seqs.at n).Stays ((s.setAnchor n c a).seqs.at n) := s.ctxWrite_stays n (descAddr c + 48) a.words
  unfold State.frameGet
  generalize s.setAnchor n c a = z at hset ⊢
  exact (hset.trans (State.modSeq_stays ⟨rfl, rfl, rfl⟩)).trans (State.modSeq_stays ⟨rfl, rfl, rfl⟩)

theorem State.fillWin_stays {w : Fin 8} (h : s.fillWin n w = .done y) : (s.seqs.at n).Stays (y.seqs.at n) := by
  obtain ⟨m, hm, -⟩ := s.anchor_frame n (s.seqs.at n).cx
  unfold State.fillWin at h
  dsimp only at h
  split at h
  · exact nomatch h
  · next a s1 ha =>
    obtain rfl : s1 = { s with mem := m } := (congrArg Prod.snd ha).symm.trans hm
    split at h
    · exact nomatch h
    · next l s2 hl =>
      obtain ⟨m', hm', -⟩ := ({ s with mem := m } : State).ctxRead_frame n (nodeAddr a.spill + 64 * ((s.pool.nodes.at a.spill).count - 1)) 8
      obtain rfl : s2 = { s with mem := m' } := (congrArg Prod.snd hl).symm.trans hm'
      obtain ⟨z, c, a1, rfl, hz⟩ : ∃ z c a1, y = State.frameGet z n w c a1 l ∧ z.seqs = s.seqs := ⟨_, _, _, (Work.done.inj h).symm, rfl⟩
      rw [← hz]
      exact z.frameGet_stays n w c a1 l

/-- R242: a window opens, behind a spill where seven are in use. -/
theorem State.wopen_room (limit : Nat) (h : wvCount (s.seqs.at n).wv ≠ 7) :
    s.wopen n limit = .done { s.setSeq n ((s.seqs.at n).opened s.free) with free := s.free + 16 } := if_neg h

theorem State.opened_stays (s : State) (n : Fin 16) (k : Nat) :
    (s.seqs.at n).Stays (({ s.setSeq n ((s.seqs.at n).opened s.free) with free := k } : State).seqs.at n) := by
  have h : ({ s.setSeq n ((s.seqs.at n).opened s.free) with free := k } : State).seqs.at n = (s.seqs.at n).opened s.free := State.setSeq_at
  rw [h]
  exact ⟨rfl, rfl, rfl⟩

theorem State.wopen_stays {limit : Nat} (h : s.wopen n limit = .done y) : (s.seqs.at n).Stays (y.seqs.at n) := by
  by_cases h7 : wvCount (s.seqs.at n).wv = 7
  · unfold State.wopen at h
    rw [if_pos h7] at h
    obtain ⟨m, hm, -⟩ := s.anchor_frame n (s.seqs.at n).cx
    split at h
    · exact nomatch h
    · next a s1 ha =>
      obtain rfl : s1 = { s with mem := m } := (congrArg Prod.snd ha).symm.trans hm
      split at h
      · exact nomatch h
      · split at h
        · next s2 h2 =>
          obtain rfl := Work.done.inj h
          exact (State.spillWin_stays h2).trans (s2.opened_stays n _)
        · next hn => exact absurd h (hn y)
  · rw [State.wopen_room limit h7] at h
    exact Work.done.inj h ▸ s.opened_stays n _

/-- R242: the window below, whose bit is set. -/
def Seq.closed (q : Seq) : Seq := { q with wv := wvSet (wvSet q.wv q.cw false) (winUp q.cw 7) true, cw := winUp q.cw 7 }

theorem State.wclose_valid (h : (s.seqs.at n).wv.getLsbD (winUp (s.seqs.at n).cw 7).val = true) :
    s.wclose n = .done (s.setSeq n (s.seqs.at n).closed) := if_pos h

theorem State.wclose_stays (h : s.wclose n = .done y) : (s.seqs.at n).Stays (y.seqs.at n) := by
  unfold State.wclose at h
  obtain ⟨m, hm, -⟩ := s.anchor_frame n (s.seqs.at n).cx
  dsimp only at h
  split at h
  · exact Work.done.inj h ▸ State.modSeq_stays ⟨rfl, rfl, rfl⟩
  · split at h
    · exact nomatch h
    · next a s1 ha =>
      obtain rfl : s1 = { s with mem := m } := (congrArg Prod.snd ha).symm.trans hm
      split at h
      · exact nomatch h
      · split at h
        · next s2 h2 => exact Work.done.inj h ▸ (State.fillWin_stays h2).trans (State.modSeq_stays ⟨rfl, rfl, rfl⟩)
        · next hn => exact absurd h (hn y)

theorem getLsbD_wvSet (x : BitVec 8) (w : Fin 8) (v : Bool) (j : Nat) :
    (wvSet x w v).getLsbD j = if j = w.val then v else x.getLsbD j := by
  unfold wvSet
  by_cases hj : j < 8
  · cases v with
    | false =>
      rw [if_neg Bool.false_ne_true, BitVec.getLsbD_and, BitVec.getLsbD_not, getLsbD_two_pow hj, decide_eq_true hj]
      by_cases h : j = w.val <;> simp [h]
    | true =>
      rw [if_pos rfl, BitVec.getLsbD_or, getLsbD_two_pow hj]
      by_cases h : j = w.val <;> simp [h]
  · have h : j ≠ w.val := by omega
    rw [if_neg h, BitVec.getLsbD_of_ge _ _ (by omega), BitVec.getLsbD_of_ge _ _ (by omega)]

/-- R291: m7 of a call takes the return offset. -/
def Seq.linkedTo (q : Seq) (link : Option W32) : Seq :=
  match link with
  | some a => q.setReg 23 a
  | none => q

def State.linkedTo (s : State) (n : Fin 16) (link : Option W32) : State := s.modSeq n fun q => q.linkedTo link

theorem State.linkedTo_none (s : State) (n : Fin 16) : s.linkedTo n none = s :=
  congrArg (fun b => ({ s with seqs := b } : State)) (Bank.upd_at s.seqs n)

theorem Seq.kept_linkedTo (q : Seq) (link : Option W32) : q.Kept (q.linkedTo link) := by
  cases link with
  | none => exact ⟨rfl, rfl, rfl, rfl⟩
  | some a => exact q.kept_setReg 23 a

theorem Seq.Kept.stays {q r : Seq} (h : q.Kept r) : q.Stays r := ⟨h.cxv, h.cx, h.pc⟩

/-- The end of an instruction behind a change of the registers. -/
theorem State.after_modSeq {f : Seq → Seq} (hf : (s.seqs.at n).Kept (f (s.seqs.at n))) (k : Nat) (p : W32) :
    (s.modSeq n f).after n k p id = s.after n k p f := by
  unfold State.after State.modSeq
  refine congrArg (fun b => ({ s with seqs := b, dbg := _ } : State)) ((Bank.mod_upd_self _ _ _ _).trans ?_)
  refine congrArg (s.seqs.upd n) ?_
  rw [id, hf.uwcnt]

/-- Context memory that is read leaves the sequencers as they are. -/
theorem State.anchor_stays {c : Fin 256} {o : Option Anchor} (ha : z.anchor n c = (o, y)) :
    State.Changes [.seqs, .pool, .mem, .free] z y ∧ y.seqs = z.seqs := by
  have hk := (z.anchor_changes n c).atPair ha
  exact ⟨hk.mono rfl, hk.same .seqs rfl⟩

/-- An instruction that ends with a change of the registers, behind work on contexts. -/
theorem State.At.doneWith {s z y : State} {m : Mn} {w : W32} (h : s.At n m w z) {f : Seq → Seq} {k : Nat} {npc : Option W32}
    (hs : m.sem z n w = .done (y.modSeq n f) k npc) (hf : (y.seqs.at n).Kept (f (y.seqs.at n)))
    (hk : State.Changes [.seqs, .pool, .mem, .free] z y) (hstay : (z.seqs.at n).Stays (y.seqs.at n)) :
    s.macro_ n (some m) = y.after n k (npc.getD ((z.seqs.at n).pc + 4)) f := by
  have hstay' : (z.seqs.at n).Stays ((y.modSeq n f).seqs.at n) := hstay.trans (State.modSeq_stays hf.stays)
  have hdone := h.done hs (State.holds_stays h.holds (hk.step (State.modSeq_changes y n f) rfl) hstay')
  rw [hstay'.pc] at hdone
  exact hdone.trans (State.after_modSeq hf _ _)

/-- The window above and its link. -/
theorem Seq.opened_reg (q : Seq) (k : Nat) {j : Nat} (hj : j < 8) :
    (q.opened k).reg j = q.reg j ∧ (q.opened k).reg (8 + j) = q.reg (24 + j) := by
  have h0 : j / 8 % 4 = 0 := by omega
  have h1 : (8 + j) / 8 % 4 = 1 := by omega
  have h3 : (24 + j) / 8 % 4 = 3 := by omega
  have hi : (Fin.ofNat 8 (8 + j) : Fin 8) = Fin.ofNat 8 (24 + j) := Fin.ext (by simp only [Fin.val_ofNat]; omega)
  unfold Seq.reg
  rw [h0, h1, h3, hi]
  exact ⟨rfl, congrArg (Bank.at · _) (Bank.at_upd_ne _ _ (winUp_ne _))⟩

theorem Seq.opened_other (q : Seq) (k : Nat) {u : Fin 8} (hu : u ≠ winUp q.cw 1) : (q.opened k).ringM.at u = q.ringM.at u ∧
    (u ≠ winUp q.cw 2 → (q.opened k).ringA.at u = q.ringA.at u) := by
  have h2 (w : Fin 8) : winUp (winUp w 1) 1 = winUp w 2 := by decide +revert
  exact ⟨Bank.at_upd_ne _ _ hu, fun h => Bank.at_upd_ne _ _ (by rwa [h2])⟩

theorem Seq.linkedTo_reg (q : Seq) (link : Option W32) {j : Nat} (hj : j < 16) : (q.linkedTo link).reg j = q.reg j := by
  cases link with
  | none => rfl
  | some a => exact (q.reg_setReg a (by decide) (by omega)).trans (if_neg (by omega))

theorem Seq.linkedTo_rings (q : Seq) (link : Option W32) : (q.linkedTo link).ringA = q.ringA ∧
    ∀ u, u ≠ q.cw → (q.linkedTo link).ringM.at u = q.ringM.at u := by
  cases link with
  | none => exact ⟨rfl, fun _ _ => rfl⟩
  | some a => exact ⟨rfl, fun u hu => Bank.at_upd_ne _ _ hu⟩

theorem Seq.linkedTo_eq (q : Seq) (link : Option W32) : q.linkedTo link = { q with ringM := (q.linkedTo link).ringM } := by
  cases link <;> rfl

end windows

/-- Settles O54. -/
theorem macroWindows : Obligations.MacroWindows := by
  unfold Obligations.MacroWindows
  refine ⟨fun q r t v hr ht => q.reg_setReg v hr ht, fun s z n w => ?_⟩
  intro q up down target opens closes
  have hopens {i : Instr} {m : Mn} {k : Nat} {p : W32} {npc link : Option W32} (hi : exec i s = .next (s.macro_ n (some m)))
      (hs : m.sem z n w = (z.wopen n 250).andThen fun y => .done (y.linkedTo n link) k npc) (hp : npc.getD (q.pc + 4) = p)
      (h : s.At n m w z) : opens i k p link := by
    have hend {y : State} (hy : z.wopen n 250 = .done y) : exec i s = .next (y.after n k p fun x => x.linkedTo link) := by
      have hstay := State.wopen_stays hy
      have hdone := h.doneWith (hs.trans (congrArg (fun v : Work => v.andThen _) hy)) (Seq.kept_linkedTo _ _) ((z.wopen_changes n 250).done hy) hstay
      rw [hp] at hdone
      exact hi.trans (congrArg Host.Outcome.next hdone)
    refine ⟨fun h7 => ?room, fun y _ hy => ?spill, fun h7 a y ha hl => ?full⟩
    case room =>
      have hq := (q.opened z.free).kept_linkedTo link
      refine ⟨(q.opened z.free).linkedTo link, (hend (State.wopen_room 250 h7)).trans (congrArg Host.Outcome.next ?_), (by cases link <;> rfl), fun j => ?_, fun j hj => ?_,
        fun a ha => ?_, fun u hu => ?_⟩
      · exact congrArg (fun b => ({ z with seqs := b, dbg := _, free := _ } : State)) (Bank.mod_upd_self _ _ _ _)
      · rw [show ((q.opened z.free).linkedTo link).wv = wvSet q.wv up true from congrArg Seq.wv (Seq.linkedTo_eq _ _), getLsbD_wvSet]
        by_cases hj : j = up.val <;> simp [hj]
      · rw [Seq.linkedTo_reg _ _ (by omega), Seq.linkedTo_reg _ _ (by omega)]
        exact q.opened_reg z.free hj
      · rw [show link = some a from ha]
        exact (Seq.reg_setReg _ (r := 23) (t := 23) a (by decide) (by decide)).trans (if_pos rfl)
      · obtain ⟨hA, hM⟩ := Seq.linkedTo_rings (q.opened z.free) link
        rw [hA, hM u hu]
        exact q.opened_other z.free hu
    case spill => exact hend hy
    case full =>
      have hopen : z.wopen n 250 = .trap y { code := 15, detail := 0, tval := BitVec.ofNat 32 a.spcnt } := by
        unfold State.wopen
        rw [if_pos h7, ha]
        exact if_pos hl
      exact hi.trans (congrArg Host.Outcome.next (h.trap (hs.trans (congrArg (fun v : Work => v.andThen _) hopen))))
  have hcloses {i : Instr} {m : Mn} {k : Nat} {p : W32} {npc : Option W32} (hi : exec i s = .next (s.macro_ n (some m)))
      (hs : m.sem z n w = (z.wclose n).andThen fun y => .done y k npc) (hp : npc.getD (q.pc + 4) = p) (h : s.At n m w z) : closes i k p := by
    have hend {y : State} (hy : z.wclose n = .done y) : exec i s = .next (y.after n k p id) := by
      have hstay := State.wclose_stays hy
      have hk : State.Changes [.seqs, .pool, .mem, .free] z y := ((z.wclose_changes n).done hy).mono rfl
      have hdone := h.done (hs.trans (congrArg (fun v : Work => v.andThen _) hy)) (State.holds_stays h.holds hk hstay)
      rw [hstay.pc, hp] at hdone
      exact hi.trans (congrArg Host.Outcome.next hdone)
    refine ⟨fun hv => ?valid, fun y _ hy => hend hy, fun hv a y ha h0 => ?empty⟩
    case valid =>
      refine ⟨q.closed, (hend (State.wclose_valid hv)).trans (congrArg Host.Outcome.next ?_), rfl, fun j => ?_⟩
      · exact congrArg (fun b => ({ z with seqs := b, dbg := _ } : State)) (Bank.mod_upd_self _ _ _ _)
      · have hne : down ≠ q.cw := by
          have (c : Fin 8) : winUp c 7 ≠ c := by decide +revert
          exact this q.cw
        rw [show q.closed.wv = wvSet (wvSet q.wv q.cw false) down true from rfl, getLsbD_wvSet, getLsbD_wvSet]
        by_cases hj : j = down.val
        · rw [if_pos hj, hj, hv, decide_eq_true (show down.val ≠ q.cw.val from fun k => hne (Fin.ext k))] <;> rfl
        · rw [if_neg hj]
          by_cases hc : j = q.cw.val <;> simp [hc]
    case empty =>
      have hclose : z.wclose n = .trap y { code := 14, detail := 0, tval := 0 } := by
        unfold State.wclose
        rw [if_neg (Bool.eq_false_iff.1 hv), ha]
        exact if_pos h0
      exact hi.trans (congrArg Host.Outcome.next (h.trap (hs.trans (congrArg (fun v : Work => v.andThen _) hclose))))
  refine ⟨fun h => hopens (npc := none) (link := none) rfl
      (congrArg (z.wopen n 250).andThen (funext fun y => congrArg (fun y : State => Res.done y 3 none) (y.linkedTo_none n).symm)) rfl h, fun h => hopens (npc := some _) (link := some _) rfl rfl rfl h,
    fun h => hopens (npc := some _) (link := some _) rfl rfl rfl h, fun h => hcloses (npc := none) rfl rfl rfl h,
    fun h => hcloses (npc := some _) rfl rfl rfl h, fun h hw => ?rdc, fun h hw a y ha => ?rdcCount, fun h hv => ?wrc, fun h hv => ?wrcRefused, fun h a y ha => ?wspill⟩
  case rdc =>
    obtain h0 | h1 | h2 : saF w = 0 ∨ saF w = 1 ∨ saF w = 2 := by omega
    all_goals refine congrArg Host.Outcome.next (h.putRd ?_)
    all_goals
      change z.doRdc n w = _
      unfold State.doRdc
    · rw [h0] <;> rfl
    · rw [h1] <;> rfl
    · rw [h2] <;> rfl
  case rdcCount =>
    obtain ⟨hk, hseqs⟩ := State.anchor_stays ha
    refine congrArg Host.Outcome.next ((h.doneWith (f := fun x => x.setReg (rdF w) (BitVec.ofNat 32 a.spcnt)) (npc := none) ?_ (Seq.kept_setReg _ _ _) hk
      (hseqs ▸ ⟨rfl, rfl, rfl⟩)))
    change z.doRdc n w = _
    unfold State.doRdc
    rw [hw]
    dsimp only
    rw [ha] <;> rfl
  case wrc =>
    exact congrArg Host.Outcome.next (h.moves (f := fun x => { x with tvec := q.reg (rsF w) }) (if_neg fun k => k hv) ⟨rfl, rfl, rfl, rfl⟩)
  case wrcRefused => exact congrArg Host.Outcome.next (h.trap (if_pos hv))
  case wspill =>
    obtain ⟨hk, hseqs⟩ := State.anchor_stays ha
    have hsem (hl : ¬ 250 < a.spcnt + (wvCount q.wv - 1)) {t : State} (ht : y.spillAll n (wvCount q.wv - 1) = .done t) :
        exec (.wspill n) s = .next (t.after n 3 (q.pc + 4) id) := by
      have hstay : (z.seqs.at n).Stays (t.seqs.at n) := hseqs ▸ State.spillAll_stays ht
      have hkt : State.Changes [.seqs, .pool, .mem, .free] z t := hk.step ((y.spillAll_changes n _).done ht) rfl
      have hs : Mn.wspill.sem z n w = .done t 3 none := by
        change z.doWspill n = _
        unfold State.doWspill
        dsimp only
        rw [ha]
        dsimp only
        rw [if_neg hl, ht]
      have hdone := h.done hs (State.holds_stays h.holds hkt hstay)
      rw [hstay.pc] at hdone
      exact congrArg Host.Outcome.next hdone
    refine ⟨fun h1 hl => ?one, fun hl => ?refused, fun t hl ht => hsem (by omega) ht⟩
    case one => exact hsem (by omega) (by rw [h1] <;> rfl)
    case refused =>
      refine congrArg Host.Outcome.next (h.trap ?_)
      change z.doWspill n = _
      unfold State.doWspill
      dsimp only
      rw [ha]
      exact if_pos hl

end Sys2Proof.Machine

namespace Sys2Proof.Machine

/-! R378 to R380: the check of the word that a read meets. -/

theorem Mem.read_ok {m : Mem} {a : Nat} (req k : Nat) (hu : a / 8 ∉ m.unc) : m.read req a k = (some (m.num a k), (m.check req (a / 8)).2) := by
  by_cases hc : a / 8 ∈ m.corr
  · rw [Mem.read_of_corr req k hu hc]
    simp [Mem.check, hu, hc]
  · rw [Mem.read_of_clean req k hu hc]
    simp [Mem.check, hu, hc]

theorem Mem.read_lost {m : Mem} {a : Nat} (req k : Nat) (hu : a / 8 ∈ m.unc) : m.read req a k = (none, (m.check req (a / 8)).2) := by
  rw [Mem.read_of_unc req k hu]
  simp [Mem.check, hu]

theorem Mem.check_ok {m : Mem} {w : Nat} (req : Nat) (hu : w ∉ m.unc) : (m.check req w).1 = true := by
  unfold Mem.check
  rw [if_neg hu]
  split <;> rfl

theorem Mem.check_lost {m : Mem} {w : Nat} (req : Nat) (hu : w ∈ m.unc) : (m.check req w).1 = false := by
  unfold Mem.check
  rw [if_pos hu]

theorem Seq.Kept.trans {p q r : Seq} (h : p.Kept q) (k : q.Kept r) : p.Kept r :=
  ⟨k.cxv.trans h.cxv, k.cx.trans h.cx, k.pc.trans h.pc, k.uwcnt.trans h.uwcnt⟩

theorem DataRes.andThen_trap {x : DataRes} {y : State} {t : Trap} {f : State → Nat → Res} (h : x = .trap y t) : x.andThen f = .trap y 2 t := by
  rw [h] <;> rfl

theorem DataRes.andThen_ok {x : DataRes} {y : State} {v : Nat} {f : State → Nat → Res} (h : x = .ok y v) : x.andThen f = f y v := by
  rw [h] <;> rfl

section data
variable {s z : State} {n : Fin 16}

/-- The machine after the check of the word at `a` for sequencer `n`. -/
def State.checked (z : State) (n : Fin 16) (a : Nat) : State := { z with mem := (z.mem.check n.val (a / 8)).2 }

/-- Address `a` holds no mailbox storage (R346). -/
def plainStore (a : Nat) : Bool := !(0x1400000 ≤ a && a < 0x1420000 && 64 ≤ (a - 0x1400000) % 0x200 / 4)

theorem within_mailbox (a : Nat) : (within a 0x1400000 0x1420000 && decide (64 ≤ (a - 0x1400000) % 0x200 / 4)) = !plainStore a := by
  unfold plainStore within
  rw [Bool.not_not, Bool.decide_and]

theorem State.memLoad_read {a : Nat} (k : Nat) (hs : plainStore a = true) : z.memLoad n.val a k = z.memRead n.val a k := by
  refine if_neg ?_
  rw [within_mailbox, hs]
  exact Bool.false_ne_true

theorem State.memLoad_box {a : Nat} (k : Nat) (hs : plainStore a = false) : ∃ x, z.memLoad n.val a k =
    (if (z.mem.check n.val (a / 8)).1 = true then some (x % 256 ^ k) else none, { z.checked n a with free := z.free + 2 }) := by
  refine ⟨_, if_pos ?_⟩
  rw [within_mailbox, hs] <;> rfl

theorem State.memLoad_plain {a : Nat} (k : Nat) (hs : plainStore a = true) (hu : a / 8 ∉ z.mem.unc) :
    z.memLoad n.val a k = (some (z.mem.num a k), z.checked n a) := by
  rw [State.memLoad_read k hs]
  unfold State.memRead
  rw [Mem.read_ok n.val k hu] <;> rfl

theorem State.memLoad_lost {a : Nat} (k : Nat) (hu : a / 8 ∈ z.mem.unc) :
    z.memLoad n.val a k = (none, if plainStore a = true then z.checked n a else { z.checked n a with free := z.free + 2 }) := by
  by_cases hs : plainStore a = true
  · rw [State.memLoad_read k hs, if_pos hs]
    unfold State.memRead
    rw [Mem.read_lost n.val k hu] <;> rfl
  · obtain ⟨x, hx⟩ := State.memLoad_box (z := z) (n := n) k (Bool.eq_false_iff.2 hs)
    rw [hx, if_neg hs, if_neg (by rw [Mem.check_lost n.val hu]; exact Bool.false_ne_true)]

theorem State.memLoad_mailbox {a : Nat} (k : Nat) (hs : plainStore a = false) (hu : a / 8 ∉ z.mem.unc) :
    ∃ v, v < 256 ^ k ∧ z.memLoad n.val a k = (some v, { z.checked n a with free := z.free + 2 }) := by
  obtain ⟨x, hx⟩ := State.memLoad_box (z := z) (n := n) k hs
  exact ⟨x % 256 ^ k, Nat.mod_lt _ (Nat.pow_pos (by decide)), hx.trans (by rw [if_pos (Mem.check_ok n.val hu)])⟩

/-! R284, R286: the checks of a load and of a store. -/

/-- An access inside a block of 8 bytes is made as one. -/
theorem State.accessCause_one (z : State) (q : Req) (wr : Bool) {a k v : Nat} {un : Bool} (hone : a % 8 + k ≤ 8)
    (hun : memWindow a = true ∨ a % 4 = 0 ∨ un = false) : z.accessCause q wr a k v un = (z.refusal q wr a k (v % 256 ^ k)).map fun c => (a, c) := by
  unfold State.accessCause
  refine (if_neg ?_).trans ?_
  · simp only [Bool.and_eq_true, Bool.not_eq_true', decide_eq_true_eq]
    rintro ⟨⟨h1, h2⟩, h3⟩
    rcases hun with h | h | h
    · exact Bool.false_ne_true (h2.symm.trans h)
    · exact h3 h
    · exact Bool.false_ne_true (h.symm.trans h1)
  · unfold splitParts
    rw [if_pos hone, List.findSome?_cons]
    dsimp only
    rw [Nat.sub_self, Nat.pow_zero, Nat.div_one]
    cases z.refusal q wr a k (v % 256 ^ k) <;> rfl

/-- A load of `k` bytes at `ea` that is made as one access where no cause of R57 refuses it. -/
structure State.LoadsOne (z : State) (n : Fin 16) (ea : W32) (k al : Nat) : Prop where
  timely : (z.seqs.at n).det = true → detLoad ea.toNat k = false
  aligned : ea.toNat % al = 0
  one : ea.toNat % 8 + k ≤ 8
  word : memWindow ea.toNat = true ∨ ea.toNat % 4 = 0 ∨ decide (k = 4 ∧ al = 1) = false

section loads
variable {ea : W32} {k al : Nat}

theorem State.LoadsOne.load_eq (h : z.LoadsOne n ea k al) {o : Option Cause} (ho : z.refusal (z.seqReq n) false ea.toNat k 0 = o) : z.load n ea k al =
    match o with
    | some c => .trap (z.refused false ea.toNat c) { code := 10, detail := c.code, tval := ea }
    | none => z.loadParts (z.seqReq n) ea.toNat [(ea.toNat, k)] 0 := by
  have hcause := z.accessCause_one (z.seqReq n) false (v := 0) h.one h.word
  rw [Nat.zero_mod, ho] at hcause
  unfold State.load
  dsimp only
  rw [if_neg (fun hd => Bool.false_ne_true ((h.timely hd.1).symm.trans hd.2)), if_neg (not_not.2 h.aligned), hcause]
  unfold splitParts
  rw [if_pos h.one]
  cases o <;> rfl

theorem State.LoadsOne.refused (h : z.LoadsOne n ea k al) {c : Cause} (hc : z.refusal (z.seqReq n) false ea.toNat k 0 = some c) :
    z.load n ea k al = .trap (z.refused false ea.toNat c) { code := 10, detail := c.code, tval := ea } := h.load_eq hc

theorem State.LoadsOne.read (h : z.LoadsOne n ea k al) (hc : z.refusal (z.seqReq n) false ea.toNat k 0 = none) {v : Nat} {y : State}
    (hr : z.busRead (z.seqReq n) ea.toNat k = (.ok v, y)) : z.load n ea k al = .ok y v := by
  refine (h.load_eq hc).trans ?_
  unfold State.loadParts
  dsimp only
  rw [hr]
  exact congrArg (DataRes.ok y) (by rw [Nat.sub_self, Nat.pow_zero, Nat.mul_one, Nat.zero_add])

theorem State.LoadsOne.lost (h : z.LoadsOne n ea k al) (hc : z.refusal (z.seqReq n) false ea.toNat k 0 = none) {y : State}
    (hr : z.busRead (z.seqReq n) ea.toNat k = (.error .ecc, y)) : z.load n ea k al = .trap y { code := 11, detail := 0, tval := ea } := by
  refine (h.load_eq hc).trans ?_
  unfold State.loadParts
  dsimp only
  rw [hr]
  exact congrArg (fun x : W32 => DataRes.trap y { code := 11, detail := 0, tval := x }) (BitVec.ofNat_toNat _ _)

/-- A load that the deterministic class may make is checked for alignment first. -/
theorem State.load_misaligned (hd : (z.seqs.at n).det = true → detLoad ea.toNat k = false) (ha : ea.toNat % al ≠ 0) :
    z.load n ea k al = .trap z { code := 9, detail := 0, tval := ea } :=
  (if_neg fun hn => Bool.false_ne_true ((hd hn.1).symm.trans hn.2)).trans (if_pos ha)

theorem State.load_untimely (hd : (z.seqs.at n).det = true) (hl : detLoad ea.toNat k = true) :
    z.load n ea k al = .trap z { code := 7, detail := 0, tval := ea } := if_pos ⟨hd, hl⟩

end loads

/-- A store of `v` at `ea` that is made as one access where no cause of R57 refuses it. -/
structure State.StoresOne (z : State) (n : Fin 16) (ea : W32) (k al v : Nat) : Prop where
  timely : (z.seqs.at n).det = true → detStore ea.toNat k v = false
  aligned : ea.toNat % al = 0
  one : ea.toNat % 8 + k ≤ 8
  word : memWindow ea.toNat = true ∨ ea.toNat % 4 = 0 ∨ decide (k = 4 ∧ al = 1) = false
  fits : v < 256 ^ k

section stores
variable {ea w : W32} {k al v : Nat}

theorem State.StoresOne.store_eq (h : z.StoresOne n ea k al v) {o : Option Cause} (ho : z.refusal (z.seqReq n) true ea.toNat k v = o) :
    z.store n ea k al v w = match o with
    | some c => .trap (z.refused true ea.toNat c) { code := 10, detail := c.code, tval := ea }
    | none => .ok (z.busWrite (z.seqReq n) ea.toNat k v).2 0 := by
  have hcause := z.accessCause_one (z.seqReq n) true (v := v) h.one h.word
  rw [Nat.mod_eq_of_lt h.fits, ho] at hcause
  unfold State.store
  dsimp only
  rw [if_neg (fun hd => Bool.false_ne_true ((h.timely hd.1).symm.trans hd.2)), if_neg (not_not.2 h.aligned), hcause]
  unfold splitParts
  rw [if_pos h.one]
  cases o with
  | some c => rfl
  | none =>
    unfold State.storeParts
    rw [List.foldl_cons, List.foldl_nil]
    dsimp only
    rw [Nat.sub_self, Nat.pow_zero, Nat.div_one, Nat.mod_eq_of_lt h.fits]
    rfl

theorem State.store_misaligned (hd : (z.seqs.at n).det = true → detStore ea.toNat k v = false) (ha : ea.toNat % al ≠ 0) :
    z.store n ea k al v w = .trap z { code := 9, detail := 0, tval := ea } :=
  (if_neg fun hn => Bool.false_ne_true ((hd hn.1).symm.trans hn.2)).trans (if_pos ha)

theorem State.store_untimely (hd : (z.seqs.at n).det = true) (hl : detStore ea.toNat k v = true) :
    z.store n ea k al v w = .trap z { code := 6, detail := 0, tval := w } := if_pos ⟨hd, hl⟩

end stores

/-- An instruction that ends in `y` with a change of the registers. -/
theorem State.At.ends {y : State} {m : Mn} {w : W32} (h : s.At n m w z) {f : Seq → Seq} {k : Nat} {npc : Option W32}
    (hs : m.sem z n w = .done (y.modSeq n f) k npc) (hf : (y.seqs.at n).Kept (f (y.seqs.at n))) (hh : y.holds n = true) :
    s.macro_ n (some m) = y.after n k (npc.getD ((y.seqs.at n).pc + 4)) f := by
  have hat : (y.modSeq n f).seqs.at n = f (y.seqs.at n) := Bank.at_mod_self _ _ _
  have hholds : (y.modSeq n f).holds n = true := by
    unfold State.holds at hh ⊢
    rw [hat, hf.cxv, hf.cx]
    exact hh
  have hdone := h.done hs hholds
  rw [hat, hf.pc] at hdone
  exact hdone.trans (State.after_modSeq hf _ _)

theorem State.memWrite_seq (z : State) (req a k v : Nat) (n : Fin 16) : ∃ r, (z.memWrite req a k v).seqs.at n = { z.seqs.at n with resv := r } :=
  State.clearResv_seq { z with mem := z.mem.write req a k v } (a / 8) n

theorem State.memWrite_holds (hz : z.holds n = true) (req a k v : Nat) : (z.memWrite req a k v).holds n = true := by
  obtain ⟨r, hr⟩ := z.memWrite_seq req a k v n
  unfold State.holds at hz ⊢
  rw [hr]
  exact hz

/-- The register space has no memory window below it. -/
theorem memWindow_low {a : Nat} (h : memWindow a = true) : 0x1000000 ≤ a := by
  by_contra hn
  unfold memWindow memOf at h
  rw [if_neg (by omega), if_neg (by omega), if_neg (by omega), if_neg (by omega)] at h
  exact Bool.false_ne_true h

theorem hwWins_none (a : Nat) (v : W32) : hwWins a v 0 = v := by
  rw [hwWins, show (0 : W32) &&& w1Bits a = 0#32 from BitVec.zero_and, BitVec.not_zero, BitVec.and_allOnes]

theorem detLoad_iff {a k : Nat} : detLoad a k = true ↔ a < 0x1000000 ∧ 0x10 < a + k := decide_eq_true_iff

theorem detStore_mem {a : Nat} (k v : Nat) (h : 0x1000000 ≤ a) : detStore a k v = false := by
  refine List.any_eq_false.2 fun i _ hi => ?_
  simp only [Bool.and_eq_true, Bool.or_eq_true, decide_eq_true_eq] at hi
  omega

/-- R284: registers are accessed as words. -/
theorem State.refusal_width {q : Req} {wr : Bool} {a k v : Nat} (hm : memWindow a = false) (hk : k ≠ 4)
    (hq : q.who ≠ .host) : z.refusal q wr a k v ≠ none := by
  have hbad : badWidth q a k = true := by
    unfold badWidth
    rw [hm, if_neg Bool.false_ne_true, decide_eq_false hq, decide_eq_true hk]
    split <;> rfl
  unfold State.refusal
  dsimp only
  split
  · nofun
  · nofun

end data

/-! R286: a word that crosses a block of 8 bytes. -/

section crossing
variable {s z : State} {n : Fin 16}

theorem memWindow_iff (a : Nat) : memWindow a = true ↔ 0x1000000 ≤ a ∧ a < 0x1200000 ∨ 0x1200000 ≤ a ∧ a < 0x1210000 ∨
    0x1400000 ≤ a ∧ a < 0x1440000 ∨ 0x1800000 ≤ a ∧ a < 0x1880000 := by
  unfold memWindow memOf
  split_ifs with h1 h2 h3 h4
  · exact iff_of_true rfl (.inl h1)
  · exact iff_of_true rfl (.inr (.inl h2))
  · exact iff_of_true rfl (.inr (.inr (.inl h3)))
  · exact iff_of_true rfl (.inr (.inr (.inr h4)))
  · exact iff_of_false nofun fun h => h.elim h1 fun h => h.elim h2 fun h => h.elim h3 h4

theorem regRegion_low {a : Nat} (h : regRegion a = true) : a < 0x210000 := by
  unfold regRegion within at h
  simp only [Bool.or_eq_true, decide_eq_true_eq] at h
  omega

theorem State.refusal_region {q : Req} {wr : Bool} {a k v : Nat} (h : z.refusal q wr a k v = none) :
    regRegion a = true ∨ memWindow a = true := by
  by_contra hn
  refine absurd h ?_
  unfold State.refusal
  have hf : (!(regRegion a || memWindow a)) = true := by
    rw [Bool.not_eq_true', ← Bool.not_eq_true, Bool.or_eq_true]
    exact hn
  dsimp only
  rw [if_pos hf]
  nofun

/-- The second part of a word that begins in a memory lies in a memory too. -/
theorem State.memWindow_part {q : Req} {wr : Bool} {a i k v : Nat} (hm : memWindow a = true) (h : z.refusal q wr (a + i) k v = none) :
    memWindow (a + i) = true := by
  refine (State.refusal_region h).resolve_left fun hr => ?_
  have h1 := regRegion_low hr
  have h2 := memWindow_low hm
  omega

theorem State.accessCause_two (z : State) {q : Req} {wr un : Bool} {a v : Nat} (hm : memWindow a = true) (h4 : 4 < a % 8)
    (h1 : z.refusal q wr a (8 - a % 8) (v % 256 ^ (8 - a % 8)) = none)
    (h2 : z.refusal q wr (a + (8 - a % 8)) (4 - (8 - a % 8)) (v / 256 ^ (8 - a % 8) % 256 ^ (4 - (8 - a % 8))) = none) :
    z.accessCause q wr a 4 v un = none := by
  unfold State.accessCause
  rw [hm, if_neg (by simp)]
  unfold splitParts
  rw [if_neg (by omega), List.findSome?_cons, List.findSome?_cons]
  dsimp only
  rw [Nat.sub_self, Nat.pow_zero, Nat.div_one, Nat.add_sub_cancel_left, h1, h2] <;> rfl

theorem Mem.num_add (m : Mem) (i j a : Nat) : m.num a (i + j) = m.num a i + m.num (a + i) j * 256 ^ i := by
  induction i generalizing a with
  | zero => rw [Nat.zero_add, Nat.add_zero, Nat.pow_zero, Nat.mul_one, Mem.num, Nat.zero_add]
  | succ i ih =>
    rw [Nat.add_right_comm, Mem.num, Mem.num, ih, Nat.add_right_comm a 1 i, Nat.add_assoc a i 1, Nat.pow_succ]
    ring

theorem State.busRead_clean {q : Req} {a k : Nat} (hw : q.who = .sq n) (hm : memWindow a = true) (hs : plainStore a = true) (hu : a / 8 ∉ z.mem.unc) (hc : a / 8 ∉ z.mem.corr)
    (hr : z.refusal q false a k 0 = none) : z.busRead q a k = (.ok (z.mem.num a k), z) := by
  refine State.busRead_mem hr hm ?_
  rw [hw]
  exact (State.memLoad_read (n := n) k hs).trans (State.memRead_clean z _ k hu hc)

theorem splitParts_two {a : Nat} (h4 : 4 < a % 8) : splitParts a 4 = [(a, 8 - a % 8), (a + (8 - a % 8), 4 - (8 - a % 8))] := if_neg (by omega)

theorem State.load_two {ea : W32} {u v : Nat} {y x : State} (hm : memWindow ea.toNat = true) (h4 : 4 < ea.toNat % 8)
    (h1 : z.refusal (z.seqReq n) false ea.toNat (8 - ea.toNat % 8) 0 = none)
    (h2 : z.refusal (z.seqReq n) false (ea.toNat + (8 - ea.toNat % 8)) (4 - (8 - ea.toNat % 8)) 0 = none)
    (hu : z.busRead (z.seqReq n) ea.toNat (8 - ea.toNat % 8) = (.ok u, y))
    (hv : y.busRead (z.seqReq n) (ea.toNat + (8 - ea.toNat % 8)) (4 - (8 - ea.toNat % 8)) = (.ok v, x)) :
    z.load n ea 4 1 = .ok x (u + v * 256 ^ (8 - ea.toNat % 8)) := by
  have hdet : ¬ ((z.seqs.at n).det = true ∧ detLoad ea.toNat 4 = true) := fun h => absurd (memWindow_low hm) (by have := detLoad_iff.1 h.2; omega)
  have hcause : z.accessCause (z.seqReq n) false ea.toNat 4 0 (decide (4 = 4 ∧ 1 = 1)) = none :=
    z.accessCause_two hm h4 (by rw [Nat.zero_mod, h1]) (by rw [Nat.zero_div, Nat.zero_mod, h2])
  unfold State.load
  dsimp only
  rw [if_neg hdet, if_neg (by omega), hcause, splitParts_two h4]
  unfold State.loadParts
  dsimp only
  rw [hu]
  dsimp only
  unfold State.loadParts
  dsimp only
  rw [hv]
  refine congrArg (DataRes.ok x) ?_
  rw [Nat.sub_self, Nat.pow_zero, Nat.mul_one, Nat.zero_add, Nat.add_sub_cancel_left]

theorem State.store_two {ea w : W32} {v : Nat} {y x : State} (hm : memWindow ea.toNat = true) (h4 : 4 < ea.toNat % 8) (hfit : v < 256 ^ 4)
    (h1 : z.refusal (z.seqReq n) true ea.toNat (8 - ea.toNat % 8) (v % 256 ^ (8 - ea.toNat % 8)) = none)
    (h2 : z.refusal (z.seqReq n) true (ea.toNat + (8 - ea.toNat % 8)) (4 - (8 - ea.toNat % 8)) (v / 256 ^ (8 - ea.toNat % 8)) = none)
    (hu : z.busWrite (z.seqReq n) ea.toNat (8 - ea.toNat % 8) (v % 256 ^ (8 - ea.toNat % 8)) = (none, y))
    (hv : y.busWrite (z.seqReq n) (ea.toNat + (8 - ea.toNat % 8)) (4 - (8 - ea.toNat % 8)) (v / 256 ^ (8 - ea.toNat % 8)) = (none, x)) :
    z.store n ea 4 1 v w = .ok x 0 := by
  have hhigh : v / 256 ^ (8 - ea.toNat % 8) % 256 ^ (4 - (8 - ea.toNat % 8)) = v / 256 ^ (8 - ea.toNat % 8) := by
    refine Nat.mod_eq_of_lt (Nat.div_lt_of_lt_mul ?_)
    rw [← Nat.pow_add, show 8 - ea.toNat % 8 + (4 - (8 - ea.toNat % 8)) = 4 by omega]
    exact hfit
  have hdet : ¬ ((z.seqs.at n).det = true ∧ detStore ea.toNat 4 v = true) := fun h =>
    Bool.false_ne_true ((detStore_mem 4 v (memWindow_low hm)).symm.trans h.2)
  have hcause : z.accessCause (z.seqReq n) true ea.toNat 4 v (decide (4 = 4 ∧ 1 = 1)) = none :=
    z.accessCause_two hm h4 h1 (by rw [hhigh, h2])
  unfold State.store
  dsimp only
  rw [if_neg hdet, if_neg (by omega), hcause, splitParts_two h4]
  unfold State.storeParts
  rw [List.foldl_cons, List.foldl_cons, List.foldl_nil]
  dsimp only
  rw [Nat.sub_self, Nat.pow_zero, Nat.div_one, hu, Nat.add_sub_cancel_left, hhigh, hv]

/-- A word of register space that does not begin at a word is refused. -/
theorem State.accessCause_unaligned (z : State) (q : Req) (wr : Bool) {a v : Nat} (hm : memWindow a = false) (ha : a % 4 ≠ 0) :
    z.accessCause q wr a 4 v true = some (a, if regRegion a = true then .width else .unmapped) := by
  unfold State.accessCause
  rw [hm, if_pos (by simp [ha]), Bool.or_false]

theorem State.refused_width (z : State) (wr : Bool) (a : Nat) (p : Prop) [Decidable p] : z.refused wr a (if p then .width else .unmapped) = z := by
  unfold State.refused
  split <;> rfl

/-- What a misaligned word of register space is refused with. -/
def unalignedCause (a : Nat) : Cause := if regRegion a = true then .width else .unmapped

theorem unalignedCause_code (a : Nat) : (unalignedCause a).code = if regRegion a = true then Cause.width.code else Cause.unmapped.code :=
  apply_ite Cause.code _ _ _

theorem State.load_unaligned {ea : W32} (hd : (z.seqs.at n).det = true → detLoad ea.toNat 4 = false) (hm : memWindow ea.toNat = false)
    (ha : ea.toNat % 4 ≠ 0) : z.load n ea 4 1 = .trap z { code := 10, detail := (unalignedCause ea.toNat).code, tval := ea } := by
  have hdet : ¬ ((z.seqs.at n).det = true ∧ detLoad ea.toNat 4 = true) := fun h => Bool.false_ne_true ((hd h.1).symm.trans h.2)
  unfold State.load
  dsimp only
  rw [if_neg hdet, if_neg (by omega), decide_eq_true (by decide), z.accessCause_unaligned _ _ hm ha]
  exact congrArg (DataRes.trap · _) (z.refused_width _ _ _)

theorem State.store_unaligned {ea w : W32} {v : Nat} (hd : (z.seqs.at n).det = true → detStore ea.toNat 4 v = false) (hm : memWindow ea.toNat = false)
    (ha : ea.toNat % 4 ≠ 0) : z.store n ea 4 1 v w = .trap z { code := 10, detail := (unalignedCause ea.toNat).code, tval := ea } := by
  have hdet : ¬ ((z.seqs.at n).det = true ∧ detStore ea.toNat 4 v = true) := fun h => Bool.false_ne_true ((hd h.1).symm.trans h.2)
  unfold State.store
  dsimp only
  rw [if_neg hdet, if_neg (by omega), decide_eq_true (by decide), z.accessCause_unaligned _ _ hm ha]
  exact congrArg (DataRes.trap · _) (z.refused_width _ _ _)

end crossing

/-! R310, R311: atomics. -/

section atoms
variable {s z : State} {n : Fin 16}

theorem State.modSeq_modSeq (s : State) (n : Fin 16) (f g : Seq → Seq) : (s.modSeq n f).modSeq n g = s.modSeq n fun q => g (f q) :=
  congrArg (fun b => ({ s with seqs := b } : State)) (Bank.mod_upd_self _ _ _ _)

/-- A sequencer without its reservation or with another. -/
def Seq.reserve (q : Seq) (r : Option Nat) : Seq := { q with resv := r }

theorem Seq.setReg_reserve (q : Seq) (r : Nat) (v : W32) (x : Option Nat) : (q.reserve x).setReg r v = (q.setReg r v).reserve x := by
  unfold Seq.setReg Seq.reserve
  dsimp only
  split <;> rfl

theorem Seq.kept_reserve (q : Seq) (r : Nat) (v : W32) (x : Option Nat) : q.Kept ((q.setReg r v).reserve x) :=
  (q.kept_setReg r v).trans ⟨rfl, rfl, rfl, rfl⟩

theorem State.atomTrap_none {ea : W32} {wr : Bool} {v : Nat} (ha : ea.toNat % 4 = 0) (hw : atomWindow ea.toNat = true)
    (hr : z.refusal (z.seqReq n) wr ea.toNat 4 v = none) : z.atomTrap n ea wr v = none := by
  unfold State.atomTrap State.atomCause
  rw [if_neg (not_not.2 ha), hr, hw] <;> rfl

theorem State.atomTrap_misaligned {ea : W32} {wr : Bool} {v : Nat} (ha : ea.toNat % 4 ≠ 0) :
    z.atomTrap n ea wr v = some (z, { code := 9, detail := 0, tval := ea }) := if_pos ha

theorem State.atomTrap_disabled {ea : W32} {wr : Bool} {v : Nat} (ha : ea.toNat % 4 = 0) (hw : atomWindow ea.toNat = false)
    (hr : z.refusal (z.seqReq n) wr ea.toNat 4 v = none) (hc : wr = false ∨ csOffset ea.toNat = false) :
    z.atomTrap n ea wr v = some (z, { code := 10, detail := Cause.disabled.code, tval := ea }) := by
  have hrefused : z.refused wr ea.toNat .disabled = z := by
    refine (if_neg nofun).trans (if_neg fun h => ?_)
    rcases hc with hc | hc
    · exact Bool.false_ne_true (hc.symm.trans h.2.1)
    · exact Bool.false_ne_true (hc.symm.trans h.2.2)
  unfold State.atomTrap State.atomCause
  rw [if_neg (not_not.2 ha), hr, hw, if_neg Bool.false_ne_true]
  exact congrArg (fun y => some (y, _)) hrefused

theorem State.linked_trap {ea : W32} {y : State} {t : Trap} (ht : z.atomTrap n ea false 0 = some (y, t)) : z.linked n ea = .trap y t := by
  unfold State.linked
  rw [ht]

theorem State.linked_ok {ea : W32} (ht : z.atomTrap n ea false 0 = none) (hs : plainStore ea.toNat = true) (hu : ea.toNat / 8 ∉ z.mem.unc) :
    z.linked n ea = .ok ((z.checked n ea.toNat).modSeq n fun q => q.reserve (some (ea.toNat / 8))) (z.mem.num ea.toNat 4) := by
  unfold State.linked
  rw [ht]
  dsimp only
  rw [State.memLoad_plain 4 hs hu] <;> rfl

/-- The registers after LL or SC. -/
theorem State.putRd_reserve (z : State) (n : Fin 16) (w v : W32) (x : Option Nat) (k : Nat) :
    (z.modSeq n fun q => q.reserve x).putRd n w v k = .done (z.modSeq n fun q => (q.setReg (rdF w) v).reserve x) k none := by
  unfold State.putRd
  rw [State.modSeq_modSeq]
  exact congrArg (fun f => Res.done (z.modSeq n f) k none) (funext fun q => q.setReg_reserve _ _ _)

/-- SC with and without its reservation. -/
theorem State.conditional_hit {ea v : W32} (hr : (z.seqs.at n).resv = some (ea.toNat / 8)) (ht : z.atomTrap n ea true v.toNat = none) :
    z.conditional n ea v = .ok ((z.memWrite n.val ea.toNat 4 v.toNat).modSeq n fun q => q.reserve none) 1 := by
  unfold State.conditional
  simp only [decide_eq_true hr, Bool.not_true, Bool.false_and, Bool.false_eq_true, if_false, ht, if_true]
  rfl

theorem State.conditional_miss {ea v : W32} (hr : (z.seqs.at n).resv ≠ some (ea.toNat / 8)) (ha : ea.toNat % 4 = 0) (hw : atomWindow ea.toNat = true) :
    z.conditional n ea v = .ok (z.modSeq n fun q => q.reserve none) 0 := by
  unfold State.conditional
  simp only [decide_eq_false hr, Bool.not_false, Bool.true_and, decide_eq_true ha, hw, if_true, Bool.false_eq_true, if_false]
  rfl

theorem State.conditional_trap {ea v : W32} {y : State} {t : Trap} (hn : ea.toNat % 4 ≠ 0 ∨ atomWindow ea.toNat = false)
    (ht : z.atomTrap n ea true v.toNat = some (y, t)) : z.conditional n ea v = .trap y t := by
  have hidle (h : Bool) : (!h && decide (ea.toNat % 4 = 0) && atomWindow ea.toNat) = false := by
    rcases hn with hn | hn <;> simp [hn]
  unfold State.conditional
  simp only [hidle, Bool.false_eq_true, if_false, ht]

end atoms

/-- R282: a value that fits in `k` bits is the same extended. -/
theorem setWidth_ofNat {v k : Nat} (h : v < 2 ^ k) (hk : k ≤ 32) : (BitVec.ofNat k v).setWidth 32 = BitVec.ofNat 32 v :=
  BitVec.eq_of_toNat_eq (by
    have : 2 ^ k ≤ 2 ^ 32 := Nat.pow_le_pow_right (by decide) hk
    rw [BitVec.toNat_setWidth, BitVec.toNat_ofNat, BitVec.toNat_ofNat, Nat.mod_eq_of_lt h])

/-- R285: the words of a pair. -/
theorem setPair_ofNat (q : Seq) (r v : Nat) :
    q.setPair r (BitVec.ofNat 64 v) = (q.setReg r (BitVec.ofNat 32 v)).setReg (r + 1) (BitVec.ofNat 32 (v / 2 ^ 32)) := by
  have hlo : lo32 (BitVec.ofNat 64 v) = BitVec.ofNat 32 v := BitVec.eq_of_toNat_eq (by
    simp only [lo32, BitVec.extractLsb'_toNat, BitVec.toNat_ofNat, Nat.shiftRight_zero]
    omega)
  have hhi : hi32 (BitVec.ofNat 64 v) = BitVec.ofNat 32 (v / 2 ^ 32) := BitVec.eq_of_toNat_eq (by
    simp only [hi32, BitVec.extractLsb'_toNat, BitVec.toNat_ofNat, Nat.shiftRight_eq_div_pow]
    omega)
  unfold Seq.setPair
  rw [hlo, hhi]

theorem pair_toNat (q : Seq) (r : Nat) : (q.pair r).toNat = (q.reg r).toNat + 2 ^ 32 * (q.reg (r + 1)).toNat := by
  unfold Seq.pair join
  rw [BitVec.toNat_append, ← Nat.shiftLeft_add_eq_or_of_lt (q.reg r).isLt, Nat.shiftLeft_eq]
  omega

/-- Settles O55. -/
theorem macroMemory : Obligations.MacroMemory := by
  unfold Obligations.MacroMemory
  refine ⟨fun s z n w => ?access, fun s z n w => ?atomic, fun s req a k v n => ?resv⟩
  case access =>
    intro q ea a r next trap checked store det load rd put one
    have hword {k al : Nat} (hm : memWindow a = true ∨ a % k = 0) : memWindow a = true ∨ a % 4 = 0 ∨ decide (k = 4 ∧ al = 1) = false := by
      refine hm.imp_right fun h => ?_
      by_cases hk : k = 4
      · exact .inl (hk ▸ h)
      · exact .inr (decide_eq_false fun k => hk k.1)
    have hword4 {k al : Nat} (hk : k = 4) (hal : al = 1 ∨ al = k) (ha : a % k = 0) : a % al = 0 ∧ a % 8 + k ≤ 8 := by
      subst hk
      rcases hal with rfl | rfl <;> omega
    have hload {i : Instr} {m : Mn} {k al u : Nat} {f g : Nat → Seq → Seq} (hi : exec i s = .next (s.macro_ n (some m)))
        (hs : m.sem z n w = (z.load n ea k al).andThen fun y v => .done (y.modSeq n (g v)) u none)
        (hk : k = 1 ∨ k = 2 ∨ k = 4 ∨ k = 8) (hal : al = 1 ∨ al = k) (hu : a % 8 + k ≤ 8 → u = 3) (hg : ∀ v, v < 256 ^ k → g v = f v)
        (hf : ∀ v (x : Seq), x.Kept (f v x)) : load i m k al f := by
      intro h one
      have hread (hone : one) (hm : memWindow a = true ∨ a % k = 0) (hd : det = true → 0x1000000 ≤ a ∨ a + k ≤ 0x10) : z.LoadsOne n ea k al := by
        refine ⟨fun h => Bool.eq_false_iff.2 fun hn => ?_, hone.1, hone.2, hword hm⟩
        have h1 := detLoad_iff.1 hn
        have h2 := hd h
        omega
      have hdone {v : Nat} {y : State} (hl : z.load n ea k al = .ok y v) (hone : a % 8 + k ≤ 8) (hv : v < 256 ^ k) (hh : y.holds n = true) :
          exec i s = .next (y.after n 3 ((y.seqs.at n).pc + 4) (f v)) := by
        refine hi.trans (congrArg Host.Outcome.next (h.ends (npc := none) ?_ (hf v _) hh))
        rw [hs, hl, ← hg v hv, hu hone] <;> rfl
      have htrap {t : Trap} {y : State} (hl : z.load n ea k al = .trap y t) : exec i s = .next (y.trapsTo n 2 t) :=
        hi.trans (congrArg Host.Outcome.next (h.trap (hs.trans (congrArg (fun x : DataRes => x.andThen _) hl))))
      refine ⟨fun hm hone hst hr hu => ?_, fun hm hone hr hu => ?_, fun hm hone hst hr hu => ?_, fun v y hm ha hd hr he hrd hh => ?_, fun hd h1 h2 => ?_, fun hd ha => ?_,
        fun c hd hone hm hr => htrap ((hread hone hm hd).refused hr)⟩
      · exact hdone ((hread hone (.inl hm) fun _ => .inl (memWindow_low hm)).read hr (State.busRead_mem hr hm (State.memLoad_plain k hst hu))) hone.2
          (Mem.num_lt _ _ _) h.holds
      · exact htrap ((hread hone (.inl hm) fun _ => .inl (memWindow_low hm)).lost hr (State.busRead_memEcc hr hm (State.memLoad_lost k hu)))
      · obtain ⟨v, hv, hl⟩ := State.memLoad_mailbox (z := z) (n := n) k hst hu
        exact ⟨v, hdone ((hread hone (.inl hm) fun _ => .inl (memWindow_low hm)).read hr (State.busRead_mem hr hm hl)) hone.2 hv h.holds⟩
      · have hk4 : k = 4 := by_contra fun hk => State.refusal_width hm hk (show Master.sq n ≠ .host from nofun) hr
        have hone : one := hword4 hk4 hal ha
        have hbus : z.busRead r a k = (.ok v.toNat, y) := by
          rw [State.busRead_reg hr hm he, hrd]
        exact hdone ((hread hone (.inr ha) fun h => .inr (hd h)).read hr hbus) hone.2 (hk4 ▸ v.isLt) hh
      · exact htrap (State.load_untimely hd (detLoad_iff.2 ⟨h1, h2⟩))
      · refine htrap (State.load_misaligned (fun h => Bool.eq_false_iff.2 fun hn => ?_) ha)
        have h1 := detLoad_iff.1 hn
        have h2 := hd h
        omega
    have hput {i : Instr} {m : Mn} {k al v u : Nat} (hi : exec i s = .next (s.macro_ n (some m)))
        (hs : m.sem z n w = (z.store n ea k al v w).stored u)
        (hk : k = 1 ∨ k = 2 ∨ k = 4 ∨ k = 8) (hal : al = 1 ∨ al = k) (hu : a % 8 + k ≤ 8 → u = 2) (hv : v < 256 ^ k) : put i m k al v := by
      intro h one timely
      have hwrite (hone : one) (hm : memWindow a = true ∨ a % k = 0) (hd : timely) : z.StoresOne n ea k al v :=
        ⟨hd, hone.1, hone.2, hword hm, hv⟩
      have hdone {y : State} (hl : z.store n ea k al v w = .ok y 0) (hone : a % 8 + k ≤ 8) (hh : y.holds n = true) :
          exec i s = .next (y.after n 2 ((y.seqs.at n).pc + 4) id) := by
        refine hi.trans (congrArg Host.Outcome.next (h.done (npc := none) ?_ hh))
        rw [hs, hl, hu hone] <;> rfl
      have htrap {t : Trap} {y : State} (hl : z.store n ea k al v w = .trap y t) : exec i s = .next (y.trapsTo n 2 t) :=
        hi.trans (congrArg Host.Outcome.next (h.trap (hs.trans (congrArg (fun x : DataRes => x.stored u) hl))))
      refine ⟨fun hm hone hr => ?_, fun y hm ha hd hr hy hh => ?_, fun hd hl => htrap (State.store_untimely hd hl),
        fun hd ha => htrap (State.store_misaligned hd ha), fun c hd hone hm hr => htrap ((hwrite hone hm hd).store_eq hr)⟩
      · have hst := (hwrite hone (.inl hm) fun _ => detStore_mem k v (memWindow_low hm)).store_eq (w := w) hr
        rw [State.busWrite_mem hr hm] at hst
        obtain ⟨x, hx⟩ := z.memWrite_seq n.val a k v n
        dsimp only at hst
        have hend := hdone hst hone.2 (State.memWrite_holds h.holds _ _ _ _)
        have hpc : ((z.memWrite r.who.memReq a k v).seqs.at n).pc = q.pc := (congrArg Seq.pc hx :)
        rwa [hpc] at hend
      · have hk4 : k = 4 := by_contra fun hk => State.refusal_width hm hk (show Master.sq n ≠ .host from nofun) hr
        have hone : one := hword4 hk4 hal ha
        have hst := (hwrite hone (.inr ha) hd).store_eq (w := w) hr
        rw [State.busWrite_reg hr hm, show hwWins a (BitVec.ofNat 32 v) r.hw = BitVec.ofNat 32 v from hwWins_none _ _, hy] at hst
        exact hdone hst hone.2 hh
    have hreg (v : W32) (x : Seq) : x.Kept (x.setReg (rdF w) v) := Seq.kept_setReg _ _ _
    have hone4 : one < 256 ^ 4 := (q.reg (rdF w)).isLt
    refine ⟨hload (m := .ldb) rfl rfl (by decide) (by decide) (fun _ => rfl) (fun _ _ => rfl) (fun _ _ => hreg _ _),
      hload (m := .ldbu) rfl rfl (by decide) (by decide) (fun _ => rfl) (fun v hv => ?ldbu) (fun _ _ => hreg _ _),
      hload (m := .ldh) rfl rfl (by decide) (by decide) (fun _ => rfl) (fun _ _ => rfl) (fun _ _ => hreg _ _),
      hload (m := .ldhu) rfl rfl (by decide) (by decide) (fun _ => rfl) (fun v hv => ?ldhu) (fun _ _ => hreg _ _),
      hload (m := .ldw) rfl rfl (by decide) (by decide) (fun _ => rfl) (fun _ _ => rfl) (fun _ _ => hreg _ _),
      hload (m := .ldwu) rfl rfl (by decide) (by decide) (fun h => if_pos (show a % 8 ≤ 4 by omega)) (fun _ _ => rfl) (fun _ _ => hreg _ _),
      hload (m := .ldp) (f := fun v q => (q.setReg (rdF w) (BitVec.ofNat 32 v)).setReg (rdF w + 1) (BitVec.ofNat 32 (v / 2 ^ 32))) rfl rfl (by decide) (by decide) (fun _ => rfl) (fun v hv => ?ldp) (fun _ _ => ?kept),
      hput (m := .stb) rfl rfl (by decide) (by decide) (fun _ => rfl) (Nat.mod_lt _ (by decide)),
      hput (m := .sth) rfl rfl (by decide) (by decide) (fun _ => rfl) (Nat.mod_lt _ (by decide)),
      hput (m := .stw) rfl ?stw (by decide) (by decide) (fun _ => rfl) hone4,
      hput (m := .stwu) rfl rfl (by decide) (by decide) (fun h => if_pos (show a % 8 ≤ 4 by omega)) hone4,
      hput (m := .stp) rfl ?stp (by decide) (by decide) (fun _ => rfl) ?stpFits, ⟨?crossLoad, ?crossStore⟩, ?ldwuReg, ?stwuReg⟩
    case ldbu => exact congrArg (fun x : W32 => fun q : Seq => q.setReg (rdF w) x) (setWidth_ofNat (k := 8) hv (by decide))
    case ldhu => exact congrArg (fun x : W32 => fun q : Seq => q.setReg (rdF w) x) (setWidth_ofNat (k := 16) hv (by decide))
    case ldp => exact funext fun q => setPair_ofNat q (rdF w) v
    case kept => exact (hreg _ _).trans (Seq.kept_setReg _ _ _)
    case stw => exact congrArg (fun v => (z.store n ea 4 4 v w).stored 2) (Nat.mod_eq_of_lt hone4)
    case stp => exact congrArg (fun v => (z.store n ea 8 8 v w).stored 2) (pair_toNat q (rdF w))
    case stpFits => exact pair_toNat q (rdF w) ▸ (q.pair (rdF w)).isLt
    case crossLoad =>
      intro h hm h4 hu1 hu2 hc1 hc2 hbox hr1 hr2
      have hm2 : memWindow (a + (8 - a % 8)) = true := State.memWindow_part hm hr2
      have hsum : a % 8 + (8 - a % 8) = 8 := by omega
      have hdiv : (a + (8 - a % 8)) / 8 = a / 8 + 1 := by omega
      have hplain : plainStore a = true ∧ plainStore (a + (8 - a % 8)) = true := by
        have h1 := (memWindow_iff a).1 hm
        simp only [plainStore, Bool.not_eq_true', Bool.and_eq_false_iff, decide_eq_false_iff_not]
        omega
      have hread1 : z.busRead r a (8 - a % 8) = (.ok (z.mem.num a (8 - a % 8)), z) := State.busRead_clean rfl hm hplain.1 hu1 hc1 hr1
      have hread2 : z.busRead r (a + (8 - a % 8)) (4 - (8 - a % 8)) = (.ok (z.mem.num (a + (8 - a % 8)) (4 - (8 - a % 8))), z) :=
        State.busRead_clean rfl hm2 hplain.2 (hdiv ▸ hu2) (hdiv ▸ hc2) hr2
      have hl : z.load n ea 4 1 = .ok z (z.mem.num a 4) := by
        have hadd := z.mem.num_add (8 - a % 8) (4 - (8 - a % 8)) a
        rw [show 8 - a % 8 + (4 - (8 - a % 8)) = 4 by omega] at hadd
        rw [hadd]
        exact State.load_two hm h4 hr1 hr2 hread1 hread2
      refine congrArg Host.Outcome.next (h.ends (npc := none) (f := fun q => q.setReg (rdF w) _) ?_ (hreg _ _) h.holds)
      change (z.load n ea 4 1).andThen _ = _
      rw [hl]
      exact congrArg (fun k => Res.done _ k none) (if_neg (show ¬ a % 8 ≤ 4 by omega))
    case crossStore =>
      intro h hm h4 hr1 hr2 hr3
      have hm2 : memWindow (a + (8 - a % 8)) = true := State.memWindow_part hm hr2
      have hs := State.store_two (w := w) hm h4 hone4 hr1 hr2 (State.busWrite_mem hr1 hm) (State.busWrite_mem hr3 hm2)
      have hsem : Mn.stwu.sem z n w = .done ((z.memWrite n.val a (8 - a % 8) (one % 256 ^ (8 - a % 8))).memWrite n.val (a + (8 - a % 8)) (4 - (8 - a % 8))
          (one / 256 ^ (8 - a % 8))) 5 none := by
        change (z.store n ea 4 1 one w).stored _ = _
        rw [hs]
        exact congrArg (fun k => Res.done _ k none) (if_neg (show ¬ a % 8 ≤ 4 by omega))
      have hend := h.done hsem (State.memWrite_holds (State.memWrite_holds h.holds _ _ _ _) _ _ _ _)
      obtain ⟨x1, hx1⟩ := z.memWrite_seq n.val a (8 - a % 8) (one % 256 ^ (8 - a % 8)) n
      obtain ⟨x2, hx2⟩ := (z.memWrite n.val a (8 - a % 8) (one % 256 ^ (8 - a % 8))).memWrite_seq n.val (a + (8 - a % 8)) (4 - (8 - a % 8))
        (one / 256 ^ (8 - a % 8)) n
      rw [hx2, hx1] at hend
      exact congrArg Host.Outcome.next hend
    case ldwuReg =>
      intro h hm ha hd
      have hl := State.load_unaligned (z := z) (n := n) (fun h => Bool.eq_false_iff.2 fun hn => ?_) hm ha
      · rw [unalignedCause_code] at hl
        exact congrArg Host.Outcome.next (h.trap (DataRes.andThen_trap hl))
      · have h1 := detLoad_iff.1 hn
        have h2 := hd h
        omega
    case stwuReg =>
      intro h hm ha hd
      have hl := State.store_unaligned (w := w) (z := z) (n := n) hd hm ha
      rw [unalignedCause_code] at hl
      exact congrArg Host.Outcome.next (h.trap (DataRes.andThen_trap hl))
  case atomic =>
    intro q ea a v next trap atom store
    have hatom : atomWindow a = atom := by
      simp only [atom, atomWindow, bne, decide_not, beq_eq_decide]
    have hll {t : Trap} {y : State} (h : s.At n .ll w z) (ht : z.atomTrap n ea false 0 = some (y, t)) : exec (.ll n) s = .next (y.trapsTo n 2 t) :=
       congrArg Host.Outcome.next (h.trap (DataRes.andThen_trap (State.linked_trap ht)))
    have hsc {t : Trap} {y : State} (h : s.At n .sc w z) (hn : a % 4 ≠ 0 ∨ atom = false) (ht : z.atomTrap n ea true v.toNat = some (y, t)) :
        exec (.sc n) s = .next (y.trapsTo n 2 t) :=
      congrArg Host.Outcome.next (h.trap (DataRes.andThen_trap (State.conditional_trap (hn.imp_right hatom.trans) ht)))
    refine ⟨fun h ha hw hst hr hu => ?ll, fun h ha hw hr hres => ?hit, fun h ha hw hres => ?miss, fun h => ?clrex,
      fun h ha => hll h (State.atomTrap_misaligned ha), fun h ha => hsc h (.inl ha) (State.atomTrap_misaligned ha),
      fun h ha hw hr => hll h (State.atomTrap_disabled ha (hatom.trans hw) hr (.inl rfl)),
      fun h ha hw hc hr => hsc h (.inr hw) (State.atomTrap_disabled ha (hatom.trans hw) hr (.inr hc))⟩
    case ll =>
      refine congrArg Host.Outcome.next (h.ends (npc := none) (f := fun q => (q.setReg (rdF w) _).reserve _) ?_ (Seq.kept_reserve _ _ _ _) h.holds)
      exact (DataRes.andThen_ok (State.linked_ok (State.atomTrap_none ha (hatom.trans hw) hr) hst hu)).trans
        (State.putRd_reserve _ _ _ _ _ _)
    case hit =>
      obtain ⟨x, hx⟩ := z.memWrite_seq n.val a 4 v.toNat n
      have hend := h.ends (npc := none) (f := fun q => (q.setReg (rdF w) 1).reserve none)
        ((DataRes.andThen_ok (State.conditional_hit hres (State.atomTrap_none ha (hatom.trans hw) hr))).trans
          (State.putRd_reserve _ _ _ _ _ _)) (Seq.kept_reserve _ _ _ _) (State.memWrite_holds h.holds _ _ _ _)
      rw [hx] at hend
      exact congrArg Host.Outcome.next hend
    case miss =>
      exact congrArg Host.Outcome.next (h.ends (npc := none) (f := fun q => (q.setReg (rdF w) 0).reserve none)
        ((DataRes.andThen_ok (State.conditional_miss hres ha (hatom.trans hw))).trans
          (State.putRd_reserve _ _ _ _ _ _)) (Seq.kept_reserve _ _ _ _) h.holds)
    case clrex => exact congrArg Host.Outcome.next (h.moves (f := fun q => q.reserve none) rfl ⟨rfl, rfl, rfl, rfl⟩)
  case resv =>
    refine (congrArg Seq.resv (Bank.at_map _ _ _)).trans ?_
    exact apply_ite Seq.resv _ _ _

end Sys2Proof.Machine

namespace Sys2Proof.Machine

/-! R119: an instruction that a full lane queue holds. -/

/-- A word of ENQL. -/
def enqlWord : W32 := 0xC4000001

/-- An ENQL whose delivery to lane 0 waits, marked as one with more microwords to run. -/
def heldEnql : Held := { ir := enqlWord, act := 0, dom := 0, ns := 0, micro := none, fed := false, more := true }

/-- Sequencer 0 holds `heldEnql`; TD0 runs, and lane 0 has just taken an entry. -/
def enqlWaits : State :=
  { State.reset with
    power := { State.reset.power with crst := false, halves := Bank.fill 2 { Half.reset with st := .run } }
    beryl := { Beryl.reset with st := .run }
    lanes := State.reset.lanes.upd 0 { State.reset.lanes.at 0 with st := .run, lastAccept := some 0 }
    seqs := State.reset.seqs.upd 0 { State.reset.seqs.at 0 with held := some heldEnql } }

/-- The mark of the held instruction of sequencer 0. -/
def heldMore (o : Host.Outcome State Fault Refusal) : Option Bool :=
  match o with
  | .next z => ((z.seqs.at 0).held).map Held.more
  | _ => none

theorem enqlWaits_holds : enqlWaits.seqUp 0 = true ∧ (enqlWaits.seqs.at 0).held = some heldEnql ∧ decodeMacro enqlWord = some .enql ∧
    actOfWord 0 = some .drive := by
  decide +kernel

theorem enqlWaits_stalls : (({ enqlWaits with seqs := enqlWaits.seqs.upd 0 { enqlWaits.seqs.at 0 with held := none } } : State).enqLane
    (Fin.ofNat 256 (fldN (0 : W32) 8 8)) .drive (bit (0 : W32) 0) 0 0).2 = .stall := by
  decide +kernel

theorem enqlWaits_more : heldMore (exec (.enql 0) enqlWaits) = some false ∧ heldMore (.next (enqlWaits.ran 0)) = some true := by
  decide +kernel

/-- Refutes O56: the delivery of a held ENQL that must wait again is held anew without the mark of microwords that follow, which the
statement has stay as it was. -/
theorem not_macroTimeAndEnqueue : ¬ Obligations.MacroTimeAndEnqueue := by
  unfold Obligations.MacroTimeAndEnqueue
  rintro ⟨hheld, -⟩
  obtain ⟨hup, hh, hir, hop⟩ := enqlWaits_holds
  obtain ⟨-, hstall, -⟩ := hheld enqlWaits 0 heldEnql .drive hup hh hir rfl rfl hop
  have hsame := hstall _ (Prod.ext rfl enqlWaits_stalls)
  obtain ⟨hfalse, htrue⟩ := enqlWaits_more
  rw [hsame, htrue] at hfalse
  exact absurd hfalse (by decide)

end Sys2Proof.Machine

namespace Sys2Proof.Machine

/-! What the units that a sequencer works on leave of the hold on its channel. -/

/-- The halves, which channels are resident, and of each sequencer its channel and its pc are kept. -/
structure State.HolderKept (s t : State) : Prop where
  power : t.power = s.power
  res : ∀ c, (t.chans.at c).res = (s.chans.at c).res
  seq : ∀ n, (s.seqs.at n).Stays (t.seqs.at n)

section kept
variable {s z y : State} {n : Fin 16}

theorem State.HolderKept.of_eq {s t : State} (hp : t.power = s.power) (hc : t.chans = s.chans) (hs : t.seqs = s.seqs) : s.HolderKept t :=
  ⟨hp, fun c => by rw [hc], fun n => by rw [hs]; exact ⟨rfl, rfl, rfl⟩⟩

theorem State.HolderKept.refl (s : State) : s.HolderKept s := .of_eq rfl rfl rfl

theorem State.HolderKept.trans {s z t : State} (h : s.HolderKept z) (k : z.HolderKept t) : s.HolderKept t :=
  ⟨k.power.trans h.power, fun c => (k.res c).trans (h.res c), fun n => (h.seq n).trans (k.seq n)⟩

theorem State.HolderKept.holds (h : z.HolderKept y) (hz : z.holds n = true) : y.holds n = true := by
  unfold State.holds State.seqUp State.halfUp at hz ⊢
  rwa [h.power, h.res, (h.seq n).cxv, (h.seq n).cx]

theorem State.holderKept_chan (s : State) {c : Fin 256} {x : Channel} (hx : x.res = (s.chans.at c).res) :
    s.HolderKept { s with chans := s.chans.upd c x } := by
  refine ⟨rfl, fun d => ?_, fun n => ⟨rfl, rfl, rfl⟩⟩
  by_cases hd : d = c
  · rw [hd]
    exact Channel.res_upd hx
  · exact congrArg Channel.res (Bank.at_upd_ne _ _ hd)

theorem State.holderKept_seq (s : State) {n : Fin 16} {x : Seq} (hx : (s.seqs.at n).Stays x) :
    s.HolderKept { s with seqs := s.seqs.upd n x } := by
  refine ⟨rfl, fun d => rfl, fun m => ?_⟩
  have hat : (s.seqs.upd n x).at m = if m = n then x else s.seqs.at m := Bank.at_upd _ _ _ _
  change (s.seqs.at m).Stays ((s.seqs.upd n x).at m)
  rw [hat]
  split
  · next h => exact h ▸ hx
  · exact ⟨rfl, rfl, rfl⟩

theorem State.reqSwitch_holderKept (s : State) (n : Fin 16) : s.HolderKept (s.reqSwitch n) := s.holderKept_seq ⟨rfl, rfl, rfl⟩

theorem State.faultChan_holderKept (s : State) (c : Fin 256) (k : FCause) : s.HolderKept (s.faultChan c k) := by
  have hfault : s.HolderKept (if (s.chans.at c).res then
      ({ s with chans := s.chans.upd c { s.chans.at c with st := .fault, faultF := true, fcause := k } } : State).reqSwitch (s.chans.at c).sq
      else { s with chans := s.chans.upd c { s.chans.at c with st := .fault, faultF := true, fcause := k } }) := by
    have hchan : s.HolderKept { s with chans := s.chans.upd c { s.chans.at c with st := .fault, faultF := true, fcause := k } } :=
      s.holderKept_chan rfl
    split
    · exact hchan.trans (State.reqSwitch_holderKept _ _)
    · exact hchan
  unfold State.faultChan
  dsimp only
  split
  · exact hfault
  · exact hfault
  · exact hfault
  · exact hfault
  · exact s.holderKept_chan rfl
  · exact .refl s

theorem Channel.breached_res (x : Channel) (b : BreachCond) (t : W64) : (x.breached b t).res = x.res := by
  unfold Channel.breached
  split
  · rfl
  · split <;> rfl

theorem State.breach_holderKept (s : State) (c : Fin 256) (b : BreachCond) : s.HolderKept (s.breach c b) := by
  unfold State.breach
  dsimp only
  split
  · exact .refl s
  · exact (s.holderKept_chan (Channel.breached_res _ _ _)).trans (State.faultChan_holderKept _ _ _)

theorem State.breachOf_holderKept (s : State) (o : Option (Fin 256)) (b : BreachCond) : s.HolderKept (s.breachOf o b) := by
  cases o with
  | none => exact .refl s
  | some c => exact s.breach_holderKept c b

/-- An instruction that ends in `y`, the units and contexts of which it has changed. -/
theorem State.At.endsKept {m : Mn} {w : W32} (h : s.At n m w z) {f : Seq → Seq} {k : Nat} (hk : z.HolderKept y)
    (hs : m.sem z n w = .done (y.modSeq n f) k none) (hf : (y.seqs.at n).Kept (f (y.seqs.at n))) :
    s.macro_ n (some m) = y.after n k ((z.seqs.at n).pc + 4) f := by
  have hend := h.ends hs hf (hk.holds h.holds)
  rwa [(hk.seq n).pc] at hend

end kept

/-! R123, R307: the next entry of a path. -/

section take
variable {z : State} {cx : Fin 256} {t : Option W64}

/-- The time nearest to the bound that has the 40 bits `ns` lies before it. -/
def Below (t : Option W64) (ns : BitVec 40) : Prop := ∀ b, t = some b → (ns - b.setWidth 40).toInt < 0

theorem notBefore_iff (x y : W64) : notBefore x y = true ↔ 0 ≤ (x - y).toInt := by
  unfold notBefore
  rw [decide_eq_true_iff, BitVec.toInt_eq_toNat_cond]
  split <;> omega

theorem within?_iff {ns : BitVec 40} : within? t ns = true ↔ Below t ns := by
  cases t with
  | none => exact iff_of_true rfl nofun
  | some b =>
    have hd : expand40 b ns - b = (ns - b.setWidth 40).signExtend 64 := add_sub_cancel_left _ _
    have hb : below b ns = true ↔ (ns - b.setWidth 40).toInt < 0 := by
      unfold below
      rw [Bool.not_eq_true', ← Bool.not_eq_true, notBefore_iff, hd, BitVec.toInt_signExtend_of_le (by decide), not_le]
    exact ⟨fun h b' hb' => Option.some.inj hb' ▸ hb.1 h, fun h => hb.2 (h b rfl)⟩

theorem OutEntry.quad_ns (x : OutEntry) : x.quad.ns = x.es.extractLsb' 2 40 := by
  refine BitVec.eq_of_getLsbD_eq fun i hi => ?_
  change (fld (put 30 x.tag.num ||| put 24 x.nbits.val ||| (x.es.extractLsb' 32 10).setWidth 32) 0 10 ++ fld (x.es.extractLsb' 0 32) 2 30).getLsbD i = _
  have hput (lo v j : Nat) (hj : j < lo) : (put lo v).getLsbD j = false := by
    have h := bit_put lo v j
    rwa [decide_eq_false (Nat.not_le.2 hj), Bool.and_false, Bool.false_and] at h
  rw [BitVec.getLsbD_append, BitVec.getLsbD_extractLsb', decide_eq_true hi, Bool.true_and]
  unfold fld
  by_cases h : i < 30
  · rw [if_pos h, BitVec.getLsbD_extractLsb', BitVec.getLsbD_extractLsb', decide_eq_true h, decide_eq_true (by omega)]
    simp
  · rw [if_neg h, BitVec.getLsbD_extractLsb', decide_eq_true (by omega), Bool.true_and, BitVec.getLsbD_or, BitVec.getLsbD_or,
      hput 30 _ _ (by omega), hput 24 _ _ (by omega), BitVec.getLsbD_setWidth, BitVec.getLsbD_extractLsb', decide_eq_true (by omega),
      decide_eq_true (by omega), Bool.true_and, Bool.true_and]
    exact congrArg x.es.getLsbD (by omega)

theorem State.takeFrom_fifo {e : Fin 64} {k : Fin 8} {x : OutEntry} {r : List OutEntry} (h : (z.engines.at e).ofs.at k = x :: r) :
    z.takeFrom cx (.fifo e k) t = if within? t (x.es.extractLsb' 2 40) = true then
      some (x.quad, z.modEng e fun g => { g with ofs := g.ofs.upd k r }) else none := by
  rw [← x.quad_ns]
  unfold State.takeFrom
  dsimp only
  rw [h]

theorem State.takeFrom_cell {k : Fin 16} {x : Quad} {r : List Quad} (h : (z.abs_.at k).rxq = x :: r) :
    z.takeFrom cx (.cell k) t = if within? t x.ns = true then
      some (if (z.abs_.at k).qbad.contains x then (z.modAb k fun c => { c with rxq := r, qbad := c.qbad.erase x }).abQueueEcc k
        else (x, z.modAb k fun c => { c with rxq := r, qbad := c.qbad.erase x })) else none := by
  unfold State.takeFrom
  dsimp only
  rw [h]

theorem State.takeFrom_node {k : Fin 2} {x : Quad} {r : List Quad} (h : (z.gds.at k).rxq = x :: r) :
    z.takeFrom cx (.node k) t = if within? t x.ns = true then some (x, z.modGd k fun g => { g with rxq := r }) else none := by
  unfold State.takeFrom
  dsimp only
  rw [h]

/-- A stamped mailbox's entry is there, and lies below the bound. -/
def State.thereIn (z : State) (cx : Fin 256) (m : Fin 4) (t : Option W64) (x : MbEntry) : Bool :=
  (x.vis || (z.beryl.doms.at ((z.chans.at cx).mdom m)).dueAt (x.time.setWidth 40) z.beryl.g) && within? t (x.time.setWidth 40)

theorem State.takeFrom_stamped {m : Fin 4} {o : Option (MbEntry × List MbEntry)} (h : earliest (z.thereIn cx m t) ((z.chans.at cx).mbs.at m).q = o) :
    z.takeFrom cx (.mbox m true) t = o.map fun p => (z.mbQuad cx m true p.1, z.modMb cx m fun b => { b with q := p.2 }) := by
  subst h
  change (match earliest (z.thereIn cx m t) ((z.chans.at cx).mbs.at m).q with
    | some (x, r) => some (z.mbQuad cx m true x, z.modMb cx m fun b => { b with q := r })
    | none => none) = _
  cases earliest (z.thereIn cx m t) ((z.chans.at cx).mbs.at m).q <;> rfl

/-- R123: without an entry that fits, none is taken. -/
theorem earliest_none {p : MbEntry → Bool} {l : List MbEntry} (h : ∀ x ∈ l, p x = false) : earliest p l = none := by
  induction l with
  | nil => rfl
  | cons x l ih =>
    unfold earliest
    rw [ih fun y hy => h y (List.mem_cons_of_mem _ hy), h x List.mem_cons_self]
    rfl

theorem earliest_mem {p : MbEntry → Bool} {l : List MbEntry} {x : MbEntry} {r : List MbEntry} (h : earliest p l = some (x, r)) : x ∈ l ∧ p x = true := by
  induction l generalizing x r with
  | nil => exact nomatch h
  | cons a l ih =>
    unfold earliest at h
    cases hl : earliest p l with
    | none =>
      rw [hl] at h
      by_cases hp : p a = true
      · obtain ⟨rfl, -⟩ := Prod.mk.inj (Option.some.inj ((if_pos hp).symm.trans h))
        exact ⟨List.mem_cons_self, hp⟩
      · exact nomatch (if_neg hp).symm.trans h
    | some b =>
      obtain ⟨y, l'⟩ := b
      obtain ⟨hy, hpy⟩ := ih hl
      rw [hl] at h
      by_cases hp : (p a && notBefore y.time a.time) = true
      · obtain ⟨rfl, -⟩ := Prod.mk.inj (Option.some.inj ((if_pos hp).symm.trans h))
        exact ⟨List.mem_cons_self, (Bool.and_eq_true_iff.1 hp).1⟩
      · obtain ⟨rfl, -⟩ := Prod.mk.inj (Option.some.inj ((if_neg hp).symm.trans h))
        exact ⟨List.mem_cons_of_mem _ hy, hpy⟩

/-- R123: an entry before which those behind it do not go, and which goes before those ahead of it, is taken. -/
theorem earliest_of {p : MbEntry → Bool} {l r : List MbEntry} {x : MbEntry} (hx : p x = true)
    (hl : ∀ y ∈ l, p y = true → notBefore x.time y.time = false) (hr : ∀ y ∈ r, p y = true → notBefore y.time x.time = true) :
    earliest p (l ++ x :: r) = some (x, l ++ r) := by
  induction l with
  | nil =>
    rw [List.nil_append]
    unfold earliest
    cases he : earliest p r with
    | none => exact if_pos hx
    | some b =>
      obtain ⟨y, l'⟩ := b
      obtain ⟨hy, hpy⟩ := earliest_mem he
      exact if_pos (Bool.and_eq_true_iff.2 ⟨hx, hr y hy hpy⟩)
  | cons a l ih =>
    rw [List.cons_append]
    unfold earliest
    rw [ih fun y hy => hl y (List.mem_cons_of_mem _ hy)]
    refine if_neg fun h => ?_
    obtain ⟨ha, hb⟩ := Bool.and_eq_true_iff.1 h
    exact Bool.false_ne_true ((hl a List.mem_cons_self ha).symm.trans hb)

theorem State.modMb_holderKept (z : State) (cx : Fin 256) (m : Fin 4) (f : Mailbox → Mailbox) : z.HolderKept (z.modMb cx m f) :=
  z.holderKept_chan rfl

theorem State.takeFrom_plain {m : Fin 4} : z.takeFrom cx (.mbox m false) t = match ((z.chans.at cx).mbs.at m).q with
    | x :: r => some (z.mbQuad cx m false x, z.modMb cx m fun b => { b with q := r })
    | [] => none := by
  change (match (match ((z.chans.at cx).mbs.at m).q with | x :: r => some (x, r) | [] => none : Option (MbEntry × List MbEntry)) with
    | some (x, r) => some (z.mbQuad cx m false x, z.modMb cx m fun b => { b with q := r })
    | none => none) = _
  cases ((z.chans.at cx).mbs.at m).q <;> rfl

theorem State.takeFrom_empty (z : State) (cx : Fin 256) (t : Option W64) :
    (∀ e k, (z.engines.at e).ofs.at k = [] → z.takeFrom cx (.fifo e k) t = none) ∧
    (∀ c, (z.streams.at c).cpl = [] → z.takeFrom cx (.cpl c) t = none) ∧
    (∀ k, (z.abs_.at k).rxq = [] → z.takeFrom cx (.cell k) t = none) ∧
    ∀ k, (z.gds.at k).rxq = [] → z.takeFrom cx (.node k) t = none := by
  refine ⟨fun e k h => ?_, fun c h => ?_, fun k h => ?_, fun k h => ?_⟩
  all_goals
    unfold State.takeFrom
    dsimp only
    rw [h]

theorem State.takeFrom_cpl {c : Fin 128} {x : W32} {r : List W32} (h : (z.streams.at c).cpl = x :: r) :
    z.takeFrom cx (.cpl c) t = some (recordQuad x, z.modSf c fun f => { f with cpl := r }) := by
  unfold State.takeFrom
  dsimp only
  rw [h]

theorem State.abQueueEcc_holderKept (s : State) (k : Fin 16) : s.HolderKept (s.abQueueEcc k).2 := by
  have hfree : s.HolderKept { s with free := s.free + 128 } := .of_eq rfl rfl rfl
  exact hfree.trans (State.breachOf_holderKept _ _ _)

theorem State.takeFrom_holderKept {p : Path} {b : Quad × State} (h : z.takeFrom cx p t = some b) : z.HolderKept b.2 := by
  obtain ⟨hfifo, hcpl, hcell, hnode⟩ := z.takeFrom_empty cx t
  cases p with
  | fifo e k =>
    cases hq : (z.engines.at e).ofs.at k with
    | nil => exact nomatch (hfifo e k hq).symm.trans h
    | cons a r =>
      rw [State.takeFrom_fifo hq] at h
      split at h
      · exact Option.some.inj h ▸ .of_eq rfl rfl rfl
      · exact nomatch h
  | cpl c =>
    cases hq : (z.streams.at c).cpl with
    | nil => exact nomatch (hcpl c hq).symm.trans h
    | cons a r => exact Option.some.inj ((State.takeFrom_cpl hq).symm.trans h) ▸ .of_eq rfl rfl rfl
  | mbox m st =>
    cases st with
    | false =>
      rw [State.takeFrom_plain] at h
      split at h
      · exact Option.some.inj h ▸ z.modMb_holderKept cx m _
      · exact nomatch h
    | true =>
      rw [State.takeFrom_stamped rfl] at h
      obtain ⟨x, -, rfl⟩ := Option.map_eq_some_iff.1 h
      exact z.modMb_holderKept cx m _
  | cell k =>
    cases hq : (z.abs_.at k).rxq with
    | nil => exact nomatch (hcell k hq).symm.trans h
    | cons a r =>
      rw [State.takeFrom_cell hq] at h
      split at h
      · obtain rfl := Option.some.inj h
        split
        · have hab : z.HolderKept (z.modAb k fun c => { c with rxq := r, qbad := c.qbad.erase a }) := .of_eq rfl rfl rfl
          exact hab.trans (State.abQueueEcc_holderKept (z.modAb k _) k)
        · exact .of_eq rfl rfl rfl
      · exact nomatch h
  | node k =>
    cases hq : (z.gds.at k).rxq with
    | nil => exact nomatch (hnode k hq).symm.trans h
    | cons a r =>
      rw [State.takeFrom_node hq] at h
      split at h
      · exact Option.some.inj h ▸ .of_eq rfl rfl rfl
      · exact nomatch h

end take

/-! R306, R307: what a dequeue comes to. -/

section receive
variable {s z : State} {n : Fin 16} {m : RecvMode} {x ir : W32} {t : W64}

theorem State.receive_unnamed (h : z.pathOf (z.seqs.at n).cx x (decide (m = .brecv)) = none) :
    z.receive n m x t ir = .trap { code := 3, detail := 1, tval := ir } := by
  unfold State.receive
  dsimp only
  rw [h]

theorem State.receive_timed {p : Path} (h : z.pathOf (z.seqs.at n).cx x false = some p) (hd : (z.seqs.at n).det = true) :
    z.receive n .trydeq x t ir = .trap { code := 8, detail := 0, tval := ir } := by
  unfold State.receive
  dsimp only
  rw [show z.pathOf (z.seqs.at n).cx x (decide (RecvMode.trydeq = .brecv)) = some p from h]
  exact if_pos ⟨rfl, hd⟩

theorem State.receive_refused {p : Path} (h : z.pathOf (z.seqs.at n).cx x (decide (m = .brecv)) = some p)
    (hm : m ≠ .trydeq ∨ (z.seqs.at n).det = false) {c : Trap} (hc : z.pathTrap n p x ir = some c) : z.receive n m x t ir = .trap c := by
  unfold State.receive
  dsimp only
  rw [h]
  refine (if_neg fun k => hm.elim (fun h => h k.1) fun h => Bool.false_ne_true (h.symm.trans k.2)).trans ?_
  rw [hc]

/-- R306: what a dequeue comes to where its path has no entry that it takes. -/
def RecvMode.onEmpty (m : RecvMode) (mark t : W64) : Recv :=
  match m with
  | .deq => .wait
  | .trydeq => .nothing
  | .brecv => if notBefore mark t then .nothing else .wait

/-- A dequeue that no stage of R307 refuses. -/
theorem State.receive_free {p : Path} (h : z.pathOf (z.seqs.at n).cx x (decide (m = .brecv)) = some p)
    (hm : m ≠ .trydeq ∨ (z.seqs.at n).det = false) (hc : z.pathTrap n p x ir = none) :
    (∀ y a, z.takeFrom (z.seqs.at n).cx p (if m = .brecv then some t else none) = some (y, a) → z.receive n m x t ir = .got y a) ∧
    (z.takeFrom (z.seqs.at n).cx p (if m = .brecv then some t else none) = none →
      z.receive n m x t ir = m.onEmpty (z.pathMark (z.seqs.at n).cx p) t) := by
  have hneg : ¬ (m = .trydeq ∧ (z.seqs.at n).det = true) := fun k => hm.elim (fun h => h k.1) fun h => Bool.false_ne_true (h.symm.trans k.2)
  refine ⟨fun y a ho => ?_, fun ho => ?_⟩
  all_goals
    unfold State.receive
    dsimp only
    rw [h]
    refine (if_neg hneg).trans ?_
    rw [hc]
    dsimp only
    rw [ho]
  cases m <;> rfl

/-- An instruction that blocks. -/
theorem State.At.blocks {m : Mn} {w : W32} (h : s.At n m w z) {y : State} {k : Nat} (hs : m.sem z n w = .block y k) :
    s.macro_ n (some m) = ((y.uw n k).blockOn n).ran n := by
  rw [h.execute, hs] <;> rfl

/-- The Z flag of st. -/
theorem Seq.setZ_eq (q : Seq) (b : Bool) : q.setZ b = { q with stw := (q.stw &&& ~~~4) ||| (if b then 4 else 0) } := by
  cases b <;> rfl

end receive

/-! R500: the firing of an event by a sequencer. -/

section fire
variable {z : State} {n : Fin 16} {x : W32}

theorem State.fireFrom_some {k : Cause} (h : z.fireCause n (Fin.ofNat 256 (fldN x 0 8)) = some k) :
    z.fireFrom n x = .trap { code := 10, detail := k.code, tval := x &&& 0xFF } := by
  unfold State.fireFrom
  dsimp only
  rw [h]

theorem State.fireFrom_none (h : z.fireCause n (Fin.ofNat 256 (fldN x 0 8)) = none) :
    z.fireFrom n x = .ok (z.fire (Fin.ofNat 256 (fldN x 0 8)).val) := by
  unfold State.fireFrom
  dsimp only
  rw [h]

theorem State.fireCause_secure {c : Fin 256} (h : bit (z.sn.chCfg.at c) 22 = true ∧ (z.seqs.at n).sec = false) :
    z.fireCause n c = some .secure :=
  congrArg (Option.map _) (if_pos ⟨h.1, congrArg (!·) h.2⟩)

theorem State.fireCause_plain {c : Fin 256} (h : ¬ (bit (z.sn.chCfg.at c) 22 = true ∧ (z.seqs.at n).sec = false)) :
    z.fireCause n c = if bit (z.sn.chCfg.at c) 23 = true ∧ fldN (z.sn.chCfg.at c) 24 8 ≠ (z.seqs.at n).cx.val then some .disabled else none := by
  have hs : ¬ (bit (z.sn.chCfg.at c) 22 = true ∧ (!(z.seqs.at n).sec) = true) := fun k => h ⟨k.1, Bool.not_eq_true' _ ▸ k.2⟩
  unfold State.fireCause Spinel.fireRefused
  dsimp only
  rw [if_neg hs]
  split <;> rfl

theorem State.fire_eq (s : State) (c : Fin 256) : s.fire c.val = { s with sn := { s.sn with fired := s.sn.fired ++ [{ ch := c, hop := 0, fired := none }] } } := by
  have hc : Fin.ofNat 256 c.val = c := Fin.ext (Nat.mod_eq_of_lt c.isLt)
  unfold State.fire State.fireHop
  rw [hc]
  rfl

end fire

/-! R309: the counts of a channel's event inputs. -/

section events
variable {z : State} {n : Fin 16} {c : Fin 256} {x : W32}

/-- The lowest of the first `k` numbers at which `f` answers. -/
theorem findSome?_range {α : Type} {f : Nat → Option α} {j k : Nat} {a : α} (hj : j < k) (hf : f j = some a) (hn : ∀ i, i < j → f i = none) :
    (List.range k).findSome? f = some a := by
  induction k with
  | zero => exact absurd hj (Nat.not_lt_zero j)
  | succ k ih =>
    rw [List.range_succ, List.findSome?_append]
    rcases Nat.lt_succ_iff_lt_or_eq.1 hj with h | rfl
    · rw [ih h]
      rfl
    · rw [List.findSome?_eq_none_iff.2 fun i hi => hn i (List.mem_range.1 hi), Option.none_or, List.findSome?_singleton, hf]

/-- What `takeEvent` asks of the event input `i`. -/
def State.eventAt (z : State) (c : Fin 256) (x : W32) (i : Nat) : Option (Nat × State) :=
  if bit x i then
    match z.takeCount (4 * c.val + i) with
    | (some _, s1) => some (i, s1)
    | (none, _) => none
  else none

theorem State.takeEvent_eq : z.takeEvent c x = (List.range 4).findSome? (z.eventAt c x) := rfl

theorem State.eventAt_none {i : Nat} (h : bit x i = true → z.sn.pending (4 * c.val + i) = []) : z.eventAt c x i = none := by
  unfold State.eventAt State.takeCount
  split
  · next hb => rw [h hb]
  · rfl

theorem State.eventAt_some {i : Nat} (hb : bit x i = true) (h : z.sn.pending (4 * c.val + i) ≠ []) : z.eventAt c x i =
    some (i, { z with sn := z.sn.setPending (4 * c.val + i) (z.sn.pending (4 * c.val + i)).tail }) := by
  unfold State.eventAt State.takeCount
  rw [if_pos hb]
  cases hl : z.sn.pending (4 * c.val + i) with
  | nil => exact absurd hl h
  | cons a r => rfl

theorem State.takeEvent_none (h : ∀ j, j < 4 → bit x j = true → z.sn.pending (4 * c.val + j) = []) : z.takeEvent c x = none :=
  State.takeEvent_eq.trans <| List.findSome?_eq_none_iff.2 fun j hj => z.eventAt_none (h j (List.mem_range.1 hj))

theorem State.takeEvent_some {j : Nat} (hj : j < 4) (hb : bit x j = true) (h : z.sn.pending (4 * c.val + j) ≠ [])
    (hn : ∀ i, i < j → bit x i = true → z.sn.pending (4 * c.val + i) = []) : z.takeEvent c x =
    some (j, { z with sn := z.sn.setPending (4 * c.val + j) (z.sn.pending (4 * c.val + j)).tail }) :=
  State.takeEvent_eq.trans <| findSome?_range hj (z.eventAt_some hb h) fun i hi => z.eventAt_none (hn i hi)

end events

/-- Settles O57. -/
theorem macroDequeueAndEvents : Obligations.MacroDequeueAndEvents := by
  unfold Obligations.MacroDequeueAndEvents
  refine ⟨fun s z n w => ?instr, fun z n => ?block, fun z cx t => ?take⟩
  case instr =>
    intro q det next trap waits x d quad none_ setZ t
    have hquad (v : Quad) (r : Seq) : r.Kept (quad v r) :=
      (((Seq.kept_setReg _ _ _).trans (Seq.kept_setReg _ _ _)).trans (Seq.kept_setReg _ _ _)).trans (Seq.kept_setReg _ _ _)
    have hz (b : Bool) {r p : Seq} (h : r.Kept p) : r.Kept (setZ b p) := ⟨h.cxv, h.cx, h.pc, h.uwcnt⟩
    have hset (a : State) (k : Nat) (b : Bool) (f : Seq → Seq) :
        Res.done (a.modSeq n fun q => (f q).setZ b) k none = .done (a.modSeq n fun q => setZ b (f q)) k none :=
      congrArg (fun g : Seq → Seq => Res.done (a.modSeq n g) k none) (funext fun q => (f q).setZ_eq b)
    refine ⟨fun h => ?deq, fun h => ?trydeq, fun h => ?brecv, fun h => ?fire, ?events⟩
    case deq =>
      refine ⟨fun hp => ?_, fun p hp => ⟨fun c hc => ?_, fun hc => ⟨fun y a hy => ?_, fun hy => ?_⟩⟩⟩
      · exact congrArg Host.Outcome.next (h.trap (congrArg (fun v : Recv => v.res z n w 6 false) (State.receive_unnamed (m := .deq) hp)))
      · exact congrArg Host.Outcome.next (h.trap (congrArg (fun v : Recv => v.res z n w 6 false) (State.receive_refused (m := .deq) hp (.inl nofun) hc)))
      · exact congrArg Host.Outcome.next (h.endsKept (f := quad y) (State.takeFrom_holderKept hy)
          (congrArg (fun v : Recv => v.res z n w 6 false) ((State.receive_free (m := .deq) hp (.inl nofun) hc).1 y a hy)) (hquad _ _))
      · exact congrArg Host.Outcome.next (h.blocks (congrArg (fun v : Recv => v.res z n w 6 false) ((State.receive_free (m := .deq) hp (.inl nofun) hc).2 hy)))
    case trydeq =>
      refine ⟨fun hp => ?_, fun p hp => ⟨fun hd => ?_, fun c hd hc => ?_, fun hd hc => ⟨fun y a hy => ?_, fun hy => ?_⟩⟩⟩
      · exact congrArg Host.Outcome.next (h.trap (congrArg (fun v : Recv => v.res z n w 6 true) (State.receive_unnamed (m := .trydeq) hp)))
      · exact congrArg Host.Outcome.next (h.trap (congrArg (fun v : Recv => v.res z n w 6 true) (State.receive_timed hp hd)))
      · exact congrArg Host.Outcome.next (h.trap (congrArg (fun v : Recv => v.res z n w 6 true) (State.receive_refused (m := .trydeq) hp (.inr hd) hc)))
      · exact congrArg Host.Outcome.next (h.endsKept (f := fun q => setZ false (quad y q)) (State.takeFrom_holderKept hy)
          ((congrArg (fun v : Recv => v.res z n w 6 true) ((State.receive_free (m := .trydeq) hp (.inr hd) hc).1 y a hy)).trans
            (hset a 6 false (quad y))) (hz _ (hquad _ _)))
      · exact congrArg Host.Outcome.next (h.endsKept (f := fun q => setZ true (quad none_ q)) (.refl z)
          ((congrArg (fun v : Recv => v.res z n w 6 true) ((State.receive_free (m := .trydeq) hp (.inr hd) hc).2 hy)).trans
            (hset z 6 true (quad none_))) (hz _ (hquad _ _)))
    case brecv =>
      refine ⟨fun hp => ?_, fun p hp => ⟨fun c hc => ?_, fun hc => ⟨fun y a hy => ?_, fun hy hb => ?_, fun hy hb => ?_⟩⟩⟩
      · exact congrArg Host.Outcome.next (h.trap (congrArg (fun v : Recv => v.res z n w 8 true) (State.receive_unnamed (m := .brecv) hp)))
      · exact congrArg Host.Outcome.next (h.trap (congrArg (fun v : Recv => v.res z n w 8 true)
          (State.receive_refused (m := .brecv) hp (.inl nofun) hc)))
      · exact congrArg Host.Outcome.next (h.endsKept (f := fun q => setZ false (quad y q)) (State.takeFrom_holderKept hy)
          ((congrArg (fun v : Recv => v.res z n w 8 true) ((State.receive_free (m := .brecv) hp (.inl nofun) hc).1 y a hy)).trans
            (hset a 8 false (quad y))) (hz _ (hquad _ _)))
      · exact congrArg Host.Outcome.next (h.endsKept (f := fun q => setZ true (quad none_ q)) (.refl z)
          ((congrArg (fun v : Recv => v.res z n w 8 true) (((State.receive_free (m := .brecv) hp (.inl nofun) hc).2 hy).trans (if_pos hb))).trans
            (hset z 8 true (quad none_))) (hz _ (hquad _ _)))
      · exact congrArg Host.Outcome.next (h.blocks (congrArg (fun v : Recv => v.res z n w 8 true)
          (((State.receive_free (m := .brecv) hp (.inl nofun) hc).2 hy).trans (if_neg (Bool.eq_false_iff.1 hb)))))
    case fire =>
      intro c g own sec
      refine ⟨fun hs => ?_, fun hs ho => ?_, fun ho hs => ?_⟩
      · exact congrArg Host.Outcome.next (h.trap (congrArg (fun v : Try => v.res z 3 w 0) (State.fireFrom_some (State.fireCause_secure hs))))
      · exact congrArg Host.Outcome.next (h.trap (congrArg (fun v : Try => v.res z 3 w 0)
          (State.fireFrom_some ((State.fireCause_plain hs).trans (if_pos ho)))))
      · have hfire : z.doFire n w = .done (z.fire c.val) 3 none :=
          congrArg (fun v : Try => v.res z 3 w 0) (State.fireFrom_none ((State.fireCause_plain hs).trans (if_neg ho)))
        rw [z.fire_eq c] at hfire
        exact congrArg Host.Outcome.next (h.done hfire (State.HolderKept.holds (.of_eq rfl rfl rfl) h.holds))
    case events =>
      intro bad count index takes none_
      have hbad (hb : bad) : badMask x = true := decide_eq_true hb
      have hgood (hb : ¬ bad) : ¬ badMask x = true := fun k => hb (of_decide_eq_true k)
      have htakes {j : Nat} {y : Spinel} (hj : takes j y) : z.takeEvent q.cx x = some (j, { z with sn := y }) := by
        obtain ⟨hlt, hb, hc, hn, rfl⟩ := hj
        exact State.takeEvent_some hlt hb hc hn
      refine ⟨fun h hb => ?_, fun j y h hb hj => ?_, fun h hb hn => ?_, fun h hb => ?_, fun h hb hd => ?_, fun j y h hb hd hj => ?_, fun h hb hd hn => ?_⟩
      · exact congrArg Host.Outcome.next (h.trap (if_pos (hbad hb)))
      · have hsem : z.doWaite n w = .done (({ z with sn := y } : State).modSeq n fun q => q.setReg d (index j)) 4 none := by
          refine (if_neg (hgood hb)).trans ?_
          rw [show z.takeEvent (z.seqs.at n).cx ((z.seqs.at n).reg (rsF w)) = _ from htakes hj] <;> rfl
        exact congrArg Host.Outcome.next (h.endsKept (.of_eq rfl rfl rfl) hsem (Seq.kept_setReg _ _ _))
      · have hsem : z.doWaite n w = .block z 4 := by
          refine (if_neg (hgood hb)).trans ?_
          rw [show z.takeEvent (z.seqs.at n).cx ((z.seqs.at n).reg (rsF w)) = _ from State.takeEvent_none hn]
        exact congrArg Host.Outcome.next (h.blocks hsem)
      · exact congrArg Host.Outcome.next (h.trap (if_pos (hbad hb)))
      · exact congrArg Host.Outcome.next (h.trap ((if_neg (hgood hb)).trans (if_pos hd)))
      · have hindex : q.evIndex j = BitVec.ofNat 32 j := if_neg (Bool.eq_false_iff.1 hd)
        have hsem : z.doTrye n w = .done (({ z with sn := y } : State).modSeq n fun r => (r.setReg d (q.evIndex j)).setZ false) 4 none := by
          refine (if_neg (hgood hb)).trans ((if_neg (Bool.eq_false_iff.1 hd)).trans ?_)
          rw [show z.takeEvent (z.seqs.at n).cx ((z.seqs.at n).reg (rsF w)) = _ from htakes hj] <;> rfl
        rw [hindex] at hsem
        exact congrArg Host.Outcome.next (h.endsKept (.of_eq rfl rfl rfl) (hsem.trans (hset _ 4 false fun r => r.setReg d (BitVec.ofNat 32 j)))
          (hz _ (Seq.kept_setReg _ _ _)))
      · have hsem : z.doTrye n w = .done (z.modSeq n fun r => (r.setReg d 0).setZ true) 4 none := by
          refine (if_neg (hgood hb)).trans ((if_neg (Bool.eq_false_iff.1 hd)).trans ?_)
          rw [show z.takeEvent (z.seqs.at n).cx ((z.seqs.at n).reg (rsF w)) = _ from State.takeEvent_none hn]
        exact congrArg Host.Outcome.next (h.endsKept (.refl z) (hsem.trans (hset z 4 true fun r => r.setReg d 0)) (hz _ (Seq.kept_setReg _ _ _)))
  case block =>
    intro q c
    have hrun (hc : c.st = .run) : z.blockOn n =
        if q.st = .draining ∨ (allChans.any fun d => z.waiting d && z.eligible n (z.chans.at d)) = true then
          (z.modChan q.cx fun x => { x with st := .blocked }).reqSwitch n else z.modChan q.cx fun x => { x with st := .blocked } := by
      unfold State.blockOn
      dsimp only
      rw [show (z.chans.at (z.seqs.at n).cx).st = .run from hc]
    have hany : (allChans.any fun d => z.waiting d && z.eligible n (z.chans.at d)) = true ↔
        ∃ d, z.waiting d = true ∧ z.eligible n (z.chans.at d) = true := by
      simp only [List.any_eq_true, Bool.and_eq_true]
      exact ⟨fun ⟨d, _, h⟩ => ⟨d, h⟩, fun ⟨d, h⟩ => ⟨d, mem_allChans d, h⟩⟩
    refine ⟨fun hc hq hn => ?_, fun hc hq => ?_, fun hc => ?_⟩
    · refine (hrun hc).trans (if_neg fun h => ?_)
      rcases h with h | h
      · exact nomatch hq.symm.trans h
      · obtain ⟨d, h1, h2⟩ := hany.1 h
        exact Bool.false_ne_true ((hn d h1).symm.trans h2)
    · exact (hrun hc).trans (if_pos (hq.imp_right hany.2))
    · unfold State.blockOn
      dsimp only
      rw [show (z.chans.at (z.seqs.at n).cx).st = .draining from hc] <;> rfl
  case take =>
    intro below
    refine ⟨fun e k => ?fifo, fun c => ?cpl, fun k => ?cell, fun k => ?node, fun m => ?mbox⟩
    case fifo =>
      intro g
      refine ⟨(z.takeFrom_empty cx t).1 e k, fun x r h hb => ?_, fun x r h hb => ?_⟩
      · exact (State.takeFrom_fifo h).trans (if_neg fun k => hb (within?_iff.1 k))
      · exact (State.takeFrom_fifo h).trans (if_pos (within?_iff.2 hb))
    case cpl => exact ⟨(z.takeFrom_empty cx t).2.1 c, fun x r h => State.takeFrom_cpl h⟩
    case cell =>
      intro c
      refine ⟨(z.takeFrom_empty cx t).2.2.1 k, fun x r h => ⟨fun hb => ?_, fun hb hq => ?_, fun hb hq => ?_⟩⟩
      · exact (State.takeFrom_cell h).trans (if_neg fun k => hb (within?_iff.1 k))
      · refine (State.takeFrom_cell h).trans ((if_pos (within?_iff.2 hb)).trans (congrArg some ((if_neg fun k => hq (List.contains_iff_mem.1 k)).trans ?_)))
        exact congrArg (fun l => (x, ({ z with abs_ := z.abs_.upd k { c with rxq := r, qbad := l } } : State))) (List.erase_of_not_mem hq)
      · exact ⟨_, (State.takeFrom_cell h).trans ((if_pos (within?_iff.2 hb)).trans (congrArg some (if_pos (List.contains_iff_mem.2 hq))))⟩
    case node =>
      intro g
      refine ⟨(z.takeFrom_empty cx t).2.2.2 k, fun x r h => ?_⟩
      by_cases hb : below (fld x.w3 0 10 ++ fld x.w2 2 30)
      · exact .inr ⟨(State.takeFrom_node h).trans (if_pos (within?_iff.2 hb)), hb⟩
      · exact .inl ⟨(State.takeFrom_node h).trans (if_neg fun k => hb (within?_iff.1 k)), hb⟩
    case mbox =>
      intro c b d without there
      have hthere (x : MbEntry) : z.thereIn cx m t x = true ↔ there x := by
        unfold State.thereIn
        rw [Bool.and_eq_true, Bool.or_eq_true, within?_iff]
        exact Iff.rfl
      refine ⟨fun h => ?_, fun x r h => ?_, fun h => ?_, fun l x r h hx hl hr => ?_⟩
      · rw [State.takeFrom_plain, show ((z.chans.at cx).mbs.at m).q = [] from h]
      · rw [State.takeFrom_plain, show ((z.chans.at cx).mbs.at m).q = x :: r from h] <;> rfl
      · exact State.takeFrom_stamped (earliest_none fun x hx => Bool.eq_false_iff.2 fun k => h x hx ((hthere x).1 k))
      · refine (State.takeFrom_stamped (o := some (x, l ++ r)) ?_).trans rfl
        rw [show ((z.chans.at cx).mbs.at m).q = l ++ x :: r from h]
        exact earliest_of ((hthere x).2 hx) (fun y hy k => hl y hy ((hthere y).1 k)) fun y hy k => hr y hy ((hthere y).1 k)

end Sys2Proof.Machine

namespace Sys2Proof.Machine

/-! R256: the float bank of a channel. -/

section bank
variable {s z y : State} {n : Fin 16}

/-- R256: the bank goes to node `i` of its owner, whose anchor `a` names it then. -/
def State.bankPut (s : State) (n : Fin 16) (c : Fin 256) (a : Anchor) (i : Fin 512) (l : List W32) (k : Nat) : State :=
  (((s.ctxWrite n (nodeAddr i) l).setAnchor n c { a with fb := true, fv := true, float := i }).modSeq n fun q => { q with fownD := false }).uw n k

theorem State.bankPut_stays (s : State) (n : Fin 16) (c : Fin 256) (a : Anchor) (i : Fin 512) (l : List W32) (k : Nat) :
    (s.seqs.at n).Stays ((s.bankPut n c a i l k).seqs.at n) := by
  have hset : (s.seqs.at n).Stays (((s.ctxWrite n (nodeAddr i) l).setAnchor n c { a with fb := true, fv := true, float := i }).seqs.at n) :=
    (s.ctxWrite_stays n _ l).trans (State.ctxWrite_stays _ n _ _)
  unfold State.bankPut
  generalize (s.ctxWrite n (nodeAddr i) l).setAnchor n c { a with fb := true, fv := true, float := i } = x at hset ⊢
  exact (hset.trans (State.modSeq_stays ⟨rfl, rfl, rfl⟩)).trans (State.modSeq_stays ⟨rfl, rfl, rfl⟩)

theorem State.floatSave_stays (h : s.floatSave n = .done y) : (s.seqs.at n).Stays (y.seqs.at n) := by
  obtain ⟨m, hm, -⟩ := s.anchor_frame n (s.seqs.at n).fownCh
  have hput {x : State} (hx : x.seqs = s.seqs) (a : Anchor) (i : Fin 512) (k : Nat)
      (hy : Work.done (x.bankPut n (s.seqs.at n).fownCh a i (s.seqs.at n).bank k) = .done y) : (s.seqs.at n).Stays (y.seqs.at n) := by
    rw [← Work.done.inj hy, ← hx]
    exact x.bankPut_stays n _ a i _ k
  unfold State.floatSave at h
  dsimp only at h
  split at h
  · exact nomatch h
  · next a s1 ha =>
    obtain rfl : s1 = { s with mem := m } := (congrArg Prod.snd ha).symm.trans hm
    split at h
    · exact hput (x := { s with mem := m }) rfl a a.float 26 h
    · split at h
      · exact nomatch h
      · next i p _ => exact hput (x := { s with mem := m, pool := p }) rfl a i 34 h

/-- R256: the bank belongs to the sequencer's channel from now on, with the registers `b` and the control word `f`. -/
def Seq.owning (q : Seq) (b : Bank W64 16) (f : W32) (k : Nat) : Seq :=
  { q with q := b, fctl := f, fownV := true, fownD := false, fownCh := q.cx, uwcnt := q.uwcnt + BitVec.ofNat 32 k }

/-- The bank of the sequencer's channel. -/
def State.ownsBank (z : State) (n : Fin 16) : Prop := (z.seqs.at n).fownV = true ∧ (z.seqs.at n).fownCh = (z.seqs.at n).cx

theorem State.floatOwn_own (h : z.ownsBank n) : z.floatOwn n = .done z := if_pos h

theorem State.own_eq (z : State) (n : Fin 16) (b : Bank W64 16) (f : W32) (k : Nat) :
    (((z.modSeq n fun q => { q with q := b, fctl := f }).modSeq n fun q => { q with fownV := true, fownD := false, fownCh := q.cx }).uw n k) =
      z.modSeq n fun q => q.owning b f k := by
  unfold State.uw
  rw [State.modSeq_modSeq, State.modSeq_modSeq]
  rfl

theorem State.floatOwn_fresh {a : Anchor} (hs : (z.seqs.at n).fownV = false ∨ (z.seqs.at n).fownD = false) (h : ¬ z.ownsBank n)
    (ha : z.anchor n (z.seqs.at n).cx = (some a, y)) (hf : a.fv = false) :
    z.floatOwn n = .done (y.modSeq n fun q => q.owning (Bank.fill 16 0) 0 12) := by
  have hno : ((z.seqs.at n).fownV && (z.seqs.at n).fownD) = false := Bool.and_eq_false_iff.2 hs
  unfold State.floatOwn
  dsimp only
  rw [if_neg (show ¬ (_ ∧ _) from h), hno, if_neg Bool.false_ne_true]
  dsimp only
  rw [ha]
  dsimp only
  rw [hf, if_neg Bool.false_ne_true]
  exact congrArg Work.done (y.own_eq n _ _ _)

theorem State.floatOwn_stays (h : z.floatOwn n = .done y) : (z.seqs.at n).Stays (y.seqs.at n) := by
  by_cases ho : z.ownsBank n
  · exact Work.done.inj ((State.floatOwn_own ho).symm.trans h) ▸ ⟨rfl, rfl, rfl⟩
  · have hown {x : State} (hx : (z.seqs.at n).Stays (x.seqs.at n)) (b : Bank W64 16) (f : W32) (k : Nat)
        (hy : Work.done (((x.modSeq n fun q => { q with q := b, fctl := f }).modSeq n
          fun q => { q with fownV := true, fownD := false, fownCh := q.cx }).uw n k) = .done y) : (z.seqs.at n).Stays (y.seqs.at n) := by
      rw [State.own_eq] at hy
      exact Work.done.inj hy ▸ hx.trans (State.modSeq_stays ⟨rfl, rfl, rfl⟩)
    have hsaved {x : State} (hx : (if ((z.seqs.at n).fownV && (z.seqs.at n).fownD) = true then z.floatSave n else .done z) = .done x) :
        (z.seqs.at n).Stays (x.seqs.at n) := by
      split at hx
      · exact State.floatSave_stays hx
      · exact Work.done.inj hx ▸ ⟨rfl, rfl, rfl⟩
    unfold State.floatOwn at h
    dsimp only at h
    rw [if_neg (show ¬ (_ ∧ _) from ho)] at h
    split at h
    · next s1 h1 =>
      obtain ⟨m, hm, -⟩ := s1.anchor_frame n (z.seqs.at n).cx
      split at h
      · exact nomatch h
      · next a s2 ha =>
        obtain rfl : s2 = { s1 with mem := m } := (congrArg Prod.snd ha).symm.trans hm
        split at h
        · split at h
          · exact nomatch h
          · next l s3 hl =>
            obtain ⟨m', hm', -⟩ := ({ s1 with mem := m } : State).ctxRead_frame n (nodeAddr a.float) 17
            obtain rfl : s3 = { s1 with mem := m' } := (congrArg Prod.snd hl).symm.trans hm'
            exact hown (x := { s1 with mem := m' }) (hsaved (x := s1) h1) _ _ 36 h
        · exact hown (x := { s1 with mem := m }) (hsaved (x := s1) h1) _ _ 12 h
    · next hn => exact absurd h (hn y)

/-- What the float microtrap changes. -/
theorem State.floatOwn_kept (h : z.floatOwn n = .done y) : State.Changes [.seqs, .pool, .mem, .free] z y :=
  ((State.floatOwn_changes z n).done h).mono rfl

end bank

/-! R314, R315: a float instruction on the bank of its channel. -/

section ops
variable {s z y : State} {n : Fin 16} {w : W32}

theorem bit_enabled (fc : W32) (x : Fx) {j : Nat} (hj : j < 5) : bit (fld fc 8 5 &&& x.word) j = (bit fc (8 + j) && bit x.word j) := by
  unfold bit fld
  rw [BitVec.getLsbD_and, BitVec.getLsbD_extractLsb', decide_eq_true hj, Bool.true_and]

theorem fxTrap_none {fc : W32} {x : Fx} (h : ∀ j, j < 5 → bit fc (8 + j) = true → bit x.word j = false) : fxTrap fc x = none := by
  refine List.findSome?_eq_none_iff.2 fun i hi => if_neg fun hb => ?_
  rw [bit_enabled fc x (by omega), Bool.and_eq_true] at hb
  exact Bool.false_ne_true ((h (4 - i) (by omega) hb.1).symm.trans hb.2)

theorem fxTrap_some {fc : W32} {x : Fx} {j : Nat} (hj : j < 5) (hc : bit fc (12 - j) = true) (hx : bit x.word (4 - j) = true)
    (hn : ∀ l, l < j → bit fc (12 - l) = true → bit x.word (4 - l) = false) : fxTrap fc x = some (8 + j) := by
  have he {l : Nat} (hl : l < 5) : bit (fld fc 8 5 &&& x.word) (4 - l) = (bit fc (12 - l) && bit x.word (4 - l)) := by
    rw [bit_enabled fc x (by omega), show 8 + (4 - l) = 12 - l by omega]
  refine findSome?_range hj (if_pos (by rw [he hj, hc, hx]; rfl)) fun l hl => if_neg fun hb => ?_
  rw [he (by omega), Bool.and_eq_true] at hb
  exact Bool.false_ne_true ((hn l hl hb.1).symm.trans hb.2)

theorem State.floatOp_of (hy : z.floatOwn n = .done y) (f : State → Seq → Res) : z.floatOp n f = f y (y.seqs.at n) := by
  unfold State.floatOp
  rw [hy] <;> rfl

theorem State.floatDo_done {k : Nat} {x : Fx} {f : Seq → Seq} (h : fxTrap (y.seqs.at n).fctl x = none) :
    y.floatDo n w k x f = .done (y.modSeq n fun q => f (q.raise x)) k none := by
  unfold State.floatDo
  rw [h]

theorem State.floatDo_trap {k : Nat} {x : Fx} {f : Seq → Seq} {d : Nat} (h : fxTrap (y.seqs.at n).fctl x = some d) :
    y.floatDo n w k x f = .trap y 2 { code := 16, detail := d, tval := w } := by
  unfold State.floatDo
  rw [h] <;> rfl

end ops

/-- Addresses outside Channels hold no mailbox storage. -/
theorem plainStore_outside {a : Nat} (h : a < 0x1400000 ∨ 0x1420000 ≤ a) : plainStore a = true := by
  simp only [plainStore, Bool.not_eq_true', Bool.and_eq_false_iff, decide_eq_false_iff_not]
  omega

/-- Settles O58. -/
theorem macroFloat : Obligations.MacroFloat := by
  unfold Obligations.MacroFloat
  refine ⟨fun s z y n w hy => ?ops, fun s z n w => ?own⟩
  case ops =>
    intro q rm a b p pc next flags row setQ setP toQ toP
    have hstay := State.floatOwn_stays hy
    have hdone {m : Mn} (h : s.At n m w z) {u : Nat} {f : Seq → Seq} (hs : m.sem z n w = .done (y.modSeq n f) u none)
        (hf : q.Kept (f q)) : s.macro_ n (some m) = y.after n u (pc + 4) f :=
      h.doneWith hs hf (State.floatOwn_kept hy) hstay
    have hrow {i : Instr} {m : Mn} {u : Nat} {x : Fx} {f : Seq → Seq} (hi : exec i s = .next (s.macro_ n (some m)))
        (hs : m.sem z n w = y.floatDo n w u x f) (hf : ∀ r : Seq, r.Kept (f r)) : row i m u x f := by
      intro h
      refine ⟨fun hn => ?_, fun j hj hc hx hl => ?_⟩
      · have hraise : q.Kept (f (q.raise x)) := Seq.Kept.trans (q := q.raise x) ⟨rfl, rfl, rfl, rfl⟩ (hf (q.raise x))
        exact hi.trans (congrArg Host.Outcome.next (hdone h (hs.trans (State.floatDo_done (fxTrap_none hn))) hraise))
      · exact hi.trans (congrArg Host.Outcome.next (h.trap (hs.trans (State.floatDo_trap (fxTrap_some hj hc hx hl)))))
    have hop := State.floatOp_of hy
    have hq {i : Instr} {m : Mn} {u : Nat} {g : Seq → W64 × Fx} {r : W64 × Fx} (hi : exec i s = .next (s.macro_ n (some m)))
        (hs : m.sem z n w = z.fop n w u g) (hg : g q = r) : toQ i m u r := by
      subst hg
      exact hrow hi (hs.trans (hop _)) fun _ => ⟨rfl, rfl, rfl, rfl⟩
    have hp {i : Instr} {m : Mn} {u : Nat} {g : Seq → W64 × Fx} {r : W64 × Fx} (hi : exec i s = .next (s.macro_ n (some m)))
        (hs : m.sem z n w = z.fpair n w u g) (hg : g q = r) : toP i m u r := by
      subst hg
      exact hrow hi (hs.trans (hop _)) fun r => (r.kept_setReg _ _).trans (Seq.kept_setReg _ _ _)
    refine ⟨hq (g := fun q => fAdd q.rm (q.qs w) (q.qt w)) rfl rfl rfl,
      hq (g := fun q => fSub q.rm (q.qs w) (q.qt w)) rfl rfl rfl,
      hq (g := fun q => fMul q.rm (q.qs w) (q.qt w)) rfl rfl rfl,
      hq (g := fun q => fDiv q.rm (q.qs w) (q.qt w)) rfl rfl rfl,
      hq (g := fun q => fSqrt q.rm (q.qs w)) rfl rfl rfl,
      hq (g := fun q => fFma q.rm (q.qs w) (q.qt w) (q.fq (rdF w))) rfl rfl rfl,
      hq (g := fun q => (fNeg (q.qs w), .none)) rfl rfl rfl,
      hq (g := fun q => (fAbs (q.qs w), .none)) rfl rfl rfl,
      hq (g := fun q => fPick false (q.qs w) (q.qt w)) rfl rfl rfl,
      hq (g := fun q => fPick true (q.qs w) (q.qt w)) rfl rfl rfl,
      hq (g := fun q => (q.qs w, .none)) rfl rfl rfl,
      hq (g := fun q => fRint q.rm (q.qs w)) rfl rfl rfl,
      hq (g := fun q => (q.pair (rsF w), .none)) rfl rfl rfl,
      hq (g := fun q => fOfInt q.rm (q.pair (rsF w)).toInt) rfl rfl rfl,
      hq (g := fun q => fOfInt q.rm (q.pair (rsF w)).toNat) rfl rfl rfl,
      hp (g := fun q => (q.qs w, .none)) rfl rfl rfl,
      hp (g := fun q => fToInt q.rm (-2 ^ 63) (2 ^ 63 - 1) (q.qs w)) rfl rfl rfl,
      hp (g := fun q => fToInt q.rm 0 (2 ^ 64 - 1) (q.qs w)) rfl rfl rfl,
      hrow (f := fun q => q.setFlags _) rfl (hop fun y q => y.floatDo n w 4 (fCmp (q.qs w) (q.qt w)).2 _) fun r => Seq.Kept.setFlags (q := r) (r := r) ⟨rfl, rfl, rfl, rfl⟩ _, ?data, ?rdfc, ?wrfc⟩
    case data =>
      intro ea k
      have hfld : z.doFld n w = (y.load n ea 8 8).andThen fun x v => .done (x.modSeq n fun q => q.setFq (rdF w) (BitVec.ofNat 64 v)) 4 none :=
        hop fun y q => (y.load n (q.reg (rsF w)) 8 8).andThen fun x v => .done (x.modSeq n fun q => q.setFq (rdF w) (BitVec.ofNat 64 v)) 4 none
      have hfst : z.doFst n w = (y.store n ea 8 8 b.toNat w).stored 3 :=
        hop fun y q => (y.store n (q.reg (rsF w)) 8 8 (q.qt w).toNat w).stored 3
      refine ⟨fun h hm ha hk hr hu hc => ?fld, fun h hm ha hr => ?fst, fun h hk ha => ?fldAl, fun h hk ha => ?fstAl⟩
      case fld =>
        have hone : y.LoadsOne n ea 8 8 :=
          ⟨fun _ => Bool.eq_false_iff.2 fun hd => absurd (detLoad_iff.1 hd).1 (Nat.not_lt.2 (memWindow_low hm)), ha, by omega, .inl hm⟩
        have hl := hone.read hr (State.busRead_clean rfl hm (plainStore_outside hk) hu hc hr)
        exact congrArg Host.Outcome.next (hdone h (hfld.trans (DataRes.andThen_ok hl)) ⟨rfl, rfl, rfl, rfl⟩)
      case fst =>
        have hone : y.StoresOne n ea 8 8 b.toNat :=
          ⟨fun _ => detStore_mem 8 b.toNat (memWindow_low hm), ha, by omega, .inl hm, b.isLt⟩
        have hst := hone.store_eq (w := w) hr
        rw [State.busWrite_mem hr hm] at hst
        obtain ⟨x, hx⟩ := y.memWrite_seq n.val k 8 b.toNat n
        have hend := h.done (npc := none) (hfst.trans (congrArg (fun v : DataRes => v.stored 3) hst))
          (State.memWrite_holds (State.holds_stays h.holds (State.floatOwn_kept hy) hstay) _ _ _ _)
        have hpc : ((y.memWrite n.val k 8 b.toNat).seqs.at n).pc = pc := (congrArg Seq.pc hx :).trans hstay.pc
        exact congrArg Host.Outcome.next (hend.trans (congrArg (fun v => State.after _ n 3 (v + 4) id) hpc))
      case fldAl =>
        have hl := State.load_misaligned (z := y) (n := n) (ea := ea) (k := 8) (al := 8)
          (fun _ => Bool.eq_false_iff.2 fun hd => absurd (detLoad_iff.1 hd).1 (Nat.not_lt.2 hk)) ha
        exact congrArg Host.Outcome.next (h.trap (hfld.trans (DataRes.andThen_trap hl)))
      case fstAl =>
        have hst := State.store_misaligned (z := y) (n := n) (ea := ea) (w := w) (k := 8) (al := 8) (v := b.toNat)
          (fun _ => detStore_mem 8 b.toNat hk) ha
        exact congrArg Host.Outcome.next (h.trap (hfst.trans (congrArg (fun v : DataRes => v.stored 3) hst)))
    case rdfc => exact fun h => congrArg Host.Outcome.next (hdone h (f := fun x => x.setReg (rdF w) q.fctl) (hop fun y q => y.putRd n w q.fctl 2) (Seq.kept_setReg _ _ _))
    case wrfc =>
      exact fun h => congrArg Host.Outcome.next (hdone h
        (f := fun x => { x with fctl := (q.fctl &&& ~~~0x1F7F) ||| (q.reg (rsF w) &&& 0x1F7F), fownD := true })
        (hop fun y q => .done (y.modSeq n fun x => { x with fctl := mrg fcMask q.fctl (q.reg (rsF w)), fownD := true }) 2 none) ⟨rfl, rfl, rfl, rfl⟩)
  case own =>
    intro q own
    refine ⟨State.floatOwn_own, fun a y hs ho ha hf => ?_, fun h ho => ?_, fun h ho hd => ?_, fun y h ho hd hy => ?_⟩
    · obtain ⟨m, rfl⟩ := State.anchor_seqs ha
      exact State.floatOwn_fresh hs ho ha hf
    · exact congrArg Host.Outcome.next (h.done (npc := none) (if_neg ho) h.holds)
    · refine congrArg Host.Outcome.next (h.moves (f := fun q => { q with fownV := false, fownD := false }) ((if_pos ho).trans ?_) ⟨rfl, rfl, rfl, rfl⟩)
      rw [show (z.seqs.at n).fownD = false from hd] <;> rfl
    · refine congrArg Host.Outcome.next (h.doneWith (f := fun q => { q with fownV := false, fownD := false }) (npc := none) ((if_pos ho).trans ?_)
        ⟨rfl, rfl, rfl, rfl⟩ (((State.floatSave_changes z n).done hy).mono rfl) (State.floatSave_stays hy))
      rw [show (z.seqs.at n).fownD = true from hd, if_pos rfl, hy] <;> rfl

end Sys2Proof.Machine

namespace Sys2Proof.Machine

/-! R318, R323, R341: how an instruction of `s` at its boundary runs. -/

section boundary
variable {s z : State} {n : Fin 16} {w : W32} {m : Mn}

/-- The instruction at pc is carried out where its fetch, a halt and its class allow it. -/
theorem State.macro_runs (hr : s.runnable n = true) (hh : s.haltFree n (s.wordAt n) = true) {o : Option Mn}
    (ho : o = (s.wordAt n).bind decodeMacro) : s.macro_ n o = s.execute n := by
  have hheld : (s.seqs.at n).held = none := by
    simp only [State.runnable, Bool.and_eq_true, Option.isNone_iff_eq_none] at hr
    exact hr.1.1.1.2
  unfold State.macro_
  rw [hheld]
  exact if_pos (by rw [hr, hh, decide_eq_true ho] <;> rfl)

theorem State.macro_word (hr : s.runnable n = true) (hh : s.haltFree n (some w) = true) (hw : s.wordAt n = some w)
    {o : Option Mn} (hm : decodeMacro w = o) : s.macro_ n o = s.execute n :=
  State.macro_runs hr (hw.symm ▸ hh) (by rw [hw]; exact hm.symm)

theorem State.execute_word (hb : s.begin_ n = (.word w, z)) : s.execute n = ((z.meaning n w).retire n w).ran n := by
  unfold State.execute
  rw [hb] <;> rfl

/-- R323: a fetch of vendor microcode that meets a double-bit error. -/
theorem State.execute_cs {u : Nat} (hb : s.begin_ n = (.cs u, z)) :
    s.execute n = ((z.csFault n (z.seqs.at n).cx u .csEcc).channelFault n .csEcc).ran n := by
  unfold State.execute
  rw [hb] <;> rfl

theorem State.channelFault_ecc (z : State) {c : FCause} (hc : c = .csEcc ∨ c = .ctxEcc) :
    let y := z.faultChan (z.seqs.at n).cx c
    let x := y.chans.at (z.seqs.at n).cx
    z.channelFault n c = { y with chans := y.chans.upd (z.seqs.at n).cx (if x.det = true then x.breached .ecc z.now else x) } := by
  intro y x
  have hx : z.channelFault n c = if (c = .csEcc ∨ c = .ctxEcc) ∧ x.det then
      y.modChan (z.seqs.at n).cx fun x => x.breached .ecc z.now else y := rfl
  rw [hx]
  by_cases hd : x.det = true
  · rw [if_pos ⟨hc, hd⟩, if_pos hd] <;> rfl
  · rw [if_neg fun h => hd h.2, if_neg hd]
    exact congrArg (fun b => ({ y with chans := b } : State)) (Bank.upd_at y.chans _).symm

/-- An instruction that ends in a fault of its channel. -/
theorem State.At.faults (h : s.At n m w z) {y : State} {k : Nat} {c : FCause} (hs : m.sem z n w = .fault y k c) :
    s.macro_ n (some m) = ((y.uw n k).channelFault n c).ran n := by
  rw [h.execute, hs] <;> rfl

end boundary

/-! R319, R324 to R328, R339: customer microcode. -/

section micro
variable {z s0 : State} {n : Fin 16} {w u : W32} {m : Micro}

theorem State.csCheck_clean {k : Fin 4} {x : Nat} (hu : x ∉ (z.cs.copies.at k).unc) (hc : x ∉ (z.cs.copies.at k).corr) :
    z.csCheck k x = (true, z) := (if_neg hu).trans (if_neg hc)

/-- R324: a microword that is carried out where its fetch meets no error. -/
theorem State.microRun_word {k : Nat} (hm : 0x4000 ≤ m.upc) (hu : m.upc ∉ (z.cs.copies.at (seqCluster n)).unc)
    (hc : m.upc ∉ (z.cs.copies.at (seqCluster n)).corr) (hw : (z.cs.copies.at (seqCluster n)).word m.upc = w) :
    s0.microRun n (k + 1) z m =
      s0.microEnd z n { m with cost := m.cost + 1 } k w (s0.microRun n k) (({ m with cost := m.cost + 1 } : Micro).exec z n w) := by
  have hpatch : (z.cs.copies.at (seqCluster n)).patch m.upc = m.upc := if_neg (Nat.not_lt.2 hm)
  have hfetch : m.fetchFrom (z.cs.copies.at (seqCluster n)) = m := congrArg (fun x => ({ m with upc := x } : Micro)) hpatch
  have hfetched : (z.cs.copies.at (seqCluster n)).fetched m.upc = w := (if_neg (Nat.not_lt.2 hm)).trans hw
  rw [State.microRun]
  dsimp only
  rw [hfetch, State.csCheck_clean hu hc]
  dsimp only
  rw [hfetched]

/-- R326: a result that goes to a general register. -/
theorem Micro.result_reg {d r : Nat} (hr : m.genReg d = some r) (v : W32) (f : Nzcv) :
    m.result z n d v f = .ok (z.modSeq n fun q => q.setReg r v) { m with fl := f, cmt := true } := by
  have hg : ({ m with fl := f } : Micro).genReg d = some r := hr
  unfold Micro.result Micro.set
  rw [hg]

theorem runsOff_ending (hu : bit u 28 = true) : m.runsOff u = false := by
  unfold Micro.runsOff
  rw [hu, Bool.not_true, Bool.and_false, Bool.false_and, Bool.false_and]

theorem Micro.exec_reg (hu : fldN u 29 3 = 0) (he : bit u 28 = true) : m.exec z n u = m.execReg z n u := by
  have hv : vendorSys u = false := by
    unfold vendorSys
    rw [hu] <;> rfl
  unfold Micro.exec
  rw [runsOff_ending he, hv, hu, if_neg Bool.false_ne_true, if_neg Bool.false_ne_true] <;> rfl

/-- R328: an operation of format REG. -/
theorem Micro.execReg_op {op : AluOp} (ho : regOp (fldN u 22 6) = some op) (hf : fldN u 0 4 = 0) (hd : uD u < 62) (ha : uA u < 62)
    (hb : uB u < 62) (h1 : op.unary = true → uB u = 0) : m.execReg z n u =
      m.result z n (uD u) (op.value (m.get (z.seqs.at n) (uA u)) (if op.unary then 0 else m.get (z.seqs.at n) (uB u)) m.fl.c)
        (op.microFlags m.fl (m.get (z.seqs.at n) (uA u)) (if op.unary then 0 else m.get (z.seqs.at n) (uB u))) := by
  have hok : ¬ (fldN u 0 4 ≠ 0 ∨ (!selOk (uD u)) = true ∨ (!selOk (uA u)) = true ∨ (!selOk (uB u)) = true ∨ (op.unary = true ∧ uB u ≠ 0)) := by
    simp only [selOk, hf, hd, ha, hb, decide_true, Bool.not_true, ne_eq, not_true_eq_false, Bool.false_eq_true, false_or]
    exact fun h => h.2 (h1 h.1)
  unfold Micro.execReg
  dsimp only
  rw [ho]
  exact if_neg hok

/-- R324: formats that only the vendor's microcode has are illegal in the customer's. -/
theorem Micro.exec_seven (hm : m.vend = false) (hu : fldN u 29 3 = 7) : m.exec z n u = .illegal := by
  have hv : vendorSys u = false := by
    unfold vendorSys
    rw [hu] <;> rfl
  have hvend : m.execVend z n u = .illegal := if_pos (by rw [hm] <;> rfl)
  unfold Micro.exec
  rw [hv, hu, if_neg Bool.false_ne_true]
  split
  · rfl
  · exact hvend

end micro

/-! R319, R339: the entry of customer microcode. -/

section cux
variable {z : State} {n : Fin 16} {w : W32}

/-- The word of the entry that the instruction `w` names. -/
def State.cuxWord (z : State) (n : Fin 16) (w : W32) : W32 := (z.cs.copies.at (seqCluster n)).word (0x6000 + fnF w)

/-- R339: the entry is valid, and its microcode begins in the customer's region. -/
def State.CuxOpen (z : State) (n : Fin 16) (w : W32) : Prop :=
  bit (z.cuxWord n w) 31 = true ∧ 0x6040 ≤ fldN (z.cuxWord n w) 0 15 ∧ fldN (z.cuxWord n w) 0 15 < 0x8000

/-- The fetch of the entry meets no error. -/
def State.CuxClean (z : State) (n : Fin 16) (w : W32) : Prop :=
  0x6000 + fnF w ∉ (z.cs.copies.at (seqCluster n)).unc ∧ 0x6000 + fnF w ∉ (z.cs.copies.at (seqCluster n)).corr

theorem State.doCux_eq (h : z.CuxClean n w) : z.doCux n w =
    if (!bit (z.cuxWord n w) 31 || !customer (fldN (z.cuxWord n w) 0 15)) = true then z.trapped 4 0 w
    else if 48 ≤ fnF w ∧ (!(z.seqs.at n).sec) = true then z.trapped 5 0 w
    else z.microRun n z.cs.maxUw z (Micro.entry w ((z.seqs.at n).pc + 4) (fldN (z.cuxWord n w) 0 15)) := by
  unfold State.doCux
  dsimp only
  rw [State.csCheck_clean h.1 h.2] <;> rfl

theorem State.cuxOpen_iff : z.CuxOpen n w ↔ ¬ (!bit (z.cuxWord n w) 31 || !customer (fldN (z.cuxWord n w) 0 15)) = true := by
  unfold State.CuxOpen customer
  rw [Bool.or_eq_true, Bool.not_eq_true', Bool.not_eq_true', decide_eq_false_iff_not, not_or, Bool.not_eq_false, not_not]

theorem State.doCux_closed (h : z.CuxClean n w) (ho : ¬ z.CuxOpen n w) : z.doCux n w = z.trapped 4 0 w :=
  (State.doCux_eq h).trans (if_pos (by_contra fun k => ho (State.cuxOpen_iff.2 k)))

theorem State.doCux_secure (h : z.CuxClean n w) (ho : z.CuxOpen n w) (hw : 48 ≤ fnF w) (hs : (z.seqs.at n).sec = false) :
    z.doCux n w = z.trapped 5 0 w :=
  (State.doCux_eq h).trans ((if_neg (State.cuxOpen_iff.1 ho)).trans (if_pos ⟨hw, by rw [hs] <;> rfl⟩))

theorem State.doCux_runs (h : z.CuxClean n w) (ho : z.CuxOpen n w) (hw : fnF w < 48 ∨ (z.seqs.at n).sec = true) :
    z.doCux n w = z.microRun n z.cs.maxUw z (Micro.entry w ((z.seqs.at n).pc + 4) (fldN (z.cuxWord n w) 0 15)) := by
  refine (State.doCux_eq h).trans ((if_neg (State.cuxOpen_iff.1 ho)).trans (if_neg fun hn => ?_))
  rcases hw with hw | hw
  · exact absurd hn.1 (Nat.not_le.2 hw)
  · exact absurd hn.2 (by rw [hw] <;> nofun)

end cux

/-- Settles O59. -/
theorem macroChannelAndMicrocode : Obligations.MacroChannelAndMicrocode := by
  unfold Obligations.MacroChannelAndMicrocode
  intro s z n w q
  refine ⟨fun h => ?yield, fun h => ?stop, fun i m u hi hr hh hf hm hb => ?cs, fun i m hr hh hb hp hm hi => ?patched, ?cux⟩
  case yield =>
    exact congrArg Host.Outcome.next (h.moves (f := fun q => { q with swReq := true, yielded := true })
      (congrArg (fun y => Res.done y 2 none) (z.modSeq_modSeq n _ _)) ⟨rfl, rfl, rfl, rfl⟩)
  case stop =>
    exact congrArg Host.Outcome.next (h.moves (f := fun q => { q with swReq := true, stopI := true })
      (congrArg (fun y => Res.done y 2 none) (z.modSeq_modSeq n _ _)) ⟨rfl, rfl, rfl, rfl⟩)
  case cs =>
    intro y c d
    have hw : s.wordAt n = some w := by
      unfold State.wordAt
      rw [hf]
    have hexec : exec i s = .next (s.macro_ n (some m)) := by
      rcases hi with ⟨rfl, rfl⟩ | ⟨rfl, rfl⟩ <;> rfl
    rw [hexec, State.macro_word hr hh hw hm, State.execute_cs hb]
    exact congrArg (fun y => Host.Outcome.next (State.ran y n)) (State.channelFault_ecc (n := n) (z.csFault n q.cx u .csEcc) (.inl rfl))
  case patched =>
    have hexec : exec i s = .next (s.macro_ n (some m)) := by
      refine (?_ : ∀ p ∈ _, exec p.1 s = .next (s.macro_ n (some p.2))) (i, m) hi
      repeat refine List.forall_mem_cons.2 ⟨rfl, ?_⟩
      exact List.forall_mem_nil _
    rw [hexec, State.macro_word hr hh (State.begin_word hb) hm, State.execute_word hb]
    exact congrArg (fun r => Host.Outcome.next ((Res.retire r n w).ran n)) (if_pos hp)
  case cux =>
    intro k copy at_ e start u open_ m h hu hc
    refine ⟨fun ho => ?_, fun ho hw hs => ?_, fun ho hw hu' hc' hmax => ?_⟩
    · exact congrArg Host.Outcome.next (h.trap (State.doCux_closed ⟨hu, hc⟩ ho))
    · exact congrArg Host.Outcome.next (h.trap (State.doCux_secure ⟨hu, hc⟩ ho hw hs))
    · obtain ⟨j, hj⟩ := Nat.exists_eq_succ_of_ne_zero hmax
      have hlow : 0x4000 ≤ start := le_trans (by decide) ho.2.1
      have hrun : z.doCux n w = z.microEnd z n { m with cost := 3 } j u (z.microRun n j) (({ m with cost := 3 } : Micro).exec z n u) := by
        rw [State.doCux_runs ⟨hu, hc⟩ ho hw, hj]
        exact State.microRun_word hlow hu' hc' rfl
      refine ⟨fun op r hf he hop hz hd ha hb h1 hr => ?_, fun hf => ?_⟩
      · have hop' := (Micro.execReg_op (z := z) (n := n) (m := { m with cost := 3 }) hop hz hd ha hb h1).trans (Micro.result_reg (m := { m with cost := 3 }) hr _ _)
        rw [Micro.exec_reg hf he, hop'] at hrun
        refine congrArg Host.Outcome.next (h.regs (npc := some ((z.seqs.at n).pc + 4)) (f := fun x => x.setReg r
          (op.value (m.get q (uA u)) (if op.unary then 0 else m.get q (uB u)) false)) (hrun.trans (if_pos he)) (by simp) (by simp) (by simp) (by simp))
      · rw [Micro.exec_seven rfl hf] at hrun
        exact congrArg Host.Outcome.next (h.faults hrun)

end Sys2Proof.Machine

namespace Sys2Proof.Machine

/-! R133, R351: what a fault and a breach make of their channel. -/

section faults
variable {s y : State} {n : Fin 16} {c : Fin 256}

/-- R351: a channel that a fault with cause `k` meets. -/
def Channel.faulted (x : Channel) (k : FCause) : Channel :=
  match x.st with
  | .run | .ready | .blocked | .draining => { x with st := .fault, faultF := true, fcause := k }
  | .waitPool => { x with faultRec := some (x.faultRec.getD k) }
  | _ => x

theorem Channel.faulted_live {x : Channel} (h : x.st = .run ∨ x.st = .ready ∨ x.st = .blocked ∨ x.st = .draining) (k : FCause) :
    x.faulted k = { x with st := .fault, faultF := true, fcause := k } := by
  unfold Channel.faulted
  rcases h with h | h | h | h <;> rw [h]

theorem Channel.faulted_firstFetch (x : Channel) (k : FCause) : (x.faulted k).firstFetch = x.firstFetch := by
  unfold Channel.faulted
  split <;> rfl

/-- The same but for a switch that may be requested of each sequencer. -/
def SwitchAsked (a b : Bank Seq 16) : Prop := ∀ n, ∃ r, b.at n = { a.at n with swReq := r }

theorem SwitchAsked.refl (a : Bank Seq 16) : SwitchAsked a a := fun n => ⟨(a.at n).swReq, rfl⟩

theorem SwitchAsked.upd (a : Bank Seq 16) (m : Fin 16) : SwitchAsked a (a.upd m { a.at m with swReq := true }) := by
  intro n
  by_cases h : n = m
  · exact ⟨true, by rw [h]; exact Bank.at_upd_self _ _ _⟩
  · exact ⟨(a.at n).swReq, Bank.at_upd_ne _ _ h⟩

theorem State.faultChan_live (h : (s.chans.at c).st = .run ∨ (s.chans.at c).st = .ready ∨ (s.chans.at c).st = .blocked ∨ (s.chans.at c).st = .draining)
    (k : FCause) : s.faultChan c k = { s with
      seqs := if (s.chans.at c).res then s.seqs.upd (s.chans.at c).sq { s.seqs.at (s.chans.at c).sq with swReq := true } else s.seqs
      chans := s.chans.upd c { s.chans.at c with st := .fault, faultF := true, fcause := k } } := by
  have hfault : (if (s.chans.at c).res then
      ({ s with chans := s.chans.upd c { s.chans.at c with st := .fault, faultF := true, fcause := k } } : State).reqSwitch (s.chans.at c).sq
      else { s with chans := s.chans.upd c { s.chans.at c with st := .fault, faultF := true, fcause := k } }) = { s with
        seqs := if (s.chans.at c).res then s.seqs.upd (s.chans.at c).sq { s.seqs.at (s.chans.at c).sq with swReq := true } else s.seqs
        chans := s.chans.upd c { s.chans.at c with st := .fault, faultF := true, fcause := k } } := by
    split <;> rfl
  unfold State.faultChan
  dsimp only
  rcases h with h | h | h | h
  all_goals
    rw [h]
    exact hfault

/-- A fault changes its channel, and may ask a sequencer for a switch. -/
theorem State.faultChan_eq (s : State) (c : Fin 256) (k : FCause) :
    ∃ q, s.faultChan c k = { s with chans := s.chans.upd c ((s.chans.at c).faulted k), seqs := q } ∧ SwitchAsked s.seqs q := by
  by_cases h : (s.chans.at c).st = .run ∨ (s.chans.at c).st = .ready ∨ (s.chans.at c).st = .blocked ∨ (s.chans.at c).st = .draining
  · rw [Channel.faulted_live h, State.faultChan_live h]
    refine ⟨_, rfl, ?_⟩
    split
    · exact .upd _ _
    · exact .refl _
  · refine ⟨s.seqs, ?_, .refl _⟩
    unfold State.faultChan Channel.faulted
    dsimp only
    cases hst : (s.chans.at c).st
    case run => exact absurd (.inl hst) h
    case ready => exact absurd (.inr (.inl hst)) h
    case blocked => exact absurd (.inr (.inr (.inl hst))) h
    case draining => exact absurd (.inr (.inr (.inr hst))) h
    case waitPool => rfl
    all_goals exact congrArg (fun b => ({ s with chans := b } : State)) (Bank.upd_at s.chans c).symm

/-- R133: a channel that a breach meets. -/
def Channel.inBreach (x : Channel) (k : BreachCond) (t : W64) : Channel := if x.st = .off then x else (x.breached k t).faulted .breach

theorem Channel.breached_firstFetch (x : Channel) (k : BreachCond) (t : W64) : (x.breached k t).firstFetch = x.firstFetch := by
  unfold Channel.breached
  split
  · rfl
  · split <;> rfl

theorem Channel.inBreach_firstFetch (x : Channel) (k : BreachCond) (t : W64) : (x.inBreach k t).firstFetch = x.firstFetch := by
  unfold Channel.inBreach
  split
  · rfl
  · rw [Channel.faulted_firstFetch, Channel.breached_firstFetch]

theorem State.breach_eq (s : State) (c : Fin 256) (k : BreachCond) :
    ∃ q, s.breach c k = { s with chans := s.chans.upd c ((s.chans.at c).inBreach k s.now), seqs := q } ∧ SwitchAsked s.seqs q := by
  unfold State.breach Channel.inBreach
  dsimp only
  by_cases h : (s.chans.at c).st = .off
  · rw [if_pos h, if_pos h, Bank.upd_at]
    exact ⟨s.seqs, rfl, .refl _⟩
  · rw [if_neg h, if_neg h]
    obtain ⟨q, hq, ha⟩ := State.faultChan_eq { s with chans := s.chans.upd c ((s.chans.at c).breached k s.now) } c .breach
    refine ⟨q, hq.trans ?_, ha⟩
    have hat : (s.chans.upd c ((s.chans.at c).breached k s.now)).at c = (s.chans.at c).breached k s.now := Bank.at_upd_self _ _ _
    exact congrArg (fun b => ({ s with chans := b, seqs := q } : State)) ((congrArg (fun x : Channel => Bank.upd _ c (x.faulted .breach)) hat).trans
      (Bank.upd_upd _ _ _ _))

theorem State.breach_firstFetch (s : State) (c : Fin 256) (k : BreachCond) : ((s.breach c k).chans.at c).firstFetch = (s.chans.at c).firstFetch := by
  obtain ⟨q, hq, -⟩ := s.breach_eq c k
  have hat : (s.chans.upd c ((s.chans.at c).inBreach k s.now)).at c = (s.chans.at c).inBreach k s.now := Bank.at_upd_self _ _ _
  rw [hq]
  exact (congrArg Channel.firstFetch hat).trans (Channel.inBreach_firstFetch _ _ _)

end faults

/-! R132, R259, R260: trap entry. -/

section entry
variable {s z y : State} {n : Fin 16} {t : Trap}

/-- The cause of the trap `t` in one word. -/
theorem Trap.cause_eq (hc : t.code < 2 ^ 16) (hd : t.detail < 2 ^ 16) : t.cause = BitVec.ofNat 32 (t.code + 2 ^ 16 * t.detail) := by
  refine BitVec.eq_of_toNat_eq ?_
  have hor : t.detail * 2 ^ 16 ||| t.code = t.detail * 2 ^ 16 + t.code := by
    rw [← Nat.shiftLeft_eq]
    exact (Nat.shiftLeft_add_eq_or_of_lt hc _).symm
  simp only [Trap.cause, put, BitVec.toNat_or, BitVec.toNat_ofNat, Nat.pow_zero, Nat.mul_one]
  rw [Nat.mod_eq_of_lt (show t.detail * 2 ^ 16 < 2 ^ 32 by omega), Nat.mod_eq_of_lt (show t.code < 2 ^ 32 by omega), hor]
  omega

/-- R266: the registers that note the trap `t` with the cause `k`. -/
def Seq.noted (q : Seq) (k : W32) (t : Trap) : Seq :=
  { q with trapF := true, ltpc := q.pc, resv := none, tcause := k, tval := t.tval, ltrap := put 24 q.cx.val ||| t.cause, ltval := t.tval }

/-- The channel of sequencer `n` makes its first fetch at TVEC, and the trap is one of its fetch. -/
def State.doubles (s : State) (n : Fin 16) (t : Trap) : Prop := (s.chans.at (s.seqs.at n).cx).firstFetch = true ∧ (t.code = 1 ∨ t.code = 2)

theorem State.trapEntry_double (h : s.doubles n t) : s.trapEntry n t = (s.modSeq n fun q => q.noted (putB 31 true ||| t.cause) t).noHandler n := by
  refine (if_pos h).trans ?_
  unfold State.doubleTrap
  rw [State.modSeq_modSeq]
  rfl

theorem State.trapEntry_unhandled (h : ¬ s.doubles n t) (hv : (s.seqs.at n).tvec = 0) :
    s.trapEntry n t = (s.modSeq n fun q => q.noted t.cause t).noHandler n := by
  refine (if_neg h).trans ((if_pos hv).trans ?_)
  rw [State.modSeq_modSeq]
  rfl

theorem State.trapEntry_handled (h : ¬ s.doubles n t) (hv : (s.seqs.at n).tvec ≠ 0) (hu : (s.cs.copies.at (seqCluster n)).unc = []) :
    ∃ k, s.trapEntry n t = State.trapWindow { s.modSeq n (fun q => q.noted t.cause t) with cs := k } n t := by
  obtain ⟨k, hk⟩ := State.vendorFetch_frame (s.modSeq n fun q => q.noted t.cause t) n .trapEntry
  have hfetch : (s.modSeq n fun q => q.noted t.cause t).vendorFetch n .trapEntry = (none, { s.modSeq n (fun q => q.noted t.cause t) with cs := k }) :=
    Prod.ext (State.vendorFetch_none .trapEntry hu) hk
  refine ⟨k, ?_⟩
  unfold State.trapEntry
  refine (if_neg h).trans ((if_neg hv).trans ?_)
  rw [State.modSeq_modSeq]
  change (match (s.modSeq n fun q => q.noted t.cause t).vendorFetch n .trapEntry with
    | (some u, s3) => (s3.csFault n (s.seqs.at n).cx u .csEcc).channelFault n .csEcc
    | (none, s3) => s3.trapWindow n t) = _
  rw [hfetch]

/-- A trap without a handler. -/
theorem State.noHandler_eq {f : Seq → Seq} (hf : (f (s.seqs.at n)).cx = (s.seqs.at n).cx) :
    ∃ q r, (s.modSeq n f).noHandler n = { s with chans := s.chans.upd (s.seqs.at n).cx ((s.chans.at (s.seqs.at n).cx).faulted .noHandler), seqs := q } ∧
      q.at n = { f (s.seqs.at n) with swReq := r } := by
  have hat : (s.modSeq n f).seqs.at n = f (s.seqs.at n) := Bank.at_upd_self _ _ _
  obtain ⟨q, hq, ha⟩ := State.faultChan_eq (s.modSeq n f) ((s.modSeq n f).seqs.at n).cx .noHandler
  obtain ⟨r, hr⟩ := ha n
  refine ⟨q, r, ?_, hr.trans (congrArg (fun p : Seq => { p with swReq := r }) hat)⟩
  refine hq.trans ?_
  rw [hat, hf] <;> rfl

/-- R260, R266: the second cause of a double trap. -/
def Seq.doubled (q : Seq) (t : Trap) : Seq :=
  { q with tcause := putB 31 true ||| t.cause, tval := t.tval, ltrap := put 24 q.cx.val ||| t.cause, ltval := t.tval }

/-- R260: the registers below m0 are as they were. -/
theorem Seq.entered_low (q : Seq) {j : Nat} (hj : j < 16) : q.entered.reg j = q.reg j := by
  have hk : j / 8 % 4 = 0 ∨ j / 8 % 4 = 1 := by omega
  unfold Seq.reg Seq.entered
  rcases hk with hk | hk
  all_goals
    rw [hk]
    rfl

/-- R242: the second cause of a trap entry without room for a spill. -/
theorem cause_noRoom (v : W32) : Trap.cause { code := 15, detail := 0, tval := v } = 15 := by
  unfold Trap.cause
  dsimp only
  decide

/-- R245, R260: a trap entry whose window would spill a frame where none more may be. -/
theorem State.trapWindow_full {a : Anchor} (h7 : wvCount (s.seqs.at n).wv = 7) (ha : s.anchor n (s.seqs.at n).cx = (some a, y)) (hl : 255 ≤ a.spcnt) :
    s.trapWindow n t = (y.modSeq n fun q => q.doubled { code := 15, detail := 0, tval := BitVec.ofNat 32 a.spcnt }).noHandler n := by
  have hopen : s.wopen n 255 = .trap y { code := 15, detail := 0, tval := BitVec.ofNat 32 a.spcnt } := by
    unfold State.wopen
    refine (if_pos h7).trans ?_
    rw [ha]
    exact if_pos hl
  unfold State.trapWindow
  rw [hopen] <;> rfl

theorem State.trapWindow_room (h7 : wvCount (s.seqs.at n).wv ≠ 7) : ∃ q f, s.trapWindow n t = { s with
      seqs := q, free := f, chans := s.chans.upd (s.seqs.at n).cx { s.chans.at (s.seqs.at n).cx with firstFetch := true } } ∧
    q.at n = { ((s.seqs.at n).opened s.free).entered with uwcnt := (s.seqs.at n).uwcnt + BitVec.ofNat 32 18 } := by
  have hat : ((s.setSeq n ((s.seqs.at n).opened s.free)).modSeq n Seq.entered).seqs.at n = ((s.seqs.at n).opened s.free).entered :=
    (Bank.at_upd_self _ _ _).trans (congrArg Seq.entered State.setSeq_at)
  refine ⟨_, _, State.trapWindow_of (z := { s.setSeq n ((s.seqs.at n).opened s.free) with free := s.free + 16 }) (State.wopen_room 255 h7), ?_⟩
  exact (Bank.at_upd_self _ _ _).trans (congrArg (fun q : Seq => { q with uwcnt := q.uwcnt + BitVec.ofNat 32 18 }) hat)

theorem State.anchor_fst {c : Fin 256} (h : y.mem = z.mem) : (y.anchor n c).1 = (z.anchor n c).1 := by
  obtain ⟨v, m, hr⟩ : ∃ v m, z.mem.read n.val (descAddr c + 48) 8 = (v, m) := ⟨_, _, rfl⟩
  have hread (x : State) (hx : x.mem = z.mem) : x.memRead n.val (descAddr c + 48) 8 = (v, { x with mem := m }) := by
    unfold State.memRead
    rw [hx, hr]
  unfold State.anchor State.ctxRead State.ctxRead
  rw [hread y h, hread z rfl]
  cases v <;> rfl

/-- R236: a fetch from a line of program memory. -/
theorem State.fetch_line {x : IbLine} (h : ¬ ((s.seqs.at n).pc.toNat % 4 ≠ 0 ∨ 0x80000 ≤ (s.seqs.at n).pc.toNat))
    (hl : s.lineOf (seqCluster n) ((s.seqs.at n).pc.toNat / 64) = (x, y)) : s.fetch n =
      (if x.bad.contains ((s.seqs.at n).pc.toNat % 64 / 8) then .error { code := 1, detail := 0, tval := (s.seqs.at n).pc }
        else .ok (x.words.getD ((s.seqs.at n).pc.toNat % 64 / 4) 0), y) := by
  unfold State.fetch
  dsimp only
  rw [if_neg h, hl]
  dsimp only
  split <;> rfl

/-- R132: the machine at the entry of a trap. -/
theorem State.eccTrap_eq (z : State) (n : Fin 16) (u : Nat) (t : Trap) :
    ∃ q r, (z.uw n u).eccTrap n t = { z with
      chans := (if (t.code = 1 ∨ t.code = 11) ∧ (z.chans.at (z.seqs.at n).cx).det = true then z.breach (z.seqs.at n).cx .ecc else z).chans
      seqs := q } ∧ q.at n = { z.seqs.at n with uwcnt := (z.seqs.at n).uwcnt + BitVec.ofNat 32 u, swReq := r } := by
  have hat : (z.uw n u).seqs.at n = { z.seqs.at n with uwcnt := (z.seqs.at n).uwcnt + BitVec.ofNat 32 u } := Bank.at_upd_self _ _ _
  have hcx : ((z.uw n u).seqs.at n).cx = (z.seqs.at n).cx := (congrArg Seq.cx hat :)
  unfold State.eccTrap
  dsimp only
  rw [hcx]
  by_cases h : (t.code = 1 ∨ t.code = 11) ∧ (z.chans.at (z.seqs.at n).cx).det = true
  · obtain ⟨q, hq, ha⟩ := State.breach_eq (z.uw n u) (z.seqs.at n).cx .ecc
    obtain ⟨q', hq', -⟩ := State.breach_eq z (z.seqs.at n).cx .ecc
    obtain ⟨r, hr⟩ := ha n
    rw [if_pos h, hq']
    exact ⟨q, r, (if_pos h).trans hq, hr.trans (congrArg (fun p : Seq => { p with swReq := r }) hat)⟩
  · rw [if_neg h]
    exact ⟨(z.uw n u).seqs, (z.seqs.at n).swReq, if_neg h, hat⟩

end entry

/-- Settles O60. -/
theorem takingATrap : Obligations.TakingATrap := by
  unfold Obligations.TakingATrap
  refine ⟨fun s z n w => ?word, fun z n t u => ?entry, fun z c f => ?fault, fun z c k => ?breach⟩
  case word =>
    refine ⟨fun h => congrArg Host.Outcome.next (h.trap rfl), fun hr hh hb hp hm => ?illegal, fun t hr hh hf => ?fetch, ?line⟩
    case illegal =>
      have hmean : z.meaning n w = z.trapped 3 0 w := by
        unfold State.meaning
        rw [hp, if_neg Bool.false_ne_true, hm]
      have hrun := (State.macro_word hr hh (State.begin_word hb) hm).trans (State.execute_word hb)
      rw [hmean] at hrun
      exact congrArg Host.Outcome.next hrun
    case fetch =>
      have hw : s.wordAt n = none := by
        unfold State.wordAt
        rw [hf]
      have hrun : s.macro_ n none = s.execute n := State.macro_runs hr (hw.symm ▸ hh) (by rw [hw] <;> rfl)
      refine congrArg Host.Outcome.next (hrun.trans ?_)
      unfold State.execute State.begin_
      rw [hf] <;> rfl
    case line =>
      intro pc
      exact ⟨fun h => if_pos h, fun h4 hlt x y hl => State.fetch_line (fun h => h.elim (fun h => h h4) (Nat.not_le.2 hlt)) hl⟩
  case entry =>
    intro q y x cause last b double clean stops hc hd
    obtain ⟨d, hy⟩ := z.trapsTo_frame n u t
    obtain ⟨p, r, he, hp⟩ := z.eccTrap_eq n u t
    have hb : (if (t.code = 1 ∨ t.code = 11) ∧ (z.chans.at (z.seqs.at n).cx).det = true then z.breach (z.seqs.at n).cx .ecc else z) = b := rfl
    rw [hb] at he
    have hcause : t.cause = cause := Trap.cause_eq hc hd
    have hff : (b.chans.at q.cx).firstFetch = (z.chans.at q.cx).firstFetch := by
      rw [← hb]
      split
      · exact State.breach_firstFetch z q.cx .ecc
      · rfl
    obtain ⟨e, heq⟩ : ∃ e : State, e = { z with chans := b.chans, seqs := p } := ⟨_, rfl⟩
    rw [he, ← heq] at hy
    have hq : e.seqs.at n = { q with uwcnt := q.uwcnt + BitVec.ofNat 32 u, swReq := r } := by
      rw [heq]
      exact hp
    have hcx : (e.seqs.at n).cx = q.cx := (congrArg Seq.cx hq :)
    have htvec : (e.seqs.at n).tvec = q.tvec := (congrArg Seq.tvec hq :)
    have hchans : e.chans = b.chans := by rw [heq]
    have hmem : e.mem = z.mem := by rw [heq]
    have hcs : e.cs = z.cs := by rw [heq]
    have hdouble : e.doubles n t ↔ double := by
      unfold State.doubles
      rw [hcx, hchans, hff]
    have hstops {f : Seq → Seq} {g : State} (hg : g.chans = b.chans) (hgx : (g.seqs.at n).cx = q.cx)
        (hf : (f (g.seqs.at n)).cx = (g.seqs.at n).cx) (h : e.trapEntry n t = (g.modSeq n f).noHandler n) :
        stops ∧ ∃ r, x = { f (g.seqs.at n) with swReq := r } := by
      obtain ⟨p1, r1, h1, h2⟩ := State.noHandler_eq (s := g) hf
      obtain ⟨p2, h3, -⟩ := b.faultChan_eq q.cx .noHandler
      have hy1 : y = { (g.modSeq n f).noHandler n with dbg := d } := hy.trans (congrArg (fun s : State => { s with dbg := d }) h)
      refine ⟨?_, r1, ?_⟩
      · change y.chans = (b.faultChan q.cx .noHandler).chans
        rw [hy1, h1, h3, hgx, hg]
      · change y.seqs.at n = _
        rw [hy1, h1]
        exact h2
    refine ⟨fun hn hv hcl h7 => ?enters, fun hn hv => ?unhandled, fun hn => ?doubled, fun a s2 hn hv hcl h7 ha hl => ?full⟩
    case unhandled =>
      obtain ⟨hs, r', hx⟩ := hstops hchans hcx rfl (State.trapEntry_unhandled (mt hdouble.1 hn) (htvec.trans hv))
      rw [hq, Seq.noted, hcause] at hx
      exact ⟨(congrArg Seq.tcause hx :), (congrArg Seq.tval hx :), (congrArg Seq.ltrap hx :), (congrArg Seq.ltval hx :), (congrArg Seq.pc hx :), hs⟩
    case doubled =>
      obtain ⟨hs, r', hx⟩ := hstops hchans hcx rfl (State.trapEntry_double (hdouble.2 hn))
      rw [hq, Seq.noted, hcause] at hx
      exact ⟨(congrArg Seq.tcause hx :), (congrArg Seq.tval hx :), (congrArg Seq.ltrap hx :), (congrArg Seq.ltval hx :), (congrArg Seq.pc hx :), hs⟩
    case enters =>
      obtain ⟨k, hk⟩ := State.trapEntry_handled (mt hdouble.1 hn) (htvec ▸ hv) (hcs ▸ hcl)
      have hat : (e.modSeq n fun q => q.noted t.cause t).seqs.at n = (e.seqs.at n).noted t.cause t := Bank.at_upd_self _ _ _
      obtain ⟨p1, f1, h1, h2⟩ := State.trapWindow_room (s := { e.modSeq n (fun q => q.noted t.cause t) with cs := k }) (n := n) (t := t)
        (by rw [hat, hq]; exact h7)
      rw [hat, hq, hcause] at h2
      rw [hat] at h1
      have hy1 := hy.trans (congrArg (fun s : State => { s with dbg := d }) (hk.trans h1))
      have hx : x = p1.at n := congrArg (fun s : State => s.seqs.at n) hy1
      have hy2 : y.chans = e.chans.upd (e.seqs.at n).cx { e.chans.at (e.seqs.at n).cx with firstFetch := true } := congrArg State.chans hy1
      have hy3 : y.mem = z.mem := (congrArg State.mem hy1).trans hmem
      rw [hchans, hcx] at hy2
      rw [hx, h2]
      obtain ⟨v, hv⟩ : ∃ v : Seq, v = ({ q with uwcnt := q.uwcnt + BitVec.ofNat 32 u, swReq := r } : Seq).noted cause t := ⟨_, rfl⟩
      have hlow {j : Nat} (hj : j < 8) : v.reg j = q.reg j ∧ v.reg (24 + j) = q.reg (24 + j) := hv ▸ ⟨rfl, rfl⟩
      obtain ⟨h16, h17, h18⟩ := (v.opened e.free).entered_reg
      have hregs {j : Nat} (hj : j < 8) : (v.opened e.free).entered.reg j = q.reg j ∧ (v.opened e.free).entered.reg (8 + j) = q.reg (24 + j) :=
        ⟨((v.opened e.free).entered_low (by omega)).trans ((v.opened_reg e.free hj).1.trans (hlow hj).1),
          ((v.opened e.free).entered_low (by omega)).trans ((v.opened_reg e.free hj).2.trans (hlow hj).2)⟩
      refine ⟨rfl, rfl, rfl, ?_, ?_, ?_, rfl, fun j hj => ?_, rfl, rfl, rfl, rfl, congrArg (put 24 q.cx.val ||| ·) hcause, rfl, rfl, rfl, hy3, hy2⟩
      all_goals rw [← hv]
      · exact h16.trans (hv ▸ rfl)
      · exact h17.trans (hv ▸ rfl)
      · exact h18.trans (hv ▸ rfl)
      · exact hregs hj
    case full =>
      obtain ⟨k, hk⟩ := State.trapEntry_handled (mt hdouble.1 hn) (htvec ▸ hv) (hcs ▸ hcl)
      obtain ⟨w, hw⟩ : ∃ w : State, w = { e.modSeq n (fun q => q.noted t.cause t) with cs := k } := ⟨_, rfl⟩
      have hat : w.seqs.at n = (e.seqs.at n).noted t.cause t := by
        rw [hw]
        exact Bank.at_upd_self _ _ _
      have hwx : (w.seqs.at n).cx = q.cx := (congrArg Seq.cx hat :).trans hcx
      have hwa : (w.anchor n q.cx).1 = some a := by
        rw [State.anchor_fst (z := z) (by rw [hw]; exact hmem), ha]
      obtain ⟨m, hm⟩ := State.anchor_seqs (Prod.ext hwa rfl : w.anchor n q.cx = (some a, (w.anchor n q.cx).2))
      have hfull := State.trapWindow_full (s := w) (y := { w with mem := m }) (n := n) (t := t) (by rw [hat, hq]; exact h7)
        (by rw [hwx, ← hm]; exact Prod.ext hwa rfl) hl
      rw [← hw, hfull] at hk
      obtain ⟨hs, r', hx⟩ := hstops (g := { w with mem := m }) (by rw [hw]; exact hchans) hwx rfl hk
      rw [hat, hq, Seq.doubled, cause_noRoom] at hx
      exact ⟨(congrArg Seq.tcause hx :).trans (show putB 31 true ||| (15 : W32) = 0x8000000F by decide), (congrArg Seq.tval hx :), (congrArg Seq.ltrap hx :), (congrArg Seq.ltval hx :), (congrArg Seq.pc hx :), hs⟩
  case fault =>
    intro x h
    exact ⟨_, State.faultChan_live h f, rfl⟩
  case breach =>
    intro x
    refine ⟨fun h => if_pos h, fun h => (if_neg h).trans ?_⟩
    refine congrArg (fun y => ({ z with chans := z.chans.upd c y } : State).faultChan c .breach) ?_
    unfold Channel.breached
    cases hb : x.breach with
    | none => exact (if_pos rfl).symm
    | some b =>
      refine Eq.trans (if_congr (and_congr_right fun _ => ⟨fun h => ⟨b, rfl, h⟩, fun ⟨b', h', h⟩ => ?_⟩) rfl rfl) (if_neg nofun).symm
      exact Option.some.inj h' ▸ h

end Sys2Proof.Machine
